-- ==== Sys2Proof/Word.lean ====
section
/-!
DEFINITION. Word.lean: the block's plain word types and the arithmetic that no reading of the spec could change.
-/

namespace Sys2Proof

/-- A byte of memory. -/
abbrev Byte := BitVec 8

/-- One aligned 32-bit register word (R6, R7). -/
abbrev W32 := BitVec 32

/-- One 64-bit register or a Fentoska general register. -/
abbrev W64 := BitVec 64

end Sys2Proof
end

