-- ==== Sys2Proof/Config.lean ====
section
/-!
DEFINITION. Config.lean: what one part of the family fixes (variant, grade, stepping, fitted memory), and the free values
of the spec. A free value is an opaque constant: nothing in Lean can evaluate it, so a claim that mentions it holds
whatever it is (log entry 6).
-/

namespace Sys2Proof

/-- What distinguishes one PX part from another (00_scope.md, "Parts covered"; R29; 13_memory_banks_and_lpddr.md MEM_CAP).
`dies` is 2, 4 or 8. `gradeE` selects the -E grade. `lpddrMiB` is the LPDDR5X capacity fitted per die, in MiB. `ranks` is
the number of ranks per channel. `serial` is the serial number that IDENTIFY returns. -/
structure Part where
  dies : Nat
  gradeE : Bool
  stepping : Nat
  lpddrMiB : Nat
  ranks : Nat
  serial : Nat
  deriving DecidableEq, Repr

/-- The three variants of "Parts covered". -/
def Part.wf (p : Part) : Bool := decide (p.dies = 2 ∨ p.dies = 4 ∨ p.dies = 8)

/-- The PX-220-S, the part whose reset state the model names (log entry 1). -/
def Part.px220 : Part := { dies := 2, gradeE := false, stepping := 0, lpddrMiB := 32768, ranks := 2, serial := 0 }

/-- The PX-880-E. -/
def Part.px880 : Part := { dies := 8, gradeE := true, stepping := 0, lpddrMiB := 32768, ranks := 2, serial := 0 }

/-- Fresh values for results that the spec calls undefined or leaves unordered (R214, R219, R222, R371), one for each
use of the counter `State.free`. -/
opaque Config.freeValue : Nat → Nat

/-- FP32 results of EW SUB 8, 9, 10, 11 and 13 (R254) where the formula has no value, by SUB and FP32 pattern (log entry 21). -/
opaque Config.fpUnary : Nat → Nat → Nat

/-- Whether the FP32 result of a function that is not exact is the value above the real one or the value below it, by function (its
SUB; 16 the square root of NORM) and FP32 pattern: the spec gives no rounding of them (log entry 21). -/
opaque Config.roundUp : Nat → Nat → Bool

/-- Result of max and min with a NaN operand, by the two FP32 patterns (R254 does not say). -/
opaque Config.fpMaxNan : Nat → Nat → Nat

/-- The addition that a reduction makes next, by the FP32 patterns that it adds and the number of sums that are left: which two of them
it adds, and whether it rounds the result; the spec gives neither the order of the additions of R255 nor where they round. -/
opaque Config.sumStep : List Nat → Nat → Nat × Nat × Bool

/-- Whether a square of SUMSQ is rounded before it is added, by its FP32 pattern (R255 does not say). -/
opaque Config.squareRounds : Nat → Bool

/-- The factory curve of a die's monitor channel (R350): VALUE of a temperature or current channel, by die, channel and
code. The spec says that the curve is stored per die and does not give it. -/
opaque Config.factoryCurve : Nat → Nat → Nat → Int

/-- Point words of the waveforms of the firmware image, by image slot, waveform and point (R100). -/
opaque Config.firmwareWave : Nat → Nat → Nat → Nat

/-- Check bits of a 64-bit word of a record tile (R44): the spec names no (72,64) code. -/
opaque Config.secdedCheck : Nat → Nat

/-- Decades between two times in ns, log10 (t1 / t0) (R342): the spec gives no precision of the logarithm. -/
opaque Config.decades : Nat → Nat → Rat

end Sys2Proof
end

