-- ==== Sys2Proof/Terms.lean ====
section
/-!
DEFINITION. Terms.lean: the operand types of the commands.
-/

namespace Sys2Proof

/-- The masters that may give orders (R430). Firmware acts inside the part and is no master. -/
inductive Master where
  | chain
  | pf
  | mirror
  | vf (f : Nat)
  deriving DecidableEq, Repr

/-- One order to a field or an action bit: who gives it and the value it carries. -/
structure Wr where
  by' : Master
  v : Nat
  deriving DecidableEq, Repr

/-- An order, with the orders to the same target that other masters gave in the same cycle (R430 to R432). -/
structure Order where
  w : Wr
  rivals : List Wr
  deriving DecidableEq, Repr

/-- An access to a data window: a read by a master, or an order to write. -/
inductive Access where
  | read (by' : Master)
  | write (o : Order)
  deriving DecidableEq, Repr

/-- One bus write: master, byte address in the master's BAR0, size in bytes, data (little-endian). -/
structure BusWr where
  by' : Master
  addr : Nat
  size : Nat
  data : Nat
  deriving DecidableEq, Repr

/-- An update of a register field by hardware: the function in whose BAR0 the register stands and the byte offset there of one of its
words, the least significant bit of the field within the register, and the value. -/
structure HwSet where
  fn : Nat
  addr : Nat
  lo : Nat
  value : Nat
  deriving DecidableEq, Repr

/-- A bus write with the writes to the same register that arrived in the same cycle, and the fields that hardware updates in that
cycle (R11, R12). -/
structure BusOrder where
  w : BusWr
  rivals : List BusWr
  hw : List HwSet
  deriving DecidableEq, Repr

/-- What else happens to a register in the cycle of a write: writes of other masters, and fields that hardware updates (R11, R12). -/
structure CycleInfo where
  rivals : List BusWr
  hw : List HwSet
  deriving DecidableEq, Repr

/-- What a read of host memory returns in place of data (R387): Unsupported Request, Completer Abort, or a poisoned completion. -/
inductive HostErr where
  | unsupported
  | abort
  | poisoned
  deriving DecidableEq, Repr

/-- What a read of host memory returns. -/
inductive HostRead (α : Type) where
  | ok (x : α)
  | error (e : HostErr)
  deriving DecidableEq, Repr

/-- A byte of the LPDDR5X devices of a die that reads otherwise than it was written: channel, channel address, and what it reads as. -/
structure Flip where
  die : Nat
  ch : Nat
  addr : Nat
  byte : Byte
  deriving DecidableEq, Repr

/-- What the memories give to the accesses of a command besides the bytes that were written there: device addresses in bank granules
in which a read meets one wrong bit, and two (R372); wrong bytes of the LPDDR5X devices (R380); a read of host memory that fails (R387);
and, by die, the busy indications that bank accesses receive (R371) and the corrections of link ECC (R376). -/
structure Found where
  single : List Nat
  double : List Nat
  flips : List Flip
  host : Option HostErr
  busy : List Nat
  lecc : List Nat
  deriving DecidableEq, Repr

/-- The memories give what was written there. -/
def Found.none : Found := ⟨[], [], [], Option.none, [], []⟩

/-- A DMA engine: its die and its number there (R375), and what the memories give to its descriptor. -/
structure EngineRef where
  die : Nat
  eng : Nat
  found : Found := Found.none
  deriving DecidableEq, Repr

/-- What a block of the array meets: by order of issue, the operations whose operands are not ready now; and what the memories give to
the operation that the block ends. -/
structure BlockInfo where
  waiting : List Nat
  found : Found
  deriving DecidableEq, Repr

/-- How a retraining of a channel ended, and the refresh-rate field that MR4 then reads as (R376, R382). -/
structure RetrainInfo where
  ok : Bool
  refRate : Nat
  deriving DecidableEq, Repr

/-- A BAR2 access: the value written, or none for a read; and what the memories give to it. -/
structure Bar2Op where
  write : Option Nat
  found : Found
  deriving DecidableEq, Repr

/-- A tile whose feeder loads the codes of a request, and what the memories give to its reads. -/
structure FeedRef where
  tile : Nat
  found : Found
  deriving DecidableEq, Repr

/-- A physical tile: die and tile number within the die (00_scope.md, "Numbering"). -/
structure TileRef where
  die : Nat
  tile : Nat
  deriving DecidableEq, Repr

/-- A task of a running job: the job identifier of R401 and the task number; and what the memories give to the accesses of its
instruction. -/
structure TaskRef where
  job : Nat
  task : Nat
  found : Found := Found.none
  deriving DecidableEq, Repr

/-- The link-layer part of a received flit (R435): sequence number, acknowledged number, and whether its CRC held. -/
structure FlitHdr where
  seq : Nat
  ack : Nat
  crcOk : Bool
  deriving DecidableEq, Repr

/-- What a JOURNAL flit carries (R440). -/
inductive JournalMsg where
  | desc (jobId : Nat) (d : BitVec 512)
  | load (handle : Nat) (obj : List Byte)
  | unload (handle : Nat)
  deriving DecidableEq, Repr

/-- The queue pointers of one pair (R440). -/
structure PtrMsg where
  q : Nat
  entry : Nat
  sqBase : Nat
  cqBase : Nat
  sqLog2 : Nat
  cqLog2 : Nat
  tail : Nat
  cqHead : Nat
  head : Nat
  completed : Nat
  fetched : Nat
  deriving DecidableEq, Repr

/-- What a STATE flit, or the last flit of a message, carries (R440, R442). -/
inductive StateMsg where
  | pointers (p : PtrMsg)
  /-- A commit record: the job, its completion's package queue pair and count, the completion bytes, and the committed
  bytes in declared regions by device address. -/
  | commit (jobId q count : Nat) (bytes : BitVec 128) (writes : List (Nat × Byte))
  /-- Bytes of a declared region from a device address. -/
  | region (addr : Nat) (bytes : List Byte)
  /-- The FNQ record: Q0, Q1, Q2, SHARE, and the grants and JOB_CFG. -/
  | quotas (q0 q1 q2 share grants jobCfg : Nat)
  /-- The active map of a granted slot with its image digest and MODEL_ID. -/
  | map (slot m digest modelId : Nat)
  /-- The whole state of the function follows: what is held of it is of the past. -/
  | start
  /-- The function's state has arrived whole. -/
  | whole
  deriving DecidableEq, Repr

/-- An order that the partner sends over the mirror link (R431, R432, R443, R449). -/
inductive MirOrder where
  | slotSwitch (slot m : Nat)
  | region (fn die first count : Nat) (on : Bool)
  /-- The functions that move, and the jobs that move with them, each with whether it carries RESTARTED. -/
  | handover (fns : BitVec 128) (moved : List (Nat × Bool))
  /-- MIRRORED of a function has been cleared (R438). -/
  | unmirrored (fn : Nat)
  /-- The partner's order was refused with a status (R432, R443). -/
  | refused (status : Nat)
  deriving DecidableEq, Repr

/-- What a DOORBELL flit carries besides its function, entry and index: whether it is QP_CQHEAD; and the doorbells to the same queue
pair that the host writes in the same cycle (R433). -/
structure BellInfo where
  cq : Bool
  rivals : List Wr
  deriving DecidableEq, Repr

/-- What the partner answers to an order (R432, R443). -/
inductive PartnerAnswer where
  | granted
  | noRoom
  | superseded
  deriving DecidableEq, Repr

/-- What a programming engine measures on a tile (R302 to R305, log entry 24). `reads`: pass by pass, the last verify readings
that differ from their targets, as (2 * (row * 1152 + physical column) + deck, code in 1/64 G_u). `sense`: the sense-bus checks
whose measured row current differs from the sum of the targets, as (number of the check, current in 1/64 G_u × V_row). `resid`:
residuals of the finishing reference stitch, in codes. Then the iterations taken, and the spread measured, in 1/256 G_u. -/
structure ProgOut where
  reads : List (List (Nat × Nat))
  sense : List (Nat × Nat)
  resid : List Rat
  iters : Nat
  sigma : Nat
  deriving DecidableEq, Repr

/-- What a calibration measures on a tile (R334 to R336): column offsets in 1/16 code, by physical column; the measured gain
against the expected one; the mean square of the reference residuals with the new coefficients, in code²; and, in a full
calibration, column trims before any window gain is taken out, reverse offsets in 1/16 code and reverse trims (FP32) by row, the
unit-cell masks of the 128 rows of block UC_NEXT, and rows that meet R95 under no choice. -/
structure CalOut where
  offs : List Int
  a : Rat
  mse : Rat
  trims : List Int
  revOfs : List Int
  revTrims : List Nat
  units : List Nat
  badRows : Nat
  deriving DecidableEq, Repr

/-- What the converters of a tile give for a stitch: codes by physical column (by row, in a sub-phase of a reverse stitch), none
for a conversion that does not finish in its slot (R115); whether an element of the reverse path is found failed; and the cells
that have stuck since the tile's last conversions, as (2 * (row * 1152 + physical column) + deck, level) (R539). -/
structure ConvOut where
  codes : List (Option Nat)
  revFail : Bool
  stuck : List (Nat × Nat)
  deriving DecidableEq, Repr

/-- How a step of the start-up went (R479). `ok`: it succeeded. Step 4: `bad`, the record copies whose CRC fails, as (die, page,
copy). Step 5: `fw`, 0 primary image verified, 1 its signature failed, 2 not found. Step 8: `dies`, those with a working link.
Step 9 (R344, R77): `failed`, spare tiles that fail the test, as global tile IDs; `lost`, what fails its CRC when the engine reads
it, as (die, 1, temperature set) or (die, 2, tile) (R326); `rho`, the trace ratio of each die; `quick`, the quick calibration of
each tile that holds a placement. -/
structure StepInfo where
  ok : Bool
  fw : Nat
  bad : List (Nat × Nat × Nat)
  dies : List Nat
  failed : List Nat
  lost : List (Nat × Nat × Nat)
  rho : List Rat
  quick : List (Nat × CalOut)
  deriving DecidableEq, Repr

/-- How DIE_RESTORE went (R429): 0, or the reason code of the step that failed (R481), and what steps 7 to 9 find. -/
structure RestoreInfo where
  reason : Nat
  info : StepInfo
  deriving DecidableEq, Repr

/-- What every transaction on the management chain carries: the 7-bit address, the level of CHAIN_IN, and the packet error code
that a write ends with, if any (R503, R506, R510). -/
structure ChainTx where
  addr : Nat
  tokenIn : Bool
  pec : Option Byte
  deriving DecidableEq, Repr

end Sys2Proof
end

