-- ==== Sys2Proof/Syntax.lean ====
section
/-!
DEFINITION. Syntax.lean: the commands of the block, one constructor per row of spec/opcode_table.json, with the row's
operands. A docstring gives the row's rule and what the operands are. Register-write rows carry the value of the field
that the row names (for an action bit: 1), and the orders of other masters in the same cycle (R430).
-/

namespace Sys2Proof

/-- The commands. -/
inductive Instr where
  /-- REGISTER_WRITE (R7): the write, with the writes of other masters and the updates by hardware in the same cycle -/
  | registerWrite (o : BusOrder)
  /-- GLB_CAPACITY_LOW_READ (R32): the reading master -/
  | glbCapacityLowRead (by' : Master)
  /-- HEM_MSE_SUM_READ (R125): the reading master; die and tile; HEM_MSEQ_SUM, or HEM_MSEREF_SUM; a 64-bit read, or a 32-bit read of the low word -/
  | hemMseSumRead (by' : Master) (die tile : Nat) (q wide : Bool)
  /-- TIL_CTRL_RETIRE (R72): die and tile; 1 -/
  | tilCtrlRetire (die tile : Nat) (o : Order)
  /-- TIL_CTRL_HOLD_WRITE (R58): die and tile; HOLD -/
  | tilCtrlHoldWrite (die tile : Nat) (o : Order)
  /-- TIL_CTRL_PRECISION_WRITE (R59): die and tile; PRECISION -/
  | tilCtrlPrecisionWrite (die tile : Nat) (o : Order)
  /-- TIL_CTRL_HANDBACK (R14): die and tile; 1 -/
  | tilCtrlHandback (die tile : Nat) (o : Order)
  /-- SPARE_TILE_TEST (R77): die; the tiles whose last test is 24 hours ago -/
  | spareTileTest (die : Nat) (tiles : List Nat)
  /-- RECORD_TILE_FAILURE (R76): die and record tile; the cells that may read otherwise than they should, and their conductances in quarters of G_u -/
  | recordTileFailure (die tile : Nat) (cells conds : List Nat)
  /-- REPAIR_DONE (R71): die and engine; what the cells show -/
  | repairDone (die eng : Nat) (out : ProgOut)
  /-- DRV_CFG_WRITE (R87): die and tile; SPAN * 4 + FS -/
  | drvCfgWrite (die tile : Nat) (o : Order)
  /-- DRV_SLEW_WRITE (R87): die and tile; STEP * 16 + RATE -/
  | drvSlewWrite (die tile : Nat) (o : Order)
  /-- DRV_CFG_HANDBACK (R87): die and tile; 1 -/
  | drvCfgHandback (die tile : Nat) (o : Order)
  /-- WFM_DATA_ACCESS (R100): die; a read, or a write of the point word -/
  | wfmDataAccess (die : Nat) (a : Access)
  /-- WFM_PLAY_START (R104): die and player; STOP is written with START; 1 -/
  | wfmPlayStart (die player : Nat) (stop : Bool) (o : Order)
  /-- WFM_PLAY_STOP (R104): die and player; 1 -/
  | wfmPlayStop (die player : Nat) (o : Order)
  /-- WFM_PLAY_CANCEL (R104): die and player; 1 -/
  | wfmPlayCancel (die player : Nat) (o : Order)
  /-- WFM_TIMED_START (R104): die and player -/
  | wfmTimedStart (die player : Nat)
  /-- WFM_TIMED_STOP (R104): die and player -/
  | wfmTimedStop (die player : Nat)
  /-- WFM_POINT_INTERVAL (R97): die and player -/
  | wfmPointInterval (die player : Nat)
  /-- WFM_STAT_HANDBACK (R101): die; 1 -/
  | wfmStatHandback (die : Nat) (o : Order)
  /-- HEM_CFG_WRITE (R107): die and tile; RANGE * 4 + MSE_REF * 2 + MSE_Q -/
  | hemCfgWrite (die tile : Nat) (o : Order)
  /-- HEM_TAPS_WRITE (R110): die and tile; WSTOP * 64 + WSTART -/
  | hemTapsWrite (die tile : Nat) (o : Order)
  /-- HEM_CTRL_CLEAR (R124): die and tile; 1 -/
  | hemCtrlClear (die tile : Nat) (o : Order)
  /-- HEM_CTRL_HANDBACK (R14): die and tile; 1 -/
  | hemCtrlHandback (die tile : Nat) (o : Order)
  /-- CONVERSIONS_END (R118): R118. Die, tile, and what the converters give. -/
  | conversionsEnd (die tile : Nat) (out : ConvOut)
  /-- STITCH_STROBE (R163): the period expires -/
  | stitchStrobe
  /-- PERIOD_MARKER (R165): the die whose follower receives the marker -/
  | periodMarker (die : Nat)
  /-- SKEW_REMEASURE (R165): die; the skew measured in ps -/
  | skewRemeasure (die : Nat) (skew : Int)
  /-- FOLLOWER_OFF (R166): die -/
  | followerOff (die : Nat)
  /-- FOLLOWER_REALIGN (R166): die -/
  | followerRealign (die : Nat)
  /-- FEEDER_LOAD_DONE (R167): die; the tile, and what the memories give to its reads -/
  | feederLoadDone (die : Nat) (x : FeedRef)
  /-- SEAM_DUE (R176): slot -/
  | seamDue (slot : Nat)
  /-- SEAM_PASS (R177): slot -/
  | seamPass (slot : Nat)
  /-- MAP_SWITCH_DRAIN_LIMIT (R178): slot -/
  | mapSwitchDrainLimit (slot : Nat)
  /-- ACCOUNTING_WINDOW_END (R180). -/
  | accountingWindowEnd
  /-- YOKE_ROLE_MOVE_END (R23). -/
  | yokeRoleMoveEnd
  /-- YOK_CTRL_HOLD_ALL_WRITE (R184): HOLD_ALL -/
  | yokCtrlHoldAllWrite (o : Order)
  /-- YOK_CTRL_SPLIT_EN_WRITE (R175): SPLIT_EN -/
  | yokCtrlSplitEnWrite (o : Order)
  /-- YOK_CTRL_CLEAR (R181): 1 -/
  | yokCtrlClear (o : Order)
  /-- YOK_CTRL_HANDBACK (R14): 1 -/
  | yokCtrlHandback (o : Order)
  /-- YOK_PERIOD_WRITE (R161): TICKS -/
  | yokPeriodWrite (o : Order)
  /-- YOK_THROTTLE_WRITE (R179): TICKS -/
  | yokThrottleWrite (o : Order)
  /-- JOB_DISPATCH (R186). -/
  | jobDispatch
  /-- JOB_COMMIT (R220): job identifier -/
  | jobCommit (job : Nat)
  /-- BAR_RELEASE (R258): job identifier -/
  | barRelease (job : Nat)
  /-- MEMORY_CONDITION_RECHECK (R236): the waiting task -/
  | memoryConditionRecheck (t : TaskRef)
  /-- SEQ_CFG_WRITE (R188): die; RESERVE0 -/
  | seqCfgWrite (die : Nat) (o : Order)
  /-- SEQ_CTRL_DRAIN_WRITE (R190): die; DRAIN -/
  | seqCtrlDrainWrite (die : Nat) (o : Order)
  /-- SEQ_CTRL_HANDBACK (R14): die; 1 -/
  | seqCtrlHandback (die : Nat) (o : Order)
  /-- NOP (R230): the task that issues it -/
  | nop (t : TaskRef)
  /-- BR (R230): the task that issues it -/
  | br (t : TaskRef)
  /-- BRI (R230): the task that issues it -/
  | bri (t : TaskRef)
  /-- BRC (R230): the task that issues it -/
  | brc (t : TaskRef)
  /-- LOOP (R231): the task that issues it -/
  | loop (t : TaskRef)
  /-- ENDL (R230): the task that issues it -/
  | endl (t : TaskRef)
  /-- LPOP (R231): the task that issues it -/
  | lpop (t : TaskRef)
  /-- CALL (R230): the task that issues it -/
  | call (t : TaskRef)
  /-- CALLI (R230): the task that issues it -/
  | calli (t : TaskRef)
  /-- RET (R230): the task that issues it -/
  | ret (t : TaskRef)
  /-- WAIT (R234): the task that issues it -/
  | wait (t : TaskRef)
  /-- WAIT_EQ (R236): the task that issues it -/
  | waitEq (t : TaskRef)
  /-- WAIT_NE (R236): the task that issues it -/
  | waitNe (t : TaskRef)
  /-- WAIT_GEU (R236): the task that issues it -/
  | waitGeu (t : TaskRef)
  /-- TRAP (R230): the task that issues it -/
  | trap (t : TaskRef)
  /-- HALT (R230): the task that issues it -/
  | halt (t : TaskRef)
  /-- CTX (R233): the task that issues it -/
  | ctx (t : TaskRef)
  /-- ALU_IMMEDIATE (R237): the task that issues it -/
  | aluImmediate (t : TaskRef)
  /-- ALU_REGISTER (R237): the task that issues it -/
  | aluRegister (t : TaskRef)
  /-- CMP (R239): the task that issues it -/
  | cmp (t : TaskRef)
  /-- CMPI (R239): the task that issues it -/
  | cmpi (t : TaskRef)
  /-- PREDICATE_OP (R239): the task that issues it -/
  | predicateOp (t : TaskRef)
  /-- TDSET (R240): the task that issues it -/
  | tdset (t : TaskRef)
  /-- TDGET (R240): the task that issues it -/
  | tdget (t : TaskRef)
  /-- TDLD (R241): the task that issues it -/
  | tdld (t : TaskRef)
  /-- TDST (R241): the task that issues it -/
  | tdst (t : TaskRef)
  /-- TDCPY (R241): the task that issues it -/
  | tdcpy (t : TaskRef)
  /-- TDINV (R241): the task that issues it -/
  | tdinv (t : TaskRef)
  /-- TDADD (R242): the task that issues it -/
  | tdadd (t : TaskRef)
  /-- LOAD (R243): the task that issues it -/
  | load (t : TaskRef)
  /-- STORE (R243): the task that issues it -/
  | store (t : TaskRef)
  /-- MOVT (R244): the task that issues it -/
  | movt (t : TaskRef)
  /-- GATHER (R245): the task that issues it -/
  | gather (t : TaskRef)
  /-- SCATTER (R245): the task that issues it -/
  | scatter (t : TaskRef)
  /-- SCLD_E (R246): the task that issues it -/
  | scldE (t : TaskRef)
  /-- SCLD_T (R246): the task that issues it -/
  | scldT (t : TaskRef)
  /-- STITCH (R248): the task that issues it -/
  | stitch (t : TaskRef)
  /-- RSTITCH (R250): the task that issues it -/
  | rstitch (t : TaskRef)
  /-- SWAIT (R234): the task that issues it -/
  | swait (t : TaskRef)
  /-- ROT (R251): R251. Job and task. -/
  | rot (t : TaskRef)
  /-- MAPSEL (R252): R252. Job and task. -/
  | mapsel (t : TaskRef)
  /-- MM (R253): the task that issues it -/
  | mm (t : TaskRef)
  /-- MMT (R253): the task that issues it -/
  | mmt (t : TaskRef)
  /-- MMA (R253): the task that issues it -/
  | mma (t : TaskRef)
  /-- MMAT (R253): the task that issues it -/
  | mmat (t : TaskRef)
  /-- EW (R254): the task that issues it -/
  | ew (t : TaskRef)
  /-- RED (R255): the task that issues it -/
  | red (t : TaskRef)
  /-- SMAX (R255): the task that issues it -/
  | smax (t : TaskRef)
  /-- NORM_LAYER (R255): the task that issues it -/
  | normLayer (t : TaskRef)
  /-- NORM_RMS (R255): the task that issues it -/
  | normRms (t : TaskRef)
  /-- QNT (R256): the task that issues it -/
  | qnt (t : TaskRef)
  /-- DQNT (R256): the task that issues it -/
  | dqnt (t : TaskRef)
  /-- BAR (R258): the task that issues it -/
  | bar (t : TaskRef)
  /-- FENCE (R214): the task that issues it -/
  | fence (t : TaskRef)
  /-- SIGNAL_SET (R259): the task that issues it -/
  | signalSet (t : TaskRef)
  /-- SIGNAL_ADD (R259): the task that issues it -/
  | signalAdd (t : TaskRef)
  /-- SIGNAL_MAXU (R259): the task that issues it -/
  | signalMaxu (t : TaskRef)
  /-- EVPOST (R260): the task that issues it -/
  | evpost (t : TaskRef)
  /-- CPOST (R261): the task that issues it -/
  | cpost (t : TaskRef)
  /-- CAL (R262): R262. Job and task; the master of another order for the tile in the same cycle. -/
  | cal (t : TaskRef) (rival : Option Master)
  /-- CLEAR (R262): R262. As CAL. -/
  | clear (t : TaskRef) (rival : Option Master)
  /-- PROG (R262): R262. As CAL. -/
  | prog (t : TaskRef) (rival : Option Master)
  /-- VERIFY (R262): R262. As CAL. -/
  | verify (t : TaskRef) (rival : Option Master)
  /-- REFRESH (R262): R262. As CAL. -/
  | refresh (t : TaskRef) (rival : Option Master)
  /-- ARRAY_BLOCK_END (R272): die; cycles of R275 and R278 since the last command; by order of issue, the operations that waited for bytes from a Gusset region in those of R278; and what the block meets -/
  | arrayBlockEnd (die opwait stall : Nat) (short : List Nat) (x : BlockInfo)
  /-- DGA_CTRL_HOLD_WRITE (R274): die; HOLD -/
  | dgaCtrlHoldWrite (die : Nat) (o : Order)
  /-- DGA_CTRL_CLEAR (R274): die; 1 -/
  | dgaCtrlClear (die : Nat) (o : Order)
  /-- DGA_CTRL_HANDBACK (R14): die; 1 -/
  | dgaCtrlHandback (die : Nat) (o : Order)
  /-- DMA_DESCRIPTOR_DONE (R375): the engine whose descriptor is over -/
  | dmaDescriptorDone (e : EngineRef)
  /-- IMAGE_LOAD (R291): identifier of the fetched command; the 192 header bytes and the 256 bytes of the signature block that the reads returned -/
  | imageLoad (id : Nat) (parts : HostRead (List Byte × List Byte))
  /-- IMAGE_LOAD_COMPLETE (R296): identifier of the running command; the image as it lies in the store -/
  | imageLoadComplete (id : Nat) (bytes : List Byte)
  /-- IMAGE_EVICT (R295): identifier of the fetched command -/
  | imageEvict (id : Nat)
  /-- SLOT_PROGRAM (R309): identifier of the fetched command -/
  | slotProgram (id : Nat)
  /-- SLOT_SWITCH (R312): identifier of the fetched command -/
  | slotSwitch (id : Nat)
  /-- SLOT_REPLACE (R314): identifier of the fetched command -/
  | slotReplace (id : Nat)
  /-- MAP_FREE (R313): identifier of the fetched command -/
  | mapFree (id : Nat)
  /-- SLOT_FREE (R315): identifier of the fetched command -/
  | slotFree (id : Nat)
  /-- SLOT_FREE_DRAIN_END (R315): identifier of the running SLOT_FREE -/
  | slotFreeDrainEnd (id : Nat)
  /-- SLOT_INFO (R311): identifier of the fetched command -/
  | slotInfo (id : Nat)
  /-- KEY_ENROL (R289): identifier of the fetched command; the 48 bytes that the read of the digest returned, the first byte least significant -/
  | keyEnrol (id : Nat) (hash : HostRead (BitVec 384))
  /-- KEY_REVOKE (R289): identifier of the fetched command -/
  | keyRevoke (id : Nat)
  /-- PROG_FINISH (R304): die and engine; what the cells show -/
  | progFinish (die eng : Nat) (out : ProgOut)
  /-- CLEAR_FINISH (R301): die and engine; the cells that do not read level 0: cell and 1 + level -/
  | clearFinish (die eng : Nat) (reads : List (Nat × Nat))
  /-- VERIFY_FINISH (R262): R262. Die and engine; cells outside the tolerance by physical column. -/
  | verifyFinish (die eng : Nat) (counts : List Nat)
  /-- PRG_CTRL_HOLD_WRITE (R308): die; HOLD -/
  | prgCtrlHoldWrite (die : Nat) (o : Order)
  /-- PRG_CTRL_CLEAR (R307): die; 1 -/
  | prgCtrlClear (die : Nat) (o : Order)
  /-- PRG_CTRL_HANDBACK (R14): die; 1 -/
  | prgCtrlHandback (die : Nat) (o : Order)
  /-- PRG_STORE_WRITE (R292): die; GIB -/
  | prgStoreWrite (die : Nat) (o : Order)
  /-- DRIFT_INTERVAL (R332): die; the input code of the column checks; what the interval finds of the converters: tile, entry of the converter table, value -/
  | driftInterval (die : Nat) (x : Int) (conv : List (Nat × Nat × Nat))
  /-- TRACE_DUE (R328): die -/
  | traceDue (die : Nat)
  /-- TRACE_END (R327): die; the ratio measured -/
  | traceEnd (die : Nat) (rho : Rat)
  /-- TRACE_RETRY (R329): die -/
  | traceRetry (die : Nat)
  /-- QUICK_CAL_END (R334): die and tile; what it measured -/
  | quickCalEnd (die tile : Nat) (out : CalOut)
  /-- FULL_CAL_START (R337): die -/
  | fullCalStart (die : Nat)
  /-- FULL_CAL_END (R335): die and tile; what it measured -/
  | fullCalEnd (die tile : Nat) (out : CalOut)
  /-- PERIODIC_FULL_CAL_DUE (R337): die and tile -/
  | periodicFullCalDue (die tile : Nat)
  /-- RECORD_HOURLY_SAVE (R326): die -/
  | recordHourlySave (die : Nat)
  /-- REFRESH_END (R343): die and the tile that was refreshed -/
  | refreshEnd (die tile : Nat)
  /-- CAL_CTRL_HOLD_WRITE (R346): die; HOLD -/
  | calCtrlHoldWrite (die : Nat) (o : Order)
  /-- CAL_CTRL_CLEAR (R338): die; 1 -/
  | calCtrlClear (die : Nat) (o : Order)
  /-- CAL_CTRL_HANDBACK (R14): die; 1 -/
  | calCtrlHandback (die : Nat) (o : Order)
  /-- CAL_CTRL_TRACE (R328): die; 1 -/
  | calCtrlTrace (die : Nat) (o : Order)
  /-- CAL_TAB_DATA_ACCESS (R348): die; a read, or a write of DATA -/
  | calTabDataAccess (die : Nat) (a : Access)
  /-- CAL_HANDBACK_GO (R348): die and TILE; 1 -/
  | calHandbackGo (die tile : Nat) (o : Order)
  /-- MCV_ENTRY_START (R352): die -/
  | mcvEntryStart (die : Nat)
  /-- MCV_ENTRY_END (R357): die; the self-calibrated codes of MCA and MCB; the codes of HALF, should the entry end in an arbitration -/
  | mcvEntryEnd (die codeA codeB : Nat) (half : Nat × Nat)
  /-- URGENT_REQUEST (R355): die; kind 1 to 4 of R354; requesting unit -/
  | urgentRequest (die kind who : Nat)
  /-- URGENT_CONVERSION_END (R355): die; converter 0 MCA, 1 MCB, 2 both -/
  | urgentConversionEnd (die conv : Nat)
  /-- SELF_CAL_DUE (R359): die -/
  | selfCalDue (die : Nat)
  /-- SELF_CAL_END (R359): die; converter 0 MCA, 1 MCB; the offset in LSB and the gain error that it finds -/
  | selfCalEnd (die conv : Nat) (cal : Int × Rat)
  /-- MCV_CTRL_MODE_WRITE (R360): die; MODE -/
  | mcvCtrlModeWrite (die : Nat) (o : Order)
  /-- MCV_CTRL_HOLD_WRITE (R353): die; HOLD -/
  | mcvCtrlHoldWrite (die : Nat) (o : Order)
  /-- MCV_CTRL_SCAL (R359): die; 1 -/
  | mcvCtrlScal (die : Nat) (o : Order)
  /-- MCV_CTRL_CLEAR (R357): die; 1 -/
  | mcvCtrlClear (die : Nat) (o : Order)
  /-- MCV_CTRL_HANDBACK (R14): die; 1 -/
  | mcvCtrlHandback (die : Nat) (o : Order)
  /-- MCV_TRIG_GO (R360): die; 1 -/
  | mcvTrigGo (die : Nat) (o : Order)
  /-- MCV_TIMED_TRIGGER (R360): die -/
  | mcvTimedTrigger (die : Nat)
  /-- SIMULTANEOUS_CONVERSION_END (R360): die; the codes -/
  | simultaneousConversionEnd (die codeA codeB : Nat)
  /-- TLM_START (R363): stream; STOP is written with START; 1 -/
  | tlmStart (stream : Nat) (stop : Bool) (o : Order)
  /-- TLM_STOP (R363): stream; 1 -/
  | tlmStop (stream : Nat) (o : Order)
  /-- TLM_CANCEL (R363): stream; 1 -/
  | tlmCancel (stream : Nat) (o : Order)
  /-- TLM_TIMED_START (R363): stream -/
  | tlmTimedStart (stream : Nat)
  /-- TLM_TIMED_STOP (R363): stream -/
  | tlmTimedStop (stream : Nat)
  /-- TLM_PERIOD_SAMPLE (R361): stream -/
  | tlmPeriodSample (stream : Nat)
  /-- TLM_RDIDX_WRITE (R362): stream; COUNT -/
  | tlmRdidxWrite (stream : Nat) (o : Order)
  /-- BNK_OWNER_WRITE (R368): R368. Die and bank; KIND * 256 + ID. -/
  | bnkOwnerWrite (die bank : Nat) (o : Order)
  /-- BANK_HANDOVER (R368): R368. Die and bank. -/
  | bankHandover (die bank : Nat)
  /-- BANK_ZEROING_END (R369): R369. Die and bank. -/
  | bankZeroingEnd (die bank : Nat)
  /-- BNK_CTRL_CLEAR (R372): R372. Die; 1. -/
  | bnkCtrlClear (die : Nat) (o : Order)
  /-- BNK_CTRL_HANDBACK (R14): R14. Die; 1. -/
  | bnkCtrlHandback (die : Nat) (o : Order)
  /-- BNK_DIAG_GO (R371): R371. Die; whether the read meets a collision; 1. -/
  | bnkDiagGo (die : Nat) (collide : Bool) (o : Order)
  /-- BANK_SCRUB (R374): R374. Die; granules corrected; offsets of granules with double-bit errors. -/
  | bankScrub (die corr : Nat) (bad : List Nat)
  /-- LPDDR_PATROL_SCRUB (R381): die; the die offsets of the blocks read, and for each the 72 bytes that the devices hold, data and check word -/
  | lpddrPatrolScrub (die : Nat) (offs : List Nat) (flips : List Flip)
  /-- WCK2DQ_DRIFT (R382): R382. Die and channel. -/
  | wck2dqDrift (die ch : Nat)
  /-- RETRAIN_END (R382): R382. Die and channel; success. -/
  | retrainEnd (die ch : Nat) (x : RetrainInfo)
  /-- MEM_CTRL_RETRAIN (R382): R382. Die; 1. -/
  | memCtrlRetrain (die : Nat) (o : Order)
  /-- MEM_CTRL_CLEAR (R381): R381. Die; 1. -/
  | memCtrlClear (die : Nat) (o : Order)
  /-- MEM_CTRL_HANDBACK (R14): R14. Die; 1. -/
  | memCtrlHandback (die : Nat) (o : Order)
  /-- MEM_CFG_WRITE (R376): R376. Die; IECC * 8 + LECC * 4 + RATE. -/
  | memCfgWrite (die : Nat) (o : Order)
  /-- QP_CFG_ENABLE (R391): write of QP_CFG with ENABLE = 1 by the order's master to its entry; the value is SQLOG2 * 16 + CQLOG2 -/
  | qpCfgEnable (entry : Nat) (o : Order)
  /-- QP_CFG_DISABLE (R395): write of ENABLE = 0 to the master's entry; the value is 0 -/
  | qpCfgDisable (entry : Nat) (o : Order)
  /-- QP_DRAIN_END (R395): package queue pair -/
  | qpDrainEnd (q : Nat)
  /-- QP_SQTAIL_WRITE (R392): tail index -/
  | qpSqtailWrite (entry : Nat) (o : Order)
  /-- QP_CQHEAD_WRITE (R393): index of the next slot to read -/
  | qpCqheadWrite (entry : Nat) (o : Order)
  /-- DESCRIPTOR_FETCH (R392): package queue pair; the 64 bytes that the read of host memory returned, or the error of a failed read (R387); a master that gave a contrary order in the same cycle (R430) -/
  | descriptorFetch (q : Nat) (data : HostRead (BitVec 512)) (rival : Option Master)
  /-- PARKED_COMMAND_ELIGIBLE (R403): identifier of the fetched command (R401) -/
  | parkedCommandEligible (id : Nat)
  /-- CMD_NOP (R399): identifier of the fetched command -/
  | cmdNop (id : Nat)
  /-- JOB_SUBMIT (R402): identifier of the fetched command -/
  | jobSubmit (id : Nat)
  /-- JOB_ABORT (R407): identifier of the fetched command -/
  | jobAbort (id : Nat)
  /-- PROGRAM_LOAD (R207): identifier of the fetched command; the bytes that the read of the program object returned -/
  | programLoad (id : Nat) (obj : HostRead (List Byte))
  /-- PROGRAM_UNLOAD (R209): identifier of the fetched command -/
  | programUnload (id : Nat)
  /-- PROGRAM_UNLOAD_EFFECT (R209): program handle -/
  | programUnloadEffect (h : Nat)
  /-- RES_ALLOC (R399): identifier of the fetched command -/
  | resAlloc (id : Nat)
  /-- RES_FREE (R399): identifier of the fetched command -/
  | resFree (id : Nat)
  /-- BANK_HOST (R399): identifier of the fetched command -/
  | bankHost (id : Nat)
  /-- EVICT (R411): identifier of the fetched command -/
  | evict (id : Nat)
  /-- FNQ_QUOTA_WRITE (R409): function; 1 queue pairs, 2 feed queues, 3 banks, 4 pages, 5 power share, 6 real-time share -/
  | fnqQuotaWrite (fn kind : Nat) (o : Order)
  /-- FNQ_GRANT_WRITE (R410): function; model slot; 1 sets, 0 clears the grant -/
  | fnqGrantWrite (fn slot : Nat) (o : Order)
  /-- FUNCTION_LEVEL_RESET (R412): function -/
  | functionLevelReset (fn : Nat)
  /-- HOT_RESET (R412). -/
  | hotReset
  /-- BAR2_ACCESS (R389): function; BAR2 offset; bytes; the value written, or none for a read, and what the memories give -/
  | bar2Access (fn addr size : Nat) (x : Bar2Op)
  /-- EVR_CTRL_ENABLE (R485): function; RESERVE, written with ENABLE = 1 -/
  | evrCtrlEnable (fn : Nat) (o : Order)
  /-- EVR_HEAD_WRITE (R415): function; records consumed -/
  | evrHeadWrite (fn : Nat) (o : Order)
  /-- MSIX_MODERATION_TIMEOUT (R416): function; vector -/
  | msixModerationTimeout (fn vec : Nat)
  /-- MSIX_UNMASK (R416): function; vector -/
  | msixUnmask (fn vec : Nat) (o : Order)
  /-- BANK_PORT_WAIT_TIMEOUT (R423): die and bank of the port; identifier of the job whose access waits -/
  | bankPortWaitTimeout (die bank : Nat) (job : Option Nat)
  /-- DIE_LINK_TIMEOUT (R423): link number; the jobs with a transaction on the link -/
  | dieLinkTimeout (link : Nat) (jobs : List Nat)
  /-- LPDDR_COMMAND_TIMEOUT (R423): die and die offset of the access that is not answered; the jobs with a pending access to its channel -/
  | lpddrCommandTimeout (die off : Nat) (jobs : List Nat)
  /-- DMA_DESCRIPTOR_TIMEOUT (R423): die and engine; the operation whose descriptor it is, by order of issue -/
  | dmaDescriptorTimeout (die eng issue : Nat)
  /-- SEQUENCER_PROGRESS_TIMEOUT (R423): die and sequencer -/
  | sequencerProgressTimeout (die seq : Nat)
  /-- FEED_QUEUE_STARVATION (R424): feed queue -/
  | feedQueueStarvation (queue : Nat)
  /-- JOB_WATCHDOG (R421): job identifier -/
  | jobWatchdog (job : Nat)
  /-- CHAIN_TRANSACTION_TIMEOUT (R504). -/
  | chainTransactionTimeout
  /-- MGMT_WATCHDOG_MISS (R426): die -/
  | mgmtWatchdogMiss (die : Nat)
  /-- DIE_RESTORE (R429): identifier of the fetched command; how it went -/
  | dieRestore (id : Nat) (r : RestoreInfo)
  /-- PAIR_HANDOVER (R449): identifier of the fetched command -/
  | pairHandover (id : Nat)
  /-- MIR_REGION (R443): identifier of the fetched command; what the partner answers to the order for the same pages -/
  | mirRegion (id : Nat) (answer : PartnerAnswer)
  /-- HEARTBEAT_SEND (R437). -/
  | heartbeatSend
  /-- HEARTBEAT_FLIT (R437): header; the sender's RANK, epoch and device time, and its role in functions 0, 1, ... in order -/
  | heartbeatFlit (h : FlitHdr) (rank epoch time : Nat) (roles : List Nat)
  /-- ACK_FLIT (R436): header -/
  | ackFlit (h : FlitHdr)
  /-- NAK_FLIT (R436): header; its acknowledged number is the last good sequence number -/
  | nakFlit (h : FlitHdr)
  /-- JOURNAL_FLIT (R440): header; function; what it carries -/
  | journalFlit (h : FlitHdr) (fn : Nat) (m : JournalMsg)
  /-- STATE_FLIT (R444): header; function; what it carries -/
  | stateFlit (h : FlitHdr) (fn : Nat) (m : StateMsg)
  /-- DOORBELL_FLIT (R441): header; function, entry and index; whether it is QP_CQHEAD, and the doorbells to the same queue pair in the same cycle -/
  | doorbellFlit (h : FlitHdr) (fn entry v : Nat) (x : BellInfo)
  /-- ORDER_FLIT (R432): header; the order; a master that gave a contrary order in the same cycle -/
  | orderFlit (h : FlitHdr) (m : MirOrder) (rival : Option Master)
  /-- FLIT_REPLAY_TIMER (R436). -/
  | flitReplayTimer
  /-- MIRROR_LINK_TRAINED (R444): lanes in use, 4 or 8; 0 where training failed -/
  | mirrorLinkTrained (lanes : Nat)
  /-- ACK_TIMEOUT (R442): job identifier -/
  | ackTimeout (job : Nat)
  /-- HEARTBEAT_TIMEOUT (R445). -/
  | heartbeatTimeout
  /-- TAKEOVER_RANK_WAIT_END (R445). -/
  | takeoverRankWaitEnd
  /-- PAIR_TAKE_SEEN (R446). -/
  | pairTakeSeen
  /-- TAKEOVER_GUARD_END (R447). -/
  | takeoverGuardEnd
  /-- MIR_CFG_ENABLE_WRITE (R434): ENABLE -/
  | mirCfgEnableWrite (o : Order)
  /-- MIR_CFG_HANDBACK (R14): 1 -/
  | mirCfgHandback (o : Order)
  /-- MIR_CTRL_RELEASE (R448): 1 -/
  | mirCtrlRelease (o : Order)
  /-- MIR_CTRL_RESYNC (R444): 1 -/
  | mirCtrlResync (o : Order)
  /-- MIR_CTRL_CLEAR (R436): 1 -/
  | mirCtrlClear (o : Order)
  /-- MIR_FN_MIRRORED_WRITE (R438): function; MIRRORED -/
  | mirFnMirroredWrite (fn : Nat) (o : Order)
  /-- FLT_CTRL_CLEAR (R422): 1 -/
  | fltCtrlClear (o : Order)
  /-- SOURCE_LOSS (R462): source: 1 crystal, 2 REFCLK, 3 RC oscillator, 4 PLL lock; die and PLL of a lost lock -/
  | sourceLoss (src die pll : Nat)
  /-- SOURCE_READY (R465): source: 1 crystal, 2 REFCLK, 3 RC oscillator, 4 a lost PLL lock is back -/
  | sourceReady (src : Nat)
  /-- CLOCK_ONE_SHOT_EXPIRY (R466). -/
  | clockOneShotExpiry
  /-- PLL_RELOCK_DONE (R456): PLL -/
  | pllRelockDone (p : Nat)
  /-- CLK_PLL_WRITE (R456): PLL; the register word -/
  | clkPllWrite (p : Nat) (o : Order)
  /-- CLK_CTRL_MGMT_SRC_WRITE (R457): 0 crystal, 1 RC oscillator -/
  | clkCtrlMgmtSrcWrite (o : Order)
  /-- CLK_CTRL_ROOT_WRITE (R459): root gate -/
  | clkCtrlRootWrite (o : Order)
  /-- CLK_CTRL_HANDBACK (R14): 1 -/
  | clkCtrlHandback (o : Order)
  /-- CLK_GATE_WRITE (R459): gate register: 0 CLK_GATEd.DIE, 1 CLK_GATEd.BLK, 2 CLK_SGd, 3 CLK_BGd; die; the value -/
  | clkGateWrite (kind die : Nat) (o : Order)
  /-- GATE_OFF_EFFECT (R460): gate register and die -/
  | gateOffEffect (kind die : Nat)
  /-- CLK_DTCTRL_SET (R477): 1 -/
  | clkDtctrlSet (o : Order)
  /-- CLK_DTCTRL_SET_PPS (R477): 1 -/
  | clkDtctrlSetPps (o : Order)
  /-- TIME_PPS_EDGE (R478). -/
  | timePpsEdge
  /-- PPS_LOSS_TIMEOUT (R478). -/
  | ppsLossTimeout
  /-- POWER_MEASURE (R468): measured power of each die of the part, in 1/8 W -/
  | powerMeasure (meas : List Nat)
  /-- THERMAL_CHECK (R474): die; its hottest sensor, in 1/16 °C -/
  | thermalCheck (die : Nat) (t : Int)
  /-- THERMAL_RESTORE_STEP (R474): die; its hottest sensor, in 1/16 °C -/
  | thermalRestoreStep (die : Nat) (t : Int)
  /-- THERMAL_COMPARATOR_TRIP (R475): die; junction temperature, in 1/16 °C -/
  | thermalComparatorTrip (die : Nat) (t : Int)
  /-- PWR_SHED_ASSERT (R469). -/
  | pwrShedAssert
  /-- PWR_SHED_RELEASE (R472). -/
  | pwrShedRelease
  /-- SHED_DUTY_STEP (R469). -/
  | shedDutyStep
  /-- SHED_RESTORE_STEP (R472). -/
  | shedRestoreStep
  /-- SHED_WINDOW_END (R471): mean power of the window, in 1/8 W -/
  | shedWindowEnd (mean : Nat)
  /-- SHED_ADVISE_EXPIRY (R472). -/
  | shedAdviseExpiry
  /-- PWR_CTRL_HANDBACK (R14): 1 -/
  | pwrCtrlHandback (o : Order)
  /-- POWER_GOOD (R479). -/
  | powerGood
  /-- START_UP_STEP_DONE (R479): the step, 2 to 11; how it went -/
  | startUpStepDone (step : Nat) (x : StepInfo)
  /-- START_TIMEOUT (R479). -/
  | startTimeout
  /-- START_RETRY (R483): identifier of the fetched command -/
  | startRetry (id : Nat)
  /-- PERST_N_ASSERT (R484). -/
  | perstNAssert
  /-- PERST_N_RELEASE (R484). -/
  | perstNRelease
  /-- POWER_FAIL_TRIP (R493): whether the in-package capacitors of a PX-880 show 2.5 J or more -/
  | powerFailTrip (charged : Bool)
  /-- SAVE_RESTART (R493). -/
  | saveRestart
  /-- RAIL_DIP (R521). -/
  | railDip
  /-- RAIL_RECOVERED (R521). -/
  | railRecovered
  /-- PKT_DATA_ACCESS (R491): a read, or an order to write -/
  | pktDataAccess (a : Access)
  /-- PKT_UNLOCK_WRITE (R498): a 64-bit write of the whole password, or a 32-bit write of its high word; the value -/
  | pktUnlockWrite (wide : Bool) (o : Order)
  /-- PKT_UNLOCKSEL_RELOCK (R498): 1 -/
  | pktUnlockselRelock (o : Order)
  /-- POCKET_READ (R502): identifier of the fetched command -/
  | pocketRead (id : Nat)
  /-- POCKET_WRITE (R502): identifier of the fetched command; what the read of host memory returned -/
  | pocketWrite (id : Nat) (data : HostRead (List Byte))
  /-- POCKET_ERASE (R501): identifier of the fetched command -/
  | pocketErase (id : Nat)
  /-- POCKET_PROTECT (R497): identifier of the fetched command -/
  | pocketProtect (id : Nat)
  /-- CHN_CFG_PEC_WRITE (R503): PEC -/
  | chnCfgPecWrite (o : Order)
  /-- VDD_AON_GOOD (R508). -/
  | vddAonGood
  /-- BYPASS_SWITCH_OPEN (R508). -/
  | bypassSwitchOpen
  /-- CHAIN_HEARTBEAT_TOGGLE (R508). -/
  | chainHeartbeatToggle
  /-- CHAIN_SUPERVISOR_TIMEOUT (R508). -/
  | chainSupervisorTimeout
  /-- IDENTIFY (R510): the transaction -/
  | identify (x : ChainTx)
  /-- ASSIGN (R506): the transaction; the address to take -/
  | assign (x : ChainTx) (v : Nat)
  /-- CLEAR_ADDR (R507): the transaction -/
  | clearAddr (x : ChainTx)
  /-- CHAIN_STATUS (R510): the transaction -/
  | chainStatus (x : ChainTx)
  /-- REG_READ (R510): the transaction; BAR0 offset of the PF -/
  | regRead (x : ChainTx) (off : Nat)
  /-- REG_WRITE (R510): the transaction; BAR0 offset of the PF; the data; what else happens to the register in the same cycle -/
  | regWrite (x : ChainTx) (off v : Nat) (y : CycleInfo)
  /-- CHAIN_POCKET_READ (R510): the transaction; die, page, byte offset and count -/
  | chainPocketRead (x : ChainTx) (die page off count : Nat)
  /-- CHAIN_POCKET_WRITE (R510): the transaction; die, page, byte offset and count; the data; a master that wrote one of the words in the same cycle -/
  | chainPocketWrite (x : ChainTx) (die page off count : Nat) (data : List Byte) (rival : Option Master)
  /-- BYPASS (R508): the transaction -/
  | bypass (x : ChainTx)
  /-- LAST_STATUS (R510): the transaction -/
  | lastStatus (x : ChainTx)
  /-- PAIR_TAKE_RELEASED (R448). -/
  | pairTakeReleased
  /-- DIE_LINK_RETRAINED (R423): link number -/
  | dieLinkRetrained (link : Nat)
  /-- PPS_ERROR_ABSORBED (R478). -/
  | ppsErrorAbsorbed
  deriving DecidableEq, Repr

end Sys2Proof
end

