-- ==== Sys2Proof/Decode.lean ====
section
/-!
DEFINITION. Decode.lean: the commands that words spell. The rows of spec/opcode_table.json give no bits: commands reach the
block as register accesses, fetched descriptors, fetched program words, flits, chain transactions and events, each with its
own operands. The instruction words of R228 and the descriptors of R398 are decoded by the meanings (Machine/Insn.lean,
Machine/HostIf.lean), where the machine itself fetches them.
-/

namespace Sys2Proof

/-- The command that a word of the table spells: none, since no row gives bits. -/
def decodeTableWord (_nbits _w : Nat) : Option Instr := none

end Sys2Proof
end

