-- ==== Sys2Proof/Machine/Num.lean ====
section
/-!
DEFINITION. Machine/Num.lean: bit fields, sign extension and byte order (R5, and the little-endian layouts of R19, R197,
R396 and R400), on Nat and Int.
-/

namespace Sys2Proof.Machine

/-- Bits hi..lo of a number. -/
def bits (v hi lo : Nat) : Nat := v / 2 ^ lo % 2 ^ (hi - lo + 1)

/-- Bit i of a number, as a Bool. -/
def bit (v i : Nat) : Bool := v.testBit i

/-- A Bool as 0 or 1. -/
def b2n (b : Bool) : Nat := if b then 1 else 0

/-- A field of a word, in place: `v` truncated to the field and shifted to its least significant bit. -/
def put (hi lo v : Nat) : Nat := v % 2 ^ (hi - lo + 1) * 2 ^ lo

/-- `w` with bits hi..lo replaced by `v`. -/
def setBits (w hi lo v : Nat) : Nat := w - bits w hi lo * 2 ^ lo + put hi lo v

/-- Set or clear bit i. -/
def setBit (w i : Nat) (b : Bool) : Nat := setBits w i i (b2n b)

/-- Two's complement reading of the low n bits. -/
def sext (n v : Nat) : Int := if v % 2 ^ n < 2 ^ (n - 1) then (v % 2 ^ n : Nat) else (v % 2 ^ n : Nat) - (2 ^ n : Nat)

/-- The low n bits of an integer, as a two's complement code. -/
def wrap (n : Nat) (i : Int) : Nat := (i % (2 ^ n : Nat)).toNat

/-- Saturating addition in an n-bit counter. -/
def satAdd (n a b : Nat) : Nat := min (a + b) (2 ^ n - 1)

/-- Little-endian bytes of a number. -/
def leBytes : Nat → Nat → List Byte
  | 0, _ => []
  | n + 1, v => BitVec.ofNat 8 v :: leBytes n (v / 256)

/-- The number whose little-endian bytes these are. -/
def ofLe : List Byte → Nat
  | [] => 0
  | b :: t => b.toNat + 256 * ofLe t

/-- A value at byte offset `o` of a record (R19, R396, R400). -/
def atByte (o v : Nat) : Nat := v * 256 ^ o

/-- Bytes o .. o+n-1 of a record, as a little-endian number. -/
def fromByte (w o n : Nat) : Nat := w / 256 ^ o % 256 ^ n

/-- One byte more of a reflected CRC of 32 bits with a polynomial. -/
def crcByte (poly c : Nat) (b : Byte) : Nat :=
  (List.range 8).foldl (fun c _ => if c % 2 = 1 then c / 2 ^^^ poly else c / 2) (c ^^^ b.toNat)

/-- A CRC of 32 bits, reflected, from all ones and inverted at the end. -/
def crcOf (poly : Nat) (l : List Byte) : Nat := l.foldl (crcByte poly) 0xFFFFFFFF ^^^ 0xFFFFFFFF

/-- CRC-32 of IEEE 802.3 (R435). -/
def crc32 : List Byte → Nat := crcOf 0xEDB88320

/-- CRC-32C (R320 and the Pocket's pages; log entry 32). -/
def crc32c : List Byte → Nat := crcOf 0x82F63B78

/-- Ceiling division. -/
def cdiv (a b : Nat) : Nat := (a + b - 1) / b

/-- The least Nat below n for which `p` holds. -/
def findLow (n : Nat) (p : Nat → Bool) : Option Nat := (List.range n).find? p

end Sys2Proof.Machine
end

