-- ==== Sys2Proof/Machine/Formats.lean ====
section
/-!
DEFINITION. Machine/Formats.lean: the sixteen number formats, their packing, conversion into a format, FP32 arithmetic, the
zero points and the scale tracker (R132 to R147, R156; 05_formats_and_quantisation.md).
-/

namespace Sys2Proof.Machine

/-! ## Values -/

/-- A value: sign and magnitude (a zero keeps its sign, R140), an infinity, or a NaN. -/
inductive Val where
  | fin (neg : Bool) (mag : Rat)
  | inf (neg : Bool)
  | nan
  deriving DecidableEq, Repr

/-- A rational as a value. -/
def Val.ofRat (r : Rat) : Val := if r < 0 then .fin true (-r) else .fin false r

/-- The signed rational of a finite value. -/
def Val.rat : Val → Rat
  | .fin true m => -m
  | .fin false m => m
  | _ => 0

def Val.isFin : Val → Bool
  | .fin _ _ => true
  | _ => false

/-- 2^e. -/
def pow2 (e : Int) : Rat := if e ≥ 0 then (2 ^ e.toNat : Nat) else 1 / ((2 ^ (-e).toNat : Nat) : Rat)

/-- Nearest integer to a non-negative rational; halfway to the even one (R136). -/
def rne (r : Rat) : Nat :=
  let n := r.num.toNat
  let q := n / r.den
  let t := 2 * (n % r.den)
  if t < r.den then q else if r.den < t then q + 1 else if q % 2 = 0 then q else q + 1

/-- Nearest integer to a rational, ties to even. -/
def rneI (r : Rat) : Int := if r < 0 then -(rne (-r) : Int) else rne r

/-- The integer k with 2^k ≤ r < 2^(k+1), for r > 0. -/
def log2Rat (r : Rat) : Int :=
  let k : Int := (r.num.toNat.log2 : Int) - (r.den.log2 : Int)
  if r < pow2 k then k - 1 else k

/-! ## The formats (R132) -/

abbrev fS4 : Nat := 1
abbrev fU4 : Nat := 2
abbrev fS8 : Nat := 3
abbrev fU8 : Nat := 4
abbrev fS16 : Nat := 5
abbrev fS32 : Nat := 6
abbrev fE2M1 : Nat := 7
abbrev fE3M2 : Nat := 8
abbrev fE4M3 : Nat := 9
abbrev fE5M2 : Nat := 10
abbrev fBF16 : Nat := 11
abbrev fFP16 : Nat := 12
abbrev fFP32 : Nat := 13
abbrev fUE8 : Nat := 14
abbrev fC10 : Nat := 15
abbrev fW8X : Nat := 16

/-- Layout of a floating-point format: exponent bits, mantissa bits, bias, code of the largest finite magnitude. -/
structure Fp where
  eb : Nat
  mb : Nat
  bias : Nat
  max : Nat
  deriving DecidableEq, Repr

def fpOf (f : Nat) : Option Fp :=
  if f = fE2M1 then some ⟨2, 1, 1, 0x7⟩
  else if f = fE3M2 then some ⟨3, 2, 3, 0x1F⟩
  else if f = fE4M3 then some ⟨4, 3, 7, 0x7E⟩
  else if f = fE5M2 then some ⟨5, 2, 15, 0x7B⟩
  else if f = fBF16 then some ⟨8, 7, 127, 0x7F7F⟩
  else if f = fFP16 then some ⟨5, 10, 15, 0x7BFF⟩
  else if f = fFP32 then some ⟨8, 23, 127, 0x7F7FFFFF⟩
  else none

/-- Signed integer formats: width. -/
def intBits (f : Nat) : Option Nat :=
  if f = fS4 then some 4 else if f = fS8 then some 8 else if f = fS16 then some 16 else if f = fS32 then some 32 else none

/-- Unsigned integer formats: width. -/
def uintBits (f : Nat) : Option Nat := if f = fU4 then some 4 else if f = fU8 then some 8 else none

/-- Container bits (R134). -/
def containerBits (f : Nat) : Nat :=
  if f = fS4 ∨ f = fU4 ∨ f = fE2M1 then 4
  else if f = fS16 ∨ f = fBF16 ∨ f = fFP16 ∨ f = fC10 then 16
  else if f = fS32 ∨ f = fFP32 then 32
  else 8

/-- Code bits: E3M2 and C10 leave the upper bits of their containers (R134). -/
def codeBits (f : Nat) : Nat := if f = fE3M2 then 6 else if f = fC10 then 10 else containerBits f

/-- Bytes that a run of n elements takes (R134, R197). -/
def runBytes (f n : Nat) : Nat := if containerBits f = 4 then (n + 1) / 2 else n * (containerBits f / 8)

/-- Value of a floating-point code (R132). -/
def fpVal (p : Fp) (c : Nat) : Val :=
  let neg := bit c (p.eb + p.mb)
  let e := bits c (p.eb + p.mb - 1) p.mb
  let m := c % 2 ^ p.mb
  let mag := c % 2 ^ (p.eb + p.mb)
  if mag > p.max then (if m = 0 then .inf neg else .nan)
  else if e = 0 then .fin neg ((m : Rat) * pow2 (1 - p.bias - p.mb))
  else .fin neg (((2 ^ p.mb + m : Nat) : Rat) * pow2 ((e : Int) - p.bias - p.mb))

/-- Value of a code of a format (R132, R133). A UE8 code of 255 is invalid and reads as a NaN. -/
def valOf (f c : Nat) : Val :=
  match fpOf f, intBits f, uintBits f with
  | some p, _, _ => fpVal p c
  | none, some n, _ => .ofRat (sext n c : Rat)
  | none, none, some n => .fin false (c % 2 ^ n : Nat)
  | none, none, none =>
    if f = fUE8 then (if c % 256 = 255 then .nan else .fin false (pow2 ((c % 256 : Nat) - 127)))
    else if f = fC10 then .ofRat (((c % 1024 : Nat) : Int) - 512 : Int)
    else .ofRat ((16 * sext 4 (c / 16) + sext 4 c : Int) : Rat)

/-! ## Conversion into a format (R136 to R141) -/

/-- What a conversion gives: the code, and what it counts. -/
structure Conv where
  code : Nat
  sat : Bool
  nan : Bool
  deriving DecidableEq, Repr

/-- Code of a magnitude in a floating-point format with no upper end (R136, R137, R140). -/
def fpRound (p : Fp) (r : Rat) : Nat :=
  if r ≤ 0 then 0
  else
    let emin : Int := 1 - p.bias
    let k := max (log2Rat r) emin
    ((k - emin).toNat) * 2 ^ p.mb + rne (r / pow2 (k - p.mb))

/-- The nearest W8X code of an integer or fraction: representable are the integers 16c + f with nibbles −7 … 7, and ties go
to the even coarse slice, then to the even fine slice (R133, R136). -/
def w8xVals : List (Int × Int) :=
  (List.range 15).flatMap (fun (a : Nat) => (List.range 15).map (fun (b : Nat) => ((a : Int) - 7, (b : Int) - 7)))

def w8xVal (x : Int × Int) : Rat := ((16 * x.1 + x.2 : Int) : Rat)

/-- `y` is a better choice than `x` for `r`. -/
def w8xBetter (r : Rat) (x y : Int × Int) : Bool :=
  let dx := |r - w8xVal x|
  let dy := |r - w8xVal y|
  decide (dy < dx) || (decide (dy = dx) &&
    (if x.1 = y.1 then decide (y.2 % 2 = 0 ∧ x.2 % 2 ≠ 0) else decide (y.1 % 2 = 0 ∧ x.1 % 2 ≠ 0)))

def w8xNear (r : Rat) : Int × Int := w8xVals.foldl (fun b x => if w8xBetter r b x then x else b) (-7, -7)

/-- Code of the power of two nearer to x > 0, linearly; at 1.5 × 2^n the even exponent field (R141). -/
def ue8Round (x : Rat) : Conv :=
  if x < pow2 (-127) then ⟨0, true, false⟩
  else if x > pow2 127 then ⟨254, true, false⟩
  else
    let n := log2Rat x
    let lo := (n + 127).toNat
    let mid := pow2 n * (3 / 2)
    ⟨if x < mid then lo else if mid < x then lo + 1 else if lo % 2 = 0 then lo else lo + 1, false, false⟩

/-- Conversion of a value into a format other than UE8 (R136 to R140). -/
def convert (f : Nat) (v : Val) : Conv :=
  match v with
  | .nan => ⟨0, false, true⟩
  | .inf neg =>
    match fpOf f, uintBits f with
    | some p, _ => ⟨p.max + b2n neg * 2 ^ (p.eb + p.mb), true, false⟩
    | none, some n => ⟨if neg then 0 else 2 ^ n - 1, true, false⟩
    | none, none =>
      match intBits f with
      | some n => ⟨wrap n (if neg then -(2 ^ (n - 1) - 1 : Int) else 2 ^ (n - 1) - 1), true, false⟩
      | none => ⟨if f = fC10 then (if neg then 0 else 1023) else (if neg then 0x99 else 0x77), true, false⟩
  | .fin neg m =>
    match fpOf f with
    | some p =>
      let c := fpRound p m
      ⟨min c p.max + b2n neg * 2 ^ (p.eb + p.mb), decide (c > p.max), false⟩
    | none =>
      let n : Int := if neg then -(rne m : Int) else rne m
      match uintBits f, intBits f with
      | some w, _ => if n < 0 then ⟨0, true, false⟩
          else ⟨min n.toNat (2 ^ w - 1), decide (n > 2 ^ w - 1), false⟩
      | none, some w =>
        let lim : Int := 2 ^ (w - 1) - 1
        ⟨wrap w (max (-lim) (min n lim)), decide (n > lim ∨ n < -lim), false⟩
      | none, none =>
        if f = fC10 then ⟨((max (-512) (min n 511)) + 512).toNat, decide (n > 511 ∨ n < -512), false⟩
        else
          -- beyond 119 the next value would be 121, and the tie at 120 goes to its coarse slice, 8
          let r := v.rat
          let x := w8xNear r
          ⟨wrap 4 x.1 * 16 + wrap 4 x.2, decide (r ≥ 120 ∨ r ≤ -120), false⟩

/-- The code that stands for +0 or 0. -/
def zeroCode (f : Nat) : Nat := if f = fC10 then 512 else 0

/-! ## FP32 arithmetic (IEEE 754, R269) -/

def fp32 : Fp := ⟨8, 23, 127, 0x7F7FFFFF⟩

/-- Value of an FP32 pattern. -/
def f32Val (c : Nat) : Val := fpVal fp32 (c % 2 ^ 32)

/-- A value rounded to FP32: beyond the largest finite value it is an infinity. -/
def round32 : Val → Val
  | .fin neg m =>
    let c := fpRound fp32 m
    if c > fp32.max then .inf neg
    else match fpVal fp32 c with
      | .fin _ r => .fin neg r
      | v => v
  | v => v

/-- FP32 pattern of a value that is an FP32 value; a NaN is the quiet one. -/
def f32Code (v : Val) : Nat :=
  match v with
  | .nan => 0x7FC00000
  | .inf neg => 0x7F800000 + b2n neg * 2 ^ 31
  | .fin neg m => fpRound fp32 m + b2n neg * 2 ^ 31

def Val.neg : Val → Val
  | .fin n m => .fin (!n) m
  | .inf n => .inf (!n)
  | .nan => .nan

/-- Exact sum. -/
def Val.add : Val → Val → Val
  | .nan, _ => .nan
  | _, .nan => .nan
  | .inf a, .inf b => if a = b then .inf a else .nan
  | .inf a, _ => .inf a
  | _, .inf b => .inf b
  | .fin a m, .fin b n =>
    let r := (Val.fin a m).rat + (Val.fin b n).rat
    if r = 0 then .fin (a && b) 0 else .ofRat r

/-- Exact product. -/
def Val.mul : Val → Val → Val
  | .nan, _ => .nan
  | _, .nan => .nan
  | .inf a, .inf b => .inf (a != b)
  | .inf a, .fin b n => if n = 0 then .nan else .inf (a != b)
  | .fin a m, .inf b => if m = 0 then .nan else .inf (a != b)
  | .fin a m, .fin b n => .fin (a != b) (m * n)

/-- Exact quotient, with IEEE 754's answers for zeros and infinities. -/
def Val.div : Val → Val → Val
  | .nan, _ => .nan
  | _, .nan => .nan
  | .inf _, .inf _ => .nan
  | .inf a, .fin b _ => .inf (a != b)
  | .fin a _, .inf b => .fin (a != b) 0
  | .fin a m, .fin b n => if n = 0 then (if m = 0 then .nan else .inf (a != b)) else .fin (a != b) (m / n)

def fadd (a b : Val) : Val := round32 (a.add b)
def fsub (a b : Val) : Val := round32 (a.add b.neg)
def fmul (a b : Val) : Val := round32 (a.mul b)
def fdiv (a b : Val) : Val := round32 (a.div b)

/-- a < b, for values that are not NaN. -/
def Val.lt : Val → Val → Bool
  | .inf a, .inf b => a && !b
  | .inf a, _ => a
  | _, .inf b => !b
  | a, b => decide (a.rat < b.rat)

/-- Magnitude of a finite value. -/
def Val.mag : Val → Rat
  | .fin _ m => m
  | _ => 0

/-- The largest finite magnitude of a list of values; infinities and NaNs never enter it (R146). -/
def maxMag (l : List Val) : Rat := l.foldl (fun m v => max m v.mag) 0

/-! ## Scale trackers (R144 to R147) -/

/-- Q_max of a target format (R145). -/
def qMax (f : Nat) : Option Rat :=
  if f = fS4 then some 7 else if f = fU4 then some 15 else if f = fS8 then some 127 else if f = fU8 then some 255
  else if f = fS16 then some 32767 else if f = fE2M1 then some 6 else if f = fE3M2 then some 28
  else if f = fE4M3 then some 448 else if f = fE5M2 then some 57344 else none

/-- Fields of a tracker held as a 128-byte little-endian number. -/
def trkHist (t i : Nat) : Nat := fromByte t (4 * i) 4
def trkInit (t : Nat) : Nat := fromByte t 64 4
def trkCfg (t : Nat) : Nat := fromByte t 68 1
def trkK (t : Nat) : Nat := trkCfg t % 16 + 1
def trkLag (t : Nat) : Nat := bits (trkCfg t) 5 4
def trkPow2 (t : Nat) : Bool := bit (trkCfg t) 6
def trkCurrent (t : Nat) : Bool := bit (trkCfg t) 7
def trkMargin (t : Nat) : Nat := fromByte t 69 1
def trkFmt (t : Nat) : Nat := fromByte t 70 1
def trkCount (t : Nat) : Nat := fromByte t 71 1
def trkHead (t : Nat) : Nat := fromByte t 72 1
def trkLast (t : Nat) : Nat := fromByte t 76 4
def trkStep (t : Nat) : Nat := fromByte t 80 4

/-- Replace n bytes at byte o of a record. -/
def setBytes (w o n v : Nat) : Nat := w - fromByte w o n * 256 ^ o + (v % 256 ^ n) * 256 ^ o

/-- Indices in HIST that the derivation reads: the K entries older than the LAG most recent, of those held (R146). -/
def trkUsed (t : Nat) : List Nat :=
  ((List.range (trkK t)).filter (fun k => decide (trkLag t + k < trkCount t))).map
    (fun k => (trkHead t + 32 - 1 - trkLag t - k) % 16)

/-- An FP32 pattern is a non-negative finite number. -/
def f32NonNeg (c : Nat) : Bool := decide (c ≤ fp32.max) || decide (c = 2 ^ 31)

/-- A tracker with another LAG. -/
def trkWithLag (t lag : Nat) : Nat := setBytes t 68 1 (trkCfg t % 16 + 16 * lag + trkCfg t / 64 * 64)

/-- R145: a step on the tracker is refused, by the format of the tensor that it scales, for a derivation that reads with `lag`: LAG less
the earlier steps that are still in the pipeline (R147). -/
def trkRefused (t lag fmt : Nat) (hem : Bool) : Bool :=
  (qMax (trkFmt t)).isNone || decide (trkMargin t > 16) || decide (trkK t + trkLag t > 16) || decide (trkCount t > 16)
    || decide (trkHead t > 15) || !(f32NonNeg (trkInit t))
    || (!trkCurrent t && (trkUsed (trkWithLag t lag)).any (fun i => !(f32NonNeg (trkHist t i))))
    || decide (trkFmt t ≠ fmt) || (hem && trkCurrent t)

/-- The scale of the next step (R146), as an FP32 pattern; `cur` is current_max. None: no scale is known (a Hem output
step). Where the product of the margin and the maximum overflows FP32, it is an infinity under R136, and the scale is the 2^127 that the
derivation clamps to (DESIGN CHOICE, log entry 144). -/
def trkScale (t : Nat) (cur : Rat) (hem : Bool) : Option Nat :=
  let h := (trkUsed t).map (fun i => (f32Val (trkHist t i)).mag)
  let r0 := if h.isEmpty then (f32Val (trkInit t)).mag else h.foldl max 0
  let r := if trkCurrent t then cur else if r0 = 0 ∧ !hem then cur else r0
  if r = 0 then
    if trkLast t ≠ 0 then some (trkLast t) else if hem then none else some (f32Code (.fin false 1))
  else
    let m : Val := .fin false (1 + (trkMargin t : Rat) / 16)
    let s := fdiv (fmul m (round32 (.fin false r))) (.fin false ((qMax (trkFmt t)).getD 1))
    let s := match s with
      | .fin _ x => max (pow2 (-126)) (min x (pow2 127))
      | _ => pow2 127
    let s := if trkPow2 t then pow2 ((ue8Round s).code - 127) else s
    some (f32Code (.fin false s))

/-- The tracker after a step with a maximum and a scale (R147). HIST holds finite maxima: one beyond the range of FP32 is held as its
largest value (DESIGN CHOICE, log entry 144). -/
def trkRecord (t : Nat) (mx : Rat) (scale : Nat) : Nat :=
  let t1 := setBytes t (4 * trkHead t) 4 (min fp32.max (f32Code (round32 (.fin false mx))))
  let t2 := setBytes t1 72 1 ((trkHead t + 1) % 16)
  let t3 := setBytes t2 71 1 (min 16 (trkCount t + 1))
  setBytes (setBytes t3 76 4 scale) 80 4 (trkStep t + 1)

/-! ## Statistics records (R157) -/

/-- What a conversion of x / σ adds to a statistics record: the squared error, in units of 2^-32, unless saturated or NaN. -/
structure Stat where
  /-- The addends to SUM, in order. -/
  sq : List Nat
  sat : Nat
  nan : Nat
  deriving DecidableEq, Repr

def Stat.zero : Stat := ⟨[], 0, 0⟩

/-- One element added: `x` is x / σ, exact. -/
def Stat.add (s : Stat) (f : Nat) (x : Val) (c : Conv) : Stat :=
  if c.nan then { s with nan := s.nan + 1 }
  else if c.sat then { s with sat := s.sat + 1 }
  else
    let d := x.rat - (valOf f c.code).rat
    { s with sq := rne (d * d * 2 ^ 32) :: s.sq }

/-- One addend enters SUM and CNT: when one of them would overflow, both stop and HELD sets (R157). -/
def statAddend (w q : Nat) : Nat :=
  if bit (fromByte w 24 1) 0 then w
  else if fromByte w 0 8 + q ≥ 2 ^ 64 ∨ fromByte w 8 8 + 1 ≥ 2 ^ 64 then setBytes w 24 1 (fromByte w 24 1 ||| 1)
  else setBytes (setBytes w 0 8 (fromByte w 0 8 + q)) 8 8 (fromByte w 8 8 + 1)

/-- The record (32 bytes) after an operation added to it (R157). -/
def statRecord (w : Nat) (s : Stat) : Nat :=
  let w := s.sq.foldl statAddend w
  setBytes (setBytes w 16 4 (satAdd 32 (fromByte w 16 4) s.sat)) 20 4 (satAdd 32 (fromByte w 20 4) s.nan)

/-! ## Scale entries (R150) -/

/-- Value of a scale entry; none is a scale fault: an FP32 entry that is zero, negative, subnormal, infinite or NaN, or a
UE8 entry of 255. -/
def scaleEntry (ue8 : Bool) (c : Nat) : Option Rat :=
  if ue8 then (if c % 256 = 255 then none else some (pow2 ((c % 256 : Nat) - 127)))
  else if 0x00800000 ≤ c ∧ c ≤ fp32.max then some (f32Val c).mag else none

end Sys2Proof.Machine
end

