-- ==== Sys2Proof/Machine/Elem.lean ====
section
/-!
DEFINITION. Machine/Elem.lean: the functions of EW and NORM that FP32 does not represent exactly (R254, R255): their real values, to far
more digits than FP32 has, and their FP32 results, of which the rounding alone is free (log entry 21).
-/

namespace Sys2Proof.Machine

/-! ## Real values -/

/-- Binary places of the fixed-point arithmetic below. -/
abbrev fixBits : Nat := 320

/-- A rational in fixed point. -/
def fix (x : Rat) : Nat := (x * (2 ^ fixBits : Nat)).floor.toNat

/-- ln 2 and √(2/π) in fixed point. -/
abbrev ln2Fix : Nat := 0xB17217F7D1CF79ABC9E3B39803F2F6AF40F343267298B62D8A0D175B8BAAFA2BE7B876206DEBAC98
abbrev sqrt2PiFix : Nat := 0xCC42299EA1B284687E59E2805D5C717FA7053E60A24E0DB1808E369004C73A5D3BF158AA88FA7B6E

/-- The power series of exp at r, in fixed point, from a term on. -/
def expSeries (r : Nat) : Nat → Nat → Nat → Nat → Nat
  | 0, _, _, acc => acc
  | fuel + 1, n, t, acc => expSeries r fuel (n + 1) (t * r / (2 ^ fixBits * (n + 1))) (acc + t)

/-- exp of a rational. Far outside the range of FP32 it is replaced by a power of two. -/
def expRat (x : Rat) : Rat :=
  if x > 1024 then pow2 1477
  else if x < -1024 then pow2 (-1477)
  else
    let ln2 : Rat := (ln2Fix : Rat) / (2 ^ fixBits : Nat)
    let k := (x / ln2).floor
    (expSeries (fix (x - (k : Rat) * ln2)) 80 0 (2 ^ fixBits) 0 : Rat) / (2 ^ fixBits : Nat) * pow2 k

/-- √ of a non-negative rational: exact where it is a dyadic fraction that FP32 holds. -/
def realSqrt (x : Rat) : Rat := (Nat.sqrt (x * (2 ^ 640 : Nat)).floor.toNat : Rat) / (2 ^ 320 : Nat)

/-- 1 / (1 + exp(-x)). -/
def sigmoid (x : Rat) : Rat := 1 / (1 + expRat (-x))

/-- |tanh| of a magnitude: 1 - 2 / (exp(2x) + 1). -/
def tanhRat (x : Rat) : Rat := (expRat (2 * x) - 1) / (expRat (2 * x) + 1)

/-- GELU in its tanh form, 0.5 x (1 + tanh(√(2/π) (x + 0.044715 x³))), which is x × sigmoid(2 √(2/π) (x + 0.044715 x³)). -/
def geluRat (x : Rat) : Rat :=
  x * sigmoid (2 * ((sqrt2PiFix : Rat) / (2 ^ fixBits : Nat)) * (x + 44715 / 1000000 * x * x * x))

/-! ## FP32 results -/

/-- Code of the largest FP32 magnitude that is not above a non-negative rational. -/
def fpFloor (r : Rat) : Nat :=
  if r ≤ 0 then 0
  else
    let k := max (log2Rat r) (-126)
    (k + 126).toNat * 2 ^ 23 + (r / pow2 (k - 23)).floor.toNat

/-- An FP32 result of a real value: the value itself where FP32 holds it, otherwise one of the two FP32 values around it; which one is
free. -/
def fpNear (up : Bool) (v : Val) : Val :=
  match v with
  | .fin neg m =>
    let c := fpFloor m
    if c > fp32.max then .inf neg
    else match fpVal fp32 c with
      | .fin _ x =>
        if x = m ∨ up = false then .fin neg x
        else match fpVal fp32 (c + 1) with
          | .fin _ y => .fin neg y
          | _ => .inf neg
      | w => w
  | w => w

/-- FP32 square root. -/
def fsqrt (a : Val) : Val :=
  match a with
  | .fin neg m => if m = 0 then a else if neg then .nan else fpNear (Config.roundUp 16 (f32Code a)) (.fin false (realSqrt m))
  | .inf neg => if neg then .nan else a
  | .nan => .nan

/-- FP32 exponential. -/
def fexp (a : Val) : Val :=
  match a with
  | .fin _ _ => fpNear (Config.roundUp 10 (f32Code a)) (.fin false (if a.rat = 0 then 1 else expRat a.rat))
  | .inf neg => if neg then .fin false 0 else .inf false
  | .nan => .nan

/-- EW SUB 8, 9, 10, 11 and 13 (R254): GELU, SiLU, exp, 1/√ and tanh of an FP32 value. Where the formula has no value, the result is
free. -/
def fpUnary (sub : Nat) (a : Val) : Val :=
  let up := Config.roundUp sub (f32Code a)
  let free := f32Val (Config.fpUnary sub (f32Code a))
  match sub, a with
  | _, .nan => .nan
  | 8, .fin neg m => if m = 0 then a else fpNear up (.fin neg |geluRat a.rat|)
  | 8, .inf neg => if neg then free else a
  | 9, .fin neg m => if m = 0 then a else fpNear up (.fin neg (m * sigmoid a.rat))
  | 9, .inf neg => if neg then free else a
  | 10, _ => fexp a
  | 11, .fin neg m => if m = 0 then .inf neg else if neg then .nan else fpNear up (.fin false (1 / realSqrt m))
  | 11, .inf neg => if neg then .nan else .fin false 0
  | 13, .fin neg m => if m = 0 then a else fpNear up (.fin neg (tanhRat m))
  | 13, .inf neg => .fin neg 1
  | _, _ => free

end Sys2Proof.Machine
end

