-- ==== Sys2Proof/Machine/Insn.lean ====
section
/-!
DEFINITION. Machine/Insn.lean: the Fentoska instruction frame (R202 to R205), the opcode map (R229) with the fields that each
entry uses (R226, R227), and the loader's checks of a program object (R206, R207).
-/

namespace Sys2Proof.Machine

/-! ## The frame (R202, R203) -/

def iOp (w : Nat) : Nat := bits w 63 58
def iX (w : Nat) : Bool := bit w 57
def iGp (w : Nat) : Nat := bits w 56 54
def iGn (w : Nat) : Bool := bit w 53
def iSub (w : Nat) : Nat := bits w 52 48
/-- Fields of form R; D and A also of form I. -/
def iD (w : Nat) : Nat := bits w 47 43
def iA (w : Nat) : Nat := bits w 42 38
def iB (w : Nat) : Nat := bits w 37 33
/-- Form I. -/
def iImm38 (w : Nat) : Nat := bits w 37 0
/-- Form T. -/
def iTd (w : Nat) : Nat := bits w 47 42
def iTa (w : Nat) : Nat := bits w 41 36
def iTb (w : Nat) : Nat := bits w 35 30
def iGa (w : Nat) : Nat := bits w 29 25
def iGb (w : Nat) : Nat := bits w 24 20
def iImm20 (w : Nat) : Nat := bits w 19 0
/-- Form B: A stands in D's place. -/
def iBa (w : Nat) : Nat := bits w 47 43
def iPd (w : Nat) : Nat := bits w 42 40
def iOff (w : Nat) : Int := sext 32 (bits w 31 0)

/-! ## The opcode map (R229) -/

/-- Rule for the extension word (R227). -/
inductive XRule where
  | no
  | opt
  | req
  deriving DecidableEq, Repr

/-- Bits hi..lo set. -/
def mask (hi lo : Nat) : Nat := (2 ^ (hi - lo + 1) - 1) * 2 ^ lo

abbrev mD : Nat := mask 47 43
abbrev mA : Nat := mask 42 38
abbrev mB : Nat := mask 37 33
abbrev mImm38 : Nat := mask 37 0
abbrev mTd : Nat := mask 47 42
abbrev mTa : Nat := mask 41 36
abbrev mTb : Nat := mask 35 30
abbrev mGa : Nat := mask 29 25
abbrev mGb : Nat := mask 24 20
abbrev mImm20 : Nat := mask 19 0
abbrev mBa : Nat := mask 47 43
abbrev mPd : Nat := mask 42 40
abbrev mOff : Nat := mask 31 0
/-- Predicates named by the fields D, A and B (R226). -/
abbrev mPredD : Nat := mask 45 43
abbrev mPredA : Nat := mask 40 38
abbrev mPredB : Nat := mask 35 33

/-- Rows of the opcode map below 0x20: the extension rule and the operand bits that the entry uses; none for a reserved OP
or SUB. -/
def insnLow (op sub : Nat) : Option (XRule × Nat) :=
  if op = 0x00 then (if sub = 0 then some (.no, 0) else none)
  else if op = 0x01 then (if sub = 0 then some (.no, mOff) else if sub = 1 then some (.no, mBa ||| mOff) else none)
  else if op = 0x02 then (if sub < 2 then some (.no, mPd ||| mOff) else if sub < 4 then some (.no, mBa ||| mOff) else none)
  else if op = 0x03 then (if sub = 0 then some (.no, mBa ||| mOff) else if sub < 3 then some (.no, 0) else none)
  else if op = 0x04 then (if sub = 0 then some (.no, mOff) else if sub = 1 then some (.no, mBa ||| mOff) else none)
  else if op = 0x05 then (if sub = 0 then some (.no, 0) else none)
  else if op = 0x06 then (if sub = 0 then some (.no, mD ||| mA) else if sub < 4 then some (.no, mA ||| mB) else none)
  else if op = 0x07 then (if sub = 0 then some (.no, mask 7 0) else none)
  else if op = 0x08 then (if sub = 0 then some (.no, 0) else none)
  else if op = 0x09 then (if sub = 0 then some (.no, mD ||| mask 3 0) else none)
  else if op = 0x10 then
    (if sub = 9 then some (.opt, mD ||| mImm38) else if sub < 14 then some (.no, mD ||| mA ||| mImm38) else none)
  else if op = 0x11 then
    (if sub = 9 then some (.no, mD ||| mA) else if sub < 20 then some (.no, mD ||| mA ||| mB) else none)
  else if op = 0x12 then (if sub < 6 then some (.no, mPredD ||| mA ||| mB) else none)
  else if op = 0x13 then (if sub < 6 then some (.no, mPredD ||| mA ||| mImm38) else none)
  else if op = 0x14 then
    (if sub < 3 then some (.no, mPredD ||| mPredA ||| mPredB) else if sub = 3 then some (.no, mPredD ||| mPredA)
     else if sub = 4 then some (.no, mD) else if sub = 5 then some (.no, mA) else none)
  else if op = 0x18 then
    (if sub < 15 then some (.no, mTd ||| mGa ||| mImm20) else if sub = 15 then some (.no, mTa ||| mGa ||| mImm20)
     else if sub = 16 then some (.no, mTd ||| mTa) else if sub = 17 then some (.no, mTd) else none)
  else if op = 0x19 then
    (if sub = 0 then some (.no, mTd ||| mGa ||| mImm20) else if sub < 5 then some (.no, mTd ||| mGa) else none)
  else if op = 0x1A then (if sub < 14 then some (.no, mTa ||| mGa) else none)
  else none

/-- Rows from 0x20. -/
def insnHigh (op sub : Nat) : Option (XRule × Nat) :=
  let tt := mTd ||| mTa ||| mGa ||| mGb
  let ttt := mTd ||| mTa ||| mTb ||| mGa ||| mGb
  if op = 0x20 then (if sub < 7 then some (.no, mD ||| mA ||| mImm38) else none)
  else if op = 0x21 then (if sub < 4 then some (.no, mD ||| mA ||| mImm38) else none)
  else if op = 0x22 then (if sub = 0 then some (.no, tt) else none)
  else if op = 0x23 ∨ op = 0x24 then (if sub = 0 then some (.no, mTd ||| mTa ||| mTb ||| mGb) else none)
  else if op = 0x25 then
    (if sub = 0 then some (.no, mTa ||| mGa ||| mGb) else if sub = 1 then some (.no, mTa ||| mGa) else none)
  else if op = 0x28 ∨ op = 0x29 then (if sub = 0 then some (.no, tt ||| mask 19 4) else none)
  else if op = 0x2A then (if sub = 0 then some (.no, mD ||| mA) else none)
  else if op = 0x2B then (if sub = 0 then some (.no, tt ||| mask 19 3) else none)
  else if op = 0x2C then (if sub = 0 then some (.no, mD ||| mask 5 0) else none)
  else if op = 0x30 ∨ op = 0x31 then (if sub < 2 then some (.no, ttt) else none)
  else if op = 0x32 then (if sub < 5 then some (.no, ttt) else if sub < 15 then some (.no, tt) else none)
  else if op = 0x33 then (if sub < 5 then some (.no, mTd ||| mTa ||| mGb) else none)
  else if op = 0x34 then (if sub = 0 then some (.no, tt ||| mask 0 0) else none)
  else if op = 0x35 then (if sub < 2 then some (.no, ttt) else none)
  else if op = 0x36 then (if sub = 0 then some (.no, tt) else none)
  else if op = 0x37 then (if sub = 0 then some (.no, mTd ||| mTa ||| mGb) else none)
  else if op = 0x38 ∨ op = 0x39 then (if sub = 0 then some (.no, 0) else none)
  else if op = 0x3A then (if sub < 3 then some (.no, mD ||| mA ||| mB) else none)
  else if op = 0x3B then (if sub = 0 then some (.no, mA ||| mB) else if sub = 1 then some (.no, mA) else none)
  else if op = 0x3C then (if sub = 0 then some (.no, mGa ||| mGb ||| mask 1 0) else none)
  else if op = 0x3D then
    (if sub = 0 then some (.no, mGa ||| mGb) else if sub = 1 then some (.req, mTa ||| mGa ||| mGb ||| mask 0 0) else none)
  else if op = 0x3E then (if sub = 0 then some (.no, tt) else none)
  else if op = 0x3F then (if sub = 0 then some (.no, mGa ||| mGb) else none)
  else none

def insnRow (op sub : Nat) : Option (XRule × Nat) := if op < 0x20 then insnLow op sub else insnHigh op sub

/-- An instruction and its extension word pass the loader (R204, R205, R207, R226, R227): the OP and SUB are listed, X
follows its rule, GP = 0 with GN = 1 does not occur, every unused field is 0, and so are the immediate beside an extension
word and the reserved selectors and bits that entries name (R233, R255, R263). -/
def insnOk (w : Nat) (ext : Nat) : Bool :=
  match insnRow (iOp w) (iSub w) with
  | none => false
  | some (x, m) =>
    let o := bits w 47 0
    !(iGp w == 0 && iGn w)
      && (match x with
          | .no => !iX w
          | .opt => true
          | .req => iX w)
      && decide (o &&& m = o)
      && !(iOp w == 0x10 && iX w && iImm38 w != 0)
      && !(iOp w == 0x09 && decide (iImm38 w > 10))
      && !(iOp w == 0x34 && iImm20 w == 0 && iGa w != 0)
      && !(iOp w == 0x3D && iSub w == 1 && ext % 4096 != 0)

/-- The words that start instructions, as (index, word, extension); the answer is none where the code ends inside an
extension word (R207). -/
def insnStarts : Nat → List Nat → Option (List (Nat × Nat × Nat))
  | _, [] => some []
  | i, w :: t =>
    if iX w then
      match t with
      | [] => none
      | e :: t' => (insnStarts (i + 2) t').map (fun l => (i, w, e) :: l)
    else (insnStarts (i + 1) t).map (fun l => (i, w, 0) :: l)

/-- The target word of a direct branch, as the loader checks it (R207). -/
def directTarget (i w : Nat) : Option Int :=
  if iOp w = 0x01 ∧ iSub w = 0 ∨ iOp w = 0x02 ∨ iOp w = 0x04 ∧ iSub w = 0 then some (i + iOff w)
  else if iOp w = 0x03 ∧ iSub w = 0 then some (i + iOff w + 1)
  else none

/-- Program header (R206), held as the 64 bytes in order. -/
structure Header where
  magic : Nat
  version : Nat
  priv : Nat
  tasks : Nat
  codeWords : Nat
  dataBytes : Nat
  entry : Nat
  scratch : Nat
  descInit : Nat
  place : Nat
  dieMask : Nat
  reserved : Nat
  deriving DecidableEq, Repr

def headerOf (b : List Byte) : Header :=
  let f := fun o n => ofLe ((b.drop o).take n)
  ⟨f 0 4, f 4 2, f 6 1, f 7 1, f 8 4, f 12 4, f 16 4, f 20 1, f 21 1, f 22 1, f 23 1, f 24 40⟩

/-- Size of the object (R207, R208). -/
def Header.size (h : Header) : Nat := 64 + 8 * h.codeWords + h.dataBytes

/-- Header fields in range (R206, R207). DIE_MASK takes any value. -/
def Header.ok (h : Header) (dies : Nat) : Bool :=
  decide (h.magic = 0x4B535446 ∧ h.version = 0x0100 ∧ h.priv ≤ 1 ∧ 1 ≤ h.tasks ∧ h.tasks ≤ 64 ∧ h.tasks ≤ 8 * dies
    ∧ 1 ≤ h.codeWords ∧ h.codeWords ≤ 131072 ∧ h.dataBytes ≤ 16 * 2 ^ 20 ∧ h.scratch ≤ 40 ∧ h.descInit ≤ 64
    ∧ 64 * h.descInit ≤ h.dataBytes ∧ h.place ≤ 2 ∧ h.reserved = 0)

/-- Code words of an object. -/
def codeOf (h : Header) (b : List Byte) : List Nat :=
  (List.range h.codeWords).map (fun i => ofLe ((b.drop (64 + 8 * i)).take 8))

/-- The code passes the loader (R207). -/
def codeOk (code : List Nat) (entry : Nat) : Bool :=
  match insnStarts 0 code with
  | none => false
  | some l =>
    let st := l.map (·.1)
    l.all (fun e => insnOk e.2.1 e.2.2 && (match directTarget e.1 e.2.1 with
      | none => true
      | some t => st.any (fun k => decide ((k : Int) = t)))) && st.contains entry

/-- The words that start instructions, also of code that ends inside an extension word. -/
def insnWords : List Nat → List Nat
  | [] => []
  | [w] => [w]
  | w :: e :: t => if iX w then w :: insnWords t else w :: insnWords (e :: t)

/-- The code holds a maintenance instruction (R191); the check runs before those of R207, whatever else is wrong with the code. -/
def hasSystem (code : List Nat) : Bool := (insnWords code).any (fun w => decide (iOp w ≥ 0x3C))

end Sys2Proof.Machine
end

