-- ==== Sys2Proof/Machine/Ecc.lean ====
section
/-!
DEFINITION. Machine/Ecc.lean: where a die offset lies in the LPDDR5X channels (R377, R379), and the check words of inline ECC
(R380): Reed–Solomon over GF(2⁸).
-/

namespace Sys2Proof.Machine

/-! ## Interleaving (R377) -/

/-- The channel of a die offset. -/
def chanOf (off : Nat) : Nat := off / 512 % 4

/-- The channel address of a die offset. -/
def chanAddr (off : Nat) : Nat := off / 512 / 4 * 512 + off % 512

/-- The die offset of a channel address. -/
def offOfChan (ch a : Nat) : Nat := (a / 512 * 4 + ch) * 512 + a % 512

/-- Channel address of the check word of a block, on a channel of `size` bytes (R379). -/
def checkAddr (size a : Nat) : Nat := size * 7 / 8 + 8 * (a / 64)

/-- Channel address from which the training patterns stand, on a channel of `size` bytes (R379). -/
def patternAddr (size : Nat) : Nat := size * 63 / 64

/-- The channel address of the block that a byte of a channel belongs to, with or without inline ECC: the block itself, or the one whose
check word stands there; none among the training patterns (R379). -/
def blockOf (ecc : Bool) (size a : Nat) : Option Nat :=
  if !ecc || a < size * 7 / 8 then some (a / 64 * 64)
  else if a < patternAddr size then some ((a - size * 7 / 8) / 8 * 64)
  else none

/-! ## GF(2⁸) with x⁸ + x⁴ + x³ + x² + 1 -/

/-- a times the low n bits of b. -/
def gfMulLow : Nat → Nat → Nat → Nat
  | 0, _, _ => 0
  | n + 1, a, b => (if b % 2 = 1 then a else 0) ^^^ gfMulLow n (if a < 128 then 2 * a else (2 * a) ^^^ 0x11D) (b / 2)

def gfMul (a b : Nat) : Nat := gfMulLow 8 a b

def gfPow (a : Nat) : Nat → Nat
  | 0 => 1
  | n + 1 => gfMul a (gfPow a n)

/-- The inverse of a nonzero element: its 254th power. -/
def gfInv (a : Nat) : Nat := gfPow a 254

/-- Value of a polynomial, highest coefficient first. -/
def gfEval (p : List Nat) (x : Nat) : Nat := p.foldl (fun v c => gfMul v x ^^^ c) 0

/-! ## The code of R380 -/

/-- Coefficients of the generator below x⁸, highest first: ∏ (x − αⁱ), i = 0 to 7. -/
def rsGen : List Nat :=
  ((List.range 8).foldl (fun g i => List.zipWith (· ^^^ ·) (g ++ [0]) (0 :: g.map (gfMul (gfPow 2 i)))) [1]).drop 1

/-- Remainder of a message times x⁸, highest coefficient first. -/
def rsRem (m : List Nat) : List Nat :=
  m.foldl (fun r c =>
    let f := c ^^^ r.headD 0
    List.zipWith (· ^^^ ·) (r.drop 1 ++ [0]) (rsGen.map (gfMul f))) (List.replicate 8 0)

/-- The message of a block: the 5 bytes of its channel address, most significant first, and its data. -/
def rsMessage (a : Nat) (data : List Byte) : List Nat := (leBytes 5 a).reverse.map BitVec.toNat ++ data.map BitVec.toNat

/-- The check word of a block at a channel address. -/
def checkWord (a : Nat) (data : List Byte) : List Byte := (rsRem (rsMessage a data)).map (BitVec.ofNat 8)

/-- The eight syndromes of a code word. -/
def rsSyndromes (w : List Nat) : List Nat := (List.range 8).map (fun i => gfEval w (gfPow 2 i))

/-- Locator, by Berlekamp and Massey, lowest coefficient first: (C, B, L, m, b) after n syndromes. -/
def rsLocator (s : List Nat) : List Nat × Nat :=
  let r := (List.range 8).foldl (fun (t : List Nat × List Nat × Nat × Nat × Nat) n =>
    let (c, b, l, m, b0) := t
    let d := (List.range (l + 1)).foldl (fun x i => x ^^^ gfMul (c.getD i 0) (s.getD (n - i) 0)) 0
    if d = 0 then (c, b, l, m + 1, b0)
    else
      let q := gfMul d (gfInv b0)
      let sh := List.replicate m 0 ++ b.map (gfMul q)
      let k := max c.length sh.length
      let c' := (List.range k).map (fun i => c.getD i 0 ^^^ sh.getD i 0)
      if 2 * l ≤ n then (c', c, n + 1 - l, 1, d) else (c', b, l, m + 1, b0)) ([1], [1], 0, 1, 1)
  (r.1, r.2.2.1)

/-- What reading a block shows. -/
inductive BlockRead where
  | clean
  | corrected (data : List Byte)
  | uncorrectable
  deriving DecidableEq, Repr

/-- The read of a block at a channel address: `raw` is the 64 data bytes and the 8 check bytes as the devices hold them. Up to 3
erroneous bytes are corrected; anything else is uncorrectable (R380). -/
def rsRead (a : Nat) (raw : List Byte) : BlockRead :=
  let w := rsMessage a (raw.take 64) ++ (raw.drop 64).map BitVec.toNat
  let s := rsSyndromes w
  if s.all (· == 0) then .clean
  else
    let c := rsLocator s
    let at' := fun p => gfPow 2 (76 - p)
    let inv := fun p => gfInv (at' p)
    let hits := (List.range 77).filter (fun p => gfEval c.1.reverse (inv p) == 0)
    if c.2 ≤ 3 ∧ hits.length = c.2 ∧ hits.all (fun p => decide (5 ≤ p)) then
      let om := (List.range 8).map (fun n =>
        (List.range (n + 1)).foldl (fun x i => x ^^^ gfMul (c.1.getD i 0) (s.getD (n - i) 0)) 0)
      let dc := (c.1.zipIdx.drop 1).map (fun e => if e.2 % 2 = 1 then e.1 else 0)
      let fix := fun p => gfMul (at' p) (gfMul (gfEval om.reverse (inv p)) (gfInv (gfEval dc.reverse (inv p))))
      let w' := w.zipIdx.map (fun e => if hits.contains e.2 then e.1 ^^^ fix e.2 else e.1)
      if (rsSyndromes w').all (· == 0) then .corrected (((w'.drop 5).take 64).map (BitVec.ofNat 8)) else .uncorrectable
    else .uncorrectable

end Sys2Proof.Machine
end

