-- ==== Sys2Proof/Machine/Crypto.lean ====
section
/-!
DEFINITION. Machine/Crypto.lean: SHA-384 (FIPS 180-4) and ECDSA verification over P-384 (FIPS 186-5), which R288, R291 and
R296 name. Constants are computed from their definitions where the standard gives one.
-/

namespace Sys2Proof.Machine

/-! ## SHA-384 -/

/-- The largest x below 2^n with x^k ≤ v, bit by bit. -/
def iroot (k v : Nat) : Nat → Nat → Nat
  | 0, acc => acc
  | n + 1, acc => iroot k v n (if (acc + 2 ^ n) ^ k ≤ v then acc + 2 ^ n else acc)

/-- The first 80 primes. -/
def primes80 : List Nat :=
  [2, 3, 5, 7, 11, 13, 17, 19, 23, 29, 31, 37, 41, 43, 47, 53, 59, 61, 67, 71, 73, 79, 83, 89, 97, 101, 103, 107, 109, 113] ++
  [127, 131, 137, 139, 149, 151, 157, 163, 167, 173, 179, 181, 191, 193, 197, 199, 211, 223, 227, 229, 233, 239, 241, 251] ++
  [257, 263, 269, 271, 277, 281, 283, 293, 307, 311, 313, 317, 331, 337, 347, 349, 353, 359, 367, 373, 379, 383, 389, 397] ++
  [401, 409]

/-- Round constants: the first 64 bits of the fractional parts of the cube roots of the first 80 primes. -/
def shaK : List Nat := primes80.map (fun p => iroot 3 (p * 2 ^ 192) 68 0 % 2 ^ 64)

/-- Initial hash of SHA-384: the first 64 bits of the fractional parts of the square roots of the 9th to 16th primes. -/
def shaInit : List Nat := ((primes80.drop 8).take 8).map (fun p => iroot 2 (p * 2 ^ 128) 70 0 % 2 ^ 64)

def rotr (n x : Nat) : Nat := x / 2 ^ n + x % 2 ^ n * 2 ^ (64 - n)

def shaS0 (x : Nat) : Nat := rotr 28 x ^^^ rotr 34 x ^^^ rotr 39 x
def shaS1 (x : Nat) : Nat := rotr 14 x ^^^ rotr 18 x ^^^ rotr 41 x
def shaLow0 (x : Nat) : Nat := rotr 1 x ^^^ rotr 8 x ^^^ (x / 2 ^ 7)
def shaLow1 (x : Nat) : Nat := rotr 19 x ^^^ rotr 61 x ^^^ (x / 2 ^ 6)

/-- The message schedule, newest word first. -/
def shaSched : Nat → List Nat → List Nat
  | 0, w => w
  | n + 1, w => shaSched n ((shaLow1 (w.getD 1 0) + w.getD 6 0 + shaLow0 (w.getD 14 0) + w.getD 15 0) % 2 ^ 64 :: w)

/-- One round. -/
def shaRound (s : List Nat) (kw : Nat × Nat) : List Nat :=
  match s with
  | [a, b, c, d, e, f, g, h] =>
    let t1 := h + shaS1 e + ((e &&& f) ^^^ ((2 ^ 64 - 1 - e) &&& g)) + kw.1 + kw.2
    let t2 := shaS0 a + ((a &&& b) ^^^ (a &&& c) ^^^ (b &&& c))
    [(t1 + t2) % 2 ^ 64, a, b, c, (d + t1) % 2 ^ 64, e, f, g]
  | l => l

/-- One block of 128 bytes. -/
def shaBlock (k : List Nat) (h : List Nat) (b : List Byte) : List Nat :=
  let w := (List.range 16).map (fun i => ofLe ((b.drop (8 * i)).take 8).reverse)
  let l := (shaSched 64 w.reverse).reverse
  (h.zip ((k.zip l).foldl shaRound h)).map (fun p => (p.1 + p.2) % 2 ^ 64)

def shaBlocks (k : List Nat) : Nat → List Nat → List Byte → List Nat
  | 0, h, _ => h
  | n + 1, h, b => shaBlocks k n (shaBlock k h (b.take 128)) (b.drop 128)

/-- The padded message. -/
def shaPad (m : List Byte) : List Byte :=
  m ++ (0x80 : Byte) :: List.replicate ((239 - m.length % 128) % 128) (0 : Byte) ++ (leBytes 16 (8 * m.length)).reverse

/-- SHA-384 of a message, as a big-endian number. -/
def sha384 (m : List Byte) : Nat :=
  let p := shaPad m
  ((shaBlocks shaK (p.length / 128) shaInit p).take 6).foldl (fun a w => a * 2 ^ 64 + w) 0

/-! ## P-384 -/

def p384 : Nat := 2 ^ 384 - 2 ^ 128 - 2 ^ 96 + 2 ^ 32 - 1
def p384n : Nat := 0xFFFFFFFFFFFFFFFFFFFFFFFFFFFFFFFFFFFFFFFFFFFFFFFFC7634D81F4372DDF581A0DB248B0A77AECEC196ACCC52973
def p384b : Nat := 0xB3312FA7E23EE7E4988E056BE3F82D19181D9C6EFE8141120314088F5013875AC656398D8A2ED19D2A85C8EDD3EC2AEF
def p384G : Option (Nat × Nat) := some
  (0xAA87CA22BE8B05378EB1C71EF320AD746E1D3B628BA79B9859F741E082542A385502F25DBF55296C3A545E3872760AB7,
   0x3617DE4A96262C6F5D9E98BF9292DC29F8F41DBD289A147CE9DA3113B5F0B8C00A60B1CE1D7E819D7A431D7C90EA0E5F)

/-- b^e mod m, over the low n bits of e. -/
def powMod (m b : Nat) : Nat → Nat → Nat → Nat
  | 0, _, acc => acc
  | n + 1, e, acc => powMod m (b * b % m) n (e / 2) (if e % 2 = 1 then acc * b % m else acc)

/-- Inverse modulo a prime of at most 384 bits. -/
def invMod (m a : Nat) : Nat := powMod m (a % m) 384 (m - 2) 1

/-- Sum of two points; none is the point at infinity. -/
def ecAdd (a b : Option (Nat × Nat)) : Option (Nat × Nat) :=
  match a, b with
  | none, q => q
  | q, none => q
  | some (x1, y1), some (x2, y2) =>
    if x1 = x2 ∧ (y1 + y2) % p384 = 0 then none
    else
      let l := if x1 = x2 then (3 * x1 * x1 + p384 - 3) * invMod p384 (2 * y1) % p384
        else (y2 + p384 - y1) * invMod p384 (x2 + p384 - x1) % p384
      let x3 := (l * l + 2 * p384 - x1 - x2) % p384
      some (x3, (l * (x1 + p384 - x3) + p384 - y1) % p384)

/-- k × point, over the low n bits of k. -/
def ecMul : Nat → Nat → Option (Nat × Nat) → Option (Nat × Nat) → Option (Nat × Nat)
  | 0, _, _, acc => acc
  | n + 1, k, q, acc => ecMul n (k / 2) (ecAdd q q) (if k % 2 = 1 then ecAdd acc q else acc)

def onCurve (x y : Nat) : Bool :=
  decide (x < p384 ∧ y < p384) && y * y % p384 == (x * x * x + (p384 - 3) * x + p384b) % p384

/-- Step 3 of R291: Q lies on the curve, r and s lie in 1 to n − 1, and the signature of a digest verifies. -/
def ecdsaOk (qx qy r s digest : Nat) : Bool :=
  onCurve qx qy && decide (1 ≤ r ∧ r < p384n ∧ 1 ≤ s ∧ s < p384n) &&
    (let w := invMod p384n s
     match ecAdd (ecMul 384 (digest * w % p384n) p384G none) (ecMul 384 (r * w % p384n) (some (qx, qy)) none) with
     | none => false
     | some (x, _) => x % p384n == r)

end Sys2Proof.Machine
end

