-- ==== Sys2Proof/Machine/SMap.lean ====
section
/-!
DEFINITION. Machine/SMap.lean: sparse maps from a Nat key to plain data, in one canonical form: keys strictly rising,
and no entry equal to what an unlisted key reads as. Memory (R200), the registers and the tables of the spec are all held
in this form, so that equal contents are equal data.
-/

namespace Sys2Proof.Machine

/-- A sparse map: (key, value) pairs. -/
abbrev SMap (α : Type) := List (Nat × α)

/-- The value at key `k`, or `d` where no entry stands. -/
def SMap.get {α : Type} (d : α) (m : SMap α) (k : Nat) : α :=
  match m with
  | [] => d
  | (k', v) :: t => if k' = k then v else SMap.get d t k

/-- Put `v` at key `k` without regard to the default, keeping the keys rising. -/
def SMap.put {α : Type} (m : SMap α) (k : Nat) (v : α) : SMap α :=
  match m with
  | [] => [(k, v)]
  | (k', v') :: t =>
    if k < k' then (k, v) :: (k', v') :: t
    else if k = k' then (k, v) :: t
    else (k', v') :: SMap.put t k v

/-- Remove the entry at key `k`, if there is one. -/
def SMap.del {α : Type} (m : SMap α) (k : Nat) : SMap α := m.filter (fun e => !decide (e.1 = k))

/-- Write `v` at key `k`: an entry equal to the default is removed. -/
def SMap.set {α : Type} [DecidableEq α] (d : α) (m : SMap α) (k : Nat) (v : α) : SMap α :=
  if v = d then m.del k else m.put k v

/-- The keys of a map rise strictly from a bound. -/
def SMap.rising {α : Type} (m : SMap α) (lo : Nat) : Bool :=
  match m with
  | [] => true
  | (k, _) :: t => decide (lo ≤ k) && SMap.rising t (k + 1)

/-- The canonical form: keys strictly rising, no entry equal to the default `d`. -/
def SMap.wf {α : Type} [DecidableEq α] (d : α) (m : SMap α) : Bool :=
  SMap.rising m 0 && m.all (fun e => decide (e.2 ≠ d))

end Sys2Proof.Machine
end

