-- ==== Sys2Proof/Machine/Fields.lean ====
section
/-!
DEFINITION. Machine/Fields.lean: every register and every register field of the spec's register tables, with its block,
offset, array stride, width, bit range, access code (R10), expert mark (R13) and reset value. The tables are those of
spec/01 to spec/17 under the headings "... registers"; the MSI-X table and its pending-bit array are those of R388.
-/

namespace Sys2Proof.Machine

/-- Access codes of R10. -/
inductive Acc where
  | rw | ro | w1c | w1s | wo | rws | rwl
  deriving DecidableEq, Repr

/-- Where a register stands: a package block of BAR0 (R26), a die window (R27), a tile block (R81), a function page
(R388), a queue-pair entry (R388), or a quota record (R388). -/
inductive Place where
  | pkg | die | tile | fn | qp | fnq
  deriving DecidableEq, Repr

/-- One register, or one array of registers: offset of element 0 within its place, element count, stride, bits. -/
structure RegInfo where
  place : Place
  off : Nat
  cnt : Nat
  stride : Nat
  width : Nat
  deriving DecidableEq, Repr

/-- The registers, under the manual's names without the index letter. -/
inductive Reg where
  | GLB_ID
  | GLB_CAPACITY
  | TIL_CTRL
  | TIL_STATUS
  | TIL_MAP
  | TIL_PLACE
  | TIL_EXTENT
  | TIL_SPARES
  | TIL_STITCHES
  | TIL_RSTITCHES
  | TIL_LASTGOOD
  | TIL_PROGTIME
  | TIL_CHECK
  | TIL_SPARECOL
  | DRV_CFG
  | DRV_SLEW
  | DRV_STAT
  | DRV_OUTRUN
  | DRV_CLAMP
  | DRV_UCSTAT
  | WFM_ADDR
  | WFM_DATA
  | WFM_STAT
  | WFM_PLAY_CTRL
  | WFM_PLAY_TARGET
  | WFM_PLAY_TSTART
  | WFM_PLAY_TSTOP
  | WFM_PLAY_STAT
  | WFM_PLAY_CNT
  | WFM_PLAY_LATE
  | HEM_CFG
  | HEM_SAT
  | HEM_TAPS
  | HEM_CONVSUB
  | HEM_CSAT
  | HEM_OSAT
  | HEM_RERUN
  | HEM_REFCHK
  | HEM_MSEREF_SUM
  | HEM_MSEREF_CNT
  | HEM_MSEQ_CNT
  | HEM_MSEQ_SUM
  | HEM_CTRL
  | HEM_RSAT
  | YOK_CTRL
  | YOK_STATUS
  | YOK_PERIOD
  | YOK_THROTTLE
  | YOK_SETTLE
  | YOK_SEAM
  | YOK_IBUDGET
  | YOK_ACCT
  | YOK_STITCHNO
  | YOK_LASTSTROBE
  | YOK_SPLITS
  | YOK_EXTENDS
  | YOK_THROTTLED
  | YOK_DEFERRED
  | YOK_OVERBUDGET
  | YOK_MISS
  | YOK_SKEW
  | SEQ_CFG
  | SEQ_CTRL
  | SEQ_STAT
  | SEQ_TASK
  | SEQ_JOB
  | SEQ_PC
  | SEQ_TRAP
  | DGA_CTRL
  | DGA_STATUS
  | DGA_DUTY
  | DGA_CYCLES
  | DGA_MACS
  | DGA_SAT
  | DGA_NAN
  | DGA_OPWAIT
  | DGA_GUS_STALL
  | DGA_GUS_BYTES
  | DGA_GUS_LATE
  | DGA_ADDFULL
  | PRG_CTRL
  | PRG_STATUS
  | PRG_CFG
  | PRG_STORE
  | PRG_TILES
  | PRG_ITERS
  | PRG_COLFAIL
  | PRG_LATECNT
  | PRG_MAXLATE
  | PRG_ENG
  | CAL_CTRL
  | CAL_STATUS
  | CAL_CFG
  | CAL_DRIFT
  | CAL_TRACE
  | CAL_RAMP
  | CAL_LIMIT
  | CAL_REFRESH
  | CAL_TEMP
  | CAL_TAB_ADDR
  | CAL_TAB_DATA
  | CAL_TAB_STAT
  | CAL_HANDBACK
  | CAL_REJECTS
  | CAL_FULLS
  | CAL_LASTTRACE
  | MCV_CTRL
  | MCV_STAT
  | MCV_SEQCFG
  | MCV_PLAUS
  | MCV_SCAL
  | MCV_TFAB
  | MCV_PREEMPT
  | MCV_TRIG
  | MCV_TTRIG
  | MCV_SIMRES
  | MCV_SIMTIME
  | MCV_SEQA
  | MCV_SEQB
  | MCV_RES
  | TLM_CTRL
  | TLM_PERIOD
  | TLM_CHAN
  | TLM_RING
  | TLM_WB
  | TLM_RDIDX
  | TLM_WRIDX
  | TLM_STAT
  | TLM_CNT
  | TLM_DROP
  | TLM_TSTART
  | TLM_TSTOP
  | TLM_LATE
  | BNK_OWNER
  | BNK_CTRL
  | BNK_STAT
  | BNK_COLLIDE
  | BNK_DENIED
  | BNK_HANDOVERS
  | BNK_ECC_CORR
  | BNK_ECC_UNCORR
  | BNK_SCRUB
  | BNK_ECC_ADDR
  | BNK_DIAG
  | BNK_DIAGDATA
  | BNK_DIAGCHK
  | MEM_CTRL
  | MEM_CFG
  | MEM_STAT
  | MEM_CAP
  | MEM_ARB
  | MEM_SCRUB
  | MEM_CORR
  | MEM_UNCORR
  | MEM_RETRAIN
  | MEM_LECC
  | MEM_UNCORR_ADDR
  | MEM_CH
  | FN_STAT
  | JOB_CFG
  | EVR_BASE
  | EVR_CTRL
  | EVR_HEAD
  | EVR_TAIL
  | EVR_OVF
  | EVR_MOD
  | BAR2_AP
  | QP_SQBASE
  | QP_CQBASE
  | QP_CFG
  | QP_SQTAIL
  | QP_CQHEAD
  | QP_STAT
  | FNQ_Q0
  | FNQ_Q1
  | FNQ_Q2
  | FNQ_SHARE
  | FNQ_HELD
  | FNQ_OVER
  | FNQ_GRANT
  | MIR_CFG
  | MIR_CTRL
  | MIR_STAT
  | MIR_LASTHB
  | MIR_EPOCH
  | MIR_CRCERR
  | MIR_REPLAY
  | MIR_HBMISS
  | MIR_TAKES
  | MIR_FN
  | FLT_CTRL
  | FLT_TOCNT
  | FLT_DIE
  | FLT_SUPCNT
  | FLT_LASTSUP
  | FLT_RESTARTS
  | FLT_EXHAUSTED
  | CLK_CTRL
  | CLK_STAT
  | CLK_GATE_STATUS
  | CLK_PLL
  | CLK_LOCK
  | CLK_GATE
  | CLK_SG
  | CLK_BG
  | CLK_DTIME
  | CLK_DTSET
  | CLK_DTCTRL
  | PWR_CTRL
  | PWR_STAT
  | PWR_PKG_BUDGET
  | PWR_SHED_BUDGET
  | PWR_SHED_CFG
  | PWR_THERM
  | PWR_DIE
  | START_REPORT
  | START_TIME
  | PKT_STAT
  | PKT_ADDR
  | PKT_DATA
  | PKT_PAGE
  | PKT_UNLOCK
  | PKT_UNLOCKSEL
  | PKT_LIFE_POH
  | PKT_LIFE_CYCLES
  | PKT_LIFE_ENERGY
  | PKT_LIFE_STITCHES
  | PKT_WEARSEL
  | PKT_WEAR
  | CHN_CFG
  | CHN_STAT
  | MSIX_ADDR
  | MSIX_DATA
  | MSIX_CTRL
  | MSIX_PBA
  deriving DecidableEq, Repr

/-- Places, offsets, counts, strides and widths, as the register tables give them. -/
def Reg.info : Reg → RegInfo
  | .GLB_ID => ⟨.pkg, 0x0, 1, 0, 32⟩
  | .GLB_CAPACITY => ⟨.pkg, 0x10, 1, 0, 64⟩
  | .TIL_CTRL => ⟨.tile, 0x0, 1, 0, 32⟩
  | .TIL_STATUS => ⟨.tile, 0x4, 1, 0, 32⟩
  | .TIL_MAP => ⟨.tile, 0x8, 1, 0, 32⟩
  | .TIL_PLACE => ⟨.tile, 0xc, 1, 0, 32⟩
  | .TIL_EXTENT => ⟨.tile, 0x10, 1, 0, 32⟩
  | .TIL_SPARES => ⟨.tile, 0x14, 1, 0, 32⟩
  | .TIL_STITCHES => ⟨.tile, 0x18, 1, 0, 64⟩
  | .TIL_RSTITCHES => ⟨.tile, 0x20, 1, 0, 64⟩
  | .TIL_LASTGOOD => ⟨.tile, 0x28, 1, 0, 64⟩
  | .TIL_PROGTIME => ⟨.tile, 0x30, 1, 0, 64⟩
  | .TIL_CHECK => ⟨.tile, 0x38, 1, 0, 32⟩
  | .TIL_SPARECOL => ⟨.tile, 0x40, 16, 0x4, 32⟩
  | .DRV_CFG => ⟨.tile, 0x100, 1, 0, 32⟩
  | .DRV_SLEW => ⟨.tile, 0x104, 1, 0, 32⟩
  | .DRV_STAT => ⟨.tile, 0x108, 1, 0, 32⟩
  | .DRV_OUTRUN => ⟨.tile, 0x10c, 1, 0, 32⟩
  | .DRV_CLAMP => ⟨.tile, 0x110, 1, 0, 32⟩
  | .DRV_UCSTAT => ⟨.tile, 0x114, 1, 0, 32⟩
  | .WFM_ADDR => ⟨.die, 0x70000, 1, 0, 32⟩
  | .WFM_DATA => ⟨.die, 0x70004, 1, 0, 32⟩
  | .WFM_STAT => ⟨.die, 0x70008, 1, 0, 32⟩
  | .WFM_PLAY_CTRL => ⟨.die, 0x70100, 16, 0x40, 32⟩
  | .WFM_PLAY_TARGET => ⟨.die, 0x70104, 16, 0x40, 32⟩
  | .WFM_PLAY_TSTART => ⟨.die, 0x70108, 16, 0x40, 64⟩
  | .WFM_PLAY_TSTOP => ⟨.die, 0x70110, 16, 0x40, 64⟩
  | .WFM_PLAY_STAT => ⟨.die, 0x70118, 16, 0x40, 32⟩
  | .WFM_PLAY_CNT => ⟨.die, 0x7011c, 16, 0x40, 32⟩
  | .WFM_PLAY_LATE => ⟨.die, 0x70120, 16, 0x40, 64⟩
  | .HEM_CFG => ⟨.tile, 0x180, 1, 0, 32⟩
  | .HEM_SAT => ⟨.tile, 0x184, 1, 0, 32⟩
  | .HEM_TAPS => ⟨.tile, 0x188, 1, 0, 32⟩
  | .HEM_CONVSUB => ⟨.tile, 0x18c, 1, 0, 32⟩
  | .HEM_CSAT => ⟨.tile, 0x190, 1, 0, 32⟩
  | .HEM_OSAT => ⟨.tile, 0x194, 1, 0, 32⟩
  | .HEM_RERUN => ⟨.tile, 0x198, 1, 0, 32⟩
  | .HEM_REFCHK => ⟨.tile, 0x19c, 1, 0, 32⟩
  | .HEM_MSEREF_SUM => ⟨.tile, 0x1a0, 1, 0, 64⟩
  | .HEM_MSEREF_CNT => ⟨.tile, 0x1a8, 1, 0, 32⟩
  | .HEM_MSEQ_CNT => ⟨.tile, 0x1ac, 1, 0, 32⟩
  | .HEM_MSEQ_SUM => ⟨.tile, 0x1b0, 1, 0, 64⟩
  | .HEM_CTRL => ⟨.tile, 0x1b8, 1, 0, 32⟩
  | .HEM_RSAT => ⟨.tile, 0x1bc, 1, 0, 32⟩
  | .YOK_CTRL => ⟨.pkg, 0x30000, 1, 0, 32⟩
  | .YOK_STATUS => ⟨.pkg, 0x30004, 1, 0, 32⟩
  | .YOK_PERIOD => ⟨.pkg, 0x30008, 1, 0, 32⟩
  | .YOK_THROTTLE => ⟨.pkg, 0x3000c, 1, 0, 32⟩
  | .YOK_SETTLE => ⟨.pkg, 0x30010, 1, 0, 32⟩
  | .YOK_SEAM => ⟨.pkg, 0x30014, 1, 0, 32⟩
  | .YOK_IBUDGET => ⟨.pkg, 0x30018, 1, 0, 32⟩
  | .YOK_ACCT => ⟨.pkg, 0x3001c, 1, 0, 32⟩
  | .YOK_STITCHNO => ⟨.pkg, 0x30020, 1, 0, 64⟩
  | .YOK_LASTSTROBE => ⟨.pkg, 0x30028, 1, 0, 64⟩
  | .YOK_SPLITS => ⟨.pkg, 0x30030, 1, 0, 32⟩
  | .YOK_EXTENDS => ⟨.pkg, 0x30034, 1, 0, 32⟩
  | .YOK_THROTTLED => ⟨.pkg, 0x30038, 1, 0, 32⟩
  | .YOK_DEFERRED => ⟨.pkg, 0x3003c, 1, 0, 32⟩
  | .YOK_OVERBUDGET => ⟨.pkg, 0x30040, 1, 0, 32⟩
  | .YOK_MISS => ⟨.pkg, 0x30048, 4, 0x4, 32⟩
  | .YOK_SKEW => ⟨.pkg, 0x30080, 8, 0x4, 32⟩
  | .SEQ_CFG => ⟨.die, 0x10000, 1, 0, 32⟩
  | .SEQ_CTRL => ⟨.die, 0x10004, 1, 0, 32⟩
  | .SEQ_STAT => ⟨.die, 0x10008, 1, 0, 32⟩
  | .SEQ_TASK => ⟨.die, 0x10100, 8, 0x20, 32⟩
  | .SEQ_JOB => ⟨.die, 0x10108, 8, 0x20, 64⟩
  | .SEQ_PC => ⟨.die, 0x10110, 8, 0x20, 32⟩
  | .SEQ_TRAP => ⟨.die, 0x10114, 8, 0x20, 32⟩
  | .DGA_CTRL => ⟨.die, 0x30000, 1, 0, 32⟩
  | .DGA_STATUS => ⟨.die, 0x30004, 1, 0, 32⟩
  | .DGA_DUTY => ⟨.die, 0x30008, 1, 0, 32⟩
  | .DGA_CYCLES => ⟨.die, 0x30010, 1, 0, 64⟩
  | .DGA_MACS => ⟨.die, 0x30018, 1, 0, 64⟩
  | .DGA_SAT => ⟨.die, 0x30020, 1, 0, 32⟩
  | .DGA_NAN => ⟨.die, 0x30024, 1, 0, 32⟩
  | .DGA_OPWAIT => ⟨.die, 0x30028, 1, 0, 64⟩
  | .DGA_GUS_STALL => ⟨.die, 0x30030, 1, 0, 64⟩
  | .DGA_GUS_BYTES => ⟨.die, 0x30038, 1, 0, 64⟩
  | .DGA_GUS_LATE => ⟨.die, 0x30040, 1, 0, 32⟩
  | .DGA_ADDFULL => ⟨.die, 0x30044, 1, 0, 32⟩
  | .PRG_CTRL => ⟨.die, 0x60000, 1, 0, 32⟩
  | .PRG_STATUS => ⟨.die, 0x60004, 1, 0, 32⟩
  | .PRG_CFG => ⟨.die, 0x60008, 1, 0, 32⟩
  | .PRG_STORE => ⟨.die, 0x6000c, 1, 0, 32⟩
  | .PRG_TILES => ⟨.die, 0x60010, 1, 0, 64⟩
  | .PRG_ITERS => ⟨.die, 0x60018, 1, 0, 64⟩
  | .PRG_COLFAIL => ⟨.die, 0x60020, 1, 0, 32⟩
  | .PRG_LATECNT => ⟨.die, 0x60024, 1, 0, 32⟩
  | .PRG_MAXLATE => ⟨.die, 0x60028, 1, 0, 64⟩
  | .PRG_ENG => ⟨.die, 0x60100, 16, 0x4, 32⟩
  | .CAL_CTRL => ⟨.die, 0x50000, 1, 0, 32⟩
  | .CAL_STATUS => ⟨.die, 0x50004, 1, 0, 32⟩
  | .CAL_CFG => ⟨.die, 0x50008, 1, 0, 32⟩
  | .CAL_DRIFT => ⟨.die, 0x5000c, 1, 0, 32⟩
  | .CAL_TRACE => ⟨.die, 0x50010, 1, 0, 32⟩
  | .CAL_RAMP => ⟨.die, 0x50014, 1, 0, 32⟩
  | .CAL_LIMIT => ⟨.die, 0x50018, 1, 0, 32⟩
  | .CAL_REFRESH => ⟨.die, 0x5001c, 1, 0, 32⟩
  | .CAL_TEMP => ⟨.die, 0x50020, 1, 0, 32⟩
  | .CAL_TAB_ADDR => ⟨.die, 0x50024, 1, 0, 32⟩
  | .CAL_TAB_DATA => ⟨.die, 0x50028, 1, 0, 32⟩
  | .CAL_TAB_STAT => ⟨.die, 0x5002c, 1, 0, 32⟩
  | .CAL_HANDBACK => ⟨.die, 0x50030, 1, 0, 32⟩
  | .CAL_REJECTS => ⟨.die, 0x50034, 1, 0, 32⟩
  | .CAL_FULLS => ⟨.die, 0x50038, 1, 0, 32⟩
  | .CAL_LASTTRACE => ⟨.die, 0x50040, 1, 0, 64⟩
  | .MCV_CTRL => ⟨.die, 0x40000, 1, 0, 32⟩
  | .MCV_STAT => ⟨.die, 0x40004, 1, 0, 32⟩
  | .MCV_SEQCFG => ⟨.die, 0x40008, 1, 0, 32⟩
  | .MCV_PLAUS => ⟨.die, 0x4000c, 1, 0, 32⟩
  | .MCV_SCAL => ⟨.die, 0x40010, 1, 0, 32⟩
  | .MCV_TFAB => ⟨.die, 0x40014, 1, 0, 32⟩
  | .MCV_PREEMPT => ⟨.die, 0x40018, 1, 0, 32⟩
  | .MCV_TRIG => ⟨.die, 0x4001c, 1, 0, 32⟩
  | .MCV_TTRIG => ⟨.die, 0x40020, 1, 0, 64⟩
  | .MCV_SIMRES => ⟨.die, 0x40028, 1, 0, 64⟩
  | .MCV_SIMTIME => ⟨.die, 0x40030, 1, 0, 64⟩
  | .MCV_SEQA => ⟨.die, 0x40100, 32, 0x4, 32⟩
  | .MCV_SEQB => ⟨.die, 0x40180, 32, 0x4, 32⟩
  | .MCV_RES => ⟨.die, 0x40200, 46, 0x8, 64⟩
  | .TLM_CTRL => ⟨.die, 0x40800, 16, 0x80, 32⟩
  | .TLM_PERIOD => ⟨.die, 0x40804, 16, 0x80, 32⟩
  | .TLM_CHAN => ⟨.die, 0x40808, 16, 0x80, 64⟩
  | .TLM_RING => ⟨.die, 0x40810, 16, 0x80, 64⟩
  | .TLM_WB => ⟨.die, 0x40818, 16, 0x80, 64⟩
  | .TLM_RDIDX => ⟨.die, 0x40820, 16, 0x80, 32⟩
  | .TLM_WRIDX => ⟨.die, 0x40848, 16, 0x80, 32⟩
  | .TLM_STAT => ⟨.die, 0x40824, 16, 0x80, 32⟩
  | .TLM_CNT => ⟨.die, 0x40828, 16, 0x80, 32⟩
  | .TLM_DROP => ⟨.die, 0x4082c, 16, 0x80, 32⟩
  | .TLM_TSTART => ⟨.die, 0x40830, 16, 0x80, 64⟩
  | .TLM_TSTOP => ⟨.die, 0x40838, 16, 0x80, 64⟩
  | .TLM_LATE => ⟨.die, 0x40840, 16, 0x80, 64⟩
  | .BNK_OWNER => ⟨.die, 0x20000, 80, 0x4, 32⟩
  | .BNK_CTRL => ⟨.die, 0x20200, 1, 0, 32⟩
  | .BNK_STAT => ⟨.die, 0x20204, 1, 0, 32⟩
  | .BNK_COLLIDE => ⟨.die, 0x20208, 1, 0, 32⟩
  | .BNK_DENIED => ⟨.die, 0x2020c, 1, 0, 32⟩
  | .BNK_HANDOVERS => ⟨.die, 0x20210, 1, 0, 32⟩
  | .BNK_ECC_CORR => ⟨.die, 0x20214, 1, 0, 32⟩
  | .BNK_ECC_UNCORR => ⟨.die, 0x20218, 1, 0, 32⟩
  | .BNK_SCRUB => ⟨.die, 0x2021c, 1, 0, 32⟩
  | .BNK_ECC_ADDR => ⟨.die, 0x20220, 1, 0, 64⟩
  | .BNK_DIAG => ⟨.die, 0x20228, 1, 0, 64⟩
  | .BNK_DIAGDATA => ⟨.die, 0x20230, 1, 0, 64⟩
  | .BNK_DIAGCHK => ⟨.die, 0x20238, 1, 0, 32⟩
  | .MEM_CTRL => ⟨.die, 0x80000, 1, 0, 32⟩
  | .MEM_CFG => ⟨.die, 0x80004, 1, 0, 32⟩
  | .MEM_STAT => ⟨.die, 0x80008, 1, 0, 32⟩
  | .MEM_CAP => ⟨.die, 0x80010, 1, 0, 64⟩
  | .MEM_ARB => ⟨.die, 0x80018, 1, 0, 32⟩
  | .MEM_SCRUB => ⟨.die, 0x8001c, 1, 0, 32⟩
  | .MEM_CORR => ⟨.die, 0x80020, 1, 0, 32⟩
  | .MEM_UNCORR => ⟨.die, 0x80024, 1, 0, 32⟩
  | .MEM_RETRAIN => ⟨.die, 0x80028, 1, 0, 32⟩
  | .MEM_LECC => ⟨.die, 0x8002c, 1, 0, 32⟩
  | .MEM_UNCORR_ADDR => ⟨.die, 0x80030, 1, 0, 64⟩
  | .MEM_CH => ⟨.die, 0x80100, 4, 0x4, 32⟩
  | .FN_STAT => ⟨.fn, 0x0, 1, 0, 32⟩
  | .JOB_CFG => ⟨.fn, 0x4, 1, 0, 32⟩
  | .EVR_BASE => ⟨.fn, 0x8, 1, 0, 64⟩
  | .EVR_CTRL => ⟨.fn, 0x10, 1, 0, 32⟩
  | .EVR_HEAD => ⟨.fn, 0x14, 1, 0, 32⟩
  | .EVR_TAIL => ⟨.fn, 0x18, 1, 0, 32⟩
  | .EVR_OVF => ⟨.fn, 0x1c, 1, 0, 32⟩
  | .EVR_MOD => ⟨.fn, 0x20, 1, 0, 32⟩
  | .BAR2_AP => ⟨.fn, 0x100, 64, 0x8, 64⟩
  | .QP_SQBASE => ⟨.qp, 0x0, 1, 0, 64⟩
  | .QP_CQBASE => ⟨.qp, 0x8, 1, 0, 64⟩
  | .QP_CFG => ⟨.qp, 0x10, 1, 0, 32⟩
  | .QP_SQTAIL => ⟨.qp, 0x14, 1, 0, 32⟩
  | .QP_CQHEAD => ⟨.qp, 0x18, 1, 0, 32⟩
  | .QP_STAT => ⟨.qp, 0x1c, 1, 0, 32⟩
  | .FNQ_Q0 => ⟨.fnq, 0x0, 1, 0, 32⟩
  | .FNQ_Q1 => ⟨.fnq, 0x4, 1, 0, 32⟩
  | .FNQ_Q2 => ⟨.fnq, 0x8, 1, 0, 32⟩
  | .FNQ_SHARE => ⟨.fnq, 0xc, 1, 0, 32⟩
  | .FNQ_HELD => ⟨.fnq, 0x10, 1, 0, 64⟩
  | .FNQ_OVER => ⟨.fnq, 0x18, 1, 0, 32⟩
  | .FNQ_GRANT => ⟨.fnq, 0x20, 1, 0, 64⟩
  | .MIR_CFG => ⟨.pkg, 0x60000, 1, 0, 32⟩
  | .MIR_CTRL => ⟨.pkg, 0x60004, 1, 0, 32⟩
  | .MIR_STAT => ⟨.pkg, 0x60008, 1, 0, 32⟩
  | .MIR_LASTHB => ⟨.pkg, 0x60010, 1, 0, 64⟩
  | .MIR_EPOCH => ⟨.pkg, 0x60018, 1, 0, 32⟩
  | .MIR_CRCERR => ⟨.pkg, 0x60020, 1, 0, 32⟩
  | .MIR_REPLAY => ⟨.pkg, 0x60024, 1, 0, 32⟩
  | .MIR_HBMISS => ⟨.pkg, 0x60028, 1, 0, 32⟩
  | .MIR_TAKES => ⟨.pkg, 0x6002c, 1, 0, 32⟩
  | .MIR_FN => ⟨.pkg, 0x60100, 128, 0x4, 32⟩
  | .FLT_CTRL => ⟨.pkg, 0x70000, 1, 0, 32⟩
  | .FLT_TOCNT => ⟨.pkg, 0x70010, 8, 0x4, 32⟩
  | .FLT_DIE => ⟨.pkg, 0x70040, 8, 0x4, 32⟩
  | .FLT_SUPCNT => ⟨.pkg, 0x70060, 1, 0, 32⟩
  | .FLT_LASTSUP => ⟨.pkg, 0x70064, 1, 0, 32⟩
  | .FLT_RESTARTS => ⟨.pkg, 0x70068, 1, 0, 32⟩
  | .FLT_EXHAUSTED => ⟨.pkg, 0x7006c, 1, 0, 32⟩
  | .CLK_CTRL => ⟨.pkg, 0x10000, 1, 0, 32⟩
  | .CLK_STAT => ⟨.pkg, 0x10004, 1, 0, 32⟩
  | .CLK_GATE_STATUS => ⟨.pkg, 0x10008, 1, 0, 32⟩
  | .CLK_PLL => ⟨.pkg, 0x10010, 5, 0x4, 32⟩
  | .CLK_LOCK => ⟨.pkg, 0x10040, 8, 0x4, 32⟩
  | .CLK_GATE => ⟨.pkg, 0x10060, 8, 0x4, 32⟩
  | .CLK_SG => ⟨.pkg, 0x10080, 8, 0x8, 64⟩
  | .CLK_BG => ⟨.pkg, 0x100c0, 8, 0x4, 32⟩
  | .CLK_DTIME => ⟨.pkg, 0x100e0, 1, 0, 64⟩
  | .CLK_DTSET => ⟨.pkg, 0x100e8, 1, 0, 64⟩
  | .CLK_DTCTRL => ⟨.pkg, 0x100f0, 1, 0, 32⟩
  | .PWR_CTRL => ⟨.pkg, 0x20000, 1, 0, 32⟩
  | .PWR_STAT => ⟨.pkg, 0x20004, 1, 0, 32⟩
  | .PWR_PKG_BUDGET => ⟨.pkg, 0x20008, 1, 0, 32⟩
  | .PWR_SHED_BUDGET => ⟨.pkg, 0x2000c, 1, 0, 32⟩
  | .PWR_SHED_CFG => ⟨.pkg, 0x20010, 1, 0, 32⟩
  | .PWR_THERM => ⟨.pkg, 0x20014, 1, 0, 32⟩
  | .PWR_DIE => ⟨.pkg, 0x20020, 8, 0x8, 64⟩
  | .START_REPORT => ⟨.pkg, 0x20080, 1, 0, 32⟩
  | .START_TIME => ⟨.pkg, 0x20084, 1, 0, 32⟩
  | .PKT_STAT => ⟨.pkg, 0x40000, 1, 0, 32⟩
  | .PKT_ADDR => ⟨.pkg, 0x40004, 1, 0, 32⟩
  | .PKT_DATA => ⟨.pkg, 0x40008, 1, 0, 32⟩
  | .PKT_PAGE => ⟨.pkg, 0x4000c, 1, 0, 32⟩
  | .PKT_UNLOCK => ⟨.pkg, 0x40010, 1, 0, 64⟩
  | .PKT_UNLOCKSEL => ⟨.pkg, 0x40018, 1, 0, 32⟩
  | .PKT_LIFE_POH => ⟨.pkg, 0x4001c, 1, 0, 32⟩
  | .PKT_LIFE_CYCLES => ⟨.pkg, 0x40020, 1, 0, 32⟩
  | .PKT_LIFE_ENERGY => ⟨.pkg, 0x40028, 1, 0, 64⟩
  | .PKT_LIFE_STITCHES => ⟨.pkg, 0x40030, 1, 0, 64⟩
  | .PKT_WEARSEL => ⟨.pkg, 0x40038, 1, 0, 32⟩
  | .PKT_WEAR => ⟨.pkg, 0x4003c, 1, 0, 32⟩
  | .CHN_CFG => ⟨.pkg, 0x50000, 1, 0, 32⟩
  | .CHN_STAT => ⟨.pkg, 0x50004, 1, 0, 32⟩
  | .MSIX_ADDR => ⟨.fn, 0x1000, 16, 0x10, 64⟩
  | .MSIX_DATA => ⟨.fn, 0x1008, 16, 0x10, 32⟩
  | .MSIX_CTRL => ⟨.fn, 0x100c, 16, 0x10, 32⟩
  | .MSIX_PBA => ⟨.fn, 0x1800, 1, 0, 64⟩

/-- One field: its register, its most and least significant bit, its access code, its expert mark, its reset value.
Where the table gives no single number, `rst` is 0 and `State.fieldReset` gives the value. -/
structure FieldInfo where
  reg : Reg
  hi : Nat
  lo : Nat
  acc : Acc
  expert : Bool
  rst : Nat
  deriving DecidableEq, Repr

/-- The fields, REGISTER_FIELD. -/
inductive Field where
  | GLB_ID_PART
  | GLB_ID_GRADE
  | GLB_ID_DIES
  | GLB_ID_STEPPING
  | GLB_CAPACITY_SLOTS_LOST
  | GLB_CAPACITY_SPARE_TILES
  | GLB_CAPACITY_MAPPABLE_TILES
  | GLB_CAPACITY_HEAD
  | GLB_CAPACITY_DIE_PRESENT
  | GLB_CAPACITY_DIE_ONLINE
  | TIL_CTRL_RETIRE
  | TIL_CTRL_HOLD
  | TIL_CTRL_PRECISION
  | TIL_CTRL_HANDBACK
  | TIL_STATUS_STATE
  | TIL_STATUS_HOLD_CAUSE
  | TIL_STATUS_SUSPECT
  | TIL_STATUS_REV_LOST
  | TIL_STATUS_EXPERT
  | TIL_STATUS_REFUSED
  | TIL_STATUS_CAL_REJ_RUN
  | TIL_STATUS_REPLACES
  | TIL_MAP_VALID
  | TIL_MAP_MAP
  | TIL_MAP_SLOT
  | TIL_MAP_LAYER
  | TIL_PLACE_ROWBLK
  | TIL_PLACE_COLBLK
  | TIL_EXTENT_ROWS_M1
  | TIL_EXTENT_COLS_M1
  | TIL_SPARES_SPARE_COLS_FREE
  | TIL_SPARES_SPARE_CONV_FREE
  | TIL_STITCHES_COUNT
  | TIL_RSTITCHES_COUNT
  | TIL_LASTGOOD_TIME
  | TIL_PROGTIME_TIME
  | TIL_CHECK_TOL
  | TIL_CHECK_FAILS
  | TIL_SPARECOL_BLK3
  | TIL_SPARECOL_BLK2
  | TIL_SPARECOL_BLK1
  | TIL_SPARECOL_BLK0
  | DRV_CFG_SPAN
  | DRV_CFG_FS
  | DRV_CFG_HANDBACK
  | DRV_SLEW_STEP
  | DRV_SLEW_RATE
  | DRV_STAT_REFUSED
  | DRV_STAT_PEND
  | DRV_STAT_PLAYING
  | DRV_STAT_EXPERT
  | DRV_STAT_LASTRAMP
  | DRV_OUTRUN_COUNT
  | DRV_CLAMP_COUNT
  | DRV_UCSTAT_ROWS_ALT
  | DRV_UCSTAT_ROWS_FAILED
  | WFM_ADDR_AUTOINC
  | WFM_ADDR_WAVE
  | WFM_ADDR_POINT
  | WFM_DATA_POINT
  | WFM_STAT_REFUSED
  | WFM_STAT_HANDBACK
  | WFM_STAT_CLAMP_CNT
  | WFM_PLAY_CTRL_START
  | WFM_PLAY_CTRL_STOP
  | WFM_PLAY_CTRL_CANCEL
  | WFM_PLAY_CTRL_TSTART
  | WFM_PLAY_CTRL_TSTOP
  | WFM_PLAY_CTRL_WAVE
  | WFM_PLAY_CTRL_REPEAT
  | WFM_PLAY_CTRL_INTERVAL
  | WFM_PLAY_TARGET_TILE
  | WFM_PLAY_TARGET_FIRST_ROW
  | WFM_PLAY_TARGET_ROWS_M1
  | WFM_PLAY_TSTART_TIME
  | WFM_PLAY_TSTOP_TIME
  | WFM_PLAY_STAT_STATE
  | WFM_PLAY_STAT_CLOCK_ABORT
  | WFM_PLAY_STAT_STATUS
  | WFM_PLAY_STAT_FLAGS
  | WFM_PLAY_STAT_POINT
  | WFM_PLAY_CNT_ORDER_CNT
  | WFM_PLAY_CNT_RESTART_CNT
  | WFM_PLAY_LATE_LATENESS
  | HEM_CFG_RANGE
  | HEM_CFG_MSE_REF
  | HEM_CFG_MSE_Q
  | HEM_SAT_LIMIT
  | HEM_TAPS_STALE
  | HEM_TAPS_PEND
  | HEM_TAPS_WSTOP
  | HEM_TAPS_WSTART
  | HEM_CONVSUB_SP75
  | HEM_CONVSUB_SP74
  | HEM_CONVSUB_SP73
  | HEM_CONVSUB_SP72
  | HEM_CSAT_COUNT
  | HEM_OSAT_COUNT
  | HEM_RERUN_COUNT
  | HEM_REFCHK_TOL
  | HEM_REFCHK_REF_FAILS
  | HEM_MSEREF_SUM_SUM
  | HEM_MSEREF_CNT_COUNT
  | HEM_MSEQ_CNT_COUNT
  | HEM_MSEQ_SUM_SUM
  | HEM_CTRL_CLEAR
  | HEM_CTRL_HANDBACK
  | HEM_RSAT_COUNT
  | YOK_CTRL_HOLD_ALL
  | YOK_CTRL_SPLIT_EN
  | YOK_CTRL_CLEAR
  | YOK_CTRL_HANDBACK
  | YOK_STATUS_FIRING
  | YOK_STATUS_MOVING
  | YOK_STATUS_EXPERT
  | YOK_STATUS_REFUSED
  | YOK_STATUS_HEAD
  | YOK_STATUS_FOLLOWER_OFF
  | YOK_PERIOD_TICKS
  | YOK_THROTTLE_TICKS
  | YOK_SETTLE_LAST
  | YOK_SETTLE_MAX
  | YOK_SEAM_SWITCH_MAX
  | YOK_SEAM_INTERVAL
  | YOK_IBUDGET_BUDGET
  | YOK_ACCT_WINDOW
  | YOK_STITCHNO_COUNT
  | YOK_LASTSTROBE_TIME
  | YOK_SPLITS_COUNT
  | YOK_EXTENDS_COUNT
  | YOK_THROTTLED_COUNT
  | YOK_DEFERRED_COUNT
  | YOK_OVERBUDGET_COUNT
  | YOK_MISS_COUNT
  | YOK_SKEW_LOSTS
  | YOK_SKEW_SKEW
  | SEQ_CFG_RESERVE0
  | SEQ_CTRL_DRAIN
  | SEQ_CTRL_HANDBACK
  | SEQ_STAT_REFUSED
  | SEQ_STAT_EXPERT
  | SEQ_STAT_BUSY
  | SEQ_TASK_STATE
  | SEQ_TASK_FUNC
  | SEQ_TASK_CLASS
  | SEQ_TASK_TASK
  | SEQ_JOB_JOB
  | SEQ_PC_PC
  | SEQ_TRAP_CAUSE
  | SEQ_TRAP_CODE
  | SEQ_TRAP_PC
  | DGA_CTRL_HOLD
  | DGA_CTRL_CLEAR
  | DGA_CTRL_HANDBACK
  | DGA_STATUS_BUSY
  | DGA_STATUS_EXPERT
  | DGA_STATUS_ADDQUEUED
  | DGA_STATUS_QUEUED
  | DGA_DUTY_DUTY
  | DGA_CYCLES_COUNT
  | DGA_MACS_COUNT
  | DGA_SAT_COUNT
  | DGA_NAN_COUNT
  | DGA_OPWAIT_COUNT
  | DGA_GUS_STALL_COUNT
  | DGA_GUS_BYTES_COUNT
  | DGA_GUS_LATE_COUNT
  | DGA_ADDFULL_COUNT
  | PRG_CTRL_HOLD
  | PRG_CTRL_CLEAR
  | PRG_CTRL_HANDBACK
  | PRG_STATUS_REFUSED
  | PRG_STATUS_EXPERT
  | PRG_STATUS_QUEUED
  | PRG_STATUS_BUSY
  | PRG_CFG_VTOL
  | PRG_CFG_INC_LIMIT
  | PRG_CFG_ITER_LIMIT
  | PRG_STORE_FREE_MIB
  | PRG_STORE_GIB
  | PRG_TILES_COUNT
  | PRG_ITERS_COUNT
  | PRG_COLFAIL_COUNT
  | PRG_LATECNT_COUNT
  | PRG_MAXLATE_LATENESS
  | PRG_ENG_STATE
  | PRG_ENG_TILE
  | PRG_ENG_KIND
  | PRG_ENG_DECK
  | PRG_ENG_ROW
  | CAL_CTRL_HOLD
  | CAL_CTRL_CLEAR
  | CAL_CTRL_HANDBACK
  | CAL_CTRL_TRACE
  | CAL_STATUS_REFUSED
  | CAL_STATUS_EXPERT
  | CAL_STATUS_TRACE_FAULT
  | CAL_STATUS_TEMP_CLAMP
  | CAL_STATUS_START_DONE
  | CAL_STATUS_BUSY
  | CAL_CFG_STAGE
  | CAL_CFG_FULL_DAYS
  | CAL_CFG_PAR
  | CAL_DRIFT_DTEMP
  | CAL_DRIFT_INTERVAL
  | CAL_TRACE_PERIOD
  | CAL_TRACE_DTEMP
  | CAL_RAMP_STEP
  | CAL_RAMP_SEAMS
  | CAL_LIMIT_MSE
  | CAL_LIMIT_DSTEP
  | CAL_REFRESH_LEAD
  | CAL_REFRESH_SIGMA
  | CAL_TEMP_TJ_USED
  | CAL_TEMP_TJ_TRACE
  | CAL_TAB_ADDR_AUTOINC
  | CAL_TAB_ADDR_TABLE
  | CAL_TAB_ADDR_TILE
  | CAL_TAB_ADDR_INDEX
  | CAL_TAB_DATA_DATA
  | CAL_TAB_STAT_STALE
  | CAL_TAB_STAT_EXPERT
  | CAL_TAB_STAT_RAMPING
  | CAL_TAB_STAT_CAUSE
  | CAL_TAB_STAT_RESULT
  | CAL_HANDBACK_GO
  | CAL_HANDBACK_TILE
  | CAL_REJECTS_COUNT
  | CAL_FULLS_COUNT
  | CAL_LASTTRACE_TIME
  | MCV_CTRL_MODE
  | MCV_CTRL_HOLD
  | MCV_CTRL_SCAL
  | MCV_CTRL_CLEAR
  | MCV_CTRL_HANDBACK
  | MCV_STAT_REFUSED
  | MCV_STAT_EXPERT
  | MCV_STAT_FAIL_A
  | MCV_STAT_FAIL_B
  | MCV_STAT_SCAL_A
  | MCV_STAT_SCAL_B
  | MCV_STAT_ENTRY
  | MCV_SEQCFG_LEN_M1
  | MCV_SEQCFG_INTERVAL
  | MCV_PLAUS_FAULTS
  | MCV_PLAUS_TOL
  | MCV_SCAL_PERIOD
  | MCV_SCAL_DTEMP
  | MCV_TFAB_VALID
  | MCV_TFAB_MEAN
  | MCV_PREEMPT_ABORTS
  | MCV_PREEMPT_PROTECTED
  | MCV_TRIG_GO
  | MCV_TRIG_SRC
  | MCV_TRIG_CHB
  | MCV_TRIG_CHA
  | MCV_TTRIG_TIME
  | MCV_SIMRES_VALID
  | MCV_SIMRES_DELAYED
  | MCV_SIMRES_OVERRUNS
  | MCV_SIMRES_CODE_B
  | MCV_SIMRES_CODE_A
  | MCV_SIMTIME_TIME
  | MCV_SEQA_PAIR
  | MCV_SEQA_CHAN
  | MCV_SEQA_ARG
  | MCV_SEQB_PAIR
  | MCV_SEQB_CHAN
  | MCV_SEQB_ARG
  | MCV_RES_VALID
  | MCV_RES_STALE
  | MCV_RES_PLAUS_FAIL
  | MCV_RES_CHECKED
  | MCV_RES_ARG
  | MCV_RES_CODE
  | MCV_RES_VALUE
  | TLM_CTRL_START
  | TLM_CTRL_STOP
  | TLM_CTRL_CANCEL
  | TLM_CTRL_TSTART
  | TLM_CTRL_TSTOP
  | TLM_PERIOD_PERIOD
  | TLM_CHAN_CH3
  | TLM_CHAN_CH2
  | TLM_CHAN_CH1
  | TLM_CHAN_CH0
  | TLM_RING_BASE
  | TLM_RING_LOG2
  | TLM_WB_ADDR
  | TLM_RDIDX_COUNT
  | TLM_WRIDX_COUNT
  | TLM_STAT_STATE
  | TLM_STAT_STATUS
  | TLM_STAT_FLAGS
  | TLM_STAT_REFUSED
  | TLM_CNT_ORDER_CNT
  | TLM_CNT_RESTART_CNT
  | TLM_DROP_COUNT
  | TLM_TSTART_TIME
  | TLM_TSTOP_TIME
  | TLM_LATE_TIME
  | BNK_OWNER_PEND
  | BNK_OWNER_ZEROING
  | BNK_OWNER_CUR_KIND
  | BNK_OWNER_CUR_ID
  | BNK_OWNER_KIND
  | BNK_OWNER_ID
  | BNK_CTRL_CLEAR
  | BNK_CTRL_HANDBACK
  | BNK_STAT_REFUSED
  | BNK_STAT_EXPERT
  | BNK_COLLIDE_COUNT
  | BNK_DENIED_COUNT
  | BNK_HANDOVERS_COUNT
  | BNK_ECC_CORR_COUNT
  | BNK_ECC_UNCORR_COUNT
  | BNK_SCRUB_HOURS
  | BNK_ECC_ADDR_OFFSET
  | BNK_DIAG_GO
  | BNK_DIAG_BUSY
  | BNK_DIAG_OFFSET
  | BNK_DIAGDATA_DATA
  | BNK_DIAGCHK_CHECK
  | MEM_CTRL_RETRAIN
  | MEM_CTRL_CLEAR
  | MEM_CTRL_HANDBACK
  | MEM_CFG_IECC
  | MEM_CFG_LECC
  | MEM_CFG_RATE
  | MEM_STAT_REFUSED
  | MEM_STAT_EXPERT
  | MEM_STAT_IECC_ON
  | MEM_STAT_SELF_REFRESH
  | MEM_STAT_TRAINED
  | MEM_CAP_DATA_MIB
  | MEM_CAP_DEVICE_MIB
  | MEM_ARB_AGE
  | MEM_SCRUB_HOURS
  | MEM_CORR_COUNT
  | MEM_UNCORR_COUNT
  | MEM_RETRAIN_COUNT
  | MEM_LECC_COUNT
  | MEM_UNCORR_ADDR_OFFSET
  | MEM_CH_STATE
  | MEM_CH_FAILS
  | MEM_CH_RANKS
  | MEM_CH_REFRATE
  | FN_STAT_REFUSED
  | FN_STAT_FUNC
  | FN_STAT_BAR2_DENIED
  | JOB_CFG_WATCHDOG
  | JOB_CFG_RESTARTS
  | EVR_BASE_BASE
  | EVR_BASE_LOG2
  | EVR_CTRL_ENABLE
  | EVR_CTRL_RESERVE
  | EVR_HEAD_COUNT
  | EVR_TAIL_COUNT
  | EVR_OVF_COUNT
  | EVR_MOD_COUNT
  | EVR_MOD_TIME
  | BAR2_AP_VALID
  | BAR2_AP_BASE
  | QP_SQBASE_BASE
  | QP_CQBASE_BASE
  | QP_CFG_ENABLE
  | QP_CFG_FUNC
  | QP_CFG_WINDOW
  | QP_CFG_SQLOG2
  | QP_CFG_CQLOG2
  | QP_SQTAIL_INDEX
  | QP_CQHEAD_INDEX
  | QP_STAT_STATE
  | QP_STAT_ERROR
  | QP_STAT_CODE
  | QP_STAT_SQHEAD
  | FNQ_Q0_QP
  | FNQ_Q0_FEEDQ
  | FNQ_Q1_BANKS
  | FNQ_Q2_PAGES
  | FNQ_SHARE_POWER
  | FNQ_SHARE_RT
  | FNQ_HELD_QP
  | FNQ_HELD_FEEDQ
  | FNQ_HELD_BANKS
  | FNQ_HELD_PAGES
  | FNQ_OVER_KIND
  | FNQ_GRANT_SLOT
  | MIR_CFG_ENABLE
  | MIR_CFG_RANK
  | MIR_CFG_AUTO_TAKE
  | MIR_CFG_HANDBACK
  | MIR_CFG_ACK_MAX
  | MIR_CTRL_RELEASE
  | MIR_CTRL_RESYNC
  | MIR_CTRL_CLEAR
  | MIR_STAT_REFUSED
  | MIR_STAT_EXPERT
  | MIR_STAT_TAKE_DRIVE
  | MIR_STAT_TAKE_SEEN
  | MIR_STAT_RANK_CLASH
  | MIR_STAT_PAIR
  | MIR_STAT_LINK
  | MIR_STAT_WIDTH
  | MIR_LASTHB_TIME
  | MIR_EPOCH_EPOCH
  | MIR_CRCERR_COUNT
  | MIR_REPLAY_COUNT
  | MIR_HBMISS_COUNT
  | MIR_TAKES_COUNT
  | MIR_FN_MIRRORED
  | MIR_FN_ROLE
  | MIR_FN_READY
  | MIR_FN_MISMATCH
  | FLT_CTRL_CLEAR
  | FLT_TOCNT_COUNT
  | FLT_DIE_ONLINE
  | FLT_DIE_CAUSE
  | FLT_DIE_RESTORES
  | FLT_SUPCNT_COUNT
  | FLT_LASTSUP_WIN_KIND
  | FLT_LASTSUP_WIN_FUNC
  | FLT_LASTSUP_LOSE_KIND
  | FLT_LASTSUP_LOSE_FUNC
  | FLT_RESTARTS_COUNT
  | FLT_EXHAUSTED_COUNT
  | CLK_CTRL_HANDBACK
  | CLK_CTRL_MGMT_SRC
  | CLK_CTRL_ROOT
  | CLK_STAT_REFUSED
  | CLK_STAT_EXPERT
  | CLK_STAT_XTAL_READY
  | CLK_STAT_RC_READY
  | CLK_STAT_REFCLK_READY
  | CLK_STAT_MGMT_ON_RC
  | CLK_STAT_SAFE
  | CLK_STAT_NOCLOCK
  | CLK_STAT_LOSSES
  | CLK_GATE_STATUS_REFUSED
  | CLK_GATE_STATUS_PEND
  | CLK_PLL_REF
  | CLK_PLL_SSC_DEPTH
  | CLK_PLL_SSC_RATE
  | CLK_PLL_POSTDIV
  | CLK_PLL_REFDIV
  | CLK_PLL_FBDIV
  | CLK_LOCK_LOCK
  | CLK_GATE_DIE
  | CLK_GATE_BLK
  | CLK_SG_GROUP
  | CLK_BG_GROUP
  | CLK_DTIME_TIME
  | CLK_DTSET_TIME
  | CLK_DTCTRL_SET
  | CLK_DTCTRL_SET_PPS
  | CLK_DTCTRL_PPS_EN
  | CLK_DTCTRL_HOLDOVER
  | CLK_DTCTRL_PPS_LOST
  | CLK_DTCTRL_REJECTS
  | CLK_DTCTRL_WINDOW
  | PWR_CTRL_HANDBACK
  | PWR_STAT_REFUSED
  | PWR_STAT_EXPERT
  | PWR_STAT_SHED_IN
  | PWR_STAT_SHED_MET
  | PWR_STAT_LIMITING
  | PWR_STAT_THERM
  | PWR_STAT_TSHUT
  | PWR_PKG_BUDGET_WATTS
  | PWR_SHED_BUDGET_WATTS
  | PWR_SHED_CFG_FAB_PCT
  | PWR_SHED_CFG_GUARD
  | PWR_SHED_CFG_ADVISE
  | PWR_THERM_MARGIN
  | PWR_DIE_BUDGET
  | PWR_DIE_FAB_CAP
  | PWR_DIE_DGA_CAP
  | PWR_DIE_MEAS
  | START_REPORT_STATE
  | START_REPORT_FW_SLOT
  | START_REPORT_STEP
  | START_REPORT_REASON
  | START_REPORT_FAILS
  | START_REPORT_LAST
  | START_TIME_MS
  | PKT_STAT_REFUSED
  | PKT_STAT_MODE
  | PKT_STAT_SHADOW
  | PKT_STAT_DENIED
  | PKT_ADDR_AUTOINC
  | PKT_ADDR_DIE
  | PKT_ADDR_PAGE
  | PKT_ADDR_WORD
  | PKT_DATA_DATA
  | PKT_PAGE_USER
  | PKT_PAGE_LOCKED
  | PKT_PAGE_RD_OPEN
  | PKT_PAGE_WR_OPEN
  | PKT_PAGE_LOCKOUT
  | PKT_PAGE_AREA
  | PKT_UNLOCK_PASSWORD
  | PKT_UNLOCKSEL_RELOCK
  | PKT_UNLOCKSEL_KIND
  | PKT_UNLOCKSEL_AREA
  | PKT_LIFE_POH_HOURS
  | PKT_LIFE_CYCLES_COUNT
  | PKT_LIFE_ENERGY_JOULES
  | PKT_LIFE_STITCHES_COUNT
  | PKT_WEARSEL_DIE
  | PKT_WEARSEL_TILE
  | PKT_WEAR_COUNT
  | CHN_CFG_PEC
  | CHN_CFG_VALID
  | CHN_CFG_ADDR
  | CHN_STAT_CHAIN_IN
  | CHN_STAT_CHAIN_OUT
  | CHN_STAT_BYPASS
  | CHN_STAT_TIMEOUTS
  | CHN_STAT_PEC_ERR
  | MSIX_ADDR_ADDR
  | MSIX_DATA_DATA
  | MSIX_CTRL_MASK
  | MSIX_PBA_PEND
  deriving DecidableEq, Repr

/-- Bits, access, expert mark and reset value of every field, as the register tables give them. -/
def Field.info : Field → FieldInfo
  | .GLB_ID_PART => ⟨.GLB_ID, 31, 24, .ro, false, 0⟩
  | .GLB_ID_GRADE => ⟨.GLB_ID, 23, 20, .ro, false, 0⟩
  | .GLB_ID_DIES => ⟨.GLB_ID, 19, 16, .ro, false, 0⟩
  | .GLB_ID_STEPPING => ⟨.GLB_ID, 15, 8, .ro, false, 0⟩
  | .GLB_CAPACITY_SLOTS_LOST => ⟨.GLB_CAPACITY, 55, 48, .ro, false, 0⟩
  | .GLB_CAPACITY_SPARE_TILES => ⟨.GLB_CAPACITY, 47, 38, .ro, false, 0⟩
  | .GLB_CAPACITY_MAPPABLE_TILES => ⟨.GLB_CAPACITY, 37, 24, .ro, false, 0⟩
  | .GLB_CAPACITY_HEAD => ⟨.GLB_CAPACITY, 18, 16, .ro, false, 0⟩
  | .GLB_CAPACITY_DIE_PRESENT => ⟨.GLB_CAPACITY, 15, 8, .ro, false, 0⟩
  | .GLB_CAPACITY_DIE_ONLINE => ⟨.GLB_CAPACITY, 7, 0, .ro, false, 0⟩
  | .TIL_CTRL_RETIRE => ⟨.TIL_CTRL, 31, 31, .w1s, true, 0⟩
  | .TIL_CTRL_HOLD => ⟨.TIL_CTRL, 30, 30, .rw, true, 0⟩
  | .TIL_CTRL_PRECISION => ⟨.TIL_CTRL, 29, 29, .rw, false, 0⟩
  | .TIL_CTRL_HANDBACK => ⟨.TIL_CTRL, 28, 28, .w1s, false, 0⟩
  | .TIL_STATUS_STATE => ⟨.TIL_STATUS, 31, 28, .ro, false, 0⟩
  | .TIL_STATUS_HOLD_CAUSE => ⟨.TIL_STATUS, 27, 25, .ro, false, 0⟩
  | .TIL_STATUS_SUSPECT => ⟨.TIL_STATUS, 24, 24, .ro, false, 0⟩
  | .TIL_STATUS_REV_LOST => ⟨.TIL_STATUS, 23, 23, .ro, false, 0⟩
  | .TIL_STATUS_EXPERT => ⟨.TIL_STATUS, 22, 22, .ro, false, 0⟩
  | .TIL_STATUS_REFUSED => ⟨.TIL_STATUS, 21, 21, .w1c, false, 0⟩
  | .TIL_STATUS_CAL_REJ_RUN => ⟨.TIL_STATUS, 20, 19, .ro, false, 0⟩
  | .TIL_STATUS_REPLACES => ⟨.TIL_STATUS, 10, 0, .ro, false, 2047⟩
  | .TIL_MAP_VALID => ⟨.TIL_MAP, 31, 31, .ro, false, 0⟩
  | .TIL_MAP_MAP => ⟨.TIL_MAP, 30, 30, .ro, false, 0⟩
  | .TIL_MAP_SLOT => ⟨.TIL_MAP, 25, 20, .ro, false, 0⟩
  | .TIL_MAP_LAYER => ⟨.TIL_MAP, 9, 0, .ro, false, 0⟩
  | .TIL_PLACE_ROWBLK => ⟨.TIL_PLACE, 31, 24, .ro, false, 0⟩
  | .TIL_PLACE_COLBLK => ⟨.TIL_PLACE, 23, 16, .ro, false, 0⟩
  | .TIL_EXTENT_ROWS_M1 => ⟨.TIL_EXTENT, 25, 16, .ro, false, 1023⟩
  | .TIL_EXTENT_COLS_M1 => ⟨.TIL_EXTENT, 8, 0, .ro, false, 511⟩
  | .TIL_SPARES_SPARE_COLS_FREE => ⟨.TIL_SPARES, 22, 16, .ro, false, 0⟩
  | .TIL_SPARES_SPARE_CONV_FREE => ⟨.TIL_SPARES, 2, 0, .ro, false, 0⟩
  | .TIL_STITCHES_COUNT => ⟨.TIL_STITCHES, 63, 0, .ro, false, 0⟩
  | .TIL_RSTITCHES_COUNT => ⟨.TIL_RSTITCHES, 63, 0, .ro, false, 0⟩
  | .TIL_LASTGOOD_TIME => ⟨.TIL_LASTGOOD, 63, 0, .ro, false, 0⟩
  | .TIL_PROGTIME_TIME => ⟨.TIL_PROGTIME, 63, 0, .ro, false, 0⟩
  | .TIL_CHECK_TOL => ⟨.TIL_CHECK, 23, 16, .rw, true, 16⟩
  | .TIL_CHECK_FAILS => ⟨.TIL_CHECK, 15, 0, .ro, false, 0⟩
  | .TIL_SPARECOL_BLK3 => ⟨.TIL_SPARECOL, 31, 24, .ro, false, 255⟩
  | .TIL_SPARECOL_BLK2 => ⟨.TIL_SPARECOL, 23, 16, .ro, false, 255⟩
  | .TIL_SPARECOL_BLK1 => ⟨.TIL_SPARECOL, 15, 8, .ro, false, 255⟩
  | .TIL_SPARECOL_BLK0 => ⟨.TIL_SPARECOL, 7, 0, .ro, false, 255⟩
  | .DRV_CFG_SPAN => ⟨.DRV_CFG, 31, 31, .rw, true, 1⟩
  | .DRV_CFG_FS => ⟨.DRV_CFG, 30, 29, .rw, true, 3⟩
  | .DRV_CFG_HANDBACK => ⟨.DRV_CFG, 28, 28, .w1s, false, 0⟩
  | .DRV_SLEW_STEP => ⟨.DRV_SLEW, 15, 8, .rw, true, 32⟩
  | .DRV_SLEW_RATE => ⟨.DRV_SLEW, 3, 0, .rw, true, 0⟩
  | .DRV_STAT_REFUSED => ⟨.DRV_STAT, 31, 31, .w1c, false, 0⟩
  | .DRV_STAT_PEND => ⟨.DRV_STAT, 30, 30, .ro, false, 0⟩
  | .DRV_STAT_PLAYING => ⟨.DRV_STAT, 29, 29, .ro, false, 0⟩
  | .DRV_STAT_EXPERT => ⟨.DRV_STAT, 28, 28, .ro, false, 0⟩
  | .DRV_STAT_LASTRAMP => ⟨.DRV_STAT, 12, 0, .ro, false, 0⟩
  | .DRV_OUTRUN_COUNT => ⟨.DRV_OUTRUN, 31, 0, .ro, false, 0⟩
  | .DRV_CLAMP_COUNT => ⟨.DRV_CLAMP, 31, 0, .ro, false, 0⟩
  | .DRV_UCSTAT_ROWS_ALT => ⟨.DRV_UCSTAT, 26, 16, .ro, false, 0⟩
  | .DRV_UCSTAT_ROWS_FAILED => ⟨.DRV_UCSTAT, 10, 0, .ro, false, 0⟩
  | .WFM_ADDR_AUTOINC => ⟨.WFM_ADDR, 31, 31, .rw, false, 0⟩
  | .WFM_ADDR_WAVE => ⟨.WFM_ADDR, 13, 8, .rw, false, 0⟩
  | .WFM_ADDR_POINT => ⟨.WFM_ADDR, 7, 0, .rw, false, 0⟩
  | .WFM_DATA_POINT => ⟨.WFM_DATA, 11, 0, .rw, true, 0⟩
  | .WFM_STAT_REFUSED => ⟨.WFM_STAT, 31, 31, .w1c, false, 0⟩
  | .WFM_STAT_HANDBACK => ⟨.WFM_STAT, 30, 30, .w1s, false, 0⟩
  | .WFM_STAT_CLAMP_CNT => ⟨.WFM_STAT, 15, 0, .ro, false, 0⟩
  | .WFM_PLAY_CTRL_START => ⟨.WFM_PLAY_CTRL, 31, 31, .w1s, true, 0⟩
  | .WFM_PLAY_CTRL_STOP => ⟨.WFM_PLAY_CTRL, 30, 30, .w1s, true, 0⟩
  | .WFM_PLAY_CTRL_CANCEL => ⟨.WFM_PLAY_CTRL, 29, 29, .w1s, true, 0⟩
  | .WFM_PLAY_CTRL_TSTART => ⟨.WFM_PLAY_CTRL, 28, 28, .rw, true, 0⟩
  | .WFM_PLAY_CTRL_TSTOP => ⟨.WFM_PLAY_CTRL, 27, 27, .rw, true, 0⟩
  | .WFM_PLAY_CTRL_WAVE => ⟨.WFM_PLAY_CTRL, 26, 21, .rw, true, 32⟩
  | .WFM_PLAY_CTRL_REPEAT => ⟨.WFM_PLAY_CTRL, 20, 13, .rw, true, 0⟩
  | .WFM_PLAY_CTRL_INTERVAL => ⟨.WFM_PLAY_CTRL, 10, 0, .rw, true, 4⟩
  | .WFM_PLAY_TARGET_TILE => ⟨.WFM_PLAY_TARGET, 30, 20, .rw, true, 0⟩
  | .WFM_PLAY_TARGET_FIRST_ROW => ⟨.WFM_PLAY_TARGET, 19, 10, .rw, true, 0⟩
  | .WFM_PLAY_TARGET_ROWS_M1 => ⟨.WFM_PLAY_TARGET, 9, 0, .rw, true, 1023⟩
  | .WFM_PLAY_TSTART_TIME => ⟨.WFM_PLAY_TSTART, 63, 0, .rw, true, 0⟩
  | .WFM_PLAY_TSTOP_TIME => ⟨.WFM_PLAY_TSTOP, 63, 0, .rw, true, 0⟩
  | .WFM_PLAY_STAT_STATE => ⟨.WFM_PLAY_STAT, 31, 30, .ro, false, 0⟩
  | .WFM_PLAY_STAT_CLOCK_ABORT => ⟨.WFM_PLAY_STAT, 29, 29, .ro, false, 0⟩
  | .WFM_PLAY_STAT_STATUS => ⟨.WFM_PLAY_STAT, 23, 16, .ro, false, 0⟩
  | .WFM_PLAY_STAT_FLAGS => ⟨.WFM_PLAY_STAT, 15, 8, .ro, false, 0⟩
  | .WFM_PLAY_STAT_POINT => ⟨.WFM_PLAY_STAT, 7, 0, .ro, false, 0⟩
  | .WFM_PLAY_CNT_ORDER_CNT => ⟨.WFM_PLAY_CNT, 31, 16, .ro, false, 0⟩
  | .WFM_PLAY_CNT_RESTART_CNT => ⟨.WFM_PLAY_CNT, 15, 0, .ro, false, 0⟩
  | .WFM_PLAY_LATE_LATENESS => ⟨.WFM_PLAY_LATE, 63, 0, .ro, false, 0⟩
  | .HEM_CFG_RANGE => ⟨.HEM_CFG, 31, 30, .rw, true, 2⟩
  | .HEM_CFG_MSE_REF => ⟨.HEM_CFG, 29, 29, .rw, false, 0⟩
  | .HEM_CFG_MSE_Q => ⟨.HEM_CFG, 28, 28, .rw, false, 0⟩
  | .HEM_SAT_LIMIT => ⟨.HEM_SAT, 15, 0, .rw, true, 8⟩
  | .HEM_TAPS_STALE => ⟨.HEM_TAPS, 31, 31, .ro, false, 0⟩
  | .HEM_TAPS_PEND => ⟨.HEM_TAPS, 30, 30, .ro, false, 0⟩
  | .HEM_TAPS_WSTOP => ⟨.HEM_TAPS, 21, 16, .rw, true, 20⟩
  | .HEM_TAPS_WSTART => ⟨.HEM_TAPS, 13, 8, .rw, true, 20⟩
  | .HEM_CONVSUB_SP75 => ⟨.HEM_CONVSUB, 31, 24, .ro, false, 127⟩
  | .HEM_CONVSUB_SP74 => ⟨.HEM_CONVSUB, 23, 16, .ro, false, 127⟩
  | .HEM_CONVSUB_SP73 => ⟨.HEM_CONVSUB, 15, 8, .ro, false, 127⟩
  | .HEM_CONVSUB_SP72 => ⟨.HEM_CONVSUB, 7, 0, .ro, false, 127⟩
  | .HEM_CSAT_COUNT => ⟨.HEM_CSAT, 31, 0, .ro, false, 0⟩
  | .HEM_OSAT_COUNT => ⟨.HEM_OSAT, 31, 0, .ro, false, 0⟩
  | .HEM_RERUN_COUNT => ⟨.HEM_RERUN, 31, 0, .ro, false, 0⟩
  | .HEM_REFCHK_TOL => ⟨.HEM_REFCHK, 23, 16, .rw, true, 6⟩
  | .HEM_REFCHK_REF_FAILS => ⟨.HEM_REFCHK, 15, 0, .ro, false, 0⟩
  | .HEM_MSEREF_SUM_SUM => ⟨.HEM_MSEREF_SUM, 63, 0, .ro, false, 0⟩
  | .HEM_MSEREF_CNT_COUNT => ⟨.HEM_MSEREF_CNT, 31, 0, .ro, false, 0⟩
  | .HEM_MSEQ_CNT_COUNT => ⟨.HEM_MSEQ_CNT, 31, 0, .ro, false, 0⟩
  | .HEM_MSEQ_SUM_SUM => ⟨.HEM_MSEQ_SUM, 63, 0, .ro, false, 0⟩
  | .HEM_CTRL_CLEAR => ⟨.HEM_CTRL, 31, 31, .w1s, false, 0⟩
  | .HEM_CTRL_HANDBACK => ⟨.HEM_CTRL, 30, 30, .w1s, false, 0⟩
  | .HEM_RSAT_COUNT => ⟨.HEM_RSAT, 31, 0, .ro, false, 0⟩
  | .YOK_CTRL_HOLD_ALL => ⟨.YOK_CTRL, 31, 31, .rw, true, 0⟩
  | .YOK_CTRL_SPLIT_EN => ⟨.YOK_CTRL, 30, 30, .rw, true, 1⟩
  | .YOK_CTRL_CLEAR => ⟨.YOK_CTRL, 29, 29, .w1s, false, 0⟩
  | .YOK_CTRL_HANDBACK => ⟨.YOK_CTRL, 28, 28, .w1s, false, 0⟩
  | .YOK_STATUS_FIRING => ⟨.YOK_STATUS, 31, 31, .ro, false, 0⟩
  | .YOK_STATUS_MOVING => ⟨.YOK_STATUS, 30, 30, .ro, false, 0⟩
  | .YOK_STATUS_EXPERT => ⟨.YOK_STATUS, 29, 29, .ro, false, 0⟩
  | .YOK_STATUS_REFUSED => ⟨.YOK_STATUS, 28, 28, .w1c, false, 0⟩
  | .YOK_STATUS_HEAD => ⟨.YOK_STATUS, 18, 16, .ro, false, 0⟩
  | .YOK_STATUS_FOLLOWER_OFF => ⟨.YOK_STATUS, 7, 0, .ro, false, 0⟩
  | .YOK_PERIOD_TICKS => ⟨.YOK_PERIOD, 11, 0, .rw, false, 400⟩
  | .YOK_THROTTLE_TICKS => ⟨.YOK_THROTTLE, 15, 0, .rw, true, 0⟩
  | .YOK_SETTLE_LAST => ⟨.YOK_SETTLE, 28, 16, .ro, false, 24⟩
  | .YOK_SETTLE_MAX => ⟨.YOK_SETTLE, 12, 0, .rw, true, 4096⟩
  | .YOK_SEAM_SWITCH_MAX => ⟨.YOK_SEAM, 31, 24, .rw, false, 10⟩
  | .YOK_SEAM_INTERVAL => ⟨.YOK_SEAM, 15, 0, .rw, false, 256⟩
  | .YOK_IBUDGET_BUDGET => ⟨.YOK_IBUDGET, 11, 0, .rw, true, 1920⟩
  | .YOK_ACCT_WINDOW => ⟨.YOK_ACCT, 15, 0, .rw, false, 1024⟩
  | .YOK_STITCHNO_COUNT => ⟨.YOK_STITCHNO, 63, 0, .ro, false, 0⟩
  | .YOK_LASTSTROBE_TIME => ⟨.YOK_LASTSTROBE, 63, 0, .ro, false, 0⟩
  | .YOK_SPLITS_COUNT => ⟨.YOK_SPLITS, 31, 0, .ro, false, 0⟩
  | .YOK_EXTENDS_COUNT => ⟨.YOK_EXTENDS, 31, 0, .ro, false, 0⟩
  | .YOK_THROTTLED_COUNT => ⟨.YOK_THROTTLED, 31, 0, .ro, false, 0⟩
  | .YOK_DEFERRED_COUNT => ⟨.YOK_DEFERRED, 31, 0, .ro, false, 0⟩
  | .YOK_OVERBUDGET_COUNT => ⟨.YOK_OVERBUDGET, 31, 0, .ro, false, 0⟩
  | .YOK_MISS_COUNT => ⟨.YOK_MISS, 31, 0, .ro, false, 0⟩
  | .YOK_SKEW_LOSTS => ⟨.YOK_SKEW, 31, 24, .ro, false, 0⟩
  | .YOK_SKEW_SKEW => ⟨.YOK_SKEW, 15, 0, .ro, false, 0⟩
  | .SEQ_CFG_RESERVE0 => ⟨.SEQ_CFG, 3, 0, .rw, false, 2⟩
  | .SEQ_CTRL_DRAIN => ⟨.SEQ_CTRL, 31, 31, .rw, true, 0⟩
  | .SEQ_CTRL_HANDBACK => ⟨.SEQ_CTRL, 30, 30, .w1s, false, 0⟩
  | .SEQ_STAT_REFUSED => ⟨.SEQ_STAT, 31, 31, .w1c, false, 0⟩
  | .SEQ_STAT_EXPERT => ⟨.SEQ_STAT, 30, 30, .ro, false, 0⟩
  | .SEQ_STAT_BUSY => ⟨.SEQ_STAT, 7, 0, .ro, false, 0⟩
  | .SEQ_TASK_STATE => ⟨.SEQ_TASK, 31, 29, .ro, false, 0⟩
  | .SEQ_TASK_FUNC => ⟨.SEQ_TASK, 22, 16, .ro, false, 0⟩
  | .SEQ_TASK_CLASS => ⟨.SEQ_TASK, 13, 12, .ro, false, 0⟩
  | .SEQ_TASK_TASK => ⟨.SEQ_TASK, 5, 0, .ro, false, 0⟩
  | .SEQ_JOB_JOB => ⟨.SEQ_JOB, 63, 0, .ro, false, 0⟩
  | .SEQ_PC_PC => ⟨.SEQ_PC, 16, 0, .ro, false, 0⟩
  | .SEQ_TRAP_CAUSE => ⟨.SEQ_TRAP, 31, 24, .ro, false, 0⟩
  | .SEQ_TRAP_CODE => ⟨.SEQ_TRAP, 23, 16, .ro, false, 0⟩
  | .SEQ_TRAP_PC => ⟨.SEQ_TRAP, 15, 0, .ro, false, 0⟩
  | .DGA_CTRL_HOLD => ⟨.DGA_CTRL, 31, 31, .rw, true, 0⟩
  | .DGA_CTRL_CLEAR => ⟨.DGA_CTRL, 30, 30, .w1s, false, 0⟩
  | .DGA_CTRL_HANDBACK => ⟨.DGA_CTRL, 29, 29, .w1s, false, 0⟩
  | .DGA_STATUS_BUSY => ⟨.DGA_STATUS, 31, 31, .ro, false, 0⟩
  | .DGA_STATUS_EXPERT => ⟨.DGA_STATUS, 30, 30, .ro, false, 0⟩
  | .DGA_STATUS_ADDQUEUED => ⟨.DGA_STATUS, 18, 10, .ro, false, 0⟩
  | .DGA_STATUS_QUEUED => ⟨.DGA_STATUS, 9, 0, .ro, false, 0⟩
  | .DGA_DUTY_DUTY => ⟨.DGA_DUTY, 8, 0, .ro, false, 256⟩
  | .DGA_CYCLES_COUNT => ⟨.DGA_CYCLES, 63, 0, .ro, false, 0⟩
  | .DGA_MACS_COUNT => ⟨.DGA_MACS, 63, 0, .ro, false, 0⟩
  | .DGA_SAT_COUNT => ⟨.DGA_SAT, 31, 0, .ro, false, 0⟩
  | .DGA_NAN_COUNT => ⟨.DGA_NAN, 31, 0, .ro, false, 0⟩
  | .DGA_OPWAIT_COUNT => ⟨.DGA_OPWAIT, 63, 0, .ro, false, 0⟩
  | .DGA_GUS_STALL_COUNT => ⟨.DGA_GUS_STALL, 63, 0, .ro, false, 0⟩
  | .DGA_GUS_BYTES_COUNT => ⟨.DGA_GUS_BYTES, 63, 0, .ro, false, 0⟩
  | .DGA_GUS_LATE_COUNT => ⟨.DGA_GUS_LATE, 31, 0, .ro, false, 0⟩
  | .DGA_ADDFULL_COUNT => ⟨.DGA_ADDFULL, 31, 0, .ro, false, 0⟩
  | .PRG_CTRL_HOLD => ⟨.PRG_CTRL, 31, 31, .rw, true, 0⟩
  | .PRG_CTRL_CLEAR => ⟨.PRG_CTRL, 30, 30, .w1s, false, 0⟩
  | .PRG_CTRL_HANDBACK => ⟨.PRG_CTRL, 29, 29, .w1s, false, 0⟩
  | .PRG_STATUS_REFUSED => ⟨.PRG_STATUS, 31, 31, .w1c, false, 0⟩
  | .PRG_STATUS_EXPERT => ⟨.PRG_STATUS, 30, 30, .ro, false, 0⟩
  | .PRG_STATUS_QUEUED => ⟨.PRG_STATUS, 27, 16, .ro, false, 0⟩
  | .PRG_STATUS_BUSY => ⟨.PRG_STATUS, 15, 0, .ro, false, 0⟩
  | .PRG_CFG_VTOL => ⟨.PRG_CFG, 23, 16, .rw, true, 8⟩
  | .PRG_CFG_INC_LIMIT => ⟨.PRG_CFG, 15, 8, .rw, true, 24⟩
  | .PRG_CFG_ITER_LIMIT => ⟨.PRG_CFG, 5, 0, .rw, true, 14⟩
  | .PRG_STORE_FREE_MIB => ⟨.PRG_STORE, 31, 16, .ro, false, 0⟩
  | .PRG_STORE_GIB => ⟨.PRG_STORE, 4, 0, .rw, false, 4⟩
  | .PRG_TILES_COUNT => ⟨.PRG_TILES, 63, 0, .ro, false, 0⟩
  | .PRG_ITERS_COUNT => ⟨.PRG_ITERS, 63, 0, .ro, false, 0⟩
  | .PRG_COLFAIL_COUNT => ⟨.PRG_COLFAIL, 31, 0, .ro, false, 0⟩
  | .PRG_LATECNT_COUNT => ⟨.PRG_LATECNT, 31, 0, .ro, false, 0⟩
  | .PRG_MAXLATE_LATENESS => ⟨.PRG_MAXLATE, 63, 0, .ro, false, 0⟩
  | .PRG_ENG_STATE => ⟨.PRG_ENG, 31, 29, .ro, false, 0⟩
  | .PRG_ENG_TILE => ⟨.PRG_ENG, 26, 16, .ro, false, 0⟩
  | .PRG_ENG_KIND => ⟨.PRG_ENG, 15, 13, .ro, false, 0⟩
  | .PRG_ENG_DECK => ⟨.PRG_ENG, 10, 10, .ro, false, 0⟩
  | .PRG_ENG_ROW => ⟨.PRG_ENG, 9, 0, .ro, false, 0⟩
  | .CAL_CTRL_HOLD => ⟨.CAL_CTRL, 31, 31, .rw, true, 0⟩
  | .CAL_CTRL_CLEAR => ⟨.CAL_CTRL, 30, 30, .w1s, false, 0⟩
  | .CAL_CTRL_HANDBACK => ⟨.CAL_CTRL, 29, 29, .w1s, false, 0⟩
  | .CAL_CTRL_TRACE => ⟨.CAL_CTRL, 28, 28, .w1s, false, 0⟩
  | .CAL_STATUS_REFUSED => ⟨.CAL_STATUS, 31, 31, .w1c, false, 0⟩
  | .CAL_STATUS_EXPERT => ⟨.CAL_STATUS, 30, 30, .ro, false, 0⟩
  | .CAL_STATUS_TRACE_FAULT => ⟨.CAL_STATUS, 29, 29, .ro, false, 0⟩
  | .CAL_STATUS_TEMP_CLAMP => ⟨.CAL_STATUS, 28, 28, .ro, false, 0⟩
  | .CAL_STATUS_START_DONE => ⟨.CAL_STATUS, 27, 27, .ro, false, 0⟩
  | .CAL_STATUS_BUSY => ⟨.CAL_STATUS, 4, 0, .ro, false, 0⟩
  | .CAL_CFG_STAGE => ⟨.CAL_CFG, 31, 30, .rw, false, 1⟩
  | .CAL_CFG_FULL_DAYS => ⟨.CAL_CFG, 15, 8, .rw, false, 7⟩
  | .CAL_CFG_PAR => ⟨.CAL_CFG, 4, 0, .rw, false, 4⟩
  | .CAL_DRIFT_DTEMP => ⟨.CAL_DRIFT, 31, 24, .rw, false, 4⟩
  | .CAL_DRIFT_INTERVAL => ⟨.CAL_DRIFT, 11, 0, .rw, false, 60⟩
  | .CAL_TRACE_PERIOD => ⟨.CAL_TRACE, 13, 8, .rw, false, 10⟩
  | .CAL_TRACE_DTEMP => ⟨.CAL_TRACE, 3, 0, .rw, false, 5⟩
  | .CAL_RAMP_STEP => ⟨.CAL_RAMP, 15, 8, .rw, false, 1⟩
  | .CAL_RAMP_SEAMS => ⟨.CAL_RAMP, 7, 0, .rw, false, 64⟩
  | .CAL_LIMIT_MSE => ⟨.CAL_LIMIT, 31, 16, .rw, true, 256⟩
  | .CAL_LIMIT_DSTEP => ⟨.CAL_LIMIT, 7, 0, .rw, true, 20⟩
  | .CAL_REFRESH_LEAD => ⟨.CAL_REFRESH, 31, 24, .rw, false, 24⟩
  | .CAL_REFRESH_SIGMA => ⟨.CAL_REFRESH, 7, 0, .rw, false, 64⟩
  | .CAL_TEMP_TJ_USED => ⟨.CAL_TEMP, 31, 16, .ro, false, 0⟩
  | .CAL_TEMP_TJ_TRACE => ⟨.CAL_TEMP, 15, 0, .ro, false, 0⟩
  | .CAL_TAB_ADDR_AUTOINC => ⟨.CAL_TAB_ADDR, 31, 31, .rw, false, 0⟩
  | .CAL_TAB_ADDR_TABLE => ⟨.CAL_TAB_ADDR, 30, 26, .rw, false, 0⟩
  | .CAL_TAB_ADDR_TILE => ⟨.CAL_TAB_ADDR, 25, 15, .rw, false, 0⟩
  | .CAL_TAB_ADDR_INDEX => ⟨.CAL_TAB_ADDR, 10, 0, .rw, false, 0⟩
  | .CAL_TAB_DATA_DATA => ⟨.CAL_TAB_DATA, 31, 0, .rw, true, 0⟩
  | .CAL_TAB_STAT_STALE => ⟨.CAL_TAB_STAT, 31, 31, .ro, false, 0⟩
  | .CAL_TAB_STAT_EXPERT => ⟨.CAL_TAB_STAT, 30, 30, .ro, false, 0⟩
  | .CAL_TAB_STAT_RAMPING => ⟨.CAL_TAB_STAT, 29, 29, .ro, false, 0⟩
  | .CAL_TAB_STAT_CAUSE => ⟨.CAL_TAB_STAT, 23, 16, .ro, false, 0⟩
  | .CAL_TAB_STAT_RESULT => ⟨.CAL_TAB_STAT, 7, 0, .ro, false, 255⟩
  | .CAL_HANDBACK_GO => ⟨.CAL_HANDBACK, 31, 31, .w1s, false, 0⟩
  | .CAL_HANDBACK_TILE => ⟨.CAL_HANDBACK, 10, 0, .rw, false, 0⟩
  | .CAL_REJECTS_COUNT => ⟨.CAL_REJECTS, 31, 0, .ro, false, 0⟩
  | .CAL_FULLS_COUNT => ⟨.CAL_FULLS, 31, 0, .ro, false, 0⟩
  | .CAL_LASTTRACE_TIME => ⟨.CAL_LASTTRACE, 63, 0, .ro, false, 0⟩
  | .MCV_CTRL_MODE => ⟨.MCV_CTRL, 31, 31, .rw, true, 0⟩
  | .MCV_CTRL_HOLD => ⟨.MCV_CTRL, 30, 30, .rw, true, 0⟩
  | .MCV_CTRL_SCAL => ⟨.MCV_CTRL, 29, 29, .w1s, false, 0⟩
  | .MCV_CTRL_CLEAR => ⟨.MCV_CTRL, 28, 28, .w1s, false, 0⟩
  | .MCV_CTRL_HANDBACK => ⟨.MCV_CTRL, 27, 27, .w1s, false, 0⟩
  | .MCV_STAT_REFUSED => ⟨.MCV_STAT, 31, 31, .w1c, false, 0⟩
  | .MCV_STAT_EXPERT => ⟨.MCV_STAT, 30, 30, .ro, false, 0⟩
  | .MCV_STAT_FAIL_A => ⟨.MCV_STAT, 29, 29, .ro, false, 0⟩
  | .MCV_STAT_FAIL_B => ⟨.MCV_STAT, 28, 28, .ro, false, 0⟩
  | .MCV_STAT_SCAL_A => ⟨.MCV_STAT, 27, 27, .ro, false, 0⟩
  | .MCV_STAT_SCAL_B => ⟨.MCV_STAT, 26, 26, .ro, false, 0⟩
  | .MCV_STAT_ENTRY => ⟨.MCV_STAT, 4, 0, .ro, false, 0⟩
  | .MCV_SEQCFG_LEN_M1 => ⟨.MCV_SEQCFG, 20, 16, .rw, true, 31⟩
  | .MCV_SEQCFG_INTERVAL => ⟨.MCV_SEQCFG, 15, 0, .rw, true, 2⟩
  | .MCV_PLAUS_FAULTS => ⟨.MCV_PLAUS, 31, 16, .ro, false, 0⟩
  | .MCV_PLAUS_TOL => ⟨.MCV_PLAUS, 15, 0, .rw, true, 64⟩
  | .MCV_SCAL_PERIOD => ⟨.MCV_SCAL, 31, 16, .rw, false, 60⟩
  | .MCV_SCAL_DTEMP => ⟨.MCV_SCAL, 3, 0, .rw, false, 5⟩
  | .MCV_TFAB_VALID => ⟨.MCV_TFAB, 31, 31, .ro, false, 0⟩
  | .MCV_TFAB_MEAN => ⟨.MCV_TFAB, 15, 0, .ro, false, 0⟩
  | .MCV_PREEMPT_ABORTS => ⟨.MCV_PREEMPT, 31, 8, .ro, false, 0⟩
  | .MCV_PREEMPT_PROTECTED => ⟨.MCV_PREEMPT, 7, 0, .ro, false, 0⟩
  | .MCV_TRIG_GO => ⟨.MCV_TRIG, 31, 31, .w1s, true, 0⟩
  | .MCV_TRIG_SRC => ⟨.MCV_TRIG, 30, 29, .rw, true, 0⟩
  | .MCV_TRIG_CHB => ⟨.MCV_TRIG, 13, 8, .rw, true, 0⟩
  | .MCV_TRIG_CHA => ⟨.MCV_TRIG, 5, 0, .rw, true, 0⟩
  | .MCV_TTRIG_TIME => ⟨.MCV_TTRIG, 63, 0, .rw, true, 0⟩
  | .MCV_SIMRES_VALID => ⟨.MCV_SIMRES, 63, 63, .ro, false, 0⟩
  | .MCV_SIMRES_DELAYED => ⟨.MCV_SIMRES, 62, 62, .ro, false, 0⟩
  | .MCV_SIMRES_OVERRUNS => ⟨.MCV_SIMRES, 61, 48, .ro, false, 0⟩
  | .MCV_SIMRES_CODE_B => ⟨.MCV_SIMRES, 47, 32, .ro, false, 0⟩
  | .MCV_SIMRES_CODE_A => ⟨.MCV_SIMRES, 15, 0, .ro, false, 0⟩
  | .MCV_SIMTIME_TIME => ⟨.MCV_SIMTIME, 63, 0, .ro, false, 0⟩
  | .MCV_SEQA_PAIR => ⟨.MCV_SEQA, 31, 31, .rw, true, 0⟩
  | .MCV_SEQA_CHAN => ⟨.MCV_SEQA, 16, 11, .rw, true, 0⟩
  | .MCV_SEQA_ARG => ⟨.MCV_SEQA, 10, 0, .rw, true, 0⟩
  | .MCV_SEQB_PAIR => ⟨.MCV_SEQB, 31, 31, .rw, true, 0⟩
  | .MCV_SEQB_CHAN => ⟨.MCV_SEQB, 16, 11, .rw, true, 0⟩
  | .MCV_SEQB_ARG => ⟨.MCV_SEQB, 10, 0, .rw, true, 0⟩
  | .MCV_RES_VALID => ⟨.MCV_RES, 63, 63, .ro, false, 0⟩
  | .MCV_RES_STALE => ⟨.MCV_RES, 62, 62, .ro, false, 0⟩
  | .MCV_RES_PLAUS_FAIL => ⟨.MCV_RES, 61, 61, .ro, false, 0⟩
  | .MCV_RES_CHECKED => ⟨.MCV_RES, 60, 60, .ro, false, 0⟩
  | .MCV_RES_ARG => ⟨.MCV_RES, 58, 48, .ro, false, 0⟩
  | .MCV_RES_CODE => ⟨.MCV_RES, 47, 32, .ro, false, 0⟩
  | .MCV_RES_VALUE => ⟨.MCV_RES, 31, 0, .ro, false, 0⟩
  | .TLM_CTRL_START => ⟨.TLM_CTRL, 31, 31, .w1s, false, 0⟩
  | .TLM_CTRL_STOP => ⟨.TLM_CTRL, 30, 30, .w1s, false, 0⟩
  | .TLM_CTRL_CANCEL => ⟨.TLM_CTRL, 29, 29, .w1s, false, 0⟩
  | .TLM_CTRL_TSTART => ⟨.TLM_CTRL, 28, 28, .rw, false, 0⟩
  | .TLM_CTRL_TSTOP => ⟨.TLM_CTRL, 27, 27, .rw, false, 0⟩
  | .TLM_PERIOD_PERIOD => ⟨.TLM_PERIOD, 23, 0, .rw, false, 1000⟩
  | .TLM_CHAN_CH3 => ⟨.TLM_CHAN, 63, 48, .rw, false, 0⟩
  | .TLM_CHAN_CH2 => ⟨.TLM_CHAN, 47, 32, .rw, false, 0⟩
  | .TLM_CHAN_CH1 => ⟨.TLM_CHAN, 31, 16, .rw, false, 0⟩
  | .TLM_CHAN_CH0 => ⟨.TLM_CHAN, 15, 0, .rw, false, 0⟩
  | .TLM_RING_BASE => ⟨.TLM_RING, 63, 12, .rw, false, 0⟩
  | .TLM_RING_LOG2 => ⟨.TLM_RING, 4, 0, .rw, false, 8⟩
  | .TLM_WB_ADDR => ⟨.TLM_WB, 63, 3, .rw, false, 0⟩
  | .TLM_RDIDX_COUNT => ⟨.TLM_RDIDX, 31, 0, .rw, false, 0⟩
  | .TLM_WRIDX_COUNT => ⟨.TLM_WRIDX, 31, 0, .ro, false, 0⟩
  | .TLM_STAT_STATE => ⟨.TLM_STAT, 31, 30, .ro, false, 0⟩
  | .TLM_STAT_STATUS => ⟨.TLM_STAT, 23, 16, .ro, false, 0⟩
  | .TLM_STAT_FLAGS => ⟨.TLM_STAT, 15, 8, .ro, false, 0⟩
  | .TLM_STAT_REFUSED => ⟨.TLM_STAT, 7, 7, .w1c, false, 0⟩
  | .TLM_CNT_ORDER_CNT => ⟨.TLM_CNT, 31, 16, .ro, false, 0⟩
  | .TLM_CNT_RESTART_CNT => ⟨.TLM_CNT, 15, 0, .ro, false, 0⟩
  | .TLM_DROP_COUNT => ⟨.TLM_DROP, 31, 0, .ro, false, 0⟩
  | .TLM_TSTART_TIME => ⟨.TLM_TSTART, 63, 0, .rw, false, 0⟩
  | .TLM_TSTOP_TIME => ⟨.TLM_TSTOP, 63, 0, .rw, false, 0⟩
  | .TLM_LATE_TIME => ⟨.TLM_LATE, 63, 0, .ro, false, 0⟩
  | .BNK_OWNER_PEND => ⟨.BNK_OWNER, 31, 31, .ro, false, 0⟩
  | .BNK_OWNER_ZEROING => ⟨.BNK_OWNER, 30, 30, .ro, false, 0⟩
  | .BNK_OWNER_CUR_KIND => ⟨.BNK_OWNER, 29, 27, .ro, false, 0⟩
  | .BNK_OWNER_CUR_ID => ⟨.BNK_OWNER, 23, 16, .ro, false, 0⟩
  | .BNK_OWNER_KIND => ⟨.BNK_OWNER, 10, 8, .rw, true, 0⟩
  | .BNK_OWNER_ID => ⟨.BNK_OWNER, 7, 0, .rw, true, 0⟩
  | .BNK_CTRL_CLEAR => ⟨.BNK_CTRL, 31, 31, .w1s, false, 0⟩
  | .BNK_CTRL_HANDBACK => ⟨.BNK_CTRL, 30, 30, .w1s, false, 0⟩
  | .BNK_STAT_REFUSED => ⟨.BNK_STAT, 31, 31, .w1c, false, 0⟩
  | .BNK_STAT_EXPERT => ⟨.BNK_STAT, 30, 30, .ro, false, 0⟩
  | .BNK_COLLIDE_COUNT => ⟨.BNK_COLLIDE, 31, 0, .ro, false, 0⟩
  | .BNK_DENIED_COUNT => ⟨.BNK_DENIED, 31, 0, .ro, false, 0⟩
  | .BNK_HANDOVERS_COUNT => ⟨.BNK_HANDOVERS, 31, 0, .ro, false, 0⟩
  | .BNK_ECC_CORR_COUNT => ⟨.BNK_ECC_CORR, 31, 0, .ro, false, 0⟩
  | .BNK_ECC_UNCORR_COUNT => ⟨.BNK_ECC_UNCORR, 31, 0, .ro, false, 0⟩
  | .BNK_SCRUB_HOURS => ⟨.BNK_SCRUB, 7, 0, .rw, false, 24⟩
  | .BNK_ECC_ADDR_OFFSET => ⟨.BNK_ECC_ADDR, 25, 0, .ro, false, 0⟩
  | .BNK_DIAG_GO => ⟨.BNK_DIAG, 63, 63, .w1s, true, 0⟩
  | .BNK_DIAG_BUSY => ⟨.BNK_DIAG, 62, 62, .ro, false, 0⟩
  | .BNK_DIAG_OFFSET => ⟨.BNK_DIAG, 25, 0, .rw, true, 0⟩
  | .BNK_DIAGDATA_DATA => ⟨.BNK_DIAGDATA, 63, 0, .ro, false, 0⟩
  | .BNK_DIAGCHK_CHECK => ⟨.BNK_DIAGCHK, 7, 0, .ro, false, 0⟩
  | .MEM_CTRL_RETRAIN => ⟨.MEM_CTRL, 31, 31, .w1s, true, 0⟩
  | .MEM_CTRL_CLEAR => ⟨.MEM_CTRL, 30, 30, .w1s, false, 0⟩
  | .MEM_CTRL_HANDBACK => ⟨.MEM_CTRL, 29, 29, .w1s, false, 0⟩
  | .MEM_CFG_IECC => ⟨.MEM_CFG, 31, 31, .rw, true, 1⟩
  | .MEM_CFG_LECC => ⟨.MEM_CFG, 30, 30, .rw, true, 1⟩
  | .MEM_CFG_RATE => ⟨.MEM_CFG, 1, 0, .rw, true, 2⟩
  | .MEM_STAT_REFUSED => ⟨.MEM_STAT, 31, 31, .w1c, false, 0⟩
  | .MEM_STAT_EXPERT => ⟨.MEM_STAT, 30, 30, .ro, false, 0⟩
  | .MEM_STAT_IECC_ON => ⟨.MEM_STAT, 29, 29, .ro, false, 0⟩
  | .MEM_STAT_SELF_REFRESH => ⟨.MEM_STAT, 28, 28, .ro, false, 0⟩
  | .MEM_STAT_TRAINED => ⟨.MEM_STAT, 3, 0, .ro, false, 0⟩
  | .MEM_CAP_DATA_MIB => ⟨.MEM_CAP, 63, 32, .ro, false, 0⟩
  | .MEM_CAP_DEVICE_MIB => ⟨.MEM_CAP, 31, 0, .ro, false, 0⟩
  | .MEM_ARB_AGE => ⟨.MEM_ARB, 7, 0, .rw, false, 20⟩
  | .MEM_SCRUB_HOURS => ⟨.MEM_SCRUB, 7, 0, .rw, false, 24⟩
  | .MEM_CORR_COUNT => ⟨.MEM_CORR, 31, 0, .ro, false, 0⟩
  | .MEM_UNCORR_COUNT => ⟨.MEM_UNCORR, 31, 0, .ro, false, 0⟩
  | .MEM_RETRAIN_COUNT => ⟨.MEM_RETRAIN, 31, 0, .ro, false, 0⟩
  | .MEM_LECC_COUNT => ⟨.MEM_LECC, 31, 0, .ro, false, 0⟩
  | .MEM_UNCORR_ADDR_OFFSET => ⟨.MEM_UNCORR_ADDR, 40, 0, .ro, false, 0⟩
  | .MEM_CH_STATE => ⟨.MEM_CH, 31, 30, .ro, false, 0⟩
  | .MEM_CH_FAILS => ⟨.MEM_CH, 29, 28, .ro, false, 0⟩
  | .MEM_CH_RANKS => ⟨.MEM_CH, 9, 8, .ro, false, 0⟩
  | .MEM_CH_REFRATE => ⟨.MEM_CH, 4, 0, .ro, false, 0⟩
  | .FN_STAT_REFUSED => ⟨.FN_STAT, 31, 31, .w1c, false, 0⟩
  | .FN_STAT_FUNC => ⟨.FN_STAT, 30, 24, .ro, false, 0⟩
  | .FN_STAT_BAR2_DENIED => ⟨.FN_STAT, 23, 0, .ro, false, 0⟩
  | .JOB_CFG_WATCHDOG => ⟨.JOB_CFG, 31, 16, .rw, false, 1000⟩
  | .JOB_CFG_RESTARTS => ⟨.JOB_CFG, 2, 0, .rw, false, 2⟩
  | .EVR_BASE_BASE => ⟨.EVR_BASE, 63, 12, .rw, false, 0⟩
  | .EVR_BASE_LOG2 => ⟨.EVR_BASE, 4, 0, .rw, false, 8⟩
  | .EVR_CTRL_ENABLE => ⟨.EVR_CTRL, 31, 31, .rw, false, 0⟩
  | .EVR_CTRL_RESERVE => ⟨.EVR_CTRL, 15, 0, .rw, false, 16⟩
  | .EVR_HEAD_COUNT => ⟨.EVR_HEAD, 31, 0, .rw, false, 0⟩
  | .EVR_TAIL_COUNT => ⟨.EVR_TAIL, 31, 0, .ro, false, 0⟩
  | .EVR_OVF_COUNT => ⟨.EVR_OVF, 31, 0, .ro, false, 0⟩
  | .EVR_MOD_COUNT => ⟨.EVR_MOD, 31, 24, .rw, false, 1⟩
  | .EVR_MOD_TIME => ⟨.EVR_MOD, 15, 0, .rw, false, 0⟩
  | .BAR2_AP_VALID => ⟨.BAR2_AP, 63, 63, .rw, false, 0⟩
  | .BAR2_AP_BASE => ⟨.BAR2_AP, 47, 30, .rw, false, 0⟩
  | .QP_SQBASE_BASE => ⟨.QP_SQBASE, 63, 12, .rw, false, 0⟩
  | .QP_CQBASE_BASE => ⟨.QP_CQBASE, 63, 12, .rw, false, 0⟩
  | .QP_CFG_ENABLE => ⟨.QP_CFG, 31, 31, .rw, false, 0⟩
  | .QP_CFG_FUNC => ⟨.QP_CFG, 30, 24, .ro, false, 0⟩
  | .QP_CFG_WINDOW => ⟨.QP_CFG, 23, 14, .ro, false, 0⟩
  | .QP_CFG_SQLOG2 => ⟨.QP_CFG, 11, 8, .rw, false, 4⟩
  | .QP_CFG_CQLOG2 => ⟨.QP_CFG, 3, 0, .rw, false, 4⟩
  | .QP_SQTAIL_INDEX => ⟨.QP_SQTAIL, 11, 0, .rw, false, 0⟩
  | .QP_CQHEAD_INDEX => ⟨.QP_CQHEAD, 11, 0, .rw, false, 0⟩
  | .QP_STAT_STATE => ⟨.QP_STAT, 31, 30, .ro, false, 0⟩
  | .QP_STAT_ERROR => ⟨.QP_STAT, 29, 24, .ro, false, 0⟩
  | .QP_STAT_CODE => ⟨.QP_STAT, 23, 16, .ro, false, 0⟩
  | .QP_STAT_SQHEAD => ⟨.QP_STAT, 11, 0, .ro, false, 0⟩
  | .FNQ_Q0_QP => ⟨.FNQ_Q0, 31, 16, .rw, false, 0⟩
  | .FNQ_Q0_FEEDQ => ⟨.FNQ_Q0, 15, 0, .rw, false, 0⟩
  | .FNQ_Q1_BANKS => ⟨.FNQ_Q1, 9, 0, .rw, false, 0⟩
  | .FNQ_Q2_PAGES => ⟨.FNQ_Q2, 31, 0, .rw, false, 0⟩
  | .FNQ_SHARE_POWER => ⟨.FNQ_SHARE, 31, 16, .rw, false, 65535⟩
  | .FNQ_SHARE_RT => ⟨.FNQ_SHARE, 15, 0, .rw, false, 65535⟩
  | .FNQ_HELD_QP => ⟨.FNQ_HELD, 60, 48, .ro, false, 0⟩
  | .FNQ_HELD_FEEDQ => ⟨.FNQ_HELD, 47, 34, .ro, false, 0⟩
  | .FNQ_HELD_BANKS => ⟨.FNQ_HELD, 33, 24, .ro, false, 0⟩
  | .FNQ_HELD_PAGES => ⟨.FNQ_HELD, 23, 0, .ro, false, 0⟩
  | .FNQ_OVER_KIND => ⟨.FNQ_OVER, 3, 0, .ro, false, 0⟩
  | .FNQ_GRANT_SLOT => ⟨.FNQ_GRANT, 63, 0, .rw, false, 0⟩
  | .MIR_CFG_ENABLE => ⟨.MIR_CFG, 31, 31, .rw, false, 0⟩
  | .MIR_CFG_RANK => ⟨.MIR_CFG, 30, 30, .rws, false, 0⟩
  | .MIR_CFG_AUTO_TAKE => ⟨.MIR_CFG, 29, 29, .rw, true, 1⟩
  | .MIR_CFG_HANDBACK => ⟨.MIR_CFG, 28, 28, .w1s, false, 0⟩
  | .MIR_CFG_ACK_MAX => ⟨.MIR_CFG, 15, 0, .rw, false, 200⟩
  | .MIR_CTRL_RELEASE => ⟨.MIR_CTRL, 31, 31, .w1s, true, 0⟩
  | .MIR_CTRL_RESYNC => ⟨.MIR_CTRL, 30, 30, .w1s, false, 0⟩
  | .MIR_CTRL_CLEAR => ⟨.MIR_CTRL, 29, 29, .w1s, false, 0⟩
  | .MIR_STAT_REFUSED => ⟨.MIR_STAT, 31, 31, .w1c, false, 0⟩
  | .MIR_STAT_EXPERT => ⟨.MIR_STAT, 30, 30, .ro, false, 0⟩
  | .MIR_STAT_TAKE_DRIVE => ⟨.MIR_STAT, 29, 29, .ro, false, 0⟩
  | .MIR_STAT_TAKE_SEEN => ⟨.MIR_STAT, 28, 28, .ro, false, 0⟩
  | .MIR_STAT_RANK_CLASH => ⟨.MIR_STAT, 27, 27, .ro, false, 0⟩
  | .MIR_STAT_PAIR => ⟨.MIR_STAT, 26, 24, .ro, false, 0⟩
  | .MIR_STAT_LINK => ⟨.MIR_STAT, 23, 22, .ro, false, 0⟩
  | .MIR_STAT_WIDTH => ⟨.MIR_STAT, 21, 18, .ro, false, 0⟩
  | .MIR_LASTHB_TIME => ⟨.MIR_LASTHB, 63, 0, .ro, false, 0⟩
  | .MIR_EPOCH_EPOCH => ⟨.MIR_EPOCH, 31, 0, .ro, false, 0⟩
  | .MIR_CRCERR_COUNT => ⟨.MIR_CRCERR, 31, 0, .ro, false, 0⟩
  | .MIR_REPLAY_COUNT => ⟨.MIR_REPLAY, 31, 0, .ro, false, 0⟩
  | .MIR_HBMISS_COUNT => ⟨.MIR_HBMISS, 31, 0, .ro, false, 0⟩
  | .MIR_TAKES_COUNT => ⟨.MIR_TAKES, 31, 0, .ro, false, 0⟩
  | .MIR_FN_MIRRORED => ⟨.MIR_FN, 31, 31, .rw, false, 0⟩
  | .MIR_FN_ROLE => ⟨.MIR_FN, 30, 29, .ro, false, 0⟩
  | .MIR_FN_READY => ⟨.MIR_FN, 28, 28, .ro, false, 0⟩
  | .MIR_FN_MISMATCH => ⟨.MIR_FN, 27, 27, .ro, false, 0⟩
  | .FLT_CTRL_CLEAR => ⟨.FLT_CTRL, 31, 31, .w1s, false, 0⟩
  | .FLT_TOCNT_COUNT => ⟨.FLT_TOCNT, 31, 0, .ro, false, 0⟩
  | .FLT_DIE_ONLINE => ⟨.FLT_DIE, 31, 31, .ro, false, 0⟩
  | .FLT_DIE_CAUSE => ⟨.FLT_DIE, 30, 28, .ro, false, 0⟩
  | .FLT_DIE_RESTORES => ⟨.FLT_DIE, 7, 0, .ro, false, 0⟩
  | .FLT_SUPCNT_COUNT => ⟨.FLT_SUPCNT, 31, 0, .ro, false, 0⟩
  | .FLT_LASTSUP_WIN_KIND => ⟨.FLT_LASTSUP, 31, 30, .ro, false, 0⟩
  | .FLT_LASTSUP_WIN_FUNC => ⟨.FLT_LASTSUP, 29, 23, .ro, false, 0⟩
  | .FLT_LASTSUP_LOSE_KIND => ⟨.FLT_LASTSUP, 22, 21, .ro, false, 0⟩
  | .FLT_LASTSUP_LOSE_FUNC => ⟨.FLT_LASTSUP, 20, 14, .ro, false, 0⟩
  | .FLT_RESTARTS_COUNT => ⟨.FLT_RESTARTS, 31, 0, .ro, false, 0⟩
  | .FLT_EXHAUSTED_COUNT => ⟨.FLT_EXHAUSTED, 31, 0, .ro, false, 0⟩
  | .CLK_CTRL_HANDBACK => ⟨.CLK_CTRL, 31, 31, .w1s, false, 0⟩
  | .CLK_CTRL_MGMT_SRC => ⟨.CLK_CTRL, 30, 30, .rw, true, 0⟩
  | .CLK_CTRL_ROOT => ⟨.CLK_CTRL, 29, 29, .rw, true, 1⟩
  | .CLK_STAT_REFUSED => ⟨.CLK_STAT, 31, 31, .w1c, false, 0⟩
  | .CLK_STAT_EXPERT => ⟨.CLK_STAT, 30, 30, .ro, false, 0⟩
  | .CLK_STAT_XTAL_READY => ⟨.CLK_STAT, 29, 29, .ro, false, 0⟩
  | .CLK_STAT_RC_READY => ⟨.CLK_STAT, 28, 28, .ro, false, 0⟩
  | .CLK_STAT_REFCLK_READY => ⟨.CLK_STAT, 27, 27, .ro, false, 0⟩
  | .CLK_STAT_MGMT_ON_RC => ⟨.CLK_STAT, 26, 26, .ro, false, 0⟩
  | .CLK_STAT_SAFE => ⟨.CLK_STAT, 25, 25, .ro, false, 0⟩
  | .CLK_STAT_NOCLOCK => ⟨.CLK_STAT, 24, 24, .ro, false, 0⟩
  | .CLK_STAT_LOSSES => ⟨.CLK_STAT, 23, 16, .ro, false, 0⟩
  | .CLK_GATE_STATUS_REFUSED => ⟨.CLK_GATE_STATUS, 31, 31, .w1c, false, 0⟩
  | .CLK_GATE_STATUS_PEND => ⟨.CLK_GATE_STATUS, 30, 30, .ro, false, 0⟩
  | .CLK_PLL_REF => ⟨.CLK_PLL, 31, 30, .rw, true, 0⟩
  | .CLK_PLL_SSC_DEPTH => ⟨.CLK_PLL, 29, 25, .rw, true, 0⟩
  | .CLK_PLL_SSC_RATE => ⟨.CLK_PLL, 24, 19, .rw, true, 30⟩
  | .CLK_PLL_POSTDIV => ⟨.CLK_PLL, 18, 16, .rw, true, 0⟩
  | .CLK_PLL_REFDIV => ⟨.CLK_PLL, 15, 12, .rw, true, 0⟩
  | .CLK_PLL_FBDIV => ⟨.CLK_PLL, 10, 0, .rw, true, 0⟩
  | .CLK_LOCK_LOCK => ⟨.CLK_LOCK, 4, 0, .ro, false, 0⟩
  | .CLK_GATE_DIE => ⟨.CLK_GATE, 31, 31, .rw, true, 1⟩
  | .CLK_GATE_BLK => ⟨.CLK_GATE, 7, 0, .rw, true, 255⟩
  | .CLK_SG_GROUP => ⟨.CLK_SG, 51, 0, .rw, true, 0⟩
  | .CLK_BG_GROUP => ⟨.CLK_BG, 9, 0, .rw, true, 1023⟩
  | .CLK_DTIME_TIME => ⟨.CLK_DTIME, 63, 0, .ro, false, 0⟩
  | .CLK_DTSET_TIME => ⟨.CLK_DTSET, 63, 0, .rw, false, 0⟩
  | .CLK_DTCTRL_SET => ⟨.CLK_DTCTRL, 31, 31, .w1s, false, 0⟩
  | .CLK_DTCTRL_SET_PPS => ⟨.CLK_DTCTRL, 30, 30, .w1s, false, 0⟩
  | .CLK_DTCTRL_PPS_EN => ⟨.CLK_DTCTRL, 29, 29, .rw, false, 0⟩
  | .CLK_DTCTRL_HOLDOVER => ⟨.CLK_DTCTRL, 28, 28, .ro, false, 0⟩
  | .CLK_DTCTRL_PPS_LOST => ⟨.CLK_DTCTRL, 27, 27, .ro, false, 0⟩
  | .CLK_DTCTRL_REJECTS => ⟨.CLK_DTCTRL, 23, 16, .ro, false, 0⟩
  | .CLK_DTCTRL_WINDOW => ⟨.CLK_DTCTRL, 15, 0, .rw, false, 1000⟩
  | .PWR_CTRL_HANDBACK => ⟨.PWR_CTRL, 31, 31, .w1s, false, 0⟩
  | .PWR_STAT_REFUSED => ⟨.PWR_STAT, 31, 31, .w1c, false, 0⟩
  | .PWR_STAT_EXPERT => ⟨.PWR_STAT, 30, 30, .ro, false, 0⟩
  | .PWR_STAT_SHED_IN => ⟨.PWR_STAT, 29, 29, .ro, false, 0⟩
  | .PWR_STAT_SHED_MET => ⟨.PWR_STAT, 28, 28, .ro, false, 0⟩
  | .PWR_STAT_LIMITING => ⟨.PWR_STAT, 27, 27, .ro, false, 0⟩
  | .PWR_STAT_THERM => ⟨.PWR_STAT, 15, 8, .ro, false, 0⟩
  | .PWR_STAT_TSHUT => ⟨.PWR_STAT, 7, 0, .ro, false, 0⟩
  | .PWR_PKG_BUDGET_WATTS => ⟨.PWR_PKG_BUDGET, 15, 0, .rw, false, 0⟩
  | .PWR_SHED_BUDGET_WATTS => ⟨.PWR_SHED_BUDGET, 15, 0, .rw, false, 0⟩
  | .PWR_SHED_CFG_FAB_PCT => ⟨.PWR_SHED_CFG, 31, 24, .rw, false, 50⟩
  | .PWR_SHED_CFG_GUARD => ⟨.PWR_SHED_CFG, 23, 16, .rw, false, 2⟩
  | .PWR_SHED_CFG_ADVISE => ⟨.PWR_SHED_CFG, 15, 0, .rw, false, 60⟩
  | .PWR_THERM_MARGIN => ⟨.PWR_THERM, 7, 0, .rw, false, 5⟩
  | .PWR_DIE_BUDGET => ⟨.PWR_DIE, 63, 48, .rw, false, 384⟩
  | .PWR_DIE_FAB_CAP => ⟨.PWR_DIE, 47, 32, .rw, false, 80⟩
  | .PWR_DIE_DGA_CAP => ⟨.PWR_DIE, 31, 16, .rw, false, 192⟩
  | .PWR_DIE_MEAS => ⟨.PWR_DIE, 15, 0, .ro, false, 0⟩
  | .START_REPORT_STATE => ⟨.START_REPORT, 31, 30, .ro, false, 0⟩
  | .START_REPORT_FW_SLOT => ⟨.START_REPORT, 29, 28, .ro, false, 0⟩
  | .START_REPORT_STEP => ⟨.START_REPORT, 27, 24, .ro, false, 0⟩
  | .START_REPORT_REASON => ⟨.START_REPORT, 23, 16, .ro, false, 0⟩
  | .START_REPORT_FAILS => ⟨.START_REPORT, 15, 8, .ro, false, 0⟩
  | .START_REPORT_LAST => ⟨.START_REPORT, 7, 0, .ro, false, 0⟩
  | .START_TIME_MS => ⟨.START_TIME, 31, 0, .ro, false, 0⟩
  | .PKT_STAT_REFUSED => ⟨.PKT_STAT, 31, 31, .w1c, false, 0⟩
  | .PKT_STAT_MODE => ⟨.PKT_STAT, 30, 29, .ro, false, 0⟩
  | .PKT_STAT_SHADOW => ⟨.PKT_STAT, 28, 27, .ro, false, 0⟩
  | .PKT_STAT_DENIED => ⟨.PKT_STAT, 15, 0, .ro, false, 0⟩
  | .PKT_ADDR_AUTOINC => ⟨.PKT_ADDR, 31, 31, .rw, false, 0⟩
  | .PKT_ADDR_DIE => ⟨.PKT_ADDR, 20, 18, .rw, false, 0⟩
  | .PKT_ADDR_PAGE => ⟨.PKT_ADDR, 16, 10, .rw, false, 0⟩
  | .PKT_ADDR_WORD => ⟨.PKT_ADDR, 9, 0, .rw, false, 0⟩
  | .PKT_DATA_DATA => ⟨.PKT_DATA, 31, 0, .rw, false, 0⟩
  | .PKT_PAGE_USER => ⟨.PKT_PAGE, 31, 31, .ro, false, 0⟩
  | .PKT_PAGE_LOCKED => ⟨.PKT_PAGE, 30, 30, .ro, false, 0⟩
  | .PKT_PAGE_RD_OPEN => ⟨.PKT_PAGE, 29, 29, .ro, false, 0⟩
  | .PKT_PAGE_WR_OPEN => ⟨.PKT_PAGE, 28, 28, .ro, false, 0⟩
  | .PKT_PAGE_LOCKOUT => ⟨.PKT_PAGE, 27, 26, .ro, false, 0⟩
  | .PKT_PAGE_AREA => ⟨.PKT_PAGE, 3, 0, .ro, false, 0⟩
  | .PKT_UNLOCK_PASSWORD => ⟨.PKT_UNLOCK, 63, 0, .wo, false, 0⟩
  | .PKT_UNLOCKSEL_RELOCK => ⟨.PKT_UNLOCKSEL, 31, 31, .w1s, false, 0⟩
  | .PKT_UNLOCKSEL_KIND => ⟨.PKT_UNLOCKSEL, 8, 8, .rw, false, 0⟩
  | .PKT_UNLOCKSEL_AREA => ⟨.PKT_UNLOCKSEL, 3, 0, .rw, false, 0⟩
  | .PKT_LIFE_POH_HOURS => ⟨.PKT_LIFE_POH, 31, 0, .ro, false, 0⟩
  | .PKT_LIFE_CYCLES_COUNT => ⟨.PKT_LIFE_CYCLES, 31, 0, .ro, false, 0⟩
  | .PKT_LIFE_ENERGY_JOULES => ⟨.PKT_LIFE_ENERGY, 63, 0, .ro, false, 0⟩
  | .PKT_LIFE_STITCHES_COUNT => ⟨.PKT_LIFE_STITCHES, 63, 0, .ro, false, 0⟩
  | .PKT_WEARSEL_DIE => ⟨.PKT_WEARSEL, 13, 11, .rw, false, 0⟩
  | .PKT_WEARSEL_TILE => ⟨.PKT_WEARSEL, 10, 0, .rw, false, 0⟩
  | .PKT_WEAR_COUNT => ⟨.PKT_WEAR, 15, 0, .ro, false, 0⟩
  | .CHN_CFG_PEC => ⟨.CHN_CFG, 31, 31, .rw, false, 0⟩
  | .CHN_CFG_VALID => ⟨.CHN_CFG, 30, 30, .ro, false, 0⟩
  | .CHN_CFG_ADDR => ⟨.CHN_CFG, 6, 0, .ro, false, 0⟩
  | .CHN_STAT_CHAIN_IN => ⟨.CHN_STAT, 31, 31, .ro, false, 0⟩
  | .CHN_STAT_CHAIN_OUT => ⟨.CHN_STAT, 30, 30, .ro, false, 0⟩
  | .CHN_STAT_BYPASS => ⟨.CHN_STAT, 29, 29, .ro, false, 0⟩
  | .CHN_STAT_TIMEOUTS => ⟨.CHN_STAT, 23, 16, .ro, false, 0⟩
  | .CHN_STAT_PEC_ERR => ⟨.CHN_STAT, 15, 0, .ro, false, 0⟩
  | .MSIX_ADDR_ADDR => ⟨.MSIX_ADDR, 63, 2, .rw, false, 0⟩
  | .MSIX_DATA_DATA => ⟨.MSIX_DATA, 31, 0, .rw, false, 0⟩
  | .MSIX_CTRL_MASK => ⟨.MSIX_CTRL, 0, 0, .rw, false, 1⟩
  | .MSIX_PBA_PEND => ⟨.MSIX_PBA, 15, 0, .ro, false, 0⟩

/-- Bits of a field. -/
def Field.width (f : Field) : Nat := f.info.hi - f.info.lo + 1

/-- The fields of a register, most significant first. -/
def Reg.fields : Reg → List Field
  | .GLB_ID => [.GLB_ID_PART, .GLB_ID_GRADE, .GLB_ID_DIES, .GLB_ID_STEPPING]
  | .GLB_CAPACITY => [.GLB_CAPACITY_SLOTS_LOST, .GLB_CAPACITY_SPARE_TILES, .GLB_CAPACITY_MAPPABLE_TILES, .GLB_CAPACITY_HEAD, .GLB_CAPACITY_DIE_PRESENT, .GLB_CAPACITY_DIE_ONLINE]
  | .TIL_CTRL => [.TIL_CTRL_RETIRE, .TIL_CTRL_HOLD, .TIL_CTRL_PRECISION, .TIL_CTRL_HANDBACK]
  | .TIL_STATUS => [.TIL_STATUS_STATE, .TIL_STATUS_HOLD_CAUSE, .TIL_STATUS_SUSPECT, .TIL_STATUS_REV_LOST, .TIL_STATUS_EXPERT, .TIL_STATUS_REFUSED, .TIL_STATUS_CAL_REJ_RUN, .TIL_STATUS_REPLACES]
  | .TIL_MAP => [.TIL_MAP_VALID, .TIL_MAP_MAP, .TIL_MAP_SLOT, .TIL_MAP_LAYER]
  | .TIL_PLACE => [.TIL_PLACE_ROWBLK, .TIL_PLACE_COLBLK]
  | .TIL_EXTENT => [.TIL_EXTENT_ROWS_M1, .TIL_EXTENT_COLS_M1]
  | .TIL_SPARES => [.TIL_SPARES_SPARE_COLS_FREE, .TIL_SPARES_SPARE_CONV_FREE]
  | .TIL_STITCHES => [.TIL_STITCHES_COUNT]
  | .TIL_RSTITCHES => [.TIL_RSTITCHES_COUNT]
  | .TIL_LASTGOOD => [.TIL_LASTGOOD_TIME]
  | .TIL_PROGTIME => [.TIL_PROGTIME_TIME]
  | .TIL_CHECK => [.TIL_CHECK_TOL, .TIL_CHECK_FAILS]
  | .TIL_SPARECOL => [.TIL_SPARECOL_BLK3, .TIL_SPARECOL_BLK2, .TIL_SPARECOL_BLK1, .TIL_SPARECOL_BLK0]
  | .DRV_CFG => [.DRV_CFG_SPAN, .DRV_CFG_FS, .DRV_CFG_HANDBACK]
  | .DRV_SLEW => [.DRV_SLEW_STEP, .DRV_SLEW_RATE]
  | .DRV_STAT => [.DRV_STAT_REFUSED, .DRV_STAT_PEND, .DRV_STAT_PLAYING, .DRV_STAT_EXPERT, .DRV_STAT_LASTRAMP]
  | .DRV_OUTRUN => [.DRV_OUTRUN_COUNT]
  | .DRV_CLAMP => [.DRV_CLAMP_COUNT]
  | .DRV_UCSTAT => [.DRV_UCSTAT_ROWS_ALT, .DRV_UCSTAT_ROWS_FAILED]
  | .WFM_ADDR => [.WFM_ADDR_AUTOINC, .WFM_ADDR_WAVE, .WFM_ADDR_POINT]
  | .WFM_DATA => [.WFM_DATA_POINT]
  | .WFM_STAT => [.WFM_STAT_REFUSED, .WFM_STAT_HANDBACK, .WFM_STAT_CLAMP_CNT]
  | .WFM_PLAY_CTRL => [.WFM_PLAY_CTRL_START, .WFM_PLAY_CTRL_STOP, .WFM_PLAY_CTRL_CANCEL, .WFM_PLAY_CTRL_TSTART, .WFM_PLAY_CTRL_TSTOP, .WFM_PLAY_CTRL_WAVE, .WFM_PLAY_CTRL_REPEAT, .WFM_PLAY_CTRL_INTERVAL]
  | .WFM_PLAY_TARGET => [.WFM_PLAY_TARGET_TILE, .WFM_PLAY_TARGET_FIRST_ROW, .WFM_PLAY_TARGET_ROWS_M1]
  | .WFM_PLAY_TSTART => [.WFM_PLAY_TSTART_TIME]
  | .WFM_PLAY_TSTOP => [.WFM_PLAY_TSTOP_TIME]
  | .WFM_PLAY_STAT => [.WFM_PLAY_STAT_STATE, .WFM_PLAY_STAT_CLOCK_ABORT, .WFM_PLAY_STAT_STATUS, .WFM_PLAY_STAT_FLAGS, .WFM_PLAY_STAT_POINT]
  | .WFM_PLAY_CNT => [.WFM_PLAY_CNT_ORDER_CNT, .WFM_PLAY_CNT_RESTART_CNT]
  | .WFM_PLAY_LATE => [.WFM_PLAY_LATE_LATENESS]
  | .HEM_CFG => [.HEM_CFG_RANGE, .HEM_CFG_MSE_REF, .HEM_CFG_MSE_Q]
  | .HEM_SAT => [.HEM_SAT_LIMIT]
  | .HEM_TAPS => [.HEM_TAPS_STALE, .HEM_TAPS_PEND, .HEM_TAPS_WSTOP, .HEM_TAPS_WSTART]
  | .HEM_CONVSUB => [.HEM_CONVSUB_SP75, .HEM_CONVSUB_SP74, .HEM_CONVSUB_SP73, .HEM_CONVSUB_SP72]
  | .HEM_CSAT => [.HEM_CSAT_COUNT]
  | .HEM_OSAT => [.HEM_OSAT_COUNT]
  | .HEM_RERUN => [.HEM_RERUN_COUNT]
  | .HEM_REFCHK => [.HEM_REFCHK_TOL, .HEM_REFCHK_REF_FAILS]
  | .HEM_MSEREF_SUM => [.HEM_MSEREF_SUM_SUM]
  | .HEM_MSEREF_CNT => [.HEM_MSEREF_CNT_COUNT]
  | .HEM_MSEQ_CNT => [.HEM_MSEQ_CNT_COUNT]
  | .HEM_MSEQ_SUM => [.HEM_MSEQ_SUM_SUM]
  | .HEM_CTRL => [.HEM_CTRL_CLEAR, .HEM_CTRL_HANDBACK]
  | .HEM_RSAT => [.HEM_RSAT_COUNT]
  | .YOK_CTRL => [.YOK_CTRL_HOLD_ALL, .YOK_CTRL_SPLIT_EN, .YOK_CTRL_CLEAR, .YOK_CTRL_HANDBACK]
  | .YOK_STATUS => [.YOK_STATUS_FIRING, .YOK_STATUS_MOVING, .YOK_STATUS_EXPERT, .YOK_STATUS_REFUSED, .YOK_STATUS_HEAD, .YOK_STATUS_FOLLOWER_OFF]
  | .YOK_PERIOD => [.YOK_PERIOD_TICKS]
  | .YOK_THROTTLE => [.YOK_THROTTLE_TICKS]
  | .YOK_SETTLE => [.YOK_SETTLE_LAST, .YOK_SETTLE_MAX]
  | .YOK_SEAM => [.YOK_SEAM_SWITCH_MAX, .YOK_SEAM_INTERVAL]
  | .YOK_IBUDGET => [.YOK_IBUDGET_BUDGET]
  | .YOK_ACCT => [.YOK_ACCT_WINDOW]
  | .YOK_STITCHNO => [.YOK_STITCHNO_COUNT]
  | .YOK_LASTSTROBE => [.YOK_LASTSTROBE_TIME]
  | .YOK_SPLITS => [.YOK_SPLITS_COUNT]
  | .YOK_EXTENDS => [.YOK_EXTENDS_COUNT]
  | .YOK_THROTTLED => [.YOK_THROTTLED_COUNT]
  | .YOK_DEFERRED => [.YOK_DEFERRED_COUNT]
  | .YOK_OVERBUDGET => [.YOK_OVERBUDGET_COUNT]
  | .YOK_MISS => [.YOK_MISS_COUNT]
  | .YOK_SKEW => [.YOK_SKEW_LOSTS, .YOK_SKEW_SKEW]
  | .SEQ_CFG => [.SEQ_CFG_RESERVE0]
  | .SEQ_CTRL => [.SEQ_CTRL_DRAIN, .SEQ_CTRL_HANDBACK]
  | .SEQ_STAT => [.SEQ_STAT_REFUSED, .SEQ_STAT_EXPERT, .SEQ_STAT_BUSY]
  | .SEQ_TASK => [.SEQ_TASK_STATE, .SEQ_TASK_FUNC, .SEQ_TASK_CLASS, .SEQ_TASK_TASK]
  | .SEQ_JOB => [.SEQ_JOB_JOB]
  | .SEQ_PC => [.SEQ_PC_PC]
  | .SEQ_TRAP => [.SEQ_TRAP_CAUSE, .SEQ_TRAP_CODE, .SEQ_TRAP_PC]
  | .DGA_CTRL => [.DGA_CTRL_HOLD, .DGA_CTRL_CLEAR, .DGA_CTRL_HANDBACK]
  | .DGA_STATUS => [.DGA_STATUS_BUSY, .DGA_STATUS_EXPERT, .DGA_STATUS_ADDQUEUED, .DGA_STATUS_QUEUED]
  | .DGA_DUTY => [.DGA_DUTY_DUTY]
  | .DGA_CYCLES => [.DGA_CYCLES_COUNT]
  | .DGA_MACS => [.DGA_MACS_COUNT]
  | .DGA_SAT => [.DGA_SAT_COUNT]
  | .DGA_NAN => [.DGA_NAN_COUNT]
  | .DGA_OPWAIT => [.DGA_OPWAIT_COUNT]
  | .DGA_GUS_STALL => [.DGA_GUS_STALL_COUNT]
  | .DGA_GUS_BYTES => [.DGA_GUS_BYTES_COUNT]
  | .DGA_GUS_LATE => [.DGA_GUS_LATE_COUNT]
  | .DGA_ADDFULL => [.DGA_ADDFULL_COUNT]
  | .PRG_CTRL => [.PRG_CTRL_HOLD, .PRG_CTRL_CLEAR, .PRG_CTRL_HANDBACK]
  | .PRG_STATUS => [.PRG_STATUS_REFUSED, .PRG_STATUS_EXPERT, .PRG_STATUS_QUEUED, .PRG_STATUS_BUSY]
  | .PRG_CFG => [.PRG_CFG_VTOL, .PRG_CFG_INC_LIMIT, .PRG_CFG_ITER_LIMIT]
  | .PRG_STORE => [.PRG_STORE_FREE_MIB, .PRG_STORE_GIB]
  | .PRG_TILES => [.PRG_TILES_COUNT]
  | .PRG_ITERS => [.PRG_ITERS_COUNT]
  | .PRG_COLFAIL => [.PRG_COLFAIL_COUNT]
  | .PRG_LATECNT => [.PRG_LATECNT_COUNT]
  | .PRG_MAXLATE => [.PRG_MAXLATE_LATENESS]
  | .PRG_ENG => [.PRG_ENG_STATE, .PRG_ENG_TILE, .PRG_ENG_KIND, .PRG_ENG_DECK, .PRG_ENG_ROW]
  | .CAL_CTRL => [.CAL_CTRL_HOLD, .CAL_CTRL_CLEAR, .CAL_CTRL_HANDBACK, .CAL_CTRL_TRACE]
  | .CAL_STATUS => [.CAL_STATUS_REFUSED, .CAL_STATUS_EXPERT, .CAL_STATUS_TRACE_FAULT, .CAL_STATUS_TEMP_CLAMP, .CAL_STATUS_START_DONE, .CAL_STATUS_BUSY]
  | .CAL_CFG => [.CAL_CFG_STAGE, .CAL_CFG_FULL_DAYS, .CAL_CFG_PAR]
  | .CAL_DRIFT => [.CAL_DRIFT_DTEMP, .CAL_DRIFT_INTERVAL]
  | .CAL_TRACE => [.CAL_TRACE_PERIOD, .CAL_TRACE_DTEMP]
  | .CAL_RAMP => [.CAL_RAMP_STEP, .CAL_RAMP_SEAMS]
  | .CAL_LIMIT => [.CAL_LIMIT_MSE, .CAL_LIMIT_DSTEP]
  | .CAL_REFRESH => [.CAL_REFRESH_LEAD, .CAL_REFRESH_SIGMA]
  | .CAL_TEMP => [.CAL_TEMP_TJ_USED, .CAL_TEMP_TJ_TRACE]
  | .CAL_TAB_ADDR => [.CAL_TAB_ADDR_AUTOINC, .CAL_TAB_ADDR_TABLE, .CAL_TAB_ADDR_TILE, .CAL_TAB_ADDR_INDEX]
  | .CAL_TAB_DATA => [.CAL_TAB_DATA_DATA]
  | .CAL_TAB_STAT => [.CAL_TAB_STAT_STALE, .CAL_TAB_STAT_EXPERT, .CAL_TAB_STAT_RAMPING, .CAL_TAB_STAT_CAUSE, .CAL_TAB_STAT_RESULT]
  | .CAL_HANDBACK => [.CAL_HANDBACK_GO, .CAL_HANDBACK_TILE]
  | .CAL_REJECTS => [.CAL_REJECTS_COUNT]
  | .CAL_FULLS => [.CAL_FULLS_COUNT]
  | .CAL_LASTTRACE => [.CAL_LASTTRACE_TIME]
  | .MCV_CTRL => [.MCV_CTRL_MODE, .MCV_CTRL_HOLD, .MCV_CTRL_SCAL, .MCV_CTRL_CLEAR, .MCV_CTRL_HANDBACK]
  | .MCV_STAT => [.MCV_STAT_REFUSED, .MCV_STAT_EXPERT, .MCV_STAT_FAIL_A, .MCV_STAT_FAIL_B, .MCV_STAT_SCAL_A, .MCV_STAT_SCAL_B, .MCV_STAT_ENTRY]
  | .MCV_SEQCFG => [.MCV_SEQCFG_LEN_M1, .MCV_SEQCFG_INTERVAL]
  | .MCV_PLAUS => [.MCV_PLAUS_FAULTS, .MCV_PLAUS_TOL]
  | .MCV_SCAL => [.MCV_SCAL_PERIOD, .MCV_SCAL_DTEMP]
  | .MCV_TFAB => [.MCV_TFAB_VALID, .MCV_TFAB_MEAN]
  | .MCV_PREEMPT => [.MCV_PREEMPT_ABORTS, .MCV_PREEMPT_PROTECTED]
  | .MCV_TRIG => [.MCV_TRIG_GO, .MCV_TRIG_SRC, .MCV_TRIG_CHB, .MCV_TRIG_CHA]
  | .MCV_TTRIG => [.MCV_TTRIG_TIME]
  | .MCV_SIMRES => [.MCV_SIMRES_VALID, .MCV_SIMRES_DELAYED, .MCV_SIMRES_OVERRUNS, .MCV_SIMRES_CODE_B, .MCV_SIMRES_CODE_A]
  | .MCV_SIMTIME => [.MCV_SIMTIME_TIME]
  | .MCV_SEQA => [.MCV_SEQA_PAIR, .MCV_SEQA_CHAN, .MCV_SEQA_ARG]
  | .MCV_SEQB => [.MCV_SEQB_PAIR, .MCV_SEQB_CHAN, .MCV_SEQB_ARG]
  | .MCV_RES => [.MCV_RES_VALID, .MCV_RES_STALE, .MCV_RES_PLAUS_FAIL, .MCV_RES_CHECKED, .MCV_RES_ARG, .MCV_RES_CODE, .MCV_RES_VALUE]
  | .TLM_CTRL => [.TLM_CTRL_START, .TLM_CTRL_STOP, .TLM_CTRL_CANCEL, .TLM_CTRL_TSTART, .TLM_CTRL_TSTOP]
  | .TLM_PERIOD => [.TLM_PERIOD_PERIOD]
  | .TLM_CHAN => [.TLM_CHAN_CH3, .TLM_CHAN_CH2, .TLM_CHAN_CH1, .TLM_CHAN_CH0]
  | .TLM_RING => [.TLM_RING_BASE, .TLM_RING_LOG2]
  | .TLM_WB => [.TLM_WB_ADDR]
  | .TLM_RDIDX => [.TLM_RDIDX_COUNT]
  | .TLM_WRIDX => [.TLM_WRIDX_COUNT]
  | .TLM_STAT => [.TLM_STAT_STATE, .TLM_STAT_STATUS, .TLM_STAT_FLAGS, .TLM_STAT_REFUSED]
  | .TLM_CNT => [.TLM_CNT_ORDER_CNT, .TLM_CNT_RESTART_CNT]
  | .TLM_DROP => [.TLM_DROP_COUNT]
  | .TLM_TSTART => [.TLM_TSTART_TIME]
  | .TLM_TSTOP => [.TLM_TSTOP_TIME]
  | .TLM_LATE => [.TLM_LATE_TIME]
  | .BNK_OWNER => [.BNK_OWNER_PEND, .BNK_OWNER_ZEROING, .BNK_OWNER_CUR_KIND, .BNK_OWNER_CUR_ID, .BNK_OWNER_KIND, .BNK_OWNER_ID]
  | .BNK_CTRL => [.BNK_CTRL_CLEAR, .BNK_CTRL_HANDBACK]
  | .BNK_STAT => [.BNK_STAT_REFUSED, .BNK_STAT_EXPERT]
  | .BNK_COLLIDE => [.BNK_COLLIDE_COUNT]
  | .BNK_DENIED => [.BNK_DENIED_COUNT]
  | .BNK_HANDOVERS => [.BNK_HANDOVERS_COUNT]
  | .BNK_ECC_CORR => [.BNK_ECC_CORR_COUNT]
  | .BNK_ECC_UNCORR => [.BNK_ECC_UNCORR_COUNT]
  | .BNK_SCRUB => [.BNK_SCRUB_HOURS]
  | .BNK_ECC_ADDR => [.BNK_ECC_ADDR_OFFSET]
  | .BNK_DIAG => [.BNK_DIAG_GO, .BNK_DIAG_BUSY, .BNK_DIAG_OFFSET]
  | .BNK_DIAGDATA => [.BNK_DIAGDATA_DATA]
  | .BNK_DIAGCHK => [.BNK_DIAGCHK_CHECK]
  | .MEM_CTRL => [.MEM_CTRL_RETRAIN, .MEM_CTRL_CLEAR, .MEM_CTRL_HANDBACK]
  | .MEM_CFG => [.MEM_CFG_IECC, .MEM_CFG_LECC, .MEM_CFG_RATE]
  | .MEM_STAT => [.MEM_STAT_REFUSED, .MEM_STAT_EXPERT, .MEM_STAT_IECC_ON, .MEM_STAT_SELF_REFRESH, .MEM_STAT_TRAINED]
  | .MEM_CAP => [.MEM_CAP_DATA_MIB, .MEM_CAP_DEVICE_MIB]
  | .MEM_ARB => [.MEM_ARB_AGE]
  | .MEM_SCRUB => [.MEM_SCRUB_HOURS]
  | .MEM_CORR => [.MEM_CORR_COUNT]
  | .MEM_UNCORR => [.MEM_UNCORR_COUNT]
  | .MEM_RETRAIN => [.MEM_RETRAIN_COUNT]
  | .MEM_LECC => [.MEM_LECC_COUNT]
  | .MEM_UNCORR_ADDR => [.MEM_UNCORR_ADDR_OFFSET]
  | .MEM_CH => [.MEM_CH_STATE, .MEM_CH_FAILS, .MEM_CH_RANKS, .MEM_CH_REFRATE]
  | .FN_STAT => [.FN_STAT_REFUSED, .FN_STAT_FUNC, .FN_STAT_BAR2_DENIED]
  | .JOB_CFG => [.JOB_CFG_WATCHDOG, .JOB_CFG_RESTARTS]
  | .EVR_BASE => [.EVR_BASE_BASE, .EVR_BASE_LOG2]
  | .EVR_CTRL => [.EVR_CTRL_ENABLE, .EVR_CTRL_RESERVE]
  | .EVR_HEAD => [.EVR_HEAD_COUNT]
  | .EVR_TAIL => [.EVR_TAIL_COUNT]
  | .EVR_OVF => [.EVR_OVF_COUNT]
  | .EVR_MOD => [.EVR_MOD_COUNT, .EVR_MOD_TIME]
  | .BAR2_AP => [.BAR2_AP_VALID, .BAR2_AP_BASE]
  | .QP_SQBASE => [.QP_SQBASE_BASE]
  | .QP_CQBASE => [.QP_CQBASE_BASE]
  | .QP_CFG => [.QP_CFG_ENABLE, .QP_CFG_FUNC, .QP_CFG_WINDOW, .QP_CFG_SQLOG2, .QP_CFG_CQLOG2]
  | .QP_SQTAIL => [.QP_SQTAIL_INDEX]
  | .QP_CQHEAD => [.QP_CQHEAD_INDEX]
  | .QP_STAT => [.QP_STAT_STATE, .QP_STAT_ERROR, .QP_STAT_CODE, .QP_STAT_SQHEAD]
  | .FNQ_Q0 => [.FNQ_Q0_QP, .FNQ_Q0_FEEDQ]
  | .FNQ_Q1 => [.FNQ_Q1_BANKS]
  | .FNQ_Q2 => [.FNQ_Q2_PAGES]
  | .FNQ_SHARE => [.FNQ_SHARE_POWER, .FNQ_SHARE_RT]
  | .FNQ_HELD => [.FNQ_HELD_QP, .FNQ_HELD_FEEDQ, .FNQ_HELD_BANKS, .FNQ_HELD_PAGES]
  | .FNQ_OVER => [.FNQ_OVER_KIND]
  | .FNQ_GRANT => [.FNQ_GRANT_SLOT]
  | .MIR_CFG => [.MIR_CFG_ENABLE, .MIR_CFG_RANK, .MIR_CFG_AUTO_TAKE, .MIR_CFG_HANDBACK, .MIR_CFG_ACK_MAX]
  | .MIR_CTRL => [.MIR_CTRL_RELEASE, .MIR_CTRL_RESYNC, .MIR_CTRL_CLEAR]
  | .MIR_STAT => [.MIR_STAT_REFUSED, .MIR_STAT_EXPERT, .MIR_STAT_TAKE_DRIVE, .MIR_STAT_TAKE_SEEN, .MIR_STAT_RANK_CLASH, .MIR_STAT_PAIR, .MIR_STAT_LINK, .MIR_STAT_WIDTH]
  | .MIR_LASTHB => [.MIR_LASTHB_TIME]
  | .MIR_EPOCH => [.MIR_EPOCH_EPOCH]
  | .MIR_CRCERR => [.MIR_CRCERR_COUNT]
  | .MIR_REPLAY => [.MIR_REPLAY_COUNT]
  | .MIR_HBMISS => [.MIR_HBMISS_COUNT]
  | .MIR_TAKES => [.MIR_TAKES_COUNT]
  | .MIR_FN => [.MIR_FN_MIRRORED, .MIR_FN_ROLE, .MIR_FN_READY, .MIR_FN_MISMATCH]
  | .FLT_CTRL => [.FLT_CTRL_CLEAR]
  | .FLT_TOCNT => [.FLT_TOCNT_COUNT]
  | .FLT_DIE => [.FLT_DIE_ONLINE, .FLT_DIE_CAUSE, .FLT_DIE_RESTORES]
  | .FLT_SUPCNT => [.FLT_SUPCNT_COUNT]
  | .FLT_LASTSUP => [.FLT_LASTSUP_WIN_KIND, .FLT_LASTSUP_WIN_FUNC, .FLT_LASTSUP_LOSE_KIND, .FLT_LASTSUP_LOSE_FUNC]
  | .FLT_RESTARTS => [.FLT_RESTARTS_COUNT]
  | .FLT_EXHAUSTED => [.FLT_EXHAUSTED_COUNT]
  | .CLK_CTRL => [.CLK_CTRL_HANDBACK, .CLK_CTRL_MGMT_SRC, .CLK_CTRL_ROOT]
  | .CLK_STAT => [.CLK_STAT_REFUSED, .CLK_STAT_EXPERT, .CLK_STAT_XTAL_READY, .CLK_STAT_RC_READY, .CLK_STAT_REFCLK_READY, .CLK_STAT_MGMT_ON_RC, .CLK_STAT_SAFE, .CLK_STAT_NOCLOCK, .CLK_STAT_LOSSES]
  | .CLK_GATE_STATUS => [.CLK_GATE_STATUS_REFUSED, .CLK_GATE_STATUS_PEND]
  | .CLK_PLL => [.CLK_PLL_REF, .CLK_PLL_SSC_DEPTH, .CLK_PLL_SSC_RATE, .CLK_PLL_POSTDIV, .CLK_PLL_REFDIV, .CLK_PLL_FBDIV]
  | .CLK_LOCK => [.CLK_LOCK_LOCK]
  | .CLK_GATE => [.CLK_GATE_DIE, .CLK_GATE_BLK]
  | .CLK_SG => [.CLK_SG_GROUP]
  | .CLK_BG => [.CLK_BG_GROUP]
  | .CLK_DTIME => [.CLK_DTIME_TIME]
  | .CLK_DTSET => [.CLK_DTSET_TIME]
  | .CLK_DTCTRL => [.CLK_DTCTRL_SET, .CLK_DTCTRL_SET_PPS, .CLK_DTCTRL_PPS_EN, .CLK_DTCTRL_HOLDOVER, .CLK_DTCTRL_PPS_LOST, .CLK_DTCTRL_REJECTS, .CLK_DTCTRL_WINDOW]
  | .PWR_CTRL => [.PWR_CTRL_HANDBACK]
  | .PWR_STAT => [.PWR_STAT_REFUSED, .PWR_STAT_EXPERT, .PWR_STAT_SHED_IN, .PWR_STAT_SHED_MET, .PWR_STAT_LIMITING, .PWR_STAT_THERM, .PWR_STAT_TSHUT]
  | .PWR_PKG_BUDGET => [.PWR_PKG_BUDGET_WATTS]
  | .PWR_SHED_BUDGET => [.PWR_SHED_BUDGET_WATTS]
  | .PWR_SHED_CFG => [.PWR_SHED_CFG_FAB_PCT, .PWR_SHED_CFG_GUARD, .PWR_SHED_CFG_ADVISE]
  | .PWR_THERM => [.PWR_THERM_MARGIN]
  | .PWR_DIE => [.PWR_DIE_BUDGET, .PWR_DIE_FAB_CAP, .PWR_DIE_DGA_CAP, .PWR_DIE_MEAS]
  | .START_REPORT => [.START_REPORT_STATE, .START_REPORT_FW_SLOT, .START_REPORT_STEP, .START_REPORT_REASON, .START_REPORT_FAILS, .START_REPORT_LAST]
  | .START_TIME => [.START_TIME_MS]
  | .PKT_STAT => [.PKT_STAT_REFUSED, .PKT_STAT_MODE, .PKT_STAT_SHADOW, .PKT_STAT_DENIED]
  | .PKT_ADDR => [.PKT_ADDR_AUTOINC, .PKT_ADDR_DIE, .PKT_ADDR_PAGE, .PKT_ADDR_WORD]
  | .PKT_DATA => [.PKT_DATA_DATA]
  | .PKT_PAGE => [.PKT_PAGE_USER, .PKT_PAGE_LOCKED, .PKT_PAGE_RD_OPEN, .PKT_PAGE_WR_OPEN, .PKT_PAGE_LOCKOUT, .PKT_PAGE_AREA]
  | .PKT_UNLOCK => [.PKT_UNLOCK_PASSWORD]
  | .PKT_UNLOCKSEL => [.PKT_UNLOCKSEL_RELOCK, .PKT_UNLOCKSEL_KIND, .PKT_UNLOCKSEL_AREA]
  | .PKT_LIFE_POH => [.PKT_LIFE_POH_HOURS]
  | .PKT_LIFE_CYCLES => [.PKT_LIFE_CYCLES_COUNT]
  | .PKT_LIFE_ENERGY => [.PKT_LIFE_ENERGY_JOULES]
  | .PKT_LIFE_STITCHES => [.PKT_LIFE_STITCHES_COUNT]
  | .PKT_WEARSEL => [.PKT_WEARSEL_DIE, .PKT_WEARSEL_TILE]
  | .PKT_WEAR => [.PKT_WEAR_COUNT]
  | .CHN_CFG => [.CHN_CFG_PEC, .CHN_CFG_VALID, .CHN_CFG_ADDR]
  | .CHN_STAT => [.CHN_STAT_CHAIN_IN, .CHN_STAT_CHAIN_OUT, .CHN_STAT_BYPASS, .CHN_STAT_TIMEOUTS, .CHN_STAT_PEC_ERR]
  | .MSIX_ADDR => [.MSIX_ADDR_ADDR]
  | .MSIX_DATA => [.MSIX_DATA_DATA]
  | .MSIX_CTRL => [.MSIX_CTRL_MASK]
  | .MSIX_PBA => [.MSIX_PBA_PEND]

/-- The registers of each place, for the address decoder. -/
def Place.regs : Place → List Reg
  | .pkg => [.GLB_ID, .GLB_CAPACITY, .YOK_CTRL, .YOK_STATUS, .YOK_PERIOD, .YOK_THROTTLE, .YOK_SETTLE, .YOK_SEAM, .YOK_IBUDGET, .YOK_ACCT, .YOK_STITCHNO, .YOK_LASTSTROBE, .YOK_SPLITS, .YOK_EXTENDS, .YOK_THROTTLED, .YOK_DEFERRED, .YOK_OVERBUDGET, .YOK_MISS, .YOK_SKEW, .MIR_CFG, .MIR_CTRL, .MIR_STAT, .MIR_LASTHB, .MIR_EPOCH, .MIR_CRCERR, .MIR_REPLAY, .MIR_HBMISS, .MIR_TAKES, .MIR_FN, .FLT_CTRL, .FLT_TOCNT, .FLT_DIE, .FLT_SUPCNT, .FLT_LASTSUP, .FLT_RESTARTS, .FLT_EXHAUSTED, .CLK_CTRL, .CLK_STAT, .CLK_GATE_STATUS, .CLK_PLL] ++
      [.CLK_LOCK, .CLK_GATE, .CLK_SG, .CLK_BG, .CLK_DTIME, .CLK_DTSET, .CLK_DTCTRL, .PWR_CTRL, .PWR_STAT, .PWR_PKG_BUDGET, .PWR_SHED_BUDGET, .PWR_SHED_CFG, .PWR_THERM, .PWR_DIE, .START_REPORT, .START_TIME, .PKT_STAT, .PKT_ADDR, .PKT_DATA, .PKT_PAGE, .PKT_UNLOCK, .PKT_UNLOCKSEL, .PKT_LIFE_POH, .PKT_LIFE_CYCLES, .PKT_LIFE_ENERGY, .PKT_LIFE_STITCHES, .PKT_WEARSEL, .PKT_WEAR, .CHN_CFG, .CHN_STAT]
  | .die => [.WFM_ADDR, .WFM_DATA, .WFM_STAT, .WFM_PLAY_CTRL, .WFM_PLAY_TARGET, .WFM_PLAY_TSTART, .WFM_PLAY_TSTOP, .WFM_PLAY_STAT, .WFM_PLAY_CNT, .WFM_PLAY_LATE, .SEQ_CFG, .SEQ_CTRL, .SEQ_STAT, .SEQ_TASK, .SEQ_JOB, .SEQ_PC, .SEQ_TRAP, .DGA_CTRL, .DGA_STATUS, .DGA_DUTY, .DGA_CYCLES, .DGA_MACS, .DGA_SAT, .DGA_NAN, .DGA_OPWAIT, .DGA_GUS_STALL, .DGA_GUS_BYTES, .DGA_GUS_LATE, .DGA_ADDFULL, .PRG_CTRL, .PRG_STATUS, .PRG_CFG, .PRG_STORE, .PRG_TILES, .PRG_ITERS, .PRG_COLFAIL, .PRG_LATECNT, .PRG_MAXLATE, .PRG_ENG, .CAL_CTRL] ++
      [.CAL_STATUS, .CAL_CFG, .CAL_DRIFT, .CAL_TRACE, .CAL_RAMP, .CAL_LIMIT, .CAL_REFRESH, .CAL_TEMP, .CAL_TAB_ADDR, .CAL_TAB_DATA, .CAL_TAB_STAT, .CAL_HANDBACK, .CAL_REJECTS, .CAL_FULLS, .CAL_LASTTRACE, .MCV_CTRL, .MCV_STAT, .MCV_SEQCFG, .MCV_PLAUS, .MCV_SCAL, .MCV_TFAB, .MCV_PREEMPT, .MCV_TRIG, .MCV_TTRIG, .MCV_SIMRES, .MCV_SIMTIME, .MCV_SEQA, .MCV_SEQB, .MCV_RES, .TLM_CTRL, .TLM_PERIOD, .TLM_CHAN, .TLM_RING, .TLM_WB, .TLM_RDIDX, .TLM_WRIDX, .TLM_STAT, .TLM_CNT, .TLM_DROP, .TLM_TSTART] ++
      [.TLM_TSTOP, .TLM_LATE, .BNK_OWNER, .BNK_CTRL, .BNK_STAT, .BNK_COLLIDE, .BNK_DENIED, .BNK_HANDOVERS, .BNK_ECC_CORR, .BNK_ECC_UNCORR, .BNK_SCRUB, .BNK_ECC_ADDR, .BNK_DIAG, .BNK_DIAGDATA, .BNK_DIAGCHK, .MEM_CTRL, .MEM_CFG, .MEM_STAT, .MEM_CAP, .MEM_ARB, .MEM_SCRUB, .MEM_CORR, .MEM_UNCORR, .MEM_RETRAIN, .MEM_LECC, .MEM_UNCORR_ADDR, .MEM_CH]
  | .tile => [.TIL_CTRL, .TIL_STATUS, .TIL_MAP, .TIL_PLACE, .TIL_EXTENT, .TIL_SPARES, .TIL_STITCHES, .TIL_RSTITCHES, .TIL_LASTGOOD, .TIL_PROGTIME, .TIL_CHECK, .TIL_SPARECOL, .DRV_CFG, .DRV_SLEW, .DRV_STAT, .DRV_OUTRUN, .DRV_CLAMP, .DRV_UCSTAT, .HEM_CFG, .HEM_SAT, .HEM_TAPS, .HEM_CONVSUB, .HEM_CSAT, .HEM_OSAT, .HEM_RERUN, .HEM_REFCHK, .HEM_MSEREF_SUM, .HEM_MSEREF_CNT, .HEM_MSEQ_CNT, .HEM_MSEQ_SUM, .HEM_CTRL, .HEM_RSAT]
  | .fn => [.FN_STAT, .JOB_CFG, .EVR_BASE, .EVR_CTRL, .EVR_HEAD, .EVR_TAIL, .EVR_OVF, .EVR_MOD, .BAR2_AP, .MSIX_ADDR, .MSIX_DATA, .MSIX_CTRL, .MSIX_PBA]
  | .qp => [.QP_SQBASE, .QP_CQBASE, .QP_CFG, .QP_SQTAIL, .QP_CQHEAD, .QP_STAT]
  | .fnq => [.FNQ_Q0, .FNQ_Q1, .FNQ_Q2, .FNQ_SHARE, .FNQ_HELD, .FNQ_OVER, .FNQ_GRANT]

end Sys2Proof.Machine
end

