-- ==== Sys2Proof/Machine/State.lean ====
section
/-!
DEFINITION. Machine/State.lean: the state of the block as plain data, its reasons to stop, and the state after reset.
Registers are held field by field (`State.fld`); state that the spec gives the block and no register shows is held in
`State.aux` (scalars) and in the records below.
-/

namespace Sys2Proof.Machine

/-- Why a command stops with a fault. -/
inductive Fault where
  /-- Raised by `execPllRelockDone` when a domain would resume with a core clock below twice, or a PCI clock below, what
  R455 requires: "every result is undefined". Safe: nothing is provable past it. -/
  | clockRatios
  deriving DecidableEq, Repr

/-- Why a command is refused by the model. -/
inductive Refusal where
  /-- Raised by `exec` for a command that has no meaning yet. Safe. -/
  | notModelled (mnemonic : String)
  deriving DecidableEq, Repr

/-- What the block sends out, in the order of sending: read data, interrupts, flits, chain bytes and pin changes. -/
inductive Out where
  /-- Data returned for a register, BAR2 or table-window read by a function. -/
  | readData (by' : Master) (addr size data : Nat)
  /-- A BAR2 read completion with the poisoned bit set (R390). -/
  | poisoned (fn addr : Nat)
  /-- An MSI-X message of function `fn`, vector `vec` (R416). -/
  | msix (fn vec : Nat)
  /-- A mirror-link flit: its 256 bytes (R435). -/
  | flit (bytes : Nat)
  /-- Data bytes returned on the management chain. -/
  | chain (data : List Byte)
  /-- A NACK on the management chain. -/
  | nack
  /-- A job event in the fenced member's own ring is an event record, not an output; AER errors are reported here by
  name: 1 Unsupported Request, 2 Completer Abort, 3 Poisoned TLP Received, 4 Poisoned TLP Egress (R387, R390). -/
  | aer (kind : Nat)
  deriving DecidableEq, Repr

/-- One level of the loop stack (R193). -/
structure LoopLvl where
  count : Nat
  start : Nat
  stop : Nat
  deriving DecidableEq, Repr

/-- One tensor descriptor register (R193, R197): 64 bytes as a little-endian number, and VALID. -/
structure TDesc where
  val : Nat
  valid : Bool
  deriving DecidableEq, Repr

/-- What a task waits for (SEQ_TASKn.STATE). -/
inductive TWait where
  | run
  /-- A ticket, and the register that takes its result word. -/
  | ticket (no d : Nat)
  /-- A memory condition: 0 EQ, 1 NE, 2 GEU; address, size in bytes, value (R236). -/
  | mem (cond addr size value : Nat)
  | bar
  /-- The feed queue of a STITCH or RSTITCH is full: ticket, queue, and the next step to post (R249). -/
  | feed (ticket queue next : Nat)
  /-- FENCE, or an instruction that releases: waits until every earlier operation has completed (R214, R217). -/
  | fence
  | halted
  deriving DecidableEq, Repr

/-- A task and its architectural state (R193). -/
structure Task where
  num : Nat
  die : Nat
  seq : Nat
  pc : Nat
  g : SMap Nat
  p : SMap Bool
  td : SMap TDesc
  ret : List Nat
  loops : List LoopLvl
  /-- Last ticket issued (R212). -/
  last : Nat
  /-- Tickets of outstanding operations. -/
  opened : List Nat
  /-- Tickets issued by STITCH or RSTITCH (R213). -/
  fabric : List Nat
  /-- Result words of completed tickets (R234); absent: 0. -/
  res : SMap Nat
  wait : TWait
  /-- Device time of the last progress (R225). -/
  progress : Nat
  deriving DecidableEq, Repr

/-- Where a job stands. -/
inductive JStat where
  /-- Waits for AT (R403). -/
  | parked
  /-- Waits for the dispatcher (R187); also after a restart (R420). -/
  | waiting
  | running
  /-- Every task has halted, or one ran CPOST: waits for its operations (R220). -/
  | committing
  /-- Sent its commit record and waits for the standby's acknowledgement (R442). -/
  | ackWait
  deriving DecidableEq, Repr

/-- A step of a stitch request that is done and that its tracker has not recorded yet (R147): tracker address, number of the request,
maximum and scale; and the ticket that the request closes, with its flags, once it is recorded (R215). -/
structure TrkStep where
  trk : Nat
  no : Nat
  mx : Rat
  scale : Nat
  task : Nat
  ticket : Nat
  flags : Nat
  deriving DecidableEq, Repr

/-- A job (R186, R398). Status and flags are those of R16 and R18. -/
structure Job where
  id : Nat
  /-- Its descriptor, for the job journal (R440). -/
  desc : Nat
  q : Nat
  fn : Nat
  cid : Nat
  event : Bool
  vec : Nat
  handle : Nat
  cls : Nat
  runLate : Bool
  /-- 0: no deadline (R405). -/
  deadline : Nat
  args : Nat
  slots : Nat
  at' : Nat
  st : JStat
  /-- Order of submission (R187). -/
  order : Nat
  runTag : Nat
  restarts : Nat
  flags : Nat
  lateness : Nat
  cause : Nat
  /-- One of its faults was not a scale fault (R151). -/
  otherFault : Bool
  cpost : Nat
  /-- Device time of the first start (R421). -/
  started : Option Nat
  /-- Device time at which it last went back to wait; that wait does not count for the watchdog (R421). -/
  paused : Nat
  /-- JOB_CFG at its first start: restart limit and watchdog in ms. -/
  maxRestarts : Nat
  /-- Use grants of the function at its submission, without those cleared before its start (R410). -/
  grants : Nat
  /-- Slots on whose active map its present attempt has fired (R178), as a bit mask. -/
  onMap : Nat
  watchdog : Nat
  /-- Sequence number of its commit record, 2^16 where the link lost it, and device time of sending (R442). -/
  ackSeq : Nat
  ackAt : Nat
  /-- Number of the completion that its commit record has reserved (R442). -/
  slotNo : Option Nat
  /-- Staged writes, by memory key (R219). -/
  staged : SMap (Option Byte)
  /-- 4 KiB pages that hold staging (R219): destination page key, and die and page that were taken for it. -/
  pages : List (Nat × Nat × Nat)
  /-- Job scratch: (die, first bank, count) (R209). -/
  scratch : List (Nat × Nat × Nat)
  tasks : List Task
  /-- Private copies of the trackers that the attempt has used, by key (R148). -/
  trk : SMap (Option Nat)
  /-- Steps of stitch requests that are done and that their tracker has not recorded yet (R147). -/
  steps : List TrkStep
  /-- The CPOST under which the job commits (R261): its task, its time, and the tasks that it stopped and that may still run the
  instruction of that cycle. -/
  cpostAt : Option (Nat × Nat × List Nat)
  deriving DecidableEq, Repr

/-- A loaded program (R206, R208). -/
structure Prog where
  handle : Nat
  fn : Nat
  sys : Bool
  tasks : Nat
  code : List Nat
  data : List Byte
  entry : Nat
  scratchBanks : Nat
  descInit : Nat
  place : Nat
  dieMask : Nat
  pages : Nat
  /-- Its copies: die and first page (R208). -/
  copies : List (Nat × Nat)
  unloading : Bool
  deriving DecidableEq, Repr

/-- Where a fetched command other than a job stands. -/
inductive CStat where
  | parked
  | ready
  /-- Started; ends at a later command (a drain, an image copy, a programming run). -/
  | running
  deriving DecidableEq, Repr

/-- A fetched host command that has not completed (R396). `desc` is the 64-byte descriptor. -/
structure Cmd where
  id : Nat
  q : Nat
  fn : Nat
  cid : Nat
  event : Bool
  vec : Nat
  opcode : Nat
  at' : Nat
  desc : Nat
  st : CStat
  lateness : Nat
  flags : Nat
  deriving DecidableEq, Repr

/-- What is bound to a package queue pair (R391) and its counts (R393, R401). -/
structure QpSt where
  fn : Nat
  entry : Nat
  fetched : Nat
  completed : Nat
  outstanding : Nat
  /-- The EVICT that drains it (R411). -/
  evict : Option Nat
  deriving DecidableEq, Repr

/-- An allocation of a function (R399): kind 1 FEEDQ, 2 BANK, 3 LPDDR. -/
structure Alloc where
  fn : Nat
  kind : Nat
  die : Nat
  first : Nat
  count : Nat
  deriving DecidableEq, Repr

/-- One coalesced event type (R415). -/
structure Coal where
  type : Nat
  die : Nat
  count : Nat
  time : Nat
  deriving DecidableEq, Repr

/-- The hidden state of one event ring (R413 to R416): coalescing table, drops since the last RING_OVERFLOW with the
sequence number before them, unannounced records per vector as (vector, count, device time of the first). -/
structure Ring where
  coal : List Coal
  dropped : Nat
  before : Nat
  unannounced : List (Nat × Nat × Nat)
  deriving DecidableEq, Repr

/-- A flit that has not been acknowledged (R436): sequence number, type, whether it is the last of its message, payload length,
payload, device time of the last sending, replays so far, and whether it has been sent. -/
structure Flit where
  seq : Nat
  type : Nat
  last : Bool
  len : Nat
  payload : Nat
  time : Nat
  replays : Nat
  sent : Bool
  deriving DecidableEq, Repr

/-- A journalled descriptor held by the standby (R440). -/
structure JEntry where
  fn : Nat
  job : Nat
  desc : Nat
  deriving DecidableEq, Repr

/-- A commit record held by the standby (R442, R447): completion count, package queue pair and the 16 bytes. -/
structure CommitRec where
  fn : Nat
  job : Nat
  q : Nat
  count : Nat
  bytes : Nat
  deriving DecidableEq, Repr

/-- Declared pages of a function on a die (R443). -/
structure Region where
  fn : Nat
  die : Nat
  first : Nat
  count : Nat
  deriving DecidableEq, Repr

/-- What the record space holds of a tile (R320 to R324): the fields of its header, its column map (trim bytes in column order; 0
where nothing is listed), its precision entry (WSTART, WSTOP and threshold taps), and its rows in the unit-cell exception table
with the index of their choice. `lost`: a word of it is uncorrectable (R76, R326). -/
structure TileRec where
  precision : Bool
  ucOver : Bool
  ucNext : Nat
  gf : Nat
  d : Nat
  time : Nat
  sigma0 : Nat
  a : Nat
  map : SMap Nat
  prec : Option (Nat × Nat × List Nat)
  rows : List (Nat × Nat)
  lost : Bool
  deriving DecidableEq, Repr

/-- One placement of a tile map (R50, R51): the tile that holds block (rowBlk, colBlk) of a layer of a slot's map. -/
structure Placed where
  slot : Nat
  map : Nat
  layer : Nat
  rowBlk : Nat
  colBlk : Nat
  die : Nat
  tile : Nat
  rowsM1 : Nat
  colsM1 : Nat
  deriving DecidableEq, Repr

/-- Where a stitch request stands. -/
inductive RStat where
  /-- In its feed queue. -/
  | queued
  /-- Fired; its conversions or its rerun decision are outstanding. -/
  | fired
  /-- Marked for the wide rerun: its first pass is due, or has fired (R127). -/
  | passDue
  | passFired
  /-- To be repeated because a tile's outputs were discarded (R92). -/
  | repeatDue
  /-- Its partial sums stand in the addition queue (R270). -/
  | adding
  deriving DecidableEq, Repr

/-- A stitch request (R248 to R250) or one of its passes. -/
structure Req where
  /-- Arrival number. -/
  no : Nat
  job : Nat
  task : Nat
  ticket : Nat
  fn : Nat
  rev : Bool
  slot : Nat
  layer : Nat
  /-- Step of the instruction this request serves (D3 index). -/
  step : Nat
  queue : Nat
  cls : Nat
  /-- Rank deadline: 2^64 - 1 for none (R405). -/
  deadline : Nat
  /-- Descriptor copies (R199). -/
  inp : Nat
  out : Nat
  /-- σ_in and σ_out as FP32 patterns (R249). -/
  sin : Nat
  sout : Nat
  st : RStat
  /-- Map it fired on. -/
  map : Nat
  /-- Stitch number at which it fired. -/
  firedAt : Nat
  /-- Stitches still to fire: of the 8 of a reverse stitch, or of the 2 passes of a wide rerun. A stitch that R92 discards still
  has to fire. -/
  left : Nat
  /-- What the Hems have formed: stitch (0 original, 1 pass U, 2 pass L; sub-phase of a reverse stitch), row block, column
  block, values as FP32 patterns. -/
  parts : List (Nat × Nat × Nat × List Nat)
  /-- Converter saturations counted towards the rerun decision (R126). -/
  sat : Nat
  /-- Stitch flags gathered for the ticket (R234). -/
  flags : Nat
  /-- Device time since which it counts as starving (R424). -/
  since : Nat
  /-- Void for its job: only its tiles are still taken (R224). -/
  dead : Bool
  deriving DecidableEq, Repr

/-- What a tile fires in a stitch. -/
inductive FWhat where
  | forward
  | passU
  | passL
  | reverse
  | check
  | cal
  deriving DecidableEq, Repr

/-- Conversions of a tile that have not ended (R109): what fired, its request, the sub-phase of a reverse stitch, the codes
driven, and whether the outputs are discarded (R92). -/
structure Flight where
  what : FWhat
  req : Nat
  sub : Nat
  codes : List Int
  drop : Bool
  /-- Placement of the tile when it fired. -/
  place : Option Placed
  /-- Tables and RANGE in force when it fired, once a seam has passed since (R177): (table, entries). -/
  kept : Option (List (Nat × SMap (Option Nat)) × Nat)
  deriving DecidableEq, Repr

/-- The unit that runs an asynchronous operation. -/
inductive OpUnit where
  | dma
  | array
  /-- The addition queue of R270 and R272. -/
  | add
  /-- A maintenance instruction (R262). -/
  | maint
  deriving DecidableEq, Repr

/-- An asynchronous operation of a task other than a stitch (R212), with copies of its instruction and operands (R199). -/
structure Op where
  job : Nat
  task : Nat
  ticket : Nat
  unit : OpUnit
  die : Nat
  cls : Nat
  deadline : Nat
  /-- Order of issue. -/
  issue : Nat
  /-- Array cycles left, or DMA descriptors left. -/
  left : Nat
  running : Bool
  /-- Instruction word and extension word. -/
  word : Nat
  ext : Nat
  ta : Nat
  tb : Nat
  td : Nat
  ga : Nat
  gb : Nat
  /-- It, or a wait on its ticket, has included a Gusset stall (R278). -/
  late : Bool
  deriving DecidableEq, Repr

/-- A descriptor that a DMA engine moves (R375): die, engine, order of issue of its operation, its number in address order, the
descriptor of the scale stream that the engine carries with it, as (first step, steps) (R149), and device time of its start. -/
structure DmaRun where
  die : Nat
  eng : Nat
  issue : Nat
  part : Nat
  scale : Option (Nat × Nat)
  since : Nat
  deriving DecidableEq, Repr


/-- A Gusset region of a map (R276): the LPDDR5X pages that hold the panels of an overflow layer's share on one die. -/
structure Panel where
  slot : Nat
  map : Nat
  layer : Nat
  die : Nat
  first : Nat
  count : Nat
  deriving DecidableEq, Repr

/-- A layer record of a model descriptor (R284). -/
structure Layer where
  kind : Nat
  drive : Nat
  inW : Nat
  outW : Nat
  rot : Nat
  gfmt : Nat
  gdies : Nat
  limit : Nat
  payOff : Nat
  signOff : Nat
  rescOff : Nat
  deriving DecidableEq, Repr

/-- An image in the image store (R292, R293): its handle, home die, identity, the digest of its signed message (R296), its
descriptor and its bytes; `used` orders the last uses (R294). -/
structure Image where
  handle : Nat
  home : Nat
  modelId : Nat
  version : Nat
  digest : Nat
  tiles : Nat
  gusset : Nat
  layers : List Layer
  body : List Byte
  used : Nat
  deriving DecidableEq, Repr

/-- An image load under way (R292): its command, home die and size. -/
structure Load where
  id : Nat
  home : Nat
  bytes : Nat
  deriving DecidableEq, Repr

/-- What a map of a slot keeps (R299): the handle of its image while that is in the store, the digest and identity (R296),
the descriptor, and copies of the channel scales and sign vectors by layer. -/
structure MapSt where
  slot : Nat
  map : Nat
  handle : Option Nat
  modelId : Nat
  version : Nat
  digest : Nat
  tiles : Nat
  layers : List Layer
  scales : List (List Nat)
  signs : List (List Byte)
  /-- MAP_READY has been raised since a tile of the map was last programmed (R310). -/
  ready : Bool
  deriving DecidableEq, Repr

/-- What a programming engine does with a tile. -/
inductive PWhat where
  | clear
  | prog
  | inc
  | column
  | verify
  deriving DecidableEq, Repr

/-- A programming request (R307). -/
structure PReq where
  /-- Order of arrival. -/
  no : Nat
  die : Nat
  tile : Nat
  /-- 0 host command; 1 maintenance instruction; 2 repair; 3 refresh; 4 spare test (PRG_ENGn.KIND). -/
  kind : Nat
  what : PWhat
  /-- The tile is cleared first, by the same engine. -/
  clearFirst : Bool
  /-- Rank deadline (R405). -/
  deadline : Nat
  /-- Has entered the queue (R308). -/
  queued : Bool
  engine : Option Nat
  /-- Placement taken at the finish of PROG. -/
  place : Placed
  /-- W8X codes of the payload of R285. -/
  payload : List Byte
  /-- Columns under repair, by the part that they play, each with its cause of R80. -/
  cols : List (Nat × Nat)
  /-- Every column is written: the tile has been cleared since the repair began (R306). -/
  whole : Bool
  /-- PRG_CFG when the request started: VTOL * 2^16 + INC_LIMIT * 2^8 + ITER_LIMIT. -/
  cfg : Nat
  /-- Tile that this one replaces, or 0x7FF. -/
  old : Nat
  /-- Host command that it serves. -/
  cmd : Option Nat
  /-- Maintenance instruction that it serves, by order of issue. -/
  op : Option Nat
  /-- Waits for an image (R75). -/
  wait : Bool
  /-- Cause of R80. -/
  cause : Nat
  /-- Device time of detection, or of scheduling. -/
  since : Nat
  deriving DecidableEq, Repr

/-- A queued full calibration (R337). -/
structure CalReq where
  die : Nat
  tile : Nat
  prio : Nat
  no : Nat
  deriving DecidableEq, Repr

/-- A calibration under way: calibration stitches left, the maintenance instruction that it serves, device time of its start, and, of a
quick calibration, the codes of the stitches converted so far with the row code that drove them (R334). -/
structure CalRun where
  die : Nat
  tile : Nat
  full : Bool
  left : Nat
  op : Option Nat
  since : Nat
  codes : List (Int × List (Option Nat))
  deriving DecidableEq, Repr

/-- A posted column check (R67, R169): the input code, whether it has fired, and device time after which it is urgent. -/
structure Check where
  die : Nat
  tile : Nat
  x : Int
  fired : Bool
  urgentAt : Nat
  deriving DecidableEq, Repr

/-- A ticket of STITCH or RSTITCH (R249): requests not yet complete, and the flags so far. -/
structure Tix where
  job : Nat
  task : Nat
  ticket : Nat
  left : Nat
  flags : Nat
  deriving DecidableEq, Repr

/-- Where SLOT_REPLACE stands with its present layer (R314). -/
inductive RPhase where
  | hold
  | program
  | rejoin
  deriving DecidableEq, Repr

/-- A SLOT_REPLACE under way (R314): its command, slot, map, image handle, layer, tiles of the layer not yet calibrated, and
device time at which the layer was held. -/
structure Repl where
  id : Nat
  slot : Nat
  map : Nat
  handle : Nat
  /-- Digest of the image: another image that takes its handle is not the one to program from. -/
  digest : Nat
  layer : Nat
  phase : RPhase
  left : Nat
  heldAt : Nat
  deriving DecidableEq, Repr

/-- Where a refresh stands (R343). -/
inductive FPhase where
  /-- Waits for an image (R75). -/
  | wait
  /-- Its programming request is queued or runs. -/
  | program
  /-- Its full calibration is queued or runs. -/
  | calibrate
  /-- Waits for the seam at which the tile rejoins, or the new tile takes its place. -/
  | seam
  | done
  deriving DecidableEq, Repr

/-- A refresh (R342, R343): the tile, the spare tile that takes its place (0x7FF: in place), the reason of R347, the deadline,
device times of its scheduling and of the hold (0: none), and the maintenance instruction that it serves. -/
structure Refresh where
  die : Nat
  tile : Nat
  new : Nat
  reason : Nat
  deadline : Nat
  since : Nat
  heldAt : Nat
  phase : FPhase
  op : Option Nat
  deriving DecidableEq, Repr

/-- What has left the levels of a tile's cells open: 0 unknown contents (R55), 1 a PULSE that raises the cells of its rows, 2 one that
lowers them (R97); the free values it draws start at `free`. -/
structure Pulse where
  kind : Nat
  first : Nat
  rows : Nat
  free : Nat
  deriving DecidableEq, Repr

/-- The hidden state of a tile: cells (R38, R39), row codes (R87 to R89), checks (R115, R123), drift accumulators (R332),
and what the calibration engine knows of it (R341, R342). -/
structure TileSt where
  /-- Level pairs 8 * L+ + L-, by row * 1152 + physical column. -/
  pairs : SMap Nat
  /-- The contents are those of `pairs`; a FREE tile that nothing has cleared or programmed holds undefined ones (R55). -/
  known : Bool
  /-- Pulses since the last clearing or programming, oldest first. -/
  pulses : List Pulse
  /-- Target of the positive cells of a reference column, in G_u / 4, by physical column (R42). -/
  refs : SMap Nat
  /-- Stuck cells: 1 + level, by 2 * (row * 1152 + physical column) + deck. -/
  stuck : SMap Nat
  /-- Sum of 4 * (L+ + L-) over the rows in use and every column in service (R171 text on G_t, R304). -/
  gTotal : Nat
  /-- Sum of L+ + L- over the data columns in use and the rows in use (G_c). -/
  gcTotal : Nat
  /-- Column sums of R304, by physical column. -/
  sums : SMap Int
  /-- Request whose codes stand in the shadow registers: 4 * number, plus 1 for its pass U and 2 for its pass L. -/
  shadow : Option Nat
  shadowCodes : List Int
  /-- Codes of the active registers; rows beyond the list are at zero. -/
  active : List Int
  /-- Conversions that have not ended, oldest first: at most one for each sample buffer (R109). -/
  flights : List Flight
  /-- The codes of the previous firing stitch, for the sum of R115. -/
  lastSum : Option Int
  /-- Stitches counted so far and last counted codes, for R115: by converter, and by physical column. -/
  same : SMap Nat
  lastCodes : SMap Nat
  /-- Consecutive stitches beyond TOL, by block (R123). -/
  refRun : SMap Nat
  /-- Drift accumulators (R332). -/
  sde : Rat
  see : Rat
  n : Nat
  /-- Jobs that fired on the tile: identifier, restarts before that attempt, device time of its last firing there (R69). -/
  fired : List (Nat × Nat × Nat)
  /-- Converters that wait for a seam: (converter, spare, cause, the one that failed in its place) (R116). -/
  conv : List (Nat × Nat × Nat × Nat)
  /-- No request fires on the tile until a seam (R69). -/
  blocked : Bool
  /-- Passed a full calibration since it was last programmed (R310). -/
  calibrated : Bool
  /-- STALE_CAL causes (R341), and those that stood at the last seam. -/
  causes : Nat
  causesAt : Nat
  /-- CAL_TAB_STAT.RESULT plus 1; 0: none. -/
  result : Nat
  /-- Device time of the last accepted drift update or calibration, and of the last accepted full calibration. -/
  driftAt : Nat
  fullAt : Nat
  /-- Spread accumulator A (R342), and column checks since programming. -/
  acc : Rat
  checks : Nat
  /-- Sum of the squared errors of those checks (R342). -/
  checkSq : Rat
  /-- Calibration is out of firmware management (R348). -/
  expert : Bool
  deriving DecidableEq, Repr

/-- The hidden state of a die's monitor converters (R352 to R360). -/
structure Mon where
  /-- An entry converts; it is the second attempt of a plausibility entry; it was aborted and is to run again. -/
  run : Bool
  second : Bool
  redo : Bool
  /-- Aborts of the present entry in a row (R356). -/
  aborts : Nat
  /-- Tile that ARG 0x7FF takes in this pass of the sequence. -/
  turn : Nat
  /-- The entry that converts next, or again (R352). -/
  entry : Nat
  /-- Grid time of the next entry, in ns. -/
  grid : Nat
  /-- A self-calibration is due; MCB's is to follow; device time and MCV_TFAB of the last one (R359). -/
  calDue : Bool
  calB : Bool
  calAt : Nat
  calTemp : Int
  /-- Simultaneous conversion (R360): 0 none, 1 running, 2 running after a wait; its start; a trigger that waits; the timed
  trigger is armed. -/
  sim : Nat
  simAt : Nat
  simWait : Bool
  timed : Bool
  /-- T lies outside the range of R330. -/
  clamped : Bool
  /-- A mismatch has fallen into the trace in progress (R357). -/
  traceBad : Bool
  deriving DecidableEq, Repr

/-- An urgent request (R354): order of arrival, kind, requesting unit, and the converter that serves it: 0 MCA, 1 MCB, 2
both. -/
structure Urg where
  no : Nat
  die : Nat
  kind : Nat
  who : Nat
  conv : Option Nat
  deriving DecidableEq, Repr

/-- A telemetry window (R361 to R363): armed or running; its start and the stop it waits for, in ns; the next sample; records
written; lateness; the overflow has been reported; its status is WINDOW_ORDER. -/
structure Tlm where
  stream : Nat
  open' : Bool
  start : Nat
  stop : Option Nat
  next : Nat
  written : Nat
  lateness : Nat
  said : Bool
  order : Bool
  flags : Nat
  deriving DecidableEq, Repr

/-- A host playback (R101 to R105): its player, the settings latched at START, the repetitions that remain after this one, the
present point, device time of the start and of the stop that it waits for. -/
structure Play where
  die : Nat
  player : Nat
  wave : Nat
  repeats : Nat
  interval : Nat
  tile : Nat
  first : Nat
  rows : Nat
  /-- It drives; otherwise it is armed. -/
  playing : Bool
  point : Nat
  start : Nat
  stop : Option Nat
  late : Nat
  flags : Nat
  order : Bool
  deriving DecidableEq, Repr

/-- State that the spec gives the block and no register field shows, held as numbers; index (d, i, j) as each line says. -/
inductive Aux where
  /-- Jobs submitted so far: the order of submission (R187). -/
  | submitCount
  /-- Function fn d: MSI-X enabled (R416); stored as 1 + value, absent: enabled (log entry 9). -/
  | msixOff
  /-- Function d: Relaxed Ordering enabled in Device Control (R386). -/
  | relaxed
  /-- The PF ring has been enabled since the last cold reset (R485). -/
  | pfRingSeen
  /-- Unit out of firmware management where no EXPERT field shows it: d die, i tile: HEM. -/
  | hemExpert
  /-- d die, i tile: PRECISION is newly set, and the tile has not become STAGED since (R60); 1 + identifier of the command whose layer set
  it (R17, R304). -/
  | precWait
  | precBy
  /-- d die, i tile: targets fell due while its full calibration held every coefficient (R340); 1 + the window taps that one found and
  that the engine may not set yet (R346, R348). -/
  | aimDue
  | tapsNew
  /-- d die, i tile: its first full calibration of the start-up round is still to come (R345). -/
  | roundTile
  /-- d die: the waveform players are out of firmware management (R101). -/
  | wfmExpert
  /-- d die, i tile, j 0 MSEREF, 1 MSEQ: the pair of sum and count holds until it is cleared (R124). -/
  | mseHeld
  /-- Stitch periods so far (R176); device time at which the Yoke last looked at its queues (R424). -/
  | periods
  | strobeAt
  /-- d die: its key table differed when it came online (R290). -/
  | keyBad
  /-- 1 + device time since which the Yoke's role moves; 0 while it does not (R184). -/
  | moveAt
  /-- d die, i bank: target owner 1 + 256 * kind + id of a pending handover (R368); 0: none. -/
  | bankTarget
  /-- d die, i bank: the zeroing has begun and device time at which it ends, plus 1 (R369). -/
  | bankZeroEnd
  /-- d die, i channel: device time at which retraining ends, plus 1 (R382). -/
  | retrainEnd
  /-- d die: options in force since the last cold start: 1 + MEM_CFG word bits (IECC, LECC, RATE) (R376). -/
  | memInForce
  /-- Timeout history for R425: d level, i unit, j = 0, 1: device times (plus 1) of the last two timeouts. -/
  | toHist
  /-- i link number: the die link is down (R425), retraining (plus 1 of the end is not given by the spec). -/
  | linkDown
  | linkRetrain
  /-- d die, i sequencer: takes no further task until cold reset (R425). -/
  | seqFailed
  /-- i slot: the slot is lost (R428). -/
  | slotLost
  /-- Next sequence number to send, and the last one received in order (R435). -/
  | flitSeq
  | flitAck
  /-- d function, i slot: 1 + the power share in force until the slot's next seam, after a cut (R180). -/
  | powerOld
  /-- d function: 1 + the real-time share in force until the next accounting window, after a cut (R409). -/
  | rtOld
  /-- i slot: 1 + active map of the slot, 0 A or 1 B (R54); 0: none. -/
  | activeMap
  /-- d die: mappable tiles retired without replacement (R73). -/
  | tilesLost
  /-- 1 + device time of the loss verdict; source of the safe state (R462, R465). -/
  | lossAt
  | lossSrc
  /-- Steps of the start-up that are done, as a bit mask (R479); 1 + device time of power good; PERST_N is asserted; the
  fallback image is forced (R483); the firmware image in use failed over (R479); the failed-start count and the last reason
  that the START page holds; the page is lost; options of MEM_CFG that it holds, plus 1; start-up messages that wait for the
  event path (R485): shadow cause plus 1. -/
  | startMask
  | startAt
  | perst
  | fwForce
  | fwFell
  | nvFails
  | nvLast
  | nvMem
  | shadowCause
  /-- 1 + device time of START_RETRY, which restarts the start-up 1 ms later (R483). -/
  | retryAt
  /-- The supply that tripped is back: the start-up runs from step 1 (R493): 1 while it is awaited; the dipped rail (R521). -/
  | saveWait
  | railWait
  /-- i PLL: relocking after a write (R456). -/
  | relock
  /-- The one-shot of R466: 1 running, 2 expired. -/
  | oneShot
  /-- A CLOCK_LOSS record waits for the event path (R466, R485). -/
  | lossPending
  /-- The PLLs have locked at step 6 since VDD_IO came good (R530). -/
  | pllsOnce
  /-- REFCLK is lost, and the PCI Express link is down (R464). -/
  | pcieDown
  /-- d die, i kind of gate register: gate-offs that wait, as a bit mask (R460). -/
  | gatePend
  /-- 1 + device time of the last accepted TIME_PPS edge, or of enabling (R478). -/
  | lastPps
  /-- Device time runs at half rate; error still to absorb, in 1/8 ns (R478). -/
  | halfRate
  | ppsAbsorb
  /-- d die: percent taken off the allowance by thermal throttling (R474). -/
  | thermCut
  /-- 1 + device time at which limiting last acted (R468). -/
  | lastLimit
  /-- Shedding: 1 + device time of assertion; MISSED and LONG raised; throttle and duty before; restore steps left. -/
  | shedAt
  | shedMissed
  | shedLong
  | shedOldThrottle
  | shedOldDuty
  | shedSteps
  /-- Partner: rank, epoch, and its role in function d (R437, R438). -/
  | peerRank
  | peerRole
  /-- A heartbeat has arrived in the present period (R437). -/
  | hbSeen
  /-- The 150 µs wait of a RANK 1 member, and 1 + device time at which PAIR_TAKE was asserted (R445, R447). -/
  | rankWait
  | guardAt
  /-- 1 + sequence number of the last STATE flit of a synchronisation, and device time at which it began (R444). -/
  | syncSeq
  | syncAt
  /-- d function: its state has arrived whole in this synchronisation (R444). -/
  | stateWhole
  /-- d function: a handover is draining it (1), or has told the partner to take it (2) (R449). -/
  | handing
  /-- d function: this member took it over and drives PAIR_TAKE for it (R448). -/
  | taken
  /-- i slot: 1 + digest, and MODEL_ID, of the partner's active map (R440, R444). -/
  | peerDigest
  | peerModel
  /-- Asynchronous operations and stitch requests issued so far: their order of issue (R169, R272). -/
  | opCount
  /-- Order of arrival in the programming queues, in the calibration queues, and of image uses. -/
  | progCount
  | calCount
  | imageUse
  /-- i slot: 1 + target map of a switch that has been requested, 1 + device time at which it became possible (R54, R178),
  the map switches since cold reset (R252), and stitches at the last seam (R176). -/
  | switchTarget
  | switchAt
  | switches
  | seamAt
  /-- i slot: a seam is due. -/
  | seamDue
  /-- d die, i tile: changes that wait for a seam, plus 1: SPAN and FS; STEP and RATE; RANGE; WSTOP and WSTART (R87, R110). -/
  | pendDrive
  | pendSlew
  | pendRange
  | pendTaps
  /-- d die, i tile: 1 + cause with which the tile becomes HELD at the next seam; 1: it rejoins at the next seam (R56). -/
  | pendHold
  | pendJoin
  /-- d die, i tile: spread at programming in 1/256 G_u (R322), UC_NEXT, wear (R493), and a host retirement (R78). -/
  | sigma0
  | ucNext
  | wear
  | retiring
  /-- d die, i channel: 1 + device time of the conversion that gave the result, and results so far (R361); d stream, i die * 64
  + channel: results at the stream's last record. -/
  | mcvTime
  | mcvCount
  | tlmSeen
  /-- d stream: the next record written carries GAP (R362); a STOP came while the stream was IDLE (R363). -/
  | tlmGap
  | tlmIdleStop
  /-- d slot, i layer: 1 + device time at which a class 0 request of the layer last fired (R337). -/
  | class0At
  /-- d die, i tile: temperature at which its calibration started (R346); d die: 1 + device time of the last drift interval;
  the engine itself is out of firmware management; start-up calibrations accepted and rejected (R345). -/
  | calTempAt
  | driftPrev
  | calExpert
  | startAcc
  | startRej
  /-- Urgent requests so far. -/
  | urgCount
  /-- d die: traces: 1 running; consecutive rejections; 1 + device time of the last rejection; start-up calibrations still to
  end, plus 1. -/
  | traceRun
  | traceRej
  | traceAt
  | startCal
  /-- d die: a trace waits for another die's to end (R525). -/
  | traceWait
  /-- d die: i tile: slot in the directory of the record space: 0 its own number (none from 1,656 on), 1 none, k + 2 slot k (R321);
  i role: 1 + tile of a record role, 0: tile 1,656 + role (R320); generation count of the directory (R321). -/
  | recSlot
  | recRole
  | recGen
  /-- d die, i tile, j block: rows of the block that no unit-cell choice serves (R94). -/
  | ucFailed
  /-- d die, i page: a locked Pocket page. -/
  | pageLock
  /-- d function, j 0 power, 1 real time: tile firings in the accounting window (R171, R180), and 1 + stitch at which it began. -/
  | firings
  | acctAt
  /-- d die: markers missed in a row; stitch of the last marker; realigning (R166). -/
  | missed
  | markerAt
  | realign
  /-- Device time at which fabric ready was reached, plus 1 (R345). -/
  | readyAt
  /-- Package energy short of a joule, in 1/80,000 J (R493). -/
  | energyRest
  /-- The start-up under way began with power good (R493); the head die's START page is lost (R490); the last shadow save was
  skipped (R495); sequence number for a die's POCKET_SHADOW_LOST; failed starts before the one that reached step 11. -/
  | coldPower
  | startLost
  | shadowSkip
  | shadowSeq
  | readyFails
  /-- d region, i kind (0 read, 1 write): the password, whether the region has been opened, wrong passwords in a row (R498,
  R499). -/
  | pktPass
  | pktOpen
  | pktWrong
  /-- The bypass switch has been closed by the supervisor until the next power cycle: the cause of R511. Device time (plus 1) of
  the last heartbeat of the chain logic (R508). -/
  | bypassed
  | chainBeat
  /-- Status of the last chain command (R510); 1 + device time of the last CHAIN_PEC_ERROR (R511). -/
  | chainStatus
  | pecAt
  /-- i command: PROGRAM_LATE has been raised for it (R316). -/
  | lateSaid
  /-- A heartbeat of another rank has arrived since the link trained (R439); a synchronisation starts at the next one (R444); the
  heartbeat timer runs (R445). -/
  | hbHeard
  | syncDue
  | hbTimer
  /-- d function: MIRRORED was cleared while the link carried no state, and the partner is still to be told (R438). -/
  | untold
  /-- The pair epoch as the synchronisation began (R444). -/
  | syncEpoch
  /-- i command: jobs that a running EVICT has ended, and queue pairs that it drains (R411). -/
  | evictJobs
  | evictPairs
  deriving DecidableEq, Repr

/-- The channels of the plausibility entries: the eight supplies and CALRES (R353). -/
def mcvPairs : List Nat := [24, 25, 26, 27, 28, 29, 30, 31, 36]

/-- Channel TILEREF (R349). -/
def mcvTileRef : Nat := 41

/-- Thermal design power of the variant, in W (00_scope.md, "Headline figures"). -/
def tdp (p : Part) : Nat := if p.dies = 2 then 105 else if p.dies = 4 then 205 else 400

/-- Package-level logic power, in W (00_scope.md, "Headline figures"). -/
def pkgLogicW (p : Part) : Nat := if p.dies = 2 then 9 else if p.dies = 4 then 13 else 16

/-- The monitor channels that take one part each in the default sequence (R353): every channel 0–45 but the eight
supplies and CALRES. -/
def mcvSingles : List Nat := (List.range 46).filter (fun c => !(mcvPairs.contains c))

/-- Channel of part `b` (0 MCA, 1 MCB) of entry `i` of the default sequence (R353); log entry 17. -/
def mcvDefaultChan (i b : Nat) : Nat :=
  if i < mcvPairs.length then mcvPairs.getD i 0
  else mcvSingles.getD ((2 * (i - mcvPairs.length) + b) % mcvSingles.length) 0

/-- The reset value of a field (register tables of spec/01 to spec/17). Where the table gives "per part", "per R46",
"per R454", "default sequence" and the like, the value is computed here; everything else is the table's number. -/
def fieldReset (p : Part) (f : Field) (d i _j : Nat) : Nat :=
  match f with
  | .GLB_ID_PART => if p.dies = 2 then 0x22 else if p.dies = 4 then 0x44 else 0x88
  | .GLB_ID_GRADE => b2n p.gradeE
  | .GLB_ID_DIES => p.dies
  | .GLB_ID_STEPPING => p.stepping
  | .GLB_CAPACITY_DIE_PRESENT => 2 ^ p.dies - 1
  | .TIL_STATUS_STATE => if i < 1536 then 0 else if i < 1656 then 6 else 7
  | .TIL_SPARES_SPARE_COLS_FREE => 64
  | .TIL_SPARES_SPARE_CONV_FREE => 4
  | .MCV_SEQA_PAIR => b2n (i < mcvPairs.length)
  | .MCV_SEQB_PAIR => b2n (i < mcvPairs.length)
  | .MCV_SEQA_CHAN => mcvDefaultChan i 0
  | .MCV_SEQB_CHAN => mcvDefaultChan i 1
  | .MCV_SEQA_ARG => if mcvDefaultChan i 0 = mcvTileRef then 0x7FF else 0
  | .MCV_SEQB_ARG => if mcvDefaultChan i 1 = mcvTileRef then 0x7FF else 0
  | .FN_STAT_FUNC => d
  | .CHN_CFG_ADDR => 0x6A
  | .FNQ_Q0_QP => if d = 0 then 4096 else 0
  | .FNQ_Q0_FEEDQ => if d = 0 then 8192 else 0
  | .FNQ_Q1_BANKS => if d = 0 then 80 * p.dies else 0
  | .FNQ_Q2_PAGES => if d = 0 then p.dies * (p.lpddrMiB * 7 / 8) * 256 else 0
  | .CLK_PLL_FBDIV => [192, 144, 96, 128, 512].getD i 0
  | .CLK_PLL_REFDIV => if i = 4 then 3 else 1
  | .CLK_PLL_POSTDIV => if i = 4 then 2 else 4
  | .CLK_SG_GROUP => 2 ^ 52 - 1
  | .PWR_PKG_BUDGET_WATTS => tdp p * 8
  | .PWR_SHED_BUDGET_WATTS => tdp p * 4
  | _ => f.info.rst

/-- The whole state of the block. -/
structure State where
  /-- The part (variant, grade, stepping, fitted memory). -/
  part : Part
  /-- Commands waiting, first in, first out. -/
  pending : List Instr
  /-- Register fields that differ from their reset values, by `fieldKey`. -/
  fld : SMap Nat
  /-- Hidden scalars that differ from 0, by `auxKey`. -/
  aux : SMap Nat
  /-- Holding words of R6, by function and register. -/
  hold : SMap (Option Nat)
  /-- Latched words of R535, by function and register. -/
  latch : SMap (Option Nat)
  /-- Memory bytes that differ from 0, by memory key (`memKey`): banks, LPDDR5X, and the functions' host memory. -/
  mem : SMap Byte
  /-- Poisoned granules and blocks (R372, R381), by memory key of their first byte. -/
  poison : SMap Bool
  /-- Device time, in 1/8 ns (R476). -/
  dt : Nat
  /-- Uses so far of the free values `Config.freeValue` (log entry 6). The model's own field, not the spec's. -/
  free : Nat
  /-- What the block has sent, in order. The model's own record. -/
  outbox : List Out
  jobs : List Job
  progs : List Prog
  cmds : List Cmd
  qps : SMap (Option QpSt)
  allocs : List Alloc
  rings : SMap Ring
  /-- Stitch requests, in order of arrival. -/
  reqs : List Req
  /-- Asynchronous operations of the tasks, in order of issue. -/
  ops : List Op
  /-- Descriptors that the DMA engines are moving (R375). -/
  dmas : List DmaRun
  /-- The tile maps of every model slot (R50). -/
  placed : List Placed
  /-- Gusset regions (R276). -/
  panels : List Panel
  /-- The image store (R292), loads under way, and what the maps keep (R299). -/
  images : List Image
  loads : List Load
  maps : List MapSt
  /-- Hidden tile state, by die * 2048 + tile, and the calibration tables, by `tabKey` and index. -/
  tiles : SMap TileSt
  tabs : SMap (SMap (Option Nat))
  /-- The record space, by die * 2048 + tile (R320 to R326). -/
  recs : SMap TileRec
  /-- Programming requests, queued or running (R307). -/
  progq : List PReq
  calq : List CalReq
  cals : List CalRun
  checks : List Check
  tix : List Tix
  repls : List Repl
  refreshes : List Refresh
  /-- Monitor converters by die (R352), urgent requests (R354), telemetry windows (R363), and host playbacks (R101). -/
  mons : SMap Mon
  urg : List Urg
  tlms : List Tlm
  plays : List Play
  /-- Waveform points that differ from END (R97), by die * 16384 + waveform * 256 + point. -/
  waves : SMap Nat
  /-- Pocket bytes that differ from 0 (R487), by die * 2^19 + page * 4096 + byte. -/
  pocket : SMap Byte
  /-- Jobs that were running when the loss verdict was latched (R465). -/
  safeJobs : List Nat
  /-- Flits kept for replay (R436). -/
  flits : List Flit
  /-- What the standby holds for mirrored functions (R440, R442), and the declared regions (R443). -/
  journal : List JEntry
  commits : List CommitRec
  regions : List Region
  deriving DecidableEq, Repr

/-- The state right after reset of a given part. Every field at the reset value of its table; queues empty; memory as it
reads unlisted; device time 0. -/
def State.resetOf (p : Part) : State :=
  { part := p, pending := [], fld := [], aux := [], hold := [], latch := [], mem := [], poison := [], dt := 0, free := 0,
    outbox := [], jobs := [], progs := [], cmds := [], qps := [], allocs := [], rings := [],
    reqs := [], ops := [], dmas := [], placed := [], panels := [], flits := [], journal := [], commits := [],
    regions := [], safeJobs := [], images := [], loads := [], maps := [], tiles := [], tabs := [], recs := [], progq := [],
    calq := [], cals := [], checks := [], tix := [], repls := [], refreshes := [], mons := [], urg := [], tlms := [], plays := [], waves := [], pocket := [] }

/-- The state right after reset (log entry 1: of a PX-220-S). -/
def State.reset : State := State.resetOf Part.px220

end Sys2Proof.Machine
end

