-- ==== Sys2Proof/Machine/Ops.lean ====
section
/-!
DEFINITION. Machine/Ops.lean: the named operations over registers, hidden scalars, memory and device time; the ranking of
orders (R430 to R432); event records, rings and interrupts (R19, R413 to R416); and completions (R400); the sending side of the mirror link (R435, R436, R440).
-/

namespace Sys2Proof.Machine

/-! ## Register fields and hidden scalars -/

/-- Key of element (d, i, j) of a field: die or function, unit, sub-unit. -/
def fieldKey (f : Field) (d i j : Nat) : Nat := Nat.pair f.ctorIdx (Nat.pair d (Nat.pair i j))

/-- Value of a field. -/
def State.rd (s : State) (f : Field) (d : Nat := 0) (i : Nat := 0) (j : Nat := 0) : Nat :=
  s.fld.get (fieldReset s.part f d i j) (fieldKey f d i j)

/-- Write a field; the value is truncated to the field's width. -/
def State.wr (s : State) (f : Field) (v : Nat) (d : Nat := 0) (i : Nat := 0) (j : Nat := 0) : State :=
  { s with fld := s.fld.set (fieldReset s.part f d i j) (fieldKey f d i j) (v % 2 ^ f.width) }

/-- A one-bit field as a Bool. -/
def State.rdb (s : State) (f : Field) (d : Nat := 0) (i : Nat := 0) (j : Nat := 0) : Bool := s.rd f d i j != 0

/-- Add to a counter field, which saturates at its width. -/
def State.bump (s : State) (f : Field) (n : Nat := 1) (d : Nat := 0) (i : Nat := 0) (j : Nat := 0) : State :=
  s.wr f (satAdd f.width (s.rd f d i j) n) d i j

/-- Key of a hidden scalar. -/
def auxKey (a : Aux) (d i j : Nat) : Nat := Nat.pair a.ctorIdx (Nat.pair d (Nat.pair i j))

/-- Value of a hidden scalar; 0 where nothing has been stored. -/
def State.ax (s : State) (a : Aux) (d : Nat := 0) (i : Nat := 0) (j : Nat := 0) : Nat := s.aux.get 0 (auxKey a d i j)

/-- Store a hidden scalar. -/
def State.setAx (s : State) (a : Aux) (v : Nat) (d : Nat := 0) (i : Nat := 0) (j : Nat := 0) : State :=
  { s with aux := s.aux.set 0 (auxKey a d i j) v }

/-- Apply a state change for each element of a list, in order. -/
def State.each {α : Type} (s : State) (l : List α) (f : State → α → State) : State := l.foldl f s

/-- Apply a state change where a condition holds. -/
def State.when (s : State) (c : Bool) (f : State → State) : State := if c then f s else s

/-- The dies of the part. -/
def State.dies (s : State) : List Nat := List.range s.part.dies

/-- Die d is online (R30, R426). -/
def State.online (s : State) (d : Nat) : Bool := d < s.part.dies && bit (s.rd .GLB_CAPACITY_DIE_ONLINE) d

/-- The die window of a die holds registers: the die is online (R28). -/
def State.dieWindow (s : State) (d : Nat) : Bool := s.online d

/-- A tile block holds registers (R28, R81). -/
def State.tileWindow (s : State) (d t : Nat) : Bool := s.online d && decide (t < 1664)

/-- The units of a clock domain of a die pause while its PLL has no lock (R456, R462): 0 core, 1 NoC, 2 fabric, 3 stitch timing,
4 memory. Before step 6 of the start-up no PLL is locked, and nothing uses a domain. -/
def State.paused (s : State) (p d : Nat) : Bool := bit (s.ax .startMask) 6 && !bit (s.rd .CLK_LOCK_LOCK 0 d) p

/-- A function block of a die runs (R459, R460): its gate and those above it are on, or its gate-off still waits for the unit to be
idle. 0 SEQ, 1 DGA, 2 BNK, 3 FAB, 4 PRG. -/
def State.blockRuns (s : State) (d b : Nat) : Bool :=
  (bit (s.rd .CLK_GATE_BLK 0 d) b && s.rdb .CLK_GATE_DIE 0 d && s.rdb .CLK_CTRL_ROOT) || bit (s.ax .gatePend d 1) b

/-- The strobe group of a tile runs: its gate and that of the FAB block are on (R459, R460). Firmware ungates a group before it
uses it (R461). -/
def State.groupRuns (s : State) (d t : Nat) : Bool :=
  s.blockRuns d 3 && (!s.rdb .CLK_STAT_EXPERT || bit (s.rd .CLK_SG_GROUP 0 d) (t / 32) || bit (s.ax .gatePend d 2) (t / 32))

/-- The online dies, lowest first. -/
def State.onlineDies (s : State) : List Nat := s.dies.filter s.online

/-- The head die: the lowest-numbered online die (R22), as GLB_CAPACITY.HEAD shows it. -/
def State.head (s : State) : Nat := s.rd .GLB_CAPACITY_HEAD

/-- Device time in whole nanoseconds (R476). -/
def State.now (s : State) : Nat := s.dt / 8

/-- Record something the block sends. -/
def State.emit (s : State) (o : Out) : State := { s with outbox := s.outbox ++ [o] }

/-- A failed read of host memory is logged in AER by its kind (R387). -/
def State.aer (s : State) (e : HostErr) : State :=
  s.emit (.aer (match e with | .unsupported => 1 | .abort => 2 | .poisoned => 3))

/-- A fresh free value, and the state that has used it (log entry 6). -/
def State.fresh (s : State) : Nat × State := (Config.freeValue s.free, { s with free := s.free + 1 })

/-- Byte offset in BAR0 of an element of a register (R26, R27, R81, R388): a VF's function page and queue-pair window stand
in the VF's own BAR0. -/
def regAddr (r : Reg) (d : Nat := 0) (i : Nat := 0) (j : Nat := 0) : Nat :=
  let x := r.info
  match x.place with
  | .pkg => x.off + i * x.stride
  | .die => 0x1000000 + d * 0x200000 + x.off + i * x.stride
  | .tile => 0x1000000 + d * 0x200000 + 0x100000 + i * 512 + x.off + j * x.stride
  | .fn => (if d = 0 then 0x148000 else 0) + x.off + i * x.stride
  | .qp => (if d = 0 then 0x100000 else 0x2000) + i * 0x40 + x.off
  | .fnq => 0x140000 + d * 0x40 + x.off + i * x.stride

/-- The bits of a register that its stored fields give. -/
def State.regVal (s : State) (r : Reg) (d : Nat := 0) (i : Nat := 0) (j : Nat := 0) : Nat :=
  (r.fields.map (fun f => s.rd f d i j * 2 ^ f.info.lo)).foldl (· + ·) 0

/-! ## Memory -/

/-- Device address region (R200): 0 BANK, 1 LPDDR, 2 HOST. -/
def devRegion (a : Nat) : Nat := bits a 47 44

/-- Die of a BANK or LPDDR device address. -/
def devDie (a : Nat) : Nat := bits a 43 41

/-- Offset within the region of a BANK or LPDDR device address. -/
def devOff (a : Nat) : Nat := bits a 40 0

/-- Device address of a BANK offset of a die. -/
def bankAddr (die off : Nat) : Nat := die * 2 ^ 41 + off

/-- Device address of an LPDDR offset of a die. -/
def lpddrAddr (die off : Nat) : Nat := 2 ^ 44 + die * 2 ^ 41 + off

/-- Memory key of an address of a function's host memory. -/
def hostKey (fn a : Nat) : Nat := 2 ^ 64 * (fn + 1) + a % 2 ^ 64

/-- Memory key of a device address as function `fn` uses it: the HOST region is the function's host DMA space. -/
def memKey (fn a : Nat) : Nat := if devRegion a = 2 then hostKey fn (bits a 43 0) else a % 2 ^ 64

/-- One byte of memory; an unlisted byte reads 0 (R369; log entry 2). -/
def State.byte (s : State) (k : Nat) : Byte := s.mem.get 0 k

/-- n bytes from key k, little-endian. -/
def State.load (s : State) (k n : Nat) : Nat := ofLe ((List.range n).map (fun i => s.byte (k + i)))

/-- Store bytes from key k upwards. -/
def storeBytes (m : SMap Byte) (k : Nat) : List Byte → SMap Byte
  | [] => m
  | b :: t => storeBytes (m.set 0 k b) (k + 1) t

/-- Store the n low bytes of v at key k, little-endian. -/
def State.store (s : State) (k n v : Nat) : State := { s with mem := storeBytes s.mem k (leBytes n v) }

/-- Installed LPDDR5X capacity of a die in bytes (R379): seven eighths of the devices while inline ECC is on. -/
def State.installed (s : State) (d : Nat) : Nat := s.rd .MEM_CAP_DATA_MIB d * 2 ^ 20

/-- Bytes of one die's scratch banks (R200). -/
def bankBytes : Nat := 0x2800000

/-! ## Orders of several masters in one cycle -/

/-- Rank of a master, 0 highest (R430). -/
def masterRank : Master → Nat
  | .chain => 0
  | .pf => 1
  | .mirror => 2
  | .vf f => 3 + f

/-- Master kind of FLT_LASTSUP and ORDER_SUPERSEDED (R451). -/
def masterKind : Master → Nat
  | .chain => 0
  | .pf => 1
  | .mirror => 2
  | .vf _ => 3

/-- Function of a master; 0 for the chain, the PF and the mirror link. -/
def masterFn : Master → Nat
  | .vf f => f
  | _ => 0

/-- The function of a master as a Nat key of its own for holding words and latches: the chain is kept apart from the PF
(log entry 10). -/
def masterKey : Master → Nat
  | .chain => 128
  | .pf => 0
  | .mirror => 129
  | .vf f => f

/-! ## Event records and interrupts -/

/-- Severities of R20. -/
abbrev sevInfo : Nat := 0
abbrev sevNotice : Nat := 1
abbrev sevWarning : Nat := 2
abbrev sevError : Nat := 3
abbrev sevCritical : Nat := 4

/-- The hidden state of an event ring. -/
def State.ring (s : State) (fn : Nat) : Ring := s.rings.get ⟨[], 0, 0, []⟩ fn

def State.setRing (s : State) (fn : Nat) (r : Ring) : State := { s with rings := s.rings.set ⟨[], 0, 0, []⟩ fn r }

/-- Send the message of a vector: a masked vector sets its pending bit; a function with MSI-X disabled sends nothing
(R416). -/
def State.sendMsix (s : State) (fn vec : Nat) : State :=
  let s := s.setRing fn { s.ring fn with unannounced := (s.ring fn).unannounced.filter (fun u => u.1 != vec) }
  if s.ax .msixOff fn != 0 then s
  else if s.rdb .MSIX_CTRL_MASK fn vec then s.wr .MSIX_PBA_PEND (setBit (s.rd .MSIX_PBA_PEND fn) vec true) fn
  else s.emit (.msix fn vec)

/-- Announce one record on a vector (R416): at once for ERROR and CRITICAL, with EVR_MOD.COUNT records waiting, or with
EVR_MOD.TIME = 0; otherwise it waits. -/
def State.announce (s : State) (fn vec sev : Nat) : State :=
  let r := s.ring fn
  let old := (r.unannounced.find? (fun u => u.1 == vec)).getD (vec, 0, s.now)
  let n := old.2.1 + 1
  if sev ≥ sevError ∨ n ≥ s.rd .EVR_MOD_COUNT fn ∨ s.rd .EVR_MOD_TIME fn = 0 then s.sendMsix fn vec
  else s.setRing fn { r with unannounced := (vec, n, old.2.2) :: r.unannounced.filter (fun u => u.1 != vec) }

/-- Free slots of an event ring (R415). -/
def State.ringFree (s : State) (fn : Nat) : Nat :=
  2 ^ s.rd .EVR_BASE_LOG2 fn - (s.rd .EVR_TAIL_COUNT fn + 2 ^ 32 - s.rd .EVR_HEAD_COUNT fn) % 2 ^ 32

/-- Write one record into the next slot of a ring (R19, R413) and announce it. -/
def State.writeRecord (s : State) (fn type die sev vec payload : Nat) (time : Nat) : State :=
  let w := s.rd .EVR_TAIL_COUNT fn
  let a := s.rd .EVR_BASE_BASE fn * 4096 + 32 * (w % 2 ^ s.rd .EVR_BASE_LOG2 fn)
  let rec' := type + atByte 2 die + atByte 3 sev + atByte 4 ((w + 1) % 2 ^ 32) + atByte 8 (time % 2 ^ 64)
    + atByte 16 (payload % 2 ^ 128)
  ((s.store (hostKey fn a) 32 rec').wr .EVR_TAIL_COUNT (w + 1) fn).announce fn vec sev

/-- Types of the host interface (R417) that the rings themselves write. -/
abbrev evRingOverflow : Nat := 0x72
abbrev evRingCoalesced : Nat := 0x73

/-- RING_OVERFLOW into the first free slot after drops (R415). -/
def State.flushOverflow (s : State) (fn : Nat) : State :=
  let r := s.ring fn
  if r.dropped = 0 ∨ s.ringFree fn = 0 then s
  else (s.setRing fn { r with dropped := 0 }).writeRecord fn evRingOverflow 0xFF sevWarning 0
    (r.dropped % 2 ^ 32 + atByte 4 r.before) s.now

/-- Drop one record and count it (R415). -/
def State.dropRecord (s : State) (fn : Nat) : State :=
  let r := s.ring fn
  let before := if r.dropped = 0 then s.rd .EVR_TAIL_COUNT fn else r.before
  ((s.bump .EVR_OVF_COUNT 1 fn).setRing fn { r with dropped := r.dropped + 1, before := before }).flushOverflow fn

/-- A record for the ring of one function (R414, R415). -/
def State.post (s : State) (fn type die sev vec payload : Nat) : State :=
  if s.rd .EVR_CTRL_ENABLE fn = 0 then s.bump .EVR_OVF_COUNT 1 fn
  else
    let f := s.ringFree fn
    if f > s.rd .EVR_CTRL_RESERVE fn then s.writeRecord fn type die sev vec payload s.now
    else if sev ≤ sevNotice then
      let r := s.ring fn
      match r.coal.find? (fun c => c.type == type) with
      | some c => s.setRing fn { r with
          coal := r.coal.map (fun c' => if c'.type = type then { c with die := die, count := c.count + 1 } else c') }
      | none =>
        if r.coal.length < 16 then s.setRing fn { r with coal := r.coal ++ [⟨type, die, 1, s.now⟩] }
        else s.dropRecord fn
    else if f ≥ 2 then s.writeRecord fn type die sev vec payload s.now
    else s.dropRecord fn

/-- When the free slots exceed RESERVE again, one RING_COALESCED record for each coalesced type (R415). A record that
would take the slot kept for RING_OVERFLOW stays in the table (log entry 11). -/
def State.flushCoalesced (s : State) (fn : Nat) : State :=
  if s.ringFree fn > s.rd .EVR_CTRL_RESERVE fn then
    (s.ring fn).coal.foldl (fun s c =>
      if s.ringFree fn ≥ 2 then
        (s.setRing fn { s.ring fn with coal := (s.ring fn).coal.filter (fun c' => c'.type != c.type) }).writeRecord fn
          evRingCoalesced 0xFF sevNotice 0 (c.type + atByte 2 c.die + atByte 4 (c.count % 2 ^ 32) + atByte 8 c.time) s.now
      else s) s
  else s

/-- A record for the PF's ring (R414). -/
def State.event (s : State) (type die sev : Nat) (payload : Nat := 0) : State := s.post 0 type die sev 0 payload

/-- A tenancy record: the ring of the function and, for a VF, the PF's ring (R414, R417). -/
def State.tenancy (s : State) (fn type sev payload : Nat) : State :=
  let s := s.post fn type 0xFF sev 0 payload
  if fn = 0 then s else s.post 0 type 0xFF sev 0 payload

/-! ## Orders: the ranking -/

/-- Record one superseded order (R432): FLT_SUPCNT, FLT_LASTSUP and ORDER_SUPERSEDED; `obj` is the register offset or
object number. -/
def State.superseded (s : State) (win lose : Master) (obj : Nat) : State :=
  ((((((s.bump .FLT_SUPCNT_COUNT).wr .FLT_LASTSUP_WIN_KIND (masterKind win)).wr .FLT_LASTSUP_WIN_FUNC (masterFn win)).wr
    .FLT_LASTSUP_LOSE_KIND (masterKind lose)).wr .FLT_LASTSUP_LOSE_FUNC (masterFn lose))).event 0x43 0xFF sevNotice
    ((masterKind win) + atByte 1 (masterFn win) + atByte 2 (masterKind lose) + atByte 3 (masterFn lose) + atByte 4 (obj % 2 ^ 32))

/-- The order that stands: the one of the highest-ranked master; the first of equals (R430). -/
def winner (w : Wr) : List Wr → Wr
  | [] => w
  | r :: t => winner (if masterRank r.by' < masterRank w.by' then r else w) t

/-- Resolve an order against its rivals: the winner stands whole, and each order that carries a different value is
superseded. Identical orders are not (R431). -/
def State.arbitrate (s : State) (o : Order) (obj : Nat) : Wr × State :=
  let w := winner o.w o.rivals
  (w, (o.w :: o.rivals).foldl (fun s r => if r.v ≠ w.v then s.superseded w.by' r.by' obj else s) s)

/-! ## Sending over the mirror link (R435, R436, R440)

The spec names what a message carries, and not its layout: the layouts of the payloads are the model's (log entry 20). -/

def State.qp (s : State) (q : Nat) : Option QpSt := s.qps.get none q

def State.setQp (s : State) (q : Nat) (v : Option QpSt) : State := { s with qps := s.qps.set none q v }

/-- The link is up and no clash of ranks has shown, so that state which arrives is taken (R439). -/
def State.linkOpen (s : State) : Bool := s.rd .MIR_STAT_LINK == 2 && !s.rdb .MIR_STAT_RANK_CLASH

/-- The link carries state (R439): a heartbeat has shown that the ranks differ. -/
def State.linkCarries (s : State) : Bool := s.linkOpen && s.ax .hbHeard != 0

/-- A function that is mirrored and ACTIVE on a pair that is SYNCING or SYNCED (R440, R442). -/
def State.mirrored (s : State) (fn : Nat) : Bool :=
  s.rdb .MIR_FN_MIRRORED 0 fn && s.rd .MIR_FN_ROLE 0 fn == 1 && (s.rd .MIR_STAT_PAIR == 1 || s.rd .MIR_STAT_PAIR == 2)

/-- A mirrored function for which this member is ACTIVE while the pair is SYNCING or SYNCED: its state goes to the standby (R440). -/
def State.mirrors (s : State) (fn : Nat) : Bool := s.mirrored fn && s.linkCarries

/-- The 256 bytes of a flit (R435). -/
def flitWord (type last seq ack len payload : Nat) : Nat :=
  let w := type + atByte 1 last + atByte 2 (seq % 2 ^ 16) + atByte 4 (ack % 2 ^ 16) + atByte 6 len + atByte 8 (payload % 256 ^ len)
  w + atByte 252 (crc32 (leBytes 252 w))

def State.emitFlit (s : State) (f : Flit) : State :=
  s.emit (.flit (flitWord f.type (b2n f.last) f.seq (s.ax .flitAck) f.len f.payload))

/-- At most 256 flits wait for their acknowledgement (R436): those among the first 256 that have not been sent go out. -/
def State.pumpFlits (s : State) : State :=
  let go := (s.flits.take 256).filter (fun f => !f.sent)
  let s := s.each go State.emitFlit
  { s with flits := (s.flits.take 256).map (fun f => if f.sent then f else { f with sent := true, time := s.now }) ++ s.flits.drop 256 }

/-- Queue one flit of a type: it is kept until acknowledged (R436). -/
def State.sendFlit (s : State) (type payload len : Nat) (last : Bool := true) : State :=
  if s.rd .MIR_STAT_LINK ≠ 2 then s
  else
    let seq := s.ax .flitSeq % 2 ^ 16
    State.pumpFlits { s.setAx .flitSeq (seq + 1) with flits := s.flits ++ [⟨seq, type, last, len, payload, s.now, 0, false⟩] }

/-- A message of any length: flits of up to 244 bytes, the last one marked (R435). -/
def State.sendPieces (s : State) (type : Nat) (l : List Byte) : Nat → State
  | 0 => s
  | fuel + 1 =>
    if l.length ≤ 244 then s.sendFlit type (ofLe l) l.length
    else (s.sendFlit type (ofLe (l.take 244)) 244 false).sendPieces type (l.drop 244) fuel

def State.sendMsg (s : State) (type : Nat) (l : List Byte) : State := s.sendPieces type l (l.length / 244 + 1)

/-- What a JOURNAL message carries. -/
def journalBytes (fn : Nat) : JournalMsg → List Byte
  | .desc j d => leBytes 2 fn ++ leBytes 8 j ++ leBytes 64 d.toNat
  | .load h obj => leBytes 2 (fn + 256) ++ leBytes 2 h ++ obj
  | .unload h => leBytes 2 (fn + 512) ++ leBytes 2 h

/-- What a STATE message carries. -/
def stateBytes (fn : Nat) : StateMsg → List Byte
  | .pointers p => leBytes 2 fn ++ leBytes 2 p.q ++ leBytes 2 p.entry ++ leBytes 8 p.sqBase ++ leBytes 8 p.cqBase ++ leBytes 1 p.sqLog2
      ++ leBytes 1 p.cqLog2 ++ leBytes 2 p.tail ++ leBytes 2 p.cqHead ++ leBytes 2 p.head ++ leBytes 8 p.completed ++ leBytes 8 p.fetched
  | .commit j q n b w => leBytes 2 (fn + 256) ++ leBytes 8 j ++ leBytes 2 q ++ leBytes 8 n ++ leBytes 16 b.toNat
      ++ w.flatMap (fun e => leBytes 8 e.1 ++ [e.2])
  | .region a b => leBytes 2 (fn + 512) ++ leBytes 8 a ++ b
  | .quotas q0 q1 q2 sh g jc => leBytes 2 (fn + 768) ++ leBytes 4 q0 ++ leBytes 4 q1 ++ leBytes 4 q2 ++ leBytes 4 sh ++ leBytes 8 g ++ leBytes 4 jc
  | .map k m d x => leBytes 2 (fn + 1024) ++ leBytes 1 k ++ leBytes 1 m ++ leBytes 48 d ++ leBytes 8 x
  | .whole => leBytes 2 (fn + 1280)
  | .start => leBytes 2 (fn + 1536)

/-- What an ORDER carries. -/
def orderBytes : MirOrder → List Byte
  | .slotSwitch k m => leBytes 3 (k * 256 + m * 65536)
  | .region f d n c on => leBytes 2 (1 + 256 * f) ++ leBytes 2 (d + 256 * b2n on) ++ leBytes 4 n ++ leBytes 4 c
  | .handover m l => leBytes 1 2 ++ leBytes 16 m.toNat ++ l.flatMap (fun e => leBytes 8 e.1 ++ leBytes 1 (b2n e.2))
  | .unmirrored f => leBytes 2 (4 + 256 * f)
  | .refused st => leBytes 2 (3 + 256 * st)

/-- A journal or state message of a function goes to the standby while its state is mirrored (R440). -/
def State.journals (s : State) (fn : Nat) (m : JournalMsg) : State := if s.mirrors fn then s.sendMsg 4 (journalBytes fn m) else s

def State.mirrorState (s : State) (fn : Nat) (m : StateMsg) : State := if s.mirrors fn then s.sendMsg 5 (stateBytes fn m) else s

/-- The queue pointers of a pair (R440). -/
def State.ptrMsg (s : State) (q : Nat) (p : QpSt) : StateMsg :=
  let r := fun (f : Field) => s.rd f p.fn p.entry
  .pointers { q := q, entry := p.entry, sqBase := r .QP_SQBASE_BASE, cqBase := r .QP_CQBASE_BASE, sqLog2 := r .QP_CFG_SQLOG2,
              cqLog2 := r .QP_CFG_CQLOG2, tail := r .QP_SQTAIL_INDEX, cqHead := r .QP_CQHEAD_INDEX, head := r .QP_STAT_SQHEAD,
              completed := p.completed, fetched := p.fetched }

/-- Queue pointers that have changed go to the standby (R440). -/
def State.sendPointers (s : State) (q : Nat) : State :=
  match s.qp q with
  | some p => s.mirrorState p.fn (s.ptrMsg q p)
  | none => s

/-- The FNQ record, use grants and JOB_CFG of a function (R440). -/
def State.quotaMsg (s : State) (fn : Nat) : StateMsg :=
  .quotas (s.rd .FNQ_Q0_QP fn * 65536 + s.rd .FNQ_Q0_FEEDQ fn) (s.rd .FNQ_Q1_BANKS fn) (s.rd .FNQ_Q2_PAGES fn)
    (s.rd .FNQ_SHARE_POWER fn * 65536 + s.rd .FNQ_SHARE_RT fn) (s.rd .FNQ_GRANT_SLOT fn)
    (s.rd .JOB_CFG_WATCHDOG fn * 65536 + s.rd .JOB_CFG_RESTARTS fn)

def State.sendQuotas (s : State) (fn : Nat) : State := s.mirrorState fn (s.quotaMsg fn)

/-! ## Completions -/

/-- Status codes of R16. -/
abbrev stOK : Nat := 0x00
abbrev stDeadlineExpired : Nat := 0x10
abbrev stRejectedQuota : Nat := 0x11
abbrev stRejectedSuperseded : Nat := 0x12
abbrev stRejectedPrivilege : Nat := 0x13
abbrev stMalformed : Nat := 0x14
abbrev stWindowOrder : Nat := 0x15
abbrev stRestartExhausted : Nat := 0x20
abbrev stTimeout : Nat := 0x21
abbrev stTileRetired : Nat := 0x22
abbrev stImageSignature : Nat := 0x23
abbrev stTileNotClear : Nat := 0x24
abbrev stScaleMismatch : Nat := 0x25
abbrev stAbortedByHost : Nat := 0x30
abbrev stEvicted : Nat := 0x31
abbrev stFailover : Nat := 0x32

/-- Flag bits of R18. -/
abbrev flSplit : Nat := 0x80
abbrev flShort : Nat := 0x40
abbrev flGusset : Nat := 0x20
abbrev flThrottled : Nat := 0x10
abbrev flLate : Nat := 0x08
abbrev flStaleCal : Nat := 0x04
abbrev flWideRerun : Nat := 0x02
abbrev flRestarted : Nat := 0x01

/-- Add a flag. -/
def addFlag (fl f : Nat) : Nat := fl ||| f

/-- Trap causes of R223. -/
abbrev cBranchTarget : Nat := 1
abbrev cDescriptor : Nat := 2
abbrev cAddress : Nat := 3
abbrev cStack : Nat := 4
abbrev cTicket : Nat := 5
abbrev cScale : Nat := 6
abbrev cUser : Nat := 7
abbrev cStagingFull : Nat := 8
abbrev cMemoryEcc : Nat := 9
abbrev cUnit : Nat := 10
abbrev cTimeout : Nat := 11
abbrev cMapSwitch : Nat := 12

/-- The 16 bytes of a completion (R400). -/
def completionBytes (cid st fl res lat head cause phase rst : Nat) : Nat :=
  cid + atByte 2 st + atByte 3 fl + atByte 4 (res % 2 ^ 32)
    + atByte 8 (if fl.testBit 3 then min lat 0xFFFFFFFF else 0) + atByte 12 head + atByte 14 cause
    + atByte 15 (phase + 2 * (rst % 8))

/-- The 16 bytes of the completion that stands at number `count` of a pair (R393, R400). -/
def State.completionOf (s : State) (p : QpSt) (count cid st fl res lat cause rst : Nat) : Nat :=
  completionBytes cid st fl res lat (s.rd .QP_STAT_SQHEAD p.fn p.entry) cause
    (if count / 2 ^ s.rd .QP_CFG_CQLOG2 p.fn p.entry % 2 = 0 then 1 else 0) rst

/-- Host memory key of the slot of a pair's completion number `count` (R393). -/
def State.completionKey (s : State) (p : QpSt) (count : Nat) : Nat :=
  hostKey p.fn (s.rd .QP_CQBASE_BASE p.fn p.entry * 4096 + 16 * (count % 2 ^ s.rd .QP_CFG_CQLOG2 p.fn p.entry))

/-- Post a completion on package queue pair q (R393, R400), and CMD_COMPLETE after it where the command asked for it
(R396, R413). It takes the next slot, or the one that its commit record has reserved (R442). A FENCED or STANDBY function posts no
completion (R441, R446); its queue pair counts the command as ended. -/
def State.complete (s : State) (q cid : Nat) (event : Bool) (vec jobId st fl res lat cause rst : Nat) (slot : Option Nat := none) : State :=
  match s.qp q with
  | none => s
  | some qp =>
    if s.rd .MIR_FN_ROLE 0 qp.fn ≥ 2 then s.setQp q (some { qp with outstanding := qp.outstanding - 1 })
    else
      let n := slot.getD qp.completed
      let w := s.completionOf qp n cid st fl res lat cause rst
      let s := (s.store (s.completionKey qp n) 16 w).setQp q
        (some { qp with completed := if slot.isSome then qp.completed else qp.completed + 1, outstanding := qp.outstanding - 1 })
      let s := if event then
          s.post qp.fn 0x71 0xFF sevInfo vec (jobId % 2 ^ 64 + atByte 8 cid + atByte 10 st + atByte 11 fl + atByte 12 q + atByte 14 cause)
        else s
      s.sendPointers q

abbrev opJobSubmit : Nat := 0x01

/-- Complete a host command that is not a job, or has not become one: it leaves the list of fetched commands. CMD_COMPLETE carries
the job identifier of a JOB_SUBMIT, and 0 for any other command (R417). -/
def State.completeCmd (s : State) (c : Cmd) (st res : Nat) (fl : Nat := 0) (lat : Nat := 0) : State :=
  ({ s with cmds := s.cmds.filter (fun c' => c'.id != c.id) }).complete c.q c.cid c.event c.vec (if c.opcode = opJobSubmit then c.id else 0) st
    (addFlag (addFlag c.flags fl) 0) res (max c.lateness lat) 0 0

/-! ## Shape of the meanings -/

abbrev Res := Host.Outcome State Fault Refusal

/-- An order to a register of the block: the winner's effect, after the losers are recorded (R430 to R432). -/
def State.order (s : State) (o : Order) (obj : Nat) (f : State → Master → Nat → State) : State :=
  let r := s.arbitrate o obj
  f r.2 r.1.by' r.1.v

end Sys2Proof.Machine
end

