-- ==== Sys2Proof/Machine/Banks.lean ====
section
/-!
DEFINITION. Machine/Banks.lean: ownership, handover and zeroing of the scratch banks (R366 to R369), holdings and quotas of
functions (R408, R409), and page allocation.
-/

namespace Sys2Proof.Machine

/-! ## Owners -/

abbrev ownFree : Nat := 0
abbrev ownSequencer : Nat := 1
abbrev ownHostWindow : Nat := 5

/-- core_clk cycles of the zeroing of a bank (R369), as device time in 1/8 ns at 1.2 GHz, rounded up. -/
def zeroingTicks : Nat := cdiv (4096 * 80) 12

/-- The function that an owner acts for (R369): a run tag acts for the function of its job. -/
def State.actsFor (s : State) (kind id : Nat) : Option Nat :=
  if kind = ownSequencer then
    if id ≥ 128 then some (id - 128)
    else (s.jobs.find? (fun j => j.st != .waiting && j.st != .parked && j.runTag == id)).map (·.fn)
  else if kind = ownHostWindow then some id
  else none

/-- Whether a handover from the present owner to (kind, id) zeroes the bank (R369). -/
def State.zeroes (s : State) (d b kind id : Nat) : Bool :=
  let ck := s.rd .BNK_OWNER_CUR_KIND d b
  if ck = ownFree then false
  else match s.actsFor ck (s.rd .BNK_OWNER_CUR_ID d b), s.actsFor kind id with
    | some f, some g => f != g
    | _, _ => true

/-- The bank passes to (kind, id): one completed handover (R368). -/
def State.bankPass (s : State) (d b kind id : Nat) : State :=
  ((((s.wr .BNK_OWNER_CUR_KIND kind d b).wr .BNK_OWNER_CUR_ID id d b).wr .BNK_OWNER_PEND 0 d b).setAx .bankTarget 0 d b).bump
    .BNK_HANDOVERS_COUNT 1 d

/-- Zeroing begins (R369); it runs for 4,096 core_clk cycles. -/
def State.bankZeroStart (s : State) (d b : Nat) : State :=
  (s.wr .BNK_OWNER_ZEROING 1 d b).setAx .bankZeroEnd (s.dt + zeroingTicks + 1) d b

/-- A request for a new owner (R368): naming the present owner cancels a pending handover, or has no effect; another owner
becomes the target. -/
def State.bankRequest (s : State) (d b kind id : Nat) : State :=
  if s.rd .BNK_OWNER_CUR_KIND d b = kind ∧ s.rd .BNK_OWNER_CUR_ID d b = id then
    if s.rdb .BNK_OWNER_PEND d b then (s.wr .BNK_OWNER_PEND 0 d b).setAx .bankTarget 0 d b else s
  else (s.wr .BNK_OWNER_PEND 1 d b).setAx .bankTarget (1 + 256 * kind + id) d b

/-- The bank is idle: a pending handover takes effect, or its zeroing begins (R368, R369). -/
def State.bankHandover (s : State) (d b : Nat) : State :=
  if s.rdb .BNK_OWNER_PEND d b && !s.rdb .BNK_OWNER_ZEROING d b then
    let t := s.ax .bankTarget d b - 1
    if s.zeroes d b (t / 256) (t % 256) then s.bankZeroStart d b else s.bankPass d b (t / 256) (t % 256)
  else s

/-- Memory without the bytes of keys lo .. hi-1, which then read 0. -/
def State.clearRange (s : State) (lo hi : Nat) : State :=
  { s with mem := s.mem.filter (fun e => !(lo ≤ e.1 && e.1 < hi)),
           poison := s.poison.filter (fun e => !(lo ≤ e.1 && e.1 < hi)) }

/-- The zeroing of a bank ends (R369): every word is 0 with valid check bits, and the bank passes to the target, if there
still is one. -/
def State.bankZeroEnded (s : State) (d b : Nat) : State :=
  let lo := bankAddr d (b * 0x80000)
  let s := ((s.clearRange lo (lo + 0x80000)).wr .BNK_OWNER_ZEROING 0 d b).setAx .bankZeroEnd 0 d b
  if s.rdb .BNK_OWNER_PEND d b then
    let t := s.ax .bankTarget d b - 1
    s.bankPass d b (t / 256) (t % 256)
  else s

/-- The part moves a bank to a new owner of its own accord: at once where no zeroing is needed, otherwise the zeroing
begins (R366, R369). -/
def State.bankMove (s : State) (d b kind id : Nat) : State :=
  if s.zeroes d b kind id then
    let s := (s.wr .BNK_OWNER_PEND 1 d b).setAx .bankTarget (1 + 256 * kind + id) d b
    if s.rdb .BNK_OWNER_ZEROING d b then s else s.bankZeroStart d b
  else s.bankPass d b kind id

/-- A bank that can be given out: FREE with no handover or zeroing under way, and under firmware management (R14). -/
def State.bankFree (s : State) (d b : Nat) : Bool :=
  !s.rdb .BNK_STAT_EXPERT d && s.rd .BNK_OWNER_CUR_KIND d b = ownFree && !s.rdb .BNK_OWNER_PEND d b && !s.rdb .BNK_OWNER_ZEROING d b

/-- The lowest run of n free banks of a die. -/
def State.freeBanks (s : State) (d n : Nat) : Option Nat :=
  findLow (81 - n) (fun b => (List.range n).all (fun k => s.bankFree d (b + k)))

/-- Firmware moves the banks b .. b+n-1 of die d to (kind, id). While the ownership is out of firmware management it moves none (R14):
HANDBACK then asks for the owners that are due. -/
def State.banksMove (s : State) (d b n kind id : Nat) : State :=
  if s.rdb .BNK_STAT_EXPERT d then s
  else s.each (List.range n) (fun s k => s.bankMove d (b + k) kind id)

/-- Bank granules of 8 bytes, and LPDDR5X blocks of 64, all of whose bytes are written lose their poison (R372, R381). -/
def clearPoison (p : SMap Bool) (st : SMap (Option Byte)) : SMap Bool :=
  p.filter (fun e => !((List.range (if devRegion e.1 = 1 then 64 else 8)).all (fun i => (st.get none (e.1 + i)).isSome)))

/-- Bytes in rising order of their keys are written. -/
def State.putBytes (s : State) (l : List (Nat × Byte)) : State :=
  { s with mem := l.foldl (fun m e => m.set 0 e.1 e.2) s.mem, poison := clearPoison s.poison (l.map (fun e => (e.1, some e.2))) }

/-! ## What reads meet (R371, R372, R376, R379 to R383) -/

/-- The granule of a bank or the block of LPDDR5X that holds a byte, by the key of its first byte (R372, R381). -/
def poisonKey (a : Nat) : Nat := if devRegion a = 0 then a / 8 * 8 else a / 64 * 64

/-- A byte of a range is poisoned. -/
def State.poisoned (s : State) (a n : Nat) : Bool :=
  (List.range n).any (fun i => s.poison.get false (poisonKey (a + i)))

/-- A granule or block whose bytes cannot be recovered: it is poisoned, and MEMORY_POISONED names its kind and offset (R372, R381,
R451). -/
def State.poisonAt (s : State) (k : Nat) : State :=
  ({ s with poison := s.poison.set false k true } : State).event 0x44 (devDie k) sevError
    ((if devRegion k = 0 then 1 else 2) + atByte 8 (devOff k))

/-- A double-bit error in a bank granule (R372). One that is poisoned already is not counted again. -/
def State.bankDouble (s : State) (a : Nat) : State :=
  let k := poisonKey a
  if s.poison.get false k then s
  else ((s.poisonAt k).bump .BNK_ECC_UNCORR_COUNT 1 (devDie k)).wr .BNK_ECC_ADDR_OFFSET (devOff k) (devDie k)

/-- Bytes of a channel of a die. All four channels match (R376). -/
def State.chanSize (s : State) (d : Nat) : Nat := s.rd .MEM_CAP_DEVICE_MIB d / 4 * 2 ^ 20

/-- The check word that a die holds for the 64-byte block at a die offset (R379, R380). -/
def State.blockCheck (s : State) (d o : Nat) : List Byte :=
  checkWord (chanAddr o) (leBytes 64 (s.load (lpddrAddr d o) 64))

/-- A byte at a channel address as the devices give it. -/
def readAs (x : List Flip) (d ch a : Nat) (b : Byte) : Byte :=
  ((x.find? (fun f => f.die == d && f.ch == ch && f.addr == a)).map (·.byte)).getD b

/-- The 64 data bytes of a block and the 8 bytes of its check word, each at its place in the channel, as the devices give them. -/
def State.rawBlock (s : State) (d o : Nat) (x : List Flip) : List Byte :=
  let a := chanAddr o
  (leBytes 64 (s.load (lpddrAddr d o) 64)).zipIdx.map (fun e => readAs x d (chanOf o) (a + e.2) e.1)
    ++ (s.blockCheck d o).zipIdx.map (fun e => readAs x d (chanOf o) (checkAddr (s.chanSize d) a + e.2) e.1)

/-- One block is read as the devices hold it. With inline ECC corrected data is written back and counted, and an uncorrectable block is
poisoned and recorded (R380, R381); without it the wrong bytes stand. -/
def State.readBlock (s : State) (d off : Nat) (x : List Flip) : State :=
  let o := off / 64 * 64
  let k := lpddrAddr d o
  let raw := s.rawBlock d o x
  if !s.rdb .MEM_STAT_IECC_ON d then s.store k 64 (ofLe (raw.take 64))
  else if s.poison.get false k then s
  else match rsRead (chanAddr o) raw with
    | .clean => s
    | .corrected data => (s.store k 64 (ofLe data)).bump .MEM_CORR_COUNT 1 d
    | .uncorrectable => ((s.poisonAt k).bump .MEM_UNCORR_COUNT 1 d).wr .MEM_UNCORR_ADDR_OFFSET o d

/-- The device address of the block that a wrong byte belongs to. -/
def State.flipBlock (s : State) (f : Flip) : Option Nat :=
  (blockOf (s.rdb .MEM_STAT_IECC_ON f.die) (s.chanSize f.die) f.addr).map (fun a => lpddrAddr f.die (offOfChan f.ch a))

/-- A range of a list touches the unit of u bytes that holds a byte. -/
def touches (l : List (Nat × Nat)) (u k : Nat) : Bool := l.any (fun r => decide (r.1 / u ≤ k / u ∧ k / u ≤ (r.1 + r.2 - 1) / u))

/-- Link ECC is in force on a die (R376). -/
def State.linkEcc (s : State) (d : Nat) : Bool := bit (s.ax .memInForce d - 1) 2

/-- What accesses to ranges of device memory meet on the way: corrections, uncorrectable errors, busy indications. -/
def State.meets (s : State) (x : Found) (l : List (Nat × Nat)) : State :=
  if x = Found.none then s
  else
    let on := fun g d => l.any (fun r => devRegion r.1 == g && devDie r.1 == d)
    let bank := fun k => devRegion k == 0 && touches l 8 k
    let s := s.each (x.single.filter bank) (fun s k => s.bump .BNK_ECC_CORR_COUNT 1 (devDie k))
    let s := s.each (x.double.filter bank) State.bankDouble
    let s := s.each (x.busy.filter (on 0)) (fun s d => s.bump .BNK_COLLIDE_COUNT 1 d)
    let s := s.each (x.lecc.filter (fun d => on 1 d && s.linkEcc d)) (fun s d => s.bump .MEM_LECC_COUNT 1 d)
    s.each (((x.flips.filterMap s.flipBlock).eraseDups).filter (touches l 64)) (fun s k => s.readBlock (devDie k) (devOff k) x.flips)

/-- A read of ranges of memory by the part: what it meets, and whether a read of host memory has failed, which AER logs (R387). -/
def State.reads (s : State) (x : Found) (l : List (Nat × Nat)) : Bool × State :=
  let s := s.meets x l
  match x.host with
  | some e => if l.any (fun r => devRegion r.1 == 2) then (true, s.aer e) else (false, s)
  | none => (false, s)

/-- A channel that a range lies in retrains: requests wait (R382, R383). -/
def State.retrains (s : State) (a n : Nat) : Bool :=
  devRegion a == 1 && (List.range (min 4 ((devOff a + n - 1) / 512 - devOff a / 512 + 1))).any (fun k =>
    s.rd .MEM_CH_STATE (devDie a) ((devOff a / 512 + k) % 4) == 2)

/-- The bytes of the banks of a die read 0, and no granule is poisoned. -/
def State.zeroBanks (s : State) (d : Nat) : State := s.clearRange (bankAddr d 0) (bankAddr d 0 + bankBytes)

/-- Start-up zeroes every bank before it first passes it to FREE (R369). -/
def State.startBanks (s : State) (d : Nat) : State :=
  (s.zeroBanks d).each (List.range 80) (fun s b =>
    ((((s.wr .BNK_OWNER_CUR_KIND ownFree d b).wr .BNK_OWNER_CUR_ID 0 d b).wr .BNK_OWNER_PEND 0 d b).wr .BNK_OWNER_ZEROING 0 d b).setAx
      .bankTarget 0 d b)

/-! ## Holdings and quotas -/

/-- Resource kinds of R417. -/
abbrev resQP : Nat := 1
abbrev resFeedq : Nat := 2
abbrev resBank : Nat := 3
abbrev resLpddr : Nat := 4

def sumBy {α : Type} (l : List α) (f : α → Nat) : Nat := (l.map f).foldl (· + ·) 0

/-- Allocated units of a RES_ALLOC kind (1 FEEDQ, 2 BANK, 3 LPDDR). -/
def State.allocated (s : State) (fn kind : Nat) : Nat :=
  sumBy (s.allocs.filter (fun a => a.fn == fn && a.kind == kind)) (·.count)

/-- What a function holds of a resource kind (R408): staging pages and programs count as LPDDR5X pages, running job
scratch as banks. -/
def State.held (s : State) (fn kind : Nat) : Nat :=
  if kind = resQP then (s.qps.filter (fun e => match e.2 with | some q => q.fn == fn | none => false)).length
  else if kind = resFeedq then s.allocated fn 1
  else if kind = resBank then
    s.allocated fn 2 + sumBy (s.jobs.filter (fun j => j.fn == fn)) (fun j => sumBy j.scratch (fun x => x.2.2))
  else s.allocated fn 3 + sumBy (s.progs.filter (fun p => p.fn == fn)) (·.pages)
    + sumBy (s.jobs.filter (fun j => j.fn == fn)) (fun j => j.pages.length)

/-- The quota of a function for a resource kind (FNQ). -/
def State.quota (s : State) (fn kind : Nat) : Nat :=
  if kind = resQP then s.rd .FNQ_Q0_QP fn
  else if kind = resFeedq then s.rd .FNQ_Q0_FEEDQ fn
  else if kind = resBank then s.rd .FNQ_Q1_BANKS fn
  else s.rd .FNQ_Q2_PAGES fn

/-- Holdings that came back within their quota clear FNQ_OVERf and raise QUOTA_WITHIN (R409). -/
def State.quotaRecheck (s : State) (fn : Nat) : State :=
  s.each [1, 2, 3, 4] (fun s k =>
    if bit (s.rd .FNQ_OVER_KIND fn) (k - 1) && s.held fn k ≤ s.quota fn k then
      (s.wr .FNQ_OVER_KIND (setBit (s.rd .FNQ_OVER_KIND fn) (k - 1) false) fn).tenancy fn 0x61 sevInfo
        (fn + atByte 1 k + atByte 4 (s.held fn k) + atByte 8 (s.quota fn k))
    else s)

/-! ## LPDDR5X pages -/

/-- 4 KiB pages of a die that lie below its image store (R292). -/
def State.pagesBelowStore (s : State) (d : Nat) : Nat :=
  (s.installed d - s.rd .PRG_STORE_GIB d * 2 ^ 30) / 4096

/-- Runs of pages that are taken on a die: allocations, Gusset regions, program copies (R208) and staging pages (R219). -/
def State.takenRuns (s : State) (d : Nat) : List (Nat × Nat) :=
  (s.allocs.filter (fun a => a.kind == 3 && a.die == d)).map (fun a => (a.first, a.count))
    ++ (s.panels.filter (fun p => p.die == d)).map (fun p => (p.first, p.count))
    ++ s.progs.flatMap (fun p => (p.copies.filter (fun c => c.1 == d)).map (fun c => (c.2, p.pages)))
    ++ s.jobs.flatMap (fun j => (j.pages.filter (fun x => x.2.1 == d)).map (fun x => (x.2.2, 1)))

/-- The lowest run of n free pages of a die. -/
def State.freePages (s : State) (d n : Nat) : Option Nat :=
  let used := s.takenRuns d
  let cands := 0 :: used.map (fun a => a.1 + a.2)
  let ok := fun p => decide (p + n ≤ s.pagesBelowStore d) &&
    used.all (fun a => decide (p + n ≤ a.1) || decide (a.1 + a.2 ≤ p))
  (cands.filter ok).foldl (fun m p => match m with | none => some p | some q => some (min p q)) none

/-! ## Program copies (R208; log entry 12) -/

/-- A copy of a program takes the lowest free pages of a die and holds the object's bytes. A die without room holds none. -/
def State.copyProg (s : State) (h d : Nat) (obj : List Byte) : State :=
  match s.freePages d (cdiv obj.length 4096) with
  | none => s
  | some p =>
    let s : State := { s with progs := s.progs.map (fun q => if q.handle = h then { q with copies := q.copies ++ [(d, p)] } else q) }
    s.putBytes (obj.zipIdx.map (fun e => (lpddrAddr d (p * 4096) + e.2, e.1)))

/-- Bytes of a program object: its header, its code words and its data. -/
def Prog.size (p : Prog) : Nat := 64 + 8 * p.code.length + p.data.length

/-- A die that has come online takes copies of the loaded programs from another die. -/
def State.copyPrograms (s : State) (d : Nat) : State :=
  s.each s.progs (fun s p => match p.copies.find? (fun c => c.1 != d) with
    | none => s
    | some c => s.copyProg p.handle d ((List.range p.size).map (fun i => s.byte (lpddrAddr c.1 (c.2 * 4096) + i))))

/-- The copies on a die are lost with it. -/
def State.dropCopiesOn (s : State) (d : Nat) : State :=
  { s with progs := s.progs.map (fun p => { p with copies := p.copies.filter (fun c => c.1 != d) }) }

end Sys2Proof.Machine
end

