-- ==== Sys2Proof/Machine/Jobs.lean ====
section
/-!
DEFINITION. Machine/Jobs.lean: the life of a job: placement and start (R186 to R196, R402 to R405), staged writes (R219),
faults, restarts and ends (R223, R224, R418 to R422), and commit (R220).
-/

namespace Sys2Proof.Machine

/-! ## Jobs in the state -/

def State.job (s : State) (id : Nat) : Option Job := s.jobs.find? (fun j => j.id == id)

/-- Change the job with an identifier. -/
def State.updJob (s : State) (id : Nat) (f : Job → Job) : State :=
  { s with jobs := s.jobs.map (fun j => if j.id = id then f j else j) }

def Job.task (j : Job) (n : Nat) : Option Task := j.tasks.find? (fun t => t.num == n)

def Job.updTask (j : Job) (n : Nat) (f : Task → Task) : Job :=
  { j with tasks := j.tasks.map (fun t => if t.num = n then f t else t) }

def State.updTask (s : State) (id n : Nat) (f : Task → Task) : State := s.updJob id (fun j => j.updTask n f)

def State.prog (s : State) (h : Nat) : Option Prog := s.progs.find? (fun p => p.handle == h)

/-- The deadline by which work is ranked: a job without a deadline ranks as 2^64 - 1 (R405). -/
def rankDeadline (d : Nat) : Nat := if d = 0 then 2 ^ 64 - 1 else d

/-- A job is running: it holds sequencers, scratch and a run tag. -/
def Job.active (j : Job) : Bool := j.st == .running || j.st == .committing || j.st == .ackWait

def State.addJobFlag (s : State) (id fl : Nat) : State := s.updJob id (fun j => { j with flags := addFlag j.flags fl })

/-- A job is late by `n` ns: LATE, and the largest lateness is kept (R406). -/
def State.jobLate (s : State) (id n : Nat) : State :=
  s.updJob id (fun j => { j with flags := addFlag j.flags flLate, lateness := max j.lateness n })

/-! ## Placement of tasks -/

/-- Dies that hold a tile of any slot of a mask (PLACE = NEAR, R189). -/
def State.diesOfSlots (s : State) (slots : Nat) : List Nat :=
  s.onlineDies.filter (fun d => s.placed.any (fun p => p.die == d && bit slots p.slot))

/-- The dies that PLACE allows (R189). -/
def State.allowedDies (s : State) (p : Prog) (slots : Nat) : List Nat :=
  if p.place = 1 then
    let l := s.diesOfSlots slots
    if l.isEmpty then s.onlineDies else l
  else if p.place = 2 then s.onlineDies.filter (fun d => bit p.dieMask d)
  else s.onlineDies

/-- The sequencers of a die that jobs of a class may use at all (R188, R190): not those of a die that is drained or whose SEQ block is
gated, nor a failed one (R425, R460; SEQ_CTRL.DRAIN). -/
def State.seqsFor (s : State) (cls d : Nat) : List Nat :=
  if s.rdb .SEQ_CTRL_DRAIN d || !(bit (s.rd .CLK_GATE_BLK 0 d) 0) then []
  else (List.range 8).filter (fun n => (cls == 0 || decide (n < 8 - s.rd .SEQ_CFG_RESERVE0 d)) && s.ax .seqFailed d n == 0)

/-- Sequencers that a job could ever use (R190). -/
def State.seqCapacity (s : State) (p : Prog) (cls slots : Nat) : Nat :=
  sumBy (s.allowedDies p slots) (fun d => (s.seqsFor cls d).length)

/-- A sequencer runs no task (SEQ_TASKn.STATE = IDLE). -/
def State.seqIdle (s : State) (d n : Nat) : Bool := s.rd .SEQ_TASK_STATE d n == 0

/-- Placement of tasks i .. i+n-1 in turn over the allowed dies, each in the lowest free sequencer (R189). -/
def State.placeTasks (s : State) (cls : Nat) (dies : List Nat) :
    Nat → Nat → List (Nat × Nat) → Option (List (Nat × Nat))
  | 0, _, acc => some acc.reverse
  | n + 1, i, acc =>
    let d := dies.getD (i % dies.length) 0
    match (s.seqsFor cls d).find? (fun q => s.seqIdle d q && !(acc.contains (d, q))) with
    | none => none
    | some q => s.placeTasks cls dies n (i + 1) ((d, q) :: acc)

/-- Order of the dispatcher: class, then deadline, then submission (R187). -/
def Job.before (a b : Job) : Bool :=
  let ka := rankDeadline a.deadline
  let kb := rankDeadline b.deadline
  decide (a.cls < b.cls) || (a.cls == b.cls && (decide (ka < kb) || (ka == kb && decide (a.order < b.order))))

/-- Insertion into a list in dispatch order. -/
def insertJob (j : Job) : List Job → List Job
  | [] => [j]
  | k :: t => if j.before k then j :: k :: t else k :: insertJob j t

/-- The waiting jobs in dispatch order. A handover stops the dispatch of its functions (R449). -/
def State.waitingJobs (s : State) : List Job :=
  (s.jobs.filter (fun j => j.st == .waiting && s.ax .handing j.fn == 0)).foldl (fun l j => insertJob j l) []

/-! ## Staged writes -/

/-- Key range of the job scratch that a job holds: (first key, bytes). -/
def Job.scratchRanges (j : Job) : List (Nat × Nat) :=
  j.scratch.map (fun x => (bankAddr x.1 (x.2.1 * 0x80000), x.2.2 * 0x80000))

def inRanges (l : List (Nat × Nat)) (k n : Nat) : Bool := l.any (fun r => decide (r.1 ≤ k) && decide (k + n ≤ r.1 + r.2))

/-- A byte as the job sees it: its own staged write, or memory (R219). -/
def State.jobByte (s : State) (j : Job) (k : Nat) : Byte := (j.staged.get none k).getD (s.byte k)

/-- n bytes as the job sees them. -/
def State.jobLoad (s : State) (j : Job) (k n : Nat) : Nat := ofLe ((List.range n).map (fun i => s.jobByte j (k + i)))

def stageBytes (m : SMap (Option Byte)) (k : Nat) : List Byte → SMap (Option Byte)
  | [] => m
  | b :: t => stageBytes (m.set none k (some b)) (k + 1) t

/-- What a job writes at its commit: its copies of the trackers that it has used, under what it has staged (R148, R219, R220). -/
def Job.outputs (j : Job) : SMap (Option Byte) :=
  j.staged.foldl (fun m e => m.set none e.1 e.2)
    (j.trk.foldl (fun m e => match e.2 with | some t => stageBytes m e.1 (leBytes 128 t) | none => m) [])

/-- A free LPDDR5X page of an online die for staging (R219). The part chooses the die: here the lowest one that has a page (log
entry 12). -/
def State.stagingPage (s : State) : Option (Nat × Nat) :=
  s.onlineDies.findSome? (fun d => (s.freePages d 1).map (fun p => (d, p)))

/-- A staging page for each of a list of destination pages; none where they cannot all be had. -/
def State.takeStaging (s : State) (id : Nat) : List Nat → Option State
  | [] => some s
  | p :: l => match s.stagingPage with
    | none => none
    | some x => (s.updJob id (fun j => { j with pages := j.pages ++ [(p, x)] })).takeStaging id l

/-- A write by a job: its bytes in the job's scratch at once, the others staged (R218, R219). The answer says whether it was done; it is
not done, with cause STAGING_FULL, when a new staging page is needed and none may be had. -/
def State.jobStore (s : State) (id k n v : Nat) : Bool × State :=
  match s.job id with
  | none => (true, s)
  | some j =>
    let l := (leBytes n v).zipIdx.map (fun e => (k + e.2, e.1))
    let x := l.partition (fun e => inRanges j.scratchRanges e.1 1)
    let new := ((x.2.map (fun e => e.1 / 4096)).eraseDups).filter (fun p => !(j.pages.any (fun x => x.1 == p)))
    if new ≠ [] ∧ s.held j.fn resLpddr + new.length > s.quota j.fn resLpddr then (false, s)
    else match s.takeStaging id new with
      | none => (false, s)
      | some s => (true, (s.putBytes x.1).updJob id (fun j => { j with
          staged := x.2.foldl (fun m e => m.set none e.1 (some e.2)) j.staged }))

/-- A signal-like write without a new page check: used where the page is known to be held. -/
def State.jobStore' (s : State) (id k n v : Nat) : State := (s.jobStore id k n v).2

/-- Release of the staging pages (R219), and of the tracker copies. -/
def State.dropStaging (s : State) (id : Nat) : State :=
  s.updJob id (fun j => { j with staged := [], trk := [], pages := [] })

/-- Staged bytes in order, with those of device memory before those of host memory (R220 steps 3 and 4). -/
def applyStaged (m : SMap Byte) : SMap (Option Byte) → SMap Byte
  | [] => m
  | (k, v) :: t => applyStaged (match v with | some b => m.set 0 k b | none => m) t

/-- All staged writes become visible at one instant (R220). -/
def State.commitStaged (s : State) (id : Nat) : State :=
  match s.job id with
  | none => s
  | some j => { s with mem := applyStaged s.mem j.outputs, poison := clearPoison s.poison j.outputs }

/-! ## Ends, faults and restarts -/

/-- The sequencers of a job become idle; SEQ_JOBn and SEQ_PCn keep the last job (SEQ registers). -/
def State.freeSeqs (s : State) (j : Job) : State :=
  s.each j.tasks (fun s t => s.wr .SEQ_TASK_STATE 0 t.die t.seq)

/-- The scratch banks of a job pass to FREE, zeroed (R366, R369). -/
def State.freeScratch (s : State) (j : Job) : State :=
  s.each j.scratch (fun s x => s.banksMove x.1 x.2.1 x.2.2 ownFree 0)

/-- Conversions of a request are outstanding. -/
def State.outstanding (s : State) (no : Nat) : Bool :=
  s.tiles.any (fun e => e.2.flights.any (fun f => f.what != .check && f.what != .cal && f.req == no))

/-- A reverse stitch is partway through its 8 periods (R170, R176). -/
def Req.partway (r : Req) : Bool := r.rev && (r.st == .fired || r.st == .repeatDue) && decide (r.left > 0)

/-- The stitch requests of a job are void (R224): queued ones, due passes and repeats leave; what has fired runs out its stitch,
and a reverse stitch under way keeps its tiles to the end. -/
def State.voidRequests (s : State) (id : Nat) : State :=
  let keep := s.reqs.filter (fun r => r.job != id || s.outstanding r.no || r.partway)
  { s with reqs := keep.map (fun r => if r.job = id then { r with dead := true } else r),
           tix := s.tix.filter (fun x => x.job != id) }

/-- No job has this identifier. -/
abbrev noJob : Nat := 2 ^ 64

/-- The operations of a job are dropped; the result of one under way is discarded. Maintenance operations that have begun
run to their end for the unit (R224). -/
def State.voidOps (s : State) (id : Nat) : State :=
  { s with ops := (s.ops.filter (fun o => o.job != id || (o.unit == .maint && o.running))).map (fun o =>
      if o.job = id then { o with job := noJob } else o) }

/-- What a job holds while it runs is released: operations, requests, sequencers, scratch, staging. -/
def State.releaseJob (s : State) (j : Job) : State :=
  ((((s.voidRequests j.id).voidOps j.id).freeSeqs j).freeScratch j).dropStaging j.id

/-- A job ends with a status: it is released, leaves the list and posts its completion (R221, R400). -/
def State.endJob (s : State) (id st : Nat) : State :=
  match s.job id with
  | none => s
  | some j =>
    let s := s.releaseJob j
    let s : State := { s with jobs := s.jobs.filter (fun k => k.id != id) }
    (s.complete j.q j.cid j.event j.vec id st j.flags (if st = stOK then j.cpost else 0) j.lateness j.cause j.restarts j.slotNo).quotaRecheck
      j.fn

/-- A job ends without a completion (R412, R484). -/
def State.endJobSilently (s : State) (id : Nat) : State :=
  match s.job id with
  | none => s
  | some j =>
    let s := s.releaseJob j
    let s : State := { s with jobs := s.jobs.filter (fun k => k.id != id) }
    match s.qp j.q with
    | some q => (s.setQp j.q (some { q with outstanding := q.outstanding - 1 })).quotaRecheck j.fn
    | none => s.quotaRecheck j.fn

/-- R190: a waiting job that can never start completes with MALFORMED. -/
def State.neverStarts (s : State) (j : Job) : Bool :=
  match s.prog j.handle with
  | none => true
  | some p => decide (p.tasks > s.seqCapacity p j.cls j.slots)

/-- A job's attempt is over, and it waits for another (R224, R449). -/
def State.backToQueue (s : State) (j : Job) : State :=
  ((s.releaseJob j).updJob j.id (fun j => { j with
    st := .waiting, flags := addFlag j.flags flRestarted, tasks := [], scratch := [], trk := [], steps := [], cpostAt := none, cpost := 0,
    paused := s.now, onMap := 0 })).quotaRecheck j.fn

/-- A restart (R224, R420): what the job holds is released, its staged writes are discarded, and it waits again with its
place in the order of R187 and its deadline. -/
def State.restartJob (s : State) (id : Nat) : State :=
  match s.job id with
  | none => s
  | some j => ((s.backToQueue j).updJob id (fun j => { j with restarts := j.restarts + 1 })).bump .FLT_RESTARTS_COUNT

/-- A fault of a job (R418, R419): it restarts, or ends with its restarts exhausted. Only a running job can fault; faults
after the first find it no longer running. -/
def State.faultJob (s : State) (id cause : Nat) : State :=
  match s.job id with
  | none => s
  | some j =>
    if !j.active ∨ j.st = .ackWait then s
    else
      let other := j.otherFault || cause != cScale
      let s := s.updJob id (fun j => { j with cause := cause, otherFault := other })
      if j.restarts < j.maxRestarts then s.restartJob id
      else (s.bump .FLT_EXHAUSTED_COUNT).endJob id (if other then stRestartExhausted else stScaleMismatch)

/-- A job that has not committed ends at once with TILE_RETIRED_NO_SPARE, without restart; the fault is one of a unit (R73, R419, R422). -/
def State.loseJob (s : State) (id : Nat) : State :=
  match s.job id with
  | none => s
  | some j => if !j.active ∨ j.st = .ackWait then s else (s.updJob id (fun j => { j with cause := cUnit })).endJob id stTileRetired

def State.faultJobs (s : State) (ids : List Nat) (cause : Nat) : State := s.each ids (fun s i => s.faultJob i cause)

/-- A trap of a task (R223): SEQ_TRAPn records it, and the job faults. -/
def State.trap (s : State) (id task cause code : Nat) : State :=
  match (s.job id).bind (·.task task) with
  | none => s
  | some t =>
    ((((s.wr .SEQ_TRAP_CAUSE cause t.die t.seq).wr .SEQ_TRAP_CODE code t.die t.seq).wr .SEQ_TRAP_PC t.pc t.die t.seq)).faultJob
      id cause

/-! ## Commit -/

/-- Operations and requests of a job are all complete (R220 step 2). -/
def State.jobQuiet (s : State) (id : Nat) : Bool :=
  !(s.ops.any (fun o => o.job == id)) && !(s.reqs.any (fun r => r.job == id && !r.dead))

/-- Steps 3 to 6 of R220. -/
def State.commitJob (s : State) (id : Nat) : State := (s.commitStaged id).endJob id stOK

/-! ## Start -/

/-- Device address of the job scratch on a die, or 0 (R195). -/
def Job.scratchBase (j : Job) (d : Nat) : Nat :=
  match j.scratch.find? (fun x => x.1 == d) with
  | some x => bankAddr d (x.2.1 * 0x80000)
  | none => 0

def Job.scratchSize (j : Job) (d : Nat) : Nat :=
  match j.scratch.find? (fun x => x.1 == d) with
  | some x => x.2.2 * 0x80000
  | none => 0

/-- A task at its start (R195, R196). -/
def initTask (p : Prog) (j : Job) (now n d q : Nat) : Task :=
  let g := [(1, n), (2, p.tasks), (3, d), (4, j.args), (5, j.scratchBase d), (6, j.deadline), (7, j.restarts)]
  { num := n, die := d, seq := q, pc := p.entry,
    g := g.foldl (fun m e => m.set 0 e.1 (e.2 % 2 ^ 64)) [], p := [],
    td := (List.range p.descInit).foldl (fun m k =>
      m.set ⟨0, false⟩ k ⟨ofLe ((p.data.drop (64 * k)).take 64), true⟩) [],
    ret := [], loops := [], last := 0, opened := [], fabric := [], res := [], wait := .run, progress := now }

/-- The scratch of a job on each die of a placement: the lowest run of free banks (R209; log entry 13). -/
def State.scratchFor (s : State) (n : Nat) (dies : List Nat) : Option (List (Nat × Nat × Nat)) :=
  if n = 0 then some []
  else dies.eraseDups.foldl (fun acc d => match acc, s.freeBanks d n with
    | some l, some b => some (l ++ [(d, b, n)])
    | _, _ => none) (some [])

/-- The lowest run tag that no running job holds (R366). -/
def State.freeTag (s : State) : Nat :=
  (findLow 64 (fun t => !(s.jobs.any (fun j => j.active && j.runTag == t)))).getD 0

/-- The task's state in SEQ_TASKn, SEQ_JOBn and SEQ_PCn. -/
def State.showTask (s : State) (j : Job) (t : Task) (st : Nat) : State :=
  (((((s.wr .SEQ_TASK_STATE st t.die t.seq).wr .SEQ_TASK_FUNC j.fn t.die t.seq).wr .SEQ_TASK_CLASS j.cls t.die t.seq).wr
    .SEQ_TASK_TASK t.num t.die t.seq).wr .SEQ_JOB_JOB j.id t.die t.seq).wr .SEQ_PC_PC t.pc t.die t.seq

/-- All tasks of a job start together (R186). LATE is set by a first start after AT (R403) and by a start after the deadline (R404, R420);
the lateness counts the latter under RUN_LATE (R406). -/
def State.startJob (s : State) (j : Job) (p : Prog) (places : List (Nat × Nat)) (scratch : List (Nat × Nat × Nat)) : State :=
  let tag := s.freeTag
  let late := (if j.started.isNone ∧ j.at' ≠ 0 ∧ s.now > j.at' then s.now - j.at' else 0)
  let overdue := (if j.deadline ≠ 0 ∧ s.now > j.deadline then s.now - j.deadline else 0)
  let fl := if late ≠ 0 ∨ overdue ≠ 0 then addFlag j.flags flLate else j.flags
  let j := { j with st := .running, runTag := tag, scratch := scratch, flags := fl,
                    lateness := max j.lateness (max late (if j.runLate then overdue else 0)),
                    started := some (match j.started with | none => s.now | some t => t + (s.now - j.paused)),
                    maxRestarts := if j.started.isNone then s.rd .JOB_CFG_RESTARTS j.fn else j.maxRestarts,
                    watchdog := if j.started.isNone then s.rd .JOB_CFG_WATCHDOG j.fn else j.watchdog }
  let j := { j with tasks := (places.zipIdx).map (fun e => initTask p j s.now e.2 e.1.1 e.1.2) }
  let s := s.updJob j.id (fun _ => j)
  let s := s.each scratch (fun s x => s.banksMove x.1 x.2.1 x.2.2 ownSequencer tag)
  s.each j.tasks (fun s t => s.showTask j t 1)

/-- A slot whose active map has a part on an offline die is lost (R428). -/
def State.slotLost (s : State) (slot : Nat) : Bool := s.ax .slotLost 0 slot != 0

/-- Slots of a 64-bit mask. -/
def slotsOf (m : Nat) : List Nat := (List.range 64).filter (fun i => bit m i)

/-- The dispatcher looks at one waiting job (R187, R402, R404, R410, R428): the answer is true when it acted on it (started
or completed it); `none` when sequencers are short, so that every later job is blocked. A job that has started before and whose mask names
no online die waits and blocks none (log entry 146). -/
def State.tryDispatch (s : State) (j : Job) : Option (Bool × State) :=
  match s.prog j.handle with
  | none => some (true, s.endJob j.id stMalformed)
  | some p =>
    let dies := s.allowedDies p j.slots
    if dies.isEmpty then
      if (slotsOf j.slots).any s.slotLost then some (true, s.endJob j.id stTileRetired) else some (false, s)
    else match s.placeTasks j.cls dies p.tasks 0 [] with
    | none => none
    | some places =>
      let ds := (places.map (·.1)).eraseDups
      if (slotsOf j.slots).any s.slotLost then some (true, s.endJob j.id stTileRetired)
      else if p.scratchBanks * ds.length + s.held j.fn resBank > s.quota j.fn resBank then
        some (true, s.endJob j.id stRejectedQuota)
      else match s.scratchFor p.scratchBanks (places.map (·.1)) with
        | none => some (false, s)
        | some scratch =>
          if j.deadline ≠ 0 ∧ s.now > j.deadline ∧ j.runLate = false ∧ j.restarts = 0 then
            some (true, s.endJob j.id stDeadlineExpired)
          else if (s.jobs.filter (·.active)).length ≥ 64 then some (false, s)
          else some (true, s.startJob j p places scratch)

/-- The dispatcher takes the first job in order that it can act on; a job short of sequencers blocks every later one. -/
def State.dispatchFrom (s : State) : List Job → State
  | [] => s
  | j :: t => match s.tryDispatch j with
    | none => s
    | some (true, s') => s'
    | some (false, _) => s.dispatchFrom t

end Sys2Proof.Machine
end

