-- ==== Sys2Proof/Machine/Tickets.lean ====
section
/-!
DEFINITION. Machine/Tickets.lean: the registers of a task (R193), its waits, and the completion of tickets (R212, R228, R234,
R235).
-/

namespace Sys2Proof.Machine

/-! ## Task registers (R193) -/

/-- A scalar register; g0 reads 0. -/
def Task.gr (t : Task) (n : Nat) : Nat := if n = 0 then 0 else t.g.get 0 n

/-- Write a scalar register; a write to g0 is discarded. -/
def Task.setG (t : Task) (n v : Nat) : Task := if n = 0 then t else { t with g := t.g.set 0 n (v % 2 ^ 64) }

/-- A predicate; p0 reads 1. -/
def Task.pr (t : Task) (n : Nat) : Bool := if n = 0 then true else t.p.get false n

/-- Write a predicate; a write to p0 is discarded. -/
def Task.setP (t : Task) (n : Nat) (b : Bool) : Task := if n = 0 then t else { t with p := t.p.set false n b }

/-- A tensor descriptor register. -/
def Task.tr (t : Task) (n : Nat) : TDesc := t.td.get ⟨0, false⟩ n

def Task.setT (t : Task) (n : Nat) (d : TDesc) : Task := { t with td := t.td.set ⟨0, false⟩ n d }

/-! ## Waits -/

/-- Code of SEQ_TASKn.STATE. -/
def waitCode : TWait → Nat
  | .run => 1
  | .ticket _ _ => 2
  | .fence => 2
  | .mem _ _ _ _ => 3
  | .bar => 4
  | .feed _ _ _ => 5
  | .halted => 6

/-- A task begins or ends a wait. -/
def State.setWait (s : State) (job : Nat) (t : Task) (w : TWait) : State :=
  (s.updTask job t.num (fun t => { t with wait := w, progress := s.now })).wr .SEQ_TASK_STATE (waitCode w) t.die t.seq

/-! ## Completion of tickets -/

/-- The result word of a ticket: kept until 64 later tickets have issued (R235). -/
def Task.resultOf (t : Task) (n : Nat) : Nat := if n + 64 ≤ t.last then 0 else t.res.get 0 n

/-- An operation completes: its ticket closes with a result word; a task waiting on it, or on all of them, goes on. -/
def State.ticketDone (s : State) (job task n word : Nat) : State :=
  match (s.job job).bind (·.task task) with
  | none => s
  | some t =>
    let s := s.updTask job task (fun t => { t with
      opened := t.opened.filter (fun k => k != n), res := t.res.set 0 n word })
    match t.wait with
    | .ticket k d =>
      if k = n then
        (s.setWait job t .run).updTask job task (fun t => { t.setG d word with pc := (t.pc + 1) % 2 ^ 17, res := t.res.set 0 n 0 })
      else s
    | .fence => if t.opened.filter (fun k => k != n) = [] then s.setWait job t .run else s
    | _ => s

/-- The next number in the order of issue (R169, R272), and the state after it. -/
def State.nextIssue (s : State) : Nat × State := (s.ax .opCount, s.setAx .opCount (s.ax .opCount + 1))

/-- An operation leaves its unit and completes. -/
def State.opDone (s : State) (o : Op) (word : Nat) : State :=
  let s : State := { s with ops := s.ops.filter (fun k => k.issue != o.issue) }
  s.ticketDone o.job o.task o.ticket word

end Sys2Proof.Machine
end

