-- ==== Sys2Proof/Machine/HostIf.lean ====
section
/-!
DEFINITION. Machine/HostIf.lean: the host interface (14_host_interface.md): queue pairs, descriptors, commands on jobs and
resources, quotas and grants, function resets, BAR2, event rings and interrupts.
-/

namespace Sys2Proof.Machine

/-! ## Functions, entries and pairs -/

/-- The function whose registers a master's write reaches: the chain and the PF write the PF's. -/
def ownFn (m : Master) : Nat := masterFn m

/-- The package queue pair bound to an entry of a function. -/
def State.pairOf (s : State) (fn entry : Nat) : Option Nat :=
  (s.qps.find? (fun e => match e.2 with | some q => q.fn == fn && q.entry == entry | none => false)).map (·.1)

/-- A write to the function page, a queue-pair entry or FNQ was refused (FN_STAT.REFUSED). -/
def State.fnRefused (s : State) (fn : Nat) : State := s.wr .FN_STAT_REFUSED 1 fn

/-- A function for which this member is STANDBY (R438). -/
def State.standby (s : State) (fn : Nat) : Bool := s.rd .MIR_FN_ROLE 0 fn == 2

/-- Entries a function has: 4,096 for the PF, 896 for a VF (R388). -/
def entryCount (fn : Nat) : Nat := if fn = 0 then 4096 else 896

/-! ## Queue pairs -/

/-- The PF's entry is a package queue pair that is bound to a VF, and so read-only to the PF (R391). -/
def State.foreignEntry (s : State) (fn entry : Nat) : Bool := fn == 0 && (s.qp entry).any (fun p => p.fn != 0)

/-- QP_CFG.ENABLE = 1 (R391). -/
def State.qpEnable (s : State) (fn entry sq cq : Nat) : State :=
  if entry ≥ entryCount fn then s
  else if s.foreignEntry fn entry then s.fnRefused 0
  else if s.standby fn then s.fnRefused fn
  else if s.rd .QP_STAT_STATE fn entry ≠ 0 ∨ sq < 4 ∨ sq > 12 ∨ cq < 4 ∨ cq > 12 then s.fnRefused fn
  else
    let q? := if fn = 0 then (if (s.qp entry).isNone then some entry else none)
      else findLow 4096 (fun q => (s.qp q).isNone)
    match q? with
    | some q =>
      if s.held fn resQP ≥ s.quota fn resQP then (s.fnRefused fn).wr .QP_STAT_CODE stRejectedQuota fn entry
      else
        let s := s.setQp q (some ⟨fn, entry, 0, 0, 0, none⟩)
        State.sendPointers ((((((((((s.wr .QP_CFG_ENABLE 1 fn entry).wr .QP_CFG_FUNC fn fn entry).wr .QP_CFG_WINDOW
          (if fn = 0 then 0 else entry) fn entry).wr .QP_CFG_SQLOG2 sq fn entry).wr .QP_CFG_CQLOG2 cq fn entry).wr
          .QP_SQTAIL_INDEX 0 fn entry).wr .QP_CQHEAD_INDEX 0 fn entry).wr .QP_STAT_SQHEAD 0 fn entry).wr .QP_STAT_ERROR 0
          fn entry).wr .QP_STAT_STATE 1 fn entry) q
    | none => (s.fnRefused fn).wr .QP_STAT_CODE stRejectedQuota fn entry

/-- Commands of a pair that are fetched and not running end with a status; jobs that have not committed are aborted
(R395, R411). -/
def State.qpAbort (s : State) (q st : Nat) : State :=
  let cs := s.cmds.filter (fun c => c.q == q && c.st != .running)
  let s := s.each cs (fun s c => s.completeCmd c st 0)
  let js := s.jobs.filter (fun j => j.q == q && j.st != .ackWait)
  s.each js (fun s j => s.endJob j.id st)

/-- QP_CFG.ENABLE = 0 (R395): the pair drains. -/
def State.qpDisable (s : State) (fn entry st : Nat) : State :=
  if s.foreignEntry fn entry then s.fnRefused 0
  else match s.pairOf fn entry with
  | none => s
  | some q =>
    if s.rd .QP_STAT_STATE fn entry = 2 then s
    else ((s.wr .QP_CFG_ENABLE 0 fn entry).wr .QP_STAT_STATE 2 fn entry).qpAbort q st

/-- The last completion has been written: the pair becomes DISABLED and free (R395). -/
def State.qpDrained (s : State) (q : Nat) : State :=
  match s.qp q with
  | none => s
  | some p =>
    if p.outstanding = 0 ∧ s.rd .QP_STAT_STATE p.fn p.entry = 2 then
      ((((s.setQp q none).wr .QP_STAT_STATE 0 p.fn p.entry).wr .QP_CFG_FUNC 0 p.fn p.entry).wr .QP_CFG_WINDOW 0 p.fn
        p.entry).quotaRecheck p.fn
    else s

/-- The pair enters ERROR and QUEUE_ERROR is raised (R394). -/
def State.qpError (s : State) (fn entry code : Nat) : State :=
  ((s.wr .QP_STAT_STATE 3 fn entry).wr .QP_STAT_ERROR code fn entry).tenancy fn 0x65 sevWarning
    (fn + atByte 2 entry + atByte 4 code)

/-- The submission doorbell (R392, R394, R441). -/
def State.sqTail (s : State) (fn entry v : Nat) : State :=
  if s.standby fn then s.sendFlit 6 (fn + atByte 2 entry + atByte 4 v) 6
  else if s.rd .QP_STAT_STATE fn entry ≠ 1 then s
  else
    let n := 2 ^ s.rd .QP_CFG_SQLOG2 fn entry
    let h := s.rd .QP_STAT_SQHEAD fn entry
    let t := s.rd .QP_SQTAIL_INDEX fn entry
    if v ≥ n then s.qpError fn entry 1
    else if (v + n - h) % n < (t + n - h) % n then s.qpError fn entry 3
    else (s.wr .QP_SQTAIL_INDEX v fn entry).each (s.pairOf fn entry).toList State.sendPointers

/-- Completions of a pair that are written without a gap: the slot that a commit record has reserved is not written yet (R442). -/
def State.writtenUpTo (s : State) (q : Nat) (p : QpSt) : Nat :=
  (s.jobs.filter (fun j => j.q == q)).foldl (fun m j => match j.slotNo with | some k => min m k | none => m) p.completed

/-- Completions written and not yet consumed, as the two indices show. -/
def State.unread (s : State) (q : Nat) : Nat :=
  match s.qp q with
  | none => 0
  | some p =>
    let n := 2 ^ s.rd .QP_CFG_CQLOG2 p.fn p.entry
    (s.writtenUpTo q p % n + n - s.rd .QP_CQHEAD_INDEX p.fn p.entry) % n

/-- The completion doorbell (R393, R394, R441). -/
def State.cqHead (s : State) (fn entry v : Nat) : State :=
  if s.standby fn then s.sendFlit 6 (fn + atByte 2 entry + atByte 4 v + atByte 6 1) 7
  else if s.rd .QP_STAT_STATE fn entry ≠ 1 then s
  else match s.pairOf fn entry with
    | none => s
    | some q =>
      let n := 2 ^ s.rd .QP_CFG_CQLOG2 fn entry
      let h := s.rd .QP_CQHEAD_INDEX fn entry
      if v ≥ n ∨ (v + n - h) % n > s.unread q then s.qpError fn entry 1
      else (s.wr .QP_CQHEAD_INDEX v fn entry).sendPointers q

/-- Of several doorbells in one cycle, the one whose index lies further ahead of the part's own index stands (R433). -/
def furthest (n own : Nat) (w : Wr) (l : List Wr) : Wr :=
  l.foldl (fun w r => if (w.v + n - own % n) % n < (r.v + n - own % n) % n then r else w) w

/-! ## Fetch and dispatch of commands -/

/-- Opcodes (R397, R450, R483, R502). -/
abbrev opNop : Nat := 0x00
abbrev opJobAbort : Nat := 0x02
abbrev opProgLoad : Nat := 0x03
abbrev opProgUnload : Nat := 0x04
abbrev opResAlloc : Nat := 0x05
abbrev opResFree : Nat := 0x06
abbrev opBankHost : Nat := 0x07
abbrev opImageLoad : Nat := 0x10
abbrev opImageEvict : Nat := 0x11
abbrev opSlotProgram : Nat := 0x12
abbrev opSlotSwitch : Nat := 0x13
abbrev opSlotReplace : Nat := 0x14
abbrev opMapFree : Nat := 0x15
abbrev opSlotFree : Nat := 0x16
abbrev opSlotInfo : Nat := 0x17
abbrev opKeyEnrol : Nat := 0x18
abbrev opKeyRevoke : Nat := 0x19
abbrev opEvict : Nat := 0x20
abbrev opPairHandover : Nat := 0x30
abbrev opMirRegion : Nat := 0x31
abbrev opDieRestore : Nat := 0x32
abbrev opStartRetry : Nat := 0x40

/-- The parameter bytes of the Pocket commands (R502). -/
def pocketParams (op : Nat) : Option (List (Nat × Nat)) :=
  if op = 0x50 ∨ op = 0x51 then some [(16, 3), (24, 8)]
  else if op = 0x52 then some [(16, 4)]
  else if op = 0x53 then some [(16, 3), (24, 16)]
  else none

/-- The parameter bytes of each opcode, as (first byte, count) (R398, R399, R450, R483, R502); `none` for an opcode that no
table lists. -/
def paramBytes (op : Nat) : Option (List (Nat × Nat)) :=
  if op = opNop then some []
  else if op = opJobSubmit then some [(16, 3), (24, 24)]
  else if op = opJobAbort then some [(16, 8)]
  else if op = opProgLoad then some [(16, 12)]
  else if op = opProgUnload then some [(16, 2)]
  else if op = opResAlloc then some [(16, 3), (20, 4)]
  else if op = opResFree then some [(16, 3), (20, 8)]
  else if op = opBankHost then some [(17, 2), (20, 2)]
  else if op = opImageLoad then some [(16, 17)]
  else if op = opImageEvict ∨ op = opSlotFree then some [(16, 1)]
  else if op = opMapFree then some [(16, 2)]
  else if op = opSlotProgram then some [(16, 4), (24, 8)]
  else if op = opSlotSwitch then some [(16, 2)]
  else if op = opSlotReplace then some [(16, 1), (18, 1), (24, 8)]
  else if op = opSlotInfo then some [(16, 2), (24, 8)]
  else if op = opKeyEnrol then some [(16, 1), (24, 8)]
  else if op = opKeyRevoke then some [(16, 2)]
  else if op = opEvict then some [(16, 2)]
  else if op = opPairHandover then some [(16, 17)]
  else if op = opMirRegion then some [(16, 3), (20, 8)]
  else if op = opDieRestore then some [(16, 1)]
  else if op = opStartRetry then some [(16, 1)]
  else pocketParams op

/-- Reserved bytes of a descriptor are 0, and its opcode is listed (R396). -/
def descWellFormed (d : Nat) : Bool :=
  match paramBytes (fromByte d 0 1) with
  | none => false
  | some l => fromByte d 4 4 == 0 && (List.range 48).all (fun k =>
      fromByte d (16 + k) 1 == 0 || l.any (fun r => decide (r.1 ≤ 16 + k) && decide (16 + k < r.1 + r.2)))

/-- Commands that only the PF may issue (R397, R450, R483, R502). -/
def pfOnly (op : Nat) : Bool := decide (op ≥ 0x10)

/-- Commands that run in minimal mode (R482). -/
def runsMinimal (op : Nat) : Bool := op == opNop || op == opStartRetry || decide (op ≥ 0x50 ∧ op < 0x60)

/-- Parked commands and jobs of the package (R403). -/
def State.parkedCount (s : State) : Nat :=
  (s.cmds.filter (fun c => c.st == .parked)).length + (s.jobs.filter (fun j => j.st == .parked)).length

/-- Number of the object that a command names, for ORDER_SUPERSEDED (R451): its first operand, a slot, function, handle, die, entry or page
(log entry 157). -/
def Cmd.object (c : Cmd) : Nat := fromByte c.desc 16 1

/-- A fetched descriptor becomes a command: it is refused with its status, parked until AT, or ready to run (R396, R397,
R403, R432, R482). A job is parked after its checks (R402). -/
def State.acceptCmd (s : State) (c : Cmd) (rival : Option Master) : State :=
  let own := if c.fn = 0 then Master.pf else Master.vf c.fn
  let s : State := { s with cmds := s.cmds ++ [c] }
  if !descWellFormed c.desc then s.completeCmd c stMalformed 0
  else if c.fn ≠ 0 ∧ pfOnly c.opcode then s.completeCmd c stRejectedPrivilege 0
  else if s.rd .START_REPORT_STATE = 2 ∧ !runsMinimal c.opcode then s.completeCmd c stRejectedPrivilege 0
  else match rival.filter (fun r => masterRank r < masterRank own) with
    | some r => (s.superseded r own c.object).completeCmd c stRejectedSuperseded 0
    | none =>
      if c.opcode ≠ opJobSubmit ∧ c.at' > s.now then
        if s.parkedCount ≥ 1024 then s.completeCmd c stRejectedQuota 0
        else { s with cmds := s.cmds.map (fun k => if k.id = c.id then { k with st := .parked } else k) }
      else s

/-- Job identifiers (R401). -/
def jobId (fn q count : Nat) : Nat := fn * 2 ^ 57 + q * 2 ^ 45 + count % 2 ^ 45

/-- The command that a descriptor spells (R396). -/
def cmdOf (fn q count : Nat) (desc : Nat) : Cmd :=
  { id := jobId fn q count, q := q, fn := fn, cid := fromByte desc 2 2, event := bit (fromByte desc 1 1) 0,
    vec := fromByte desc 1 1 / 16, opcode := fromByte desc 0 1, at' := fromByte desc 8 8, desc := desc, st := .ready,
    lateness := 0, flags := 0 }

/-- The next descriptor of an ACTIVE pair has been read (R392, R393, R394, R440): the head advances, the job journal is
sent for a mirrored function, and the command is taken. -/
def State.fetch (s : State) (q : Nat) (data : HostRead (BitVec 512)) (rival : Option Master) : State :=
  match s.qp q with
  | none => s
  | some p =>
    let n := 2 ^ s.rd .QP_CFG_SQLOG2 p.fn p.entry
    let h := s.rd .QP_STAT_SQHEAD p.fn p.entry
    if s.rd .QP_STAT_STATE p.fn p.entry ≠ 1 ∨ h = s.rd .QP_SQTAIL_INDEX p.fn p.entry
      ∨ p.outstanding + 1 ≥ 2 ^ s.rd .QP_CFG_CQLOG2 p.fn p.entry ∨ s.rd .MIR_FN_ROLE 0 p.fn ≥ 2
      ∨ s.ax .handing p.fn ≠ 0 ∨ s.ax .pcieDown ≠ 0 then s
    else match data with
      | .error e => (s.aer e).qpError p.fn p.entry 2
      | .ok b =>
        let c := cmdOf p.fn q p.fetched b.toNat
        let s := (s.setQp q (some { p with fetched := p.fetched + 1, outstanding := p.outstanding + 1 })).wr .QP_STAT_SQHEAD
          ((h + 1) % n) p.fn p.entry
        ((s.journals p.fn (.desc c.id b)).sendPointers q).acceptCmd c rival

/-- A ready command of an opcode (the command rows name it by its identifier). -/
def State.readyCmd (s : State) (id op : Nat) : Option Cmd :=
  s.cmds.find? (fun c => c.id == id && c.opcode == op && c.st == .ready)

/-- The command as it starts: late when its start falls after AT (R403). -/
def State.started (s : State) (c : Cmd) : Cmd :=
  if c.at' ≠ 0 ∧ s.now > c.at' then { c with flags := addFlag c.flags flLate, lateness := s.now - c.at' } else c

/-- The shape of every host command: it takes the ready command with the opcode, or has no effect where none is ready. -/
def State.runCmd (s : State) (id op : Nat) (f : State → Cmd → State) : State :=
  match s.readyCmd id op with
  | none => s
  | some c => f s (s.started c)

/-- Mark a command as running: it completes later. -/
def State.cmdRunning (s : State) (c : Cmd) : State :=
  { s with cmds := s.cmds.map (fun k => if k.id = c.id then { c with st := .running } else k) }

def Cmd.b (c : Cmd) (o n : Nat) : Nat := fromByte c.desc o n

/-- At AT, a parked command becomes eligible (R403). -/
def State.unpark (s : State) (id : Nat) : State :=
  let go := fun t : Nat => decide (t ≤ s.now)
  let cs := s.cmds.map (fun c => if c.id = id ∧ c.st = .parked ∧ go c.at' then { c with st := .ready } else c)
  let js := s.jobs.map (fun j => if j.id = id ∧ j.st = .parked ∧ go j.at' then { j with st := .waiting } else j)
  { s with cmds := cs, jobs := js }

/-! ## Jobs -/

/-- Dies on which a job of a program would hold scratch (R209). -/
def State.scratchDies (s : State) (p : Prog) (slots : Nat) : Nat := min p.tasks (s.allowedDies p slots).length

/-- The checks of R402 in order: the status of the first that fails. A VF that names a system program gets REJECTED_PRIVILEGE, as
R191 says, although the handle is another function's, which step 2 would answer with MALFORMED (log entry 129). -/
def State.submitCheck (s : State) (c : Cmd) : Option Nat :=
  let cls := c.b 18 1 % 4
  if (cls = 0 ∧ c.b 24 8 = 0) ∨ c.b 32 8 % 8 ≠ 0 then some stMalformed
  else match s.progs.find? (fun p => p.handle == c.b 16 2 && !p.unloading && (p.fn == c.fn || p.sys)) with
    | none => some stMalformed
    | some p =>
      if p.sys ∧ c.fn ≠ 0 then some stRejectedPrivilege
      else if (slotsOf (c.b 40 8)).any (fun k => !(bit (s.rd .FNQ_GRANT_SLOT c.fn) k)) then some stRejectedPrivilege
      else if p.tasks > s.seqCapacity p cls (c.b 40 8) then some stMalformed
      else if p.scratchBanks * s.scratchDies p (c.b 40 8) > s.quota c.fn resBank then some stRejectedQuota
      else none

/-- The job that JOB_SUBMIT enqueues (R398, R402, R403). -/
def jobOf (c : Cmd) (order now : Nat) : Job :=
  { id := c.id, desc := c.desc, q := c.q, fn := c.fn, cid := c.cid, event := c.event, vec := c.vec, handle := c.b 16 2,
    cls := c.b 18 1 % 4, runLate := bit (c.b 18 1) 2, deadline := c.b 24 8, args := c.b 32 8, slots := c.b 40 8,
    at' := c.at', st := if c.at' > now then .parked else .waiting, order := order, runTag := 0, restarts := 0, flags := 0,
    lateness := 0, cause := 0, otherFault := false, cpost := 0, started := none, paused := 0, maxRestarts := 0, grants := 0, onMap := 0, watchdog := 0, ackSeq := 0, ackAt := 0, slotNo := none, staged := [], pages := [], scratch := [], tasks := [], steps := [], cpostAt := none,
    trk := [] }

/-- JOB_SUBMIT (R402, R403). -/
def State.jobSubmit (s : State) (c : Cmd) : State :=
  match s.submitCheck c with
  | some st => s.completeCmd c st 0
  | none =>
    if c.at' > s.now ∧ s.parkedCount ≥ 1024 then s.completeCmd c stRejectedQuota 0
    else
      let n := s.ax .submitCount
      let s := s.setAx .submitCount (n + 1)
      { s with cmds := s.cmds.filter (fun k => k.id != c.id), jobs := s.jobs ++ [{ jobOf c n s.now with grants := s.rd .FNQ_GRANT_SLOT c.fn }] }

/-- JOB_ABORT (R407, R221): result 0 when aborted, 1 when not found, of another function, or already committed. -/
def State.jobAbort (s : State) (c : Cmd) : State :=
  match s.job (c.b 16 8) with
  | none => s.completeCmd c stOK 1
  | some j =>
    if (c.fn ≠ 0 ∧ j.fn ≠ c.fn) ∨ j.st = .ackWait then s.completeCmd c stOK 1
    else (s.endJob j.id stAbortedByHost).completeCmd c stOK 0

/-- Remove a program that no job runs and that is being unloaded (R209). -/
def State.unloadEffect (s : State) (h : Nat) : State :=
  match s.prog h with
  | none => s
  | some p =>
    if p.unloading && !(s.jobs.any (fun j => j.handle == h)) then
      let t : State := { s with progs := s.progs.filter (fun q => q.handle != h) }
      t.quotaRecheck p.fn
    else s

/-- PROGRAM_UNLOAD (R209). -/
def State.programUnload (s : State) (c : Cmd) : State :=
  match s.progs.find? (fun p => p.handle == c.b 16 2 && p.fn == c.fn && !p.unloading) with
  | none => s.completeCmd c stMalformed 0
  | some p =>
    let s : State := { s with progs := s.progs.map (fun q => if q.handle = p.handle then { q with unloading := true } else q) }
    let s := s.journals c.fn (.unload p.handle)
    (s.unloadEffect p.handle).completeCmd c stOK 0

/-! ## Resources -/

/-- Lowest run of n feed-queue indices that no allocation covers. -/
def State.freeQueues (s : State) (n : Nat) : Option Nat :=
  let used := s.allocs.filter (fun a => a.kind == 1)
  let cands := 0 :: used.map (fun a => a.first + a.count)
  let ok := fun p => decide (p + n ≤ 8192) &&
    used.all (fun a => decide (p + n ≤ a.first) || decide (a.first + a.count ≤ p))
  (cands.filter ok).foldl (fun m p => match m with | none => some p | some q => some (min p q)) none

/-- The resource of R417 that a RES_ALLOC kind is: feed queues 2, banks 3, pages 4. -/
def resOf (kind : Nat) : Nat := kind + 1

def State.addAlloc (s : State) (a : Alloc) : State := { s with allocs := s.allocs ++ [a] }

/-- The first allowed die on which a search succeeds. -/
def firstOn (dies : List Nat) (f : Nat → Option Nat) : Option (Nat × Nat) :=
  dies.foldl (fun acc d => match acc with | some x => some x | none => (f d).map (fun b => (d, b))) none

/-- RES_ALLOC (R399, R408, R15). A run that cannot be had ends with REJECTED_QUOTA (log entry 14). -/
def State.resAlloc (s : State) (c : Cmd) : State :=
  let kind := c.b 16 1
  let die := c.b 17 1
  let host := bit (c.b 18 1) 0
  let n := c.b 20 4
  let dies := if die = 0xFF then s.onlineDies else s.onlineDies.filter (fun d => d == die)
  if kind = 0 ∨ kind > 3 ∨ n = 0 ∨ (host ∧ kind ≠ 2) ∨ dies.isEmpty then s.completeCmd c stMalformed 0
  else if s.held c.fn (resOf kind) + n > s.quota c.fn (resOf kind) then s.completeCmd c stRejectedQuota 0
  else if kind = 1 then
    match s.freeQueues n with
    | none => s.completeCmd c stRejectedQuota 0
    | some q => (s.addAlloc ⟨c.fn, 1, 0, q, n⟩).completeCmd c stOK q
  else if kind = 2 then
    match firstOn (dies.filter (fun d => !s.rdb .BNK_STAT_EXPERT d)) (fun d => if n ≤ 80 then s.freeBanks d n else none) with
    | none => s.completeCmd c (if dies.all (fun d => s.rdb .BNK_STAT_EXPERT d) then stRejectedPrivilege
        else stRejectedQuota) 0
    | some (d, b) =>
      ((s.addAlloc ⟨c.fn, 2, d, b, n⟩).banksMove d b n (if host then ownHostWindow else ownSequencer)
        (if host then c.fn else 128 + c.fn)).completeCmd c stOK (d * 256 + b)
  else
    match firstOn dies (fun d => s.freePages d n) with
    | none => s.completeCmd c stRejectedQuota 0
    | some (d, p) => (s.addAlloc ⟨c.fn, 3, d, p, n⟩).completeCmd c stOK (d * 2 ^ 29 + p)

/-- Take units first .. first+n-1 out of an allocation. -/
def cutAlloc (a : Alloc) (first n : Nat) : List Alloc :=
  (if a.first < first then [{ a with count := first - a.first }] else []) ++
  (if first + n < a.first + a.count then [{ a with first := first + n, count := a.first + a.count - (first + n) }] else [])

/-- Units of a range that an allocation of a function, kind and die holds. -/
def Alloc.within (a : Alloc) (fn kind die first n : Nat) : Nat :=
  if a.fn = fn ∧ a.kind = kind ∧ a.die = die then min (a.first + a.count) (first + n) - max a.first first else 0

/-- A function holds every unit of a range: its allocations do not overlap. -/
def State.covers (s : State) (fn kind die first n : Nat) : Bool := sumBy s.allocs (fun a => a.within fn kind die first n) == n

/-- Free a range that a function holds: banks go to FREE, zeroed (R369). -/
def State.freeUnits (s : State) (fn kind die first n : Nat) : State :=
  let s : State := { s with allocs := s.allocs.flatMap (fun b => if b.within fn kind die first n = 0 then [b] else cutAlloc b first n) }
  if kind = 2 then s.banksMove die first n ownFree 0 else s

/-- Free a range of an allocation. -/
def State.freeAlloc (s : State) (a : Alloc) (first n : Nat) : State := s.freeUnits a.fn a.kind a.die first n

/-- RES_FREE (R399, R15). The die stands in the `first` word as RES_ALLOC returned it. -/
def State.resFree (s : State) (c : Cmd) : State :=
  let kind := c.b 16 1
  let n := c.b 20 4
  let w := c.b 24 4
  let die := if kind = 2 then bits w 10 8 else if kind = 3 then bits w 31 29 else 0
  let first := if kind = 2 then bits w 7 0 else if kind = 3 then bits w 22 0 else w
  if n = 0 ∨ (kind ≠ 1 ∧ c.b 17 1 ≠ 0xFF ∧ c.b 17 1 ≠ die) then s.completeCmd c stMalformed 0
  else if !s.covers c.fn kind die first n then s.completeCmd c stMalformed 0
  else if kind = 2 ∧ s.rdb .BNK_STAT_EXPERT die then s.completeCmd c stRejectedPrivilege 0
  else ((s.freeUnits c.fn kind die first n).quotaRecheck c.fn).completeCmd c stOK 0

/-- BANK_HOST (R399): no zeroing takes place, because both owners act for the function. -/
def State.bankHost (s : State) (c : Cmd) : State :=
  let d := c.b 17 1
  let toHost := bit (c.b 18 1) 0
  let b := c.b 20 1
  let n := c.b 21 1
  if n = 0 then s.completeCmd c stMalformed 0
  else if !s.covers c.fn 2 d b n then s.completeCmd c stMalformed 0
  else if s.rdb .BNK_STAT_EXPERT d then s.completeCmd c stRejectedPrivilege 0
  else (s.banksMove d b n (if toHost then ownHostWindow else ownSequencer) (if toHost then c.fn else 128 + c.fn)).completeCmd c stOK 0

/-! ## EVICT and resets -/

/-- The allocation of a kind with the highest numbers. -/
def topAlloc (l : List Alloc) : Option Alloc :=
  l.foldl (fun m a => match m with
    | none => some a
    | some b => if b.die < a.die ∨ (b.die = a.die ∧ b.first < a.first) then some a else some b) none

/-- Release units of a kind from the highest-numbered down, until `excess` of them are gone (R411). -/
def State.trimAllocs (s : State) (fn kind : Nat) : Nat → Nat → State
  | 0, _ => s
  | fuel + 1, excess =>
    if excess = 0 then s
    else match topAlloc (s.allocs.filter (fun a => a.fn == fn && a.kind == kind)) with
      | none => s
      | some a =>
        let n := min excess a.count
        (s.freeAlloc a (a.first + a.count - n) n).trimAllocs fn kind fuel (excess - n)

/-- Unload the most recently loaded programs until the pages lie within a limit (R411). -/
def State.trimProgs (s : State) (fn limit : Nat) : Nat → State
  | 0 => s
  | fuel + 1 =>
    if s.held fn resLpddr ≤ limit then s
    else match (s.progs.filter (fun p => p.fn == fn)).getLast? with
      | none => s
      | some p => State.trimProgs { s with progs := s.progs.filter (fun q => q.handle != p.handle) } fn limit fuel

/-- The pairs of a function, highest-numbered first. -/
def State.pairsOf (s : State) (fn : Nat) : List Nat :=
  ((s.qps.filter (fun e => match e.2 with | some q => q.fn == fn | none => false)).map (·.1)).reverse

/-- The jobs of a function that have not committed. -/
def State.jobsOf (s : State) (fn : Nat) : List Nat :=
  (s.jobs.filter (fun j => j.fn == fn && j.st != .ackWait)).map (·.id)

/-- A bank that acts for a function is on its way to FREE (R369). -/
def State.bankLeaving (s : State) (f d b : Nat) : Bool :=
  s.rdb .BNK_OWNER_PEND d b && s.ax .bankTarget d b == 1 + 256 * ownFree
    && s.actsFor (s.rd .BNK_OWNER_CUR_KIND d b) (s.rd .BNK_OWNER_CUR_ID d b) == some f

/-- The reclaim of an EVICT has ended (R411): its queue pairs have drained, and the banks that it has taken are zeroed. -/
def State.evicted (s : State) (c : Cmd) : Bool :=
  !(s.qps.any (fun e => e.2.any (fun p => p.evict == some c.id)))
    && (c.b 17 1 == 0 || s.dies.all (fun d => (List.range 80).all (fun b => !s.bankLeaving (c.b 16 1) d b)))

/-- EVICT completes when its reclaim ends, and FUNCTION_EVICTED is raised (R411). -/
def State.evictCheck (s : State) : State :=
  s.each (s.cmds.filter (fun c => c.st == .running && c.opcode == opEvict && s.evicted c)) (fun s c =>
    let n := s.ax .evictJobs 0 c.id
    let q := s.ax .evictPairs 0 c.id
    let s := (s.setAx .evictJobs 0 0 c.id).setAx .evictPairs 0 0 c.id
    (s.tenancy (c.b 16 1) 0x62 sevError (c.b 16 1 + atByte 1 (c.b 17 1) + atByte 4 n + atByte 8 q)).completeCmd c stOK n)

/-- EVICT (R411): the jobs; then the holdings above the quotas, or all of them. It completes when the queue pairs have drained and the
banks are zeroed. -/
def State.evict (s : State) (c : Cmd) : State :=
  let f := c.b 16 1
  let scope := c.b 17 1
  if f = 0 ∨ f > 127 ∨ scope > 2 then s.completeCmd c stMalformed 0
  else
    let js := s.jobsOf f
    let s := s.each js (fun s j => s.endJob j stEvicted)
    let lim := fun (s : State) k => if scope = 2 then 0 else s.quota f k
    let qs := if scope = 0 then [] else (s.pairsOf f).take (s.held f resQP - lim s resQP)
    let s := s.each qs (fun s q => match s.qp q with
      | some p => ((s.setQp q (some { p with evict := some c.id })).qpDisable p.fn p.entry stEvicted).qpDrained q
      | none => s)
    let s := if scope = 0 then s
      else
        let s := s.trimAllocs f 1 8192 (s.held f resFeedq - lim s resFeedq)
        let s := s.trimAllocs f 2 640 (s.held f resBank - lim s resBank)
        let s := s.trimAllocs f 3 (s.allocs.length + 1) (s.held f resLpddr - lim s resLpddr)
        (s.trimProgs f (lim s resLpddr) s.progs.length).quotaRecheck f
    (((s.setAx .evictJobs js.length 0 c.id).setAx .evictPairs qs.length 0 c.id).cmdRunning c).evictCheck

/-- Every field of a register element returns to its reset value. -/
def State.resetReg (s : State) (r : Reg) (d i : Nat) : State :=
  s.each r.fields (fun s f => s.wr f (fieldReset s.part f d i 0) d i)

/-- Function-level reset of one function (R412): its jobs end without completions, its parked commands are discarded, its
pairs are disabled, its allocations freed, its programs unloaded, its ring and apertures disabled; quotas, grants and
JOB_CFG keep their values. Its other registers return to their reset values (R10; log entry 15). -/
def State.resetFn (s : State) (fn : Nat) : State :=
  let js := (s.jobs.filter (fun j => j.fn == fn)).map (·.id)
  let s := s.each js (fun s j => s.endJobSilently j)
  let qs := s.pairsOf fn
  let s : State := { s with cmds := s.cmds.filter (fun c => c.fn != fn) }
  let s := s.each qs (fun s q => match s.qp q with
    | some p => (([Reg.QP_SQBASE, .QP_CQBASE, .QP_CFG, .QP_SQTAIL, .QP_CQHEAD, .QP_STAT].foldl
        (fun s r => s.resetReg r fn p.entry) s)).setQp q none
    | none => s)
  let s := s.each (s.allocs.filter (fun a => a.fn == fn)) (fun s a => s.freeAlloc a a.first a.count)
  let s : State := { s with progs := s.progs.filter (fun p => p.fn != fn) }
  let s := [Reg.EVR_BASE, .EVR_CTRL, .EVR_HEAD, .EVR_TAIL, .EVR_OVF, .EVR_MOD, .MSIX_PBA].foldl
    (fun s r => s.resetReg r fn 0) s
  let s := (List.range 64).foldl (fun s a => s.resetReg .BAR2_AP fn a) s
  let s := (List.range 16).foldl (fun s v => ([Reg.MSIX_ADDR, .MSIX_DATA, .MSIX_CTRL].foldl
    (fun s r => s.resetReg r fn v) s)) s
  let s := s.setRing fn ⟨[], 0, 0, []⟩
  let s : State := { s with
    hold := s.hold.filter (fun e => e.1.unpair.1 != fn), latch := s.latch.filter (fun e => e.1.unpair.1 != fn) }
  (s.quotaRecheck fn).event 0x64 0xFF sevNotice (fn + atByte 4 js.length)

/-- The functions that have something to reset. -/
def allFns : List Nat := List.range 128

/-- A function-level reset of a VF, or of the PF for every function; a hot reset is the latter (R412). -/
def State.functionReset (s : State) (fn : Nat) : State :=
  if fn = 0 then s.each allFns.reverse (fun s f => s.resetFn f) else if fn < 128 then (s.resetFn fn).evictCheck else s

/-! ## Quotas and grants -/

/-- Installed pages of a die (R379): seven eighths of the devices' until training has set MEM_CAP. -/
def State.pagesInstalled (s : State) (d : Nat) : Nat :=
  if s.rd .MEM_CAP_DATA_MIB d = 0 then s.part.lpddrMiB * 7 / 8 * 256 else s.rd .MEM_CAP_DATA_MIB d * 256

/-- The greatest value of a quota or share field (FNQ quota records). -/
def State.quotaMax (s : State) (fn kind : Nat) : Nat :=
  if kind = 1 then (if fn = 0 then 4096 else 896)
  else if kind = 2 then 8192
  else if kind = 3 then 80 * s.part.dies
  else if kind = 4 then sumBy s.dies (fun d => s.pagesInstalled d)
  else 0xFFFF

/-- The FNQ field of a kind. -/
def quotaField (kind : Nat) : Field :=
  if kind = 1 then .FNQ_Q0_QP else if kind = 2 then .FNQ_Q0_FEEDQ else if kind = 3 then .FNQ_Q1_BANKS
  else if kind = 4 then .FNQ_Q2_PAGES else if kind = 5 then .FNQ_SHARE_POWER else .FNQ_SHARE_RT

/-- Slots that a function uses: those that its running jobs name, and those of its requests (R180). -/
def State.slotsUsed (s : State) (fn : Nat) : List Nat :=
  (((s.jobs.filter (fun j => j.fn == fn && j.active)).flatMap (fun j => slotsOf j.slots))
    ++ ((s.reqs.filter (fun r => r.fn == fn)).map (·.slot))).eraseDups

/-- A cut share that waits is overtaken by a raise to at least its old value. -/
def State.raised (s : State) (x : Aux) (fn k v : Nat) : Bool := s.ax x fn k ≤ v + 1

/-- The PF writes a quota or share (R408, R409, R180, R440). -/
def State.quotaWrite (s : State) (fn kind v : Nat) : State :=
  if fn ≥ 128 ∨ kind = 0 ∨ kind > 6 then s
  else if v > s.quotaMax fn kind ∨ s.standby fn then s.fnRefused 0
  else
    let old := s.rd (quotaField kind) fn
    let s := (s.wr (quotaField kind) v fn).sendQuotas fn
    if kind ≤ 4 then
      let h := s.held fn kind
      if h > v then
        (s.wr .FNQ_OVER_KIND (setBit (s.rd .FNQ_OVER_KIND fn) (kind - 1) true) fn).tenancy fn 0x60 sevWarning
          (fn + atByte 1 kind + atByte 4 h + atByte 8 v)
      else s.quotaRecheck fn
    else if kind = 5 then
      if v < old then s.each (s.slotsUsed fn) (fun s k => if s.ax .powerOld fn k = 0 then s.setAx .powerOld (old + 1) fn k else s)
      else s.each (List.range 64) (fun s k => s.when (s.raised .powerOld fn k v) (fun s => s.setAx .powerOld 0 fn k))
    else if v < old then (if s.ax .rtOld fn = 0 then s.setAx .rtOld (old + 1) fn else s)
    else s.when (s.raised .rtOld fn 0 v) (fun s => s.setAx .rtOld 0 fn)

/-- A use grant is set or cleared (R410). A job that has not started loses a grant that is cleared; one that is set is for jobs
submitted from then on. -/
def State.grantSet (s : State) (fn slot v : Nat) : State :=
  let g := s.rd .FNQ_GRANT_SLOT fn
  if bit g slot = (v % 2 == 1) then s
  else
    let s := if v % 2 = 1 then s
      else { s with jobs := s.jobs.map (fun j => if j.fn = fn ∧ j.started = none then { j with grants := setBit j.grants slot false } else j) }
    ((s.wr .FNQ_GRANT_SLOT (setBit g slot (v % 2 == 1)) fn).sendQuotas fn).tenancy fn 0x63 sevInfo (fn + atByte 1 slot + atByte 2 (v % 2))

/-- The PF sets or clears a use grant (R410, R440). -/
def State.grantWrite (s : State) (fn slot v : Nat) : State :=
  if fn ≥ 128 ∨ slot ≥ 64 then s
  else if s.standby fn then s.fnRefused 0
  else s.grantSet fn slot v

/-! ## BAR2 -/

/-- A device address range lies in BANK or LPDDR memory of an online die (R200). -/
def State.inMemory (s : State) (a n : Nat) : Bool :=
  let off := devOff a
  s.online (devDie a) && ((devRegion a = 0 && decide (off + n ≤ bankBytes)) ||
    (devRegion a = 1 && decide (off + n ≤ s.installed (devDie a))))

/-- The data sections of the programs that a function has loaded, in each of their copies, as (first address, bytes) (R198, R201;
log entry 12). -/
def State.dataRanges (s : State) (fn : Nat) : List (Nat × Nat) :=
  (s.progs.filter (fun p => p.fn == fn && !p.data.isEmpty)).flatMap (fun p => (p.copies.filter (fun c => s.online c.1)).map (fun c =>
    (lpddrAddr c.1 (c.2 * 4096) + 64 + 8 * p.code.length, p.data.length)))

/-- A byte lies in an allocation of a function or, for a read, in the data of one of its programs (R201). -/
def State.fnMay (s : State) (fn a : Nat) (write : Bool) : Bool :=
  let u := if devRegion a = 0 then devOff a / 0x80000 else devOff a / 4096
  s.covers fn (if devRegion a = 0 then 2 else 3) (devDie a) u 1 || (!write && inRanges (s.dataRanges fn) a 1)

/-- A byte of a bank belongs to the host window of a function (R366, R389); a byte elsewhere has no owner. -/
def State.hostOwns (s : State) (fn a : Nat) : Bool :=
  devRegion a != 0 || (s.rd .BNK_OWNER_CUR_KIND (devDie a) (devOff a / 0x80000) == ownHostWindow &&
    s.rd .BNK_OWNER_CUR_ID (devDie a) (devOff a / 0x80000) == fn)

/-- The device address of a BAR2 offset (R389). -/
def State.bar2At (s : State) (fn o : Nat) : Nat := s.rd .BAR2_AP_BASE fn (o / 2 ^ 30) * 2 ^ 30 + o % 2 ^ 30

/-- A BAR2 access reaches memory of the function (R389): its aperture is valid, the memory exists, and a VF's access lies where a
task of its own might go. -/
def State.bar2Reaches (s : State) (fn o n : Nat) (write : Bool) : Bool :=
  let a := s.bar2At fn o
  s.rdb .BAR2_AP_VALID fn (o / 2 ^ 30) && s.inMemory a n && (fn == 0 || (List.range n).all (fun i => s.fnMay fn (a + i) write))

/-- BAR2 access check (R389): what the access reaches and, for a bank, the owner HOST_WINDOW with the function. The answer is the
device address. -/
def State.bar2Addr (s : State) (fn o n : Nat) (write : Bool) : Option Nat :=
  if s.bar2Reaches fn o n write && (List.range n).all (fun i => s.hostOwns fn (s.bar2At fn o + i)) then some (s.bar2At fn o) else none

/-- A refused BAR2 access: it is counted, and where only the bank's owner stands against it, BNK_DENIED counts it too (R367, R389). -/
def State.bar2Denied (s : State) (fn o n : Nat) (write : Bool) : State :=
  let s := s.bump .FN_STAT_BAR2_DENIED 1 fn
  if s.bar2Reaches fn o n write then s.bump .BNK_DENIED_COUNT 1 (devDie (s.bar2At fn o)) else s

/-- A BAR2 access (R367, R372, R373, R380, R389, R390): a refused read returns 0xFF bytes and a refused write is discarded; a
read of poisoned memory returns a poisoned completion. A write of part of a granule or block reads the rest. A read answers within 2 µs
(R390), so that it does not wait for a channel that retrains (log entry 140). -/
def State.bar2 (s : State) (fn o n : Nat) (x : Bar2Op) : State :=
  if n = 0 ∨ n > 8 ∨ fn ≥ 128 ∨ o ≥ 2 ^ 36 then s
  else
    let m := if fn = 0 then Master.pf else Master.vf fn
    match s.bar2Addr fn o n x.write.isSome, x.write with
    | none, some _ => s.bar2Denied fn o n true
    | none, none => (s.bar2Denied fn o n false).emit (.readData m o n (256 ^ n - 1))
    | some a, some v =>
      if devRegion a == 0 && n == 8 && a % 8 == 0 then { s.store a n v with poison := s.poison.set false a false }
      else
        let s := s.meets x.found [(a, n)]
        if s.poisoned a n then s else s.store a n v
    | some a, none =>
      let s := s.meets x.found [(a, n)]
      if s.poisoned a n then ((s.emit (.aer 4)).emit (.poisoned fn o)).emit (.readData m o n (256 ^ n - 1))
      else s.emit (.readData m o n (s.load a n))

/-! ## Event rings and interrupts -/

/-- EVR_CTRL with ENABLE = 1 (R413, EVR_CTRL, R485): the counts restart; on a ring that is enabled, a lower RESERVE may end the
coalescing (R415). -/
def State.ringEnable (s : State) (fn reserve : Nat) : State :=
  if fn ≥ 128 then s
  else if reserve < 2 ∨ reserve > 2 ^ s.rd .EVR_BASE_LOG2 fn / 2 ∨ (fn = 0 ∧ s.standby 0) then s.fnRefused fn
  else if s.rdb .EVR_CTRL_ENABLE fn then (s.wr .EVR_CTRL_RESERVE reserve fn).flushCoalesced fn
  else
    (((((s.wr .EVR_CTRL_ENABLE 1 fn).wr .EVR_CTRL_RESERVE reserve fn).wr .EVR_TAIL_COUNT 0 fn).wr .EVR_HEAD_COUNT 0 fn).wr
      .EVR_OVF_COUNT 0 fn).setRing fn ⟨[], 0, 0, []⟩

/-- The host's consumed count (R413, R415). A ring that is not enabled takes no record (R414). -/
def State.ringHead (s : State) (fn v : Nat) : State :=
  if fn ≥ 128 then s
  else if fn = 0 ∧ s.standby 0 then s.fnRefused fn
  else if !s.rdb .EVR_CTRL_ENABLE fn then s.wr .EVR_HEAD_COUNT v fn
  else ((s.wr .EVR_HEAD_COUNT v fn).flushOverflow fn).flushCoalesced fn

/-- EVR_MOD.TIME has passed since the first unannounced record of a vector (R416). -/
def State.moderationDue (s : State) (fn vec : Nat) : State :=
  match (s.ring fn).unannounced.find? (fun u => u.1 == vec) with
  | some u => if u.2.2 + 1000 * s.rd .EVR_MOD_TIME fn ≤ s.now then s.sendMsix fn vec else s
  | none => s

/-- A vector is unmasked (R416): a pending message is sent. -/
def State.unmask (s : State) (fn vec : Nat) : State :=
  if fn ≥ 128 ∨ vec ≥ 16 then s
  else
    let s := s.wr .MSIX_CTRL_MASK 0 fn vec
    if bit (s.rd .MSIX_PBA_PEND fn) vec then
      (s.wr .MSIX_PBA_PEND (setBit (s.rd .MSIX_PBA_PEND fn) vec false) fn).sendMsix fn vec
    else s

/-! ## Meanings -/

/-- The value of a doorbell in a cycle with several (R433). -/
def doorbell (o : Order) (own n : Nat) : Wr := furthest n own o.w o.rivals

def execQpCfgEnable (entry : Nat) (o : Order) (s : State) : Res :=
  .next (s.order o (regAddr .QP_CFG (ownFn o.w.by') entry) (fun s m v => s.qpEnable (ownFn m) entry (v / 16 % 16) (v % 16)))

def execQpCfgDisable (entry : Nat) (o : Order) (s : State) : Res :=
  .next (s.order o (regAddr .QP_CFG (ownFn o.w.by') entry) (fun s m _ => s.qpDisable (ownFn m) entry stAbortedByHost))

def execQpDrainEnd (q : Nat) (s : State) : Res := .next (s.qpDrained q).evictCheck

def execQpSqtailWrite (entry : Nat) (o : Order) (s : State) : Res :=
  let fn := ownFn o.w.by'
  let w := doorbell o (s.rd .QP_STAT_SQHEAD fn entry) (2 ^ s.rd .QP_CFG_SQLOG2 fn entry)
  .next (s.sqTail fn entry w.v)

def execQpCqheadWrite (entry : Nat) (o : Order) (s : State) : Res :=
  let fn := ownFn o.w.by'
  let w := doorbell o (s.rd .QP_CQHEAD_INDEX fn entry) (2 ^ s.rd .QP_CFG_CQLOG2 fn entry)
  .next (s.cqHead fn entry w.v)

def execDescriptorFetch (q : Nat) (data : HostRead (BitVec 512)) (rival : Option Master) (s : State) : Res :=
  .next (s.fetch q data rival)

def execParkedCommandEligible (id : Nat) (s : State) : Res := .next (s.unpark id)

def execCmdNop (id : Nat) (s : State) : Res := .next (s.runCmd id opNop (fun s c => s.completeCmd c stOK 0))

def execJobSubmit (id : Nat) (s : State) : Res := .next (s.runCmd id opJobSubmit (fun s c => s.jobSubmit c))

def execJobAbort (id : Nat) (s : State) : Res := .next (s.runCmd id opJobAbort (fun s c => s.jobAbort c))

def execProgramUnload (id : Nat) (s : State) : Res := .next (s.runCmd id opProgUnload (fun s c => s.programUnload c))

def execProgramUnloadEffect (h : Nat) (s : State) : Res := .next (s.unloadEffect h)

def execResAlloc (id : Nat) (s : State) : Res := .next (s.runCmd id opResAlloc (fun s c => s.resAlloc c))

def execResFree (id : Nat) (s : State) : Res := .next (s.runCmd id opResFree (fun s c => s.resFree c))

def execBankHost (id : Nat) (s : State) : Res := .next (s.runCmd id opBankHost (fun s c => s.bankHost c))

def execEvict (id : Nat) (s : State) : Res := .next (s.runCmd id opEvict (fun s c => s.evict c))

def execFnqQuotaWrite (fn kind : Nat) (o : Order) (s : State) : Res :=
  .next (s.order o (regAddr .FNQ_Q0 fn) (fun s _ v => s.quotaWrite fn kind v))

def execFnqGrantWrite (fn slot : Nat) (o : Order) (s : State) : Res :=
  .next (s.order o (regAddr .FNQ_GRANT fn) (fun s _ v => s.grantWrite fn slot v))

def execFunctionLevelReset (fn : Nat) (s : State) : Res := .next (s.functionReset fn)

def execHotReset (s : State) : Res := .next (s.functionReset 0)

def execBar2Access (fn addr size : Nat) (x : Bar2Op) (s : State) : Res := .next (s.bar2 fn addr size x)

def execEvrHeadWrite (fn : Nat) (o : Order) (s : State) : Res := .next (s.order o (regAddr .EVR_HEAD fn) (fun s _ v => s.ringHead fn v))

def execMsixModerationTimeout (fn vec : Nat) (s : State) : Res := .next (s.moderationDue fn vec)

def execMsixUnmask (fn vec : Nat) (o : Order) (s : State) : Res := .next (s.order o (regAddr .MSIX_CTRL fn vec) (fun s _ _ => s.unmask fn vec))

end Sys2Proof.Machine
end

