-- ==== Sys2Proof/Machine/ImageStore.lean ====
section
/-!
DEFINITION. Machine/ImageStore.lean: the Spatex image, its verification, the image store and the publisher keys (R282 to
R296, R541) (10_weight_images_and_programming.md).
-/

namespace Sys2Proof.Machine

/-! ## The image format -/

/-- Field of n bytes at offset o. -/
def fieldAt (b : List Byte) (o n : Nat) : Nat := ofLe ((b.drop o).take n)

/-- Bytes lo .. hi-1 are 0. -/
def zeroBytes (b : List Byte) (lo hi : Nat) : Bool := ((b.drop lo).take (hi - lo)).all (fun x => x == 0)

/-- Row and column blocks of a crossbar layer (R284). -/
def Layer.rowBlks (l : Layer) : Nat := cdiv l.inW 1024
def Layer.colBlks (l : Layer) : Nat := cdiv l.outW 512
def Layer.crossbar (l : Layer) : Bool := l.kind == 0
def Layer.span (l : Layer) : Nat := bits l.drive 7 7
def Layer.fs (l : Layer) : Nat := bits l.drive 6 5
def Layer.range (l : Layer) : Nat := bits l.drive 4 3
def Layer.precision (l : Layer) : Bool := bit l.drive 2

/-- Bits per element of an overflow weight format (R134). -/
def gfmtBits (f : Nat) : Nat := if f = 1 ∨ f = 7 then 4 else if f = 3 ∨ f = 9 then 8 else if f = 13 then 32 else 16

/-- Bytes of one output's row of overflow weights (R285). -/
def Layer.rowBytes (l : Layer) : Nat := cdiv (l.inW * gfmtBits l.gfmt) 8

/-- Rows and outputs in use of the tile at (i, j), minus one. -/
def Layer.rowsM1 (l : Layer) (i : Nat) : Nat := min 1024 (l.inW - 1024 * i) - 1
def Layer.colsM1 (l : Layer) (j : Nat) : Nat := min 512 (l.outW - 512 * j) - 1

/-- Layer record k of a descriptor at an offset (R284). -/
def layerAt (b : List Byte) (o : Nat) : Layer :=
  let f := fun k n => fieldAt b (o + k) n
  { kind := f 2 1, drive := f 3 1, inW := f 4 4, outW := f 8 4, rot := f 12 1, gfmt := f 13 1, gdies := f 14 1,
    limit := f 16 2, payOff := f 24 8, signOff := f 32 8, rescOff := f 40 8 }

/-- The layer records of an image. -/
def layersOf (b : List Byte) : List Layer :=
  let o := fieldAt b 40 8
  (List.range (fieldAt b o 4)).map (fun k => layerAt b (o + 32 + 64 * k))

/-- A W8X code: no nibble is -8 (R133). -/
def w8xOk (c : Byte) : Bool := c.toNat / 16 != 8 && c.toNat % 16 != 8

/-- Bytes of the payload section, the sign vector and the channel scales. -/
def Layer.payBytes (l : Layer) : Nat := if l.crossbar then l.rowBlks * l.colBlks * 524288 else l.outW * l.rowBytes
def Layer.signBytes (l : Layer) : Nat := if l.rot = 0 then 0 else cdiv l.inW 8

/-- Payload of tile (i, j) of a crossbar layer (R285). -/
def Layer.tilePayload (l : Layer) (b : List Byte) (i j : Nat) : List Byte :=
  (b.drop (l.payOff + (i * l.colBlks + j) * 524288)).take 524288

/-- Channel scales and sign vector of a layer. -/
def Layer.scalesIn (l : Layer) (b : List Byte) : List Nat := (List.range l.outW).map (fun k => fieldAt b (l.rescOff + 4 * k) 4)
def Layer.signsIn (l : Layer) (b : List Byte) : List Byte := (b.drop l.signOff).take l.signBytes

/-- A positive, finite, normal FP32 pattern. -/
def scaleNormal (c : Nat) : Bool := decide (0x00800000 ≤ c ∧ c ≤ 0x7F7FFFFF)

/-- An offset is a multiple of 64 and its section lies within bytes 192 to IMAGE_BYTES - 257 (R291). -/
def sectionOk (len o n : Nat) : Bool := decide (o % 64 = 0 ∧ 192 ≤ o ∧ o + n ≤ len - 256)

/-- Rows and outputs beyond a tile's extent hold 0x00 (R285). -/
def payloadPadOk (p : List Byte) (rowsM1 colsM1 : Nat) : Bool :=
  (List.range 1024).all (fun r => if r > rowsM1 then zeroBytes p (512 * r) (512 * r + 512)
    else zeroBytes p (512 * r + colsM1 + 1) (512 * r + 512))

/-- The fields of a layer record (R284). -/
def Layer.fieldsOk (l : Layer) (b : List Byte) (o k : Nat) : Bool :=
  fieldAt b o 2 == k && decide (l.kind ≤ 1 ∧ 1 ≤ l.inW ∧ 1 ≤ l.outW) && zeroBytes b (o + 15) (o + 16)
    && zeroBytes b (o + 18) (o + 24) && zeroBytes b (o + 48) (o + 64) && l.drive % 4 == 0
    && (l.rot == 0 || decide (6 ≤ l.rot ∧ l.rot ≤ 10 ∧ l.inW % 2 ^ l.rot = 0))
    && (if l.crossbar then l.gfmt == 0 && l.gdies == 0
        else l.drive == 0 && [1, 3, 7, 9, 11, 12, 13].contains l.gfmt && l.gdies != 0)

/-- The sections of a layer (R285). -/
def Layer.sectionsOk (l : Layer) (b : List Byte) (len : Nat) : Bool :=
  sectionOk len l.payOff l.payBytes && sectionOk len l.rescOff (4 * l.outW)
    && (if l.rot = 0 then l.signOff == 0
        else sectionOk len l.signOff l.signBytes
          && (l.inW % 8 == 0 || fieldAt b (l.signOff + l.signBytes - 1) 1 / 2 ^ (l.inW % 8) == 0))
    && (l.scalesIn b).all scaleNormal
    && (!l.crossbar || (((b.drop l.payOff).take l.payBytes).all w8xOk &&
        (List.range l.rowBlks).all (fun i => (List.range l.colBlks).all (fun j =>
          payloadPadOk (l.tilePayload b i j) (l.rowsM1 i) (l.colsM1 j)))))

/-! ## Verification (R291) -/

/-- Step 1: the header and the reserved bytes of the signature block. -/
def verify1 (head sig : List Byte) (len : Nat) : Bool :=
  fieldAt head 0 4 == 0x58545053 && fieldAt head 4 2 == 0x0100 && fieldAt head 8 8 == len && len % 64 == 0
    && decide (512 ≤ len) && zeroBytes head 6 8 && zeroBytes head 36 40 && zeroBytes head 56 192 && zeroBytes sig 192 256

/-- The SEC1 encoding of the key in a signature block. -/
def keyBytes (sig : List Byte) : List Byte := (0x04 : Byte) :: sig.take 96

/-- A big-endian number of n bytes at an offset. -/
def beAt (b : List Byte) (o n : Nat) : Nat := ofLe ((b.drop o).take n).reverse

/-- Pocket key of a byte (R487). -/
def pocketKey (die page off : Nat) : Nat := die * 2 ^ 19 + page * 4096 + off

def State.pkt (s : State) (die page off : Nat) : Byte := s.pocket.get 0 (pocketKey die page off)

/-- n bytes of the Pocket as a little-endian number. -/
def State.pktNum (s : State) (die page off n : Nat) : Nat := ofLe ((List.range n).map (fun i => s.pkt die page (off + i)))

def pktBytes (m : SMap Byte) (k : Nat) : List Byte → SMap Byte
  | [] => m
  | b :: t => pktBytes (m.set 0 k b) (k + 1) t

def State.pktWrite (s : State) (die page off : Nat) (l : List Byte) : State :=
  { s with pocket := pktBytes s.pocket (pocketKey die page off) l }

/-- Key entry n of a die: digest at bytes 0 to 47 of its page, in the order of the digest, and STATE at byte 48; the
revocation word at bytes 0 to 3 of page 10 (log entry 23). -/
def State.keyDigest (s : State) (die n : Nat) : Nat := ofLe ((List.range 48).map (fun i => s.pkt die (2 + n) i)).reverse
def State.keyEnrolled (s : State) (die n : Nat) : Bool := s.pkt die (2 + n) 48 == 1
def State.keyRevoked (s : State) (die n : Nat) : Bool := bit (s.pktNum die 10 0 4) n

/-- The die whose key table verifies images: the head die, unless its table was found to differ when it came online; then the lowest die
that takes part (R290). -/
def State.keyDie (s : State) : Nat :=
  if s.ax .keyBad s.head = 0 then s.head else (s.onlineDies.find? (fun d => s.ax .keyBad d == 0)).getD s.head

/-- Step 2: an entry that is ENROLLED and not revoked has this key and KEY_ID. -/
def State.verify2 (s : State) (head sig : List Byte) : Bool :=
  let h := sha384 (keyBytes sig)
  h / 2 ^ 320 == beAt head 16 8 && (List.range 8).any (fun n =>
    s.keyEnrolled s.keyDie n && !s.keyRevoked s.keyDie n && s.keyDigest s.keyDie n == h)

/-- Digest of the signed message. -/
def imageDigest (b : List Byte) : Nat := sha384 (b.take (b.length - 256))

/-- Step 3. -/
def verify3 (b : List Byte) : Bool :=
  let sig := b.drop (b.length - 256)
  ecdsaOk (beAt sig 0 48) (beAt sig 48 48) (beAt sig 96 48) (beAt sig 144 48) (imageDigest b)

/-- Step 4. -/
def verify4 (b : List Byte) : Bool :=
  let o := fieldAt b 40 8
  let n := fieldAt b o 4
  let l := layersOf b
  fieldAt b 48 8 == 32 + 64 * n && sectionOk b.length o (32 + 64 * n) && decide (1 ≤ n ∧ n ≤ 1024) && zeroBytes b (o + 16) (o + 32)
    && (l.zipIdx).all (fun e => e.1.fieldsOk b (o + 32 + 64 * e.2) e.2 && e.1.sectionsOk b b.length)
    && fieldAt b (o + 4) 4 == sumBy (l.filter (·.crossbar)) (fun x => x.rowBlks * x.colBlks)
    && fieldAt b (o + 8) 8 == sumBy (l.filter (fun x => !x.crossbar)) (fun x => x.payBytes + 4 * x.outW)

/-! ## The store (R292 to R296) -/

def State.image (s : State) (h : Nat) : Option Image := s.images.find? (fun i => i.handle == h)

/-- Bytes of a die's store that images and loads take. -/
def State.storeUsed (s : State) (d : Nat) : Nat :=
  sumBy (s.images.filter (fun i => i.home == d)) (·.body.length) + sumBy (s.loads.filter (fun l => l.home == d)) (·.bytes)

def State.storeFree (s : State) (d : Nat) : Nat := s.rd .PRG_STORE_GIB d * 2 ^ 30 - s.storeUsed d

/-- The home die for n bytes: the online die with the most free store, the lowest on a tie (R292). -/
def State.homeFor (s : State) (n : Nat) : Option Nat :=
  (s.onlineDies.foldl (fun m d => match m with
    | none => some d
    | some e => if s.storeFree d > s.storeFree e then some d else some e) none).filter
    (fun d => decide (n ≤ s.storeFree d ∧ s.images.length + s.loads.length < 256))

/-- Maps bound to an image. -/
def State.mapRefs (s : State) (h : Nat) : Nat := (s.maps.filter (fun m => m.handle == some h)).length

/-- An image matches a map (R296). -/
def imageMatches (i : Image) (m : MapSt) : Bool := i.modelId == m.modelId && i.version == m.version && i.digest == m.digest

/-- Every map without its image binds to a matching image in the store, if there is one (R296). -/
def State.rebind (s : State) : State :=
  { s with maps := s.maps.map (fun m => match m.handle with
      | some _ => m
      | none => match s.images.find? (fun i => imageMatches i m) with
        | some i => { m with handle := some i.handle }
        | none => m) }

/-- An image leaves the store, and IMAGE_EVICTED is raised: cause 1 host, 2 MAY_EVICT, 3 die offline (R293). -/
def State.dropImage (s : State) (h cause : Nat) : State :=
  match s.image h with
  | none => s
  | some i =>
    let refs := s.mapRefs h
    let s : State := { s with images := s.images.filter (fun k => k.handle != h),
                              maps := s.maps.map (fun m => if m.handle = some h then { m with handle := none } else m) }
    (s.rebind).event 0x52 0xFF sevNotice (h + atByte 1 cause + atByte 2 (min refs 255) + atByte 8 i.modelId)

/-- The unreferenced images, least recently used first. -/
def insertImage (i : Image) : List Image → List Image
  | [] => [i]
  | k :: t => if i.used < k.used then i :: k :: t else k :: insertImage i t

def State.evictable (s : State) : List Nat :=
  ((s.images.filter (fun i => s.mapRefs i.handle == 0)).foldl (fun l i => insertImage i l) []).map (·.handle)

/-- Room for n bytes with a list of images out of the store, without their events. -/
def State.roomWithout (s : State) (l : List Nat) (n : Nat) : Bool :=
  ({ s with images := s.images.filter (fun i => !(l.contains i.handle)) }.homeFor n).isSome

/-- The images that MAY_EVICT puts out to make room, in order: the shortest run that makes room (R294). -/
def State.evictionFor (s : State) (n : Nat) : Option (List Nat) :=
  let l := s.evictable
  ((List.range (l.length + 1)).find? (fun k => s.roomWithout (l.take k) n)).map (fun k => l.take k)

/-- A load takes room (R292, R294), or completes with REJECTED_QUOTA. -/
def State.takeRoom (s : State) (c : Cmd) (n : Nat) : State :=
  let mayEvict := bit (c.b 32 1) 0
  match (if mayEvict then s.evictionFor n else if (s.homeFor n).isSome then some [] else none) with
  | none => s.completeCmd c stRejectedQuota 0
  | some l =>
    let s := s.each l (fun s h => s.dropImage h 2)
    match s.homeFor n with
    | none => s.completeCmd c stRejectedQuota 0
    | some d => { s.cmdRunning c with loads := s.loads ++ [Load.mk c.id d n] }

/-- Images homed on a lost die leave the store; loads to it choose a new home (R292, R293). -/
def State.evictHomed (s : State) (d : Nat) : State :=
  let s := s.each ((s.images.filter (fun i => i.home == d)).map (·.handle)) (fun s h => s.dropImage h 3)
  let moved := s.loads.filter (fun l => l.home == d)
  let s : State := { s with loads := s.loads.filter (fun l => l.home != d) }
  s.each moved (fun s l => match s.cmds.find? (fun c => c.id == l.id) with
    | some c => s.takeRoom c l.bytes
    | none => s)

/-- IMAGE_REJECTED (R316), and the completion. -/
def State.rejectImage (s : State) (c : Cmd) (st step modelId : Nat) : State :=
  let s : State := { s with loads := s.loads.filter (fun l => l.id != c.id) }
  (s.event 0x51 0xFF sevWarning (st + atByte 1 step + atByte 8 (if step = 1 then 0 else modelId))).completeCmd c st 0

/-- IMAGE_LOAD starts (R541): steps 1 and 2 on the header and the signature block, then room. A failed read is refused as
malformed (log entry 22). -/
def State.imageLoad (s : State) (c : Cmd) (parts : HostRead (List Byte × List Byte)) : State :=
  match parts with
  | .error e => (s.aer e).completeCmd c stMalformed 0
  | .ok (head, sig) =>
    let len := c.b 24 8
    if !verify1 head sig len then s.rejectImage c stMalformed 1 0
    else if !s.verify2 head sig then s.rejectImage c stImageSignature 2 (fieldAt head 24 8)
    else s.takeRoom c len

/-- The next order of use of an image (R294). -/
def State.useImage (s : State) (h : Nat) : State :=
  let n := s.ax .imageUse + 1
  ({ s with images := s.images.map (fun (i : Image) => if i.handle = h then { i with used := n } else i) } : State).setAx .imageUse n

/-- The lowest free handle. -/
def State.freeImageHandle (s : State) : Nat := (findLow 256 (fun h => (s.image h).isNone)).getD 0

/-- The image with these bytes. -/
def imageOf (b : List Byte) (handle home : Nat) : Image :=
  let o := fieldAt b 40 8
  { handle := handle, home := home, modelId := fieldAt b 24 8, version := fieldAt b 32 4, digest := imageDigest b,
    tiles := fieldAt b (o + 4) 4, gusset := fieldAt b (o + 8) 8, layers := layersOf b, body := b, used := 0 }

/-- The copy and the checks of a load end (R291, R296): the image as it now lies in the store passes every step, takes a
handle, and maps bind to it. -/
def State.imageLoaded (s : State) (c : Cmd) (l : Load) (b : List Byte) : State :=
  let head := b.take 192
  let sig := b.drop (b.length - 256)
  let id := fieldAt head 24 8
  if b.length ≠ l.bytes ∨ !verify1 head sig l.bytes then s.rejectImage c stMalformed 1 id
  else if !s.verify2 head sig then s.rejectImage c stImageSignature 2 id
  else if !verify3 b then s.rejectImage c stImageSignature 3 id
  else if !verify4 b then s.rejectImage c stMalformed 4 id
  else
    let h := s.freeImageHandle
    let s : State := { s with loads := s.loads.filter (fun k => k.id != c.id), images := s.images ++ [imageOf b h l.home] }
    (((s.useImage h).rebind).event 0x50 0xFF sevInfo (h + atByte 1 l.home + atByte 8 id)).completeCmd c stOK h

/-- A running SLOT_PROGRAM reads the image that its map is bound to, and a running SLOT_REPLACE the one that it programs from
(R295). -/
def State.imageBusy (s : State) (h : Nat) : Bool :=
  s.cmds.any (fun c => c.st == .running && c.opcode == opSlotProgram &&
      s.maps.any (fun m => m.slot == c.b 16 1 && m.map == c.b 17 1 && m.handle == some h))
    || s.repls.any (fun x => x.handle == h && (s.image h).any (fun i => i.digest == x.digest))

/-- IMAGE_EVICT (R295). -/
def State.imageEvict (s : State) (c : Cmd) : State :=
  let h := c.b 16 1
  if (s.image h).isNone || s.imageBusy h then s.completeCmd c stMalformed 0
  else (s.dropImage h 1).completeCmd c stOK 0

/-! ## Keys (R287 to R289) -/

def State.pageLocked (s : State) (d page : Nat) : Bool := s.ax .pageLock d page != 0

/-- KEY_CHANGED (R316). -/
def State.keyEvent (s : State) (n change : Nat) : State := s.event 0x57 0xFF sevNotice (n + atByte 1 change)

/-- KEY_ENROL writes the entry and locks its page on every online die (R289). An entry that is not EMPTY on one of them, or whose page is
locked there already, is refused (log entry 156). -/
def State.keyEnrol (s : State) (c : Cmd) (hash : HostRead (BitVec 384)) : State :=
  let n := c.b 16 1
  match hash with
  | .error e => (s.aer e).completeCmd c stMalformed 0
  | .ok h =>
    if n > 7 ∨ s.onlineDies.any (fun d => s.pkt d (2 + n) 48 != 0 || s.pageLocked d (2 + n)) then s.completeCmd c stMalformed 0
    else
      let s := s.each s.onlineDies (fun s d =>
        (s.pktWrite d (2 + n) 0 (leBytes 48 h.toNat ++ [(1 : Byte)])).setAx .pageLock 1 d (2 + n))
      (s.keyEvent n 1).completeCmd c stOK 0

/-- KEY_REVOKE sets the entry's bit of the revocation word, and with LOCK locks its page; a page locked on any die, also one that is
offline, shows that an earlier KEY_REVOKE carried LOCK (R289). -/
def State.keyRevoke (s : State) (c : Cmd) : State :=
  let n := c.b 16 1
  let lock := bit (c.b 17 1) 0
  if n > 7 ∨ s.dies.any (fun d => s.pageLocked d 10) then s.completeCmd c stMalformed 0
  else
    let s := s.each s.onlineDies (fun s d =>
      (s.pktWrite d 10 0 (leBytes 4 (setBit (s.pktNum d 10 0 4) n true))).setAx .pageLock
        (if lock then 1 else s.ax .pageLock d 10) d 10)
    let s := s.keyEvent n 2
    let s := if lock then s.keyEvent n 3 else s
    s.completeCmd c stOK 0

/-! ## Meanings -/

def execImageLoad (id : Nat) (parts : HostRead (List Byte × List Byte)) (s : State) : Res :=
  .next (s.runCmd id opImageLoad (fun s c => s.imageLoad c parts))

def execImageEvict (id : Nat) (s : State) : Res := .next (s.runCmd id opImageEvict (fun s c => s.imageEvict c))

def execKeyEnrol (id : Nat) (hash : HostRead (BitVec 384)) (s : State) : Res :=
  .next (s.runCmd id opKeyEnrol (fun s c => s.keyEnrol c hash))

def execKeyRevoke (id : Nat) (s : State) : Res := .next (s.runCmd id opKeyRevoke (fun s c => s.keyRevoke c))

end Sys2Proof.Machine
end

