-- ==== Sys2Proof/Machine/Tiles.lean ====
section
/-!
DEFINITION. Machine/Tiles.lean: tiles and their placements (R37 to R56), the coefficient tables of the Hem with the terms of
R317 to R319 and the ramp of R339, changes that wait for a seam (R56, R87, R110), and capacity (R30, R31).
-/

namespace Sys2Proof.Machine

/-! ## Capacity -/

/-- Tile states of R55. -/
abbrev tsFree : Nat := 0
abbrev tsCleared : Nat := 1
abbrev tsProgramming : Nat := 2
abbrev tsStaged : Nat := 3
abbrev tsServing : Nat := 4
abbrev tsHeld : Nat := 5
abbrev tsSpare : Nat := 6
abbrev tsRecord : Nat := 7
abbrev tsRetired : Nat := 8

/-- Hold causes of R58. -/
abbrev hcCal : Nat := 0
abbrev hcRefresh : Nat := 1
abbrev hcRepair : Nat := 2
abbrev hcExpert : Nat := 3
abbrev hcImage : Nat := 4

def State.tst (s : State) (d t : Nat) : Nat := s.rd .TIL_STATUS_STATE d t

/-- A tile that exists on the part (R4). -/
def State.isTile (s : State) (d t : Nat) : Bool := decide (d < s.part.dies ∧ t < 1664)

/-- The part has reported fabric ready (R31). -/
def State.fabricReady (s : State) : Bool := s.rd .START_REPORT_STATE == 1

/-- Mappable tiles on online dies that are not retired without replacement (R30). -/
def State.mappable (s : State) : Nat := sumBy s.onlineDies (fun d => 1536 - s.ax .tilesLost d)

/-- Spare tiles of a die, lowest first (R46). -/
def State.spareTiles (s : State) (d : Nat) : List Nat := (List.range 1664).filter (fun t => s.tst d t == tsSpare)

/-- Spare tiles that remain on online dies (R30, R47). -/
def State.sparesLeft (s : State) : Nat := sumBy s.onlineDies (fun d => (s.spareTiles d).length)

/-- Slots out of service (R428). -/
def State.slotsLost (s : State) : Nat := ((List.range 64).filter s.slotLost).length

/-- GLB_CAPACITY follows the state once the fabric is ready (R31). -/
def State.capUpdate (s : State) : State :=
  let s := s.wr .GLB_CAPACITY_SLOTS_LOST s.slotsLost
  if s.fabricReady then (s.wr .GLB_CAPACITY_MAPPABLE_TILES s.mappable).wr .GLB_CAPACITY_SPARE_TILES s.sparesLeft else s

/-- SPARES_LOW at a fall of the spare tiles to 16, to 8 and to 0 (R79). -/
def State.sparesLow (s : State) (d : Nat) : State :=
  let n := (s.spareTiles d).length
  if n = 16 ∨ n = 8 ∨ n = 0 then s.event 0x06 d sevWarning n else s

/-- A tile changes its state. When a spare tile is taken or lost, GLB_CAPACITY follows before any event tells of it (R31, R47),
and SPARES_LOW tells of the fall (R79). -/
def State.setTst (s : State) (d t st : Nat) : State :=
  let spare := s.tst d t == tsSpare && st != tsSpare
  let s := s.wr .TIL_STATUS_STATE st d t
  if spare then s.capUpdate.sparesLow d else s

/-- Global tile ID (00_scope.md, "Numbering"). -/
def gid (d t : Nat) : Nat := d * 2048 + t

/-! ## Hidden tile state -/

def TileSt.fresh : TileSt :=
  { pairs := [], known := false, pulses := [], refs := [], stuck := [], gTotal := 0, gcTotal := 0, sums := [], shadow := none, shadowCodes := [], active := [], flights := [],
    lastSum := none, same := [], lastCodes := [], refRun := [], sde := 0, see := 0, n := 0, fired := [], conv := [],
    blocked := false, calibrated := false, causes := 0, causesAt := 0, result := 0, driftAt := 0, fullAt := 0, acc := 0,
    checks := 0, checkSq := 0, expert := false }

def State.tile (s : State) (d t : Nat) : TileSt := s.tiles.get TileSt.fresh (gid d t)

def State.updTile (s : State) (d t : Nat) (f : TileSt → TileSt) : State :=
  { s with tiles := s.tiles.set TileSt.fresh (gid d t) (f (s.tile d t)) }

/-! ## Placements (R50 to R54) -/

/-- The active map of a slot: 0 A, 1 B; 2 for a slot with no active map. -/
def State.activeMap (s : State) (slot : Nat) : Nat := if s.ax .activeMap 0 slot = 0 then 2 else s.ax .activeMap 0 slot - 1

/-- The placement that a tile holds. -/
def State.placeOf (s : State) (d t : Nat) : Option Placed := s.placed.find? (fun p => p.die == d && p.tile == t)

/-- Slot and layer of a tile as events give them: 0xFF and 0xFFFF for none. -/
def State.slotByte (s : State) (d t : Nat) : Nat := ((s.placeOf d t).map (·.slot)).getD 0xFF
def State.layerWord (s : State) (d t : Nat) : Nat := ((s.placeOf d t).map (·.layer)).getD 0xFFFF

/-- The placement is in the active map of its slot. -/
def State.inActive (s : State) (p : Placed) : Bool := p.map == s.activeMap p.slot

/-- A tile holds a placement in an active map. -/
def State.tileActive (s : State) (d t : Nat) : Bool := match s.placeOf d t with
  | some p => s.inActive p
  | none => false

/-- Tiles of a map, and of a layer in the active map. -/
def State.mapTiles (s : State) (slot m : Nat) : List Placed := s.placed.filter (fun p => p.slot == slot && p.map == m)
def State.layerTiles (s : State) (slot layer : Nat) : List Placed :=
  s.placed.filter (fun p => p.slot == slot && p.map == s.activeMap slot && p.layer == layer)

/-- A tile takes a placement: TIL_MAP, TIL_PLACE, TIL_EXTENT. -/
def State.place (s : State) (p : Placed) : State :=
  let s := ((((s.wr .TIL_MAP_VALID 1 p.die p.tile).wr .TIL_MAP_MAP p.map p.die p.tile).wr .TIL_MAP_SLOT p.slot p.die p.tile).wr
    .TIL_MAP_LAYER p.layer p.die p.tile)
  let s := (((s.wr .TIL_PLACE_ROWBLK p.rowBlk p.die p.tile).wr .TIL_PLACE_COLBLK p.colBlk p.die p.tile).wr
    .TIL_EXTENT_ROWS_M1 p.rowsM1 p.die p.tile).wr .TIL_EXTENT_COLS_M1 p.colsM1 p.die p.tile
  { s with placed := s.placed.filter (fun q => !(q.die == p.die && q.tile == p.tile)) ++ [p] }

/-- A tile of the start-up round of its die has been calibrated, with this result, or is no longer part of it; the last one raises
CAL_STARTUP_DONE (R345). -/
def State.roundTileDone (s : State) (d t : Nat) (ok : Option Bool) : State :=
  if s.ax .roundTile d t = 0 then s
  else
    let s := s.setAx .roundTile 0 d t
    let s := match ok with
      | some true => s.setAx .startAcc (s.ax .startAcc d + 1) d
      | some false => s.setAx .startRej (s.ax .startRej d + 1) d
      | none => s
    let n := s.ax .startCal d
    if n > 2 then s.setAx .startCal (n - 1) d
    else ((s.setAx .startCal 0 d).wr .CAL_STATUS_START_DONE 1 d).event 0x96 d sevInfo
      ((s.now - (s.ax .readyAt - 1)) / 1000000 + atByte 4 (s.ax .startAcc d) + atByte 6 (s.ax .startRej d))

/-- The tile that takes another's place takes its place in the start-up round (R345). -/
def State.roundTileMove (s : State) (d t n : Nat) : State :=
  if s.ax .roundTile d t = 0 then s else (s.setAx .roundTile 0 d t).setAx .roundTile 1 d n

/-- A tile leaves its placement. -/
def State.unplace (s : State) (d t : Nat) : State :=
  let s := s.roundTileDone d t none
  { s.wr .TIL_MAP_VALID 0 d t with placed := s.placed.filter (fun q => !(q.die == d && q.tile == t)) }

def State.mapOf (s : State) (slot m : Nat) : Option MapSt := s.maps.find? (fun x => x.slot == slot && x.map == m)

def State.updMap (s : State) (slot m : Nat) (f : MapSt → MapSt) : State :=
  { s with maps := s.maps.map (fun x => if x.slot = slot ∧ x.map = m then f x else x) }

def MapSt.layer (m : MapSt) (k : Nat) : Option Layer := m.layers[k]?

/-- Every placement that a descriptor defines (R310). -/
def Layer.blocks (l : Layer) : List (Nat × Nat) :=
  if l.crossbar then (List.range l.rowBlks).flatMap (fun i => (List.range l.colBlks).map (fun j => (i, j))) else []

/-! ## Columns (R37, R43) -/

def colBlock (p : Nat) : Nat := p / 18
def colPos (p : Nat) : Nat := p % 18

/-- Coarse and fine physical columns of logical output j. -/
def coarseCol (j : Nat) : Nat := 18 * (j / 8) + 2 * (j % 8)
def fineCol (j : Nat) : Nat := coarseCol j + 1

/-- Logical output of a data column. -/
def colOutput (p : Nat) : Nat := 8 * colBlock p + colPos p / 2

def isData (p : Nat) : Bool := decide (colPos p < 16)
def isRef (p : Nat) : Bool := colPos p == 16
def isSpareCol (p : Nat) : Bool := colPos p == 17

/-- q of R42 in quarters. -/
def refQ (b : Nat) : Nat := b % 5

/-- Field of TIL_SPARECOL for a block: byte k of register n. -/
def spareColField (b : Nat) : Field :=
  if b % 4 = 0 then .TIL_SPARECOL_BLK0 else if b % 4 = 1 then .TIL_SPARECOL_BLK1 else if b % 4 = 2 then .TIL_SPARECOL_BLK2
  else .TIL_SPARECOL_BLK3

/-- What the spare column of a block replaces: a position, 0xFE, or 0xFF. -/
def State.spareCol (s : State) (d t b : Nat) : Nat := s.rd (spareColField b) d t (b / 4)

/-- The physical column that serves column p: the block's spare where it replaces p. -/
def State.servingCol (s : State) (d t p : Nat) : Nat :=
  if s.spareCol d t (colBlock p) = colPos p then 18 * colBlock p + 17 else p

/-- The column whose part a physical column plays: a spare plays the column that it replaces; none for an unused spare, and
for a column that a spare replaces. -/
def State.colRole (s : State) (d t p : Nat) : Option Nat :=
  let v := s.spareCol d t (colBlock p)
  if isSpareCol p then (if v ≤ 16 then some (18 * colBlock p + v) else none)
  else if v = colPos p then none else some p

/-- Field of HEM_CONVSUB for spare converter 72 + k. -/
def convSubField (k : Nat) : Field :=
  if k = 0 then .HEM_CONVSUB_SP72 else if k = 1 then .HEM_CONVSUB_SP73 else if k = 2 then .HEM_CONVSUB_SP74
  else .HEM_CONVSUB_SP75

/-! ## Coefficient tables (R317 to R326, R348, R537) -/

/-- Tables of CAL_TAB_ADDR, and further ones of the model: ramp targets and starts, channel scales, and the values that were
in force when an offset was measured. -/
abbrev tOfs : Nat := 0
abbrev tRes : Nat := 1
abbrev tOfsTgt : Nat := 2
abbrev tResTgt : Nat := 3
abbrev tTrim : Nat := 4
abbrev tMeas : Nat := 5
abbrev tRevOfs : Nat := 6
abbrev tRevRes : Nat := 7
abbrev tThresh : Nat := 8
abbrev tUnit : Nat := 9
abbrev tVal : Nat := 10
abbrev tTemp : Nat := 11
abbrev tGlobal : Nat := 12
abbrev tRevOfsTgt : Nat := 13
abbrev tRevResTgt : Nat := 14
abbrev tResStart : Nat := 15
abbrev tRevResStart : Nat := 16
abbrev tThreshTgt : Nat := 17
abbrev tScaleW : Nat := 18
abbrev tRevTrim : Nat := 19
abbrev tRevMeas : Nat := 20
/-- Trims and temperature sets written by an expert that act at hand-back. -/
abbrev tTrimNew : Nat := 21
abbrev tTempNew : Nat := 22
/-- Gains of the converters (entries 0 to 75) and offsets of the spare converters (entry 128 + 16 * k + slot) (R116). -/
abbrev tConv : Nat := 23
/-- Threshold taps and unit cells that a full calibration found and that the engine may not set yet (R14, R346, R348). -/
abbrev tThreshNew : Nat := 24
abbrev tUnitNew : Nat := 25
/-- Expert writes that wait for a seam: table 32 + k. -/
abbrev tPend : Nat := 32

/-- FP32 patterns of 1 and of the LSB of R107. -/
abbrev f1 : Nat := 0x3F800000
def lsbUnits (range : Nat) : Nat := 16 * 2 ^ range
def lsbCode (range : Nat) : Nat := 0x41800000 + range * 0x00800000

/-- Key of a calibration table of a tile. -/
def tabKey (d t tab : Nat) : Nat := gid d t * 64 + tab

/-- What an entry reads before anything has been written to it (R537, R319, R93; log entries 25 and 26). -/
def State.tabDefault (s : State) (d t tab i : Nat) : Nat :=
  if tab = tRes ∨ tab = tResTgt ∨ tab = tRevRes ∨ tab = tRevResTgt ∨ tab = tResStart ∨ tab = tRevResStart then
    lsbCode (s.rd .HEM_CFG_RANGE d t)
  else if tab = tThresh ∨ tab = tThreshTgt then 32
  else if tab = tUnit then 0x7F
  else if tab = tVal then (if i = 0 ∨ i = 1 ∨ i = 2 ∨ i = 6 ∨ i = 8 then f1 else 0)
  else if tab = tGlobal then (if i ≤ 2 then f1 else 0)
  else if tab = tScaleW ∨ tab = tRevTrim ∨ (tab = tConv ∧ i < 128) then f1
  else 0

/-- An entry that has been written. -/
def State.tabAt (s : State) (d t tab i : Nat) : Option Nat := SMap.get none (s.tabs.get [] (tabKey d t tab)) i

def State.tab (s : State) (d t tab i : Nat) : Nat := (s.tabAt d t tab i).getD (s.tabDefault d t tab i)

def State.setTab (s : State) (d t tab i v : Nat) : State :=
  { s with tabs := s.tabs.set [] (tabKey d t tab) (SMap.set none (s.tabs.get [] (tabKey d t tab)) i (some v)) }

/-- Nothing is written in a table any more. -/
def State.dropTab (s : State) (d t tab : Nat) : State := { s with tabs := s.tabs.set [] (tabKey d t tab) [] }

/-- Slot of a tile in the directory of the record space (R321). -/
def State.recSlot (s : State) (d t : Nat) : Option Nat :=
  if s.ax .recSlot d t = 0 then (if t < 1656 then some t else none) else if s.ax .recSlot d t = 1 then none else some (s.ax .recSlot d t - 2)

def State.setSlot (s : State) (d t : Nat) (k : Option Nat) : State :=
  (s.setAx .recSlot ((k.map (· + 2)).getD 1) d t).setAx .recGen ((s.ax .recGen d + 1) % 2 ^ 32) d

/-- A record or retired tile has no slot (R321). -/
def State.noSlot (s : State) (d t : Nat) : State := s.setSlot d t none

/-- A replacement takes the slot of the tile that it replaces (R321); its own record moves there with it (log entry 126). -/
def State.takeSlot (s : State) (d new old : Nat) : State := (s.setSlot d new (s.recSlot d old)).noSlot d old

/-- Two tiles exchange their slots: after a refresh by swap both may hold weights again. -/
def State.swapSlots (s : State) (d a b : Nat) : State := (s.setSlot d a (s.recSlot d b)).setSlot d b (s.recSlot d a)

/-- Every table of a tile back to what R537 says. -/
def State.clearTabs (s : State) (d t : Nat) : State :=
  s.each [tOfs, tRes, tOfsTgt, tResTgt, tRevOfs, tRevRes, tRevOfsTgt, tRevResTgt, tResStart, tRevResStart] (fun s n => s.dropTab d t n)

/-- Value of an FP32 entry. -/
def State.tabF (s : State) (d t tab i : Nat) : Rat := (f32Val (s.tab d t tab i)).rat

/-- FP32 pattern of an exact value (log entry 27). -/
def f32Of (r : Rat) : Nat := f32Code (round32 (.ofRat r))

/-! ## The corrections (R317 to R319, R330) -/

/-- Temperature of set i in 1/16 °C (R325). -/
def setTemp (i : Nat) : Int := ([-320, 160, 640, 1120, 1600] : List Int).getD i 0

/-- A valid temperature set of a die: none has been lost. -/
def State.setValid (s : State) (d i : Nat) : Bool := s.tab d 0 tGlobal (16 + i) == 0

/-- σ₀ in G_u, from the engine's value in 1/256 G_u: at least 0.06 (R342). -/
def sigmaOf (n : Nat) : Rat := max (6 / 100) ((n : Nat) / 256)

/-- Interpolation of a term over the valid sets at a temperature in 1/16 °C (R330). -/
def interpolate (sets : List (Int × Rat)) (t : Int) : Rat :=
  let below := sets.filter (fun e => decide (e.1 ≤ t))
  let above := sets.filter (fun e => decide (t < e.1))
  match below.getLast?, above.head? with
  | some a, some b => a.2 + (b.2 - a.2) * ((t - a.1 : Int) : Rat) / ((b.1 - a.1 : Int) : Rat)
  | some a, none => a.2
  | none, some b => b.2
  | none, none => 0

/-- e_T of a tile at a temperature. -/
def State.gainTerm (s : State) (d t : Nat) (temp : Int) : Rat :=
  interpolate (((List.range 5).filter (s.setValid d)).map (fun i =>
    (setTemp i, ((sext 16 (s.tab d t tTemp i % 65536) : Int) : Rat) / 65536))) temp

/-- f_T of a tile, in codes. -/
def State.shiftTerm (s : State) (d t : Nat) (temp : Int) : Rat :=
  interpolate (((List.range 5).filter (s.setValid d)).map (fun i =>
    (setTemp i, ((sext 8 (s.tab d t tTemp i / 65536) : Int) : Rat) / 4))) temp

/-- Temperature that the die's engine uses, in 1/16 °C. -/
def State.tUsed (s : State) (d : Nat) : Int := sext 16 (s.rd .CAL_TEMP_TJ_USED d)

/-- t_c of a trim byte. -/
def trimOf (b : Nat) : Rat := 1 + ((sext 8 b : Int) : Rat) / 1024

/-- The channel scale in a column's rescale entry: 1 for a reference column (R317). -/
def State.colScale (s : State) (d t p : Nat) : Rat := if isData p then s.tabF d t tScaleW (colOutput p) else 1

/-- K × G_f × (1 + e_T), the part of the gain correction that every column of a tile shares. -/
def State.tileGain (s : State) (d t : Nat) : Rat :=
  s.tabF d 0 tGlobal 1 * s.tabF d t tVal 6 * (1 + s.gainTerm d t (s.tUsed d))

/-- r_c of R317 for physical column p, as an FP32 pattern; a spare plays the column that it replaces. -/
def State.resTarget (s : State) (d t p : Nat) : Nat :=
  let q := (s.colRole d t p).getD p
  f32Of (s.colScale d t q * s.tileGain d t * trimOf (s.tab d t tTrim q) * s.tabF d t tVal 1
    * (lsbUnits (s.rd .HEM_CFG_RANGE d t) : Nat))

/-- A number of codes as an offset byte: ½ code, clamped (R318). -/
def ofsByte (r : Rat) : Nat := wrap 8 (max (-128) (min 127 (rneI (2 * r))))

/-- Offset entry of R318: MEASURED is in 1/16 code; entry 9 of TILEVAL is f_m. -/
def State.ofsTarget (s : State) (d t p : Nat) : Nat :=
  ofsByte (((sext 16 (s.tab d t tMeas p) : Int) : Rat) / 16 + s.shiftTerm d t (s.tUsed d) - s.tabF d t tVal 9)

/-- Reverse rescale entry of R319. -/
def State.revTarget (s : State) (d t r : Nat) : Nat :=
  f32Of (s.tileGain d t * s.tabF d t tRevTrim r * s.tabF d t tVal 1 * (lsbUnits (s.rd .HEM_CFG_RANGE d t) : Nat))

def State.revOfsTarget (s : State) (d t r : Nat) : Nat := ofsByte (((sext 16 (s.tab d t tRevMeas r) : Int) : Rat) / 16)

/-- A tile whose coefficients move by ramp: SERVING, or HELD in the active map (R339). -/
def State.ramps (s : State) (d t : Nat) : Bool :=
  s.tst d t == tsServing || (s.tst d t == tsHeld && s.tileActive d t)

/-- A new target of a rescale entry, and the start of its ramp. -/
def State.aimRes (s : State) (d t now tgt start i v : Nat) (ramp : Bool) : State :=
  if ramp then (s.setTab d t start i (s.tab d t now i)).setTab d t tgt i v
  else (s.setTab d t now i v).setTab d t tgt i v

/-- New targets of the forward tables from the present terms (R317, R318, R339). -/
def State.aimForward (s : State) (d t : Nat) (ramp : Bool) : State :=
  s.each (List.range 1152) (fun s p =>
    let s := s.aimRes d t tRes tResTgt tResStart p (s.resTarget d t p) ramp
    let s := s.setTab d t tOfsTgt p (s.ofsTarget d t p)
    if ramp then s else s.setTab d t tOfs p (s.ofsTarget d t p))

/-- New targets of the reverse tables (R319). -/
def State.aimReverse (s : State) (d t : Nat) (ramp : Bool) : State :=
  s.each (List.range 1024) (fun s r =>
    let s := s.aimRes d t tRevRes tRevResTgt tRevResStart r (s.revTarget d t r) ramp
    let s := s.setTab d t tRevOfsTgt r (s.revOfsTarget d t r)
    if ramp then s else s.setTab d t tRevOfs r (s.revOfsTarget d t r))

/-- D moves with the entries. -/
def State.aimVals (s : State) (d t : Nat) (ramp : Bool) : State :=
  if ramp then s.setTab d t tVal 8 (s.tab d t tVal 0) else s.setTab d t tVal 0 (s.tab d t tVal 1)

/-- All targets of a tile anew, by ramp or at once (R339). -/
def State.aimAll (s : State) (d t : Nat) : State :=
  let r := s.ramps d t
  ((s.aimForward d t r).aimReverse d t r).aimVals d t r

/-- A full calibration of the tile runs: every one of its coefficients holds its value (R340). -/
def State.fullRuns (s : State) (d t : Nat) : Bool := s.cals.any (fun c => c.die == d && c.tile == t && c.full)

/-- The engine may set new targets for a tile: it is not held, and the tile is under firmware management (R346, R348). -/
def State.mayAim (s : State) (d t : Nat) : Bool := !s.rdb .CAL_CTRL_HOLD d && !(s.tile d t).expert

/-- New targets that the engine sets. During a full calibration of the tile they are due when it ends (R340). -/
def State.aim (s : State) (d t : Nat) : State :=
  if !s.mayAim d t then s
  else if s.fullRuns d t then s.setAx .aimDue 1 d t
  else (s.setAx .aimDue 0 d t).aimAll d t

/-- One step of R339 of an FP32 entry. -/
def rampStep (seams cap now tgt start : Nat) : Nat :=
  let n := (f32Val now).rat
  let g := (f32Val tgt).rat
  let a := (f32Val start).rat
  if n = g then now
  else
    let st := (g - a) / (seams : Nat)
    let c := |a| * (cap : Nat) / 256
    let st := if |st| > c then (if st < 0 then -c else c) else st
    if |g - n| ≤ |st| then tgt else f32Of (n + st)

/-- One step of a byte towards its target by at most 1 (½ code, or one tap). -/
def unitStep (w now tgt : Nat) : Nat :=
  let n := sext w now
  let g := sext w tgt
  if n = g then now else if n < g then wrap w (n + 1) else wrap w (n - 1)

/-- Indices of a table of a tile that hold anything. -/
def State.tabUsed (s : State) (d t tab : Nat) : List Nat :=
  (s.tabs.get [] (tabKey d t tab)).map (·.1)

/-- The table of targets of a table in force; the unit-cell choice has none. -/
def targetOf (k : Nat) : Nat :=
  if k = tOfs then tOfsTgt else if k = tRes then tResTgt else if k = tRevOfs then tRevOfsTgt else if k = tRevRes then tRevResTgt
  else if k = tThresh then tThreshTgt else k

/-- Expert writes, and unit-cell choices, replace their entries (R93, R117). -/
def State.takeTabs (s : State) (d t : Nat) : State :=
  s.each [tOfs, tRes, tRevOfs, tRevRes, tThresh, tUnit] (fun s k =>
    let l := s.tabUsed d t (tPend + k)
    let s := s.each l (fun s i => (s.setTab d t k i (s.tab d t (tPend + k) i)).setTab d t (targetOf k) i (s.tab d t (tPend + k) i))
    s.dropTab d t (tPend + k))

/-- Step 6 of R177 for one tile: expert writes replace their entries; every other entry moves one step (R339). During a full calibration
of the tile none moves (R340). -/
def State.rampTile (s : State) (d t : Nat) : State :=
  if s.fullRuns d t then s else
  let sm := s.rd .CAL_RAMP_SEAMS d
  let cp := s.rd .CAL_RAMP_STEP d
  let res := fun (s : State) now tgt start => s.each (s.tabUsed d t tgt) (fun s i =>
    s.setTab d t now i (rampStep sm cp (s.tab d t now i) (s.tab d t tgt i) (s.tab d t start i)))
  let ofs := fun (s : State) w now tgt => s.each (s.tabUsed d t tgt) (fun s i =>
    s.setTab d t now i (unitStep w (s.tab d t now i) (s.tab d t tgt i)))
  let s := ofs (ofs (res (res s tRes tResTgt tResStart) tRevRes tRevResTgt tRevResStart) 8 tOfs tOfsTgt) 8 tRevOfs tRevOfsTgt
  let s := ofs s 7 tThresh tThreshTgt
  (s.setTab d t tVal 0 (rampStep sm cp (s.tab d t tVal 0) (s.tab d t tVal 1) (s.tab d t tVal 8))).takeTabs d t

/-- A tile that leaves the active map takes its targets at once (R339), or when its full calibration is over (R340). -/
def State.settle (s : State) (d t : Nat) : State :=
  if s.fullRuns d t then s else
  let cp := fun (s : State) now tgt => s.each (s.tabUsed d t tgt) (fun s i => s.setTab d t now i (s.tab d t tgt i))
  (cp (cp (cp (cp (cp s tRes tResTgt) tRevRes tRevResTgt) tOfs tOfsTgt) tRevOfs tRevOfsTgt) tThresh tThreshTgt).setTab d t tVal 0
    (s.tab d t tVal 1)

/-- CAL_TAB_STAT.RAMPING: some entry is away from its target. -/
def State.ramping (s : State) (d t : Nat) : Bool :=
  [(tRes, tResTgt), (tRevRes, tRevResTgt), (tOfs, tOfsTgt), (tRevOfs, tRevOfsTgt), (tThresh, tThreshTgt)].any (fun e =>
    (s.tabUsed d t e.2).any (fun i => s.tab d t e.1 i != s.tab d t e.2 i))

/-! ## Causes of STALE_CAL (R341) -/

abbrev scUntrimmed : Nat := 0
abbrev scConverter : Nat := 1
abbrev scDriftOld : Nat := 2
abbrev scRejected : Nat := 3
abbrev scTrace : Nat := 4
abbrev scNoSet : Nat := 5
abbrev scUnitLost : Nat := 6
abbrev scReverse : Nat := 7

def State.setCause (s : State) (d t c : Nat) (b : Bool) : State :=
  s.updTile d t (fun x => { x with causes := setBit x.causes c b })

/-! ## Changes that wait for a seam (R56, R87, R93, R110) -/

/-- The tile is SERVING or HELD: a setting waits for a seam. -/
def State.inPipe (s : State) (d t : Nat) : Bool := s.tst d t == tsServing || s.tst d t == tsHeld

/-- Some change of the drivers waits. -/
def State.drvPend (s : State) (d t : Nat) : State :=
  s.wr .DRV_STAT_PEND (b2n (s.ax .pendDrive d t != 0 || s.ax .pendSlew d t != 0)) d t

/-- Span and full scale (R87): value SPAN * 4 + FS. -/
def State.setDrive (s : State) (d t v : Nat) : State :=
  if s.inPipe d t then (s.setAx .pendDrive (1 + v % 8) d t).drvPend d t
  else (((s.wr .DRV_CFG_SPAN (v / 4) d t).wr .DRV_CFG_FS v d t).setAx .pendDrive 0 d t).drvPend d t

/-- Slew setting: value STEP * 16 + RATE. -/
def State.setSlew (s : State) (d t v : Nat) : State :=
  if s.inPipe d t then (s.setAx .pendSlew (1 + v % 4096) d t).drvPend d t
  else (((s.wr .DRV_SLEW_STEP (v / 16) d t).wr .DRV_SLEW_RATE v d t).setAx .pendSlew 0 d t).drvPend d t

def State.setRange (s : State) (d t v : Nat) : State :=
  if s.inPipe d t then s.setAx .pendRange (1 + v % 4) d t else (s.wr .HEM_CFG_RANGE v d t).setAx .pendRange 0 d t

/-- Taps: value WSTOP * 64 + WSTART. -/
def State.setTaps (s : State) (d t v : Nat) : State :=
  if s.inPipe d t || s.fullRuns d t then (s.setAx .pendTaps (1 + v % 4096) d t).wr .HEM_TAPS_PEND 1 d t
  else (((s.wr .HEM_TAPS_WSTOP (v / 64) d t).wr .HEM_TAPS_WSTART v d t).setAx .pendTaps 0 d t).wr .HEM_TAPS_PEND 0 d t

/-- One tap of a window edge per seam (R339); whole for an expert write, and on a tile that has left the pipeline. -/
def tapStep (whole : Bool) (now tgt : Nat) : Nat :=
  if whole then tgt else if now < tgt then now + 1 else if tgt < now then now - 1 else now

/-- Steps 4 and 5 of R177 for one tile. A change of RANGE leaves the rescale entries as they are until the calibration engine aims them
anew (R107, log entry 123). -/
def State.seamSettings (s : State) (d t : Nat) : State :=
  let a := s.ax .pendDrive d t
  let s := if a = 0 then s else ((s.wr .DRV_CFG_SPAN ((a - 1) / 4) d t).wr .DRV_CFG_FS (a - 1) d t).setAx .pendDrive 0 d t
  let b := s.ax .pendSlew d t
  let s := if b = 0 then s else ((s.wr .DRV_SLEW_STEP ((b - 1) / 16) d t).wr .DRV_SLEW_RATE (b - 1) d t).setAx .pendSlew 0 d t
  let s := s.drvPend d t
  let r := s.ax .pendRange d t
  let s := if r = 0 then s else (s.wr .HEM_CFG_RANGE (r - 1) d t).setAx .pendRange 0 d t
  let w := s.ax .pendTaps d t
  if w = 0 ∨ s.fullRuns d t = true then s
  else
    let e := s.ax .hemExpert d t != 0 || !s.inPipe d t
    let stop := tapStep e (s.rd .HEM_TAPS_WSTOP d t) ((w - 1) / 64)
    let start := tapStep e (s.rd .HEM_TAPS_WSTART d t) ((w - 1) % 64)
    let s := (s.wr .HEM_TAPS_WSTOP stop d t).wr .HEM_TAPS_WSTART start d t
    if stop = (w - 1) / 64 ∧ start = (w - 1) % 64 then (s.setAx .pendTaps 0 d t).wr .HEM_TAPS_PEND 0 d t else s

/-- The tile becomes STAGED (R60). -/
def State.toStaged (s : State) (d t : Nat) : State := (s.wr .TIL_STATUS_STATE tsStaged d t).setAx .precWait 0 d t

/-- A tile that leaves the pipeline without a seam of its slot takes every change that waits for one (R87, R93, R117, R339). -/
def State.takePending (s : State) (d t : Nat) : State :=
  ((s.when (!s.fullRuns d t) (fun s => s.takeTabs d t)).settle d t).seamSettings d t

/-- Taps that the tile has, or that wait for a seam: WSTOP * 64 + WSTART. -/
def State.tapsNow (s : State) (d t : Nat) : Nat :=
  if s.ax .pendTaps d t = 0 then s.rd .HEM_TAPS_WSTOP d t * 64 + s.rd .HEM_TAPS_WSTART d t else s.ax .pendTaps d t - 1

/-- What a full calibration found becomes the target once the engine may set it: D, unit cells, threshold taps and window taps (R93,
R336, R346, R348). What belongs to a unit out of firmware management waits until that unit is handed back (R14). -/
def State.takeFull (s : State) (d t : Nat) : State :=
  if !s.mayAim d t then s
  else
    let s := if s.tab d t tVal 10 = 0 then s else (s.setTab d t tVal 1 (s.tab d t tVal 10)).setTab d t tVal 10 0
    let s := if s.rdb .DRV_STAT_EXPERT d t then s
      else (s.each (s.tabUsed d t tUnitNew) (fun s r =>
        s.setTab d t (if s.inPipe d t then tPend + tUnit else tUnit) r (s.tab d t tUnitNew r))).dropTab d t tUnitNew
    let s := (s.each (s.tabUsed d t tThreshNew) (fun s k =>
      let s := s.setTab d t tThreshTgt k (s.tab d t tThreshNew k)
      if s.ramps d t then s else s.setTab d t tThresh k (s.tab d t tThreshNew k))).dropTab d t tThreshNew
    if s.ax .tapsNew d t = 0 ∨ s.ax .hemExpert d t ≠ 0 then s
    else (s.setTaps d t (s.ax .tapsNew d t - 1)).setAx .tapsNew 0 d t

/-- A full calibration of the tile is over, with or without effect: its coefficients move again (R340). -/
def State.fullOver (s : State) (d t : Nat) : State :=
  let s := if s.inPipe d t then s else s.takePending d t
  if s.ax .aimDue d t = 1 then s.aim d t else s

/-- The tile becomes HELD with a cause: at its slot's next seam when it is SERVING, at once for the cause of a tile that is
HELD already (R56). -/
def State.wantHold (s : State) (d t cause : Nat) : State :=
  if s.tst d t = tsHeld then (s.wr .TIL_STATUS_HOLD_CAUSE cause d t).setAx .pendJoin 0 d t
  else if s.tst d t = tsServing then s.setAx .pendHold (1 + cause) d t
  else s

/-- A HELD tile rejoins at the next seam of its slot, unless TIL_CTRL.HOLD is set: then it stays HELD with cause EXPERT. -/
def State.wantJoin (s : State) (d t : Nat) : State :=
  let s := s.setAx .pendHold 0 d t
  if s.tst d t = tsHeld then
    if s.rdb .TIL_CTRL_HOLD d t then s.wr .TIL_STATUS_HOLD_CAUSE hcExpert d t else s.setAx .pendJoin 1 d t
  else s

/-- A running playback keeps a tile out (R103). -/
def State.playing (s : State) (d t : Nat) : Bool := s.rdb .DRV_STAT_PLAYING d t

/-- A tile joins: its drift accumulators restart (R333). -/
def State.joins (s : State) (d t : Nat) : State :=
  ((s.wr .TIL_STATUS_STATE tsServing d t).wr .TIL_STATUS_HOLD_CAUSE 0 d t).updTile d t (fun x => { x with sde := 0, see := 0, n := 0 })

/-- A repair of the tile, or its refresh in place, waits or runs: it joins as HELD. -/
def State.underWork (s : State) (d t : Nat) : Option Nat :=
  if s.progq.any (fun r => r.die == d && r.kind == 2 && (r.old == t || (r.what == .column && r.tile == t))) then
    some (if s.progq.any (fun r => r.die == d && r.kind == 2 && (r.old == t || r.tile == t) && r.wait) then hcImage else hcRepair)
  else if s.refreshes.any (fun x => x.die == d && x.tile == t && x.new == 0x7FF && x.phase == .program) then some hcRefresh
  else none

/-- A full calibration or an engine works on the tile, which serves no stitch meanwhile (R36). -/
def State.tileWorked (s : State) (d t : Nat) : Bool :=
  s.fullRuns d t || s.progq.any (fun r => r.die == d && r.tile == t && r.engine.isSome)

/-- Step 2 of R177 for one tile: the tiles of a map that is no longer active become STAGED; a tile is held, or it rejoins; a
STAGED tile of the active map joins. A tile on which a full calibration or an engine works joins when that is over (R36). -/
def State.seamState (s : State) (d t : Nat) : State :=
  let h := s.ax .pendHold d t
  if s.inPipe d t ∧ !s.tileActive d t then
    (((s.toStaged d t).settle d t).setAx .pendHold 0 d t).setAx .pendJoin 0 d t
  else if h ≠ 0 ∧ s.tst d t = tsServing then
    ((s.wr .TIL_STATUS_STATE tsHeld d t).wr .TIL_STATUS_HOLD_CAUSE (h - 1) d t).setAx .pendHold 0 d t
  else if s.ax .pendJoin d t = 1 ∧ s.tst d t = tsHeld ∧ !s.playing d t ∧ !s.tileWorked d t then
    (s.joins d t).setAx .pendJoin 0 d t
  else if s.tst d t = tsStaged ∧ s.tileActive d t ∧ !s.playing d t then
    match s.underWork d t with
    | some c => (s.wr .TIL_STATUS_STATE tsHeld d t).wr .TIL_STATUS_HOLD_CAUSE c d t
    | none =>
      if s.tileWorked d t then s
      else if s.rdb .TIL_CTRL_HOLD d t then (s.wr .TIL_STATUS_STATE tsHeld d t).wr .TIL_STATUS_HOLD_CAUSE hcExpert d t
      else s.joins d t
  else s

/-! ## Codes of a stitch -/

/-- Code of a column: a conversion that did not finish gives 512 (R115). -/
def codeAt (codes : List (Option Nat)) (p : Nat) : Nat := ((codes.getD p none).getD 512) % 1024

/-- code − 512 − ofs / 2, exact. -/
def residue (code ofs : Nat) : Rat := ((code : Int) : Rat) - 512 - ((sext 8 ofs : Int) : Rat) / 2

/-- A converter saturation (R113); a conversion that did not finish is none (R115). -/
def saturated (codes : List (Option Nat)) (p : Nat) : Bool := codes.getD p none == some 0 || codes.getD p none == some 1023

/-! ## Precision tiles (R59, R60) -/

def State.precisionCount (s : State) (d : Nat) : Nat :=
  ((List.range 1664).filter (fun t => s.rdb .TIL_CTRL_PRECISION d t)).length

/-- R59 allows a tile to become a precision tile, apart from its state. -/
def State.precisionRoom (s : State) (d t : Nat) : Bool :=
  s.rdb .TIL_CTRL_PRECISION d t || decide (s.precisionCount d < 64)

/-- A calibration queue entry (R337): classes 1, 2 and 3; 0 is a quick calibration that CAL_CTRL.HOLD keeps waiting. -/
def State.queueCal (s : State) (d t prio : Nat) : State :=
  if s.cals.any (fun r => r.die == d && r.tile == t && r.full) then s
  else if s.calq.any (fun r => r.die == d && r.tile == t && (r.prio == 0) == (prio == 0)) then
    { s with calq := s.calq.map (fun r => if r.die = d ∧ r.tile = t ∧ r.prio ≠ 0 then { r with prio := min r.prio prio } else r) }
  else
    let n := s.ax .calCount
    ({ s with calq := s.calq ++ [⟨d, t, prio, n⟩] } : State).setAx .calCount (n + 1)

end Sys2Proof.Machine
end

