-- ==== Sys2Proof/Machine/Engines.lean ====
section
/-!
DEFINITION. Machine/Engines.lean: the programming engines and their queue (R307, R308), what PROG and CLEAR do to a tile
(R39, R42, R301 to R306), retirement and replacement (R69 to R78, R538), and failures of elements.
-/

namespace Sys2Proof.Machine

/-! ## Level pairs (R38, R39, R305) -/

/-- Coarse and fine slice of a W8X code (R133). -/
def coarseSlice (c : Nat) : Int := sext 4 (c / 16)
def fineSlice (c : Nat) : Int := sext 4 c

/-- A pair (L+, L-) gives a slice value under stuck levels, held as 1 + level, 0 for a sound cell. -/
def pairOk (v : Int) (sp sn : Nat) (x : Nat × Nat) : Bool :=
  decide ((x.1 : Int) - x.2 = v) && (sp == 0 || x.1 + 1 == sp) && (sn == 0 || x.2 + 1 == sn)

/-- Every pair of levels. -/
def allPairs : List (Nat × Nat) := (List.range 8).flatMap (fun a => (List.range 8).map (fun b => (a, b)))

/-- The pair of R39: the lower level is 0, or the pair keeps a stuck cell at its level. -/
def pairFor (v : Int) (sp sn : Nat) : Option (Nat × Nat) :=
  if sp = 0 ∧ sn = 0 then some (v.toNat, (-v).toNat) else allPairs.find? (pairOk v sp sn)

/-- Level changes from the present pair. -/
def pairCost (cur x : Nat × Nat) : Nat := (max cur.1 x.1 - min cur.1 x.1) + (max cur.2 x.2 - min cur.2 x.2)

/-- The pair of R305: one of those with the fewest level changes; the spec does not say which of several, so the choice is a
free value (log entry 6). -/
def pairInc (v : Int) (sp sn : Nat) (cur : Nat × Nat) (free : Nat) : Option (Nat × Nat) :=
  let l := allPairs.filter (pairOk v sp sn)
  let least := l.foldl (fun m x => min m (pairCost cur x)) 15
  let b := l.filter (fun x => pairCost cur x == least)
  b[Config.freeValue free % b.length]?

/-- Key of a cell pair. -/
def cellKey (row p : Nat) : Nat := row * 1152 + p

/-- Stuck level of a cell plus 1, 0 for a sound one; deck 0 positive. -/
def TileSt.stuckAt (x : TileSt) (row p deck : Nat) : Nat := x.stuck.get 0 (2 * cellKey row p + deck)

/-- Level of a cell after a pulse: a free value among the levels that it allows (log entry 128). -/
def Pulse.level (p : Pulse) (row cell l : Nat) : Nat :=
  if row < p.first ∨ p.first + p.rows ≤ row then l
  else
    let v := Config.freeValue (p.free + cell)
    if p.kind = 0 then v % 8 else if p.kind = 1 then l + v % (8 - l) else v % (l + 1)

/-- Level of a cell: a stuck one keeps its level (R539). -/
def TileSt.levelAt (x : TileSt) (row p deck : Nat) : Nat :=
  let k := x.stuckAt row p deck
  let v := x.pairs.get 0 (cellKey row p)
  if k ≠ 0 then k - 1
  else x.pulses.foldl (fun l e => e.level row (2 * cellKey row p + deck) l % 8) (if deck = 0 then v / 8 else v % 8)

/-- Levels of a pair. -/
def TileSt.pairAt (x : TileSt) (row p : Nat) : Nat × Nat := (x.levelAt row p 0, x.levelAt row p 1)

/-- Slice value that a payload asks of data column p in a row. -/
def sliceOf (payload : Array Byte) (row p : Nat) : Int :=
  let c := (payload.getD (512 * row + colOutput p) 0).toNat
  if colPos p % 2 = 0 then coarseSlice c else fineSlice c

/-- The pair that the engine takes for physical column p, which plays data column q. -/
def TileSt.solve (x : TileSt) (payload : Array Byte) (inc : Bool) (free row p q : Nat) : Option (Nat × Nat) :=
  let v := sliceOf payload row q
  if inc then pairInc v (x.stuckAt row p 0) (x.stuckAt row p 1) (x.pairAt row p) (free + cellKey row p)
  else pairFor v (x.stuckAt row p 0) (x.stuckAt row p 1)

/-- A column holds a stuck cell; without one every slice value has its pair. -/
def TileSt.stuckIn (x : TileSt) (p : Nat) : Bool := x.stuck.any (fun e => e.1 / 2 % 1152 == p)

/-- A physical column has a pair for every row of what it plays. -/
def TileSt.solvable (x : TileSt) (payload : Array Byte) (inc : Bool) (free p q : Nat) : Bool :=
  !isData q || !(x.stuckIn p) || (List.range 1024).all (fun r => (x.solve payload inc free r p q).isSome)

/-- The level pairs after PROG, in order of their keys; columns without a part keep their levels. The pairs of a reference column
hold no level: its cells stand in `refs`. -/
def State.newPairs (s : State) (d t : Nat) (payload : List Byte) (inc : Bool) : SMap Nat :=
  let x := s.tile d t
  let pay := payload.toArray
  let roles := (List.range 1152).map (fun p => (p, s.colRole d t p))
  (List.range 1024).flatMap (fun r => roles.filterMap (fun e =>
    let now := x.pairAt r e.1
    let v := match e.2 with
      | some q => if isData q then (match x.solve pay inc s.free r e.1 q with
          | some y => 8 * y.1 + y.2
          | none => 8 * now.1 + now.2) else 0
      | none => 8 * now.1 + now.2
    if v = 0 then none else some (cellKey r e.1, v)))

/-- Targets of the reference columns after PROG: 7 q in every row (R42), in G_u / 4, by physical column. -/
def State.newRefs (s : State) (d t : Nat) : SMap Nat :=
  (List.range 1152).filterMap (fun p => match s.colRole d t p with
    | some q => if isRef q && refQ (colBlock q) != 0 then some (p, 7 * refQ (colBlock q)) else none
    | none => none)

/-- Column sums, G_t and G_c from the levels (R304; the text of R171 on G_t and G_c). The reference columns add their targets in
every row (R42). -/
def State.measureLevels (s : State) (d t rowsM1 colsM1 : Nat) : State :=
  let x := s.tile d t
  let data := (List.range 1152).filter isData
  let acc := x.pairs.foldl (fun (a : Array (Int × Nat)) e =>
    if e.1 / 1152 ≤ rowsM1 then a.modify (e.1 % 1152) (fun y => (y.1 + ((e.2 / 8 : Nat) : Int) - ((e.2 % 8 : Nat) : Int), y.2 + e.2 / 8 + e.2 % 8))
    else a) (Array.replicate 1152 (0, 0))
  let colSum := fun p => acc.getD (s.servingCol d t p) (0, 0)
  let all := data.map (fun p => (p, colSum p))
  let refs := sumBy (List.range 64) (fun b => x.refs.get 0 (s.servingCol d t (18 * b + 16)))
  s.updTile d t (fun x => { x with
    sums := all.filterMap (fun e => if e.2.1 = 0 then none else some (e.1, e.2.1)),
    gTotal := 4 * sumBy all (fun e => e.2.2) + refs * (rowsM1 + 1),
    gcTotal := sumBy (all.filter (fun e => decide (colOutput e.1 ≤ colsM1))) (fun e => e.2.2) })

/-! ## Program and verify (R301 to R303) -/

/-- Level nearest to a verify reading in 1/64 G_u. -/
def nearestLevel (code : Nat) : Nat := min 7 ((code + 32) / 64)

/-- A cell is recorded as stuck at the level nearest to its reading. -/
def TileSt.sticks (x : TileSt) (l : List (Nat × Nat)) : TileSt :=
  { x with stuck := l.foldl (fun m e => m.set 0 e.1 (1 + nearestLevel e.2)) x.stuck }

/-- Target of a cell of physical column p in 1/64 G_u: the level of its pair, or in a reference column that of R42 (R302); none
for a column that plays no part, and for one without a pair. -/
def TileSt.target (x : TileSt) (role : Option Nat) (payload : Array Byte) (inc : Bool) (free row p deck : Nat) : Option Nat :=
  match role with
  | none => none
  | some q =>
    if isData q then (x.solve payload inc free row p q).map (fun y => 64 * (if deck = 0 then y.1 else y.2))
    else some (if deck = 0 then 112 * refQ (colBlock q) else 0)

/-- One pass of program and verify: the cells whose last reading lies outside the verify band are stuck (R302). -/
def TileSt.verifyPass (x : TileSt) (role : Nat → Option Nat) (payload : Array Byte) (inc : Bool) (free vtol : Nat)
    (reads : List (Nat × Nat)) : TileSt :=
  x.sticks (reads.filter (fun e =>
    match x.target (role (e.1 / 2 % 1152)) payload inc free (e.1 / 2 / 1152) (e.1 / 2 % 1152) (e.1 % 2) with
    | some g => decide (e.2 + vtol < g ∨ g + vtol < e.2)
    | none => false))

/-- The sense-bus checks hold: each measured row current lies within 3% of the sum of its targets (R303). Check k follows row-deck
pass 16 k + 15. -/
def TileSt.senseOk (x : TileSt) (role : Nat → Option Nat) (payload : Array Byte) (inc : Bool) (free : Nat) (l : List (Nat × Nat)) :
    Bool :=
  l.all (fun e =>
    let g := sumBy (List.range 1152) (fun p => (x.target (role p) payload inc free (16 * (e.1 % 64) + 15) p (e.1 / 64)).getD 0)
    decide (100 * (max e.2 g - min e.2 g) ≤ 3 * g))

/-! ## Queue (R307, R308) -/

/-- Repair, refresh, host command and maintenance instruction, spare test. -/
def kindRank (k : Nat) : Nat := if k = 2 then 0 else if k = 3 then 1 else if k ≤ 1 then 2 else 3

def PReq.before (a b : PReq) : Bool :=
  decide (a.deadline < b.deadline) || (a.deadline == b.deadline && (decide (kindRank a.kind < kindRank b.kind) ||
    (kindRank a.kind == kindRank b.kind && decide (a.no < b.no))))

def State.updReq (s : State) (no : Nat) (f : PReq → PReq) : State :=
  { s with progq := s.progq.map (fun r => if r.no = no then f r else r) }

def State.dropReq (s : State) (no : Nat) : State := { s with progq := s.progq.filter (fun r => r.no != no) }

/-- Requests that stand in a die's queue. -/
def State.queuedReqs (s : State) (d : Nat) : List PReq := s.progq.filter (fun r => r.die == d && r.queued && r.engine.isNone)

/-- Entries that wait for room enter as entries free (R308). -/
def State.feedQueue (s : State) (d : Nat) : State :=
  let room := 2048 - (s.queuedReqs d).length
  let l := ((s.progq.filter (fun r => r.die == d && !r.queued)).take room).map (·.no)
  let s : State := { s with progq := s.progq.map (fun r => if l.contains r.no then { r with queued := true } else r) }
  s.wr .PRG_STATUS_QUEUED (s.queuedReqs d).length d

/-- An engine may take a request: its tile is out of the pipeline, no other engine, playback or calibration has the tile, and
it does not wait for an image (R36, R75, R103). -/
def State.reqReady (s : State) (r : PReq) : Bool :=
  s.groupRuns r.die r.tile && r.engine.isNone && r.queued && !r.wait && s.tst r.die r.tile != tsServing && !s.playing r.die r.tile
    && !s.cals.any (fun c => c.die == r.die && c.tile == r.tile)
    && !s.progq.any (fun q => q.engine.isSome && q.die == r.die && q.tile == r.tile)

def State.bestReq (s : State) (d : Nat) : Option PReq :=
  (s.progq.filter (fun r => r.die == d && s.reqReady r)).foldl (fun m r => match m with
    | none => some r
    | some q => if r.before q then some r else some q) none

/-- The image that a SLOT_REPLACE programs from, while the store holds it (R314). -/
def State.replImage (s : State) (x : Repl) : Option Image := (s.image x.handle).filter (fun i => i.digest == x.digest)

/-- The image that a request programs from: its map's, or for SLOT_REPLACE the new one (R300, R314). -/
def State.reqImage (s : State) (r : PReq) : Option Image :=
  match r.cmd.bind (fun id => s.repls.find? (fun x => x.id == id)) with
  | some x => s.replImage x
  | none => ((s.mapOf r.place.slot r.place.map).bind (·.handle)).bind s.image

/-- Payload of a placement in an image. -/
def imagePayload (i : Image) (p : Placed) : List Byte :=
  match i.layers[p.layer]? with
  | some l => l.tilePayload i.body p.rowBlk p.colBlk
  | none => []

/-- The contents come from an image (not from an instruction, and not for CLEAR or VERIFY). -/
def PReq.fromImage (r : PReq) : Bool := r.op.isNone && (r.what == .prog || r.what == .inc || r.what == .column)
  || (r.kind == 3 && (r.what == .prog || r.what == .inc))

/-- A map that a switch waits for is no longer ready: SWITCH_MAX counts anew from when it is (R54, R178). -/
def State.switchLost (s : State) (slot m : Nat) : State :=
  if s.ax .switchTarget 0 slot = m + 1 then s.setAx .switchAt 0 0 slot else s

/-- A map's tiles no longer stand ready: MAP_READY is due anew (R310). -/
def State.unready (s : State) (d t : Nat) : State :=
  match s.placeOf d t with
  | none => s
  | some p => (s.updMap p.slot p.map (fun m => { m with ready := false })).switchLost p.slot p.map

/-- IMAGE_NEEDED for a map (R316), with the tiles that wait for its image. -/
def State.imageNeeded (s : State) (slot map : Nat) : State :=
  match s.mapOf slot map with
  | none => s
  | some m =>
    let n := (s.progq.filter (fun q => q.wait && q.place.slot == slot && q.place.map == map)).length
      + (s.refreshes.filter (fun x => x.phase == .wait && (s.placeOf x.die x.tile).any (fun p => p.slot == slot && p.map == map))).length
    s.event 0x53 0xFF sevWarning (slot + atByte 1 map + atByte 2 n + atByte 4 m.version + atByte 8 m.modelId)

/-- A repair or refresh that an engine would take waits for an image (R75); its tile is HELD with cause IMAGE. -/
def State.waitImage (s : State) (r : PReq) : State :=
  let s := s.updReq r.no (fun r => { r with wait := true })
  let t := if r.old = 0x7FF then r.tile else r.old
  let s := if s.tst r.die t = tsHeld then s.wr .TIL_STATUS_HOLD_CAUSE hcImage r.die t
    else if s.ax .pendHold r.die t = 1 + hcRepair ∨ s.ax .pendHold r.die t = 1 + hcRefresh then s.setAx .pendHold (1 + hcImage) r.die t
    else s
  s.imageNeeded r.place.slot r.place.map

/-- STATE of PRG_ENGn. -/
def engState (w : PWhat) : Nat :=
  match w with
  | .clear => 1
  | .prog => 2
  | .inc => 3
  | .column => 4
  | .verify => 5

/-- STATE that an engine shows for a request: TEST for a spare test, CLEAR while the tile is cleared first. -/
def PReq.shown (r : PReq) : Nat := if r.kind = 4 then 7 else if r.clearFirst then 1 else engState r.what

/-- Show an engine's work (PRG_ENGn, PRG_STATUS.BUSY, the player's STATE). -/
def State.showEngine (s : State) (d n st t kind : Nat) : State :=
  let s := ((((s.wr .PRG_ENG_STATE st d n).wr .PRG_ENG_TILE t d n).wr .PRG_ENG_KIND kind d n).wr .PRG_ENG_DECK 0 d n).wr
    .PRG_ENG_ROW 0 d n
  let s := s.wr .PRG_STATUS_BUSY (setBit (s.rd .PRG_STATUS_BUSY d) n (st != 0)) d
  if st = 0 then (if s.rd .WFM_PLAY_STAT_STATE d n = 3 then s.wr .WFM_PLAY_STAT_STATE 0 d n else s)
  else if st = 6 then s else (s.wr .WFM_PLAY_STAT_STATE 3 d n).wr .WFM_PLAY_STAT_CLOCK_ABORT 0 d n

/-- Same placement, whichever tile holds it. -/
def samePlace (a b : Placed) : Bool :=
  a.slot == b.slot && a.map == b.map && a.layer == b.layer && a.rowBlk == b.rowBlk && a.colBlk == b.colBlk

/-- A tile enters programming: a STAGED tile that is cleared or moves leaves its map (R262, R542); a HELD tile under refresh or
column repair stays HELD. -/
def State.enterProg (s : State) (r : PReq) : State :=
  let d := r.die
  let t := r.tile
  let leaves := match s.placeOf d t with
    | none => false
    | some p => r.what == .clear || !samePlace p r.place
  let s := if s.tst d t = tsStaged ∧ r.what ≠ .verify then s.unready d t else s
  let s := if leaves = true ∧ (r.what = .clear ∨ r.what = .prog ∨ r.what = .inc) then s.unplace d t else s
  if r.what = .verify ∨ r.what = .column ∨ (r.kind = 3 ∧ s.tst d t = tsHeld) then s
  else s.setTst d t tsProgramming

/-- Limits that a request starts with (PRG_CFG). -/
def State.progCfg (s : State) (d : Nat) : Nat :=
  s.rd .PRG_CFG_VTOL d * 65536 + s.rd .PRG_CFG_INC_LIMIT d * 256 + s.rd .PRG_CFG_ITER_LIMIT d

/-- Engine n takes a request. -/
def State.startReq (s : State) (r : PReq) (n : Nat) : State :=
  let img := s.reqImage r
  if r.fromImage && img.isNone then s.waitImage r
  else
    let pay := if r.fromImage then (img.map (fun i => imagePayload i r.place)).getD [] else r.payload
    let s := match img with
      | some i => if r.fromImage then s.useImage i.handle else s
      | none => s
    let s := s.updReq r.no (fun r => { r with engine := some n, payload := pay, cfg := s.progCfg r.die })
    let s := s.showEngine r.die n r.shown r.tile r.kind
    s.enterProg r

/-- Idle engines of a die take the most urgent requests, unless they are held or the part is in the safe state. -/
def State.pump (s : State) (d : Nat) : State :=
  let s := s.feedQueue d
  let s := s.each (List.range 16) (fun s n =>
    if s.rd .PRG_ENG_STATE d n != 0 || s.rdb .PRG_CTRL_HOLD d || s.rdb .CLK_STAT_SAFE || !s.online d || !s.blockRuns d 4 then s
    else match s.bestReq d with
      | none => s
      | some r => let s := s.startReq r n
                  s)
  s.feedQueue d

/-- A request joins the queue of its die. A repair or refresh whose image the store does not hold waits for it from the start (R75). -/
def State.progPush (s : State) (r : PReq) : State :=
  let n := s.ax .progCount
  let r : PReq := { r with no := n, queued := false, engine := none }
  let s := ({ s with progq := s.progq ++ [r] } : State).setAx .progCount (n + 1)
  (if (r.kind == 2 || r.kind == 3) && r.fromImage && (s.reqImage r).isNone then s.waitImage r else s).pump r.die

/-- The request on an engine. -/
def State.engineReq (s : State) (d n : Nat) : Option PReq := s.progq.find? (fun r => r.die == d && r.engine == some n)

/-- Lateness at the end of a request (R307, R316; log entry 28). -/
def State.noteLate (s : State) (r : PReq) : State :=
  if r.deadline = 2 ^ 64 - 1 ∨ s.now ≤ r.deadline then s
  else
    let l := s.now - r.deadline
    let s := (s.bump .PRG_LATECNT_COUNT 1 r.die).wr .PRG_MAXLATE_LATENESS (max l (s.rd .PRG_MAXLATE_LATENESS r.die)) r.die
    let ev := fun (s : State) => s.event 0x59 r.die sevNotice (gid r.die r.tile + atByte 2 r.kind + atByte 8 l)
    match r.cmd with
    | some id =>
      let s := { s with cmds := s.cmds.map (fun c => if c.id = id then
        { c with flags := addFlag c.flags flLate, lateness := max c.lateness l } else c) }
      if s.ax .lateSaid 0 id = 1 then s else ev (s.setAx .lateSaid 1 0 id)
    | none => match r.op.bind (fun k => s.ops.find? (fun o => o.issue == k)) with
      | some o => ev (s.jobLate o.job l)
      | none => ev s

/-- An engine is done with its request. -/
def State.releaseEngine (s : State) (r : PReq) : State :=
  match r.engine with
  | none => s.dropReq r.no
  | some n => ((s.noteLate r).dropReq r.no).showEngine r.die n 0 0 0

/-- A maintenance instruction ends with a status. -/
def State.endOp (s : State) (op : Option Nat) (st : Nat) : State :=
  match op.bind (fun k => s.ops.find? (fun o => o.issue == k)) with
  | some o => s.opDone o st
  | none => s

/-- A host command ends early: its requests that have not started leave the queue, and so do the pages that a SLOT_REPLACE has set
aside. -/
def State.endSlotCmd (s : State) (id st : Nat) : State :=
  let mine := s.repls.filter (fun x => x.id == id)
  let s : State := { s with
    progq := (s.progq.filter (fun r => !(r.cmd == some id && r.engine.isNone))).map (fun r =>
      if r.cmd = some id then { r with cmd := none } else r),
    repls := s.repls.filter (fun x => x.id != id),
    panels := s.panels.filter (fun p => !(mine.any (fun x => p.slot == x.slot && p.map == x.map + 2))) }
  match s.cmds.find? (fun c => c.id == id) with
  | some c => s.completeCmd c st 0
  | none => s

/-! ## Retirement (R71 to R78) -/

/-- One tile of the layer that SLOT_REPLACE rewrites has ended its quick calibration; with the last, the layer rejoins at the
next seam (R314). -/
def State.replCal (s : State) (d t : Nat) : State :=
  match s.placeOf d t with
  | none => s
  | some p => match s.repls.find? (fun x => x.slot == p.slot && x.map == p.map && x.layer == p.layer && x.phase == .program) with
    | none => s
    | some x =>
      let last := x.left ≤ 1
      let s : State := { s with repls := s.repls.map (fun y => if y.id = x.id then
        { y with left := y.left - 1, phase := if last then .rejoin else .program } else y) }
      if last then s.each (s.mapTiles x.slot x.map) (fun s q =>
        if q.layer = x.layer ∧ !(s.progq.any (fun r => r.die == q.die && r.tile == q.tile)) then s.wantJoin q.die q.tile else s)
      else s

/-- A calibration of a tile ends without effect (R78, R346). -/
def State.endCal (s : State) (d t : Nat) : State :=
  let s : State := { s with calq := s.calq.filter (fun c => !(c.die == d && c.tile == t)) }
  match s.cals.find? (fun c => c.die == d && c.tile == t) with
  | none => s
  | some c =>
    let s : State := { s with cals := s.cals.filter (fun c => !(c.die == d && c.tile == t)) }
    let s := (s.updTile d t (fun x => { x with result := 1 + 5 })).wr .HEM_TAPS_STALE 0 d t
    let s := s.wr .CAL_STATUS_BUSY (s.cals.filter (fun c => c.die == d && c.full)).length d
    let s := s.endOp c.op stOK
    if c.full then s.fullOver d t else s.replCal d t

/-! ## Refresh (R342, R343) -/

/-- A spare tile of the die that no request but its test has taken, under firmware management (R14): the lowest (log entry
29). -/
def State.freeSpare (s : State) (d : Nat) : Option Nat :=
  (s.spareTiles d).find? (fun t => !s.rdb .TIL_STATUS_EXPERT d t && !(s.progq.any (fun r => r.die == d && r.tile == t && r.kind != 4)))

/-- A request leaves; an engine that had it is idle. -/
def State.giveUp (s : State) (r : PReq) : State :=
  match r.engine with
  | some n => (s.dropReq r.no).showEngine r.die n 0 0 0
  | none => s.dropReq r.no

/-- A spare tile is taken: its test ends without effect. -/
def State.takeSpare (s : State) (d t : Nat) : State :=
  let s := s.each (s.progq.filter (fun r => r.die == d && r.tile == t && r.kind == 4)) (fun s r => s.giveUp r)
  s.updTile d t (fun x => { x with known := true })

/-- A blank request. -/
def blankReq (d t kind : Nat) (what : PWhat) (p : Placed) (dl : Nat) : PReq :=
  { no := 0, die := d, tile := t, kind := kind, what := what, clearFirst := false, deadline := dl, queued := false, engine := none,
    place := p, payload := [], cols := [], whole := false, cfg := 0, old := 0x7FF, cmd := none, op := none, wait := false, cause := 0, since := 0 }

def State.refreshOf (s : State) (d t : Nat) : Option Refresh := s.refreshes.find? (fun x => x.die == d && x.tile == t)

/-- The refresh whose new tile this is. -/
def State.refreshTo (s : State) (d t : Nat) : Option Refresh := s.refreshes.find? (fun x => x.die == d && x.new == t)

def State.updRefresh (s : State) (d t : Nat) (f : Refresh → Refresh) : State :=
  { s with refreshes := s.refreshes.map (fun x => if x.die = d ∧ x.tile = t then f x else x) }

/-- A precision tile, or the tile that stands ready to take its place in a refresh (R46, R60). -/
def State.precise (s : State) (d t : Nat) : Bool :=
  s.rdb .TIL_CTRL_PRECISION d t || (s.refreshTo d t).any (fun x => s.rdb .TIL_CTRL_PRECISION d x.tile)

/-- Swap with more than 16 spare tiles, in place otherwise (R343). -/
def State.swaps (s : State) (d : Nat) : Bool := decide ((s.spareTiles d).length > 16) && (s.freeSpare d).isSome

/-- A refresh ends without effect (R78); its request leaves, and an engine that rewrites the tile in place is idle. An engine that
programs the new tile of a swap goes on, and that tile returns to the spares. -/
def State.dropRefresh (s : State) (d t : Nat) : State :=
  match s.refreshes.find? (fun x => x.die == d && (x.tile == t || x.new == t)) with
  | none => s
  | some x =>
    let gone := s.progq.filter (fun r => r.kind == 3 && r.die == d && r.what != .clear
      && (r.tile == x.tile || (r.engine.isNone && r.tile == x.new)))
    let s : State := { s with refreshes := s.refreshes.filter (fun y => !(y.die == d && y.tile == x.tile)) }
    (s.each gone (fun s r => s.giveUp r)).endOp x.op stOK

/-- A refresh starts; without a matching image it waits, and the tile keeps serving (R75, R343); under CAL_CTRL.HOLD it waits
as well (R346). -/
def State.startRefresh (s : State) (x : Refresh) : State :=
  if s.rdb .CAL_CTRL_HOLD x.die then s
  else match s.placeOf x.die x.tile with
    | none => s.dropRefresh x.die x.tile
    | some p =>
      if ((s.mapOf p.slot p.map).bind (·.handle)).isNone then s.imageNeeded p.slot p.map
      else
        let r := { blankReq x.die x.tile 3 .prog p x.deadline with op := x.op, since := x.since }
        match (if s.swaps x.die then s.freeSpare x.die else none) with
        | some n =>
          ((s.takeSpare x.die n).updRefresh x.die x.tile (fun y => { y with new := n, phase := .program })).progPush
            { r with tile := n, place := { p with tile := n }, old := x.tile }
        | none =>
          ((s.updRefresh x.die x.tile (fun y => { y with new := 0x7FF, phase := .program })).wantHold x.die x.tile hcRefresh).progPush r

/-- Estimated spread of a tile, as an FP32 pattern: entry 4 of TILEVAL. -/
def State.sigmaEst (s : State) (d t : Nat) : Nat := s.tab d t tVal 4

/-- A refresh of the tile, or the one that has it as its new tile. -/
def State.refreshWith (s : State) (d t : Nat) : Option Refresh :=
  s.refreshes.find? (fun x => x.die == d && (x.tile == t || (x.new == t && x.new != 0x7FF)))

/-- REFRESH_SCHEDULED (R342, R347). -/
def State.refreshEvent (s : State) (d t reason deadline : Nat) : State :=
  s.event 0x93 d sevNotice (gid d t + atByte 2 reason + atByte 3 (b2n (s.swaps d)) + atByte 4 (s.sigmaEst d t) + atByte 8 deadline)

/-- A refresh of the tile that is scheduled already serves the suspect tile too, with the earlier deadline (R338; log entry 161). -/
def State.refreshSooner (s : State) (x : Refresh) (deadline : Nat) : State :=
  let dl := min x.deadline deadline
  let s := s.updRefresh x.die x.tile (fun y => { y with reason := 2, deadline := dl })
  let s : State := { s with progq := s.progq.map (fun r =>
    if r.die = x.die ∧ r.kind = 3 ∧ r.what ≠ .clear ∧ (r.tile = x.tile ∨ r.tile = x.new) then { r with deadline := min r.deadline dl } else r) }
  s.refreshEvent x.die x.tile 2 dl

/-- A refresh is scheduled (R342, R347). -/
def State.scheduleRefresh (s : State) (d t reason deadline : Nat) (op : Option Nat) : State :=
  match s.refreshWith d t with
  | some x => if reason = 2 ∧ x.reason ≠ 2 then s.refreshSooner x deadline else s
  | none =>
    let x : Refresh := { die := d, tile := t, new := 0x7FF, reason := reason, deadline := deadline, since := s.now, heldAt := 0,
                         phase := .wait, op := op }
    let s := s.refreshEvent d t reason deadline
    ({ s with refreshes := s.refreshes ++ [x] } : State).startRefresh x

/-- Instructions that calibrate, refresh or verify a tile that is retired without a replacement end with TILE_RETIRED_NO_SPARE (R78,
R262). -/
def State.endTileOps (s : State) (d t : Nat) : State :=
  let v := s.progq.filter (fun r => r.die == d && r.tile == t && r.what == .verify && r.engine.isSome)
  let s := s.each ((s.cals.filter (fun c => c.die == d && c.tile == t)).map (·.op) ++ (s.refreshes.filter (fun x => x.die == d && x.tile == t)).map
    (·.op) ++ v.map (·.op)) (fun s o => s.endOp o stTileRetired)
  s.each v (fun s r => s.giveUp r)

/-- Requests that wait for a retired tile go to its replacement, or end what they serve (R78). -/
def State.moveQueued (s : State) (d t : Nat) (repl : Option Nat) : State :=
  let mine := fun (r : PReq) => r.die == d && r.tile == t && r.engine.isNone && r.kind != 2 && r.kind != 3
  match repl with
  | some n => { s with progq := s.progq.map (fun r => if mine r then
      { r with tile := n, place := { r.place with tile := n }, clearFirst := false } else r) }
  | none =>
    let l := s.progq.filter mine
    let s : State := { s with progq := s.progq.filter (fun r => !(mine r)) }
    s.each l (fun s r =>
      let s := s.endOp r.op stTileRetired
      match r.cmd with
      | some id => s.endSlotCmd id stTileRetired
      | none => s)

/-- RETIRE of the tiles that a tile stands in for, one through another, reads 0 again: the replacement is STAGED, or there is none
(TIL_CTRL). -/
def State.retireDone (s : State) (d t : Nat) : Nat → State
  | 0 => s
  | n + 1 =>
    let o := s.rd .TIL_STATUS_REPLACES d t
    if o = 0x7FF then s else (s.wr .TIL_CTRL_RETIRE 0 d o).retireDone d o n

/-- The precision flag is newly set: the tile runs untrimmed until its first full calibration after it next becomes STAGED (R60). -/
def State.setPrecision (s : State) (d t : Nat) : State :=
  ((s.wr .TIL_CTRL_PRECISION 1 d t).setCause d t scUntrimmed true).setAx .precWait 1 d t

/-- A tile becomes RETIRED, with or without a replacement, which takes over its precision flag (R46); the event carries the
exposure interval (R71, R73, R79). A spare tile that fails its test, or that the host retires, has no replacement although spare
tiles may remain (R77): TILE_RETIRED names none. -/
def State.markRetired (s : State) (d t : Nat) (repl : Option Nat) (cause : Nat) : State :=
  let slot := s.slotByte d t
  let layer := s.layerWord d t
  let good := s.rd .TIL_LASTGOOD_TIME d t
  let spare := s.tst d t == tsSpare
  let s := if repl.isNone then s.endTileOps d t else s
  let s := ((s.endCal d t).dropRefresh d t).unready d t
  let s : State := { s with checks := s.checks.filter (fun c => !(c.die == d && c.tile == t)) }
  let s := (((s.setTst d t tsRetired).takePending d t).setAx .pendHold 0 d t).setAx .pendJoin 0 d t
  let s := s.setAx .retiring 0 d t
  let s := match repl with
    | some n =>
      let s := ((s.wr .TIL_STATUS_REPLACES t d n).takeSlot d n t).roundTileMove d t n
      if s.rdb .TIL_CTRL_PRECISION d t then s.setPrecision d n else s
    | none => (((s.wr .TIL_CTRL_RETIRE 0 d t).retireDone d t 1664).noSlot d t).roundTileDone d t none
  let s := (s.wr .TIL_CTRL_PRECISION 0 d t).capUpdate
  let pay := gid d t + atByte 2 ((repl.map (gid d)).getD 0x3FFF) + atByte 4 cause + atByte 5 slot + atByte 6 layer + atByte 8 good
  s.event (if repl.isSome || spare then 0x01 else 0x02) d sevError pay

/-- Jobs whose present attempt fired on a tile since its TIL_LASTGOOD (R68, R69). -/
def State.exposed (s : State) (d t : Nat) : List Nat :=
  (((s.tile d t).fired.filter (fun e => decide (e.2.2 ≥ s.rd .TIL_LASTGOOD_TIME d t) &&
    (s.job e.1).any (fun j => j.active && j.restarts == e.2.1))).map (·.1)).eraseDups

/-- Jobs with a request for the layer of a tile: queued, or fired on the tile since its TIL_LASTGOOD (R73). -/
def State.layerJobs (s : State) (d t : Nat) : List Nat :=
  match s.placeOf d t with
  | none => []
  | some p =>
    let q := (s.reqs.filter (fun r => r.slot == p.slot && r.layer == p.layer && !r.dead)).map (·.job)
    (q ++ s.exposed d t).eraseDups.filter (fun i => (s.job i).any (·.active))

/-- R73: no spare tile remains. -/
def State.retireNoSpare (s : State) (d t cause : Nat) : State :=
  let jobs := if s.tileActive d t then s.layerJobs d t else []
  let s := s.setAx .tilesLost (s.ax .tilesLost d + 1) d
  let s := (s.markRetired d t none cause).moveQueued d t none
  s.each jobs (fun s i => s.loseJob i)

/-- Deadline of a repair at detection (R538): the earliest among 1 s from now and those of the requests that the layer's feed
barrier holds. -/
def State.repairDeadline (s : State) (d t : Nat) : Nat :=
  match s.placeOf d t with
  | none => s.now + 10 ^ 9
  | some p => (s.reqs.filter (fun r => r.slot == p.slot && r.layer == p.layer && s.inActive p && !r.dead && r.st == .queued)).foldl
      (fun m r => min m r.deadline) (s.now + 10 ^ 9)

/-- A further request for a held layer brings its repairs forward (R538). -/
def State.repairHurry (s : State) (slot layer deadline : Nat) : State :=
  if deadline = 2 ^ 64 - 1 then s
  else { s with progq := s.progq.map (fun r =>
    if r.kind = 2 ∧ r.place.slot = slot ∧ r.place.layer = layer ∧ r.place.map = s.activeMap slot then
      { r with deadline := min r.deadline deadline } else r) }

/-- No placement. -/
def noPlace (d t : Nat) : Placed :=
  { slot := 64, map := 0, layer := 0, rowBlk := 0, colBlk := 0, die := d, tile := t, rowsM1 := 1023, colsM1 := 511 }

/-- Requests whose pass or repeat has not fired return to their feed queues (R540). -/
def State.cancelPending (s : State) (d t : Nat) : State :=
  match s.placeOf d t with
  | none => s
  | some p =>
    { s with reqs := s.reqs.map (fun r =>
        if r.slot = p.slot ∧ r.layer = p.layer ∧ r.map = p.map ∧ (r.st = .passDue ∨ r.st = .repeatDue) then
          { r with st := .queued, parts := [], sat := 0, left := 0 } else r) }

/-- Start a tile replacement by a spare tile (R70, R71), or retire without one (R73). `dl`: the deadline that R538 gives at
detection; a repair of the tile that the replacement takes the place of keeps its own where that is earlier. -/
def State.replaceTile (s : State) (d t cause dl : Nat) : State :=
  if s.ax .retiring d t ≠ 0 then s
  else
    let old := s.progq.filter (fun r => r.die == d && r.tile == t && r.kind == 2)
    let dl := old.foldl (fun m r => min m r.deadline) dl
    let s := (s.each old (fun s r => s.giveUp r)).dropRefresh d t
    match s.freeSpare d, s.placeOf d t with
    | some n, some p =>
      let s := (((s.takeSpare d n).setAx .retiring (1 + cause) d t).wantHold d t hcRepair).switchLost p.slot p.map
      let s := (s.updTile d t (fun x => { x with blocked := true })).moveQueued d t (some n)
      s.progPush { blankReq d n 2 .prog { p with tile := n } dl with old := t, cause := cause, since := s.now }
    | some n, none =>
      let s := ((s.takeSpare d n).setTst d n tsCleared).markRetired d t (some n) cause
      ((s.wr .TIL_CTRL_RETIRE 0 d t).moveQueued d t (some n)).pump d
    | none, _ => s.retireNoSpare d t cause

/-- What a request for a spare tile that is lost means, with no other spare tile left: a refresh goes on in place, and a tile under
repair is retired without a replacement (R73, R343). -/
def State.noSpareFor (s : State) (r : PReq) : State :=
  let s := s.dropReq r.no
  if r.kind = 3 then
    match s.refreshOf r.die r.old with
    | some x => s.startRefresh x
    | none => s
  else s.retireNoSpare r.die r.old r.cause

/-- Requests that wait for a spare tile which turns out to be bad go to the next one (R77, R78). -/
def State.rehome (s : State) (d t : Nat) : State :=
  s.each (s.progq.filter (fun r => r.die == d && r.tile == t && r.engine.isNone && r.old != 0x7FF)) (fun s r =>
    match s.freeSpare d with
    | some n =>
      let s := (s.takeSpare d n).updReq r.no (fun r => { r with tile := n, place := { r.place with tile := n } })
      if r.kind = 3 then s.updRefresh d r.old (fun x => { x with new := n }) else s
    | none => s.noSpareFor r)

/-- A spare tile fails its test: it becomes RETIRED, with no replacement (R77). -/
def State.spareFails (s : State) (d t : Nat) : State := (((s.takeSpare d t).rehome d t).markRetired d t none 9).pump d

/-- Programming moves to a spare tile, on the same engine, and the tile that failed is retired (R78, R303). A placement that the tile
holds goes with it. With no spare left, what the request serves ends with TILE_RETIRED_NO_SPARE. -/
def State.moveToSpare (s : State) (r : PReq) (cause : Nat) : State :=
  let d := r.die
  let t := r.tile
  match s.freeSpare d with
  | some n =>
    let holds := (s.placeOf d t).any (samePlace r.place)
    let s := (s.takeSpare d n).setTst d n tsProgramming
    let s := if r.kind = 3 ∧ r.old = 0x7FF then s.updRefresh d t (fun x => { x with tile := n })
      else if r.kind = 3 then s.updRefresh d r.old (fun x => { x with new := n })
      else s
    let s := (s.markRetired d t (some n) cause).unplace d t
    let s := if holds = true then s.place { r.place with tile := n } else s
    let r' := { r with tile := n, place := { r.place with tile := n }, clearFirst := false }
    let s := s.updReq r.no (fun _ => r')
    match r.engine with
    | some e => s.showEngine d e r'.shown n r.kind
    | none => s
  | none =>
    if r.old ≠ 0x7FF then ((s.giveUp r).markRetired d t none cause).noSpareFor r |>.pump d
    else
      let s := ((s.giveUp r).retireNoSpare d t cause).endOp r.op stTileRetired
      let s := match r.cmd with
        | some id => s.endSlotCmd id stTileRetired
        | none => s
      s.pump d

/-! ## Failures of elements (R69, R70, R74) -/

/-- Elements that fail. -/
inductive Elem where
  | column (p : Nat)
  | converter (k : Nat)
  | reverse
  | whole
  deriving DecidableEq, Repr

/-- Jobs not yet committed that fired on the tile during the exposure interval restart (R69). -/
def State.restartExposed (s : State) (d t : Nat) : State :=
  s.faultJobs (s.exposed d t) cUnit

/-- Spare converters that are free and not already taken by a switch that waits: the lowest. -/
def State.freeConv (s : State) (d t : Nat) : Option Nat :=
  (List.range 4).find? (fun k => s.rd (convSubField k) d t == 0x7F && !((s.tile d t).conv.any (fun e => e.2.1 == 72 + k)))

/-- The converter in use as number k: k itself, or the spare that has replaced it. -/
def State.convInUse (s : State) (d t k : Nat) : Nat :=
  (((List.range 4).find? (fun i => s.rd (convSubField i) d t == k)).map (72 + ·)).getD k

/-- A spare converter that has failed in the place of converter k is marked; k needs another. -/
def State.convFailed (s : State) (d t k : Nat) : State :=
  s.each (List.range 4) (fun s i => if s.rd (convSubField i) d t = k then s.wr (convSubField i) 0x7E d t else s)

/-- A second element fails during a repair of the tile: the repair restarts (R78). -/
def State.restartRepair (s : State) (d t : Nat) : State :=
  let l := s.progq.filter (fun r => r.die == d && r.kind == 2 && r.engine.isSome && ((r.tile == t && r.what == .column) || r.old == t))
  let s := s.each l (fun s r =>
    let s := match r.engine with
      | some n => s.showEngine d n 0 0 0
      | none => s
    s.updReq r.no (fun r => { r with engine := none }))
  if l.isEmpty then s else s.pump d

/-- A column repair on an engine; a second failure during a repair joins it, and the repair restarts (R78). -/
def State.repairColumn (s : State) (d t p cause dl : Nat) : State :=
  let s := s.updTile d t (fun x => { x with blocked := true })
  match s.progq.find? (fun r => r.die == d && r.tile == t && r.what == .column) with
  | some r =>
    let s := s.wantHold d t (if r.wait then hcImage else hcRepair)
    let cols := if r.cols.any (fun e => e.1 == p) then r.cols else r.cols ++ [(p, cause)]
    ((s.updReq r.no (fun r => { r with cols := cols, deadline := min r.deadline dl })).restartRepair d t).pump d
  | none =>
    let pl := (s.placeOf d t).getD (noPlace d t)
    (s.wantHold d t hcRepair).progPush { blankReq d t 2 .column pl dl with cols := [(p, cause)], cause := cause, since := s.now }

/-- The spare column of a block has failed (TIL_SPARECOL). -/
def State.spareColFails (s : State) (d t b : Nat) : State :=
  let s := if s.spareCol d t b = 0xFF then
      s.wr .TIL_SPARES_SPARE_COLS_FREE (s.rd .TIL_SPARES_SPARE_COLS_FREE d t - 1) d t else s
  s.wr (spareColField b) 0xFE d t (b / 4)

/-- A repair takes precedence over a calibration of the tile (R346): the one that runs ends without effect. What is queued stays queued,
and a full calibration that the tile still needs, for R76 or since it was programmed, is due again after the repair. -/
def State.breakCal (s : State) (d t : Nat) : State :=
  match s.cals.find? (fun c => c.die == d && c.tile == t) with
  | none => s
  | some c =>
    let q := s.calq.filter (fun r => r.die == d && r.tile == t)
    let s := s.endCal d t
    let s : State := { s with calq := s.calq ++ q }
    if c.full && c.op.isNone && (!(s.tile d t).calibrated || s.ax .roundTile d t == 1 || s.recs.any (fun e => e.1 == gid d t && e.2.lost)) then s.queueCal d t 1 else s

/-- The tile is to be replaced (R71), and the jobs that it exposed restart (R69); with no spare tile left, the instructions that work on it
and the jobs with a request for its layer end with TILE_RETIRED_NO_SPARE, without restart (R73, R262). -/
def State.failTile (s : State) (d t cause dl : Nat) : State :=
  let s := if (s.freeSpare d).isNone then s.endTileOps d t else s
  (((s.endCal d t).replaceTile d t cause dl)).restartExposed d t

/-- An element of a tile has failed (R69, R70): the first repair that is available. A column with a stuck cell may take another
level pair, whether or not its block's spare column is free. -/
def State.elementFails (s : State) (d t : Nat) (e : Elem) (cause : Nat) : State :=
  if s.tst d t = tsProgramming then
    match s.progq.find? (fun r => r.die == d && r.tile == t && r.engine.isSome) with
    | some r => s.moveToSpare r cause
    | none => s
  else if !(s.inPipe d t || s.tst d t == tsStaged) then s
  else if s.ax .retiring d t ≠ 0 then ((s.cancelPending d t).restartExposed d t).restartRepair d t
  else
    let s := s.cancelPending d t
    let dl := s.repairDeadline d t
    match e with
    | .converter k =>
      if (s.tile d t).conv.any (fun e => e.1 == k) then s.breakCal d t
      else
        let was := s.convInUse d t k
        let s := s.convFailed d t k
        match s.freeConv d t with
        | some i =>
          let s := (s.breakCal d t).updTile d t (fun x => { x with conv := x.conv ++ [(k, 72 + i, cause, was)] })
          let s := if s.tileActive d t then s.updTile d t (fun x => { x with blocked := true }) else s
          s.restartRepair d t
        | none => s.failTile d t cause dl
    | .column p =>
      let sp := s.spareCol d t (colBlock p)
      if sp = 0xFF ∨ (s.tile d t).stuckIn (s.servingCol d t p) then ((s.restartExposed d t).breakCal d t).repairColumn d t p cause dl
      else (if sp = colPos p then s.spareColFails d t (colBlock p) else s).failTile d t cause dl
    | .reverse =>
      if (s.freeSpare d).isNone then
        if s.rdb .TIL_STATUS_REV_LOST d t then s
        else (s.wr .TIL_STATUS_REV_LOST 1 d t).event 0x08 d sevWarning
          (gid d t + atByte 5 (s.slotByte d t) + atByte 6 (s.layerWord d t))
      else s.failTile d t cause dl
    | .whole => s.failTile d t cause dl

/-- The table changes of a spare converter's takeover (R116): for the 16 columns of converter k, spare 72 + i's own offset
entries, and rescale entries scaled by the ratio of its gain to that of the converter that failed there. -/
def State.convTables (s : State) (d t k i was : Nat) : State :=
  let ratio := s.tabF d t tConv (72 + i) / s.tabF d t tConv was
  s.each (List.range 16) (fun s m =>
    let p := 16 * k + m
    let s := s.setTab d t tMeas p (s.tab d t tConv (128 + 16 * i + m))
    let s := (s.setTab d t tOfs p (s.ofsTarget d t p)).setTab d t tOfsTgt p (s.ofsTarget d t p)
    s.each [tRes, tResTgt, tResStart] (fun s n => s.setTab d t n p (f32Of (s.tabF d t n p * ratio))))

/-- Step 3 of R177 for one tile: spare converters take over (R116), and a tile whose repair needed no hold fires again. -/
def State.seamConverters (s : State) (d t : Nat) : State :=
  let x := s.tile d t
  let s := s.each x.conv (fun s e =>
    let s := (s.wr (convSubField (e.2.1 - 72)) e.1 d t).wr .TIL_SPARES_SPARE_CONV_FREE (s.rd .TIL_SPARES_SPARE_CONV_FREE d t - 1) d t
    let s := (s.setCause d t scConverter true).convTables d t e.1 (e.2.1 - 72) e.2.2.2
    let s := s.updTile d t (fun x => { x with same := x.same.set 0 e.1 0 })
    s.event 0x04 d sevNotice (gid d t + atByte 2 e.2.2.2 + atByte 3 e.2.1 + atByte 4 e.2.2.1 + atByte 5 (s.slotByte d t)
      + atByte 6 (s.layerWord d t) + atByte 8 (s.rd .TIL_LASTGOOD_TIME d t)))
  let held := s.progq.any (fun r => r.die == d && (r.tile == t || r.old == t) && r.kind == 2)
  s.updTile d t (fun x => { x with conv := [], blocked := held })

/-! ## Finishes (R301 to R304) -/

/-- Cells that stick in service keep their levels, and their pairs present them (R539). -/
def State.cellsStick (s : State) (d t : Nat) (l : List (Nat × Nat)) : State :=
  s.updTile d t (fun x => { x with
    stuck := l.foldl (fun m e => m.set 0 e.1 (1 + e.2 % 8)) x.stuck
    pairs := l.foldl (fun m e =>
      let v := m.get 0 (e.1 / 2)
      m.set 0 (e.1 / 2) (if e.1 % 2 = 0 then 8 * (e.2 % 8) + v % 8 else v / 8 * 8 + e.2 % 8)) x.pairs })

/-- Columns in service that have no level pair for some row (R303). -/
def State.badColumns (s : State) (d t : Nat) (payload : List Byte) (inc : Bool) : List Nat :=
  let x := s.tile d t
  (List.range 1152).filter (fun p => match s.colRole d t p with
    | none => false
    | some q => !(x.solvable payload.toArray inc s.free p q))

/-- The block's spare column takes over column p: it is free and has a pair for every row. -/
def State.spareServes (s : State) (d t p : Nat) (payload : List Byte) (inc : Bool) : Bool :=
  s.spareCol d t (colBlock p) == 0xFF && (s.tile d t).solvable payload.toArray inc s.free (18 * colBlock p + 17) p

/-- A spare column replaces column p (R43, R303): COLUMN_REPLACED, with the slot and layer that the tile is repaired or programmed for. -/
def State.columnReplaced (s : State) (d t : Nat) (pl : Placed) (p cause : Nat) : State :=
  let b := colBlock p
  let s := (s.wr (spareColField b) (colPos p) d t (b / 4)).wr .TIL_SPARES_SPARE_COLS_FREE
    (s.rd .TIL_SPARES_SPARE_COLS_FREE d t - 1) d t
  let some' := decide (pl.slot < 64)
  s.event 0x03 d sevNotice (gid d t + atByte 2 p + atByte 4 cause + atByte 5 (if some' then pl.slot else 0xFF) + atByte 6 (if some' then pl.layer else 0xFFFF)
    + atByte 8 (s.rd .TIL_LASTGOOD_TIME d t))

/-- Cells of a tile, spare columns among them. -/
def tileCells : Nat := 1024 * 1152

/-- A pulse acts on rows of a tile, with free values of its own. -/
def State.addPulse (s : State) (d t kind first rows : Nat) : State :=
  let f := s.free
  ({ s with free := s.free + 2 * tileCells } : State).updTile d t (fun x => { x with pulses := x.pulses ++ [⟨kind, first, rows, f⟩] })

/-- A tile whose contents are undefined has some: each cell a free level (R55). -/
def State.contents (s : State) (d t : Nat) : State :=
  if (s.tile d t).known then s
  else
    let f := s.free
    ({ s with free := s.free + 2 * tileCells } : State).updTile d t (fun x => { x with known := true, pulses := ⟨0, 0, 1024, f⟩ :: x.pulses })

/-- The parts of the columns when free spare columns take over failed ones. -/
def State.rolesWith (s : State) (d t : Nat) (bad : List Nat) (p : Nat) : Option Nat :=
  if isSpareCol p && s.spareCol d t (colBlock p) == 0xFF then bad.find? (fun q => colBlock q == colBlock p) else s.colRole d t p

/-- The passes of program and verify of a request over the columns of some parts. -/
def State.passes (s : State) (r : PReq) (roles : Nat → Option Nat) (out : ProgOut) : State :=
  let pay := r.payload.toArray
  let f := s.free
  s.updTile r.die r.tile (fun x => out.reads.foldl (fun x l =>
    x.verifyPass roles pay (r.what == .inc) f (r.cfg / 65536) l) x)

/-- Columns that the spare columns of their blocks do not save, and the tile fails (R303). -/
def State.lostColumns (s : State) (r : PReq) (bad : List Nat) : List Nat :=
  bad.filter (fun p => !(s.spareServes r.die r.tile p r.payload (r.what == .inc)) || bad.any (fun q => q != p && colBlock q == colBlock p))

/-- The spare columns that were to take over and could not have failed. -/
def State.markSpareCols (s : State) (r : PReq) (bad : List Nat) : State :=
  s.each bad (fun s p => if s.spareCol r.die r.tile (colBlock p) = 0xFF ∧ !(s.spareServes r.die r.tile p r.payload (r.what == .inc)) then
    s.spareColFails r.die r.tile (colBlock p) else s)

/-- The finishing reference stitch lies within HEM_REFCHK.TOL (R303). -/
def State.finishOk (s : State) (d t : Nat) (out : ProgOut) : Bool :=
  out.resid.all (fun x => decide (|x| ≤ ((s.rd .HEM_REFCHK_TOL d t : Nat) : Rat)))

/-- Iterations taken: at most the limit in each of the 2,048 row-deck passes (R302, R305). -/
def PReq.iters (r : PReq) (out : ProgOut) : Nat := min out.iters (2048 * (if r.what = .inc then r.cfg / 256 % 256 else r.cfg % 256))

/-- Program and verify of a whole tile (R302, R303, R305): the tile as it stands after it, and whether it has not failed. -/
def State.programColumns (s : State) (r : PReq) (cause : Nat) (out : ProgOut) : State × Bool :=
  let d := r.die
  let t := r.tile
  let inc := r.what == .inc
  let s := (if inc then s.contents d t else s).passes r (s.colRole d t) out
  let bad := s.badColumns d t r.payload inc
  let s := s.bump .PRG_COLFAIL_COUNT bad.length d
  let s := if bad = [] then s else s.passes r (s.rolesWith d t bad) out
  if s.lostColumns r bad ≠ [] then (s.markSpareCols r bad, false)
  else if !((s.tile d t).senseOk (s.rolesWith d t bad) r.payload.toArray inc s.free out.sense) || !(s.finishOk d t out) then (s, false)
  else
    let s := s.each bad (fun s p => s.columnReplaced d t r.place p cause)
    let np := s.newPairs d t r.payload inc
    let nr := s.newRefs d t
    let s := s.updTile d t (fun x => { x with pairs := np, refs := nr, known := true, pulses := [] })
    (if inc then { s with free := s.free + tileCells } else s, true)

/-- Layer record and channel scales that a request programs with: those that the map keeps (R299), or for SLOT_REPLACE the
new image's (R314). -/
def State.reqLayer (s : State) (r : PReq) : Option Layer × List Nat :=
  match r.cmd.bind (fun id => s.repls.find? (fun x => x.id == id)) with
  | some x => match s.replImage x with
    | some i => (i.layers[r.place.layer]?, ((i.layers[r.place.layer]?).map (fun l => l.scalesIn i.body)).getD [])
    | none => (none, [])
  | none => match s.mapOf r.place.slot r.place.map with
    | some m => (m.layer r.place.layer, (m.scales[r.place.layer]?).getD [])
    | none => (none, [])

/-- The layer's settings of a placement: span, full scale, RANGE and LIMIT (R86, R108, R263). The drive settings of a tile that is
HELD wait for the seam (R87, R314); RANGE comes with the tables that are computed for it. Drivers or a Hem that are out of firmware
management keep theirs (R14). -/
def State.layerSettings (s : State) (p : Placed) (l : Layer) : State :=
  let s := if s.rdb .DRV_STAT_EXPERT p.die p.tile then s else s.setDrive p.die p.tile (l.span * 4 + l.fs)
  if s.ax .hemExpert p.die p.tile ≠ 0 then s
  else ((s.wr .HEM_CFG_RANGE l.range p.die p.tile).setAx .pendRange 0 p.die p.tile).wr .HEM_SAT_LIMIT l.limit p.die p.tile

/-- The channel scales for the tile's outputs (R299, R537). -/
def State.loadScales (s : State) (p : Placed) (w : List Nat) : State :=
  s.each (List.range 512) (fun s j => s.setTab p.die p.tile tScaleW j (if j ≤ p.colsM1 then w.getD (512 * p.colBlk + j) f1 else f1))

/-- Forward tables at the finish of PROG, without a ramp; D = 1 (R537). -/
def State.progTables (s : State) (d t : Nat) : State :=
  let s := (((s.setTab d t tVal 0 f1).setTab d t tVal 1 f1).setTab d t tVal 8 f1)
  ((s.aimForward d t false).aimReverse d t false).aimVals d t false

/-- The finish of PROG (R304), after the columns: the tile takes state `state`, and its placement unless it is the new tile of
a refresh by swap, which takes it at the seam (R343). -/
def State.progDone (s : State) (r : PReq) (out : ProgOut) (state : Nat) (takes : Bool) : State :=
  let p := r.place
  let d := p.die
  let t := p.tile
  let lw := s.reqLayer r
  let s := if takes then s.place p
    else (s.wr .TIL_EXTENT_ROWS_M1 p.rowsM1 d t).wr .TIL_EXTENT_COLS_M1 p.colsM1 d t
  let s := (if state = tsStaged then s.toStaged d t else s.wr .TIL_STATUS_STATE state d t).retireDone d t 1664
  let s := match lw.1 with
    | some l => s.layerSettings p l
    | none => s
  let s := ((s.loadScales p lw.2).measureLevels d t p.rowsM1 p.colsM1).progTables d t
  let s := (((s.wr .TIL_STITCHES_COUNT 0 d t).wr .TIL_RSTITCHES_COUNT 0 d t).wr .TIL_CHECK_FAILS 0 d t).wr .TIL_PROGTIME_TIME
    s.now d t
  let s := ((s.bump .PRG_TILES_COUNT 1 d).bump .PRG_ITERS_COUNT (r.iters out) d).setAx .wear (satAdd 16 (s.ax .wear d t) 1) d t
  let s := (s.setAx .sigma0 (max 15 out.sigma) d t).setTab d t tVal 5 (f32Of (sigmaOf (max 15 out.sigma)))
  (s.unready d t).updTile d t (fun x => { x with
    calibrated := false, sde := 0, see := 0, n := 0, fired := [], refRun := [], same := [],
    lastCodes := [], lastSum := none, acc := 0, checks := 0, checkSq := 0, shadow := none, blocked := false })

/-- The layer of a request asks for a precision tile, and its tile is none yet (R304). -/
def State.wantsPrecision (s : State) (r : PReq) : Bool :=
  match (s.reqLayer r).1 with
  | some l => l.precision && !s.rdb .TIL_CTRL_PRECISION r.die r.tile
  | none => false

/-- The finish of CLEAR (R301): every cell at level 0 but the stuck ones, which still read above code 1; the tables as R537
says. -/
def State.clearDone (s : State) (d t : Nat) (reads : List (Nat × Nat)) (state : Nat) : State :=
  let s := s.updTile d t (fun x => x.sticks (reads.filter (fun e => decide (e.2 > 1))))
  let keep := (s.tile d t).stuck
  let pairs := keep.foldl (fun (m : SMap Nat) e =>
    let k := e.1 / 2
    m.set 0 k (m.get 0 k + (if e.1 % 2 = 0 then 8 * (e.2 - 1) else e.2 - 1))) []
  ((s.updTile d t (fun x => { x with pairs := pairs, known := true, pulses := [], refs := [], sums := [], gTotal := 0, gcTotal := 0, calibrated := false })).clearTabs d t).wr
    .TIL_STATUS_STATE state d t

end Sys2Proof.Machine
end

