-- ==== Sys2Proof/Machine/Slots.lean ====
section
/-!
DEFINITION. Machine/Slots.lean: model slots and their maps (R297 to R315), the finishes of the programming engines (R301 to
R306, R71, R262) and the PRG registers (10_weight_images_and_programming.md).
-/

namespace Sys2Proof.Machine

/-! ## The commands of a slot (R298) -/

/-- The commands that name a slot. -/
def isSlotOp (op : Nat) : Bool := decide (opSlotProgram ≤ op ∧ op ≤ opSlotInfo)

/-- Slot that a command names. -/
def Cmd.slot (c : Cmd) : Nat := c.b 16 1

/-- A command of the slot that runs keeps this one waiting. A SLOT_SWITCH that waits for its map or its seam does not keep out
SLOT_PROGRAM, MAP_FREE and SLOT_INFO, whose own rules name it (R310, R313). -/
def blocksSlot (c k : Cmd) : Bool :=
  k.st == .running && (k.opcode != opSlotSwitch || !(c.opcode == opSlotProgram || c.opcode == opMapFree || c.opcode == opSlotInfo))

/-- It is a command's turn in its slot: nothing that blocks it runs, and no earlier command of the slot is ready (R298). -/
def State.slotTurn (s : State) (c : Cmd) : Bool :=
  let mine := s.cmds.filter (fun k => k.id != c.id && isSlotOp k.opcode && k.slot == c.slot)
  let earlier := (s.cmds.takeWhile (fun k => k.id != c.id)).filter (fun k => isSlotOp k.opcode && k.slot == c.slot)
  !mine.any (blocksSlot c) && !earlier.any (fun k => k.st == .ready)

/-- The shape of a slot command: it runs in its turn, on an existing slot and, where it names one, an existing map. -/
def State.slotCmd (s : State) (id op : Nat) (map : Bool) (f : State → Cmd → State) : State :=
  s.runCmd id op (fun s c =>
    if c.slot > 63 ∨ (map ∧ c.b 17 1 > 1) then s.completeCmd c stMalformed 0
    else if op = opSlotProgram ∧ s.cmds.any (fun k => k.st == .running && k.opcode == op && k.slot == c.slot) then
      s.completeCmd c stRejectedQuota 0
    else if !s.slotTurn c then s
    else f s c)

/-- The programming engines of a die are out of firmware management. -/
def State.prgExpert (s : State) (d : Nat) : Bool := s.rdb .PRG_STATUS_EXPERT d

/-- Rank deadline of a command's programming requests (R297). -/
def Cmd.progDeadline (c : Cmd) : Nat := rankDeadline (c.b 24 8)

/-! ## Gusset regions (R276, R309) -/

/-- The dies of an overflow layer, lowest first. -/
def Layer.gusDies (l : Layer) : List Nat := (List.range 8).filter (fun d => bit l.gdies d)

/-- Outputs of an overflow layer that a die holds: first and count. -/
def Layer.share (l : Layer) (d : Nat) : Nat × Nat :=
  let ds := l.gusDies
  let n := ds.length
  let per := cdiv (cdiv l.outW n) 64 * 64
  let k := (ds.takeWhile (fun x => x != d)).length
  let first := min (k * per) l.outW
  (first, if k + 1 = n then l.outW - first else min per (l.outW - first))

/-- Bytes of a die's panels of a layer: the weights, and the scales that follow them (R311). -/
def Layer.shareBytes (l : Layer) (d : Nat) : Nat := (l.share d).2 * (l.rowBytes + 4)

/-- The panels that a layer needs, as (layer, die). -/
def panelsOf (ls : List Layer) : List (Nat × Nat) :=
  (ls.zipIdx).flatMap (fun e => if e.1.crossbar then [] else e.1.gusDies.map (fun d => (e.2, d)))

/-- Take pages for panels; none where one does not fit, or its die is absent or offline (R309). -/
def State.takePanels (s : State) (slot map : Nat) (ls : List Layer) : List (Nat × Nat) → Option State
  | [] => some s
  | (k, d) :: t =>
    let n := match ls[k]? with
      | some l => cdiv (l.shareBytes d) 4096
      | none => 0
    if !s.online d then none
    else if n = 0 then s.takePanels slot map ls t
    else match s.freePages d n with
      | none => none
      | some p =>
        let s : State := { s with panels := s.panels ++ [⟨slot, map, k, d, p, n⟩] }
        s.takePanels slot map ls t

/-- Bytes of a panel: its outputs' rows of weights, then their scales. -/
def panelBytes (i : Image) (l : Layer) (d : Nat) : List Byte :=
  let sh := l.share d
  (i.body.drop (l.payOff + sh.1 * l.rowBytes)).take (sh.2 * l.rowBytes) ++ (i.body.drop (l.rescOff + 4 * sh.1)).take (4 * sh.2)

/-- The DMA engines copy a panel (R309). -/
def State.copyPanel (s : State) (i : Image) (p : Panel) : State :=
  match i.layers[p.layer]? with
  | none => s
  | some l =>
    let a := lpddrAddr p.die (p.first * 4096)
    let s := s.clearRange a (a + p.count * 4096)
    { s with mem := storeBytes s.mem a (panelBytes i l p.die) }

def State.mapPanels (s : State) (slot map : Nat) : List Panel := s.panels.filter (fun p => p.slot == slot && p.map == map)

/-- A map's Gusset region is released. -/
def State.dropPanels (s : State) (slot map : Nat) : State :=
  { s with panels := s.panels.filter (fun p => !(p.slot == slot && p.map == map)) }

/-! ## Maps (R299, R310, R312) -/

/-- What a map keeps of an image (R299). -/
def bindingOf (i : Image) (slot map : Nat) : MapSt :=
  { slot := slot, map := map, handle := some i.handle, modelId := i.modelId, version := i.version, digest := i.digest,
    tiles := i.tiles, layers := i.layers, scales := i.layers.map (fun l => l.scalesIn i.body),
    signs := i.layers.map (fun l => l.signsIn i.body), ready := false }

/-- The map is bound to an image. -/
def State.bind (s : State) (i : Image) (slot map : Nat) : State :=
  let s : State := { s with maps := s.maps.filter (fun m => !(m.slot == slot && m.map == map)) ++ [bindingOf i slot map] }
  s.useImage i.handle

/-- Digest of a map's image; 0 for a map that is not bound. -/
def State.mapDigest (s : State) (slot m : Nat) : Nat := ((s.mapOf slot m).map (·.digest)).getD 0

/-- R310: every placement is held by a STAGED tile that has passed a full calibration since it was last programmed. The
overflow layers were copied when the map was bound. -/
def State.mapReady (s : State) (slot m : Nat) : Bool :=
  match s.mapOf slot m with
  | none => false
  | some x =>
    let ts := s.mapTiles slot m
    (x.layers.zipIdx).all (fun e => e.1.blocks.all (fun b => ts.any (fun p => p.layer == e.2 && p.rowBlk == b.1 && p.colBlk == b.2)))
      && ts.all (fun p => s.tst p.die p.tile == tsStaged && s.ax .retiring p.die p.tile == 0 && s.online p.die
        && (s.tile p.die p.tile).calibrated)

/-- Every tile of a map is STAGED, and none waits for its replacement, has a running playback, or is being calibrated in full or worked on
by an engine (R36, R54, R103). A tile under repair joins as HELD. -/
def State.allStaged (s : State) (slot m : Nat) : Bool :=
  (s.mapTiles slot m).all (fun p => s.tst p.die p.tile == tsStaged && s.ax .retiring p.die p.tile == 0 && !s.playing p.die p.tile
    && s.online p.die && (!s.tileWorked p.die p.tile || (s.underWork p.die p.tile).isSome))

/-- A switch of the slot is requested and possible (R54, R178). -/
def State.switchPossible (s : State) (slot : Nat) : Bool :=
  s.ax .switchTarget 0 slot != 0 && s.allStaged slot (s.ax .switchTarget 0 slot - 1)

/-- SWITCH_MAX counts from when the switch becomes possible, anew where it was not so in between (R178). The model looks when the switch is
requested and at every stitch strobe (log entry 150). -/
def State.switchWatch (s : State) (slot : Nat) : State :=
  if s.ax .switchTarget 0 slot = 0 then s
  else if !s.switchPossible slot then s.setAx .switchAt 0 0 slot
  else if s.ax .switchAt 0 slot = 0 then s.setAx .switchAt (s.now + 1) 0 slot
  else s

/-- A switch is requested: the drain of R178 begins once it is possible. -/
def State.requestSwitch (s : State) (slot m : Nat) : State :=
  if s.ax .switchTarget 0 slot = m + 1 then s.switchWatch slot
  else ((s.setAx .switchTarget (m + 1) 0 slot).setAx .switchAt 0 0 slot).switchWatch slot


/-- A running command of an opcode on a map. -/
def State.runningOn (s : State) (op slot m : Nat) : Option Cmd :=
  s.cmds.find? (fun k => k.st == .running && k.opcode == op && k.slot == slot && k.b 17 1 == m)

/-- A map that has become ready raises MAP_READY, completes its SLOT_PROGRAM, and lets a waiting SLOT_SWITCH proceed (R310,
R312). -/
def State.mapCheck (s : State) (slot m : Nat) : State :=
  if !s.mapReady slot m then s
  else
    let s := match s.mapOf slot m with
      | none => s
      | some x =>
        if x.ready then s
        else
          let s := (s.updMap slot m (fun x => { x with ready := true })).event 0x54 0xFF sevInfo
            (slot + atByte 1 m + atByte 2 (x.handle.getD 0) + atByte 4 x.tiles)
          match s.runningOn opSlotProgram slot m with
          | some c => s.completeCmd c stOK 0
          | none => s
    if (s.runningOn opSlotSwitch slot m).isSome ∨ s.ax .switchTarget 0 slot = m + 1 then s.requestSwitch slot m else s

/-- mapCheck for the map that a tile is in. -/
def State.mapCheckOf (s : State) (d t : Nat) : State :=
  match s.placeOf d t with
  | some p => s.mapCheck p.slot p.map
  | none => s

/-- The matching switch of a standby (R431, R444): like a SLOT_SWITCH, it waits until its own map is ready. -/
def State.slotMatch (s : State) (slot m : Nat) : State :=
  if s.activeMap slot = m ∨ (s.mapOf slot m).isNone then s
  else if s.mapReady slot m then s.requestSwitch slot m
  else (s.setAx .switchTarget (m + 1) 0 slot).setAx .switchAt 0 0 slot

/-- A STAGED tile of a map under firmware management that needs a full calibration is queued for it (R310, R337). -/
def State.calForMap (s : State) (d t : Nat) : State :=
  match s.placeOf d t with
  | none => s
  | some p =>
    if s.tst d t = tsStaged ∧ (s.mapOf p.slot p.map).isSome ∧ !(s.tile d t).calibrated ∧ s.ax .retiring d t = 0 ∧ !(s.tile d t).expert
        ∧ !s.rdb .TIL_STATUS_EXPERT d t then s.queueCal d t 1
    else s

/-! ## SLOT_PROGRAM (R309, R310) -/

/-- The tile, its drivers, its Hem or its calibration are out of firmware management (R14). -/
def State.unitsExpert (s : State) (d t : Nat) : Bool :=
  s.rdb .TIL_STATUS_EXPERT d t || s.rdb .DRV_STAT_EXPERT d t || s.ax .hemExpert d t != 0 || (s.tile d t).expert

/-- Free tiles of a die in the order in which placements take them: CLEARED before FREE, each in strobe-group order. Tiles that a
request names, or that have a unit out of firmware management (R14), are not taken (log entry 117). -/
def State.freeTiles (s : State) (d : Nat) : List Nat :=
  let l := (List.range 1664).filter (fun t => !s.unitsExpert d t && !(s.progq.any (fun r => r.die == d && r.tile == t)))
  l.filter (fun t => s.tst d t == tsCleared) ++ l.filter (fun t => s.tst d t == tsFree)

/-- The die with the most free tiles, the lowest on a tie. -/
def mostFree (av : List (Nat × List Nat)) : Option (Nat × List Nat) :=
  av.foldl (fun m e => match m with
    | none => some e
    | some x => if e.2.length > x.2.length then some e else m) none

/-- Take tiles for blocks from a die. -/
def takeFrom (d : Nat) (ts : List Nat) (k : Nat) (bs : List (Nat × Nat)) (av : List (Nat × List Nat)) :
    List (Nat × Nat × Nat × Nat × Nat) × List (Nat × List Nat) :=
  ((bs.zip ts).map (fun e => (k, e.1.1, e.1.2, d, e.2)),
   av.map (fun e => if e.1 = d then (d, e.2.drop bs.length) else e))

/-- Place the blocks of one layer: on one die with room for all of it, the one with the most free tiles; otherwise on as few
dies as it can, the ones with the most free tiles first. The answer lists (layer, row block, column block, die, tile). -/
def placeLayer (k : Nat) (bs : List (Nat × Nat)) (av : List (Nat × List Nat)) :
    Nat → List (Nat × Nat × Nat × Nat × Nat) × List (Nat × List Nat)
  | 0 => ([], av)
  | fuel + 1 =>
    match mostFree av with
    | none => ([], av)
    | some (d, ts) =>
      let x := takeFrom d ts k (bs.take ts.length) av
      if bs.length ≤ ts.length then x
      else
        let y := placeLayer k (bs.drop ts.length) x.2 fuel
        (x.1 ++ y.1, y.2)

/-- Place blocks, given as (layer, row block, column block), layer by layer; none where they do not fit. -/
def placeBlocks (bs : List (Nat × Nat × Nat)) (av : List (Nat × List Nat)) : Option (List (Nat × Nat × Nat × Nat × Nat)) :=
  let ks := (bs.map (·.1)).eraseDups
  let r := ks.foldl (fun (a : List (Nat × Nat × Nat × Nat × Nat) × List (Nat × List Nat)) k =>
    let x := placeLayer k ((bs.filter (fun b => b.1 == k)).map (·.2)) a.2 (a.2.length + 1)
    (a.1 ++ x.1, x.2)) ([], av)
  if r.1.length = bs.length then some r.1 else none

/-- Every block of a descriptor. -/
def allBlocks (ls : List Layer) : List (Nat × Nat × Nat) := (ls.zipIdx).flatMap (fun e => e.1.blocks.map (fun b => (e.2, b.1, b.2)))

/-- Programming requests of a command for placed blocks: a FREE tile is cleared first. -/
def State.programBlocks (s : State) (c : Cmd) (slot m : Nat) (ls : List Layer) (l : List (Nat × Nat × Nat × Nat × Nat)) : State :=
  s.each l (fun s e =>
    let (k, i, j, d, t) := e
    match ls[k]? with
    | none => s
    | some y =>
      let p : Placed := ⟨slot, m, k, i, j, d, t, y.rowsM1 i, y.colsM1 j⟩
      s.progPush { blankReq d t 0 .prog p c.progDeadline with clearFirst := s.tst d t == tsFree, cmd := some c.id })

/-- Dies of a mask that take tiles, with what they have free. -/
def State.freeOn (s : State) (mask : Nat) : List (Nat × List Nat) :=
  (s.onlineDies.filter (fun d => bit mask d)).map (fun d => (d, s.freeTiles d))

/-- Requests wait or run that program a tile for a map. -/
def State.mapPending (s : State) (slot m : Nat) : Bool :=
  s.progq.any (fun r => r.kind ≤ 1 && (r.what == .prog || r.what == .inc) && r.place.slot == slot && r.place.map == m)

/-- SLOT_PROGRAM. A placement that a request already names would be taken twice (R51). -/
def State.slotProgram (s : State) (c : Cmd) : State :=
  let slot := c.slot
  let m := c.b 17 1
  let mask := c.b 19 1
  match s.image (c.b 18 1) with
  | none => s.completeCmd c stMalformed 0
  | some i =>
    if mask ≥ 2 ^ s.part.dies then s.completeCmd c stMalformed 0
    else if s.onlineDies.any (fun d => bit mask d && s.prgExpert d) then s.completeCmd c stRejectedPrivilege 0
    else if s.activeMap slot = m ∨ s.mapTiles slot m ≠ [] then s.completeCmd c stRejectedQuota 0
    else if mask ≠ 0 ∧ s.mapPending slot m then s.completeCmd c stMalformed 0
    else if mask ≠ 0 ∧ sumBy (s.freeOn mask) (fun e => e.2.length) < i.tiles then s.completeCmd c stRejectedQuota 0
    else match (s.dropPanels slot m).takePanels slot m i.layers (panelsOf i.layers),
        (if mask = 0 then some [] else placeBlocks (allBlocks i.layers) (s.freeOn mask)) with
      | some s, some l =>
        let s := (s.bind i slot m).each ((s.mapPanels slot m)) (fun s p => s.copyPanel i p)
        if mask = 0 then (s.completeCmd c stOK 0).mapCheck slot m
        else (((s.cmdRunning c).programBlocks c slot m i.layers l).mapCheck slot m)
      | _, _ => s.completeCmd c stRejectedQuota 0

/-- A die has gone offline during SLOT_PROGRAM (R310): its tiles' blocks are placed again on the other dies of DIE_MASK; where
they do not fit, the command ends with TILE_RETIRED_NO_SPARE. -/
def State.replaceBlocks (s : State) (d : Nat) (c : Cmd) : State :=
  let slot := c.slot
  let m := c.b 17 1
  let queued := s.progq.filter (fun r => r.die == d && r.cmd == some c.id)
  let placed := (s.mapTiles slot m).filter (fun p => p.die == d)
  let bs := queued.map (fun r => (r.place.layer, r.place.rowBlk, r.place.colBlk)) ++ placed.map (fun p => (p.layer, p.rowBlk, p.colBlk))
  let s : State := { s with progq := s.progq.filter (fun r => !(r.die == d && r.cmd == some c.id)) }
  let s := s.each placed (fun s p => s.unplace d p.tile)
  if bs = [] then s
  else match placeBlocks bs (s.freeOn (c.b 19 1)), s.mapOf slot m with
    | some l, some x => s.programBlocks c slot m x.layers l
    | _, _ => s.endSlotCmd c.id stTileRetired

/-- What the loss of a die means for programming: SLOT_PROGRAMs place anew, and every other request on the die is dropped; its
maintenance instruction ends with its job (R310, R427). -/
def State.fabricOffline (s : State) (d : Nat) : State :=
  let s := s.each (s.cmds.filter (fun c => c.st == .running && c.opcode == opSlotProgram)) (fun s c => s.replaceBlocks d c)
  let gone := (s.refreshes.filter (fun x => x.die == d)).map (·.tile)
  let s := s.each gone (fun s t => s.dropRefresh d t)
  let s : State := { s with progq := s.progq.filter (fun r => r.die != d), calq := s.calq.filter (fun c => c.die != d),
                            cals := s.cals.filter (fun c => c.die != d), checks := s.checks.filter (fun c => c.die != d) }
  let s : State := { s with
    ops := s.ops.filter (fun o => !(o.unit == .maint && o.ga / 2048 == d)),
    reqs := s.reqs.filter (fun r => !(r.dead && s.placed.any (fun p => p.die == d && p.slot == r.slot && p.map == r.map && p.layer == r.layer))),
    tiles := s.tiles.filterMap (fun e =>
      if e.1 / 2048 = d then (let x := { e.2 with active := [], flights := [], shadow := none }
        if x = TileSt.fresh then none else some (e.1, x)) else some e) }
  let s := s.each (List.range 16) (fun s n => s.showEngine d n 0 0 0)
  let s := s.each ((List.range 1664).filter (fun t => s.ax .roundTile d t == 1)) (fun s t => s.setAx .roundTile 0 d t)
  ((s.setAx .startCal 0 d).wr .CAL_STATUS_BUSY 0 d).wr .PRG_STATUS_QUEUED 0 d

/-! ## SLOT_SWITCH (R312, R428) -/

/-- SLOT_SWITCH: to the active map it completes at once; otherwise it waits until its map is ready (R312). Its start, by which LATE is
judged, is the seam of the switch (R403). It addresses the tiles of the map that it puts into service (R15, log entry 151). -/
def State.slotSwitch (s : State) (c : Cmd) : State :=
  let m := c.b 17 1
  if s.activeMap c.slot = m then s.completeCmd c stOK 0
  else if (s.mapTiles c.slot m).any (fun p => s.rdb .TIL_STATUS_EXPERT p.die p.tile) then s.completeCmd c stRejectedPrivilege 0
  else (s.cmdRunning { c with flags := 0, lateness := 0 }).mapCheck c.slot m

/-! ## SLOT_REPLACE (R314) -/

/-- An image's layers match a map's: in number and KIND, crossbar layers in their blocks, overflow layers in GDIES (R284, R314). -/
def replaceable (i : Image) (m : MapSt) : Bool :=
  i.layers.length == m.layers.length && (i.layers.zip m.layers).all (fun e =>
    e.1.kind == e.2.kind && (if e.1.crossbar then e.1.rowBlks == e.2.rowBlks && e.1.colBlks == e.2.colBlks
      else e.1.gdies == e.2.gdies))

/-- LAYER_REPLACED (R316). -/
def State.layerReplaced (s : State) (x : Repl) : State :=
  s.event 0x56 0xFF sevInfo (x.slot + atByte 2 x.layer + atByte 4 (if x.heldAt = 0 then 0 else (s.now - x.heldAt) / 1000))

/-- Pages for the panels of a new image that the map's own do not hold (log entry 118): none where they do not fit. They stand under
map + 2 until their layer's turn. -/
def State.reservePanels (s : State) (slot m : Nat) (i : Image) : Option State :=
  if (panelsOf i.layers).any (fun e => !s.online e.2) then none
  else s.takePanels slot (m + 2) i.layers ((panelsOf i.layers).filter (fun e => match i.layers[e.1]? with
    | some l => !(s.panels.any (fun p => p.slot == slot && p.map == m && p.layer == e.1 && p.die == e.2
        && decide (l.shareBytes e.2 ≤ p.count * 4096)))
    | none => false))

/-- A layer's new pages take the place of the old ones. -/
def State.turnPanels (s : State) (slot m layer : Nat) : State :=
  let new := s.panels.filter (fun p => p.slot == slot && p.map == m + 2 && p.layer == layer)
  { s with panels := (s.panels.filter (fun p => !(p.slot == slot && p.layer == layer &&
      (p.map == m + 2 || (p.map == m && new.any (fun q => q.die == p.die)))))) ++ new.map (fun p => { p with map := m }) }

/-- A tile that a refused command has programmed is to be cleared; a SERVING one leaves the pipeline first. -/
def State.clearFor (s : State) (d t kind deadline : Nat) : State :=
  ((s.endCal d t).wantHold d t hcRepair).progPush (blankReq d t kind .clear (noPlace d t) deadline)

/-- An engine that programs for a refused command clears its tile instead, and the tile leaves its placement. -/
def State.turnToClear (s : State) (r : PReq) : State :=
  let s := (s.updReq r.no (fun r => { r with what := .clear, clearFirst := false, place := noPlace r.die r.tile })).unplace r.die r.tile
  match r.engine with
  | some n => s.showEngine r.die n 1 r.tile r.kind
  | none => s

/-- The precision flags that a command has set are taken back (R17). -/
def State.precUndo (s : State) (id : Nat) (l : List Placed) : State :=
  s.each (l.filter (fun p => s.ax .precBy p.die p.tile == id + 1)) (fun s p =>
    ((s.wr .TIL_CTRL_PRECISION 0 p.die p.tile).setAx .precBy 0 p.die p.tile).setAx .precWait 0 p.die p.tile)

/-- A command that programs a map is refused midway: it ends with the status, all that it has programmed is cleared (R304), and no binding,
panel or flag of it stays (R17). The tiles of a layer that a SLOT_REPLACE has not reached rejoin as they are, and the overflow layers that it
has copied leave the map (log entry 152). -/
def State.progUndo (s : State) (c : Cmd) (slot m st : Nat) : State :=
  let x := s.repls.find? (fun x => x.id == c.id)
  let mine := s.progq.filter (fun q => q.cmd == some c.id)
  let ts := s.mapTiles slot m
  let reached := fun (layer : Nat) => match x with
    | some x => decide (layer < x.layer) || (layer == x.layer && x.phase != .hold)
    | none => true
  let waits := ts.filter (fun p => mine.any (fun q => q.engine.isNone && q.die == p.die && q.tile == p.tile) || !reached p.layer)
  let done := ts.filter (fun p => !(mine.any (fun q => q.die == p.die && q.tile == p.tile)) && reached p.layer)
  let s := s.precUndo c.id ts
  let s := s.endSlotCmd c.id st
  let s := s.each (mine.filter (fun q => q.engine.isSome)) (fun s q => s.turnToClear q)
  let s := s.each done (fun s p => s.clearFor p.die p.tile 0 (2 ^ 64 - 1))
  match x with
  | some x => ({ s with panels := s.panels.filter (fun p => !(p.slot == slot && p.map == m && reached p.layer)) } : State).each
      (waits.filter (fun p => p.layer == x.layer)) (fun s p => s.wantJoin p.die p.tile)
  | none => { s.dropPanels slot m with maps := s.maps.filter (fun y => !(y.slot == slot && y.map == m)) }

/-- A tile that a command programmed against R59 is cleared with all that the command has programmed, and the command ends
with REJECTED_QUOTA (R304). -/
def State.quotaUndo (s : State) (r : PReq) : State :=
  match r.cmd.bind (fun id => s.cmds.find? (fun c => c.id == id)) with
  | some c => s.progUndo c r.place.slot r.place.map stRejectedQuota
  | none => (s.endOp r.op stRejectedQuota).clearFor r.die r.tile 1 r.deadline

/-- SLOT_REPLACE takes up its present layer: its tiles are to be HELD with cause REPAIR; after the last layer the map's binding
moves. Where the store has lost the image meanwhile, the command is refused (log entry 152). -/
def State.replLayer (s : State) (x : Repl) : State :=
  match s.replImage x, s.cmds.find? (fun c => c.id == x.id) with
  | some i, some c =>
    if i.layers[x.layer]?.isNone then
      let s : State := { s with repls := s.repls.filter (fun y => y.id != x.id),
                                maps := s.maps.map (fun m => if m.slot = x.slot ∧ m.map = x.map then
                                  { bindingOf i x.slot x.map with ready := m.ready } else m) }
      (s.useImage i.handle).completeCmd c stOK 0
    else
      let s : State := { s with repls := s.repls.filter (fun y => y.id != x.id) ++ [{ x with phase := .hold, heldAt := 0 }] }
      s.each ((s.mapTiles x.slot x.map).filter (fun p => p.layer == x.layer)) (fun s p => s.wantHold p.die p.tile hcRepair)
  | none, some c => s.progUndo c x.slot x.map stMalformed
  | _, none => s.endSlotCmd x.id stMalformed

/-- The engines of a tile's die, or the tile, are out of firmware management (R14, R15). -/
def State.tileExpert (s : State) (p : Placed) : Bool := s.prgExpert p.die || s.rdb .TIL_STATUS_EXPERT p.die p.tile

def State.slotReplace (s : State) (c : Cmd) : State :=
  let slot := c.slot
  let m := s.activeMap slot
  match s.image (c.b 18 1), s.mapOf slot m with
  | some i, some x =>
    if !replaceable i x then s.completeCmd c stMalformed 0
    else if (s.mapTiles slot m).any (fun p => s.prgExpert p.die || s.unitsExpert p.die p.tile) then s.completeCmd c stRejectedPrivilege 0
    else match s.reservePanels slot m i with
      | none => s.completeCmd c stRejectedQuota 0
      | some s => ((s.cmdRunning c).useImage i.handle).replLayer
          { id := c.id, slot := slot, map := m, handle := i.handle, digest := i.digest, layer := 0, phase := .hold, left := 0, heldAt := 0 }
  | _, _ => s.completeCmd c stMalformed 0

/-- Requests that clear and program the tiles of the layer that SLOT_REPLACE rewrites; the panels of an overflow layer are copied. -/
def State.replProgram (s : State) (x : Repl) (i : Image) (c : Cmd) : State :=
  match i.layers[x.layer]? with
  | none => s
  | some l =>
    let ts := (s.mapTiles x.slot x.map).filter (fun p => p.layer == x.layer)
    let s : State := { s with repls := s.repls.map (fun y => if y.id = x.id then
      (if l.crossbar then { x with phase := .program, left := ts.length, heldAt := s.now } else { x with phase := .rejoin }) else y) }
    if l.crossbar then s.each ts (fun s p =>
      s.progPush { blankReq p.die p.tile 0 .prog { p with rowsM1 := l.rowsM1 p.rowBlk, colsM1 := l.colsM1 p.colBlk }
        c.progDeadline with clearFirst := true, cmd := some x.id })
    else
      let s := s.turnPanels x.slot x.map x.layer
      s.each ((s.mapPanels x.slot x.map).filter (fun p => p.layer == x.layer)) (fun s p => s.copyPanel i p)

/-- What a seam of the slot does for SLOT_REPLACE: a layer wholly HELD is programmed; a layer wholly back is reported, and the
next layer follows. A tile that TIL_CTRL.HOLD keeps out counts as back. -/
def State.replSeam (s : State) (slot : Nat) : State :=
  match s.repls.find? (fun x => x.slot == slot) with
  | none => s
  | some x =>
    let ts := (s.mapTiles x.slot x.map).filter (fun p => p.layer == x.layer)
    match x.phase, s.replImage x, s.cmds.find? (fun c => c.id == x.id) with
    | .hold, some i, some c =>
      if ts.all (fun p => s.tst p.die p.tile == tsHeld) then s.replProgram x i c else s
    | .rejoin, some _, some _ =>
      if ts.all (fun p => s.tst p.die p.tile == tsServing || s.rdb .TIL_CTRL_HOLD p.die p.tile) then
        (s.layerReplaced x).replLayer { x with layer := x.layer + 1 }
      else s
    | _, none, some c => s.progUndo c x.slot x.map stMalformed
    | _, _, _ => s

/-! ## MAP_FREE, SLOT_FREE and SLOT_INFO (R311, R313, R315) -/

/-- A map is freed: its binding and Gusset region go, and its tiles are to be CLEARED for a command. -/
def State.freeMap (s : State) (id slot m : Nat) : State :=
  let ts := s.mapTiles slot m
  let s := s.dropPanels slot m
  let s : State := { s with maps := s.maps.filter (fun x => !(x.slot == slot && x.map == m)) }
  s.each ts (fun s p =>
    let s := (s.endCal p.die p.tile).dropRefresh p.die p.tile
    let s : State := { s with progq := s.progq.filter (fun r => !(r.die == p.die && r.tile == p.tile && r.engine.isNone)) }
    if s.tst p.die p.tile = tsRetired then s.unplace p.die p.tile
    else
      let s := if s.inPipe p.die p.tile then (s.toStaged p.die p.tile).takePending p.die p.tile else s
      s.progPush { blankReq p.die p.tile 0 .clear (noPlace p.die p.tile) (2 ^ 64 - 1) with cmd := some id })

/-- A command that clears tiles completes when the last one is CLEARED (R297). -/
def State.clearedCheck (s : State) (id : Nat) : State :=
  match s.cmds.find? (fun c => c.id == id && c.st == .running && (c.opcode == opMapFree || c.opcode == opSlotFree)) with
  | some c => if s.progq.any (fun r => r.cmd == some id) then s else s.completeCmd c stOK 0
  | none => s

/-- A SLOT_SWITCH to a map waits: for its AT, for the map to be ready, or for its seam (R312, R313). -/
def State.switchWaits (s : State) (slot m : Nat) : Bool :=
  s.cmds.any (fun k => (k.st == .parked || k.st == .running) && k.opcode == opSlotSwitch && k.slot == slot && k.b 17 1 == m)

def State.mapFree (s : State) (c : Cmd) : State :=
  let slot := c.slot
  let m := c.b 17 1
  if s.activeMap slot = m ∨ s.switchWaits slot m then s.completeCmd c stMalformed 0
  else if (s.mapTiles slot m).any s.tileExpert then s.completeCmd c stRejectedPrivilege 0
  else (((s.cmdRunning c).freeMap c.id slot m).clearedCheck c.id)

/-- Running jobs that use a slot. -/
def State.slotJobs (s : State) (slot : Nat) : Bool := s.jobs.any (fun j => j.active && bit j.slots slot)

/-- The last running job of a freed slot has ended: both maps are freed, and the active-map pointer is cleared. A waiting
switch has nothing left to switch to. -/
def State.slotFreed (s : State) (c : Cmd) : State :=
  let slot := c.slot
  let s := ((((s.setAx .activeMap 0 0 slot).setAx .switchTarget 0 0 slot).setAx .switchAt 0 0 slot).setAx .slotLost 0 0 slot).capUpdate
  (((s.freeMap c.id slot 0).freeMap c.id slot 1).setAx .seamAt 0 0 slot).clearedCheck c.id

def State.slotFree (s : State) (c : Cmd) : State :=
  let slot := c.slot
  if (s.placed.filter (fun p => p.slot == slot)).any s.tileExpert then s.completeCmd c stRejectedPrivilege 0
  else
    let s := s.each (allFns.filter (fun f => bit (s.rd .FNQ_GRANT_SLOT f) slot)) (fun s f => s.grantSet f slot 0)
    let s := s.cmdRunning c
    if s.slotJobs slot then s else s.slotFreed c

/-- The map record of R311, with the entries of the overflow panels. -/
def State.mapRecord (s : State) (slot m : Nat) : List Byte :=
  let act := b2n (s.activeMap slot = m)
  match s.mapOf slot m with
  | none => leBytes 64 act
  | some x =>
    let w := act + 2 * b2n (s.mapReady slot m) + 4 + atByte 2 (x.handle.getD 0) + atByte 8 x.modelId + atByte 16 x.version
      + atByte 20 x.tiles
    leBytes 64 w ++ (s.mapPanels slot m).flatMap (fun p => match x.layers[p.layer]? with
      | none => []
      | some l => leBytes 16 (p.layer + atByte 2 p.die + atByte 3 l.gfmt + atByte 4 (l.share p.die).1
          + atByte 8 (lpddrAddr p.die (p.first * 4096))))

def State.slotInfo (s : State) (c : Cmd) : State :=
  let b := s.mapRecord c.slot (c.b 17 1)
  let s : State := { s with mem := storeBytes s.mem (hostKey c.fn (c.b 24 8)) b }
  s.completeCmd c stOK 0

/-! ## Finishes of the engines -/

/-- A quick calibration of 24 calibration stitches starts (R334). -/
def State.startCal (s : State) (d t : Nat) (full : Bool) (stitches : Nat) (op : Option Nat) : State :=
  { s with cals := s.cals ++ [⟨d, t, full, stitches, op, s.now, []⟩] }

/-- PROG of a SLOT_REPLACE: the tile returns to HELD and takes its quick calibration (R314). -/
def State.replProgDone (s : State) (r : PReq) (out : ProgOut) : State :=
  let s := (s.progDone r out tsHeld true).wr .TIL_STATUS_HOLD_CAUSE hcRepair r.die r.tile
  if s.rdb .CAL_CTRL_HOLD r.die then s.queueCal r.die r.tile 0 else s.startCal r.die r.tile false 24 none

/-- PROG of a refresh (R343): the new tile of a swap, or the tile itself, takes a full calibration. The new tile takes the place and
the precision flag of the old one at the seam. -/
def State.refreshProgDone (s : State) (r : PReq) (out : ProgOut) : State :=
  let d := r.die
  let t := r.tile
  if r.old ≠ 0x7FF then
    let s := s.progDone r out tsStaged false
    if (s.refreshOf d r.old).any (fun x => x.new == t) then
      (s.updRefresh d r.old (fun y => { y with phase := .calibrate })).queueCal d t 2
    else s.progPush (blankReq d t 3 .clear (noPlace d t) (2 ^ 64 - 1))
  else
    let act := s.inActive r.place
    let s := s.progDone r out (if act then tsHeld else tsStaged) true
    let s := if act then s.wr .TIL_STATUS_HOLD_CAUSE hcCal d t else s
    (s.updRefresh d t (fun x => { x with phase := .calibrate })).queueCal d t 2

/-- The layer of a request makes its tile a precision tile (R304); the command that asked for it is kept (R17). -/
def State.flagFor (s : State) (r : PReq) : State := (s.setPrecision r.die r.tile).setAx .precBy ((r.cmd.map (· + 1)).getD 0) r.die r.tile

/-- The finish of a PROG that succeeded, by what it serves. -/
def State.progFinish (s : State) (r : PReq) (out : ProgOut) : State :=
  let d := r.die
  let t := r.tile
  let s1 := s.releaseEngine r
  let want := s.wantsPrecision r
  if r.kind = 3 then (s1.refreshProgDone r out).pump d
  else if (r.cmd.bind (fun id => s.repls.find? (fun x => x.id == id))).isSome then
    if want ∧ !s1.precisionRoom d t then ((s1.progDone r out tsHeld true).quotaUndo r).pump d
    else ((if want then s1.flagFor r else s1).replProgDone r out).pump d
  else
    let ok := want && s.precisionRoom d t
    let s1 := (if ok then s1.flagFor r else s1).progDone r out tsStaged true
    if want && !ok then (s1.quotaUndo r).pump d
    else
      (((s1.endOp r.op stOK).calForMap d t).mapCheckOf d t).pump d

/-- The spare columns take the rescale entries of the columns that they replace (R317); their offset entries are their own (R318). -/
def State.copyEntries (s : State) (d t p : Nat) : State :=
  let q := 18 * colBlock p + 17
  let s := s.each [tRes, tResTgt, tResStart] (fun s k => s.setTab d t k q (s.tab d t k p))
  s.each [tOfs, tOfsTgt] (fun s k => s.setTab d t k q (s.ofsTarget d t q))

/-- Columns of a repair that take another level pair for a stuck cell (R39, R70); the others need the spare column. -/
def State.rewritten (s : State) (r : PReq) (p : Nat) : Bool :=
  let c := s.servingCol r.die r.tile p
  let x := s.tile r.die r.tile
  isData p && x.stuckIn c && x.solvable r.payload.toArray false s.free c p

/-- A column repair ends (R43, R70): a column with a stuck cell whose cells have a level pair again is reprogrammed alone;
otherwise the block's spare column takes over; where neither is available, the tile is replaced. -/
def State.columnFinish (s : State) (r : PReq) (out : ProgOut) : State :=
  let d := r.die
  let t := r.tile
  let mine := r.cols.map (·.1)
  let s := s.passes r (fun p => (s.colRole d t p).filter (fun q => r.whole || mine.contains q)) out
  let move := mine.filter (fun p => !(s.rewritten r p))
  let s := s.passes r (fun p => (s.rolesWith d t move p).filter (fun _ => isSpareCol p && move.any (fun q => colBlock q == colBlock p))) out
  let failed := mine.filter (fun p => let c := s.servingCol d t p
    !((s.tile d t).solvable r.payload.toArray false s.free c p))
  let s := (s.bump .PRG_COLFAIL_COUNT failed.length d).releaseEngine r
  match s.lostColumns r move with
  | p :: _ =>
    let cause := ((r.cols.find? (fun e => e.1 == p)).map (·.2)).getD r.cause
    ((s.markSpareCols r move).replaceTile d t cause r.deadline).pump d
  | [] =>
    let s := s.each (r.cols.filter (fun e => move.contains e.1)) (fun s e => (s.columnReplaced d t r.place e.1 e.2).copyEntries d t e.1)
    let done := if r.whole then List.range 1152 else mine.map (fun p => s.servingCol d t p)
    let np := s.newPairs d t r.payload false
    let nr := s.newRefs d t
    let s := s.updTile d t (fun x => { x with
      pairs := (np.filter (fun e => done.contains (e.1 % 1152)) ++ x.pairs.filter (fun e => !(done.contains (e.1 % 1152)))).foldl
        (fun m e => m.set 0 e.1 e.2) []
      refs := (nr.filter (fun e => done.contains e.1)).foldl (fun m e => m.set 0 e.1 e.2) x.refs })
    let s := s.measureLevels d t r.place.rowsM1 r.place.colsM1
    let s := if s.tst d t = tsProgramming then
        (if s.tileActive d t then s.wr .TIL_STATUS_STATE tsHeld d t else s.toStaged d t).wr .TIL_STATUS_HOLD_CAUSE hcRepair d t
      else s
    ((((s.bump .PRG_ITERS_COUNT (r.iters out) d).wantJoin d t).updTile d t (fun x => { x with blocked := s.inPipe d t })).calForMap
      d t).pump d

/-- A tile replacement ends (R71, R341): the failed tile becomes RETIRED, and the spare tile takes its placement in state
STAGED; its full calibration is queued at once. -/
def State.replaceFinish (s : State) (r : PReq) (out : ProgOut) : State :=
  let d := r.die
  let s := (s.releaseEngine r).retireDone d r.tile 1664
  let s := (s.markRetired d r.old (some r.tile) r.cause).unplace d r.old
  let s := s.progDone r out tsStaged true
  let s := (s.setCause d r.tile scUntrimmed true).updTile d r.tile (fun x => { x with blocked := false })
  ((s.queueCal d r.tile 1).mapCheckOf d r.tile).pump d

/-- The request on engine n of a die that does `w` after any clearing. The engines pause while the fabric PLL has no lock (R456). -/
def State.runningReq (s : State) (d n : Nat) (ok : PReq → Bool) : Option PReq :=
  (s.engineReq d n).filter (fun r => !s.paused 2 d && ok r && s.rd .PRG_ENG_STATE d n == r.shown)

/-- PROG_FINISH: a PROG that is not a repair ends (R302 to R305). -/
def execProgFinish (die eng : Nat) (out : ProgOut) (s : State) : Res :=
  .next (match s.runningReq die eng (fun r => (r.what == .prog || r.what == .inc) && !r.clearFirst && r.kind != 2) with
    | none => s
    | some r =>
      let x := s.programColumns r 4 out
      if x.2 then x.1.progFinish r out else x.1.moveToSpare r 4)

/-- REPAIR_DONE: a column repair or a tile replacement ends (R70, R71). -/
def execRepairDone (die eng : Nat) (out : ProgOut) (s : State) : Res :=
  .next (match s.runningReq die eng (fun r => !r.clearFirst && r.kind == 2) with
    | none => s
    | some r =>
      if r.what = .column then s.columnFinish r out
      else
        let x := s.programColumns r 4 out
        if x.2 then x.1.replaceFinish r out else x.1.moveToSpare r 4)

/-- CLEAR_FINISH: the tile is CLEARED (R301); its engine goes on to PROG where the request clears first. -/
def execClearFinish (die eng : Nat) (reads : List (Nat × Nat)) (s : State) : Res :=
  .next (match s.runningReq die eng (fun r => r.clearFirst || r.what == .clear) with
    | none => s
    | some r =>
      if r.clearFirst then
        let s := (s.clearDone die r.tile reads (if r.kind = 4 then tsSpare else tsProgramming)).updReq r.no (fun r => { r with clearFirst := false })
        (s.showEngine die eng ({ r with clearFirst := false } : PReq).shown r.tile r.kind).capUpdate
      else
        let s := (s.clearDone die r.tile reads (if r.kind = 3 then tsSpare else tsCleared)).retireDone die r.tile 1664
        let s := (s.releaseEngine r).endOp r.op stOK
        let s := if r.kind = 3 then s.wr .TIL_STATUS_REPLACES 0x7FF die r.tile else s
        let s := match r.cmd with
          | some id => s.clearedCheck id
          | none => s
        s.capUpdate.pump die)

/-! ## Images that arrive late (R75, R296) -/

/-- Repairs and refreshes whose map has its image again go on. -/
def State.resumeWaits (s : State) : State :=
  let l := s.progq.filter (fun r => r.wait && (s.reqImage r).isSome)
  let s := s.each l (fun s r =>
    let t := if r.old = 0x7FF then r.tile else r.old
    let s := s.updReq r.no (fun r => { r with wait := false })
    let back := if r.kind = 3 then hcRefresh else hcRepair
    if s.tst r.die t = tsHeld ∧ s.rd .TIL_STATUS_HOLD_CAUSE r.die t = hcImage then s.wr .TIL_STATUS_HOLD_CAUSE back r.die t
    else if s.ax .pendHold r.die t = 1 + hcImage then s.setAx .pendHold (1 + back) r.die t
    else s)
  let x := s.refreshes.filter (fun x => x.phase == .wait &&
    ((s.placeOf x.die x.tile).bind (fun p => (s.mapOf p.slot p.map).bind (·.handle))).isSome)
  let s := s.each x (fun s x => s.startRefresh x)
  s.each s.onlineDies (fun s d => s.pump d)

/-! ## Meanings -/

def execImageLoadComplete (id : Nat) (bytes : List Byte) (s : State) : Res :=
  .next (match s.cmds.find? (fun c => c.id == id && c.st == .running), s.loads.find? (fun l => l.id == id) with
    | some c, some l => (s.imageLoaded c l bytes).resumeWaits
    | _, _ => s)

def execSlotProgram (id : Nat) (s : State) : Res := .next (s.slotCmd id opSlotProgram true (fun s c => s.slotProgram c))
def execSlotSwitch (id : Nat) (s : State) : Res := .next (s.slotCmd id opSlotSwitch true (fun s c => s.slotSwitch c))
def execSlotReplace (id : Nat) (s : State) : Res := .next (s.slotCmd id opSlotReplace false (fun s c => s.slotReplace c))
def execMapFree (id : Nat) (s : State) : Res := .next (s.slotCmd id opMapFree true (fun s c => s.mapFree c))
def execSlotFree (id : Nat) (s : State) : Res := .next (s.slotCmd id opSlotFree false (fun s c => s.slotFree c))
def execSlotInfo (id : Nat) (s : State) : Res := .next (s.slotCmd id opSlotInfo true (fun s c => s.slotInfo c))

/-- SLOT_FREE_DRAIN_END: no job that uses the slot runs any more (R315). -/
def execSlotFreeDrainEnd (id : Nat) (s : State) : Res :=
  .next (match s.cmds.find? (fun c => c.id == id && c.st == .running && c.opcode == opSlotFree) with
    | some c => if s.slotJobs c.slot ∨ s.progq.any (fun r => r.cmd == some id) then s else s.slotFreed c
    | none => s)

/-- PRG_CTRL.HOLD (R308): the first expert write takes the engines out of firmware management. -/
def State.prgHold (s : State) (d v : Nat) : State :=
  let s := if v % 2 ≠ s.rd .PRG_CTRL_HOLD d then s.wr .PRG_STATUS_EXPERT 1 d else s
  (s.wr .PRG_CTRL_HOLD v d).pump d

def State.prgClear (s : State) (d : Nat) : State :=
  ((((s.wr .PRG_TILES_COUNT 0 d).wr .PRG_ITERS_COUNT 0 d).wr .PRG_COLFAIL_COUNT 0 d).wr .PRG_LATECNT_COUNT 0 d).wr
    .PRG_MAXLATE_LATENESS 0 d

def State.prgHandback (s : State) (d : Nat) : State :=
  let s := ((s.wr .PRG_CTRL_HOLD 0 d).resetReg .PRG_CFG d 0).wr .PRG_STATUS_EXPERT 0 d
  s.pump d

/-- PRG_STORE.GIB (R292). -/
def State.storeWrite (s : State) (d v : Nat) : State :=
  let top := (s.installed d - v * 2 ^ 30) / 4096
  if v > 16 ∨ v * 2 ^ 30 > s.installed d ∨ s.images.any (fun i => i.home == d) ∨ s.loads.any (fun l => l.home == d)
      ∨ (s.takenRuns d).any (fun r => decide (r.1 + r.2 > top)) then s.wr .PRG_STATUS_REFUSED 1 d
  else s.wr .PRG_STORE_GIB v d

def execPrgCtrlHoldWrite (die : Nat) (o : Order) (s : State) : Res :=
  .next (if s.dieWindow die then s.order o (regAddr .PRG_CTRL die) (fun s _ v => s.prgHold die v) else s)

def execPrgCtrlClear (die : Nat) (o : Order) (s : State) : Res :=
  .next (if s.dieWindow die then s.order o (regAddr .PRG_CTRL die) (fun s _ v => s.when (v % 2 = 1) (fun s => s.prgClear die)) else s)

def execPrgCtrlHandback (die : Nat) (o : Order) (s : State) : Res :=
  .next (if s.dieWindow die then s.order o (regAddr .PRG_CTRL die) (fun s _ v => s.when (v % 2 = 1) (fun s => s.prgHandback die)) else s)

def execPrgStoreWrite (die : Nat) (o : Order) (s : State) : Res :=
  .next (if s.dieWindow die then s.order o (regAddr .PRG_STORE die) (fun s _ v => s.storeWrite die v) else s)

end Sys2Proof.Machine
end

