-- ==== Sys2Proof/Machine/Faults.lean ====
section
/-!
DEFINITION. Machine/Faults.lean: timeouts and their escalation (R423 to R425), dies going offline and coming back (R22,
R23, R25, R426 to R429), and the fault counters (15_faults_recovery_and_mirroring.md).
-/

namespace Sys2Proof.Machine

/-! ## Die links -/

/-- The two dies that link n joins (R24). -/
def linkEnds (dies n : Nat) : Nat × Nat :=
  if dies = 2 then (0, 1)
  else if dies = 4 then [(0, 1), (0, 2), (0, 3), (1, 2), (1, 3), (2, 3), (0, 1), (2, 3)].getD n (0, 1)
  else [(0, 1), (2, 3), (4, 5), (6, 7), (0, 2), (1, 3), (4, 6), (5, 7), (0, 4), (1, 5), (2, 6), (3, 7), (0, 7), (1, 6),
    (2, 5), (3, 4)].getD n (0, 1)

/-- Links of the variant (R24). -/
def linkCount (dies : Nat) : Nat := if dies = 2 then 4 else if dies = 4 then 8 else 16

/-- A link works: it is not down. -/
def State.linkUp (s : State) (n : Nat) : Bool := s.ax .linkDown 0 n == 0

/-- Dies reachable over one more working link from those already reached (R25). The spec does not say whether the links of an offline die
still carry other dies' traffic; in the model they do (log entry 122). -/
def State.reachStep (s : State) (l : List Nat) : List Nat :=
  let hop := fun (d n : Nat) => s.linkUp n && (let e := linkEnds s.part.dies n
    (e.1 == d && l.contains e.2) || (e.2 == d && l.contains e.1))
  l ++ s.dies.filter (fun d => !(l.contains d) && (List.range (linkCount s.part.dies)).any (hop d))

/-- A die has a working link to the head die: a path of at most three hops (R25, log entry 158). -/
def State.reaches (s : State) (d : Nat) : Bool :=
  (s.reachStep (s.reachStep (s.reachStep [s.head]))).contains d

/-! ## Dies offline -/

/-- Jobs with a task, scratch, an operation, or a fired request on a die (R427). -/
def State.jobsOnDie (s : State) (d : Nat) : List Nat :=
  (s.jobs.filter (fun j => j.active && (j.tasks.any (fun t => t.die == d) || j.scratch.any (fun x => x.1 == d) || j.pages.any (fun x => x.2.1 == d) ||
    s.ops.any (fun o => o.job == j.id && (o.die == d || (o.unit == .maint && o.ga / 2048 == d))) ||
    s.reqs.any (fun r => r.job == j.id && s.placed.any (fun p => p.slot == r.slot && p.layer == r.layer && p.die == d)))))
    |>.map (·.id)

/-- Waiting jobs that can no longer start complete with MALFORMED; a job that has started before is left (R190). -/
def State.recheckWaiting (s : State) : State :=
  s.each ((s.jobs.filter (fun j => (j.st == .waiting || j.st == .parked) && j.started.isNone && s.neverStarts j)).map (·.id))
    (fun s i => s.endJob i stMalformed)

/-- The slots whose active map has a tile or a Gusset panel on a die (R428). -/
def State.slotsOnDie (s : State) (d : Nat) : List Nat :=
  (List.range 64).filter (fun k =>
    s.placed.any (fun p => p.slot == k && p.map == s.activeMap k && p.die == d) ||
    s.panels.any (fun p => p.slot == k && p.map == s.activeMap k && p.die == d))

/-- The Yoke role moves to a die (R22): stitches stop meanwhile, and from here on the time does not count for starvation (R184). The new
head die is no follower any more: its YOK_SKEW register reads 0 (R165, R166). -/
def State.headTo (s : State) (h : Nat) : State :=
  let s := (((s.wr .GLB_CAPACITY_HEAD h).wr .YOK_STATUS_HEAD h).wr .YOK_STATUS_MOVING 1).wr .YOK_STATUS_FIRING 0
  let s := ((s.wr .YOK_SKEW_SKEW 0 0 h).wr .YOK_SKEW_LOSTS 0 0 h).wr .YOK_STATUS_FOLLOWER_OFF (setBit (s.rd .YOK_STATUS_FOLLOWER_OFF) h false)
  let s := s.setAx .moveAt (if s.ax .moveAt = 0 then s.now + 1 else s.ax .moveAt)
  ((s.setAx .missed 0 h).setAx .realign 0 h).setAx .markerAt 0 h

/-- The Yoke role moves to a new head die (R22, R23): stitches stop; requests in flight in the lost Yoke are void. -/
def State.moveHead (s : State) : State :=
  let s := s.headTo ((s.onlineDies.head?).getD 0)
  s.faultJobs ((s.reqs.filter (fun r => r.st != .queued && r.st != .adding)).map (·.job)) cUnit

/-- A die goes offline (R426, R427, R428): the actions in order. The jobs with something on the die fault; one of them that names a slot lost
with the die ends with TILE_RETIRED_NO_SPARE (R419). -/
def State.dieLost (s : State) (d cause : Nat) : State :=
  if !s.online d then s
  else
    let wasHead := s.head == d
    let s := ((s.wr .GLB_CAPACITY_DIE_ONLINE (setBit (s.rd .GLB_CAPACITY_DIE_ONLINE) d false)).wr .FLT_DIE_ONLINE 0 0 d).wr
      .FLT_DIE_CAUSE cause 0 d
    let s := if wasHead then s.moveHead else s
    let lost := s.slotsOnDie d
    let s := s.each lost (fun s k => s.setAx .slotLost 1 0 k)
    let hit := s.jobsOnDie d
    let s := s.each hit (fun s i => if (s.job i).any (fun j => lost.any (fun k => bit j.slots k)) then s.loseJob i else s.faultJob i cUnit)
    let s : State := { s with dmas := s.dmas.filter (fun r => r.die != d) }
    let s := ((s.evictHomed d).fabricOffline d).dropCopiesOn d
    let fns := ((s.allocs.filter (fun a => a.die == d && a.kind != 1)).map (·.fn)).eraseDups
    let s := s.each (s.allocs.filter (fun a => a.die == d && a.kind == 2)) (fun s a => s.banksMove d a.first a.count ownFree 0)
    let s : State := { s with allocs := s.allocs.filter (fun a => a.die != d || a.kind == 1) }
    let s := s.each fns (fun s f => s.quotaRecheck f)
    let s := s.capUpdate
    let s := s.event 0x41 d sevCritical (d + atByte 1 cause + atByte 2 s.head + atByte 3 s.slotsLost +
      atByte 4 (s.rd .GLB_CAPACITY_MAPPABLE_TILES))
    s.recheckWaiting

/-- Dies without a working link to the head die go offline with cause LINK (R25, R426). -/
def State.linkCheck (s : State) : State :=
  s.each (s.onlineDies.filter (fun d => !s.reaches d)) (fun s d => s.dieLost d 1)

/-- A die goes offline; where it was the head die, the others are held to R25 from the new one. -/
def State.dieOffline (s : State) (d cause : Nat) : State := (s.dieLost d cause).linkCheck

/-! ## Timeouts -/

/-- The third timeout of a unit within 10 s (R425). -/
def State.thirdTimeout (s : State) (level unit : Nat) : Bool :=
  let a := s.ax .toHist level unit 0
  a != 0 && decide (s.now < (a - 1) + 10 ^ 10)

/-- Count a timeout of a unit for R425: the last two are kept; an escalation starts afresh. -/
def State.noteTimeout (s : State) (level unit : Nat) : State :=
  if s.thirdTimeout level unit then (s.setAx .toHist 0 level unit 0).setAx .toHist 0 level unit 1
  else (s.setAx .toHist (s.ax .toHist level unit 1) level unit 0).setAx .toHist (s.now + 1) level unit 1

/-- A timeout of a level (R423): the counter, the jobs it faults, TIMEOUT_RECOVERED with the escalation (R425). `unit` is
the unit's number within its die. -/
def State.timeout (s : State) (level die unit : Nat) (jobs : List Nat) (jobId : Nat) : State :=
  let esc := s.thirdTimeout level (die * 65536 + unit) && (level == 1 || level == 2 || level == 4)
  let s := (s.bump .FLT_TOCNT_COUNT 1 0 level).noteTimeout level (die * 65536 + unit)
  let live := jobs.filter (fun i => (s.job i).any (·.active))
  let s := if level = 6 then s else s.faultJobs jobs cTimeout
  s.event 0x40 (if die ≥ 8 then 0xFF else die) sevError
    (level + atByte 1 (min unit 255) + atByte 2 (b2n esc) + atByte 4 live.length + atByte 8 jobId)

/-- Whether a timeout of the unit now would escalate. -/
def State.escalates (s : State) (level die unit : Nat) : Bool := s.thirdTimeout level (die * 65536 + unit)

/-- A channel begins retraining: MEM_RETRAIN counts it (R382). -/
def State.retrainStart (s : State) (d ch : Nat) : State :=
  if s.rd .MEM_CH_STATE d ch = 3 then s
  else ((s.wr .MEM_CH_STATE 2 d ch).bump .MEM_RETRAIN_COUNT 1 d).setAx .retrainEnd (s.dt + 20000 * 8 + 1) d ch

/-- A retraining fails: the third in a row takes the die offline (R382, R426); otherwise the channel retrains again. -/
def State.retrainFailed (s : State) (d ch : Nat) : State :=
  let n := s.rd .MEM_CH_FAILS d ch + 1
  let s := s.wr .MEM_CH_FAILS (min n 3) d ch
  if n ≥ 3 then (((s.wr .MEM_CH_STATE 3 d ch).wr .MEM_STAT_TRAINED (setBit (s.rd .MEM_STAT_TRAINED d) ch false) d).setAx
    .retrainEnd 0 d ch).dieOffline d 3
  else s.retrainStart d ch

/-- The task on a sequencer. -/
def State.taskAt (s : State) (d q : Nat) : Option (Job × Task) :=
  s.jobs.findSome? (fun j => if j.active then (j.tasks.find? (fun t => t.die == d && t.seq == q)).map (fun t => (j, t))
    else none)

/-- A task has made no progress for 10 ms (R225, R423). A wait on a ticket and a wait for
a feed queue make progress (R225). The waits of FENCE and of SIGNAL's release count as the wait on a ticket, and a task that 64
outstanding operations hold at issue makes none (DESIGN CHOICE, log entry 148). -/
def State.stalled (s : State) (j : Job) (t : Task) : Bool :=
  let moves := fun (u : Task) => match u.wait with
    | .ticket _ _ => s.now
    | .feed _ _ _ => s.now
    | .fence => s.now
    | _ => u.progress
  let last := match t.wait with
    | .bar => (j.tasks.map moves).foldl max 0
    | _ => t.progress
  decide (last + 10000000 ≤ s.now) && (match t.wait with
    | .ticket _ _ => false | .feed _ _ _ => false | .fence => false | .halted => false | _ => true)

/-- An access has waited 4,096 cycles at a port of a bank (R370, R423): of a job, which faults, or of the host window or firmware. -/
def execBankPortWaitTimeout (die bank : Nat) (job : Option Nat) (s : State) : Res :=
  .next (if job.all (fun i => (s.job i).any (·.active)) && s.dieWindow die && !s.paused 0 die then s.timeout 0 die bank job.toList 0 else s)

def execDieLinkTimeout (link : Nat) (jobs : List Nat) (s : State) : Res :=
  .next (if link < linkCount s.part.dies ∧ s.linkUp link then
    let e := s.escalates 1 8 link
    let s := s.timeout 1 8 link jobs 0
    if e then (s.setAx .linkDown 1 0 link).linkCheck else s.setAx .linkRetrain 1 0 link
  else s)

def execDieLinkRetrained (link : Nat) (s : State) : Res := .next (s.setAx .linkRetrain 0 0 link)

def execLpddrCommandTimeout (die off : Nat) (jobs : List Nat) (s : State) : Res :=
  .next (if s.online die then
    let ch := chanOf off
    let e := s.escalates 2 die ch
    let s := s.timeout 2 die ch jobs 0
    if e then s.retrainFailed die ch else s.retrainStart die ch
  else s)

def execSequencerProgressTimeout (die seq : Nat) (s : State) : Res :=
  .next (match s.taskAt die seq with
    | none => s
    | some (j, t) =>
      if s.stalled j t then
        let e := s.escalates 4 die seq
        let s := s.timeout 4 die seq [j.id] 0
        if e then s.setAx .seqFailed 1 die seq else s
      else s)

def execJobWatchdog (job : Nat) (s : State) : Res :=
  .next (match s.job job with
    | none => s
    | some j => match j.started with
      | none => s
      | some t =>
        if j.active && j.st != .ackWait && decide (t + j.watchdog * 1000000 ≤ s.now) then
          let s := (s.updJob job (fun j => { j with cause := cTimeout })).timeout 6 8 0xFF [job] job
          s.endJob job stTimeout
        else s)

def execFltCtrlClear (o : Order) (s : State) : Res :=
  .next (s.order o (regAddr .FLT_CTRL) (fun s _ v => if v % 2 = 1 then
    (((List.range 8).foldl (fun s l => s.wr .FLT_TOCNT_COUNT 0 0 l) s).wr .FLT_SUPCNT_COUNT 0).wr .FLT_RESTARTS_COUNT 0
      |>.wr .FLT_EXHAUSTED_COUNT 0
  else s))

/-! ## DIE_RESTORE -/

/-- The highest junction temperature of the grade, in °C (R474). -/
def tjMax (p : Part) : Nat := if p.gradeE then 105 else 95

/-- TS_PKG of a die as last read, in 1/16 °C (R349, R475). -/
def State.tsPkg (s : State) (d : Nat) : Int := sext 32 (s.rd .MCV_RES_VALUE d 45)

/-- Placements of lost slots on a die are gone, and their tiles are FREE, with undefined contents (R55, R429). -/
def State.freeLostTiles (s : State) (d : Nat) : State :=
  let gone := s.placed.filter (fun p => p.die == d && s.slotLost p.slot)
  s.each gone (fun s p => (((s.wr .TIL_STATUS_STATE tsFree d p.tile).takePending d p.tile).unplace d p.tile).updTile d p.tile (fun x => { x with
    pairs := [], refs := [], known := false, pulses := [] }))

/-- A die comes online. While die 0 is online it is the head die, and the head die is always the lowest one that is online (R22):
where a lower die comes back, the role moves to it. -/
def State.dieOnline (s : State) (d : Nat) : State :=
  let first := s.onlineDies.isEmpty
  let s := (s.wr .GLB_CAPACITY_DIE_ONLINE (setBit (s.rd .GLB_CAPACITY_DIE_ONLINE) d true)).wr .FLT_DIE_ONLINE 1 0 d
  if first then (s.wr .GLB_CAPACITY_HEAD d).wr .YOK_STATUS_HEAD d else if d < s.head then s.headTo d else s

end Sys2Proof.Machine
end

