-- ==== Sys2Proof/Machine/Monitor.lean ====
section
/-!
DEFINITION. Machine/Monitor.lean: the monitor converters (R349 to R360) and the telemetry streams (R361 to R364)
(12_monitor_converters.md).
-/

namespace Sys2Proof.Machine

/-! ## The converters of a die -/

def Mon.fresh : Mon :=
  { run := false, second := false, redo := false, aborts := 0, turn := 0, entry := 0, grid := 0, calDue := false, calB := false, calAt := 0,
    calTemp := 0, sim := 0, simAt := 0, simWait := false, timed := false, clamped := false, traceBad := false }

def State.mon (s : State) (d : Nat) : Mon := s.mons.get Mon.fresh d

def State.updMon (s : State) (d : Nat) (f : Mon → Mon) : State := { s with mons := s.mons.set Mon.fresh d (f (s.mon d)) }

/-- Voltage channels, whose VALUE follows from the code (R350). -/
def isVoltage (c : Nat) : Bool := decide (24 ≤ c ∧ c ≤ 31) || decide (36 ≤ c ∧ c ≤ 39) || decide (42 ≤ c ∧ c ≤ 44)

/-- Divider of a voltage channel (R350). -/
def divider (c : Nat) : Nat := if c = 26 ∨ c = 44 then 4 else if 24 ≤ c ∧ c ≤ 31 then 2 else 1

/-- VALUE of a code (R350). -/
def monValue (d c code : Nat) : Int :=
  if isVoltage c then (rne (((code * 1250000 * divider c : Nat) : Rat) / 65536) : Nat) else Config.factoryCurve d c code

/-- Mean of two codes, rounded to nearest, ties to even (R357). -/
def meanCode (a b : Nat) : Nat := rne (((a + b : Nat) : Rat) / 2)

/-- A converter has failed: 0 MCA, 1 MCB. -/
def State.convDown (s : State) (d k : Nat) : Bool := s.rdb (if k = 0 then .MCV_STAT_FAIL_A else .MCV_STAT_FAIL_B) d

/-- A converter runs its self-calibration. -/
def State.convCal (s : State) (d k : Nat) : Bool := s.rdb (if k = 0 then .MCV_STAT_SCAL_A else .MCV_STAT_SCAL_B) d

/-- A converter runs an urgent conversion. -/
def State.convBusy (s : State) (d k : Nat) : Bool := s.urg.any (fun u => u.die == d && (u.conv == some k || u.conv == some 2))

/-- Some self-calibration runs. -/
def State.calibrating (s : State) (d : Nat) : Bool := s.convCal d 0 || s.convCal d 1

/-- Every MCV_RESn of a die takes STALE. -/
def State.setStale (s : State) (d : Nat) (b : Bool) : State := s.each (List.range 46) (fun s c => s.wr .MCV_RES_STALE (b2n b) d c)

/-- STALE clears when the sequence can go on (R359, R360). -/
def State.freshen (s : State) (d : Nat) : State :=
  if s.calibrating d || (s.mon d).calDue || (s.mon d).calB || s.rdb .MCV_CTRL_MODE d || s.rdb .MCV_CTRL_HOLD d then s else s.setStale d false

/-! ## Fabric temperature -/

/-- Mean of the valid results of TS0 to TS19, to nearest with ties to even. -/
def State.fabricMean (s : State) (d : Nat) : Option Int :=
  let l := (List.range 20).filter (fun c => s.rdb .MCV_RES_VALID d c)
  if l = [] then none
  else some (rneI ((l.foldl (fun (a : Int) c => a + sext 32 (s.rd .MCV_RES_VALUE d c)) 0 : Int) / (l.length : Rat)))

/-- T in 1/16 °C leaves −20…+100 °C, or returns (R330). -/
def State.tempClamp (s : State) (d : Nat) (t : Int) : State :=
  let out := decide (t < -320 ∨ t > 1600)
  if out = (s.mon d).clamped then s
  else
    let s := (s.updMon d (fun m => { m with clamped := out })).wr .CAL_STATUS_TEMP_CLAMP (b2n out) d
    s.event 0x95 d sevNotice (wrap 16 t + atByte 2 (if t < -320 then 0 else if t > 1600 then 1 else 2))

/-- Tiles whose entries follow the temperature: those that hold contents. The entries of any other tile are those of R537, and its terms
of R330 are computed where TILEVAL is read (log entry 62). -/
def State.heldTiles (s : State) (d : Nat) : List Nat := (List.range 1664).filter (fun t => s.inPipe d t || s.tst d t == tsStaged)

/-- The engine interpolates anew for every tile (R331). -/
def State.reinterpolate (s : State) (d : Nat) (t : Int) : State :=
  if s.rdb .CAL_CTRL_HOLD d then s
  else (s.wr .CAL_TEMP_TJ_USED (wrap 16 t) d).each (s.heldTiles d) (fun s k => s.aim d k)

/-- MCV_TFAB follows the sensors (R350), and the engine follows MCV_TFAB (R331). -/
def State.tempUpdate (s : State) (d : Nat) : State :=
  match s.fabricMean d with
  | none => s.wr .MCV_TFAB_VALID 0 d
  | some t =>
    let s := ((s.wr .MCV_TFAB_VALID 1 d).wr .MCV_TFAB_MEAN (wrap 16 t) d).tempClamp d t
    if (t - s.tUsed d).natAbs ≥ 2 * s.rd .CAL_DRIFT_DTEMP d then s.reinterpolate d t else s

/-! ## Results -/

/-- A sequence result of a channel (R350, R357). -/
def State.result (s : State) (d c arg code : Nat) (checked : Bool) : State :=
  let s := (((((((s.wr .MCV_RES_VALID 1 d c).wr .MCV_RES_STALE 0 d c).wr .MCV_RES_PLAUS_FAIL 0 d c).wr .MCV_RES_CHECKED
    (b2n checked) d c).wr .MCV_RES_ARG arg d c).wr .MCV_RES_CODE code d c).wr .MCV_RES_VALUE (wrap 32 (monValue d c code)) d c)
  let s := (s.setAx .mcvTime (s.now + 1) d c).setAx .mcvCount (s.ax .mcvCount d c + 1) d c
  if c < 20 then s.tempUpdate d else s

/-- Parts of an entry: PAIR, channel and ARG. -/
def State.partA (s : State) (d i : Nat) : Nat × Nat × Nat := (s.rd .MCV_SEQA_PAIR d i, s.rd .MCV_SEQA_CHAN d i, s.rd .MCV_SEQA_ARG d i)
def State.partB (s : State) (d i : Nat) : Nat × Nat × Nat := (s.rd .MCV_SEQB_PAIR d i, s.rd .MCV_SEQB_CHAN d i, s.rd .MCV_SEQB_ARG d i)

/-- The tile that an entry measures: ARG, or the one whose turn it is in this pass (R353). -/
def State.argOf (s : State) (d c arg : Nat) : Nat := if c = mcvTileRef ∧ arg = 0x7FF then (s.mon d).turn else arg

/-- A converter fails (R358). Trace pairs that wait for both converters are dropped: the trace is rejected (R329). -/
def State.monFail (s : State) (d k cause : Nat) : State :=
  if s.convDown d k then s
  else
    let s := s.wr (if k = 0 then .MCV_STAT_FAIL_A else .MCV_STAT_FAIL_B) 1 d
    let left := 2 - b2n (s.convDown d 0) - b2n (s.convDown d 1)
    let s := s.event 0x99 d sevError (k + atByte 1 cause + atByte 2 left)
    let s : State := { s with urg := s.urg.filter (fun u => !(u.die == d && u.kind == 4 && u.conv.isNone)) }
    if left = 0 then s.dieOffline d 2 else s

/-- Arbitration (R358): a converter whose HALF lies outside while the other's lies within has failed. HALF is 0.625 V of
1.25 V. -/
def State.monArbitrate (s : State) (d : Nat) (half : Nat × Nat) : State :=
  let tol := s.rd .MCV_PLAUS_TOL d
  let out := fun c => decide (2 * ((c : Int) - 32768).natAbs > tol)
  if out half.1 && !out half.2 then s.monFail d 0 1
  else if out half.2 && !out half.1 then s.monFail d 1 1
  else s

/-! ## Urgent requests (R354 to R356) -/

/-- The most urgent request of a die that waits. -/
def State.nextUrgent (s : State) (d : Nat) : Option Urg :=
  (s.urg.filter (fun u => u.die == d && u.conv.isNone)).foldl (fun m u => match m with
    | none => some u
    | some v => if u.kind < v.kind ∨ (u.kind = v.kind ∧ u.no < v.no) then some u else some v) none

/-- A converter may take an urgent conversion. -/
def State.convFree (s : State) (d k : Nat) : Bool := !s.convDown d k && !s.convCal d k && !s.convBusy d k

/-- Who serves a request: any one free converter, MCA first; a trace pair takes both. -/
def State.serverFor (s : State) (u : Urg) : Option Nat :=
  if u.kind = 4 then (if s.convFree u.die 0 && s.convFree u.die 1 then some 2 else none)
  else if s.convFree u.die 0 then some 0
  else if s.convFree u.die 1 then some 1
  else none

/-- Waiting requests start while converters are free and no entry, simultaneous conversion or self-calibration keeps them. -/
def State.serveUrgent (s : State) (d : Nat) : Nat → State
  | 0 => s
  | fuel + 1 =>
    if (s.mon d).run || (s.mon d).sim != 0 then s
    else match s.nextUrgent d with
      | none => s
      | some u => match s.serverFor u with
        | none => s
        | some k => ({ s with urg := s.urg.map (fun v => if v.no = u.no then { v with conv := some k } else v) } : State).serveUrgent d fuel

/-- No urgent conversion runs or waits. -/
def State.urgentIdle (s : State) (d : Nat) : Bool := !s.urg.any (fun u => u.die == d)

/-- An entry starts, for the first time or again, and MCV_STAT.ENTRY names it (R352); with 16 aborts behind it the attempt is protected
(R356). -/
def State.entryRun (s : State) (d : Nat) : State :=
  let s := s.wr .MCV_STAT_ENTRY (s.mon d).entry d
  let s := if (s.mon d).aborts = 16 then s.bump .MCV_PREEMPT_PROTECTED 1 d else s
  s.updMon d (fun m => { m with run := true, redo := false })

/-- A self-calibration that is due begins when the converter it takes is free (R359). -/
def State.calStart (s : State) (d : Nat) : State :=
  let m := s.mon d
  if m.run || m.sim != 0 || s.calibrating d then s
  else if m.calB && !s.convBusy d 1 then ((s.wr .MCV_STAT_SCAL_B 1 d).setStale d true).updMon d (fun m => { m with calB := false })
  else if m.calDue && !m.calB && !s.convBusy d 0 then
    ((s.wr .MCV_STAT_SCAL_A 1 d).setStale d true).updMon d (fun m => { m with calDue := false })
  else s

/-- A simultaneous conversion begins (R360). -/
def State.simStart (s : State) (d : Nat) (delayed : Bool) : State :=
  s.updMon d (fun m => { m with sim := if delayed then 2 else 1, simAt := s.now, simWait := false })

/-- The converters have become free: a waiting trigger, then urgent requests, then a due self-calibration, then an aborted
entry. -/
def State.monGo (s : State) (d : Nat) : State :=
  let s := if (s.mon d).simWait && !s.convBusy d 0 && !s.convBusy d 1 && !s.calibrating d && (s.mon d).sim == 0 then
    s.simStart d true else s
  let s := (s.serveUrgent d 2).calStart d
  if (s.mon d).redo && s.urgentIdle d && !s.calibrating d && !(s.mon d).calDue && !s.rdb .MCV_CTRL_MODE d && !s.rdb .MCV_CTRL_HOLD d
  then s.entryRun d else s

/-- An urgent request arrives (R355); a trace pair needs both converters (R358). A sequence entry under way is aborted, unless its attempt is protected. -/
def State.urgentRequest (s : State) (d kind who : Nat) : State :=
  if kind = 4 ∧ (s.convDown d 0 || s.convDown d 1) = true then s else
  let n := s.ax .urgCount
  let s := ({ s with urg := s.urg ++ [{ no := n, die := d, kind := kind, who := who, conv := none }] } : State).setAx .urgCount (n + 1)
  let m := s.mon d
  if m.run ∧ m.aborts < 16 then
    (((s.bump .MCV_PREEMPT_ABORTS 1 d).updMon d (fun m => { m with run := false, redo := true, second := false, aborts := m.aborts + 1 }))).monGo d
  else s.monGo d

/-! ## Simultaneous sampling (R360) -/

/-- A trigger arrives. -/
def State.simTrigger (s : State) (d : Nat) (delayed : Bool) : State :=
  let m := s.mon d
  if !s.rdb .MCV_CTRL_MODE d then s
  else if m.sim ≠ 0 ∨ m.simWait then s.bump .MCV_SIMRES_OVERRUNS 1 d
  else if s.convBusy d 0 || s.convBusy d 1 || s.calibrating d then s.updMon d (fun m => { m with simWait := true })
  else s.simStart d delayed

/-- The trigger of TIME_PPS. -/
def State.ppsTrigger (s : State) : State :=
  s.each s.dies (fun s d => s.when (s.rd .MCV_TRIG_SRC d == 2) (fun s => s.simTrigger d false))

/-! ## Meanings: the sequence -/

/-- The sequence may start an entry. -/
def State.seqFree (s : State) (d : Nat) : Bool :=
  let m := s.mon d
  !m.run && !m.redo && m.sim == 0 && !m.calDue && !m.calB && !s.calibrating d && s.urgentIdle d && !s.rdb .MCV_CTRL_MODE d
    && !s.rdb .MCV_CTRL_HOLD d && !(s.convDown d 0 && s.convDown d 1) && decide (m.grid ≤ s.now)

/-- MCV_ENTRY_START (R352): the next entry starts; the grid goes on by INTERVAL. -/
def execMcvEntryStart (die : Nat) (s : State) : Res :=
  .next (if die < s.part.dies ∧ s.seqFree die then
    (s.entryRun die).updMon die (fun m => { m with grid := m.grid + 1000 * s.rd .MCV_SEQCFG_INTERVAL die })
  else s)

/-- Some entry of the sequence takes the die's tiles in turn (R353). -/
def State.takesTurns (s : State) (d : Nat) : Bool :=
  (List.range (s.rd .MCV_SEQCFG_LEN_M1 d + 1)).any (fun i => [s.partA d i, s.partB d i].any (fun a => a.2.1 == mcvTileRef && a.2.2 == 0x7FF))

/-- The entry is over; the sequence goes on to the next one. After the last one a new pass begins, with the next tile in turn (R353). -/
def State.entryOver (s : State) (d : Nat) : State :=
  let i := s.rd .MCV_STAT_ENTRY d
  let last := decide (i ≥ s.rd .MCV_SEQCFG_LEN_M1 d)
  let took := last && s.takesTurns d
  (s.updMon d (fun m => { m with run := false, second := false, aborts := 0, entry := if last then 0 else i + 1,
                                 turn := if took then (m.turn + 1) % 1664 else m.turn })).monGo d

/-- A second mismatch (R357, R358). -/
def State.secondMismatch (s : State) (d c arg codeA codeB : Nat) (half : Nat × Nat) : State :=
  let s := ((s.wr .MCV_RES_PLAUS_FAIL 1 d c).bump .MCV_PLAUS_FAULTS 1 d).event 0x98 d sevError
    (c + atByte 1 (s.rd .MCV_STAT_ENTRY d) + atByte 2 arg + atByte 4 codeA + atByte 6 codeB)
  (s.monArbitrate d half).entryOver d

/-- A first mismatch: the entry is converted once more at once (R357). Urgent requests that have waited for a protected attempt come
first, and the attempt that follows is not protected (R356). -/
def State.convertAgain (s : State) (d : Nat) : State :=
  if s.urgentIdle d then s.updMon d (fun m => { m with second := true, aborts := 0 })
  else (s.updMon d (fun m => { m with second := true, aborts := 0, run := false, redo := true })).monGo d

/-- MCV_ENTRY_END. -/
def State.entryEnd (s : State) (d codeA codeB : Nat) (half : Nat × Nat) : State :=
  let i := s.rd .MCV_STAT_ENTRY d
  let a := s.partA d i
  let b := s.partB d i
  let one := s.convDown d 0 || s.convDown d 1
  if a.1 = 1 ∧ b.1 = 1 then
    let arg := s.argOf d a.2.1 a.2.2
    if one then (s.result d a.2.1 arg (if s.convDown d 0 then codeB else codeA) false).entryOver d
    else if ((codeA : Int) - codeB).natAbs ≤ s.rd .MCV_PLAUS_TOL d then
      (s.result d a.2.1 arg (meanCode codeA codeB) true).entryOver d
    else
      let s := s.updMon d (fun m => { m with traceBad := m.traceBad || s.ax .traceRun d == 1 })
      if (s.mon d).second then s.secondMismatch d a.2.1 arg codeA codeB half
      else s.convertAgain d
  else
    ((s.result d a.2.1 (s.argOf d a.2.1 a.2.2) codeA false).result d b.2.1 (s.argOf d b.2.1 b.2.2) codeB false).entryOver d

def execMcvEntryEnd (die codeA codeB : Nat) (half : Nat × Nat) (s : State) : Res :=
  .next (if (s.mon die).run then s.entryEnd die codeA codeB half else s)

def execUrgentRequest (die kind who : Nat) (s : State) : Res :=
  .next (if die < s.part.dies ∧ 1 ≤ kind ∧ kind ≤ 4 then s.urgentRequest die kind who else s)

/-- The result goes to the requesting unit; MCV_RESn does not change (R355). -/
def execUrgentConversionEnd (die conv : Nat) (s : State) : Res :=
  .next (if s.urg.any (fun u => u.die == die && u.conv == some conv) then
    ({ s with urg := s.urg.filter (fun u => !(u.die == die && u.conv == some conv)) } : State).monGo die
  else s)

/-! ## Meanings: self-calibration (R359) -/

def State.scalRequest (s : State) (d : Nat) : State :=
  if (s.mon d).calDue || (s.mon d).calB || s.calibrating d then s else (s.updMon d (fun m => { m with calDue := true })).monGo d

/-- The period has elapsed, or MCV_TFAB has moved by more than DTEMP since the last self-calibration. -/
def State.scalIsDue (s : State) (d : Nat) : Bool :=
  decide ((s.mon d).calAt + s.rd .MCV_SCAL_PERIOD d * 10 ^ 9 ≤ s.now) ||
    (s.rdb .MCV_TFAB_VALID d && decide ((sext 16 (s.rd .MCV_TFAB_MEAN d) - (s.mon d).calTemp).natAbs > 16 * s.rd .MCV_SCAL_DTEMP d))

def execSelfCalDue (die : Nat) (s : State) : Res :=
  .next (if die < s.part.dies ∧ s.scalIsDue die then s.scalRequest die else s)

/-- MCA first, then MCB; after MCB the sequence resumes. -/
def State.scalEnd (s : State) (d k : Nat) (ok : Bool) : State :=
  let s := s.wr (if k = 0 then .MCV_STAT_SCAL_A else .MCV_STAT_SCAL_B) 0 d
  let s := s.updMon d (fun m => { m with
    calB := k == 0,
    calAt := if k = 0 then m.calAt else s.now,
    calTemp := if k = 0 then m.calTemp else sext 16 (s.rd .MCV_TFAB_MEAN d) })
  let s := if ok then s else s.monFail d k 2
  let s := if k = 0 then s else s.wr .MCV_CTRL_SCAL 0 d
  let s := s.monGo d
  if k = 0 then s else s.freshen d

/-- A self-calibration lies within 64 LSB of offset and 1% of gain (R358). -/
def scalOk (cal : Int × Rat) : Bool := decide (cal.1.natAbs ≤ 64 ∧ |cal.2| ≤ 1 / 100)

def execSelfCalEnd (die conv : Nat) (cal : Int × Rat) (s : State) : Res :=
  .next (if conv < 2 ∧ s.convCal die conv then s.scalEnd die conv (scalOk cal) else s)

/-! ## Meanings: MCV_CTRL and MCV_TRIG -/

def State.mcvExpert (s : State) (d : Nat) : State := s.wr .MCV_STAT_EXPERT 1 d

def State.mcvRefused (s : State) (d : Nat) : State := s.wr .MCV_STAT_REFUSED 1 d

/-- The sequence can go on: its grid begins anew. -/
def State.seqResume (s : State) (d : Nat) : State :=
  ((s.updMon d (fun m => { m with grid := max m.grid s.now })).freshen d).monGo d

/-- MODE (R360): in simultaneous mode the sequence stops, and every result reads STALE. -/
def State.mcvMode (s : State) (d v : Nat) : State :=
  if v % 2 = s.rd .MCV_CTRL_MODE d then s
  else
    let s := (s.mcvExpert d).wr .MCV_CTRL_MODE v d
    if v % 2 = 1 then
      ((s.updMon d (fun m => { m with run := false, redo := m.run || m.redo, second := false })).setStale d true).monGo d
    else (s.updMon d (fun m => { m with simWait := false })).seqResume d

/-- The entries of the sequence are consistent (R353): PAIR stands in both parts or in neither, and the parts of a
plausibility entry name the same channel and ARG. -/
def State.seqConsistent (s : State) (d : Nat) : Bool :=
  (List.range (s.rd .MCV_SEQCFG_LEN_M1 d + 1)).all (fun i =>
    let a := s.partA d i
    let b := s.partB d i
    a.1 == b.1 && (a.1 == 0 || a == b))

/-- A write of MCV_CTRL that clears HOLD while the entries are not consistent is refused as a whole (R353). -/
def State.holdRefused (s : State) (d hold : Nat) : Bool := s.rdb .MCV_CTRL_HOLD d && hold == 0 && !s.seqConsistent d

def State.mcvHold (s : State) (d v : Nat) : State :=
  if v % 2 = s.rd .MCV_CTRL_HOLD d then s
  else if v % 2 = 1 then (s.mcvExpert d).wr .MCV_CTRL_HOLD 1 d
  else if !s.seqConsistent d then s.mcvRefused d
  else
    let s := (s.mcvExpert d).wr .MCV_CTRL_HOLD 0 d
    let s := if (s.mon d).entry > s.rd .MCV_SEQCFG_LEN_M1 d then s.updMon d (fun m => { m with entry := 0 }) else s
    s.seqResume d

def State.mcvClear (s : State) (d : Nat) : State :=
  (((s.wr .MCV_PLAUS_FAULTS 0 d).wr .MCV_PREEMPT_ABORTS 0 d).wr .MCV_PREEMPT_PROTECTED 0 d).wr .MCV_SIMRES_OVERRUNS 0 d

/-- Hand-back: the default sequence, MODE, TOL and MCV_SCAL; the sequence runs again. -/
def State.mcvHandback (s : State) (d : Nat) : State :=
  let faults := s.rd .MCV_PLAUS_FAULTS d
  let s := (s.resetReg .MCV_SEQCFG d 0).each (List.range 32) (fun s i => (s.resetReg .MCV_SEQA d i).resetReg .MCV_SEQB d i)
  let s := (((s.resetReg .MCV_PLAUS d 0).wr .MCV_PLAUS_FAULTS faults d).resetReg .MCV_SCAL d 0).mcvMode d 0
  ((s.wr .MCV_CTRL_HOLD 0 d).wr .MCV_STAT_EXPERT 0 d).seqResume d

def execMcvCtrlModeWrite (die : Nat) (o : Order) (s : State) : Res :=
  .next (if s.dieWindow die then s.order o (regAddr .MCV_CTRL die) (fun s _ v => s.mcvMode die v) else s)

def execMcvCtrlHoldWrite (die : Nat) (o : Order) (s : State) : Res :=
  .next (if s.dieWindow die then s.order o (regAddr .MCV_CTRL die) (fun s _ v => s.mcvHold die v) else s)

/-- MCV_CTRL.SCAL: the bit reads 1 until the self-calibration of MCB ends, and a further 1 has no effect until then (R10, R359). -/
def State.scalOrder (s : State) (d : Nat) : State :=
  if s.rdb .MCV_CTRL_SCAL d then s else (s.wr .MCV_CTRL_SCAL 1 d).scalRequest d

def execMcvCtrlScal (die : Nat) (o : Order) (s : State) : Res :=
  .next (if s.dieWindow die then s.order o (regAddr .MCV_CTRL die) (fun s _ v => s.when (v % 2 == 1) (fun s => s.scalOrder die)) else s)

def execMcvCtrlClear (die : Nat) (o : Order) (s : State) : Res :=
  .next (if s.dieWindow die then s.order o (regAddr .MCV_CTRL die) (fun s _ v => s.when (v % 2 == 1) (fun s => s.mcvClear die)) else s)

def execMcvCtrlHandback (die : Nat) (o : Order) (s : State) : Res :=
  .next (if s.dieWindow die then s.order o (regAddr .MCV_CTRL die) (fun s _ v => s.when (v % 2 == 1) (fun s => s.mcvHandback die)) else s)

/-- MCV_TRIG.GO: the first expert write takes the converters out of firmware management; GO triggers while SRC selects it. -/
def State.mcvGo (s : State) (d : Nat) : State :=
  let s := s.mcvExpert d
  if s.rd .MCV_TRIG_SRC d = 0 then s.simTrigger d false else s

def execMcvTrigGo (die : Nat) (o : Order) (s : State) : Res :=
  .next (if s.dieWindow die then s.order o (regAddr .MCV_TRIG die) (fun s _ v => s.when (v % 2 == 1) (fun s => s.mcvGo die)) else s)

/-- A write of MCV_TTRIG: a time that has passed fires at once, with DELAYED set (R360). -/
def State.timedTrigger (s : State) (d v : Nat) : State :=
  let s := s.wr .MCV_TTRIG_TIME v d
  if s.rd .MCV_TRIG_SRC d = 1 ∧ s.rdb .MCV_CTRL_MODE d ∧ v < s.now then (s.updMon d (fun m => { m with timed := false })).simTrigger d true
  else s.updMon d (fun m => { m with timed := true })

def execMcvTimedTrigger (die : Nat) (s : State) : Res :=
  .next (if (s.mon die).timed ∧ s.rd .MCV_TRIG_SRC die = 1 ∧ s.rdb .MCV_CTRL_MODE die ∧ s.rd .MCV_TTRIG_TIME die ≤ s.now then
    (s.updMon die (fun m => { m with timed := false })).simTrigger die false
  else s)

/-- SIMULTANEOUS_CONVERSION_END: the sample lies 300 ns after the start (R351). -/
def execSimultaneousConversionEnd (die codeA codeB : Nat) (s : State) : Res :=
  .next (let m := s.mon die
    if m.sim = 0 then s
    else
      let s := (((s.wr .MCV_SIMRES_VALID 1 die).wr .MCV_SIMRES_DELAYED (m.sim - 1) die).wr .MCV_SIMRES_CODE_A codeA die).wr
        .MCV_SIMRES_CODE_B codeB die
      ((s.wr .MCV_SIMTIME_TIME (m.simAt + 300) die).updMon die (fun m => { m with sim := 0 })).monGo die)

/-! ## Telemetry streams (R361 to R363) -/

def State.tlm (s : State) (n : Nat) : Option Tlm := s.tlms.find? (fun x => x.stream == n)

def State.updTlm (s : State) (n : Nat) (f : Tlm → Tlm) : State :=
  { s with tlms := s.tlms.map (fun x => if x.stream = n then f x else x) }

/-- The 1 µs tick of a time in ns. -/
def usTick (t : Nat) : Nat := t / 1000

/-- The window ends: TLM_STAT, and TLM_WINDOW_END. -/
def State.tlmClose (s : State) (w : Tlm) (st fl : Nat) : State :=
  let st := if w.order ∧ st = stOK then stWindowOrder else st
  let fl := addFlag w.flags fl
  let s := (((s.wr .TLM_STAT_STATE 0 0 w.stream).wr .TLM_STAT_STATUS st 0 w.stream).wr .TLM_STAT_FLAGS fl 0 w.stream)
  let s : State := { s with tlms := s.tlms.filter (fun x => x.stream != w.stream) }
  s.event 0x9B 0xFF sevInfo (w.stream + atByte 1 st + atByte 2 fl + atByte 4 (w.written % 2 ^ 32)
    + atByte 8 (s.rd .TLM_DROP_COUNT 0 w.stream) + atByte 12 (min (w.lateness / 1000) (2 ^ 32 - 1)))

/-- The start of the tick after device time t. -/
def nextTick (t : Nat) : Nat := (usTick t + 1) * 1000

/-- The window opens: a stop in the same tick closes it with no record, and one that is past at the next tick. -/
def State.tlmOpen (s : State) (w : Tlm) : State :=
  let s := (s.wr .TLM_STAT_STATE 2 0 w.stream).updTlm w.stream (fun x => { x with open' := true, start := s.now, next := s.now })
  match w.stop, s.tlm w.stream with
  | some t, some w =>
    if usTick t = usTick s.now then s.tlmClose w stOK flShort
    else if t < s.now then s.updTlm w.stream (fun x => { x with stop := some (nextTick s.now) })
    else s
  | _, _ => s

/-- A stop that comes too early is ignored and counted. -/
def State.tlmOrder (s : State) (n : Nat) : State :=
  (s.bump .TLM_CNT_ORDER_CNT 1 0 n).updTlm n (fun x => { x with order := true })

/-- START (R363), with STOP in the same write or without it. A stop that came while the stream was IDLE gives the window the status
WINDOW_ORDER. A timed start that is past opens at the next tick. -/
def State.tlmStart (s : State) (n : Nat) (stop : Bool) : State :=
  let timed := s.rdb .TLM_CTRL_TSTART 0 n
  let t := s.rd .TLM_TSTART_TIME 0 n
  let old := s.tlm n
  let idle := old.isNone && s.ax .tlmIdleStop n == 1
  let s := match old with
    | some _ => s.bump .TLM_CNT_RESTART_CNT 1 0 n
    | none => (((s.wr .TLM_CNT_ORDER_CNT 0 0 n).wr .TLM_CNT_RESTART_CNT 0 0 n).wr .TLM_DROP_COUNT 0 0 n).setAx .tlmIdleStop 0 n
  let late := if timed ∧ t < s.now then s.now - t else 0
  let from' := if timed then t else s.now
  let w : Tlm := { stream := n, open' := false, start := if late = 0 then from' else nextTick s.now, stop := none, next := s.now,
                   written := (old.map (·.written)).getD 0, lateness := late,
                   said := (old.map (·.said)).getD false, order := (old.map (·.order)).getD idle,
                   flags := if late = 0 then 0 else flLate }
  let s : State := { s with tlms := s.tlms.filter (fun x => x.stream != n) ++ [w] }
  let s := (s.wr .TLM_LATE_TIME late 0 n).wr .TLM_STAT_STATE 1 0 n
  let stopAt := if s.rdb .TLM_CTRL_TSTOP 0 n then s.rd .TLM_TSTOP_TIME 0 n else s.now
  let s := if !stop then s
    else if usTick stopAt < usTick from' then s.tlmOrder n
    else s.updTlm n (fun x => { x with stop := some stopAt })
  if timed then s else match s.tlm n with
    | some w => s.tlmOpen w
    | none => s

/-- STOP (R363). A timed stop that is past closes the window at the next tick. -/
def State.tlmStop (s : State) (n : Nat) : State :=
  match s.tlm n with
  | none => (s.tlmOrder n).setAx .tlmIdleStop 1 n
  | some w =>
    if !w.open' then s.tlmOrder n
    else if s.rdb .TLM_CTRL_TSTOP 0 n then
      let t := s.rd .TLM_TSTOP_TIME 0 n
      if usTick t < usTick w.start then s.tlmOrder n
      else s.updTlm n (fun x => { x with stop := some (if t < s.now then nextTick s.now else t) })
    else s.tlmClose w stOK (if usTick s.now = usTick w.start then flShort else 0)

/-- Field k of TLM_CHANs. -/
def chanField (k : Nat) : Field := if k = 0 then .TLM_CHAN_CH0 else if k = 1 then .TLM_CHAN_CH1 else if k = 2 then .TLM_CHAN_CH2 else .TLM_CHAN_CH3

/-- A record of R361. -/
def State.tlmRecord (s : State) (n d c : Nat) (gap : Bool) : Nat :=
  let tail := atByte 14 c
  if !s.online d then tail + atByte 15 (d + 64 + 128 * b2n gap)
  else
    let rep := s.ax .tlmSeen n (d * 64 + c) == s.ax .mcvCount d c + 1
    (s.ax .mcvTime d c - 1) % 2 ^ 64 + atByte 8 (s.rd .MCV_RES_VALUE d c) + atByte 12 (s.rd .MCV_RES_CODE d c) + tail
      + atByte 15 (d + 8 * s.rd .MCV_RES_STALE d c + 16 * b2n rep + 32 * s.rd .MCV_RES_PLAUS_FAIL d c + 128 * b2n gap)

/-- One channel's record: written, or dropped when the ring is full (R362). -/
def State.tlmWrite (s : State) (n k : Nat) : State :=
  match s.tlm n with
  | none => s
  | some w =>
    let f := s.rd (chanField k) 0 n
    let d := bits f 10 8
    let c := bits f 5 0
    let wi := s.rd .TLM_WRIDX_COUNT 0 n
    if !bit f 15 then s
    else if (wi + 2 ^ 32 - s.rd .TLM_RDIDX_COUNT 0 n) % 2 ^ 32 = 2 ^ s.rd .TLM_RING_LOG2 0 n then
      let s := ((s.bump .TLM_DROP_COUNT 1 0 n).setAx .tlmGap 1 n).updTlm n (fun x => { x with said := true })
      if w.said then s else s.event 0x9A 0xFF sevNotice (n + atByte 4 wi)
    else
      let a := s.rd .TLM_RING_BASE 0 n * 4096 + 16 * (wi % 2 ^ s.rd .TLM_RING_LOG2 0 n)
      let s := (s.store (hostKey 0 a) 16 (s.tlmRecord n d c (s.ax .tlmGap n == 1))).wr .TLM_WRIDX_COUNT (wi + 1) 0 n
      ((s.setAx .tlmSeen (s.ax .mcvCount d c + 1) n (d * 64 + c)).setAx .tlmGap 0 n).updTlm n (fun x => { x with written := x.written + 1 })

/-- A sample is due. The start sample is taken when the tick of the start is over, so that a stop in that tick leaves no
record (R363). -/
def Tlm.due (w : Tlm) (now : Nat) : Bool := w.open' && decide (w.next ≤ now) && decide (usTick w.start < usTick now)

/-- TLM_PERIOD_SAMPLE: the records of one period, then the write-back count (R361, R362). -/
def execTlmPeriodSample (stream : Nat) (s : State) : Res :=
  .next (match s.tlm stream with
    | none => s
    | some w =>
      if !w.due s.now then s
      else
        let s := s.each (List.range 4) (fun s k => s.tlmWrite stream k)
        let s := s.store (hostKey 0 (s.rd .TLM_WB_ADDR 0 stream * 8)) 4 (s.rd .TLM_WRIDX_COUNT 0 stream)
        s.updTlm stream (fun x => { x with next := x.next + 1000 * s.rd .TLM_PERIOD_PERIOD 0 stream }))

def execTlmStart (stream : Nat) (stop : Bool) (o : Order) (s : State) : Res :=
  .next (if stream < 16 then s.order o (regAddr .TLM_CTRL s.head stream) (fun s _ v => s.when (v % 2 == 1) (fun s => s.tlmStart stream stop)) else s)

def execTlmStop (stream : Nat) (o : Order) (s : State) : Res :=
  .next (if stream < 16 then s.order o (regAddr .TLM_CTRL s.head stream) (fun s _ v => s.when (v % 2 == 1) (fun s => s.tlmStop stream)) else s)

def execTlmCancel (stream : Nat) (o : Order) (s : State) : Res :=
  .next (s.order o (regAddr .TLM_CTRL s.head stream) (fun s _ v => match s.tlm stream with
    | some w => if v % 2 = 1 then s.tlmClose w stAbortedByHost 0 else s
    | none => s))

def execTlmTimedStart (stream : Nat) (s : State) : Res :=
  .next (match s.tlm stream with
    | some w => if !w.open' && decide (w.start ≤ s.now) then s.tlmOpen w else s
    | none => s)

def execTlmTimedStop (stream : Nat) (s : State) : Res :=
  .next (match s.tlm stream with
    | some w => if w.open' && w.stop.any (fun t => decide (t ≤ s.now)) then
      s.tlmClose w stOK (if usTick s.now = usTick w.start then flShort else 0) else s
    | none => s)

def execTlmRdidxWrite (stream : Nat) (o : Order) (s : State) : Res :=
  .next (if stream < 16 then s.order o (regAddr .TLM_RDIDX s.head stream) (fun s _ v => s.wr .TLM_RDIDX_COUNT v 0 stream) else s)

end Sys2Proof.Machine
end

