-- ==== Sys2Proof/Machine/Drivers.lean ====
section
/-!
DEFINITION. Machine/Drivers.lean: row-driver settings (R83 to R96), waveform memory and players (R97 to R105)
(03_row_drivers.md).
-/

namespace Sys2Proof.Machine

/-! ## Settings (R87) -/

def State.drvExpert (s : State) (d t : Nat) : State := s.wr .DRV_STAT_EXPERT 1 d t

/-- Span and full scale that the tile has, or that wait for a seam: SPAN * 4 + FS. -/
def State.driveNow (s : State) (d t : Nat) : Nat :=
  if s.ax .pendDrive d t = 0 then s.rd .DRV_CFG_SPAN d t * 4 + s.rd .DRV_CFG_FS d t else s.ax .pendDrive d t - 1

def State.slewNow (s : State) (d t : Nat) : Nat :=
  if s.ax .pendSlew d t = 0 then s.rd .DRV_SLEW_STEP d t * 16 + s.rd .DRV_SLEW_RATE d t else s.ax .pendSlew d t - 1

/-- A write of DRV_CFG. -/
def State.drvCfg (s : State) (d t v : Nat) : State :=
  if v % 8 = s.driveNow d t then s else (s.drvExpert d t).setDrive d t v

/-- A write of DRV_SLEW: STEP 0 is refused. -/
def State.drvSlew (s : State) (d t v : Nat) : State :=
  if v / 16 % 256 = 0 then s.wr .DRV_STAT_REFUSED 1 d t
  else if v % 4096 = s.slewNow d t then s
  else (s.drvExpert d t).setSlew d t v

/-- The placement's span and full scale; without a placement, the reset values. -/
def State.placeDrive (s : State) (d t : Nat) : Nat :=
  match (s.placeOf d t).bind (fun p => (s.mapOf p.slot p.map).bind (fun m => m.layer p.layer)) with
  | some l => l.span * 4 + l.fs
  | none => 7

def State.drvHandback (s : State) (d t : Nat) : State :=
  (((s.setDrive d t (s.placeDrive d t)).setSlew d t (32 * 16)).wr .DRV_STAT_EXPERT 0 d t).takeFull d t

/-! ## Waveform memory (R97, R100) -/

def waveKey (d w p : Nat) : Nat := d * 16384 + w * 256 + p

/-- A point word. Waveforms 0 to 31 come from the firmware image, whose contents the spec does not give (R100); in the others, END
where nothing has been written (log entry 65). -/
def State.wavePoint (s : State) (d w p : Nat) : Nat :=
  if w < 32 then Config.firmwareWave (s.rd .START_REPORT_FW_SLOT) w p % 4096 else s.waves.get 0xC00 (waveKey d w p)

abbrev pkDrive : Nat := 0
abbrev pkPulse : Nat := 1
abbrev pkEnd : Nat := 3

/-- KIND of a point word. -/
def pointKind (w : Nat) : Nat := bits w 11 10

def State.play (s : State) (d n : Nat) : Option Play := s.plays.find? (fun x => x.die == d && x.player == n)

def State.updPlay (s : State) (d n : Nat) (f : Play → Play) : State :=
  { s with plays := s.plays.map (fun x => if x.die = d ∧ x.player = n then f x else x) }

/-- WFM_ADDR after an access. -/
def State.waveNext (s : State) (d : Nat) : State :=
  if !s.rdb .WFM_ADDR_AUTOINC d then s
  else
    let p := s.rd .WFM_ADDR_POINT d
    if p = 255 then (s.wr .WFM_ADDR_POINT 0 d).wr .WFM_ADDR_WAVE (s.rd .WFM_ADDR_WAVE d + 1) d else s.wr .WFM_ADDR_POINT (p + 1) d

/-- A write of the selected point (R100): a firmware waveform, and one that a player is playing, refuse it. -/
def State.waveWrite (s : State) (d v : Nat) : State :=
  let w := s.rd .WFM_ADDR_WAVE d
  if w < 32 ∨ s.plays.any (fun x => x.die == d && x.playing && x.wave == w) then s.wr .WFM_STAT_REFUSED 1 d
  else
    let s := s.setAx .wfmExpert 1 d
    ({ s with waves := s.waves.set 0xC00 (waveKey d w (s.rd .WFM_ADDR_POINT d)) (v % 4096) } : State).waveNext d

def execWfmDataAccess (die : Nat) (a : Access) (s : State) : Res :=
  .next (if s.dieWindow die then match a with
    | .read m => (s.emit (.readData m (regAddr .WFM_DATA die) 4
        (s.wavePoint die (s.rd .WFM_ADDR_WAVE die) (s.rd .WFM_ADDR_POINT die)))).waveNext die
    | .write o => s.order o (regAddr .WFM_DATA die) (fun s _ v => s.waveWrite die v)
  else s)

/-! ## Players (R101 to R105) -/

/-- Codes of rows first .. first + n - 1 replaced in a list of active codes. -/
def setRows (l : List Int) (first n : Nat) (c : Int) : List Int :=
  (List.range (max l.length (first + n))).map (fun i => if first ≤ i ∧ i < first + n then c else l.getD i 0)

/-- The rows of a playback move to a code. -/
def State.driveRows (s : State) (x : Play) (c : Int) : State :=
  s.updTile x.die x.tile (fun y => { y with active := setRows y.active x.first x.rows c })

/-- Row code of an amplitude byte (R84, R85). -/
def State.ampCode (s : State) (d t b : Nat) : Int :=
  if s.rdb .DRV_CFG_SPAN d t then (if b = 0x80 then -127 else sext 8 b) else (b : Int)

/-- Effects of a point at its start. -/
def State.drivePoint (s : State) (x : Play) : State :=
  let w := s.wavePoint x.die x.wave x.point
  let b := w % 256
  let s := s.wr .WFM_PLAY_STAT_POINT x.point x.die x.player
  if pointKind w = pkDrive then
    let s := if s.rdb .DRV_CFG_SPAN x.die x.tile && b == 0x80 then s.bump .DRV_CLAMP_COUNT x.rows x.die x.tile else s
    s.driveRows x (s.ampCode x.die x.tile b)
  else if pointKind w = pkPulse then
    let s := if b > 220 then s.bump .WFM_STAT_CLAMP_CNT 1 x.die else s
    let s := s.addPulse x.die x.tile (if bit w 9 then 2 else 1) x.first x.rows
    if s.tst x.die x.tile = tsCleared then s.wr .TIL_STATUS_STATE tsFree x.die x.tile else s
  else s

/-- A playback ends (R105). -/
def State.playEnd (s : State) (x : Play) (st fl : Nat) : State :=
  let d := x.die
  let n := x.player
  let s : State := { s with plays := s.plays.filter (fun y => !(y.die == d && y.player == n)) }
  let s := if x.playing then (((s.driveRows x 0).wr .DRV_STAT_PLAYING 0 d x.tile).showEngine d n 0 0 0) else s
  let st := if x.order ∧ st = stOK then stWindowOrder else st
  let s := ((s.wr .WFM_PLAY_STAT_STATE 0 d n).wr .WFM_PLAY_STAT_STATUS st d n).wr .WFM_PLAY_STAT_FLAGS (addFlag x.flags fl) d n
  s.pump d

/-- Point p of the present repetition begins; an END ends the repetition at its start (R97), and a waveform without one ends
after point 255 (R98). -/
def State.playPoint (s : State) (x : Play) (p : Nat) : State :=
  let go := fun (s : State) (y : Play) => (s.updPlay x.die x.player (fun _ => y)).drivePoint y
  let ends := fun q => decide (q ≥ 256) || pointKind (s.wavePoint x.die x.wave q) == pkEnd
  if !ends p then go s { x with point := p }
  else if x.repeats = 0 ∨ ends 0 then s.playEnd x stOK 0
  else go s { x with point := 0, repeats := x.repeats - 1 }

/-- Reasons of R102 for which a start is refused with MALFORMED. A PULSE point counts wherever it stands in the waveform, also behind the
END point (DESIGN CHOICE, log entry 164). -/
def State.playMalformed (s : State) (x : Play) : Bool :=
  let st := s.tst x.die x.tile
  decide (x.first + x.rows > 1024) || decide (x.interval < 4) || decide (x.interval > 1024) || decide (x.tile ≥ 1664)
    || st == tsServing || st == tsRecord || st == tsRetired
    || s.plays.any (fun y => y.die == x.die && y.player != x.player && y.playing && y.tile == x.tile)
    || (List.range 16).any (fun n => n != x.player && s.rd .PRG_ENG_STATE x.die n != 0 && s.rd .PRG_ENG_TILE x.die n == x.tile)
    || ((List.range 256).any (fun p => pointKind (s.wavePoint x.die x.wave p) == pkPulse) && st != tsFree && st != tsCleared)

/-- The drivers of a die are clamped to zero (R96): without a clock, before the fabric starts, and on a die that is not online. -/
def State.clamped (s : State) (d : Nat) : Bool := s.rdb .CLK_STAT_SAFE || !s.online d

/-- The clamp stops a running playback (R96). The spec gives no status for a playback that ends so: STATUS takes a free value. -/
def State.playAbort (s : State) (x : Play) : State :=
  let d := x.die
  let f := s.fresh
  let s := ((f.2.wr .WFM_PLAY_STAT_STATE 0 d x.player).wr .WFM_PLAY_STAT_CLOCK_ABORT 1 d x.player).wr .WFM_PLAY_STAT_STATUS f.1 d
    x.player
  let s : State := { s with plays := s.plays.filter (fun y => !(y.die == d && y.player == x.player)) }
  (s.wr .DRV_STAT_PLAYING 0 d x.tile).showEngine d x.player 0 0 0

/-- A playback starts to drive; under the clamp of R96 it stops at once. -/
def State.playBegin (s : State) (x : Play) : State :=
  let y := { x with playing := true, start := s.now }
  let s := s.updPlay x.die x.player (fun _ => y)
  let s := (s.showEngine x.die x.player 6 x.tile 0).wr .DRV_STAT_PLAYING 1 x.die x.tile
  let s := s.wr .WFM_PLAY_STAT_STATE 2 x.die x.player
  if s.clamped x.die then s.playAbort y else s.playPoint y 0

/-- The engine uses the player, so that a start is refused (R101). -/
def State.engineUses (s : State) (d n : Nat) : Bool := s.rd .PRG_ENG_STATE d n != 0 && s.rd .PRG_ENG_STATE d n != 6

/-- A stop at `t` lies less than one interval after the start (R104); a tick is 1.25 ns. -/
def withinFirst (start t interval : Nat) : Bool := decide ((t - start) * 8 < interval * 10)

/-- The settings that START latches. -/
def State.playOf (s : State) (d n : Nat) : Play :=
  let timed := s.rdb .WFM_PLAY_CTRL_TSTART d n
  let t := s.rd .WFM_PLAY_TSTART_TIME d n
  let late := if timed ∧ t < s.now then s.now - t else 0
  { die := d, player := n, wave := s.rd .WFM_PLAY_CTRL_WAVE d n, repeats := s.rd .WFM_PLAY_CTRL_REPEAT d n,
    interval := s.rd .WFM_PLAY_CTRL_INTERVAL d n, tile := s.rd .WFM_PLAY_TARGET_TILE d n,
    first := s.rd .WFM_PLAY_TARGET_FIRST_ROW d n, rows := s.rd .WFM_PLAY_TARGET_ROWS_M1 d n + 1, playing := false, point := 0,
    start := if timed then t else s.now, stop := none, late := late, flags := if late = 0 then 0 else flLate, order := false }

/-- An ignored stop (R104). -/
def State.playOrder (s : State) (d n : Nat) : State :=
  (s.bump .WFM_PLAY_CNT_ORDER_CNT 1 d n).updPlay d n (fun x => { x with order := true })

/-- START is accepted: it begins, or is armed; a STOP of the same write makes it a zero-length playback, or is a timed stop. -/
def State.playAccept (s : State) (x : Play) (stop : Bool) : State :=
  let d := x.die
  let n := x.player
  let s := match s.play d n with
    | some y =>
      let s := s.bump .WFM_PLAY_CNT_RESTART_CNT 1 d n
      if y.playing then ((s.driveRows y 0).wr .DRV_STAT_PLAYING 0 d y.tile).showEngine d n 0 0 0 else s
    | none => s
  let s : State := { s with plays := s.plays.filter (fun y => !(y.die == d && y.player == n)) ++ [x] }
  let s := (s.wr .WFM_PLAY_STAT_STATE 1 d n).wr .WFM_PLAY_STAT_CLOCK_ABORT 0 d n
  let s := if x.late = 0 then s else s.wr .WFM_PLAY_LATE_LATENESS x.late d n
  let at' := s.rd .WFM_PLAY_TSTOP_TIME d n
  let timedStop := s.rdb .WFM_PLAY_CTRL_TSTOP d n
  let x := (s.play d n).getD x
  if stop && (!timedStop || (decide (x.start ≤ at') && withinFirst x.start at' x.interval)) then s.playEnd x stOK flShort
  else
    let s := if stop = false then s
      else if at' < x.start then s.playOrder d n
      else s.updPlay d n (fun x => { x with stop := some at' })
    if s.rdb .WFM_PLAY_CTRL_TSTART d n then s.showEngine d n 0 0 0 |>.wr .WFM_PLAY_STAT_STATE 1 d n
    else match s.play d n with
      | some x => s.playBegin x
      | none => s

/-- START (R101, R102, R104). -/
def State.playStart (s : State) (d n : Nat) (stop : Bool) : State :=
  let s := s.setAx .wfmExpert 1 d
  if s.engineUses d n then s.wr .WFM_STAT_REFUSED 1 d
  else
    let x := s.playOf d n
    if s.playMalformed x then s.wr .WFM_PLAY_STAT_STATUS stMalformed d n
    else s.playAccept x stop

/-- STOP (R104). -/
def State.playStop (s : State) (d n : Nat) : State :=
  let s := s.setAx .wfmExpert 1 d
  match s.play d n with
  | none => s.playOrder d n
  | some x =>
    if !x.playing then s.playOrder d n
    else if s.rdb .WFM_PLAY_CTRL_TSTOP d n then
      let t := s.rd .WFM_PLAY_TSTOP_TIME d n
      if t < x.start then s.playOrder d n else s.updPlay d n (fun x => { x with stop := some t })
    else s.playEnd x stOK (if withinFirst x.start s.now x.interval then flShort else 0)

/-- WFM_TIMED_START: the armed playback starts; an engine that has taken the player meanwhile, or a tile that no longer
allows it, refuses it as at START. -/
def State.timedStart (s : State) (x : Play) : State :=
  if s.engineUses x.die x.player then (s.playEnd x stMalformed 0).wr .WFM_STAT_REFUSED 1 x.die
  else if s.playMalformed x then s.playEnd x stMalformed 0
  else s.playBegin x

/-- WFM_POINT_INTERVAL: a MARK takes its verify sample at the end of the interval (R97, R99). -/
def State.pointInterval (s : State) (x : Play) : State :=
  let s := if bit (s.wavePoint x.die x.wave x.point) 8 then s.urgentRequest x.die 3 x.player else s
  s.playPoint x (x.point + 1)

def execDrvCfgWrite (die tile : Nat) (o : Order) (s : State) : Res :=
  .next (if s.tileWindow die tile then s.order o (regAddr .DRV_CFG die tile) (fun s _ v => s.drvCfg die tile v) else s)

def execDrvSlewWrite (die tile : Nat) (o : Order) (s : State) : Res :=
  .next (if s.tileWindow die tile then s.order o (regAddr .DRV_SLEW die tile) (fun s _ v => s.drvSlew die tile v) else s)

def execDrvCfgHandback (die tile : Nat) (o : Order) (s : State) : Res :=
  .next (if s.tileWindow die tile then s.order o (regAddr .DRV_CFG die tile) (fun s _ v => s.when (v % 2 == 1) (fun s => s.drvHandback die tile)) else s)

/-- A die and a player of the part. -/
def State.isPlayer (s : State) (d n : Nat) : Bool := s.dieWindow d && decide (n < 16)

def execWfmPlayStart (die player : Nat) (stop : Bool) (o : Order) (s : State) : Res :=
  .next (if s.isPlayer die player then s.order o (regAddr .WFM_PLAY_CTRL die player) (fun s _ v =>
    s.when (v % 2 == 1) (fun s => s.playStart die player stop)) else s)

def execWfmPlayStop (die player : Nat) (o : Order) (s : State) : Res :=
  .next (if s.isPlayer die player then s.order o (regAddr .WFM_PLAY_CTRL die player) (fun s _ v =>
    s.when (v % 2 == 1) (fun s => s.playStop die player)) else s)

def execWfmPlayCancel (die player : Nat) (o : Order) (s : State) : Res :=
  .next (if s.isPlayer die player then s.order o (regAddr .WFM_PLAY_CTRL die player) (fun s _ v =>
    match s.play die player with
    | some x => if v % 2 = 1 then s.playEnd x stAbortedByHost 0 else s
    | none => s) else s)

def execWfmTimedStart (die player : Nat) (s : State) : Res :=
  .next (match s.play die player with
    | some x => if !x.playing && decide (x.start ≤ s.now) then s.timedStart x else s
    | none => s)

def execWfmTimedStop (die player : Nat) (s : State) : Res :=
  .next (match s.play die player with
    | some x => if x.playing && x.stop.any (fun t => decide (t ≤ s.now)) then
        s.playEnd x stOK (if withinFirst x.start s.now x.interval then flShort else 0) else s
    | none => s)

def execWfmPointInterval (die player : Nat) (s : State) : Res :=
  .next (match s.play die player with
    | some x => if x.playing then s.pointInterval x else s
    | none => s)

/-- WFM_STAT.HANDBACK. -/
def State.wfmHandback (s : State) (d : Nat) : State :=
  (s.each (s.plays.filter (fun x => x.die == d)) (fun s x => s.playEnd x stAbortedByHost 0)).setAx .wfmExpert 0 d

def execWfmStatHandback (die : Nat) (o : Order) (s : State) : Res :=
  .next (if s.dieWindow die then s.order o (regAddr .WFM_STAT die) (fun s _ v => s.when (v % 2 == 1) (fun s => s.wfmHandback die)) else s)

end Sys2Proof.Machine
end

