-- ==== Sys2Proof/Machine/SafeState.lean ====
section
/-!
DEFINITION. Machine/SafeState.lean: what the asynchronous logic does to the outputs of the part (R96, R306, R383, R462), and
how they come back (R465).
-/

namespace Sys2Proof.Machine

/-- The row drivers of a die are clamped to zero, and its running playbacks stop (R96). -/
def State.clampDie (s : State) (d : Nat) : State :=
  let s := s.each (s.plays.filter (fun x => x.die == d && x.playing)) (fun s x => s.playAbort x)
  { s with tiles := (s.tiles.map (fun e => if e.1 / 2048 = d then (e.1, { e.2 with active := [] }) else e)).filter (fun e =>
    decide (e.2 ≠ TileSt.fresh)) }

/-- Programming pulses of a die are cut off (R306): a tile under programming becomes FREE, and its request goes back to the
queue, to restart from CLEAR with its place and its deadline. A VERIFY drives no pulse and starts again. -/
def State.cutDie (s : State) (d : Nat) : State :=
  let l := s.progq.filter (fun r => r.die == d && r.engine.isSome)
  let s := s.each l (fun s r =>
    let s := if r.what = .verify ∧ !r.clearFirst then s
      else (s.setTst d r.tile tsFree).updTile d r.tile (fun x => { x with pairs := [], refs := [], known := false, pulses := [] })
    let s := match r.engine with
      | some n => (s.showEngine d n 0 0 0).wr .WFM_PLAY_STAT_CLOCK_ABORT 1 d n
      | none => s
    s.updReq r.no (fun r => { r with
      engine := none
      clearFirst := if r.what = .verify then r.clearFirst else r.what != .clear
      whole := r.whole || r.what == .column }))
  s

/-- The outputs of one die go to the safe state (R462, R475). -/
def State.dieSafe (s : State) (d : Nat) : State := ((s.clampDie d).cutDie d).wr .MEM_STAT_SELF_REFRESH 1 d

/-- The safe state of R462: without a clock, every output is safe, and the Yoke fires no stitch (R184). -/
def State.enterSafe (s : State) : State :=
  ((s.wr .CLK_STAT_SAFE 1).each s.dies State.dieSafe).wr .YOK_STATUS_FIRING 0

/-- LPDDR5X leaves self-refresh and retrains (R383). -/
def State.leaveSelfRefresh (s : State) (d : Nat) : State :=
  if s.rdb .MEM_STAT_SELF_REFRESH d then
    (s.wr .MEM_STAT_SELF_REFRESH 0 d).each (List.range 4) (fun s ch => s.retrainStart d ch)
  else s

/-- Steps 3 to 6 of R465: LPDDR5X retrains, the followers realign (R166), the clamp is released, SAFE clears; engines take
requests again. -/
def State.leaveSafe (s : State) : State :=
  let s := s.each s.onlineDies State.leaveSelfRefresh
  let s := s.each s.onlineDies (fun s d => if d = s.head then s else s.setAx .realign 1 d)
  (s.wr .CLK_STAT_SAFE 0).each s.onlineDies (fun s d => s.pump d)

/-- FAULT_N is low (R462, R475, R521, R530): from VDD_IO good until the PLLs lock at step 6 of the start-up, but not in minimal mode
(log entry 132); in the safe state of a lost clock or rail, but not of PERST_N; while NOCLOCK is set; and while a die has shut down. -/
def State.faultLow (s : State) : Bool :=
  (s.ax .pllsOnce == 0 && s.rd .START_REPORT_STATE != 2) || (s.rdb .CLK_STAT_SAFE && s.ax .perst == 0) || s.rdb .CLK_STAT_NOCLOCK
    || s.rd .PWR_STAT_TSHUT != 0

/-- The start-up runs again from step 3 (R466, R483): steps 1 and 2 stand. -/
def State.restartFrom3 (s : State) : State :=
  ((((s.setAx .startMask 6).wr .START_REPORT_STATE 0).wr .START_REPORT_STEP 2).wr .START_REPORT_REASON 0).setAx .startAt (s.now + 1)

end Sys2Proof.Machine
end

