-- ==== Sys2Proof/Machine/Clocks.lean ====
section
/-!
DEFINITION. Machine/Clocks.lean: sources, PLLs and domains (R452 to R458), the gating tree (R459 to R461), loss and return
of a source (R462 to R466), and device time (R476 to R478) (16_clocks_power_and_startup.md).
-/

namespace Sys2Proof.Machine

/-- A CLK write was refused. -/
def State.clkRefused (s : State) : State := s.wr .CLK_STAT_REFUSED 1

/-- Source codes of R486: 1 crystal, 2 REFCLK, 3 RC. -/
def readyField (src : Nat) : Field :=
  if src = 1 then .CLK_STAT_XTAL_READY else if src = 2 then .CLK_STAT_REFCLK_READY else .CLK_STAT_RC_READY

/-! ## PLLs -/

/-- One setting of CLK_PLLp. -/
structure PllWord where
  ref : Nat
  depth : Nat
  rate : Nat
  post : Nat
  refdiv : Nat
  fb : Nat
  deriving DecidableEq, Repr

def pllWord (w : Nat) : PllWord := ⟨bits w 31 30, bits w 29 25, bits w 24 19, bits w 18 16, bits w 15 12, bits w 10 0⟩

/-- The present setting of a PLL. -/
def State.pll (s : State) (p : Nat) : PllWord :=
  ⟨s.rd .CLK_PLL_REF 0 p, s.rd .CLK_PLL_SSC_DEPTH 0 p, s.rd .CLK_PLL_SSC_RATE 0 p, s.rd .CLK_PLL_POSTDIV 0 p,
   s.rd .CLK_PLL_REFDIV 0 p, s.rd .CLK_PLL_FBDIV 0 p⟩

/-- Reference frequency in MHz (R452). -/
def PllWord.fref (w : PllWord) : Nat := if w.ref = 1 then 100 else 25

/-- Three quarters of a memory data rate in MHz, so that a quarter of it is exact: 8,533.33, 7,500 or 6,400 MT/s by
MEM_CFG.RATE (R454). -/
def memRate34 (rate : Nat) : Nat := if rate = 0 then 4800 else if rate = 1 then 5625 else 6400

/-- The data rate in force on the head die. -/
def State.memRate (s : State) : Nat :=
  let w := s.ax .memInForce s.head
  if w = 0 then s.rd .MEM_CFG_RATE s.head else (w - 1) % 4

/-- Domain maximum of PLL p, times 3, in MHz (R454). -/
def State.domainMax3 (s : State) (p : Nat) : Nat :=
  if p = 0 ∨ p = 1 then 3600 else if p = 2 then 1800 else if p = 3 then 2400 else memRate34 s.memRate

/-- The limits of R454 and the ranges of CLK_PLLp. -/
def State.pllLimits (s : State) (p : Nat) (w : PllWord) : Bool :=
  decide (1 ≤ w.post) && decide (1 ≤ w.refdiv) && decide (8 ≤ w.fb) &&
  decide (2400 * w.refdiv ≤ w.fref * w.fb) && decide (w.fref * w.fb ≤ 4800 * w.refdiv) &&
  decide (5 * w.refdiv ≤ w.fref) && decide (3 * (w.fref * w.fb) ≤ s.domainMax3 p * (w.refdiv * w.post))

/-- Whether a write of CLK_PLLp is accepted (R454, R456, R457, R458). -/
def State.pllAccepts (s : State) (p : Nat) (w : PllWord) : Bool :=
  let o := s.pll p
  let moved := w.fb != o.fb || w.refdiv != o.refdiv || w.post != o.post
  s.pllLimits p w &&
  decide (w.ref ≤ 1) && (w.ref == 0 || p == 0 || p == 1 || p == 4) &&
  (w.ref == o.ref || s.rdb (readyField (w.ref + 1))) &&
  !(p == 4 && moved && s.rd .START_REPORT_STATE != 0) &&
  !(p == 3 && w.fref * w.fb != 800 * (w.refdiv * w.post)) &&
  !(p == 3 && w != o && !s.rdb .YOK_CTRL_HOLD_ALL) &&
  !(w.depth != 0 && (p == 2 || p == 3 || decide (w.depth > 16) || decide (w.rate < 30) || decide (w.rate > 63)))

/-- Store a setting of a PLL. -/
def State.setPll (s : State) (p : Nat) (w : PllWord) : State :=
  (((((s.wr .CLK_PLL_REF w.ref 0 p).wr .CLK_PLL_SSC_DEPTH w.depth 0 p).wr .CLK_PLL_SSC_RATE w.rate 0 p).wr .CLK_PLL_POSTDIV
    w.post 0 p).wr .CLK_PLL_REFDIV w.refdiv 0 p).wr .CLK_PLL_FBDIV w.fb 0 p

/-- The lock of PLL p on every die. -/
def State.setLock (s : State) (p : Nat) (b : Bool) : State :=
  s.each s.dies (fun s d => s.wr .CLK_LOCK_LOCK (setBit (s.rd .CLK_LOCK_LOCK 0 d) p b) 0 d)

/-- Take a setting: a change of a divider or of the reference stops the domain until the PLL has relocked; spread spectrum
changes at once (R456, R458). -/
def State.pllChange (s : State) (p : Nat) (w : PllWord) : State :=
  let o := s.pll p
  let relock := w.fb != o.fb || w.refdiv != o.refdiv || w.post != o.post || w.ref != o.ref
  let s := s.setPll p w
  if relock then (s.setLock p false).setAx .relock 1 0 p else s

/-- A host write of CLK_PLLp. -/
def State.pllWrite (s : State) (p v : Nat) : State :=
  let w := pllWord v
  if p ≥ 5 then s
  else if !s.pllAccepts p w then s.clkRefused
  else if w = s.pll p then s
  else (s.pllChange p w).wr .CLK_STAT_EXPERT 1

/-- Output of a PLL as a fraction in MHz: (numerator, denominator). -/
def PllWord.out (w : PllWord) : Nat × Nat := (w.fref * w.fb, w.refdiv * w.post)

/-- The ratios of R455: core/2 ≤ noc ≤ core, fab ≤ noc, and the memory PLL at a quarter of the data rate. -/
def State.ratiosHold (s : State) : Bool :=
  let c := (s.pll 0).out
  let n := (s.pll 1).out
  let f := (s.pll 2).out
  let m := (s.pll 4).out
  decide (c.1 * n.2 ≤ 2 * n.1 * c.2) && decide (n.1 * c.2 ≤ c.1 * n.2) && decide (f.1 * n.2 ≤ n.1 * f.2) &&
  decide (3 * m.1 = memRate34 s.memRate * m.2)

/-! ## Gates -/

def State.gateRefused (s : State) : State := s.wr .CLK_GATE_STATUS_REFUSED 1

/-- Tile states that keep their strobe group clocked: PROGRAMMING, STAGED, SERVING, HELD (R459, R461). -/
def stateClocked (st : Nat) : Bool := decide (2 ≤ st ∧ st ≤ 5)

/-- Some tile of a strobe group keeps it clocked. -/
def State.groupUsed (s : State) (d g : Nat) : Bool :=
  (List.range 32).any (fun k => stateClocked (s.rd .TIL_STATUS_STATE d (32 * g + k)))

/-- Some bank of a bank group has an owner. -/
def State.bankGroupUsed (s : State) (d g : Nat) : Bool :=
  (List.range 8).any (fun k => s.rd .BNK_OWNER_CUR_KIND d (8 * g + k) != 0)

/-- The strobe groups and the bank groups that something uses. -/
def State.usedGroups (s : State) (d : Nat) : Nat := sumBy ((List.range 52).filter (fun g => s.groupUsed d g)) (fun g => 2 ^ g)

def State.usedBankGroups (s : State) (d : Nat) : Nat := sumBy ((List.range 10).filter (fun g => s.bankGroupUsed d g)) (fun g => 2 ^ g)

/-- Firmware manages the leaves: once the part is ready, and not under expert control (R461). -/
def State.firmwareGates (s : State) : Bool := !s.rdb .CLK_STAT_EXPERT && s.rd .START_REPORT_STATE == 1

/-- The strobe-group gates of a die as they stand (R461). -/
def State.strobeGates (s : State) (d : Nat) : Nat := if s.firmwareGates then s.usedGroups d else s.rd .CLK_SG_GROUP 0 d

/-- The bank-group gates of a die as they stand (R461). -/
def State.bankGates (s : State) (d : Nat) : Nat := if s.firmwareGates then s.usedBankGroups d else s.rd .CLK_BG_GROUP 0 d

/-- The firmware's leaves are stored before an expert write takes over. -/
def State.storeLeaves (s : State) : State :=
  if s.firmwareGates then s.each s.dies (fun s d => (s.wr .CLK_SG_GROUP (s.usedGroups d) 0 d).wr .CLK_BG_GROUP (s.usedBankGroups d) 0 d)
  else s

/-- Bits that a write turns off. -/
def offBits (old new : Nat) (n : Nat) : List Nat := (List.range n).filter (fun i => bit old i && !bit new i)

/-- A write of a gate register is refused whole (R459). -/
def State.gateRefuses (s : State) (kind d v : Nat) : Bool :=
  if kind = 0 then
    !bit v 0 && s.rdb .CLK_GATE_DIE 0 d && (s.rd .CLK_GATE_BLK 0 d != 0 || s.online d)
  else if kind = 1 then
    (offBits (s.rd .CLK_GATE_BLK 0 d) v 8).any (fun b =>
      (b == 3 && s.strobeGates d != 0) || (b == 2 && s.bankGates d != 0) || (decide (b ≥ 5) && s.online d))
  else if kind = 2 then (offBits (s.strobeGates d) v 52).any (fun g => s.groupUsed d g)
  else (offBits (s.bankGates d) v 10).any (fun g => s.bankGroupUsed d g)

/-- The field of a gate register. -/
def gateField (kind : Nat) : Field :=
  if kind = 0 then .CLK_GATE_DIE else if kind = 1 then .CLK_GATE_BLK else if kind = 2 then .CLK_SG_GROUP else .CLK_BG_GROUP

/-- A write of a gate register (R459, R460): a gate-off of SEQ, DGA, BNK, FAB, PRG or of a leaf waits for the unit to be
idle, and PEND reads 1 until then; a unit that is turned on again waits no more. -/
def State.gateWrite (s : State) (kind d v : Nat) : State :=
  if d ≥ s.part.dies ∨ kind > 3 then s
  else if s.gateRefuses kind d v then s.gateRefused
  else
    let f := gateField kind
    let v := v % 2 ^ f.width
    let old := if kind = 2 then s.strobeGates d else if kind = 3 then s.bankGates d else s.rd f 0 d
    if old = v then s
    else
      let offs := (offBits old v f.width).filter (fun b => kind != 0 && !(kind == 1 && decide (b ≥ 5)))
      let s := ((s.storeLeaves.wr f v 0 d).wr .CLK_STAT_EXPERT 1).when (s.online d) (fun s => s.pump d)
      let s := s.setAx .gatePend (sumBy ((offBits (s.ax .gatePend d kind) v 52 ++ offs).eraseDups) (fun b => 2 ^ b)) d kind
      s.wr .CLK_GATE_STATUS_PEND (b2n ((List.range 8).any (fun d => (List.range 4).any (fun k => s.ax .gatePend d k != 0))))

/-- A unit whose gate-off waits is busy (R460), as far as the model shows it: a task on a sequencer of the die, an operation on its
array, conversions in its fabric or in the strobe group, an engine at work. -/
def State.unitBusy (s : State) (kind d b : Nat) : Bool :=
  let converts := fun (inUnit : Nat → Bool) => s.tiles.any (fun e => e.1 / 2048 == d && inUnit (e.1 % 2048 / 32) && !e.2.flights.isEmpty)
  if kind = 2 then converts (· == b)
  else if kind ≠ 1 then false
  else if b = 0 then (List.range 8).any (fun n => s.rd .SEQ_TASK_STATE d n != 0)
  else if b = 1 then s.rdb .DGA_STATUS_BUSY d
  else if b = 3 then converts (fun _ => true)
  else b == 4 && s.rd .PRG_STATUS_BUSY d != 0

/-- The units that are idle stop, and PEND reads 1 while a gate-off still waits (R460). -/
def State.gateOff (s : State) (kind d : Nat) : State :=
  let p := s.ax .gatePend d kind
  let s := s.setAx .gatePend (sumBy ((List.range 52).filter (fun b => bit p b && s.unitBusy kind d b)) (fun b => 2 ^ b)) d kind
  if (List.range 8).all (fun d => (List.range 4).all (fun k => s.ax .gatePend d k == 0)) then
    s.wr .CLK_GATE_STATUS_PEND 0 else s

/-- Firmware gating (R461): every block runs, and a leaf runs where something uses it. -/
def State.firmwareGating (s : State) : State :=
  s.each s.dies (fun s d => (((s.wr .CLK_GATE_DIE 1 0 d).wr .CLK_GATE_BLK 0xFF 0 d).wr .CLK_SG_GROUP (s.usedGroups d) 0 d).wr .CLK_BG_GROUP
    (s.usedBankGroups d) 0 d)

/-! ## Loss and return of a source -/

/-- The source feeds mgmt_clk or a die PLL, so that its loss is one of R462 (log entry 18). -/
def State.feeds (s : State) (src : Nat) : Bool :=
  if src = 1 then true
  else if src = 2 then (List.range 5).any (fun p => (s.pll p).ref == 1)
  else if src = 3 then s.rdb .CLK_CTRL_MGMT_SRC || s.rdb .CLK_STAT_MGMT_ON_RC
  else true

/-- PLLs that lose their reference stop (R462). -/
def State.stopPlls (s : State) (src die pll : Nat) : State :=
  if src = 4 then s.wr .CLK_LOCK_LOCK (setBit (s.rd .CLK_LOCK_LOCK 0 die) pll false) 0 die
  else if src = 3 then s
  else ((List.range 5).filter (fun p => (s.pll p).ref + 1 == src)).foldl (fun s p => s.setLock p false) s

/-- CLOCK_LOSS (R463, R486). -/
def State.clockLossEvent (s : State) (src die pll at' : Nat) : State :=
  s.event 0x10 (if src = 4 then die else 0xFF) sevCritical
    (src + atByte 1 (if src = 4 then die else 0xFF) + atByte 2 (if src = 4 then pll else 0xFF)
      + atByte 3 (s.rd .CLK_STAT_MGMT_ON_RC + 2 * b2n (s.ax .oneShot == 2)) + atByte 8 at')

/-- A loss verdict (R462, R463, R464, R466, R476). -/
def State.sourceLoss (s : State) (src die pll : Nat) : State :=
  let s := if src ≤ 3 then s.wr (readyField src) 0 else s
  let s := (s.bump .CLK_STAT_LOSSES).when (src == 2) (fun s => s.setAx .pcieDown 1)
  if !s.feeds src then s.event 0x11 0xFF sevWarning src
  else
    let running := (s.jobs.filter (·.active)).map (·.id)
    let s := if s.ax .lossAt != 0 then s
      else ({ s with safeJobs := (s.safeJobs ++ running).eraseDups }.setAx .lossAt (s.now + 1)).setAx .lossSrc src
    let s := (s.enterSafe).stopPlls src die pll
    if src = 1 then
      let s := s.wr .CLK_DTCTRL_HOLDOVER 1
      if s.rdb .CLK_CTRL_MGMT_SRC then s.clockLossEvent src die pll s.now
      else if s.rdb .CLK_STAT_RC_READY then (s.wr .CLK_STAT_MGMT_ON_RC 1).clockLossEvent src die pll s.now
      else (s.setAx .oneShot 1).setAx .lossPending 1
    else s.clockLossEvent src die pll s.now

/-- Everything the safe state waited for is ready: each source that a PLL or mgmt_clk needs (R465). -/
def State.sourcesBack (s : State) : Bool :=
  s.rdb .CLK_STAT_XTAL_READY && (s.rdb .CLK_STAT_REFCLK_READY || !((List.range 5).any (fun p => (s.pll p).ref == 1)))

/-- The return of R465, steps 1 to 7; the jobs that were running fault with cause UNIT, and cut-off programming restarts. -/
def State.restoreClocks (s : State) : State :=
  let s := (List.range 5).foldl (fun s p => if s.ax .relock 0 p = 0 ∧ bit (s.ax .startMask) 6 then s.setLock p true else s) s
  let s := (s.wr .CLK_STAT_MGMT_ON_RC (s.rd .CLK_CTRL_MGMT_SRC)).wr .CLK_DTCTRL_HOLDOVER 0
  let s := s.leaveSafe
  let us := min ((s.now - (s.ax .lossAt - 1)) / 1000) 0xFFFFFFFF
  let s := s.event 0x12 0xFF sevInfo (s.ax .lossSrc + atByte 4 us)
  let ids := s.safeJobs
  ({ (s.setAx .lossAt 0).setAx .lossSrc 0 with safeJobs := [] }).faultJobs ids cUnit

/-- The start that met the loss of every clock counts as a failed one, with reason 3 (R466, R480). -/
def State.clockFailedStart (s : State) : State :=
  if s.rd .START_REPORT_STATE ≠ 0 then s
  else
    let n := if bit (s.ax .startMask) 4 then s.ax .nvFails else s.ax .nvFails + 1
    (((s.setAx .nvFails n).wr .START_REPORT_FAILS n).setAx .nvLast 3).wr .START_REPORT_LAST 3

/-- CLOCK_LOSS waits for the event path (R466, R485). -/
def State.pendingLoss (s : State) : State :=
  if s.ax .lossPending = 1 ∧ s.ax .pfRingSeen = 1 then (s.setAx .lossPending 0).clockLossEvent (s.ax .lossSrc) 0xFF 0xFF (s.ax .lossAt - 1)
  else s

/-- The RC oscillator is ready before the one-shot expires (R466): mgmt_clk runs from it, and CLOCK_LOSS follows. A start-up that
met the loss has failed and runs again (log entry 33). -/
def State.onRc (s : State) : State :=
  let s := ((s.setAx .oneShot 0).wr .CLK_STAT_MGMT_ON_RC 1).pendingLoss
  if s.rd .START_REPORT_STATE = 0 ∧ bit (s.ax .startMask) 1 then s.clockFailedStart.restartFrom3 else s

/-- A source is ready (R453, R464, R465, R466); a crystal that is back ends the holdover (R476), and the one-shot with it. -/
def State.sourceReady (s : State) (src : Nat) : State :=
  let s := (if src ≤ 3 then s.wr (readyField src) 1 else s).when (src == 2) (fun s => s.setAx .pcieDown 0)
  if s.rdb .CLK_STAT_NOCLOCK then
    if src = 1 ∨ src = 3 then
      (((s.wr .CLK_STAT_NOCLOCK 0).setAx .oneShot 0).wr .CLK_STAT_MGMT_ON_RC (b2n (src == 3))).clockFailedStart.restartFrom3
    else s
  else if s.ax .oneShot = 1 ∧ src = 3 then s.onRc
  else
    let s := s.when (src == 1) (fun s => ((s.wr .CLK_DTCTRL_HOLDOVER 0).setAx .oneShot 0).pendingLoss)
    if s.ax .railWait = 0 ∧ s.ax .saveWait = 0 ∧ s.ax .perst = 0 ∧ s.rdb .CLK_STAT_SAFE ∧ s.ax .lossAt ≠ 0 ∧ s.sourcesBack then s.restoreClocks
    else s

/-! ## Device time -/

/-- One step of device time (R476, R478), in 1/8 ns: 1.25 ns of the stitch timing clock; at half rate after a positive
PPS error; 40 ns of the crystal before the stitch timing PLL locks; 20 ns of the RC oscillator while the crystal is lost. -/
def State.tick (s : State) : State :=
  if s.rdb .CLK_DTCTRL_HOLDOVER then { s with dt := s.dt + 160 }
  else if !bit (s.rd .CLK_LOCK_LOCK 0 s.head) 3 then { s with dt := s.dt + 320 }
  else if s.ax .halfRate = 1 ∧ s.ax .ppsAbsorb ≠ 0 then
    { s with dt := s.dt + 5 }.setAx .ppsAbsorb (s.ax .ppsAbsorb - 5)
  else { s with dt := s.dt + 10 }

/-- Set device time (R477); TIME_SET carries the signed step. -/
def State.setTime (s : State) (how : Nat) : State :=
  let t := s.rd .CLK_DTSET_TIME
  let step : Int := t - s.now
  { s with dt := t * 8 }.event 0x13 0xFF sevInfo (how + atByte 8 (wrap 64 step))

/-- Error of an edge: device time minus the nearest multiple of 10^9 (R478). -/
def ppsError (now : Nat) : Int :=
  let r := now % 1000000000
  if r ≤ 500000000 then (r : Int) else (r : Int) - 1000000000

/-- An accepted edge: the loss ends (R478). -/
def State.ppsAccepted (s : State) (e : Int) : State :=
  let s := s.setAx .lastPps (s.now + 1)
  if s.rdb .CLK_DTCTRL_PPS_LOST then (s.wr .CLK_DTCTRL_PPS_LOST 0).event 0x16 0xFF sevInfo (atByte 8 (wrap 64 e)) else s

/-- A rising edge of TIME_PPS (R477, R478); it also triggers simultaneous sampling (R360). -/
def State.ppsEdge (s : State) : State :=
  let s := s.ppsTrigger
  if !s.rdb .CLK_DTCTRL_PPS_EN then s
  else
    let e := ppsError s.now
    if s.rdb .CLK_DTCTRL_SET_PPS then ((s.setTime 1).wr .CLK_DTCTRL_SET_PPS 0).ppsAccepted e
    else if e.natAbs > 1000 * s.rd .CLK_DTCTRL_WINDOW then
      (s.bump .CLK_DTCTRL_REJECTS).event 0x14 0xFF sevNotice (atByte 8 (wrap 64 e))
    else
      let s := if e < 0 then { s with dt := s.dt + 8 * e.natAbs }
        else if e = 0 then s
        else (s.setAx .halfRate 1).setAx .ppsAbsorb (8 * e.natAbs)
      s.ppsAccepted e

/-! ## Meanings -/

def execSourceLoss (src die pll : Nat) (s : State) : Res :=
  .next (if src = 0 ∨ src > 4 ∨ (src ≤ 3 ∧ !s.rdb (readyField src)) then s else s.sourceLoss src die pll)

def execSourceReady (src : Nat) (s : State) : Res := .next (if src = 0 ∨ src > 4 then s else s.sourceReady src)

def execClockOneShotExpiry (s : State) : Res :=
  .next (if s.ax .oneShot = 1 then (s.setAx .oneShot 2).wr .CLK_STAT_NOCLOCK 1 else s)

/-- The domain resumes; with broken ratios every result of the part is undefined (R455), and the model stops. -/
def execPllRelockDone (p : Nat) (s : State) : Res :=
  if s.ax .relock 0 p = 1 then
    if s.ratiosHold then .next ((s.setAx .relock 0 0 p).setLock p true) else .fault .clockRatios
  else .next s

def execClkPllWrite (p : Nat) (o : Order) (s : State) : Res :=
  .next (s.order o (regAddr .CLK_PLL 0 p) (fun s _ v => s.pllWrite p v))

/-- Switch mgmt_clk (R457). -/
def State.mgmtSrc (s : State) (v : Nat) : State :=
  if !s.rdb (if v % 2 = 1 then .CLK_STAT_RC_READY else .CLK_STAT_XTAL_READY) then s.clkRefused
  else if s.rd .CLK_CTRL_MGMT_SRC = v % 2 then s
  else ((s.wr .CLK_CTRL_MGMT_SRC v).wr .CLK_STAT_MGMT_ON_RC v).wr .CLK_STAT_EXPERT 1

def execClkCtrlMgmtSrcWrite (o : Order) (s : State) : Res := .next (s.order o (regAddr .CLK_CTRL) (fun s _ v => s.mgmtSrc v))

/-- The root gate (R459). -/
def State.rootGate (s : State) (v : Nat) : State :=
  if v % 2 = 0 ∧ s.dies.any (fun d => s.rdb .CLK_GATE_DIE 0 d) then s.gateRefused
  else if s.rd .CLK_CTRL_ROOT = v % 2 then s
  else (s.wr .CLK_CTRL_ROOT v).wr .CLK_STAT_EXPERT 1

def execClkCtrlRootWrite (o : Order) (s : State) : Res := .next (s.order o (regAddr .CLK_CTRL) (fun s _ v => s.rootGate v))

/-- The reset setting of a PLL (R454). -/
def State.pllReset (s : State) (p : Nat) : PllWord :=
  let r := fun f => fieldReset s.part f 0 p 0
  ⟨r .CLK_PLL_REF, r .CLK_PLL_SSC_DEPTH, r .CLK_PLL_SSC_RATE, r .CLK_PLL_POSTDIV, r .CLK_PLL_REFDIV, r .CLK_PLL_FBDIV⟩

/-- Hand-back of the clocks: the reset PLL settings (the memory PLL keeps the dividers of its data rate), the firmware
gating, firmware management. One that would change the stitch timing PLL is refused while YOK_CTRL.HOLD_ALL is 0 (R456). -/
def State.clkHandback (s : State) : State :=
  if s.pll 3 ≠ s.pllReset 3 ∧ s.rdb .YOK_CTRL_HOLD_ALL = false then s.clkRefused
  else
    let s := (List.range 4).foldl (fun s p => s.pllChange p (s.pllReset p)) s
    let s := s.pllChange 4 { s.pll 4 with ref := 0, depth := 0, rate := 30 }
    ((s.firmwareGating.wr .CLK_CTRL_ROOT 1).wr .CLK_CTRL_MGMT_SRC 0).wr .CLK_STAT_EXPERT 0

def execClkCtrlHandback (o : Order) (s : State) : Res :=
  .next (s.order o (regAddr .CLK_CTRL) (fun s _ v => s.when (v % 2 == 1) State.clkHandback))

def execClkGateWrite (kind die : Nat) (o : Order) (s : State) : Res :=
  .next (s.order o (regAddr .CLK_GATE 0 die) (fun s _ v => s.gateWrite kind die v))

def execGateOffEffect (kind die : Nat) (s : State) : Res :=
  .next (if s.ax .gatePend die kind = 0 then s else s.gateOff kind die)

def execClkDtctrlSet (o : Order) (s : State) : Res :=
  .next (s.order o (regAddr .CLK_DTCTRL) (fun s _ v => s.when (v % 2 == 1) (fun s => s.setTime 0)))

def execClkDtctrlSetPps (o : Order) (s : State) : Res :=
  .next (s.order o (regAddr .CLK_DTCTRL) (fun s _ v => s.when (v % 2 == 1) (fun s => s.wr .CLK_DTCTRL_SET_PPS 1)))

def execTimePpsEdge (s : State) : Res := .next s.ppsEdge

def execPpsLossTimeout (s : State) : Res :=
  .next (if s.rdb .CLK_DTCTRL_PPS_EN && !s.rdb .CLK_DTCTRL_PPS_LOST && decide ((s.ax .lastPps - 1) + 3000000000 ≤ s.now) then
    (s.wr .CLK_DTCTRL_PPS_LOST 1).event 0x15 0xFF sevWarning else s)

def execPpsErrorAbsorbed (s : State) : Res :=
  .next (if s.ax .halfRate = 1 ∧ s.ax .ppsAbsorb = 0 then s.setAx .halfRate 0 else s)

end Sys2Proof.Machine
end

