-- ==== Sys2Proof/Machine/Power.lean ====
section
/-!
DEFINITION. Machine/Power.lean: the power manager: budgets (R467, R468), shedding (R469 to R473), thermal protection (R474,
R475) (16_clocks_power_and_startup.md).
-/

namespace Sys2Proof.Machine

/-! ## Allowances -/

/-- The budget that the package shares: the shed budget while PWR_SHED is asserted (R467), in 1/8 W. -/
def State.pkgBudget (s : State) : Nat :=
  if s.rdb .PWR_STAT_SHED_IN then min (s.rd .PWR_PKG_BUDGET_WATTS) (s.rd .PWR_SHED_BUDGET_WATTS)
  else s.rd .PWR_PKG_BUDGET_WATTS

/-- Equal share of an online die, after the package-level logic (R467). -/
def State.dieShare (s : State) (budget : Nat) : Nat := (budget - 8 * pkgLogicW s.part) / s.onlineDies.length

/-- The allowance of a die in 1/8 W (R467), with its thermal cut (R474). -/
def State.allowance (s : State) (d : Nat) : Nat :=
  min (s.rd .PWR_DIE_BUDGET 0 d) (s.dieShare s.pkgBudget) * (100 - s.ax .thermCut d) / 100

/-- The stitch period in ticks that keeps a die's fabric within FAB_CAP: 10 W at 400 ticks (R34, R467, R470). -/
def State.capThrottle (s : State) : Nat :=
  (s.onlineDies.map (fun d =>
    let c := s.rd .PWR_DIE_FAB_CAP 0 d
    if c ≥ 80 then 0 else if c = 0 then 65535 else min 65535 (cdiv (400 * 80) c))).foldl max 0

/-- The duty that keeps a die's digital array within DGA_CAP: 24 W at 256 (R34, R467). -/
def State.capDuty (s : State) (d : Nat) : Nat := max 1 (min 256 (256 * s.rd .PWR_DIE_DGA_CAP 0 d / 192))

/-- The power manager owns the throttle unless the Yoke is under expert control (R14). -/
def State.setThrottle (s : State) (v : Nat) : State :=
  if s.rdb .YOK_STATUS_EXPERT then s else s.wr .YOK_THROTTLE_TICKS (min v 65535)

def State.setDuty (s : State) (d v : Nat) : State :=
  if s.rdb .DGA_STATUS_EXPERT d then s else s.wr .DGA_DUTY_DUTY (max 1 (min v 256)) d

/-- The period that the throttle now gives, in ticks (R161). -/
def State.basePeriod (s : State) : Nat := max (s.rd .YOK_PERIOD_TICKS) (s.rd .YOK_THROTTLE_TICKS)

/-- Some limit acts: a throttle, or a lowered duty (PWR_STAT.LIMITING). -/
def State.limiting (s : State) : Bool :=
  decide (s.rd .YOK_THROTTLE_TICKS > s.rd .YOK_PERIOD_TICKS) || s.onlineDies.any (fun d => s.rd .DGA_DUTY_DUTY d != 256)

/-- LIMITING follows, and POWER_LIMITING is raised when limiting begins after at least 1 s without it (R468). -/
def State.noteLimiting (s : State) (d budget : Nat) : State :=
  if s.limiting then
    let fresh := !s.rdb .PWR_STAT_LIMITING && (s.ax .lastLimit == 0 || decide ((s.ax .lastLimit - 1) + 10 ^ 9 ≤ s.now))
    let s := (s.wr .PWR_STAT_LIMITING 1).setAx .lastLimit (s.now + 1)
    if fresh then s.event 0x24 d sevNotice (d + atByte 1 budget) else s
  else s.wr .PWR_STAT_LIMITING 0

/-- One step down (R35, R468): the duty of the dies over their allowance by 16; where a die's duty is at its least, or not the
manager's to lower (R14), the throttle by 1/16 of the period. -/
def State.powerDown (s : State) (over' : List Nat) : State :=
  let atMin := over'.filter (fun d => s.rd .DGA_DUTY_DUTY d == 1 || s.rdb .DGA_STATUS_EXPERT d)
  let s := s.each over' (fun s d => s.setDuty d (s.rd .DGA_DUTY_DUTY d - 16))
  if atMin.isEmpty then s else s.setThrottle (s.basePeriod + cdiv s.basePeriod 16)

/-- One step back, in the reverse order (R468). -/
def State.powerUp (s : State) : State :=
  let t := s.rd .YOK_THROTTLE_TICKS
  if t > max (s.rd .YOK_PERIOD_TICKS) s.capThrottle then
    let t' := max (t - cdiv t 16) s.capThrottle
    s.setThrottle (if t' ≤ s.rd .YOK_PERIOD_TICKS then 0 else t')
  else s.each s.onlineDies (fun s d => s.setDuty d (min (s.rd .DGA_DUTY_DUTY d + 16) (s.capDuty d)))

/-- The caps of R467 act at once. -/
def State.applyCaps (s : State) : State :=
  let s := if s.rd .YOK_THROTTLE_TICKS < s.capThrottle then s.setThrottle s.capThrottle else s
  s.each s.onlineDies (fun s d => if s.rd .DGA_DUTY_DUTY d > s.capDuty d then s.setDuty d (s.capDuty d) else s)

/-- The package energy of PKT_LIFE_ENERGY (R493): each measurement stands for 100 µs; what is short of a joule, in units of
1/80,000 J, waits (log entry 31). -/
def State.addEnergy (s : State) : State :=
  let p := 8 * pkgLogicW s.part + (s.onlineDies.map (fun d => s.rd .PWR_DIE_MEAS 0 d)).foldl (· + ·) 0
  let e := s.ax .energyRest + p
  (s.wr .PKT_LIFE_ENERGY_JOULES (s.rd .PKT_LIFE_ENERGY_JOULES + e / 80000)).setAx .energyRest (e % 80000)

/-- The first 2 ms of a shed, in which the shed settings stand (R469). -/
def State.shedFirst (s : State) : Bool :=
  s.rdb .PWR_STAT_SHED_IN && s.ax .shedAt != 0 && decide (s.now < s.ax .shedAt - 1 + 2000000)

/-- One measurement of every online die and the step it leads to (R468), which the first 2 ms of a shed do not take (R469). -/
def State.powerMeasure (s : State) (meas : List Nat) : State :=
  let s := (s.each s.onlineDies (fun s d => s.wr .PWR_DIE_MEAS (min (meas.getD d 0) 65535) 0 d)).addEnergy
  let ov := s.onlineDies.filter (fun d => decide (s.rd .PWR_DIE_MEAS 0 d > s.allowance d))
  let g := 100 - s.rd .PWR_SHED_CFG_GUARD
  let below := s.onlineDies.all (fun d => decide (100 * s.rd .PWR_DIE_MEAS 0 d < g * s.allowance d))
  let s := if s.shedFirst then s else if !ov.isEmpty then s.powerDown ov else if below then s.powerUp else s
  let s := s.applyCaps
  let d := (ov.head?).getD (s.head)
  s.noteLimiting d (if ov.isEmpty then (if s.capThrottle != 0 then 3 else 4)
    else if s.rd .PWR_DIE_BUDGET 0 d ≤ s.dieShare s.pkgBudget then 2 else 1)

/-! ## Shedding -/

/-- The remainder R of R470 for a die, in 1/8 W; a programming engine of the die that is active adds 2 W to the reserve. -/
def State.shedRest (s : State) (d : Nat) : Nat :=
  s.allowance d - (112 + (if s.rd .PRG_STATUS_BUSY d != 0 then 16 else 0))

/-- Shed throttle of a die (R470). -/
def State.shedThrottleOf (s : State) (d : Nat) : Nat :=
  let fr := s.rd .PWR_SHED_CFG_FAB_PCT * s.shedRest d
  if fr = 0 then 65535 else max 401 (min 65535 (cdiv (400 * 80 * 100) fr))

/-- Shed duty of a die (R470). -/
def State.shedDutyOf (s : State) (d : Nat) : Nat :=
  max 1 (min 256 (256 * ((100 - s.rd .PWR_SHED_CFG_FAB_PCT) * s.shedRest d) / (100 * 192)))

/-- The shed throttle of the package: the die with the least headroom sets it (R468). -/
def State.shedThrottle (s : State) : Nat := (s.onlineDies.map s.shedThrottleOf).foldl max 401

/-- A step of the duty towards the shed duty, by at most 32 (R469). -/
def State.shedDutyStep (s : State) : State :=
  s.each s.onlineDies (fun s d =>
    let t := s.shedDutyOf d
    let v := s.rd .DGA_DUTY_DUTY d
    if v > t then s.setDuty d (max t (v - 32)) else s)

/-- POWER_SHED_ON (R472, R486). -/
def State.shedOnEvent (s : State) : State :=
  s.event 0x20 0xFF sevWarning (s.rd .PWR_SHED_BUDGET_WATTS + atByte 4 s.shedThrottle
    + atByte 6 ((s.onlineDies.map s.shedDutyOf).foldl min 256))

/-- The throttle and the duties that the release of the shed brings back (R472). A shed that begins while those of the one before come
back keeps them. -/
def State.keepShedOld (s : State) : State :=
  if s.ax .shedSteps ≠ 0 then s.setAx .shedSteps 0
  else (s.setAx .shedOldThrottle (s.rd .YOK_THROTTLE_TICKS)).each s.onlineDies (fun s d =>
    s.setAx .shedOldDuty (s.rd .DGA_DUTY_DUTY d) d)

/-- The filtered rise of PWR_SHED (R469, R472). -/
def State.shedAssert (s : State) : State :=
  if s.rdb .PWR_STAT_SHED_IN then s
  else
    let s := ((((s.wr .PWR_STAT_SHED_IN 1).wr .PWR_STAT_SHED_MET 0).setAx .shedAt (s.now + 1)).setAx .shedMissed 0).setAx
      .shedLong 0
    let s := s.keepShedOld.shedOnEvent
    (s.setThrottle (max s.shedThrottle (s.rd .YOK_THROTTLE_TICKS))).shedDutyStep

/-- The filtered fall (R472): the throttle and the duty come back in 8 steps. -/
def State.shedRelease (s : State) : State :=
  if !s.rdb .PWR_STAT_SHED_IN then s
  else
    let ms := (s.now - (s.ax .shedAt - 1)) / 1000000
    let s := (s.wr .PWR_STAT_SHED_IN 0).setAx .shedSteps 8
    s.event 0x21 0xFF sevInfo (atByte 8 ms)

/-- `v` moved towards `t` by one of `n` equal steps. -/
def stepTo (v t n : Nat) : Nat := if v ≤ t then v + (t - v) / n else v - (v - t) / n

/-- One of the 8 restore steps (R472); the last lands on the values of before. -/
def State.shedRestore (s : State) : State :=
  let n := s.ax .shedSteps
  if n = 0 ∨ s.rdb .PWR_STAT_SHED_IN then s
  else
    let o := s.ax .shedOldThrottle
    let t := if n = 1 then o else stepTo (s.rd .YOK_THROTTLE_TICKS) (max o (s.rd .YOK_PERIOD_TICKS)) n
    let s := s.setThrottle t
    let s := s.each s.onlineDies (fun s d => s.setDuty d (stepTo (s.rd .DGA_DUTY_DUTY d) (s.ax .shedOldDuty d) n))
    s.setAx .shedSteps (n - 1)

/-- The end of a 1 ms window from 1 ms after assertion (R469, R471). -/
def State.shedWindow (s : State) (mean : Nat) : State :=
  if !s.rdb .PWR_STAT_SHED_IN then s
  else if mean ≤ s.rd .PWR_SHED_BUDGET_WATTS then s.wr .PWR_STAT_SHED_MET 1
  else
    let s := s.wr .PWR_STAT_SHED_MET 0
    if s.ax .shedMissed = 1 then s
    else (s.setAx .shedMissed 1).event 0x23 0xFF sevError (mean + atByte 4 (s.rd .PWR_SHED_BUDGET_WATTS))

/-- ADVISE minutes of shedding (R472). -/
def State.shedAdvise (s : State) : State :=
  let a := s.rd .PWR_SHED_CFG_ADVISE
  if s.rdb .PWR_STAT_SHED_IN && a != 0 && s.ax .shedLong == 0 && decide ((s.ax .shedAt - 1) + a * 60000000000 ≤ s.now) then
    (s.setAx .shedLong 1).event 0x22 0xFF sevNotice a
  else s

/-! ## Thermal protection -/

/-- The check of the hottest sensor of a die every 1 ms (R474). -/
def State.thermalCheck (s : State) (d : Nat) (t : Int) : State :=
  if !s.online d then s
  else if t ≥ 16 * ((tjMax s.part : Int) - s.rd .PWR_THERM_MARGIN) then
    let s := (s.setAx .thermCut (min 100 (s.ax .thermCut d + 10)) d).wr .PWR_STAT_THERM
      (setBit (s.rd .PWR_STAT_THERM) d true)
    s.event 0x25 d sevWarning (wrap 16 t + atByte 2 (s.allowance d))
  else s

/-- A restore step of 5% every 10 ms below Tj_max − MARGIN − 2 K (R474). -/
def State.thermalRestore (s : State) (d : Nat) (t : Int) : State :=
  if s.online d && decide (t < 16 * ((tjMax s.part : Int) - s.rd .PWR_THERM_MARGIN - 2)) then
    let c := s.ax .thermCut d - 5
    let s := s.setAx .thermCut c d
    if c = 0 then s.wr .PWR_STAT_THERM (setBit (s.rd .PWR_STAT_THERM) d false) else s
  else s

/-- The hardware comparator of a die trips (R475). -/
def State.thermalTrip (s : State) (d : Nat) (t : Int) : State :=
  if !s.online d then s
  else
    let s := s.dieSafe d
    let s := s.wr .PWR_STAT_TSHUT (setBit (s.rd .PWR_STAT_TSHUT) d true)
    (s.dieOffline d 5).event 0x26 d sevCritical (wrap 16 t)

/-! ## Meanings -/

def execPowerMeasure (meas : List Nat) (s : State) : Res := .next (s.powerMeasure meas)

def execThermalCheck (die : Nat) (t : Int) (s : State) : Res := .next (s.thermalCheck die t)

def execThermalRestoreStep (die : Nat) (t : Int) (s : State) : Res := .next (s.thermalRestore die t)

def execThermalComparatorTrip (die : Nat) (t : Int) (s : State) : Res := .next (s.thermalTrip die t)

def execPwrShedAssert (s : State) : Res := .next s.shedAssert

def execPwrShedRelease (s : State) : Res := .next s.shedRelease

/-- Every 50 µs of the first 2 ms of a shed (R469). -/
def execShedDutyStep (s : State) : Res := .next (s.when s.shedFirst State.shedDutyStep)

def execShedRestoreStep (s : State) : Res := .next s.shedRestore

def execShedWindowEnd (mean : Nat) (s : State) : Res := .next (s.shedWindow mean)

def execShedAdviseExpiry (s : State) : Res := .next s.shedAdvise

/-- Hand-back of the power manager: every PWR budget and PWR_SHED_CFG at reset, throttle and duty its own again. -/
def State.pwrHandback (s : State) : State :=
  let s := ((s.resetReg .PWR_PKG_BUDGET 0 0).resetReg .PWR_SHED_BUDGET 0 0).resetReg .PWR_SHED_CFG 0 0
  let s := s.each s.dies (fun s d => (((s.wr .PWR_DIE_BUDGET 384 0 d).wr .PWR_DIE_FAB_CAP 80 0 d).wr .PWR_DIE_DGA_CAP 192 0 d))
  s.wr .PWR_STAT_EXPERT 0

def execPwrCtrlHandback (o : Order) (s : State) : Res :=
  .next (s.order o (regAddr .PWR_CTRL) (fun s _ v => s.when (v % 2 == 1) State.pwrHandback))

end Sys2Proof.Machine
end

