-- ==== Sys2Proof/Machine/Loader.lean ====
section
/-!
DEFINITION. Machine/Loader.lean: PROGRAM_LOAD (R191, R206 to R208).
-/

namespace Sys2Proof.Machine

/-- A loaded program with a handle. -/
def progOf (fn handle : Nat) (obj : List Byte) : Prog :=
  let h := headerOf obj
  { handle := handle, fn := fn, sys := h.priv == 1, tasks := h.tasks, code := codeOf h obj,
    data := (obj.drop (64 + 8 * h.codeWords)).take h.dataBytes, entry := h.entry, scratchBanks := h.scratch,
    descInit := h.descInit, place := h.place, dieMask := h.dieMask, pages := cdiv h.size 4096, copies := [], unloading := false }

/-- A program with a handle is loaded, with a copy on every online die (R208, R440). -/
def State.installProg (s : State) (fn h : Nat) (obj : List Byte) : State :=
  let p := progOf fn h obj
  let s : State := { s with progs := s.progs.filter (fun q => q.handle != h) ++ [p] }
  s.each s.onlineDies (fun s d => s.copyProg h d (obj.take (headerOf obj).size))

/-- The program handle that PROGRAM_LOAD returns: the lowest that is free (DESIGN CHOICE, log entry 149). -/
def State.freeHandle (s : State) : Option Nat := findLow 1024 (fun h => !(s.progs.any (fun p => p.handle == h)))

/-- PROGRAM_LOAD: privilege, then the loader's checks, then the quota (R191, R207, R208). `obj` is what the read of the
object returned; a failed read is refused as a malformed object (log entry 22). -/
def State.programLoad (s : State) (c : Cmd) (obj : HostRead (List Byte)) : State :=
  match obj with
  | .error e => (s.aer e).completeCmd c stMalformed 0
  | .ok b =>
    let len := c.b 24 4
    let h := headerOf b
    let code := codeOf h b
    if (h.priv = 1 ∧ c.fn ≠ 0) ∨ (h.priv = 0 ∧ hasSystem code) then s.completeCmd c stRejectedPrivilege 0
    else if len < 64 ∨ b.length < 64 ∨ !(h.ok s.part.dies) ∨ len < h.size ∨ b.length < h.size ∨ !(codeOk code h.entry) then
      s.completeCmd c stMalformed 0
    else match s.freeHandle with
      | none => s.completeCmd c stRejectedQuota 0
      | some k =>
        if s.held c.fn resLpddr + cdiv h.size 4096 > s.quota c.fn resLpddr
            ∨ s.onlineDies.any (fun d => (s.freePages d (cdiv h.size 4096)).isNone) then s.completeCmd c stRejectedQuota 0
        else
          let s := s.installProg c.fn k b
          (s.journals c.fn (.load k (b.take h.size))).completeCmd c stOK k

def execProgramLoad (id : Nat) (obj : HostRead (List Byte)) (s : State) : Res :=
  .next (s.runCmd id opProgLoad (fun s c => s.programLoad c obj))

end Sys2Proof.Machine
end

