-- ==== Sys2Proof/Machine/Tensor.lean ====
section
/-!
DEFINITION. Machine/Tensor.lean: tensor descriptors and the memory a task may use (R197 to R201, R276, R367), the reading of
operands as values (R142, R156, R244), and the writing of results with their scales, trackers and statistics (R143 to R149,
R157, R158).
-/

namespace Sys2Proof.Machine

/-! ## Descriptor fields (R197) -/

def tdBase (w : Nat) : Nat := fromByte w 0 8
/-- Size of dimension k. -/
def tdD (w k : Nat) : Nat := fromByte w (8 + 4 * k) 4
/-- Byte stride of dimension k = 1, 2, 3. -/
def tdS (w k : Nat) : Int := sext 32 (fromByte w (20 + 4 * k) 4)
def tdFmt (w : Nat) : Nat := fromByte w 36 1
def tdFlags (w : Nat) : Nat := fromByte w 37 1
def tdAsym (w : Nat) : Bool := bit (tdFlags w) 0
def tdScaled (w : Nat) : Bool := bit (tdFlags w) 1
def tdSue8 (w : Nat) : Bool := bit (tdFlags w) 2
def tdTracked (w : Nat) : Bool := bit (tdFlags w) 3
def tdZp (w : Nat) : Nat := fromByte w 38 1
def tdScale (w : Nat) : Nat := fromByte w 40 8
def tdTracker (w : Nat) : Nat := fromByte w 48 8
def tdSlen (w : Nat) : Nat := fromByte w 56 4

/-- Bytes of a scale entry. -/
def tdEntry (w : Nat) : Nat := if tdSue8 w then 1 else 4

/-- Address of the run of D0 elements at (i1, i2, i3), modulo 2^64. -/
def tdRow (w i1 i2 i3 : Nat) : Nat := wrap 64 ((tdBase w : Int) + tdS w 1 * i1 + tdS w 2 * i2 + tdS w 3 * i3)

/-- Bytes of one run. -/
def tdRunBytes (w : Nat) : Nat := runBytes (tdFmt w) (tdD w 0)

/-- Runs of the tensor, innermost index first. -/
def tdRows (w : Nat) : List (Nat × Nat × Nat) :=
  (List.range (tdD w 3)).flatMap (fun i3 => (List.range (tdD w 2)).flatMap (fun i2 =>
    (List.range (tdD w 1)).map (fun i1 => (i1, i2, i3))))

/-- Lowest address and one past the highest, as integers. -/
def tdSpan (w : Nat) : Int × Int :=
  let ext := fun k => tdS w k * ((tdD w k : Int) - 1)
  let lo := [1, 2, 3].foldl (fun (a : Int) k => a + min 0 (ext k)) (tdBase w)
  let hi := [1, 2, 3].foldl (fun (a : Int) k => a + max 0 (ext k)) (tdBase w)
  (lo, hi + tdRunBytes w)

/-! ## Permitted areas (R201, R276) -/

/-- An area of device addresses. -/
structure Area where
  lo : Nat
  size : Nat
  ro : Bool
  deriving DecidableEq, Repr

/-- The host region (R200). -/
def hostArea : Area := ⟨2 * 2 ^ 44, 2 ^ 44, false⟩

/-- The job runs a system program (R191). -/
def State.isSys (s : State) (j : Job) : Bool := (s.prog j.handle).any (·.sys)

/-- The data sections of a function's programs, as areas: they may be read (R198, R201). -/
def State.dataAreas (s : State) (fn : Nat) : List Area := (s.dataRanges fn).map (fun r => ⟨r.1, r.2, true⟩)

/-- The areas that a job's tasks may use (R201). A job keeps its use grants of R410 for the Gusset regions too. -/
def State.areas (s : State) (j : Job) : List Area :=
  if s.isSys j then
    s.onlineDies.flatMap (fun d => [⟨bankAddr d 0, bankBytes, false⟩, ⟨lpddrAddr d 0, s.installed d, false⟩]) ++ [hostArea]
  else
    j.scratchRanges.map (fun r => ⟨r.1, r.2, false⟩)
    ++ (s.allocs.filter (fun a => a.fn == j.fn && s.online a.die && a.kind == 2)).map
        (fun a => ⟨bankAddr a.die (a.first * 0x80000), a.count * 0x80000, false⟩)
    ++ (s.allocs.filter (fun a => a.fn == j.fn && s.online a.die && a.kind == 3)).map
        (fun a => ⟨lpddrAddr a.die (a.first * 4096), a.count * 4096, false⟩)
    ++ (s.panels.filter (fun p => bit j.grants p.slot && s.online p.die)).map
        (fun p => ⟨lpddrAddr p.die (p.first * 4096), p.count * 4096, true⟩)
    ++ s.dataAreas j.fn ++ [hostArea]

/-- A range lies within one area; areas that may be written come first. -/
def findArea (l : List Area) (a n : Nat) : Option Area :=
  let ok := fun (x : Area) => decide (x.lo ≤ a) && decide (a + n ≤ x.lo + x.size)
  match l.find? (fun x => ok x && !x.ro) with
  | some x => some x
  | none => l.find? ok

/-- The owner of the banks that a range touches lets the job use them (R367). -/
def State.bankAllows (s : State) (j : Job) (a n : Nat) : Bool :=
  devRegion a != 0 || s.isSys j ||
    (List.range ((devOff a + n - 1) / 0x80000 - devOff a / 0x80000 + 1)).all (fun k =>
      let b := devOff a / 0x80000 + k
      s.rd .BNK_OWNER_CUR_KIND (devDie a) b == ownSequencer &&
        (s.rd .BNK_OWNER_CUR_ID (devDie a) b == j.runTag || s.rd .BNK_OWNER_CUR_ID (devDie a) b == 128 + j.fn))

/-- Every byte of a range lies in one of the areas; with `write`, in one that may be written. -/
def inAreas (l : List Area) (a n : Nat) (write : Bool) : Bool :=
  (findArea l a n).any (fun x => !(write && x.ro)) || (List.range n).all (fun i => (findArea l (a + i) 1).any (fun x => !(write && x.ro)))

/-- A scalar access of a task: none, or the cause of its trap (R201). Two areas may lie side by side under it. -/
def State.scalarCheck (s : State) (j : Job) (a n : Nat) (write : Bool) : Option Nat :=
  if inAreas (s.areas j) a n write && s.bankAllows j a n then none else some cAddress

/-- A refused bank access is counted (R367). -/
def State.countDenied (s : State) (j : Job) (a n : Nat) : State :=
  if inAreas (s.areas j) a n false && !s.bankAllows j a n then s.bump .BNK_DENIED_COUNT 1 (devDie a) else s

/-- The refused bank accesses of an operation that ends with ADDRESS are counted: one for each data area and scale stream that lies in a
bank of another owner (R367). -/
def State.countDeniedTds (s : State) (j : Job) (l : List Nat) : State :=
  s.each (l.flatMap (fun w => ((tdSpan w).1.toNat, ((tdSpan w).2 - (tdSpan w).1).toNat)
      :: (if tdScaled w then [(tdScale w, tdSlen w * tdEntry w)] else []))) (fun s r =>
    if (findArea (s.areas j) r.1 r.2).isSome && !s.bankAllows j r.1 r.2 then s.bump .BNK_DENIED_COUNT 1 (devDie r.1) else s)

/-- A trap of an instruction at its tensors. -/
def State.tensorTrap (s : State) (j : Job) (task cause : Nat) (l : List Nat) : State :=
  (if cause = cAddress then s.countDeniedTds j l else s).trap j.id task cause 0

/-- Key in memory of a device address that a job of a function uses. -/
def jobKey (j : Job) (a : Nat) : Nat := memKey j.fn a

/-- A read of poisoned memory (R372, R381), seen by the job: bytes that it has staged are its own. -/
def State.readPoisoned (s : State) (j : Job) (a n : Nat) : Bool :=
  devRegion a != 2 && !s.poison.isEmpty &&
    (List.range n).any (fun i => s.poison.get false (poisonKey (a + i)) && (j.staged.get none (jobKey j (a + i))).isNone)

/-- A read by an instruction or a unit of a job: what it meets, and the cause of its fault (R372, R381, R387). -/
def State.jobRead (s : State) (j : Job) (x : Found) (a n : Nat) : Option Nat × State :=
  let r := s.reads x [(a, n)]
  (if r.1 then some cAddress else if r.2.readPoisoned j a n then some cMemoryEcc else none, r.2)

/-- A write that covers a poisoned granule or block in part (R373, R381). -/
def State.writePoisoned (s : State) (a n : Nat) : Bool :=
  devRegion a != 2 && !s.poison.isEmpty &&
    (List.range n).any (fun i =>
      let k := poisonKey (a + i)
      s.poison.get false k && !(decide (a ≤ k) && decide (k + (if devRegion a = 0 then 8 else 64) ≤ a + n)))

/-! ## Descriptor checks (R198) -/

/-- Reserved bits and bytes are 0. -/
def tdReserved (w : Nat) : Bool := tdFlags w / 16 != 0 || fromByte w 39 1 != 0 || fromByte w 60 4 != 0

/-- Alignment and coding of a descriptor, apart from memory. -/
def tdWf (w : Nat) : Bool :=
  let f := tdFmt w
  decide (tdD w 0 ≠ 0 ∧ tdD w 1 ≠ 0 ∧ tdD w 2 ≠ 0 ∧ tdD w 3 ≠ 0) && decide (1 ≤ f ∧ f ≤ 16) && !tdReserved w
    && (!tdAsym w || decide (1 ≤ f ∧ f ≤ 4)) && decide (tdBase w % max 1 (containerBits f / 8) = 0)
    && (!tdScaled w || decide (tdScale w % tdEntry w = 0)) && (!tdTracked w || decide (tdTracker w % 128 = 0))

/-- A descriptor passes R198 for a job. -/
def State.tdOk (s : State) (j : Job) (t : TDesc) : Bool :=
  let w := t.val
  let l := s.areas j
  let sp := tdSpan w
  t.valid && tdWf w && decide (0 ≤ sp.1) && (findArea l sp.1.toNat (sp.2 - sp.1).toNat).isSome
    && (!tdScaled w || (findArea l (tdScale w) (tdSlen w * tdEntry w)).isSome)
    && (!tdTracked w || (findArea l (tdTracker w) 128).isSome)

/-- A write through the descriptor, or a refused bank access, traps with ADDRESS (R201). -/
def State.tdAccess (s : State) (j : Job) (w : Nat) (write : Bool) : Option Nat :=
  let l := s.areas j
  let sp := tdSpan w
  let chk := fun a n wr => match findArea l a n with
    | none => true
    | some x => (wr && x.ro) || !s.bankAllows j a n
  if chk sp.1.toNat (sp.2 - sp.1).toNat write then some cAddress
  else if tdScaled w && chk (tdScale w) (tdSlen w * tdEntry w) write then some cAddress
  else if tdTracked w && write && chk (tdTracker w) 128 true then some cAddress
  else none

/-! ## Reading operands -/

/-- Code of element i of a run whose bytes are a number. -/
def runCode (f run i : Nat) : Nat :=
  let c := containerBits f
  run / 2 ^ (c * i) % 2 ^ c % 2 ^ codeBits f

/-- The bytes of a run, as a number. -/
def State.tdRunNum (s : State) (j : Job) (w i1 i2 i3 : Nat) : Nat := s.jobLoad j (jobKey j (tdRow w i1 i2 i3)) (tdRunBytes w)

/-- Code of an element. -/
def State.tdCode (s : State) (j : Job) (w i0 i1 i2 i3 : Nat) : Nat := runCode (tdFmt w) (s.tdRunNum j w i1 i2 i3) i0

/-- The ranges that a read of a tensor takes: its runs and its scale stream. -/
def tdRanges (w : Nat) : List (Nat × Nat) :=
  (tdRows w).map (fun r => (tdRow w r.1 r.2.1 r.2.2, tdRunBytes w)) ++ (if tdScaled w then [(tdScale w, tdSlen w * tdEntry w)] else [])

/-- Some run of the tensor, or its scale stream, reads poisoned memory (R275). -/
def State.tdPoisoned (s : State) (j : Job) (w : Nat) : Bool :=
  !s.poison.isEmpty && ((tdRows w).any (fun r => s.readPoisoned j (tdRow w r.1 r.2.1 r.2.2) (tdRunBytes w))
    || (tdScaled w && s.readPoisoned j (tdScale w) (tdSlen w * tdEntry w)))

/-- Scale entry n of a tensor, as a value; none is a scale fault. A tensor that is not SCALED has scale 1. -/
def State.tdSigma (s : State) (j : Job) (w n : Nat) : Option Rat :=
  if tdScaled w then scaleEntry (tdSue8 w) (s.jobLoad j (jobKey j (tdScale w + n * tdEntry w)) (tdEntry w)) else some 1

/-- R150: the stream has one entry for each step, and every entry is a scale. -/
def State.scaleFault (s : State) (j : Job) (w : Nat) : Bool :=
  tdScaled w && (decide (tdSlen w ≠ tdD w 3) || (List.range (tdD w 3)).any (fun n => (s.tdSigma j w n).isNone))

/-- Zero point of an ASYM tensor as an integer; none where the code is outside the format (R156). -/
def tdZero (w : Nat) : Option Int :=
  let f := tdFmt w
  if tdZp w ≥ 2 ^ containerBits f then none
  else some (if f = fS4 ∨ f = fS8 then sext (containerBits f) (tdZp w) else tdZp w)

/-- Operand of an ASYM element, and whether it saturated (R156): the difference for 4-bit formats, half of it, rounded, for
8-bit ones. -/
def asymOperand (f : Nat) (q z : Int) : Int × Bool :=
  if containerBits f = 4 then (q - z, false)
  else
    let h := rneI (((q - z : Int) : Rat) / 2)
    (max (-127) (min h 127), decide (h > 127 ∨ h < -127))

/-- The operand code value of an element, before its scale. -/
def State.tdOperand (s : State) (j : Job) (w i0 i1 i2 i3 : Nat) : Val :=
  let v := valOf (tdFmt w) (s.tdCode j w i0 i1 i2 i3)
  if tdAsym w then .ofRat ((asymOperand (tdFmt w) v.rat.floor ((tdZero w).getD 0)).1 : Rat) else v

/-- The scale of a step's operands: doubled for 8-bit ASYM (R156). -/
def State.tdOpScale (s : State) (j : Job) (w n : Nat) : Rat :=
  (s.tdSigma j w n).getD 1 * (if tdAsym w ∧ containerBits (tdFmt w) = 8 then 2 else 1)

/-- The real value of an element (R142, R244). Every operation, MOVT and ROT included, reads an 8-bit ASYM element as the halved,
saturating operand of R156 times twice the scale (log entry 133). -/
def State.tdVal (s : State) (j : Job) (w i0 i1 i2 i3 : Nat) : Val :=
  (s.tdOperand j w i0 i1 i2 i3).mul (.fin false (s.tdOpScale j w i3))

/-- Saturations of the operand subtraction over a tensor (R156). -/
def State.tdAsymSat (s : State) (j : Job) (w : Nat) : Nat :=
  if tdAsym w then
    sumBy (tdRows w) (fun r => ((List.range (tdD w 0)).filter (fun i0 =>
      (asymOperand (tdFmt w) (valOf (tdFmt w) (s.tdCode j w i0 r.1 r.2.1 r.2.2)).rat.floor ((tdZero w).getD 0)).2)).length)
  else 0

/-! ## Writing results -/

/-- Bytes of a run from its codes, as a number (R134). -/
def packRun (f : Nat) (codes : List Nat) : Nat :=
  codes.foldr (fun c acc => c % 2 ^ codeBits f + 2 ^ containerBits f * acc) 0

/-- The job writes n bytes at a device address: done, or the cause of its fault (R219, R373). -/
def State.jobWrite (s : State) (id a n v : Nat) : Except Nat State :=
  match s.job id with
  | none => .ok s
  | some j =>
    if s.writePoisoned a n then .error cMemoryEcc
    else match s.jobStore id (jobKey j a) n v with
      | (true, s') => .ok s'
      | (false, _) => .error cStagingFull

/-- Several writes in order: address, bytes, value. -/
def State.jobWrites (s : State) (id : Nat) : List (Nat × Nat × Nat) → Except Nat State
  | [] => .ok s
  | (a, n, v) :: t => match s.jobWrite id a n v with
    | .ok s' => s'.jobWrites id t
    | .error c => .error c

/-- The job's private copy of a tracker: read at its first use (R148). -/
def State.trackerOf (s : State) (j : Job) (a : Nat) : Nat := (j.trk.get none (jobKey j a)).getD (s.jobLoad j (jobKey j a) 128)

/-- The job keeps its copy of a tracker from here on (R148). -/
def State.keepTracker (s : State) (id a : Nat) : State :=
  match s.job id with
  | none => s
  | some j => s.updJob id (fun k => { k with trk := k.trk.set none (jobKey j a) (some (s.trackerOf j a)) })

/-- The cause of an operation that completes with MALFORMED (R145, R156): no cause of R223, since the job goes on. -/
abbrev cMalformed : Nat := 0x100

/-- A step on a tracker is stored in the copy, and staged with the job's outputs (R148). -/
def State.setTracker (s : State) (id a t : Nat) : Except Nat State :=
  match s.job id with
  | none => .ok s
  | some j => (s.updJob id (fun k => { k with trk := k.trk.set none (jobKey j a) (some t) })).jobWrite id a 128 t

/-- The scale entry that a scale is written as, and the scale that it stands for: the entry holds the scale actually used
(R149). -/
def scaleOut (ue8 : Bool) (c : Nat) : Nat × Rat :=
  if ue8 then
    let e := (ue8Round (f32Val c).mag).code
    (e, pow2 (e - 127))
  else (c, (f32Val c).mag)

/-- A step of a result: its scale (as an FP32 pattern), its tracker after the step, its codes and its statistics. -/
structure StepOut where
  scale : Nat
  trk : Nat
  codes : List Nat
  stat : Stat

/-- Convert the values of one step with a scale (R136 to R143). -/
def convStep (f : Nat) (sigma : Rat) (vals : List Val) : List Nat × Stat :=
  vals.foldr (fun v acc =>
    let x := v.div (.fin false sigma)
    let c := if f = fUE8 then ue8Round x.mag else convert f x
    (c.code :: acc.1, acc.2.add f x c)) ([], Stat.zero)

/-- The codes of one step i3 of a result are staged, run by run. -/
def State.putStep (s : State) (id w i3 : Nat) (codes : List Nat) : Except Nat State :=
  s.jobWrites id (((List.range (tdD w 2)).flatMap (fun i2 => (List.range (tdD w 1)).map (fun i1 => (i1, i2)))).zipIdx.map (fun r =>
    (tdRow w r.1.1 r.1.2 i3, tdRunBytes w, packRun (tdFmt w) ((codes.drop (r.2 * tdD w 0)).take (tdD w 0)))))

/-- Write one step of results: codes run by run, the scale entry and the tracker of a SCALED and TRACKED destination (R146
to R149). A step on a refused tracker makes the operation complete with MALFORMED (R145); a LAST_SCALE that is no scale is a scale fault
(R150). A quantiser step records at its completion, also where stitch requests of the job on the same tracker are under way: the spec
orders the steps of stitch requests only (DESIGN CHOICE, log entry 145). The answer carries what the step counted. -/
def State.writeStep (s : State) (id w i3 : Nat) (vals : List Val) (st : Stat) : Except Nat (State × Stat) :=
  match s.job id with
  | none => .ok (s, st)
  | some j =>
    let f := tdFmt w
    if tdScaled w then
      let t := s.trackerOf j (tdTracker w)
      let cur := maxMag vals
      match (if trkRefused t (trkLag t) f false then none else trkScale t cur false) with
      | none => .error cMalformed
      | some sc =>
        if (scaleEntry false sc).isNone then .error cScale
        else
        let e := scaleOut (tdSue8 w) sc
        let r := convStep f e.2 vals
        match s.putStep id w i3 r.1 with
        | .error c => .error c
        | .ok s => match s.jobWrite id (tdScale w + i3 * tdEntry w) (tdEntry w) e.1 with
          | .error c => .error c
          | .ok s => match s.setTracker id (tdTracker w) (trkRecord t cur (if tdSue8 w then f32Code (.fin false e.2) else sc)) with
            | .error c => .error c
            | .ok s => .ok (s, ⟨st.sq ++ r.2.sq, st.sat + r.2.sat, st.nan + r.2.nan⟩)
    else if f = fUE8 ∧ vals.any (fun v => !v.isFin || decide (v.rat ≤ 0)) then .error cScale
    else
      let r := convStep f 1 vals
      match s.putStep id w i3 r.1 with
      | .error c => .error c
      | .ok s => .ok (s, ⟨st.sq ++ r.2.sq, st.sat + r.2.sat, st.nan + r.2.nan⟩)

/-- The steps of a result in order. -/
def State.writeSteps (s : State) (id w : Nat) (vals : Nat → List Val) : List Nat → Stat → Except Nat (State × Stat)
  | [], st => .ok (s, st)
  | i3 :: t, st => match s.writeStep id w i3 (vals i3) st with
    | .error c => .error c
    | .ok (s', st') => s'.writeSteps id w vals t st'

/-- What an operation counted goes to its statistics record, or to DGA_SAT and DGA_NAN of its die (R157, R158). -/
def State.countStat (s : State) (id die rec' : Nat) (st : Stat) : Except Nat State :=
  if rec' = 0 then .ok ((s.bump .DGA_SAT_COUNT st.sat die).bump .DGA_NAN_COUNT st.nan die)
  else match s.job id with
    | none => .ok s
    | some j => s.jobWrite id rec' 32 (statRecord (s.jobLoad j (jobKey j rec') 32) st)

/-- The tracker of a SCALED destination is refused (R145), for a step with `behind` earlier ones still in the pipeline. -/
def State.trackerRefused (s : State) (j : Job) (w behind : Nat) (hem : Bool) : Bool :=
  let t := s.trackerOf j (tdTracker w)
  tdScaled w && trkRefused t (trkLag t - behind) (tdFmt w) hem

end Sys2Proof.Machine
end

