-- ==== Sys2Proof/Machine/Task.lean ====
section
/-!
DEFINITION. Machine/Task.lean: how a task issues an instruction, reads and writes its state, waits, and takes tickets (R193,
R202 to R205, R210 to R213, R228, R234, R235).
-/

namespace Sys2Proof.Machine

/-! ## Issue -/

/-- An instruction being issued: job, task, word, extension word, and the word index that follows it. -/
structure Ctx where
  job : Job
  task : Task
  w : Nat
  ext : Nat
  next : Nat
  /-- What the memories give to its accesses. -/
  found : Found := Found.none
  deriving DecidableEq, Repr

/-- The instruction that starts at a word of a program. -/
def insnAt (code : List Nat) (pc : Nat) : Option (Nat × Nat × Nat) :=
  match ((insnStarts 0 code).getD []).find? (fun e => e.1 == pc) with
  | some e => some (e.2.1, e.2.2, pc + (if iX e.2.1 then 2 else 1))
  | none => none

/-- A word index starts an instruction (R210). -/
def isStart (code : List Nat) (pc : Nat) : Bool := (insnAt code pc).isSome

/-- The code of the job's program. -/
def State.codeFor (s : State) (j : Job) : List Nat := ((s.prog j.handle).map (·.code)).getD []

/-- The guard selects the instruction not to run (R204). -/
def guardOff (t : Task) (w : Nat) : Bool := t.pr (iGp w) == iGn w

/-- The wait of a task is not inside an instruction with an effect still to come (R220 step 1). -/
def TWait.stops : TWait → Bool
  | .feed _ _ _ => false
  | .fence => false
  | .halted => false
  | _ => true

/-- The context in which a task may issue: its job runs, it waits for nothing, and an instruction stands at its PC. In the cycle of a
CPOST the tasks that it stops still run their instruction of that cycle (R261), and while the job commits a task finishes the FENCE or
SIGNAL that it had begun (R220). -/
def State.ctx (s : State) (r : TaskRef) : Option Ctx :=
  match s.job r.job with
  | none => none
  | some j => match j.task r.task with
    | none => none
    | some t =>
      let last := j.st == .committing && j.cpostAt.any (fun x => x.2.1 == s.dt && x.2.2.contains t.num)
      if (((j.st ≠ .running ∧ j.st ≠ .committing) ∨ t.wait ≠ .run) ∧ last = false) ∨ s.paused 0 t.die = true then none
      else match insnAt (s.codeFor j) t.pc with
        | none => none
        | some (w, e, n) => some ⟨j, { t with wait := .run }, w, e, n, r.found⟩

/-- Change the issuing task. -/
def State.upd (s : State) (c : Ctx) (f : Task → Task) : State := s.updTask c.job.id c.task.num f

/-- The instruction retires: the task changes and its PC moves on. -/
def State.retire (s : State) (c : Ctx) (f : Task → Task) : State :=
  s.upd c (fun t => { f t with pc := c.next % 2 ^ 17, progress := s.now })

/-- The instruction retires with another PC (17 bits, R193). -/
def State.jump (s : State) (c : Ctx) (pc : Nat) (f : Task → Task) : State :=
  s.upd c (fun t => { f t with pc := pc % 2 ^ 17, progress := s.now })

/-- A trap at the instruction (R223). -/
def State.trapAt (s : State) (c : Ctx) (cause : Nat) : State := s.trap c.job.id c.task.num cause 0

/-- A read by an instruction, once its address has passed the checks that `chk` gives: it waits while its channel retrains (R382, R383);
the trap of a refused bank access is counted (R367); an error that the read meets traps (R372, R381, R387). -/
def State.reading (s : State) (c : Ctx) (a n : Nat) (chk : Option Nat) (f : State → State) : State :=
  match chk with
  | some x => (s.countDenied c.job a n).trapAt c x
  | none =>
    if s.retrains a n then s
    else
      let r := s.jobRead c.job c.found a n
      match r.1 with
      | some x => r.2.trapAt c x
      | none => f r.2

/-- A task of a job that commits has run its last instruction: it has reached its boundary (R220 step 1), unless it still waits inside the
instruction. -/
def State.stopAgain (s : State) (c : Ctx) : State :=
  match s.job c.job.id with
  | none => s
  | some j =>
    if j.st ≠ .committing then s
    else
      let s := s.updJob j.id (fun j => { j with cpostAt := j.cpostAt.map (fun x => (x.1, x.2.1, x.2.2.filter (fun k => k != c.task.num))) })
      match j.task c.task.num with
      | some t => if t.wait.stops then s.setWait j.id t .halted else s
      | none => s

/-- The shape of every instruction row: the task's instruction must be one of the row's; SEQ_PC shows it; a guard that
selects it not to run skips it (R204). -/
def State.issue (s : State) (r : TaskRef) (row : Nat → Bool) (f : State → Ctx → State) : State :=
  match s.ctx r with
  | none => s
  | some c =>
    if !row c.w then s
    else
      let s := s.wr .SEQ_PC_PC c.task.pc c.task.die c.task.seq
      let s := if guardOff c.task c.w then s.retire c id else f s c
      if c.job.st = .committing then s.stopAgain c else s

/-! ## Tickets (R212, R213, R228, R234, R235) -/

/-- The task may not have a 65th operation outstanding (R212). -/
def Task.full (t : Task) : Bool := decide (t.opened.length ≥ 64)

/-- The next ticket is issued: it goes to register `d`, and the instruction retires. -/
def State.issueTicket (s : State) (c : Ctx) (d : Nat) (fabric : Bool) : State :=
  let n := c.task.last + 1
  s.retire c (fun t => { t.setG d n with
    last := n, opened := t.opened ++ [n], fabric := if fabric then t.fabric ++ [n] else t.fabric })

/-- An asynchronous operation starts: copies of its descriptors and registers are kept (R199), and its ticket is issued. A
65th outstanding operation waits at issue (R212). -/
def State.launch (s : State) (c : Ctx) (unit : OpUnit) (left d : Nat) : State :=
  if c.task.full then s
  else
    let k := s.nextIssue
    let s := k.2
    let o : Op := { job := c.job.id, task := c.task.num, ticket := c.task.last + 1, unit := unit, die := c.task.die, cls := c.job.cls,
                    deadline := rankDeadline c.job.deadline, issue := k.1, left := left, running := false, word := c.w,
                    ext := c.ext, ta := (c.task.tr (iTa c.w)).val, tb := (c.task.tr (iTb c.w)).val,
                    td := (c.task.tr (iTd c.w)).val, ga := c.task.gr (iGa c.w), gb := c.task.gr (iGb c.w), late := false }
    let s : State := { s with ops := s.ops ++ [o] }
    s.issueTicket c d false

end Sys2Proof.Machine
end

