-- ==== Sys2Proof/Machine/Array.lean ====
section
/-!
DEFINITION. Machine/Array.lean: the digital array (R253 to R257, R265 to R278) and the movement instructions (R244, R245,
R247): their checks at issue, their results, and the commands of the DGA block.
-/

namespace Sys2Proof.Machine

/-! ## Operand classes and rates (R265, R266, R257) -/

/-- Classes of matrix operands. -/
inductive MClass where
  | i4 | i8 | f4 | f8 | f16 | f32
  deriving DecidableEq, Repr

/-- Class of a descriptor as a matrix operand; none for a format that is not one (R265). -/
def mClass (w : Nat) : Option MClass :=
  let f := tdFmt w
  if f = fS4 ∨ f = fU4 then some (if tdAsym w then .i8 else .i4)
  else if f = fS8 ∨ f = fU8 then some .i8
  else if f = fE2M1 then some .f4
  else if f = fE3M2 ∨ f = fE4M3 ∨ f = fE5M2 then some .f8
  else if f = fBF16 ∨ f = fFP16 then some .f16
  else if f = fFP32 ∨ f = fS16 then some .f32
  else none

def MClass.isInt : MClass → Bool
  | .i4 => true
  | .i8 => true
  | _ => false

def MClass.isNarrow : MClass → Bool
  | .f4 => true
  | .f8 => true
  | _ => false

/-- MACs per cycle of a pair of classes (R265, R266). -/
def macRate (a b : MClass) : Nat :=
  if a = .f32 ∨ b = .f32 then 8192
  else if a.isInt && b.isInt then (if a = .i4 ∧ b = .i4 then 131072 else 65536)
  else if a.isNarrow && b.isNarrow then (if a = .f4 ∧ b = .f4 then 131072 else 65536)
  else 32768

/-- Elements of a tensor. -/
def tdElems (w : Nat) : Nat := tdD w 0 * tdD w 1 * tdD w 2 * tdD w 3

/-- Index along a dimension of size d, where size 1 is broadcast. -/
def bcast (d i : Nat) : Nat := if d = 1 then 0 else i

/-- Cycles of an elementwise operation with a number of slots per element (R267). -/
def slotCycles (elems slots : Nat) : Nat := max 1 (cdiv (elems * slots) 2048)

/-! ## Checks at issue (R247, R253 to R256, R267) -/

/-- Formats 1–13 (S32 is number 6). -/
def valueFmt (f : Nat) : Bool := decide (1 ≤ f ∧ f ≤ 13)

/-- A SCALED destination: TRACKED, in a format of R145. -/
def scaledDest (w : Nat) : Bool := tdTracked w && (qMax (tdFmt w)).isSome

/-- Destinations of R267. -/
def arrayDest (w : Nat) : Bool :=
  if tdScaled w then scaledDest w
  else tdFmt w == fBF16 || tdFmt w == fFP16 || tdFmt w == fFP32 || tdFmt w == fS32

/-- Destinations of MM and MMT, which convert as MOVT does: a SCALED one has a tracker (R244, R253). -/
def mmDest (w : Nat) : Bool := !tdScaled w || scaledDest w

def sameDims (a b : Nat) : Bool := (List.range 4).all (fun k => tdD a k == tdD b k)

/-- Sizes from dimension k on agree. -/
def sameFrom (k a b : Nat) : Bool := (List.range (4 - k)).all (fun i => tdD a (k + i) == tdD b (k + i))

/-- Each size of b is that of a, or 1. -/
def bcastDims (a b : Nat) : Bool := (List.range 4).all (fun k => tdD b k == tdD a k || tdD b k == 1)

/-- Shape and format rules of MM, MMT, MMA and MMAT (R253, R265). -/
def mmShape (word ta tb td : Nat) : Bool :=
  let t := iSub word == 1
  let kb := if t then tdD tb 0 else tdD tb 1
  let n := if t then tdD tb 1 else tdD tb 0
  (mClass ta).isSome && (mClass tb).isSome && tdD ta 0 == kb && tdD td 1 == tdD ta 1 && tdD td 0 == n
    && [2, 3].all (fun k => (tdD ta k == tdD td k || tdD ta k == 1) && (tdD tb k == tdD td k || tdD tb k == 1))

/-- The shape and format rules of an array or movement instruction by OP. Rows 0 to tTB.D0 - 1 of the tensor that is not indexed take
part in a GATHER or SCATTER (R245). -/
def opShape (word ta tb td : Nat) : Bool :=
  let op := iOp word
  if op = 0x30 then mmShape word ta tb td && valueFmt (tdFmt ta) && valueFmt (tdFmt tb) && mmDest td
  else if op = 0x31 then mmShape word ta tb td && valueFmt (tdFmt ta) && valueFmt (tdFmt tb) && !tdScaled td
    && (tdFmt td == fS32 || tdFmt td == fFP32)
  else if op = 0x32 then
    valueFmt (tdFmt ta) && arrayDest td && sameDims ta td && (decide (iSub word ≥ 5) || (valueFmt (tdFmt tb) && bcastDims ta tb))
  else if op = 0x33 then valueFmt (tdFmt ta) && arrayDest td && tdD td 0 == 1 && sameFrom 1 ta td
  else if op = 0x34 then valueFmt (tdFmt ta) && arrayDest td && sameDims ta td
  else if op = 0x35 then
    valueFmt (tdFmt ta) && valueFmt (tdFmt tb) && arrayDest td && sameDims ta td && tdD tb 0 == tdD ta 0
      && tdD tb 1 == (if iSub word = 0 then 2 else 1) && tdD tb 2 == 1 && tdD tb 3 == 1
  else if op = 0x36 then
    (tdFmt ta == fBF16 || tdFmt ta == fFP16 || tdFmt ta == fFP32) && tdScaled td && scaledDest td && sameDims ta td
  else if op = 0x37 then
    valueFmt (tdFmt ta) && (tdScaled ta || tdAsym ta) && !tdScaled td
      && (tdFmt td == fBF16 || tdFmt td == fFP16 || tdFmt td == fFP32) && sameDims ta td
  else if op = 0x22 then
    sameDims ta td
  else
    tdFmt tb == fS32 && tdFmt ta == tdFmt td && tdD ta 0 == tdD td 0 && [ta, tb, td].all (fun w => tdD w 2 == 1 && tdD w 3 == 1)
      && decide (tdD tb 0 ≤ tdD (if op = 0x23 then td else ta) 1)

/-- Whether an operation names tTB. -/
def usesTb (word : Nat) : Bool :=
  let op := iOp word
  op == 0x30 || op == 0x31 || (op == 0x32 && decide (iSub word < 5)) || op == 0x35 || op == 0x23 || op == 0x24

/-- The statistics record of an operation: gGA, where its entry names one; 0: none (R244, R253 to R256). -/
def statOf (word ga : Nat) : Nat :=
  let op := iOp word
  if op = 0x22 ∨ op = 0x30 ∨ op = 0x31 ∨ op = 0x36 ∨ op = 0x2B then ga
  else if op = 0x32 ∧ iSub word ≠ 5 ∧ iSub word ≠ 6 then ga
  else 0

/-- MOVT copies bit for bit: the formats are the same and neither descriptor converts, that is, both are SCALED with one
kind of entry or neither is, neither is ASYM, and the destination derives no scale of its own (R244). -/
def movtCopies (ta td : Nat) : Bool :=
  tdFmt ta == tdFmt td && tdScaled ta == tdScaled td && !tdAsym ta && !tdAsym td
    && (!tdScaled td || (tdSue8 ta == tdSue8 td && !tdTracked td))

/-- A converting MOVT into a SCALED tensor needs a tracker (R244). -/
def movtDest (ta td : Nat) : Bool := movtCopies ta td || !tdScaled td || scaledDest td

/-- The trap of an array or movement instruction at issue: none where it may start. -/
def State.opTrap (s : State) (c : Ctx) : Option Nat :=
  let ta := c.task.tr (iTa c.w)
  let tb := c.task.tr (iTb c.w)
  let td := c.task.tr (iTd c.w)
  let rec' := statOf c.w (c.task.gr (iGa c.w))
  if !(s.tdOk c.job ta) || !(s.tdOk c.job td) || (usesTb c.w && !(s.tdOk c.job tb)) then some cDescriptor
  else if !(opShape c.w ta.val tb.val td.val) then some cDescriptor
  else if iOp c.w = 0x22 ∧ !(movtDest ta.val td.val) then some cDescriptor
  else match s.tdAccess c.job ta.val false with
    | some x => some x
    | none => match (if usesTb c.w then s.tdAccess c.job tb.val false else none) with
      | some x => some x
      | none => match s.tdAccess c.job td.val true with
        | some x => some x
        | none => if rec' = 0 then none else s.scalarCheck c.job rec' 32 true

/-- Array cycles of an operation (R257, R267). -/
def opCycles (word ta tb td : Nat) : Nat :=
  let op := iOp word
  if op = 0x30 ∨ op = 0x31 then
    match mClass ta, mClass tb with
    | some a, some b => max 1 (cdiv (tdElems td * tdD ta 0) (macRate a b))
    | _, _ => 1
  else if op = 0x32 then slotCycles (tdElems td) (if 8 ≤ iSub word ∧ iSub word ≤ 13 then 4 else 1)
  else if op = 0x34 then slotCycles (tdElems td) 3
  else if op = 0x35 then slotCycles (tdElems td) (if iSub word = 0 then 3 else 2)
  else slotCycles (tdElems ta) 1

/-- A device address stands in a Gusset region. -/
def State.inGusset (s : State) (a : Nat) : Bool :=
  decide (devRegion a = 1) && s.panels.any (fun p => p.die == devDie a && decide (p.first * 4096 ≤ devOff a) &&
    decide (devOff a < (p.first + p.count) * 4096))

/-- Bytes of n rows of a tensor, and of its scale stream, that an operation reads from a Gusset region (R277). -/
def State.gussetRows (s : State) (w n : Nat) : Nat :=
  (if s.inGusset (tdSpan w).1.toNat then n * tdRunBytes w else 0)
    + (if tdScaled w && s.inGusset (tdScale w) then tdSlen w * tdEntry w else 0)

/-- Bytes of an operand that is read whole. -/
def State.gussetBytes (s : State) (w : Nat) : Nat := s.gussetRows w (tdRows w).length

/-- Bytes that an operation reads from Gusset regions (R277): MOVT, GATHER, which reads the rows that its indices name, and the matrix
products. -/
def State.opGusset (s : State) (word ta tb : Nat) : Nat :=
  let op := iOp word
  if op = 0x30 ∨ op = 0x31 then s.gussetBytes ta + s.gussetBytes tb
  else if op = 0x22 then s.gussetBytes ta
  else if op = 0x23 then s.gussetRows ta (tdD tb 0) + s.gussetBytes tb
  else 0

/-- An array or movement instruction (R228, R247, R272, R277): it traps, or its operation starts. -/
def State.startOp (s : State) (c : Ctx) (unit : OpUnit) (left : Nat) : State :=
  match s.opTrap c with
  | some x => s.tensorTrap c.job c.task.num x
      (([c.task.tr (iTa c.w), c.task.tr (iTd c.w)] ++ (if usesTb c.w then [c.task.tr (iTb c.w)] else [])).map (·.val))
  | none =>
    let ta := (c.task.tr (iTa c.w)).val
    let tb := (c.task.tr (iTb c.w)).val
    let s := if s.opGusset c.w ta tb ≠ 0 ∧ !c.task.full then s.addJobFlag c.job.id flGusset else s
    s.launch c unit left (iGb c.w)

/-! ## Results -/

/-- Element values of a step in order: i0 fastest, then i1, then i2. -/
def stepVals (w : Nat) (f : Nat → Nat → Nat → Val) : List Val :=
  (List.range (tdD w 2)).flatMap (fun i2 => (List.range (tdD w 1)).flatMap (fun i1 =>
    (List.range (tdD w 0)).map (fun i0 => f i0 i1 i2)))

/-- The sum of a chunk of products, exact, rounded once to FP32 (R269). -/
def chunkSum (l : List (Val × Val)) : Val := round32 (l.foldl (fun a p => a.add (p.1.mul p.2)) (.fin false 0))

/-- Chunk sums of 32 products added to an FP32 accumulator in increasing order of K (R269). -/
def dotF (n : Nat) (l : List (Val × Val)) : Val :=
  (List.range (cdiv n 32)).foldl (fun a k => fadd a (chunkSum ((l.drop (32 * k)).take 32))) (.fin false 0)

/-- Element (n, m) of a product, before its conversion into tTD's format (R253, R268, R269). -/
def State.mmVal (s : State) (j : Job) (word ta tb td n m i2 i3 : Nat) : Val :=
  let a2 := bcast (tdD ta 2) i2
  let a3 := bcast (tdD ta 3) i3
  let b2 := bcast (tdD tb 2) i2
  let b3 := bcast (tdD tb 3) i3
  let pairs := (List.range (tdD ta 0)).map (fun k =>
    (s.tdOperand j ta k m a2 a3, if iSub word = 1 then s.tdOperand j tb k n b2 b3 else s.tdOperand j tb n k b2 b3))
  let sa : Val := .fin false (s.tdOpScale j ta a3)
  let sb : Val := .fin false (s.tdOpScale j tb b3)
  let addD := iOp word == 0x31
  let d := s.tdVal j td n m i2 i3
  match mClass ta, mClass tb with
  | some ca, some cb =>
    if ca.isInt && cb.isInt then
      let acc := pairs.foldl (fun (a : Rat) p => a + p.1.rat * p.2.rat) 0
      let v := (Val.ofRat acc).mul (fmul sa sb)
      if addD then v.add d else v
    else
      let v := fmul (fmul (dotF (tdD ta 0) pairs) sa) sb
      if addD then fadd v d else v
  | _, _ => .nan

/-- max and min in FP32 (R254). -/
def pick2 (a b : Val) (mx : Bool) : Val :=
  if a = .nan ∨ b = .nan then f32Val (Config.fpMaxNan (f32Code a) (f32Code b))
  else if a.lt b then (if mx then b else a) else (if mx then a else b)

/-- EW (R254): operands are FP32 values. -/
def ewVal (sub : Nat) (a b sc : Val) : Val :=
  match sub with
  | 0 => fadd a b
  | 1 => fsub a b
  | 2 => fmul a b
  | 3 => pick2 a b true
  | 4 => pick2 a b false
  | 5 => fadd a sc
  | 6 => fmul a sc
  | 7 => pick2 a (.fin false 0) true
  | 12 => fdiv (.fin false 1) a
  | 14 => a
  | k => fpUnary k a

/-- A row of tTA in FP32. -/
def State.rowVals (s : State) (j : Job) (ta i1 i2 i3 : Nat) : List Val :=
  (List.range (tdD ta 0)).map (fun i => round32 (s.tdVal j ta i i1 i2 i3))

/-- Every order of adding the values in FP32 gives their exact sum: they are finite, not all of them are -0, and their
magnitudes add up to at most 2^24 of a unit that divides all of them, within the range of FP32. -/
def orderFree (l : List Val) : Bool :=
  let den := l.foldl (fun q v => max q v.mag.den) 1
  let ints := l.map (fun v => (v.mag * (den : Rat)).num.toNat)
  let g := ints.foldl Nat.gcd 0
  let unit := g &&& (2 ^ g.log2 * 2 - g)
  l.all Val.isFin && l.any (fun v => v != .fin true 0) && decide (ints.sum ≤ 2 ^ 24 * unit)
    && decide (l.foldl (fun x v => x + v.mag) 0 < pow2 128 - pow2 103)

/-- The sum of values in an order, and with roundings, that are free (log entry 21): each step adds two of the sums that are left. -/
def sumFree (step : Nat → Nat × Nat × Bool) : Nat → List Val → Val
  | 0, l => round32 (l.headD (.fin false 0))
  | n + 1, l =>
    let x := step l.length
    let i := x.1 % l.length
    let m := l.eraseIdx i
    let j := x.2.1 % m.length
    if m.isEmpty then sumFree step n l
    else
      let sum := (l.getD i .nan).add (m.getD j .nan)
      sumFree step n ((if x.2.2 then round32 sum else sum) :: m.eraseIdx j)

/-- Sum of a row: exact where no order of the additions could change it; otherwise their order and roundings are free (log entry 21). -/
def rowSum (l : List Val) : Val :=
  if orderFree l then .ofRat ((l.map Val.rat).foldl (· + ·) 0)
  else sumFree (Config.sumStep (l.map f32Code)) l.length l

/-- Sum of the squares of a row (log entry 21). -/
def rowSumSq (l : List Val) : Val := rowSum (l.map (fun v => if Config.squareRounds (f32Code v) then fmul v v else v.mul v))

/-- RED (R255). -/
def redVal (sub : Nat) (row : List Val) : Val :=
  match sub, row with
  | 1, a :: t => t.foldl (fun x y => pick2 x y true) a
  | 2, a :: t => t.foldl (fun x y => pick2 x y false) a
  | 4, a :: t => (t.map (fun v => match v with | .fin _ m => Val.fin false m | .inf _ => .inf false | .nan => .nan)).foldl
      (fun x y => pick2 x y true) (match a with | .fin _ m => .fin false m | .inf _ => .inf false | .nan => .nan)
  | 3, l => rowSumSq l
  | _, l => rowSum l

/-- SMAX (R255): the elements of a row that are not masked are its first `n`. In FP32: the difference from the row maximum, its
exponential, and the quotient by the sum of the exponentials (log entry 21). -/
def smaxVals (n : Nat) (row : List Val) : List Val :=
  let live := row.take n
  match live with
  | [] => row.map (fun _ => .fin false 0)
  | a :: t =>
    let mx := t.foldl (fun x y => pick2 x y true) a
    let es := live.map (fun v => fexp (fsub v mx))
    let sum := rowSum es
    (es.map (fun e => fdiv e sum)) ++ List.replicate (row.length - es.length) (.fin false 0)

/-- A row normalised by NORM.LAYER or NORM.RMS, before tTB (R255). In FP32: the mean, the differences from it, the mean of their
squares, and the quotient by the root of that mean and ε (log entry 21). -/
def normVals (rms : Bool) (eps : Val) (row : List Val) : List Val :=
  let n : Val := round32 (.fin false (row.length : Rat))
  let mean := fdiv (rowSum row) n
  let ds := if rms then row else row.map (fun v => fsub v mean)
  let root := fsqrt (fadd (fdiv (rowSumSq ds) n) eps)
  ds.map (fun v => fdiv v root)

/-- Unmasked elements of row i1 (CAUSAL): those with i0 ≤ gGA + i1, gGA signed. -/
def smaxLive (word ga d0 i1 : Nat) : Nat :=
  if iImm20 word % 2 = 0 then d0 else (min (d0 : Int) (max 0 (sext 64 ga + i1 + 1))).toNat

/-- The real-valued result of an operation at step i3 (R254 to R256), in the order of `stepVals`. -/
def State.opVals (s : State) (j : Job) (o : Op) (i3 : Nat) : List Val :=
  let ta := o.ta
  let tb := o.tb
  let td := o.td
  let op := iOp o.word
  if op = 0x30 ∨ op = 0x31 then stepVals td (fun i0 i1 i2 => s.mmVal j o.word ta tb td i0 i1 i2 i3)
  else if op = 0x32 then
    stepVals td (fun i0 i1 i2 => ewVal (iSub o.word) (round32 (s.tdVal j ta i0 i1 i2 i3))
      (if iSub o.word < 5 then round32 (s.tdVal j tb (bcast (tdD tb 0) i0) (bcast (tdD tb 1) i1) (bcast (tdD tb 2) i2)
        (bcast (tdD tb 3) i3)) else .nan) (f32Val (o.ga % 2 ^ 32)))
  else if op = 0x33 then stepVals td (fun _ i1 i2 => redVal (iSub o.word) (s.rowVals j ta i1 i2 i3))
  else if op = 0x34 then
    (List.range (tdD td 2)).flatMap (fun i2 => (List.range (tdD td 1)).flatMap (fun i1 =>
      smaxVals (smaxLive o.word o.ga (tdD ta 0) i1) (s.rowVals j ta i1 i2 i3)))
  else if op = 0x35 then
    let rms := iSub o.word == 1
    stepVals td (fun i0 i1 i2 =>
      let v := (normVals rms (f32Val (o.ga % 2 ^ 32)) (s.rowVals j ta i1 i2 i3)).getD i0 .nan
      let v := fmul v (round32 (s.tdVal j tb i0 0 0 0))
      if rms then v else fadd v (round32 (s.tdVal j tb i0 1 0 0)))
  else stepVals td (fun i0 i1 i2 => s.tdVal j ta i0 i1 i2 i3)

/-- Two tensors are one and the same (R257). -/
def sameTensor (a b : Nat) : Bool :=
  tdBase a == tdBase b && sameDims a b && tdFmt a == tdFmt b && [1, 2, 3].all (fun k => tdS a k == tdS b k)

/-- Two tensors share a byte of an element: a run of one meets a run of the other. -/
def overlaps (a b : Nat) : Bool :=
  decide ((tdSpan a).1 < (tdSpan b).2 ∧ (tdSpan b).1 < (tdSpan a).2) && (tdRows a).any (fun x => (tdRows b).any (fun y =>
    decide (tdRow a x.1 x.2.1 x.2.2 < tdRow b y.1 y.2.1 y.2.2 + tdRunBytes b ∧
      tdRow b y.1 y.2.1 y.2.2 < tdRow a x.1 x.2.1 x.2.2 + tdRunBytes a)))

/-- The output data of an operation is undefined (R257): tTD overlaps an input and is not the same tensor as tTA. -/
def opUndefined (word ta tb td : Nat) : Bool :=
  (overlaps td ta && !sameTensor td ta)
    || (usesTb word && overlaps td tb && !(sameTensor td ta && sameTensor tb ta))

/-- Step values, or free values where the output data is undefined (R257, log entry 6). -/
def State.stepOf (s : State) (o : Op) (vals : Nat → List Val) (i3 : Nat) : List Val :=
  if opUndefined o.word o.ta o.tb o.td then
    let n := tdD o.td 0 * tdD o.td 1 * tdD o.td 2
    (List.range n).map (fun k => f32Val (Config.freeValue (s.free + i3 * n + k)))
  else vals i3

/-- Tensors that an operation reads. -/
def Op.ins (o : Op) : List Nat := o.ta :: (if usesTb o.word then [o.tb] else []) ++ (if iOp o.word = 0x31 then [o.td] else [])

/-- What the accesses of an operation meet (R371, R372, R376, R381, R387): the operation is over where a read of host memory has
failed. -/
def State.opReads (s : State) (o : Op) (x : Found) : Bool × State :=
  let r := s.reads x (o.ins.flatMap tdRanges)
  (r.1, if r.1 then r.2.faultJob o.job cAddress else r.2)

/-- A channel that the operation reads retrains (R382, R383). -/
def State.opRetrains (s : State) (o : Op) : Bool := o.ins.any (fun w => (tdRanges w).any (fun r => s.retrains r.1 r.2))

/-- Faults of an operation's inputs: an uncorrectable error, or a scale fault (R150, R275); with a zero point outside its format the
operation completes with MALFORMED (R156). -/
def State.inputFault (s : State) (j : Job) (o : Op) : Option Nat :=
  let ins := o.ins
  if ins.any (fun w => tdAsym w && (tdZero w).isNone) then some cMalformed
  else if ins.any (fun w => s.tdPoisoned j w) then some cMemoryEcc
  else if ins.any (fun w => s.scaleFault j w) then some cScale
  else if tdScaled o.td && decide (tdSlen o.td ≠ tdD o.td 3) then some cScale
  else if ins.any (fun w => (s.tdAccess j w false).isSome) || (s.tdAccess j o.td true).isSome then some cAddress
  else none

/-- The whole result of an array operation or a converting MOVT: memory, scales, trackers, statistics; or the cause of its
fault (R143 to R149, R157). The values are given by step. -/
def State.resultOf (s : State) (o : Op) (vals : Job → Nat → List Val) : Except Nat State :=
  match s.job o.job with
  | none => .ok s
  | some j =>
    match s.inputFault j o with
    | some x => .error x
    | none =>
      let st : Stat := ⟨[], s.tdAsymSat j o.ta + (if usesTb o.word then s.tdAsymSat j o.tb else 0), 0⟩
      match s.writeSteps o.job o.td (fun i3 => s.stepOf o (vals j) i3) (List.range (tdD o.td 3)) st with
      | .error x => .error x
      | .ok (s', st') =>
        let s' : State := if opUndefined o.word o.ta o.tb o.td then { s' with free := s'.free + tdElems o.td } else s'
        s'.countStat o.job o.die (statOf o.word o.ga) st'

/-- The result of an array instruction or a converting MOVT. -/
def State.opResult (s : State) (o : Op) : Except Nat State := s.resultOf o (fun j i3 => s.opVals j o i3)

/-- The operation ends because the tracker of its destination is refused (R145): its zero points are in order. -/
def State.refusedTracker (s : State) (o : Op) : Bool :=
  tdScaled o.td && tdTracked o.td && (s.job o.job).isSome && o.ins.all (fun w => !tdAsym w || (tdZero w).isSome)

/-- A fault of an operation with cause ADDRESS counts its refused bank accesses (R367). -/
def State.opFault (s : State) (o : Op) (cause : Nat) : State :=
  let s := match s.job o.job with
    | some j => if cause = cAddress then s.countDeniedTds j (o.td :: o.ins) else s
    | none => s
  s.faultJob o.job cause

/-- A fault detected in an operation is a fault of its job (R223). One that completes with MALFORMED has no effect but that the job keeps
the copy of the tracker that it has read (R148), and its ticket returns 0 (R145, R156, R234; log entry 96). -/
def State.finishOp (s : State) (o : Op) (r : Except Nat State) : State :=
  match r with
  | .error x =>
    if x = cMalformed then (if s.refusedTracker o then s.keepTracker o.job (tdTracker o.td) else s).opDone o 0 else s.opFault o x
  | .ok s' => s'.opDone o 0

/-! ## Movement without conversion (R244, R245) -/

/-- A write that copies bytes: (destination address, bytes, value). -/
def State.copyRun (s : State) (j : Job) (src dst n : Nat) : Nat × Nat × Nat := (dst, n, s.jobLoad j (jobKey j src) n)

/-- A write that copies a row of one tensor to one of another of the same format: code by code, so that what R134 keeps 0 is written
0. -/
def State.copyRow (s : State) (j : Job) (ta td : Nat) (a d : Nat × Nat × Nat) : Nat × Nat × Nat :=
  let x := s.tdRunNum j ta a.1 a.2.1 a.2.2
  (tdRow td d.1 d.2.1 d.2.2, tdRunBytes td, packRun (tdFmt td) ((List.range (tdD ta 0)).map (runCode (tdFmt ta) x)))

/-- A bit-for-bit MOVT: the runs, and the scale entries where both are SCALED. -/
def State.movtWrites (s : State) (j : Job) (ta td : Nat) : List (Nat × Nat × Nat) :=
  (tdRows td).map (fun r => s.copyRow j ta td r r)
  ++ (if tdScaled td then (List.range (tdD td 3)).map (fun n =>
        s.copyRun j (tdScale ta + n * tdEntry ta) (tdScale td + n * tdEntry td) (tdEntry td)) else [])

/-- Index i of tTB, as a signed number. -/
def State.rowIndex (s : State) (j : Job) (tb i : Nat) : Int := sext 32 (s.tdCode j tb i 0 0 0)

/-- GATHER and SCATTER: the row copies in order of i (R245). -/
def State.gatherWrites (s : State) (j : Job) (o : Op) : List (Nat × Nat × Nat) :=
  (List.range (tdD o.tb 0)).map (fun i =>
    let k := (s.rowIndex j o.tb i).toNat
    if iOp o.word = 0x23 then s.copyRow j o.ta o.td (k, 0, 0) (i, 0, 0) else s.copyRow j o.ta o.td (i, 0, 0) (k, 0, 0))

/-- An index is negative, or not below the row count of the indexed tensor (R245). -/
def State.badIndex (s : State) (j : Job) (o : Op) : Bool :=
  let rows := tdD (if iOp o.word = 0x23 then o.ta else o.td) 1
  (List.range (tdD o.tb 0)).any (fun i => decide (s.rowIndex j o.tb i < 0 ∨ (rows : Int) ≤ s.rowIndex j o.tb i))

/-- The writes of a copy whose tensors overlap carry free values: the spec orders nothing within the copy (log entry 6). -/
def freeWrites (n : Nat) (l : List (Nat × Nat × Nat)) : List (Nat × Nat × Nat) :=
  l.zipIdx.map (fun e => (e.1.1, e.1.2.1, Config.freeValue (n + e.2)))

/-- The writes of a copy, or free values where it overlaps itself. -/
def State.copyWrites (s : State) (o : Op) (l : List (Nat × Nat × Nat)) : Except Nat State :=
  if opUndefined o.word o.ta o.tb o.td then { s with free := s.free + l.length }.jobWrites o.job (freeWrites s.free l)
  else s.jobWrites o.job l

/-- A movement that converts nothing. A scale stream that does not end with its data is a scale fault (R150, R198); its entries are moved
as they stand, and their values are not judged (DESIGN CHOICE, log entry 142). -/
def State.moveResult (s : State) (o : Op) : Except Nat State :=
  match s.job o.job with
  | none => .ok s
  | some j =>
    if o.ins.any (fun w => s.tdPoisoned j w) then .error cMemoryEcc
    else if o.ins.any (fun w => (s.tdAccess j w false).isSome) || (s.tdAccess j o.td true).isSome then .error cAddress
    else if (o.td :: o.ins).any (fun w => tdScaled w && decide (tdSlen w ≠ tdD w 3)) then .error cScale
    else if iOp o.word = 0x22 then s.copyWrites o (s.movtWrites j o.ta o.td)
    else if s.badIndex j o then .error cAddress
    else s.copyWrites o (s.gatherWrites j o)

/-- The operation converts on the array (R244, R272). -/
def Op.converts (o : Op) : Bool := iOp o.word == 0x22 && !movtCopies o.ta o.td

/-- Order of choice: class, deadline, issue (R272). -/
def Op.before (a b : Op) : Bool :=
  decide (a.cls < b.cls) || (a.cls == b.cls && (decide (a.deadline < b.deadline) ||
    (a.deadline == b.deadline && decide (a.issue < b.issue))))

def bestOp (l : List Op) : Option Op :=
  l.foldl (fun m o => match m with | none => some o | some p => if o.before p then some o else some p) none

/-- The last descriptor of a DMA operation is done (R247, R272, R277, R378): a copy completes; a converting MOVT joins the
array's task queue, unless its scale stream is at fault. -/
def State.dmaDone (s : State) (o : Op) : State :=
  let s := s.bump .DGA_GUS_BYTES_COUNT (s.opGusset o.word o.ta o.tb) o.die
  if o.converts then
    match s.job o.job with
    | none => s
    | some j =>
      if s.tdPoisoned j o.ta then s.faultJob o.job cMemoryEcc
      else if s.scaleFault j o.ta then s.faultJob o.job cScale
      else { s with ops := s.ops.map (fun k => if k.issue = o.issue then
          { k with unit := .array, running := false, left := opCycles o.word o.ta o.tb o.td } else k) }
  else s.finishOp o (s.moveResult o)

/-! ## DMA engines (R375) -/

/-- Rows of tTA that a DMA operation moves. -/
def dmaRows (word ta tb : Nat) : Nat := if iOp word = 0x22 then (tdRows ta).length else tdD tb 0

/-- Descriptors of the data of a DMA operation: at most 256 KiB each. -/
def dmaDescriptors (word ta tb : Nat) : Nat := max 1 (cdiv (dmaRows word ta tb * tdRunBytes ta) 262144)

/-- The descriptor of the scale stream that goes with data descriptor k: the entries of the steps whose data begins in it (R149, R375;
log entry 143), as (first step, steps). -/
def dmaScale (word ta k : Nat) : Option (Nat × Nat) :=
  if !tdScaled ta || iOp word ≠ 0x22 then none
  else
    let step := tdD ta 1 * tdD ta 2 * tdRunBytes ta
    let l := (List.range (tdD ta 3)).filter (fun n => decide (n * step / 262144 = k))
    l.head?.map (fun n => (n, l.length))

/-- Operations of a die with descriptors that no engine has taken. -/
def State.dmaWaiting (s : State) (d : Nat) : List Op := s.ops.filter (fun o => o.die == d && o.unit == .dma && decide (o.left > 0))

/-- The lowest engine of a die that moves nothing; the spec names no order among them (log entry 12). -/
def State.dmaFree (s : State) (d : Nat) : Option Nat := findLow 8 (fun e => !(s.dmas.any (fun r => r.die == d && r.eng == e)))

/-- Each free engine of a die takes the first descriptor in the order of class, deadline and issue. -/
def State.dmaPump (s : State) (d : Nat) : Nat → State
  | 0 => s
  | fuel + 1 =>
    match s.dmaFree d, bestOp (s.dmaWaiting d) with
    | some e, some o =>
      let k := dmaDescriptors o.word o.ta o.tb - o.left
      ({ s with dmas := s.dmas ++ [{ die := d, eng := e, issue := o.issue, part := k, scale := dmaScale o.word o.ta k, since := s.now }],
                ops := s.ops.map (fun k => if k.issue = o.issue then { k with left := k.left - 1, running := true } else k) } : State).dmaPump d fuel
    | _, _ => s

/-- An engine's descriptor is over: the engine is free. -/
def State.dmaRelease (s : State) (d e : Nat) : State := { s with dmas := s.dmas.filter (fun r => !(r.die == d && r.eng == e)) }

/-- The descriptor of an engine. -/
def State.dmaAt (s : State) (d e : Nat) : Option DmaRun := s.dmas.find? (fun r => r.die == d && r.eng == e)

/-- An engine finishes its descriptor: its operation completes when all its descriptors have, and the engine takes the next. The
operation may have been dropped with its job meanwhile. -/
def State.dmaEnd (s : State) (d e : Nat) (x : Found) : State :=
  match s.dmaAt d e with
  | none => s
  | some r =>
    match s.ops.find? (fun o => o.issue == r.issue && o.unit == .dma) with
    | none => (s.dmaRelease d e).dmaPump d 8
    | some o =>
      if s.opRetrains o then s
      else
        let y := (s.dmaRelease d e).opReads o x
        let s := if y.1 ∨ o.left ≠ 0 ∨ y.2.dmas.any (fun k => k.issue == o.issue) then y.2 else y.2.dmaDone o
        s.dmaPump d 8

/-- MOVT, GATHER and SCATTER start on the DMA engines of the task's die. -/
def State.startDma (s : State) (c : Ctx) : State :=
  (s.startOp c .dma (dmaDescriptors c.w (c.task.tr (iTa c.w)).val (c.task.tr (iTb c.w)).val)).dmaPump c.task.die 8

/-! ## Blocks of the array (R270, R272 to R275, R278) -/

/-- The operations in the queues of a die's array. -/
def State.arrayOps (s : State) (d : Nat) : List Op := s.ops.filter (fun o => o.die == d && (o.unit == .array || o.unit == .add))

/-- MACs of a matrix product. -/
def Op.macs (o : Op) : Nat := if iOp o.word = 0x30 ∨ iOp o.word = 0x31 then tdElems o.td * tdD o.ta 0 else 0

/-- The array starts a block of the operation that stands first among those whose operands are ready, unless it is held. -/
def State.arrayPick (s : State) (d : Nat) (waiting : List Nat) : State :=
  if s.rdb .DGA_CTRL_HOLD d || !s.blockRuns d 1 then s.wr .DGA_STATUS_BUSY 0 d
  else match bestOp ((s.arrayOps d).filter (fun o => !(waiting.contains o.issue))) with
    | none => s.wr .DGA_STATUS_BUSY 0 d
    | some o =>
      let s : State := { s with ops := s.ops.map (fun k => if k.issue = o.issue then { k with running := true } else k) }
      s.wr .DGA_STATUS_BUSY 1 d

/-- The block that runs on a die's array ends: its operation loses its cycles. The operation itself is answered when it has
none left. -/
def State.blockEnd (s : State) (d : Nat) : State × Option Op :=
  match (s.arrayOps d).find? (·.running) with
  | none => (s, none)
  | some o =>
    let n := min 256 o.left
    let s := s.bump .DGA_CYCLES_COUNT n d
    let s : State := { s with ops := s.ops.map (fun k =>
      if k.issue = o.issue then { k with running := false, left := o.left - n } else k) }
    (s, if o.left - n = 0 then some o else none)

/-! ## DGA registers -/

/-- HOLD: an expert write where it changes the value (R14). -/
def State.dgaHold (s : State) (d v : Nat) : State :=
  if d ≥ s.part.dies ∨ v % 2 = s.rd .DGA_CTRL_HOLD d then s else (s.wr .DGA_CTRL_HOLD (v % 2) d).wr .DGA_STATUS_EXPERT 1 d

def dgaCounters : List Field :=
  [.DGA_CYCLES_COUNT, .DGA_MACS_COUNT, .DGA_SAT_COUNT, .DGA_NAN_COUNT, .DGA_OPWAIT_COUNT, .DGA_GUS_STALL_COUNT,
   .DGA_GUS_BYTES_COUNT, .DGA_GUS_LATE_COUNT, .DGA_ADDFULL_COUNT]

def State.dgaClear (s : State) (d : Nat) : State :=
  if d ≥ s.part.dies then s else dgaCounters.foldl (fun s f => s.wr f 0 d) s

def State.dgaHandback (s : State) (d : Nat) : State :=
  if d ≥ s.part.dies then s else (s.wr .DGA_CTRL_HOLD 0 d).wr .DGA_STATUS_EXPERT 0 d

/-! ## Meanings -/

/-- An instruction whose operation the array carries out. -/
def State.arrayInsn (s : State) (t : TaskRef) (row : Nat → Bool) : State := s.issue t row (fun s c => s.startOp c .array
  (opCycles c.w (c.task.tr (iTa c.w)).val (c.task.tr (iTb c.w)).val (c.task.tr (iTd c.w)).val))

def execMovt (t : TaskRef) (s : State) : Res := .next (s.issue t (fun w => iOp w == 0x22) (fun s c => s.startDma c))

def execGather (t : TaskRef) (s : State) : Res := .next (s.issue t (fun w => iOp w == 0x23) (fun s c => s.startDma c))

def execScatter (t : TaskRef) (s : State) : Res := .next (s.issue t (fun w => iOp w == 0x24) (fun s c => s.startDma c))

def execMm (t : TaskRef) (s : State) : Res := .next (s.arrayInsn t (fun w => iOp w == 0x30 && iSub w == 0))

def execMmt (t : TaskRef) (s : State) : Res := .next (s.arrayInsn t (fun w => iOp w == 0x30 && iSub w == 1))

def execMma (t : TaskRef) (s : State) : Res := .next (s.arrayInsn t (fun w => iOp w == 0x31 && iSub w == 0))

def execMmat (t : TaskRef) (s : State) : Res := .next (s.arrayInsn t (fun w => iOp w == 0x31 && iSub w == 1))

def execEw (t : TaskRef) (s : State) : Res := .next (s.arrayInsn t (fun w => iOp w == 0x32))

def execRed (t : TaskRef) (s : State) : Res := .next (s.arrayInsn t (fun w => iOp w == 0x33))

def execSmax (t : TaskRef) (s : State) : Res := .next (s.arrayInsn t (fun w => iOp w == 0x34))

def execNormLayer (t : TaskRef) (s : State) : Res := .next (s.arrayInsn t (fun w => iOp w == 0x35 && iSub w == 0))

def execNormRms (t : TaskRef) (s : State) : Res := .next (s.arrayInsn t (fun w => iOp w == 0x35 && iSub w == 1))

def execQnt (t : TaskRef) (s : State) : Res := .next (s.arrayInsn t (fun w => iOp w == 0x36))

def execDqnt (t : TaskRef) (s : State) : Res := .next (s.arrayInsn t (fun w => iOp w == 0x37))

/-- DMA_DESCRIPTOR_DONE. -/
def execDmaDescriptorDone (e : EngineRef) (s : State) : Res := .next (if s.paused 0 e.die then s else s.dmaEnd e.die e.eng e.found)

/-- A descriptor of an operation has run for 1 ms: the engine is reset, and its job faults (R423). -/
def execDmaDescriptorTimeout (die eng issue : Nat) (s : State) : Res :=
  .next (match s.dmaAt die eng with
    | none => s
    | some r =>
      if r.issue = issue ∧ r.since + 1000000 ≤ s.now then
        let jobs := (s.ops.filter (fun o => o.issue == r.issue)).map (·.job)
        ((s.dmaRelease die eng).timeout 3 die eng jobs 0).dmaPump die 8
      else s)

def execDgaCtrlHoldWrite (die : Nat) (o : Order) (s : State) : Res :=
  .next (if s.dieWindow die then s.order o (regAddr .DGA_CTRL die) (fun s _ v => s.dgaHold die v) else s)

def execDgaCtrlClear (die : Nat) (o : Order) (s : State) : Res :=
  .next (if s.dieWindow die then s.order o (regAddr .DGA_CTRL die) (fun s _ v => s.when (v % 2 == 1) (fun s => s.dgaClear die)) else s)

def execDgaCtrlHandback (die : Nat) (o : Order) (s : State) : Res :=
  .next (if s.dieWindow die then s.order o (regAddr .DGA_CTRL die) (fun s _ v => s.when (v % 2 == 1) (fun s => s.dgaHandback die)) else s)

end Sys2Proof.Machine
end

