-- ==== Sys2Proof/Machine/Record.lean ====
section
/-!
DEFINITION. Machine/Record.lean: the record space of a die: its directory, headers, precision block, exception table and column
maps (R320 to R324), their words in the cells of the record tiles (R44), what the engine writes and reads there (R326, R344), and
a record tile that fails (R76).
-/

namespace Sys2Proof.Machine

/-- What the factory leaves for a tile. -/
def TileRec.factory : TileRec :=
  { precision := false, ucOver := false, ucNext := 0, gf := f1, d := f1, time := 0, sigma0 := 0, a := 0, map := [], prec := none,
    rows := [], lost := false }

def State.record (s : State) (d t : Nat) : TileRec := s.recs.get .factory (gid d t)

def State.setRecord (s : State) (d t : Nat) (r : TileRec) : State := { s with recs := s.recs.set .factory (gid d t) r }

/-! ## The bytes (R320 to R324) -/

/-- A block of bytes that ends in a CRC-32C over all of them. -/
def sealed (l : List Byte) : List Byte := l ++ leBytes 4 (crc32c l)

def zeros (n : Nat) : List Byte := List.replicate n 0

/-- Entry of the directory of a tile (R321). -/
def State.slotWord (s : State) (d t : Nat) : Nat := (s.recSlot d t).getD 0xFFFF

/-- The directory: a 64-byte header and the slots of the tiles (R321; log entry 126 for the places in the header). -/
def State.recDirectory (s : State) (d : Nat) : List Byte :=
  let body := (List.range 1664).flatMap (fun t => leBytes 2 (s.slotWord d t))
  let head := leBytes 4 0x4C414352 ++ leBytes 4 1 ++ leBytes 4 d ++ leBytes 4 (s.ax .recGen d)
  head ++ leBytes 4 (crc32c (head ++ body)) ++ zeros 44 ++ body ++ zeros 704

/-- A tile header (R322). -/
def State.recHeader (s : State) (d t : Nat) : List Byte :=
  let r := s.record d t
  sealed (leBytes 2 t ++ leBytes 1 (1 + 2 * b2n r.precision + 4 * b2n r.ucOver) ++ leBytes 1 r.ucNext ++ leBytes 4 r.gf ++ leBytes 4 r.d
    ++ leBytes 8 r.time ++ leBytes 2 r.sigma0 ++ leBytes 4 r.a ++ zeros 66)

/-- A column map: one trim byte for each physical column (R320). -/
def State.recMap (s : State) (d t : Nat) : List Byte := (List.range 1152).flatMap (fun c => leBytes 1 ((s.record d t).map.get 0 c))

/-- Precision entries of a die, in tile order (R323; log entry 126). -/
def State.precTiles (s : State) (d : Nat) : List Nat := (List.range 1664).filter (fun t => (s.record d t).prec.isSome)

/-- A precision block entry (R323); an entry that is not valid is 0. -/
def State.recPrec (s : State) (d e : Nat) : List Byte :=
  match (s.precTiles d)[e]?, ((s.precTiles d)[e]?).bind (fun t => (s.record d t).prec) with
  | some t, some p => sealed (leBytes 2 t ++ leBytes 1 1 ++ zeros 1 ++ leBytes 1 p.1 ++ leBytes 1 p.2.1 ++ zeros 2 ++
      (List.range 76).flatMap (fun k => leBytes 1 (p.2.2.getD k 32)) ++ zeros 168)
  | _, _ => zeros 256

/-- Unit-cell exceptions of a die, in tile and row order: tile, row, index of the choice (R324). -/
def State.excEntries (s : State) (d : Nat) : List (Nat × Nat × Nat) :=
  (List.range 1664).flatMap (fun t => (s.record d t).rows.map (fun e => (t, e)))

def State.recExc (s : State) (d x : Nat) : List Byte :=
  leBytes 4 (match (s.excEntries d)[x]? with
    | some e => 2 ^ 31 + e.1 * 2 ^ 20 + e.2.1 * 2 ^ 10 + e.2.2
    | none => 0)

/-- The index of a choice of unit cells (R324): the pair of cells left unused. -/
def choiceIndex (mask : Nat) : Nat :=
  match (List.range 9).filter (fun i => !(bit mask i)) with
  | [a, b] => ((List.range a).map (fun i => 8 - i)).foldl (· + ·) 0 + (b - a - 1)
  | _ => 35

/-- The choice of an index. -/
def choiceMask (index : Nat) : Nat :=
  ((List.range 512).find? (fun m => ((List.range 9).filter (fun i => !(bit m i))).length == 2 && choiceIndex m == index)).getD 0x7F

/-- The tile in slot k of the directory. -/
def State.slotTile (s : State) (d k : Nat) : Option Nat := (List.range 1664).find? (fun t => s.recSlot d t == some k)

/-- Byte a of the record space of a die (R320). -/
def State.recByte (s : State) (d a : Nat) : Byte :=
  if a < 4096 then (s.recDirectory d).getD a 0
  else if a < 163072 then (((s.slotTile d ((a - 4096) / 96)).map (s.recHeader d)).getD []).getD ((a - 4096) % 96) 0
  else if a < 179456 then (s.recPrec d ((a - 163072) / 256)).getD ((a - 163072) % 256) 0
  else if a < 189440 then (s.recExc d ((a - 179456) / 4)).getD (a % 4) 0
  else (((s.slotTile d ((a - 189440) / 1152)).map (s.recMap d)).getD []).getD ((a - 189440) % 1152) 0

/-! ## The cells (R44) -/

/-- A word of a record tile: 64 bits of the record space, in the order of the roles, and 8 check bits. The spec names no code, so
the check bits are free. -/
def State.recWord (s : State) (d role w : Nat) : Nat :=
  let v := ofLe ((List.range 8).map (fun i => s.recByte d (role * 262144 + 8 * w + i)))
  v + 2 ^ 64 * (Config.secdedCheck v % 256)

/-- Level of a cell of a record tile: 0 or 7. Cell i holds bit i mod 72 of word i / 72 (log entry 126). -/
def State.recLevel (s : State) (d role i : Nat) : Nat := if bit (s.recWord d role (i / 72)) (i % 72) then 7 else 0

/-- A cell reads wrong: its conductance, in quarters of G_u, stands on the wrong side of level 3.5. -/
def State.recWrong (s : State) (d role : Nat) (e : Nat × Nat) : Bool := decide (e.1 < 2359296) && (decide (14 < e.2) != (s.recLevel d role e.1 == 7))

/-- The words with two wrong bits or more, which SECDED does not correct. -/
def State.badWords (s : State) (d role : Nat) (cells : List (Nat × Nat)) : List Nat :=
  let wrong := ((cells.filter (s.recWrong d role)).map (·.1)).eraseDups
  ((wrong.map (· / 72)).eraseDups).filter (fun w => decide (2 ≤ (wrong.filter (fun i => i / 72 == w)).length))

/-- The tiles whose entries lie in a word. -/
def State.wordTiles (s : State) (d role w : Nat) : List Nat :=
  let a := role * 262144 + 8 * w
  if a < 4096 then (if a < 64 then [] else ((List.range 4).map (fun i => (a - 64) / 2 + i)).filter (fun t => (s.recSlot d t).isSome))
  else if a < 163072 then (s.slotTile d ((a - 4096) / 96)).toList
  else if a < 179456 then ((s.precTiles d)[(a - 163072) / 256]?).toList
  else if a < 189440 then ((List.range 2).filterMap (fun i => (s.excEntries d)[(a - 179456) / 4 + i]?)).map (·.1)
  else (s.slotTile d ((a - 189440) / 1152)).toList

/-! ## What the engine writes and reads (R326, R344) -/

/-- CAL_RECORD_LOST (R326, R347): 1 temperature set, 2 tile header or map, 3 unit-cell overflow. -/
def State.recordLost (s : State) (d what tile set : Nat) : State := s.event 0x97 d sevWarning (what + atByte 2 tile + atByte 4 set)

/-- Header, column map, precision entry and unit-cell exceptions of a tile, after an accepted full calibration (R323, R324, R326), with
the trims that an expert wrote (R348). Where the exception table has no room, UC_OVERFLOW sets (R335). -/
def State.recWrite (s : State) (d t : Nat) : State :=
  let now := fun r => (s.tabAt d t tUnitNew r).getD ((s.tabAt d t (tPend + tUnit) r).getD (s.tab d t tUnit r))
  let rows := ((List.range 1024).filter (fun r => now r != 0x7F)).map (fun r => (r, choiceIndex (now r)))
  let room := 2496 - ((s.excEntries d).filter (fun e => e.1 != t)).length
  let full := decide (room < rows.length)
  let keep := (s.precTiles d).contains t || decide ((s.precTiles d).length < 64)
  let taps := if s.ax .tapsNew d t = 0 then s.tapsNow d t else s.ax .tapsNew d t - 1
  let trims : SMap Nat := (s.tabs.get [] (tabKey d t tTrim)).foldl (fun m e => m.set 0 e.1 (s.tab d t tTrim e.1)) []
  let s := s.setRecord d t
    { precision := s.precise d t, ucOver := full, ucNext := s.ax .ucNext d t, gf := s.tab d t tVal 6, d := s.tab d t tVal 1, time := s.now
      sigma0 := s.ax .sigma0 d t, a := s.tab d t tVal 7
      map := (s.tabs.get [] (tabKey d t tTrimNew)).foldl (fun m e => m.set 0 e.1 (s.tab d t tTrimNew e.1)) trims
      prec := if s.precise d t && keep then some (taps % 64, taps / 64 % 64,
        (List.range 76).map (fun k => (s.tabAt d t tThreshNew k).getD (s.tab d t tThreshTgt k))) else none
      rows := rows.take room, lost := false }
  let s := s.setCause d t scUnitLost false
  if full then s.recordLost d 3 (gid d t) 0xFF else s

/-- D and A of a tile, once an hour (R326). -/
def State.recSave (s : State) (d t : Nat) : State := s.setRecord d t { s.record d t with d := s.tab d t tVal 0, a := s.tab d t tVal 7 }

/-- What the record space gives a tile at start-up (R326, R344). A tile whose header or map is lost keeps what it has. -/
def State.recLoad (s : State) (d t : Nat) : State :=
  let r := s.record d t
  if r.lost then s.recordLost d 2 (gid d t) 0xFF
  else
    let s := ((((s.setTab d t tVal 0 r.d).setTab d t tVal 1 r.d).setTab d t tVal 6 r.gf).setTab d t tVal 7 r.a).setTab d t tVal 5
      (f32Of (sigmaOf r.sigma0))
    let s := ((s.setAx .sigma0 r.sigma0 d t).setAx .ucNext r.ucNext d t).updTile d t (fun x => { x with
      acc := (f32Val r.a).rat, fullAt := r.time })
    let s := s.each r.map (fun s e => s.setTab d t tTrim e.1 e.2)
    let s := match r.prec with
      | some p => s.each (List.range 76) (fun s k => (s.setTab d t tThresh k (p.2.2.getD k 32)).setTab d t tThreshTgt k (p.2.2.getD k 32))
          |>.setTaps d t (p.2.1 * 64 + p.1)
      | none => s
    let s := if r.ucOver then s.setCause d t scUnitLost true else s
    s.each r.rows (fun s e => s.setTab d t tUnit e.1 (choiceMask e.2))

/-- Tiles of a die with temperature sets that an expert wrote, which the Pocket holds. -/
def State.tempWritten (s : State) (d : Nat) : List Nat :=
  ((s.tabs.filter (fun e => e.1 % 64 == tTempNew && e.1 / 64 / 2048 == d)).map (fun e => e.1 / 64 % 2048)).filter (fun t => !(s.tile d t).expert)

/-- The temperature sets that an expert wrote for a tile become the tile's (R348). -/
def State.takeTemp (s : State) (d t : Nat) : State :=
  (s.each (s.tabUsed d t tTempNew) (fun s i => s.setTab d t tTemp i (s.tab d t tTempNew i))).dropTab d t tTempNew

/-- The CRC of a temperature set fails: it is left out of the interpolation (R326, R330). -/
def State.setLost (s : State) (d i : Nat) : State := (s.setTab d 0 tGlobal (16 + i) 1).recordLost d 1 0x3FFF i

/-- NO_TEMPSET stands on every tile of a die while no set is valid, and REVERSE_UNTRIMMED from the start of the die until the tile's
first full calibration (R319, R330, R341). -/
def State.setCauses (s : State) (d : Nat) : State :=
  let none := !((List.range 5).any (s.setValid d))
  s.each (List.range 1664) (fun s t => (s.setCause d t scNoSet none).setCause d t scReverse true)

/-- The engine of a die reads the directory, headers, maps and sets (R344), those that an expert wrote included (R348): `bad` lists what fails its CRC: 1 and the set, or 2 and
the tile. -/
def State.recRead (s : State) (d : Nat) (bad : List (Nat × Nat)) : State :=
  let s := s.each (bad.filter (fun e => e.1 == 2 && e.2 < 1664)) (fun s e => s.setRecord d e.2 { s.record d e.2 with lost := true })
  let s := s.each ((s.recs.filter (fun e => e.1 / 2048 == d)).map (·.1 % 2048)) (fun s t => s.recLoad d t)
  let s := s.each (List.range 5) (fun s i => s.setTab d 0 tGlobal (16 + i) 0)
  let s := s.each (s.tempWritten d) (fun s t => s.takeTemp d t)
  (s.each ((bad.filter (fun e => e.1 == 1 && e.2 < 5)).map (·.2)) (fun s i => s.setLost d i)).setCauses d

/-! ## A record tile that fails (R76) -/

/-- The record tile of a role. -/
def State.roleTile (s : State) (d k : Nat) : Nat := if s.ax .recRole d k = 0 then 1656 + k else s.ax .recRole d k - 1

/-- The role that a tile holds. -/
def State.roleOf (s : State) (d t : Nat) : Option Nat := (List.range 8).find? (fun k => s.roleTile d k == t)

/-- Entries of a tile are lost: it keeps its present coefficients, and a full calibration of it is queued. -/
def State.entriesLost (s : State) (d t : Nat) : State :=
  let s := (s.setRecord d t { s.record d t with lost := true }).recordLost d 2 (gid d t) 0xFF
  if s.inPipe d t || s.tst d t == tsStaged || s.tst d t == tsProgramming then s.queueCal d t 1 else s

/-- A failing record tile is copied, with its SECDED corrections, to a spare tile, which takes its role (R76); without a spare it is
retired. The entries in its uncorrectable words are lost. -/
def State.recordFails (s : State) (d t cause : Nat) (cells : List (Nat × Nat)) : State :=
  let role := (s.roleOf d t).getD 0
  let bad := s.badWords d role cells
  let hit := bad.map (fun w => s.wordTiles d role w)
  let s := match s.freeSpare d with
    | some n =>
      let s := ((s.takeSpare d n).wr .TIL_STATUS_STATE tsRetired d t).setTst d n tsRecord
      let s := (s.noSlot d n).setAx .recRole (n + 1) d role
      (s.wr .TIL_STATUS_REPLACES t d n).event 0x07 d sevNotice (gid d t + atByte 2 (gid d n) + atByte 4 cause + atByte 8 bad.length)
    | none => s.markRetired d t none cause
  let s := s.each (hit.flatten.eraseDups) (fun s k => s.entriesLost d k)
  if hit.any (·.isEmpty) then s.recordLost d 2 0x3FFF 0xFF else s

end Sys2Proof.Machine
end

