-- ==== Sys2Proof/Machine/TileCmds.lean ====
section
/-!
DEFINITION. Machine/TileCmds.lean: TIL_CTRL (R58, R59, R72), the test of spare tiles (R77) and failing record tiles (R76)
(02_crossbar_fabric.md).
-/

namespace Sys2Proof.Machine

def State.tilExpert (s : State) (d t : Nat) : State := s.wr .TIL_STATUS_EXPERT 1 d t

/-- TIL_CTRL.RETIRE (R70 to R73, R78, R82). -/
def State.tilRetire (s : State) (d t : Nat) : State :=
  let st := s.tst d t
  if st = tsRetired ∨ s.rdb .TIL_CTRL_RETIRE d t then s
  else
    let s := (s.tilExpert d t).wr .TIL_CTRL_RETIRE 1 d t
    if st = tsSpare then ((s.takeSpare d t).rehome d t).markRetired d t none 8
    else if st = tsRecord then (s.recordFails d t 8 []).wr .TIL_CTRL_RETIRE 0 d t
    else if st = tsFree ∨ st = tsCleared then s.replaceTile d t 8 (s.repairDeadline d t)
    else s.elementFails d t .whole 8

/-- TIL_CTRL.HOLD (R58). -/
def State.tilHold (s : State) (d t v : Nat) : State :=
  if s.tst d t = tsRetired ∨ v % 2 = s.rd .TIL_CTRL_HOLD d t then s
  else
    let s := (s.tilExpert d t).wr .TIL_CTRL_HOLD v d t
    if v % 2 = 1 then
      if s.tst d t = tsServing then (if s.ax .pendHold d t = 0 then s.wantHold d t hcExpert else s)
      else if s.tst d t = tsHeld ∧ s.ax .pendJoin d t = 1 then s.wantHold d t hcExpert
      else s
    else if s.ax .pendHold d t = 1 + hcExpert then s.setAx .pendHold 0 d t
    else if s.tst d t = tsHeld ∧ s.rd .TIL_STATUS_HOLD_CAUSE d t = hcExpert then s.wantJoin d t
    else s

/-- TIL_CTRL.PRECISION (R59, R60). On a RETIRED tile the write has no effect on TIL_CTRL (R82), and one that would set the flag is
refused (log entry 119). -/
def State.tilPrecision (s : State) (d t v : Nat) : State :=
  let st := s.tst d t
  if v % 2 = s.rd .TIL_CTRL_PRECISION d t then s
  else if s.inPipe d t || (v % 2 == 1 && (!s.precisionRoom d t || st == tsSpare || st == tsRecord || st == tsRetired)) then
    s.wr .TIL_STATUS_REFUSED 1 d t
  else if v % 2 = 1 then s.setPrecision d t
  else s.wr .TIL_CTRL_PRECISION 0 d t

/-- TIL_CTRL.HANDBACK. -/
def State.tilHandback (s : State) (d t : Nat) : State :=
  if s.tst d t = tsRetired then s
  else (((s.tilHold d t 0).wr .TIL_CHECK_TOL 16 d t).wr .TIL_STATUS_EXPERT 0 d t).calForMap d t

def execTilCtrlRetire (die tile : Nat) (o : Order) (s : State) : Res :=
  .next (if s.tileWindow die tile then s.order o (regAddr .TIL_CTRL die tile) (fun s _ v => s.when (v % 2 == 1) (fun s => s.tilRetire die tile)) else s)

def execTilCtrlHoldWrite (die tile : Nat) (o : Order) (s : State) : Res :=
  .next (if s.tileWindow die tile then s.order o (regAddr .TIL_CTRL die tile) (fun s _ v => s.tilHold die tile v) else s)

def execTilCtrlPrecisionWrite (die tile : Nat) (o : Order) (s : State) : Res :=
  .next (if s.tileWindow die tile then s.order o (regAddr .TIL_CTRL die tile) (fun s _ v => s.tilPrecision die tile v) else s)

def execTilCtrlHandback (die tile : Nat) (o : Order) (s : State) : Res :=
  .next (if s.tileWindow die tile then s.order o (regAddr .TIL_CTRL die tile) (fun s _ v => s.when (v % 2 == 1) (fun s => s.tilHandback die tile)) else s)

/-- Of the tiles that are due, every spare tile under firmware management that no request has taken joins the programming queue for
its test, by clear and verify (R77, R307). -/
def State.spareTest (s : State) (d : Nat) (tiles : List Nat) : State :=
  s.each ((s.spareTiles d).filter (fun t => tiles.contains t && !s.rdb .TIL_STATUS_EXPERT d t && !(s.progq.any (fun r => r.die == d && r.tile == t)))) (fun s t =>
    s.progPush { blankReq d t 4 .verify (noPlace d t) (2 ^ 64 - 1) with clearFirst := true })

def execSpareTileTest (die : Nat) (tiles : List Nat) (s : State) : Res :=
  .next (if s.online die then s.spareTest die tiles else s)

/-- RECORD_TILE_FAILURE (R76): the cells that the copy finds, and their conductances in quarters of G_u. The cause is 7, RECORD_ECC, also
when no word turns out uncorrectable: R80 gives record tiles no other cause (DESIGN CHOICE, log entry 163). -/
def execRecordTileFailure (die tile : Nat) (cells conds : List Nat) (s : State) : Res :=
  .next (if s.online die ∧ s.tst die tile = tsRecord then s.recordFails die tile 7 (cells.zip conds) else s)

end Sys2Proof.Machine
end

