-- ==== Sys2Proof/Machine/Calib.lean ====
section
/-!
DEFINITION. Machine/Calib.lean: the calibration engine: traces (R327 to R329), drift updates and the spread (R332, R333,
R342), quick and full calibrations (R334 to R338), refreshes (R343), the CAL registers and the table window (R346, R348)
(11_drift_and_calibration.md).
-/

namespace Sys2Proof.Machine

/-! ## Traces -/

/-- Cause TRACE_FAULT on every tile of a die. -/
def State.traceCause (s : State) (d : Nat) (b : Bool) : State := s.each (List.range 1664) (fun s t => s.setCause d t scTrace b)

/-- A trace may start: the monitor converters' results are fresh (R328). -/
def State.traceReady (s : State) (d : Nat) : Bool :=
  s.ax .traceRun d == 0 && !s.rdb .CAL_CTRL_HOLD d && !s.rdb .MCV_RES_STALE d 36

def State.traceStart (s : State) (d : Nat) : State :=
  ((s.setAx .traceRun 1 d).setAx .traceWait 0 d).updMon d (fun m => { m with traceBad := false })

/-- A trace of a die begins, or waits while another die of the package traces: they share one resistor (R525). -/
def State.traceBegin (s : State) (d : Nat) : State :=
  if s.onlineDies.any (fun e => s.ax .traceRun e == 1) then s.setAx .traceWait 1 d else s.traceStart d

/-- When a trace has ended, the first die that waits traces (R525; the lowest one, log entry 127). -/
def State.traceNext (s : State) : State :=
  match s.dies.find? (fun e => s.ax .traceWait e == 1 && s.online e && s.traceReady e) with
  | some e => s.traceBegin e
  | none => s

/-- The period has elapsed, the temperature has moved by more than DTEMP since the last accepted trace, or CAL_CTRL.TRACE
asks for one (R328). -/
def State.traceIsDue (s : State) (d : Nat) : Bool :=
  s.rdb .CAL_CTRL_TRACE d || decide (s.rd .CAL_LASTTRACE_TIME d + s.rd .CAL_TRACE_PERIOD d * 60 * 10 ^ 9 ≤ s.now) ||
    (s.rdb .MCV_TFAB_VALID d && decide ((sext 16 (s.rd .MCV_TFAB_MEAN d) - sext 16 (s.rd .CAL_TEMP_TJ_TRACE d)).natAbs
      > 16 * s.rd .CAL_TRACE_DTEMP d))

def execTraceDue (die : Nat) (s : State) : Res :=
  .next (if s.online die && s.traceReady die && s.traceIsDue die then s.traceBegin die else s)

/-- The new target of K (R327): entry 5 keeps one that CAL_CTRL.HOLD keeps from being set (R346). -/
def State.setTrace (s : State) (d v : Nat) : State :=
  if s.rdb .CAL_CTRL_HOLD d then s.setTab d 0 tGlobal 5 v
  else ((s.setTab d 0 tGlobal 1 v).setTab d 0 tGlobal 0 v).setTab d 0 tGlobal 5 0

/-- A trace is accepted (R327, R329): K moves by ramp, with every rescale entry of the die. -/
def State.traceAccept (s : State) (d : Nat) (rho rhoF : Rat) : State :=
  let s := (s.setTrace d (f32Of (rhoF / rho))).wr .CAL_LASTTRACE_TIME s.now d
  let s := (s.wr .CAL_TEMP_TJ_TRACE (s.rd .MCV_TFAB_MEAN d) d).setAx .traceRej 0 d
  let s := if s.rdb .CAL_STATUS_TRACE_FAULT d then
      ((s.wr .CAL_STATUS_TRACE_FAULT 0 d).traceCause d false).event 0x92 d sevInfo (f32Of (rho / rhoF))
    else s
  s.each (s.heldTiles d) (fun s t => s.aim d t)

/-- A trace is rejected (R329). -/
def State.traceReject (s : State) (d : Nat) (r : Rat) : State :=
  let n := min 255 (s.ax .traceRej d + 1)
  let s := ((s.setAx .traceRej n d).setAx .traceAt (s.now + 1) d).wr .CAL_STATUS_TRACE_FAULT 1 d
  (s.traceCause d true).event 0x91 d sevError (f32Of r + atByte 4 n)

/-- The CAL instructions that asked for a trace of the die are done (R262). -/
def State.endTraceOps (s : State) (d : Nat) : State :=
  s.each ((s.ops.filter (fun o => o.unit == .maint && o.running && o.word / 2 ^ 58 == 0x3C && o.word % 4 == 2 && o.ga / 2048 == d)).map
    (·.issue)) (fun s k => s.endOp (some k) stOK)

/-- TRACE_END. -/
def State.traceEnd (s : State) (d : Nat) (rho : Rat) : State :=
  let rhoF := s.tabF d 0 tGlobal 2
  let s := (((s.endTraceOps d).setAx .traceRun 0 d).wr .CAL_CTRL_TRACE 0 d).setTab d 0 tGlobal 3 (f32Of rho)
  let bad := (s.mon d).traceBad || s.convDown d 0 || s.convDown d 1 || decide (rhoF = 0 ∨ rho ≤ 0)
  if !bad && decide (|rho / rhoF - 1| ≤ 2 / 100) then s.traceAccept d rho rhoF else s.traceReject d (rho / rhoF)

def execTraceEnd (die : Nat) (rho : Rat) (s : State) : Res :=
  .next (if s.ax .traceRun die = 1 then (s.traceEnd die rho).traceNext else s)

/-- TRACE_RETRY: 10 s after a rejection (R329). -/
def execTraceRetry (die : Nat) (s : State) : Res :=
  .next (if s.rdb .CAL_STATUS_TRACE_FAULT die && s.traceReady die && decide (s.ax .traceAt die - 1 + 10 ^ 10 ≤ s.now) then
    s.traceBegin die else s)

/-! ## Plausibility and rejection (R338) -/

/-- SUSPECT, with its refresh, at the third rejection in a row. -/
def State.suspect (s : State) (d t : Nat) : State :=
  let s := (s.wr .TIL_STATUS_SUSPECT 1 d t).event 0x05 d sevNotice (gid d t + atByte 5 (s.slotByte d t) + atByte 6 (s.layerWord d t))
  if s.rdb .TIL_STATUS_EXPERT d t then s else s.scheduleRefresh d t 2 (s.now + 10 ^ 10) none

/-- A rejection: kind 0 quick, 1 full, 2 drift; result code; failing value. -/
def State.calReject (s : State) (d t kind code : Nat) (v : Rat) : State :=
  let n := min 3 (s.rd .TIL_STATUS_CAL_REJ_RUN d t + 1)
  let s := ((s.wr .TIL_STATUS_CAL_REJ_RUN n d t).bump .CAL_REJECTS_COUNT 1 d).setCause d t scRejected true
  let s := if kind = 2 then s else s.updTile d t (fun x => { x with result := 1 + code })
  let s := s.event 0x90 d sevWarning (gid d t + atByte 2 kind + atByte 3 code + atByte 4 n + atByte 5 (s.slotByte d t)
    + atByte 6 (s.layerWord d t) + atByte 8 (f32Of v))
  if n = 3 ∧ !s.rdb .TIL_STATUS_SUSPECT d t then s.suspect d t else s

/-- Physical columns in service. -/
def State.inService (s : State) (d t : Nat) : List Nat := (List.range 1152).filter (fun p => (s.colRole d t p).isSome)

/-- K × t_c × D of the columns, with given trims. -/
def State.gains (s : State) (d t : Nat) (trim : Nat → Rat) (dNew : Rat) : List Rat :=
  (s.inService d t).map (fun p => s.tabF d 0 tGlobal 1 * trim p * dNew)

/-- dstep of R332. -/
def State.dstep (s : State) (d : Nat) : Rat := (s.rd .CAL_LIMIT_DSTEP d : Nat) / 1024

/-- The first check of R338 that fails, with its value. -/
def State.calCheck (s : State) (d t : Nat) (out : CalOut) (trim : Nat → Rat) (dNew : Rat) : Option (Nat × Rat) :=
  let gain := (s.gains d t trim dNew).find? (fun g => decide (|g - 1| > 12 / 100))
  let ofs := (s.inService d t).find? (fun p => decide (|((out.offs.getD p 0 : Int) : Rat) / 16| > 48))
  let step := dNew / s.tabF d t tVal 1
  match gain, ofs with
  | some g, _ => some (1, g)
  | none, some p => some (2, ((out.offs.getD p 0 : Int) : Rat) / 16)
  | none, none =>
    if out.mse * 256 ≥ (s.rd .CAL_LIMIT_MSE d : Nat) then some (3, out.mse)
    else if |step - 1| > s.dstep d then some (4, step)
    else none

/-- What quick and full calibrations share when they are accepted: offsets, D, the counts and causes. A D that the engine may not set
yet waits in entry 10 of TILEVAL (R346, R348). -/
def State.calAccept (s : State) (d t : Nat) (out : CalOut) (dNew : Rat) (temp : Int) : State :=
  let s := s.each (s.inService d t) (fun s p => s.setTab d t tMeas p (wrap 16 (out.offs.getD p 0)))
  let s := s.setTab d t tVal 9 (f32Of (s.shiftTerm d t temp))
  let s := (s.setTab d t tVal 10 (f32Of dNew)).takeFull d t
  let s := ((s.setCause d t scRejected false).setCause d t scDriftOld false).updTile d t (fun x => { x with
    result := 1, driftAt := s.now })
  (s.wr .TIL_STATUS_CAL_REJ_RUN 0 d t).aim d t

/-- New drift factor from a measured gain; a gain of 0 leaves it. -/
def State.newDrift (s : State) (d t : Nat) (a : Rat) : Rat := if a = 0 then s.tabF d t tVal 1 else s.tabF d t tVal 1 / a

/-- Trim in force. -/
def State.trimNow (s : State) (d t p : Nat) : Rat := trimOf (s.tab d t tTrim ((s.colRole d t p).getD p))

/-- The calibration under way on a tile. -/
def State.calRun (s : State) (d t : Nat) (full : Bool) : Option CalRun :=
  s.cals.find? (fun c => c.die == d && c.tile == t && c.full == full)

def State.dropCal (s : State) (d t : Nat) : State :=
  let s : State := { s with cals := s.cals.filter (fun c => !(c.die == d && c.tile == t)) }
  s.wr .CAL_STATUS_BUSY (s.cals.filter (fun c => c.die == d && c.full)).length d

/-! ## The measurements of a quick calibration (R334) -/

/-- Sum and number of the codes that `keep` admits, by physical column; a conversion that did not finish gives 512 (R115). -/
def codeSums (keep : Nat → Bool) (l : List (List (Option Nat))) : List (Nat × Nat) :=
  l.foldl (fun acc cs => List.zipWith (fun a c =>
    let v := c.getD 512 % 1024
    if keep v then (a.1 + v, a.2 + 1) else a) acc (cs ++ List.replicate (1152 - cs.length) none)) (List.replicate 1152 (0, 0))

/-- The mean code. -/
def codeMean (x : Nat × Nat) : Rat := if x.2 = 0 then 512 else (x.1 : Rat) / (x.2 : Nat)

/-- The code that logical column q should give for all rows in use at +64, with the entries in force: from its column sum of R304, and for
a reference column from its fraction (R42, R122). -/
def State.quickExpected (s : State) (d t q : Nat) : Rat :=
  let c := s.servingCol d t q
  let r := s.tabF d t tRes c
  if r = 0 then 0
  else if isRef q then 7 * (refQ (colBlock q) : Nat) / 4 * ((64 * (s.rd .TIL_EXTENT_ROWS_M1 d t + 1) : Nat) : Rat) / r
  else 64 * ((((s.tile d t).sums.get 0 q : Int)) : Rat) * s.colScale d t q / r

/-- The samples of the fit of R332: half the difference of a column's means at +64 and −64, and its expected code. Columns whose column
sum is 0, and columns without an unsaturated code on either side, are left out (log entry 162). -/
def State.quickSamples (s : State) (d t : Nat) (l : List (Int × List (Option Nat))) : List (Rat × Rat) :=
  let mid := fun v => decide (0 < v ∧ v < 1023)
  let hi := codeSums mid ((l.filter (fun e => decide (0 < e.1))).map (·.2))
  let lo := codeSums mid ((l.filter (fun e => decide (e.1 < 0))).map (·.2))
  ((List.range 1152).filter (fun q => !isSpareCol q)).filterMap (fun q =>
    let c := s.servingCol d t q
    let e := s.quickExpected d t q
    let h := hi.getD c (0, 0)
    let w := lo.getD c (0, 0)
    if e = 0 ∨ h.2 = 0 ∨ w.2 = 0 then none else some ((codeMean h - codeMean w) / 2, e))

/-- a of R332: the measured gain against the expected one; 1 without a sample. -/
def fitGain (l : List (Rat × Rat)) : Rat :=
  let see := (l.map (fun e => e.2 * e.2)).foldl (· + ·) 0
  if see = 0 then 1 else (l.map (fun e => e.1 * e.2)).foldl (· + ·) 0 / see

/-- m_c in 1/16 code, by physical column: the mean of the eight codes at 0, less 512. -/
def quickOffsets (l : List (Int × List (Option Nat))) : List Int :=
  (codeSums (fun _ => true) ((l.filter (fun e => e.1 == 0)).map (·.2))).map (fun x => rneI (16 * (codeMean x - 512)))

/-- The reference residual of R122 in logical column q with a new offset and a new D, for one stitch. -/
def State.newResidual (s : State) (d t q : Nat) (offs : List Int) (dNew : Rat) (x : Int) (codes : List (Option Nat)) : Rat :=
  let c := s.servingCol d t q
  let m := ((offs.getD c 0 : Int) : Rat) / 16
  let r := (f32Val (f32Of (s.tileGain d t * trimOf (s.tab d t tTrim q) * dNew * (lsbUnits (s.rd .HEM_CFG_RANGE d t) : Nat)))).rat
  let total : Rat := ((x * (s.rd .TIL_EXTENT_ROWS_M1 d t + 1 : Nat) : Int) : Rat)
  residue (codeAt codes c) (ofsByte m) - (if r = 0 then 0 else 7 * (refQ (colBlock q) : Nat) / 4 * total / r)

/-- The mean square of the reference residuals over the calibration stitches, with the new coefficients (R338); a saturated column forms
none (R122). -/
def State.quickMse (s : State) (d t : Nat) (l : List (Int × List (Option Nat))) (offs : List Int) (dNew : Rat) : Rat :=
  let rs := l.flatMap (fun e => (List.range 64).filterMap (fun b =>
    let q := 18 * b + 16
    if saturated e.2 (s.servingCol d t q) then none else some (s.newResidual d t q offs dNew e.1 e.2)))
  if rs = [] then 0 else (rs.map (fun r => r * r)).foldl (· + ·) 0 / (rs.length : Nat)

/-- What the 24 stitches of a quick calibration gave (R334). -/
def State.quickOut (s : State) (d t : Nat) (l : List (Int × List (Option Nat))) : CalOut :=
  let offs := quickOffsets l
  let a := fitGain (s.quickSamples d t l)
  { offs := offs, a := a, mse := s.quickMse d t l offs (s.newDrift d t a), trims := [], revOfs := [], revTrims := [], units := [], badRows := 0 }

/-- QUICK_CAL_END (R334, R338). -/
def State.quickEnd (s : State) (d t : Nat) (c : CalRun) (out : CalOut) : State :=
  let s := s.dropCal d t
  let dNew := s.newDrift d t out.a
  let s := match s.calCheck d t out (s.trimNow d t) dNew with
    | some e => s.calReject d t 0 e.1 e.2
    | none => s.calAccept d t out dNew (s.tUsed d)
  ((s.endOp c.op stOK).replCal d t).pump d

/-- QUICK_CAL_END: the 24 stitches have fired and been converted, and the computation is over (R334). The results are computed from their
codes; the operand, which speaks of what a full calibration measures beyond codes, is not used. -/
def execQuickCalEnd (die tile : Nat) (_out : CalOut) (s : State) : Res :=
  .next (match s.calRun die tile false with
    | some c => if c.codes.length = 24 then s.quickEnd die tile c (s.quickOut die tile c.codes) else s
    | none => s)

/-! ## Full calibrations (R335 to R337, R340) -/

/-- Periods of a full calibration (R335). -/
def State.fullPeriods (s : State) (d t : Nat) : Nat := if s.precise d t then 2032 else 1520

/-- A full calibration starts: the coefficients hold, and STALE reads 1 (R340). A precision tile takes 2,032 periods, any
other 1,520 (R335). -/
def State.fullStart (s : State) (d t : Nat) (op : Option Nat) : State :=
  let s : State := { s with calq := s.calq.filter (fun r => !(r.die == d && r.tile == t)) }
  let s := s.startCal d t true (s.fullPeriods d t) op
  let s := (s.wr .HEM_TAPS_STALE 1 d t).setAx .calTempAt (wrap 16 (s.tUsed d)) d t
  s.wr .CAL_STATUS_BUSY (s.cals.filter (fun c => c.die == d && c.full)).length d

/-- No engine and no calibration works on the tile, and no repair waits for it. -/
def State.tileIdle (s : State) (d t : Nat) : Bool :=
  !s.cals.any (fun c => c.die == d && c.tile == t) && !s.progq.any (fun r => r.die == d && (r.tile == t || r.old == t))

/-- A tile on which a full calibration can run (R335). -/
def State.fullReady (s : State) (d t : Nat) : Bool :=
  s.tileIdle d t && (s.tst d t == tsStaged || (s.tst d t == tsHeld &&
    (s.rd .TIL_STATUS_HOLD_CAUSE d t == hcCal || s.rd .TIL_STATUS_HOLD_CAUSE d t == hcExpert)))

/-- Order of R337: class, then for periodic ones the oldest calibration, then arrival. -/
def State.calBefore (s : State) (a b : CalReq) : Bool :=
  let ka := if a.prio = 3 then (s.tile a.die a.tile).fullAt else 0
  let kb := if b.prio = 3 then (s.tile b.die b.tile).fullAt else 0
  decide (a.prio < b.prio) || (a.prio == b.prio && (decide (ka < kb) || (ka == kb && decide (a.no < b.no))))

/-- The refresh that this tile's full calibration belongs to. -/
def State.refreshCal (s : State) (d t : Nat) : Option Refresh :=
  s.refreshes.find? (fun x => x.die == d && x.phase == .calibrate && (x.new == t || (x.new == 0x7FF && x.tile == t)))

/-- A queued calibration can move on: it starts, or its SERVING tile is to be held or copied. -/
def State.calCan (s : State) (r : CalReq) : Bool :=
  r.prio != 0 && ((s.refreshCal r.die r.tile).isSome || (!(s.tile r.die r.tile).expert && !s.rdb .TIL_STATUS_EXPERT r.die r.tile))
    && !((r.prio == 3 || s.ax .roundTile r.die r.tile == 1) && s.rdb .PWR_STAT_SHED_IN)
    && (s.fullReady r.die r.tile || (s.tst r.die r.tile == tsServing && s.ax .pendHold r.die r.tile == 0 && s.tileIdle r.die r.tile
      && (s.refreshOf r.die r.tile).isNone))

/-- A queued calibration whose tile is held for it. -/
def State.heldFor (s : State) (r : CalReq) : Bool :=
  s.tst r.die r.tile == tsHeld && s.rd .TIL_STATUS_HOLD_CAUSE r.die r.tile == hcCal

/-- Full calibrations that run, or for which a tile is held or about to be. -/
def State.calHeld (s : State) (d : Nat) : Nat :=
  s.rd .CAL_STATUS_BUSY d + (s.calq.filter (fun r => r.die == d &&
    (s.ax .pendHold d r.tile == 1 + hcCal || (s.heldFor r && s.calCan r)))).length

/-- PAR leaves room for the calibration: one whose tile is held has its place already. -/
def State.calRoom (s : State) (r : CalReq) : Bool :=
  decide ((if s.heldFor r then s.rd .CAL_STATUS_BUSY r.die else s.calHeld r.die) < s.rd .CAL_CFG_PAR r.die)

/-- A layer carried class 0 requests in the last drift interval. -/
def State.class0Layer (s : State) (p : Placed) (d : Nat) : Bool :=
  s.ax .class0At p.slot p.layer != 0 && decide (s.now ≤ s.ax .class0At p.slot p.layer - 1 + s.rd .CAL_DRIFT_INTERVAL d * 10 ^ 9)

/-- A periodic full calibration of a SERVING tile is a copy (R337). -/
def State.calCopies (s : State) (d t : Nat) : Bool :=
  match s.placeOf d t with
  | none => false
  | some p => s.swaps d && (s.rd .CAL_CFG_STAGE d == 2 || (s.rd .CAL_CFG_STAGE d == 1 && s.class0Layer p d))

/-- A queued calibration moves on. -/
def State.calMove (s : State) (r : CalReq) : State :=
  if s.fullReady r.die r.tile then s.fullStart r.die r.tile none
  else if r.prio = 3 ∧ s.calCopies r.die r.tile then
    let x : Refresh := { die := r.die, tile := r.tile, new := 0x7FF, reason := 0,
                         deadline := s.now + s.rd .CAL_REFRESH_LEAD r.die * 3600 * 10 ^ 9, since := s.now, heldAt := 0, phase := .wait,
                         op := none }
    let s : State := { s with calq := s.calq.filter (fun q => !(q.die == r.die && q.tile == r.tile)), refreshes := s.refreshes ++ [x] }
    s.startRefresh x
  else s.wantHold r.die r.tile hcCal

/-- FULL_CAL_START: the first queued calibration that can move on does, where PAR leaves room (R337). -/
def State.fullNext (s : State) (d : Nat) : State :=
  if s.rdb .CAL_CTRL_HOLD d || !s.online d || s.rdb .CLK_STAT_SAFE then s
  else
    let first := (s.calq.filter (fun r => r.die == d && s.calCan r)).foldl (fun (m : Option CalReq) r => match m with
      | none => some r
      | some q => if s.calBefore r q then some r else some q) none
    match first with
    | some r => if s.calRoom r then s.calMove r else s
    | none => s

def execFullCalStart (die : Nat) (s : State) : Res := .next (s.fullNext die)

/-- A mask of unit cells: 7 of 9. -/
def popcount (n v : Nat) : Nat := ((List.range n).filter (fun i => bit v i)).length

/-- DRV_UCSTAT.ROWS_ALT: rows whose choice, in force or waiting for a seam, is not the reset choice. -/
def State.altRows (s : State) (d t : Nat) : State :=
  let now := fun r => (s.tabAt d t (tPend + tUnit) r).getD (s.tab d t tUnit r)
  s.wr .DRV_UCSTAT_ROWS_ALT (((List.range 1024).filter (fun r => now r != 0x7F)).length) d t

/-- The unit-cell choices of block UC_NEXT (R93, R335), which UC_NEXT then leaves for the next block. -/
def State.unitCells (s : State) (d t : Nat) (out : CalOut) : State :=
  let b := s.ax .ucNext d t
  let s := s.each (List.range 128) (fun s k =>
    let v := out.units.getD k 0x7F
    s.setTab d t tUnitNew (128 * b + k) (if popcount 9 v = 7 ∧ v < 512 then v else 0x7F))
  s.setAx .ucNext ((b + 1) % 8) d t

/-- The rows of block UC_NEXT that no choice serves are counted, beside those of the other blocks (R94). -/
def State.countRows (s : State) (d t : Nat) (out : CalOut) : State :=
  let s := s.setAx .ucFailed out.badRows d t (s.ax .ucNext d t)
  s.wr .DRV_UCSTAT_ROWS_FAILED (((List.range 8).map (fun b => s.ax .ucFailed d t b)).foldl (· + ·) 0) d t

/-- Window taps of R336 from the mean gain correction; round is to nearest, ties to even. -/
def tapsFor (g : Rat) : Nat :=
  let dl : Int := max (-39) (min 39 (rneI ((g - 1) / (4167 / 10000000))))
  let cl := fun (x : Int) => (max 0 (min 39 x)).toNat
  cl (20 + (dl + 1) / 2) * 64 + cl (20 - dl / 2)

/-- The results of a full calibration of a precision tile, and the taps that they set (R336): WSTOP * 64 + WSTART, and the threshold
taps of the converters. -/
structure Taps where
  out : CalOut
  window : Nat
  thresh : List Nat
  deriving DecidableEq, Repr

/-- Physical columns that converter k converts: its own 16, unless a spare has replaced it, or those of the one that it replaces. -/
def State.convCols (s : State) (d t k : Nat) : List Nat :=
  let home := if k < 72 then k else s.rd (convSubField (k - 72)) d t
  if home < 72 ∧ s.convInUse d t home = k then (List.range 16).map (fun i => 16 * home + i) else []

/-- The threshold tap that brings the mean offset of a converter's columns nearest to 0: a tap is ¼ code (R111; log entry 160). -/
def State.threshTap (s : State) (d t : Nat) (offs : List Int) (k : Nat) : Nat :=
  let now := s.tab d t tThresh k
  let l := (s.convCols d t k).map (fun p => offs.getD p 0)
  if l = [] then now
  else (max 0 (min 63 ((now : Int) + rneI ((l.foldl (· + ·) 0 : Int) / (4 * (l.length : Nat) : Rat))))).toNat

/-- The window gain that taps give: 0.0004167 for each tap (R336). -/
def windowGain (taps : Nat) : Rat := 1 + (((taps / 64 : Nat) : Rat) - (taps % 64 : Nat)) * (4167 / 10000000)

/-- The trim byte of a t_c divided by a window gain. -/
def trimOver (g : Rat) (b : Int) : Int := max (-128) (min 127 (rneI (1024 * ((1 + (b : Rat) / 1024) / g - 1))))

/-- Taps of a precision tile (R336): the offsets keep the remainders, and each t_c is divided by the window gain. -/
def State.calTaps (s : State) (d t : Nat) (out : CalOut) : Taps :=
  let th := (List.range 76).map (fun k => s.threshTap d t out.offs k)
  let moved := (List.range 1152).map (fun p =>
    let k := s.convInUse d t (p / 16)
    4 * ((th.getD k 32 : Int) - (s.tab d t tThresh k : Nat)))
  let gs := (s.inService d t).map (fun p => s.tileGain d t * trimOf (wrap 8 (out.trims.getD p 0)))
  let w := tapsFor (if gs = [] then 1 else gs.foldl (· + ·) 0 / (gs.length : Nat))
  { out := { out with offs := (List.range 1152).map (fun p => out.offs.getD p 0 - moved.getD p 0)
                      trims := (List.range 1152).map (fun p => trimOver (windowGain w) (out.trims.getD p 0)) }
    window := w, thresh := th }

/-- The tile is trimmed as a precision tile: its PRECISION flag is set, and it has become STAGED since (R60). -/
def State.trimmed (s : State) (d t : Nat) : Bool := s.precise d t && s.ax .precWait d t == 0

/-- The taps of a precision tile wait to be set (R336). -/
def State.keepTaps (s : State) (d t : Nat) (x : Taps) : State :=
  (s.each (List.range 76) (fun s k => s.setTab d t tThreshNew k (x.thresh.getD k 32))).setAx .tapsNew (1 + x.window) d t

/-- An accepted full calibration (R60, R335, R338, R341). -/
def State.fullAccept (s : State) (d t : Nat) (x : Taps) (dNew : Rat) : State :=
  let out := x.out
  let temp := sext 16 (s.ax .calTempAt d t)
  let s := s.each (s.inService d t) (fun s p => s.setTab d t tTrim ((s.colRole d t p).getD p) (wrap 8 (out.trims.getD p 0)))
  let s := s.each (List.range 1024) (fun s r =>
    (s.setTab d t tRevMeas r (wrap 16 (out.revOfs.getD r 0))).setTab d t tRevTrim r (out.revTrims.getD r f1))
  let s := s.unitCells d t out
  let s := if s.trimmed d t then s.keepTaps d t x else s
  let s := if s.ax .precWait d t = 0 then s.setCause d t scUntrimmed false else s
  let s := (s.setCause d t scReverse false).updTile d t (fun x => { x with
    calibrated := true, fullAt := s.now })
  (((s.wr .TIL_STATUS_SUSPECT 0 d t).calAccept d t out dNew temp).altRows d t).recWrite d t

/-- A refresh whose full calibration is over goes on to its seam (R343). -/
def State.refreshCalibrated (s : State) (d t : Nat) : State :=
  { s with refreshes := s.refreshes.map (fun x => if x.die = d ∧ x.phase = .calibrate ∧ (x.new = t ∨ (x.new = 0x7FF ∧ x.tile = t)) then
      { x with phase := .seam } else x) }

/-- After a rejection (R338): where the calibration follows the refresh of a suspect tile, the tile is replaced; any other refresh, and a
map that needs the tile, calibrates it again. `x` is the refresh as it stood before the rejection. -/
def State.fullRejected (s : State) (d t : Nat) : Option Refresh → State
  | some x =>
    if x.reason = 2 then
      let s := if x.new = t then s.progPush (blankReq d t 3 .clear (noPlace d t) (2 ^ 64 - 1)) else s
      let dl := s.repairDeadline d x.tile
      (s.dropRefresh d x.tile).replaceTile d x.tile 5 dl
    else s.queueCal d t 2
  | none => s

/-- A tile HELD for its calibration rejoins the map when the calibration is over, but not in a refresh (R21, R337). -/
def State.calRejoin (s : State) (d t : Nat) : State :=
  if s.tst d t == tsHeld && s.rd .TIL_STATUS_HOLD_CAUSE d t == hcCal && (s.refreshCal d t).isNone && s.tileIdle d t then
    s.wantJoin d t
  else s

/-- A row that no unit-cell choice serves fails the tile, whatever becomes of the calibration's results (R94, R335). The spec gives
this failure no cause of its own; the model takes 5, CALIBRATION (log entry 120). -/
def State.calBadRows (s : State) (d t : Nat) (out : CalOut) : State := if out.badRows ≠ 0 then s.elementFails d t .whole 5 else s

/-- The result of a full calibration: accepted, or rejected with the limit it broke (R338). -/
def State.fullResult (s : State) (d t : Nat) (x : Taps) (dNew : Rat) : Option (Nat × Rat) → State
  | some e => (s.calReject d t 1 e.1 e.2).fullRejected d t (s.refreshCal d t)
  | none => (s.fullAccept d t x dNew).refreshCalibrated d t

/-- FULL_CAL_END. -/
def State.fullEnd (s : State) (d t : Nat) (c : CalRun) (out : CalOut) : State :=
  let s1 := (((s.dropCal d t).countRows d t out).wr .HEM_TAPS_STALE 0 d t).bump .CAL_FULLS_COUNT 1 d
  let x := if s1.trimmed d t then s1.calTaps d t out else ⟨out, 0, []⟩
  let dNew := s1.newDrift d t out.a
  let e := s1.calCheck d t x.out (fun p => trimOf (wrap 8 (x.out.trims.getD p 0))) dNew
  let s2 := (((s1.fullResult d t x dNew e).fullOver d t).calRejoin d t).calBadRows d t out
  let s3 := (s2.endOp c.op stOK).roundTileDone d t (some e.isNone)
  ((s3.calForMap d t).mapCheckOf d t).pump d

/-- FULL_CAL_END: every calibration stitch has fired, and the analysis is over (R335). -/
def execFullCalEnd (die tile : Nat) (out : CalOut) (s : State) : Res :=
  .next (match s.calRun die tile true with
    | some c => if c.left = 0 then s.fullEnd die tile c out else s
    | none => s)

/-- PERIODIC_FULL_CAL_DUE (R337). -/
def execPeriodicFullCalDue (die tile : Nat) (s : State) : Res :=
  .next (let days := s.rd .CAL_CFG_FULL_DAYS die
    if s.online die ∧ days ≠ 0 ∧ (s.placeOf die tile).isSome ∧ (s.inPipe die tile || s.tst die tile == tsStaged) = true
        ∧ (s.tile die tile).fullAt + days * 86400 * 10 ^ 9 ≤ s.now then s.queueCal die tile 3
    else s)

/-- RECORD_HOURLY_SAVE: D and A of the tiles (R326). -/
def execRecordHourlySave (die : Nat) (s : State) : Res :=
  .next (if s.online die then s.each (s.heldTiles die) (fun s t =>
    s.recSave die t) else s)

/-! ## The drift interval (R332, R333, R342) -/

/-- The drift update of one SERVING tile. -/
def State.driftUpdate (s : State) (d t : Nat) : State :=
  let x := s.tile d t
  let s := s.updTile d t (fun x => { x with sde := 0, see := 0, n := 0 })
  if x.n < 51 ∨ x.see = 0 ∨ x.sde = 0 then s
  else
    let dT := s.tabF d t tVal 1
    let dNew := dT / (x.sde / x.see)
    if |dNew / dT - 1| > s.dstep d then s.calReject d t 2 4 (dNew / dT)
    else match (s.gains d t (s.trimNow d t) dNew).find? (fun g => decide (|g - 1| > 12 / 100)) with
      | some g => s.calReject d t 2 1 g
      | none =>
        if x.expert then s
        else
          let s := ((s.setTab d t tVal 1 (f32Of dNew)).setCause d t scConverter false).setCause d t scDriftOld false
          (s.updTile d t (fun x => { x with driftAt := s.now })).aim d t

/-- k(T) of R342: the spread growth per decade of R65, in G_u. -/
def growth (temp : Int) : Rat :=
  interpolate [(-320, 15 / 1000), (160, 20 / 1000), (640, 30 / 1000), (1120, 35 / 1000), (1600, 45 / 1000)] temp

/-- A square root to 2^-40 or better, for the estimate of R342. -/
def sqrtRat (r : Rat) : Rat := ((Nat.sqrt (r.num.natAbs * r.den * 4 ^ 40) : Nat) : Rat) / ((r.den * 2 ^ 40 : Nat) : Rat)

/-- The spread estimate of a placed tile (R342). -/
def State.spread (s : State) (d t : Nat) (prev : Nat) : State :=
  let x := s.tile d t
  let pt := s.rd .TIL_PROGTIME_TIME d t
  let t0 := max (10 ^ 9) (prev - pt)
  let t1 := max (10 ^ 9) (s.now - pt)
  let a := x.acc + growth (s.tUsed d) * Config.decades t0 t1
  let s0 := sigmaOf (s.ax .sigma0 d t)
  let model := s0 * s0 + a * a
  let meas : Rat := if x.checks < 16 then 0 else x.checkSq / (x.checks : Nat) / ((2 * (s.rd .TIL_EXTENT_ROWS_M1 d t + 1) : Nat) : Rat)
  let est := max model meas
  let s := ((s.updTile d t (fun x => { x with acc := a })).setTab d t tVal 4 (f32Of (sqrtRat est))).setTab d t tVal 7 (f32Of a)
  let lim : Rat := (s.rd .CAL_REFRESH_SIGMA d : Nat) / 256
  if est ≥ lim * lim ∧ !s.rdb .TIL_STATUS_EXPERT d t then s.scheduleRefresh d t 1 (s.now + s.rd .CAL_REFRESH_LEAD d * 3600 * 10 ^ 9) none else s

/-- A column check is posted on a SERVING tile; it becomes urgent after half the interval (R67, R169). -/
def State.postCheck (s : State) (d t : Nat) (x : Int) : State :=
  if s.checks.any (fun c => c.die == d && c.tile == t) then s
  else { s with checks := s.checks ++ [⟨d, t, x, false, s.now + s.rd .CAL_DRIFT_INTERVAL d * 5 * 10 ^ 8⟩] }

/-- DRIFT_OLD (R341): no accepted update for two intervals while SERVING. -/
def State.driftAge (s : State) (d t : Nat) : State :=
  if (s.tile d t).driftAt + 2 * s.rd .CAL_DRIFT_INTERVAL d * 10 ^ 9 ≤ s.now then s.setCause d t scDriftOld true else s

/-- DRIFT_INTERVAL. -/
def State.driftInterval (s : State) (d : Nat) (x : Int) (conv : List (Nat × Nat × Nat)) : State :=
  let prev := s.ax .driftPrev d - 1
  let s := s.setAx .driftPrev (s.now + 1) d
  let s := s.each conv (fun s e => s.setTab d e.1 tConv e.2.1 e.2.2)
  let serving := (List.range 1664).filter (fun t => s.tst d t == tsServing && !s.cals.any (fun c => c.die == d && c.tile == t && c.full))
  let s := if s.rdb .CAL_CTRL_HOLD d then s else s.each serving (fun s t => s.driftUpdate d t)
  let s := s.each serving (fun s t => (s.driftAge d t).postCheck d t x)
  s.each ((s.placed.filter (fun p => p.die == d)).map (·.tile)) (fun s t => s.spread d t prev)

def execDriftInterval (die : Nat) (x : Int) (conv : List (Nat × Nat × Nat)) (s : State) : Res :=
  .next (if s.online die then s.driftInterval die x conv else s)

/-! ## Refresh (R343, R347) -/

/-- REFRESH_DONE. -/
def State.refreshDone (s : State) (x : Refresh) : State :=
  let now := if x.new = 0x7FF then x.tile else x.new
  let s : State := { s with refreshes := s.refreshes.filter (fun y => !(y.die == x.die && y.tile == x.tile)) }
  let s := s.event 0x94 x.die sevInfo (gid x.die x.tile + atByte 2 (gid x.die now) + atByte 4 ((s.now - x.since) / 1000)
    + atByte 8 (if x.heldAt = 0 then 0 else (s.now - x.heldAt) / 1000))
  s.endOp x.op stOK

/-- REFRESH_END: the tile, or the one that took its place, serves again; a tile of a map that is not active is STAGED. -/
def execRefreshEnd (die tile : Nat) (s : State) : Res :=
  .next (match s.refreshOf die tile with
    | some x =>
      if x.phase = .done ∨ (x.phase = .seam ∧ x.new = 0x7FF ∧ s.tst die tile ≠ tsHeld) then s.refreshDone x else s
    | none => s)

/-! ## CAL registers (R346, R348) -/

/-- CAL_STATUS.EXPERT: the engine, or any tile of the die, is out of firmware management. -/
def State.calExpertShow (s : State) (d : Nat) : State :=
  s.wr .CAL_STATUS_EXPERT (b2n (s.ax .calExpert d == 1 || (List.range 1664).any (fun t => (s.tile d t).expert))) d

/-- CAL_CTRL.HOLD clears: the engine sets the targets that it could not set meanwhile, and what waited starts (R346). -/
def State.calResume (s : State) (d : Nat) : State :=
  let s := if s.tab d 0 tGlobal 5 = 0 then s else s.setTrace d (s.tab d 0 tGlobal 5)
  let s := s.each (List.range 1664) (fun s t => s.takeFull d t)
  let s := s.each (s.heldTiles d) (fun s t => s.aim d t)
  let quick := s.calq.filter (fun r => r.die == d && r.prio == 0)
  let s : State := { s with calq := s.calq.filter (fun r => !(r.die == d && r.prio == 0)) }
  let s := s.each quick (fun s r => s.startCal d r.tile false 24 none)
  s.each (s.refreshes.filter (fun x => x.die == d && x.phase == .wait)) (fun s x => s.startRefresh x)

def State.calHold (s : State) (d v : Nat) : State :=
  if v % 2 = s.rd .CAL_CTRL_HOLD d then s
  else
    let s := ((s.setAx .calExpert 1 d).wr .CAL_CTRL_HOLD v d).calExpertShow d
    if v % 2 = 1 then s else s.calResume d

/-- Trims and temperature sets that an expert wrote act when the tile is handed back (R348). -/
def State.takeNew (s : State) (d t : Nat) : State :=
  let s := s.each (s.tabUsed d t tTrimNew) (fun s i => s.setTab d t tTrim i (s.tab d t tTrimNew i))
  (s.dropTab d t tTrimNew).takeTemp d t

/-- One tile's calibration returns to firmware management: new targets from TRIM, TEMPSET and the present measurements. -/
def State.calTileBack (s : State) (d t : Nat) : State :=
  ((((s.takeNew d t).updTile d t (fun x => { x with expert := false })).takeFull d t).aim d t).calForMap d t

def State.calHandback (s : State) (d : Nat) : State :=
  let s := (((s.resetReg .CAL_CFG d 0).resetReg .CAL_RAMP d 0).resetReg .CAL_LIMIT d 0).resetReg .CAL_REFRESH d 0
  let held := s.rdb .CAL_CTRL_HOLD d
  let s := (s.wr .CAL_CTRL_HOLD 0 d).setAx .calExpert 0 d
  let s := s.each ((List.range 1664).filter (fun t => (s.tile d t).expert)) (fun s t => s.calTileBack d t)
  let s := s.calExpertShow d
  if held then s.calResume d else s

/-- Entries of a table of the window. -/
def tabEntries (k : Nat) : Nat := [1152, 1152, 1152, 1152, 1152, 1152, 1024, 1024, 76, 1024, 8, 5, 4].getD k 0

/-- What a read of the window returns: TRIM and TEMPSET as written last (R348), the temperature terms at the temperature last used (R331),
and σ₀ (R342). -/
def State.tabRead (s : State) (d : Nat) : Nat :=
  let k := s.rd .CAL_TAB_ADDR_TABLE d
  let t := if k = 12 then 0 else s.rd .CAL_TAB_ADDR_TILE d
  let i := s.rd .CAL_TAB_ADDR_INDEX d
  if i ≥ tabEntries k ∨ t ≥ 1664 then 0
  else if k = 4 then (s.tabAt d t tTrimNew i).getD (s.tab d t tTrim i) % 256
  else if k = 11 then (s.tabAt d t tTempNew i).getD (s.tab d t tTemp i)
  else if k = 10 ∧ i = 2 then f32Of (1 + s.gainTerm d t (s.tUsed d))
  else if k = 10 ∧ i = 3 then f32Of (s.shiftTerm d t (s.tUsed d))
  else if k = 10 ∧ i = 5 then f32Of (sigmaOf (s.ax .sigma0 d t))
  else s.tab d t k i

/-- A write of the window that R348 accepts. -/
def State.tabAccepts (s : State) (d v : Nat) : Bool :=
  let k := s.rd .CAL_TAB_ADDR_TABLE d
  let t := s.rd .CAL_TAB_ADDR_TILE d
  [0, 1, 4, 6, 7, 8, 9, 11].contains k && decide (s.rd .CAL_TAB_ADDR_INDEX d < tabEntries k ∧ t < 1664) &&
    (k != 8 || s.rdb .TIL_CTRL_PRECISION d t) && (k != 9 || (popcount 9 v == 7))

/-- An accepted write: the tile leaves firmware management; the entry acts at the next seam, or at once on a tile outside the
pipeline or once its full calibration is over (R340); TRIM, which the record space takes, and TEMPSET act at hand-back. -/
def State.tabWrite (s : State) (d v : Nat) : State :=
  let k := s.rd .CAL_TAB_ADDR_TABLE d
  let t := s.rd .CAL_TAB_ADDR_TILE d
  let i := s.rd .CAL_TAB_ADDR_INDEX d
  if !s.tabAccepts d v then s.wr .CAL_STATUS_REFUSED 1 d
  else
    let v := if k = 1 ∨ k = 7 then v % 2 ^ 32 else if k = 8 then v % 64 else if k = 9 then v % 512 else if k = 11 then v % 2 ^ 24 else v % 256
    let s := (s.updTile d t (fun x => { x with expert := true })).calExpertShow d
    if k = 4 then (s.setTab d t tTrimNew i v).setRecord d t { s.record d t with map := (s.record d t).map.set 0 i v }
    else if k = 11 then s.setTab d t tTempNew i v
    else if s.inPipe d t || s.fullRuns d t then s.setTab d t (tPend + k) i v
    else (s.setTab d t k i v).setTab d t (targetOf k) i v

/-- CAL_TAB_ADDR after an access. -/
def State.tabNext (s : State) (d : Nat) : State :=
  if s.rdb .CAL_TAB_ADDR_AUTOINC d then s.wr .CAL_TAB_ADDR_INDEX (s.rd .CAL_TAB_ADDR_INDEX d + 1) d else s

def execCalTabDataAccess (die : Nat) (a : Access) (s : State) : Res :=
  .next (if s.dieWindow die then match a with
    | .read m => (s.emit (.readData m (regAddr .CAL_TAB_DATA die) 4 (s.tabRead die))).tabNext die
    | .write o => s.order o (regAddr .CAL_TAB_DATA die) (fun s _ v => (s.tabWrite die v).tabNext die)
  else s)

def execCalCtrlHoldWrite (die : Nat) (o : Order) (s : State) : Res :=
  .next (if s.dieWindow die then s.order o (regAddr .CAL_CTRL die) (fun s _ v => s.calHold die v) else s)

def execCalCtrlClear (die : Nat) (o : Order) (s : State) : Res :=
  .next (if s.dieWindow die then s.order o (regAddr .CAL_CTRL die) (fun s _ v => s.when (v % 2 == 1) (fun s =>
    (s.wr .CAL_REJECTS_COUNT 0 die).wr .CAL_FULLS_COUNT 0 die)) else s)

def execCalCtrlHandback (die : Nat) (o : Order) (s : State) : Res :=
  .next (if s.dieWindow die then s.order o (regAddr .CAL_CTRL die) (fun s _ v => s.when (v % 2 == 1) (fun s => s.calHandback die)) else s)

/-- CAL_CTRL.TRACE reads 1 until the trace ends; one that finds the results STALE, or the engine held, waits for TRACE_DUE. -/
def State.traceAsk (s : State) (d : Nat) : State :=
  if s.rdb .CAL_CTRL_TRACE d then s
  else
    let s := s.wr .CAL_CTRL_TRACE 1 d
    if s.traceReady d then s.traceBegin d else s

def execCalCtrlTrace (die : Nat) (o : Order) (s : State) : Res :=
  .next (if s.dieWindow die then s.order o (regAddr .CAL_CTRL die) (fun s _ v => s.when (v % 2 == 1) (fun s => s.traceAsk die)) else s)

def execCalHandbackGo (die tile : Nat) (o : Order) (s : State) : Res :=
  .next (if s.tileWindow die tile then s.order o (regAddr .CAL_HANDBACK die) (fun s _ v => s.when (v % 2 == 1) (fun s =>
    (s.calTileBack die tile).calExpertShow die)) else s)

end Sys2Proof.Machine
end

