-- ==== Sys2Proof/Machine/Mirror.lean ====
section
/-!
DEFINITION. Machine/Mirror.lean: the mirror link and the pair (R434 to R450, 15_faults_recovery_and_mirroring.md). What a received
message carries is an operand of its row, since the spec does not give the layouts of the payloads (log entry 20).
-/

namespace Sys2Proof.Machine

/-! ## Roles and the link layer -/

abbrev roleNone : Nat := 0
abbrev roleActive : Nat := 1
abbrev roleStandby : Nat := 2
abbrev roleFenced : Nat := 3

/-- PAIR states: 0 UNPAIRED, 1 SYNCING, 2 SYNCED, 3 SOLO, 4 FENCED. -/
abbrev pairSyncing : Nat := 1
abbrev pairSynced : Nat := 2
abbrev pairSolo : Nat := 3
abbrev pairFenced : Nat := 4

def State.role (s : State) (f : Nat) : Nat := s.rd .MIR_FN_ROLE 0 f

def State.setRole (s : State) (f r : Nat) : State := s.wr .MIR_FN_ROLE r 0 f

/-- Functions with a role, in order. -/
def State.withRole (s : State) (r : Nat) : List Nat := allFns.filter (fun f => s.role f == r)

/-- Bitmap of functions. -/
def fnMap (l : List Nat) : Nat := sumBy l (fun f => 2 ^ f)

def State.mirEvent (s : State) (type sev payload : Nat) : State := s.event type 0xFF sev payload

/-- PAIR_TAKEOVER and PAIR_FENCED also go to the ring of each function they name (R451). -/
def State.pairEvent (s : State) (type sev : Nat) (fns : List Nat) : State :=
  (s.mirEvent type sev (fnMap fns)).each (fns.filter (· != 0)) (fun s f => s.post f type 0xFF sev 0 (fnMap fns))

/-- A sequence number is covered by an acknowledged number, modulo 2^16 (R435). -/
def ackCovers (ack seq : Nat) : Bool := decide ((ack + 2 ^ 16 - seq) % 2 ^ 16 < 2 ^ 15)

/-- Messages that have not been acknowledged are lost with the link: no acknowledgement of a commit record can come any more, and a
synchronisation under way ends undone (R436, R442, R444). -/
def State.linkLost (s : State) : State :=
  let s : State := { s with flits := [], jobs := s.jobs.map (fun j => { j with ackSeq := 2 ^ 16 }) }
  ((s.wr .MIR_STAT_WIDTH 0).wr .MIR_CTRL_RESYNC 0).setAx .syncSeq 0 |>.setAx .hbHeard 0

/-- The link goes down and retrains (R436, R451). -/
def State.mirDown (s : State) (cause : Nat) : State :=
  if s.rd .MIR_STAT_LINK ≠ 2 then s
  else (s.linkLost.wr .MIR_STAT_LINK 1).mirEvent 0x31 sevWarning cause

/-- The commits whose record the standby has acknowledged go on (R442). -/
def State.commitsAcked (s : State) (ack : Nat) : State :=
  let ids := (s.jobs.filter (fun j => j.st == .ackWait && decide (j.ackSeq < 2 ^ 16) && ackCovers ack j.ackSeq)).map (·.id)
  s.each ids (fun s i => s.commitJob i)

/-- A granted slot whose active map the partner has reported with another digest (R444). -/
def State.slotDiffers (s : State) (f k : Nat) : Bool :=
  bit (s.rd .FNQ_GRANT_SLOT f) k && s.ax .peerDigest 0 k != 0 && s.ax .peerDigest 0 k != s.mapDigest k (s.activeMap k) + 1

/-- MISMATCH and READY of a function follow the digests and whether its state has arrived whole (R444). -/
def State.refreshReady (s : State) (f : Nat) : State :=
  let bad := (List.range 64).any (fun k => s.slotDiffers f k)
  (s.wr .MIR_FN_MISMATCH (b2n bad) 0 f).wr .MIR_FN_READY (b2n (s.ax .stateWhole f != 0 && !bad)) 0 f

/-- The taking member releases PAIR_TAKE (R448). -/
def State.releaseTake (s : State) : State := (s.wr .MIR_STAT_TAKE_DRIVE 0).each allFns (fun s f => s.setAx .taken 0 f)

/-- PAIR_TAKE is released when every function that was taken is READY on the fenced member (R448). -/
def State.releaseReady (s : State) : State :=
  if s.rdb .MIR_STAT_TAKE_DRIVE && allFns.all (fun f => s.ax .taken f == 0 || s.rdb .MIR_FN_READY 0 f) then s.releaseTake else s

/-- Synchronisation ends when the state of every function for which the member is ACTIVE has been acknowledged, and that of every
function for which it is STANDBY has arrived whole (R444). -/
def State.syncEnd (s : State) : State :=
  if s.rd .MIR_STAT_PAIR = pairSyncing ∧ s.ax .syncSeq = 0 ∧ (s.withRole roleStandby).all (fun f => s.ax .stateWhole f != 0) then
    let n := ((s.withRole roleActive ++ s.withRole roleStandby).filter (fun f => s.rdb .MIR_FN_READY 0 f)).length
    let s := ((s.wr .MIR_CTRL_RESYNC 0).wr .MIR_STAT_PAIR pairSynced).wr .MIR_EPOCH_EPOCH (max (s.rd .MIR_EPOCH_EPOCH) (s.ax .syncEpoch + 1))
    (s.mirEvent 0x32 sevInfo (n + atByte 8 ((s.now - s.ax .syncAt) / 1000))).releaseReady
  else s

/-- The active member's part of a synchronisation ends when its last STATE flit is acknowledged (R444). -/
def State.syncAcked (s : State) (ack : Nat) : State :=
  let q := s.ax .syncSeq
  if q ≠ 0 ∧ ackCovers ack (q - 1) then
    ((s.setAx .syncSeq 0).each (s.withRole roleActive) (fun s f => (s.setAx .stateWhole 1 f).refreshReady f)).syncEnd
  else s

/-- Flits up to the acknowledged number are released, and those that waited behind them go out (R436). -/
def State.ackFlits (s : State) (ack : Nat) : State :=
  let s : State := { s with flits := s.flits.filter (fun f => !(f.sent && ackCovers ack f.seq)) }
  (s.pumpFlits.commitsAcked ack).syncAcked ack

/-- Answer with an acknowledgement (R435). -/
def State.sendAck (s : State) : State := s.emit (.flit (flitWord 2 1 (s.ax .flitSeq) (s.ax .flitAck) 0 0))

/-- Ask for what follows the last good sequence number (R436). -/
def State.sendNak (s : State) : State := s.emit (.flit (flitWord 3 1 (s.ax .flitSeq) (s.ax .flitAck) 0 0))

/-- A received flit (R436): one that fails its CRC is discarded and answered with NAK; a good one releases what it acknowledges. -/
def State.receive (s : State) (h : FlitHdr) (f : State → State) : State :=
  if s.rd .MIR_STAT_LINK ≠ 2 then s
  else if !h.crcOk then (s.bump .MIR_CRCERR_COUNT).sendNak
  else f (s.ackFlits h.ack)

/-- A flit of types 4 to 7, which a message takes and a replay may repeat (R436): the one that is due is applied and acknowledged; one
that came before is acknowledged again and discarded; one behind a lost flit is discarded and answered with NAK. -/
def State.receiveSeq (s : State) (h : FlitHdr) (f : State → State) : State :=
  s.receive h (fun s =>
    if h.seq % 2 ^ 16 = (s.ax .flitAck + 1) % 2 ^ 16 then (f (s.setAx .flitAck (h.seq % 2 ^ 16))).sendAck
    else if ackCovers (s.ax .flitAck) (h.seq % 2 ^ 16) then s.sendAck
    else s.sendNak)

/-- Send flits again (R436): a fourth replay of one flit takes the link down. -/
def State.replay (s : State) (p : Flit → Bool) : State :=
  let again := s.flits.filter (fun f => f.sent && p f)
  let worn := again.any (fun f => decide (f.replays ≥ 3))
  let s := s.each again (fun s f => (s.bump .MIR_REPLAY_COUNT).emitFlit f)
  let s : State := { s with
    flits := s.flits.map (fun f => if f.sent && p f then { f with replays := f.replays + 1, time := s.now } else f) }
  if worn then s.mirDown 2 else s

/-- The active map of a slot, with its image's digest and MODEL_ID (R440). -/
def State.mapMsg (s : State) (k : Nat) : StateMsg :=
  .map k (s.activeMap k) (s.mapDigest k (s.activeMap k)) (((s.mapOf k (s.activeMap k)).map (·.modelId)).getD 0)

/-- Slots whose use a function is granted. -/
def State.granted (s : State) (f : Nat) : List Nat := slotsOf (s.rd .FNQ_GRANT_SLOT f)

/-- The object of a loaded program, as its copies hold it (R208). -/
def State.progObject (s : State) (p : Prog) : List Byte :=
  match p.copies.head? with
  | some c => (List.range (64 + 8 * p.code.length + p.data.length)).map (fun i => s.byte (lpddrAddr c.1 (c.2 * 4096) + i))
  | none => []

/-- Device addresses of a declared region (R443): the first, and the number of bytes. -/
def Region.range (r : Region) : Nat × Nat := (lpddrAddr r.die (r.first * 4096), r.count * 4096)

/-- The bytes of a declared region. -/
def State.regionMsg (s : State) (r : Region) : StateMsg :=
  .region r.range.1 ((List.range r.range.2).map (fun i => s.byte (r.range.1 + i)))

/-! ## Commit of a mirrored function -/

/-- The bytes of a job's staged writes that lie in regions that its function has declared (R442). -/
def State.declaredWrites (s : State) (j : Job) : List (Nat × Byte) :=
  let rs := (s.regions.filter (fun r => r.fn == j.fn)).map Region.range
  j.outputs.filterMap (fun e => e.2.bind (fun b => if inRanges rs e.1 1 then some (e.1, b) else none))

/-- The commit record (R442). -/
def State.commitRecord (s : State) (j : Job) (n : Nat) (writes : List (Nat × Byte)) : StateMsg :=
  .commit j.id j.q n (match s.qp j.q with
    | none => 0
    | some p => BitVec.ofNat 128 (s.completionOf p n j.cid stOK j.flags j.cpost j.lateness j.cause j.restarts)) writes

/-- The commit record goes to the standby, and the job notes the number of its last flit; 2^16 where the link does not carry it. -/
def State.sendRecord (s : State) (j : Job) (n : Nat) (writes : List (Nat × Byte)) : State :=
  let s := s.mirrorState j.fn (s.commitRecord j n writes)
  s.updJob j.id (fun k => { k with ackSeq := if s.linkCarries then (s.ax .flitSeq + 65535) % 2 ^ 16 else 2 ^ 16 })

/-- The next completion slot of a pair is reserved (R442). -/
def State.reserveSlot (s : State) (q : Nat) : Nat × State :=
  match s.qp q with
  | none => (0, s)
  | some p => (p.completed, s.setQp q (some { p with completed := p.completed + 1 }))

/-- Step 2 of R442: the record reserves the completion's slot and goes to the standby, and the job waits for the acknowledgement. -/
def State.sendCommit (s : State) (j : Job) (writes : List (Nat × Byte)) : State :=
  let r := s.reserveSlot j.q
  (r.2.sendRecord j r.1 writes).updJob j.id (fun k => { k with st := .ackWait, ackAt := s.now, slotNo := some r.1 })

/-- Steps 3 to 5 of R220. For a mirrored function of a pair that synchronises or is in step the wait for the standby's acknowledgement
stands between steps 4 and 5 (R442): the writes are visible, and nothing ends or restarts the job any more (R221). -/
def State.commitOrMirror (s : State) (j : Job) : State :=
  if s.mirrored j.fn then ((s.commitStaged j.id).dropStaging j.id).sendCommit j (s.declaredWrites j)
  else s.commitJob j.id

/-! ## Synchronisation -/

/-- The whole state of a function (R440, R444): its programs and the commands and jobs that have not ended, its pairs, quotas, active
maps and declared regions, and the records of the jobs whose commit still waits. -/
def State.sendWhole (s : State) (f : Nat) : State :=
  let s := s.mirrorState f .start
  let s := s.each (s.progs.filter (fun p => p.fn == f)) (fun s p => s.journals f (.load p.handle (s.progObject p)))
  let s := s.each (s.cmds.filter (fun c => c.fn == f)) (fun s c => s.journals f (.desc c.id (BitVec.ofNat 512 c.desc)))
  let s := s.each (s.jobs.filter (fun j => j.fn == f && j.st != .ackWait)) (fun s j => s.journals f (.desc j.id (BitVec.ofNat 512 j.desc)))
  let s := ((s.each (s.pairsOf f) State.sendPointers).sendQuotas f).each (s.granted f) (fun s k => s.mirrorState f (s.mapMsg k))
  let s := s.each (s.regions.filter (fun r => r.fn == f)) (fun s r => s.mirrorState f (s.regionMsg r))
  let s := s.each (s.jobs.filter (fun j => j.fn == f && j.st == .ackWait)) (fun s j => s.sendRecord j (j.slotNo.getD 0) [])
  s.mirrorState f .whole

/-- The pair is SYNCING from now on, unless it is FENCED (R444). -/
def State.syncBegin (s : State) : State :=
  if s.rd .MIR_STAT_PAIR = pairFenced then s
  else ((s.wr .MIR_STAT_PAIR pairSyncing).setAx .syncAt s.now).setAx .syncEpoch (s.rd .MIR_EPOCH_EPOCH)

/-- Synchronisation (R444): the active member sends the whole state. A member that is ACTIVE for no function sends nothing. -/
def State.syncStart (s : State) : State :=
  if !s.linkCarries then s
  else
    let fs := s.withRole roleActive
    let s := (s.syncBegin.each fs (fun s f => (s.wr .MIR_FN_READY 0 0 f).setAx .stateWhole 0 f)).each fs State.sendWhole
    (s.setAx .syncSeq (if fs.isEmpty then 0 else s.ax .flitSeq)).syncEnd

/-! ## Takeover and fencing -/

/-- The pair leaves SYNCING or SYNCED: a synchronisation under way ends undone, and RESYNC reads 0. -/
def State.pairTo (s : State) (p : Nat) : State := ((s.wr .MIR_STAT_PAIR p).wr .MIR_CTRL_RESYNC 0).setAx .syncSeq 0

/-- The member enters SOLO (R442). -/
def State.solo (s : State) (cause : Nat) : State :=
  (s.pairTo pairSolo).mirEvent 0x35 sevWarning (cause + atByte 4 (s.rd .MIR_EPOCH_EPOCH))

/-- A job of a fenced function ends with FAILOVER: no completion, a CMD_COMPLETE record in the member's own ring (R446). -/
def State.failover (s : State) (j : Job) : State :=
  let s := s.endJobSilently j.id
  s.post j.fn 0x71 0xFF sevInfo j.vec (j.id % 2 ^ 64 + atByte 8 j.cid + atByte 10 stFailover + atByte 11 j.flags
    + atByte 12 j.q + atByte 14 j.cause)

/-- The member fences itself (R446). -/
def State.fence (s : State) : State :=
  let fs := s.withRole roleActive
  let js := s.jobs.filter (fun j => fs.contains j.fn && j.st != .ackWait)
  let s := s.each js (fun s j => s.failover j)
  let s := s.each fs (fun s f => s.setRole f roleFenced)
  (s.pairTo pairFenced).pairEvent 0x34 sevError fs

/-- The member samples PAIR_TAKE (R445): released, it asserts it and the guard of R447 begins; asserted, R446 applies. -/
def State.sampleTake (s : State) : State :=
  let s := s.setAx .rankWait 0
  if s.rdb .MIR_STAT_TAKE_SEEN then s.fence
  else ((s.wr .MIR_STAT_TAKE_DRIVE 1).bump .MIR_TAKES_COUNT).setAx .guardAt (s.now + 1)

/-- A record takes its place by queue pair and slot. -/
def insertRec (r : CommitRec) : List CommitRec → List CommitRec
  | [] => [r]
  | k :: t => if r.q < k.q ∨ (r.q = k.q ∧ r.count < k.count) then r :: k :: t else k :: insertRec r t

/-- Completions of a pair that the host has consumed, as the mirrored pointers show. -/
def State.consumed (s : State) (q : Nat) (p : QpSt) : Nat := p.completed - s.unread q

/-- The commit records of a function at or beyond the last mirrored QP_CQHEAD, in slot order (R447). -/
def State.recordsToWrite (s : State) (f : Nat) : List CommitRec :=
  (s.commits.filter (fun r => r.fn == f && (s.qp r.q).any (fun p => decide (s.consumed r.q p ≤ r.count)))).foldl (fun l r => insertRec r l) []

/-- Completions whose records are held at or beyond the last mirrored QP_CQHEAD are written, in slot order (R447). -/
def State.writeCommits (s : State) (f : Nat) : State :=
  s.each (s.recordsToWrite f) (fun s r => match s.qp r.q with
    | none => s
    | some p => (s.store (s.completionKey p r.count) 16 r.bytes).setQp r.q (some { p with completed := max p.completed (r.count + 1) }))

/-- A journalled job without a commit record is taken here (R447, R449): it counts as outstanding, and one that is to restart
carries RESTARTED. -/
def State.adopt (s : State) (e : JEntry) (restarted : Bool) : State :=
  let q := e.job / 2 ^ 45 % 2 ^ 12
  let c := { cmdOf e.fn q (e.job % 2 ^ 45) e.desc with id := e.job }
  let s := s.each (s.qp q).toList (fun s p => s.setQp q (some { p with outstanding := p.outstanding + 1 }))
  let n := s.ax .submitCount
  let j := { jobOf c n s.now with grants := s.rd .FNQ_GRANT_SLOT e.fn }
  let j := if restarted then { j with restarts := 1, flags := flRestarted, maxRestarts := s.rd .JOB_CFG_RESTARTS e.fn } else j
  { s.setAx .submitCount (n + 1) with jobs := s.jobs ++ [j] }

/-- Journalled jobs of functions that have no commit record (R447). -/
def State.unfinished (s : State) (fs : List Nat) : List JEntry :=
  s.journal.filter (fun e => fs.contains e.fn && fromByte e.desc 0 1 == opJobSubmit && !(s.commits.any (fun r => r.job == e.job)))

/-- The journal and the commit records of a function have served. -/
def State.dropRecords (s : State) (f : Nat) : State :=
  { s with journal := s.journal.filter (fun e => e.fn != f), commits := s.commits.filter (fun e => e.fn != f) }

/-- The registers of a pair return to their reset values. -/
def State.resetPair (s : State) (fn entry : Nat) : State :=
  [Reg.QP_SQBASE, .QP_CQBASE, .QP_CFG, .QP_SQTAIL, .QP_CQHEAD, .QP_STAT].foldl (fun s r => s.resetReg r fn entry) s

/-- The standby's copies of a function are discarded (R438): journal, commit records, queue pairs, programs, and the pages of declared
regions. -/
def State.dropCopies (s : State) (f : Nat) : State :=
  let s := s.dropRecords f
  let s := s.each (s.pairsOf f) (fun s q => s.each (s.qp q).toList (fun s p => (s.resetPair f p.entry).setQp q none))
  let s := s.each (s.regions.filter (fun r => r.fn == f)) (fun s r => s.freeUnits f 3 r.die r.first r.count)
  { s with regions := s.regions.filter (fun r => r.fn != f), progs := s.progs.filter (fun p => p.fn != f) }

/-- The member that takes over acts for each function it takes (R447). -/
def State.takeOver (s : State) : State :=
  let fs := (s.withRole roleStandby).filter (fun f => s.rdb .MIR_FN_READY 0 f)
  let s := s.each fs (fun s f => ((s.writeCommits f).setRole f roleActive).setAx .taken 1 f)
  let s := (s.each (s.unfinished fs) (fun s e => s.adopt e true)).each fs (fun s f => s.dropRecords f)
  let s := s.wr .MIR_EPOCH_EPOCH (s.rd .MIR_EPOCH_EPOCH + 1)
  (s.pairEvent 0x33 sevError fs).solo 2

/-! ## State that the standby receives -/

/-- The queue pointers of a mirrored pair are those of the active member (R440, R447). -/
def State.takePointers (s : State) (f : Nat) (p : PtrMsg) : State :=
  let s := s.setQp p.q (some ⟨f, p.entry, p.fetched, p.completed, 0, none⟩)
  let e := p.entry
  let s := (s.wr .QP_SQBASE_BASE p.sqBase f e).wr .QP_CQBASE_BASE p.cqBase f e
  let s := (s.wr .QP_CFG_SQLOG2 p.sqLog2 f e).wr .QP_CFG_CQLOG2 p.cqLog2 f e
  let s := (s.wr .QP_SQTAIL_INDEX p.tail f e).wr .QP_CQHEAD_INDEX p.cqHead f e
  let s := (s.wr .QP_STAT_SQHEAD p.head f e).wr .QP_STAT_STATE 1 f e
  (s.wr .QP_CFG_ENABLE 1 f e).wr .QP_CFG_FUNC f f e

/-- The partner reports the active map of a granted slot (R444): a digest that differs raises PAIR_SLOT_MISMATCH; one that agrees may
make the last function READY that PAIR_TAKE waits for (R448). -/
def State.noteMap (s : State) (f slot digest model : Nat) : State :=
  let s := ((s.setAx .peerDigest (digest + 1) 0 slot).setAx .peerModel model 0 slot).refreshReady f
  (if s.slotDiffers f slot then s.mirEvent 0x36 sevWarning (slot + atByte 1 f + atByte 8 (model % 2 ^ 64)) else s).releaseReady

/-- The standby issues the switch that matches its partner's, and reports its own map in return (R444). -/
def State.takeMap (s : State) (f slot m digest model : Nat) : State :=
  let t := if s.mapDigest slot (s.activeMap slot) = digest then s else s.slotMatch slot m
  (t.noteMap f slot digest model).sendMsg 5 (stateBytes f (t.mapMsg slot))

/-- A function's state has arrived whole (R444): it is READY where the digests agree. -/
def State.takeWhole (s : State) (f : Nat) : State := ((s.setAx .stateWhole 1 f).refreshReady f).syncEnd

/-- The partner sends a function's state whole (R444): what is held of it is of the past, and the pair is SYNCING. -/
def State.takeStart (s : State) (f : Nat) : State :=
  let s := ((s.dropCopies f).wr .MIR_FN_READY 0 0 f).setAx .stateWhole 0 f
  if s.rd .MIR_STAT_PAIR = pairSyncing then s else s.syncBegin

/-- Pages of a die that no allocation, program copy, staging page or panel holds, below the image store (R443). -/
def State.pagesFree (s : State) (d first n : Nat) : Bool :=
  decide (first + n ≤ s.pagesBelowStore d) && (s.takenRuns d).all (fun a => decide (first + n ≤ a.1) || decide (a.1 + a.2 ≤ first))

/-- The standby holds the pages of a region that the active member has declared (R443): free pages become an allocation of the
function. The answer says whether it holds them. -/
def State.holdRegion (s : State) (f d first n : Nat) : Bool × State :=
  if s.regions.contains (Region.mk f d first n) then (true, s)
  else if s.online d && s.pagesFree d first n && decide (s.held f resLpddr + n ≤ s.quota f resLpddr) then
    (true, { s.addAlloc ⟨f, 3, d, first, n⟩ with regions := s.regions ++ [Region.mk f d first n] })
  else (false, s)

/-- The bytes of a declared region (R440), where this member holds its pages. -/
def State.takeRegionBytes (s : State) (f a : Nat) (bytes : List Byte) : State :=
  let r := s.holdRegion f (devDie a) (devOff a / 4096) (cdiv bytes.length 4096)
  if r.1 then r.2.putBytes (bytes.zipIdx.map (fun e => (memKey f a + e.2, e.1))) else s

/-- One STATE message (R440, R442, R444): the standby applies it when it acknowledges it. Committed bytes reach the pages that it holds
for the function. -/
def State.takeState (s : State) (f : Nat) (m : StateMsg) : State :=
  match m with
  | .pointers p => s.takePointers f p
  | .commit job q count bytes writes =>
    let rs := (s.regions.filter (fun r => r.fn == f)).map Region.range
    let s : State := { s with commits := s.commits ++ [CommitRec.mk f job q count bytes.toNat] }
    s.putBytes ((writes.filter (fun w => inRanges rs w.1 1)).map (fun w => (memKey f w.1, w.2)))
  | .region a bytes => s.takeRegionBytes f a bytes
  | .quotas q0 q1 q2 sh g jc =>
    let s := ((s.wr .FNQ_Q0_QP (q0 / 65536) f).wr .FNQ_Q0_FEEDQ q0 f).wr .FNQ_Q1_BANKS q1 f
    let s := (((s.wr .FNQ_Q2_PAGES q2 f).wr .FNQ_SHARE_POWER (sh / 65536) f).wr .FNQ_SHARE_RT sh f).wr .FNQ_GRANT_SLOT g f
    (s.wr .JOB_CFG_WATCHDOG (jc / 65536) f).wr .JOB_CFG_RESTARTS jc f
  | .map slot m digest model => s.takeMap f slot m digest model
  | .start => s.takeStart f
  | .whole => s.takeWhole f

/-- One JOURNAL message (R440): descriptors are held, each once; journalled programs are loaded under the same handles. -/
def State.takeJournal (s : State) (f : Nat) (m : JournalMsg) : State :=
  match m with
  | .desc job d =>
    if s.journal.any (fun e => e.fn == f && e.job == job) then s else { s with journal := s.journal ++ [JEntry.mk f job d.toNat] }
  | .load h obj => s.installProg f h obj
  | .unload h => { s with progs := s.progs.filter (fun p => p.handle != h) }

/-- The command completes when the partner is ACTIVE for every named function (R449): the jobs that moved leave here. -/
def State.handoverDone (s : State) : State :=
  s.each (s.cmds.filter (fun c => c.opcode == opPairHandover && c.st == .running)) (fun s c =>
    let m := fromByte c.desc 16 16
    let fs := allFns.filter (fun f => bit m f)
    if fs.all (fun f => s.role f == roleStandby && s.ax .peerRole f == roleActive) then
      let go := s.jobs.filter (fun j => fs.contains j.fn)
      let s := (s.each go (fun s j => s.endJobSilently j.id)).each fs (fun s f => s.setAx .handing 0 f)
      (s.mirEvent 0x37 sevInfo m).completeCmd c stOK go.length
    else s)

/-- The partner refuses the handover (R432): the functions and their jobs stay here. -/
def State.handoverRefused (s : State) (st : Nat) : State :=
  s.each (s.cmds.filter (fun c => c.opcode == opPairHandover && c.st == .running)) (fun s c =>
    let fs := allFns.filter (fun f => bit (fromByte c.desc 16 16) f)
    let s := s.each fs (fun s f => (if s.role f = roleStandby ∧ s.ax .handing f = 2 then s.setRole f roleActive else s).setAx .handing 0 f)
    s.completeCmd c st 0)

/-- The partner learns that MIRRORED of a function has been cleared (R438), at once or as soon as the link carries it. -/
def State.tellUnmirrored (s : State) (f : Nat) : State :=
  if s.linkCarries then (s.setAx .untold 0 f).sendMsg 7 (orderBytes (.unmirrored f)) else s.setAx .untold 1 f

/-- After the first heartbeat that shows another rank, what was due starts (R439, R444): the partner learns of functions that are mirrored
no more, and the state goes over. A SOLO member synchronises again. -/
def State.heartbeatHeard (s : State) : State :=
  let s := (s.setAx .hbHeard 1).each (allFns.filter (fun f => s.ax .untold f != 0)) (fun s f => s.tellUnmirrored f)
  if s.ax .syncDue ≠ 0 ∨ s.rd .MIR_STAT_PAIR = pairSolo then (s.setAx .syncDue 0).syncStart else s

/-- A heartbeat of the partner (R437, R438, R439, R444, R448, R449). Over equal ranks the link carries no state until a heartbeat shows
another rank, and the state then goes over anew. -/
def State.heartbeat (s : State) (rank time : Nat) (roles : List Nat) : State :=
  let _ := time
  let s := (((((s.wr .MIR_LASTHB_TIME s.now).setAx .hbSeen 1).setAx .hbTimer 1).setAx .rankWait 0)).setAx .peerRank rank
  if rank = s.rd .MIR_CFG_RANK then
    if s.rdb .MIR_STAT_RANK_CLASH then s else ((s.wr .MIR_STAT_RANK_CLASH 1).setAx .syncDue 1).mirEvent 0x31 sevWarning 4
  else
    let s := (s.wr .MIR_STAT_RANK_CLASH 0).each roles.zipIdx (fun s e => s.setAx .peerRole e.1 e.2)
    s.heartbeatHeard.handoverDone

/-! ## Handover -/

/-- Functions named by a bitmap. -/
def fnsOf (m : Nat) : List Nat := allFns.filter (fun f => bit m f)

/-- PAIR_HANDOVER (R449): every named function must be READY and ACTIVE here. Fetch and dispatch stop; with MODE 1 running jobs end
here, to restart on the partner. The jobs that have not started wait until the partner has them. -/
def State.handover (s : State) (c : Cmd) : State :=
  let fs := fnsOf (c.b 16 16)
  let mode := c.b 32 1
  if mode > 1 ∨ fs.any (fun f => !s.rdb .MIR_FN_READY 0 f || s.role f != roleActive) then s.completeCmd c stMalformed 0
  else if s.rdb .MIR_STAT_EXPERT then s.completeCmd c stRejectedPrivilege 0
  else
    let halt := if mode = 1 then s.jobs.filter (fun j => fs.contains j.fn && j.active && j.st != .ackWait) else []
    ((s.each halt State.backToQueue).each fs (fun s f => s.setAx .handing 1 f)).cmdRunning c

/-- The roles swap once no job of the named functions runs (R449); the partner is told by an ORDER. -/
def State.handoverStep (s : State) : State :=
  s.each (s.cmds.filter (fun c => c.opcode == opPairHandover && c.st == .running)) (fun s c =>
    let fs := (fnsOf (c.b 16 16)).filter (fun f => s.role f == roleActive)
    let js := s.jobs.filter (fun j => fs.contains j.fn)
    if !fs.isEmpty && !(js.any Job.active) then
      (s.each fs (fun s f => (s.setRole f roleStandby).setAx .handing 2 f)).sendMsg 7
        (orderBytes (.handover (BitVec.ofNat 128 (fnMap fs)) (js.map (fun j => (j.id, bit j.flags 0)))))
    else s)

/-- A region is declared no more. -/
def State.undeclare (s : State) (c : Cmd) (r : Region) : State :=
  State.completeCmd { s with regions := s.regions.filter (fun k => k != r) } c stOK 0

/-- MIR_REGION (R443): pages that the function holds on the die are declared; the partner is told, and may refuse (R432). -/
def State.mirRegion (s : State) (c : Cmd) (answer : PartnerAnswer) : State :=
  let f := c.b 16 1
  let d := c.b 17 1
  let first := c.b 20 4
  let n := c.b 24 4
  let on := bit (c.b 18 1) 0
  if f ≥ 128 ∨ n = 0 ∨ !s.covers f 3 d first n then s.completeCmd c stMalformed 0
  else if s.rdb .MIR_STAT_EXPERT then s.completeCmd c stRejectedPrivilege 0
  else
    let s := s.sendMsg 7 (orderBytes (.region f d first n on))
    match answer with
    | .superseded => s.completeCmd c stRejectedSuperseded 0
    | .noRoom => if on then s.completeCmd c stRejectedQuota 0 else s.undeclare c (Region.mk f d first n)
    | .granted =>
      if on then State.completeCmd { s with regions := s.regions ++ [Region.mk f d first n] } c stOK 0
      else s.undeclare c (Region.mk f d first n)

/-- The partner declares a region or withdraws it (R443): the same pages are allocated here, charged to the function's quota, or the
order is refused. -/
def State.takeRegion (s : State) (f d first n : Nat) (on : Bool) : State :=
  if !on then
    if s.regions.contains (Region.mk f d first n) then
      State.freeUnits { s with regions := s.regions.filter (fun r => r != Region.mk f d first n) } f 3 d first n
    else s
  else
    let r := s.holdRegion f d first n
    if r.1 then r.2 else s.sendMsg 7 (orderBytes (.refused stRejectedQuota))

/-- The functions of a handover become ACTIVE here, and take the jobs that move (R449). -/
def State.takeHandover (s : State) (m : Nat) (moved : List (Nat × Bool)) : State :=
  let fs := (fnsOf m).filter (fun f => s.role f == roleStandby)
  let es := (s.unfinished fs).filterMap (fun e => (moved.find? (fun x => x.1 == e.job)).map (fun x => (e, x.2)))
  ((s.each fs (fun s f => s.setRole f roleActive)).each es (fun s e => s.adopt e.1 e.2)).each fs (fun s f => s.dropRecords f)

/-- Both roles of a function become NONE, and a standby's copies are discarded (R438). -/
def State.unmirror (s : State) (f : Nat) : State :=
  let s := if s.role f = roleStandby then s.dropCopies f else s.dropRecords f
  ((s.setRole f roleNone).wr .MIR_FN_READY 0 0 f).wr .MIR_FN_MISMATCH 0 0 f

/-- The slot or function that a mirror-link order names. -/
def orderTarget : MirOrder → Nat
  | .slotSwitch k _ => k
  | .region f _ _ _ _ => f
  | .unmirrored f => f
  | _ => 0

/-- An order of the partner (R430 to R432, R443, R444, R449): refused where a higher-ranked master gave a contrary order in
the same cycle. -/
def State.takeOrder (s : State) (m : MirOrder) (rival : Option Master) : State :=
  match rival.filter (fun r => masterRank r < masterRank .mirror) with
  | some r => (s.superseded r .mirror (orderTarget m)).sendMsg 7 (orderBytes (.refused stRejectedSuperseded))
  | none => match m with
    | .slotSwitch k mp => s.slotMatch k mp
    | .region f d first n on => s.takeRegion f d first n on
    | .handover fm l => s.takeHandover fm.toNat l
    | .unmirrored f => (s.setAx .peerRole roleNone f).unmirror f
    | .refused st => s.handoverRefused st

/-! ## Meanings -/

def execPairHandover (id : Nat) (s : State) : Res := .next (s.runCmd id opPairHandover (fun s c => s.handover c))

def execMirRegion (id : Nat) (answer : PartnerAnswer) (s : State) : Res :=
  .next (s.runCmd id opMirRegion (fun s c => s.mirRegion c answer))

/-- Roles of all functions, two bits each, for the heartbeat's payload. -/
def State.roleWord (s : State) : Nat := sumBy allFns (fun f => s.role f * 4 ^ f)

/-- The HEARTBEAT of this member (R437). -/
def State.sendHeartbeat (s : State) : State :=
  s.emit (.flit (flitWord 1 1 (s.ax .flitSeq) (s.ax .flitAck) 48
    (s.rd .MIR_CFG_RANK + atByte 4 (s.rd .MIR_EPOCH_EPOCH) + atByte 8 s.now + atByte 16 s.roleWord)))

/-- Every 100 µs (R437): a period without a heartbeat is counted, and over a link that is up a HEARTBEAT goes out ahead of all other
flits. -/
def execHeartbeatSend (s : State) : Res :=
  .next (if !s.rdb .MIR_CFG_ENABLE then s
    else
      let s := (if s.ax .hbSeen = 0 then s.bump .MIR_HBMISS_COUNT else s).setAx .hbSeen 0
      if s.rd .MIR_STAT_LINK = 2 then s.handoverStep.sendHeartbeat else s)

def execHeartbeatFlit (h : FlitHdr) (rank epoch time : Nat) (roles : List Nat) (s : State) : Res :=
  .next (s.receive h (fun s => (s.wr .MIR_EPOCH_EPOCH (max (s.rd .MIR_EPOCH_EPOCH) epoch)).heartbeat rank time roles))

def execAckFlit (h : FlitHdr) (s : State) : Res := .next (s.receive h id)

def execNakFlit (h : FlitHdr) (s : State) : Res :=
  .next (s.receive h (fun s => s.replay (fun f => !ackCovers h.ack f.seq)))

/-- A function whose mirrored state this member holds: it is STANDBY for it, or FENCED and is brought up to date (R440, R448). -/
def State.holdsState (s : State) (f : Nat) : Bool := s.role f == roleStandby || s.role f == roleFenced

def execJournalFlit (h : FlitHdr) (fn : Nat) (m : JournalMsg) (s : State) : Res :=
  .next (s.receiveSeq h (fun s => if s.holdsState fn && s.linkOpen then s.takeJournal fn m else s))

/-- The standby holds what STATE carries; the active member takes from it the maps of its partner (R440, R444). -/
def execStateFlit (h : FlitHdr) (fn : Nat) (m : StateMsg) (s : State) : Res :=
  .next (s.receiveSeq h (fun s =>
    if !s.linkOpen then s
    else if s.holdsState fn then s.takeState fn m
    else match m with
      | .map slot _ digest model => if s.role fn = roleActive then s.noteMap fn slot digest model else s
      | _ => s))

/-- A forwarded doorbell, with those of the same cycle to the same queue pair (R433, R441). -/
def State.takeBell (s : State) (fn entry v : Nat) (x : BellInfo) : State :=
  let w : Wr := ⟨.mirror, v⟩
  if s.role fn ≠ roleActive then s
  else if x.cq then s.cqHead fn entry (doorbell ⟨w, x.rivals⟩ (s.rd .QP_CQHEAD_INDEX fn entry) (2 ^ s.rd .QP_CFG_CQLOG2 fn entry)).v
  else s.sqTail fn entry (doorbell ⟨w, x.rivals⟩ (s.rd .QP_STAT_SQHEAD fn entry) (2 ^ s.rd .QP_CFG_SQLOG2 fn entry)).v

def execDoorbellFlit (h : FlitHdr) (fn entry v : Nat) (x : BellInfo) (s : State) : Res :=
  .next (s.receiveSeq h (fun s => s.takeBell fn entry v x))

def execOrderFlit (h : FlitHdr) (m : MirOrder) (rival : Option Master) (s : State) : Res :=
  .next (s.receiveSeq h (fun s => s.takeOrder m rival))

/-- A flit unacknowledged for 20 µs is replayed (R436). -/
def execFlitReplayTimer (s : State) : Res :=
  .next (if s.rd .MIR_STAT_LINK = 2 then s.replay (fun f => decide (f.time + 20000 ≤ s.now)) else s)

/-- The link has trained (R434, R444): both directions count their flits from 0 again, and the synchronisation waits for a heartbeat that
shows the ranks to differ. What is held of a mirrored function is no more up to date. -/
def State.mirTrained (s : State) (lanes : Nat) : State :=
  let s := (((s.wr .MIR_STAT_LINK 2).wr .MIR_STAT_WIDTH lanes).setAx .flitSeq 0).setAx .flitAck 65535
  let s := (s.setAx .hbHeard 0).setAx .syncDue 1
  (s.each (allFns.filter s.holdsState) (fun s f => (s.wr .MIR_FN_READY 0 0 f).setAx .stateWhole 0 f)).mirEvent 0x30 sevInfo
    (lanes + atByte 4 (s.rd .MIR_EPOCH_EPOCH))

/-- The link has trained, or has failed to (R434, R444). -/
def execMirrorLinkTrained (lanes : Nat) (s : State) : Res :=
  .next (if s.rd .MIR_STAT_LINK ≠ 1 then s
    else if lanes = 4 ∨ lanes = 8 then s.mirTrained lanes
    else (s.wr .MIR_STAT_LINK 0).mirEvent 0x31 sevWarning 3)

/-- No acknowledgement within ACK_MAX (R442). -/
def execAckTimeout (job : Nat) (s : State) : Res :=
  .next (match s.job job with
    | none => s
    | some j =>
      if j.st = .ackWait ∧ j.ackAt + 1000 * s.rd .MIR_CFG_ACK_MAX ≤ s.now then
        (if s.rd .MIR_STAT_PAIR = pairSolo then s else s.solo 1).commitJob job
      else s)

/-- 300 µs without a heartbeat, whatever the link does (R445). -/
def execHeartbeatTimeout (s : State) : Res :=
  .next (if s.ax .hbTimer ≠ 0 ∧ s.rd .MIR_LASTHB_TIME + 300000 ≤ s.now then
    let s := (s.setAx .hbTimer 0).mirDown 1
    if !s.rdb .MIR_CFG_AUTO_TAKE || (s.withRole roleStandby).isEmpty then s
    else if s.rdb .MIR_CFG_RANK then s.setAx .rankWait 1 else s.sampleTake
  else s)

def execTakeoverRankWaitEnd (s : State) : Res :=
  .next (if s.ax .rankWait = 1 ∧ s.rd .MIR_LASTHB_TIME + 450000 ≤ s.now then s.sampleTake else s)

/-- PAIR_TAKE is seen asserted (R446). -/
def execPairTakeSeen (s : State) : Res :=
  .next (if s.rdb .MIR_STAT_TAKE_DRIVE || s.rdb .MIR_STAT_TAKE_SEEN then s
    else (s.wr .MIR_STAT_TAKE_SEEN 1).fence)

/-- 20 µs after PAIR_TAKE was asserted (R447). -/
def execTakeoverGuardEnd (s : State) : Res :=
  .next (if s.ax .guardAt ≠ 0 ∧ (s.ax .guardAt - 1) + 20000 ≤ s.now then (s.setAx .guardAt 0).takeOver else s)

/-- The taking member has released PAIR_TAKE (R448). -/
def execPairTakeReleased (s : State) : Res :=
  .next (if s.rdb .MIR_STAT_TAKE_SEEN then
    let fs := s.withRole roleFenced
    let s := (s.wr .MIR_STAT_TAKE_SEEN 0).each fs (fun s f => s.setRole f roleStandby)
    if s.rd .MIR_STAT_PAIR = pairFenced then s.wr .MIR_STAT_PAIR pairSynced else s
  else s)

/-- MIR_CFG.ENABLE (R434, R438): the link trains, or goes down with the pair unpaired. -/
def State.mirEnable (s : State) (v : Nat) : State :=
  if s.rd .MIR_CFG_ENABLE = v % 2 then s
  else if v % 2 = 1 then (s.wr .MIR_CFG_ENABLE 1).wr .MIR_STAT_LINK 1
  else (((s.linkLost.setAx .hbTimer 0).wr .MIR_CFG_ENABLE 0).wr .MIR_STAT_LINK 0).wr .MIR_STAT_PAIR 0

def execMirCfgEnableWrite (o : Order) (s : State) : Res := .next (s.order o (regAddr .MIR_CFG) (fun s _ v => s.mirEnable v))

def State.mirHandback (s : State) : State :=
  ((s.wr .MIR_CFG_AUTO_TAKE 1).wr .MIR_CFG_ACK_MAX 200).wr .MIR_STAT_EXPERT 0

def execMirCfgHandback (o : Order) (s : State) : Res :=
  .next (s.order o (regAddr .MIR_CFG) (fun s _ v => s.when (v % 2 == 1) State.mirHandback))

/-- MIR_CTRL.RELEASE is an expert action (R14). -/
def execMirCtrlRelease (o : Order) (s : State) : Res :=
  .next (s.order o (regAddr .MIR_CTRL) (fun s _ v => s.when (v % 2 == 1) (fun s => (s.wr .MIR_STAT_EXPERT 1).releaseTake)))

/-- MIR_CTRL.RESYNC reads 1 while the synchronisation that it started goes on (R10, R444). -/
def State.resyncing (s : State) : Bool := s.rdb .MIR_CTRL_RESYNC

/-- RESYNC: a synchronisation starts; a further 1 has no effect until it ends (R10). A FENCED pair has no state to send. -/
def State.resync (s : State) : State :=
  if s.resyncing || !s.linkCarries || s.rd .MIR_STAT_PAIR == pairFenced then s else (s.wr .MIR_CTRL_RESYNC 1).syncStart

def execMirCtrlResync (o : Order) (s : State) : Res :=
  .next (s.order o (regAddr .MIR_CTRL) (fun s _ v => s.when (v % 2 == 1) State.resync))

def State.mirClear (s : State) : State :=
  (((s.wr .MIR_CRCERR_COUNT 0).wr .MIR_REPLAY_COUNT 0).wr .MIR_HBMISS_COUNT 0).wr .MIR_TAKES_COUNT 0

def execMirCtrlClear (o : Order) (s : State) : Res :=
  .next (s.order o (regAddr .MIR_CTRL) (fun s _ v => s.when (v % 2 == 1) State.mirClear))

/-- MIR_FNf.MIRRORED (R438): ACTIVE where the partner's role is NONE, STANDBY where the partner is ACTIVE; clearing sets both roles to
NONE and discards the standby's copies. Writing 1 again has an effect where the partner's clearing has set the role to NONE. While
PAIR_TAKE is asserted by the partner the role is FENCED (R448; log entry 130). -/
def State.setMirrored (s : State) (f v : Nat) : State :=
  if f ≥ 128 ∨ (s.rd .MIR_FN_MIRRORED 0 f = v % 2 ∧ (v % 2 = 0 ∨ s.role f ≠ roleNone)) then s
  else if v % 2 = 1 then
    let s := (s.wr .MIR_FN_MIRRORED 1 0 f).setAx .untold 0 f
    if s.rdb .MIR_STAT_TAKE_SEEN then (s.setRole f roleFenced).pairTo pairFenced
    else if s.ax .peerRole f = roleActive then s.setRole f roleStandby else s.setRole f roleActive
  else ((s.wr .MIR_FN_MIRRORED 0 0 f).unmirror f).tellUnmirrored f

def execMirFnMirroredWrite (fn : Nat) (o : Order) (s : State) : Res :=
  .next (s.order o (regAddr .MIR_FN 0 fn) (fun s _ v => s.setMirrored fn v))

end Sys2Proof.Machine
end

