-- ==== Sys2Proof/Machine/Seq.lean ====
section
/-!
DEFINITION. Machine/Seq.lean: the control, wait, scalar, predicate, descriptor and synchronisation instructions of the job
sequencers, and the commands of the dispatcher (R186 to R190, R214 to R220, R229 to R243, R246, R258 to R261;
08_fentoska_instruction_reference.md).
-/

namespace Sys2Proof.Machine

/-! ## Control (R230 to R233) -/

/-- Instructions of a row: OP and SUB. -/
def isOp (op : Nat) (w : Nat) : Bool := iOp w == op
def isInsn (op sub : Nat) (w : Nat) : Bool := iOp w == op && iSub w == sub

/-- PC + OFF32, modulo 2^17. -/
def relTarget (c : Ctx) : Nat := wrap 17 ((c.task.pc : Int) + iOff c.w)

/-- gA + OFF32, modulo 2^17 (BRI, CALLI). -/
def indTarget (c : Ctx) : Nat := wrap 17 ((c.task.gr (iBa c.w) : Int) + iOff c.w)

/-- A jump whose target must start an instruction (R210). -/
def State.checkedJump (s : State) (c : Ctx) (pc : Nat) (f : Task → Task) : State :=
  if isStart (s.codeFor c.job) pc then s.jump c pc f else s.trapAt c cBranchTarget

/-- The condition of BRC. -/
def brcTaken (c : Ctx) : Bool :=
  match iSub c.w with
  | 0 => c.task.pr (iPd c.w)
  | 1 => !c.task.pr (iPd c.w)
  | 2 => c.task.gr (iBa c.w) == 0
  | _ => c.task.gr (iBa c.w) != 0

/-- LOOP: R230, R231, R211. -/
def State.loopInsn (s : State) (c : Ctx) : State :=
  if c.task.loops.length ≥ 4 then s.trapAt c cStack
  else
    let n := c.task.gr (iBa c.w)
    if n = 0 then s.jump c (relTarget c + 1) id
    else s.retire c (fun t => { t with loops := ⟨n, c.next, relTarget c⟩ :: t.loops })

/-- ENDL. -/
def State.endlInsn (s : State) (c : Ctx) : State :=
  match c.task.loops with
  | [] => s.trapAt c cStack
  | l :: rest =>
    if l.count - 1 ≠ 0 then s.jump c l.start (fun t => { t with loops := { l with count := l.count - 1 } :: rest })
    else s.retire c (fun t => { t with loops := rest })

def State.lpopInsn (s : State) (c : Ctx) : State :=
  match c.task.loops with
  | [] => s.trapAt c cStack
  | _ :: rest => s.retire c (fun t => { t with loops := rest })

/-- CALL and CALLI (R211 before R210). -/
def State.callInsn (s : State) (c : Ctx) (pc : Nat) : State :=
  if c.task.ret.length ≥ 16 then s.trapAt c cStack
  else s.checkedJump c pc (fun t => { t with ret := c.next :: t.ret })

def State.retInsn (s : State) (c : Ctx) : State :=
  match c.task.ret with
  | [] => s.trapAt c cStack
  | pc :: rest => s.checkedJump c pc (fun t => { t with ret := rest })

/-- The job commits: every task has halted, or one ran CPOST (R220). The other tasks stop at their next instruction boundary: one that
waits inside a STITCH, RSTITCH, FENCE or SIGNAL finishes that instruction first; other waits have no effect left, and end here. -/
def State.beginCommit (s : State) (id : Nat) : State :=
  match s.job id with
  | none => s
  | some j =>
    let s := s.updJob id (fun j => { j with st := .committing })
    s.each (j.tasks.filter (fun t => t.wait.stops)) (fun s t => s.setWait id t .halted)

/-- HALT (R230, R258). -/
def State.haltInsn (s : State) (c : Ctx) : State :=
  let s := (s.retire c id).setWait c.job.id c.task .halted
  match s.job c.job.id with
  | none => s
  | some j => if j.tasks.all (fun t => t.wait == .halted) then s.beginCommit j.id else s

/-- Fields of the job context (R194, R233). -/
def State.ctxField (s : State) (c : Ctx) (k : Nat) : Nat :=
  match k with
  | 0 => c.job.fn
  | 1 => c.job.id
  | 2 => c.job.cls
  | 3 => c.job.deadline
  | 4 => b2n (s.isSys c.job)
  | 5 => c.job.handle
  | 6 => c.job.scratchBase c.task.die
  | 7 => c.job.scratchSize c.task.die
  | 8 => c.job.restarts
  | 9 => s.now
  | _ => s.rd .YOK_STITCHNO_COUNT

/-! ## Waiting (R234 to R236) -/

/-- WAIT and SWAIT (R213, R234): a fabric wait accepts only tickets of STITCH and RSTITCH. -/
def State.waitInsn (s : State) (c : Ctx) (fabric : Bool) : State :=
  let n := c.task.gr (iA c.w)
  if n = 0 then s.retire c (fun t => t.setG (iD c.w) 0)
  else if n > c.task.last ∨ (fabric ∧ !(c.task.fabric.contains n)) then s.trapAt c cTicket
  else if c.task.opened.contains n then s.setWait c.job.id c.task (.ticket n (iD c.w))
  else s.retire c (fun t => { t.setG (iD c.w) (t.resultOf n) with res := t.res.set 0 n 0 })

/-- The condition of a memory wait: 0 EQ, 1 NE, 2 GEU. -/
def memCond (k v b : Nat) : Bool := if k = 0 then v == b else if k = 1 then v != b else decide (v ≥ b)

/-- Checks of an aligned access of a task before it goes to memory: none, or the cause of the trap (R201, R243, R259). -/
def State.accessTrap (s : State) (j : Job) (a n : Nat) (write : Bool) : Option Nat :=
  if a % n ≠ 0 then some cAddress else s.scalarCheck j a n write

/-- A trap of an access: a refused bank access is counted (R367). -/
def State.accessFault (s : State) (c : Ctx) (a n cause : Nat) : State := (s.countDenied c.job a n).trapAt c cause

def State.memWait (s : State) (c : Ctx) (k : Nat) : State :=
  let a := c.task.gr (iA c.w)
  s.reading c a 8 (s.accessTrap c.job a 8 false) (fun s =>
    if memCond k (s.jobLoad c.job (jobKey c.job a) 8) (c.task.gr (iB c.w)) then s.retire c id
    else s.setWait c.job.id c.task (.mem k a 8 (c.task.gr (iB c.w))))

/-- The condition of a waiting task is evaluated again after a write to the word (R236). -/
def State.memRecheck (s : State) (r : TaskRef) : State :=
  match s.job r.job with
  | none => s
  | some j => match j.task r.task with
    | none => s
    | some t => match t.wait with
      | .mem k a n v =>
        if j.st ≠ .running ∨ s.paused 0 t.die = true then s
        else
          let c : Ctx := { job := j, task := t, w := 0, ext := 0, next := t.pc + 1, found := r.found }
          s.reading c a n (s.accessTrap j a n false) (fun s =>
            if memCond k (s.jobLoad j (jobKey j a) n) v then
              (s.setWait j.id t .run).updTask j.id t.num (fun t => { t with pc := (t.pc + 1) % 2 ^ 17 })
            else s)
      | _ => s

/-! ## Scalar arithmetic (R237 to R239) -/

/-- Signed value of a 64-bit register. -/
def s64 (v : Nat) : Int := sext 64 v

/-- ALU operations by SUB (R237, R238); operands and result are 64-bit. -/
def alu (sub a b : Nat) : Nat :=
  match sub with
  | 0 => (a + b) % 2 ^ 64
  | 1 => wrap 64 ((a : Int) - b)
  | 2 => a &&& b
  | 3 => a ||| b
  | 4 => a ^^^ b
  | 5 => a * 2 ^ (b % 64) % 2 ^ 64
  | 6 => a / 2 ^ (b % 64)
  | 7 => wrap 64 (s64 a / (2 ^ (b % 64) : Nat))
  | 8 => a * b % 2 ^ 64
  | 9 => b
  | 10 => if s64 a ≤ s64 b then a else b
  | 11 => if s64 a ≤ s64 b then b else a
  | 12 => min a b
  | 13 => max a b
  | 14 => if b = 0 then 2 ^ 64 - 1 else wrap 64 ((s64 a).tdiv (s64 b))
  | 15 => if b = 0 then 2 ^ 64 - 1 else a / b
  | 16 => if b = 0 then a else wrap 64 ((s64 a).tmod (s64 b))
  | 17 => if b = 0 then a else a % b
  | 18 => wrap 64 (s64 a * s64 b / (2 ^ 64 : Nat))
  | _ => a * b / 2 ^ 64

/-- IMM38 sign-extended to 64 bits. -/
def imm38 (w : Nat) : Nat := wrap 64 (sext 38 (iImm38 w))

/-- Second operand of form I: IMM38, or the extension word of MOVI with X = 1. -/
def immOperand (c : Ctx) : Nat := if iX c.w then c.ext else imm38 c.w

/-- Register MOV copies gA. -/
def aluReg (c : Ctx) : Nat :=
  let a := c.task.gr (iA c.w)
  if iSub c.w = 9 then a else alu (iSub c.w) a (c.task.gr (iB c.w))

/-- Conditions of CMP (R239). -/
def cmpCond (sub a b : Nat) : Bool :=
  match sub with
  | 0 => a == b
  | 1 => a != b
  | 2 => decide (s64 a < s64 b)
  | 3 => decide (s64 b ≤ s64 a)
  | 4 => decide (a < b)
  | _ => decide (b ≤ a)

/-- p7 … p0 as bits [7:0] (R239). -/
def predBits (t : Task) : Nat := sumBy (List.range 8) (fun i => b2n (t.pr i) * 2 ^ i)

/-- The predicate instructions (R239). -/
def predOp (c : Ctx) (t : Task) : Task :=
  let d := iD c.w % 8
  let a := c.task.pr (iA c.w % 8)
  let b := c.task.pr (iB c.w % 8)
  match iSub c.w with
  | 0 => t.setP d (a && b)
  | 1 => t.setP d (a || b)
  | 2 => t.setP d (a != b)
  | 3 => t.setP d (!a)
  | 4 => t.setG (iD c.w) (predBits c.task)
  | _ => (List.range 8).foldl (fun t i => t.setP i (bit (c.task.gr (iA c.w)) i)) t

/-! ## Descriptors (R240 to R242) -/

/-- Byte offset and size of a descriptor field (R197, R240). -/
def tdField (k : Nat) : Nat × Nat :=
  match k with
  | 0 => (0, 8)
  | 1 => (8, 4)
  | 2 => (12, 4)
  | 3 => (16, 4)
  | 4 => (20, 4)
  | 5 => (24, 4)
  | 6 => (28, 4)
  | 7 => (32, 4)
  | 8 => (36, 1)
  | 9 => (37, 1)
  | 10 => (38, 1)
  | 11 => (40, 8)
  | 12 => (48, 8)
  | _ => (56, 4)

/-- gGA + IMM20 sign-extended, modulo 2^64. -/
def gaImm (c : Ctx) : Nat := wrap 64 ((c.task.gr (iGa c.w) : Int) + sext 20 (iImm20 c.w))

/-- TDGET's value: zero-extended, a signed stride sign-extended. -/
def tdGet (w k : Nat) : Nat :=
  let f := tdField k
  let v := fromByte w f.1 f.2
  if 5 ≤ k ∧ k ≤ 7 then wrap 64 (sext 32 v) else v

/-- TDADD (R242). -/
def tdAdd (c : Ctx) (w : Nat) : Nat :=
  let g := c.task.gr (iGa c.w)
  let addB := fun (v : Int) => setBytes w 0 8 (wrap 64 ((tdBase w : Int) + v))
  match iSub c.w with
  | 0 => addB ((g : Int) + sext 20 (iImm20 c.w))
  | 1 => addB (tdS w 1 * g)
  | 2 => addB (tdS w 2 * g)
  | 3 => addB (tdS w 3 * g)
  | _ =>
    let w' := addB (tdS w 3 * g)
    if tdScaled w then setBytes w' 40 8 ((tdScale w + tdEntry w * g) % 2 ^ 64) else w'

/-- TDLD (R241). -/
def State.tdLoad (s : State) (c : Ctx) : State :=
  let a := gaImm c
  s.reading c a 64 (if a % 8 ≠ 0 then some cAddress else s.scalarCheck c.job a 64 false) (fun s =>
    s.retire c (fun t => t.setT (iTd c.w) ⟨s.jobLoad c.job (jobKey c.job a) 64, true⟩))

/-- A write of the task: the trap of a fault, or the state after it. -/
def State.taskWrite (s : State) (c : Ctx) (a n v : Nat) (f : Task → Task) : State :=
  match s.jobWrite c.job.id a n v with
  | .error x => s.trapAt c x
  | .ok s' => s'.retire c f

/-- TDST (R241). -/
def State.tdStore (s : State) (c : Ctx) : State :=
  let a := gaImm c
  let chk := if a % 8 ≠ 0 then some cAddress else s.scalarCheck c.job a 64 true
  match chk with
  | some x => s.accessFault c a 64 x
  | none => s.taskWrite c a 64 (c.task.tr (iTa c.w)).val id

/-! ## Memory (R243, R246, R259) -/

/-- gA + IMM38. -/
def memAddr (c : Ctx) : Nat := wrap 64 ((c.task.gr (iA c.w) : Int) + sext 38 (iImm38 c.w))

/-- Bytes of LOAD by SUB. -/
def loadBytes (sub : Nat) : Nat := if sub = 0 ∨ sub = 4 then 1 else if sub = 1 ∨ sub = 5 then 2 else if sub = 3 then 8 else 4

def State.loadInsn (s : State) (c : Ctx) : State :=
  let a := memAddr c
  let n := loadBytes (iSub c.w)
  s.reading c a n (s.accessTrap c.job a n false) (fun s =>
    let v := s.jobLoad c.job (jobKey c.job a) n
    s.retire c (fun t => t.setG (iD c.w) (if iSub c.w ≥ 4 then wrap 64 (sext (8 * n) v) else v)))

def State.storeInsn (s : State) (c : Ctx) : State :=
  let a := memAddr c
  let n := 2 ^ iSub c.w
  match s.accessTrap c.job a n true with
  | some x => s.accessFault c a n x
  | none => (s.meets c.found [(a, n)]).taskWrite c a n (c.task.gr (iD c.w)) id

/-- SCLD.E and SCLD.T (R246). A refused tracker, like a descriptor the entry does not allow, traps with DESCRIPTOR. The bits of an FP32
entry go to the register whatever their value; a UE8 entry of 255, which has no FP32 value, traps (DESIGN CHOICE, log entry 141). -/
def State.scldInsn (s : State) (c : Ctx) : State :=
  let t := c.task.tr (iTa c.w)
  let w := t.val
  if !(s.tdOk c.job t) then s.trapAt c cDescriptor
  else if iSub c.w = 0 then
    let i := c.task.gr (iGb c.w)
    let a := tdScale w + i * tdEntry w
    if !tdScaled w then s.trapAt c cDescriptor
    else if i ≥ tdSlen w then s.trapAt c cAddress
    else s.reading c a (tdEntry w) (if s.bankAllows c.job a (tdEntry w) then none else some cAddress) (fun s =>
      let v := s.jobLoad c.job (jobKey c.job a) (tdEntry w)
      if tdSue8 w ∧ v = 255 then s.trapAt c cScale
      else s.retire c (fun t => t.setG (iGa c.w) (if tdSue8 w then f32Code (.fin false (pow2 ((v : Int) - 127))) else v)))
  else if !tdTracked w then s.trapAt c cDescriptor
  else
    let scale := fun (s : State) =>
      let tr := s.trackerOf c.job (tdTracker w)
      let s := s.keepTracker c.job.id (tdTracker w)
      match (if trkRefused tr (trkLag tr) (tdFmt w) false then none else trkScale tr 0 false) with
      | none => s.trapAt c cDescriptor
      | some v => s.retire c (fun t => t.setG (iGa c.w) v)
    if (c.job.trk.get none (jobKey c.job (tdTracker w))).isSome then scale s
    else s.reading c (tdTracker w) 128 (if s.bankAllows c.job (tdTracker w) 128 then none else some cAddress) scale

/-- SIGNAL (R217, R259): a release, then an atomic update; the old value goes to gD. -/
def State.signalInsn (s : State) (c : Ctx) (f : Nat → Nat → Nat) : State :=
  let a := c.task.gr (iA c.w)
  match s.accessTrap c.job a 8 true with
  | some x => s.accessFault c a 8 x
  | none =>
    if c.task.opened ≠ [] then s.setWait c.job.id c.task .fence
    else s.reading c a 8 none (fun s =>
      let old := s.jobLoad c.job (jobKey c.job a) 8
      s.taskWrite c a 8 (f old (c.task.gr (iB c.w))) (fun t => t.setG (iD c.w) old))

/-- FENCE (R214). -/
def State.fenceInsn (s : State) (c : Ctx) : State :=
  if c.task.opened = [] then s.retire c id else s.setWait c.job.id c.task .fence

/-- A release at BAR (R217, R258): every task has reached BAR or halted, and none has an operation outstanding. -/
def State.barRelease (s : State) (id : Nat) : State :=
  match s.job id with
  | none => s
  | some j =>
    let at' := j.tasks.filter (fun t => t.wait == .bar)
    if j.st = .running ∧ at' ≠ [] ∧ at'.all (fun t => !s.paused 0 t.die) ∧ j.tasks.all (fun t => (t.wait == .bar || t.wait == .halted) && t.opened == []) then
      s.each at' (fun s t => (s.setWait id t .run).updTask id t.num (fun t => { t with pc := (t.pc + 1) % 2 ^ 17 }))
    else s

/-- EVPOST (R260): the record is posted at issue, on the vector of the job's command. -/
def State.evpostInsn (s : State) (c : Ctx) : State :=
  (s.post c.job.fn 0x70 0xFF sevInfo c.job.vec (c.task.gr (iA c.w) + atByte 8 (c.task.gr (iB c.w)))).retire c id

/-- CPOST (R261). Of two in the same cycle the value of the lower task number stands. -/
def State.cpostInsn (s : State) (c : Ctx) : State :=
  let v := c.task.gr (iA c.w) % 2 ^ 32
  let s := s.retire c id
  if c.job.st = .committing then
    if c.job.cpostAt.any (fun x => decide (c.task.num < x.1)) then
      s.updJob c.job.id (fun j => { j with cpost := v, cpostAt := j.cpostAt.map (fun x => (c.task.num, x.2)) })
    else s
  else
    let run := (c.job.tasks.filter (fun t => t.num != c.task.num && t.wait == .run)).map (·.num)
    (s.updJob c.job.id (fun j => { j with cpost := v, cpostAt := some (c.task.num, s.dt, run) })).beginCommit c.job.id

/-! ## SEQ registers -/

def State.seqRefused (s : State) (d : Nat) : State := s.wr .SEQ_STAT_REFUSED 1 d

/-- RESERVE0 (R188). -/
def State.seqReserve (s : State) (d v : Nat) : State :=
  if d ≥ s.part.dies then s else if v > 8 then s.seqRefused d else s.wr .SEQ_CFG_RESERVE0 v d

/-- DRAIN: an expert write where it changes the value (R14, R190). -/
def State.seqDrain (s : State) (d v : Nat) : State :=
  if d ≥ s.part.dies ∨ v % 2 = s.rd .SEQ_CTRL_DRAIN d then s else (s.wr .SEQ_CTRL_DRAIN (v % 2) d).wr .SEQ_STAT_EXPERT 1 d

def State.seqHandback (s : State) (d : Nat) : State :=
  if d ≥ s.part.dies then s
  else ((s.wr .SEQ_CTRL_DRAIN 0 d).wr .SEQ_CFG_RESERVE0 2 d).wr .SEQ_STAT_EXPERT 0 d

/-! ## Meanings -/

/-- The dispatcher acts on the first waiting job that it can act on (R187), while its clock runs (R456). -/
def execJobDispatch (s : State) : Res := .next (if s.paused 1 s.head then s else s.dispatchFrom s.waitingJobs)

/-- Every task of a stopped job stands at its boundary and its outstanding operations have completed (R220). The commit waits while the
core clock of the head die pauses (R456), while a channel that it writes retrains (R383), and, for its writes to host memory, while the
PCI Express link is down (R464). -/
def execJobCommit (job : Nat) (s : State) : Res :=
  .next (match s.job job with
    | none => s
    | some j =>
      if j.st = .committing ∧ s.jobQuiet job ∧ j.tasks.all (fun t => t.wait == .halted) ∧ s.ax .pcieDown = 0 ∧ s.paused 0 s.head = false
          ∧ !(j.outputs.any (fun e => s.retrains e.1 1)) then s.commitOrMirror j
      else s)

def execBarRelease (job : Nat) (s : State) : Res := .next (s.barRelease job)

def execMemoryConditionRecheck (t : TaskRef) (s : State) : Res := .next (s.memRecheck t)

def execSeqCfgWrite (die : Nat) (o : Order) (s : State) : Res :=
  .next (if s.dieWindow die then s.order o (regAddr .SEQ_CFG die) (fun s _ v => s.seqReserve die v) else s)

def execSeqCtrlDrainWrite (die : Nat) (o : Order) (s : State) : Res :=
  .next (if s.dieWindow die then s.order o (regAddr .SEQ_CTRL die) (fun s _ v => s.seqDrain die v) else s)

def execSeqCtrlHandback (die : Nat) (o : Order) (s : State) : Res :=
  .next (if s.dieWindow die then s.order o (regAddr .SEQ_CTRL die) (fun s _ v => if v % 2 = 1 then s.seqHandback die else s) else s)

def execNop (t : TaskRef) (s : State) : Res := .next (s.issue t (isOp 0x00) (fun s c => s.retire c id))

def execBr (t : TaskRef) (s : State) : Res := .next (s.issue t (isInsn 0x01 0) (fun s c => s.jump c (relTarget c) id))

def execBri (t : TaskRef) (s : State) : Res := .next (s.issue t (isInsn 0x01 1) (fun s c => s.checkedJump c (indTarget c) id))

def execBrc (t : TaskRef) (s : State) : Res :=
  .next (s.issue t (isOp 0x02) (fun s c => if brcTaken c then s.jump c (relTarget c) id else s.retire c id))

def execLoop (t : TaskRef) (s : State) : Res := .next (s.issue t (isInsn 0x03 0) State.loopInsn)

def execEndl (t : TaskRef) (s : State) : Res := .next (s.issue t (isInsn 0x03 1) State.endlInsn)

def execLpop (t : TaskRef) (s : State) : Res := .next (s.issue t (isInsn 0x03 2) State.lpopInsn)

def execCall (t : TaskRef) (s : State) : Res :=
  .next (s.issue t (isInsn 0x04 0) (fun s c => s.callInsn c (relTarget c)))

def execCalli (t : TaskRef) (s : State) : Res :=
  .next (s.issue t (isInsn 0x04 1) (fun s c => s.callInsn c (indTarget c)))

def execRet (t : TaskRef) (s : State) : Res := .next (s.issue t (isOp 0x05) State.retInsn)

def execWait (t : TaskRef) (s : State) : Res := .next (s.issue t (isInsn 0x06 0) (fun s c => s.waitInsn c false))

def execWaitEq (t : TaskRef) (s : State) : Res := .next (s.issue t (isInsn 0x06 1) (fun s c => s.memWait c 0))

def execWaitNe (t : TaskRef) (s : State) : Res := .next (s.issue t (isInsn 0x06 2) (fun s c => s.memWait c 1))

def execWaitGeu (t : TaskRef) (s : State) : Res := .next (s.issue t (isInsn 0x06 3) (fun s c => s.memWait c 2))

def execTrap (t : TaskRef) (s : State) : Res :=
  .next (s.issue t (isOp 0x07) (fun s c => s.trap c.job.id c.task.num cUser (iImm38 c.w % 256)))

def execHalt (t : TaskRef) (s : State) : Res := .next (s.issue t (isOp 0x08) State.haltInsn)

def execCtx (t : TaskRef) (s : State) : Res :=
  .next (s.issue t (isOp 0x09) (fun s c => s.retire c (fun t => t.setG (iD c.w) (s.ctxField c (iImm38 c.w % 16)))))

def execAluImmediate (t : TaskRef) (s : State) : Res :=
  .next (s.issue t (isOp 0x10) (fun s c =>
    s.retire c (fun t => t.setG (iD c.w) (alu (iSub c.w) (c.task.gr (iA c.w)) (immOperand c)))))

def execAluRegister (t : TaskRef) (s : State) : Res :=
  .next (s.issue t (isOp 0x11) (fun s c => s.retire c (fun t => t.setG (iD c.w) (aluReg c))))

def execCmp (t : TaskRef) (s : State) : Res :=
  .next (s.issue t (isOp 0x12) (fun s c =>
    s.retire c (fun t => t.setP (iD c.w % 8) (cmpCond (iSub c.w) (c.task.gr (iA c.w)) (c.task.gr (iB c.w))))))

def execCmpi (t : TaskRef) (s : State) : Res :=
  .next (s.issue t (isOp 0x13) (fun s c =>
    s.retire c (fun t => t.setP (iD c.w % 8) (cmpCond (iSub c.w) (c.task.gr (iA c.w)) (imm38 c.w)))))

def execPredicateOp (t : TaskRef) (s : State) : Res :=
  .next (s.issue t (isOp 0x14) (fun s c => s.retire c (predOp c)))

/-- TDSET: OP 0x18, SUB 0–13. -/
def execTdset (t : TaskRef) (s : State) : Res :=
  .next (s.issue t (fun w => isOp 0x18 w && decide (iSub w < 14)) (fun s c =>
    s.retire c (fun t =>
      let f := tdField (iSub c.w)
      t.setT (iTd c.w) ⟨setBytes (t.tr (iTd c.w)).val f.1 f.2 (gaImm c), true⟩)))

def execTdget (t : TaskRef) (s : State) : Res :=
  .next (s.issue t (isOp 0x1A) (fun s c =>
    s.retire c (fun t => t.setG (iGa c.w) (tdGet (t.tr (iTa c.w)).val (iSub c.w)))))

def execTdld (t : TaskRef) (s : State) : Res := .next (s.issue t (isInsn 0x18 14) State.tdLoad)

def execTdst (t : TaskRef) (s : State) : Res := .next (s.issue t (isInsn 0x18 15) State.tdStore)

def execTdcpy (t : TaskRef) (s : State) : Res :=
  .next (s.issue t (isInsn 0x18 16) (fun s c => s.retire c (fun t => t.setT (iTd c.w) (t.tr (iTa c.w)))))

def execTdinv (t : TaskRef) (s : State) : Res :=
  .next (s.issue t (isInsn 0x18 17) (fun s c =>
    s.retire c (fun t => t.setT (iTd c.w) { t.tr (iTd c.w) with valid := false })))

def execTdadd (t : TaskRef) (s : State) : Res :=
  .next (s.issue t (isOp 0x19) (fun s c =>
    s.retire c (fun t => t.setT (iTd c.w) { t.tr (iTd c.w) with val := tdAdd c (t.tr (iTd c.w)).val })))

def execLoad (t : TaskRef) (s : State) : Res := .next (s.issue t (isOp 0x20) State.loadInsn)

def execStore (t : TaskRef) (s : State) : Res := .next (s.issue t (isOp 0x21) State.storeInsn)

def execScldE (t : TaskRef) (s : State) : Res := .next (s.issue t (isInsn 0x25 0) State.scldInsn)

def execScldT (t : TaskRef) (s : State) : Res := .next (s.issue t (isInsn 0x25 1) State.scldInsn)

def execSwait (t : TaskRef) (s : State) : Res := .next (s.issue t (isOp 0x2A) (fun s c => s.waitInsn c true))

def execBar (t : TaskRef) (s : State) : Res :=
  .next (s.issue t (isOp 0x38) (fun s c => s.setWait c.job.id c.task .bar))

def execFence (t : TaskRef) (s : State) : Res := .next (s.issue t (isOp 0x39) State.fenceInsn)

def execSignalSet (t : TaskRef) (s : State) : Res :=
  .next (s.issue t (isInsn 0x3A 0) (fun s c => s.signalInsn c (fun _ b => b)))

def execSignalAdd (t : TaskRef) (s : State) : Res :=
  .next (s.issue t (isInsn 0x3A 1) (fun s c => s.signalInsn c (fun a b => (a + b) % 2 ^ 64)))

def execSignalMaxu (t : TaskRef) (s : State) : Res :=
  .next (s.issue t (isInsn 0x3A 2) (fun s c => s.signalInsn c max))

def execEvpost (t : TaskRef) (s : State) : Res := .next (s.issue t (isInsn 0x3B 0) State.evpostInsn)

def execCpost (t : TaskRef) (s : State) : Res := .next (s.issue t (isInsn 0x3B 1) State.cpostInsn)

end Sys2Proof.Machine
end

