-- ==== Sys2Proof/Machine/Hem.lean ====
section
/-!
DEFINITION. Machine/Hem.lean: the Hem: outputs of a forward stitch, of the wide rerun and of a reverse stitch, residuals,
converter failures, statistics (R113 to R131), the column check (R67), and the HEM and GLB_CAPACITY registers.
-/

namespace Sys2Proof.Machine

/-! ## Outputs (R118 to R121, R129, R131) -/




/-- d of a physical column. -/
def State.colD (s : State) (d t : Nat) (codes : List (Option Nat)) (p : Nat) : Rat := residue (codeAt codes p) (s.tab d t tOfs p)

/-- v of logical output j (R118). -/
def State.hemOut (s : State) (d t : Nat) (codes : List (Option Nat)) (k : Val) (j : Nat) : Val :=
  let part := fun p => fmul (fmul (.ofRat (s.colD d t codes p)) (f32Val (s.tab d t tRes p))) k
  let tc := part (s.servingCol d t (coarseCol j))
  let tf := part (s.servingCol d t (fineCol j))
  fadd ((Val.fin false 16).mul tc) tf

/-- The outputs in use of a tile, as FP32 patterns. -/
def State.hemOuts (s : State) (d t : Nat) (codes : List (Option Nat)) (k : Val) : List Nat :=
  (List.range (s.rd .TIL_EXTENT_COLS_M1 d t + 1)).map (fun j => f32Code (s.hemOut d t codes k j))

/-- The row results of one sub-phase of a reverse stitch, before they are combined (R131), as FP32 patterns. -/
def State.hemRevs (s : State) (d t : Nat) (codes : List (Option Nat)) (k : Val) : List Nat :=
  (List.range (s.rd .TIL_EXTENT_ROWS_M1 d t + 1)).map (fun r =>
    f32Code (fmul (fmul (.ofRat (residue (codeAt codes r) (s.tab d t tRevOfs r))) (f32Val (s.tab d t tRevRes r))) k))

/-- Conversion of a Hem value: S32 carries 8 fractional bits (R120). -/
def hemConv (f : Nat) (v : Val) : Conv := if f = fS32 then convert f (v.mul (.fin false 256)) else convert f v

/-- The value that a code of the Hem stands for, in units of σ_out. -/
def hemVal (f c : Nat) : Rat := if f = fS32 then (valOf f c).rat / 256 else (valOf f c).rat

/-- A value into S32 (R129): the integer, and whether it saturated. -/
def intoS32 (v : Val) : Int × Bool := let c := convert fS32 v; (sext 32 c.code, c.sat)

/-- P_U, P_L and V of an output of a wide rerun: V × 2⁻¹⁶, and whether a step saturated (R129). -/
def rerunVal (u l : Val) : Val × Bool :=
  let pu := intoS32 (u.mul (.fin false (2 ^ 17)))
  let pl := intoS32 (l.mul (.fin false (2 ^ 13)))
  let v := intoS32 (.ofRat ((pu.1 + pl.1 : Int) : Rat))
  (.ofRat ((v.1 : Rat) / 65536), pu.2 || pl.2 || v.2)

/-- A row of a reverse stitch: 16 × (sum of sub-phases 0 to 3) + (sum of sub-phases 4 to 7), in FP32 (R62). -/
def revVal (l : List Val) : Val :=
  let sum := fun (x : List Val) => x.foldl fadd (.fin false 0)
  fadd ((Val.fin false 16).mul (sum (l.take 4))) (sum (l.drop 4))

/-! ## Statistics (R124) -/

/-- An addend enters a pair; when a member would overflow, the pair holds (R124). `q`: MSEQ; otherwise MSEREF. -/
def State.mseAdd (s : State) (d t : Nat) (q : Bool) (n : Nat) : State :=
  let fs := if q then Field.HEM_MSEQ_SUM_SUM else .HEM_MSEREF_SUM_SUM
  let fc := if q then Field.HEM_MSEQ_CNT_COUNT else .HEM_MSEREF_CNT_COUNT
  if s.ax .mseHeld d t (b2n q) = 1 then s
  else if s.rd fs d t + n ≥ 2 ^ 64 ∨ s.rd fc d t + 1 ≥ 2 ^ 32 then s.setAx .mseHeld 1 d t (b2n q)
  else (s.wr fs (s.rd fs d t + n) d t).wr fc (s.rd fc d t + 1) d t

/-- Outputs of a tile are written: HEM_OSAT, and HEM_MSEQ while it is enabled. Each output comes with whether a step before its
conversion saturated. -/
def State.countOuts (s : State) (d t f : Nat) (outs : List (Val × Bool)) : State :=
  s.each outs (fun s o =>
    let c := hemConv f o.1
    if c.sat || o.2 then s.bump .HEM_OSAT_COUNT 1 d t
    else if s.rdb .HEM_CFG_MSE_Q d t && !c.nan then
      let e := o.1.rat - hemVal f c.code
      s.mseAdd d t true (rne (e * e * 2 ^ 32))
    else s)

/-! ## Converters, reference columns, checks (R67, R113, R115, R122, R123) -/

/-- Slots of converter k in use. -/
def slotsOfConv (k : Nat) : List Nat := (List.range 16).map (fun m => 16 * k + m)

/-- Converters in use with a conversion that did not finish. -/
def lateConvs (codes : List (Option Nat)) : List Nat :=
  (List.range 72).filter (fun k => (slotsOfConv k).any (fun p => (codes.getD p none).isNone))

/-- R115's count of stitches with the same codes, for a stitch whose row codes have this sum; the answer names the converters
that reach 256. -/
def State.sameCodes (s : State) (d t : Nat) (codes : List (Option Nat)) (sum : Int) : State × List Nat :=
  let x := s.tile d t
  if x.lastSum = some sum then (s, [])
  else
    let kept := fun k => (slotsOfConv k).all (fun p => x.lastCodes.get 2048 p == codeAt codes p)
    let n := fun k => if kept k then x.same.get 0 k + 1 else 1
    let s := s.updTile d t (fun x => { x with
      lastSum := some sum,
      same := (List.range 72).foldl (fun m k => m.set 0 k (n k)) x.same,
      lastCodes := (List.range 1152).foldl (fun m p => m.set 2048 p (codeAt codes p)) x.lastCodes })
    (s, (List.range 72).filter (fun k => decide (n k = 256)))

/-- The reference columns of a forward stitch: block, q in quarters, d, expected code e and residual (R122); none where the
converter saturated. A conversion that did not finish gives 512, which is no saturation (R115). X is the sum of the row codes. -/
def State.residuals (s : State) (d t : Nat) (codes : List (Option Nat)) (x : Int) : List (Nat × Nat × Rat × Val × Val) :=
  (List.range 64).filterMap (fun b =>
    let p := s.servingCol d t (18 * b + 16)
    if saturated codes p then none
    else
      let dd := s.colD d t codes p
      let e := fdiv (.ofRat (7 * (refQ b : Rat) / 4 * (x : Rat))) (f32Val (s.tab d t tRes p))
      some (b, refQ b, dd, e, fsub (.ofRat dd) e))

/-- Residuals beyond TOL: REF_FAILS, and the blocks whose reference column has failed (R123). A stitch on which no residual is formed
leaves the run of a reference column as it is (log entry 124). -/
def State.refCheck (s : State) (d t : Nat) (l : List (Nat × Nat × Rat × Val × Val)) : State × List Nat :=
  let tol : Rat := (s.rd .HEM_REFCHK_TOL d t : Nat)
  let out := fun (r : Nat × Nat × Rat × Val × Val) => match r.2.2.2.2 with
    | .fin _ m => decide (m > tol)
    | .inf _ => true
    | .nan => false
  let s := if l.any out then s.bump .HEM_REFCHK_REF_FAILS 1 d t else s
  let run := (s.tile d t).refRun
  let run' := l.foldl (fun m r => m.set 0 r.1 (if out r then run.get 0 r.1 + 1 else 0)) run
  (s.updTile d t (fun x => { x with refRun := run' }),
    (l.filter (fun r => out r && decide (run'.get 0 r.1 ≥ 16))).map (·.1))

/-- A residual enters HEM_MSEREF: an infinite one would overflow the sum, so the pair holds; one that is no number adds nothing (log entry
154). -/
def State.mseRef (s : State) (d t : Nat) (r : Val) : State :=
  match r with
  | .fin _ m => s.mseAdd d t false (rne (m * m * 2 ^ 16))
  | .inf _ => s.setAx .mseHeld 1 d t (b2n false)
  | .nan => s

/-- What the residuals add to the statistics (R124) and to the drift accumulators of a SERVING tile (R332). -/
def State.refSums (s : State) (d t : Nat) (l : List (Nat × Nat × Rat × Val × Val)) : State :=
  let s := if s.rdb .HEM_CFG_MSE_REF d t then s.each l (fun s r => s.mseRef d t r.2.2.2.2) else s
  if s.tst d t ≠ tsServing then s
  else
    let use := l.filter (fun r => decide (r.2.1 > 0) && r.2.2.2.1.isFin)
    s.updTile d t (fun x => { x with
      sde := use.foldl (fun a r => a + r.2.2.1 * r.2.2.2.1.rat) x.sde,
      see := use.foldl (fun a r => a + r.2.2.2.1.rat * r.2.2.2.1.rat) x.see,
      n := x.n + use.length })

/-- Saturations of the data columns in use of a forward stitch (R126, HEM_CSAT). -/
def State.csat (s : State) (d t : Nat) (codes : List (Option Nat)) : Nat :=
  ((List.range (s.rd .TIL_EXTENT_COLS_M1 d t + 1)).map (fun j =>
    b2n (saturated codes (s.servingCol d t (coarseCol j))) + b2n (saturated codes (s.servingCol d t (fineCol j))))).foldl (· + ·) 0

/-- M_p − E_p of data column p in a column check with code x (R67). -/
def State.checkErr (s : State) (d t : Nat) (codes : List (Option Nat)) (x : Int) (p : Nat) : Rat :=
  let c := s.servingCol d t p
  let w := s.colScale d t p
  (if w = 0 then 0 else s.colD d t codes c * s.tabF d t tRes c / w) - ((x * (s.tile d t).sums.get 0 p : Int) : Rat)

/-- The data columns that fail a column check (R67). -/
def State.checkFails (s : State) (d t : Nat) (codes : List (Option Nat)) (x : Int) : List Nat :=
  let lim : Rat := (s.rd .TIL_CHECK_TOL d t : Nat) * 8 * (lsbUnits (s.rd .HEM_CFG_RANGE d t) : Nat)
  ((List.range 1152).filter isData).filter (fun p =>
    let e := |s.checkErr d t codes x p|
    decide ((if colPos p % 2 = 0 then 16 * e else e) > lim))

/-- A column check has ended (R67, R68, R115, R342): its counts, the converters that fail, and the columns that fail alone. -/
def State.checkEnd (s : State) (d t : Nat) (codes : List (Option Nat)) (x : Int) : State × List Nat × List Nat :=
  let bad := s.checkFails d t codes x
  let s := if bad = [] then s.wr .TIL_LASTGOOD_TIME s.now d t else s.bump .TIL_CHECK_FAILS 1 d t
  let data := (List.range 1152).filter isData
  let sq : Rat := if x = 0 then 0 else
    (data.foldl (fun a p => a + (s.checkErr d t codes x p / x) * (s.checkErr d t codes x p / x)) 0) / 1024
  let s := s.updTile d t (fun y => { y with checks := y.checks + 1, checkSq := y.checkSq + sq })
  let convs := (List.range 72).filter (fun k => decide ((bad.filter (fun p => s.servingCol d t p / 16 == k)).length ≥ 4))
  (s, convs, bad.filter (fun p => !(convs.contains (s.servingCol d t p / 16))))

/-! ## HEM registers -/

/-- The Hem of a tile leaves firmware management. -/
def State.hemExpert (s : State) (d t : Nat) : State := s.setAx .hemExpert 1 d t

/-- RANGE that the tile has, or that waits for a seam. -/
def State.rangeNow (s : State) (d t : Nat) : Nat := if s.ax .pendRange d t = 0 then s.rd .HEM_CFG_RANGE d t else s.ax .pendRange d t - 1

/-- A write of HEM_CFG (R107, R124). -/
def State.hemCfg (s : State) (d t v : Nat) : State :=
  let s := (s.wr .HEM_CFG_MSE_REF (v / 2) d t).wr .HEM_CFG_MSE_Q v d t
  if v / 4 % 4 = s.rangeNow d t then s else (s.hemExpert d t).setRange d t (v / 4)

/-- A write of HEM_TAPS: 40 to 63 is refused (R110). -/
def State.hemTaps (s : State) (d t v : Nat) : State :=
  if v / 64 % 64 ≥ 40 ∨ v % 64 ≥ 40 then s.wr .TIL_STATUS_REFUSED 1 d t
  else if v % 4096 = s.tapsNow d t then s
  else (s.hemExpert d t).setTaps d t (v % 4096)

/-- HEM_CTRL.CLEAR (R124). -/
def State.hemClear (s : State) (d t : Nat) : State :=
  let s := [Field.HEM_CSAT_COUNT, .HEM_OSAT_COUNT, .HEM_RERUN_COUNT, .HEM_RSAT_COUNT, .HEM_REFCHK_REF_FAILS, .HEM_MSEREF_SUM_SUM,
    .HEM_MSEREF_CNT_COUNT, .HEM_MSEQ_CNT_COUNT, .HEM_MSEQ_SUM_SUM].foldl (fun s f => s.wr f 0 d t) s
  (s.setAx .mseHeld 0 d t 0).setAx .mseHeld 0 d t 1

/-- The placement's RANGE and LIMIT; without a placement, the reset values. -/
def State.placeHem (s : State) (d t : Nat) : Nat × Nat :=
  match (s.placeOf d t).bind (fun p => (s.mapOf p.slot p.map).bind (fun m => m.layer p.layer)) with
  | some l => (l.range, l.limit)
  | none => (2, 8)

/-- HEM_CTRL.HANDBACK: the taps keep the values that the calibration engine goes on from. -/
def State.hemHandback (s : State) (d t : Nat) : State :=
  let p := s.placeHem d t
  (((((s.setRange d t p.1).wr .HEM_SAT_LIMIT p.2 d t).wr .HEM_REFCHK_TOL 6 d t).setAx .hemExpert 0 d t).takeFull d t)

def execHemCfgWrite (die tile : Nat) (o : Order) (s : State) : Res :=
  .next (if s.tileWindow die tile then s.order o (regAddr .HEM_CFG die tile) (fun s _ v => s.hemCfg die tile v) else s)

def execHemTapsWrite (die tile : Nat) (o : Order) (s : State) : Res :=
  .next (if s.tileWindow die tile then s.order o (regAddr .HEM_TAPS die tile) (fun s _ v => s.hemTaps die tile v) else s)

def execHemCtrlClear (die tile : Nat) (o : Order) (s : State) : Res :=
  .next (if s.tileWindow die tile then s.order o (regAddr .HEM_CTRL die tile) (fun s _ v =>
    s.when (v % 2 == 1) (fun s => s.hemClear die tile)) else s)

def execHemCtrlHandback (die tile : Nat) (o : Order) (s : State) : Res :=
  .next (if s.tileWindow die tile then s.order o (regAddr .HEM_CTRL die tile) (fun s _ v =>
    s.when (v % 2 == 1) (fun s => s.hemHandback die tile)) else s)

/-! ## Latching reads (R32, R125, R535) -/

/-- Latch a word for the function of a master. -/
def State.setLatch (s : State) (m : Master) (addr v : Nat) : State :=
  { s with latch := s.latch.set none (Nat.pair (masterKey m) addr) (some v) }

/-- A master that reaches the PF's register space: the PF itself and the chain (R26, R388). -/
def reachesPf : Master → Bool
  | .pf => true
  | .chain => true
  | _ => false

end Sys2Proof.Machine
end

