-- ==== Sys2Proof/Machine/Feed.lean ====
section
/-!
DEFINITION. Machine/Feed.lean: the feed queues: the checks and postings of STITCH and RSTITCH (R248 to R250), what may fire
(R57, R69, R168, R171, R178, R180), and the row codes that the tile feeders load (R127, R167).
-/

namespace Sys2Proof.Machine

/-! ## Layers -/

/-- Feed queues granted to a function, lowest first. -/
def State.feedQueues (s : State) (fn : Nat) : List Nat :=
  (List.range 8192).filter (fun q => s.allocs.any (fun a => a.fn == fn && a.kind == 1 && decide (a.first ≤ q ∧ q < a.first + a.count)))

/-- Row blocks and column blocks of a layer's tiles. -/
def rowBlksOf (l : List Placed) : List Nat := (l.map (·.rowBlk)).eraseDups
def colBlksOf (l : List Placed) : List Nat := (l.map (·.colBlk)).eraseDups

/-- Rows in use of a row block, and outputs in use of a column block. -/
def rowsIn (l : List Placed) (i : Nat) : Nat := ((l.find? (fun p => p.rowBlk == i)).map (fun p => p.rowsM1 + 1)).getD 0
def colsIn (l : List Placed) (j : Nat) : Nat := ((l.find? (fun p => p.colBlk == j)).map (fun p => p.colsM1 + 1)).getD 0

/-- Input and output width of a layer (R248). -/
def inputWidth (l : List Placed) : Nat := sumBy (rowBlksOf l) (rowsIn l)
def outputWidth (l : List Placed) : Nat := sumBy (colBlksOf l) (colsIn l)

/-- The request adds partial sums (R270). -/
def addsUp (rev : Bool) (l : List Placed) : Bool := decide ((if rev then colBlksOf l else rowBlksOf l).length > 1)

/-! ## Posting (R248 to R250) -/

/-- Slot and layer that a fabric instruction names. -/
def iSlot (w : Nat) : Nat := bits w 19 14
def iLayer (w : Nat) : Nat := bits w 13 4

/-- The trap of steps 1 and 2 of R248. A running job keeps its use grants (R410). -/
def State.stitchTrap (s : State) (c : Ctx) : Option Nat :=
  let ta := c.task.tr (iTa c.w)
  let td := c.task.tr (iTd c.w)
  if !(s.tdOk c.job ta) || !(s.tdOk c.job td) || (tdScaled td.val && !tdTracked td.val) then some cDescriptor
  else if !(bit c.job.slots (iSlot c.w)) || !(bit c.job.grants (iSlot c.w)) || (s.layerTiles (iSlot c.w) (iLayer c.w)).isEmpty
      || ((s.feedQueues c.job.fn)[c.task.gr (iGa c.w)]?).isNone then some cAddress
  else match s.tdAccess c.job ta.val false with
    | some x => some x
    | none => s.tdAccess c.job td.val true

/-- The tiles of a layer differ in span, full scale or RANGE (R86, R108). -/
def State.tilesDiffer (s : State) (l : List Placed) : Bool :=
  match l with
  | [] => false
  | p :: t => t.any (fun q => s.rd .DRV_CFG_SPAN q.die q.tile != s.rd .DRV_CFG_SPAN p.die p.tile
      || s.rd .DRV_CFG_FS q.die q.tile != s.rd .DRV_CFG_FS p.die p.tile
      || s.rd .HEM_CFG_RANGE q.die q.tile != s.rd .HEM_CFG_RANGE p.die p.tile)

/-- Formats that the Hem writes (R119). -/
def hemFmt (f : Nat) : Bool :=
  f == fS8 || f == fS16 || f == fS32 || f == fE4M3 || f == fBF16 || f == fFP16 || f == fFP32

/-- Requests on one tracker of a job, and steps of it that are done and not yet recorded, that stand before a request: the tracker
records its steps in their order (R147). -/
def State.trkBehind (s : State) (job a no : Nat) : Nat :=
  (s.reqs.filter (fun q => q.job == job && !q.dead && tdScaled q.out && tdTracker q.out == a && decide (q.no < no))).length
    + (((s.job job).map (fun j => (j.steps.filter (fun k => k.trk == a && decide (k.no < no))).length)).getD 0)

/-- Step 3 of R248, with the differences of R250. -/
def State.stitchMalformed (s : State) (c : Ctx) (rev : Bool) : Bool :=
  let ta := (c.task.tr (iTa c.w)).val
  let td := (c.task.tr (iTd c.w)).val
  let l := s.layerTiles (iSlot c.w) (iLayer c.w)
  let bip := match l with
    | p :: _ => s.rdb .DRV_CFG_SPAN p.die p.tile
    | [] => true
  s.tilesDiffer l || tdFmt ta != (if bip then fS8 else fU8) || tdAsym ta || tdAsym td
    || (if rev then tdFmt td != fS32 || tdScaled td
        else !(hemFmt (tdFmt td)) || (addsUp false l && tdFmt td != fS32) || s.trackerRefused c.job td (s.trkBehind c.job.id (tdTracker td) (2 ^ 64)) true)
    || tdD ta 0 != (if rev then outputWidth l else inputWidth l) || tdD td 0 != (if rev then inputWidth l else outputWidth l)
    || tdD ta 1 != 1 || tdD ta 2 != 1 || tdD td 1 != 1 || tdD td 2 != 1 || tdD ta 3 != tdD td 3

/-- Requests that stand in a feed queue. -/
def State.inQueue (s : State) (q : Nat) : Nat := (s.reqs.filter (fun r => r.queue == q && r.st == .queued && !r.dead)).length

def State.stitchReq (s : State) (no : Nat) : Option Req := s.reqs.find? (fun r => r.no == no)

/-- Post the request of one step (R249). -/
def State.postReq (s : State) (c : Ctx) (rev : Bool) (queue step : Nat) : State :=
  let k := s.nextIssue
  let s := k.2
  let r : Req := { no := k.1, job := c.job.id, task := c.task.num, ticket := c.task.last + 1, fn := c.job.fn, rev := rev,
                   slot := iSlot c.w, layer := iLayer c.w, step := step, queue := queue, cls := c.job.cls,
                   deadline := rankDeadline c.job.deadline, inp := (c.task.tr (iTa c.w)).val, out := (c.task.tr (iTd c.w)).val,
                   sin := f1, sout := f1, st := .queued, map := s.activeMap (iSlot c.w), firedAt := 0, left := 0, parts := [], sat := 0, flags := 0, since := s.now, dead := false }
  ({ s with reqs := s.reqs ++ [r] } : State).repairHurry r.slot r.layer r.deadline

/-- A layer that can no longer fire ends the job that posts for it, and a reverse stitch over a tile whose reverse path is lost
faults it (R73, R74, R250). -/
def State.layerLost (s : State) (c : Ctx) (rev : Bool) : Option State :=
  let l := s.layerTiles (iSlot c.w) (iLayer c.w)
  if l.any (fun p => s.tst p.die p.tile == tsRetired) then some (s.loseJob c.job.id)
  else if rev && l.any (fun p => s.rdb .TIL_STATUS_REV_LOST p.die p.tile) then some (s.faultJob c.job.id cUnit)
  else none

/-- Post requests from a step on while the queue has room (R249): with the last one the ticket is written; with a full queue
the task stalls. -/
def State.postFrom (c : Ctx) (rev : Bool) (queue : Nat) : Nat → Nat → State → State
  | fuel, k, s =>
    if k ≥ tdD (c.task.tr (iTa c.w)).val 3 then
      let s := if c.task.wait = .run then s else s.setWait c.job.id c.task .run
      s.issueTicket c (iGb c.w) true
    else match s.layerLost c rev with
      | some t => t
      | none =>
        if s.inQueue queue ≥ 32 then s.setWait c.job.id c.task (.feed (c.task.last + 1) queue k)
        else match fuel with
          | 0 => s.setWait c.job.id c.task (.feed (c.task.last + 1) queue k)
          | f + 1 => State.postFrom c rev queue f (k + 1) (s.postReq c rev queue k)

/-- STITCH and RSTITCH. The tracker that the checks have read is the job's from here on (R148). -/
def State.stitchIssue (s : State) (c : Ctx) (rev : Bool) : State :=
  if c.task.full then s
  else match s.stitchTrap c with
    | some x => s.tensorTrap c.job c.task.num x [(c.task.tr (iTa c.w)).val, (c.task.tr (iTd c.w)).val]
    | none =>
      if s.stitchMalformed c rev then s.endJob c.job.id stMalformed
      else match s.layerLost c rev with
        | some t => t
        | none =>
          let q := ((s.feedQueues c.job.fn)[c.task.gr (iGa c.w)]?).getD 0
          let x : Tix := { job := c.job.id, task := c.task.num, ticket := c.task.last + 1,
                           left := tdD (c.task.tr (iTa c.w)).val 3, flags := 0 }
          let s := if tdScaled (c.task.tr (iTd c.w)).val then s.keepTracker c.job.id (tdTracker (c.task.tr (iTd c.w)).val) else s
          State.postFrom c rev q 33 0 { s with tix := s.tix ++ [x] }

def execStitch (t : TaskRef) (s : State) : Res := .next (s.issue t (fun w => iOp w == 0x28) (fun s c => s.stitchIssue c false))

def execRstitch (t : TaskRef) (s : State) : Res := .next (s.issue t (fun w => iOp w == 0x29) (fun s c => s.stitchIssue c true))

/-- The context of a task that stalls on a full feed queue, also while its job commits (R220 step 1). -/
def State.feedCtx (s : State) (j : Job) (t : Task) : Option (Ctx × Nat × Nat) :=
  match t.wait with
  | .feed _ q k => if j.st ≠ .running ∧ j.st ≠ .committing then none else match insnAt (s.codeFor j) t.pc with
    | some (w, e, n) => some (⟨j, t, w, e, n, Found.none⟩, q, k)
    | none => none
  | _ => none

/-- Stalled tasks post what their queues have room for. -/
def State.feedPump (s : State) : State :=
  s.each (s.jobs.flatMap (fun j => j.tasks.filterMap (s.feedCtx j))) (fun s e =>
    (State.postFrom e.1 (iOp e.1.w == 0x29) e.2.1 33 e.2.2 s).stopAgain e.1)

/-! ## What may fire -/

/-- The tile may fire for requests: SERVING, with no failed element (R69), on a die that fires (R103, R166). -/
def State.tileFires (s : State) (d t : Nat) : Bool :=
  s.tst d t == tsServing && !(s.tile d t).blocked && s.online d && !(bit (s.rd .YOK_STATUS_FOLLOWER_OFF) d) && !s.playing d t

/-- The feed barrier of R57 and R69: a tile of the layer is not SERVING, or waits for its spare converter. -/
def State.layerHeld (s : State) (l : List Placed) : Bool := l.any (fun p => s.tst p.die p.tile != tsServing || (s.tile p.die p.tile).blocked)

/-- The job's present attempt has fired on the slot's active map (R178). -/
def State.firedOn (s : State) (slot job : Nat) : Bool := (s.job job).any (fun j => bit j.onMap slot)

/-- The feed barrier of R178. -/
def State.drained (s : State) (r : Req) : Bool := s.switchPossible r.slot && !s.firedOn r.slot r.job

/-- Tile firings that a share allows in an accounting window; none for no limit (R408). -/
def State.shareLimit (s : State) (share : Nat) : Option Nat :=
  if share = 0xFFFF then none else some (share * (s.mappable * s.rd .YOK_ACCT_WINDOW) / 65536)

/-- The power share in force for a function in a slot, and its real-time share: a cut waits (R180, R409). -/
def State.powerShare (s : State) (fn slot : Nat) : Nat :=
  if s.ax .powerOld fn slot = 0 then s.rd .FNQ_SHARE_POWER fn else s.ax .powerOld fn slot - 1

def State.rtShare (s : State) (fn : Nat) : Nat := if s.ax .rtOld fn = 0 then s.rd .FNQ_SHARE_RT fn else s.ax .rtOld fn - 1

/-- Firings have reached a limit. -/
def reached (n : Nat) : Option Nat → Bool
  | none => false
  | some l => decide (n ≥ l)

/-- The request is held under R180. -/
def State.powerHeld (s : State) (r : Req) : Bool := reached (s.ax .firings r.fn 0 0) (s.shareLimit (s.powerShare r.fn r.slot))

/-- The class under which a request is selected (R171). -/
def State.classOf (s : State) (r : Req) : Nat :=
  if r.cls = 0 ∧ reached (s.ax .firings r.fn 0 1) (s.shareLimit (s.rtShare r.fn)) = true then 1 else r.cls

/-- Die whose array adds a request's partial sums: the one that holds tTD; for host memory, the task's (R270). -/
def State.addDie (s : State) (r : Req) : Nat :=
  if devRegion (tdBase r.out) = 2 then (((s.job r.job).bind (·.task r.task)).map (·.die)).getD s.head else devDie (tdBase r.out)

/-- Entries of a die's addition queue that are taken: queued additions, and those of requests that have fired (R168, R272). -/
def State.addCount (s : State) (d : Nat) : Nat :=
  (s.ops.filter (fun o => o.unit == .add && o.die == d)).length
    + (s.reqs.filter (fun q => q.st != .queued && q.st != .adding && !q.dead
        && addsUp q.rev ((s.mapTiles q.slot q.map).filter (fun p => p.layer == q.layer)) && s.addDie q == d)).length

def State.addFull (s : State) (r : Req) : Bool := decide (s.addCount (s.addDie r) ≥ 256)

/-- The tracker of R147 lets the step derive its scale: step n − 1 − LAG has been recorded. -/
def State.trkReady (s : State) (r : Req) : Bool :=
  !tdScaled r.out || (match s.job r.job with
    | none => false
    | some j => decide (s.trkBehind r.job (tdTracker r.out) r.no ≤ trkLag (s.trackerOf j (tdTracker r.out))))

/-- Every block of the layer has its tile in the active map (R53). -/
def State.layerWhole (s : State) (slot layer : Nat) : Bool :=
  match (s.mapOf slot (s.activeMap slot)).bind (fun m => m.layer layer) with
  | some y => y.blocks.all (fun b => (s.layerTiles slot layer).any (fun p => p.rowBlk == b.1 && p.colBlk == b.2))
  | none => true

/-- The tiles of a request may fire (R53, R57, R69). -/
def State.tilesReady (s : State) (r : Req) : Bool :=
  let l := s.layerTiles r.slot r.layer
  !l.isEmpty && l.all (fun p => s.tileFires p.die p.tile) && s.layerWhole r.slot r.layer

/-- R168 but for the codes and for tiles taken in the stitch. -/
def State.mayFire (s : State) (r : Req) : Bool :=
  !r.dead && s.tilesReady r && !s.powerHeld r && !s.drained r && s.trkReady r
    && !(addsUp r.rev (s.layerTiles r.slot r.layer) && s.addFull r)

/-- Order of R169 among requests: class, deadline, feed queue, arrival. Requests without a deadline rank among themselves in
order of issue, as R405 says, and not by feed queue (log entry 135). -/
def State.reqBefore (s : State) (a b : Req) : Bool :=
  let ca := s.classOf a
  let cb := s.classOf b
  let queue := fun (r : Req) => if r.deadline = 2 ^ 64 - 1 then 0 else r.queue
  decide (ca < cb) || (ca == cb && (decide (a.deadline < b.deadline) || (a.deadline == b.deadline &&
    (decide (queue a < queue b) || (queue a == queue b && decide (a.no < b.no))))))

def insertReq (s : State) (r : Req) : List Req → List Req
  | [] => [r]
  | a :: t => if s.reqBefore r a then r :: a :: t else a :: insertReq s r t

/-- The queued requests in the order of R169. -/
def State.queuedReqsInOrder (s : State) : List Req :=
  (s.reqs.filter (fun r => r.st == .queued && !r.dead)).foldr (insertReq s) []

/-! ## Row codes (R85, R127) -/

/-- Code i of the input of a request's step. -/
def State.reqCode (s : State) (j : Job) (r : Req) (i : Nat) : Int :=
  let b := (s.jobByte j (jobKey j (tdRow r.inp 0 0 r.step + i))).toNat
  if tdFmt r.inp = fS8 then sext 8 b else b

/-- The code that a driver drives (R85). -/
def driven (x : Int) : Int := if x = -128 then -127 else x

/-- Row codes of the passes (R127). -/
def passCode (s8 lower : Bool) (x : Int) : Int :=
  let x := driven x
  let h := if s8 then (x + 8) / 16 else x / 16
  if lower then 8 * (x - 16 * h) else 8 * h

/-- What a stitch of a request drives on a tile: row codes, pass codes, or the column codes of sub-phase `sub` of a reverse
stitch (R61). A void request drives zeros. -/
def State.codesFor (s : State) (r : Req) (p : Placed) (what : FWhat) (sub : Nat) : List Int :=
  match s.job r.job with
  | none => []
  | some j =>
    if r.dead then []
    else match what with
      | .reverse => (List.range 128).map (fun i =>
          let c := 128 * (sub % 4) + i
          if c ≤ p.colsM1 then s.reqCode j r (512 * p.colBlk + c) else 0)
      | w => (List.range (p.rowsM1 + 1)).map (fun i =>
          let x := s.reqCode j r (1024 * p.rowBlk + i)
          match w with
          | .passU => passCode (tdFmt r.inp == fS8) false x
          | .passL => passCode (tdFmt r.inp == fS8) true x
          | _ => x)

/-- The mark of a load in the shadow registers. -/
def shadowMark (no : Nat) (what : FWhat) : Nat := 4 * no + (match what with
  | .passU => 1
  | .passL => 2
  | _ => 0)

/-- What a request fires next. -/
def Req.next (r : Req) : FWhat := if r.rev then .reverse else if r.left = 2 then .passU else if r.left = 1 then .passL else .forward

/-- Passes that are due, oldest first: in the order in which their requests were posted (R169, log entry 134). -/
def State.duePasses (s : State) : List Req := s.reqs.filter (fun r => r.st == .passDue && !r.dead)

/-- Tiles of a request: those of its layer in the map on which it fires or fired. -/
def State.reqTiles (s : State) (r : Req) : List Placed :=
  let m := if r.st = .queued then s.activeMap r.slot else r.map
  s.placed.filter (fun p => p.slot == r.slot && p.map == m && p.layer == r.layer)

/-- The bytes of a request's input that the feeder of a tile reads: address and length. -/
def Req.feeds (r : Req) (p : Placed) : Nat × Nat :=
  (tdRow r.inp 0 0 r.step + (if r.rev then 512 * p.colBlk else 1024 * p.rowBlk), if r.rev then p.colsM1 + 1 else p.rowsM1 + 1)

/-- FEEDER_LOAD_DONE: the codes of the most urgent request that needs the tile (R167). An error in the input faults the job (R372, R381,
R387); a load does not end while the clock of the die pauses, or a channel that it reads retrains (R383, R456). -/
def execFeederLoadDone (die : Nat) (x : FeedRef) (s : State) : Res :=
  .next (let cands := s.duePasses ++ s.queuedReqsInOrder.filter s.mayFire
    let here := fun (p : Placed) => p.die == die && p.tile == x.tile
    match cands.find? (fun r => (s.reqTiles r).any here) with
    | none => s
    | some r => match s.job r.job, (s.reqTiles r).find? here with
      | some j, some p =>
        let a := r.feeds p
        if s.paused 2 die || s.retrains a.1 a.2 then s
        else
          let y := s.jobRead j x.found a.1 a.2
          match y.1 with
          | some c => y.2.faultJob r.job c
          | none => y.2.updTile die x.tile (fun t => { t with
              shadow := some (shadowMark r.no r.next), shadowCodes := y.2.codesFor r p r.next 0 })
      | _, _ => s)

end Sys2Proof.Machine
end

