-- ==== Sys2Proof/Machine/Yoke.lean ====
section
/-!
DEFINITION. Machine/Yoke.lean: the strobe of a stitch: its content and split, its window, and what fires (R61, R84 to R92, R161
to R175, R179 to R184); the followers (R165, R166); and the YOK registers.
-/

namespace Sys2Proof.Machine

/-! ## Currents (R172) -/

/-- V_lsb of a tile in V (R84). -/
def State.vLsb (s : State) (d t : Nat) : Rat :=
  ((100 + 50 * s.rd .DRV_CFG_FS d t : Nat) : Rat) / 1000 / (if s.rdb .DRV_CFG_SPAN d t then 127 else 255)

def sumAbs (l : List Int) : Nat := (l.map (fun x => (driven x).natAbs)).foldl (· + ·) 0

/-- G_t in S: the mean over the rows in use; `gTotal` counts in G_u / 4. -/
def State.gMean (s : State) (d t : Nat) : Rat :=
  ((s.tile d t).gTotal : Rat) / 4 / ((s.rd .TIL_EXTENT_ROWS_M1 d t + 1 : Nat) : Rat) / 2000000

/-- G_c in S: the mean over the data columns in use. -/
def State.gcMean (s : State) (d t : Nat) : Rat :=
  ((s.tile d t).gcTotal : Rat) / ((2 * (s.rd .TIL_EXTENT_COLS_M1 d t + 1) : Nat) : Rat) / 2000000

/-- The columns are driven and the rows converted: a reverse stitch, or the reverse path of a full calibration, whose stitches carry
sub-phase 1 (R61, R335). -/
def revPeriod (what : FWhat) (sub : Nat) : Bool := what == .reverse || (what == .cal && sub == 1)

/-- Predicted current of a tile in A. -/
def State.tileCurrent (s : State) (d t : Nat) (what : FWhat) (sub : Nat) (codes : List Int) : Rat :=
  (if revPeriod what sub then s.gcMean d t else s.gMean d t) * s.vLsb d t * (sumAbs codes : Nat)

/-! ## Content of a stitch (R169 to R175) -/

/-- Something that fires: what, its request (0 for a check or calibration stitch), the sub-phase, and tiles with their codes. -/
structure Fire where
  what : FWhat
  req : Nat
  sub : Nat
  /-- It repeats a stitch under R92. -/
  again : Bool
  tiles : List (Nat × Nat × List Int)
  deriving Repr

/-- The stitch as it is being filled: tiles in use by global ID, phase of each group placed (1 A, 2 B; key 64 * die + group),
currents (key 2 * die + phase − 1), and the dies whose full addition queue has kept a request out. -/
structure Pick where
  s : State
  fires : List Fire
  used : List Nat
  phase : SMap Nat
  load : SMap Rat
  full : List Nat

/-- Currents by strobe group. -/
def State.groupLoads (s : State) (f : Fire) : SMap Rat :=
  f.tiles.foldl (fun m e => let g := 64 * e.1 + e.2.1 / 32
    m.put g (m.get 0 g + s.tileCurrent e.1 e.2.1 f.what f.sub e.2.2)) []

/-- Requests picked for the stitch whose partial sums a die adds (R272). -/
def Pick.adds (p : Pick) (d : Nat) : Nat :=
  (p.fires.filter (fun f => p.s.reqs.any (fun r => r.no == f.req && r.st == .queued && f.what != .check && f.what != .cal
    && addsUp r.rev (p.s.layerTiles r.slot r.layer) && p.s.addDie r == d))).length

/-- Place the groups of a candidate (R172, R175). The groups of one request are taken in rising order of die and group (DESIGN CHOICE, log entry
153). -/
def placeGroups (budget : Rat) (split : Bool) (phase : SMap Nat) (load : SMap Rat) : SMap Rat → SMap Nat × SMap Rat
  | [] => (phase, load)
  | (g, a) :: t =>
    let d := g / 64
    let ph := match phase.get 0 g with
      | 0 => if !split || decide (load.get 0 (2 * d) + a ≤ budget) then 1 else 2
      | k => k
    placeGroups budget split (phase.put g ph) (load.put (2 * d + ph - 1) (load.get 0 (2 * d + ph - 1) + a)) t

/-- Tiles of a candidate are free: not used in this stitch, with a sample buffer free (R109), and on dies that fire (R166). -/
def Pick.free (p : Pick) (f : Fire) : Bool :=
  f.tiles.all (fun e => !(p.used.contains (gid e.1 e.2.1)) && decide ((p.s.tile e.1 e.2.1).flights.length < 2)
    && p.s.online e.1 && !(bit (p.s.rd .YOK_STATUS_FOLLOWER_OFF) e.1) && !p.s.playing e.1 e.2.1)

/-- Add a candidate if its tiles are free and R172 admits it; a reverse stitch under way is never left out (R170), and the first
of the stitch is never deferred (R173). -/
def Pick.add (p : Pick) (f : Fire) (forced : Bool) : Pick :=
  if !p.free f then p
  else
    let budget : Rat := (p.s.rd .YOK_IBUDGET_BUDGET : Nat) / 8
    let x := placeGroups budget (p.s.rdb .YOK_CTRL_SPLIT_EN) p.phase p.load (p.s.groupLoads f)
    let over' := x.2.any (fun e => decide (e.2 > budget))
    let take := fun (s : State) => { p with s := s, fires := p.fires ++ [f], used := p.used ++ f.tiles.map (fun e => gid e.1 e.2.1),
                                            phase := x.1, load := x.2 }
    if !over' then take p.s
    else if p.fires.isEmpty then take (p.s.bump .YOK_OVERBUDGET_COUNT)
    else if forced then take p.s
    else { p with s := p.s.when (f.what != .cal) (fun s => s.bump .YOK_DEFERRED_COUNT) }

/-- The codes of a tile's firing: those that stand in its shadow registers (R88); a later sub-phase of a reverse stitch, and a repeat,
take them anew (log entry 99). -/
def State.fireCodes (s : State) (r : Req) (p : Placed) (what : FWhat) (sub : Nat) (again : Bool) : List Int :=
  let x := s.tile p.die p.tile
  if what != .reverse && !again && x.shadow == some (shadowMark r.no what) then x.shadowCodes else s.codesFor r p what sub

/-- The firing of a request on all its tiles. -/
def State.reqFire (s : State) (r : Req) (what : FWhat) (sub : Nat) (again : Bool) : Fire :=
  { what := what, req := r.no, sub := sub, again := again,
    tiles := (s.reqTiles r).map (fun p => (p.die, p.tile, s.fireCodes r p what sub again)) }

/-- The codes of the stitch stand in the shadow registers of every tile (R88). -/
def State.codesStand (s : State) (r : Req) (what : FWhat) : Bool :=
  (s.reqTiles r).all (fun p => (s.tile p.die p.tile).shadow == some (shadowMark r.no what))

/-- σ_in and σ_out of a request: none for a scale fault; a job whose Hem output step knows no scale, or whose
tracker is refused at this step, ends with MALFORMED (R145, R146, R149, R150). A UE8 entry's value is the scale used. -/
inductive Scales where
  | fault
  | unknown
  | ok (sin sout : Nat)
  deriving DecidableEq, Repr

def State.scalesOf (s : State) (r : Req) : Scales :=
  match s.job r.job with
  | none => .fault
  | some j =>
    if (tdScaled r.inp && decide (tdSlen r.inp ≠ tdD r.inp 3)) || (tdScaled r.out && decide (tdSlen r.out ≠ tdD r.out 3)) then .fault
    else match s.tdSigma j r.inp r.step with
      | none => .fault
      | some a =>
        if !tdScaled r.out then .ok (f32Of a) f1
        else
          let t := s.trackerOf j (tdTracker r.out)
          let lag := trkLag t - s.trkBehind r.job (tdTracker r.out) r.no
          match (if trkRefused t lag (tdFmt r.out) true then none else trkScale (trkWithLag t lag) 0 true) with
          | none => .unknown
          | some c => if (scaleEntry false c).isNone then .fault else .ok (f32Of a) (if tdSue8 r.out then f32Code (.fin false (scaleOut true c).2) else c)

/-- A tile of the request has lost its reverse path (R74). -/
def State.revLost (s : State) (r : Req) : Bool := (s.reqTiles r).any (fun q => s.rdb .TIL_STATUS_REV_LOST q.die q.tile)

/-- A queued request at its turn: it is added, or its job faults or ends for want of a scale (R149, R150). -/
def Pick.tryReq (p : Pick) (no : Nat) : Pick :=
  match p.s.reqs.find? (fun r => r.no == no) with
  | none => p
  | some r =>
    let s := p.s
    let l := s.layerTiles r.slot r.layer
    let base := !r.dead && s.tilesReady r && s.codesStand r r.next && !s.powerHeld r && !s.drained r && s.trkReady r
    if !base then p
    else if r.rev && s.revLost r then { p with s := s.faultJob r.job cUnit }
    else
      let f := s.reqFire r r.next 0 false
      let d := s.addDie r
      if addsUp r.rev l && decide (s.addCount d + p.adds d ≥ 256) then
        if p.full.contains d || !p.free f then p
        else { p with s := s.bump .DGA_ADDFULL_COUNT 1 d, full := d :: p.full }
      else match s.scalesOf r with
        | .fault => { p with s := s.faultJob r.job cScale }
        | .unknown => { p with s := s.endJob r.job stMalformed }
        | .ok a b =>
          let p' := p.add f false
          if p'.fires.length = p.fires.length then p'
          else
            let n := r.fn
            let s : State := { p'.s with reqs := p'.s.reqs.map (fun q => if q.no = no then { q with sin := a, sout := b } else q) }
            { p' with s := if s.classOf r = 0 then s.setAx .firings (s.ax .firings n 0 1 + l.length) n 0 1 else s }

/-- A pass that is due, or a repeat (R92, R128). -/
def Pick.tryPass (p : Pick) (no : Nat) : Pick :=
  match p.s.reqs.find? (fun r => r.no == no) with
  | none => p
  | some r =>
    if r.st = .repeatDue then p.add (p.s.reqFire r r.next 0 true) false
    else if p.s.codesStand r r.next then p.add (p.s.reqFire r r.next 0 false) false
    else p

/-- A reverse stitch under way fires its next sub-phase, or repeats it (R61, R92, R170). Where a tile of it has lost its reverse path
meanwhile, its job faults (R250), and the request runs out void. -/
def Pick.tryRev (p : Pick) (r : Req) : Pick :=
  let p := if !r.dead && p.s.revLost r then { p with s := p.s.faultJob r.job cUnit } else p
  match p.s.stitchReq r.no with
  | none => p
  | some r => p.add (p.s.reqFire r .reverse (8 - r.left) (r.st == .repeatDue)) true

/-- A check stitch on a tile that still takes it (R67). -/
def Pick.tryCheck (p : Pick) (c : Check) : Pick :=
  if p.s.tileFires c.die c.tile then
    p.add { what := .check, req := 0, sub := 0, again := false,
            tiles := [(c.die, c.tile, List.replicate (p.s.rd .TIL_EXTENT_ROWS_M1 c.die c.tile + 1) c.x)] } false
  else p

/-- Calibration stitch `done` runs the reverse path (R335). -/
def calReverse (full : Bool) (done : Nat) : Bool := full && decide (1264 ≤ done ∧ done < 1520)

/-- Code and lines driven of calibration stitch `done` (R334, R335; log entry 30): rows, or in the reverse path the outputs that the column
drivers drive, the eight sub-phases first at input 0 and then at +64. -/
def calCode (full : Bool) (done rows cols : Nat) : Int × Nat :=
  if !full then (if done < 8 then 0 else if done < 16 then 64 else -64, rows)
  else if done < 16 then (0, rows)
  else if done < 112 then ((if (done - 16) % 2 = 0 then 1 else -1) * (if done < 48 then 32 else if done < 80 then 64 else 127), rows)
  else if done < 1264 then (127, 1)
  else if done < 1392 then (0, cols)
  else if done < 1520 then (64, cols)
  else (64, rows)

/-- Stitches of a calibration (R334, R335). -/
def State.calStitches (s : State) (c : CalRun) : Nat :=
  if !c.full then 24 else if s.precise c.die c.tile then 2032 else 1520

/-- A calibration stitch (R334). -/
def Pick.tryCal (p : Pick) (c : CalRun) : Pick :=
  let st := p.s.tst c.die c.tile
  if c.left > 0 ∧ (st = tsServing ∨ st = tsHeld ∨ st = tsStaged) ∧ p.s.playing c.die c.tile = false then
    let rows := p.s.rd .TIL_EXTENT_ROWS_M1 c.die c.tile + 1
    let done := p.s.calStitches c - c.left
    let x := calCode c.full done rows (p.s.rd .TIL_EXTENT_COLS_M1 c.die c.tile + 1)
    p.add { what := .cal, req := c.since, sub := b2n (calReverse c.full done), again := false, tiles := [(c.die, c.tile, List.replicate x.2 x.1)] } false
  else p

/-- The content of the stitch, in the order of R169. -/
def State.content (s : State) : Pick :=
  let p : Pick := { s := s, fires := [], used := [], phase := [], load := [], full := [] }
  let p := (s.reqs.filter Req.partway).foldl Pick.tryRev p
  let p := (s.reqs.filter (fun r => r.st == .repeatDue && !r.rev && !r.dead)).foldl (fun p r => p.tryPass r.no) p
  let p := s.duePasses.foldl (fun p r => p.tryPass r.no) p
  let p := (s.checks.filter (fun c => !c.fired && decide (c.urgentAt < s.now))).foldl Pick.tryCheck p
  let p := s.queuedReqsInOrder.foldl (fun p r => p.tryReq r.no) p
  let p := (s.checks.filter (fun c => !c.fired && !decide (c.urgentAt < s.now))).foldl Pick.tryCheck p
  s.cals.foldl Pick.tryCal p

/-! ## The window (R89 to R92, R164, R174) -/

/-- Codes of the row drivers that a firing drives: a reverse stitch leaves the rows at zero. -/
def rowCodes (what : FWhat) (sub : Nat) (codes : List Int) : List Int := if revPeriod what sub then [] else codes.map driven

/-- The largest row change of a tile. -/
def maxChange (a b : List Int) : Nat :=
  ((List.range (max a.length b.length)).map (fun i => (a.getD i 0 - b.getD i 0).natAbs)).foldl max 0

/-- Ticks until every row of a tile has reached its target (R90). -/
def State.rampTicks (s : State) (d t : Nat) (codes : List Int) : Nat :=
  cdiv (maxChange codes (s.tile d t).active) (max 1 (s.rd .DRV_SLEW_STEP d t)) * (s.rd .DRV_SLEW_RATE d t + 1)

/-- A stitch's timing: each firing tile's phase and settle time, W_A, S_B and W. -/
structure Window where
  wa : Nat
  sb : Nat
  w : Nat
  split : Bool

/-- The phase of a tile's group. -/
def phaseOf (phase : SMap Nat) (d t : Nat) : Nat := phase.get 0 (64 * d + t / 32)

/-- W of a stitch in ticks (R164, R174). -/
def State.window (s : State) (p : Pick) : Window :=
  let all := p.fires.flatMap (fun f => f.tiles.map (fun e =>
    (phaseOf p.phase e.1 e.2.1, s.rampTicks e.1 e.2.1 (rowCodes f.what f.sub e.2.2) + 16)))
  let mx := s.rd .YOK_SETTLE_MAX
  let of' := fun k => max 24 (min mx (((all.filter (fun e => e.1 == k)).map (·.2)).foldl max 24))
  let split := all.any (fun e => e.1 == 2)
  let wa := of' 1
  let sb := of' 2
  { wa := wa, sb := sb, w := if split then max (wa + 56) sb else wa, split := split }

/-- A row of the tile still ramps when the window opens (R92). -/
def State.outruns (s : State) (p : Pick) (w : Window) (f : Fire) (e : Nat × Nat × List Int) : Bool :=
  decide (s.rampTicks e.1 e.2.1 (rowCodes f.what f.sub e.2.2) > (if phaseOf p.phase e.1 e.2.1 = 2 then w.sb else w.wa))

/-! ## Firing -/

/-- A tile fires: its drivers, its counts, its outstanding conversions, and the job that fired on it. LASTRAMP shows the settle time of
R90 also where it lies below 24, the least value of its table (log entry 121). -/
def State.fireTile (s : State) (f : Fire) (job : Option (Nat × Nat)) (drop : Bool) (out : List (Nat × Nat)) (e : Nat × Nat × List Int) : State :=
  let d := e.1
  let t := e.2.1
  let rows := rowCodes f.what f.sub e.2.2
  let s := s.wr .DRV_STAT_LASTRAMP (s.rampTicks d t rows + 16) d t
  let s := s.bump .DRV_CLAMP_COUNT (e.2.2.filter (fun x => x == -128)).length d t
  let s := if out.contains (d, t) then s.bump .DRV_OUTRUN_COUNT 1 d t else s
  let s := if revPeriod f.what f.sub then s else s.wr .TIL_STITCHES_COUNT (s.rd .TIL_STITCHES_COUNT d t + 1) d t
  let s := if f.what = .passU ∧ !f.again then s.bump .HEM_RERUN_COUNT 1 d t else s
  s.updTile d t (fun x => { x with
    active := rows, shadow := none,
    flights := x.flights ++ [{ what := f.what, req := f.req, sub := f.sub, codes := e.2.2.map driven, drop := drop, place := s.placeOf d t, kept := none }],
    fired := match job with
      | some j => x.fired.filter (fun k => k.1 != j.1) ++ [(j.1, j.2, s.now)]
      | none => x.fired })

/-- Causes of STALE_CAL that a request takes from a tile (R341): cause 7 counts for reverse stitches only. -/
def State.staleOn (s : State) (rev : Bool) (d t : Nat) : Bool :=
  let c := (s.tile d t).causesAt
  if rev then c != 0 else c % 128 != 0

/-- The request after its stitch has fired. A stitch whose rows still ramped is discarded, and repeats (R92). -/
def Req.fired (r : Req) (map no flags : Nat) (discard : Bool) : Req :=
  let first := r.st == RStat.queued
  let left := if first && r.rev then 8 else r.left
  let r := { r with flags := addFlag r.flags flags, map := map, firedAt := no,
                    sat := if first then 0 else r.sat, parts := if first then [] else r.parts }
  if discard then { r with st := .repeatDue, left := left }
  else if r.rev then { r with st := .fired, left := left - 1 }
  else if left = 2 then { r with st := .passDue, left := 1 }
  else if left = 1 then { r with st := .passFired, left := 0 }
  else { r with st := .fired }

/-- One firing of the stitch takes effect. -/
def State.fire (s : State) (p : Pick) (w : Window) (thr : Bool) (f : Fire) : State :=
  let out := (f.tiles.filter (s.outruns p w f)).map (fun e => (e.1, e.2.1))
  match f.what with
  | .check =>
    let s := s.each f.tiles (fun s e => s.fireTile f none (!out.isEmpty) out e)
    { s with checks := s.checks.map (fun c => if f.tiles.any (fun e => e.1 == c.die && e.2.1 == c.tile) then { c with fired := out.isEmpty } else c) }
  | .cal =>
    let s := s.each f.tiles (fun s e => s.fireTile f none (!out.isEmpty) out e)
    { s with cals := s.cals.map (fun c => if out.isEmpty ∧ f.tiles.any (fun e => e.1 == c.die && e.2.1 == c.tile) then
        { c with left := c.left - 1 } else c) }
  | _ =>
    match s.reqs.find? (fun r => r.no == f.req) with
    | none => s
    | some r =>
      let j := (s.job r.job).map (fun j => (j.id, j.restarts))
      let stale := f.tiles.any (fun e => s.staleOn r.rev e.1 e.2.1)
      let fl := (if w.split then flSplit else 0) + (if thr then flThrottled else 0) + (if stale && out.isEmpty then flStaleCal else 0)
      let map := if r.st = .queued then s.activeMap r.slot else r.map
      let s := s.each f.tiles (fun s e => s.fireTile f (if r.dead then none else j) (!out.isEmpty) out e)
      let s := s.setAx .firings (s.ax .firings r.fn 0 0 + f.tiles.length) r.fn 0 0
      let s := if r.st ≠ .queued ∧ s.classOf r = 0 then s.setAx .firings (s.ax .firings r.fn 0 1 + f.tiles.length) r.fn 0 1 else s
      let s : State := { s with reqs := s.reqs.map (fun q =>
        if q.no = r.no then q.fired map (s.rd .YOK_STITCHNO_COUNT) fl (!out.isEmpty) else q) }
      if r.dead then s
      else (s.updJob r.job (fun j => { j with onMap := setBit j.onMap r.slot true })).addJobFlag r.job fl

/-- Tiles that do not fire drive zeros (R49, R89); a running playback keeps its tile's outputs (R103). -/
def State.restOthers (s : State) (used : List Nat) : State :=
  { s with tiles := s.tiles.filterMap (fun e =>
      if used.contains e.1 || e.2.active.isEmpty || s.playing (e.1 / 2048) (e.1 % 2048) then some e
      else
        let x := { e.2 with active := [] }
        if x = TileSt.fresh then none else some (e.1, x)) }

/-- The stitch fires with its content (R163); the lifetime count of PKT_LIFE_STITCHES follows. -/
def State.runStitch (s : State) (p : Pick) (thr : Bool) : State :=
  let w := s.window p
  let s := s.wr .PKT_LIFE_STITCHES_COUNT (s.rd .PKT_LIFE_STITCHES_COUNT + 1)
  let s := (((s.wr .YOK_STITCHNO_COUNT (s.rd .YOK_STITCHNO_COUNT + 1)).wr .YOK_LASTSTROBE_TIME s.now).wr .YOK_SETTLE_LAST w.w).wr
    .YOK_STATUS_FIRING 1
  let s := s.when w.split (fun s => s.bump .YOK_SPLITS_COUNT)
  let s := s.when (decide (w.w > 24)) (fun s => s.bump .YOK_EXTENDS_COUNT)
  let s0 := s
  let s := p.fires.foldl (fun s f =>
    let s1 := s.fire { p with s := s0 } w thr f
    s1) s
  s.restOthers p.used

/-! ## Waits (R424) -/

/-- A wait that the starvation timeout excuses: a feed barrier, a hold, taken tiles, a full addition queue. -/
def State.excused (s : State) (taken : List Nat) (r : Req) : Bool :=
  let l := s.layerTiles r.slot r.layer
  s.layerHeld l || s.drained r || s.powerHeld r || decide (s.classOf r ≠ r.cls) || l.any (fun p => taken.contains (gid p.die p.tile))
    || (addsUp r.rev l && s.addFull r)

/-- Starvation time is settled up to now (R424): since the last settlement, nothing counts for the requests that wait with an excuse; with
HOLD_ALL, and from the moment at which the Yoke's role began to move, for none (R184). -/
def State.excuse (s : State) (taken : List Nat) : State :=
  let t0 := s.ax .strobeAt
  let t1 := if s.ax .moveAt = 0 then s.now else s.ax .moveAt - 1
  let all := s.rdb .YOK_CTRL_HOLD_ALL
  let free := fun (r : Req) => (if all || s.excused taken r then t1 - max t0 r.since else 0) + (s.now - max (max t1 t0) r.since)
  let s' : State := { s with reqs := s.reqs.map (fun r => if r.st = .queued then { r with since := min s.now (r.since + free r) } else r) }
  (s'.setAx .strobeAt s.now).setAx .moveAt (if s.rdb .YOK_STATUS_MOVING then s.now + 1 else 0)

/-- Tiles that reverse stitches partway through their periods take (R170). -/
def State.takenTiles (s : State) : List Nat := (s.reqs.filter Req.partway).flatMap (fun r => (s.reqTiles r).map (fun p => gid p.die p.tile))

/-- The queue is flushed: every job with a request in it faults (R423, R424). -/
def execFeedQueueStarvation (queue : Nat) (s : State) : Res :=
  .next (let s := s.excuse s.takenTiles
    let q := s.reqs.filter (fun r => r.queue == queue && r.st == .queued && !r.dead)
    if q.any (fun r => decide (r.since + 20000000 ≤ s.now)) then s.timeout 5 8 queue ((q.map (·.job)).eraseDups) 0 else s)

/-- Change one stitch request. -/
def State.updStitch (s : State) (no : Nat) (f : Req → Req) : State :=
  { s with reqs := s.reqs.map (fun q => if q.no = no then f q else q) }

/-- The Yoke fires nothing (R184). -/
def State.stopped (s : State) : Bool := s.rdb .YOK_CTRL_HOLD_ALL || s.rdb .YOK_STATUS_MOVING || s.rdb .CLK_STAT_SAFE

/-- STITCH_STROBE. -/
def State.strobe (s : State) : State :=
  let s := s.each (List.range 64) State.switchWatch
  if s.stopped then (s.wr .YOK_STATUS_FIRING 0).excuse s.takenTiles
  else
    let thr := decide (s.rd .YOK_THROTTLE_TICKS > s.rd .YOK_PERIOD_TICKS)
    let s := (s.setAx .periods (s.ax .periods + 1)).when thr (fun s => s.bump .YOK_THROTTLED_COUNT)
    let s := s.each (s.onlineDies.filter (fun d => d != s.head)) (fun s d => s.setAx .missed (s.ax .missed d + 1) d)
    let s := s.each (s.reqs.filter (fun r => r.st == .queued && !r.dead && s.powerHeld r)) (fun s r =>
      (s.addJobFlag r.job flThrottled).updStitch r.no (fun q => { q with flags := addFlag q.flags flThrottled }))
    let p := s.content
    let taken := (p.fires.filter (fun f => f.what != .forward && !(f.what == .reverse && f.sub == 0))).flatMap (fun f =>
      f.tiles.map (fun e => gid e.1 e.2.1))
    let s := p.s
    let s := if p.fires.isEmpty then (s.wr .YOK_STATUS_FIRING 0).restOthers [] else s.runStitch p thr
    (s.excuse taken).feedPump

def execStitchStrobe (s : State) : Res := .next (if s.paused 3 s.head || s.paused 2 s.head then s else s.strobe)

/-- ACCOUNTING_WINDOW_END: firings are counted anew, and cuts of the real-time share act (R171, R180, R409). -/
def execAccountingWindowEnd (s : State) : Res :=
  .next (s.each allFns (fun s f => ((s.setAx .firings 0 f 0 0).setAx .firings 0 f 0 1).setAx .rtOld 0 f))

/-! ## Followers (R165, R166) -/

/-- A die other than the head die. -/
def State.isFollower (s : State) (d : Nat) : Bool := s.online d && d != s.head

/-- The follower counts markers that it lost. -/
def State.lost (s : State) (d n : Nat) : State := s.bump .YOK_SKEW_LOSTS n 0 d

/-- A marker arrives: those sent since the last one and not received were lost. A follower that has stopped begins to realign. -/
def execPeriodMarker (die : Nat) (s : State) : Res :=
  .next (if s.isFollower die then
    let s := s.lost die (s.ax .missed die - 1)
    let s := (s.setAx .missed 0 die).setAx .markerAt (s.now + 1) die
    if bit (s.rd .YOK_STATUS_FOLLOWER_OFF) die then s.setAx .realign 1 die else s
  else s)

/-- A skew beyond ±5 ns counts as a missed marker (R165): it joins the markers that the next one shows to have been lost. -/
def execSkewRemeasure (die : Nat) (skew : Int) (s : State) : Res :=
  .next (if s.isFollower die then
    let s := s.wr .YOK_SKEW_SKEW (wrap 16 skew) 0 die
    if skew > 5000 ∨ skew < -5000 then s.setAx .missed (s.ax .missed die + 1) die else s
  else s)

/-- Jobs with requests on a die in the stitches since its last marker. -/
def State.jobsSince (s : State) (d : Nat) : List Nat :=
  (s.jobs.filter (fun j => j.active && s.tiles.any (fun e => e.1 / 2048 == d &&
    e.2.fired.any (fun k => k.1 == j.id && k.2.1 == j.restarts && decide (k.2.2 + 1 ≥ s.ax .markerAt d))))).map (·.id)

/-- FOLLOWER_OFF: four markers missed in a row (R166). -/
def execFollowerOff (die : Nat) (s : State) : Res :=
  .next (if s.isFollower die && decide (s.ax .missed die ≥ 4) && !(bit (s.rd .YOK_STATUS_FOLLOWER_OFF) die) then
    let jobs := s.jobsSince die
    let s := (s.wr .YOK_STATUS_FOLLOWER_OFF (setBit (s.rd .YOK_STATUS_FOLLOWER_OFF) die true)).lost die (s.ax .missed die)
    let s := (s.setAx .realign 0 die).setAx .missed 0 die
    let s : State := { s with tiles := s.tiles.filterMap (fun e =>
      if e.1 / 2048 = die then (let x := { e.2 with active := [] }
        if x = TileSt.fresh then none else some (e.1, x)) else some e) }
    let s := s.faultJobs jobs cUnit
    { s with reqs := s.reqs.filter (fun r => !(r.dead && (s.reqTiles r).any (fun p => p.die == die))) }
  else s)

/-- FOLLOWER_REALIGN: the die's tiles fire again from the next seam of each slot. -/
def execFollowerRealign (die : Nat) (s : State) : Res :=
  .next (if s.ax .realign die = 1 ∧ bit (s.rd .YOK_STATUS_FOLLOWER_OFF) die = true then
    let s := (s.wr .YOK_STATUS_FOLLOWER_OFF (setBit (s.rd .YOK_STATUS_FOLLOWER_OFF) die false)).setAx .realign 0 die
    s.each (s.placed.filter (fun p => p.die == die && s.inActive p)) (fun s p =>
      s.updTile p.die p.tile (fun x => { x with blocked := true }))
  else s)

/-! ## YOK registers -/

def State.yokExpert (s : State) : State := s.wr .YOK_STATUS_EXPERT 1

def State.yokRefused (s : State) : State := s.wr .YOK_STATUS_REFUSED 1

/-- The Yoke's role has moved (R23). -/
def execYokeRoleMoveEnd (s : State) : Res :=
  .next (if s.rdb .YOK_STATUS_MOVING then ((s.excuse s.takenTiles).wr .YOK_STATUS_MOVING 0).setAx .moveAt 0 else s)

def execYokCtrlHoldAllWrite (o : Order) (s : State) : Res :=
  .next (s.order o (regAddr .YOK_CTRL) (fun s _ v =>
    if v % 2 = s.rd .YOK_CTRL_HOLD_ALL then s
    else if v % 2 = 1 then ((s.yokExpert.excuse s.takenTiles).wr .YOK_CTRL_HOLD_ALL 1).wr .YOK_STATUS_FIRING 0
    else (s.yokExpert.excuse s.takenTiles).wr .YOK_CTRL_HOLD_ALL 0))

def execYokCtrlSplitEnWrite (o : Order) (s : State) : Res :=
  .next (s.order o (regAddr .YOK_CTRL) (fun s _ v =>
    if v % 2 = s.rd .YOK_CTRL_SPLIT_EN then s else s.yokExpert.wr .YOK_CTRL_SPLIT_EN v))

def yokCounters : List Field :=
  [.YOK_SPLITS_COUNT, .YOK_EXTENDS_COUNT, .YOK_THROTTLED_COUNT, .YOK_DEFERRED_COUNT, .YOK_OVERBUDGET_COUNT]

def State.yokClear (s : State) : State :=
  s.each [0, 1, 2, 3] (fun s c => s.wr .YOK_MISS_COUNT 0 0 c) |>.each yokCounters (fun s f => s.wr f 0)

def execYokCtrlClear (o : Order) (s : State) : Res :=
  .next (s.order o (regAddr .YOK_CTRL) (fun s _ v => s.when (v % 2 == 1) State.yokClear))

/-- HANDBACK: the throttle is the power manager's again. -/
def State.yokHandback (s : State) : State :=
  let s := if s.rdb .YOK_CTRL_HOLD_ALL then s.excuse s.takenTiles else s
  ((((((s.wr .YOK_CTRL_HOLD_ALL 0).wr .YOK_CTRL_SPLIT_EN 1).wr .YOK_SETTLE_MAX 4096).wr .YOK_IBUDGET_BUDGET 1920).wr
    .YOK_STATUS_EXPERT 0).wr .YOK_THROTTLE_TICKS 0).applyCaps

def execYokCtrlHandback (o : Order) (s : State) : Res :=
  .next (s.order o (regAddr .YOK_CTRL) (fun s _ v => s.when (v % 2 == 1) State.yokHandback))

/-- R161: 400 to 3,200 ticks. -/
def execYokPeriodWrite (o : Order) (s : State) : Res :=
  .next (s.order o (regAddr .YOK_PERIOD) (fun s _ v =>
    let v := v % 4096
    if v < 400 ∨ v > 3200 then s.yokRefused else s.wr .YOK_PERIOD_TICKS v))

/-- R179. -/
def execYokThrottleWrite (o : Order) (s : State) : Res :=
  .next (s.order o (regAddr .YOK_THROTTLE) (fun s _ v =>
    let v := v % 65536
    if v = s.rd .YOK_THROTTLE_TICKS then s else s.yokExpert.wr .YOK_THROTTLE_TICKS v))

end Sys2Proof.Machine
end

