-- ==== Sys2Proof/Machine/Conv.lean ====
section
/-!
DEFINITION. Machine/Conv.lean: the end of a tile's conversions: what the Hem counts and checks, the decision on a wide rerun, and
the completion of stitch requests (R92, R113 to R131, R147, R149, R182, R234, R270).
-/

namespace Sys2Proof.Machine

/-- The flight fires for a request. -/
def Flight.ofReq (f : Flight) : Bool := f.what != .check && f.what != .cal

def State.dropStitch (s : State) (no : Nat) : State := { s with reqs := s.reqs.filter (fun r => r.no != no) }

/-- k of a request (R118). -/
def Req.k (r : Req) : Val := fdiv (f32Val r.sin) (f32Val r.sout)

/-! ## Outputs as they stand (R62, R118, R129) -/

/-- What the Hem of a tile has formed in one stitch of a request. -/
def Req.part (r : Req) (stitch rb cb : Nat) : List Nat :=
  ((r.parts.find? (fun p => p.1 == stitch && p.2.1 == rb && p.2.2.1 == cb)).map (·.2.2.2)).getD []

/-- Pass L has given its outputs. -/
def Req.rerun (r : Req) : Bool := !r.rev && r.parts.any (fun p => p.1 == 2)

/-- The outputs of a tile: values, and whether a step before their conversion saturated. -/
def Req.outputs (r : Req) (rb cb : Nat) : List (Val × Bool) :=
  if r.rev then
    (List.range (r.part 0 rb cb).length).map (fun i =>
      (revVal ((List.range 8).map (fun k => f32Val ((r.part k rb cb).getD i 0))), false))
  else if r.rerun then
    ((r.part 1 rb cb).zip (r.part 2 rb cb)).map (fun e => rerunVal (f32Val e.1) (f32Val e.2))
  else (r.part 0 rb cb).map (fun c => (f32Val c, false))

/-- Row and column blocks of a request, lowest first. -/
def Req.blocks (r : Req) (col : Bool) : List Nat :=
  (List.range 256).filter (fun k => r.parts.any (fun p => (if col then p.2.2.1 else p.2.1) == k))

/-- Output codes of a request whose layer has one block to a result. -/
def Req.codes (r : Req) : List Nat :=
  let f := tdFmt r.out
  if r.rev then (r.blocks false).flatMap (fun i => (r.outputs i ((r.blocks true).headD 0)).map (fun o => (hemConv f o.1).code))
  else (r.blocks true).flatMap (fun j => (r.outputs ((r.blocks false).headD 0) j).map (fun o => (hemConv f o.1).code))

/-- The partial sums of each output (R33, R62), as integers. -/
def Req.partials (r : Req) : List (List Int) :=
  let f := fun (o : Val × Bool) => sext 32 (hemConv fS32 o.1).code
  let cols := if r.rev then (r.blocks true) else (r.blocks false)
  let main := if r.rev then (r.blocks false) else (r.blocks true)
  main.flatMap (fun m =>
    let ls := cols.map (fun c => ((if r.rev then r.outputs m c else r.outputs c m).map f))
    (List.range ((ls.headD []).length)).map (fun i => ls.map (fun l => l.getD i 0)))

/-- The largest finite |v| × σ_out of a Hem output step (R147). -/
def Req.maximum (r : Req) : Rat :=
  maxMag ((r.blocks false).flatMap (fun i => (r.blocks true).flatMap (fun j => (r.outputs i j).map (·.1)))) * (f32Val r.sout).mag

/-! ## Completion (R149, R182, R234, R249) -/

/-- One request of a ticket is complete: the ticket closes with the last, and its result word carries the flags of all. -/
def State.ticketShare (s : State) (job task ticket flags : Nat) : State :=
  match s.tix.find? (fun x => x.job == job && x.task == task && x.ticket == ticket) with
  | none => s
  | some x =>
    let same := fun (y : Tix) => y.job == job && y.task == task && y.ticket == ticket
    let fl := addFlag x.flags flags
    if x.left ≤ 1 then
      ({ s with tix := s.tix.filter (fun y => !(same y)) } : State).ticketDone job task ticket (256 * fl)
    else { s with tix := s.tix.map (fun y => if same y then { y with left := y.left - 1, flags := fl } else y) }

/-- The request leaves, its job carries its flags, and its ticket has one request less. -/
def State.endRequest (s : State) (r : Req) : State :=
  ((s.dropStitch r.no).addJobFlag r.job r.flags).ticketShare r.job r.task r.ticket r.flags

/-- A request that completes after its deadline (R182). -/
def State.lateness (s : State) (r : Req) : State × Req :=
  if r.deadline = 2 ^ 64 - 1 ∨ s.now ≤ r.deadline then (s, r)
  else ((s.bump .YOK_MISS_COUNT 1 0 r.cls).jobLate r.job (s.now - r.deadline), { r with flags := addFlag r.flags flLate })

/-- The tracker records the steps of stitch requests that are done, in the order of their posting: a step waits for the earlier ones
(R147), and its ticket for the step (R215). -/
def State.recordSteps (s : State) (id a : Nat) : Nat → Except Nat State
  | 0 => .ok s
  | fuel + 1 =>
    match s.job id with
    | none => .ok s
    | some j =>
      match j.steps.find? (fun k => k.trk == a && s.trkBehind id a k.no == 0) with
      | none => .ok s
      | some k =>
        match (s.updJob id (fun j => { j with steps := j.steps.filter (fun x => !(x.trk == a && x.no == k.no)) })).setTracker id a
            (trkRecord (s.trackerOf j a) k.mx k.scale) with
        | .error c => .error c
        | .ok s => (s.ticketShare id k.task k.ticket k.flags).recordSteps id a fuel

/-- The outputs of a step and its scale entry; and the end of its request, which for a tracked output comes with its tracker step (R147 to
R149, R215). -/
def State.writeOutputs (s : State) (r : Req) : Except Nat State :=
  let w := r.out
  match s.jobWrites r.job ([(tdRow w 0 0 r.step, tdRunBytes w, packRun (tdFmt w) r.codes)]
      ++ (if tdScaled w then [(tdScale w + r.step * tdEntry w, tdEntry w, (scaleOut (tdSue8 w) r.sout).1)] else [])) with
  | .error c => .error c
  | .ok s =>
    if !tdScaled w then .ok (s.endRequest r)
    else
      let k : TrkStep := { trk := tdTracker w, no := r.no, mx := r.maximum, scale := r.sout, task := r.task, ticket := r.ticket, flags := r.flags }
      let s := ((s.dropStitch r.no).addJobFlag r.job r.flags).updJob r.job (fun j => { j with steps := j.steps ++ [k] })
      s.recordSteps r.job (tdTracker w) (((s.job r.job).map (fun j => j.steps.length)).getD 0)

/-- The addition of a request's partial sums joins the addition queue of its die (R270, R272). -/
def State.queueAdd (s : State) (r : Req) : State :=
  let n := s.nextIssue
  let s := n.2
  let parts := (r.partials.headD []).length
  let o : Op := { job := r.job, task := r.task, ticket := r.ticket, unit := .add, die := s.addDie r, cls := r.cls,
                  deadline := r.deadline, issue := n.1, left := slotCycles r.partials.length parts, running := false, word := 0,
                  ext := 0, ta := 0, tb := 0, td := r.out, ga := r.no, gb := 0, late := false }
  ({ s with ops := s.ops ++ [o] } : State).updStitch r.no (fun _ => { r with st := .adding })

/-- The last Hem output of a request is out (R163). -/
def State.requestDone (s : State) (r : Req) : State :=
  let x := s.lateness r
  let s := x.1
  let r := x.2
  let many := decide ((if r.rev then r.blocks true else r.blocks false).length > 1)
  if many then s.queueAdd r
  else match s.writeOutputs r with
    | .error c => (s.dropStitch r.no).faultJob r.job c
    | .ok s => s

/-! ## After the last conversions of a stitch -/

/-- The smallest LIMIT among the tiles that have one; none where every tile has 0xFFFF (R126). -/
def State.rerunLimit (s : State) (r : Req) : Option Nat :=
  ((s.reqTiles r).map (fun p => s.rd .HEM_SAT_LIMIT p.die p.tile)).foldl (fun m l =>
    if l = 0xFFFF then m else match m with
      | none => some l
      | some k => some (min k l)) none

def State.marked (s : State) (r : Req) : Bool := match s.rerunLimit r with
  | none => false
  | some l => decide (r.sat > l)

/-- A request returns to its feed queue without outputs (R540). -/
def Req.again (r : Req) : Req := { r with st := .queued, parts := [], sat := 0, left := 0 }

/-- The request's tiles may fire its pass or repeat; after a failure it returns to its feed queue (R69, R540). -/
def State.dueOr (s : State) (r : Req) (due : Req) : State :=
  let bad := (s.reqTiles r).any (fun p => (s.tile p.die p.tile).blocked)
  s.updStitch r.no (fun _ => if bad then r.again else due)

/-- The destination of a marked request holds undefined data until it completes (R130, log entry 6). -/
def State.undefinedOut (s : State) (r : Req) : State :=
  let f := s.fresh
  match f.2.jobWrite r.job (tdRow r.out 0 0 r.step) (tdRunBytes r.out) f.1 with
  | .ok s => s
  | .error c => f.2.faultJob r.job c

/-- Every conversion of a request that was under way has ended: a void request leaves once no sub-phase of it is due (R170, R224);
the Yoke decides on the rerun (R126, R128); after its last pass or sub-phase the request is complete. A stitch that R92 discards,
a pass that is due, and further sub-phases leave it as it is. -/
def State.stitchEnded (s : State) (r : Req) : State :=
  if r.dead then (if r.partway then s else s.dropStitch r.no)
  else match r.st with
    | .fired =>
      if r.rev then (if r.left > 0 then s else s.requestDone r)
      else if s.marked r then
        let s := s.undefinedOut r
        match s.stitchReq r.no with
        | some q => if q.dead then s.dropStitch r.no else s.dueOr q { q with st := .passDue, left := 2 }
        | none => s
      else s.requestDone r
    | .passFired => s.requestDone { r with flags := addFlag r.flags flWideRerun }
    | _ => s

/-! ## CONVERSIONS_END -/

/-- Tables of the Hem of a tile. -/
def hemTables : List Nat := [tOfs, tRes, tRevOfs, tRevRes]

/-- The tables and RANGE of a tile as they stand. -/
def State.tablesNow (s : State) (d t : Nat) : List (Nat × SMap (Option Nat)) × Nat :=
  (hemTables.map (fun k => (k, s.tabs.get [] (tabKey d t k))), s.rd .HEM_CFG_RANGE d t)

def State.putTables (s : State) (d t : Nat) (k : List (Nat × SMap (Option Nat)) × Nat) : State :=
  (s.each k.1 (fun s e => { s with tabs := s.tabs.set [] (tabKey d t e.1) e.2 })).wr .HEM_CFG_RANGE k.2 d t

/-- A stitch that fired before a seam uses the tables that stood before it (R177). -/
def State.keepTables (s : State) (d t : Nat) : State :=
  let k := s.tablesNow d t
  s.updTile d t (fun x => { x with flights := x.flights.map (fun f => if f.kept.isNone then { f with kept := some k } else f) })

/-- Statistics and checks of a forward stitch on a tile: saturations, residuals, reference failures; the answer is the
saturations (R122 to R126). Saturations are not counted on a stitch that R92 discards; residuals are formed on every forward stitch. -/
def State.forwardCounts (s : State) (d t : Nat) (f : Flight) (codes : List (Option Nat)) : State × Nat :=
  let n := if f.drop then 0 else s.csat d t codes
  let s := s.bump .HEM_CSAT_COUNT n d t
  let l := s.residuals d t codes (f.codes.foldl (· + ·) 0)
  let x := s.refCheck d t l
  let s := x.1.refSums d t l
  (s.each x.2 (fun s b => s.elementFails d t (.column (18 * b + 16)) 2), n)

/-- The outputs of a tile in a stitch of a request; those of a whole original stitch, rerun or reverse stitch count their
saturations (R118, R121, R124, R129, R131). A reverse stitch of a void request runs out without outputs, and TIL_RSTITCHES does not count it
(DESIGN CHOICE, log entry 147). -/
def State.hemOutputs (s : State) (d t : Nat) (f : Flight) (r : Req) (p : Placed) (codes : List (Option Nat)) (sat : Nat) : State :=
  if f.drop || r.dead then s
  else
    let key := match f.what with
      | .passU => 1
      | .passL => 2
      | .reverse => f.sub
      | _ => 0
    let v := if r.rev then s.hemRevs d t codes r.k else s.hemOuts d t codes r.k
    let r' := { r with parts := r.parts.filter (fun q => !(q.1 == key && q.2.1 == p.rowBlk && q.2.2.1 == p.colBlk))
                                  ++ [(key, p.rowBlk, p.colBlk, v)],
                       sat := if f.what = .forward then r.sat + sat else r.sat }
    let s := s.updStitch r.no (fun _ => r')
    let outs := r'.outputs p.rowBlk p.colBlk
    match f.what with
    | .passU => s
    | .reverse =>
      if f.sub ≠ 7 then s
      else (s.bump .HEM_OSAT_COUNT (outs.filter (fun o => (hemConv fS32 o.1).sat)).length d t).bump .TIL_RSTITCHES_COUNT 1 d t
    | _ => s.countOuts d t (tdFmt r.out) outs

/-- Saturations of the row converters in use (R131). -/
def State.rsat (s : State) (d t : Nat) (codes : List (Option Nat)) : Nat :=
  ((List.range (s.rd .TIL_EXTENT_ROWS_M1 d t + 1)).filter (fun r => saturated codes r)).length

/-- A conversion of the rows in use did not finish. -/
def State.lateRows (s : State) (d t : Nat) (codes : List (Option Nat)) : Bool :=
  (List.range (s.rd .TIL_EXTENT_ROWS_M1 d t + 1)).any (fun r => (codes.getD r none).isNone)

/-- The elements that a stitch shows to have failed (R115, with R69), and whether its request is a fault of its job. -/
def State.convFaults (s : State) (d t : Nat) (f : Flight) (out : ConvOut) : State × Bool :=
  if revPeriod f.what f.sub then
    let late := s.lateRows d t out.codes
    (if out.revFail || late then s.elementFails d t .reverse 6 else s, late)
  else
    let late := lateConvs out.codes
    let x := s.sameCodes d t out.codes (f.codes.foldl (· + ·) 0)
    (x.1.each ((late ++ x.2).eraseDups) (fun s k => s.elementFails d t (.converter k) 3), !late.isEmpty)

/-- What the Hem forms from the conversions of a flight, with the tables in force (R117): counts, residuals and outputs; for a column
check, the converters and columns that fail it. -/
def State.hemForms (s : State) (d t : Nat) (f : Flight) (out : ConvOut) : State × List Nat × List Nat :=
  let x := if revPeriod f.what f.sub then (s.bump .HEM_RSAT_COUNT (if f.drop then 0 else s.rsat d t out.codes) d t, 0)
    else s.forwardCounts d t f out.codes
  let s := match (if f.ofReq then x.1.stitchReq f.req else none), f.place with
    | some r, some p => x.1.hemOutputs d t f r p out.codes x.2
    | _, _ => x.1
  if f.what = .check ∧ !f.drop then s.checkEnd d t out.codes (f.codes.headD 0) else (s, [], [])

/-- The codes of a calibration stitch, for the quick calibration that fired it (R334). -/
def State.calCodes (s : State) (d t : Nat) (f : Flight) (codes : List (Option Nat)) : State :=
  { s with cals := s.cals.map (fun c =>
    if c.die = d ∧ c.tile = t ∧ c.full = false ∧ c.since = f.req then { c with codes := c.codes ++ [(f.codes.headD 0, codes)] } else c) }

/-- The oldest conversions of a tile end. -/
def State.conversionsEnd (s : State) (d t : Nat) (f : Flight) (out : ConvOut) : State :=
  let s := (s.updTile d t (fun x => { x with flights := x.flights.drop 1 })).cellsStick d t out.stuck
  let z := match f.kept with
    | none => s.hemForms d t f out
    | some k =>
      let z := (s.putTables d t k).hemForms d t f out
      (z.1.putTables d t (s.tablesNow d t), z.2)
  let y := z.1.convFaults d t f out
  let s := if y.2 && f.ofReq then (match y.1.stitchReq f.req with
    | some r => y.1.faultJob r.job cUnit
    | none => y.1) else y.1
  match f.what with
  | .cal => if f.drop then s else s.calCodes d t f out.codes
  | .check =>
    if f.drop then s
    else
      let s : State := { s with checks := s.checks.filter (fun c => !(c.die == d && c.tile == t)) }
      let s := s.each z.2.1 (fun s k => s.elementFails d t (.converter k) 3)
      s.each z.2.2 (fun s p => s.elementFails d t (.column p) 1)
  | _ =>
    if s.outstanding f.req then s
    else match s.stitchReq f.req with
      | some r => s.stitchEnded r
      | none => s

def execConversionsEnd (die tile : Nat) (out : ConvOut) (s : State) : Res :=
  .next (if s.paused 3 die then s else match (s.tile die tile).flights with
    | f :: _ => s.conversionsEnd die tile f out
    | [] => s)

end Sys2Proof.Machine
end

