-- ==== Sys2Proof/Machine/Seam.lean ====
section
/-!
DEFINITION. Machine/Seam.lean: seams (R54, R56, R128, R176 to R178, R180, R343).
-/

namespace Sys2Proof.Machine

/-- The Yoke may mark the request for a wide rerun: a tile of its layer has a LIMIT (R126). -/
def State.markable (s : State) (r : Req) : Bool := (s.rerunLimit r).isSome

/-- A request holds off its slot's seams (R128): a reverse stitch partway through its periods (R176); a request that the Yoke may yet mark for
a wide rerun, from its original stitch on, also while that repeats; and one that it has marked, until its pass L has fired. -/
def State.holdsSeam (s : State) (r : Req) : Bool :=
  r.partway || (!r.dead && !r.rev && (r.st == .passDue || (r.st == .repeatDue && (decide (r.left > 0) || s.markable r))
    || (r.st == .fired && s.markable r)))

def State.seamHeld (s : State) (slot : Nat) : Bool := s.reqs.any (fun r => r.slot == slot && s.holdsSeam r)

/-- Jobs that have fired on the slot's active map and still run (R178). -/
def State.firedJobs (s : State) (slot : Nat) : List Nat :=
  (s.jobs.filter (fun j => j.active && s.firedOn slot j.id)).map (·.id)

/-- Step 1 of R177: the map switch. -/
def State.switchMap (s : State) (slot restarted : Nat) : State :=
  let m := s.ax .switchTarget 0 slot - 1
  let s := ((s.setAx .activeMap (m + 1) 0 slot).setAx .switches (s.ax .switches 0 slot + 1) 0 slot)
  let s := (s.setAx .switchTarget 0 0 slot).setAx .switchAt 0 0 slot
  let lost := (s.mapTiles slot m).any (fun p => !s.online p.die) || (s.mapPanels slot m).any (fun p => !s.online p.die)
  let s := (if lost then s else s.setAx .slotLost 0 0 slot).capUpdate
  let s : State := { s with jobs := s.jobs.map (fun j => { j with onMap := setBit j.onMap slot false }) }
  let s := s.each (allFns.filter (fun f => s.rdb .MIR_FN_MIRRORED 0 f && bit (s.rd .FNQ_GRANT_SLOT f) slot))
    (fun s f => (s.mirrorState f (s.mapMsg slot)).refreshReady f)
  let s := s.event 0x55 0xFF sevInfo (slot + atByte 1 m + atByte 2 restarted + atByte 8 (s.rd .YOK_STITCHNO_COUNT))
  match s.runningOn opSlotSwitch slot m with
  | some c => s.completeCmd (s.started c) stOK 0
  | none => s

/-- SUSPECT and the count of rejections clear (R338). -/
def State.clearSuspect (s : State) (d t : Nat) : State := (s.wr .TIL_STATUS_SUSPECT 0 d t).wr .TIL_STATUS_CAL_REJ_RUN 0 d t

/-- The new tile of a refresh takes its placement and its precision flag; the old one is cleared and becomes SPARE (R46, R343). The new
tile is HELD where TIL_CTRL.HOLD of either is set. -/
def State.swapTile (s : State) (x : Refresh) : State :=
  match s.placeOf x.die x.tile with
  | none => s
  | some p =>
    let s := (((s.clearSuspect x.die x.tile).roundTileDone x.die x.tile (some true)).setCause x.die x.tile scRejected false)
    let s := (((s.unplace x.die x.tile).place { p with tile := x.new }).wr .TIL_STATUS_REPLACES x.tile x.die x.new).swapSlots x.die x.new x.tile
    let held := s.rdb .TIL_CTRL_HOLD x.die x.tile || s.rdb .TIL_CTRL_HOLD x.die x.new
    let s := if s.inActive p && !held then s.joins x.die x.new
      else if s.inActive p then (s.wr .TIL_STATUS_STATE tsHeld x.die x.new).wr .TIL_STATUS_HOLD_CAUSE hcExpert x.die x.new
      else s
    let s := s.wr .TIL_CTRL_PRECISION (s.rd .TIL_CTRL_PRECISION x.die x.tile) x.die x.new
    let s := ((s.endCal x.die x.tile).toStaged x.die x.tile).wr .TIL_CTRL_PRECISION 0 x.die x.tile
    let s := ((s.setAx .pendHold 0 x.die x.tile).setAx .pendJoin 0 x.die x.tile).updRefresh x.die x.tile (fun y => { y with phase := .done })
    (s.settle x.die x.tile).progPush (blankReq x.die x.tile 3 .clear (noPlace x.die x.tile) (2 ^ 64 - 1))

/-- The refreshes of a slot whose new tile is ready. One of a tile that is out of firmware management waits (R14). -/
def State.slotSwaps (s : State) (slot : Nat) : List Refresh :=
  s.refreshes.filter (fun x => x.phase == .seam && x.new != 0x7FF && (s.placeOf x.die x.tile).any (fun p => p.slot == slot)
    && !s.rdb .TIL_STATUS_EXPERT x.die x.tile)

/-- A tile under refresh in place is held from this seam on. -/
def State.noteHeld (s : State) (d t : Nat) : State :=
  if s.tst d t = tsHeld then s.updRefresh d t (fun x => if x.heldAt = 0 ∧ x.new = 0x7FF then { x with heldAt := s.now } else x) else s

/-- Cuts of the power share of the functions act on the slot (R180). -/
def State.shareCuts (s : State) (slot : Nat) : State := s.each allFns (fun s f => s.setAx .powerOld 0 f slot)

/-- Tiles that hold a placement of a slot. -/
def State.slotTiles (s : State) (slot : Nat) : List (Nat × Nat) := (s.placed.filter (fun p => p.slot == slot)).map (fun p => (p.die, p.tile))

/-- A seam of a slot passes: the changes in the order of R177. The tiles that a refresh swaps out take theirs as well (R87, R93). -/
def State.seam (s : State) (slot : Nat) (switch : Bool) (restarted : Nat) : State :=
  let old := s.slotTiles slot
  let s := s.each old (fun s e => s.keepTables e.1 e.2)
  let s := if switch then s.switchMap slot restarted else s
  let s := s.each (s.slotSwaps slot) State.swapTile
  let ts := s.slotTiles slot ++ old.filter (fun e => (s.placeOf e.1 e.2).isNone)
  let s := s.each ts (fun s e => (s.seamState e.1 e.2).noteHeld e.1 e.2)
  let s := s.each ts (fun s e => s.seamConverters e.1 e.2)
  let s := s.each ts (fun s e => s.seamSettings e.1 e.2)
  let s := s.each ts (fun s e => (s.rampTile e.1 e.2).updTile e.1 e.2 (fun x => { x with causesAt := x.causes }))
  let s := (s.shareCuts slot).replSeam slot
  let s := (s.setAx .seamAt (s.ax .periods) 0 slot).setAx .seamDue 0 0 slot
  (s.each s.onlineDies (fun s d => s.pump d)).capUpdate

/-- SEAM_DUE (R176). -/
def execSeamDue (slot : Nat) (s : State) : Res :=
  .next (if slot < 64 ∧ s.ax .periods - s.ax .seamAt 0 slot ≥ s.rd .YOK_SEAM_INTERVAL then s.setAx .seamDue 1 0 slot else s)

/-- A switch takes its unscheduled seam: no job that fired on the old map runs (R178). -/
def State.switchReady (s : State) (slot : Nat) : Bool := s.switchPossible slot && (s.firedJobs slot).isEmpty

/-- SEAM_PASS (R176 to R178). -/
def execSeamPass (slot : Nat) (s : State) : Res :=
  .next (let sw := s.switchReady slot
    if decide (slot < 64) && (s.ax .seamDue 0 slot == 1 || sw) && !s.stopped && !s.seamHeld slot then s.seam slot sw 0 else s)

/-- MAP_SWITCH_DRAIN_LIMIT (R178): the jobs that still run on the old map are restarted, which voids their passes and repeats, and the
switch takes its seam. Only a reverse stitch partway through its periods, which R170 never cancels, is waited for (log entry
125). -/
def execMapSwitchDrainLimit (slot : Nat) (s : State) : Res :=
  .next (if decide (slot < 64) && s.switchPossible slot && !s.stopped && !(s.reqs.any (fun r => r.slot == slot && r.partway))
      && s.ax .switchAt 0 slot != 0 && decide (s.now ≥ s.ax .switchAt 0 slot - 1 + s.rd .YOK_SEAM_SWITCH_MAX * 1000000) then
    let js := s.firedJobs slot
    (s.faultJobs js cMapSwitch).seam slot true js.length
  else s)

end Sys2Proof.Machine
end

