-- ==== Sys2Proof/Machine/Rot.lean ====
section
/-!
DEFINITION. Machine/Rot.lean: ROT (R152 to R155, R251), MAPSEL (R252), and the blocks of the digital array with the addition of
partial sums (R33, R270, R272 to R278).
-/

namespace Sys2Proof.Machine

/-! ## The rotation (R152 to R155) -/

/-- Layer and sign vector of a map. -/
def State.rotOf (s : State) (slot m layer : Nat) : Option (Layer × List Byte) :=
  (s.mapOf slot m).bind (fun x => (x.layer layer).map (fun l => (l, (x.signs[layer]?).getD [])))

/-- c_B: 1/√B rounded to FP32. -/
def rotConst (lg : Nat) : Nat := ([0x3E000000, 0x3DB504F3, 0x3D800000, 0x3D3504F3, 0x3D000000] : List Nat).getD (lg - 6) f1

/-- Entry i of a sign vector is −1. -/
def signNeg (v : List Byte) (i : Nat) : Bool := bit (v.getD (i / 8) 0).toNat (i % 8)

def applySigns (v : List Byte) (l : List Val) : List Val := l.zipIdx.map (fun e => if signNeg v e.2 then e.1.neg else e.1)

/-- Stage s of the butterflies. -/
def butterfly (l : List Val) (s : Nat) : List Val :=
  let a := l.toArray
  (List.range l.length).map (fun i =>
    if bit i s then fsub (a.getD (i - 2 ^ s) .nan) (a.getD i .nan) else fadd (a.getD i .nan) (a.getD (i + 2 ^ s) .nan))

/-- The transform: its stages, then c_B. -/
def hadamard (lg : Nat) (l : List Val) : List Val :=
  ((List.range lg).foldl butterfly l).map (fun v => fmul v (f32Val (rotConst lg)))

/-- A row of FP32 values, forward or inverse; a layer without a rotation leaves them. -/
def rotRow (lg : Nat) (v : List Byte) (inv : Bool) (l : List Val) : List Val :=
  if lg = 0 then l
  else if inv then applySigns v (hadamard lg l)
  else hadamard lg (applySigns v l)

/-! ## ROT (R251) -/

def rotInv (w : Nat) : Bool := bit w 3

/-- Shapes and formats of ROT, for a layer of input width n. -/
def rotShape (w ta td n : Nat) : Bool :=
  valueFmt (tdFmt ta) && sameFrom 1 ta td && tdD td 0 == n
    && (if rotInv w then tdFmt ta == fFP32 && tdD ta 0 == n else decide (tdD ta 0 ≤ n))
    && (if tdScaled td then scaledDest td else tdFmt td == fFP32)

/-- The trap of ROT at issue; the slot and layer checks are those of step 2 of R248. -/
def State.rotTrap (s : State) (c : Ctx) (n : Nat) : Option Nat :=
  let ta := c.task.tr (iTa c.w)
  let td := c.task.tr (iTd c.w)
  let rec' := statOf c.w (c.task.gr (iGa c.w))
  if !(s.tdOk c.job ta) || !(s.tdOk c.job td) then some cDescriptor
  else if !(bit c.job.slots (iSlot c.w)) || !(bit c.job.grants (iSlot c.w)) || (s.layerTiles (iSlot c.w) (iLayer c.w)).isEmpty then some cAddress
  else if !(rotShape c.w ta.val td.val n) then some cDescriptor
  else match s.tdAccess c.job ta.val false with
    | some x => some x
    | none => match s.tdAccess c.job td.val true with
      | some x => some x
      | none => if rec' = 0 then none else s.scalarCheck c.job rec' 32 true

/-- ROT starts; its operation keeps the map whose sign vector it uses, in the place of the extension word. -/
def State.rotIssue (s : State) (c : Ctx) : State :=
  let m := s.activeMap (iSlot c.w)
  let x := s.rotOf (iSlot c.w) m (iLayer c.w)
  let n := (x.map (fun e => e.1.inW)).getD (inputWidth (s.layerTiles (iSlot c.w) (iLayer c.w)))
  let lg := (x.map (fun e => e.1.rot)).getD 0
  match s.rotTrap c n with
  | some t => s.tensorTrap c.job c.task.num t [(c.task.tr (iTa c.w)).val, (c.task.tr (iTd c.w)).val]
  | none => s.launch { c with ext := m } .array (slotCycles (tdElems (c.task.tr (iTd c.w)).val) (lg + 1)) (iGb c.w)

def execRot (t : TaskRef) (s : State) : Res := .next (s.issue t (fun w => iOp w == 0x2B) (fun s c => s.rotIssue c))

/-- The values of a step of ROT. -/
def State.rotVals (s : State) (j : Job) (o : Op) (i3 : Nat) : List Val :=
  let x := s.rotOf (iSlot o.word) o.ext (iLayer o.word)
  let n := tdD o.td 0
  (List.range (tdD o.td 2)).flatMap (fun i2 => (List.range (tdD o.td 1)).flatMap (fun i1 =>
    let row := s.rowVals j o.ta i1 i2 i3
    rotRow ((x.map (fun e => e.1.rot)).getD 0) ((x.map (·.2)).getD []) (rotInv o.word)
      (row ++ List.replicate (n - row.length) (.fin false 0))))

/-! ## MAPSEL (R252) -/

def State.mapsel (s : State) (slot : Nat) : Nat :=
  s.activeMap slot % 2 + 2 * b2n (s.ax .switchTarget 0 slot != 0) + 2 ^ 32 * (s.ax .switches 0 slot % 2 ^ 32)

def execMapsel (t : TaskRef) (s : State) : Res :=
  .next (s.issue t (fun w => iOp w == 0x2C) (fun s c =>
    let slot := bits c.w 5 0
    if bit c.job.slots slot then s.retire c (fun t => t.setG (iD c.w) (s.mapsel slot)) else s.trapAt c cAddress))

/-! ## Blocks of the array -/

/-- The sum of an output's partial sums: its code, and whether it saturated (R137, R270). -/
def addPartials (l : List Int) : Nat × Bool :=
  let c := convert fS32 (.ofRat ((l.foldl (· + ·) 0 : Int) : Rat))
  (c.code, c.sat)

/-- The addition of a request's partial sums is done. -/
def State.addDone (s : State) (o : Op) : State :=
  let s : State := { s with ops := s.ops.filter (fun k => k.issue != o.issue) }
  match s.stitchReq o.ga with
  | none => s
  | some r =>
    let l := r.partials.map addPartials
    let s := s.bump .DGA_SAT_COUNT (l.filter (·.2)).length o.die
    match s.jobWrite r.job (tdRow r.out 0 0 r.step) (tdRunBytes r.out) (packRun fS32 (l.map (·.1))) with
    | .error c => (s.dropStitch r.no).faultJob r.job c
    | .ok s => s.endRequest r

/-- The last block of an operation is done. -/
def State.arrayDone (s : State) (o : Op) (x : Found) : State :=
  if o.unit = .add then s.addDone o
  else
    let s := (s.bump .DGA_MACS_COUNT o.macs o.die).bump .DGA_GUS_BYTES_COUNT (if o.converts then 0 else s.opGusset o.word o.ta o.tb) o.die
    let y := if o.converts then (false, s) else s.opReads o x
    if y.1 then y.2
    else
      let s := y.2
      s.finishOp o (if iOp o.word = 0x2B then s.resultOf o (fun j i3 => s.rotVals j o i3) else s.opResult o)

/-- A queued operation that waited for operand bytes from a Gusset region, or a MOVT that reads one and on whose ticket a task of the die
waits in WAIT (R278). `short` are the operations that waited for such bytes, by order of issue. -/
def State.gussetWait (s : State) (d : Nat) (short : List Nat) (o : Op) : Bool :=
  decide (s.opGusset o.word o.ta o.tb ≠ 0) && o.die == d &&
    ((o.unit == .array && !o.converts && short.contains o.issue) ||
     (iOp o.word == 0x22 && s.jobs.any (fun j => j.id == o.job && j.tasks.any (fun t => t.num == o.task && (match t.wait with
        | .ticket n _ => n == o.ticket
        | _ => false)))))

/-- Cycles in which the array has no block ready (R275, R278): `opwait` of them count while work is queued, `stall` of them are Gusset
stalls, and each operation or wait counts as late with its first one. -/
def State.arrayWaits (s : State) (d opwait stall : Nat) (short : List Nat) : State :=
  if (s.arrayOps d).any (·.running) then s
  else
    let s := if (s.arrayOps d).isEmpty then s else s.bump .DGA_OPWAIT_COUNT opwait d
    let l := s.ops.filter (s.gussetWait d short)
    if l.isEmpty ∨ stall = 0 then s
    else
      let s := (s.bump .DGA_GUS_STALL_COUNT stall d).bump .DGA_GUS_LATE_COUNT (l.filter (fun o => !o.late)).length d
      { s with ops := s.ops.map (fun o => if l.any (fun k => k.issue == o.issue) then { o with late := true } else o) }

/-- ARRAY_BLOCK_END: the block that runs ends, and the array chooses the next. Where none ran, `opwait` and `stall` are the cycles of R275
and R278 that have passed, and `short` the operations that waited for Gusset bytes in those of R278. A block does not end while a channel
that its operation reads retrains (R383). -/
def execArrayBlockEnd (die opwait stall : Nat) (short : List Nat) (x : BlockInfo) (s : State) : Res :=
  .next (if s.online die && !s.paused 0 die && !((s.arrayOps die).any (fun o => o.running && o.unit == .array && s.opRetrains o)) then
    let s := s.arrayWaits die opwait stall short
    let y := s.blockEnd die
    let s := match y.2 with
      | some o => y.1.arrayDone o x.found
      | none => y.1
    s.arrayPick die x.waiting
  else s)

end Sys2Proof.Machine
end

