-- ==== Sys2Proof/Machine/Maint.lean ====
section
/-!
DEFINITION. Machine/Maint.lean: the maintenance instructions (R51, R133, R192, R262 to R264).
-/

namespace Sys2Proof.Machine

/-- What a maintenance operation addresses: a tile by global ID, or for a trace the die's calibration engine. -/
def maintTarget (o : Op) : Nat := if iOp o.word = 0x3C ∧ o.word % 4 = 2 then 2 ^ 64 + o.ga / 2048 else o.ga

/-- Its turn has come: no earlier maintenance operation works on the same target or waits for it (R264). -/
def State.maintTurn (s : State) (o : Op) : Bool :=
  !s.ops.any (fun k => k.unit == .maint && maintTarget k == maintTarget o && decide (k.issue < o.issue))

/-- Firmware, or an earlier order, uses the tile (R192). -/
def State.tileInUse (s : State) (d t : Nat) : Bool :=
  s.progq.any (fun r => r.die == d && (r.tile == t || r.old == t)) || s.cals.any (fun c => c.die == d && c.tile == t)
    || (s.refreshOf d t).isSome || (s.refreshTo d t).isSome || s.ax .retiring d t != 0

/-- It ends with a status, without effect. -/
def State.maintEnd (s : State) (o : Op) (st : Nat) : State := s.opDone o st

/-- It begins: its unit leaves firmware management (R14, R192). -/
def State.maintRuns (s : State) (o : Op) : State :=
  { s with ops := s.ops.map (fun k => if k.issue = o.issue then { k with running := true } else k) }

/-! ## Payloads (R133, R262) -/

/-- The payload tensor passes R262 but for its codes. -/
def State.payloadShape (s : State) (j : Job) (w : Nat) : Bool :=
  s.tdOk j ⟨w, true⟩ && (s.tdAccess j w false).isNone && tdFmt w == fW8X && tdD w 0 == 512 && tdD w 1 == 1024 && tdD w 2 == 1 && tdD w 3 == 1

/-- The codes, by row. -/
def State.payloadOf (s : State) (j : Job) (w : Nat) : List Byte :=
  (List.range 1024).flatMap (fun r =>
    let n := s.tdRunNum j w r 0 0
    (List.range 512).map (fun i => BitVec.ofNat 8 (n / 256 ^ i)))

/-- Outside the extents of a placement the weights are 0 (R52). -/
def maskPayload (p : List Byte) (rowsM1 colsM1 : Nat) : List Byte :=
  p.zipIdx.map (fun e => if e.2 / 512 ≤ rowsM1 ∧ e.2 % 512 ≤ colsM1 then e.1 else 0)

/-! ## Beginnings -/

/-- CAL. A full calibration of a tile that is HELD for another cause is malformed even while firmware works on it. -/
def State.maintCal (s : State) (o : Op) (d t : Nat) : State :=
  let k := o.word % 4
  let st := s.tst d t
  let hc := s.rd .TIL_STATUS_HOLD_CAUSE d t
  let takes := fun (s : State) => ((s.maintRuns o).updTile d t (fun x => { x with expert := true })).calExpertShow d
  if k = 2 then
    if s.ax .traceRun d = 1 ∨ s.rdb .CAL_CTRL_HOLD d = true then s
    else (((s.maintRuns o).setAx .calExpert 1 d).calExpertShow d).traceStart d
  else if k = 3 ∨ (k = 1 ∧ st = tsHeld ∧ (hc = hcRefresh ∨ hc = hcRepair ∨ hc = hcImage)) then s.maintEnd o stMalformed
  else if s.tileInUse d t ∨ s.rdb .CAL_CTRL_HOLD d = true then s
  else if k = 0 then
    if st = tsServing ∨ st = tsHeld ∨ st = tsStaged then (takes s).startCal d t false 24 (some o.issue) else s.maintEnd o stMalformed
  else if st = tsStaged ∨ st = tsHeld then (takes s).fullStart d t (some o.issue)
  else s.maintEnd o stMalformed

/-- A request to a programming engine for a maintenance operation. -/
def State.maintReq (s : State) (o : Op) (r : PReq) : State :=
  ((s.maintRuns o).tilExpert r.die r.tile).progPush { r with kind := 1, deadline := o.deadline, op := some o.issue, since := s.now }

def State.maintClear (s : State) (o : Op) (d t : Nat) : State :=
  let st := s.tst d t
  if s.tileInUse d t then s
  else if st = tsFree ∨ st = tsCleared ∨ st = tsStaged then s.maintReq o (blankReq d t 1 .clear (noPlace d t) o.deadline)
  else s.maintEnd o stMalformed

/-- The placement of an extension word (R263). -/
def extPlace (x d t : Nat) : Placed :=
  { slot := bits x 63 58, map := bits x 57 57, layer := bits x 56 47, rowBlk := bits x 46 39, colBlk := bits x 38 31, die := d,
    tile := t, rowsM1 := bits x 30 21, colsM1 := bits x 20 12 }

/-- The slot has a model descriptor with the layer, the extents lie in its widths, and no other tile holds the placement or is
to hold it (R51, R263). -/
def State.placeOk (s : State) (p : Placed) : Bool :=
  match (s.mapOf p.slot p.map).bind (fun m => m.layer p.layer) with
  | none => false
  | some l =>
    l.crossbar && decide (1024 * p.rowBlk + p.rowsM1 < l.inW ∧ 512 * p.colBlk + p.colsM1 < l.outW)
      && !s.placed.any (fun q => samePlace p q && !(q.die == p.die && q.tile == p.tile))
      && !s.progq.any (fun r => (r.what == .prog || r.what == .inc) && samePlace p r.place && !(r.die == p.die && r.tile == p.tile))

def State.maintProg (s : State) (j : Job) (o : Op) (d t : Nat) : State :=
  let st := s.tst d t
  let inc := bit o.word 0
  let p := extPlace o.ext d t
  if s.tileInUse d t then s
  else if !(st == tsFree || st == tsCleared || st == tsStaged) || !(s.payloadShape j o.ta) || !(s.placeOk p) then s.maintEnd o stMalformed
  else if s.tdPoisoned j o.ta then s.faultJob o.job cMemoryEcc
  else
    let pay := s.payloadOf j o.ta
    if !(pay.all w8xOk) then s.maintEnd o stMalformed
    else if !(st == tsCleared || inc) then s.maintEnd o stTileNotClear
    else s.maintReq o { blankReq d t 1 (if inc then .inc else .prog) p o.deadline with payload := maskPayload pay p.rowsM1 p.colsM1 }

/-- The result tensor of VERIFY. -/
def State.verifyDest (s : State) (j : Job) (w : Nat) : Bool :=
  s.tdOk j ⟨w, true⟩ && (s.tdAccess j w true).isNone && tdFmt w == fS16 && tdD w 0 == 1152 && tdD w 1 == 1 && tdD w 2 == 1
    && tdD w 3 == 1 && !tdScaled w && !tdAsym w

def State.maintVerify (s : State) (j : Job) (o : Op) (d t : Nat) : State :=
  let st := s.tst d t
  if s.tileInUse d t then s
  else if !(st == tsFree || st == tsCleared || st == tsStaged || st == tsHeld) || !(s.payloadShape j o.ta) || !(s.verifyDest j o.td) then
    s.maintEnd o stMalformed
  else if s.tdPoisoned j o.ta then s.faultJob o.job cMemoryEcc
  else
    let pay := s.payloadOf j o.ta
    if !(pay.all w8xOk) then s.maintEnd o stMalformed
    else s.maintReq o { blankReq d t 1 .verify (noPlace d t) o.deadline with payload := pay }

def State.maintRefresh (s : State) (o : Op) (d t : Nat) : State :=
  if s.tileInUse d t then s
  else if (s.inPipe d t || s.tst d t == tsStaged) && (s.placeOf d t).isSome then
    ((s.maintRuns o).tilExpert d t).scheduleRefresh d t 3 o.deadline (some o.issue)
  else s.maintEnd o stMalformed

/-- A maintenance operation whose turn has come begins, ends as malformed, or goes on waiting. -/
def State.maintTry (s : State) (o : Op) : State :=
  let d := o.ga / 2048
  let t := if iOp o.word = 0x3C ∧ o.word % 4 = 2 then 0 else o.ga % 2048
  if !(s.maintTurn o) then s
  else if !(s.isTile d t) || !(s.online d) then s.maintEnd o stMalformed
  else match s.job o.job with
    | none => s
    | some j =>
      if iOp o.word = 0x3C then s.maintCal o d t
      else if iOp o.word = 0x3D then (if iSub o.word = 0 then s.maintClear o d t else s.maintProg j o d t)
      else if iOp o.word = 0x3E then s.maintVerify j o d t
      else s.maintRefresh o d t

/-- Maintenance operations that wait for their units try again. -/
def State.maintPump (s : State) : State :=
  s.each (s.ops.filter (fun o => o.unit == .maint && !o.running)) State.maintTry

/-- A maintenance instruction: it takes its ticket, and its operation begins as soon as its unit is free. An order of a
higher-ranked master for the same tile in the same cycle supersedes it (R264, R430). -/
def State.maintIssue (s : State) (c : Ctx) (rival : Option Master) : State :=
  if c.task.full then s
  else
    let s := s.launch c .maint 0 (iGb c.w)
    match s.ops.getLast? with
    | none => s
    | some o => match rival with
      | some m => if masterRank m < masterRank .pf then (s.superseded m .pf o.ga).maintEnd o stRejectedSuperseded else s.maintTry o
      | none => s.maintTry o

def execCal (t : TaskRef) (rival : Option Master) (s : State) : Res :=
  .next (s.issue t (fun w => iOp w == 0x3C) (fun s c => s.maintIssue c rival))

def execClear (t : TaskRef) (rival : Option Master) (s : State) : Res :=
  .next (s.issue t (fun w => iOp w == 0x3D && iSub w == 0) (fun s c => s.maintIssue c rival))

def execProg (t : TaskRef) (rival : Option Master) (s : State) : Res :=
  .next (s.issue t (fun w => iOp w == 0x3D && iSub w == 1) (fun s c => s.maintIssue c rival))

def execVerify (t : TaskRef) (rival : Option Master) (s : State) : Res :=
  .next (s.issue t (fun w => iOp w == 0x3E) (fun s c => s.maintIssue c rival))

def execRefresh (t : TaskRef) (rival : Option Master) (s : State) : Res :=
  .next (s.issue t (fun w => iOp w == 0x3F) (fun s c => s.maintIssue c rival))

/-- A VERIFY is done: its counts go into tTD; one that cannot be written is malformed (R262). -/
def State.verifyDone (s : State) (r : PReq) (counts : List Nat) : State :=
  match r.op.bind (fun k => s.ops.find? (fun o => o.issue == k)) with
  | none => s
  | some o => match s.job o.job with
    | none => s.endOp r.op stOK
    | some j =>
      if !(s.verifyDest j o.td) then s.endOp r.op stMalformed
      else match s.jobWrite o.job (tdRow o.td 0 0 0) (tdRunBytes o.td) (packRun fS16 ((List.range 1152).map (fun i => counts.getD i 0))) with
        | .ok s => s.endOp r.op stOK
        | .error c => s.faultJob o.job c

/-- VERIFY_FINISH (R262, R77): the counts of a VERIFY go to its result tensor. A spare test, whose verify expects level 0 in every
cell, fails where any count is above 0 (log entry 67). -/
def execVerifyFinish (die eng : Nat) (counts : List Nat) (s : State) : Res :=
  .next (match s.runningReq die eng (fun r => r.what == .verify && !r.clearFirst) with
    | none => s
    | some r =>
      let s1 := s.releaseEngine r
      let s1 := if r.kind ≠ 4 then s1.verifyDone r counts
        else if counts.any (fun n => n != 0) ∧ s1.tst die r.tile = tsSpare then s1.spareFails die r.tile else s1
      (s1.capUpdate.pump die).maintPump)

end Sys2Proof.Machine
end

