-- ==== Sys2Proof/Machine/Mem.lean ====
section
/-!
DEFINITION. Machine/Mem.lean: the BNK and MEM blocks: ownership orders, diagnostic reads with the check byte of R536, scrubs, and
the training of LPDDR5X (13_memory_banks_and_lpddr.md).
-/

namespace Sys2Proof.Machine

/-! ## Banks -/

def State.isBank (s : State) (d b : Nat) : Bool := s.dieWindow d && decide (b < 80)

/-- A write of KIND * 256 + ID (R366, R368). -/
def State.ownerWrite (s : State) (d b v : Nat) : State :=
  let kind := v / 256 % 8
  let id := v % 256
  if kind ≥ 6 then s.wr .BNK_STAT_REFUSED 1 d
  else
    let s := if kind = s.rd .BNK_OWNER_KIND d b ∧ id = s.rd .BNK_OWNER_ID d b then s else s.wr .BNK_STAT_EXPERT 1 d
    ((s.wr .BNK_OWNER_KIND kind d b).wr .BNK_OWNER_ID id d b).bankRequest d b kind id

def execBnkOwnerWrite (die bank : Nat) (o : Order) (s : State) : Res :=
  .next (if s.isBank die bank then s.order o (regAddr .BNK_OWNER die bank) (fun s _ v => s.ownerWrite die bank v) else s)

def execBankHandover (die bank : Nat) (s : State) : Res := .next (if s.isBank die bank then (s.bankHandover die bank).evictCheck else s)

/-- BANK_ZEROING_END: 4,096 core_clk cycles after the zeroing began; they pause while the core PLL has no lock (R456). -/
def execBankZeroingEnd (die bank : Nat) (s : State) : Res :=
  .next (if s.rdb .BNK_OWNER_ZEROING die bank && !s.paused 0 die && decide (s.ax .bankZeroEnd die bank ≤ s.dt + 1) then (s.bankZeroEnded die bank).evictCheck else s)

def execBnkCtrlClear (die : Nat) (o : Order) (s : State) : Res :=
  .next (if s.dieWindow die then s.order o (regAddr .BNK_CTRL die) (fun s _ v => s.when (v % 2 == 1) (fun s =>
    s.each [Field.BNK_COLLIDE_COUNT, .BNK_DENIED_COUNT, .BNK_HANDOVERS_COUNT, .BNK_ECC_CORR_COUNT, .BNK_ECC_UNCORR_COUNT]
      (fun s f => s.wr f 0 die))) else s)

/-- The owner that firmware gives a bank: of a function's allocation, of a running job's scratch, or FREE (R366). -/
def State.ownerDue (s : State) (d b : Nat) : Nat × Nat :=
  match s.allocs.find? (fun a => a.kind == 2 && a.die == d && decide (a.first ≤ b ∧ b < a.first + a.count)) with
  | some a => (ownSequencer, 128 + a.fn)
  | none => match s.jobs.find? (fun j => j.scratch.any (fun x => x.1 == d && decide (x.2.1 ≤ b ∧ b < x.2.1 + x.2.2))) with
    | some j => (ownSequencer, j.runTag)
    | none => (ownFree, 0)

/-- BNK_CTRL.HANDBACK: firmware asks for the owners that it would have given. -/
def State.bnkHandback (s : State) (d : Nat) : State :=
  let s := (s.resetReg .BNK_SCRUB d 0).wr .BNK_STAT_EXPERT 0 d
  s.each (List.range 80) (fun s b =>
    let o := s.ownerDue d b
    if (s.rd .BNK_OWNER_CUR_KIND d b = o.1 ∧ s.rd .BNK_OWNER_CUR_ID d b = o.2 ∧ !s.rdb .BNK_OWNER_PEND d b)
        ∨ (s.rdb .BNK_OWNER_PEND d b ∧ s.ax .bankTarget d b = 1 + 256 * o.1 + o.2) then s
    else s.bankRequest d b o.1 o.2)

def execBnkCtrlHandback (die : Nat) (o : Order) (s : State) : Res :=
  .next (if s.dieWindow die then s.order o (regAddr .BNK_CTRL die) (fun s _ v => s.when (v % 2 == 1) (fun s => s.bnkHandback die)) else s)

/-- Hamming positions of the data bits (R536). -/
def hammingPositions : List Nat := ((List.range 72).filter (fun p => decide (p ≠ 0) && p &&& (p - 1) != 0))

/-- Parity of the data bits that a condition selects. -/
def parityOf (v : Nat) (l : List Nat) : Bool := l.foldl (fun a i => a != bit v i) false

/-- The check byte of a granule (R536). -/
def checkByte (v : Nat) : Nat :=
  let c := (List.range 7).map (fun k => parityOf v ((List.range 64).filter (fun i => bit (hammingPositions.getD i 0) k)))
  let c7 := c.foldl (fun a b => a != b) (parityOf v (List.range 64))
  ((c ++ [c7]).zipIdx.map (fun e => b2n e.1 * 2 ^ e.2)).foldl (· + ·) 0

/-- The diagnostic read (R371): with a collision, of a poisoned granule, or beyond the banks, the raw data is open
(log entry 6). -/
def State.diagRead (s : State) (d : Nat) (collide : Bool) : State :=
  let off := s.rd .BNK_DIAG_OFFSET d / 8 * 8
  let k := bankAddr d off
  let s := (s.wr .BNK_STAT_EXPERT 1 d).wr .BNK_DIAG_BUSY (b2n collide) d
  if collide || s.poison.get false k || decide (off ≥ bankBytes) then
    let a := s.fresh
    let b := a.2.fresh
    let s := (b.2.wr .BNK_DIAGDATA_DATA a.1 d).wr .BNK_DIAGCHK_CHECK b.1 d
    if collide then s.bump .BNK_COLLIDE_COUNT 1 d else s
  else
    let v := s.load k 8
    (s.wr .BNK_DIAGDATA_DATA v d).wr .BNK_DIAGCHK_CHECK (checkByte v) d

def execBnkDiagGo (die : Nat) (collide : Bool) (o : Order) (s : State) : Res :=
  .next (if s.dieWindow die then s.order o (regAddr .BNK_DIAG die) (fun s _ v => s.when (v % 2 == 1) (fun s => s.diagRead die collide)) else s)

/-- A scrub of the banks found `corr` single-bit errors and double-bit errors in the granules at `bad` (R372, R374). -/
def execBankScrub (die corr : Nat) (bad : List Nat) (s : State) : Res :=
  .next (if s.online die && s.rd .BNK_SCRUB_HOURS die != 0 then
    (s.bump .BNK_ECC_CORR_COUNT corr die).each (bad.filter (fun o => decide (o < bankBytes))) (fun s o => s.bankDouble (bankAddr die o))
  else s)

/-! ## LPDDR5X -/

/-- The patrol scrub reads blocks of the die (R381). Without inline ECC there is no check word to read them by. -/
def execLpddrPatrolScrub (die : Nat) (offs : List Nat) (flips : List Flip) (s : State) : Res :=
  .next (if s.online die && s.rd .MEM_SCRUB_HOURS die != 0 && s.rdb .MEM_STAT_IECC_ON die then
    s.each (offs.filter (fun o => decide (o < s.installed die))) (fun s o => s.readBlock die o flips)
  else s)

/-- The drift of a serving channel's oscillator exceeds the limit: it retrains (R382). -/
def execWck2dqDrift (die ch : Nat) (s : State) : Res :=
  .next (if s.online die && decide (ch < 4) && s.rd .MEM_CH_STATE die ch == 1 then s.retrainStart die ch else s)

/-- A retraining ends; the controller reads MR4 after it (R376; log entry 82). -/
def State.retrainEnded (s : State) (d ch : Nat) (x : RetrainInfo) : State :=
  if x.ok then
    ((((s.wr .MEM_CH_STATE 1 d ch).wr .MEM_CH_FAILS 0 d ch).wr .MEM_CH_REFRATE x.refRate d ch).wr .MEM_STAT_TRAINED
      (setBit (s.rd .MEM_STAT_TRAINED d) ch true) d).setAx .retrainEnd 0 d ch
  else s.retrainFailed d ch

/-- MEM_CTRL.RETRAIN reads 0 again once no channel of the die retrains (R10). -/
def State.retrainOver (s : State) (d : Nat) : State :=
  if (List.range 4).all (fun ch => s.rd .MEM_CH_STATE d ch != 2) then s.wr .MEM_CTRL_RETRAIN 0 d else s

def execRetrainEnd (die ch : Nat) (x : RetrainInfo) (s : State) : Res :=
  .next (if ch < 4 ∧ s.rd .MEM_CH_STATE die ch = 2 ∧ s.paused 4 die = false then (s.retrainEnded die ch x).retrainOver die else s)

def State.memExpert (s : State) (d : Nat) : State := s.wr .MEM_STAT_EXPERT 1 d

/-- MEM_CTRL.RETRAIN: every serving channel retrains. The bit reads 1 until no channel retrains any more, and a further 1 has no
effect until then (R10, R382). -/
def State.retrainAll (s : State) (d : Nat) : State :=
  if s.rdb .MEM_CTRL_RETRAIN d then s
  else
    let l := (List.range 4).filter (fun ch => s.rd .MEM_CH_STATE d ch == 1)
    ((s.memExpert d).wr .MEM_CTRL_RETRAIN (b2n !l.isEmpty) d).each l (fun s ch => s.retrainStart d ch)

def execMemCtrlRetrain (die : Nat) (o : Order) (s : State) : Res :=
  .next (if s.dieWindow die then s.order o (regAddr .MEM_CTRL die) (fun s _ v => s.when (v % 2 == 1) (fun s =>
    s.retrainAll die)) else s)

def execMemCtrlClear (die : Nat) (o : Order) (s : State) : Res :=
  .next (if s.dieWindow die then s.order o (regAddr .MEM_CTRL die) (fun s _ v => s.when (v % 2 == 1) (fun s =>
    s.each [Field.MEM_CORR_COUNT, .MEM_UNCORR_COUNT, .MEM_RETRAIN_COUNT, .MEM_LECC_COUNT] (fun s f => s.wr f 0 die))) else s)

def State.memHandback (s : State) (d : Nat) : State :=
  ((s.resetReg .MEM_ARB d 0).resetReg .MEM_SCRUB d 0).wr .MEM_STAT_EXPERT 0 d

def execMemCtrlHandback (die : Nat) (o : Order) (s : State) : Res :=
  .next (if s.dieWindow die then s.order o (regAddr .MEM_CTRL die) (fun s _ v => s.when (v % 2 == 1) (fun s => s.memHandback die)) else s)

/-- A write of MEM_CFG as IECC * 8 + LECC * 4 + RATE: it is kept in the Pocket for the next cold start (R376). -/
def State.memCfg (s : State) (d v : Nat) : State :=
  if v % 4 = 3 then s.wr .MEM_STAT_REFUSED 1 d
  else
    let same := decide (v / 8 % 2 = s.rd .MEM_CFG_IECC d ∧ v / 4 % 2 = s.rd .MEM_CFG_LECC d ∧ v % 4 = s.rd .MEM_CFG_RATE d)
    let s := if same then s else s.memExpert d
    (((s.wr .MEM_CFG_IECC (v / 8) d).wr .MEM_CFG_LECC (v / 4) d).wr .MEM_CFG_RATE v d).setAx .nvMem (1 + v % 16) d

def execMemCfgWrite (die : Nat) (o : Order) (s : State) : Res :=
  .next (if s.dieWindow die then s.order o (regAddr .MEM_CFG die) (fun s _ v => s.memCfg die v) else s)

end Sys2Proof.Machine
end

