-- ==== Sys2Proof/Machine/Pocket.lean ====
section
/-!
DEFINITION. Machine/Pocket.lean: the Pocket store: its page map and protection (R487 to R491, R497 to R501), the PKT registers
and the Pocket commands of the host (R502) (17_pocket_and_management_chain.md).
-/

namespace Sys2Proof.Machine

/-! ## Pages -/

/-- Pages whose bytes the model holds as bytes: KEYS, REVOKE, SHADOW and the user pages (R489). -/
def storedPage (p : Nat) : Bool := decide ((2 ≤ p ∧ p ≤ 10) ∨ p = 19 ∨ p = 20 ∨ 32 ≤ p)

/-- Temperature of a set, its valid byte and the CRC over its header (R325; log entry 126 for the places). -/
def State.setHeader (s : State) (d i : Nat) : List Byte :=
  sealed (leBytes 2 (wrap 16 (setTemp i)) ++ leBytes 1 (b2n (s.setValid d i)) ++ zeros 57)

/-- The global block: ρ_f after a header of 64 bytes, and the CRC over both (R325; log entry 126). -/
def State.setGlobal (s : State) (d : Nat) : List Byte := sealed (zeros 64 ++ leBytes 4 (s.tab d 0 tGlobal 2))

/-- Byte x of the temperature sets of a die (R325), with what an expert wrote (R348); none where R325 gives no content. -/
def State.setByte? (s : State) (d x : Nat) : Option Nat :=
  let i := (x - 4096) / 5056
  let o := (x - 4096) % 5056
  if x < 4096 then (s.setGlobal d)[x]?.map (·.toNat)
  else if i ≥ 5 then none
  else if o < 64 then (s.setHeader d i)[o]?.map (·.toNat)
  else
    let t := (o - 64) / 3
    some ((s.tabAt d t tTempNew i).getD (s.tab d t tTemp i) / 256 ^ ((o - 64) % 3) % 256)

/-- A word of the Pocket as a read sees it (R489). A page of Brinak's whose bytes the spec does not lay out reads a free value. -/
def State.pocketWord (s : State) (d p w : Nat) : Nat × State :=
  if p = 21 then (0, s)
  else if storedPage p then (s.pktNum d p (4 * w) 4, s)
  else
    let f := s.fresh
    let x := (p - 11) * 4096 + 4 * w
    if 11 ≤ p ∧ p ≤ 18 then
      match (List.range 4).mapM (fun k => s.setByte? d (x + k)) with
      | some l => ((l.zipIdx.map (fun e => e.1 * 256 ^ e.2)).foldl (· + ·) 0, s)
      | none => (f.1 % 2 ^ 32, f.2)
    else (f.1 % 2 ^ 32, f.2)

/-! ## Protection (R497 to R500) -/

/-- Region of a user page (R498). -/
def pktRegion (p : Nat) : Nat := (p - 32) / 8

/-- A region is open for a kind of access: 0 read, 1 write (R497, R498). -/
def State.regionOpen (s : State) (r k : Nat) : Bool :=
  s.rd .PKT_STAT_MODE != 1 || s.ax .pktPass r k == 0 || s.ax .pktOpen r k == 1

/-- A page may be read (R489, R498). -/
def State.pktRdOpen (s : State) (p : Nat) : Bool := decide (p < 32) || s.regionOpen (pktRegion p) 0

/-- A page may be written by a host or the chain (R489, R498, R500). -/
def State.pktWrOpen (s : State) (d p : Nat) : Bool :=
  decide (32 ≤ p) && s.regionOpen (pktRegion p) 1 && !(s.rd .PKT_STAT_MODE == 2 && s.pageLocked d p)

/-- An access that R491 does not carry out: an address that does not exist. -/
def State.pktRefused (s : State) : State := s.wr .PKT_STAT_REFUSED 1

/-- An access refused under R489 or the protection (R491). -/
def State.pktDenied (s : State) : State := s.pktRefused.bump .PKT_STAT_DENIED

/-- A read of one word: its value, and the state after (R491). -/
def State.pktRead (s : State) (d p w : Nat) : Nat × State :=
  if d ≥ s.part.dies ∨ p > 127 then (0, s.pktRefused)
  else if !s.pktRdOpen p then (0, s.pktDenied)
  else s.pocketWord d p w

/-- A write of bytes within one page (R488, R491). -/
def State.pktStore (s : State) (d p off : Nat) (l : List Byte) : State :=
  if d ≥ s.part.dies ∨ p > 127 ∨ off + l.length > 4096 then s.pktRefused
  else if !s.pktWrOpen d p then s.pktDenied
  else s.pktWrite d p off l

/-- An attempt at a password of a region and kind (R499): whether it is right, and the state after. -/
def State.tryPassword (s : State) (r k v : Nat) : Bool × State :=
  let n := s.ax .pktWrong r k
  if n ≥ 8 then (false, s)
  else if v = s.ax .pktPass r k then (true, s.setAx .pktWrong 0 r k)
  else
    let s := s.setAx .pktWrong (n + 1) r k
    (false, if n + 1 = 8 then s.event 0xA2 0xFF sevWarning (r + atByte 1 k) else s)

/-! ## The PKT registers -/

/-- PKT_ADDR after an access to PKT_DATA. -/
def State.pktNext (s : State) : State := if s.rdb .PKT_ADDR_AUTOINC then s.wr .PKT_ADDR_WORD (s.rd .PKT_ADDR_WORD + 1) else s

/-- A read of PKT_DATA: the word, and the state after. -/
def State.pktDataRead (s : State) : Nat × State :=
  let r := s.pktRead (s.rd .PKT_ADDR_DIE) (s.rd .PKT_ADDR_PAGE) (s.rd .PKT_ADDR_WORD)
  (r.1, r.2.pktNext)

/-- A write of PKT_DATA. -/
def State.pktDataWrite (s : State) (v : Nat) : State :=
  (s.pktStore (s.rd .PKT_ADDR_DIE) (s.rd .PKT_ADDR_PAGE) (4 * s.rd .PKT_ADDR_WORD) (leBytes 4 v)).pktNext

def execPktDataAccess (a : Access) (s : State) : Res :=
  .next (match a with
    | .read m =>
      if reachesPf m then
        let r := s.pktDataRead
        r.2.emit (.readData m (regAddr .PKT_DATA) 4 r.1)
      else s
    | .write o => s.order o (regAddr .PKT_DATA) (fun s _ v => s.pktDataWrite v))

/-- The fields of PKT_PAGE, which report the page that PKT_ADDR selects. -/
def State.pktPage (s : State) : Nat :=
  let d := s.rd .PKT_ADDR_DIE
  let p := s.rd .PKT_ADDR_PAGE
  let here := decide (d < s.part.dies)
  let user := decide (32 ≤ p)
  let r := pktRegion p
  let out := fun k => user && decide (s.ax .pktWrong r k ≥ 8)
  put 31 31 (b2n user) + put 30 30 (b2n (s.pageLocked d p)) + put 29 29 (b2n (here && s.pktRdOpen p)) + put 28 28
    (b2n (here && s.pktWrOpen d p)) + put 27 27 (b2n (out 1)) + put 26 26 (b2n (out 0)) + (if user then r else 0xF)

/-- PKT_UNLOCK: the password reaches the region and kind of PKT_UNLOCKSEL (R498); outside PASSWORD mode there is none, and one of 0 has
nothing to open. -/
def State.unlock (s : State) (v : Nat) : State :=
  let r := s.rd .PKT_UNLOCKSEL_AREA
  let k := s.rd .PKT_UNLOCKSEL_KIND
  let s := s.wr .PKT_UNLOCK_PASSWORD v
  if s.rd .PKT_STAT_MODE = 1 then
    let t := s.tryPassword r k v
    if t.1 ∧ v ≠ 0 then t.2.setAx .pktOpen 1 r k else t.2
  else s

/-- The holding word of a register and master (R6). -/
def State.holding (s : State) (m : Master) (addr : Nat) : Option Nat := s.hold.get none (Nat.pair (masterKey m) addr)

def State.setHolding (s : State) (m : Master) (addr : Nat) (v : Option Nat) : State :=
  { s with hold := s.hold.set none (Nat.pair (masterKey m) addr) v }

/-- A write of the high word, or of the whole, of PKT_UNLOCK (R6, R498). -/
def execPktUnlockWrite (wide : Bool) (o : Order) (s : State) : Res :=
  .next (s.order o (regAddr .PKT_UNLOCK) (fun s m v =>
    let lo := (s.holding m (regAddr .PKT_UNLOCK)).getD (s.rd .PKT_UNLOCK_PASSWORD % 2 ^ 32)
    (s.setHolding m (regAddr .PKT_UNLOCK) none).unlock (if wide then v else lo + v % 2 ^ 32 * 2 ^ 32)))

/-- RELOCK closes every region whose password is not 0 (R498). -/
def State.relock (s : State) : State :=
  s.each (List.range 12) (fun s r => s.each (List.range 2) (fun s k => if s.ax .pktPass r k ≠ 0 then s.setAx .pktOpen 0 r k else s))

def execPktUnlockselRelock (o : Order) (s : State) : Res :=
  .next (s.order o (regAddr .PKT_UNLOCKSEL) (fun s _ v => s.when (v % 2 == 1) State.relock))

def execChnCfgPecWrite (o : Order) (s : State) : Res := .next (s.order o (regAddr .CHN_CFG) (fun s _ v => s.wr .CHN_CFG_PEC v))

/-! ## Commands from the host (R501, R502) -/

/-- The pages that a command names lie in the Pocket of a die of the part (R491, R502). -/
def State.pktSpan (s : State) (c : Cmd) : Bool :=
  decide (c.b 16 1 < s.part.dies ∧ 1 ≤ c.b 18 1 ∧ c.b 17 1 + c.b 18 1 ≤ 128)

/-- The pages that a command names, each with its place in the order. -/
def Cmd.pages (c : Cmd) : List (Nat × Nat) := (List.range (c.b 18 1)).map (fun i => (c.b 17 1 + i, i))

/-- One page to host memory. -/
def State.pageToHost (s : State) (fn d p a : Nat) : State :=
  s.each (List.range 1024) (fun s w =>
    let r := s.pocketWord d p w
    r.2.store (hostKey fn (a + 4 * w)) 4 r.1)

/-- POCKET_READ, page by page. -/
def State.readPages (s : State) (c : Cmd) : List (Nat × Nat) → State
  | [] => s.completeCmd c stOK 0
  | e :: t =>
    if s.pktRdOpen e.1 then (s.pageToHost c.fn (c.b 16 1) e.1 (c.b 24 8 + 4096 * e.2)).readPages c t
    else s.pktDenied.completeCmd c stRejectedPrivilege 0

/-- POCKET_WRITE and POCKET_ERASE, page by page; `res` is the result word for the pages written so far. -/
def State.writePages (s : State) (c : Cmd) (page : Nat → List Byte) (res : Nat → Nat) : List (Nat × Nat) → State
  | [] => s.completeCmd c stOK (res (c.b 18 1))
  | e :: t =>
    if s.pktWrOpen (c.b 16 1) e.1 then (s.pktWrite (c.b 16 1) e.1 0 (page e.2)).writePages c page res t
    else s.pktDenied.completeCmd c stRejectedPrivilege (res e.2)

def State.pocketRead (s : State) (c : Cmd) : State :=
  if s.pktSpan c then s.readPages c c.pages else s.completeCmd c stMalformed 0

def State.pocketWrite (s : State) (c : Cmd) (data : HostRead (List Byte)) : State :=
  match data with
  | .ok l =>
    if s.pktSpan c then s.writePages c (fun i => (List.range 4096).map (fun k => l.getD (4096 * i + k) 0)) (fun _ => 0) c.pages
    else s.completeCmd c stMalformed 0
  | .error e => (s.aer e).completeCmd c stMalformed 0

def State.pocketErase (s : State) (c : Cmd) : State :=
  if s.pktSpan c then s.writePages c (fun _ => List.replicate 4096 (BitVec.ofNat 8 (c.b 19 1))) (fun n => n) c.pages
  else s.completeCmd c stMalformed 0

/-- POCKET_PROTECT_CHANGED (R511). -/
def State.protectEvent (s : State) (action d x : Nat) : State :=
  s.event 0xA3 0xFF sevNotice (action + atByte 1 (s.rd .PKT_STAT_MODE) + atByte 2 d + atByte 3 x)

/-- Action 0: the mode is set once (R497). -/
def State.setProtection (s : State) (c : Cmd) : State :=
  let m := c.b 17 1
  if s.rd .PKT_STAT_MODE ≠ 0 ∨ m = 0 ∨ m > 2 then s.completeCmd c stMalformed 0
  else ((s.wr .PKT_STAT_MODE m).protectEvent 0 0 0).completeCmd c stOK 0

/-- Action 1: a password of a region and kind (R498, R499, R502). -/
def State.setPassword (s : State) (c : Cmd) : State :=
  let r := c.b 17 1
  let k := c.b 18 1
  if s.rd .PKT_STAT_MODE ≠ 1 ∨ r > 11 ∨ k > 1 then s.completeCmd c stMalformed 0
  else
    let t := s.tryPassword r k (c.b 32 8)
    if t.1 then ((t.2.setAx .pktPass (c.b 24 8) r k).protectEvent 1 0 r).completeCmd c stOK 0
    else t.2.pktDenied.completeCmd c stRejectedPrivilege 0

/-- Action 2: a user page is locked for ever (R500). -/
def State.lockPage (s : State) (c : Cmd) : State :=
  let d := c.b 17 1
  let p := c.b 18 1
  if s.rd .PKT_STAT_MODE ≠ 2 ∨ d ≥ s.part.dies ∨ p < 32 ∨ p > 127 then s.completeCmd c stMalformed 0
  else if s.pageLocked d p then s.completeCmd c stOK 0
  else ((s.setAx .pageLock 1 d p).protectEvent 2 d p).completeCmd c stOK 0

def State.pocketProtect (s : State) (c : Cmd) : State :=
  if c.b 16 1 = 0 then s.setProtection c else if c.b 16 1 = 1 then s.setPassword c
  else if c.b 16 1 = 2 then s.lockPage c else s.completeCmd c stMalformed 0

def execPocketRead (id : Nat) (s : State) : Res := .next (s.runCmd id 0x50 (fun s c => s.pocketRead c))

def execPocketWrite (id : Nat) (data : HostRead (List Byte)) (s : State) : Res :=
  .next (s.runCmd id 0x51 (fun s c => s.pocketWrite c data))

def execPocketErase (id : Nat) (s : State) : Res := .next (s.runCmd id 0x52 (fun s c => s.pocketErase c))

def execPocketProtect (id : Nat) (s : State) : Res := .next (s.runCmd id 0x53 (fun s c => s.pocketProtect c))

end Sys2Proof.Machine
end

