-- ==== Sys2Proof/Machine/Start.lean ====
section
/-!
DEFINITION. Machine/Start.lean: cold reset, the start-up and minimal mode (R479 to R485), PERST_N (R484), the shadow save and
what start-up takes from it (R493 to R496), a dip of a rail (R521), a missed firmware watchdog (R426, R479), and the first
enable of the PF's event ring (R485).
-/

namespace Sys2Proof.Machine

/-! ## Cold reset (R10, R46, R484) -/

/-- A tile's state after cold reset: RETIRED, SPARE and RECORD stay (R46), any other tile is FREE. -/
def coldState (e : Nat × Nat) : Option (Nat × Nat) :=
  let t := e.1.unpair.2.unpair.2.unpair.1
  let v := if tsSpare ≤ e.2 ∧ e.2 ≤ tsRetired then e.2 else tsFree
  if v = tsFree ∧ t < 1536 then none else some (e.1, v)

/-- Fields that show what is physical, non-volatile or a pin, and so outlive a cold reset. -/
def coldFields : List Field :=
  [.TIL_STATUS_REPLACES, .TIL_SPARES_SPARE_COLS_FREE, .TIL_SPARES_SPARE_CONV_FREE, .TIL_SPARECOL_BLK0, .TIL_SPARECOL_BLK1, .TIL_SPARECOL_BLK2, .TIL_SPARECOL_BLK3, .PKT_STAT_MODE, .PKT_STAT_SHADOW,
   .PKT_LIFE_POH_HOURS, .PKT_LIFE_CYCLES_COUNT, .PKT_LIFE_ENERGY_JOULES, .PKT_LIFE_STITCHES_COUNT, .CHN_CFG_PEC, .CHN_CFG_VALID,
   .CHN_CFG_ADDR, .CHN_STAT_CHAIN_IN, .CHN_STAT_CHAIN_OUT, .CHN_STAT_BYPASS, .CLK_STAT_XTAL_READY, .CLK_STAT_RC_READY,
   .CLK_STAT_REFCLK_READY, .PWR_STAT_SHED_IN, .MIR_STAT_TAKE_SEEN]

/-- Hidden scalars that outlive a cold reset. -/
def coldAux : List Aux :=
  [.nvFails, .nvLast, .nvMem, .startLost, .shadowSkip, .pageLock, .pktPass, .wear, .tilesLost, .recSlot, .recRole, .recGen, .bypassed,
   .chainBeat, .energyRest, .pllsOnce]

/-- Tables that are not in volatile storage: the temperature sets and rho_f (R325), and the spare converters' own (log entry 26). -/
def coldTabs : List Nat := [tTemp, tTempNew, tGlobal, tConv]

/-- A cold reset: the reset values, and what outlives them. The start-up zeroes every bank before it is FREE (R369). Placements, images and maps are lost; the cells and the record
space keep what they hold. Where power was lost (`power`), the part's own memories are lost too, and a source
must become ready anew. -/
def State.coldReset (s : State) (power : Bool) : State :=
  let z := State.resetOf s.part
  let fs := (coldFields.filter (fun f => !power || !(f == .CLK_STAT_XTAL_READY || f == .CLK_STAT_RC_READY ||
    f == .CLK_STAT_REFCLK_READY))).map Field.ctorIdx
  let axs := coldAux.map Aux.ctorIdx
  let s' : State := { z with
    pending := s.pending
    outbox := s.outbox
    free := s.free
    pocket := s.pocket
    mem := s.mem.filter (fun e => decide (2 ^ 64 ≤ e.1) || (!power && devRegion e.1 != 0))
    recs := s.recs
    poison := if power then [] else s.poison.filter (fun e => devRegion e.1 != 0)
    fld := s.fld.filterMap (fun e =>
      if e.1.unpair.1 = Field.ctorIdx .TIL_STATUS_STATE then coldState e
      else if fs.contains e.1.unpair.1 then some e else none)
    aux := s.aux.filter (fun e => axs.contains e.1.unpair.1)
    tabs := s.tabs.filter (fun e => coldTabs.contains (e.1 % 64))
    tiles := s.tiles.filterMap (fun e =>
      let x := { TileSt.fresh with stuck := e.2.stuck, conv := e.2.conv }
      if x = TileSt.fresh then none else some (e.1, x)) }
  let s' : State := { s' with tabs := s'.tabs.filterMap (fun e =>
    if e.1 % 64 = tGlobal then
      let l := e.2.filter (fun x => x.1 == 2)
      if l = [] then none else some (e.1, l)
    else some e) }
  if s'.rdb .PWR_STAT_SHED_IN then s'.setAx .shedAt 1 else s'

/-! ## Lifetime shadows (R493 to R496) -/

/-- Pages of the copies A and B (R489). -/
def shadowPage (copy : Nat) : Nat := 19 + copy

/-- Sequence number of a copy: bytes 24 to 27 of the package values. -/
def State.shadowSeqOf (s : State) (d copy : Nat) : Nat := s.pktNum d (shadowPage copy) 3352 4

/-- `a` is newer than `b`, modulo 2^32 (R494). -/
def newerSeq (a b : Nat) : Bool := decide (0 < (a + 2 ^ 32 - b) % 2 ^ 32 ∧ (a + 2 ^ 32 - b) % 2 ^ 32 < 2 ^ 31)

/-- The record of a die (R493), with a sequence number. -/
def State.shadowRecord (s : State) (d seq : Nat) : List Byte :=
  let l := ((List.range 1664).flatMap (fun t => leBytes 2 (s.ax .wear d t))) ++ leBytes 4 (s.rd .PKT_LIFE_POH_HOURS) ++
    leBytes 8 (s.rd .PKT_LIFE_ENERGY_JOULES) ++ leBytes 8 (s.rd .PKT_LIFE_STITCHES_COUNT) ++ leBytes 4 (s.rd .PKT_LIFE_CYCLES_COUNT)
      ++ leBytes 4 seq
  l ++ leBytes 4 (crc32c l)

/-- The copy that a save writes: the older one, or copy A on a PX-880 (R494, R495). -/
def State.saveCopy (s : State) (d : Nat) : Nat :=
  if s.part.dies = 8 then 0 else if newerSeq (s.shadowSeqOf d 0) (s.shadowSeqOf d 1) then 1 else 0

/-- Every die saves its record at once (R493). -/
def State.saveShadows (s : State) : State :=
  s.each s.dies (fun s d =>
    let c := s.saveCopy d
    let old := if s.part.dies = 8 then s.shadowSeqOf d 0
      else if newerSeq (s.shadowSeqOf d 0) (s.shadowSeqOf d 1) then s.shadowSeqOf d 0 else s.shadowSeqOf d 1
    s.pktWrite d (shadowPage c) 0 (s.shadowRecord d ((old + 1) % 2 ^ 32)))

/-- The copy that supplies a die's shadows, with the cause of R496 where it is not the newest: none where no copy is valid. -/
def State.shadowPick (s : State) (bad : List (Nat × Nat × Nat)) (d : Nat) : Option Nat × Nat :=
  let ok := fun c => !bad.contains (d, shadowPage c, c)
  if s.part.dies = 8 then (if ok 0 then (some 0, if s.ax .shadowSkip = 1 then 1 else 0) else (none, 3))
  else
    let n := if newerSeq (s.shadowSeqOf d 1) (s.shadowSeqOf d 0) then 1 else 0
    if ok n then (some n, 0) else if ok (1 - n) then (some (1 - n), 2) else (none, 3)

/-- The wear counts of a die from its own record (R493); with no valid copy they are 0 (R496). -/
def State.loadWear (s : State) (d : Nat) (c : Option Nat) : State :=
  s.each (List.range 1664) (fun s t => s.setAx .wear ((c.map (fun c => s.pktNum d (shadowPage c) (2 * t) 2)).getD 0) d t)

/-- Start-up after power good takes the shadows from the records, and counts this power cycle (R493, R496). -/
def State.loadShadows (s : State) (bad : List (Nat × Nat × Nat)) : State :=
  let picks := s.dies.map (fun d => (d, s.shadowPick bad d))
  let valid := picks.filterMap (fun e => e.2.1.map (fun c => (e.1, c, s.shadowSeqOf e.1 c)))
  let best := valid.foldl (fun (m : Option (Nat × Nat × Nat)) e => match m with
    | none => some e
    | some x => if newerSeq e.2.2 x.2.2 then some e else some x) none
  let num := fun o n => (best.map (fun e => s.pktNum e.1 (shadowPage e.2.1) o n)).getD 0
  let s1 := s.each picks (fun s e => s.loadWear e.1 e.2.1)
  let s1 := (((s1.wr .PKT_LIFE_POH_HOURS (num 3328 4)).wr .PKT_LIFE_ENERGY_JOULES (num 3332 8)).wr .PKT_LIFE_STITCHES_COUNT
    (num 3340 8)).wr .PKT_LIFE_CYCLES_COUNT (num 3348 4 + 1)
  let s1 := s1.setAx .shadowSkip 0
  let s1 := s1.each picks (fun s1 e => (s1.setAx .shadowCause e.2.2 e.1).setAx .shadowSeq ((e.2.1.map (fun c => s.shadowSeqOf e.1 c)).getD 0)
    e.1)
  s1.wr .PKT_STAT_SHADOW (((picks.find? (fun e => e.2.2 != 0)).map (·.2.2)).getD 0)

/-! ## The start-up (R479 to R482) -/

/-- A step is done. -/
def State.stepDone (s : State) (k : Nat) : Bool := bit (s.ax .startMask) k

def State.markStep (s : State) (k : Nat) : State :=
  (s.setAx .startMask (setBit (s.ax .startMask) k true)).wr .START_REPORT_STEP (max k (s.rd .START_REPORT_STEP))

/-- The steps that must be done before a step (R479): steps 7 to 9 and step 10 run in parallel after step 6. -/
def stepNeeds (k : Nat) : List Nat := if k = 10 then [6] else if k = 11 then [9, 10] else [k - 1]

/-- Minimal mode (R482): the fabric, the digital array and the sequencers are gated. -/
def State.enterMinimal (s : State) (reason : Nat) : State :=
  let step := s.rd .START_REPORT_STEP
  let s := (s.wr .START_REPORT_STATE 2).wr .START_REPORT_REASON reason
  let s := s.wr .START_REPORT_FW_SLOT (if reason = 1 then 2 else s.rd .START_REPORT_FW_SLOT)
  let s := s.each s.dies (fun s d => (s.wr .CLK_GATE_BLK 0xC4 0 d).wr .CLK_SG_GROUP 0 0 d)
  s.event 0x81 0xFF sevCritical (reason + atByte 1 step)

/-- The start-up runs again from step 3, with every gate as after reset (R466, R483). -/
def State.rerun (s : State) : State :=
  ((s.restartFrom3.setAx .retryAt 0).setAx .coldPower 0).each s.dies (fun s d =>
    ((s.resetReg .CLK_GATE 0 d).resetReg .CLK_SG 0 d))

/-- A start fails: its reason is recorded with the count, and the start-up runs again from step 3 (R480; log entry 33). -/
def State.startFail (s : State) (reason : Nat) : State :=
  ((s.setAx .nvLast reason).wr .START_REPORT_LAST reason).rerun

/-- Step 2: mgmt_clk runs on the first ready source, the crystal before the RC oscillator (R465, R479). -/
def State.step2 (s : State) : State :=
  if s.rdb .CLK_STAT_XTAL_READY then (s.wr .CLK_STAT_MGMT_ON_RC 0).markStep 2
  else if s.rdb .CLK_STAT_RC_READY then (s.wr .CLK_STAT_MGMT_ON_RC 1).markStep 2
  else s

/-- MEM_CFG as the START page holds it (R489, R490). -/
def State.loadMemCfg (s : State) : State :=
  s.each s.dies (fun s d =>
    let w := s.ax .nvMem d
    if w = 0 then s.resetReg .MEM_CFG d 0
    else ((s.wr .MEM_CFG_IECC ((w - 1) / 8) d).wr .MEM_CFG_LECC ((w - 1) / 4) d).wr .MEM_CFG_RATE (w - 1) d)

/-- Step 4: the Pocket is read, and the failed-start count rises (R480, R490, R493). A part of whose chain address record no copy is
valid has no address (R505). -/
def State.step4 (s : State) (x : StepInfo) : State :=
  let s := s.each (x.bad.filter (fun b => decide (b.1 < s.part.dies))) (fun s b =>
    s.event 0xA1 b.1 sevWarning (b.1 + atByte 1 b.2.1 + atByte 2 b.2.2))
  let noAddr := s.dies.all (fun d => x.bad.contains (d, 1, 0) && x.bad.contains (d, 1, 1))
  let s := s.when noAddr (fun s => (s.wr .CHN_CFG_VALID 0).wr .CHN_CFG_ADDR 0x6A)
  let s := s.when (s.ax .coldPower == 1) (fun s => s.loadShadows x.bad)
  let s := (s.setAx .coldPower 0).loadMemCfg
  let s := (s.wr .START_REPORT_FAILS (s.ax .nvFails)).wr .START_REPORT_LAST (s.ax .nvLast)
  if x.bad.contains (0, 0, 0) && x.bad.contains (0, 0, 1) then ((s.markStep 4).setAx .startLost 1).enterMinimal 5
  else if s.ax .nvFails ≥ 3 then (s.markStep 4).enterMinimal (s.ax .nvLast)
  else
    let s := s.setAx .nvFails (s.ax .nvFails + 1)
    (s.wr .START_REPORT_FAILS (s.ax .nvFails)).markStep 4

/-- Step 5: the firmware image (R479, R483). -/
def State.step5 (s : State) (x : StepInfo) : State :=
  if !x.ok then (s.setAx .fwForce 0).startFail 1
  else
    let forced := s.ax .fwForce == 1
    let fell := !forced && x.fw != 0
    let s := (s.setAx .fwForce 0).wr .START_REPORT_FW_SLOT (b2n (forced || fell))
    let s := if fell then (s.setAx .fwFell x.fw).event 0x82 0xFF sevWarning x.fw else s.setAx .fwFell 0
    s.markStep 5

/-- Dividers of the memory PLL for a data rate (R454). -/
def memDividers (rate : Nat) : Nat × Nat × Nat := if rate = 0 then (128, 1, 2) else if rate = 1 then (150, 1, 2) else (512, 3, 2)

/-- Step 6: the PLLs are set and locked, from a ready crystal (R454, R479). -/
def State.step6 (s : State) (x : StepInfo) : State :=
  if !x.ok || !s.rdb .CLK_STAT_XTAL_READY then s.startFail 3
  else
    let m := memDividers (s.rd .MEM_CFG_RATE s.head)
    let s := ((s.wr .CLK_PLL_FBDIV m.1 0 4).wr .CLK_PLL_REFDIV m.2.1 0 4).wr .CLK_PLL_POSTDIV m.2.2 0 4
    let s := (s.wr .CLK_STAT_MGMT_ON_RC 0).wr .CLK_DTCTRL_HOLDOVER 0
    ((List.range 5).foldl (fun s p => (s.setAx .relock 0 0 p).setLock p true) s).markStep 6 |>.setAx .pllsOnce 1

/-- A die's LPDDR5X after training: the options of MEM_CFG are in force (R376, R379, R382). -/
def State.trainDie (s : State) (d : Nat) : State :=
  let w := 1 + s.rd .MEM_CFG_IECC d * 8 + s.rd .MEM_CFG_LECC d * 4 + s.rd .MEM_CFG_RATE d
  let s := ((s.setAx .memInForce w d).wr .MEM_STAT_IECC_ON (s.rd .MEM_CFG_IECC d) d).wr .MEM_STAT_TRAINED 0xF d
  let s := s.each (List.range 4) (fun s ch => ((s.wr .MEM_CH_STATE 1 d ch).wr .MEM_CH_FAILS 0 d ch).wr .MEM_CH_RANKS s.part.ranks d ch)
  ((s.wr .MEM_STAT_SELF_REFRESH 0 d).wr .MEM_CAP_DEVICE_MIB s.part.lpddrMiB d).wr .MEM_CAP_DATA_MIB
    (if s.rdb .MEM_STAT_IECC_ON d then s.part.lpddrMiB * 7 / 8 else s.part.lpddrMiB) d

/-- Step 7: every channel trains (R382). -/
def State.step7 (s : State) (x : StepInfo) : State :=
  if x.ok then (s.each s.dies State.trainDie).markStep 7 else s.startFail 2

/-- The key table of a die differs from the one that verifies images (R290). -/
def State.keyDiffers (s : State) (d : Nat) : Bool :=
  (s.pocket.filter (fun e => decide (pocketKey d 2 0 ≤ e.1 ∧ e.1 < pocketKey d 11 0))).map (fun e => (e.1 - pocketKey d 0 0, e.2)) !=
    (s.pocket.filter (fun e => decide (pocketKey s.keyDie 2 0 ≤ e.1 ∧ e.1 < pocketKey s.keyDie 11 0))).map
      (fun e => (e.1 - pocketKey s.keyDie 0 0, e.2))

/-- A die comes online (R22); a key table that differs from that of the dies already there is reported, and the die takes no part in image
verification (R290). -/
def State.bringUp (s : State) (d : Nat) : State :=
  let bad := !s.onlineDies.isEmpty && s.keyDiffers d
  let s := (s.dieOnline d).setAx .keyBad (b2n bad) d
  if bad = true then s.event 0x58 d sevError d else s

/-- Step 8: the die links; the head die is die 0, and a die without a working link stays offline (R427, R479). -/
def State.step8 (s : State) (x : StepInfo) : State :=
  if !x.ok then s.startFail 4
  else
    let s := s.each (s.dies.filter (fun d => !s.online d)) State.bringUp
    let s := s.each (s.dies.filter (fun d => d != 0 && !x.dies.contains d)) (fun s d => s.dieOffline d 1)
    s.markStep 8

/-- Quick calibrations of the warm-up (R344): the tile takes its result at once; whether it was accepted. -/
def State.warmQuick (s : State) (e : Nat × CalOut) : Bool × State :=
  let d := e.1 / 2048
  let t := e.1 % 2048
  let dNew := s.newDrift d t e.2.a
  let ok := (s.calCheck d t e.2 (s.trimNow d t) dNew).isNone
  (ok, (s.startCal d t false 24 none).quickEnd d t ⟨d, t, false, 24, none, s.now, []⟩ e.2)

/-- The quick calibrations in order; how many were accepted. -/
def State.warmQuicks (s : State) : List (Nat × CalOut) → Nat × State
  | [] => (0, s)
  | e :: l =>
    let r := s.warmQuick e
    let q := r.2.warmQuicks l
    (q.1 + b2n r.1, q.2)

/-- Start-up of a die's fabric: the spare tiles are tested (R77), the engine reads the record space, and it traces and interpolates
(R344). -/
def State.warmDie (s : State) (d : Nat) (x : StepInfo) : State :=
  let s := s.each (((x.failed.filter (fun g => g / 2048 == d)).map (· % 2048)).filter (fun t =>
    s.tst d t == tsSpare && !s.rdb .TIL_STATUS_EXPERT d t)) (fun s t => s.spareFails d t)
  let s := s.recRead d ((x.lost.filter (fun e => e.1 == d)).map (·.2))
  let s := (s.traceStart d).traceEnd d (x.rho.getD d 0)
  let s := if s.rdb .MCV_TFAB_VALID d then s.wr .CAL_TEMP_TJ_USED (s.rd .MCV_TFAB_MEAN d) d else s
  s.each ((s.placed.filter (fun p => p.die == d)).map (·.tile)) (fun s t => s.aim d t)

/-- A measurement that finds a tile as it is expected to be. -/
def CalOut.quiet : CalOut := ⟨[], 1, 0, [], [], [], [], 0⟩

/-- What the warm-up finds of every placed tile of some dies (R344): the operand names those that measure otherwise than expected. -/
def State.warmList (s : State) (dies : List Nat) (l : List (Nat × CalOut)) : List (Nat × CalOut) :=
  (s.placed.filter (fun p => dies.contains p.die && s.online p.die)).map (fun p =>
    (gid p.die p.tile, ((l.find? (fun e => e.1 == gid p.die p.tile)).map (·.2)).getD CalOut.quiet))

/-- The shed budget from the first stitch on (R473). -/
def State.startShed (s : State) : State :=
  let s := (s.setAx .shedSteps 0).keepShedOld
  (s.setThrottle (max s.shedThrottle (s.rd .YOK_THROTTLE_TICKS))).each s.onlineDies (fun s d =>
    s.setDuty d (min (s.rd .DGA_DUTY_DUTY d) (s.shedDutyOf d)))

/-- Step 9: the fabric of every online die warms up, and the placed tiles take quick calibrations (R344). -/
def State.step9 (s : State) (x : StepInfo) : State :=
  let s := s.when (s.rdb .PWR_STAT_SHED_IN) State.startShed
  let s := s.each s.onlineDies (fun s d => s.warmDie d x)
  let l := s.warmList s.onlineDies x.quick
  let r := s.warmQuicks l
  if l ≠ [] ∧ r.1 = 0 then r.2.startFail 6 else r.2.markStep 9

/-! ## DIE_RESTORE (R429) -/

/-- The die's memory and fabric start as in steps 7 and 8 and in step 9 up to the quick calibrations; its banks are FREE (R369). -/
def State.dieSteps (s : State) (d : Nat) (x : StepInfo) : State :=
  (((((s.freeLostTiles d).trainDie d).startBanks d).bringUp d).copyPrograms d).warmDie d x

/-- The die is restored: its shutdown is over, and the capacity follows. -/
def State.dieBack (s : State) (d : Nat) : State :=
  ((s.wr .PWR_STAT_TSHUT (setBit (s.rd .PWR_STAT_TSHUT) d false)).bump .FLT_DIE_RESTORES 1 0 d).capUpdate

/-- The die starts as in steps 7 to 9, and it comes online (R22, R290). Step 9 fails where every quick
calibration of its placed tiles is rejected (R344). -/
def State.restoreDie (s : State) (d : Nat) (x : StepInfo) : Bool × State :=
  let s := s.dieSteps d x
  let l := s.warmList [d] x.quick
  let r := s.warmQuicks l
  (l == [] || r.1 != 0, r.2.dieBack d)

/-- DIE_RESTORE (R429, R450, R475): the result is 0, or the reason code of the step that failed, and then the die stays as it was; a die
without a working link to the head die fails step 8 (R25), and one whose quick calibrations are all rejected step 9 (R344). -/
def State.dieRestore (s : State) (c : Cmd) (reason : Nat) (x : StepInfo) : State :=
  let d := c.b 16 1
  if d ≥ s.part.dies ∨ s.online d then s.completeCmd c stMalformed 0
  else if bit (s.rd .PWR_STAT_TSHUT) d ∧ !(decide (s.tsPkg d < 16 * ((tjMax s.part : Int) - 10))) then
    s.completeCmd c stMalformed 0
  else if reason ≠ 0 then s.completeCmd c stOK reason
  else if !s.onlineDies.isEmpty ∧ !s.reaches d then s.completeCmd c stOK 4
  else
    let r := s.restoreDie d x
    if r.1 then (r.2.event 0x42 d sevInfo (d + atByte 4 (r.2.rd .GLB_CAPACITY_MAPPABLE_TILES))).completeCmd c stOK 0
    else s.completeCmd c stOK 6

def execDieRestore (id : Nat) (r : RestoreInfo) (s : State) : Res :=
  .next (s.runCmd id opDieRestore (fun s c => s.dieRestore c r.reason r.info))

/-- The start-up round of a die: a full calibration of every tile that holds a placement (R345). -/
def State.startRoundOf (s : State) (d : Nat) : State :=
  let l := s.placed.filter (fun p => p.die == d)
  let s := (s.setAx .startAcc 0 d).setAx .startRej 0 d
  if l = [] then (s.wr .CAL_STATUS_START_DONE 1 d).event 0x96 d sevInfo
  else (s.setAx .startCal (l.length + 1) d).each l (fun s p => (s.setAx .roundTile 1 d p.tile).queueCal d p.tile 1)

/-- FABRIC_READY (R486). -/
def State.readyEvent (s : State) : State :=
  s.event 0x80 0xFF sevInfo (s.rd .START_TIME_MS + atByte 4 (s.ax .readyFails) + atByte 5 (s.rd .START_REPORT_FW_SLOT))

/-- Step 11: fabric ready (R31, R345, R480). -/
def State.step11 (s : State) : State :=
  let s := (s.markStep 11).wr .START_REPORT_STATE 1
  let s := s.wr .START_TIME_MS (min ((s.now + 1 - s.ax .startAt) / 1000000) 0xFFFFFFFF)
  let s := (((s.setAx .readyFails (s.ax .nvFails - 1)).setAx .nvFails 0).wr .START_REPORT_FAILS 0).setAx .readyAt (s.now + 1)
  let s := s.capUpdate.readyEvent
  s.each s.onlineDies State.startRoundOf

/-- One step, once the steps before it are done (R479). -/
def State.startStep (s : State) (k : Nat) (x : StepInfo) : State :=
  if s.rd .START_REPORT_STATE ≠ 0 ∨ s.ax .perst = 1 ∨ k < 2 ∨ k > 11 ∨ s.stepDone k ∨ !(stepNeeds k).all s.stepDone then s
  else if k = 2 then s.step2
  else if k = 4 then s.step4 x
  else if k = 5 then s.step5 x
  else if k = 6 then s.step6 x
  else if k = 7 then s.step7 x
  else if k = 8 then s.step8 x
  else if k = 9 then s.step9 x
  else if k = 11 then s.step11
  else s.markStep k

/-- START_RETRY acts 1 ms after its completion (R483). -/
def State.retryDue (s : State) : State :=
  if s.ax .retryAt ≠ 0 ∧ s.ax .retryAt - 1 + 1000000 ≤ s.now ∧ s.rd .START_REPORT_STATE = 2 then s.rerun else s

def execStartUpStepDone (step : Nat) (x : StepInfo) (s : State) : Res := .next (s.retryDue.startStep step x)

/-- Power good (R479, R518): step 1. -/
def State.powerGood (s : State) : State := (((s.markStep 1).setAx .startAt (s.now + 1)).setAx .coldPower 1)

def execPowerGood (s : State) : Res :=
  .next (if s.ax .startMask = 0 ∧ s.rd .START_REPORT_STATE = 0 ∧ s.ax .saveWait = 0 then s.powerGood else s)

/-- 20 s without fabric ready (R479). -/
def execStartTimeout (s : State) : Res :=
  .next (if s.ax .startAt ≠ 0 ∧ s.rd .START_REPORT_STATE = 0 ∧ s.ax .startAt - 1 + 20000000000 ≤ s.now then s.startFail 7 else s)

/-- START_RETRY in minimal mode (R483, R490). -/
def State.startRetry (s : State) (c : Cmd) : State :=
  if s.rd .START_REPORT_STATE ≠ 2 then s.completeCmd c stMalformed 0
  else
    let s := (s.setAx .nvFails 0).wr .START_REPORT_FAILS 0
    let s := s.when (s.ax .startLost == 1) (fun s => (s.setAx .startLost 0).each s.dies (fun s d => s.setAx .nvMem 0 d))
    let s := s.when (bit (c.b 16 1) 0) (fun s => s.setAx .fwForce 1)
    (s.completeCmd c stOK 0).setAx .retryAt (s.now + 1)

def execStartRetry (id : Nat) (s : State) : Res := .next (s.runCmd id opStartRetry (fun s c => s.startRetry c))

/-! ## The watchdog of the management core (R426, R479) -/

def execMgmtWatchdogMiss (die : Nat) (s : State) : Res :=
  .next (if s.rd .START_REPORT_STATE = 0 ∧ s.stepDone 1 then s.startFail 7
    else if s.online die then s.dieOffline die 4
    else s)

/-! ## PERST_N (R484) -/

/-- A start that is cut short records reason 0x07 (R480). -/
def State.cutStart (s : State) : State := if s.rd .START_REPORT_STATE = 0 ∧ s.stepDone 4 then s.setAx .nvLast 7 else s

/-- Assertion after power-up: safe outputs, and every job ends without completion. -/
def State.perstAssert (s : State) : State :=
  let s := s.cutStart.enterSafe
  (s.each (s.jobs.map (·.id)) (fun s i => s.endJobSilently i)).setAx .perst 1

def execPerstNAssert (s : State) : Res := .next (if s.stepDone 1 ∧ s.ax .perst = 0 then s.perstAssert else s)

/-- Release: a cold reset, and the start-up from step 3. -/
def State.perstRelease (s : State) : State := (s.coldReset false).restartFrom3

def execPerstNRelease (s : State) : Res := .next (if s.ax .perst = 1 then s.perstRelease else s)

/-! ## Power failure and rail dips (R493 to R495, R521) -/

/-- The power-fail trip: safe outputs, then the save; a PX-880 without the energy skips it (R495). -/
def State.powerFail (s : State) (charged : Bool) : State :=
  let s := s.cutStart.enterSafe
  let s := if s.part.dies = 8 ∧ !charged then s.setAx .shadowSkip 1 else s.saveShadows
  (s.each (s.jobs.map (·.id)) (fun s i => s.endJobSilently i)).setAx .saveWait 1

def execPowerFailTrip (charged : Bool) (s : State) : Res := .next (if s.ax .saveWait = 1 then s else s.powerFail charged)

/-- After the save, every supply has been good for 10 ms: the start-up runs from step 1 (R493). -/
def State.saveRestart (s : State) : State := ((s.coldReset true).setAx .pllsOnce 0).powerGood

def execSaveRestart (s : State) : Res := .next (if s.ax .saveWait = 1 then s.saveRestart else s)

/-- A dip of a fabric or memory rail: the safe state, and no shadow save (R521). -/
def State.railDip (s : State) : State :=
  let running := (s.jobs.filter (·.active)).map (·.id)
  ({ s with safeJobs := (s.safeJobs ++ running).eraseDups } : State).enterSafe.setAx .railWait 1

def execRailDip (s : State) : Res := .next (if s.ax .saveWait = 1 ∨ s.ax .railWait = 1 then s else s.railDip)

/-- The rail is back: steps 3 to 7 of R465, without a clock event; the jobs fault with cause UNIT (R521). -/
def State.railBack (s : State) : State :=
  let s := s.setAx .railWait 0
  if s.ax .lossAt ≠ 0 then (if s.sourcesBack then s.restoreClocks else s)
  else
    let ids := s.safeJobs
    ({ s.leaveSafe with safeJobs := [] } : State).faultJobs ids cUnit

def execRailRecovered (s : State) : Res := .next (if s.ax .railWait = 1 then s.railBack else s)

/-! ## The first enable of the PF's ring (R485, R496) -/

/-- CLOCK_LOSS for a source still lost, or for mgmt_clk on the RC oscillator. -/
def State.startClockEvent (s : State) : State :=
  if s.ax .lossAt ≠ 0 ∨ s.rdb .CLK_STAT_MGMT_ON_RC then
    let src := if s.ax .lossSrc ≠ 0 then s.ax .lossSrc else 1
    (s.clockLossEvent src 0xFF 0xFF (if s.ax .lossAt = 0 then 0 else s.ax .lossAt - 1)).setAx .lossPending 0
  else s

/-- POCKET_SHADOW_LOST of each die whose shadows are not those of its newest save (R496). -/
def State.shadowEvent (s : State) : State :=
  s.each (s.dies.filter (fun d => s.ax .shadowCause d != 0)) (fun s d =>
    (s.event 0xA0 d sevWarning (d + atByte 1 (s.ax .shadowCause d) + atByte 4 (s.ax .shadowSeq d))).setAx .shadowCause 0 d)

/-- The records that wait for the event path, in the order of R485. -/
def State.startRecords (s : State) : State :=
  let s := s.setAx .pfRingSeen 1
  let s := if s.rd .START_REPORT_STATE = 2 then
      s.event 0x81 0xFF sevCritical (s.rd .START_REPORT_REASON + atByte 1 (s.rd .START_REPORT_STEP))
    else if s.rd .START_REPORT_STATE = 1 then s.readyEvent else s
  let s := if s.ax .fwFell ≠ 0 then s.event 0x82 0xFF sevWarning (s.ax .fwFell) else s
  let s := s.startClockEvent
  let s := if s.rdb .PWR_STAT_SHED_IN then s.shedOnEvent else s
  s.shadowEvent

/-- A write of EVR_CTRL with ENABLE = 1 (R413, R485). -/
def State.ringOn (s : State) (fn reserve : Nat) : State :=
  let s := s.ringEnable fn reserve
  if fn = 0 ∧ s.ax .pfRingSeen = 0 ∧ s.rdb .EVR_CTRL_ENABLE 0 then s.startRecords else s

def execEvrCtrlEnable (fn : Nat) (o : Order) (s : State) : Res :=
  .next (s.order o (regAddr .EVR_CTRL fn) (fun s _ v => s.ringOn fn v))

end Sys2Proof.Machine
end

