-- ==== Sys2Proof/Machine/Regs.lean ====
section
/-!
DEFINITION. Machine/Regs.lean: the register space as the host and the management chain reach it: which register an offset
names (R9, R26 to R28, R81, R388), how an access splits into words (R6, R7), what a read returns (R10, R535), and what a
write does (R10, R14, R430), through the same effects as the rows of their own.
-/

namespace Sys2Proof.Machine

/-! ## Addresses -/

/-- An element of a register, and which of its words. -/
structure RegAt where
  reg : Reg
  d : Nat
  i : Nat
  j : Nat
  word : Nat
  deriving DecidableEq, Repr

/-- The register of a list that holds an offset: the register, the element and the word. -/
def locate (l : List Reg) (x : Nat) : Option (Reg × Nat × Nat) :=
  l.findSome? (fun r =>
    let q := r.info
    let k := if q.cnt ≤ 1 then 0 else (x - q.off) / q.stride
    let o := x - q.off - k * q.stride
    if q.off ≤ x ∧ k < q.cnt ∧ o < q.width / 8 then some (r, k, o / 4) else none)

/-- Package registers with one element for each die of the part: those of dies that the variant lacks do not exist. -/
def perDie (r : Reg) : Bool := [Reg.CLK_LOCK, .CLK_GATE, .CLK_SG, .CLK_BG, .PWR_DIE, .FLT_DIE].contains r

/-- Registers of a telemetry stream: every online die's copy acts on the same stream. -/
def isTlm (r : Reg) : Bool :=
  [Reg.TLM_CTRL, .TLM_PERIOD, .TLM_CHAN, .TLM_RING, .TLM_WB, .TLM_RDIDX, .TLM_STAT, .TLM_WRIDX, .TLM_DROP, .TLM_CNT, .TLM_TSTART,
   .TLM_TSTOP, .TLM_LATE].contains r

/-- What a word offset of the PF's BAR0 names (R9, R26, R27, R28, R81, R388). Entry q of the QUE block is package queue pair q, whatever
function it is bound to. -/
def State.pfReg (s : State) (x : Nat) : Option RegAt :=
  if x ≥ 0x1000000 then
    let d := (x - 0x1000000) / 0x200000
    let y := (x - 0x1000000) % 0x200000
    if !s.dieWindow d then none
    else if y < 0x100000 then
      (locate Place.die.regs y).map (fun e => ⟨e.1, if isTlm e.1 then 0 else d, e.2.1, 0, e.2.2⟩)
    else
      let t := (y - 0x100000) / 512
      if t < 1664 then (locate Place.tile.regs ((y - 0x100000) % 512)).map (fun e => ⟨e.1, d, t, e.2.1, e.2.2⟩) else none
  else if 0x148000 ≤ x ∧ x < 0x14A000 then (locate Place.fn.regs (x - 0x148000)).map (fun e => ⟨e.1, 0, e.2.1, 0, e.2.2⟩)
  else if 0x140000 ≤ x ∧ x < 0x142000 then
    (locate Place.fnq.regs ((x - 0x140000) % 0x40)).map (fun e => ⟨e.1, (x - 0x140000) / 0x40, e.2.1, 0, e.2.2⟩)
  else if 0x100000 ≤ x ∧ x < 0x140000 then
    let q := (x - 0x100000) / 0x40
    let h := match s.qp q with
      | some p => (p.fn, p.entry)
      | none => (0, q)
    (locate Place.qp.regs ((x - 0x100000) % 0x40)).map (fun e => ⟨e.1, h.1, h.2, 0, e.2.2⟩)
  else match locate Place.pkg.regs x with
    | some e => if perDie e.1 ∧ e.2.1 ≥ s.part.dies then none else some ⟨e.1, 0, e.2.1, 0, e.2.2⟩
    | none => none

/-- What a word offset of a VF's BAR0 names (R388). -/
def vfReg (f x : Nat) : Option RegAt :=
  if x < 0x2000 then (locate Place.fn.regs x).map (fun e => ⟨e.1, f, e.2.1, 0, e.2.2⟩)
  else if (x - 0x2000) / 0x40 < 896 then
    (locate Place.qp.regs ((x - 0x2000) % 0x40)).map (fun e => ⟨e.1, f, (x - 0x2000) / 0x40, 0, e.2.2⟩)
  else none

/-- What a word offset names for a master. The mirror link reaches no register. -/
def State.regAt (s : State) (m : Master) (x : Nat) : Option RegAt :=
  match m with
  | .pf => s.pfReg x
  | .chain => s.pfReg x
  | .vf f => vfReg f x
  | .mirror => none

/-! ## Reads -/

/-- Bits of CAL_TAB_STAT for the tile that CAL_TAB_ADDR selects. -/
def State.tabStat (s : State) (d : Nat) (f : Field) : Nat :=
  let t := s.rd .CAL_TAB_ADDR_TILE d
  match f with
  | .CAL_TAB_STAT_STALE => s.rd .HEM_TAPS_STALE d t
  | .CAL_TAB_STAT_EXPERT => b2n (s.tile d t).expert
  | .CAL_TAB_STAT_RAMPING => b2n (s.ramping d t)
  | .CAL_TAB_STAT_CAUSE => (s.tile d t).causes
  | _ => if (s.tile d t).result = 0 then 0xFF else (s.tile d t).result - 1

/-- What FNQ_HELD shows (R408): LPDDR5X pages in units of 16, rounded up. -/
def State.heldShow (s : State) (fn : Nat) (f : Field) : Nat :=
  match f with
  | .FNQ_HELD_QP => s.held fn resQP
  | .FNQ_HELD_FEEDQ => s.held fn resFeedq
  | .FNQ_HELD_BANKS => s.held fn resBank
  | _ => cdiv (s.held fn resLpddr) 16

/-- Value of a field as a read shows it: computed for a field that reports other state, 0 for a write-only field (R10). -/
def State.fieldRead (s : State) (d i j : Nat) (f : Field) : Nat :=
  match f with
  | .SEQ_STAT_BUSY => sumBy (List.range 8) (fun q => if s.seqIdle d q then 0 else 2 ^ q)
  | .DGA_STATUS_QUEUED => (s.ops.filter (fun o => o.die == d && o.unit == .array && !o.running)).length
  | .DGA_STATUS_ADDQUEUED => (s.ops.filter (fun o => o.die == d && o.unit == .add && !o.running)).length
  | .PRG_STORE_FREE_MIB => s.storeFree d / 2 ^ 20
  | .CAL_TAB_STAT_STALE => s.tabStat d f
  | .CAL_TAB_STAT_EXPERT => s.tabStat d f
  | .CAL_TAB_STAT_RAMPING => s.tabStat d f
  | .CAL_TAB_STAT_CAUSE => s.tabStat d f
  | .CAL_TAB_STAT_RESULT => s.tabStat d f
  | .FNQ_HELD_QP => s.heldShow d f
  | .FNQ_HELD_FEEDQ => s.heldShow d f
  | .FNQ_HELD_BANKS => s.heldShow d f
  | .FNQ_HELD_PAGES => s.heldShow d f
  | .CLK_DTIME_TIME => s.now
  | .CLK_SG_GROUP => s.strobeGates i
  | .CLK_BG_GROUP => s.bankGates i
  | .PKT_WEAR_COUNT => s.ax .wear (s.rd .PKT_WEARSEL_DIE) (s.rd .PKT_WEARSEL_TILE)
  | .PKT_PAGE_USER => bits s.pktPage 31 31
  | .PKT_PAGE_LOCKED => bits s.pktPage 30 30
  | .PKT_PAGE_RD_OPEN => bits s.pktPage 29 29
  | .PKT_PAGE_WR_OPEN => bits s.pktPage 28 28
  | .PKT_PAGE_LOCKOUT => bits s.pktPage 27 26
  | .PKT_PAGE_AREA => bits s.pktPage 3 0
  | .MIR_CTRL_RESYNC => b2n s.resyncing
  | _ => if f.info.acc = .wo then 0 else s.rd f d i j

/-- Value of a register as a read shows it. -/
def State.regRead (s : State) (r : Reg) (d i j : Nat) : Nat :=
  (r.fields.map (fun f => s.fieldRead d i j f % 2 ^ f.width * 2 ^ f.info.lo)).foldl (· + ·) 0

/-- A word of a register. -/
def wordOf (v k : Nat) : Nat := v / 2 ^ (32 * k) % 2 ^ 32

/-- The words that a 32-bit read of a latching word fixes (R32, R125, R535). -/
def State.latchRead (s : State) (m : Master) (a : RegAt) (x : Nat) : State :=
  let hi := fun (s : State) => s.setLatch m (x + 4) (wordOf (s.regRead a.reg a.d a.i a.j) 1)
  if a.word ≠ 0 then s
  else if a.reg = .GLB_CAPACITY then hi s
  else if a.reg = .HEM_MSEREF_SUM then (hi s).setLatch m (regAddr .HEM_MSEREF_CNT a.d a.i) (s.regRead .HEM_MSEREF_CNT a.d a.i 0)
  else if a.reg = .HEM_MSEQ_SUM then (hi s).setLatch m (regAddr .HEM_MSEQ_CNT a.d a.i) (s.regRead .HEM_MSEQ_CNT a.d a.i 0)
  else s

/-- A 32-bit read of an aligned word: what it returns, and the state after (R9, R535; the windows of R97, R348 and R491). -/
def State.readWord (s : State) (m : Master) (x : Nat) : Nat × State :=
  match s.regAt m x with
  | none => (0, s)
  | some a =>
    if a.reg = .PKT_DATA then s.pktDataRead
    else if a.reg = .CAL_TAB_DATA then (s.tabRead a.d % 2 ^ 32, s.tabNext a.d)
    else if a.reg = .WFM_DATA then (s.wavePoint a.d (s.rd .WFM_ADDR_WAVE a.d) (s.rd .WFM_ADDR_POINT a.d), s.waveNext a.d)
    else match s.latch.get none (Nat.pair (masterKey m) x) with
      | some v => (v, s)
      | none => (wordOf (s.regRead a.reg a.d a.i a.j) a.word, s.latchRead m a x)

/-- The register that a read takes whole: an aligned 64-bit read of a 64-bit register (R6, R7). -/
def State.wholeRead (s : State) (m : Master) (x n : Nat) : Option RegAt :=
  (s.regAt m x).filter (fun a => n == 8 && x % 8 == 0 && a.reg.info.width == 64 && a.word == 0)

/-- What a 64-bit read latches: of the registers that latch, the sums of squares latch their count (R125), and GLB_CAPACITY
nothing (R32, R535). -/
def State.latchWide (s : State) (m : Master) (a : RegAt) : State :=
  if a.reg = .HEM_MSEREF_SUM then s.setLatch m (regAddr .HEM_MSEREF_CNT a.d a.i) (s.regRead .HEM_MSEREF_CNT a.d a.i 0)
  else if a.reg = .HEM_MSEQ_SUM then s.setLatch m (regAddr .HEM_MSEQ_CNT a.d a.i) (s.regRead .HEM_MSEQ_CNT a.d a.i 0)
  else s

/-- The words of a read from word k on, in ascending order: their bytes as a little-endian number, and the state after. A misaligned
read that touches only some bytes of a latching word latches as a 32-bit read of it does; R535 speaks of 32-bit and 64-bit reads only
(DESIGN CHOICE, log entry 165). -/
def State.readWords (s : State) (m : Master) (k : Nat) : Nat → Nat × State
  | 0 => (0, s)
  | n + 1 =>
    let a := s.readWord m (4 * k)
    let b := a.2.readWords m (k + 1) n
    (a.1 + b.1 * 2 ^ 32, b.2)

/-- A read of n bytes at any offset (R6, R7): an aligned 64-bit read of a 64-bit register returns both words of one instant; any
other returns the addressed bytes of each word that it touches, in ascending order. -/
def State.readAccess (s : State) (m : Master) (x n : Nat) : Nat × State :=
  match s.wholeRead m x n with
  | some a => (s.regRead a.reg a.d a.i a.j, s.latchWide m a)
  | none =>
    let r := s.readWords m (x / 4) ((x + n + 3) / 4 - x / 4)
    (r.1 / 2 ^ (8 * (x % 4)) % 2 ^ (8 * n), r.2)

/-- A read of the PF's register space by a master that reaches it, and the data it returns. -/
def State.readOut (s : State) (m : Master) (x n : Nat) : State :=
  if reachesPf m then
    let r := s.readAccess m x n
    r.2.emit (.readData m x n r.1)
  else s

/-- A 32-bit read of the low word of GLB_CAPACITY latches the high word (R32). -/
def execGlbCapacityLowRead (by' : Master) (s : State) : Res := .next (s.readOut by' (regAddr .GLB_CAPACITY) 4)

/-- A read of HEM_MSEREF_SUM or HEM_MSEQ_SUM: the 32-bit read of the low word latches the high word and the count; a 64-bit read
latches the count (R125). -/
def execHemMseSumRead (by' : Master) (die tile : Nat) (q wide : Bool) (s : State) : Res :=
  .next (if s.tileWindow die tile then
    s.readOut by' (regAddr (if q then .HEM_MSEQ_SUM else .HEM_MSEREF_SUM) die tile) (if wide then 8 else 4)
  else s)

/-! ## Writes: ranges, refusals, expert writes -/

/-- The value that a register word carries for a field. -/
def Field.of (f : Field) (v : Nat) : Nat := bits v f.info.hi f.info.lo

/-- Least and greatest value that a field accepts, where its table states a range. -/
def fieldRange (f : Field) : Option (Nat × Nat) :=
  match f with
  | .TIL_CHECK_TOL => some (1, 255)
  | .HEM_REFCHK_TOL => some (1, 255)
  | .YOK_SETTLE_MAX => some (24, 4096)
  | .YOK_SEAM_SWITCH_MAX => some (1, 255)
  | .YOK_SEAM_INTERVAL => some (16, 65535)
  | .YOK_IBUDGET_BUDGET => some (1, 4095)
  | .YOK_ACCT_WINDOW => some (64, 65535)
  | .PRG_CFG_VTOL => some (1, 32)
  | .PRG_CFG_INC_LIMIT => some (8, 63)
  | .PRG_CFG_ITER_LIMIT => some (4, 63)
  | .CAL_CFG_STAGE => some (0, 2)
  | .CAL_CFG_PAR => some (1, 16)
  | .CAL_DRIFT_DTEMP => some (1, 80)
  | .CAL_DRIFT_INTERVAL => some (1, 3600)
  | .CAL_TRACE_PERIOD => some (1, 60)
  | .CAL_TRACE_DTEMP => some (1, 15)
  | .CAL_RAMP_STEP => some (1, 255)
  | .CAL_RAMP_SEAMS => some (1, 255)
  | .CAL_LIMIT_MSE => some (1, 65535)
  | .CAL_LIMIT_DSTEP => some (1, 255)
  | .CAL_REFRESH_LEAD => some (1, 255)
  | .CAL_REFRESH_SIGMA => some (16, 255)
  | .CAL_TAB_ADDR_TABLE => some (0, 12)
  | .MCV_SEQCFG_INTERVAL => some (1, 65535)
  | .MCV_PLAUS_TOL => some (1, 65535)
  | .MCV_SCAL_PERIOD => some (1, 3600)
  | .MCV_SCAL_DTEMP => some (1, 15)
  | .MCV_TRIG_SRC => some (0, 2)
  | .MCV_TRIG_CHA => some (0, 45)
  | .MCV_TRIG_CHB => some (0, 45)
  | .MCV_SEQA_CHAN => some (0, 45)
  | .MCV_SEQB_CHAN => some (0, 45)
  | .TLM_PERIOD_PERIOD => some (10, 10000000)
  | .TLM_RING_LOG2 => some (8, 20)
  | .MEM_ARB_AGE => some (1, 255)
  | .JOB_CFG_WATCHDOG => some (1, 60000)
  | .EVR_BASE_LOG2 => some (6, 16)
  | .EVR_MOD_COUNT => some (1, 255)
  | .QP_CFG_SQLOG2 => some (4, 12)
  | .QP_CFG_CQLOG2 => some (4, 12)
  | .MIR_CFG_ACK_MAX => some (10, 1000)
  | .CLK_DTCTRL_WINDOW => some (1, 65535)
  | .PWR_PKG_BUDGET_WATTS => some (1, 65535)
  | .PWR_SHED_BUDGET_WATTS => some (1, 65535)
  | .PWR_SHED_CFG_FAB_PCT => some (0, 100)
  | .PWR_SHED_CFG_GUARD => some (0, 20)
  | .PWR_THERM_MARGIN => some (1, 20)
  | .PKT_UNLOCKSEL_AREA => some (0, 11)
  | .PKT_WEARSEL_TILE => some (0, 1663)
  | _ => none

/-- Every field of a register word lies in its range. -/
def rangesHold (r : Reg) (v : Nat) : Bool :=
  r.fields.all (fun f => match fieldRange f with
    | some (lo, hi) => decide (lo ≤ f.of v ∧ f.of v ≤ hi)
    | none => true)

/-- The ARG of a sequence part fits its channel (R353). -/
def argOk (chan arg : Nat) : Bool := if chan = mcvTileRef then decide (arg < 1664 ∨ arg = 0x7FF) else arg == 0

/-- A channel field of TLM_CHAN that is enabled names a channel that exists (R350). -/
def tlmChanOk (v : Nat) : Bool := v / 2 ^ 15 % 2 == 0 || decide (v % 64 ≤ 45)

/-- Conditions on a write beyond the ranges. -/
def State.regFits (s : State) (r : Reg) (d i v : Nat) : Bool :=
  match r with
  | .CAL_TAB_ADDR => Field.CAL_TAB_ADDR_TABLE.of v == 12 || decide (Field.CAL_TAB_ADDR_TILE.of v < 1664)
  | .MCV_SEQCFG => s.rdb .MCV_CTRL_HOLD d
  | .MCV_SEQA => s.rdb .MCV_CTRL_HOLD d && argOk (Field.MCV_SEQA_CHAN.of v) (Field.MCV_SEQA_ARG.of v)
  | .MCV_SEQB => s.rdb .MCV_CTRL_HOLD d && argOk (Field.MCV_SEQB_CHAN.of v) (Field.MCV_SEQB_ARG.of v)
  | .TLM_PERIOD => (s.tlm i).isNone
  | .TLM_CHAN => (s.tlm i).isNone && (List.range 4).all (fun k => tlmChanOk (bits v (16 * k + 15) (16 * k)))
  | .TLM_RING => (s.tlm i).isNone
  | .TLM_WB => (s.tlm i).isNone
  | .EVR_BASE => !s.rdb .EVR_CTRL_ENABLE d && decide (2 * s.rd .EVR_CTRL_RESERVE d ≤ 2 ^ Field.EVR_BASE_LOG2.of v)
  | .EVR_CTRL => decide (2 ≤ Field.EVR_CTRL_RESERVE.of v ∧ 2 * Field.EVR_CTRL_RESERVE.of v ≤ 2 ^ s.rd .EVR_BASE_LOG2 d)
  | .QP_SQBASE => s.rd .QP_STAT_STATE d i == 0
  | .QP_CQBASE => s.rd .QP_STAT_STATE d i == 0
  | .FNQ_Q0 => decide (Field.FNQ_Q0_QP.of v ≤ s.quotaMax d 1 ∧ Field.FNQ_Q0_FEEDQ.of v ≤ s.quotaMax d 2)
  | .FNQ_Q1 => decide (Field.FNQ_Q1_BANKS.of v ≤ s.quotaMax d 3)
  | .FNQ_Q2 => decide (Field.FNQ_Q2_PAGES.of v ≤ s.quotaMax d 4)
  | .PKT_WEARSEL => decide (Field.PKT_WEARSEL_DIE.of v < s.part.dies)
  | _ => true

/-- The MSI-X table and the pending-bit array, which stand beside the function page (R388). -/
def isMsix (r : Reg) : Bool := [Reg.MSIX_ADDR, .MSIX_DATA, .MSIX_CTRL, .MSIX_PBA].contains r

/-- Registers that refuse the PF's writes while the member is STANDBY for the function (R440): its quota record, and the function
page that the PF reaches, its own. -/
def State.standbyReg (s : State) (r : Reg) (d : Nat) : Bool :=
  (r.info.place == .fnq || (r.info.place == .fn && d == 0 && !isMsix r)) && s.standby d

/-- A write is accepted. -/
def State.regAccepts (s : State) (r : Reg) (d i v : Nat) : Bool :=
  rangesHold r v && s.regFits r d i v && !s.standbyReg r d

/-- A refused write sets the refusal bit of its block. -/
def State.refuseReg (s : State) (r : Reg) (d i : Nat) : State :=
  if r.info.place = .tile then s.wr .TIL_STATUS_REFUSED 1 d i
  else if r.info.place = .fn ∨ r.info.place = .qp then s.fnRefused d
  else if r.info.place = .fnq then s.fnRefused 0
  else if [Reg.YOK_SETTLE, .YOK_SEAM, .YOK_IBUDGET, .YOK_ACCT].contains r then s.yokRefused
  else if r = .PRG_CFG then s.wr .PRG_STATUS_REFUSED 1 d
  else if [Reg.CAL_CFG, .CAL_DRIFT, .CAL_TRACE, .CAL_RAMP, .CAL_LIMIT, .CAL_REFRESH, .CAL_TAB_ADDR].contains r then
    s.wr .CAL_STATUS_REFUSED 1 d
  else if [Reg.MCV_SEQCFG, .MCV_SEQA, .MCV_SEQB, .MCV_PLAUS, .MCV_SCAL, .MCV_TRIG].contains r then s.mcvRefused d
  else if isTlm r then s.wr .TLM_STAT_REFUSED 1 0 i
  else if r = .MEM_ARB then s.wr .MEM_STAT_REFUSED 1 d
  else if r = .MIR_CFG then s.wr .MIR_STAT_REFUSED 1
  else if r = .CLK_DTCTRL then s.clkRefused
  else if [Reg.PWR_PKG_BUDGET, .PWR_SHED_BUDGET, .PWR_SHED_CFG, .PWR_THERM].contains r then s.wr .PWR_STAT_REFUSED 1
  else if r = .PKT_UNLOCKSEL ∨ r = .PKT_WEARSEL then s.pktRefused
  else s

/-- The write is an expert write (R14). -/
def State.expertWrite (s : State) (r : Reg) (d i j v : Nat) : Bool :=
  r.fields.any (fun f => f.info.expert && (match f.info.acc with
    | .ro => false
    | .w1c => f.of v == 1
    | .w1s => f.of v == 1
    | _ => f.of v != s.rd f d i j))

/-- The unit of a register leaves firmware management (R14). -/
def State.markExpert (s : State) (r : Reg) (d i : Nat) : State :=
  match r with
  | .TIL_CHECK => s.wr .TIL_STATUS_EXPERT 1 d i
  | .HEM_SAT => s.hemExpert d i
  | .HEM_REFCHK => s.hemExpert d i
  | .YOK_SETTLE => s.yokExpert
  | .YOK_IBUDGET => s.yokExpert
  | .PRG_CFG => s.wr .PRG_STATUS_EXPERT 1 d
  | .CAL_LIMIT => (s.setAx .calExpert 1 d).calExpertShow d
  | .MCV_SEQCFG => s.mcvExpert d
  | .MCV_SEQA => s.mcvExpert d
  | .MCV_SEQB => s.mcvExpert d
  | .MCV_PLAUS => s.mcvExpert d
  | .MCV_TRIG => s.mcvExpert d
  | .MCV_TTRIG => s.mcvExpert d
  | .BNK_DIAG => s.wr .BNK_STAT_EXPERT 1 d
  | .MIR_CFG => s.wr .MIR_STAT_EXPERT 1
  | .WFM_PLAY_CTRL => s.setAx .wfmExpert 1 d
  | .WFM_PLAY_TARGET => s.setAx .wfmExpert 1 d
  | .WFM_PLAY_TSTART => s.setAx .wfmExpert 1 d
  | .WFM_PLAY_TSTOP => s.setAx .wfmExpert 1 d
  | _ => s

/-- One field by its access code (R10). An action bit has its own effect elsewhere. -/
def State.plainField (s : State) (d i j v : Nat) (f : Field) : State :=
  match f.info.acc with
  | .ro => s
  | .w1s => s
  | .w1c => if f.of v = 1 then s.wr f 0 d i j else s
  | _ => s.wr f (f.of v) d i j

/-- Every field of a register word. -/
def State.plain (s : State) (r : Reg) (d i j v : Nat) : State := s.each r.fields (fun s f => s.plainField d i j v f)

/-- A write of a register: refused whole, or taken field by field; then its actions. -/
def State.plainReg (s : State) (r : Reg) (d i j v : Nat) (acts : State → State) : State :=
  if !s.regAccepts r d i v then s.refuseReg r d i
  else acts ((s.when (s.expertWrite r d i j v) (fun s => s.markExpert r d i)).plain r d i j v)

/-! ## Writes of registers whose fields have rows of their own -/

/-- The effect of a row's meaning for an order that no other master contests. -/
def State.act (s : State) (f : Order → State → Res) (m : Master) (v : Nat) : State :=
  match f ⟨⟨m, v⟩, []⟩ s with
  | .next t => t
  | .fault _ => s
  | .refused _ => s

/-- A field that the write changes. -/
def State.sets (s : State) (f : Field) (d i j v : Nat) (g : Nat → State → State) : State :=
  if f.of v = s.rd f d i j then s else g (f.of v) s

/-- An action bit that the write sets. -/
def State.hit (s : State) (f : Field) (v : Nat) (g : State → State) : State := if f.of v = 1 then g s else s

/-- The tile registers. -/
def State.tileRegWrite (s : State) (m : Master) (r : Reg) (d t j v : Nat) : State :=
  match r with
  | .TIL_CTRL =>
    let s := s.sets .TIL_CTRL_HOLD d t 0 v (fun x s => s.act (execTilCtrlHoldWrite d t) m x)
    let s := s.sets .TIL_CTRL_PRECISION d t 0 v (fun x s => s.act (execTilCtrlPrecisionWrite d t) m x)
    let s := s.hit .TIL_CTRL_RETIRE v (fun s => s.act (execTilCtrlRetire d t) m 1)
    s.hit .TIL_CTRL_HANDBACK v (fun s => s.act (execTilCtrlHandback d t) m 1)
  | .DRV_CFG =>
    let s := s.act (execDrvCfgWrite d t) m (bits v 31 29)
    s.hit .DRV_CFG_HANDBACK v (fun s => s.act (execDrvCfgHandback d t) m 1)
  | .DRV_SLEW => s.act (execDrvSlewWrite d t) m (Field.DRV_SLEW_STEP.of v * 16 + Field.DRV_SLEW_RATE.of v)
  | .HEM_CFG => s.act (execHemCfgWrite d t) m (bits v 31 28)
  | .HEM_TAPS => s.act (execHemTapsWrite d t) m (Field.HEM_TAPS_WSTOP.of v * 64 + Field.HEM_TAPS_WSTART.of v)
  | .HEM_CTRL =>
    let s := s.hit .HEM_CTRL_CLEAR v (fun s => s.act (execHemCtrlClear d t) m 1)
    s.hit .HEM_CTRL_HANDBACK v (fun s => s.act (execHemCtrlHandback d t) m 1)
  | _ => s.plainReg r d t j v id

/-- The registers of a die window. -/
def State.dieRegWrite (s : State) (m : Master) (r : Reg) (d i v : Nat) : State :=
  match r with
  | .WFM_DATA => s.act (fun o => execWfmDataAccess d (.write o)) m (v % 4096)
  | .WFM_STAT => (s.plainReg r d i 0 v id).hit .WFM_STAT_HANDBACK v (fun s => s.act (execWfmStatHandback d) m 1)
  | .WFM_PLAY_CTRL => s.plainReg r d i 0 v (fun s =>
      let s := if Field.WFM_PLAY_CTRL_START.of v = 1 then s.act (execWfmPlayStart d i (Field.WFM_PLAY_CTRL_STOP.of v == 1)) m 1
        else s.hit .WFM_PLAY_CTRL_STOP v (fun s => s.act (execWfmPlayStop d i) m 1)
      s.hit .WFM_PLAY_CTRL_CANCEL v (fun s => s.act (execWfmPlayCancel d i) m 1))
  | .SEQ_CFG => s.act (execSeqCfgWrite d) m (Field.SEQ_CFG_RESERVE0.of v)
  | .SEQ_CTRL =>
    let s := s.sets .SEQ_CTRL_DRAIN d 0 0 v (fun x s => s.act (execSeqCtrlDrainWrite d) m x)
    s.hit .SEQ_CTRL_HANDBACK v (fun s => s.act (execSeqCtrlHandback d) m 1)
  | .DGA_CTRL =>
    let s := s.sets .DGA_CTRL_HOLD d 0 0 v (fun x s => s.act (execDgaCtrlHoldWrite d) m x)
    let s := s.hit .DGA_CTRL_CLEAR v (fun s => s.act (execDgaCtrlClear d) m 1)
    s.hit .DGA_CTRL_HANDBACK v (fun s => s.act (execDgaCtrlHandback d) m 1)
  | .PRG_CTRL =>
    let s := s.sets .PRG_CTRL_HOLD d 0 0 v (fun x s => s.act (execPrgCtrlHoldWrite d) m x)
    let s := s.hit .PRG_CTRL_CLEAR v (fun s => s.act (execPrgCtrlClear d) m 1)
    s.hit .PRG_CTRL_HANDBACK v (fun s => s.act (execPrgCtrlHandback d) m 1)
  | .PRG_STORE => s.sets .PRG_STORE_GIB d 0 0 v (fun x s => s.act (execPrgStoreWrite d) m x)
  | .CAL_CTRL =>
    let s := s.sets .CAL_CTRL_HOLD d 0 0 v (fun x s => s.act (execCalCtrlHoldWrite d) m x)
    let s := s.hit .CAL_CTRL_CLEAR v (fun s => s.act (execCalCtrlClear d) m 1)
    let s := s.hit .CAL_CTRL_HANDBACK v (fun s => s.act (execCalCtrlHandback d) m 1)
    s.hit .CAL_CTRL_TRACE v (fun s => s.act (execCalCtrlTrace d) m 1)
  | .CAL_TAB_DATA => s.act (fun o => execCalTabDataAccess d (.write o)) m v
  | .CAL_HANDBACK => s.plainReg r d i 0 v (fun s =>
      s.hit .CAL_HANDBACK_GO v (fun s => s.act (execCalHandbackGo d (s.rd .CAL_HANDBACK_TILE d)) m 1))
  | .MCV_CTRL =>
    if s.holdRefused d (Field.MCV_CTRL_HOLD.of v) then s.act (execMcvCtrlHoldWrite d) m 0 else
    let s := s.sets .MCV_CTRL_MODE d 0 0 v (fun x s => s.act (execMcvCtrlModeWrite d) m x)
    let s := s.sets .MCV_CTRL_HOLD d 0 0 v (fun x s => s.act (execMcvCtrlHoldWrite d) m x)
    let s := s.hit .MCV_CTRL_SCAL v (fun s => s.act (execMcvCtrlScal d) m 1)
    let s := s.hit .MCV_CTRL_CLEAR v (fun s => s.act (execMcvCtrlClear d) m 1)
    s.hit .MCV_CTRL_HANDBACK v (fun s => s.act (execMcvCtrlHandback d) m 1)
  | .MCV_TRIG => s.plainReg r d i 0 v (fun s => s.hit .MCV_TRIG_GO v (fun s => s.act (execMcvTrigGo d) m 1))
  | .MCV_TTRIG => (s.when (s.expertWrite r d i 0 v) (fun s => s.markExpert r d i)).timedTrigger d v
  | .TLM_CTRL => s.plainReg r 0 i 0 v (fun s =>
      let s := if Field.TLM_CTRL_START.of v = 1 then s.act (execTlmStart i (Field.TLM_CTRL_STOP.of v == 1)) m 1
        else s.hit .TLM_CTRL_STOP v (fun s => s.act (execTlmStop i) m 1)
      s.hit .TLM_CTRL_CANCEL v (fun s => s.act (execTlmCancel i) m 1))
  | .TLM_CHAN => s.plainReg r 0 i 0 (v &&& 0x873F873F873F873F) id
  | .BNK_OWNER => s.act (execBnkOwnerWrite d i) m (v % 2 ^ 11)
  | .BNK_CTRL =>
    let s := s.hit .BNK_CTRL_CLEAR v (fun s => s.act (execBnkCtrlClear d) m 1)
    s.hit .BNK_CTRL_HANDBACK v (fun s => s.act (execBnkCtrlHandback d) m 1)
  | .BNK_DIAG => s.plainReg r d i 0 v (fun s => s.hit .BNK_DIAG_GO v (fun s => s.act (execBnkDiagGo d false) m 1))
  | .MEM_CTRL =>
    let s := s.hit .MEM_CTRL_RETRAIN v (fun s => s.act (execMemCtrlRetrain d) m 1)
    let s := s.hit .MEM_CTRL_CLEAR v (fun s => s.act (execMemCtrlClear d) m 1)
    s.hit .MEM_CTRL_HANDBACK v (fun s => s.act (execMemCtrlHandback d) m 1)
  | .MEM_CFG => s.act (execMemCfgWrite d) m (bits v 31 30 * 4 + v % 4)
  | _ => s.plainReg r d i 0 v id

/-- The registers of a function page, of a queue-pair entry, and of a quota record. -/
def State.fnRegWrite (s : State) (m : Master) (r : Reg) (d i v : Nat) : State :=
  match r with
  | .EVR_CTRL =>
    if Field.EVR_CTRL_ENABLE.of v = 1 then s.act (execEvrCtrlEnable d) m (Field.EVR_CTRL_RESERVE.of v)
    else s.plainReg r d i 0 v id
  | .EVR_HEAD => s.act (execEvrHeadWrite d) m v
  | .MSIX_CTRL =>
    if s.rdb .MSIX_CTRL_MASK d i && v % 2 == 0 then s.act (execMsixUnmask d i) m 1 else s.wr .MSIX_CTRL_MASK v d i
  | .QP_CFG =>
    if Field.QP_CFG_ENABLE.of v = 1 then s.act (execQpCfgEnable i) m (Field.QP_CFG_SQLOG2.of v * 16 + Field.QP_CFG_CQLOG2.of v)
    else if s.rd .QP_STAT_STATE d i ≠ 0 then s.act (execQpCfgDisable i) m 0
    else s.plainReg r d i 0 v id
  | .QP_SQTAIL => s.act (execQpSqtailWrite i) m (v % 4096)
  | .QP_CQHEAD => s.act (execQpCqheadWrite i) m (v % 4096)
  | .FNQ_Q0 =>
    if !s.regAccepts r d i v then s.refuseReg r d i
    else (s.sets .FNQ_Q0_QP d 0 0 v (fun x s => s.act (execFnqQuotaWrite d 1) m x)).sets .FNQ_Q0_FEEDQ d 0 0 v
      (fun x s => s.act (execFnqQuotaWrite d 2) m x)
  | .FNQ_Q1 => s.act (execFnqQuotaWrite d 3) m (Field.FNQ_Q1_BANKS.of v)
  | .FNQ_Q2 => s.act (execFnqQuotaWrite d 4) m (Field.FNQ_Q2_PAGES.of v)
  | .FNQ_SHARE =>
    if !s.regAccepts r d i v then s.refuseReg r d i
    else (s.sets .FNQ_SHARE_POWER d 0 0 v (fun x s => s.act (execFnqQuotaWrite d 5) m x)).sets .FNQ_SHARE_RT d 0 0 v
      (fun x s => s.act (execFnqQuotaWrite d 6) m x)
  | .FNQ_GRANT =>
    if !s.regAccepts r d i v then s.refuseReg r d i
    else s.each ((List.range 64).filter (fun k => bit v k != bit (s.rd .FNQ_GRANT_SLOT d) k)) (fun s k =>
      s.act (execFnqGrantWrite d k) m (b2n (bit v k)))
  | .JOB_CFG => s.plainReg r d i 0 v (fun s => s.sendQuotas d)
  | _ => s.plainReg r d i 0 v id

/-- A word of CLK_GATEd: the die gate and the block gates are judged together, and refused whole (R459). -/
def State.gateWord (s : State) (m : Master) (d v : Nat) : State :=
  if s.gateRefuses 0 d (Field.CLK_GATE_DIE.of v) || s.gateRefuses 1 d (Field.CLK_GATE_BLK.of v) then s.gateRefused
  else (s.sets .CLK_GATE_DIE 0 d 0 v (fun x s => s.act (execClkGateWrite 0 d) m x)).sets .CLK_GATE_BLK 0 d 0 v
    (fun x s => s.act (execClkGateWrite 1 d) m x)

/-- The package registers. -/
def State.pkgRegWrite (s : State) (m : Master) (r : Reg) (i v : Nat) : State :=
  match r with
  | .YOK_CTRL =>
    let s := s.sets .YOK_CTRL_HOLD_ALL 0 0 0 v (fun x s => s.act execYokCtrlHoldAllWrite m x)
    let s := s.sets .YOK_CTRL_SPLIT_EN 0 0 0 v (fun x s => s.act execYokCtrlSplitEnWrite m x)
    let s := s.hit .YOK_CTRL_CLEAR v (fun s => s.act execYokCtrlClear m 1)
    s.hit .YOK_CTRL_HANDBACK v (fun s => s.act execYokCtrlHandback m 1)
  | .YOK_PERIOD => s.act execYokPeriodWrite m (v % 4096)
  | .YOK_THROTTLE => s.act execYokThrottleWrite m (v % 65536)
  | .MIR_CFG => s.plainReg r 0 0 0 (setBits v 31 31 (s.rd .MIR_CFG_ENABLE)) (fun s =>
      let s := s.sets .MIR_CFG_ENABLE 0 0 0 v (fun x s => s.act execMirCfgEnableWrite m x)
      s.hit .MIR_CFG_HANDBACK v (fun s => s.act execMirCfgHandback m 1))
  | .MIR_CTRL =>
    let s := s.hit .MIR_CTRL_RELEASE v (fun s => s.act execMirCtrlRelease m 1)
    let s := s.hit .MIR_CTRL_RESYNC v (fun s => s.act execMirCtrlResync m 1)
    s.hit .MIR_CTRL_CLEAR v (fun s => s.act execMirCtrlClear m 1)
  | .MIR_FN => s.act (execMirFnMirroredWrite i) m (Field.MIR_FN_MIRRORED.of v)
  | .FLT_CTRL => s.hit .FLT_CTRL_CLEAR v (fun s => s.act execFltCtrlClear m 1)
  | .CLK_CTRL =>
    let s := s.sets .CLK_CTRL_MGMT_SRC 0 0 0 v (fun x s => s.act execClkCtrlMgmtSrcWrite m x)
    let s := s.sets .CLK_CTRL_ROOT 0 0 0 v (fun x s => s.act execClkCtrlRootWrite m x)
    s.hit .CLK_CTRL_HANDBACK v (fun s => s.act execClkCtrlHandback m 1)
  | .CLK_PLL => s.act (execClkPllWrite i) m v
  | .CLK_GATE => s.gateWord m i v
  | .CLK_SG => s.act (execClkGateWrite 2 i) m (Field.CLK_SG_GROUP.of v)
  | .CLK_BG => s.act (execClkGateWrite 3 i) m (Field.CLK_BG_GROUP.of v)
  | .CLK_DTCTRL =>
    let on := !s.rdb .CLK_DTCTRL_PPS_EN && Field.CLK_DTCTRL_PPS_EN.of v == 1
    s.plainReg r 0 0 0 v (fun s =>
      let s := s.when on (fun s => s.setAx .lastPps (s.now + 1))
      let s := s.hit .CLK_DTCTRL_SET v (fun s => s.act execClkDtctrlSet m 1)
      s.hit .CLK_DTCTRL_SET_PPS v (fun s => s.act execClkDtctrlSetPps m 1))
  | .PWR_CTRL => s.hit .PWR_CTRL_HANDBACK v (fun s => s.act execPwrCtrlHandback m 1)
  | .PKT_DATA => s.pktDataWrite v
  | .PKT_UNLOCK => s.unlock v
  | .PKT_UNLOCKSEL => s.plainReg r 0 0 0 v (fun s => s.hit .PKT_UNLOCKSEL_RELOCK v State.relock)
  | .CHN_CFG => s.act execChnCfgPecWrite m (Field.CHN_CFG_PEC.of v)
  | _ => s.plainReg r 0 i 0 v id

/-- The entry of the QUE block is bound to a VF, and so read-only to the PF (R391). -/
def RegAt.foreign (a : RegAt) (m : Master) : Bool := a.reg.info.place == .qp && a.d != 0 && reachesPf m

/-- A whole register takes a value from a master. -/
def State.regWrite (s : State) (m : Master) (a : RegAt) (v : Nat) : State :=
  if a.foreign m then s.fnRefused 0
  else match a.reg.info.place with
  | .tile => s.tileRegWrite m a.reg a.d a.i a.j v
  | .die => s.dieRegWrite m a.reg a.d a.i v
  | .fn => s.fnRegWrite m a.reg a.d a.i v
  | .qp => s.fnRegWrite m a.reg a.d a.i v
  | .fnq => s.fnRegWrite m a.reg a.d a.i v
  | .pkg => s.pkgRegWrite m a.reg a.i v

/-- The value that the low word of a 64-bit register holds. -/
def State.presentLow (s : State) (a : RegAt) : Nat := s.regVal a.reg a.d a.i a.j % 2 ^ 32

/-- A 32-bit write of an aligned word (R6, R9): a low word waits in the holding word of its master. -/
def State.writeWord (s : State) (m : Master) (x v : Nat) : State :=
  match s.regAt m x with
  | none => s
  | some a =>
    if a.reg.info.width = 32 then s.regWrite m a v
    else if a.word = 0 then s.setHolding m x (some v)
    else
      let lo := (s.holding m (x - 4)).getD (s.presentLow a)
      (s.setHolding m (x - 4) none).regWrite m a (lo + v * 2 ^ 32)

/-- A write access (R6, R7): an aligned 64-bit access to a 64-bit register is one write; any other splits into words, in
ascending order, and a word of which fewer than four bytes are written is discarded. -/
def State.busWrite (s : State) (w : BusWr) : State :=
  let whole := match s.regAt w.by' w.addr with
    | some a => w.size == 8 && w.addr % 8 == 0 && a.reg.info.width == 64 && a.word == 0
    | none => false
  match whole, s.regAt w.by' w.addr with
  | true, some a => (s.setHolding w.by' w.addr none).regWrite w.by' a (w.data % 2 ^ 64)
  | _, _ =>
    let first := w.addr / 4
    s.each ((List.range ((w.addr + w.size - 1) / 4 - first + 1)).map (fun k => first + k)) (fun s k =>
      if w.addr ≤ 4 * k ∧ 4 * k + 4 ≤ w.addr + w.size then
        s.writeWord w.by' (4 * k) (w.data / 2 ^ (8 * (4 * k - w.addr)) % 2 ^ 32)
      else s)

/-- The write that stands: the one of the highest-ranked master; the first of equals (R430). -/
def busWinner (w : BusWr) : List BusWr → BusWr
  | [] => w
  | r :: t => busWinner (if masterRank r.by' < masterRank w.by' then r else w) t

/-- Two writes carry the same order. -/
def sameWrite (a b : BusWr) : Bool := a.addr == b.addr && a.size == b.size && a.data == b.data

/-- How far ahead of the part's own index a doorbell write lies; none for a write of any other register (R433). -/
def State.doorbellLead (s : State) (w : BusWr) : Option Nat :=
  match s.regAt w.by' w.addr with
  | none => none
  | some a =>
    let lead := fun (own log2 : Field) =>
      let n := 2 ^ s.rd log2 a.d a.i
      (w.data % 4096 + n - s.rd own a.d a.i % n) % n
    if w.size ≠ 4 ∨ w.addr % 4 ≠ 0 then none
    else if a.reg = .QP_SQTAIL then some (lead .QP_STAT_SQHEAD .QP_CFG_SQLOG2)
    else if a.reg = .QP_CQHEAD then some (lead .QP_CQHEAD_INDEX .QP_CFG_CQLOG2)
    else none

/-- Of doorbells to one queue pair in one cycle, the one that lies further ahead stands (R433). -/
def State.furthestBell (s : State) (w : BusWr) (l : List BusWr) : BusWr :=
  l.foldl (fun w r => if (s.doorbellLead w).getD 0 < (s.doorbellLead r).getD 0 then r else w) w

/-- The field that a hardware update names: a W1C or an RW field of the register at its offset. -/
def State.hwField (s : State) (u : HwSet) : Option (RegAt × Field) :=
  match s.regAt (if u.fn = 0 then .pf else .vf u.fn) u.addr with
  | none => none
  | some a => (a.reg.fields.find? (fun f => f.info.lo == u.lo && (f.info.acc == .w1c || f.info.acc == .rw))).map (fun f => (a, f))

/-- Hardware updates a field; a W1C bit is set. -/
def State.hwSet (s : State) (u : HwSet) : State :=
  match s.hwField u with
  | none => s
  | some (a, f) => s.wr f (if f.info.acc = .w1c then 1 else u.value) a.d a.i a.j

/-- The updates of W1C bits alone. -/
def State.hwSetsBits (s : State) (l : List HwSet) : List HwSet :=
  l.filter (fun u => (s.hwField u).any (fun e => e.2.info.acc == .w1c))

/-- A bus write with its rivals (R430, R431): contrary writes of the same cycle lose whole; identical ones all take effect;
doorbells follow R433. -/
def State.busOrder (s : State) (o : BusOrder) : State :=
  if (s.doorbellLead o.w).isSome then s.busWrite (s.furthestBell o.w o.rivals)
  else
    let w := busWinner o.w o.rivals
    let all := o.w :: o.rivals
    let s := s.each (all.filter (fun r => !sameWrite r w)) (fun s r => s.superseded w.by' r.by' r.addr)
    s.each (all.filter (fun r => sameWrite r w)) State.busWrite

/-- A bus write with its rivals and the updates by hardware in the same cycle. Where hardware updates an RW field, the write takes
effect (R12); where it sets a W1C bit that the write clears, the bit ends set (R11). -/
def State.busCycle (s : State) (o : BusOrder) : State :=
  ((s.each o.hw State.hwSet).busOrder o).each (s.hwSetsBits o.hw) State.hwSet

/-- REGISTER_WRITE (R7). -/
def execRegisterWrite (o : BusOrder) (s : State) : Res := .next (s.busCycle o)

end Sys2Proof.Machine
end

