-- ==== Sys2Proof/Machine/Chain.lean ====
section
/-!
DEFINITION. Machine/Chain.lean: the management chain: the bypass switch and its supervisor (R505 to R509), and the transactions of
an I2C target with the packet error code of SMBus (R503, R504, R510) (17_pocket_and_management_chain.md).
-/

namespace Sys2Proof.Machine

/-! ## The token line and the bypass switch (R505 to R508) -/

/-- CHAIN_OUT: joined to CHAIN_IN by a closed switch; otherwise it follows CHAIN_IN on a part with an address, and is deasserted
on one without. -/
def State.tokenOut (s : State) : State :=
  s.wr .CHN_STAT_CHAIN_OUT (if s.rdb .CHN_STAT_BYPASS || s.rdb .CHN_CFG_VALID then s.rd .CHN_STAT_CHAIN_IN else 0)

/-- The level of CHAIN_IN. -/
def State.token (s : State) (b : Bool) : State := (s.wr .CHN_STAT_CHAIN_IN (b2n b)).tokenOut

/-- VDD_AON and VDD_IO come good (R508, R518): the power cycle is over for the chain logic, with the bypass switch closed; the
volatile shadows of VDD_AON start from 0 until start-up loads them (R493). -/
def State.aonGood (s : State) : State :=
  let s := s.coldReset true
  let s : State := { s with aux := s.aux.filter (fun e => e.1.unpair.1 != Aux.ctorIdx .wear) }
  let s := ((((s.setAx .bypassed 0).setAx .chainBeat 0).setAx .chainStatus 0).setAx .energyRest 0).setAx .pllsOnce 0
  let s := s.each [Field.PKT_LIFE_POH_HOURS, .PKT_LIFE_CYCLES_COUNT, .PKT_LIFE_ENERGY_JOULES, .PKT_LIFE_STITCHES_COUNT] (fun s f => s.wr f 0)
  (s.wr .CHN_STAT_BYPASS 1).tokenOut

def execVddAonGood (s : State) : Res := .next s.aonGood

/-- The chain logic opens the switch (R508). -/
def execBypassSwitchOpen (s : State) : Res :=
  .next (if s.rdb .CHN_STAT_BYPASS ∧ s.ax .bypassed = 0 then ((s.wr .CHN_STAT_BYPASS 0).setAx .chainBeat (s.now + 1)).tokenOut else s)

def execChainHeartbeatToggle (s : State) : Res :=
  .next (if s.rdb .CHN_STAT_BYPASS then s else s.setAx .chainBeat (s.now + 1))

/-- The supervisor closes the switch until the next power cycle: cause 1 by command, 2 without heartbeat (R508, R511). -/
def State.bypass (s : State) (cause : Nat) : State :=
  let s := ((s.setAx .bypassed cause).wr .CHN_STAT_BYPASS 1).tokenOut
  s.when (s.stepDone 3) (fun s => s.event 0xA5 0xFF sevError cause)

def execChainSupervisorTimeout (s : State) : Res :=
  .next (if !s.rdb .CHN_STAT_BYPASS ∧ s.ax .chainBeat - 1 + 5000000 ≤ s.now then s.bypass 2 else s)

/-- 25 ms without a STOP: the interface resets, and the transaction has no effect (R423, R504). -/
def execChainTransactionTimeout (s : State) : Res := .next ((s.bump .CHN_STAT_TIMEOUTS).timeout 7 0xFF 0 [] 0)

/-! ## Transactions (R503, R510) -/

/-- The packet error code of SMBus: a CRC-8 with the polynomial x^8 + x^2 + x + 1 (log entry 34). -/
def pecByte (c : Nat) (b : Byte) : Nat :=
  (List.range 8).foldl (fun c _ => if c ≥ 128 then (c * 2) % 256 ^^^ 7 else c * 2) (c ^^^ b.toNat)

def pecOf (l : List Byte) : Byte := BitVec.ofNat 8 (l.foldl pecByte 0)

/-- The address byte of a transaction, with its read bit. -/
def addrByte (x : ChainTx) (rd : Nat) : Byte := BitVec.ofNat 8 (2 * x.addr + rd)

/-- The part answers a transaction: at its address (R505), and never while it is bypassed (R508). -/
def State.answers (s : State) (x : ChainTx) : Bool :=
  s.ax .bypassed == 0 && s.rdb .CHN_CFG_VALID && x.addr == s.rd .CHN_CFG_ADDR

/-- A part without an address answers 0x6A while CHAIN_IN is asserted (R506). -/
def State.answersNew (s : State) (x : ChainTx) : Bool :=
  s.ax .bypassed == 0 && !s.rdb .CHN_CFG_VALID && x.addr == 0x6A && x.tokenIn

/-- Nothing is acknowledged. -/
def State.nack (s : State) : State := s.emit .nack

/-- The status that LAST_STATUS returns (R510). -/
def State.leave (s : State) (st : Nat) : State := s.setAx .chainStatus st

/-- A write whose packet error code is wrong or missing while CHN_CFG.PEC is 1 (R503). -/
def State.pecWrong (s : State) (x : ChainTx) (cmd : Nat) (args : List Byte) : Bool :=
  s.rdb .CHN_CFG_PEC && x.pec != some (pecOf (addrByte x 0 :: BitVec.ofNat 8 cmd :: args))

/-- It is discarded and counted; CHAIN_PEC_ERROR at most once per second (R503, R511). -/
def State.pecError (s : State) : State :=
  let s := s.nack.bump .CHN_STAT_PEC_ERR
  if s.ax .pecAt = 0 ∨ s.ax .pecAt - 1 + 1000000000 ≤ s.now then
    (s.setAx .pecAt (s.now + 1)).event 0xA6 0xFF sevNotice (s.rd .CHN_STAT_PEC_ERR)
  else s

/-- A chain write that the part answers: discarded with a wrong code, otherwise carried out. -/
def State.chainWrite (s : State) (x : ChainTx) (cmd : Nat) (args : List Byte) (f : State → State) : State :=
  let s := s.token x.tokenIn
  if !s.answers x then s.nack
  else if s.pecWrong x cmd args then s.pecError
  else f s

/-- The data of a chain read, with the packet error code that the read appends (R503). -/
def State.chainData (s : State) (x : ChainTx) (cmd : Nat) (args l : List Byte) : State :=
  s.emit (.chain (if s.rdb .CHN_CFG_PEC then l ++ [pecOf (addrByte x 0 :: BitVec.ofNat 8 cmd :: args ++ addrByte x 1 :: l)] else l))

/-- A chain read that the part answers. -/
def State.chainRead (s : State) (x : ChainTx) (f : State → State) : State :=
  let s := s.token x.tokenIn
  if s.answers x then f s else s.nack

/-! ## Commands of the chain (R506, R507, R510) -/

/-- IDENTIFY: GLB_ID, the serial number, the address, CHN_STAT bits 31:24, two reserved bytes. -/
def State.identity (s : State) : List Byte :=
  leBytes 4 (s.regRead .GLB_ID 0 0 0) ++ leBytes 8 s.part.serial ++ leBytes 1 (s.rd .CHN_CFG_ADDR) ++
    leBytes 1 (bits (s.regRead .CHN_STAT 0 0 0) 31 24) ++ leBytes 2 0

def execIdentify (x : ChainTx) (s : State) : Res :=
  .next (s.chainRead x (fun s => (s.chainData x 0x01 [] s.identity).leave stOK))

/-- ASSIGN takes an address from 0x08 to 0x67 (R506). -/
def State.assign (s : State) (x : ChainTx) (v : Nat) : State :=
  let s := s.token x.tokenIn
  if !s.answersNew x ∨ v < 0x08 ∨ v > 0x67 then s.nack
  else if s.pecWrong x 0x02 (leBytes 1 v) then s.pecError
  else ((((s.wr .CHN_CFG_VALID 1).wr .CHN_CFG_ADDR v).tokenOut).event 0xA4 0xFF sevInfo v).leave stOK

def execAssign (x : ChainTx) (v : Nat) (s : State) : Res := .next (s.assign x v)

/-- CLEAR_ADDR: the part forgets its address and returns to R506 (R507). -/
def execClearAddr (x : ChainTx) (s : State) : Res :=
  .next (s.chainWrite x 0x03 [] (fun s => (((s.wr .CHN_CFG_VALID 0).wr .CHN_CFG_ADDR 0x6A).tokenOut).leave stOK))

/-- STATUS: START_REPORT, PWR_STAT and MIR_STAT. -/
def execChainStatus (x : ChainTx) (s : State) : Res :=
  .next (s.chainRead x (fun s => (s.chainData x 0x04 []
    (leBytes 4 (s.regRead .START_REPORT 0 0 0) ++ leBytes 4 (s.regRead .PWR_STAT 0 0 0) ++ leBytes 4 (s.regRead .MIR_STAT 0 0 0))).leave stOK))

/-- REG_READ: not acknowledged until step 3 of the start-up has run. -/
def execRegRead (x : ChainTx) (off : Nat) (s : State) : Res :=
  .next (s.chainRead x (fun s =>
    if s.stepDone 3 then
      let r := s.readAccess .chain off 4
      (r.2.chainData x 0x05 (leBytes 4 off) (leBytes 4 r.1)).leave stOK
    else s.nack))

/-- REG_WRITE ranks as the management chain (R430). -/
def execRegWrite (x : ChainTx) (off v : Nat) (y : CycleInfo) (s : State) : Res :=
  .next (s.chainWrite x 0x06 (leBytes 4 off ++ leBytes 4 v) (fun s =>
    if s.stepDone 3 then (s.busCycle ⟨⟨.chain, off, 4, v % 2 ^ 32⟩, y.rivals, y.hw⟩).leave stOK else s.nack))

/-- Words of a page as reads return them, from word w on. -/
def State.pocketWords (s : State) (d p w : Nat) : Nat → List Byte × State
  | 0 => ([], s)
  | n + 1 =>
    let x := s.pocketWord d p w
    let r := x.2.pocketWords d p (w + 1) n
    (leBytes 4 x.1 ++ r.1, r.2)

/-- Bytes of a page as a read returns them, from the words that hold them. -/
def State.pocketBytes (s : State) (d p off n : Nat) : List Byte × State :=
  let r := s.pocketWords d p (off / 4) ((off % 4 + n + 3) / 4)
  ((r.1.drop (off % 4)).take n, r.2)

/-- The range that a chain command of the Pocket names lies within a page of a die of the part (R491, R510). -/
def State.chainSpan (s : State) (d p off n : Nat) : Bool := decide (d < s.part.dies ∧ p < 128 ∧ 1 ≤ n ∧ n ≤ 32 ∧ off + n ≤ 4096)

def execChainPocketRead (x : ChainTx) (die page off count : Nat) (s : State) : Res :=
  .next (s.chainRead x (fun s =>
    let args := leBytes 1 die ++ leBytes 1 page ++ leBytes 2 off ++ leBytes 1 count
    let zeros := List.replicate (min count 32) (0 : Byte)
    if !s.chainSpan die page off count then (s.chainData x 0x07 args zeros).leave stMalformed
    else if !s.pktRdOpen page then (s.pktDenied.chainData x 0x07 args zeros).leave stRejectedPrivilege
    else
      let r := s.pocketBytes die page off count
      (r.2.chainData x 0x07 args r.1).leave stOK))

/-- A chain POCKET_WRITE, with a master that wrote one of the words in the same cycle (R492). -/
def State.chainPocketWrite (s : State) (d p off n : Nat) (data : List Byte) (rival : Option Master) : State :=
  if !s.chainSpan d p off n || n % 4 != 0 || off % 4 != 0 || data.length != n then s.leave stMalformed
  else
    let key := pocketKey d p off
    match rival.filter (fun r => masterRank r < masterRank .chain) with
    | some r => (s.superseded r .chain key).leave stRejectedSuperseded
    | none =>
      let s := match rival with
        | some r => s.superseded .chain r key
        | none => s
      if s.pktWrOpen d p then (s.pktWrite d p off data).leave stOK else s.pktDenied.leave stRejectedPrivilege

def execChainPocketWrite (x : ChainTx) (die page off count : Nat) (data : List Byte) (rival : Option Master) (s : State) : Res :=
  .next (s.chainWrite x 0x08 (leBytes 1 die ++ leBytes 1 page ++ leBytes 2 off ++ leBytes 1 count ++ data)
    (fun s => s.chainPocketWrite die page off count data rival))

def execBypass (x : ChainTx) (s : State) : Res := .next (s.chainWrite x 0x09 [] (fun s => (s.bypass 1).leave stOK))

def execLastStatus (x : ChainTx) (s : State) : Res :=
  .next (s.chainRead x (fun s => s.chainData x 0x0F [] (leBytes 1 (s.ax .chainStatus))))

end Sys2Proof.Machine
end

