-- ==== Sys2Proof/Machine/Dispatch.lean ====
section
/-!
DEFINITION. Machine/Dispatch.lean: one arm per command, each one call of its meaning.
-/

namespace Sys2Proof.Machine

def exec (i : Instr) (s : State) : Host.Outcome State Fault Refusal :=
  match i with
  | .registerWrite o => Sys2Proof.Machine.execRegisterWrite o s
  | .glbCapacityLowRead by' => Sys2Proof.Machine.execGlbCapacityLowRead by' s
  | .hemMseSumRead by' die tile q wide => Sys2Proof.Machine.execHemMseSumRead by' die tile q wide s
  | .tilCtrlRetire die tile o => Sys2Proof.Machine.execTilCtrlRetire die tile o s
  | .tilCtrlHoldWrite die tile o => Sys2Proof.Machine.execTilCtrlHoldWrite die tile o s
  | .tilCtrlPrecisionWrite die tile o => Sys2Proof.Machine.execTilCtrlPrecisionWrite die tile o s
  | .tilCtrlHandback die tile o => Sys2Proof.Machine.execTilCtrlHandback die tile o s
  | .spareTileTest die tiles => Sys2Proof.Machine.execSpareTileTest die tiles s
  | .recordTileFailure die tile cells conds => Sys2Proof.Machine.execRecordTileFailure die tile cells conds s
  | .repairDone die eng out => Sys2Proof.Machine.execRepairDone die eng out s
  | .drvCfgWrite die tile o => Sys2Proof.Machine.execDrvCfgWrite die tile o s
  | .drvSlewWrite die tile o => Sys2Proof.Machine.execDrvSlewWrite die tile o s
  | .drvCfgHandback die tile o => Sys2Proof.Machine.execDrvCfgHandback die tile o s
  | .wfmDataAccess die a => Sys2Proof.Machine.execWfmDataAccess die a s
  | .wfmPlayStart die player stop o => Sys2Proof.Machine.execWfmPlayStart die player stop o s
  | .wfmPlayStop die player o => Sys2Proof.Machine.execWfmPlayStop die player o s
  | .wfmPlayCancel die player o => Sys2Proof.Machine.execWfmPlayCancel die player o s
  | .wfmTimedStart die player => Sys2Proof.Machine.execWfmTimedStart die player s
  | .wfmTimedStop die player => Sys2Proof.Machine.execWfmTimedStop die player s
  | .wfmPointInterval die player => Sys2Proof.Machine.execWfmPointInterval die player s
  | .wfmStatHandback die o => Sys2Proof.Machine.execWfmStatHandback die o s
  | .hemCfgWrite die tile o => Sys2Proof.Machine.execHemCfgWrite die tile o s
  | .hemTapsWrite die tile o => Sys2Proof.Machine.execHemTapsWrite die tile o s
  | .hemCtrlClear die tile o => Sys2Proof.Machine.execHemCtrlClear die tile o s
  | .hemCtrlHandback die tile o => Sys2Proof.Machine.execHemCtrlHandback die tile o s
  | .conversionsEnd die tile out => Sys2Proof.Machine.execConversionsEnd die tile out s
  | .stitchStrobe => Sys2Proof.Machine.execStitchStrobe s
  | .periodMarker die => Sys2Proof.Machine.execPeriodMarker die s
  | .skewRemeasure die skew => Sys2Proof.Machine.execSkewRemeasure die skew s
  | .followerOff die => Sys2Proof.Machine.execFollowerOff die s
  | .followerRealign die => Sys2Proof.Machine.execFollowerRealign die s
  | .feederLoadDone die x => Sys2Proof.Machine.execFeederLoadDone die x s
  | .seamDue slot => Sys2Proof.Machine.execSeamDue slot s
  | .seamPass slot => Sys2Proof.Machine.execSeamPass slot s
  | .mapSwitchDrainLimit slot => Sys2Proof.Machine.execMapSwitchDrainLimit slot s
  | .accountingWindowEnd => Sys2Proof.Machine.execAccountingWindowEnd s
  | .yokeRoleMoveEnd => Sys2Proof.Machine.execYokeRoleMoveEnd s
  | .yokCtrlHoldAllWrite o => Sys2Proof.Machine.execYokCtrlHoldAllWrite o s
  | .yokCtrlSplitEnWrite o => Sys2Proof.Machine.execYokCtrlSplitEnWrite o s
  | .yokCtrlClear o => Sys2Proof.Machine.execYokCtrlClear o s
  | .yokCtrlHandback o => Sys2Proof.Machine.execYokCtrlHandback o s
  | .yokPeriodWrite o => Sys2Proof.Machine.execYokPeriodWrite o s
  | .yokThrottleWrite o => Sys2Proof.Machine.execYokThrottleWrite o s
  | .jobDispatch => Sys2Proof.Machine.execJobDispatch s
  | .jobCommit job => Sys2Proof.Machine.execJobCommit job s
  | .barRelease job => Sys2Proof.Machine.execBarRelease job s
  | .memoryConditionRecheck t => Sys2Proof.Machine.execMemoryConditionRecheck t s
  | .seqCfgWrite die o => Sys2Proof.Machine.execSeqCfgWrite die o s
  | .seqCtrlDrainWrite die o => Sys2Proof.Machine.execSeqCtrlDrainWrite die o s
  | .seqCtrlHandback die o => Sys2Proof.Machine.execSeqCtrlHandback die o s
  | .nop t => Sys2Proof.Machine.execNop t s
  | .br t => Sys2Proof.Machine.execBr t s
  | .bri t => Sys2Proof.Machine.execBri t s
  | .brc t => Sys2Proof.Machine.execBrc t s
  | .loop t => Sys2Proof.Machine.execLoop t s
  | .endl t => Sys2Proof.Machine.execEndl t s
  | .lpop t => Sys2Proof.Machine.execLpop t s
  | .call t => Sys2Proof.Machine.execCall t s
  | .calli t => Sys2Proof.Machine.execCalli t s
  | .ret t => Sys2Proof.Machine.execRet t s
  | .wait t => Sys2Proof.Machine.execWait t s
  | .waitEq t => Sys2Proof.Machine.execWaitEq t s
  | .waitNe t => Sys2Proof.Machine.execWaitNe t s
  | .waitGeu t => Sys2Proof.Machine.execWaitGeu t s
  | .trap t => Sys2Proof.Machine.execTrap t s
  | .halt t => Sys2Proof.Machine.execHalt t s
  | .ctx t => Sys2Proof.Machine.execCtx t s
  | .aluImmediate t => Sys2Proof.Machine.execAluImmediate t s
  | .aluRegister t => Sys2Proof.Machine.execAluRegister t s
  | .cmp t => Sys2Proof.Machine.execCmp t s
  | .cmpi t => Sys2Proof.Machine.execCmpi t s
  | .predicateOp t => Sys2Proof.Machine.execPredicateOp t s
  | .tdset t => Sys2Proof.Machine.execTdset t s
  | .tdget t => Sys2Proof.Machine.execTdget t s
  | .tdld t => Sys2Proof.Machine.execTdld t s
  | .tdst t => Sys2Proof.Machine.execTdst t s
  | .tdcpy t => Sys2Proof.Machine.execTdcpy t s
  | .tdinv t => Sys2Proof.Machine.execTdinv t s
  | .tdadd t => Sys2Proof.Machine.execTdadd t s
  | .load t => Sys2Proof.Machine.execLoad t s
  | .store t => Sys2Proof.Machine.execStore t s
  | .movt t => Sys2Proof.Machine.execMovt t s
  | .gather t => Sys2Proof.Machine.execGather t s
  | .scatter t => Sys2Proof.Machine.execScatter t s
  | .scldE t => Sys2Proof.Machine.execScldE t s
  | .scldT t => Sys2Proof.Machine.execScldT t s
  | .stitch t => Sys2Proof.Machine.execStitch t s
  | .rstitch t => Sys2Proof.Machine.execRstitch t s
  | .swait t => Sys2Proof.Machine.execSwait t s
  | .rot t => Sys2Proof.Machine.execRot t s
  | .mapsel t => Sys2Proof.Machine.execMapsel t s
  | .mm t => Sys2Proof.Machine.execMm t s
  | .mmt t => Sys2Proof.Machine.execMmt t s
  | .mma t => Sys2Proof.Machine.execMma t s
  | .mmat t => Sys2Proof.Machine.execMmat t s
  | .ew t => Sys2Proof.Machine.execEw t s
  | .red t => Sys2Proof.Machine.execRed t s
  | .smax t => Sys2Proof.Machine.execSmax t s
  | .normLayer t => Sys2Proof.Machine.execNormLayer t s
  | .normRms t => Sys2Proof.Machine.execNormRms t s
  | .qnt t => Sys2Proof.Machine.execQnt t s
  | .dqnt t => Sys2Proof.Machine.execDqnt t s
  | .bar t => Sys2Proof.Machine.execBar t s
  | .fence t => Sys2Proof.Machine.execFence t s
  | .signalSet t => Sys2Proof.Machine.execSignalSet t s
  | .signalAdd t => Sys2Proof.Machine.execSignalAdd t s
  | .signalMaxu t => Sys2Proof.Machine.execSignalMaxu t s
  | .evpost t => Sys2Proof.Machine.execEvpost t s
  | .cpost t => Sys2Proof.Machine.execCpost t s
  | .cal t rival => Sys2Proof.Machine.execCal t rival s
  | .clear t rival => Sys2Proof.Machine.execClear t rival s
  | .prog t rival => Sys2Proof.Machine.execProg t rival s
  | .verify t rival => Sys2Proof.Machine.execVerify t rival s
  | .refresh t rival => Sys2Proof.Machine.execRefresh t rival s
  | .arrayBlockEnd die opwait stall short x => Sys2Proof.Machine.execArrayBlockEnd die opwait stall short x s
  | .dgaCtrlHoldWrite die o => Sys2Proof.Machine.execDgaCtrlHoldWrite die o s
  | .dgaCtrlClear die o => Sys2Proof.Machine.execDgaCtrlClear die o s
  | .dgaCtrlHandback die o => Sys2Proof.Machine.execDgaCtrlHandback die o s
  | .dmaDescriptorDone e => Sys2Proof.Machine.execDmaDescriptorDone e s
  | .imageLoad id parts => Sys2Proof.Machine.execImageLoad id parts s
  | .imageLoadComplete id bytes => Sys2Proof.Machine.execImageLoadComplete id bytes s
  | .imageEvict id => Sys2Proof.Machine.execImageEvict id s
  | .slotProgram id => Sys2Proof.Machine.execSlotProgram id s
  | .slotSwitch id => Sys2Proof.Machine.execSlotSwitch id s
  | .slotReplace id => Sys2Proof.Machine.execSlotReplace id s
  | .mapFree id => Sys2Proof.Machine.execMapFree id s
  | .slotFree id => Sys2Proof.Machine.execSlotFree id s
  | .slotFreeDrainEnd id => Sys2Proof.Machine.execSlotFreeDrainEnd id s
  | .slotInfo id => Sys2Proof.Machine.execSlotInfo id s
  | .keyEnrol id hash => Sys2Proof.Machine.execKeyEnrol id hash s
  | .keyRevoke id => Sys2Proof.Machine.execKeyRevoke id s
  | .progFinish die eng out => Sys2Proof.Machine.execProgFinish die eng out s
  | .clearFinish die eng reads => Sys2Proof.Machine.execClearFinish die eng reads s
  | .verifyFinish die eng counts => Sys2Proof.Machine.execVerifyFinish die eng counts s
  | .prgCtrlHoldWrite die o => Sys2Proof.Machine.execPrgCtrlHoldWrite die o s
  | .prgCtrlClear die o => Sys2Proof.Machine.execPrgCtrlClear die o s
  | .prgCtrlHandback die o => Sys2Proof.Machine.execPrgCtrlHandback die o s
  | .prgStoreWrite die o => Sys2Proof.Machine.execPrgStoreWrite die o s
  | .driftInterval die x conv => Sys2Proof.Machine.execDriftInterval die x conv s
  | .traceDue die => Sys2Proof.Machine.execTraceDue die s
  | .traceEnd die rho => Sys2Proof.Machine.execTraceEnd die rho s
  | .traceRetry die => Sys2Proof.Machine.execTraceRetry die s
  | .quickCalEnd die tile out => Sys2Proof.Machine.execQuickCalEnd die tile out s
  | .fullCalStart die => Sys2Proof.Machine.execFullCalStart die s
  | .fullCalEnd die tile out => Sys2Proof.Machine.execFullCalEnd die tile out s
  | .periodicFullCalDue die tile => Sys2Proof.Machine.execPeriodicFullCalDue die tile s
  | .recordHourlySave die => Sys2Proof.Machine.execRecordHourlySave die s
  | .refreshEnd die tile => Sys2Proof.Machine.execRefreshEnd die tile s
  | .calCtrlHoldWrite die o => Sys2Proof.Machine.execCalCtrlHoldWrite die o s
  | .calCtrlClear die o => Sys2Proof.Machine.execCalCtrlClear die o s
  | .calCtrlHandback die o => Sys2Proof.Machine.execCalCtrlHandback die o s
  | .calCtrlTrace die o => Sys2Proof.Machine.execCalCtrlTrace die o s
  | .calTabDataAccess die a => Sys2Proof.Machine.execCalTabDataAccess die a s
  | .calHandbackGo die tile o => Sys2Proof.Machine.execCalHandbackGo die tile o s
  | .mcvEntryStart die => Sys2Proof.Machine.execMcvEntryStart die s
  | .mcvEntryEnd die codeA codeB half => Sys2Proof.Machine.execMcvEntryEnd die codeA codeB half s
  | .urgentRequest die kind who => Sys2Proof.Machine.execUrgentRequest die kind who s
  | .urgentConversionEnd die conv => Sys2Proof.Machine.execUrgentConversionEnd die conv s
  | .selfCalDue die => Sys2Proof.Machine.execSelfCalDue die s
  | .selfCalEnd die conv cal => Sys2Proof.Machine.execSelfCalEnd die conv cal s
  | .mcvCtrlModeWrite die o => Sys2Proof.Machine.execMcvCtrlModeWrite die o s
  | .mcvCtrlHoldWrite die o => Sys2Proof.Machine.execMcvCtrlHoldWrite die o s
  | .mcvCtrlScal die o => Sys2Proof.Machine.execMcvCtrlScal die o s
  | .mcvCtrlClear die o => Sys2Proof.Machine.execMcvCtrlClear die o s
  | .mcvCtrlHandback die o => Sys2Proof.Machine.execMcvCtrlHandback die o s
  | .mcvTrigGo die o => Sys2Proof.Machine.execMcvTrigGo die o s
  | .mcvTimedTrigger die => Sys2Proof.Machine.execMcvTimedTrigger die s
  | .simultaneousConversionEnd die codeA codeB => Sys2Proof.Machine.execSimultaneousConversionEnd die codeA codeB s
  | .tlmStart stream stop o => Sys2Proof.Machine.execTlmStart stream stop o s
  | .tlmStop stream o => Sys2Proof.Machine.execTlmStop stream o s
  | .tlmCancel stream o => Sys2Proof.Machine.execTlmCancel stream o s
  | .tlmTimedStart stream => Sys2Proof.Machine.execTlmTimedStart stream s
  | .tlmTimedStop stream => Sys2Proof.Machine.execTlmTimedStop stream s
  | .tlmPeriodSample stream => Sys2Proof.Machine.execTlmPeriodSample stream s
  | .tlmRdidxWrite stream o => Sys2Proof.Machine.execTlmRdidxWrite stream o s
  | .bnkOwnerWrite die bank o => Sys2Proof.Machine.execBnkOwnerWrite die bank o s
  | .bankHandover die bank => Sys2Proof.Machine.execBankHandover die bank s
  | .bankZeroingEnd die bank => Sys2Proof.Machine.execBankZeroingEnd die bank s
  | .bnkCtrlClear die o => Sys2Proof.Machine.execBnkCtrlClear die o s
  | .bnkCtrlHandback die o => Sys2Proof.Machine.execBnkCtrlHandback die o s
  | .bnkDiagGo die collide o => Sys2Proof.Machine.execBnkDiagGo die collide o s
  | .bankScrub die corr bad => Sys2Proof.Machine.execBankScrub die corr bad s
  | .lpddrPatrolScrub die offs flips => Sys2Proof.Machine.execLpddrPatrolScrub die offs flips s
  | .wck2dqDrift die ch => Sys2Proof.Machine.execWck2dqDrift die ch s
  | .retrainEnd die ch x => Sys2Proof.Machine.execRetrainEnd die ch x s
  | .memCtrlRetrain die o => Sys2Proof.Machine.execMemCtrlRetrain die o s
  | .memCtrlClear die o => Sys2Proof.Machine.execMemCtrlClear die o s
  | .memCtrlHandback die o => Sys2Proof.Machine.execMemCtrlHandback die o s
  | .memCfgWrite die o => Sys2Proof.Machine.execMemCfgWrite die o s
  | .qpCfgEnable entry o => Sys2Proof.Machine.execQpCfgEnable entry o s
  | .qpCfgDisable entry o => Sys2Proof.Machine.execQpCfgDisable entry o s
  | .qpDrainEnd q => Sys2Proof.Machine.execQpDrainEnd q s
  | .qpSqtailWrite entry o => Sys2Proof.Machine.execQpSqtailWrite entry o s
  | .qpCqheadWrite entry o => Sys2Proof.Machine.execQpCqheadWrite entry o s
  | .descriptorFetch q data rival => Sys2Proof.Machine.execDescriptorFetch q data rival s
  | .parkedCommandEligible id => Sys2Proof.Machine.execParkedCommandEligible id s
  | .cmdNop id => Sys2Proof.Machine.execCmdNop id s
  | .jobSubmit id => Sys2Proof.Machine.execJobSubmit id s
  | .jobAbort id => Sys2Proof.Machine.execJobAbort id s
  | .programLoad id obj => Sys2Proof.Machine.execProgramLoad id obj s
  | .programUnload id => Sys2Proof.Machine.execProgramUnload id s
  | .programUnloadEffect h => Sys2Proof.Machine.execProgramUnloadEffect h s
  | .resAlloc id => Sys2Proof.Machine.execResAlloc id s
  | .resFree id => Sys2Proof.Machine.execResFree id s
  | .bankHost id => Sys2Proof.Machine.execBankHost id s
  | .evict id => Sys2Proof.Machine.execEvict id s
  | .fnqQuotaWrite fn kind o => Sys2Proof.Machine.execFnqQuotaWrite fn kind o s
  | .fnqGrantWrite fn slot o => Sys2Proof.Machine.execFnqGrantWrite fn slot o s
  | .functionLevelReset fn => Sys2Proof.Machine.execFunctionLevelReset fn s
  | .hotReset => Sys2Proof.Machine.execHotReset s
  | .bar2Access fn addr size x => Sys2Proof.Machine.execBar2Access fn addr size x s
  | .evrCtrlEnable fn o => Sys2Proof.Machine.execEvrCtrlEnable fn o s
  | .evrHeadWrite fn o => Sys2Proof.Machine.execEvrHeadWrite fn o s
  | .msixModerationTimeout fn vec => Sys2Proof.Machine.execMsixModerationTimeout fn vec s
  | .msixUnmask fn vec o => Sys2Proof.Machine.execMsixUnmask fn vec o s
  | .bankPortWaitTimeout die bank job => Sys2Proof.Machine.execBankPortWaitTimeout die bank job s
  | .dieLinkTimeout link jobs => Sys2Proof.Machine.execDieLinkTimeout link jobs s
  | .lpddrCommandTimeout die off jobs => Sys2Proof.Machine.execLpddrCommandTimeout die off jobs s
  | .dmaDescriptorTimeout die eng issue => Sys2Proof.Machine.execDmaDescriptorTimeout die eng issue s
  | .sequencerProgressTimeout die seq => Sys2Proof.Machine.execSequencerProgressTimeout die seq s
  | .feedQueueStarvation queue => Sys2Proof.Machine.execFeedQueueStarvation queue s
  | .jobWatchdog job => Sys2Proof.Machine.execJobWatchdog job s
  | .chainTransactionTimeout => Sys2Proof.Machine.execChainTransactionTimeout s
  | .mgmtWatchdogMiss die => Sys2Proof.Machine.execMgmtWatchdogMiss die s
  | .dieRestore id r => Sys2Proof.Machine.execDieRestore id r s
  | .pairHandover id => Sys2Proof.Machine.execPairHandover id s
  | .mirRegion id answer => Sys2Proof.Machine.execMirRegion id answer s
  | .heartbeatSend => Sys2Proof.Machine.execHeartbeatSend s
  | .heartbeatFlit h rank epoch time roles => Sys2Proof.Machine.execHeartbeatFlit h rank epoch time roles s
  | .ackFlit h => Sys2Proof.Machine.execAckFlit h s
  | .nakFlit h => Sys2Proof.Machine.execNakFlit h s
  | .journalFlit h fn m => Sys2Proof.Machine.execJournalFlit h fn m s
  | .stateFlit h fn m => Sys2Proof.Machine.execStateFlit h fn m s
  | .doorbellFlit h fn entry v x => Sys2Proof.Machine.execDoorbellFlit h fn entry v x s
  | .orderFlit h m rival => Sys2Proof.Machine.execOrderFlit h m rival s
  | .flitReplayTimer => Sys2Proof.Machine.execFlitReplayTimer s
  | .mirrorLinkTrained lanes => Sys2Proof.Machine.execMirrorLinkTrained lanes s
  | .ackTimeout job => Sys2Proof.Machine.execAckTimeout job s
  | .heartbeatTimeout => Sys2Proof.Machine.execHeartbeatTimeout s
  | .takeoverRankWaitEnd => Sys2Proof.Machine.execTakeoverRankWaitEnd s
  | .pairTakeSeen => Sys2Proof.Machine.execPairTakeSeen s
  | .takeoverGuardEnd => Sys2Proof.Machine.execTakeoverGuardEnd s
  | .mirCfgEnableWrite o => Sys2Proof.Machine.execMirCfgEnableWrite o s
  | .mirCfgHandback o => Sys2Proof.Machine.execMirCfgHandback o s
  | .mirCtrlRelease o => Sys2Proof.Machine.execMirCtrlRelease o s
  | .mirCtrlResync o => Sys2Proof.Machine.execMirCtrlResync o s
  | .mirCtrlClear o => Sys2Proof.Machine.execMirCtrlClear o s
  | .mirFnMirroredWrite fn o => Sys2Proof.Machine.execMirFnMirroredWrite fn o s
  | .fltCtrlClear o => Sys2Proof.Machine.execFltCtrlClear o s
  | .sourceLoss src die pll => Sys2Proof.Machine.execSourceLoss src die pll s
  | .sourceReady src => Sys2Proof.Machine.execSourceReady src s
  | .clockOneShotExpiry => Sys2Proof.Machine.execClockOneShotExpiry s
  | .pllRelockDone p => Sys2Proof.Machine.execPllRelockDone p s
  | .clkPllWrite p o => Sys2Proof.Machine.execClkPllWrite p o s
  | .clkCtrlMgmtSrcWrite o => Sys2Proof.Machine.execClkCtrlMgmtSrcWrite o s
  | .clkCtrlRootWrite o => Sys2Proof.Machine.execClkCtrlRootWrite o s
  | .clkCtrlHandback o => Sys2Proof.Machine.execClkCtrlHandback o s
  | .clkGateWrite kind die o => Sys2Proof.Machine.execClkGateWrite kind die o s
  | .gateOffEffect kind die => Sys2Proof.Machine.execGateOffEffect kind die s
  | .clkDtctrlSet o => Sys2Proof.Machine.execClkDtctrlSet o s
  | .clkDtctrlSetPps o => Sys2Proof.Machine.execClkDtctrlSetPps o s
  | .timePpsEdge => Sys2Proof.Machine.execTimePpsEdge s
  | .ppsLossTimeout => Sys2Proof.Machine.execPpsLossTimeout s
  | .powerMeasure meas => Sys2Proof.Machine.execPowerMeasure meas s
  | .thermalCheck die t => Sys2Proof.Machine.execThermalCheck die t s
  | .thermalRestoreStep die t => Sys2Proof.Machine.execThermalRestoreStep die t s
  | .thermalComparatorTrip die t => Sys2Proof.Machine.execThermalComparatorTrip die t s
  | .pwrShedAssert => Sys2Proof.Machine.execPwrShedAssert s
  | .pwrShedRelease => Sys2Proof.Machine.execPwrShedRelease s
  | .shedDutyStep => Sys2Proof.Machine.execShedDutyStep s
  | .shedRestoreStep => Sys2Proof.Machine.execShedRestoreStep s
  | .shedWindowEnd mean => Sys2Proof.Machine.execShedWindowEnd mean s
  | .shedAdviseExpiry => Sys2Proof.Machine.execShedAdviseExpiry s
  | .pwrCtrlHandback o => Sys2Proof.Machine.execPwrCtrlHandback o s
  | .powerGood => Sys2Proof.Machine.execPowerGood s
  | .startUpStepDone step x => Sys2Proof.Machine.execStartUpStepDone step x s
  | .startTimeout => Sys2Proof.Machine.execStartTimeout s
  | .startRetry id => Sys2Proof.Machine.execStartRetry id s
  | .perstNAssert => Sys2Proof.Machine.execPerstNAssert s
  | .perstNRelease => Sys2Proof.Machine.execPerstNRelease s
  | .powerFailTrip charged => Sys2Proof.Machine.execPowerFailTrip charged s
  | .saveRestart => Sys2Proof.Machine.execSaveRestart s
  | .railDip => Sys2Proof.Machine.execRailDip s
  | .railRecovered => Sys2Proof.Machine.execRailRecovered s
  | .pktDataAccess a => Sys2Proof.Machine.execPktDataAccess a s
  | .pktUnlockWrite wide o => Sys2Proof.Machine.execPktUnlockWrite wide o s
  | .pktUnlockselRelock o => Sys2Proof.Machine.execPktUnlockselRelock o s
  | .pocketRead id => Sys2Proof.Machine.execPocketRead id s
  | .pocketWrite id data => Sys2Proof.Machine.execPocketWrite id data s
  | .pocketErase id => Sys2Proof.Machine.execPocketErase id s
  | .pocketProtect id => Sys2Proof.Machine.execPocketProtect id s
  | .chnCfgPecWrite o => Sys2Proof.Machine.execChnCfgPecWrite o s
  | .vddAonGood => Sys2Proof.Machine.execVddAonGood s
  | .bypassSwitchOpen => Sys2Proof.Machine.execBypassSwitchOpen s
  | .chainHeartbeatToggle => Sys2Proof.Machine.execChainHeartbeatToggle s
  | .chainSupervisorTimeout => Sys2Proof.Machine.execChainSupervisorTimeout s
  | .identify x => Sys2Proof.Machine.execIdentify x s
  | .assign x v => Sys2Proof.Machine.execAssign x v s
  | .clearAddr x => Sys2Proof.Machine.execClearAddr x s
  | .chainStatus x => Sys2Proof.Machine.execChainStatus x s
  | .regRead x off => Sys2Proof.Machine.execRegRead x off s
  | .regWrite x off v y => Sys2Proof.Machine.execRegWrite x off v y s
  | .chainPocketRead x die page off count => Sys2Proof.Machine.execChainPocketRead x die page off count s
  | .chainPocketWrite x die page off count data rival => Sys2Proof.Machine.execChainPocketWrite x die page off count data rival s
  | .bypass x => Sys2Proof.Machine.execBypass x s
  | .lastStatus x => Sys2Proof.Machine.execLastStatus x s
  | .pairTakeReleased => Sys2Proof.Machine.execPairTakeReleased s
  | .dieLinkRetrained link => Sys2Proof.Machine.execDieLinkRetrained link s
  | .ppsErrorAbsorbed => Sys2Proof.Machine.execPpsErrorAbsorbed s

end Sys2Proof.Machine
end

