-- ==== Sys2Proof/Machine/Idle.lean ====
section
/-!
DEFINITION. Machine/Idle.lean: what passes when no command waits (log entry 35): one step of device time, the power-on hours
that it completes, a START_RETRY whose millisecond has passed, and maintenance operations whose units have become free.
-/

namespace Sys2Proof.Machine

/-- An hour of device time, in 1/8 ns. -/
def hourSteps : Nat := 28800000000000

/-- The power-on hours of the Pocket (17_pocket_and_management_chain.md, "Where the life statistics live") count the hours that device time completes (log entry 36). -/
def State.countHours (s : State) (before : Nat) : State :=
  s.when (decide (before / hourSteps < s.dt / hourSteps)) (fun s => s.bump .PKT_LIFE_POH_HOURS)

/-- One idle step. -/
def State.idle (s : State) : State := ((s.tick.countHours s.dt).retryDue).maintPump

end Sys2Proof.Machine
end

