-- ==== Sys2Proof/Safety.lean ====
section
/-!
DEFINITION. Safety.lean: the terms that the statements use: what a command answers, what counts as a sound state, and what
two states have in common.
-/

namespace Sys2Proof.Machine

/-- Command `c`, carried out on `s`, answers a next state, and `P` holds of that state. -/
def Does (c : Instr) (s : State) (P : State → Prop) : Prop := ∃ t, exec c s = .next t ∧ P t

/-- An order with no order of another master in the same cycle (R430). -/
abbrev Alone (o : Order) : Prop := o.rivals = []

/-- Every listed register field is an element of some field, below its width. -/
def fieldsOk (m : SMap Nat) : Prop := ∀ e ∈ m, ∃ f d i j, e.1 = fieldKey f d i j ∧ e.2 < 2 ^ f.width

/-- A sound state: memory and the Pocket in their canonical form, and every register field within its width. -/
structure Inv (s : State) : Prop where
  mem : SMap.wf 0 s.mem = true
  pocket : SMap.wf 0 s.pocket = true
  fields : fieldsOk s.fld

/-- A step that the model stops: a fault, or a refusal. -/
def Stops (r : Host.Outcome State Fault Refusal) : Prop := ∀ t, r ≠ .next t

/-- A piece of the state: a register field (all its elements), a hidden scalar, memory, the part's own memory (banks and
LPDDR5X, without the functions' host memory), or one of the state's other components. -/
inductive Piece where
  | fld (f : Field)
  | aux (x : Aux)
  | mem
  | devMem
  | hold
  | latch
  | poison
  | dt
  | free
  | outbox
  | jobs
  | progs
  | cmds
  | qps
  | allocs
  | rings
  | reqs
  | ops
  | dmas
  | placed
  | panels
  | images
  | loads
  | maps
  | tiles
  | tabs
  | recs
  | progq
  | calq
  | cals
  | checks
  | tix
  | repls
  | refreshes
  | mons
  | urg
  | tlms
  | plays
  | waves
  | pocket
  | safeJobs
  | flits
  | journal
  | commits
  | regions
  deriving DecidableEq

/-- A piece is the same in two states: registers, scalars and bytes read alike, other components are equal. -/
def Same : Piece → State → State → Prop
  | .fld f, s, t => ∀ d i j, t.rd f d i j = s.rd f d i j
  | .aux x, s, t => ∀ d i j, t.ax x d i j = s.ax x d i j
  | .mem, s, t => ∀ k, t.byte k = s.byte k
  | .devMem, s, t => ∀ k, k < 2 ^ 64 → t.byte k = s.byte k
  | .hold, s, t => t.hold = s.hold
  | .latch, s, t => t.latch = s.latch
  | .poison, s, t => t.poison = s.poison
  | .dt, s, t => t.dt = s.dt
  | .free, s, t => t.free = s.free
  | .outbox, s, t => t.outbox = s.outbox
  | .jobs, s, t => t.jobs = s.jobs
  | .progs, s, t => t.progs = s.progs
  | .cmds, s, t => t.cmds = s.cmds
  | .qps, s, t => t.qps = s.qps
  | .allocs, s, t => t.allocs = s.allocs
  | .rings, s, t => t.rings = s.rings
  | .reqs, s, t => t.reqs = s.reqs
  | .ops, s, t => t.ops = s.ops
  | .dmas, s, t => t.dmas = s.dmas
  | .placed, s, t => t.placed = s.placed
  | .panels, s, t => t.panels = s.panels
  | .images, s, t => t.images = s.images
  | .loads, s, t => t.loads = s.loads
  | .maps, s, t => t.maps = s.maps
  | .tiles, s, t => t.tiles = s.tiles
  | .tabs, s, t => t.tabs = s.tabs
  | .recs, s, t => t.recs = s.recs
  | .progq, s, t => t.progq = s.progq
  | .calq, s, t => t.calq = s.calq
  | .cals, s, t => t.cals = s.cals
  | .checks, s, t => t.checks = s.checks
  | .tix, s, t => t.tix = s.tix
  | .repls, s, t => t.repls = s.repls
  | .refreshes, s, t => t.refreshes = s.refreshes
  | .mons, s, t => t.mons = s.mons
  | .urg, s, t => t.urg = s.urg
  | .tlms, s, t => t.tlms = s.tlms
  | .plays, s, t => t.plays = s.plays
  | .waves, s, t => t.waves = s.waves
  | .pocket, s, t => t.pocket = s.pocket
  | .safeJobs, s, t => t.safeJobs = s.safeJobs
  | .flits, s, t => t.flits = s.flits
  | .journal, s, t => t.journal = s.journal
  | .commits, s, t => t.commits = s.commits
  | .regions, s, t => t.regions = s.regions

/-- Every piece of the state outside `l` is the same. -/
def OnlyChanges (l : List Piece) (s t : State) : Prop := ∀ g, g ∉ l → Same g s t

/-- What event records change (R413 to R416): the rings and their counts, pending messages, messages sent, and host memory. -/
def eventPieces : List Piece :=
  [.fld .EVR_TAIL_COUNT, .fld .EVR_OVF_COUNT, .fld .MSIX_PBA_PEND, .rings, .outbox, .mem]

/-- Every element of a field but element (d, i, j) reads alike. -/
def SameElementsBut (f : Field) (d i j : Nat) (s t : State) : Prop :=
  ∀ d' i' j', ¬(d' = d ∧ i' = i ∧ j' = j) → t.rd f d' i' j' = s.rd f d' i' j'

/-- A counter field's value after it has counted `n` more: it stops at its greatest value. -/
def State.countUp (s : State) (f : Field) (n : Nat := 1) (d : Nat := 0) (i : Nat := 0) (j : Nat := 0) : Nat :=
  satAdd f.width (s.rd f d i j) n % 2 ^ f.width

/-- Memory key of the completion entry that a queue pair writes next (R393, R400). -/
def State.cqKey (s : State) (p : QpSt) : Nat :=
  hostKey p.fn (s.rd .QP_CQBASE_BASE p.fn p.entry * 4096 + 16 * (p.completed % 2 ^ s.rd .QP_CFG_CQLOG2 p.fn p.entry))

/-- The task that a reference names. -/
def State.taskOf (s : State) (r : TaskRef) : Option Task := (s.job r.job).bind (fun j => j.task r.task)

/-- A task after its instruction has retired at the present time (R193). -/
def Ctx.retired (c : Ctx) (s : State) (t : Task) : Task := { t with pc := c.next, progress := s.now }

/-- A task after its instruction has moved the PC to a word index (R193). -/
def Ctx.jumped (c : Ctx) (s : State) (pc : Nat) (t : Task) : Task := { c.retired s t with pc := pc % 2 ^ 17 }

/-- A task that has taken its next ticket, in register `d`; `fabric` says that SWAIT may wait for it (R212, R213). -/
def Ctx.ticketed (c : Ctx) (fabric : Bool) (d : Nat) : Task :=
  { c.task.setG d (c.task.last + 1) with
    last := c.task.last + 1, opened := c.task.opened ++ [c.task.last + 1],
    fabric := if fabric then c.task.fabric ++ [c.task.last + 1] else c.task.fabric }

/-- The instruction of `c` has started an operation on a unit (R199, R212, R272): copies of its descriptors stand with it in
the order of issue, and its task has the ticket and goes on. -/
def Launched (unit : OpUnit) (r : TaskRef) (c : Ctx) (s t : State) : Prop :=
  t.taskOf r = some (c.retired s (c.ticketed false (iGb c.w))) ∧
  ∃ o, t.ops = s.ops ++ [o] ∧ o.job = c.job.id ∧ o.task = c.task.num ∧ o.ticket = c.task.last + 1 ∧ o.unit = unit ∧
    o.die = c.task.die ∧ o.issue = s.ax .opCount ∧ o.word = c.w ∧ o.ta = (c.task.tr (iTa c.w)).val ∧
    o.tb = (c.task.tr (iTb c.w)).val ∧ o.td = (c.task.tr (iTd c.w)).val ∧ o.ga = c.task.gr (iGa c.w)

/-- Command `c`, fetched in `s`, has completed in `t` with a status and a result (R396, R400, R401): it has left the list of
fetched commands, and the pair that it came from counts one completion more and one outstanding command fewer. Where the
function is neither STANDBY nor FENCED and the command asked for no CMD_COMPLETE, the 16 bytes of R400 stand in the entry
whose turn it was, with the phase of that turn. -/
def Completed (c : Cmd) (st res : Nat) (s t : State) : Prop :=
  (∀ k ∈ t.cmds, k.id ≠ c.id) ∧
  ∀ p, s.qp c.q = some p → s.rd .MIR_FN_ROLE 0 p.fn < 2 → c.event = false →
    t.qp c.q = some { p with completed := p.completed + 1, outstanding := p.outstanding - 1 } ∧
    t.load (s.cqKey p) 16 = completionBytes c.cid st c.flags res c.lateness (s.rd .QP_STAT_SQHEAD p.fn p.entry) 0
      (if p.completed / 2 ^ s.rd .QP_CFG_CQLOG2 p.fn p.entry % 2 = 0 then 1 else 0) 0 % 2 ^ 128

/-- Pieces: what the monitor's sequence may change when it goes on. -/
def seqPieces : List Piece :=
  [.fld .MCV_PREEMPT_PROTECTED, .fld .MCV_RES_STALE, .fld .MCV_STAT_ENTRY, .fld .MCV_STAT_SCAL_A,
  .fld .MCV_STAT_SCAL_B, .mons, .urg]

/-- Pieces: what a move of banks may change. -/
def bankPieces : List Piece :=
  [.aux .bankTarget, .aux .bankZeroEnd, .fld .BNK_HANDOVERS_COUNT, .fld .BNK_OWNER_CUR_ID, .fld .BNK_OWNER_CUR_KIND,
  .fld .BNK_OWNER_PEND, .fld .BNK_OWNER_ZEROING]

/-- Pieces: what an order may change through R431 and R432: FLT_SUPCNT, FLT_LASTSUP and the event. -/
def orderPieces : List Piece :=
  eventPieces ++ [.fld .FLT_LASTSUP_LOSE_FUNC, .fld .FLT_LASTSUP_LOSE_KIND, .fld .FLT_LASTSUP_WIN_FUNC,
  .fld .FLT_LASTSUP_WIN_KIND, .fld .FLT_SUPCNT_COUNT]

/-- Pieces: what the completion of a command may change. -/
def completionPieces : List Piece :=
  eventPieces ++ [.aux .flitSeq, .cmds, .devMem, .flits, .qps]

/-- Pieces: what a failing start may change. -/
def startFailPieces : List Piece :=
  [.aux .coldPower, .aux .nvLast, .aux .retryAt, .aux .startAt, .aux .startMask, .fld .CLK_GATE_BLK,
  .fld .CLK_GATE_DIE, .fld .CLK_SG_GROUP, .fld .START_REPORT_LAST, .fld .START_REPORT_REASON,
  .fld .START_REPORT_STATE, .fld .START_REPORT_STEP]

/-- Pieces: what the end of a job may change: its completion, its banks, its queue and event records, and the jobs that its end lets start. -/
def jobEndPieces : List Piece :=
  bankPieces ++ eventPieces ++ [.aux .flitSeq, .devMem, .fld .FNQ_OVER_KIND, .fld .SEQ_TASK_STATE, .flits, .jobs,
  .ops, .qps, .reqs, .tix]

/-- Pieces: what entering the safe state may change. -/
def safeStatePieces : List Piece :=
  eventPieces ++ [.fld .CLK_STAT_SAFE, .fld .DRV_STAT_PLAYING, .fld .GLB_CAPACITY_MAPPABLE_TILES,
  .fld .GLB_CAPACITY_SLOTS_LOST, .fld .GLB_CAPACITY_SPARE_TILES, .fld .MEM_STAT_SELF_REFRESH, .fld .PRG_ENG_DECK,
  .fld .PRG_ENG_KIND, .fld .PRG_ENG_ROW, .fld .PRG_ENG_STATE, .fld .PRG_ENG_TILE, .fld .PRG_STATUS_BUSY,
  .fld .TIL_STATUS_STATE, .fld .WFM_PLAY_STAT_CLOCK_ABORT, .fld .WFM_PLAY_STAT_STATE, .fld .WFM_PLAY_STAT_STATUS,
  .fld .YOK_STATUS_FIRING, .free, .plays, .progq, .tiles]

/-- Pieces: what a trap may change (R223). -/
def trapPieces : List Piece :=
  jobEndPieces ++ [.fld .FLT_EXHAUSTED_COUNT, .fld .FLT_RESTARTS_COUNT, .fld .SEQ_TRAP_CAUSE, .fld .SEQ_TRAP_CODE,
  .fld .SEQ_TRAP_PC]

/-- Pieces: what the end of a programming request may change. -/
def programmingPieces : List Piece :=
  [.aux .pendDrive, .aux .pendRange, .aux .precWait, .aux .sigma0, .aux .switchAt, .aux .wear, .fld .DRV_CFG_FS,
  .fld .DRV_CFG_SPAN, .fld .DRV_STAT_PEND, .fld .HEM_CFG_RANGE, .fld .HEM_SAT_LIMIT, .fld .PRG_ITERS_COUNT,
  .fld .PRG_TILES_COUNT, .fld .TIL_CHECK_FAILS, .fld .TIL_CTRL_RETIRE, .fld .TIL_EXTENT_COLS_M1,
  .fld .TIL_EXTENT_ROWS_M1, .fld .TIL_MAP_LAYER, .fld .TIL_MAP_MAP, .fld .TIL_MAP_SLOT, .fld .TIL_MAP_VALID,
  .fld .TIL_PLACE_COLBLK, .fld .TIL_PLACE_ROWBLK, .fld .TIL_PROGTIME_TIME, .fld .TIL_RSTITCHES_COUNT,
  .fld .TIL_STATUS_STATE, .fld .TIL_STITCHES_COUNT, .maps, .placed, .tabs, .tiles]

/-- Pieces: what giving work to the programming engines of a die may change. -/
def enginePieces : List Piece :=
  eventPieces ++ [.aux .imageUse, .aux .pendHold, .aux .roundTile, .aux .startAcc, .aux .startCal, .aux .startRej,
  .aux .switchAt, .fld .CAL_STATUS_START_DONE, .fld .GLB_CAPACITY_MAPPABLE_TILES, .fld .GLB_CAPACITY_SLOTS_LOST,
  .fld .GLB_CAPACITY_SPARE_TILES, .fld .PRG_ENG_DECK, .fld .PRG_ENG_KIND, .fld .PRG_ENG_ROW, .fld .PRG_ENG_STATE,
  .fld .PRG_ENG_TILE, .fld .PRG_STATUS_BUSY, .fld .PRG_STATUS_QUEUED, .fld .TIL_MAP_VALID,
  .fld .TIL_STATUS_HOLD_CAUSE, .fld .TIL_STATUS_STATE, .fld .WFM_PLAY_STAT_CLOCK_ABORT, .fld .WFM_PLAY_STAT_STATE,
  .images, .maps, .placed, .progq]

/-- Pieces: what the receipt of a flit on the mirror link may change. -/
def linkPieces : List Piece :=
  jobEndPieces ++ [.aux .stateWhole, .aux .syncSeq, .aux .taken, .fld .MIR_CRCERR_COUNT, .fld .MIR_CTRL_RESYNC,
  .fld .MIR_EPOCH_EPOCH, .fld .MIR_FN_MISMATCH, .fld .MIR_FN_READY, .fld .MIR_STAT_PAIR, .fld .MIR_STAT_TAKE_DRIVE,
  .poison]

/-- Pieces: what starting calibrations of a die may change. -/
def calibrationPieces : List Piece :=
  enginePieces ++ [.aux .aimDue, .aux .pendJoin, .aux .pendTaps, .aux .progCount, .aux .tapsNew, .calq, .cals,
  .fld .HEM_TAPS_PEND, .fld .HEM_TAPS_WSTART, .fld .HEM_TAPS_WSTOP, .fld .SEQ_TASK_STATE, .jobs, .ops, .refreshes,
  .tabs, .tiles]

/-- Pieces: what retiring a tile may change. -/
def retirePieces : List Piece :=
  eventPieces ++ [.aux .aimDue, .aux .pendDrive, .aux .pendHold, .aux .pendJoin, .aux .pendRange, .aux .pendSlew,
  .aux .pendTaps, .aux .precWait, .aux .recGen, .aux .recSlot, .aux .retiring, .aux .roundTile, .aux .startAcc,
  .aux .startCal, .aux .startRej, .aux .switchAt, .calq, .cals, .checks, .fld .CAL_STATUS_BUSY,
  .fld .CAL_STATUS_START_DONE, .fld .DRV_CFG_FS, .fld .DRV_CFG_SPAN, .fld .DRV_SLEW_RATE, .fld .DRV_SLEW_STEP,
  .fld .DRV_STAT_PEND, .fld .GLB_CAPACITY_MAPPABLE_TILES, .fld .GLB_CAPACITY_SLOTS_LOST,
  .fld .GLB_CAPACITY_SPARE_TILES, .fld .HEM_CFG_RANGE, .fld .HEM_TAPS_PEND, .fld .HEM_TAPS_STALE,
  .fld .HEM_TAPS_WSTART, .fld .HEM_TAPS_WSTOP, .fld .PRG_ENG_DECK, .fld .PRG_ENG_KIND, .fld .PRG_ENG_ROW,
  .fld .PRG_ENG_STATE, .fld .PRG_ENG_TILE, .fld .PRG_STATUS_BUSY, .fld .SEQ_TASK_STATE, .fld .TIL_CTRL_PRECISION,
  .fld .TIL_CTRL_RETIRE, .fld .TIL_STATUS_HOLD_CAUSE, .fld .TIL_STATUS_REPLACES, .fld .TIL_STATUS_STATE,
  .fld .WFM_PLAY_STAT_CLOCK_ABORT, .fld .WFM_PLAY_STAT_STATE, .jobs, .maps, .ops, .progq, .refreshes, .repls, .tabs,
  .tiles]

/-- Pieces: what the loss of a die may change. -/
def dieLossPieces : List Piece :=
  enginePieces ++ jobEndPieces ++ [.allocs, .aux .markerAt, .aux .missed, .aux .moveAt, .aux .progCount,
  .aux .realign, .aux .slotLost, .calq, .cals, .checks, .cmds, .dmas, .fld .CAL_STATUS_BUSY, .fld .FLT_DIE_CAUSE,
  .fld .FLT_DIE_ONLINE, .fld .FLT_EXHAUSTED_COUNT, .fld .FLT_RESTARTS_COUNT, .fld .GLB_CAPACITY_DIE_ONLINE,
  .fld .GLB_CAPACITY_HEAD, .fld .YOK_SKEW_LOSTS, .fld .YOK_SKEW_SKEW, .fld .YOK_STATUS_FIRING,
  .fld .YOK_STATUS_FOLLOWER_OFF, .fld .YOK_STATUS_HEAD, .fld .YOK_STATUS_MOVING, .loads, .panels, .progs, .refreshes,
  .repls, .tiles]

/-- Pieces: what a seam may change. -/
def seamPieces : List Piece :=
  enginePieces ++ completionPieces ++ [.aux .activeMap, .aux .aimDue, .aux .pendDrive, .aux .pendJoin,
  .aux .pendRange, .aux .pendSlew, .aux .pendTaps, .aux .powerOld, .aux .precBy, .aux .precWait, .aux .progCount,
  .aux .recGen, .aux .recSlot, .aux .seamAt, .aux .seamDue, .aux .slotLost, .aux .switchTarget, .aux .switches,
  .calq, .cals, .fld .CAL_STATUS_BUSY, .fld .DRV_CFG_FS, .fld .DRV_CFG_SPAN, .fld .DRV_SLEW_RATE,
  .fld .DRV_SLEW_STEP, .fld .DRV_STAT_PEND, .fld .HEM_CFG_RANGE, .fld .HEM_CONVSUB_SP72, .fld .HEM_CONVSUB_SP73,
  .fld .HEM_CONVSUB_SP74, .fld .HEM_CONVSUB_SP75, .fld .HEM_TAPS_PEND, .fld .HEM_TAPS_STALE, .fld .HEM_TAPS_WSTART,
  .fld .HEM_TAPS_WSTOP, .fld .MIR_FN_MISMATCH, .fld .MIR_FN_READY, .fld .SEQ_TASK_STATE, .fld .TIL_CTRL_PRECISION,
  .fld .TIL_EXTENT_COLS_M1, .fld .TIL_EXTENT_ROWS_M1, .fld .TIL_LASTGOOD_TIME, .fld .TIL_MAP_LAYER,
  .fld .TIL_MAP_MAP, .fld .TIL_MAP_SLOT, .fld .TIL_PLACE_COLBLK, .fld .TIL_PLACE_ROWBLK,
  .fld .TIL_SPARES_SPARE_CONV_FREE, .fld .TIL_STATUS_CAL_REJ_RUN, .fld .TIL_STATUS_REPLACES,
  .fld .TIL_STATUS_SUSPECT, .jobs, .ops, .panels, .poison, .refreshes, .repls, .tabs, .tiles]

/-- Pieces: what registerWrite may change beside the groups above, part 1. -/
def registerWritePieces1 : List Piece :=
  [.allocs, .aux .aimDue, .aux .calCount, .aux .calExpert, .aux .gatePend, .aux .hbHeard, .aux .hbTimer,
  .aux .hemExpert, .aux .lastPps, .aux .lossPending, .aux .moveAt, .aux .mseHeld, .aux .nvMem, .aux .pendDrive,
  .aux .pendJoin, .aux .pendRange, .aux .pendSlew, .aux .pendTaps, .aux .pfRingSeen, .aux .pktOpen, .aux .pktWrong,
  .aux .powerOld, .aux .precWait, .aux .progCount, .aux .recGen, .aux .recRole, .aux .recSlot, .aux .relock,
  .aux .retiring, .aux .retrainEnd, .aux .rtOld, .aux .shadowCause, .aux .stateWhole, .aux .strobeAt, .aux .syncAt,
  .aux .syncEpoch, .aux .syncSeq, .aux .taken, .aux .tapsNew, .aux .tilesLost, .aux .tlmIdleStop, .aux .traceRun,
  .aux .traceWait, .aux .untold, .aux .wfmExpert, .calq, .cals, .checks, .cmds, .commits, .dt,
  .fld .BNK_COLLIDE_COUNT, .fld .BNK_DENIED_COUNT, .fld .BNK_DIAGCHK_CHECK, .fld .BNK_DIAGDATA_DATA,
  .fld .BNK_DIAG_BUSY, .fld .BNK_ECC_CORR_COUNT, .fld .BNK_ECC_UNCORR_COUNT, .fld .BNK_STAT_EXPERT,
  .fld .CAL_CTRL_TRACE]

/-- Pieces: what registerWrite may change beside the groups above, part 2. -/
def registerWritePieces2 : List Piece :=
  [.fld .CAL_FULLS_COUNT, .fld .CAL_REJECTS_COUNT, .fld .CAL_STATUS_BUSY, .fld .CAL_STATUS_EXPERT,
  .fld .CLK_DTCTRL_SET_PPS, .fld .CLK_GATE_STATUS_PEND, .fld .CLK_LOCK_LOCK, .fld .CLK_STAT_EXPERT,
  .fld .CLK_STAT_MGMT_ON_RC, .fld .DGA_ADDFULL_COUNT, .fld .DGA_CYCLES_COUNT, .fld .DGA_DUTY_DUTY,
  .fld .DGA_GUS_BYTES_COUNT, .fld .DGA_GUS_LATE_COUNT, .fld .DGA_GUS_STALL_COUNT, .fld .DGA_MACS_COUNT,
  .fld .DGA_NAN_COUNT, .fld .DGA_OPWAIT_COUNT, .fld .DGA_SAT_COUNT, .fld .DGA_STATUS_EXPERT, .fld .DRV_CLAMP_COUNT,
  .fld .DRV_STAT_EXPERT, .fld .DRV_STAT_PEND, .fld .DRV_STAT_PLAYING, .fld .FLT_EXHAUSTED_COUNT,
  .fld .FLT_RESTARTS_COUNT, .fld .FLT_TOCNT_COUNT, .fld .HEM_CONVSUB_SP72, .fld .HEM_CONVSUB_SP73,
  .fld .HEM_CONVSUB_SP74, .fld .HEM_CONVSUB_SP75, .fld .HEM_CSAT_COUNT, .fld .HEM_MSEQ_CNT_COUNT,
  .fld .HEM_MSEQ_SUM_SUM, .fld .HEM_MSEREF_CNT_COUNT, .fld .HEM_MSEREF_SUM_SUM, .fld .HEM_OSAT_COUNT,
  .fld .HEM_REFCHK_REF_FAILS, .fld .HEM_RERUN_COUNT, .fld .HEM_RSAT_COUNT, .fld .HEM_TAPS_PEND, .fld .HEM_TAPS_STALE,
  .fld .MCV_CTRL_SCAL, .fld .MCV_PLAUS_FAULTS, .fld .MCV_PREEMPT_ABORTS, .fld .MCV_SIMRES_OVERRUNS,
  .fld .MCV_STAT_EXPERT, .fld .MEM_CH_STATE, .fld .MEM_CORR_COUNT, .fld .MEM_CTRL_RETRAIN, .fld .MEM_LECC_COUNT,
  .fld .MEM_RETRAIN_COUNT, .fld .MEM_STAT_EXPERT, .fld .MEM_UNCORR_COUNT, .fld .MIR_CRCERR_COUNT,
  .fld .MIR_CTRL_RESYNC, .fld .MIR_EPOCH_EPOCH, .fld .MIR_FN_MISMATCH, .fld .MIR_FN_READY, .fld .MIR_FN_ROLE]

/-- Pieces: what registerWrite may change beside the groups above, part 3. -/
def registerWritePieces3 : List Piece :=
  [.fld .MIR_HBMISS_COUNT, .fld .MIR_REPLAY_COUNT, .fld .MIR_STAT_EXPERT, .fld .MIR_STAT_LINK, .fld .MIR_STAT_PAIR,
  .fld .MIR_STAT_TAKE_DRIVE, .fld .MIR_STAT_WIDTH, .fld .MIR_TAKES_COUNT, .fld .PKT_STAT_DENIED,
  .fld .PRG_COLFAIL_COUNT, .fld .PRG_ITERS_COUNT, .fld .PRG_LATECNT_COUNT, .fld .PRG_MAXLATE_LATENESS,
  .fld .PRG_STATUS_EXPERT, .fld .PRG_TILES_COUNT, .fld .PWR_STAT_EXPERT, .fld .QP_CFG_FUNC, .fld .QP_CFG_WINDOW,
  .fld .QP_STAT_CODE, .fld .QP_STAT_ERROR, .fld .QP_STAT_SQHEAD, .fld .QP_STAT_STATE, .fld .SEQ_STAT_EXPERT,
  .fld .TIL_CTRL_RETIRE, .fld .TIL_EXTENT_COLS_M1, .fld .TIL_EXTENT_ROWS_M1, .fld .TIL_MAP_LAYER, .fld .TIL_MAP_MAP,
  .fld .TIL_MAP_SLOT, .fld .TIL_PLACE_COLBLK, .fld .TIL_PLACE_ROWBLK, .fld .TIL_SPARECOL_BLK0,
  .fld .TIL_SPARECOL_BLK1, .fld .TIL_SPARECOL_BLK2, .fld .TIL_SPARECOL_BLK3, .fld .TIL_SPARES_SPARE_COLS_FREE,
  .fld .TIL_STATUS_EXPERT, .fld .TIL_STATUS_REPLACES, .fld .TIL_STATUS_REV_LOST, .fld .TLM_CNT_ORDER_CNT,
  .fld .TLM_CNT_RESTART_CNT, .fld .TLM_DROP_COUNT, .fld .TLM_LATE_TIME, .fld .TLM_STAT_FLAGS, .fld .TLM_STAT_STATE,
  .fld .TLM_STAT_STATUS, .fld .WFM_PLAY_CNT_ORDER_CNT, .fld .WFM_PLAY_CNT_RESTART_CNT, .fld .WFM_PLAY_LATE_LATENESS,
  .fld .WFM_PLAY_STAT_FLAGS, .fld .WFM_PLAY_STAT_POINT, .fld .WFM_PLAY_STAT_STATUS, .fld .WFM_STAT_CLAMP_CNT,
  .fld .YOK_DEFERRED_COUNT, .fld .YOK_EXTENDS_COUNT, .fld .YOK_MISS_COUNT, .fld .YOK_OVERBUDGET_COUNT,
  .fld .YOK_SPLITS_COUNT, .fld .YOK_STATUS_EXPERT, .fld .YOK_STATUS_FIRING]

/-- Pieces: what registerWrite may change beside the groups above, part 4. -/
def registerWritePieces4 : List Piece :=
  [.fld .YOK_THROTTLED_COUNT, .free, .hold, .journal, .panels, .plays, .pocket, .progs, .recs, .refreshes, .regions,
  .repls, .tabs, .tiles, .tlms, .waves]

/-- Pieces: what registerWrite may change beside the groups above. -/
def registerWritePieces : List Piece := registerWritePieces1 ++ registerWritePieces2 ++ registerWritePieces3 ++ registerWritePieces4

/-- Pieces: what conversionsEnd may change beside the groups above. -/
def conversionsEndPieces : List Piece :=
  [.aux .calCount, .aux .mseHeld, .aux .opCount, .aux .progCount, .aux .tilesLost, .cmds, .fld .FLT_EXHAUSTED_COUNT,
  .fld .FLT_RESTARTS_COUNT, .fld .HEM_CONVSUB_SP72, .fld .HEM_CONVSUB_SP73, .fld .HEM_CONVSUB_SP74,
  .fld .HEM_CONVSUB_SP75, .fld .HEM_CSAT_COUNT, .fld .HEM_MSEQ_CNT_COUNT, .fld .HEM_MSEQ_SUM_SUM,
  .fld .HEM_MSEREF_CNT_COUNT, .fld .HEM_MSEREF_SUM_SUM, .fld .HEM_OSAT_COUNT, .fld .HEM_REFCHK_REF_FAILS,
  .fld .HEM_RSAT_COUNT, .fld .TIL_CHECK_FAILS, .fld .TIL_EXTENT_COLS_M1, .fld .TIL_EXTENT_ROWS_M1,
  .fld .TIL_LASTGOOD_TIME, .fld .TIL_MAP_LAYER, .fld .TIL_MAP_MAP, .fld .TIL_MAP_SLOT, .fld .TIL_PLACE_COLBLK,
  .fld .TIL_PLACE_ROWBLK, .fld .TIL_RSTITCHES_COUNT, .fld .TIL_SPARECOL_BLK0, .fld .TIL_SPARECOL_BLK1,
  .fld .TIL_SPARECOL_BLK2, .fld .TIL_SPARECOL_BLK3, .fld .TIL_SPARES_SPARE_COLS_FREE, .fld .TIL_STATUS_REV_LOST,
  .fld .YOK_MISS_COUNT, .free, .panels, .poison]

/-- Pieces: what slotFree may change beside the groups above. -/
def slotFreePieces : List Piece :=
  [.aux .activeMap, .aux .aimDue, .aux .pendDrive, .aux .pendJoin, .aux .pendRange, .aux .pendSlew, .aux .pendTaps,
  .aux .precWait, .aux .progCount, .aux .seamAt, .aux .slotLost, .aux .switchTarget, .calq, .cals,
  .fld .CAL_STATUS_BUSY, .fld .DRV_CFG_FS, .fld .DRV_CFG_SPAN, .fld .DRV_SLEW_RATE, .fld .DRV_SLEW_STEP,
  .fld .DRV_STAT_PEND, .fld .FNQ_GRANT_SLOT, .fld .HEM_CFG_RANGE, .fld .HEM_TAPS_PEND, .fld .HEM_TAPS_STALE,
  .fld .HEM_TAPS_WSTART, .fld .HEM_TAPS_WSTOP, .fld .SEQ_TASK_STATE, .jobs, .ops, .panels, .refreshes, .repls, .tabs,
  .tiles]

/-- Pieces: what slotFreeDrainEnd may change beside the groups above. -/
def slotFreeDrainEndPieces : List Piece :=
  [.aux .activeMap, .aux .aimDue, .aux .pendDrive, .aux .pendJoin, .aux .pendRange, .aux .pendSlew, .aux .pendTaps,
  .aux .precWait, .aux .progCount, .aux .seamAt, .aux .slotLost, .aux .switchTarget, .calq, .cals,
  .fld .CAL_STATUS_BUSY, .fld .DRV_CFG_FS, .fld .DRV_CFG_SPAN, .fld .DRV_SLEW_RATE, .fld .DRV_SLEW_STEP,
  .fld .DRV_STAT_PEND, .fld .HEM_CFG_RANGE, .fld .HEM_TAPS_PEND, .fld .HEM_TAPS_STALE, .fld .HEM_TAPS_WSTART,
  .fld .HEM_TAPS_WSTOP, .fld .SEQ_TASK_STATE, .jobs, .ops, .panels, .refreshes, .repls, .tabs, .tiles]

/-- Pieces: what fullCalEnd may change beside the groups above. -/
def fullCalEndPieces : List Piece :=
  [.aux .calCount, .aux .switchTarget, .aux .tilesLost, .aux .ucFailed, .aux .ucNext, .cmds, .fld .CAL_FULLS_COUNT,
  .fld .CAL_REJECTS_COUNT, .fld .DRV_UCSTAT_ROWS_ALT, .fld .DRV_UCSTAT_ROWS_FAILED, .fld .FLT_EXHAUSTED_COUNT,
  .fld .FLT_RESTARTS_COUNT, .fld .HEM_CONVSUB_SP72, .fld .HEM_CONVSUB_SP73, .fld .HEM_CONVSUB_SP74,
  .fld .HEM_CONVSUB_SP75, .fld .TIL_EXTENT_COLS_M1, .fld .TIL_EXTENT_ROWS_M1, .fld .TIL_MAP_LAYER, .fld .TIL_MAP_MAP,
  .fld .TIL_MAP_SLOT, .fld .TIL_PLACE_COLBLK, .fld .TIL_PLACE_ROWBLK, .fld .TIL_SPARECOL_BLK0,
  .fld .TIL_SPARECOL_BLK1, .fld .TIL_SPARECOL_BLK2, .fld .TIL_SPARECOL_BLK3, .fld .TIL_SPARES_SPARE_COLS_FREE,
  .fld .TIL_STATUS_CAL_REJ_RUN, .fld .TIL_STATUS_REV_LOST, .fld .TIL_STATUS_SUSPECT, .panels, .recs]

/-- Pieces: what dieRestore may change beside the groups above. -/
def dieRestorePieces : List Piece :=
  [.aux .keyBad, .aux .markerAt, .aux .memInForce, .aux .missed, .aux .moveAt, .aux .realign, .aux .sigma0,
  .aux .tilesLost, .aux .traceAt, .aux .traceRej, .aux .traceRun, .aux .traceWait, .aux .ucNext, .cmds,
  .fld .CAL_CTRL_TRACE, .fld .CAL_LASTTRACE_TIME, .fld .CAL_REJECTS_COUNT, .fld .CAL_STATUS_TRACE_FAULT,
  .fld .CAL_TEMP_TJ_TRACE, .fld .CAL_TEMP_TJ_USED, .fld .FLT_DIE_ONLINE, .fld .FLT_DIE_RESTORES,
  .fld .GLB_CAPACITY_DIE_ONLINE, .fld .GLB_CAPACITY_HEAD, .fld .MEM_CAP_DATA_MIB, .fld .MEM_CAP_DEVICE_MIB,
  .fld .MEM_CH_FAILS, .fld .MEM_CH_RANKS, .fld .MEM_CH_STATE, .fld .MEM_STAT_IECC_ON, .fld .MEM_STAT_SELF_REFRESH,
  .fld .MEM_STAT_TRAINED, .fld .PWR_STAT_TSHUT, .fld .TIL_STATUS_CAL_REJ_RUN, .fld .TIL_STATUS_SUSPECT,
  .fld .YOK_SKEW_LOSTS, .fld .YOK_SKEW_SKEW, .fld .YOK_STATUS_FIRING, .fld .YOK_STATUS_FOLLOWER_OFF,
  .fld .YOK_STATUS_HEAD, .fld .YOK_STATUS_MOVING, .mons, .panels, .poison, .progs, .recs]

/-- Pieces: what startUpStepDone may change beside the groups above, part 1. -/
def startUpStepDonePieces1 : List Piece :=
  [.aux .calCount, .aux .fwFell, .aux .fwForce, .aux .keyBad, .aux .memInForce, .aux .nvFails, .aux .pllsOnce,
  .aux .readyAt, .aux .readyFails, .aux .relock, .aux .shadowCause, .aux .shadowSeq, .aux .shadowSkip,
  .aux .shedOldDuty, .aux .shedOldThrottle, .aux .shedSteps, .aux .sigma0, .aux .startLost, .aux .tapsNew,
  .aux .tilesLost, .aux .traceAt, .aux .traceRej, .aux .traceRun, .aux .traceWait, .aux .ucNext, .aux .wear,
  .fld .CAL_CTRL_TRACE, .fld .CAL_LASTTRACE_TIME, .fld .CAL_REJECTS_COUNT, .fld .CAL_STATUS_TRACE_FAULT,
  .fld .CAL_TEMP_TJ_TRACE, .fld .CAL_TEMP_TJ_USED, .fld .CHN_CFG_ADDR, .fld .CHN_CFG_VALID,
  .fld .CLK_DTCTRL_HOLDOVER, .fld .CLK_LOCK_LOCK, .fld .CLK_PLL_FBDIV, .fld .CLK_PLL_POSTDIV, .fld .CLK_PLL_REFDIV,
  .fld .CLK_STAT_MGMT_ON_RC, .fld .DGA_DUTY_DUTY, .fld .MEM_CAP_DATA_MIB, .fld .MEM_CAP_DEVICE_MIB,
  .fld .MEM_CFG_IECC, .fld .MEM_CFG_LECC, .fld .MEM_CFG_RATE, .fld .MEM_CH_FAILS, .fld .MEM_CH_RANKS,
  .fld .MEM_CH_STATE, .fld .MEM_STAT_IECC_ON, .fld .MEM_STAT_SELF_REFRESH, .fld .MEM_STAT_TRAINED,
  .fld .PKT_LIFE_CYCLES_COUNT, .fld .PKT_LIFE_ENERGY_JOULES, .fld .PKT_LIFE_POH_HOURS, .fld .PKT_LIFE_STITCHES_COUNT,
  .fld .PKT_STAT_SHADOW, .fld .START_REPORT_FAILS, .fld .START_REPORT_FW_SLOT, .fld .START_TIME_MS]

/-- Pieces: what startUpStepDone may change beside the groups above, part 2. -/
def startUpStepDonePieces2 : List Piece :=
  [.fld .TIL_STATUS_CAL_REJ_RUN, .fld .TIL_STATUS_SUSPECT, .fld .YOK_THROTTLE_TICKS, .mons, .recs]

/-- Pieces: what startUpStepDone may change beside the groups above. -/
def startUpStepDonePieces : List Piece := startUpStepDonePieces1 ++ startUpStepDonePieces2

/-- Pieces: what regWrite may change beside the groups above, part 1. -/
def regWritePieces1 : List Piece :=
  [.allocs, .aux .aimDue, .aux .calCount, .aux .calExpert, .aux .chainStatus, .aux .gatePend, .aux .hbHeard,
  .aux .hbTimer, .aux .hemExpert, .aux .lastPps, .aux .lossPending, .aux .moveAt, .aux .mseHeld, .aux .nvMem,
  .aux .pecAt, .aux .pendDrive, .aux .pendJoin, .aux .pendRange, .aux .pendSlew, .aux .pendTaps, .aux .pfRingSeen,
  .aux .pktOpen, .aux .pktWrong, .aux .powerOld, .aux .precWait, .aux .progCount, .aux .recGen, .aux .recRole,
  .aux .recSlot, .aux .relock, .aux .retiring, .aux .retrainEnd, .aux .rtOld, .aux .shadowCause, .aux .stateWhole,
  .aux .strobeAt, .aux .syncAt, .aux .syncEpoch, .aux .syncSeq, .aux .taken, .aux .tapsNew, .aux .tilesLost,
  .aux .tlmIdleStop, .aux .traceRun, .aux .traceWait, .aux .untold, .aux .wfmExpert, .calq, .cals, .checks, .cmds,
  .commits, .dt, .fld .BNK_COLLIDE_COUNT, .fld .BNK_DENIED_COUNT, .fld .BNK_DIAGCHK_CHECK, .fld .BNK_DIAGDATA_DATA,
  .fld .BNK_DIAG_BUSY, .fld .BNK_ECC_CORR_COUNT, .fld .BNK_ECC_UNCORR_COUNT]

/-- Pieces: what regWrite may change beside the groups above, part 2. -/
def regWritePieces2 : List Piece :=
  [.fld .BNK_STAT_EXPERT, .fld .CAL_CTRL_TRACE, .fld .CAL_FULLS_COUNT, .fld .CAL_REJECTS_COUNT,
  .fld .CAL_STATUS_BUSY, .fld .CAL_STATUS_EXPERT, .fld .CHN_STAT_CHAIN_IN, .fld .CHN_STAT_CHAIN_OUT,
  .fld .CHN_STAT_PEC_ERR, .fld .CLK_DTCTRL_SET_PPS, .fld .CLK_GATE_STATUS_PEND, .fld .CLK_LOCK_LOCK,
  .fld .CLK_STAT_EXPERT, .fld .CLK_STAT_MGMT_ON_RC, .fld .DGA_ADDFULL_COUNT, .fld .DGA_CYCLES_COUNT,
  .fld .DGA_DUTY_DUTY, .fld .DGA_GUS_BYTES_COUNT, .fld .DGA_GUS_LATE_COUNT, .fld .DGA_GUS_STALL_COUNT,
  .fld .DGA_MACS_COUNT, .fld .DGA_NAN_COUNT, .fld .DGA_OPWAIT_COUNT, .fld .DGA_SAT_COUNT, .fld .DGA_STATUS_EXPERT,
  .fld .DRV_CLAMP_COUNT, .fld .DRV_STAT_EXPERT, .fld .DRV_STAT_PEND, .fld .DRV_STAT_PLAYING,
  .fld .FLT_EXHAUSTED_COUNT, .fld .FLT_RESTARTS_COUNT, .fld .FLT_TOCNT_COUNT, .fld .HEM_CONVSUB_SP72,
  .fld .HEM_CONVSUB_SP73, .fld .HEM_CONVSUB_SP74, .fld .HEM_CONVSUB_SP75, .fld .HEM_CSAT_COUNT,
  .fld .HEM_MSEQ_CNT_COUNT, .fld .HEM_MSEQ_SUM_SUM, .fld .HEM_MSEREF_CNT_COUNT, .fld .HEM_MSEREF_SUM_SUM,
  .fld .HEM_OSAT_COUNT, .fld .HEM_REFCHK_REF_FAILS, .fld .HEM_RERUN_COUNT, .fld .HEM_RSAT_COUNT, .fld .HEM_TAPS_PEND,
  .fld .HEM_TAPS_STALE, .fld .MCV_CTRL_SCAL, .fld .MCV_PLAUS_FAULTS, .fld .MCV_PREEMPT_ABORTS,
  .fld .MCV_SIMRES_OVERRUNS, .fld .MCV_STAT_EXPERT, .fld .MEM_CH_STATE, .fld .MEM_CORR_COUNT, .fld .MEM_CTRL_RETRAIN,
  .fld .MEM_LECC_COUNT, .fld .MEM_RETRAIN_COUNT, .fld .MEM_STAT_EXPERT, .fld .MEM_UNCORR_COUNT,
  .fld .MIR_CRCERR_COUNT]

/-- Pieces: what regWrite may change beside the groups above, part 3. -/
def regWritePieces3 : List Piece :=
  [.fld .MIR_CTRL_RESYNC, .fld .MIR_EPOCH_EPOCH, .fld .MIR_FN_MISMATCH, .fld .MIR_FN_READY, .fld .MIR_FN_ROLE,
  .fld .MIR_HBMISS_COUNT, .fld .MIR_REPLAY_COUNT, .fld .MIR_STAT_EXPERT, .fld .MIR_STAT_LINK, .fld .MIR_STAT_PAIR,
  .fld .MIR_STAT_TAKE_DRIVE, .fld .MIR_STAT_WIDTH, .fld .MIR_TAKES_COUNT, .fld .PKT_STAT_DENIED,
  .fld .PRG_COLFAIL_COUNT, .fld .PRG_ITERS_COUNT, .fld .PRG_LATECNT_COUNT, .fld .PRG_MAXLATE_LATENESS,
  .fld .PRG_STATUS_EXPERT, .fld .PRG_TILES_COUNT, .fld .PWR_STAT_EXPERT, .fld .QP_CFG_FUNC, .fld .QP_CFG_WINDOW,
  .fld .QP_STAT_CODE, .fld .QP_STAT_ERROR, .fld .QP_STAT_SQHEAD, .fld .QP_STAT_STATE, .fld .SEQ_STAT_EXPERT,
  .fld .TIL_CTRL_RETIRE, .fld .TIL_EXTENT_COLS_M1, .fld .TIL_EXTENT_ROWS_M1, .fld .TIL_MAP_LAYER, .fld .TIL_MAP_MAP,
  .fld .TIL_MAP_SLOT, .fld .TIL_PLACE_COLBLK, .fld .TIL_PLACE_ROWBLK, .fld .TIL_SPARECOL_BLK0,
  .fld .TIL_SPARECOL_BLK1, .fld .TIL_SPARECOL_BLK2, .fld .TIL_SPARECOL_BLK3, .fld .TIL_SPARES_SPARE_COLS_FREE,
  .fld .TIL_STATUS_EXPERT, .fld .TIL_STATUS_REPLACES, .fld .TIL_STATUS_REV_LOST, .fld .TLM_CNT_ORDER_CNT,
  .fld .TLM_CNT_RESTART_CNT, .fld .TLM_DROP_COUNT, .fld .TLM_LATE_TIME, .fld .TLM_STAT_FLAGS, .fld .TLM_STAT_STATE,
  .fld .TLM_STAT_STATUS, .fld .WFM_PLAY_CNT_ORDER_CNT, .fld .WFM_PLAY_CNT_RESTART_CNT, .fld .WFM_PLAY_LATE_LATENESS,
  .fld .WFM_PLAY_STAT_FLAGS, .fld .WFM_PLAY_STAT_POINT, .fld .WFM_PLAY_STAT_STATUS, .fld .WFM_STAT_CLAMP_CNT,
  .fld .YOK_DEFERRED_COUNT, .fld .YOK_EXTENDS_COUNT]

/-- Pieces: what regWrite may change beside the groups above, part 4. -/
def regWritePieces4 : List Piece :=
  [.fld .YOK_MISS_COUNT, .fld .YOK_OVERBUDGET_COUNT, .fld .YOK_SPLITS_COUNT, .fld .YOK_STATUS_EXPERT,
  .fld .YOK_STATUS_FIRING, .fld .YOK_THROTTLED_COUNT, .free, .hold, .journal, .panels, .plays, .pocket, .progs,
  .recs, .refreshes, .regions, .repls, .tabs, .tiles, .tlms, .waves]

/-- Pieces: what regWrite may change beside the groups above. -/
def regWritePieces : List Piece := regWritePieces1 ++ regWritePieces2 ++ regWritePieces3 ++ regWritePieces4

/-- What each command may change (R431 and the rules of the command): everything else is left alone. A command that sends,
receives or completes changes with it what the groups above name. The accesses of whole registers change, beyond this list, the
writable fields of the register that they write. For the cold resets the list is empty: `coldKept` names what they keep. -/
def writes : Instr → List Piece
  | .registerWrite .. => enginePieces ++ jobEndPieces ++ seqPieces ++ orderPieces ++ registerWritePieces
  | .glbCapacityLowRead .. => [.fld .CAL_TAB_ADDR_INDEX, .fld .PKT_ADDR_WORD, .fld .PKT_STAT_DENIED, .fld .PKT_STAT_REFUSED,
    .fld .WFM_ADDR_POINT, .fld .WFM_ADDR_WAVE, .free, .latch, .outbox]
  | .hemMseSumRead .. => [.fld .CAL_TAB_ADDR_INDEX, .fld .PKT_ADDR_WORD, .fld .PKT_STAT_DENIED, .fld .PKT_STAT_REFUSED,
    .fld .WFM_ADDR_POINT, .fld .WFM_ADDR_WAVE, .free, .latch, .outbox]
  | .tilCtrlRetire .. => retirePieces ++ jobEndPieces ++ orderPieces ++ enginePieces ++ [.aux .calCount, .aux .progCount, .aux .recRole,
    .aux .tilesLost, .cmds, .fld .FLT_EXHAUSTED_COUNT, .fld .FLT_RESTARTS_COUNT, .fld .HEM_CONVSUB_SP72,
    .fld .HEM_CONVSUB_SP73, .fld .HEM_CONVSUB_SP74, .fld .HEM_CONVSUB_SP75, .fld .TIL_EXTENT_COLS_M1,
    .fld .TIL_EXTENT_ROWS_M1, .fld .TIL_MAP_LAYER, .fld .TIL_MAP_MAP, .fld .TIL_MAP_SLOT, .fld .TIL_PLACE_COLBLK,
    .fld .TIL_PLACE_ROWBLK, .fld .TIL_SPARECOL_BLK0, .fld .TIL_SPARECOL_BLK1, .fld .TIL_SPARECOL_BLK2,
    .fld .TIL_SPARECOL_BLK3, .fld .TIL_SPARES_SPARE_COLS_FREE, .fld .TIL_STATUS_EXPERT, .fld .TIL_STATUS_REV_LOST,
    .panels, .recs]
  | .tilCtrlHoldWrite .. => orderPieces ++ [.aux .pendHold, .aux .pendJoin, .fld .TIL_CTRL_HOLD, .fld .TIL_STATUS_EXPERT,
    .fld .TIL_STATUS_HOLD_CAUSE]
  | .tilCtrlPrecisionWrite .. => orderPieces ++ [.aux .precWait, .fld .TIL_CTRL_PRECISION, .fld .TIL_STATUS_REFUSED, .tiles]
  | .tilCtrlHandback .. => orderPieces ++ [.aux .calCount, .aux .pendHold, .aux .pendJoin, .calq, .fld .TIL_CHECK_TOL, .fld .TIL_CTRL_HOLD,
    .fld .TIL_STATUS_EXPERT, .fld .TIL_STATUS_HOLD_CAUSE]
  | .spareTileTest .. => enginePieces ++ [.aux .progCount]
  | .recordTileFailure .. => retirePieces ++ [.aux .calCount, .aux .recRole, .recs]
  | .repairDone .. => retirePieces ++ programmingPieces ++ jobEndPieces ++ enginePieces ++ [.aux .calCount, .aux .lateSaid,
    .aux .progCount, .aux .switchTarget, .aux .tilesLost, .cmds, .fld .PRG_COLFAIL_COUNT, .fld .PRG_LATECNT_COUNT,
    .fld .PRG_MAXLATE_LATENESS, .fld .TIL_LASTGOOD_TIME, .fld .TIL_SPARECOL_BLK0, .fld .TIL_SPARECOL_BLK1,
    .fld .TIL_SPARECOL_BLK2, .fld .TIL_SPARECOL_BLK3, .fld .TIL_SPARES_SPARE_COLS_FREE, .free, .panels]
  | .drvCfgWrite .. => orderPieces ++ [.aux .pendDrive, .fld .DRV_CFG_FS, .fld .DRV_CFG_SPAN, .fld .DRV_STAT_EXPERT, .fld .DRV_STAT_PEND]
  | .drvSlewWrite .. => orderPieces ++ [.aux .pendSlew, .fld .DRV_SLEW_RATE, .fld .DRV_SLEW_STEP, .fld .DRV_STAT_EXPERT,
    .fld .DRV_STAT_PEND, .fld .DRV_STAT_REFUSED]
  | .drvCfgHandback .. => orderPieces ++ [.aux .pendDrive, .aux .pendSlew, .aux .pendTaps, .aux .tapsNew, .fld .DRV_CFG_FS,
    .fld .DRV_CFG_SPAN, .fld .DRV_SLEW_RATE, .fld .DRV_SLEW_STEP, .fld .DRV_STAT_EXPERT, .fld .DRV_STAT_PEND,
    .fld .HEM_TAPS_PEND, .fld .HEM_TAPS_WSTART, .fld .HEM_TAPS_WSTOP, .tabs]
  | .wfmDataAccess .. => orderPieces ++ [.aux .wfmExpert, .fld .WFM_ADDR_POINT, .fld .WFM_ADDR_WAVE, .fld .WFM_STAT_REFUSED, .waves]
  | .wfmPlayStart .. => enginePieces ++ orderPieces ++ [.aux .wfmExpert, .fld .DRV_CLAMP_COUNT, .fld .DRV_STAT_PLAYING,
    .fld .WFM_PLAY_CNT_ORDER_CNT, .fld .WFM_PLAY_CNT_RESTART_CNT, .fld .WFM_PLAY_LATE_LATENESS,
    .fld .WFM_PLAY_STAT_FLAGS, .fld .WFM_PLAY_STAT_POINT, .fld .WFM_PLAY_STAT_STATUS, .fld .WFM_STAT_CLAMP_CNT,
    .fld .WFM_STAT_REFUSED, .free, .plays, .tiles]
  | .wfmPlayStop .. => enginePieces ++ orderPieces ++ [.aux .wfmExpert, .fld .DRV_STAT_PLAYING, .fld .WFM_PLAY_CNT_ORDER_CNT,
    .fld .WFM_PLAY_STAT_FLAGS, .fld .WFM_PLAY_STAT_STATUS, .plays, .tiles]
  | .wfmPlayCancel .. => enginePieces ++ orderPieces ++ [.fld .DRV_STAT_PLAYING, .fld .WFM_PLAY_STAT_FLAGS, .fld .WFM_PLAY_STAT_STATUS,
    .plays, .tiles]
  | .wfmTimedStart .. => enginePieces ++ [.fld .DRV_CLAMP_COUNT, .fld .DRV_STAT_PLAYING, .fld .WFM_PLAY_STAT_FLAGS,
    .fld .WFM_PLAY_STAT_POINT, .fld .WFM_PLAY_STAT_STATUS, .fld .WFM_STAT_CLAMP_CNT, .fld .WFM_STAT_REFUSED, .free,
    .plays, .tiles]
  | .wfmTimedStop .. => enginePieces ++ [.fld .DRV_STAT_PLAYING, .fld .WFM_PLAY_STAT_FLAGS, .fld .WFM_PLAY_STAT_STATUS, .plays, .tiles]
  | .wfmPointInterval .. => enginePieces ++ seqPieces ++ [.aux .urgCount, .fld .DRV_CLAMP_COUNT, .fld .DRV_STAT_PLAYING,
    .fld .MCV_PREEMPT_ABORTS, .fld .WFM_PLAY_STAT_FLAGS, .fld .WFM_PLAY_STAT_POINT, .fld .WFM_PLAY_STAT_STATUS,
    .fld .WFM_STAT_CLAMP_CNT, .free, .plays, .tiles]
  | .wfmStatHandback .. => enginePieces ++ orderPieces ++ [.aux .wfmExpert, .fld .DRV_STAT_PLAYING, .fld .WFM_PLAY_STAT_FLAGS,
    .fld .WFM_PLAY_STAT_STATUS, .plays, .tiles]
  | .hemCfgWrite .. => orderPieces ++ [.aux .hemExpert, .aux .pendRange, .fld .HEM_CFG_MSE_Q, .fld .HEM_CFG_MSE_REF, .fld .HEM_CFG_RANGE]
  | .hemTapsWrite .. => orderPieces ++ [.aux .hemExpert, .aux .pendTaps, .fld .HEM_TAPS_PEND, .fld .HEM_TAPS_WSTART,
    .fld .HEM_TAPS_WSTOP, .fld .TIL_STATUS_REFUSED]
  | .hemCtrlClear .. => orderPieces ++ [.aux .mseHeld, .fld .HEM_CSAT_COUNT, .fld .HEM_MSEQ_CNT_COUNT, .fld .HEM_MSEQ_SUM_SUM,
    .fld .HEM_MSEREF_CNT_COUNT, .fld .HEM_MSEREF_SUM_SUM, .fld .HEM_OSAT_COUNT, .fld .HEM_REFCHK_REF_FAILS,
    .fld .HEM_RERUN_COUNT, .fld .HEM_RSAT_COUNT]
  | .hemCtrlHandback .. => orderPieces ++ [.aux .hemExpert, .aux .pendRange, .aux .pendTaps, .aux .tapsNew, .fld .HEM_CFG_RANGE,
    .fld .HEM_REFCHK_TOL, .fld .HEM_SAT_LIMIT, .fld .HEM_TAPS_PEND, .fld .HEM_TAPS_WSTART, .fld .HEM_TAPS_WSTOP,
    .tabs]
  | .conversionsEnd .. => retirePieces ++ jobEndPieces ++ enginePieces ++ conversionsEndPieces
  | .stitchStrobe => jobEndPieces ++ [.aux .firings, .aux .missed, .aux .moveAt, .aux .opCount, .aux .periods, .aux .strobeAt,
    .aux .switchAt, .cals, .checks, .fld .DGA_ADDFULL_COUNT, .fld .DRV_CLAMP_COUNT, .fld .DRV_OUTRUN_COUNT,
    .fld .DRV_STAT_LASTRAMP, .fld .FLT_EXHAUSTED_COUNT, .fld .FLT_RESTARTS_COUNT, .fld .HEM_RERUN_COUNT,
    .fld .PKT_LIFE_STITCHES_COUNT, .fld .TIL_STITCHES_COUNT, .fld .YOK_DEFERRED_COUNT, .fld .YOK_EXTENDS_COUNT,
    .fld .YOK_LASTSTROBE_TIME, .fld .YOK_OVERBUDGET_COUNT, .fld .YOK_SETTLE_LAST, .fld .YOK_SPLITS_COUNT,
    .fld .YOK_STATUS_FIRING, .fld .YOK_STITCHNO_COUNT, .fld .YOK_THROTTLED_COUNT, .progq, .tiles]
  | .periodMarker .. => [.aux .markerAt, .aux .missed, .aux .realign, .fld .YOK_SKEW_LOSTS]
  | .skewRemeasure .. => [.aux .missed, .fld .YOK_SKEW_SKEW]
  | .followerOff .. => jobEndPieces ++ [.aux .missed, .aux .realign, .fld .FLT_EXHAUSTED_COUNT, .fld .FLT_RESTARTS_COUNT,
    .fld .YOK_SKEW_LOSTS, .fld .YOK_STATUS_FOLLOWER_OFF, .tiles]
  | .followerRealign .. => [.aux .realign, .fld .YOK_STATUS_FOLLOWER_OFF, .tiles]
  | .feederLoadDone .. => jobEndPieces ++ [.fld .BNK_COLLIDE_COUNT, .fld .BNK_ECC_ADDR_OFFSET, .fld .BNK_ECC_CORR_COUNT,
    .fld .BNK_ECC_UNCORR_COUNT, .fld .FLT_EXHAUSTED_COUNT, .fld .FLT_RESTARTS_COUNT, .fld .MEM_CORR_COUNT,
    .fld .MEM_LECC_COUNT, .fld .MEM_UNCORR_ADDR_OFFSET, .fld .MEM_UNCORR_COUNT, .poison, .tiles]
  | .seamDue .. => [.aux .seamDue]
  | .seamPass .. => seamPieces
  | .mapSwitchDrainLimit .. => seamPieces ++ jobEndPieces ++ [.fld .FLT_EXHAUSTED_COUNT, .fld .FLT_RESTARTS_COUNT]
  | .accountingWindowEnd => [.aux .firings, .aux .rtOld]
  | .yokeRoleMoveEnd => [.aux .moveAt, .aux .strobeAt, .fld .YOK_STATUS_MOVING, .reqs]
  | .yokCtrlHoldAllWrite .. => orderPieces ++ [.aux .moveAt, .aux .strobeAt, .fld .YOK_CTRL_HOLD_ALL, .fld .YOK_STATUS_EXPERT,
    .fld .YOK_STATUS_FIRING, .reqs]
  | .yokCtrlSplitEnWrite .. => orderPieces ++ [.fld .YOK_CTRL_SPLIT_EN, .fld .YOK_STATUS_EXPERT]
  | .yokCtrlClear .. => orderPieces ++ [.fld .YOK_DEFERRED_COUNT, .fld .YOK_EXTENDS_COUNT, .fld .YOK_MISS_COUNT,
    .fld .YOK_OVERBUDGET_COUNT, .fld .YOK_SPLITS_COUNT, .fld .YOK_THROTTLED_COUNT]
  | .yokCtrlHandback .. => orderPieces ++ [.aux .moveAt, .aux .strobeAt, .fld .DGA_DUTY_DUTY, .fld .YOK_CTRL_HOLD_ALL,
    .fld .YOK_CTRL_SPLIT_EN, .fld .YOK_IBUDGET_BUDGET, .fld .YOK_SETTLE_MAX, .fld .YOK_STATUS_EXPERT,
    .fld .YOK_THROTTLE_TICKS, .reqs]
  | .yokPeriodWrite .. => orderPieces ++ [.fld .YOK_PERIOD_TICKS, .fld .YOK_STATUS_REFUSED]
  | .yokThrottleWrite .. => orderPieces ++ [.fld .YOK_STATUS_EXPERT, .fld .YOK_THROTTLE_TICKS]
  | .jobDispatch => jobEndPieces ++ [.fld .SEQ_JOB_JOB, .fld .SEQ_PC_PC, .fld .SEQ_TASK_CLASS, .fld .SEQ_TASK_FUNC,
    .fld .SEQ_TASK_TASK]
  | .jobCommit .. => jobEndPieces ++ [.poison]
  | .barRelease .. => [.fld .SEQ_TASK_STATE, .jobs]
  | .memoryConditionRecheck .. => trapPieces ++ [.fld .BNK_COLLIDE_COUNT, .fld .BNK_DENIED_COUNT, .fld .BNK_ECC_ADDR_OFFSET,
    .fld .BNK_ECC_CORR_COUNT, .fld .BNK_ECC_UNCORR_COUNT, .fld .MEM_CORR_COUNT, .fld .MEM_LECC_COUNT,
    .fld .MEM_UNCORR_ADDR_OFFSET, .fld .MEM_UNCORR_COUNT, .poison]
  | .seqCfgWrite .. => orderPieces ++ [.fld .SEQ_CFG_RESERVE0, .fld .SEQ_STAT_REFUSED]
  | .seqCtrlDrainWrite .. => orderPieces ++ [.fld .SEQ_CTRL_DRAIN, .fld .SEQ_STAT_EXPERT]
  | .seqCtrlHandback .. => orderPieces ++ [.fld .SEQ_CFG_RESERVE0, .fld .SEQ_CTRL_DRAIN, .fld .SEQ_STAT_EXPERT]
  | .nop .. => [.fld .SEQ_PC_PC, .fld .SEQ_TASK_STATE, .jobs]
  | .br .. => [.fld .SEQ_PC_PC, .fld .SEQ_TASK_STATE, .jobs]
  | .bri .. => trapPieces ++ [.fld .SEQ_PC_PC]
  | .brc .. => [.fld .SEQ_PC_PC, .fld .SEQ_TASK_STATE, .jobs]
  | .loop .. => trapPieces ++ [.fld .SEQ_PC_PC]
  | .endl .. => trapPieces ++ [.fld .SEQ_PC_PC]
  | .lpop .. => trapPieces ++ [.fld .SEQ_PC_PC]
  | .call .. => trapPieces ++ [.fld .SEQ_PC_PC]
  | .calli .. => trapPieces ++ [.fld .SEQ_PC_PC]
  | .ret .. => trapPieces ++ [.fld .SEQ_PC_PC]
  | .wait .. => trapPieces ++ [.fld .SEQ_PC_PC]
  | .waitEq .. => trapPieces ++ [.fld .BNK_COLLIDE_COUNT, .fld .BNK_DENIED_COUNT, .fld .BNK_ECC_ADDR_OFFSET,
    .fld .BNK_ECC_CORR_COUNT, .fld .BNK_ECC_UNCORR_COUNT, .fld .MEM_CORR_COUNT, .fld .MEM_LECC_COUNT,
    .fld .MEM_UNCORR_ADDR_OFFSET, .fld .MEM_UNCORR_COUNT, .fld .SEQ_PC_PC, .poison]
  | .waitNe .. => trapPieces ++ [.fld .BNK_COLLIDE_COUNT, .fld .BNK_DENIED_COUNT, .fld .BNK_ECC_ADDR_OFFSET,
    .fld .BNK_ECC_CORR_COUNT, .fld .BNK_ECC_UNCORR_COUNT, .fld .MEM_CORR_COUNT, .fld .MEM_LECC_COUNT,
    .fld .MEM_UNCORR_ADDR_OFFSET, .fld .MEM_UNCORR_COUNT, .fld .SEQ_PC_PC, .poison]
  | .waitGeu .. => trapPieces ++ [.fld .BNK_COLLIDE_COUNT, .fld .BNK_DENIED_COUNT, .fld .BNK_ECC_ADDR_OFFSET,
    .fld .BNK_ECC_CORR_COUNT, .fld .BNK_ECC_UNCORR_COUNT, .fld .MEM_CORR_COUNT, .fld .MEM_LECC_COUNT,
    .fld .MEM_UNCORR_ADDR_OFFSET, .fld .MEM_UNCORR_COUNT, .fld .SEQ_PC_PC, .poison]
  | .trap .. => trapPieces ++ [.fld .SEQ_PC_PC]
  | .halt .. => [.fld .SEQ_PC_PC, .fld .SEQ_TASK_STATE, .jobs]
  | .ctx .. => [.fld .SEQ_PC_PC, .fld .SEQ_TASK_STATE, .jobs]
  | .aluImmediate .. => [.fld .SEQ_PC_PC, .fld .SEQ_TASK_STATE, .jobs]
  | .aluRegister .. => [.fld .SEQ_PC_PC, .fld .SEQ_TASK_STATE, .jobs]
  | .cmp .. => [.fld .SEQ_PC_PC, .fld .SEQ_TASK_STATE, .jobs]
  | .cmpi .. => [.fld .SEQ_PC_PC, .fld .SEQ_TASK_STATE, .jobs]
  | .predicateOp .. => [.fld .SEQ_PC_PC, .fld .SEQ_TASK_STATE, .jobs]
  | .tdset .. => [.fld .SEQ_PC_PC, .fld .SEQ_TASK_STATE, .jobs]
  | .tdget .. => [.fld .SEQ_PC_PC, .fld .SEQ_TASK_STATE, .jobs]
  | .tdld .. => trapPieces ++ [.fld .BNK_COLLIDE_COUNT, .fld .BNK_DENIED_COUNT, .fld .BNK_ECC_ADDR_OFFSET,
    .fld .BNK_ECC_CORR_COUNT, .fld .BNK_ECC_UNCORR_COUNT, .fld .MEM_CORR_COUNT, .fld .MEM_LECC_COUNT,
    .fld .MEM_UNCORR_ADDR_OFFSET, .fld .MEM_UNCORR_COUNT, .fld .SEQ_PC_PC, .poison]
  | .tdst .. => trapPieces ++ [.fld .BNK_DENIED_COUNT, .fld .SEQ_PC_PC, .poison]
  | .tdcpy .. => [.fld .SEQ_PC_PC, .fld .SEQ_TASK_STATE, .jobs]
  | .tdinv .. => [.fld .SEQ_PC_PC, .fld .SEQ_TASK_STATE, .jobs]
  | .tdadd .. => [.fld .SEQ_PC_PC, .fld .SEQ_TASK_STATE, .jobs]
  | .load .. => trapPieces ++ [.fld .BNK_COLLIDE_COUNT, .fld .BNK_DENIED_COUNT, .fld .BNK_ECC_ADDR_OFFSET,
    .fld .BNK_ECC_CORR_COUNT, .fld .BNK_ECC_UNCORR_COUNT, .fld .MEM_CORR_COUNT, .fld .MEM_LECC_COUNT,
    .fld .MEM_UNCORR_ADDR_OFFSET, .fld .MEM_UNCORR_COUNT, .fld .SEQ_PC_PC, .poison]
  | .store .. => trapPieces ++ [.fld .BNK_COLLIDE_COUNT, .fld .BNK_DENIED_COUNT, .fld .BNK_ECC_ADDR_OFFSET,
    .fld .BNK_ECC_CORR_COUNT, .fld .BNK_ECC_UNCORR_COUNT, .fld .MEM_CORR_COUNT, .fld .MEM_LECC_COUNT,
    .fld .MEM_UNCORR_ADDR_OFFSET, .fld .MEM_UNCORR_COUNT, .fld .SEQ_PC_PC, .poison]
  | .movt .. => trapPieces ++ [.aux .opCount, .dmas, .fld .BNK_DENIED_COUNT, .fld .SEQ_PC_PC]
  | .gather .. => trapPieces ++ [.aux .opCount, .dmas, .fld .BNK_DENIED_COUNT, .fld .SEQ_PC_PC]
  | .scatter .. => trapPieces ++ [.aux .opCount, .dmas, .fld .BNK_DENIED_COUNT, .fld .SEQ_PC_PC]
  | .scldE .. => trapPieces ++ [.fld .BNK_COLLIDE_COUNT, .fld .BNK_DENIED_COUNT, .fld .BNK_ECC_ADDR_OFFSET,
    .fld .BNK_ECC_CORR_COUNT, .fld .BNK_ECC_UNCORR_COUNT, .fld .MEM_CORR_COUNT, .fld .MEM_LECC_COUNT,
    .fld .MEM_UNCORR_ADDR_OFFSET, .fld .MEM_UNCORR_COUNT, .fld .SEQ_PC_PC, .poison]
  | .scldT .. => trapPieces ++ [.fld .BNK_COLLIDE_COUNT, .fld .BNK_DENIED_COUNT, .fld .BNK_ECC_ADDR_OFFSET,
    .fld .BNK_ECC_CORR_COUNT, .fld .BNK_ECC_UNCORR_COUNT, .fld .MEM_CORR_COUNT, .fld .MEM_LECC_COUNT,
    .fld .MEM_UNCORR_ADDR_OFFSET, .fld .MEM_UNCORR_COUNT, .fld .SEQ_PC_PC, .poison]
  | .stitch .. => trapPieces ++ [.aux .opCount, .fld .BNK_DENIED_COUNT, .fld .SEQ_PC_PC, .progq]
  | .rstitch .. => trapPieces ++ [.aux .opCount, .fld .BNK_DENIED_COUNT, .fld .SEQ_PC_PC, .progq]
  | .swait .. => trapPieces ++ [.fld .SEQ_PC_PC]
  | .rot .. => trapPieces ++ [.aux .opCount, .fld .BNK_DENIED_COUNT, .fld .SEQ_PC_PC]
  | .mapsel .. => trapPieces ++ [.fld .SEQ_PC_PC]
  | .mm .. => trapPieces ++ [.aux .opCount, .fld .BNK_DENIED_COUNT, .fld .SEQ_PC_PC]
  | .mmt .. => trapPieces ++ [.aux .opCount, .fld .BNK_DENIED_COUNT, .fld .SEQ_PC_PC]
  | .mma .. => trapPieces ++ [.aux .opCount, .fld .BNK_DENIED_COUNT, .fld .SEQ_PC_PC]
  | .mmat .. => trapPieces ++ [.aux .opCount, .fld .BNK_DENIED_COUNT, .fld .SEQ_PC_PC]
  | .ew .. => trapPieces ++ [.aux .opCount, .fld .BNK_DENIED_COUNT, .fld .SEQ_PC_PC]
  | .red .. => trapPieces ++ [.aux .opCount, .fld .BNK_DENIED_COUNT, .fld .SEQ_PC_PC]
  | .smax .. => trapPieces ++ [.aux .opCount, .fld .BNK_DENIED_COUNT, .fld .SEQ_PC_PC]
  | .normLayer .. => trapPieces ++ [.aux .opCount, .fld .BNK_DENIED_COUNT, .fld .SEQ_PC_PC]
  | .normRms .. => trapPieces ++ [.aux .opCount, .fld .BNK_DENIED_COUNT, .fld .SEQ_PC_PC]
  | .qnt .. => trapPieces ++ [.aux .opCount, .fld .BNK_DENIED_COUNT, .fld .SEQ_PC_PC]
  | .dqnt .. => trapPieces ++ [.aux .opCount, .fld .BNK_DENIED_COUNT, .fld .SEQ_PC_PC]
  | .bar .. => [.fld .SEQ_PC_PC, .fld .SEQ_TASK_STATE, .jobs]
  | .fence .. => [.fld .SEQ_PC_PC, .fld .SEQ_TASK_STATE, .jobs]
  | .signalSet .. => trapPieces ++ [.fld .BNK_COLLIDE_COUNT, .fld .BNK_DENIED_COUNT, .fld .BNK_ECC_ADDR_OFFSET,
    .fld .BNK_ECC_CORR_COUNT, .fld .BNK_ECC_UNCORR_COUNT, .fld .MEM_CORR_COUNT, .fld .MEM_LECC_COUNT,
    .fld .MEM_UNCORR_ADDR_OFFSET, .fld .MEM_UNCORR_COUNT, .fld .SEQ_PC_PC, .poison]
  | .signalAdd .. => trapPieces ++ [.fld .BNK_COLLIDE_COUNT, .fld .BNK_DENIED_COUNT, .fld .BNK_ECC_ADDR_OFFSET,
    .fld .BNK_ECC_CORR_COUNT, .fld .BNK_ECC_UNCORR_COUNT, .fld .MEM_CORR_COUNT, .fld .MEM_LECC_COUNT,
    .fld .MEM_UNCORR_ADDR_OFFSET, .fld .MEM_UNCORR_COUNT, .fld .SEQ_PC_PC, .poison]
  | .signalMaxu .. => trapPieces ++ [.fld .BNK_COLLIDE_COUNT, .fld .BNK_DENIED_COUNT, .fld .BNK_ECC_ADDR_OFFSET,
    .fld .BNK_ECC_CORR_COUNT, .fld .BNK_ECC_UNCORR_COUNT, .fld .MEM_CORR_COUNT, .fld .MEM_LECC_COUNT,
    .fld .MEM_UNCORR_ADDR_OFFSET, .fld .MEM_UNCORR_COUNT, .fld .SEQ_PC_PC, .poison]
  | .evpost .. => eventPieces ++ [.fld .SEQ_PC_PC, .fld .SEQ_TASK_STATE, .jobs]
  | .cpost .. => [.fld .SEQ_PC_PC, .fld .SEQ_TASK_STATE, .jobs]
  | .cal .. => enginePieces ++ jobEndPieces ++ orderPieces ++ [.aux .calExpert, .aux .calTempAt, .aux .opCount, .aux .pendJoin,
    .aux .progCount, .aux .traceRun, .aux .traceWait, .calq, .cals, .fld .CAL_STATUS_BUSY, .fld .CAL_STATUS_EXPERT,
    .fld .FLT_EXHAUSTED_COUNT, .fld .FLT_RESTARTS_COUNT, .fld .HEM_TAPS_STALE, .fld .SEQ_PC_PC,
    .fld .TIL_STATUS_EXPERT, .mons, .refreshes, .tiles]
  | .clear .. => enginePieces ++ jobEndPieces ++ orderPieces ++ [.aux .calExpert, .aux .calTempAt, .aux .opCount, .aux .pendJoin,
    .aux .progCount, .aux .traceRun, .aux .traceWait, .calq, .cals, .fld .CAL_STATUS_BUSY, .fld .CAL_STATUS_EXPERT,
    .fld .FLT_EXHAUSTED_COUNT, .fld .FLT_RESTARTS_COUNT, .fld .HEM_TAPS_STALE, .fld .SEQ_PC_PC,
    .fld .TIL_STATUS_EXPERT, .mons, .refreshes, .tiles]
  | .prog .. => enginePieces ++ jobEndPieces ++ orderPieces ++ [.aux .calExpert, .aux .calTempAt, .aux .opCount, .aux .pendJoin,
    .aux .progCount, .aux .traceRun, .aux .traceWait, .calq, .cals, .fld .CAL_STATUS_BUSY, .fld .CAL_STATUS_EXPERT,
    .fld .FLT_EXHAUSTED_COUNT, .fld .FLT_RESTARTS_COUNT, .fld .HEM_TAPS_STALE, .fld .SEQ_PC_PC,
    .fld .TIL_STATUS_EXPERT, .mons, .refreshes, .tiles]
  | .verify .. => enginePieces ++ jobEndPieces ++ orderPieces ++ [.aux .calExpert, .aux .calTempAt, .aux .opCount, .aux .pendJoin,
    .aux .progCount, .aux .traceRun, .aux .traceWait, .calq, .cals, .fld .CAL_STATUS_BUSY, .fld .CAL_STATUS_EXPERT,
    .fld .FLT_EXHAUSTED_COUNT, .fld .FLT_RESTARTS_COUNT, .fld .HEM_TAPS_STALE, .fld .SEQ_PC_PC,
    .fld .TIL_STATUS_EXPERT, .mons, .refreshes, .tiles]
  | .refresh .. => enginePieces ++ jobEndPieces ++ orderPieces ++ [.aux .calExpert, .aux .calTempAt, .aux .opCount, .aux .pendJoin,
    .aux .progCount, .aux .traceRun, .aux .traceWait, .calq, .cals, .fld .CAL_STATUS_BUSY, .fld .CAL_STATUS_EXPERT,
    .fld .FLT_EXHAUSTED_COUNT, .fld .FLT_RESTARTS_COUNT, .fld .HEM_TAPS_STALE, .fld .SEQ_PC_PC,
    .fld .TIL_STATUS_EXPERT, .mons, .refreshes, .tiles]
  | .arrayBlockEnd .. => jobEndPieces ++ [.fld .BNK_COLLIDE_COUNT, .fld .BNK_DENIED_COUNT, .fld .BNK_ECC_ADDR_OFFSET,
    .fld .BNK_ECC_CORR_COUNT, .fld .BNK_ECC_UNCORR_COUNT, .fld .DGA_CYCLES_COUNT, .fld .DGA_GUS_BYTES_COUNT,
    .fld .DGA_GUS_LATE_COUNT, .fld .DGA_GUS_STALL_COUNT, .fld .DGA_MACS_COUNT, .fld .DGA_NAN_COUNT,
    .fld .DGA_OPWAIT_COUNT, .fld .DGA_SAT_COUNT, .fld .DGA_STATUS_BUSY, .fld .FLT_EXHAUSTED_COUNT,
    .fld .FLT_RESTARTS_COUNT, .fld .MEM_CORR_COUNT, .fld .MEM_LECC_COUNT, .fld .MEM_UNCORR_ADDR_OFFSET,
    .fld .MEM_UNCORR_COUNT, .free, .poison]
  | .dgaCtrlHoldWrite .. => orderPieces ++ [.fld .DGA_CTRL_HOLD, .fld .DGA_STATUS_EXPERT]
  | .dgaCtrlClear .. => orderPieces ++ [.fld .DGA_ADDFULL_COUNT, .fld .DGA_CYCLES_COUNT, .fld .DGA_GUS_BYTES_COUNT,
    .fld .DGA_GUS_LATE_COUNT, .fld .DGA_GUS_STALL_COUNT, .fld .DGA_MACS_COUNT, .fld .DGA_NAN_COUNT,
    .fld .DGA_OPWAIT_COUNT, .fld .DGA_SAT_COUNT]
  | .dgaCtrlHandback .. => orderPieces ++ [.fld .DGA_CTRL_HOLD, .fld .DGA_STATUS_EXPERT]
  | .dmaDescriptorDone .. => jobEndPieces ++ [.dmas, .fld .BNK_COLLIDE_COUNT, .fld .BNK_DENIED_COUNT, .fld .BNK_ECC_ADDR_OFFSET,
    .fld .BNK_ECC_CORR_COUNT, .fld .BNK_ECC_UNCORR_COUNT, .fld .DGA_GUS_BYTES_COUNT, .fld .FLT_EXHAUSTED_COUNT,
    .fld .FLT_RESTARTS_COUNT, .fld .MEM_CORR_COUNT, .fld .MEM_LECC_COUNT, .fld .MEM_UNCORR_ADDR_OFFSET,
    .fld .MEM_UNCORR_COUNT, .free, .poison]
  | .imageLoad .. => completionPieces ++ [.images, .loads, .maps]
  | .imageLoadComplete .. => enginePieces ++ completionPieces ++ [.aux .pendJoin, .aux .progCount, .fld .SEQ_TASK_STATE, .jobs, .loads, .ops,
    .refreshes, .tiles]
  | .imageEvict .. => completionPieces ++ [.images, .maps]
  | .slotProgram .. => enginePieces ++ completionPieces ++ [.aux .progCount, .aux .switchTarget, .panels, .poison]
  | .slotSwitch .. => completionPieces ++ [.aux .switchAt, .aux .switchTarget, .maps]
  | .slotReplace .. => enginePieces ++ completionPieces ++ [.aux .aimDue, .aux .pendDrive, .aux .pendJoin, .aux .pendRange,
    .aux .pendSlew, .aux .pendTaps, .aux .precBy, .aux .precWait, .aux .progCount, .calq, .cals,
    .fld .CAL_STATUS_BUSY, .fld .DRV_CFG_FS, .fld .DRV_CFG_SPAN, .fld .DRV_SLEW_RATE, .fld .DRV_SLEW_STEP,
    .fld .DRV_STAT_PEND, .fld .HEM_CFG_RANGE, .fld .HEM_TAPS_PEND, .fld .HEM_TAPS_STALE, .fld .HEM_TAPS_WSTART,
    .fld .HEM_TAPS_WSTOP, .fld .SEQ_TASK_STATE, .fld .TIL_CTRL_PRECISION, .jobs, .ops, .panels, .repls, .tabs, .tiles]
  | .mapFree .. => enginePieces ++ completionPieces ++ [.aux .aimDue, .aux .pendDrive, .aux .pendJoin, .aux .pendRange,
    .aux .pendSlew, .aux .pendTaps, .aux .precWait, .aux .progCount, .calq, .cals, .fld .CAL_STATUS_BUSY,
    .fld .DRV_CFG_FS, .fld .DRV_CFG_SPAN, .fld .DRV_SLEW_RATE, .fld .DRV_SLEW_STEP, .fld .DRV_STAT_PEND,
    .fld .HEM_CFG_RANGE, .fld .HEM_TAPS_PEND, .fld .HEM_TAPS_STALE, .fld .HEM_TAPS_WSTART, .fld .HEM_TAPS_WSTOP,
    .fld .SEQ_TASK_STATE, .jobs, .ops, .panels, .refreshes, .repls, .tabs, .tiles]
  | .slotFree .. => enginePieces ++ completionPieces ++ slotFreePieces
  | .slotFreeDrainEnd .. => enginePieces ++ completionPieces ++ slotFreeDrainEndPieces
  | .slotInfo .. => completionPieces
  | .keyEnrol .. => completionPieces ++ [.aux .pageLock, .pocket]
  | .keyRevoke .. => completionPieces ++ [.aux .pageLock, .pocket]
  | .progFinish .. => retirePieces ++ programmingPieces ++ jobEndPieces ++ enginePieces ++ [.aux .calCount, .aux .lateSaid,
    .aux .precBy, .aux .progCount, .aux .switchTarget, .aux .tilesLost, .cmds, .fld .PRG_COLFAIL_COUNT,
    .fld .PRG_LATECNT_COUNT, .fld .PRG_MAXLATE_LATENESS, .fld .TIL_LASTGOOD_TIME, .fld .TIL_SPARECOL_BLK0,
    .fld .TIL_SPARECOL_BLK1, .fld .TIL_SPARECOL_BLK2, .fld .TIL_SPARECOL_BLK3, .fld .TIL_SPARES_SPARE_COLS_FREE,
    .free, .panels]
  | .clearFinish .. => enginePieces ++ completionPieces ++ [.aux .lateSaid, .fld .PRG_LATECNT_COUNT, .fld .PRG_MAXLATE_LATENESS,
    .fld .SEQ_TASK_STATE, .fld .TIL_CTRL_RETIRE, .fld .TIL_STATUS_REPLACES, .jobs, .ops, .tabs, .tiles]
  | .verifyFinish .. => retirePieces ++ jobEndPieces ++ enginePieces ++ [.aux .calExpert, .aux .calTempAt, .aux .lateSaid,
    .aux .progCount, .aux .tilesLost, .aux .traceRun, .aux .traceWait, .cmds, .fld .CAL_STATUS_EXPERT,
    .fld .FLT_EXHAUSTED_COUNT, .fld .FLT_RESTARTS_COUNT, .fld .PRG_LATECNT_COUNT, .fld .PRG_MAXLATE_LATENESS,
    .fld .TIL_STATUS_EXPERT, .mons, .panels, .poison]
  | .prgCtrlHoldWrite .. => enginePieces ++ orderPieces ++ [.fld .PRG_CTRL_HOLD, .fld .PRG_STATUS_EXPERT]
  | .prgCtrlClear .. => orderPieces ++ [.fld .PRG_COLFAIL_COUNT, .fld .PRG_ITERS_COUNT, .fld .PRG_LATECNT_COUNT,
    .fld .PRG_MAXLATE_LATENESS, .fld .PRG_TILES_COUNT]
  | .prgCtrlHandback .. => enginePieces ++ orderPieces ++ [.fld .PRG_CFG_INC_LIMIT, .fld .PRG_CFG_ITER_LIMIT, .fld .PRG_CFG_VTOL,
    .fld .PRG_CTRL_HOLD, .fld .PRG_STATUS_EXPERT]
  | .prgStoreWrite .. => orderPieces ++ [.fld .PRG_STATUS_REFUSED, .fld .PRG_STORE_GIB]
  | .driftInterval .. => enginePieces ++ [.aux .aimDue, .aux .driftPrev, .aux .pendJoin, .aux .progCount, .checks,
    .fld .CAL_REJECTS_COUNT, .fld .SEQ_TASK_STATE, .fld .TIL_STATUS_CAL_REJ_RUN, .fld .TIL_STATUS_SUSPECT, .jobs,
    .ops, .refreshes, .tabs, .tiles]
  | .traceDue .. => [.aux .traceRun, .aux .traceWait, .mons]
  | .traceEnd .. => eventPieces ++ [.aux .aimDue, .aux .traceAt, .aux .traceRej, .aux .traceRun, .aux .traceWait,
    .fld .CAL_CTRL_TRACE, .fld .CAL_LASTTRACE_TIME, .fld .CAL_STATUS_TRACE_FAULT, .fld .CAL_TEMP_TJ_TRACE,
    .fld .SEQ_TASK_STATE, .jobs, .mons, .ops, .tabs, .tiles]
  | .traceRetry .. => [.aux .traceRun, .aux .traceWait, .mons]
  | .quickCalEnd .. => enginePieces ++ [.aux .aimDue, .aux .pendJoin, .aux .pendTaps, .aux .progCount, .aux .tapsNew, .cals,
    .fld .CAL_REJECTS_COUNT, .fld .CAL_STATUS_BUSY, .fld .HEM_TAPS_PEND, .fld .HEM_TAPS_WSTART, .fld .HEM_TAPS_WSTOP,
    .fld .SEQ_TASK_STATE, .fld .TIL_STATUS_CAL_REJ_RUN, .fld .TIL_STATUS_SUSPECT, .jobs, .ops, .refreshes, .repls,
    .tabs, .tiles]
  | .fullCalStart .. => enginePieces ++ [.aux .calTempAt, .aux .pendJoin, .aux .progCount, .calq, .cals, .fld .CAL_STATUS_BUSY,
    .fld .HEM_TAPS_STALE, .fld .SEQ_TASK_STATE, .jobs, .ops, .refreshes, .tiles]
  | .fullCalEnd .. => retirePieces ++ jobEndPieces ++ calibrationPieces ++ fullCalEndPieces
  | .periodicFullCalDue .. => [.aux .calCount, .calq]
  | .recordHourlySave .. => [.recs]
  | .refreshEnd .. => eventPieces ++ [.fld .SEQ_TASK_STATE, .jobs, .ops, .refreshes]
  | .calCtrlHoldWrite .. => calibrationPieces ++ orderPieces ++ [.aux .calExpert, .fld .CAL_CTRL_HOLD, .fld .CAL_STATUS_EXPERT]
  | .calCtrlClear .. => orderPieces ++ [.fld .CAL_FULLS_COUNT, .fld .CAL_REJECTS_COUNT]
  | .calCtrlHandback .. => calibrationPieces ++ orderPieces ++ [.aux .calCount, .aux .calExpert, .fld .CAL_CFG_FULL_DAYS, .fld .CAL_CFG_PAR,
    .fld .CAL_CFG_STAGE, .fld .CAL_CTRL_HOLD, .fld .CAL_LIMIT_DSTEP, .fld .CAL_LIMIT_MSE, .fld .CAL_RAMP_SEAMS,
    .fld .CAL_RAMP_STEP, .fld .CAL_REFRESH_LEAD, .fld .CAL_REFRESH_SIGMA, .fld .CAL_STATUS_EXPERT]
  | .calCtrlTrace .. => orderPieces ++ [.aux .traceRun, .aux .traceWait, .fld .CAL_CTRL_TRACE, .mons]
  | .calTabDataAccess .. => orderPieces ++ [.fld .CAL_STATUS_EXPERT, .fld .CAL_STATUS_REFUSED, .fld .CAL_TAB_ADDR_INDEX, .recs, .tabs, .tiles]
  | .calHandbackGo .. => orderPieces ++ [.aux .aimDue, .aux .calCount, .aux .pendTaps, .aux .tapsNew, .calq, .fld .CAL_STATUS_EXPERT,
    .fld .HEM_TAPS_PEND, .fld .HEM_TAPS_WSTART, .fld .HEM_TAPS_WSTOP, .tabs, .tiles]
  | .mcvEntryStart .. => [.fld .MCV_PREEMPT_PROTECTED, .fld .MCV_STAT_ENTRY, .mons]
  | .mcvEntryEnd .. => dieLossPieces ++ seqPieces ++ [.aux .aimDue, .aux .mcvCount, .aux .mcvTime, .fld .CAL_STATUS_TEMP_CLAMP,
    .fld .CAL_TEMP_TJ_USED, .fld .MCV_PLAUS_FAULTS, .fld .MCV_RES_ARG, .fld .MCV_RES_CHECKED, .fld .MCV_RES_CODE,
    .fld .MCV_RES_PLAUS_FAIL, .fld .MCV_RES_VALID, .fld .MCV_RES_VALUE, .fld .MCV_STAT_FAIL_A, .fld .MCV_STAT_FAIL_B,
    .fld .MCV_TFAB_MEAN, .fld .MCV_TFAB_VALID, .tabs]
  | .urgentRequest .. => seqPieces ++ [.aux .urgCount, .fld .MCV_PREEMPT_ABORTS]
  | .urgentConversionEnd .. => seqPieces
  | .selfCalDue .. => seqPieces
  | .selfCalEnd .. => dieLossPieces ++ seqPieces ++ [.fld .MCV_CTRL_SCAL, .fld .MCV_STAT_FAIL_A, .fld .MCV_STAT_FAIL_B,
    .fld .MCV_TFAB_MEAN]
  | .mcvCtrlModeWrite .. => orderPieces ++ seqPieces ++ [.fld .MCV_CTRL_MODE, .fld .MCV_STAT_EXPERT]
  | .mcvCtrlHoldWrite .. => orderPieces ++ seqPieces ++ [.fld .MCV_CTRL_HOLD, .fld .MCV_STAT_EXPERT, .fld .MCV_STAT_REFUSED]
  | .mcvCtrlScal .. => orderPieces ++ seqPieces ++ [.fld .MCV_CTRL_SCAL]
  | .mcvCtrlClear .. => orderPieces ++ [.fld .MCV_PLAUS_FAULTS, .fld .MCV_PREEMPT_ABORTS, .fld .MCV_PREEMPT_PROTECTED,
    .fld .MCV_SIMRES_OVERRUNS]
  | .mcvCtrlHandback .. => orderPieces ++ seqPieces ++ [.fld .MCV_CTRL_HOLD, .fld .MCV_CTRL_MODE, .fld .MCV_PLAUS_FAULTS,
    .fld .MCV_PLAUS_TOL, .fld .MCV_SCAL_DTEMP, .fld .MCV_SCAL_PERIOD, .fld .MCV_SEQA_ARG, .fld .MCV_SEQA_CHAN,
    .fld .MCV_SEQA_PAIR, .fld .MCV_SEQB_ARG, .fld .MCV_SEQB_CHAN, .fld .MCV_SEQB_PAIR, .fld .MCV_SEQCFG_INTERVAL,
    .fld .MCV_SEQCFG_LEN_M1, .fld .MCV_STAT_EXPERT]
  | .mcvTrigGo .. => orderPieces ++ [.fld .MCV_SIMRES_OVERRUNS, .fld .MCV_STAT_EXPERT, .mons]
  | .mcvTimedTrigger .. => [.fld .MCV_SIMRES_OVERRUNS, .mons]
  | .simultaneousConversionEnd .. => seqPieces ++ [.fld .MCV_SIMRES_CODE_A, .fld .MCV_SIMRES_CODE_B, .fld .MCV_SIMRES_DELAYED, .fld .MCV_SIMRES_VALID,
    .fld .MCV_SIMTIME_TIME]
  | .tlmStart .. => orderPieces ++ [.aux .tlmIdleStop, .fld .TLM_CNT_ORDER_CNT, .fld .TLM_CNT_RESTART_CNT, .fld .TLM_DROP_COUNT,
    .fld .TLM_LATE_TIME, .fld .TLM_STAT_FLAGS, .fld .TLM_STAT_STATE, .fld .TLM_STAT_STATUS, .tlms]
  | .tlmStop .. => orderPieces ++ [.aux .tlmIdleStop, .fld .TLM_CNT_ORDER_CNT, .fld .TLM_STAT_FLAGS, .fld .TLM_STAT_STATE,
    .fld .TLM_STAT_STATUS, .tlms]
  | .tlmCancel .. => orderPieces ++ [.fld .TLM_STAT_FLAGS, .fld .TLM_STAT_STATE, .fld .TLM_STAT_STATUS, .tlms]
  | .tlmTimedStart .. => eventPieces ++ [.fld .TLM_STAT_FLAGS, .fld .TLM_STAT_STATE, .fld .TLM_STAT_STATUS, .tlms]
  | .tlmTimedStop .. => eventPieces ++ [.fld .TLM_STAT_FLAGS, .fld .TLM_STAT_STATE, .fld .TLM_STAT_STATUS, .tlms]
  | .tlmPeriodSample .. => eventPieces ++ [.aux .tlmGap, .aux .tlmSeen, .fld .TLM_DROP_COUNT, .fld .TLM_WRIDX_COUNT, .tlms]
  | .tlmRdidxWrite .. => orderPieces ++ [.fld .TLM_RDIDX_COUNT]
  | .bnkOwnerWrite .. => orderPieces ++ [.aux .bankTarget, .fld .BNK_OWNER_ID, .fld .BNK_OWNER_KIND, .fld .BNK_OWNER_PEND,
    .fld .BNK_STAT_EXPERT, .fld .BNK_STAT_REFUSED]
  | .bankHandover .. => completionPieces ++ bankPieces ++ [.aux .evictJobs, .aux .evictPairs]
  | .bankZeroingEnd .. => completionPieces ++ bankPieces ++ [.aux .evictJobs, .aux .evictPairs, .poison]
  | .bnkCtrlClear .. => orderPieces ++ [.fld .BNK_COLLIDE_COUNT, .fld .BNK_DENIED_COUNT, .fld .BNK_ECC_CORR_COUNT,
    .fld .BNK_ECC_UNCORR_COUNT, .fld .BNK_HANDOVERS_COUNT]
  | .bnkCtrlHandback .. => orderPieces ++ [.aux .bankTarget, .fld .BNK_OWNER_PEND, .fld .BNK_SCRUB_HOURS, .fld .BNK_STAT_EXPERT]
  | .bnkDiagGo .. => orderPieces ++ [.fld .BNK_COLLIDE_COUNT, .fld .BNK_DIAGCHK_CHECK, .fld .BNK_DIAGDATA_DATA, .fld .BNK_DIAG_BUSY,
    .fld .BNK_STAT_EXPERT, .free]
  | .bankScrub .. => eventPieces ++ [.fld .BNK_ECC_ADDR_OFFSET, .fld .BNK_ECC_CORR_COUNT, .fld .BNK_ECC_UNCORR_COUNT, .poison]
  | .lpddrPatrolScrub .. => eventPieces ++ [.devMem, .fld .MEM_CORR_COUNT, .fld .MEM_UNCORR_ADDR_OFFSET, .fld .MEM_UNCORR_COUNT, .poison]
  | .wck2dqDrift .. => [.aux .retrainEnd, .fld .MEM_CH_STATE, .fld .MEM_RETRAIN_COUNT]
  | .retrainEnd .. => dieLossPieces ++ [.aux .retrainEnd, .fld .MEM_CH_FAILS, .fld .MEM_CH_REFRATE, .fld .MEM_CH_STATE,
    .fld .MEM_CTRL_RETRAIN, .fld .MEM_RETRAIN_COUNT, .fld .MEM_STAT_TRAINED]
  | .memCtrlRetrain .. => orderPieces ++ [.aux .retrainEnd, .fld .MEM_CH_STATE, .fld .MEM_CTRL_RETRAIN, .fld .MEM_RETRAIN_COUNT,
    .fld .MEM_STAT_EXPERT]
  | .memCtrlClear .. => orderPieces ++ [.fld .MEM_CORR_COUNT, .fld .MEM_LECC_COUNT, .fld .MEM_RETRAIN_COUNT, .fld .MEM_UNCORR_COUNT]
  | .memCtrlHandback .. => orderPieces ++ [.fld .MEM_ARB_AGE, .fld .MEM_SCRUB_HOURS, .fld .MEM_STAT_EXPERT]
  | .memCfgWrite .. => orderPieces ++ [.aux .nvMem, .fld .MEM_CFG_IECC, .fld .MEM_CFG_LECC, .fld .MEM_CFG_RATE, .fld .MEM_STAT_EXPERT,
    .fld .MEM_STAT_REFUSED]
  | .qpCfgEnable .. => orderPieces ++ [.aux .flitSeq, .fld .FN_STAT_REFUSED, .fld .QP_CFG_CQLOG2, .fld .QP_CFG_ENABLE,
    .fld .QP_CFG_FUNC, .fld .QP_CFG_SQLOG2, .fld .QP_CFG_WINDOW, .fld .QP_CQHEAD_INDEX, .fld .QP_SQTAIL_INDEX,
    .fld .QP_STAT_CODE, .fld .QP_STAT_ERROR, .fld .QP_STAT_SQHEAD, .fld .QP_STAT_STATE, .flits, .qps]
  | .qpCfgDisable .. => jobEndPieces ++ orderPieces ++ [.cmds, .fld .FN_STAT_REFUSED, .fld .QP_CFG_ENABLE, .fld .QP_STAT_STATE]
  | .qpDrainEnd .. => completionPieces ++ [.aux .evictJobs, .aux .evictPairs, .fld .FNQ_OVER_KIND, .fld .QP_CFG_FUNC,
    .fld .QP_CFG_WINDOW, .fld .QP_STAT_STATE]
  | .qpSqtailWrite .. => eventPieces ++ [.aux .flitSeq, .fld .QP_SQTAIL_INDEX, .fld .QP_STAT_ERROR, .fld .QP_STAT_STATE, .flits]
  | .qpCqheadWrite .. => eventPieces ++ [.aux .flitSeq, .fld .QP_CQHEAD_INDEX, .fld .QP_STAT_ERROR, .fld .QP_STAT_STATE, .flits]
  | .descriptorFetch .. => orderPieces ++ completionPieces ++ [.fld .QP_STAT_ERROR, .fld .QP_STAT_SQHEAD, .fld .QP_STAT_STATE]
  | .parkedCommandEligible .. => [.cmds, .jobs]
  | .cmdNop .. => completionPieces
  | .jobSubmit .. => completionPieces ++ [.aux .submitCount, .jobs]
  | .jobAbort .. => jobEndPieces ++ [.cmds]
  | .programLoad .. => completionPieces ++ [.poison, .progs]
  | .programUnload .. => completionPieces ++ [.fld .FNQ_OVER_KIND, .progs]
  | .programUnloadEffect .. => eventPieces ++ [.fld .FNQ_OVER_KIND, .progs]
  | .resAlloc .. => completionPieces ++ bankPieces ++ [.allocs]
  | .resFree .. => completionPieces ++ bankPieces ++ [.allocs, .fld .FNQ_OVER_KIND]
  | .bankHost .. => completionPieces ++ bankPieces
  | .evict .. => jobEndPieces ++ [.allocs, .aux .evictJobs, .aux .evictPairs, .cmds, .fld .FN_STAT_REFUSED, .fld .QP_CFG_ENABLE,
    .fld .QP_CFG_FUNC, .fld .QP_CFG_WINDOW, .fld .QP_STAT_STATE, .progs]
  | .fnqQuotaWrite .. => orderPieces ++ [.aux .flitSeq, .aux .powerOld, .aux .rtOld, .fld .FNQ_OVER_KIND, .fld .FNQ_Q0_FEEDQ,
    .fld .FNQ_Q0_QP, .fld .FNQ_Q1_BANKS, .fld .FNQ_Q2_PAGES, .fld .FNQ_SHARE_POWER, .fld .FNQ_SHARE_RT,
    .fld .FN_STAT_REFUSED, .flits]
  | .fnqGrantWrite .. => orderPieces ++ [.aux .flitSeq, .fld .FNQ_GRANT_SLOT, .fld .FN_STAT_REFUSED, .flits, .jobs]
  | .functionLevelReset .. => jobEndPieces ++ [.allocs, .aux .evictJobs, .aux .evictPairs, .cmds, .fld .BAR2_AP_BASE, .fld .BAR2_AP_VALID,
    .fld .EVR_BASE_BASE, .fld .EVR_BASE_LOG2, .fld .EVR_CTRL_ENABLE, .fld .EVR_CTRL_RESERVE, .fld .EVR_HEAD_COUNT,
    .fld .EVR_MOD_COUNT, .fld .EVR_MOD_TIME, .fld .MSIX_ADDR_ADDR, .fld .MSIX_CTRL_MASK, .fld .MSIX_DATA_DATA,
    .fld .QP_CFG_CQLOG2, .fld .QP_CFG_ENABLE, .fld .QP_CFG_FUNC, .fld .QP_CFG_SQLOG2, .fld .QP_CFG_WINDOW,
    .fld .QP_CQBASE_BASE, .fld .QP_CQHEAD_INDEX, .fld .QP_SQBASE_BASE, .fld .QP_SQTAIL_INDEX, .fld .QP_STAT_CODE,
    .fld .QP_STAT_ERROR, .fld .QP_STAT_SQHEAD, .fld .QP_STAT_STATE, .hold, .latch, .progs]
  | .hotReset => jobEndPieces ++ [.allocs, .aux .evictJobs, .aux .evictPairs, .cmds, .fld .BAR2_AP_BASE, .fld .BAR2_AP_VALID,
    .fld .EVR_BASE_BASE, .fld .EVR_BASE_LOG2, .fld .EVR_CTRL_ENABLE, .fld .EVR_CTRL_RESERVE, .fld .EVR_HEAD_COUNT,
    .fld .EVR_MOD_COUNT, .fld .EVR_MOD_TIME, .fld .MSIX_ADDR_ADDR, .fld .MSIX_CTRL_MASK, .fld .MSIX_DATA_DATA,
    .fld .QP_CFG_CQLOG2, .fld .QP_CFG_ENABLE, .fld .QP_CFG_FUNC, .fld .QP_CFG_SQLOG2, .fld .QP_CFG_WINDOW,
    .fld .QP_CQBASE_BASE, .fld .QP_CQHEAD_INDEX, .fld .QP_SQBASE_BASE, .fld .QP_SQTAIL_INDEX, .fld .QP_STAT_CODE,
    .fld .QP_STAT_ERROR, .fld .QP_STAT_SQHEAD, .fld .QP_STAT_STATE, .hold, .latch, .progs]
  | .bar2Access .. => eventPieces ++ [.devMem, .fld .BNK_COLLIDE_COUNT, .fld .BNK_DENIED_COUNT, .fld .BNK_ECC_ADDR_OFFSET,
    .fld .BNK_ECC_CORR_COUNT, .fld .BNK_ECC_UNCORR_COUNT, .fld .FN_STAT_BAR2_DENIED, .fld .MEM_CORR_COUNT,
    .fld .MEM_LECC_COUNT, .fld .MEM_UNCORR_ADDR_OFFSET, .fld .MEM_UNCORR_COUNT, .poison]
  | .evrCtrlEnable .. => orderPieces ++ [.aux .lossPending, .aux .pfRingSeen, .aux .shadowCause, .fld .EVR_CTRL_ENABLE,
    .fld .EVR_CTRL_RESERVE, .fld .EVR_HEAD_COUNT, .fld .FN_STAT_REFUSED]
  | .evrHeadWrite .. => orderPieces ++ [.fld .EVR_HEAD_COUNT, .fld .FN_STAT_REFUSED]
  | .msixModerationTimeout .. => [.fld .MSIX_PBA_PEND, .outbox, .rings]
  | .msixUnmask .. => orderPieces ++ [.fld .MSIX_CTRL_MASK]
  | .bankPortWaitTimeout .. => jobEndPieces ++ [.aux .toHist, .fld .FLT_EXHAUSTED_COUNT, .fld .FLT_RESTARTS_COUNT, .fld .FLT_TOCNT_COUNT]
  | .dieLinkTimeout .. => dieLossPieces ++ [.aux .linkDown, .aux .linkRetrain, .aux .toHist, .fld .FLT_TOCNT_COUNT]
  | .lpddrCommandTimeout .. => dieLossPieces ++ [.aux .retrainEnd, .aux .toHist, .fld .FLT_TOCNT_COUNT, .fld .MEM_CH_FAILS, .fld .MEM_CH_STATE,
    .fld .MEM_RETRAIN_COUNT, .fld .MEM_STAT_TRAINED]
  | .dmaDescriptorTimeout .. => jobEndPieces ++ [.aux .toHist, .dmas, .fld .FLT_EXHAUSTED_COUNT, .fld .FLT_RESTARTS_COUNT, .fld .FLT_TOCNT_COUNT]
  | .sequencerProgressTimeout .. => jobEndPieces ++ [.aux .seqFailed, .aux .toHist, .fld .FLT_EXHAUSTED_COUNT, .fld .FLT_RESTARTS_COUNT,
    .fld .FLT_TOCNT_COUNT]
  | .feedQueueStarvation .. => jobEndPieces ++ [.aux .moveAt, .aux .strobeAt, .aux .toHist, .fld .FLT_EXHAUSTED_COUNT, .fld .FLT_RESTARTS_COUNT,
    .fld .FLT_TOCNT_COUNT]
  | .jobWatchdog .. => jobEndPieces ++ [.aux .toHist, .fld .FLT_EXHAUSTED_COUNT, .fld .FLT_RESTARTS_COUNT, .fld .FLT_TOCNT_COUNT]
  | .chainTransactionTimeout => jobEndPieces ++ [.aux .toHist, .fld .CHN_STAT_TIMEOUTS, .fld .FLT_EXHAUSTED_COUNT, .fld .FLT_RESTARTS_COUNT,
    .fld .FLT_TOCNT_COUNT]
  | .mgmtWatchdogMiss .. => dieLossPieces ++ startFailPieces
  | .dieRestore .. => retirePieces ++ jobEndPieces ++ calibrationPieces ++ dieRestorePieces
  | .pairHandover .. => jobEndPieces ++ [.aux .handing, .cmds]
  | .mirRegion .. => completionPieces ++ [.regions]
  | .heartbeatSend => [.aux .flitSeq, .aux .handing, .aux .hbSeen, .fld .MIR_FN_ROLE, .fld .MIR_HBMISS_COUNT, .flits, .outbox]
  | .heartbeatFlit .. => linkPieces ++ [.aux .handing, .aux .hbHeard, .aux .hbSeen, .aux .hbTimer, .aux .peerRank, .aux .peerRole,
    .aux .rankWait, .aux .syncAt, .aux .syncDue, .aux .syncEpoch, .aux .untold, .cmds, .fld .MIR_LASTHB_TIME,
    .fld .MIR_STAT_RANK_CLASH]
  | .ackFlit .. => linkPieces
  | .nakFlit .. => linkPieces ++ [.aux .hbHeard, .fld .MIR_REPLAY_COUNT, .fld .MIR_STAT_LINK, .fld .MIR_STAT_WIDTH]
  | .journalFlit .. => linkPieces ++ [.aux .flitAck, .journal, .progs]
  | .stateFlit .. => linkPieces ++ [.allocs, .aux .flitAck, .aux .peerDigest, .aux .peerModel, .aux .switchAt, .aux .switchTarget,
    .aux .syncAt, .aux .syncEpoch, .commits, .fld .FNQ_GRANT_SLOT, .fld .FNQ_Q0_FEEDQ, .fld .FNQ_Q0_QP,
    .fld .FNQ_Q1_BANKS, .fld .FNQ_Q2_PAGES, .fld .FNQ_SHARE_POWER, .fld .FNQ_SHARE_RT, .fld .JOB_CFG_RESTARTS,
    .fld .JOB_CFG_WATCHDOG, .fld .QP_CFG_CQLOG2, .fld .QP_CFG_ENABLE, .fld .QP_CFG_FUNC, .fld .QP_CFG_SQLOG2,
    .fld .QP_CQBASE_BASE, .fld .QP_CQHEAD_INDEX, .fld .QP_SQBASE_BASE, .fld .QP_SQTAIL_INDEX, .fld .QP_STAT_SQHEAD,
    .fld .QP_STAT_STATE, .journal, .progs, .regions]
  | .doorbellFlit .. => linkPieces ++ [.aux .flitAck, .fld .QP_CQHEAD_INDEX, .fld .QP_SQTAIL_INDEX, .fld .QP_STAT_ERROR,
    .fld .QP_STAT_STATE]
  | .orderFlit .. => linkPieces ++ orderPieces ++ [.allocs, .aux .flitAck, .aux .handing, .aux .peerRole, .aux .submitCount,
    .aux .switchAt, .aux .switchTarget, .cmds, .commits, .fld .MIR_FN_ROLE, .journal, .progs, .regions]
  | .flitReplayTimer => eventPieces ++ [.aux .hbHeard, .aux .syncSeq, .fld .MIR_CTRL_RESYNC, .fld .MIR_REPLAY_COUNT, .fld .MIR_STAT_LINK,
    .fld .MIR_STAT_WIDTH, .flits, .jobs]
  | .mirrorLinkTrained .. => eventPieces ++ [.aux .flitAck, .aux .flitSeq, .aux .hbHeard, .aux .stateWhole, .aux .syncDue, .fld .MIR_FN_READY,
    .fld .MIR_STAT_LINK, .fld .MIR_STAT_WIDTH]
  | .ackTimeout .. => jobEndPieces ++ [.aux .syncSeq, .fld .MIR_CTRL_RESYNC, .fld .MIR_STAT_PAIR, .poison]
  | .heartbeatTimeout => bankPieces ++ eventPieces ++ [.aux .guardAt, .aux .hbHeard, .aux .hbTimer, .aux .rankWait, .aux .syncSeq,
    .fld .FNQ_OVER_KIND, .fld .MIR_CTRL_RESYNC, .fld .MIR_FN_ROLE, .fld .MIR_STAT_LINK, .fld .MIR_STAT_PAIR,
    .fld .MIR_STAT_TAKE_DRIVE, .fld .MIR_STAT_WIDTH, .fld .MIR_TAKES_COUNT, .fld .SEQ_TASK_STATE, .flits, .jobs,
    .ops, .qps, .reqs, .tix]
  | .takeoverRankWaitEnd => bankPieces ++ eventPieces ++ [.aux .guardAt, .aux .rankWait, .aux .syncSeq, .fld .FNQ_OVER_KIND,
    .fld .MIR_CTRL_RESYNC, .fld .MIR_FN_ROLE, .fld .MIR_STAT_PAIR, .fld .MIR_STAT_TAKE_DRIVE, .fld .MIR_TAKES_COUNT,
    .fld .SEQ_TASK_STATE, .jobs, .ops, .qps, .reqs, .tix]
  | .pairTakeSeen => bankPieces ++ eventPieces ++ [.aux .syncSeq, .fld .FNQ_OVER_KIND, .fld .MIR_CTRL_RESYNC, .fld .MIR_FN_ROLE,
    .fld .MIR_STAT_PAIR, .fld .MIR_STAT_TAKE_SEEN, .fld .SEQ_TASK_STATE, .jobs, .ops, .qps, .reqs, .tix]
  | .takeoverGuardEnd => eventPieces ++ [.aux .guardAt, .aux .submitCount, .aux .syncSeq, .aux .taken, .commits, .devMem,
    .fld .MIR_CTRL_RESYNC, .fld .MIR_EPOCH_EPOCH, .fld .MIR_FN_ROLE, .fld .MIR_STAT_PAIR, .jobs, .journal, .qps]
  | .mirCfgEnableWrite .. => orderPieces ++ [.aux .hbHeard, .aux .hbTimer, .aux .syncSeq, .fld .MIR_CFG_ENABLE, .fld .MIR_CTRL_RESYNC,
    .fld .MIR_STAT_LINK, .fld .MIR_STAT_PAIR, .fld .MIR_STAT_WIDTH, .flits, .jobs]
  | .mirCfgHandback .. => orderPieces ++ [.fld .MIR_CFG_ACK_MAX, .fld .MIR_CFG_AUTO_TAKE, .fld .MIR_STAT_EXPERT]
  | .mirCtrlRelease .. => orderPieces ++ [.aux .taken, .fld .MIR_STAT_EXPERT, .fld .MIR_STAT_TAKE_DRIVE]
  | .mirCtrlResync .. => orderPieces ++ [.aux .flitSeq, .aux .stateWhole, .aux .syncAt, .aux .syncEpoch, .aux .syncSeq, .aux .taken,
    .fld .MIR_CTRL_RESYNC, .fld .MIR_EPOCH_EPOCH, .fld .MIR_FN_READY, .fld .MIR_STAT_PAIR, .fld .MIR_STAT_TAKE_DRIVE,
    .flits, .jobs]
  | .mirCtrlClear .. => orderPieces ++ [.fld .MIR_CRCERR_COUNT, .fld .MIR_HBMISS_COUNT, .fld .MIR_REPLAY_COUNT, .fld .MIR_TAKES_COUNT]
  | .mirFnMirroredWrite .. => orderPieces ++ bankPieces ++ [.allocs, .aux .flitSeq, .aux .syncSeq, .aux .untold, .commits,
    .fld .MIR_CTRL_RESYNC, .fld .MIR_FN_MIRRORED, .fld .MIR_FN_MISMATCH, .fld .MIR_FN_READY, .fld .MIR_FN_ROLE,
    .fld .MIR_STAT_PAIR, .flits, .journal, .progs, .qps, .regions]
  | .fltCtrlClear .. => orderPieces ++ [.fld .FLT_EXHAUSTED_COUNT, .fld .FLT_RESTARTS_COUNT, .fld .FLT_TOCNT_COUNT]
  | .sourceLoss .. => safeStatePieces ++ [.aux .lossAt, .aux .lossPending, .aux .lossSrc, .aux .oneShot, .aux .pcieDown,
    .fld .CLK_CTRL_MGMT_SRC, .fld .CLK_DTCTRL_HOLDOVER, .fld .CLK_LOCK_LOCK, .fld .CLK_STAT_LOSSES,
    .fld .CLK_STAT_MGMT_ON_RC, .fld .CLK_STAT_RC_READY, .fld .CLK_STAT_REFCLK_READY, .fld .CLK_STAT_XTAL_READY,
    .safeJobs]
  | .sourceReady .. => enginePieces ++ jobEndPieces ++ [.aux .lossAt, .aux .lossPending, .aux .lossSrc, .aux .nvFails, .aux .nvLast,
    .aux .oneShot, .aux .pcieDown, .aux .realign, .aux .retrainEnd, .aux .startAt, .aux .startMask,
    .fld .CLK_DTCTRL_HOLDOVER, .fld .CLK_LOCK_LOCK, .fld .CLK_STAT_MGMT_ON_RC, .fld .CLK_STAT_NOCLOCK,
    .fld .CLK_STAT_RC_READY, .fld .CLK_STAT_REFCLK_READY, .fld .CLK_STAT_SAFE, .fld .CLK_STAT_XTAL_READY,
    .fld .FLT_EXHAUSTED_COUNT, .fld .FLT_RESTARTS_COUNT, .fld .MEM_CH_STATE, .fld .MEM_RETRAIN_COUNT,
    .fld .MEM_STAT_SELF_REFRESH, .fld .START_REPORT_FAILS, .fld .START_REPORT_LAST, .fld .START_REPORT_REASON,
    .fld .START_REPORT_STATE, .fld .START_REPORT_STEP, .safeJobs]
  | .clockOneShotExpiry => [.aux .oneShot, .fld .CLK_STAT_NOCLOCK]
  | .pllRelockDone .. => [.aux .relock, .fld .CLK_LOCK_LOCK]
  | .clkPllWrite .. => orderPieces ++ [.aux .relock, .fld .CLK_LOCK_LOCK, .fld .CLK_PLL_FBDIV, .fld .CLK_PLL_POSTDIV, .fld .CLK_PLL_REF,
    .fld .CLK_PLL_REFDIV, .fld .CLK_PLL_SSC_DEPTH, .fld .CLK_PLL_SSC_RATE, .fld .CLK_STAT_EXPERT,
    .fld .CLK_STAT_REFUSED]
  | .clkCtrlMgmtSrcWrite .. => orderPieces ++ [.fld .CLK_CTRL_MGMT_SRC, .fld .CLK_STAT_EXPERT, .fld .CLK_STAT_MGMT_ON_RC, .fld .CLK_STAT_REFUSED]
  | .clkCtrlRootWrite .. => orderPieces ++ [.fld .CLK_CTRL_ROOT, .fld .CLK_GATE_STATUS_REFUSED, .fld .CLK_STAT_EXPERT]
  | .clkCtrlHandback .. => orderPieces ++ [.aux .relock, .fld .CLK_BG_GROUP, .fld .CLK_CTRL_MGMT_SRC, .fld .CLK_CTRL_ROOT,
    .fld .CLK_GATE_BLK, .fld .CLK_GATE_DIE, .fld .CLK_LOCK_LOCK, .fld .CLK_PLL_FBDIV, .fld .CLK_PLL_POSTDIV,
    .fld .CLK_PLL_REF, .fld .CLK_PLL_REFDIV, .fld .CLK_PLL_SSC_DEPTH, .fld .CLK_PLL_SSC_RATE, .fld .CLK_SG_GROUP,
    .fld .CLK_STAT_EXPERT, .fld .CLK_STAT_REFUSED]
  | .clkGateWrite .. => enginePieces ++ orderPieces ++ [.aux .gatePend, .fld .CLK_BG_GROUP, .fld .CLK_GATE_BLK, .fld .CLK_GATE_DIE,
    .fld .CLK_GATE_STATUS_PEND, .fld .CLK_GATE_STATUS_REFUSED, .fld .CLK_SG_GROUP, .fld .CLK_STAT_EXPERT]
  | .gateOffEffect .. => [.aux .gatePend, .fld .CLK_GATE_STATUS_PEND]
  | .clkDtctrlSet .. => orderPieces ++ [.dt]
  | .clkDtctrlSetPps .. => orderPieces ++ [.fld .CLK_DTCTRL_SET_PPS]
  | .timePpsEdge => eventPieces ++ [.aux .halfRate, .aux .lastPps, .aux .ppsAbsorb, .dt, .fld .CLK_DTCTRL_PPS_LOST,
    .fld .CLK_DTCTRL_REJECTS, .fld .CLK_DTCTRL_SET_PPS, .fld .MCV_SIMRES_OVERRUNS, .mons]
  | .ppsLossTimeout => eventPieces ++ [.fld .CLK_DTCTRL_PPS_LOST]
  | .powerMeasure .. => eventPieces ++ [.aux .energyRest, .aux .lastLimit, .fld .DGA_DUTY_DUTY, .fld .PKT_LIFE_ENERGY_JOULES,
    .fld .PWR_DIE_MEAS, .fld .PWR_STAT_LIMITING, .fld .YOK_THROTTLE_TICKS]
  | .thermalCheck .. => eventPieces ++ [.aux .thermCut, .fld .PWR_STAT_THERM]
  | .thermalRestoreStep .. => [.aux .thermCut, .fld .PWR_STAT_THERM]
  | .thermalComparatorTrip .. => dieLossPieces ++ [.fld .DRV_STAT_PLAYING, .fld .MEM_STAT_SELF_REFRESH, .fld .PWR_STAT_TSHUT,
    .fld .WFM_PLAY_STAT_STATUS, .free, .plays]
  | .pwrShedAssert => eventPieces ++ [.aux .shedAt, .aux .shedLong, .aux .shedMissed, .aux .shedOldDuty, .aux .shedOldThrottle,
    .aux .shedSteps, .fld .DGA_DUTY_DUTY, .fld .PWR_STAT_SHED_IN, .fld .PWR_STAT_SHED_MET, .fld .YOK_THROTTLE_TICKS]
  | .pwrShedRelease => eventPieces ++ [.aux .shedSteps, .fld .PWR_STAT_SHED_IN]
  | .shedDutyStep => [.fld .DGA_DUTY_DUTY]
  | .shedRestoreStep => [.aux .shedSteps, .fld .DGA_DUTY_DUTY, .fld .YOK_THROTTLE_TICKS]
  | .shedWindowEnd .. => eventPieces ++ [.aux .shedMissed, .fld .PWR_STAT_SHED_MET]
  | .shedAdviseExpiry => eventPieces ++ [.aux .shedLong]
  | .pwrCtrlHandback .. => orderPieces ++ [.fld .PWR_DIE_BUDGET, .fld .PWR_DIE_DGA_CAP, .fld .PWR_DIE_FAB_CAP, .fld .PWR_PKG_BUDGET_WATTS,
    .fld .PWR_SHED_BUDGET_WATTS, .fld .PWR_SHED_CFG_ADVISE, .fld .PWR_SHED_CFG_FAB_PCT, .fld .PWR_SHED_CFG_GUARD,
    .fld .PWR_STAT_EXPERT]
  | .powerGood => [.aux .coldPower, .aux .startAt, .aux .startMask, .fld .START_REPORT_STEP]
  | .startUpStepDone .. => dieLossPieces ++ retirePieces ++ startFailPieces ++ startUpStepDonePieces
  | .startTimeout => startFailPieces
  | .startRetry .. => completionPieces ++ [.aux .fwForce, .aux .nvFails, .aux .nvMem, .aux .retryAt, .aux .startLost,
    .fld .START_REPORT_FAILS]
  | .perstNAssert => safeStatePieces ++ bankPieces ++ [.aux .nvLast, .aux .perst, .fld .FNQ_OVER_KIND, .fld .SEQ_TASK_STATE, .jobs,
    .ops, .qps, .reqs, .tix]
  | .perstNRelease => []
  | .powerFailTrip .. => safeStatePieces ++ bankPieces ++ [.aux .nvLast, .aux .saveWait, .aux .shadowSkip, .fld .FNQ_OVER_KIND,
    .fld .SEQ_TASK_STATE, .jobs, .ops, .pocket, .qps, .reqs, .tix]
  | .saveRestart => []
  | .railDip => safeStatePieces ++ [.aux .railWait, .safeJobs]
  | .railRecovered => enginePieces ++ jobEndPieces ++ [.aux .lossAt, .aux .lossSrc, .aux .railWait, .aux .realign, .aux .retrainEnd,
    .fld .CLK_DTCTRL_HOLDOVER, .fld .CLK_LOCK_LOCK, .fld .CLK_STAT_MGMT_ON_RC, .fld .CLK_STAT_SAFE,
    .fld .FLT_EXHAUSTED_COUNT, .fld .FLT_RESTARTS_COUNT, .fld .MEM_CH_STATE, .fld .MEM_RETRAIN_COUNT,
    .fld .MEM_STAT_SELF_REFRESH, .safeJobs]
  | .pktDataAccess .. => orderPieces ++ [.fld .PKT_ADDR_WORD, .fld .PKT_STAT_DENIED, .fld .PKT_STAT_REFUSED, .free, .pocket]
  | .pktUnlockWrite .. => orderPieces ++ [.aux .pktOpen, .aux .pktWrong, .fld .PKT_UNLOCK_PASSWORD, .hold]
  | .pktUnlockselRelock .. => orderPieces ++ [.aux .pktOpen]
  | .pocketRead .. => completionPieces ++ [.fld .PKT_STAT_DENIED, .fld .PKT_STAT_REFUSED, .free]
  | .pocketWrite .. => completionPieces ++ [.fld .PKT_STAT_DENIED, .fld .PKT_STAT_REFUSED, .pocket]
  | .pocketErase .. => completionPieces ++ [.fld .PKT_STAT_DENIED, .fld .PKT_STAT_REFUSED, .pocket]
  | .pocketProtect .. => completionPieces ++ [.aux .pageLock, .aux .pktPass, .aux .pktWrong, .fld .PKT_STAT_DENIED, .fld .PKT_STAT_MODE,
    .fld .PKT_STAT_REFUSED]
  | .chnCfgPecWrite .. => orderPieces ++ [.fld .CHN_CFG_PEC]
  | .vddAonGood => []
  | .bypassSwitchOpen => [.aux .chainBeat, .fld .CHN_STAT_BYPASS, .fld .CHN_STAT_CHAIN_OUT]
  | .chainHeartbeatToggle => [.aux .chainBeat]
  | .chainSupervisorTimeout => eventPieces ++ [.aux .bypassed, .fld .CHN_STAT_BYPASS, .fld .CHN_STAT_CHAIN_OUT]
  | .identify .. => [.aux .chainStatus, .fld .CHN_STAT_CHAIN_IN, .fld .CHN_STAT_CHAIN_OUT, .outbox]
  | .assign .. => eventPieces ++ [.aux .chainStatus, .aux .pecAt, .fld .CHN_CFG_ADDR, .fld .CHN_CFG_VALID, .fld .CHN_STAT_CHAIN_IN,
    .fld .CHN_STAT_CHAIN_OUT, .fld .CHN_STAT_PEC_ERR]
  | .clearAddr .. => eventPieces ++ [.aux .chainStatus, .aux .pecAt, .fld .CHN_CFG_ADDR, .fld .CHN_CFG_VALID, .fld .CHN_STAT_CHAIN_IN,
    .fld .CHN_STAT_CHAIN_OUT, .fld .CHN_STAT_PEC_ERR]
  | .chainStatus .. => [.aux .chainStatus, .fld .CHN_STAT_CHAIN_IN, .fld .CHN_STAT_CHAIN_OUT, .outbox]
  | .regRead .. => [.aux .chainStatus, .fld .CAL_TAB_ADDR_INDEX, .fld .CHN_STAT_CHAIN_IN, .fld .CHN_STAT_CHAIN_OUT,
    .fld .PKT_ADDR_WORD, .fld .PKT_STAT_DENIED, .fld .PKT_STAT_REFUSED, .fld .WFM_ADDR_POINT, .fld .WFM_ADDR_WAVE,
    .free, .latch, .outbox]
  | .regWrite .. => enginePieces ++ jobEndPieces ++ seqPieces ++ orderPieces ++ regWritePieces
  | .chainPocketRead .. => [.aux .chainStatus, .fld .CHN_STAT_CHAIN_IN, .fld .CHN_STAT_CHAIN_OUT, .fld .PKT_STAT_DENIED,
    .fld .PKT_STAT_REFUSED, .free, .outbox]
  | .chainPocketWrite .. => orderPieces ++ [.aux .chainStatus, .aux .pecAt, .fld .CHN_STAT_CHAIN_IN, .fld .CHN_STAT_CHAIN_OUT,
    .fld .CHN_STAT_PEC_ERR, .fld .PKT_STAT_DENIED, .fld .PKT_STAT_REFUSED, .pocket]
  | .bypass .. => eventPieces ++ [.aux .bypassed, .aux .chainStatus, .aux .pecAt, .fld .CHN_STAT_BYPASS, .fld .CHN_STAT_CHAIN_IN,
    .fld .CHN_STAT_CHAIN_OUT, .fld .CHN_STAT_PEC_ERR]
  | .lastStatus .. => [.fld .CHN_STAT_CHAIN_IN, .fld .CHN_STAT_CHAIN_OUT, .outbox]
  | .pairTakeReleased => [.fld .MIR_FN_ROLE, .fld .MIR_STAT_PAIR, .fld .MIR_STAT_TAKE_SEEN]
  | .dieLinkRetrained .. => [.aux .linkRetrain]
  | .ppsErrorAbsorbed => [.aux .halfRate]

/-- The cold resets (R438, R478, R486). -/
def coldReset : Instr → Bool
  | .vddAonGood | .perstNRelease | .saveRestart => true
  | _ => false

/-- The commands that write whole registers. -/
def writesRegisters : Instr → Bool
  | .registerWrite .. | .regWrite .. => true
  | _ => false

/-- What every cold reset keeps: the Pocket, the protection with its locks and passwords, what the record space holds of the
tiles, and the model's own record of what was sent. -/
def coldKept : List Piece :=
  [.pocket, .recs, .outbox, .free, .aux .recSlot, .aux .recRole, .aux .recGen, .fld .PKT_STAT_MODE, .fld .CHN_CFG_PEC, .fld .TIL_STATUS_REPLACES, .fld .TIL_SPARES_SPARE_COLS_FREE,
    .fld .TIL_SPARES_SPARE_CONV_FREE, .fld .TIL_SPARECOL_BLK0, .fld .TIL_SPARECOL_BLK1, .fld .TIL_SPARECOL_BLK2,
    .fld .TIL_SPARECOL_BLK3, .aux .pageLock, .aux .pktPass, .aux .nvFails, .aux .nvLast, .aux .nvMem]

/-- Every register field of the dies other than `d` reads alike. -/
def SameOtherDies (d : Nat) (s t : State) : Prop := ∀ f d' i j, d' ≠ d → t.rd f d' i j = s.rd f d' i j

/-- Every register field of every other tile, and of every die but `d`, reads alike. -/
def SameOtherTiles (d tile : Nat) (s t : State) : Prop :=
  ∀ f d' i j, ¬(d' = d ∧ i = tile) → t.rd f d' i j = s.rd f d' i j

/-- The writes of the registers of one die that reach no other die's registers. -/
def dieWrites (d : Nat) (o : Order) : List Instr :=
  [.dgaCtrlHoldWrite d o, .dgaCtrlClear d o, .dgaCtrlHandback d o, .calCtrlClear d o, .memCtrlClear d o, .memCtrlHandback d o,
    .memCfgWrite d o, .bnkCtrlClear d o, .bnkCtrlHandback d o, .prgCtrlClear d o, .prgStoreWrite d o, .seqCtrlHandback d o]

/-- The writes of the registers of one tile that reach no other tile's registers. -/
def tileWrites (d tile : Nat) (o : Order) : List Instr :=
  [.tilCtrlHoldWrite d tile o, .tilCtrlHandback d tile o, .tilCtrlPrecisionWrite d tile o, .drvSlewWrite d tile o,
    .drvCfgHandback d tile o, .hemCfgWrite d tile o, .hemTapsWrite d tile o, .hemCtrlClear d tile o, .hemCtrlHandback d tile o]

/-- The instructions of one task that, when they retire, change nothing of any other task. -/
def taskInstructions (r : TaskRef) : List Instr :=
  [.nop r, .br r, .brc r, .aluImmediate r, .aluRegister r, .cmp r, .cmpi r, .predicateOp r, .tdset r, .tdget r, .tdcpy r, .tdinv r,
    .tdadd r, .ctx r]

/-- Register fields whose tables give a reset value other than 0, with that value, part 1. -/
def tableResets1 : List (Field × Nat) :=
  [(.TIL_STATUS_REPLACES, 2047), (.TIL_EXTENT_ROWS_M1, 1023), (.TIL_EXTENT_COLS_M1, 511), (.TIL_CHECK_TOL, 16),
    (.TIL_SPARECOL_BLK3, 255), (.TIL_SPARECOL_BLK2, 255), (.TIL_SPARECOL_BLK1, 255), (.TIL_SPARECOL_BLK0, 255),
    (.DRV_CFG_SPAN, 1), (.DRV_CFG_FS, 3), (.DRV_SLEW_STEP, 32)]

/-- Register fields whose tables give a reset value other than 0, with that value, part 2. -/
def tableResets2 : List (Field × Nat) :=
  [(.WFM_PLAY_CTRL_WAVE, 32), (.WFM_PLAY_CTRL_INTERVAL, 4), (.WFM_PLAY_TARGET_ROWS_M1, 1023), (.HEM_CFG_RANGE, 2),
    (.HEM_SAT_LIMIT, 8), (.HEM_TAPS_WSTOP, 20), (.HEM_TAPS_WSTART, 20), (.HEM_CONVSUB_SP75, 127), (.HEM_CONVSUB_SP74,
    127), (.HEM_CONVSUB_SP73, 127), (.HEM_CONVSUB_SP72, 127)]

/-- Register fields whose tables give a reset value other than 0, with that value, part 3. -/
def tableResets3 : List (Field × Nat) :=
  [(.HEM_REFCHK_TOL, 6), (.YOK_CTRL_SPLIT_EN, 1), (.YOK_PERIOD_TICKS, 400), (.YOK_SETTLE_LAST, 24), (.YOK_SETTLE_MAX,
    4096), (.YOK_SEAM_SWITCH_MAX, 10), (.YOK_SEAM_INTERVAL, 256), (.YOK_IBUDGET_BUDGET, 1920), (.YOK_ACCT_WINDOW, 1024),
    (.SEQ_CFG_RESERVE0, 2), (.DGA_DUTY_DUTY, 256)]

/-- Register fields whose tables give a reset value other than 0, with that value, part 4. -/
def tableResets4 : List (Field × Nat) :=
  [(.PRG_CFG_VTOL, 8), (.PRG_CFG_INC_LIMIT, 24), (.PRG_CFG_ITER_LIMIT, 14), (.PRG_STORE_GIB, 4), (.CAL_CFG_STAGE, 1),
    (.CAL_CFG_FULL_DAYS, 7), (.CAL_CFG_PAR, 4), (.CAL_DRIFT_DTEMP, 4), (.CAL_DRIFT_INTERVAL, 60), (.CAL_TRACE_PERIOD,
    10), (.CAL_TRACE_DTEMP, 5)]

/-- Register fields whose tables give a reset value other than 0, with that value, part 5. -/
def tableResets5 : List (Field × Nat) :=
  [(.CAL_RAMP_STEP, 1), (.CAL_RAMP_SEAMS, 64), (.CAL_LIMIT_MSE, 256), (.CAL_LIMIT_DSTEP, 20), (.CAL_REFRESH_LEAD, 24),
    (.CAL_REFRESH_SIGMA, 64), (.CAL_TAB_STAT_RESULT, 255), (.MCV_SEQCFG_LEN_M1, 31), (.MCV_SEQCFG_INTERVAL, 2),
    (.MCV_PLAUS_TOL, 64), (.MCV_SCAL_PERIOD, 60)]

/-- Register fields whose tables give a reset value other than 0, with that value, part 6. -/
def tableResets6 : List (Field × Nat) :=
  [(.MCV_SCAL_DTEMP, 5), (.TLM_PERIOD_PERIOD, 1000), (.TLM_RING_LOG2, 8), (.BNK_SCRUB_HOURS, 24), (.MEM_CFG_IECC, 1),
    (.MEM_CFG_LECC, 1), (.MEM_CFG_RATE, 2), (.MEM_ARB_AGE, 20), (.MEM_SCRUB_HOURS, 24), (.JOB_CFG_WATCHDOG, 1000),
    (.JOB_CFG_RESTARTS, 2)]

/-- Register fields whose tables give a reset value other than 0, with that value, part 7. -/
def tableResets7 : List (Field × Nat) :=
  [(.EVR_BASE_LOG2, 8), (.EVR_CTRL_RESERVE, 16), (.EVR_MOD_COUNT, 1), (.QP_CFG_SQLOG2, 4), (.QP_CFG_CQLOG2, 4),
    (.FNQ_SHARE_POWER, 65535), (.FNQ_SHARE_RT, 65535), (.MIR_CFG_AUTO_TAKE, 1), (.MIR_CFG_ACK_MAX, 200),
    (.CLK_CTRL_ROOT, 1), (.CLK_PLL_SSC_RATE, 30)]

/-- Register fields whose tables give a reset value other than 0, with that value, part 8. -/
def tableResets8 : List (Field × Nat) :=
  [(.CLK_GATE_DIE, 1), (.CLK_GATE_BLK, 255), (.CLK_BG_GROUP, 1023), (.CLK_DTCTRL_WINDOW, 1000), (.PWR_SHED_CFG_FAB_PCT,
    50), (.PWR_SHED_CFG_GUARD, 2), (.PWR_SHED_CFG_ADVISE, 60), (.PWR_THERM_MARGIN, 5), (.PWR_DIE_BUDGET, 384),
    (.PWR_DIE_FAB_CAP, 80), (.PWR_DIE_DGA_CAP, 192)]

/-- The register fields whose tables give a reset value other than 0, with that value. -/
def tableResets : List (Field × Nat) :=
  tableResets1 ++ tableResets2 ++ tableResets3 ++ tableResets4 ++ tableResets5 ++ tableResets6 ++ tableResets7 ++ tableResets8

end Sys2Proof.Machine
end

