-- ==== Sys2Proof/Certificates/Slice0/Obligations.lean ====
section
/-!
DEFINITION. Certificates/Slice0/Obligations.lean: the statements for the provers. Each names the rules of the spec that it
rests on; `Does c s P` says that command `c` on `s` answers a next state of which `P` holds.
-/

open Sys2Proof Sys2Proof.Machine

/-- Queue pairs: enabling, draining, freeing, and the two doorbells (R391, R392, R393, R395). Each clause names a command,
the states and operands that it speaks of, and what holds of the next state that the command then answers. The clauses:
enable by the PF: within its quota, pair e being free, log2 sizes 4 to 12 make entry e ACTIVE with its counts at zero, bound
to pair e; enable by a VF: the same, bound to the lowest free pair; enable over the quota, or with no free pair: the entry
stays as it is and QP_STAT.CODE is REJECTED_QUOTA; disable: the pair drains; its fetched commands that are not running and
its jobs that have not committed leave; disable by the PF of an entry whose pair belongs to a VF: refused, and nothing of the
pair changes; drain end: with no command outstanding a draining pair becomes DISABLED and is free; submission doorbell: an
index of the ring, at or past the tail, is taken; submission doorbell: an index outside the ring puts the pair in ERROR with
cause 1; submission doorbell: an index before the tail puts the pair in ERROR with cause 3; completion doorbell: an index
that does not pass the completions written is taken. Readings and choices of the model that it rests on: log entry 50. -/
def Obligations.QueuePairRegisters : Prop :=
  ∀ (s : State) (fn e : Nat) (o : Order), Alone o → ownFn o.w.by' = fn → s.standby fn = false →
    (fn = 0 → s.qp e = none → e < entryCount fn → s.rd .QP_STAT_STATE fn e = 0 → 4 ≤ o.w.v / 16 % 16 → o.w.v / 16 % 16 ≤ 12 → 4 ≤ o.w.v % 16 → o.w.v %
      16 ≤ 12 → s.held fn resQP < s.quota fn resQP → Does (.qpCfgEnable e o) s (fun x => x.rd .QP_STAT_STATE fn e = 1 ∧ x.rd .QP_CFG_ENABLE fn e = 1 ∧
      x.rd .QP_CFG_SQLOG2 fn e = o.w.v / 16 % 16 ∧ x.rd .QP_CFG_CQLOG2 fn e = o.w.v % 16 ∧ x.rd .QP_STAT_SQHEAD fn e = 0 ∧ x.rd .QP_SQTAIL_INDEX fn e =
      0 ∧ x.rd .QP_CQHEAD_INDEX fn e = 0 ∧ x.rd .QP_STAT_ERROR fn e = 0 ∧ x.qp e = some (QpSt.mk fn e 0 0 0 none))) ∧
    (∀ (q : Nat), 0 < fn → findLow 4096 (fun q => (s.qp q).isNone) = some q → e < entryCount fn → s.rd .QP_STAT_STATE fn e = 0 → 4 ≤ o.w.v / 16 % 16 →
      o.w.v / 16 % 16 ≤ 12 → 4 ≤ o.w.v % 16 → o.w.v % 16 ≤ 12 → s.held fn resQP < s.quota fn resQP → Does (.qpCfgEnable e o) s (fun x =>
      x.rd .QP_STAT_STATE fn e = 1 ∧ x.rd .QP_CFG_ENABLE fn e = 1 ∧ x.rd .QP_CFG_SQLOG2 fn e = o.w.v / 16 % 16 ∧ x.rd .QP_CFG_CQLOG2 fn e = o.w.v % 16 ∧
      x.rd .QP_STAT_SQHEAD fn e = 0 ∧ x.rd .QP_SQTAIL_INDEX fn e = 0 ∧ x.rd .QP_CQHEAD_INDEX fn e = 0 ∧ x.rd .QP_STAT_ERROR fn e = 0 ∧ x.qp q = some
      (QpSt.mk fn e 0 0 0 none))) ∧
    (fn = 0 → s.qp e = none → e < entryCount fn → s.rd .QP_STAT_STATE fn e = 0 → 4 ≤ o.w.v / 16 % 16 → o.w.v / 16 % 16 ≤ 12 → 4 ≤ o.w.v % 16 → o.w.v %
      16 ≤ 12 → s.quota fn resQP ≤ s.held fn resQP → Does (.qpCfgEnable e o) s (fun x => x.rd .QP_STAT_STATE fn e = 0 ∧ x.rd .QP_STAT_CODE fn e =
      stRejectedQuota ∧ x.rd .FN_STAT_REFUSED fn = 1 ∧ x.qps = s.qps)) ∧
    (∀ (q : Nat), s.foreignEntry fn e = false → s.pairOf fn e = some q → s.rd .QP_STAT_STATE fn e = 1 → Does (.qpCfgDisable e o) s (fun x =>
      x.rd .QP_STAT_STATE fn e = 2 ∧ x.rd .QP_CFG_ENABLE fn e = 0 ∧ (∀ k ∈ x.cmds, k.q = q → k.st = .running) ∧ (∀ j ∈ x.jobs, j.q = q → j.st
      = .ackWait))) ∧
    (s.foreignEntry fn e = true → Does (.qpCfgDisable e o) s (fun x => x.rd .FN_STAT_REFUSED 0 = 1 ∧ x.qps = s.qps ∧ x.rd .QP_STAT_STATE 0 e =
      s.rd .QP_STAT_STATE 0 e)) ∧
    (∀ (q : Nat) (p : QpSt), s.qp q = some p → p.outstanding = 0 → s.rd .QP_STAT_STATE p.fn p.entry = 2 → Does (.qpDrainEnd q) s (fun x => x.qp q =
      none ∧ x.rd .QP_STAT_STATE p.fn p.entry = 0 ∧ x.rd .QP_CFG_FUNC p.fn p.entry = 0)) ∧
    (s.rd .QP_STAT_STATE fn e = 1 → o.w.v < 2 ^ s.rd .QP_CFG_SQLOG2 fn e → o.w.v < 4096 → (s.rd .QP_SQTAIL_INDEX fn e + 2 ^ s.rd .QP_CFG_SQLOG2 fn e -
      s.rd .QP_STAT_SQHEAD fn e) % 2 ^ s.rd .QP_CFG_SQLOG2 fn e ≤ (o.w.v + 2 ^ s.rd .QP_CFG_SQLOG2 fn e - s.rd .QP_STAT_SQHEAD fn e) % 2 ^
      s.rd .QP_CFG_SQLOG2 fn e → Does (.qpSqtailWrite e o) s (fun x => x.rd .QP_SQTAIL_INDEX fn e = o.w.v ∧ x.rd .QP_STAT_STATE fn e = 1)) ∧
    (s.rd .QP_STAT_STATE fn e = 1 → 2 ^ s.rd .QP_CFG_SQLOG2 fn e ≤ o.w.v → Does (.qpSqtailWrite e o) s (fun x => x.rd .QP_SQTAIL_INDEX fn e =
      s.rd .QP_SQTAIL_INDEX fn e ∧ x.rd .QP_STAT_STATE fn e = 3 ∧ x.rd .QP_STAT_ERROR fn e = 1)) ∧
    (s.rd .QP_STAT_STATE fn e = 1 → o.w.v < 2 ^ s.rd .QP_CFG_SQLOG2 fn e → (o.w.v + 2 ^ s.rd .QP_CFG_SQLOG2 fn e - s.rd .QP_STAT_SQHEAD fn e) % 2 ^
      s.rd .QP_CFG_SQLOG2 fn e < (s.rd .QP_SQTAIL_INDEX fn e + 2 ^ s.rd .QP_CFG_SQLOG2 fn e - s.rd .QP_STAT_SQHEAD fn e) % 2 ^ s.rd .QP_CFG_SQLOG2 fn e
      → Does (.qpSqtailWrite e o) s (fun x => x.rd .QP_SQTAIL_INDEX fn e = s.rd .QP_SQTAIL_INDEX fn e ∧ x.rd .QP_STAT_STATE fn e = 3 ∧
      x.rd .QP_STAT_ERROR fn e = 3)) ∧
    (∀ (q : Nat), s.pairOf fn e = some q → s.rd .QP_STAT_STATE fn e = 1 → o.w.v < 2 ^ s.rd .QP_CFG_CQLOG2 fn e → o.w.v < 4096 → (o.w.v + 2 ^
      s.rd .QP_CFG_CQLOG2 fn e - s.rd .QP_CQHEAD_INDEX fn e) % 2 ^ s.rd .QP_CFG_CQLOG2 fn e ≤ s.unread q → Does (.qpCqheadWrite e o) s (fun x =>
      x.rd .QP_CQHEAD_INDEX fn e = o.w.v ∧ x.rd .QP_STAT_STATE fn e = 1))

/-- How a command enters the block: descriptors fetched, parked and eligible (R392, R396, R403, R401). Each clause names a
command, the states and operands that it speaks of, and what holds of the next state that the command then answers. The
clauses: a well-formed descriptor that its function may issue, with AT not in the future, is fetched: the head advances and
the command joins the fetched ones; one that is not well-formed is fetched and leaves at once: it joins no list; one other
than JOB_SUBMIT whose AT lies ahead is parked while fewer than 1,024 are; a descriptor that cannot be read puts the pair in
ERROR with cause 2; at AT, a parked command is eligible; at AT, a parked job waits for the dispatcher. Readings and choices
of the model that it rests on: log entries 46 and 48. -/
def Obligations.CommandIntake : Prop :=
  ∀ (s : State) (q : Nat),
    (∀ (p : QpSt) (b : BitVec 512), s.qp q = some p → s.rd .QP_STAT_STATE p.fn p.entry = 1 → s.rd .QP_STAT_SQHEAD p.fn p.entry ≠ s.rd .QP_SQTAIL_INDEX
      p.fn p.entry → s.rd .QP_CFG_SQLOG2 p.fn p.entry ≤ 12 → p.outstanding + 1 < 2 ^ s.rd .QP_CFG_CQLOG2 p.fn p.entry → s.rd .MIR_FN_ROLE 0 p.fn < 2 →
      s.ax .handing p.fn = 0 → s.ax .pcieDown = 0 → descWellFormed b.toNat = true → p.fn = 0 ∨ pfOnly (fromByte b.toNat 0 1) = false →
      s.rd .START_REPORT_STATE ≠ 2 → fromByte b.toNat 8 8 ≤ s.now → Does (.descriptorFetch q (.ok b) none) s (fun x => x.rd .QP_STAT_SQHEAD p.fn p.entry
      = (s.rd .QP_STAT_SQHEAD p.fn p.entry + 1) % 2 ^ s.rd .QP_CFG_SQLOG2 p.fn p.entry ∧ x.qp q = some
      { p with fetched := p.fetched + 1, outstanding := p.outstanding + 1 } ∧ x.cmds = s.cmds ++ [cmdOf p.fn q p.fetched b.toNat])) ∧
    (∀ (p : QpSt) (b : BitVec 512), s.qp q = some p → s.rd .QP_STAT_STATE p.fn p.entry = 1 → s.rd .QP_STAT_SQHEAD p.fn p.entry ≠ s.rd .QP_SQTAIL_INDEX
      p.fn p.entry → p.outstanding + 1 < 2 ^ s.rd .QP_CFG_CQLOG2 p.fn p.entry → s.rd .MIR_FN_ROLE 0 p.fn < 2 → s.ax .handing p.fn = 0 → s.ax .pcieDown =
      0 → s.rd .QP_CFG_SQLOG2 p.fn p.entry ≤ 12 → descWellFormed b.toNat = false → Does (.descriptorFetch q (.ok b) none) s (fun x =>
      x.rd .QP_STAT_SQHEAD p.fn p.entry = (s.rd .QP_STAT_SQHEAD p.fn p.entry + 1) % 2 ^ s.rd .QP_CFG_SQLOG2 p.fn p.entry ∧ x.cmds = s.cmds.filter (fun k
      => k.id != (cmdOf p.fn q p.fetched b.toNat).id))) ∧
    (∀ (p : QpSt) (b : BitVec 512), s.qp q = some p → s.rd .QP_STAT_STATE p.fn p.entry = 1 → s.rd .QP_STAT_SQHEAD p.fn p.entry ≠ s.rd .QP_SQTAIL_INDEX
      p.fn p.entry → p.outstanding + 1 < 2 ^ s.rd .QP_CFG_CQLOG2 p.fn p.entry → s.rd .MIR_FN_ROLE 0 p.fn < 2 → s.ax .handing p.fn = 0 → s.ax .pcieDown =
      0 → descWellFormed b.toNat = true → p.fn = 0 ∨ pfOnly (fromByte b.toNat 0 1) = false → s.rd .START_REPORT_STATE ≠ 2 → fromByte b.toNat 0 1 ≠
      opJobSubmit → s.now < fromByte b.toNat 8 8 → s.parkedCount < 1024 → Does (.descriptorFetch q (.ok b) none) s (fun x =>
      { cmdOf p.fn q p.fetched b.toNat with st := .parked } ∈ x.cmds)) ∧
    (∀ (p : QpSt) (e : HostErr), s.qp q = some p → s.rd .QP_STAT_STATE p.fn p.entry = 1 → s.rd .QP_STAT_SQHEAD p.fn p.entry ≠ s.rd .QP_SQTAIL_INDEX
      p.fn p.entry → p.outstanding + 1 < 2 ^ s.rd .QP_CFG_CQLOG2 p.fn p.entry → s.rd .MIR_FN_ROLE 0 p.fn < 2 → s.ax .handing p.fn = 0 → s.ax .pcieDown =
      0 → Does (.descriptorFetch q (.error e) none) s (fun x => x.rd .QP_STAT_STATE p.fn p.entry = 3 ∧ x.rd .QP_STAT_ERROR p.fn p.entry = 2 ∧ x.cmds =
      s.cmds)) ∧
    (∀ (c : Cmd), c ∈ s.cmds → c.st = .parked → c.at' ≤ s.now → Does (.parkedCommandEligible c.id) s (fun x => { c with st := .ready } ∈ x.cmds)) ∧
    (∀ (j : Job), j ∈ s.jobs → j.st = .parked → j.at' ≤ s.now → Does (.parkedCommandEligible j.id) s (fun x => { j with st := .waiting } ∈ x.jobs))

/-- Host commands on jobs and programs (R397, R402, R403, R407, R209, R400). Each clause names a command, the states and
operands that it speaks of, and what holds of the next state that the command then answers. The clauses: NOP; JOB_SUBMIT that
passes its checks, with AT past or room to park: the job joins the jobs with the grants of its function, and the command
leaves (its completion is the job's); JOB_SUBMIT that fails a check completes with its status; JOB_ABORT of a job of the
function, or by the PF: the job ends with ABORTED_BY_HOST and the command completes with OK; JOB_ABORT of no job: OK with
result 1; PROGRAM_UNLOAD of a program that no job runs: it leaves; PROGRAM_UNLOAD of one that a job runs: it is marked and
stays; a program being unloaded leaves once no job runs it. Readings and choices of the model that it rests on: log entries
12 and 129. -/
def Obligations.JobAndProgramCommands : Prop :=
  ∀ (s : State) (id : Nat) (c : Cmd),
    (s.readyCmd id opNop = some c → Does (.cmdNop id) s (fun x => Completed (s.started c) stOK 0 s x)) ∧
    (s.readyCmd id opJobSubmit = some c → s.submitCheck (s.started c) = none → (s.started c).at' ≤ s.now ∨ s.parkedCount < 1024 → Does (.jobSubmit id)
      s (fun x => x.jobs = s.jobs ++ [{ jobOf (s.started c) (s.ax .submitCount) s.now with grants := s.rd .FNQ_GRANT_SLOT (s.started c).fn }] ∧
      x.ax .submitCount = s.ax .submitCount + 1 ∧ (∀ k ∈ x.cmds, k.id ≠ (s.started c).id))) ∧
    (∀ (st : Nat), s.readyCmd id opJobSubmit = some c → s.submitCheck (s.started c) = some st → Does (.jobSubmit id) s (fun x => x.jobs = s.jobs ∧
      Completed (s.started c) st 0 s x)) ∧
    (∀ (j : Job), s.readyCmd id opJobAbort = some c → s.job ((s.started c).b 16 8) = some j → (s.started c).fn = 0 ∨ j.fn = (s.started c).fn → j.st
      ≠ .ackWait → Does (.jobAbort id) s (fun x => x = (s.endJob j.id stAbortedByHost).completeCmd (s.started c) stOK 0 ∧ x.job ((s.started c).b 16 8) =
      none)) ∧
    (s.readyCmd id opJobAbort = some c → s.job ((s.started c).b 16 8) = none → Does (.jobAbort id) s (fun x => Completed (s.started c) stOK 1 s x ∧
      x.jobs = s.jobs)) ∧
    (∀ (p : Prog), s.readyCmd id opProgUnload = some c → s.progs.find? (fun p => p.handle == (s.started c).b 16 2 && p.fn == (s.started c).fn &&
      !p.unloading) = some p → s.jobs.any (fun j => j.handle == p.handle) = false → Does (.programUnload id) s (fun x => Completed (s.started c) stOK 0
      s x ∧ x.prog p.handle = none)) ∧
    (∀ (p : Prog), s.readyCmd id opProgUnload = some c → s.progs.find? (fun p => p.handle == (s.started c).b 16 2 && p.fn == (s.started c).fn &&
      !p.unloading) = some p → s.jobs.any (fun j => j.handle == p.handle) = true → Does (.programUnload id) s (fun x => Completed (s.started c) stOK 0 s
      x ∧ { p with unloading := true } ∈ x.progs)) ∧
    (∀ (p : Prog), s.prog p.handle = some p → p.unloading = true → s.jobs.any (fun j => j.handle == p.handle) = false → Does (.programUnloadEffect
      p.handle) s (fun x => x.prog p.handle = none))

/-- What the host commands on resources do (R399, R408, R369, R411, R400). Each clause names a command, the states and
operands that it speaks of, and what holds of the next state that the command then answers. The clauses: RES_ALLOC of feed
queues within the quota: the lowest free run, answered as the result; RES_ALLOC of banks of one die: the lowest free run,
answered with its die; RES_ALLOC of pages of one die: the lowest free run, answered with its die; RES_FREE of held feed
queues; RES_FREE of held banks of a die whose banks firmware manages; RES_FREE of held pages; BANK_HOST of held banks of a
die whose banks firmware manages: they go to the host window or to the sequencer of the function; EVICT of a VF with scope 0:
no job of it stays but those that have committed, and the command has left; EVICT of a VF with scope 1 or 2: no job of it
stays but those that have committed, and the command runs until what it took has drained; when the last pair that an EVICT
took has drained and no bank of the function is being zeroed, the command leaves. Readings and choices of the model that it
rests on: log entry 14. -/
def Obligations.ResourceCommands : Prop :=
  ∀ (s : State) (id : Nat) (c : Cmd),
    (∀ (q : Nat), s.readyCmd id opResAlloc = some c → (s.started c).b 16 1 = 1 → (s.started c).b 17 1 = 0xFF → bit ((s.started c).b 18 1) 0 = false →
      0 < (s.started c).b 20 4 → s.onlineDies.isEmpty = false → s.held (s.started c).fn 2 + (s.started c).b 20 4 ≤ s.quota (s.started c).fn 2 →
      s.freeQueues ((s.started c).b 20 4) = some q → Does (.resAlloc id) s (fun x => x.allocs = s.allocs ++ [⟨(s.started c).fn, 1, 0, q, (s.started c).b
      20 4⟩] ∧ Completed (s.started c) stOK q s x)) ∧
    (∀ (b : Nat), s.readyCmd id opResAlloc = some c → (s.started c).b 16 1 = 2 → s.online ((s.started c).b 17 1) = true → (s.started c).b 17 1 < 8 → 0
      < (s.started c).b 20 4 → (s.started c).b 20 4 ≤ 80 → s.rdb .BNK_STAT_EXPERT ((s.started c).b 17 1) = false → s.held (s.started c).fn 3 +
      (s.started c).b 20 4 ≤ s.quota (s.started c).fn 3 → s.freeBanks ((s.started c).b 17 1) ((s.started c).b 20 4) = some b → Does (.resAlloc id) s
      (fun x => x.allocs = s.allocs ++ [⟨(s.started c).fn, 2, (s.started c).b 17 1, b, (s.started c).b 20 4⟩] ∧ Completed (s.started c) stOK ((s.started
      c).b 17 1 * 256 + b) s x)) ∧
    (∀ (p : Nat), s.readyCmd id opResAlloc = some c → (s.started c).b 16 1 = 3 → s.online ((s.started c).b 17 1) = true → (s.started c).b 17 1 < 8 →
      bit ((s.started c).b 18 1) 0 = false → 0 < (s.started c).b 20 4 → s.held (s.started c).fn 4 + (s.started c).b 20 4 ≤ s.quota (s.started c).fn 4 →
      s.freePages ((s.started c).b 17 1) ((s.started c).b 20 4) = some p → Does (.resAlloc id) s (fun x => x.allocs = s.allocs ++ [⟨(s.started c).fn, 3,
      (s.started c).b 17 1, p, (s.started c).b 20 4⟩] ∧ Completed (s.started c) stOK ((s.started c).b 17 1 * 2 ^ 29 + p) s x)) ∧
    (s.readyCmd id opResFree = some c → (s.started c).b 16 1 = 1 → 0 < (s.started c).b 20 4 → s.covers (s.started c).fn 1 0 ((s.started c).b 24 4)
      ((s.started c).b 20 4) = true → Does (.resFree id) s (fun x => x.allocs = s.allocs.flatMap (fun b => if b.within (s.started c).fn 1 0 ((s.started
      c).b 24 4) ((s.started c).b 20 4) = 0 then [b] else cutAlloc b ((s.started c).b 24 4) ((s.started c).b 20 4)) ∧ Completed (s.started c) stOK 0 s
      x)) ∧
    (s.readyCmd id opResFree = some c → (s.started c).b 16 1 = 2 → (s.started c).b 17 1 = 0xFF ∨ (s.started c).b 17 1 = bits ((s.started c).b 24 4) 10
      8 → 0 < (s.started c).b 20 4 → s.covers (s.started c).fn 2 (bits ((s.started c).b 24 4) 10 8) (bits ((s.started c).b 24 4) 7 0) ((s.started c).b
      20 4) = true → s.rdb .BNK_STAT_EXPERT (bits ((s.started c).b 24 4) 10 8) = false → Does (.resFree id) s (fun x => x.allocs = s.allocs.flatMap (fun
      b => if b.within (s.started c).fn 2 (bits ((s.started c).b 24 4) 10 8) (bits ((s.started c).b 24 4) 7 0) ((s.started c).b 20 4) = 0 then [b] else
      cutAlloc b (bits ((s.started c).b 24 4) 7 0) ((s.started c).b 20 4)) ∧ Completed (s.started c) stOK 0 s x)) ∧
    (s.readyCmd id opResFree = some c → (s.started c).b 16 1 = 3 → (s.started c).b 17 1 = 0xFF ∨ (s.started c).b 17 1 = bits ((s.started c).b 24 4) 31
      29 → 0 < (s.started c).b 20 4 → s.covers (s.started c).fn 3 (bits ((s.started c).b 24 4) 31 29) (bits ((s.started c).b 24 4) 22 0) ((s.started
      c).b 20 4) = true → Does (.resFree id) s (fun x => x.allocs = s.allocs.flatMap (fun b => if b.within (s.started c).fn 3 (bits ((s.started c).b 24
      4) 31 29) (bits ((s.started c).b 24 4) 22 0) ((s.started c).b 20 4) = 0 then [b] else cutAlloc b (bits ((s.started c).b 24 4) 22 0) ((s.started
      c).b 20 4)) ∧ Completed (s.started c) stOK 0 s x)) ∧
    (s.readyCmd id opBankHost = some c → 0 < (s.started c).b 21 1 → s.covers (s.started c).fn 2 ((s.started c).b 17 1) ((s.started c).b 20 1)
      ((s.started c).b 21 1) = true → s.rdb .BNK_STAT_EXPERT ((s.started c).b 17 1) = false → Does (.bankHost id) s (fun x => x = (s.banksMove
      ((s.started c).b 17 1) ((s.started c).b 20 1) ((s.started c).b 21 1) (if bit ((s.started c).b 18 1) 0 then ownHostWindow else ownSequencer) (if
      bit ((s.started c).b 18 1) 0 then (s.started c).fn else 128 + (s.started c).fn)).completeCmd (s.started c) stOK 0 ∧ Completed (s.started c) stOK 0
      s x)) ∧
    (s.readyCmd id opEvict = some c → 0 < (s.started c).b 16 1 → (s.started c).b 16 1 ≤ 127 → (s.started c).b 17 1 = 0 → (s.started c).id = c.id →
      s.qps.any (fun e => e.2.any (fun p => p.evict == some c.id)) = false → Does (.evict id) s (fun x => (∀ j ∈ x.jobs, j.fn ≠ (s.started c).b 16 1 ∨
      j.st = .ackWait) ∧ (∀ k ∈ x.cmds, k.id ≠ c.id))) ∧
    (s.readyCmd id opEvict = some c → 0 < (s.started c).b 16 1 → (s.started c).b 16 1 ≤ 127 → 1 ≤ (s.started c).b 17 1 → (s.started c).b 17 1 ≤ 2 →
      (s.started c).id = c.id → Does (.evict id) s (fun x => (∀ j ∈ x.jobs, j.fn ≠ (s.started c).b 16 1 ∨ j.st = .ackWait) ∧ (∀ k ∈ x.cmds, k.id = c.id
      → k.st = .running))) ∧
    (∀ (q : Nat) (p : QpSt), c ∈ s.cmds → c.st = .running → c.opcode = opEvict → s.qp q = some p → p.outstanding = 0 → s.rd .QP_STAT_STATE p.fn
      p.entry = 2 → (s.setQp q none).evicted c = true → Does (.qpDrainEnd q) s (fun x => ∀ k ∈ x.cmds, k.id ≠ c.id))

/-- Quotas, grants, resets and BAR2 accesses of functions (R408, R410, R412, R389, R390). Each clause names a command, the
states and operands that it speaks of, and what holds of the next state that the command then answers. The clauses: a quota
within its greatest value is taken (queue pairs, feed queues, banks, pages, power share, real-time share); a grant is set or
cleared; a job that has not started loses one that is cleared; a function-level reset of a VF leaves it no command, program
or job; a hot reset leaves no function any; a BAR2 write that the checks let through to bytes that are not poisoned reaches
memory, whatever else the memories give; a BAR2 write of a whole granule of a bank reaches it whatever it held; a BAR2 read
that they let through of bytes that are not poisoned returns the bytes; a BAR2 read of poisoned bytes returns ones; a BAR2
read that they refuse returns ones and is counted; a BAR2 write that they refuse is counted and changes no memory. Readings
and choices of the model that it rests on: log entries 15 and 85. -/
def Obligations.FunctionsAndTenancy : Prop :=
  ∀ (s : State) (fn : Nat), fn < 128 →
    (∀ (k : Nat) (o : Order), Alone o → 1 ≤ k → k ≤ 6 → o.w.v ≤ s.quotaMax fn k → s.standby fn = false → Does (.fnqQuotaWrite fn k o) s (fun x => x.rd
      (quotaField k) fn = o.w.v % 2 ^ (quotaField k).width)) ∧
    (∀ (m : Nat) (o : Order), Alone o → m < 64 → s.standby fn = false → Does (.fnqGrantWrite fn m o) s (fun x => bit (x.rd .FNQ_GRANT_SLOT fn) m =
      (o.w.v % 2 == 1) ∧ (bit (s.rd .FNQ_GRANT_SLOT fn) m = true → o.w.v % 2 = 0 → ∀ j ∈ x.jobs, j.fn = fn → j.started = none → bit j.grants m =
      false))) ∧
    (fn ≠ 0 → Does (.functionLevelReset fn) s (fun x => (∀ k ∈ x.cmds, k.fn ≠ fn) ∧ (∀ k ∈ s.cmds, k.fn ≠ fn → (∀ e ∈ s.cmds, e.opcode = opEvict →
      e.id ≠ k.id) → k ∈ x.cmds) ∧ x.progs = s.progs.filter (fun p => p.fn != fn) ∧ (∀ j ∈ x.jobs, j.fn ≠ fn))) ∧
    (Does (.hotReset) s (fun x => (∀ k ∈ x.cmds, 128 ≤ k.fn) ∧ (∀ p ∈ x.progs, 128 ≤ p.fn) ∧ (∀ j ∈ x.jobs, 128 ≤ j.fn))) ∧
    (∀ (b n v a : Nat) (m : Found), 1 ≤ n → n ≤ 8 → b < 2 ^ 36 → s.bar2Addr fn b n true = some a → (s.meets m [(a, n)]).poisoned a n = false → Does
      (.bar2Access fn b n ⟨some v, m⟩) s (fun x => x.load a n = v % 256 ^ n)) ∧
    (∀ (b v a : Nat) (m : Found), b < 2 ^ 36 → s.bar2Addr fn b 8 true = some a → devRegion a = 0 → a % 8 = 0 → Does (.bar2Access fn b 8 ⟨some v, m⟩) s
      (fun x => x.load a 8 = v % 256 ^ 8 ∧ x.poison.get false a = false)) ∧
    (∀ (b n a : Nat) (m : Found), 1 ≤ n → n ≤ 8 → b < 2 ^ 36 → s.bar2Addr fn b n false = some a → (s.meets m [(a, n)]).poisoned a n = false → Does
      (.bar2Access fn b n ⟨none, m⟩) s (fun x => x.outbox = (s.meets m [(a, n)]).outbox ++ [.readData (if fn = 0 then .pf else .vf fn) b n ((s.meets m
      [(a, n)]).load a n)])) ∧
    (∀ (b n a : Nat) (m : Found), 1 ≤ n → n ≤ 8 → b < 2 ^ 36 → s.bar2Addr fn b n false = some a → (s.meets m [(a, n)]).poisoned a n = true → Does
      (.bar2Access fn b n ⟨none, m⟩) s (fun x => .readData (if fn = 0 then .pf else .vf fn) b n (256 ^ n - 1) ∈ x.outbox ∧ .aer 4 ∈ x.outbox)) ∧
    (∀ (b n : Nat) (m : Found), 1 ≤ n → n ≤ 8 → b < 2 ^ 36 → s.bar2Addr fn b n false = none → Does (.bar2Access fn b n ⟨none, m⟩) s (fun x =>
      x.rd .FN_STAT_BAR2_DENIED fn = s.countUp .FN_STAT_BAR2_DENIED 1 fn ∧ x.outbox = s.outbox ++ [.readData (if fn = 0 then .pf else .vf fn) b n (256 ^
      n - 1)])) ∧
    (∀ (b n v : Nat) (m : Found), 1 ≤ n → n ≤ 8 → b < 2 ^ 36 → s.bar2Addr fn b n true = none → Does (.bar2Access fn b n ⟨some v, m⟩) s (fun x =>
      x.rd .FN_STAT_BAR2_DENIED fn = s.countUp .FN_STAT_BAR2_DENIED 1 fn ∧ x.mem = s.mem))

/-- Event rings and MSI-X: the consumed count, the moderation time and unmasking (R413, R415, R416). Each clause names a
command, the states and operands that it speaks of, and what holds of the next state that the command then answers. The
clauses: EVR_HEAD; moderation time; unmask with nothing pending; unmask with a pending message. Readings and choices of the
model that it rests on: log entry 9. -/
def Obligations.RingsAndInterrupts : Prop :=
  ∀ (s : State) (fn vec : Nat), fn < 128 →
    (∀ (o : Order), Alone o → s.standby fn = false → Does (.evrHeadWrite fn o) s (fun x => x.rd .EVR_HEAD_COUNT fn = o.w.v % 2 ^ 32)) ∧
    (∀ (u : Nat × Nat × Nat), (s.ring fn).unannounced.find? (fun u => u.1 == vec) = some u → u.2.2 + 1000 * s.rd .EVR_MOD_TIME fn ≤ s.now →
      s.ax .msixOff fn = 0 → s.rd .MSIX_CTRL_MASK fn vec = 0 → Does (.msixModerationTimeout fn vec) s (fun x => x.outbox = s.outbox ++ [.msix fn vec] ∧
      (∀ u ∈ (x.ring fn).unannounced, u.1 ≠ vec))) ∧
    (∀ (o : Order), Alone o → vec < 16 → bit (s.rd .MSIX_PBA_PEND fn) vec = false → Does (.msixUnmask fn vec o) s (fun x => x.rd .MSIX_CTRL_MASK fn
      vec = 0 ∧ x.outbox = s.outbox)) ∧
    (∀ (o : Order), Alone o → vec < 16 → bit (s.rd .MSIX_PBA_PEND fn) vec = true → s.ax .msixOff fn = 0 → Does (.msixUnmask fn vec o) s (fun x =>
      x.rd .MSIX_CTRL_MASK fn vec = 0 ∧ x.outbox = s.outbox ++ [.msix fn vec]))

/-- Image loads, evictions and publisher keys (R291, R292, R295, R287, R288, R289). Each clause names a command, the states
and operands that it speaks of, and what holds of the next state that the command then answers. The clauses: IMAGE_LOAD whose
header and key pass, without MAY_EVICT and with room on a home die: it runs; the end of a load whose bytes pass every check:
the image is in the store; IMAGE_EVICT of an image that nothing reads; KEY_ENROL of an entry that holds nothing and is locked
on no online die locks its page on every online die; KEY_REVOKE while the page of the revocations is locked on no die: the
key is revoked on every online one; PROGRAM_LOAD of an object that passes the loader, with a handle and pages to be had: the
program has a copy on every online die. Readings and choices of the model that it rests on: log entries 22, 23 and 48. -/
def Obligations.ImagesAndKeys : Prop :=
  ∀ (s : State) (id : Nat) (c : Cmd),
    (∀ (head sig : List Byte) (d : Nat), s.readyCmd id opImageLoad = some c → verify1 head sig ((s.started c).b 24 8) = true → s.verify2 head sig =
      true → bit ((s.started c).b 32 1) 0 = false → s.homeFor ((s.started c).b 24 8) = some d → Does (.imageLoad id (.ok (head, sig))) s (fun x =>
      x.loads = s.loads ++ [⟨(s.started c).id, d, (s.started c).b 24 8⟩] ∧ x.images = s.images)) ∧
    (∀ (b : List Byte) (l : Load), s.cmds.find? (fun k => k.id == id && k.st == .running) = some c → s.loads.find? (fun k => k.id == id) = some l →
      b.length = l.bytes → verify1 (b.take 192) (b.drop (b.length - 256)) l.bytes = true → s.verify2 (b.take 192) (b.drop (b.length - 256)) = true →
      verify3 b = true → verify4 b = true → Does (.imageLoadComplete id b) s (fun x => ∃ i ∈ x.images, i.handle = s.freeImageHandle ∧ i.digest =
      imageDigest b ∧ i.home = l.home ∧ i.body = b)) ∧
    (s.readyCmd id opImageEvict = some c → (s.image ((s.started c).b 16 1)).isSome = true → s.imageBusy ((s.started c).b 16 1) = false → Does
      (.imageEvict id) s (fun x => (∀ i ∈ x.images, i.handle ≠ (s.started c).b 16 1) ∧ Completed (s.started c) stOK 0 s x)) ∧
    (∀ (h : BitVec 384), s.readyCmd id opKeyEnrol = some c → (s.started c).b 16 1 ≤ 7 → s.onlineDies.any (fun d => s.pkt d (2 + (s.started c).b 16 1)
      48 != 0 || s.pageLocked d (2 + (s.started c).b 16 1)) = false → Does (.keyEnrol id (.ok h)) s (fun x => (∀ d ∈ s.onlineDies, x.ax .pageLock d (2 +
      (s.started c).b 16 1) ≠ 0) ∧ Completed (s.started c) stOK 0 s x)) ∧
    (s.readyCmd id opKeyRevoke = some c → (s.started c).b 16 1 ≤ 7 → s.dies.any (fun d => s.pageLocked d 10) = false → s.part.dies ≤ 8 → Does
      (.keyRevoke id) s (fun x => (∀ d ∈ s.onlineDies, x.keyRevoked d ((s.started c).b 16 1) = true) ∧ Completed (s.started c) stOK 0 s x)) ∧
    (∀ (b : List Byte) (k : Nat), s.readyCmd id opProgLoad = some c → (headerOf b).priv ≠ 1 ∨ (s.started c).fn = 0 → (headerOf b).priv ≠ 0 ∨ hasSystem
      (codeOf (headerOf b) b) = false → 64 ≤ (s.started c).b 24 4 → 64 ≤ b.length → (headerOf b).ok s.part.dies = true → (headerOf b).size ≤ (s.started
      c).b 24 4 → (headerOf b).size ≤ b.length → codeOk (codeOf (headerOf b) b) (headerOf b).entry = true → s.freeHandle = some k → s.held (s.started
      c).fn resLpddr + cdiv (headerOf b).size 4096 ≤ s.quota (s.started c).fn resLpddr → s.onlineDies.any (fun d => (s.freePages d (cdiv (headerOf
      b).size 4096)).isNone) = false → Does (.programLoad id (.ok b)) s (fun x => (∃ p ∈ x.progs, { p with copies := [] } =
      { progOf (s.started c).fn k b with copies := [] } ∧ ∀ d ∈ s.onlineDies, p.copies.any (fun e => e.1 == d) = true) ∧ Completed (s.started c) stOK k
      s x))

/-- The host commands on model slots (R298, R309, R310, R311, R312, R313, R314, R315). Each clause names a command, the
states and operands that it speaks of, and what holds of the next state that the command then answers. The clauses:
SLOT_PROGRAM with a die mask, of an image without Gusset regions whose blocks find tiles: the map is bound; SLOT_PROGRAM with
die mask 0: the map is bound, and the command leaves; SLOT_SWITCH to a map that is ready: the switch is requested;
SLOT_SWITCH to a map that is not ready yet: the command runs on; SLOT_SWITCH to a map with an expert tile is refused;
SLOT_SWITCH to the map that is active: OK at once; SLOT_REPLACE whose first layer is a crossbar layer; MAP_FREE of a map that
is not active and to which no switch waits: its binding and its Gusset regions go; SLOT_FREE of a slot that no running job
uses; SLOT_INFO writes the map record to host memory and completes; the last running job of a slot that is being freed has
ended. Readings and choices of the model that it rests on: log entries 47, 52, 53, 54, 117 and 118. -/
def Obligations.SlotCommands : Prop :=
  ∀ (s : State) (id : Nat) (c : Cmd), (s.started c).slot ≤ 63 → (s.started c).b 17 1 ≤ 1 → s.slotTurn (s.started c) = true →
    (∀ (i : Image), s.readyCmd id opSlotProgram = some c → s.cmds.any (fun k => k.st == .running && k.opcode == opSlotProgram && k.slot == (s.started
      c).slot) = false → s.image ((s.started c).b 18 1) = some i → 0 < (s.started c).b 19 1 → (s.started c).b 19 1 < 2 ^ s.part.dies → s.onlineDies.any
      (fun d => bit ((s.started c).b 19 1) d && s.prgExpert d) = false → s.activeMap (s.started c).slot ≠ (s.started c).b 17 1 → s.mapTiles (s.started
      c).slot ((s.started c).b 17 1) = [] → s.mapPending (s.started c).slot ((s.started c).b 17 1) = false → i.tiles ≤ sumBy (s.freeOn ((s.started c).b
      19 1)) (fun e => e.2.length) → panelsOf i.layers = [] → (placeBlocks (allBlocks i.layers) (s.freeOn ((s.started c).b 19 1))).isSome = true → Does
      (.slotProgram id) s (fun x => ∃ y ∈ x.maps, y.slot = (s.started c).slot ∧ y.map = (s.started c).b 17 1 ∧ y.handle = some i.handle ∧ y.digest =
      i.digest)) ∧
    (∀ (i : Image), s.readyCmd id opSlotProgram = some c → s.cmds.any (fun k => k.st == .running && k.opcode == opSlotProgram && k.slot == (s.started
      c).slot) = false → s.image ((s.started c).b 18 1) = some i → (s.started c).b 19 1 = 0 → s.activeMap (s.started c).slot ≠ (s.started c).b 17 1 →
      s.mapTiles (s.started c).slot ((s.started c).b 17 1) = [] → panelsOf i.layers = [] → Does (.slotProgram id) s (fun x => (∃ y ∈ x.maps, y.slot =
      (s.started c).slot ∧ y.map = (s.started c).b 17 1 ∧ y.handle = some i.handle ∧ y.digest = i.digest) ∧ (∀ k ∈ x.cmds, k.id ≠ (s.started c).id))) ∧
    (s.readyCmd id opSlotSwitch = some c → (s.mapTiles (s.started c).slot ((s.started c).b 17 1)).any (fun p => s.rdb .TIL_STATUS_EXPERT p.die p.tile)
      = false → (s.mapOf (s.started c).slot ((s.started c).b 17 1)).isSome = true → s.activeMap (s.started c).slot ≠ (s.started c).b 17 1 → s.mapReady
      (s.started c).slot ((s.started c).b 17 1) = true → Does (.slotSwitch id) s (fun x => x.ax .switchTarget 0 (s.started c).slot = (s.started c).b 17
      1 + 1)) ∧
    (s.readyCmd id opSlotSwitch = some c → (s.mapTiles (s.started c).slot ((s.started c).b 17 1)).any (fun p => s.rdb .TIL_STATUS_EXPERT p.die p.tile)
      = false → s.activeMap (s.started c).slot ≠ (s.started c).b 17 1 → s.mapReady (s.started c).slot ((s.started c).b 17 1) = false → Does (.slotSwitch
      id) s (fun x => x = s.cmdRunning { s.started c with flags := 0, lateness := 0 })) ∧
    (s.readyCmd id opSlotSwitch = some c → (s.mapTiles (s.started c).slot ((s.started c).b 17 1)).any (fun p => s.rdb .TIL_STATUS_EXPERT p.die p.tile)
      = true → s.activeMap (s.started c).slot ≠ (s.started c).b 17 1 → Does (.slotSwitch id) s (fun x => Completed (s.started c) stRejectedPrivilege 0 s
      x)) ∧
    (s.readyCmd id opSlotSwitch = some c → s.activeMap (s.started c).slot = (s.started c).b 17 1 → Does (.slotSwitch id) s (fun x => Completed
      (s.started c) stOK 0 s x)) ∧
    (∀ (i : Image) (m : MapSt), s.readyCmd id opSlotReplace = some c → s.image ((s.started c).b 18 1) = some i → s.mapOf (s.started c).slot
      (s.activeMap (s.started c).slot) = some m → replaceable i m = true → (s.mapTiles (s.started c).slot (s.activeMap (s.started c).slot)).any (fun p
      => s.prgExpert p.die || s.unitsExpert p.die p.tile) = false → (s.reservePanels (s.started c).slot (s.activeMap (s.started c).slot) i).isSome =
      true → (i.layers.head?).any (fun l => l.crossbar) = true → Does (.slotReplace id) s (fun x => ∃ y ∈ x.repls, y.id = (s.started c).id ∧ y.slot =
      (s.started c).slot ∧ y.map = s.activeMap (s.started c).slot ∧ y.handle = i.handle ∧ y.layer = 0 ∧ y.phase = .hold)) ∧
    (s.readyCmd id opMapFree = some c → s.activeMap (s.started c).slot ≠ (s.started c).b 17 1 → s.switchWaits (s.started c).slot ((s.started c).b 17
      1) = false → (s.mapTiles (s.started c).slot ((s.started c).b 17 1)).any s.tileExpert = false → Does (.mapFree id) s (fun x => (∀ y ∈ x.maps,
      ¬(y.slot = (s.started c).slot ∧ y.map = (s.started c).b 17 1)) ∧ (∀ p ∈ x.panels, ¬(p.slot = (s.started c).slot ∧ p.map = (s.started c).b 17 1))))
      ∧
    (s.readyCmd id opSlotFree = some c → (s.placed.filter (fun p => p.slot == (s.started c).slot)).any s.tileExpert = false → s.slotJobs (s.started
      c).slot = false → Does (.slotFree id) s (fun x => x.ax .activeMap 0 (s.started c).slot = 0 ∧ (∀ y ∈ x.maps, y.slot = (s.started c).slot → y.map ≠
      0 ∧ y.map ≠ 1))) ∧
    (s.readyCmd id opSlotInfo = some c → Does (.slotInfo id) s (fun x => x = State.completeCmd
      { s with mem := storeBytes s.mem (hostKey (s.started c).fn ((s.started c).b 24 8)) (s.mapRecord (s.started c).slot ((s.started c).b 17 1)) }
      (s.started c) stOK 0 ∧ Completed (s.started c) stOK 0 s x)) ∧
    (∀ (k : Cmd), s.cmds.find? (fun c => c.id == id && c.st == .running && c.opcode == opSlotFree) = some k → s.slotJobs k.slot = false → s.progq.any
      (fun r => r.cmd == some id) = false → Does (.slotFreeDrainEnd id) s (fun x => x.ax .activeMap 0 k.slot = 0 ∧ (∀ y ∈ x.maps, y.slot = k.slot →
      y.map ≠ 0 ∧ y.map ≠ 1)))

/-- What the ends of programming, clearing and repair leave (R301, R302, R305, R70, R71). Each clause names a command, the
states and operands that it speaks of, and what holds of the next state that the command then answers. The clauses: PROG of a
host command or an instruction, outside SLOT_REPLACE, whose columns and tests pass and which asks for no precision: the
finish is recorded; any PROG whose columns and tests pass: the request finishes; one whose columns or tests fail: it moves to
a spare tile; the end of a column repair; the end of a tile replacement that passes: the new tile notes which one it
replaces, and the old one is RETIRED; CLEAR: the tile holds no weights; CLEAR before another operation of the same request:
the request goes on. Readings and choices of the model that it rests on: log entries 24, 56 and 137. -/
def Obligations.ProgrammingFinishes : Prop :=
  ∀ (s : State) (d e : Nat) (r : PReq),
    (∀ (out : ProgOut), s.runningReq d e (fun r => (r.what == .prog || r.what == .inc) && !r.clearFirst && r.kind != 2) = some r → (s.programColumns r
      4 out).2 = true → r.kind ≤ 1 → (r.cmd.bind (fun id => (s.programColumns r 4 out).1.repls.find? (fun x => x.id == id))).isSome = false →
      (s.programColumns r 4 out).1.wantsPrecision r = false → r.no < s.ax .progCount → Does (.progFinish d e out) s (fun x => x.rd .TIL_PROGTIME_TIME
      r.place.die r.place.tile = s.now % 2 ^ 64 ∧ x.rd .PRG_TILES_COUNT r.place.die = s.countUp .PRG_TILES_COUNT 1 r.place.die ∧ (∀ q ∈ x.progq, q.no ≠
      r.no))) ∧
    (∀ (out : ProgOut), s.runningReq d e (fun r => (r.what == .prog || r.what == .inc) && !r.clearFirst && r.kind != 2) = some r → (s.programColumns r
      4 out).2 = true → Does (.progFinish d e out) s (fun x => x = (s.programColumns r 4 out).1.progFinish r out)) ∧
    (∀ (out : ProgOut), s.runningReq d e (fun r => (r.what == .prog || r.what == .inc) && !r.clearFirst && r.kind != 2) = some r → (s.programColumns r
      4 out).2 = false → Does (.progFinish d e out) s (fun x => x = (s.programColumns r 4 out).1.moveToSpare r 4)) ∧
    (∀ (out : ProgOut), s.runningReq d e (fun r => !r.clearFirst && r.kind == 2) = some r → r.what = .column → r.no < s.ax .progCount → Does
      (.repairDone d e out) s (fun x => x = s.columnFinish r out ∧ (∀ q ∈ x.progq, q.no ≠ r.no))) ∧
    (∀ (out : ProgOut), s.runningReq d e (fun r => !r.clearFirst && r.kind == 2) = some r → r.what = .prog → (s.programColumns r 4 out).2 = true →
      r.no < s.ax .progCount → r.old < 1664 → r.tile < 1664 → r.tile ≠ r.old → r.place.tile = r.tile → r.place.die = d → (s.programColumns r 4
      out).1.progq.any (fun q => q.tile == r.old) = false → Does (.repairDone d e out) s (fun x => x.rd .TIL_STATUS_REPLACES d r.tile = r.old % 2 ^ 11 ∧
      x.tst d r.old = tsRetired ∧ (∀ q ∈ x.progq, q.no ≠ r.no))) ∧
    (∀ (reads : List (Nat × Nat)), s.runningReq d e (fun r => r.clearFirst || r.what == .clear) = some r → Does (.clearFinish d e reads) s (fun x =>
      (x.tile d r.tile).sums = [] ∧ (x.tile d r.tile).gTotal = 0 ∧ (x.tile d r.tile).calibrated = false ∧ (x.tile d r.tile).known = true ∧ (x.tile d
      r.tile).pulses = [])) ∧
    (∀ (reads : List (Nat × Nat)), s.runningReq d e (fun r => r.clearFirst || r.what == .clear) = some r → r.clearFirst = true → Does (.clearFinish d
      e reads) s (fun x => x.tst d r.tile = (if r.kind = 4 then tsSpare else tsProgramming) ∧ (s.progq.any (fun q => q.no == r.no) = true → ∃ q ∈
      x.progq, q.no = r.no ∧ q.clearFirst = false)))

/-- What the writes of the programming registers do (R292, R308). Each clause names a command, the states and operands that
it speaks of, and what holds of the next state that the command then answers. The clauses: PRG_CTRL.HOLD is taken, and a
change of it takes the engines of the die out of firmware management; PRG_CTRL.CLEAR zeroes the counters; PRG_CTRL.HANDBACK
gives the engines back; PRG_STORE takes a size that fits while the store is empty. Readings and choices of the model that it
rests on: log entry 111. -/
def Obligations.ProgrammingRegisters : Prop :=
  ∀ (s : State) (d : Nat) (o : Order), s.dieWindow d = true → Alone o →
    (Does (.prgCtrlHoldWrite d o) s (fun x => x.rd .PRG_CTRL_HOLD d = o.w.v % 2 ∧ (o.w.v % 2 ≠ s.rd .PRG_CTRL_HOLD d → x.rd .PRG_STATUS_EXPERT d =
      1))) ∧
    (o.w.v % 2 = 1 → Does (.prgCtrlClear d o) s (fun x => x.rd .PRG_TILES_COUNT d = 0 ∧ x.rd .PRG_ITERS_COUNT d = 0 ∧ x.rd .PRG_COLFAIL_COUNT d = 0 ∧
      x.rd .PRG_LATECNT_COUNT d = 0 ∧ x.rd .PRG_MAXLATE_LATENESS d = 0)) ∧
    (o.w.v % 2 = 1 → Does (.prgCtrlHandback d o) s (fun x => x.rd .PRG_CTRL_HOLD d = 0 ∧ x.rd .PRG_STATUS_EXPERT d = 0)) ∧
    (o.w.v ≤ 16 → o.w.v * 2 ^ 30 ≤ s.installed d → s.images.any (fun i => i.home == d) = false → s.loads.any (fun l => l.home == d) = false →
      (s.takenRuns d).any (fun r => decide (r.1 + r.2 > (s.installed d - o.w.v * 2 ^ 30) / 4096)) = false → Does (.prgStoreWrite d o) s (fun x =>
      x.rd .PRG_STORE_GIB d = o.w.v))

/-- Timeouts, die links and DIE_RESTORE (R423, R424, R425, R429, R382). Each clause names a command, the states and operands
that it speaks of, and what holds of the next state that the command then answers. The clauses: bank port wait of a running
job: it is counted, and the attempt of the job is over; die link, not the third within 10 s: it is counted and the link
retrains; die link, the third time within 10 s: the link is down; a die link has retrained; LPDDR5X command, not the third
within 10 s of its channel: the channel retrains; the third within 10 s, which is the third failed training in a row: the
channel has failed; DMA descriptor that an engine has been moving for 1 ms: the attempt of the job is over; a sequencer
without progress: the attempt of the job is over; feed queue starvation while the Yoke runs: the attempts of the jobs with a
request in the queue are over; the watchdog of a job: it ends; FLT_CTRL.CLEAR zeroes the counters; DIE_RESTORE of a die below
its shutdown temperature that the head die reaches. Readings and choices of the model that it rests on: log entries 7, 122
and 136. -/
def Obligations.TimeoutsAndDies : Prop :=
  ∀ (s : State) (d u j : Nat),
    (∀ (k : Job), s.job j = some k → k.active = true → k.st ≠ .ackWait → s.paused 0 d = false → Does (.bankPortWaitTimeout d u j) s (fun x =>
      x.rd .FLT_TOCNT_COUNT 0 0 = s.countUp .FLT_TOCNT_COUNT 1 0 0 ∧ (∀ k ∈ x.jobs, k.id = j → k.st ≠ .running ∧ k.st ≠ .committing))) ∧
    (∀ (l : List Nat), u < linkCount s.part.dies → s.linkUp u = true → s.escalates 1 8 u = false → Does (.dieLinkTimeout u l) s (fun x =>
      x.rd .FLT_TOCNT_COUNT 0 1 = s.countUp .FLT_TOCNT_COUNT 1 0 1 ∧ x.ax .linkRetrain 0 u = 1)) ∧
    (∀ (l : List Nat), u < linkCount s.part.dies → s.linkUp u = true → s.escalates 1 8 u = true → Does (.dieLinkTimeout u l) s (fun x =>
      x.rd .FLT_TOCNT_COUNT 0 1 = s.countUp .FLT_TOCNT_COUNT 1 0 1 ∧ x.ax .linkDown 0 u = 1)) ∧
    (Does (.dieLinkRetrained u) s (fun x => x.ax .linkRetrain 0 u = 0)) ∧
    (∀ (l : List Nat), s.online d = true → s.escalates 2 d (chanOf u) = false → s.rd .MEM_CH_STATE d (chanOf u) ≠ 3 → Does (.lpddrCommandTimeout d u
      l) s (fun x => x.rd .FLT_TOCNT_COUNT 0 2 = s.countUp .FLT_TOCNT_COUNT 1 0 2 ∧ x.rd .MEM_CH_STATE d (chanOf u) = 2 ∧ x.rd .MEM_RETRAIN_COUNT d =
      s.countUp .MEM_RETRAIN_COUNT 1 d)) ∧
    (∀ (l : List Nat), s.online d = true → d < 8 → s.escalates 2 d (chanOf u) = true → s.rd .MEM_CH_FAILS d (chanOf u) = 2 → Does
      (.lpddrCommandTimeout d u l) s (fun x => x.rd .FLT_TOCNT_COUNT 0 2 = s.countUp .FLT_TOCNT_COUNT 1 0 2 ∧ x.rd .MEM_CH_STATE d (chanOf u) = 3 ∧
      x.online d = false)) ∧
    (∀ (v : DmaRun) (y : Op) (k : Job), s.dmaAt d u = some v → v.since + 1000000 ≤ s.now → s.ops.filter (fun o => o.issue == v.issue) = [y] → s.job
      y.job = some k → k.active = true → k.st ≠ .ackWait → Does (.dmaDescriptorTimeout d u v.issue) s (fun x => x.rd .FLT_TOCNT_COUNT 0 3 =
      s.countUp .FLT_TOCNT_COUNT 1 0 3 ∧ (∀ k ∈ x.jobs, k.id = y.job → k.st ≠ .running ∧ k.st ≠ .committing))) ∧
    (∀ (k : Job) (t : Task), s.taskAt d u = some (k, t) → s.stalled k t = true → s.job k.id = some k → k.st ≠ .ackWait → Does
      (.sequencerProgressTimeout d u) s (fun x => x.rd .FLT_TOCNT_COUNT 0 4 = s.countUp .FLT_TOCNT_COUNT 1 0 4 ∧ (∀ k ∈ x.jobs, k.id = k.id → k.st
      ≠ .running ∧ k.st ≠ .committing))) ∧
    (∀ (y : Req) (k : Job), (s.excuse s.takenTiles).reqs.any (fun r => r.queue == u && r.st == .queued && !r.dead && decide (r.since + 20000000 ≤
      s.now)) = true → s.rd .YOK_CTRL_HOLD_ALL = 0 → s.rd .YOK_STATUS_MOVING = 0 → y ∈ (s.excuse s.takenTiles).reqs → y.queue = u → y.st = .queued →
      y.dead = false → s.job y.job = some k → k.active = true → k.st ≠ .ackWait → Does (.feedQueueStarvation u) s (fun x => x.rd .FLT_TOCNT_COUNT 0 5 =
      s.countUp .FLT_TOCNT_COUNT 1 0 5 ∧ (∀ k ∈ x.jobs, k.id = k.id → k.st ≠ .running ∧ k.st ≠ .committing))) ∧
    (∀ (k : Job) (v : Nat), s.job j = some k → k.active = true → k.st ≠ .ackWait → k.started = some v → v + k.watchdog * 1000000 ≤ s.now → Does
      (.jobWatchdog j) s (fun x => x.rd .FLT_TOCNT_COUNT 0 6 = s.countUp .FLT_TOCNT_COUNT 1 0 6 ∧ x.job j = none)) ∧
    (∀ (o : Order), Alone o → o.w.v % 2 = 1 → Does (.fltCtrlClear o) s (fun x => x.rd .FLT_TOCNT_COUNT 0 0 = 0 ∧ x.rd .FLT_TOCNT_COUNT 0 6 = 0 ∧
      x.rd .FLT_SUPCNT_COUNT = 0 ∧ x.rd .FLT_RESTARTS_COUNT = 0 ∧ x.rd .FLT_EXHAUSTED_COUNT = 0)) ∧
    (∀ (c : Cmd) (z : StepInfo), s.readyCmd d opDieRestore = some c → (s.started c).b 16 1 < s.part.dies → s.online ((s.started c).b 16 1) = false →
      bit (s.rd .PWR_STAT_TSHUT) ((s.started c).b 16 1) = false → s.onlineDies.isEmpty = true ∨ s.reaches ((s.started c).b 16 1) = true → Does
      (.dieRestore d ⟨0, z⟩) s (fun x => x.online ((s.started c).b 16 1) = true ∧ Completed (s.started c) stOK 0 s x))

/-- The monitor converters' sequence, urgent requests and self-calibration (R352, R354, R355, R357, R359). Each clause names
a command, the states and operands that it speaks of, and what holds of the next state that the command then answers. The
clauses: an entry starts when the sequence is free, and the grid advances; the end of an entry with two channels; the end of
a plausibility entry whose codes agree; an urgent request joins the list; an urgent conversion ends: its request leaves, and
no other joins; a self-calibration that is due begins with MCA on idle converters; the self-calibration of MCA ends; the
self-calibration of MCB ends, with a correction within the limits; a correction beyond the limits: the converter has failed.
Readings and choices of the model that it rests on: log entries 17 and 62. -/
def Obligations.MonitorSequence : Prop :=
  ∀ (s : State) (d : Nat), d < s.part.dies →
    (s.seqFree d = true → Does (.mcvEntryStart d) s (fun x => (x.mon d).run = true ∧ (x.mon d).grid = (s.mon d).grid + 1000 *
      s.rd .MCV_SEQCFG_INTERVAL d ∧ x.rd .MCV_STAT_ENTRY d = (s.mon d).entry % 32)) ∧
    (∀ (ca cb : Nat) (half : Nat × Nat), (s.mon d).run = true → ¬((s.partA d (s.rd .MCV_STAT_ENTRY d)).1 = 1 ∧ (s.partB d (s.rd .MCV_STAT_ENTRY d)).1
      = 1) → cb < 65536 → Does (.mcvEntryEnd d ca cb half) s (fun x => x.rd .MCV_RES_CODE d (s.partB d (s.rd .MCV_STAT_ENTRY d)).2.1 = cb ∧
      x.rd .MCV_RES_VALID d (s.partB d (s.rd .MCV_STAT_ENTRY d)).2.1 = 1 ∧ (x.mon d).entry = (if s.rd .MCV_SEQCFG_LEN_M1 d ≤ s.rd .MCV_STAT_ENTRY d then
      0 else s.rd .MCV_STAT_ENTRY d + 1))) ∧
    (∀ (ca cb : Nat) (half : Nat × Nat), (s.mon d).run = true → (s.partA d (s.rd .MCV_STAT_ENTRY d)).1 = 1 → (s.partB d (s.rd .MCV_STAT_ENTRY d)).1 =
      1 → s.convDown d 0 = false → s.convDown d 1 = false → ((ca : Int) - cb).natAbs ≤ s.rd .MCV_PLAUS_TOL d → Does (.mcvEntryEnd d ca cb half) s (fun x
      => x.rd .MCV_RES_CODE d (s.partA d (s.rd .MCV_STAT_ENTRY d)).2.1 = meanCode ca cb % 65536 ∧ x.rd .MCV_RES_CHECKED d (s.partA d
      (s.rd .MCV_STAT_ENTRY d)).2.1 = 1)) ∧
    (∀ (kind who : Nat), 1 ≤ kind → kind ≤ 4 → Does (.urgentRequest d kind who) s (fun x => ∃ u ∈ x.urg, u.no = s.ax .urgCount ∧ u.die = d ∧ u.kind =
      kind ∧ u.who = who)) ∧
    (∀ (conv : Nat), s.urg.any (fun u => u.die == d && u.conv == some conv) = true → Does (.urgentConversionEnd d conv) s (fun x => ∀ v ∈ x.urg, ∃ w ∈
      s.urg, w.no = v.no ∧ ¬(w.die = d ∧ w.conv = some conv))) ∧
    (s.scalIsDue d = true → (s.mon d).run = false → (s.mon d).sim = 0 → (s.mon d).simWait = false → s.urgentIdle d = true → (s.mon d).calDue = false →
      (s.mon d).calB = false → s.calibrating d = false → Does (.selfCalDue d) s (fun x => x.rd .MCV_STAT_SCAL_A d = 1)) ∧
    (∀ (cal : Int × Rat), s.rd .MCV_STAT_SCAL_A d = 1 → Does (.selfCalEnd d 0 cal) s (fun x => x.rd .MCV_STAT_SCAL_A d = 0)) ∧
    (∀ (cal : Int × Rat), s.rd .MCV_STAT_SCAL_B d = 1 → cal.1.natAbs ≤ 64 → |cal.2| ≤ 1 / 100 → Does (.selfCalEnd d 1 cal) s (fun x =>
      x.rd .MCV_STAT_SCAL_B d = 0 ∧ (x.mon d).calAt = s.now)) ∧
    (∀ (k : Nat) (cal : Int × Rat), k < 2 → s.convCal d k = true → 64 < cal.1.natAbs ∨ 1 / 100 < |cal.2| → Does (.selfCalEnd d k cal) s (fun x =>
      x.convDown d k = true))

/-- What the writes of the monitor registers and their triggers do (R353, R359, R360). Each clause names a command, the
states and operands that it speaks of, and what holds of the next state that the command then answers. The clauses: a change
of MODE is taken, and is an expert write; HOLD set is taken, and is an expert write; HOLD cleared with a consistent sequence;
SCAL on idle converters begins a self-calibration with MCA; SCAL while one is under way has no effect; MCV_CTRL.CLEAR zeroes
the counters; MCV_CTRL.HANDBACK returns the converters; GO in simultaneous mode; the timed trigger; the end of a simultaneous
conversion. Readings and choices of the model that it rests on: log entries 60 and 61. -/
def Obligations.MonitorControls : Prop :=
  ∀ (s : State) (d : Nat) (o : Order), s.dieWindow d = true → Alone o →
    (o.w.v % 2 ≠ s.rd .MCV_CTRL_MODE d → Does (.mcvCtrlModeWrite d o) s (fun x => x.rd .MCV_CTRL_MODE d = o.w.v % 2 ∧ x.rd .MCV_STAT_EXPERT d = 1)) ∧
    (o.w.v % 2 = 1 → s.rd .MCV_CTRL_HOLD d = 0 → Does (.mcvCtrlHoldWrite d o) s (fun x => x.rd .MCV_CTRL_HOLD d = 1 ∧ x.rd .MCV_STAT_EXPERT d = 1)) ∧
    (o.w.v % 2 = 0 → s.rd .MCV_CTRL_HOLD d = 1 → s.seqConsistent d = true → Does (.mcvCtrlHoldWrite d o) s (fun x => x.rd .MCV_CTRL_HOLD d = 0 ∧
      x.rd .MCV_STAT_EXPERT d = 1)) ∧
    (o.w.v % 2 = 1 → s.rd .MCV_CTRL_SCAL d = 0 → (s.mon d).run = false → (s.mon d).sim = 0 → (s.mon d).simWait = false → s.urgentIdle d = true →
      (s.mon d).calDue = false → (s.mon d).calB = false → s.calibrating d = false → Does (.mcvCtrlScal d o) s (fun x => x.rd .MCV_STAT_SCAL_A d = 1 ∧
      x.rd .MCV_CTRL_SCAL d = 1)) ∧
    (o.w.v % 2 = 1 → s.rd .MCV_CTRL_SCAL d = 1 → Does (.mcvCtrlScal d o) s (fun x => x = s)) ∧
    (o.w.v % 2 = 1 → Does (.mcvCtrlClear d o) s (fun x => x.rd .MCV_PLAUS_FAULTS d = 0 ∧ x.rd .MCV_PREEMPT_ABORTS d = 0 ∧ x.rd .MCV_PREEMPT_PROTECTED
      d = 0 ∧ x.rd .MCV_SIMRES_OVERRUNS d = 0)) ∧
    (o.w.v % 2 = 1 → Does (.mcvCtrlHandback d o) s (fun x => x.rd .MCV_CTRL_HOLD d = 0 ∧ x.rd .MCV_STAT_EXPERT d = 0 ∧ x.rd .MCV_CTRL_MODE d = 0)) ∧
    (o.w.v % 2 = 1 → s.rd .MCV_TRIG_SRC d = 0 → s.rd .MCV_CTRL_MODE d = 1 → (s.mon d).sim = 0 → (s.mon d).simWait = false → s.convBusy d 0 = false →
      s.convBusy d 1 = false → s.calibrating d = false → Does (.mcvTrigGo d o) s (fun x => (x.mon d).sim = 1 ∧ (x.mon d).simAt = s.now ∧
      x.rd .MCV_STAT_EXPERT d = 1)) ∧
    ((s.mon d).timed = true → s.rd .MCV_TRIG_SRC d = 1 → s.rd .MCV_TTRIG_TIME d ≤ s.now → s.rd .MCV_CTRL_MODE d = 1 → (s.mon d).sim = 0 → (s.mon
      d).simWait = false → s.convBusy d 0 = false → s.convBusy d 1 = false → s.calibrating d = false → Does (.mcvTimedTrigger d) s (fun x => (x.mon
      d).sim = 1 ∧ (x.mon d).simAt = s.now ∧ (x.mon d).timed = false)) ∧
    (∀ (ca cb : Nat), (s.mon d).sim ≠ 0 → Does (.simultaneousConversionEnd d ca cb) s (fun x => x.rd .MCV_SIMRES_VALID d = 1 ∧ x.rd .MCV_SIMRES_CODE_A
      d = ca % 65536 ∧ x.rd .MCV_SIMRES_CODE_B d = cb % 65536 ∧ x.rd .MCV_SIMTIME_TIME d = ((s.mon d).simAt + 300) % 2 ^ 64))

/-- What the rows of the telemetry streams do (R361, R362, R363). Each clause names a command, the states and operands that
it speaks of, and what holds of the next state that the command then answers. The clauses: START, not timed, without STOP,
opens a window; STOP, not timed, closes an open window; STOP in the tick of the start: the window is of length zero, with
status OK and SHORT; STOP while IDLE is ignored and counted; CANCEL closes a window with ABORTED_BY_HOST; at its time, a
timed start opens its window; at its time, a timed stop closes its window; a sample that is due advances the time of the next
one by the period; TLM_RDIDX is taken. Readings and choices of the model that it rests on: log entry 63. -/
def Obligations.TelemetryStreams : Prop :=
  ∀ (s : State) (n : Nat), n < 16 →
    (∀ (o : Order), Alone o → o.w.v % 2 = 1 → s.rd .TLM_CTRL_TSTART 0 n = 0 → Does (.tlmStart n false o) s (fun x => x.rd .TLM_STAT_STATE 0 n = 2 ∧
      ((x.tlm n).any (fun w => w.open') = true))) ∧
    (∀ (o : Order) (w : Tlm), Alone o → o.w.v % 2 = 1 → s.tlm n = some w → w.open' = true → w.stream = n → s.rd .TLM_CTRL_TSTOP 0 n = 0 → Does
      (.tlmStop n o) s (fun x => x.rd .TLM_STAT_STATE 0 n = 0 ∧ x.tlm n = none)) ∧
    (∀ (o : Order) (w : Tlm), Alone o → o.w.v % 2 = 1 → s.tlm n = some w → w.open' = true → w.stream = n → w.order = false → s.rd .TLM_CTRL_TSTOP 0 n
      = 0 → s.now / 1000 = w.start / 1000 → Does (.tlmStop n o) s (fun x => x.rd .TLM_STAT_STATE 0 n = 0 ∧ x.rd .TLM_STAT_STATUS 0 n = stOK ∧ bit
      (x.rd .TLM_STAT_FLAGS 0 n) 6 = true)) ∧
    (∀ (o : Order), Alone o → o.w.v % 2 = 1 → s.tlm n = none → Does (.tlmStop n o) s (fun x => x.rd .TLM_CNT_ORDER_CNT 0 n =
      s.countUp .TLM_CNT_ORDER_CNT 1 0 n ∧ x.tlms = s.tlms)) ∧
    (∀ (o : Order) (w : Tlm), Alone o → o.w.v % 2 = 1 → s.tlm n = some w → w.stream = n → Does (.tlmCancel n o) s (fun x => x.rd .TLM_STAT_STATE 0 n =
      0 ∧ x.rd .TLM_STAT_STATUS 0 n = stAbortedByHost ∧ x.tlm n = none)) ∧
    (∀ (w : Tlm), s.tlm n = some w → w.open' = false → w.start ≤ s.now → w.stop = none → w.stream = n → Does (.tlmTimedStart n) s (fun x =>
      x.rd .TLM_STAT_STATE 0 n = 2)) ∧
    (∀ (w : Tlm), s.tlm n = some w → w.open' = true → w.stop.any (fun t => decide (t ≤ s.now)) = true → w.stream = n → Does (.tlmTimedStop n) s (fun x
      => x.rd .TLM_STAT_STATE 0 n = 0 ∧ x.tlm n = none)) ∧
    (∀ (w : Tlm), s.tlm n = some w → w.due s.now = true → Does (.tlmPeriodSample n) s (fun x => (x.tlm n).map (fun w => w.next) = some (w.next + 1000
      * s.rd .TLM_PERIOD_PERIOD 0 n))) ∧
    (∀ (o : Order), Alone o → Does (.tlmRdidxWrite n o) s (fun x => x.rd .TLM_RDIDX_COUNT 0 n = o.w.v % 2 ^ 32))

/-- Some effects of the fields of TIL_CTRL and of tests of spare and record tiles (R58, R59, R60, R70, R76, R77, R82). Each
clause names a command, the states and operands that it speaks of, and what holds of the next state that the command then
answers. The clauses: HOLD set on a SERVING tile is an expert write; the tile stays SERVING and waits for its seam to be
HELD; HOLD cleared on a tile that waits for its seam to be HELD takes the wait back; PRECISION set on a FREE tile of a die
that has room for one more; PRECISION refused: in the pipeline, or set on a SPARE or RECORD tile or on one of a die without
room; RETIRE of a spare tile: it is RETIRED, and RETIRE reads 0 again; HANDBACK of a tile that is not RETIRED returns the
tolerance of the check to 16 and the tile to the firmware; the spare test of a SPARE tile that is due, under firmware
management, which no request names: it is then named by a request to test it; a record tile fails while a spare tile is free:
it is RETIRED, and the spare tile takes its place. Readings and choices of the model that it rests on: log entries 29, 66, 67
and 119. -/
def Obligations.TileControls : Prop :=
  ∀ (s : State) (d t : Nat),
    (∀ (o : Order), s.tileWindow d t = true → Alone o → o.w.v % 2 = 1 → s.tst d t = tsServing → s.rd .TIL_CTRL_HOLD d t = 0 → s.ax .pendHold d t = 0 →
      Does (.tilCtrlHoldWrite d t o) s (fun x => x.rd .TIL_CTRL_HOLD d t = 1 ∧ x.tst d t = tsServing ∧ x.ax .pendHold d t = 1 + hcExpert ∧
      x.rd .TIL_STATUS_EXPERT d t = 1)) ∧
    (∀ (o : Order), s.tileWindow d t = true → Alone o → o.w.v % 2 = 0 → s.tst d t = tsServing → s.rd .TIL_CTRL_HOLD d t = 1 → s.ax .pendHold d t = 1 +
      hcExpert → Does (.tilCtrlHoldWrite d t o) s (fun x => x.rd .TIL_CTRL_HOLD d t = 0 ∧ x.ax .pendHold d t = 0 ∧ x.rd .TIL_STATUS_EXPERT d t = 1)) ∧
    (∀ (o : Order), s.tileWindow d t = true → Alone o → o.w.v % 2 = 1 → s.tst d t = tsFree → s.precisionRoom d t = true → Does (.tilCtrlPrecisionWrite
      d t o) s (fun x => x.rd .TIL_CTRL_PRECISION d t = 1)) ∧
    (∀ (o : Order), s.tileWindow d t = true → Alone o → o.w.v % 2 ≠ s.rd .TIL_CTRL_PRECISION d t → s.inPipe d t = true ∨ o.w.v % 2 = 1 ∧ (s.tst d t =
      tsSpare ∨ s.tst d t = tsRecord ∨ s.precisionRoom d t = false) → Does (.tilCtrlPrecisionWrite d t o) s (fun x => x.rd .TIL_CTRL_PRECISION d t =
      s.rd .TIL_CTRL_PRECISION d t ∧ x.rd .TIL_STATUS_REFUSED d t = 1)) ∧
    (∀ (o : Order), s.tileWindow d t = true → Alone o → o.w.v % 2 = 1 → s.tst d t = tsSpare → s.rd .TIL_CTRL_RETIRE d t = 0 → Does (.tilCtrlRetire d t
      o) s (fun x => x.tst d t = tsRetired ∧ x.rd .TIL_CTRL_RETIRE d t = 0)) ∧
    (∀ (o : Order), s.tileWindow d t = true → Alone o → o.w.v % 2 = 1 → s.tst d t ≠ tsRetired → Does (.tilCtrlHandback d t o) s (fun x =>
      x.rd .TIL_STATUS_EXPERT d t = 0 ∧ x.rd .TIL_CHECK_TOL d t = 16)) ∧
    (∀ (l : List Nat), s.online d = true → t < 1664 → t ∈ l → s.tst d t = tsSpare → s.rd .TIL_STATUS_EXPERT d t = 0 → s.progq.any (fun r => r.die == d
      && r.tile == t) = false → Does (.spareTileTest d l) s (fun x => ∃ r ∈ x.progq, r.die = d ∧ r.tile = t ∧ r.kind = 4 ∧ r.clearFirst = true ∧ r.what
      = .verify)) ∧
    (∀ (l g : List Nat) (n : Nat), s.online d = true → s.tst d t = tsRecord → s.freeSpare d = some n → n ≠ t → Does (.recordTileFailure d t l g) s
      (fun x => x.tst d t = tsRetired ∧ x.tst d n = tsRecord ∧ x.rd .TIL_STATUS_REPLACES d n = t % 2048))

/-- What the writes of driver and Hem registers do, outside the pipeline and in it (R86, R107, R110, R124). Each clause names
a command, the states and operands that it speaks of, and what holds of the next state that the command then answers. The
clauses: DRV_CFG, outside the pipeline, at once; DRV_CFG, in the pipeline, waits for a seam; DRV_CFG as it stands: no effect;
DRV_SLEW, outside the pipeline, at once; DRV_SLEW, in the pipeline, waits for a seam; DRV_SLEW with STEP 0: refused;
DRV_CFG.HANDBACK: the settings of the placement, the slew of the reset, and the firmware; HEM_CFG: the switches of the
statistics at once, and a change of RANGE outside the pipeline; HEM_CFG: a change of RANGE in the pipeline waits for a seam;
HEM_TAPS, outside the pipeline, at once; HEM_TAPS, in the pipeline, waits for a seam; HEM_TAPS with a tap of 40 or more:
refused; HEM_CTRL.CLEAR zeroes the counts and sums; HEM_CTRL.HANDBACK: RANGE and LIMIT of the placement, TOL of the reset,
and the firmware. Readings and choices of the model that it rests on: log entry 111. -/
def Obligations.DriversAndHems : Prop :=
  ∀ (s : State) (d t : Nat) (o : Order), s.tileWindow d t = true → Alone o →
    (o.w.v % 8 ≠ s.driveNow d t → s.inPipe d t = false → Does (.drvCfgWrite d t o) s (fun x => x.rd .DRV_CFG_SPAN d t = o.w.v / 4 % 2 ∧
      x.rd .DRV_CFG_FS d t = o.w.v % 4 ∧ x.rd .DRV_STAT_EXPERT d t = 1)) ∧
    (o.w.v % 8 ≠ s.driveNow d t → s.inPipe d t = true → Does (.drvCfgWrite d t o) s (fun x => x.rd .DRV_CFG_SPAN d t = s.rd .DRV_CFG_SPAN d t ∧
      x.rd .DRV_CFG_FS d t = s.rd .DRV_CFG_FS d t ∧ x.driveNow d t = o.w.v % 8 ∧ x.rd .DRV_STAT_PEND d t = 1 ∧ x.rd .DRV_STAT_EXPERT d t = 1)) ∧
    (o.w.v % 8 = s.driveNow d t → Does (.drvCfgWrite d t o) s (fun x => x = s)) ∧
    (o.w.v / 16 % 256 ≠ 0 → o.w.v % 4096 ≠ s.slewNow d t → s.inPipe d t = false → Does (.drvSlewWrite d t o) s (fun x => x.rd .DRV_STAT_EXPERT d t = 1
      ∧ x.rd .DRV_SLEW_STEP d t = o.w.v / 16 % 256 ∧ x.rd .DRV_SLEW_RATE d t = o.w.v % 16)) ∧
    (o.w.v / 16 % 256 ≠ 0 → o.w.v % 4096 ≠ s.slewNow d t → s.inPipe d t = true → Does (.drvSlewWrite d t o) s (fun x => x.rd .DRV_STAT_EXPERT d t = 1
      ∧ x.rd .DRV_SLEW_STEP d t = s.rd .DRV_SLEW_STEP d t ∧ x.slewNow d t = o.w.v % 4096 ∧ x.rd .DRV_STAT_PEND d t = 1)) ∧
    (o.w.v / 16 % 256 = 0 → Does (.drvSlewWrite d t o) s (fun x => x = s.wr .DRV_STAT_REFUSED 1 d t)) ∧
    (o.w.v % 2 = 1 → Does (.drvCfgHandback d t o) s (fun x => x.rd .DRV_STAT_EXPERT d t = 0 ∧ x.driveNow d t = s.placeDrive d t % 8 ∧ x.slewNow d t =
      512)) ∧
    (s.inPipe d t = false → Does (.hemCfgWrite d t o) s (fun x => x.rd .HEM_CFG_MSE_REF d t = o.w.v / 2 % 2 ∧ x.rd .HEM_CFG_MSE_Q d t = o.w.v % 2 ∧
      (o.w.v / 4 % 4 ≠ s.rangeNow d t → x.rd .HEM_CFG_RANGE d t = o.w.v / 4 % 4 ∧ x.ax .hemExpert d t = 1))) ∧
    (s.inPipe d t = true → o.w.v / 4 % 4 ≠ s.rangeNow d t → Does (.hemCfgWrite d t o) s (fun x => x.rd .HEM_CFG_MSE_REF d t = o.w.v / 2 % 2 ∧
      x.rd .HEM_CFG_MSE_Q d t = o.w.v % 2 ∧ x.rd .HEM_CFG_RANGE d t = s.rd .HEM_CFG_RANGE d t ∧ x.rangeNow d t = o.w.v / 4 % 4 ∧ x.ax .hemExpert d t =
      1)) ∧
    (o.w.v / 64 % 64 < 40 → o.w.v % 64 < 40 → o.w.v % 4096 ≠ s.tapsNow d t → s.inPipe d t = false → Does (.hemTapsWrite d t o) s (fun x =>
      x.rd .HEM_TAPS_WSTOP d t = o.w.v / 64 % 64 ∧ x.rd .HEM_TAPS_WSTART d t = o.w.v % 64 ∧ x.ax .hemExpert d t = 1)) ∧
    (o.w.v / 64 % 64 < 40 → o.w.v % 64 < 40 → o.w.v % 4096 ≠ s.tapsNow d t → s.inPipe d t = true → Does (.hemTapsWrite d t o) s (fun x =>
      x.rd .HEM_TAPS_PEND d t = 1 ∧ x.rd .HEM_TAPS_WSTOP d t = s.rd .HEM_TAPS_WSTOP d t ∧ x.tapsNow d t = o.w.v % 4096 ∧ x.ax .hemExpert d t = 1)) ∧
    (40 ≤ o.w.v / 64 % 64 ∨ 40 ≤ o.w.v % 64 → Does (.hemTapsWrite d t o) s (fun x => x = s.wr .TIL_STATUS_REFUSED 1 d t)) ∧
    (o.w.v % 2 = 1 → Does (.hemCtrlClear d t o) s (fun x => x.rd .HEM_CSAT_COUNT d t = 0 ∧ x.rd .HEM_OSAT_COUNT d t = 0 ∧ x.rd .HEM_RERUN_COUNT d t =
      0 ∧ x.rd .HEM_RSAT_COUNT d t = 0 ∧ x.rd .HEM_REFCHK_REF_FAILS d t = 0 ∧ x.rd .HEM_MSEREF_SUM_SUM d t = 0 ∧ x.rd .HEM_MSEREF_CNT_COUNT d t = 0 ∧
      x.rd .HEM_MSEQ_SUM_SUM d t = 0 ∧ x.rd .HEM_MSEQ_CNT_COUNT d t = 0)) ∧
    (o.w.v % 2 = 1 → Does (.hemCtrlHandback d t o) s (fun x => x.rangeNow d t = (s.placeHem d t).1 % 4 ∧ x.rd .HEM_SAT_LIMIT d t = (s.placeHem d t).2
      % 65536 ∧ x.rd .HEM_REFCHK_TOL d t = 6 ∧ x.ax .hemExpert d t = 0))

/-- Reads that latch a second word (R32, R125). Each clause names a command, the states and operands that it speaks of, and
what holds of the next state that the command then answers. The clauses: a 32-bit read of the low word of GLB_CAPACITY
returns it and latches the high word; a 32-bit read of the low word of HEM_MSEREF_SUM returns it and latches the high word
and the count; a 64-bit read of HEM_MSEREF_SUM returns both words and latches the count; a 32-bit read of the low word of
HEM_MSEQ_SUM returns it and latches the high word and the count; a 64-bit read of HEM_MSEQ_SUM returns both words and latches
the count. Readings and choices of the model that it rests on: log entry 77. -/
def Obligations.LatchingReads : Prop :=
  ∀ (s : State) (m : Master), reachesPf m = true →
    (Does (.glbCapacityLowRead m) s (fun x => x.outbox = s.outbox ++ [.readData m (regAddr .GLB_CAPACITY) 4 (s.regVal .GLB_CAPACITY % 2 ^ 32)] ∧
      x.latch.get none (Nat.pair (masterKey m) (regAddr .GLB_CAPACITY + 4)) = some (s.regVal .GLB_CAPACITY / 2 ^ 32))) ∧
    (∀ (d t : Nat), s.tileWindow d t = true → Does (.hemMseSumRead m d t false false) s (fun x => x.outbox = s.outbox ++ [.readData m
      (regAddr .HEM_MSEREF_SUM d t) 4 (s.regVal .HEM_MSEREF_SUM d t % 2 ^ 32)] ∧ x.latch.get none (Nat.pair (masterKey m) (regAddr .HEM_MSEREF_SUM d t +
      4)) = some (s.regVal .HEM_MSEREF_SUM d t / 2 ^ 32) ∧ x.latch.get none (Nat.pair (masterKey m) (regAddr .HEM_MSEREF_CNT d t)) = some
      (s.regVal .HEM_MSEREF_CNT d t))) ∧
    (∀ (d t : Nat), s.tileWindow d t = true → Does (.hemMseSumRead m d t false true) s (fun x => x.outbox = s.outbox ++ [.readData m
      (regAddr .HEM_MSEREF_SUM d t) 8 (s.regVal .HEM_MSEREF_SUM d t)] ∧ x.latch.get none (Nat.pair (masterKey m) (regAddr .HEM_MSEREF_CNT d t)) = some
      (s.regVal .HEM_MSEREF_CNT d t))) ∧
    (∀ (d t : Nat), s.tileWindow d t = true → Does (.hemMseSumRead m d t true false) s (fun x => x.outbox = s.outbox ++ [.readData m
      (regAddr .HEM_MSEQ_SUM d t) 4 (s.regVal .HEM_MSEQ_SUM d t % 2 ^ 32)] ∧ x.latch.get none (Nat.pair (masterKey m) (regAddr .HEM_MSEQ_SUM d t + 4)) =
      some (s.regVal .HEM_MSEQ_SUM d t / 2 ^ 32) ∧ x.latch.get none (Nat.pair (masterKey m) (regAddr .HEM_MSEQ_CNT d t)) = some (s.regVal .HEM_MSEQ_CNT
      d t))) ∧
    (∀ (d t : Nat), s.tileWindow d t = true → Does (.hemMseSumRead m d t true true) s (fun x => x.outbox = s.outbox ++ [.readData m
      (regAddr .HEM_MSEQ_SUM d t) 8 (s.regVal .HEM_MSEQ_SUM d t)] ∧ x.latch.get none (Nat.pair (masterKey m) (regAddr .HEM_MSEQ_CNT d t)) = some
      (s.regVal .HEM_MSEQ_CNT d t)))

/-- The waveform window and the players (R97, R98, R100, R101, R102, R104, R105). Each clause names a command, the states and
operands that it speaks of, and what holds of the next state that the command then answers. The clauses: a read of the window
returns the point that WFM_ADDR selects; a write of the window stores the point: waveform 32 to 63, in no running playback;
START, not timed, without STOP, of a playback that is not malformed, on a player of a free engine outside the clamp: it
plays, and its tile is PLAYING; STOP, not timed, ends a running playback; CANCEL ends a playback with ABORTED_BY_HOST; at its
time, a timed start on a free engine outside the clamp begins the playback; at its time, a timed stop ends the playback; the
end of a point interval goes on to the next point, where that is not END; WFM_STAT.HANDBACK ends the playbacks of the die and
returns the window. Readings and choices of the model that it rests on: log entry 64. -/
def Obligations.WaveformPlayback : Prop :=
  ∀ (s : State) (d n : Nat),
    (∀ (m : Master), s.dieWindow d = true → Does (.wfmDataAccess d (.read m)) s (fun x => x.outbox = s.outbox ++ [.readData m (regAddr .WFM_DATA d) 4
      (s.wavePoint d (s.rd .WFM_ADDR_WAVE d) (s.rd .WFM_ADDR_POINT d))])) ∧
    (∀ (o : Order), s.dieWindow d = true → Alone o → 32 ≤ s.rd .WFM_ADDR_WAVE d → s.plays.any (fun x => x.die == d && x.playing && x.wave ==
      s.rd .WFM_ADDR_WAVE d) = false → Does (.wfmDataAccess d (.write o)) s (fun x => x.wavePoint d (s.rd .WFM_ADDR_WAVE d) (s.rd .WFM_ADDR_POINT d) =
      o.w.v % 4096 ∧ x.ax .wfmExpert d = 1)) ∧
    (∀ (o : Order), s.isPlayer d n = true → Alone o → o.w.v % 2 = 1 → s.engineUses d n = false → s.clamped d = false → s.playMalformed (s.playOf d n)
      = false → s.rd .WFM_PLAY_CTRL_TSTART d n = 0 → pointKind (s.wavePoint d (s.rd .WFM_PLAY_CTRL_WAVE d n) 0) ≠ pkEnd → Does (.wfmPlayStart d n false
      o) s (fun x => x.rd .WFM_PLAY_STAT_STATE d n = 2 ∧ (x.play d n).isSome = true ∧ x.rd .DRV_STAT_PLAYING d (s.rd .WFM_PLAY_TARGET_TILE d n) = 1)) ∧
    (∀ (o : Order) (y : Play), s.isPlayer d n = true → Alone o → o.w.v % 2 = 1 → s.play d n = some y → y.playing = true → y.die = d → y.player = n →
      s.rd .WFM_PLAY_CTRL_TSTOP d n = 0 → Does (.wfmPlayStop d n o) s (fun x => x.play d n = none ∧ x.rd .WFM_PLAY_STAT_STATUS d n = (if y.order then
      stWindowOrder else stOK))) ∧
    (∀ (o : Order), s.isPlayer d n = true → Alone o → o.w.v % 2 = 1 → (s.play d n).isSome = true → Does (.wfmPlayCancel d n o) s (fun x => x.play d n
      = none ∧ x.rd .WFM_PLAY_STAT_STATUS d n = stAbortedByHost)) ∧
    (∀ (y : Play), s.play d n = some y → y.playing = false → y.die = d → y.player = n → y.start ≤ s.now → s.engineUses d n = false → s.clamped d =
      false → s.playMalformed y = false → pointKind (s.wavePoint d y.wave 0) ≠ pkEnd → Does (.wfmTimedStart d n) s (fun x => x.rd .WFM_PLAY_STAT_STATE d
      n = 2 ∧ x.rd .DRV_STAT_PLAYING d y.tile = 1)) ∧
    (∀ (y : Play), s.play d n = some y → y.playing = true → y.die = d → y.player = n → y.stop.any (fun t => decide (t ≤ s.now)) = true → Does
      (.wfmTimedStop d n) s (fun x => x.play d n = none)) ∧
    (∀ (y : Play), s.play d n = some y → y.playing = true → y.die = d → y.player = n → y.point + 1 < 256 → pointKind (s.wavePoint d y.wave (y.point +
      1)) ≠ pkEnd → Does (.wfmPointInterval d n) s (fun x => x.rd .WFM_PLAY_STAT_POINT d n = y.point + 1)) ∧
    (∀ (o : Order), s.dieWindow d = true → Alone o → o.w.v % 2 = 1 → Does (.wfmStatHandback d o) s (fun x => (∀ y ∈ x.plays, y.die ≠ d) ∧
      x.ax .wfmExpert d = 0))

/-- Traces, quick and full calibrations and the drift interval (R326, R328, R329, R332, R334, R335, R337, R338, R341). Each
clause names a command, the states and operands that it speaks of, and what holds of the next state that the command then
answers. The clauses: a trace that is due starts where the die is ready and no other die traces; the end of a trace within 2%
of the record: its time is recorded; 10 s after a rejection the trace starts again; the end of a quick calibration whose 24
stitches have been converted, and whose results pass the checks, ends the run of rejections; one whose results fail a check
is counted as a rejection; the one queued calibration that can run starts; the end of a full calibration whose stitches have
fired and whose results pass the checks is counted, and the tile is calibrated; a periodic full calibration that is due is
queued; the hourly save records D and A of each tile in the pipeline or STAGED; a drift interval posts a column check for
each SERVING tile that is in no full calibration. Readings and choices of the model that it rests on: log entries 8, 58, 120,
124 and 127. -/
def Obligations.TracesAndCalibration : Prop :=
  ∀ (s : State) (d t : Nat),
    (s.online d = true → s.traceReady d = true → s.traceIsDue d = true → s.onlineDies.any (fun e => s.ax .traceRun e == 1) = false → Does (.traceDue
      d) s (fun x => x.ax .traceRun d = 1)) ∧
    (∀ (rho : Rat), s.ax .traceRun d = 1 → (s.mon d).traceBad = false → s.convDown d 0 = false → s.convDown d 1 = false → s.tabF d 0 tGlobal 2 ≠ 0 → 0
      < rho → |rho / s.tabF d 0 tGlobal 2 - 1| ≤ 2 / 100 → Does (.traceEnd d rho) s (fun x => x.rd .CAL_LASTTRACE_TIME d = s.now % 2 ^ 64 ∧
      x.ax .traceRun d = 0 ∧ x.rd .CAL_CTRL_TRACE d = 0)) ∧
    (s.rd .CAL_STATUS_TRACE_FAULT d = 1 → s.onlineDies.any (fun e => s.ax .traceRun e == 1) = false → s.traceReady d = true → s.ax .traceAt d - 1 + 10
      ^ 10 ≤ s.now → Does (.traceRetry d) s (fun x => x.ax .traceRun d = 1)) ∧
    (∀ (out : CalOut) (c : CalRun), s.calRun d t false = some c → c.codes.length = 24 → (s.dropCal d t).calCheck d t (s.quickOut d t c.codes)
      ((s.dropCal d t).trimNow d t) ((s.dropCal d t).newDrift d t (s.quickOut d t c.codes).a) = none → Does (.quickCalEnd d t out) s (fun x =>
      x.rd .TIL_STATUS_CAL_REJ_RUN d t = 0)) ∧
    (∀ (out : CalOut) (c : CalRun), s.calRun d t false = some c → c.codes.length = 24 → ((s.dropCal d t).calCheck d t (s.quickOut d t c.codes)
      ((s.dropCal d t).trimNow d t) ((s.dropCal d t).newDrift d t (s.quickOut d t c.codes).a)).isSome = true → Does (.quickCalEnd d t out) s (fun x =>
      x.rd .CAL_REJECTS_COUNT d = s.countUp .CAL_REJECTS_COUNT 1 d)) ∧
    (∀ (r : CalReq), s.online d = true → s.rd .CAL_CTRL_HOLD d = 0 → s.rd .CLK_STAT_SAFE = 0 → s.calq = [r] → r.die = d → s.calCan r = true →
      s.fullReady d r.tile = true → s.rd .CAL_STATUS_BUSY d < s.rd .CAL_CFG_PAR d → Does (.fullCalStart d) s (fun x => x.rd .HEM_TAPS_STALE d r.tile = 1
      ∧ x.calq = [] ∧ (∃ y ∈ x.cals, y.die = d ∧ y.tile = r.tile ∧ y.full = true))) ∧
    (∀ (out : CalOut) (c : CalRun), s.calRun d t true = some c → c.left = 0 → out.badRows = 0 → (let a := ((((s.dropCal d t).countRows d t
      out).wr .HEM_TAPS_STALE 0 d t).bump .CAL_FULLS_COUNT 1 d); let y := (if a.trimmed d t then a.calTaps d t out else ⟨out, 0, []⟩); a.calCheck d t
      y.out (fun p => trimOf (wrap 8 (y.out.trims.getD p 0))) (a.newDrift d t out.a)) = none → Does (.fullCalEnd d t out) s (fun x => (x.tile d
      t).calibrated = true ∧ x.rd .CAL_FULLS_COUNT d = s.countUp .CAL_FULLS_COUNT 1 d ∧ x.rd .TIL_STATUS_CAL_REJ_RUN d t = 0)) ∧
    (s.online d = true → s.rd .CAL_CFG_FULL_DAYS d ≠ 0 → (s.placeOf d t).isSome = true → s.tst d t = tsServing → (s.tile d t).fullAt +
      s.rd .CAL_CFG_FULL_DAYS d * 86400 * 10 ^ 9 ≤ s.now → Does (.periodicFullCalDue d t) s (fun x => ∃ r ∈ x.calq, r.die = d ∧ r.tile = t)) ∧
    (s.online d = true → t ∈ s.heldTiles d → Does (.recordHourlySave d) s (fun x => x.record d t =
      { s.record d t with d := s.tab d t tVal 0, a := s.tab d t tVal 7 })) ∧
    (∀ (a : Int) (l : List (Nat × Nat × Nat)), s.online d = true → Does (.driftInterval d a l) s (fun x => x.ax .driftPrev d = s.now + 1 ∧ (t < 1664 →
      s.tst d t = tsServing → s.cals.any (fun c => c.die == d && c.tile == t && c.full) = false → x.checks.any (fun c => c.die == d && c.tile == t) =
      true)))

/-- The calibration registers, the table window, and the end of a refresh (R343, R346, R348). Each clause names a command,
the states and operands that it speaks of, and what holds of the next state that the command then answers. The clauses: a
change of CAL_CTRL.HOLD is taken, and is an expert write; CAL_CTRL.CLEAR zeroes the counts; CAL_CTRL.HANDBACK clears HOLD and
returns the engine; CAL_CTRL.TRACE asks for a trace, which starts at once where it can; CAL_HANDBACK.GO returns the tables of
the tile to the firmware; a read of CAL_TAB_DATA returns the entry that CAL_TAB_ADDR selects; a write of CAL_TAB_DATA that
the entry accepts makes the tables of the tile the expert's; the end of a refresh that has run its course takes it off the
list. Readings and choices of the model that it rests on: log entries 25 and 111. -/
def Obligations.CalibrationRegisters : Prop :=
  ∀ (s : State) (d t : Nat),
    (∀ (o : Order), s.dieWindow d = true → Alone o → o.w.v % 2 ≠ s.rd .CAL_CTRL_HOLD d → Does (.calCtrlHoldWrite d o) s (fun x => x.rd .CAL_CTRL_HOLD
      d = o.w.v % 2 ∧ x.ax .calExpert d = 1)) ∧
    (∀ (o : Order), s.dieWindow d = true → Alone o → o.w.v % 2 = 1 → Does (.calCtrlClear d o) s (fun x => x.rd .CAL_REJECTS_COUNT d = 0 ∧
      x.rd .CAL_FULLS_COUNT d = 0)) ∧
    (∀ (o : Order), s.dieWindow d = true → Alone o → o.w.v % 2 = 1 → Does (.calCtrlHandback d o) s (fun x => x.rd .CAL_CTRL_HOLD d = 0 ∧
      x.ax .calExpert d = 0)) ∧
    (∀ (o : Order), s.dieWindow d = true → Alone o → o.w.v % 2 = 1 → s.rd .CAL_CTRL_TRACE d < 2 → Does (.calCtrlTrace d o) s (fun x =>
      x.rd .CAL_CTRL_TRACE d = 1 ∧ (s.traceReady d = true → s.rd .CAL_CTRL_TRACE d = 0 → s.onlineDies.any (fun e => s.ax .traceRun e == 1) = false →
      x.ax .traceRun d = 1))) ∧
    (∀ (o : Order), s.tileWindow d t = true → Alone o → o.w.v % 2 = 1 → Does (.calHandbackGo d t o) s (fun x => (x.tile d t).expert = false)) ∧
    (∀ (m : Master), s.dieWindow d = true → Does (.calTabDataAccess d (.read m)) s (fun x => x.outbox = s.outbox ++ [.readData m
      (regAddr .CAL_TAB_DATA d) 4 (s.tabRead d)])) ∧
    (∀ (o : Order), s.dieWindow d = true → Alone o → s.tabAccepts d o.w.v = true → Does (.calTabDataAccess d (.write o)) s (fun x => (x.tile d
      (s.rd .CAL_TAB_ADDR_TILE d)).expert = true ∧ x.rd .CAL_STATUS_EXPERT d = 1)) ∧
    (∀ (y : Refresh), s.refreshOf d t = some y → y.die = d → y.tile = t → y.phase = .done → Does (.refreshEnd d t) s (fun x => ∀ y ∈ x.refreshes,
      ¬(y.die = d ∧ y.tile = t)))

/-- Loss and return of a clock source (R462, R463, R464, R465, R466, R476). Each clause names a command, the states and
operands that it speaks of, and what holds of the next state that the command then answers. The clauses: a source that was
ready is lost: its ready bit clears, the loss is counted, and where it feeds a clock the part enters the safe state (which
sources feed one is the model's reading, log entry 18); the crystal is lost while mgmt_clk runs on it and the RC oscillator
is ready: device time holds over on the RC oscillator; the crystal is lost while mgmt_clk runs on it and the RC oscillator is
not ready: the one-shot begins, in the safe state; a PLL of a die loses its lock: its lock bit clears, in the safe state; the
one-shot expires: the part has no clock; a source is ready: its ready bit sets; the crystal comes back to a part without a
clock: it starts up again; the RC oscillator is ready before the one-shot ends: mgmt_clk runs on it; the last missing source
is back and no power loss is open: the safe state and the holdover end. -/
def Obligations.SourcesOfClock : Prop :=
  ∀ (s : State),
    (∀ (src die pll : Nat), 1 ≤ src → src ≤ 3 → s.rdb (readyField src) = true → Does (.sourceLoss src die pll) s (fun x => x.rd (readyField src) = 0 ∧
      x.rd .CLK_STAT_LOSSES = s.countUp .CLK_STAT_LOSSES ∧ (s.feeds src = true → x.rd .CLK_STAT_SAFE = 1))) ∧
    (∀ (die pll : Nat), s.rdb .CLK_STAT_XTAL_READY = true → s.rdb .CLK_CTRL_MGMT_SRC = false → s.rdb .CLK_STAT_RC_READY = true → Does (.sourceLoss 1
      die pll) s (fun x => x.rd .CLK_STAT_MGMT_ON_RC = 1 ∧ x.rd .CLK_DTCTRL_HOLDOVER = 1)) ∧
    (∀ (die pll : Nat), s.rdb .CLK_STAT_XTAL_READY = true → s.rdb .CLK_CTRL_MGMT_SRC = false → s.rdb .CLK_STAT_RC_READY = false → Does (.sourceLoss 1
      die pll) s (fun x => x.ax .oneShot = 1 ∧ x.rd .CLK_STAT_SAFE = 1 ∧ x.rd .CLK_DTCTRL_HOLDOVER = 1)) ∧
    (∀ (die pll : Nat), die < s.part.dies → pll < 5 → Does (.sourceLoss 4 die pll) s (fun x => bit (x.rd .CLK_LOCK_LOCK 0 die) pll = false ∧
      x.rd .CLK_STAT_SAFE = 1)) ∧
    (s.ax .oneShot = 1 → Does (.clockOneShotExpiry) s (fun x => x.rd .CLK_STAT_NOCLOCK = 1)) ∧
    (∀ (src : Nat), 1 ≤ src → src ≤ 3 → Does (.sourceReady src) s (fun x => x.rd (readyField src) = 1)) ∧
    (s.rdb .CLK_STAT_NOCLOCK = true → Does (.sourceReady 1) s (fun x => x.rd .CLK_STAT_NOCLOCK = 0 ∧ x.rd .CLK_STAT_MGMT_ON_RC = 0 ∧
      x.rd .START_REPORT_STATE = 0)) ∧
    (s.rdb .CLK_STAT_NOCLOCK = false → s.ax .oneShot = 1 → Does (.sourceReady 3) s (fun x => x.ax .oneShot = 0 ∧ x.rd .CLK_STAT_MGMT_ON_RC = 1)) ∧
    (∀ (src : Nat), 1 ≤ src → src ≤ 2 → s.rdb .CLK_STAT_NOCLOCK = false → s.ax .railWait = 0 → s.ax .saveWait = 0 → s.ax .perst = 0 →
      s.rdb .CLK_STAT_SAFE = true → s.ax .lossAt ≠ 0 → (s.wr (readyField src) 1).sourcesBack = true → Does (.sourceReady src) s (fun x =>
      x.rd .CLK_STAT_SAFE = 0 ∧ x.rd .CLK_DTCTRL_HOLDOVER = 0 ∧ x.rd .CLK_STAT_MGMT_ON_RC = s.rd .CLK_CTRL_MGMT_SRC ∧ x.ax .lossAt = 0))

/-- What the writes of the clock registers do, and their late effects (R455, R456, R457, R459, R460, R461). Each clause names
a command, the states and operands that it speaks of, and what holds of the next state that the command then answers. The
clauses: an accepted PLL setting with another feedback divider is stored, is an expert write, and unlocks the PLL on every
die until it has relocked; a PLL setting as it stands: no effect; a PLL setting that is not accepted is refused; a PLL has
relocked and the ratios of the clocks hold: it is locked on every die; MGMT_SRC, changed to a source that is ready: mgmt_clk
moves to it, and the write is an expert write; MGMT_SRC, written with a source that is not ready: refused; ROOT, set to 0
while every die is gated: taken, an expert write; ROOT, written 0 while a die runs: refused; CLK_CTRL.HANDBACK, where it
changes no setting of the stitch timing PLL or HOLD_ALL is 1: the reset settings of PLLs 0 to 3, ROOT, the crystal and the
firmware; a gate write that no rule refuses stores its word; a gate write that would stop a unit it must not stop: refused;
the units whose gate-off waits are idle: they stop, and PEND clears; a unit that is still busy goes on, and PEND reads 1;
CLK_CTRL.HANDBACK that would change the stitch timing PLL while HOLD_ALL is 0: refused. Readings and choices of the model
that it rests on: log entries 37, 78 and 79. -/
def Obligations.ClockRegisters : Prop :=
  ∀ (s : State) (o : Order), Alone o →
    (∀ (p : Nat), p < 5 → s.pllAccepts p (pllWord o.w.v) = true → (pllWord o.w.v).fb ≠ (s.pll p).fb → Does (.clkPllWrite p o) s (fun x => x.pll p =
      pllWord o.w.v ∧ x.ax .relock 0 p = 1 ∧ x.rd .CLK_STAT_EXPERT = 1 ∧ ∀ d, d < s.part.dies → bit (x.rd .CLK_LOCK_LOCK 0 d) p = false)) ∧
    (∀ (p : Nat), p < 5 → s.pllAccepts p (pllWord o.w.v) = true → pllWord o.w.v = s.pll p → Does (.clkPllWrite p o) s (fun x => x = s)) ∧
    (∀ (p : Nat), p < 5 → s.pllAccepts p (pllWord o.w.v) = false → Does (.clkPllWrite p o) s (fun x => x.rd .CLK_STAT_REFUSED = 1 ∧ x.pll p = s.pll
      p)) ∧
    (∀ (p : Nat), p < 5 → s.ax .relock 0 p = 1 → s.ratiosHold = true → Does (.pllRelockDone p) s (fun x => x.ax .relock 0 p = 0 ∧ ∀ d, d < s.part.dies
      → bit (x.rd .CLK_LOCK_LOCK 0 d) p = true)) ∧
    (s.rdb (if o.w.v % 2 = 1 then .CLK_STAT_RC_READY else .CLK_STAT_XTAL_READY) = true → s.rd .CLK_CTRL_MGMT_SRC ≠ o.w.v % 2 → Does
      (.clkCtrlMgmtSrcWrite o) s (fun x => x.rd .CLK_CTRL_MGMT_SRC = o.w.v % 2 ∧ x.rd .CLK_STAT_MGMT_ON_RC = o.w.v % 2 ∧ x.rd .CLK_STAT_EXPERT = 1)) ∧
    (s.rdb (if o.w.v % 2 = 1 then .CLK_STAT_RC_READY else .CLK_STAT_XTAL_READY) = false → Does (.clkCtrlMgmtSrcWrite o) s (fun x =>
      x.rd .CLK_STAT_REFUSED = 1 ∧ x.rd .CLK_CTRL_MGMT_SRC = s.rd .CLK_CTRL_MGMT_SRC)) ∧
    (o.w.v % 2 = 0 → s.dies.any (fun d => s.rdb .CLK_GATE_DIE 0 d) = false → s.rd .CLK_CTRL_ROOT = 1 → Does (.clkCtrlRootWrite o) s (fun x =>
      x.rd .CLK_CTRL_ROOT = 0 ∧ x.rd .CLK_STAT_EXPERT = 1)) ∧
    (o.w.v % 2 = 0 → s.dies.any (fun d => s.rdb .CLK_GATE_DIE 0 d) = true → Does (.clkCtrlRootWrite o) s (fun x => x.rd .CLK_CTRL_ROOT =
      s.rd .CLK_CTRL_ROOT ∧ x.rd .CLK_GATE_STATUS_REFUSED = 1)) ∧
    (o.w.v % 2 = 1 → s.pll 3 = s.pllReset 3 ∨ s.rdb .YOK_CTRL_HOLD_ALL = true → Does (.clkCtrlHandback o) s (fun x => x.rd .CLK_CTRL_ROOT = 1 ∧
      x.rd .CLK_CTRL_MGMT_SRC = 0 ∧ x.rd .CLK_STAT_EXPERT = 0 ∧ ∀ p, p < 4 → x.pll p = s.pllReset p)) ∧
    (∀ (kind die : Nat), die < s.part.dies → kind ≤ 3 → s.gateRefuses kind die o.w.v = false → Does (.clkGateWrite kind die o) s (fun x => x.rd
      (gateField kind) 0 die = o.w.v % 2 ^ (gateField kind).width)) ∧
    (∀ (kind die : Nat), die < s.part.dies → kind ≤ 3 → s.gateRefuses kind die o.w.v = true → Does (.clkGateWrite kind die o) s (fun x =>
      x.rd .CLK_GATE_STATUS_REFUSED = 1 ∧ x.rd (gateField kind) 0 die = s.rd (gateField kind) 0 die)) ∧
    (∀ (kind die : Nat), s.ax .gatePend die kind ≠ 0 → (List.range 52).all (fun b => !(bit (s.ax .gatePend die kind) b && s.unitBusy kind die b)) =
      true → ∀ d k, ¬(d = die ∧ k = kind) → s.ax .gatePend d k = 0 → Does (.gateOffEffect kind die) s (fun x => x.ax .gatePend die kind = 0 ∧
      x.rd .CLK_GATE_STATUS_PEND = 0)) ∧
    (∀ (die : Nat), bit (s.ax .gatePend die 1) 1 = true → s.rdb .DGA_STATUS_BUSY die = true → die < 8 → Does (.gateOffEffect 1 die) s (fun x => bit
      (x.ax .gatePend die 1) 1 = true ∧ x.rd .CLK_GATE_STATUS_PEND = s.rd .CLK_GATE_STATUS_PEND)) ∧
    (o.w.v % 2 = 1 → s.pll 3 ≠ s.pllReset 3 → s.rdb .YOK_CTRL_HOLD_ALL = false → Does (.clkCtrlHandback o) s (fun x => x.rd .CLK_STAT_REFUSED = 1 ∧
      x.pll 3 = s.pll 3))

/-- Device time: set by the host, by TIME_PPS, and its half rate (R477, R478). Each clause names a command, the states and
operands that it speaks of, and what holds of the next state that the command then answers. The clauses: CLK_DTCTRL.SET puts
the time set into device time; CLK_DTCTRL.SET_PPS asks for the next edge; the next edge of TIME_PPS puts the time set into
device time and takes the request back; an edge further from the second than the window is counted as rejected and moves no
time; an edge while PPS_EN is 0 only triggers what waits for it; an accepted edge while device time is ahead starts the half
rate, to absorb the error; an accepted edge while device time is behind adds the error at once; 3 s without an accepted edge:
PPS is lost; the error is absorbed: the half rate ends. Readings and choices of the model that it rests on: log entry 35. -/
def Obligations.DeviceTime : Prop :=
  ∀ (s : State),
    (∀ (o : Order), Alone o → o.w.v % 2 = 1 → Does (.clkDtctrlSet o) s (fun x => x.now = s.rd .CLK_DTSET_TIME)) ∧
    (∀ (o : Order), Alone o → o.w.v % 2 = 1 → Does (.clkDtctrlSetPps o) s (fun x => x.rd .CLK_DTCTRL_SET_PPS = 1)) ∧
    (s.rdb .CLK_DTCTRL_PPS_EN = true → s.rdb .CLK_DTCTRL_SET_PPS = true → Does (.timePpsEdge) s (fun x => x.now = s.rd .CLK_DTSET_TIME ∧
      x.rd .CLK_DTCTRL_SET_PPS = 0)) ∧
    (s.rdb .CLK_DTCTRL_PPS_EN = true → s.rdb .CLK_DTCTRL_SET_PPS = false → (ppsError s.now).natAbs > 1000 * s.rd .CLK_DTCTRL_WINDOW → Does
      (.timePpsEdge) s (fun x => x.rd .CLK_DTCTRL_REJECTS = s.countUp .CLK_DTCTRL_REJECTS ∧ x.dt = s.dt)) ∧
    (s.ppsTrigger.rdb .CLK_DTCTRL_PPS_EN = false → Does (.timePpsEdge) s (fun x => x = s.ppsTrigger)) ∧
    (s.rdb .CLK_DTCTRL_PPS_EN = true → s.rdb .CLK_DTCTRL_SET_PPS = false → 0 < ppsError s.now → (ppsError s.now).natAbs ≤ 1000 *
      s.rd .CLK_DTCTRL_WINDOW → Does (.timePpsEdge) s (fun x => x.ax .halfRate = 1 ∧ (x.ax .ppsAbsorb : Int) = 8 * ppsError s.now ∧ x.dt = s.dt ∧
      x.ax .lastPps = s.now + 1)) ∧
    (s.rdb .CLK_DTCTRL_PPS_EN = true → s.rdb .CLK_DTCTRL_SET_PPS = false → ppsError s.now < 0 → (ppsError s.now).natAbs ≤ 1000 *
      s.rd .CLK_DTCTRL_WINDOW → Does (.timePpsEdge) s (fun x => (x.dt : Int) = s.dt - 8 * ppsError s.now)) ∧
    (s.rdb .CLK_DTCTRL_PPS_EN = true → s.rdb .CLK_DTCTRL_PPS_LOST = false → (s.ax .lastPps - 1) + 3000000000 ≤ s.now → Does (.ppsLossTimeout) s (fun x
      => x.rd .CLK_DTCTRL_PPS_LOST = 1)) ∧
    (s.ax .halfRate = 1 → s.ax .ppsAbsorb = 0 → Does (.ppsErrorAbsorbed) s (fun x => x.ax .halfRate = 0))

/-- Power measurement, thermal protection and hand-back (R468, R474, R475). Each clause names a command, the states and
operands that it speaks of, and what holds of the next state that the command then answers. The clauses: a measurement of the
dies is stored, saturated at 65,535, for every online die; at Tj_max - MARGIN or above, the allowance of the die falls by 10
(percentage points: the model's reading, log entry 80); between the two temperatures neither check has an effect; below
Tj_max - MARGIN - 2 K, the allowance of the die rises by 5; the comparator of a die trips: the die goes offline with cause
THERMAL, and TSHUT latches; PWR_CTRL.HANDBACK: the reset budgets of each die, and the firmware. Readings and choices of the
model that it rests on: log entries 31 and 80. -/
def Obligations.PowerManager : Prop :=
  ∀ (s : State),
    (∀ (meas : List Nat) (d : Nat), s.online d = true → Does (.powerMeasure meas) s (fun x => x.rd .PWR_DIE_MEAS 0 d = min (meas.getD d 0) 65535)) ∧
    (∀ (d : Nat) (t : Int), s.online d = true → d < 16 → t ≥ 16 * ((tjMax s.part : Int) - s.rd .PWR_THERM_MARGIN) → Does (.thermalCheck d t) s (fun x
      => x.ax .thermCut d = min 100 (s.ax .thermCut d + 10) ∧ bit (x.rd .PWR_STAT_THERM) d = true)) ∧
    (∀ (d : Nat) (t : Int), t < 16 * ((tjMax s.part : Int) - s.rd .PWR_THERM_MARGIN) → Does (.thermalCheck d t) s (fun x => x = s)) ∧
    (∀ (d : Nat) (t : Int), s.online d = true → d < 16 → t < 16 * ((tjMax s.part : Int) - s.rd .PWR_THERM_MARGIN - 2) → Does (.thermalRestoreStep d t)
      s (fun x => x.ax .thermCut d = s.ax .thermCut d - 5 ∧ (s.ax .thermCut d ≤ 5 → bit (x.rd .PWR_STAT_THERM) d = false))) ∧
    (∀ (d : Nat) (t : Int), s.online d = true → d < 16 → Does (.thermalComparatorTrip d t) s (fun x => x.online d = false ∧ bit (x.rd .PWR_STAT_TSHUT)
      d = true ∧ x.rd .FLT_DIE_CAUSE 0 d = 5)) ∧
    (∀ (o : Order), Alone o → o.w.v % 2 = 1 → Does (.pwrCtrlHandback o) s (fun x => x.rd .PWR_STAT_EXPERT = 0 ∧ ∀ d, d < s.part.dies →
      x.rd .PWR_DIE_BUDGET 0 d = 384 ∧ x.rd .PWR_DIE_FAB_CAP 0 d = 80 ∧ x.rd .PWR_DIE_DGA_CAP 0 d = 192))

/-- Shedding: PWR_SHED rises, the windows, and the way back (R469, R470, R471, R472). Each clause names a command, the states
and operands that it speaks of, and what holds of the next state that the command then answers. The clauses: PWR_SHED rises:
SHED_IN sets, and the throttle of before is kept, or, while the steps back of the shed before still run, the one that they
bring back; in the first 2 ms of a shed, a duty step lowers each duty above the shed duty by at most 32 towards it, where the
array is the firmware's; PWR_SHED falls: SHED_IN clears, and 8 steps back begin; the last step back brings the throttle of
before, where the Yoke is the firmware's; a window whose mean is within the budget sets SHED_MET; a window whose mean is over
the budget clears SHED_MET and is remembered as missed; after ADVISE minutes of shedding it counts as long. Readings and
choices of the model that it rests on: log entry 19. -/
def Obligations.PowerShedding : Prop :=
  ∀ (s : State),
    (s.rdb .PWR_STAT_SHED_IN = false → Does (.pwrShedAssert) s (fun x => x.rd .PWR_STAT_SHED_IN = 1 ∧ x.rd .PWR_STAT_SHED_MET = 0 ∧
      x.ax .shedOldThrottle = (if s.ax .shedSteps = 0 then s.rd .YOK_THROTTLE_TICKS else s.ax .shedOldThrottle))) ∧
    (∀ (d : Nat), s.shedFirst = true → s.online d = true → s.rdb .DGA_STATUS_EXPERT d = false → s.shedDutyOf d < s.rd .DGA_DUTY_DUTY d → Does
      (.shedDutyStep) s (fun x => x.rd .DGA_DUTY_DUTY d = max 1 (min 256 (max (s.shedDutyOf d) (s.rd .DGA_DUTY_DUTY d - 32))))) ∧
    (s.rdb .PWR_STAT_SHED_IN = true → Does (.pwrShedRelease) s (fun x => x.rd .PWR_STAT_SHED_IN = 0 ∧ x.ax .shedSteps = 8)) ∧
    (s.ax .shedSteps = 1 → s.rdb .PWR_STAT_SHED_IN = false → s.rdb .YOK_STATUS_EXPERT = false → Does (.shedRestoreStep) s (fun x => x.ax .shedSteps =
      0 ∧ x.rd .YOK_THROTTLE_TICKS = min (s.ax .shedOldThrottle) 65535)) ∧
    (∀ (mean : Nat), s.rdb .PWR_STAT_SHED_IN = true → mean ≤ s.rd .PWR_SHED_BUDGET_WATTS → Does (.shedWindowEnd mean) s (fun x =>
      x.rd .PWR_STAT_SHED_MET = 1)) ∧
    (∀ (mean : Nat), s.rdb .PWR_STAT_SHED_IN = true → s.rd .PWR_SHED_BUDGET_WATTS < mean → Does (.shedWindowEnd mean) s (fun x =>
      x.rd .PWR_STAT_SHED_MET = 0 ∧ x.ax .shedMissed = 1)) ∧
    (s.rdb .PWR_STAT_SHED_IN = true → s.rd .PWR_SHED_CFG_ADVISE ≠ 0 → s.ax .shedLong = 0 → (s.ax .shedAt - 1) + s.rd .PWR_SHED_CFG_ADVISE *
      60000000000 ≤ s.now → Does (.shedAdviseExpiry) s (fun x => x.ax .shedLong = 1))

/-- What a received ACK, NAK, HEARTBEAT, JOURNAL or STATE flit does, on a link that is up (R435, R436, R437, R439, R440).
Each clause names a command, the states and operands that it speaks of, and what holds of the next state that the command
then answers. The clauses: ACK takes off the flits that it acknowledges; the others stay in their order; NAK sends again
every flit sent that it does not acknowledge, where none has been replayed three times; HEARTBEAT of a partner of the other
rank: its time, rank, epoch and roles are taken; HEARTBEAT of a partner of the same rank sets RANK_CLASH; JOURNAL to a
STANDBY or FENCED function, a descriptor not held yet: it is held; a flit with the number of one already received: it is
acknowledged, and no more; a flit that does not follow the last one received: NAK; JOURNAL to it, a program unloaded: it is
dropped; JOURNAL to it, a program loaded: it is held under its handle; JOURNAL to another function, or with RANK_CLASH: only
the header is taken, and acknowledged; STATE to it, the pointers of a pair: they are taken; STATE to it, a commit record: it
is held, and of its bytes those in regions that the function declares are written; STATE to it, bytes of a region for which
the function has the pages: they are stored; STATE to it, quotas, grants and JOB_CFG: they are taken; STATE to it, a map of a
slot that it may use, not bound here and unlike the active one: MISMATCH, not READY; STATE to it, whole: it is READY unless a
slot that it may use differs; STATE with RANK_CLASH: only the header is taken, and acknowledged; STATE of an ACTIVE function,
the map of a slot: its digest is noted. -/
def Obligations.FlitsReceived : Prop :=
  ∀ (s : State) (h : FlitHdr), s.rd .MIR_STAT_LINK = 2 → h.crcOk = true →
    (Does (.ackFlit h) s (fun x => x.ax .flitAck = s.ax .flitAck ∧ x.flits.map (fun f => f.seq) = (s.flits.filter (fun f => !(f.sent && ackCovers
      h.ack f.seq))).map (fun f => f.seq))) ∧
    (Does (.nakFlit h) s (fun x => ∀ f ∈ s.flits, f.sent = true → ackCovers h.ack f.seq = false → (∀ g ∈ s.flits, g.replays < 3) → ∃ g ∈ x.flits,
      g.seq = f.seq ∧ g.payload = f.payload ∧ g.replays = f.replays + 1 ∧ g.time = s.now)) ∧
    (∀ (rank epoch time : Nat) (roles : List Nat), rank ≠ s.rd .MIR_CFG_RANK → Does (.heartbeatFlit h rank epoch time roles) s (fun x =>
      x.rd .MIR_LASTHB_TIME = s.now % 2 ^ 64 ∧ x.ax .peerRank = rank ∧ x.ax .hbSeen = 1 ∧ x.rd .MIR_STAT_RANK_CLASH = 0 ∧ x.rd .MIR_EPOCH_EPOCH = max
      (s.rd .MIR_EPOCH_EPOCH) epoch % 2 ^ Field.width .MIR_EPOCH_EPOCH ∧ ∀ k, k < roles.length → x.ax .peerRole k = roles.getD k 0)) ∧
    (∀ (rank epoch time : Nat) (roles : List Nat), rank = s.rd .MIR_CFG_RANK → s.rd .MIR_STAT_RANK_CLASH ≤ 1 → Does (.heartbeatFlit h rank epoch time
      roles) s (fun x => x.rd .MIR_STAT_RANK_CLASH = 1)) ∧
    (∀ (fn j : Nat) (d : BitVec 512), h.seq % 2 ^ 16 = (s.ax .flitAck + 1) % 2 ^ 16 → s.holdsState fn = true → s.rdb .MIR_STAT_RANK_CLASH = false →
      s.journal.any (fun e => e.fn == fn && e.job == j) = false → Does (.journalFlit h fn (.desc j d)) s (fun x => x.journal = s.journal ++ [JEntry.mk
      fn j d.toNat])) ∧
    (∀ (fn : Nat) (m : JournalMsg), h.seq % 2 ^ 16 ≠ (s.ax .flitAck + 1) % 2 ^ 16 → ackCovers (s.ax .flitAck) (h.seq % 2 ^ 16) = true → Does
      (.journalFlit h fn m) s (fun x => x = (s.ackFlits h.ack).sendAck)) ∧
    (∀ (fn : Nat) (m : StateMsg), h.seq % 2 ^ 16 ≠ (s.ax .flitAck + 1) % 2 ^ 16 → ackCovers (s.ax .flitAck) (h.seq % 2 ^ 16) = false → Does
      (.stateFlit h fn m) s (fun x => x = (s.ackFlits h.ack).sendNak)) ∧
    (∀ (fn k : Nat), h.seq % 2 ^ 16 = (s.ax .flitAck + 1) % 2 ^ 16 → s.holdsState fn = true → s.rdb .MIR_STAT_RANK_CLASH = false → Does (.journalFlit
      h fn (.unload k)) s (fun x => ∀ p, p ∈ x.progs ↔ p ∈ s.progs ∧ p.handle ≠ k)) ∧
    (∀ (fn k : Nat) (b : List Byte), h.seq % 2 ^ 16 = (s.ax .flitAck + 1) % 2 ^ 16 → s.holdsState fn = true → s.rdb .MIR_STAT_RANK_CLASH = false →
      Does (.journalFlit h fn (.load k b)) s (fun x => (x.progs.filter (fun p => p.handle == k)).length = 1)) ∧
    (∀ (fn : Nat) (m : JournalMsg), h.seq % 2 ^ 16 = (s.ax .flitAck + 1) % 2 ^ 16 → (s.ackFlits h.ack).holdsState fn = false ∨ (s.ackFlits
      h.ack).linkOpen = false → Does (.journalFlit h fn m) s (fun x => x = (((s.ackFlits h.ack).setAx .flitAck (h.seq % 2 ^ 16))).sendAck)) ∧
    (∀ (fn : Nat) (p : PtrMsg), h.seq % 2 ^ 16 = (s.ax .flitAck + 1) % 2 ^ 16 → s.holdsState fn = true → s.rdb .MIR_STAT_RANK_CLASH = false → Does
      (.stateFlit h fn (.pointers p)) s (fun x => x.qp p.q = some ⟨fn, p.entry, p.fetched, p.completed, 0, none⟩ ∧ x.rd .QP_SQTAIL_INDEX fn p.entry =
      p.tail % 65536 ∧ x.rd .QP_CQHEAD_INDEX fn p.entry = p.cqHead % 65536 ∧ x.rd .QP_STAT_SQHEAD fn p.entry = p.head % 65536)) ∧
    (∀ (fn j q n : Nat) (b : BitVec 128) (w : List (Nat × Byte)), h.seq % 2 ^ 16 = (s.ax .flitAck + 1) % 2 ^ 16 → s.holdsState fn = true →
      s.rdb .MIR_STAT_RANK_CLASH = false → Does (.stateFlit h fn (.commit j q n b w)) s (fun x => x.commits = s.commits ++ [CommitRec.mk fn j q n
      b.toNat] ∧ (w.filter (fun e => inRanges ((s.regions.filter (fun r => r.fn == fn)).map Region.range) e.1 1)).getLast?.all (fun e => x.byte (memKey
      fn e.1) == e.2) = true)) ∧
    (∀ (fn a : Nat) (bs : List Byte), h.seq % 2 ^ 16 = (s.ax .flitAck + 1) % 2 ^ 16 → s.holdsState fn = true → s.rdb .MIR_STAT_RANK_CLASH = false →
      (((s.ackFlits h.ack).setAx .flitAck (h.seq % 2 ^ 16)).holdRegion fn (devDie a) (devOff a / 4096) (cdiv bs.length 4096)).1 = true → Does
      (.stateFlit h fn (.region a bs)) s (fun x => ∀ k, k < bs.length → x.byte (memKey fn a + k) = bs.getD k 0)) ∧
    (∀ (fn q0 q1 q2 sh g jc : Nat), h.seq % 2 ^ 16 = (s.ax .flitAck + 1) % 2 ^ 16 → s.holdsState fn = true → s.rdb .MIR_STAT_RANK_CLASH = false → Does
      (.stateFlit h fn (.quotas q0 q1 q2 sh g jc)) s (fun x => x.rd .FNQ_Q1_BANKS fn = q1 % 2 ^ Field.width .FNQ_Q1_BANKS ∧ x.rd .FNQ_Q2_PAGES fn = q2 %
      2 ^ Field.width .FNQ_Q2_PAGES ∧ x.rd .FNQ_GRANT_SLOT fn = g % 2 ^ 64 ∧ x.rd .JOB_CFG_RESTARTS fn = jc % 2 ^ Field.width .JOB_CFG_RESTARTS)) ∧
    (∀ (fn k m dg md : Nat), h.seq % 2 ^ 16 = (s.ax .flitAck + 1) % 2 ^ 16 → s.holdsState fn = true → s.rdb .MIR_STAT_RANK_CLASH = false → k < 64 → fn
      < 128 → bit (s.rd .FNQ_GRANT_SLOT fn) k = true → s.mapDigest k (s.activeMap k) ≠ dg → s.mapOf k m = none → s.activeMap k ≠ m → Does (.stateFlit h
      fn (.map k m dg md)) s (fun x => x.ax .peerDigest 0 k = dg + 1 ∧ x.rd .MIR_FN_MISMATCH 0 fn = 1 ∧ x.rd .MIR_FN_READY 0 fn = 0)) ∧
    (∀ (fn : Nat), h.seq % 2 ^ 16 = (s.ax .flitAck + 1) % 2 ^ 16 → s.holdsState fn = true → s.rdb .MIR_STAT_RANK_CLASH = false → Does (.stateFlit h
      fn .whole) s (fun x => x.ax .stateWhole fn = 1 ∧ x.rd .MIR_FN_READY 0 fn = b2n !((List.range 64).any (fun k => s.slotDiffers fn k)) ∧
      x.rd .MIR_FN_MISMATCH 0 fn = b2n ((List.range 64).any (fun k => s.slotDiffers fn k)))) ∧
    (∀ (fn : Nat) (m : StateMsg), h.seq % 2 ^ 16 = (s.ax .flitAck + 1) % 2 ^ 16 → (s.ackFlits h.ack).linkOpen = false → Does (.stateFlit h fn m) s
      (fun x => x = (((s.ackFlits h.ack).setAx .flitAck (h.seq % 2 ^ 16))).sendAck)) ∧
    (∀ (fn k m dg md : Nat), h.seq % 2 ^ 16 = (s.ax .flitAck + 1) % 2 ^ 16 → s.role fn = roleActive → s.rdb .MIR_STAT_RANK_CLASH = false → Does
      (.stateFlit h fn (.map k m dg md)) s (fun x => x.ax .peerDigest 0 k = dg + 1 ∧ x.ax .peerModel 0 k = md))

/-- A flit with a bad CRC is discarded and answered with NAK; what a good DOORBELL or ORDER flit does (R431, R432, R433,
R436, R443, R449). Each clause names a command, the states and operands that it speaks of, and what holds of the next state
that the command then answers. The clauses: HEARTBEAT with a bad CRC; ACK with a bad CRC; NAK with a bad CRC; JOURNAL with a
bad CRC; STATE with a bad CRC; DOORBELL with a bad CRC; ORDER with a bad CRC; DOORBELL of a submission queue of an ACTIVE
function: of the indices given in the cycle the furthest, where it moves on within the queue, is taken; DOORBELL of a
completion queue of an ACTIVE function: the same, within the completions unread; DOORBELL of another function: only the
header is taken, and acknowledged; ORDER, a region declared, with the pages free and within the quota: the function holds it;
ORDER, a handover: the STANDBY functions that it names become ACTIVE; ORDER, a region declared without room or beyond the
quota: it is not held; ORDER, a switch to a map bound here, not active and not ready: it waits; ORDER, a handover refused by
the partner: the command is no more running; ORDER, in the same cycle as a higher-ranked order for its target: superseded. -/
def Obligations.FlitsDiscarded : Prop :=
  ∀ (s : State) (h : FlitHdr), s.rd .MIR_STAT_LINK = 2 →
    (∀ (a b c : Nat) (r : List Nat), h.crcOk = false → Does (.heartbeatFlit h a b c r) s (fun x => x.rd .MIR_CRCERR_COUNT =
      s.countUp .MIR_CRCERR_COUNT ∧ x.outbox = s.outbox ++ [.flit (flitWord 3 1 (s.ax .flitSeq) (s.ax .flitAck) 0 0)] ∧ OnlyChanges
      [.fld .MIR_CRCERR_COUNT, .outbox] s x)) ∧
    (h.crcOk = false → Does (.ackFlit h) s (fun x => x.rd .MIR_CRCERR_COUNT = s.countUp .MIR_CRCERR_COUNT ∧ x.outbox = s.outbox ++ [.flit (flitWord 3
      1 (s.ax .flitSeq) (s.ax .flitAck) 0 0)] ∧ OnlyChanges [.fld .MIR_CRCERR_COUNT, .outbox] s x)) ∧
    (h.crcOk = false → Does (.nakFlit h) s (fun x => x.rd .MIR_CRCERR_COUNT = s.countUp .MIR_CRCERR_COUNT ∧ x.outbox = s.outbox ++ [.flit (flitWord 3
      1 (s.ax .flitSeq) (s.ax .flitAck) 0 0)] ∧ OnlyChanges [.fld .MIR_CRCERR_COUNT, .outbox] s x)) ∧
    (∀ (a : Nat) (m : JournalMsg), h.crcOk = false → Does (.journalFlit h a m) s (fun x => x.rd .MIR_CRCERR_COUNT = s.countUp .MIR_CRCERR_COUNT ∧
      x.outbox = s.outbox ++ [.flit (flitWord 3 1 (s.ax .flitSeq) (s.ax .flitAck) 0 0)] ∧ OnlyChanges [.fld .MIR_CRCERR_COUNT, .outbox] s x)) ∧
    (∀ (a : Nat) (m : StateMsg), h.crcOk = false → Does (.stateFlit h a m) s (fun x => x.rd .MIR_CRCERR_COUNT = s.countUp .MIR_CRCERR_COUNT ∧ x.outbox
      = s.outbox ++ [.flit (flitWord 3 1 (s.ax .flitSeq) (s.ax .flitAck) 0 0)] ∧ OnlyChanges [.fld .MIR_CRCERR_COUNT, .outbox] s x)) ∧
    (∀ (a b c : Nat) (q : BellInfo), h.crcOk = false → Does (.doorbellFlit h a b c q) s (fun x => x.rd .MIR_CRCERR_COUNT = s.countUp .MIR_CRCERR_COUNT
      ∧ x.outbox = s.outbox ++ [.flit (flitWord 3 1 (s.ax .flitSeq) (s.ax .flitAck) 0 0)] ∧ OnlyChanges [.fld .MIR_CRCERR_COUNT, .outbox] s x)) ∧
    (∀ (m : MirOrder) (r : Option Master), h.crcOk = false → Does (.orderFlit h m r) s (fun x => x.rd .MIR_CRCERR_COUNT = s.countUp .MIR_CRCERR_COUNT
      ∧ x.outbox = s.outbox ++ [.flit (flitWord 3 1 (s.ax .flitSeq) (s.ax .flitAck) 0 0)] ∧ OnlyChanges [.fld .MIR_CRCERR_COUNT, .outbox] s x)) ∧
    (∀ (fn e v u : Nat) (l : List Wr), h.crcOk = true → h.seq % 2 ^ 16 = (s.ax .flitAck + 1) % 2 ^ 16 → s.role fn = roleActive → s.rd .QP_STAT_STATE
      fn e = 1 → (doorbell ⟨⟨.mirror, v⟩, l⟩ (s.rd .QP_STAT_SQHEAD fn e) (2 ^ s.rd .QP_CFG_SQLOG2 fn e)).v = u → u < 2 ^ s.rd .QP_CFG_SQLOG2 fn e →
      (s.rd .QP_SQTAIL_INDEX fn e + 2 ^ s.rd .QP_CFG_SQLOG2 fn e - s.rd .QP_STAT_SQHEAD fn e) % 2 ^ s.rd .QP_CFG_SQLOG2 fn e ≤ (u + 2 ^
      s.rd .QP_CFG_SQLOG2 fn e - s.rd .QP_STAT_SQHEAD fn e) % 2 ^ s.rd .QP_CFG_SQLOG2 fn e → ∀ j ∈ s.jobs, j.st ≠ .ackWait → Does (.doorbellFlit h fn e
      v ⟨false, l⟩) s (fun x => x.rd .QP_SQTAIL_INDEX fn e = u % 65536)) ∧
    (∀ (fn e v q u : Nat) (l : List Wr), h.crcOk = true → h.seq % 2 ^ 16 = (s.ax .flitAck + 1) % 2 ^ 16 → s.role fn = roleActive → s.rd .QP_STAT_STATE
      fn e = 1 → s.pairOf fn e = some q → (doorbell ⟨⟨.mirror, v⟩, l⟩ (s.rd .QP_CQHEAD_INDEX fn e) (2 ^ s.rd .QP_CFG_CQLOG2 fn e)).v = u → u < 2 ^
      s.rd .QP_CFG_CQLOG2 fn e → (u + 2 ^ s.rd .QP_CFG_CQLOG2 fn e - s.rd .QP_CQHEAD_INDEX fn e) % 2 ^ s.rd .QP_CFG_CQLOG2 fn e ≤ s.unread q → ∀ j ∈
      s.jobs, j.st ≠ .ackWait → Does (.doorbellFlit h fn e v ⟨true, l⟩) s (fun x => x.rd .QP_CQHEAD_INDEX fn e = u % 65536)) ∧
    (∀ (fn e v : Nat) (c : BellInfo), h.crcOk = true → h.seq % 2 ^ 16 = (s.ax .flitAck + 1) % 2 ^ 16 → (s.ackFlits h.ack).role fn ≠ roleActive → Does
      (.doorbellFlit h fn e v c) s (fun x => x = (((s.ackFlits h.ack).setAx .flitAck (h.seq % 2 ^ 16))).sendAck)) ∧
    (∀ (f d first n : Nat), h.crcOk = true → h.seq % 2 ^ 16 = (s.ax .flitAck + 1) % 2 ^ 16 → s.online d = true → s.pagesFree d first n = true → s.held
      f resLpddr + n ≤ s.quota f resLpddr → ∀ j ∈ s.jobs, j.st ≠ .ackWait → Does (.orderFlit h (.region f d first n true) none) s (fun x => x.allocs =
      s.allocs ++ [⟨f, 3, d, first, n⟩])) ∧
    (∀ (fm : BitVec 128) (l : List (Nat × Bool)), h.crcOk = true → h.seq % 2 ^ 16 = (s.ax .flitAck + 1) % 2 ^ 16 → Does (.orderFlit h (.handover fm l)
      none) s (fun x => ∀ f, f < 128 → bit fm.toNat f = true → s.role f = roleStandby → x.role f = roleActive)) ∧
    (∀ (f d first n : Nat), h.crcOk = true → h.seq % 2 ^ 16 = (s.ax .flitAck + 1) % 2 ^ 16 → s.online d = false ∨ s.pagesFree d first n = false ∨
      s.quota f resLpddr < s.held f resLpddr + n → ∀ j ∈ s.jobs, j.st ≠ .ackWait → Does (.orderFlit h (.region f d first n true) none) s (fun x =>
      x.allocs = s.allocs)) ∧
    (∀ (k m : Nat), h.crcOk = true → h.seq % 2 ^ 16 = (s.ax .flitAck + 1) % 2 ^ 16 → s.activeMap k ≠ m → (s.mapOf k m).isSome = true → s.mapReady k m
      = false → ∀ j ∈ s.jobs, j.st ≠ .ackWait → Does (.orderFlit h (.slotSwitch k m) none) s (fun x => x.ax .switchTarget 0 k = m + 1 ∧ x.ax .switchAt 0
      k = 0)) ∧
    (∀ (st : Nat), h.crcOk = true → h.seq % 2 ^ 16 = (s.ax .flitAck + 1) % 2 ^ 16 → Does (.orderFlit h (.refused st) none) s (fun x => ∀ c ∈ x.cmds,
      ¬(c.opcode = opPairHandover ∧ c.st = .running))) ∧
    (∀ (m : MirOrder) (r : Master), h.crcOk = true → h.seq % 2 ^ 16 = (s.ax .flitAck + 1) % 2 ^ 16 → masterRank r < masterRank .mirror → Does
      (.orderFlit h m (some r)) s (fun x => x.rd .FLT_LASTSUP_LOSE_KIND = masterKind .mirror ∧ x.rd .FLT_SUPCNT_COUNT = s.countUp .FLT_SUPCNT_COUNT))

/-- The mirror link's timers and training, takeover and fencing (R434, R436, R437, R442, R445, R446, R447, R448). Each clause
names a command, the states and operands that it speaks of, and what holds of the next state that the command then answers.
The clauses: the heartbeat goes out, with the rank, the epoch, device time and the roles, and a heartbeat missed is counted;
a heartbeat missed is counted also while the link is down; 20 µs without an acknowledgement: a flit sent is sent again, where
none has been replayed three times; a flit that would be replayed a fourth time: the link goes back to training; the link
trains at 4 or 8 lanes: it is up, and carries state only after a heartbeat; the link does not train: it is off; no
acknowledgement of a commit within ACK_MAX: the pair is SOLO, and the job waits for no acknowledgement; 300 µs without a
heartbeat: the link goes back to training; then, with AUTO_TAKE, a member of rank 0 with a STANDBY function that sees no
PAIR_TAKE takes; and a member of rank 1 waits; the wait of rank 1 ends without PAIR_TAKE: it takes; PAIR_TAKE of the partner
is seen: the ACTIVE functions are FENCED; the guard of a taking ends: the STANDBY functions that are READY become ACTIVE,
alone; PAIR_TAKE of the partner is released: the FENCED functions become STANDBY. Readings and choices of the model that it
rests on: log entry 20. -/
def Obligations.MirrorLinkAndPair : Prop :=
  ∀ (s : State),
    (s.rd .MIR_STAT_LINK = 2 → s.rdb .MIR_CFG_ENABLE = true → Does (.heartbeatSend) s (fun x => x.outbox.getLast? = some (.flit (flitWord 1 1
      (x.ax .flitSeq) (x.ax .flitAck) 48 (x.rd .MIR_CFG_RANK + atByte 4 (x.rd .MIR_EPOCH_EPOCH) + atByte 8 x.now + atByte 16 x.roleWord))) ∧
      x.rd .MIR_HBMISS_COUNT = (if s.ax .hbSeen = 0 then s.countUp .MIR_HBMISS_COUNT else s.rd .MIR_HBMISS_COUNT) ∧ x.ax .hbSeen = 0)) ∧
    (s.rdb .MIR_CFG_ENABLE = true → s.ax .hbSeen = 0 → Does (.heartbeatSend) s (fun x => x.rd .MIR_HBMISS_COUNT = s.countUp .MIR_HBMISS_COUNT)) ∧
    (s.rd .MIR_STAT_LINK = 2 → Does (.flitReplayTimer) s (fun x => ∀ f ∈ s.flits, f.sent = true → f.time + 20000 ≤ s.now → (∀ g ∈ s.flits, g.replays <
      3) → ∃ g ∈ x.flits, g.seq = f.seq ∧ g.replays = f.replays + 1 ∧ g.time = s.now)) ∧
    (s.rd .MIR_STAT_LINK = 2 → s.flits.any (fun f => f.sent && decide (f.time + 20000 ≤ s.now) && decide (3 ≤ f.replays)) = true → Does
      (.flitReplayTimer) s (fun x => x.rd .MIR_STAT_LINK = 1 ∧ x.rd .MIR_STAT_WIDTH = 0)) ∧
    (∀ (n : Nat), n = 4 ∨ n = 8 → s.rd .MIR_STAT_LINK = 1 → Does (.mirrorLinkTrained n) s (fun x => x.rd .MIR_STAT_LINK = 2 ∧ x.rd .MIR_STAT_WIDTH = n
      ∧ x.ax .flitAck = 65535 ∧ x.ax .hbHeard = 0 ∧ ∀ f, f < 128 → s.holdsState f = true → x.rd .MIR_FN_READY 0 f = 0)) ∧
    (∀ (n : Nat), n ≠ 4 → n ≠ 8 → s.rd .MIR_STAT_LINK = 1 → Does (.mirrorLinkTrained n) s (fun x => x.rd .MIR_STAT_LINK = 0)) ∧
    (∀ (i : Nat) (j : Job), s.job i = some j → j.st = .ackWait → j.ackAt + 1000 * s.rd .MIR_CFG_ACK_MAX ≤ s.now → Does (.ackTimeout i) s (fun x =>
      x.rd .MIR_STAT_PAIR = pairSolo ∧ (∀ k ∈ x.jobs, k.id = i → k.st ≠ .ackWait))) ∧
    (s.rd .MIR_STAT_LINK = 2 → s.ax .hbTimer ≠ 0 → s.rd .MIR_LASTHB_TIME + 300000 ≤ s.now → Does (.heartbeatTimeout) s (fun x => x.rd .MIR_STAT_LINK =
      1)) ∧
    (s.ax .hbTimer ≠ 0 → s.rd .MIR_LASTHB_TIME + 300000 ≤ s.now → s.rdb .MIR_CFG_AUTO_TAKE = true → s.rdb .MIR_CFG_RANK = false →
      s.rdb .MIR_STAT_TAKE_SEEN = false → (s.withRole roleStandby).isEmpty = false → Does (.heartbeatTimeout) s (fun x => x.rd .MIR_STAT_TAKE_DRIVE = 1
      ∧ x.ax .guardAt = s.now + 1)) ∧
    (s.ax .hbTimer ≠ 0 → s.rd .MIR_LASTHB_TIME + 300000 ≤ s.now → s.rdb .MIR_CFG_AUTO_TAKE = true → s.rdb .MIR_CFG_RANK = true → (s.withRole
      roleStandby).isEmpty = false → Does (.heartbeatTimeout) s (fun x => x.ax .rankWait = 1 ∧ x.rd .MIR_STAT_TAKE_DRIVE = s.rd .MIR_STAT_TAKE_DRIVE)) ∧
    (s.ax .rankWait = 1 → s.rd .MIR_LASTHB_TIME + 450000 ≤ s.now → s.rdb .MIR_STAT_TAKE_SEEN = false → Does (.takeoverRankWaitEnd) s (fun x =>
      x.rd .MIR_STAT_TAKE_DRIVE = 1 ∧ x.ax .guardAt = s.now + 1 ∧ x.ax .rankWait = 0)) ∧
    (s.rdb .MIR_STAT_TAKE_DRIVE = false → s.rdb .MIR_STAT_TAKE_SEEN = false → Does (.pairTakeSeen) s (fun x => x.rd .MIR_STAT_TAKE_SEEN = 1 ∧
      x.rd .MIR_STAT_PAIR = pairFenced ∧ ∀ f, f < 128 → s.role f = roleActive → x.role f = roleFenced)) ∧
    (s.ax .guardAt ≠ 0 → (s.ax .guardAt - 1) + 20000 ≤ s.now → Does (.takeoverGuardEnd) s (fun x => x.ax .guardAt = 0 ∧ x.rd .MIR_STAT_PAIR = pairSolo
      ∧ ∀ f, f < 128 → s.role f = roleStandby → s.rdb .MIR_FN_READY 0 f = true → x.role f = roleActive)) ∧
    (s.rdb .MIR_STAT_TAKE_SEEN = true → Does (.pairTakeReleased) s (fun x => x.rd .MIR_STAT_TAKE_SEEN = 0 ∧ ∀ f, f < 128 → s.role f = roleFenced →
      x.role f = roleStandby))

/-- The pair's commands and the writes of its registers (R438, R443, R444, R449). Each clause names a command, the states and
operands that it speaks of, and what holds of the next state that the command then answers. The clauses: PAIR_HANDOVER that
names a function that is not READY: MALFORMED; PAIR_HANDOVER of functions that are READY and ACTIVE, on a pair under firmware
management: each is being handed over; MIR_REGION of pages that the function holds, declared and granted by the partner: the
region is declared; MIR_REGION to undeclare a region, granted by the partner: it is declared no more; MIR_REGION of pages
that the function does not hold: MALFORMED; MIR_CFG.ENABLE set: the link trains; MIR_CFG.ENABLE cleared: the link and the
pair are off, and no flit waits; MIR_CFG.HANDBACK: the reset settings, and the firmware; MIR_CTRL.RELEASE: PAIR_TAKE is
driven no more; an expert write; MIR_CTRL.RESYNC on a link that carries state, with an ACTIVE function: the pair synchronises
again, and RESYNC reads 1 meanwhile; MIR_CTRL.RESYNC while the pair synchronises by it, or on a link that carries no state:
no effect; MIR_CTRL.CLEAR zeroes the counts; MIR_FN.MIRRORED set while no PAIR_TAKE is seen: the function is STANDBY where
the partner has it ACTIVE, else ACTIVE; MIR_FN.MIRRORED set while PAIR_TAKE of the partner is seen: FENCED (the model's
choice, log entry 130); MIR_FN.MIRRORED cleared: the function has no role and is not READY. Readings and choices of the model
that it rests on: log entry 20. -/
def Obligations.MirrorControls : Prop :=
  ∀ (s : State),
    (∀ (id : Nat) (c : Cmd), s.readyCmd id opPairHandover = some c → (fnsOf ((s.started c).b 16 16)).any (fun f => !s.rdb .MIR_FN_READY 0 f) = true →
      Does (.pairHandover id) s (fun x => Completed (s.started c) stMalformed 0 s x)) ∧
    (∀ (id : Nat) (c : Cmd), s.readyCmd id opPairHandover = some c → s.rd .MIR_STAT_EXPERT = 0 → (s.started c).b 32 1 ≤ 1 → (fnsOf ((s.started c).b 16
      16)).all (fun f => s.rdb .MIR_FN_READY 0 f && s.role f == roleActive) = true → Does (.pairHandover id) s (fun x => ∀ f ∈ fnsOf ((s.started c).b 16
      16), x.ax .handing f = 1)) ∧
    (∀ (id : Nat) (c : Cmd), s.readyCmd id opMirRegion = some c → (s.started c).b 16 1 < 128 → (s.started c).b 24 4 ≠ 0 → (s.covers ((s.started c).b
      16 1) 3 ((s.started c).b 17 1) ((s.started c).b 20 4) ((s.started c).b 24 4)) = true → s.rd .MIR_STAT_EXPERT = 0 → bit ((s.started c).b 18 1) 0 =
      true → Does (.mirRegion id .granted) s (fun x => Completed (s.started c) stOK 0 s x ∧ x.regions = s.regions ++ [Region.mk ((s.started c).b 16 1)
      ((s.started c).b 17 1) ((s.started c).b 20 4) ((s.started c).b 24 4)])) ∧
    (∀ (id : Nat) (c : Cmd), s.readyCmd id opMirRegion = some c → (s.started c).b 16 1 < 128 → (s.started c).b 24 4 ≠ 0 → (s.covers ((s.started c).b
      16 1) 3 ((s.started c).b 17 1) ((s.started c).b 20 4) ((s.started c).b 24 4)) = true → s.rd .MIR_STAT_EXPERT = 0 → bit ((s.started c).b 18 1) 0 =
      false → Does (.mirRegion id .granted) s (fun x => Completed (s.started c) stOK 0 s x ∧ x.regions = s.regions.filter (fun r => r != Region.mk
      ((s.started c).b 16 1) ((s.started c).b 17 1) ((s.started c).b 20 4) ((s.started c).b 24 4)))) ∧
    (∀ (id : Nat) (k : PartnerAnswer) (c : Cmd), s.readyCmd id opMirRegion = some c → (s.covers ((s.started c).b 16 1) 3 ((s.started c).b 17 1)
      ((s.started c).b 20 4) ((s.started c).b 24 4)) = false → Does (.mirRegion id k) s (fun x => Completed (s.started c) stMalformed 0 s x)) ∧
    (∀ (o : Order), Alone o → o.w.v % 2 = 1 → s.rd .MIR_CFG_ENABLE = 0 → Does (.mirCfgEnableWrite o) s (fun x => x.rd .MIR_CFG_ENABLE = 1 ∧
      x.rd .MIR_STAT_LINK = 1)) ∧
    (∀ (o : Order), Alone o → o.w.v % 2 = 0 → s.rd .MIR_CFG_ENABLE = 1 → Does (.mirCfgEnableWrite o) s (fun x => x.rd .MIR_CFG_ENABLE = 0 ∧
      x.rd .MIR_STAT_LINK = 0 ∧ x.rd .MIR_STAT_PAIR = 0 ∧ x.flits = [])) ∧
    (∀ (o : Order), Alone o → o.w.v % 2 = 1 → Does (.mirCfgHandback o) s (fun x => x.rd .MIR_CFG_AUTO_TAKE = 1 ∧ x.rd .MIR_CFG_ACK_MAX = 200 ∧
      x.rd .MIR_STAT_EXPERT = 0)) ∧
    (∀ (o : Order), Alone o → o.w.v % 2 = 1 → Does (.mirCtrlRelease o) s (fun x => x.rd .MIR_STAT_TAKE_DRIVE = 0 ∧ x.rd .MIR_STAT_EXPERT = 1)) ∧
    (∀ (o : Order), Alone o → o.w.v % 2 = 1 → s.linkCarries = true → s.resyncing = false → s.rd .MIR_STAT_PAIR ≠ pairFenced → (s.withRole
      roleActive).any (fun f => s.rdb .MIR_FN_MIRRORED 0 f) = true → Does (.mirCtrlResync o) s (fun x => x.rd .MIR_STAT_PAIR = pairSyncing ∧
      x.rd .MIR_CTRL_RESYNC = 1 ∧ x.ax .syncAt = s.now)) ∧
    (∀ (o : Order), Alone o → o.w.v % 2 = 1 → s.resyncing = true ∨ s.linkCarries = false → Does (.mirCtrlResync o) s (fun x => x = s)) ∧
    (∀ (o : Order), Alone o → o.w.v % 2 = 1 → Does (.mirCtrlClear o) s (fun x => x.rd .MIR_CRCERR_COUNT = 0 ∧ x.rd .MIR_REPLAY_COUNT = 0 ∧
      x.rd .MIR_HBMISS_COUNT = 0 ∧ x.rd .MIR_TAKES_COUNT = 0)) ∧
    (∀ (f : Nat) (o : Order), Alone o → o.w.v % 2 = 1 → f < 128 → s.rd .MIR_FN_MIRRORED 0 f = 0 → s.rd .MIR_STAT_TAKE_SEEN = 0 → Does
      (.mirFnMirroredWrite f o) s (fun x => x.rd .MIR_FN_MIRRORED 0 f = 1 ∧ x.role f = (if s.ax .peerRole f = roleActive then roleStandby else
      roleActive))) ∧
    (∀ (f : Nat) (o : Order), Alone o → o.w.v % 2 = 1 → f < 128 → s.rd .MIR_FN_MIRRORED 0 f = 0 → s.rd .MIR_STAT_TAKE_SEEN = 1 → Does
      (.mirFnMirroredWrite f o) s (fun x => x.rd .MIR_FN_MIRRORED 0 f = 1 ∧ x.role f = roleFenced ∧ x.rd .MIR_STAT_PAIR = pairFenced)) ∧
    (∀ (f : Nat) (o : Order), Alone o → o.w.v % 2 = 0 → f < 128 → s.rd .MIR_FN_MIRRORED 0 f = 1 → Does (.mirFnMirroredWrite f o) s (fun x =>
      x.rd .MIR_FN_MIRRORED 0 f = 0 ∧ x.role f = roleNone ∧ x.rd .MIR_FN_READY 0 f = 0))

/-- What the control instructions do to their task (R210, R211, R230, R231, R232, R233). Each clause says that a command
COMPLETES: for every state and all operands that meet its hypotheses, which speak of the state and the operands alone, exec
answers a next state, with the effect of the command that the clause gives. The clauses: NOP retires; BR goes to its target;
BRI to the start of an instruction; BRI elsewhere traps with cause BRANCH_TARGET; BRC goes to its target where its condition
holds, else on; LOOP pushes its count, its start and its end; LOOP with a count of 0 goes past its end; LOOP at the fifth
level traps with cause STACK; ENDL with rounds left goes back to the start; ENDL of the last round pops the level; ENDL
outside a loop traps with cause STACK; LPOP pops the level; LPOP outside a loop traps with cause STACK; CALL of the start of
an instruction; CALLI of the start of an instruction; CALLI at the seventeenth level traps with cause STACK; RET pops its
target, the start of an instruction; RET with an empty stack traps with cause STACK; TRAP traps with cause USER and its code;
HALT halts the task; where every other task of the job has halted, the job commits; CTX reads a word of the context. Readings
and choices of the model that it rests on: log entry 101. -/
def Obligations.ControlInstructions : Prop :=
  ∀ (s : State) (r : TaskRef) (c : Ctx), s.ctx r = some c → c.job.st = .running → guardOff c.task c.w = false →
    (isOp 0x00 c.w = true → ∃ x, Sys2Proof.Machine.exec (.nop r) s = .next x ∧ x.taskOf r = some (c.retired s c.task) ∧ x.rd .SEQ_PC_PC c.task.die
      c.task.seq = c.task.pc % 2 ^ 17) ∧
    (isInsn 0x01 0 c.w = true → ∃ x, Sys2Proof.Machine.exec (.br r) s = .next x ∧ x.taskOf r = some (c.jumped s (relTarget c) c.task)) ∧
    (isInsn 0x01 1 c.w = true → isStart (s.codeFor c.job) (indTarget c) = true → ∃ x, Sys2Proof.Machine.exec (.bri r) s = .next x ∧ x.taskOf r = some
      (c.jumped s (indTarget c) c.task)) ∧
    (isInsn 0x01 1 c.w = true → isStart (s.codeFor c.job) (indTarget c) = false → ∃ x, Sys2Proof.Machine.exec (.bri r) s = .next x ∧
      x.rd .SEQ_TRAP_CAUSE c.task.die c.task.seq = cBranchTarget ∧ x.rd .SEQ_TRAP_PC c.task.die c.task.seq = c.task.pc % 2 ^ 17) ∧
    (isOp 0x02 c.w = true → ∃ x, Sys2Proof.Machine.exec (.brc r) s = .next x ∧ x.taskOf r = some (if brcTaken c then c.jumped s (relTarget c) c.task
      else c.retired s c.task)) ∧
    (isInsn 0x03 0 c.w = true → c.task.loops.length < 4 → c.task.gr (iBa c.w) ≠ 0 → ∃ x, Sys2Proof.Machine.exec (.loop r) s = .next x ∧ x.taskOf r =
      some (c.retired s { c.task with loops := ⟨c.task.gr (iBa c.w), c.next, relTarget c⟩ :: c.task.loops })) ∧
    (isInsn 0x03 0 c.w = true → c.task.loops.length < 4 → c.task.gr (iBa c.w) = 0 → ∃ x, Sys2Proof.Machine.exec (.loop r) s = .next x ∧ x.taskOf r =
      some (c.jumped s (relTarget c + 1) c.task)) ∧
    (isInsn 0x03 0 c.w = true → 4 ≤ c.task.loops.length → ∃ x, Sys2Proof.Machine.exec (.loop r) s = .next x ∧ x.rd .SEQ_TRAP_CAUSE c.task.die
      c.task.seq = cStack ∧ x.rd .SEQ_TRAP_PC c.task.die c.task.seq = c.task.pc % 2 ^ 17) ∧
    (∀ (l : LoopLvl) (k : List LoopLvl), isInsn 0x03 1 c.w = true → c.task.loops = l :: k → 2 ≤ l.count → ∃ x, Sys2Proof.Machine.exec (.endl r) s
      = .next x ∧ x.taskOf r = some (c.jumped s (l.start) { c.task with loops := { l with count := l.count - 1 } :: k })) ∧
    (∀ (l : LoopLvl) (k : List LoopLvl), isInsn 0x03 1 c.w = true → c.task.loops = l :: k → l.count = 1 → ∃ x, Sys2Proof.Machine.exec (.endl r) s
      = .next x ∧ x.taskOf r = some (c.retired s { c.task with loops := k })) ∧
    (isInsn 0x03 1 c.w = true → c.task.loops = [] → ∃ x, Sys2Proof.Machine.exec (.endl r) s = .next x ∧ x.rd .SEQ_TRAP_CAUSE c.task.die c.task.seq =
      cStack ∧ x.rd .SEQ_TRAP_PC c.task.die c.task.seq = c.task.pc % 2 ^ 17) ∧
    (∀ (l : LoopLvl) (k : List LoopLvl), isInsn 0x03 2 c.w = true → c.task.loops = l :: k → ∃ x, Sys2Proof.Machine.exec (.lpop r) s = .next x ∧
      x.taskOf r = some (c.retired s { c.task with loops := k })) ∧
    (isInsn 0x03 2 c.w = true → c.task.loops = [] → ∃ x, Sys2Proof.Machine.exec (.lpop r) s = .next x ∧ x.rd .SEQ_TRAP_CAUSE c.task.die c.task.seq =
      cStack ∧ x.rd .SEQ_TRAP_PC c.task.die c.task.seq = c.task.pc % 2 ^ 17) ∧
    (isInsn 0x04 0 c.w = true → c.task.ret.length < 16 → isStart (s.codeFor c.job) (relTarget c) = true → ∃ x, Sys2Proof.Machine.exec (.call r) s
      = .next x ∧ x.taskOf r = some (c.jumped s (relTarget c) { c.task with ret := c.next :: c.task.ret })) ∧
    (isInsn 0x04 1 c.w = true → c.task.ret.length < 16 → isStart (s.codeFor c.job) (indTarget c) = true → ∃ x, Sys2Proof.Machine.exec (.calli r) s
      = .next x ∧ x.taskOf r = some (c.jumped s (indTarget c) { c.task with ret := c.next :: c.task.ret })) ∧
    (isInsn 0x04 1 c.w = true → 16 ≤ c.task.ret.length → ∃ x, Sys2Proof.Machine.exec (.calli r) s = .next x ∧ x.rd .SEQ_TRAP_CAUSE c.task.die
      c.task.seq = cStack ∧ x.rd .SEQ_TRAP_PC c.task.die c.task.seq = c.task.pc % 2 ^ 17) ∧
    (∀ (pc : Nat) (k : List Nat), isOp 0x05 c.w = true → c.task.ret = pc :: k → isStart (s.codeFor c.job) pc = true → ∃ x, Sys2Proof.Machine.exec
      (.ret r) s = .next x ∧ x.taskOf r = some (c.jumped s (pc) { c.task with ret := k })) ∧
    (isOp 0x05 c.w = true → c.task.ret = [] → ∃ x, Sys2Proof.Machine.exec (.ret r) s = .next x ∧ x.rd .SEQ_TRAP_CAUSE c.task.die c.task.seq = cStack ∧
      x.rd .SEQ_TRAP_PC c.task.die c.task.seq = c.task.pc % 2 ^ 17) ∧
    (isOp 0x07 c.w = true → ∃ x, Sys2Proof.Machine.exec (.trap r) s = .next x ∧ x.rd .SEQ_TRAP_CAUSE c.task.die c.task.seq = cUser ∧ x.rd .SEQ_TRAP_PC
      c.task.die c.task.seq = c.task.pc % 2 ^ 17 ∧ x.rd .SEQ_TRAP_CODE c.task.die c.task.seq = iImm38 c.w % 256) ∧
    (isOp 0x08 c.w = true → ∃ x, Sys2Proof.Machine.exec (.halt r) s = .next x ∧ (x.taskOf r).map (·.wait) = some .halted ∧ (c.job.tasks.all (fun t =>
      t.num == c.task.num || t.wait == .halted) = true → (x.job r.job).map (·.st) = some .committing)) ∧
    (isOp 0x09 c.w = true → ∃ x, Sys2Proof.Machine.exec (.ctx r) s = .next x ∧ x.taskOf r = some (c.retired s (c.task.setG (iD c.w) (s.ctxField c
      (iImm38 c.w % 16)))))

/-- Waits and synchronisation of tasks (R213, R214, R234, R235, R236, R258, R260, R261). Each clause says that a command
COMPLETES: for every state and all operands that meet its hypotheses, which speak of the state and the operands alone, exec
answers a next state, with the effect of the command that the clause gives. The clauses: WAIT for ticket 0; WAIT for a ticket
that is done; WAIT for a ticket that is not done waits; WAIT for a ticket not issued traps with cause TICKET; SWAIT for
ticket 0; SWAIT for a ticket that is done; SWAIT for a ticket that is not done waits; SWAIT for a ticket not issued traps
with cause TICKET; SWAIT for a ticket of no stitch traps with cause TICKET; waitEq whose condition is met retires; waitEq
whose condition is not met waits; waitNe whose condition is met retires; waitNe whose condition is not met waits; waitGeu
whose condition is met retires; waitGeu whose condition is not met waits; BAR waits for the barrier; FENCE with nothing
outstanding retires; FENCE with operations outstanding waits; EVPOST retires, and posts the user event to the ring of the
function; CPOST commits the job with its value, where no CPOST of the job stands yet. Readings and choices of the model that
it rests on: log entries 102 and 103. -/
def Obligations.WaitInstructions : Prop :=
  ∀ (s : State) (r : TaskRef) (c : Ctx), s.ctx r = some c → c.job.st = .running → guardOff c.task c.w = false →
    (isInsn 0x06 0 c.w = true → c.task.gr (iA c.w) = 0 → ∃ x, Sys2Proof.Machine.exec (.wait r) s = .next x ∧ x.taskOf r = some (c.retired s
      (c.task.setG (iD c.w) 0))) ∧
    (isInsn 0x06 0 c.w = true → c.task.gr (iA c.w) ≠ 0 → c.task.gr (iA c.w) ≤ c.task.last → c.task.opened.contains (c.task.gr (iA c.w)) = false → ∃ x,
      Sys2Proof.Machine.exec (.wait r) s = .next x ∧ x.taskOf r = some (c.retired s
      { c.task.setG (iD c.w) (c.task.resultOf (c.task.gr (iA c.w))) with res := c.task.res.set 0 (c.task.gr (iA c.w)) 0 })) ∧
    (isInsn 0x06 0 c.w = true → c.task.gr (iA c.w) ≠ 0 → c.task.gr (iA c.w) ≤ c.task.last → c.task.opened.contains (c.task.gr (iA c.w)) = true → ∃ x,
      Sys2Proof.Machine.exec (.wait r) s = .next x ∧ (x.taskOf r).map (·.wait) = some (.ticket (c.task.gr (iA c.w)) (iD c.w))) ∧
    (isInsn 0x06 0 c.w = true → c.task.last < c.task.gr (iA c.w) → ∃ x, Sys2Proof.Machine.exec (.wait r) s = .next x ∧ x.rd .SEQ_TRAP_CAUSE c.task.die
      c.task.seq = cTicket ∧ x.rd .SEQ_TRAP_PC c.task.die c.task.seq = c.task.pc % 2 ^ 17) ∧
    (isOp 0x2A c.w = true → c.task.gr (iA c.w) = 0 → ∃ x, Sys2Proof.Machine.exec (.swait r) s = .next x ∧ x.taskOf r = some (c.retired s (c.task.setG
      (iD c.w) 0))) ∧
    (isOp 0x2A c.w = true → c.task.gr (iA c.w) ≠ 0 → c.task.gr (iA c.w) ≤ c.task.last → c.task.fabric.contains (c.task.gr (iA c.w)) = true →
      c.task.opened.contains (c.task.gr (iA c.w)) = false → ∃ x, Sys2Proof.Machine.exec (.swait r) s = .next x ∧ x.taskOf r = some (c.retired s
      { c.task.setG (iD c.w) (c.task.resultOf (c.task.gr (iA c.w))) with res := c.task.res.set 0 (c.task.gr (iA c.w)) 0 })) ∧
    (isOp 0x2A c.w = true → c.task.gr (iA c.w) ≠ 0 → c.task.gr (iA c.w) ≤ c.task.last → c.task.fabric.contains (c.task.gr (iA c.w)) = true →
      c.task.opened.contains (c.task.gr (iA c.w)) = true → ∃ x, Sys2Proof.Machine.exec (.swait r) s = .next x ∧ (x.taskOf r).map (·.wait) = some
      (.ticket (c.task.gr (iA c.w)) (iD c.w))) ∧
    (isOp 0x2A c.w = true → c.task.last < c.task.gr (iA c.w) → ∃ x, Sys2Proof.Machine.exec (.swait r) s = .next x ∧ x.rd .SEQ_TRAP_CAUSE c.task.die
      c.task.seq = cTicket ∧ x.rd .SEQ_TRAP_PC c.task.die c.task.seq = c.task.pc % 2 ^ 17) ∧
    (isOp 0x2A c.w = true → c.task.gr (iA c.w) ≠ 0 → c.task.fabric.contains (c.task.gr (iA c.w)) = false → ∃ x, Sys2Proof.Machine.exec (.swait r) s
      = .next x ∧ x.rd .SEQ_TRAP_CAUSE c.task.die c.task.seq = cTicket ∧ x.rd .SEQ_TRAP_PC c.task.die c.task.seq = c.task.pc % 2 ^ 17) ∧
    (isInsn 0x06 1 c.w = true → s.accessTrap c.job (c.task.gr (iA c.w)) 8 false = none → s.retrains (c.task.gr (iA c.w)) (8) = false → (s.jobRead
      c.job c.found (c.task.gr (iA c.w)) (8)).1 = none → memCond 0 ((s.jobRead c.job c.found (c.task.gr (iA c.w)) (8)).2.jobLoad c.job (jobKey c.job
      (c.task.gr (iA c.w))) (8)) (c.task.gr (iB c.w)) = true → ∃ x, Sys2Proof.Machine.exec (.waitEq r) s = .next x ∧ x.taskOf r = some (c.retired s
      c.task)) ∧
    (isInsn 0x06 1 c.w = true → s.accessTrap c.job (c.task.gr (iA c.w)) 8 false = none → s.retrains (c.task.gr (iA c.w)) (8) = false → (s.jobRead
      c.job c.found (c.task.gr (iA c.w)) (8)).1 = none → memCond 0 ((s.jobRead c.job c.found (c.task.gr (iA c.w)) (8)).2.jobLoad c.job (jobKey c.job
      (c.task.gr (iA c.w))) (8)) (c.task.gr (iB c.w)) = false → ∃ x, Sys2Proof.Machine.exec (.waitEq r) s = .next x ∧ (x.taskOf r).map (·.wait) = some
      (.mem 0 (c.task.gr (iA c.w)) 8 (c.task.gr (iB c.w)))) ∧
    (isInsn 0x06 2 c.w = true → s.accessTrap c.job (c.task.gr (iA c.w)) 8 false = none → s.retrains (c.task.gr (iA c.w)) (8) = false → (s.jobRead
      c.job c.found (c.task.gr (iA c.w)) (8)).1 = none → memCond 1 ((s.jobRead c.job c.found (c.task.gr (iA c.w)) (8)).2.jobLoad c.job (jobKey c.job
      (c.task.gr (iA c.w))) (8)) (c.task.gr (iB c.w)) = true → ∃ x, Sys2Proof.Machine.exec (.waitNe r) s = .next x ∧ x.taskOf r = some (c.retired s
      c.task)) ∧
    (isInsn 0x06 2 c.w = true → s.accessTrap c.job (c.task.gr (iA c.w)) 8 false = none → s.retrains (c.task.gr (iA c.w)) (8) = false → (s.jobRead
      c.job c.found (c.task.gr (iA c.w)) (8)).1 = none → memCond 1 ((s.jobRead c.job c.found (c.task.gr (iA c.w)) (8)).2.jobLoad c.job (jobKey c.job
      (c.task.gr (iA c.w))) (8)) (c.task.gr (iB c.w)) = false → ∃ x, Sys2Proof.Machine.exec (.waitNe r) s = .next x ∧ (x.taskOf r).map (·.wait) = some
      (.mem 1 (c.task.gr (iA c.w)) 8 (c.task.gr (iB c.w)))) ∧
    (isInsn 0x06 3 c.w = true → s.accessTrap c.job (c.task.gr (iA c.w)) 8 false = none → s.retrains (c.task.gr (iA c.w)) (8) = false → (s.jobRead
      c.job c.found (c.task.gr (iA c.w)) (8)).1 = none → memCond 2 ((s.jobRead c.job c.found (c.task.gr (iA c.w)) (8)).2.jobLoad c.job (jobKey c.job
      (c.task.gr (iA c.w))) (8)) (c.task.gr (iB c.w)) = true → ∃ x, Sys2Proof.Machine.exec (.waitGeu r) s = .next x ∧ x.taskOf r = some (c.retired s
      c.task)) ∧
    (isInsn 0x06 3 c.w = true → s.accessTrap c.job (c.task.gr (iA c.w)) 8 false = none → s.retrains (c.task.gr (iA c.w)) (8) = false → (s.jobRead
      c.job c.found (c.task.gr (iA c.w)) (8)).1 = none → memCond 2 ((s.jobRead c.job c.found (c.task.gr (iA c.w)) (8)).2.jobLoad c.job (jobKey c.job
      (c.task.gr (iA c.w))) (8)) (c.task.gr (iB c.w)) = false → ∃ x, Sys2Proof.Machine.exec (.waitGeu r) s = .next x ∧ (x.taskOf r).map (·.wait) = some
      (.mem 2 (c.task.gr (iA c.w)) 8 (c.task.gr (iB c.w)))) ∧
    (isOp 0x38 c.w = true → ∃ x, Sys2Proof.Machine.exec (.bar r) s = .next x ∧ (x.taskOf r).map (·.wait) = some .bar) ∧
    (isOp 0x39 c.w = true → c.task.opened = [] → ∃ x, Sys2Proof.Machine.exec (.fence r) s = .next x ∧ x.taskOf r = some (c.retired s c.task)) ∧
    (isOp 0x39 c.w = true → c.task.opened ≠ [] → ∃ x, Sys2Proof.Machine.exec (.fence r) s = .next x ∧ (x.taskOf r).map (·.wait) = some .fence) ∧
    (isInsn 0x3B 0 c.w = true → ∃ x, Sys2Proof.Machine.exec (.evpost r) s = .next x ∧ x.taskOf r = some (c.retired s c.task) ∧ x.mem = (s.post
      c.job.fn 0x70 0xFF sevInfo c.job.vec (c.task.gr (iA c.w) + atByte 8 (c.task.gr (iB c.w)))).mem ∧ x.outbox = (s.post c.job.fn 0x70 0xFF sevInfo
      c.job.vec (c.task.gr (iA c.w) + atByte 8 (c.task.gr (iB c.w)))).outbox) ∧
    (isInsn 0x3B 1 c.w = true → ∃ x, Sys2Proof.Machine.exec (.cpost r) s = .next x ∧ (x.job r.job).map (fun j => (j.st, j.cpost)) = some (.committing,
      c.task.gr (iA c.w) % 2 ^ 32))

/-- Scalar, predicate and descriptor instructions (R237, R238, R239, R240, R242). Each clause says that a command COMPLETES:
for every state and all operands that meet its hypotheses, which speak of the state and the operands alone, exec answers a
next state, with the effect of the command that the clause gives. The clauses: ALU with an immediate; ALU with registers;
CMP; CMPI; predicate operation; TDSET of a field 0 to 13; TDGET; TDCPY; TDINV clears the valid bit; TDADD. -/
def Obligations.ScalarInstructions : Prop :=
  ∀ (s : State) (r : TaskRef) (c : Ctx), s.ctx r = some c → c.job.st = .running → guardOff c.task c.w = false →
    (isOp 0x10 c.w = true → ∃ x, Sys2Proof.Machine.exec (.aluImmediate r) s = .next x ∧ x.taskOf r = some (c.retired s (c.task.setG (iD c.w) (alu
      (iSub c.w) (c.task.gr (iA c.w)) (immOperand c))))) ∧
    (isOp 0x11 c.w = true → ∃ x, Sys2Proof.Machine.exec (.aluRegister r) s = .next x ∧ x.taskOf r = some (c.retired s (c.task.setG (iD c.w) (aluReg
      c)))) ∧
    (isOp 0x12 c.w = true → ∃ x, Sys2Proof.Machine.exec (.cmp r) s = .next x ∧ x.taskOf r = some (c.retired s (c.task.setP (iD c.w % 8) (cmpCond (iSub
      c.w) (c.task.gr (iA c.w)) (c.task.gr (iB c.w)))))) ∧
    (isOp 0x13 c.w = true → ∃ x, Sys2Proof.Machine.exec (.cmpi r) s = .next x ∧ x.taskOf r = some (c.retired s (c.task.setP (iD c.w % 8) (cmpCond
      (iSub c.w) (c.task.gr (iA c.w)) (imm38 c.w))))) ∧
    (isOp 0x14 c.w = true → ∃ x, Sys2Proof.Machine.exec (.predicateOp r) s = .next x ∧ x.taskOf r = some (c.retired s (predOp c c.task))) ∧
    (isOp 0x18 c.w = true → iSub c.w < 14 → ∃ x, Sys2Proof.Machine.exec (.tdset r) s = .next x ∧ x.taskOf r = some (c.retired s (c.task.setT (iTd c.w)
      ⟨setBytes (c.task.tr (iTd c.w)).val (tdField (iSub c.w)).1 (tdField (iSub c.w)).2 (gaImm c), true⟩))) ∧
    (isOp 0x1A c.w = true → ∃ x, Sys2Proof.Machine.exec (.tdget r) s = .next x ∧ x.taskOf r = some (c.retired s (c.task.setG (iGa c.w) (tdGet
      (c.task.tr (iTa c.w)).val (iSub c.w))))) ∧
    (isInsn 0x18 16 c.w = true → ∃ x, Sys2Proof.Machine.exec (.tdcpy r) s = .next x ∧ x.taskOf r = some (c.retired s (c.task.setT (iTd c.w) (c.task.tr
      (iTa c.w))))) ∧
    (isInsn 0x18 17 c.w = true → ∃ x, Sys2Proof.Machine.exec (.tdinv r) s = .next x ∧ x.taskOf r = some (c.retired s (c.task.setT (iTd c.w)
      { c.task.tr (iTd c.w) with valid := false }))) ∧
    (isOp 0x19 c.w = true → ∃ x, Sys2Proof.Machine.exec (.tdadd r) s = .next x ∧ x.taskOf r = some (c.retired s (c.task.setT (iTd c.w)
      { c.task.tr (iTd c.w) with val := tdAdd c (c.task.tr (iTd c.w)).val })))

/-- Loads, stores, descriptor and scale loads, and signals of a task (R241, R243, R246, R259). Each clause says that a
command COMPLETES: for every state and all operands that meet its hypotheses, which speak of the state and the operands
alone, exec answers a next state, with the effect of the command that the clause gives. The clauses: LOAD that no access rule
refuses, of bytes that can be read; LOAD of a misaligned address traps with cause ADDRESS; STORE that no access rule refuses:
it retires, and its bytes are in the scratch banks, or staged where they lie outside them; STORE to a misaligned address
traps with cause ADDRESS; TDLD that no access rule refuses; TDST that no access rule refuses; SCLD.E of a table entry; SCLD.E
beyond the table traps with cause ADDRESS; SCLD.T of a tracker that can be read and that its checks do not refuse; signalSet
that no access rule refuses, with nothing outstanding: the old value, and the new one in place; signalAdd that no access rule
refuses, with nothing outstanding: the old value, and the new one in place; signalMaxu that no access rule refuses, with
nothing outstanding: the old value, and the new one in place. Readings and choices of the model that it rests on: log entry
84. -/
def Obligations.MemoryInstructions : Prop :=
  ∀ (s : State) (r : TaskRef) (c : Ctx), s.ctx r = some c → c.job.st = .running → guardOff c.task c.w = false →
    (isOp 0x20 c.w = true → s.accessTrap c.job (memAddr c) (loadBytes (iSub c.w)) false = none → s.retrains (memAddr c) (loadBytes (iSub c.w)) = false
      → (s.jobRead c.job c.found (memAddr c) (loadBytes (iSub c.w))).1 = none → ∃ x, Sys2Proof.Machine.exec (.load r) s = .next x ∧ x.taskOf r = some
      (c.retired s (c.task.setG (iD c.w) (if iSub c.w ≥ 4 then wrap 64 (sext (8 * loadBytes (iSub c.w)) ((s.jobRead c.job c.found (memAddr c) (loadBytes
      (iSub c.w))).2.jobLoad c.job (jobKey c.job (memAddr c)) (loadBytes (iSub c.w)))) else (s.jobRead c.job c.found (memAddr c) (loadBytes (iSub
      c.w))).2.jobLoad c.job (jobKey c.job (memAddr c)) (loadBytes (iSub c.w)))))) ∧
    (isOp 0x20 c.w = true → memAddr c % loadBytes (iSub c.w) ≠ 0 → ∃ x, Sys2Proof.Machine.exec (.load r) s = .next x ∧ x.rd .SEQ_TRAP_CAUSE c.task.die
      c.task.seq = cAddress ∧ x.rd .SEQ_TRAP_PC c.task.die c.task.seq = c.task.pc % 2 ^ 17) ∧
    (isOp 0x21 c.w = true → s.accessTrap c.job (memAddr c) (2 ^ iSub c.w) true = none → (s.meets c.found [(memAddr c, 2 ^ iSub c.w)]).writePoisoned
      (memAddr c) (2 ^ iSub c.w) = false → ((s.meets c.found [(memAddr c, 2 ^ iSub c.w)]).jobStore c.job.id (jobKey c.job (memAddr c)) (2 ^ iSub c.w)
      0).1 = true → ∃ x, Sys2Proof.Machine.exec (.store r) s = .next x ∧ x.taskOf r = some (c.retired s c.task) ∧ x.rd .SEQ_PC_PC c.task.die c.task.seq
      = c.task.pc % 2 ^ 17 ∧ ∀ j, x.job r.job = some j → ∀ i, i < 2 ^ iSub c.w → (if inRanges c.job.scratchRanges (jobKey c.job (memAddr c) + i) 1 then
      some (x.byte (jobKey c.job (memAddr c) + i)) else j.staged.get none (jobKey c.job (memAddr c) + i)) = some (BitVec.ofNat 8 ((c.task.gr (iD c.w)) /
      256 ^ i))) ∧
    (isOp 0x21 c.w = true → memAddr c % 2 ^ iSub c.w ≠ 0 → ∃ x, Sys2Proof.Machine.exec (.store r) s = .next x ∧ x.rd .SEQ_TRAP_CAUSE c.task.die
      c.task.seq = cAddress ∧ x.rd .SEQ_TRAP_PC c.task.die c.task.seq = c.task.pc % 2 ^ 17) ∧
    (isInsn 0x18 14 c.w = true → gaImm c % 8 = 0 → s.scalarCheck c.job (gaImm c) 64 false = none → s.retrains (gaImm c) (64) = false → (s.jobRead
      c.job c.found (gaImm c) (64)).1 = none → ∃ x, Sys2Proof.Machine.exec (.tdld r) s = .next x ∧ x.taskOf r = some (c.retired s (c.task.setT (iTd c.w)
      ⟨(s.jobRead c.job c.found (gaImm c) (64)).2.jobLoad c.job (jobKey c.job (gaImm c)) (64), true⟩))) ∧
    (isInsn 0x18 15 c.w = true → gaImm c % 8 = 0 → s.scalarCheck c.job (gaImm c) 64 true = none → (s).writePoisoned (gaImm c) (64) = false →
      ((s).jobStore c.job.id (jobKey c.job (gaImm c)) (64) 0).1 = true → ∃ x, Sys2Proof.Machine.exec (.tdst r) s = .next x ∧ x.taskOf r = some
      (c.retired s c.task) ∧ x.rd .SEQ_PC_PC c.task.die c.task.seq = c.task.pc % 2 ^ 17 ∧ ∀ j, x.job r.job = some j → ∀ i, i < 64 → (if inRanges
      c.job.scratchRanges (jobKey c.job (gaImm c) + i) 1 then some (x.byte (jobKey c.job (gaImm c) + i)) else j.staged.get none (jobKey c.job (gaImm c)
      + i)) = some (BitVec.ofNat 8 (((c.task.tr (iTa c.w)).val) / 256 ^ i))) ∧
    (isInsn 0x25 0 c.w = true → s.tdOk c.job (c.task.tr (iTa c.w)) = true → tdScaled (c.task.tr (iTa c.w)).val = true → c.task.gr (iGb c.w) < tdSlen
      (c.task.tr (iTa c.w)).val → s.bankAllows c.job (tdScale (c.task.tr (iTa c.w)).val + c.task.gr (iGb c.w) * tdEntry (c.task.tr (iTa c.w)).val)
      (tdEntry (c.task.tr (iTa c.w)).val) = true → s.retrains (tdScale (c.task.tr (iTa c.w)).val + c.task.gr (iGb c.w) * tdEntry (c.task.tr (iTa
      c.w)).val) (tdEntry (c.task.tr (iTa c.w)).val) = false → (s.jobRead c.job c.found (tdScale (c.task.tr (iTa c.w)).val + c.task.gr (iGb c.w) *
      tdEntry (c.task.tr (iTa c.w)).val) (tdEntry (c.task.tr (iTa c.w)).val)).1 = none → (tdSue8 (c.task.tr (iTa c.w)).val = true → (s.jobRead c.job
      c.found (tdScale (c.task.tr (iTa c.w)).val + c.task.gr (iGb c.w) * tdEntry (c.task.tr (iTa c.w)).val) (tdEntry (c.task.tr (iTa
      c.w)).val)).2.jobLoad c.job (jobKey c.job (tdScale (c.task.tr (iTa c.w)).val + c.task.gr (iGb c.w) * tdEntry (c.task.tr (iTa c.w)).val)) (tdEntry
      (c.task.tr (iTa c.w)).val) ≠ 255) → ∃ x, Sys2Proof.Machine.exec (.scldE r) s = .next x ∧ x.taskOf r = some (c.retired s (c.task.setG (iGa c.w) (if
      tdSue8 (c.task.tr (iTa c.w)).val then f32Code (.fin false (pow2 ((((s.jobRead c.job c.found (tdScale (c.task.tr (iTa c.w)).val + c.task.gr (iGb
      c.w) * tdEntry (c.task.tr (iTa c.w)).val) (tdEntry (c.task.tr (iTa c.w)).val)).2.jobLoad c.job (jobKey c.job (tdScale (c.task.tr (iTa c.w)).val +
      c.task.gr (iGb c.w) * tdEntry (c.task.tr (iTa c.w)).val)) (tdEntry (c.task.tr (iTa c.w)).val) : Nat) : Int) - 127))) else (s.jobRead c.job c.found
      (tdScale (c.task.tr (iTa c.w)).val + c.task.gr (iGb c.w) * tdEntry (c.task.tr (iTa c.w)).val) (tdEntry (c.task.tr (iTa c.w)).val)).2.jobLoad c.job
      (jobKey c.job (tdScale (c.task.tr (iTa c.w)).val + c.task.gr (iGb c.w) * tdEntry (c.task.tr (iTa c.w)).val)) (tdEntry (c.task.tr (iTa
      c.w)).val))))) ∧
    (isInsn 0x25 0 c.w = true → s.tdOk c.job (c.task.tr (iTa c.w)) = true → tdScaled (c.task.tr (iTa c.w)).val = true → tdSlen (c.task.tr (iTa
      c.w)).val ≤ c.task.gr (iGb c.w) → ∃ x, Sys2Proof.Machine.exec (.scldE r) s = .next x ∧ x.rd .SEQ_TRAP_CAUSE c.task.die c.task.seq = cAddress ∧
      x.rd .SEQ_TRAP_PC c.task.die c.task.seq = c.task.pc % 2 ^ 17) ∧
    (∀ (v : Nat), isInsn 0x25 1 c.w = true → s.tdOk c.job (c.task.tr (iTa c.w)) = true → tdTracked (c.task.tr (iTa c.w)).val = true → ((c.job.trk.get
      none (jobKey c.job (tdTracker (c.task.tr (iTa c.w)).val))).isSome = true ∨ s.bankAllows c.job (tdTracker (c.task.tr (iTa c.w)).val) 128 = true ∧
      s.retrains (tdTracker (c.task.tr (iTa c.w)).val) 128 = false ∧ (s.jobRead c.job c.found (tdTracker (c.task.tr (iTa c.w)).val) 128).1 = none) →
      (fun u => if trkRefused u (trkLag u) (tdFmt (c.task.tr (iTa c.w)).val) false then none else trkScale u 0 false) ((if (c.job.trk.get none (jobKey
      c.job (tdTracker (c.task.tr (iTa c.w)).val))).isSome then s else (s.jobRead c.job c.found (tdTracker (c.task.tr (iTa c.w)).val) 128).2).trackerOf
      c.job (tdTracker (c.task.tr (iTa c.w)).val)) = some v → ∃ x, Sys2Proof.Machine.exec (.scldT r) s = .next x ∧ x.taskOf r = some (c.retired s
      (c.task.setG (iGa c.w) v))) ∧
    (isInsn 0x3A 0 c.w = true → s.accessTrap c.job (c.task.gr (iA c.w)) 8 true = none → c.task.opened = [] → s.retrains (c.task.gr (iA c.w)) (8) =
      false → (s.jobRead c.job c.found (c.task.gr (iA c.w)) (8)).1 = none → ((s.jobRead c.job c.found (c.task.gr (iA c.w)) 8).2).writePoisoned
      (c.task.gr (iA c.w)) (8) = false → (((s.jobRead c.job c.found (c.task.gr (iA c.w)) 8).2).jobStore c.job.id (jobKey c.job (c.task.gr (iA c.w))) (8)
      0).1 = true → ∃ x, Sys2Proof.Machine.exec (.signalSet r) s = .next x ∧ x.taskOf r = some (c.retired s (c.task.setG (iD c.w) ((s.jobRead c.job
      c.found (c.task.gr (iA c.w)) (8)).2.jobLoad c.job (jobKey c.job (c.task.gr (iA c.w))) (8)))) ∧ x.rd .SEQ_PC_PC c.task.die c.task.seq = c.task.pc %
      2 ^ 17 ∧ ∀ j, x.job r.job = some j → ∀ i, i < 8 → (if inRanges c.job.scratchRanges (jobKey c.job (c.task.gr (iA c.w)) + i) 1 then some (x.byte
      (jobKey c.job (c.task.gr (iA c.w)) + i)) else j.staged.get none (jobKey c.job (c.task.gr (iA c.w)) + i)) = some (BitVec.ofNat 8 ((c.task.gr (iB
      c.w)) / 256 ^ i))) ∧
    (isInsn 0x3A 1 c.w = true → s.accessTrap c.job (c.task.gr (iA c.w)) 8 true = none → c.task.opened = [] → s.retrains (c.task.gr (iA c.w)) (8) =
      false → (s.jobRead c.job c.found (c.task.gr (iA c.w)) (8)).1 = none → ((s.jobRead c.job c.found (c.task.gr (iA c.w)) 8).2).writePoisoned
      (c.task.gr (iA c.w)) (8) = false → (((s.jobRead c.job c.found (c.task.gr (iA c.w)) 8).2).jobStore c.job.id (jobKey c.job (c.task.gr (iA c.w))) (8)
      0).1 = true → ∃ x, Sys2Proof.Machine.exec (.signalAdd r) s = .next x ∧ x.taskOf r = some (c.retired s (c.task.setG (iD c.w) ((s.jobRead c.job
      c.found (c.task.gr (iA c.w)) (8)).2.jobLoad c.job (jobKey c.job (c.task.gr (iA c.w))) (8)))) ∧ x.rd .SEQ_PC_PC c.task.die c.task.seq = c.task.pc %
      2 ^ 17 ∧ ∀ j, x.job r.job = some j → ∀ i, i < 8 → (if inRanges c.job.scratchRanges (jobKey c.job (c.task.gr (iA c.w)) + i) 1 then some (x.byte
      (jobKey c.job (c.task.gr (iA c.w)) + i)) else j.staged.get none (jobKey c.job (c.task.gr (iA c.w)) + i)) = some (BitVec.ofNat 8 ((((s.jobRead
      c.job c.found (c.task.gr (iA c.w)) (8)).2.jobLoad c.job (jobKey c.job (c.task.gr (iA c.w))) (8) + c.task.gr (iB c.w)) % 2 ^ 64) / 256 ^ i))) ∧
    (isInsn 0x3A 2 c.w = true → s.accessTrap c.job (c.task.gr (iA c.w)) 8 true = none → c.task.opened = [] → s.retrains (c.task.gr (iA c.w)) (8) =
      false → (s.jobRead c.job c.found (c.task.gr (iA c.w)) (8)).1 = none → ((s.jobRead c.job c.found (c.task.gr (iA c.w)) 8).2).writePoisoned
      (c.task.gr (iA c.w)) (8) = false → (((s.jobRead c.job c.found (c.task.gr (iA c.w)) 8).2).jobStore c.job.id (jobKey c.job (c.task.gr (iA c.w))) (8)
      0).1 = true → ∃ x, Sys2Proof.Machine.exec (.signalMaxu r) s = .next x ∧ x.taskOf r = some (c.retired s (c.task.setG (iD c.w) ((s.jobRead c.job
      c.found (c.task.gr (iA c.w)) (8)).2.jobLoad c.job (jobKey c.job (c.task.gr (iA c.w))) (8)))) ∧ x.rd .SEQ_PC_PC c.task.die c.task.seq = c.task.pc %
      2 ^ 17 ∧ ∀ j, x.job r.job = some j → ∀ i, i < 8 → (if inRanges c.job.scratchRanges (jobKey c.job (c.task.gr (iA c.w)) + i) 1 then some (x.byte
      (jobKey c.job (c.task.gr (iA c.w)) + i)) else j.staged.get none (jobKey c.job (c.task.gr (iA c.w)) + i)) = some (BitVec.ofNat 8 ((max ((s.jobRead
      c.job c.found (c.task.gr (iA c.w)) (8)).2.jobLoad c.job (jobKey c.job (c.task.gr (iA c.w))) (8)) (c.task.gr (iB c.w))) / 256 ^ i)))

/-- The dispatcher, commit, barriers and the registers of the sequencers (R187, R188, R190, R217, R220, R236). Each clause
says that a command COMPLETES: for every state and all operands that meet its hypotheses, which speak of the state and the
operands alone, exec answers a next state, with the effect of the command that the clause gives. The clauses: an instruction
whose guard is off retires without effect, a NOP for one; an instruction in the cycle in which a CPOST of another task
stopped the job retires, a NOP for one, and the task halts; the first waiting job, without a deadline, starts where its
tasks, its slots, its banks and a place are at hand; the first waiting job ends where its program is gone; a stopped, quiet
job of a function that is not mirrored commits and ends, while PCIe runs; a stopped, quiet job of a mirrored function writes
what it staged, sends its record and waits for the acknowledgement; a barrier that the one task of a job has reached, with
nothing outstanding, lets it on; a memory wait whose condition holds lets the task on; RESERVE0, 8 or less, is taken;
RESERVE0 beyond 8 is refused; DRAIN as it stands: no effect; a change of DRAIN is taken, and is an expert write;
SEQ_CTRL.HANDBACK: no drain, RESERVE0 of 2, and the firmware. Readings and choices of the model that it rests on: log entries
13 and 102. -/
def Obligations.JobsOnSequencers : Prop :=
  ∀ (s : State),
    (∀ (r : TaskRef) (c : Ctx), s.ctx r = some c → c.job.st = .running → isOp 0 c.w = true → guardOff c.task c.w = true → ∃ x, Sys2Proof.Machine.exec
      (.nop r) s = .next x ∧ x = (s.wr .SEQ_PC_PC c.task.pc c.task.die c.task.seq).retire c id) ∧
    (∀ (r : TaskRef) (c : Ctx), s.ctx r = some c → c.job.st = .committing → isOp 0 c.w = true → guardOff c.task c.w = false → ∃ x,
      Sys2Proof.Machine.exec (.nop r) s = .next x ∧ (x.taskOf r).map (fun t => (t.wait, t.pc)) = some (.halted, c.next % 2 ^ 17)) ∧
    (∀ (j : Job) (l : List Job) (p : Prog) (q : List (Nat × Nat)) (z : List (Nat × Nat × Nat)), s.paused 1 s.head = false → s.waitingJobs = j :: l →
      s.prog j.handle = some p → s.neverStarts j = false → s.placeTasks j.cls (s.allowedDies p j.slots) p.tasks 0 [] = some q → (slotsOf j.slots).any
      s.slotLost = false → (slotsOf j.slots).all (fun k => bit (s.rd .FNQ_GRANT_SLOT j.fn) k) = true → p.scratchBanks * ((q.map (·.1)).eraseDups).length
      + s.held j.fn resBank ≤ s.quota j.fn resBank → s.scratchFor p.scratchBanks (q.map (·.1)) = some z → j.deadline = 0 → (s.jobs.filter
      (·.active)).length < 64 → ∃ x, Sys2Proof.Machine.exec (.jobDispatch) s = .next x ∧ (x.job j.id).map (fun k => (k.st, k.runTag, k.scratch)) = some
      (.running, s.freeTag, z)) ∧
    (∀ (j : Job) (l : List Job), s.paused 1 s.head = false → s.waitingJobs = j :: l → s.prog j.handle = none → ∃ x, Sys2Proof.Machine.exec
      (.jobDispatch) s = .next x ∧ x.job j.id = none) ∧
    (∀ (i : Nat) (j : Job), s.job i = some j → j.st = .committing → s.jobQuiet i = true → j.tasks.all (fun t => t.wait == .halted) = true →
      s.ax .pcieDown = 0 → s.paused 0 s.head = false → j.outputs.any (fun e => s.retrains e.1 1) = false → s.mirrored j.fn = false → ∃ x,
      Sys2Proof.Machine.exec (.jobCommit i) s = .next x ∧ x.job i = none) ∧
    (∀ (i : Nat) (j : Job), s.job i = some j → j.st = .committing → s.jobQuiet i = true → j.tasks.all (fun t => t.wait == .halted) = true →
      s.ax .pcieDown = 0 → s.paused 0 s.head = false → j.outputs.any (fun e => s.retrains e.1 1) = false → s.mirrored j.fn = true → ∃ x,
      Sys2Proof.Machine.exec (.jobCommit i) s = .next x ∧ (x.job i).map (fun k => (k.st, k.staged)) = some (.ackWait, [])) ∧
    (∀ (i : Nat) (j : Job) (t : Task), s.job i = some j → j.st = .running → j.tasks = [t] → t.wait = .bar → t.opened = [] → ∃ x,
      Sys2Proof.Machine.exec (.barRelease i) s = .next x ∧ x.taskOf { job := i, task := t.num } = some
      { t with wait := .run, progress := s.now, pc := (t.pc + 1) % 2 ^ 17 }) ∧
    (∀ (r : TaskRef) (j : Job) (t : Task) (k a n v : Nat), s.job r.job = some j → j.task r.task = some t → t.wait = .mem k a n v → j.st = .running →
      s.paused 0 t.die = false → s.accessTrap j a n false = none → s.retrains a n = false → (s.jobRead j r.found a n).1 = none → memCond k ((s.jobRead j
      r.found a n).2.jobLoad j (jobKey j a) n) v = true → ∃ x, Sys2Proof.Machine.exec (.memoryConditionRecheck r) s = .next x ∧ x.taskOf r = some
      { t with wait := .run, progress := s.now, pc := (t.pc + 1) % 2 ^ 17 }) ∧
    (∀ (d : Nat) (o : Order), s.dieWindow d = true → d < s.part.dies → Alone o → o.w.v ≤ 8 → ∃ x, Sys2Proof.Machine.exec (.seqCfgWrite d o) s = .next
      x ∧ x.rd .SEQ_CFG_RESERVE0 d = o.w.v) ∧
    (∀ (d : Nat) (o : Order), s.dieWindow d = true → d < s.part.dies → Alone o → 8 < o.w.v → ∃ x, Sys2Proof.Machine.exec (.seqCfgWrite d o) s = .next
      x ∧ x.rd .SEQ_CFG_RESERVE0 d = s.rd .SEQ_CFG_RESERVE0 d ∧ x.rd .SEQ_STAT_REFUSED d = 1) ∧
    (∀ (d : Nat) (o : Order), s.dieWindow d = true → Alone o → o.w.v % 2 = s.rd .SEQ_CTRL_DRAIN d → ∃ x, Sys2Proof.Machine.exec (.seqCtrlDrainWrite d
      o) s = .next x ∧ x = s) ∧
    (∀ (d : Nat) (o : Order), s.dieWindow d = true → d < s.part.dies → Alone o → o.w.v % 2 ≠ s.rd .SEQ_CTRL_DRAIN d → ∃ x, Sys2Proof.Machine.exec
      (.seqCtrlDrainWrite d o) s = .next x ∧ x.rd .SEQ_CTRL_DRAIN d = o.w.v % 2 ∧ x.rd .SEQ_STAT_EXPERT d = 1) ∧
    (∀ (d : Nat) (o : Order), s.dieWindow d = true → d < s.part.dies → Alone o → o.w.v % 2 = 1 → ∃ x, Sys2Proof.Machine.exec (.seqCtrlHandback d o) s
      = .next x ∧ x.rd .SEQ_CTRL_DRAIN d = 0 ∧ x.rd .SEQ_CFG_RESERVE0 d = 2 ∧ x.rd .SEQ_STAT_EXPERT d = 0)

/-- An array or movement instruction that no rule turns away starts its operation (R199, R212, R228, R244, R245, R247, R253,
R254, R255, R256, R272). Each clause says that a command COMPLETES: for every state and all operands that meet its
hypotheses, which speak of the state and the operands alone, exec answers a next state, with the effect of the command that
the clause gives. The clauses: MOVT: its descriptors wait or are on engines; GATHER, likewise; SCATTER, likewise; MM; MMT;
MMA; MMAT; EW; RED; SMAX; NORM.LAYER; NORM.RMS; QNT; DQNT. Readings and choices of the model that it rests on: log entry 99.
-/
def Obligations.ArrayInstructions : Prop :=
  ∀ (s : State) (r : TaskRef) (c : Ctx), s.ctx r = some c → c.job.st = .running → guardOff c.task c.w = false → s.opTrap c = none → c.task.full =
    false →
    (iOp c.w = 0x22 → ∃ x, Sys2Proof.Machine.exec (.movt r) s = .next x ∧ x.taskOf r = some (c.retired s (c.ticketed false (iGb c.w))) ∧ ∃ o ∈ x.ops,
      o.issue = s.ax .opCount ∧ o.job = c.job.id ∧ o.task = c.task.num ∧ o.ticket = c.task.last + 1 ∧ o.unit = .dma ∧ o.die = c.task.die ∧ o.word = c.w
      ∧ o.ta = (c.task.tr (iTa c.w)).val ∧ o.tb = (c.task.tr (iTb c.w)).val ∧ o.td = (c.task.tr (iTd c.w)).val ∧ o.ga = c.task.gr (iGa c.w) ∧ o.left +
      (x.dmas.filter (fun k => k.issue == o.issue)).length = dmaDescriptors c.w (c.task.tr (iTa c.w)).val (c.task.tr (iTb c.w)).val + (s.dmas.filter
      (fun k => k.issue == o.issue)).length) ∧
    (iOp c.w = 0x23 → ∃ x, Sys2Proof.Machine.exec (.gather r) s = .next x ∧ x.taskOf r = some (c.retired s (c.ticketed false (iGb c.w))) ∧ ∃ o ∈
      x.ops, o.issue = s.ax .opCount ∧ o.job = c.job.id ∧ o.task = c.task.num ∧ o.ticket = c.task.last + 1 ∧ o.unit = .dma ∧ o.die = c.task.die ∧ o.word
      = c.w ∧ o.ta = (c.task.tr (iTa c.w)).val ∧ o.tb = (c.task.tr (iTb c.w)).val ∧ o.td = (c.task.tr (iTd c.w)).val ∧ o.ga = c.task.gr (iGa c.w) ∧
      o.left + (x.dmas.filter (fun k => k.issue == o.issue)).length = dmaDescriptors c.w (c.task.tr (iTa c.w)).val (c.task.tr (iTb c.w)).val +
      (s.dmas.filter (fun k => k.issue == o.issue)).length) ∧
    (iOp c.w = 0x24 → ∃ x, Sys2Proof.Machine.exec (.scatter r) s = .next x ∧ x.taskOf r = some (c.retired s (c.ticketed false (iGb c.w))) ∧ ∃ o ∈
      x.ops, o.issue = s.ax .opCount ∧ o.job = c.job.id ∧ o.task = c.task.num ∧ o.ticket = c.task.last + 1 ∧ o.unit = .dma ∧ o.die = c.task.die ∧ o.word
      = c.w ∧ o.ta = (c.task.tr (iTa c.w)).val ∧ o.tb = (c.task.tr (iTb c.w)).val ∧ o.td = (c.task.tr (iTd c.w)).val ∧ o.ga = c.task.gr (iGa c.w) ∧
      o.left + (x.dmas.filter (fun k => k.issue == o.issue)).length = dmaDescriptors c.w (c.task.tr (iTa c.w)).val (c.task.tr (iTb c.w)).val +
      (s.dmas.filter (fun k => k.issue == o.issue)).length) ∧
    (iOp c.w = 0x30 ∧ iSub c.w = 0 → ∃ x, Sys2Proof.Machine.exec (.mm r) s = .next x ∧ Launched .array r c s x ∧ (x.ops.getLast?).map (·.left) = some
      (opCycles c.w (c.task.tr (iTa c.w)).val (c.task.tr (iTb c.w)).val (c.task.tr (iTd c.w)).val)) ∧
    (iOp c.w = 0x30 ∧ iSub c.w = 1 → ∃ x, Sys2Proof.Machine.exec (.mmt r) s = .next x ∧ Launched .array r c s x ∧ (x.ops.getLast?).map (·.left) = some
      (opCycles c.w (c.task.tr (iTa c.w)).val (c.task.tr (iTb c.w)).val (c.task.tr (iTd c.w)).val)) ∧
    (iOp c.w = 0x31 ∧ iSub c.w = 0 → ∃ x, Sys2Proof.Machine.exec (.mma r) s = .next x ∧ Launched .array r c s x ∧ (x.ops.getLast?).map (·.left) = some
      (opCycles c.w (c.task.tr (iTa c.w)).val (c.task.tr (iTb c.w)).val (c.task.tr (iTd c.w)).val)) ∧
    (iOp c.w = 0x31 ∧ iSub c.w = 1 → ∃ x, Sys2Proof.Machine.exec (.mmat r) s = .next x ∧ Launched .array r c s x ∧ (x.ops.getLast?).map (·.left) =
      some (opCycles c.w (c.task.tr (iTa c.w)).val (c.task.tr (iTb c.w)).val (c.task.tr (iTd c.w)).val)) ∧
    (iOp c.w = 0x32 → ∃ x, Sys2Proof.Machine.exec (.ew r) s = .next x ∧ Launched .array r c s x ∧ (x.ops.getLast?).map (·.left) = some (opCycles c.w
      (c.task.tr (iTa c.w)).val (c.task.tr (iTb c.w)).val (c.task.tr (iTd c.w)).val)) ∧
    (iOp c.w = 0x33 → ∃ x, Sys2Proof.Machine.exec (.red r) s = .next x ∧ Launched .array r c s x ∧ (x.ops.getLast?).map (·.left) = some (opCycles c.w
      (c.task.tr (iTa c.w)).val (c.task.tr (iTb c.w)).val (c.task.tr (iTd c.w)).val)) ∧
    (iOp c.w = 0x34 → ∃ x, Sys2Proof.Machine.exec (.smax r) s = .next x ∧ Launched .array r c s x ∧ (x.ops.getLast?).map (·.left) = some (opCycles c.w
      (c.task.tr (iTa c.w)).val (c.task.tr (iTb c.w)).val (c.task.tr (iTd c.w)).val)) ∧
    (iOp c.w = 0x35 ∧ iSub c.w = 0 → ∃ x, Sys2Proof.Machine.exec (.normLayer r) s = .next x ∧ Launched .array r c s x ∧ (x.ops.getLast?).map (·.left)
      = some (opCycles c.w (c.task.tr (iTa c.w)).val (c.task.tr (iTb c.w)).val (c.task.tr (iTd c.w)).val)) ∧
    (iOp c.w = 0x35 ∧ iSub c.w = 1 → ∃ x, Sys2Proof.Machine.exec (.normRms r) s = .next x ∧ Launched .array r c s x ∧ (x.ops.getLast?).map (·.left) =
      some (opCycles c.w (c.task.tr (iTa c.w)).val (c.task.tr (iTb c.w)).val (c.task.tr (iTd c.w)).val)) ∧
    (iOp c.w = 0x36 → ∃ x, Sys2Proof.Machine.exec (.qnt r) s = .next x ∧ Launched .array r c s x ∧ (x.ops.getLast?).map (·.left) = some (opCycles c.w
      (c.task.tr (iTa c.w)).val (c.task.tr (iTb c.w)).val (c.task.tr (iTd c.w)).val)) ∧
    (iOp c.w = 0x37 → ∃ x, Sys2Proof.Machine.exec (.dqnt r) s = .next x ∧ Launched .array r c s x ∧ (x.ops.getLast?).map (·.left) = some (opCycles c.w
      (c.task.tr (iTa c.w)).val (c.task.tr (iTb c.w)).val (c.task.tr (iTd c.w)).val))

/-- An array or movement instruction with a bad operand traps and starts nothing (R200, R201, R247). Each clause says that a
command COMPLETES: for every state and all operands that meet its hypotheses, which speak of the state and the operands
alone, exec answers a next state, with the effect of the command that the clause gives. The clauses: MOVT; GATHER; SCATTER;
MM; MMT; MMA; MMAT; EW; RED; SMAX; NORM.LAYER; NORM.RMS; QNT; DQNT. -/
def Obligations.TrappedOperations : Prop :=
  ∀ (s : State) (r : TaskRef) (c : Ctx) (e : Nat), s.ctx r = some c → c.job.st = .running → guardOff c.task c.w = false → s.opTrap c = some e →
    (iOp c.w = 0x22 → ∃ x, Sys2Proof.Machine.exec (.movt r) s = .next x ∧ x.rd .SEQ_TRAP_CAUSE c.task.die c.task.seq = e % 256 ∧ ∀ o ∈ x.ops,
      s.ops.any (fun k => k.issue == o.issue) = true) ∧
    (iOp c.w = 0x23 → ∃ x, Sys2Proof.Machine.exec (.gather r) s = .next x ∧ x.rd .SEQ_TRAP_CAUSE c.task.die c.task.seq = e % 256 ∧ ∀ o ∈ x.ops,
      s.ops.any (fun k => k.issue == o.issue) = true) ∧
    (iOp c.w = 0x24 → ∃ x, Sys2Proof.Machine.exec (.scatter r) s = .next x ∧ x.rd .SEQ_TRAP_CAUSE c.task.die c.task.seq = e % 256 ∧ ∀ o ∈ x.ops,
      s.ops.any (fun k => k.issue == o.issue) = true) ∧
    (iOp c.w = 0x30 ∧ iSub c.w = 0 → ∃ x, Sys2Proof.Machine.exec (.mm r) s = .next x ∧ x.rd .SEQ_TRAP_CAUSE c.task.die c.task.seq = e % 256 ∧ ∀ o ∈
      x.ops, o ∈ s.ops) ∧
    (iOp c.w = 0x30 ∧ iSub c.w = 1 → ∃ x, Sys2Proof.Machine.exec (.mmt r) s = .next x ∧ x.rd .SEQ_TRAP_CAUSE c.task.die c.task.seq = e % 256 ∧ ∀ o ∈
      x.ops, o ∈ s.ops) ∧
    (iOp c.w = 0x31 ∧ iSub c.w = 0 → ∃ x, Sys2Proof.Machine.exec (.mma r) s = .next x ∧ x.rd .SEQ_TRAP_CAUSE c.task.die c.task.seq = e % 256 ∧ ∀ o ∈
      x.ops, o ∈ s.ops) ∧
    (iOp c.w = 0x31 ∧ iSub c.w = 1 → ∃ x, Sys2Proof.Machine.exec (.mmat r) s = .next x ∧ x.rd .SEQ_TRAP_CAUSE c.task.die c.task.seq = e % 256 ∧ ∀ o ∈
      x.ops, o ∈ s.ops) ∧
    (iOp c.w = 0x32 → ∃ x, Sys2Proof.Machine.exec (.ew r) s = .next x ∧ x.rd .SEQ_TRAP_CAUSE c.task.die c.task.seq = e % 256 ∧ ∀ o ∈ x.ops, o ∈ s.ops)
      ∧
    (iOp c.w = 0x33 → ∃ x, Sys2Proof.Machine.exec (.red r) s = .next x ∧ x.rd .SEQ_TRAP_CAUSE c.task.die c.task.seq = e % 256 ∧ ∀ o ∈ x.ops, o ∈
      s.ops) ∧
    (iOp c.w = 0x34 → ∃ x, Sys2Proof.Machine.exec (.smax r) s = .next x ∧ x.rd .SEQ_TRAP_CAUSE c.task.die c.task.seq = e % 256 ∧ ∀ o ∈ x.ops, o ∈
      s.ops) ∧
    (iOp c.w = 0x35 ∧ iSub c.w = 0 → ∃ x, Sys2Proof.Machine.exec (.normLayer r) s = .next x ∧ x.rd .SEQ_TRAP_CAUSE c.task.die c.task.seq = e % 256 ∧ ∀
      o ∈ x.ops, o ∈ s.ops) ∧
    (iOp c.w = 0x35 ∧ iSub c.w = 1 → ∃ x, Sys2Proof.Machine.exec (.normRms r) s = .next x ∧ x.rd .SEQ_TRAP_CAUSE c.task.die c.task.seq = e % 256 ∧ ∀ o
      ∈ x.ops, o ∈ s.ops) ∧
    (iOp c.w = 0x36 → ∃ x, Sys2Proof.Machine.exec (.qnt r) s = .next x ∧ x.rd .SEQ_TRAP_CAUSE c.task.die c.task.seq = e % 256 ∧ ∀ o ∈ x.ops, o ∈
      s.ops) ∧
    (iOp c.w = 0x37 → ∃ x, Sys2Proof.Machine.exec (.dqnt r) s = .next x ∧ x.rd .SEQ_TRAP_CAUSE c.task.die c.task.seq = e % 256 ∧ ∀ o ∈ x.ops, o ∈
      s.ops)

/-- STITCH, RSTITCH, ROT and MAPSEL (R248, R249, R250, R251, R252). Each clause says that a command COMPLETES: for every
state and all operands that meet its hypotheses, which speak of the state and the operands alone, exec answers a next state,
with the effect of the command that the clause gives. The clauses: STITCH that no rule turns away, on a queue with room for
its requests, posts them and takes its ticket; RSTITCH that no rule turns away, on a queue with room for its requests, posts
them and takes its ticket; STITCH on tensors that the rules call malformed ends the job; ROT that no rule turns away starts
its operation; MAPSEL of a slot of the job; MAPSEL of another slot traps with cause ADDRESS. Readings and choices of the
model that it rests on: log entries 96, 97, 105 and 133. -/
def Obligations.FabricInstructions : Prop :=
  ∀ (s : State) (r : TaskRef) (c : Ctx), s.ctx r = some c → c.job.st = .running → guardOff c.task c.w = false →
    (∀ (q : Nat), iOp c.w = 0x28 → c.task.full = false → s.stitchTrap c = none → c.task.wait = .run → s.stitchMalformed c false = false →
      (s.layerTiles (iSlot c.w) (iLayer c.w)).any (fun p => s.tst p.die p.tile == tsRetired) = false → (s.feedQueues c.job.fn)[c.task.gr (iGa c.w)]? =
      some q → s.inQueue q + tdD (c.task.tr (iTa c.w)).val 3 ≤ 32 → ∃ x, Sys2Proof.Machine.exec (.stitch r) s = .next x ∧ x.reqs.length = s.reqs.length
      + tdD (c.task.tr (iTa c.w)).val 3 ∧ x.taskOf r = some (c.retired s (c.ticketed true (iGb c.w))) ∧ x.tix = s.tix ++ [⟨c.job.id, c.task.num,
      c.task.last + 1, tdD (c.task.tr (iTa c.w)).val 3, 0⟩]) ∧
    (∀ (q : Nat), iOp c.w = 0x29 → c.task.full = false → s.stitchTrap c = none → c.task.wait = .run → s.stitchMalformed c true = false → (s.layerTiles
      (iSlot c.w) (iLayer c.w)).any (fun p => s.tst p.die p.tile == tsRetired) = false → (s.layerTiles (iSlot c.w) (iLayer c.w)).any (fun p =>
      s.rdb .TIL_STATUS_REV_LOST p.die p.tile) = false → (s.feedQueues c.job.fn)[c.task.gr (iGa c.w)]? = some q → s.inQueue q + tdD (c.task.tr (iTa
      c.w)).val 3 ≤ 32 → ∃ x, Sys2Proof.Machine.exec (.rstitch r) s = .next x ∧ x.reqs.length = s.reqs.length + tdD (c.task.tr (iTa c.w)).val 3 ∧
      x.taskOf r = some (c.retired s (c.ticketed true (iGb c.w))) ∧ x.tix = s.tix ++ [⟨c.job.id, c.task.num, c.task.last + 1, tdD (c.task.tr (iTa
      c.w)).val 3, 0⟩]) ∧
    (iOp c.w = 0x28 → c.task.full = false → s.stitchTrap c = none → s.stitchMalformed c false = true → ∃ x, Sys2Proof.Machine.exec (.stitch r) s
      = .next x ∧ x.job r.job = none) ∧
    (iOp c.w = 0x2B → c.task.full = false → s.rotTrap c (((s.rotOf (iSlot c.w) (s.activeMap (iSlot c.w)) (iLayer c.w)).map (fun e => e.1.inW)).getD
      (inputWidth (s.layerTiles (iSlot c.w) (iLayer c.w)))) = none → ∃ x, Sys2Proof.Machine.exec (.rot r) s = .next x ∧ Launched .array r c s x) ∧
    (iOp c.w = 0x2C → bit c.job.slots (bits c.w 5 0) = true → ∃ x, Sys2Proof.Machine.exec (.mapsel r) s = .next x ∧ x.taskOf r = some (c.retired s
      (c.task.setG (iD c.w) (s.mapsel (bits c.w 5 0))))) ∧
    (iOp c.w = 0x2C → bit c.job.slots (bits c.w 5 0) = false → ∃ x, Sys2Proof.Machine.exec (.mapsel r) s = .next x ∧ x.rd .SEQ_TRAP_CAUSE c.task.die
      c.task.seq = cAddress ∧ x.rd .SEQ_TRAP_PC c.task.die c.task.seq = c.task.pc % 2 ^ 17)

/-- The maintenance instructions take their tickets and begin on a tile that is free for them (R192, R262, R263, R264). Each
clause says that a command COMPLETES: for every state and all operands that meet its hypotheses, which speak of the state and
the operands alone, exec answers a next state, with the effect of the command that the clause gives. The clauses: CAL, quick;
CLEAR; PROG; VERIFY; REFRESH; cal, superseded by a higher-ranked master in the same cycle; prog, superseded by a
higher-ranked master in the same cycle. Readings and choices of the model that it rests on: log entry 106. -/
def Obligations.MaintenanceInstructions : Prop :=
  ∀ (s : State) (r : TaskRef) (c : Ctx), s.ctx r = some c → c.job.st = .running → guardOff c.task c.w = false → c.task.full = false → s.ops.any (fun k
    => k.unit == .maint) = false → c.task.gr (iGa c.w) / 2048 < s.part.dies → c.task.gr (iGa c.w) % 2048 < 1664 → s.online (c.task.gr (iGa c.w) / 2048)
    = true → s.tileInUse (c.task.gr (iGa c.w) / 2048) (c.task.gr (iGa c.w) % 2048) = false →
    (iOp c.w = 0x3C → c.w % 4 = 0 → s.rdb .CAL_CTRL_HOLD (c.task.gr (iGa c.w) / 2048) = false → s.tst (c.task.gr (iGa c.w) / 2048) (c.task.gr (iGa
      c.w) % 2048) = tsServing ∨ s.tst (c.task.gr (iGa c.w) / 2048) (c.task.gr (iGa c.w) % 2048) = tsHeld ∨ s.tst (c.task.gr (iGa c.w) / 2048)
      (c.task.gr (iGa c.w) % 2048) = tsStaged → ∃ x, Sys2Proof.Machine.exec (.cal r none) s = .next x ∧ x.taskOf r = some (c.retired s (c.ticketed false
      (iGb c.w))) ∧ ⟨c.task.gr (iGa c.w) / 2048, c.task.gr (iGa c.w) % 2048, false, 24, some (s.ax .opCount), s.now, []⟩ ∈ x.cals) ∧
    (iOp c.w = 0x3D ∧ iSub c.w = 0 → s.tst (c.task.gr (iGa c.w) / 2048) (c.task.gr (iGa c.w) % 2048) = tsFree ∨ s.tst (c.task.gr (iGa c.w) / 2048)
      (c.task.gr (iGa c.w) % 2048) = tsCleared ∨ s.tst (c.task.gr (iGa c.w) / 2048) (c.task.gr (iGa c.w) % 2048) = tsStaged → ∃ x,
      Sys2Proof.Machine.exec (.clear r none) s = .next x ∧ x.taskOf r = some (c.retired s (c.ticketed false (iGb c.w))) ∧ ∃ q ∈ x.progq, q.die =
      c.task.gr (iGa c.w) / 2048 ∧ q.tile = c.task.gr (iGa c.w) % 2048 ∧ q.what = .clear ∧ q.op = some (s.ax .opCount)) ∧
    (iOp c.w = 0x3D ∧ iSub c.w = 1 → s.tst (c.task.gr (iGa c.w) / 2048) (c.task.gr (iGa c.w) % 2048) = tsFree ∨ s.tst (c.task.gr (iGa c.w) / 2048)
      (c.task.gr (iGa c.w) % 2048) = tsCleared ∨ s.tst (c.task.gr (iGa c.w) / 2048) (c.task.gr (iGa c.w) % 2048) = tsStaged → s.placeOk (extPlace c.ext
      (c.task.gr (iGa c.w) / 2048) (c.task.gr (iGa c.w) % 2048)) = true → s.payloadShape c.job (c.task.tr (iTa c.w)).val = true → s.tdPoisoned c.job
      (c.task.tr (iTa c.w)).val = false → (s.payloadOf c.job (c.task.tr (iTa c.w)).val).all w8xOk = true → s.tst (c.task.gr (iGa c.w) / 2048) (c.task.gr
      (iGa c.w) % 2048) = tsCleared ∧ bit c.w 0 = false → ∃ x, Sys2Proof.Machine.exec (.prog r none) s = .next x ∧ x.taskOf r = some (c.retired s
      (c.ticketed false (iGb c.w))) ∧ ∃ q ∈ x.progq, q.die = c.task.gr (iGa c.w) / 2048 ∧ q.tile = c.task.gr (iGa c.w) % 2048 ∧ q.what = .prog ∧ q.place
      = extPlace c.ext (c.task.gr (iGa c.w) / 2048) (c.task.gr (iGa c.w) % 2048) ∧ q.op = some (s.ax .opCount)) ∧
    (iOp c.w = 0x3E → s.tst (c.task.gr (iGa c.w) / 2048) (c.task.gr (iGa c.w) % 2048) = tsFree ∨ s.tst (c.task.gr (iGa c.w) / 2048) (c.task.gr (iGa
      c.w) % 2048) = tsCleared ∨ s.tst (c.task.gr (iGa c.w) / 2048) (c.task.gr (iGa c.w) % 2048) = tsStaged ∨ s.tst (c.task.gr (iGa c.w) / 2048)
      (c.task.gr (iGa c.w) % 2048) = tsHeld → s.payloadShape c.job (c.task.tr (iTa c.w)).val = true → s.verifyDest c.job (c.task.tr (iTd c.w)).val =
      true → s.tdPoisoned c.job (c.task.tr (iTa c.w)).val = false → (s.payloadOf c.job (c.task.tr (iTa c.w)).val).all w8xOk = true → ∃ x,
      Sys2Proof.Machine.exec (.verify r none) s = .next x ∧ x.taskOf r = some (c.retired s (c.ticketed false (iGb c.w))) ∧ ∃ q ∈ x.progq, q.die =
      c.task.gr (iGa c.w) / 2048 ∧ q.tile = c.task.gr (iGa c.w) % 2048 ∧ q.what = .verify ∧ q.op = some (s.ax .opCount)) ∧
    (∀ (p : Placed), iOp c.w = 0x3F → s.tst (c.task.gr (iGa c.w) / 2048) (c.task.gr (iGa c.w) % 2048) = tsStaged → s.rdb .CAL_CTRL_HOLD (c.task.gr
      (iGa c.w) / 2048) = false → s.placeOf (c.task.gr (iGa c.w) / 2048) (c.task.gr (iGa c.w) % 2048) = some p → ((s.mapOf p.slot p.map).bind
      (·.handle)).isSome = true → ∃ x, Sys2Proof.Machine.exec (.refresh r none) s = .next x ∧ x.taskOf r = some (c.retired s (c.ticketed false (iGb
      c.w))) ∧ (x.refreshOf (c.task.gr (iGa c.w) / 2048) (c.task.gr (iGa c.w) % 2048)).isSome = true) ∧
    (∀ (m : Master), iOp c.w = 0x3C → masterRank m < masterRank .pf → ∃ x, Sys2Proof.Machine.exec (.cal r (some m)) s = .next x ∧
      x.rd .FLT_SUPCNT_COUNT = s.countUp .FLT_SUPCNT_COUNT ∧ x.progq = s.progq ∧ x.cals = s.cals) ∧
    (∀ (m : Master), iOp c.w = 0x3D ∧ iSub c.w = 1 → masterRank m < masterRank .pf → ∃ x, Sys2Proof.Machine.exec (.prog r (some m)) s = .next x ∧
      x.rd .FLT_SUPCNT_COUNT = s.countUp .FLT_SUPCNT_COUNT ∧ x.progq = s.progq ∧ x.cals = s.cals)

/-- Operations of the array, the DMA engines and VERIFY end, and the controls of the array (R235, R247, R272, R273, R278).
Each clause says that a command COMPLETES: for every state and all operands that meet its hypotheses, which speak of the
state and the operands alone, exec answers a next state, with the effect of the command that the clause gives. The clauses:
the last block of an operation of the array: its ticket is done; a block of an operation with more left: its cycles are
counted, and it has 256 fewer; an idle array takes the best operation that does not wait for an operand; the last descriptor
of a copy is done: its ticket is done; the last descriptor of a converting MOVT is done: the operation goes on to the array;
the end of a VERIFY of a maintenance instruction: its ticket is done; the end of a test of a SPARE tile that finds a cell off
its level: the tile is RETIRED; time that the array passes with work queued and none running is counted; DGA_CTRL.HOLD as it
stands: no effect; a change of DGA_CTRL.HOLD is taken, and is an expert write; DGA_CTRL.CLEAR zeroes the counters;
DGA_CTRL.HANDBACK: no hold, and the firmware. Readings and choices of the model that it rests on: log entries 21 and 107. -/
def Obligations.OperationsEnd : Prop :=
  ∀ (s : State),
    (∀ (d a b : Nat) (v : List Nat) (w : BlockInfo) (o : Op), s.online d = true → s.paused 0 d = false → (s.arrayOps d).any (fun o => o.running &&
      o.unit == .array && s.opRetrains o) = false → (s.arrayOps d).find? (·.running) = some o → o.left ≤ 256 → o.unit = .array → (s.job o.job).any
      (·.active) = true → ∃ x, Sys2Proof.Machine.exec (.arrayBlockEnd d a b v w) s = .next x ∧ ∀ t, x.taskOf { job := o.job, task := o.task } = some t →
      t.opened.contains o.ticket = false) ∧
    (∀ (d a b : Nat) (v : List Nat) (w : BlockInfo) (o : Op), s.online d = true → s.paused 0 d = false → (s.arrayOps d).any (fun o => o.running &&
      o.unit == .array && s.opRetrains o) = false → (s.arrayOps d).find? (·.running) = some o → 256 < o.left → ∃ x, Sys2Proof.Machine.exec
      (.arrayBlockEnd d a b v w) s = .next x ∧ x.rd .DGA_CYCLES_COUNT d = s.countUp .DGA_CYCLES_COUNT 256 d ∧ ∃ k ∈ x.ops, k.issue = o.issue ∧ k.left =
      o.left - 256) ∧
    (∀ (d a b : Nat) (v : List Nat) (w : BlockInfo) (o : Op), s.online d = true → s.paused 0 d = false → (s.arrayOps d).any (fun o => o.running &&
      o.unit == .array && s.opRetrains o) = false → (s.arrayOps d).find? (·.running) = none → s.rdb .DGA_CTRL_HOLD d = false → s.blockRuns d 1 = true →
      bestOp ((s.arrayOps d).filter (fun o => !(w.waiting.contains o.issue))) = some o → ∃ x, Sys2Proof.Machine.exec (.arrayBlockEnd d a b v w) s
      = .next x ∧ x.rd .DGA_STATUS_BUSY d = 1 ∧ ∃ k ∈ x.ops, k.issue = o.issue ∧ k.running = true) ∧
    (∀ (d i : Nat) (m : Found) (v : DmaRun) (o : Op), s.paused 0 d = false → s.dmaAt d i = some v → s.ops.find? (fun k => k.issue == v.issue && k.unit
      == .dma) = some o → s.opRetrains o = false → o.left = 0 → s.dmas.any (fun k => k.issue == v.issue && !(k.die == d && k.eng == i)) = false →
      o.converts = false → (s.job o.job).any (·.active) = true → ∃ x, Sys2Proof.Machine.exec (.dmaDescriptorDone ⟨d, i, m⟩) s = .next x ∧ ∀ t, x.taskOf
      { job := o.job, task := o.task } = some t → t.opened.contains o.ticket = false) ∧
    (∀ (d i : Nat) (m : Found) (v : DmaRun) (o : Op) (j : Job), s.paused 0 d = false → s.dmaAt d i = some v → s.ops.find? (fun k => k.issue == v.issue
      && k.unit == .dma) = some o → s.opRetrains o = false → o.left = 0 → s.dmas.any (fun k => k.issue == v.issue && !(k.die == d && k.eng == i)) =
      false → o.converts = true → ((s.dmaRelease d i).opReads o m).1 = false → ((s.dmaRelease d i).opReads o m).2.job o.job = some j → ((s.dmaRelease d
      i).opReads o m).2.tdPoisoned j o.ta = false → ((s.dmaRelease d i).opReads o m).2.scaleFault j o.ta = false → ∃ x, Sys2Proof.Machine.exec
      (.dmaDescriptorDone ⟨d, i, m⟩) s = .next x ∧ ∃ k ∈ x.ops, k.issue = o.issue ∧ k.unit = .array ∧ k.running = false) ∧
    (∀ (d e : Nat) (counts : List Nat) (q : PReq) (o : Op), s.runningReq d e (fun r => r.what == .verify && !r.clearFirst) = some q → q.kind ≠ 4 →
      q.op.bind (fun k => s.ops.find? (fun o => o.issue == k)) = some o → (s.job o.job).any (·.active) = true → ∃ x, Sys2Proof.Machine.exec
      (.verifyFinish d e counts) s = .next x ∧ ∀ t, x.taskOf { job := o.job, task := o.task } = some t → t.opened.contains o.ticket = false) ∧
    (∀ (d e : Nat) (counts : List Nat) (q : PReq), s.runningReq d e (fun r => r.what == .verify && !r.clearFirst) = some q → q.kind = 4 → counts.any
      (fun n => n != 0) = true → s.tst d q.tile = tsSpare → ∃ x, Sys2Proof.Machine.exec (.verifyFinish d e counts) s = .next x ∧ x.tst d q.tile =
      tsRetired) ∧
    (∀ (d a b : Nat) (v : List Nat) (w : BlockInfo), s.online d = true → s.paused 0 d = false → (s.arrayOps d).any (fun o => o.running && o.unit
      == .array && s.opRetrains o) = false → (s.arrayOps d).any (·.running) = false → (s.arrayOps d).isEmpty = false → ∃ x, Sys2Proof.Machine.exec
      (.arrayBlockEnd d a b v w) s = .next x ∧ x.rd .DGA_OPWAIT_COUNT d = s.countUp .DGA_OPWAIT_COUNT a d) ∧
    (∀ (d : Nat) (o : Order), s.dieWindow d = true → Alone o → o.w.v % 2 = s.rd .DGA_CTRL_HOLD d → ∃ x, Sys2Proof.Machine.exec (.dgaCtrlHoldWrite d o)
      s = .next x ∧ x = s) ∧
    (∀ (d : Nat) (o : Order), s.dieWindow d = true → d < s.part.dies → Alone o → o.w.v % 2 ≠ s.rd .DGA_CTRL_HOLD d → ∃ x, Sys2Proof.Machine.exec
      (.dgaCtrlHoldWrite d o) s = .next x ∧ x.rd .DGA_CTRL_HOLD d = o.w.v % 2 ∧ x.rd .DGA_STATUS_EXPERT d = 1) ∧
    (∀ (d : Nat) (o : Order), s.dieWindow d = true → d < s.part.dies → Alone o → o.w.v % 2 = 1 → ∃ x, Sys2Proof.Machine.exec (.dgaCtrlClear d o) s
      = .next x ∧ ∀ f ∈ dgaCounters, x.rd f d = 0) ∧
    (∀ (d : Nat) (o : Order), s.dieWindow d = true → d < s.part.dies → Alone o → o.w.v % 2 = 1 → ∃ x, Sys2Proof.Machine.exec (.dgaCtrlHandback d o) s
      = .next x ∧ x.rd .DGA_CTRL_HOLD d = 0 ∧ x.rd .DGA_STATUS_EXPERT d = 0)

/-- The firing strobe, with its content, and the end of its conversions (R109, R118, R122, R131, R163, R167, R168, R169,
R184). Each clause says that a command COMPLETES: for every state and all operands that meet its hypotheses, which speak of
the state and the operands alone, exec answers a next state, with the effect of the command that the clause gives. The
clauses: a strobe while a clock domain of the Yoke stands: no effect (which units stand with which domain is the model's
choice, log entry 131); a strobe while the Yoke is stopped fires nothing; a strobe with nothing to fire; a strobe with one
check stitch alone fires it; a strobe with one queued request alone, whose codes are loaded, fires it; the feeder of a tile
has loaded the codes of the first request that may fire on it, of bytes that can be read; the conversions of a forward, check
or other calibration stitch end: it leaves the tile, and its saturated codes are counted; the conversions of a reverse
stitch, or of a reverse period of a full calibration, end: it leaves the tile, and its saturated codes are counted. Readings
and choices of the model that it rests on: log entries 87, 88, 95, 121, 134 and 135. -/
def Obligations.Strobes : Prop :=
  ∀ (s : State),
    (s.paused 3 s.head = true ∨ s.paused 2 s.head = true → ∃ x, Sys2Proof.Machine.exec (.stitchStrobe) s = .next x ∧ x = s) ∧
    (s.paused 3 s.head = false → s.paused 2 s.head = false → s.stopped = true → ∃ x, Sys2Proof.Machine.exec (.stitchStrobe) s = .next x ∧
      x.rd .YOK_STATUS_FIRING = 0 ∧ x.rd .YOK_STITCHNO_COUNT = s.rd .YOK_STITCHNO_COUNT) ∧
    (s.paused 3 s.head = false → s.paused 2 s.head = false → s.stopped = false → s.reqs = [] → s.checks = [] → s.cals = [] → ∃ x,
      Sys2Proof.Machine.exec (.stitchStrobe) s = .next x ∧ x.rd .YOK_STATUS_FIRING = 0 ∧ x.ax .periods = s.ax .periods + 1 ∧ x.rd .YOK_STITCHNO_COUNT =
      s.rd .YOK_STITCHNO_COUNT) ∧
    (∀ (k : Check), s.paused 3 s.head = false → s.paused 2 s.head = false → s.stopped = false → s.reqs = [] → s.checks = [k] → s.cals = [] → k.fired =
      false → s.tileFires k.die k.tile = true → (s.tile k.die k.tile).flights.length < 2 → ∃ x, Sys2Proof.Machine.exec (.stitchStrobe) s = .next x ∧
      x.rd .YOK_STITCHNO_COUNT = (s.rd .YOK_STITCHNO_COUNT + 1) % 2 ^ 64 ∧ x.rd .YOK_LASTSTROBE_TIME = s.now % 2 ^ 64 ∧ x.rd .YOK_STATUS_FIRING = 1) ∧
    (∀ (r : Req) (a b : Nat), s.paused 3 s.head = false → s.paused 2 s.head = false → s.stopped = false → s.reqs = [r] → s.checks = [] → s.cals = [] →
      r.st = .queued → s.mayFire r = true → s.codesStand r r.next = true → ∀ p ∈ s.layerTiles r.slot r.layer, (s.tile p.die p.tile).flights.length < 2 →
      s.scalesOf r = .ok a b → ∃ x, Sys2Proof.Machine.exec (.stitchStrobe) s = .next x ∧ x.rd .YOK_STITCHNO_COUNT = (s.rd .YOK_STITCHNO_COUNT + 1) % 2 ^
      64 ∧ x.rd .YOK_LASTSTROBE_TIME = s.now % 2 ^ 64 ∧ x.rd .YOK_STATUS_FIRING = 1 ∧ ∃ q ∈ x.reqs, q.no = r.no ∧ q.st = .fired ∧ q.sin = a ∧ q.sout = b
      ∧ q.firedAt = x.rd .YOK_STITCHNO_COUNT) ∧
    (∀ (d t : Nat) (m : Found) (r : Req) (j : Job) (p : Placed), s.paused 2 d = false → (s.duePasses ++ s.queuedReqsInOrder.filter s.mayFire).find?
      (fun r => (s.reqTiles r).any (fun p => p.die == d && p.tile == t)) = some r → s.job r.job = some j → (s.reqTiles r).find? (fun p => p.die == d &&
      p.tile == t) = some p → s.retrains (r.feeds p).1 (r.feeds p).2 = false → (s.jobRead j m (r.feeds p).1 (r.feeds p).2).1 = none → ∃ x,
      Sys2Proof.Machine.exec (.feederLoadDone d ⟨t, m⟩) s = .next x ∧ (x.tile d t).shadow = some (shadowMark r.no r.next) ∧ (x.tile d t).shadowCodes =
      (s.jobRead j m (r.feeds p).1 (r.feeds p).2).2.codesFor r p r.next 0) ∧
    (∀ (d t : Nat) (out : ConvOut) (f : Flight) (k : List Flight), s.paused 3 d = false → (s.tile d t).flights = f :: k → revPeriod f.what f.sub =
      false → f.drop = false → ∃ x, Sys2Proof.Machine.exec (.conversionsEnd d t out) s = .next x ∧ (x.tile d t).flights = k ∧ x.rd .HEM_CSAT_COUNT d t =
      s.countUp .HEM_CSAT_COUNT ((match f.kept with | none => s | some k => s.putTables d t k).csat d t out.codes) d t) ∧
    (∀ (d t : Nat) (out : ConvOut) (f : Flight) (k : List Flight), s.paused 3 d = false → (s.tile d t).flights = f :: k → revPeriod f.what f.sub =
      true → f.drop = false → ∃ x, Sys2Proof.Machine.exec (.conversionsEnd d t out) s = .next x ∧ (x.tile d t).flights = k ∧ x.rd .HEM_RSAT_COUNT d t =
      s.countUp .HEM_RSAT_COUNT ((match f.kept with | none => s | some k => s.putTables d t k).rsat d t out.codes) d t)

/-- Followers of the firing sequence, and the seams (R165, R166, R176, R177, R178). Each clause names a command, the states
and operands that it speaks of, and what holds of the next state that the command then answers. The clauses: a period marker
of a follower: the markers missed before it are counted as lost; a skew within its limit is shown; a skew beyond its limit is
shown, and counts as a marker missed; four markers missed: the follower is off, and they are counted as lost; a follower that
was off has realigned; a seam whose interval is over falls due; a seam that is due and held off by nothing passes; a map
switch that is ready and held off by nothing takes effect; at the drain limit a map switch that is possible takes effect,
with no request of the slot partway (the model's choice, log entry 125). Readings and choices of the model that it rests on:
log entries 90 and 92. -/
def Obligations.FollowersAndSeams : Prop :=
  ∀ (s : State),
    (∀ (d : Nat), s.isFollower d = true → Does (.periodMarker d) s (fun x => x.ax .missed d = 0 ∧ x.ax .markerAt d = s.now + 1 ∧ x.rd .YOK_SKEW_LOSTS
      0 d = s.countUp .YOK_SKEW_LOSTS (s.ax .missed d - 1) 0 d)) ∧
    (∀ (d : Nat) (k : Int), s.isFollower d = true → -5000 ≤ k → k ≤ 5000 → Does (.skewRemeasure d k) s (fun x => x.rd .YOK_SKEW_SKEW 0 d = wrap 16 k ∧
      x.ax .missed d = s.ax .missed d)) ∧
    (∀ (d : Nat) (k : Int), s.isFollower d = true → k < -5000 ∨ 5000 < k → Does (.skewRemeasure d k) s (fun x => x.rd .YOK_SKEW_SKEW 0 d = wrap 16 k ∧
      x.ax .missed d = s.ax .missed d + 1)) ∧
    (∀ (d : Nat), s.isFollower d = true → 4 ≤ s.ax .missed d → bit (s.rd .YOK_STATUS_FOLLOWER_OFF) d = false → Does (.followerOff d) s (fun x => bit
      (x.rd .YOK_STATUS_FOLLOWER_OFF) d = true ∧ x.ax .missed d = 0 ∧ x.rd .YOK_SKEW_LOSTS 0 d = s.countUp .YOK_SKEW_LOSTS (s.ax .missed d) 0 d)) ∧
    (∀ (d : Nat), s.ax .realign d = 1 → bit (s.rd .YOK_STATUS_FOLLOWER_OFF) d = true → Does (.followerRealign d) s (fun x => bit
      (x.rd .YOK_STATUS_FOLLOWER_OFF) d = false ∧ x.ax .realign d = 0)) ∧
    (∀ (k : Nat), k < 64 → s.ax .periods - s.ax .seamAt 0 k ≥ s.rd .YOK_SEAM_INTERVAL → Does (.seamDue k) s (fun x => x.ax .seamDue 0 k = 1)) ∧
    (∀ (k : Nat), k < 64 → s.stopped = false → s.seamHeld k = false → s.ax .seamDue 0 k = 1 → Does (.seamPass k) s (fun x => x.ax .seamAt 0 k =
      s.ax .periods ∧ x.ax .seamDue 0 k = 0)) ∧
    (∀ (k : Nat), k < 64 → s.stopped = false → s.seamHeld k = false → s.switchReady k = true → Does (.seamPass k) s (fun x => x.activeMap k =
      s.ax .switchTarget 0 k - 1 ∧ x.ax .switchTarget 0 k = 0 ∧ x.ax .switches 0 k = s.ax .switches 0 k + 1 ∧ x.ax .seamAt 0 k = s.ax .periods)) ∧
    (∀ (k : Nat), k < 64 → s.stopped = false → s.reqs.any (fun r => r.slot == k && r.partway) = false → s.switchPossible k = true → s.ax .switchAt 0 k
      ≠ 0 → s.now ≥ s.ax .switchAt 0 k - 1 + s.rd .YOK_SEAM_SWITCH_MAX * 1000000 → Does (.mapSwitchDrainLimit k) s (fun x => x.activeMap k =
      s.ax .switchTarget 0 k - 1 ∧ x.ax .switchTarget 0 k = 0 ∧ x.ax .switches 0 k = s.ax .switches 0 k + 1 ∧ x.ax .seamAt 0 k = s.ax .periods))

/-- The registers of the Yoke, its role, and the accounting window (R161, R171, R179, R180, R184). Each clause names a
command, the states and operands that it speaks of, and what holds of the next state that the command then answers. The
clauses: a change of HOLD_ALL is taken, and is an expert write; a change of SPLIT_EN is taken, and is an expert write;
YOK_CTRL.CLEAR zeroes the counters; YOK_CTRL.HANDBACK: the reset settings, and the firmware; YOK_PERIOD within its range is
taken; YOK_PERIOD outside its range is refused; a change of YOK_THROTTLE is taken, and is an expert write; the move of the
role ends: firing goes on; the accounting window ends: the firings of every function count from 0. Readings and choices of
the model that it rests on: log entry 19. -/
def Obligations.YokeControls : Prop :=
  ∀ (s : State),
    (∀ (o : Order), Alone o → o.w.v % 2 ≠ s.rd .YOK_CTRL_HOLD_ALL → Does (.yokCtrlHoldAllWrite o) s (fun x => x.rd .YOK_CTRL_HOLD_ALL = o.w.v % 2 ∧
      x.rd .YOK_STATUS_EXPERT = 1)) ∧
    (∀ (o : Order), Alone o → o.w.v % 2 ≠ s.rd .YOK_CTRL_SPLIT_EN → Does (.yokCtrlSplitEnWrite o) s (fun x => x.rd .YOK_CTRL_SPLIT_EN = o.w.v % 2 ∧
      x.rd .YOK_STATUS_EXPERT = 1)) ∧
    (∀ (o : Order), Alone o → o.w.v % 2 = 1 → Does (.yokCtrlClear o) s (fun x => (∀ f ∈ yokCounters, x.rd f = 0) ∧ ∀ c, c < 4 → x.rd .YOK_MISS_COUNT 0
      c = 0)) ∧
    (∀ (o : Order), Alone o → o.w.v % 2 = 1 → Does (.yokCtrlHandback o) s (fun x => x.rd .YOK_CTRL_HOLD_ALL = 0 ∧ x.rd .YOK_CTRL_SPLIT_EN = 1 ∧
      x.rd .YOK_SETTLE_MAX = 4096 ∧ x.rd .YOK_IBUDGET_BUDGET = 1920 ∧ x.rd .YOK_STATUS_EXPERT = 0)) ∧
    (∀ (o : Order), Alone o → 400 ≤ o.w.v % 4096 → o.w.v % 4096 ≤ 3200 → Does (.yokPeriodWrite o) s (fun x => x.rd .YOK_PERIOD_TICKS = o.w.v % 4096))
      ∧
    (∀ (o : Order), Alone o → o.w.v % 4096 < 400 ∨ 3200 < o.w.v % 4096 → Does (.yokPeriodWrite o) s (fun x => x.rd .YOK_PERIOD_TICKS =
      s.rd .YOK_PERIOD_TICKS ∧ x.rd .YOK_STATUS_REFUSED = 1)) ∧
    (∀ (o : Order), Alone o → o.w.v % 65536 ≠ s.rd .YOK_THROTTLE_TICKS → Does (.yokThrottleWrite o) s (fun x => x.rd .YOK_THROTTLE_TICKS = o.w.v %
      65536 ∧ x.rd .YOK_STATUS_EXPERT = 1)) ∧
    (s.rdb .YOK_STATUS_MOVING = true → Does (.yokeRoleMoveEnd) s (fun x => x.rd .YOK_STATUS_MOVING = 0)) ∧
    (Does (.accountingWindowEnd) s (fun x => ∀ f, f < 128 → x.ax .firings f 0 0 = 0 ∧ x.ax .firings f 0 1 = 0 ∧ x.ax .rtOld f = 0))

/-- Owners of banks, hand-over, zeroing, diagnostic read and scrub (R366, R367, R368, R371, R372, R374). Each clause names a
command, the states and operands that it speaks of, and what holds of the next state that the command then answers. The
clauses: BNK_OWNER with a legal kind: the owner asked for is taken; BNK_OWNER with another kind is refused; the hand-over of
a bank that needs no zeroing; the hand-over of a bank that needs zeroing begins the zeroing; the end of zeroing: every byte
of the bank is 0; BNK_CTRL.CLEAR zeroes the counters; BNK_CTRL.HANDBACK returns the banks to the firmware; BNK_DIAG.GO,
without a collision and of a granule that is sound, reads its data and its check byte; a scrub that finds one granule with a
double-bit error, not poisoned yet. Readings and choices of the model that it rests on: log entries 83 and 138. -/
def Obligations.Banks : Prop :=
  ∀ (s : State) (d : Nat),
    (∀ (b : Nat) (o : Order), s.isBank d b = true → Alone o → o.w.v / 256 % 8 < 6 → Does (.bnkOwnerWrite d b o) s (fun x => x.rd .BNK_OWNER_KIND d b =
      o.w.v / 256 % 8 ∧ x.rd .BNK_OWNER_ID d b = o.w.v % 256)) ∧
    (∀ (b : Nat) (o : Order), s.isBank d b = true → Alone o → 6 ≤ o.w.v / 256 % 8 → Does (.bnkOwnerWrite d b o) s (fun x => x.rd .BNK_STAT_REFUSED d =
      1 ∧ x.rd .BNK_OWNER_KIND d b = s.rd .BNK_OWNER_KIND d b)) ∧
    (∀ (b : Nat), s.isBank d b = true → s.rdb .BNK_OWNER_PEND d b = true → s.rdb .BNK_OWNER_ZEROING d b = false → s.zeroes d b ((s.ax .bankTarget d b
      - 1) / 256) ((s.ax .bankTarget d b - 1) % 256) = false → Does (.bankHandover d b) s (fun x => x.rd .BNK_OWNER_CUR_KIND d b = (s.ax .bankTarget d b
      - 1) / 256 % 8 ∧ x.rd .BNK_OWNER_CUR_ID d b = (s.ax .bankTarget d b - 1) % 256 ∧ x.rd .BNK_OWNER_PEND d b = 0)) ∧
    (∀ (b : Nat), s.isBank d b = true → s.rdb .BNK_OWNER_PEND d b = true → s.rdb .BNK_OWNER_ZEROING d b = false → s.zeroes d b ((s.ax .bankTarget d b
      - 1) / 256) ((s.ax .bankTarget d b - 1) % 256) = true → Does (.bankHandover d b) s (fun x => x.rd .BNK_OWNER_ZEROING d b = 1 ∧
      x.rd .BNK_OWNER_CUR_KIND d b = s.rd .BNK_OWNER_CUR_KIND d b)) ∧
    (∀ (b : Nat), s.paused 0 d = false → s.rdb .BNK_OWNER_ZEROING d b = true → s.ax .bankZeroEnd d b ≤ s.dt + 1 → Does (.bankZeroingEnd d b) s (fun x
      => x.rd .BNK_OWNER_ZEROING d b = 0 ∧ ∀ k, k < 0x80000 → x.byte (bankAddr d (b * 0x80000) + k) = 0)) ∧
    (∀ (o : Order), s.dieWindow d = true → Alone o → o.w.v % 2 = 1 → Does (.bnkCtrlClear d o) s (fun x => x.rd .BNK_COLLIDE_COUNT d = 0 ∧
      x.rd .BNK_DENIED_COUNT d = 0 ∧ x.rd .BNK_HANDOVERS_COUNT d = 0 ∧ x.rd .BNK_ECC_CORR_COUNT d = 0 ∧ x.rd .BNK_ECC_UNCORR_COUNT d = 0)) ∧
    (∀ (o : Order), s.dieWindow d = true → Alone o → o.w.v % 2 = 1 → Does (.bnkCtrlHandback d o) s (fun x => x.rd .BNK_STAT_EXPERT d = 0)) ∧
    (∀ (o : Order), s.dieWindow d = true → Alone o → o.w.v % 2 = 1 → s.poison.get false (bankAddr d (s.rd .BNK_DIAG_OFFSET d / 8 * 8)) = false →
      s.rd .BNK_DIAG_OFFSET d / 8 * 8 < bankBytes → Does (.bnkDiagGo d false o) s (fun x => x.rd .BNK_DIAGDATA_DATA d = s.load (bankAddr d
      (s.rd .BNK_DIAG_OFFSET d / 8 * 8)) 8 ∧ x.rd .BNK_DIAGCHK_CHECK d = checkByte (s.load (bankAddr d (s.rd .BNK_DIAG_OFFSET d / 8 * 8)) 8) ∧
      x.rd .BNK_DIAG_BUSY d = 0)) ∧
    (∀ (n q : Nat), s.online d = true → s.rd .BNK_SCRUB_HOURS d ≠ 0 → q < bankBytes → s.poison.get false (bankAddr d (q / 8 * 8)) = false → Does
      (.bankScrub d n [q]) s (fun x => x.rd .BNK_ECC_CORR_COUNT d = s.countUp .BNK_ECC_CORR_COUNT n d ∧ x.rd .BNK_ECC_UNCORR_COUNT d =
      s.countUp .BNK_ECC_UNCORR_COUNT 1 d ∧ x.poison.get false (bankAddr d (q / 8 * 8)) = true))

/-- LPDDR5X: scrub, retraining and the MEM registers (R376, R379, R381, R382). Each clause names a command, the states and
operands that it speaks of, and what holds of the next state that the command then answers. The clauses: a patrol scrub of a
block that is sound; a patrol scrub of a block with errors that are corrected stores the data and counts; a patrol scrub of a
block with errors that are not poisons it and counts; drift beyond the limit: the channel retrains; a retraining succeeds:
the channel is up; a third failed training in a row: the channel has failed, and the die goes offline; MEM_CTRL.RETRAIN while
none is under way: every channel that is up retrains, and RETRAIN reads 1 meanwhile; an expert write; MEM_CTRL.RETRAIN while
one is under way: no effect; the last channel that retrains is over: RETRAIN reads 0; MEM_CTRL.CLEAR zeroes the counters;
MEM_CTRL.HANDBACK returns the memory to the firmware; MEM_CFG with a legal rate is taken, and kept for the next start;
MEM_CFG with another rate is refused. Readings and choices of the model that it rests on: log entry 111. -/
def Obligations.MemoryChannels : Prop :=
  ∀ (s : State) (d : Nat),
    (∀ (q : Nat) (b : List Flip), s.online d = true → s.rd .MEM_SCRUB_HOURS d ≠ 0 → s.rd .MEM_STAT_IECC_ON d = 1 → q < s.installed d → s.poison.get
      false (lpddrAddr d (q / 64 * 64)) = false → rsRead (chanAddr (q / 64 * 64)) (s.rawBlock d (q / 64 * 64) b) = .clean → Does (.lpddrPatrolScrub d
      [q] b) s (fun x => x = s)) ∧
    (∀ (q : Nat) (b : List Flip) (l : List Byte), s.online d = true → s.rd .MEM_SCRUB_HOURS d ≠ 0 → s.rd .MEM_STAT_IECC_ON d = 1 → q < s.installed d →
      s.poison.get false (lpddrAddr d (q / 64 * 64)) = false → rsRead (chanAddr (q / 64 * 64)) (s.rawBlock d (q / 64 * 64) b) = .corrected l → Does
      (.lpddrPatrolScrub d [q] b) s (fun x => x.rd .MEM_CORR_COUNT d = s.countUp .MEM_CORR_COUNT 1 d ∧ x.load (lpddrAddr d (q / 64 * 64)) 64 = ofLe l %
      2 ^ 512)) ∧
    (∀ (q : Nat) (b : List Flip), s.online d = true → s.rd .MEM_SCRUB_HOURS d ≠ 0 → s.rd .MEM_STAT_IECC_ON d = 1 → q < s.installed d → s.poison.get
      false (lpddrAddr d (q / 64 * 64)) = false → rsRead (chanAddr (q / 64 * 64)) (s.rawBlock d (q / 64 * 64) b) = .uncorrectable → Does
      (.lpddrPatrolScrub d [q] b) s (fun x => x.rd .MEM_UNCORR_COUNT d = s.countUp .MEM_UNCORR_COUNT 1 d ∧ x.rd .MEM_UNCORR_ADDR_OFFSET d = q / 64 * 64
      % 2 ^ Field.width .MEM_UNCORR_ADDR_OFFSET ∧ x.poison.get false (lpddrAddr d (q / 64 * 64)) = true)) ∧
    (∀ (h : Nat), s.online d = true → h < 4 → s.rd .MEM_CH_STATE d h = 1 → Does (.wck2dqDrift d h) s (fun x => x.rd .MEM_CH_STATE d h = 2 ∧
      x.rd .MEM_RETRAIN_COUNT d = s.countUp .MEM_RETRAIN_COUNT 1 d)) ∧
    (∀ (h q : Nat), h < 4 → s.paused 4 d = false → s.rd .MEM_CH_STATE d h = 2 → Does (.retrainEnd d h ⟨true, q⟩) s (fun x => x.rd .MEM_CH_STATE d h =
      1 ∧ x.rd .MEM_CH_FAILS d h = 0 ∧ bit (x.rd .MEM_STAT_TRAINED d) h = true ∧ x.rd .MEM_CH_REFRATE d h = q % 2 ^ Field.width .MEM_CH_REFRATE)) ∧
    (∀ (h q : Nat), h < 4 → s.paused 4 d = false → s.rd .MEM_CH_STATE d h = 2 → s.rd .MEM_CH_FAILS d h = 2 → s.online d = true → Does (.retrainEnd d h
      ⟨false, q⟩) s (fun x => x.rd .MEM_CH_STATE d h = 3 ∧ x.online d = false ∧ bit (x.rd .MEM_STAT_TRAINED d) h = false)) ∧
    (∀ (o : Order), s.dieWindow d = true → Alone o → o.w.v % 2 = 1 → s.rd .MEM_CTRL_RETRAIN d = 0 → Does (.memCtrlRetrain d o) s (fun x =>
      x.rd .MEM_CTRL_RETRAIN d = b2n ((List.range 4).any (fun h => s.rd .MEM_CH_STATE d h == 1)) ∧ x.rd .MEM_STAT_EXPERT d = 1 ∧ ∀ h, h < 4 →
      s.rd .MEM_CH_STATE d h = 1 → x.rd .MEM_CH_STATE d h = 2)) ∧
    (∀ (o : Order), s.dieWindow d = true → Alone o → s.rd .MEM_CTRL_RETRAIN d = 1 → Does (.memCtrlRetrain d o) s (fun x => x = s)) ∧
    (∀ (h q : Nat) (b : Bool), h < 4 → s.paused 4 d = false → s.rd .MEM_CH_STATE d h = 2 → (List.range 4).all (fun k => s.rd .MEM_CH_STATE d k != 2 ||
      k == h) = true → b = true ∨ s.rd .MEM_CH_FAILS d h = 2 → Does (.retrainEnd d h ⟨b, q⟩) s (fun x => x.rd .MEM_CTRL_RETRAIN d = 0)) ∧
    (∀ (o : Order), s.dieWindow d = true → Alone o → o.w.v % 2 = 1 → Does (.memCtrlClear d o) s (fun x => x.rd .MEM_CORR_COUNT d = 0 ∧
      x.rd .MEM_UNCORR_COUNT d = 0 ∧ x.rd .MEM_RETRAIN_COUNT d = 0 ∧ x.rd .MEM_LECC_COUNT d = 0)) ∧
    (∀ (o : Order), s.dieWindow d = true → Alone o → o.w.v % 2 = 1 → Does (.memCtrlHandback d o) s (fun x => x.rd .MEM_STAT_EXPERT d = 0)) ∧
    (∀ (o : Order), s.dieWindow d = true → Alone o → o.w.v % 4 ≠ 3 → Does (.memCfgWrite d o) s (fun x => x.rd .MEM_CFG_RATE d = o.w.v % 4 ∧
      x.rd .MEM_CFG_LECC d = o.w.v / 4 % 2 ∧ x.rd .MEM_CFG_IECC d = o.w.v / 8 % 2 ∧ x.ax .nvMem d = 1 + o.w.v % 16)) ∧
    (∀ (o : Order), s.dieWindow d = true → Alone o → o.w.v % 4 = 3 → Does (.memCfgWrite d o) s (fun x => x.rd .MEM_STAT_REFUSED d = 1 ∧
      x.rd .MEM_CFG_RATE d = s.rd .MEM_CFG_RATE d))

/-- The Pocket: PKT_DATA, passwords, and the commands of the host (R488, R491, R497, R498, R499, R500, R501, R502). Each
clause names a command, the states and operands that it speaks of, and what holds of the next state that the command then
answers. The clauses: a read of PKT_DATA from a user page that is open returns its word; a write of PKT_DATA to a page that
is open stores the word, and the address goes on; a write of PKT_DATA to a page that is not open is refused, and counted; the
right password opens the area, in mode PASSWORD with fewer than eight wrong ones; a wrong password opens nothing, and is
counted; PKT_UNLOCKSEL.RELOCK closes every area that has a password; CHN_CFG.PEC is taken; POCKET_READ of pages that are open
completes; POCKET_WRITE of pages that are open writes them; POCKET_ERASE of pages that are open fills them; POCKET_ERASE
whose first page is not open is refused, and changes nothing; POCKET_PROTECT sets the mode while it is UNSET; POCKET_PROTECT
locks a user page in mode LOCK. Readings and choices of the model that it rests on: log entry 75. -/
def Obligations.PocketAccess : Prop :=
  ∀ (s : State),
    ((s.rd .PKT_ADDR_DIE) < s.part.dies → 32 ≤ (s.rd .PKT_ADDR_PAGE) → (s.rd .PKT_ADDR_PAGE) < 128 → s.pktRdOpen (s.rd .PKT_ADDR_PAGE) = true → Does
      (.pktDataAccess (.read .pf)) s (fun x => x.outbox = s.outbox ++ [.readData .pf (regAddr .PKT_DATA) 4 (s.pktNum (s.rd .PKT_ADDR_DIE)
      (s.rd .PKT_ADDR_PAGE) (4 * (s.rd .PKT_ADDR_WORD)) 4)])) ∧
    (∀ (o : Order), Alone o → (s.rd .PKT_ADDR_DIE) < s.part.dies → (s.rd .PKT_ADDR_PAGE) < 128 → (s.rd .PKT_ADDR_WORD) < 1024 → s.rd .PKT_ADDR_AUTOINC
      ≤ 1 → s.pktWrOpen (s.rd .PKT_ADDR_DIE) (s.rd .PKT_ADDR_PAGE) = true → Does (.pktDataAccess (.write o)) s (fun x => x.pktNum (s.rd .PKT_ADDR_DIE)
      (s.rd .PKT_ADDR_PAGE) (4 * (s.rd .PKT_ADDR_WORD)) 4 = o.w.v % 2 ^ 32 ∧ x.rd .PKT_ADDR_WORD = (s.rd .PKT_ADDR_WORD + s.rd .PKT_ADDR_AUTOINC) %
      1024)) ∧
    (∀ (o : Order), Alone o → (s.rd .PKT_ADDR_DIE) < s.part.dies → (s.rd .PKT_ADDR_PAGE) < 128 → (s.rd .PKT_ADDR_WORD) < 1024 → s.pktWrOpen
      (s.rd .PKT_ADDR_DIE) (s.rd .PKT_ADDR_PAGE) = false → Does (.pktDataAccess (.write o)) s (fun x => x.pocket = s.pocket ∧ x.rd .PKT_STAT_REFUSED = 1
      ∧ x.rd .PKT_STAT_DENIED = s.countUp .PKT_STAT_DENIED)) ∧
    (∀ (o : Order), Alone o → s.rd .PKT_STAT_MODE = 1 → s.ax .pktWrong (s.rd .PKT_UNLOCKSEL_AREA) (s.rd .PKT_UNLOCKSEL_KIND) < 8 → o.w.v =
      s.ax .pktPass (s.rd .PKT_UNLOCKSEL_AREA) (s.rd .PKT_UNLOCKSEL_KIND) → Does (.pktUnlockWrite true o) s (fun x => x.ax .pktOpen
      (s.rd .PKT_UNLOCKSEL_AREA) (s.rd .PKT_UNLOCKSEL_KIND) = 1 ∧ x.ax .pktWrong (s.rd .PKT_UNLOCKSEL_AREA) (s.rd .PKT_UNLOCKSEL_KIND) = 0)) ∧
    (∀ (o : Order), Alone o → s.rd .PKT_STAT_MODE = 1 → s.ax .pktWrong (s.rd .PKT_UNLOCKSEL_AREA) (s.rd .PKT_UNLOCKSEL_KIND) < 8 → o.w.v ≠
      s.ax .pktPass (s.rd .PKT_UNLOCKSEL_AREA) (s.rd .PKT_UNLOCKSEL_KIND) → Does (.pktUnlockWrite true o) s (fun x => x.ax .pktOpen
      (s.rd .PKT_UNLOCKSEL_AREA) (s.rd .PKT_UNLOCKSEL_KIND) = s.ax .pktOpen (s.rd .PKT_UNLOCKSEL_AREA) (s.rd .PKT_UNLOCKSEL_KIND) ∧ x.ax .pktWrong
      (s.rd .PKT_UNLOCKSEL_AREA) (s.rd .PKT_UNLOCKSEL_KIND) = s.ax .pktWrong (s.rd .PKT_UNLOCKSEL_AREA) (s.rd .PKT_UNLOCKSEL_KIND) + 1)) ∧
    (∀ (o : Order), Alone o → o.w.v % 2 = 1 → Does (.pktUnlockselRelock o) s (fun x => ∀ r, r < 12 → ∀ k, k < 2 → s.ax .pktPass r k ≠ 0 →
      x.ax .pktOpen r k = 0)) ∧
    (∀ (o : Order), Alone o → Does (.chnCfgPecWrite o) s (fun x => x.rd .CHN_CFG_PEC = o.w.v % 2)) ∧
    (∀ (id : Nat) (c : Cmd), s.readyCmd id 0x50 = some c → s.pktSpan (s.started c) = true → (s.started c).pages.all (fun e => s.pktRdOpen e.1) = true
      → Does (.pocketRead id) s (fun x => Completed (s.started c) stOK 0 s x)) ∧
    (∀ (id : Nat) (l : List Byte) (c : Cmd), s.readyCmd id 0x51 = some c → s.pktSpan (s.started c) = true → (s.started c).pages.all (fun e =>
      s.pktWrOpen ((s.started c).b 16 1) e.1) = true → Does (.pocketWrite id (.ok l)) s (fun x => Completed (s.started c) stOK 0 s x ∧ ∀ i, i <
      (s.started c).b 18 1 → ∀ k, k < 4096 → x.pkt ((s.started c).b 16 1) ((s.started c).b 17 1 + i) k = l.getD (4096 * i + k) 0)) ∧
    (∀ (id : Nat) (c : Cmd), s.readyCmd id 0x52 = some c → s.pktSpan (s.started c) = true → (s.started c).pages.all (fun e => s.pktWrOpen ((s.started
      c).b 16 1) e.1) = true → Does (.pocketErase id) s (fun x => Completed (s.started c) stOK ((s.started c).b 18 1) s x ∧ ∀ i, i < (s.started c).b 18
      1 → ∀ k, k < 4096 → x.pkt ((s.started c).b 16 1) ((s.started c).b 17 1 + i) k = BitVec.ofNat 8 ((s.started c).b 19 1))) ∧
    (∀ (id : Nat) (c : Cmd), s.readyCmd id 0x52 = some c → s.pktSpan (s.started c) = true → s.pktWrOpen ((s.started c).b 16 1) ((s.started c).b 17 1)
      = false → Does (.pocketErase id) s (fun x => Completed (s.started c) stRejectedPrivilege 0 s x ∧ x.pocket = s.pocket)) ∧
    (∀ (id : Nat) (c : Cmd), s.readyCmd id 0x53 = some c → (s.started c).b 16 1 = 0 → s.rd .PKT_STAT_MODE = 0 → 1 ≤ (s.started c).b 17 1 → (s.started
      c).b 17 1 ≤ 2 → Does (.pocketProtect id) s (fun x => Completed (s.started c) stOK 0 s x ∧ x.rd .PKT_STAT_MODE = (s.started c).b 17 1)) ∧
    (∀ (id : Nat) (c : Cmd), s.readyCmd id 0x53 = some c → (s.started c).b 16 1 = 2 → s.rd .PKT_STAT_MODE = 2 → (s.started c).b 17 1 < s.part.dies →
      32 ≤ (s.started c).b 18 1 → (s.started c).b 18 1 < 128 → Does (.pocketProtect id) s (fun x => Completed (s.started c) stOK 0 s x ∧ x.pageLocked
      ((s.started c).b 17 1) ((s.started c).b 18 1) = true))

/-- The start-up, its failures, and minimal mode's retry (R479, R480, R482, R483, R426). Each clause names a command, the
states and operands that it speaks of, and what holds of the next state that the command then answers. The clauses: power
good: step 1 is done, a cold start; step 2 with the crystal ready; step 3, or step 10; step 5 with a verified image: the slot
that it came from is reported; step 6 with the crystal ready: every PLL of every die is locked; step 7: every channel of
every die is trained; step 7 fails: the failure is reported, and the step is not done; step 11: the fabric is ready, and no
failure is reported; 20 s without fabric ready: failure 7 is reported and kept; START_RETRY in minimal mode completes, and
the start begins again; START_RETRY outside minimal mode: MALFORMED; the watchdog of an online die after the start: the die
goes offline with cause WATCHDOG; the watchdog during the start: failure 7. Readings and choices of the model that it rests
on: log entries 70, 71 and 126. -/
def Obligations.StartUp : Prop :=
  ∀ (s : State),
    (s.ax .startMask = 0 → s.rd .START_REPORT_STATE = 0 → s.ax .saveWait = 0 → Does (.powerGood) s (fun x => x.stepDone 1 = true ∧ x.ax .startAt =
      s.now + 1 ∧ x.ax .coldPower = 1)) ∧
    (∀ (i : StepInfo), s.ax .retryAt = 0 → s.rd .START_REPORT_STATE = 0 → s.ax .perst = 0 → s.stepDone 2 = false → (stepNeeds 2).all s.stepDone = true
      → s.rdb .CLK_STAT_XTAL_READY = true → Does (.startUpStepDone 2 i) s (fun x => x.stepDone 2 = true ∧ x.rd .CLK_STAT_MGMT_ON_RC = 0)) ∧
    (∀ (k : Nat) (i : StepInfo), k = 3 ∨ k = 10 → s.ax .retryAt = 0 → s.rd .START_REPORT_STATE = 0 → s.ax .perst = 0 → s.stepDone k = false →
      (stepNeeds k).all s.stepDone = true → Does (.startUpStepDone k i) s (fun x => x.stepDone k = true)) ∧
    (∀ (i : StepInfo), s.ax .retryAt = 0 → s.rd .START_REPORT_STATE = 0 → s.ax .perst = 0 → s.stepDone 5 = false → (stepNeeds 5).all s.stepDone = true
      → i.ok = true → Does (.startUpStepDone 5 i) s (fun x => x.stepDone 5 = true ∧ x.rd .START_REPORT_FW_SLOT = (if s.ax .fwForce = 1 ∨ i.fw ≠ 0 then 1
      else 0))) ∧
    (∀ (i : StepInfo), s.ax .retryAt = 0 → s.rd .START_REPORT_STATE = 0 → s.ax .perst = 0 → s.stepDone 6 = false → (stepNeeds 6).all s.stepDone = true
      → i.ok = true → s.rdb .CLK_STAT_XTAL_READY = true → Does (.startUpStepDone 6 i) s (fun x => x.stepDone 6 = true ∧ ∀ p, p < 5 → ∀ d, d <
      s.part.dies → bit (x.rd .CLK_LOCK_LOCK 0 d) p = true)) ∧
    (∀ (i : StepInfo), s.ax .retryAt = 0 → s.rd .START_REPORT_STATE = 0 → s.ax .perst = 0 → s.stepDone 7 = false → (stepNeeds 7).all s.stepDone = true
      → i.ok = true → Does (.startUpStepDone 7 i) s (fun x => x.stepDone 7 = true ∧ ∀ d, d < s.part.dies → x.rd .MEM_STAT_TRAINED d = 15 ∧ ∀ h, h < 4 →
      x.rd .MEM_CH_STATE d h = 1)) ∧
    (∀ (i : StepInfo), s.ax .retryAt = 0 → s.rd .START_REPORT_STATE = 0 → s.ax .perst = 0 → s.stepDone 7 = false → (stepNeeds 7).all s.stepDone = true
      → i.ok = false → Does (.startUpStepDone 7 i) s (fun x => x.rd .START_REPORT_LAST = 2 ∧ x.rd .START_REPORT_STEP = 2 ∧ x.stepDone 7 = false)) ∧
    (∀ (i : StepInfo), s.ax .retryAt = 0 → s.rd .START_REPORT_STATE = 0 → s.ax .perst = 0 → s.stepDone 11 = false → (stepNeeds 11).all s.stepDone =
      true → Does (.startUpStepDone 11 i) s (fun x => x.stepDone 11 = true ∧ x.rd .START_REPORT_STATE = 1 ∧ x.ax .nvFails = 0 ∧ x.rd .START_REPORT_FAILS
      = 0)) ∧
    (s.ax .startAt ≠ 0 → s.rd .START_REPORT_STATE = 0 → s.ax .startAt - 1 + 20000000000 ≤ s.now → Does (.startTimeout) s (fun x =>
      x.rd .START_REPORT_LAST = 7 ∧ x.rd .START_REPORT_STEP = 2 ∧ x.ax .nvLast = 7)) ∧
    (∀ (id : Nat) (c : Cmd), s.readyCmd id opStartRetry = some c → s.rd .START_REPORT_STATE = 2 → Does (.startRetry id) s (fun x => Completed
      (s.started c) stOK 0 s x ∧ x.ax .nvFails = 0 ∧ x.ax .retryAt = s.now + 1)) ∧
    (∀ (id : Nat) (c : Cmd), s.readyCmd id opStartRetry = some c → s.rd .START_REPORT_STATE ≠ 2 → Does (.startRetry id) s (fun x => Completed
      (s.started c) stMalformed 0 s x)) ∧
    (∀ (d : Nat), s.rd .START_REPORT_STATE ≠ 0 → s.online d = true → Does (.mgmtWatchdogMiss d) s (fun x => x.online d = false ∧ x.rd .FLT_DIE_CAUSE 0
      d = 4)) ∧
    (∀ (d : Nat), s.rd .START_REPORT_STATE = 0 → s.stepDone 1 = true → Does (.mgmtWatchdogMiss d) s (fun x => x.rd .START_REPORT_LAST = 7))

/-- PERST_N, power failure, rail dips and the first enable of the ring (R413, R484, R485, R493, R495, R521). Each clause
names a command, the states and operands that it speaks of, and what holds of the next state that the command then answers.
The clauses: PERST_N is asserted: the safe state, and no jobs; PERST_N is released: the start begins after step 2, with no
jobs and no commands; the power-fail trip: the safe state, no jobs, and the save; the restart after the save: step 1 is done,
a cold start, and the Pocket is as it was; a rail dips: the safe state; the rail is back and no clock is lost: the safe state
ends; EVR_CTRL.ENABLE with a legal reserve, on a ring that is not enabled. Readings and choices of the model that it rests
on: log entries 68, 69 and 73. -/
def Obligations.ResetsAndPowerLoss : Prop :=
  ∀ (s : State),
    (s.stepDone 1 = true → s.ax .perst = 0 → Does (.perstNAssert) s (fun x => x.rd .CLK_STAT_SAFE = 1 ∧ x.ax .perst = 1 ∧ x.jobs = [])) ∧
    (s.ax .perst = 1 → Does (.perstNRelease) s (fun x => x.rd .START_REPORT_STATE = 0 ∧ x.ax .startMask = 6 ∧ x.ax .perst = 0 ∧ x.jobs = [] ∧ x.cmds =
      [])) ∧
    (∀ (b : Bool), s.ax .saveWait = 0 → Does (.powerFailTrip b) s (fun x => x.rd .CLK_STAT_SAFE = 1 ∧ x.ax .saveWait = 1 ∧ x.jobs = [])) ∧
    (s.ax .saveWait = 1 → Does (.saveRestart) s (fun x => x.stepDone 1 = true ∧ x.ax .coldPower = 1 ∧ x.ax .saveWait = 0 ∧ x.pocket = s.pocket)) ∧
    (s.ax .saveWait = 0 → s.ax .railWait = 0 → Does (.railDip) s (fun x => x.rd .CLK_STAT_SAFE = 1 ∧ x.ax .railWait = 1)) ∧
    (s.ax .railWait = 1 → s.ax .lossAt = 0 → Does (.railRecovered) s (fun x => x.rd .CLK_STAT_SAFE = 0 ∧ x.ax .railWait = 0)) ∧
    (∀ (f : Nat) (o : Order), Alone o → f < 128 → 2 ≤ o.w.v → o.w.v ≤ 2 ^ s.rd .EVR_BASE_LOG2 f / 2 → s.standby f = false → s.rd .EVR_CTRL_ENABLE f =
      0 → Does (.evrCtrlEnable f o) s (fun x => x.rd .EVR_CTRL_ENABLE f = 1 ∧ x.rd .EVR_CTRL_RESERVE f = o.w.v % 2 ^ Field.width .EVR_CTRL_RESERVE))

/-- What a write access of a register does, alone and with others in the same cycle (R6, R7, R11, R12, R430, R431, R433).
Each clause names a command, the states and operands that it speaks of, and what holds of the next state that the command
then answers. The clauses: a 32-bit write of a 32-bit register, alone; a 32-bit write of the low word of a 64-bit register,
alone, is held; a 64-bit write of a 64-bit register, alone; a write narrower than 32 bits, alone, has no effect; the high
word of CLK_DTSET after its low word; PWR_PKG_BUDGET takes its value; a contrary write of a higher-ranked master in the same
cycle takes effect, and this one loses whole and is counted; a contrary write of a lower-ranked master in the same cycle
loses whole and is counted, and this one takes effect; of doorbells of one queue in the same cycle the furthest takes effect;
hardware sets a W1C bit in the cycle of a write: the bit is set; hardware updates an RW field in the cycle of a write: the
write is made after the update. Readings and choices of the model that it rests on: log entries 40 and 116. -/
def Obligations.RegisterWrites : Prop :=
  ∀ (s : State) (o : BusOrder),
    (∀ (a : RegAt), o.hw = [] → o.rivals = [] → s.doorbellLead o.w = none → o.w.size = 4 → o.w.addr % 4 = 0 → s.regAt o.w.by' o.w.addr = some a →
      a.reg.info.width = 32 → Does (.registerWrite o) s (fun x => x = s.regWrite o.w.by' a (o.w.data % 2 ^ 32))) ∧
    (∀ (a : RegAt), o.hw = [] → o.rivals = [] → s.doorbellLead o.w = none → o.w.size = 4 → o.w.addr % 4 = 0 → s.regAt o.w.by' o.w.addr = some a →
      a.reg.info.width = 64 → a.word = 0 → Does (.registerWrite o) s (fun x => x.holding o.w.by' o.w.addr = some (o.w.data % 2 ^ 32) ∧ OnlyChanges
      [.hold] s x)) ∧
    (∀ (a : RegAt), o.hw = [] → o.rivals = [] → s.doorbellLead o.w = none → o.w.size = 8 → o.w.addr % 8 = 0 → s.regAt o.w.by' o.w.addr = some a →
      a.reg.info.width = 64 → a.word = 0 → Does (.registerWrite o) s (fun x => x = (s.setHolding o.w.by' o.w.addr none).regWrite o.w.by' a (o.w.data % 2
      ^ 64))) ∧
    (o.hw = [] → o.rivals = [] → s.doorbellLead o.w = none → o.w.size < 4 → Does (.registerWrite o) s (fun x => x = s)) ∧
    (∀ (l : Nat), o.hw = [] → o.rivals = [] → s.doorbellLead o.w = none → o.w.by' = .pf → o.w.size = 4 → o.w.addr = regAddr .CLK_DTSET + 4 →
      s.holding .pf (regAddr .CLK_DTSET) = some l → l < 2 ^ 32 → Does (.registerWrite o) s (fun x => x.rd .CLK_DTSET_TIME = l % 2 ^ 32 + o.w.data % 2 ^
      32 * 2 ^ 32)) ∧
    (o.hw = [] → o.rivals = [] → s.doorbellLead o.w = none → o.w.by' = .pf → o.w.size = 4 → o.w.addr = regAddr .PWR_PKG_BUDGET → o.w.data % 65536 ≠ 0
      → Does (.registerWrite o) s (fun x => x.rd .PWR_PKG_BUDGET_WATTS = o.w.data % 65536)) ∧
    (∀ (r : BusWr), o.hw = [] → s.doorbellLead o.w = none → o.rivals = [r] → sameWrite o.w r = false → masterRank r.by' < masterRank o.w.by' → Does
      (.registerWrite o) s (fun x => x = (s.superseded r.by' o.w.by' o.w.addr).busWrite r)) ∧
    (∀ (r : BusWr), o.hw = [] → s.doorbellLead o.w = none → o.rivals = [r] → sameWrite r o.w = false → masterRank o.w.by' < masterRank r.by' → Does
      (.registerWrite o) s (fun x => x = (s.superseded o.w.by' r.by' r.addr).busWrite o.w)) ∧
    (o.hw = [] → (s.doorbellLead o.w).isSome = true → Does (.registerWrite o) s (fun x => x = s.busWrite (s.furthestBell o.w o.rivals))) ∧
    (∀ (u : HwSet) (a : RegAt) (f : Field), o.hw = [u] → f.info.acc = .w1c → s.hwField u = some (a, f) → ((s.hwSet u).busOrder o).hwField u = some (a,
      f) → Does (.registerWrite o) s (fun x => x.rd f a.d a.i a.j = 1)) ∧
    (∀ (u : HwSet) (a : RegAt) (f : Field), o.hw = [u] → f.info.acc = .rw → s.hwField u = some (a, f) → Does (.registerWrite o) s (fun x => x = (s.wr
      f u.value a.d a.i a.j).busOrder o))

/-- The management chain: power, bypass switch, and addressing (R503, R504, R505, R506, R507, R508, R509). Each clause names
a command, the states and operands that it speaks of, and what holds of the next state that the command then answers. The
clauses: VDD_AON is good: the part is as at power-on, with the switch in bypass; the chain logic opens the switch of a part
that was not bypassed; the heartbeat of the chain logic toggles; 5 ms without a toggle: the supervisor closes the switch; 25
ms without a STOP: the time-out is counted; ASSIGN of an address in its range to a part that answers new ones; ASSIGN of an
address outside its range is not acknowledged; CLEAR_ADDR: the part forgets its address; BYPASS closes the switch; a chain
write with a wrong packet error code has no effect and is counted, CLEAR_ADDR for one. Readings and choices of the model that
it rests on: log entries 34 and 76. -/
def Obligations.ChainAddressing : Prop :=
  ∀ (s : State),
    (Does (.vddAonGood) s (fun x => x.rd .CHN_STAT_BYPASS = 1 ∧ x.ax .bypassed = 0 ∧ x.rd .PKT_LIFE_POH_HOURS = 0 ∧ x.jobs = [])) ∧
    (s.rdb .CHN_STAT_BYPASS = true → s.ax .bypassed = 0 → Does (.bypassSwitchOpen) s (fun x => x.rd .CHN_STAT_BYPASS = 0 ∧ x.ax .chainBeat = s.now +
      1)) ∧
    (s.rdb .CHN_STAT_BYPASS = false → Does (.chainHeartbeatToggle) s (fun x => x.ax .chainBeat = s.now + 1)) ∧
    (s.rdb .CHN_STAT_BYPASS = false → s.ax .chainBeat - 1 + 5000000 ≤ s.now → Does (.chainSupervisorTimeout) s (fun x => x.rd .CHN_STAT_BYPASS = 1 ∧
      x.ax .bypassed = 2)) ∧
    (Does (.chainTransactionTimeout) s (fun x => x.rd .CHN_STAT_TIMEOUTS = s.countUp .CHN_STAT_TIMEOUTS ∧ x.rd .FLT_TOCNT_COUNT 0 7 =
      s.countUp .FLT_TOCNT_COUNT 1 0 7)) ∧
    (∀ (q : ChainTx) (v : Nat), s.answersNew q = true → 8 ≤ v → v ≤ 0x67 → s.pecWrong q 2 (leBytes 1 v) = false → Does (.assign q v) s (fun x =>
      x.rd .CHN_CFG_VALID = 1 ∧ x.rd .CHN_CFG_ADDR = v ∧ x.ax .chainStatus = stOK)) ∧
    (∀ (q : ChainTx) (v : Nat), v < 8 ∨ 0x67 < v → Does (.assign q v) s (fun x => x.rd .CHN_CFG_VALID = s.rd .CHN_CFG_VALID ∧ x.outbox = s.outbox ++
      [.nack])) ∧
    (∀ (q : ChainTx), s.answers q = true → s.pecWrong q 3 [] = false → Does (.clearAddr q) s (fun x => x.rd .CHN_CFG_VALID = 0 ∧ x.rd .CHN_CFG_ADDR =
      0x6A ∧ x.ax .chainStatus = stOK)) ∧
    (∀ (q : ChainTx), s.answers q = true → s.pecWrong q 9 [] = false → Does (.bypass q) s (fun x => x.rd .CHN_STAT_BYPASS = 1 ∧ x.ax .bypassed = 1 ∧
      x.ax .chainStatus = stOK)) ∧
    (∀ (q : ChainTx), s.answers q = true → s.pecWrong q 3 [] = true → Does (.clearAddr q) s (fun x => x.rd .CHN_CFG_VALID = s.rd .CHN_CFG_VALID ∧
      x.rd .CHN_STAT_PEC_ERR = s.countUp .CHN_STAT_PEC_ERR))

/-- The management chain: reads, and accesses to registers and the Pocket (R492, R503, R510). Each clause names a command,
the states and operands that it speaks of, and what holds of the next state that the command then answers. The clauses:
IDENTIFY returns the identity; IDENTIFY with a packet error code appends it; STATUS returns START_REPORT, PWR_STAT and
MIR_STAT; REG_READ, once step 3 of the start-up has run, returns the 32-bit read of the chain; REG_READ before step 3 of the
start-up is not acknowledged; REG_WRITE, once step 3 of the start-up has run, is the 32-bit write of the chain; POCKET_READ
of a user page that is open returns its bytes; POCKET_WRITE of a page that is open stores the bytes; LAST_STATUS returns the
status of the last access. Readings and choices of the model that it rests on: log entries 34, 74 and 76. -/
def Obligations.ChainAccess : Prop :=
  ∀ (s : State) (q : ChainTx), s.answers q = true →
    (s.rdb .CHN_CFG_PEC = false → Does (.identify q) s (fun x => x.outbox = s.outbox ++ [.chain (s.token q.tokenIn).identity] ∧ x.ax .chainStatus =
      stOK)) ∧
    (s.rdb .CHN_CFG_PEC = true → Does (.identify q) s (fun x => x.outbox = s.outbox ++ [.chain ((s.token q.tokenIn).identity ++ [pecOf (addrByte q 0
      :: 1#8 :: addrByte q 1 :: (s.token q.tokenIn).identity)])])) ∧
    (s.rdb .CHN_CFG_PEC = false → Does (.chainStatus q) s (fun x => x.outbox = s.outbox ++ [.chain (leBytes 4 (s.regRead .START_REPORT 0 0 0) ++
      leBytes 4 (s.regRead .PWR_STAT 0 0 0) ++ leBytes 4 (s.regRead .MIR_STAT 0 0 0))] ∧ x.ax .chainStatus = stOK)) ∧
    (∀ (off : Nat), s.rdb .CHN_CFG_PEC = false → s.stepDone 3 = true → ((s.token q.tokenIn).readAccess .chain off 4).2.outbox = s.outbox → Does
      (.regRead q off) s (fun x => x.outbox = s.outbox ++ [.chain (leBytes 4 ((s.token q.tokenIn).readAccess .chain off 4).1)] ∧ x.ax .chainStatus =
      stOK)) ∧
    (∀ (off : Nat), s.stepDone 3 = false → Does (.regRead q off) s (fun x => x.outbox = s.outbox ++ [.nack])) ∧
    (∀ (off v : Nat) (l : List BusWr) (h : List HwSet), s.pecWrong q 6 (leBytes 4 off ++ leBytes 4 v) = false → s.stepDone 3 = true → Does (.regWrite
      q off v ⟨l, h⟩) s (fun x => x = ((s.token q.tokenIn).busCycle ⟨⟨.chain, off, 4, v % 2 ^ 32⟩, l, h⟩).leave stOK)) ∧
    (∀ (d p off n : Nat), s.rdb .CHN_CFG_PEC = false → s.chainSpan d p off n = true → 32 ≤ p → s.pktRdOpen p = true → Does (.chainPocketRead q d p off
      n) s (fun x => x.outbox = s.outbox ++ [.chain ((List.range n).map (fun i => s.pkt d p (off + i)))] ∧ x.ax .chainStatus = stOK)) ∧
    (∀ (d p off n : Nat) (l : List Byte), s.pecWrong q 8 (leBytes 1 d ++ leBytes 1 p ++ leBytes 2 off ++ leBytes 1 n ++ l) = false → s.chainSpan d p
      off n = true → n % 4 = 0 → off % 4 = 0 → l.length = n → s.pktWrOpen d p = true → Does (.chainPocketWrite q d p off n l none) s (fun x => (∀ k, k <
      n → x.pkt d p (off + k) = l.getD k 0) ∧ x.ax .chainStatus = stOK)) ∧
    (s.rdb .CHN_CFG_PEC = false → Does (.lastStatus q) s (fun x => x.outbox = s.outbox ++ [.chain (leBytes 1 (s.ax .chainStatus))] ∧ x.ax .chainStatus
      = s.ax .chainStatus))

/-- A step carries out the command at the front of the queue (R430, R433). A step of a state whose queue starts with a
command is that command's effect on the state with the queue's rest: orders take effect in the order of their arrival (R430).
-/
def Obligations.StepRunsTheFront : Prop :=
  ∀ (s : State) (c : Instr) (rest : List Instr), s.pending = c :: rest → step s = exec c { s with pending := rest }

/-- Every command answers a next state, but for a PLL relock into broken clock ratios; a step on an empty queue answers one
too (R455, R476). No command is refused, and no data makes one stop. An idle step on the empty queue is the model's choice
(log entry 35). The one fault is the model's reading of R455, which gives the part no behaviour once a clock ratio that must
hold is broken (log entry 37). -/
def Obligations.EveryStepAnswers : Prop :=
  (∀ s : State, s.pending = [] → ∃ t, step s = .next t ∧ t.pending = [] ∧ t.part = s.part) ∧
    (∀ (c : Instr) (s : State), (∀ p, c ≠ .pllRelockDone p) → ∃ t, exec c s = .next t ∧ t.pending = s.pending ∧ t.part = s.part) ∧
    (∀ (p : Nat) (s : State), s.ax .relock 0 p = 0 ∨ s.ratiosHold = true → ∃ t, exec (.pllRelockDone p) s = .next t) ∧
    (∀ (p : Nat) (s : State), s.ax .relock 0 p = 1 → s.ratiosHold = false → exec (.pllRelockDone p) s = .fault .clockRatios)

/-- After reset the state is sound, nothing is listed in memory and the queue is empty (R369). Every register field of the
state after reset lies within its width, the memory and the Pocket are in their canonical form, and every byte reads 0: the
banks by R369, the other memories by choice (log entry 2). -/
def Obligations.InvAtReset : Prop :=
  Inv State.reset ∧ (∀ k, State.reset.byte k = 0) ∧ State.reset.pending = []

/-- Every step keeps the state sound (R6, R9, R369). Whatever the command at the front, and on an empty queue: memory and the
Pocket keep their canonical form, no register field leaves its width, the part stays what it is, and the queue loses the
command that ran and nothing else. -/
def Obligations.StepKeepsInv : Prop :=
  ∀ s : State, Inv s → ∀ t, step s = .next t → Inv t ∧ t.part = s.part ∧ t.pending = s.pending.tail

/-- What each command leaves unchanged (R31, R430, R431, R432, R484, R486, R497, R500). A command changes no piece of the
state that `writes` does not list for it: every other register reads alike, every other component is equal, and where memory
is not listed every byte reads alike. A write of a whole register changes besides only writable fields. A cold reset keeps
the Pocket, its protection and what the record space holds of the tiles. Readings and choices of the model that it rests on:
log entry 68. -/
def Obligations.FramesOfCommands : Prop :=
  (∀ (c : Instr) (s t : State), coldReset c = false → writesRegisters c = false → exec c s = .next t → OnlyChanges (writes c) s t) ∧
    (∀ (c : Instr) (s t : State), writesRegisters c = true → exec c s = .next t →
      ∀ g, g ∉ writes c → (∀ f : Field, g = .fld f → f.info.acc = .ro ∨ f.info.acc = .w1s) → Same g s t) ∧
    (∀ (c : Instr) (s t : State), coldReset c = true → exec c s = .next t → ∀ g, g ∈ coldKept → Same g s t)

/-- Which dies, tiles and tasks a register write or an instruction leaves alone (R27, R81, R193, R237, R238, R240). The
listed writes of a die's registers leave every register of the other dies alone, those of a tile's registers every register
of the other tiles, and the listed instructions every other task: the architectural state is private to the task (R193). -/
def Obligations.ElementsOfCommands : Prop :=
  (∀ (d : Nat) (o : Order) (s t : State), Alone o → ∀ c ∈ dieWrites d o, exec c s = .next t → SameOtherDies d s t) ∧
    (∀ (d tile : Nat) (o : Order) (s t : State), Alone o → ∀ c ∈ tileWrites d tile o, exec c s = .next t → SameOtherTiles d tile s t) ∧
    (∀ (r : TaskRef) (s t : State), ∀ c ∈ taskInstructions r, exec c s = .next t → ∀ q : TaskRef, (q.job, q.task) ≠ (r.job, r.task) → t.taskOf q =
      s.taskOf q)

/-- CALL, RET, LOOP and loop ends trap with cause STACK on a full or empty stack (R211). CALL and CALLI with 16 entries on
the return stack, RET with none, LOOP with 4 active levels, and ENDL and LPOP with none trap with cause STACK at their own
PC. The clauses: CALL; CALLI; RET; LOOP; ENDL; LPOP. -/
def Obligations.StackTraps : Prop :=
  ∀ (s : State) (r : TaskRef) (c : Ctx), s.ctx r = some c → guardOff c.task c.w = false →
    (isInsn 0x04 0 c.w = true → c.task.ret.length = 16 → Does (.call r) s (fun x => x.rd .SEQ_TRAP_CAUSE c.task.die c.task.seq = cStack ∧
      x.rd .SEQ_TRAP_PC c.task.die c.task.seq = c.task.pc % 2 ^ 17)) ∧
    (isInsn 0x04 1 c.w = true → c.task.ret.length = 16 → Does (.calli r) s (fun x => x.rd .SEQ_TRAP_CAUSE c.task.die c.task.seq = cStack ∧
      x.rd .SEQ_TRAP_PC c.task.die c.task.seq = c.task.pc % 2 ^ 17)) ∧
    (isOp 0x05 c.w = true → c.task.ret = [] → Does (.ret r) s (fun x => x.rd .SEQ_TRAP_CAUSE c.task.die c.task.seq = cStack ∧ x.rd .SEQ_TRAP_PC
      c.task.die c.task.seq = c.task.pc % 2 ^ 17)) ∧
    (isInsn 0x03 0 c.w = true → c.task.loops.length = 4 → Does (.loop r) s (fun x => x.rd .SEQ_TRAP_CAUSE c.task.die c.task.seq = cStack ∧
      x.rd .SEQ_TRAP_PC c.task.die c.task.seq = c.task.pc % 2 ^ 17)) ∧
    (isInsn 0x03 1 c.w = true → c.task.loops = [] → Does (.endl r) s (fun x => x.rd .SEQ_TRAP_CAUSE c.task.die c.task.seq = cStack ∧ x.rd .SEQ_TRAP_PC
      c.task.die c.task.seq = c.task.pc % 2 ^ 17)) ∧
    (isInsn 0x03 2 c.w = true → c.task.loops = [] → Does (.lpop r) s (fun x => x.rd .SEQ_TRAP_CAUSE c.task.die c.task.seq = cStack ∧ x.rd .SEQ_TRAP_PC
      c.task.die c.task.seq = c.task.pc % 2 ^ 17))

/-- In mode LOCK, POCKET_PROTECT locks user pages, and a locked page stays read-only for ever (R500). In mode LOCK action 2
of POCKET_PROTECT locks any user page of any die and completes OK; where the page is locked already, that completion is all
that happens; and no command whatever, a reset included, changes a byte of a locked page or unlocks it. -/
def Obligations.LockedPages : Prop :=
  (∀ (s : State) (id : Nat) (c : Cmd), s.readyCmd id 0x53 = some c → (s.started c).b 16 1 = 2 → s.rd .PKT_STAT_MODE = 2 →
      (s.started c).b 17 1 < s.part.dies → 32 ≤ (s.started c).b 18 1 → (s.started c).b 18 1 < 128 →
      Does (.pocketProtect id) s (fun x => x.pageLocked ((s.started c).b 17 1) ((s.started c).b 18 1) = true ∧
        Completed (s.started c) stOK 0 s x)) ∧
    (∀ (s : State) (id : Nat) (c : Cmd), s.readyCmd id 0x53 = some c → (s.started c).b 16 1 = 2 → s.rd .PKT_STAT_MODE = 2 →
      (s.started c).b 17 1 < s.part.dies → 32 ≤ (s.started c).b 18 1 → (s.started c).b 18 1 < 128 →
      s.pageLocked ((s.started c).b 17 1) ((s.started c).b 18 1) = true →
      exec (.pocketProtect id) s = .next (s.completeCmd (s.started c) stOK 0)) ∧
    (∀ (c : Instr) (s t : State) (d p : Nat), s.rd .PKT_STAT_MODE = 2 → s.pageLocked d p = true → 32 ≤ p → p < 128 → exec c s = .next t →
      t.rd .PKT_STAT_MODE = 2 ∧ t.pageLocked d p = true ∧ ∀ k, k < 4096 → t.pkt d p k = s.pkt d p k)

/-- Register values after reset that the register tables give (R81, R87, R292, R318, R353, R366, R388, R420, R456, R465). The
fields whose reset value in the tables is not 0 hold it in every element; tiles 0 to 1,535 are FREE, 1,536 to 1,655 SPARE and
the rest RECORD. The part that resets is a PX-220-S (log entry 1). -/
def Obligations.ResetValues : Prop :=
  (∀ e ∈ tableResets, ∀ d i j, State.reset.rd e.1 d i j = e.2) ∧
    (∀ d i j, State.reset.rd .GLB_ID_PART d i j = 0x22 ∧ State.reset.rd .GLB_ID_DIES d i j = 2 ∧ State.reset.rd .CHN_CFG_ADDR d i j = 0x6A) ∧
    (∀ d i j, State.reset.rd .TIL_STATUS_STATE d i j = if i < 1536 then tsFree else if i < 1656 then tsSpare else tsRecord)

/-- The protection mode of the Pocket is set once and never returns to UNSET (R497). The mode is UNSET at manufacture;
POCKET_PROTECT sets it to PASSWORD or LOCK once; a second attempt completes with MALFORMED and does nothing else; no command
and no reset changes a mode that is set; in mode UNSET every user page is open for reading and writing; the protection does
not touch the reading of the part's own pages. -/
def Obligations.ProtectionMode : Prop :=
  (State.reset.rd .PKT_STAT_MODE = 0) ∧
    (∀ (s : State) (id : Nat) (c : Cmd), s.readyCmd id 0x53 = some c → (s.started c).b 16 1 = 0 → s.rd .PKT_STAT_MODE = 0 →
      1 ≤ (s.started c).b 17 1 → (s.started c).b 17 1 ≤ 2 →
      Does (.pocketProtect id) s (fun x => x.rd .PKT_STAT_MODE = (s.started c).b 17 1 ∧ Completed (s.started c) stOK 0 s x)) ∧
    (∀ (s : State) (id : Nat) (c : Cmd), s.readyCmd id 0x53 = some c → (s.started c).b 16 1 = 0 → s.rd .PKT_STAT_MODE ≠ 0 →
      exec (.pocketProtect id) s = .next (s.completeCmd (s.started c) stMalformed 0)) ∧
    (∀ (c : Instr) (s t : State), s.rd .PKT_STAT_MODE ≠ 0 → exec c s = .next t → t.rd .PKT_STAT_MODE = s.rd .PKT_STAT_MODE) ∧
    (∀ (s : State) (d p : Nat), s.rd .PKT_STAT_MODE = 0 → 32 ≤ p → s.pktRdOpen p = true ∧ s.pktWrOpen d p = true) ∧
    (∀ (s : State) (p : Nat), p < 32 → s.pktRdOpen p = true)
end

