-- ==== Sys2Proof/Laws/SMap.lean ====
section
/-!
SUPPORT. Laws/SMap.lean: what reading, writing and the canonical form of a sparse map do, said once.
-/

namespace Sys2Proof.Machine

variable {α : Type}

theorem SMap.get_put_same (d : α) (m : SMap α) (k : Nat) (v : α) : (m.put k v).get d k = v := by
  induction m with
  | nil => simp [SMap.put, SMap.get]
  | cons e t ih =>
    obtain ⟨k', v'⟩ := e
    simp only [SMap.put]
    split
    · simp [SMap.get]
    · split
      · simp [SMap.get]
      · rename_i h
        simp only [SMap.get, if_neg (Ne.symm h), ih]

theorem SMap.get_put_other (d : α) (m : SMap α) {k j : Nat} (v : α) (h : j ≠ k) :
    (m.put k v).get d j = m.get d j := by
  induction m with
  | nil => simp [SMap.put, SMap.get, Ne.symm h]
  | cons e t ih =>
    obtain ⟨k', v'⟩ := e
    simp only [SMap.put]
    split
    · simp [SMap.get, Ne.symm h]
    · split
      · rename_i h2; subst h2; simp [SMap.get, Ne.symm h]
      · simp [SMap.get, ih]

theorem SMap.get_del_same (d : α) (m : SMap α) (k : Nat) : (m.del k).get d k = d := by
  induction m with
  | nil => rfl
  | cons e t ih =>
    obtain ⟨k', v'⟩ := e
    by_cases h : k' = k
    · subst h; simpa [SMap.del] using ih
    · simp only [SMap.del] at ih ⊢
      simp [h, SMap.get, ih]

theorem SMap.get_del_other (d : α) (m : SMap α) {k j : Nat} (h : j ≠ k) : (m.del k).get d j = m.get d j := by
  induction m with
  | nil => rfl
  | cons e t ih =>
    obtain ⟨k', v'⟩ := e
    simp only [SMap.del] at ih ⊢
    by_cases h1 : k' = k
    · subst h1; simp [SMap.get, Ne.symm h, ih]
    · simp [h1, SMap.get, ih]

/-- A read after a write to the same key gives the value written. -/
@[simp] theorem SMap.get_set_same [DecidableEq α] (d : α) (m : SMap α) (k : Nat) (v : α) : (m.set d k v).get d k = v := by
  unfold SMap.set
  split
  · rename_i h; rw [h]; exact get_del_same d m k
  · exact get_put_same d m k v

/-- A write leaves every other key alone. -/
theorem SMap.get_set_other [DecidableEq α] (d : α) (m : SMap α) {k j : Nat} (v : α) (h : j ≠ k) :
    (m.set d k v).get d j = m.get d j := by
  unfold SMap.set
  split
  · exact get_del_other d m h
  · exact get_put_other d m v h

theorem SMap.rising_mono {m : SMap α} {a b : Nat} (h : m.rising b = true) (hab : a ≤ b) : m.rising a = true := by
  cases m with
  | nil => rfl
  | cons e t =>
    obtain ⟨k, v⟩ := e
    simp only [SMap.rising, Bool.and_eq_true, decide_eq_true_eq] at h ⊢
    exact ⟨le_trans hab h.1, h.2⟩

theorem SMap.rising_put {m : SMap α} {lo k : Nat} {v : α} (h : m.rising lo = true) (hk : lo ≤ k) :
    (m.put k v).rising lo = true := by
  induction m generalizing lo with
  | nil => simpa [SMap.put, SMap.rising] using hk
  | cons e t ih =>
    obtain ⟨k', v'⟩ := e
    simp only [SMap.rising, Bool.and_eq_true, decide_eq_true_eq] at h
    simp only [SMap.put]
    split
    · rename_i h2
      simp [SMap.rising, hk, h.2]; omega
    · split
      · rename_i h2; subst h2; simp [SMap.rising, hk, h.2]
      · rename_i h2 h3
        simp [SMap.rising, h.1, ih h.2 (by omega)]

theorem SMap.rising_del {m : SMap α} {lo k : Nat} (h : m.rising lo = true) : (m.del k).rising lo = true := by
  induction m generalizing lo with
  | nil => rfl
  | cons e t ih =>
    obtain ⟨k', v'⟩ := e
    simp only [SMap.rising, Bool.and_eq_true, decide_eq_true_eq] at h
    have h2 := ih h.2
    simp only [SMap.del] at h2 ⊢
    by_cases hk : k' = k
    · subst hk
      simp only [List.filter, decide_true, Bool.not_true]
      exact SMap.rising_mono h2 (by omega)
    · simp [List.filter, hk, SMap.rising, h.1, h2]

theorem SMap.mem_put {m : SMap α} {k : Nat} {v : α} {e : Nat × α} (h : e ∈ m.put k v) : e = (k, v) ∨ e ∈ m := by
  induction m with
  | nil => simpa [SMap.put] using h
  | cons x t ih =>
    obtain ⟨k', v'⟩ := x
    simp only [SMap.put] at h
    split at h
    · simpa using h
    · split at h
      · simp only [List.mem_cons] at h ⊢; tauto
      · simp only [List.mem_cons] at h ⊢
        rcases h with h | h
        · tauto
        · rcases ih h with h | h <;> tauto

/-- A write keeps the canonical form. -/
theorem SMap.wf_set [DecidableEq α] {d : α} {m : SMap α} (h : m.wf d = true) (k : Nat) (v : α) : (m.set d k v).wf d = true := by
  simp only [SMap.wf, Bool.and_eq_true, List.all_eq_true, decide_eq_true_eq] at h ⊢
  unfold SMap.set
  split
  · refine ⟨SMap.rising_del h.1, fun e he => h.2 e ?_⟩
    exact List.mem_of_mem_filter he
  · rename_i hv
    refine ⟨SMap.rising_put h.1 (Nat.zero_le _), fun e he => ?_⟩
    rcases SMap.mem_put he with h1 | h1
    · rw [h1]; exact hv
    · exact h.2 e h1

end Sys2Proof.Machine
end

