-- ==== Sys2Proof/Laws/State.lean ====
section
/-!
SUPPORT. Laws/State.lean: the small lemmas of the named operations: what a read gives after an update, field by field, and what
an event record, an order without a rival and a completion leave alone.
-/

namespace Sys2Proof.Machine

variable {α : Type}

theorem SMap.get_put_ne (d : α) (m : SMap α) {k j : Nat} (v : α) (h : j ≠ k) : (m.put k v).get d j = m.get d j :=
  SMap.get_put_other d m v h

/-- A write leaves every other key alone, whatever an absent key reads as. -/
theorem SMap.get_set_ne [DecidableEq α] (d e : α) (m : SMap α) {k j : Nat} (v : α) (h : j ≠ k) :
    (m.set e k v).get d j = m.get d j := by
  unfold SMap.set
  split
  · exact SMap.get_del_other d m h
  · exact SMap.get_put_other d m v h

theorem Field.ctorIdx_inj {f g : Field} : f.ctorIdx = g.ctorIdx ↔ f = g :=
  ⟨fun h => by have := congrArg Field.ofNat h; simpa [Field.ofNat_ctorIdx] using this, fun h => h ▸ rfl⟩

theorem Aux.ctorIdx_inj {f g : Aux} : f.ctorIdx = g.ctorIdx ↔ f = g :=
  ⟨fun h => by have := congrArg Aux.ofNat h; simpa [Aux.ofNat_ctorIdx] using this, fun h => h ▸ rfl⟩

theorem fieldKey_inj {f g : Field} {d i j d' i' j' : Nat} :
    fieldKey f d i j = fieldKey g d' i' j' ↔ f = g ∧ d = d' ∧ i = i' ∧ j = j' := by
  simp only [fieldKey, Nat.pair_eq_pair, Field.ctorIdx_inj]

theorem auxKey_inj {f g : Aux} {d i j d' i' j' : Nat} :
    auxKey f d i j = auxKey g d' i' j' ↔ f = g ∧ d = d' ∧ i = i' ∧ j = j' := by
  simp only [auxKey, Nat.pair_eq_pair, Aux.ctorIdx_inj]

/-- A read of a field after a write of one. -/
theorem State.rd_wr (s : State) (f g : Field) (v d i j d' i' j' : Nat) :
    (s.wr f v d i j).rd g d' i' j' = if g = f ∧ d' = d ∧ i' = i ∧ j' = j then v % 2 ^ f.width else s.rd g d' i' j' := by
  unfold State.rd State.wr
  split
  · rename_i h
    obtain ⟨rfl, rfl, rfl, rfl⟩ := h
    exact SMap.get_set_same _ _ _ _
  · rename_i h
    exact SMap.get_set_ne _ _ _ _ (fun e => h (fieldKey_inj.1 e))

@[simp] theorem State.rd_wr_same (s : State) (f : Field) (v d i j : Nat) : (s.wr f v d i j).rd f d i j = v % 2 ^ f.width := by
  simp [State.rd_wr]

theorem State.rd_wr_field (s : State) {f g : Field} (h : g ≠ f) (v d i j d' i' j' : Nat) :
    (s.wr f v d i j).rd g d' i' j' = s.rd g d' i' j' := by
  simp [State.rd_wr, h]

theorem State.rd_wr_elem (s : State) (f : Field) {v d i j d' i' j' : Nat} (h : ¬(d' = d ∧ i' = i ∧ j' = j)) :
    (s.wr f v d i j).rd f d' i' j' = s.rd f d' i' j' := by
  simp [State.rd_wr, h]

@[simp] theorem State.rdb_wr_same (s : State) (f : Field) (v d i j : Nat) :
    (s.wr f v d i j).rdb f d i j = (v % 2 ^ f.width != 0) := by
  simp [State.rdb]

theorem State.rdb_eq (s : State) (f : Field) (d i j : Nat) : s.rdb f d i j = (s.rd f d i j != 0) := rfl

/-- A read of a hidden scalar after a store of one. -/
theorem State.ax_setAx (s : State) (f g : Aux) (v d i j d' i' j' : Nat) :
    (s.setAx f v d i j).ax g d' i' j' = if g = f ∧ d' = d ∧ i' = i ∧ j' = j then v else s.ax g d' i' j' := by
  unfold State.ax State.setAx
  split
  · rename_i h
    obtain ⟨rfl, rfl, rfl, rfl⟩ := h
    exact SMap.get_set_same _ _ _ _
  · rename_i h
    exact SMap.get_set_ne _ _ _ _ (fun e => h (auxKey_inj.1 e))

@[simp] theorem State.ax_setAx_same (s : State) (f : Aux) (v d i j : Nat) : (s.setAx f v d i j).ax f d i j = v := by
  simp [State.ax_setAx]

/-! After `wr` -/

@[simp] theorem State.wr_part (s : State) (f : Field) (v d i j : Nat) : (s.wr f v d i j).part = s.part := rfl
@[simp] theorem State.wr_pending (s : State) (f : Field) (v d i j : Nat) : (s.wr f v d i j).pending = s.pending := rfl
@[simp] theorem State.wr_aux (s : State) (f : Field) (v d i j : Nat) : (s.wr f v d i j).aux = s.aux := rfl
@[simp] theorem State.wr_hold (s : State) (f : Field) (v d i j : Nat) : (s.wr f v d i j).hold = s.hold := rfl
@[simp] theorem State.wr_latch (s : State) (f : Field) (v d i j : Nat) : (s.wr f v d i j).latch = s.latch := rfl
@[simp] theorem State.wr_mem (s : State) (f : Field) (v d i j : Nat) : (s.wr f v d i j).mem = s.mem := rfl
@[simp] theorem State.wr_poison (s : State) (f : Field) (v d i j : Nat) : (s.wr f v d i j).poison = s.poison := rfl
@[simp] theorem State.wr_dt (s : State) (f : Field) (v d i j : Nat) : (s.wr f v d i j).dt = s.dt := rfl
@[simp] theorem State.wr_free (s : State) (f : Field) (v d i j : Nat) : (s.wr f v d i j).free = s.free := rfl
@[simp] theorem State.wr_outbox (s : State) (f : Field) (v d i j : Nat) : (s.wr f v d i j).outbox = s.outbox := rfl
@[simp] theorem State.wr_jobs (s : State) (f : Field) (v d i j : Nat) : (s.wr f v d i j).jobs = s.jobs := rfl
@[simp] theorem State.wr_progs (s : State) (f : Field) (v d i j : Nat) : (s.wr f v d i j).progs = s.progs := rfl
@[simp] theorem State.wr_cmds (s : State) (f : Field) (v d i j : Nat) : (s.wr f v d i j).cmds = s.cmds := rfl
@[simp] theorem State.wr_qps (s : State) (f : Field) (v d i j : Nat) : (s.wr f v d i j).qps = s.qps := rfl
@[simp] theorem State.wr_allocs (s : State) (f : Field) (v d i j : Nat) : (s.wr f v d i j).allocs = s.allocs := rfl
@[simp] theorem State.wr_rings (s : State) (f : Field) (v d i j : Nat) : (s.wr f v d i j).rings = s.rings := rfl
@[simp] theorem State.wr_reqs (s : State) (f : Field) (v d i j : Nat) : (s.wr f v d i j).reqs = s.reqs := rfl
@[simp] theorem State.wr_ops (s : State) (f : Field) (v d i j : Nat) : (s.wr f v d i j).ops = s.ops := rfl
@[simp] theorem State.wr_dmas (s : State) (f : Field) (v d i j : Nat) : (s.wr f v d i j).dmas = s.dmas := rfl
@[simp] theorem State.wr_placed (s : State) (f : Field) (v d i j : Nat) : (s.wr f v d i j).placed = s.placed := rfl
@[simp] theorem State.wr_panels (s : State) (f : Field) (v d i j : Nat) : (s.wr f v d i j).panels = s.panels := rfl
@[simp] theorem State.wr_images (s : State) (f : Field) (v d i j : Nat) : (s.wr f v d i j).images = s.images := rfl
@[simp] theorem State.wr_loads (s : State) (f : Field) (v d i j : Nat) : (s.wr f v d i j).loads = s.loads := rfl
@[simp] theorem State.wr_maps (s : State) (f : Field) (v d i j : Nat) : (s.wr f v d i j).maps = s.maps := rfl
@[simp] theorem State.wr_tiles (s : State) (f : Field) (v d i j : Nat) : (s.wr f v d i j).tiles = s.tiles := rfl
@[simp] theorem State.wr_tabs (s : State) (f : Field) (v d i j : Nat) : (s.wr f v d i j).tabs = s.tabs := rfl
@[simp] theorem State.wr_recs (s : State) (f : Field) (v d i j : Nat) : (s.wr f v d i j).recs = s.recs := rfl
@[simp] theorem State.wr_progq (s : State) (f : Field) (v d i j : Nat) : (s.wr f v d i j).progq = s.progq := rfl
@[simp] theorem State.wr_calq (s : State) (f : Field) (v d i j : Nat) : (s.wr f v d i j).calq = s.calq := rfl
@[simp] theorem State.wr_cals (s : State) (f : Field) (v d i j : Nat) : (s.wr f v d i j).cals = s.cals := rfl
@[simp] theorem State.wr_checks (s : State) (f : Field) (v d i j : Nat) : (s.wr f v d i j).checks = s.checks := rfl
@[simp] theorem State.wr_tix (s : State) (f : Field) (v d i j : Nat) : (s.wr f v d i j).tix = s.tix := rfl
@[simp] theorem State.wr_repls (s : State) (f : Field) (v d i j : Nat) : (s.wr f v d i j).repls = s.repls := rfl
@[simp] theorem State.wr_refreshes (s : State) (f : Field) (v d i j : Nat) : (s.wr f v d i j).refreshes = s.refreshes := rfl
@[simp] theorem State.wr_mons (s : State) (f : Field) (v d i j : Nat) : (s.wr f v d i j).mons = s.mons := rfl
@[simp] theorem State.wr_urg (s : State) (f : Field) (v d i j : Nat) : (s.wr f v d i j).urg = s.urg := rfl
@[simp] theorem State.wr_tlms (s : State) (f : Field) (v d i j : Nat) : (s.wr f v d i j).tlms = s.tlms := rfl
@[simp] theorem State.wr_plays (s : State) (f : Field) (v d i j : Nat) : (s.wr f v d i j).plays = s.plays := rfl
@[simp] theorem State.wr_waves (s : State) (f : Field) (v d i j : Nat) : (s.wr f v d i j).waves = s.waves := rfl
@[simp] theorem State.wr_pocket (s : State) (f : Field) (v d i j : Nat) : (s.wr f v d i j).pocket = s.pocket := rfl
@[simp] theorem State.wr_safeJobs (s : State) (f : Field) (v d i j : Nat) : (s.wr f v d i j).safeJobs = s.safeJobs := rfl
@[simp] theorem State.wr_flits (s : State) (f : Field) (v d i j : Nat) : (s.wr f v d i j).flits = s.flits := rfl
@[simp] theorem State.wr_journal (s : State) (f : Field) (v d i j : Nat) : (s.wr f v d i j).journal = s.journal := rfl
@[simp] theorem State.wr_commits (s : State) (f : Field) (v d i j : Nat) : (s.wr f v d i j).commits = s.commits := rfl
@[simp] theorem State.wr_regions (s : State) (f : Field) (v d i j : Nat) : (s.wr f v d i j).regions = s.regions := rfl
@[simp] theorem State.ax_wr (s : State) (f : Field) (v d i j : Nat) (g : Aux) (d' i' j' : Nat) : (s.wr f v d i j).ax g d' i' j' = s.ax g d' i' j' := rfl
@[simp] theorem State.byte_wr (s : State) (f : Field) (v d i j : Nat) (k' : Nat) : (s.wr f v d i j).byte k' = s.byte k' := rfl

/-! After `setAx` -/

@[simp] theorem State.setAx_part (s : State) (f : Aux) (v d i j : Nat) : (s.setAx f v d i j).part = s.part := rfl
@[simp] theorem State.setAx_pending (s : State) (f : Aux) (v d i j : Nat) : (s.setAx f v d i j).pending = s.pending := rfl
@[simp] theorem State.setAx_fld (s : State) (f : Aux) (v d i j : Nat) : (s.setAx f v d i j).fld = s.fld := rfl
@[simp] theorem State.setAx_hold (s : State) (f : Aux) (v d i j : Nat) : (s.setAx f v d i j).hold = s.hold := rfl
@[simp] theorem State.setAx_latch (s : State) (f : Aux) (v d i j : Nat) : (s.setAx f v d i j).latch = s.latch := rfl
@[simp] theorem State.setAx_mem (s : State) (f : Aux) (v d i j : Nat) : (s.setAx f v d i j).mem = s.mem := rfl
@[simp] theorem State.setAx_poison (s : State) (f : Aux) (v d i j : Nat) : (s.setAx f v d i j).poison = s.poison := rfl
@[simp] theorem State.setAx_dt (s : State) (f : Aux) (v d i j : Nat) : (s.setAx f v d i j).dt = s.dt := rfl
@[simp] theorem State.setAx_free (s : State) (f : Aux) (v d i j : Nat) : (s.setAx f v d i j).free = s.free := rfl
@[simp] theorem State.setAx_outbox (s : State) (f : Aux) (v d i j : Nat) : (s.setAx f v d i j).outbox = s.outbox := rfl
@[simp] theorem State.setAx_jobs (s : State) (f : Aux) (v d i j : Nat) : (s.setAx f v d i j).jobs = s.jobs := rfl
@[simp] theorem State.setAx_progs (s : State) (f : Aux) (v d i j : Nat) : (s.setAx f v d i j).progs = s.progs := rfl
@[simp] theorem State.setAx_cmds (s : State) (f : Aux) (v d i j : Nat) : (s.setAx f v d i j).cmds = s.cmds := rfl
@[simp] theorem State.setAx_qps (s : State) (f : Aux) (v d i j : Nat) : (s.setAx f v d i j).qps = s.qps := rfl
@[simp] theorem State.setAx_allocs (s : State) (f : Aux) (v d i j : Nat) : (s.setAx f v d i j).allocs = s.allocs := rfl
@[simp] theorem State.setAx_rings (s : State) (f : Aux) (v d i j : Nat) : (s.setAx f v d i j).rings = s.rings := rfl
@[simp] theorem State.setAx_reqs (s : State) (f : Aux) (v d i j : Nat) : (s.setAx f v d i j).reqs = s.reqs := rfl
@[simp] theorem State.setAx_ops (s : State) (f : Aux) (v d i j : Nat) : (s.setAx f v d i j).ops = s.ops := rfl
@[simp] theorem State.setAx_dmas (s : State) (f : Aux) (v d i j : Nat) : (s.setAx f v d i j).dmas = s.dmas := rfl
@[simp] theorem State.setAx_placed (s : State) (f : Aux) (v d i j : Nat) : (s.setAx f v d i j).placed = s.placed := rfl
@[simp] theorem State.setAx_panels (s : State) (f : Aux) (v d i j : Nat) : (s.setAx f v d i j).panels = s.panels := rfl
@[simp] theorem State.setAx_images (s : State) (f : Aux) (v d i j : Nat) : (s.setAx f v d i j).images = s.images := rfl
@[simp] theorem State.setAx_loads (s : State) (f : Aux) (v d i j : Nat) : (s.setAx f v d i j).loads = s.loads := rfl
@[simp] theorem State.setAx_maps (s : State) (f : Aux) (v d i j : Nat) : (s.setAx f v d i j).maps = s.maps := rfl
@[simp] theorem State.setAx_tiles (s : State) (f : Aux) (v d i j : Nat) : (s.setAx f v d i j).tiles = s.tiles := rfl
@[simp] theorem State.setAx_tabs (s : State) (f : Aux) (v d i j : Nat) : (s.setAx f v d i j).tabs = s.tabs := rfl
@[simp] theorem State.setAx_recs (s : State) (f : Aux) (v d i j : Nat) : (s.setAx f v d i j).recs = s.recs := rfl
@[simp] theorem State.setAx_progq (s : State) (f : Aux) (v d i j : Nat) : (s.setAx f v d i j).progq = s.progq := rfl
@[simp] theorem State.setAx_calq (s : State) (f : Aux) (v d i j : Nat) : (s.setAx f v d i j).calq = s.calq := rfl
@[simp] theorem State.setAx_cals (s : State) (f : Aux) (v d i j : Nat) : (s.setAx f v d i j).cals = s.cals := rfl
@[simp] theorem State.setAx_checks (s : State) (f : Aux) (v d i j : Nat) : (s.setAx f v d i j).checks = s.checks := rfl
@[simp] theorem State.setAx_tix (s : State) (f : Aux) (v d i j : Nat) : (s.setAx f v d i j).tix = s.tix := rfl
@[simp] theorem State.setAx_repls (s : State) (f : Aux) (v d i j : Nat) : (s.setAx f v d i j).repls = s.repls := rfl
@[simp] theorem State.setAx_refreshes (s : State) (f : Aux) (v d i j : Nat) : (s.setAx f v d i j).refreshes = s.refreshes := rfl
@[simp] theorem State.setAx_mons (s : State) (f : Aux) (v d i j : Nat) : (s.setAx f v d i j).mons = s.mons := rfl
@[simp] theorem State.setAx_urg (s : State) (f : Aux) (v d i j : Nat) : (s.setAx f v d i j).urg = s.urg := rfl
@[simp] theorem State.setAx_tlms (s : State) (f : Aux) (v d i j : Nat) : (s.setAx f v d i j).tlms = s.tlms := rfl
@[simp] theorem State.setAx_plays (s : State) (f : Aux) (v d i j : Nat) : (s.setAx f v d i j).plays = s.plays := rfl
@[simp] theorem State.setAx_waves (s : State) (f : Aux) (v d i j : Nat) : (s.setAx f v d i j).waves = s.waves := rfl
@[simp] theorem State.setAx_pocket (s : State) (f : Aux) (v d i j : Nat) : (s.setAx f v d i j).pocket = s.pocket := rfl
@[simp] theorem State.setAx_safeJobs (s : State) (f : Aux) (v d i j : Nat) : (s.setAx f v d i j).safeJobs = s.safeJobs := rfl
@[simp] theorem State.setAx_flits (s : State) (f : Aux) (v d i j : Nat) : (s.setAx f v d i j).flits = s.flits := rfl
@[simp] theorem State.setAx_journal (s : State) (f : Aux) (v d i j : Nat) : (s.setAx f v d i j).journal = s.journal := rfl
@[simp] theorem State.setAx_commits (s : State) (f : Aux) (v d i j : Nat) : (s.setAx f v d i j).commits = s.commits := rfl
@[simp] theorem State.setAx_regions (s : State) (f : Aux) (v d i j : Nat) : (s.setAx f v d i j).regions = s.regions := rfl
@[simp] theorem State.rd_setAx (s : State) (f : Aux) (v d i j : Nat) (g : Field) (d' i' j' : Nat) : (s.setAx f v d i j).rd g d' i' j' = s.rd g d' i' j' := rfl
@[simp] theorem State.rdb_setAx (s : State) (f : Aux) (v d i j : Nat) (g : Field) (d' i' j' : Nat) : (s.setAx f v d i j).rdb g d' i' j' = s.rdb g d' i' j' := rfl
@[simp] theorem State.byte_setAx (s : State) (f : Aux) (v d i j : Nat) (k' : Nat) : (s.setAx f v d i j).byte k' = s.byte k' := rfl

/-! After `emit` -/

@[simp] theorem State.emit_part (s : State) (o : Out) : (s.emit o).part = s.part := rfl
@[simp] theorem State.emit_pending (s : State) (o : Out) : (s.emit o).pending = s.pending := rfl
@[simp] theorem State.emit_fld (s : State) (o : Out) : (s.emit o).fld = s.fld := rfl
@[simp] theorem State.emit_aux (s : State) (o : Out) : (s.emit o).aux = s.aux := rfl
@[simp] theorem State.emit_hold (s : State) (o : Out) : (s.emit o).hold = s.hold := rfl
@[simp] theorem State.emit_latch (s : State) (o : Out) : (s.emit o).latch = s.latch := rfl
@[simp] theorem State.emit_mem (s : State) (o : Out) : (s.emit o).mem = s.mem := rfl
@[simp] theorem State.emit_poison (s : State) (o : Out) : (s.emit o).poison = s.poison := rfl
@[simp] theorem State.emit_dt (s : State) (o : Out) : (s.emit o).dt = s.dt := rfl
@[simp] theorem State.emit_free (s : State) (o : Out) : (s.emit o).free = s.free := rfl
@[simp] theorem State.emit_jobs (s : State) (o : Out) : (s.emit o).jobs = s.jobs := rfl
@[simp] theorem State.emit_progs (s : State) (o : Out) : (s.emit o).progs = s.progs := rfl
@[simp] theorem State.emit_cmds (s : State) (o : Out) : (s.emit o).cmds = s.cmds := rfl
@[simp] theorem State.emit_qps (s : State) (o : Out) : (s.emit o).qps = s.qps := rfl
@[simp] theorem State.emit_allocs (s : State) (o : Out) : (s.emit o).allocs = s.allocs := rfl
@[simp] theorem State.emit_rings (s : State) (o : Out) : (s.emit o).rings = s.rings := rfl
@[simp] theorem State.emit_reqs (s : State) (o : Out) : (s.emit o).reqs = s.reqs := rfl
@[simp] theorem State.emit_ops (s : State) (o : Out) : (s.emit o).ops = s.ops := rfl
@[simp] theorem State.emit_dmas (s : State) (o : Out) : (s.emit o).dmas = s.dmas := rfl
@[simp] theorem State.emit_placed (s : State) (o : Out) : (s.emit o).placed = s.placed := rfl
@[simp] theorem State.emit_panels (s : State) (o : Out) : (s.emit o).panels = s.panels := rfl
@[simp] theorem State.emit_images (s : State) (o : Out) : (s.emit o).images = s.images := rfl
@[simp] theorem State.emit_loads (s : State) (o : Out) : (s.emit o).loads = s.loads := rfl
@[simp] theorem State.emit_maps (s : State) (o : Out) : (s.emit o).maps = s.maps := rfl
@[simp] theorem State.emit_tiles (s : State) (o : Out) : (s.emit o).tiles = s.tiles := rfl
@[simp] theorem State.emit_tabs (s : State) (o : Out) : (s.emit o).tabs = s.tabs := rfl
@[simp] theorem State.emit_recs (s : State) (o : Out) : (s.emit o).recs = s.recs := rfl
@[simp] theorem State.emit_progq (s : State) (o : Out) : (s.emit o).progq = s.progq := rfl
@[simp] theorem State.emit_calq (s : State) (o : Out) : (s.emit o).calq = s.calq := rfl
@[simp] theorem State.emit_cals (s : State) (o : Out) : (s.emit o).cals = s.cals := rfl
@[simp] theorem State.emit_checks (s : State) (o : Out) : (s.emit o).checks = s.checks := rfl
@[simp] theorem State.emit_tix (s : State) (o : Out) : (s.emit o).tix = s.tix := rfl
@[simp] theorem State.emit_repls (s : State) (o : Out) : (s.emit o).repls = s.repls := rfl
@[simp] theorem State.emit_refreshes (s : State) (o : Out) : (s.emit o).refreshes = s.refreshes := rfl
@[simp] theorem State.emit_mons (s : State) (o : Out) : (s.emit o).mons = s.mons := rfl
@[simp] theorem State.emit_urg (s : State) (o : Out) : (s.emit o).urg = s.urg := rfl
@[simp] theorem State.emit_tlms (s : State) (o : Out) : (s.emit o).tlms = s.tlms := rfl
@[simp] theorem State.emit_plays (s : State) (o : Out) : (s.emit o).plays = s.plays := rfl
@[simp] theorem State.emit_waves (s : State) (o : Out) : (s.emit o).waves = s.waves := rfl
@[simp] theorem State.emit_pocket (s : State) (o : Out) : (s.emit o).pocket = s.pocket := rfl
@[simp] theorem State.emit_safeJobs (s : State) (o : Out) : (s.emit o).safeJobs = s.safeJobs := rfl
@[simp] theorem State.emit_flits (s : State) (o : Out) : (s.emit o).flits = s.flits := rfl
@[simp] theorem State.emit_journal (s : State) (o : Out) : (s.emit o).journal = s.journal := rfl
@[simp] theorem State.emit_commits (s : State) (o : Out) : (s.emit o).commits = s.commits := rfl
@[simp] theorem State.emit_regions (s : State) (o : Out) : (s.emit o).regions = s.regions := rfl
@[simp] theorem State.rd_emit (s : State) (o : Out) (g : Field) (d' i' j' : Nat) : (s.emit o).rd g d' i' j' = s.rd g d' i' j' := rfl
@[simp] theorem State.rdb_emit (s : State) (o : Out) (g : Field) (d' i' j' : Nat) : (s.emit o).rdb g d' i' j' = s.rdb g d' i' j' := rfl
@[simp] theorem State.ax_emit (s : State) (o : Out) (g : Aux) (d' i' j' : Nat) : (s.emit o).ax g d' i' j' = s.ax g d' i' j' := rfl
@[simp] theorem State.byte_emit (s : State) (o : Out) (k' : Nat) : (s.emit o).byte k' = s.byte k' := rfl

/-! After `setRing` -/

@[simp] theorem State.setRing_part (s : State) (fn : Nat) (r : Ring) : (s.setRing fn r).part = s.part := rfl
@[simp] theorem State.setRing_pending (s : State) (fn : Nat) (r : Ring) : (s.setRing fn r).pending = s.pending := rfl
@[simp] theorem State.setRing_fld (s : State) (fn : Nat) (r : Ring) : (s.setRing fn r).fld = s.fld := rfl
@[simp] theorem State.setRing_aux (s : State) (fn : Nat) (r : Ring) : (s.setRing fn r).aux = s.aux := rfl
@[simp] theorem State.setRing_hold (s : State) (fn : Nat) (r : Ring) : (s.setRing fn r).hold = s.hold := rfl
@[simp] theorem State.setRing_latch (s : State) (fn : Nat) (r : Ring) : (s.setRing fn r).latch = s.latch := rfl
@[simp] theorem State.setRing_mem (s : State) (fn : Nat) (r : Ring) : (s.setRing fn r).mem = s.mem := rfl
@[simp] theorem State.setRing_poison (s : State) (fn : Nat) (r : Ring) : (s.setRing fn r).poison = s.poison := rfl
@[simp] theorem State.setRing_dt (s : State) (fn : Nat) (r : Ring) : (s.setRing fn r).dt = s.dt := rfl
@[simp] theorem State.setRing_free (s : State) (fn : Nat) (r : Ring) : (s.setRing fn r).free = s.free := rfl
@[simp] theorem State.setRing_outbox (s : State) (fn : Nat) (r : Ring) : (s.setRing fn r).outbox = s.outbox := rfl
@[simp] theorem State.setRing_jobs (s : State) (fn : Nat) (r : Ring) : (s.setRing fn r).jobs = s.jobs := rfl
@[simp] theorem State.setRing_progs (s : State) (fn : Nat) (r : Ring) : (s.setRing fn r).progs = s.progs := rfl
@[simp] theorem State.setRing_cmds (s : State) (fn : Nat) (r : Ring) : (s.setRing fn r).cmds = s.cmds := rfl
@[simp] theorem State.setRing_qps (s : State) (fn : Nat) (r : Ring) : (s.setRing fn r).qps = s.qps := rfl
@[simp] theorem State.setRing_allocs (s : State) (fn : Nat) (r : Ring) : (s.setRing fn r).allocs = s.allocs := rfl
@[simp] theorem State.setRing_reqs (s : State) (fn : Nat) (r : Ring) : (s.setRing fn r).reqs = s.reqs := rfl
@[simp] theorem State.setRing_ops (s : State) (fn : Nat) (r : Ring) : (s.setRing fn r).ops = s.ops := rfl
@[simp] theorem State.setRing_dmas (s : State) (fn : Nat) (r : Ring) : (s.setRing fn r).dmas = s.dmas := rfl
@[simp] theorem State.setRing_placed (s : State) (fn : Nat) (r : Ring) : (s.setRing fn r).placed = s.placed := rfl
@[simp] theorem State.setRing_panels (s : State) (fn : Nat) (r : Ring) : (s.setRing fn r).panels = s.panels := rfl
@[simp] theorem State.setRing_images (s : State) (fn : Nat) (r : Ring) : (s.setRing fn r).images = s.images := rfl
@[simp] theorem State.setRing_loads (s : State) (fn : Nat) (r : Ring) : (s.setRing fn r).loads = s.loads := rfl
@[simp] theorem State.setRing_maps (s : State) (fn : Nat) (r : Ring) : (s.setRing fn r).maps = s.maps := rfl
@[simp] theorem State.setRing_tiles (s : State) (fn : Nat) (r : Ring) : (s.setRing fn r).tiles = s.tiles := rfl
@[simp] theorem State.setRing_tabs (s : State) (fn : Nat) (r : Ring) : (s.setRing fn r).tabs = s.tabs := rfl
@[simp] theorem State.setRing_recs (s : State) (fn : Nat) (r : Ring) : (s.setRing fn r).recs = s.recs := rfl
@[simp] theorem State.setRing_progq (s : State) (fn : Nat) (r : Ring) : (s.setRing fn r).progq = s.progq := rfl
@[simp] theorem State.setRing_calq (s : State) (fn : Nat) (r : Ring) : (s.setRing fn r).calq = s.calq := rfl
@[simp] theorem State.setRing_cals (s : State) (fn : Nat) (r : Ring) : (s.setRing fn r).cals = s.cals := rfl
@[simp] theorem State.setRing_checks (s : State) (fn : Nat) (r : Ring) : (s.setRing fn r).checks = s.checks := rfl
@[simp] theorem State.setRing_tix (s : State) (fn : Nat) (r : Ring) : (s.setRing fn r).tix = s.tix := rfl
@[simp] theorem State.setRing_repls (s : State) (fn : Nat) (r : Ring) : (s.setRing fn r).repls = s.repls := rfl
@[simp] theorem State.setRing_refreshes (s : State) (fn : Nat) (r : Ring) : (s.setRing fn r).refreshes = s.refreshes := rfl
@[simp] theorem State.setRing_mons (s : State) (fn : Nat) (r : Ring) : (s.setRing fn r).mons = s.mons := rfl
@[simp] theorem State.setRing_urg (s : State) (fn : Nat) (r : Ring) : (s.setRing fn r).urg = s.urg := rfl
@[simp] theorem State.setRing_tlms (s : State) (fn : Nat) (r : Ring) : (s.setRing fn r).tlms = s.tlms := rfl
@[simp] theorem State.setRing_plays (s : State) (fn : Nat) (r : Ring) : (s.setRing fn r).plays = s.plays := rfl
@[simp] theorem State.setRing_waves (s : State) (fn : Nat) (r : Ring) : (s.setRing fn r).waves = s.waves := rfl
@[simp] theorem State.setRing_pocket (s : State) (fn : Nat) (r : Ring) : (s.setRing fn r).pocket = s.pocket := rfl
@[simp] theorem State.setRing_safeJobs (s : State) (fn : Nat) (r : Ring) : (s.setRing fn r).safeJobs = s.safeJobs := rfl
@[simp] theorem State.setRing_flits (s : State) (fn : Nat) (r : Ring) : (s.setRing fn r).flits = s.flits := rfl
@[simp] theorem State.setRing_journal (s : State) (fn : Nat) (r : Ring) : (s.setRing fn r).journal = s.journal := rfl
@[simp] theorem State.setRing_commits (s : State) (fn : Nat) (r : Ring) : (s.setRing fn r).commits = s.commits := rfl
@[simp] theorem State.setRing_regions (s : State) (fn : Nat) (r : Ring) : (s.setRing fn r).regions = s.regions := rfl
@[simp] theorem State.rd_setRing (s : State) (fn : Nat) (r : Ring) (g : Field) (d' i' j' : Nat) : (s.setRing fn r).rd g d' i' j' = s.rd g d' i' j' := rfl
@[simp] theorem State.rdb_setRing (s : State) (fn : Nat) (r : Ring) (g : Field) (d' i' j' : Nat) : (s.setRing fn r).rdb g d' i' j' = s.rdb g d' i' j' := rfl
@[simp] theorem State.ax_setRing (s : State) (fn : Nat) (r : Ring) (g : Aux) (d' i' j' : Nat) : (s.setRing fn r).ax g d' i' j' = s.ax g d' i' j' := rfl
@[simp] theorem State.byte_setRing (s : State) (fn : Nat) (r : Ring) (k' : Nat) : (s.setRing fn r).byte k' = s.byte k' := rfl

/-! After `store` -/

@[simp] theorem State.store_part (s : State) (k n v : Nat) : (s.store k n v).part = s.part := rfl
@[simp] theorem State.store_pending (s : State) (k n v : Nat) : (s.store k n v).pending = s.pending := rfl
@[simp] theorem State.store_fld (s : State) (k n v : Nat) : (s.store k n v).fld = s.fld := rfl
@[simp] theorem State.store_aux (s : State) (k n v : Nat) : (s.store k n v).aux = s.aux := rfl
@[simp] theorem State.store_hold (s : State) (k n v : Nat) : (s.store k n v).hold = s.hold := rfl
@[simp] theorem State.store_latch (s : State) (k n v : Nat) : (s.store k n v).latch = s.latch := rfl
@[simp] theorem State.store_poison (s : State) (k n v : Nat) : (s.store k n v).poison = s.poison := rfl
@[simp] theorem State.store_dt (s : State) (k n v : Nat) : (s.store k n v).dt = s.dt := rfl
@[simp] theorem State.store_free (s : State) (k n v : Nat) : (s.store k n v).free = s.free := rfl
@[simp] theorem State.store_outbox (s : State) (k n v : Nat) : (s.store k n v).outbox = s.outbox := rfl
@[simp] theorem State.store_jobs (s : State) (k n v : Nat) : (s.store k n v).jobs = s.jobs := rfl
@[simp] theorem State.store_progs (s : State) (k n v : Nat) : (s.store k n v).progs = s.progs := rfl
@[simp] theorem State.store_cmds (s : State) (k n v : Nat) : (s.store k n v).cmds = s.cmds := rfl
@[simp] theorem State.store_qps (s : State) (k n v : Nat) : (s.store k n v).qps = s.qps := rfl
@[simp] theorem State.store_allocs (s : State) (k n v : Nat) : (s.store k n v).allocs = s.allocs := rfl
@[simp] theorem State.store_rings (s : State) (k n v : Nat) : (s.store k n v).rings = s.rings := rfl
@[simp] theorem State.store_reqs (s : State) (k n v : Nat) : (s.store k n v).reqs = s.reqs := rfl
@[simp] theorem State.store_ops (s : State) (k n v : Nat) : (s.store k n v).ops = s.ops := rfl
@[simp] theorem State.store_dmas (s : State) (k n v : Nat) : (s.store k n v).dmas = s.dmas := rfl
@[simp] theorem State.store_placed (s : State) (k n v : Nat) : (s.store k n v).placed = s.placed := rfl
@[simp] theorem State.store_panels (s : State) (k n v : Nat) : (s.store k n v).panels = s.panels := rfl
@[simp] theorem State.store_images (s : State) (k n v : Nat) : (s.store k n v).images = s.images := rfl
@[simp] theorem State.store_loads (s : State) (k n v : Nat) : (s.store k n v).loads = s.loads := rfl
@[simp] theorem State.store_maps (s : State) (k n v : Nat) : (s.store k n v).maps = s.maps := rfl
@[simp] theorem State.store_tiles (s : State) (k n v : Nat) : (s.store k n v).tiles = s.tiles := rfl
@[simp] theorem State.store_tabs (s : State) (k n v : Nat) : (s.store k n v).tabs = s.tabs := rfl
@[simp] theorem State.store_recs (s : State) (k n v : Nat) : (s.store k n v).recs = s.recs := rfl
@[simp] theorem State.store_progq (s : State) (k n v : Nat) : (s.store k n v).progq = s.progq := rfl
@[simp] theorem State.store_calq (s : State) (k n v : Nat) : (s.store k n v).calq = s.calq := rfl
@[simp] theorem State.store_cals (s : State) (k n v : Nat) : (s.store k n v).cals = s.cals := rfl
@[simp] theorem State.store_checks (s : State) (k n v : Nat) : (s.store k n v).checks = s.checks := rfl
@[simp] theorem State.store_tix (s : State) (k n v : Nat) : (s.store k n v).tix = s.tix := rfl
@[simp] theorem State.store_repls (s : State) (k n v : Nat) : (s.store k n v).repls = s.repls := rfl
@[simp] theorem State.store_refreshes (s : State) (k n v : Nat) : (s.store k n v).refreshes = s.refreshes := rfl
@[simp] theorem State.store_mons (s : State) (k n v : Nat) : (s.store k n v).mons = s.mons := rfl
@[simp] theorem State.store_urg (s : State) (k n v : Nat) : (s.store k n v).urg = s.urg := rfl
@[simp] theorem State.store_tlms (s : State) (k n v : Nat) : (s.store k n v).tlms = s.tlms := rfl
@[simp] theorem State.store_plays (s : State) (k n v : Nat) : (s.store k n v).plays = s.plays := rfl
@[simp] theorem State.store_waves (s : State) (k n v : Nat) : (s.store k n v).waves = s.waves := rfl
@[simp] theorem State.store_pocket (s : State) (k n v : Nat) : (s.store k n v).pocket = s.pocket := rfl
@[simp] theorem State.store_safeJobs (s : State) (k n v : Nat) : (s.store k n v).safeJobs = s.safeJobs := rfl
@[simp] theorem State.store_flits (s : State) (k n v : Nat) : (s.store k n v).flits = s.flits := rfl
@[simp] theorem State.store_journal (s : State) (k n v : Nat) : (s.store k n v).journal = s.journal := rfl
@[simp] theorem State.store_commits (s : State) (k n v : Nat) : (s.store k n v).commits = s.commits := rfl
@[simp] theorem State.store_regions (s : State) (k n v : Nat) : (s.store k n v).regions = s.regions := rfl
@[simp] theorem State.rd_store (s : State) (k n v : Nat) (g : Field) (d' i' j' : Nat) : (s.store k n v).rd g d' i' j' = s.rd g d' i' j' := rfl
@[simp] theorem State.rdb_store (s : State) (k n v : Nat) (g : Field) (d' i' j' : Nat) : (s.store k n v).rdb g d' i' j' = s.rdb g d' i' j' := rfl
@[simp] theorem State.ax_store (s : State) (k n v : Nat) (g : Aux) (d' i' j' : Nat) : (s.store k n v).ax g d' i' j' = s.ax g d' i' j' := rfl

/-! After `setQp` -/

@[simp] theorem State.setQp_part (s : State) (q : Nat) (v : Option QpSt) : (s.setQp q v).part = s.part := rfl
@[simp] theorem State.setQp_pending (s : State) (q : Nat) (v : Option QpSt) : (s.setQp q v).pending = s.pending := rfl
@[simp] theorem State.setQp_fld (s : State) (q : Nat) (v : Option QpSt) : (s.setQp q v).fld = s.fld := rfl
@[simp] theorem State.setQp_aux (s : State) (q : Nat) (v : Option QpSt) : (s.setQp q v).aux = s.aux := rfl
@[simp] theorem State.setQp_hold (s : State) (q : Nat) (v : Option QpSt) : (s.setQp q v).hold = s.hold := rfl
@[simp] theorem State.setQp_latch (s : State) (q : Nat) (v : Option QpSt) : (s.setQp q v).latch = s.latch := rfl
@[simp] theorem State.setQp_mem (s : State) (q : Nat) (v : Option QpSt) : (s.setQp q v).mem = s.mem := rfl
@[simp] theorem State.setQp_poison (s : State) (q : Nat) (v : Option QpSt) : (s.setQp q v).poison = s.poison := rfl
@[simp] theorem State.setQp_dt (s : State) (q : Nat) (v : Option QpSt) : (s.setQp q v).dt = s.dt := rfl
@[simp] theorem State.setQp_free (s : State) (q : Nat) (v : Option QpSt) : (s.setQp q v).free = s.free := rfl
@[simp] theorem State.setQp_outbox (s : State) (q : Nat) (v : Option QpSt) : (s.setQp q v).outbox = s.outbox := rfl
@[simp] theorem State.setQp_jobs (s : State) (q : Nat) (v : Option QpSt) : (s.setQp q v).jobs = s.jobs := rfl
@[simp] theorem State.setQp_progs (s : State) (q : Nat) (v : Option QpSt) : (s.setQp q v).progs = s.progs := rfl
@[simp] theorem State.setQp_cmds (s : State) (q : Nat) (v : Option QpSt) : (s.setQp q v).cmds = s.cmds := rfl
@[simp] theorem State.setQp_allocs (s : State) (q : Nat) (v : Option QpSt) : (s.setQp q v).allocs = s.allocs := rfl
@[simp] theorem State.setQp_rings (s : State) (q : Nat) (v : Option QpSt) : (s.setQp q v).rings = s.rings := rfl
@[simp] theorem State.setQp_reqs (s : State) (q : Nat) (v : Option QpSt) : (s.setQp q v).reqs = s.reqs := rfl
@[simp] theorem State.setQp_ops (s : State) (q : Nat) (v : Option QpSt) : (s.setQp q v).ops = s.ops := rfl
@[simp] theorem State.setQp_dmas (s : State) (q : Nat) (v : Option QpSt) : (s.setQp q v).dmas = s.dmas := rfl
@[simp] theorem State.setQp_placed (s : State) (q : Nat) (v : Option QpSt) : (s.setQp q v).placed = s.placed := rfl
@[simp] theorem State.setQp_panels (s : State) (q : Nat) (v : Option QpSt) : (s.setQp q v).panels = s.panels := rfl
@[simp] theorem State.setQp_images (s : State) (q : Nat) (v : Option QpSt) : (s.setQp q v).images = s.images := rfl
@[simp] theorem State.setQp_loads (s : State) (q : Nat) (v : Option QpSt) : (s.setQp q v).loads = s.loads := rfl
@[simp] theorem State.setQp_maps (s : State) (q : Nat) (v : Option QpSt) : (s.setQp q v).maps = s.maps := rfl
@[simp] theorem State.setQp_tiles (s : State) (q : Nat) (v : Option QpSt) : (s.setQp q v).tiles = s.tiles := rfl
@[simp] theorem State.setQp_tabs (s : State) (q : Nat) (v : Option QpSt) : (s.setQp q v).tabs = s.tabs := rfl
@[simp] theorem State.setQp_recs (s : State) (q : Nat) (v : Option QpSt) : (s.setQp q v).recs = s.recs := rfl
@[simp] theorem State.setQp_progq (s : State) (q : Nat) (v : Option QpSt) : (s.setQp q v).progq = s.progq := rfl
@[simp] theorem State.setQp_calq (s : State) (q : Nat) (v : Option QpSt) : (s.setQp q v).calq = s.calq := rfl
@[simp] theorem State.setQp_cals (s : State) (q : Nat) (v : Option QpSt) : (s.setQp q v).cals = s.cals := rfl
@[simp] theorem State.setQp_checks (s : State) (q : Nat) (v : Option QpSt) : (s.setQp q v).checks = s.checks := rfl
@[simp] theorem State.setQp_tix (s : State) (q : Nat) (v : Option QpSt) : (s.setQp q v).tix = s.tix := rfl
@[simp] theorem State.setQp_repls (s : State) (q : Nat) (v : Option QpSt) : (s.setQp q v).repls = s.repls := rfl
@[simp] theorem State.setQp_refreshes (s : State) (q : Nat) (v : Option QpSt) : (s.setQp q v).refreshes = s.refreshes := rfl
@[simp] theorem State.setQp_mons (s : State) (q : Nat) (v : Option QpSt) : (s.setQp q v).mons = s.mons := rfl
@[simp] theorem State.setQp_urg (s : State) (q : Nat) (v : Option QpSt) : (s.setQp q v).urg = s.urg := rfl
@[simp] theorem State.setQp_tlms (s : State) (q : Nat) (v : Option QpSt) : (s.setQp q v).tlms = s.tlms := rfl
@[simp] theorem State.setQp_plays (s : State) (q : Nat) (v : Option QpSt) : (s.setQp q v).plays = s.plays := rfl
@[simp] theorem State.setQp_waves (s : State) (q : Nat) (v : Option QpSt) : (s.setQp q v).waves = s.waves := rfl
@[simp] theorem State.setQp_pocket (s : State) (q : Nat) (v : Option QpSt) : (s.setQp q v).pocket = s.pocket := rfl
@[simp] theorem State.setQp_safeJobs (s : State) (q : Nat) (v : Option QpSt) : (s.setQp q v).safeJobs = s.safeJobs := rfl
@[simp] theorem State.setQp_flits (s : State) (q : Nat) (v : Option QpSt) : (s.setQp q v).flits = s.flits := rfl
@[simp] theorem State.setQp_journal (s : State) (q : Nat) (v : Option QpSt) : (s.setQp q v).journal = s.journal := rfl
@[simp] theorem State.setQp_commits (s : State) (q : Nat) (v : Option QpSt) : (s.setQp q v).commits = s.commits := rfl
@[simp] theorem State.setQp_regions (s : State) (q : Nat) (v : Option QpSt) : (s.setQp q v).regions = s.regions := rfl
@[simp] theorem State.rd_setQp (s : State) (q : Nat) (v : Option QpSt) (g : Field) (d' i' j' : Nat) : (s.setQp q v).rd g d' i' j' = s.rd g d' i' j' := rfl
@[simp] theorem State.rdb_setQp (s : State) (q : Nat) (v : Option QpSt) (g : Field) (d' i' j' : Nat) : (s.setQp q v).rdb g d' i' j' = s.rdb g d' i' j' := rfl
@[simp] theorem State.ax_setQp (s : State) (q : Nat) (v : Option QpSt) (g : Aux) (d' i' j' : Nat) : (s.setQp q v).ax g d' i' j' = s.ax g d' i' j' := rfl
@[simp] theorem State.byte_setQp (s : State) (q : Nat) (v : Option QpSt) (k' : Nat) : (s.setQp q v).byte k' = s.byte k' := rfl

/-! After `bump` -/

@[simp] theorem State.bump_part (s : State) (f : Field) (n d i j : Nat) : (s.bump f n d i j).part = s.part := rfl
@[simp] theorem State.bump_pending (s : State) (f : Field) (n d i j : Nat) : (s.bump f n d i j).pending = s.pending := rfl
@[simp] theorem State.bump_aux (s : State) (f : Field) (n d i j : Nat) : (s.bump f n d i j).aux = s.aux := rfl
@[simp] theorem State.bump_hold (s : State) (f : Field) (n d i j : Nat) : (s.bump f n d i j).hold = s.hold := rfl
@[simp] theorem State.bump_latch (s : State) (f : Field) (n d i j : Nat) : (s.bump f n d i j).latch = s.latch := rfl
@[simp] theorem State.bump_mem (s : State) (f : Field) (n d i j : Nat) : (s.bump f n d i j).mem = s.mem := rfl
@[simp] theorem State.bump_poison (s : State) (f : Field) (n d i j : Nat) : (s.bump f n d i j).poison = s.poison := rfl
@[simp] theorem State.bump_dt (s : State) (f : Field) (n d i j : Nat) : (s.bump f n d i j).dt = s.dt := rfl
@[simp] theorem State.bump_free (s : State) (f : Field) (n d i j : Nat) : (s.bump f n d i j).free = s.free := rfl
@[simp] theorem State.bump_outbox (s : State) (f : Field) (n d i j : Nat) : (s.bump f n d i j).outbox = s.outbox := rfl
@[simp] theorem State.bump_jobs (s : State) (f : Field) (n d i j : Nat) : (s.bump f n d i j).jobs = s.jobs := rfl
@[simp] theorem State.bump_progs (s : State) (f : Field) (n d i j : Nat) : (s.bump f n d i j).progs = s.progs := rfl
@[simp] theorem State.bump_cmds (s : State) (f : Field) (n d i j : Nat) : (s.bump f n d i j).cmds = s.cmds := rfl
@[simp] theorem State.bump_qps (s : State) (f : Field) (n d i j : Nat) : (s.bump f n d i j).qps = s.qps := rfl
@[simp] theorem State.bump_allocs (s : State) (f : Field) (n d i j : Nat) : (s.bump f n d i j).allocs = s.allocs := rfl
@[simp] theorem State.bump_rings (s : State) (f : Field) (n d i j : Nat) : (s.bump f n d i j).rings = s.rings := rfl
@[simp] theorem State.bump_reqs (s : State) (f : Field) (n d i j : Nat) : (s.bump f n d i j).reqs = s.reqs := rfl
@[simp] theorem State.bump_ops (s : State) (f : Field) (n d i j : Nat) : (s.bump f n d i j).ops = s.ops := rfl
@[simp] theorem State.bump_dmas (s : State) (f : Field) (n d i j : Nat) : (s.bump f n d i j).dmas = s.dmas := rfl
@[simp] theorem State.bump_placed (s : State) (f : Field) (n d i j : Nat) : (s.bump f n d i j).placed = s.placed := rfl
@[simp] theorem State.bump_panels (s : State) (f : Field) (n d i j : Nat) : (s.bump f n d i j).panels = s.panels := rfl
@[simp] theorem State.bump_images (s : State) (f : Field) (n d i j : Nat) : (s.bump f n d i j).images = s.images := rfl
@[simp] theorem State.bump_loads (s : State) (f : Field) (n d i j : Nat) : (s.bump f n d i j).loads = s.loads := rfl
@[simp] theorem State.bump_maps (s : State) (f : Field) (n d i j : Nat) : (s.bump f n d i j).maps = s.maps := rfl
@[simp] theorem State.bump_tiles (s : State) (f : Field) (n d i j : Nat) : (s.bump f n d i j).tiles = s.tiles := rfl
@[simp] theorem State.bump_tabs (s : State) (f : Field) (n d i j : Nat) : (s.bump f n d i j).tabs = s.tabs := rfl
@[simp] theorem State.bump_recs (s : State) (f : Field) (n d i j : Nat) : (s.bump f n d i j).recs = s.recs := rfl
@[simp] theorem State.bump_progq (s : State) (f : Field) (n d i j : Nat) : (s.bump f n d i j).progq = s.progq := rfl
@[simp] theorem State.bump_calq (s : State) (f : Field) (n d i j : Nat) : (s.bump f n d i j).calq = s.calq := rfl
@[simp] theorem State.bump_cals (s : State) (f : Field) (n d i j : Nat) : (s.bump f n d i j).cals = s.cals := rfl
@[simp] theorem State.bump_checks (s : State) (f : Field) (n d i j : Nat) : (s.bump f n d i j).checks = s.checks := rfl
@[simp] theorem State.bump_tix (s : State) (f : Field) (n d i j : Nat) : (s.bump f n d i j).tix = s.tix := rfl
@[simp] theorem State.bump_repls (s : State) (f : Field) (n d i j : Nat) : (s.bump f n d i j).repls = s.repls := rfl
@[simp] theorem State.bump_refreshes (s : State) (f : Field) (n d i j : Nat) : (s.bump f n d i j).refreshes = s.refreshes := rfl
@[simp] theorem State.bump_mons (s : State) (f : Field) (n d i j : Nat) : (s.bump f n d i j).mons = s.mons := rfl
@[simp] theorem State.bump_urg (s : State) (f : Field) (n d i j : Nat) : (s.bump f n d i j).urg = s.urg := rfl
@[simp] theorem State.bump_tlms (s : State) (f : Field) (n d i j : Nat) : (s.bump f n d i j).tlms = s.tlms := rfl
@[simp] theorem State.bump_plays (s : State) (f : Field) (n d i j : Nat) : (s.bump f n d i j).plays = s.plays := rfl
@[simp] theorem State.bump_waves (s : State) (f : Field) (n d i j : Nat) : (s.bump f n d i j).waves = s.waves := rfl
@[simp] theorem State.bump_pocket (s : State) (f : Field) (n d i j : Nat) : (s.bump f n d i j).pocket = s.pocket := rfl
@[simp] theorem State.bump_safeJobs (s : State) (f : Field) (n d i j : Nat) : (s.bump f n d i j).safeJobs = s.safeJobs := rfl
@[simp] theorem State.bump_flits (s : State) (f : Field) (n d i j : Nat) : (s.bump f n d i j).flits = s.flits := rfl
@[simp] theorem State.bump_journal (s : State) (f : Field) (n d i j : Nat) : (s.bump f n d i j).journal = s.journal := rfl
@[simp] theorem State.bump_commits (s : State) (f : Field) (n d i j : Nat) : (s.bump f n d i j).commits = s.commits := rfl
@[simp] theorem State.bump_regions (s : State) (f : Field) (n d i j : Nat) : (s.bump f n d i j).regions = s.regions := rfl
@[simp] theorem State.ax_bump (s : State) (f : Field) (n d i j : Nat) (g : Aux) (d' i' j' : Nat) : (s.bump f n d i j).ax g d' i' j' = s.ax g d' i' j' := rfl
@[simp] theorem State.byte_bump (s : State) (f : Field) (n d i j : Nat) (k' : Nat) : (s.bump f n d i j).byte k' = s.byte k' := rfl

/-- A counter after a bump. -/
theorem State.rd_bump (s : State) (f g : Field) (n d i j d' i' j' : Nat) :
    (s.bump f n d i j).rd g d' i' j' =
      if g = f ∧ d' = d ∧ i' = i ∧ j' = j then satAdd f.width (s.rd f d i j) n % 2 ^ f.width else s.rd g d' i' j' :=
  State.rd_wr ..

theorem State.rd_bump_field (s : State) {f g : Field} (h : g ≠ f) (n d i j d' i' j' : Nat) :
    (s.bump f n d i j).rd g d' i' j' = s.rd g d' i' j' := State.rd_wr_field s h ..

@[simp] theorem State.each_nil (s : State) (f : State → α → State) : s.each [] f = s := rfl
@[simp] theorem State.each_cons (s : State) (x : α) (l : List α) (f : State → α → State) :
    s.each (x :: l) f = (f s x).each l f := rfl
@[simp] theorem State.when_true (s : State) (f : State → State) : s.when true f = f s := rfl
@[simp] theorem State.when_false (s : State) (f : State → State) : s.when false f = s := rfl

/-! ## Memory -/

theorem storeBytes_other (m : SMap Byte) (k : Nat) (l : List Byte) {k' : Nat} (h : k' < k ∨ k + l.length ≤ k') :
    (storeBytes m k l).get 0 k' = m.get 0 k' := by
  induction l generalizing m k with
  | nil => rfl
  | cons b t ih =>
    simp only [storeBytes, List.length_cons] at h ⊢
    rw [ih _ _ (by omega), SMap.get_set_ne _ _ _ _ (by omega)]

theorem storeBytes_at (m : SMap Byte) (k : Nat) (l : List Byte) {i : Nat} (h : i < l.length) :
    (storeBytes m k l).get 0 (k + i) = l[i] := by
  induction l generalizing m k i with
  | nil => simp at h
  | cons b t ih =>
    cases i with
    | zero =>
      simp only [storeBytes, Nat.add_zero, List.getElem_cons_zero]
      rw [storeBytes_other _ _ _ (by omega)]
      exact SMap.get_set_same _ _ _ _
    | succ i =>
      simp only [storeBytes, List.getElem_cons_succ]
      have := ih (m.set 0 k b) (k + 1) (i := i) (by simpa using h)
      rwa [show k + (i + 1) = k + 1 + i by omega]

@[simp] theorem leBytes_length (n v : Nat) : (leBytes n v).length = n := by
  induction n generalizing v with
  | zero => rfl
  | succ n ih => simp [leBytes, ih]

/-- A store leaves every byte outside the stored ones alone. -/
theorem State.byte_store_other (s : State) (k n v : Nat) {k' : Nat} (h : k' < k ∨ k + n ≤ k') :
    (s.store k n v).byte k' = s.byte k' := storeBytes_other _ _ _ (by simpa using h)

/-! ## Event records: what they leave alone -/

/-- Fields that the writing of event records changes (R415, R416). -/
def evField (f : Field) : Bool := f == .EVR_TAIL_COUNT || f == .EVR_OVF_COUNT || f == .MSIX_PBA_PEND

/-- From `a` to `t` only event records have been written or dropped: rings, host memory, messages, and the fields `evField`. -/
structure State.EvOnly (a t : State) : Prop where
  rd : ∀ f, evField f = false → ∀ d i j, t.rd f d i j = a.rd f d i j
  byte : ∀ k, k < 2 ^ 64 → t.byte k = a.byte k
  part : t.part = a.part
  pending : t.pending = a.pending
  aux : t.aux = a.aux
  hold : t.hold = a.hold
  latch : t.latch = a.latch
  poison : t.poison = a.poison
  dt : t.dt = a.dt
  free : t.free = a.free
  jobs : t.jobs = a.jobs
  progs : t.progs = a.progs
  cmds : t.cmds = a.cmds
  qps : t.qps = a.qps
  allocs : t.allocs = a.allocs
  reqs : t.reqs = a.reqs
  ops : t.ops = a.ops
  dmas : t.dmas = a.dmas
  placed : t.placed = a.placed
  panels : t.panels = a.panels
  images : t.images = a.images
  loads : t.loads = a.loads
  maps : t.maps = a.maps
  tiles : t.tiles = a.tiles
  tabs : t.tabs = a.tabs
  recs : t.recs = a.recs
  progq : t.progq = a.progq
  calq : t.calq = a.calq
  cals : t.cals = a.cals
  checks : t.checks = a.checks
  tix : t.tix = a.tix
  repls : t.repls = a.repls
  refreshes : t.refreshes = a.refreshes
  mons : t.mons = a.mons
  urg : t.urg = a.urg
  tlms : t.tlms = a.tlms
  plays : t.plays = a.plays
  waves : t.waves = a.waves
  pocket : t.pocket = a.pocket
  safeJobs : t.safeJobs = a.safeJobs
  flits : t.flits = a.flits
  journal : t.journal = a.journal
  commits : t.commits = a.commits
  regions : t.regions = a.regions

theorem State.EvOnly.refl (a : State) : a.EvOnly a := by
  constructor <;> intros <;> rfl

theorem State.EvOnly.trans {a b c : State} (h : a.EvOnly b) (k : b.EvOnly c) : a.EvOnly c := by
  constructor
  · intro f hf d i j
    rw [k.rd f hf, h.rd f hf]
  · intro x hx
    rw [k.byte x hx, h.byte x hx]
  · exact k.part.trans h.part
  · exact k.pending.trans h.pending
  · exact k.aux.trans h.aux
  · exact k.hold.trans h.hold
  · exact k.latch.trans h.latch
  · exact k.poison.trans h.poison
  · exact k.dt.trans h.dt
  · exact k.free.trans h.free
  · exact k.jobs.trans h.jobs
  · exact k.progs.trans h.progs
  · exact k.cmds.trans h.cmds
  · exact k.qps.trans h.qps
  · exact k.allocs.trans h.allocs
  · exact k.reqs.trans h.reqs
  · exact k.ops.trans h.ops
  · exact k.dmas.trans h.dmas
  · exact k.placed.trans h.placed
  · exact k.panels.trans h.panels
  · exact k.images.trans h.images
  · exact k.loads.trans h.loads
  · exact k.maps.trans h.maps
  · exact k.tiles.trans h.tiles
  · exact k.tabs.trans h.tabs
  · exact k.recs.trans h.recs
  · exact k.progq.trans h.progq
  · exact k.calq.trans h.calq
  · exact k.cals.trans h.cals
  · exact k.checks.trans h.checks
  · exact k.tix.trans h.tix
  · exact k.repls.trans h.repls
  · exact k.refreshes.trans h.refreshes
  · exact k.mons.trans h.mons
  · exact k.urg.trans h.urg
  · exact k.tlms.trans h.tlms
  · exact k.plays.trans h.plays
  · exact k.waves.trans h.waves
  · exact k.pocket.trans h.pocket
  · exact k.safeJobs.trans h.safeJobs
  · exact k.flits.trans h.flits
  · exact k.journal.trans h.journal
  · exact k.commits.trans h.commits
  · exact k.regions.trans h.regions

theorem State.EvOnly.wr {a t : State} (h : a.EvOnly t) {f : Field} (hf : evField f = true) (v d i j : Nat) :
    a.EvOnly (t.wr f v d i j) := by
  refine h.trans ?_
  constructor
  · intro g hg d' i' j'
    exact State.rd_wr_field t (by rintro rfl; simp [hf] at hg) ..
  all_goals intros; rfl

theorem State.EvOnly.setRing {a t : State} (h : a.EvOnly t) (fn : Nat) (r : Ring) : a.EvOnly (t.setRing fn r) := by
  refine h.trans ?_
  constructor <;> intros <;> rfl

theorem State.EvOnly.emit {a t : State} (h : a.EvOnly t) (o : Out) : a.EvOnly (t.emit o) := by
  refine h.trans ?_
  constructor <;> intros <;> rfl

theorem State.EvOnly.store {a t : State} (h : a.EvOnly t) (fn x n v : Nat) : a.EvOnly (t.store (hostKey fn x) n v) := by
  refine h.trans ?_
  constructor
  · intros; rfl
  · intro k hk
    refine State.byte_store_other _ _ _ _ (Or.inl ?_)
    unfold hostKey
    omega
  all_goals rfl

theorem State.sendMsix_evOnly {a s : State} (h : a.EvOnly s) (fn vec : Nat) : a.EvOnly (s.sendMsix fn vec) := by
  unfold State.sendMsix
  dsimp only
  split
  · exact h.setRing ..
  · split
    · exact (h.setRing ..).wr rfl ..
    · exact (h.setRing ..).emit _

theorem State.announce_evOnly {a s : State} (h : a.EvOnly s) (fn vec sev : Nat) : a.EvOnly (s.announce fn vec sev) := by
  unfold State.announce
  dsimp only
  split
  · exact State.sendMsix_evOnly h ..
  · exact h.setRing ..

theorem State.writeRecord_evOnly {a s : State} (h : a.EvOnly s) (fn type die sev vec payload time : Nat) :
    a.EvOnly (s.writeRecord fn type die sev vec payload time) :=
  State.announce_evOnly ((h.store ..).wr rfl ..) ..

theorem State.flushOverflow_evOnly {a s : State} (h : a.EvOnly s) (fn : Nat) : a.EvOnly (s.flushOverflow fn) := by
  unfold State.flushOverflow
  dsimp only
  split
  · exact h
  · exact State.writeRecord_evOnly (h.setRing ..) ..

theorem State.dropRecord_evOnly {a s : State} (h : a.EvOnly s) (fn : Nat) : a.EvOnly (s.dropRecord fn) :=
  State.flushOverflow_evOnly (State.EvOnly.setRing (h.wr rfl ..) ..) ..

theorem State.post_evOnly {a s : State} (h : a.EvOnly s) (fn type die sev vec payload : Nat) :
    a.EvOnly (s.post fn type die sev vec payload) := by
  unfold State.post
  dsimp only
  split
  · exact h.wr rfl ..
  · split
    · exact State.writeRecord_evOnly h ..
    · split
      · split
        · exact h.setRing ..
        · split
          · exact h.setRing ..
          · exact State.dropRecord_evOnly h ..
      · split
        · exact State.writeRecord_evOnly h ..
        · exact State.dropRecord_evOnly h ..

theorem State.event_evOnly {a s : State} (h : a.EvOnly s) (type die sev payload : Nat) : a.EvOnly (s.event type die sev payload) :=
  State.post_evOnly h ..

theorem State.tenancy_evOnly {a s : State} (h : a.EvOnly s) (fn type sev payload : Nat) : a.EvOnly (s.tenancy fn type sev payload) := by
  unfold State.tenancy
  dsimp only
  split
  · exact State.post_evOnly h ..
  · exact State.post_evOnly (State.post_evOnly h ..) ..

/-! After `post` -/

@[simp] theorem State.rd_post (s : State) (fn type die sev vec payload : Nat) {f : Field} (h : evField f = false) (d i j : Nat) :
    (s.post fn type die sev vec payload).rd f d i j = s.rd f d i j := (State.post_evOnly (.refl s) fn type die sev vec payload).rd f h d i j
@[simp] theorem State.rdb_post (s : State) (fn type die sev vec payload : Nat) {f : Field} (h : evField f = false) (d i j : Nat) :
    (s.post fn type die sev vec payload).rdb f d i j = s.rdb f d i j := by simp only [State.rdb, State.rd_post s fn type die sev vec payload h]
@[simp] theorem State.ax_post (s : State) (fn type die sev vec payload : Nat) (x : Aux) (d i j : Nat) : (s.post fn type die sev vec payload).ax x d i j = s.ax x d i j := by
  simp only [State.ax, (State.post_evOnly (.refl s) fn type die sev vec payload).aux]
@[simp] theorem State.post_part (s : State) (fn type die sev vec payload : Nat) : (s.post fn type die sev vec payload).part = s.part :=
  (State.post_evOnly (.refl s) fn type die sev vec payload).part
@[simp] theorem State.post_pending (s : State) (fn type die sev vec payload : Nat) : (s.post fn type die sev vec payload).pending = s.pending :=
  (State.post_evOnly (.refl s) fn type die sev vec payload).pending
@[simp] theorem State.post_aux (s : State) (fn type die sev vec payload : Nat) : (s.post fn type die sev vec payload).aux = s.aux :=
  (State.post_evOnly (.refl s) fn type die sev vec payload).aux
@[simp] theorem State.post_hold (s : State) (fn type die sev vec payload : Nat) : (s.post fn type die sev vec payload).hold = s.hold :=
  (State.post_evOnly (.refl s) fn type die sev vec payload).hold
@[simp] theorem State.post_latch (s : State) (fn type die sev vec payload : Nat) : (s.post fn type die sev vec payload).latch = s.latch :=
  (State.post_evOnly (.refl s) fn type die sev vec payload).latch
@[simp] theorem State.post_poison (s : State) (fn type die sev vec payload : Nat) : (s.post fn type die sev vec payload).poison = s.poison :=
  (State.post_evOnly (.refl s) fn type die sev vec payload).poison
@[simp] theorem State.post_dt (s : State) (fn type die sev vec payload : Nat) : (s.post fn type die sev vec payload).dt = s.dt :=
  (State.post_evOnly (.refl s) fn type die sev vec payload).dt
@[simp] theorem State.post_free (s : State) (fn type die sev vec payload : Nat) : (s.post fn type die sev vec payload).free = s.free :=
  (State.post_evOnly (.refl s) fn type die sev vec payload).free
@[simp] theorem State.post_jobs (s : State) (fn type die sev vec payload : Nat) : (s.post fn type die sev vec payload).jobs = s.jobs :=
  (State.post_evOnly (.refl s) fn type die sev vec payload).jobs
@[simp] theorem State.post_progs (s : State) (fn type die sev vec payload : Nat) : (s.post fn type die sev vec payload).progs = s.progs :=
  (State.post_evOnly (.refl s) fn type die sev vec payload).progs
@[simp] theorem State.post_cmds (s : State) (fn type die sev vec payload : Nat) : (s.post fn type die sev vec payload).cmds = s.cmds :=
  (State.post_evOnly (.refl s) fn type die sev vec payload).cmds
@[simp] theorem State.post_qps (s : State) (fn type die sev vec payload : Nat) : (s.post fn type die sev vec payload).qps = s.qps :=
  (State.post_evOnly (.refl s) fn type die sev vec payload).qps
@[simp] theorem State.post_allocs (s : State) (fn type die sev vec payload : Nat) : (s.post fn type die sev vec payload).allocs = s.allocs :=
  (State.post_evOnly (.refl s) fn type die sev vec payload).allocs
@[simp] theorem State.post_reqs (s : State) (fn type die sev vec payload : Nat) : (s.post fn type die sev vec payload).reqs = s.reqs :=
  (State.post_evOnly (.refl s) fn type die sev vec payload).reqs
@[simp] theorem State.post_ops (s : State) (fn type die sev vec payload : Nat) : (s.post fn type die sev vec payload).ops = s.ops :=
  (State.post_evOnly (.refl s) fn type die sev vec payload).ops
@[simp] theorem State.post_dmas (s : State) (fn type die sev vec payload : Nat) : (s.post fn type die sev vec payload).dmas = s.dmas :=
  (State.post_evOnly (.refl s) fn type die sev vec payload).dmas
@[simp] theorem State.post_placed (s : State) (fn type die sev vec payload : Nat) : (s.post fn type die sev vec payload).placed = s.placed :=
  (State.post_evOnly (.refl s) fn type die sev vec payload).placed
@[simp] theorem State.post_panels (s : State) (fn type die sev vec payload : Nat) : (s.post fn type die sev vec payload).panels = s.panels :=
  (State.post_evOnly (.refl s) fn type die sev vec payload).panels
@[simp] theorem State.post_images (s : State) (fn type die sev vec payload : Nat) : (s.post fn type die sev vec payload).images = s.images :=
  (State.post_evOnly (.refl s) fn type die sev vec payload).images
@[simp] theorem State.post_loads (s : State) (fn type die sev vec payload : Nat) : (s.post fn type die sev vec payload).loads = s.loads :=
  (State.post_evOnly (.refl s) fn type die sev vec payload).loads
@[simp] theorem State.post_maps (s : State) (fn type die sev vec payload : Nat) : (s.post fn type die sev vec payload).maps = s.maps :=
  (State.post_evOnly (.refl s) fn type die sev vec payload).maps
@[simp] theorem State.post_tiles (s : State) (fn type die sev vec payload : Nat) : (s.post fn type die sev vec payload).tiles = s.tiles :=
  (State.post_evOnly (.refl s) fn type die sev vec payload).tiles
@[simp] theorem State.post_tabs (s : State) (fn type die sev vec payload : Nat) : (s.post fn type die sev vec payload).tabs = s.tabs :=
  (State.post_evOnly (.refl s) fn type die sev vec payload).tabs
@[simp] theorem State.post_recs (s : State) (fn type die sev vec payload : Nat) : (s.post fn type die sev vec payload).recs = s.recs :=
  (State.post_evOnly (.refl s) fn type die sev vec payload).recs
@[simp] theorem State.post_progq (s : State) (fn type die sev vec payload : Nat) : (s.post fn type die sev vec payload).progq = s.progq :=
  (State.post_evOnly (.refl s) fn type die sev vec payload).progq
@[simp] theorem State.post_calq (s : State) (fn type die sev vec payload : Nat) : (s.post fn type die sev vec payload).calq = s.calq :=
  (State.post_evOnly (.refl s) fn type die sev vec payload).calq
@[simp] theorem State.post_cals (s : State) (fn type die sev vec payload : Nat) : (s.post fn type die sev vec payload).cals = s.cals :=
  (State.post_evOnly (.refl s) fn type die sev vec payload).cals
@[simp] theorem State.post_checks (s : State) (fn type die sev vec payload : Nat) : (s.post fn type die sev vec payload).checks = s.checks :=
  (State.post_evOnly (.refl s) fn type die sev vec payload).checks
@[simp] theorem State.post_tix (s : State) (fn type die sev vec payload : Nat) : (s.post fn type die sev vec payload).tix = s.tix :=
  (State.post_evOnly (.refl s) fn type die sev vec payload).tix
@[simp] theorem State.post_repls (s : State) (fn type die sev vec payload : Nat) : (s.post fn type die sev vec payload).repls = s.repls :=
  (State.post_evOnly (.refl s) fn type die sev vec payload).repls
@[simp] theorem State.post_refreshes (s : State) (fn type die sev vec payload : Nat) : (s.post fn type die sev vec payload).refreshes = s.refreshes :=
  (State.post_evOnly (.refl s) fn type die sev vec payload).refreshes
@[simp] theorem State.post_mons (s : State) (fn type die sev vec payload : Nat) : (s.post fn type die sev vec payload).mons = s.mons :=
  (State.post_evOnly (.refl s) fn type die sev vec payload).mons
@[simp] theorem State.post_urg (s : State) (fn type die sev vec payload : Nat) : (s.post fn type die sev vec payload).urg = s.urg :=
  (State.post_evOnly (.refl s) fn type die sev vec payload).urg
@[simp] theorem State.post_tlms (s : State) (fn type die sev vec payload : Nat) : (s.post fn type die sev vec payload).tlms = s.tlms :=
  (State.post_evOnly (.refl s) fn type die sev vec payload).tlms
@[simp] theorem State.post_plays (s : State) (fn type die sev vec payload : Nat) : (s.post fn type die sev vec payload).plays = s.plays :=
  (State.post_evOnly (.refl s) fn type die sev vec payload).plays
@[simp] theorem State.post_waves (s : State) (fn type die sev vec payload : Nat) : (s.post fn type die sev vec payload).waves = s.waves :=
  (State.post_evOnly (.refl s) fn type die sev vec payload).waves
@[simp] theorem State.post_pocket (s : State) (fn type die sev vec payload : Nat) : (s.post fn type die sev vec payload).pocket = s.pocket :=
  (State.post_evOnly (.refl s) fn type die sev vec payload).pocket
@[simp] theorem State.post_safeJobs (s : State) (fn type die sev vec payload : Nat) : (s.post fn type die sev vec payload).safeJobs = s.safeJobs :=
  (State.post_evOnly (.refl s) fn type die sev vec payload).safeJobs
@[simp] theorem State.post_flits (s : State) (fn type die sev vec payload : Nat) : (s.post fn type die sev vec payload).flits = s.flits :=
  (State.post_evOnly (.refl s) fn type die sev vec payload).flits
@[simp] theorem State.post_journal (s : State) (fn type die sev vec payload : Nat) : (s.post fn type die sev vec payload).journal = s.journal :=
  (State.post_evOnly (.refl s) fn type die sev vec payload).journal
@[simp] theorem State.post_commits (s : State) (fn type die sev vec payload : Nat) : (s.post fn type die sev vec payload).commits = s.commits :=
  (State.post_evOnly (.refl s) fn type die sev vec payload).commits
@[simp] theorem State.post_regions (s : State) (fn type die sev vec payload : Nat) : (s.post fn type die sev vec payload).regions = s.regions :=
  (State.post_evOnly (.refl s) fn type die sev vec payload).regions

/-! After `event` -/

@[simp] theorem State.rd_event (s : State) (type die sev payload : Nat) {f : Field} (h : evField f = false) (d i j : Nat) :
    (s.event type die sev payload).rd f d i j = s.rd f d i j := (State.event_evOnly (.refl s) type die sev payload).rd f h d i j
@[simp] theorem State.rdb_event (s : State) (type die sev payload : Nat) {f : Field} (h : evField f = false) (d i j : Nat) :
    (s.event type die sev payload).rdb f d i j = s.rdb f d i j := by simp only [State.rdb, State.rd_event s type die sev payload h]
@[simp] theorem State.ax_event (s : State) (type die sev payload : Nat) (x : Aux) (d i j : Nat) : (s.event type die sev payload).ax x d i j = s.ax x d i j := by
  simp only [State.ax, (State.event_evOnly (.refl s) type die sev payload).aux]
@[simp] theorem State.event_part (s : State) (type die sev payload : Nat) : (s.event type die sev payload).part = s.part :=
  (State.event_evOnly (.refl s) type die sev payload).part
@[simp] theorem State.event_pending (s : State) (type die sev payload : Nat) : (s.event type die sev payload).pending = s.pending :=
  (State.event_evOnly (.refl s) type die sev payload).pending
@[simp] theorem State.event_aux (s : State) (type die sev payload : Nat) : (s.event type die sev payload).aux = s.aux :=
  (State.event_evOnly (.refl s) type die sev payload).aux
@[simp] theorem State.event_hold (s : State) (type die sev payload : Nat) : (s.event type die sev payload).hold = s.hold :=
  (State.event_evOnly (.refl s) type die sev payload).hold
@[simp] theorem State.event_latch (s : State) (type die sev payload : Nat) : (s.event type die sev payload).latch = s.latch :=
  (State.event_evOnly (.refl s) type die sev payload).latch
@[simp] theorem State.event_poison (s : State) (type die sev payload : Nat) : (s.event type die sev payload).poison = s.poison :=
  (State.event_evOnly (.refl s) type die sev payload).poison
@[simp] theorem State.event_dt (s : State) (type die sev payload : Nat) : (s.event type die sev payload).dt = s.dt :=
  (State.event_evOnly (.refl s) type die sev payload).dt
@[simp] theorem State.event_free (s : State) (type die sev payload : Nat) : (s.event type die sev payload).free = s.free :=
  (State.event_evOnly (.refl s) type die sev payload).free
@[simp] theorem State.event_jobs (s : State) (type die sev payload : Nat) : (s.event type die sev payload).jobs = s.jobs :=
  (State.event_evOnly (.refl s) type die sev payload).jobs
@[simp] theorem State.event_progs (s : State) (type die sev payload : Nat) : (s.event type die sev payload).progs = s.progs :=
  (State.event_evOnly (.refl s) type die sev payload).progs
@[simp] theorem State.event_cmds (s : State) (type die sev payload : Nat) : (s.event type die sev payload).cmds = s.cmds :=
  (State.event_evOnly (.refl s) type die sev payload).cmds
@[simp] theorem State.event_qps (s : State) (type die sev payload : Nat) : (s.event type die sev payload).qps = s.qps :=
  (State.event_evOnly (.refl s) type die sev payload).qps
@[simp] theorem State.event_allocs (s : State) (type die sev payload : Nat) : (s.event type die sev payload).allocs = s.allocs :=
  (State.event_evOnly (.refl s) type die sev payload).allocs
@[simp] theorem State.event_reqs (s : State) (type die sev payload : Nat) : (s.event type die sev payload).reqs = s.reqs :=
  (State.event_evOnly (.refl s) type die sev payload).reqs
@[simp] theorem State.event_ops (s : State) (type die sev payload : Nat) : (s.event type die sev payload).ops = s.ops :=
  (State.event_evOnly (.refl s) type die sev payload).ops
@[simp] theorem State.event_dmas (s : State) (type die sev payload : Nat) : (s.event type die sev payload).dmas = s.dmas :=
  (State.event_evOnly (.refl s) type die sev payload).dmas
@[simp] theorem State.event_placed (s : State) (type die sev payload : Nat) : (s.event type die sev payload).placed = s.placed :=
  (State.event_evOnly (.refl s) type die sev payload).placed
@[simp] theorem State.event_panels (s : State) (type die sev payload : Nat) : (s.event type die sev payload).panels = s.panels :=
  (State.event_evOnly (.refl s) type die sev payload).panels
@[simp] theorem State.event_images (s : State) (type die sev payload : Nat) : (s.event type die sev payload).images = s.images :=
  (State.event_evOnly (.refl s) type die sev payload).images
@[simp] theorem State.event_loads (s : State) (type die sev payload : Nat) : (s.event type die sev payload).loads = s.loads :=
  (State.event_evOnly (.refl s) type die sev payload).loads
@[simp] theorem State.event_maps (s : State) (type die sev payload : Nat) : (s.event type die sev payload).maps = s.maps :=
  (State.event_evOnly (.refl s) type die sev payload).maps
@[simp] theorem State.event_tiles (s : State) (type die sev payload : Nat) : (s.event type die sev payload).tiles = s.tiles :=
  (State.event_evOnly (.refl s) type die sev payload).tiles
@[simp] theorem State.event_tabs (s : State) (type die sev payload : Nat) : (s.event type die sev payload).tabs = s.tabs :=
  (State.event_evOnly (.refl s) type die sev payload).tabs
@[simp] theorem State.event_recs (s : State) (type die sev payload : Nat) : (s.event type die sev payload).recs = s.recs :=
  (State.event_evOnly (.refl s) type die sev payload).recs
@[simp] theorem State.event_progq (s : State) (type die sev payload : Nat) : (s.event type die sev payload).progq = s.progq :=
  (State.event_evOnly (.refl s) type die sev payload).progq
@[simp] theorem State.event_calq (s : State) (type die sev payload : Nat) : (s.event type die sev payload).calq = s.calq :=
  (State.event_evOnly (.refl s) type die sev payload).calq
@[simp] theorem State.event_cals (s : State) (type die sev payload : Nat) : (s.event type die sev payload).cals = s.cals :=
  (State.event_evOnly (.refl s) type die sev payload).cals
@[simp] theorem State.event_checks (s : State) (type die sev payload : Nat) : (s.event type die sev payload).checks = s.checks :=
  (State.event_evOnly (.refl s) type die sev payload).checks
@[simp] theorem State.event_tix (s : State) (type die sev payload : Nat) : (s.event type die sev payload).tix = s.tix :=
  (State.event_evOnly (.refl s) type die sev payload).tix
@[simp] theorem State.event_repls (s : State) (type die sev payload : Nat) : (s.event type die sev payload).repls = s.repls :=
  (State.event_evOnly (.refl s) type die sev payload).repls
@[simp] theorem State.event_refreshes (s : State) (type die sev payload : Nat) : (s.event type die sev payload).refreshes = s.refreshes :=
  (State.event_evOnly (.refl s) type die sev payload).refreshes
@[simp] theorem State.event_mons (s : State) (type die sev payload : Nat) : (s.event type die sev payload).mons = s.mons :=
  (State.event_evOnly (.refl s) type die sev payload).mons
@[simp] theorem State.event_urg (s : State) (type die sev payload : Nat) : (s.event type die sev payload).urg = s.urg :=
  (State.event_evOnly (.refl s) type die sev payload).urg
@[simp] theorem State.event_tlms (s : State) (type die sev payload : Nat) : (s.event type die sev payload).tlms = s.tlms :=
  (State.event_evOnly (.refl s) type die sev payload).tlms
@[simp] theorem State.event_plays (s : State) (type die sev payload : Nat) : (s.event type die sev payload).plays = s.plays :=
  (State.event_evOnly (.refl s) type die sev payload).plays
@[simp] theorem State.event_waves (s : State) (type die sev payload : Nat) : (s.event type die sev payload).waves = s.waves :=
  (State.event_evOnly (.refl s) type die sev payload).waves
@[simp] theorem State.event_pocket (s : State) (type die sev payload : Nat) : (s.event type die sev payload).pocket = s.pocket :=
  (State.event_evOnly (.refl s) type die sev payload).pocket
@[simp] theorem State.event_safeJobs (s : State) (type die sev payload : Nat) : (s.event type die sev payload).safeJobs = s.safeJobs :=
  (State.event_evOnly (.refl s) type die sev payload).safeJobs
@[simp] theorem State.event_flits (s : State) (type die sev payload : Nat) : (s.event type die sev payload).flits = s.flits :=
  (State.event_evOnly (.refl s) type die sev payload).flits
@[simp] theorem State.event_journal (s : State) (type die sev payload : Nat) : (s.event type die sev payload).journal = s.journal :=
  (State.event_evOnly (.refl s) type die sev payload).journal
@[simp] theorem State.event_commits (s : State) (type die sev payload : Nat) : (s.event type die sev payload).commits = s.commits :=
  (State.event_evOnly (.refl s) type die sev payload).commits
@[simp] theorem State.event_regions (s : State) (type die sev payload : Nat) : (s.event type die sev payload).regions = s.regions :=
  (State.event_evOnly (.refl s) type die sev payload).regions

/-! After `tenancy` -/

@[simp] theorem State.rd_tenancy (s : State) (fn type sev payload : Nat) {f : Field} (h : evField f = false) (d i j : Nat) :
    (s.tenancy fn type sev payload).rd f d i j = s.rd f d i j := (State.tenancy_evOnly (.refl s) fn type sev payload).rd f h d i j
@[simp] theorem State.rdb_tenancy (s : State) (fn type sev payload : Nat) {f : Field} (h : evField f = false) (d i j : Nat) :
    (s.tenancy fn type sev payload).rdb f d i j = s.rdb f d i j := by simp only [State.rdb, State.rd_tenancy s fn type sev payload h]
@[simp] theorem State.ax_tenancy (s : State) (fn type sev payload : Nat) (x : Aux) (d i j : Nat) : (s.tenancy fn type sev payload).ax x d i j = s.ax x d i j := by
  simp only [State.ax, (State.tenancy_evOnly (.refl s) fn type sev payload).aux]
@[simp] theorem State.tenancy_part (s : State) (fn type sev payload : Nat) : (s.tenancy fn type sev payload).part = s.part :=
  (State.tenancy_evOnly (.refl s) fn type sev payload).part
@[simp] theorem State.tenancy_pending (s : State) (fn type sev payload : Nat) : (s.tenancy fn type sev payload).pending = s.pending :=
  (State.tenancy_evOnly (.refl s) fn type sev payload).pending
@[simp] theorem State.tenancy_aux (s : State) (fn type sev payload : Nat) : (s.tenancy fn type sev payload).aux = s.aux :=
  (State.tenancy_evOnly (.refl s) fn type sev payload).aux
@[simp] theorem State.tenancy_hold (s : State) (fn type sev payload : Nat) : (s.tenancy fn type sev payload).hold = s.hold :=
  (State.tenancy_evOnly (.refl s) fn type sev payload).hold
@[simp] theorem State.tenancy_latch (s : State) (fn type sev payload : Nat) : (s.tenancy fn type sev payload).latch = s.latch :=
  (State.tenancy_evOnly (.refl s) fn type sev payload).latch
@[simp] theorem State.tenancy_poison (s : State) (fn type sev payload : Nat) : (s.tenancy fn type sev payload).poison = s.poison :=
  (State.tenancy_evOnly (.refl s) fn type sev payload).poison
@[simp] theorem State.tenancy_dt (s : State) (fn type sev payload : Nat) : (s.tenancy fn type sev payload).dt = s.dt :=
  (State.tenancy_evOnly (.refl s) fn type sev payload).dt
@[simp] theorem State.tenancy_free (s : State) (fn type sev payload : Nat) : (s.tenancy fn type sev payload).free = s.free :=
  (State.tenancy_evOnly (.refl s) fn type sev payload).free
@[simp] theorem State.tenancy_jobs (s : State) (fn type sev payload : Nat) : (s.tenancy fn type sev payload).jobs = s.jobs :=
  (State.tenancy_evOnly (.refl s) fn type sev payload).jobs
@[simp] theorem State.tenancy_progs (s : State) (fn type sev payload : Nat) : (s.tenancy fn type sev payload).progs = s.progs :=
  (State.tenancy_evOnly (.refl s) fn type sev payload).progs
@[simp] theorem State.tenancy_cmds (s : State) (fn type sev payload : Nat) : (s.tenancy fn type sev payload).cmds = s.cmds :=
  (State.tenancy_evOnly (.refl s) fn type sev payload).cmds
@[simp] theorem State.tenancy_qps (s : State) (fn type sev payload : Nat) : (s.tenancy fn type sev payload).qps = s.qps :=
  (State.tenancy_evOnly (.refl s) fn type sev payload).qps
@[simp] theorem State.tenancy_allocs (s : State) (fn type sev payload : Nat) : (s.tenancy fn type sev payload).allocs = s.allocs :=
  (State.tenancy_evOnly (.refl s) fn type sev payload).allocs
@[simp] theorem State.tenancy_reqs (s : State) (fn type sev payload : Nat) : (s.tenancy fn type sev payload).reqs = s.reqs :=
  (State.tenancy_evOnly (.refl s) fn type sev payload).reqs
@[simp] theorem State.tenancy_ops (s : State) (fn type sev payload : Nat) : (s.tenancy fn type sev payload).ops = s.ops :=
  (State.tenancy_evOnly (.refl s) fn type sev payload).ops
@[simp] theorem State.tenancy_dmas (s : State) (fn type sev payload : Nat) : (s.tenancy fn type sev payload).dmas = s.dmas :=
  (State.tenancy_evOnly (.refl s) fn type sev payload).dmas
@[simp] theorem State.tenancy_placed (s : State) (fn type sev payload : Nat) : (s.tenancy fn type sev payload).placed = s.placed :=
  (State.tenancy_evOnly (.refl s) fn type sev payload).placed
@[simp] theorem State.tenancy_panels (s : State) (fn type sev payload : Nat) : (s.tenancy fn type sev payload).panels = s.panels :=
  (State.tenancy_evOnly (.refl s) fn type sev payload).panels
@[simp] theorem State.tenancy_images (s : State) (fn type sev payload : Nat) : (s.tenancy fn type sev payload).images = s.images :=
  (State.tenancy_evOnly (.refl s) fn type sev payload).images
@[simp] theorem State.tenancy_loads (s : State) (fn type sev payload : Nat) : (s.tenancy fn type sev payload).loads = s.loads :=
  (State.tenancy_evOnly (.refl s) fn type sev payload).loads
@[simp] theorem State.tenancy_maps (s : State) (fn type sev payload : Nat) : (s.tenancy fn type sev payload).maps = s.maps :=
  (State.tenancy_evOnly (.refl s) fn type sev payload).maps
@[simp] theorem State.tenancy_tiles (s : State) (fn type sev payload : Nat) : (s.tenancy fn type sev payload).tiles = s.tiles :=
  (State.tenancy_evOnly (.refl s) fn type sev payload).tiles
@[simp] theorem State.tenancy_tabs (s : State) (fn type sev payload : Nat) : (s.tenancy fn type sev payload).tabs = s.tabs :=
  (State.tenancy_evOnly (.refl s) fn type sev payload).tabs
@[simp] theorem State.tenancy_recs (s : State) (fn type sev payload : Nat) : (s.tenancy fn type sev payload).recs = s.recs :=
  (State.tenancy_evOnly (.refl s) fn type sev payload).recs
@[simp] theorem State.tenancy_progq (s : State) (fn type sev payload : Nat) : (s.tenancy fn type sev payload).progq = s.progq :=
  (State.tenancy_evOnly (.refl s) fn type sev payload).progq
@[simp] theorem State.tenancy_calq (s : State) (fn type sev payload : Nat) : (s.tenancy fn type sev payload).calq = s.calq :=
  (State.tenancy_evOnly (.refl s) fn type sev payload).calq
@[simp] theorem State.tenancy_cals (s : State) (fn type sev payload : Nat) : (s.tenancy fn type sev payload).cals = s.cals :=
  (State.tenancy_evOnly (.refl s) fn type sev payload).cals
@[simp] theorem State.tenancy_checks (s : State) (fn type sev payload : Nat) : (s.tenancy fn type sev payload).checks = s.checks :=
  (State.tenancy_evOnly (.refl s) fn type sev payload).checks
@[simp] theorem State.tenancy_tix (s : State) (fn type sev payload : Nat) : (s.tenancy fn type sev payload).tix = s.tix :=
  (State.tenancy_evOnly (.refl s) fn type sev payload).tix
@[simp] theorem State.tenancy_repls (s : State) (fn type sev payload : Nat) : (s.tenancy fn type sev payload).repls = s.repls :=
  (State.tenancy_evOnly (.refl s) fn type sev payload).repls
@[simp] theorem State.tenancy_refreshes (s : State) (fn type sev payload : Nat) : (s.tenancy fn type sev payload).refreshes = s.refreshes :=
  (State.tenancy_evOnly (.refl s) fn type sev payload).refreshes
@[simp] theorem State.tenancy_mons (s : State) (fn type sev payload : Nat) : (s.tenancy fn type sev payload).mons = s.mons :=
  (State.tenancy_evOnly (.refl s) fn type sev payload).mons
@[simp] theorem State.tenancy_urg (s : State) (fn type sev payload : Nat) : (s.tenancy fn type sev payload).urg = s.urg :=
  (State.tenancy_evOnly (.refl s) fn type sev payload).urg
@[simp] theorem State.tenancy_tlms (s : State) (fn type sev payload : Nat) : (s.tenancy fn type sev payload).tlms = s.tlms :=
  (State.tenancy_evOnly (.refl s) fn type sev payload).tlms
@[simp] theorem State.tenancy_plays (s : State) (fn type sev payload : Nat) : (s.tenancy fn type sev payload).plays = s.plays :=
  (State.tenancy_evOnly (.refl s) fn type sev payload).plays
@[simp] theorem State.tenancy_waves (s : State) (fn type sev payload : Nat) : (s.tenancy fn type sev payload).waves = s.waves :=
  (State.tenancy_evOnly (.refl s) fn type sev payload).waves
@[simp] theorem State.tenancy_pocket (s : State) (fn type sev payload : Nat) : (s.tenancy fn type sev payload).pocket = s.pocket :=
  (State.tenancy_evOnly (.refl s) fn type sev payload).pocket
@[simp] theorem State.tenancy_safeJobs (s : State) (fn type sev payload : Nat) : (s.tenancy fn type sev payload).safeJobs = s.safeJobs :=
  (State.tenancy_evOnly (.refl s) fn type sev payload).safeJobs
@[simp] theorem State.tenancy_flits (s : State) (fn type sev payload : Nat) : (s.tenancy fn type sev payload).flits = s.flits :=
  (State.tenancy_evOnly (.refl s) fn type sev payload).flits
@[simp] theorem State.tenancy_journal (s : State) (fn type sev payload : Nat) : (s.tenancy fn type sev payload).journal = s.journal :=
  (State.tenancy_evOnly (.refl s) fn type sev payload).journal
@[simp] theorem State.tenancy_commits (s : State) (fn type sev payload : Nat) : (s.tenancy fn type sev payload).commits = s.commits :=
  (State.tenancy_evOnly (.refl s) fn type sev payload).commits
@[simp] theorem State.tenancy_regions (s : State) (fn type sev payload : Nat) : (s.tenancy fn type sev payload).regions = s.regions :=
  (State.tenancy_evOnly (.refl s) fn type sev payload).regions

/-! ## Orders -/

/-- An order without a rival stands as it is (R430). -/
theorem State.order_alone (s : State) {o : Order} (h : o.rivals = []) (obj : Nat) (f : State → Master → Nat → State) :
    s.order o obj f = f s o.w.by' o.w.v := by
  simp [State.order, State.arbitrate, h, winner]

/-! ## Completions -/

/-- From `a` to `t` only completions have been posted: the queue pairs' counts, host memory, what event records change, and the flits that report
the pointers of a mirrored function's pair (R440). -/
structure State.CompOnly (a t : State) : Prop where
  rd : ∀ f, evField f = false → ∀ d i j, t.rd f d i j = a.rd f d i j
  byte : ∀ k, k < 2 ^ 64 → t.byte k = a.byte k
  ax : ∀ x, x ≠ .flitSeq → ∀ d i j, t.ax x d i j = a.ax x d i j
  part : t.part = a.part
  pending : t.pending = a.pending
  hold : t.hold = a.hold
  latch : t.latch = a.latch
  poison : t.poison = a.poison
  dt : t.dt = a.dt
  free : t.free = a.free
  jobs : t.jobs = a.jobs
  progs : t.progs = a.progs
  cmds : t.cmds = a.cmds
  allocs : t.allocs = a.allocs
  reqs : t.reqs = a.reqs
  ops : t.ops = a.ops
  dmas : t.dmas = a.dmas
  placed : t.placed = a.placed
  panels : t.panels = a.panels
  images : t.images = a.images
  loads : t.loads = a.loads
  maps : t.maps = a.maps
  tiles : t.tiles = a.tiles
  tabs : t.tabs = a.tabs
  recs : t.recs = a.recs
  progq : t.progq = a.progq
  calq : t.calq = a.calq
  cals : t.cals = a.cals
  checks : t.checks = a.checks
  tix : t.tix = a.tix
  repls : t.repls = a.repls
  refreshes : t.refreshes = a.refreshes
  mons : t.mons = a.mons
  urg : t.urg = a.urg
  tlms : t.tlms = a.tlms
  plays : t.plays = a.plays
  waves : t.waves = a.waves
  pocket : t.pocket = a.pocket
  safeJobs : t.safeJobs = a.safeJobs
  journal : t.journal = a.journal
  commits : t.commits = a.commits
  regions : t.regions = a.regions

theorem State.CompOnly.refl (a : State) : a.CompOnly a := by
  constructor <;> intros <;> rfl

theorem State.CompOnly.ev {a b c : State} (h : a.CompOnly b) (k : b.EvOnly c) : a.CompOnly c := by
  constructor
  · intro f hf d i j
    rw [k.rd f hf, h.rd f hf]
  · intro x hx
    rw [k.byte x hx, h.byte x hx]
  · intro x hx d i j
    exact (congrArg (fun m => m.get 0 (auxKey x d i j)) k.aux).trans (h.ax x hx d i j)
  · exact k.part.trans h.part
  · exact k.pending.trans h.pending
  · exact k.hold.trans h.hold
  · exact k.latch.trans h.latch
  · exact k.poison.trans h.poison
  · exact k.dt.trans h.dt
  · exact k.free.trans h.free
  · exact k.jobs.trans h.jobs
  · exact k.progs.trans h.progs
  · exact k.cmds.trans h.cmds
  · exact k.allocs.trans h.allocs
  · exact k.reqs.trans h.reqs
  · exact k.ops.trans h.ops
  · exact k.dmas.trans h.dmas
  · exact k.placed.trans h.placed
  · exact k.panels.trans h.panels
  · exact k.images.trans h.images
  · exact k.loads.trans h.loads
  · exact k.maps.trans h.maps
  · exact k.tiles.trans h.tiles
  · exact k.tabs.trans h.tabs
  · exact k.recs.trans h.recs
  · exact k.progq.trans h.progq
  · exact k.calq.trans h.calq
  · exact k.cals.trans h.cals
  · exact k.checks.trans h.checks
  · exact k.tix.trans h.tix
  · exact k.repls.trans h.repls
  · exact k.refreshes.trans h.refreshes
  · exact k.mons.trans h.mons
  · exact k.urg.trans h.urg
  · exact k.tlms.trans h.tlms
  · exact k.plays.trans h.plays
  · exact k.waves.trans h.waves
  · exact k.pocket.trans h.pocket
  · exact k.safeJobs.trans h.safeJobs
  · exact k.journal.trans h.journal
  · exact k.commits.trans h.commits
  · exact k.regions.trans h.regions

theorem State.CompOnly.setQp {a t : State} (h : a.CompOnly t) (q : Nat) (v : Option QpSt) : a.CompOnly (t.setQp q v) := by
  constructor
  · exact h.rd
  · exact h.byte
  · exact h.ax
  · exact h.part
  · exact h.pending
  · exact h.hold
  · exact h.latch
  · exact h.poison
  · exact h.dt
  · exact h.free
  · exact h.jobs
  · exact h.progs
  · exact h.cmds
  · exact h.allocs
  · exact h.reqs
  · exact h.ops
  · exact h.dmas
  · exact h.placed
  · exact h.panels
  · exact h.images
  · exact h.loads
  · exact h.maps
  · exact h.tiles
  · exact h.tabs
  · exact h.recs
  · exact h.progq
  · exact h.calq
  · exact h.cals
  · exact h.checks
  · exact h.tix
  · exact h.repls
  · exact h.refreshes
  · exact h.mons
  · exact h.urg
  · exact h.tlms
  · exact h.plays
  · exact h.waves
  · exact h.pocket
  · exact h.safeJobs
  · exact h.journal
  · exact h.commits
  · exact h.regions


theorem State.CompOnly.trans {a b c : State} (h : a.CompOnly b) (k : b.CompOnly c) : a.CompOnly c := by
  constructor
  · intro f hf d i j
    rw [k.rd f hf, h.rd f hf]
  · intro x hx
    rw [k.byte x hx, h.byte x hx]
  · intro x hx d i j
    rw [k.ax x hx, h.ax x hx]
  · exact k.part.trans h.part
  · exact k.pending.trans h.pending
  · exact k.hold.trans h.hold
  · exact k.latch.trans h.latch
  · exact k.poison.trans h.poison
  · exact k.dt.trans h.dt
  · exact k.free.trans h.free
  · exact k.jobs.trans h.jobs
  · exact k.progs.trans h.progs
  · exact k.cmds.trans h.cmds
  · exact k.allocs.trans h.allocs
  · exact k.reqs.trans h.reqs
  · exact k.ops.trans h.ops
  · exact k.dmas.trans h.dmas
  · exact k.placed.trans h.placed
  · exact k.panels.trans h.panels
  · exact k.images.trans h.images
  · exact k.loads.trans h.loads
  · exact k.maps.trans h.maps
  · exact k.tiles.trans h.tiles
  · exact k.tabs.trans h.tabs
  · exact k.recs.trans h.recs
  · exact k.progq.trans h.progq
  · exact k.calq.trans h.calq
  · exact k.cals.trans h.cals
  · exact k.checks.trans h.checks
  · exact k.tix.trans h.tix
  · exact k.repls.trans h.repls
  · exact k.refreshes.trans h.refreshes
  · exact k.mons.trans h.mons
  · exact k.urg.trans h.urg
  · exact k.tlms.trans h.tlms
  · exact k.plays.trans h.plays
  · exact k.waves.trans h.waves
  · exact k.pocket.trans h.pocket
  · exact k.safeJobs.trans h.safeJobs
  · exact k.journal.trans h.journal
  · exact k.commits.trans h.commits
  · exact k.regions.trans h.regions

theorem State.CompOnly.emit {a t : State} (h : a.CompOnly t) (o : Out) : a.CompOnly (t.emit o) := h.ev (State.EvOnly.emit (.refl _) o)

theorem State.pumpFlits_compOnly {a s : State} (h : a.CompOnly s) : a.CompOnly s.pumpFlits := by
  have key : ∀ (l : List Flit) (t : State), a.CompOnly t → a.CompOnly (t.each l State.emitFlit) := by
    intro l
    induction l with
    | nil => exact fun t h => h
    | cons f l ih => exact fun t h => ih _ (h.emit _)
  have h1 := key ((s.flits.take 256).filter (fun f => !f.sent)) s h
  unfold State.pumpFlits
  exact ⟨h1.rd, h1.byte, h1.ax, h1.part, h1.pending, h1.hold, h1.latch, h1.poison, h1.dt, h1.free, h1.jobs, h1.progs, h1.cmds, h1.allocs, h1.reqs, h1.ops, h1.dmas, h1.placed, h1.panels, h1.images, h1.loads, h1.maps, h1.tiles, h1.tabs, h1.recs, h1.progq, h1.calq, h1.cals, h1.checks, h1.tix, h1.repls, h1.refreshes, h1.mons, h1.urg, h1.tlms, h1.plays, h1.waves, h1.pocket, h1.safeJobs, h1.journal, h1.commits, h1.regions⟩

theorem State.sendFlit_compOnly {a s : State} (h : a.CompOnly s) (type payload len : Nat) (last : Bool) :
    a.CompOnly (s.sendFlit type payload len last) := by
  unfold State.sendFlit
  split
  · exact h
  · refine State.pumpFlits_compOnly ⟨h.rd, h.byte, ?_, h.part, h.pending, h.hold, h.latch, h.poison, h.dt, h.free, h.jobs, h.progs, h.cmds, h.allocs, h.reqs, h.ops, h.dmas, h.placed, h.panels, h.images, h.loads, h.maps, h.tiles, h.tabs, h.recs, h.progq, h.calq, h.cals, h.checks, h.tix, h.repls, h.refreshes, h.mons, h.urg, h.tlms, h.plays, h.waves, h.pocket, h.safeJobs, h.journal, h.commits, h.regions⟩
    intro x hx d i j
    have h2 : ∀ v, (s.setAx .flitSeq v).ax x d i j = a.ax x d i j := fun v =>
      (State.ax_setAx ..).trans ((if_neg (fun e => hx e.1)).trans (h.ax x hx d i j))
    exact h2 (s.ax .flitSeq % 2 ^ 16 + 1)

theorem State.sendPieces_compOnly {a s : State} (h : a.CompOnly s) (type : Nat) (l : List Byte) (n : Nat) :
    a.CompOnly (s.sendPieces type l n) := by
  induction n generalizing s l with
  | zero => exact h
  | succ n ih =>
    unfold State.sendPieces
    split
    · exact State.sendFlit_compOnly h ..
    · exact ih (State.sendFlit_compOnly h ..) _

theorem State.sendPointers_compOnly {a s : State} (h : a.CompOnly s) (q : Nat) : a.CompOnly (s.sendPointers q) := by
  unfold State.sendPointers
  split
  · unfold State.mirrorState
    split
    · exact State.sendPieces_compOnly h ..
    · exact h
  · exact h

/-- The posting of a completion (R400). -/
theorem State.complete_compOnly {a s : State} (h : a.CompOnly s) (q cid : Nat) (event : Bool) (vec jobId st fl res lat cause rst : Nat) :
    a.CompOnly (s.complete q cid event vec jobId st fl res lat cause rst) := by
  unfold State.complete
  split
  · exact h
  · dsimp only
    split
    · exact h.setQp ..
    · refine State.sendPointers_compOnly ?_ _
      split
      · exact (State.CompOnly.setQp (h.ev (State.EvOnly.store (.refl _) ..)) ..).ev (State.post_evOnly (.refl _) ..)
      · exact State.CompOnly.setQp (h.ev (State.EvOnly.store (.refl _) ..)) ..

theorem State.complete_rd (s : State) (q cid : Nat) (event : Bool) (vec jobId st fl res lat cause rst : Nat) {f : Field}
    (h : evField f = false) (d i j : Nat) : (s.complete q cid event vec jobId st fl res lat cause rst).rd f d i j = s.rd f d i j :=
  (State.complete_compOnly (.refl s) ..).rd f h d i j

@[simp] theorem State.completeCmd_rd (s : State) (c : Cmd) (st res fl lat : Nat) {f : Field} (h : evField f = false) (d i j : Nat) :
    (s.completeCmd c st res fl lat).rd f d i j = s.rd f d i j := State.complete_rd _ _ _ _ _ _ _ _ _ _ _ _ h _ _ _

@[simp] theorem State.complete_part (s : State) (q cid : Nat) (event : Bool) (vec jobId st fl res lat cause rst : Nat) :
    (s.complete q cid event vec jobId st fl res lat cause rst).part = s.part := (State.complete_compOnly (.refl s) ..).part
@[simp] theorem State.completeCmd_part (s : State) (c : Cmd) (st res fl lat : Nat) :
    (s.completeCmd c st res fl lat).part = s.part := State.complete_part ..
@[simp] theorem State.complete_pending (s : State) (q cid : Nat) (event : Bool) (vec jobId st fl res lat cause rst : Nat) :
    (s.complete q cid event vec jobId st fl res lat cause rst).pending = s.pending := (State.complete_compOnly (.refl s) ..).pending
@[simp] theorem State.completeCmd_pending (s : State) (c : Cmd) (st res fl lat : Nat) :
    (s.completeCmd c st res fl lat).pending = s.pending := State.complete_pending ..
@[simp] theorem State.complete_hold (s : State) (q cid : Nat) (event : Bool) (vec jobId st fl res lat cause rst : Nat) :
    (s.complete q cid event vec jobId st fl res lat cause rst).hold = s.hold := (State.complete_compOnly (.refl s) ..).hold
@[simp] theorem State.completeCmd_hold (s : State) (c : Cmd) (st res fl lat : Nat) :
    (s.completeCmd c st res fl lat).hold = s.hold := State.complete_hold ..
@[simp] theorem State.complete_latch (s : State) (q cid : Nat) (event : Bool) (vec jobId st fl res lat cause rst : Nat) :
    (s.complete q cid event vec jobId st fl res lat cause rst).latch = s.latch := (State.complete_compOnly (.refl s) ..).latch
@[simp] theorem State.completeCmd_latch (s : State) (c : Cmd) (st res fl lat : Nat) :
    (s.completeCmd c st res fl lat).latch = s.latch := State.complete_latch ..
@[simp] theorem State.complete_poison (s : State) (q cid : Nat) (event : Bool) (vec jobId st fl res lat cause rst : Nat) :
    (s.complete q cid event vec jobId st fl res lat cause rst).poison = s.poison := (State.complete_compOnly (.refl s) ..).poison
@[simp] theorem State.completeCmd_poison (s : State) (c : Cmd) (st res fl lat : Nat) :
    (s.completeCmd c st res fl lat).poison = s.poison := State.complete_poison ..
@[simp] theorem State.complete_dt (s : State) (q cid : Nat) (event : Bool) (vec jobId st fl res lat cause rst : Nat) :
    (s.complete q cid event vec jobId st fl res lat cause rst).dt = s.dt := (State.complete_compOnly (.refl s) ..).dt
@[simp] theorem State.completeCmd_dt (s : State) (c : Cmd) (st res fl lat : Nat) :
    (s.completeCmd c st res fl lat).dt = s.dt := State.complete_dt ..
@[simp] theorem State.complete_free (s : State) (q cid : Nat) (event : Bool) (vec jobId st fl res lat cause rst : Nat) :
    (s.complete q cid event vec jobId st fl res lat cause rst).free = s.free := (State.complete_compOnly (.refl s) ..).free
@[simp] theorem State.completeCmd_free (s : State) (c : Cmd) (st res fl lat : Nat) :
    (s.completeCmd c st res fl lat).free = s.free := State.complete_free ..
@[simp] theorem State.complete_jobs (s : State) (q cid : Nat) (event : Bool) (vec jobId st fl res lat cause rst : Nat) :
    (s.complete q cid event vec jobId st fl res lat cause rst).jobs = s.jobs := (State.complete_compOnly (.refl s) ..).jobs
@[simp] theorem State.completeCmd_jobs (s : State) (c : Cmd) (st res fl lat : Nat) :
    (s.completeCmd c st res fl lat).jobs = s.jobs := State.complete_jobs ..
@[simp] theorem State.complete_progs (s : State) (q cid : Nat) (event : Bool) (vec jobId st fl res lat cause rst : Nat) :
    (s.complete q cid event vec jobId st fl res lat cause rst).progs = s.progs := (State.complete_compOnly (.refl s) ..).progs
@[simp] theorem State.completeCmd_progs (s : State) (c : Cmd) (st res fl lat : Nat) :
    (s.completeCmd c st res fl lat).progs = s.progs := State.complete_progs ..
@[simp] theorem State.complete_cmds (s : State) (q cid : Nat) (event : Bool) (vec jobId st fl res lat cause rst : Nat) :
    (s.complete q cid event vec jobId st fl res lat cause rst).cmds = s.cmds := (State.complete_compOnly (.refl s) ..).cmds
@[simp] theorem State.complete_allocs (s : State) (q cid : Nat) (event : Bool) (vec jobId st fl res lat cause rst : Nat) :
    (s.complete q cid event vec jobId st fl res lat cause rst).allocs = s.allocs := (State.complete_compOnly (.refl s) ..).allocs
@[simp] theorem State.completeCmd_allocs (s : State) (c : Cmd) (st res fl lat : Nat) :
    (s.completeCmd c st res fl lat).allocs = s.allocs := State.complete_allocs ..
@[simp] theorem State.complete_reqs (s : State) (q cid : Nat) (event : Bool) (vec jobId st fl res lat cause rst : Nat) :
    (s.complete q cid event vec jobId st fl res lat cause rst).reqs = s.reqs := (State.complete_compOnly (.refl s) ..).reqs
@[simp] theorem State.completeCmd_reqs (s : State) (c : Cmd) (st res fl lat : Nat) :
    (s.completeCmd c st res fl lat).reqs = s.reqs := State.complete_reqs ..
@[simp] theorem State.complete_ops (s : State) (q cid : Nat) (event : Bool) (vec jobId st fl res lat cause rst : Nat) :
    (s.complete q cid event vec jobId st fl res lat cause rst).ops = s.ops := (State.complete_compOnly (.refl s) ..).ops
@[simp] theorem State.completeCmd_ops (s : State) (c : Cmd) (st res fl lat : Nat) :
    (s.completeCmd c st res fl lat).ops = s.ops := State.complete_ops ..
@[simp] theorem State.complete_dmas (s : State) (q cid : Nat) (event : Bool) (vec jobId st fl res lat cause rst : Nat) :
    (s.complete q cid event vec jobId st fl res lat cause rst).dmas = s.dmas := (State.complete_compOnly (.refl s) ..).dmas
@[simp] theorem State.completeCmd_dmas (s : State) (c : Cmd) (st res fl lat : Nat) :
    (s.completeCmd c st res fl lat).dmas = s.dmas := State.complete_dmas ..
@[simp] theorem State.complete_placed (s : State) (q cid : Nat) (event : Bool) (vec jobId st fl res lat cause rst : Nat) :
    (s.complete q cid event vec jobId st fl res lat cause rst).placed = s.placed := (State.complete_compOnly (.refl s) ..).placed
@[simp] theorem State.completeCmd_placed (s : State) (c : Cmd) (st res fl lat : Nat) :
    (s.completeCmd c st res fl lat).placed = s.placed := State.complete_placed ..
@[simp] theorem State.complete_panels (s : State) (q cid : Nat) (event : Bool) (vec jobId st fl res lat cause rst : Nat) :
    (s.complete q cid event vec jobId st fl res lat cause rst).panels = s.panels := (State.complete_compOnly (.refl s) ..).panels
@[simp] theorem State.completeCmd_panels (s : State) (c : Cmd) (st res fl lat : Nat) :
    (s.completeCmd c st res fl lat).panels = s.panels := State.complete_panels ..
@[simp] theorem State.complete_images (s : State) (q cid : Nat) (event : Bool) (vec jobId st fl res lat cause rst : Nat) :
    (s.complete q cid event vec jobId st fl res lat cause rst).images = s.images := (State.complete_compOnly (.refl s) ..).images
@[simp] theorem State.completeCmd_images (s : State) (c : Cmd) (st res fl lat : Nat) :
    (s.completeCmd c st res fl lat).images = s.images := State.complete_images ..
@[simp] theorem State.complete_loads (s : State) (q cid : Nat) (event : Bool) (vec jobId st fl res lat cause rst : Nat) :
    (s.complete q cid event vec jobId st fl res lat cause rst).loads = s.loads := (State.complete_compOnly (.refl s) ..).loads
@[simp] theorem State.completeCmd_loads (s : State) (c : Cmd) (st res fl lat : Nat) :
    (s.completeCmd c st res fl lat).loads = s.loads := State.complete_loads ..
@[simp] theorem State.complete_maps (s : State) (q cid : Nat) (event : Bool) (vec jobId st fl res lat cause rst : Nat) :
    (s.complete q cid event vec jobId st fl res lat cause rst).maps = s.maps := (State.complete_compOnly (.refl s) ..).maps
@[simp] theorem State.completeCmd_maps (s : State) (c : Cmd) (st res fl lat : Nat) :
    (s.completeCmd c st res fl lat).maps = s.maps := State.complete_maps ..
@[simp] theorem State.complete_tiles (s : State) (q cid : Nat) (event : Bool) (vec jobId st fl res lat cause rst : Nat) :
    (s.complete q cid event vec jobId st fl res lat cause rst).tiles = s.tiles := (State.complete_compOnly (.refl s) ..).tiles
@[simp] theorem State.completeCmd_tiles (s : State) (c : Cmd) (st res fl lat : Nat) :
    (s.completeCmd c st res fl lat).tiles = s.tiles := State.complete_tiles ..
@[simp] theorem State.complete_tabs (s : State) (q cid : Nat) (event : Bool) (vec jobId st fl res lat cause rst : Nat) :
    (s.complete q cid event vec jobId st fl res lat cause rst).tabs = s.tabs := (State.complete_compOnly (.refl s) ..).tabs
@[simp] theorem State.completeCmd_tabs (s : State) (c : Cmd) (st res fl lat : Nat) :
    (s.completeCmd c st res fl lat).tabs = s.tabs := State.complete_tabs ..
@[simp] theorem State.complete_recs (s : State) (q cid : Nat) (event : Bool) (vec jobId st fl res lat cause rst : Nat) :
    (s.complete q cid event vec jobId st fl res lat cause rst).recs = s.recs := (State.complete_compOnly (.refl s) ..).recs
@[simp] theorem State.completeCmd_recs (s : State) (c : Cmd) (st res fl lat : Nat) :
    (s.completeCmd c st res fl lat).recs = s.recs := State.complete_recs ..
@[simp] theorem State.complete_progq (s : State) (q cid : Nat) (event : Bool) (vec jobId st fl res lat cause rst : Nat) :
    (s.complete q cid event vec jobId st fl res lat cause rst).progq = s.progq := (State.complete_compOnly (.refl s) ..).progq
@[simp] theorem State.completeCmd_progq (s : State) (c : Cmd) (st res fl lat : Nat) :
    (s.completeCmd c st res fl lat).progq = s.progq := State.complete_progq ..
@[simp] theorem State.complete_calq (s : State) (q cid : Nat) (event : Bool) (vec jobId st fl res lat cause rst : Nat) :
    (s.complete q cid event vec jobId st fl res lat cause rst).calq = s.calq := (State.complete_compOnly (.refl s) ..).calq
@[simp] theorem State.completeCmd_calq (s : State) (c : Cmd) (st res fl lat : Nat) :
    (s.completeCmd c st res fl lat).calq = s.calq := State.complete_calq ..
@[simp] theorem State.complete_cals (s : State) (q cid : Nat) (event : Bool) (vec jobId st fl res lat cause rst : Nat) :
    (s.complete q cid event vec jobId st fl res lat cause rst).cals = s.cals := (State.complete_compOnly (.refl s) ..).cals
@[simp] theorem State.completeCmd_cals (s : State) (c : Cmd) (st res fl lat : Nat) :
    (s.completeCmd c st res fl lat).cals = s.cals := State.complete_cals ..
@[simp] theorem State.complete_checks (s : State) (q cid : Nat) (event : Bool) (vec jobId st fl res lat cause rst : Nat) :
    (s.complete q cid event vec jobId st fl res lat cause rst).checks = s.checks := (State.complete_compOnly (.refl s) ..).checks
@[simp] theorem State.completeCmd_checks (s : State) (c : Cmd) (st res fl lat : Nat) :
    (s.completeCmd c st res fl lat).checks = s.checks := State.complete_checks ..
@[simp] theorem State.complete_tix (s : State) (q cid : Nat) (event : Bool) (vec jobId st fl res lat cause rst : Nat) :
    (s.complete q cid event vec jobId st fl res lat cause rst).tix = s.tix := (State.complete_compOnly (.refl s) ..).tix
@[simp] theorem State.completeCmd_tix (s : State) (c : Cmd) (st res fl lat : Nat) :
    (s.completeCmd c st res fl lat).tix = s.tix := State.complete_tix ..
@[simp] theorem State.complete_repls (s : State) (q cid : Nat) (event : Bool) (vec jobId st fl res lat cause rst : Nat) :
    (s.complete q cid event vec jobId st fl res lat cause rst).repls = s.repls := (State.complete_compOnly (.refl s) ..).repls
@[simp] theorem State.completeCmd_repls (s : State) (c : Cmd) (st res fl lat : Nat) :
    (s.completeCmd c st res fl lat).repls = s.repls := State.complete_repls ..
@[simp] theorem State.complete_refreshes (s : State) (q cid : Nat) (event : Bool) (vec jobId st fl res lat cause rst : Nat) :
    (s.complete q cid event vec jobId st fl res lat cause rst).refreshes = s.refreshes := (State.complete_compOnly (.refl s) ..).refreshes
@[simp] theorem State.completeCmd_refreshes (s : State) (c : Cmd) (st res fl lat : Nat) :
    (s.completeCmd c st res fl lat).refreshes = s.refreshes := State.complete_refreshes ..
@[simp] theorem State.complete_mons (s : State) (q cid : Nat) (event : Bool) (vec jobId st fl res lat cause rst : Nat) :
    (s.complete q cid event vec jobId st fl res lat cause rst).mons = s.mons := (State.complete_compOnly (.refl s) ..).mons
@[simp] theorem State.completeCmd_mons (s : State) (c : Cmd) (st res fl lat : Nat) :
    (s.completeCmd c st res fl lat).mons = s.mons := State.complete_mons ..
@[simp] theorem State.complete_urg (s : State) (q cid : Nat) (event : Bool) (vec jobId st fl res lat cause rst : Nat) :
    (s.complete q cid event vec jobId st fl res lat cause rst).urg = s.urg := (State.complete_compOnly (.refl s) ..).urg
@[simp] theorem State.completeCmd_urg (s : State) (c : Cmd) (st res fl lat : Nat) :
    (s.completeCmd c st res fl lat).urg = s.urg := State.complete_urg ..
@[simp] theorem State.complete_tlms (s : State) (q cid : Nat) (event : Bool) (vec jobId st fl res lat cause rst : Nat) :
    (s.complete q cid event vec jobId st fl res lat cause rst).tlms = s.tlms := (State.complete_compOnly (.refl s) ..).tlms
@[simp] theorem State.completeCmd_tlms (s : State) (c : Cmd) (st res fl lat : Nat) :
    (s.completeCmd c st res fl lat).tlms = s.tlms := State.complete_tlms ..
@[simp] theorem State.complete_plays (s : State) (q cid : Nat) (event : Bool) (vec jobId st fl res lat cause rst : Nat) :
    (s.complete q cid event vec jobId st fl res lat cause rst).plays = s.plays := (State.complete_compOnly (.refl s) ..).plays
@[simp] theorem State.completeCmd_plays (s : State) (c : Cmd) (st res fl lat : Nat) :
    (s.completeCmd c st res fl lat).plays = s.plays := State.complete_plays ..
@[simp] theorem State.complete_waves (s : State) (q cid : Nat) (event : Bool) (vec jobId st fl res lat cause rst : Nat) :
    (s.complete q cid event vec jobId st fl res lat cause rst).waves = s.waves := (State.complete_compOnly (.refl s) ..).waves
@[simp] theorem State.completeCmd_waves (s : State) (c : Cmd) (st res fl lat : Nat) :
    (s.completeCmd c st res fl lat).waves = s.waves := State.complete_waves ..
@[simp] theorem State.complete_pocket (s : State) (q cid : Nat) (event : Bool) (vec jobId st fl res lat cause rst : Nat) :
    (s.complete q cid event vec jobId st fl res lat cause rst).pocket = s.pocket := (State.complete_compOnly (.refl s) ..).pocket
@[simp] theorem State.completeCmd_pocket (s : State) (c : Cmd) (st res fl lat : Nat) :
    (s.completeCmd c st res fl lat).pocket = s.pocket := State.complete_pocket ..
@[simp] theorem State.complete_safeJobs (s : State) (q cid : Nat) (event : Bool) (vec jobId st fl res lat cause rst : Nat) :
    (s.complete q cid event vec jobId st fl res lat cause rst).safeJobs = s.safeJobs := (State.complete_compOnly (.refl s) ..).safeJobs
@[simp] theorem State.completeCmd_safeJobs (s : State) (c : Cmd) (st res fl lat : Nat) :
    (s.completeCmd c st res fl lat).safeJobs = s.safeJobs := State.complete_safeJobs ..
@[simp] theorem State.complete_journal (s : State) (q cid : Nat) (event : Bool) (vec jobId st fl res lat cause rst : Nat) :
    (s.complete q cid event vec jobId st fl res lat cause rst).journal = s.journal := (State.complete_compOnly (.refl s) ..).journal
@[simp] theorem State.completeCmd_journal (s : State) (c : Cmd) (st res fl lat : Nat) :
    (s.completeCmd c st res fl lat).journal = s.journal := State.complete_journal ..
@[simp] theorem State.complete_commits (s : State) (q cid : Nat) (event : Bool) (vec jobId st fl res lat cause rst : Nat) :
    (s.complete q cid event vec jobId st fl res lat cause rst).commits = s.commits := (State.complete_compOnly (.refl s) ..).commits
@[simp] theorem State.completeCmd_commits (s : State) (c : Cmd) (st res fl lat : Nat) :
    (s.completeCmd c st res fl lat).commits = s.commits := State.complete_commits ..
@[simp] theorem State.complete_regions (s : State) (q cid : Nat) (event : Bool) (vec jobId st fl res lat cause rst : Nat) :
    (s.complete q cid event vec jobId st fl res lat cause rst).regions = s.regions := (State.complete_compOnly (.refl s) ..).regions
@[simp] theorem State.completeCmd_regions (s : State) (c : Cmd) (st res fl lat : Nat) :
    (s.completeCmd c st res fl lat).regions = s.regions := State.complete_regions ..
@[simp] theorem State.completeCmd_cmds (s : State) (c : Cmd) (st res fl lat : Nat) :
    (s.completeCmd c st res fl lat).cmds = s.cmds.filter (fun c' => c'.id != c.id) := State.complete_cmds ..
@[simp] theorem State.ax_completeCmd (s : State) (c : Cmd) (st res fl lat : Nat) {x : Aux} (h : x ≠ .flitSeq) (d i j : Nat) :
    (s.completeCmd c st res fl lat).ax x d i j = s.ax x d i j := (State.complete_compOnly (.refl _) ..).ax x h d i j

end Sys2Proof.Machine
end

