-- ==== Sys2Proof/Laws/Same.lean ====
section
/-!
SUPPORT. Laws/Same.lean: which pieces of the state an operation leaves alone. The lemmas of the Laws/Same files say of one operation
each: a piece that it does not write (`<operation>_w` is false of it) is the same after it as before.
-/

namespace Sys2Proof.Machine

def Piece.isFld : Piece → Bool
  | .fld _ => true
  | _ => false

def Piece.isAux : Piece → Bool
  | .aux _ => true
  | _ => false

theorem not_fld {g : Piece} (h : g.isFld = false) (f : Field) : (g == .fld f) = false := by
  cases g <;> simp_all [Piece.isFld]

theorem not_aux {g : Piece} (h : g.isAux = false) (x : Aux) : (g == .aux x) = false := by
  cases g <;> simp_all [Piece.isAux]

theorem Same.refl (g : Piece) (a : State) : Same g a a := by cases g <;> simp [Same]

variable {g : Piece} {a s : State}

theorem wr_same {f : Field} (hg : (g == .fld f) = false) (h : Same g a s) (v d i j : Nat) : Same g a (s.wr f v d i j) := by
  cases g with
  | fld x =>
    intro d' i' j'
    rw [State.rd_wr_field s (fun e => by subst e; simp at hg)]
    exact h d' i' j'
  | _ => exact h

theorem bump_same {f : Field} (hg : (g == .fld f) = false) (h : Same g a s) (n d i j : Nat) : Same g a (s.bump f n d i j) :=
  wr_same hg h ..

theorem setAx_same {x : Aux} (hg : (g == .aux x) = false) (h : Same g a s) (v d i j : Nat) : Same g a (s.setAx x v d i j) := by
  cases g with
  | aux y =>
    intro d' i' j'
    rw [State.ax_setAx, if_neg (fun e => by simp [e.1] at hg)]
    exact h d' i' j'
  | _ => exact h

theorem store_same (hg : (g == .mem) = false) (hd : (g == .devMem) = false) (h : Same g a s) (k n v : Nat) :
    Same g a (s.store k n v) := by
  cases g with
  | mem => simp at hg
  | devMem => simp at hd
  | _ => exact h

theorem storeHost_same (hg : (g == .mem) = false) (h : Same g a s) (fn x n v : Nat) :
    Same g a (s.store (hostKey fn x) n v) := by
  cases g with
  | mem => simp at hg
  | devMem =>
    intro k hk
    exact (((State.EvOnly.refl s).store fn x n v).byte k hk).trans (h k hk)
  | _ => exact h

theorem same_mk_allocs (h_allocs : (g == .allocs) = false) (h : Same g a s) (allocs : List Alloc) :
    Same g a (State.mk s.part s.pending s.fld s.aux s.hold s.latch s.mem s.poison s.dt s.free s.outbox s.jobs s.progs s.cmds s.qps allocs s.rings s.reqs s.ops s.dmas s.placed s.panels s.images s.loads s.maps s.tiles s.tabs s.recs s.progq s.calq s.cals s.checks s.tix s.repls s.refreshes s.mons s.urg s.tlms s.plays s.waves s.pocket s.safeJobs s.flits s.journal s.commits s.regions) := by
  cases g <;> first | exact h | simp at *

theorem same_mk_calq (h_calq : (g == .calq) = false) (h : Same g a s) (calq : List CalReq) :
    Same g a (State.mk s.part s.pending s.fld s.aux s.hold s.latch s.mem s.poison s.dt s.free s.outbox s.jobs s.progs s.cmds s.qps s.allocs s.rings s.reqs s.ops s.dmas s.placed s.panels s.images s.loads s.maps s.tiles s.tabs s.recs s.progq calq s.cals s.checks s.tix s.repls s.refreshes s.mons s.urg s.tlms s.plays s.waves s.pocket s.safeJobs s.flits s.journal s.commits s.regions) := by
  cases g <;> first | exact h | simp at *

theorem same_mk_calq_refreshes (h_calq : (g == .calq) = false) (h_refreshes : (g == .refreshes) = false) (h : Same g a s) (calq : List CalReq) (refreshes : List Refresh) :
    Same g a (State.mk s.part s.pending s.fld s.aux s.hold s.latch s.mem s.poison s.dt s.free s.outbox s.jobs s.progs s.cmds s.qps s.allocs s.rings s.reqs s.ops s.dmas s.placed s.panels s.images s.loads s.maps s.tiles s.tabs s.recs s.progq calq s.cals s.checks s.tix s.repls refreshes s.mons s.urg s.tlms s.plays s.waves s.pocket s.safeJobs s.flits s.journal s.commits s.regions) := by
  cases g <;> first | exact h | simp at *

theorem same_mk_cals (h_cals : (g == .cals) = false) (h : Same g a s) (cals : List CalRun) :
    Same g a (State.mk s.part s.pending s.fld s.aux s.hold s.latch s.mem s.poison s.dt s.free s.outbox s.jobs s.progs s.cmds s.qps s.allocs s.rings s.reqs s.ops s.dmas s.placed s.panels s.images s.loads s.maps s.tiles s.tabs s.recs s.progq s.calq cals s.checks s.tix s.repls s.refreshes s.mons s.urg s.tlms s.plays s.waves s.pocket s.safeJobs s.flits s.journal s.commits s.regions) := by
  cases g <;> first | exact h | simp at *

theorem same_mk_checks (h_checks : (g == .checks) = false) (h : Same g a s) (checks : List Check) :
    Same g a (State.mk s.part s.pending s.fld s.aux s.hold s.latch s.mem s.poison s.dt s.free s.outbox s.jobs s.progs s.cmds s.qps s.allocs s.rings s.reqs s.ops s.dmas s.placed s.panels s.images s.loads s.maps s.tiles s.tabs s.recs s.progq s.calq s.cals checks s.tix s.repls s.refreshes s.mons s.urg s.tlms s.plays s.waves s.pocket s.safeJobs s.flits s.journal s.commits s.regions) := by
  cases g <;> first | exact h | simp at *

theorem same_mk_cmds (h_cmds : (g == .cmds) = false) (h : Same g a s) (cmds : List Cmd) :
    Same g a (State.mk s.part s.pending s.fld s.aux s.hold s.latch s.mem s.poison s.dt s.free s.outbox s.jobs s.progs cmds s.qps s.allocs s.rings s.reqs s.ops s.dmas s.placed s.panels s.images s.loads s.maps s.tiles s.tabs s.recs s.progq s.calq s.cals s.checks s.tix s.repls s.refreshes s.mons s.urg s.tlms s.plays s.waves s.pocket s.safeJobs s.flits s.journal s.commits s.regions) := by
  cases g <;> first | exact h | simp at *

theorem same_mk_commits (h_commits : (g == .commits) = false) (h : Same g a s) (commits : List CommitRec) :
    Same g a (State.mk s.part s.pending s.fld s.aux s.hold s.latch s.mem s.poison s.dt s.free s.outbox s.jobs s.progs s.cmds s.qps s.allocs s.rings s.reqs s.ops s.dmas s.placed s.panels s.images s.loads s.maps s.tiles s.tabs s.recs s.progq s.calq s.cals s.checks s.tix s.repls s.refreshes s.mons s.urg s.tlms s.plays s.waves s.pocket s.safeJobs s.flits s.journal commits s.regions) := by
  cases g <;> first | exact h | simp at *

theorem same_mk_dmas (h_dmas : (g == .dmas) = false) (h : Same g a s) (dmas : List DmaRun) :
    Same g a (State.mk s.part s.pending s.fld s.aux s.hold s.latch s.mem s.poison s.dt s.free s.outbox s.jobs s.progs s.cmds s.qps s.allocs s.rings s.reqs s.ops dmas s.placed s.panels s.images s.loads s.maps s.tiles s.tabs s.recs s.progq s.calq s.cals s.checks s.tix s.repls s.refreshes s.mons s.urg s.tlms s.plays s.waves s.pocket s.safeJobs s.flits s.journal s.commits s.regions) := by
  cases g <;> first | exact h | simp at *

theorem same_mk_dt (h_dt : (g == .dt) = false) (h : Same g a s) (dt : Nat) :
    Same g a (State.mk s.part s.pending s.fld s.aux s.hold s.latch s.mem s.poison dt s.free s.outbox s.jobs s.progs s.cmds s.qps s.allocs s.rings s.reqs s.ops s.dmas s.placed s.panels s.images s.loads s.maps s.tiles s.tabs s.recs s.progq s.calq s.cals s.checks s.tix s.repls s.refreshes s.mons s.urg s.tlms s.plays s.waves s.pocket s.safeJobs s.flits s.journal s.commits s.regions) := by
  cases g <;> first | exact h | simp at *

theorem same_mk_flits (h_flits : (g == .flits) = false) (h : Same g a s) (flits : List Flit) :
    Same g a (State.mk s.part s.pending s.fld s.aux s.hold s.latch s.mem s.poison s.dt s.free s.outbox s.jobs s.progs s.cmds s.qps s.allocs s.rings s.reqs s.ops s.dmas s.placed s.panels s.images s.loads s.maps s.tiles s.tabs s.recs s.progq s.calq s.cals s.checks s.tix s.repls s.refreshes s.mons s.urg s.tlms s.plays s.waves s.pocket s.safeJobs flits s.journal s.commits s.regions) := by
  cases g <;> first | exact h | simp at *

theorem same_mk_free (h_free : (g == .free) = false) (h : Same g a s) (free : Nat) :
    Same g a (State.mk s.part s.pending s.fld s.aux s.hold s.latch s.mem s.poison s.dt free s.outbox s.jobs s.progs s.cmds s.qps s.allocs s.rings s.reqs s.ops s.dmas s.placed s.panels s.images s.loads s.maps s.tiles s.tabs s.recs s.progq s.calq s.cals s.checks s.tix s.repls s.refreshes s.mons s.urg s.tlms s.plays s.waves s.pocket s.safeJobs s.flits s.journal s.commits s.regions) := by
  cases g <;> first | exact h | simp at *

theorem same_mk_hold (h_hold : (g == .hold) = false) (h : Same g a s) (hold : SMap (Option Nat)) :
    Same g a (State.mk s.part s.pending s.fld s.aux hold s.latch s.mem s.poison s.dt s.free s.outbox s.jobs s.progs s.cmds s.qps s.allocs s.rings s.reqs s.ops s.dmas s.placed s.panels s.images s.loads s.maps s.tiles s.tabs s.recs s.progq s.calq s.cals s.checks s.tix s.repls s.refreshes s.mons s.urg s.tlms s.plays s.waves s.pocket s.safeJobs s.flits s.journal s.commits s.regions) := by
  cases g <;> first | exact h | simp at *

theorem same_mk_hold_latch (h_hold : (g == .hold) = false) (h_latch : (g == .latch) = false) (h : Same g a s) (hold : SMap (Option Nat)) (latch : SMap (Option Nat)) :
    Same g a (State.mk s.part s.pending s.fld s.aux hold latch s.mem s.poison s.dt s.free s.outbox s.jobs s.progs s.cmds s.qps s.allocs s.rings s.reqs s.ops s.dmas s.placed s.panels s.images s.loads s.maps s.tiles s.tabs s.recs s.progq s.calq s.cals s.checks s.tix s.repls s.refreshes s.mons s.urg s.tlms s.plays s.waves s.pocket s.safeJobs s.flits s.journal s.commits s.regions) := by
  cases g <;> first | exact h | simp at *

theorem same_mk_images (h_images : (g == .images) = false) (h : Same g a s) (images : List Image) :
    Same g a (State.mk s.part s.pending s.fld s.aux s.hold s.latch s.mem s.poison s.dt s.free s.outbox s.jobs s.progs s.cmds s.qps s.allocs s.rings s.reqs s.ops s.dmas s.placed s.panels images s.loads s.maps s.tiles s.tabs s.recs s.progq s.calq s.cals s.checks s.tix s.repls s.refreshes s.mons s.urg s.tlms s.plays s.waves s.pocket s.safeJobs s.flits s.journal s.commits s.regions) := by
  cases g <;> first | exact h | simp at *

theorem same_mk_images_loads (h_images : (g == .images) = false) (h_loads : (g == .loads) = false) (h : Same g a s) (images : List Image) (loads : List Load) :
    Same g a (State.mk s.part s.pending s.fld s.aux s.hold s.latch s.mem s.poison s.dt s.free s.outbox s.jobs s.progs s.cmds s.qps s.allocs s.rings s.reqs s.ops s.dmas s.placed s.panels images loads s.maps s.tiles s.tabs s.recs s.progq s.calq s.cals s.checks s.tix s.repls s.refreshes s.mons s.urg s.tlms s.plays s.waves s.pocket s.safeJobs s.flits s.journal s.commits s.regions) := by
  cases g <;> first | exact h | simp at *

theorem same_mk_images_maps (h_images : (g == .images) = false) (h_maps : (g == .maps) = false) (h : Same g a s) (images : List Image) (maps : List MapSt) :
    Same g a (State.mk s.part s.pending s.fld s.aux s.hold s.latch s.mem s.poison s.dt s.free s.outbox s.jobs s.progs s.cmds s.qps s.allocs s.rings s.reqs s.ops s.dmas s.placed s.panels images s.loads maps s.tiles s.tabs s.recs s.progq s.calq s.cals s.checks s.tix s.repls s.refreshes s.mons s.urg s.tlms s.plays s.waves s.pocket s.safeJobs s.flits s.journal s.commits s.regions) := by
  cases g <;> first | exact h | simp at *

theorem same_mk_jobs (h_jobs : (g == .jobs) = false) (h : Same g a s) (jobs : List Job) :
    Same g a (State.mk s.part s.pending s.fld s.aux s.hold s.latch s.mem s.poison s.dt s.free s.outbox jobs s.progs s.cmds s.qps s.allocs s.rings s.reqs s.ops s.dmas s.placed s.panels s.images s.loads s.maps s.tiles s.tabs s.recs s.progq s.calq s.cals s.checks s.tix s.repls s.refreshes s.mons s.urg s.tlms s.plays s.waves s.pocket s.safeJobs s.flits s.journal s.commits s.regions) := by
  cases g <;> first | exact h | simp at *

theorem same_mk_jobs_cmds (h_jobs : (g == .jobs) = false) (h_cmds : (g == .cmds) = false) (h : Same g a s) (jobs : List Job) (cmds : List Cmd) :
    Same g a (State.mk s.part s.pending s.fld s.aux s.hold s.latch s.mem s.poison s.dt s.free s.outbox jobs s.progs cmds s.qps s.allocs s.rings s.reqs s.ops s.dmas s.placed s.panels s.images s.loads s.maps s.tiles s.tabs s.recs s.progq s.calq s.cals s.checks s.tix s.repls s.refreshes s.mons s.urg s.tlms s.plays s.waves s.pocket s.safeJobs s.flits s.journal s.commits s.regions) := by
  cases g <;> first | exact h | simp at *

theorem same_mk_jobs_flits (h_jobs : (g == .jobs) = false) (h_flits : (g == .flits) = false) (h : Same g a s) (jobs : List Job) (flits : List Flit) :
    Same g a (State.mk s.part s.pending s.fld s.aux s.hold s.latch s.mem s.poison s.dt s.free s.outbox jobs s.progs s.cmds s.qps s.allocs s.rings s.reqs s.ops s.dmas s.placed s.panels s.images s.loads s.maps s.tiles s.tabs s.recs s.progq s.calq s.cals s.checks s.tix s.repls s.refreshes s.mons s.urg s.tlms s.plays s.waves s.pocket s.safeJobs flits s.journal s.commits s.regions) := by
  cases g <;> first | exact h | simp at *

theorem same_mk_journal (h_journal : (g == .journal) = false) (h : Same g a s) (journal : List JEntry) :
    Same g a (State.mk s.part s.pending s.fld s.aux s.hold s.latch s.mem s.poison s.dt s.free s.outbox s.jobs s.progs s.cmds s.qps s.allocs s.rings s.reqs s.ops s.dmas s.placed s.panels s.images s.loads s.maps s.tiles s.tabs s.recs s.progq s.calq s.cals s.checks s.tix s.repls s.refreshes s.mons s.urg s.tlms s.plays s.waves s.pocket s.safeJobs s.flits journal s.commits s.regions) := by
  cases g <;> first | exact h | simp at *

theorem same_mk_journal_commits (h_journal : (g == .journal) = false) (h_commits : (g == .commits) = false) (h : Same g a s) (journal : List JEntry) (commits : List CommitRec) :
    Same g a (State.mk s.part s.pending s.fld s.aux s.hold s.latch s.mem s.poison s.dt s.free s.outbox s.jobs s.progs s.cmds s.qps s.allocs s.rings s.reqs s.ops s.dmas s.placed s.panels s.images s.loads s.maps s.tiles s.tabs s.recs s.progq s.calq s.cals s.checks s.tix s.repls s.refreshes s.mons s.urg s.tlms s.plays s.waves s.pocket s.safeJobs s.flits journal commits s.regions) := by
  cases g <;> first | exact h | simp at *

theorem same_mk_latch (h_latch : (g == .latch) = false) (h : Same g a s) (latch : SMap (Option Nat)) :
    Same g a (State.mk s.part s.pending s.fld s.aux s.hold latch s.mem s.poison s.dt s.free s.outbox s.jobs s.progs s.cmds s.qps s.allocs s.rings s.reqs s.ops s.dmas s.placed s.panels s.images s.loads s.maps s.tiles s.tabs s.recs s.progq s.calq s.cals s.checks s.tix s.repls s.refreshes s.mons s.urg s.tlms s.plays s.waves s.pocket s.safeJobs s.flits s.journal s.commits s.regions) := by
  cases g <;> first | exact h | simp at *

theorem same_mk_loads (h_loads : (g == .loads) = false) (h : Same g a s) (loads : List Load) :
    Same g a (State.mk s.part s.pending s.fld s.aux s.hold s.latch s.mem s.poison s.dt s.free s.outbox s.jobs s.progs s.cmds s.qps s.allocs s.rings s.reqs s.ops s.dmas s.placed s.panels s.images loads s.maps s.tiles s.tabs s.recs s.progq s.calq s.cals s.checks s.tix s.repls s.refreshes s.mons s.urg s.tlms s.plays s.waves s.pocket s.safeJobs s.flits s.journal s.commits s.regions) := by
  cases g <;> first | exact h | simp at *

theorem same_mk_maps (h_maps : (g == .maps) = false) (h : Same g a s) (maps : List MapSt) :
    Same g a (State.mk s.part s.pending s.fld s.aux s.hold s.latch s.mem s.poison s.dt s.free s.outbox s.jobs s.progs s.cmds s.qps s.allocs s.rings s.reqs s.ops s.dmas s.placed s.panels s.images s.loads maps s.tiles s.tabs s.recs s.progq s.calq s.cals s.checks s.tix s.repls s.refreshes s.mons s.urg s.tlms s.plays s.waves s.pocket s.safeJobs s.flits s.journal s.commits s.regions) := by
  cases g <;> first | exact h | simp at *

theorem same_mk_maps_repls (h_maps : (g == .maps) = false) (h_repls : (g == .repls) = false) (h : Same g a s) (maps : List MapSt) (repls : List Repl) :
    Same g a (State.mk s.part s.pending s.fld s.aux s.hold s.latch s.mem s.poison s.dt s.free s.outbox s.jobs s.progs s.cmds s.qps s.allocs s.rings s.reqs s.ops s.dmas s.placed s.panels s.images s.loads maps s.tiles s.tabs s.recs s.progq s.calq s.cals s.checks s.tix repls s.refreshes s.mons s.urg s.tlms s.plays s.waves s.pocket s.safeJobs s.flits s.journal s.commits s.regions) := by
  cases g <;> first | exact h | simp at *

theorem same_mk_mem (h_mem : (g == .mem) = false) (h_dev : (g == .devMem) = false) (h : Same g a s) (mem : SMap Byte) :
    Same g a (State.mk s.part s.pending s.fld s.aux s.hold s.latch mem s.poison s.dt s.free s.outbox s.jobs s.progs s.cmds s.qps s.allocs s.rings s.reqs s.ops s.dmas s.placed s.panels s.images s.loads s.maps s.tiles s.tabs s.recs s.progq s.calq s.cals s.checks s.tix s.repls s.refreshes s.mons s.urg s.tlms s.plays s.waves s.pocket s.safeJobs s.flits s.journal s.commits s.regions) := by
  cases g <;> first | exact h | simp at *

theorem same_mk_mem_poison (h_mem : (g == .mem) = false) (h_dev : (g == .devMem) = false) (h_poison : (g == .poison) = false) (h : Same g a s) (mem : SMap Byte) (poison : SMap Bool) :
    Same g a (State.mk s.part s.pending s.fld s.aux s.hold s.latch mem poison s.dt s.free s.outbox s.jobs s.progs s.cmds s.qps s.allocs s.rings s.reqs s.ops s.dmas s.placed s.panels s.images s.loads s.maps s.tiles s.tabs s.recs s.progq s.calq s.cals s.checks s.tix s.repls s.refreshes s.mons s.urg s.tlms s.plays s.waves s.pocket s.safeJobs s.flits s.journal s.commits s.regions) := by
  cases g <;> first | exact h | simp at *

theorem same_mk_mons (h_mons : (g == .mons) = false) (h : Same g a s) (mons : SMap Mon) :
    Same g a (State.mk s.part s.pending s.fld s.aux s.hold s.latch s.mem s.poison s.dt s.free s.outbox s.jobs s.progs s.cmds s.qps s.allocs s.rings s.reqs s.ops s.dmas s.placed s.panels s.images s.loads s.maps s.tiles s.tabs s.recs s.progq s.calq s.cals s.checks s.tix s.repls s.refreshes mons s.urg s.tlms s.plays s.waves s.pocket s.safeJobs s.flits s.journal s.commits s.regions) := by
  cases g <;> first | exact h | simp at *

theorem same_mk_ops (h_ops : (g == .ops) = false) (h : Same g a s) (ops : List Op) :
    Same g a (State.mk s.part s.pending s.fld s.aux s.hold s.latch s.mem s.poison s.dt s.free s.outbox s.jobs s.progs s.cmds s.qps s.allocs s.rings s.reqs ops s.dmas s.placed s.panels s.images s.loads s.maps s.tiles s.tabs s.recs s.progq s.calq s.cals s.checks s.tix s.repls s.refreshes s.mons s.urg s.tlms s.plays s.waves s.pocket s.safeJobs s.flits s.journal s.commits s.regions) := by
  cases g <;> first | exact h | simp at *

theorem same_mk_ops_dmas (h_ops : (g == .ops) = false) (h_dmas : (g == .dmas) = false) (h : Same g a s) (ops : List Op) (dmas : List DmaRun) :
    Same g a (State.mk s.part s.pending s.fld s.aux s.hold s.latch s.mem s.poison s.dt s.free s.outbox s.jobs s.progs s.cmds s.qps s.allocs s.rings s.reqs ops dmas s.placed s.panels s.images s.loads s.maps s.tiles s.tabs s.recs s.progq s.calq s.cals s.checks s.tix s.repls s.refreshes s.mons s.urg s.tlms s.plays s.waves s.pocket s.safeJobs s.flits s.journal s.commits s.regions) := by
  cases g <;> first | exact h | simp at *

theorem same_mk_outbox (h_outbox : (g == .outbox) = false) (h : Same g a s) (outbox : List Out) :
    Same g a (State.mk s.part s.pending s.fld s.aux s.hold s.latch s.mem s.poison s.dt s.free outbox s.jobs s.progs s.cmds s.qps s.allocs s.rings s.reqs s.ops s.dmas s.placed s.panels s.images s.loads s.maps s.tiles s.tabs s.recs s.progq s.calq s.cals s.checks s.tix s.repls s.refreshes s.mons s.urg s.tlms s.plays s.waves s.pocket s.safeJobs s.flits s.journal s.commits s.regions) := by
  cases g <;> first | exact h | simp at *

theorem same_mk_panels (h_panels : (g == .panels) = false) (h : Same g a s) (panels : List Panel) :
    Same g a (State.mk s.part s.pending s.fld s.aux s.hold s.latch s.mem s.poison s.dt s.free s.outbox s.jobs s.progs s.cmds s.qps s.allocs s.rings s.reqs s.ops s.dmas s.placed panels s.images s.loads s.maps s.tiles s.tabs s.recs s.progq s.calq s.cals s.checks s.tix s.repls s.refreshes s.mons s.urg s.tlms s.plays s.waves s.pocket s.safeJobs s.flits s.journal s.commits s.regions) := by
  cases g <;> first | exact h | simp at *

theorem same_mk_panels_progq_repls (h_panels : (g == .panels) = false) (h_progq : (g == .progq) = false) (h_repls : (g == .repls) = false) (h : Same g a s) (panels : List Panel) (progq : List PReq) (repls : List Repl) :
    Same g a (State.mk s.part s.pending s.fld s.aux s.hold s.latch s.mem s.poison s.dt s.free s.outbox s.jobs s.progs s.cmds s.qps s.allocs s.rings s.reqs s.ops s.dmas s.placed panels s.images s.loads s.maps s.tiles s.tabs s.recs progq s.calq s.cals s.checks s.tix repls s.refreshes s.mons s.urg s.tlms s.plays s.waves s.pocket s.safeJobs s.flits s.journal s.commits s.regions) := by
  cases g <;> first | exact h | simp at *

theorem same_mk_placed (h_placed : (g == .placed) = false) (h : Same g a s) (placed : List Placed) :
    Same g a (State.mk s.part s.pending s.fld s.aux s.hold s.latch s.mem s.poison s.dt s.free s.outbox s.jobs s.progs s.cmds s.qps s.allocs s.rings s.reqs s.ops s.dmas placed s.panels s.images s.loads s.maps s.tiles s.tabs s.recs s.progq s.calq s.cals s.checks s.tix s.repls s.refreshes s.mons s.urg s.tlms s.plays s.waves s.pocket s.safeJobs s.flits s.journal s.commits s.regions) := by
  cases g <;> first | exact h | simp at *

theorem same_mk_plays (h_plays : (g == .plays) = false) (h : Same g a s) (plays : List Play) :
    Same g a (State.mk s.part s.pending s.fld s.aux s.hold s.latch s.mem s.poison s.dt s.free s.outbox s.jobs s.progs s.cmds s.qps s.allocs s.rings s.reqs s.ops s.dmas s.placed s.panels s.images s.loads s.maps s.tiles s.tabs s.recs s.progq s.calq s.cals s.checks s.tix s.repls s.refreshes s.mons s.urg s.tlms plays s.waves s.pocket s.safeJobs s.flits s.journal s.commits s.regions) := by
  cases g <;> first | exact h | simp at *

theorem same_mk_pocket (h_pocket : (g == .pocket) = false) (h : Same g a s) (pocket : SMap Byte) :
    Same g a (State.mk s.part s.pending s.fld s.aux s.hold s.latch s.mem s.poison s.dt s.free s.outbox s.jobs s.progs s.cmds s.qps s.allocs s.rings s.reqs s.ops s.dmas s.placed s.panels s.images s.loads s.maps s.tiles s.tabs s.recs s.progq s.calq s.cals s.checks s.tix s.repls s.refreshes s.mons s.urg s.tlms s.plays s.waves pocket s.safeJobs s.flits s.journal s.commits s.regions) := by
  cases g <;> first | exact h | simp at *

theorem same_mk_poison (h_poison : (g == .poison) = false) (h : Same g a s) (poison : SMap Bool) :
    Same g a (State.mk s.part s.pending s.fld s.aux s.hold s.latch s.mem poison s.dt s.free s.outbox s.jobs s.progs s.cmds s.qps s.allocs s.rings s.reqs s.ops s.dmas s.placed s.panels s.images s.loads s.maps s.tiles s.tabs s.recs s.progq s.calq s.cals s.checks s.tix s.repls s.refreshes s.mons s.urg s.tlms s.plays s.waves s.pocket s.safeJobs s.flits s.journal s.commits s.regions) := by
  cases g <;> first | exact h | simp at *

theorem same_mk_progq (h_progq : (g == .progq) = false) (h : Same g a s) (progq : List PReq) :
    Same g a (State.mk s.part s.pending s.fld s.aux s.hold s.latch s.mem s.poison s.dt s.free s.outbox s.jobs s.progs s.cmds s.qps s.allocs s.rings s.reqs s.ops s.dmas s.placed s.panels s.images s.loads s.maps s.tiles s.tabs s.recs progq s.calq s.cals s.checks s.tix s.repls s.refreshes s.mons s.urg s.tlms s.plays s.waves s.pocket s.safeJobs s.flits s.journal s.commits s.regions) := by
  cases g <;> first | exact h | simp at *

theorem same_mk_progq_calq_cals_checks (h_progq : (g == .progq) = false) (h_calq : (g == .calq) = false) (h_cals : (g == .cals) = false) (h_checks : (g == .checks) = false) (h : Same g a s) (progq : List PReq) (calq : List CalReq) (cals : List CalRun) (checks : List Check) :
    Same g a (State.mk s.part s.pending s.fld s.aux s.hold s.latch s.mem s.poison s.dt s.free s.outbox s.jobs s.progs s.cmds s.qps s.allocs s.rings s.reqs s.ops s.dmas s.placed s.panels s.images s.loads s.maps s.tiles s.tabs s.recs progq calq cals checks s.tix s.repls s.refreshes s.mons s.urg s.tlms s.plays s.waves s.pocket s.safeJobs s.flits s.journal s.commits s.regions) := by
  cases g <;> first | exact h | simp at *

theorem same_mk_progs (h_progs : (g == .progs) = false) (h : Same g a s) (progs : List Prog) :
    Same g a (State.mk s.part s.pending s.fld s.aux s.hold s.latch s.mem s.poison s.dt s.free s.outbox s.jobs progs s.cmds s.qps s.allocs s.rings s.reqs s.ops s.dmas s.placed s.panels s.images s.loads s.maps s.tiles s.tabs s.recs s.progq s.calq s.cals s.checks s.tix s.repls s.refreshes s.mons s.urg s.tlms s.plays s.waves s.pocket s.safeJobs s.flits s.journal s.commits s.regions) := by
  cases g <;> first | exact h | simp at *

theorem same_mk_progs_regions (h_progs : (g == .progs) = false) (h_regions : (g == .regions) = false) (h : Same g a s) (progs : List Prog) (regions : List Region) :
    Same g a (State.mk s.part s.pending s.fld s.aux s.hold s.latch s.mem s.poison s.dt s.free s.outbox s.jobs progs s.cmds s.qps s.allocs s.rings s.reqs s.ops s.dmas s.placed s.panels s.images s.loads s.maps s.tiles s.tabs s.recs s.progq s.calq s.cals s.checks s.tix s.repls s.refreshes s.mons s.urg s.tlms s.plays s.waves s.pocket s.safeJobs s.flits s.journal s.commits regions) := by
  cases g <;> first | exact h | simp at *

theorem same_mk_qps (h_qps : (g == .qps) = false) (h : Same g a s) (qps : SMap (Option QpSt)) :
    Same g a (State.mk s.part s.pending s.fld s.aux s.hold s.latch s.mem s.poison s.dt s.free s.outbox s.jobs s.progs s.cmds qps s.allocs s.rings s.reqs s.ops s.dmas s.placed s.panels s.images s.loads s.maps s.tiles s.tabs s.recs s.progq s.calq s.cals s.checks s.tix s.repls s.refreshes s.mons s.urg s.tlms s.plays s.waves s.pocket s.safeJobs s.flits s.journal s.commits s.regions) := by
  cases g <;> first | exact h | simp at *

theorem same_mk_recs (h_recs : (g == .recs) = false) (h : Same g a s) (recs : SMap TileRec) :
    Same g a (State.mk s.part s.pending s.fld s.aux s.hold s.latch s.mem s.poison s.dt s.free s.outbox s.jobs s.progs s.cmds s.qps s.allocs s.rings s.reqs s.ops s.dmas s.placed s.panels s.images s.loads s.maps s.tiles s.tabs recs s.progq s.calq s.cals s.checks s.tix s.repls s.refreshes s.mons s.urg s.tlms s.plays s.waves s.pocket s.safeJobs s.flits s.journal s.commits s.regions) := by
  cases g <;> first | exact h | simp at *

theorem same_mk_refreshes (h_refreshes : (g == .refreshes) = false) (h : Same g a s) (refreshes : List Refresh) :
    Same g a (State.mk s.part s.pending s.fld s.aux s.hold s.latch s.mem s.poison s.dt s.free s.outbox s.jobs s.progs s.cmds s.qps s.allocs s.rings s.reqs s.ops s.dmas s.placed s.panels s.images s.loads s.maps s.tiles s.tabs s.recs s.progq s.calq s.cals s.checks s.tix s.repls refreshes s.mons s.urg s.tlms s.plays s.waves s.pocket s.safeJobs s.flits s.journal s.commits s.regions) := by
  cases g <;> first | exact h | simp at *

theorem same_mk_regions (h_regions : (g == .regions) = false) (h : Same g a s) (regions : List Region) :
    Same g a (State.mk s.part s.pending s.fld s.aux s.hold s.latch s.mem s.poison s.dt s.free s.outbox s.jobs s.progs s.cmds s.qps s.allocs s.rings s.reqs s.ops s.dmas s.placed s.panels s.images s.loads s.maps s.tiles s.tabs s.recs s.progq s.calq s.cals s.checks s.tix s.repls s.refreshes s.mons s.urg s.tlms s.plays s.waves s.pocket s.safeJobs s.flits s.journal s.commits regions) := by
  cases g <;> first | exact h | simp at *

theorem same_mk_repls (h_repls : (g == .repls) = false) (h : Same g a s) (repls : List Repl) :
    Same g a (State.mk s.part s.pending s.fld s.aux s.hold s.latch s.mem s.poison s.dt s.free s.outbox s.jobs s.progs s.cmds s.qps s.allocs s.rings s.reqs s.ops s.dmas s.placed s.panels s.images s.loads s.maps s.tiles s.tabs s.recs s.progq s.calq s.cals s.checks s.tix repls s.refreshes s.mons s.urg s.tlms s.plays s.waves s.pocket s.safeJobs s.flits s.journal s.commits s.regions) := by
  cases g <;> first | exact h | simp at *

theorem same_mk_reqs (h_reqs : (g == .reqs) = false) (h : Same g a s) (reqs : List Req) :
    Same g a (State.mk s.part s.pending s.fld s.aux s.hold s.latch s.mem s.poison s.dt s.free s.outbox s.jobs s.progs s.cmds s.qps s.allocs s.rings reqs s.ops s.dmas s.placed s.panels s.images s.loads s.maps s.tiles s.tabs s.recs s.progq s.calq s.cals s.checks s.tix s.repls s.refreshes s.mons s.urg s.tlms s.plays s.waves s.pocket s.safeJobs s.flits s.journal s.commits s.regions) := by
  cases g <;> first | exact h | simp at *

theorem same_mk_reqs_ops_tiles (h_reqs : (g == .reqs) = false) (h_ops : (g == .ops) = false) (h_tiles : (g == .tiles) = false) (h : Same g a s) (reqs : List Req) (ops : List Op) (tiles : SMap TileSt) :
    Same g a (State.mk s.part s.pending s.fld s.aux s.hold s.latch s.mem s.poison s.dt s.free s.outbox s.jobs s.progs s.cmds s.qps s.allocs s.rings reqs ops s.dmas s.placed s.panels s.images s.loads s.maps tiles s.tabs s.recs s.progq s.calq s.cals s.checks s.tix s.repls s.refreshes s.mons s.urg s.tlms s.plays s.waves s.pocket s.safeJobs s.flits s.journal s.commits s.regions) := by
  cases g <;> first | exact h | simp at *

theorem same_mk_reqs_tix (h_reqs : (g == .reqs) = false) (h_tix : (g == .tix) = false) (h : Same g a s) (reqs : List Req) (tix : List Tix) :
    Same g a (State.mk s.part s.pending s.fld s.aux s.hold s.latch s.mem s.poison s.dt s.free s.outbox s.jobs s.progs s.cmds s.qps s.allocs s.rings reqs s.ops s.dmas s.placed s.panels s.images s.loads s.maps s.tiles s.tabs s.recs s.progq s.calq s.cals s.checks tix s.repls s.refreshes s.mons s.urg s.tlms s.plays s.waves s.pocket s.safeJobs s.flits s.journal s.commits s.regions) := by
  cases g <;> first | exact h | simp at *

theorem same_mk_rings (h_rings : (g == .rings) = false) (h : Same g a s) (rings : SMap Ring) :
    Same g a (State.mk s.part s.pending s.fld s.aux s.hold s.latch s.mem s.poison s.dt s.free s.outbox s.jobs s.progs s.cmds s.qps s.allocs rings s.reqs s.ops s.dmas s.placed s.panels s.images s.loads s.maps s.tiles s.tabs s.recs s.progq s.calq s.cals s.checks s.tix s.repls s.refreshes s.mons s.urg s.tlms s.plays s.waves s.pocket s.safeJobs s.flits s.journal s.commits s.regions) := by
  cases g <;> first | exact h | simp at *

theorem same_mk_safeJobs (h_safeJobs : (g == .safeJobs) = false) (h : Same g a s) (safeJobs : List Nat) :
    Same g a (State.mk s.part s.pending s.fld s.aux s.hold s.latch s.mem s.poison s.dt s.free s.outbox s.jobs s.progs s.cmds s.qps s.allocs s.rings s.reqs s.ops s.dmas s.placed s.panels s.images s.loads s.maps s.tiles s.tabs s.recs s.progq s.calq s.cals s.checks s.tix s.repls s.refreshes s.mons s.urg s.tlms s.plays s.waves s.pocket safeJobs s.flits s.journal s.commits s.regions) := by
  cases g <;> first | exact h | simp at *

theorem same_mk_tabs (h_tabs : (g == .tabs) = false) (h : Same g a s) (tabs : SMap (SMap (Option Nat))) :
    Same g a (State.mk s.part s.pending s.fld s.aux s.hold s.latch s.mem s.poison s.dt s.free s.outbox s.jobs s.progs s.cmds s.qps s.allocs s.rings s.reqs s.ops s.dmas s.placed s.panels s.images s.loads s.maps s.tiles tabs s.recs s.progq s.calq s.cals s.checks s.tix s.repls s.refreshes s.mons s.urg s.tlms s.plays s.waves s.pocket s.safeJobs s.flits s.journal s.commits s.regions) := by
  cases g <;> first | exact h | simp at *

theorem same_mk_tiles (h_tiles : (g == .tiles) = false) (h : Same g a s) (tiles : SMap TileSt) :
    Same g a (State.mk s.part s.pending s.fld s.aux s.hold s.latch s.mem s.poison s.dt s.free s.outbox s.jobs s.progs s.cmds s.qps s.allocs s.rings s.reqs s.ops s.dmas s.placed s.panels s.images s.loads s.maps tiles s.tabs s.recs s.progq s.calq s.cals s.checks s.tix s.repls s.refreshes s.mons s.urg s.tlms s.plays s.waves s.pocket s.safeJobs s.flits s.journal s.commits s.regions) := by
  cases g <;> first | exact h | simp at *

theorem same_mk_tix (h_tix : (g == .tix) = false) (h : Same g a s) (tix : List Tix) :
    Same g a (State.mk s.part s.pending s.fld s.aux s.hold s.latch s.mem s.poison s.dt s.free s.outbox s.jobs s.progs s.cmds s.qps s.allocs s.rings s.reqs s.ops s.dmas s.placed s.panels s.images s.loads s.maps s.tiles s.tabs s.recs s.progq s.calq s.cals s.checks tix s.repls s.refreshes s.mons s.urg s.tlms s.plays s.waves s.pocket s.safeJobs s.flits s.journal s.commits s.regions) := by
  cases g <;> first | exact h | simp at *

theorem same_mk_tlms (h_tlms : (g == .tlms) = false) (h : Same g a s) (tlms : List Tlm) :
    Same g a (State.mk s.part s.pending s.fld s.aux s.hold s.latch s.mem s.poison s.dt s.free s.outbox s.jobs s.progs s.cmds s.qps s.allocs s.rings s.reqs s.ops s.dmas s.placed s.panels s.images s.loads s.maps s.tiles s.tabs s.recs s.progq s.calq s.cals s.checks s.tix s.repls s.refreshes s.mons s.urg tlms s.plays s.waves s.pocket s.safeJobs s.flits s.journal s.commits s.regions) := by
  cases g <;> first | exact h | simp at *

theorem same_mk_urg (h_urg : (g == .urg) = false) (h : Same g a s) (urg : List Urg) :
    Same g a (State.mk s.part s.pending s.fld s.aux s.hold s.latch s.mem s.poison s.dt s.free s.outbox s.jobs s.progs s.cmds s.qps s.allocs s.rings s.reqs s.ops s.dmas s.placed s.panels s.images s.loads s.maps s.tiles s.tabs s.recs s.progq s.calq s.cals s.checks s.tix s.repls s.refreshes s.mons urg s.tlms s.plays s.waves s.pocket s.safeJobs s.flits s.journal s.commits s.regions) := by
  cases g <;> first | exact h | simp at *

theorem same_mk_waves (h_waves : (g == .waves) = false) (h : Same g a s) (waves : SMap Nat) :
    Same g a (State.mk s.part s.pending s.fld s.aux s.hold s.latch s.mem s.poison s.dt s.free s.outbox s.jobs s.progs s.cmds s.qps s.allocs s.rings s.reqs s.ops s.dmas s.placed s.panels s.images s.loads s.maps s.tiles s.tabs s.recs s.progq s.calq s.cals s.checks s.tix s.repls s.refreshes s.mons s.urg s.tlms s.plays waves s.pocket s.safeJobs s.flits s.journal s.commits s.regions) := by
  cases g <;> first | exact h | simp at *


theorem same_ite {c : Prop} [Decidable c] {t u : State} (h : Same g a t) (k : Same g a u) : Same g a (if c then t else u) := by
  split
  · exact h
  · exact k

theorem State.each_same {α : Type} (h : Same g a s) (l : List α) (f : State → α → State)
    (hf : ∀ t x, Same g a t → Same g a (f t x)) : Same g a (s.each l f) := by
  induction l generalizing s with
  | nil => exact h
  | cons x l ih => exact ih (hf s x h)

theorem foldl_same {α : Type} (h : Same g a s) (l : List α) (f : State → α → State)
    (hf : ∀ t x, Same g a t → Same g a (f t x)) : Same g a (l.foldl f s) := State.each_same h l f hf

theorem State.when_same (h : Same g a s) (c : Bool) (f : State → State) (hf : ∀ t, Same g a t → Same g a (f t)) :
    Same g a (s.when c f) := by
  unfold State.when
  split
  · exact hf s h
  · exact h

/-! The same of operations that answer an option, a result or an outcome; and the steps of the proofs. -/

def SameO (g : Piece) (a : State) : Option State → Prop
  | none => True
  | some t => Same g a t

def SameOP {α : Type} (g : Piece) (a : State) : Option (α × State) → Prop
  | none => True
  | some p => Same g a p.2

def SameE {ε : Type} (g : Piece) (a : State) : Except ε State → Prop
  | .error _ => True
  | .ok t => Same g a t

def SameEP {ε α : Type} (g : Piece) (a : State) : Except ε (State × α) → Prop
  | .error _ => True
  | .ok p => Same g a p.1

/-- Where an outcome is a next state, that state keeps them. -/
def SameR (g : Piece) (a : State) : Host.Outcome State Fault Refusal → Prop
  | .next t => Same g a t
  | .fault _ => True
  | .refused _ => True

theorem sameO_none : SameO g a none := trivial
theorem sameO_some {t : State} (h : Same g a t) : SameO g a (some t) := h
theorem sameOP_none {α : Type} : SameOP g a (α := α) none := trivial
theorem sameOP_some {α : Type} {p : α × State} (h : Same g a p.2) : SameOP g a (some p) := h
theorem sameE_error {ε : Type} {x : ε} : SameE g a (.error x) := trivial
theorem sameE_ok {ε : Type} {t : State} (h : Same g a t) : SameE g a (ε := ε) (.ok t) := h
theorem sameEP_error {ε α : Type} {x : ε} : SameEP g a (α := α) (.error x) := trivial
theorem sameEP_ok {ε α : Type} {p : State × α} (h : Same g a p.1) : SameEP g a (ε := ε) (.ok p) := h
theorem sameR_next {t : State} (h : Same g a t) : SameR g a (.next t) := h
theorem sameR_fault {f : Fault} : SameR g a (.fault f) := trivial
theorem sameR_refused {r : Refusal} : SameR g a (.refused r) := trivial

theorem sameO_ite {c : Prop} [Decidable c] {t u : Option State} (h : SameO g a t) (k : SameO g a u) : SameO g a (if c then t else u) := by
  split
  · exact h
  · exact k

theorem sameE_ite {ε : Type} {c : Prop} [Decidable c] {t u : Except ε State} (h : SameE g a t) (k : SameE g a u) :
    SameE g a (if c then t else u) := by
  split
  · exact h
  · exact k

theorem sameR_ite {c : Prop} [Decidable c] {t u : Host.Outcome State Fault Refusal} (h : SameR g a t) (k : SameR g a u) :
    SameR g a (if c then t else u) := by
  split
  · exact h
  · exact k

theorem same2_ite {α : Type} {c : Prop} [Decidable c] {t u : α × State} (h : Same g a t.2) (k : Same g a u.2) :
    Same g a (if c then t else u).2 := by
  split
  · exact h
  · exact k

theorem same_id {t : State} (h : Same g a t) : Same g a (id t) := h
theorem same_fn {α : Type} {P : Prop} (z : State → α) (k : P) : P := let _ := z; k
theorem same_cut {P : Prop} (z : State) (h : Same g a z) (k : Same g a z → P) : P := k h
theorem same_cut1 {α : Type} {P : Prop} (z : State × α) (h : Same g a z.1) (k : Same g a z.1 → P) : P := k h
theorem same_cut2 {α : Type} {P : Prop} (z : α × State) (h : Same g a z.2) (k : Same g a z.2 → P) : P := k h
theorem same_cutO {P : Prop} (z : Option State) (h : SameO g a z) (k : SameO g a z → P) : P := k h
theorem same_cutOP {α : Type} {P : Prop} (z : Option (α × State)) (h : SameOP g a z) (k : SameOP g a z → P) : P := k h
theorem same_cutE {ε : Type} {P : Prop} (z : Except ε State) (h : SameE g a z) (k : SameE g a z → P) : P := k h
theorem same_cutEP {ε α : Type} {P : Prop} (z : Except ε (State × α)) (h : SameEP g a z) (k : SameEP g a z → P) : P := k h
theorem same_of1 {α : Type} {p : State × α} {t : State} {x : α} (e : p = (t, x)) (h : Same g a p.1) : Same g a t := by
  subst e; exact h
theorem same_of2 {α : Type} {p : α × State} {t : State} {x : α} (e : p = (x, t)) (h : Same g a p.2) : Same g a t := by
  subst e; exact h
theorem same_ofO {o : Option State} {t : State} (e : o = some t) (h : SameO g a o) : Same g a t := by
  subst e; exact h
theorem same_ofOP {α : Type} {o : Option (α × State)} {t : State} {x : α} (e : o = some (x, t)) (h : SameOP g a o) : Same g a t := by
  subst e; exact h
theorem same_cutR {P : Prop} (z : Host.Outcome State Fault Refusal) (h : SameR g a z) (k : SameR g a z → P) : P := k h
theorem same_ofR {o : Host.Outcome State Fault Refusal} {t : State} (e : o = .next t) (h : SameR g a o) : Same g a t := by
  subst e; exact h
theorem same_ofE {ε : Type} {o : Except ε State} {t : State} (e : o = .ok t) (h : SameE g a o) : Same g a t := by
  subst e; exact h
theorem same_ofEP {ε α : Type} {o : Except ε (State × α)} {t : State} {x : α} (e : o = .ok (t, x)) (h : SameEP g a o) : Same g a t := by
  subst e; exact h

end Sys2Proof.Machine
end

