-- ==== Sys2Proof/Laws/SameOps.lean ====
section
/-!
SUPPORT. Laws/SameOps.lean: what the operations of Machine/Ops.lean may change, and that they leave the rest alone.
-/

set_option linter.unusedTactic false
set_option linter.unusedSimpArgs false
set_option linter.unusedVariables false
set_option linter.tactic.unusedName false
set_option linter.unreachableTactic false

namespace Sys2Proof.Machine

def State.emit_w (g : Piece) : Bool := (g == .outbox)

theorem State.emit_same {g : Piece} {a : State} (hg : State.emit_w g = false) {s : State} (h : Same g a s) (x2 : _) :
    Same g a (State.emit s x2) := by
  simp only [State.emit_w] at hg
  unfold State.emit
  repeat' first | intro _ | with_reducible first | assumption | fail_if_no_progress apply same_mk_outbox (by assumption)

def State.emitFlit_w (g : Piece) : Bool := State.emit_w g

theorem State.emitFlit_same {g : Piece} {a : State} (hg : State.emitFlit_w g = false) {s : State} (h : Same g a s) (x2 : _) :
    Same g a (State.emitFlit s x2) := by
  simp only [State.emitFlit_w] at hg
  unfold State.emitFlit
  repeat' first | intro _ | with_reducible first | assumption | apply State.emit_same (by assumption)

def State.pumpFlits_w (g : Piece) : Bool := State.emitFlit_w g || (g == .flits)

theorem State.pumpFlits_same {g : Piece} {a : State} (hg : State.pumpFlits_w g = false) {s : State} (h : Same g a s) :
    Same g a (State.pumpFlits s) := by
  simp only [State.pumpFlits_w, Bool.or_eq_false_iff] at hg
  repeat (have := hg.2; replace hg := hg.1)
  unfold State.pumpFlits
  repeat' first | intro _ | ((fail_if_no_progress extract_lets +onlyGivenNames z); first | (refine same_cut (a := a) (g := g) z ?_ fun hz => ?_) <;> [subst z; clear_value z] | clear_value z) | with_reducible first | assumption | apply State.each_same | apply State.emitFlit_same (by assumption) | fail_if_no_progress apply same_mk_flits (by assumption) | apply same_ite | split

def State.sendFlit_w (g : Piece) : Bool := State.pumpFlits_w g || (g == .aux .flitSeq) || (g == .flits)

theorem State.sendFlit_same {g : Piece} {a : State} (hg : State.sendFlit_w g = false) {s : State} (h : Same g a s) (x2 : _) (x3 : _) (x4 : _) (x5 : _) :
    Same g a (State.sendFlit s x2 x3 x4 x5) := by
  simp only [State.sendFlit_w, Bool.or_eq_false_iff] at hg
  repeat (have := hg.2; replace hg := hg.1)
  unfold State.sendFlit
  repeat' first | intro _ | ((fail_if_no_progress extract_lets +onlyGivenNames z); first | (refine same_cut (a := a) (g := g) z ?_ fun hz => ?_) <;> [subst z; clear_value z] | clear_value z) | with_reducible first | assumption | apply State.pumpFlits_same (by assumption) | apply setAx_same (by assumption) | fail_if_no_progress apply same_mk_flits (by assumption) | apply same_ite | split

def State.sendPieces_w (g : Piece) : Bool := State.sendFlit_w g

theorem State.sendPieces_same {g : Piece} {a : State} (hg : State.sendPieces_w g = false) {s : State} (h : Same g a s) (x2 : _) (x3 : _) (x4 : _) :
    Same g a (State.sendPieces s x2 x3 x4) := by
  simp only [State.sendPieces_w] at hg
  induction x4 generalizing s x3 <;> [skip; rename_i ih]
  all_goals unfold State.sendPieces
  repeat' first | intro _ | with_reducible first | assumption | apply State.sendFlit_same (by assumption) | apply same_ite | apply ih | split

def State.setRing_w (g : Piece) : Bool := (g == .rings)

theorem State.setRing_same {g : Piece} {a : State} (hg : State.setRing_w g = false) {s : State} (h : Same g a s) (x2 : _) (x3 : _) :
    Same g a (State.setRing s x2 x3) := by
  simp only [State.setRing_w] at hg
  unfold State.setRing
  repeat' first | intro _ | with_reducible first | assumption | fail_if_no_progress apply same_mk_rings (by assumption) | split

def State.sendMsix_w (g : Piece) : Bool := State.setRing_w g || State.emit_w g || (g == .fld .MSIX_PBA_PEND)

theorem State.sendMsix_same {g : Piece} {a : State} (hg : State.sendMsix_w g = false) {s : State} (h : Same g a s) (x2 : _) (x3 : _) :
    Same g a (State.sendMsix s x2 x3) := by
  simp only [State.sendMsix_w, Bool.or_eq_false_iff] at hg
  repeat (have := hg.2; replace hg := hg.1)
  unfold State.sendMsix
  repeat' first | intro _ | ((fail_if_no_progress extract_lets +onlyGivenNames z); first | (refine same_cut (a := a) (g := g) z ?_ fun hz => ?_) <;> [subst z; clear_value z] | clear_value z) | with_reducible first | assumption | apply State.setRing_same (by assumption) | apply wr_same (by assumption) | apply State.emit_same (by assumption) | apply same_ite | split

def State.announce_w (g : Piece) : Bool := State.sendMsix_w g || State.setRing_w g

theorem State.announce_same {g : Piece} {a : State} (hg : State.announce_w g = false) {s : State} (h : Same g a s) (x2 : _) (x3 : _) (x4 : _) :
    Same g a (State.announce s x2 x3 x4) := by
  simp only [State.announce_w, Bool.or_eq_false_iff] at hg
  repeat (have := hg.2; replace hg := hg.1)
  unfold State.announce
  repeat' first | intro _ | ((fail_if_no_progress extract_lets +onlyGivenNames z); clear_value z) | with_reducible first | assumption | apply State.sendMsix_same (by assumption) | apply State.setRing_same (by assumption) | apply same_ite | split

def State.writeRecord_w (g : Piece) : Bool := State.announce_w g || (g == .fld .EVR_TAIL_COUNT) || (g == .mem)

theorem State.writeRecord_same {g : Piece} {a : State} (hg : State.writeRecord_w g = false) {s : State} (h : Same g a s) (x2 : _) (x3 : _) (x4 : _) (x5 : _) (x6 : _) (x7 : _) (x8 : _) :
    Same g a (State.writeRecord s x2 x3 x4 x5 x6 x7 x8) := by
  simp only [State.writeRecord_w, Bool.or_eq_false_iff] at hg
  repeat (have := hg.2; replace hg := hg.1)
  unfold State.writeRecord
  repeat' first | intro _ | ((fail_if_no_progress extract_lets +onlyGivenNames z); clear_value z) | with_reducible first | assumption | apply State.announce_same (by assumption) | apply wr_same (by assumption) | apply storeHost_same (by assumption)

def State.flushOverflow_w (g : Piece) : Bool := State.writeRecord_w g || State.setRing_w g

theorem State.flushOverflow_same {g : Piece} {a : State} (hg : State.flushOverflow_w g = false) {s : State} (h : Same g a s) (x2 : _) :
    Same g a (State.flushOverflow s x2) := by
  simp only [State.flushOverflow_w, Bool.or_eq_false_iff] at hg
  repeat (have := hg.2; replace hg := hg.1)
  unfold State.flushOverflow
  repeat' first | intro _ | ((fail_if_no_progress extract_lets +onlyGivenNames z); clear_value z) | with_reducible first | assumption | apply State.writeRecord_same (by assumption) | apply State.setRing_same (by assumption) | apply same_ite | split

def State.dropRecord_w (g : Piece) : Bool := State.flushOverflow_w g || State.setRing_w g || (g == .fld .EVR_OVF_COUNT)

theorem State.dropRecord_same {g : Piece} {a : State} (hg : State.dropRecord_w g = false) {s : State} (h : Same g a s) (x2 : _) :
    Same g a (State.dropRecord s x2) := by
  simp only [State.dropRecord_w, Bool.or_eq_false_iff] at hg
  repeat (have := hg.2; replace hg := hg.1)
  unfold State.dropRecord
  repeat' first | intro _ | ((fail_if_no_progress extract_lets +onlyGivenNames z); clear_value z) | with_reducible first | assumption | apply State.flushOverflow_same (by assumption) | apply State.setRing_same (by assumption) | apply bump_same (by assumption) | apply same_ite | split

def State.post_w (g : Piece) : Bool := State.writeRecord_w g || State.setRing_w g || State.dropRecord_w g || (g == .fld .EVR_OVF_COUNT)

theorem State.post_same {g : Piece} {a : State} (hg : State.post_w g = false) {s : State} (h : Same g a s) (x2 : _) (x3 : _) (x4 : _) (x5 : _) (x6 : _) (x7 : _) :
    Same g a (State.post s x2 x3 x4 x5 x6 x7) := by
  simp only [State.post_w, Bool.or_eq_false_iff] at hg
  repeat (have := hg.2; replace hg := hg.1)
  unfold State.post
  repeat' first | intro _ | ((fail_if_no_progress extract_lets +onlyGivenNames z); clear_value z) | with_reducible first | assumption | apply bump_same (by assumption) | apply State.writeRecord_same (by assumption) | apply State.setRing_same (by assumption) | apply State.dropRecord_same (by assumption) | apply same_ite | split

def State.event_w (g : Piece) : Bool := State.post_w g

theorem State.event_same {g : Piece} {a : State} (hg : State.event_w g = false) {s : State} (h : Same g a s) (x2 : _) (x3 : _) (x4 : _) (x5 : _) :
    Same g a (State.event s x2 x3 x4 x5) := by
  simp only [State.event_w] at hg
  unfold State.event
  repeat' first | intro _ | with_reducible first | assumption | apply State.post_same (by assumption)

def State.superseded_w (g : Piece) : Bool := State.event_w g || (g == .fld .FLT_LASTSUP_LOSE_FUNC) || (g == .fld .FLT_LASTSUP_LOSE_KIND) || (g == .fld .FLT_LASTSUP_WIN_FUNC) || (g == .fld .FLT_LASTSUP_WIN_KIND) || (g == .fld .FLT_SUPCNT_COUNT)

theorem State.superseded_same {g : Piece} {a : State} (hg : State.superseded_w g = false) {s : State} (h : Same g a s) (x2 : _) (x3 : _) (x4 : _) :
    Same g a (State.superseded s x2 x3 x4) := by
  simp only [State.superseded_w, Bool.or_eq_false_iff] at hg
  repeat (have := hg.2; replace hg := hg.1)
  unfold State.superseded
  repeat' first | intro _ | with_reducible first | assumption | apply State.event_same (by assumption) | apply wr_same (by assumption) | apply bump_same (by assumption)

def State.arbitrate_w (g : Piece) : Bool := State.superseded_w g

theorem State.arbitrate_same {g : Piece} {a : State} (hg : State.arbitrate_w g = false) {s : State} (h : Same g a s) (x2 : _) (x3 : _) :
    Same g a (State.arbitrate s x2 x3).2 := by
  simp only [State.arbitrate_w] at hg
  unfold State.arbitrate
  repeat' first | intro _ | ((fail_if_no_progress extract_lets +onlyGivenNames z); clear_value z) | with_reducible first | assumption | apply State.superseded_same (by assumption) | apply foldl_same | apply same2_ite | apply same_ite | split

def State.aer_w (g : Piece) : Bool := State.emit_w g

theorem State.aer_same {g : Piece} {a : State} (hg : State.aer_w g = false) {s : State} (h : Same g a s) (x2 : _) :
    Same g a (State.aer s x2) := by
  simp only [State.aer_w] at hg
  unfold State.aer
  repeat' first | intro _ | with_reducible first | assumption | apply State.emit_same (by assumption) | split

def State.order_w (g : Piece) : Bool := State.arbitrate_w g

theorem State.order_same {g : Piece} {a : State} (hg : State.order_w g = false) {s : State} (h : Same g a s) (x2 : _) (x3 : _) (x4 : _) (hx4 : ∀ y0 y1 y2, Same g a y0 → Same g a (x4 y0 y1 y2)) :
    Same g a (State.order s x2 x3 x4) := by
  simp only [State.order_w] at hg
  unfold State.order
  repeat' first | intro _ | ((fail_if_no_progress extract_lets +onlyGivenNames z); (refine same_cut2 (a := a) (g := g) z ?_ fun hz => ?_) <;> [subst z; clear_value z]) | with_reducible first | assumption | apply hx4 | apply State.arbitrate_same (by assumption) | refine same_of2 (by assumption) ?_

def State.setQp_w (g : Piece) : Bool := (g == .qps)

theorem State.setQp_same {g : Piece} {a : State} (hg : State.setQp_w g = false) {s : State} (h : Same g a s) (x2 : _) (x3 : _) :
    Same g a (State.setQp s x2 x3) := by
  simp only [State.setQp_w] at hg
  unfold State.setQp
  repeat' first | intro _ | with_reducible first | assumption | fail_if_no_progress apply same_mk_qps (by assumption) | split

def State.sendMsg_w (g : Piece) : Bool := State.sendPieces_w g

theorem State.sendMsg_same {g : Piece} {a : State} (hg : State.sendMsg_w g = false) {s : State} (h : Same g a s) (x2 : _) (x3 : _) :
    Same g a (State.sendMsg s x2 x3) := by
  simp only [State.sendMsg_w] at hg
  unfold State.sendMsg
  repeat' first | intro _ | with_reducible first | assumption | apply State.sendPieces_same (by assumption)

def State.mirrorState_w (g : Piece) : Bool := State.sendMsg_w g

theorem State.mirrorState_same {g : Piece} {a : State} (hg : State.mirrorState_w g = false) {s : State} (h : Same g a s) (x2 : _) (x3 : _) :
    Same g a (State.mirrorState s x2 x3) := by
  simp only [State.mirrorState_w] at hg
  unfold State.mirrorState
  repeat' first | intro _ | with_reducible first | assumption | apply State.sendMsg_same (by assumption) | apply same_ite | split

def State.sendPointers_w (g : Piece) : Bool := State.mirrorState_w g

theorem State.sendPointers_same {g : Piece} {a : State} (hg : State.sendPointers_w g = false) {s : State} (h : Same g a s) (x2 : _) :
    Same g a (State.sendPointers s x2) := by
  simp only [State.sendPointers_w] at hg
  unfold State.sendPointers
  repeat' first | intro _ | with_reducible first | assumption | apply State.mirrorState_same (by assumption) | split

def State.complete_w (g : Piece) : Bool := State.setQp_w g || State.post_w g || State.sendPointers_w g || (g == .mem) || (g == .devMem)

theorem State.complete_same {g : Piece} {a : State} (hg : State.complete_w g = false) {s : State} (h : Same g a s) (x2 : _) (x3 : _) (x4 : _) (x5 : _) (x6 : _) (x7 : _) (x8 : _) (x9 : _) (x10 : _) (x11 : _) (x12 : _) (x13 : _) :
    Same g a (State.complete s x2 x3 x4 x5 x6 x7 x8 x9 x10 x11 x12 x13) := by
  simp only [State.complete_w, Bool.or_eq_false_iff] at hg
  repeat (have := hg.2; replace hg := hg.1)
  unfold State.complete
  repeat' first | intro _ | ((fail_if_no_progress extract_lets +onlyGivenNames z); first | (refine same_cut (a := a) (g := g) z ?_ fun hz => ?_) <;> [subst z; clear_value z] | clear_value z) | with_reducible first | assumption | apply State.setQp_same (by assumption) | apply store_same (by assumption) (by assumption) | apply State.post_same (by assumption) | apply State.sendPointers_same (by assumption) | fail_if_no_progress apply same_mk_mem (by assumption) (by assumption) | apply same_ite | split

def State.flushCoalesced_w (g : Piece) : Bool := State.writeRecord_w g || State.setRing_w g

theorem State.flushCoalesced_same {g : Piece} {a : State} (hg : State.flushCoalesced_w g = false) {s : State} (h : Same g a s) (x2 : _) :
    Same g a (State.flushCoalesced s x2) := by
  simp only [State.flushCoalesced_w, Bool.or_eq_false_iff] at hg
  repeat (have := hg.2; replace hg := hg.1)
  unfold State.flushCoalesced
  repeat' first | intro _ | ((fail_if_no_progress extract_lets +onlyGivenNames z); clear_value z) | with_reducible first | assumption | apply State.writeRecord_same (by assumption) | apply State.setRing_same (by assumption) | apply foldl_same | apply same_ite | split

def State.fresh_w (g : Piece) : Bool := (g == .free)

theorem State.fresh_same {g : Piece} {a : State} (hg : State.fresh_w g = false) {s : State} (h : Same g a s) :
    Same g a (State.fresh s).2 := by
  simp only [State.fresh_w] at hg
  unfold State.fresh
  repeat' first | intro _ | with_reducible first | assumption | fail_if_no_progress apply same_mk_free (by assumption)

def State.sendQuotas_w (g : Piece) : Bool := State.mirrorState_w g

theorem State.sendQuotas_same {g : Piece} {a : State} (hg : State.sendQuotas_w g = false) {s : State} (h : Same g a s) (x2 : _) :
    Same g a (State.sendQuotas s x2) := by
  simp only [State.sendQuotas_w] at hg
  unfold State.sendQuotas
  repeat' first | intro _ | with_reducible first | assumption | apply State.mirrorState_same (by assumption)

def State.tenancy_w (g : Piece) : Bool := State.post_w g

theorem State.tenancy_same {g : Piece} {a : State} (hg : State.tenancy_w g = false) {s : State} (h : Same g a s) (x2 : _) (x3 : _) (x4 : _) (x5 : _) :
    Same g a (State.tenancy s x2 x3 x4 x5) := by
  simp only [State.tenancy_w] at hg
  unfold State.tenancy
  repeat' first | intro _ | ((fail_if_no_progress extract_lets +onlyGivenNames z); (refine same_cut (a := a) (g := g) z ?_ fun hz => ?_) <;> [subst z; clear_value z]) | with_reducible first | assumption | apply State.post_same (by assumption) | apply same_ite | split

def State.completeCmd_w (g : Piece) : Bool := State.complete_w g || (g == .cmds)

theorem State.completeCmd_same {g : Piece} {a : State} (hg : State.completeCmd_w g = false) {s : State} (h : Same g a s) (x2 : _) (x3 : _) (x4 : _) (x5 : _) (x6 : _) :
    Same g a (State.completeCmd s x2 x3 x4 x5 x6) := by
  simp only [State.completeCmd_w, Bool.or_eq_false_iff] at hg
  repeat (have := hg.2; replace hg := hg.1)
  unfold State.completeCmd
  repeat' first | intro _ | with_reducible first | assumption | apply State.complete_same (by assumption) | fail_if_no_progress apply same_mk_cmds (by assumption) | apply same_ite | split

def State.journals_w (g : Piece) : Bool := State.sendMsg_w g

theorem State.journals_same {g : Piece} {a : State} (hg : State.journals_w g = false) {s : State} (h : Same g a s) (x2 : _) (x3 : _) :
    Same g a (State.journals s x2 x3) := by
  simp only [State.journals_w] at hg
  unfold State.journals
  repeat' first | intro _ | with_reducible first | assumption | apply State.sendMsg_same (by assumption) | apply same_ite | split

end Sys2Proof.Machine
end

