-- ==== Sys2Proof/Laws/Completion.lean ====
section
/-!
SUPPORT. Laws/Completion.lean: what ending a host command does (R400): the lemma for every command that ends with a completion.
-/

namespace Sys2Proof.Machine

theorem ofLe_leBytes (n v : Nat) : ofLe (leBytes n v) = v % 256 ^ n := by
  induction n generalizing v with
  | zero => simp [leBytes, ofLe, Nat.mod_one]
  | succ n ih =>
    simp only [leBytes, ofLe, ih, BitVec.toNat_ofNat]
    rw [show (256 : Nat) ^ (n + 1) = 256 * 256 ^ n from by rw [Nat.pow_succ, Nat.mul_comm], Nat.mod_mul]

/-- A load of the stored bytes gives the stored number, cut to their width. -/
theorem State.load_store (s : State) (k n v : Nat) : (s.store k n v).load k n = v % 256 ^ n := by
  unfold State.load
  rw [← ofLe_leBytes]
  congr 1
  apply List.ext_getElem
  · simp
  · intro i h1 h2
    simp only [List.getElem_map, List.getElem_range]
    exact storeBytes_at _ _ _ h2

/-- Telling the standby the pointers of a pair changes no pair. -/
theorem State.sendPointers_qp (s : State) (q r : Nat) : (s.sendPointers q).qp r = s.qp r := by
  have h : (s.sendPointers q).qps = s.qps :=
    State.sendPointers_same (g := .qps) (a := s) (by decide) (show Same .qps s s from rfl) q
  simp only [State.qp, h]

/-- Telling the standby the pointers of a pair changes no byte. -/
theorem State.sendPointers_load (s : State) (q k n : Nat) : (s.sendPointers q).load k n = s.load k n := by
  have h : ∀ k, (s.sendPointers q).byte k = s.byte k :=
    State.sendPointers_same (g := .mem) (a := s) (by decide) (show Same .mem s s from fun _ => rfl) q
  simp only [State.load, h]

/-- The completion of a command leaves the state that `Completed` describes, whatever the command did before, as long as that
left the command's pair as it was. -/
theorem State.completeCmd_completed {s u : State} (c : Cmd) (st res : Nat) (hq : u.qp c.q = s.qp c.q)
    (hf : ∀ p, s.qp c.q = some p → s.rd .MIR_FN_ROLE 0 p.fn < 2 → c.event = false →
      u.rd .MIR_FN_ROLE 0 p.fn = s.rd .MIR_FN_ROLE 0 p.fn ∧ u.rd .QP_CFG_CQLOG2 p.fn p.entry = s.rd .QP_CFG_CQLOG2 p.fn p.entry ∧
      u.rd .QP_CQBASE_BASE p.fn p.entry = s.rd .QP_CQBASE_BASE p.fn p.entry ∧
      u.rd .QP_STAT_SQHEAD p.fn p.entry = s.rd .QP_STAT_SQHEAD p.fn p.entry) :
    Completed c st res s (u.completeCmd c st res) := by
  refine ⟨fun k hk => ?_, fun p hp hr he => ?_⟩
  · rw [State.completeCmd_cmds] at hk
    simpa using (List.mem_filter.mp hk).2
  · obtain ⟨f1, f2, f3, f4⟩ := hf p hp hr he
    rw [← hq] at hp
    have g : ∀ (f : Field) d i j, ({ u with cmds := u.cmds.filter (fun c' => c'.id != c.id) } : State).rd f d i j = u.rd f d i j :=
      fun _ _ _ _ => rfl
    have hr' : ¬ 2 ≤ s.rd .MIR_FN_ROLE 0 p.fn := by omega
    unfold State.completeCmd State.complete
    rw [show State.qp { u with cmds := u.cmds.filter (fun c' => c'.id != c.id) } c.q = some p from hp]
    simp only [State.completionKey, State.completionOf, g, f1, f2, f3, f4, he, hr', if_false, Bool.false_eq_true,
      Option.getD_none, Option.isSome_none]
    refine ⟨?_, ?_⟩
    · rw [State.sendPointers_qp]
      simp only [State.qp, State.setQp]
      exact SMap.get_set_same _ _ _ _
    · rw [State.sendPointers_load]
      rw [show ∀ (v : State) (q : Nat) (p : Option QpSt) (k n : Nat), (v.setQp q p).load k n = v.load k n from fun _ _ _ _ _ => rfl]
      rw [State.cqKey, State.load_store]
      simp [addFlag]

end Sys2Proof.Machine
end

