-- ==== Sys2Proof/Laws/Keeps.lean ====
section
/-!
SUPPORT. Laws/Keeps.lean: what every operation of the model leaves alone. `a.Keeps t`: the part and the queue of `t` are those of
`a`, memory and the Pocket keep their canonical form, and register fields stay within their widths. The lemmas of the
Laws/Keeps files say it of one operation each, in the form: if it holds before, it holds after.
-/

namespace Sys2Proof.Machine

/-- From `a` to `t`: the part and the queue are the same, and what is canonical or within its width stays so. -/
def State.Keeps (a t : State) : Prop :=
  t.part = a.part ∧ t.pending = a.pending ∧ (SMap.wf 0 a.mem = true → SMap.wf 0 t.mem = true) ∧
    (SMap.wf 0 a.pocket = true → SMap.wf 0 t.pocket = true) ∧ (fieldsOk a.fld → fieldsOk t.fld)

theorem State.Keeps.refl (a : State) : a.Keeps a := ⟨rfl, rfl, id, id, id⟩

theorem State.Keeps.trans {a b c : State} (h : a.Keeps b) (k : b.Keeps c) : a.Keeps c :=
  ⟨k.1.trans h.1, k.2.1.trans h.2.1, fun x => k.2.2.1 (h.2.2.1 x), fun x => k.2.2.2.1 (h.2.2.2.1 x), fun x => k.2.2.2.2 (h.2.2.2.2 x)⟩

variable {a s : State}

/-- An update of fields other than the part, the queue, the register fields, memory and the Pocket. -/
theorem keeps_mk (h : a.Keeps s) (aux : SMap Nat) (hold : SMap (Option Nat)) (latch : SMap (Option Nat)) (poison : SMap Bool) (dt : Nat) (free : Nat) (outbox : List Out) (jobs : List Job) (progs : List Prog) (cmds : List Cmd) (qps : SMap (Option QpSt)) (allocs : List Alloc) (rings : SMap Ring) (reqs : List Req) (ops : List Op) (dmas : List DmaRun) (placed : List Placed) (panels : List Panel) (images : List Image) (loads : List Load) (maps : List MapSt) (tiles : SMap TileSt) (tabs : SMap (SMap (Option Nat))) (recs : SMap TileRec) (progq : List PReq) (calq : List CalReq) (cals : List CalRun) (checks : List Check) (tix : List Tix) (repls : List Repl) (refreshes : List Refresh) (mons : SMap Mon) (urg : List Urg) (tlms : List Tlm) (plays : List Play) (waves : SMap Nat) (safeJobs : List Nat) (flits : List Flit) (journal : List JEntry) (commits : List CommitRec) (regions : List Region) :
    a.Keeps (State.mk s.part s.pending s.fld aux hold latch s.mem poison dt free outbox jobs progs cmds qps allocs rings reqs ops dmas placed panels images loads maps tiles tabs recs progq calq cals checks tix repls refreshes mons urg tlms plays waves s.pocket safeJobs flits journal commits regions) := h

/-- An update of memory among others. -/
theorem keeps_mk_mem (h : a.Keeps s) (aux : SMap Nat) (hold : SMap (Option Nat)) (latch : SMap (Option Nat)) (poison : SMap Bool) (dt : Nat) (free : Nat) (outbox : List Out) (jobs : List Job) (progs : List Prog) (cmds : List Cmd) (qps : SMap (Option QpSt)) (allocs : List Alloc) (rings : SMap Ring) (reqs : List Req) (ops : List Op) (dmas : List DmaRun) (placed : List Placed) (panels : List Panel) (images : List Image) (loads : List Load) (maps : List MapSt) (tiles : SMap TileSt) (tabs : SMap (SMap (Option Nat))) (recs : SMap TileRec) (progq : List PReq) (calq : List CalReq) (cals : List CalRun) (checks : List Check) (tix : List Tix) (repls : List Repl) (refreshes : List Refresh) (mons : SMap Mon) (urg : List Urg) (tlms : List Tlm) (plays : List Play) (waves : SMap Nat) (safeJobs : List Nat) (flits : List Flit) (journal : List JEntry) (commits : List CommitRec) (regions : List Region) (mem : SMap Byte) (hm : SMap.wf 0 s.mem = true → SMap.wf 0 mem = true) :
    a.Keeps (State.mk s.part s.pending s.fld aux hold latch mem poison dt free outbox jobs progs cmds qps allocs rings reqs ops dmas placed panels images loads maps tiles tabs recs progq calq cals checks tix repls refreshes mons urg tlms plays waves s.pocket safeJobs flits journal commits regions) :=
  ⟨h.1, h.2.1, fun x => hm (h.2.2.1 x), h.2.2.2.1, h.2.2.2.2⟩

/-- An update of the Pocket among others. -/
theorem keeps_mk_pocket (h : a.Keeps s) (aux : SMap Nat) (hold : SMap (Option Nat)) (latch : SMap (Option Nat)) (poison : SMap Bool) (dt : Nat) (free : Nat) (outbox : List Out) (jobs : List Job) (progs : List Prog) (cmds : List Cmd) (qps : SMap (Option QpSt)) (allocs : List Alloc) (rings : SMap Ring) (reqs : List Req) (ops : List Op) (dmas : List DmaRun) (placed : List Placed) (panels : List Panel) (images : List Image) (loads : List Load) (maps : List MapSt) (tiles : SMap TileSt) (tabs : SMap (SMap (Option Nat))) (recs : SMap TileRec) (progq : List PReq) (calq : List CalReq) (cals : List CalRun) (checks : List Check) (tix : List Tix) (repls : List Repl) (refreshes : List Refresh) (mons : SMap Mon) (urg : List Urg) (tlms : List Tlm) (plays : List Play) (waves : SMap Nat) (safeJobs : List Nat) (flits : List Flit) (journal : List JEntry) (commits : List CommitRec) (regions : List Region) (pocket : SMap Byte) (hm : SMap.wf 0 s.pocket = true → SMap.wf 0 pocket = true) :
    a.Keeps (State.mk s.part s.pending s.fld aux hold latch s.mem poison dt free outbox jobs progs cmds qps allocs rings reqs ops dmas placed panels images loads maps tiles tabs recs progq calq cals checks tix repls refreshes mons urg tlms plays waves pocket safeJobs flits journal commits regions) :=
  ⟨h.1, h.2.1, h.2.2.1, fun x => hm (h.2.2.2.1 x), h.2.2.2.2⟩

/-- An update of the register fields among others. -/
theorem keeps_mk_fld (h : a.Keeps s) (aux : SMap Nat) (hold : SMap (Option Nat)) (latch : SMap (Option Nat)) (poison : SMap Bool) (dt : Nat) (free : Nat) (outbox : List Out) (jobs : List Job) (progs : List Prog) (cmds : List Cmd) (qps : SMap (Option QpSt)) (allocs : List Alloc) (rings : SMap Ring) (reqs : List Req) (ops : List Op) (dmas : List DmaRun) (placed : List Placed) (panels : List Panel) (images : List Image) (loads : List Load) (maps : List MapSt) (tiles : SMap TileSt) (tabs : SMap (SMap (Option Nat))) (recs : SMap TileRec) (progq : List PReq) (calq : List CalReq) (cals : List CalRun) (checks : List Check) (tix : List Tix) (repls : List Repl) (refreshes : List Refresh) (mons : SMap Mon) (urg : List Urg) (tlms : List Tlm) (plays : List Play) (waves : SMap Nat) (safeJobs : List Nat) (flits : List Flit) (journal : List JEntry) (commits : List CommitRec) (regions : List Region) (fld : SMap Nat) (hm : fieldsOk s.fld → fieldsOk fld) :
    a.Keeps (State.mk s.part s.pending fld aux hold latch s.mem poison dt free outbox jobs progs cmds qps allocs rings reqs ops dmas placed panels images loads maps tiles tabs recs progq calq cals checks tix repls refreshes mons urg tlms plays waves s.pocket safeJobs flits journal commits regions) :=
  ⟨h.1, h.2.1, h.2.2.1, h.2.2.2.1, fun x => hm (h.2.2.2.2 x)⟩

theorem keeps_ite {c : Prop} [Decidable c] {t u : State} (h : a.Keeps t) (k : a.Keeps u) : a.Keeps (if c then t else u) := by
  split
  · exact h
  · exact k

theorem State.each_keeps {α : Type} (h : a.Keeps s) (l : List α) (f : State → α → State)
    (hf : ∀ t x, a.Keeps t → a.Keeps (f t x)) : a.Keeps (s.each l f) := by
  induction l generalizing s with
  | nil => exact h
  | cons x l ih => exact ih (hf s x h)

theorem foldl_keeps {α : Type} (h : a.Keeps s) (l : List α) (f : State → α → State)
    (hf : ∀ t x, a.Keeps t → a.Keeps (f t x)) : a.Keeps (l.foldl f s) := State.each_keeps h l f hf

theorem State.when_keeps (h : a.Keeps s) (c : Bool) (f : State → State) (hf : ∀ t, a.Keeps t → a.Keeps (f t)) :
    a.Keeps (s.when c f) := by
  unfold State.when
  split
  · exact hf s h
  · exact h

theorem SMap.mem_set {α : Type} [DecidableEq α] {d : α} {m : SMap α} {k : Nat} {v : α} {e : Nat × α} (h : e ∈ m.set d k v) :
    e = (k, v) ∨ e ∈ m := by
  unfold SMap.set at h
  split at h
  · exact Or.inr (List.mem_of_mem_filter h)
  · exact SMap.mem_put h

/-- A filter keeps the canonical form. -/
theorem SMap.wf_filter {α : Type} [DecidableEq α] {d : α} {m : SMap α} (p : Nat × α → Bool) (h : SMap.wf d m = true) :
    SMap.wf d (List.filter p m) = true := by
  simp only [SMap.wf, Bool.and_eq_true, List.all_eq_true, decide_eq_true_eq] at h ⊢
  refine ⟨?_, fun e he => h.2 e (List.mem_of_mem_filter he)⟩
  have key : ∀ lo, SMap.rising m lo = true → SMap.rising (List.filter p m) lo = true := by
    clear h
    induction m with
    | nil => intro lo _; rfl
    | cons e t ih =>
      intro lo h
      obtain ⟨k, v⟩ := e
      simp only [SMap.rising, Bool.and_eq_true, decide_eq_true_eq] at h
      simp only [List.filter]
      split
      · simp only [SMap.rising, Bool.and_eq_true, decide_eq_true_eq]
        exact ⟨h.1, ih _ h.2⟩
      · exact ih lo (SMap.rising_mono h.2 (by omega))
  exact key 0 h.1

theorem storeBytes_wf {m : SMap Byte} (k : Nat) (l : List Byte) (h : SMap.wf 0 m = true) : SMap.wf 0 (storeBytes m k l) = true := by
  induction l generalizing m k with
  | nil => exact h
  | cons b t ih => exact ih (k + 1) (SMap.wf_set h k b)

theorem fieldsOk_set {m : SMap Nat} (h : fieldsOk m) (x : Nat) (f : Field) (v d i j : Nat) (hv : v < 2 ^ f.width) :
    fieldsOk (m.set x (fieldKey f d i j) v) := by
  intro e he
  rcases SMap.mem_set he with rfl | he
  · exact ⟨f, d, i, j, rfl, hv⟩
  · exact h e he

/-! The same of operations that answer an option, a result or an outcome; and the steps of the proofs. -/

def State.KeepsO (a : State) : Option State → Prop
  | none => True
  | some t => a.Keeps t

def State.KeepsOP {α : Type} (a : State) : Option (α × State) → Prop
  | none => True
  | some p => a.Keeps p.2

def State.KeepsE {ε : Type} (a : State) : Except ε State → Prop
  | .error _ => True
  | .ok t => a.Keeps t

def State.KeepsEP {ε α : Type} (a : State) : Except ε (State × α) → Prop
  | .error _ => True
  | .ok p => a.Keeps p.1

/-- Where an outcome is a next state, that state keeps them. -/
def State.KeepsR (a : State) : Host.Outcome State Fault Refusal → Prop
  | .next t => a.Keeps t
  | .fault _ => True
  | .refused _ => True

theorem keepsO_none : a.KeepsO none := trivial
theorem keepsO_some {t : State} (h : a.Keeps t) : a.KeepsO (some t) := h
theorem keepsOP_none {α : Type} : a.KeepsOP (α := α) none := trivial
theorem keepsOP_some {α : Type} {p : α × State} (h : a.Keeps p.2) : a.KeepsOP (some p) := h
theorem keepsE_error {ε : Type} {x : ε} : a.KeepsE (.error x) := trivial
theorem keepsE_ok {ε : Type} {t : State} (h : a.Keeps t) : a.KeepsE (ε := ε) (.ok t) := h
theorem keepsEP_error {ε α : Type} {x : ε} : a.KeepsEP (α := α) (.error x) := trivial
theorem keepsEP_ok {ε α : Type} {p : State × α} (h : a.Keeps p.1) : a.KeepsEP (ε := ε) (.ok p) := h
theorem keepsR_next {t : State} (h : a.Keeps t) : a.KeepsR (.next t) := h
theorem keepsR_fault {f : Fault} : a.KeepsR (.fault f) := trivial
theorem keepsR_refused {r : Refusal} : a.KeepsR (.refused r) := trivial

theorem keepsO_ite {c : Prop} [Decidable c] {t u : Option State} (h : a.KeepsO t) (k : a.KeepsO u) : a.KeepsO (if c then t else u) := by
  split
  · exact h
  · exact k

theorem keepsE_ite {ε : Type} {c : Prop} [Decidable c] {t u : Except ε State} (h : a.KeepsE t) (k : a.KeepsE u) :
    a.KeepsE (if c then t else u) := by
  split
  · exact h
  · exact k

theorem keepsR_ite {c : Prop} [Decidable c] {t u : Host.Outcome State Fault Refusal} (h : a.KeepsR t) (k : a.KeepsR u) :
    a.KeepsR (if c then t else u) := by
  split
  · exact h
  · exact k

theorem keeps2_ite {α : Type} {c : Prop} [Decidable c] {t u : α × State} (h : a.Keeps t.2) (k : a.Keeps u.2) :
    a.Keeps (if c then t else u).2 := by
  split
  · exact h
  · exact k

theorem keeps_id {t : State} (h : a.Keeps t) : a.Keeps (id t) := h
theorem keeps_fn {α : Type} {P : Prop} (z : State → α) (k : P) : P := let _ := z; k
theorem keeps_cut {P : Prop} (z : State) (h : a.Keeps z) (k : a.Keeps z → P) : P := k h
theorem keeps_cut1 {α : Type} {P : Prop} (z : State × α) (h : a.Keeps z.1) (k : a.Keeps z.1 → P) : P := k h
theorem keeps_cut2 {α : Type} {P : Prop} (z : α × State) (h : a.Keeps z.2) (k : a.Keeps z.2 → P) : P := k h
theorem keeps_cutO {P : Prop} (z : Option State) (h : a.KeepsO z) (k : a.KeepsO z → P) : P := k h
theorem keeps_cutOP {α : Type} {P : Prop} (z : Option (α × State)) (h : a.KeepsOP z) (k : a.KeepsOP z → P) : P := k h
theorem keeps_cutE {ε : Type} {P : Prop} (z : Except ε State) (h : a.KeepsE z) (k : a.KeepsE z → P) : P := k h
theorem keeps_cutEP {ε α : Type} {P : Prop} (z : Except ε (State × α)) (h : a.KeepsEP z) (k : a.KeepsEP z → P) : P := k h
theorem keeps_of1 {α : Type} {p : State × α} {t : State} {x : α} (e : p = (t, x)) (h : a.Keeps p.1) : a.Keeps t := by
  subst e; exact h
theorem keeps_of2 {α : Type} {p : α × State} {t : State} {x : α} (e : p = (x, t)) (h : a.Keeps p.2) : a.Keeps t := by
  subst e; exact h
theorem keeps_ofO {o : Option State} {t : State} (e : o = some t) (h : a.KeepsO o) : a.Keeps t := by
  subst e; exact h
theorem keeps_ofOP {α : Type} {o : Option (α × State)} {t : State} {x : α} (e : o = some (x, t)) (h : a.KeepsOP o) : a.Keeps t := by
  subst e; exact h
theorem keeps_cutR {P : Prop} (z : Host.Outcome State Fault Refusal) (h : a.KeepsR z) (k : a.KeepsR z → P) : P := k h
theorem keeps_ofR {o : Host.Outcome State Fault Refusal} {t : State} (e : o = .next t) (h : a.KeepsR o) : a.Keeps t := by
  subst e; exact h
theorem keeps_ofE {ε : Type} {o : Except ε State} {t : State} (e : o = .ok t) (h : a.KeepsE o) : a.Keeps t := by
  subst e; exact h
theorem keeps_ofEP {ε α : Type} {o : Except ε (State × α)} {t : State} {x : α} (e : o = .ok (t, x)) (h : a.KeepsEP o) : a.Keeps t := by
  subst e; exact h

end Sys2Proof.Machine
end

