-- ==== Sys2Proof/Laws/KeepsOps.lean ====
section
/-!
SUPPORT. Laws/KeepsOps.lean: the operations of Machine/Ops.lean keep what Laws/Keeps.lean names.
-/

set_option linter.unusedTactic false
set_option linter.unusedVariables false
set_option linter.tactic.unusedName false
set_option linter.unreachableTactic false

namespace Sys2Proof.Machine

theorem State.emit_keeps {a s : State} (h : a.Keeps s) (x2 : _) :
    a.Keeps (State.emit s x2) := by
  unfold State.emit
  repeat' first | intro _ | with_reducible first | assumption | fail_if_no_progress apply keeps_mk

theorem State.emitFlit_keeps {a s : State} (h : a.Keeps s) (x2 : _) :
    a.Keeps (State.emitFlit s x2) := by
  unfold State.emitFlit
  repeat' first | intro _ | with_reducible first | assumption | apply State.emit_keeps

theorem State.pumpFlits_keeps {a s : State} (h : a.Keeps s) :
    a.Keeps (State.pumpFlits s) := by
  unfold State.pumpFlits
  repeat' first | intro _ | ((fail_if_no_progress extract_lets +onlyGivenNames z); first | (refine keeps_cut (a := a) z ?_ fun hz => ?_) <;> [subst z; clear_value z] | clear_value z) | with_reducible first | assumption | apply State.each_keeps | apply State.emitFlit_keeps | fail_if_no_progress apply keeps_mk | apply keeps_ite | split

theorem State.setAx_keeps {a s : State} (h : a.Keeps s) (x2 : _) (x3 : _) (x4 : _) (x5 : _) (x6 : _) :
    a.Keeps (State.setAx s x2 x3 x4 x5 x6) := by
  unfold State.setAx
  repeat' first | intro _ | with_reducible first | assumption | fail_if_no_progress apply keeps_mk | split

theorem State.sendFlit_keeps {a s : State} (h : a.Keeps s) (x2 : _) (x3 : _) (x4 : _) (x5 : _) :
    a.Keeps (State.sendFlit s x2 x3 x4 x5) := by
  unfold State.sendFlit
  repeat' first | intro _ | ((fail_if_no_progress extract_lets +onlyGivenNames z); first | (refine keeps_cut (a := a) z ?_ fun hz => ?_) <;> [subst z; clear_value z] | clear_value z) | with_reducible first | assumption | apply State.pumpFlits_keeps | apply State.setAx_keeps | fail_if_no_progress apply keeps_mk | apply keeps_ite | split

theorem State.sendPieces_keeps {a s : State} (h : a.Keeps s) (x2 : _) (x3 : _) (x4 : _) :
    a.Keeps (State.sendPieces s x2 x3 x4) := by
  induction x4 generalizing s x3 <;> [skip; rename_i ih]
  all_goals unfold State.sendPieces
  repeat' first | intro _ | with_reducible first | assumption | apply State.sendFlit_keeps | apply keeps_ite | apply ih | split

theorem State.wr_keeps {a s : State} (h : a.Keeps s) (x2 : _) (x3 : _) (x4 : _) (x5 : _) (x6 : _) :
    a.Keeps (State.wr s x2 x3 x4 x5 x6) := by
  exact keeps_mk_fld h (hm := fun k => fieldsOk_set k _ _ _ _ _ _ (Nat.mod_lt _ (Nat.two_pow_pos _))) ..

theorem State.bump_keeps {a s : State} (h : a.Keeps s) (x2 : _) (x3 : _) (x4 : _) (x5 : _) (x6 : _) :
    a.Keeps (State.bump s x2 x3 x4 x5 x6) := by
  unfold State.bump
  repeat' first | intro _ | with_reducible first | assumption | apply State.wr_keeps

theorem State.setRing_keeps {a s : State} (h : a.Keeps s) (x2 : _) (x3 : _) :
    a.Keeps (State.setRing s x2 x3) := by
  unfold State.setRing
  repeat' first | intro _ | with_reducible first | assumption | fail_if_no_progress apply keeps_mk | split

theorem State.sendMsix_keeps {a s : State} (h : a.Keeps s) (x2 : _) (x3 : _) :
    a.Keeps (State.sendMsix s x2 x3) := by
  unfold State.sendMsix
  repeat' first | intro _ | ((fail_if_no_progress extract_lets +onlyGivenNames z); first | (refine keeps_cut (a := a) z ?_ fun hz => ?_) <;> [subst z; clear_value z] | clear_value z) | with_reducible first | assumption | apply State.setRing_keeps | apply State.wr_keeps | apply State.emit_keeps | apply keeps_ite | split

theorem State.announce_keeps {a s : State} (h : a.Keeps s) (x2 : _) (x3 : _) (x4 : _) :
    a.Keeps (State.announce s x2 x3 x4) := by
  unfold State.announce
  repeat' first | intro _ | ((fail_if_no_progress extract_lets +onlyGivenNames z); clear_value z) | with_reducible first | assumption | apply State.sendMsix_keeps | apply State.setRing_keeps | apply keeps_ite | split

theorem State.store_keeps {a s : State} (h : a.Keeps s) (x2 : _) (x3 : _) (x4 : _) :
    a.Keeps (State.store s x2 x3 x4) := by
  exact keeps_mk_mem h (hm := fun k => storeBytes_wf _ _ k) ..

theorem State.writeRecord_keeps {a s : State} (h : a.Keeps s) (x2 : _) (x3 : _) (x4 : _) (x5 : _) (x6 : _) (x7 : _) (x8 : _) :
    a.Keeps (State.writeRecord s x2 x3 x4 x5 x6 x7 x8) := by
  unfold State.writeRecord
  repeat' first | intro _ | ((fail_if_no_progress extract_lets +onlyGivenNames z); clear_value z) | with_reducible first | assumption | apply State.announce_keeps | apply State.wr_keeps | apply State.store_keeps

theorem State.flushOverflow_keeps {a s : State} (h : a.Keeps s) (x2 : _) :
    a.Keeps (State.flushOverflow s x2) := by
  unfold State.flushOverflow
  repeat' first | intro _ | ((fail_if_no_progress extract_lets +onlyGivenNames z); clear_value z) | with_reducible first | assumption | apply State.writeRecord_keeps | apply State.setRing_keeps | apply keeps_ite | split

theorem State.dropRecord_keeps {a s : State} (h : a.Keeps s) (x2 : _) :
    a.Keeps (State.dropRecord s x2) := by
  unfold State.dropRecord
  repeat' first | intro _ | ((fail_if_no_progress extract_lets +onlyGivenNames z); clear_value z) | with_reducible first | assumption | apply State.flushOverflow_keeps | apply State.setRing_keeps | apply State.bump_keeps | apply keeps_ite | split

theorem State.post_keeps {a s : State} (h : a.Keeps s) (x2 : _) (x3 : _) (x4 : _) (x5 : _) (x6 : _) (x7 : _) :
    a.Keeps (State.post s x2 x3 x4 x5 x6 x7) := by
  unfold State.post
  repeat' first | intro _ | ((fail_if_no_progress extract_lets +onlyGivenNames z); clear_value z) | with_reducible first | assumption | apply State.bump_keeps | apply State.writeRecord_keeps | apply State.setRing_keeps | apply State.dropRecord_keeps | apply keeps_ite | split

theorem State.event_keeps {a s : State} (h : a.Keeps s) (x2 : _) (x3 : _) (x4 : _) (x5 : _) :
    a.Keeps (State.event s x2 x3 x4 x5) := by
  unfold State.event
  repeat' first | intro _ | with_reducible first | assumption | apply State.post_keeps

theorem State.superseded_keeps {a s : State} (h : a.Keeps s) (x2 : _) (x3 : _) (x4 : _) :
    a.Keeps (State.superseded s x2 x3 x4) := by
  unfold State.superseded
  repeat' first | intro _ | with_reducible first | assumption | apply State.event_keeps | apply State.wr_keeps | apply State.bump_keeps

theorem State.arbitrate_keeps {a s : State} (h : a.Keeps s) (x2 : _) (x3 : _) :
    a.Keeps (State.arbitrate s x2 x3).2 := by
  unfold State.arbitrate
  repeat' first | intro _ | ((fail_if_no_progress extract_lets +onlyGivenNames z); clear_value z) | with_reducible first | assumption | apply State.superseded_keeps | apply foldl_keeps | apply keeps2_ite | apply keeps_ite | split

theorem State.aer_keeps {a s : State} (h : a.Keeps s) (x2 : _) :
    a.Keeps (State.aer s x2) := by
  unfold State.aer
  repeat' first | intro _ | with_reducible first | assumption | apply State.emit_keeps | split

theorem State.order_keeps {a s : State} (h : a.Keeps s) (x2 : _) (x3 : _) (x4 : _) (hx4 : ∀ y0 y1 y2, a.Keeps y0 → a.Keeps (x4 y0 y1 y2)) :
    a.Keeps (State.order s x2 x3 x4) := by
  unfold State.order
  repeat' first | intro _ | ((fail_if_no_progress extract_lets +onlyGivenNames z); (refine keeps_cut2 (a := a) z ?_ fun hz => ?_) <;> [subst z; clear_value z]) | with_reducible first | assumption | apply hx4 | apply State.arbitrate_keeps | refine keeps_of2 (by assumption) ?_

theorem State.setQp_keeps {a s : State} (h : a.Keeps s) (x2 : _) (x3 : _) :
    a.Keeps (State.setQp s x2 x3) := by
  unfold State.setQp
  repeat' first | intro _ | with_reducible first | assumption | fail_if_no_progress apply keeps_mk | split

theorem State.sendMsg_keeps {a s : State} (h : a.Keeps s) (x2 : _) (x3 : _) :
    a.Keeps (State.sendMsg s x2 x3) := by
  unfold State.sendMsg
  repeat' first | intro _ | with_reducible first | assumption | apply State.sendPieces_keeps

theorem State.mirrorState_keeps {a s : State} (h : a.Keeps s) (x2 : _) (x3 : _) :
    a.Keeps (State.mirrorState s x2 x3) := by
  unfold State.mirrorState
  repeat' first | intro _ | with_reducible first | assumption | apply State.sendMsg_keeps | apply keeps_ite | split

theorem State.sendPointers_keeps {a s : State} (h : a.Keeps s) (x2 : _) :
    a.Keeps (State.sendPointers s x2) := by
  unfold State.sendPointers
  repeat' first | intro _ | with_reducible first | assumption | apply State.mirrorState_keeps | split

theorem State.complete_keeps {a s : State} (h : a.Keeps s) (x2 : _) (x3 : _) (x4 : _) (x5 : _) (x6 : _) (x7 : _) (x8 : _) (x9 : _) (x10 : _) (x11 : _) (x12 : _) (x13 : _) :
    a.Keeps (State.complete s x2 x3 x4 x5 x6 x7 x8 x9 x10 x11 x12 x13) := by
  unfold State.complete
  repeat' first | intro _ | ((fail_if_no_progress extract_lets +onlyGivenNames z); first | (refine keeps_cut (a := a) z ?_ fun hz => ?_) <;> [subst z; clear_value z] | clear_value z) | with_reducible first | assumption | apply State.setQp_keeps | apply State.store_keeps | apply State.post_keeps | apply State.sendPointers_keeps | apply keeps_ite | split

theorem State.flushCoalesced_keeps {a s : State} (h : a.Keeps s) (x2 : _) :
    a.Keeps (State.flushCoalesced s x2) := by
  unfold State.flushCoalesced
  repeat' first | intro _ | ((fail_if_no_progress extract_lets +onlyGivenNames z); clear_value z) | with_reducible first | assumption | apply State.writeRecord_keeps | apply State.setRing_keeps | apply foldl_keeps | apply keeps_ite | split

theorem State.fresh_keeps {a s : State} (h : a.Keeps s) :
    a.Keeps (State.fresh s).2 := by
  unfold State.fresh
  repeat' first | intro _ | with_reducible first | assumption | fail_if_no_progress apply keeps_mk

theorem State.sendQuotas_keeps {a s : State} (h : a.Keeps s) (x2 : _) :
    a.Keeps (State.sendQuotas s x2) := by
  unfold State.sendQuotas
  repeat' first | intro _ | with_reducible first | assumption | apply State.mirrorState_keeps

theorem State.tenancy_keeps {a s : State} (h : a.Keeps s) (x2 : _) (x3 : _) (x4 : _) (x5 : _) :
    a.Keeps (State.tenancy s x2 x3 x4 x5) := by
  unfold State.tenancy
  repeat' first | intro _ | ((fail_if_no_progress extract_lets +onlyGivenNames z); (refine keeps_cut (a := a) z ?_ fun hz => ?_) <;> [subst z; clear_value z]) | with_reducible first | assumption | apply State.post_keeps | apply keeps_ite | split

theorem State.completeCmd_keeps {a s : State} (h : a.Keeps s) (x2 : _) (x3 : _) (x4 : _) (x5 : _) (x6 : _) :
    a.Keeps (State.completeCmd s x2 x3 x4 x5 x6) := by
  unfold State.completeCmd
  repeat' first | intro _ | with_reducible first | assumption | apply State.complete_keeps | fail_if_no_progress apply keeps_mk | apply keeps_ite | split

theorem State.journals_keeps {a s : State} (h : a.Keeps s) (x2 : _) (x3 : _) :
    a.Keeps (State.journals s x2 x3) := by
  unfold State.journals
  repeat' first | intro _ | with_reducible first | assumption | apply State.sendMsg_keeps | apply keeps_ite | split

end Sys2Proof.Machine
end

