-- ==== Sys2Proof/Laws/KeepsBanks.lean ====
section
/-!
SUPPORT. Laws/KeepsBanks.lean: the operations of Machine/Banks.lean keep what Laws/Keeps.lean names.
-/

set_option linter.unusedTactic false
set_option linter.unusedVariables false
set_option linter.tactic.unusedName false
set_option linter.unreachableTactic false

namespace Sys2Proof.Machine

theorem State.bankPass_keeps {a s : State} (h : a.Keeps s) (x2 : _) (x3 : _) (x4 : _) (x5 : _) :
    a.Keeps (State.bankPass s x2 x3 x4 x5) := by
  unfold State.bankPass
  repeat' first | intro _ | with_reducible first | assumption | apply State.bump_keeps | apply State.setAx_keeps | apply State.wr_keeps

theorem State.clearRange_keeps {a s : State} (h : a.Keeps s) (x2 : _) (x3 : _) :
    a.Keeps (State.clearRange s x2 x3) := by
  exact keeps_mk_mem h (hm := fun k => SMap.wf_filter _ k) ..

theorem State.zeroBanks_keeps {a s : State} (h : a.Keeps s) (x2 : _) :
    a.Keeps (State.zeroBanks s x2) := by
  unfold State.zeroBanks
  repeat' first | intro _ | with_reducible first | assumption | apply State.clearRange_keeps

theorem State.startBanks_keeps {a s : State} (h : a.Keeps s) (x2 : _) :
    a.Keeps (State.startBanks s x2) := by
  unfold State.startBanks
  repeat' first | intro _ | with_reducible first | assumption | apply State.each_keeps | apply State.zeroBanks_keeps | apply State.setAx_keeps | apply State.wr_keeps

theorem foldSet_wf {m : SMap Byte} (l : List (Nat × Byte)) (h : SMap.wf 0 m = true) :
    SMap.wf 0 (l.foldl (fun m e => m.set 0 e.1 e.2) m) = true := by
  induction l generalizing m with
  | nil => exact h
  | cons e t ih => exact ih (SMap.wf_set h _ _)

theorem State.putBytes_keeps {a s : State} (h : a.Keeps s) (x2 : _) :
    a.Keeps (State.putBytes s x2) := by
  exact keeps_mk_mem h (hm := fun k => foldSet_wf _ k) ..

theorem State.copyProg_keeps {a s : State} (h : a.Keeps s) (x2 : _) (x3 : _) (x4 : _) :
    a.Keeps (State.copyProg s x2 x3 x4) := by
  unfold State.copyProg
  repeat' first | intro _ | ((fail_if_no_progress extract_lets +onlyGivenNames z); (refine keeps_cut (a := a) z ?_ fun hz => ?_) <;> [subst z; clear_value z]) | with_reducible first | assumption | apply State.putBytes_keeps | fail_if_no_progress apply keeps_mk | apply keeps_ite | split

theorem State.copyPrograms_keeps {a s : State} (h : a.Keeps s) (x2 : _) :
    a.Keeps (State.copyPrograms s x2) := by
  unfold State.copyPrograms
  repeat' first | intro _ | with_reducible first | assumption | apply State.each_keeps | apply State.copyProg_keeps | split

theorem State.bankZeroEnded_keeps {a s : State} (h : a.Keeps s) (x2 : _) (x3 : _) :
    a.Keeps (State.bankZeroEnded s x2 x3) := by
  unfold State.bankZeroEnded
  repeat' first | intro _ | ((fail_if_no_progress extract_lets +onlyGivenNames z); first | (refine keeps_cut (a := a) z ?_ fun hz => ?_) <;> [subst z; clear_value z] | clear_value z) | with_reducible first | assumption | apply State.setAx_keeps | apply State.wr_keeps | apply State.clearRange_keeps | apply State.bankPass_keeps | apply keeps_ite | split

theorem State.poisonAt_keeps {a s : State} (h : a.Keeps s) (x2 : _) :
    a.Keeps (State.poisonAt s x2) := by
  unfold State.poisonAt
  repeat' first | intro _ | with_reducible first | assumption | apply State.event_keeps | fail_if_no_progress apply keeps_mk | apply keeps_ite | split

theorem State.bankDouble_keeps {a s : State} (h : a.Keeps s) (x2 : _) :
    a.Keeps (State.bankDouble s x2) := by
  unfold State.bankDouble
  repeat' first | intro _ | ((fail_if_no_progress extract_lets +onlyGivenNames z); clear_value z) | with_reducible first | assumption | apply State.wr_keeps | apply State.bump_keeps | apply State.poisonAt_keeps | apply keeps_ite | split

theorem State.readBlock_keeps {a s : State} (h : a.Keeps s) (x2 : _) (x3 : _) (x4 : _) :
    a.Keeps (State.readBlock s x2 x3 x4) := by
  unfold State.readBlock
  repeat' first | intro _ | ((fail_if_no_progress extract_lets +onlyGivenNames z); clear_value z) | with_reducible first | assumption | apply State.store_keeps | apply State.bump_keeps | apply State.wr_keeps | apply State.poisonAt_keeps | apply keeps_ite | split

theorem State.meets_keeps {a s : State} (h : a.Keeps s) (x2 : _) (x3 : _) :
    a.Keeps (State.meets s x2 x3) := by
  unfold State.meets
  repeat' first | intro _ | ((fail_if_no_progress extract_lets +onlyGivenNames z); first | (refine keeps_cut (a := a) z ?_ fun hz => ?_) <;> [subst z; clear_value z] | clear_value z) | with_reducible first | assumption | apply State.each_keeps | apply State.bump_keeps | apply State.bankDouble_keeps | apply State.readBlock_keeps | apply keeps_ite | split

theorem State.reads_keeps {a s : State} (h : a.Keeps s) (x2 : _) (x3 : _) :
    a.Keeps (State.reads s x2 x3).2 := by
  unfold State.reads
  repeat' first | intro _ | ((fail_if_no_progress extract_lets +onlyGivenNames z); (refine keeps_cut (a := a) z ?_ fun hz => ?_) <;> [subst z; clear_value z]) | with_reducible first | assumption | apply State.meets_keeps | apply State.aer_keeps | apply keeps2_ite | apply keeps_ite | split

theorem State.bankZeroStart_keeps {a s : State} (h : a.Keeps s) (x2 : _) (x3 : _) :
    a.Keeps (State.bankZeroStart s x2 x3) := by
  unfold State.bankZeroStart
  repeat' first | intro _ | with_reducible first | assumption | apply State.setAx_keeps | apply State.wr_keeps

theorem State.bankMove_keeps {a s : State} (h : a.Keeps s) (x2 : _) (x3 : _) (x4 : _) (x5 : _) :
    a.Keeps (State.bankMove s x2 x3 x4 x5) := by
  unfold State.bankMove
  repeat' first | intro _ | ((fail_if_no_progress extract_lets +onlyGivenNames z); (refine keeps_cut (a := a) z ?_ fun hz => ?_) <;> [subst z; clear_value z]) | with_reducible first | assumption | apply State.setAx_keeps | apply State.wr_keeps | apply State.bankZeroStart_keeps | apply State.bankPass_keeps | apply keeps_ite | split

theorem State.banksMove_keeps {a s : State} (h : a.Keeps s) (x2 : _) (x3 : _) (x4 : _) (x5 : _) (x6 : _) :
    a.Keeps (State.banksMove s x2 x3 x4 x5 x6) := by
  unfold State.banksMove
  repeat' first | intro _ | with_reducible first | assumption | apply State.each_keeps | apply State.bankMove_keeps | apply keeps_ite | split

theorem State.bankHandover_keeps {a s : State} (h : a.Keeps s) (x2 : _) (x3 : _) :
    a.Keeps (State.bankHandover s x2 x3) := by
  unfold State.bankHandover
  repeat' first | intro _ | ((fail_if_no_progress extract_lets +onlyGivenNames z); clear_value z) | with_reducible first | assumption | apply State.bankZeroStart_keeps | apply State.bankPass_keeps | apply keeps_ite | split

theorem State.quotaRecheck_keeps {a s : State} (h : a.Keeps s) (x2 : _) :
    a.Keeps (State.quotaRecheck s x2) := by
  unfold State.quotaRecheck
  repeat' first | intro _ | with_reducible first | assumption | apply State.each_keeps | apply State.tenancy_keeps | apply State.wr_keeps | apply keeps_ite | split

theorem State.bankRequest_keeps {a s : State} (h : a.Keeps s) (x2 : _) (x3 : _) (x4 : _) (x5 : _) :
    a.Keeps (State.bankRequest s x2 x3 x4 x5) := by
  unfold State.bankRequest
  repeat' first | intro _ | with_reducible first | assumption | apply State.setAx_keeps | apply State.wr_keeps | apply keeps_ite | split

theorem State.dropCopiesOn_keeps {a s : State} (h : a.Keeps s) (x2 : _) :
    a.Keeps (State.dropCopiesOn s x2) := by
  unfold State.dropCopiesOn
  repeat' first | intro _ | with_reducible first | assumption | fail_if_no_progress apply keeps_mk | split

end Sys2Proof.Machine
end

