-- ==== Sys2Proof/Laws/KeepsJobs.lean ====
section
/-!
SUPPORT. Laws/KeepsJobs.lean: the operations of Machine/Jobs.lean keep what Laws/Keeps.lean names.
-/

set_option linter.unusedTactic false
set_option linter.unusedVariables false
set_option linter.tactic.unusedName false
set_option linter.unreachableTactic false

namespace Sys2Proof.Machine

theorem State.updJob_keeps {a s : State} (h : a.Keeps s) (x2 : _) (x3 : _) :
    a.Keeps (State.updJob s x2 x3) := by
  unfold State.updJob
  repeat' first | intro _ | with_reducible first | assumption | fail_if_no_progress apply keeps_mk | apply keeps_ite | split

theorem State.dropStaging_keeps {a s : State} (h : a.Keeps s) (x2 : _) :
    a.Keeps (State.dropStaging s x2) := by
  unfold State.dropStaging
  repeat' first | intro _ | with_reducible first | assumption | apply State.updJob_keeps

theorem State.takeStaging_keeps {a s : State} (h : a.Keeps s) (x2 : _) (x3 : _) :
    a.KeepsO (State.takeStaging s x2 x3) := by
  induction x3 generalizing s <;> [skip; rename_i ih]
  all_goals unfold State.takeStaging
  repeat' first | intro _ | with_reducible first | assumption | apply keepsO_none | apply keepsO_some | apply State.updJob_keeps | apply ih | split

theorem State.freeScratch_keeps {a s : State} (h : a.Keeps s) (x2 : _) :
    a.Keeps (State.freeScratch s x2) := by
  unfold State.freeScratch
  repeat' first | intro _ | with_reducible first | assumption | apply State.each_keeps | apply State.banksMove_keeps

theorem State.freeSeqs_keeps {a s : State} (h : a.Keeps s) (x2 : _) :
    a.Keeps (State.freeSeqs s x2) := by
  unfold State.freeSeqs
  repeat' first | intro _ | with_reducible first | assumption | apply State.each_keeps | apply State.wr_keeps

theorem State.voidOps_keeps {a s : State} (h : a.Keeps s) (x2 : _) :
    a.Keeps (State.voidOps s x2) := by
  unfold State.voidOps
  repeat' first | intro _ | with_reducible first | assumption | fail_if_no_progress apply keeps_mk | apply keeps_ite | split

theorem State.voidRequests_keeps {a s : State} (h : a.Keeps s) (x2 : _) :
    a.Keeps (State.voidRequests s x2) := by
  unfold State.voidRequests
  repeat' first | intro _ | ((fail_if_no_progress extract_lets +onlyGivenNames z); clear_value z) | with_reducible first | assumption | fail_if_no_progress apply keeps_mk | apply keeps_ite | split

theorem State.releaseJob_keeps {a s : State} (h : a.Keeps s) (x2 : _) :
    a.Keeps (State.releaseJob s x2) := by
  unfold State.releaseJob
  repeat' first | intro _ | with_reducible first | assumption | apply State.dropStaging_keeps | apply State.freeScratch_keeps | apply State.freeSeqs_keeps | apply State.voidOps_keeps | apply State.voidRequests_keeps

theorem State.endJobSilently_keeps {a s : State} (h : a.Keeps s) (x2 : _) :
    a.Keeps (State.endJobSilently s x2) := by
  unfold State.endJobSilently
  repeat' first | intro _ | ((fail_if_no_progress extract_lets +onlyGivenNames z); (refine keeps_cut (a := a) z ?_ fun hz => ?_) <;> [subst z; clear_value z]) | with_reducible first | assumption | apply State.releaseJob_keeps | apply State.quotaRecheck_keeps | apply State.setQp_keeps | fail_if_no_progress apply keeps_mk | split

theorem State.backToQueue_keeps {a s : State} (h : a.Keeps s) (x2 : _) :
    a.Keeps (State.backToQueue s x2) := by
  unfold State.backToQueue
  repeat' first | intro _ | with_reducible first | assumption | apply State.quotaRecheck_keeps | apply State.updJob_keeps | apply State.releaseJob_keeps

theorem State.restartJob_keeps {a s : State} (h : a.Keeps s) (x2 : _) :
    a.Keeps (State.restartJob s x2) := by
  unfold State.restartJob
  repeat' first | intro _ | with_reducible first | assumption | apply State.bump_keeps | apply State.updJob_keeps | apply State.backToQueue_keeps | split

theorem State.endJob_keeps {a s : State} (h : a.Keeps s) (x2 : _) (x3 : _) :
    a.Keeps (State.endJob s x2 x3) := by
  unfold State.endJob
  repeat' first | intro _ | ((fail_if_no_progress extract_lets +onlyGivenNames z); (refine keeps_cut (a := a) z ?_ fun hz => ?_) <;> [subst z; clear_value z]) | with_reducible first | assumption | apply State.releaseJob_keeps | apply State.quotaRecheck_keeps | apply State.complete_keeps | fail_if_no_progress apply keeps_mk | apply keeps_ite | split

theorem State.faultJob_keeps {a s : State} (h : a.Keeps s) (x2 : _) (x3 : _) :
    a.Keeps (State.faultJob s x2 x3) := by
  unfold State.faultJob
  repeat' first | intro _ | ((fail_if_no_progress extract_lets +onlyGivenNames z); first | (refine keeps_cut (a := a) z ?_ fun hz => ?_) <;> [subst z; clear_value z] | clear_value z) | with_reducible first | assumption | apply State.updJob_keeps | apply State.restartJob_keeps | apply State.endJob_keeps | apply State.bump_keeps | apply keeps_ite | split

theorem State.faultJobs_keeps {a s : State} (h : a.Keeps s) (x2 : _) (x3 : _) :
    a.Keeps (State.faultJobs s x2 x3) := by
  unfold State.faultJobs
  repeat' first | intro _ | with_reducible first | assumption | apply State.each_keeps | apply State.faultJob_keeps

theorem State.addJobFlag_keeps {a s : State} (h : a.Keeps s) (x2 : _) (x3 : _) :
    a.Keeps (State.addJobFlag s x2 x3) := by
  unfold State.addJobFlag
  repeat' first | intro _ | with_reducible first | assumption | apply State.updJob_keeps

theorem applyStaged_wf {m : SMap Byte} (l : SMap (Option Byte)) (h : SMap.wf 0 m = true) : SMap.wf 0 (applyStaged m l) = true := by
  induction l generalizing m with
  | nil => exact h
  | cons e t ih =>
    obtain ⟨k, v⟩ := e
    unfold applyStaged
    split
    · exact ih (SMap.wf_set h k _)
    · exact ih h

theorem State.commitStaged_keeps {a s : State} (h : a.Keeps s) (x2 : _) :
    a.Keeps (State.commitStaged s x2) := by
  unfold State.commitStaged
  split
  · exact h
  · exact keeps_mk_mem h (hm := fun k => applyStaged_wf _ k) ..

theorem State.showTask_keeps {a s : State} (h : a.Keeps s) (x2 : _) (x3 : _) (x4 : _) :
    a.Keeps (State.showTask s x2 x3 x4) := by
  unfold State.showTask
  repeat' first | intro _ | with_reducible first | assumption | apply State.wr_keeps

theorem State.startJob_keeps {a s : State} (h : a.Keeps s) (x2 : _) (x3 : _) (x4 : _) (x5 : _) :
    a.Keeps (State.startJob s x2 x3 x4 x5) := by
  unfold State.startJob
  repeat' first | intro _ | ((fail_if_no_progress extract_lets +onlyGivenNames z); first | (refine keeps_cut (a := a) z ?_ fun hz => ?_) <;> [subst z; clear_value z] | clear_value z) | with_reducible first | assumption | apply State.updJob_keeps | apply State.each_keeps | apply State.banksMove_keeps | apply State.showTask_keeps | apply keeps_ite | split

theorem State.tryDispatch_keeps {a s : State} (h : a.Keeps s) (x2 : _) :
    a.KeepsOP (State.tryDispatch s x2) := by
  unfold State.tryDispatch
  repeat' first | intro _ | ((fail_if_no_progress extract_lets +onlyGivenNames z); clear_value z) | with_reducible first | assumption | apply keepsOP_none | apply keepsOP_some | apply State.endJob_keeps | apply State.startJob_keeps | apply keeps_ite | split

theorem State.dispatchFrom_keeps {a s : State} (h : a.Keeps s) (x2 : _) :
    a.Keeps (State.dispatchFrom s x2) := by
  induction x2 generalizing s <;> [skip; rename_i ih]
  all_goals unfold State.dispatchFrom
  repeat' first | intro _ | with_reducible first | assumption | apply State.tryDispatch_keeps | refine keeps_ofOP (by assumption) ?_ | apply ih | split

theorem State.loseJob_keeps {a s : State} (h : a.Keeps s) (x2 : _) :
    a.Keeps (State.loseJob s x2) := by
  unfold State.loseJob
  repeat' first | intro _ | with_reducible first | assumption | apply State.endJob_keeps | apply State.updJob_keeps | apply keeps_ite | split

theorem State.trap_keeps {a s : State} (h : a.Keeps s) (x2 : _) (x3 : _) (x4 : _) (x5 : _) :
    a.Keeps (State.trap s x2 x3 x4 x5) := by
  unfold State.trap
  repeat' first | intro _ | with_reducible first | assumption | apply State.faultJob_keeps | apply State.wr_keeps | split

theorem State.jobStore_keeps {a s : State} (h : a.Keeps s) (x2 : _) (x3 : _) (x4 : _) (x5 : _) :
    a.Keeps (State.jobStore s x2 x3 x4 x5).2 := by
  unfold State.jobStore
  repeat' first | intro _ | ((fail_if_no_progress extract_lets +onlyGivenNames z); clear_value z) | with_reducible first | assumption | apply State.takeStaging_keeps | apply State.updJob_keeps | apply State.putBytes_keeps | apply foldl_keeps | apply keeps2_ite | apply keeps_ite | refine keeps_ofO (by assumption) ?_ | split

theorem State.jobStore'_keeps {a s : State} (h : a.Keeps s) (x2 : _) (x3 : _) (x4 : _) (x5 : _) :
    a.Keeps (State.jobStore' s x2 x3 x4 x5) := by
  unfold State.jobStore'
  repeat' first | intro _ | with_reducible first | assumption | apply State.jobStore_keeps | refine keeps_of2 (by assumption) ?_

theorem State.commitJob_keeps {a s : State} (h : a.Keeps s) (x2 : _) :
    a.Keeps (State.commitJob s x2) := by
  unfold State.commitJob
  repeat' first | intro _ | with_reducible first | assumption | apply State.endJob_keeps | apply State.commitStaged_keeps

theorem State.updTask_keeps {a s : State} (h : a.Keeps s) (x2 : _) (x3 : _) (x4 : _) :
    a.Keeps (State.updTask s x2 x3 x4) := by
  unfold State.updTask
  repeat' first | intro _ | with_reducible first | assumption | apply State.updJob_keeps

theorem State.jobLate_keeps {a s : State} (h : a.Keeps s) (x2 : _) (x3 : _) :
    a.Keeps (State.jobLate s x2 x3) := by
  unfold State.jobLate
  repeat' first | intro _ | with_reducible first | assumption | apply State.updJob_keeps

end Sys2Proof.Machine
end

