-- ==== Sys2Proof/Laws/KeepsTickets.lean ====
section
/-!
SUPPORT. Laws/KeepsTickets.lean: the operations of Machine/Tickets.lean keep what Laws/Keeps.lean names.
-/

set_option linter.unusedTactic false
set_option linter.unusedVariables false
set_option linter.tactic.unusedName false
set_option linter.unreachableTactic false

namespace Sys2Proof.Machine

theorem State.setWait_keeps {a s : State} (h : a.Keeps s) (x2 : _) (x3 : _) (x4 : _) :
    a.Keeps (State.setWait s x2 x3 x4) := by
  unfold State.setWait
  repeat' first | intro _ | with_reducible first | assumption | apply State.wr_keeps | apply State.updTask_keeps

theorem State.ticketDone_keeps {a s : State} (h : a.Keeps s) (x2 : _) (x3 : _) (x4 : _) (x5 : _) :
    a.Keeps (State.ticketDone s x2 x3 x4 x5) := by
  unfold State.ticketDone
  repeat' first | intro _ | ((fail_if_no_progress extract_lets +onlyGivenNames z); first | (refine keeps_cut (a := a) z ?_ fun hz => ?_) <;> [subst z; clear_value z] | clear_value z) | with_reducible first | assumption | apply State.updTask_keeps | apply State.setWait_keeps | apply keeps_ite | split

theorem State.opDone_keeps {a s : State} (h : a.Keeps s) (x2 : _) (x3 : _) :
    a.Keeps (State.opDone s x2 x3) := by
  unfold State.opDone
  repeat' first | intro _ | ((fail_if_no_progress extract_lets +onlyGivenNames z); (refine keeps_cut (a := a) z ?_ fun hz => ?_) <;> [subst z; clear_value z]) | with_reducible first | assumption | apply State.ticketDone_keeps | fail_if_no_progress apply keeps_mk | split

theorem State.nextIssue_keeps {a s : State} (h : a.Keeps s) :
    a.Keeps (State.nextIssue s).2 := by
  unfold State.nextIssue
  repeat' first | intro _ | with_reducible first | assumption | apply State.setAx_keeps

end Sys2Proof.Machine
end

