-- ==== Sys2Proof/Laws/KeepsHostIf.lean ====
section
/-!
SUPPORT. Laws/KeepsHostIf.lean: the operations of Machine/HostIf.lean keep what Laws/Keeps.lean names.
-/

set_option linter.unusedTactic false
set_option linter.unusedVariables false
set_option linter.tactic.unusedName false
set_option linter.unreachableTactic false

namespace Sys2Proof.Machine

theorem State.fnRefused_keeps {a s : State} (h : a.Keeps s) (x2 : _) :
    a.Keeps (State.fnRefused s x2) := by
  unfold State.fnRefused
  repeat' first | intro _ | with_reducible first | assumption | apply State.wr_keeps

theorem State.moderationDue_keeps {a s : State} (h : a.Keeps s) (x2 : _) (x3 : _) :
    a.Keeps (State.moderationDue s x2 x3) := by
  unfold State.moderationDue
  repeat' first | intro _ | with_reducible first | assumption | apply State.sendMsix_keeps | apply keeps_ite | split

theorem State.unloadEffect_keeps {a s : State} (h : a.Keeps s) (x2 : _) :
    a.Keeps (State.unloadEffect s x2) := by
  unfold State.unloadEffect
  repeat' first | intro _ | ((fail_if_no_progress extract_lets +onlyGivenNames z); (refine keeps_cut (a := a) z ?_ fun hz => ?_) <;> [subst z; clear_value z]) | with_reducible first | assumption | apply State.quotaRecheck_keeps | fail_if_no_progress apply keeps_mk | apply keeps_ite | split

theorem execProgramUnloadEffect_keeps {a s : State} (h : a.Keeps s) (x1 : _) :
    a.KeepsR (execProgramUnloadEffect x1 s) := by
  unfold execProgramUnloadEffect
  repeat' first | intro _ | with_reducible first | assumption | apply keepsR_next | apply State.unloadEffect_keeps

theorem State.qpError_keeps {a s : State} (h : a.Keeps s) (x2 : _) (x3 : _) (x4 : _) :
    a.Keeps (State.qpError s x2 x3 x4) := by
  unfold State.qpError
  repeat' first | intro _ | with_reducible first | assumption | apply State.tenancy_keeps | apply State.wr_keeps

theorem State.sqTail_keeps {a s : State} (h : a.Keeps s) (x2 : _) (x3 : _) (x4 : _) :
    a.Keeps (State.sqTail s x2 x3 x4) := by
  unfold State.sqTail
  repeat' first | intro _ | ((fail_if_no_progress extract_lets +onlyGivenNames z); clear_value z) | with_reducible first | assumption | apply State.sendFlit_keeps | apply State.qpError_keeps | apply State.each_keeps | apply State.wr_keeps | apply State.sendPointers_keeps | apply keeps_ite | split

theorem State.cmdRunning_keeps {a s : State} (h : a.Keeps s) (x2 : _) :
    a.Keeps (State.cmdRunning s x2) := by
  unfold State.cmdRunning
  repeat' first | intro _ | with_reducible first | assumption | fail_if_no_progress apply keeps_mk | apply keeps_ite | split

theorem State.bankHost_keeps {a s : State} (h : a.Keeps s) (x2 : _) :
    a.Keeps (State.bankHost s x2) := by
  unfold State.bankHost
  repeat' first | intro _ | ((fail_if_no_progress extract_lets +onlyGivenNames z); clear_value z) | with_reducible first | assumption | apply State.completeCmd_keeps | apply State.banksMove_keeps | apply keeps_ite | split

theorem State.unmask_keeps {a s : State} (h : a.Keeps s) (x2 : _) (x3 : _) :
    a.Keeps (State.unmask s x2 x3) := by
  unfold State.unmask
  repeat' first | intro _ | ((fail_if_no_progress extract_lets +onlyGivenNames z); (refine keeps_cut (a := a) z ?_ fun hz => ?_) <;> [subst z; clear_value z]) | with_reducible first | assumption | apply State.wr_keeps | apply State.sendMsix_keeps | apply keeps_ite | split

theorem State.ringEnable_keeps {a s : State} (h : a.Keeps s) (x2 : _) (x3 : _) :
    a.Keeps (State.ringEnable s x2 x3) := by
  unfold State.ringEnable
  repeat' first | intro _ | with_reducible first | assumption | apply State.fnRefused_keeps | apply State.flushCoalesced_keeps | apply State.wr_keeps | apply State.setRing_keeps | apply keeps_ite | split

theorem State.runCmd_keeps {a s : State} (h : a.Keeps s) (x2 : _) (x3 : _) (x4 : _) (hx4 : ∀ y0 y1, a.Keeps y0 → a.Keeps (x4 y0 y1)) :
    a.Keeps (State.runCmd s x2 x3 x4) := by
  unfold State.runCmd
  repeat' first | intro _ | with_reducible first | assumption | apply hx4 | split

theorem State.resetReg_keeps {a s : State} (h : a.Keeps s) (x2 : _) (x3 : _) (x4 : _) :
    a.Keeps (State.resetReg s x2 x3 x4) := by
  unfold State.resetReg
  repeat' first | intro _ | with_reducible first | assumption | apply State.each_keeps | apply State.wr_keeps

theorem State.freeUnits_keeps {a s : State} (h : a.Keeps s) (x2 : _) (x3 : _) (x4 : _) (x5 : _) (x6 : _) :
    a.Keeps (State.freeUnits s x2 x3 x4 x5 x6) := by
  unfold State.freeUnits
  repeat' first | intro _ | ((fail_if_no_progress extract_lets +onlyGivenNames z); (refine keeps_cut (a := a) z ?_ fun hz => ?_) <;> [subst z; clear_value z]) | with_reducible first | assumption | apply State.banksMove_keeps | fail_if_no_progress apply keeps_mk | apply keeps_ite | split

theorem State.freeAlloc_keeps {a s : State} (h : a.Keeps s) (x2 : _) (x3 : _) (x4 : _) :
    a.Keeps (State.freeAlloc s x2 x3 x4) := by
  unfold State.freeAlloc
  repeat' first | intro _ | with_reducible first | assumption | apply State.freeUnits_keeps

theorem State.resetFn_keeps {a s : State} (h : a.Keeps s) (x2 : _) :
    a.Keeps (State.resetFn s x2) := by
  unfold State.resetFn
  repeat' first | intro _ | ((fail_if_no_progress extract_lets +onlyGivenNames z); first | (refine keeps_cut (a := a) z ?_ fun hz => ?_) <;> [subst z; clear_value z] | clear_value z) | with_reducible first | assumption | apply State.each_keeps | apply State.endJobSilently_keeps | apply State.setQp_keeps | apply State.resetReg_keeps | apply State.freeAlloc_keeps | apply State.setRing_keeps | apply State.event_keeps | apply State.quotaRecheck_keeps | fail_if_no_progress apply keeps_mk | apply foldl_keeps | split

theorem State.evictCheck_keeps {a s : State} (h : a.Keeps s) :
    a.Keeps (State.evictCheck s) := by
  unfold State.evictCheck
  repeat' first | intro _ | ((fail_if_no_progress extract_lets +onlyGivenNames z); first | (refine keeps_cut (a := a) z ?_ fun hz => ?_) <;> [subst z; clear_value z] | clear_value z) | with_reducible first | assumption | apply State.each_keeps | apply State.setAx_keeps | apply State.completeCmd_keeps | apply State.tenancy_keeps | split

theorem State.functionReset_keeps {a s : State} (h : a.Keeps s) (x2 : _) :
    a.Keeps (State.functionReset s x2) := by
  unfold State.functionReset
  repeat' first | intro _ | with_reducible first | assumption | apply State.each_keeps | apply State.resetFn_keeps | apply State.evictCheck_keeps | apply keeps_ite | split

theorem execHotReset_keeps {a s : State} (h : a.Keeps s) :
    a.KeepsR (execHotReset s) := by
  unfold execHotReset
  repeat' first | intro _ | with_reducible first | assumption | apply keepsR_next | apply State.functionReset_keeps

theorem State.jobAbort_keeps {a s : State} (h : a.Keeps s) (x2 : _) :
    a.Keeps (State.jobAbort s x2) := by
  unfold State.jobAbort
  repeat' first | intro _ | with_reducible first | assumption | apply State.completeCmd_keeps | apply State.endJob_keeps | apply keeps_ite | split

theorem State.ringHead_keeps {a s : State} (h : a.Keeps s) (x2 : _) (x3 : _) :
    a.Keeps (State.ringHead s x2 x3) := by
  unfold State.ringHead
  repeat' first | intro _ | with_reducible first | assumption | apply State.fnRefused_keeps | apply State.wr_keeps | apply State.flushCoalesced_keeps | apply State.flushOverflow_keeps | apply keeps_ite | split

theorem execEvrHeadWrite_keeps {a s : State} (h : a.Keeps s) (x1 : _) (x2 : _) :
    a.KeepsR (execEvrHeadWrite x1 x2 s) := by
  unfold execEvrHeadWrite
  repeat' first | intro _ | with_reducible first | assumption | apply keepsR_next | apply State.order_keeps | apply State.ringHead_keeps

theorem State.resFree_keeps {a s : State} (h : a.Keeps s) (x2 : _) :
    a.Keeps (State.resFree s x2) := by
  unfold State.resFree
  repeat' first | intro _ | ((fail_if_no_progress extract_lets +onlyGivenNames z); clear_value z) | with_reducible first | assumption | apply State.completeCmd_keeps | apply State.quotaRecheck_keeps | apply State.freeUnits_keeps | apply keeps_ite | split

theorem execResFree_keeps {a s : State} (h : a.Keeps s) (x1 : _) :
    a.KeepsR (execResFree x1 s) := by
  unfold execResFree
  repeat' first | intro _ | with_reducible first | assumption | apply keepsR_next | apply State.runCmd_keeps | apply State.resFree_keeps

theorem State.qpDrained_keeps {a s : State} (h : a.Keeps s) (x2 : _) :
    a.Keeps (State.qpDrained s x2) := by
  unfold State.qpDrained
  repeat' first | intro _ | with_reducible first | assumption | apply State.quotaRecheck_keeps | apply State.wr_keeps | apply State.setQp_keeps | apply keeps_ite | split

theorem State.grantSet_keeps {a s : State} (h : a.Keeps s) (x2 : _) (x3 : _) (x4 : _) :
    a.Keeps (State.grantSet s x2 x3 x4) := by
  unfold State.grantSet
  repeat' first | intro _ | ((fail_if_no_progress extract_lets +onlyGivenNames z); first | (refine keeps_cut (a := a) z ?_ fun hz => ?_) <;> [subst z; clear_value z] | clear_value z) | with_reducible first | assumption | apply State.tenancy_keeps | apply State.sendQuotas_keeps | apply State.wr_keeps | fail_if_no_progress apply keeps_mk | apply keeps_ite | split

theorem State.grantWrite_keeps {a s : State} (h : a.Keeps s) (x2 : _) (x3 : _) (x4 : _) :
    a.Keeps (State.grantWrite s x2 x3 x4) := by
  unfold State.grantWrite
  repeat' first | intro _ | with_reducible first | assumption | apply State.fnRefused_keeps | apply State.grantSet_keeps | apply keeps_ite | split

theorem execFnqGrantWrite_keeps {a s : State} (h : a.Keeps s) (x1 : _) (x2 : _) (x3 : _) :
    a.KeepsR (execFnqGrantWrite x1 x2 x3 s) := by
  unfold execFnqGrantWrite
  repeat' first | intro _ | with_reducible first | assumption | apply keepsR_next | apply State.order_keeps | apply State.grantWrite_keeps

theorem State.qpEnable_keeps {a s : State} (h : a.Keeps s) (x2 : _) (x3 : _) (x4 : _) (x5 : _) :
    a.Keeps (State.qpEnable s x2 x3 x4 x5) := by
  unfold State.qpEnable
  repeat' first | intro _ | ((fail_if_no_progress extract_lets +onlyGivenNames z); first | (refine keeps_cut (a := a) z ?_ fun hz => ?_) <;> [subst z; clear_value z] | clear_value z) | with_reducible first | assumption | apply State.fnRefused_keeps | apply State.wr_keeps | apply State.setQp_keeps | apply State.sendPointers_keeps | apply keeps_ite | split

theorem State.trimAllocs_keeps {a s : State} (h : a.Keeps s) (x2 : _) (x3 : _) (x4 : _) (x5 : _) :
    a.Keeps (State.trimAllocs s x2 x3 x4 x5) := by
  induction x4 generalizing s x5 <;> [skip; rename_i ih]
  all_goals unfold State.trimAllocs
  repeat' first | intro _ | ((fail_if_no_progress extract_lets +onlyGivenNames z); clear_value z) | with_reducible first | assumption | apply State.freeAlloc_keeps | apply keeps_ite | apply ih | split

theorem execQpSqtailWrite_keeps {a s : State} (h : a.Keeps s) (x1 : _) (x2 : _) :
    a.KeepsR (execQpSqtailWrite x1 x2 s) := by
  unfold execQpSqtailWrite
  repeat' first | intro _ | ((fail_if_no_progress extract_lets +onlyGivenNames z); clear_value z) | with_reducible first | assumption | apply keepsR_next | apply State.sqTail_keeps

theorem State.addAlloc_keeps {a s : State} (h : a.Keeps s) (x2 : _) :
    a.Keeps (State.addAlloc s x2) := by
  unfold State.addAlloc
  repeat' first | intro _ | with_reducible first | assumption | fail_if_no_progress apply keeps_mk

theorem State.quotaWrite_keeps {a s : State} (h : a.Keeps s) (x2 : _) (x3 : _) (x4 : _) :
    a.Keeps (State.quotaWrite s x2 x3 x4) := by
  unfold State.quotaWrite
  repeat' first | intro _ | ((fail_if_no_progress extract_lets +onlyGivenNames z); first | (refine keeps_cut (a := a) z ?_ fun hz => ?_) <;> [subst z; clear_value z] | clear_value z) | with_reducible first | assumption | apply State.fnRefused_keeps | apply State.sendQuotas_keeps | apply State.wr_keeps | apply State.tenancy_keeps | apply State.quotaRecheck_keeps | apply State.each_keeps | apply State.setAx_keeps | apply State.when_keeps | apply keeps_ite | split

theorem State.unpark_keeps {a s : State} (h : a.Keeps s) (x2 : _) :
    a.Keeps (State.unpark s x2) := by
  unfold State.unpark
  repeat' first | intro _ | ((fail_if_no_progress extract_lets +onlyGivenNames z); clear_value z) | with_reducible first | assumption | fail_if_no_progress apply keeps_mk | apply keeps_ite | split

theorem execParkedCommandEligible_keeps {a s : State} (h : a.Keeps s) (x1 : _) :
    a.KeepsR (execParkedCommandEligible x1 s) := by
  unfold execParkedCommandEligible
  repeat' first | intro _ | with_reducible first | assumption | apply keepsR_next | apply State.unpark_keeps

theorem State.jobSubmit_keeps {a s : State} (h : a.Keeps s) (x2 : _) :
    a.Keeps (State.jobSubmit s x2) := by
  unfold State.jobSubmit
  repeat' first | intro _ | ((fail_if_no_progress extract_lets +onlyGivenNames z); first | (refine keeps_cut (a := a) z ?_ fun hz => ?_) <;> [subst z; clear_value z] | clear_value z) | with_reducible first | assumption | apply State.completeCmd_keeps | apply State.setAx_keeps | fail_if_no_progress apply keeps_mk | apply keeps_ite | split

theorem State.programUnload_keeps {a s : State} (h : a.Keeps s) (x2 : _) :
    a.Keeps (State.programUnload s x2) := by
  unfold State.programUnload
  repeat' first | intro _ | ((fail_if_no_progress extract_lets +onlyGivenNames z); (refine keeps_cut (a := a) z ?_ fun hz => ?_) <;> [subst z; clear_value z]) | with_reducible first | assumption | apply State.completeCmd_keeps | apply State.journals_keeps | apply State.unloadEffect_keeps | fail_if_no_progress apply keeps_mk | apply keeps_ite | split

theorem execProgramUnload_keeps {a s : State} (h : a.Keeps s) (x1 : _) :
    a.KeepsR (execProgramUnload x1 s) := by
  unfold execProgramUnload
  repeat' first | intro _ | with_reducible first | assumption | apply keepsR_next | apply State.runCmd_keeps | apply State.programUnload_keeps

theorem State.cqHead_keeps {a s : State} (h : a.Keeps s) (x2 : _) (x3 : _) (x4 : _) :
    a.Keeps (State.cqHead s x2 x3 x4) := by
  unfold State.cqHead
  repeat' first | intro _ | ((fail_if_no_progress extract_lets +onlyGivenNames z); clear_value z) | with_reducible first | assumption | apply State.sendFlit_keeps | apply State.qpError_keeps | apply State.sendPointers_keeps | apply State.wr_keeps | apply keeps_ite | split

theorem State.qpAbort_keeps {a s : State} (h : a.Keeps s) (x2 : _) (x3 : _) :
    a.Keeps (State.qpAbort s x2 x3) := by
  unfold State.qpAbort
  repeat' first | intro _ | ((fail_if_no_progress extract_lets +onlyGivenNames z); first | (refine keeps_cut (a := a) z ?_ fun hz => ?_) <;> [subst z; clear_value z] | clear_value z) | with_reducible first | assumption | apply State.each_keeps | apply State.completeCmd_keeps | apply State.endJob_keeps | split

theorem State.qpDisable_keeps {a s : State} (h : a.Keeps s) (x2 : _) (x3 : _) (x4 : _) :
    a.Keeps (State.qpDisable s x2 x3 x4) := by
  unfold State.qpDisable
  repeat' first | intro _ | with_reducible first | assumption | apply State.fnRefused_keeps | apply State.qpAbort_keeps | apply State.wr_keeps | apply keeps_ite | split

theorem State.resAlloc_keeps {a s : State} (h : a.Keeps s) (x2 : _) :
    a.Keeps (State.resAlloc s x2) := by
  unfold State.resAlloc
  repeat' first | intro _ | ((fail_if_no_progress extract_lets +onlyGivenNames z); clear_value z) | with_reducible first | assumption | apply State.completeCmd_keeps | apply State.addAlloc_keeps | apply State.banksMove_keeps | apply keeps_ite | split

theorem execResAlloc_keeps {a s : State} (h : a.Keeps s) (x1 : _) :
    a.KeepsR (execResAlloc x1 s) := by
  unfold execResAlloc
  repeat' first | intro _ | with_reducible first | assumption | apply keepsR_next | apply State.runCmd_keeps | apply State.resAlloc_keeps

theorem State.acceptCmd_keeps {a s : State} (h : a.Keeps s) (x2 : _) (x3 : _) :
    a.Keeps (State.acceptCmd s x2 x3) := by
  unfold State.acceptCmd
  repeat' first | intro _ | ((fail_if_no_progress extract_lets +onlyGivenNames z); first | (refine keeps_cut (a := a) z ?_ fun hz => ?_) <;> [subst z; clear_value z] | clear_value z) | with_reducible first | assumption | apply State.completeCmd_keeps | apply State.superseded_keeps | fail_if_no_progress apply keeps_mk | apply keeps_ite | split

theorem State.fetch_keeps {a s : State} (h : a.Keeps s) (x2 : _) (x3 : _) (x4 : _) :
    a.Keeps (State.fetch s x2 x3 x4) := by
  unfold State.fetch
  repeat' first | intro _ | ((fail_if_no_progress extract_lets +onlyGivenNames z); first | (refine keeps_cut (a := a) z ?_ fun hz => ?_) <;> [subst z; clear_value z] | clear_value z) | with_reducible first | assumption | apply State.qpError_keeps | apply State.aer_keeps | apply State.wr_keeps | apply State.setQp_keeps | apply State.acceptCmd_keeps | apply State.sendPointers_keeps | apply State.journals_keeps | apply keeps_ite | split

theorem execDescriptorFetch_keeps {a s : State} (h : a.Keeps s) (x1 : _) (x2 : _) (x3 : _) :
    a.KeepsR (execDescriptorFetch x1 x2 x3 s) := by
  unfold execDescriptorFetch
  repeat' first | intro _ | with_reducible first | assumption | apply keepsR_next | apply State.fetch_keeps

theorem State.trimProgs_keeps {a s : State} (h : a.Keeps s) (x2 : _) (x3 : _) (x4 : _) :
    a.Keeps (State.trimProgs s x2 x3 x4) := by
  induction x4 generalizing s <;> [skip; rename_i ih]
  all_goals unfold State.trimProgs
  repeat' first | intro _ | with_reducible first | assumption | fail_if_no_progress apply keeps_mk | apply keeps_ite | apply ih | split

theorem State.bar2Denied_keeps {a s : State} (h : a.Keeps s) (x2 : _) (x3 : _) (x4 : _) (x5 : _) :
    a.Keeps (State.bar2Denied s x2 x3 x4 x5) := by
  unfold State.bar2Denied
  repeat' first | intro _ | ((fail_if_no_progress extract_lets +onlyGivenNames z); (refine keeps_cut (a := a) z ?_ fun hz => ?_) <;> [subst z; clear_value z]) | with_reducible first | assumption | apply State.bump_keeps | apply keeps_ite | split

theorem State.bar2_keeps {a s : State} (h : a.Keeps s) (x2 : _) (x3 : _) (x4 : _) (x5 : _) :
    a.Keeps (State.bar2 s x2 x3 x4 x5) := by
  unfold State.bar2
  repeat' first | intro _ | ((fail_if_no_progress extract_lets +onlyGivenNames z); first | (refine keeps_cut (a := a) z ?_ fun hz => ?_) <;> [subst z; clear_value z] | clear_value z) | with_reducible first | assumption | apply State.bar2Denied_keeps | apply State.emit_keeps | apply State.store_keeps | apply State.meets_keeps | fail_if_no_progress apply keeps_mk | apply keeps_ite | split

theorem execJobSubmit_keeps {a s : State} (h : a.Keeps s) (x1 : _) :
    a.KeepsR (execJobSubmit x1 s) := by
  unfold execJobSubmit
  repeat' first | intro _ | with_reducible first | assumption | apply keepsR_next | apply State.runCmd_keeps | apply State.jobSubmit_keeps

theorem execFunctionLevelReset_keeps {a s : State} (h : a.Keeps s) (x1 : _) :
    a.KeepsR (execFunctionLevelReset x1 s) := by
  unfold execFunctionLevelReset
  repeat' first | intro _ | with_reducible first | assumption | apply keepsR_next | apply State.functionReset_keeps

theorem execMsixUnmask_keeps {a s : State} (h : a.Keeps s) (x1 : _) (x2 : _) (x3 : _) :
    a.KeepsR (execMsixUnmask x1 x2 x3 s) := by
  unfold execMsixUnmask
  repeat' first | intro _ | with_reducible first | assumption | apply keepsR_next | apply State.order_keeps | apply State.unmask_keeps

theorem execBar2Access_keeps {a s : State} (h : a.Keeps s) (x1 : _) (x2 : _) (x3 : _) (x4 : _) :
    a.KeepsR (execBar2Access x1 x2 x3 x4 s) := by
  unfold execBar2Access
  repeat' first | intro _ | with_reducible first | assumption | apply keepsR_next | apply State.bar2_keeps

theorem execJobAbort_keeps {a s : State} (h : a.Keeps s) (x1 : _) :
    a.KeepsR (execJobAbort x1 s) := by
  unfold execJobAbort
  repeat' first | intro _ | with_reducible first | assumption | apply keepsR_next | apply State.runCmd_keeps | apply State.jobAbort_keeps

theorem execCmdNop_keeps {a s : State} (h : a.Keeps s) (x1 : _) :
    a.KeepsR (execCmdNop x1 s) := by
  unfold execCmdNop
  repeat' first | intro _ | with_reducible first | assumption | apply keepsR_next | apply State.runCmd_keeps | apply State.completeCmd_keeps

theorem execQpDrainEnd_keeps {a s : State} (h : a.Keeps s) (x1 : _) :
    a.KeepsR (execQpDrainEnd x1 s) := by
  unfold execQpDrainEnd
  repeat' first | intro _ | with_reducible first | assumption | apply keepsR_next | apply State.evictCheck_keeps | apply State.qpDrained_keeps

theorem execMsixModerationTimeout_keeps {a s : State} (h : a.Keeps s) (x1 : _) (x2 : _) :
    a.KeepsR (execMsixModerationTimeout x1 x2 s) := by
  unfold execMsixModerationTimeout
  repeat' first | intro _ | with_reducible first | assumption | apply keepsR_next | apply State.moderationDue_keeps

theorem execBankHost_keeps {a s : State} (h : a.Keeps s) (x1 : _) :
    a.KeepsR (execBankHost x1 s) := by
  unfold execBankHost
  repeat' first | intro _ | with_reducible first | assumption | apply keepsR_next | apply State.runCmd_keeps | apply State.bankHost_keeps

theorem State.evict_keeps {a s : State} (h : a.Keeps s) (x2 : _) :
    a.Keeps (State.evict s x2) := by
  unfold State.evict
  repeat' first | intro _ | ((fail_if_no_progress extract_lets +onlyGivenNames z); first | (refine keeps_cut (a := a) z ?_ fun hz => ?_) <;> [subst z; clear_value z] | clear_value z) | with_reducible first | assumption | apply State.completeCmd_keeps | apply State.each_keeps | apply State.endJob_keeps | apply State.qpDrained_keeps | apply State.qpDisable_keeps | apply State.setQp_keeps | apply State.trimAllocs_keeps | apply State.quotaRecheck_keeps | apply State.trimProgs_keeps | apply State.evictCheck_keeps | apply State.cmdRunning_keeps | apply State.setAx_keeps | apply keeps_ite | split

theorem execEvict_keeps {a s : State} (h : a.Keeps s) (x1 : _) :
    a.KeepsR (execEvict x1 s) := by
  unfold execEvict
  repeat' first | intro _ | with_reducible first | assumption | apply keepsR_next | apply State.runCmd_keeps | apply State.evict_keeps

theorem execQpCfgDisable_keeps {a s : State} (h : a.Keeps s) (x1 : _) (x2 : _) :
    a.KeepsR (execQpCfgDisable x1 x2 s) := by
  unfold execQpCfgDisable
  repeat' first | intro _ | with_reducible first | assumption | apply keepsR_next | apply State.order_keeps | apply State.qpDisable_keeps

theorem execQpCqheadWrite_keeps {a s : State} (h : a.Keeps s) (x1 : _) (x2 : _) :
    a.KeepsR (execQpCqheadWrite x1 x2 s) := by
  unfold execQpCqheadWrite
  repeat' first | intro _ | ((fail_if_no_progress extract_lets +onlyGivenNames z); clear_value z) | with_reducible first | assumption | apply keepsR_next | apply State.cqHead_keeps

theorem execFnqQuotaWrite_keeps {a s : State} (h : a.Keeps s) (x1 : _) (x2 : _) (x3 : _) :
    a.KeepsR (execFnqQuotaWrite x1 x2 x3 s) := by
  unfold execFnqQuotaWrite
  repeat' first | intro _ | with_reducible first | assumption | apply keepsR_next | apply State.order_keeps | apply State.quotaWrite_keeps

theorem execQpCfgEnable_keeps {a s : State} (h : a.Keeps s) (x1 : _) (x2 : _) :
    a.KeepsR (execQpCfgEnable x1 x2 s) := by
  unfold execQpCfgEnable
  repeat' first | intro _ | with_reducible first | assumption | apply keepsR_next | apply State.order_keeps | apply State.qpEnable_keeps

end Sys2Proof.Machine
end

