-- ==== Sys2Proof/Laws/KeepsImageStore.lean ====
section
/-!
SUPPORT. Laws/KeepsImageStore.lean: the operations of Machine/ImageStore.lean keep what Laws/Keeps.lean names.
-/

set_option linter.unusedTactic false
set_option linter.unusedVariables false
set_option linter.tactic.unusedName false
set_option linter.unreachableTactic false

namespace Sys2Proof.Machine

theorem State.rebind_keeps {a s : State} (h : a.Keeps s) :
    a.Keeps (State.rebind s) := by
  unfold State.rebind
  repeat' first | intro _ | with_reducible first | assumption | fail_if_no_progress apply keeps_mk | split

theorem State.dropImage_keeps {a s : State} (h : a.Keeps s) (x2 : _) (x3 : _) :
    a.Keeps (State.dropImage s x2 x3) := by
  unfold State.dropImage
  repeat' first | intro _ | ((fail_if_no_progress extract_lets +onlyGivenNames z); first | (refine keeps_cut (a := a) z ?_ fun hz => ?_) <;> [subst z; clear_value z] | clear_value z) | with_reducible first | assumption | apply State.event_keeps | apply State.rebind_keeps | fail_if_no_progress apply keeps_mk | apply keeps_ite | split

theorem State.takeRoom_keeps {a s : State} (h : a.Keeps s) (x2 : _) (x3 : _) :
    a.Keeps (State.takeRoom s x2 x3) := by
  unfold State.takeRoom
  repeat' first | intro _ | ((fail_if_no_progress extract_lets +onlyGivenNames z); first | (refine keeps_cut (a := a) z ?_ fun hz => ?_) <;> [subst z; clear_value z] | clear_value z) | with_reducible first | assumption | apply State.completeCmd_keeps | apply State.each_keeps | apply State.dropImage_keeps | apply State.cmdRunning_keeps | fail_if_no_progress apply keeps_mk | apply keeps_ite | split

theorem State.useImage_keeps {a s : State} (h : a.Keeps s) (x2 : _) :
    a.Keeps (State.useImage s x2) := by
  unfold State.useImage
  repeat' first | intro _ | ((fail_if_no_progress extract_lets +onlyGivenNames z); clear_value z) | with_reducible first | assumption | apply State.setAx_keeps | fail_if_no_progress apply keeps_mk | apply keeps_ite | split

theorem pktBytes_wf {m : SMap Byte} (k : Nat) (l : List Byte) (h : SMap.wf 0 m = true) : SMap.wf 0 (pktBytes m k l) = true := by
  induction l generalizing m k with
  | nil => exact h
  | cons b t ih => exact ih (k + 1) (SMap.wf_set h k b)

theorem State.pktWrite_keeps {a s : State} (h : a.Keeps s) (x2 : _) (x3 : _) (x4 : _) (x5 : _) :
    a.Keeps (State.pktWrite s x2 x3 x4 x5) := by
  exact keeps_mk_pocket h (hm := fun k => pktBytes_wf _ _ k) ..

theorem State.keyEvent_keeps {a s : State} (h : a.Keeps s) (x2 : _) (x3 : _) :
    a.Keeps (State.keyEvent s x2 x3) := by
  unfold State.keyEvent
  repeat' first | intro _ | with_reducible first | assumption | apply State.event_keeps

theorem State.keyRevoke_keeps {a s : State} (h : a.Keeps s) (x2 : _) :
    a.Keeps (State.keyRevoke s x2) := by
  unfold State.keyRevoke
  repeat' first | intro _ | ((fail_if_no_progress extract_lets +onlyGivenNames z); first | (refine keeps_cut (a := a) z ?_ fun hz => ?_) <;> [subst z; clear_value z] | clear_value z) | with_reducible first | assumption | apply State.completeCmd_keeps | apply State.each_keeps | apply State.setAx_keeps | apply State.pktWrite_keeps | apply State.keyEvent_keeps | apply keeps_ite | split

theorem execKeyRevoke_keeps {a s : State} (h : a.Keeps s) (x1 : _) :
    a.KeepsR (execKeyRevoke x1 s) := by
  unfold execKeyRevoke
  repeat' first | intro _ | with_reducible first | assumption | apply keepsR_next | apply State.runCmd_keeps | apply State.keyRevoke_keeps

theorem State.evictHomed_keeps {a s : State} (h : a.Keeps s) (x2 : _) :
    a.Keeps (State.evictHomed s x2) := by
  unfold State.evictHomed
  repeat' first | intro _ | ((fail_if_no_progress extract_lets +onlyGivenNames z); first | (refine keeps_cut (a := a) z ?_ fun hz => ?_) <;> [subst z; clear_value z] | clear_value z) | with_reducible first | assumption | apply State.each_keeps | apply State.dropImage_keeps | apply State.takeRoom_keeps | fail_if_no_progress apply keeps_mk | split

theorem State.imageEvict_keeps {a s : State} (h : a.Keeps s) (x2 : _) :
    a.Keeps (State.imageEvict s x2) := by
  unfold State.imageEvict
  repeat' first | intro _ | ((fail_if_no_progress extract_lets +onlyGivenNames z); clear_value z) | with_reducible first | assumption | apply State.completeCmd_keeps | apply State.dropImage_keeps | apply keeps_ite | split

theorem execImageEvict_keeps {a s : State} (h : a.Keeps s) (x1 : _) :
    a.KeepsR (execImageEvict x1 s) := by
  unfold execImageEvict
  repeat' first | intro _ | with_reducible first | assumption | apply keepsR_next | apply State.runCmd_keeps | apply State.imageEvict_keeps

theorem State.rejectImage_keeps {a s : State} (h : a.Keeps s) (x2 : _) (x3 : _) (x4 : _) (x5 : _) :
    a.Keeps (State.rejectImage s x2 x3 x4 x5) := by
  unfold State.rejectImage
  repeat' first | intro _ | ((fail_if_no_progress extract_lets +onlyGivenNames z); (refine keeps_cut (a := a) z ?_ fun hz => ?_) <;> [subst z; clear_value z]) | with_reducible first | assumption | apply State.completeCmd_keeps | apply State.event_keeps | fail_if_no_progress apply keeps_mk | apply keeps_ite | split

theorem State.imageLoad_keeps {a s : State} (h : a.Keeps s) (x2 : _) (x3 : _) :
    a.Keeps (State.imageLoad s x2 x3) := by
  unfold State.imageLoad
  repeat' first | intro _ | ((fail_if_no_progress extract_lets +onlyGivenNames z); clear_value z) | with_reducible first | assumption | apply State.completeCmd_keeps | apply State.aer_keeps | apply State.rejectImage_keeps | apply State.takeRoom_keeps | apply keeps_ite | split

theorem State.keyEnrol_keeps {a s : State} (h : a.Keeps s) (x2 : _) (x3 : _) :
    a.Keeps (State.keyEnrol s x2 x3) := by
  unfold State.keyEnrol
  repeat' first | intro _ | ((fail_if_no_progress extract_lets +onlyGivenNames z); first | (refine keeps_cut (a := a) z ?_ fun hz => ?_) <;> [subst z; clear_value z] | clear_value z) | with_reducible first | assumption | apply State.completeCmd_keeps | apply State.aer_keeps | apply State.each_keeps | apply State.setAx_keeps | apply State.pktWrite_keeps | apply State.keyEvent_keeps | apply keeps_ite | split

theorem execKeyEnrol_keeps {a s : State} (h : a.Keeps s) (x1 : _) (x2 : _) :
    a.KeepsR (execKeyEnrol x1 x2 s) := by
  unfold execKeyEnrol
  repeat' first | intro _ | with_reducible first | assumption | apply keepsR_next | apply State.runCmd_keeps | apply State.keyEnrol_keeps

theorem execImageLoad_keeps {a s : State} (h : a.Keeps s) (x1 : _) (x2 : _) :
    a.KeepsR (execImageLoad x1 x2 s) := by
  unfold execImageLoad
  repeat' first | intro _ | with_reducible first | assumption | apply keepsR_next | apply State.runCmd_keeps | apply State.imageLoad_keeps

theorem State.imageLoaded_keeps {a s : State} (h : a.Keeps s) (x2 : _) (x3 : _) (x4 : _) :
    a.Keeps (State.imageLoaded s x2 x3 x4) := by
  unfold State.imageLoaded
  repeat' first | intro _ | ((fail_if_no_progress extract_lets +onlyGivenNames z); first | (refine keeps_cut (a := a) z ?_ fun hz => ?_) <;> [subst z; clear_value z] | clear_value z) | with_reducible first | assumption | apply State.rejectImage_keeps | apply State.completeCmd_keeps | apply State.event_keeps | apply State.rebind_keeps | apply State.useImage_keeps | fail_if_no_progress apply keeps_mk | apply keeps_ite | split

end Sys2Proof.Machine
end

