-- ==== Sys2Proof/Laws/KeepsTiles.lean ====
section
/-!
SUPPORT. Laws/KeepsTiles.lean: the operations of Machine/Tiles.lean keep what Laws/Keeps.lean names.
-/

set_option linter.unusedTactic false
set_option linter.unusedVariables false
set_option linter.tactic.unusedName false
set_option linter.unreachableTactic false

namespace Sys2Proof.Machine

theorem State.dropTab_keeps {a s : State} (h : a.Keeps s) (x2 : _) (x3 : _) (x4 : _) :
    a.Keeps (State.dropTab s x2 x3 x4) := by
  unfold State.dropTab
  repeat' first | intro _ | with_reducible first | assumption | fail_if_no_progress apply keeps_mk | split

theorem State.clearTabs_keeps {a s : State} (h : a.Keeps s) (x2 : _) (x3 : _) :
    a.Keeps (State.clearTabs s x2 x3) := by
  unfold State.clearTabs
  repeat' first | intro _ | with_reducible first | assumption | apply State.each_keeps | apply State.dropTab_keeps

theorem State.setTab_keeps {a s : State} (h : a.Keeps s) (x2 : _) (x3 : _) (x4 : _) (x5 : _) (x6 : _) :
    a.Keeps (State.setTab s x2 x3 x4 x5 x6) := by
  unfold State.setTab
  repeat' first | intro _ | with_reducible first | assumption | fail_if_no_progress apply keeps_mk | split

theorem State.updTile_keeps {a s : State} (h : a.Keeps s) (x2 : _) (x3 : _) (x4 : _) :
    a.Keeps (State.updTile s x2 x3 x4) := by
  unfold State.updTile
  repeat' first | intro _ | with_reducible first | assumption | fail_if_no_progress apply keeps_mk | split

theorem State.setRange_keeps {a s : State} (h : a.Keeps s) (x2 : _) (x3 : _) (x4 : _) :
    a.Keeps (State.setRange s x2 x3 x4) := by
  unfold State.setRange
  repeat' first | intro _ | with_reducible first | assumption | apply State.setAx_keeps | apply State.wr_keeps | apply keeps_ite | split

theorem State.sparesLow_keeps {a s : State} (h : a.Keeps s) (x2 : _) :
    a.Keeps (State.sparesLow s x2) := by
  unfold State.sparesLow
  repeat' first | intro _ | ((fail_if_no_progress extract_lets +onlyGivenNames z); clear_value z) | with_reducible first | assumption | apply State.event_keeps | apply keeps_ite | split

theorem State.capUpdate_keeps {a s : State} (h : a.Keeps s) :
    a.Keeps (State.capUpdate s) := by
  unfold State.capUpdate
  repeat' first | intro _ | ((fail_if_no_progress extract_lets +onlyGivenNames z); (refine keeps_cut (a := a) z ?_ fun hz => ?_) <;> [subst z; clear_value z]) | with_reducible first | assumption | apply State.wr_keeps | apply keeps_ite | split

theorem State.setTst_keeps {a s : State} (h : a.Keeps s) (x2 : _) (x3 : _) (x4 : _) :
    a.Keeps (State.setTst s x2 x3 x4) := by
  unfold State.setTst
  repeat' first | intro _ | ((fail_if_no_progress extract_lets +onlyGivenNames z); first | (refine keeps_cut (a := a) z ?_ fun hz => ?_) <;> [subst z; clear_value z] | clear_value z) | with_reducible first | assumption | apply State.wr_keeps | apply State.sparesLow_keeps | apply State.capUpdate_keeps | apply keeps_ite | split

theorem State.aimVals_keeps {a s : State} (h : a.Keeps s) (x2 : _) (x3 : _) (x4 : _) :
    a.Keeps (State.aimVals s x2 x3 x4) := by
  unfold State.aimVals
  repeat' first | intro _ | with_reducible first | assumption | apply State.setTab_keeps | apply keeps_ite | split

theorem State.aimRes_keeps {a s : State} (h : a.Keeps s) (x2 : _) (x3 : _) (x4 : _) (x5 : _) (x6 : _) (x7 : _) (x8 : _) (x9 : _) :
    a.Keeps (State.aimRes s x2 x3 x4 x5 x6 x7 x8 x9) := by
  unfold State.aimRes
  repeat' first | intro _ | with_reducible first | assumption | apply State.setTab_keeps | apply keeps_ite | split

theorem State.aimReverse_keeps {a s : State} (h : a.Keeps s) (x2 : _) (x3 : _) (x4 : _) :
    a.Keeps (State.aimReverse s x2 x3 x4) := by
  unfold State.aimReverse
  repeat' first | intro _ | ((fail_if_no_progress extract_lets +onlyGivenNames z); (refine keeps_cut (a := a) z ?_ fun hz => ?_) <;> [subst z; clear_value z]) | with_reducible first | assumption | apply State.each_keeps | apply State.aimRes_keeps | apply State.setTab_keeps | apply keeps_ite | split

theorem State.aimForward_keeps {a s : State} (h : a.Keeps s) (x2 : _) (x3 : _) (x4 : _) :
    a.Keeps (State.aimForward s x2 x3 x4) := by
  unfold State.aimForward
  repeat' first | intro _ | ((fail_if_no_progress extract_lets +onlyGivenNames z); (refine keeps_cut (a := a) z ?_ fun hz => ?_) <;> [subst z; clear_value z]) | with_reducible first | assumption | apply State.each_keeps | apply State.aimRes_keeps | apply State.setTab_keeps | apply keeps_ite | split

theorem State.aimAll_keeps {a s : State} (h : a.Keeps s) (x2 : _) (x3 : _) :
    a.Keeps (State.aimAll s x2 x3) := by
  unfold State.aimAll
  repeat' first | intro _ | ((fail_if_no_progress extract_lets +onlyGivenNames z); clear_value z) | with_reducible first | assumption | apply State.aimVals_keeps | apply State.aimReverse_keeps | apply State.aimForward_keeps

theorem State.drvPend_keeps {a s : State} (h : a.Keeps s) (x2 : _) (x3 : _) :
    a.Keeps (State.drvPend s x2 x3) := by
  unfold State.drvPend
  repeat' first | intro _ | with_reducible first | assumption | apply State.wr_keeps | split

theorem State.seamSettings_keeps {a s : State} (h : a.Keeps s) (x2 : _) (x3 : _) :
    a.Keeps (State.seamSettings s x2 x3) := by
  unfold State.seamSettings
  repeat' first | intro _ | ((fail_if_no_progress extract_lets +onlyGivenNames z); first | (refine keeps_cut (a := a) z ?_ fun hz => ?_) <;> [subst z; clear_value z] | clear_value z) | with_reducible first | assumption | apply State.setAx_keeps | apply State.wr_keeps | apply State.drvPend_keeps | apply keeps_ite | split

theorem State.setTaps_keeps {a s : State} (h : a.Keeps s) (x2 : _) (x3 : _) (x4 : _) :
    a.Keeps (State.setTaps s x2 x3 x4) := by
  unfold State.setTaps
  repeat' first | intro _ | with_reducible first | assumption | apply State.wr_keeps | apply State.setAx_keeps | apply keeps_ite | split

theorem State.takeFull_keeps {a s : State} (h : a.Keeps s) (x2 : _) (x3 : _) :
    a.Keeps (State.takeFull s x2 x3) := by
  unfold State.takeFull
  repeat' first | intro _ | ((fail_if_no_progress extract_lets +onlyGivenNames z); (refine keeps_cut (a := a) z ?_ fun hz => ?_) <;> [subst z; clear_value z]) | with_reducible first | assumption | apply State.setTab_keeps | apply State.dropTab_keeps | apply State.each_keeps | apply State.setAx_keeps | apply State.setTaps_keeps | apply keeps_ite | split

theorem State.joins_keeps {a s : State} (h : a.Keeps s) (x2 : _) (x3 : _) :
    a.Keeps (State.joins s x2 x3) := by
  unfold State.joins
  repeat' first | intro _ | with_reducible first | assumption | apply State.updTile_keeps | apply State.wr_keeps

theorem State.wantHold_keeps {a s : State} (h : a.Keeps s) (x2 : _) (x3 : _) (x4 : _) :
    a.Keeps (State.wantHold s x2 x3 x4) := by
  unfold State.wantHold
  repeat' first | intro _ | with_reducible first | assumption | apply State.setAx_keeps | apply State.wr_keeps | apply keeps_ite | split

theorem State.settle_keeps {a s : State} (h : a.Keeps s) (x2 : _) (x3 : _) :
    a.Keeps (State.settle s x2 x3) := by
  unfold State.settle
  repeat' first | intro _ | ((fail_if_no_progress extract_lets +onlyGivenNames z); (refine keeps_fn z ?_; subst z; beta_reduce)) | with_reducible first | assumption | apply State.each_keeps | apply State.setTab_keeps | apply keeps_ite | split

theorem State.takeTabs_keeps {a s : State} (h : a.Keeps s) (x2 : _) (x3 : _) :
    a.Keeps (State.takeTabs s x2 x3) := by
  unfold State.takeTabs
  repeat' first | intro _ | ((fail_if_no_progress extract_lets +onlyGivenNames z); first | (refine keeps_cut (a := a) z ?_ fun hz => ?_) <;> [subst z; clear_value z] | clear_value z) | with_reducible first | assumption | apply State.each_keeps | apply State.setTab_keeps | apply State.dropTab_keeps

theorem State.takePending_keeps {a s : State} (h : a.Keeps s) (x2 : _) (x3 : _) :
    a.Keeps (State.takePending s x2 x3) := by
  unfold State.takePending
  repeat' first | intro _ | with_reducible first | assumption | apply State.seamSettings_keeps | apply State.settle_keeps | apply State.when_keeps | apply State.takeTabs_keeps

theorem State.setSlot_keeps {a s : State} (h : a.Keeps s) (x2 : _) (x3 : _) (x4 : _) :
    a.Keeps (State.setSlot s x2 x3 x4) := by
  unfold State.setSlot
  repeat' first | intro _ | with_reducible first | assumption | apply State.setAx_keeps

theorem State.swapSlots_keeps {a s : State} (h : a.Keeps s) (x2 : _) (x3 : _) (x4 : _) :
    a.Keeps (State.swapSlots s x2 x3 x4) := by
  unfold State.swapSlots
  repeat' first | intro _ | with_reducible first | assumption | apply State.setSlot_keeps

theorem State.setCause_keeps {a s : State} (h : a.Keeps s) (x2 : _) (x3 : _) (x4 : _) (x5 : _) :
    a.Keeps (State.setCause s x2 x3 x4 x5) := by
  unfold State.setCause
  repeat' first | intro _ | with_reducible first | assumption | apply State.updTile_keeps

theorem State.rampTile_keeps {a s : State} (h : a.Keeps s) (x2 : _) (x3 : _) :
    a.Keeps (State.rampTile s x2 x3) := by
  unfold State.rampTile
  repeat' first | intro _ | ((fail_if_no_progress extract_lets +onlyGivenNames z); first | (refine keeps_cut (a := a) z ?_ fun hz => ?_) <;> [subst z; clear_value z] | (refine keeps_fn z ?_; subst z; beta_reduce) | clear_value z) | with_reducible first | assumption | apply State.each_keeps | apply State.setTab_keeps | apply State.takeTabs_keeps | apply keeps_ite | split

theorem State.toStaged_keeps {a s : State} (h : a.Keeps s) (x2 : _) (x3 : _) :
    a.Keeps (State.toStaged s x2 x3) := by
  unfold State.toStaged
  repeat' first | intro _ | with_reducible first | assumption | apply State.setAx_keeps | apply State.wr_keeps

theorem State.roundTileDone_keeps {a s : State} (h : a.Keeps s) (x2 : _) (x3 : _) (x4 : _) :
    a.Keeps (State.roundTileDone s x2 x3 x4) := by
  unfold State.roundTileDone
  repeat' first | intro _ | ((fail_if_no_progress extract_lets +onlyGivenNames z); first | (refine keeps_cut (a := a) z ?_ fun hz => ?_) <;> [subst z; clear_value z] | clear_value z) | with_reducible first | assumption | apply State.setAx_keeps | apply State.event_keeps | apply State.wr_keeps | apply keeps_ite | split

theorem State.unplace_keeps {a s : State} (h : a.Keeps s) (x2 : _) (x3 : _) :
    a.Keeps (State.unplace s x2 x3) := by
  unfold State.unplace
  repeat' first | intro _ | ((fail_if_no_progress extract_lets +onlyGivenNames z); (refine keeps_cut (a := a) z ?_ fun hz => ?_) <;> [subst z; clear_value z]) | with_reducible first | assumption | apply State.roundTileDone_keeps | apply State.wr_keeps | fail_if_no_progress apply keeps_mk | split

theorem State.updMap_keeps {a s : State} (h : a.Keeps s) (x2 : _) (x3 : _) (x4 : _) :
    a.Keeps (State.updMap s x2 x3 x4) := by
  unfold State.updMap
  repeat' first | intro _ | with_reducible first | assumption | fail_if_no_progress apply keeps_mk | apply keeps_ite | split

theorem State.aim_keeps {a s : State} (h : a.Keeps s) (x2 : _) (x3 : _) :
    a.Keeps (State.aim s x2 x3) := by
  unfold State.aim
  repeat' first | intro _ | with_reducible first | assumption | apply State.setAx_keeps | apply State.aimAll_keeps | apply keeps_ite | split

theorem State.fullOver_keeps {a s : State} (h : a.Keeps s) (x2 : _) (x3 : _) :
    a.Keeps (State.fullOver s x2 x3) := by
  unfold State.fullOver
  repeat' first | intro _ | ((fail_if_no_progress extract_lets +onlyGivenNames z); (refine keeps_cut (a := a) z ?_ fun hz => ?_) <;> [subst z; clear_value z]) | with_reducible first | assumption | apply State.takePending_keeps | apply State.aim_keeps | apply keeps_ite | split

theorem State.wantJoin_keeps {a s : State} (h : a.Keeps s) (x2 : _) (x3 : _) :
    a.Keeps (State.wantJoin s x2 x3) := by
  unfold State.wantJoin
  repeat' first | intro _ | ((fail_if_no_progress extract_lets +onlyGivenNames z); (refine keeps_cut (a := a) z ?_ fun hz => ?_) <;> [subst z; clear_value z]) | with_reducible first | assumption | apply State.setAx_keeps | apply State.wr_keeps | apply keeps_ite | split

theorem State.queueCal_keeps {a s : State} (h : a.Keeps s) (x2 : _) (x3 : _) (x4 : _) :
    a.Keeps (State.queueCal s x2 x3 x4) := by
  unfold State.queueCal
  repeat' first | intro _ | ((fail_if_no_progress extract_lets +onlyGivenNames z); clear_value z) | with_reducible first | assumption | apply State.setAx_keeps | fail_if_no_progress apply keeps_mk | apply keeps_ite | split

theorem State.noSlot_keeps {a s : State} (h : a.Keeps s) (x2 : _) (x3 : _) :
    a.Keeps (State.noSlot s x2 x3) := by
  unfold State.noSlot
  repeat' first | intro _ | with_reducible first | assumption | apply State.setSlot_keeps

theorem State.roundTileMove_keeps {a s : State} (h : a.Keeps s) (x2 : _) (x3 : _) (x4 : _) :
    a.Keeps (State.roundTileMove s x2 x3 x4) := by
  unfold State.roundTileMove
  repeat' first | intro _ | with_reducible first | assumption | apply State.setAx_keeps | apply keeps_ite | split

theorem State.takeSlot_keeps {a s : State} (h : a.Keeps s) (x2 : _) (x3 : _) (x4 : _) :
    a.Keeps (State.takeSlot s x2 x3 x4) := by
  unfold State.takeSlot
  repeat' first | intro _ | with_reducible first | assumption | apply State.noSlot_keeps | apply State.setSlot_keeps

theorem State.setDrive_keeps {a s : State} (h : a.Keeps s) (x2 : _) (x3 : _) (x4 : _) :
    a.Keeps (State.setDrive s x2 x3 x4) := by
  unfold State.setDrive
  repeat' first | intro _ | with_reducible first | assumption | apply State.drvPend_keeps | apply State.setAx_keeps | apply State.wr_keeps | apply keeps_ite | split

theorem State.setSlew_keeps {a s : State} (h : a.Keeps s) (x2 : _) (x3 : _) (x4 : _) :
    a.Keeps (State.setSlew s x2 x3 x4) := by
  unfold State.setSlew
  repeat' first | intro _ | with_reducible first | assumption | apply State.drvPend_keeps | apply State.setAx_keeps | apply State.wr_keeps | apply keeps_ite | split

theorem State.place_keeps {a s : State} (h : a.Keeps s) (x2 : _) :
    a.Keeps (State.place s x2) := by
  unfold State.place
  repeat' first | intro _ | ((fail_if_no_progress extract_lets +onlyGivenNames z); (refine keeps_cut (a := a) z ?_ fun hz => ?_) <;> [subst z; clear_value z]) | with_reducible first | assumption | apply State.wr_keeps | fail_if_no_progress apply keeps_mk | split

theorem State.seamState_keeps {a s : State} (h : a.Keeps s) (x2 : _) (x3 : _) :
    a.Keeps (State.seamState s x2 x3) := by
  unfold State.seamState
  repeat' first | intro _ | ((fail_if_no_progress extract_lets +onlyGivenNames z); clear_value z) | with_reducible first | assumption | apply State.setAx_keeps | apply State.settle_keeps | apply State.toStaged_keeps | apply State.wr_keeps | apply State.joins_keeps | apply keeps_ite | split

end Sys2Proof.Machine
end

