-- ==== Sys2Proof/Laws/KeepsEngines.lean ====
section
/-!
SUPPORT. Laws/KeepsEngines.lean: the operations of Machine/Engines.lean keep what Laws/Keeps.lean names.
-/

set_option linter.unusedTactic false
set_option linter.unusedVariables false
set_option linter.tactic.unusedName false
set_option linter.unreachableTactic false

namespace Sys2Proof.Machine

theorem State.endOp_keeps {a s : State} (h : a.Keeps s) (x2 : _) (x3 : _) :
    a.Keeps (State.endOp s x2 x3) := by
  unfold State.endOp
  repeat' first | intro _ | with_reducible first | assumption | apply State.opDone_keeps | split

theorem State.showEngine_keeps {a s : State} (h : a.Keeps s) (x2 : _) (x3 : _) (x4 : _) (x5 : _) (x6 : _) :
    a.Keeps (State.showEngine s x2 x3 x4 x5 x6) := by
  unfold State.showEngine
  repeat' first | intro _ | ((fail_if_no_progress extract_lets +onlyGivenNames z); (refine keeps_cut (a := a) z ?_ fun hz => ?_) <;> [subst z; clear_value z]) | with_reducible first | assumption | apply State.wr_keeps | apply keeps_ite | split

theorem State.dropReq_keeps {a s : State} (h : a.Keeps s) (x2 : _) :
    a.Keeps (State.dropReq s x2) := by
  unfold State.dropReq
  repeat' first | intro _ | with_reducible first | assumption | fail_if_no_progress apply keeps_mk | split

theorem State.giveUp_keeps {a s : State} (h : a.Keeps s) (x2 : _) :
    a.Keeps (State.giveUp s x2) := by
  unfold State.giveUp
  repeat' first | intro _ | with_reducible first | assumption | apply State.showEngine_keeps | apply State.dropReq_keeps | split

theorem State.endTileOps_keeps {a s : State} (h : a.Keeps s) (x2 : _) (x3 : _) :
    a.Keeps (State.endTileOps s x2 x3) := by
  unfold State.endTileOps
  repeat' first | intro _ | ((fail_if_no_progress extract_lets +onlyGivenNames z); first | (refine keeps_cut (a := a) z ?_ fun hz => ?_) <;> [subst z; clear_value z] | clear_value z) | with_reducible first | assumption | apply State.each_keeps | apply State.endOp_keeps | apply State.giveUp_keeps | split

theorem State.loadScales_keeps {a s : State} (h : a.Keeps s) (x2 : _) (x3 : _) :
    a.Keeps (State.loadScales s x2 x3) := by
  unfold State.loadScales
  repeat' first | intro _ | with_reducible first | assumption | apply State.each_keeps | apply State.setTab_keeps | apply keeps_ite | split

theorem State.spareColFails_keeps {a s : State} (h : a.Keeps s) (x2 : _) (x3 : _) (x4 : _) :
    a.Keeps (State.spareColFails s x2 x3 x4) := by
  unfold State.spareColFails
  repeat' first | intro _ | ((fail_if_no_progress extract_lets +onlyGivenNames z); (refine keeps_cut (a := a) z ?_ fun hz => ?_) <;> [subst z; clear_value z]) | with_reducible first | assumption | apply State.wr_keeps | apply keeps_ite | split

theorem State.dropRefresh_keeps {a s : State} (h : a.Keeps s) (x2 : _) (x3 : _) :
    a.Keeps (State.dropRefresh s x2 x3) := by
  unfold State.dropRefresh
  repeat' first | intro _ | ((fail_if_no_progress extract_lets +onlyGivenNames z); first | (refine keeps_cut (a := a) z ?_ fun hz => ?_) <;> [subst z; clear_value z] | clear_value z) | with_reducible first | assumption | apply State.endOp_keeps | apply State.each_keeps | apply State.giveUp_keeps | fail_if_no_progress apply keeps_mk | split

theorem State.takeSpare_keeps {a s : State} (h : a.Keeps s) (x2 : _) (x3 : _) :
    a.Keeps (State.takeSpare s x2 x3) := by
  unfold State.takeSpare
  repeat' first | intro _ | ((fail_if_no_progress extract_lets +onlyGivenNames z); (refine keeps_cut (a := a) z ?_ fun hz => ?_) <;> [subst z; clear_value z]) | with_reducible first | assumption | apply State.each_keeps | apply State.giveUp_keeps | apply State.updTile_keeps | split

theorem State.updRefresh_keeps {a s : State} (h : a.Keeps s) (x2 : _) (x3 : _) (x4 : _) :
    a.Keeps (State.updRefresh s x2 x3 x4) := by
  unfold State.updRefresh
  repeat' first | intro _ | with_reducible first | assumption | fail_if_no_progress apply keeps_mk | apply keeps_ite | split

theorem State.switchLost_keeps {a s : State} (h : a.Keeps s) (x2 : _) (x3 : _) :
    a.Keeps (State.switchLost s x2 x3) := by
  unfold State.switchLost
  repeat' first | intro _ | with_reducible first | assumption | apply State.setAx_keeps | apply keeps_ite | split

theorem State.unready_keeps {a s : State} (h : a.Keeps s) (x2 : _) (x3 : _) :
    a.Keeps (State.unready s x2 x3) := by
  unfold State.unready
  repeat' first | intro _ | with_reducible first | assumption | apply State.switchLost_keeps | apply State.updMap_keeps | split

theorem State.replCal_keeps {a s : State} (h : a.Keeps s) (x2 : _) (x3 : _) :
    a.Keeps (State.replCal s x2 x3) := by
  unfold State.replCal
  repeat' first | intro _ | ((fail_if_no_progress extract_lets +onlyGivenNames z); first | (refine keeps_cut (a := a) z ?_ fun hz => ?_) <;> [subst z; clear_value z] | clear_value z) | with_reducible first | assumption | apply State.each_keeps | apply State.wantJoin_keeps | fail_if_no_progress apply keeps_mk | apply keeps_ite | split

theorem State.endCal_keeps {a s : State} (h : a.Keeps s) (x2 : _) (x3 : _) :
    a.Keeps (State.endCal s x2 x3) := by
  unfold State.endCal
  repeat' first | intro _ | ((fail_if_no_progress extract_lets +onlyGivenNames z); (refine keeps_cut (a := a) z ?_ fun hz => ?_) <;> [subst z; clear_value z]) | with_reducible first | assumption | apply State.wr_keeps | apply State.updTile_keeps | apply State.endOp_keeps | apply State.fullOver_keeps | apply State.replCal_keeps | fail_if_no_progress apply keeps_mk | apply keeps_ite | split

theorem State.setPrecision_keeps {a s : State} (h : a.Keeps s) (x2 : _) (x3 : _) :
    a.Keeps (State.setPrecision s x2 x3) := by
  unfold State.setPrecision
  repeat' first | intro _ | with_reducible first | assumption | apply State.setAx_keeps | apply State.setCause_keeps | apply State.wr_keeps

theorem State.retireDone_keeps {a s : State} (h : a.Keeps s) (x2 : _) (x3 : _) (x4 : _) :
    a.Keeps (State.retireDone s x2 x3 x4) := by
  induction x4 generalizing s x3 <;> [skip; rename_i ih]
  all_goals unfold State.retireDone
  repeat' first | intro _ | ((fail_if_no_progress extract_lets +onlyGivenNames z); clear_value z) | with_reducible first | assumption | apply State.wr_keeps | apply keeps_ite | apply ih | split

theorem State.markRetired_keeps {a s : State} (h : a.Keeps s) (x2 : _) (x3 : _) (x4 : _) (x5 : _) :
    a.Keeps (State.markRetired s x2 x3 x4 x5) := by
  unfold State.markRetired
  repeat' first | intro _ | ((fail_if_no_progress extract_lets +onlyGivenNames z); first | (refine keeps_cut (a := a) z ?_ fun hz => ?_) <;> [subst z; clear_value z] | clear_value z) | with_reducible first | assumption | apply State.endTileOps_keeps | apply State.unready_keeps | apply State.dropRefresh_keeps | apply State.endCal_keeps | apply State.setAx_keeps | apply State.takePending_keeps | apply State.setTst_keeps | apply State.roundTileMove_keeps | apply State.takeSlot_keeps | apply State.wr_keeps | apply State.setPrecision_keeps | apply State.roundTileDone_keeps | apply State.noSlot_keeps | apply State.retireDone_keeps | apply State.capUpdate_keeps | apply State.event_keeps | fail_if_no_progress apply keeps_mk | apply keeps_ite | split

theorem State.updReq_keeps {a s : State} (h : a.Keeps s) (x2 : _) (x3 : _) :
    a.Keeps (State.updReq s x2 x3) := by
  unfold State.updReq
  repeat' first | intro _ | with_reducible first | assumption | fail_if_no_progress apply keeps_mk | apply keeps_ite | split

theorem State.feedQueue_keeps {a s : State} (h : a.Keeps s) (x2 : _) :
    a.Keeps (State.feedQueue s x2) := by
  unfold State.feedQueue
  repeat' first | intro _ | ((fail_if_no_progress extract_lets +onlyGivenNames z); first | (refine keeps_cut (a := a) z ?_ fun hz => ?_) <;> [subst z; clear_value z] | clear_value z) | with_reducible first | assumption | apply State.wr_keeps | fail_if_no_progress apply keeps_mk | apply keeps_ite | split

theorem State.imageNeeded_keeps {a s : State} (h : a.Keeps s) (x2 : _) (x3 : _) :
    a.Keeps (State.imageNeeded s x2 x3) := by
  unfold State.imageNeeded
  repeat' first | intro _ | ((fail_if_no_progress extract_lets +onlyGivenNames z); clear_value z) | with_reducible first | assumption | apply State.event_keeps | split

theorem State.waitImage_keeps {a s : State} (h : a.Keeps s) (x2 : _) :
    a.Keeps (State.waitImage s x2) := by
  unfold State.waitImage
  repeat' first | intro _ | ((fail_if_no_progress extract_lets +onlyGivenNames z); first | (refine keeps_cut (a := a) z ?_ fun hz => ?_) <;> [subst z; clear_value z] | clear_value z) | with_reducible first | assumption | apply State.updReq_keeps | apply State.wr_keeps | apply State.setAx_keeps | apply State.imageNeeded_keeps | apply keeps_ite | split

theorem State.enterProg_keeps {a s : State} (h : a.Keeps s) (x2 : _) :
    a.Keeps (State.enterProg s x2) := by
  unfold State.enterProg
  repeat' first | intro _ | ((fail_if_no_progress extract_lets +onlyGivenNames z); first | (refine keeps_cut (a := a) z ?_ fun hz => ?_) <;> [subst z; clear_value z] | clear_value z) | with_reducible first | assumption | apply State.unready_keeps | apply State.unplace_keeps | apply State.setTst_keeps | apply keeps_ite | split

theorem State.startReq_keeps {a s : State} (h : a.Keeps s) (x2 : _) (x3 : _) :
    a.Keeps (State.startReq s x2 x3) := by
  unfold State.startReq
  repeat' first | intro _ | ((fail_if_no_progress extract_lets +onlyGivenNames z); first | (refine keeps_cut (a := a) z ?_ fun hz => ?_) <;> [subst z; clear_value z] | clear_value z) | with_reducible first | assumption | apply State.waitImage_keeps | apply State.useImage_keeps | apply State.updReq_keeps | apply State.showEngine_keeps | apply State.enterProg_keeps | apply keeps_ite | split

theorem State.pump_keeps {a s : State} (h : a.Keeps s) (x2 : _) :
    a.Keeps (State.pump s x2) := by
  unfold State.pump
  repeat' first | intro _ | ((fail_if_no_progress extract_lets +onlyGivenNames z); (refine keeps_cut (a := a) z ?_ fun hz => ?_) <;> [subst z; clear_value z]) | with_reducible first | assumption | apply State.feedQueue_keeps | apply State.each_keeps | apply State.startReq_keeps | apply keeps_ite | split

theorem State.progPush_keeps {a s : State} (h : a.Keeps s) (x2 : _) :
    a.Keeps (State.progPush s x2) := by
  unfold State.progPush
  repeat' first | intro _ | ((fail_if_no_progress extract_lets +onlyGivenNames z); first | (refine keeps_cut (a := a) z ?_ fun hz => ?_) <;> [subst z; clear_value z] | clear_value z) | with_reducible first | assumption | apply State.setAx_keeps | apply State.pump_keeps | apply State.waitImage_keeps | fail_if_no_progress apply keeps_mk | apply keeps_ite | split

theorem State.startRefresh_keeps {a s : State} (h : a.Keeps s) (x2 : _) :
    a.Keeps (State.startRefresh s x2) := by
  unfold State.startRefresh
  repeat' first | intro _ | ((fail_if_no_progress extract_lets +onlyGivenNames z); clear_value z) | with_reducible first | assumption | apply State.dropRefresh_keeps | apply State.imageNeeded_keeps | apply State.progPush_keeps | apply State.updRefresh_keeps | apply State.takeSpare_keeps | apply State.wantHold_keeps | apply keeps_ite | split

theorem State.endSlotCmd_keeps {a s : State} (h : a.Keeps s) (x2 : _) (x3 : _) :
    a.Keeps (State.endSlotCmd s x2 x3) := by
  unfold State.endSlotCmd
  repeat' first | intro _ | ((fail_if_no_progress extract_lets +onlyGivenNames z); first | (refine keeps_cut (a := a) z ?_ fun hz => ?_) <;> [subst z; clear_value z] | clear_value z) | with_reducible first | assumption | apply State.completeCmd_keeps | fail_if_no_progress apply keeps_mk | apply keeps_ite | split

theorem State.moveQueued_keeps {a s : State} (h : a.Keeps s) (x2 : _) (x3 : _) (x4 : _) :
    a.Keeps (State.moveQueued s x2 x3 x4) := by
  unfold State.moveQueued
  repeat' first | intro _ | ((fail_if_no_progress extract_lets +onlyGivenNames z); first | (refine keeps_cut (a := a) z ?_ fun hz => ?_) <;> [subst z; clear_value z] | clear_value z) | with_reducible first | assumption | apply State.each_keeps | apply State.endOp_keeps | apply State.endSlotCmd_keeps | fail_if_no_progress apply keeps_mk | apply keeps_ite | split

theorem State.retireNoSpare_keeps {a s : State} (h : a.Keeps s) (x2 : _) (x3 : _) (x4 : _) :
    a.Keeps (State.retireNoSpare s x2 x3 x4) := by
  unfold State.retireNoSpare
  repeat' first | intro _ | ((fail_if_no_progress extract_lets +onlyGivenNames z); first | (refine keeps_cut (a := a) z ?_ fun hz => ?_) <;> [subst z; clear_value z] | clear_value z) | with_reducible first | assumption | apply State.setAx_keeps | apply State.moveQueued_keeps | apply State.markRetired_keeps | apply State.each_keeps | apply State.loseJob_keeps | apply keeps_ite | split

theorem State.noSpareFor_keeps {a s : State} (h : a.Keeps s) (x2 : _) :
    a.Keeps (State.noSpareFor s x2) := by
  unfold State.noSpareFor
  repeat' first | intro _ | ((fail_if_no_progress extract_lets +onlyGivenNames z); (refine keeps_cut (a := a) z ?_ fun hz => ?_) <;> [subst z; clear_value z]) | with_reducible first | assumption | apply State.dropReq_keeps | apply State.startRefresh_keeps | apply State.retireNoSpare_keeps | apply keeps_ite | split

theorem State.moveToSpare_keeps {a s : State} (h : a.Keeps s) (x2 : _) (x3 : _) :
    a.Keeps (State.moveToSpare s x2 x3) := by
  unfold State.moveToSpare
  repeat' first | intro _ | ((fail_if_no_progress extract_lets +onlyGivenNames z); first | (refine keeps_cut (a := a) z ?_ fun hz => ?_) <;> [subst z; clear_value z] | clear_value z) | with_reducible first | assumption | apply State.setTst_keeps | apply State.takeSpare_keeps | apply State.updRefresh_keeps | apply State.unplace_keeps | apply State.markRetired_keeps | apply State.place_keeps | apply State.updReq_keeps | apply State.showEngine_keeps | apply State.pump_keeps | apply State.noSpareFor_keeps | apply State.giveUp_keeps | apply State.endOp_keeps | apply State.retireNoSpare_keeps | apply State.endSlotCmd_keeps | apply keeps_ite | split

theorem State.restartRepair_keeps {a s : State} (h : a.Keeps s) (x2 : _) (x3 : _) :
    a.Keeps (State.restartRepair s x2 x3) := by
  unfold State.restartRepair
  repeat' first | intro _ | ((fail_if_no_progress extract_lets +onlyGivenNames z); first | (refine keeps_cut (a := a) z ?_ fun hz => ?_) <;> [subst z; clear_value z] | clear_value z) | with_reducible first | assumption | apply State.each_keeps | apply State.showEngine_keeps | apply State.updReq_keeps | apply State.pump_keeps | apply keeps_ite | split

theorem State.restartExposed_keeps {a s : State} (h : a.Keeps s) (x2 : _) (x3 : _) :
    a.Keeps (State.restartExposed s x2 x3) := by
  unfold State.restartExposed
  repeat' first | intro _ | with_reducible first | assumption | apply State.faultJobs_keeps

theorem State.cancelPending_keeps {a s : State} (h : a.Keeps s) (x2 : _) (x3 : _) :
    a.Keeps (State.cancelPending s x2 x3) := by
  unfold State.cancelPending
  repeat' first | intro _ | with_reducible first | assumption | fail_if_no_progress apply keeps_mk | apply keeps_ite | split

theorem State.breakCal_keeps {a s : State} (h : a.Keeps s) (x2 : _) (x3 : _) :
    a.Keeps (State.breakCal s x2 x3) := by
  unfold State.breakCal
  repeat' first | intro _ | ((fail_if_no_progress extract_lets +onlyGivenNames z); first | (refine keeps_cut (a := a) z ?_ fun hz => ?_) <;> [subst z; clear_value z] | clear_value z) | with_reducible first | assumption | apply State.endCal_keeps | apply State.queueCal_keeps | fail_if_no_progress apply keeps_mk | apply keeps_ite | split

theorem State.convFailed_keeps {a s : State} (h : a.Keeps s) (x2 : _) (x3 : _) (x4 : _) :
    a.Keeps (State.convFailed s x2 x3 x4) := by
  unfold State.convFailed
  repeat' first | intro _ | with_reducible first | assumption | apply State.each_keeps | apply State.wr_keeps | apply keeps_ite | split

theorem State.replaceTile_keeps {a s : State} (h : a.Keeps s) (x2 : _) (x3 : _) (x4 : _) (x5 : _) :
    a.Keeps (State.replaceTile s x2 x3 x4 x5) := by
  unfold State.replaceTile
  repeat' first | intro _ | ((fail_if_no_progress extract_lets +onlyGivenNames z); first | (refine keeps_cut (a := a) z ?_ fun hz => ?_) <;> [subst z; clear_value z] | clear_value z) | with_reducible first | assumption | apply State.dropRefresh_keeps | apply State.each_keeps | apply State.giveUp_keeps | apply State.switchLost_keeps | apply State.wantHold_keeps | apply State.setAx_keeps | apply State.takeSpare_keeps | apply State.moveQueued_keeps | apply State.updTile_keeps | apply State.progPush_keeps | apply State.markRetired_keeps | apply State.setTst_keeps | apply State.pump_keeps | apply State.wr_keeps | apply State.retireNoSpare_keeps | apply foldl_keeps | apply keeps_ite | split

theorem State.failTile_keeps {a s : State} (h : a.Keeps s) (x2 : _) (x3 : _) (x4 : _) (x5 : _) :
    a.Keeps (State.failTile s x2 x3 x4 x5) := by
  unfold State.failTile
  repeat' first | intro _ | ((fail_if_no_progress extract_lets +onlyGivenNames z); (refine keeps_cut (a := a) z ?_ fun hz => ?_) <;> [subst z; clear_value z]) | with_reducible first | assumption | apply State.endTileOps_keeps | apply State.restartExposed_keeps | apply State.replaceTile_keeps | apply State.endCal_keeps | apply keeps_ite | split

theorem State.repairColumn_keeps {a s : State} (h : a.Keeps s) (x2 : _) (x3 : _) (x4 : _) (x5 : _) (x6 : _) :
    a.Keeps (State.repairColumn s x2 x3 x4 x5 x6) := by
  unfold State.repairColumn
  repeat' first | intro _ | ((fail_if_no_progress extract_lets +onlyGivenNames z); first | (refine keeps_cut (a := a) z ?_ fun hz => ?_) <;> [subst z; clear_value z] | clear_value z) | with_reducible first | assumption | apply State.updTile_keeps | apply State.wantHold_keeps | apply State.pump_keeps | apply State.restartRepair_keeps | apply State.updReq_keeps | apply State.progPush_keeps | apply keeps_ite | split

theorem State.elementFails_keeps {a s : State} (h : a.Keeps s) (x2 : _) (x3 : _) (x4 : _) (x5 : _) :
    a.Keeps (State.elementFails s x2 x3 x4 x5) := by
  unfold State.elementFails
  repeat' first | intro _ | ((fail_if_no_progress extract_lets +onlyGivenNames z); first | (refine keeps_cut (a := a) z ?_ fun hz => ?_) <;> [subst z; clear_value z] | clear_value z) | with_reducible first | assumption | apply State.moveToSpare_keeps | apply State.restartRepair_keeps | apply State.restartExposed_keeps | apply State.cancelPending_keeps | apply State.breakCal_keeps | apply State.convFailed_keeps | apply State.updTile_keeps | apply State.failTile_keeps | apply State.repairColumn_keeps | apply State.spareColFails_keeps | apply State.event_keeps | apply State.wr_keeps | apply keeps_ite | split

theorem State.progTables_keeps {a s : State} (h : a.Keeps s) (x2 : _) (x3 : _) :
    a.Keeps (State.progTables s x2 x3) := by
  unfold State.progTables
  repeat' first | intro _ | ((fail_if_no_progress extract_lets +onlyGivenNames z); (refine keeps_cut (a := a) z ?_ fun hz => ?_) <;> [subst z; clear_value z]) | with_reducible first | assumption | apply State.setTab_keeps | apply State.aimVals_keeps | apply State.aimReverse_keeps | apply State.aimForward_keeps

theorem State.layerSettings_keeps {a s : State} (h : a.Keeps s) (x2 : _) (x3 : _) :
    a.Keeps (State.layerSettings s x2 x3) := by
  unfold State.layerSettings
  repeat' first | intro _ | ((fail_if_no_progress extract_lets +onlyGivenNames z); (refine keeps_cut (a := a) z ?_ fun hz => ?_) <;> [subst z; clear_value z]) | with_reducible first | assumption | apply State.setDrive_keeps | apply State.wr_keeps | apply State.setAx_keeps | apply keeps_ite | split

theorem State.measureLevels_keeps {a s : State} (h : a.Keeps s) (x2 : _) (x3 : _) (x4 : _) (x5 : _) :
    a.Keeps (State.measureLevels s x2 x3 x4 x5) := by
  unfold State.measureLevels
  repeat' first | intro _ | ((fail_if_no_progress extract_lets +onlyGivenNames z); clear_value z) | with_reducible first | assumption | apply State.updTile_keeps | apply foldl_keeps | apply keeps_ite | split

theorem State.refreshEvent_keeps {a s : State} (h : a.Keeps s) (x2 : _) (x3 : _) (x4 : _) (x5 : _) :
    a.Keeps (State.refreshEvent s x2 x3 x4 x5) := by
  unfold State.refreshEvent
  repeat' first | intro _ | with_reducible first | assumption | apply State.event_keeps

theorem State.refreshSooner_keeps {a s : State} (h : a.Keeps s) (x2 : _) (x3 : _) :
    a.Keeps (State.refreshSooner s x2 x3) := by
  unfold State.refreshSooner
  repeat' first | intro _ | ((fail_if_no_progress extract_lets +onlyGivenNames z); first | (refine keeps_cut (a := a) z ?_ fun hz => ?_) <;> [subst z; clear_value z] | clear_value z) | with_reducible first | assumption | apply State.updRefresh_keeps | apply State.refreshEvent_keeps | fail_if_no_progress apply keeps_mk | apply keeps_ite | split

theorem State.scheduleRefresh_keeps {a s : State} (h : a.Keeps s) (x2 : _) (x3 : _) (x4 : _) (x5 : _) (x6 : _) :
    a.Keeps (State.scheduleRefresh s x2 x3 x4 x5 x6) := by
  unfold State.scheduleRefresh
  repeat' first | intro _ | ((fail_if_no_progress extract_lets +onlyGivenNames z); first | (refine keeps_cut (a := a) z ?_ fun hz => ?_) <;> [subst z; clear_value z] | clear_value z) | with_reducible first | assumption | apply State.refreshSooner_keeps | apply State.refreshEvent_keeps | apply State.startRefresh_keeps | fail_if_no_progress apply keeps_mk | apply keeps_ite | split

theorem State.passes_keeps {a s : State} (h : a.Keeps s) (x2 : _) (x3 : _) (x4 : _) :
    a.Keeps (State.passes s x2 x3 x4) := by
  unfold State.passes
  repeat' first | intro _ | ((fail_if_no_progress extract_lets +onlyGivenNames z); clear_value z) | with_reducible first | assumption | apply State.updTile_keeps | apply foldl_keeps | split

theorem State.noteLate_keeps {a s : State} (h : a.Keeps s) (x2 : _) :
    a.Keeps (State.noteLate s x2) := by
  unfold State.noteLate
  repeat' first | intro _ | ((fail_if_no_progress extract_lets +onlyGivenNames z); first | (refine keeps_cut (a := a) z ?_ fun hz => ?_) <;> [subst z; clear_value z] | (refine keeps_fn z ?_; subst z; beta_reduce) | clear_value z) | with_reducible first | assumption | apply State.wr_keeps | apply State.bump_keeps | apply State.event_keeps | apply State.setAx_keeps | apply State.jobLate_keeps | fail_if_no_progress apply keeps_mk | apply keeps_ite | split

theorem State.releaseEngine_keeps {a s : State} (h : a.Keeps s) (x2 : _) :
    a.Keeps (State.releaseEngine s x2) := by
  unfold State.releaseEngine
  repeat' first | intro _ | with_reducible first | assumption | apply State.dropReq_keeps | apply State.showEngine_keeps | apply State.noteLate_keeps | split

theorem State.convTables_keeps {a s : State} (h : a.Keeps s) (x2 : _) (x3 : _) (x4 : _) (x5 : _) (x6 : _) :
    a.Keeps (State.convTables s x2 x3 x4 x5 x6) := by
  unfold State.convTables
  repeat' first | intro _ | ((fail_if_no_progress extract_lets +onlyGivenNames z); first | (refine keeps_cut (a := a) z ?_ fun hz => ?_) <;> [subst z; clear_value z] | clear_value z) | with_reducible first | assumption | apply State.each_keeps | apply State.setTab_keeps

theorem State.seamConverters_keeps {a s : State} (h : a.Keeps s) (x2 : _) (x3 : _) :
    a.Keeps (State.seamConverters s x2 x3) := by
  unfold State.seamConverters
  repeat' first | intro _ | ((fail_if_no_progress extract_lets +onlyGivenNames z); first | (refine keeps_cut (a := a) z ?_ fun hz => ?_) <;> [subst z; clear_value z] | clear_value z) | with_reducible first | assumption | apply State.each_keeps | apply State.wr_keeps | apply State.convTables_keeps | apply State.setCause_keeps | apply State.updTile_keeps | apply State.event_keeps | split

theorem State.repairHurry_keeps {a s : State} (h : a.Keeps s) (x2 : _) (x3 : _) (x4 : _) :
    a.Keeps (State.repairHurry s x2 x3 x4) := by
  unfold State.repairHurry
  repeat' first | intro _ | with_reducible first | assumption | fail_if_no_progress apply keeps_mk | apply keeps_ite | split

theorem State.rehome_keeps {a s : State} (h : a.Keeps s) (x2 : _) (x3 : _) :
    a.Keeps (State.rehome s x2 x3) := by
  unfold State.rehome
  repeat' first | intro _ | ((fail_if_no_progress extract_lets +onlyGivenNames z); first | (refine keeps_cut (a := a) z ?_ fun hz => ?_) <;> [subst z; clear_value z] | clear_value z) | with_reducible first | assumption | apply State.each_keeps | apply State.updReq_keeps | apply State.takeSpare_keeps | apply State.updRefresh_keeps | apply State.noSpareFor_keeps | apply keeps_ite | split

theorem State.contents_keeps {a s : State} (h : a.Keeps s) (x2 : _) (x3 : _) :
    a.Keeps (State.contents s x2 x3) := by
  unfold State.contents
  repeat' first | intro _ | ((fail_if_no_progress extract_lets +onlyGivenNames z); clear_value z) | with_reducible first | assumption | apply State.updTile_keeps | fail_if_no_progress apply keeps_mk | apply keeps_ite | split

theorem State.progDone_keeps {a s : State} (h : a.Keeps s) (x2 : _) (x3 : _) (x4 : _) (x5 : _) :
    a.Keeps (State.progDone s x2 x3 x4 x5) := by
  unfold State.progDone
  repeat' first | intro _ | ((fail_if_no_progress extract_lets +onlyGivenNames z); first | (refine keeps_cut (a := a) z ?_ fun hz => ?_) <;> [subst z; clear_value z] | clear_value z) | with_reducible first | assumption | apply State.place_keeps | apply State.wr_keeps | apply State.retireDone_keeps | apply State.toStaged_keeps | apply State.layerSettings_keeps | apply State.progTables_keeps | apply State.measureLevels_keeps | apply State.loadScales_keeps | apply State.setAx_keeps | apply State.bump_keeps | apply State.setTab_keeps | apply State.updTile_keeps | apply State.unready_keeps | apply keeps_ite | split

theorem State.addPulse_keeps {a s : State} (h : a.Keeps s) (x2 : _) (x3 : _) (x4 : _) (x5 : _) (x6 : _) :
    a.Keeps (State.addPulse s x2 x3 x4 x5 x6) := by
  unfold State.addPulse
  repeat' first | intro _ | ((fail_if_no_progress extract_lets +onlyGivenNames z); clear_value z) | with_reducible first | assumption | apply State.updTile_keeps | fail_if_no_progress apply keeps_mk

theorem State.cellsStick_keeps {a s : State} (h : a.Keeps s) (x2 : _) (x3 : _) (x4 : _) :
    a.Keeps (State.cellsStick s x2 x3 x4) := by
  unfold State.cellsStick
  repeat' first | intro _ | ((fail_if_no_progress extract_lets +onlyGivenNames z); clear_value z) | with_reducible first | assumption | apply State.updTile_keeps | apply foldl_keeps | apply keeps_ite | split

theorem State.markSpareCols_keeps {a s : State} (h : a.Keeps s) (x2 : _) (x3 : _) :
    a.Keeps (State.markSpareCols s x2 x3) := by
  unfold State.markSpareCols
  repeat' first | intro _ | with_reducible first | assumption | apply State.each_keeps | apply State.spareColFails_keeps | apply keeps_ite | split

theorem State.columnReplaced_keeps {a s : State} (h : a.Keeps s) (x2 : _) (x3 : _) (x4 : _) (x5 : _) (x6 : _) :
    a.Keeps (State.columnReplaced s x2 x3 x4 x5 x6) := by
  unfold State.columnReplaced
  repeat' first | intro _ | ((fail_if_no_progress extract_lets +onlyGivenNames z); first | (refine keeps_cut (a := a) z ?_ fun hz => ?_) <;> [subst z; clear_value z] | clear_value z) | with_reducible first | assumption | apply State.wr_keeps | apply State.event_keeps | apply keeps_ite | split

theorem State.programColumns_keeps {a s : State} (h : a.Keeps s) (x2 : _) (x3 : _) (x4 : _) :
    a.Keeps (State.programColumns s x2 x3 x4).1 := by
  unfold State.programColumns
  repeat' first | intro _ | ((fail_if_no_progress extract_lets +onlyGivenNames z); first | (refine keeps_cut (a := a) z ?_ fun hz => ?_) <;> [subst z; clear_value z] | clear_value z) | with_reducible first | assumption | apply State.passes_keeps | apply State.contents_keeps | apply State.bump_keeps | apply State.markSpareCols_keeps | apply State.each_keeps | apply State.columnReplaced_keeps | apply State.updTile_keeps | fail_if_no_progress apply keeps_mk | apply keeps_ite | split

theorem State.clearDone_keeps {a s : State} (h : a.Keeps s) (x2 : _) (x3 : _) (x4 : _) (x5 : _) :
    a.Keeps (State.clearDone s x2 x3 x4 x5) := by
  unfold State.clearDone
  repeat' first | intro _ | ((fail_if_no_progress extract_lets +onlyGivenNames z); first | (refine keeps_cut (a := a) z ?_ fun hz => ?_) <;> [subst z; clear_value z] | clear_value z) | with_reducible first | assumption | apply State.updTile_keeps | apply State.wr_keeps | apply State.clearTabs_keeps | apply foldl_keeps | apply keeps_ite | split

theorem State.spareFails_keeps {a s : State} (h : a.Keeps s) (x2 : _) (x3 : _) :
    a.Keeps (State.spareFails s x2 x3) := by
  unfold State.spareFails
  repeat' first | intro _ | with_reducible first | assumption | apply State.pump_keeps | apply State.markRetired_keeps | apply State.rehome_keeps | apply State.takeSpare_keeps

end Sys2Proof.Machine
end

