-- ==== Sys2Proof/Laws/KeepsSlots.lean ====
section
/-!
SUPPORT. Laws/KeepsSlots.lean: the operations of Machine/Slots.lean keep what Laws/Keeps.lean names.
-/

set_option linter.unusedTactic false
set_option linter.unusedVariables false
set_option linter.tactic.unusedName false
set_option linter.unreachableTactic false

namespace Sys2Proof.Machine

theorem State.resumeWaits_keeps {a s : State} (h : a.Keeps s) :
    a.Keeps (State.resumeWaits s) := by
  unfold State.resumeWaits
  repeat' first | intro _ | ((fail_if_no_progress extract_lets +onlyGivenNames z); first | (refine keeps_cut (a := a) z ?_ fun hz => ?_) <;> [subst z; clear_value z] | clear_value z) | with_reducible first | assumption | apply State.each_keeps | apply State.updReq_keeps | apply State.wr_keeps | apply State.setAx_keeps | apply State.startRefresh_keeps | apply State.pump_keeps | apply keeps_ite | split

theorem State.switchWatch_keeps {a s : State} (h : a.Keeps s) (x2 : _) :
    a.Keeps (State.switchWatch s x2) := by
  unfold State.switchWatch
  repeat' first | intro _ | with_reducible first | assumption | apply State.setAx_keeps | apply keeps_ite | split

theorem State.clearedCheck_keeps {a s : State} (h : a.Keeps s) (x2 : _) :
    a.Keeps (State.clearedCheck s x2) := by
  unfold State.clearedCheck
  repeat' first | intro _ | with_reducible first | assumption | apply State.completeCmd_keeps | apply keeps_ite | split

theorem State.layerReplaced_keeps {a s : State} (h : a.Keeps s) (x2 : _) :
    a.Keeps (State.layerReplaced s x2) := by
  unfold State.layerReplaced
  repeat' first | intro _ | with_reducible first | assumption | apply State.event_keeps | apply keeps_ite | split

theorem State.dropPanels_keeps {a s : State} (h : a.Keeps s) (x2 : _) (x3 : _) :
    a.Keeps (State.dropPanels s x2 x3) := by
  unfold State.dropPanels
  repeat' first | intro _ | with_reducible first | assumption | fail_if_no_progress apply keeps_mk | split

theorem State.prgHandback_keeps {a s : State} (h : a.Keeps s) (x2 : _) :
    a.Keeps (State.prgHandback s x2) := by
  unfold State.prgHandback
  repeat' first | intro _ | ((fail_if_no_progress extract_lets +onlyGivenNames z); (refine keeps_cut (a := a) z ?_ fun hz => ?_) <;> [subst z; clear_value z]) | with_reducible first | assumption | apply State.wr_keeps | apply State.resetReg_keeps | apply State.pump_keeps

theorem execPrgCtrlHandback_keeps {a s : State} (h : a.Keeps s) (x1 : _) (x2 : _) :
    a.KeepsR (execPrgCtrlHandback x1 x2 s) := by
  unfold execPrgCtrlHandback
  repeat' first | intro _ | with_reducible first | assumption | apply keepsR_next | apply keepsR_ite | apply State.order_keeps | apply State.when_keeps | apply State.prgHandback_keeps | apply keeps_ite | split

theorem State.precUndo_keeps {a s : State} (h : a.Keeps s) (x2 : _) (x3 : _) :
    a.Keeps (State.precUndo s x2 x3) := by
  unfold State.precUndo
  repeat' first | intro _ | with_reducible first | assumption | apply State.each_keeps | apply State.setAx_keeps | apply State.wr_keeps | split

theorem State.turnToClear_keeps {a s : State} (h : a.Keeps s) (x2 : _) :
    a.Keeps (State.turnToClear s x2) := by
  unfold State.turnToClear
  repeat' first | intro _ | ((fail_if_no_progress extract_lets +onlyGivenNames z); (refine keeps_cut (a := a) z ?_ fun hz => ?_) <;> [subst z; clear_value z]) | with_reducible first | assumption | apply State.unplace_keeps | apply State.updReq_keeps | apply State.showEngine_keeps | split

theorem State.clearFor_keeps {a s : State} (h : a.Keeps s) (x2 : _) (x3 : _) (x4 : _) (x5 : _) :
    a.Keeps (State.clearFor s x2 x3 x4 x5) := by
  unfold State.clearFor
  repeat' first | intro _ | with_reducible first | assumption | apply State.progPush_keeps | apply State.wantHold_keeps | apply State.endCal_keeps

theorem State.progUndo_keeps {a s : State} (h : a.Keeps s) (x2 : _) (x3 : _) (x4 : _) (x5 : _) :
    a.Keeps (State.progUndo s x2 x3 x4 x5) := by
  unfold State.progUndo
  repeat' first | intro _ | ((fail_if_no_progress extract_lets +onlyGivenNames z); first | (refine keeps_cut (a := a) z ?_ fun hz => ?_) <;> [subst z; clear_value z] | clear_value z) | with_reducible first | assumption | apply State.precUndo_keeps | apply State.endSlotCmd_keeps | apply State.each_keeps | apply State.turnToClear_keeps | apply State.clearFor_keeps | apply State.wantJoin_keeps | apply State.dropPanels_keeps | fail_if_no_progress apply keeps_mk | split

theorem State.replLayer_keeps {a s : State} (h : a.Keeps s) (x2 : _) :
    a.Keeps (State.replLayer s x2) := by
  unfold State.replLayer
  repeat' first | intro _ | ((fail_if_no_progress extract_lets +onlyGivenNames z); first | (refine keeps_cut (a := a) z ?_ fun hz => ?_) <;> [subst z; clear_value z] | clear_value z) | with_reducible first | assumption | apply State.completeCmd_keeps | apply State.useImage_keeps | apply State.each_keeps | apply State.wantHold_keeps | apply State.progUndo_keeps | apply State.endSlotCmd_keeps | fail_if_no_progress apply keeps_mk | apply keeps_ite | split

theorem State.slotCmd_keeps {a s : State} (h : a.Keeps s) (x2 : _) (x3 : _) (x4 : _) (x5 : _) (hx5 : ∀ y0 y1, a.Keeps y0 → a.Keeps (x5 y0 y1)) :
    a.Keeps (State.slotCmd s x2 x3 x4 x5) := by
  unfold State.slotCmd
  repeat' first | intro _ | with_reducible first | assumption | apply hx5 | apply State.runCmd_keeps | apply State.completeCmd_keeps | apply keeps_ite | split

theorem State.requestSwitch_keeps {a s : State} (h : a.Keeps s) (x2 : _) (x3 : _) :
    a.Keeps (State.requestSwitch s x2 x3) := by
  unfold State.requestSwitch
  repeat' first | intro _ | with_reducible first | assumption | apply State.switchWatch_keeps | apply State.setAx_keeps | apply keeps_ite | split

theorem State.mapCheck_keeps {a s : State} (h : a.Keeps s) (x2 : _) (x3 : _) :
    a.Keeps (State.mapCheck s x2 x3) := by
  unfold State.mapCheck
  repeat' first | intro _ | ((fail_if_no_progress extract_lets +onlyGivenNames z); (refine keeps_cut (a := a) z ?_ fun hz => ?_) <;> [subst z; clear_value z]) | with_reducible first | assumption | apply State.event_keeps | apply State.updMap_keeps | apply State.completeCmd_keeps | apply State.requestSwitch_keeps | apply keeps_ite | split

theorem State.mapCheckOf_keeps {a s : State} (h : a.Keeps s) (x2 : _) (x3 : _) :
    a.Keeps (State.mapCheckOf s x2 x3) := by
  unfold State.mapCheckOf
  repeat' first | intro _ | with_reducible first | assumption | apply State.mapCheck_keeps | split

theorem State.turnPanels_keeps {a s : State} (h : a.Keeps s) (x2 : _) (x3 : _) (x4 : _) :
    a.Keeps (State.turnPanels s x2 x3 x4) := by
  unfold State.turnPanels
  repeat' first | intro _ | ((fail_if_no_progress extract_lets +onlyGivenNames z); clear_value z) | with_reducible first | assumption | fail_if_no_progress apply keeps_mk | split

theorem State.copyPanel_keeps {a s : State} (h : a.Keeps s) (x2 : _) (x3 : _) :
    a.Keeps (State.copyPanel s x2 x3) := by
  unfold State.copyPanel
  repeat' first | intro _ | ((fail_if_no_progress extract_lets +onlyGivenNames z); first | (refine keeps_cut (a := a) z ?_ fun hz => ?_) <;> [subst z; clear_value z] | clear_value z) | with_reducible first | assumption | apply State.clearRange_keeps | fail_if_no_progress apply keeps_mk | exact keeps_mk_mem (by assumption) (hm := fun k => storeBytes_wf _ _ k) .. | split

theorem State.replProgram_keeps {a s : State} (h : a.Keeps s) (x2 : _) (x3 : _) (x4 : _) :
    a.Keeps (State.replProgram s x2 x3 x4) := by
  unfold State.replProgram
  repeat' first | intro _ | ((fail_if_no_progress extract_lets +onlyGivenNames z); first | (refine keeps_cut (a := a) z ?_ fun hz => ?_) <;> [subst z; clear_value z] | clear_value z) | with_reducible first | assumption | apply State.each_keeps | apply State.progPush_keeps | apply State.turnPanels_keeps | apply State.copyPanel_keeps | fail_if_no_progress apply keeps_mk | apply keeps_ite | split

theorem State.replSeam_keeps {a s : State} (h : a.Keeps s) (x2 : _) :
    a.Keeps (State.replSeam s x2) := by
  unfold State.replSeam
  repeat' first | intro _ | ((fail_if_no_progress extract_lets +onlyGivenNames z); clear_value z) | with_reducible first | assumption | apply State.replProgram_keeps | apply State.replLayer_keeps | apply State.layerReplaced_keeps | apply State.progUndo_keeps | apply keeps_ite | split

theorem State.copyEntries_keeps {a s : State} (h : a.Keeps s) (x2 : _) (x3 : _) (x4 : _) :
    a.Keeps (State.copyEntries s x2 x3 x4) := by
  unfold State.copyEntries
  repeat' first | intro _ | ((fail_if_no_progress extract_lets +onlyGivenNames z); first | (refine keeps_cut (a := a) z ?_ fun hz => ?_) <;> [subst z; clear_value z] | clear_value z) | with_reducible first | assumption | apply State.each_keeps | apply State.setTab_keeps

theorem State.calForMap_keeps {a s : State} (h : a.Keeps s) (x2 : _) (x3 : _) :
    a.Keeps (State.calForMap s x2 x3) := by
  unfold State.calForMap
  repeat' first | intro _ | with_reducible first | assumption | apply State.queueCal_keeps | apply keeps_ite | split

theorem State.columnFinish_keeps {a s : State} (h : a.Keeps s) (x2 : _) (x3 : _) :
    a.Keeps (State.columnFinish s x2 x3) := by
  unfold State.columnFinish
  repeat' first | intro _ | ((fail_if_no_progress extract_lets +onlyGivenNames z); first | (refine keeps_cut (a := a) z ?_ fun hz => ?_) <;> [subst z; clear_value z] | clear_value z) | with_reducible first | assumption | apply State.passes_keeps | apply State.releaseEngine_keeps | apply State.bump_keeps | apply State.pump_keeps | apply State.replaceTile_keeps | apply State.markSpareCols_keeps | apply State.each_keeps | apply State.copyEntries_keeps | apply State.columnReplaced_keeps | apply State.updTile_keeps | apply State.measureLevels_keeps | apply State.wr_keeps | apply State.toStaged_keeps | apply State.calForMap_keeps | apply State.wantJoin_keeps | apply foldl_keeps | apply keeps_ite | split

theorem State.prgHold_keeps {a s : State} (h : a.Keeps s) (x2 : _) (x3 : _) :
    a.Keeps (State.prgHold s x2 x3) := by
  unfold State.prgHold
  repeat' first | intro _ | ((fail_if_no_progress extract_lets +onlyGivenNames z); (refine keeps_cut (a := a) z ?_ fun hz => ?_) <;> [subst z; clear_value z]) | with_reducible first | assumption | apply State.wr_keeps | apply State.pump_keeps | apply keeps_ite | split

theorem State.programBlocks_keeps {a s : State} (h : a.Keeps s) (x2 : _) (x3 : _) (x4 : _) (x5 : _) (x6 : _) :
    a.Keeps (State.programBlocks s x2 x3 x4 x5 x6) := by
  unfold State.programBlocks
  repeat' first | intro _ | ((fail_if_no_progress extract_lets +onlyGivenNames z); clear_value z) | with_reducible first | assumption | apply State.each_keeps | apply State.progPush_keeps | split

theorem execClearFinish_keeps {a s : State} (h : a.Keeps s) (x1 : _) (x2 : _) (x3 : _) :
    a.KeepsR (execClearFinish x1 x2 x3 s) := by
  unfold execClearFinish
  repeat' first | intro _ | ((fail_if_no_progress extract_lets +onlyGivenNames z); (refine keeps_cut (a := a) z ?_ fun hz => ?_) <;> [subst z; clear_value z]) | with_reducible first | assumption | apply keepsR_next | apply keepsR_ite | apply State.updReq_keeps | apply State.clearDone_keeps | apply State.capUpdate_keeps | apply State.showEngine_keeps | apply State.retireDone_keeps | apply State.endOp_keeps | apply State.releaseEngine_keeps | apply State.wr_keeps | apply State.clearedCheck_keeps | apply State.pump_keeps | apply keeps_ite | split

theorem State.replaceFinish_keeps {a s : State} (h : a.Keeps s) (x2 : _) (x3 : _) :
    a.Keeps (State.replaceFinish s x2 x3) := by
  unfold State.replaceFinish
  repeat' first | intro _ | ((fail_if_no_progress extract_lets +onlyGivenNames z); first | (refine keeps_cut (a := a) z ?_ fun hz => ?_) <;> [subst z; clear_value z] | clear_value z) | with_reducible first | assumption | apply State.retireDone_keeps | apply State.releaseEngine_keeps | apply State.unplace_keeps | apply State.markRetired_keeps | apply State.progDone_keeps | apply State.updTile_keeps | apply State.setCause_keeps | apply State.pump_keeps | apply State.mapCheckOf_keeps | apply State.queueCal_keeps

theorem State.slotMatch_keeps {a s : State} (h : a.Keeps s) (x2 : _) (x3 : _) :
    a.Keeps (State.slotMatch s x2 x3) := by
  unfold State.slotMatch
  repeat' first | intro _ | with_reducible first | assumption | apply State.requestSwitch_keeps | apply State.setAx_keeps | apply keeps_ite | split

theorem State.slotInfo_keeps {a s : State} (h : a.Keeps s) (x2 : _) :
    a.Keeps (State.slotInfo s x2) := by
  unfold State.slotInfo
  repeat' first | intro _ | ((fail_if_no_progress extract_lets +onlyGivenNames z); first | (refine keeps_cut (a := a) z ?_ fun hz => ?_) <;> [subst z; clear_value z] | clear_value z) | with_reducible first | assumption | apply State.completeCmd_keeps | fail_if_no_progress apply keeps_mk | exact keeps_mk_mem (by assumption) (hm := fun k => storeBytes_wf _ _ k) ..

theorem execSlotInfo_keeps {a s : State} (h : a.Keeps s) (x1 : _) :
    a.KeepsR (execSlotInfo x1 s) := by
  unfold execSlotInfo
  repeat' first | intro _ | with_reducible first | assumption | apply keepsR_next | apply State.slotCmd_keeps | apply State.slotInfo_keeps

theorem State.flagFor_keeps {a s : State} (h : a.Keeps s) (x2 : _) :
    a.Keeps (State.flagFor s x2) := by
  unfold State.flagFor
  repeat' first | intro _ | with_reducible first | assumption | apply State.setAx_keeps | apply State.setPrecision_keeps

theorem State.freeMap_keeps {a s : State} (h : a.Keeps s) (x2 : _) (x3 : _) (x4 : _) :
    a.Keeps (State.freeMap s x2 x3 x4) := by
  unfold State.freeMap
  repeat' first | intro _ | ((fail_if_no_progress extract_lets +onlyGivenNames z); first | (refine keeps_cut (a := a) z ?_ fun hz => ?_) <;> [subst z; clear_value z] | clear_value z) | with_reducible first | assumption | apply State.dropPanels_keeps | apply State.each_keeps | apply State.dropRefresh_keeps | apply State.endCal_keeps | apply State.unplace_keeps | apply State.takePending_keeps | apply State.toStaged_keeps | apply State.progPush_keeps | fail_if_no_progress apply keeps_mk | apply keeps_ite | split

theorem State.mapFree_keeps {a s : State} (h : a.Keeps s) (x2 : _) :
    a.Keeps (State.mapFree s x2) := by
  unfold State.mapFree
  repeat' first | intro _ | ((fail_if_no_progress extract_lets +onlyGivenNames z); clear_value z) | with_reducible first | assumption | apply State.completeCmd_keeps | apply State.clearedCheck_keeps | apply State.freeMap_keeps | apply State.cmdRunning_keeps | apply keeps_ite | split

theorem execMapFree_keeps {a s : State} (h : a.Keeps s) (x1 : _) :
    a.KeepsR (execMapFree x1 s) := by
  unfold execMapFree
  repeat' first | intro _ | with_reducible first | assumption | apply keepsR_next | apply State.slotCmd_keeps | apply State.mapFree_keeps

theorem State.takePanels_keeps {a s : State} (h : a.Keeps s) (x2 : _) (x3 : _) (x4 : _) (x5 : _) :
    a.KeepsO (State.takePanels s x2 x3 x4 x5) := by
  induction x5 generalizing s <;> [skip; rename_i ih]
  all_goals unfold State.takePanels
  repeat' first | intro _ | ((fail_if_no_progress extract_lets +onlyGivenNames z); first | (refine keeps_cut (a := a) z ?_ fun hz => ?_) <;> [subst z; clear_value z] | clear_value z) | with_reducible first | assumption | apply keepsO_none | apply keepsO_some | apply keepsO_ite | fail_if_no_progress apply keeps_mk | apply keeps_ite | apply ih | split

theorem State.reservePanels_keeps {a s : State} (h : a.Keeps s) (x2 : _) (x3 : _) (x4 : _) :
    a.KeepsO (State.reservePanels s x2 x3 x4) := by
  unfold State.reservePanels
  repeat' first | intro _ | with_reducible first | assumption | apply keepsO_none | apply keepsO_some | apply keepsO_ite | apply State.takePanels_keeps | apply keeps_ite | refine keeps_ofO (by assumption) ?_ | split

theorem State.slotFreed_keeps {a s : State} (h : a.Keeps s) (x2 : _) :
    a.Keeps (State.slotFreed s x2) := by
  unfold State.slotFreed
  repeat' first | intro _ | ((fail_if_no_progress extract_lets +onlyGivenNames z); first | (refine keeps_cut (a := a) z ?_ fun hz => ?_) <;> [subst z; clear_value z] | clear_value z) | with_reducible first | assumption | apply State.capUpdate_keeps | apply State.setAx_keeps | apply State.clearedCheck_keeps | apply State.freeMap_keeps

theorem State.slotFree_keeps {a s : State} (h : a.Keeps s) (x2 : _) :
    a.Keeps (State.slotFree s x2) := by
  unfold State.slotFree
  repeat' first | intro _ | ((fail_if_no_progress extract_lets +onlyGivenNames z); first | (refine keeps_cut (a := a) z ?_ fun hz => ?_) <;> [subst z; clear_value z] | clear_value z) | with_reducible first | assumption | apply State.completeCmd_keeps | apply State.each_keeps | apply State.grantSet_keeps | apply State.cmdRunning_keeps | apply State.slotFreed_keeps | apply keeps_ite | split

theorem execSlotFree_keeps {a s : State} (h : a.Keeps s) (x1 : _) :
    a.KeepsR (execSlotFree x1 s) := by
  unfold execSlotFree
  repeat' first | intro _ | with_reducible first | assumption | apply keepsR_next | apply State.slotCmd_keeps | apply State.slotFree_keeps

theorem execPrgCtrlHoldWrite_keeps {a s : State} (h : a.Keeps s) (x1 : _) (x2 : _) :
    a.KeepsR (execPrgCtrlHoldWrite x1 x2 s) := by
  unfold execPrgCtrlHoldWrite
  repeat' first | intro _ | with_reducible first | assumption | apply keepsR_next | apply keepsR_ite | apply State.order_keeps | apply State.prgHold_keeps | apply keeps_ite | split

theorem State.slotReplace_keeps {a s : State} (h : a.Keeps s) (x2 : _) :
    a.Keeps (State.slotReplace s x2) := by
  unfold State.slotReplace
  repeat' first | intro _ | ((fail_if_no_progress extract_lets +onlyGivenNames z); clear_value z) | with_reducible first | assumption | apply State.completeCmd_keeps | apply State.reservePanels_keeps | apply State.replLayer_keeps | apply State.useImage_keeps | apply State.cmdRunning_keeps | apply keeps_ite | refine keeps_ofO (by assumption) ?_ | split

theorem execRepairDone_keeps {a s : State} (h : a.Keeps s) (x1 : _) (x2 : _) (x3 : _) :
    a.KeepsR (execRepairDone x1 x2 x3 s) := by
  unfold execRepairDone
  repeat' first | intro _ | ((fail_if_no_progress extract_lets +onlyGivenNames z); (refine keeps_cut1 (a := a) z ?_ fun hz => ?_) <;> [subst z; clear_value z]) | with_reducible first | assumption | apply keepsR_next | apply keepsR_ite | apply State.columnFinish_keeps | apply State.programColumns_keeps | apply State.replaceFinish_keeps | apply State.moveToSpare_keeps | apply keeps_ite | refine keeps_of1 (by assumption) ?_ | split

theorem State.storeWrite_keeps {a s : State} (h : a.Keeps s) (x2 : _) (x3 : _) :
    a.Keeps (State.storeWrite s x2 x3) := by
  unfold State.storeWrite
  repeat' first | intro _ | ((fail_if_no_progress extract_lets +onlyGivenNames z); clear_value z) | with_reducible first | assumption | apply State.wr_keeps | apply keeps_ite | split

theorem execPrgStoreWrite_keeps {a s : State} (h : a.Keeps s) (x1 : _) (x2 : _) :
    a.KeepsR (execPrgStoreWrite x1 x2 s) := by
  unfold execPrgStoreWrite
  repeat' first | intro _ | with_reducible first | assumption | apply keepsR_next | apply keepsR_ite | apply State.order_keeps | apply State.storeWrite_keeps | apply keeps_ite | split

theorem execSlotReplace_keeps {a s : State} (h : a.Keeps s) (x1 : _) :
    a.KeepsR (execSlotReplace x1 s) := by
  unfold execSlotReplace
  repeat' first | intro _ | with_reducible first | assumption | apply keepsR_next | apply State.slotCmd_keeps | apply State.slotReplace_keeps

theorem State.bind_keeps {a s : State} (h : a.Keeps s) (x2 : _) (x3 : _) (x4 : _) :
    a.Keeps (State.bind s x2 x3 x4) := by
  unfold State.bind
  repeat' first | intro _ | ((fail_if_no_progress extract_lets +onlyGivenNames z); (refine keeps_cut (a := a) z ?_ fun hz => ?_) <;> [subst z; clear_value z]) | with_reducible first | assumption | apply State.useImage_keeps | fail_if_no_progress apply keeps_mk | split

theorem State.slotProgram_keeps {a s : State} (h : a.Keeps s) (x2 : _) :
    a.Keeps (State.slotProgram s x2) := by
  unfold State.slotProgram
  repeat' first | intro _ | ((fail_if_no_progress extract_lets +onlyGivenNames z); first | (refine keeps_cut (a := a) z ?_ fun hz => ?_) <;> [subst z; clear_value z] | clear_value z) | with_reducible first | assumption | apply State.completeCmd_keeps | apply State.takePanels_keeps | apply State.dropPanels_keeps | apply State.each_keeps | apply State.bind_keeps | apply State.copyPanel_keeps | apply State.mapCheck_keeps | apply State.programBlocks_keeps | apply State.cmdRunning_keeps | apply keeps_ite | refine keeps_ofO (by assumption) ?_ | split

theorem execSlotProgram_keeps {a s : State} (h : a.Keeps s) (x1 : _) :
    a.KeepsR (execSlotProgram x1 s) := by
  unfold execSlotProgram
  repeat' first | intro _ | with_reducible first | assumption | apply keepsR_next | apply State.slotCmd_keeps | apply State.slotProgram_keeps

theorem State.prgClear_keeps {a s : State} (h : a.Keeps s) (x2 : _) :
    a.Keeps (State.prgClear s x2) := by
  unfold State.prgClear
  repeat' first | intro _ | with_reducible first | assumption | apply State.wr_keeps

theorem execPrgCtrlClear_keeps {a s : State} (h : a.Keeps s) (x1 : _) (x2 : _) :
    a.KeepsR (execPrgCtrlClear x1 x2 s) := by
  unfold execPrgCtrlClear
  repeat' first | intro _ | with_reducible first | assumption | apply keepsR_next | apply keepsR_ite | apply State.order_keeps | apply State.when_keeps | apply State.prgClear_keeps | apply keeps_ite | split

theorem execImageLoadComplete_keeps {a s : State} (h : a.Keeps s) (x1 : _) (x2 : _) :
    a.KeepsR (execImageLoadComplete x1 x2 s) := by
  unfold execImageLoadComplete
  repeat' first | intro _ | with_reducible first | assumption | apply keepsR_next | apply State.resumeWaits_keeps | apply State.imageLoaded_keeps | split

theorem execSlotFreeDrainEnd_keeps {a s : State} (h : a.Keeps s) (x1 : _) :
    a.KeepsR (execSlotFreeDrainEnd x1 s) := by
  unfold execSlotFreeDrainEnd
  repeat' first | intro _ | with_reducible first | assumption | apply keepsR_next | apply keepsR_ite | apply State.slotFreed_keeps | apply keeps_ite | split

theorem State.replaceBlocks_keeps {a s : State} (h : a.Keeps s) (x2 : _) (x3 : _) :
    a.Keeps (State.replaceBlocks s x2 x3) := by
  unfold State.replaceBlocks
  repeat' first | intro _ | ((fail_if_no_progress extract_lets +onlyGivenNames z); first | (refine keeps_cut (a := a) z ?_ fun hz => ?_) <;> [subst z; clear_value z] | clear_value z) | with_reducible first | assumption | apply State.each_keeps | apply State.unplace_keeps | apply State.programBlocks_keeps | apply State.endSlotCmd_keeps | fail_if_no_progress apply keeps_mk | apply keeps_ite | split

theorem State.startCal_keeps {a s : State} (h : a.Keeps s) (x2 : _) (x3 : _) (x4 : _) (x5 : _) (x6 : _) :
    a.Keeps (State.startCal s x2 x3 x4 x5 x6) := by
  unfold State.startCal
  repeat' first | intro _ | with_reducible first | assumption | fail_if_no_progress apply keeps_mk

theorem State.refreshProgDone_keeps {a s : State} (h : a.Keeps s) (x2 : _) (x3 : _) :
    a.Keeps (State.refreshProgDone s x2 x3) := by
  unfold State.refreshProgDone
  repeat' first | intro _ | ((fail_if_no_progress extract_lets +onlyGivenNames z); first | (refine keeps_cut (a := a) z ?_ fun hz => ?_) <;> [subst z; clear_value z] | clear_value z) | with_reducible first | assumption | apply State.progDone_keeps | apply State.queueCal_keeps | apply State.updRefresh_keeps | apply State.progPush_keeps | apply State.wr_keeps | apply keeps_ite | split

theorem State.quotaUndo_keeps {a s : State} (h : a.Keeps s) (x2 : _) :
    a.Keeps (State.quotaUndo s x2) := by
  unfold State.quotaUndo
  repeat' first | intro _ | with_reducible first | assumption | apply State.progUndo_keeps | apply State.clearFor_keeps | apply State.endOp_keeps | split

theorem State.replProgDone_keeps {a s : State} (h : a.Keeps s) (x2 : _) (x3 : _) :
    a.Keeps (State.replProgDone s x2 x3) := by
  unfold State.replProgDone
  repeat' first | intro _ | ((fail_if_no_progress extract_lets +onlyGivenNames z); (refine keeps_cut (a := a) z ?_ fun hz => ?_) <;> [subst z; clear_value z]) | with_reducible first | assumption | apply State.wr_keeps | apply State.progDone_keeps | apply State.queueCal_keeps | apply State.startCal_keeps | apply keeps_ite | split

theorem State.progFinish_keeps {a s : State} (h : a.Keeps s) (x2 : _) (x3 : _) :
    a.Keeps (State.progFinish s x2 x3) := by
  unfold State.progFinish
  repeat' first | intro _ | ((fail_if_no_progress extract_lets +onlyGivenNames z); first | (refine keeps_cut (a := a) z ?_ fun hz => ?_) <;> [subst z; clear_value z] | clear_value z) | with_reducible first | assumption | apply State.releaseEngine_keeps | apply State.pump_keeps | apply State.refreshProgDone_keeps | apply State.quotaUndo_keeps | apply State.progDone_keeps | apply State.replProgDone_keeps | apply State.flagFor_keeps | apply State.mapCheckOf_keeps | apply State.calForMap_keeps | apply State.endOp_keeps | apply keeps_ite | split

theorem State.slotSwitch_keeps {a s : State} (h : a.Keeps s) (x2 : _) :
    a.Keeps (State.slotSwitch s x2) := by
  unfold State.slotSwitch
  repeat' first | intro _ | ((fail_if_no_progress extract_lets +onlyGivenNames z); clear_value z) | with_reducible first | assumption | apply State.completeCmd_keeps | apply State.mapCheck_keeps | apply State.cmdRunning_keeps | apply keeps_ite | split

theorem execProgFinish_keeps {a s : State} (h : a.Keeps s) (x1 : _) (x2 : _) (x3 : _) :
    a.KeepsR (execProgFinish x1 x2 x3 s) := by
  unfold execProgFinish
  repeat' first | intro _ | ((fail_if_no_progress extract_lets +onlyGivenNames z); (refine keeps_cut1 (a := a) z ?_ fun hz => ?_) <;> [subst z; clear_value z]) | with_reducible first | assumption | apply keepsR_next | apply keepsR_ite | apply State.programColumns_keeps | apply State.progFinish_keeps | apply State.moveToSpare_keeps | apply keeps_ite | refine keeps_of1 (by assumption) ?_ | split

theorem execSlotSwitch_keeps {a s : State} (h : a.Keeps s) (x1 : _) :
    a.KeepsR (execSlotSwitch x1 s) := by
  unfold execSlotSwitch
  repeat' first | intro _ | with_reducible first | assumption | apply keepsR_next | apply State.slotCmd_keeps | apply State.slotSwitch_keeps

theorem State.fabricOffline_keeps {a s : State} (h : a.Keeps s) (x2 : _) :
    a.Keeps (State.fabricOffline s x2) := by
  unfold State.fabricOffline
  repeat' first | intro _ | ((fail_if_no_progress extract_lets +onlyGivenNames z); first | (refine keeps_cut (a := a) z ?_ fun hz => ?_) <;> [subst z; clear_value z] | clear_value z) | with_reducible first | assumption | apply State.each_keeps | apply State.replaceBlocks_keeps | apply State.dropRefresh_keeps | apply State.showEngine_keeps | apply State.setAx_keeps | apply State.wr_keeps | fail_if_no_progress apply keeps_mk | apply keeps_ite | split

end Sys2Proof.Machine
end

