-- ==== Sys2Proof/Laws/KeepsFaults.lean ====
section
/-!
SUPPORT. Laws/KeepsFaults.lean: the operations of Machine/Faults.lean keep what Laws/Keeps.lean names.
-/

set_option linter.unusedTactic false
set_option linter.unusedVariables false
set_option linter.tactic.unusedName false
set_option linter.unreachableTactic false

namespace Sys2Proof.Machine

theorem State.noteTimeout_keeps {a s : State} (h : a.Keeps s) (x2 : _) (x3 : _) :
    a.Keeps (State.noteTimeout s x2 x3) := by
  unfold State.noteTimeout
  repeat' first | intro _ | with_reducible first | assumption | apply State.setAx_keeps | apply keeps_ite | split

theorem execDieLinkRetrained_keeps {a s : State} (h : a.Keeps s) (x1 : _) :
    a.KeepsR (execDieLinkRetrained x1 s) := by
  unfold execDieLinkRetrained
  repeat' first | intro _ | with_reducible first | assumption | apply keepsR_next | apply State.setAx_keeps

theorem State.headTo_keeps {a s : State} (h : a.Keeps s) (x2 : _) :
    a.Keeps (State.headTo s x2) := by
  unfold State.headTo
  repeat' first | intro _ | ((fail_if_no_progress extract_lets +onlyGivenNames z); (refine keeps_cut (a := a) z ?_ fun hz => ?_) <;> [subst z; clear_value z]) | with_reducible first | assumption | apply State.wr_keeps | apply State.setAx_keeps | apply keeps_ite | split

theorem State.moveHead_keeps {a s : State} (h : a.Keeps s) :
    a.Keeps (State.moveHead s) := by
  unfold State.moveHead
  repeat' first | intro _ | ((fail_if_no_progress extract_lets +onlyGivenNames z); (refine keeps_cut (a := a) z ?_ fun hz => ?_) <;> [subst z; clear_value z]) | with_reducible first | assumption | apply State.headTo_keeps | apply State.faultJobs_keeps | split

theorem State.recheckWaiting_keeps {a s : State} (h : a.Keeps s) :
    a.Keeps (State.recheckWaiting s) := by
  unfold State.recheckWaiting
  repeat' first | intro _ | with_reducible first | assumption | apply State.each_keeps | apply State.endJob_keeps | split

theorem State.dieLost_keeps {a s : State} (h : a.Keeps s) (x2 : _) (x3 : _) :
    a.Keeps (State.dieLost s x2 x3) := by
  unfold State.dieLost
  repeat' first | intro _ | ((fail_if_no_progress extract_lets +onlyGivenNames z); first | (refine keeps_cut (a := a) z ?_ fun hz => ?_) <;> [subst z; clear_value z] | clear_value z) | with_reducible first | assumption | apply State.wr_keeps | apply State.moveHead_keeps | apply State.each_keeps | apply State.setAx_keeps | apply State.loseJob_keeps | apply State.faultJob_keeps | apply State.dropCopiesOn_keeps | apply State.fabricOffline_keeps | apply State.evictHomed_keeps | apply State.banksMove_keeps | apply State.quotaRecheck_keeps | apply State.capUpdate_keeps | apply State.event_keeps | apply State.recheckWaiting_keeps | fail_if_no_progress apply keeps_mk | apply keeps_ite | split

theorem State.dieOnline_keeps {a s : State} (h : a.Keeps s) (x2 : _) :
    a.Keeps (State.dieOnline s x2) := by
  unfold State.dieOnline
  repeat' first | intro _ | ((fail_if_no_progress extract_lets +onlyGivenNames z); first | (refine keeps_cut (a := a) z ?_ fun hz => ?_) <;> [subst z; clear_value z] | clear_value z) | with_reducible first | assumption | apply State.wr_keeps | apply State.headTo_keeps | apply keeps_ite | split

theorem execFltCtrlClear_keeps {a s : State} (h : a.Keeps s) (x1 : _) :
    a.KeepsR (execFltCtrlClear x1 s) := by
  unfold execFltCtrlClear
  repeat' first | intro _ | with_reducible first | assumption | apply keepsR_next | apply keepsR_ite | apply State.order_keeps | apply State.wr_keeps | apply foldl_keeps | apply keeps_ite | split

theorem State.timeout_keeps {a s : State} (h : a.Keeps s) (x2 : _) (x3 : _) (x4 : _) (x5 : _) (x6 : _) :
    a.Keeps (State.timeout s x2 x3 x4 x5 x6) := by
  unfold State.timeout
  repeat' first | intro _ | ((fail_if_no_progress extract_lets +onlyGivenNames z); first | (refine keeps_cut (a := a) z ?_ fun hz => ?_) <;> [subst z; clear_value z] | clear_value z) | with_reducible first | assumption | apply State.noteTimeout_keeps | apply State.bump_keeps | apply State.faultJobs_keeps | apply State.event_keeps | apply keeps_ite | split

theorem State.linkCheck_keeps {a s : State} (h : a.Keeps s) :
    a.Keeps (State.linkCheck s) := by
  unfold State.linkCheck
  repeat' first | intro _ | with_reducible first | assumption | apply State.each_keeps | apply State.dieLost_keeps

theorem State.dieOffline_keeps {a s : State} (h : a.Keeps s) (x2 : _) (x3 : _) :
    a.Keeps (State.dieOffline s x2 x3) := by
  unfold State.dieOffline
  repeat' first | intro _ | with_reducible first | assumption | apply State.linkCheck_keeps | apply State.dieLost_keeps

theorem State.retrainStart_keeps {a s : State} (h : a.Keeps s) (x2 : _) (x3 : _) :
    a.Keeps (State.retrainStart s x2 x3) := by
  unfold State.retrainStart
  repeat' first | intro _ | with_reducible first | assumption | apply State.setAx_keeps | apply State.bump_keeps | apply State.wr_keeps | apply keeps_ite | split

theorem State.retrainFailed_keeps {a s : State} (h : a.Keeps s) (x2 : _) (x3 : _) :
    a.Keeps (State.retrainFailed s x2 x3) := by
  unfold State.retrainFailed
  repeat' first | intro _ | ((fail_if_no_progress extract_lets +onlyGivenNames z); first | (refine keeps_cut (a := a) z ?_ fun hz => ?_) <;> [subst z; clear_value z] | clear_value z) | with_reducible first | assumption | apply State.wr_keeps | apply State.dieOffline_keeps | apply State.setAx_keeps | apply State.retrainStart_keeps | apply keeps_ite | split

theorem execLpddrCommandTimeout_keeps {a s : State} (h : a.Keeps s) (x1 : _) (x2 : _) (x3 : _) :
    a.KeepsR (execLpddrCommandTimeout x1 x2 x3 s) := by
  unfold execLpddrCommandTimeout
  repeat' first | intro _ | ((fail_if_no_progress extract_lets +onlyGivenNames z); first | (refine keeps_cut (a := a) z ?_ fun hz => ?_) <;> [subst z; clear_value z] | clear_value z) | with_reducible first | assumption | apply keepsR_next | apply keepsR_ite | apply State.timeout_keeps | apply State.retrainFailed_keeps | apply State.retrainStart_keeps | apply keeps_ite | split

theorem execBankPortWaitTimeout_keeps {a s : State} (h : a.Keeps s) (x1 : _) (x2 : _) (x3 : _) :
    a.KeepsR (execBankPortWaitTimeout x1 x2 x3 s) := by
  unfold execBankPortWaitTimeout
  repeat' first | intro _ | with_reducible first | assumption | apply keepsR_next | apply keepsR_ite | apply State.timeout_keeps | apply keeps_ite | split

theorem execDieLinkTimeout_keeps {a s : State} (h : a.Keeps s) (x1 : _) (x2 : _) :
    a.KeepsR (execDieLinkTimeout x1 x2 s) := by
  unfold execDieLinkTimeout
  repeat' first | intro _ | ((fail_if_no_progress extract_lets +onlyGivenNames z); first | (refine keeps_cut (a := a) z ?_ fun hz => ?_) <;> [subst z; clear_value z] | clear_value z) | with_reducible first | assumption | apply keepsR_next | apply keepsR_ite | apply State.timeout_keeps | apply State.linkCheck_keeps | apply State.setAx_keeps | apply keeps_ite | split

theorem State.freeLostTiles_keeps {a s : State} (h : a.Keeps s) (x2 : _) :
    a.Keeps (State.freeLostTiles s x2) := by
  unfold State.freeLostTiles
  repeat' first | intro _ | ((fail_if_no_progress extract_lets +onlyGivenNames z); clear_value z) | with_reducible first | assumption | apply State.each_keeps | apply State.updTile_keeps | apply State.unplace_keeps | apply State.takePending_keeps | apply State.wr_keeps | split

theorem execSequencerProgressTimeout_keeps {a s : State} (h : a.Keeps s) (x1 : _) (x2 : _) :
    a.KeepsR (execSequencerProgressTimeout x1 x2 s) := by
  unfold execSequencerProgressTimeout
  repeat' first | intro _ | ((fail_if_no_progress extract_lets +onlyGivenNames z); first | (refine keeps_cut (a := a) z ?_ fun hz => ?_) <;> [subst z; clear_value z] | clear_value z) | with_reducible first | assumption | apply keepsR_next | apply keepsR_ite | apply State.timeout_keeps | apply State.setAx_keeps | apply keeps_ite | split

theorem execJobWatchdog_keeps {a s : State} (h : a.Keeps s) (x1 : _) :
    a.KeepsR (execJobWatchdog x1 s) := by
  unfold execJobWatchdog
  repeat' first | intro _ | ((fail_if_no_progress extract_lets +onlyGivenNames z); (refine keeps_cut (a := a) z ?_ fun hz => ?_) <;> [subst z; clear_value z]) | with_reducible first | assumption | apply keepsR_next | apply keepsR_ite | apply State.timeout_keeps | apply State.updJob_keeps | apply State.endJob_keeps | apply keeps_ite | split

end Sys2Proof.Machine
end

