-- ==== Sys2Proof/Laws/KeepsMonitor.lean ====
section
/-!
SUPPORT. Laws/KeepsMonitor.lean: the operations of Machine/Monitor.lean keep what Laws/Keeps.lean names.
-/

set_option linter.unusedTactic false
set_option linter.unusedVariables false
set_option linter.tactic.unusedName false
set_option linter.unreachableTactic false

namespace Sys2Proof.Machine

theorem State.reinterpolate_keeps {a s : State} (h : a.Keeps s) (x2 : _) (x3 : _) :
    a.Keeps (State.reinterpolate s x2 x3) := by
  unfold State.reinterpolate
  repeat' first | intro _ | with_reducible first | assumption | apply State.each_keeps | apply State.wr_keeps | apply State.aim_keeps | apply keeps_ite | split

theorem State.tlmClose_keeps {a s : State} (h : a.Keeps s) (x2 : _) (x3 : _) (x4 : _) :
    a.Keeps (State.tlmClose s x2 x3 x4) := by
  unfold State.tlmClose
  repeat' first | intro _ | ((fail_if_no_progress extract_lets +onlyGivenNames z); first | (refine keeps_cut (a := a) z ?_ fun hz => ?_) <;> [subst z; clear_value z] | clear_value z) | with_reducible first | assumption | apply State.wr_keeps | apply State.event_keeps | fail_if_no_progress apply keeps_mk | apply keeps_ite | split

theorem State.updMon_keeps {a s : State} (h : a.Keeps s) (x2 : _) (x3 : _) :
    a.Keeps (State.updMon s x2 x3) := by
  unfold State.updMon
  repeat' first | intro _ | with_reducible first | assumption | fail_if_no_progress apply keeps_mk | split

theorem State.simStart_keeps {a s : State} (h : a.Keeps s) (x2 : _) (x3 : _) :
    a.Keeps (State.simStart s x2 x3) := by
  unfold State.simStart
  repeat' first | intro _ | with_reducible first | assumption | apply State.updMon_keeps | apply keeps_ite | split

theorem State.setStale_keeps {a s : State} (h : a.Keeps s) (x2 : _) (x3 : _) :
    a.Keeps (State.setStale s x2 x3) := by
  unfold State.setStale
  repeat' first | intro _ | with_reducible first | assumption | apply State.each_keeps | apply State.wr_keeps

theorem State.calStart_keeps {a s : State} (h : a.Keeps s) (x2 : _) :
    a.Keeps (State.calStart s x2) := by
  unfold State.calStart
  repeat' first | intro _ | ((fail_if_no_progress extract_lets +onlyGivenNames z); clear_value z) | with_reducible first | assumption | apply State.updMon_keeps | apply State.setStale_keeps | apply State.wr_keeps | apply keeps_ite | split

theorem State.serveUrgent_keeps {a s : State} (h : a.Keeps s) (x2 : _) (x3 : _) :
    a.Keeps (State.serveUrgent s x2 x3) := by
  induction x3 generalizing s <;> [skip; rename_i ih]
  all_goals unfold State.serveUrgent
  repeat' first | intro _ | with_reducible first | assumption | fail_if_no_progress apply keeps_mk | apply keeps_ite | apply ih | split

theorem State.entryRun_keeps {a s : State} (h : a.Keeps s) (x2 : _) :
    a.Keeps (State.entryRun s x2) := by
  unfold State.entryRun
  repeat' first | intro _ | ((fail_if_no_progress extract_lets +onlyGivenNames z); (refine keeps_cut (a := a) z ?_ fun hz => ?_) <;> [subst z; clear_value z]) | with_reducible first | assumption | apply State.wr_keeps | apply State.bump_keeps | apply State.updMon_keeps | apply keeps_ite | split

theorem State.monGo_keeps {a s : State} (h : a.Keeps s) (x2 : _) :
    a.Keeps (State.monGo s x2) := by
  unfold State.monGo
  repeat' first | intro _ | ((fail_if_no_progress extract_lets +onlyGivenNames z); (refine keeps_cut (a := a) z ?_ fun hz => ?_) <;> [subst z; clear_value z]) | with_reducible first | assumption | apply State.simStart_keeps | apply State.calStart_keeps | apply State.serveUrgent_keeps | apply State.entryRun_keeps | apply keeps_ite | split

theorem State.scalRequest_keeps {a s : State} (h : a.Keeps s) (x2 : _) :
    a.Keeps (State.scalRequest s x2) := by
  unfold State.scalRequest
  repeat' first | intro _ | with_reducible first | assumption | apply State.monGo_keeps | apply State.updMon_keeps | apply keeps_ite | split

theorem State.entryOver_keeps {a s : State} (h : a.Keeps s) (x2 : _) :
    a.Keeps (State.entryOver s x2) := by
  unfold State.entryOver
  repeat' first | intro _ | ((fail_if_no_progress extract_lets +onlyGivenNames z); clear_value z) | with_reducible first | assumption | apply State.monGo_keeps | apply State.updMon_keeps | apply keeps_ite | split

theorem State.tempClamp_keeps {a s : State} (h : a.Keeps s) (x2 : _) (x3 : _) :
    a.Keeps (State.tempClamp s x2 x3) := by
  unfold State.tempClamp
  repeat' first | intro _ | ((fail_if_no_progress extract_lets +onlyGivenNames z); first | (refine keeps_cut (a := a) z ?_ fun hz => ?_) <;> [subst z; clear_value z] | clear_value z) | with_reducible first | assumption | apply State.wr_keeps | apply State.updMon_keeps | apply State.event_keeps | apply keeps_ite | split

theorem State.tempUpdate_keeps {a s : State} (h : a.Keeps s) (x2 : _) :
    a.Keeps (State.tempUpdate s x2) := by
  unfold State.tempUpdate
  repeat' first | intro _ | ((fail_if_no_progress extract_lets +onlyGivenNames z); (refine keeps_cut (a := a) z ?_ fun hz => ?_) <;> [subst z; clear_value z]) | with_reducible first | assumption | apply State.wr_keeps | apply State.tempClamp_keeps | apply State.reinterpolate_keeps | apply keeps_ite | split

theorem State.result_keeps {a s : State} (h : a.Keeps s) (x2 : _) (x3 : _) (x4 : _) (x5 : _) (x6 : _) :
    a.Keeps (State.result s x2 x3 x4 x5 x6) := by
  unfold State.result
  repeat' first | intro _ | ((fail_if_no_progress extract_lets +onlyGivenNames z); (refine keeps_cut (a := a) z ?_ fun hz => ?_) <;> [subst z; clear_value z]) | with_reducible first | assumption | apply State.wr_keeps | apply State.setAx_keeps | apply State.tempUpdate_keeps | apply keeps_ite | split

theorem State.monFail_keeps {a s : State} (h : a.Keeps s) (x2 : _) (x3 : _) (x4 : _) :
    a.Keeps (State.monFail s x2 x3 x4) := by
  unfold State.monFail
  repeat' first | intro _ | ((fail_if_no_progress extract_lets +onlyGivenNames z); first | (refine keeps_cut (a := a) z ?_ fun hz => ?_) <;> [subst z; clear_value z] | clear_value z) | with_reducible first | assumption | apply State.wr_keeps | apply State.event_keeps | apply State.dieOffline_keeps | fail_if_no_progress apply keeps_mk | apply keeps_ite | split

theorem State.monArbitrate_keeps {a s : State} (h : a.Keeps s) (x2 : _) (x3 : _) :
    a.Keeps (State.monArbitrate s x2 x3) := by
  unfold State.monArbitrate
  repeat' first | intro _ | ((fail_if_no_progress extract_lets +onlyGivenNames z); clear_value z) | with_reducible first | assumption | apply State.monFail_keeps | apply keeps_ite | split

theorem State.secondMismatch_keeps {a s : State} (h : a.Keeps s) (x2 : _) (x3 : _) (x4 : _) (x5 : _) (x6 : _) (x7 : _) :
    a.Keeps (State.secondMismatch s x2 x3 x4 x5 x6 x7) := by
  unfold State.secondMismatch
  repeat' first | intro _ | ((fail_if_no_progress extract_lets +onlyGivenNames z); (refine keeps_cut (a := a) z ?_ fun hz => ?_) <;> [subst z; clear_value z]) | with_reducible first | assumption | apply State.event_keeps | apply State.bump_keeps | apply State.wr_keeps | apply State.entryOver_keeps | apply State.monArbitrate_keeps

theorem State.convertAgain_keeps {a s : State} (h : a.Keeps s) (x2 : _) :
    a.Keeps (State.convertAgain s x2) := by
  unfold State.convertAgain
  repeat' first | intro _ | with_reducible first | assumption | apply State.updMon_keeps | apply State.monGo_keeps | apply keeps_ite | split

theorem State.entryEnd_keeps {a s : State} (h : a.Keeps s) (x2 : _) (x3 : _) (x4 : _) (x5 : _) :
    a.Keeps (State.entryEnd s x2 x3 x4 x5) := by
  unfold State.entryEnd
  repeat' first | intro _ | ((fail_if_no_progress extract_lets +onlyGivenNames z); first | (refine keeps_cut (a := a) z ?_ fun hz => ?_) <;> [subst z; clear_value z] | clear_value z) | with_reducible first | assumption | apply State.entryOver_keeps | apply State.result_keeps | apply State.updMon_keeps | apply State.secondMismatch_keeps | apply State.convertAgain_keeps | apply keeps_ite | split

theorem execMcvEntryEnd_keeps {a s : State} (h : a.Keeps s) (x1 : _) (x2 : _) (x3 : _) (x4 : _) :
    a.KeepsR (execMcvEntryEnd x1 x2 x3 x4 s) := by
  unfold execMcvEntryEnd
  repeat' first | intro _ | with_reducible first | assumption | apply keepsR_next | apply keepsR_ite | apply State.entryEnd_keeps | apply keeps_ite | split

theorem execTlmTimedStop_keeps {a s : State} (h : a.Keeps s) (x1 : _) :
    a.KeepsR (execTlmTimedStop x1 s) := by
  unfold execTlmTimedStop
  repeat' first | intro _ | with_reducible first | assumption | apply keepsR_next | apply keepsR_ite | apply State.tlmClose_keeps | apply keeps_ite | split

theorem State.mcvExpert_keeps {a s : State} (h : a.Keeps s) (x2 : _) :
    a.Keeps (State.mcvExpert s x2) := by
  unfold State.mcvExpert
  repeat' first | intro _ | with_reducible first | assumption | apply State.wr_keeps

theorem State.freshen_keeps {a s : State} (h : a.Keeps s) (x2 : _) :
    a.Keeps (State.freshen s x2) := by
  unfold State.freshen
  repeat' first | intro _ | with_reducible first | assumption | apply State.setStale_keeps | apply keeps_ite | split

theorem State.seqResume_keeps {a s : State} (h : a.Keeps s) (x2 : _) :
    a.Keeps (State.seqResume s x2) := by
  unfold State.seqResume
  repeat' first | intro _ | with_reducible first | assumption | apply State.monGo_keeps | apply State.freshen_keeps | apply State.updMon_keeps

theorem State.mcvMode_keeps {a s : State} (h : a.Keeps s) (x2 : _) (x3 : _) :
    a.Keeps (State.mcvMode s x2 x3) := by
  unfold State.mcvMode
  repeat' first | intro _ | ((fail_if_no_progress extract_lets +onlyGivenNames z); (refine keeps_cut (a := a) z ?_ fun hz => ?_) <;> [subst z; clear_value z]) | with_reducible first | assumption | apply State.wr_keeps | apply State.mcvExpert_keeps | apply State.monGo_keeps | apply State.setStale_keeps | apply State.updMon_keeps | apply State.seqResume_keeps | apply keeps_ite | split

theorem State.mcvHandback_keeps {a s : State} (h : a.Keeps s) (x2 : _) :
    a.Keeps (State.mcvHandback s x2) := by
  unfold State.mcvHandback
  repeat' first | intro _ | ((fail_if_no_progress extract_lets +onlyGivenNames z); first | (refine keeps_cut (a := a) z ?_ fun hz => ?_) <;> [subst z; clear_value z] | clear_value z) | with_reducible first | assumption | apply State.each_keeps | apply State.resetReg_keeps | apply State.mcvMode_keeps | apply State.wr_keeps | apply State.seqResume_keeps

theorem execMcvCtrlHandback_keeps {a s : State} (h : a.Keeps s) (x1 : _) (x2 : _) :
    a.KeepsR (execMcvCtrlHandback x1 x2 s) := by
  unfold execMcvCtrlHandback
  repeat' first | intro _ | with_reducible first | assumption | apply keepsR_next | apply keepsR_ite | apply State.order_keeps | apply State.when_keeps | apply State.mcvHandback_keeps | apply keeps_ite | split

theorem State.simTrigger_keeps {a s : State} (h : a.Keeps s) (x2 : _) (x3 : _) :
    a.Keeps (State.simTrigger s x2 x3) := by
  unfold State.simTrigger
  repeat' first | intro _ | ((fail_if_no_progress extract_lets +onlyGivenNames z); clear_value z) | with_reducible first | assumption | apply State.bump_keeps | apply State.updMon_keeps | apply State.simStart_keeps | apply keeps_ite | split

theorem State.mcvGo_keeps {a s : State} (h : a.Keeps s) (x2 : _) :
    a.Keeps (State.mcvGo s x2) := by
  unfold State.mcvGo
  repeat' first | intro _ | ((fail_if_no_progress extract_lets +onlyGivenNames z); (refine keeps_cut (a := a) z ?_ fun hz => ?_) <;> [subst z; clear_value z]) | with_reducible first | assumption | apply State.mcvExpert_keeps | apply State.simTrigger_keeps | apply keeps_ite | split

theorem State.ppsTrigger_keeps {a s : State} (h : a.Keeps s) :
    a.Keeps (State.ppsTrigger s) := by
  unfold State.ppsTrigger
  repeat' first | intro _ | with_reducible first | assumption | apply State.each_keeps | apply State.when_keeps | apply State.simTrigger_keeps | split

theorem State.mcvRefused_keeps {a s : State} (h : a.Keeps s) (x2 : _) :
    a.Keeps (State.mcvRefused s x2) := by
  unfold State.mcvRefused
  repeat' first | intro _ | with_reducible first | assumption | apply State.wr_keeps

theorem State.mcvHold_keeps {a s : State} (h : a.Keeps s) (x2 : _) (x3 : _) :
    a.Keeps (State.mcvHold s x2 x3) := by
  unfold State.mcvHold
  repeat' first | intro _ | ((fail_if_no_progress extract_lets +onlyGivenNames z); (refine keeps_cut (a := a) z ?_ fun hz => ?_) <;> [subst z; clear_value z]) | with_reducible first | assumption | apply State.wr_keeps | apply State.mcvExpert_keeps | apply State.mcvRefused_keeps | apply State.updMon_keeps | apply State.seqResume_keeps | apply keeps_ite | split

theorem execMcvCtrlHoldWrite_keeps {a s : State} (h : a.Keeps s) (x1 : _) (x2 : _) :
    a.KeepsR (execMcvCtrlHoldWrite x1 x2 s) := by
  unfold execMcvCtrlHoldWrite
  repeat' first | intro _ | with_reducible first | assumption | apply keepsR_next | apply keepsR_ite | apply State.order_keeps | apply State.mcvHold_keeps | apply keeps_ite | split

theorem State.updTlm_keeps {a s : State} (h : a.Keeps s) (x2 : _) (x3 : _) :
    a.Keeps (State.updTlm s x2 x3) := by
  unfold State.updTlm
  repeat' first | intro _ | with_reducible first | assumption | fail_if_no_progress apply keeps_mk | apply keeps_ite | split

theorem State.tlmOrder_keeps {a s : State} (h : a.Keeps s) (x2 : _) :
    a.Keeps (State.tlmOrder s x2) := by
  unfold State.tlmOrder
  repeat' first | intro _ | with_reducible first | assumption | apply State.updTlm_keeps | apply State.bump_keeps

theorem State.scalOrder_keeps {a s : State} (h : a.Keeps s) (x2 : _) :
    a.Keeps (State.scalOrder s x2) := by
  unfold State.scalOrder
  repeat' first | intro _ | with_reducible first | assumption | apply State.scalRequest_keeps | apply State.wr_keeps | apply keeps_ite | split

theorem execMcvCtrlScal_keeps {a s : State} (h : a.Keeps s) (x1 : _) (x2 : _) :
    a.KeepsR (execMcvCtrlScal x1 x2 s) := by
  unfold execMcvCtrlScal
  repeat' first | intro _ | with_reducible first | assumption | apply keepsR_next | apply keepsR_ite | apply State.order_keeps | apply State.when_keeps | apply State.scalOrder_keeps | apply keeps_ite | split

theorem State.urgentRequest_keeps {a s : State} (h : a.Keeps s) (x2 : _) (x3 : _) (x4 : _) :
    a.Keeps (State.urgentRequest s x2 x3 x4) := by
  unfold State.urgentRequest
  repeat' first | intro _ | ((fail_if_no_progress extract_lets +onlyGivenNames z); first | (refine keeps_cut (a := a) z ?_ fun hz => ?_) <;> [subst z; clear_value z] | clear_value z) | with_reducible first | assumption | apply State.setAx_keeps | apply State.monGo_keeps | apply State.updMon_keeps | apply State.bump_keeps | fail_if_no_progress apply keeps_mk | apply keeps_ite | split

theorem execUrgentRequest_keeps {a s : State} (h : a.Keeps s) (x1 : _) (x2 : _) (x3 : _) :
    a.KeepsR (execUrgentRequest x1 x2 x3 s) := by
  unfold execUrgentRequest
  repeat' first | intro _ | with_reducible first | assumption | apply keepsR_next | apply keepsR_ite | apply State.urgentRequest_keeps | apply keeps_ite | split

theorem State.tlmWrite_keeps {a s : State} (h : a.Keeps s) (x2 : _) (x3 : _) :
    a.Keeps (State.tlmWrite s x2 x3) := by
  unfold State.tlmWrite
  repeat' first | intro _ | ((fail_if_no_progress extract_lets +onlyGivenNames z); first | (refine keeps_cut (a := a) z ?_ fun hz => ?_) <;> [subst z; clear_value z] | clear_value z) | with_reducible first | assumption | apply State.updTlm_keeps | apply State.setAx_keeps | apply State.bump_keeps | apply State.event_keeps | apply State.wr_keeps | apply State.store_keeps | apply keeps_ite | split

theorem execTlmPeriodSample_keeps {a s : State} (h : a.Keeps s) (x1 : _) :
    a.KeepsR (execTlmPeriodSample x1 s) := by
  unfold execTlmPeriodSample
  repeat' first | intro _ | ((fail_if_no_progress extract_lets +onlyGivenNames z); (refine keeps_cut (a := a) z ?_ fun hz => ?_) <;> [subst z; clear_value z]) | with_reducible first | assumption | apply keepsR_next | apply keepsR_ite | apply State.each_keeps | apply State.tlmWrite_keeps | apply State.store_keeps | apply State.updTlm_keeps | apply keeps_ite | split

theorem State.scalEnd_keeps {a s : State} (h : a.Keeps s) (x2 : _) (x3 : _) (x4 : _) :
    a.Keeps (State.scalEnd s x2 x3 x4) := by
  unfold State.scalEnd
  repeat' first | intro _ | ((fail_if_no_progress extract_lets +onlyGivenNames z); (refine keeps_cut (a := a) z ?_ fun hz => ?_) <;> [subst z; clear_value z]) | with_reducible first | assumption | apply State.wr_keeps | apply State.updMon_keeps | apply State.monFail_keeps | apply State.monGo_keeps | apply State.freshen_keeps | apply keeps_ite | split

theorem execSelfCalEnd_keeps {a s : State} (h : a.Keeps s) (x1 : _) (x2 : _) (x3 : _) :
    a.KeepsR (execSelfCalEnd x1 x2 x3 s) := by
  unfold execSelfCalEnd
  repeat' first | intro _ | with_reducible first | assumption | apply keepsR_next | apply keepsR_ite | apply State.scalEnd_keeps | apply keeps_ite | split

theorem State.tlmStop_keeps {a s : State} (h : a.Keeps s) (x2 : _) :
    a.Keeps (State.tlmStop s x2) := by
  unfold State.tlmStop
  repeat' first | intro _ | ((fail_if_no_progress extract_lets +onlyGivenNames z); clear_value z) | with_reducible first | assumption | apply State.setAx_keeps | apply State.tlmOrder_keeps | apply State.updTlm_keeps | apply State.tlmClose_keeps | apply keeps_ite | split

theorem State.tlmOpen_keeps {a s : State} (h : a.Keeps s) (x2 : _) :
    a.Keeps (State.tlmOpen s x2) := by
  unfold State.tlmOpen
  repeat' first | intro _ | ((fail_if_no_progress extract_lets +onlyGivenNames z); (refine keeps_cut (a := a) z ?_ fun hz => ?_) <;> [subst z; clear_value z]) | with_reducible first | assumption | apply State.updTlm_keeps | apply State.wr_keeps | apply State.tlmClose_keeps | apply keeps_ite | split

theorem State.tlmStart_keeps {a s : State} (h : a.Keeps s) (x2 : _) (x3 : _) :
    a.Keeps (State.tlmStart s x2 x3) := by
  unfold State.tlmStart
  repeat' first | intro _ | ((fail_if_no_progress extract_lets +onlyGivenNames z); first | (refine keeps_cut (a := a) z ?_ fun hz => ?_) <;> [subst z; clear_value z] | clear_value z) | with_reducible first | assumption | apply State.bump_keeps | apply State.setAx_keeps | apply State.wr_keeps | apply State.tlmOrder_keeps | apply State.updTlm_keeps | apply State.tlmOpen_keeps | fail_if_no_progress apply keeps_mk | apply keeps_ite | split

theorem execTlmStart_keeps {a s : State} (h : a.Keeps s) (x1 : _) (x2 : _) (x3 : _) :
    a.KeepsR (execTlmStart x1 x2 x3 s) := by
  unfold execTlmStart
  repeat' first | intro _ | with_reducible first | assumption | apply keepsR_next | apply keepsR_ite | apply State.order_keeps | apply State.when_keeps | apply State.tlmStart_keeps | apply keeps_ite | split

theorem execTlmRdidxWrite_keeps {a s : State} (h : a.Keeps s) (x1 : _) (x2 : _) :
    a.KeepsR (execTlmRdidxWrite x1 x2 s) := by
  unfold execTlmRdidxWrite
  repeat' first | intro _ | with_reducible first | assumption | apply keepsR_next | apply keepsR_ite | apply State.order_keeps | apply State.wr_keeps | apply keeps_ite | split

theorem execSelfCalDue_keeps {a s : State} (h : a.Keeps s) (x1 : _) :
    a.KeepsR (execSelfCalDue x1 s) := by
  unfold execSelfCalDue
  repeat' first | intro _ | with_reducible first | assumption | apply keepsR_next | apply keepsR_ite | apply State.scalRequest_keeps | apply keeps_ite | split

theorem execMcvEntryStart_keeps {a s : State} (h : a.Keeps s) (x1 : _) :
    a.KeepsR (execMcvEntryStart x1 s) := by
  unfold execMcvEntryStart
  repeat' first | intro _ | with_reducible first | assumption | apply keepsR_next | apply keepsR_ite | apply State.updMon_keeps | apply State.entryRun_keeps | apply keeps_ite | split

theorem execSimultaneousConversionEnd_keeps {a s : State} (h : a.Keeps s) (x1 : _) (x2 : _) (x3 : _) :
    a.KeepsR (execSimultaneousConversionEnd x1 x2 x3 s) := by
  unfold execSimultaneousConversionEnd
  repeat' first | intro _ | ((fail_if_no_progress extract_lets +onlyGivenNames z); first | (refine keeps_cut (a := a) z ?_ fun hz => ?_) <;> [subst z; clear_value z] | clear_value z) | with_reducible first | assumption | apply keepsR_next | apply keepsR_ite | apply State.wr_keeps | apply State.monGo_keeps | apply State.updMon_keeps | apply keeps_ite | split

theorem execTlmStop_keeps {a s : State} (h : a.Keeps s) (x1 : _) (x2 : _) :
    a.KeepsR (execTlmStop x1 x2 s) := by
  unfold execTlmStop
  repeat' first | intro _ | with_reducible first | assumption | apply keepsR_next | apply keepsR_ite | apply State.order_keeps | apply State.when_keeps | apply State.tlmStop_keeps | apply keeps_ite | split

theorem State.mcvClear_keeps {a s : State} (h : a.Keeps s) (x2 : _) :
    a.Keeps (State.mcvClear s x2) := by
  unfold State.mcvClear
  repeat' first | intro _ | with_reducible first | assumption | apply State.wr_keeps

theorem execMcvCtrlClear_keeps {a s : State} (h : a.Keeps s) (x1 : _) (x2 : _) :
    a.KeepsR (execMcvCtrlClear x1 x2 s) := by
  unfold execMcvCtrlClear
  repeat' first | intro _ | with_reducible first | assumption | apply keepsR_next | apply keepsR_ite | apply State.order_keeps | apply State.when_keeps | apply State.mcvClear_keeps | apply keeps_ite | split

theorem execMcvTrigGo_keeps {a s : State} (h : a.Keeps s) (x1 : _) (x2 : _) :
    a.KeepsR (execMcvTrigGo x1 x2 s) := by
  unfold execMcvTrigGo
  repeat' first | intro _ | with_reducible first | assumption | apply keepsR_next | apply keepsR_ite | apply State.order_keeps | apply State.when_keeps | apply State.mcvGo_keeps | apply keeps_ite | split

theorem execTlmTimedStart_keeps {a s : State} (h : a.Keeps s) (x1 : _) :
    a.KeepsR (execTlmTimedStart x1 s) := by
  unfold execTlmTimedStart
  repeat' first | intro _ | with_reducible first | assumption | apply keepsR_next | apply keepsR_ite | apply State.tlmOpen_keeps | apply keeps_ite | split

theorem execTlmCancel_keeps {a s : State} (h : a.Keeps s) (x1 : _) (x2 : _) :
    a.KeepsR (execTlmCancel x1 x2 s) := by
  unfold execTlmCancel
  repeat' first | intro _ | with_reducible first | assumption | apply keepsR_next | apply keepsR_ite | apply State.order_keeps | apply State.tlmClose_keeps | apply keeps_ite | split

theorem execMcvTimedTrigger_keeps {a s : State} (h : a.Keeps s) (x1 : _) :
    a.KeepsR (execMcvTimedTrigger x1 s) := by
  unfold execMcvTimedTrigger
  repeat' first | intro _ | with_reducible first | assumption | apply keepsR_next | apply keepsR_ite | apply State.simTrigger_keeps | apply State.updMon_keeps | apply keeps_ite | split

theorem State.timedTrigger_keeps {a s : State} (h : a.Keeps s) (x2 : _) (x3 : _) :
    a.Keeps (State.timedTrigger s x2 x3) := by
  unfold State.timedTrigger
  repeat' first | intro _ | ((fail_if_no_progress extract_lets +onlyGivenNames z); (refine keeps_cut (a := a) z ?_ fun hz => ?_) <;> [subst z; clear_value z]) | with_reducible first | assumption | apply State.wr_keeps | apply State.simTrigger_keeps | apply State.updMon_keeps | apply keeps_ite | split

theorem execUrgentConversionEnd_keeps {a s : State} (h : a.Keeps s) (x1 : _) (x2 : _) :
    a.KeepsR (execUrgentConversionEnd x1 x2 s) := by
  unfold execUrgentConversionEnd
  repeat' first | intro _ | with_reducible first | assumption | apply keepsR_next | apply keepsR_ite | apply State.monGo_keeps | fail_if_no_progress apply keeps_mk | apply keeps_ite | split

theorem execMcvCtrlModeWrite_keeps {a s : State} (h : a.Keeps s) (x1 : _) (x2 : _) :
    a.KeepsR (execMcvCtrlModeWrite x1 x2 s) := by
  unfold execMcvCtrlModeWrite
  repeat' first | intro _ | with_reducible first | assumption | apply keepsR_next | apply keepsR_ite | apply State.order_keeps | apply State.mcvMode_keeps | apply keeps_ite | split

end Sys2Proof.Machine
end

