-- ==== Sys2Proof/Laws/KeepsDrivers.lean ====
section
/-!
SUPPORT. Laws/KeepsDrivers.lean: the operations of Machine/Drivers.lean keep what Laws/Keeps.lean names.
-/

set_option linter.unusedTactic false
set_option linter.unusedVariables false
set_option linter.tactic.unusedName false
set_option linter.unreachableTactic false

namespace Sys2Proof.Machine

theorem State.drvExpert_keeps {a s : State} (h : a.Keeps s) (x2 : _) (x3 : _) :
    a.Keeps (State.drvExpert s x2 x3) := by
  unfold State.drvExpert
  repeat' first | intro _ | with_reducible first | assumption | apply State.wr_keeps

theorem State.drvCfg_keeps {a s : State} (h : a.Keeps s) (x2 : _) (x3 : _) (x4 : _) :
    a.Keeps (State.drvCfg s x2 x3 x4) := by
  unfold State.drvCfg
  repeat' first | intro _ | with_reducible first | assumption | apply State.setDrive_keeps | apply State.drvExpert_keeps | apply keeps_ite | split

theorem execDrvCfgWrite_keeps {a s : State} (h : a.Keeps s) (x1 : _) (x2 : _) (x3 : _) :
    a.KeepsR (execDrvCfgWrite x1 x2 x3 s) := by
  unfold execDrvCfgWrite
  repeat' first | intro _ | with_reducible first | assumption | apply keepsR_next | apply keepsR_ite | apply State.order_keeps | apply State.drvCfg_keeps | apply keeps_ite | split

theorem State.updPlay_keeps {a s : State} (h : a.Keeps s) (x2 : _) (x3 : _) (x4 : _) :
    a.Keeps (State.updPlay s x2 x3 x4) := by
  unfold State.updPlay
  repeat' first | intro _ | with_reducible first | assumption | fail_if_no_progress apply keeps_mk | apply keeps_ite | split

theorem State.playOrder_keeps {a s : State} (h : a.Keeps s) (x2 : _) (x3 : _) :
    a.Keeps (State.playOrder s x2 x3) := by
  unfold State.playOrder
  repeat' first | intro _ | with_reducible first | assumption | apply State.updPlay_keeps | apply State.bump_keeps

theorem State.driveRows_keeps {a s : State} (h : a.Keeps s) (x2 : _) (x3 : _) :
    a.Keeps (State.driveRows s x2 x3) := by
  unfold State.driveRows
  repeat' first | intro _ | with_reducible first | assumption | apply State.updTile_keeps

theorem State.playEnd_keeps {a s : State} (h : a.Keeps s) (x2 : _) (x3 : _) (x4 : _) :
    a.Keeps (State.playEnd s x2 x3 x4) := by
  unfold State.playEnd
  repeat' first | intro _ | ((fail_if_no_progress extract_lets +onlyGivenNames z); first | (refine keeps_cut (a := a) z ?_ fun hz => ?_) <;> [subst z; clear_value z] | clear_value z) | with_reducible first | assumption | apply State.showEngine_keeps | apply State.wr_keeps | apply State.driveRows_keeps | apply State.pump_keeps | fail_if_no_progress apply keeps_mk | apply keeps_ite | split

theorem State.playStop_keeps {a s : State} (h : a.Keeps s) (x2 : _) (x3 : _) :
    a.Keeps (State.playStop s x2 x3) := by
  unfold State.playStop
  repeat' first | intro _ | ((fail_if_no_progress extract_lets +onlyGivenNames z); first | (refine keeps_cut (a := a) z ?_ fun hz => ?_) <;> [subst z; clear_value z] | clear_value z) | with_reducible first | assumption | apply State.setAx_keeps | apply State.playOrder_keeps | apply State.updPlay_keeps | apply State.playEnd_keeps | apply keeps_ite | split

theorem State.playAbort_keeps {a s : State} (h : a.Keeps s) (x2 : _) :
    a.Keeps (State.playAbort s x2) := by
  unfold State.playAbort
  repeat' first | intro _ | ((fail_if_no_progress extract_lets +onlyGivenNames z); first | (first | refine keeps_cut (a := a) z ?_ fun hz => ?_ | refine keeps_cut2 (a := a) z ?_ fun hz => ?_) <;> [subst z; clear_value z] | clear_value z) | with_reducible first | assumption | apply State.fresh_keeps | apply State.wr_keeps | apply State.showEngine_keeps | fail_if_no_progress apply keeps_mk | refine keeps_of2 (by assumption) ?_ | split

theorem State.drivePoint_keeps {a s : State} (h : a.Keeps s) (x2 : _) :
    a.Keeps (State.drivePoint s x2) := by
  unfold State.drivePoint
  repeat' first | intro _ | ((fail_if_no_progress extract_lets +onlyGivenNames z); first | (refine keeps_cut (a := a) z ?_ fun hz => ?_) <;> [subst z; clear_value z] | clear_value z) | with_reducible first | assumption | apply State.wr_keeps | apply State.bump_keeps | apply State.driveRows_keeps | apply State.addPulse_keeps | apply keeps_ite | split

theorem State.playPoint_keeps {a s : State} (h : a.Keeps s) (x2 : _) (x3 : _) :
    a.Keeps (State.playPoint s x2 x3) := by
  unfold State.playPoint
  repeat' first | intro _ | ((fail_if_no_progress extract_lets +onlyGivenNames z); first | (refine keeps_fn z ?_; subst z; beta_reduce) | clear_value z) | with_reducible first | assumption | apply State.drivePoint_keeps | apply State.updPlay_keeps | apply State.playEnd_keeps | apply keeps_ite | split

theorem State.playBegin_keeps {a s : State} (h : a.Keeps s) (x2 : _) :
    a.Keeps (State.playBegin s x2) := by
  unfold State.playBegin
  repeat' first | intro _ | ((fail_if_no_progress extract_lets +onlyGivenNames z); first | (refine keeps_cut (a := a) z ?_ fun hz => ?_) <;> [subst z; clear_value z] | clear_value z) | with_reducible first | assumption | apply State.updPlay_keeps | apply State.wr_keeps | apply State.showEngine_keeps | apply State.playAbort_keeps | apply State.playPoint_keeps | apply keeps_ite | split

theorem State.playAccept_keeps {a s : State} (h : a.Keeps s) (x2 : _) (x3 : _) :
    a.Keeps (State.playAccept s x2 x3) := by
  unfold State.playAccept
  repeat' first | intro _ | ((fail_if_no_progress extract_lets +onlyGivenNames z); first | (refine keeps_cut (a := a) z ?_ fun hz => ?_) <;> [subst z; clear_value z] | clear_value z) | with_reducible first | assumption | apply State.bump_keeps | apply State.showEngine_keeps | apply State.wr_keeps | apply State.driveRows_keeps | apply State.playEnd_keeps | apply State.playOrder_keeps | apply State.updPlay_keeps | apply State.playBegin_keeps | fail_if_no_progress apply keeps_mk | apply keeps_ite | split

theorem State.playStart_keeps {a s : State} (h : a.Keeps s) (x2 : _) (x3 : _) (x4 : _) :
    a.Keeps (State.playStart s x2 x3 x4) := by
  unfold State.playStart
  repeat' first | intro _ | ((fail_if_no_progress extract_lets +onlyGivenNames z); first | (refine keeps_cut (a := a) z ?_ fun hz => ?_) <;> [subst z; clear_value z] | clear_value z) | with_reducible first | assumption | apply State.setAx_keeps | apply State.wr_keeps | apply State.playAccept_keeps | apply keeps_ite | split

theorem execWfmPlayStart_keeps {a s : State} (h : a.Keeps s) (x1 : _) (x2 : _) (x3 : _) (x4 : _) :
    a.KeepsR (execWfmPlayStart x1 x2 x3 x4 s) := by
  unfold execWfmPlayStart
  repeat' first | intro _ | with_reducible first | assumption | apply keepsR_next | apply keepsR_ite | apply State.order_keeps | apply State.when_keeps | apply State.playStart_keeps | apply keeps_ite | split

theorem State.pointInterval_keeps {a s : State} (h : a.Keeps s) (x2 : _) :
    a.Keeps (State.pointInterval s x2) := by
  unfold State.pointInterval
  repeat' first | intro _ | ((fail_if_no_progress extract_lets +onlyGivenNames z); (refine keeps_cut (a := a) z ?_ fun hz => ?_) <;> [subst z; clear_value z]) | with_reducible first | assumption | apply State.urgentRequest_keeps | apply State.playPoint_keeps | apply keeps_ite | split

theorem State.wfmHandback_keeps {a s : State} (h : a.Keeps s) (x2 : _) :
    a.Keeps (State.wfmHandback s x2) := by
  unfold State.wfmHandback
  repeat' first | intro _ | with_reducible first | assumption | apply State.setAx_keeps | apply State.each_keeps | apply State.playEnd_keeps | split

theorem execWfmStatHandback_keeps {a s : State} (h : a.Keeps s) (x1 : _) (x2 : _) :
    a.KeepsR (execWfmStatHandback x1 x2 s) := by
  unfold execWfmStatHandback
  repeat' first | intro _ | with_reducible first | assumption | apply keepsR_next | apply keepsR_ite | apply State.order_keeps | apply State.when_keeps | apply State.wfmHandback_keeps | apply keeps_ite | split

theorem State.drvHandback_keeps {a s : State} (h : a.Keeps s) (x2 : _) (x3 : _) :
    a.Keeps (State.drvHandback s x2 x3) := by
  unfold State.drvHandback
  repeat' first | intro _ | with_reducible first | assumption | apply State.takeFull_keeps | apply State.wr_keeps | apply State.setSlew_keeps | apply State.setDrive_keeps

theorem State.timedStart_keeps {a s : State} (h : a.Keeps s) (x2 : _) :
    a.Keeps (State.timedStart s x2) := by
  unfold State.timedStart
  repeat' first | intro _ | with_reducible first | assumption | apply State.wr_keeps | apply State.playEnd_keeps | apply State.playBegin_keeps | apply keeps_ite | split

theorem execWfmTimedStart_keeps {a s : State} (h : a.Keeps s) (x1 : _) (x2 : _) :
    a.KeepsR (execWfmTimedStart x1 x2 s) := by
  unfold execWfmTimedStart
  repeat' first | intro _ | with_reducible first | assumption | apply keepsR_next | apply keepsR_ite | apply State.timedStart_keeps | apply keeps_ite | split

theorem execWfmTimedStop_keeps {a s : State} (h : a.Keeps s) (x1 : _) (x2 : _) :
    a.KeepsR (execWfmTimedStop x1 x2 s) := by
  unfold execWfmTimedStop
  repeat' first | intro _ | with_reducible first | assumption | apply keepsR_next | apply keepsR_ite | apply State.playEnd_keeps | apply keeps_ite | split

theorem State.drvSlew_keeps {a s : State} (h : a.Keeps s) (x2 : _) (x3 : _) (x4 : _) :
    a.Keeps (State.drvSlew s x2 x3 x4) := by
  unfold State.drvSlew
  repeat' first | intro _ | with_reducible first | assumption | apply State.wr_keeps | apply State.setSlew_keeps | apply State.drvExpert_keeps | apply keeps_ite | split

theorem execWfmPlayStop_keeps {a s : State} (h : a.Keeps s) (x1 : _) (x2 : _) (x3 : _) :
    a.KeepsR (execWfmPlayStop x1 x2 x3 s) := by
  unfold execWfmPlayStop
  repeat' first | intro _ | with_reducible first | assumption | apply keepsR_next | apply keepsR_ite | apply State.order_keeps | apply State.when_keeps | apply State.playStop_keeps | apply keeps_ite | split

theorem State.waveNext_keeps {a s : State} (h : a.Keeps s) (x2 : _) :
    a.Keeps (State.waveNext s x2) := by
  unfold State.waveNext
  repeat' first | intro _ | ((fail_if_no_progress extract_lets +onlyGivenNames z); clear_value z) | with_reducible first | assumption | apply State.wr_keeps | apply keeps_ite | split

theorem State.waveWrite_keeps {a s : State} (h : a.Keeps s) (x2 : _) (x3 : _) :
    a.Keeps (State.waveWrite s x2 x3) := by
  unfold State.waveWrite
  repeat' first | intro _ | ((fail_if_no_progress extract_lets +onlyGivenNames z); first | (refine keeps_cut (a := a) z ?_ fun hz => ?_) <;> [subst z; clear_value z] | clear_value z) | with_reducible first | assumption | apply State.wr_keeps | apply State.setAx_keeps | apply State.waveNext_keeps | fail_if_no_progress apply keeps_mk | apply keeps_ite | split

theorem execWfmDataAccess_keeps {a s : State} (h : a.Keeps s) (x1 : _) (x2 : _) :
    a.KeepsR (execWfmDataAccess x1 x2 s) := by
  unfold execWfmDataAccess
  repeat' first | intro _ | with_reducible first | assumption | apply keepsR_next | apply keepsR_ite | apply State.waveNext_keeps | apply State.emit_keeps | apply State.order_keeps | apply State.waveWrite_keeps | apply keeps_ite | split

theorem execWfmPlayCancel_keeps {a s : State} (h : a.Keeps s) (x1 : _) (x2 : _) (x3 : _) :
    a.KeepsR (execWfmPlayCancel x1 x2 x3 s) := by
  unfold execWfmPlayCancel
  repeat' first | intro _ | with_reducible first | assumption | apply keepsR_next | apply keepsR_ite | apply State.order_keeps | apply State.playEnd_keeps | apply keeps_ite | split

theorem execWfmPointInterval_keeps {a s : State} (h : a.Keeps s) (x1 : _) (x2 : _) :
    a.KeepsR (execWfmPointInterval x1 x2 s) := by
  unfold execWfmPointInterval
  repeat' first | intro _ | with_reducible first | assumption | apply keepsR_next | apply keepsR_ite | apply State.pointInterval_keeps | apply keeps_ite | split

theorem execDrvSlewWrite_keeps {a s : State} (h : a.Keeps s) (x1 : _) (x2 : _) (x3 : _) :
    a.KeepsR (execDrvSlewWrite x1 x2 x3 s) := by
  unfold execDrvSlewWrite
  repeat' first | intro _ | with_reducible first | assumption | apply keepsR_next | apply keepsR_ite | apply State.order_keeps | apply State.drvSlew_keeps | apply keeps_ite | split

theorem execDrvCfgHandback_keeps {a s : State} (h : a.Keeps s) (x1 : _) (x2 : _) (x3 : _) :
    a.KeepsR (execDrvCfgHandback x1 x2 x3 s) := by
  unfold execDrvCfgHandback
  repeat' first | intro _ | with_reducible first | assumption | apply keepsR_next | apply keepsR_ite | apply State.order_keeps | apply State.when_keeps | apply State.drvHandback_keeps | apply keeps_ite | split

end Sys2Proof.Machine
end

