-- ==== Sys2Proof/Laws/KeepsSafeState.lean ====
section
/-!
SUPPORT. Laws/KeepsSafeState.lean: the operations of Machine/SafeState.lean keep what Laws/Keeps.lean names.
-/

set_option linter.unusedTactic false
set_option linter.unusedVariables false
set_option linter.tactic.unusedName false
set_option linter.unreachableTactic false

namespace Sys2Proof.Machine

theorem State.clampDie_keeps {a s : State} (h : a.Keeps s) (x2 : _) :
    a.Keeps (State.clampDie s x2) := by
  unfold State.clampDie
  repeat' first | intro _ | ((fail_if_no_progress extract_lets +onlyGivenNames z); first | (refine keeps_cut (a := a) z ?_ fun hz => ?_) <;> [subst z; clear_value z] | clear_value z) | with_reducible first | assumption | apply State.each_keeps | apply State.playAbort_keeps | fail_if_no_progress apply keeps_mk | apply keeps_ite | split

theorem State.leaveSelfRefresh_keeps {a s : State} (h : a.Keeps s) (x2 : _) :
    a.Keeps (State.leaveSelfRefresh s x2) := by
  unfold State.leaveSelfRefresh
  repeat' first | intro _ | with_reducible first | assumption | apply State.each_keeps | apply State.wr_keeps | apply State.retrainStart_keeps | apply keeps_ite | split

theorem State.cutDie_keeps {a s : State} (h : a.Keeps s) (x2 : _) :
    a.Keeps (State.cutDie s x2) := by
  unfold State.cutDie
  repeat' first | intro _ | ((fail_if_no_progress extract_lets +onlyGivenNames z); first | (refine keeps_cut (a := a) z ?_ fun hz => ?_) <;> [subst z; clear_value z] | clear_value z) | with_reducible first | assumption | apply State.each_keeps | apply State.updTile_keeps | apply State.setTst_keeps | apply State.wr_keeps | apply State.showEngine_keeps | apply State.updReq_keeps | apply keeps_ite | split

theorem State.dieSafe_keeps {a s : State} (h : a.Keeps s) (x2 : _) :
    a.Keeps (State.dieSafe s x2) := by
  unfold State.dieSafe
  repeat' first | intro _ | with_reducible first | assumption | apply State.wr_keeps | apply State.cutDie_keeps | apply State.clampDie_keeps

theorem State.restartFrom3_keeps {a s : State} (h : a.Keeps s) :
    a.Keeps (State.restartFrom3 s) := by
  unfold State.restartFrom3
  repeat' first | intro _ | with_reducible first | assumption | apply State.setAx_keeps | apply State.wr_keeps

theorem State.leaveSafe_keeps {a s : State} (h : a.Keeps s) :
    a.Keeps (State.leaveSafe s) := by
  unfold State.leaveSafe
  repeat' first | intro _ | ((fail_if_no_progress extract_lets +onlyGivenNames z); (refine keeps_cut (a := a) z ?_ fun hz => ?_) <;> [subst z; clear_value z]) | with_reducible first | assumption | apply State.each_keeps | apply State.leaveSelfRefresh_keeps | apply State.setAx_keeps | apply State.wr_keeps | apply State.pump_keeps | apply keeps_ite | split

theorem State.enterSafe_keeps {a s : State} (h : a.Keeps s) :
    a.Keeps (State.enterSafe s) := by
  unfold State.enterSafe
  repeat' first | intro _ | with_reducible first | assumption | apply State.wr_keeps | apply State.each_keeps | apply State.dieSafe_keeps

end Sys2Proof.Machine
end

