-- ==== Sys2Proof/Laws/KeepsRecord.lean ====
section
/-!
SUPPORT. Laws/KeepsRecord.lean: the operations of Machine/Record.lean keep what Laws/Keeps.lean names.
-/

set_option linter.unusedTactic false
set_option linter.unusedVariables false
set_option linter.tactic.unusedName false
set_option linter.unreachableTactic false

namespace Sys2Proof.Machine

theorem State.recordLost_keeps {a s : State} (h : a.Keeps s) (x2 : _) (x3 : _) (x4 : _) (x5 : _) :
    a.Keeps (State.recordLost s x2 x3 x4 x5) := by
  unfold State.recordLost
  repeat' first | intro _ | with_reducible first | assumption | apply State.event_keeps

theorem State.setRecord_keeps {a s : State} (h : a.Keeps s) (x2 : _) (x3 : _) (x4 : _) :
    a.Keeps (State.setRecord s x2 x3 x4) := by
  unfold State.setRecord
  repeat' first | intro _ | with_reducible first | assumption | fail_if_no_progress apply keeps_mk | split

theorem State.recLoad_keeps {a s : State} (h : a.Keeps s) (x2 : _) (x3 : _) :
    a.Keeps (State.recLoad s x2 x3) := by
  unfold State.recLoad
  repeat' first | intro _ | ((fail_if_no_progress extract_lets +onlyGivenNames z); first | (refine keeps_cut (a := a) z ?_ fun hz => ?_) <;> [subst z; clear_value z] | clear_value z) | with_reducible first | assumption | apply State.recordLost_keeps | apply State.setTab_keeps | apply State.updTile_keeps | apply State.setAx_keeps | apply State.each_keeps | apply State.setTaps_keeps | apply State.setCause_keeps | apply keeps_ite | split

theorem State.takeTemp_keeps {a s : State} (h : a.Keeps s) (x2 : _) (x3 : _) :
    a.Keeps (State.takeTemp s x2 x3) := by
  unfold State.takeTemp
  repeat' first | intro _ | with_reducible first | assumption | apply State.dropTab_keeps | apply State.each_keeps | apply State.setTab_keeps

theorem State.setCauses_keeps {a s : State} (h : a.Keeps s) (x2 : _) :
    a.Keeps (State.setCauses s x2) := by
  unfold State.setCauses
  repeat' first | intro _ | ((fail_if_no_progress extract_lets +onlyGivenNames z); clear_value z) | with_reducible first | assumption | apply State.each_keeps | apply State.setCause_keeps

theorem State.setLost_keeps {a s : State} (h : a.Keeps s) (x2 : _) (x3 : _) :
    a.Keeps (State.setLost s x2 x3) := by
  unfold State.setLost
  repeat' first | intro _ | with_reducible first | assumption | apply State.recordLost_keeps | apply State.setTab_keeps

theorem State.recRead_keeps {a s : State} (h : a.Keeps s) (x2 : _) (x3 : _) :
    a.Keeps (State.recRead s x2 x3) := by
  unfold State.recRead
  repeat' first | intro _ | ((fail_if_no_progress extract_lets +onlyGivenNames z); first | (refine keeps_cut (a := a) z ?_ fun hz => ?_) <;> [subst z; clear_value z] | clear_value z) | with_reducible first | assumption | apply State.each_keeps | apply State.setRecord_keeps | apply State.recLoad_keeps | apply State.setTab_keeps | apply State.takeTemp_keeps | apply State.setCauses_keeps | apply State.setLost_keeps | split

theorem State.entriesLost_keeps {a s : State} (h : a.Keeps s) (x2 : _) (x3 : _) :
    a.Keeps (State.entriesLost s x2 x3) := by
  unfold State.entriesLost
  repeat' first | intro _ | ((fail_if_no_progress extract_lets +onlyGivenNames z); first | (refine keeps_cut (a := a) z ?_ fun hz => ?_) <;> [subst z; clear_value z] | clear_value z) | with_reducible first | assumption | apply State.recordLost_keeps | apply State.setRecord_keeps | apply State.queueCal_keeps | apply keeps_ite | split

theorem State.recordFails_keeps {a s : State} (h : a.Keeps s) (x2 : _) (x3 : _) (x4 : _) (x5 : _) :
    a.Keeps (State.recordFails s x2 x3 x4 x5) := by
  unfold State.recordFails
  repeat' first | intro _ | ((fail_if_no_progress extract_lets +onlyGivenNames z); first | (refine keeps_cut (a := a) z ?_ fun hz => ?_) <;> [subst z; clear_value z] | clear_value z) | with_reducible first | assumption | apply State.setTst_keeps | apply State.wr_keeps | apply State.takeSpare_keeps | apply State.setAx_keeps | apply State.noSlot_keeps | apply State.event_keeps | apply State.markRetired_keeps | apply State.each_keeps | apply State.entriesLost_keeps | apply State.recordLost_keeps | apply keeps_ite | split

theorem State.recWrite_keeps {a s : State} (h : a.Keeps s) (x2 : _) (x3 : _) :
    a.Keeps (State.recWrite s x2 x3) := by
  unfold State.recWrite
  repeat' first | intro _ | ((fail_if_no_progress extract_lets +onlyGivenNames z); first | (refine keeps_cut (a := a) z ?_ fun hz => ?_) <;> [subst z; clear_value z] | clear_value z) | with_reducible first | assumption | apply State.setRecord_keeps | apply State.setCause_keeps | apply State.recordLost_keeps | apply foldl_keeps | apply keeps_ite | split

theorem State.recSave_keeps {a s : State} (h : a.Keeps s) (x2 : _) (x3 : _) :
    a.Keeps (State.recSave s x2 x3) := by
  unfold State.recSave
  repeat' first | intro _ | ((fail_if_no_progress extract_lets +onlyGivenNames z); clear_value z) | with_reducible first | assumption | apply State.setRecord_keeps

end Sys2Proof.Machine
end

