-- ==== Sys2Proof/Laws/KeepsTileCmds.lean ====
section
/-!
SUPPORT. Laws/KeepsTileCmds.lean: the operations of Machine/TileCmds.lean keep what Laws/Keeps.lean names.
-/

set_option linter.unusedTactic false
set_option linter.unusedVariables false
set_option linter.tactic.unusedName false
set_option linter.unreachableTactic false

namespace Sys2Proof.Machine

theorem State.spareTest_keeps {a s : State} (h : a.Keeps s) (x2 : _) (x3 : _) :
    a.Keeps (State.spareTest s x2 x3) := by
  unfold State.spareTest
  repeat' first | intro _ | ((fail_if_no_progress extract_lets +onlyGivenNames z); clear_value z) | with_reducible first | assumption | apply State.each_keeps | apply State.progPush_keeps | split

theorem State.tilExpert_keeps {a s : State} (h : a.Keeps s) (x2 : _) (x3 : _) :
    a.Keeps (State.tilExpert s x2 x3) := by
  unfold State.tilExpert
  repeat' first | intro _ | with_reducible first | assumption | apply State.wr_keeps

theorem State.tilHold_keeps {a s : State} (h : a.Keeps s) (x2 : _) (x3 : _) (x4 : _) :
    a.Keeps (State.tilHold s x2 x3 x4) := by
  unfold State.tilHold
  repeat' first | intro _ | ((fail_if_no_progress extract_lets +onlyGivenNames z); (refine keeps_cut (a := a) z ?_ fun hz => ?_) <;> [subst z; clear_value z]) | with_reducible first | assumption | apply State.wr_keeps | apply State.tilExpert_keeps | apply State.wantHold_keeps | apply State.setAx_keeps | apply State.wantJoin_keeps | apply keeps_ite | split

theorem State.tilPrecision_keeps {a s : State} (h : a.Keeps s) (x2 : _) (x3 : _) (x4 : _) :
    a.Keeps (State.tilPrecision s x2 x3 x4) := by
  unfold State.tilPrecision
  repeat' first | intro _ | ((fail_if_no_progress extract_lets +onlyGivenNames z); clear_value z) | with_reducible first | assumption | apply State.wr_keeps | apply State.setPrecision_keeps | apply keeps_ite | split

theorem execTilCtrlPrecisionWrite_keeps {a s : State} (h : a.Keeps s) (x1 : _) (x2 : _) (x3 : _) :
    a.KeepsR (execTilCtrlPrecisionWrite x1 x2 x3 s) := by
  unfold execTilCtrlPrecisionWrite
  repeat' first | intro _ | with_reducible first | assumption | apply keepsR_next | apply keepsR_ite | apply State.order_keeps | apply State.tilPrecision_keeps | apply keeps_ite | split

theorem State.tilRetire_keeps {a s : State} (h : a.Keeps s) (x2 : _) (x3 : _) :
    a.Keeps (State.tilRetire s x2 x3) := by
  unfold State.tilRetire
  repeat' first | intro _ | ((fail_if_no_progress extract_lets +onlyGivenNames z); first | (refine keeps_cut (a := a) z ?_ fun hz => ?_) <;> [subst z; clear_value z] | clear_value z) | with_reducible first | assumption | apply State.wr_keeps | apply State.tilExpert_keeps | apply State.markRetired_keeps | apply State.rehome_keeps | apply State.takeSpare_keeps | apply State.recordFails_keeps | apply State.replaceTile_keeps | apply State.elementFails_keeps | apply keeps_ite | split

theorem execTilCtrlRetire_keeps {a s : State} (h : a.Keeps s) (x1 : _) (x2 : _) (x3 : _) :
    a.KeepsR (execTilCtrlRetire x1 x2 x3 s) := by
  unfold execTilCtrlRetire
  repeat' first | intro _ | with_reducible first | assumption | apply keepsR_next | apply keepsR_ite | apply State.order_keeps | apply State.when_keeps | apply State.tilRetire_keeps | apply keeps_ite | split

theorem execSpareTileTest_keeps {a s : State} (h : a.Keeps s) (x1 : _) (x2 : _) :
    a.KeepsR (execSpareTileTest x1 x2 s) := by
  unfold execSpareTileTest
  repeat' first | intro _ | with_reducible first | assumption | apply keepsR_next | apply keepsR_ite | apply State.spareTest_keeps | apply keeps_ite | split

theorem execRecordTileFailure_keeps {a s : State} (h : a.Keeps s) (x1 : _) (x2 : _) (x3 : _) (x4 : _) :
    a.KeepsR (execRecordTileFailure x1 x2 x3 x4 s) := by
  unfold execRecordTileFailure
  repeat' first | intro _ | with_reducible first | assumption | apply keepsR_next | apply keepsR_ite | apply State.recordFails_keeps | apply keeps_ite | split

theorem execTilCtrlHoldWrite_keeps {a s : State} (h : a.Keeps s) (x1 : _) (x2 : _) (x3 : _) :
    a.KeepsR (execTilCtrlHoldWrite x1 x2 x3 s) := by
  unfold execTilCtrlHoldWrite
  repeat' first | intro _ | with_reducible first | assumption | apply keepsR_next | apply keepsR_ite | apply State.order_keeps | apply State.tilHold_keeps | apply keeps_ite | split

theorem State.tilHandback_keeps {a s : State} (h : a.Keeps s) (x2 : _) (x3 : _) :
    a.Keeps (State.tilHandback s x2 x3) := by
  unfold State.tilHandback
  repeat' first | intro _ | with_reducible first | assumption | apply State.calForMap_keeps | apply State.wr_keeps | apply State.tilHold_keeps | apply keeps_ite | split

theorem execTilCtrlHandback_keeps {a s : State} (h : a.Keeps s) (x1 : _) (x2 : _) (x3 : _) :
    a.KeepsR (execTilCtrlHandback x1 x2 x3 s) := by
  unfold execTilCtrlHandback
  repeat' first | intro _ | with_reducible first | assumption | apply keepsR_next | apply keepsR_ite | apply State.order_keeps | apply State.when_keeps | apply State.tilHandback_keeps | apply keeps_ite | split

end Sys2Proof.Machine
end

