-- ==== Sys2Proof/Laws/KeepsCalib.lean ====
section
/-!
SUPPORT. Laws/KeepsCalib.lean: the operations of Machine/Calib.lean keep what Laws/Keeps.lean names.
-/

set_option linter.unusedTactic false
set_option linter.unusedVariables false
set_option linter.tactic.unusedName false
set_option linter.unreachableTactic false

namespace Sys2Proof.Machine

theorem State.traceStart_keeps {a s : State} (h : a.Keeps s) (x2 : _) :
    a.Keeps (State.traceStart s x2) := by
  unfold State.traceStart
  repeat' first | intro _ | with_reducible first | assumption | apply State.updMon_keeps | apply State.setAx_keeps

theorem State.traceBegin_keeps {a s : State} (h : a.Keeps s) (x2 : _) :
    a.Keeps (State.traceBegin s x2) := by
  unfold State.traceBegin
  repeat' first | intro _ | with_reducible first | assumption | apply State.setAx_keeps | apply State.traceStart_keeps | apply keeps_ite | split

theorem State.traceAsk_keeps {a s : State} (h : a.Keeps s) (x2 : _) :
    a.Keeps (State.traceAsk s x2) := by
  unfold State.traceAsk
  repeat' first | intro _ | ((fail_if_no_progress extract_lets +onlyGivenNames z); (refine keeps_cut (a := a) z ?_ fun hz => ?_) <;> [subst z; clear_value z]) | with_reducible first | assumption | apply State.wr_keeps | apply State.traceBegin_keeps | apply keeps_ite | split

theorem execCalCtrlTrace_keeps {a s : State} (h : a.Keeps s) (x1 : _) (x2 : _) :
    a.KeepsR (execCalCtrlTrace x1 x2 s) := by
  unfold execCalCtrlTrace
  repeat' first | intro _ | with_reducible first | assumption | apply keepsR_next | apply keepsR_ite | apply State.order_keeps | apply State.when_keeps | apply State.traceAsk_keeps | apply keeps_ite | split

theorem State.driftAge_keeps {a s : State} (h : a.Keeps s) (x2 : _) (x3 : _) :
    a.Keeps (State.driftAge s x2 x3) := by
  unfold State.driftAge
  repeat' first | intro _ | with_reducible first | assumption | apply State.setCause_keeps | apply keeps_ite | split

theorem State.countRows_keeps {a s : State} (h : a.Keeps s) (x2 : _) (x3 : _) (x4 : _) :
    a.Keeps (State.countRows s x2 x3 x4) := by
  unfold State.countRows
  repeat' first | intro _ | ((fail_if_no_progress extract_lets +onlyGivenNames z); (refine keeps_cut (a := a) z ?_ fun hz => ?_) <;> [subst z; clear_value z]) | with_reducible first | assumption | apply State.setAx_keeps | apply State.wr_keeps | apply foldl_keeps

theorem State.takeNew_keeps {a s : State} (h : a.Keeps s) (x2 : _) (x3 : _) :
    a.Keeps (State.takeNew s x2 x3) := by
  unfold State.takeNew
  repeat' first | intro _ | ((fail_if_no_progress extract_lets +onlyGivenNames z); (refine keeps_cut (a := a) z ?_ fun hz => ?_) <;> [subst z; clear_value z]) | with_reducible first | assumption | apply State.each_keeps | apply State.setTab_keeps | apply State.takeTemp_keeps | apply State.dropTab_keeps

theorem State.calTileBack_keeps {a s : State} (h : a.Keeps s) (x2 : _) (x3 : _) :
    a.Keeps (State.calTileBack s x2 x3) := by
  unfold State.calTileBack
  repeat' first | intro _ | with_reducible first | assumption | apply State.calForMap_keeps | apply State.aim_keeps | apply State.takeFull_keeps | apply State.updTile_keeps | apply State.takeNew_keeps

theorem State.endTraceOps_keeps {a s : State} (h : a.Keeps s) (x2 : _) :
    a.Keeps (State.endTraceOps s x2) := by
  unfold State.endTraceOps
  repeat' first | intro _ | with_reducible first | assumption | apply State.each_keeps | apply State.endOp_keeps | split

theorem State.fullRejected_keeps {a s : State} (h : a.Keeps s) (x2 : _) (x3 : _) (x4 : _) :
    a.Keeps (State.fullRejected s x2 x3 x4) := by
  unfold State.fullRejected
  repeat' first | intro _ | ((fail_if_no_progress extract_lets +onlyGivenNames z); first | (refine keeps_cut (a := a) z ?_ fun hz => ?_) <;> [subst z; clear_value z] | clear_value z) | with_reducible first | assumption | apply State.progPush_keeps | apply State.replaceTile_keeps | apply State.dropRefresh_keeps | apply State.queueCal_keeps | apply keeps_ite | split

theorem State.dropCal_keeps {a s : State} (h : a.Keeps s) (x2 : _) (x3 : _) :
    a.Keeps (State.dropCal s x2 x3) := by
  unfold State.dropCal
  repeat' first | intro _ | ((fail_if_no_progress extract_lets +onlyGivenNames z); (refine keeps_cut (a := a) z ?_ fun hz => ?_) <;> [subst z; clear_value z]) | with_reducible first | assumption | apply State.wr_keeps | fail_if_no_progress apply keeps_mk | split

theorem State.calBadRows_keeps {a s : State} (h : a.Keeps s) (x2 : _) (x3 : _) (x4 : _) :
    a.Keeps (State.calBadRows s x2 x3 x4) := by
  unfold State.calBadRows
  repeat' first | intro _ | with_reducible first | assumption | apply State.elementFails_keeps | apply keeps_ite | split

theorem State.calRejoin_keeps {a s : State} (h : a.Keeps s) (x2 : _) (x3 : _) :
    a.Keeps (State.calRejoin s x2 x3) := by
  unfold State.calRejoin
  repeat' first | intro _ | with_reducible first | assumption | apply State.wantJoin_keeps | apply keeps_ite | split

theorem State.suspect_keeps {a s : State} (h : a.Keeps s) (x2 : _) (x3 : _) :
    a.Keeps (State.suspect s x2 x3) := by
  unfold State.suspect
  repeat' first | intro _ | ((fail_if_no_progress extract_lets +onlyGivenNames z); (refine keeps_cut (a := a) z ?_ fun hz => ?_) <;> [subst z; clear_value z]) | with_reducible first | assumption | apply State.event_keeps | apply State.wr_keeps | apply State.scheduleRefresh_keeps | apply keeps_ite | split

theorem State.calReject_keeps {a s : State} (h : a.Keeps s) (x2 : _) (x3 : _) (x4 : _) (x5 : _) (x6 : _) :
    a.Keeps (State.calReject s x2 x3 x4 x5 x6) := by
  unfold State.calReject
  repeat' first | intro _ | ((fail_if_no_progress extract_lets +onlyGivenNames z); first | (refine keeps_cut (a := a) z ?_ fun hz => ?_) <;> [subst z; clear_value z] | clear_value z) | with_reducible first | assumption | apply State.setCause_keeps | apply State.bump_keeps | apply State.wr_keeps | apply State.updTile_keeps | apply State.event_keeps | apply State.suspect_keeps | apply keeps_ite | split

theorem State.refreshCalibrated_keeps {a s : State} (h : a.Keeps s) (x2 : _) (x3 : _) :
    a.Keeps (State.refreshCalibrated s x2 x3) := by
  unfold State.refreshCalibrated
  repeat' first | intro _ | with_reducible first | assumption | fail_if_no_progress apply keeps_mk | apply keeps_ite | split

theorem State.unitCells_keeps {a s : State} (h : a.Keeps s) (x2 : _) (x3 : _) (x4 : _) :
    a.Keeps (State.unitCells s x2 x3 x4) := by
  unfold State.unitCells
  repeat' first | intro _ | ((fail_if_no_progress extract_lets +onlyGivenNames z); first | (refine keeps_cut (a := a) z ?_ fun hz => ?_) <;> [subst z; clear_value z] | clear_value z) | with_reducible first | assumption | apply State.each_keeps | apply State.setTab_keeps | apply State.setAx_keeps | apply keeps_ite | split

theorem State.keepTaps_keeps {a s : State} (h : a.Keeps s) (x2 : _) (x3 : _) (x4 : _) :
    a.Keeps (State.keepTaps s x2 x3 x4) := by
  unfold State.keepTaps
  repeat' first | intro _ | with_reducible first | assumption | apply State.setAx_keeps | apply State.each_keeps | apply State.setTab_keeps

theorem State.altRows_keeps {a s : State} (h : a.Keeps s) (x2 : _) (x3 : _) :
    a.Keeps (State.altRows s x2 x3) := by
  unfold State.altRows
  repeat' first | intro _ | ((fail_if_no_progress extract_lets +onlyGivenNames z); clear_value z) | with_reducible first | assumption | apply State.wr_keeps | split

theorem State.calAccept_keeps {a s : State} (h : a.Keeps s) (x2 : _) (x3 : _) (x4 : _) (x5 : _) (x6 : _) :
    a.Keeps (State.calAccept s x2 x3 x4 x5 x6) := by
  unfold State.calAccept
  repeat' first | intro _ | ((fail_if_no_progress extract_lets +onlyGivenNames z); (refine keeps_cut (a := a) z ?_ fun hz => ?_) <;> [subst z; clear_value z]) | with_reducible first | assumption | apply State.each_keeps | apply State.setTab_keeps | apply State.takeFull_keeps | apply State.updTile_keeps | apply State.setCause_keeps | apply State.aim_keeps | apply State.wr_keeps

theorem State.fullAccept_keeps {a s : State} (h : a.Keeps s) (x2 : _) (x3 : _) (x4 : _) (x5 : _) :
    a.Keeps (State.fullAccept s x2 x3 x4 x5) := by
  unfold State.fullAccept
  repeat' first | intro _ | ((fail_if_no_progress extract_lets +onlyGivenNames z); first | (refine keeps_cut (a := a) z ?_ fun hz => ?_) <;> [subst z; clear_value z] | clear_value z) | with_reducible first | assumption | apply State.each_keeps | apply State.setTab_keeps | apply State.unitCells_keeps | apply State.keepTaps_keeps | apply State.setCause_keeps | apply State.updTile_keeps | apply State.recWrite_keeps | apply State.altRows_keeps | apply State.calAccept_keeps | apply State.wr_keeps | apply keeps_ite | split

theorem State.fullResult_keeps {a s : State} (h : a.Keeps s) (x2 : _) (x3 : _) (x4 : _) (x5 : _) (x6 : _) :
    a.Keeps (State.fullResult s x2 x3 x4 x5 x6) := by
  unfold State.fullResult
  repeat' first | intro _ | with_reducible first | assumption | apply State.fullRejected_keeps | apply State.calReject_keeps | apply State.refreshCalibrated_keeps | apply State.fullAccept_keeps | split

theorem State.fullEnd_keeps {a s : State} (h : a.Keeps s) (x2 : _) (x3 : _) (x4 : _) (x5 : _) :
    a.Keeps (State.fullEnd s x2 x3 x4 x5) := by
  unfold State.fullEnd
  repeat' first | intro _ | ((fail_if_no_progress extract_lets +onlyGivenNames z); first | (refine keeps_cut (a := a) z ?_ fun hz => ?_) <;> [subst z; clear_value z] | clear_value z) | with_reducible first | assumption | apply State.bump_keeps | apply State.wr_keeps | apply State.countRows_keeps | apply State.dropCal_keeps | apply State.calBadRows_keeps | apply State.calRejoin_keeps | apply State.fullOver_keeps | apply State.fullResult_keeps | apply State.roundTileDone_keeps | apply State.endOp_keeps | apply State.pump_keeps | apply State.mapCheckOf_keeps | apply State.calForMap_keeps | apply keeps_ite | split

theorem execFullCalEnd_keeps {a s : State} (h : a.Keeps s) (x1 : _) (x2 : _) (x3 : _) :
    a.KeepsR (execFullCalEnd x1 x2 x3 s) := by
  unfold execFullCalEnd
  repeat' first | intro _ | with_reducible first | assumption | apply keepsR_next | apply keepsR_ite | apply State.fullEnd_keeps | apply keeps_ite | split

theorem State.setTrace_keeps {a s : State} (h : a.Keeps s) (x2 : _) (x3 : _) :
    a.Keeps (State.setTrace s x2 x3) := by
  unfold State.setTrace
  repeat' first | intro _ | with_reducible first | assumption | apply State.setTab_keeps | apply keeps_ite | split

theorem State.traceCause_keeps {a s : State} (h : a.Keeps s) (x2 : _) (x3 : _) :
    a.Keeps (State.traceCause s x2 x3) := by
  unfold State.traceCause
  repeat' first | intro _ | with_reducible first | assumption | apply State.each_keeps | apply State.setCause_keeps

theorem State.traceAccept_keeps {a s : State} (h : a.Keeps s) (x2 : _) (x3 : _) (x4 : _) :
    a.Keeps (State.traceAccept s x2 x3 x4) := by
  unfold State.traceAccept
  repeat' first | intro _ | ((fail_if_no_progress extract_lets +onlyGivenNames z); (refine keeps_cut (a := a) z ?_ fun hz => ?_) <;> [subst z; clear_value z]) | with_reducible first | assumption | apply State.wr_keeps | apply State.setTrace_keeps | apply State.setAx_keeps | apply State.event_keeps | apply State.traceCause_keeps | apply State.each_keeps | apply State.aim_keeps | apply keeps_ite | split

theorem State.traceReject_keeps {a s : State} (h : a.Keeps s) (x2 : _) (x3 : _) :
    a.Keeps (State.traceReject s x2 x3) := by
  unfold State.traceReject
  repeat' first | intro _ | ((fail_if_no_progress extract_lets +onlyGivenNames z); first | (refine keeps_cut (a := a) z ?_ fun hz => ?_) <;> [subst z; clear_value z] | clear_value z) | with_reducible first | assumption | apply State.wr_keeps | apply State.setAx_keeps | apply State.event_keeps | apply State.traceCause_keeps

theorem State.traceEnd_keeps {a s : State} (h : a.Keeps s) (x2 : _) (x3 : _) :
    a.Keeps (State.traceEnd s x2 x3) := by
  unfold State.traceEnd
  repeat' first | intro _ | ((fail_if_no_progress extract_lets +onlyGivenNames z); first | (refine keeps_cut (a := a) z ?_ fun hz => ?_) <;> [subst z; clear_value z] | clear_value z) | with_reducible first | assumption | apply State.setTab_keeps | apply State.wr_keeps | apply State.setAx_keeps | apply State.endTraceOps_keeps | apply State.traceAccept_keeps | apply State.traceReject_keeps | apply keeps_ite | split

theorem State.traceNext_keeps {a s : State} (h : a.Keeps s) :
    a.Keeps (State.traceNext s) := by
  unfold State.traceNext
  repeat' first | intro _ | with_reducible first | assumption | apply State.traceBegin_keeps | split

theorem execTraceEnd_keeps {a s : State} (h : a.Keeps s) (x1 : _) (x2 : _) :
    a.KeepsR (execTraceEnd x1 x2 s) := by
  unfold execTraceEnd
  repeat' first | intro _ | with_reducible first | assumption | apply keepsR_next | apply keepsR_ite | apply State.traceNext_keeps | apply State.traceEnd_keeps | apply keeps_ite | split

theorem State.calExpertShow_keeps {a s : State} (h : a.Keeps s) (x2 : _) :
    a.Keeps (State.calExpertShow s x2) := by
  unfold State.calExpertShow
  repeat' first | intro _ | with_reducible first | assumption | apply State.wr_keeps | split

theorem State.calResume_keeps {a s : State} (h : a.Keeps s) (x2 : _) :
    a.Keeps (State.calResume s x2) := by
  unfold State.calResume
  repeat' first | intro _ | ((fail_if_no_progress extract_lets +onlyGivenNames z); first | (refine keeps_cut (a := a) z ?_ fun hz => ?_) <;> [subst z; clear_value z] | clear_value z) | with_reducible first | assumption | apply State.setTrace_keeps | apply State.each_keeps | apply State.takeFull_keeps | apply State.aim_keeps | apply State.startCal_keeps | apply State.startRefresh_keeps | fail_if_no_progress apply keeps_mk | apply keeps_ite | split

theorem State.calHandback_keeps {a s : State} (h : a.Keeps s) (x2 : _) :
    a.Keeps (State.calHandback s x2) := by
  unfold State.calHandback
  repeat' first | intro _ | ((fail_if_no_progress extract_lets +onlyGivenNames z); first | (refine keeps_cut (a := a) z ?_ fun hz => ?_) <;> [subst z; clear_value z] | clear_value z) | with_reducible first | assumption | apply State.resetReg_keeps | apply State.setAx_keeps | apply State.wr_keeps | apply State.each_keeps | apply State.calTileBack_keeps | apply State.calExpertShow_keeps | apply State.calResume_keeps | apply keeps_ite | split

theorem State.quickEnd_keeps {a s : State} (h : a.Keeps s) (x2 : _) (x3 : _) (x4 : _) (x5 : _) :
    a.Keeps (State.quickEnd s x2 x3 x4 x5) := by
  unfold State.quickEnd
  repeat' first | intro _ | ((fail_if_no_progress extract_lets +onlyGivenNames z); first | (refine keeps_cut (a := a) z ?_ fun hz => ?_) <;> [subst z; clear_value z] | clear_value z) | with_reducible first | assumption | apply State.dropCal_keeps | apply State.calReject_keeps | apply State.calAccept_keeps | apply State.pump_keeps | apply State.replCal_keeps | apply State.endOp_keeps | split

theorem execTraceDue_keeps {a s : State} (h : a.Keeps s) (x1 : _) :
    a.KeepsR (execTraceDue x1 s) := by
  unfold execTraceDue
  repeat' first | intro _ | with_reducible first | assumption | apply keepsR_next | apply keepsR_ite | apply State.traceBegin_keeps | apply keeps_ite | split

theorem State.postCheck_keeps {a s : State} (h : a.Keeps s) (x2 : _) (x3 : _) (x4 : _) :
    a.Keeps (State.postCheck s x2 x3 x4) := by
  unfold State.postCheck
  repeat' first | intro _ | with_reducible first | assumption | fail_if_no_progress apply keeps_mk | apply keeps_ite | split

theorem execQuickCalEnd_keeps {a s : State} (h : a.Keeps s) (x1 : _) (x2 : _) (x3 : _) :
    a.KeepsR (execQuickCalEnd x1 x2 x3 s) := by
  unfold execQuickCalEnd
  repeat' first | intro _ | with_reducible first | assumption | apply keepsR_next | apply keepsR_ite | apply State.quickEnd_keeps | apply keeps_ite | split

theorem State.fullStart_keeps {a s : State} (h : a.Keeps s) (x2 : _) (x3 : _) (x4 : _) :
    a.Keeps (State.fullStart s x2 x3 x4) := by
  unfold State.fullStart
  repeat' first | intro _ | ((fail_if_no_progress extract_lets +onlyGivenNames z); (refine keeps_cut (a := a) z ?_ fun hz => ?_) <;> [subst z; clear_value z]) | with_reducible first | assumption | apply State.startCal_keeps | apply State.setAx_keeps | apply State.wr_keeps | fail_if_no_progress apply keeps_mk | split

theorem execTraceRetry_keeps {a s : State} (h : a.Keeps s) (x1 : _) :
    a.KeepsR (execTraceRetry x1 s) := by
  unfold execTraceRetry
  repeat' first | intro _ | with_reducible first | assumption | apply keepsR_next | apply keepsR_ite | apply State.traceBegin_keeps | apply keeps_ite | split

theorem State.calMove_keeps {a s : State} (h : a.Keeps s) (x2 : _) :
    a.Keeps (State.calMove s x2) := by
  unfold State.calMove
  repeat' first | intro _ | ((fail_if_no_progress extract_lets +onlyGivenNames z); first | (refine keeps_cut (a := a) z ?_ fun hz => ?_) <;> [subst z; clear_value z] | clear_value z) | with_reducible first | assumption | apply State.fullStart_keeps | apply State.startRefresh_keeps | apply State.wantHold_keeps | fail_if_no_progress apply keeps_mk | apply keeps_ite | split

theorem State.fullNext_keeps {a s : State} (h : a.Keeps s) (x2 : _) :
    a.Keeps (State.fullNext s x2) := by
  unfold State.fullNext
  repeat' first | intro _ | ((fail_if_no_progress extract_lets +onlyGivenNames z); clear_value z) | with_reducible first | assumption | apply State.calMove_keeps | apply foldl_keeps | apply keeps_ite | split

theorem State.calHold_keeps {a s : State} (h : a.Keeps s) (x2 : _) (x3 : _) :
    a.Keeps (State.calHold s x2 x3) := by
  unfold State.calHold
  repeat' first | intro _ | ((fail_if_no_progress extract_lets +onlyGivenNames z); (refine keeps_cut (a := a) z ?_ fun hz => ?_) <;> [subst z; clear_value z]) | with_reducible first | assumption | apply State.calExpertShow_keeps | apply State.wr_keeps | apply State.setAx_keeps | apply State.calResume_keeps | apply keeps_ite | split

theorem execCalHandbackGo_keeps {a s : State} (h : a.Keeps s) (x1 : _) (x2 : _) (x3 : _) :
    a.KeepsR (execCalHandbackGo x1 x2 x3 s) := by
  unfold execCalHandbackGo
  repeat' first | intro _ | with_reducible first | assumption | apply keepsR_next | apply keepsR_ite | apply State.order_keeps | apply State.when_keeps | apply State.calExpertShow_keeps | apply State.calTileBack_keeps | apply keeps_ite | split

theorem execCalCtrlHoldWrite_keeps {a s : State} (h : a.Keeps s) (x1 : _) (x2 : _) :
    a.KeepsR (execCalCtrlHoldWrite x1 x2 s) := by
  unfold execCalCtrlHoldWrite
  repeat' first | intro _ | with_reducible first | assumption | apply keepsR_next | apply keepsR_ite | apply State.order_keeps | apply State.calHold_keeps | apply keeps_ite | split

theorem execFullCalStart_keeps {a s : State} (h : a.Keeps s) (x1 : _) :
    a.KeepsR (execFullCalStart x1 s) := by
  unfold execFullCalStart
  repeat' first | intro _ | with_reducible first | assumption | apply keepsR_next | apply State.fullNext_keeps

theorem State.driftUpdate_keeps {a s : State} (h : a.Keeps s) (x2 : _) (x3 : _) :
    a.Keeps (State.driftUpdate s x2 x3) := by
  unfold State.driftUpdate
  repeat' first | intro _ | ((fail_if_no_progress extract_lets +onlyGivenNames z); first | (refine keeps_cut (a := a) z ?_ fun hz => ?_) <;> [subst z; clear_value z] | clear_value z) | with_reducible first | assumption | apply State.updTile_keeps | apply State.calReject_keeps | apply State.setCause_keeps | apply State.setTab_keeps | apply State.aim_keeps | apply keeps_ite | split

theorem State.spread_keeps {a s : State} (h : a.Keeps s) (x2 : _) (x3 : _) (x4 : _) :
    a.Keeps (State.spread s x2 x3 x4) := by
  unfold State.spread
  repeat' first | intro _ | ((fail_if_no_progress extract_lets +onlyGivenNames z); first | (refine keeps_cut (a := a) z ?_ fun hz => ?_) <;> [subst z; clear_value z] | clear_value z) | with_reducible first | assumption | apply State.setTab_keeps | apply State.updTile_keeps | apply State.scheduleRefresh_keeps | apply keeps_ite | split

theorem State.driftInterval_keeps {a s : State} (h : a.Keeps s) (x2 : _) (x3 : _) (x4 : _) :
    a.Keeps (State.driftInterval s x2 x3 x4) := by
  unfold State.driftInterval
  repeat' first | intro _ | ((fail_if_no_progress extract_lets +onlyGivenNames z); first | (refine keeps_cut (a := a) z ?_ fun hz => ?_) <;> [subst z; clear_value z] | clear_value z) | with_reducible first | assumption | apply State.setAx_keeps | apply State.each_keeps | apply State.setTab_keeps | apply State.driftUpdate_keeps | apply State.postCheck_keeps | apply State.driftAge_keeps | apply State.spread_keeps | apply keeps_ite | split

theorem State.refreshDone_keeps {a s : State} (h : a.Keeps s) (x2 : _) :
    a.Keeps (State.refreshDone s x2) := by
  unfold State.refreshDone
  repeat' first | intro _ | ((fail_if_no_progress extract_lets +onlyGivenNames z); first | (refine keeps_cut (a := a) z ?_ fun hz => ?_) <;> [subst z; clear_value z] | clear_value z) | with_reducible first | assumption | apply State.event_keeps | apply State.endOp_keeps | fail_if_no_progress apply keeps_mk | apply keeps_ite | split

theorem execCalCtrlClear_keeps {a s : State} (h : a.Keeps s) (x1 : _) (x2 : _) :
    a.KeepsR (execCalCtrlClear x1 x2 s) := by
  unfold execCalCtrlClear
  repeat' first | intro _ | with_reducible first | assumption | apply keepsR_next | apply keepsR_ite | apply State.order_keeps | apply State.when_keeps | apply State.wr_keeps | apply keeps_ite | split

theorem State.tabWrite_keeps {a s : State} (h : a.Keeps s) (x2 : _) (x3 : _) :
    a.Keeps (State.tabWrite s x2 x3) := by
  unfold State.tabWrite
  repeat' first | intro _ | ((fail_if_no_progress extract_lets +onlyGivenNames z); first | (refine keeps_cut (a := a) z ?_ fun hz => ?_) <;> [subst z; clear_value z] | clear_value z) | with_reducible first | assumption | apply State.wr_keeps | apply State.calExpertShow_keeps | apply State.updTile_keeps | apply State.setRecord_keeps | apply State.setTab_keeps | apply keeps_ite | split

theorem execDriftInterval_keeps {a s : State} (h : a.Keeps s) (x1 : _) (x2 : _) (x3 : _) :
    a.KeepsR (execDriftInterval x1 x2 x3 s) := by
  unfold execDriftInterval
  repeat' first | intro _ | with_reducible first | assumption | apply keepsR_next | apply keepsR_ite | apply State.driftInterval_keeps | apply keeps_ite | split

theorem execRecordHourlySave_keeps {a s : State} (h : a.Keeps s) (x1 : _) :
    a.KeepsR (execRecordHourlySave x1 s) := by
  unfold execRecordHourlySave
  repeat' first | intro _ | with_reducible first | assumption | apply keepsR_next | apply keepsR_ite | apply State.each_keeps | apply State.recSave_keeps | apply keeps_ite | split

theorem execCalCtrlHandback_keeps {a s : State} (h : a.Keeps s) (x1 : _) (x2 : _) :
    a.KeepsR (execCalCtrlHandback x1 x2 s) := by
  unfold execCalCtrlHandback
  repeat' first | intro _ | with_reducible first | assumption | apply keepsR_next | apply keepsR_ite | apply State.order_keeps | apply State.when_keeps | apply State.calHandback_keeps | apply keeps_ite | split

theorem State.tabNext_keeps {a s : State} (h : a.Keeps s) (x2 : _) :
    a.Keeps (State.tabNext s x2) := by
  unfold State.tabNext
  repeat' first | intro _ | with_reducible first | assumption | apply State.wr_keeps | apply keeps_ite | split

theorem execCalTabDataAccess_keeps {a s : State} (h : a.Keeps s) (x1 : _) (x2 : _) :
    a.KeepsR (execCalTabDataAccess x1 x2 s) := by
  unfold execCalTabDataAccess
  repeat' first | intro _ | with_reducible first | assumption | apply keepsR_next | apply keepsR_ite | apply State.tabNext_keeps | apply State.emit_keeps | apply State.order_keeps | apply State.tabWrite_keeps | apply keeps_ite | split

theorem execPeriodicFullCalDue_keeps {a s : State} (h : a.Keeps s) (x1 : _) (x2 : _) :
    a.KeepsR (execPeriodicFullCalDue x1 x2 s) := by
  unfold execPeriodicFullCalDue
  repeat' first | intro _ | ((fail_if_no_progress extract_lets +onlyGivenNames z); clear_value z) | with_reducible first | assumption | apply keepsR_next | apply keepsR_ite | apply State.queueCal_keeps | apply keeps_ite | split

theorem execRefreshEnd_keeps {a s : State} (h : a.Keeps s) (x1 : _) (x2 : _) :
    a.KeepsR (execRefreshEnd x1 x2 s) := by
  unfold execRefreshEnd
  repeat' first | intro _ | with_reducible first | assumption | apply keepsR_next | apply keepsR_ite | apply State.refreshDone_keeps | apply keeps_ite | split

end Sys2Proof.Machine
end

