-- ==== Sys2Proof/Laws/KeepsHem.lean ====
section
/-!
SUPPORT. Laws/KeepsHem.lean: the operations of Machine/Hem.lean keep what Laws/Keeps.lean names.
-/

set_option linter.unusedTactic false
set_option linter.unusedVariables false
set_option linter.tactic.unusedName false
set_option linter.unreachableTactic false

namespace Sys2Proof.Machine

theorem State.hemExpert_keeps {a s : State} (h : a.Keeps s) (x2 : _) (x3 : _) :
    a.Keeps (State.hemExpert s x2 x3) := by
  unfold State.hemExpert
  repeat' first | intro _ | with_reducible first | assumption | apply State.setAx_keeps

theorem State.hemCfg_keeps {a s : State} (h : a.Keeps s) (x2 : _) (x3 : _) (x4 : _) :
    a.Keeps (State.hemCfg s x2 x3 x4) := by
  unfold State.hemCfg
  repeat' first | intro _ | ((fail_if_no_progress extract_lets +onlyGivenNames z); (refine keeps_cut (a := a) z ?_ fun hz => ?_) <;> [subst z; clear_value z]) | with_reducible first | assumption | apply State.wr_keeps | apply State.setRange_keeps | apply State.hemExpert_keeps | apply keeps_ite | split

theorem execHemCfgWrite_keeps {a s : State} (h : a.Keeps s) (x1 : _) (x2 : _) (x3 : _) :
    a.KeepsR (execHemCfgWrite x1 x2 x3 s) := by
  unfold execHemCfgWrite
  repeat' first | intro _ | with_reducible first | assumption | apply keepsR_next | apply keepsR_ite | apply State.order_keeps | apply State.hemCfg_keeps | apply keeps_ite | split

theorem State.refCheck_keeps {a s : State} (h : a.Keeps s) (x2 : _) (x3 : _) (x4 : _) :
    a.Keeps (State.refCheck s x2 x3 x4).1 := by
  unfold State.refCheck
  repeat' first | intro _ | ((fail_if_no_progress extract_lets +onlyGivenNames z); first | (refine keeps_cut (a := a) z ?_ fun hz => ?_) <;> [subst z; clear_value z] | clear_value z) | with_reducible first | assumption | apply State.bump_keeps | apply State.updTile_keeps | apply foldl_keeps | apply keeps_ite | split

theorem State.hemHandback_keeps {a s : State} (h : a.Keeps s) (x2 : _) (x3 : _) :
    a.Keeps (State.hemHandback s x2 x3) := by
  unfold State.hemHandback
  repeat' first | intro _ | ((fail_if_no_progress extract_lets +onlyGivenNames z); clear_value z) | with_reducible first | assumption | apply State.takeFull_keeps | apply State.setAx_keeps | apply State.wr_keeps | apply State.setRange_keeps

theorem execHemCtrlHandback_keeps {a s : State} (h : a.Keeps s) (x1 : _) (x2 : _) (x3 : _) :
    a.KeepsR (execHemCtrlHandback x1 x2 x3 s) := by
  unfold execHemCtrlHandback
  repeat' first | intro _ | with_reducible first | assumption | apply keepsR_next | apply keepsR_ite | apply State.order_keeps | apply State.when_keeps | apply State.hemHandback_keeps | apply keeps_ite | split

theorem State.hemClear_keeps {a s : State} (h : a.Keeps s) (x2 : _) (x3 : _) :
    a.Keeps (State.hemClear s x2 x3) := by
  unfold State.hemClear
  repeat' first | intro _ | ((fail_if_no_progress extract_lets +onlyGivenNames z); (refine keeps_cut (a := a) z ?_ fun hz => ?_) <;> [subst z; clear_value z]) | with_reducible first | assumption | apply State.wr_keeps | apply State.setAx_keeps | apply foldl_keeps

theorem State.setLatch_keeps {a s : State} (h : a.Keeps s) (x2 : _) (x3 : _) (x4 : _) :
    a.Keeps (State.setLatch s x2 x3 x4) := by
  unfold State.setLatch
  repeat' first | intro _ | with_reducible first | assumption | fail_if_no_progress apply keeps_mk | split

theorem State.hemTaps_keeps {a s : State} (h : a.Keeps s) (x2 : _) (x3 : _) (x4 : _) :
    a.Keeps (State.hemTaps s x2 x3 x4) := by
  unfold State.hemTaps
  repeat' first | intro _ | with_reducible first | assumption | apply State.wr_keeps | apply State.setTaps_keeps | apply State.hemExpert_keeps | apply keeps_ite | split

theorem State.sameCodes_keeps {a s : State} (h : a.Keeps s) (x2 : _) (x3 : _) (x4 : _) (x5 : _) :
    a.Keeps (State.sameCodes s x2 x3 x4 x5).1 := by
  unfold State.sameCodes
  repeat' first | intro _ | ((fail_if_no_progress extract_lets +onlyGivenNames z); first | (refine keeps_cut (a := a) z ?_ fun hz => ?_) <;> [subst z; clear_value z] | clear_value z) | with_reducible first | assumption | apply State.updTile_keeps | apply foldl_keeps | apply keeps_ite | split

theorem State.mseAdd_keeps {a s : State} (h : a.Keeps s) (x2 : _) (x3 : _) (x4 : _) (x5 : _) :
    a.Keeps (State.mseAdd s x2 x3 x4 x5) := by
  unfold State.mseAdd
  repeat' first | intro _ | ((fail_if_no_progress extract_lets +onlyGivenNames z); clear_value z) | with_reducible first | assumption | apply State.setAx_keeps | apply State.wr_keeps | apply keeps_ite | split

theorem State.mseRef_keeps {a s : State} (h : a.Keeps s) (x2 : _) (x3 : _) (x4 : _) :
    a.Keeps (State.mseRef s x2 x3 x4) := by
  unfold State.mseRef
  repeat' first | intro _ | with_reducible first | assumption | apply State.mseAdd_keeps | apply State.setAx_keeps | split

theorem State.refSums_keeps {a s : State} (h : a.Keeps s) (x2 : _) (x3 : _) (x4 : _) :
    a.Keeps (State.refSums s x2 x3 x4) := by
  unfold State.refSums
  repeat' first | intro _ | ((fail_if_no_progress extract_lets +onlyGivenNames z); first | (refine keeps_cut (a := a) z ?_ fun hz => ?_) <;> [subst z; clear_value z] | clear_value z) | with_reducible first | assumption | apply State.each_keeps | apply State.mseRef_keeps | apply State.updTile_keeps | apply foldl_keeps | apply keeps_ite | split

theorem execHemTapsWrite_keeps {a s : State} (h : a.Keeps s) (x1 : _) (x2 : _) (x3 : _) :
    a.KeepsR (execHemTapsWrite x1 x2 x3 s) := by
  unfold execHemTapsWrite
  repeat' first | intro _ | with_reducible first | assumption | apply keepsR_next | apply keepsR_ite | apply State.order_keeps | apply State.hemTaps_keeps | apply keeps_ite | split

theorem execHemCtrlClear_keeps {a s : State} (h : a.Keeps s) (x1 : _) (x2 : _) (x3 : _) :
    a.KeepsR (execHemCtrlClear x1 x2 x3 s) := by
  unfold execHemCtrlClear
  repeat' first | intro _ | with_reducible first | assumption | apply keepsR_next | apply keepsR_ite | apply State.order_keeps | apply State.when_keeps | apply State.hemClear_keeps | apply keeps_ite | split

theorem State.countOuts_keeps {a s : State} (h : a.Keeps s) (x2 : _) (x3 : _) (x4 : _) (x5 : _) :
    a.Keeps (State.countOuts s x2 x3 x4 x5) := by
  unfold State.countOuts
  repeat' first | intro _ | ((fail_if_no_progress extract_lets +onlyGivenNames z); clear_value z) | with_reducible first | assumption | apply State.each_keeps | apply State.bump_keeps | apply State.mseAdd_keeps | apply keeps_ite | split

theorem State.checkEnd_keeps {a s : State} (h : a.Keeps s) (x2 : _) (x3 : _) (x4 : _) (x5 : _) :
    a.Keeps (State.checkEnd s x2 x3 x4 x5).1 := by
  unfold State.checkEnd
  repeat' first | intro _ | ((fail_if_no_progress extract_lets +onlyGivenNames z); first | (refine keeps_cut (a := a) z ?_ fun hz => ?_) <;> [subst z; clear_value z] | clear_value z) | with_reducible first | assumption | apply State.wr_keeps | apply State.bump_keeps | apply State.updTile_keeps | apply foldl_keeps | apply keeps_ite | split

end Sys2Proof.Machine
end

