-- ==== Sys2Proof/Laws/KeepsClocks.lean ====
section
/-!
SUPPORT. Laws/KeepsClocks.lean: the operations of Machine/Clocks.lean keep what Laws/Keeps.lean names.
-/

set_option linter.unusedTactic false
set_option linter.unusedVariables false
set_option linter.tactic.unusedName false
set_option linter.unreachableTactic false

namespace Sys2Proof.Machine

theorem State.setTime_keeps {a s : State} (h : a.Keeps s) (x2 : _) :
    a.Keeps (State.setTime s x2) := by
  unfold State.setTime
  repeat' first | intro _ | ((fail_if_no_progress extract_lets +onlyGivenNames z); clear_value z) | with_reducible first | assumption | apply State.event_keeps | fail_if_no_progress apply keeps_mk

theorem State.ppsAccepted_keeps {a s : State} (h : a.Keeps s) (x2 : _) :
    a.Keeps (State.ppsAccepted s x2) := by
  unfold State.ppsAccepted
  repeat' first | intro _ | ((fail_if_no_progress extract_lets +onlyGivenNames z); (refine keeps_cut (a := a) z ?_ fun hz => ?_) <;> [subst z; clear_value z]) | with_reducible first | assumption | apply State.setAx_keeps | apply State.event_keeps | apply State.wr_keeps | apply keeps_ite | split

theorem State.ppsEdge_keeps {a s : State} (h : a.Keeps s) :
    a.Keeps (State.ppsEdge s) := by
  unfold State.ppsEdge
  repeat' first | intro _ | ((fail_if_no_progress extract_lets +onlyGivenNames z); first | (refine keeps_cut (a := a) z ?_ fun hz => ?_) <;> [subst z; clear_value z] | clear_value z) | with_reducible first | assumption | apply State.ppsTrigger_keeps | apply State.ppsAccepted_keeps | apply State.wr_keeps | apply State.setTime_keeps | apply State.event_keeps | apply State.bump_keeps | apply State.setAx_keeps | fail_if_no_progress apply keeps_mk | apply keeps_ite | split

theorem State.firmwareGating_keeps {a s : State} (h : a.Keeps s) :
    a.Keeps (State.firmwareGating s) := by
  unfold State.firmwareGating
  repeat' first | intro _ | with_reducible first | assumption | apply State.each_keeps | apply State.wr_keeps

theorem State.clockFailedStart_keeps {a s : State} (h : a.Keeps s) :
    a.Keeps (State.clockFailedStart s) := by
  unfold State.clockFailedStart
  repeat' first | intro _ | ((fail_if_no_progress extract_lets +onlyGivenNames z); clear_value z) | with_reducible first | assumption | apply State.wr_keeps | apply State.setAx_keeps | apply keeps_ite | split

theorem State.clockLossEvent_keeps {a s : State} (h : a.Keeps s) (x2 : _) (x3 : _) (x4 : _) (x5 : _) :
    a.Keeps (State.clockLossEvent s x2 x3 x4 x5) := by
  unfold State.clockLossEvent
  repeat' first | intro _ | with_reducible first | assumption | apply State.event_keeps | apply keeps_ite | split

theorem State.pendingLoss_keeps {a s : State} (h : a.Keeps s) :
    a.Keeps (State.pendingLoss s) := by
  unfold State.pendingLoss
  repeat' first | intro _ | with_reducible first | assumption | apply State.clockLossEvent_keeps | apply State.setAx_keeps | apply keeps_ite | split

theorem State.onRc_keeps {a s : State} (h : a.Keeps s) :
    a.Keeps (State.onRc s) := by
  unfold State.onRc
  repeat' first | intro _ | ((fail_if_no_progress extract_lets +onlyGivenNames z); (refine keeps_cut (a := a) z ?_ fun hz => ?_) <;> [subst z; clear_value z]) | with_reducible first | assumption | apply State.pendingLoss_keeps | apply State.wr_keeps | apply State.setAx_keeps | apply State.restartFrom3_keeps | apply State.clockFailedStart_keeps | apply keeps_ite | split

theorem State.setLock_keeps {a s : State} (h : a.Keeps s) (x2 : _) (x3 : _) :
    a.Keeps (State.setLock s x2 x3) := by
  unfold State.setLock
  repeat' first | intro _ | with_reducible first | assumption | apply State.each_keeps | apply State.wr_keeps

theorem State.restoreClocks_keeps {a s : State} (h : a.Keeps s) :
    a.Keeps (State.restoreClocks s) := by
  unfold State.restoreClocks
  repeat' first | intro _ | ((fail_if_no_progress extract_lets +onlyGivenNames z); first | (refine keeps_cut (a := a) z ?_ fun hz => ?_) <;> [subst z; clear_value z] | clear_value z) | with_reducible first | assumption | apply State.setLock_keeps | apply State.wr_keeps | apply State.leaveSafe_keeps | apply State.event_keeps | apply State.faultJobs_keeps | apply State.setAx_keeps | fail_if_no_progress apply keeps_mk | apply foldl_keeps | apply keeps_ite | split

theorem State.sourceReady_keeps {a s : State} (h : a.Keeps s) (x2 : _) :
    a.Keeps (State.sourceReady s x2) := by
  unfold State.sourceReady
  repeat' first | intro _ | ((fail_if_no_progress extract_lets +onlyGivenNames z); (refine keeps_cut (a := a) z ?_ fun hz => ?_) <;> [subst z; clear_value z]) | with_reducible first | assumption | apply State.when_keeps | apply State.wr_keeps | apply State.setAx_keeps | apply State.restartFrom3_keeps | apply State.clockFailedStart_keeps | apply State.onRc_keeps | apply State.pendingLoss_keeps | apply State.restoreClocks_keeps | apply keeps_ite | split

theorem State.stopPlls_keeps {a s : State} (h : a.Keeps s) (x2 : _) (x3 : _) (x4 : _) :
    a.Keeps (State.stopPlls s x2 x3 x4) := by
  unfold State.stopPlls
  repeat' first | intro _ | with_reducible first | assumption | apply State.wr_keeps | apply State.setLock_keeps | apply foldl_keeps | apply keeps_ite | split

theorem State.gateRefused_keeps {a s : State} (h : a.Keeps s) :
    a.Keeps (State.gateRefused s) := by
  unfold State.gateRefused
  repeat' first | intro _ | with_reducible first | assumption | apply State.wr_keeps

theorem State.rootGate_keeps {a s : State} (h : a.Keeps s) (x2 : _) :
    a.Keeps (State.rootGate s x2) := by
  unfold State.rootGate
  repeat' first | intro _ | with_reducible first | assumption | apply State.gateRefused_keeps | apply State.wr_keeps | apply keeps_ite | split

theorem execClkCtrlRootWrite_keeps {a s : State} (h : a.Keeps s) (x1 : _) :
    a.KeepsR (execClkCtrlRootWrite x1 s) := by
  unfold execClkCtrlRootWrite
  repeat' first | intro _ | with_reducible first | assumption | apply keepsR_next | apply State.order_keeps | apply State.rootGate_keeps

theorem State.clkRefused_keeps {a s : State} (h : a.Keeps s) :
    a.Keeps (State.clkRefused s) := by
  unfold State.clkRefused
  repeat' first | intro _ | with_reducible first | assumption | apply State.wr_keeps

theorem State.setPll_keeps {a s : State} (h : a.Keeps s) (x2 : _) (x3 : _) :
    a.Keeps (State.setPll s x2 x3) := by
  unfold State.setPll
  repeat' first | intro _ | with_reducible first | assumption | apply State.wr_keeps

theorem State.pllChange_keeps {a s : State} (h : a.Keeps s) (x2 : _) (x3 : _) :
    a.Keeps (State.pllChange s x2 x3) := by
  unfold State.pllChange
  repeat' first | intro _ | ((fail_if_no_progress extract_lets +onlyGivenNames z); first | (refine keeps_cut (a := a) z ?_ fun hz => ?_) <;> [subst z; clear_value z] | clear_value z) | with_reducible first | assumption | apply State.setPll_keeps | apply State.setAx_keeps | apply State.setLock_keeps | apply keeps_ite | split

theorem State.pllWrite_keeps {a s : State} (h : a.Keeps s) (x2 : _) (x3 : _) :
    a.Keeps (State.pllWrite s x2 x3) := by
  unfold State.pllWrite
  repeat' first | intro _ | ((fail_if_no_progress extract_lets +onlyGivenNames z); clear_value z) | with_reducible first | assumption | apply State.clkRefused_keeps | apply State.wr_keeps | apply State.pllChange_keeps | apply keeps_ite | split

theorem execClkPllWrite_keeps {a s : State} (h : a.Keeps s) (x1 : _) (x2 : _) :
    a.KeepsR (execClkPllWrite x1 x2 s) := by
  unfold execClkPllWrite
  repeat' first | intro _ | with_reducible first | assumption | apply keepsR_next | apply State.order_keeps | apply State.pllWrite_keeps

theorem State.storeLeaves_keeps {a s : State} (h : a.Keeps s) :
    a.Keeps (State.storeLeaves s) := by
  unfold State.storeLeaves
  repeat' first | intro _ | with_reducible first | assumption | apply State.each_keeps | apply State.wr_keeps | apply keeps_ite | split

theorem State.gateWrite_keeps {a s : State} (h : a.Keeps s) (x2 : _) (x3 : _) (x4 : _) :
    a.Keeps (State.gateWrite s x2 x3 x4) := by
  unfold State.gateWrite
  repeat' first | intro _ | ((fail_if_no_progress extract_lets +onlyGivenNames z); first | (refine keeps_cut (a := a) z ?_ fun hz => ?_) <;> [subst z; clear_value z] | clear_value z) | with_reducible first | assumption | apply State.gateRefused_keeps | apply State.when_keeps | apply State.wr_keeps | apply State.storeLeaves_keeps | apply State.pump_keeps | apply State.setAx_keeps | apply keeps_ite | split

theorem State.mgmtSrc_keeps {a s : State} (h : a.Keeps s) (x2 : _) :
    a.Keeps (State.mgmtSrc s x2) := by
  unfold State.mgmtSrc
  repeat' first | intro _ | with_reducible first | assumption | apply State.clkRefused_keeps | apply State.wr_keeps | apply keeps_ite | split

theorem execClkCtrlMgmtSrcWrite_keeps {a s : State} (h : a.Keeps s) (x1 : _) :
    a.KeepsR (execClkCtrlMgmtSrcWrite x1 s) := by
  unfold execClkCtrlMgmtSrcWrite
  repeat' first | intro _ | with_reducible first | assumption | apply keepsR_next | apply State.order_keeps | apply State.mgmtSrc_keeps

theorem execClkDtctrlSet_keeps {a s : State} (h : a.Keeps s) (x1 : _) :
    a.KeepsR (execClkDtctrlSet x1 s) := by
  unfold execClkDtctrlSet
  repeat' first | intro _ | with_reducible first | assumption | apply keepsR_next | apply State.order_keeps | apply State.when_keeps | apply State.setTime_keeps | split

theorem State.sourceLoss_keeps {a s : State} (h : a.Keeps s) (x2 : _) (x3 : _) (x4 : _) :
    a.Keeps (State.sourceLoss s x2 x3 x4) := by
  unfold State.sourceLoss
  repeat' first | intro _ | ((fail_if_no_progress extract_lets +onlyGivenNames z); first | (refine keeps_cut (a := a) z ?_ fun hz => ?_) <;> [subst z; clear_value z] | clear_value z) | with_reducible first | assumption | apply State.wr_keeps | apply State.when_keeps | apply State.bump_keeps | apply State.setAx_keeps | apply State.event_keeps | apply State.stopPlls_keeps | apply State.enterSafe_keeps | apply State.clockLossEvent_keeps | fail_if_no_progress apply keeps_mk | apply keeps_ite | split

theorem execSourceLoss_keeps {a s : State} (h : a.Keeps s) (x1 : _) (x2 : _) (x3 : _) :
    a.KeepsR (execSourceLoss x1 x2 x3 s) := by
  unfold execSourceLoss
  repeat' first | intro _ | with_reducible first | assumption | apply keepsR_next | apply keepsR_ite | apply State.sourceLoss_keeps | apply keeps_ite | split

theorem execPpsErrorAbsorbed_keeps {a s : State} (h : a.Keeps s) :
    a.KeepsR (execPpsErrorAbsorbed s) := by
  unfold execPpsErrorAbsorbed
  repeat' first | intro _ | with_reducible first | assumption | apply keepsR_next | apply keepsR_ite | apply State.setAx_keeps | apply keeps_ite | split

theorem execClockOneShotExpiry_keeps {a s : State} (h : a.Keeps s) :
    a.KeepsR (execClockOneShotExpiry s) := by
  unfold execClockOneShotExpiry
  repeat' first | intro _ | with_reducible first | assumption | apply keepsR_next | apply keepsR_ite | apply State.wr_keeps | apply State.setAx_keeps | apply keeps_ite | split

theorem execSourceReady_keeps {a s : State} (h : a.Keeps s) (x1 : _) :
    a.KeepsR (execSourceReady x1 s) := by
  unfold execSourceReady
  repeat' first | intro _ | with_reducible first | assumption | apply keepsR_next | apply keepsR_ite | apply State.sourceReady_keeps | apply keeps_ite | split

theorem execPllRelockDone_keeps {a s : State} (h : a.Keeps s) (x1 : _) :
    a.KeepsR (execPllRelockDone x1 s) := by
  unfold execPllRelockDone
  repeat' first | intro _ | with_reducible first | assumption | apply keepsR_next | apply keepsR_fault | apply keepsR_ite | apply State.setLock_keeps | apply State.setAx_keeps | apply keeps_ite | split

theorem State.clkHandback_keeps {a s : State} (h : a.Keeps s) :
    a.Keeps (State.clkHandback s) := by
  unfold State.clkHandback
  repeat' first | intro _ | ((fail_if_no_progress extract_lets +onlyGivenNames z); first | (refine keeps_cut (a := a) z ?_ fun hz => ?_) <;> [subst z; clear_value z] | clear_value z) | with_reducible first | assumption | apply State.clkRefused_keeps | apply State.pllChange_keeps | apply State.wr_keeps | apply State.firmwareGating_keeps | apply foldl_keeps | apply keeps_ite | split

theorem State.gateOff_keeps {a s : State} (h : a.Keeps s) (x2 : _) (x3 : _) :
    a.Keeps (State.gateOff s x2 x3) := by
  unfold State.gateOff
  repeat' first | intro _ | ((fail_if_no_progress extract_lets +onlyGivenNames z); first | (refine keeps_cut (a := a) z ?_ fun hz => ?_) <;> [subst z; clear_value z] | clear_value z) | with_reducible first | assumption | apply State.setAx_keeps | apply State.wr_keeps | apply keeps_ite | split

theorem execGateOffEffect_keeps {a s : State} (h : a.Keeps s) (x1 : _) (x2 : _) :
    a.KeepsR (execGateOffEffect x1 x2 s) := by
  unfold execGateOffEffect
  repeat' first | intro _ | with_reducible first | assumption | apply keepsR_next | apply keepsR_ite | apply State.gateOff_keeps | apply keeps_ite | split

theorem execClkDtctrlSetPps_keeps {a s : State} (h : a.Keeps s) (x1 : _) :
    a.KeepsR (execClkDtctrlSetPps x1 s) := by
  unfold execClkDtctrlSetPps
  repeat' first | intro _ | with_reducible first | assumption | apply keepsR_next | apply State.order_keeps | apply State.when_keeps | apply State.wr_keeps | split

theorem execTimePpsEdge_keeps {a s : State} (h : a.Keeps s) :
    a.KeepsR (execTimePpsEdge s) := by
  unfold execTimePpsEdge
  repeat' first | intro _ | with_reducible first | assumption | apply keepsR_next | apply State.ppsEdge_keeps

theorem execPpsLossTimeout_keeps {a s : State} (h : a.Keeps s) :
    a.KeepsR (execPpsLossTimeout s) := by
  unfold execPpsLossTimeout
  repeat' first | intro _ | with_reducible first | assumption | apply keepsR_next | apply keepsR_ite | apply State.event_keeps | apply State.wr_keeps | apply keeps_ite | split

theorem execClkCtrlHandback_keeps {a s : State} (h : a.Keeps s) (x1 : _) :
    a.KeepsR (execClkCtrlHandback x1 s) := by
  unfold execClkCtrlHandback
  repeat' first | intro _ | with_reducible first | assumption | apply keepsR_next | apply State.order_keeps | apply State.when_keeps | apply State.clkHandback_keeps | split

theorem State.tick_keeps {a s : State} (h : a.Keeps s) :
    a.Keeps (State.tick s) := by
  unfold State.tick
  repeat' first | intro _ | with_reducible first | assumption | apply State.setAx_keeps | fail_if_no_progress apply keeps_mk | apply keeps_ite | split

theorem execClkGateWrite_keeps {a s : State} (h : a.Keeps s) (x1 : _) (x2 : _) (x3 : _) :
    a.KeepsR (execClkGateWrite x1 x2 x3 s) := by
  unfold execClkGateWrite
  repeat' first | intro _ | with_reducible first | assumption | apply keepsR_next | apply State.order_keeps | apply State.gateWrite_keeps

end Sys2Proof.Machine
end

