-- ==== Sys2Proof/Laws/KeepsPower.lean ====
section
/-!
SUPPORT. Laws/KeepsPower.lean: the operations of Machine/Power.lean keep what Laws/Keeps.lean names.
-/

set_option linter.unusedTactic false
set_option linter.unusedVariables false
set_option linter.tactic.unusedName false
set_option linter.unreachableTactic false

namespace Sys2Proof.Machine

theorem State.thermalCheck_keeps {a s : State} (h : a.Keeps s) (x2 : _) (x3 : _) :
    a.Keeps (State.thermalCheck s x2 x3) := by
  unfold State.thermalCheck
  repeat' first | intro _ | ((fail_if_no_progress extract_lets +onlyGivenNames z); (refine keeps_cut (a := a) z ?_ fun hz => ?_) <;> [subst z; clear_value z]) | with_reducible first | assumption | apply State.wr_keeps | apply State.setAx_keeps | apply State.event_keeps | apply keeps_ite | split

theorem State.addEnergy_keeps {a s : State} (h : a.Keeps s) :
    a.Keeps (State.addEnergy s) := by
  unfold State.addEnergy
  repeat' first | intro _ | ((fail_if_no_progress extract_lets +onlyGivenNames z); clear_value z) | with_reducible first | assumption | apply State.setAx_keeps | apply State.wr_keeps | apply foldl_keeps

theorem State.setDuty_keeps {a s : State} (h : a.Keeps s) (x2 : _) (x3 : _) :
    a.Keeps (State.setDuty s x2 x3) := by
  unfold State.setDuty
  repeat' first | intro _ | with_reducible first | assumption | apply State.wr_keeps | apply keeps_ite | split

theorem State.setThrottle_keeps {a s : State} (h : a.Keeps s) (x2 : _) :
    a.Keeps (State.setThrottle s x2) := by
  unfold State.setThrottle
  repeat' first | intro _ | with_reducible first | assumption | apply State.wr_keeps | apply keeps_ite | split

theorem State.powerDown_keeps {a s : State} (h : a.Keeps s) (x2 : _) :
    a.Keeps (State.powerDown s x2) := by
  unfold State.powerDown
  repeat' first | intro _ | ((fail_if_no_progress extract_lets +onlyGivenNames z); first | (refine keeps_cut (a := a) z ?_ fun hz => ?_) <;> [subst z; clear_value z] | clear_value z) | with_reducible first | assumption | apply State.each_keeps | apply State.setDuty_keeps | apply State.setThrottle_keeps | apply keeps_ite | split

theorem State.powerUp_keeps {a s : State} (h : a.Keeps s) :
    a.Keeps (State.powerUp s) := by
  unfold State.powerUp
  repeat' first | intro _ | ((fail_if_no_progress extract_lets +onlyGivenNames z); clear_value z) | with_reducible first | assumption | apply State.setThrottle_keeps | apply State.each_keeps | apply State.setDuty_keeps | apply keeps_ite | split

theorem State.applyCaps_keeps {a s : State} (h : a.Keeps s) :
    a.Keeps (State.applyCaps s) := by
  unfold State.applyCaps
  repeat' first | intro _ | ((fail_if_no_progress extract_lets +onlyGivenNames z); (refine keeps_cut (a := a) z ?_ fun hz => ?_) <;> [subst z; clear_value z]) | with_reducible first | assumption | apply State.setThrottle_keeps | apply State.each_keeps | apply State.setDuty_keeps | apply keeps_ite | split

theorem State.noteLimiting_keeps {a s : State} (h : a.Keeps s) (x2 : _) (x3 : _) :
    a.Keeps (State.noteLimiting s x2 x3) := by
  unfold State.noteLimiting
  repeat' first | intro _ | ((fail_if_no_progress extract_lets +onlyGivenNames z); first | (refine keeps_cut (a := a) z ?_ fun hz => ?_) <;> [subst z; clear_value z] | clear_value z) | with_reducible first | assumption | apply State.setAx_keeps | apply State.wr_keeps | apply State.event_keeps | apply keeps_ite | split

theorem State.powerMeasure_keeps {a s : State} (h : a.Keeps s) (x2 : _) :
    a.Keeps (State.powerMeasure s x2) := by
  unfold State.powerMeasure
  repeat' first | intro _ | ((fail_if_no_progress extract_lets +onlyGivenNames z); first | (refine keeps_cut (a := a) z ?_ fun hz => ?_) <;> [subst z; clear_value z] | clear_value z) | with_reducible first | assumption | apply State.addEnergy_keeps | apply State.each_keeps | apply State.wr_keeps | apply State.powerDown_keeps | apply State.powerUp_keeps | apply State.applyCaps_keeps | apply State.noteLimiting_keeps | apply keeps_ite | split

theorem execPowerMeasure_keeps {a s : State} (h : a.Keeps s) (x1 : _) :
    a.KeepsR (execPowerMeasure x1 s) := by
  unfold execPowerMeasure
  repeat' first | intro _ | with_reducible first | assumption | apply keepsR_next | apply State.powerMeasure_keeps

theorem execThermalCheck_keeps {a s : State} (h : a.Keeps s) (x1 : _) (x2 : _) :
    a.KeepsR (execThermalCheck x1 x2 s) := by
  unfold execThermalCheck
  repeat' first | intro _ | with_reducible first | assumption | apply keepsR_next | apply State.thermalCheck_keeps

theorem State.pwrHandback_keeps {a s : State} (h : a.Keeps s) :
    a.Keeps (State.pwrHandback s) := by
  unfold State.pwrHandback
  repeat' first | intro _ | ((fail_if_no_progress extract_lets +onlyGivenNames z); (refine keeps_cut (a := a) z ?_ fun hz => ?_) <;> [subst z; clear_value z]) | with_reducible first | assumption | apply State.resetReg_keeps | apply State.each_keeps | apply State.wr_keeps

theorem execPwrCtrlHandback_keeps {a s : State} (h : a.Keeps s) (x1 : _) :
    a.KeepsR (execPwrCtrlHandback x1 s) := by
  unfold execPwrCtrlHandback
  repeat' first | intro _ | with_reducible first | assumption | apply keepsR_next | apply State.order_keeps | apply State.when_keeps | apply State.pwrHandback_keeps | split

theorem State.thermalRestore_keeps {a s : State} (h : a.Keeps s) (x2 : _) (x3 : _) :
    a.Keeps (State.thermalRestore s x2 x3) := by
  unfold State.thermalRestore
  repeat' first | intro _ | ((fail_if_no_progress extract_lets +onlyGivenNames z); first | (refine keeps_cut (a := a) z ?_ fun hz => ?_) <;> [subst z; clear_value z] | clear_value z) | with_reducible first | assumption | apply State.setAx_keeps | apply State.wr_keeps | apply keeps_ite | split

theorem execThermalRestoreStep_keeps {a s : State} (h : a.Keeps s) (x1 : _) (x2 : _) :
    a.KeepsR (execThermalRestoreStep x1 x2 s) := by
  unfold execThermalRestoreStep
  repeat' first | intro _ | with_reducible first | assumption | apply keepsR_next | apply State.thermalRestore_keeps

theorem State.shedRelease_keeps {a s : State} (h : a.Keeps s) :
    a.Keeps (State.shedRelease s) := by
  unfold State.shedRelease
  repeat' first | intro _ | ((fail_if_no_progress extract_lets +onlyGivenNames z); first | (refine keeps_cut (a := a) z ?_ fun hz => ?_) <;> [subst z; clear_value z] | clear_value z) | with_reducible first | assumption | apply State.setAx_keeps | apply State.wr_keeps | apply State.event_keeps | apply keeps_ite | split

theorem execPwrShedRelease_keeps {a s : State} (h : a.Keeps s) :
    a.KeepsR (execPwrShedRelease s) := by
  unfold execPwrShedRelease
  repeat' first | intro _ | with_reducible first | assumption | apply keepsR_next | apply State.shedRelease_keeps

theorem State.shedAdvise_keeps {a s : State} (h : a.Keeps s) :
    a.Keeps (State.shedAdvise s) := by
  unfold State.shedAdvise
  repeat' first | intro _ | ((fail_if_no_progress extract_lets +onlyGivenNames z); clear_value z) | with_reducible first | assumption | apply State.event_keeps | apply State.setAx_keeps | apply keeps_ite | split

theorem State.keepShedOld_keeps {a s : State} (h : a.Keeps s) :
    a.Keeps (State.keepShedOld s) := by
  unfold State.keepShedOld
  repeat' first | intro _ | with_reducible first | assumption | apply State.setAx_keeps | apply State.each_keeps | apply keeps_ite | split

theorem execShedAdviseExpiry_keeps {a s : State} (h : a.Keeps s) :
    a.KeepsR (execShedAdviseExpiry s) := by
  unfold execShedAdviseExpiry
  repeat' first | intro _ | with_reducible first | assumption | apply keepsR_next | apply State.shedAdvise_keeps

theorem State.shedDutyStep_keeps {a s : State} (h : a.Keeps s) :
    a.Keeps (State.shedDutyStep s) := by
  unfold State.shedDutyStep
  repeat' first | intro _ | ((fail_if_no_progress extract_lets +onlyGivenNames z); clear_value z) | with_reducible first | assumption | apply State.each_keeps | apply State.setDuty_keeps | apply keeps_ite | split

theorem execShedDutyStep_keeps {a s : State} (h : a.Keeps s) :
    a.KeepsR (execShedDutyStep s) := by
  unfold execShedDutyStep
  repeat' first | intro _ | with_reducible first | assumption | apply keepsR_next | apply State.when_keeps | apply State.shedDutyStep_keeps

theorem State.thermalTrip_keeps {a s : State} (h : a.Keeps s) (x2 : _) (x3 : _) :
    a.Keeps (State.thermalTrip s x2 x3) := by
  unfold State.thermalTrip
  repeat' first | intro _ | ((fail_if_no_progress extract_lets +onlyGivenNames z); (refine keeps_cut (a := a) z ?_ fun hz => ?_) <;> [subst z; clear_value z]) | with_reducible first | assumption | apply State.dieSafe_keeps | apply State.wr_keeps | apply State.event_keeps | apply State.dieOffline_keeps | apply keeps_ite | split

theorem execThermalComparatorTrip_keeps {a s : State} (h : a.Keeps s) (x1 : _) (x2 : _) :
    a.KeepsR (execThermalComparatorTrip x1 x2 s) := by
  unfold execThermalComparatorTrip
  repeat' first | intro _ | with_reducible first | assumption | apply keepsR_next | apply State.thermalTrip_keeps

theorem State.shedOnEvent_keeps {a s : State} (h : a.Keeps s) :
    a.Keeps (State.shedOnEvent s) := by
  unfold State.shedOnEvent
  repeat' first | intro _ | with_reducible first | assumption | apply State.event_keeps | apply foldl_keeps

theorem State.shedRestore_keeps {a s : State} (h : a.Keeps s) :
    a.Keeps (State.shedRestore s) := by
  unfold State.shedRestore
  repeat' first | intro _ | ((fail_if_no_progress extract_lets +onlyGivenNames z); first | (refine keeps_cut (a := a) z ?_ fun hz => ?_) <;> [subst z; clear_value z] | clear_value z) | with_reducible first | assumption | apply State.setThrottle_keeps | apply State.each_keeps | apply State.setDuty_keeps | apply State.setAx_keeps | apply keeps_ite | split

theorem execShedRestoreStep_keeps {a s : State} (h : a.Keeps s) :
    a.KeepsR (execShedRestoreStep s) := by
  unfold execShedRestoreStep
  repeat' first | intro _ | with_reducible first | assumption | apply keepsR_next | apply State.shedRestore_keeps

theorem State.shedAssert_keeps {a s : State} (h : a.Keeps s) :
    a.Keeps (State.shedAssert s) := by
  unfold State.shedAssert
  repeat' first | intro _ | ((fail_if_no_progress extract_lets +onlyGivenNames z); (refine keeps_cut (a := a) z ?_ fun hz => ?_) <;> [subst z; clear_value z]) | with_reducible first | assumption | apply State.setAx_keeps | apply State.wr_keeps | apply State.shedOnEvent_keeps | apply State.keepShedOld_keeps | apply State.shedDutyStep_keeps | apply State.setThrottle_keeps | apply keeps_ite | split

theorem execPwrShedAssert_keeps {a s : State} (h : a.Keeps s) :
    a.KeepsR (execPwrShedAssert s) := by
  unfold execPwrShedAssert
  repeat' first | intro _ | with_reducible first | assumption | apply keepsR_next | apply State.shedAssert_keeps

theorem State.shedWindow_keeps {a s : State} (h : a.Keeps s) (x2 : _) :
    a.Keeps (State.shedWindow s x2) := by
  unfold State.shedWindow
  repeat' first | intro _ | ((fail_if_no_progress extract_lets +onlyGivenNames z); (refine keeps_cut (a := a) z ?_ fun hz => ?_) <;> [subst z; clear_value z]) | with_reducible first | assumption | apply State.wr_keeps | apply State.event_keeps | apply State.setAx_keeps | apply keeps_ite | split

theorem execShedWindowEnd_keeps {a s : State} (h : a.Keeps s) (x1 : _) :
    a.KeepsR (execShedWindowEnd x1 s) := by
  unfold execShedWindowEnd
  repeat' first | intro _ | with_reducible first | assumption | apply keepsR_next | apply State.shedWindow_keeps

end Sys2Proof.Machine
end

