-- ==== Sys2Proof/Laws/KeepsLoader.lean ====
section
/-!
SUPPORT. Laws/KeepsLoader.lean: the operations of Machine/Loader.lean keep what Laws/Keeps.lean names.
-/

set_option linter.unusedTactic false
set_option linter.unusedVariables false
set_option linter.tactic.unusedName false
set_option linter.unreachableTactic false

namespace Sys2Proof.Machine

theorem State.installProg_keeps {a s : State} (h : a.Keeps s) (x2 : _) (x3 : _) (x4 : _) :
    a.Keeps (State.installProg s x2 x3 x4) := by
  unfold State.installProg
  repeat' first | intro _ | ((fail_if_no_progress extract_lets +onlyGivenNames z); first | (refine keeps_cut (a := a) z ?_ fun hz => ?_) <;> [subst z; clear_value z] | clear_value z) | with_reducible first | assumption | apply State.each_keeps | apply State.copyProg_keeps | fail_if_no_progress apply keeps_mk | split

theorem State.programLoad_keeps {a s : State} (h : a.Keeps s) (x2 : _) (x3 : _) :
    a.Keeps (State.programLoad s x2 x3) := by
  unfold State.programLoad
  repeat' first | intro _ | ((fail_if_no_progress extract_lets +onlyGivenNames z); first | (refine keeps_cut (a := a) z ?_ fun hz => ?_) <;> [subst z; clear_value z] | clear_value z) | with_reducible first | assumption | apply State.completeCmd_keeps | apply State.aer_keeps | apply State.installProg_keeps | apply State.journals_keeps | apply keeps_ite | split

theorem execProgramLoad_keeps {a s : State} (h : a.Keeps s) (x1 : _) (x2 : _) :
    a.KeepsR (execProgramLoad x1 x2 s) := by
  unfold execProgramLoad
  repeat' first | intro _ | with_reducible first | assumption | apply keepsR_next | apply State.runCmd_keeps | apply State.programLoad_keeps

end Sys2Proof.Machine
end

