-- ==== Sys2Proof/Laws/KeepsTensor.lean ====
section
/-!
SUPPORT. Laws/KeepsTensor.lean: the operations of Machine/Tensor.lean keep what Laws/Keeps.lean names.
-/

set_option linter.unusedTactic false
set_option linter.unusedVariables false
set_option linter.tactic.unusedName false
set_option linter.unreachableTactic false

namespace Sys2Proof.Machine

theorem State.jobWrite_keeps {a s : State} (h : a.Keeps s) (x2 : _) (x3 : _) (x4 : _) (x5 : _) :
    a.KeepsE (State.jobWrite s x2 x3 x4 x5) := by
  unfold State.jobWrite
  repeat' first | intro _ | with_reducible first | assumption | apply keepsE_error | apply keepsE_ok | apply keepsE_ite | apply State.jobStore_keeps | apply keeps_ite | refine keeps_of2 (by assumption) ?_ | split

theorem State.jobWrites_keeps {a s : State} (h : a.Keeps s) (x2 : _) (x3 : _) :
    a.KeepsE (State.jobWrites s x2 x3) := by
  induction x3 generalizing s <;> [skip; rename_i ih]
  all_goals unfold State.jobWrites
  repeat' first | intro _ | with_reducible first | assumption | apply keepsE_error | apply keepsE_ok | apply State.jobWrite_keeps | refine keeps_ofE (by assumption) ?_ | apply ih | split

theorem State.putStep_keeps {a s : State} (h : a.Keeps s) (x2 : _) (x3 : _) (x4 : _) (x5 : _) :
    a.KeepsE (State.putStep s x2 x3 x4 x5) := by
  unfold State.putStep
  repeat' first | intro _ | with_reducible first | assumption | apply keepsE_error | apply keepsE_ok | apply State.jobWrites_keeps | refine keeps_ofE (by assumption) ?_

theorem State.countDeniedTds_keeps {a s : State} (h : a.Keeps s) (x2 : _) (x3 : _) :
    a.Keeps (State.countDeniedTds s x2 x3) := by
  unfold State.countDeniedTds
  repeat' first | intro _ | with_reducible first | assumption | apply State.each_keeps | apply State.bump_keeps | apply keeps_ite | split

theorem State.tensorTrap_keeps {a s : State} (h : a.Keeps s) (x2 : _) (x3 : _) (x4 : _) (x5 : _) :
    a.Keeps (State.tensorTrap s x2 x3 x4 x5) := by
  unfold State.tensorTrap
  repeat' first | intro _ | with_reducible first | assumption | apply State.trap_keeps | apply State.countDeniedTds_keeps | apply keeps_ite | split

theorem State.countStat_keeps {a s : State} (h : a.Keeps s) (x2 : _) (x3 : _) (x4 : _) (x5 : _) :
    a.KeepsE (State.countStat s x2 x3 x4 x5) := by
  unfold State.countStat
  repeat' first | intro _ | with_reducible first | assumption | apply keepsE_error | apply keepsE_ok | apply keepsE_ite | apply State.bump_keeps | apply State.jobWrite_keeps | apply keeps_ite | refine keeps_ofE (by assumption) ?_ | split

theorem State.setTracker_keeps {a s : State} (h : a.Keeps s) (x2 : _) (x3 : _) (x4 : _) :
    a.KeepsE (State.setTracker s x2 x3 x4) := by
  unfold State.setTracker
  repeat' first | intro _ | with_reducible first | assumption | apply keepsE_error | apply keepsE_ok | apply State.jobWrite_keeps | apply State.updJob_keeps | refine keeps_ofE (by assumption) ?_ | split

theorem State.writeStep_keeps {a s : State} (h : a.Keeps s) (x2 : _) (x3 : _) (x4 : _) (x5 : _) (x6 : _) :
    a.KeepsEP (State.writeStep s x2 x3 x4 x5 x6) := by
  unfold State.writeStep
  repeat' first | intro _ | ((fail_if_no_progress extract_lets +onlyGivenNames z); clear_value z) | with_reducible first | assumption | apply keepsEP_error | apply keepsEP_ok | apply State.putStep_keeps | apply State.jobWrite_keeps | apply State.setTracker_keeps | apply keeps_ite | refine keeps_ofE (by assumption) ?_ | split

theorem State.writeSteps_keeps {a s : State} (h : a.Keeps s) (x2 : _) (x3 : _) (x4 : _) (x5 : _) (x6 : _) :
    a.KeepsEP (State.writeSteps s x2 x3 x4 x5 x6) := by
  induction x5 generalizing s x6 <;> [skip; rename_i ih]
  all_goals unfold State.writeSteps
  repeat' first | intro _ | with_reducible first | assumption | apply keepsEP_error | apply keepsEP_ok | apply State.writeStep_keeps | refine keeps_ofEP (by assumption) ?_ | apply ih | split

theorem State.countDenied_keeps {a s : State} (h : a.Keeps s) (x2 : _) (x3 : _) (x4 : _) :
    a.Keeps (State.countDenied s x2 x3 x4) := by
  unfold State.countDenied
  repeat' first | intro _ | with_reducible first | assumption | apply State.bump_keeps | apply keeps_ite | split

theorem State.jobRead_keeps {a s : State} (h : a.Keeps s) (x2 : _) (x3 : _) (x4 : _) (x5 : _) :
    a.Keeps (State.jobRead s x2 x3 x4 x5).2 := by
  unfold State.jobRead
  repeat' first | intro _ | ((fail_if_no_progress extract_lets +onlyGivenNames z); (refine keeps_cut2 (a := a) z ?_ fun hz => ?_) <;> [subst z; clear_value z]) | with_reducible first | assumption | apply State.reads_keeps | apply keeps2_ite | apply keeps_ite | refine keeps_of2 (by assumption) ?_ | split

theorem State.keepTracker_keeps {a s : State} (h : a.Keeps s) (x2 : _) (x3 : _) :
    a.Keeps (State.keepTracker s x2 x3) := by
  unfold State.keepTracker
  repeat' first | intro _ | with_reducible first | assumption | apply State.updJob_keeps | split

end Sys2Proof.Machine
end

