-- ==== Sys2Proof/Laws/KeepsTask.lean ====
section
/-!
SUPPORT. Laws/KeepsTask.lean: the operations of Machine/Task.lean keep what Laws/Keeps.lean names.
-/

set_option linter.unusedTactic false
set_option linter.unusedVariables false
set_option linter.tactic.unusedName false
set_option linter.unreachableTactic false

namespace Sys2Proof.Machine

theorem State.upd_keeps {a s : State} (h : a.Keeps s) (x2 : _) (x3 : _) :
    a.Keeps (State.upd s x2 x3) := by
  unfold State.upd
  repeat' first | intro _ | with_reducible first | assumption | apply State.updTask_keeps

theorem State.jump_keeps {a s : State} (h : a.Keeps s) (x2 : _) (x3 : _) (x4 : _) :
    a.Keeps (State.jump s x2 x3 x4) := by
  unfold State.jump
  repeat' first | intro _ | ((fail_if_no_progress extract_lets +onlyGivenNames z); clear_value z) | with_reducible first | assumption | apply State.upd_keeps

theorem State.stopAgain_keeps {a s : State} (h : a.Keeps s) (x2 : _) :
    a.Keeps (State.stopAgain s x2) := by
  unfold State.stopAgain
  repeat' first | intro _ | ((fail_if_no_progress extract_lets +onlyGivenNames z); (refine keeps_cut (a := a) z ?_ fun hz => ?_) <;> [subst z; clear_value z]) | with_reducible first | assumption | apply State.updJob_keeps | apply State.setWait_keeps | apply keeps_ite | split

theorem State.retire_keeps {a s : State} (h : a.Keeps s) (x2 : _) (x3 : _) :
    a.Keeps (State.retire s x2 x3) := by
  unfold State.retire
  repeat' first | intro _ | ((fail_if_no_progress extract_lets +onlyGivenNames z); clear_value z) | with_reducible first | assumption | apply State.upd_keeps

theorem State.trapAt_keeps {a s : State} (h : a.Keeps s) (x2 : _) (x3 : _) :
    a.Keeps (State.trapAt s x2 x3) := by
  unfold State.trapAt
  repeat' first | intro _ | with_reducible first | assumption | apply State.trap_keeps

theorem State.reading_keeps {a s : State} (h : a.Keeps s) (x2 : _) (x3 : _) (x4 : _) (x5 : _) (x6 : _) (hx6 : ∀ y0, a.Keeps y0 → a.Keeps (x6 y0)) :
    a.Keeps (State.reading s x2 x3 x4 x5 x6) := by
  unfold State.reading
  repeat' first | intro _ | ((fail_if_no_progress extract_lets +onlyGivenNames z); (refine keeps_cut2 (a := a) z ?_ fun hz => ?_) <;> [subst z; clear_value z]) | with_reducible first | assumption | apply hx6 | apply State.trapAt_keeps | apply State.countDenied_keeps | apply State.jobRead_keeps | apply keeps_ite | refine keeps_of2 (by assumption) ?_ | split

theorem State.issue_keeps {a s : State} (h : a.Keeps s) (x2 : _) (x3 : _) (x4 : _) (hx4 : ∀ y0 y1, a.Keeps y0 → a.Keeps (x4 y0 y1)) :
    a.Keeps (State.issue s x2 x3 x4) := by
  unfold State.issue
  repeat' first | intro _ | ((fail_if_no_progress extract_lets +onlyGivenNames z); (refine keeps_cut (a := a) z ?_ fun hz => ?_) <;> [subst z; clear_value z]) | with_reducible first | assumption | apply hx4 | apply State.wr_keeps | apply State.retire_keeps | apply State.stopAgain_keeps | apply keeps_id | apply keeps_ite | split

theorem State.issueTicket_keeps {a s : State} (h : a.Keeps s) (x2 : _) (x3 : _) (x4 : _) :
    a.Keeps (State.issueTicket s x2 x3 x4) := by
  unfold State.issueTicket
  repeat' first | intro _ | ((fail_if_no_progress extract_lets +onlyGivenNames z); clear_value z) | with_reducible first | assumption | apply State.retire_keeps | apply keeps_ite | split

theorem State.launch_keeps {a s : State} (h : a.Keeps s) (x2 : _) (x3 : _) (x4 : _) (x5 : _) :
    a.Keeps (State.launch s x2 x3 x4 x5) := by
  unfold State.launch
  repeat' first | intro _ | ((fail_if_no_progress extract_lets +onlyGivenNames z); first | (first | refine keeps_cut (a := a) z ?_ fun hz => ?_ | refine keeps_cut2 (a := a) z ?_ fun hz => ?_) <;> [subst z; clear_value z] | clear_value z) | with_reducible first | assumption | apply State.nextIssue_keeps | apply State.issueTicket_keeps | fail_if_no_progress apply keeps_mk | apply keeps_ite | refine keeps_of2 (by assumption) ?_ | split

end Sys2Proof.Machine
end

