-- ==== Sys2Proof/Laws/KeepsMirror.lean ====
section
/-!
SUPPORT. Laws/KeepsMirror.lean: the operations of Machine/Mirror.lean keep what Laws/Keeps.lean names.
-/

set_option linter.unusedTactic false
set_option linter.unusedVariables false
set_option linter.tactic.unusedName false
set_option linter.unreachableTactic false

namespace Sys2Proof.Machine

theorem State.mirEvent_keeps {a s : State} (h : a.Keeps s) (x2 : _) (x3 : _) (x4 : _) :
    a.Keeps (State.mirEvent s x2 x3 x4) := by
  unfold State.mirEvent
  repeat' first | intro _ | with_reducible first | assumption | apply State.event_keeps

theorem State.linkLost_keeps {a s : State} (h : a.Keeps s) :
    a.Keeps (State.linkLost s) := by
  unfold State.linkLost
  repeat' first | intro _ | ((fail_if_no_progress extract_lets +onlyGivenNames z); (refine keeps_cut (a := a) z ?_ fun hz => ?_) <;> [subst z; clear_value z]) | with_reducible first | assumption | apply State.setAx_keeps | apply State.wr_keeps | fail_if_no_progress apply keeps_mk

theorem State.mirDown_keeps {a s : State} (h : a.Keeps s) (x2 : _) :
    a.Keeps (State.mirDown s x2) := by
  unfold State.mirDown
  repeat' first | intro _ | with_reducible first | assumption | apply State.mirEvent_keeps | apply State.wr_keeps | apply State.linkLost_keeps | apply keeps_ite | split

theorem State.replay_keeps {a s : State} (h : a.Keeps s) (x2 : _) :
    a.Keeps (State.replay s x2) := by
  unfold State.replay
  repeat' first | intro _ | ((fail_if_no_progress extract_lets +onlyGivenNames z); first | (refine keeps_cut (a := a) z ?_ fun hz => ?_) <;> [subst z; clear_value z] | clear_value z) | with_reducible first | assumption | apply State.each_keeps | apply State.emitFlit_keeps | apply State.bump_keeps | apply State.mirDown_keeps | fail_if_no_progress apply keeps_mk | apply keeps_ite | split

theorem State.handoverDone_keeps {a s : State} (h : a.Keeps s) :
    a.Keeps (State.handoverDone s) := by
  unfold State.handoverDone
  repeat' first | intro _ | ((fail_if_no_progress extract_lets +onlyGivenNames z); first | (refine keeps_cut (a := a) z ?_ fun hz => ?_) <;> [subst z; clear_value z] | clear_value z) | with_reducible first | assumption | apply State.each_keeps | apply State.endJobSilently_keeps | apply State.setAx_keeps | apply State.completeCmd_keeps | apply State.mirEvent_keeps | apply keeps_ite | split

theorem State.tellUnmirrored_keeps {a s : State} (h : a.Keeps s) (x2 : _) :
    a.Keeps (State.tellUnmirrored s x2) := by
  unfold State.tellUnmirrored
  repeat' first | intro _ | with_reducible first | assumption | apply State.sendMsg_keeps | apply State.setAx_keeps | apply keeps_ite | split

theorem State.syncBegin_keeps {a s : State} (h : a.Keeps s) :
    a.Keeps (State.syncBegin s) := by
  unfold State.syncBegin
  repeat' first | intro _ | with_reducible first | assumption | apply State.setAx_keeps | apply State.wr_keeps | apply keeps_ite | split

theorem State.sendRecord_keeps {a s : State} (h : a.Keeps s) (x2 : _) (x3 : _) (x4 : _) :
    a.Keeps (State.sendRecord s x2 x3 x4) := by
  unfold State.sendRecord
  repeat' first | intro _ | ((fail_if_no_progress extract_lets +onlyGivenNames z); (refine keeps_cut (a := a) z ?_ fun hz => ?_) <;> [subst z; clear_value z]) | with_reducible first | assumption | apply State.mirrorState_keeps | apply State.updJob_keeps | apply keeps_ite | split

theorem State.sendWhole_keeps {a s : State} (h : a.Keeps s) (x2 : _) :
    a.Keeps (State.sendWhole s x2) := by
  unfold State.sendWhole
  repeat' first | intro _ | ((fail_if_no_progress extract_lets +onlyGivenNames z); (refine keeps_cut (a := a) z ?_ fun hz => ?_) <;> [subst z; clear_value z]) | with_reducible first | assumption | apply State.mirrorState_keeps | apply State.each_keeps | apply State.journals_keeps | apply State.sendQuotas_keeps | apply State.sendPointers_keeps | apply State.sendRecord_keeps | split

theorem State.releaseTake_keeps {a s : State} (h : a.Keeps s) :
    a.Keeps (State.releaseTake s) := by
  unfold State.releaseTake
  repeat' first | intro _ | with_reducible first | assumption | apply State.each_keeps | apply State.wr_keeps | apply State.setAx_keeps

theorem State.releaseReady_keeps {a s : State} (h : a.Keeps s) :
    a.Keeps (State.releaseReady s) := by
  unfold State.releaseReady
  repeat' first | intro _ | with_reducible first | assumption | apply State.releaseTake_keeps | apply keeps_ite | split

theorem State.syncEnd_keeps {a s : State} (h : a.Keeps s) :
    a.Keeps (State.syncEnd s) := by
  unfold State.syncEnd
  repeat' first | intro _ | ((fail_if_no_progress extract_lets +onlyGivenNames z); first | (refine keeps_cut (a := a) z ?_ fun hz => ?_) <;> [subst z; clear_value z] | clear_value z) | with_reducible first | assumption | apply State.wr_keeps | apply State.releaseReady_keeps | apply State.mirEvent_keeps | apply keeps_ite | split

theorem State.syncStart_keeps {a s : State} (h : a.Keeps s) :
    a.Keeps (State.syncStart s) := by
  unfold State.syncStart
  repeat' first | intro _ | ((fail_if_no_progress extract_lets +onlyGivenNames z); first | (refine keeps_cut (a := a) z ?_ fun hz => ?_) <;> [subst z; clear_value z] | clear_value z) | with_reducible first | assumption | apply State.each_keeps | apply State.syncBegin_keeps | apply State.setAx_keeps | apply State.wr_keeps | apply State.sendWhole_keeps | apply State.syncEnd_keeps | apply keeps_ite | split

theorem State.heartbeatHeard_keeps {a s : State} (h : a.Keeps s) :
    a.Keeps (State.heartbeatHeard s) := by
  unfold State.heartbeatHeard
  repeat' first | intro _ | ((fail_if_no_progress extract_lets +onlyGivenNames z); (refine keeps_cut (a := a) z ?_ fun hz => ?_) <;> [subst z; clear_value z]) | with_reducible first | assumption | apply State.each_keeps | apply State.setAx_keeps | apply State.tellUnmirrored_keeps | apply State.syncStart_keeps | apply keeps_ite | split

theorem State.heartbeat_keeps {a s : State} (h : a.Keeps s) (x2 : _) (x3 : _) (x4 : _) :
    a.Keeps (State.heartbeat s x2 x3 x4) := by
  unfold State.heartbeat
  repeat' first | intro _ | ((fail_if_no_progress extract_lets +onlyGivenNames z); first | (refine keeps_cut (a := a) z ?_ fun hz => ?_) <;> [subst z; clear_value z] | clear_value z) | with_reducible first | assumption | apply State.setAx_keeps | apply State.wr_keeps | apply State.mirEvent_keeps | apply State.each_keeps | apply State.handoverDone_keeps | apply State.heartbeatHeard_keeps | apply keeps_ite | split

theorem State.takeBell_keeps {a s : State} (h : a.Keeps s) (x2 : _) (x3 : _) (x4 : _) (x5 : _) :
    a.Keeps (State.takeBell s x2 x3 x4 x5) := by
  unfold State.takeBell
  repeat' first | intro _ | ((fail_if_no_progress extract_lets +onlyGivenNames z); clear_value z) | with_reducible first | assumption | apply State.cqHead_keeps | apply State.sqTail_keeps | apply keeps_ite | split

theorem State.undeclare_keeps {a s : State} (h : a.Keeps s) (x2 : _) (x3 : _) :
    a.Keeps (State.undeclare s x2 x3) := by
  unfold State.undeclare
  repeat' first | intro _ | with_reducible first | assumption | apply State.completeCmd_keeps | fail_if_no_progress apply keeps_mk | split

theorem State.mirRegion_keeps {a s : State} (h : a.Keeps s) (x2 : _) (x3 : _) :
    a.Keeps (State.mirRegion s x2 x3) := by
  unfold State.mirRegion
  repeat' first | intro _ | ((fail_if_no_progress extract_lets +onlyGivenNames z); first | (refine keeps_cut (a := a) z ?_ fun hz => ?_) <;> [subst z; clear_value z] | clear_value z) | with_reducible first | assumption | apply State.completeCmd_keeps | apply State.sendMsg_keeps | apply State.undeclare_keeps | fail_if_no_progress apply keeps_mk | apply keeps_ite | split

theorem execMirRegion_keeps {a s : State} (h : a.Keeps s) (x1 : _) (x2 : _) :
    a.KeepsR (execMirRegion x1 x2 s) := by
  unfold execMirRegion
  repeat' first | intro _ | with_reducible first | assumption | apply keepsR_next | apply State.runCmd_keeps | apply State.mirRegion_keeps

theorem State.mirClear_keeps {a s : State} (h : a.Keeps s) :
    a.Keeps (State.mirClear s) := by
  unfold State.mirClear
  repeat' first | intro _ | with_reducible first | assumption | apply State.wr_keeps

theorem execMirCtrlClear_keeps {a s : State} (h : a.Keeps s) (x1 : _) :
    a.KeepsR (execMirCtrlClear x1 s) := by
  unfold execMirCtrlClear
  repeat' first | intro _ | with_reducible first | assumption | apply keepsR_next | apply State.order_keeps | apply State.when_keeps | apply State.mirClear_keeps | split

theorem State.mirEnable_keeps {a s : State} (h : a.Keeps s) (x2 : _) :
    a.Keeps (State.mirEnable s x2) := by
  unfold State.mirEnable
  repeat' first | intro _ | with_reducible first | assumption | apply State.wr_keeps | apply State.setAx_keeps | apply State.linkLost_keeps | apply keeps_ite | split

theorem State.pairTo_keeps {a s : State} (h : a.Keeps s) (x2 : _) :
    a.Keeps (State.pairTo s x2) := by
  unfold State.pairTo
  repeat' first | intro _ | with_reducible first | assumption | apply State.setAx_keeps | apply State.wr_keeps

theorem State.setRole_keeps {a s : State} (h : a.Keeps s) (x2 : _) (x3 : _) :
    a.Keeps (State.setRole s x2 x3) := by
  unfold State.setRole
  repeat' first | intro _ | with_reducible first | assumption | apply State.wr_keeps

theorem State.dropRecords_keeps {a s : State} (h : a.Keeps s) (x2 : _) :
    a.Keeps (State.dropRecords s x2) := by
  unfold State.dropRecords
  repeat' first | intro _ | with_reducible first | assumption | fail_if_no_progress apply keeps_mk | split

theorem State.resetPair_keeps {a s : State} (h : a.Keeps s) (x2 : _) (x3 : _) :
    a.Keeps (State.resetPair s x2 x3) := by
  unfold State.resetPair
  repeat' first | intro _ | with_reducible first | assumption | apply State.resetReg_keeps | apply foldl_keeps

theorem State.dropCopies_keeps {a s : State} (h : a.Keeps s) (x2 : _) :
    a.Keeps (State.dropCopies s x2) := by
  unfold State.dropCopies
  repeat' first | intro _ | ((fail_if_no_progress extract_lets +onlyGivenNames z); (refine keeps_cut (a := a) z ?_ fun hz => ?_) <;> [subst z; clear_value z]) | with_reducible first | assumption | apply State.dropRecords_keeps | apply State.each_keeps | apply State.setQp_keeps | apply State.resetPair_keeps | apply State.freeUnits_keeps | fail_if_no_progress apply keeps_mk | split

theorem State.unmirror_keeps {a s : State} (h : a.Keeps s) (x2 : _) :
    a.Keeps (State.unmirror s x2) := by
  unfold State.unmirror
  repeat' first | intro _ | ((fail_if_no_progress extract_lets +onlyGivenNames z); (refine keeps_cut (a := a) z ?_ fun hz => ?_) <;> [subst z; clear_value z]) | with_reducible first | assumption | apply State.dropCopies_keeps | apply State.dropRecords_keeps | apply State.wr_keeps | apply State.setRole_keeps | apply keeps_ite | split

theorem State.setMirrored_keeps {a s : State} (h : a.Keeps s) (x2 : _) (x3 : _) :
    a.Keeps (State.setMirrored s x2 x3) := by
  unfold State.setMirrored
  repeat' first | intro _ | ((fail_if_no_progress extract_lets +onlyGivenNames z); (refine keeps_cut (a := a) z ?_ fun hz => ?_) <;> [subst z; clear_value z]) | with_reducible first | assumption | apply State.setAx_keeps | apply State.wr_keeps | apply State.pairTo_keeps | apply State.setRole_keeps | apply State.tellUnmirrored_keeps | apply State.unmirror_keeps | apply keeps_ite | split

theorem State.sendAck_keeps {a s : State} (h : a.Keeps s) :
    a.Keeps (State.sendAck s) := by
  unfold State.sendAck
  repeat' first | intro _ | with_reducible first | assumption | apply State.emit_keeps

theorem State.refreshReady_keeps {a s : State} (h : a.Keeps s) (x2 : _) :
    a.Keeps (State.refreshReady s x2) := by
  unfold State.refreshReady
  repeat' first | intro _ | ((fail_if_no_progress extract_lets +onlyGivenNames z); clear_value z) | with_reducible first | assumption | apply State.wr_keeps | split

theorem State.noteMap_keeps {a s : State} (h : a.Keeps s) (x2 : _) (x3 : _) (x4 : _) (x5 : _) :
    a.Keeps (State.noteMap s x2 x3 x4 x5) := by
  unfold State.noteMap
  repeat' first | intro _ | ((fail_if_no_progress extract_lets +onlyGivenNames z); (refine keeps_cut (a := a) z ?_ fun hz => ?_) <;> [subst z; clear_value z]) | with_reducible first | assumption | apply State.refreshReady_keeps | apply State.setAx_keeps | apply State.releaseReady_keeps | apply State.mirEvent_keeps | apply keeps_ite | split

theorem State.takeMap_keeps {a s : State} (h : a.Keeps s) (x2 : _) (x3 : _) (x4 : _) (x5 : _) (x6 : _) :
    a.Keeps (State.takeMap s x2 x3 x4 x5 x6) := by
  unfold State.takeMap
  repeat' first | intro _ | ((fail_if_no_progress extract_lets +onlyGivenNames z); (refine keeps_cut (a := a) z ?_ fun hz => ?_) <;> [subst z; clear_value z]) | with_reducible first | assumption | apply State.slotMatch_keeps | apply State.sendMsg_keeps | apply State.noteMap_keeps | apply keeps_ite | split

theorem State.takePointers_keeps {a s : State} (h : a.Keeps s) (x2 : _) (x3 : _) :
    a.Keeps (State.takePointers s x2 x3) := by
  unfold State.takePointers
  repeat' first | intro _ | ((fail_if_no_progress extract_lets +onlyGivenNames z); first | (refine keeps_cut (a := a) z ?_ fun hz => ?_) <;> [subst z; clear_value z] | clear_value z) | with_reducible first | assumption | apply State.setQp_keeps | apply State.wr_keeps

theorem execPairTakeReleased_keeps {a s : State} (h : a.Keeps s) :
    a.KeepsR (execPairTakeReleased s) := by
  unfold execPairTakeReleased
  repeat' first | intro _ | ((fail_if_no_progress extract_lets +onlyGivenNames z); first | (refine keeps_cut (a := a) z ?_ fun hz => ?_) <;> [subst z; clear_value z] | clear_value z) | with_reducible first | assumption | apply keepsR_next | apply keepsR_ite | apply State.each_keeps | apply State.wr_keeps | apply State.setRole_keeps | apply keeps_ite | split

theorem State.failover_keeps {a s : State} (h : a.Keeps s) (x2 : _) :
    a.Keeps (State.failover s x2) := by
  unfold State.failover
  repeat' first | intro _ | ((fail_if_no_progress extract_lets +onlyGivenNames z); (refine keeps_cut (a := a) z ?_ fun hz => ?_) <;> [subst z; clear_value z]) | with_reducible first | assumption | apply State.endJobSilently_keeps | apply State.post_keeps

theorem State.pairEvent_keeps {a s : State} (h : a.Keeps s) (x2 : _) (x3 : _) (x4 : _) :
    a.Keeps (State.pairEvent s x2 x3 x4) := by
  unfold State.pairEvent
  repeat' first | intro _ | with_reducible first | assumption | apply State.each_keeps | apply State.mirEvent_keeps | apply State.post_keeps | split

theorem State.fence_keeps {a s : State} (h : a.Keeps s) :
    a.Keeps (State.fence s) := by
  unfold State.fence
  repeat' first | intro _ | ((fail_if_no_progress extract_lets +onlyGivenNames z); first | (refine keeps_cut (a := a) z ?_ fun hz => ?_) <;> [subst z; clear_value z] | clear_value z) | with_reducible first | assumption | apply State.each_keeps | apply State.failover_keeps | apply State.setRole_keeps | apply State.pairEvent_keeps | apply State.pairTo_keeps | split

theorem State.reserveSlot_keeps {a s : State} (h : a.Keeps s) (x2 : _) :
    a.Keeps (State.reserveSlot s x2).2 := by
  unfold State.reserveSlot
  repeat' first | intro _ | with_reducible first | assumption | apply State.setQp_keeps | split

theorem State.solo_keeps {a s : State} (h : a.Keeps s) (x2 : _) :
    a.Keeps (State.solo s x2) := by
  unfold State.solo
  repeat' first | intro _ | with_reducible first | assumption | apply State.mirEvent_keeps | apply State.pairTo_keeps

theorem execAckTimeout_keeps {a s : State} (h : a.Keeps s) (x1 : _) :
    a.KeepsR (execAckTimeout x1 s) := by
  unfold execAckTimeout
  repeat' first | intro _ | with_reducible first | assumption | apply keepsR_next | apply keepsR_ite | apply State.commitJob_keeps | apply State.solo_keeps | apply keeps_ite | split

theorem execMirCtrlRelease_keeps {a s : State} (h : a.Keeps s) (x1 : _) :
    a.KeepsR (execMirCtrlRelease x1 s) := by
  unfold execMirCtrlRelease
  repeat' first | intro _ | with_reducible first | assumption | apply keepsR_next | apply State.order_keeps | apply State.when_keeps | apply State.releaseTake_keeps | apply State.wr_keeps | split

theorem State.sendNak_keeps {a s : State} (h : a.Keeps s) :
    a.Keeps (State.sendNak s) := by
  unfold State.sendNak
  repeat' first | intro _ | with_reducible first | assumption | apply State.emit_keeps

theorem State.syncAcked_keeps {a s : State} (h : a.Keeps s) (x2 : _) :
    a.Keeps (State.syncAcked s x2) := by
  unfold State.syncAcked
  repeat' first | intro _ | ((fail_if_no_progress extract_lets +onlyGivenNames z); clear_value z) | with_reducible first | assumption | apply State.syncEnd_keeps | apply State.each_keeps | apply State.setAx_keeps | apply State.refreshReady_keeps | apply keeps_ite | split

theorem State.commitsAcked_keeps {a s : State} (h : a.Keeps s) (x2 : _) :
    a.Keeps (State.commitsAcked s x2) := by
  unfold State.commitsAcked
  repeat' first | intro _ | ((fail_if_no_progress extract_lets +onlyGivenNames z); clear_value z) | with_reducible first | assumption | apply State.each_keeps | apply State.commitJob_keeps | split

theorem State.ackFlits_keeps {a s : State} (h : a.Keeps s) (x2 : _) :
    a.Keeps (State.ackFlits s x2) := by
  unfold State.ackFlits
  repeat' first | intro _ | ((fail_if_no_progress extract_lets +onlyGivenNames z); (refine keeps_cut (a := a) z ?_ fun hz => ?_) <;> [subst z; clear_value z]) | with_reducible first | assumption | apply State.syncAcked_keeps | apply State.commitsAcked_keeps | apply State.pumpFlits_keeps | fail_if_no_progress apply keeps_mk

theorem State.receive_keeps {a s : State} (h : a.Keeps s) (x2 : _) (x3 : _) (hx3 : ∀ y0, a.Keeps y0 → a.Keeps (x3 y0)) :
    a.Keeps (State.receive s x2 x3) := by
  unfold State.receive
  repeat' first | intro _ | with_reducible first | assumption | apply hx3 | apply State.sendNak_keeps | apply State.bump_keeps | apply State.ackFlits_keeps | apply keeps_ite | split

theorem execNakFlit_keeps {a s : State} (h : a.Keeps s) (x1 : _) :
    a.KeepsR (execNakFlit x1 s) := by
  unfold execNakFlit
  repeat' first | intro _ | with_reducible first | assumption | apply keepsR_next | apply State.receive_keeps | apply State.replay_keeps

theorem State.holdRegion_keeps {a s : State} (h : a.Keeps s) (x2 : _) (x3 : _) (x4 : _) (x5 : _) :
    a.Keeps (State.holdRegion s x2 x3 x4 x5).2 := by
  unfold State.holdRegion
  repeat' first | intro _ | ((fail_if_no_progress extract_lets +onlyGivenNames z); (refine keeps_cut (a := a) z ?_ fun hz => ?_) <;> [subst z; clear_value z]) | with_reducible first | assumption | apply State.addAlloc_keeps | fail_if_no_progress apply keeps_mk | apply keeps2_ite | apply keeps_ite | split

theorem State.takeRegionBytes_keeps {a s : State} (h : a.Keeps s) (x2 : _) (x3 : _) (x4 : _) :
    a.Keeps (State.takeRegionBytes s x2 x3 x4) := by
  unfold State.takeRegionBytes
  repeat' first | intro _ | ((fail_if_no_progress extract_lets +onlyGivenNames z); (refine keeps_cut2 (a := a) z ?_ fun hz => ?_) <;> [subst z; clear_value z]) | with_reducible first | assumption | apply State.holdRegion_keeps | apply State.putBytes_keeps | apply keeps_ite | refine keeps_of2 (by assumption) ?_ | split

theorem State.takeStart_keeps {a s : State} (h : a.Keeps s) (x2 : _) :
    a.Keeps (State.takeStart s x2) := by
  unfold State.takeStart
  repeat' first | intro _ | ((fail_if_no_progress extract_lets +onlyGivenNames z); (refine keeps_cut (a := a) z ?_ fun hz => ?_) <;> [subst z; clear_value z]) | with_reducible first | assumption | apply State.setAx_keeps | apply State.wr_keeps | apply State.dropCopies_keeps | apply State.syncBegin_keeps | apply keeps_ite | split

theorem State.takeWhole_keeps {a s : State} (h : a.Keeps s) (x2 : _) :
    a.Keeps (State.takeWhole s x2) := by
  unfold State.takeWhole
  repeat' first | intro _ | with_reducible first | assumption | apply State.syncEnd_keeps | apply State.refreshReady_keeps | apply State.setAx_keeps

theorem State.takeState_keeps {a s : State} (h : a.Keeps s) (x2 : _) (x3 : _) :
    a.Keeps (State.takeState s x2 x3) := by
  unfold State.takeState
  repeat' first | intro _ | ((fail_if_no_progress extract_lets +onlyGivenNames z); first | (refine keeps_cut (a := a) z ?_ fun hz => ?_) <;> [subst z; clear_value z] | clear_value z) | with_reducible first | assumption | apply State.takePointers_keeps | apply State.putBytes_keeps | apply State.takeRegionBytes_keeps | apply State.wr_keeps | apply State.takeMap_keeps | apply State.takeStart_keeps | apply State.takeWhole_keeps | fail_if_no_progress apply keeps_mk | split

theorem State.adopt_keeps {a s : State} (h : a.Keeps s) (x2 : _) (x3 : _) :
    a.Keeps (State.adopt s x2 x3) := by
  unfold State.adopt
  repeat' first | intro _ | ((fail_if_no_progress extract_lets +onlyGivenNames z); first | (refine keeps_cut (a := a) z ?_ fun hz => ?_) <;> [subst z; clear_value z] | clear_value z) | with_reducible first | assumption | apply State.each_keeps | apply State.setQp_keeps | apply State.setAx_keeps | fail_if_no_progress apply keeps_mk | apply keeps_ite | split

theorem State.takeJournal_keeps {a s : State} (h : a.Keeps s) (x2 : _) (x3 : _) :
    a.Keeps (State.takeJournal s x2 x3) := by
  unfold State.takeJournal
  repeat' first | intro _ | with_reducible first | assumption | apply State.installProg_keeps | fail_if_no_progress apply keeps_mk | apply keeps_ite | split

theorem State.takeRegion_keeps {a s : State} (h : a.Keeps s) (x2 : _) (x3 : _) (x4 : _) (x5 : _) (x6 : _) :
    a.Keeps (State.takeRegion s x2 x3 x4 x5 x6) := by
  unfold State.takeRegion
  repeat' first | intro _ | ((fail_if_no_progress extract_lets +onlyGivenNames z); (refine keeps_cut2 (a := a) z ?_ fun hz => ?_) <;> [subst z; clear_value z]) | with_reducible first | assumption | apply State.freeUnits_keeps | apply State.holdRegion_keeps | apply State.sendMsg_keeps | fail_if_no_progress apply keeps_mk | apply keeps_ite | refine keeps_of2 (by assumption) ?_ | split

theorem State.takeHandover_keeps {a s : State} (h : a.Keeps s) (x2 : _) (x3 : _) :
    a.Keeps (State.takeHandover s x2 x3) := by
  unfold State.takeHandover
  repeat' first | intro _ | ((fail_if_no_progress extract_lets +onlyGivenNames z); clear_value z) | with_reducible first | assumption | apply State.each_keeps | apply State.setRole_keeps | apply State.adopt_keeps | apply State.dropRecords_keeps | split

theorem State.handoverRefused_keeps {a s : State} (h : a.Keeps s) (x2 : _) :
    a.Keeps (State.handoverRefused s x2) := by
  unfold State.handoverRefused
  repeat' first | intro _ | ((fail_if_no_progress extract_lets +onlyGivenNames z); first | (refine keeps_cut (a := a) z ?_ fun hz => ?_) <;> [subst z; clear_value z] | clear_value z) | with_reducible first | assumption | apply State.each_keeps | apply State.setAx_keeps | apply State.setRole_keeps | apply State.completeCmd_keeps | apply keeps_ite | split

theorem State.takeOrder_keeps {a s : State} (h : a.Keeps s) (x2 : _) (x3 : _) :
    a.Keeps (State.takeOrder s x2 x3) := by
  unfold State.takeOrder
  repeat' first | intro _ | with_reducible first | assumption | apply State.sendMsg_keeps | apply State.superseded_keeps | apply State.slotMatch_keeps | apply State.takeRegion_keeps | apply State.takeHandover_keeps | apply State.unmirror_keeps | apply State.setAx_keeps | apply State.handoverRefused_keeps | split

theorem State.sendCommit_keeps {a s : State} (h : a.Keeps s) (x2 : _) (x3 : _) :
    a.Keeps (State.sendCommit s x2 x3) := by
  unfold State.sendCommit
  repeat' first | intro _ | ((fail_if_no_progress extract_lets +onlyGivenNames z); (refine keeps_cut2 (a := a) z ?_ fun hz => ?_) <;> [subst z; clear_value z]) | with_reducible first | assumption | apply State.reserveSlot_keeps | apply State.updJob_keeps | apply State.sendRecord_keeps | refine keeps_of2 (by assumption) ?_

theorem State.commitOrMirror_keeps {a s : State} (h : a.Keeps s) (x2 : _) :
    a.Keeps (State.commitOrMirror s x2) := by
  unfold State.commitOrMirror
  repeat' first | intro _ | with_reducible first | assumption | apply State.sendCommit_keeps | apply State.dropStaging_keeps | apply State.commitStaged_keeps | apply State.commitJob_keeps | apply keeps_ite | split

theorem State.receiveSeq_keeps {a s : State} (h : a.Keeps s) (x2 : _) (x3 : _) (hx3 : ∀ y0, a.Keeps y0 → a.Keeps (x3 y0)) :
    a.Keeps (State.receiveSeq s x2 x3) := by
  unfold State.receiveSeq
  repeat' first | intro _ | with_reducible first | assumption | apply hx3 | apply State.receive_keeps | apply State.sendAck_keeps | apply State.setAx_keeps | apply State.sendNak_keeps | apply keeps_ite | split

theorem execDoorbellFlit_keeps {a s : State} (h : a.Keeps s) (x1 : _) (x2 : _) (x3 : _) (x4 : _) (x5 : _) :
    a.KeepsR (execDoorbellFlit x1 x2 x3 x4 x5 s) := by
  unfold execDoorbellFlit
  repeat' first | intro _ | with_reducible first | assumption | apply keepsR_next | apply State.receiveSeq_keeps | apply State.takeBell_keeps

theorem execFlitReplayTimer_keeps {a s : State} (h : a.Keeps s) :
    a.KeepsR (execFlitReplayTimer s) := by
  unfold execFlitReplayTimer
  repeat' first | intro _ | with_reducible first | assumption | apply keepsR_next | apply keepsR_ite | apply State.replay_keeps | apply keeps_ite | split

theorem State.resync_keeps {a s : State} (h : a.Keeps s) :
    a.Keeps (State.resync s) := by
  unfold State.resync
  repeat' first | intro _ | with_reducible first | assumption | apply State.syncStart_keeps | apply State.wr_keeps | apply keeps_ite | split

theorem execOrderFlit_keeps {a s : State} (h : a.Keeps s) (x1 : _) (x2 : _) (x3 : _) :
    a.KeepsR (execOrderFlit x1 x2 x3 s) := by
  unfold execOrderFlit
  repeat' first | intro _ | with_reducible first | assumption | apply keepsR_next | apply State.receiveSeq_keeps | apply State.takeOrder_keeps

theorem execMirCtrlResync_keeps {a s : State} (h : a.Keeps s) (x1 : _) :
    a.KeepsR (execMirCtrlResync x1 s) := by
  unfold execMirCtrlResync
  repeat' first | intro _ | with_reducible first | assumption | apply keepsR_next | apply State.order_keeps | apply State.when_keeps | apply State.resync_keeps | split

theorem State.mirTrained_keeps {a s : State} (h : a.Keeps s) (x2 : _) :
    a.Keeps (State.mirTrained s x2) := by
  unfold State.mirTrained
  repeat' first | intro _ | ((fail_if_no_progress extract_lets +onlyGivenNames z); (refine keeps_cut (a := a) z ?_ fun hz => ?_) <;> [subst z; clear_value z]) | with_reducible first | assumption | apply State.setAx_keeps | apply State.wr_keeps | apply State.mirEvent_keeps | apply State.each_keeps

theorem execMirrorLinkTrained_keeps {a s : State} (h : a.Keeps s) (x1 : _) :
    a.KeepsR (execMirrorLinkTrained x1 s) := by
  unfold execMirrorLinkTrained
  repeat' first | intro _ | with_reducible first | assumption | apply keepsR_next | apply keepsR_ite | apply State.mirTrained_keeps | apply State.mirEvent_keeps | apply State.wr_keeps | apply keeps_ite | split

theorem State.sendHeartbeat_keeps {a s : State} (h : a.Keeps s) :
    a.Keeps (State.sendHeartbeat s) := by
  unfold State.sendHeartbeat
  repeat' first | intro _ | with_reducible first | assumption | apply State.emit_keeps

theorem State.sampleTake_keeps {a s : State} (h : a.Keeps s) :
    a.Keeps (State.sampleTake s) := by
  unfold State.sampleTake
  repeat' first | intro _ | ((fail_if_no_progress extract_lets +onlyGivenNames z); (refine keeps_cut (a := a) z ?_ fun hz => ?_) <;> [subst z; clear_value z]) | with_reducible first | assumption | apply State.setAx_keeps | apply State.fence_keeps | apply State.bump_keeps | apply State.wr_keeps | apply keeps_ite | split

theorem execHeartbeatTimeout_keeps {a s : State} (h : a.Keeps s) :
    a.KeepsR (execHeartbeatTimeout s) := by
  unfold execHeartbeatTimeout
  repeat' first | intro _ | ((fail_if_no_progress extract_lets +onlyGivenNames z); (refine keeps_cut (a := a) z ?_ fun hz => ?_) <;> [subst z; clear_value z]) | with_reducible first | assumption | apply keepsR_next | apply keepsR_ite | apply State.mirDown_keeps | apply State.setAx_keeps | apply State.sampleTake_keeps | apply keeps_ite | split

theorem execJournalFlit_keeps {a s : State} (h : a.Keeps s) (x1 : _) (x2 : _) (x3 : _) :
    a.KeepsR (execJournalFlit x1 x2 x3 s) := by
  unfold execJournalFlit
  repeat' first | intro _ | with_reducible first | assumption | apply keepsR_next | apply keepsR_ite | apply State.receiveSeq_keeps | apply State.takeJournal_keeps | apply keeps_ite | split

theorem State.handover_keeps {a s : State} (h : a.Keeps s) (x2 : _) :
    a.Keeps (State.handover s x2) := by
  unfold State.handover
  repeat' first | intro _ | ((fail_if_no_progress extract_lets +onlyGivenNames z); clear_value z) | with_reducible first | assumption | apply State.completeCmd_keeps | apply State.cmdRunning_keeps | apply State.each_keeps | apply State.backToQueue_keeps | apply State.setAx_keeps | apply keeps_ite | split

theorem execTakeoverRankWaitEnd_keeps {a s : State} (h : a.Keeps s) :
    a.KeepsR (execTakeoverRankWaitEnd s) := by
  unfold execTakeoverRankWaitEnd
  repeat' first | intro _ | with_reducible first | assumption | apply keepsR_next | apply keepsR_ite | apply State.sampleTake_keeps | apply keeps_ite | split

theorem execMirCfgEnableWrite_keeps {a s : State} (h : a.Keeps s) (x1 : _) :
    a.KeepsR (execMirCfgEnableWrite x1 s) := by
  unfold execMirCfgEnableWrite
  repeat' first | intro _ | with_reducible first | assumption | apply keepsR_next | apply State.order_keeps | apply State.mirEnable_keeps

theorem State.handoverStep_keeps {a s : State} (h : a.Keeps s) :
    a.Keeps (State.handoverStep s) := by
  unfold State.handoverStep
  repeat' first | intro _ | ((fail_if_no_progress extract_lets +onlyGivenNames z); clear_value z) | with_reducible first | assumption | apply State.each_keeps | apply State.sendMsg_keeps | apply State.setAx_keeps | apply State.setRole_keeps | apply keeps_ite | split

theorem State.writeCommits_keeps {a s : State} (h : a.Keeps s) (x2 : _) :
    a.Keeps (State.writeCommits s x2) := by
  unfold State.writeCommits
  repeat' first | intro _ | with_reducible first | assumption | apply State.each_keeps | apply State.setQp_keeps | apply State.store_keeps | split

theorem execStateFlit_keeps {a s : State} (h : a.Keeps s) (x1 : _) (x2 : _) (x3 : _) :
    a.KeepsR (execStateFlit x1 x2 x3 s) := by
  unfold execStateFlit
  repeat' first | intro _ | with_reducible first | assumption | apply keepsR_next | apply keepsR_ite | apply State.receiveSeq_keeps | apply State.takeState_keeps | apply State.noteMap_keeps | apply keeps_ite | split

theorem execHeartbeatFlit_keeps {a s : State} (h : a.Keeps s) (x1 : _) (x2 : _) (x3 : _) (x4 : _) (x5 : _) :
    a.KeepsR (execHeartbeatFlit x1 x2 x3 x4 x5 s) := by
  unfold execHeartbeatFlit
  repeat' first | intro _ | with_reducible first | assumption | apply keepsR_next | apply State.receive_keeps | apply State.heartbeat_keeps | apply State.wr_keeps

theorem State.mirHandback_keeps {a s : State} (h : a.Keeps s) :
    a.Keeps (State.mirHandback s) := by
  unfold State.mirHandback
  repeat' first | intro _ | with_reducible first | assumption | apply State.wr_keeps

theorem execMirCfgHandback_keeps {a s : State} (h : a.Keeps s) (x1 : _) :
    a.KeepsR (execMirCfgHandback x1 s) := by
  unfold execMirCfgHandback
  repeat' first | intro _ | with_reducible first | assumption | apply keepsR_next | apply State.order_keeps | apply State.when_keeps | apply State.mirHandback_keeps | split

theorem State.takeOver_keeps {a s : State} (h : a.Keeps s) :
    a.Keeps (State.takeOver s) := by
  unfold State.takeOver
  repeat' first | intro _ | ((fail_if_no_progress extract_lets +onlyGivenNames z); first | (refine keeps_cut (a := a) z ?_ fun hz => ?_) <;> [subst z; clear_value z] | clear_value z) | with_reducible first | assumption | apply State.each_keeps | apply State.setAx_keeps | apply State.setRole_keeps | apply State.writeCommits_keeps | apply State.adopt_keeps | apply State.dropRecords_keeps | apply State.wr_keeps | apply State.solo_keeps | apply State.pairEvent_keeps

theorem execAckFlit_keeps {a s : State} (h : a.Keeps s) (x1 : _) :
    a.KeepsR (execAckFlit x1 s) := by
  unfold execAckFlit
  repeat' first | intro _ | with_reducible first | assumption | apply keepsR_next | apply State.receive_keeps | apply keeps_id

theorem execMirFnMirroredWrite_keeps {a s : State} (h : a.Keeps s) (x1 : _) (x2 : _) :
    a.KeepsR (execMirFnMirroredWrite x1 x2 s) := by
  unfold execMirFnMirroredWrite
  repeat' first | intro _ | with_reducible first | assumption | apply keepsR_next | apply State.order_keeps | apply State.setMirrored_keeps

theorem execPairTakeSeen_keeps {a s : State} (h : a.Keeps s) :
    a.KeepsR (execPairTakeSeen s) := by
  unfold execPairTakeSeen
  repeat' first | intro _ | with_reducible first | assumption | apply keepsR_next | apply keepsR_ite | apply State.fence_keeps | apply State.wr_keeps | apply keeps_ite | split

theorem execTakeoverGuardEnd_keeps {a s : State} (h : a.Keeps s) :
    a.KeepsR (execTakeoverGuardEnd s) := by
  unfold execTakeoverGuardEnd
  repeat' first | intro _ | with_reducible first | assumption | apply keepsR_next | apply keepsR_ite | apply State.takeOver_keeps | apply State.setAx_keeps | apply keeps_ite | split

theorem execPairHandover_keeps {a s : State} (h : a.Keeps s) (x1 : _) :
    a.KeepsR (execPairHandover x1 s) := by
  unfold execPairHandover
  repeat' first | intro _ | with_reducible first | assumption | apply keepsR_next | apply State.runCmd_keeps | apply State.handover_keeps

theorem execHeartbeatSend_keeps {a s : State} (h : a.Keeps s) :
    a.KeepsR (execHeartbeatSend s) := by
  unfold execHeartbeatSend
  repeat' first | intro _ | ((fail_if_no_progress extract_lets +onlyGivenNames z); (refine keeps_cut (a := a) z ?_ fun hz => ?_) <;> [subst z; clear_value z]) | with_reducible first | assumption | apply keepsR_next | apply keepsR_ite | apply State.setAx_keeps | apply State.bump_keeps | apply State.sendHeartbeat_keeps | apply State.handoverStep_keeps | apply keeps_ite | split

end Sys2Proof.Machine
end

