-- ==== Sys2Proof/Laws/KeepsSeq.lean ====
section
/-!
SUPPORT. Laws/KeepsSeq.lean: the operations of Machine/Seq.lean keep what Laws/Keeps.lean names.
-/

set_option linter.unusedTactic false
set_option linter.unusedVariables false
set_option linter.tactic.unusedName false
set_option linter.unreachableTactic false

namespace Sys2Proof.Machine

theorem State.accessFault_keeps {a s : State} (h : a.Keeps s) (x2 : _) (x3 : _) (x4 : _) (x5 : _) :
    a.Keeps (State.accessFault s x2 x3 x4 x5) := by
  unfold State.accessFault
  repeat' first | intro _ | with_reducible first | assumption | apply State.trapAt_keeps | apply State.countDenied_keeps

theorem State.taskWrite_keeps {a s : State} (h : a.Keeps s) (x2 : _) (x3 : _) (x4 : _) (x5 : _) (x6 : _) :
    a.Keeps (State.taskWrite s x2 x3 x4 x5 x6) := by
  unfold State.taskWrite
  repeat' first | intro _ | with_reducible first | assumption | apply State.jobWrite_keeps | apply State.trapAt_keeps | apply State.retire_keeps | refine keeps_ofE (by assumption) ?_ | split

theorem State.tdStore_keeps {a s : State} (h : a.Keeps s) (x2 : _) :
    a.Keeps (State.tdStore s x2) := by
  unfold State.tdStore
  repeat' first | intro _ | ((fail_if_no_progress extract_lets +onlyGivenNames z); clear_value z) | with_reducible first | assumption | apply State.accessFault_keeps | apply State.taskWrite_keeps | apply keeps_id | apply keeps_ite | split

theorem execTdst_keeps {a s : State} (h : a.Keeps s) (x1 : _) :
    a.KeepsR (execTdst x1 s) := by
  unfold execTdst
  repeat' first | intro _ | with_reducible first | assumption | apply keepsR_next | apply State.issue_keeps | apply State.tdStore_keeps

theorem State.signalInsn_keeps {a s : State} (h : a.Keeps s) (x2 : _) (x3 : _) :
    a.Keeps (State.signalInsn s x2 x3) := by
  unfold State.signalInsn
  repeat' first | intro _ | ((fail_if_no_progress extract_lets +onlyGivenNames z); clear_value z) | with_reducible first | assumption | apply State.accessFault_keeps | apply State.setWait_keeps | apply State.reading_keeps | apply State.taskWrite_keeps | apply keeps_ite | split

theorem execSignalSet_keeps {a s : State} (h : a.Keeps s) (x1 : _) :
    a.KeepsR (execSignalSet x1 s) := by
  unfold execSignalSet
  repeat' first | intro _ | with_reducible first | assumption | apply keepsR_next | apply State.issue_keeps | apply State.signalInsn_keeps

theorem execTdcpy_keeps {a s : State} (h : a.Keeps s) (x1 : _) :
    a.KeepsR (execTdcpy x1 s) := by
  unfold execTdcpy
  repeat' first | intro _ | with_reducible first | assumption | apply keepsR_next | apply State.issue_keeps | apply State.retire_keeps

theorem State.beginCommit_keeps {a s : State} (h : a.Keeps s) (x2 : _) :
    a.Keeps (State.beginCommit s x2) := by
  unfold State.beginCommit
  repeat' first | intro _ | ((fail_if_no_progress extract_lets +onlyGivenNames z); (refine keeps_cut (a := a) z ?_ fun hz => ?_) <;> [subst z; clear_value z]) | with_reducible first | assumption | apply State.updJob_keeps | apply State.each_keeps | apply State.setWait_keeps | split

theorem State.haltInsn_keeps {a s : State} (h : a.Keeps s) (x2 : _) :
    a.Keeps (State.haltInsn s x2) := by
  unfold State.haltInsn
  repeat' first | intro _ | ((fail_if_no_progress extract_lets +onlyGivenNames z); (refine keeps_cut (a := a) z ?_ fun hz => ?_) <;> [subst z; clear_value z]) | with_reducible first | assumption | apply State.setWait_keeps | apply State.retire_keeps | apply State.beginCommit_keeps | apply keeps_id | apply keeps_ite | split

theorem execHalt_keeps {a s : State} (h : a.Keeps s) (x1 : _) :
    a.KeepsR (execHalt x1 s) := by
  unfold execHalt
  repeat' first | intro _ | with_reducible first | assumption | apply keepsR_next | apply State.issue_keeps | apply State.haltInsn_keeps

theorem State.endlInsn_keeps {a s : State} (h : a.Keeps s) (x2 : _) :
    a.Keeps (State.endlInsn s x2) := by
  unfold State.endlInsn
  repeat' first | intro _ | with_reducible first | assumption | apply State.trapAt_keeps | apply State.jump_keeps | apply State.retire_keeps | apply keeps_ite | split

theorem State.barRelease_keeps {a s : State} (h : a.Keeps s) (x2 : _) :
    a.Keeps (State.barRelease s x2) := by
  unfold State.barRelease
  repeat' first | intro _ | ((fail_if_no_progress extract_lets +onlyGivenNames z); clear_value z) | with_reducible first | assumption | apply State.each_keeps | apply State.updTask_keeps | apply State.setWait_keeps | apply keeps_ite | split

theorem execBarRelease_keeps {a s : State} (h : a.Keeps s) (x1 : _) :
    a.KeepsR (execBarRelease x1 s) := by
  unfold execBarRelease
  repeat' first | intro _ | with_reducible first | assumption | apply keepsR_next | apply State.barRelease_keeps

theorem execSignalMaxu_keeps {a s : State} (h : a.Keeps s) (x1 : _) :
    a.KeepsR (execSignalMaxu x1 s) := by
  unfold execSignalMaxu
  repeat' first | intro _ | with_reducible first | assumption | apply keepsR_next | apply State.issue_keeps | apply State.signalInsn_keeps

theorem State.seqRefused_keeps {a s : State} (h : a.Keeps s) (x2 : _) :
    a.Keeps (State.seqRefused s x2) := by
  unfold State.seqRefused
  repeat' first | intro _ | with_reducible first | assumption | apply State.wr_keeps

theorem State.seqReserve_keeps {a s : State} (h : a.Keeps s) (x2 : _) (x3 : _) :
    a.Keeps (State.seqReserve s x2 x3) := by
  unfold State.seqReserve
  repeat' first | intro _ | with_reducible first | assumption | apply State.seqRefused_keeps | apply State.wr_keeps | apply keeps_ite | split

theorem State.loadInsn_keeps {a s : State} (h : a.Keeps s) (x2 : _) :
    a.Keeps (State.loadInsn s x2) := by
  unfold State.loadInsn
  repeat' first | intro _ | ((fail_if_no_progress extract_lets +onlyGivenNames z); clear_value z) | with_reducible first | assumption | apply State.reading_keeps | apply State.retire_keeps | apply keeps_ite | split

theorem execLoad_keeps {a s : State} (h : a.Keeps s) (x1 : _) :
    a.KeepsR (execLoad x1 s) := by
  unfold execLoad
  repeat' first | intro _ | with_reducible first | assumption | apply keepsR_next | apply State.issue_keeps | apply State.loadInsn_keeps

theorem execSeqCfgWrite_keeps {a s : State} (h : a.Keeps s) (x1 : _) (x2 : _) :
    a.KeepsR (execSeqCfgWrite x1 x2 s) := by
  unfold execSeqCfgWrite
  repeat' first | intro _ | with_reducible first | assumption | apply keepsR_next | apply keepsR_ite | apply State.order_keeps | apply State.seqReserve_keeps | apply keeps_ite | split

theorem State.cpostInsn_keeps {a s : State} (h : a.Keeps s) (x2 : _) :
    a.Keeps (State.cpostInsn s x2) := by
  unfold State.cpostInsn
  repeat' first | intro _ | ((fail_if_no_progress extract_lets +onlyGivenNames z); first | (refine keeps_cut (a := a) z ?_ fun hz => ?_) <;> [subst z; clear_value z] | clear_value z) | with_reducible first | assumption | apply State.retire_keeps | apply State.updJob_keeps | apply State.beginCommit_keeps | apply keeps_id | apply keeps_ite | split

theorem execCpost_keeps {a s : State} (h : a.Keeps s) (x1 : _) :
    a.KeepsR (execCpost x1 s) := by
  unfold execCpost
  repeat' first | intro _ | with_reducible first | assumption | apply keepsR_next | apply State.issue_keeps | apply State.cpostInsn_keeps

theorem execCmpi_keeps {a s : State} (h : a.Keeps s) (x1 : _) :
    a.KeepsR (execCmpi x1 s) := by
  unfold execCmpi
  repeat' first | intro _ | with_reducible first | assumption | apply keepsR_next | apply State.issue_keeps | apply State.retire_keeps

theorem State.scldInsn_keeps {a s : State} (h : a.Keeps s) (x2 : _) :
    a.Keeps (State.scldInsn s x2) := by
  unfold State.scldInsn
  repeat' first | intro _ | ((fail_if_no_progress extract_lets +onlyGivenNames z); first | (refine keeps_cut (a := a) z ?_ fun hz => ?_) <;> [subst z; clear_value z] | (refine keeps_fn z ?_; subst z; beta_reduce) | clear_value z) | with_reducible first | assumption | apply State.trapAt_keeps | apply State.reading_keeps | apply State.retire_keeps | apply State.keepTracker_keeps | apply keeps_ite | split

theorem execScldE_keeps {a s : State} (h : a.Keeps s) (x1 : _) :
    a.KeepsR (execScldE x1 s) := by
  unfold execScldE
  repeat' first | intro _ | with_reducible first | assumption | apply keepsR_next | apply State.issue_keeps | apply State.scldInsn_keeps

theorem State.memWait_keeps {a s : State} (h : a.Keeps s) (x2 : _) (x3 : _) :
    a.Keeps (State.memWait s x2 x3) := by
  unfold State.memWait
  repeat' first | intro _ | ((fail_if_no_progress extract_lets +onlyGivenNames z); clear_value z) | with_reducible first | assumption | apply State.reading_keeps | apply State.retire_keeps | apply State.setWait_keeps | apply keeps_id | apply keeps_ite | split

theorem execWaitGeu_keeps {a s : State} (h : a.Keeps s) (x1 : _) :
    a.KeepsR (execWaitGeu x1 s) := by
  unfold execWaitGeu
  repeat' first | intro _ | with_reducible first | assumption | apply keepsR_next | apply State.issue_keeps | apply State.memWait_keeps

theorem State.waitInsn_keeps {a s : State} (h : a.Keeps s) (x2 : _) (x3 : _) :
    a.Keeps (State.waitInsn s x2 x3) := by
  unfold State.waitInsn
  repeat' first | intro _ | ((fail_if_no_progress extract_lets +onlyGivenNames z); clear_value z) | with_reducible first | assumption | apply State.retire_keeps | apply State.trapAt_keeps | apply State.setWait_keeps | apply keeps_ite | split

theorem execSwait_keeps {a s : State} (h : a.Keeps s) (x1 : _) :
    a.KeepsR (execSwait x1 s) := by
  unfold execSwait
  repeat' first | intro _ | with_reducible first | assumption | apply keepsR_next | apply State.issue_keeps | apply State.waitInsn_keeps

theorem State.checkedJump_keeps {a s : State} (h : a.Keeps s) (x2 : _) (x3 : _) (x4 : _) :
    a.Keeps (State.checkedJump s x2 x3 x4) := by
  unfold State.checkedJump
  repeat' first | intro _ | with_reducible first | assumption | apply State.jump_keeps | apply State.trapAt_keeps | apply keeps_ite | split

theorem State.callInsn_keeps {a s : State} (h : a.Keeps s) (x2 : _) (x3 : _) :
    a.Keeps (State.callInsn s x2 x3) := by
  unfold State.callInsn
  repeat' first | intro _ | with_reducible first | assumption | apply State.trapAt_keeps | apply State.checkedJump_keeps | apply keeps_ite | split

theorem execCall_keeps {a s : State} (h : a.Keeps s) (x1 : _) :
    a.KeepsR (execCall x1 s) := by
  unfold execCall
  repeat' first | intro _ | with_reducible first | assumption | apply keepsR_next | apply State.issue_keeps | apply State.callInsn_keeps

theorem execWait_keeps {a s : State} (h : a.Keeps s) (x1 : _) :
    a.KeepsR (execWait x1 s) := by
  unfold execWait
  repeat' first | intro _ | with_reducible first | assumption | apply keepsR_next | apply State.issue_keeps | apply State.waitInsn_keeps

theorem State.loopInsn_keeps {a s : State} (h : a.Keeps s) (x2 : _) :
    a.Keeps (State.loopInsn s x2) := by
  unfold State.loopInsn
  repeat' first | intro _ | ((fail_if_no_progress extract_lets +onlyGivenNames z); clear_value z) | with_reducible first | assumption | apply State.trapAt_keeps | apply State.jump_keeps | apply State.retire_keeps | apply keeps_id | apply keeps_ite | split

theorem execLoop_keeps {a s : State} (h : a.Keeps s) (x1 : _) :
    a.KeepsR (execLoop x1 s) := by
  unfold execLoop
  repeat' first | intro _ | with_reducible first | assumption | apply keepsR_next | apply State.issue_keeps | apply State.loopInsn_keeps

theorem State.tdLoad_keeps {a s : State} (h : a.Keeps s) (x2 : _) :
    a.Keeps (State.tdLoad s x2) := by
  unfold State.tdLoad
  repeat' first | intro _ | ((fail_if_no_progress extract_lets +onlyGivenNames z); clear_value z) | with_reducible first | assumption | apply State.reading_keeps | apply State.retire_keeps | apply keeps_ite | split

theorem State.fenceInsn_keeps {a s : State} (h : a.Keeps s) (x2 : _) :
    a.Keeps (State.fenceInsn s x2) := by
  unfold State.fenceInsn
  repeat' first | intro _ | with_reducible first | assumption | apply State.retire_keeps | apply State.setWait_keeps | apply keeps_id | apply keeps_ite | split

theorem execFence_keeps {a s : State} (h : a.Keeps s) (x1 : _) :
    a.KeepsR (execFence x1 s) := by
  unfold execFence
  repeat' first | intro _ | with_reducible first | assumption | apply keepsR_next | apply State.issue_keeps | apply State.fenceInsn_keeps

theorem State.storeInsn_keeps {a s : State} (h : a.Keeps s) (x2 : _) :
    a.Keeps (State.storeInsn s x2) := by
  unfold State.storeInsn
  repeat' first | intro _ | ((fail_if_no_progress extract_lets +onlyGivenNames z); clear_value z) | with_reducible first | assumption | apply State.accessFault_keeps | apply State.taskWrite_keeps | apply State.meets_keeps | apply keeps_id | split

theorem execSignalAdd_keeps {a s : State} (h : a.Keeps s) (x1 : _) :
    a.KeepsR (execSignalAdd x1 s) := by
  unfold execSignalAdd
  repeat' first | intro _ | with_reducible first | assumption | apply keepsR_next | apply State.issue_keeps | apply State.signalInsn_keeps

theorem execBr_keeps {a s : State} (h : a.Keeps s) (x1 : _) :
    a.KeepsR (execBr x1 s) := by
  unfold execBr
  repeat' first | intro _ | with_reducible first | assumption | apply keepsR_next | apply State.issue_keeps | apply State.jump_keeps | apply keeps_id

theorem State.seqDrain_keeps {a s : State} (h : a.Keeps s) (x2 : _) (x3 : _) :
    a.Keeps (State.seqDrain s x2 x3) := by
  unfold State.seqDrain
  repeat' first | intro _ | with_reducible first | assumption | apply State.wr_keeps | apply keeps_ite | split

theorem State.memRecheck_keeps {a s : State} (h : a.Keeps s) (x2 : _) :
    a.Keeps (State.memRecheck s x2) := by
  unfold State.memRecheck
  repeat' first | intro _ | ((fail_if_no_progress extract_lets +onlyGivenNames z); clear_value z) | with_reducible first | assumption | apply State.reading_keeps | apply State.updTask_keeps | apply State.setWait_keeps | apply keeps_ite | split

theorem execMemoryConditionRecheck_keeps {a s : State} (h : a.Keeps s) (x1 : _) :
    a.KeepsR (execMemoryConditionRecheck x1 s) := by
  unfold execMemoryConditionRecheck
  repeat' first | intro _ | with_reducible first | assumption | apply keepsR_next | apply State.memRecheck_keeps

theorem execCalli_keeps {a s : State} (h : a.Keeps s) (x1 : _) :
    a.KeepsR (execCalli x1 s) := by
  unfold execCalli
  repeat' first | intro _ | with_reducible first | assumption | apply keepsR_next | apply State.issue_keeps | apply State.callInsn_keeps

theorem State.seqHandback_keeps {a s : State} (h : a.Keeps s) (x2 : _) :
    a.Keeps (State.seqHandback s x2) := by
  unfold State.seqHandback
  repeat' first | intro _ | with_reducible first | assumption | apply State.wr_keeps | apply keeps_ite | split

theorem execSeqCtrlHandback_keeps {a s : State} (h : a.Keeps s) (x1 : _) (x2 : _) :
    a.KeepsR (execSeqCtrlHandback x1 x2 s) := by
  unfold execSeqCtrlHandback
  repeat' first | intro _ | with_reducible first | assumption | apply keepsR_next | apply keepsR_ite | apply State.order_keeps | apply State.seqHandback_keeps | apply keeps_ite | split

theorem execPredicateOp_keeps {a s : State} (h : a.Keeps s) (x1 : _) :
    a.KeepsR (execPredicateOp x1 s) := by
  unfold execPredicateOp
  repeat' first | intro _ | with_reducible first | assumption | apply keepsR_next | apply State.issue_keeps | apply State.retire_keeps

theorem execJobCommit_keeps {a s : State} (h : a.Keeps s) (x1 : _) :
    a.KeepsR (execJobCommit x1 s) := by
  unfold execJobCommit
  repeat' first | intro _ | with_reducible first | assumption | apply keepsR_next | apply keepsR_ite | apply State.commitOrMirror_keeps | apply keeps_ite | split

theorem execCtx_keeps {a s : State} (h : a.Keeps s) (x1 : _) :
    a.KeepsR (execCtx x1 s) := by
  unfold execCtx
  repeat' first | intro _ | with_reducible first | assumption | apply keepsR_next | apply State.issue_keeps | apply State.retire_keeps

theorem execTrap_keeps {a s : State} (h : a.Keeps s) (x1 : _) :
    a.KeepsR (execTrap x1 s) := by
  unfold execTrap
  repeat' first | intro _ | with_reducible first | assumption | apply keepsR_next | apply State.issue_keeps | apply State.trap_keeps

theorem State.evpostInsn_keeps {a s : State} (h : a.Keeps s) (x2 : _) :
    a.Keeps (State.evpostInsn s x2) := by
  unfold State.evpostInsn
  repeat' first | intro _ | with_reducible first | assumption | apply State.retire_keeps | apply State.post_keeps | apply keeps_id

theorem execEvpost_keeps {a s : State} (h : a.Keeps s) (x1 : _) :
    a.KeepsR (execEvpost x1 s) := by
  unfold execEvpost
  repeat' first | intro _ | with_reducible first | assumption | apply keepsR_next | apply State.issue_keeps | apply State.evpostInsn_keeps

theorem execJobDispatch_keeps {a s : State} (h : a.Keeps s) :
    a.KeepsR (execJobDispatch s) := by
  unfold execJobDispatch
  repeat' first | intro _ | with_reducible first | assumption | apply keepsR_next | apply keepsR_ite | apply State.dispatchFrom_keeps | apply keeps_ite | split

theorem execWaitEq_keeps {a s : State} (h : a.Keeps s) (x1 : _) :
    a.KeepsR (execWaitEq x1 s) := by
  unfold execWaitEq
  repeat' first | intro _ | with_reducible first | assumption | apply keepsR_next | apply State.issue_keeps | apply State.memWait_keeps

theorem State.retInsn_keeps {a s : State} (h : a.Keeps s) (x2 : _) :
    a.Keeps (State.retInsn s x2) := by
  unfold State.retInsn
  repeat' first | intro _ | with_reducible first | assumption | apply State.trapAt_keeps | apply State.checkedJump_keeps | split

theorem execScldT_keeps {a s : State} (h : a.Keeps s) (x1 : _) :
    a.KeepsR (execScldT x1 s) := by
  unfold execScldT
  repeat' first | intro _ | with_reducible first | assumption | apply keepsR_next | apply State.issue_keeps | apply State.scldInsn_keeps

theorem execBri_keeps {a s : State} (h : a.Keeps s) (x1 : _) :
    a.KeepsR (execBri x1 s) := by
  unfold execBri
  repeat' first | intro _ | with_reducible first | assumption | apply keepsR_next | apply State.issue_keeps | apply State.checkedJump_keeps | apply keeps_id

theorem State.lpopInsn_keeps {a s : State} (h : a.Keeps s) (x2 : _) :
    a.Keeps (State.lpopInsn s x2) := by
  unfold State.lpopInsn
  repeat' first | intro _ | with_reducible first | assumption | apply State.trapAt_keeps | apply State.retire_keeps | split

theorem execTdinv_keeps {a s : State} (h : a.Keeps s) (x1 : _) :
    a.KeepsR (execTdinv x1 s) := by
  unfold execTdinv
  repeat' first | intro _ | ((fail_if_no_progress extract_lets +onlyGivenNames z); clear_value z) | with_reducible first | assumption | apply keepsR_next | apply State.issue_keeps | apply State.retire_keeps

theorem execTdadd_keeps {a s : State} (h : a.Keeps s) (x1 : _) :
    a.KeepsR (execTdadd x1 s) := by
  unfold execTdadd
  repeat' first | intro _ | ((fail_if_no_progress extract_lets +onlyGivenNames z); clear_value z) | with_reducible first | assumption | apply keepsR_next | apply State.issue_keeps | apply State.retire_keeps

theorem execAluRegister_keeps {a s : State} (h : a.Keeps s) (x1 : _) :
    a.KeepsR (execAluRegister x1 s) := by
  unfold execAluRegister
  repeat' first | intro _ | with_reducible first | assumption | apply keepsR_next | apply State.issue_keeps | apply State.retire_keeps

theorem execNop_keeps {a s : State} (h : a.Keeps s) (x1 : _) :
    a.KeepsR (execNop x1 s) := by
  unfold execNop
  repeat' first | intro _ | with_reducible first | assumption | apply keepsR_next | apply State.issue_keeps | apply State.retire_keeps | apply keeps_id

theorem execTdset_keeps {a s : State} (h : a.Keeps s) (x1 : _) :
    a.KeepsR (execTdset x1 s) := by
  unfold execTdset
  repeat' first | intro _ | ((fail_if_no_progress extract_lets +onlyGivenNames z); clear_value z) | with_reducible first | assumption | apply keepsR_next | apply State.issue_keeps | apply State.retire_keeps | split

theorem execTdget_keeps {a s : State} (h : a.Keeps s) (x1 : _) :
    a.KeepsR (execTdget x1 s) := by
  unfold execTdget
  repeat' first | intro _ | with_reducible first | assumption | apply keepsR_next | apply State.issue_keeps | apply State.retire_keeps

theorem execSeqCtrlDrainWrite_keeps {a s : State} (h : a.Keeps s) (x1 : _) (x2 : _) :
    a.KeepsR (execSeqCtrlDrainWrite x1 x2 s) := by
  unfold execSeqCtrlDrainWrite
  repeat' first | intro _ | with_reducible first | assumption | apply keepsR_next | apply keepsR_ite | apply State.order_keeps | apply State.seqDrain_keeps | apply keeps_ite | split

theorem execBrc_keeps {a s : State} (h : a.Keeps s) (x1 : _) :
    a.KeepsR (execBrc x1 s) := by
  unfold execBrc
  repeat' first | intro _ | with_reducible first | assumption | apply keepsR_next | apply keepsR_ite | apply State.issue_keeps | apply State.jump_keeps | apply State.retire_keeps | apply keeps_id | apply keeps_ite | split

theorem execAluImmediate_keeps {a s : State} (h : a.Keeps s) (x1 : _) :
    a.KeepsR (execAluImmediate x1 s) := by
  unfold execAluImmediate
  repeat' first | intro _ | with_reducible first | assumption | apply keepsR_next | apply State.issue_keeps | apply State.retire_keeps

theorem execStore_keeps {a s : State} (h : a.Keeps s) (x1 : _) :
    a.KeepsR (execStore x1 s) := by
  unfold execStore
  repeat' first | intro _ | with_reducible first | assumption | apply keepsR_next | apply State.issue_keeps | apply State.storeInsn_keeps

theorem execBar_keeps {a s : State} (h : a.Keeps s) (x1 : _) :
    a.KeepsR (execBar x1 s) := by
  unfold execBar
  repeat' first | intro _ | with_reducible first | assumption | apply keepsR_next | apply State.issue_keeps | apply State.setWait_keeps

theorem execCmp_keeps {a s : State} (h : a.Keeps s) (x1 : _) :
    a.KeepsR (execCmp x1 s) := by
  unfold execCmp
  repeat' first | intro _ | with_reducible first | assumption | apply keepsR_next | apply State.issue_keeps | apply State.retire_keeps

theorem execWaitNe_keeps {a s : State} (h : a.Keeps s) (x1 : _) :
    a.KeepsR (execWaitNe x1 s) := by
  unfold execWaitNe
  repeat' first | intro _ | with_reducible first | assumption | apply keepsR_next | apply State.issue_keeps | apply State.memWait_keeps

theorem execEndl_keeps {a s : State} (h : a.Keeps s) (x1 : _) :
    a.KeepsR (execEndl x1 s) := by
  unfold execEndl
  repeat' first | intro _ | with_reducible first | assumption | apply keepsR_next | apply State.issue_keeps | apply State.endlInsn_keeps

theorem execTdld_keeps {a s : State} (h : a.Keeps s) (x1 : _) :
    a.KeepsR (execTdld x1 s) := by
  unfold execTdld
  repeat' first | intro _ | with_reducible first | assumption | apply keepsR_next | apply State.issue_keeps | apply State.tdLoad_keeps

theorem execRet_keeps {a s : State} (h : a.Keeps s) (x1 : _) :
    a.KeepsR (execRet x1 s) := by
  unfold execRet
  repeat' first | intro _ | with_reducible first | assumption | apply keepsR_next | apply State.issue_keeps | apply State.retInsn_keeps

theorem execLpop_keeps {a s : State} (h : a.Keeps s) (x1 : _) :
    a.KeepsR (execLpop x1 s) := by
  unfold execLpop
  repeat' first | intro _ | with_reducible first | assumption | apply keepsR_next | apply State.issue_keeps | apply State.lpopInsn_keeps

end Sys2Proof.Machine
end

