-- ==== Sys2Proof/Laws/KeepsArray.lean ====
section
/-!
SUPPORT. Laws/KeepsArray.lean: the operations of Machine/Array.lean keep what Laws/Keeps.lean names.
-/

set_option linter.unusedTactic false
set_option linter.unusedVariables false
set_option linter.tactic.unusedName false
set_option linter.unreachableTactic false

namespace Sys2Proof.Machine

theorem State.dgaHold_keeps {a s : State} (h : a.Keeps s) (x2 : _) (x3 : _) :
    a.Keeps (State.dgaHold s x2 x3) := by
  unfold State.dgaHold
  repeat' first | intro _ | with_reducible first | assumption | apply State.wr_keeps | apply keeps_ite | split

theorem State.startOp_keeps {a s : State} (h : a.Keeps s) (x2 : _) (x3 : _) (x4 : _) :
    a.Keeps (State.startOp s x2 x3 x4) := by
  unfold State.startOp
  repeat' first | intro _ | ((fail_if_no_progress extract_lets +onlyGivenNames z); first | (refine keeps_cut (a := a) z ?_ fun hz => ?_) <;> [subst z; clear_value z] | clear_value z) | with_reducible first | assumption | apply State.tensorTrap_keeps | apply State.addJobFlag_keeps | apply State.launch_keeps | apply keeps_ite | split

theorem State.arrayInsn_keeps {a s : State} (h : a.Keeps s) (x2 : _) (x3 : _) :
    a.Keeps (State.arrayInsn s x2 x3) := by
  unfold State.arrayInsn
  repeat' first | intro _ | with_reducible first | assumption | apply State.issue_keeps | apply State.startOp_keeps

theorem execMm_keeps {a s : State} (h : a.Keeps s) (x1 : _) :
    a.KeepsR (execMm x1 s) := by
  unfold execMm
  repeat' first | intro _ | with_reducible first | assumption | apply keepsR_next | apply State.arrayInsn_keeps | split

theorem State.blockEnd_keeps {a s : State} (h : a.Keeps s) (x2 : _) :
    a.Keeps (State.blockEnd s x2).1 := by
  unfold State.blockEnd
  repeat' first | intro _ | ((fail_if_no_progress extract_lets +onlyGivenNames z); first | (refine keeps_cut (a := a) z ?_ fun hz => ?_) <;> [subst z; clear_value z] | clear_value z) | with_reducible first | assumption | apply State.bump_keeps | fail_if_no_progress apply keeps_mk | apply keeps_ite | split

theorem execSmax_keeps {a s : State} (h : a.Keeps s) (x1 : _) :
    a.KeepsR (execSmax x1 s) := by
  unfold execSmax
  repeat' first | intro _ | with_reducible first | assumption | apply keepsR_next | apply State.arrayInsn_keeps | split

theorem execMmat_keeps {a s : State} (h : a.Keeps s) (x1 : _) :
    a.KeepsR (execMmat x1 s) := by
  unfold execMmat
  repeat' first | intro _ | with_reducible first | assumption | apply keepsR_next | apply State.arrayInsn_keeps | split

theorem State.dmaPump_keeps {a s : State} (h : a.Keeps s) (x2 : _) (x3 : _) :
    a.Keeps (State.dmaPump s x2 x3) := by
  induction x3 generalizing s <;> [skip; rename_i ih]
  all_goals unfold State.dmaPump
  repeat' first | intro _ | ((fail_if_no_progress extract_lets +onlyGivenNames z); clear_value z) | with_reducible first | assumption | fail_if_no_progress apply keeps_mk | apply keeps_ite | apply ih | split

theorem State.opFault_keeps {a s : State} (h : a.Keeps s) (x2 : _) (x3 : _) :
    a.Keeps (State.opFault s x2 x3) := by
  unfold State.opFault
  repeat' first | intro _ | ((fail_if_no_progress extract_lets +onlyGivenNames z); (refine keeps_cut (a := a) z ?_ fun hz => ?_) <;> [subst z; clear_value z]) | with_reducible first | assumption | apply State.countDeniedTds_keeps | apply State.faultJob_keeps | apply keeps_ite | split

theorem State.finishOp_keeps {a s : State} (h : a.Keeps s) (x2 : _) (x3 : _) (hx3 : a.KeepsE x3) :
    a.Keeps (State.finishOp s x2 x3) := by
  unfold State.finishOp
  repeat' first | intro _ | exact hx3 | with_reducible first | assumption | apply State.opDone_keeps | apply State.keepTracker_keeps | apply State.opFault_keeps | apply keeps_ite | split

theorem State.dgaClear_keeps {a s : State} (h : a.Keeps s) (x2 : _) :
    a.Keeps (State.dgaClear s x2) := by
  unfold State.dgaClear
  repeat' first | intro _ | with_reducible first | assumption | apply State.wr_keeps | apply foldl_keeps | apply keeps_ite | split

theorem execDgaCtrlClear_keeps {a s : State} (h : a.Keeps s) (x1 : _) (x2 : _) :
    a.KeepsR (execDgaCtrlClear x1 x2 s) := by
  unfold execDgaCtrlClear
  repeat' first | intro _ | with_reducible first | assumption | apply keepsR_next | apply keepsR_ite | apply State.order_keeps | apply State.when_keeps | apply State.dgaClear_keeps | apply keeps_ite | split

theorem State.dgaHandback_keeps {a s : State} (h : a.Keeps s) (x2 : _) :
    a.Keeps (State.dgaHandback s x2) := by
  unfold State.dgaHandback
  repeat' first | intro _ | with_reducible first | assumption | apply State.wr_keeps | apply keeps_ite | split

theorem execDgaCtrlHandback_keeps {a s : State} (h : a.Keeps s) (x1 : _) (x2 : _) :
    a.KeepsR (execDgaCtrlHandback x1 x2 s) := by
  unfold execDgaCtrlHandback
  repeat' first | intro _ | with_reducible first | assumption | apply keepsR_next | apply keepsR_ite | apply State.order_keeps | apply State.when_keeps | apply State.dgaHandback_keeps | apply keeps_ite | split

theorem execEw_keeps {a s : State} (h : a.Keeps s) (x1 : _) :
    a.KeepsR (execEw x1 s) := by
  unfold execEw
  repeat' first | intro _ | with_reducible first | assumption | apply keepsR_next | apply State.arrayInsn_keeps | split

theorem State.opReads_keeps {a s : State} (h : a.Keeps s) (x2 : _) (x3 : _) :
    a.Keeps (State.opReads s x2 x3).2 := by
  unfold State.opReads
  repeat' first | intro _ | ((fail_if_no_progress extract_lets +onlyGivenNames z); (refine keeps_cut2 (a := a) z ?_ fun hz => ?_) <;> [subst z; clear_value z]) | with_reducible first | assumption | apply State.reads_keeps | apply State.faultJob_keeps | apply keeps2_ite | apply keeps_ite | refine keeps_of2 (by assumption) ?_ | split

theorem execNormLayer_keeps {a s : State} (h : a.Keeps s) (x1 : _) :
    a.KeepsR (execNormLayer x1 s) := by
  unfold execNormLayer
  repeat' first | intro _ | with_reducible first | assumption | apply keepsR_next | apply State.arrayInsn_keeps | split

theorem State.dmaRelease_keeps {a s : State} (h : a.Keeps s) (x2 : _) (x3 : _) :
    a.Keeps (State.dmaRelease s x2 x3) := by
  unfold State.dmaRelease
  repeat' first | intro _ | with_reducible first | assumption | fail_if_no_progress apply keeps_mk | split

theorem execDmaDescriptorTimeout_keeps {a s : State} (h : a.Keeps s) (x1 : _) (x2 : _) (x3 : _) :
    a.KeepsR (execDmaDescriptorTimeout x1 x2 x3 s) := by
  unfold execDmaDescriptorTimeout
  repeat' first | intro _ | ((fail_if_no_progress extract_lets +onlyGivenNames z); clear_value z) | with_reducible first | assumption | apply keepsR_next | apply keepsR_ite | apply State.dmaPump_keeps | apply State.timeout_keeps | apply State.dmaRelease_keeps | apply keeps_ite | split

theorem execRed_keeps {a s : State} (h : a.Keeps s) (x1 : _) :
    a.KeepsR (execRed x1 s) := by
  unfold execRed
  repeat' first | intro _ | with_reducible first | assumption | apply keepsR_next | apply State.arrayInsn_keeps | split

theorem State.arrayPick_keeps {a s : State} (h : a.Keeps s) (x2 : _) (x3 : _) :
    a.Keeps (State.arrayPick s x2 x3) := by
  unfold State.arrayPick
  repeat' first | intro _ | ((fail_if_no_progress extract_lets +onlyGivenNames z); (refine keeps_cut (a := a) z ?_ fun hz => ?_) <;> [subst z; clear_value z]) | with_reducible first | assumption | apply State.wr_keeps | fail_if_no_progress apply keeps_mk | apply keeps_ite | split

theorem execDgaCtrlHoldWrite_keeps {a s : State} (h : a.Keeps s) (x1 : _) (x2 : _) :
    a.KeepsR (execDgaCtrlHoldWrite x1 x2 s) := by
  unfold execDgaCtrlHoldWrite
  repeat' first | intro _ | with_reducible first | assumption | apply keepsR_next | apply keepsR_ite | apply State.order_keeps | apply State.dgaHold_keeps | apply keeps_ite | split

theorem State.startDma_keeps {a s : State} (h : a.Keeps s) (x2 : _) :
    a.Keeps (State.startDma s x2) := by
  unfold State.startDma
  repeat' first | intro _ | with_reducible first | assumption | apply State.dmaPump_keeps | apply State.startOp_keeps

theorem execGather_keeps {a s : State} (h : a.Keeps s) (x1 : _) :
    a.KeepsR (execGather x1 s) := by
  unfold execGather
  repeat' first | intro _ | with_reducible first | assumption | apply keepsR_next | apply State.issue_keeps | apply State.startDma_keeps | split

theorem State.copyWrites_keeps {a s : State} (h : a.Keeps s) (x2 : _) (x3 : _) :
    a.KeepsE (State.copyWrites s x2 x3) := by
  unfold State.copyWrites
  repeat' first | intro _ | with_reducible first | assumption | apply keepsE_error | apply keepsE_ok | apply keepsE_ite | apply State.jobWrites_keeps | fail_if_no_progress apply keeps_mk | apply keeps_ite | refine keeps_ofE (by assumption) ?_ | split

theorem State.moveResult_keeps {a s : State} (h : a.Keeps s) (x2 : _) :
    a.KeepsE (State.moveResult s x2) := by
  unfold State.moveResult
  repeat' first | intro _ | with_reducible first | assumption | apply keepsE_error | apply keepsE_ok | apply keepsE_ite | apply State.copyWrites_keeps | apply keeps_ite | refine keeps_ofE (by assumption) ?_ | split

theorem State.dmaDone_keeps {a s : State} (h : a.Keeps s) (x2 : _) :
    a.Keeps (State.dmaDone s x2) := by
  unfold State.dmaDone
  repeat' first | intro _ | ((fail_if_no_progress extract_lets +onlyGivenNames z); (refine keeps_cut (a := a) z ?_ fun hz => ?_) <;> [subst z; clear_value z]) | with_reducible first | assumption | apply State.bump_keeps | apply State.faultJob_keeps | apply State.finishOp_keeps | apply State.moveResult_keeps | fail_if_no_progress apply keeps_mk | apply keeps_ite | refine keeps_ofE (by assumption) ?_ | split

theorem execQnt_keeps {a s : State} (h : a.Keeps s) (x1 : _) :
    a.KeepsR (execQnt x1 s) := by
  unfold execQnt
  repeat' first | intro _ | with_reducible first | assumption | apply keepsR_next | apply State.arrayInsn_keeps | split

theorem execMovt_keeps {a s : State} (h : a.Keeps s) (x1 : _) :
    a.KeepsR (execMovt x1 s) := by
  unfold execMovt
  repeat' first | intro _ | with_reducible first | assumption | apply keepsR_next | apply State.issue_keeps | apply State.startDma_keeps | split

theorem State.resultOf_keeps {a s : State} (h : a.Keeps s) (x2 : _) (x3 : _) :
    a.KeepsE (State.resultOf s x2 x3) := by
  unfold State.resultOf
  repeat' first | intro _ | ((fail_if_no_progress extract_lets +onlyGivenNames z); first | (refine keeps_cut (a := a) z ?_ fun hz => ?_) <;> [subst z; clear_value z] | clear_value z) | with_reducible first | assumption | apply keepsE_error | apply keepsE_ok | apply keepsE_ite | apply State.writeSteps_keeps | apply State.countStat_keeps | fail_if_no_progress apply keeps_mk | apply keeps_ite | refine keeps_ofE (by assumption) ?_ | refine keeps_ofEP (by assumption) ?_ | split

theorem State.opResult_keeps {a s : State} (h : a.Keeps s) (x2 : _) :
    a.KeepsE (State.opResult s x2) := by
  unfold State.opResult
  repeat' first | intro _ | with_reducible first | assumption | apply keepsE_error | apply keepsE_ok | apply State.resultOf_keeps | refine keeps_ofE (by assumption) ?_

theorem State.dmaEnd_keeps {a s : State} (h : a.Keeps s) (x2 : _) (x3 : _) (x4 : _) :
    a.Keeps (State.dmaEnd s x2 x3 x4) := by
  unfold State.dmaEnd
  repeat' first | intro _ | ((fail_if_no_progress extract_lets +onlyGivenNames z); (first | refine keeps_cut (a := a) z ?_ fun hz => ?_ | refine keeps_cut2 (a := a) z ?_ fun hz => ?_) <;> [subst z; clear_value z]) | with_reducible first | assumption | apply State.dmaPump_keeps | apply State.dmaRelease_keeps | apply State.opReads_keeps | apply State.dmaDone_keeps | apply keeps_ite | refine keeps_of2 (by assumption) ?_ | split

theorem execNormRms_keeps {a s : State} (h : a.Keeps s) (x1 : _) :
    a.KeepsR (execNormRms x1 s) := by
  unfold execNormRms
  repeat' first | intro _ | with_reducible first | assumption | apply keepsR_next | apply State.arrayInsn_keeps | split

theorem execMma_keeps {a s : State} (h : a.Keeps s) (x1 : _) :
    a.KeepsR (execMma x1 s) := by
  unfold execMma
  repeat' first | intro _ | with_reducible first | assumption | apply keepsR_next | apply State.arrayInsn_keeps | split

theorem execMmt_keeps {a s : State} (h : a.Keeps s) (x1 : _) :
    a.KeepsR (execMmt x1 s) := by
  unfold execMmt
  repeat' first | intro _ | with_reducible first | assumption | apply keepsR_next | apply State.arrayInsn_keeps | split

theorem execDmaDescriptorDone_keeps {a s : State} (h : a.Keeps s) (x1 : _) :
    a.KeepsR (execDmaDescriptorDone x1 s) := by
  unfold execDmaDescriptorDone
  repeat' first | intro _ | with_reducible first | assumption | apply keepsR_next | apply keepsR_ite | apply State.dmaEnd_keeps | apply keeps_ite | split

theorem execScatter_keeps {a s : State} (h : a.Keeps s) (x1 : _) :
    a.KeepsR (execScatter x1 s) := by
  unfold execScatter
  repeat' first | intro _ | with_reducible first | assumption | apply keepsR_next | apply State.issue_keeps | apply State.startDma_keeps | split

theorem execDqnt_keeps {a s : State} (h : a.Keeps s) (x1 : _) :
    a.KeepsR (execDqnt x1 s) := by
  unfold execDqnt
  repeat' first | intro _ | with_reducible first | assumption | apply keepsR_next | apply State.arrayInsn_keeps | split

end Sys2Proof.Machine
end

