-- ==== Sys2Proof/Laws/KeepsFeed.lean ====
section
/-!
SUPPORT. Laws/KeepsFeed.lean: the operations of Machine/Feed.lean keep what Laws/Keeps.lean names.
-/

set_option linter.unusedTactic false
set_option linter.unusedVariables false
set_option linter.tactic.unusedName false
set_option linter.unreachableTactic false

namespace Sys2Proof.Machine

theorem State.postReq_keeps {a s : State} (h : a.Keeps s) (x2 : _) (x3 : _) (x4 : _) (x5 : _) :
    a.Keeps (State.postReq s x2 x3 x4 x5) := by
  unfold State.postReq
  repeat' first | intro _ | ((fail_if_no_progress extract_lets +onlyGivenNames z); first | (first | refine keeps_cut (a := a) z ?_ fun hz => ?_ | refine keeps_cut2 (a := a) z ?_ fun hz => ?_) <;> [subst z; clear_value z] | clear_value z) | with_reducible first | assumption | apply State.nextIssue_keeps | apply State.repairHurry_keeps | fail_if_no_progress apply keeps_mk | refine keeps_of2 (by assumption) ?_

theorem State.layerLost_keeps {a s : State} (h : a.Keeps s) (x2 : _) (x3 : _) :
    a.KeepsO (State.layerLost s x2 x3) := by
  unfold State.layerLost
  repeat' first | intro _ | ((fail_if_no_progress extract_lets +onlyGivenNames z); clear_value z) | with_reducible first | assumption | apply keepsO_none | apply keepsO_some | apply keepsO_ite | apply State.loseJob_keeps | apply State.faultJob_keeps | apply keeps_ite | split

theorem State.postFrom_keeps {a s : State} (h : a.Keeps s) (x1 : _) (x2 : _) (x3 : _) (x4 : _) (x5 : _) :
    a.Keeps (State.postFrom x1 x2 x3 x4 x5 s) := by
  induction x4 generalizing s x5 <;> [skip; rename_i ih]
  all_goals unfold State.postFrom
  repeat' first | intro _ | ((fail_if_no_progress extract_lets +onlyGivenNames z); (refine keeps_cut (a := a) z ?_ fun hz => ?_) <;> [subst z; clear_value z]) | with_reducible first | assumption | apply State.setWait_keeps | apply State.issueTicket_keeps | apply State.layerLost_keeps | apply State.postReq_keeps | apply keeps_ite | refine keeps_ofO (by assumption) ?_ | apply ih | split

theorem State.stitchIssue_keeps {a s : State} (h : a.Keeps s) (x2 : _) (x3 : _) :
    a.Keeps (State.stitchIssue s x2 x3) := by
  unfold State.stitchIssue
  repeat' first | intro _ | ((fail_if_no_progress extract_lets +onlyGivenNames z); first | (refine keeps_cut (a := a) z ?_ fun hz => ?_) <;> [subst z; clear_value z] | clear_value z) | with_reducible first | assumption | apply State.tensorTrap_keeps | apply State.endJob_keeps | apply State.layerLost_keeps | apply State.keepTracker_keeps | apply State.postFrom_keeps | fail_if_no_progress apply keeps_mk | apply keeps_ite | refine keeps_ofO (by assumption) ?_ | split

theorem execStitch_keeps {a s : State} (h : a.Keeps s) (x1 : _) :
    a.KeepsR (execStitch x1 s) := by
  unfold execStitch
  repeat' first | intro _ | with_reducible first | assumption | apply keepsR_next | apply State.issue_keeps | apply State.stitchIssue_keeps | split

theorem State.feedPump_keeps {a s : State} (h : a.Keeps s) :
    a.Keeps (State.feedPump s) := by
  unfold State.feedPump
  repeat' first | intro _ | with_reducible first | assumption | apply State.each_keeps | apply State.stopAgain_keeps | apply State.postFrom_keeps | split

theorem execRstitch_keeps {a s : State} (h : a.Keeps s) (x1 : _) :
    a.KeepsR (execRstitch x1 s) := by
  unfold execRstitch
  repeat' first | intro _ | with_reducible first | assumption | apply keepsR_next | apply State.issue_keeps | apply State.stitchIssue_keeps | split

theorem execFeederLoadDone_keeps {a s : State} (h : a.Keeps s) (x1 : _) (x2 : _) :
    a.KeepsR (execFeederLoadDone x1 x2 s) := by
  unfold execFeederLoadDone
  repeat' first | intro _ | ((fail_if_no_progress extract_lets +onlyGivenNames z); first | (refine keeps_cut2 (a := a) z ?_ fun hz => ?_) <;> [subst z; clear_value z] | clear_value z) | with_reducible first | assumption | apply keepsR_next | apply keepsR_ite | apply State.jobRead_keeps | apply State.faultJob_keeps | apply State.updTile_keeps | apply keeps_ite | refine keeps_of2 (by assumption) ?_ | split

end Sys2Proof.Machine
end

