-- ==== Sys2Proof/Laws/KeepsYoke.lean ====
section
/-!
SUPPORT. Laws/KeepsYoke.lean: the operations of Machine/Yoke.lean keep what Laws/Keeps.lean names.
-/

set_option linter.unusedTactic false
set_option linter.unusedVariables false
set_option linter.tactic.unusedName false
set_option linter.unreachableTactic false

namespace Sys2Proof.Machine

theorem State.updStitch_keeps {a s : State} (h : a.Keeps s) (x2 : _) (x3 : _) :
    a.Keeps (State.updStitch s x2 x3) := by
  unfold State.updStitch
  repeat' first | intro _ | with_reducible first | assumption | fail_if_no_progress apply keeps_mk | apply keeps_ite | split

theorem keeps_cutK {a : State} {P : Prop} (z : Pick) (h : a.Keeps z.s) (k : a.Keeps z.s → P) : P := k h
theorem keepsK_mk {a s : State} (h : a.Keeps s) (f : List Fire) (u : List Nat) (p : SMap Nat) (l : SMap Rat) (g : List Nat) :
    a.Keeps (Pick.mk s f u p l g).s := h
theorem keepsK_ite {a : State} {c : Prop} [Decidable c] {t u : Pick} (h : a.Keeps t.s) (k : a.Keeps u.s) :
    a.Keeps (if c then t else u).s := by
  split
  · exact h
  · exact k
theorem keepsK_foldl {a : State} {α : Type} {p : Pick} (h : a.Keeps p.s) (l : List α) (f : Pick → α → Pick)
    (hf : ∀ t x, a.Keeps t.s → a.Keeps (f t x).s) : a.Keeps (l.foldl f p).s := by
  induction l generalizing p with
  | nil => exact h
  | cons x l ih => exact ih (hf p x h)

theorem Pick.add_keeps {a : State} {p : Pick} (h : a.Keeps p.s) (x2 : _) (x3 : _) :
    a.Keeps (Pick.add p x2 x3).s := by
  unfold Pick.add
  repeat' first
    | intro _
    | (fail_if_no_progress extract_lets +onlyGivenNames z; first | (refine keeps_fn (z := z) ?_; subst z; beta_reduce) | clear_value z)
    | with_reducible assumption
    | with_reducible apply State.bump_keeps
    | with_reducible apply State.when_keeps
    | fail_if_no_progress with_reducible refine keepsK_mk ?_ _ _ _ _ _
    | with_reducible apply keepsK_ite

theorem Pick.tryRev_keeps {a : State} {p : Pick} (h : a.Keeps p.s) (x2 : _) :
    a.Keeps (Pick.tryRev p x2).s := by
  unfold Pick.tryRev
  repeat' first | intro _ | ((fail_if_no_progress extract_lets +onlyGivenNames z); (refine keeps_cutK (a := a) z ?_ fun hz => ?_) <;> [subst z; clear_value z]) | with_reducible first | assumption | apply State.faultJob_keeps | apply Pick.add_keeps | fail_if_no_progress refine keepsK_mk ?_ _ _ _ _ _ | apply keepsK_foldl | apply keepsK_ite | apply keeps_ite | split

theorem Pick.tryPass_keeps {a : State} {p : Pick} (h : a.Keeps p.s) (x2 : _) :
    a.Keeps (Pick.tryPass p x2).s := by
  unfold Pick.tryPass
  repeat' first | intro _ | with_reducible first | assumption | apply Pick.add_keeps | fail_if_no_progress refine keepsK_mk ?_ _ _ _ _ _ | apply keepsK_foldl | apply keepsK_ite | apply keeps_ite | split

theorem Pick.tryCheck_keeps {a : State} {p : Pick} (h : a.Keeps p.s) (x2 : _) :
    a.Keeps (Pick.tryCheck p x2).s := by
  unfold Pick.tryCheck
  repeat' first | intro _ | with_reducible first | assumption | apply Pick.add_keeps | fail_if_no_progress refine keepsK_mk ?_ _ _ _ _ _ | apply keepsK_foldl | apply keepsK_ite | apply keeps_ite | split

theorem Pick.tryReq_keeps {a : State} {p : Pick} (h : a.Keeps p.s) (x2 : _) :
    a.Keeps (Pick.tryReq p x2).s := by
  unfold Pick.tryReq
  repeat' first | intro _ | ((fail_if_no_progress extract_lets +onlyGivenNames z); first | (first | refine keeps_cut (a := a) z ?_ fun hz => ?_ | refine keeps_cutK (a := a) z ?_ fun hz => ?_) <;> [subst z; clear_value z] | clear_value z) | with_reducible first | assumption | apply State.faultJob_keeps | apply State.bump_keeps | apply State.endJob_keeps | apply Pick.add_keeps | apply State.setAx_keeps | fail_if_no_progress apply keeps_mk | fail_if_no_progress refine keepsK_mk ?_ _ _ _ _ _ | apply keepsK_foldl | apply keepsK_ite | apply keeps_ite | split

theorem Pick.tryCal_keeps {a : State} {p : Pick} (h : a.Keeps p.s) (x2 : _) :
    a.Keeps (Pick.tryCal p x2).s := by
  unfold Pick.tryCal
  repeat' first | intro _ | ((fail_if_no_progress extract_lets +onlyGivenNames z); clear_value z) | with_reducible first | assumption | apply Pick.add_keeps | fail_if_no_progress refine keepsK_mk ?_ _ _ _ _ _ | apply keepsK_foldl | apply keepsK_ite | apply keeps_ite | split

theorem State.content_keeps {a s : State} (h : a.Keeps s) :
    a.Keeps (State.content s).s := by
  unfold State.content
  repeat' first | intro _ | ((fail_if_no_progress extract_lets +onlyGivenNames z); (refine keeps_cutK (a := a) z ?_ fun hz => ?_) <;> [subst z; clear_value z]) | with_reducible first | assumption | apply Pick.tryRev_keeps | apply Pick.tryPass_keeps | apply Pick.tryCheck_keeps | apply Pick.tryReq_keeps | apply Pick.tryCal_keeps | apply foldl_keeps | fail_if_no_progress refine keepsK_mk ?_ _ _ _ _ _ | apply keepsK_foldl | apply keepsK_ite | split

theorem State.yokExpert_keeps {a s : State} (h : a.Keeps s) :
    a.Keeps (State.yokExpert s) := by
  unfold State.yokExpert
  repeat' first | intro _ | with_reducible first | assumption | apply State.wr_keeps

theorem State.lost_keeps {a s : State} (h : a.Keeps s) (x2 : _) (x3 : _) :
    a.Keeps (State.lost s x2 x3) := by
  unfold State.lost
  repeat' first | intro _ | with_reducible first | assumption | apply State.bump_keeps

theorem execPeriodMarker_keeps {a s : State} (h : a.Keeps s) (x1 : _) :
    a.KeepsR (execPeriodMarker x1 s) := by
  unfold execPeriodMarker
  repeat' first | intro _ | ((fail_if_no_progress extract_lets +onlyGivenNames z); (refine keeps_cut (a := a) z ?_ fun hz => ?_) <;> [subst z; clear_value z]) | with_reducible first | assumption | apply keepsR_next | apply keepsR_ite | apply State.lost_keeps | apply State.setAx_keeps | apply keeps_ite | split

theorem State.excuse_keeps {a s : State} (h : a.Keeps s) (x2 : _) :
    a.Keeps (State.excuse s x2) := by
  unfold State.excuse
  repeat' first | intro _ | ((fail_if_no_progress extract_lets +onlyGivenNames z); first | (refine keeps_cut (a := a) z ?_ fun hz => ?_) <;> [subst z; clear_value z] | clear_value z) | with_reducible first | assumption | apply State.setAx_keeps | fail_if_no_progress apply keeps_mk | apply keeps_ite | split

theorem State.yokHandback_keeps {a s : State} (h : a.Keeps s) :
    a.Keeps (State.yokHandback s) := by
  unfold State.yokHandback
  repeat' first | intro _ | ((fail_if_no_progress extract_lets +onlyGivenNames z); (refine keeps_cut (a := a) z ?_ fun hz => ?_) <;> [subst z; clear_value z]) | with_reducible first | assumption | apply State.excuse_keeps | apply State.applyCaps_keeps | apply State.wr_keeps | apply keeps_ite | split

theorem State.yokRefused_keeps {a s : State} (h : a.Keeps s) :
    a.Keeps (State.yokRefused s) := by
  unfold State.yokRefused
  repeat' first | intro _ | with_reducible first | assumption | apply State.wr_keeps

theorem execYokPeriodWrite_keeps {a s : State} (h : a.Keeps s) (x1 : _) :
    a.KeepsR (execYokPeriodWrite x1 s) := by
  unfold execYokPeriodWrite
  repeat' first | intro _ | ((fail_if_no_progress extract_lets +onlyGivenNames z); clear_value z) | with_reducible first | assumption | apply keepsR_next | apply keepsR_ite | apply State.order_keeps | apply State.yokRefused_keeps | apply State.wr_keeps | apply keeps_ite | split

theorem State.yokClear_keeps {a s : State} (h : a.Keeps s) :
    a.Keeps (State.yokClear s) := by
  unfold State.yokClear
  repeat' first | intro _ | with_reducible first | assumption | apply State.each_keeps | apply State.wr_keeps

theorem execFeedQueueStarvation_keeps {a s : State} (h : a.Keeps s) (x1 : _) :
    a.KeepsR (execFeedQueueStarvation x1 s) := by
  unfold execFeedQueueStarvation
  repeat' first | intro _ | ((fail_if_no_progress extract_lets +onlyGivenNames z); first | (refine keeps_cut (a := a) z ?_ fun hz => ?_) <;> [subst z; clear_value z] | clear_value z) | with_reducible first | assumption | apply keepsR_next | apply keepsR_ite | apply State.excuse_keeps | apply State.timeout_keeps | apply keeps_ite | split

theorem execYokCtrlHandback_keeps {a s : State} (h : a.Keeps s) (x1 : _) :
    a.KeepsR (execYokCtrlHandback x1 s) := by
  unfold execYokCtrlHandback
  repeat' first | intro _ | with_reducible first | assumption | apply keepsR_next | apply State.order_keeps | apply State.when_keeps | apply State.yokHandback_keeps | split

theorem execYokThrottleWrite_keeps {a s : State} (h : a.Keeps s) (x1 : _) :
    a.KeepsR (execYokThrottleWrite x1 s) := by
  unfold execYokThrottleWrite
  repeat' first | intro _ | ((fail_if_no_progress extract_lets +onlyGivenNames z); clear_value z) | with_reducible first | assumption | apply keepsR_next | apply keepsR_ite | apply State.order_keeps | apply State.wr_keeps | apply State.yokExpert_keeps | apply keeps_ite | split

theorem execAccountingWindowEnd_keeps {a s : State} (h : a.Keeps s) :
    a.KeepsR (execAccountingWindowEnd s) := by
  unfold execAccountingWindowEnd
  repeat' first | intro _ | with_reducible first | assumption | apply keepsR_next | apply State.each_keeps | apply State.setAx_keeps

theorem execYokCtrlHoldAllWrite_keeps {a s : State} (h : a.Keeps s) (x1 : _) :
    a.KeepsR (execYokCtrlHoldAllWrite x1 s) := by
  unfold execYokCtrlHoldAllWrite
  repeat' first | intro _ | with_reducible first | assumption | apply keepsR_next | apply keepsR_ite | apply State.order_keeps | apply State.wr_keeps | apply State.excuse_keeps | apply State.yokExpert_keeps | apply keeps_ite | split

theorem State.fireTile_keeps {a s : State} (h : a.Keeps s) (x2 : _) (x3 : _) (x4 : _) (x5 : _) (x6 : _) :
    a.Keeps (State.fireTile s x2 x3 x4 x5 x6) := by
  unfold State.fireTile
  repeat' first | intro _ | ((fail_if_no_progress extract_lets +onlyGivenNames z); first | (refine keeps_cut (a := a) z ?_ fun hz => ?_) <;> [subst z; clear_value z] | clear_value z) | with_reducible first | assumption | apply State.wr_keeps | apply State.bump_keeps | apply State.updTile_keeps | apply keeps_ite | split

theorem State.restOthers_keeps {a s : State} (h : a.Keeps s) (x2 : _) :
    a.Keeps (State.restOthers s x2) := by
  unfold State.restOthers
  repeat' first | intro _ | ((fail_if_no_progress extract_lets +onlyGivenNames z); clear_value z) | with_reducible first | assumption | fail_if_no_progress apply keeps_mk | apply keeps_ite | split

theorem State.fire_keeps {a s : State} (h : a.Keeps s) (x2 : _) (x3 : _) (x4 : _) (x5 : _) (hx2 : a.Keeps x2.s) :
    a.Keeps (State.fire s x2 x3 x4 x5) := by
  unfold State.fire
  repeat' first | intro _ | ((fail_if_no_progress extract_lets +onlyGivenNames z); first | (refine keeps_cut (a := a) z ?_ fun hz => ?_) <;> [subst z; clear_value z] | clear_value z) | exact hx2 | with_reducible first | assumption | apply State.each_keeps | apply State.fireTile_keeps | apply State.setAx_keeps | apply State.addJobFlag_keeps | apply State.updJob_keeps | fail_if_no_progress apply keeps_mk | apply keeps_ite | split

theorem State.runStitch_keeps {a s : State} (h : a.Keeps s) (x2 : _) (x3 : _) (hx2 : a.Keeps x2.s) :
    a.Keeps (State.runStitch s x2 x3) := by
  unfold State.runStitch
  repeat' first | intro _ | ((fail_if_no_progress extract_lets +onlyGivenNames z); first | (refine keeps_cut (a := a) z ?_ fun hz => ?_) <;> [subst z; clear_value z] | clear_value z) | exact hx2 | with_reducible first | assumption | apply State.wr_keeps | apply State.when_keeps | apply State.bump_keeps | apply State.fire_keeps | apply State.restOthers_keeps | apply foldl_keeps | split

theorem State.strobe_keeps {a s : State} (h : a.Keeps s) :
    a.Keeps (State.strobe s) := by
  unfold State.strobe
  repeat' first | intro _ | ((fail_if_no_progress extract_lets +onlyGivenNames z); first | (first | refine keeps_cut (a := a) z ?_ fun hz => ?_ | refine keeps_cutK (a := a) z ?_ fun hz => ?_) <;> [subst z; clear_value z] | clear_value z) | with_reducible first | assumption | apply State.each_keeps | apply State.switchWatch_keeps | apply State.excuse_keeps | apply State.wr_keeps | apply State.when_keeps | apply State.setAx_keeps | apply State.bump_keeps | apply State.updStitch_keeps | apply State.addJobFlag_keeps | apply State.content_keeps | apply State.restOthers_keeps | apply State.runStitch_keeps | apply State.feedPump_keeps | apply keeps_ite | split

theorem execStitchStrobe_keeps {a s : State} (h : a.Keeps s) :
    a.KeepsR (execStitchStrobe s) := by
  unfold execStitchStrobe
  repeat' first | intro _ | with_reducible first | assumption | apply keepsR_next | apply keepsR_ite | apply State.strobe_keeps | apply keeps_ite | split

theorem execYokeRoleMoveEnd_keeps {a s : State} (h : a.Keeps s) :
    a.KeepsR (execYokeRoleMoveEnd s) := by
  unfold execYokeRoleMoveEnd
  repeat' first | intro _ | with_reducible first | assumption | apply keepsR_next | apply keepsR_ite | apply State.setAx_keeps | apply State.wr_keeps | apply State.excuse_keeps | apply keeps_ite | split

theorem execFollowerRealign_keeps {a s : State} (h : a.Keeps s) (x1 : _) :
    a.KeepsR (execFollowerRealign x1 s) := by
  unfold execFollowerRealign
  repeat' first | intro _ | ((fail_if_no_progress extract_lets +onlyGivenNames z); (refine keeps_cut (a := a) z ?_ fun hz => ?_) <;> [subst z; clear_value z]) | with_reducible first | assumption | apply keepsR_next | apply keepsR_ite | apply State.setAx_keeps | apply State.wr_keeps | apply State.each_keeps | apply State.updTile_keeps | apply keeps_ite | split

theorem execFollowerOff_keeps {a s : State} (h : a.Keeps s) (x1 : _) :
    a.KeepsR (execFollowerOff x1 s) := by
  unfold execFollowerOff
  repeat' first | intro _ | ((fail_if_no_progress extract_lets +onlyGivenNames z); first | (refine keeps_cut (a := a) z ?_ fun hz => ?_) <;> [subst z; clear_value z] | clear_value z) | with_reducible first | assumption | apply keepsR_next | apply keepsR_ite | apply State.lost_keeps | apply State.wr_keeps | apply State.setAx_keeps | apply State.faultJobs_keeps | fail_if_no_progress apply keeps_mk | apply keeps_ite | split

theorem execYokCtrlClear_keeps {a s : State} (h : a.Keeps s) (x1 : _) :
    a.KeepsR (execYokCtrlClear x1 s) := by
  unfold execYokCtrlClear
  repeat' first | intro _ | with_reducible first | assumption | apply keepsR_next | apply State.order_keeps | apply State.when_keeps | apply State.yokClear_keeps | split

theorem execYokCtrlSplitEnWrite_keeps {a s : State} (h : a.Keeps s) (x1 : _) :
    a.KeepsR (execYokCtrlSplitEnWrite x1 s) := by
  unfold execYokCtrlSplitEnWrite
  repeat' first | intro _ | with_reducible first | assumption | apply keepsR_next | apply keepsR_ite | apply State.order_keeps | apply State.wr_keeps | apply State.yokExpert_keeps | apply keeps_ite | split

theorem execSkewRemeasure_keeps {a s : State} (h : a.Keeps s) (x1 : _) (x2 : _) :
    a.KeepsR (execSkewRemeasure x1 x2 s) := by
  unfold execSkewRemeasure
  repeat' first | intro _ | ((fail_if_no_progress extract_lets +onlyGivenNames z); (refine keeps_cut (a := a) z ?_ fun hz => ?_) <;> [subst z; clear_value z]) | with_reducible first | assumption | apply keepsR_next | apply keepsR_ite | apply State.wr_keeps | apply State.setAx_keeps | apply keeps_ite | split

end Sys2Proof.Machine
end

