-- ==== Sys2Proof/Laws/KeepsConv.lean ====
section
/-!
SUPPORT. Laws/KeepsConv.lean: the operations of Machine/Conv.lean keep what Laws/Keeps.lean names.
-/

set_option linter.unusedTactic false
set_option linter.unusedVariables false
set_option linter.tactic.unusedName false
set_option linter.unreachableTactic false

namespace Sys2Proof.Machine

theorem State.dropStitch_keeps {a s : State} (h : a.Keeps s) (x2 : _) :
    a.Keeps (State.dropStitch s x2) := by
  unfold State.dropStitch
  repeat' first | intro _ | with_reducible first | assumption | fail_if_no_progress apply keeps_mk | split

theorem State.lateness_keeps {a s : State} (h : a.Keeps s) (x2 : _) :
    a.Keeps (State.lateness s x2).1 := by
  unfold State.lateness
  repeat' first | intro _ | with_reducible first | assumption | apply State.jobLate_keeps | apply State.bump_keeps | apply keeps_ite | split

theorem State.queueAdd_keeps {a s : State} (h : a.Keeps s) (x2 : _) :
    a.Keeps (State.queueAdd s x2) := by
  unfold State.queueAdd
  repeat' first | intro _ | ((fail_if_no_progress extract_lets +onlyGivenNames z); first | (first | refine keeps_cut (a := a) z ?_ fun hz => ?_ | refine keeps_cut2 (a := a) z ?_ fun hz => ?_) <;> [subst z; clear_value z] | clear_value z) | with_reducible first | assumption | apply State.nextIssue_keeps | apply State.updStitch_keeps | fail_if_no_progress apply keeps_mk | refine keeps_of2 (by assumption) ?_

theorem State.ticketShare_keeps {a s : State} (h : a.Keeps s) (x2 : _) (x3 : _) (x4 : _) (x5 : _) :
    a.Keeps (State.ticketShare s x2 x3 x4 x5) := by
  unfold State.ticketShare
  repeat' first | intro _ | ((fail_if_no_progress extract_lets +onlyGivenNames z); clear_value z) | with_reducible first | assumption | apply State.ticketDone_keeps | fail_if_no_progress apply keeps_mk | apply keeps_ite | split

theorem State.endRequest_keeps {a s : State} (h : a.Keeps s) (x2 : _) :
    a.Keeps (State.endRequest s x2) := by
  unfold State.endRequest
  repeat' first | intro _ | with_reducible first | assumption | apply State.ticketShare_keeps | apply State.addJobFlag_keeps | apply State.dropStitch_keeps

theorem State.recordSteps_keeps {a s : State} (h : a.Keeps s) (x2 : _) (x3 : _) (x4 : _) :
    a.KeepsE (State.recordSteps s x2 x3 x4) := by
  induction x4 generalizing s <;> [skip; rename_i ih]
  all_goals unfold State.recordSteps
  repeat' first | intro _ | with_reducible first | assumption | apply keepsE_error | apply keepsE_ok | apply State.setTracker_keeps | apply State.updJob_keeps | apply State.ticketShare_keeps | refine keeps_ofE (by assumption) ?_ | apply ih | split

theorem State.writeOutputs_keeps {a s : State} (h : a.Keeps s) (x2 : _) :
    a.KeepsE (State.writeOutputs s x2) := by
  unfold State.writeOutputs
  repeat' first | intro _ | ((fail_if_no_progress extract_lets +onlyGivenNames z); first | (refine keeps_cut (a := a) z ?_ fun hz => ?_) <;> [subst z; clear_value z] | clear_value z) | with_reducible first | assumption | apply keepsE_error | apply keepsE_ok | apply keepsE_ite | apply State.jobWrites_keeps | apply State.endRequest_keeps | apply State.updJob_keeps | apply State.addJobFlag_keeps | apply State.dropStitch_keeps | apply State.recordSteps_keeps | apply keeps_ite | refine keeps_ofE (by assumption) ?_ | split

theorem State.requestDone_keeps {a s : State} (h : a.Keeps s) (x2 : _) :
    a.Keeps (State.requestDone s x2) := by
  unfold State.requestDone
  repeat' first | intro _ | ((fail_if_no_progress extract_lets +onlyGivenNames z); first | (first | refine keeps_cut (a := a) z ?_ fun hz => ?_ | refine keeps_cut1 (a := a) z ?_ fun hz => ?_) <;> [subst z; clear_value z] | clear_value z) | with_reducible first | assumption | apply State.lateness_keeps | apply State.queueAdd_keeps | apply State.writeOutputs_keeps | apply State.faultJob_keeps | apply State.dropStitch_keeps | apply keeps_ite | refine keeps_ofE (by assumption) ?_ | refine keeps_of1 (by assumption) ?_ | split

theorem State.undefinedOut_keeps {a s : State} (h : a.Keeps s) (x2 : _) :
    a.Keeps (State.undefinedOut s x2) := by
  unfold State.undefinedOut
  repeat' first | intro _ | ((fail_if_no_progress extract_lets +onlyGivenNames z); (refine keeps_cut2 (a := a) z ?_ fun hz => ?_) <;> [subst z; clear_value z]) | with_reducible first | assumption | apply State.fresh_keeps | apply State.jobWrite_keeps | apply State.faultJob_keeps | refine keeps_ofE (by assumption) ?_ | refine keeps_of2 (by assumption) ?_ | split

theorem State.dueOr_keeps {a s : State} (h : a.Keeps s) (x2 : _) (x3 : _) :
    a.Keeps (State.dueOr s x2 x3) := by
  unfold State.dueOr
  repeat' first | intro _ | ((fail_if_no_progress extract_lets +onlyGivenNames z); clear_value z) | with_reducible first | assumption | apply State.updStitch_keeps | apply keeps_ite | split

theorem State.stitchEnded_keeps {a s : State} (h : a.Keeps s) (x2 : _) :
    a.Keeps (State.stitchEnded s x2) := by
  unfold State.stitchEnded
  repeat' first | intro _ | ((fail_if_no_progress extract_lets +onlyGivenNames z); (refine keeps_cut (a := a) z ?_ fun hz => ?_) <;> [subst z; clear_value z]) | with_reducible first | assumption | apply State.dropStitch_keeps | apply State.requestDone_keeps | apply State.undefinedOut_keeps | apply State.dueOr_keeps | apply keeps_ite | split

theorem State.putTables_keeps {a s : State} (h : a.Keeps s) (x2 : _) (x3 : _) (x4 : _) :
    a.Keeps (State.putTables s x2 x3 x4) := by
  unfold State.putTables
  repeat' first | intro _ | with_reducible first | assumption | apply State.wr_keeps | apply State.each_keeps | fail_if_no_progress apply keeps_mk | split

theorem State.forwardCounts_keeps {a s : State} (h : a.Keeps s) (x2 : _) (x3 : _) (x4 : _) (x5 : _) :
    a.Keeps (State.forwardCounts s x2 x3 x4 x5).1 := by
  unfold State.forwardCounts
  repeat' first | intro _ | ((fail_if_no_progress extract_lets +onlyGivenNames z); first | (first | refine keeps_cut (a := a) z ?_ fun hz => ?_ | refine keeps_cut1 (a := a) z ?_ fun hz => ?_) <;> [subst z; clear_value z] | clear_value z) | with_reducible first | assumption | apply State.bump_keeps | apply State.refCheck_keeps | apply State.refSums_keeps | apply State.each_keeps | apply State.elementFails_keeps | apply foldl_keeps | apply keeps_ite | refine keeps_of1 (by assumption) ?_ | split

theorem State.hemOutputs_keeps {a s : State} (h : a.Keeps s) (x2 : _) (x3 : _) (x4 : _) (x5 : _) (x6 : _) (x7 : _) (x8 : _) :
    a.Keeps (State.hemOutputs s x2 x3 x4 x5 x6 x7 x8) := by
  unfold State.hemOutputs
  repeat' first | intro _ | ((fail_if_no_progress extract_lets +onlyGivenNames z); first | (refine keeps_cut (a := a) z ?_ fun hz => ?_) <;> [subst z; clear_value z] | clear_value z) | with_reducible first | assumption | apply State.updStitch_keeps | apply State.bump_keeps | apply State.countOuts_keeps | apply keeps_ite | split

theorem State.hemForms_keeps {a s : State} (h : a.Keeps s) (x2 : _) (x3 : _) (x4 : _) (x5 : _) :
    a.Keeps (State.hemForms s x2 x3 x4 x5).1 := by
  unfold State.hemForms
  repeat' first | intro _ | ((fail_if_no_progress extract_lets +onlyGivenNames z); (first | refine keeps_cut (a := a) z ?_ fun hz => ?_ | refine keeps_cut1 (a := a) z ?_ fun hz => ?_) <;> [subst z; clear_value z]) | with_reducible first | assumption | apply State.bump_keeps | apply State.forwardCounts_keeps | apply State.hemOutputs_keeps | apply State.checkEnd_keeps | apply keeps_ite | refine keeps_of1 (by assumption) ?_ | split

theorem State.convFaults_keeps {a s : State} (h : a.Keeps s) (x2 : _) (x3 : _) (x4 : _) (x5 : _) :
    a.Keeps (State.convFaults s x2 x3 x4 x5).1 := by
  unfold State.convFaults
  repeat' first | intro _ | ((fail_if_no_progress extract_lets +onlyGivenNames z); first | (refine keeps_cut1 (a := a) z ?_ fun hz => ?_) <;> [subst z; clear_value z] | clear_value z) | with_reducible first | assumption | apply State.elementFails_keeps | apply State.sameCodes_keeps | apply State.each_keeps | apply foldl_keeps | apply keeps_ite | refine keeps_of1 (by assumption) ?_ | split

theorem State.calCodes_keeps {a s : State} (h : a.Keeps s) (x2 : _) (x3 : _) (x4 : _) (x5 : _) :
    a.Keeps (State.calCodes s x2 x3 x4 x5) := by
  unfold State.calCodes
  repeat' first | intro _ | with_reducible first | assumption | fail_if_no_progress apply keeps_mk | apply keeps_ite | split

theorem State.conversionsEnd_keeps {a s : State} (h : a.Keeps s) (x2 : _) (x3 : _) (x4 : _) (x5 : _) :
    a.Keeps (State.conversionsEnd s x2 x3 x4 x5) := by
  unfold State.conversionsEnd
  repeat' first | intro _ | ((fail_if_no_progress extract_lets +onlyGivenNames z); (first | refine keeps_cut (a := a) z ?_ fun hz => ?_ | refine keeps_cut1 (a := a) z ?_ fun hz => ?_) <;> [subst z; clear_value z]) | with_reducible first | assumption | apply State.cellsStick_keeps | apply State.updTile_keeps | apply State.hemForms_keeps | apply State.putTables_keeps | apply State.convFaults_keeps | apply State.faultJob_keeps | apply State.calCodes_keeps | apply State.each_keeps | apply State.elementFails_keeps | apply State.stitchEnded_keeps | fail_if_no_progress apply keeps_mk | apply keeps_ite | refine keeps_of1 (by assumption) ?_ | split

theorem execConversionsEnd_keeps {a s : State} (h : a.Keeps s) (x1 : _) (x2 : _) (x3 : _) :
    a.KeepsR (execConversionsEnd x1 x2 x3 s) := by
  unfold execConversionsEnd
  repeat' first | intro _ | with_reducible first | assumption | apply keepsR_next | apply keepsR_ite | apply State.conversionsEnd_keeps | apply keeps_ite | split

theorem State.keepTables_keeps {a s : State} (h : a.Keeps s) (x2 : _) (x3 : _) :
    a.Keeps (State.keepTables s x2 x3) := by
  unfold State.keepTables
  repeat' first | intro _ | ((fail_if_no_progress extract_lets +onlyGivenNames z); clear_value z) | with_reducible first | assumption | apply State.updTile_keeps | apply keeps_ite | split

end Sys2Proof.Machine
end

