-- ==== Sys2Proof/Laws/KeepsSeam.lean ====
section
/-!
SUPPORT. Laws/KeepsSeam.lean: the operations of Machine/Seam.lean keep what Laws/Keeps.lean names.
-/

set_option linter.unusedTactic false
set_option linter.unusedVariables false
set_option linter.tactic.unusedName false
set_option linter.unreachableTactic false

namespace Sys2Proof.Machine

theorem State.clearSuspect_keeps {a s : State} (h : a.Keeps s) (x2 : _) (x3 : _) :
    a.Keeps (State.clearSuspect s x2 x3) := by
  unfold State.clearSuspect
  repeat' first | intro _ | with_reducible first | assumption | apply State.wr_keeps

theorem State.swapTile_keeps {a s : State} (h : a.Keeps s) (x2 : _) :
    a.Keeps (State.swapTile s x2) := by
  unfold State.swapTile
  repeat' first | intro _ | ((fail_if_no_progress extract_lets +onlyGivenNames z); first | (refine keeps_cut (a := a) z ?_ fun hz => ?_) <;> [subst z; clear_value z] | clear_value z) | with_reducible first | assumption | apply State.setCause_keeps | apply State.roundTileDone_keeps | apply State.clearSuspect_keeps | apply State.swapSlots_keeps | apply State.wr_keeps | apply State.place_keeps | apply State.unplace_keeps | apply State.joins_keeps | apply State.toStaged_keeps | apply State.endCal_keeps | apply State.updRefresh_keeps | apply State.setAx_keeps | apply State.progPush_keeps | apply State.settle_keeps | apply keeps_ite | split

theorem State.shareCuts_keeps {a s : State} (h : a.Keeps s) (x2 : _) :
    a.Keeps (State.shareCuts s x2) := by
  unfold State.shareCuts
  repeat' first | intro _ | with_reducible first | assumption | apply State.each_keeps | apply State.setAx_keeps

theorem State.switchMap_keeps {a s : State} (h : a.Keeps s) (x2 : _) (x3 : _) :
    a.Keeps (State.switchMap s x2 x3) := by
  unfold State.switchMap
  repeat' first | intro _ | ((fail_if_no_progress extract_lets +onlyGivenNames z); first | (refine keeps_cut (a := a) z ?_ fun hz => ?_) <;> [subst z; clear_value z] | clear_value z) | with_reducible first | assumption | apply State.setAx_keeps | apply State.capUpdate_keeps | apply State.each_keeps | apply State.refreshReady_keeps | apply State.mirrorState_keeps | apply State.event_keeps | apply State.completeCmd_keeps | fail_if_no_progress apply keeps_mk | apply keeps_ite | split

theorem State.noteHeld_keeps {a s : State} (h : a.Keeps s) (x2 : _) (x3 : _) :
    a.Keeps (State.noteHeld s x2 x3) := by
  unfold State.noteHeld
  repeat' first | intro _ | with_reducible first | assumption | apply State.updRefresh_keeps | apply keeps_ite | split

theorem State.seam_keeps {a s : State} (h : a.Keeps s) (x2 : _) (x3 : _) (x4 : _) :
    a.Keeps (State.seam s x2 x3 x4) := by
  unfold State.seam
  repeat' first | intro _ | ((fail_if_no_progress extract_lets +onlyGivenNames z); first | (refine keeps_cut (a := a) z ?_ fun hz => ?_) <;> [subst z; clear_value z] | clear_value z) | with_reducible first | assumption | apply State.each_keeps | apply State.keepTables_keeps | apply State.switchMap_keeps | apply State.swapTile_keeps | apply State.noteHeld_keeps | apply State.seamState_keeps | apply State.seamConverters_keeps | apply State.seamSettings_keeps | apply State.updTile_keeps | apply State.rampTile_keeps | apply State.replSeam_keeps | apply State.shareCuts_keeps | apply State.setAx_keeps | apply State.capUpdate_keeps | apply State.pump_keeps | apply keeps_ite | split

theorem execMapSwitchDrainLimit_keeps {a s : State} (h : a.Keeps s) (x1 : _) :
    a.KeepsR (execMapSwitchDrainLimit x1 s) := by
  unfold execMapSwitchDrainLimit
  repeat' first | intro _ | ((fail_if_no_progress extract_lets +onlyGivenNames z); clear_value z) | with_reducible first | assumption | apply keepsR_next | apply keepsR_ite | apply State.seam_keeps | apply State.faultJobs_keeps | apply keeps_ite | split

theorem execSeamPass_keeps {a s : State} (h : a.Keeps s) (x1 : _) :
    a.KeepsR (execSeamPass x1 s) := by
  unfold execSeamPass
  repeat' first | intro _ | ((fail_if_no_progress extract_lets +onlyGivenNames z); clear_value z) | with_reducible first | assumption | apply keepsR_next | apply keepsR_ite | apply State.seam_keeps | apply keeps_ite | split

theorem execSeamDue_keeps {a s : State} (h : a.Keeps s) (x1 : _) :
    a.KeepsR (execSeamDue x1 s) := by
  unfold execSeamDue
  repeat' first | intro _ | with_reducible first | assumption | apply keepsR_next | apply keepsR_ite | apply State.setAx_keeps | apply keeps_ite | split

end Sys2Proof.Machine
end

