-- ==== Sys2Proof/Laws/KeepsRot.lean ====
section
/-!
SUPPORT. Laws/KeepsRot.lean: the operations of Machine/Rot.lean keep what Laws/Keeps.lean names.
-/

set_option linter.unusedTactic false
set_option linter.unusedVariables false
set_option linter.tactic.unusedName false
set_option linter.unreachableTactic false

namespace Sys2Proof.Machine

theorem State.arrayWaits_keeps {a s : State} (h : a.Keeps s) (x2 : _) (x3 : _) (x4 : _) (x5 : _) :
    a.Keeps (State.arrayWaits s x2 x3 x4 x5) := by
  unfold State.arrayWaits
  repeat' first | intro _ | ((fail_if_no_progress extract_lets +onlyGivenNames z); first | (refine keeps_cut (a := a) z ?_ fun hz => ?_) <;> [subst z; clear_value z] | clear_value z) | with_reducible first | assumption | apply State.bump_keeps | fail_if_no_progress apply keeps_mk | apply keeps_ite | split

theorem State.addDone_keeps {a s : State} (h : a.Keeps s) (x2 : _) :
    a.Keeps (State.addDone s x2) := by
  unfold State.addDone
  repeat' first | intro _ | ((fail_if_no_progress extract_lets +onlyGivenNames z); first | (refine keeps_cut (a := a) z ?_ fun hz => ?_) <;> [subst z; clear_value z] | clear_value z) | with_reducible first | assumption | apply State.bump_keeps | apply State.jobWrite_keeps | apply State.faultJob_keeps | apply State.dropStitch_keeps | apply State.endRequest_keeps | fail_if_no_progress apply keeps_mk | refine keeps_ofE (by assumption) ?_ | split

theorem State.arrayDone_keeps {a s : State} (h : a.Keeps s) (x2 : _) (x3 : _) :
    a.Keeps (State.arrayDone s x2 x3) := by
  unfold State.arrayDone
  repeat' first | intro _ | ((fail_if_no_progress extract_lets +onlyGivenNames z); (first | refine keeps_cut (a := a) z ?_ fun hz => ?_ | refine keeps_cut2 (a := a) z ?_ fun hz => ?_) <;> [subst z; clear_value z]) | with_reducible first | assumption | apply State.addDone_keeps | apply State.bump_keeps | apply State.opReads_keeps | apply State.finishOp_keeps | apply State.resultOf_keeps | apply State.opResult_keeps | apply keeps_ite | refine keeps_ofE (by assumption) ?_ | refine keeps_of2 (by assumption) ?_ | split

theorem execArrayBlockEnd_keeps {a s : State} (h : a.Keeps s) (x1 : _) (x2 : _) (x3 : _) (x4 : _) (x5 : _) :
    a.KeepsR (execArrayBlockEnd x1 x2 x3 x4 x5 s) := by
  unfold execArrayBlockEnd
  repeat' first | intro _ | ((fail_if_no_progress extract_lets +onlyGivenNames z); (first | refine keeps_cut (a := a) z ?_ fun hz => ?_ | refine keeps_cut1 (a := a) z ?_ fun hz => ?_) <;> [subst z; clear_value z]) | with_reducible first | assumption | apply keepsR_next | apply keepsR_ite | apply State.arrayWaits_keeps | apply State.blockEnd_keeps | apply State.arrayDone_keeps | apply State.arrayPick_keeps | apply keeps_ite | refine keeps_of1 (by assumption) ?_ | split

theorem State.rotIssue_keeps {a s : State} (h : a.Keeps s) (x2 : _) :
    a.Keeps (State.rotIssue s x2) := by
  unfold State.rotIssue
  repeat' first | intro _ | ((fail_if_no_progress extract_lets +onlyGivenNames z); clear_value z) | with_reducible first | assumption | apply State.tensorTrap_keeps | apply State.launch_keeps | split

theorem execRot_keeps {a s : State} (h : a.Keeps s) (x1 : _) :
    a.KeepsR (execRot x1 s) := by
  unfold execRot
  repeat' first | intro _ | with_reducible first | assumption | apply keepsR_next | apply State.issue_keeps | apply State.rotIssue_keeps | split

theorem execMapsel_keeps {a s : State} (h : a.Keeps s) (x1 : _) :
    a.KeepsR (execMapsel x1 s) := by
  unfold execMapsel
  repeat' first | intro _ | ((fail_if_no_progress extract_lets +onlyGivenNames z); clear_value z) | with_reducible first | assumption | apply keepsR_next | apply keepsR_ite | apply State.issue_keeps | apply State.retire_keeps | apply State.trapAt_keeps | apply keeps_ite | split

end Sys2Proof.Machine
end

