-- ==== Sys2Proof/Laws/KeepsMaint.lean ====
section
/-!
SUPPORT. Laws/KeepsMaint.lean: the operations of Machine/Maint.lean keep what Laws/Keeps.lean names.
-/

set_option linter.unusedTactic false
set_option linter.unusedVariables false
set_option linter.tactic.unusedName false
set_option linter.unreachableTactic false

namespace Sys2Proof.Machine

theorem State.maintEnd_keeps {a s : State} (h : a.Keeps s) (x2 : _) (x3 : _) :
    a.Keeps (State.maintEnd s x2 x3) := by
  unfold State.maintEnd
  repeat' first | intro _ | with_reducible first | assumption | apply State.opDone_keeps

theorem State.maintRuns_keeps {a s : State} (h : a.Keeps s) (x2 : _) :
    a.Keeps (State.maintRuns s x2) := by
  unfold State.maintRuns
  repeat' first | intro _ | with_reducible first | assumption | fail_if_no_progress apply keeps_mk | apply keeps_ite | split

theorem State.maintCal_keeps {a s : State} (h : a.Keeps s) (x2 : _) (x3 : _) (x4 : _) :
    a.Keeps (State.maintCal s x2 x3 x4) := by
  unfold State.maintCal
  repeat' first | intro _ | ((fail_if_no_progress extract_lets +onlyGivenNames z); first | (refine keeps_fn z ?_; subst z; beta_reduce) | clear_value z) | with_reducible first | assumption | apply State.calExpertShow_keeps | apply State.updTile_keeps | apply State.maintRuns_keeps | apply State.traceStart_keeps | apply State.setAx_keeps | apply State.maintEnd_keeps | apply State.startCal_keeps | apply State.fullStart_keeps | apply keeps_ite | split

theorem State.maintReq_keeps {a s : State} (h : a.Keeps s) (x2 : _) (x3 : _) :
    a.Keeps (State.maintReq s x2 x3) := by
  unfold State.maintReq
  repeat' first | intro _ | with_reducible first | assumption | apply State.progPush_keeps | apply State.tilExpert_keeps | apply State.maintRuns_keeps

theorem State.maintClear_keeps {a s : State} (h : a.Keeps s) (x2 : _) (x3 : _) (x4 : _) :
    a.Keeps (State.maintClear s x2 x3 x4) := by
  unfold State.maintClear
  repeat' first | intro _ | ((fail_if_no_progress extract_lets +onlyGivenNames z); clear_value z) | with_reducible first | assumption | apply State.maintReq_keeps | apply State.maintEnd_keeps | apply keeps_ite | split

theorem State.maintProg_keeps {a s : State} (h : a.Keeps s) (x2 : _) (x3 : _) (x4 : _) (x5 : _) :
    a.Keeps (State.maintProg s x2 x3 x4 x5) := by
  unfold State.maintProg
  repeat' first | intro _ | ((fail_if_no_progress extract_lets +onlyGivenNames z); clear_value z) | with_reducible first | assumption | apply State.maintEnd_keeps | apply State.faultJob_keeps | apply State.maintReq_keeps | apply keeps_ite | split

theorem State.maintVerify_keeps {a s : State} (h : a.Keeps s) (x2 : _) (x3 : _) (x4 : _) (x5 : _) :
    a.Keeps (State.maintVerify s x2 x3 x4 x5) := by
  unfold State.maintVerify
  repeat' first | intro _ | ((fail_if_no_progress extract_lets +onlyGivenNames z); clear_value z) | with_reducible first | assumption | apply State.maintEnd_keeps | apply State.faultJob_keeps | apply State.maintReq_keeps | apply keeps_ite | split

theorem State.maintRefresh_keeps {a s : State} (h : a.Keeps s) (x2 : _) (x3 : _) (x4 : _) :
    a.Keeps (State.maintRefresh s x2 x3 x4) := by
  unfold State.maintRefresh
  repeat' first | intro _ | with_reducible first | assumption | apply State.scheduleRefresh_keeps | apply State.tilExpert_keeps | apply State.maintRuns_keeps | apply State.maintEnd_keeps | apply keeps_ite | split

theorem State.maintTry_keeps {a s : State} (h : a.Keeps s) (x2 : _) :
    a.Keeps (State.maintTry s x2) := by
  unfold State.maintTry
  repeat' first | intro _ | ((fail_if_no_progress extract_lets +onlyGivenNames z); clear_value z) | with_reducible first | assumption | apply State.maintEnd_keeps | apply State.maintCal_keeps | apply State.maintClear_keeps | apply State.maintProg_keeps | apply State.maintVerify_keeps | apply State.maintRefresh_keeps | apply keeps_ite | split

theorem State.maintIssue_keeps {a s : State} (h : a.Keeps s) (x2 : _) (x3 : _) :
    a.Keeps (State.maintIssue s x2 x3) := by
  unfold State.maintIssue
  repeat' first | intro _ | ((fail_if_no_progress extract_lets +onlyGivenNames z); (refine keeps_cut (a := a) z ?_ fun hz => ?_) <;> [subst z; clear_value z]) | with_reducible first | assumption | apply State.launch_keeps | apply State.maintEnd_keeps | apply State.superseded_keeps | apply State.maintTry_keeps | apply keeps_ite | split

theorem execRefresh_keeps {a s : State} (h : a.Keeps s) (x1 : _) (x2 : _) :
    a.KeepsR (execRefresh x1 x2 s) := by
  unfold execRefresh
  repeat' first | intro _ | with_reducible first | assumption | apply keepsR_next | apply State.issue_keeps | apply State.maintIssue_keeps | split

theorem State.maintPump_keeps {a s : State} (h : a.Keeps s) :
    a.Keeps (State.maintPump s) := by
  unfold State.maintPump
  repeat' first | intro _ | with_reducible first | assumption | apply State.each_keeps | apply State.maintTry_keeps | split

theorem execCal_keeps {a s : State} (h : a.Keeps s) (x1 : _) (x2 : _) :
    a.KeepsR (execCal x1 x2 s) := by
  unfold execCal
  repeat' first | intro _ | with_reducible first | assumption | apply keepsR_next | apply State.issue_keeps | apply State.maintIssue_keeps | split

theorem execProg_keeps {a s : State} (h : a.Keeps s) (x1 : _) (x2 : _) :
    a.KeepsR (execProg x1 x2 s) := by
  unfold execProg
  repeat' first | intro _ | with_reducible first | assumption | apply keepsR_next | apply State.issue_keeps | apply State.maintIssue_keeps | split

theorem execVerify_keeps {a s : State} (h : a.Keeps s) (x1 : _) (x2 : _) :
    a.KeepsR (execVerify x1 x2 s) := by
  unfold execVerify
  repeat' first | intro _ | with_reducible first | assumption | apply keepsR_next | apply State.issue_keeps | apply State.maintIssue_keeps | split

theorem execClear_keeps {a s : State} (h : a.Keeps s) (x1 : _) (x2 : _) :
    a.KeepsR (execClear x1 x2 s) := by
  unfold execClear
  repeat' first | intro _ | with_reducible first | assumption | apply keepsR_next | apply State.issue_keeps | apply State.maintIssue_keeps | split

theorem State.verifyDone_keeps {a s : State} (h : a.Keeps s) (x2 : _) (x3 : _) :
    a.Keeps (State.verifyDone s x2 x3) := by
  unfold State.verifyDone
  repeat' first | intro _ | with_reducible first | assumption | apply State.endOp_keeps | apply State.jobWrite_keeps | apply State.faultJob_keeps | apply keeps_ite | refine keeps_ofE (by assumption) ?_ | split

theorem execVerifyFinish_keeps {a s : State} (h : a.Keeps s) (x1 : _) (x2 : _) (x3 : _) :
    a.KeepsR (execVerifyFinish x1 x2 x3 s) := by
  unfold execVerifyFinish
  repeat' first | intro _ | ((fail_if_no_progress extract_lets +onlyGivenNames z); (refine keeps_cut (a := a) z ?_ fun hz => ?_) <;> [subst z; clear_value z]) | with_reducible first | assumption | apply keepsR_next | apply keepsR_ite | apply State.releaseEngine_keeps | apply State.verifyDone_keeps | apply State.spareFails_keeps | apply State.maintPump_keeps | apply State.pump_keeps | apply State.capUpdate_keeps | apply keeps_ite | split

end Sys2Proof.Machine
end

