-- ==== Sys2Proof/Laws/KeepsMem.lean ====
section
/-!
SUPPORT. Laws/KeepsMem.lean: the operations of Machine/Mem.lean keep what Laws/Keeps.lean names.
-/

set_option linter.unusedTactic false
set_option linter.unusedVariables false
set_option linter.tactic.unusedName false
set_option linter.unreachableTactic false

namespace Sys2Proof.Machine

theorem State.memExpert_keeps {a s : State} (h : a.Keeps s) (x2 : _) :
    a.Keeps (State.memExpert s x2) := by
  unfold State.memExpert
  repeat' first | intro _ | with_reducible first | assumption | apply State.wr_keeps

theorem State.memCfg_keeps {a s : State} (h : a.Keeps s) (x2 : _) (x3 : _) :
    a.Keeps (State.memCfg s x2 x3) := by
  unfold State.memCfg
  repeat' first | intro _ | ((fail_if_no_progress extract_lets +onlyGivenNames z); first | (refine keeps_cut (a := a) z ?_ fun hz => ?_) <;> [subst z; clear_value z] | clear_value z) | with_reducible first | assumption | apply State.wr_keeps | apply State.memExpert_keeps | apply State.setAx_keeps | apply keeps_ite | split

theorem execMemCfgWrite_keeps {a s : State} (h : a.Keeps s) (x1 : _) (x2 : _) :
    a.KeepsR (execMemCfgWrite x1 x2 s) := by
  unfold execMemCfgWrite
  repeat' first | intro _ | with_reducible first | assumption | apply keepsR_next | apply keepsR_ite | apply State.order_keeps | apply State.memCfg_keeps | apply keeps_ite | split

theorem State.bnkHandback_keeps {a s : State} (h : a.Keeps s) (x2 : _) :
    a.Keeps (State.bnkHandback s x2) := by
  unfold State.bnkHandback
  repeat' first | intro _ | ((fail_if_no_progress extract_lets +onlyGivenNames z); first | (refine keeps_cut (a := a) z ?_ fun hz => ?_) <;> [subst z; clear_value z] | clear_value z) | with_reducible first | assumption | apply State.wr_keeps | apply State.resetReg_keeps | apply State.each_keeps | apply State.bankRequest_keeps | apply keeps_ite | split

theorem execBankScrub_keeps {a s : State} (h : a.Keeps s) (x1 : _) (x2 : _) (x3 : _) :
    a.KeepsR (execBankScrub x1 x2 x3 s) := by
  unfold execBankScrub
  repeat' first | intro _ | with_reducible first | assumption | apply keepsR_next | apply keepsR_ite | apply State.each_keeps | apply State.bump_keeps | apply State.bankDouble_keeps | apply keeps_ite | split

theorem State.memHandback_keeps {a s : State} (h : a.Keeps s) (x2 : _) :
    a.Keeps (State.memHandback s x2) := by
  unfold State.memHandback
  repeat' first | intro _ | with_reducible first | assumption | apply State.wr_keeps | apply State.resetReg_keeps

theorem execMemCtrlHandback_keeps {a s : State} (h : a.Keeps s) (x1 : _) (x2 : _) :
    a.KeepsR (execMemCtrlHandback x1 x2 s) := by
  unfold execMemCtrlHandback
  repeat' first | intro _ | with_reducible first | assumption | apply keepsR_next | apply keepsR_ite | apply State.order_keeps | apply State.when_keeps | apply State.memHandback_keeps | apply keeps_ite | split

theorem execMemCtrlClear_keeps {a s : State} (h : a.Keeps s) (x1 : _) (x2 : _) :
    a.KeepsR (execMemCtrlClear x1 x2 s) := by
  unfold execMemCtrlClear
  repeat' first | intro _ | with_reducible first | assumption | apply keepsR_next | apply keepsR_ite | apply State.order_keeps | apply State.when_keeps | apply State.each_keeps | apply State.wr_keeps | apply keeps_ite | split

theorem execBankZeroingEnd_keeps {a s : State} (h : a.Keeps s) (x1 : _) (x2 : _) :
    a.KeepsR (execBankZeroingEnd x1 x2 s) := by
  unfold execBankZeroingEnd
  repeat' first | intro _ | with_reducible first | assumption | apply keepsR_next | apply keepsR_ite | apply State.evictCheck_keeps | apply State.bankZeroEnded_keeps | apply keeps_ite | split

theorem State.diagRead_keeps {a s : State} (h : a.Keeps s) (x2 : _) (x3 : _) :
    a.Keeps (State.diagRead s x2 x3) := by
  unfold State.diagRead
  repeat' first | intro _ | ((fail_if_no_progress extract_lets +onlyGivenNames z); first | (first | refine keeps_cut (a := a) z ?_ fun hz => ?_ | refine keeps_cut2 (a := a) z ?_ fun hz => ?_) <;> [subst z; clear_value z] | clear_value z) | with_reducible first | assumption | apply State.wr_keeps | apply State.fresh_keeps | apply State.bump_keeps | apply keeps_ite | refine keeps_of2 (by assumption) ?_ | split

theorem execBnkDiagGo_keeps {a s : State} (h : a.Keeps s) (x1 : _) (x2 : _) (x3 : _) :
    a.KeepsR (execBnkDiagGo x1 x2 x3 s) := by
  unfold execBnkDiagGo
  repeat' first | intro _ | with_reducible first | assumption | apply keepsR_next | apply keepsR_ite | apply State.order_keeps | apply State.when_keeps | apply State.diagRead_keeps | apply keeps_ite | split

theorem State.retrainAll_keeps {a s : State} (h : a.Keeps s) (x2 : _) :
    a.Keeps (State.retrainAll s x2) := by
  unfold State.retrainAll
  repeat' first | intro _ | ((fail_if_no_progress extract_lets +onlyGivenNames z); clear_value z) | with_reducible first | assumption | apply State.each_keeps | apply State.wr_keeps | apply State.memExpert_keeps | apply State.retrainStart_keeps | apply keeps_ite | split

theorem State.ownerWrite_keeps {a s : State} (h : a.Keeps s) (x2 : _) (x3 : _) (x4 : _) :
    a.Keeps (State.ownerWrite s x2 x3 x4) := by
  unfold State.ownerWrite
  repeat' first | intro _ | ((fail_if_no_progress extract_lets +onlyGivenNames z); first | (refine keeps_cut (a := a) z ?_ fun hz => ?_) <;> [subst z; clear_value z] | clear_value z) | with_reducible first | assumption | apply State.wr_keeps | apply State.bankRequest_keeps | apply keeps_ite | split

theorem execBnkOwnerWrite_keeps {a s : State} (h : a.Keeps s) (x1 : _) (x2 : _) (x3 : _) :
    a.KeepsR (execBnkOwnerWrite x1 x2 x3 s) := by
  unfold execBnkOwnerWrite
  repeat' first | intro _ | with_reducible first | assumption | apply keepsR_next | apply keepsR_ite | apply State.order_keeps | apply State.ownerWrite_keeps | apply keeps_ite | split

theorem execBnkCtrlHandback_keeps {a s : State} (h : a.Keeps s) (x1 : _) (x2 : _) :
    a.KeepsR (execBnkCtrlHandback x1 x2 s) := by
  unfold execBnkCtrlHandback
  repeat' first | intro _ | with_reducible first | assumption | apply keepsR_next | apply keepsR_ite | apply State.order_keeps | apply State.when_keeps | apply State.bnkHandback_keeps | apply keeps_ite | split

theorem execLpddrPatrolScrub_keeps {a s : State} (h : a.Keeps s) (x1 : _) (x2 : _) (x3 : _) :
    a.KeepsR (execLpddrPatrolScrub x1 x2 x3 s) := by
  unfold execLpddrPatrolScrub
  repeat' first | intro _ | with_reducible first | assumption | apply keepsR_next | apply keepsR_ite | apply State.each_keeps | apply State.readBlock_keeps | apply keeps_ite | split

theorem execWck2dqDrift_keeps {a s : State} (h : a.Keeps s) (x1 : _) (x2 : _) :
    a.KeepsR (execWck2dqDrift x1 x2 s) := by
  unfold execWck2dqDrift
  repeat' first | intro _ | with_reducible first | assumption | apply keepsR_next | apply keepsR_ite | apply State.retrainStart_keeps | apply keeps_ite | split

theorem execMemCtrlRetrain_keeps {a s : State} (h : a.Keeps s) (x1 : _) (x2 : _) :
    a.KeepsR (execMemCtrlRetrain x1 x2 s) := by
  unfold execMemCtrlRetrain
  repeat' first | intro _ | with_reducible first | assumption | apply keepsR_next | apply keepsR_ite | apply State.order_keeps | apply State.when_keeps | apply State.retrainAll_keeps | apply keeps_ite | split

theorem State.retrainOver_keeps {a s : State} (h : a.Keeps s) (x2 : _) :
    a.Keeps (State.retrainOver s x2) := by
  unfold State.retrainOver
  repeat' first | intro _ | with_reducible first | assumption | apply State.wr_keeps | apply keeps_ite | split

theorem State.retrainEnded_keeps {a s : State} (h : a.Keeps s) (x2 : _) (x3 : _) (x4 : _) :
    a.Keeps (State.retrainEnded s x2 x3 x4) := by
  unfold State.retrainEnded
  repeat' first | intro _ | with_reducible first | assumption | apply State.setAx_keeps | apply State.wr_keeps | apply State.retrainFailed_keeps | apply keeps_ite | split

theorem execRetrainEnd_keeps {a s : State} (h : a.Keeps s) (x1 : _) (x2 : _) (x3 : _) :
    a.KeepsR (execRetrainEnd x1 x2 x3 s) := by
  unfold execRetrainEnd
  repeat' first | intro _ | with_reducible first | assumption | apply keepsR_next | apply keepsR_ite | apply State.retrainOver_keeps | apply State.retrainEnded_keeps | apply keeps_ite | split

theorem execBankHandover_keeps {a s : State} (h : a.Keeps s) (x1 : _) (x2 : _) :
    a.KeepsR (execBankHandover x1 x2 s) := by
  unfold execBankHandover
  repeat' first | intro _ | with_reducible first | assumption | apply keepsR_next | apply keepsR_ite | apply State.evictCheck_keeps | apply State.bankHandover_keeps | apply keeps_ite | split

theorem execBnkCtrlClear_keeps {a s : State} (h : a.Keeps s) (x1 : _) (x2 : _) :
    a.KeepsR (execBnkCtrlClear x1 x2 s) := by
  unfold execBnkCtrlClear
  repeat' first | intro _ | with_reducible first | assumption | apply keepsR_next | apply keepsR_ite | apply State.order_keeps | apply State.when_keeps | apply State.each_keeps | apply State.wr_keeps | apply keeps_ite | split

end Sys2Proof.Machine
end

