-- ==== Sys2Proof/Laws/KeepsPocket.lean ====
section
/-!
SUPPORT. Laws/KeepsPocket.lean: the operations of Machine/Pocket.lean keep what Laws/Keeps.lean names.
-/

set_option linter.unusedTactic false
set_option linter.unusedVariables false
set_option linter.tactic.unusedName false
set_option linter.unreachableTactic false

namespace Sys2Proof.Machine

theorem State.pktRefused_keeps {a s : State} (h : a.Keeps s) :
    a.Keeps (State.pktRefused s) := by
  unfold State.pktRefused
  repeat' first | intro _ | with_reducible first | assumption | apply State.wr_keeps

theorem State.pktDenied_keeps {a s : State} (h : a.Keeps s) :
    a.Keeps (State.pktDenied s) := by
  unfold State.pktDenied
  repeat' first | intro _ | with_reducible first | assumption | apply State.bump_keeps | apply State.pktRefused_keeps

theorem State.writePages_keeps {a s : State} (h : a.Keeps s) (x2 : _) (x3 : _) (x4 : _) (x5 : _) :
    a.Keeps (State.writePages s x2 x3 x4 x5) := by
  induction x5 generalizing s <;> [skip; rename_i ih]
  all_goals unfold State.writePages
  repeat' first | intro _ | with_reducible first | assumption | apply State.completeCmd_keeps | apply State.pktWrite_keeps | apply State.pktDenied_keeps | apply keeps_ite | apply ih | split

theorem State.tryPassword_keeps {a s : State} (h : a.Keeps s) (x2 : _) (x3 : _) (x4 : _) :
    a.Keeps (State.tryPassword s x2 x3 x4).2 := by
  unfold State.tryPassword
  repeat' first | intro _ | ((fail_if_no_progress extract_lets +onlyGivenNames z); first | (refine keeps_cut (a := a) z ?_ fun hz => ?_) <;> [subst z; clear_value z] | clear_value z) | with_reducible first | assumption | apply State.setAx_keeps | apply State.event_keeps | apply keeps2_ite | apply keeps_ite | split

theorem State.unlock_keeps {a s : State} (h : a.Keeps s) (x2 : _) :
    a.Keeps (State.unlock s x2) := by
  unfold State.unlock
  repeat' first | intro _ | ((fail_if_no_progress extract_lets +onlyGivenNames z); first | (first | refine keeps_cut (a := a) z ?_ fun hz => ?_ | refine keeps_cut2 (a := a) z ?_ fun hz => ?_) <;> [subst z; clear_value z] | clear_value z) | with_reducible first | assumption | apply State.wr_keeps | apply State.tryPassword_keeps | apply State.setAx_keeps | apply keeps_ite | refine keeps_of2 (by assumption) ?_ | split

theorem State.relock_keeps {a s : State} (h : a.Keeps s) :
    a.Keeps (State.relock s) := by
  unfold State.relock
  repeat' first | intro _ | with_reducible first | assumption | apply State.each_keeps | apply State.setAx_keeps | apply keeps_ite | split

theorem execPktUnlockselRelock_keeps {a s : State} (h : a.Keeps s) (x1 : _) :
    a.KeepsR (execPktUnlockselRelock x1 s) := by
  unfold execPktUnlockselRelock
  repeat' first | intro _ | with_reducible first | assumption | apply keepsR_next | apply State.order_keeps | apply State.when_keeps | apply State.relock_keeps | split

theorem State.setHolding_keeps {a s : State} (h : a.Keeps s) (x2 : _) (x3 : _) (x4 : _) :
    a.Keeps (State.setHolding s x2 x3 x4) := by
  unfold State.setHolding
  repeat' first | intro _ | with_reducible first | assumption | fail_if_no_progress apply keeps_mk | split

theorem execPktUnlockWrite_keeps {a s : State} (h : a.Keeps s) (x1 : _) (x2 : _) :
    a.KeepsR (execPktUnlockWrite x1 x2 s) := by
  unfold execPktUnlockWrite
  repeat' first | intro _ | ((fail_if_no_progress extract_lets +onlyGivenNames z); clear_value z) | with_reducible first | assumption | apply keepsR_next | apply keepsR_ite | apply State.order_keeps | apply State.unlock_keeps | apply State.setHolding_keeps | apply keeps_ite | split

theorem State.pocketWord_keeps {a s : State} (h : a.Keeps s) (x2 : _) (x3 : _) (x4 : _) :
    a.Keeps (State.pocketWord s x2 x3 x4).2 := by
  unfold State.pocketWord
  repeat' first | intro _ | ((fail_if_no_progress extract_lets +onlyGivenNames z); first | (refine keeps_cut2 (a := a) z ?_ fun hz => ?_) <;> [subst z; clear_value z] | clear_value z) | with_reducible first | assumption | apply State.fresh_keeps | apply foldl_keeps | apply keeps2_ite | apply keeps_ite | refine keeps_of2 (by assumption) ?_ | split

theorem State.pktRead_keeps {a s : State} (h : a.Keeps s) (x2 : _) (x3 : _) (x4 : _) :
    a.Keeps (State.pktRead s x2 x3 x4).2 := by
  unfold State.pktRead
  repeat' first | intro _ | with_reducible first | assumption | apply State.pktRefused_keeps | apply State.pktDenied_keeps | apply State.pocketWord_keeps | apply keeps2_ite | apply keeps_ite | refine keeps_of2 (by assumption) ?_ | split

theorem execChnCfgPecWrite_keeps {a s : State} (h : a.Keeps s) (x1 : _) :
    a.KeepsR (execChnCfgPecWrite x1 s) := by
  unfold execChnCfgPecWrite
  repeat' first | intro _ | with_reducible first | assumption | apply keepsR_next | apply State.order_keeps | apply State.wr_keeps

theorem State.pocketWrite_keeps {a s : State} (h : a.Keeps s) (x2 : _) (x3 : _) :
    a.Keeps (State.pocketWrite s x2 x3) := by
  unfold State.pocketWrite
  repeat' first | intro _ | with_reducible first | assumption | apply State.writePages_keeps | apply State.completeCmd_keeps | apply State.aer_keeps | apply keeps_ite | split

theorem State.protectEvent_keeps {a s : State} (h : a.Keeps s) (x2 : _) (x3 : _) (x4 : _) :
    a.Keeps (State.protectEvent s x2 x3 x4) := by
  unfold State.protectEvent
  repeat' first | intro _ | with_reducible first | assumption | apply State.event_keeps

theorem State.setProtection_keeps {a s : State} (h : a.Keeps s) (x2 : _) :
    a.Keeps (State.setProtection s x2) := by
  unfold State.setProtection
  repeat' first | intro _ | ((fail_if_no_progress extract_lets +onlyGivenNames z); clear_value z) | with_reducible first | assumption | apply State.completeCmd_keeps | apply State.protectEvent_keeps | apply State.wr_keeps | apply keeps_ite | split

theorem State.setPassword_keeps {a s : State} (h : a.Keeps s) (x2 : _) :
    a.Keeps (State.setPassword s x2) := by
  unfold State.setPassword
  repeat' first | intro _ | ((fail_if_no_progress extract_lets +onlyGivenNames z); first | (refine keeps_cut2 (a := a) z ?_ fun hz => ?_) <;> [subst z; clear_value z] | clear_value z) | with_reducible first | assumption | apply State.completeCmd_keeps | apply State.tryPassword_keeps | apply State.protectEvent_keeps | apply State.setAx_keeps | apply State.pktDenied_keeps | apply keeps_ite | refine keeps_of2 (by assumption) ?_ | split

theorem State.lockPage_keeps {a s : State} (h : a.Keeps s) (x2 : _) :
    a.Keeps (State.lockPage s x2) := by
  unfold State.lockPage
  repeat' first | intro _ | ((fail_if_no_progress extract_lets +onlyGivenNames z); clear_value z) | with_reducible first | assumption | apply State.completeCmd_keeps | apply State.protectEvent_keeps | apply State.setAx_keeps | apply keeps_ite | split

theorem State.pocketProtect_keeps {a s : State} (h : a.Keeps s) (x2 : _) :
    a.Keeps (State.pocketProtect s x2) := by
  unfold State.pocketProtect
  repeat' first | intro _ | with_reducible first | assumption | apply State.setProtection_keeps | apply State.setPassword_keeps | apply State.lockPage_keeps | apply State.completeCmd_keeps | apply keeps_ite | split

theorem execPocketProtect_keeps {a s : State} (h : a.Keeps s) (x1 : _) :
    a.KeepsR (execPocketProtect x1 s) := by
  unfold execPocketProtect
  repeat' first | intro _ | with_reducible first | assumption | apply keepsR_next | apply State.runCmd_keeps | apply State.pocketProtect_keeps

theorem State.pocketErase_keeps {a s : State} (h : a.Keeps s) (x2 : _) :
    a.Keeps (State.pocketErase s x2) := by
  unfold State.pocketErase
  repeat' first | intro _ | with_reducible first | assumption | apply State.writePages_keeps | apply State.completeCmd_keeps | apply keeps_ite | split

theorem execPocketErase_keeps {a s : State} (h : a.Keeps s) (x1 : _) :
    a.KeepsR (execPocketErase x1 s) := by
  unfold execPocketErase
  repeat' first | intro _ | with_reducible first | assumption | apply keepsR_next | apply State.runCmd_keeps | apply State.pocketErase_keeps

theorem State.pageToHost_keeps {a s : State} (h : a.Keeps s) (x2 : _) (x3 : _) (x4 : _) (x5 : _) :
    a.Keeps (State.pageToHost s x2 x3 x4 x5) := by
  unfold State.pageToHost
  repeat' first | intro _ | ((fail_if_no_progress extract_lets +onlyGivenNames z); (refine keeps_cut2 (a := a) z ?_ fun hz => ?_) <;> [subst z; clear_value z]) | with_reducible first | assumption | apply State.each_keeps | apply State.pocketWord_keeps | apply State.store_keeps | refine keeps_of2 (by assumption) ?_

theorem State.readPages_keeps {a s : State} (h : a.Keeps s) (x2 : _) (x3 : _) :
    a.Keeps (State.readPages s x2 x3) := by
  induction x3 generalizing s <;> [skip; rename_i ih]
  all_goals unfold State.readPages
  repeat' first | intro _ | with_reducible first | assumption | apply State.completeCmd_keeps | apply State.pageToHost_keeps | apply State.pktDenied_keeps | apply keeps_ite | apply ih | split

theorem State.pocketRead_keeps {a s : State} (h : a.Keeps s) (x2 : _) :
    a.Keeps (State.pocketRead s x2) := by
  unfold State.pocketRead
  repeat' first | intro _ | with_reducible first | assumption | apply State.readPages_keeps | apply State.completeCmd_keeps | apply keeps_ite | split

theorem execPocketWrite_keeps {a s : State} (h : a.Keeps s) (x1 : _) (x2 : _) :
    a.KeepsR (execPocketWrite x1 x2 s) := by
  unfold execPocketWrite
  repeat' first | intro _ | with_reducible first | assumption | apply keepsR_next | apply State.runCmd_keeps | apply State.pocketWrite_keeps

theorem State.pktNext_keeps {a s : State} (h : a.Keeps s) :
    a.Keeps (State.pktNext s) := by
  unfold State.pktNext
  repeat' first | intro _ | with_reducible first | assumption | apply State.wr_keeps | apply keeps_ite | split

theorem State.pktDataRead_keeps {a s : State} (h : a.Keeps s) :
    a.Keeps (State.pktDataRead s).2 := by
  unfold State.pktDataRead
  repeat' first | intro _ | ((fail_if_no_progress extract_lets +onlyGivenNames z); (refine keeps_cut2 (a := a) z ?_ fun hz => ?_) <;> [subst z; clear_value z]) | with_reducible first | assumption | apply State.pktRead_keeps | apply State.pktNext_keeps | refine keeps_of2 (by assumption) ?_

theorem State.pktStore_keeps {a s : State} (h : a.Keeps s) (x2 : _) (x3 : _) (x4 : _) (x5 : _) :
    a.Keeps (State.pktStore s x2 x3 x4 x5) := by
  unfold State.pktStore
  repeat' first | intro _ | with_reducible first | assumption | apply State.pktRefused_keeps | apply State.pktDenied_keeps | apply State.pktWrite_keeps | apply keeps_ite | split

theorem State.pktDataWrite_keeps {a s : State} (h : a.Keeps s) (x2 : _) :
    a.Keeps (State.pktDataWrite s x2) := by
  unfold State.pktDataWrite
  repeat' first | intro _ | with_reducible first | assumption | apply State.pktNext_keeps | apply State.pktStore_keeps

theorem execPktDataAccess_keeps {a s : State} (h : a.Keeps s) (x1 : _) :
    a.KeepsR (execPktDataAccess x1 s) := by
  unfold execPktDataAccess
  repeat' first | intro _ | ((fail_if_no_progress extract_lets +onlyGivenNames z); (refine keeps_cut2 (a := a) z ?_ fun hz => ?_) <;> [subst z; clear_value z]) | with_reducible first | assumption | apply keepsR_next | apply keepsR_ite | apply State.pktDataRead_keeps | apply State.emit_keeps | apply State.order_keeps | apply State.pktDataWrite_keeps | apply keeps_ite | refine keeps_of2 (by assumption) ?_ | split

theorem execPocketRead_keeps {a s : State} (h : a.Keeps s) (x1 : _) :
    a.KeepsR (execPocketRead x1 s) := by
  unfold execPocketRead
  repeat' first | intro _ | with_reducible first | assumption | apply keepsR_next | apply State.runCmd_keeps | apply State.pocketRead_keeps

end Sys2Proof.Machine
end

