-- ==== Sys2Proof/Laws/KeepsStart.lean ====
section
/-!
SUPPORT. Laws/KeepsStart.lean: the operations of Machine/Start.lean keep what Laws/Keeps.lean names.
-/

set_option linter.unusedTactic false
set_option linter.unusedVariables false
set_option linter.tactic.unusedName false
set_option linter.unreachableTactic false

namespace Sys2Proof.Machine

theorem State.loadWear_keeps {a s : State} (h : a.Keeps s) (x2 : _) (x3 : _) :
    a.Keeps (State.loadWear s x2 x3) := by
  unfold State.loadWear
  repeat' first | intro _ | with_reducible first | assumption | apply State.each_keeps | apply State.setAx_keeps

theorem State.saveShadows_keeps {a s : State} (h : a.Keeps s) :
    a.Keeps (State.saveShadows s) := by
  unfold State.saveShadows
  repeat' first | intro _ | ((fail_if_no_progress extract_lets +onlyGivenNames z); clear_value z) | with_reducible first | assumption | apply State.each_keeps | apply State.pktWrite_keeps | apply keeps_ite | split

theorem State.startShed_keeps {a s : State} (h : a.Keeps s) :
    a.Keeps (State.startShed s) := by
  unfold State.startShed
  repeat' first | intro _ | ((fail_if_no_progress extract_lets +onlyGivenNames z); (refine keeps_cut (a := a) z ?_ fun hz => ?_) <;> [subst z; clear_value z]) | with_reducible first | assumption | apply State.keepShedOld_keeps | apply State.setAx_keeps | apply State.each_keeps | apply State.setThrottle_keeps | apply State.setDuty_keeps

theorem State.warmDie_keeps {a s : State} (h : a.Keeps s) (x2 : _) (x3 : _) :
    a.Keeps (State.warmDie s x2 x3) := by
  unfold State.warmDie
  repeat' first | intro _ | ((fail_if_no_progress extract_lets +onlyGivenNames z); (refine keeps_cut (a := a) z ?_ fun hz => ?_) <;> [subst z; clear_value z]) | with_reducible first | assumption | apply State.each_keeps | apply State.spareFails_keeps | apply State.recRead_keeps | apply State.traceEnd_keeps | apply State.traceStart_keeps | apply State.wr_keeps | apply State.aim_keeps | apply keeps_ite | split

theorem State.warmQuick_keeps {a s : State} (h : a.Keeps s) (x2 : _) :
    a.Keeps (State.warmQuick s x2).2 := by
  unfold State.warmQuick
  repeat' first | intro _ | ((fail_if_no_progress extract_lets +onlyGivenNames z); clear_value z) | with_reducible first | assumption | apply State.quickEnd_keeps | apply State.startCal_keeps

theorem State.warmQuicks_keeps {a s : State} (h : a.Keeps s) (x2 : _) :
    a.Keeps (State.warmQuicks s x2).2 := by
  induction x2 generalizing s <;> [skip; rename_i ih]
  all_goals unfold State.warmQuicks
  repeat' first | intro _ | ((fail_if_no_progress extract_lets +onlyGivenNames z); (refine keeps_cut2 (a := a) z ?_ fun hz => ?_) <;> [subst z; clear_value z]) | with_reducible first | assumption | apply State.warmQuick_keeps | refine keeps_of2 (by assumption) ?_ | apply ih | split

theorem State.rerun_keeps {a s : State} (h : a.Keeps s) :
    a.Keeps (State.rerun s) := by
  unfold State.rerun
  repeat' first | intro _ | with_reducible first | assumption | apply State.each_keeps | apply State.setAx_keeps | apply State.restartFrom3_keeps | apply State.resetReg_keeps

theorem State.startFail_keeps {a s : State} (h : a.Keeps s) (x2 : _) :
    a.Keeps (State.startFail s x2) := by
  unfold State.startFail
  repeat' first | intro _ | with_reducible first | assumption | apply State.rerun_keeps | apply State.wr_keeps | apply State.setAx_keeps

theorem State.markStep_keeps {a s : State} (h : a.Keeps s) (x2 : _) :
    a.Keeps (State.markStep s x2) := by
  unfold State.markStep
  repeat' first | intro _ | with_reducible first | assumption | apply State.wr_keeps | apply State.setAx_keeps

theorem State.step9_keeps {a s : State} (h : a.Keeps s) (x2 : _) :
    a.Keeps (State.step9 s x2) := by
  unfold State.step9
  repeat' first | intro _ | ((fail_if_no_progress extract_lets +onlyGivenNames z); first | (first | refine keeps_cut (a := a) z ?_ fun hz => ?_ | refine keeps_cut2 (a := a) z ?_ fun hz => ?_) <;> [subst z; clear_value z] | clear_value z) | with_reducible first | assumption | apply State.when_keeps | apply State.startShed_keeps | apply State.each_keeps | apply State.warmDie_keeps | apply State.warmQuicks_keeps | apply State.startFail_keeps | apply State.markStep_keeps | apply keeps_ite | refine keeps_of2 (by assumption) ?_ | split

theorem State.powerGood_keeps {a s : State} (h : a.Keeps s) :
    a.Keeps (State.powerGood s) := by
  unfold State.powerGood
  repeat' first | intro _ | with_reducible first | assumption | apply State.setAx_keeps | apply State.markStep_keeps

theorem execPowerGood_keeps {a s : State} (h : a.Keeps s) :
    a.KeepsR (execPowerGood s) := by
  unfold execPowerGood
  repeat' first | intro _ | with_reducible first | assumption | apply keepsR_next | apply keepsR_ite | apply State.powerGood_keeps | apply keeps_ite | split

theorem State.dieBack_keeps {a s : State} (h : a.Keeps s) (x2 : _) :
    a.Keeps (State.dieBack s x2) := by
  unfold State.dieBack
  repeat' first | intro _ | with_reducible first | assumption | apply State.capUpdate_keeps | apply State.bump_keeps | apply State.wr_keeps

theorem coldFld_ok {m : SMap Nat} (h : fieldsOk m) (fs : List Nat) :
    fieldsOk (m.filterMap (fun e => if e.1.unpair.1 = Field.ctorIdx .TIL_STATUS_STATE then coldState e
      else if fs.contains e.1.unpair.1 then some e else none)) := by
  intro e he
  obtain ⟨x, hx, hxe⟩ := List.mem_filterMap.1 he
  obtain ⟨f, d, i, j, hk, hv⟩ := h x hx
  split at hxe
  · unfold coldState at hxe
    simp only at hxe
    have key : ∀ v, v < 2 ^ f.width → (if v = tsFree ∧ x.1.unpair.2.unpair.2.unpair.1 < 1536 then none else some (x.1, v)) = some e →
        ∃ f d i j, e.1 = fieldKey f d i j ∧ e.2 < 2 ^ f.width := by
      intro v hv hx
      split at hx
      · cases hx
      · cases hx
        exact ⟨f, d, i, j, hk, hv⟩
    split at hxe
    · exact key _ hv hxe
    · exact key _ (Nat.two_pow_pos _) hxe
  · split at hxe
    · cases hxe
      exact ⟨f, d, i, j, hk, hv⟩
    · cases hxe

theorem State.coldReset_keeps {a s : State} (h : a.Keeps s) (x2 : _) :
    a.Keeps (State.coldReset s x2) := by
  unfold State.coldReset
  extract_lets z fs axs y s1 s2
  have h1 : a.Keeps s1 := by
    refine ⟨h.1, h.2.1, fun x => ?_, h.2.2.2.1, fun x => coldFld_ok (h.2.2.2.2 x) _⟩
    exact SMap.wf_filter _ (h.2.2.1 x)
  have h2 : a.Keeps s2 := h1
  clear_value s2
  split
  · exact State.setAx_keeps h2 _ _ _ _ _
  · exact h2

theorem State.perstRelease_keeps {a s : State} (h : a.Keeps s) :
    a.Keeps (State.perstRelease s) := by
  unfold State.perstRelease
  repeat' first | intro _ | with_reducible first | assumption | apply State.restartFrom3_keeps | apply State.coldReset_keeps

theorem State.step2_keeps {a s : State} (h : a.Keeps s) :
    a.Keeps (State.step2 s) := by
  unfold State.step2
  repeat' first | intro _ | with_reducible first | assumption | apply State.markStep_keeps | apply State.wr_keeps | apply keeps_ite | split

theorem State.startClockEvent_keeps {a s : State} (h : a.Keeps s) :
    a.Keeps (State.startClockEvent s) := by
  unfold State.startClockEvent
  repeat' first | intro _ | ((fail_if_no_progress extract_lets +onlyGivenNames z); clear_value z) | with_reducible first | assumption | apply State.setAx_keeps | apply State.clockLossEvent_keeps | apply keeps_ite | split

theorem State.startRoundOf_keeps {a s : State} (h : a.Keeps s) (x2 : _) :
    a.Keeps (State.startRoundOf s x2) := by
  unfold State.startRoundOf
  repeat' first | intro _ | ((fail_if_no_progress extract_lets +onlyGivenNames z); first | (refine keeps_cut (a := a) z ?_ fun hz => ?_) <;> [subst z; clear_value z] | clear_value z) | with_reducible first | assumption | apply State.setAx_keeps | apply State.event_keeps | apply State.wr_keeps | apply State.each_keeps | apply State.queueCal_keeps | apply keeps_ite | split

theorem State.bringUp_keeps {a s : State} (h : a.Keeps s) (x2 : _) :
    a.Keeps (State.bringUp s x2) := by
  unfold State.bringUp
  repeat' first | intro _ | ((fail_if_no_progress extract_lets +onlyGivenNames z); first | (refine keeps_cut (a := a) z ?_ fun hz => ?_) <;> [subst z; clear_value z] | clear_value z) | with_reducible first | assumption | apply State.setAx_keeps | apply State.dieOnline_keeps | apply State.event_keeps | apply keeps_ite | split

theorem State.step8_keeps {a s : State} (h : a.Keeps s) (x2 : _) :
    a.Keeps (State.step8 s x2) := by
  unfold State.step8
  repeat' first | intro _ | ((fail_if_no_progress extract_lets +onlyGivenNames z); (refine keeps_cut (a := a) z ?_ fun hz => ?_) <;> [subst z; clear_value z]) | with_reducible first | assumption | apply State.startFail_keeps | apply State.each_keeps | apply State.bringUp_keeps | apply State.dieOffline_keeps | apply State.markStep_keeps | apply keeps_ite | split

theorem State.readyEvent_keeps {a s : State} (h : a.Keeps s) :
    a.Keeps (State.readyEvent s) := by
  unfold State.readyEvent
  repeat' first | intro _ | with_reducible first | assumption | apply State.event_keeps

theorem State.shadowEvent_keeps {a s : State} (h : a.Keeps s) :
    a.Keeps (State.shadowEvent s) := by
  unfold State.shadowEvent
  repeat' first | intro _ | with_reducible first | assumption | apply State.each_keeps | apply State.setAx_keeps | apply State.event_keeps | split

theorem State.startRecords_keeps {a s : State} (h : a.Keeps s) :
    a.Keeps (State.startRecords s) := by
  unfold State.startRecords
  repeat' first | intro _ | ((fail_if_no_progress extract_lets +onlyGivenNames z); (refine keeps_cut (a := a) z ?_ fun hz => ?_) <;> [subst z; clear_value z]) | with_reducible first | assumption | apply State.setAx_keeps | apply State.event_keeps | apply State.readyEvent_keeps | apply State.startClockEvent_keeps | apply State.shedOnEvent_keeps | apply State.shadowEvent_keeps | apply keeps_ite | split

theorem execPerstNRelease_keeps {a s : State} (h : a.Keeps s) :
    a.KeepsR (execPerstNRelease s) := by
  unfold execPerstNRelease
  repeat' first | intro _ | with_reducible first | assumption | apply keepsR_next | apply keepsR_ite | apply State.perstRelease_keeps | apply keeps_ite | split

theorem State.trainDie_keeps {a s : State} (h : a.Keeps s) (x2 : _) :
    a.Keeps (State.trainDie s x2) := by
  unfold State.trainDie
  repeat' first | intro _ | ((fail_if_no_progress extract_lets +onlyGivenNames z); first | (refine keeps_cut (a := a) z ?_ fun hz => ?_) <;> [subst z; clear_value z] | clear_value z) | with_reducible first | assumption | apply State.wr_keeps | apply State.setAx_keeps | apply State.each_keeps | apply keeps_ite | split

theorem State.ringOn_keeps {a s : State} (h : a.Keeps s) (x2 : _) (x3 : _) :
    a.Keeps (State.ringOn s x2 x3) := by
  unfold State.ringOn
  repeat' first | intro _ | ((fail_if_no_progress extract_lets +onlyGivenNames z); (refine keeps_cut (a := a) z ?_ fun hz => ?_) <;> [subst z; clear_value z]) | with_reducible first | assumption | apply State.ringEnable_keeps | apply State.startRecords_keeps | apply keeps_ite | split

theorem State.cutStart_keeps {a s : State} (h : a.Keeps s) :
    a.Keeps (State.cutStart s) := by
  unfold State.cutStart
  repeat' first | intro _ | with_reducible first | assumption | apply State.setAx_keeps | apply keeps_ite | split

theorem State.perstAssert_keeps {a s : State} (h : a.Keeps s) :
    a.Keeps (State.perstAssert s) := by
  unfold State.perstAssert
  repeat' first | intro _ | ((fail_if_no_progress extract_lets +onlyGivenNames z); (refine keeps_cut (a := a) z ?_ fun hz => ?_) <;> [subst z; clear_value z]) | with_reducible first | assumption | apply State.enterSafe_keeps | apply State.cutStart_keeps | apply State.setAx_keeps | apply State.each_keeps | apply State.endJobSilently_keeps

theorem execPerstNAssert_keeps {a s : State} (h : a.Keeps s) :
    a.KeepsR (execPerstNAssert s) := by
  unfold execPerstNAssert
  repeat' first | intro _ | with_reducible first | assumption | apply keepsR_next | apply keepsR_ite | apply State.perstAssert_keeps | apply keeps_ite | split

theorem State.powerFail_keeps {a s : State} (h : a.Keeps s) (x2 : _) :
    a.Keeps (State.powerFail s x2) := by
  unfold State.powerFail
  repeat' first | intro _ | ((fail_if_no_progress extract_lets +onlyGivenNames z); (refine keeps_cut (a := a) z ?_ fun hz => ?_) <;> [subst z; clear_value z]) | with_reducible first | assumption | apply State.enterSafe_keeps | apply State.cutStart_keeps | apply State.setAx_keeps | apply State.saveShadows_keeps | apply State.each_keeps | apply State.endJobSilently_keeps | apply keeps_ite | split

theorem execPowerFailTrip_keeps {a s : State} (h : a.Keeps s) (x1 : _) :
    a.KeepsR (execPowerFailTrip x1 s) := by
  unfold execPowerFailTrip
  repeat' first | intro _ | with_reducible first | assumption | apply keepsR_next | apply keepsR_ite | apply State.powerFail_keeps | apply keeps_ite | split

theorem State.loadShadows_keeps {a s : State} (h : a.Keeps s) (x2 : _) :
    a.Keeps (State.loadShadows s x2) := by
  unfold State.loadShadows
  repeat' first | intro _ | ((fail_if_no_progress extract_lets +onlyGivenNames z); first | (refine keeps_cut (a := a) z ?_ fun hz => ?_) <;> [subst z; clear_value z] | clear_value z) | with_reducible first | assumption | apply State.each_keeps | apply State.loadWear_keeps | apply State.wr_keeps | apply State.setAx_keeps | apply foldl_keeps | apply keeps_ite | split

theorem State.loadMemCfg_keeps {a s : State} (h : a.Keeps s) :
    a.Keeps (State.loadMemCfg s) := by
  unfold State.loadMemCfg
  repeat' first | intro _ | ((fail_if_no_progress extract_lets +onlyGivenNames z); clear_value z) | with_reducible first | assumption | apply State.each_keeps | apply State.resetReg_keeps | apply State.wr_keeps | apply keeps_ite | split

theorem State.enterMinimal_keeps {a s : State} (h : a.Keeps s) (x2 : _) :
    a.Keeps (State.enterMinimal s x2) := by
  unfold State.enterMinimal
  repeat' first | intro _ | ((fail_if_no_progress extract_lets +onlyGivenNames z); first | (refine keeps_cut (a := a) z ?_ fun hz => ?_) <;> [subst z; clear_value z] | clear_value z) | with_reducible first | assumption | apply State.wr_keeps | apply State.each_keeps | apply State.event_keeps | apply keeps_ite | split

theorem State.step4_keeps {a s : State} (h : a.Keeps s) (x2 : _) :
    a.Keeps (State.step4 s x2) := by
  unfold State.step4
  repeat' first | intro _ | ((fail_if_no_progress extract_lets +onlyGivenNames z); first | (refine keeps_cut (a := a) z ?_ fun hz => ?_) <;> [subst z; clear_value z] | clear_value z) | with_reducible first | assumption | apply State.each_keeps | apply State.event_keeps | apply State.when_keeps | apply State.wr_keeps | apply State.loadShadows_keeps | apply State.loadMemCfg_keeps | apply State.setAx_keeps | apply State.enterMinimal_keeps | apply State.markStep_keeps | apply keeps_ite | split

theorem State.step5_keeps {a s : State} (h : a.Keeps s) (x2 : _) :
    a.Keeps (State.step5 s x2) := by
  unfold State.step5
  repeat' first | intro _ | ((fail_if_no_progress extract_lets +onlyGivenNames z); first | (refine keeps_cut (a := a) z ?_ fun hz => ?_) <;> [subst z; clear_value z] | clear_value z) | with_reducible first | assumption | apply State.startFail_keeps | apply State.setAx_keeps | apply State.wr_keeps | apply State.event_keeps | apply State.markStep_keeps | apply keeps_ite | split

theorem State.step6_keeps {a s : State} (h : a.Keeps s) (x2 : _) :
    a.Keeps (State.step6 s x2) := by
  unfold State.step6
  repeat' first | intro _ | ((fail_if_no_progress extract_lets +onlyGivenNames z); first | (refine keeps_cut (a := a) z ?_ fun hz => ?_) <;> [subst z; clear_value z] | clear_value z) | with_reducible first | assumption | apply State.startFail_keeps | apply State.wr_keeps | apply State.setAx_keeps | apply State.markStep_keeps | apply State.setLock_keeps | apply foldl_keeps | apply keeps_ite | split

theorem State.step7_keeps {a s : State} (h : a.Keeps s) (x2 : _) :
    a.Keeps (State.step7 s x2) := by
  unfold State.step7
  repeat' first | intro _ | with_reducible first | assumption | apply State.markStep_keeps | apply State.each_keeps | apply State.trainDie_keeps | apply State.startFail_keeps | apply keeps_ite | split

theorem State.step11_keeps {a s : State} (h : a.Keeps s) :
    a.Keeps (State.step11 s) := by
  unfold State.step11
  repeat' first | intro _ | ((fail_if_no_progress extract_lets +onlyGivenNames z); (refine keeps_cut (a := a) z ?_ fun hz => ?_) <;> [subst z; clear_value z]) | with_reducible first | assumption | apply State.wr_keeps | apply State.markStep_keeps | apply State.setAx_keeps | apply State.readyEvent_keeps | apply State.capUpdate_keeps | apply State.each_keeps | apply State.startRoundOf_keeps

theorem State.startStep_keeps {a s : State} (h : a.Keeps s) (x2 : _) (x3 : _) :
    a.Keeps (State.startStep s x2 x3) := by
  unfold State.startStep
  repeat' first | intro _ | with_reducible first | assumption | apply State.step2_keeps | apply State.step4_keeps | apply State.step5_keeps | apply State.step6_keeps | apply State.step7_keeps | apply State.step8_keeps | apply State.step9_keeps | apply State.step11_keeps | apply State.markStep_keeps | apply keeps_ite | split

theorem execEvrCtrlEnable_keeps {a s : State} (h : a.Keeps s) (x1 : _) (x2 : _) :
    a.KeepsR (execEvrCtrlEnable x1 x2 s) := by
  unfold execEvrCtrlEnable
  repeat' first | intro _ | with_reducible first | assumption | apply keepsR_next | apply State.order_keeps | apply State.ringOn_keeps

theorem State.startRetry_keeps {a s : State} (h : a.Keeps s) (x2 : _) :
    a.Keeps (State.startRetry s x2) := by
  unfold State.startRetry
  repeat' first | intro _ | ((fail_if_no_progress extract_lets +onlyGivenNames z); (refine keeps_cut (a := a) z ?_ fun hz => ?_) <;> [subst z; clear_value z]) | with_reducible first | assumption | apply State.completeCmd_keeps | apply State.wr_keeps | apply State.setAx_keeps | apply State.when_keeps | apply State.each_keeps | apply keeps_ite | split

theorem execStartRetry_keeps {a s : State} (h : a.Keeps s) (x1 : _) :
    a.KeepsR (execStartRetry x1 s) := by
  unfold execStartRetry
  repeat' first | intro _ | with_reducible first | assumption | apply keepsR_next | apply State.runCmd_keeps | apply State.startRetry_keeps

theorem State.dieSteps_keeps {a s : State} (h : a.Keeps s) (x2 : _) (x3 : _) :
    a.Keeps (State.dieSteps s x2 x3) := by
  unfold State.dieSteps
  repeat' first | intro _ | with_reducible first | assumption | apply State.warmDie_keeps | apply State.copyPrograms_keeps | apply State.bringUp_keeps | apply State.startBanks_keeps | apply State.trainDie_keeps | apply State.freeLostTiles_keeps

theorem State.restoreDie_keeps {a s : State} (h : a.Keeps s) (x2 : _) (x3 : _) :
    a.Keeps (State.restoreDie s x2 x3).2 := by
  unfold State.restoreDie
  repeat' first | intro _ | ((fail_if_no_progress extract_lets +onlyGivenNames z); first | (first | refine keeps_cut (a := a) z ?_ fun hz => ?_ | refine keeps_cut2 (a := a) z ?_ fun hz => ?_) <;> [subst z; clear_value z] | clear_value z) | with_reducible first | assumption | apply State.dieSteps_keeps | apply State.warmQuicks_keeps | apply State.dieBack_keeps | refine keeps_of2 (by assumption) ?_ | split

theorem State.dieRestore_keeps {a s : State} (h : a.Keeps s) (x2 : _) (x3 : _) (x4 : _) :
    a.Keeps (State.dieRestore s x2 x3 x4) := by
  unfold State.dieRestore
  repeat' first | intro _ | ((fail_if_no_progress extract_lets +onlyGivenNames z); first | (refine keeps_cut2 (a := a) z ?_ fun hz => ?_) <;> [subst z; clear_value z] | clear_value z) | with_reducible first | assumption | apply State.completeCmd_keeps | apply State.restoreDie_keeps | apply State.event_keeps | apply keeps_ite | refine keeps_of2 (by assumption) ?_ | split

theorem execDieRestore_keeps {a s : State} (h : a.Keeps s) (x1 : _) (x2 : _) :
    a.KeepsR (execDieRestore x1 x2 s) := by
  unfold execDieRestore
  repeat' first | intro _ | with_reducible first | assumption | apply keepsR_next | apply State.runCmd_keeps | apply State.dieRestore_keeps

theorem State.railDip_keeps {a s : State} (h : a.Keeps s) :
    a.Keeps (State.railDip s) := by
  unfold State.railDip
  repeat' first | intro _ | ((fail_if_no_progress extract_lets +onlyGivenNames z); clear_value z) | with_reducible first | assumption | apply State.setAx_keeps | apply State.enterSafe_keeps | fail_if_no_progress apply keeps_mk | split

theorem execRailDip_keeps {a s : State} (h : a.Keeps s) :
    a.KeepsR (execRailDip s) := by
  unfold execRailDip
  repeat' first | intro _ | with_reducible first | assumption | apply keepsR_next | apply keepsR_ite | apply State.railDip_keeps | apply keeps_ite | split

theorem State.railBack_keeps {a s : State} (h : a.Keeps s) :
    a.Keeps (State.railBack s) := by
  unfold State.railBack
  repeat' first | intro _ | ((fail_if_no_progress extract_lets +onlyGivenNames z); first | (refine keeps_cut (a := a) z ?_ fun hz => ?_) <;> [subst z; clear_value z] | clear_value z) | with_reducible first | assumption | apply State.setAx_keeps | apply State.restoreClocks_keeps | apply State.faultJobs_keeps | apply State.leaveSafe_keeps | fail_if_no_progress apply keeps_mk | apply keeps_ite | split

theorem execRailRecovered_keeps {a s : State} (h : a.Keeps s) :
    a.KeepsR (execRailRecovered s) := by
  unfold execRailRecovered
  repeat' first | intro _ | with_reducible first | assumption | apply keepsR_next | apply keepsR_ite | apply State.railBack_keeps | apply keeps_ite | split

theorem execMgmtWatchdogMiss_keeps {a s : State} (h : a.Keeps s) (x1 : _) :
    a.KeepsR (execMgmtWatchdogMiss x1 s) := by
  unfold execMgmtWatchdogMiss
  repeat' first | intro _ | with_reducible first | assumption | apply keepsR_next | apply keepsR_ite | apply State.startFail_keeps | apply State.dieOffline_keeps | apply keeps_ite | split

theorem State.saveRestart_keeps {a s : State} (h : a.Keeps s) :
    a.Keeps (State.saveRestart s) := by
  unfold State.saveRestart
  repeat' first | intro _ | with_reducible first | assumption | apply State.powerGood_keeps | apply State.setAx_keeps | apply State.coldReset_keeps

theorem execStartTimeout_keeps {a s : State} (h : a.Keeps s) :
    a.KeepsR (execStartTimeout s) := by
  unfold execStartTimeout
  repeat' first | intro _ | with_reducible first | assumption | apply keepsR_next | apply keepsR_ite | apply State.startFail_keeps | apply keeps_ite | split

theorem State.retryDue_keeps {a s : State} (h : a.Keeps s) :
    a.Keeps (State.retryDue s) := by
  unfold State.retryDue
  repeat' first | intro _ | with_reducible first | assumption | apply State.rerun_keeps | apply keeps_ite | split

theorem execStartUpStepDone_keeps {a s : State} (h : a.Keeps s) (x1 : _) (x2 : _) :
    a.KeepsR (execStartUpStepDone x1 x2 s) := by
  unfold execStartUpStepDone
  repeat' first | intro _ | with_reducible first | assumption | apply keepsR_next | apply State.startStep_keeps | apply State.retryDue_keeps

theorem execSaveRestart_keeps {a s : State} (h : a.Keeps s) :
    a.KeepsR (execSaveRestart s) := by
  unfold execSaveRestart
  repeat' first | intro _ | with_reducible first | assumption | apply keepsR_next | apply keepsR_ite | apply State.saveRestart_keeps | apply keeps_ite | split

end Sys2Proof.Machine
end

