-- ==== Sys2Proof/Laws/KeepsRegs.lean ====
section
/-!
SUPPORT. Laws/KeepsRegs.lean: the operations of Machine/Regs.lean keep what Laws/Keeps.lean names.
-/

set_option linter.unusedTactic false
set_option linter.unusedVariables false
set_option linter.tactic.unusedName false
set_option linter.unreachableTactic false

namespace Sys2Proof.Machine

theorem State.act_keeps {a s : State} (h : a.Keeps s) (x2 : _) (x3 : _) (x4 : _) (hx2 : ∀ y0 y1, a.Keeps y1 → a.KeepsR (x2 y0 y1)) :
    a.Keeps (State.act s x2 x3 x4) := by
  unfold State.act
  repeat' first | intro _ | with_reducible first | assumption | apply hx2 | refine keeps_ofR (by assumption) ?_ | split

theorem State.latchRead_keeps {a s : State} (h : a.Keeps s) (x2 : _) (x3 : _) (x4 : _) :
    a.Keeps (State.latchRead s x2 x3 x4) := by
  unfold State.latchRead
  repeat' first | intro _ | ((fail_if_no_progress extract_lets +onlyGivenNames z); (refine keeps_fn z ?_; subst z; beta_reduce)) | with_reducible first | assumption | apply State.setLatch_keeps | apply keeps_ite | split

theorem State.plainField_keeps {a s : State} (h : a.Keeps s) (x2 : _) (x3 : _) (x4 : _) (x5 : _) (x6 : _) :
    a.Keeps (State.plainField s x2 x3 x4 x5 x6) := by
  unfold State.plainField
  repeat' first | intro _ | with_reducible first | assumption | apply State.wr_keeps | apply keeps_ite | split

theorem State.plain_keeps {a s : State} (h : a.Keeps s) (x2 : _) (x3 : _) (x4 : _) (x5 : _) (x6 : _) :
    a.Keeps (State.plain s x2 x3 x4 x5 x6) := by
  unfold State.plain
  repeat' first | intro _ | with_reducible first | assumption | apply State.each_keeps | apply State.plainField_keeps

theorem State.hit_keeps {a s : State} (h : a.Keeps s) (x2 : _) (x3 : _) (x4 : _) (hx4 : ∀ y0, a.Keeps y0 → a.Keeps (x4 y0)) :
    a.Keeps (State.hit s x2 x3 x4) := by
  unfold State.hit
  repeat' first | intro _ | with_reducible first | assumption | apply hx4 | apply keeps_ite | split

theorem State.markExpert_keeps {a s : State} (h : a.Keeps s) (x2 : _) (x3 : _) (x4 : _) :
    a.Keeps (State.markExpert s x2 x3 x4) := by
  unfold State.markExpert
  repeat' first | intro _ | with_reducible first | assumption | apply State.wr_keeps | apply State.hemExpert_keeps | apply State.yokExpert_keeps | apply State.calExpertShow_keeps | apply State.setAx_keeps | apply State.mcvExpert_keeps | split

theorem State.sets_keeps {a s : State} (h : a.Keeps s) (x2 : _) (x3 : _) (x4 : _) (x5 : _) (x6 : _) (x7 : _) (hx7 : ∀ y0 y1, a.Keeps y1 → a.Keeps (x7 y0 y1)) :
    a.Keeps (State.sets s x2 x3 x4 x5 x6 x7) := by
  unfold State.sets
  repeat' first | intro _ | with_reducible first | assumption | apply hx7 | apply keeps_ite | split

theorem State.refuseReg_keeps {a s : State} (h : a.Keeps s) (x2 : _) (x3 : _) (x4 : _) :
    a.Keeps (State.refuseReg s x2 x3 x4) := by
  unfold State.refuseReg
  repeat' first | intro _ | with_reducible first | assumption | apply State.wr_keeps | apply State.fnRefused_keeps | apply State.yokRefused_keeps | apply State.mcvRefused_keeps | apply State.clkRefused_keeps | apply State.pktRefused_keeps | apply keeps_ite | split

theorem State.plainReg_keeps {a s : State} (h : a.Keeps s) (x2 : _) (x3 : _) (x4 : _) (x5 : _) (x6 : _) (x7 : _) (hx7 : ∀ y0, a.Keeps y0 → a.Keeps (x7 y0)) :
    a.Keeps (State.plainReg s x2 x3 x4 x5 x6 x7) := by
  unfold State.plainReg
  repeat' first | intro _ | with_reducible first | assumption | apply hx7 | apply State.refuseReg_keeps | apply State.plain_keeps | apply State.when_keeps | apply State.markExpert_keeps | apply keeps_ite | split

theorem State.tileRegWrite_keeps {a s : State} (h : a.Keeps s) (x2 : _) (x3 : _) (x4 : _) (x5 : _) (x6 : _) (x7 : _) :
    a.Keeps (State.tileRegWrite s x2 x3 x4 x5 x6 x7) := by
  unfold State.tileRegWrite
  repeat' first | intro _ | ((fail_if_no_progress extract_lets +onlyGivenNames z); (refine keeps_cut (a := a) z ?_ fun hz => ?_) <;> [subst z; clear_value z]) | with_reducible first | assumption | apply State.sets_keeps | apply State.act_keeps | apply execTilCtrlHoldWrite_keeps | apply execTilCtrlPrecisionWrite_keeps | apply State.hit_keeps | apply execTilCtrlRetire_keeps | apply execTilCtrlHandback_keeps | apply execDrvCfgWrite_keeps | apply execDrvCfgHandback_keeps | apply execDrvSlewWrite_keeps | apply execHemCfgWrite_keeps | apply execHemTapsWrite_keeps | apply execHemCtrlClear_keeps | apply execHemCtrlHandback_keeps | apply State.plainReg_keeps | apply keeps_id | refine keeps_ofR (by assumption) ?_ | split

theorem State.readWord_keeps {a s : State} (h : a.Keeps s) (x2 : _) (x3 : _) :
    a.Keeps (State.readWord s x2 x3).2 := by
  unfold State.readWord
  repeat' first | intro _ | with_reducible first | assumption | apply State.pktDataRead_keeps | apply State.tabNext_keeps | apply State.waveNext_keeps | apply State.latchRead_keeps | apply keeps2_ite | apply keeps_ite | refine keeps_of2 (by assumption) ?_ | split

theorem State.dieRegWrite_keeps {a s : State} (h : a.Keeps s) (x2 : _) (x3 : _) (x4 : _) (x5 : _) (x6 : _) :
    a.Keeps (State.dieRegWrite s x2 x3 x4 x5 x6) := by
  unfold State.dieRegWrite
  repeat' first | intro _ | ((fail_if_no_progress extract_lets +onlyGivenNames z); (refine keeps_cut (a := a) z ?_ fun hz => ?_) <;> [subst z; clear_value z]) | with_reducible first | assumption | apply State.act_keeps | apply execWfmDataAccess_keeps | apply State.hit_keeps | apply State.plainReg_keeps | apply execWfmStatHandback_keeps | apply execWfmPlayStart_keeps | apply execWfmPlayStop_keeps | apply execWfmPlayCancel_keeps | apply execSeqCfgWrite_keeps | apply State.sets_keeps | apply execSeqCtrlDrainWrite_keeps | apply execSeqCtrlHandback_keeps | apply execDgaCtrlHoldWrite_keeps | apply execDgaCtrlClear_keeps | apply execDgaCtrlHandback_keeps | apply execPrgCtrlHoldWrite_keeps | apply execPrgCtrlClear_keeps | apply execPrgCtrlHandback_keeps | apply execPrgStoreWrite_keeps | apply execCalCtrlHoldWrite_keeps | apply execCalCtrlClear_keeps | apply execCalCtrlHandback_keeps | apply execCalCtrlTrace_keeps | apply execCalTabDataAccess_keeps | apply execCalHandbackGo_keeps | apply execMcvCtrlHoldWrite_keeps | apply execMcvCtrlModeWrite_keeps | apply execMcvCtrlScal_keeps | apply execMcvCtrlClear_keeps | apply execMcvCtrlHandback_keeps | apply execMcvTrigGo_keeps | apply State.timedTrigger_keeps | apply State.when_keeps | apply State.markExpert_keeps | apply execTlmStart_keeps | apply execTlmStop_keeps | apply execTlmCancel_keeps | apply execBnkOwnerWrite_keeps | apply execBnkCtrlClear_keeps | apply execBnkCtrlHandback_keeps | apply execBnkDiagGo_keeps | apply execMemCtrlRetrain_keeps | apply execMemCtrlClear_keeps | apply execMemCtrlHandback_keeps | apply execMemCfgWrite_keeps | apply keeps_id | apply keeps_ite | refine keeps_ofR (by assumption) ?_ | split

theorem State.fnRegWrite_keeps {a s : State} (h : a.Keeps s) (x2 : _) (x3 : _) (x4 : _) (x5 : _) (x6 : _) :
    a.Keeps (State.fnRegWrite s x2 x3 x4 x5 x6) := by
  unfold State.fnRegWrite
  repeat' first | intro _ | with_reducible first | assumption | apply State.act_keeps | apply execEvrCtrlEnable_keeps | apply State.plainReg_keeps | apply execEvrHeadWrite_keeps | apply execMsixUnmask_keeps | apply State.wr_keeps | apply execQpCfgEnable_keeps | apply execQpCfgDisable_keeps | apply execQpSqtailWrite_keeps | apply execQpCqheadWrite_keeps | apply State.refuseReg_keeps | apply State.sets_keeps | apply execFnqQuotaWrite_keeps | apply State.each_keeps | apply execFnqGrantWrite_keeps | apply State.sendQuotas_keeps | apply keeps_id | apply keeps_ite | refine keeps_ofR (by assumption) ?_ | split

theorem State.gateWord_keeps {a s : State} (h : a.Keeps s) (x2 : _) (x3 : _) (x4 : _) :
    a.Keeps (State.gateWord s x2 x3 x4) := by
  unfold State.gateWord
  repeat' first | intro _ | with_reducible first | assumption | apply State.gateRefused_keeps | apply State.sets_keeps | apply State.act_keeps | apply execClkGateWrite_keeps | apply keeps_ite | refine keeps_ofR (by assumption) ?_ | split

theorem State.pkgRegWrite_keeps {a s : State} (h : a.Keeps s) (x2 : _) (x3 : _) (x4 : _) (x5 : _) :
    a.Keeps (State.pkgRegWrite s x2 x3 x4 x5) := by
  unfold State.pkgRegWrite
  repeat' first | intro _ | ((fail_if_no_progress extract_lets +onlyGivenNames z); first | (refine keeps_cut (a := a) z ?_ fun hz => ?_) <;> [subst z; clear_value z] | clear_value z) | with_reducible first | assumption | apply State.sets_keeps | apply State.act_keeps | apply execYokCtrlHoldAllWrite_keeps | apply execYokCtrlSplitEnWrite_keeps | apply State.hit_keeps | apply execYokCtrlClear_keeps | apply execYokCtrlHandback_keeps | apply execYokPeriodWrite_keeps | apply execYokThrottleWrite_keeps | apply State.plainReg_keeps | apply execMirCfgEnableWrite_keeps | apply execMirCfgHandback_keeps | apply execMirCtrlRelease_keeps | apply execMirCtrlResync_keeps | apply execMirCtrlClear_keeps | apply execMirFnMirroredWrite_keeps | apply execFltCtrlClear_keeps | apply execClkCtrlMgmtSrcWrite_keeps | apply execClkCtrlRootWrite_keeps | apply execClkCtrlHandback_keeps | apply execClkPllWrite_keeps | apply State.gateWord_keeps | apply execClkGateWrite_keeps | apply State.when_keeps | apply State.setAx_keeps | apply execClkDtctrlSet_keeps | apply execClkDtctrlSetPps_keeps | apply execPwrCtrlHandback_keeps | apply State.pktDataWrite_keeps | apply State.unlock_keeps | apply State.relock_keeps | apply execChnCfgPecWrite_keeps | apply keeps_id | refine keeps_ofR (by assumption) ?_ | split

theorem State.regWrite_keeps {a s : State} (h : a.Keeps s) (x2 : _) (x3 : _) (x4 : _) :
    a.Keeps (State.regWrite s x2 x3 x4) := by
  unfold State.regWrite
  repeat' first | intro _ | with_reducible first | assumption | apply State.fnRefused_keeps | apply State.tileRegWrite_keeps | apply State.dieRegWrite_keeps | apply State.fnRegWrite_keeps | apply State.pkgRegWrite_keeps | apply keeps_ite | split

theorem State.latchWide_keeps {a s : State} (h : a.Keeps s) (x2 : _) (x3 : _) :
    a.Keeps (State.latchWide s x2 x3) := by
  unfold State.latchWide
  repeat' first | intro _ | with_reducible first | assumption | apply State.setLatch_keeps | apply keeps_ite | split

theorem State.readWords_keeps {a s : State} (h : a.Keeps s) (x2 : _) (x3 : _) (x4 : _) :
    a.Keeps (State.readWords s x2 x3 x4).2 := by
  induction x4 generalizing s x3 <;> [skip; rename_i ih]
  all_goals unfold State.readWords
  repeat' first | intro _ | ((fail_if_no_progress extract_lets +onlyGivenNames z); (refine keeps_cut2 (a := a) z ?_ fun hz => ?_) <;> [subst z; clear_value z]) | with_reducible first | assumption | apply State.readWord_keeps | refine keeps_of2 (by assumption) ?_ | apply ih | split

theorem State.readAccess_keeps {a s : State} (h : a.Keeps s) (x2 : _) (x3 : _) (x4 : _) :
    a.Keeps (State.readAccess s x2 x3 x4).2 := by
  unfold State.readAccess
  repeat' first | intro _ | ((fail_if_no_progress extract_lets +onlyGivenNames z); (refine keeps_cut2 (a := a) z ?_ fun hz => ?_) <;> [subst z; clear_value z]) | with_reducible first | assumption | apply State.latchWide_keeps | apply State.readWords_keeps | refine keeps_of2 (by assumption) ?_ | split

theorem State.readOut_keeps {a s : State} (h : a.Keeps s) (x2 : _) (x3 : _) (x4 : _) :
    a.Keeps (State.readOut s x2 x3 x4) := by
  unfold State.readOut
  repeat' first | intro _ | ((fail_if_no_progress extract_lets +onlyGivenNames z); (refine keeps_cut2 (a := a) z ?_ fun hz => ?_) <;> [subst z; clear_value z]) | with_reducible first | assumption | apply State.readAccess_keeps | apply State.emit_keeps | apply keeps_ite | refine keeps_of2 (by assumption) ?_ | split

theorem execGlbCapacityLowRead_keeps {a s : State} (h : a.Keeps s) (x1 : _) :
    a.KeepsR (execGlbCapacityLowRead x1 s) := by
  unfold execGlbCapacityLowRead
  repeat' first | intro _ | with_reducible first | assumption | apply keepsR_next | apply State.readOut_keeps

theorem State.writeWord_keeps {a s : State} (h : a.Keeps s) (x2 : _) (x3 : _) (x4 : _) :
    a.Keeps (State.writeWord s x2 x3 x4) := by
  unfold State.writeWord
  repeat' first | intro _ | ((fail_if_no_progress extract_lets +onlyGivenNames z); clear_value z) | with_reducible first | assumption | apply State.regWrite_keeps | apply State.setHolding_keeps | apply keeps_ite | split

theorem State.busWrite_keeps {a s : State} (h : a.Keeps s) (x2 : _) :
    a.Keeps (State.busWrite s x2) := by
  unfold State.busWrite
  repeat' first | intro _ | ((fail_if_no_progress extract_lets +onlyGivenNames z); clear_value z) | with_reducible first | assumption | apply State.regWrite_keeps | apply State.setHolding_keeps | apply State.each_keeps | apply State.writeWord_keeps | apply keeps_ite | split

theorem State.busOrder_keeps {a s : State} (h : a.Keeps s) (x2 : _) :
    a.Keeps (State.busOrder s x2) := by
  unfold State.busOrder
  repeat' first | intro _ | ((fail_if_no_progress extract_lets +onlyGivenNames z); first | (refine keeps_cut (a := a) z ?_ fun hz => ?_) <;> [subst z; clear_value z] | clear_value z) | with_reducible first | assumption | apply State.busWrite_keeps | apply State.each_keeps | apply State.superseded_keeps | apply keeps_ite | split

theorem State.hwSet_keeps {a s : State} (h : a.Keeps s) (x2 : _) :
    a.Keeps (State.hwSet s x2) := by
  unfold State.hwSet
  repeat' first | intro _ | with_reducible first | assumption | apply State.wr_keeps | apply keeps_ite | split

theorem State.busCycle_keeps {a s : State} (h : a.Keeps s) (x2 : _) :
    a.Keeps (State.busCycle s x2) := by
  unfold State.busCycle
  repeat' first | intro _ | with_reducible first | assumption | apply State.each_keeps | apply State.busOrder_keeps | apply State.hwSet_keeps

theorem execRegisterWrite_keeps {a s : State} (h : a.Keeps s) (x1 : _) :
    a.KeepsR (execRegisterWrite x1 s) := by
  unfold execRegisterWrite
  repeat' first | intro _ | with_reducible first | assumption | apply keepsR_next | apply State.busCycle_keeps

theorem execHemMseSumRead_keeps {a s : State} (h : a.Keeps s) (x1 : _) (x2 : _) (x3 : _) (x4 : _) (x5 : _) :
    a.KeepsR (execHemMseSumRead x1 x2 x3 x4 x5 s) := by
  unfold execHemMseSumRead
  repeat' first | intro _ | with_reducible first | assumption | apply keepsR_next | apply keepsR_ite | apply State.readOut_keeps | apply keeps_ite | split

end Sys2Proof.Machine
end

