-- ==== Sys2Proof/Laws/KeepsChain.lean ====
section
/-!
SUPPORT. Laws/KeepsChain.lean: the operations of Machine/Chain.lean keep what Laws/Keeps.lean names.
-/

set_option linter.unusedTactic false
set_option linter.unusedVariables false
set_option linter.tactic.unusedName false
set_option linter.unreachableTactic false

namespace Sys2Proof.Machine

theorem State.nack_keeps {a s : State} (h : a.Keeps s) :
    a.Keeps (State.nack s) := by
  unfold State.nack
  repeat' first | intro _ | with_reducible first | assumption | apply State.emit_keeps

theorem State.tokenOut_keeps {a s : State} (h : a.Keeps s) :
    a.Keeps (State.tokenOut s) := by
  unfold State.tokenOut
  repeat' first | intro _ | with_reducible first | assumption | apply State.wr_keeps | apply keeps_ite | split

theorem State.token_keeps {a s : State} (h : a.Keeps s) (x2 : _) :
    a.Keeps (State.token s x2) := by
  unfold State.token
  repeat' first | intro _ | with_reducible first | assumption | apply State.tokenOut_keeps | apply State.wr_keeps

theorem State.pecError_keeps {a s : State} (h : a.Keeps s) :
    a.Keeps (State.pecError s) := by
  unfold State.pecError
  repeat' first | intro _ | ((fail_if_no_progress extract_lets +onlyGivenNames z); (refine keeps_cut (a := a) z ?_ fun hz => ?_) <;> [subst z; clear_value z]) | with_reducible first | assumption | apply State.bump_keeps | apply State.nack_keeps | apply State.event_keeps | apply State.setAx_keeps | apply keeps_ite | split

theorem State.chainWrite_keeps {a s : State} (h : a.Keeps s) (x2 : _) (x3 : _) (x4 : _) (x5 : _) (hx5 : ∀ y0, a.Keeps y0 → a.Keeps (x5 y0)) :
    a.Keeps (State.chainWrite s x2 x3 x4 x5) := by
  unfold State.chainWrite
  repeat' first | intro _ | ((fail_if_no_progress extract_lets +onlyGivenNames z); (refine keeps_cut (a := a) z ?_ fun hz => ?_) <;> [subst z; clear_value z]) | with_reducible first | assumption | apply hx5 | apply State.token_keeps | apply State.nack_keeps | apply State.pecError_keeps | apply keeps_ite | split

theorem State.leave_keeps {a s : State} (h : a.Keeps s) (x2 : _) :
    a.Keeps (State.leave s x2) := by
  unfold State.leave
  repeat' first | intro _ | with_reducible first | assumption | apply State.setAx_keeps

theorem execClearAddr_keeps {a s : State} (h : a.Keeps s) (x1 : _) :
    a.KeepsR (execClearAddr x1 s) := by
  unfold execClearAddr
  repeat' first | intro _ | with_reducible first | assumption | apply keepsR_next | apply State.chainWrite_keeps | apply State.leave_keeps | apply State.tokenOut_keeps | apply State.wr_keeps

theorem State.pocketWords_keeps {a s : State} (h : a.Keeps s) (x2 : _) (x3 : _) (x4 : _) (x5 : _) :
    a.Keeps (State.pocketWords s x2 x3 x4 x5).2 := by
  induction x5 generalizing s x4 <;> [skip; rename_i ih]
  all_goals unfold State.pocketWords
  repeat' first | intro _ | ((fail_if_no_progress extract_lets +onlyGivenNames z); (refine keeps_cut2 (a := a) z ?_ fun hz => ?_) <;> [subst z; clear_value z]) | with_reducible first | assumption | apply State.pocketWord_keeps | refine keeps_of2 (by assumption) ?_ | apply ih | split

theorem State.bypass_keeps {a s : State} (h : a.Keeps s) (x2 : _) :
    a.Keeps (State.bypass s x2) := by
  unfold State.bypass
  repeat' first | intro _ | ((fail_if_no_progress extract_lets +onlyGivenNames z); (refine keeps_cut (a := a) z ?_ fun hz => ?_) <;> [subst z; clear_value z]) | with_reducible first | assumption | apply State.tokenOut_keeps | apply State.wr_keeps | apply State.setAx_keeps | apply State.when_keeps | apply State.event_keeps

theorem execBypass_keeps {a s : State} (h : a.Keeps s) (x1 : _) :
    a.KeepsR (execBypass x1 s) := by
  unfold execBypass
  repeat' first | intro _ | with_reducible first | assumption | apply keepsR_next | apply State.chainWrite_keeps | apply State.leave_keeps | apply State.bypass_keeps

theorem execChainSupervisorTimeout_keeps {a s : State} (h : a.Keeps s) :
    a.KeepsR (execChainSupervisorTimeout s) := by
  unfold execChainSupervisorTimeout
  repeat' first | intro _ | with_reducible first | assumption | apply keepsR_next | apply keepsR_ite | apply State.bypass_keeps | apply keeps_ite | split

theorem State.chainData_keeps {a s : State} (h : a.Keeps s) (x2 : _) (x3 : _) (x4 : _) (x5 : _) :
    a.Keeps (State.chainData s x2 x3 x4 x5) := by
  unfold State.chainData
  repeat' first | intro _ | with_reducible first | assumption | apply State.emit_keeps | apply keeps_ite | split

theorem execChainTransactionTimeout_keeps {a s : State} (h : a.Keeps s) :
    a.KeepsR (execChainTransactionTimeout s) := by
  unfold execChainTransactionTimeout
  repeat' first | intro _ | with_reducible first | assumption | apply keepsR_next | apply State.timeout_keeps | apply State.bump_keeps

theorem State.chainRead_keeps {a s : State} (h : a.Keeps s) (x2 : _) (x3 : _) (hx3 : ∀ y0, a.Keeps y0 → a.Keeps (x3 y0)) :
    a.Keeps (State.chainRead s x2 x3) := by
  unfold State.chainRead
  repeat' first | intro _ | ((fail_if_no_progress extract_lets +onlyGivenNames z); (refine keeps_cut (a := a) z ?_ fun hz => ?_) <;> [subst z; clear_value z]) | with_reducible first | assumption | apply hx3 | apply State.token_keeps | apply State.nack_keeps | apply keeps_ite | split

theorem execRegRead_keeps {a s : State} (h : a.Keeps s) (x1 : _) (x2 : _) :
    a.KeepsR (execRegRead x1 x2 s) := by
  unfold execRegRead
  repeat' first | intro _ | ((fail_if_no_progress extract_lets +onlyGivenNames z); (refine keeps_cut2 (a := a) z ?_ fun hz => ?_) <;> [subst z; clear_value z]) | with_reducible first | assumption | apply keepsR_next | apply keepsR_ite | apply State.chainRead_keeps | apply State.readAccess_keeps | apply State.leave_keeps | apply State.chainData_keeps | apply State.nack_keeps | apply keeps_ite | refine keeps_of2 (by assumption) ?_ | split

theorem State.chainPocketWrite_keeps {a s : State} (h : a.Keeps s) (x2 : _) (x3 : _) (x4 : _) (x5 : _) (x6 : _) (x7 : _) :
    a.Keeps (State.chainPocketWrite s x2 x3 x4 x5 x6 x7) := by
  unfold State.chainPocketWrite
  repeat' first | intro _ | ((fail_if_no_progress extract_lets +onlyGivenNames z); first | (refine keeps_cut (a := a) z ?_ fun hz => ?_) <;> [subst z; clear_value z] | clear_value z) | with_reducible first | assumption | apply State.leave_keeps | apply State.superseded_keeps | apply State.pktWrite_keeps | apply State.pktDenied_keeps | apply keeps_ite | split

theorem execChainPocketWrite_keeps {a s : State} (h : a.Keeps s) (x1 : _) (x2 : _) (x3 : _) (x4 : _) (x5 : _) (x6 : _) (x7 : _) :
    a.KeepsR (execChainPocketWrite x1 x2 x3 x4 x5 x6 x7 s) := by
  unfold execChainPocketWrite
  repeat' first | intro _ | with_reducible first | assumption | apply keepsR_next | apply State.chainWrite_keeps | apply State.chainPocketWrite_keeps

theorem State.pocketBytes_keeps {a s : State} (h : a.Keeps s) (x2 : _) (x3 : _) (x4 : _) (x5 : _) :
    a.Keeps (State.pocketBytes s x2 x3 x4 x5).2 := by
  unfold State.pocketBytes
  repeat' first | intro _ | ((fail_if_no_progress extract_lets +onlyGivenNames z); (refine keeps_cut2 (a := a) z ?_ fun hz => ?_) <;> [subst z; clear_value z]) | with_reducible first | assumption | apply State.pocketWords_keeps | refine keeps_of2 (by assumption) ?_

theorem execRegWrite_keeps {a s : State} (h : a.Keeps s) (x1 : _) (x2 : _) (x3 : _) (x4 : _) :
    a.KeepsR (execRegWrite x1 x2 x3 x4 s) := by
  unfold execRegWrite
  repeat' first | intro _ | with_reducible first | assumption | apply keepsR_next | apply keepsR_ite | apply State.chainWrite_keeps | apply State.leave_keeps | apply State.busCycle_keeps | apply State.nack_keeps | apply keeps_ite | split

theorem execLastStatus_keeps {a s : State} (h : a.Keeps s) (x1 : _) :
    a.KeepsR (execLastStatus x1 s) := by
  unfold execLastStatus
  repeat' first | intro _ | with_reducible first | assumption | apply keepsR_next | apply State.chainRead_keeps | apply State.chainData_keeps

theorem execChainHeartbeatToggle_keeps {a s : State} (h : a.Keeps s) :
    a.KeepsR (execChainHeartbeatToggle s) := by
  unfold execChainHeartbeatToggle
  repeat' first | intro _ | with_reducible first | assumption | apply keepsR_next | apply keepsR_ite | apply State.setAx_keeps | apply keeps_ite | split

theorem State.assign_keeps {a s : State} (h : a.Keeps s) (x2 : _) (x3 : _) :
    a.Keeps (State.assign s x2 x3) := by
  unfold State.assign
  repeat' first | intro _ | ((fail_if_no_progress extract_lets +onlyGivenNames z); (refine keeps_cut (a := a) z ?_ fun hz => ?_) <;> [subst z; clear_value z]) | with_reducible first | assumption | apply State.token_keeps | apply State.nack_keeps | apply State.pecError_keeps | apply State.leave_keeps | apply State.event_keeps | apply State.tokenOut_keeps | apply State.wr_keeps | apply keeps_ite | split

theorem State.aonGood_keeps {a s : State} (h : a.Keeps s) :
    a.Keeps (State.aonGood s) := by
  unfold State.aonGood
  repeat' first | intro _ | ((fail_if_no_progress extract_lets +onlyGivenNames z); (refine keeps_cut (a := a) z ?_ fun hz => ?_) <;> [subst z; clear_value z]) | with_reducible first | assumption | apply State.coldReset_keeps | apply State.setAx_keeps | apply State.each_keeps | apply State.wr_keeps | apply State.tokenOut_keeps | fail_if_no_progress apply keeps_mk | split

theorem execChainPocketRead_keeps {a s : State} (h : a.Keeps s) (x1 : _) (x2 : _) (x3 : _) (x4 : _) (x5 : _) :
    a.KeepsR (execChainPocketRead x1 x2 x3 x4 x5 s) := by
  unfold execChainPocketRead
  repeat' first | intro _ | ((fail_if_no_progress extract_lets +onlyGivenNames z); first | (refine keeps_cut2 (a := a) z ?_ fun hz => ?_) <;> [subst z; clear_value z] | clear_value z) | with_reducible first | assumption | apply keepsR_next | apply keepsR_ite | apply State.chainRead_keeps | apply State.leave_keeps | apply State.chainData_keeps | apply State.pktDenied_keeps | apply State.pocketBytes_keeps | apply keeps_ite | refine keeps_of2 (by assumption) ?_ | split

theorem execChainStatus_keeps {a s : State} (h : a.Keeps s) (x1 : _) :
    a.KeepsR (execChainStatus x1 s) := by
  unfold execChainStatus
  repeat' first | intro _ | with_reducible first | assumption | apply keepsR_next | apply State.chainRead_keeps | apply State.leave_keeps | apply State.chainData_keeps

theorem execVddAonGood_keeps {a s : State} (h : a.Keeps s) :
    a.KeepsR (execVddAonGood s) := by
  unfold execVddAonGood
  repeat' first | intro _ | with_reducible first | assumption | apply keepsR_next | apply State.aonGood_keeps

theorem execAssign_keeps {a s : State} (h : a.Keeps s) (x1 : _) (x2 : _) :
    a.KeepsR (execAssign x1 x2 s) := by
  unfold execAssign
  repeat' first | intro _ | with_reducible first | assumption | apply keepsR_next | apply State.assign_keeps

theorem execBypassSwitchOpen_keeps {a s : State} (h : a.Keeps s) :
    a.KeepsR (execBypassSwitchOpen s) := by
  unfold execBypassSwitchOpen
  repeat' first | intro _ | with_reducible first | assumption | apply keepsR_next | apply keepsR_ite | apply State.tokenOut_keeps | apply State.setAx_keeps | apply State.wr_keeps | apply keeps_ite | split

theorem execIdentify_keeps {a s : State} (h : a.Keeps s) (x1 : _) :
    a.KeepsR (execIdentify x1 s) := by
  unfold execIdentify
  repeat' first | intro _ | with_reducible first | assumption | apply keepsR_next | apply State.chainRead_keeps | apply State.leave_keeps | apply State.chainData_keeps

end Sys2Proof.Machine
end

