-- ==== Sys2Proof/Laws/KeepsIdle.lean ====
section
/-!
SUPPORT. Laws/KeepsIdle.lean: the operations of Machine/Idle.lean keep what Laws/Keeps.lean names.
-/

set_option linter.unusedTactic false
set_option linter.unusedVariables false
set_option linter.tactic.unusedName false
set_option linter.unreachableTactic false

namespace Sys2Proof.Machine

theorem State.countHours_keeps {a s : State} (h : a.Keeps s) (x2 : _) :
    a.Keeps (State.countHours s x2) := by
  unfold State.countHours
  repeat' first | intro _ | with_reducible first | assumption | apply State.when_keeps | apply State.bump_keeps | split

theorem State.idle_keeps {a s : State} (h : a.Keeps s) :
    a.Keeps (State.idle s) := by
  unfold State.idle
  repeat' first | intro _ | with_reducible first | assumption | apply State.maintPump_keeps | apply State.retryDue_keeps | apply State.countHours_keeps | apply State.tick_keeps

end Sys2Proof.Machine
end

