-- ==== Sys2Proof/Laws/SameBanks.lean ====
section
/-!
SUPPORT. Laws/SameBanks.lean: what the operations of Machine/Banks.lean may change, and that they leave the rest alone.
-/

set_option linter.unusedTactic false
set_option linter.unusedSimpArgs false
set_option linter.unusedVariables false
set_option linter.tactic.unusedName false
set_option linter.unreachableTactic false

namespace Sys2Proof.Machine

def State.bankPass_w (g : Piece) : Bool := (g == .fld .BNK_HANDOVERS_COUNT) || (g == .aux .bankTarget) || (g == .fld .BNK_OWNER_PEND) || (g == .fld .BNK_OWNER_CUR_ID) || (g == .fld .BNK_OWNER_CUR_KIND)

theorem State.bankPass_same {g : Piece} {a : State} (hg : State.bankPass_w g = false) {s : State} (h : Same g a s) (x2 : _) (x3 : _) (x4 : _) (x5 : _) :
    Same g a (State.bankPass s x2 x3 x4 x5) := by
  simp only [State.bankPass_w, Bool.or_eq_false_iff] at hg
  repeat (have := hg.2; replace hg := hg.1)
  unfold State.bankPass
  repeat' first | intro _ | with_reducible first | assumption | apply bump_same (by assumption) | apply setAx_same (by assumption) | apply wr_same (by assumption)

def State.clearRange_w (g : Piece) : Bool := (g == .mem) || (g == .devMem) || (g == .poison)

theorem State.clearRange_same {g : Piece} {a : State} (hg : State.clearRange_w g = false) {s : State} (h : Same g a s) (x2 : _) (x3 : _) :
    Same g a (State.clearRange s x2 x3) := by
  simp only [State.clearRange_w, Bool.or_eq_false_iff] at hg
  repeat (have := hg.2; replace hg := hg.1)
  unfold State.clearRange
  repeat' first | intro _ | with_reducible first | assumption | fail_if_no_progress apply same_mk_mem_poison (by assumption) (by assumption) (by assumption) | split

def State.zeroBanks_w (g : Piece) : Bool := State.clearRange_w g

theorem State.zeroBanks_same {g : Piece} {a : State} (hg : State.zeroBanks_w g = false) {s : State} (h : Same g a s) (x2 : _) :
    Same g a (State.zeroBanks s x2) := by
  simp only [State.zeroBanks_w] at hg
  unfold State.zeroBanks
  repeat' first | intro _ | with_reducible first | assumption | apply State.clearRange_same (by assumption)

def State.startBanks_w (g : Piece) : Bool := State.zeroBanks_w g || (g == .aux .bankTarget) || (g == .fld .BNK_OWNER_ZEROING) || (g == .fld .BNK_OWNER_PEND) || (g == .fld .BNK_OWNER_CUR_ID) || (g == .fld .BNK_OWNER_CUR_KIND)

theorem State.startBanks_same {g : Piece} {a : State} (hg : State.startBanks_w g = false) {s : State} (h : Same g a s) (x2 : _) :
    Same g a (State.startBanks s x2) := by
  simp only [State.startBanks_w, Bool.or_eq_false_iff] at hg
  repeat (have := hg.2; replace hg := hg.1)
  unfold State.startBanks
  repeat' first | intro _ | with_reducible first | assumption | apply State.each_same | apply State.zeroBanks_same (by assumption) | apply setAx_same (by assumption) | apply wr_same (by assumption)

def State.putBytes_w (g : Piece) : Bool := (g == .mem) || (g == .devMem) || (g == .poison)

theorem State.putBytes_same {g : Piece} {a : State} (hg : State.putBytes_w g = false) {s : State} (h : Same g a s) (x2 : _) :
    Same g a (State.putBytes s x2) := by
  simp only [State.putBytes_w, Bool.or_eq_false_iff] at hg
  repeat (have := hg.2; replace hg := hg.1)
  unfold State.putBytes
  repeat' first | intro _ | with_reducible first | assumption | fail_if_no_progress apply same_mk_mem_poison (by assumption) (by assumption) (by assumption) | apply foldl_same | split

def State.copyProg_w (g : Piece) : Bool := State.putBytes_w g || (g == .progs)

theorem State.copyProg_same {g : Piece} {a : State} (hg : State.copyProg_w g = false) {s : State} (h : Same g a s) (x2 : _) (x3 : _) (x4 : _) :
    Same g a (State.copyProg s x2 x3 x4) := by
  simp only [State.copyProg_w, Bool.or_eq_false_iff] at hg
  repeat (have := hg.2; replace hg := hg.1)
  unfold State.copyProg
  repeat' first | intro _ | ((fail_if_no_progress extract_lets +onlyGivenNames z); (refine same_cut (a := a) (g := g) z ?_ fun hz => ?_) <;> [subst z; clear_value z]) | with_reducible first | assumption | apply State.putBytes_same (by assumption) | fail_if_no_progress apply same_mk_progs (by assumption) | apply same_ite | split

def State.copyPrograms_w (g : Piece) : Bool := State.copyProg_w g

theorem State.copyPrograms_same {g : Piece} {a : State} (hg : State.copyPrograms_w g = false) {s : State} (h : Same g a s) (x2 : _) :
    Same g a (State.copyPrograms s x2) := by
  simp only [State.copyPrograms_w] at hg
  unfold State.copyPrograms
  repeat' first | intro _ | with_reducible first | assumption | apply State.each_same | apply State.copyProg_same (by assumption) | split

def State.bankZeroEnded_w (g : Piece) : Bool := State.clearRange_w g || State.bankPass_w g || (g == .aux .bankZeroEnd) || (g == .fld .BNK_OWNER_ZEROING)

theorem State.bankZeroEnded_same {g : Piece} {a : State} (hg : State.bankZeroEnded_w g = false) {s : State} (h : Same g a s) (x2 : _) (x3 : _) :
    Same g a (State.bankZeroEnded s x2 x3) := by
  simp only [State.bankZeroEnded_w, Bool.or_eq_false_iff] at hg
  repeat (have := hg.2; replace hg := hg.1)
  unfold State.bankZeroEnded
  repeat' first | intro _ | ((fail_if_no_progress extract_lets +onlyGivenNames z); first | (refine same_cut (a := a) (g := g) z ?_ fun hz => ?_) <;> [subst z; clear_value z] | clear_value z) | with_reducible first | assumption | apply setAx_same (by assumption) | apply wr_same (by assumption) | apply State.clearRange_same (by assumption) | apply State.bankPass_same (by assumption) | apply same_ite | split

def State.poisonAt_w (g : Piece) : Bool := State.event_w g || (g == .poison)

theorem State.poisonAt_same {g : Piece} {a : State} (hg : State.poisonAt_w g = false) {s : State} (h : Same g a s) (x2 : _) :
    Same g a (State.poisonAt s x2) := by
  simp only [State.poisonAt_w, Bool.or_eq_false_iff] at hg
  repeat (have := hg.2; replace hg := hg.1)
  unfold State.poisonAt
  repeat' first | intro _ | with_reducible first | assumption | apply State.event_same (by assumption) | fail_if_no_progress apply same_mk_poison (by assumption) | apply same_ite | split

def State.bankDouble_w (g : Piece) : Bool := State.poisonAt_w g || (g == .fld .BNK_ECC_ADDR_OFFSET) || (g == .fld .BNK_ECC_UNCORR_COUNT)

theorem State.bankDouble_same {g : Piece} {a : State} (hg : State.bankDouble_w g = false) {s : State} (h : Same g a s) (x2 : _) :
    Same g a (State.bankDouble s x2) := by
  simp only [State.bankDouble_w, Bool.or_eq_false_iff] at hg
  repeat (have := hg.2; replace hg := hg.1)
  unfold State.bankDouble
  repeat' first | intro _ | ((fail_if_no_progress extract_lets +onlyGivenNames z); clear_value z) | with_reducible first | assumption | apply wr_same (by assumption) | apply bump_same (by assumption) | apply State.poisonAt_same (by assumption) | apply same_ite | split

def State.readBlock_w (g : Piece) : Bool := State.poisonAt_w g || (g == .mem) || (g == .devMem) || (g == .fld .MEM_CORR_COUNT) || (g == .fld .MEM_UNCORR_ADDR_OFFSET) || (g == .fld .MEM_UNCORR_COUNT)

theorem State.readBlock_same {g : Piece} {a : State} (hg : State.readBlock_w g = false) {s : State} (h : Same g a s) (x2 : _) (x3 : _) (x4 : _) :
    Same g a (State.readBlock s x2 x3 x4) := by
  simp only [State.readBlock_w, Bool.or_eq_false_iff] at hg
  repeat (have := hg.2; replace hg := hg.1)
  unfold State.readBlock
  repeat' first | intro _ | ((fail_if_no_progress extract_lets +onlyGivenNames z); clear_value z) | with_reducible first | assumption | apply store_same (by assumption) (by assumption) | apply bump_same (by assumption) | apply wr_same (by assumption) | apply State.poisonAt_same (by assumption) | fail_if_no_progress apply same_mk_mem (by assumption) (by assumption) | apply same_ite | split

def State.meets_w (g : Piece) : Bool := State.bankDouble_w g || State.readBlock_w g || (g == .fld .BNK_ECC_CORR_COUNT) || (g == .fld .BNK_COLLIDE_COUNT) || (g == .fld .MEM_LECC_COUNT)

theorem State.meets_same {g : Piece} {a : State} (hg : State.meets_w g = false) {s : State} (h : Same g a s) (x2 : _) (x3 : _) :
    Same g a (State.meets s x2 x3) := by
  simp only [State.meets_w, Bool.or_eq_false_iff] at hg
  repeat (have := hg.2; replace hg := hg.1)
  unfold State.meets
  repeat' first | intro _ | ((fail_if_no_progress extract_lets +onlyGivenNames z); first | (refine same_cut (a := a) (g := g) z ?_ fun hz => ?_) <;> [subst z; clear_value z] | clear_value z) | with_reducible first | assumption | apply State.each_same | apply bump_same (by assumption) | apply State.bankDouble_same (by assumption) | apply State.readBlock_same (by assumption) | apply same_ite | split

def State.reads_w (g : Piece) : Bool := State.meets_w g || State.aer_w g

theorem State.reads_same {g : Piece} {a : State} (hg : State.reads_w g = false) {s : State} (h : Same g a s) (x2 : _) (x3 : _) :
    Same g a (State.reads s x2 x3).2 := by
  simp only [State.reads_w, Bool.or_eq_false_iff] at hg
  repeat (have := hg.2; replace hg := hg.1)
  unfold State.reads
  repeat' first | intro _ | ((fail_if_no_progress extract_lets +onlyGivenNames z); (refine same_cut (a := a) (g := g) z ?_ fun hz => ?_) <;> [subst z; clear_value z]) | with_reducible first | assumption | apply State.meets_same (by assumption) | apply State.aer_same (by assumption) | apply same2_ite | apply same_ite | split

def State.bankZeroStart_w (g : Piece) : Bool := (g == .aux .bankZeroEnd) || (g == .fld .BNK_OWNER_ZEROING)

theorem State.bankZeroStart_same {g : Piece} {a : State} (hg : State.bankZeroStart_w g = false) {s : State} (h : Same g a s) (x2 : _) (x3 : _) :
    Same g a (State.bankZeroStart s x2 x3) := by
  simp only [State.bankZeroStart_w, Bool.or_eq_false_iff] at hg
  repeat (have := hg.2; replace hg := hg.1)
  unfold State.bankZeroStart
  repeat' first | intro _ | with_reducible first | assumption | apply setAx_same (by assumption) | apply wr_same (by assumption)

def State.bankMove_w (g : Piece) : Bool := State.bankZeroStart_w g || State.bankPass_w g || (g == .aux .bankTarget) || (g == .fld .BNK_OWNER_PEND)

theorem State.bankMove_same {g : Piece} {a : State} (hg : State.bankMove_w g = false) {s : State} (h : Same g a s) (x2 : _) (x3 : _) (x4 : _) (x5 : _) :
    Same g a (State.bankMove s x2 x3 x4 x5) := by
  simp only [State.bankMove_w, Bool.or_eq_false_iff] at hg
  repeat (have := hg.2; replace hg := hg.1)
  unfold State.bankMove
  repeat' first | intro _ | ((fail_if_no_progress extract_lets +onlyGivenNames z); (refine same_cut (a := a) (g := g) z ?_ fun hz => ?_) <;> [subst z; clear_value z]) | with_reducible first | assumption | apply setAx_same (by assumption) | apply wr_same (by assumption) | apply State.bankZeroStart_same (by assumption) | apply State.bankPass_same (by assumption) | apply same_ite | split

def State.banksMove_w (g : Piece) : Bool := State.bankMove_w g

theorem State.banksMove_same {g : Piece} {a : State} (hg : State.banksMove_w g = false) {s : State} (h : Same g a s) (x2 : _) (x3 : _) (x4 : _) (x5 : _) (x6 : _) :
    Same g a (State.banksMove s x2 x3 x4 x5 x6) := by
  simp only [State.banksMove_w] at hg
  unfold State.banksMove
  repeat' first | intro _ | with_reducible first | assumption | apply State.each_same | apply State.bankMove_same (by assumption) | apply same_ite | split

def State.bankHandover_w (g : Piece) : Bool := State.bankZeroStart_w g || State.bankPass_w g

theorem State.bankHandover_same {g : Piece} {a : State} (hg : State.bankHandover_w g = false) {s : State} (h : Same g a s) (x2 : _) (x3 : _) :
    Same g a (State.bankHandover s x2 x3) := by
  simp only [State.bankHandover_w, Bool.or_eq_false_iff] at hg
  repeat (have := hg.2; replace hg := hg.1)
  unfold State.bankHandover
  repeat' first | intro _ | ((fail_if_no_progress extract_lets +onlyGivenNames z); clear_value z) | with_reducible first | assumption | apply State.bankZeroStart_same (by assumption) | apply State.bankPass_same (by assumption) | apply same_ite | split

def State.quotaRecheck_w (g : Piece) : Bool := State.tenancy_w g || (g == .fld .FNQ_OVER_KIND)

theorem State.quotaRecheck_same {g : Piece} {a : State} (hg : State.quotaRecheck_w g = false) {s : State} (h : Same g a s) (x2 : _) :
    Same g a (State.quotaRecheck s x2) := by
  simp only [State.quotaRecheck_w, Bool.or_eq_false_iff] at hg
  repeat (have := hg.2; replace hg := hg.1)
  unfold State.quotaRecheck
  repeat' first | intro _ | with_reducible first | assumption | apply State.each_same | apply State.tenancy_same (by assumption) | apply wr_same (by assumption) | apply same_ite | split

def State.bankRequest_w (g : Piece) : Bool := (g == .aux .bankTarget) || (g == .fld .BNK_OWNER_PEND)

theorem State.bankRequest_same {g : Piece} {a : State} (hg : State.bankRequest_w g = false) {s : State} (h : Same g a s) (x2 : _) (x3 : _) (x4 : _) (x5 : _) :
    Same g a (State.bankRequest s x2 x3 x4 x5) := by
  simp only [State.bankRequest_w, Bool.or_eq_false_iff] at hg
  repeat (have := hg.2; replace hg := hg.1)
  unfold State.bankRequest
  repeat' first | intro _ | with_reducible first | assumption | apply setAx_same (by assumption) | apply wr_same (by assumption) | apply same_ite | split

def State.dropCopiesOn_w (g : Piece) : Bool := (g == .progs)

theorem State.dropCopiesOn_same {g : Piece} {a : State} (hg : State.dropCopiesOn_w g = false) {s : State} (h : Same g a s) (x2 : _) :
    Same g a (State.dropCopiesOn s x2) := by
  simp only [State.dropCopiesOn_w] at hg
  unfold State.dropCopiesOn
  repeat' first | intro _ | with_reducible first | assumption | fail_if_no_progress apply same_mk_progs (by assumption) | split

end Sys2Proof.Machine
end

