-- ==== Sys2Proof/Laws/SameJobs.lean ====
section
/-!
SUPPORT. Laws/SameJobs.lean: what the operations of Machine/Jobs.lean may change, and that they leave the rest alone.
-/

set_option linter.unusedTactic false
set_option linter.unusedSimpArgs false
set_option linter.unusedVariables false
set_option linter.tactic.unusedName false
set_option linter.unreachableTactic false

namespace Sys2Proof.Machine

def State.updJob_w (g : Piece) : Bool := (g == .jobs)

theorem State.updJob_same {g : Piece} {a : State} (hg : State.updJob_w g = false) {s : State} (h : Same g a s) (x2 : _) (x3 : _) :
    Same g a (State.updJob s x2 x3) := by
  simp only [State.updJob_w] at hg
  unfold State.updJob
  repeat' first | intro _ | with_reducible first | assumption | fail_if_no_progress apply same_mk_jobs (by assumption) | apply same_ite | split

def State.dropStaging_w (g : Piece) : Bool := State.updJob_w g

theorem State.dropStaging_same {g : Piece} {a : State} (hg : State.dropStaging_w g = false) {s : State} (h : Same g a s) (x2 : _) :
    Same g a (State.dropStaging s x2) := by
  simp only [State.dropStaging_w] at hg
  unfold State.dropStaging
  repeat' first | intro _ | with_reducible first | assumption | apply State.updJob_same (by assumption)

def State.takeStaging_w (g : Piece) : Bool := State.updJob_w g

theorem State.takeStaging_same {g : Piece} {a : State} (hg : State.takeStaging_w g = false) {s : State} (h : Same g a s) (x2 : _) (x3 : _) :
    SameO g a (State.takeStaging s x2 x3) := by
  simp only [State.takeStaging_w] at hg
  induction x3 generalizing s <;> [skip; rename_i ih]
  all_goals unfold State.takeStaging
  repeat' first | intro _ | with_reducible first | assumption | apply sameO_none | apply sameO_some | apply State.updJob_same (by assumption) | apply ih | split

def State.freeScratch_w (g : Piece) : Bool := State.banksMove_w g

theorem State.freeScratch_same {g : Piece} {a : State} (hg : State.freeScratch_w g = false) {s : State} (h : Same g a s) (x2 : _) :
    Same g a (State.freeScratch s x2) := by
  simp only [State.freeScratch_w] at hg
  unfold State.freeScratch
  repeat' first | intro _ | with_reducible first | assumption | apply State.each_same | apply State.banksMove_same (by assumption)

def State.freeSeqs_w (g : Piece) : Bool := (g == .fld .SEQ_TASK_STATE)

theorem State.freeSeqs_same {g : Piece} {a : State} (hg : State.freeSeqs_w g = false) {s : State} (h : Same g a s) (x2 : _) :
    Same g a (State.freeSeqs s x2) := by
  simp only [State.freeSeqs_w] at hg
  unfold State.freeSeqs
  repeat' first | intro _ | with_reducible first | assumption | apply State.each_same | apply wr_same (by assumption)

def State.voidOps_w (g : Piece) : Bool := (g == .ops)

theorem State.voidOps_same {g : Piece} {a : State} (hg : State.voidOps_w g = false) {s : State} (h : Same g a s) (x2 : _) :
    Same g a (State.voidOps s x2) := by
  simp only [State.voidOps_w] at hg
  unfold State.voidOps
  repeat' first | intro _ | with_reducible first | assumption | fail_if_no_progress apply same_mk_ops (by assumption) | apply same_ite | split

def State.voidRequests_w (g : Piece) : Bool := (g == .reqs) || (g == .tix)

theorem State.voidRequests_same {g : Piece} {a : State} (hg : State.voidRequests_w g = false) {s : State} (h : Same g a s) (x2 : _) :
    Same g a (State.voidRequests s x2) := by
  simp only [State.voidRequests_w, Bool.or_eq_false_iff] at hg
  repeat (have := hg.2; replace hg := hg.1)
  unfold State.voidRequests
  repeat' first | intro _ | ((fail_if_no_progress extract_lets +onlyGivenNames z); clear_value z) | with_reducible first | assumption | fail_if_no_progress apply same_mk_reqs_tix (by assumption) (by assumption) | apply same_ite | split

def State.releaseJob_w (g : Piece) : Bool := State.dropStaging_w g || State.freeScratch_w g || State.freeSeqs_w g || State.voidOps_w g || State.voidRequests_w g

theorem State.releaseJob_same {g : Piece} {a : State} (hg : State.releaseJob_w g = false) {s : State} (h : Same g a s) (x2 : _) :
    Same g a (State.releaseJob s x2) := by
  simp only [State.releaseJob_w, Bool.or_eq_false_iff] at hg
  repeat (have := hg.2; replace hg := hg.1)
  unfold State.releaseJob
  repeat' first | intro _ | with_reducible first | assumption | apply State.dropStaging_same (by assumption) | apply State.freeScratch_same (by assumption) | apply State.freeSeqs_same (by assumption) | apply State.voidOps_same (by assumption) | apply State.voidRequests_same (by assumption)

def State.endJobSilently_w (g : Piece) : Bool := State.releaseJob_w g || State.quotaRecheck_w g || State.setQp_w g || (g == .jobs)

theorem State.endJobSilently_same {g : Piece} {a : State} (hg : State.endJobSilently_w g = false) {s : State} (h : Same g a s) (x2 : _) :
    Same g a (State.endJobSilently s x2) := by
  simp only [State.endJobSilently_w, Bool.or_eq_false_iff] at hg
  repeat (have := hg.2; replace hg := hg.1)
  unfold State.endJobSilently
  repeat' first | intro _ | ((fail_if_no_progress extract_lets +onlyGivenNames z); (refine same_cut (a := a) (g := g) z ?_ fun hz => ?_) <;> [subst z; clear_value z]) | with_reducible first | assumption | apply State.releaseJob_same (by assumption) | apply State.quotaRecheck_same (by assumption) | apply State.setQp_same (by assumption) | fail_if_no_progress apply same_mk_jobs (by assumption) | split

def State.backToQueue_w (g : Piece) : Bool := State.quotaRecheck_w g || State.updJob_w g || State.releaseJob_w g

theorem State.backToQueue_same {g : Piece} {a : State} (hg : State.backToQueue_w g = false) {s : State} (h : Same g a s) (x2 : _) :
    Same g a (State.backToQueue s x2) := by
  simp only [State.backToQueue_w, Bool.or_eq_false_iff] at hg
  repeat (have := hg.2; replace hg := hg.1)
  unfold State.backToQueue
  repeat' first | intro _ | with_reducible first | assumption | apply State.quotaRecheck_same (by assumption) | apply State.updJob_same (by assumption) | apply State.releaseJob_same (by assumption)

def State.restartJob_w (g : Piece) : Bool := State.updJob_w g || State.backToQueue_w g || (g == .fld .FLT_RESTARTS_COUNT)

theorem State.restartJob_same {g : Piece} {a : State} (hg : State.restartJob_w g = false) {s : State} (h : Same g a s) (x2 : _) :
    Same g a (State.restartJob s x2) := by
  simp only [State.restartJob_w, Bool.or_eq_false_iff] at hg
  repeat (have := hg.2; replace hg := hg.1)
  unfold State.restartJob
  repeat' first | intro _ | with_reducible first | assumption | apply bump_same (by assumption) | apply State.updJob_same (by assumption) | apply State.backToQueue_same (by assumption) | split

def State.endJob_w (g : Piece) : Bool := State.releaseJob_w g || State.quotaRecheck_w g || State.complete_w g || (g == .jobs)

theorem State.endJob_same {g : Piece} {a : State} (hg : State.endJob_w g = false) {s : State} (h : Same g a s) (x2 : _) (x3 : _) :
    Same g a (State.endJob s x2 x3) := by
  simp only [State.endJob_w, Bool.or_eq_false_iff] at hg
  repeat (have := hg.2; replace hg := hg.1)
  unfold State.endJob
  repeat' first | intro _ | ((fail_if_no_progress extract_lets +onlyGivenNames z); (refine same_cut (a := a) (g := g) z ?_ fun hz => ?_) <;> [subst z; clear_value z]) | with_reducible first | assumption | apply State.releaseJob_same (by assumption) | apply State.quotaRecheck_same (by assumption) | apply State.complete_same (by assumption) | fail_if_no_progress apply same_mk_jobs (by assumption) | apply same_ite | split

def State.faultJob_w (g : Piece) : Bool := State.updJob_w g || State.restartJob_w g || State.endJob_w g || (g == .fld .FLT_EXHAUSTED_COUNT)

theorem State.faultJob_same {g : Piece} {a : State} (hg : State.faultJob_w g = false) {s : State} (h : Same g a s) (x2 : _) (x3 : _) :
    Same g a (State.faultJob s x2 x3) := by
  simp only [State.faultJob_w, Bool.or_eq_false_iff] at hg
  repeat (have := hg.2; replace hg := hg.1)
  unfold State.faultJob
  repeat' first | intro _ | ((fail_if_no_progress extract_lets +onlyGivenNames z); first | (refine same_cut (a := a) (g := g) z ?_ fun hz => ?_) <;> [subst z; clear_value z] | clear_value z) | with_reducible first | assumption | apply State.updJob_same (by assumption) | apply State.restartJob_same (by assumption) | apply State.endJob_same (by assumption) | apply bump_same (by assumption) | apply same_ite | split

def State.faultJobs_w (g : Piece) : Bool := State.faultJob_w g

theorem State.faultJobs_same {g : Piece} {a : State} (hg : State.faultJobs_w g = false) {s : State} (h : Same g a s) (x2 : _) (x3 : _) :
    Same g a (State.faultJobs s x2 x3) := by
  simp only [State.faultJobs_w] at hg
  unfold State.faultJobs
  repeat' first | intro _ | with_reducible first | assumption | apply State.each_same | apply State.faultJob_same (by assumption)

def State.addJobFlag_w (g : Piece) : Bool := State.updJob_w g

theorem State.addJobFlag_same {g : Piece} {a : State} (hg : State.addJobFlag_w g = false) {s : State} (h : Same g a s) (x2 : _) (x3 : _) :
    Same g a (State.addJobFlag s x2 x3) := by
  simp only [State.addJobFlag_w] at hg
  unfold State.addJobFlag
  repeat' first | intro _ | with_reducible first | assumption | apply State.updJob_same (by assumption)

def State.commitStaged_w (g : Piece) : Bool := (g == .mem) || (g == .devMem) || (g == .poison)

theorem State.commitStaged_same {g : Piece} {a : State} (hg : State.commitStaged_w g = false) {s : State} (h : Same g a s) (x2 : _) :
    Same g a (State.commitStaged s x2) := by
  simp only [State.commitStaged_w, Bool.or_eq_false_iff] at hg
  repeat (have := hg.2; replace hg := hg.1)
  unfold State.commitStaged
  repeat' first | intro _ | with_reducible first | assumption | fail_if_no_progress apply same_mk_mem_poison (by assumption) (by assumption) (by assumption) | split

def State.showTask_w (g : Piece) : Bool := (g == .fld .SEQ_PC_PC) || (g == .fld .SEQ_JOB_JOB) || (g == .fld .SEQ_TASK_TASK) || (g == .fld .SEQ_TASK_CLASS) || (g == .fld .SEQ_TASK_FUNC) || (g == .fld .SEQ_TASK_STATE)

theorem State.showTask_same {g : Piece} {a : State} (hg : State.showTask_w g = false) {s : State} (h : Same g a s) (x2 : _) (x3 : _) (x4 : _) :
    Same g a (State.showTask s x2 x3 x4) := by
  simp only [State.showTask_w, Bool.or_eq_false_iff] at hg
  repeat (have := hg.2; replace hg := hg.1)
  unfold State.showTask
  repeat' first | intro _ | with_reducible first | assumption | apply wr_same (by assumption)

def State.startJob_w (g : Piece) : Bool := State.updJob_w g || State.banksMove_w g || State.showTask_w g

theorem State.startJob_same {g : Piece} {a : State} (hg : State.startJob_w g = false) {s : State} (h : Same g a s) (x2 : _) (x3 : _) (x4 : _) (x5 : _) :
    Same g a (State.startJob s x2 x3 x4 x5) := by
  simp only [State.startJob_w, Bool.or_eq_false_iff] at hg
  repeat (have := hg.2; replace hg := hg.1)
  unfold State.startJob
  repeat' first | intro _ | ((fail_if_no_progress extract_lets +onlyGivenNames z); first | (refine same_cut (a := a) (g := g) z ?_ fun hz => ?_) <;> [subst z; clear_value z] | clear_value z) | with_reducible first | assumption | apply State.updJob_same (by assumption) | apply State.each_same | apply State.banksMove_same (by assumption) | apply State.showTask_same (by assumption) | apply same_ite | split

def State.tryDispatch_w (g : Piece) : Bool := State.endJob_w g || State.startJob_w g

theorem State.tryDispatch_same {g : Piece} {a : State} (hg : State.tryDispatch_w g = false) {s : State} (h : Same g a s) (x2 : _) :
    SameOP g a (State.tryDispatch s x2) := by
  simp only [State.tryDispatch_w, Bool.or_eq_false_iff] at hg
  repeat (have := hg.2; replace hg := hg.1)
  unfold State.tryDispatch
  repeat' first | intro _ | ((fail_if_no_progress extract_lets +onlyGivenNames z); clear_value z) | with_reducible first | assumption | apply sameOP_none | apply sameOP_some | apply State.endJob_same (by assumption) | apply State.startJob_same (by assumption) | apply same_ite | split

def State.dispatchFrom_w (g : Piece) : Bool := State.tryDispatch_w g

theorem State.dispatchFrom_same {g : Piece} {a : State} (hg : State.dispatchFrom_w g = false) {s : State} (h : Same g a s) (x2 : _) :
    Same g a (State.dispatchFrom s x2) := by
  simp only [State.dispatchFrom_w] at hg
  induction x2 generalizing s <;> [skip; rename_i ih]
  all_goals unfold State.dispatchFrom
  repeat' first | intro _ | with_reducible first | assumption | apply State.tryDispatch_same (by assumption) | refine same_ofOP (by assumption) ?_ | apply ih | split

def State.loseJob_w (g : Piece) : Bool := State.endJob_w g || State.updJob_w g

theorem State.loseJob_same {g : Piece} {a : State} (hg : State.loseJob_w g = false) {s : State} (h : Same g a s) (x2 : _) :
    Same g a (State.loseJob s x2) := by
  simp only [State.loseJob_w, Bool.or_eq_false_iff] at hg
  repeat (have := hg.2; replace hg := hg.1)
  unfold State.loseJob
  repeat' first | intro _ | with_reducible first | assumption | apply State.endJob_same (by assumption) | apply State.updJob_same (by assumption) | apply same_ite | split

def State.trap_w (g : Piece) : Bool := State.faultJob_w g || (g == .fld .SEQ_TRAP_PC) || (g == .fld .SEQ_TRAP_CODE) || (g == .fld .SEQ_TRAP_CAUSE)

theorem State.trap_same {g : Piece} {a : State} (hg : State.trap_w g = false) {s : State} (h : Same g a s) (x2 : _) (x3 : _) (x4 : _) (x5 : _) :
    Same g a (State.trap s x2 x3 x4 x5) := by
  simp only [State.trap_w, Bool.or_eq_false_iff] at hg
  repeat (have := hg.2; replace hg := hg.1)
  unfold State.trap
  repeat' first | intro _ | with_reducible first | assumption | apply State.faultJob_same (by assumption) | apply wr_same (by assumption) | split

def State.jobStore_w (g : Piece) : Bool := State.takeStaging_w g || State.updJob_w g || State.putBytes_w g

theorem State.jobStore_same {g : Piece} {a : State} (hg : State.jobStore_w g = false) {s : State} (h : Same g a s) (x2 : _) (x3 : _) (x4 : _) (x5 : _) :
    Same g a (State.jobStore s x2 x3 x4 x5).2 := by
  simp only [State.jobStore_w, Bool.or_eq_false_iff] at hg
  repeat (have := hg.2; replace hg := hg.1)
  unfold State.jobStore
  repeat' first | intro _ | ((fail_if_no_progress extract_lets +onlyGivenNames z); clear_value z) | with_reducible first | assumption | apply State.takeStaging_same (by assumption) | apply State.updJob_same (by assumption) | apply State.putBytes_same (by assumption) | apply foldl_same | apply same2_ite | apply same_ite | refine same_ofO (by assumption) ?_ | split

def State.jobStore'_w (g : Piece) : Bool := State.jobStore_w g

theorem State.jobStore'_same {g : Piece} {a : State} (hg : State.jobStore'_w g = false) {s : State} (h : Same g a s) (x2 : _) (x3 : _) (x4 : _) (x5 : _) :
    Same g a (State.jobStore' s x2 x3 x4 x5) := by
  simp only [State.jobStore'_w] at hg
  unfold State.jobStore'
  repeat' first | intro _ | with_reducible first | assumption | apply State.jobStore_same (by assumption) | refine same_of2 (by assumption) ?_

def State.commitJob_w (g : Piece) : Bool := State.endJob_w g || State.commitStaged_w g

theorem State.commitJob_same {g : Piece} {a : State} (hg : State.commitJob_w g = false) {s : State} (h : Same g a s) (x2 : _) :
    Same g a (State.commitJob s x2) := by
  simp only [State.commitJob_w, Bool.or_eq_false_iff] at hg
  repeat (have := hg.2; replace hg := hg.1)
  unfold State.commitJob
  repeat' first | intro _ | with_reducible first | assumption | apply State.endJob_same (by assumption) | apply State.commitStaged_same (by assumption)

def State.updTask_w (g : Piece) : Bool := State.updJob_w g

theorem State.updTask_same {g : Piece} {a : State} (hg : State.updTask_w g = false) {s : State} (h : Same g a s) (x2 : _) (x3 : _) (x4 : _) :
    Same g a (State.updTask s x2 x3 x4) := by
  simp only [State.updTask_w] at hg
  unfold State.updTask
  repeat' first | intro _ | with_reducible first | assumption | apply State.updJob_same (by assumption)

def State.jobLate_w (g : Piece) : Bool := State.updJob_w g

theorem State.jobLate_same {g : Piece} {a : State} (hg : State.jobLate_w g = false) {s : State} (h : Same g a s) (x2 : _) (x3 : _) :
    Same g a (State.jobLate s x2 x3) := by
  simp only [State.jobLate_w] at hg
  unfold State.jobLate
  repeat' first | intro _ | with_reducible first | assumption | apply State.updJob_same (by assumption)

end Sys2Proof.Machine
end

