-- ==== Sys2Proof/Laws/SameTickets.lean ====
section
/-!
SUPPORT. Laws/SameTickets.lean: what the operations of Machine/Tickets.lean may change, and that they leave the rest alone.
-/

set_option linter.unusedTactic false
set_option linter.unusedSimpArgs false
set_option linter.unusedVariables false
set_option linter.tactic.unusedName false
set_option linter.unreachableTactic false

namespace Sys2Proof.Machine

def State.setWait_w (g : Piece) : Bool := State.updTask_w g || (g == .fld .SEQ_TASK_STATE)

theorem State.setWait_same {g : Piece} {a : State} (hg : State.setWait_w g = false) {s : State} (h : Same g a s) (x2 : _) (x3 : _) (x4 : _) :
    Same g a (State.setWait s x2 x3 x4) := by
  simp only [State.setWait_w, Bool.or_eq_false_iff] at hg
  repeat (have := hg.2; replace hg := hg.1)
  unfold State.setWait
  repeat' first | intro _ | with_reducible first | assumption | apply wr_same (by assumption) | apply State.updTask_same (by assumption)

def State.ticketDone_w (g : Piece) : Bool := State.updTask_w g || State.setWait_w g

theorem State.ticketDone_same {g : Piece} {a : State} (hg : State.ticketDone_w g = false) {s : State} (h : Same g a s) (x2 : _) (x3 : _) (x4 : _) (x5 : _) :
    Same g a (State.ticketDone s x2 x3 x4 x5) := by
  simp only [State.ticketDone_w, Bool.or_eq_false_iff] at hg
  repeat (have := hg.2; replace hg := hg.1)
  unfold State.ticketDone
  repeat' first | intro _ | ((fail_if_no_progress extract_lets +onlyGivenNames z); first | (refine same_cut (a := a) (g := g) z ?_ fun hz => ?_) <;> [subst z; clear_value z] | clear_value z) | with_reducible first | assumption | apply State.updTask_same (by assumption) | apply State.setWait_same (by assumption) | apply same_ite | split

def State.opDone_w (g : Piece) : Bool := State.ticketDone_w g || (g == .ops)

theorem State.opDone_same {g : Piece} {a : State} (hg : State.opDone_w g = false) {s : State} (h : Same g a s) (x2 : _) (x3 : _) :
    Same g a (State.opDone s x2 x3) := by
  simp only [State.opDone_w, Bool.or_eq_false_iff] at hg
  repeat (have := hg.2; replace hg := hg.1)
  unfold State.opDone
  repeat' first | intro _ | ((fail_if_no_progress extract_lets +onlyGivenNames z); (refine same_cut (a := a) (g := g) z ?_ fun hz => ?_) <;> [subst z; clear_value z]) | with_reducible first | assumption | apply State.ticketDone_same (by assumption) | fail_if_no_progress apply same_mk_ops (by assumption) | split

def State.nextIssue_w (g : Piece) : Bool := (g == .aux .opCount)

theorem State.nextIssue_same {g : Piece} {a : State} (hg : State.nextIssue_w g = false) {s : State} (h : Same g a s) :
    Same g a (State.nextIssue s).2 := by
  simp only [State.nextIssue_w] at hg
  unfold State.nextIssue
  repeat' first | intro _ | with_reducible first | assumption | apply setAx_same (by assumption)

end Sys2Proof.Machine
end

