-- ==== Sys2Proof/Laws/SameHostIf.lean ====
section
/-!
SUPPORT. Laws/SameHostIf.lean: what the operations of Machine/HostIf.lean may change, and that they leave the rest alone.
-/

set_option linter.unusedTactic false
set_option linter.unusedSimpArgs false
set_option linter.unusedVariables false
set_option linter.tactic.unusedName false
set_option linter.unreachableTactic false

namespace Sys2Proof.Machine

def State.fnRefused_w (g : Piece) : Bool := (g == .fld .FN_STAT_REFUSED)

theorem State.fnRefused_same {g : Piece} {a : State} (hg : State.fnRefused_w g = false) {s : State} (h : Same g a s) (x2 : _) :
    Same g a (State.fnRefused s x2) := by
  simp only [State.fnRefused_w] at hg
  unfold State.fnRefused
  repeat' first | intro _ | with_reducible first | assumption | apply wr_same (by assumption)

def State.moderationDue_w (g : Piece) : Bool := State.sendMsix_w g

theorem State.moderationDue_same {g : Piece} {a : State} (hg : State.moderationDue_w g = false) {s : State} (h : Same g a s) (x2 : _) (x3 : _) :
    Same g a (State.moderationDue s x2 x3) := by
  simp only [State.moderationDue_w] at hg
  unfold State.moderationDue
  repeat' first | intro _ | with_reducible first | assumption | apply State.sendMsix_same (by assumption) | apply same_ite | split

def State.unloadEffect_w (g : Piece) : Bool := State.quotaRecheck_w g || (g == .progs)

theorem State.unloadEffect_same {g : Piece} {a : State} (hg : State.unloadEffect_w g = false) {s : State} (h : Same g a s) (x2 : _) :
    Same g a (State.unloadEffect s x2) := by
  simp only [State.unloadEffect_w, Bool.or_eq_false_iff] at hg
  repeat (have := hg.2; replace hg := hg.1)
  unfold State.unloadEffect
  repeat' first | intro _ | ((fail_if_no_progress extract_lets +onlyGivenNames z); (refine same_cut (a := a) (g := g) z ?_ fun hz => ?_) <;> [subst z; clear_value z]) | with_reducible first | assumption | apply State.quotaRecheck_same (by assumption) | fail_if_no_progress apply same_mk_progs (by assumption) | apply same_ite | split

def execProgramUnloadEffect_w (g : Piece) : Bool := State.unloadEffect_w g

theorem execProgramUnloadEffect_same {g : Piece} {a : State} (hg : execProgramUnloadEffect_w g = false) {s : State} (h : Same g a s) (x1 : _) :
    SameR g a (execProgramUnloadEffect x1 s) := by
  simp only [execProgramUnloadEffect_w] at hg
  unfold execProgramUnloadEffect
  repeat' first | intro _ | with_reducible first | assumption | apply sameR_next | apply State.unloadEffect_same (by assumption)

def State.qpError_w (g : Piece) : Bool := State.tenancy_w g || (g == .fld .QP_STAT_ERROR) || (g == .fld .QP_STAT_STATE)

theorem State.qpError_same {g : Piece} {a : State} (hg : State.qpError_w g = false) {s : State} (h : Same g a s) (x2 : _) (x3 : _) (x4 : _) :
    Same g a (State.qpError s x2 x3 x4) := by
  simp only [State.qpError_w, Bool.or_eq_false_iff] at hg
  repeat (have := hg.2; replace hg := hg.1)
  unfold State.qpError
  repeat' first | intro _ | with_reducible first | assumption | apply State.tenancy_same (by assumption) | apply wr_same (by assumption)

def State.sqTail_w (g : Piece) : Bool := State.sendFlit_w g || State.qpError_w g || State.sendPointers_w g || (g == .fld .QP_SQTAIL_INDEX)

theorem State.sqTail_same {g : Piece} {a : State} (hg : State.sqTail_w g = false) {s : State} (h : Same g a s) (x2 : _) (x3 : _) (x4 : _) :
    Same g a (State.sqTail s x2 x3 x4) := by
  simp only [State.sqTail_w, Bool.or_eq_false_iff] at hg
  repeat (have := hg.2; replace hg := hg.1)
  unfold State.sqTail
  repeat' first | intro _ | ((fail_if_no_progress extract_lets +onlyGivenNames z); clear_value z) | with_reducible first | assumption | apply State.sendFlit_same (by assumption) | apply State.qpError_same (by assumption) | apply State.each_same | apply wr_same (by assumption) | apply State.sendPointers_same (by assumption) | apply same_ite | split

def State.cmdRunning_w (g : Piece) : Bool := (g == .cmds)

theorem State.cmdRunning_same {g : Piece} {a : State} (hg : State.cmdRunning_w g = false) {s : State} (h : Same g a s) (x2 : _) :
    Same g a (State.cmdRunning s x2) := by
  simp only [State.cmdRunning_w] at hg
  unfold State.cmdRunning
  repeat' first | intro _ | with_reducible first | assumption | fail_if_no_progress apply same_mk_cmds (by assumption) | apply same_ite | split

def State.bankHost_w (g : Piece) : Bool := State.completeCmd_w g || State.banksMove_w g

theorem State.bankHost_same {g : Piece} {a : State} (hg : State.bankHost_w g = false) {s : State} (h : Same g a s) (x2 : _) :
    Same g a (State.bankHost s x2) := by
  simp only [State.bankHost_w, Bool.or_eq_false_iff] at hg
  repeat (have := hg.2; replace hg := hg.1)
  unfold State.bankHost
  repeat' first | intro _ | ((fail_if_no_progress extract_lets +onlyGivenNames z); clear_value z) | with_reducible first | assumption | apply State.completeCmd_same (by assumption) | apply State.banksMove_same (by assumption) | apply same_ite | split

def State.unmask_w (g : Piece) : Bool := State.sendMsix_w g || (g == .fld .MSIX_CTRL_MASK) || (g == .fld .MSIX_PBA_PEND)

theorem State.unmask_same {g : Piece} {a : State} (hg : State.unmask_w g = false) {s : State} (h : Same g a s) (x2 : _) (x3 : _) :
    Same g a (State.unmask s x2 x3) := by
  simp only [State.unmask_w, Bool.or_eq_false_iff] at hg
  repeat (have := hg.2; replace hg := hg.1)
  unfold State.unmask
  repeat' first | intro _ | ((fail_if_no_progress extract_lets +onlyGivenNames z); (refine same_cut (a := a) (g := g) z ?_ fun hz => ?_) <;> [subst z; clear_value z]) | with_reducible first | assumption | apply wr_same (by assumption) | apply State.sendMsix_same (by assumption) | apply same_ite | split

def State.ringEnable_w (g : Piece) : Bool := State.fnRefused_w g || State.flushCoalesced_w g || State.setRing_w g || (g == .fld .EVR_CTRL_RESERVE) || (g == .fld .EVR_OVF_COUNT) || (g == .fld .EVR_HEAD_COUNT) || (g == .fld .EVR_TAIL_COUNT) || (g == .fld .EVR_CTRL_ENABLE)

theorem State.ringEnable_same {g : Piece} {a : State} (hg : State.ringEnable_w g = false) {s : State} (h : Same g a s) (x2 : _) (x3 : _) :
    Same g a (State.ringEnable s x2 x3) := by
  simp only [State.ringEnable_w, Bool.or_eq_false_iff] at hg
  repeat (have := hg.2; replace hg := hg.1)
  unfold State.ringEnable
  repeat' first | intro _ | with_reducible first | assumption | apply State.fnRefused_same (by assumption) | apply State.flushCoalesced_same (by assumption) | apply wr_same (by assumption) | apply State.setRing_same (by assumption) | apply same_ite | split

theorem State.runCmd_same {g : Piece} {a : State} {s : State} (h : Same g a s) (x2 : _) (x3 : _) (x4 : _) (hx4 : ∀ y0 y1, Same g a y0 → Same g a (x4 y0 y1)) :
    Same g a (State.runCmd s x2 x3 x4) := by
  unfold State.runCmd
  repeat' first | intro _ | with_reducible first | assumption | apply hx4 | split

def State.resetReg_w (g : Piece) : Bool := g.isFld

theorem State.resetReg_same {g : Piece} {a : State} (hg : State.resetReg_w g = false) {s : State} (h : Same g a s) (x2 : _) (x3 : _) (x4 : _) :
    Same g a (State.resetReg s x2 x3 x4) := by
  simp only [State.resetReg_w] at hg
  unfold State.resetReg
  repeat' first | intro _ | with_reducible first | assumption | apply State.each_same | apply wr_same | exact not_fld (by assumption) _ | split

def State.freeUnits_w (g : Piece) : Bool := State.banksMove_w g || (g == .allocs)

theorem State.freeUnits_same {g : Piece} {a : State} (hg : State.freeUnits_w g = false) {s : State} (h : Same g a s) (x2 : _) (x3 : _) (x4 : _) (x5 : _) (x6 : _) :
    Same g a (State.freeUnits s x2 x3 x4 x5 x6) := by
  simp only [State.freeUnits_w, Bool.or_eq_false_iff] at hg
  repeat (have := hg.2; replace hg := hg.1)
  unfold State.freeUnits
  repeat' first | intro _ | ((fail_if_no_progress extract_lets +onlyGivenNames z); (refine same_cut (a := a) (g := g) z ?_ fun hz => ?_) <;> [subst z; clear_value z]) | with_reducible first | assumption | apply State.banksMove_same (by assumption) | fail_if_no_progress apply same_mk_allocs (by assumption) | apply same_ite | split

def State.freeAlloc_w (g : Piece) : Bool := State.freeUnits_w g

theorem State.freeAlloc_same {g : Piece} {a : State} (hg : State.freeAlloc_w g = false) {s : State} (h : Same g a s) (x2 : _) (x3 : _) (x4 : _) :
    Same g a (State.freeAlloc s x2 x3 x4) := by
  simp only [State.freeAlloc_w] at hg
  unfold State.freeAlloc
  repeat' first | intro _ | with_reducible first | assumption | apply State.freeUnits_same (by assumption)

def State.resetFn_w (g : Piece) : Bool := State.endJobSilently_w g || State.setQp_w g || State.resetReg_w g || State.freeAlloc_w g || State.setRing_w g || State.event_w g || State.quotaRecheck_w g || (g == .cmds) || (g == .progs) || (g == .hold) || (g == .latch)

theorem State.resetFn_same {g : Piece} {a : State} (hg : State.resetFn_w g = false) {s : State} (h : Same g a s) (x2 : _) :
    Same g a (State.resetFn s x2) := by
  simp only [State.resetFn_w, Bool.or_eq_false_iff] at hg
  repeat (have := hg.2; replace hg := hg.1)
  unfold State.resetFn
  repeat' first | intro _ | ((fail_if_no_progress extract_lets +onlyGivenNames z); first | (refine same_cut (a := a) (g := g) z ?_ fun hz => ?_) <;> [subst z; clear_value z] | clear_value z) | with_reducible first | assumption | apply State.each_same | apply State.endJobSilently_same (by assumption) | apply State.setQp_same (by assumption) | apply State.resetReg_same (by assumption) | apply State.freeAlloc_same (by assumption) | apply State.setRing_same (by assumption) | apply State.event_same (by assumption) | apply State.quotaRecheck_same (by assumption) | fail_if_no_progress apply same_mk_cmds (by assumption) | fail_if_no_progress apply same_mk_hold_latch (by assumption) (by assumption) | fail_if_no_progress apply same_mk_progs (by assumption) | apply foldl_same | split

def State.evictCheck_w (g : Piece) : Bool := State.completeCmd_w g || State.tenancy_w g || (g == .aux .evictPairs) || (g == .aux .evictJobs)

theorem State.evictCheck_same {g : Piece} {a : State} (hg : State.evictCheck_w g = false) {s : State} (h : Same g a s) :
    Same g a (State.evictCheck s) := by
  simp only [State.evictCheck_w, Bool.or_eq_false_iff] at hg
  repeat (have := hg.2; replace hg := hg.1)
  unfold State.evictCheck
  repeat' first | intro _ | ((fail_if_no_progress extract_lets +onlyGivenNames z); first | (refine same_cut (a := a) (g := g) z ?_ fun hz => ?_) <;> [subst z; clear_value z] | clear_value z) | with_reducible first | assumption | apply State.each_same | apply setAx_same (by assumption) | apply State.completeCmd_same (by assumption) | apply State.tenancy_same (by assumption) | split

def State.functionReset_w (g : Piece) : Bool := State.resetFn_w g || State.evictCheck_w g

theorem State.functionReset_same {g : Piece} {a : State} (hg : State.functionReset_w g = false) {s : State} (h : Same g a s) (x2 : _) :
    Same g a (State.functionReset s x2) := by
  simp only [State.functionReset_w, Bool.or_eq_false_iff] at hg
  repeat (have := hg.2; replace hg := hg.1)
  unfold State.functionReset
  repeat' first | intro _ | with_reducible first | assumption | apply State.each_same | apply State.resetFn_same (by assumption) | apply State.evictCheck_same (by assumption) | apply same_ite | split

def execHotReset_w (g : Piece) : Bool := State.functionReset_w g

theorem execHotReset_same {g : Piece} {a : State} (hg : execHotReset_w g = false) {s : State} (h : Same g a s) :
    SameR g a (execHotReset s) := by
  simp only [execHotReset_w] at hg
  unfold execHotReset
  repeat' first | intro _ | with_reducible first | assumption | apply sameR_next | apply State.functionReset_same (by assumption)

def State.jobAbort_w (g : Piece) : Bool := State.completeCmd_w g || State.endJob_w g

theorem State.jobAbort_same {g : Piece} {a : State} (hg : State.jobAbort_w g = false) {s : State} (h : Same g a s) (x2 : _) :
    Same g a (State.jobAbort s x2) := by
  simp only [State.jobAbort_w, Bool.or_eq_false_iff] at hg
  repeat (have := hg.2; replace hg := hg.1)
  unfold State.jobAbort
  repeat' first | intro _ | with_reducible first | assumption | apply State.completeCmd_same (by assumption) | apply State.endJob_same (by assumption) | apply same_ite | split

def State.ringHead_w (g : Piece) : Bool := State.fnRefused_w g || State.flushCoalesced_w g || State.flushOverflow_w g || (g == .fld .EVR_HEAD_COUNT)

theorem State.ringHead_same {g : Piece} {a : State} (hg : State.ringHead_w g = false) {s : State} (h : Same g a s) (x2 : _) (x3 : _) :
    Same g a (State.ringHead s x2 x3) := by
  simp only [State.ringHead_w, Bool.or_eq_false_iff] at hg
  repeat (have := hg.2; replace hg := hg.1)
  unfold State.ringHead
  repeat' first | intro _ | with_reducible first | assumption | apply State.fnRefused_same (by assumption) | apply wr_same (by assumption) | apply State.flushCoalesced_same (by assumption) | apply State.flushOverflow_same (by assumption) | apply same_ite | split

def execEvrHeadWrite_w (g : Piece) : Bool := State.order_w g || State.ringHead_w g

theorem execEvrHeadWrite_same {g : Piece} {a : State} (hg : execEvrHeadWrite_w g = false) {s : State} (h : Same g a s) (x1 : _) (x2 : _) :
    SameR g a (execEvrHeadWrite x1 x2 s) := by
  simp only [execEvrHeadWrite_w, Bool.or_eq_false_iff] at hg
  repeat (have := hg.2; replace hg := hg.1)
  unfold execEvrHeadWrite
  repeat' first | intro _ | with_reducible first | assumption | apply sameR_next | apply State.order_same (by assumption) | apply State.ringHead_same (by assumption)

def State.resFree_w (g : Piece) : Bool := State.completeCmd_w g || State.quotaRecheck_w g || State.freeUnits_w g

theorem State.resFree_same {g : Piece} {a : State} (hg : State.resFree_w g = false) {s : State} (h : Same g a s) (x2 : _) :
    Same g a (State.resFree s x2) := by
  simp only [State.resFree_w, Bool.or_eq_false_iff] at hg
  repeat (have := hg.2; replace hg := hg.1)
  unfold State.resFree
  repeat' first | intro _ | ((fail_if_no_progress extract_lets +onlyGivenNames z); clear_value z) | with_reducible first | assumption | apply State.completeCmd_same (by assumption) | apply State.quotaRecheck_same (by assumption) | apply State.freeUnits_same (by assumption) | apply same_ite | split

def execResFree_w (g : Piece) : Bool := State.resFree_w g

theorem execResFree_same {g : Piece} {a : State} (hg : execResFree_w g = false) {s : State} (h : Same g a s) (x1 : _) :
    SameR g a (execResFree x1 s) := by
  simp only [execResFree_w] at hg
  unfold execResFree
  repeat' first | intro _ | with_reducible first | assumption | apply sameR_next | apply State.runCmd_same | apply State.resFree_same (by assumption)

def State.qpDrained_w (g : Piece) : Bool := State.quotaRecheck_w g || State.setQp_w g || (g == .fld .QP_CFG_WINDOW) || (g == .fld .QP_CFG_FUNC) || (g == .fld .QP_STAT_STATE)

theorem State.qpDrained_same {g : Piece} {a : State} (hg : State.qpDrained_w g = false) {s : State} (h : Same g a s) (x2 : _) :
    Same g a (State.qpDrained s x2) := by
  simp only [State.qpDrained_w, Bool.or_eq_false_iff] at hg
  repeat (have := hg.2; replace hg := hg.1)
  unfold State.qpDrained
  repeat' first | intro _ | with_reducible first | assumption | apply State.quotaRecheck_same (by assumption) | apply wr_same (by assumption) | apply State.setQp_same (by assumption) | apply same_ite | split

def State.grantSet_w (g : Piece) : Bool := State.tenancy_w g || State.sendQuotas_w g || (g == .jobs) || (g == .fld .FNQ_GRANT_SLOT)

theorem State.grantSet_same {g : Piece} {a : State} (hg : State.grantSet_w g = false) {s : State} (h : Same g a s) (x2 : _) (x3 : _) (x4 : _) :
    Same g a (State.grantSet s x2 x3 x4) := by
  simp only [State.grantSet_w, Bool.or_eq_false_iff] at hg
  repeat (have := hg.2; replace hg := hg.1)
  unfold State.grantSet
  repeat' first | intro _ | ((fail_if_no_progress extract_lets +onlyGivenNames z); first | (refine same_cut (a := a) (g := g) z ?_ fun hz => ?_) <;> [subst z; clear_value z] | clear_value z) | with_reducible first | assumption | apply State.tenancy_same (by assumption) | apply State.sendQuotas_same (by assumption) | apply wr_same (by assumption) | fail_if_no_progress apply same_mk_jobs (by assumption) | apply same_ite | split

def State.grantWrite_w (g : Piece) : Bool := State.fnRefused_w g || State.grantSet_w g

theorem State.grantWrite_same {g : Piece} {a : State} (hg : State.grantWrite_w g = false) {s : State} (h : Same g a s) (x2 : _) (x3 : _) (x4 : _) :
    Same g a (State.grantWrite s x2 x3 x4) := by
  simp only [State.grantWrite_w, Bool.or_eq_false_iff] at hg
  repeat (have := hg.2; replace hg := hg.1)
  unfold State.grantWrite
  repeat' first | intro _ | with_reducible first | assumption | apply State.fnRefused_same (by assumption) | apply State.grantSet_same (by assumption) | apply same_ite | split

def execFnqGrantWrite_w (g : Piece) : Bool := State.order_w g || State.grantWrite_w g

theorem execFnqGrantWrite_same {g : Piece} {a : State} (hg : execFnqGrantWrite_w g = false) {s : State} (h : Same g a s) (x1 : _) (x2 : _) (x3 : _) :
    SameR g a (execFnqGrantWrite x1 x2 x3 s) := by
  simp only [execFnqGrantWrite_w, Bool.or_eq_false_iff] at hg
  repeat (have := hg.2; replace hg := hg.1)
  unfold execFnqGrantWrite
  repeat' first | intro _ | with_reducible first | assumption | apply sameR_next | apply State.order_same (by assumption) | apply State.grantWrite_same (by assumption)

def State.qpEnable_w (g : Piece) : Bool := State.fnRefused_w g || State.setQp_w g || State.sendPointers_w g || (g == .fld .QP_STAT_CODE) || (g == .fld .QP_STAT_STATE) || (g == .fld .QP_STAT_ERROR) || (g == .fld .QP_STAT_SQHEAD) || (g == .fld .QP_CQHEAD_INDEX) || (g == .fld .QP_SQTAIL_INDEX) || (g == .fld .QP_CFG_CQLOG2) || (g == .fld .QP_CFG_SQLOG2) || (g == .fld .QP_CFG_WINDOW) || (g == .fld .QP_CFG_FUNC) || (g == .fld .QP_CFG_ENABLE)

theorem State.qpEnable_same {g : Piece} {a : State} (hg : State.qpEnable_w g = false) {s : State} (h : Same g a s) (x2 : _) (x3 : _) (x4 : _) (x5 : _) :
    Same g a (State.qpEnable s x2 x3 x4 x5) := by
  simp only [State.qpEnable_w, Bool.or_eq_false_iff] at hg
  repeat (have := hg.2; replace hg := hg.1)
  unfold State.qpEnable
  repeat' first | intro _ | ((fail_if_no_progress extract_lets +onlyGivenNames z); first | (refine same_cut (a := a) (g := g) z ?_ fun hz => ?_) <;> [subst z; clear_value z] | clear_value z) | with_reducible first | assumption | apply State.fnRefused_same (by assumption) | apply wr_same (by assumption) | apply State.setQp_same (by assumption) | apply State.sendPointers_same (by assumption) | apply same_ite | split

def State.trimAllocs_w (g : Piece) : Bool := State.freeAlloc_w g

theorem State.trimAllocs_same {g : Piece} {a : State} (hg : State.trimAllocs_w g = false) {s : State} (h : Same g a s) (x2 : _) (x3 : _) (x4 : _) (x5 : _) :
    Same g a (State.trimAllocs s x2 x3 x4 x5) := by
  simp only [State.trimAllocs_w] at hg
  induction x4 generalizing s x5 <;> [skip; rename_i ih]
  all_goals unfold State.trimAllocs
  repeat' first | intro _ | ((fail_if_no_progress extract_lets +onlyGivenNames z); clear_value z) | with_reducible first | assumption | apply State.freeAlloc_same (by assumption) | apply same_ite | apply ih | split

def execQpSqtailWrite_w (g : Piece) : Bool := State.sqTail_w g

theorem execQpSqtailWrite_same {g : Piece} {a : State} (hg : execQpSqtailWrite_w g = false) {s : State} (h : Same g a s) (x1 : _) (x2 : _) :
    SameR g a (execQpSqtailWrite x1 x2 s) := by
  simp only [execQpSqtailWrite_w] at hg
  unfold execQpSqtailWrite
  repeat' first | intro _ | ((fail_if_no_progress extract_lets +onlyGivenNames z); clear_value z) | with_reducible first | assumption | apply sameR_next | apply State.sqTail_same (by assumption)

def State.addAlloc_w (g : Piece) : Bool := (g == .allocs)

theorem State.addAlloc_same {g : Piece} {a : State} (hg : State.addAlloc_w g = false) {s : State} (h : Same g a s) (x2 : _) :
    Same g a (State.addAlloc s x2) := by
  simp only [State.addAlloc_w] at hg
  unfold State.addAlloc
  repeat' first | intro _ | with_reducible first | assumption | fail_if_no_progress apply same_mk_allocs (by assumption)

def State.quotaWrite_w (g : Piece) : Bool := State.fnRefused_w g || State.sendQuotas_w g || State.tenancy_w g || State.quotaRecheck_w g || (g == .fld .FNQ_OVER_KIND) || (g == .aux .powerOld) || (g == .aux .rtOld) || (g == .fld .FNQ_Q0_QP) || (g == .fld .FNQ_Q0_FEEDQ) || (g == .fld .FNQ_Q1_BANKS) || (g == .fld .FNQ_Q2_PAGES) || (g == .fld .FNQ_SHARE_POWER) || (g == .fld .FNQ_SHARE_RT)

theorem State.quotaWrite_same {g : Piece} {a : State} (hg : State.quotaWrite_w g = false) {s : State} (h : Same g a s) (x2 : _) (x3 : _) (x4 : _) :
    Same g a (State.quotaWrite s x2 x3 x4) := by
  simp only [State.quotaWrite_w, Bool.or_eq_false_iff] at hg
  repeat (have := hg.2; replace hg := hg.1)
  unfold State.quotaWrite
  repeat' first | intro _ | ((fail_if_no_progress extract_lets +onlyGivenNames z); first | (refine same_cut (a := a) (g := g) z ?_ fun hz => ?_) <;> [subst z; clear_value z] | subst z) | with_reducible first | assumption | apply State.fnRefused_same (by assumption) | apply State.sendQuotas_same (by assumption) | apply wr_same | apply State.tenancy_same (by assumption) | apply State.quotaRecheck_same (by assumption) | apply State.each_same | apply setAx_same | apply State.when_same | apply same_ite | (unfold convSubField; split) | (unfold spareColField; split) | (unfold quotaField; split) | (unfold gateField; split) | (unfold readyField; split) | split

def State.unpark_w (g : Piece) : Bool := (g == .jobs) || (g == .cmds)

theorem State.unpark_same {g : Piece} {a : State} (hg : State.unpark_w g = false) {s : State} (h : Same g a s) (x2 : _) :
    Same g a (State.unpark s x2) := by
  simp only [State.unpark_w, Bool.or_eq_false_iff] at hg
  repeat (have := hg.2; replace hg := hg.1)
  unfold State.unpark
  repeat' first | intro _ | ((fail_if_no_progress extract_lets +onlyGivenNames z); clear_value z) | with_reducible first | assumption | fail_if_no_progress apply same_mk_jobs_cmds (by assumption) (by assumption) | apply same_ite | split

def execParkedCommandEligible_w (g : Piece) : Bool := State.unpark_w g

theorem execParkedCommandEligible_same {g : Piece} {a : State} (hg : execParkedCommandEligible_w g = false) {s : State} (h : Same g a s) (x1 : _) :
    SameR g a (execParkedCommandEligible x1 s) := by
  simp only [execParkedCommandEligible_w] at hg
  unfold execParkedCommandEligible
  repeat' first | intro _ | with_reducible first | assumption | apply sameR_next | apply State.unpark_same (by assumption)

def State.jobSubmit_w (g : Piece) : Bool := State.completeCmd_w g || (g == .aux .submitCount) || (g == .jobs) || (g == .cmds)

theorem State.jobSubmit_same {g : Piece} {a : State} (hg : State.jobSubmit_w g = false) {s : State} (h : Same g a s) (x2 : _) :
    Same g a (State.jobSubmit s x2) := by
  simp only [State.jobSubmit_w, Bool.or_eq_false_iff] at hg
  repeat (have := hg.2; replace hg := hg.1)
  unfold State.jobSubmit
  repeat' first | intro _ | ((fail_if_no_progress extract_lets +onlyGivenNames z); first | (refine same_cut (a := a) (g := g) z ?_ fun hz => ?_) <;> [subst z; clear_value z] | clear_value z) | with_reducible first | assumption | apply State.completeCmd_same (by assumption) | apply setAx_same (by assumption) | fail_if_no_progress apply same_mk_jobs_cmds (by assumption) (by assumption) | apply same_ite | split

def State.programUnload_w (g : Piece) : Bool := State.completeCmd_w g || State.journals_w g || State.unloadEffect_w g || (g == .progs)

theorem State.programUnload_same {g : Piece} {a : State} (hg : State.programUnload_w g = false) {s : State} (h : Same g a s) (x2 : _) :
    Same g a (State.programUnload s x2) := by
  simp only [State.programUnload_w, Bool.or_eq_false_iff] at hg
  repeat (have := hg.2; replace hg := hg.1)
  unfold State.programUnload
  repeat' first | intro _ | ((fail_if_no_progress extract_lets +onlyGivenNames z); (refine same_cut (a := a) (g := g) z ?_ fun hz => ?_) <;> [subst z; clear_value z]) | with_reducible first | assumption | apply State.completeCmd_same (by assumption) | apply State.journals_same (by assumption) | apply State.unloadEffect_same (by assumption) | fail_if_no_progress apply same_mk_progs (by assumption) | apply same_ite | split

def execProgramUnload_w (g : Piece) : Bool := State.programUnload_w g

theorem execProgramUnload_same {g : Piece} {a : State} (hg : execProgramUnload_w g = false) {s : State} (h : Same g a s) (x1 : _) :
    SameR g a (execProgramUnload x1 s) := by
  simp only [execProgramUnload_w] at hg
  unfold execProgramUnload
  repeat' first | intro _ | with_reducible first | assumption | apply sameR_next | apply State.runCmd_same | apply State.programUnload_same (by assumption)

def State.cqHead_w (g : Piece) : Bool := State.sendFlit_w g || State.qpError_w g || State.sendPointers_w g || (g == .fld .QP_CQHEAD_INDEX)

theorem State.cqHead_same {g : Piece} {a : State} (hg : State.cqHead_w g = false) {s : State} (h : Same g a s) (x2 : _) (x3 : _) (x4 : _) :
    Same g a (State.cqHead s x2 x3 x4) := by
  simp only [State.cqHead_w, Bool.or_eq_false_iff] at hg
  repeat (have := hg.2; replace hg := hg.1)
  unfold State.cqHead
  repeat' first | intro _ | ((fail_if_no_progress extract_lets +onlyGivenNames z); clear_value z) | with_reducible first | assumption | apply State.sendFlit_same (by assumption) | apply State.qpError_same (by assumption) | apply State.sendPointers_same (by assumption) | apply wr_same (by assumption) | apply same_ite | split

def State.qpAbort_w (g : Piece) : Bool := State.completeCmd_w g || State.endJob_w g

theorem State.qpAbort_same {g : Piece} {a : State} (hg : State.qpAbort_w g = false) {s : State} (h : Same g a s) (x2 : _) (x3 : _) :
    Same g a (State.qpAbort s x2 x3) := by
  simp only [State.qpAbort_w, Bool.or_eq_false_iff] at hg
  repeat (have := hg.2; replace hg := hg.1)
  unfold State.qpAbort
  repeat' first | intro _ | ((fail_if_no_progress extract_lets +onlyGivenNames z); first | (refine same_cut (a := a) (g := g) z ?_ fun hz => ?_) <;> [subst z; clear_value z] | clear_value z) | with_reducible first | assumption | apply State.each_same | apply State.completeCmd_same (by assumption) | apply State.endJob_same (by assumption) | split

def State.qpDisable_w (g : Piece) : Bool := State.fnRefused_w g || State.qpAbort_w g || (g == .fld .QP_STAT_STATE) || (g == .fld .QP_CFG_ENABLE)

theorem State.qpDisable_same {g : Piece} {a : State} (hg : State.qpDisable_w g = false) {s : State} (h : Same g a s) (x2 : _) (x3 : _) (x4 : _) :
    Same g a (State.qpDisable s x2 x3 x4) := by
  simp only [State.qpDisable_w, Bool.or_eq_false_iff] at hg
  repeat (have := hg.2; replace hg := hg.1)
  unfold State.qpDisable
  repeat' first | intro _ | with_reducible first | assumption | apply State.fnRefused_same (by assumption) | apply State.qpAbort_same (by assumption) | apply wr_same (by assumption) | apply same_ite | split

def State.resAlloc_w (g : Piece) : Bool := State.completeCmd_w g || State.addAlloc_w g || State.banksMove_w g

theorem State.resAlloc_same {g : Piece} {a : State} (hg : State.resAlloc_w g = false) {s : State} (h : Same g a s) (x2 : _) :
    Same g a (State.resAlloc s x2) := by
  simp only [State.resAlloc_w, Bool.or_eq_false_iff] at hg
  repeat (have := hg.2; replace hg := hg.1)
  unfold State.resAlloc
  repeat' first | intro _ | ((fail_if_no_progress extract_lets +onlyGivenNames z); clear_value z) | with_reducible first | assumption | apply State.completeCmd_same (by assumption) | apply State.addAlloc_same (by assumption) | apply State.banksMove_same (by assumption) | apply same_ite | split

def execResAlloc_w (g : Piece) : Bool := State.resAlloc_w g

theorem execResAlloc_same {g : Piece} {a : State} (hg : execResAlloc_w g = false) {s : State} (h : Same g a s) (x1 : _) :
    SameR g a (execResAlloc x1 s) := by
  simp only [execResAlloc_w] at hg
  unfold execResAlloc
  repeat' first | intro _ | with_reducible first | assumption | apply sameR_next | apply State.runCmd_same | apply State.resAlloc_same (by assumption)

def State.acceptCmd_w (g : Piece) : Bool := State.completeCmd_w g || State.superseded_w g || (g == .cmds)

theorem State.acceptCmd_same {g : Piece} {a : State} (hg : State.acceptCmd_w g = false) {s : State} (h : Same g a s) (x2 : _) (x3 : _) :
    Same g a (State.acceptCmd s x2 x3) := by
  simp only [State.acceptCmd_w, Bool.or_eq_false_iff] at hg
  repeat (have := hg.2; replace hg := hg.1)
  unfold State.acceptCmd
  repeat' first | intro _ | ((fail_if_no_progress extract_lets +onlyGivenNames z); first | (refine same_cut (a := a) (g := g) z ?_ fun hz => ?_) <;> [subst z; clear_value z] | clear_value z) | with_reducible first | assumption | apply State.completeCmd_same (by assumption) | apply State.superseded_same (by assumption) | fail_if_no_progress apply same_mk_cmds (by assumption) | apply same_ite | split

def State.fetch_w (g : Piece) : Bool := State.qpError_w g || State.aer_w g || State.setQp_w g || State.acceptCmd_w g || State.sendPointers_w g || State.journals_w g || (g == .fld .QP_STAT_SQHEAD)

theorem State.fetch_same {g : Piece} {a : State} (hg : State.fetch_w g = false) {s : State} (h : Same g a s) (x2 : _) (x3 : _) (x4 : _) :
    Same g a (State.fetch s x2 x3 x4) := by
  simp only [State.fetch_w, Bool.or_eq_false_iff] at hg
  repeat (have := hg.2; replace hg := hg.1)
  unfold State.fetch
  repeat' first | intro _ | ((fail_if_no_progress extract_lets +onlyGivenNames z); first | (refine same_cut (a := a) (g := g) z ?_ fun hz => ?_) <;> [subst z; clear_value z] | clear_value z) | with_reducible first | assumption | apply State.qpError_same (by assumption) | apply State.aer_same (by assumption) | apply wr_same (by assumption) | apply State.setQp_same (by assumption) | apply State.acceptCmd_same (by assumption) | apply State.sendPointers_same (by assumption) | apply State.journals_same (by assumption) | apply same_ite | split

def execDescriptorFetch_w (g : Piece) : Bool := State.fetch_w g

theorem execDescriptorFetch_same {g : Piece} {a : State} (hg : execDescriptorFetch_w g = false) {s : State} (h : Same g a s) (x1 : _) (x2 : _) (x3 : _) :
    SameR g a (execDescriptorFetch x1 x2 x3 s) := by
  simp only [execDescriptorFetch_w] at hg
  unfold execDescriptorFetch
  repeat' first | intro _ | with_reducible first | assumption | apply sameR_next | apply State.fetch_same (by assumption)

def State.trimProgs_w (g : Piece) : Bool := (g == .progs)

theorem State.trimProgs_same {g : Piece} {a : State} (hg : State.trimProgs_w g = false) {s : State} (h : Same g a s) (x2 : _) (x3 : _) (x4 : _) :
    Same g a (State.trimProgs s x2 x3 x4) := by
  simp only [State.trimProgs_w] at hg
  induction x4 generalizing s <;> [skip; rename_i ih]
  all_goals unfold State.trimProgs
  repeat' first | intro _ | with_reducible first | assumption | fail_if_no_progress apply same_mk_progs (by assumption) | apply same_ite | apply ih | split

def State.bar2Denied_w (g : Piece) : Bool := (g == .fld .FN_STAT_BAR2_DENIED) || (g == .fld .BNK_DENIED_COUNT)

theorem State.bar2Denied_same {g : Piece} {a : State} (hg : State.bar2Denied_w g = false) {s : State} (h : Same g a s) (x2 : _) (x3 : _) (x4 : _) (x5 : _) :
    Same g a (State.bar2Denied s x2 x3 x4 x5) := by
  simp only [State.bar2Denied_w, Bool.or_eq_false_iff] at hg
  repeat (have := hg.2; replace hg := hg.1)
  unfold State.bar2Denied
  repeat' first | intro _ | ((fail_if_no_progress extract_lets +onlyGivenNames z); (refine same_cut (a := a) (g := g) z ?_ fun hz => ?_) <;> [subst z; clear_value z]) | with_reducible first | assumption | apply bump_same (by assumption) | apply same_ite | split

def State.bar2_w (g : Piece) : Bool := State.bar2Denied_w g || State.emit_w g || State.meets_w g || (g == .mem) || (g == .devMem) || (g == .poison)

theorem State.bar2_same {g : Piece} {a : State} (hg : State.bar2_w g = false) {s : State} (h : Same g a s) (x2 : _) (x3 : _) (x4 : _) (x5 : _) :
    Same g a (State.bar2 s x2 x3 x4 x5) := by
  simp only [State.bar2_w, Bool.or_eq_false_iff] at hg
  repeat (have := hg.2; replace hg := hg.1)
  unfold State.bar2
  repeat' first | intro _ | ((fail_if_no_progress extract_lets +onlyGivenNames z); first | (refine same_cut (a := a) (g := g) z ?_ fun hz => ?_) <;> [subst z; clear_value z] | clear_value z) | with_reducible first | assumption | apply State.bar2Denied_same (by assumption) | apply State.emit_same (by assumption) | apply store_same (by assumption) (by assumption) | apply State.meets_same (by assumption) | fail_if_no_progress apply same_mk_mem (by assumption) (by assumption) | fail_if_no_progress apply same_mk_poison (by assumption) | apply same_ite | split

def execJobSubmit_w (g : Piece) : Bool := State.jobSubmit_w g

theorem execJobSubmit_same {g : Piece} {a : State} (hg : execJobSubmit_w g = false) {s : State} (h : Same g a s) (x1 : _) :
    SameR g a (execJobSubmit x1 s) := by
  simp only [execJobSubmit_w] at hg
  unfold execJobSubmit
  repeat' first | intro _ | with_reducible first | assumption | apply sameR_next | apply State.runCmd_same | apply State.jobSubmit_same (by assumption)

def execFunctionLevelReset_w (g : Piece) : Bool := State.functionReset_w g

theorem execFunctionLevelReset_same {g : Piece} {a : State} (hg : execFunctionLevelReset_w g = false) {s : State} (h : Same g a s) (x1 : _) :
    SameR g a (execFunctionLevelReset x1 s) := by
  simp only [execFunctionLevelReset_w] at hg
  unfold execFunctionLevelReset
  repeat' first | intro _ | with_reducible first | assumption | apply sameR_next | apply State.functionReset_same (by assumption)

def execMsixUnmask_w (g : Piece) : Bool := State.order_w g || State.unmask_w g

theorem execMsixUnmask_same {g : Piece} {a : State} (hg : execMsixUnmask_w g = false) {s : State} (h : Same g a s) (x1 : _) (x2 : _) (x3 : _) :
    SameR g a (execMsixUnmask x1 x2 x3 s) := by
  simp only [execMsixUnmask_w, Bool.or_eq_false_iff] at hg
  repeat (have := hg.2; replace hg := hg.1)
  unfold execMsixUnmask
  repeat' first | intro _ | with_reducible first | assumption | apply sameR_next | apply State.order_same (by assumption) | apply State.unmask_same (by assumption)

def execBar2Access_w (g : Piece) : Bool := State.bar2_w g

theorem execBar2Access_same {g : Piece} {a : State} (hg : execBar2Access_w g = false) {s : State} (h : Same g a s) (x1 : _) (x2 : _) (x3 : _) (x4 : _) :
    SameR g a (execBar2Access x1 x2 x3 x4 s) := by
  simp only [execBar2Access_w] at hg
  unfold execBar2Access
  repeat' first | intro _ | with_reducible first | assumption | apply sameR_next | apply State.bar2_same (by assumption)

def execJobAbort_w (g : Piece) : Bool := State.jobAbort_w g

theorem execJobAbort_same {g : Piece} {a : State} (hg : execJobAbort_w g = false) {s : State} (h : Same g a s) (x1 : _) :
    SameR g a (execJobAbort x1 s) := by
  simp only [execJobAbort_w] at hg
  unfold execJobAbort
  repeat' first | intro _ | with_reducible first | assumption | apply sameR_next | apply State.runCmd_same | apply State.jobAbort_same (by assumption)

def execCmdNop_w (g : Piece) : Bool := State.completeCmd_w g

theorem execCmdNop_same {g : Piece} {a : State} (hg : execCmdNop_w g = false) {s : State} (h : Same g a s) (x1 : _) :
    SameR g a (execCmdNop x1 s) := by
  simp only [execCmdNop_w] at hg
  unfold execCmdNop
  repeat' first | intro _ | with_reducible first | assumption | apply sameR_next | apply State.runCmd_same | apply State.completeCmd_same (by assumption)

def execQpDrainEnd_w (g : Piece) : Bool := State.evictCheck_w g || State.qpDrained_w g

theorem execQpDrainEnd_same {g : Piece} {a : State} (hg : execQpDrainEnd_w g = false) {s : State} (h : Same g a s) (x1 : _) :
    SameR g a (execQpDrainEnd x1 s) := by
  simp only [execQpDrainEnd_w, Bool.or_eq_false_iff] at hg
  repeat (have := hg.2; replace hg := hg.1)
  unfold execQpDrainEnd
  repeat' first | intro _ | with_reducible first | assumption | apply sameR_next | apply State.evictCheck_same (by assumption) | apply State.qpDrained_same (by assumption)

def execMsixModerationTimeout_w (g : Piece) : Bool := State.moderationDue_w g

theorem execMsixModerationTimeout_same {g : Piece} {a : State} (hg : execMsixModerationTimeout_w g = false) {s : State} (h : Same g a s) (x1 : _) (x2 : _) :
    SameR g a (execMsixModerationTimeout x1 x2 s) := by
  simp only [execMsixModerationTimeout_w] at hg
  unfold execMsixModerationTimeout
  repeat' first | intro _ | with_reducible first | assumption | apply sameR_next | apply State.moderationDue_same (by assumption)

def execBankHost_w (g : Piece) : Bool := State.bankHost_w g

theorem execBankHost_same {g : Piece} {a : State} (hg : execBankHost_w g = false) {s : State} (h : Same g a s) (x1 : _) :
    SameR g a (execBankHost x1 s) := by
  simp only [execBankHost_w] at hg
  unfold execBankHost
  repeat' first | intro _ | with_reducible first | assumption | apply sameR_next | apply State.runCmd_same | apply State.bankHost_same (by assumption)

def State.evict_w (g : Piece) : Bool := State.completeCmd_w g || State.endJob_w g || State.qpDrained_w g || State.qpDisable_w g || State.setQp_w g || State.trimAllocs_w g || State.quotaRecheck_w g || State.trimProgs_w g || State.evictCheck_w g || State.cmdRunning_w g || (g == .aux .evictPairs) || (g == .aux .evictJobs)

theorem State.evict_same {g : Piece} {a : State} (hg : State.evict_w g = false) {s : State} (h : Same g a s) (x2 : _) :
    Same g a (State.evict s x2) := by
  simp only [State.evict_w, Bool.or_eq_false_iff] at hg
  repeat (have := hg.2; replace hg := hg.1)
  unfold State.evict
  repeat' first | intro _ | ((fail_if_no_progress extract_lets +onlyGivenNames z); first | (refine same_cut (a := a) (g := g) z ?_ fun hz => ?_) <;> [subst z; clear_value z] | clear_value z) | with_reducible first | assumption | apply State.completeCmd_same (by assumption) | apply State.each_same | apply State.endJob_same (by assumption) | apply State.qpDrained_same (by assumption) | apply State.qpDisable_same (by assumption) | apply State.setQp_same (by assumption) | apply State.trimAllocs_same (by assumption) | apply State.quotaRecheck_same (by assumption) | apply State.trimProgs_same (by assumption) | apply State.evictCheck_same (by assumption) | apply State.cmdRunning_same (by assumption) | apply setAx_same (by assumption) | apply same_ite | split

def execEvict_w (g : Piece) : Bool := State.evict_w g

theorem execEvict_same {g : Piece} {a : State} (hg : execEvict_w g = false) {s : State} (h : Same g a s) (x1 : _) :
    SameR g a (execEvict x1 s) := by
  simp only [execEvict_w] at hg
  unfold execEvict
  repeat' first | intro _ | with_reducible first | assumption | apply sameR_next | apply State.runCmd_same | apply State.evict_same (by assumption)

def execQpCfgDisable_w (g : Piece) : Bool := State.order_w g || State.qpDisable_w g

theorem execQpCfgDisable_same {g : Piece} {a : State} (hg : execQpCfgDisable_w g = false) {s : State} (h : Same g a s) (x1 : _) (x2 : _) :
    SameR g a (execQpCfgDisable x1 x2 s) := by
  simp only [execQpCfgDisable_w, Bool.or_eq_false_iff] at hg
  repeat (have := hg.2; replace hg := hg.1)
  unfold execQpCfgDisable
  repeat' first | intro _ | with_reducible first | assumption | apply sameR_next | apply State.order_same (by assumption) | apply State.qpDisable_same (by assumption)

def execQpCqheadWrite_w (g : Piece) : Bool := State.cqHead_w g

theorem execQpCqheadWrite_same {g : Piece} {a : State} (hg : execQpCqheadWrite_w g = false) {s : State} (h : Same g a s) (x1 : _) (x2 : _) :
    SameR g a (execQpCqheadWrite x1 x2 s) := by
  simp only [execQpCqheadWrite_w] at hg
  unfold execQpCqheadWrite
  repeat' first | intro _ | ((fail_if_no_progress extract_lets +onlyGivenNames z); clear_value z) | with_reducible first | assumption | apply sameR_next | apply State.cqHead_same (by assumption)

def execFnqQuotaWrite_w (g : Piece) : Bool := State.order_w g || State.quotaWrite_w g

theorem execFnqQuotaWrite_same {g : Piece} {a : State} (hg : execFnqQuotaWrite_w g = false) {s : State} (h : Same g a s) (x1 : _) (x2 : _) (x3 : _) :
    SameR g a (execFnqQuotaWrite x1 x2 x3 s) := by
  simp only [execFnqQuotaWrite_w, Bool.or_eq_false_iff] at hg
  repeat (have := hg.2; replace hg := hg.1)
  unfold execFnqQuotaWrite
  repeat' first | intro _ | with_reducible first | assumption | apply sameR_next | apply State.order_same (by assumption) | apply State.quotaWrite_same (by assumption)

def execQpCfgEnable_w (g : Piece) : Bool := State.order_w g || State.qpEnable_w g

theorem execQpCfgEnable_same {g : Piece} {a : State} (hg : execQpCfgEnable_w g = false) {s : State} (h : Same g a s) (x1 : _) (x2 : _) :
    SameR g a (execQpCfgEnable x1 x2 s) := by
  simp only [execQpCfgEnable_w, Bool.or_eq_false_iff] at hg
  repeat (have := hg.2; replace hg := hg.1)
  unfold execQpCfgEnable
  repeat' first | intro _ | with_reducible first | assumption | apply sameR_next | apply State.order_same (by assumption) | apply State.qpEnable_same (by assumption)

end Sys2Proof.Machine
end

