-- ==== Sys2Proof/Laws/SameImageStore.lean ====
section
/-!
SUPPORT. Laws/SameImageStore.lean: what the operations of Machine/ImageStore.lean may change, and that they leave the rest alone.
-/

set_option linter.unusedTactic false
set_option linter.unusedSimpArgs false
set_option linter.unusedVariables false
set_option linter.tactic.unusedName false
set_option linter.unreachableTactic false

namespace Sys2Proof.Machine

def State.rebind_w (g : Piece) : Bool := (g == .maps)

theorem State.rebind_same {g : Piece} {a : State} (hg : State.rebind_w g = false) {s : State} (h : Same g a s) :
    Same g a (State.rebind s) := by
  simp only [State.rebind_w] at hg
  unfold State.rebind
  repeat' first | intro _ | with_reducible first | assumption | fail_if_no_progress apply same_mk_maps (by assumption) | split

def State.dropImage_w (g : Piece) : Bool := State.event_w g || State.rebind_w g || (g == .images) || (g == .maps)

theorem State.dropImage_same {g : Piece} {a : State} (hg : State.dropImage_w g = false) {s : State} (h : Same g a s) (x2 : _) (x3 : _) :
    Same g a (State.dropImage s x2 x3) := by
  simp only [State.dropImage_w, Bool.or_eq_false_iff] at hg
  repeat (have := hg.2; replace hg := hg.1)
  unfold State.dropImage
  repeat' first | intro _ | ((fail_if_no_progress extract_lets +onlyGivenNames z); first | (refine same_cut (a := a) (g := g) z ?_ fun hz => ?_) <;> [subst z; clear_value z] | clear_value z) | with_reducible first | assumption | apply State.event_same (by assumption) | apply State.rebind_same (by assumption) | fail_if_no_progress apply same_mk_images_maps (by assumption) (by assumption) | apply same_ite | split

def State.takeRoom_w (g : Piece) : Bool := State.completeCmd_w g || State.dropImage_w g || State.cmdRunning_w g || (g == .loads)

theorem State.takeRoom_same {g : Piece} {a : State} (hg : State.takeRoom_w g = false) {s : State} (h : Same g a s) (x2 : _) (x3 : _) :
    Same g a (State.takeRoom s x2 x3) := by
  simp only [State.takeRoom_w, Bool.or_eq_false_iff] at hg
  repeat (have := hg.2; replace hg := hg.1)
  unfold State.takeRoom
  repeat' first | intro _ | ((fail_if_no_progress extract_lets +onlyGivenNames z); first | (refine same_cut (a := a) (g := g) z ?_ fun hz => ?_) <;> [subst z; clear_value z] | clear_value z) | with_reducible first | assumption | apply State.completeCmd_same (by assumption) | apply State.each_same | apply State.dropImage_same (by assumption) | apply State.cmdRunning_same (by assumption) | fail_if_no_progress apply same_mk_loads (by assumption) | apply same_ite | split

def State.useImage_w (g : Piece) : Bool := (g == .aux .imageUse) || (g == .images)

theorem State.useImage_same {g : Piece} {a : State} (hg : State.useImage_w g = false) {s : State} (h : Same g a s) (x2 : _) :
    Same g a (State.useImage s x2) := by
  simp only [State.useImage_w, Bool.or_eq_false_iff] at hg
  repeat (have := hg.2; replace hg := hg.1)
  unfold State.useImage
  repeat' first | intro _ | ((fail_if_no_progress extract_lets +onlyGivenNames z); clear_value z) | with_reducible first | assumption | apply setAx_same (by assumption) | fail_if_no_progress apply same_mk_images (by assumption) | apply same_ite | split

def State.pktWrite_w (g : Piece) : Bool := (g == .pocket)

theorem State.pktWrite_same {g : Piece} {a : State} (hg : State.pktWrite_w g = false) {s : State} (h : Same g a s) (x2 : _) (x3 : _) (x4 : _) (x5 : _) :
    Same g a (State.pktWrite s x2 x3 x4 x5) := by
  simp only [State.pktWrite_w] at hg
  unfold State.pktWrite
  repeat' first | intro _ | with_reducible first | assumption | fail_if_no_progress apply same_mk_pocket (by assumption)

def State.keyEvent_w (g : Piece) : Bool := State.event_w g

theorem State.keyEvent_same {g : Piece} {a : State} (hg : State.keyEvent_w g = false) {s : State} (h : Same g a s) (x2 : _) (x3 : _) :
    Same g a (State.keyEvent s x2 x3) := by
  simp only [State.keyEvent_w] at hg
  unfold State.keyEvent
  repeat' first | intro _ | with_reducible first | assumption | apply State.event_same (by assumption)

def State.keyRevoke_w (g : Piece) : Bool := State.completeCmd_w g || State.pktWrite_w g || State.keyEvent_w g || (g == .aux .pageLock)

theorem State.keyRevoke_same {g : Piece} {a : State} (hg : State.keyRevoke_w g = false) {s : State} (h : Same g a s) (x2 : _) :
    Same g a (State.keyRevoke s x2) := by
  simp only [State.keyRevoke_w, Bool.or_eq_false_iff] at hg
  repeat (have := hg.2; replace hg := hg.1)
  unfold State.keyRevoke
  repeat' first | intro _ | ((fail_if_no_progress extract_lets +onlyGivenNames z); first | (refine same_cut (a := a) (g := g) z ?_ fun hz => ?_) <;> [subst z; clear_value z] | clear_value z) | with_reducible first | assumption | apply State.completeCmd_same (by assumption) | apply State.each_same | apply setAx_same (by assumption) | apply State.pktWrite_same (by assumption) | apply State.keyEvent_same (by assumption) | apply same_ite | split

def execKeyRevoke_w (g : Piece) : Bool := State.keyRevoke_w g

theorem execKeyRevoke_same {g : Piece} {a : State} (hg : execKeyRevoke_w g = false) {s : State} (h : Same g a s) (x1 : _) :
    SameR g a (execKeyRevoke x1 s) := by
  simp only [execKeyRevoke_w] at hg
  unfold execKeyRevoke
  repeat' first | intro _ | with_reducible first | assumption | apply sameR_next | apply State.runCmd_same | apply State.keyRevoke_same (by assumption)

def State.evictHomed_w (g : Piece) : Bool := State.dropImage_w g || State.takeRoom_w g || (g == .loads)

theorem State.evictHomed_same {g : Piece} {a : State} (hg : State.evictHomed_w g = false) {s : State} (h : Same g a s) (x2 : _) :
    Same g a (State.evictHomed s x2) := by
  simp only [State.evictHomed_w, Bool.or_eq_false_iff] at hg
  repeat (have := hg.2; replace hg := hg.1)
  unfold State.evictHomed
  repeat' first | intro _ | ((fail_if_no_progress extract_lets +onlyGivenNames z); first | (refine same_cut (a := a) (g := g) z ?_ fun hz => ?_) <;> [subst z; clear_value z] | clear_value z) | with_reducible first | assumption | apply State.each_same | apply State.dropImage_same (by assumption) | apply State.takeRoom_same (by assumption) | fail_if_no_progress apply same_mk_loads (by assumption) | split

def State.imageEvict_w (g : Piece) : Bool := State.completeCmd_w g || State.dropImage_w g

theorem State.imageEvict_same {g : Piece} {a : State} (hg : State.imageEvict_w g = false) {s : State} (h : Same g a s) (x2 : _) :
    Same g a (State.imageEvict s x2) := by
  simp only [State.imageEvict_w, Bool.or_eq_false_iff] at hg
  repeat (have := hg.2; replace hg := hg.1)
  unfold State.imageEvict
  repeat' first | intro _ | ((fail_if_no_progress extract_lets +onlyGivenNames z); clear_value z) | with_reducible first | assumption | apply State.completeCmd_same (by assumption) | apply State.dropImage_same (by assumption) | apply same_ite | split

def execImageEvict_w (g : Piece) : Bool := State.imageEvict_w g

theorem execImageEvict_same {g : Piece} {a : State} (hg : execImageEvict_w g = false) {s : State} (h : Same g a s) (x1 : _) :
    SameR g a (execImageEvict x1 s) := by
  simp only [execImageEvict_w] at hg
  unfold execImageEvict
  repeat' first | intro _ | with_reducible first | assumption | apply sameR_next | apply State.runCmd_same | apply State.imageEvict_same (by assumption)

def State.rejectImage_w (g : Piece) : Bool := State.completeCmd_w g || State.event_w g || (g == .loads)

theorem State.rejectImage_same {g : Piece} {a : State} (hg : State.rejectImage_w g = false) {s : State} (h : Same g a s) (x2 : _) (x3 : _) (x4 : _) (x5 : _) :
    Same g a (State.rejectImage s x2 x3 x4 x5) := by
  simp only [State.rejectImage_w, Bool.or_eq_false_iff] at hg
  repeat (have := hg.2; replace hg := hg.1)
  unfold State.rejectImage
  repeat' first | intro _ | ((fail_if_no_progress extract_lets +onlyGivenNames z); (refine same_cut (a := a) (g := g) z ?_ fun hz => ?_) <;> [subst z; clear_value z]) | with_reducible first | assumption | apply State.completeCmd_same (by assumption) | apply State.event_same (by assumption) | fail_if_no_progress apply same_mk_loads (by assumption) | apply same_ite | split

def State.imageLoad_w (g : Piece) : Bool := State.completeCmd_w g || State.aer_w g || State.rejectImage_w g || State.takeRoom_w g

theorem State.imageLoad_same {g : Piece} {a : State} (hg : State.imageLoad_w g = false) {s : State} (h : Same g a s) (x2 : _) (x3 : _) :
    Same g a (State.imageLoad s x2 x3) := by
  simp only [State.imageLoad_w, Bool.or_eq_false_iff] at hg
  repeat (have := hg.2; replace hg := hg.1)
  unfold State.imageLoad
  repeat' first | intro _ | ((fail_if_no_progress extract_lets +onlyGivenNames z); clear_value z) | with_reducible first | assumption | apply State.completeCmd_same (by assumption) | apply State.aer_same (by assumption) | apply State.rejectImage_same (by assumption) | apply State.takeRoom_same (by assumption) | apply same_ite | split

def State.keyEnrol_w (g : Piece) : Bool := State.completeCmd_w g || State.aer_w g || State.pktWrite_w g || State.keyEvent_w g || (g == .aux .pageLock)

theorem State.keyEnrol_same {g : Piece} {a : State} (hg : State.keyEnrol_w g = false) {s : State} (h : Same g a s) (x2 : _) (x3 : _) :
    Same g a (State.keyEnrol s x2 x3) := by
  simp only [State.keyEnrol_w, Bool.or_eq_false_iff] at hg
  repeat (have := hg.2; replace hg := hg.1)
  unfold State.keyEnrol
  repeat' first | intro _ | ((fail_if_no_progress extract_lets +onlyGivenNames z); first | (refine same_cut (a := a) (g := g) z ?_ fun hz => ?_) <;> [subst z; clear_value z] | clear_value z) | with_reducible first | assumption | apply State.completeCmd_same (by assumption) | apply State.aer_same (by assumption) | apply State.each_same | apply setAx_same (by assumption) | apply State.pktWrite_same (by assumption) | apply State.keyEvent_same (by assumption) | apply same_ite | split

def execKeyEnrol_w (g : Piece) : Bool := State.keyEnrol_w g

theorem execKeyEnrol_same {g : Piece} {a : State} (hg : execKeyEnrol_w g = false) {s : State} (h : Same g a s) (x1 : _) (x2 : _) :
    SameR g a (execKeyEnrol x1 x2 s) := by
  simp only [execKeyEnrol_w] at hg
  unfold execKeyEnrol
  repeat' first | intro _ | with_reducible first | assumption | apply sameR_next | apply State.runCmd_same | apply State.keyEnrol_same (by assumption)

def execImageLoad_w (g : Piece) : Bool := State.imageLoad_w g

theorem execImageLoad_same {g : Piece} {a : State} (hg : execImageLoad_w g = false) {s : State} (h : Same g a s) (x1 : _) (x2 : _) :
    SameR g a (execImageLoad x1 x2 s) := by
  simp only [execImageLoad_w] at hg
  unfold execImageLoad
  repeat' first | intro _ | with_reducible first | assumption | apply sameR_next | apply State.runCmd_same | apply State.imageLoad_same (by assumption)

def State.imageLoaded_w (g : Piece) : Bool := State.rejectImage_w g || State.completeCmd_w g || State.event_w g || State.rebind_w g || State.useImage_w g || (g == .images) || (g == .loads)

theorem State.imageLoaded_same {g : Piece} {a : State} (hg : State.imageLoaded_w g = false) {s : State} (h : Same g a s) (x2 : _) (x3 : _) (x4 : _) :
    Same g a (State.imageLoaded s x2 x3 x4) := by
  simp only [State.imageLoaded_w, Bool.or_eq_false_iff] at hg
  repeat (have := hg.2; replace hg := hg.1)
  unfold State.imageLoaded
  repeat' first | intro _ | ((fail_if_no_progress extract_lets +onlyGivenNames z); first | (refine same_cut (a := a) (g := g) z ?_ fun hz => ?_) <;> [subst z; clear_value z] | clear_value z) | with_reducible first | assumption | apply State.rejectImage_same (by assumption) | apply State.completeCmd_same (by assumption) | apply State.event_same (by assumption) | apply State.rebind_same (by assumption) | apply State.useImage_same (by assumption) | fail_if_no_progress apply same_mk_images_loads (by assumption) (by assumption) | apply same_ite | split

end Sys2Proof.Machine
end

