-- ==== Sys2Proof/Laws/SameTiles.lean ====
section
/-!
SUPPORT. Laws/SameTiles.lean: what the operations of Machine/Tiles.lean may change, and that they leave the rest alone.
-/

set_option linter.unusedTactic false
set_option linter.unusedSimpArgs false
set_option linter.unusedVariables false
set_option linter.tactic.unusedName false
set_option linter.unreachableTactic false

namespace Sys2Proof.Machine

def State.dropTab_w (g : Piece) : Bool := (g == .tabs)

theorem State.dropTab_same {g : Piece} {a : State} (hg : State.dropTab_w g = false) {s : State} (h : Same g a s) (x2 : _) (x3 : _) (x4 : _) :
    Same g a (State.dropTab s x2 x3 x4) := by
  simp only [State.dropTab_w] at hg
  unfold State.dropTab
  repeat' first | intro _ | with_reducible first | assumption | fail_if_no_progress apply same_mk_tabs (by assumption) | split

def State.clearTabs_w (g : Piece) : Bool := State.dropTab_w g

theorem State.clearTabs_same {g : Piece} {a : State} (hg : State.clearTabs_w g = false) {s : State} (h : Same g a s) (x2 : _) (x3 : _) :
    Same g a (State.clearTabs s x2 x3) := by
  simp only [State.clearTabs_w] at hg
  unfold State.clearTabs
  repeat' first | intro _ | with_reducible first | assumption | apply State.each_same | apply State.dropTab_same (by assumption)

def State.setTab_w (g : Piece) : Bool := (g == .tabs)

theorem State.setTab_same {g : Piece} {a : State} (hg : State.setTab_w g = false) {s : State} (h : Same g a s) (x2 : _) (x3 : _) (x4 : _) (x5 : _) (x6 : _) :
    Same g a (State.setTab s x2 x3 x4 x5 x6) := by
  simp only [State.setTab_w] at hg
  unfold State.setTab
  repeat' first | intro _ | with_reducible first | assumption | fail_if_no_progress apply same_mk_tabs (by assumption) | split

def State.updTile_w (g : Piece) : Bool := (g == .tiles)

theorem State.updTile_same {g : Piece} {a : State} (hg : State.updTile_w g = false) {s : State} (h : Same g a s) (x2 : _) (x3 : _) (x4 : _) :
    Same g a (State.updTile s x2 x3 x4) := by
  simp only [State.updTile_w] at hg
  unfold State.updTile
  repeat' first | intro _ | with_reducible first | assumption | fail_if_no_progress apply same_mk_tiles (by assumption) | split

def State.setRange_w (g : Piece) : Bool := (g == .aux .pendRange) || (g == .fld .HEM_CFG_RANGE)

theorem State.setRange_same {g : Piece} {a : State} (hg : State.setRange_w g = false) {s : State} (h : Same g a s) (x2 : _) (x3 : _) (x4 : _) :
    Same g a (State.setRange s x2 x3 x4) := by
  simp only [State.setRange_w, Bool.or_eq_false_iff] at hg
  repeat (have := hg.2; replace hg := hg.1)
  unfold State.setRange
  repeat' first | intro _ | with_reducible first | assumption | apply setAx_same (by assumption) | apply wr_same (by assumption) | apply same_ite | split

def State.sparesLow_w (g : Piece) : Bool := State.event_w g

theorem State.sparesLow_same {g : Piece} {a : State} (hg : State.sparesLow_w g = false) {s : State} (h : Same g a s) (x2 : _) :
    Same g a (State.sparesLow s x2) := by
  simp only [State.sparesLow_w] at hg
  unfold State.sparesLow
  repeat' first | intro _ | ((fail_if_no_progress extract_lets +onlyGivenNames z); clear_value z) | with_reducible first | assumption | apply State.event_same (by assumption) | apply same_ite | split

def State.capUpdate_w (g : Piece) : Bool := (g == .fld .GLB_CAPACITY_SLOTS_LOST) || (g == .fld .GLB_CAPACITY_SPARE_TILES) || (g == .fld .GLB_CAPACITY_MAPPABLE_TILES)

theorem State.capUpdate_same {g : Piece} {a : State} (hg : State.capUpdate_w g = false) {s : State} (h : Same g a s) :
    Same g a (State.capUpdate s) := by
  simp only [State.capUpdate_w, Bool.or_eq_false_iff] at hg
  repeat (have := hg.2; replace hg := hg.1)
  unfold State.capUpdate
  repeat' first | intro _ | ((fail_if_no_progress extract_lets +onlyGivenNames z); (refine same_cut (a := a) (g := g) z ?_ fun hz => ?_) <;> [subst z; clear_value z]) | with_reducible first | assumption | apply wr_same (by assumption) | apply same_ite | split

def State.setTst_w (g : Piece) : Bool := State.sparesLow_w g || State.capUpdate_w g || (g == .fld .TIL_STATUS_STATE)

theorem State.setTst_same {g : Piece} {a : State} (hg : State.setTst_w g = false) {s : State} (h : Same g a s) (x2 : _) (x3 : _) (x4 : _) :
    Same g a (State.setTst s x2 x3 x4) := by
  simp only [State.setTst_w, Bool.or_eq_false_iff] at hg
  repeat (have := hg.2; replace hg := hg.1)
  unfold State.setTst
  repeat' first | intro _ | ((fail_if_no_progress extract_lets +onlyGivenNames z); first | (refine same_cut (a := a) (g := g) z ?_ fun hz => ?_) <;> [subst z; clear_value z] | clear_value z) | with_reducible first | assumption | apply wr_same (by assumption) | apply State.sparesLow_same (by assumption) | apply State.capUpdate_same (by assumption) | apply same_ite | split

def State.aimVals_w (g : Piece) : Bool := State.setTab_w g

theorem State.aimVals_same {g : Piece} {a : State} (hg : State.aimVals_w g = false) {s : State} (h : Same g a s) (x2 : _) (x3 : _) (x4 : _) :
    Same g a (State.aimVals s x2 x3 x4) := by
  simp only [State.aimVals_w] at hg
  unfold State.aimVals
  repeat' first | intro _ | with_reducible first | assumption | apply State.setTab_same (by assumption) | apply same_ite | split

def State.aimRes_w (g : Piece) : Bool := State.setTab_w g

theorem State.aimRes_same {g : Piece} {a : State} (hg : State.aimRes_w g = false) {s : State} (h : Same g a s) (x2 : _) (x3 : _) (x4 : _) (x5 : _) (x6 : _) (x7 : _) (x8 : _) (x9 : _) :
    Same g a (State.aimRes s x2 x3 x4 x5 x6 x7 x8 x9) := by
  simp only [State.aimRes_w] at hg
  unfold State.aimRes
  repeat' first | intro _ | with_reducible first | assumption | apply State.setTab_same (by assumption) | apply same_ite | split

def State.aimReverse_w (g : Piece) : Bool := State.aimRes_w g || State.setTab_w g

theorem State.aimReverse_same {g : Piece} {a : State} (hg : State.aimReverse_w g = false) {s : State} (h : Same g a s) (x2 : _) (x3 : _) (x4 : _) :
    Same g a (State.aimReverse s x2 x3 x4) := by
  simp only [State.aimReverse_w, Bool.or_eq_false_iff] at hg
  repeat (have := hg.2; replace hg := hg.1)
  unfold State.aimReverse
  repeat' first | intro _ | ((fail_if_no_progress extract_lets +onlyGivenNames z); (refine same_cut (a := a) (g := g) z ?_ fun hz => ?_) <;> [subst z; clear_value z]) | with_reducible first | assumption | apply State.each_same | apply State.aimRes_same (by assumption) | apply State.setTab_same (by assumption) | apply same_ite | split

def State.aimForward_w (g : Piece) : Bool := State.aimRes_w g || State.setTab_w g

theorem State.aimForward_same {g : Piece} {a : State} (hg : State.aimForward_w g = false) {s : State} (h : Same g a s) (x2 : _) (x3 : _) (x4 : _) :
    Same g a (State.aimForward s x2 x3 x4) := by
  simp only [State.aimForward_w, Bool.or_eq_false_iff] at hg
  repeat (have := hg.2; replace hg := hg.1)
  unfold State.aimForward
  repeat' first | intro _ | ((fail_if_no_progress extract_lets +onlyGivenNames z); (refine same_cut (a := a) (g := g) z ?_ fun hz => ?_) <;> [subst z; clear_value z]) | with_reducible first | assumption | apply State.each_same | apply State.aimRes_same (by assumption) | apply State.setTab_same (by assumption) | apply same_ite | split

def State.aimAll_w (g : Piece) : Bool := State.aimVals_w g || State.aimReverse_w g || State.aimForward_w g

theorem State.aimAll_same {g : Piece} {a : State} (hg : State.aimAll_w g = false) {s : State} (h : Same g a s) (x2 : _) (x3 : _) :
    Same g a (State.aimAll s x2 x3) := by
  simp only [State.aimAll_w, Bool.or_eq_false_iff] at hg
  repeat (have := hg.2; replace hg := hg.1)
  unfold State.aimAll
  repeat' first | intro _ | ((fail_if_no_progress extract_lets +onlyGivenNames z); clear_value z) | with_reducible first | assumption | apply State.aimVals_same (by assumption) | apply State.aimReverse_same (by assumption) | apply State.aimForward_same (by assumption)

def State.drvPend_w (g : Piece) : Bool := (g == .fld .DRV_STAT_PEND)

theorem State.drvPend_same {g : Piece} {a : State} (hg : State.drvPend_w g = false) {s : State} (h : Same g a s) (x2 : _) (x3 : _) :
    Same g a (State.drvPend s x2 x3) := by
  simp only [State.drvPend_w] at hg
  unfold State.drvPend
  repeat' first | intro _ | with_reducible first | assumption | apply wr_same (by assumption) | split

def State.seamSettings_w (g : Piece) : Bool := State.drvPend_w g || (g == .aux .pendDrive) || (g == .fld .DRV_CFG_FS) || (g == .fld .DRV_CFG_SPAN) || (g == .aux .pendSlew) || (g == .fld .DRV_SLEW_RATE) || (g == .fld .DRV_SLEW_STEP) || (g == .aux .pendRange) || (g == .fld .HEM_CFG_RANGE) || (g == .fld .HEM_TAPS_WSTART) || (g == .fld .HEM_TAPS_WSTOP) || (g == .fld .HEM_TAPS_PEND) || (g == .aux .pendTaps)

theorem State.seamSettings_same {g : Piece} {a : State} (hg : State.seamSettings_w g = false) {s : State} (h : Same g a s) (x2 : _) (x3 : _) :
    Same g a (State.seamSettings s x2 x3) := by
  simp only [State.seamSettings_w, Bool.or_eq_false_iff] at hg
  repeat (have := hg.2; replace hg := hg.1)
  unfold State.seamSettings
  repeat' first | intro _ | ((fail_if_no_progress extract_lets +onlyGivenNames z); first | (refine same_cut (a := a) (g := g) z ?_ fun hz => ?_) <;> [subst z; clear_value z] | clear_value z) | with_reducible first | assumption | apply setAx_same (by assumption) | apply wr_same (by assumption) | apply State.drvPend_same (by assumption) | apply same_ite | split

def State.setTaps_w (g : Piece) : Bool := (g == .fld .HEM_TAPS_PEND) || (g == .aux .pendTaps) || (g == .fld .HEM_TAPS_WSTART) || (g == .fld .HEM_TAPS_WSTOP)

theorem State.setTaps_same {g : Piece} {a : State} (hg : State.setTaps_w g = false) {s : State} (h : Same g a s) (x2 : _) (x3 : _) (x4 : _) :
    Same g a (State.setTaps s x2 x3 x4) := by
  simp only [State.setTaps_w, Bool.or_eq_false_iff] at hg
  repeat (have := hg.2; replace hg := hg.1)
  unfold State.setTaps
  repeat' first | intro _ | with_reducible first | assumption | apply wr_same (by assumption) | apply setAx_same (by assumption) | apply same_ite | split

def State.takeFull_w (g : Piece) : Bool := State.setTab_w g || State.dropTab_w g || State.setTaps_w g || (g == .aux .tapsNew)

theorem State.takeFull_same {g : Piece} {a : State} (hg : State.takeFull_w g = false) {s : State} (h : Same g a s) (x2 : _) (x3 : _) :
    Same g a (State.takeFull s x2 x3) := by
  simp only [State.takeFull_w, Bool.or_eq_false_iff] at hg
  repeat (have := hg.2; replace hg := hg.1)
  unfold State.takeFull
  repeat' first | intro _ | ((fail_if_no_progress extract_lets +onlyGivenNames z); (refine same_cut (a := a) (g := g) z ?_ fun hz => ?_) <;> [subst z; clear_value z]) | with_reducible first | assumption | apply State.setTab_same (by assumption) | apply State.dropTab_same (by assumption) | apply State.each_same | apply setAx_same (by assumption) | apply State.setTaps_same (by assumption) | apply same_ite | split

def State.joins_w (g : Piece) : Bool := State.updTile_w g || (g == .fld .TIL_STATUS_HOLD_CAUSE) || (g == .fld .TIL_STATUS_STATE)

theorem State.joins_same {g : Piece} {a : State} (hg : State.joins_w g = false) {s : State} (h : Same g a s) (x2 : _) (x3 : _) :
    Same g a (State.joins s x2 x3) := by
  simp only [State.joins_w, Bool.or_eq_false_iff] at hg
  repeat (have := hg.2; replace hg := hg.1)
  unfold State.joins
  repeat' first | intro _ | with_reducible first | assumption | apply State.updTile_same (by assumption) | apply wr_same (by assumption)

def State.wantHold_w (g : Piece) : Bool := (g == .aux .pendJoin) || (g == .fld .TIL_STATUS_HOLD_CAUSE) || (g == .aux .pendHold)

theorem State.wantHold_same {g : Piece} {a : State} (hg : State.wantHold_w g = false) {s : State} (h : Same g a s) (x2 : _) (x3 : _) (x4 : _) :
    Same g a (State.wantHold s x2 x3 x4) := by
  simp only [State.wantHold_w, Bool.or_eq_false_iff] at hg
  repeat (have := hg.2; replace hg := hg.1)
  unfold State.wantHold
  repeat' first | intro _ | with_reducible first | assumption | apply setAx_same (by assumption) | apply wr_same (by assumption) | apply same_ite | split

def State.settle_w (g : Piece) : Bool := State.setTab_w g

theorem State.settle_same {g : Piece} {a : State} (hg : State.settle_w g = false) {s : State} (h : Same g a s) (x2 : _) (x3 : _) :
    Same g a (State.settle s x2 x3) := by
  simp only [State.settle_w] at hg
  unfold State.settle
  repeat' first | intro _ | ((fail_if_no_progress extract_lets +onlyGivenNames z); (refine same_fn z ?_; subst z; beta_reduce)) | with_reducible first | assumption | apply State.each_same | apply State.setTab_same (by assumption) | apply same_ite | split

def State.takeTabs_w (g : Piece) : Bool := State.setTab_w g || State.dropTab_w g

theorem State.takeTabs_same {g : Piece} {a : State} (hg : State.takeTabs_w g = false) {s : State} (h : Same g a s) (x2 : _) (x3 : _) :
    Same g a (State.takeTabs s x2 x3) := by
  simp only [State.takeTabs_w, Bool.or_eq_false_iff] at hg
  repeat (have := hg.2; replace hg := hg.1)
  unfold State.takeTabs
  repeat' first | intro _ | ((fail_if_no_progress extract_lets +onlyGivenNames z); first | (refine same_cut (a := a) (g := g) z ?_ fun hz => ?_) <;> [subst z; clear_value z] | clear_value z) | with_reducible first | assumption | apply State.each_same | apply State.setTab_same (by assumption) | apply State.dropTab_same (by assumption)

def State.takePending_w (g : Piece) : Bool := State.seamSettings_w g || State.settle_w g || State.takeTabs_w g

theorem State.takePending_same {g : Piece} {a : State} (hg : State.takePending_w g = false) {s : State} (h : Same g a s) (x2 : _) (x3 : _) :
    Same g a (State.takePending s x2 x3) := by
  simp only [State.takePending_w, Bool.or_eq_false_iff] at hg
  repeat (have := hg.2; replace hg := hg.1)
  unfold State.takePending
  repeat' first | intro _ | with_reducible first | assumption | apply State.seamSettings_same (by assumption) | apply State.settle_same (by assumption) | apply State.when_same | apply State.takeTabs_same (by assumption)

def State.setSlot_w (g : Piece) : Bool := (g == .aux .recGen) || (g == .aux .recSlot)

theorem State.setSlot_same {g : Piece} {a : State} (hg : State.setSlot_w g = false) {s : State} (h : Same g a s) (x2 : _) (x3 : _) (x4 : _) :
    Same g a (State.setSlot s x2 x3 x4) := by
  simp only [State.setSlot_w, Bool.or_eq_false_iff] at hg
  repeat (have := hg.2; replace hg := hg.1)
  unfold State.setSlot
  repeat' first | intro _ | with_reducible first | assumption | apply setAx_same (by assumption)

def State.swapSlots_w (g : Piece) : Bool := State.setSlot_w g

theorem State.swapSlots_same {g : Piece} {a : State} (hg : State.swapSlots_w g = false) {s : State} (h : Same g a s) (x2 : _) (x3 : _) (x4 : _) :
    Same g a (State.swapSlots s x2 x3 x4) := by
  simp only [State.swapSlots_w] at hg
  unfold State.swapSlots
  repeat' first | intro _ | with_reducible first | assumption | apply State.setSlot_same (by assumption)

def State.setCause_w (g : Piece) : Bool := State.updTile_w g

theorem State.setCause_same {g : Piece} {a : State} (hg : State.setCause_w g = false) {s : State} (h : Same g a s) (x2 : _) (x3 : _) (x4 : _) (x5 : _) :
    Same g a (State.setCause s x2 x3 x4 x5) := by
  simp only [State.setCause_w] at hg
  unfold State.setCause
  repeat' first | intro _ | with_reducible first | assumption | apply State.updTile_same (by assumption)

def State.rampTile_w (g : Piece) : Bool := State.setTab_w g || State.takeTabs_w g

theorem State.rampTile_same {g : Piece} {a : State} (hg : State.rampTile_w g = false) {s : State} (h : Same g a s) (x2 : _) (x3 : _) :
    Same g a (State.rampTile s x2 x3) := by
  simp only [State.rampTile_w, Bool.or_eq_false_iff] at hg
  repeat (have := hg.2; replace hg := hg.1)
  unfold State.rampTile
  repeat' first | intro _ | ((fail_if_no_progress extract_lets +onlyGivenNames z); first | (refine same_cut (a := a) (g := g) z ?_ fun hz => ?_) <;> [subst z; clear_value z] | (refine same_fn z ?_; subst z; beta_reduce) | clear_value z) | with_reducible first | assumption | apply State.each_same | apply State.setTab_same (by assumption) | apply State.takeTabs_same (by assumption) | apply same_ite | split

def State.toStaged_w (g : Piece) : Bool := (g == .aux .precWait) || (g == .fld .TIL_STATUS_STATE)

theorem State.toStaged_same {g : Piece} {a : State} (hg : State.toStaged_w g = false) {s : State} (h : Same g a s) (x2 : _) (x3 : _) :
    Same g a (State.toStaged s x2 x3) := by
  simp only [State.toStaged_w, Bool.or_eq_false_iff] at hg
  repeat (have := hg.2; replace hg := hg.1)
  unfold State.toStaged
  repeat' first | intro _ | with_reducible first | assumption | apply setAx_same (by assumption) | apply wr_same (by assumption)

def State.roundTileDone_w (g : Piece) : Bool := State.event_w g || (g == .aux .roundTile) || (g == .aux .startAcc) || (g == .aux .startRej) || (g == .aux .startCal) || (g == .fld .CAL_STATUS_START_DONE)

theorem State.roundTileDone_same {g : Piece} {a : State} (hg : State.roundTileDone_w g = false) {s : State} (h : Same g a s) (x2 : _) (x3 : _) (x4 : _) :
    Same g a (State.roundTileDone s x2 x3 x4) := by
  simp only [State.roundTileDone_w, Bool.or_eq_false_iff] at hg
  repeat (have := hg.2; replace hg := hg.1)
  unfold State.roundTileDone
  repeat' first | intro _ | ((fail_if_no_progress extract_lets +onlyGivenNames z); first | (refine same_cut (a := a) (g := g) z ?_ fun hz => ?_) <;> [subst z; clear_value z] | clear_value z) | with_reducible first | assumption | apply setAx_same (by assumption) | apply State.event_same (by assumption) | apply wr_same (by assumption) | apply same_ite | split

def State.unplace_w (g : Piece) : Bool := State.roundTileDone_w g || (g == .fld .TIL_MAP_VALID) || (g == .placed)

theorem State.unplace_same {g : Piece} {a : State} (hg : State.unplace_w g = false) {s : State} (h : Same g a s) (x2 : _) (x3 : _) :
    Same g a (State.unplace s x2 x3) := by
  simp only [State.unplace_w, Bool.or_eq_false_iff] at hg
  repeat (have := hg.2; replace hg := hg.1)
  unfold State.unplace
  repeat' first | intro _ | ((fail_if_no_progress extract_lets +onlyGivenNames z); (refine same_cut (a := a) (g := g) z ?_ fun hz => ?_) <;> [subst z; clear_value z]) | with_reducible first | assumption | apply State.roundTileDone_same (by assumption) | apply wr_same (by assumption) | fail_if_no_progress apply same_mk_placed (by assumption) | split

def State.updMap_w (g : Piece) : Bool := (g == .maps)

theorem State.updMap_same {g : Piece} {a : State} (hg : State.updMap_w g = false) {s : State} (h : Same g a s) (x2 : _) (x3 : _) (x4 : _) :
    Same g a (State.updMap s x2 x3 x4) := by
  simp only [State.updMap_w] at hg
  unfold State.updMap
  repeat' first | intro _ | with_reducible first | assumption | fail_if_no_progress apply same_mk_maps (by assumption) | apply same_ite | split

def State.aim_w (g : Piece) : Bool := State.aimAll_w g || (g == .aux .aimDue)

theorem State.aim_same {g : Piece} {a : State} (hg : State.aim_w g = false) {s : State} (h : Same g a s) (x2 : _) (x3 : _) :
    Same g a (State.aim s x2 x3) := by
  simp only [State.aim_w, Bool.or_eq_false_iff] at hg
  repeat (have := hg.2; replace hg := hg.1)
  unfold State.aim
  repeat' first | intro _ | with_reducible first | assumption | apply setAx_same (by assumption) | apply State.aimAll_same (by assumption) | apply same_ite | split

def State.fullOver_w (g : Piece) : Bool := State.takePending_w g || State.aim_w g

theorem State.fullOver_same {g : Piece} {a : State} (hg : State.fullOver_w g = false) {s : State} (h : Same g a s) (x2 : _) (x3 : _) :
    Same g a (State.fullOver s x2 x3) := by
  simp only [State.fullOver_w, Bool.or_eq_false_iff] at hg
  repeat (have := hg.2; replace hg := hg.1)
  unfold State.fullOver
  repeat' first | intro _ | ((fail_if_no_progress extract_lets +onlyGivenNames z); (refine same_cut (a := a) (g := g) z ?_ fun hz => ?_) <;> [subst z; clear_value z]) | with_reducible first | assumption | apply State.takePending_same (by assumption) | apply State.aim_same (by assumption) | apply same_ite | split

def State.wantJoin_w (g : Piece) : Bool := (g == .aux .pendHold) || (g == .fld .TIL_STATUS_HOLD_CAUSE) || (g == .aux .pendJoin)

theorem State.wantJoin_same {g : Piece} {a : State} (hg : State.wantJoin_w g = false) {s : State} (h : Same g a s) (x2 : _) (x3 : _) :
    Same g a (State.wantJoin s x2 x3) := by
  simp only [State.wantJoin_w, Bool.or_eq_false_iff] at hg
  repeat (have := hg.2; replace hg := hg.1)
  unfold State.wantJoin
  repeat' first | intro _ | ((fail_if_no_progress extract_lets +onlyGivenNames z); (refine same_cut (a := a) (g := g) z ?_ fun hz => ?_) <;> [subst z; clear_value z]) | with_reducible first | assumption | apply setAx_same (by assumption) | apply wr_same (by assumption) | apply same_ite | split

def State.queueCal_w (g : Piece) : Bool := (g == .calq) || (g == .aux .calCount)

theorem State.queueCal_same {g : Piece} {a : State} (hg : State.queueCal_w g = false) {s : State} (h : Same g a s) (x2 : _) (x3 : _) (x4 : _) :
    Same g a (State.queueCal s x2 x3 x4) := by
  simp only [State.queueCal_w, Bool.or_eq_false_iff] at hg
  repeat (have := hg.2; replace hg := hg.1)
  unfold State.queueCal
  repeat' first | intro _ | ((fail_if_no_progress extract_lets +onlyGivenNames z); clear_value z) | with_reducible first | assumption | apply setAx_same (by assumption) | fail_if_no_progress apply same_mk_calq (by assumption) | apply same_ite | split

def State.noSlot_w (g : Piece) : Bool := State.setSlot_w g

theorem State.noSlot_same {g : Piece} {a : State} (hg : State.noSlot_w g = false) {s : State} (h : Same g a s) (x2 : _) (x3 : _) :
    Same g a (State.noSlot s x2 x3) := by
  simp only [State.noSlot_w] at hg
  unfold State.noSlot
  repeat' first | intro _ | with_reducible first | assumption | apply State.setSlot_same (by assumption)

def State.roundTileMove_w (g : Piece) : Bool := (g == .aux .roundTile)

theorem State.roundTileMove_same {g : Piece} {a : State} (hg : State.roundTileMove_w g = false) {s : State} (h : Same g a s) (x2 : _) (x3 : _) (x4 : _) :
    Same g a (State.roundTileMove s x2 x3 x4) := by
  simp only [State.roundTileMove_w] at hg
  unfold State.roundTileMove
  repeat' first | intro _ | with_reducible first | assumption | apply setAx_same (by assumption) | apply same_ite | split

def State.takeSlot_w (g : Piece) : Bool := State.noSlot_w g || State.setSlot_w g

theorem State.takeSlot_same {g : Piece} {a : State} (hg : State.takeSlot_w g = false) {s : State} (h : Same g a s) (x2 : _) (x3 : _) (x4 : _) :
    Same g a (State.takeSlot s x2 x3 x4) := by
  simp only [State.takeSlot_w, Bool.or_eq_false_iff] at hg
  repeat (have := hg.2; replace hg := hg.1)
  unfold State.takeSlot
  repeat' first | intro _ | with_reducible first | assumption | apply State.noSlot_same (by assumption) | apply State.setSlot_same (by assumption)

def State.setDrive_w (g : Piece) : Bool := State.drvPend_w g || (g == .aux .pendDrive) || (g == .fld .DRV_CFG_FS) || (g == .fld .DRV_CFG_SPAN)

theorem State.setDrive_same {g : Piece} {a : State} (hg : State.setDrive_w g = false) {s : State} (h : Same g a s) (x2 : _) (x3 : _) (x4 : _) :
    Same g a (State.setDrive s x2 x3 x4) := by
  simp only [State.setDrive_w, Bool.or_eq_false_iff] at hg
  repeat (have := hg.2; replace hg := hg.1)
  unfold State.setDrive
  repeat' first | intro _ | with_reducible first | assumption | apply State.drvPend_same (by assumption) | apply setAx_same (by assumption) | apply wr_same (by assumption) | apply same_ite | split

def State.setSlew_w (g : Piece) : Bool := State.drvPend_w g || (g == .aux .pendSlew) || (g == .fld .DRV_SLEW_RATE) || (g == .fld .DRV_SLEW_STEP)

theorem State.setSlew_same {g : Piece} {a : State} (hg : State.setSlew_w g = false) {s : State} (h : Same g a s) (x2 : _) (x3 : _) (x4 : _) :
    Same g a (State.setSlew s x2 x3 x4) := by
  simp only [State.setSlew_w, Bool.or_eq_false_iff] at hg
  repeat (have := hg.2; replace hg := hg.1)
  unfold State.setSlew
  repeat' first | intro _ | with_reducible first | assumption | apply State.drvPend_same (by assumption) | apply setAx_same (by assumption) | apply wr_same (by assumption) | apply same_ite | split

def State.place_w (g : Piece) : Bool := (g == .fld .TIL_MAP_LAYER) || (g == .fld .TIL_MAP_SLOT) || (g == .fld .TIL_MAP_MAP) || (g == .fld .TIL_MAP_VALID) || (g == .fld .TIL_EXTENT_COLS_M1) || (g == .fld .TIL_EXTENT_ROWS_M1) || (g == .fld .TIL_PLACE_COLBLK) || (g == .fld .TIL_PLACE_ROWBLK) || (g == .placed)

theorem State.place_same {g : Piece} {a : State} (hg : State.place_w g = false) {s : State} (h : Same g a s) (x2 : _) :
    Same g a (State.place s x2) := by
  simp only [State.place_w, Bool.or_eq_false_iff] at hg
  repeat (have := hg.2; replace hg := hg.1)
  unfold State.place
  repeat' first | intro _ | ((fail_if_no_progress extract_lets +onlyGivenNames z); (refine same_cut (a := a) (g := g) z ?_ fun hz => ?_) <;> [subst z; clear_value z]) | with_reducible first | assumption | apply wr_same (by assumption) | fail_if_no_progress apply same_mk_placed (by assumption) | split

def State.seamState_w (g : Piece) : Bool := State.settle_w g || State.toStaged_w g || State.joins_w g || (g == .aux .pendJoin) || (g == .aux .pendHold) || (g == .fld .TIL_STATUS_HOLD_CAUSE) || (g == .fld .TIL_STATUS_STATE)

theorem State.seamState_same {g : Piece} {a : State} (hg : State.seamState_w g = false) {s : State} (h : Same g a s) (x2 : _) (x3 : _) :
    Same g a (State.seamState s x2 x3) := by
  simp only [State.seamState_w, Bool.or_eq_false_iff] at hg
  repeat (have := hg.2; replace hg := hg.1)
  unfold State.seamState
  repeat' first | intro _ | ((fail_if_no_progress extract_lets +onlyGivenNames z); clear_value z) | with_reducible first | assumption | apply setAx_same (by assumption) | apply State.settle_same (by assumption) | apply State.toStaged_same (by assumption) | apply wr_same (by assumption) | apply State.joins_same (by assumption) | apply same_ite | split

end Sys2Proof.Machine
end

