-- ==== Sys2Proof/Laws/SameEngines.lean ====
section
/-!
SUPPORT. Laws/SameEngines.lean: what the operations of Machine/Engines.lean may change, and that they leave the rest alone.
-/

set_option linter.unusedTactic false
set_option linter.unusedSimpArgs false
set_option linter.unusedVariables false
set_option linter.tactic.unusedName false
set_option linter.unreachableTactic false

namespace Sys2Proof.Machine

def State.endOp_w (g : Piece) : Bool := State.opDone_w g

theorem State.endOp_same {g : Piece} {a : State} (hg : State.endOp_w g = false) {s : State} (h : Same g a s) (x2 : _) (x3 : _) :
    Same g a (State.endOp s x2 x3) := by
  simp only [State.endOp_w] at hg
  unfold State.endOp
  repeat' first | intro _ | with_reducible first | assumption | apply State.opDone_same (by assumption) | split

def State.showEngine_w (g : Piece) : Bool := (g == .fld .PRG_ENG_ROW) || (g == .fld .PRG_ENG_DECK) || (g == .fld .PRG_ENG_KIND) || (g == .fld .PRG_ENG_TILE) || (g == .fld .PRG_ENG_STATE) || (g == .fld .PRG_STATUS_BUSY) || (g == .fld .WFM_PLAY_STAT_STATE) || (g == .fld .WFM_PLAY_STAT_CLOCK_ABORT)

theorem State.showEngine_same {g : Piece} {a : State} (hg : State.showEngine_w g = false) {s : State} (h : Same g a s) (x2 : _) (x3 : _) (x4 : _) (x5 : _) (x6 : _) :
    Same g a (State.showEngine s x2 x3 x4 x5 x6) := by
  simp only [State.showEngine_w, Bool.or_eq_false_iff] at hg
  repeat (have := hg.2; replace hg := hg.1)
  unfold State.showEngine
  repeat' first | intro _ | ((fail_if_no_progress extract_lets +onlyGivenNames z); (refine same_cut (a := a) (g := g) z ?_ fun hz => ?_) <;> [subst z; clear_value z]) | with_reducible first | assumption | apply wr_same (by assumption) | apply same_ite | split

def State.dropReq_w (g : Piece) : Bool := (g == .progq)

theorem State.dropReq_same {g : Piece} {a : State} (hg : State.dropReq_w g = false) {s : State} (h : Same g a s) (x2 : _) :
    Same g a (State.dropReq s x2) := by
  simp only [State.dropReq_w] at hg
  unfold State.dropReq
  repeat' first | intro _ | with_reducible first | assumption | fail_if_no_progress apply same_mk_progq (by assumption) | split

def State.giveUp_w (g : Piece) : Bool := State.showEngine_w g || State.dropReq_w g

theorem State.giveUp_same {g : Piece} {a : State} (hg : State.giveUp_w g = false) {s : State} (h : Same g a s) (x2 : _) :
    Same g a (State.giveUp s x2) := by
  simp only [State.giveUp_w, Bool.or_eq_false_iff] at hg
  repeat (have := hg.2; replace hg := hg.1)
  unfold State.giveUp
  repeat' first | intro _ | with_reducible first | assumption | apply State.showEngine_same (by assumption) | apply State.dropReq_same (by assumption) | split

def State.endTileOps_w (g : Piece) : Bool := State.endOp_w g || State.giveUp_w g

theorem State.endTileOps_same {g : Piece} {a : State} (hg : State.endTileOps_w g = false) {s : State} (h : Same g a s) (x2 : _) (x3 : _) :
    Same g a (State.endTileOps s x2 x3) := by
  simp only [State.endTileOps_w, Bool.or_eq_false_iff] at hg
  repeat (have := hg.2; replace hg := hg.1)
  unfold State.endTileOps
  repeat' first | intro _ | ((fail_if_no_progress extract_lets +onlyGivenNames z); first | (refine same_cut (a := a) (g := g) z ?_ fun hz => ?_) <;> [subst z; clear_value z] | clear_value z) | with_reducible first | assumption | apply State.each_same | apply State.endOp_same (by assumption) | apply State.giveUp_same (by assumption) | split

def State.loadScales_w (g : Piece) : Bool := State.setTab_w g

theorem State.loadScales_same {g : Piece} {a : State} (hg : State.loadScales_w g = false) {s : State} (h : Same g a s) (x2 : _) (x3 : _) :
    Same g a (State.loadScales s x2 x3) := by
  simp only [State.loadScales_w] at hg
  unfold State.loadScales
  repeat' first | intro _ | with_reducible first | assumption | apply State.each_same | apply State.setTab_same (by assumption) | apply same_ite | split

def State.spareColFails_w (g : Piece) : Bool := (g == .fld .TIL_SPARES_SPARE_COLS_FREE) || (g == .fld .TIL_SPARECOL_BLK0) || (g == .fld .TIL_SPARECOL_BLK1) || (g == .fld .TIL_SPARECOL_BLK2) || (g == .fld .TIL_SPARECOL_BLK3)

theorem State.spareColFails_same {g : Piece} {a : State} (hg : State.spareColFails_w g = false) {s : State} (h : Same g a s) (x2 : _) (x3 : _) (x4 : _) :
    Same g a (State.spareColFails s x2 x3 x4) := by
  simp only [State.spareColFails_w, Bool.or_eq_false_iff] at hg
  repeat (have := hg.2; replace hg := hg.1)
  unfold State.spareColFails
  repeat' first | intro _ | ((fail_if_no_progress extract_lets +onlyGivenNames z); (refine same_cut (a := a) (g := g) z ?_ fun hz => ?_) <;> [subst z; clear_value z]) | with_reducible first | assumption | apply wr_same | apply same_ite | (unfold convSubField; split) | (unfold spareColField; split) | (unfold quotaField; split) | (unfold gateField; split) | (unfold readyField; split) | split

def State.dropRefresh_w (g : Piece) : Bool := State.endOp_w g || State.giveUp_w g || (g == .refreshes)

theorem State.dropRefresh_same {g : Piece} {a : State} (hg : State.dropRefresh_w g = false) {s : State} (h : Same g a s) (x2 : _) (x3 : _) :
    Same g a (State.dropRefresh s x2 x3) := by
  simp only [State.dropRefresh_w, Bool.or_eq_false_iff] at hg
  repeat (have := hg.2; replace hg := hg.1)
  unfold State.dropRefresh
  repeat' first | intro _ | ((fail_if_no_progress extract_lets +onlyGivenNames z); first | (refine same_cut (a := a) (g := g) z ?_ fun hz => ?_) <;> [subst z; clear_value z] | clear_value z) | with_reducible first | assumption | apply State.endOp_same (by assumption) | apply State.each_same | apply State.giveUp_same (by assumption) | fail_if_no_progress apply same_mk_refreshes (by assumption) | split

def State.takeSpare_w (g : Piece) : Bool := State.giveUp_w g || State.updTile_w g

theorem State.takeSpare_same {g : Piece} {a : State} (hg : State.takeSpare_w g = false) {s : State} (h : Same g a s) (x2 : _) (x3 : _) :
    Same g a (State.takeSpare s x2 x3) := by
  simp only [State.takeSpare_w, Bool.or_eq_false_iff] at hg
  repeat (have := hg.2; replace hg := hg.1)
  unfold State.takeSpare
  repeat' first | intro _ | ((fail_if_no_progress extract_lets +onlyGivenNames z); (refine same_cut (a := a) (g := g) z ?_ fun hz => ?_) <;> [subst z; clear_value z]) | with_reducible first | assumption | apply State.each_same | apply State.giveUp_same (by assumption) | apply State.updTile_same (by assumption) | split

def State.updRefresh_w (g : Piece) : Bool := (g == .refreshes)

theorem State.updRefresh_same {g : Piece} {a : State} (hg : State.updRefresh_w g = false) {s : State} (h : Same g a s) (x2 : _) (x3 : _) (x4 : _) :
    Same g a (State.updRefresh s x2 x3 x4) := by
  simp only [State.updRefresh_w] at hg
  unfold State.updRefresh
  repeat' first | intro _ | with_reducible first | assumption | fail_if_no_progress apply same_mk_refreshes (by assumption) | apply same_ite | split

def State.switchLost_w (g : Piece) : Bool := (g == .aux .switchAt)

theorem State.switchLost_same {g : Piece} {a : State} (hg : State.switchLost_w g = false) {s : State} (h : Same g a s) (x2 : _) (x3 : _) :
    Same g a (State.switchLost s x2 x3) := by
  simp only [State.switchLost_w] at hg
  unfold State.switchLost
  repeat' first | intro _ | with_reducible first | assumption | apply setAx_same (by assumption) | apply same_ite | split

def State.unready_w (g : Piece) : Bool := State.switchLost_w g || State.updMap_w g

theorem State.unready_same {g : Piece} {a : State} (hg : State.unready_w g = false) {s : State} (h : Same g a s) (x2 : _) (x3 : _) :
    Same g a (State.unready s x2 x3) := by
  simp only [State.unready_w, Bool.or_eq_false_iff] at hg
  repeat (have := hg.2; replace hg := hg.1)
  unfold State.unready
  repeat' first | intro _ | with_reducible first | assumption | apply State.switchLost_same (by assumption) | apply State.updMap_same (by assumption) | split

def State.replCal_w (g : Piece) : Bool := State.wantJoin_w g || (g == .repls)

theorem State.replCal_same {g : Piece} {a : State} (hg : State.replCal_w g = false) {s : State} (h : Same g a s) (x2 : _) (x3 : _) :
    Same g a (State.replCal s x2 x3) := by
  simp only [State.replCal_w, Bool.or_eq_false_iff] at hg
  repeat (have := hg.2; replace hg := hg.1)
  unfold State.replCal
  repeat' first | intro _ | ((fail_if_no_progress extract_lets +onlyGivenNames z); first | (refine same_cut (a := a) (g := g) z ?_ fun hz => ?_) <;> [subst z; clear_value z] | clear_value z) | with_reducible first | assumption | apply State.each_same | apply State.wantJoin_same (by assumption) | fail_if_no_progress apply same_mk_repls (by assumption) | apply same_ite | split

def State.endCal_w (g : Piece) : Bool := State.updTile_w g || State.endOp_w g || State.fullOver_w g || State.replCal_w g || (g == .calq) || (g == .cals) || (g == .fld .HEM_TAPS_STALE) || (g == .fld .CAL_STATUS_BUSY)

theorem State.endCal_same {g : Piece} {a : State} (hg : State.endCal_w g = false) {s : State} (h : Same g a s) (x2 : _) (x3 : _) :
    Same g a (State.endCal s x2 x3) := by
  simp only [State.endCal_w, Bool.or_eq_false_iff] at hg
  repeat (have := hg.2; replace hg := hg.1)
  unfold State.endCal
  repeat' first | intro _ | ((fail_if_no_progress extract_lets +onlyGivenNames z); (refine same_cut (a := a) (g := g) z ?_ fun hz => ?_) <;> [subst z; clear_value z]) | with_reducible first | assumption | apply wr_same (by assumption) | apply State.updTile_same (by assumption) | apply State.endOp_same (by assumption) | apply State.fullOver_same (by assumption) | apply State.replCal_same (by assumption) | fail_if_no_progress apply same_mk_calq (by assumption) | fail_if_no_progress apply same_mk_cals (by assumption) | apply same_ite | split

def State.setPrecision_w (g : Piece) : Bool := State.setCause_w g || (g == .aux .precWait) || (g == .fld .TIL_CTRL_PRECISION)

theorem State.setPrecision_same {g : Piece} {a : State} (hg : State.setPrecision_w g = false) {s : State} (h : Same g a s) (x2 : _) (x3 : _) :
    Same g a (State.setPrecision s x2 x3) := by
  simp only [State.setPrecision_w, Bool.or_eq_false_iff] at hg
  repeat (have := hg.2; replace hg := hg.1)
  unfold State.setPrecision
  repeat' first | intro _ | with_reducible first | assumption | apply setAx_same (by assumption) | apply State.setCause_same (by assumption) | apply wr_same (by assumption)

def State.retireDone_w (g : Piece) : Bool := (g == .fld .TIL_CTRL_RETIRE)

theorem State.retireDone_same {g : Piece} {a : State} (hg : State.retireDone_w g = false) {s : State} (h : Same g a s) (x2 : _) (x3 : _) (x4 : _) :
    Same g a (State.retireDone s x2 x3 x4) := by
  simp only [State.retireDone_w] at hg
  induction x4 generalizing s x3 <;> [skip; rename_i ih]
  all_goals unfold State.retireDone
  repeat' first | intro _ | ((fail_if_no_progress extract_lets +onlyGivenNames z); clear_value z) | with_reducible first | assumption | apply wr_same (by assumption) | apply same_ite | apply ih | split

def State.markRetired_w (g : Piece) : Bool := State.endTileOps_w g || State.unready_w g || State.dropRefresh_w g || State.endCal_w g || State.takePending_w g || State.setTst_w g || State.roundTileMove_w g || State.takeSlot_w g || State.setPrecision_w g || State.roundTileDone_w g || State.noSlot_w g || State.retireDone_w g || State.capUpdate_w g || State.event_w g || (g == .checks) || (g == .aux .pendJoin) || (g == .aux .pendHold) || (g == .aux .retiring) || (g == .fld .TIL_STATUS_REPLACES) || (g == .fld .TIL_CTRL_RETIRE) || (g == .fld .TIL_CTRL_PRECISION)

theorem State.markRetired_same {g : Piece} {a : State} (hg : State.markRetired_w g = false) {s : State} (h : Same g a s) (x2 : _) (x3 : _) (x4 : _) (x5 : _) :
    Same g a (State.markRetired s x2 x3 x4 x5) := by
  simp only [State.markRetired_w, Bool.or_eq_false_iff] at hg
  repeat (have := hg.2; replace hg := hg.1)
  unfold State.markRetired
  repeat' first | intro _ | ((fail_if_no_progress extract_lets +onlyGivenNames z); first | (refine same_cut (a := a) (g := g) z ?_ fun hz => ?_) <;> [subst z; clear_value z] | clear_value z) | with_reducible first | assumption | apply State.endTileOps_same (by assumption) | apply State.unready_same (by assumption) | apply State.dropRefresh_same (by assumption) | apply State.endCal_same (by assumption) | apply setAx_same (by assumption) | apply State.takePending_same (by assumption) | apply State.setTst_same (by assumption) | apply State.roundTileMove_same (by assumption) | apply State.takeSlot_same (by assumption) | apply wr_same (by assumption) | apply State.setPrecision_same (by assumption) | apply State.roundTileDone_same (by assumption) | apply State.noSlot_same (by assumption) | apply State.retireDone_same (by assumption) | apply State.capUpdate_same (by assumption) | apply State.event_same (by assumption) | fail_if_no_progress apply same_mk_checks (by assumption) | apply same_ite | split

def State.updReq_w (g : Piece) : Bool := (g == .progq)

theorem State.updReq_same {g : Piece} {a : State} (hg : State.updReq_w g = false) {s : State} (h : Same g a s) (x2 : _) (x3 : _) :
    Same g a (State.updReq s x2 x3) := by
  simp only [State.updReq_w] at hg
  unfold State.updReq
  repeat' first | intro _ | with_reducible first | assumption | fail_if_no_progress apply same_mk_progq (by assumption) | apply same_ite | split

def State.feedQueue_w (g : Piece) : Bool := (g == .progq) || (g == .fld .PRG_STATUS_QUEUED)

theorem State.feedQueue_same {g : Piece} {a : State} (hg : State.feedQueue_w g = false) {s : State} (h : Same g a s) (x2 : _) :
    Same g a (State.feedQueue s x2) := by
  simp only [State.feedQueue_w, Bool.or_eq_false_iff] at hg
  repeat (have := hg.2; replace hg := hg.1)
  unfold State.feedQueue
  repeat' first | intro _ | ((fail_if_no_progress extract_lets +onlyGivenNames z); first | (refine same_cut (a := a) (g := g) z ?_ fun hz => ?_) <;> [subst z; clear_value z] | clear_value z) | with_reducible first | assumption | apply wr_same (by assumption) | fail_if_no_progress apply same_mk_progq (by assumption) | apply same_ite | split

def State.imageNeeded_w (g : Piece) : Bool := State.event_w g

theorem State.imageNeeded_same {g : Piece} {a : State} (hg : State.imageNeeded_w g = false) {s : State} (h : Same g a s) (x2 : _) (x3 : _) :
    Same g a (State.imageNeeded s x2 x3) := by
  simp only [State.imageNeeded_w] at hg
  unfold State.imageNeeded
  repeat' first | intro _ | ((fail_if_no_progress extract_lets +onlyGivenNames z); clear_value z) | with_reducible first | assumption | apply State.event_same (by assumption) | split

def State.waitImage_w (g : Piece) : Bool := State.updReq_w g || State.imageNeeded_w g || (g == .fld .TIL_STATUS_HOLD_CAUSE) || (g == .aux .pendHold)

theorem State.waitImage_same {g : Piece} {a : State} (hg : State.waitImage_w g = false) {s : State} (h : Same g a s) (x2 : _) :
    Same g a (State.waitImage s x2) := by
  simp only [State.waitImage_w, Bool.or_eq_false_iff] at hg
  repeat (have := hg.2; replace hg := hg.1)
  unfold State.waitImage
  repeat' first | intro _ | ((fail_if_no_progress extract_lets +onlyGivenNames z); first | (refine same_cut (a := a) (g := g) z ?_ fun hz => ?_) <;> [subst z; clear_value z] | clear_value z) | with_reducible first | assumption | apply State.updReq_same (by assumption) | apply wr_same (by assumption) | apply setAx_same (by assumption) | apply State.imageNeeded_same (by assumption) | apply same_ite | split

def State.enterProg_w (g : Piece) : Bool := State.unready_w g || State.unplace_w g || State.setTst_w g

theorem State.enterProg_same {g : Piece} {a : State} (hg : State.enterProg_w g = false) {s : State} (h : Same g a s) (x2 : _) :
    Same g a (State.enterProg s x2) := by
  simp only [State.enterProg_w, Bool.or_eq_false_iff] at hg
  repeat (have := hg.2; replace hg := hg.1)
  unfold State.enterProg
  repeat' first | intro _ | ((fail_if_no_progress extract_lets +onlyGivenNames z); first | (refine same_cut (a := a) (g := g) z ?_ fun hz => ?_) <;> [subst z; clear_value z] | clear_value z) | with_reducible first | assumption | apply State.unready_same (by assumption) | apply State.unplace_same (by assumption) | apply State.setTst_same (by assumption) | apply same_ite | split

def State.startReq_w (g : Piece) : Bool := State.waitImage_w g || State.useImage_w g || State.updReq_w g || State.showEngine_w g || State.enterProg_w g

theorem State.startReq_same {g : Piece} {a : State} (hg : State.startReq_w g = false) {s : State} (h : Same g a s) (x2 : _) (x3 : _) :
    Same g a (State.startReq s x2 x3) := by
  simp only [State.startReq_w, Bool.or_eq_false_iff] at hg
  repeat (have := hg.2; replace hg := hg.1)
  unfold State.startReq
  repeat' first | intro _ | ((fail_if_no_progress extract_lets +onlyGivenNames z); first | (refine same_cut (a := a) (g := g) z ?_ fun hz => ?_) <;> [subst z; clear_value z] | clear_value z) | with_reducible first | assumption | apply State.waitImage_same (by assumption) | apply State.useImage_same (by assumption) | apply State.updReq_same (by assumption) | apply State.showEngine_same (by assumption) | apply State.enterProg_same (by assumption) | apply same_ite | split

def State.pump_w (g : Piece) : Bool := State.feedQueue_w g || State.startReq_w g

theorem State.pump_same {g : Piece} {a : State} (hg : State.pump_w g = false) {s : State} (h : Same g a s) (x2 : _) :
    Same g a (State.pump s x2) := by
  simp only [State.pump_w, Bool.or_eq_false_iff] at hg
  repeat (have := hg.2; replace hg := hg.1)
  unfold State.pump
  repeat' first | intro _ | ((fail_if_no_progress extract_lets +onlyGivenNames z); (refine same_cut (a := a) (g := g) z ?_ fun hz => ?_) <;> [subst z; clear_value z]) | with_reducible first | assumption | apply State.feedQueue_same (by assumption) | apply State.each_same | apply State.startReq_same (by assumption) | apply same_ite | split

def State.progPush_w (g : Piece) : Bool := State.pump_w g || State.waitImage_w g || (g == .aux .progCount) || (g == .progq)

theorem State.progPush_same {g : Piece} {a : State} (hg : State.progPush_w g = false) {s : State} (h : Same g a s) (x2 : _) :
    Same g a (State.progPush s x2) := by
  simp only [State.progPush_w, Bool.or_eq_false_iff] at hg
  repeat (have := hg.2; replace hg := hg.1)
  unfold State.progPush
  repeat' first | intro _ | ((fail_if_no_progress extract_lets +onlyGivenNames z); first | (refine same_cut (a := a) (g := g) z ?_ fun hz => ?_) <;> [subst z; clear_value z] | clear_value z) | with_reducible first | assumption | apply setAx_same (by assumption) | apply State.pump_same (by assumption) | apply State.waitImage_same (by assumption) | fail_if_no_progress apply same_mk_progq (by assumption) | apply same_ite | split

def State.startRefresh_w (g : Piece) : Bool := State.dropRefresh_w g || State.imageNeeded_w g || State.progPush_w g || State.updRefresh_w g || State.takeSpare_w g || State.wantHold_w g

theorem State.startRefresh_same {g : Piece} {a : State} (hg : State.startRefresh_w g = false) {s : State} (h : Same g a s) (x2 : _) :
    Same g a (State.startRefresh s x2) := by
  simp only [State.startRefresh_w, Bool.or_eq_false_iff] at hg
  repeat (have := hg.2; replace hg := hg.1)
  unfold State.startRefresh
  repeat' first | intro _ | ((fail_if_no_progress extract_lets +onlyGivenNames z); clear_value z) | with_reducible first | assumption | apply State.dropRefresh_same (by assumption) | apply State.imageNeeded_same (by assumption) | apply State.progPush_same (by assumption) | apply State.updRefresh_same (by assumption) | apply State.takeSpare_same (by assumption) | apply State.wantHold_same (by assumption) | apply same_ite | split

def State.endSlotCmd_w (g : Piece) : Bool := State.completeCmd_w g || (g == .panels) || (g == .progq) || (g == .repls)

theorem State.endSlotCmd_same {g : Piece} {a : State} (hg : State.endSlotCmd_w g = false) {s : State} (h : Same g a s) (x2 : _) (x3 : _) :
    Same g a (State.endSlotCmd s x2 x3) := by
  simp only [State.endSlotCmd_w, Bool.or_eq_false_iff] at hg
  repeat (have := hg.2; replace hg := hg.1)
  unfold State.endSlotCmd
  repeat' first | intro _ | ((fail_if_no_progress extract_lets +onlyGivenNames z); first | (refine same_cut (a := a) (g := g) z ?_ fun hz => ?_) <;> [subst z; clear_value z] | clear_value z) | with_reducible first | assumption | apply State.completeCmd_same (by assumption) | fail_if_no_progress apply same_mk_panels_progq_repls (by assumption) (by assumption) (by assumption) | apply same_ite | split

def State.moveQueued_w (g : Piece) : Bool := State.endOp_w g || State.endSlotCmd_w g || (g == .progq)

theorem State.moveQueued_same {g : Piece} {a : State} (hg : State.moveQueued_w g = false) {s : State} (h : Same g a s) (x2 : _) (x3 : _) (x4 : _) :
    Same g a (State.moveQueued s x2 x3 x4) := by
  simp only [State.moveQueued_w, Bool.or_eq_false_iff] at hg
  repeat (have := hg.2; replace hg := hg.1)
  unfold State.moveQueued
  repeat' first | intro _ | ((fail_if_no_progress extract_lets +onlyGivenNames z); first | (refine same_cut (a := a) (g := g) z ?_ fun hz => ?_) <;> [subst z; clear_value z] | clear_value z) | with_reducible first | assumption | apply State.each_same | apply State.endOp_same (by assumption) | apply State.endSlotCmd_same (by assumption) | fail_if_no_progress apply same_mk_progq (by assumption) | apply same_ite | split

def State.retireNoSpare_w (g : Piece) : Bool := State.moveQueued_w g || State.markRetired_w g || State.loseJob_w g || (g == .aux .tilesLost)

theorem State.retireNoSpare_same {g : Piece} {a : State} (hg : State.retireNoSpare_w g = false) {s : State} (h : Same g a s) (x2 : _) (x3 : _) (x4 : _) :
    Same g a (State.retireNoSpare s x2 x3 x4) := by
  simp only [State.retireNoSpare_w, Bool.or_eq_false_iff] at hg
  repeat (have := hg.2; replace hg := hg.1)
  unfold State.retireNoSpare
  repeat' first | intro _ | ((fail_if_no_progress extract_lets +onlyGivenNames z); first | (refine same_cut (a := a) (g := g) z ?_ fun hz => ?_) <;> [subst z; clear_value z] | clear_value z) | with_reducible first | assumption | apply setAx_same (by assumption) | apply State.moveQueued_same (by assumption) | apply State.markRetired_same (by assumption) | apply State.each_same | apply State.loseJob_same (by assumption) | apply same_ite | split

def State.noSpareFor_w (g : Piece) : Bool := State.dropReq_w g || State.startRefresh_w g || State.retireNoSpare_w g

theorem State.noSpareFor_same {g : Piece} {a : State} (hg : State.noSpareFor_w g = false) {s : State} (h : Same g a s) (x2 : _) :
    Same g a (State.noSpareFor s x2) := by
  simp only [State.noSpareFor_w, Bool.or_eq_false_iff] at hg
  repeat (have := hg.2; replace hg := hg.1)
  unfold State.noSpareFor
  repeat' first | intro _ | ((fail_if_no_progress extract_lets +onlyGivenNames z); (refine same_cut (a := a) (g := g) z ?_ fun hz => ?_) <;> [subst z; clear_value z]) | with_reducible first | assumption | apply State.dropReq_same (by assumption) | apply State.startRefresh_same (by assumption) | apply State.retireNoSpare_same (by assumption) | apply same_ite | split

def State.moveToSpare_w (g : Piece) : Bool := State.setTst_w g || State.takeSpare_w g || State.updRefresh_w g || State.unplace_w g || State.markRetired_w g || State.place_w g || State.updReq_w g || State.showEngine_w g || State.pump_w g || State.noSpareFor_w g || State.giveUp_w g || State.endOp_w g || State.retireNoSpare_w g || State.endSlotCmd_w g

theorem State.moveToSpare_same {g : Piece} {a : State} (hg : State.moveToSpare_w g = false) {s : State} (h : Same g a s) (x2 : _) (x3 : _) :
    Same g a (State.moveToSpare s x2 x3) := by
  simp only [State.moveToSpare_w, Bool.or_eq_false_iff] at hg
  repeat (have := hg.2; replace hg := hg.1)
  unfold State.moveToSpare
  repeat' first | intro _ | ((fail_if_no_progress extract_lets +onlyGivenNames z); first | (refine same_cut (a := a) (g := g) z ?_ fun hz => ?_) <;> [subst z; clear_value z] | clear_value z) | with_reducible first | assumption | apply State.setTst_same (by assumption) | apply State.takeSpare_same (by assumption) | apply State.updRefresh_same (by assumption) | apply State.unplace_same (by assumption) | apply State.markRetired_same (by assumption) | apply State.place_same (by assumption) | apply State.updReq_same (by assumption) | apply State.showEngine_same (by assumption) | apply State.pump_same (by assumption) | apply State.noSpareFor_same (by assumption) | apply State.giveUp_same (by assumption) | apply State.endOp_same (by assumption) | apply State.retireNoSpare_same (by assumption) | apply State.endSlotCmd_same (by assumption) | apply same_ite | split

def State.restartRepair_w (g : Piece) : Bool := State.showEngine_w g || State.updReq_w g || State.pump_w g

theorem State.restartRepair_same {g : Piece} {a : State} (hg : State.restartRepair_w g = false) {s : State} (h : Same g a s) (x2 : _) (x3 : _) :
    Same g a (State.restartRepair s x2 x3) := by
  simp only [State.restartRepair_w, Bool.or_eq_false_iff] at hg
  repeat (have := hg.2; replace hg := hg.1)
  unfold State.restartRepair
  repeat' first | intro _ | ((fail_if_no_progress extract_lets +onlyGivenNames z); first | (refine same_cut (a := a) (g := g) z ?_ fun hz => ?_) <;> [subst z; clear_value z] | clear_value z) | with_reducible first | assumption | apply State.each_same | apply State.showEngine_same (by assumption) | apply State.updReq_same (by assumption) | apply State.pump_same (by assumption) | apply same_ite | split

def State.restartExposed_w (g : Piece) : Bool := State.faultJobs_w g

theorem State.restartExposed_same {g : Piece} {a : State} (hg : State.restartExposed_w g = false) {s : State} (h : Same g a s) (x2 : _) (x3 : _) :
    Same g a (State.restartExposed s x2 x3) := by
  simp only [State.restartExposed_w] at hg
  unfold State.restartExposed
  repeat' first | intro _ | with_reducible first | assumption | apply State.faultJobs_same (by assumption)

def State.cancelPending_w (g : Piece) : Bool := (g == .reqs)

theorem State.cancelPending_same {g : Piece} {a : State} (hg : State.cancelPending_w g = false) {s : State} (h : Same g a s) (x2 : _) (x3 : _) :
    Same g a (State.cancelPending s x2 x3) := by
  simp only [State.cancelPending_w] at hg
  unfold State.cancelPending
  repeat' first | intro _ | with_reducible first | assumption | fail_if_no_progress apply same_mk_reqs (by assumption) | apply same_ite | split

def State.breakCal_w (g : Piece) : Bool := State.endCal_w g || State.queueCal_w g || (g == .calq)

theorem State.breakCal_same {g : Piece} {a : State} (hg : State.breakCal_w g = false) {s : State} (h : Same g a s) (x2 : _) (x3 : _) :
    Same g a (State.breakCal s x2 x3) := by
  simp only [State.breakCal_w, Bool.or_eq_false_iff] at hg
  repeat (have := hg.2; replace hg := hg.1)
  unfold State.breakCal
  repeat' first | intro _ | ((fail_if_no_progress extract_lets +onlyGivenNames z); first | (refine same_cut (a := a) (g := g) z ?_ fun hz => ?_) <;> [subst z; clear_value z] | clear_value z) | with_reducible first | assumption | apply State.endCal_same (by assumption) | apply State.queueCal_same (by assumption) | fail_if_no_progress apply same_mk_calq (by assumption) | apply same_ite | split

def State.convFailed_w (g : Piece) : Bool := (g == .fld .HEM_CONVSUB_SP72) || (g == .fld .HEM_CONVSUB_SP73) || (g == .fld .HEM_CONVSUB_SP74) || (g == .fld .HEM_CONVSUB_SP75)

theorem State.convFailed_same {g : Piece} {a : State} (hg : State.convFailed_w g = false) {s : State} (h : Same g a s) (x2 : _) (x3 : _) (x4 : _) :
    Same g a (State.convFailed s x2 x3 x4) := by
  simp only [State.convFailed_w, Bool.or_eq_false_iff] at hg
  repeat (have := hg.2; replace hg := hg.1)
  unfold State.convFailed
  repeat' first | intro _ | with_reducible first | assumption | apply State.each_same | apply wr_same | apply same_ite | (unfold convSubField; split) | (unfold spareColField; split) | (unfold quotaField; split) | (unfold gateField; split) | (unfold readyField; split) | split

def State.replaceTile_w (g : Piece) : Bool := State.dropRefresh_w g || State.giveUp_w g || State.switchLost_w g || State.wantHold_w g || State.takeSpare_w g || State.moveQueued_w g || State.updTile_w g || State.progPush_w g || State.markRetired_w g || State.setTst_w g || State.pump_w g || State.retireNoSpare_w g || (g == .aux .retiring) || (g == .fld .TIL_CTRL_RETIRE)

theorem State.replaceTile_same {g : Piece} {a : State} (hg : State.replaceTile_w g = false) {s : State} (h : Same g a s) (x2 : _) (x3 : _) (x4 : _) (x5 : _) :
    Same g a (State.replaceTile s x2 x3 x4 x5) := by
  simp only [State.replaceTile_w, Bool.or_eq_false_iff] at hg
  repeat (have := hg.2; replace hg := hg.1)
  unfold State.replaceTile
  repeat' first | intro _ | ((fail_if_no_progress extract_lets +onlyGivenNames z); first | (refine same_cut (a := a) (g := g) z ?_ fun hz => ?_) <;> [subst z; clear_value z] | clear_value z) | with_reducible first | assumption | apply State.dropRefresh_same (by assumption) | apply State.each_same | apply State.giveUp_same (by assumption) | apply State.switchLost_same (by assumption) | apply State.wantHold_same (by assumption) | apply setAx_same (by assumption) | apply State.takeSpare_same (by assumption) | apply State.moveQueued_same (by assumption) | apply State.updTile_same (by assumption) | apply State.progPush_same (by assumption) | apply State.markRetired_same (by assumption) | apply State.setTst_same (by assumption) | apply State.pump_same (by assumption) | apply wr_same (by assumption) | apply State.retireNoSpare_same (by assumption) | apply foldl_same | apply same_ite | split

def State.failTile_w (g : Piece) : Bool := State.endTileOps_w g || State.restartExposed_w g || State.replaceTile_w g || State.endCal_w g

theorem State.failTile_same {g : Piece} {a : State} (hg : State.failTile_w g = false) {s : State} (h : Same g a s) (x2 : _) (x3 : _) (x4 : _) (x5 : _) :
    Same g a (State.failTile s x2 x3 x4 x5) := by
  simp only [State.failTile_w, Bool.or_eq_false_iff] at hg
  repeat (have := hg.2; replace hg := hg.1)
  unfold State.failTile
  repeat' first | intro _ | ((fail_if_no_progress extract_lets +onlyGivenNames z); (refine same_cut (a := a) (g := g) z ?_ fun hz => ?_) <;> [subst z; clear_value z]) | with_reducible first | assumption | apply State.endTileOps_same (by assumption) | apply State.restartExposed_same (by assumption) | apply State.replaceTile_same (by assumption) | apply State.endCal_same (by assumption) | apply same_ite | split

def State.repairColumn_w (g : Piece) : Bool := State.updTile_w g || State.wantHold_w g || State.pump_w g || State.restartRepair_w g || State.updReq_w g || State.progPush_w g

theorem State.repairColumn_same {g : Piece} {a : State} (hg : State.repairColumn_w g = false) {s : State} (h : Same g a s) (x2 : _) (x3 : _) (x4 : _) (x5 : _) (x6 : _) :
    Same g a (State.repairColumn s x2 x3 x4 x5 x6) := by
  simp only [State.repairColumn_w, Bool.or_eq_false_iff] at hg
  repeat (have := hg.2; replace hg := hg.1)
  unfold State.repairColumn
  repeat' first | intro _ | ((fail_if_no_progress extract_lets +onlyGivenNames z); first | (refine same_cut (a := a) (g := g) z ?_ fun hz => ?_) <;> [subst z; clear_value z] | clear_value z) | with_reducible first | assumption | apply State.updTile_same (by assumption) | apply State.wantHold_same (by assumption) | apply State.pump_same (by assumption) | apply State.restartRepair_same (by assumption) | apply State.updReq_same (by assumption) | apply State.progPush_same (by assumption) | apply same_ite | split

def State.elementFails_w (g : Piece) : Bool := State.moveToSpare_w g || State.restartRepair_w g || State.restartExposed_w g || State.cancelPending_w g || State.breakCal_w g || State.convFailed_w g || State.updTile_w g || State.failTile_w g || State.repairColumn_w g || State.spareColFails_w g || State.event_w g || (g == .fld .TIL_STATUS_REV_LOST)

theorem State.elementFails_same {g : Piece} {a : State} (hg : State.elementFails_w g = false) {s : State} (h : Same g a s) (x2 : _) (x3 : _) (x4 : _) (x5 : _) :
    Same g a (State.elementFails s x2 x3 x4 x5) := by
  simp only [State.elementFails_w, Bool.or_eq_false_iff] at hg
  repeat (have := hg.2; replace hg := hg.1)
  unfold State.elementFails
  repeat' first | intro _ | ((fail_if_no_progress extract_lets +onlyGivenNames z); first | (refine same_cut (a := a) (g := g) z ?_ fun hz => ?_) <;> [subst z; clear_value z] | clear_value z) | with_reducible first | assumption | apply State.moveToSpare_same (by assumption) | apply State.restartRepair_same (by assumption) | apply State.restartExposed_same (by assumption) | apply State.cancelPending_same (by assumption) | apply State.breakCal_same (by assumption) | apply State.convFailed_same (by assumption) | apply State.updTile_same (by assumption) | apply State.failTile_same (by assumption) | apply State.repairColumn_same (by assumption) | apply State.spareColFails_same (by assumption) | apply State.event_same (by assumption) | apply wr_same (by assumption) | apply same_ite | split

def State.progTables_w (g : Piece) : Bool := State.setTab_w g || State.aimVals_w g || State.aimReverse_w g || State.aimForward_w g

theorem State.progTables_same {g : Piece} {a : State} (hg : State.progTables_w g = false) {s : State} (h : Same g a s) (x2 : _) (x3 : _) :
    Same g a (State.progTables s x2 x3) := by
  simp only [State.progTables_w, Bool.or_eq_false_iff] at hg
  repeat (have := hg.2; replace hg := hg.1)
  unfold State.progTables
  repeat' first | intro _ | ((fail_if_no_progress extract_lets +onlyGivenNames z); (refine same_cut (a := a) (g := g) z ?_ fun hz => ?_) <;> [subst z; clear_value z]) | with_reducible first | assumption | apply State.setTab_same (by assumption) | apply State.aimVals_same (by assumption) | apply State.aimReverse_same (by assumption) | apply State.aimForward_same (by assumption)

def State.layerSettings_w (g : Piece) : Bool := State.setDrive_w g || (g == .fld .HEM_SAT_LIMIT) || (g == .aux .pendRange) || (g == .fld .HEM_CFG_RANGE)

theorem State.layerSettings_same {g : Piece} {a : State} (hg : State.layerSettings_w g = false) {s : State} (h : Same g a s) (x2 : _) (x3 : _) :
    Same g a (State.layerSettings s x2 x3) := by
  simp only [State.layerSettings_w, Bool.or_eq_false_iff] at hg
  repeat (have := hg.2; replace hg := hg.1)
  unfold State.layerSettings
  repeat' first | intro _ | ((fail_if_no_progress extract_lets +onlyGivenNames z); (refine same_cut (a := a) (g := g) z ?_ fun hz => ?_) <;> [subst z; clear_value z]) | with_reducible first | assumption | apply State.setDrive_same (by assumption) | apply wr_same (by assumption) | apply setAx_same (by assumption) | apply same_ite | split

def State.measureLevels_w (g : Piece) : Bool := State.updTile_w g

theorem State.measureLevels_same {g : Piece} {a : State} (hg : State.measureLevels_w g = false) {s : State} (h : Same g a s) (x2 : _) (x3 : _) (x4 : _) (x5 : _) :
    Same g a (State.measureLevels s x2 x3 x4 x5) := by
  simp only [State.measureLevels_w] at hg
  unfold State.measureLevels
  repeat' first | intro _ | ((fail_if_no_progress extract_lets +onlyGivenNames z); clear_value z) | with_reducible first | assumption | apply State.updTile_same (by assumption) | apply foldl_same | apply same_ite | split

def State.refreshEvent_w (g : Piece) : Bool := State.event_w g

theorem State.refreshEvent_same {g : Piece} {a : State} (hg : State.refreshEvent_w g = false) {s : State} (h : Same g a s) (x2 : _) (x3 : _) (x4 : _) (x5 : _) :
    Same g a (State.refreshEvent s x2 x3 x4 x5) := by
  simp only [State.refreshEvent_w] at hg
  unfold State.refreshEvent
  repeat' first | intro _ | with_reducible first | assumption | apply State.event_same (by assumption)

def State.refreshSooner_w (g : Piece) : Bool := State.updRefresh_w g || State.refreshEvent_w g || (g == .progq)

theorem State.refreshSooner_same {g : Piece} {a : State} (hg : State.refreshSooner_w g = false) {s : State} (h : Same g a s) (x2 : _) (x3 : _) :
    Same g a (State.refreshSooner s x2 x3) := by
  simp only [State.refreshSooner_w, Bool.or_eq_false_iff] at hg
  repeat (have := hg.2; replace hg := hg.1)
  unfold State.refreshSooner
  repeat' first | intro _ | ((fail_if_no_progress extract_lets +onlyGivenNames z); first | (refine same_cut (a := a) (g := g) z ?_ fun hz => ?_) <;> [subst z; clear_value z] | clear_value z) | with_reducible first | assumption | apply State.updRefresh_same (by assumption) | apply State.refreshEvent_same (by assumption) | fail_if_no_progress apply same_mk_progq (by assumption) | apply same_ite | split

def State.scheduleRefresh_w (g : Piece) : Bool := State.refreshSooner_w g || State.refreshEvent_w g || State.startRefresh_w g || (g == .refreshes)

theorem State.scheduleRefresh_same {g : Piece} {a : State} (hg : State.scheduleRefresh_w g = false) {s : State} (h : Same g a s) (x2 : _) (x3 : _) (x4 : _) (x5 : _) (x6 : _) :
    Same g a (State.scheduleRefresh s x2 x3 x4 x5 x6) := by
  simp only [State.scheduleRefresh_w, Bool.or_eq_false_iff] at hg
  repeat (have := hg.2; replace hg := hg.1)
  unfold State.scheduleRefresh
  repeat' first | intro _ | ((fail_if_no_progress extract_lets +onlyGivenNames z); first | (refine same_cut (a := a) (g := g) z ?_ fun hz => ?_) <;> [subst z; clear_value z] | clear_value z) | with_reducible first | assumption | apply State.refreshSooner_same (by assumption) | apply State.refreshEvent_same (by assumption) | apply State.startRefresh_same (by assumption) | fail_if_no_progress apply same_mk_refreshes (by assumption) | apply same_ite | split

def State.passes_w (g : Piece) : Bool := State.updTile_w g

theorem State.passes_same {g : Piece} {a : State} (hg : State.passes_w g = false) {s : State} (h : Same g a s) (x2 : _) (x3 : _) (x4 : _) :
    Same g a (State.passes s x2 x3 x4) := by
  simp only [State.passes_w] at hg
  unfold State.passes
  repeat' first | intro _ | ((fail_if_no_progress extract_lets +onlyGivenNames z); clear_value z) | with_reducible first | assumption | apply State.updTile_same (by assumption) | apply foldl_same | split

def State.noteLate_w (g : Piece) : Bool := State.event_w g || State.jobLate_w g || (g == .fld .PRG_MAXLATE_LATENESS) || (g == .fld .PRG_LATECNT_COUNT) || (g == .cmds) || (g == .aux .lateSaid)

theorem State.noteLate_same {g : Piece} {a : State} (hg : State.noteLate_w g = false) {s : State} (h : Same g a s) (x2 : _) :
    Same g a (State.noteLate s x2) := by
  simp only [State.noteLate_w, Bool.or_eq_false_iff] at hg
  repeat (have := hg.2; replace hg := hg.1)
  unfold State.noteLate
  repeat' first | intro _ | ((fail_if_no_progress extract_lets +onlyGivenNames z); first | (refine same_cut (a := a) (g := g) z ?_ fun hz => ?_) <;> [subst z; clear_value z] | (refine same_fn z ?_; subst z; beta_reduce) | clear_value z) | with_reducible first | assumption | apply wr_same (by assumption) | apply bump_same (by assumption) | apply State.event_same (by assumption) | apply setAx_same (by assumption) | apply State.jobLate_same (by assumption) | fail_if_no_progress apply same_mk_cmds (by assumption) | apply same_ite | split

def State.releaseEngine_w (g : Piece) : Bool := State.dropReq_w g || State.showEngine_w g || State.noteLate_w g

theorem State.releaseEngine_same {g : Piece} {a : State} (hg : State.releaseEngine_w g = false) {s : State} (h : Same g a s) (x2 : _) :
    Same g a (State.releaseEngine s x2) := by
  simp only [State.releaseEngine_w, Bool.or_eq_false_iff] at hg
  repeat (have := hg.2; replace hg := hg.1)
  unfold State.releaseEngine
  repeat' first | intro _ | with_reducible first | assumption | apply State.dropReq_same (by assumption) | apply State.showEngine_same (by assumption) | apply State.noteLate_same (by assumption) | split

def State.convTables_w (g : Piece) : Bool := State.setTab_w g

theorem State.convTables_same {g : Piece} {a : State} (hg : State.convTables_w g = false) {s : State} (h : Same g a s) (x2 : _) (x3 : _) (x4 : _) (x5 : _) (x6 : _) :
    Same g a (State.convTables s x2 x3 x4 x5 x6) := by
  simp only [State.convTables_w] at hg
  unfold State.convTables
  repeat' first | intro _ | ((fail_if_no_progress extract_lets +onlyGivenNames z); first | (refine same_cut (a := a) (g := g) z ?_ fun hz => ?_) <;> [subst z; clear_value z] | clear_value z) | with_reducible first | assumption | apply State.each_same | apply State.setTab_same (by assumption)

def State.seamConverters_w (g : Piece) : Bool := State.convTables_w g || State.setCause_w g || State.updTile_w g || State.event_w g || (g == .fld .TIL_SPARES_SPARE_CONV_FREE) || (g == .fld .TIL_LASTGOOD_TIME) || (g == .fld .HEM_CONVSUB_SP72) || (g == .fld .HEM_CONVSUB_SP73) || (g == .fld .HEM_CONVSUB_SP74) || (g == .fld .HEM_CONVSUB_SP75)

theorem State.seamConverters_same {g : Piece} {a : State} (hg : State.seamConverters_w g = false) {s : State} (h : Same g a s) (x2 : _) (x3 : _) :
    Same g a (State.seamConverters s x2 x3) := by
  simp only [State.seamConverters_w, Bool.or_eq_false_iff] at hg
  repeat (have := hg.2; replace hg := hg.1)
  unfold State.seamConverters
  repeat' first | intro _ | ((fail_if_no_progress extract_lets +onlyGivenNames z); first | (refine same_cut (a := a) (g := g) z ?_ fun hz => ?_) <;> [subst z; clear_value z] | subst z) | with_reducible first | assumption | apply State.each_same | apply wr_same | apply State.convTables_same (by assumption) | apply State.setCause_same (by assumption) | apply State.updTile_same (by assumption) | apply State.event_same (by assumption) | (unfold convSubField; split) | (unfold spareColField; split) | (unfold quotaField; split) | (unfold gateField; split) | (unfold readyField; split) | split

def State.repairHurry_w (g : Piece) : Bool := (g == .progq)

theorem State.repairHurry_same {g : Piece} {a : State} (hg : State.repairHurry_w g = false) {s : State} (h : Same g a s) (x2 : _) (x3 : _) (x4 : _) :
    Same g a (State.repairHurry s x2 x3 x4) := by
  simp only [State.repairHurry_w] at hg
  unfold State.repairHurry
  repeat' first | intro _ | with_reducible first | assumption | fail_if_no_progress apply same_mk_progq (by assumption) | apply same_ite | split

def State.rehome_w (g : Piece) : Bool := State.updReq_w g || State.takeSpare_w g || State.updRefresh_w g || State.noSpareFor_w g

theorem State.rehome_same {g : Piece} {a : State} (hg : State.rehome_w g = false) {s : State} (h : Same g a s) (x2 : _) (x3 : _) :
    Same g a (State.rehome s x2 x3) := by
  simp only [State.rehome_w, Bool.or_eq_false_iff] at hg
  repeat (have := hg.2; replace hg := hg.1)
  unfold State.rehome
  repeat' first | intro _ | ((fail_if_no_progress extract_lets +onlyGivenNames z); first | (refine same_cut (a := a) (g := g) z ?_ fun hz => ?_) <;> [subst z; clear_value z] | clear_value z) | with_reducible first | assumption | apply State.each_same | apply State.updReq_same (by assumption) | apply State.takeSpare_same (by assumption) | apply State.updRefresh_same (by assumption) | apply State.noSpareFor_same (by assumption) | apply same_ite | split

def State.contents_w (g : Piece) : Bool := State.updTile_w g || (g == .free)

theorem State.contents_same {g : Piece} {a : State} (hg : State.contents_w g = false) {s : State} (h : Same g a s) (x2 : _) (x3 : _) :
    Same g a (State.contents s x2 x3) := by
  simp only [State.contents_w, Bool.or_eq_false_iff] at hg
  repeat (have := hg.2; replace hg := hg.1)
  unfold State.contents
  repeat' first | intro _ | ((fail_if_no_progress extract_lets +onlyGivenNames z); clear_value z) | with_reducible first | assumption | apply State.updTile_same (by assumption) | fail_if_no_progress apply same_mk_free (by assumption) | apply same_ite | split

def State.progDone_w (g : Piece) : Bool := State.place_w g || State.retireDone_w g || State.toStaged_w g || State.layerSettings_w g || State.progTables_w g || State.measureLevels_w g || State.loadScales_w g || State.setTab_w g || State.updTile_w g || State.unready_w g || (g == .fld .TIL_EXTENT_COLS_M1) || (g == .fld .TIL_EXTENT_ROWS_M1) || (g == .fld .TIL_STATUS_STATE) || (g == .fld .TIL_PROGTIME_TIME) || (g == .fld .TIL_CHECK_FAILS) || (g == .fld .TIL_RSTITCHES_COUNT) || (g == .fld .TIL_STITCHES_COUNT) || (g == .aux .wear) || (g == .fld .PRG_ITERS_COUNT) || (g == .fld .PRG_TILES_COUNT) || (g == .aux .sigma0)

theorem State.progDone_same {g : Piece} {a : State} (hg : State.progDone_w g = false) {s : State} (h : Same g a s) (x2 : _) (x3 : _) (x4 : _) (x5 : _) :
    Same g a (State.progDone s x2 x3 x4 x5) := by
  simp only [State.progDone_w, Bool.or_eq_false_iff] at hg
  repeat (have := hg.2; replace hg := hg.1)
  unfold State.progDone
  repeat' first | intro _ | ((fail_if_no_progress extract_lets +onlyGivenNames z); first | (refine same_cut (a := a) (g := g) z ?_ fun hz => ?_) <;> [subst z; clear_value z] | clear_value z) | with_reducible first | assumption | apply State.place_same (by assumption) | apply wr_same (by assumption) | apply State.retireDone_same (by assumption) | apply State.toStaged_same (by assumption) | apply State.layerSettings_same (by assumption) | apply State.progTables_same (by assumption) | apply State.measureLevels_same (by assumption) | apply State.loadScales_same (by assumption) | apply setAx_same (by assumption) | apply bump_same (by assumption) | apply State.setTab_same (by assumption) | apply State.updTile_same (by assumption) | apply State.unready_same (by assumption) | apply same_ite | split

def State.addPulse_w (g : Piece) : Bool := State.updTile_w g || (g == .free)

theorem State.addPulse_same {g : Piece} {a : State} (hg : State.addPulse_w g = false) {s : State} (h : Same g a s) (x2 : _) (x3 : _) (x4 : _) (x5 : _) (x6 : _) :
    Same g a (State.addPulse s x2 x3 x4 x5 x6) := by
  simp only [State.addPulse_w, Bool.or_eq_false_iff] at hg
  repeat (have := hg.2; replace hg := hg.1)
  unfold State.addPulse
  repeat' first | intro _ | ((fail_if_no_progress extract_lets +onlyGivenNames z); clear_value z) | with_reducible first | assumption | apply State.updTile_same (by assumption) | fail_if_no_progress apply same_mk_free (by assumption)

def State.cellsStick_w (g : Piece) : Bool := State.updTile_w g

theorem State.cellsStick_same {g : Piece} {a : State} (hg : State.cellsStick_w g = false) {s : State} (h : Same g a s) (x2 : _) (x3 : _) (x4 : _) :
    Same g a (State.cellsStick s x2 x3 x4) := by
  simp only [State.cellsStick_w] at hg
  unfold State.cellsStick
  repeat' first | intro _ | ((fail_if_no_progress extract_lets +onlyGivenNames z); clear_value z) | with_reducible first | assumption | apply State.updTile_same (by assumption) | apply foldl_same | apply same_ite | split

def State.markSpareCols_w (g : Piece) : Bool := State.spareColFails_w g

theorem State.markSpareCols_same {g : Piece} {a : State} (hg : State.markSpareCols_w g = false) {s : State} (h : Same g a s) (x2 : _) (x3 : _) :
    Same g a (State.markSpareCols s x2 x3) := by
  simp only [State.markSpareCols_w] at hg
  unfold State.markSpareCols
  repeat' first | intro _ | with_reducible first | assumption | apply State.each_same | apply State.spareColFails_same (by assumption) | apply same_ite | split

def State.columnReplaced_w (g : Piece) : Bool := State.event_w g || (g == .fld .TIL_SPARES_SPARE_COLS_FREE) || (g == .fld .TIL_LASTGOOD_TIME) || (g == .fld .TIL_SPARECOL_BLK0) || (g == .fld .TIL_SPARECOL_BLK1) || (g == .fld .TIL_SPARECOL_BLK2) || (g == .fld .TIL_SPARECOL_BLK3)

theorem State.columnReplaced_same {g : Piece} {a : State} (hg : State.columnReplaced_w g = false) {s : State} (h : Same g a s) (x2 : _) (x3 : _) (x4 : _) (x5 : _) (x6 : _) :
    Same g a (State.columnReplaced s x2 x3 x4 x5 x6) := by
  simp only [State.columnReplaced_w, Bool.or_eq_false_iff] at hg
  repeat (have := hg.2; replace hg := hg.1)
  unfold State.columnReplaced
  repeat' first | intro _ | ((fail_if_no_progress extract_lets +onlyGivenNames z); first | (refine same_cut (a := a) (g := g) z ?_ fun hz => ?_) <;> [subst z; clear_value z] | subst z) | with_reducible first | assumption | apply wr_same | apply State.event_same (by assumption) | apply same_ite | (unfold convSubField; split) | (unfold spareColField; split) | (unfold quotaField; split) | (unfold gateField; split) | (unfold readyField; split) | split

def State.programColumns_w (g : Piece) : Bool := State.passes_w g || State.contents_w g || State.markSpareCols_w g || State.columnReplaced_w g || State.updTile_w g || (g == .fld .PRG_COLFAIL_COUNT) || (g == .free)

theorem State.programColumns_same {g : Piece} {a : State} (hg : State.programColumns_w g = false) {s : State} (h : Same g a s) (x2 : _) (x3 : _) (x4 : _) :
    Same g a (State.programColumns s x2 x3 x4).1 := by
  simp only [State.programColumns_w, Bool.or_eq_false_iff] at hg
  repeat (have := hg.2; replace hg := hg.1)
  unfold State.programColumns
  repeat' first | intro _ | ((fail_if_no_progress extract_lets +onlyGivenNames z); first | (refine same_cut (a := a) (g := g) z ?_ fun hz => ?_) <;> [subst z; clear_value z] | clear_value z) | with_reducible first | assumption | apply State.passes_same (by assumption) | apply State.contents_same (by assumption) | apply bump_same (by assumption) | apply State.markSpareCols_same (by assumption) | apply State.each_same | apply State.columnReplaced_same (by assumption) | apply State.updTile_same (by assumption) | fail_if_no_progress apply same_mk_free (by assumption) | apply same_ite | split

def State.clearDone_w (g : Piece) : Bool := State.updTile_w g || State.clearTabs_w g || (g == .fld .TIL_STATUS_STATE)

theorem State.clearDone_same {g : Piece} {a : State} (hg : State.clearDone_w g = false) {s : State} (h : Same g a s) (x2 : _) (x3 : _) (x4 : _) (x5 : _) :
    Same g a (State.clearDone s x2 x3 x4 x5) := by
  simp only [State.clearDone_w, Bool.or_eq_false_iff] at hg
  repeat (have := hg.2; replace hg := hg.1)
  unfold State.clearDone
  repeat' first | intro _ | ((fail_if_no_progress extract_lets +onlyGivenNames z); first | (refine same_cut (a := a) (g := g) z ?_ fun hz => ?_) <;> [subst z; clear_value z] | clear_value z) | with_reducible first | assumption | apply State.updTile_same (by assumption) | apply wr_same (by assumption) | apply State.clearTabs_same (by assumption) | apply foldl_same | apply same_ite | split

def State.spareFails_w (g : Piece) : Bool := State.pump_w g || State.markRetired_w g || State.rehome_w g || State.takeSpare_w g

theorem State.spareFails_same {g : Piece} {a : State} (hg : State.spareFails_w g = false) {s : State} (h : Same g a s) (x2 : _) (x3 : _) :
    Same g a (State.spareFails s x2 x3) := by
  simp only [State.spareFails_w, Bool.or_eq_false_iff] at hg
  repeat (have := hg.2; replace hg := hg.1)
  unfold State.spareFails
  repeat' first | intro _ | with_reducible first | assumption | apply State.pump_same (by assumption) | apply State.markRetired_same (by assumption) | apply State.rehome_same (by assumption) | apply State.takeSpare_same (by assumption)

end Sys2Proof.Machine
end

