-- ==== Sys2Proof/Laws/SameSlots.lean ====
section
/-!
SUPPORT. Laws/SameSlots.lean: what the operations of Machine/Slots.lean may change, and that they leave the rest alone.
-/

set_option linter.unusedTactic false
set_option linter.unusedSimpArgs false
set_option linter.unusedVariables false
set_option linter.tactic.unusedName false
set_option linter.unreachableTactic false

namespace Sys2Proof.Machine

def State.resumeWaits_w (g : Piece) : Bool := State.updReq_w g || State.startRefresh_w g || State.pump_w g || (g == .fld .TIL_STATUS_HOLD_CAUSE) || (g == .aux .pendHold)

theorem State.resumeWaits_same {g : Piece} {a : State} (hg : State.resumeWaits_w g = false) {s : State} (h : Same g a s) :
    Same g a (State.resumeWaits s) := by
  simp only [State.resumeWaits_w, Bool.or_eq_false_iff] at hg
  repeat (have := hg.2; replace hg := hg.1)
  unfold State.resumeWaits
  repeat' first | intro _ | ((fail_if_no_progress extract_lets +onlyGivenNames z); first | (refine same_cut (a := a) (g := g) z ?_ fun hz => ?_) <;> [subst z; clear_value z] | clear_value z) | with_reducible first | assumption | apply State.each_same | apply State.updReq_same (by assumption) | apply wr_same (by assumption) | apply setAx_same (by assumption) | apply State.startRefresh_same (by assumption) | apply State.pump_same (by assumption) | apply same_ite | split

def State.switchWatch_w (g : Piece) : Bool := (g == .aux .switchAt)

theorem State.switchWatch_same {g : Piece} {a : State} (hg : State.switchWatch_w g = false) {s : State} (h : Same g a s) (x2 : _) :
    Same g a (State.switchWatch s x2) := by
  simp only [State.switchWatch_w] at hg
  unfold State.switchWatch
  repeat' first | intro _ | with_reducible first | assumption | apply setAx_same (by assumption) | apply same_ite | split

def State.clearedCheck_w (g : Piece) : Bool := State.completeCmd_w g

theorem State.clearedCheck_same {g : Piece} {a : State} (hg : State.clearedCheck_w g = false) {s : State} (h : Same g a s) (x2 : _) :
    Same g a (State.clearedCheck s x2) := by
  simp only [State.clearedCheck_w] at hg
  unfold State.clearedCheck
  repeat' first | intro _ | with_reducible first | assumption | apply State.completeCmd_same (by assumption) | apply same_ite | split

def State.layerReplaced_w (g : Piece) : Bool := State.event_w g

theorem State.layerReplaced_same {g : Piece} {a : State} (hg : State.layerReplaced_w g = false) {s : State} (h : Same g a s) (x2 : _) :
    Same g a (State.layerReplaced s x2) := by
  simp only [State.layerReplaced_w] at hg
  unfold State.layerReplaced
  repeat' first | intro _ | with_reducible first | assumption | apply State.event_same (by assumption) | apply same_ite | split

def State.dropPanels_w (g : Piece) : Bool := (g == .panels)

theorem State.dropPanels_same {g : Piece} {a : State} (hg : State.dropPanels_w g = false) {s : State} (h : Same g a s) (x2 : _) (x3 : _) :
    Same g a (State.dropPanels s x2 x3) := by
  simp only [State.dropPanels_w] at hg
  unfold State.dropPanels
  repeat' first | intro _ | with_reducible first | assumption | fail_if_no_progress apply same_mk_panels (by assumption) | split

def State.prgHandback_w (g : Piece) : Bool := State.resetReg_w g || State.pump_w g || (g == .fld .PRG_STATUS_EXPERT) || (g == .fld .PRG_CTRL_HOLD)

theorem State.prgHandback_same {g : Piece} {a : State} (hg : State.prgHandback_w g = false) {s : State} (h : Same g a s) (x2 : _) :
    Same g a (State.prgHandback s x2) := by
  simp only [State.prgHandback_w, Bool.or_eq_false_iff] at hg
  repeat (have := hg.2; replace hg := hg.1)
  unfold State.prgHandback
  repeat' first | intro _ | ((fail_if_no_progress extract_lets +onlyGivenNames z); (refine same_cut (a := a) (g := g) z ?_ fun hz => ?_) <;> [subst z; clear_value z]) | with_reducible first | assumption | apply wr_same (by assumption) | apply State.resetReg_same (by assumption) | apply State.pump_same (by assumption)

def execPrgCtrlHandback_w (g : Piece) : Bool := State.order_w g || State.prgHandback_w g

theorem execPrgCtrlHandback_same {g : Piece} {a : State} (hg : execPrgCtrlHandback_w g = false) {s : State} (h : Same g a s) (x1 : _) (x2 : _) :
    SameR g a (execPrgCtrlHandback x1 x2 s) := by
  simp only [execPrgCtrlHandback_w, Bool.or_eq_false_iff] at hg
  repeat (have := hg.2; replace hg := hg.1)
  unfold execPrgCtrlHandback
  repeat' first | intro _ | with_reducible first | assumption | apply sameR_next | apply sameR_ite | apply State.order_same (by assumption) | apply State.when_same | apply State.prgHandback_same (by assumption) | apply same_ite | split

def State.precUndo_w (g : Piece) : Bool := (g == .aux .precWait) || (g == .aux .precBy) || (g == .fld .TIL_CTRL_PRECISION)

theorem State.precUndo_same {g : Piece} {a : State} (hg : State.precUndo_w g = false) {s : State} (h : Same g a s) (x2 : _) (x3 : _) :
    Same g a (State.precUndo s x2 x3) := by
  simp only [State.precUndo_w, Bool.or_eq_false_iff] at hg
  repeat (have := hg.2; replace hg := hg.1)
  unfold State.precUndo
  repeat' first | intro _ | with_reducible first | assumption | apply State.each_same | apply setAx_same (by assumption) | apply wr_same (by assumption) | split

def State.turnToClear_w (g : Piece) : Bool := State.unplace_w g || State.updReq_w g || State.showEngine_w g

theorem State.turnToClear_same {g : Piece} {a : State} (hg : State.turnToClear_w g = false) {s : State} (h : Same g a s) (x2 : _) :
    Same g a (State.turnToClear s x2) := by
  simp only [State.turnToClear_w, Bool.or_eq_false_iff] at hg
  repeat (have := hg.2; replace hg := hg.1)
  unfold State.turnToClear
  repeat' first | intro _ | ((fail_if_no_progress extract_lets +onlyGivenNames z); (refine same_cut (a := a) (g := g) z ?_ fun hz => ?_) <;> [subst z; clear_value z]) | with_reducible first | assumption | apply State.unplace_same (by assumption) | apply State.updReq_same (by assumption) | apply State.showEngine_same (by assumption) | split

def State.clearFor_w (g : Piece) : Bool := State.progPush_w g || State.wantHold_w g || State.endCal_w g

theorem State.clearFor_same {g : Piece} {a : State} (hg : State.clearFor_w g = false) {s : State} (h : Same g a s) (x2 : _) (x3 : _) (x4 : _) (x5 : _) :
    Same g a (State.clearFor s x2 x3 x4 x5) := by
  simp only [State.clearFor_w, Bool.or_eq_false_iff] at hg
  repeat (have := hg.2; replace hg := hg.1)
  unfold State.clearFor
  repeat' first | intro _ | with_reducible first | assumption | apply State.progPush_same (by assumption) | apply State.wantHold_same (by assumption) | apply State.endCal_same (by assumption)

def State.progUndo_w (g : Piece) : Bool := State.precUndo_w g || State.endSlotCmd_w g || State.turnToClear_w g || State.clearFor_w g || State.wantJoin_w g || State.dropPanels_w g || (g == .panels) || (g == .maps)

theorem State.progUndo_same {g : Piece} {a : State} (hg : State.progUndo_w g = false) {s : State} (h : Same g a s) (x2 : _) (x3 : _) (x4 : _) (x5 : _) :
    Same g a (State.progUndo s x2 x3 x4 x5) := by
  simp only [State.progUndo_w, Bool.or_eq_false_iff] at hg
  repeat (have := hg.2; replace hg := hg.1)
  unfold State.progUndo
  repeat' first | intro _ | ((fail_if_no_progress extract_lets +onlyGivenNames z); first | (refine same_cut (a := a) (g := g) z ?_ fun hz => ?_) <;> [subst z; clear_value z] | clear_value z) | with_reducible first | assumption | apply State.precUndo_same (by assumption) | apply State.endSlotCmd_same (by assumption) | apply State.each_same | apply State.turnToClear_same (by assumption) | apply State.clearFor_same (by assumption) | apply State.wantJoin_same (by assumption) | apply State.dropPanels_same (by assumption) | fail_if_no_progress apply same_mk_maps (by assumption) | fail_if_no_progress apply same_mk_panels (by assumption) | split

def State.replLayer_w (g : Piece) : Bool := State.completeCmd_w g || State.useImage_w g || State.wantHold_w g || State.progUndo_w g || State.endSlotCmd_w g || (g == .maps) || (g == .repls)

theorem State.replLayer_same {g : Piece} {a : State} (hg : State.replLayer_w g = false) {s : State} (h : Same g a s) (x2 : _) :
    Same g a (State.replLayer s x2) := by
  simp only [State.replLayer_w, Bool.or_eq_false_iff] at hg
  repeat (have := hg.2; replace hg := hg.1)
  unfold State.replLayer
  repeat' first | intro _ | ((fail_if_no_progress extract_lets +onlyGivenNames z); first | (refine same_cut (a := a) (g := g) z ?_ fun hz => ?_) <;> [subst z; clear_value z] | clear_value z) | with_reducible first | assumption | apply State.completeCmd_same (by assumption) | apply State.useImage_same (by assumption) | apply State.each_same | apply State.wantHold_same (by assumption) | apply State.progUndo_same (by assumption) | apply State.endSlotCmd_same (by assumption) | fail_if_no_progress apply same_mk_maps_repls (by assumption) (by assumption) | fail_if_no_progress apply same_mk_repls (by assumption) | apply same_ite | split

def State.slotCmd_w (g : Piece) : Bool := State.completeCmd_w g

theorem State.slotCmd_same {g : Piece} {a : State} (hg : State.slotCmd_w g = false) {s : State} (h : Same g a s) (x2 : _) (x3 : _) (x4 : _) (x5 : _) (hx5 : ∀ y0 y1, Same g a y0 → Same g a (x5 y0 y1)) :
    Same g a (State.slotCmd s x2 x3 x4 x5) := by
  simp only [State.slotCmd_w] at hg
  unfold State.slotCmd
  repeat' first | intro _ | with_reducible first | assumption | apply hx5 | apply State.runCmd_same | apply State.completeCmd_same (by assumption) | apply same_ite | split

def State.requestSwitch_w (g : Piece) : Bool := State.switchWatch_w g || (g == .aux .switchAt) || (g == .aux .switchTarget)

theorem State.requestSwitch_same {g : Piece} {a : State} (hg : State.requestSwitch_w g = false) {s : State} (h : Same g a s) (x2 : _) (x3 : _) :
    Same g a (State.requestSwitch s x2 x3) := by
  simp only [State.requestSwitch_w, Bool.or_eq_false_iff] at hg
  repeat (have := hg.2; replace hg := hg.1)
  unfold State.requestSwitch
  repeat' first | intro _ | with_reducible first | assumption | apply State.switchWatch_same (by assumption) | apply setAx_same (by assumption) | apply same_ite | split

def State.mapCheck_w (g : Piece) : Bool := State.event_w g || State.updMap_w g || State.completeCmd_w g || State.requestSwitch_w g

theorem State.mapCheck_same {g : Piece} {a : State} (hg : State.mapCheck_w g = false) {s : State} (h : Same g a s) (x2 : _) (x3 : _) :
    Same g a (State.mapCheck s x2 x3) := by
  simp only [State.mapCheck_w, Bool.or_eq_false_iff] at hg
  repeat (have := hg.2; replace hg := hg.1)
  unfold State.mapCheck
  repeat' first | intro _ | ((fail_if_no_progress extract_lets +onlyGivenNames z); (refine same_cut (a := a) (g := g) z ?_ fun hz => ?_) <;> [subst z; clear_value z]) | with_reducible first | assumption | apply State.event_same (by assumption) | apply State.updMap_same (by assumption) | apply State.completeCmd_same (by assumption) | apply State.requestSwitch_same (by assumption) | apply same_ite | split

def State.mapCheckOf_w (g : Piece) : Bool := State.mapCheck_w g

theorem State.mapCheckOf_same {g : Piece} {a : State} (hg : State.mapCheckOf_w g = false) {s : State} (h : Same g a s) (x2 : _) (x3 : _) :
    Same g a (State.mapCheckOf s x2 x3) := by
  simp only [State.mapCheckOf_w] at hg
  unfold State.mapCheckOf
  repeat' first | intro _ | with_reducible first | assumption | apply State.mapCheck_same (by assumption) | split

def State.turnPanels_w (g : Piece) : Bool := (g == .panels)

theorem State.turnPanels_same {g : Piece} {a : State} (hg : State.turnPanels_w g = false) {s : State} (h : Same g a s) (x2 : _) (x3 : _) (x4 : _) :
    Same g a (State.turnPanels s x2 x3 x4) := by
  simp only [State.turnPanels_w] at hg
  unfold State.turnPanels
  repeat' first | intro _ | ((fail_if_no_progress extract_lets +onlyGivenNames z); clear_value z) | with_reducible first | assumption | fail_if_no_progress apply same_mk_panels (by assumption) | split

def State.copyPanel_w (g : Piece) : Bool := State.clearRange_w g || (g == .mem) || (g == .devMem)

theorem State.copyPanel_same {g : Piece} {a : State} (hg : State.copyPanel_w g = false) {s : State} (h : Same g a s) (x2 : _) (x3 : _) :
    Same g a (State.copyPanel s x2 x3) := by
  simp only [State.copyPanel_w, Bool.or_eq_false_iff] at hg
  repeat (have := hg.2; replace hg := hg.1)
  unfold State.copyPanel
  repeat' first | intro _ | ((fail_if_no_progress extract_lets +onlyGivenNames z); first | (refine same_cut (a := a) (g := g) z ?_ fun hz => ?_) <;> [subst z; clear_value z] | clear_value z) | with_reducible first | assumption | apply State.clearRange_same (by assumption) | fail_if_no_progress apply same_mk_mem (by assumption) (by assumption) | split

def State.replProgram_w (g : Piece) : Bool := State.progPush_w g || State.turnPanels_w g || State.copyPanel_w g || (g == .repls)

theorem State.replProgram_same {g : Piece} {a : State} (hg : State.replProgram_w g = false) {s : State} (h : Same g a s) (x2 : _) (x3 : _) (x4 : _) :
    Same g a (State.replProgram s x2 x3 x4) := by
  simp only [State.replProgram_w, Bool.or_eq_false_iff] at hg
  repeat (have := hg.2; replace hg := hg.1)
  unfold State.replProgram
  repeat' first | intro _ | ((fail_if_no_progress extract_lets +onlyGivenNames z); first | (refine same_cut (a := a) (g := g) z ?_ fun hz => ?_) <;> [subst z; clear_value z] | clear_value z) | with_reducible first | assumption | apply State.each_same | apply State.progPush_same (by assumption) | apply State.turnPanels_same (by assumption) | apply State.copyPanel_same (by assumption) | fail_if_no_progress apply same_mk_repls (by assumption) | apply same_ite | split

def State.replSeam_w (g : Piece) : Bool := State.replProgram_w g || State.replLayer_w g || State.layerReplaced_w g || State.progUndo_w g

theorem State.replSeam_same {g : Piece} {a : State} (hg : State.replSeam_w g = false) {s : State} (h : Same g a s) (x2 : _) :
    Same g a (State.replSeam s x2) := by
  simp only [State.replSeam_w, Bool.or_eq_false_iff] at hg
  repeat (have := hg.2; replace hg := hg.1)
  unfold State.replSeam
  repeat' first | intro _ | ((fail_if_no_progress extract_lets +onlyGivenNames z); clear_value z) | with_reducible first | assumption | apply State.replProgram_same (by assumption) | apply State.replLayer_same (by assumption) | apply State.layerReplaced_same (by assumption) | apply State.progUndo_same (by assumption) | apply same_ite | split

def State.copyEntries_w (g : Piece) : Bool := State.setTab_w g

theorem State.copyEntries_same {g : Piece} {a : State} (hg : State.copyEntries_w g = false) {s : State} (h : Same g a s) (x2 : _) (x3 : _) (x4 : _) :
    Same g a (State.copyEntries s x2 x3 x4) := by
  simp only [State.copyEntries_w] at hg
  unfold State.copyEntries
  repeat' first | intro _ | ((fail_if_no_progress extract_lets +onlyGivenNames z); first | (refine same_cut (a := a) (g := g) z ?_ fun hz => ?_) <;> [subst z; clear_value z] | clear_value z) | with_reducible first | assumption | apply State.each_same | apply State.setTab_same (by assumption)

def State.calForMap_w (g : Piece) : Bool := State.queueCal_w g

theorem State.calForMap_same {g : Piece} {a : State} (hg : State.calForMap_w g = false) {s : State} (h : Same g a s) (x2 : _) (x3 : _) :
    Same g a (State.calForMap s x2 x3) := by
  simp only [State.calForMap_w] at hg
  unfold State.calForMap
  repeat' first | intro _ | with_reducible first | assumption | apply State.queueCal_same (by assumption) | apply same_ite | split

def State.columnFinish_w (g : Piece) : Bool := State.passes_w g || State.releaseEngine_w g || State.pump_w g || State.replaceTile_w g || State.markSpareCols_w g || State.copyEntries_w g || State.columnReplaced_w g || State.updTile_w g || State.measureLevels_w g || State.toStaged_w g || State.calForMap_w g || State.wantJoin_w g || (g == .fld .PRG_COLFAIL_COUNT) || (g == .fld .TIL_STATUS_HOLD_CAUSE) || (g == .fld .TIL_STATUS_STATE) || (g == .fld .PRG_ITERS_COUNT)

theorem State.columnFinish_same {g : Piece} {a : State} (hg : State.columnFinish_w g = false) {s : State} (h : Same g a s) (x2 : _) (x3 : _) :
    Same g a (State.columnFinish s x2 x3) := by
  simp only [State.columnFinish_w, Bool.or_eq_false_iff] at hg
  repeat (have := hg.2; replace hg := hg.1)
  unfold State.columnFinish
  repeat' first | intro _ | ((fail_if_no_progress extract_lets +onlyGivenNames z); first | (refine same_cut (a := a) (g := g) z ?_ fun hz => ?_) <;> [subst z; clear_value z] | clear_value z) | with_reducible first | assumption | apply State.passes_same (by assumption) | apply State.releaseEngine_same (by assumption) | apply bump_same (by assumption) | apply State.pump_same (by assumption) | apply State.replaceTile_same (by assumption) | apply State.markSpareCols_same (by assumption) | apply State.each_same | apply State.copyEntries_same (by assumption) | apply State.columnReplaced_same (by assumption) | apply State.updTile_same (by assumption) | apply State.measureLevels_same (by assumption) | apply wr_same (by assumption) | apply State.toStaged_same (by assumption) | apply State.calForMap_same (by assumption) | apply State.wantJoin_same (by assumption) | apply foldl_same | apply same_ite | split

def State.prgHold_w (g : Piece) : Bool := State.pump_w g || (g == .fld .PRG_STATUS_EXPERT) || (g == .fld .PRG_CTRL_HOLD)

theorem State.prgHold_same {g : Piece} {a : State} (hg : State.prgHold_w g = false) {s : State} (h : Same g a s) (x2 : _) (x3 : _) :
    Same g a (State.prgHold s x2 x3) := by
  simp only [State.prgHold_w, Bool.or_eq_false_iff] at hg
  repeat (have := hg.2; replace hg := hg.1)
  unfold State.prgHold
  repeat' first | intro _ | ((fail_if_no_progress extract_lets +onlyGivenNames z); (refine same_cut (a := a) (g := g) z ?_ fun hz => ?_) <;> [subst z; clear_value z]) | with_reducible first | assumption | apply wr_same (by assumption) | apply State.pump_same (by assumption) | apply same_ite | split

def State.programBlocks_w (g : Piece) : Bool := State.progPush_w g

theorem State.programBlocks_same {g : Piece} {a : State} (hg : State.programBlocks_w g = false) {s : State} (h : Same g a s) (x2 : _) (x3 : _) (x4 : _) (x5 : _) (x6 : _) :
    Same g a (State.programBlocks s x2 x3 x4 x5 x6) := by
  simp only [State.programBlocks_w] at hg
  unfold State.programBlocks
  repeat' first | intro _ | ((fail_if_no_progress extract_lets +onlyGivenNames z); clear_value z) | with_reducible first | assumption | apply State.each_same | apply State.progPush_same (by assumption) | split

def execClearFinish_w (g : Piece) : Bool := State.updReq_w g || State.clearDone_w g || State.capUpdate_w g || State.showEngine_w g || State.retireDone_w g || State.endOp_w g || State.releaseEngine_w g || State.clearedCheck_w g || State.pump_w g || (g == .fld .TIL_STATUS_REPLACES)

theorem execClearFinish_same {g : Piece} {a : State} (hg : execClearFinish_w g = false) {s : State} (h : Same g a s) (x1 : _) (x2 : _) (x3 : _) :
    SameR g a (execClearFinish x1 x2 x3 s) := by
  simp only [execClearFinish_w, Bool.or_eq_false_iff] at hg
  repeat (have := hg.2; replace hg := hg.1)
  unfold execClearFinish
  repeat' first | intro _ | ((fail_if_no_progress extract_lets +onlyGivenNames z); (refine same_cut (a := a) (g := g) z ?_ fun hz => ?_) <;> [subst z; clear_value z]) | with_reducible first | assumption | apply sameR_next | apply sameR_ite | apply State.updReq_same (by assumption) | apply State.clearDone_same (by assumption) | apply State.capUpdate_same (by assumption) | apply State.showEngine_same (by assumption) | apply State.retireDone_same (by assumption) | apply State.endOp_same (by assumption) | apply State.releaseEngine_same (by assumption) | apply wr_same (by assumption) | apply State.clearedCheck_same (by assumption) | apply State.pump_same (by assumption) | apply same_ite | split

def State.replaceFinish_w (g : Piece) : Bool := State.retireDone_w g || State.releaseEngine_w g || State.unplace_w g || State.markRetired_w g || State.progDone_w g || State.updTile_w g || State.setCause_w g || State.pump_w g || State.mapCheckOf_w g || State.queueCal_w g

theorem State.replaceFinish_same {g : Piece} {a : State} (hg : State.replaceFinish_w g = false) {s : State} (h : Same g a s) (x2 : _) (x3 : _) :
    Same g a (State.replaceFinish s x2 x3) := by
  simp only [State.replaceFinish_w, Bool.or_eq_false_iff] at hg
  repeat (have := hg.2; replace hg := hg.1)
  unfold State.replaceFinish
  repeat' first | intro _ | ((fail_if_no_progress extract_lets +onlyGivenNames z); first | (refine same_cut (a := a) (g := g) z ?_ fun hz => ?_) <;> [subst z; clear_value z] | clear_value z) | with_reducible first | assumption | apply State.retireDone_same (by assumption) | apply State.releaseEngine_same (by assumption) | apply State.unplace_same (by assumption) | apply State.markRetired_same (by assumption) | apply State.progDone_same (by assumption) | apply State.updTile_same (by assumption) | apply State.setCause_same (by assumption) | apply State.pump_same (by assumption) | apply State.mapCheckOf_same (by assumption) | apply State.queueCal_same (by assumption)

def State.slotMatch_w (g : Piece) : Bool := State.requestSwitch_w g || (g == .aux .switchAt) || (g == .aux .switchTarget)

theorem State.slotMatch_same {g : Piece} {a : State} (hg : State.slotMatch_w g = false) {s : State} (h : Same g a s) (x2 : _) (x3 : _) :
    Same g a (State.slotMatch s x2 x3) := by
  simp only [State.slotMatch_w, Bool.or_eq_false_iff] at hg
  repeat (have := hg.2; replace hg := hg.1)
  unfold State.slotMatch
  repeat' first | intro _ | with_reducible first | assumption | apply State.requestSwitch_same (by assumption) | apply setAx_same (by assumption) | apply same_ite | split

def State.slotInfo_w (g : Piece) : Bool := State.completeCmd_w g || (g == .mem) || (g == .devMem)

theorem State.slotInfo_same {g : Piece} {a : State} (hg : State.slotInfo_w g = false) {s : State} (h : Same g a s) (x2 : _) :
    Same g a (State.slotInfo s x2) := by
  simp only [State.slotInfo_w, Bool.or_eq_false_iff] at hg
  repeat (have := hg.2; replace hg := hg.1)
  unfold State.slotInfo
  repeat' first | intro _ | ((fail_if_no_progress extract_lets +onlyGivenNames z); first | (refine same_cut (a := a) (g := g) z ?_ fun hz => ?_) <;> [subst z; clear_value z] | clear_value z) | with_reducible first | assumption | apply State.completeCmd_same (by assumption) | fail_if_no_progress apply same_mk_mem (by assumption) (by assumption)

def execSlotInfo_w (g : Piece) : Bool := State.slotCmd_w g || State.slotInfo_w g

theorem execSlotInfo_same {g : Piece} {a : State} (hg : execSlotInfo_w g = false) {s : State} (h : Same g a s) (x1 : _) :
    SameR g a (execSlotInfo x1 s) := by
  simp only [execSlotInfo_w, Bool.or_eq_false_iff] at hg
  repeat (have := hg.2; replace hg := hg.1)
  unfold execSlotInfo
  repeat' first | intro _ | with_reducible first | assumption | apply sameR_next | apply State.slotCmd_same (by assumption) | apply State.slotInfo_same (by assumption)

def State.flagFor_w (g : Piece) : Bool := State.setPrecision_w g || (g == .aux .precBy)

theorem State.flagFor_same {g : Piece} {a : State} (hg : State.flagFor_w g = false) {s : State} (h : Same g a s) (x2 : _) :
    Same g a (State.flagFor s x2) := by
  simp only [State.flagFor_w, Bool.or_eq_false_iff] at hg
  repeat (have := hg.2; replace hg := hg.1)
  unfold State.flagFor
  repeat' first | intro _ | with_reducible first | assumption | apply setAx_same (by assumption) | apply State.setPrecision_same (by assumption)

def State.freeMap_w (g : Piece) : Bool := State.dropPanels_w g || State.dropRefresh_w g || State.endCal_w g || State.unplace_w g || State.takePending_w g || State.toStaged_w g || State.progPush_w g || (g == .maps) || (g == .progq)

theorem State.freeMap_same {g : Piece} {a : State} (hg : State.freeMap_w g = false) {s : State} (h : Same g a s) (x2 : _) (x3 : _) (x4 : _) :
    Same g a (State.freeMap s x2 x3 x4) := by
  simp only [State.freeMap_w, Bool.or_eq_false_iff] at hg
  repeat (have := hg.2; replace hg := hg.1)
  unfold State.freeMap
  repeat' first | intro _ | ((fail_if_no_progress extract_lets +onlyGivenNames z); first | (refine same_cut (a := a) (g := g) z ?_ fun hz => ?_) <;> [subst z; clear_value z] | clear_value z) | with_reducible first | assumption | apply State.dropPanels_same (by assumption) | apply State.each_same | apply State.dropRefresh_same (by assumption) | apply State.endCal_same (by assumption) | apply State.unplace_same (by assumption) | apply State.takePending_same (by assumption) | apply State.toStaged_same (by assumption) | apply State.progPush_same (by assumption) | fail_if_no_progress apply same_mk_maps (by assumption) | fail_if_no_progress apply same_mk_progq (by assumption) | apply same_ite | split

def State.mapFree_w (g : Piece) : Bool := State.completeCmd_w g || State.clearedCheck_w g || State.freeMap_w g || State.cmdRunning_w g

theorem State.mapFree_same {g : Piece} {a : State} (hg : State.mapFree_w g = false) {s : State} (h : Same g a s) (x2 : _) :
    Same g a (State.mapFree s x2) := by
  simp only [State.mapFree_w, Bool.or_eq_false_iff] at hg
  repeat (have := hg.2; replace hg := hg.1)
  unfold State.mapFree
  repeat' first | intro _ | ((fail_if_no_progress extract_lets +onlyGivenNames z); clear_value z) | with_reducible first | assumption | apply State.completeCmd_same (by assumption) | apply State.clearedCheck_same (by assumption) | apply State.freeMap_same (by assumption) | apply State.cmdRunning_same (by assumption) | apply same_ite | split

def execMapFree_w (g : Piece) : Bool := State.slotCmd_w g || State.mapFree_w g

theorem execMapFree_same {g : Piece} {a : State} (hg : execMapFree_w g = false) {s : State} (h : Same g a s) (x1 : _) :
    SameR g a (execMapFree x1 s) := by
  simp only [execMapFree_w, Bool.or_eq_false_iff] at hg
  repeat (have := hg.2; replace hg := hg.1)
  unfold execMapFree
  repeat' first | intro _ | with_reducible first | assumption | apply sameR_next | apply State.slotCmd_same (by assumption) | apply State.mapFree_same (by assumption)

def State.takePanels_w (g : Piece) : Bool := (g == .panels)

theorem State.takePanels_same {g : Piece} {a : State} (hg : State.takePanels_w g = false) {s : State} (h : Same g a s) (x2 : _) (x3 : _) (x4 : _) (x5 : _) :
    SameO g a (State.takePanels s x2 x3 x4 x5) := by
  simp only [State.takePanels_w] at hg
  induction x5 generalizing s <;> [skip; rename_i ih]
  all_goals unfold State.takePanels
  repeat' first | intro _ | ((fail_if_no_progress extract_lets +onlyGivenNames z); first | (refine same_cut (a := a) (g := g) z ?_ fun hz => ?_) <;> [subst z; clear_value z] | clear_value z) | with_reducible first | assumption | apply sameO_none | apply sameO_some | apply sameO_ite | fail_if_no_progress apply same_mk_panels (by assumption) | apply same_ite | apply ih | split

def State.reservePanels_w (g : Piece) : Bool := State.takePanels_w g

theorem State.reservePanels_same {g : Piece} {a : State} (hg : State.reservePanels_w g = false) {s : State} (h : Same g a s) (x2 : _) (x3 : _) (x4 : _) :
    SameO g a (State.reservePanels s x2 x3 x4) := by
  simp only [State.reservePanels_w] at hg
  unfold State.reservePanels
  repeat' first | intro _ | with_reducible first | assumption | apply sameO_none | apply sameO_some | apply sameO_ite | apply State.takePanels_same (by assumption) | apply same_ite | refine same_ofO (by assumption) ?_ | split

def State.slotFreed_w (g : Piece) : Bool := State.capUpdate_w g || State.clearedCheck_w g || State.freeMap_w g || (g == .aux .slotLost) || (g == .aux .switchAt) || (g == .aux .switchTarget) || (g == .aux .activeMap) || (g == .aux .seamAt)

theorem State.slotFreed_same {g : Piece} {a : State} (hg : State.slotFreed_w g = false) {s : State} (h : Same g a s) (x2 : _) :
    Same g a (State.slotFreed s x2) := by
  simp only [State.slotFreed_w, Bool.or_eq_false_iff] at hg
  repeat (have := hg.2; replace hg := hg.1)
  unfold State.slotFreed
  repeat' first | intro _ | ((fail_if_no_progress extract_lets +onlyGivenNames z); first | (refine same_cut (a := a) (g := g) z ?_ fun hz => ?_) <;> [subst z; clear_value z] | clear_value z) | with_reducible first | assumption | apply State.capUpdate_same (by assumption) | apply setAx_same (by assumption) | apply State.clearedCheck_same (by assumption) | apply State.freeMap_same (by assumption)

def State.slotFree_w (g : Piece) : Bool := State.completeCmd_w g || State.grantSet_w g || State.cmdRunning_w g || State.slotFreed_w g

theorem State.slotFree_same {g : Piece} {a : State} (hg : State.slotFree_w g = false) {s : State} (h : Same g a s) (x2 : _) :
    Same g a (State.slotFree s x2) := by
  simp only [State.slotFree_w, Bool.or_eq_false_iff] at hg
  repeat (have := hg.2; replace hg := hg.1)
  unfold State.slotFree
  repeat' first | intro _ | ((fail_if_no_progress extract_lets +onlyGivenNames z); first | (refine same_cut (a := a) (g := g) z ?_ fun hz => ?_) <;> [subst z; clear_value z] | clear_value z) | with_reducible first | assumption | apply State.completeCmd_same (by assumption) | apply State.each_same | apply State.grantSet_same (by assumption) | apply State.cmdRunning_same (by assumption) | apply State.slotFreed_same (by assumption) | apply same_ite | split

def execSlotFree_w (g : Piece) : Bool := State.slotCmd_w g || State.slotFree_w g

theorem execSlotFree_same {g : Piece} {a : State} (hg : execSlotFree_w g = false) {s : State} (h : Same g a s) (x1 : _) :
    SameR g a (execSlotFree x1 s) := by
  simp only [execSlotFree_w, Bool.or_eq_false_iff] at hg
  repeat (have := hg.2; replace hg := hg.1)
  unfold execSlotFree
  repeat' first | intro _ | with_reducible first | assumption | apply sameR_next | apply State.slotCmd_same (by assumption) | apply State.slotFree_same (by assumption)

def execPrgCtrlHoldWrite_w (g : Piece) : Bool := State.order_w g || State.prgHold_w g

theorem execPrgCtrlHoldWrite_same {g : Piece} {a : State} (hg : execPrgCtrlHoldWrite_w g = false) {s : State} (h : Same g a s) (x1 : _) (x2 : _) :
    SameR g a (execPrgCtrlHoldWrite x1 x2 s) := by
  simp only [execPrgCtrlHoldWrite_w, Bool.or_eq_false_iff] at hg
  repeat (have := hg.2; replace hg := hg.1)
  unfold execPrgCtrlHoldWrite
  repeat' first | intro _ | with_reducible first | assumption | apply sameR_next | apply sameR_ite | apply State.order_same (by assumption) | apply State.prgHold_same (by assumption) | apply same_ite | split

def State.slotReplace_w (g : Piece) : Bool := State.completeCmd_w g || State.reservePanels_w g || State.replLayer_w g || State.useImage_w g || State.cmdRunning_w g

theorem State.slotReplace_same {g : Piece} {a : State} (hg : State.slotReplace_w g = false) {s : State} (h : Same g a s) (x2 : _) :
    Same g a (State.slotReplace s x2) := by
  simp only [State.slotReplace_w, Bool.or_eq_false_iff] at hg
  repeat (have := hg.2; replace hg := hg.1)
  unfold State.slotReplace
  repeat' first | intro _ | ((fail_if_no_progress extract_lets +onlyGivenNames z); clear_value z) | with_reducible first | assumption | apply State.completeCmd_same (by assumption) | apply State.reservePanels_same (by assumption) | apply State.replLayer_same (by assumption) | apply State.useImage_same (by assumption) | apply State.cmdRunning_same (by assumption) | apply same_ite | refine same_ofO (by assumption) ?_ | split

def execRepairDone_w (g : Piece) : Bool := State.columnFinish_w g || State.programColumns_w g || State.replaceFinish_w g || State.moveToSpare_w g

theorem execRepairDone_same {g : Piece} {a : State} (hg : execRepairDone_w g = false) {s : State} (h : Same g a s) (x1 : _) (x2 : _) (x3 : _) :
    SameR g a (execRepairDone x1 x2 x3 s) := by
  simp only [execRepairDone_w, Bool.or_eq_false_iff] at hg
  repeat (have := hg.2; replace hg := hg.1)
  unfold execRepairDone
  repeat' first | intro _ | ((fail_if_no_progress extract_lets +onlyGivenNames z); (refine same_cut1 (a := a) (g := g) z ?_ fun hz => ?_) <;> [subst z; clear_value z]) | with_reducible first | assumption | apply sameR_next | apply sameR_ite | apply State.columnFinish_same (by assumption) | apply State.programColumns_same (by assumption) | apply State.replaceFinish_same (by assumption) | apply State.moveToSpare_same (by assumption) | apply same_ite | refine same_of1 (by assumption) ?_ | split

def State.storeWrite_w (g : Piece) : Bool := (g == .fld .PRG_STATUS_REFUSED) || (g == .fld .PRG_STORE_GIB)

theorem State.storeWrite_same {g : Piece} {a : State} (hg : State.storeWrite_w g = false) {s : State} (h : Same g a s) (x2 : _) (x3 : _) :
    Same g a (State.storeWrite s x2 x3) := by
  simp only [State.storeWrite_w, Bool.or_eq_false_iff] at hg
  repeat (have := hg.2; replace hg := hg.1)
  unfold State.storeWrite
  repeat' first | intro _ | ((fail_if_no_progress extract_lets +onlyGivenNames z); clear_value z) | with_reducible first | assumption | apply wr_same (by assumption) | apply same_ite | split

def execPrgStoreWrite_w (g : Piece) : Bool := State.order_w g || State.storeWrite_w g

theorem execPrgStoreWrite_same {g : Piece} {a : State} (hg : execPrgStoreWrite_w g = false) {s : State} (h : Same g a s) (x1 : _) (x2 : _) :
    SameR g a (execPrgStoreWrite x1 x2 s) := by
  simp only [execPrgStoreWrite_w, Bool.or_eq_false_iff] at hg
  repeat (have := hg.2; replace hg := hg.1)
  unfold execPrgStoreWrite
  repeat' first | intro _ | with_reducible first | assumption | apply sameR_next | apply sameR_ite | apply State.order_same (by assumption) | apply State.storeWrite_same (by assumption) | apply same_ite | split

def execSlotReplace_w (g : Piece) : Bool := State.slotCmd_w g || State.slotReplace_w g

theorem execSlotReplace_same {g : Piece} {a : State} (hg : execSlotReplace_w g = false) {s : State} (h : Same g a s) (x1 : _) :
    SameR g a (execSlotReplace x1 s) := by
  simp only [execSlotReplace_w, Bool.or_eq_false_iff] at hg
  repeat (have := hg.2; replace hg := hg.1)
  unfold execSlotReplace
  repeat' first | intro _ | with_reducible first | assumption | apply sameR_next | apply State.slotCmd_same (by assumption) | apply State.slotReplace_same (by assumption)

def State.bind_w (g : Piece) : Bool := State.useImage_w g || (g == .maps)

theorem State.bind_same {g : Piece} {a : State} (hg : State.bind_w g = false) {s : State} (h : Same g a s) (x2 : _) (x3 : _) (x4 : _) :
    Same g a (State.bind s x2 x3 x4) := by
  simp only [State.bind_w, Bool.or_eq_false_iff] at hg
  repeat (have := hg.2; replace hg := hg.1)
  unfold State.bind
  repeat' first | intro _ | ((fail_if_no_progress extract_lets +onlyGivenNames z); (refine same_cut (a := a) (g := g) z ?_ fun hz => ?_) <;> [subst z; clear_value z]) | with_reducible first | assumption | apply State.useImage_same (by assumption) | fail_if_no_progress apply same_mk_maps (by assumption) | split

def State.slotProgram_w (g : Piece) : Bool := State.completeCmd_w g || State.takePanels_w g || State.dropPanels_w g || State.bind_w g || State.copyPanel_w g || State.mapCheck_w g || State.programBlocks_w g || State.cmdRunning_w g

theorem State.slotProgram_same {g : Piece} {a : State} (hg : State.slotProgram_w g = false) {s : State} (h : Same g a s) (x2 : _) :
    Same g a (State.slotProgram s x2) := by
  simp only [State.slotProgram_w, Bool.or_eq_false_iff] at hg
  repeat (have := hg.2; replace hg := hg.1)
  unfold State.slotProgram
  repeat' first | intro _ | ((fail_if_no_progress extract_lets +onlyGivenNames z); first | (refine same_cut (a := a) (g := g) z ?_ fun hz => ?_) <;> [subst z; clear_value z] | clear_value z) | with_reducible first | assumption | apply State.completeCmd_same (by assumption) | apply State.takePanels_same (by assumption) | apply State.dropPanels_same (by assumption) | apply State.each_same | apply State.bind_same (by assumption) | apply State.copyPanel_same (by assumption) | apply State.mapCheck_same (by assumption) | apply State.programBlocks_same (by assumption) | apply State.cmdRunning_same (by assumption) | apply same_ite | refine same_ofO (by assumption) ?_ | split

def execSlotProgram_w (g : Piece) : Bool := State.slotCmd_w g || State.slotProgram_w g

theorem execSlotProgram_same {g : Piece} {a : State} (hg : execSlotProgram_w g = false) {s : State} (h : Same g a s) (x1 : _) :
    SameR g a (execSlotProgram x1 s) := by
  simp only [execSlotProgram_w, Bool.or_eq_false_iff] at hg
  repeat (have := hg.2; replace hg := hg.1)
  unfold execSlotProgram
  repeat' first | intro _ | with_reducible first | assumption | apply sameR_next | apply State.slotCmd_same (by assumption) | apply State.slotProgram_same (by assumption)

def State.prgClear_w (g : Piece) : Bool := (g == .fld .PRG_MAXLATE_LATENESS) || (g == .fld .PRG_LATECNT_COUNT) || (g == .fld .PRG_COLFAIL_COUNT) || (g == .fld .PRG_ITERS_COUNT) || (g == .fld .PRG_TILES_COUNT)

theorem State.prgClear_same {g : Piece} {a : State} (hg : State.prgClear_w g = false) {s : State} (h : Same g a s) (x2 : _) :
    Same g a (State.prgClear s x2) := by
  simp only [State.prgClear_w, Bool.or_eq_false_iff] at hg
  repeat (have := hg.2; replace hg := hg.1)
  unfold State.prgClear
  repeat' first | intro _ | with_reducible first | assumption | apply wr_same (by assumption)

def execPrgCtrlClear_w (g : Piece) : Bool := State.order_w g || State.prgClear_w g

theorem execPrgCtrlClear_same {g : Piece} {a : State} (hg : execPrgCtrlClear_w g = false) {s : State} (h : Same g a s) (x1 : _) (x2 : _) :
    SameR g a (execPrgCtrlClear x1 x2 s) := by
  simp only [execPrgCtrlClear_w, Bool.or_eq_false_iff] at hg
  repeat (have := hg.2; replace hg := hg.1)
  unfold execPrgCtrlClear
  repeat' first | intro _ | with_reducible first | assumption | apply sameR_next | apply sameR_ite | apply State.order_same (by assumption) | apply State.when_same | apply State.prgClear_same (by assumption) | apply same_ite | split

def execImageLoadComplete_w (g : Piece) : Bool := State.resumeWaits_w g || State.imageLoaded_w g

theorem execImageLoadComplete_same {g : Piece} {a : State} (hg : execImageLoadComplete_w g = false) {s : State} (h : Same g a s) (x1 : _) (x2 : _) :
    SameR g a (execImageLoadComplete x1 x2 s) := by
  simp only [execImageLoadComplete_w, Bool.or_eq_false_iff] at hg
  repeat (have := hg.2; replace hg := hg.1)
  unfold execImageLoadComplete
  repeat' first | intro _ | with_reducible first | assumption | apply sameR_next | apply State.resumeWaits_same (by assumption) | apply State.imageLoaded_same (by assumption) | split

def execSlotFreeDrainEnd_w (g : Piece) : Bool := State.slotFreed_w g

theorem execSlotFreeDrainEnd_same {g : Piece} {a : State} (hg : execSlotFreeDrainEnd_w g = false) {s : State} (h : Same g a s) (x1 : _) :
    SameR g a (execSlotFreeDrainEnd x1 s) := by
  simp only [execSlotFreeDrainEnd_w] at hg
  unfold execSlotFreeDrainEnd
  repeat' first | intro _ | with_reducible first | assumption | apply sameR_next | apply sameR_ite | apply State.slotFreed_same (by assumption) | apply same_ite | split

def State.replaceBlocks_w (g : Piece) : Bool := State.unplace_w g || State.programBlocks_w g || State.endSlotCmd_w g || (g == .progq)

theorem State.replaceBlocks_same {g : Piece} {a : State} (hg : State.replaceBlocks_w g = false) {s : State} (h : Same g a s) (x2 : _) (x3 : _) :
    Same g a (State.replaceBlocks s x2 x3) := by
  simp only [State.replaceBlocks_w, Bool.or_eq_false_iff] at hg
  repeat (have := hg.2; replace hg := hg.1)
  unfold State.replaceBlocks
  repeat' first | intro _ | ((fail_if_no_progress extract_lets +onlyGivenNames z); first | (refine same_cut (a := a) (g := g) z ?_ fun hz => ?_) <;> [subst z; clear_value z] | clear_value z) | with_reducible first | assumption | apply State.each_same | apply State.unplace_same (by assumption) | apply State.programBlocks_same (by assumption) | apply State.endSlotCmd_same (by assumption) | fail_if_no_progress apply same_mk_progq (by assumption) | apply same_ite | split

def State.startCal_w (g : Piece) : Bool := (g == .cals)

theorem State.startCal_same {g : Piece} {a : State} (hg : State.startCal_w g = false) {s : State} (h : Same g a s) (x2 : _) (x3 : _) (x4 : _) (x5 : _) (x6 : _) :
    Same g a (State.startCal s x2 x3 x4 x5 x6) := by
  simp only [State.startCal_w] at hg
  unfold State.startCal
  repeat' first | intro _ | with_reducible first | assumption | fail_if_no_progress apply same_mk_cals (by assumption)

def State.refreshProgDone_w (g : Piece) : Bool := State.progDone_w g || State.queueCal_w g || State.updRefresh_w g || State.progPush_w g || (g == .fld .TIL_STATUS_HOLD_CAUSE)

theorem State.refreshProgDone_same {g : Piece} {a : State} (hg : State.refreshProgDone_w g = false) {s : State} (h : Same g a s) (x2 : _) (x3 : _) :
    Same g a (State.refreshProgDone s x2 x3) := by
  simp only [State.refreshProgDone_w, Bool.or_eq_false_iff] at hg
  repeat (have := hg.2; replace hg := hg.1)
  unfold State.refreshProgDone
  repeat' first | intro _ | ((fail_if_no_progress extract_lets +onlyGivenNames z); first | (refine same_cut (a := a) (g := g) z ?_ fun hz => ?_) <;> [subst z; clear_value z] | clear_value z) | with_reducible first | assumption | apply State.progDone_same (by assumption) | apply State.queueCal_same (by assumption) | apply State.updRefresh_same (by assumption) | apply State.progPush_same (by assumption) | apply wr_same (by assumption) | apply same_ite | split

def State.quotaUndo_w (g : Piece) : Bool := State.progUndo_w g || State.clearFor_w g || State.endOp_w g

theorem State.quotaUndo_same {g : Piece} {a : State} (hg : State.quotaUndo_w g = false) {s : State} (h : Same g a s) (x2 : _) :
    Same g a (State.quotaUndo s x2) := by
  simp only [State.quotaUndo_w, Bool.or_eq_false_iff] at hg
  repeat (have := hg.2; replace hg := hg.1)
  unfold State.quotaUndo
  repeat' first | intro _ | with_reducible first | assumption | apply State.progUndo_same (by assumption) | apply State.clearFor_same (by assumption) | apply State.endOp_same (by assumption) | split

def State.replProgDone_w (g : Piece) : Bool := State.progDone_w g || State.queueCal_w g || State.startCal_w g || (g == .fld .TIL_STATUS_HOLD_CAUSE)

theorem State.replProgDone_same {g : Piece} {a : State} (hg : State.replProgDone_w g = false) {s : State} (h : Same g a s) (x2 : _) (x3 : _) :
    Same g a (State.replProgDone s x2 x3) := by
  simp only [State.replProgDone_w, Bool.or_eq_false_iff] at hg
  repeat (have := hg.2; replace hg := hg.1)
  unfold State.replProgDone
  repeat' first | intro _ | ((fail_if_no_progress extract_lets +onlyGivenNames z); (refine same_cut (a := a) (g := g) z ?_ fun hz => ?_) <;> [subst z; clear_value z]) | with_reducible first | assumption | apply wr_same (by assumption) | apply State.progDone_same (by assumption) | apply State.queueCal_same (by assumption) | apply State.startCal_same (by assumption) | apply same_ite | split

def State.progFinish_w (g : Piece) : Bool := State.releaseEngine_w g || State.pump_w g || State.refreshProgDone_w g || State.quotaUndo_w g || State.progDone_w g || State.replProgDone_w g || State.flagFor_w g || State.mapCheckOf_w g || State.calForMap_w g || State.endOp_w g

theorem State.progFinish_same {g : Piece} {a : State} (hg : State.progFinish_w g = false) {s : State} (h : Same g a s) (x2 : _) (x3 : _) :
    Same g a (State.progFinish s x2 x3) := by
  simp only [State.progFinish_w, Bool.or_eq_false_iff] at hg
  repeat (have := hg.2; replace hg := hg.1)
  unfold State.progFinish
  repeat' first | intro _ | ((fail_if_no_progress extract_lets +onlyGivenNames z); first | (refine same_cut (a := a) (g := g) z ?_ fun hz => ?_) <;> [subst z; clear_value z] | clear_value z) | with_reducible first | assumption | apply State.releaseEngine_same (by assumption) | apply State.pump_same (by assumption) | apply State.refreshProgDone_same (by assumption) | apply State.quotaUndo_same (by assumption) | apply State.progDone_same (by assumption) | apply State.replProgDone_same (by assumption) | apply State.flagFor_same (by assumption) | apply State.mapCheckOf_same (by assumption) | apply State.calForMap_same (by assumption) | apply State.endOp_same (by assumption) | apply same_ite | split

def State.slotSwitch_w (g : Piece) : Bool := State.completeCmd_w g || State.mapCheck_w g || State.cmdRunning_w g

theorem State.slotSwitch_same {g : Piece} {a : State} (hg : State.slotSwitch_w g = false) {s : State} (h : Same g a s) (x2 : _) :
    Same g a (State.slotSwitch s x2) := by
  simp only [State.slotSwitch_w, Bool.or_eq_false_iff] at hg
  repeat (have := hg.2; replace hg := hg.1)
  unfold State.slotSwitch
  repeat' first | intro _ | ((fail_if_no_progress extract_lets +onlyGivenNames z); clear_value z) | with_reducible first | assumption | apply State.completeCmd_same (by assumption) | apply State.mapCheck_same (by assumption) | apply State.cmdRunning_same (by assumption) | apply same_ite | split

def execProgFinish_w (g : Piece) : Bool := State.programColumns_w g || State.progFinish_w g || State.moveToSpare_w g

theorem execProgFinish_same {g : Piece} {a : State} (hg : execProgFinish_w g = false) {s : State} (h : Same g a s) (x1 : _) (x2 : _) (x3 : _) :
    SameR g a (execProgFinish x1 x2 x3 s) := by
  simp only [execProgFinish_w, Bool.or_eq_false_iff] at hg
  repeat (have := hg.2; replace hg := hg.1)
  unfold execProgFinish
  repeat' first | intro _ | ((fail_if_no_progress extract_lets +onlyGivenNames z); (refine same_cut1 (a := a) (g := g) z ?_ fun hz => ?_) <;> [subst z; clear_value z]) | with_reducible first | assumption | apply sameR_next | apply sameR_ite | apply State.programColumns_same (by assumption) | apply State.progFinish_same (by assumption) | apply State.moveToSpare_same (by assumption) | apply same_ite | refine same_of1 (by assumption) ?_ | split

def execSlotSwitch_w (g : Piece) : Bool := State.slotCmd_w g || State.slotSwitch_w g

theorem execSlotSwitch_same {g : Piece} {a : State} (hg : execSlotSwitch_w g = false) {s : State} (h : Same g a s) (x1 : _) :
    SameR g a (execSlotSwitch x1 s) := by
  simp only [execSlotSwitch_w, Bool.or_eq_false_iff] at hg
  repeat (have := hg.2; replace hg := hg.1)
  unfold execSlotSwitch
  repeat' first | intro _ | with_reducible first | assumption | apply sameR_next | apply State.slotCmd_same (by assumption) | apply State.slotSwitch_same (by assumption)

def State.fabricOffline_w (g : Piece) : Bool := State.replaceBlocks_w g || State.dropRefresh_w g || State.showEngine_w g || (g == .progq) || (g == .calq) || (g == .cals) || (g == .checks) || (g == .reqs) || (g == .ops) || (g == .tiles) || (g == .aux .roundTile) || (g == .fld .PRG_STATUS_QUEUED) || (g == .fld .CAL_STATUS_BUSY) || (g == .aux .startCal)

theorem State.fabricOffline_same {g : Piece} {a : State} (hg : State.fabricOffline_w g = false) {s : State} (h : Same g a s) (x2 : _) :
    Same g a (State.fabricOffline s x2) := by
  simp only [State.fabricOffline_w, Bool.or_eq_false_iff] at hg
  repeat (have := hg.2; replace hg := hg.1)
  unfold State.fabricOffline
  repeat' first | intro _ | ((fail_if_no_progress extract_lets +onlyGivenNames z); first | (refine same_cut (a := a) (g := g) z ?_ fun hz => ?_) <;> [subst z; clear_value z] | clear_value z) | with_reducible first | assumption | apply State.each_same | apply State.replaceBlocks_same (by assumption) | apply State.dropRefresh_same (by assumption) | apply State.showEngine_same (by assumption) | apply setAx_same (by assumption) | apply wr_same (by assumption) | fail_if_no_progress apply same_mk_progq_calq_cals_checks (by assumption) (by assumption) (by assumption) (by assumption) | fail_if_no_progress apply same_mk_reqs_ops_tiles (by assumption) (by assumption) (by assumption) | apply same_ite | split

end Sys2Proof.Machine
end

