-- ==== Sys2Proof/Laws/SameFaults.lean ====
section
/-!
SUPPORT. Laws/SameFaults.lean: what the operations of Machine/Faults.lean may change, and that they leave the rest alone.
-/

set_option linter.unusedTactic false
set_option linter.unusedSimpArgs false
set_option linter.unusedVariables false
set_option linter.tactic.unusedName false
set_option linter.unreachableTactic false

namespace Sys2Proof.Machine

def State.noteTimeout_w (g : Piece) : Bool := (g == .aux .toHist)

theorem State.noteTimeout_same {g : Piece} {a : State} (hg : State.noteTimeout_w g = false) {s : State} (h : Same g a s) (x2 : _) (x3 : _) :
    Same g a (State.noteTimeout s x2 x3) := by
  simp only [State.noteTimeout_w] at hg
  unfold State.noteTimeout
  repeat' first | intro _ | with_reducible first | assumption | apply setAx_same (by assumption) | apply same_ite | split

def execDieLinkRetrained_w (g : Piece) : Bool := (g == .aux .linkRetrain)

theorem execDieLinkRetrained_same {g : Piece} {a : State} (hg : execDieLinkRetrained_w g = false) {s : State} (h : Same g a s) (x1 : _) :
    SameR g a (execDieLinkRetrained x1 s) := by
  simp only [execDieLinkRetrained_w] at hg
  unfold execDieLinkRetrained
  repeat' first | intro _ | with_reducible first | assumption | apply sameR_next | apply setAx_same (by assumption)

def State.headTo_w (g : Piece) : Bool := (g == .fld .YOK_STATUS_FIRING) || (g == .fld .YOK_STATUS_MOVING) || (g == .fld .YOK_STATUS_HEAD) || (g == .fld .GLB_CAPACITY_HEAD) || (g == .fld .YOK_STATUS_FOLLOWER_OFF) || (g == .fld .YOK_SKEW_LOSTS) || (g == .fld .YOK_SKEW_SKEW) || (g == .aux .moveAt) || (g == .aux .markerAt) || (g == .aux .realign) || (g == .aux .missed)

theorem State.headTo_same {g : Piece} {a : State} (hg : State.headTo_w g = false) {s : State} (h : Same g a s) (x2 : _) :
    Same g a (State.headTo s x2) := by
  simp only [State.headTo_w, Bool.or_eq_false_iff] at hg
  repeat (have := hg.2; replace hg := hg.1)
  unfold State.headTo
  repeat' first | intro _ | ((fail_if_no_progress extract_lets +onlyGivenNames z); (refine same_cut (a := a) (g := g) z ?_ fun hz => ?_) <;> [subst z; clear_value z]) | with_reducible first | assumption | apply wr_same (by assumption) | apply setAx_same (by assumption) | apply same_ite | split

def State.moveHead_w (g : Piece) : Bool := State.headTo_w g || State.faultJobs_w g

theorem State.moveHead_same {g : Piece} {a : State} (hg : State.moveHead_w g = false) {s : State} (h : Same g a s) :
    Same g a (State.moveHead s) := by
  simp only [State.moveHead_w, Bool.or_eq_false_iff] at hg
  repeat (have := hg.2; replace hg := hg.1)
  unfold State.moveHead
  repeat' first | intro _ | ((fail_if_no_progress extract_lets +onlyGivenNames z); (refine same_cut (a := a) (g := g) z ?_ fun hz => ?_) <;> [subst z; clear_value z]) | with_reducible first | assumption | apply State.headTo_same (by assumption) | apply State.faultJobs_same (by assumption) | split

def State.recheckWaiting_w (g : Piece) : Bool := State.endJob_w g

theorem State.recheckWaiting_same {g : Piece} {a : State} (hg : State.recheckWaiting_w g = false) {s : State} (h : Same g a s) :
    Same g a (State.recheckWaiting s) := by
  simp only [State.recheckWaiting_w] at hg
  unfold State.recheckWaiting
  repeat' first | intro _ | with_reducible first | assumption | apply State.each_same | apply State.endJob_same (by assumption) | split

def State.dieLost_w (g : Piece) : Bool := State.moveHead_w g || State.loseJob_w g || State.faultJob_w g || State.dropCopiesOn_w g || State.fabricOffline_w g || State.evictHomed_w g || State.banksMove_w g || State.quotaRecheck_w g || State.capUpdate_w g || State.event_w g || State.recheckWaiting_w g || (g == .fld .FLT_DIE_CAUSE) || (g == .fld .FLT_DIE_ONLINE) || (g == .fld .GLB_CAPACITY_DIE_ONLINE) || (g == .aux .slotLost) || (g == .dmas) || (g == .allocs)

theorem State.dieLost_same {g : Piece} {a : State} (hg : State.dieLost_w g = false) {s : State} (h : Same g a s) (x2 : _) (x3 : _) :
    Same g a (State.dieLost s x2 x3) := by
  simp only [State.dieLost_w, Bool.or_eq_false_iff] at hg
  repeat (have := hg.2; replace hg := hg.1)
  unfold State.dieLost
  repeat' first | intro _ | ((fail_if_no_progress extract_lets +onlyGivenNames z); first | (refine same_cut (a := a) (g := g) z ?_ fun hz => ?_) <;> [subst z; clear_value z] | clear_value z) | with_reducible first | assumption | apply wr_same (by assumption) | apply State.moveHead_same (by assumption) | apply State.each_same | apply setAx_same (by assumption) | apply State.loseJob_same (by assumption) | apply State.faultJob_same (by assumption) | apply State.dropCopiesOn_same (by assumption) | apply State.fabricOffline_same (by assumption) | apply State.evictHomed_same (by assumption) | apply State.banksMove_same (by assumption) | apply State.quotaRecheck_same (by assumption) | apply State.capUpdate_same (by assumption) | apply State.event_same (by assumption) | apply State.recheckWaiting_same (by assumption) | fail_if_no_progress apply same_mk_allocs (by assumption) | fail_if_no_progress apply same_mk_dmas (by assumption) | apply same_ite | split

def State.dieOnline_w (g : Piece) : Bool := State.headTo_w g || (g == .fld .FLT_DIE_ONLINE) || (g == .fld .GLB_CAPACITY_DIE_ONLINE) || (g == .fld .YOK_STATUS_HEAD) || (g == .fld .GLB_CAPACITY_HEAD)

theorem State.dieOnline_same {g : Piece} {a : State} (hg : State.dieOnline_w g = false) {s : State} (h : Same g a s) (x2 : _) :
    Same g a (State.dieOnline s x2) := by
  simp only [State.dieOnline_w, Bool.or_eq_false_iff] at hg
  repeat (have := hg.2; replace hg := hg.1)
  unfold State.dieOnline
  repeat' first | intro _ | ((fail_if_no_progress extract_lets +onlyGivenNames z); first | (refine same_cut (a := a) (g := g) z ?_ fun hz => ?_) <;> [subst z; clear_value z] | clear_value z) | with_reducible first | assumption | apply wr_same (by assumption) | apply State.headTo_same (by assumption) | apply same_ite | split

def execFltCtrlClear_w (g : Piece) : Bool := State.order_w g || (g == .fld .FLT_EXHAUSTED_COUNT) || (g == .fld .FLT_RESTARTS_COUNT) || (g == .fld .FLT_SUPCNT_COUNT) || (g == .fld .FLT_TOCNT_COUNT)

theorem execFltCtrlClear_same {g : Piece} {a : State} (hg : execFltCtrlClear_w g = false) {s : State} (h : Same g a s) (x1 : _) :
    SameR g a (execFltCtrlClear x1 s) := by
  simp only [execFltCtrlClear_w, Bool.or_eq_false_iff] at hg
  repeat (have := hg.2; replace hg := hg.1)
  unfold execFltCtrlClear
  repeat' first | intro _ | with_reducible first | assumption | apply sameR_next | apply sameR_ite | apply State.order_same (by assumption) | apply wr_same (by assumption) | apply foldl_same | apply same_ite | split

def State.timeout_w (g : Piece) : Bool := State.noteTimeout_w g || State.faultJobs_w g || State.event_w g || (g == .fld .FLT_TOCNT_COUNT)

theorem State.timeout_same {g : Piece} {a : State} (hg : State.timeout_w g = false) {s : State} (h : Same g a s) (x2 : _) (x3 : _) (x4 : _) (x5 : _) (x6 : _) :
    Same g a (State.timeout s x2 x3 x4 x5 x6) := by
  simp only [State.timeout_w, Bool.or_eq_false_iff] at hg
  repeat (have := hg.2; replace hg := hg.1)
  unfold State.timeout
  repeat' first | intro _ | ((fail_if_no_progress extract_lets +onlyGivenNames z); first | (refine same_cut (a := a) (g := g) z ?_ fun hz => ?_) <;> [subst z; clear_value z] | clear_value z) | with_reducible first | assumption | apply State.noteTimeout_same (by assumption) | apply bump_same (by assumption) | apply State.faultJobs_same (by assumption) | apply State.event_same (by assumption) | apply same_ite | split

def State.linkCheck_w (g : Piece) : Bool := State.dieLost_w g

theorem State.linkCheck_same {g : Piece} {a : State} (hg : State.linkCheck_w g = false) {s : State} (h : Same g a s) :
    Same g a (State.linkCheck s) := by
  simp only [State.linkCheck_w] at hg
  unfold State.linkCheck
  repeat' first | intro _ | with_reducible first | assumption | apply State.each_same | apply State.dieLost_same (by assumption)

def State.dieOffline_w (g : Piece) : Bool := State.linkCheck_w g || State.dieLost_w g

theorem State.dieOffline_same {g : Piece} {a : State} (hg : State.dieOffline_w g = false) {s : State} (h : Same g a s) (x2 : _) (x3 : _) :
    Same g a (State.dieOffline s x2 x3) := by
  simp only [State.dieOffline_w, Bool.or_eq_false_iff] at hg
  repeat (have := hg.2; replace hg := hg.1)
  unfold State.dieOffline
  repeat' first | intro _ | with_reducible first | assumption | apply State.linkCheck_same (by assumption) | apply State.dieLost_same (by assumption)

def State.retrainStart_w (g : Piece) : Bool := (g == .aux .retrainEnd) || (g == .fld .MEM_RETRAIN_COUNT) || (g == .fld .MEM_CH_STATE)

theorem State.retrainStart_same {g : Piece} {a : State} (hg : State.retrainStart_w g = false) {s : State} (h : Same g a s) (x2 : _) (x3 : _) :
    Same g a (State.retrainStart s x2 x3) := by
  simp only [State.retrainStart_w, Bool.or_eq_false_iff] at hg
  repeat (have := hg.2; replace hg := hg.1)
  unfold State.retrainStart
  repeat' first | intro _ | with_reducible first | assumption | apply setAx_same (by assumption) | apply bump_same (by assumption) | apply wr_same (by assumption) | apply same_ite | split

def State.retrainFailed_w (g : Piece) : Bool := State.dieOffline_w g || State.retrainStart_w g || (g == .fld .MEM_CH_FAILS) || (g == .aux .retrainEnd) || (g == .fld .MEM_STAT_TRAINED) || (g == .fld .MEM_CH_STATE)

theorem State.retrainFailed_same {g : Piece} {a : State} (hg : State.retrainFailed_w g = false) {s : State} (h : Same g a s) (x2 : _) (x3 : _) :
    Same g a (State.retrainFailed s x2 x3) := by
  simp only [State.retrainFailed_w, Bool.or_eq_false_iff] at hg
  repeat (have := hg.2; replace hg := hg.1)
  unfold State.retrainFailed
  repeat' first | intro _ | ((fail_if_no_progress extract_lets +onlyGivenNames z); first | (refine same_cut (a := a) (g := g) z ?_ fun hz => ?_) <;> [subst z; clear_value z] | clear_value z) | with_reducible first | assumption | apply wr_same (by assumption) | apply State.dieOffline_same (by assumption) | apply setAx_same (by assumption) | apply State.retrainStart_same (by assumption) | apply same_ite | split

def execLpddrCommandTimeout_w (g : Piece) : Bool := State.timeout_w g || State.retrainFailed_w g || State.retrainStart_w g

theorem execLpddrCommandTimeout_same {g : Piece} {a : State} (hg : execLpddrCommandTimeout_w g = false) {s : State} (h : Same g a s) (x1 : _) (x2 : _) (x3 : _) :
    SameR g a (execLpddrCommandTimeout x1 x2 x3 s) := by
  simp only [execLpddrCommandTimeout_w, Bool.or_eq_false_iff] at hg
  repeat (have := hg.2; replace hg := hg.1)
  unfold execLpddrCommandTimeout
  repeat' first | intro _ | ((fail_if_no_progress extract_lets +onlyGivenNames z); first | (refine same_cut (a := a) (g := g) z ?_ fun hz => ?_) <;> [subst z; clear_value z] | clear_value z) | with_reducible first | assumption | apply sameR_next | apply sameR_ite | apply State.timeout_same (by assumption) | apply State.retrainFailed_same (by assumption) | apply State.retrainStart_same (by assumption) | apply same_ite | split

def execBankPortWaitTimeout_w (g : Piece) : Bool := State.timeout_w g

theorem execBankPortWaitTimeout_same {g : Piece} {a : State} (hg : execBankPortWaitTimeout_w g = false) {s : State} (h : Same g a s) (x1 : _) (x2 : _) (x3 : _) :
    SameR g a (execBankPortWaitTimeout x1 x2 x3 s) := by
  simp only [execBankPortWaitTimeout_w] at hg
  unfold execBankPortWaitTimeout
  repeat' first | intro _ | with_reducible first | assumption | apply sameR_next | apply sameR_ite | apply State.timeout_same (by assumption) | apply same_ite | split

def execDieLinkTimeout_w (g : Piece) : Bool := State.timeout_w g || State.linkCheck_w g || (g == .aux .linkDown) || (g == .aux .linkRetrain)

theorem execDieLinkTimeout_same {g : Piece} {a : State} (hg : execDieLinkTimeout_w g = false) {s : State} (h : Same g a s) (x1 : _) (x2 : _) :
    SameR g a (execDieLinkTimeout x1 x2 s) := by
  simp only [execDieLinkTimeout_w, Bool.or_eq_false_iff] at hg
  repeat (have := hg.2; replace hg := hg.1)
  unfold execDieLinkTimeout
  repeat' first | intro _ | ((fail_if_no_progress extract_lets +onlyGivenNames z); first | (refine same_cut (a := a) (g := g) z ?_ fun hz => ?_) <;> [subst z; clear_value z] | clear_value z) | with_reducible first | assumption | apply sameR_next | apply sameR_ite | apply State.timeout_same (by assumption) | apply State.linkCheck_same (by assumption) | apply setAx_same (by assumption) | apply same_ite | split

def State.freeLostTiles_w (g : Piece) : Bool := State.updTile_w g || State.unplace_w g || State.takePending_w g || (g == .fld .TIL_STATUS_STATE)

theorem State.freeLostTiles_same {g : Piece} {a : State} (hg : State.freeLostTiles_w g = false) {s : State} (h : Same g a s) (x2 : _) :
    Same g a (State.freeLostTiles s x2) := by
  simp only [State.freeLostTiles_w, Bool.or_eq_false_iff] at hg
  repeat (have := hg.2; replace hg := hg.1)
  unfold State.freeLostTiles
  repeat' first | intro _ | ((fail_if_no_progress extract_lets +onlyGivenNames z); clear_value z) | with_reducible first | assumption | apply State.each_same | apply State.updTile_same (by assumption) | apply State.unplace_same (by assumption) | apply State.takePending_same (by assumption) | apply wr_same (by assumption) | split

def execSequencerProgressTimeout_w (g : Piece) : Bool := State.timeout_w g || (g == .aux .seqFailed)

theorem execSequencerProgressTimeout_same {g : Piece} {a : State} (hg : execSequencerProgressTimeout_w g = false) {s : State} (h : Same g a s) (x1 : _) (x2 : _) :
    SameR g a (execSequencerProgressTimeout x1 x2 s) := by
  simp only [execSequencerProgressTimeout_w, Bool.or_eq_false_iff] at hg
  repeat (have := hg.2; replace hg := hg.1)
  unfold execSequencerProgressTimeout
  repeat' first | intro _ | ((fail_if_no_progress extract_lets +onlyGivenNames z); first | (refine same_cut (a := a) (g := g) z ?_ fun hz => ?_) <;> [subst z; clear_value z] | clear_value z) | with_reducible first | assumption | apply sameR_next | apply sameR_ite | apply State.timeout_same (by assumption) | apply setAx_same (by assumption) | apply same_ite | split

def execJobWatchdog_w (g : Piece) : Bool := State.timeout_w g || State.updJob_w g || State.endJob_w g

theorem execJobWatchdog_same {g : Piece} {a : State} (hg : execJobWatchdog_w g = false) {s : State} (h : Same g a s) (x1 : _) :
    SameR g a (execJobWatchdog x1 s) := by
  simp only [execJobWatchdog_w, Bool.or_eq_false_iff] at hg
  repeat (have := hg.2; replace hg := hg.1)
  unfold execJobWatchdog
  repeat' first | intro _ | ((fail_if_no_progress extract_lets +onlyGivenNames z); (refine same_cut (a := a) (g := g) z ?_ fun hz => ?_) <;> [subst z; clear_value z]) | with_reducible first | assumption | apply sameR_next | apply sameR_ite | apply State.timeout_same (by assumption) | apply State.updJob_same (by assumption) | apply State.endJob_same (by assumption) | apply same_ite | split

end Sys2Proof.Machine
end

