-- ==== Sys2Proof/Laws/SameMonitor.lean ====
section
/-!
SUPPORT. Laws/SameMonitor.lean: what the operations of Machine/Monitor.lean may change, and that they leave the rest alone.
-/

set_option linter.unusedTactic false
set_option linter.unusedSimpArgs false
set_option linter.unusedVariables false
set_option linter.tactic.unusedName false
set_option linter.unreachableTactic false

namespace Sys2Proof.Machine

def State.reinterpolate_w (g : Piece) : Bool := State.aim_w g || (g == .fld .CAL_TEMP_TJ_USED)

theorem State.reinterpolate_same {g : Piece} {a : State} (hg : State.reinterpolate_w g = false) {s : State} (h : Same g a s) (x2 : _) (x3 : _) :
    Same g a (State.reinterpolate s x2 x3) := by
  simp only [State.reinterpolate_w, Bool.or_eq_false_iff] at hg
  repeat (have := hg.2; replace hg := hg.1)
  unfold State.reinterpolate
  repeat' first | intro _ | with_reducible first | assumption | apply State.each_same | apply wr_same (by assumption) | apply State.aim_same (by assumption) | apply same_ite | split

def State.tlmClose_w (g : Piece) : Bool := State.event_w g || (g == .fld .TLM_STAT_FLAGS) || (g == .fld .TLM_STAT_STATUS) || (g == .fld .TLM_STAT_STATE) || (g == .tlms)

theorem State.tlmClose_same {g : Piece} {a : State} (hg : State.tlmClose_w g = false) {s : State} (h : Same g a s) (x2 : _) (x3 : _) (x4 : _) :
    Same g a (State.tlmClose s x2 x3 x4) := by
  simp only [State.tlmClose_w, Bool.or_eq_false_iff] at hg
  repeat (have := hg.2; replace hg := hg.1)
  unfold State.tlmClose
  repeat' first | intro _ | ((fail_if_no_progress extract_lets +onlyGivenNames z); first | (refine same_cut (a := a) (g := g) z ?_ fun hz => ?_) <;> [subst z; clear_value z] | clear_value z) | with_reducible first | assumption | apply wr_same (by assumption) | apply State.event_same (by assumption) | fail_if_no_progress apply same_mk_tlms (by assumption) | apply same_ite | split

def State.updMon_w (g : Piece) : Bool := (g == .mons)

theorem State.updMon_same {g : Piece} {a : State} (hg : State.updMon_w g = false) {s : State} (h : Same g a s) (x2 : _) (x3 : _) :
    Same g a (State.updMon s x2 x3) := by
  simp only [State.updMon_w] at hg
  unfold State.updMon
  repeat' first | intro _ | with_reducible first | assumption | fail_if_no_progress apply same_mk_mons (by assumption) | split

def State.simStart_w (g : Piece) : Bool := State.updMon_w g

theorem State.simStart_same {g : Piece} {a : State} (hg : State.simStart_w g = false) {s : State} (h : Same g a s) (x2 : _) (x3 : _) :
    Same g a (State.simStart s x2 x3) := by
  simp only [State.simStart_w] at hg
  unfold State.simStart
  repeat' first | intro _ | with_reducible first | assumption | apply State.updMon_same (by assumption) | apply same_ite | split

def State.setStale_w (g : Piece) : Bool := (g == .fld .MCV_RES_STALE)

theorem State.setStale_same {g : Piece} {a : State} (hg : State.setStale_w g = false) {s : State} (h : Same g a s) (x2 : _) (x3 : _) :
    Same g a (State.setStale s x2 x3) := by
  simp only [State.setStale_w] at hg
  unfold State.setStale
  repeat' first | intro _ | with_reducible first | assumption | apply State.each_same | apply wr_same (by assumption)

def State.calStart_w (g : Piece) : Bool := State.updMon_w g || State.setStale_w g || (g == .fld .MCV_STAT_SCAL_B) || (g == .fld .MCV_STAT_SCAL_A)

theorem State.calStart_same {g : Piece} {a : State} (hg : State.calStart_w g = false) {s : State} (h : Same g a s) (x2 : _) :
    Same g a (State.calStart s x2) := by
  simp only [State.calStart_w, Bool.or_eq_false_iff] at hg
  repeat (have := hg.2; replace hg := hg.1)
  unfold State.calStart
  repeat' first | intro _ | ((fail_if_no_progress extract_lets +onlyGivenNames z); clear_value z) | with_reducible first | assumption | apply State.updMon_same (by assumption) | apply State.setStale_same (by assumption) | apply wr_same (by assumption) | apply same_ite | split

def State.serveUrgent_w (g : Piece) : Bool := (g == .urg)

theorem State.serveUrgent_same {g : Piece} {a : State} (hg : State.serveUrgent_w g = false) {s : State} (h : Same g a s) (x2 : _) (x3 : _) :
    Same g a (State.serveUrgent s x2 x3) := by
  simp only [State.serveUrgent_w] at hg
  induction x3 generalizing s <;> [skip; rename_i ih]
  all_goals unfold State.serveUrgent
  repeat' first | intro _ | with_reducible first | assumption | fail_if_no_progress apply same_mk_urg (by assumption) | apply same_ite | apply ih | split

def State.entryRun_w (g : Piece) : Bool := State.updMon_w g || (g == .fld .MCV_STAT_ENTRY) || (g == .fld .MCV_PREEMPT_PROTECTED)

theorem State.entryRun_same {g : Piece} {a : State} (hg : State.entryRun_w g = false) {s : State} (h : Same g a s) (x2 : _) :
    Same g a (State.entryRun s x2) := by
  simp only [State.entryRun_w, Bool.or_eq_false_iff] at hg
  repeat (have := hg.2; replace hg := hg.1)
  unfold State.entryRun
  repeat' first | intro _ | ((fail_if_no_progress extract_lets +onlyGivenNames z); (refine same_cut (a := a) (g := g) z ?_ fun hz => ?_) <;> [subst z; clear_value z]) | with_reducible first | assumption | apply wr_same (by assumption) | apply bump_same (by assumption) | apply State.updMon_same (by assumption) | apply same_ite | split

def State.monGo_w (g : Piece) : Bool := State.simStart_w g || State.calStart_w g || State.serveUrgent_w g || State.entryRun_w g

theorem State.monGo_same {g : Piece} {a : State} (hg : State.monGo_w g = false) {s : State} (h : Same g a s) (x2 : _) :
    Same g a (State.monGo s x2) := by
  simp only [State.monGo_w, Bool.or_eq_false_iff] at hg
  repeat (have := hg.2; replace hg := hg.1)
  unfold State.monGo
  repeat' first | intro _ | ((fail_if_no_progress extract_lets +onlyGivenNames z); (refine same_cut (a := a) (g := g) z ?_ fun hz => ?_) <;> [subst z; clear_value z]) | with_reducible first | assumption | apply State.simStart_same (by assumption) | apply State.calStart_same (by assumption) | apply State.serveUrgent_same (by assumption) | apply State.entryRun_same (by assumption) | apply same_ite | split

def State.scalRequest_w (g : Piece) : Bool := State.monGo_w g || State.updMon_w g

theorem State.scalRequest_same {g : Piece} {a : State} (hg : State.scalRequest_w g = false) {s : State} (h : Same g a s) (x2 : _) :
    Same g a (State.scalRequest s x2) := by
  simp only [State.scalRequest_w, Bool.or_eq_false_iff] at hg
  repeat (have := hg.2; replace hg := hg.1)
  unfold State.scalRequest
  repeat' first | intro _ | with_reducible first | assumption | apply State.monGo_same (by assumption) | apply State.updMon_same (by assumption) | apply same_ite | split

def State.entryOver_w (g : Piece) : Bool := State.monGo_w g || State.updMon_w g

theorem State.entryOver_same {g : Piece} {a : State} (hg : State.entryOver_w g = false) {s : State} (h : Same g a s) (x2 : _) :
    Same g a (State.entryOver s x2) := by
  simp only [State.entryOver_w, Bool.or_eq_false_iff] at hg
  repeat (have := hg.2; replace hg := hg.1)
  unfold State.entryOver
  repeat' first | intro _ | ((fail_if_no_progress extract_lets +onlyGivenNames z); clear_value z) | with_reducible first | assumption | apply State.monGo_same (by assumption) | apply State.updMon_same (by assumption) | apply same_ite | split

def State.tempClamp_w (g : Piece) : Bool := State.updMon_w g || State.event_w g || (g == .fld .CAL_STATUS_TEMP_CLAMP)

theorem State.tempClamp_same {g : Piece} {a : State} (hg : State.tempClamp_w g = false) {s : State} (h : Same g a s) (x2 : _) (x3 : _) :
    Same g a (State.tempClamp s x2 x3) := by
  simp only [State.tempClamp_w, Bool.or_eq_false_iff] at hg
  repeat (have := hg.2; replace hg := hg.1)
  unfold State.tempClamp
  repeat' first | intro _ | ((fail_if_no_progress extract_lets +onlyGivenNames z); first | (refine same_cut (a := a) (g := g) z ?_ fun hz => ?_) <;> [subst z; clear_value z] | clear_value z) | with_reducible first | assumption | apply wr_same (by assumption) | apply State.updMon_same (by assumption) | apply State.event_same (by assumption) | apply same_ite | split

def State.tempUpdate_w (g : Piece) : Bool := State.tempClamp_w g || State.reinterpolate_w g || (g == .fld .MCV_TFAB_VALID) || (g == .fld .MCV_TFAB_MEAN)

theorem State.tempUpdate_same {g : Piece} {a : State} (hg : State.tempUpdate_w g = false) {s : State} (h : Same g a s) (x2 : _) :
    Same g a (State.tempUpdate s x2) := by
  simp only [State.tempUpdate_w, Bool.or_eq_false_iff] at hg
  repeat (have := hg.2; replace hg := hg.1)
  unfold State.tempUpdate
  repeat' first | intro _ | ((fail_if_no_progress extract_lets +onlyGivenNames z); (refine same_cut (a := a) (g := g) z ?_ fun hz => ?_) <;> [subst z; clear_value z]) | with_reducible first | assumption | apply wr_same (by assumption) | apply State.tempClamp_same (by assumption) | apply State.reinterpolate_same (by assumption) | apply same_ite | split

def State.result_w (g : Piece) : Bool := State.tempUpdate_w g || (g == .fld .MCV_RES_VALUE) || (g == .fld .MCV_RES_CODE) || (g == .fld .MCV_RES_ARG) || (g == .fld .MCV_RES_CHECKED) || (g == .fld .MCV_RES_PLAUS_FAIL) || (g == .fld .MCV_RES_STALE) || (g == .fld .MCV_RES_VALID) || (g == .aux .mcvCount) || (g == .aux .mcvTime)

theorem State.result_same {g : Piece} {a : State} (hg : State.result_w g = false) {s : State} (h : Same g a s) (x2 : _) (x3 : _) (x4 : _) (x5 : _) (x6 : _) :
    Same g a (State.result s x2 x3 x4 x5 x6) := by
  simp only [State.result_w, Bool.or_eq_false_iff] at hg
  repeat (have := hg.2; replace hg := hg.1)
  unfold State.result
  repeat' first | intro _ | ((fail_if_no_progress extract_lets +onlyGivenNames z); (refine same_cut (a := a) (g := g) z ?_ fun hz => ?_) <;> [subst z; clear_value z]) | with_reducible first | assumption | apply wr_same (by assumption) | apply setAx_same (by assumption) | apply State.tempUpdate_same (by assumption) | apply same_ite | split

def State.monFail_w (g : Piece) : Bool := State.event_w g || State.dieOffline_w g || (g == .urg) || (g == .fld .MCV_STAT_FAIL_A) || (g == .fld .MCV_STAT_FAIL_B)

theorem State.monFail_same {g : Piece} {a : State} (hg : State.monFail_w g = false) {s : State} (h : Same g a s) (x2 : _) (x3 : _) (x4 : _) :
    Same g a (State.monFail s x2 x3 x4) := by
  simp only [State.monFail_w, Bool.or_eq_false_iff] at hg
  repeat (have := hg.2; replace hg := hg.1)
  unfold State.monFail
  repeat' first | intro _ | ((fail_if_no_progress extract_lets +onlyGivenNames z); first | (refine same_cut (a := a) (g := g) z ?_ fun hz => ?_) <;> [subst z; clear_value z] | subst z) | with_reducible first | assumption | apply wr_same | apply State.event_same (by assumption) | apply State.dieOffline_same (by assumption) | fail_if_no_progress apply same_mk_urg (by assumption) | apply same_ite | (unfold convSubField; split) | (unfold spareColField; split) | (unfold quotaField; split) | (unfold gateField; split) | (unfold readyField; split) | split

def State.monArbitrate_w (g : Piece) : Bool := State.monFail_w g

theorem State.monArbitrate_same {g : Piece} {a : State} (hg : State.monArbitrate_w g = false) {s : State} (h : Same g a s) (x2 : _) (x3 : _) :
    Same g a (State.monArbitrate s x2 x3) := by
  simp only [State.monArbitrate_w] at hg
  unfold State.monArbitrate
  repeat' first | intro _ | ((fail_if_no_progress extract_lets +onlyGivenNames z); clear_value z) | with_reducible first | assumption | apply State.monFail_same (by assumption) | apply same_ite | split

def State.secondMismatch_w (g : Piece) : Bool := State.event_w g || State.entryOver_w g || State.monArbitrate_w g || (g == .fld .MCV_PLAUS_FAULTS) || (g == .fld .MCV_RES_PLAUS_FAIL)

theorem State.secondMismatch_same {g : Piece} {a : State} (hg : State.secondMismatch_w g = false) {s : State} (h : Same g a s) (x2 : _) (x3 : _) (x4 : _) (x5 : _) (x6 : _) (x7 : _) :
    Same g a (State.secondMismatch s x2 x3 x4 x5 x6 x7) := by
  simp only [State.secondMismatch_w, Bool.or_eq_false_iff] at hg
  repeat (have := hg.2; replace hg := hg.1)
  unfold State.secondMismatch
  repeat' first | intro _ | ((fail_if_no_progress extract_lets +onlyGivenNames z); (refine same_cut (a := a) (g := g) z ?_ fun hz => ?_) <;> [subst z; clear_value z]) | with_reducible first | assumption | apply State.event_same (by assumption) | apply bump_same (by assumption) | apply wr_same (by assumption) | apply State.entryOver_same (by assumption) | apply State.monArbitrate_same (by assumption)

def State.convertAgain_w (g : Piece) : Bool := State.updMon_w g || State.monGo_w g

theorem State.convertAgain_same {g : Piece} {a : State} (hg : State.convertAgain_w g = false) {s : State} (h : Same g a s) (x2 : _) :
    Same g a (State.convertAgain s x2) := by
  simp only [State.convertAgain_w, Bool.or_eq_false_iff] at hg
  repeat (have := hg.2; replace hg := hg.1)
  unfold State.convertAgain
  repeat' first | intro _ | with_reducible first | assumption | apply State.updMon_same (by assumption) | apply State.monGo_same (by assumption) | apply same_ite | split

def State.entryEnd_w (g : Piece) : Bool := State.entryOver_w g || State.result_w g || State.updMon_w g || State.secondMismatch_w g || State.convertAgain_w g

theorem State.entryEnd_same {g : Piece} {a : State} (hg : State.entryEnd_w g = false) {s : State} (h : Same g a s) (x2 : _) (x3 : _) (x4 : _) (x5 : _) :
    Same g a (State.entryEnd s x2 x3 x4 x5) := by
  simp only [State.entryEnd_w, Bool.or_eq_false_iff] at hg
  repeat (have := hg.2; replace hg := hg.1)
  unfold State.entryEnd
  repeat' first | intro _ | ((fail_if_no_progress extract_lets +onlyGivenNames z); first | (refine same_cut (a := a) (g := g) z ?_ fun hz => ?_) <;> [subst z; clear_value z] | clear_value z) | with_reducible first | assumption | apply State.entryOver_same (by assumption) | apply State.result_same (by assumption) | apply State.updMon_same (by assumption) | apply State.secondMismatch_same (by assumption) | apply State.convertAgain_same (by assumption) | apply same_ite | split

def execMcvEntryEnd_w (g : Piece) : Bool := State.entryEnd_w g

theorem execMcvEntryEnd_same {g : Piece} {a : State} (hg : execMcvEntryEnd_w g = false) {s : State} (h : Same g a s) (x1 : _) (x2 : _) (x3 : _) (x4 : _) :
    SameR g a (execMcvEntryEnd x1 x2 x3 x4 s) := by
  simp only [execMcvEntryEnd_w] at hg
  unfold execMcvEntryEnd
  repeat' first | intro _ | with_reducible first | assumption | apply sameR_next | apply sameR_ite | apply State.entryEnd_same (by assumption) | apply same_ite | split

def execTlmTimedStop_w (g : Piece) : Bool := State.tlmClose_w g

theorem execTlmTimedStop_same {g : Piece} {a : State} (hg : execTlmTimedStop_w g = false) {s : State} (h : Same g a s) (x1 : _) :
    SameR g a (execTlmTimedStop x1 s) := by
  simp only [execTlmTimedStop_w] at hg
  unfold execTlmTimedStop
  repeat' first | intro _ | with_reducible first | assumption | apply sameR_next | apply sameR_ite | apply State.tlmClose_same (by assumption) | apply same_ite | split

def State.mcvExpert_w (g : Piece) : Bool := (g == .fld .MCV_STAT_EXPERT)

theorem State.mcvExpert_same {g : Piece} {a : State} (hg : State.mcvExpert_w g = false) {s : State} (h : Same g a s) (x2 : _) :
    Same g a (State.mcvExpert s x2) := by
  simp only [State.mcvExpert_w] at hg
  unfold State.mcvExpert
  repeat' first | intro _ | with_reducible first | assumption | apply wr_same (by assumption)

def State.freshen_w (g : Piece) : Bool := State.setStale_w g

theorem State.freshen_same {g : Piece} {a : State} (hg : State.freshen_w g = false) {s : State} (h : Same g a s) (x2 : _) :
    Same g a (State.freshen s x2) := by
  simp only [State.freshen_w] at hg
  unfold State.freshen
  repeat' first | intro _ | with_reducible first | assumption | apply State.setStale_same (by assumption) | apply same_ite | split

def State.seqResume_w (g : Piece) : Bool := State.monGo_w g || State.freshen_w g || State.updMon_w g

theorem State.seqResume_same {g : Piece} {a : State} (hg : State.seqResume_w g = false) {s : State} (h : Same g a s) (x2 : _) :
    Same g a (State.seqResume s x2) := by
  simp only [State.seqResume_w, Bool.or_eq_false_iff] at hg
  repeat (have := hg.2; replace hg := hg.1)
  unfold State.seqResume
  repeat' first | intro _ | with_reducible first | assumption | apply State.monGo_same (by assumption) | apply State.freshen_same (by assumption) | apply State.updMon_same (by assumption)

def State.mcvMode_w (g : Piece) : Bool := State.mcvExpert_w g || State.monGo_w g || State.setStale_w g || State.updMon_w g || State.seqResume_w g || (g == .fld .MCV_CTRL_MODE)

theorem State.mcvMode_same {g : Piece} {a : State} (hg : State.mcvMode_w g = false) {s : State} (h : Same g a s) (x2 : _) (x3 : _) :
    Same g a (State.mcvMode s x2 x3) := by
  simp only [State.mcvMode_w, Bool.or_eq_false_iff] at hg
  repeat (have := hg.2; replace hg := hg.1)
  unfold State.mcvMode
  repeat' first | intro _ | ((fail_if_no_progress extract_lets +onlyGivenNames z); (refine same_cut (a := a) (g := g) z ?_ fun hz => ?_) <;> [subst z; clear_value z]) | with_reducible first | assumption | apply wr_same (by assumption) | apply State.mcvExpert_same (by assumption) | apply State.monGo_same (by assumption) | apply State.setStale_same (by assumption) | apply State.updMon_same (by assumption) | apply State.seqResume_same (by assumption) | apply same_ite | split

def State.mcvHandback_w (g : Piece) : Bool := State.resetReg_w g || State.mcvMode_w g || State.seqResume_w g || (g == .fld .MCV_PLAUS_FAULTS) || (g == .fld .MCV_STAT_EXPERT) || (g == .fld .MCV_CTRL_HOLD)

theorem State.mcvHandback_same {g : Piece} {a : State} (hg : State.mcvHandback_w g = false) {s : State} (h : Same g a s) (x2 : _) :
    Same g a (State.mcvHandback s x2) := by
  simp only [State.mcvHandback_w, Bool.or_eq_false_iff] at hg
  repeat (have := hg.2; replace hg := hg.1)
  unfold State.mcvHandback
  repeat' first | intro _ | ((fail_if_no_progress extract_lets +onlyGivenNames z); first | (refine same_cut (a := a) (g := g) z ?_ fun hz => ?_) <;> [subst z; clear_value z] | clear_value z) | with_reducible first | assumption | apply State.each_same | apply State.resetReg_same (by assumption) | apply State.mcvMode_same (by assumption) | apply wr_same (by assumption) | apply State.seqResume_same (by assumption)

def execMcvCtrlHandback_w (g : Piece) : Bool := State.order_w g || State.mcvHandback_w g

theorem execMcvCtrlHandback_same {g : Piece} {a : State} (hg : execMcvCtrlHandback_w g = false) {s : State} (h : Same g a s) (x1 : _) (x2 : _) :
    SameR g a (execMcvCtrlHandback x1 x2 s) := by
  simp only [execMcvCtrlHandback_w, Bool.or_eq_false_iff] at hg
  repeat (have := hg.2; replace hg := hg.1)
  unfold execMcvCtrlHandback
  repeat' first | intro _ | with_reducible first | assumption | apply sameR_next | apply sameR_ite | apply State.order_same (by assumption) | apply State.when_same | apply State.mcvHandback_same (by assumption) | apply same_ite | split

def State.simTrigger_w (g : Piece) : Bool := State.updMon_w g || State.simStart_w g || (g == .fld .MCV_SIMRES_OVERRUNS)

theorem State.simTrigger_same {g : Piece} {a : State} (hg : State.simTrigger_w g = false) {s : State} (h : Same g a s) (x2 : _) (x3 : _) :
    Same g a (State.simTrigger s x2 x3) := by
  simp only [State.simTrigger_w, Bool.or_eq_false_iff] at hg
  repeat (have := hg.2; replace hg := hg.1)
  unfold State.simTrigger
  repeat' first | intro _ | ((fail_if_no_progress extract_lets +onlyGivenNames z); clear_value z) | with_reducible first | assumption | apply bump_same (by assumption) | apply State.updMon_same (by assumption) | apply State.simStart_same (by assumption) | apply same_ite | split

def State.mcvGo_w (g : Piece) : Bool := State.mcvExpert_w g || State.simTrigger_w g

theorem State.mcvGo_same {g : Piece} {a : State} (hg : State.mcvGo_w g = false) {s : State} (h : Same g a s) (x2 : _) :
    Same g a (State.mcvGo s x2) := by
  simp only [State.mcvGo_w, Bool.or_eq_false_iff] at hg
  repeat (have := hg.2; replace hg := hg.1)
  unfold State.mcvGo
  repeat' first | intro _ | ((fail_if_no_progress extract_lets +onlyGivenNames z); (refine same_cut (a := a) (g := g) z ?_ fun hz => ?_) <;> [subst z; clear_value z]) | with_reducible first | assumption | apply State.mcvExpert_same (by assumption) | apply State.simTrigger_same (by assumption) | apply same_ite | split

def State.ppsTrigger_w (g : Piece) : Bool := State.simTrigger_w g

theorem State.ppsTrigger_same {g : Piece} {a : State} (hg : State.ppsTrigger_w g = false) {s : State} (h : Same g a s) :
    Same g a (State.ppsTrigger s) := by
  simp only [State.ppsTrigger_w] at hg
  unfold State.ppsTrigger
  repeat' first | intro _ | with_reducible first | assumption | apply State.each_same | apply State.when_same | apply State.simTrigger_same (by assumption) | split

def State.mcvRefused_w (g : Piece) : Bool := (g == .fld .MCV_STAT_REFUSED)

theorem State.mcvRefused_same {g : Piece} {a : State} (hg : State.mcvRefused_w g = false) {s : State} (h : Same g a s) (x2 : _) :
    Same g a (State.mcvRefused s x2) := by
  simp only [State.mcvRefused_w] at hg
  unfold State.mcvRefused
  repeat' first | intro _ | with_reducible first | assumption | apply wr_same (by assumption)

def State.mcvHold_w (g : Piece) : Bool := State.mcvExpert_w g || State.mcvRefused_w g || State.updMon_w g || State.seqResume_w g || (g == .fld .MCV_CTRL_HOLD)

theorem State.mcvHold_same {g : Piece} {a : State} (hg : State.mcvHold_w g = false) {s : State} (h : Same g a s) (x2 : _) (x3 : _) :
    Same g a (State.mcvHold s x2 x3) := by
  simp only [State.mcvHold_w, Bool.or_eq_false_iff] at hg
  repeat (have := hg.2; replace hg := hg.1)
  unfold State.mcvHold
  repeat' first | intro _ | ((fail_if_no_progress extract_lets +onlyGivenNames z); (refine same_cut (a := a) (g := g) z ?_ fun hz => ?_) <;> [subst z; clear_value z]) | with_reducible first | assumption | apply wr_same (by assumption) | apply State.mcvExpert_same (by assumption) | apply State.mcvRefused_same (by assumption) | apply State.updMon_same (by assumption) | apply State.seqResume_same (by assumption) | apply same_ite | split

def execMcvCtrlHoldWrite_w (g : Piece) : Bool := State.order_w g || State.mcvHold_w g

theorem execMcvCtrlHoldWrite_same {g : Piece} {a : State} (hg : execMcvCtrlHoldWrite_w g = false) {s : State} (h : Same g a s) (x1 : _) (x2 : _) :
    SameR g a (execMcvCtrlHoldWrite x1 x2 s) := by
  simp only [execMcvCtrlHoldWrite_w, Bool.or_eq_false_iff] at hg
  repeat (have := hg.2; replace hg := hg.1)
  unfold execMcvCtrlHoldWrite
  repeat' first | intro _ | with_reducible first | assumption | apply sameR_next | apply sameR_ite | apply State.order_same (by assumption) | apply State.mcvHold_same (by assumption) | apply same_ite | split

def State.updTlm_w (g : Piece) : Bool := (g == .tlms)

theorem State.updTlm_same {g : Piece} {a : State} (hg : State.updTlm_w g = false) {s : State} (h : Same g a s) (x2 : _) (x3 : _) :
    Same g a (State.updTlm s x2 x3) := by
  simp only [State.updTlm_w] at hg
  unfold State.updTlm
  repeat' first | intro _ | with_reducible first | assumption | fail_if_no_progress apply same_mk_tlms (by assumption) | apply same_ite | split

def State.tlmOrder_w (g : Piece) : Bool := State.updTlm_w g || (g == .fld .TLM_CNT_ORDER_CNT)

theorem State.tlmOrder_same {g : Piece} {a : State} (hg : State.tlmOrder_w g = false) {s : State} (h : Same g a s) (x2 : _) :
    Same g a (State.tlmOrder s x2) := by
  simp only [State.tlmOrder_w, Bool.or_eq_false_iff] at hg
  repeat (have := hg.2; replace hg := hg.1)
  unfold State.tlmOrder
  repeat' first | intro _ | with_reducible first | assumption | apply State.updTlm_same (by assumption) | apply bump_same (by assumption)

def State.scalOrder_w (g : Piece) : Bool := State.scalRequest_w g || (g == .fld .MCV_CTRL_SCAL)

theorem State.scalOrder_same {g : Piece} {a : State} (hg : State.scalOrder_w g = false) {s : State} (h : Same g a s) (x2 : _) :
    Same g a (State.scalOrder s x2) := by
  simp only [State.scalOrder_w, Bool.or_eq_false_iff] at hg
  repeat (have := hg.2; replace hg := hg.1)
  unfold State.scalOrder
  repeat' first | intro _ | with_reducible first | assumption | apply State.scalRequest_same (by assumption) | apply wr_same (by assumption) | apply same_ite | split

def execMcvCtrlScal_w (g : Piece) : Bool := State.order_w g || State.scalOrder_w g

theorem execMcvCtrlScal_same {g : Piece} {a : State} (hg : execMcvCtrlScal_w g = false) {s : State} (h : Same g a s) (x1 : _) (x2 : _) :
    SameR g a (execMcvCtrlScal x1 x2 s) := by
  simp only [execMcvCtrlScal_w, Bool.or_eq_false_iff] at hg
  repeat (have := hg.2; replace hg := hg.1)
  unfold execMcvCtrlScal
  repeat' first | intro _ | with_reducible first | assumption | apply sameR_next | apply sameR_ite | apply State.order_same (by assumption) | apply State.when_same | apply State.scalOrder_same (by assumption) | apply same_ite | split

def State.urgentRequest_w (g : Piece) : Bool := State.monGo_w g || State.updMon_w g || (g == .aux .urgCount) || (g == .urg) || (g == .fld .MCV_PREEMPT_ABORTS)

theorem State.urgentRequest_same {g : Piece} {a : State} (hg : State.urgentRequest_w g = false) {s : State} (h : Same g a s) (x2 : _) (x3 : _) (x4 : _) :
    Same g a (State.urgentRequest s x2 x3 x4) := by
  simp only [State.urgentRequest_w, Bool.or_eq_false_iff] at hg
  repeat (have := hg.2; replace hg := hg.1)
  unfold State.urgentRequest
  repeat' first | intro _ | ((fail_if_no_progress extract_lets +onlyGivenNames z); first | (refine same_cut (a := a) (g := g) z ?_ fun hz => ?_) <;> [subst z; clear_value z] | clear_value z) | with_reducible first | assumption | apply setAx_same (by assumption) | apply State.monGo_same (by assumption) | apply State.updMon_same (by assumption) | apply bump_same (by assumption) | fail_if_no_progress apply same_mk_urg (by assumption) | apply same_ite | split

def execUrgentRequest_w (g : Piece) : Bool := State.urgentRequest_w g

theorem execUrgentRequest_same {g : Piece} {a : State} (hg : execUrgentRequest_w g = false) {s : State} (h : Same g a s) (x1 : _) (x2 : _) (x3 : _) :
    SameR g a (execUrgentRequest x1 x2 x3 s) := by
  simp only [execUrgentRequest_w] at hg
  unfold execUrgentRequest
  repeat' first | intro _ | with_reducible first | assumption | apply sameR_next | apply sameR_ite | apply State.urgentRequest_same (by assumption) | apply same_ite | split

def State.tlmWrite_w (g : Piece) : Bool := State.updTlm_w g || State.event_w g || (g == .aux .tlmGap) || (g == .fld .TLM_DROP_COUNT) || (g == .fld .TLM_WRIDX_COUNT) || (g == .mem) || (g == .aux .tlmSeen)

theorem State.tlmWrite_same {g : Piece} {a : State} (hg : State.tlmWrite_w g = false) {s : State} (h : Same g a s) (x2 : _) (x3 : _) :
    Same g a (State.tlmWrite s x2 x3) := by
  simp only [State.tlmWrite_w, Bool.or_eq_false_iff] at hg
  repeat (have := hg.2; replace hg := hg.1)
  unfold State.tlmWrite
  repeat' first | intro _ | ((fail_if_no_progress extract_lets +onlyGivenNames z); first | (refine same_cut (a := a) (g := g) z ?_ fun hz => ?_) <;> [subst z; clear_value z] | clear_value z) | with_reducible first | assumption | apply State.updTlm_same (by assumption) | apply setAx_same (by assumption) | apply bump_same (by assumption) | apply State.event_same (by assumption) | apply wr_same (by assumption) | apply storeHost_same (by assumption) | apply same_ite | split

def execTlmPeriodSample_w (g : Piece) : Bool := State.tlmWrite_w g || State.updTlm_w g || (g == .mem)

theorem execTlmPeriodSample_same {g : Piece} {a : State} (hg : execTlmPeriodSample_w g = false) {s : State} (h : Same g a s) (x1 : _) :
    SameR g a (execTlmPeriodSample x1 s) := by
  simp only [execTlmPeriodSample_w, Bool.or_eq_false_iff] at hg
  repeat (have := hg.2; replace hg := hg.1)
  unfold execTlmPeriodSample
  repeat' first | intro _ | ((fail_if_no_progress extract_lets +onlyGivenNames z); (refine same_cut (a := a) (g := g) z ?_ fun hz => ?_) <;> [subst z; clear_value z]) | with_reducible first | assumption | apply sameR_next | apply sameR_ite | apply State.each_same | apply State.tlmWrite_same (by assumption) | apply storeHost_same (by assumption) | apply State.updTlm_same (by assumption) | apply same_ite | split

def State.scalEnd_w (g : Piece) : Bool := State.updMon_w g || State.monFail_w g || State.monGo_w g || State.freshen_w g || (g == .fld .MCV_CTRL_SCAL) || (g == .fld .MCV_STAT_SCAL_A) || (g == .fld .MCV_STAT_SCAL_B) || (g == .fld .MCV_TFAB_MEAN)

theorem State.scalEnd_same {g : Piece} {a : State} (hg : State.scalEnd_w g = false) {s : State} (h : Same g a s) (x2 : _) (x3 : _) (x4 : _) :
    Same g a (State.scalEnd s x2 x3 x4) := by
  simp only [State.scalEnd_w, Bool.or_eq_false_iff] at hg
  repeat (have := hg.2; replace hg := hg.1)
  unfold State.scalEnd
  repeat' first | intro _ | ((fail_if_no_progress extract_lets +onlyGivenNames z); (refine same_cut (a := a) (g := g) z ?_ fun hz => ?_) <;> [subst z; clear_value z]) | with_reducible first | assumption | apply wr_same | apply State.updMon_same (by assumption) | apply State.monFail_same (by assumption) | apply State.monGo_same (by assumption) | apply State.freshen_same (by assumption) | apply same_ite | (unfold convSubField; split) | (unfold spareColField; split) | (unfold quotaField; split) | (unfold gateField; split) | (unfold readyField; split) | split

def execSelfCalEnd_w (g : Piece) : Bool := State.scalEnd_w g

theorem execSelfCalEnd_same {g : Piece} {a : State} (hg : execSelfCalEnd_w g = false) {s : State} (h : Same g a s) (x1 : _) (x2 : _) (x3 : _) :
    SameR g a (execSelfCalEnd x1 x2 x3 s) := by
  simp only [execSelfCalEnd_w] at hg
  unfold execSelfCalEnd
  repeat' first | intro _ | with_reducible first | assumption | apply sameR_next | apply sameR_ite | apply State.scalEnd_same (by assumption) | apply same_ite | split

def State.tlmStop_w (g : Piece) : Bool := State.tlmOrder_w g || State.updTlm_w g || State.tlmClose_w g || (g == .aux .tlmIdleStop)

theorem State.tlmStop_same {g : Piece} {a : State} (hg : State.tlmStop_w g = false) {s : State} (h : Same g a s) (x2 : _) :
    Same g a (State.tlmStop s x2) := by
  simp only [State.tlmStop_w, Bool.or_eq_false_iff] at hg
  repeat (have := hg.2; replace hg := hg.1)
  unfold State.tlmStop
  repeat' first | intro _ | ((fail_if_no_progress extract_lets +onlyGivenNames z); clear_value z) | with_reducible first | assumption | apply setAx_same (by assumption) | apply State.tlmOrder_same (by assumption) | apply State.updTlm_same (by assumption) | apply State.tlmClose_same (by assumption) | apply same_ite | split

def State.tlmOpen_w (g : Piece) : Bool := State.updTlm_w g || State.tlmClose_w g || (g == .fld .TLM_STAT_STATE)

theorem State.tlmOpen_same {g : Piece} {a : State} (hg : State.tlmOpen_w g = false) {s : State} (h : Same g a s) (x2 : _) :
    Same g a (State.tlmOpen s x2) := by
  simp only [State.tlmOpen_w, Bool.or_eq_false_iff] at hg
  repeat (have := hg.2; replace hg := hg.1)
  unfold State.tlmOpen
  repeat' first | intro _ | ((fail_if_no_progress extract_lets +onlyGivenNames z); (refine same_cut (a := a) (g := g) z ?_ fun hz => ?_) <;> [subst z; clear_value z]) | with_reducible first | assumption | apply State.updTlm_same (by assumption) | apply wr_same (by assumption) | apply State.tlmClose_same (by assumption) | apply same_ite | split

def State.tlmStart_w (g : Piece) : Bool := State.tlmOrder_w g || State.updTlm_w g || State.tlmOpen_w g || (g == .fld .TLM_CNT_RESTART_CNT) || (g == .aux .tlmIdleStop) || (g == .fld .TLM_DROP_COUNT) || (g == .fld .TLM_CNT_ORDER_CNT) || (g == .tlms) || (g == .fld .TLM_STAT_STATE) || (g == .fld .TLM_LATE_TIME)

theorem State.tlmStart_same {g : Piece} {a : State} (hg : State.tlmStart_w g = false) {s : State} (h : Same g a s) (x2 : _) (x3 : _) :
    Same g a (State.tlmStart s x2 x3) := by
  simp only [State.tlmStart_w, Bool.or_eq_false_iff] at hg
  repeat (have := hg.2; replace hg := hg.1)
  unfold State.tlmStart
  repeat' first | intro _ | ((fail_if_no_progress extract_lets +onlyGivenNames z); first | (refine same_cut (a := a) (g := g) z ?_ fun hz => ?_) <;> [subst z; clear_value z] | clear_value z) | with_reducible first | assumption | apply bump_same (by assumption) | apply setAx_same (by assumption) | apply wr_same (by assumption) | apply State.tlmOrder_same (by assumption) | apply State.updTlm_same (by assumption) | apply State.tlmOpen_same (by assumption) | fail_if_no_progress apply same_mk_tlms (by assumption) | apply same_ite | split

def execTlmStart_w (g : Piece) : Bool := State.order_w g || State.tlmStart_w g

theorem execTlmStart_same {g : Piece} {a : State} (hg : execTlmStart_w g = false) {s : State} (h : Same g a s) (x1 : _) (x2 : _) (x3 : _) :
    SameR g a (execTlmStart x1 x2 x3 s) := by
  simp only [execTlmStart_w, Bool.or_eq_false_iff] at hg
  repeat (have := hg.2; replace hg := hg.1)
  unfold execTlmStart
  repeat' first | intro _ | with_reducible first | assumption | apply sameR_next | apply sameR_ite | apply State.order_same (by assumption) | apply State.when_same | apply State.tlmStart_same (by assumption) | apply same_ite | split

def execTlmRdidxWrite_w (g : Piece) : Bool := State.order_w g || (g == .fld .TLM_RDIDX_COUNT)

theorem execTlmRdidxWrite_same {g : Piece} {a : State} (hg : execTlmRdidxWrite_w g = false) {s : State} (h : Same g a s) (x1 : _) (x2 : _) :
    SameR g a (execTlmRdidxWrite x1 x2 s) := by
  simp only [execTlmRdidxWrite_w, Bool.or_eq_false_iff] at hg
  repeat (have := hg.2; replace hg := hg.1)
  unfold execTlmRdidxWrite
  repeat' first | intro _ | with_reducible first | assumption | apply sameR_next | apply sameR_ite | apply State.order_same (by assumption) | apply wr_same (by assumption) | apply same_ite | split

def execSelfCalDue_w (g : Piece) : Bool := State.scalRequest_w g

theorem execSelfCalDue_same {g : Piece} {a : State} (hg : execSelfCalDue_w g = false) {s : State} (h : Same g a s) (x1 : _) :
    SameR g a (execSelfCalDue x1 s) := by
  simp only [execSelfCalDue_w] at hg
  unfold execSelfCalDue
  repeat' first | intro _ | with_reducible first | assumption | apply sameR_next | apply sameR_ite | apply State.scalRequest_same (by assumption) | apply same_ite | split

def execMcvEntryStart_w (g : Piece) : Bool := State.updMon_w g || State.entryRun_w g

theorem execMcvEntryStart_same {g : Piece} {a : State} (hg : execMcvEntryStart_w g = false) {s : State} (h : Same g a s) (x1 : _) :
    SameR g a (execMcvEntryStart x1 s) := by
  simp only [execMcvEntryStart_w, Bool.or_eq_false_iff] at hg
  repeat (have := hg.2; replace hg := hg.1)
  unfold execMcvEntryStart
  repeat' first | intro _ | with_reducible first | assumption | apply sameR_next | apply sameR_ite | apply State.updMon_same (by assumption) | apply State.entryRun_same (by assumption) | apply same_ite | split

def execSimultaneousConversionEnd_w (g : Piece) : Bool := State.monGo_w g || State.updMon_w g || (g == .fld .MCV_SIMRES_CODE_B) || (g == .fld .MCV_SIMRES_CODE_A) || (g == .fld .MCV_SIMRES_DELAYED) || (g == .fld .MCV_SIMRES_VALID) || (g == .fld .MCV_SIMTIME_TIME)

theorem execSimultaneousConversionEnd_same {g : Piece} {a : State} (hg : execSimultaneousConversionEnd_w g = false) {s : State} (h : Same g a s) (x1 : _) (x2 : _) (x3 : _) :
    SameR g a (execSimultaneousConversionEnd x1 x2 x3 s) := by
  simp only [execSimultaneousConversionEnd_w, Bool.or_eq_false_iff] at hg
  repeat (have := hg.2; replace hg := hg.1)
  unfold execSimultaneousConversionEnd
  repeat' first | intro _ | ((fail_if_no_progress extract_lets +onlyGivenNames z); first | (refine same_cut (a := a) (g := g) z ?_ fun hz => ?_) <;> [subst z; clear_value z] | clear_value z) | with_reducible first | assumption | apply sameR_next | apply sameR_ite | apply wr_same (by assumption) | apply State.monGo_same (by assumption) | apply State.updMon_same (by assumption) | apply same_ite | split

def execTlmStop_w (g : Piece) : Bool := State.order_w g || State.tlmStop_w g

theorem execTlmStop_same {g : Piece} {a : State} (hg : execTlmStop_w g = false) {s : State} (h : Same g a s) (x1 : _) (x2 : _) :
    SameR g a (execTlmStop x1 x2 s) := by
  simp only [execTlmStop_w, Bool.or_eq_false_iff] at hg
  repeat (have := hg.2; replace hg := hg.1)
  unfold execTlmStop
  repeat' first | intro _ | with_reducible first | assumption | apply sameR_next | apply sameR_ite | apply State.order_same (by assumption) | apply State.when_same | apply State.tlmStop_same (by assumption) | apply same_ite | split

def State.mcvClear_w (g : Piece) : Bool := (g == .fld .MCV_SIMRES_OVERRUNS) || (g == .fld .MCV_PREEMPT_PROTECTED) || (g == .fld .MCV_PREEMPT_ABORTS) || (g == .fld .MCV_PLAUS_FAULTS)

theorem State.mcvClear_same {g : Piece} {a : State} (hg : State.mcvClear_w g = false) {s : State} (h : Same g a s) (x2 : _) :
    Same g a (State.mcvClear s x2) := by
  simp only [State.mcvClear_w, Bool.or_eq_false_iff] at hg
  repeat (have := hg.2; replace hg := hg.1)
  unfold State.mcvClear
  repeat' first | intro _ | with_reducible first | assumption | apply wr_same (by assumption)

def execMcvCtrlClear_w (g : Piece) : Bool := State.order_w g || State.mcvClear_w g

theorem execMcvCtrlClear_same {g : Piece} {a : State} (hg : execMcvCtrlClear_w g = false) {s : State} (h : Same g a s) (x1 : _) (x2 : _) :
    SameR g a (execMcvCtrlClear x1 x2 s) := by
  simp only [execMcvCtrlClear_w, Bool.or_eq_false_iff] at hg
  repeat (have := hg.2; replace hg := hg.1)
  unfold execMcvCtrlClear
  repeat' first | intro _ | with_reducible first | assumption | apply sameR_next | apply sameR_ite | apply State.order_same (by assumption) | apply State.when_same | apply State.mcvClear_same (by assumption) | apply same_ite | split

def execMcvTrigGo_w (g : Piece) : Bool := State.order_w g || State.mcvGo_w g

theorem execMcvTrigGo_same {g : Piece} {a : State} (hg : execMcvTrigGo_w g = false) {s : State} (h : Same g a s) (x1 : _) (x2 : _) :
    SameR g a (execMcvTrigGo x1 x2 s) := by
  simp only [execMcvTrigGo_w, Bool.or_eq_false_iff] at hg
  repeat (have := hg.2; replace hg := hg.1)
  unfold execMcvTrigGo
  repeat' first | intro _ | with_reducible first | assumption | apply sameR_next | apply sameR_ite | apply State.order_same (by assumption) | apply State.when_same | apply State.mcvGo_same (by assumption) | apply same_ite | split

def execTlmTimedStart_w (g : Piece) : Bool := State.tlmOpen_w g

theorem execTlmTimedStart_same {g : Piece} {a : State} (hg : execTlmTimedStart_w g = false) {s : State} (h : Same g a s) (x1 : _) :
    SameR g a (execTlmTimedStart x1 s) := by
  simp only [execTlmTimedStart_w] at hg
  unfold execTlmTimedStart
  repeat' first | intro _ | with_reducible first | assumption | apply sameR_next | apply sameR_ite | apply State.tlmOpen_same (by assumption) | apply same_ite | split

def execTlmCancel_w (g : Piece) : Bool := State.order_w g || State.tlmClose_w g

theorem execTlmCancel_same {g : Piece} {a : State} (hg : execTlmCancel_w g = false) {s : State} (h : Same g a s) (x1 : _) (x2 : _) :
    SameR g a (execTlmCancel x1 x2 s) := by
  simp only [execTlmCancel_w, Bool.or_eq_false_iff] at hg
  repeat (have := hg.2; replace hg := hg.1)
  unfold execTlmCancel
  repeat' first | intro _ | with_reducible first | assumption | apply sameR_next | apply sameR_ite | apply State.order_same (by assumption) | apply State.tlmClose_same (by assumption) | apply same_ite | split

def execMcvTimedTrigger_w (g : Piece) : Bool := State.simTrigger_w g || State.updMon_w g

theorem execMcvTimedTrigger_same {g : Piece} {a : State} (hg : execMcvTimedTrigger_w g = false) {s : State} (h : Same g a s) (x1 : _) :
    SameR g a (execMcvTimedTrigger x1 s) := by
  simp only [execMcvTimedTrigger_w, Bool.or_eq_false_iff] at hg
  repeat (have := hg.2; replace hg := hg.1)
  unfold execMcvTimedTrigger
  repeat' first | intro _ | with_reducible first | assumption | apply sameR_next | apply sameR_ite | apply State.simTrigger_same (by assumption) | apply State.updMon_same (by assumption) | apply same_ite | split

def State.timedTrigger_w (g : Piece) : Bool := State.simTrigger_w g || State.updMon_w g || (g == .fld .MCV_TTRIG_TIME)

theorem State.timedTrigger_same {g : Piece} {a : State} (hg : State.timedTrigger_w g = false) {s : State} (h : Same g a s) (x2 : _) (x3 : _) :
    Same g a (State.timedTrigger s x2 x3) := by
  simp only [State.timedTrigger_w, Bool.or_eq_false_iff] at hg
  repeat (have := hg.2; replace hg := hg.1)
  unfold State.timedTrigger
  repeat' first | intro _ | ((fail_if_no_progress extract_lets +onlyGivenNames z); (refine same_cut (a := a) (g := g) z ?_ fun hz => ?_) <;> [subst z; clear_value z]) | with_reducible first | assumption | apply wr_same (by assumption) | apply State.simTrigger_same (by assumption) | apply State.updMon_same (by assumption) | apply same_ite | split

def execUrgentConversionEnd_w (g : Piece) : Bool := State.monGo_w g || (g == .urg)

theorem execUrgentConversionEnd_same {g : Piece} {a : State} (hg : execUrgentConversionEnd_w g = false) {s : State} (h : Same g a s) (x1 : _) (x2 : _) :
    SameR g a (execUrgentConversionEnd x1 x2 s) := by
  simp only [execUrgentConversionEnd_w, Bool.or_eq_false_iff] at hg
  repeat (have := hg.2; replace hg := hg.1)
  unfold execUrgentConversionEnd
  repeat' first | intro _ | with_reducible first | assumption | apply sameR_next | apply sameR_ite | apply State.monGo_same (by assumption) | fail_if_no_progress apply same_mk_urg (by assumption) | apply same_ite | split

def execMcvCtrlModeWrite_w (g : Piece) : Bool := State.order_w g || State.mcvMode_w g

theorem execMcvCtrlModeWrite_same {g : Piece} {a : State} (hg : execMcvCtrlModeWrite_w g = false) {s : State} (h : Same g a s) (x1 : _) (x2 : _) :
    SameR g a (execMcvCtrlModeWrite x1 x2 s) := by
  simp only [execMcvCtrlModeWrite_w, Bool.or_eq_false_iff] at hg
  repeat (have := hg.2; replace hg := hg.1)
  unfold execMcvCtrlModeWrite
  repeat' first | intro _ | with_reducible first | assumption | apply sameR_next | apply sameR_ite | apply State.order_same (by assumption) | apply State.mcvMode_same (by assumption) | apply same_ite | split

end Sys2Proof.Machine
end

