-- ==== Sys2Proof/Laws/SameDrivers.lean ====
section
/-!
SUPPORT. Laws/SameDrivers.lean: what the operations of Machine/Drivers.lean may change, and that they leave the rest alone.
-/

set_option linter.unusedTactic false
set_option linter.unusedSimpArgs false
set_option linter.unusedVariables false
set_option linter.tactic.unusedName false
set_option linter.unreachableTactic false

namespace Sys2Proof.Machine

def State.drvExpert_w (g : Piece) : Bool := (g == .fld .DRV_STAT_EXPERT)

theorem State.drvExpert_same {g : Piece} {a : State} (hg : State.drvExpert_w g = false) {s : State} (h : Same g a s) (x2 : _) (x3 : _) :
    Same g a (State.drvExpert s x2 x3) := by
  simp only [State.drvExpert_w] at hg
  unfold State.drvExpert
  repeat' first | intro _ | with_reducible first | assumption | apply wr_same (by assumption)

def State.drvCfg_w (g : Piece) : Bool := State.setDrive_w g || State.drvExpert_w g

theorem State.drvCfg_same {g : Piece} {a : State} (hg : State.drvCfg_w g = false) {s : State} (h : Same g a s) (x2 : _) (x3 : _) (x4 : _) :
    Same g a (State.drvCfg s x2 x3 x4) := by
  simp only [State.drvCfg_w, Bool.or_eq_false_iff] at hg
  repeat (have := hg.2; replace hg := hg.1)
  unfold State.drvCfg
  repeat' first | intro _ | with_reducible first | assumption | apply State.setDrive_same (by assumption) | apply State.drvExpert_same (by assumption) | apply same_ite | split

def execDrvCfgWrite_w (g : Piece) : Bool := State.order_w g || State.drvCfg_w g

theorem execDrvCfgWrite_same {g : Piece} {a : State} (hg : execDrvCfgWrite_w g = false) {s : State} (h : Same g a s) (x1 : _) (x2 : _) (x3 : _) :
    SameR g a (execDrvCfgWrite x1 x2 x3 s) := by
  simp only [execDrvCfgWrite_w, Bool.or_eq_false_iff] at hg
  repeat (have := hg.2; replace hg := hg.1)
  unfold execDrvCfgWrite
  repeat' first | intro _ | with_reducible first | assumption | apply sameR_next | apply sameR_ite | apply State.order_same (by assumption) | apply State.drvCfg_same (by assumption) | apply same_ite | split

def State.updPlay_w (g : Piece) : Bool := (g == .plays)

theorem State.updPlay_same {g : Piece} {a : State} (hg : State.updPlay_w g = false) {s : State} (h : Same g a s) (x2 : _) (x3 : _) (x4 : _) :
    Same g a (State.updPlay s x2 x3 x4) := by
  simp only [State.updPlay_w] at hg
  unfold State.updPlay
  repeat' first | intro _ | with_reducible first | assumption | fail_if_no_progress apply same_mk_plays (by assumption) | apply same_ite | split

def State.playOrder_w (g : Piece) : Bool := State.updPlay_w g || (g == .fld .WFM_PLAY_CNT_ORDER_CNT)

theorem State.playOrder_same {g : Piece} {a : State} (hg : State.playOrder_w g = false) {s : State} (h : Same g a s) (x2 : _) (x3 : _) :
    Same g a (State.playOrder s x2 x3) := by
  simp only [State.playOrder_w, Bool.or_eq_false_iff] at hg
  repeat (have := hg.2; replace hg := hg.1)
  unfold State.playOrder
  repeat' first | intro _ | with_reducible first | assumption | apply State.updPlay_same (by assumption) | apply bump_same (by assumption)

def State.driveRows_w (g : Piece) : Bool := State.updTile_w g

theorem State.driveRows_same {g : Piece} {a : State} (hg : State.driveRows_w g = false) {s : State} (h : Same g a s) (x2 : _) (x3 : _) :
    Same g a (State.driveRows s x2 x3) := by
  simp only [State.driveRows_w] at hg
  unfold State.driveRows
  repeat' first | intro _ | with_reducible first | assumption | apply State.updTile_same (by assumption)

def State.playEnd_w (g : Piece) : Bool := State.showEngine_w g || State.driveRows_w g || State.pump_w g || (g == .plays) || (g == .fld .DRV_STAT_PLAYING) || (g == .fld .WFM_PLAY_STAT_FLAGS) || (g == .fld .WFM_PLAY_STAT_STATUS) || (g == .fld .WFM_PLAY_STAT_STATE)

theorem State.playEnd_same {g : Piece} {a : State} (hg : State.playEnd_w g = false) {s : State} (h : Same g a s) (x2 : _) (x3 : _) (x4 : _) :
    Same g a (State.playEnd s x2 x3 x4) := by
  simp only [State.playEnd_w, Bool.or_eq_false_iff] at hg
  repeat (have := hg.2; replace hg := hg.1)
  unfold State.playEnd
  repeat' first | intro _ | ((fail_if_no_progress extract_lets +onlyGivenNames z); first | (refine same_cut (a := a) (g := g) z ?_ fun hz => ?_) <;> [subst z; clear_value z] | clear_value z) | with_reducible first | assumption | apply State.showEngine_same (by assumption) | apply wr_same (by assumption) | apply State.driveRows_same (by assumption) | apply State.pump_same (by assumption) | fail_if_no_progress apply same_mk_plays (by assumption) | apply same_ite | split

def State.playStop_w (g : Piece) : Bool := State.playOrder_w g || State.updPlay_w g || State.playEnd_w g || (g == .aux .wfmExpert)

theorem State.playStop_same {g : Piece} {a : State} (hg : State.playStop_w g = false) {s : State} (h : Same g a s) (x2 : _) (x3 : _) :
    Same g a (State.playStop s x2 x3) := by
  simp only [State.playStop_w, Bool.or_eq_false_iff] at hg
  repeat (have := hg.2; replace hg := hg.1)
  unfold State.playStop
  repeat' first | intro _ | ((fail_if_no_progress extract_lets +onlyGivenNames z); first | (refine same_cut (a := a) (g := g) z ?_ fun hz => ?_) <;> [subst z; clear_value z] | clear_value z) | with_reducible first | assumption | apply setAx_same (by assumption) | apply State.playOrder_same (by assumption) | apply State.updPlay_same (by assumption) | apply State.playEnd_same (by assumption) | apply same_ite | split

def State.playAbort_w (g : Piece) : Bool := State.fresh_w g || State.showEngine_w g || (g == .fld .WFM_PLAY_STAT_STATUS) || (g == .fld .WFM_PLAY_STAT_CLOCK_ABORT) || (g == .fld .WFM_PLAY_STAT_STATE) || (g == .plays) || (g == .fld .DRV_STAT_PLAYING)

theorem State.playAbort_same {g : Piece} {a : State} (hg : State.playAbort_w g = false) {s : State} (h : Same g a s) (x2 : _) :
    Same g a (State.playAbort s x2) := by
  simp only [State.playAbort_w, Bool.or_eq_false_iff] at hg
  repeat (have := hg.2; replace hg := hg.1)
  unfold State.playAbort
  repeat' first | intro _ | ((fail_if_no_progress extract_lets +onlyGivenNames z); first | (first | refine same_cut (a := a) (g := g) z ?_ fun hz => ?_ | refine same_cut2 (a := a) (g := g) z ?_ fun hz => ?_) <;> [subst z; clear_value z] | clear_value z) | with_reducible first | assumption | apply State.fresh_same (by assumption) | apply wr_same (by assumption) | apply State.showEngine_same (by assumption) | fail_if_no_progress apply same_mk_plays (by assumption) | refine same_of2 (by assumption) ?_ | split

def State.drivePoint_w (g : Piece) : Bool := State.driveRows_w g || State.addPulse_w g || (g == .fld .WFM_PLAY_STAT_POINT) || (g == .fld .DRV_CLAMP_COUNT) || (g == .fld .WFM_STAT_CLAMP_CNT) || (g == .fld .TIL_STATUS_STATE)

theorem State.drivePoint_same {g : Piece} {a : State} (hg : State.drivePoint_w g = false) {s : State} (h : Same g a s) (x2 : _) :
    Same g a (State.drivePoint s x2) := by
  simp only [State.drivePoint_w, Bool.or_eq_false_iff] at hg
  repeat (have := hg.2; replace hg := hg.1)
  unfold State.drivePoint
  repeat' first | intro _ | ((fail_if_no_progress extract_lets +onlyGivenNames z); first | (refine same_cut (a := a) (g := g) z ?_ fun hz => ?_) <;> [subst z; clear_value z] | clear_value z) | with_reducible first | assumption | apply wr_same (by assumption) | apply bump_same (by assumption) | apply State.driveRows_same (by assumption) | apply State.addPulse_same (by assumption) | apply same_ite | split

def State.playPoint_w (g : Piece) : Bool := State.drivePoint_w g || State.updPlay_w g || State.playEnd_w g

theorem State.playPoint_same {g : Piece} {a : State} (hg : State.playPoint_w g = false) {s : State} (h : Same g a s) (x2 : _) (x3 : _) :
    Same g a (State.playPoint s x2 x3) := by
  simp only [State.playPoint_w, Bool.or_eq_false_iff] at hg
  repeat (have := hg.2; replace hg := hg.1)
  unfold State.playPoint
  repeat' first | intro _ | ((fail_if_no_progress extract_lets +onlyGivenNames z); first | (refine same_fn z ?_; subst z; beta_reduce) | clear_value z) | with_reducible first | assumption | apply State.drivePoint_same (by assumption) | apply State.updPlay_same (by assumption) | apply State.playEnd_same (by assumption) | apply same_ite | split

def State.playBegin_w (g : Piece) : Bool := State.updPlay_w g || State.showEngine_w g || State.playAbort_w g || State.playPoint_w g || (g == .fld .DRV_STAT_PLAYING) || (g == .fld .WFM_PLAY_STAT_STATE)

theorem State.playBegin_same {g : Piece} {a : State} (hg : State.playBegin_w g = false) {s : State} (h : Same g a s) (x2 : _) :
    Same g a (State.playBegin s x2) := by
  simp only [State.playBegin_w, Bool.or_eq_false_iff] at hg
  repeat (have := hg.2; replace hg := hg.1)
  unfold State.playBegin
  repeat' first | intro _ | ((fail_if_no_progress extract_lets +onlyGivenNames z); first | (refine same_cut (a := a) (g := g) z ?_ fun hz => ?_) <;> [subst z; clear_value z] | clear_value z) | with_reducible first | assumption | apply State.updPlay_same (by assumption) | apply wr_same (by assumption) | apply State.showEngine_same (by assumption) | apply State.playAbort_same (by assumption) | apply State.playPoint_same (by assumption) | apply same_ite | split

def State.playAccept_w (g : Piece) : Bool := State.showEngine_w g || State.driveRows_w g || State.playEnd_w g || State.playOrder_w g || State.updPlay_w g || State.playBegin_w g || (g == .fld .WFM_PLAY_CNT_RESTART_CNT) || (g == .fld .DRV_STAT_PLAYING) || (g == .plays) || (g == .fld .WFM_PLAY_STAT_CLOCK_ABORT) || (g == .fld .WFM_PLAY_STAT_STATE) || (g == .fld .WFM_PLAY_LATE_LATENESS)

theorem State.playAccept_same {g : Piece} {a : State} (hg : State.playAccept_w g = false) {s : State} (h : Same g a s) (x2 : _) (x3 : _) :
    Same g a (State.playAccept s x2 x3) := by
  simp only [State.playAccept_w, Bool.or_eq_false_iff] at hg
  repeat (have := hg.2; replace hg := hg.1)
  unfold State.playAccept
  repeat' first | intro _ | ((fail_if_no_progress extract_lets +onlyGivenNames z); first | (refine same_cut (a := a) (g := g) z ?_ fun hz => ?_) <;> [subst z; clear_value z] | clear_value z) | with_reducible first | assumption | apply bump_same (by assumption) | apply State.showEngine_same (by assumption) | apply wr_same (by assumption) | apply State.driveRows_same (by assumption) | apply State.playEnd_same (by assumption) | apply State.playOrder_same (by assumption) | apply State.updPlay_same (by assumption) | apply State.playBegin_same (by assumption) | fail_if_no_progress apply same_mk_plays (by assumption) | apply same_ite | split

def State.playStart_w (g : Piece) : Bool := State.playAccept_w g || (g == .aux .wfmExpert) || (g == .fld .WFM_STAT_REFUSED) || (g == .fld .WFM_PLAY_STAT_STATUS)

theorem State.playStart_same {g : Piece} {a : State} (hg : State.playStart_w g = false) {s : State} (h : Same g a s) (x2 : _) (x3 : _) (x4 : _) :
    Same g a (State.playStart s x2 x3 x4) := by
  simp only [State.playStart_w, Bool.or_eq_false_iff] at hg
  repeat (have := hg.2; replace hg := hg.1)
  unfold State.playStart
  repeat' first | intro _ | ((fail_if_no_progress extract_lets +onlyGivenNames z); first | (refine same_cut (a := a) (g := g) z ?_ fun hz => ?_) <;> [subst z; clear_value z] | clear_value z) | with_reducible first | assumption | apply setAx_same (by assumption) | apply wr_same (by assumption) | apply State.playAccept_same (by assumption) | apply same_ite | split

def execWfmPlayStart_w (g : Piece) : Bool := State.order_w g || State.playStart_w g

theorem execWfmPlayStart_same {g : Piece} {a : State} (hg : execWfmPlayStart_w g = false) {s : State} (h : Same g a s) (x1 : _) (x2 : _) (x3 : _) (x4 : _) :
    SameR g a (execWfmPlayStart x1 x2 x3 x4 s) := by
  simp only [execWfmPlayStart_w, Bool.or_eq_false_iff] at hg
  repeat (have := hg.2; replace hg := hg.1)
  unfold execWfmPlayStart
  repeat' first | intro _ | with_reducible first | assumption | apply sameR_next | apply sameR_ite | apply State.order_same (by assumption) | apply State.when_same | apply State.playStart_same (by assumption) | apply same_ite | split

def State.pointInterval_w (g : Piece) : Bool := State.urgentRequest_w g || State.playPoint_w g

theorem State.pointInterval_same {g : Piece} {a : State} (hg : State.pointInterval_w g = false) {s : State} (h : Same g a s) (x2 : _) :
    Same g a (State.pointInterval s x2) := by
  simp only [State.pointInterval_w, Bool.or_eq_false_iff] at hg
  repeat (have := hg.2; replace hg := hg.1)
  unfold State.pointInterval
  repeat' first | intro _ | ((fail_if_no_progress extract_lets +onlyGivenNames z); (refine same_cut (a := a) (g := g) z ?_ fun hz => ?_) <;> [subst z; clear_value z]) | with_reducible first | assumption | apply State.urgentRequest_same (by assumption) | apply State.playPoint_same (by assumption) | apply same_ite | split

def State.wfmHandback_w (g : Piece) : Bool := State.playEnd_w g || (g == .aux .wfmExpert)

theorem State.wfmHandback_same {g : Piece} {a : State} (hg : State.wfmHandback_w g = false) {s : State} (h : Same g a s) (x2 : _) :
    Same g a (State.wfmHandback s x2) := by
  simp only [State.wfmHandback_w, Bool.or_eq_false_iff] at hg
  repeat (have := hg.2; replace hg := hg.1)
  unfold State.wfmHandback
  repeat' first | intro _ | with_reducible first | assumption | apply setAx_same (by assumption) | apply State.each_same | apply State.playEnd_same (by assumption) | split

def execWfmStatHandback_w (g : Piece) : Bool := State.order_w g || State.wfmHandback_w g

theorem execWfmStatHandback_same {g : Piece} {a : State} (hg : execWfmStatHandback_w g = false) {s : State} (h : Same g a s) (x1 : _) (x2 : _) :
    SameR g a (execWfmStatHandback x1 x2 s) := by
  simp only [execWfmStatHandback_w, Bool.or_eq_false_iff] at hg
  repeat (have := hg.2; replace hg := hg.1)
  unfold execWfmStatHandback
  repeat' first | intro _ | with_reducible first | assumption | apply sameR_next | apply sameR_ite | apply State.order_same (by assumption) | apply State.when_same | apply State.wfmHandback_same (by assumption) | apply same_ite | split

def State.drvHandback_w (g : Piece) : Bool := State.takeFull_w g || State.setSlew_w g || State.setDrive_w g || (g == .fld .DRV_STAT_EXPERT)

theorem State.drvHandback_same {g : Piece} {a : State} (hg : State.drvHandback_w g = false) {s : State} (h : Same g a s) (x2 : _) (x3 : _) :
    Same g a (State.drvHandback s x2 x3) := by
  simp only [State.drvHandback_w, Bool.or_eq_false_iff] at hg
  repeat (have := hg.2; replace hg := hg.1)
  unfold State.drvHandback
  repeat' first | intro _ | with_reducible first | assumption | apply State.takeFull_same (by assumption) | apply wr_same (by assumption) | apply State.setSlew_same (by assumption) | apply State.setDrive_same (by assumption)

def State.timedStart_w (g : Piece) : Bool := State.playEnd_w g || State.playBegin_w g || (g == .fld .WFM_STAT_REFUSED)

theorem State.timedStart_same {g : Piece} {a : State} (hg : State.timedStart_w g = false) {s : State} (h : Same g a s) (x2 : _) :
    Same g a (State.timedStart s x2) := by
  simp only [State.timedStart_w, Bool.or_eq_false_iff] at hg
  repeat (have := hg.2; replace hg := hg.1)
  unfold State.timedStart
  repeat' first | intro _ | with_reducible first | assumption | apply wr_same (by assumption) | apply State.playEnd_same (by assumption) | apply State.playBegin_same (by assumption) | apply same_ite | split

def execWfmTimedStart_w (g : Piece) : Bool := State.timedStart_w g

theorem execWfmTimedStart_same {g : Piece} {a : State} (hg : execWfmTimedStart_w g = false) {s : State} (h : Same g a s) (x1 : _) (x2 : _) :
    SameR g a (execWfmTimedStart x1 x2 s) := by
  simp only [execWfmTimedStart_w] at hg
  unfold execWfmTimedStart
  repeat' first | intro _ | with_reducible first | assumption | apply sameR_next | apply sameR_ite | apply State.timedStart_same (by assumption) | apply same_ite | split

def execWfmTimedStop_w (g : Piece) : Bool := State.playEnd_w g

theorem execWfmTimedStop_same {g : Piece} {a : State} (hg : execWfmTimedStop_w g = false) {s : State} (h : Same g a s) (x1 : _) (x2 : _) :
    SameR g a (execWfmTimedStop x1 x2 s) := by
  simp only [execWfmTimedStop_w] at hg
  unfold execWfmTimedStop
  repeat' first | intro _ | with_reducible first | assumption | apply sameR_next | apply sameR_ite | apply State.playEnd_same (by assumption) | apply same_ite | split

def State.drvSlew_w (g : Piece) : Bool := State.setSlew_w g || State.drvExpert_w g || (g == .fld .DRV_STAT_REFUSED)

theorem State.drvSlew_same {g : Piece} {a : State} (hg : State.drvSlew_w g = false) {s : State} (h : Same g a s) (x2 : _) (x3 : _) (x4 : _) :
    Same g a (State.drvSlew s x2 x3 x4) := by
  simp only [State.drvSlew_w, Bool.or_eq_false_iff] at hg
  repeat (have := hg.2; replace hg := hg.1)
  unfold State.drvSlew
  repeat' first | intro _ | with_reducible first | assumption | apply wr_same (by assumption) | apply State.setSlew_same (by assumption) | apply State.drvExpert_same (by assumption) | apply same_ite | split

def execWfmPlayStop_w (g : Piece) : Bool := State.order_w g || State.playStop_w g

theorem execWfmPlayStop_same {g : Piece} {a : State} (hg : execWfmPlayStop_w g = false) {s : State} (h : Same g a s) (x1 : _) (x2 : _) (x3 : _) :
    SameR g a (execWfmPlayStop x1 x2 x3 s) := by
  simp only [execWfmPlayStop_w, Bool.or_eq_false_iff] at hg
  repeat (have := hg.2; replace hg := hg.1)
  unfold execWfmPlayStop
  repeat' first | intro _ | with_reducible first | assumption | apply sameR_next | apply sameR_ite | apply State.order_same (by assumption) | apply State.when_same | apply State.playStop_same (by assumption) | apply same_ite | split

def State.waveNext_w (g : Piece) : Bool := (g == .fld .WFM_ADDR_WAVE) || (g == .fld .WFM_ADDR_POINT)

theorem State.waveNext_same {g : Piece} {a : State} (hg : State.waveNext_w g = false) {s : State} (h : Same g a s) (x2 : _) :
    Same g a (State.waveNext s x2) := by
  simp only [State.waveNext_w, Bool.or_eq_false_iff] at hg
  repeat (have := hg.2; replace hg := hg.1)
  unfold State.waveNext
  repeat' first | intro _ | ((fail_if_no_progress extract_lets +onlyGivenNames z); clear_value z) | with_reducible first | assumption | apply wr_same (by assumption) | apply same_ite | split

def State.waveWrite_w (g : Piece) : Bool := State.waveNext_w g || (g == .fld .WFM_STAT_REFUSED) || (g == .aux .wfmExpert) || (g == .waves)

theorem State.waveWrite_same {g : Piece} {a : State} (hg : State.waveWrite_w g = false) {s : State} (h : Same g a s) (x2 : _) (x3 : _) :
    Same g a (State.waveWrite s x2 x3) := by
  simp only [State.waveWrite_w, Bool.or_eq_false_iff] at hg
  repeat (have := hg.2; replace hg := hg.1)
  unfold State.waveWrite
  repeat' first | intro _ | ((fail_if_no_progress extract_lets +onlyGivenNames z); first | (refine same_cut (a := a) (g := g) z ?_ fun hz => ?_) <;> [subst z; clear_value z] | clear_value z) | with_reducible first | assumption | apply wr_same (by assumption) | apply setAx_same (by assumption) | apply State.waveNext_same (by assumption) | fail_if_no_progress apply same_mk_waves (by assumption) | apply same_ite | split

def execWfmDataAccess_w (g : Piece) : Bool := State.waveNext_w g || State.emit_w g || State.order_w g || State.waveWrite_w g

theorem execWfmDataAccess_same {g : Piece} {a : State} (hg : execWfmDataAccess_w g = false) {s : State} (h : Same g a s) (x1 : _) (x2 : _) :
    SameR g a (execWfmDataAccess x1 x2 s) := by
  simp only [execWfmDataAccess_w, Bool.or_eq_false_iff] at hg
  repeat (have := hg.2; replace hg := hg.1)
  unfold execWfmDataAccess
  repeat' first | intro _ | with_reducible first | assumption | apply sameR_next | apply sameR_ite | apply State.waveNext_same (by assumption) | apply State.emit_same (by assumption) | apply State.order_same (by assumption) | apply State.waveWrite_same (by assumption) | apply same_ite | split

def execWfmPlayCancel_w (g : Piece) : Bool := State.order_w g || State.playEnd_w g

theorem execWfmPlayCancel_same {g : Piece} {a : State} (hg : execWfmPlayCancel_w g = false) {s : State} (h : Same g a s) (x1 : _) (x2 : _) (x3 : _) :
    SameR g a (execWfmPlayCancel x1 x2 x3 s) := by
  simp only [execWfmPlayCancel_w, Bool.or_eq_false_iff] at hg
  repeat (have := hg.2; replace hg := hg.1)
  unfold execWfmPlayCancel
  repeat' first | intro _ | with_reducible first | assumption | apply sameR_next | apply sameR_ite | apply State.order_same (by assumption) | apply State.playEnd_same (by assumption) | apply same_ite | split

def execWfmPointInterval_w (g : Piece) : Bool := State.pointInterval_w g

theorem execWfmPointInterval_same {g : Piece} {a : State} (hg : execWfmPointInterval_w g = false) {s : State} (h : Same g a s) (x1 : _) (x2 : _) :
    SameR g a (execWfmPointInterval x1 x2 s) := by
  simp only [execWfmPointInterval_w] at hg
  unfold execWfmPointInterval
  repeat' first | intro _ | with_reducible first | assumption | apply sameR_next | apply sameR_ite | apply State.pointInterval_same (by assumption) | apply same_ite | split

def execDrvSlewWrite_w (g : Piece) : Bool := State.order_w g || State.drvSlew_w g

theorem execDrvSlewWrite_same {g : Piece} {a : State} (hg : execDrvSlewWrite_w g = false) {s : State} (h : Same g a s) (x1 : _) (x2 : _) (x3 : _) :
    SameR g a (execDrvSlewWrite x1 x2 x3 s) := by
  simp only [execDrvSlewWrite_w, Bool.or_eq_false_iff] at hg
  repeat (have := hg.2; replace hg := hg.1)
  unfold execDrvSlewWrite
  repeat' first | intro _ | with_reducible first | assumption | apply sameR_next | apply sameR_ite | apply State.order_same (by assumption) | apply State.drvSlew_same (by assumption) | apply same_ite | split

def execDrvCfgHandback_w (g : Piece) : Bool := State.order_w g || State.drvHandback_w g

theorem execDrvCfgHandback_same {g : Piece} {a : State} (hg : execDrvCfgHandback_w g = false) {s : State} (h : Same g a s) (x1 : _) (x2 : _) (x3 : _) :
    SameR g a (execDrvCfgHandback x1 x2 x3 s) := by
  simp only [execDrvCfgHandback_w, Bool.or_eq_false_iff] at hg
  repeat (have := hg.2; replace hg := hg.1)
  unfold execDrvCfgHandback
  repeat' first | intro _ | with_reducible first | assumption | apply sameR_next | apply sameR_ite | apply State.order_same (by assumption) | apply State.when_same | apply State.drvHandback_same (by assumption) | apply same_ite | split

end Sys2Proof.Machine
end

