-- ==== Sys2Proof/Laws/SameSafeState.lean ====
section
/-!
SUPPORT. Laws/SameSafeState.lean: what the operations of Machine/SafeState.lean may change, and that they leave the rest alone.
-/

set_option linter.unusedTactic false
set_option linter.unusedSimpArgs false
set_option linter.unusedVariables false
set_option linter.tactic.unusedName false
set_option linter.unreachableTactic false

namespace Sys2Proof.Machine

def State.clampDie_w (g : Piece) : Bool := State.playAbort_w g || (g == .tiles)

theorem State.clampDie_same {g : Piece} {a : State} (hg : State.clampDie_w g = false) {s : State} (h : Same g a s) (x2 : _) :
    Same g a (State.clampDie s x2) := by
  simp only [State.clampDie_w, Bool.or_eq_false_iff] at hg
  repeat (have := hg.2; replace hg := hg.1)
  unfold State.clampDie
  repeat' first | intro _ | ((fail_if_no_progress extract_lets +onlyGivenNames z); first | (refine same_cut (a := a) (g := g) z ?_ fun hz => ?_) <;> [subst z; clear_value z] | clear_value z) | with_reducible first | assumption | apply State.each_same | apply State.playAbort_same (by assumption) | fail_if_no_progress apply same_mk_tiles (by assumption) | apply same_ite | split

def State.leaveSelfRefresh_w (g : Piece) : Bool := State.retrainStart_w g || (g == .fld .MEM_STAT_SELF_REFRESH)

theorem State.leaveSelfRefresh_same {g : Piece} {a : State} (hg : State.leaveSelfRefresh_w g = false) {s : State} (h : Same g a s) (x2 : _) :
    Same g a (State.leaveSelfRefresh s x2) := by
  simp only [State.leaveSelfRefresh_w, Bool.or_eq_false_iff] at hg
  repeat (have := hg.2; replace hg := hg.1)
  unfold State.leaveSelfRefresh
  repeat' first | intro _ | with_reducible first | assumption | apply State.each_same | apply wr_same (by assumption) | apply State.retrainStart_same (by assumption) | apply same_ite | split

def State.cutDie_w (g : Piece) : Bool := State.updTile_w g || State.setTst_w g || State.showEngine_w g || State.updReq_w g || (g == .fld .WFM_PLAY_STAT_CLOCK_ABORT)

theorem State.cutDie_same {g : Piece} {a : State} (hg : State.cutDie_w g = false) {s : State} (h : Same g a s) (x2 : _) :
    Same g a (State.cutDie s x2) := by
  simp only [State.cutDie_w, Bool.or_eq_false_iff] at hg
  repeat (have := hg.2; replace hg := hg.1)
  unfold State.cutDie
  repeat' first | intro _ | ((fail_if_no_progress extract_lets +onlyGivenNames z); first | (refine same_cut (a := a) (g := g) z ?_ fun hz => ?_) <;> [subst z; clear_value z] | clear_value z) | with_reducible first | assumption | apply State.each_same | apply State.updTile_same (by assumption) | apply State.setTst_same (by assumption) | apply wr_same (by assumption) | apply State.showEngine_same (by assumption) | apply State.updReq_same (by assumption) | apply same_ite | split

def State.dieSafe_w (g : Piece) : Bool := State.cutDie_w g || State.clampDie_w g || (g == .fld .MEM_STAT_SELF_REFRESH)

theorem State.dieSafe_same {g : Piece} {a : State} (hg : State.dieSafe_w g = false) {s : State} (h : Same g a s) (x2 : _) :
    Same g a (State.dieSafe s x2) := by
  simp only [State.dieSafe_w, Bool.or_eq_false_iff] at hg
  repeat (have := hg.2; replace hg := hg.1)
  unfold State.dieSafe
  repeat' first | intro _ | with_reducible first | assumption | apply wr_same (by assumption) | apply State.cutDie_same (by assumption) | apply State.clampDie_same (by assumption)

def State.restartFrom3_w (g : Piece) : Bool := (g == .aux .startAt) || (g == .fld .START_REPORT_REASON) || (g == .fld .START_REPORT_STEP) || (g == .fld .START_REPORT_STATE) || (g == .aux .startMask)

theorem State.restartFrom3_same {g : Piece} {a : State} (hg : State.restartFrom3_w g = false) {s : State} (h : Same g a s) :
    Same g a (State.restartFrom3 s) := by
  simp only [State.restartFrom3_w, Bool.or_eq_false_iff] at hg
  repeat (have := hg.2; replace hg := hg.1)
  unfold State.restartFrom3
  repeat' first | intro _ | with_reducible first | assumption | apply setAx_same (by assumption) | apply wr_same (by assumption)

def State.leaveSafe_w (g : Piece) : Bool := State.leaveSelfRefresh_w g || State.pump_w g || (g == .aux .realign) || (g == .fld .CLK_STAT_SAFE)

theorem State.leaveSafe_same {g : Piece} {a : State} (hg : State.leaveSafe_w g = false) {s : State} (h : Same g a s) :
    Same g a (State.leaveSafe s) := by
  simp only [State.leaveSafe_w, Bool.or_eq_false_iff] at hg
  repeat (have := hg.2; replace hg := hg.1)
  unfold State.leaveSafe
  repeat' first | intro _ | ((fail_if_no_progress extract_lets +onlyGivenNames z); (refine same_cut (a := a) (g := g) z ?_ fun hz => ?_) <;> [subst z; clear_value z]) | with_reducible first | assumption | apply State.each_same | apply State.leaveSelfRefresh_same (by assumption) | apply setAx_same (by assumption) | apply wr_same (by assumption) | apply State.pump_same (by assumption) | apply same_ite | split

def State.enterSafe_w (g : Piece) : Bool := State.dieSafe_w g || (g == .fld .YOK_STATUS_FIRING) || (g == .fld .CLK_STAT_SAFE)

theorem State.enterSafe_same {g : Piece} {a : State} (hg : State.enterSafe_w g = false) {s : State} (h : Same g a s) :
    Same g a (State.enterSafe s) := by
  simp only [State.enterSafe_w, Bool.or_eq_false_iff] at hg
  repeat (have := hg.2; replace hg := hg.1)
  unfold State.enterSafe
  repeat' first | intro _ | with_reducible first | assumption | apply wr_same (by assumption) | apply State.each_same | apply State.dieSafe_same (by assumption)

end Sys2Proof.Machine
end

