-- ==== Sys2Proof/Laws/SameRecord.lean ====
section
/-!
SUPPORT. Laws/SameRecord.lean: what the operations of Machine/Record.lean may change, and that they leave the rest alone.
-/

set_option linter.unusedTactic false
set_option linter.unusedSimpArgs false
set_option linter.unusedVariables false
set_option linter.tactic.unusedName false
set_option linter.unreachableTactic false

namespace Sys2Proof.Machine

def State.recordLost_w (g : Piece) : Bool := State.event_w g

theorem State.recordLost_same {g : Piece} {a : State} (hg : State.recordLost_w g = false) {s : State} (h : Same g a s) (x2 : _) (x3 : _) (x4 : _) (x5 : _) :
    Same g a (State.recordLost s x2 x3 x4 x5) := by
  simp only [State.recordLost_w] at hg
  unfold State.recordLost
  repeat' first | intro _ | with_reducible first | assumption | apply State.event_same (by assumption)

def State.setRecord_w (g : Piece) : Bool := (g == .recs)

theorem State.setRecord_same {g : Piece} {a : State} (hg : State.setRecord_w g = false) {s : State} (h : Same g a s) (x2 : _) (x3 : _) (x4 : _) :
    Same g a (State.setRecord s x2 x3 x4) := by
  simp only [State.setRecord_w] at hg
  unfold State.setRecord
  repeat' first | intro _ | with_reducible first | assumption | fail_if_no_progress apply same_mk_recs (by assumption) | split

def State.recLoad_w (g : Piece) : Bool := State.recordLost_w g || State.setTab_w g || State.updTile_w g || State.setTaps_w g || State.setCause_w g || (g == .aux .ucNext) || (g == .aux .sigma0)

theorem State.recLoad_same {g : Piece} {a : State} (hg : State.recLoad_w g = false) {s : State} (h : Same g a s) (x2 : _) (x3 : _) :
    Same g a (State.recLoad s x2 x3) := by
  simp only [State.recLoad_w, Bool.or_eq_false_iff] at hg
  repeat (have := hg.2; replace hg := hg.1)
  unfold State.recLoad
  repeat' first | intro _ | ((fail_if_no_progress extract_lets +onlyGivenNames z); first | (refine same_cut (a := a) (g := g) z ?_ fun hz => ?_) <;> [subst z; clear_value z] | clear_value z) | with_reducible first | assumption | apply State.recordLost_same (by assumption) | apply State.setTab_same (by assumption) | apply State.updTile_same (by assumption) | apply setAx_same (by assumption) | apply State.each_same | apply State.setTaps_same (by assumption) | apply State.setCause_same (by assumption) | apply same_ite | split

def State.takeTemp_w (g : Piece) : Bool := State.dropTab_w g || State.setTab_w g

theorem State.takeTemp_same {g : Piece} {a : State} (hg : State.takeTemp_w g = false) {s : State} (h : Same g a s) (x2 : _) (x3 : _) :
    Same g a (State.takeTemp s x2 x3) := by
  simp only [State.takeTemp_w, Bool.or_eq_false_iff] at hg
  repeat (have := hg.2; replace hg := hg.1)
  unfold State.takeTemp
  repeat' first | intro _ | with_reducible first | assumption | apply State.dropTab_same (by assumption) | apply State.each_same | apply State.setTab_same (by assumption)

def State.setCauses_w (g : Piece) : Bool := State.setCause_w g

theorem State.setCauses_same {g : Piece} {a : State} (hg : State.setCauses_w g = false) {s : State} (h : Same g a s) (x2 : _) :
    Same g a (State.setCauses s x2) := by
  simp only [State.setCauses_w] at hg
  unfold State.setCauses
  repeat' first | intro _ | ((fail_if_no_progress extract_lets +onlyGivenNames z); clear_value z) | with_reducible first | assumption | apply State.each_same | apply State.setCause_same (by assumption)

def State.setLost_w (g : Piece) : Bool := State.recordLost_w g || State.setTab_w g

theorem State.setLost_same {g : Piece} {a : State} (hg : State.setLost_w g = false) {s : State} (h : Same g a s) (x2 : _) (x3 : _) :
    Same g a (State.setLost s x2 x3) := by
  simp only [State.setLost_w, Bool.or_eq_false_iff] at hg
  repeat (have := hg.2; replace hg := hg.1)
  unfold State.setLost
  repeat' first | intro _ | with_reducible first | assumption | apply State.recordLost_same (by assumption) | apply State.setTab_same (by assumption)

def State.recRead_w (g : Piece) : Bool := State.setRecord_w g || State.recLoad_w g || State.setTab_w g || State.takeTemp_w g || State.setCauses_w g || State.setLost_w g

theorem State.recRead_same {g : Piece} {a : State} (hg : State.recRead_w g = false) {s : State} (h : Same g a s) (x2 : _) (x3 : _) :
    Same g a (State.recRead s x2 x3) := by
  simp only [State.recRead_w, Bool.or_eq_false_iff] at hg
  repeat (have := hg.2; replace hg := hg.1)
  unfold State.recRead
  repeat' first | intro _ | ((fail_if_no_progress extract_lets +onlyGivenNames z); first | (refine same_cut (a := a) (g := g) z ?_ fun hz => ?_) <;> [subst z; clear_value z] | clear_value z) | with_reducible first | assumption | apply State.each_same | apply State.setRecord_same (by assumption) | apply State.recLoad_same (by assumption) | apply State.setTab_same (by assumption) | apply State.takeTemp_same (by assumption) | apply State.setCauses_same (by assumption) | apply State.setLost_same (by assumption) | split

def State.entriesLost_w (g : Piece) : Bool := State.recordLost_w g || State.setRecord_w g || State.queueCal_w g

theorem State.entriesLost_same {g : Piece} {a : State} (hg : State.entriesLost_w g = false) {s : State} (h : Same g a s) (x2 : _) (x3 : _) :
    Same g a (State.entriesLost s x2 x3) := by
  simp only [State.entriesLost_w, Bool.or_eq_false_iff] at hg
  repeat (have := hg.2; replace hg := hg.1)
  unfold State.entriesLost
  repeat' first | intro _ | ((fail_if_no_progress extract_lets +onlyGivenNames z); first | (refine same_cut (a := a) (g := g) z ?_ fun hz => ?_) <;> [subst z; clear_value z] | clear_value z) | with_reducible first | assumption | apply State.recordLost_same (by assumption) | apply State.setRecord_same (by assumption) | apply State.queueCal_same (by assumption) | apply same_ite | split

def State.recordFails_w (g : Piece) : Bool := State.setTst_w g || State.takeSpare_w g || State.noSlot_w g || State.event_w g || State.markRetired_w g || State.entriesLost_w g || State.recordLost_w g || (g == .fld .TIL_STATUS_STATE) || (g == .aux .recRole) || (g == .fld .TIL_STATUS_REPLACES)

theorem State.recordFails_same {g : Piece} {a : State} (hg : State.recordFails_w g = false) {s : State} (h : Same g a s) (x2 : _) (x3 : _) (x4 : _) (x5 : _) :
    Same g a (State.recordFails s x2 x3 x4 x5) := by
  simp only [State.recordFails_w, Bool.or_eq_false_iff] at hg
  repeat (have := hg.2; replace hg := hg.1)
  unfold State.recordFails
  repeat' first | intro _ | ((fail_if_no_progress extract_lets +onlyGivenNames z); first | (refine same_cut (a := a) (g := g) z ?_ fun hz => ?_) <;> [subst z; clear_value z] | clear_value z) | with_reducible first | assumption | apply State.setTst_same (by assumption) | apply wr_same (by assumption) | apply State.takeSpare_same (by assumption) | apply setAx_same (by assumption) | apply State.noSlot_same (by assumption) | apply State.event_same (by assumption) | apply State.markRetired_same (by assumption) | apply State.each_same | apply State.entriesLost_same (by assumption) | apply State.recordLost_same (by assumption) | apply same_ite | split

def State.recWrite_w (g : Piece) : Bool := State.setRecord_w g || State.setCause_w g || State.recordLost_w g

theorem State.recWrite_same {g : Piece} {a : State} (hg : State.recWrite_w g = false) {s : State} (h : Same g a s) (x2 : _) (x3 : _) :
    Same g a (State.recWrite s x2 x3) := by
  simp only [State.recWrite_w, Bool.or_eq_false_iff] at hg
  repeat (have := hg.2; replace hg := hg.1)
  unfold State.recWrite
  repeat' first | intro _ | ((fail_if_no_progress extract_lets +onlyGivenNames z); first | (refine same_cut (a := a) (g := g) z ?_ fun hz => ?_) <;> [subst z; clear_value z] | clear_value z) | with_reducible first | assumption | apply State.setRecord_same (by assumption) | apply State.setCause_same (by assumption) | apply State.recordLost_same (by assumption) | apply foldl_same | apply same_ite | split

def State.recSave_w (g : Piece) : Bool := State.setRecord_w g

theorem State.recSave_same {g : Piece} {a : State} (hg : State.recSave_w g = false) {s : State} (h : Same g a s) (x2 : _) (x3 : _) :
    Same g a (State.recSave s x2 x3) := by
  simp only [State.recSave_w] at hg
  unfold State.recSave
  repeat' first | intro _ | ((fail_if_no_progress extract_lets +onlyGivenNames z); clear_value z) | with_reducible first | assumption | apply State.setRecord_same (by assumption)

end Sys2Proof.Machine
end

