-- ==== Sys2Proof/Laws/SameTileCmds.lean ====
section
/-!
SUPPORT. Laws/SameTileCmds.lean: what the operations of Machine/TileCmds.lean may change, and that they leave the rest alone.
-/

set_option linter.unusedTactic false
set_option linter.unusedSimpArgs false
set_option linter.unusedVariables false
set_option linter.tactic.unusedName false
set_option linter.unreachableTactic false

namespace Sys2Proof.Machine

def State.spareTest_w (g : Piece) : Bool := State.progPush_w g

theorem State.spareTest_same {g : Piece} {a : State} (hg : State.spareTest_w g = false) {s : State} (h : Same g a s) (x2 : _) (x3 : _) :
    Same g a (State.spareTest s x2 x3) := by
  simp only [State.spareTest_w] at hg
  unfold State.spareTest
  repeat' first | intro _ | ((fail_if_no_progress extract_lets +onlyGivenNames z); clear_value z) | with_reducible first | assumption | apply State.each_same | apply State.progPush_same (by assumption) | split

def State.tilExpert_w (g : Piece) : Bool := (g == .fld .TIL_STATUS_EXPERT)

theorem State.tilExpert_same {g : Piece} {a : State} (hg : State.tilExpert_w g = false) {s : State} (h : Same g a s) (x2 : _) (x3 : _) :
    Same g a (State.tilExpert s x2 x3) := by
  simp only [State.tilExpert_w] at hg
  unfold State.tilExpert
  repeat' first | intro _ | with_reducible first | assumption | apply wr_same (by assumption)

def State.tilHold_w (g : Piece) : Bool := State.tilExpert_w g || State.wantHold_w g || State.wantJoin_w g || (g == .fld .TIL_CTRL_HOLD) || (g == .aux .pendHold)

theorem State.tilHold_same {g : Piece} {a : State} (hg : State.tilHold_w g = false) {s : State} (h : Same g a s) (x2 : _) (x3 : _) (x4 : _) :
    Same g a (State.tilHold s x2 x3 x4) := by
  simp only [State.tilHold_w, Bool.or_eq_false_iff] at hg
  repeat (have := hg.2; replace hg := hg.1)
  unfold State.tilHold
  repeat' first | intro _ | ((fail_if_no_progress extract_lets +onlyGivenNames z); (refine same_cut (a := a) (g := g) z ?_ fun hz => ?_) <;> [subst z; clear_value z]) | with_reducible first | assumption | apply wr_same (by assumption) | apply State.tilExpert_same (by assumption) | apply State.wantHold_same (by assumption) | apply setAx_same (by assumption) | apply State.wantJoin_same (by assumption) | apply same_ite | split

def State.tilPrecision_w (g : Piece) : Bool := State.setPrecision_w g || (g == .fld .TIL_STATUS_REFUSED) || (g == .fld .TIL_CTRL_PRECISION)

theorem State.tilPrecision_same {g : Piece} {a : State} (hg : State.tilPrecision_w g = false) {s : State} (h : Same g a s) (x2 : _) (x3 : _) (x4 : _) :
    Same g a (State.tilPrecision s x2 x3 x4) := by
  simp only [State.tilPrecision_w, Bool.or_eq_false_iff] at hg
  repeat (have := hg.2; replace hg := hg.1)
  unfold State.tilPrecision
  repeat' first | intro _ | ((fail_if_no_progress extract_lets +onlyGivenNames z); clear_value z) | with_reducible first | assumption | apply wr_same (by assumption) | apply State.setPrecision_same (by assumption) | apply same_ite | split

def execTilCtrlPrecisionWrite_w (g : Piece) : Bool := State.order_w g || State.tilPrecision_w g

theorem execTilCtrlPrecisionWrite_same {g : Piece} {a : State} (hg : execTilCtrlPrecisionWrite_w g = false) {s : State} (h : Same g a s) (x1 : _) (x2 : _) (x3 : _) :
    SameR g a (execTilCtrlPrecisionWrite x1 x2 x3 s) := by
  simp only [execTilCtrlPrecisionWrite_w, Bool.or_eq_false_iff] at hg
  repeat (have := hg.2; replace hg := hg.1)
  unfold execTilCtrlPrecisionWrite
  repeat' first | intro _ | with_reducible first | assumption | apply sameR_next | apply sameR_ite | apply State.order_same (by assumption) | apply State.tilPrecision_same (by assumption) | apply same_ite | split

def State.tilRetire_w (g : Piece) : Bool := State.tilExpert_w g || State.markRetired_w g || State.rehome_w g || State.takeSpare_w g || State.recordFails_w g || State.replaceTile_w g || State.elementFails_w g || (g == .fld .TIL_CTRL_RETIRE)

theorem State.tilRetire_same {g : Piece} {a : State} (hg : State.tilRetire_w g = false) {s : State} (h : Same g a s) (x2 : _) (x3 : _) :
    Same g a (State.tilRetire s x2 x3) := by
  simp only [State.tilRetire_w, Bool.or_eq_false_iff] at hg
  repeat (have := hg.2; replace hg := hg.1)
  unfold State.tilRetire
  repeat' first | intro _ | ((fail_if_no_progress extract_lets +onlyGivenNames z); first | (refine same_cut (a := a) (g := g) z ?_ fun hz => ?_) <;> [subst z; clear_value z] | clear_value z) | with_reducible first | assumption | apply wr_same (by assumption) | apply State.tilExpert_same (by assumption) | apply State.markRetired_same (by assumption) | apply State.rehome_same (by assumption) | apply State.takeSpare_same (by assumption) | apply State.recordFails_same (by assumption) | apply State.replaceTile_same (by assumption) | apply State.elementFails_same (by assumption) | apply same_ite | split

def execTilCtrlRetire_w (g : Piece) : Bool := State.order_w g || State.tilRetire_w g

theorem execTilCtrlRetire_same {g : Piece} {a : State} (hg : execTilCtrlRetire_w g = false) {s : State} (h : Same g a s) (x1 : _) (x2 : _) (x3 : _) :
    SameR g a (execTilCtrlRetire x1 x2 x3 s) := by
  simp only [execTilCtrlRetire_w, Bool.or_eq_false_iff] at hg
  repeat (have := hg.2; replace hg := hg.1)
  unfold execTilCtrlRetire
  repeat' first | intro _ | with_reducible first | assumption | apply sameR_next | apply sameR_ite | apply State.order_same (by assumption) | apply State.when_same | apply State.tilRetire_same (by assumption) | apply same_ite | split

def execSpareTileTest_w (g : Piece) : Bool := State.spareTest_w g

theorem execSpareTileTest_same {g : Piece} {a : State} (hg : execSpareTileTest_w g = false) {s : State} (h : Same g a s) (x1 : _) (x2 : _) :
    SameR g a (execSpareTileTest x1 x2 s) := by
  simp only [execSpareTileTest_w] at hg
  unfold execSpareTileTest
  repeat' first | intro _ | with_reducible first | assumption | apply sameR_next | apply sameR_ite | apply State.spareTest_same (by assumption) | apply same_ite | split

def execRecordTileFailure_w (g : Piece) : Bool := State.recordFails_w g

theorem execRecordTileFailure_same {g : Piece} {a : State} (hg : execRecordTileFailure_w g = false) {s : State} (h : Same g a s) (x1 : _) (x2 : _) (x3 : _) (x4 : _) :
    SameR g a (execRecordTileFailure x1 x2 x3 x4 s) := by
  simp only [execRecordTileFailure_w] at hg
  unfold execRecordTileFailure
  repeat' first | intro _ | with_reducible first | assumption | apply sameR_next | apply sameR_ite | apply State.recordFails_same (by assumption) | apply same_ite | split

def execTilCtrlHoldWrite_w (g : Piece) : Bool := State.order_w g || State.tilHold_w g

theorem execTilCtrlHoldWrite_same {g : Piece} {a : State} (hg : execTilCtrlHoldWrite_w g = false) {s : State} (h : Same g a s) (x1 : _) (x2 : _) (x3 : _) :
    SameR g a (execTilCtrlHoldWrite x1 x2 x3 s) := by
  simp only [execTilCtrlHoldWrite_w, Bool.or_eq_false_iff] at hg
  repeat (have := hg.2; replace hg := hg.1)
  unfold execTilCtrlHoldWrite
  repeat' first | intro _ | with_reducible first | assumption | apply sameR_next | apply sameR_ite | apply State.order_same (by assumption) | apply State.tilHold_same (by assumption) | apply same_ite | split

def State.tilHandback_w (g : Piece) : Bool := State.calForMap_w g || State.tilHold_w g || (g == .fld .TIL_STATUS_EXPERT) || (g == .fld .TIL_CHECK_TOL)

theorem State.tilHandback_same {g : Piece} {a : State} (hg : State.tilHandback_w g = false) {s : State} (h : Same g a s) (x2 : _) (x3 : _) :
    Same g a (State.tilHandback s x2 x3) := by
  simp only [State.tilHandback_w, Bool.or_eq_false_iff] at hg
  repeat (have := hg.2; replace hg := hg.1)
  unfold State.tilHandback
  repeat' first | intro _ | with_reducible first | assumption | apply State.calForMap_same (by assumption) | apply wr_same (by assumption) | apply State.tilHold_same (by assumption) | apply same_ite | split

def execTilCtrlHandback_w (g : Piece) : Bool := State.order_w g || State.tilHandback_w g

theorem execTilCtrlHandback_same {g : Piece} {a : State} (hg : execTilCtrlHandback_w g = false) {s : State} (h : Same g a s) (x1 : _) (x2 : _) (x3 : _) :
    SameR g a (execTilCtrlHandback x1 x2 x3 s) := by
  simp only [execTilCtrlHandback_w, Bool.or_eq_false_iff] at hg
  repeat (have := hg.2; replace hg := hg.1)
  unfold execTilCtrlHandback
  repeat' first | intro _ | with_reducible first | assumption | apply sameR_next | apply sameR_ite | apply State.order_same (by assumption) | apply State.when_same | apply State.tilHandback_same (by assumption) | apply same_ite | split

end Sys2Proof.Machine
end

