-- ==== Sys2Proof/Laws/SameCalib.lean ====
section
/-!
SUPPORT. Laws/SameCalib.lean: what the operations of Machine/Calib.lean may change, and that they leave the rest alone.
-/

set_option linter.unusedTactic false
set_option linter.unusedSimpArgs false
set_option linter.unusedVariables false
set_option linter.tactic.unusedName false
set_option linter.unreachableTactic false

namespace Sys2Proof.Machine

def State.traceStart_w (g : Piece) : Bool := State.updMon_w g || (g == .aux .traceWait) || (g == .aux .traceRun)

theorem State.traceStart_same {g : Piece} {a : State} (hg : State.traceStart_w g = false) {s : State} (h : Same g a s) (x2 : _) :
    Same g a (State.traceStart s x2) := by
  simp only [State.traceStart_w, Bool.or_eq_false_iff] at hg
  repeat (have := hg.2; replace hg := hg.1)
  unfold State.traceStart
  repeat' first | intro _ | with_reducible first | assumption | apply State.updMon_same (by assumption) | apply setAx_same (by assumption)

def State.traceBegin_w (g : Piece) : Bool := State.traceStart_w g || (g == .aux .traceWait)

theorem State.traceBegin_same {g : Piece} {a : State} (hg : State.traceBegin_w g = false) {s : State} (h : Same g a s) (x2 : _) :
    Same g a (State.traceBegin s x2) := by
  simp only [State.traceBegin_w, Bool.or_eq_false_iff] at hg
  repeat (have := hg.2; replace hg := hg.1)
  unfold State.traceBegin
  repeat' first | intro _ | with_reducible first | assumption | apply setAx_same (by assumption) | apply State.traceStart_same (by assumption) | apply same_ite | split

def State.traceAsk_w (g : Piece) : Bool := State.traceBegin_w g || (g == .fld .CAL_CTRL_TRACE)

theorem State.traceAsk_same {g : Piece} {a : State} (hg : State.traceAsk_w g = false) {s : State} (h : Same g a s) (x2 : _) :
    Same g a (State.traceAsk s x2) := by
  simp only [State.traceAsk_w, Bool.or_eq_false_iff] at hg
  repeat (have := hg.2; replace hg := hg.1)
  unfold State.traceAsk
  repeat' first | intro _ | ((fail_if_no_progress extract_lets +onlyGivenNames z); (refine same_cut (a := a) (g := g) z ?_ fun hz => ?_) <;> [subst z; clear_value z]) | with_reducible first | assumption | apply wr_same (by assumption) | apply State.traceBegin_same (by assumption) | apply same_ite | split

def execCalCtrlTrace_w (g : Piece) : Bool := State.order_w g || State.traceAsk_w g

theorem execCalCtrlTrace_same {g : Piece} {a : State} (hg : execCalCtrlTrace_w g = false) {s : State} (h : Same g a s) (x1 : _) (x2 : _) :
    SameR g a (execCalCtrlTrace x1 x2 s) := by
  simp only [execCalCtrlTrace_w, Bool.or_eq_false_iff] at hg
  repeat (have := hg.2; replace hg := hg.1)
  unfold execCalCtrlTrace
  repeat' first | intro _ | with_reducible first | assumption | apply sameR_next | apply sameR_ite | apply State.order_same (by assumption) | apply State.when_same | apply State.traceAsk_same (by assumption) | apply same_ite | split

def State.driftAge_w (g : Piece) : Bool := State.setCause_w g

theorem State.driftAge_same {g : Piece} {a : State} (hg : State.driftAge_w g = false) {s : State} (h : Same g a s) (x2 : _) (x3 : _) :
    Same g a (State.driftAge s x2 x3) := by
  simp only [State.driftAge_w] at hg
  unfold State.driftAge
  repeat' first | intro _ | with_reducible first | assumption | apply State.setCause_same (by assumption) | apply same_ite | split

def State.countRows_w (g : Piece) : Bool := (g == .aux .ucFailed) || (g == .fld .DRV_UCSTAT_ROWS_FAILED)

theorem State.countRows_same {g : Piece} {a : State} (hg : State.countRows_w g = false) {s : State} (h : Same g a s) (x2 : _) (x3 : _) (x4 : _) :
    Same g a (State.countRows s x2 x3 x4) := by
  simp only [State.countRows_w, Bool.or_eq_false_iff] at hg
  repeat (have := hg.2; replace hg := hg.1)
  unfold State.countRows
  repeat' first | intro _ | ((fail_if_no_progress extract_lets +onlyGivenNames z); (refine same_cut (a := a) (g := g) z ?_ fun hz => ?_) <;> [subst z; clear_value z]) | with_reducible first | assumption | apply setAx_same (by assumption) | apply wr_same (by assumption) | apply foldl_same

def State.takeNew_w (g : Piece) : Bool := State.setTab_w g || State.takeTemp_w g || State.dropTab_w g

theorem State.takeNew_same {g : Piece} {a : State} (hg : State.takeNew_w g = false) {s : State} (h : Same g a s) (x2 : _) (x3 : _) :
    Same g a (State.takeNew s x2 x3) := by
  simp only [State.takeNew_w, Bool.or_eq_false_iff] at hg
  repeat (have := hg.2; replace hg := hg.1)
  unfold State.takeNew
  repeat' first | intro _ | ((fail_if_no_progress extract_lets +onlyGivenNames z); (refine same_cut (a := a) (g := g) z ?_ fun hz => ?_) <;> [subst z; clear_value z]) | with_reducible first | assumption | apply State.each_same | apply State.setTab_same (by assumption) | apply State.takeTemp_same (by assumption) | apply State.dropTab_same (by assumption)

def State.calTileBack_w (g : Piece) : Bool := State.calForMap_w g || State.aim_w g || State.takeFull_w g || State.updTile_w g || State.takeNew_w g

theorem State.calTileBack_same {g : Piece} {a : State} (hg : State.calTileBack_w g = false) {s : State} (h : Same g a s) (x2 : _) (x3 : _) :
    Same g a (State.calTileBack s x2 x3) := by
  simp only [State.calTileBack_w, Bool.or_eq_false_iff] at hg
  repeat (have := hg.2; replace hg := hg.1)
  unfold State.calTileBack
  repeat' first | intro _ | with_reducible first | assumption | apply State.calForMap_same (by assumption) | apply State.aim_same (by assumption) | apply State.takeFull_same (by assumption) | apply State.updTile_same (by assumption) | apply State.takeNew_same (by assumption)

def State.endTraceOps_w (g : Piece) : Bool := State.endOp_w g

theorem State.endTraceOps_same {g : Piece} {a : State} (hg : State.endTraceOps_w g = false) {s : State} (h : Same g a s) (x2 : _) :
    Same g a (State.endTraceOps s x2) := by
  simp only [State.endTraceOps_w] at hg
  unfold State.endTraceOps
  repeat' first | intro _ | with_reducible first | assumption | apply State.each_same | apply State.endOp_same (by assumption) | split

def State.fullRejected_w (g : Piece) : Bool := State.progPush_w g || State.replaceTile_w g || State.dropRefresh_w g || State.queueCal_w g

theorem State.fullRejected_same {g : Piece} {a : State} (hg : State.fullRejected_w g = false) {s : State} (h : Same g a s) (x2 : _) (x3 : _) (x4 : _) :
    Same g a (State.fullRejected s x2 x3 x4) := by
  simp only [State.fullRejected_w, Bool.or_eq_false_iff] at hg
  repeat (have := hg.2; replace hg := hg.1)
  unfold State.fullRejected
  repeat' first | intro _ | ((fail_if_no_progress extract_lets +onlyGivenNames z); first | (refine same_cut (a := a) (g := g) z ?_ fun hz => ?_) <;> [subst z; clear_value z] | clear_value z) | with_reducible first | assumption | apply State.progPush_same (by assumption) | apply State.replaceTile_same (by assumption) | apply State.dropRefresh_same (by assumption) | apply State.queueCal_same (by assumption) | apply same_ite | split

def State.dropCal_w (g : Piece) : Bool := (g == .cals) || (g == .fld .CAL_STATUS_BUSY)

theorem State.dropCal_same {g : Piece} {a : State} (hg : State.dropCal_w g = false) {s : State} (h : Same g a s) (x2 : _) (x3 : _) :
    Same g a (State.dropCal s x2 x3) := by
  simp only [State.dropCal_w, Bool.or_eq_false_iff] at hg
  repeat (have := hg.2; replace hg := hg.1)
  unfold State.dropCal
  repeat' first | intro _ | ((fail_if_no_progress extract_lets +onlyGivenNames z); (refine same_cut (a := a) (g := g) z ?_ fun hz => ?_) <;> [subst z; clear_value z]) | with_reducible first | assumption | apply wr_same (by assumption) | fail_if_no_progress apply same_mk_cals (by assumption) | split

def State.calBadRows_w (g : Piece) : Bool := State.elementFails_w g

theorem State.calBadRows_same {g : Piece} {a : State} (hg : State.calBadRows_w g = false) {s : State} (h : Same g a s) (x2 : _) (x3 : _) (x4 : _) :
    Same g a (State.calBadRows s x2 x3 x4) := by
  simp only [State.calBadRows_w] at hg
  unfold State.calBadRows
  repeat' first | intro _ | with_reducible first | assumption | apply State.elementFails_same (by assumption) | apply same_ite | split

def State.calRejoin_w (g : Piece) : Bool := State.wantJoin_w g

theorem State.calRejoin_same {g : Piece} {a : State} (hg : State.calRejoin_w g = false) {s : State} (h : Same g a s) (x2 : _) (x3 : _) :
    Same g a (State.calRejoin s x2 x3) := by
  simp only [State.calRejoin_w] at hg
  unfold State.calRejoin
  repeat' first | intro _ | with_reducible first | assumption | apply State.wantJoin_same (by assumption) | apply same_ite | split

def State.suspect_w (g : Piece) : Bool := State.event_w g || State.scheduleRefresh_w g || (g == .fld .TIL_STATUS_SUSPECT)

theorem State.suspect_same {g : Piece} {a : State} (hg : State.suspect_w g = false) {s : State} (h : Same g a s) (x2 : _) (x3 : _) :
    Same g a (State.suspect s x2 x3) := by
  simp only [State.suspect_w, Bool.or_eq_false_iff] at hg
  repeat (have := hg.2; replace hg := hg.1)
  unfold State.suspect
  repeat' first | intro _ | ((fail_if_no_progress extract_lets +onlyGivenNames z); (refine same_cut (a := a) (g := g) z ?_ fun hz => ?_) <;> [subst z; clear_value z]) | with_reducible first | assumption | apply State.event_same (by assumption) | apply wr_same (by assumption) | apply State.scheduleRefresh_same (by assumption) | apply same_ite | split

def State.calReject_w (g : Piece) : Bool := State.setCause_w g || State.updTile_w g || State.event_w g || State.suspect_w g || (g == .fld .CAL_REJECTS_COUNT) || (g == .fld .TIL_STATUS_CAL_REJ_RUN)

theorem State.calReject_same {g : Piece} {a : State} (hg : State.calReject_w g = false) {s : State} (h : Same g a s) (x2 : _) (x3 : _) (x4 : _) (x5 : _) (x6 : _) :
    Same g a (State.calReject s x2 x3 x4 x5 x6) := by
  simp only [State.calReject_w, Bool.or_eq_false_iff] at hg
  repeat (have := hg.2; replace hg := hg.1)
  unfold State.calReject
  repeat' first | intro _ | ((fail_if_no_progress extract_lets +onlyGivenNames z); first | (refine same_cut (a := a) (g := g) z ?_ fun hz => ?_) <;> [subst z; clear_value z] | clear_value z) | with_reducible first | assumption | apply State.setCause_same (by assumption) | apply bump_same (by assumption) | apply wr_same (by assumption) | apply State.updTile_same (by assumption) | apply State.event_same (by assumption) | apply State.suspect_same (by assumption) | apply same_ite | split

def State.refreshCalibrated_w (g : Piece) : Bool := (g == .refreshes)

theorem State.refreshCalibrated_same {g : Piece} {a : State} (hg : State.refreshCalibrated_w g = false) {s : State} (h : Same g a s) (x2 : _) (x3 : _) :
    Same g a (State.refreshCalibrated s x2 x3) := by
  simp only [State.refreshCalibrated_w] at hg
  unfold State.refreshCalibrated
  repeat' first | intro _ | with_reducible first | assumption | fail_if_no_progress apply same_mk_refreshes (by assumption) | apply same_ite | split

def State.unitCells_w (g : Piece) : Bool := State.setTab_w g || (g == .aux .ucNext)

theorem State.unitCells_same {g : Piece} {a : State} (hg : State.unitCells_w g = false) {s : State} (h : Same g a s) (x2 : _) (x3 : _) (x4 : _) :
    Same g a (State.unitCells s x2 x3 x4) := by
  simp only [State.unitCells_w, Bool.or_eq_false_iff] at hg
  repeat (have := hg.2; replace hg := hg.1)
  unfold State.unitCells
  repeat' first | intro _ | ((fail_if_no_progress extract_lets +onlyGivenNames z); first | (refine same_cut (a := a) (g := g) z ?_ fun hz => ?_) <;> [subst z; clear_value z] | clear_value z) | with_reducible first | assumption | apply State.each_same | apply State.setTab_same (by assumption) | apply setAx_same (by assumption) | apply same_ite | split

def State.keepTaps_w (g : Piece) : Bool := State.setTab_w g || (g == .aux .tapsNew)

theorem State.keepTaps_same {g : Piece} {a : State} (hg : State.keepTaps_w g = false) {s : State} (h : Same g a s) (x2 : _) (x3 : _) (x4 : _) :
    Same g a (State.keepTaps s x2 x3 x4) := by
  simp only [State.keepTaps_w, Bool.or_eq_false_iff] at hg
  repeat (have := hg.2; replace hg := hg.1)
  unfold State.keepTaps
  repeat' first | intro _ | with_reducible first | assumption | apply setAx_same (by assumption) | apply State.each_same | apply State.setTab_same (by assumption)

def State.altRows_w (g : Piece) : Bool := (g == .fld .DRV_UCSTAT_ROWS_ALT)

theorem State.altRows_same {g : Piece} {a : State} (hg : State.altRows_w g = false) {s : State} (h : Same g a s) (x2 : _) (x3 : _) :
    Same g a (State.altRows s x2 x3) := by
  simp only [State.altRows_w] at hg
  unfold State.altRows
  repeat' first | intro _ | ((fail_if_no_progress extract_lets +onlyGivenNames z); clear_value z) | with_reducible first | assumption | apply wr_same (by assumption) | split

def State.calAccept_w (g : Piece) : Bool := State.setTab_w g || State.takeFull_w g || State.updTile_w g || State.setCause_w g || State.aim_w g || (g == .fld .TIL_STATUS_CAL_REJ_RUN)

theorem State.calAccept_same {g : Piece} {a : State} (hg : State.calAccept_w g = false) {s : State} (h : Same g a s) (x2 : _) (x3 : _) (x4 : _) (x5 : _) (x6 : _) :
    Same g a (State.calAccept s x2 x3 x4 x5 x6) := by
  simp only [State.calAccept_w, Bool.or_eq_false_iff] at hg
  repeat (have := hg.2; replace hg := hg.1)
  unfold State.calAccept
  repeat' first | intro _ | ((fail_if_no_progress extract_lets +onlyGivenNames z); (refine same_cut (a := a) (g := g) z ?_ fun hz => ?_) <;> [subst z; clear_value z]) | with_reducible first | assumption | apply State.each_same | apply State.setTab_same (by assumption) | apply State.takeFull_same (by assumption) | apply State.updTile_same (by assumption) | apply State.setCause_same (by assumption) | apply State.aim_same (by assumption) | apply wr_same (by assumption)

def State.fullAccept_w (g : Piece) : Bool := State.setTab_w g || State.unitCells_w g || State.keepTaps_w g || State.setCause_w g || State.updTile_w g || State.recWrite_w g || State.altRows_w g || State.calAccept_w g || (g == .fld .TIL_STATUS_SUSPECT)

theorem State.fullAccept_same {g : Piece} {a : State} (hg : State.fullAccept_w g = false) {s : State} (h : Same g a s) (x2 : _) (x3 : _) (x4 : _) (x5 : _) :
    Same g a (State.fullAccept s x2 x3 x4 x5) := by
  simp only [State.fullAccept_w, Bool.or_eq_false_iff] at hg
  repeat (have := hg.2; replace hg := hg.1)
  unfold State.fullAccept
  repeat' first | intro _ | ((fail_if_no_progress extract_lets +onlyGivenNames z); first | (refine same_cut (a := a) (g := g) z ?_ fun hz => ?_) <;> [subst z; clear_value z] | clear_value z) | with_reducible first | assumption | apply State.each_same | apply State.setTab_same (by assumption) | apply State.unitCells_same (by assumption) | apply State.keepTaps_same (by assumption) | apply State.setCause_same (by assumption) | apply State.updTile_same (by assumption) | apply State.recWrite_same (by assumption) | apply State.altRows_same (by assumption) | apply State.calAccept_same (by assumption) | apply wr_same (by assumption) | apply same_ite | split

def State.fullResult_w (g : Piece) : Bool := State.fullRejected_w g || State.calReject_w g || State.refreshCalibrated_w g || State.fullAccept_w g

theorem State.fullResult_same {g : Piece} {a : State} (hg : State.fullResult_w g = false) {s : State} (h : Same g a s) (x2 : _) (x3 : _) (x4 : _) (x5 : _) (x6 : _) :
    Same g a (State.fullResult s x2 x3 x4 x5 x6) := by
  simp only [State.fullResult_w, Bool.or_eq_false_iff] at hg
  repeat (have := hg.2; replace hg := hg.1)
  unfold State.fullResult
  repeat' first | intro _ | with_reducible first | assumption | apply State.fullRejected_same (by assumption) | apply State.calReject_same (by assumption) | apply State.refreshCalibrated_same (by assumption) | apply State.fullAccept_same (by assumption) | split

def State.fullEnd_w (g : Piece) : Bool := State.countRows_w g || State.dropCal_w g || State.calBadRows_w g || State.calRejoin_w g || State.fullOver_w g || State.fullResult_w g || State.roundTileDone_w g || State.endOp_w g || State.pump_w g || State.mapCheckOf_w g || State.calForMap_w g || (g == .fld .CAL_FULLS_COUNT) || (g == .fld .HEM_TAPS_STALE)

theorem State.fullEnd_same {g : Piece} {a : State} (hg : State.fullEnd_w g = false) {s : State} (h : Same g a s) (x2 : _) (x3 : _) (x4 : _) (x5 : _) :
    Same g a (State.fullEnd s x2 x3 x4 x5) := by
  simp only [State.fullEnd_w, Bool.or_eq_false_iff] at hg
  repeat (have := hg.2; replace hg := hg.1)
  unfold State.fullEnd
  repeat' first | intro _ | ((fail_if_no_progress extract_lets +onlyGivenNames z); first | (refine same_cut (a := a) (g := g) z ?_ fun hz => ?_) <;> [subst z; clear_value z] | clear_value z) | with_reducible first | assumption | apply bump_same (by assumption) | apply wr_same (by assumption) | apply State.countRows_same (by assumption) | apply State.dropCal_same (by assumption) | apply State.calBadRows_same (by assumption) | apply State.calRejoin_same (by assumption) | apply State.fullOver_same (by assumption) | apply State.fullResult_same (by assumption) | apply State.roundTileDone_same (by assumption) | apply State.endOp_same (by assumption) | apply State.pump_same (by assumption) | apply State.mapCheckOf_same (by assumption) | apply State.calForMap_same (by assumption) | apply same_ite | split

def execFullCalEnd_w (g : Piece) : Bool := State.fullEnd_w g

theorem execFullCalEnd_same {g : Piece} {a : State} (hg : execFullCalEnd_w g = false) {s : State} (h : Same g a s) (x1 : _) (x2 : _) (x3 : _) :
    SameR g a (execFullCalEnd x1 x2 x3 s) := by
  simp only [execFullCalEnd_w] at hg
  unfold execFullCalEnd
  repeat' first | intro _ | with_reducible first | assumption | apply sameR_next | apply sameR_ite | apply State.fullEnd_same (by assumption) | apply same_ite | split

def State.setTrace_w (g : Piece) : Bool := State.setTab_w g

theorem State.setTrace_same {g : Piece} {a : State} (hg : State.setTrace_w g = false) {s : State} (h : Same g a s) (x2 : _) (x3 : _) :
    Same g a (State.setTrace s x2 x3) := by
  simp only [State.setTrace_w] at hg
  unfold State.setTrace
  repeat' first | intro _ | with_reducible first | assumption | apply State.setTab_same (by assumption) | apply same_ite | split

def State.traceCause_w (g : Piece) : Bool := State.setCause_w g

theorem State.traceCause_same {g : Piece} {a : State} (hg : State.traceCause_w g = false) {s : State} (h : Same g a s) (x2 : _) (x3 : _) :
    Same g a (State.traceCause s x2 x3) := by
  simp only [State.traceCause_w] at hg
  unfold State.traceCause
  repeat' first | intro _ | with_reducible first | assumption | apply State.each_same | apply State.setCause_same (by assumption)

def State.traceAccept_w (g : Piece) : Bool := State.setTrace_w g || State.event_w g || State.traceCause_w g || State.aim_w g || (g == .fld .CAL_LASTTRACE_TIME) || (g == .aux .traceRej) || (g == .fld .CAL_TEMP_TJ_TRACE) || (g == .fld .CAL_STATUS_TRACE_FAULT)

theorem State.traceAccept_same {g : Piece} {a : State} (hg : State.traceAccept_w g = false) {s : State} (h : Same g a s) (x2 : _) (x3 : _) (x4 : _) :
    Same g a (State.traceAccept s x2 x3 x4) := by
  simp only [State.traceAccept_w, Bool.or_eq_false_iff] at hg
  repeat (have := hg.2; replace hg := hg.1)
  unfold State.traceAccept
  repeat' first | intro _ | ((fail_if_no_progress extract_lets +onlyGivenNames z); (refine same_cut (a := a) (g := g) z ?_ fun hz => ?_) <;> [subst z; clear_value z]) | with_reducible first | assumption | apply wr_same (by assumption) | apply State.setTrace_same (by assumption) | apply setAx_same (by assumption) | apply State.event_same (by assumption) | apply State.traceCause_same (by assumption) | apply State.each_same | apply State.aim_same (by assumption) | apply same_ite | split

def State.traceReject_w (g : Piece) : Bool := State.event_w g || State.traceCause_w g || (g == .fld .CAL_STATUS_TRACE_FAULT) || (g == .aux .traceAt) || (g == .aux .traceRej)

theorem State.traceReject_same {g : Piece} {a : State} (hg : State.traceReject_w g = false) {s : State} (h : Same g a s) (x2 : _) (x3 : _) :
    Same g a (State.traceReject s x2 x3) := by
  simp only [State.traceReject_w, Bool.or_eq_false_iff] at hg
  repeat (have := hg.2; replace hg := hg.1)
  unfold State.traceReject
  repeat' first | intro _ | ((fail_if_no_progress extract_lets +onlyGivenNames z); first | (refine same_cut (a := a) (g := g) z ?_ fun hz => ?_) <;> [subst z; clear_value z] | clear_value z) | with_reducible first | assumption | apply wr_same (by assumption) | apply setAx_same (by assumption) | apply State.event_same (by assumption) | apply State.traceCause_same (by assumption)

def State.traceEnd_w (g : Piece) : Bool := State.setTab_w g || State.endTraceOps_w g || State.traceAccept_w g || State.traceReject_w g || (g == .fld .CAL_CTRL_TRACE) || (g == .aux .traceRun)

theorem State.traceEnd_same {g : Piece} {a : State} (hg : State.traceEnd_w g = false) {s : State} (h : Same g a s) (x2 : _) (x3 : _) :
    Same g a (State.traceEnd s x2 x3) := by
  simp only [State.traceEnd_w, Bool.or_eq_false_iff] at hg
  repeat (have := hg.2; replace hg := hg.1)
  unfold State.traceEnd
  repeat' first | intro _ | ((fail_if_no_progress extract_lets +onlyGivenNames z); first | (refine same_cut (a := a) (g := g) z ?_ fun hz => ?_) <;> [subst z; clear_value z] | clear_value z) | with_reducible first | assumption | apply State.setTab_same (by assumption) | apply wr_same (by assumption) | apply setAx_same (by assumption) | apply State.endTraceOps_same (by assumption) | apply State.traceAccept_same (by assumption) | apply State.traceReject_same (by assumption) | apply same_ite | split

def State.traceNext_w (g : Piece) : Bool := State.traceBegin_w g

theorem State.traceNext_same {g : Piece} {a : State} (hg : State.traceNext_w g = false) {s : State} (h : Same g a s) :
    Same g a (State.traceNext s) := by
  simp only [State.traceNext_w] at hg
  unfold State.traceNext
  repeat' first | intro _ | with_reducible first | assumption | apply State.traceBegin_same (by assumption) | split

def execTraceEnd_w (g : Piece) : Bool := State.traceNext_w g || State.traceEnd_w g

theorem execTraceEnd_same {g : Piece} {a : State} (hg : execTraceEnd_w g = false) {s : State} (h : Same g a s) (x1 : _) (x2 : _) :
    SameR g a (execTraceEnd x1 x2 s) := by
  simp only [execTraceEnd_w, Bool.or_eq_false_iff] at hg
  repeat (have := hg.2; replace hg := hg.1)
  unfold execTraceEnd
  repeat' first | intro _ | with_reducible first | assumption | apply sameR_next | apply sameR_ite | apply State.traceNext_same (by assumption) | apply State.traceEnd_same (by assumption) | apply same_ite | split

def State.calExpertShow_w (g : Piece) : Bool := (g == .fld .CAL_STATUS_EXPERT)

theorem State.calExpertShow_same {g : Piece} {a : State} (hg : State.calExpertShow_w g = false) {s : State} (h : Same g a s) (x2 : _) :
    Same g a (State.calExpertShow s x2) := by
  simp only [State.calExpertShow_w] at hg
  unfold State.calExpertShow
  repeat' first | intro _ | with_reducible first | assumption | apply wr_same (by assumption) | split

def State.calResume_w (g : Piece) : Bool := State.setTrace_w g || State.takeFull_w g || State.aim_w g || State.startCal_w g || State.startRefresh_w g || (g == .calq)

theorem State.calResume_same {g : Piece} {a : State} (hg : State.calResume_w g = false) {s : State} (h : Same g a s) (x2 : _) :
    Same g a (State.calResume s x2) := by
  simp only [State.calResume_w, Bool.or_eq_false_iff] at hg
  repeat (have := hg.2; replace hg := hg.1)
  unfold State.calResume
  repeat' first | intro _ | ((fail_if_no_progress extract_lets +onlyGivenNames z); first | (refine same_cut (a := a) (g := g) z ?_ fun hz => ?_) <;> [subst z; clear_value z] | clear_value z) | with_reducible first | assumption | apply State.setTrace_same (by assumption) | apply State.each_same | apply State.takeFull_same (by assumption) | apply State.aim_same (by assumption) | apply State.startCal_same (by assumption) | apply State.startRefresh_same (by assumption) | fail_if_no_progress apply same_mk_calq (by assumption) | apply same_ite | split

def State.calHandback_w (g : Piece) : Bool := State.resetReg_w g || State.calTileBack_w g || State.calExpertShow_w g || State.calResume_w g || (g == .aux .calExpert) || (g == .fld .CAL_CTRL_HOLD)

theorem State.calHandback_same {g : Piece} {a : State} (hg : State.calHandback_w g = false) {s : State} (h : Same g a s) (x2 : _) :
    Same g a (State.calHandback s x2) := by
  simp only [State.calHandback_w, Bool.or_eq_false_iff] at hg
  repeat (have := hg.2; replace hg := hg.1)
  unfold State.calHandback
  repeat' first | intro _ | ((fail_if_no_progress extract_lets +onlyGivenNames z); first | (refine same_cut (a := a) (g := g) z ?_ fun hz => ?_) <;> [subst z; clear_value z] | clear_value z) | with_reducible first | assumption | apply State.resetReg_same (by assumption) | apply setAx_same (by assumption) | apply wr_same (by assumption) | apply State.each_same | apply State.calTileBack_same (by assumption) | apply State.calExpertShow_same (by assumption) | apply State.calResume_same (by assumption) | apply same_ite | split

def State.quickEnd_w (g : Piece) : Bool := State.dropCal_w g || State.calReject_w g || State.calAccept_w g || State.pump_w g || State.replCal_w g || State.endOp_w g

theorem State.quickEnd_same {g : Piece} {a : State} (hg : State.quickEnd_w g = false) {s : State} (h : Same g a s) (x2 : _) (x3 : _) (x4 : _) (x5 : _) :
    Same g a (State.quickEnd s x2 x3 x4 x5) := by
  simp only [State.quickEnd_w, Bool.or_eq_false_iff] at hg
  repeat (have := hg.2; replace hg := hg.1)
  unfold State.quickEnd
  repeat' first | intro _ | ((fail_if_no_progress extract_lets +onlyGivenNames z); first | (refine same_cut (a := a) (g := g) z ?_ fun hz => ?_) <;> [subst z; clear_value z] | clear_value z) | with_reducible first | assumption | apply State.dropCal_same (by assumption) | apply State.calReject_same (by assumption) | apply State.calAccept_same (by assumption) | apply State.pump_same (by assumption) | apply State.replCal_same (by assumption) | apply State.endOp_same (by assumption) | split

def execTraceDue_w (g : Piece) : Bool := State.traceBegin_w g

theorem execTraceDue_same {g : Piece} {a : State} (hg : execTraceDue_w g = false) {s : State} (h : Same g a s) (x1 : _) :
    SameR g a (execTraceDue x1 s) := by
  simp only [execTraceDue_w] at hg
  unfold execTraceDue
  repeat' first | intro _ | with_reducible first | assumption | apply sameR_next | apply sameR_ite | apply State.traceBegin_same (by assumption) | apply same_ite | split

def State.postCheck_w (g : Piece) : Bool := (g == .checks)

theorem State.postCheck_same {g : Piece} {a : State} (hg : State.postCheck_w g = false) {s : State} (h : Same g a s) (x2 : _) (x3 : _) (x4 : _) :
    Same g a (State.postCheck s x2 x3 x4) := by
  simp only [State.postCheck_w] at hg
  unfold State.postCheck
  repeat' first | intro _ | with_reducible first | assumption | fail_if_no_progress apply same_mk_checks (by assumption) | apply same_ite | split

def execQuickCalEnd_w (g : Piece) : Bool := State.quickEnd_w g

theorem execQuickCalEnd_same {g : Piece} {a : State} (hg : execQuickCalEnd_w g = false) {s : State} (h : Same g a s) (x1 : _) (x2 : _) (x3 : _) :
    SameR g a (execQuickCalEnd x1 x2 x3 s) := by
  simp only [execQuickCalEnd_w] at hg
  unfold execQuickCalEnd
  repeat' first | intro _ | with_reducible first | assumption | apply sameR_next | apply sameR_ite | apply State.quickEnd_same (by assumption) | apply same_ite | split

def State.fullStart_w (g : Piece) : Bool := State.startCal_w g || (g == .calq) || (g == .aux .calTempAt) || (g == .fld .HEM_TAPS_STALE) || (g == .fld .CAL_STATUS_BUSY)

theorem State.fullStart_same {g : Piece} {a : State} (hg : State.fullStart_w g = false) {s : State} (h : Same g a s) (x2 : _) (x3 : _) (x4 : _) :
    Same g a (State.fullStart s x2 x3 x4) := by
  simp only [State.fullStart_w, Bool.or_eq_false_iff] at hg
  repeat (have := hg.2; replace hg := hg.1)
  unfold State.fullStart
  repeat' first | intro _ | ((fail_if_no_progress extract_lets +onlyGivenNames z); (refine same_cut (a := a) (g := g) z ?_ fun hz => ?_) <;> [subst z; clear_value z]) | with_reducible first | assumption | apply State.startCal_same (by assumption) | apply setAx_same (by assumption) | apply wr_same (by assumption) | fail_if_no_progress apply same_mk_calq (by assumption) | split

def execTraceRetry_w (g : Piece) : Bool := State.traceBegin_w g

theorem execTraceRetry_same {g : Piece} {a : State} (hg : execTraceRetry_w g = false) {s : State} (h : Same g a s) (x1 : _) :
    SameR g a (execTraceRetry x1 s) := by
  simp only [execTraceRetry_w] at hg
  unfold execTraceRetry
  repeat' first | intro _ | with_reducible first | assumption | apply sameR_next | apply sameR_ite | apply State.traceBegin_same (by assumption) | apply same_ite | split

def State.calMove_w (g : Piece) : Bool := State.fullStart_w g || State.startRefresh_w g || State.wantHold_w g || (g == .calq) || (g == .refreshes)

theorem State.calMove_same {g : Piece} {a : State} (hg : State.calMove_w g = false) {s : State} (h : Same g a s) (x2 : _) :
    Same g a (State.calMove s x2) := by
  simp only [State.calMove_w, Bool.or_eq_false_iff] at hg
  repeat (have := hg.2; replace hg := hg.1)
  unfold State.calMove
  repeat' first | intro _ | ((fail_if_no_progress extract_lets +onlyGivenNames z); first | (refine same_cut (a := a) (g := g) z ?_ fun hz => ?_) <;> [subst z; clear_value z] | clear_value z) | with_reducible first | assumption | apply State.fullStart_same (by assumption) | apply State.startRefresh_same (by assumption) | apply State.wantHold_same (by assumption) | fail_if_no_progress apply same_mk_calq_refreshes (by assumption) (by assumption) | apply same_ite | split

def State.fullNext_w (g : Piece) : Bool := State.calMove_w g

theorem State.fullNext_same {g : Piece} {a : State} (hg : State.fullNext_w g = false) {s : State} (h : Same g a s) (x2 : _) :
    Same g a (State.fullNext s x2) := by
  simp only [State.fullNext_w] at hg
  unfold State.fullNext
  repeat' first | intro _ | ((fail_if_no_progress extract_lets +onlyGivenNames z); clear_value z) | with_reducible first | assumption | apply State.calMove_same (by assumption) | apply foldl_same | apply same_ite | split

def State.calHold_w (g : Piece) : Bool := State.calExpertShow_w g || State.calResume_w g || (g == .fld .CAL_CTRL_HOLD) || (g == .aux .calExpert)

theorem State.calHold_same {g : Piece} {a : State} (hg : State.calHold_w g = false) {s : State} (h : Same g a s) (x2 : _) (x3 : _) :
    Same g a (State.calHold s x2 x3) := by
  simp only [State.calHold_w, Bool.or_eq_false_iff] at hg
  repeat (have := hg.2; replace hg := hg.1)
  unfold State.calHold
  repeat' first | intro _ | ((fail_if_no_progress extract_lets +onlyGivenNames z); (refine same_cut (a := a) (g := g) z ?_ fun hz => ?_) <;> [subst z; clear_value z]) | with_reducible first | assumption | apply State.calExpertShow_same (by assumption) | apply wr_same (by assumption) | apply setAx_same (by assumption) | apply State.calResume_same (by assumption) | apply same_ite | split

def execCalHandbackGo_w (g : Piece) : Bool := State.order_w g || State.calExpertShow_w g || State.calTileBack_w g

theorem execCalHandbackGo_same {g : Piece} {a : State} (hg : execCalHandbackGo_w g = false) {s : State} (h : Same g a s) (x1 : _) (x2 : _) (x3 : _) :
    SameR g a (execCalHandbackGo x1 x2 x3 s) := by
  simp only [execCalHandbackGo_w, Bool.or_eq_false_iff] at hg
  repeat (have := hg.2; replace hg := hg.1)
  unfold execCalHandbackGo
  repeat' first | intro _ | with_reducible first | assumption | apply sameR_next | apply sameR_ite | apply State.order_same (by assumption) | apply State.when_same | apply State.calExpertShow_same (by assumption) | apply State.calTileBack_same (by assumption) | apply same_ite | split

def execCalCtrlHoldWrite_w (g : Piece) : Bool := State.order_w g || State.calHold_w g

theorem execCalCtrlHoldWrite_same {g : Piece} {a : State} (hg : execCalCtrlHoldWrite_w g = false) {s : State} (h : Same g a s) (x1 : _) (x2 : _) :
    SameR g a (execCalCtrlHoldWrite x1 x2 s) := by
  simp only [execCalCtrlHoldWrite_w, Bool.or_eq_false_iff] at hg
  repeat (have := hg.2; replace hg := hg.1)
  unfold execCalCtrlHoldWrite
  repeat' first | intro _ | with_reducible first | assumption | apply sameR_next | apply sameR_ite | apply State.order_same (by assumption) | apply State.calHold_same (by assumption) | apply same_ite | split

def execFullCalStart_w (g : Piece) : Bool := State.fullNext_w g

theorem execFullCalStart_same {g : Piece} {a : State} (hg : execFullCalStart_w g = false) {s : State} (h : Same g a s) (x1 : _) :
    SameR g a (execFullCalStart x1 s) := by
  simp only [execFullCalStart_w] at hg
  unfold execFullCalStart
  repeat' first | intro _ | with_reducible first | assumption | apply sameR_next | apply State.fullNext_same (by assumption)

def State.driftUpdate_w (g : Piece) : Bool := State.updTile_w g || State.calReject_w g || State.setCause_w g || State.setTab_w g || State.aim_w g

theorem State.driftUpdate_same {g : Piece} {a : State} (hg : State.driftUpdate_w g = false) {s : State} (h : Same g a s) (x2 : _) (x3 : _) :
    Same g a (State.driftUpdate s x2 x3) := by
  simp only [State.driftUpdate_w, Bool.or_eq_false_iff] at hg
  repeat (have := hg.2; replace hg := hg.1)
  unfold State.driftUpdate
  repeat' first | intro _ | ((fail_if_no_progress extract_lets +onlyGivenNames z); first | (refine same_cut (a := a) (g := g) z ?_ fun hz => ?_) <;> [subst z; clear_value z] | clear_value z) | with_reducible first | assumption | apply State.updTile_same (by assumption) | apply State.calReject_same (by assumption) | apply State.setCause_same (by assumption) | apply State.setTab_same (by assumption) | apply State.aim_same (by assumption) | apply same_ite | split

def State.spread_w (g : Piece) : Bool := State.setTab_w g || State.updTile_w g || State.scheduleRefresh_w g

theorem State.spread_same {g : Piece} {a : State} (hg : State.spread_w g = false) {s : State} (h : Same g a s) (x2 : _) (x3 : _) (x4 : _) :
    Same g a (State.spread s x2 x3 x4) := by
  simp only [State.spread_w, Bool.or_eq_false_iff] at hg
  repeat (have := hg.2; replace hg := hg.1)
  unfold State.spread
  repeat' first | intro _ | ((fail_if_no_progress extract_lets +onlyGivenNames z); first | (refine same_cut (a := a) (g := g) z ?_ fun hz => ?_) <;> [subst z; clear_value z] | clear_value z) | with_reducible first | assumption | apply State.setTab_same (by assumption) | apply State.updTile_same (by assumption) | apply State.scheduleRefresh_same (by assumption) | apply same_ite | split

def State.driftInterval_w (g : Piece) : Bool := State.setTab_w g || State.driftUpdate_w g || State.postCheck_w g || State.driftAge_w g || State.spread_w g || (g == .aux .driftPrev)

theorem State.driftInterval_same {g : Piece} {a : State} (hg : State.driftInterval_w g = false) {s : State} (h : Same g a s) (x2 : _) (x3 : _) (x4 : _) :
    Same g a (State.driftInterval s x2 x3 x4) := by
  simp only [State.driftInterval_w, Bool.or_eq_false_iff] at hg
  repeat (have := hg.2; replace hg := hg.1)
  unfold State.driftInterval
  repeat' first | intro _ | ((fail_if_no_progress extract_lets +onlyGivenNames z); first | (refine same_cut (a := a) (g := g) z ?_ fun hz => ?_) <;> [subst z; clear_value z] | clear_value z) | with_reducible first | assumption | apply setAx_same (by assumption) | apply State.each_same | apply State.setTab_same (by assumption) | apply State.driftUpdate_same (by assumption) | apply State.postCheck_same (by assumption) | apply State.driftAge_same (by assumption) | apply State.spread_same (by assumption) | apply same_ite | split

def State.refreshDone_w (g : Piece) : Bool := State.event_w g || State.endOp_w g || (g == .refreshes)

theorem State.refreshDone_same {g : Piece} {a : State} (hg : State.refreshDone_w g = false) {s : State} (h : Same g a s) (x2 : _) :
    Same g a (State.refreshDone s x2) := by
  simp only [State.refreshDone_w, Bool.or_eq_false_iff] at hg
  repeat (have := hg.2; replace hg := hg.1)
  unfold State.refreshDone
  repeat' first | intro _ | ((fail_if_no_progress extract_lets +onlyGivenNames z); first | (refine same_cut (a := a) (g := g) z ?_ fun hz => ?_) <;> [subst z; clear_value z] | clear_value z) | with_reducible first | assumption | apply State.event_same (by assumption) | apply State.endOp_same (by assumption) | fail_if_no_progress apply same_mk_refreshes (by assumption) | apply same_ite | split

def execCalCtrlClear_w (g : Piece) : Bool := State.order_w g || (g == .fld .CAL_FULLS_COUNT) || (g == .fld .CAL_REJECTS_COUNT)

theorem execCalCtrlClear_same {g : Piece} {a : State} (hg : execCalCtrlClear_w g = false) {s : State} (h : Same g a s) (x1 : _) (x2 : _) :
    SameR g a (execCalCtrlClear x1 x2 s) := by
  simp only [execCalCtrlClear_w, Bool.or_eq_false_iff] at hg
  repeat (have := hg.2; replace hg := hg.1)
  unfold execCalCtrlClear
  repeat' first | intro _ | with_reducible first | assumption | apply sameR_next | apply sameR_ite | apply State.order_same (by assumption) | apply State.when_same | apply wr_same (by assumption) | apply same_ite | split

def State.tabWrite_w (g : Piece) : Bool := State.calExpertShow_w g || State.updTile_w g || State.setRecord_w g || State.setTab_w g || (g == .fld .CAL_STATUS_REFUSED)

theorem State.tabWrite_same {g : Piece} {a : State} (hg : State.tabWrite_w g = false) {s : State} (h : Same g a s) (x2 : _) (x3 : _) :
    Same g a (State.tabWrite s x2 x3) := by
  simp only [State.tabWrite_w, Bool.or_eq_false_iff] at hg
  repeat (have := hg.2; replace hg := hg.1)
  unfold State.tabWrite
  repeat' first | intro _ | ((fail_if_no_progress extract_lets +onlyGivenNames z); first | (refine same_cut (a := a) (g := g) z ?_ fun hz => ?_) <;> [subst z; clear_value z] | clear_value z) | with_reducible first | assumption | apply wr_same (by assumption) | apply State.calExpertShow_same (by assumption) | apply State.updTile_same (by assumption) | apply State.setRecord_same (by assumption) | apply State.setTab_same (by assumption) | apply same_ite | split

def execDriftInterval_w (g : Piece) : Bool := State.driftInterval_w g

theorem execDriftInterval_same {g : Piece} {a : State} (hg : execDriftInterval_w g = false) {s : State} (h : Same g a s) (x1 : _) (x2 : _) (x3 : _) :
    SameR g a (execDriftInterval x1 x2 x3 s) := by
  simp only [execDriftInterval_w] at hg
  unfold execDriftInterval
  repeat' first | intro _ | with_reducible first | assumption | apply sameR_next | apply sameR_ite | apply State.driftInterval_same (by assumption) | apply same_ite | split

def execRecordHourlySave_w (g : Piece) : Bool := State.recSave_w g

theorem execRecordHourlySave_same {g : Piece} {a : State} (hg : execRecordHourlySave_w g = false) {s : State} (h : Same g a s) (x1 : _) :
    SameR g a (execRecordHourlySave x1 s) := by
  simp only [execRecordHourlySave_w] at hg
  unfold execRecordHourlySave
  repeat' first | intro _ | with_reducible first | assumption | apply sameR_next | apply sameR_ite | apply State.each_same | apply State.recSave_same (by assumption) | apply same_ite | split

def execCalCtrlHandback_w (g : Piece) : Bool := State.order_w g || State.calHandback_w g

theorem execCalCtrlHandback_same {g : Piece} {a : State} (hg : execCalCtrlHandback_w g = false) {s : State} (h : Same g a s) (x1 : _) (x2 : _) :
    SameR g a (execCalCtrlHandback x1 x2 s) := by
  simp only [execCalCtrlHandback_w, Bool.or_eq_false_iff] at hg
  repeat (have := hg.2; replace hg := hg.1)
  unfold execCalCtrlHandback
  repeat' first | intro _ | with_reducible first | assumption | apply sameR_next | apply sameR_ite | apply State.order_same (by assumption) | apply State.when_same | apply State.calHandback_same (by assumption) | apply same_ite | split

def State.tabNext_w (g : Piece) : Bool := (g == .fld .CAL_TAB_ADDR_INDEX)

theorem State.tabNext_same {g : Piece} {a : State} (hg : State.tabNext_w g = false) {s : State} (h : Same g a s) (x2 : _) :
    Same g a (State.tabNext s x2) := by
  simp only [State.tabNext_w] at hg
  unfold State.tabNext
  repeat' first | intro _ | with_reducible first | assumption | apply wr_same (by assumption) | apply same_ite | split

def execCalTabDataAccess_w (g : Piece) : Bool := State.tabNext_w g || State.emit_w g || State.order_w g || State.tabWrite_w g

theorem execCalTabDataAccess_same {g : Piece} {a : State} (hg : execCalTabDataAccess_w g = false) {s : State} (h : Same g a s) (x1 : _) (x2 : _) :
    SameR g a (execCalTabDataAccess x1 x2 s) := by
  simp only [execCalTabDataAccess_w, Bool.or_eq_false_iff] at hg
  repeat (have := hg.2; replace hg := hg.1)
  unfold execCalTabDataAccess
  repeat' first | intro _ | with_reducible first | assumption | apply sameR_next | apply sameR_ite | apply State.tabNext_same (by assumption) | apply State.emit_same (by assumption) | apply State.order_same (by assumption) | apply State.tabWrite_same (by assumption) | apply same_ite | split

def execPeriodicFullCalDue_w (g : Piece) : Bool := State.queueCal_w g

theorem execPeriodicFullCalDue_same {g : Piece} {a : State} (hg : execPeriodicFullCalDue_w g = false) {s : State} (h : Same g a s) (x1 : _) (x2 : _) :
    SameR g a (execPeriodicFullCalDue x1 x2 s) := by
  simp only [execPeriodicFullCalDue_w] at hg
  unfold execPeriodicFullCalDue
  repeat' first | intro _ | ((fail_if_no_progress extract_lets +onlyGivenNames z); clear_value z) | with_reducible first | assumption | apply sameR_next | apply sameR_ite | apply State.queueCal_same (by assumption) | apply same_ite | split

def execRefreshEnd_w (g : Piece) : Bool := State.refreshDone_w g

theorem execRefreshEnd_same {g : Piece} {a : State} (hg : execRefreshEnd_w g = false) {s : State} (h : Same g a s) (x1 : _) (x2 : _) :
    SameR g a (execRefreshEnd x1 x2 s) := by
  simp only [execRefreshEnd_w] at hg
  unfold execRefreshEnd
  repeat' first | intro _ | with_reducible first | assumption | apply sameR_next | apply sameR_ite | apply State.refreshDone_same (by assumption) | apply same_ite | split

end Sys2Proof.Machine
end

