-- ==== Sys2Proof/Laws/SameHem.lean ====
section
/-!
SUPPORT. Laws/SameHem.lean: what the operations of Machine/Hem.lean may change, and that they leave the rest alone.
-/

set_option linter.unusedTactic false
set_option linter.unusedSimpArgs false
set_option linter.unusedVariables false
set_option linter.tactic.unusedName false
set_option linter.unreachableTactic false

namespace Sys2Proof.Machine

def State.hemExpert_w (g : Piece) : Bool := (g == .aux .hemExpert)

theorem State.hemExpert_same {g : Piece} {a : State} (hg : State.hemExpert_w g = false) {s : State} (h : Same g a s) (x2 : _) (x3 : _) :
    Same g a (State.hemExpert s x2 x3) := by
  simp only [State.hemExpert_w] at hg
  unfold State.hemExpert
  repeat' first | intro _ | with_reducible first | assumption | apply setAx_same (by assumption)

def State.hemCfg_w (g : Piece) : Bool := State.setRange_w g || State.hemExpert_w g || (g == .fld .HEM_CFG_MSE_Q) || (g == .fld .HEM_CFG_MSE_REF)

theorem State.hemCfg_same {g : Piece} {a : State} (hg : State.hemCfg_w g = false) {s : State} (h : Same g a s) (x2 : _) (x3 : _) (x4 : _) :
    Same g a (State.hemCfg s x2 x3 x4) := by
  simp only [State.hemCfg_w, Bool.or_eq_false_iff] at hg
  repeat (have := hg.2; replace hg := hg.1)
  unfold State.hemCfg
  repeat' first | intro _ | ((fail_if_no_progress extract_lets +onlyGivenNames z); (refine same_cut (a := a) (g := g) z ?_ fun hz => ?_) <;> [subst z; clear_value z]) | with_reducible first | assumption | apply wr_same (by assumption) | apply State.setRange_same (by assumption) | apply State.hemExpert_same (by assumption) | apply same_ite | split

def execHemCfgWrite_w (g : Piece) : Bool := State.order_w g || State.hemCfg_w g

theorem execHemCfgWrite_same {g : Piece} {a : State} (hg : execHemCfgWrite_w g = false) {s : State} (h : Same g a s) (x1 : _) (x2 : _) (x3 : _) :
    SameR g a (execHemCfgWrite x1 x2 x3 s) := by
  simp only [execHemCfgWrite_w, Bool.or_eq_false_iff] at hg
  repeat (have := hg.2; replace hg := hg.1)
  unfold execHemCfgWrite
  repeat' first | intro _ | with_reducible first | assumption | apply sameR_next | apply sameR_ite | apply State.order_same (by assumption) | apply State.hemCfg_same (by assumption) | apply same_ite | split

def State.refCheck_w (g : Piece) : Bool := State.updTile_w g || (g == .fld .HEM_REFCHK_REF_FAILS)

theorem State.refCheck_same {g : Piece} {a : State} (hg : State.refCheck_w g = false) {s : State} (h : Same g a s) (x2 : _) (x3 : _) (x4 : _) :
    Same g a (State.refCheck s x2 x3 x4).1 := by
  simp only [State.refCheck_w, Bool.or_eq_false_iff] at hg
  repeat (have := hg.2; replace hg := hg.1)
  unfold State.refCheck
  repeat' first | intro _ | ((fail_if_no_progress extract_lets +onlyGivenNames z); first | (refine same_cut (a := a) (g := g) z ?_ fun hz => ?_) <;> [subst z; clear_value z] | clear_value z) | with_reducible first | assumption | apply bump_same (by assumption) | apply State.updTile_same (by assumption) | apply foldl_same | apply same_ite | split

def State.hemHandback_w (g : Piece) : Bool := State.takeFull_w g || State.setRange_w g || (g == .aux .hemExpert) || (g == .fld .HEM_REFCHK_TOL) || (g == .fld .HEM_SAT_LIMIT)

theorem State.hemHandback_same {g : Piece} {a : State} (hg : State.hemHandback_w g = false) {s : State} (h : Same g a s) (x2 : _) (x3 : _) :
    Same g a (State.hemHandback s x2 x3) := by
  simp only [State.hemHandback_w, Bool.or_eq_false_iff] at hg
  repeat (have := hg.2; replace hg := hg.1)
  unfold State.hemHandback
  repeat' first | intro _ | ((fail_if_no_progress extract_lets +onlyGivenNames z); clear_value z) | with_reducible first | assumption | apply State.takeFull_same (by assumption) | apply setAx_same (by assumption) | apply wr_same (by assumption) | apply State.setRange_same (by assumption)

def execHemCtrlHandback_w (g : Piece) : Bool := State.order_w g || State.hemHandback_w g

theorem execHemCtrlHandback_same {g : Piece} {a : State} (hg : execHemCtrlHandback_w g = false) {s : State} (h : Same g a s) (x1 : _) (x2 : _) (x3 : _) :
    SameR g a (execHemCtrlHandback x1 x2 x3 s) := by
  simp only [execHemCtrlHandback_w, Bool.or_eq_false_iff] at hg
  repeat (have := hg.2; replace hg := hg.1)
  unfold execHemCtrlHandback
  repeat' first | intro _ | with_reducible first | assumption | apply sameR_next | apply sameR_ite | apply State.order_same (by assumption) | apply State.when_same | apply State.hemHandback_same (by assumption) | apply same_ite | split

def State.hemClear_w (g : Piece) : Bool := (g == .aux .mseHeld) || (g == .fld .HEM_CSAT_COUNT) || (g == .fld .HEM_OSAT_COUNT) || (g == .fld .HEM_RERUN_COUNT) || (g == .fld .HEM_RSAT_COUNT) || (g == .fld .HEM_REFCHK_REF_FAILS) || (g == .fld .HEM_MSEREF_SUM_SUM) || (g == .fld .HEM_MSEREF_CNT_COUNT) || (g == .fld .HEM_MSEQ_CNT_COUNT) || (g == .fld .HEM_MSEQ_SUM_SUM)

theorem State.hemClear_same {g : Piece} {a : State} (hg : State.hemClear_w g = false) {s : State} (h : Same g a s) (x2 : _) (x3 : _) :
    Same g a (State.hemClear s x2 x3) := by
  simp only [State.hemClear_w, Bool.or_eq_false_iff] at hg
  repeat (have := hg.2; replace hg := hg.1)
  unfold State.hemClear
  simp only [State.each, List.foldl]
  repeat' first | intro _ | ((fail_if_no_progress extract_lets +onlyGivenNames z); (refine same_cut (a := a) (g := g) z ?_ fun hz => ?_) <;> [subst z; clear_value z]) | with_reducible first | assumption | apply wr_same | apply setAx_same | apply foldl_same | (unfold convSubField; split) | (unfold spareColField; split) | (unfold quotaField; split) | (unfold gateField; split) | (unfold readyField; split) | split

def State.setLatch_w (g : Piece) : Bool := (g == .latch)

theorem State.setLatch_same {g : Piece} {a : State} (hg : State.setLatch_w g = false) {s : State} (h : Same g a s) (x2 : _) (x3 : _) (x4 : _) :
    Same g a (State.setLatch s x2 x3 x4) := by
  simp only [State.setLatch_w] at hg
  unfold State.setLatch
  repeat' first | intro _ | with_reducible first | assumption | fail_if_no_progress apply same_mk_latch (by assumption) | split

def State.hemTaps_w (g : Piece) : Bool := State.setTaps_w g || State.hemExpert_w g || (g == .fld .TIL_STATUS_REFUSED)

theorem State.hemTaps_same {g : Piece} {a : State} (hg : State.hemTaps_w g = false) {s : State} (h : Same g a s) (x2 : _) (x3 : _) (x4 : _) :
    Same g a (State.hemTaps s x2 x3 x4) := by
  simp only [State.hemTaps_w, Bool.or_eq_false_iff] at hg
  repeat (have := hg.2; replace hg := hg.1)
  unfold State.hemTaps
  repeat' first | intro _ | with_reducible first | assumption | apply wr_same (by assumption) | apply State.setTaps_same (by assumption) | apply State.hemExpert_same (by assumption) | apply same_ite | split

def State.sameCodes_w (g : Piece) : Bool := State.updTile_w g

theorem State.sameCodes_same {g : Piece} {a : State} (hg : State.sameCodes_w g = false) {s : State} (h : Same g a s) (x2 : _) (x3 : _) (x4 : _) (x5 : _) :
    Same g a (State.sameCodes s x2 x3 x4 x5).1 := by
  simp only [State.sameCodes_w] at hg
  unfold State.sameCodes
  repeat' first | intro _ | ((fail_if_no_progress extract_lets +onlyGivenNames z); first | (refine same_cut (a := a) (g := g) z ?_ fun hz => ?_) <;> [subst z; clear_value z] | clear_value z) | with_reducible first | assumption | apply State.updTile_same (by assumption) | apply foldl_same | apply same_ite | split

def State.mseAdd_w (g : Piece) : Bool := (g == .aux .mseHeld) || (g == .fld .HEM_MSEQ_SUM_SUM) || (g == .fld .HEM_MSEREF_SUM_SUM) || (g == .fld .HEM_MSEQ_CNT_COUNT) || (g == .fld .HEM_MSEREF_CNT_COUNT)

theorem State.mseAdd_same {g : Piece} {a : State} (hg : State.mseAdd_w g = false) {s : State} (h : Same g a s) (x2 : _) (x3 : _) (x4 : _) (x5 : _) :
    Same g a (State.mseAdd s x2 x3 x4 x5) := by
  simp only [State.mseAdd_w, Bool.or_eq_false_iff] at hg
  repeat (have := hg.2; replace hg := hg.1)
  unfold State.mseAdd
  repeat' first | intro _ | ((fail_if_no_progress extract_lets +onlyGivenNames z); subst z) | with_reducible first | assumption | apply setAx_same | apply wr_same | apply same_ite | (unfold convSubField; split) | (unfold spareColField; split) | (unfold quotaField; split) | (unfold gateField; split) | (unfold readyField; split) | split

def State.mseRef_w (g : Piece) : Bool := State.mseAdd_w g || (g == .aux .mseHeld)

theorem State.mseRef_same {g : Piece} {a : State} (hg : State.mseRef_w g = false) {s : State} (h : Same g a s) (x2 : _) (x3 : _) (x4 : _) :
    Same g a (State.mseRef s x2 x3 x4) := by
  simp only [State.mseRef_w, Bool.or_eq_false_iff] at hg
  repeat (have := hg.2; replace hg := hg.1)
  unfold State.mseRef
  repeat' first | intro _ | with_reducible first | assumption | apply State.mseAdd_same (by assumption) | apply setAx_same (by assumption) | split

def State.refSums_w (g : Piece) : Bool := State.mseRef_w g || State.updTile_w g

theorem State.refSums_same {g : Piece} {a : State} (hg : State.refSums_w g = false) {s : State} (h : Same g a s) (x2 : _) (x3 : _) (x4 : _) :
    Same g a (State.refSums s x2 x3 x4) := by
  simp only [State.refSums_w, Bool.or_eq_false_iff] at hg
  repeat (have := hg.2; replace hg := hg.1)
  unfold State.refSums
  repeat' first | intro _ | ((fail_if_no_progress extract_lets +onlyGivenNames z); first | (refine same_cut (a := a) (g := g) z ?_ fun hz => ?_) <;> [subst z; clear_value z] | clear_value z) | with_reducible first | assumption | apply State.each_same | apply State.mseRef_same (by assumption) | apply State.updTile_same (by assumption) | apply foldl_same | apply same_ite | split

def execHemTapsWrite_w (g : Piece) : Bool := State.order_w g || State.hemTaps_w g

theorem execHemTapsWrite_same {g : Piece} {a : State} (hg : execHemTapsWrite_w g = false) {s : State} (h : Same g a s) (x1 : _) (x2 : _) (x3 : _) :
    SameR g a (execHemTapsWrite x1 x2 x3 s) := by
  simp only [execHemTapsWrite_w, Bool.or_eq_false_iff] at hg
  repeat (have := hg.2; replace hg := hg.1)
  unfold execHemTapsWrite
  repeat' first | intro _ | with_reducible first | assumption | apply sameR_next | apply sameR_ite | apply State.order_same (by assumption) | apply State.hemTaps_same (by assumption) | apply same_ite | split

def execHemCtrlClear_w (g : Piece) : Bool := State.order_w g || State.hemClear_w g

theorem execHemCtrlClear_same {g : Piece} {a : State} (hg : execHemCtrlClear_w g = false) {s : State} (h : Same g a s) (x1 : _) (x2 : _) (x3 : _) :
    SameR g a (execHemCtrlClear x1 x2 x3 s) := by
  simp only [execHemCtrlClear_w, Bool.or_eq_false_iff] at hg
  repeat (have := hg.2; replace hg := hg.1)
  unfold execHemCtrlClear
  repeat' first | intro _ | with_reducible first | assumption | apply sameR_next | apply sameR_ite | apply State.order_same (by assumption) | apply State.when_same | apply State.hemClear_same (by assumption) | apply same_ite | split

def State.countOuts_w (g : Piece) : Bool := State.mseAdd_w g || (g == .fld .HEM_OSAT_COUNT)

theorem State.countOuts_same {g : Piece} {a : State} (hg : State.countOuts_w g = false) {s : State} (h : Same g a s) (x2 : _) (x3 : _) (x4 : _) (x5 : _) :
    Same g a (State.countOuts s x2 x3 x4 x5) := by
  simp only [State.countOuts_w, Bool.or_eq_false_iff] at hg
  repeat (have := hg.2; replace hg := hg.1)
  unfold State.countOuts
  repeat' first | intro _ | ((fail_if_no_progress extract_lets +onlyGivenNames z); clear_value z) | with_reducible first | assumption | apply State.each_same | apply bump_same (by assumption) | apply State.mseAdd_same (by assumption) | apply same_ite | split

def State.checkEnd_w (g : Piece) : Bool := State.updTile_w g || (g == .fld .TIL_LASTGOOD_TIME) || (g == .fld .TIL_CHECK_FAILS)

theorem State.checkEnd_same {g : Piece} {a : State} (hg : State.checkEnd_w g = false) {s : State} (h : Same g a s) (x2 : _) (x3 : _) (x4 : _) (x5 : _) :
    Same g a (State.checkEnd s x2 x3 x4 x5).1 := by
  simp only [State.checkEnd_w, Bool.or_eq_false_iff] at hg
  repeat (have := hg.2; replace hg := hg.1)
  unfold State.checkEnd
  repeat' first | intro _ | ((fail_if_no_progress extract_lets +onlyGivenNames z); first | (refine same_cut (a := a) (g := g) z ?_ fun hz => ?_) <;> [subst z; clear_value z] | clear_value z) | with_reducible first | assumption | apply wr_same (by assumption) | apply bump_same (by assumption) | apply State.updTile_same (by assumption) | apply foldl_same | apply same_ite | split

end Sys2Proof.Machine
end

