-- ==== Sys2Proof/Laws/SameClocks.lean ====
section
/-!
SUPPORT. Laws/SameClocks.lean: what the operations of Machine/Clocks.lean may change, and that they leave the rest alone.
-/

set_option linter.unusedTactic false
set_option linter.unusedSimpArgs false
set_option linter.unusedVariables false
set_option linter.tactic.unusedName false
set_option linter.unreachableTactic false

namespace Sys2Proof.Machine

def State.setTime_w (g : Piece) : Bool := State.event_w g || (g == .dt)

theorem State.setTime_same {g : Piece} {a : State} (hg : State.setTime_w g = false) {s : State} (h : Same g a s) (x2 : _) :
    Same g a (State.setTime s x2) := by
  simp only [State.setTime_w, Bool.or_eq_false_iff] at hg
  repeat (have := hg.2; replace hg := hg.1)
  unfold State.setTime
  repeat' first | intro _ | ((fail_if_no_progress extract_lets +onlyGivenNames z); clear_value z) | with_reducible first | assumption | apply State.event_same (by assumption) | fail_if_no_progress apply same_mk_dt (by assumption)

def State.ppsAccepted_w (g : Piece) : Bool := State.event_w g || (g == .aux .lastPps) || (g == .fld .CLK_DTCTRL_PPS_LOST)

theorem State.ppsAccepted_same {g : Piece} {a : State} (hg : State.ppsAccepted_w g = false) {s : State} (h : Same g a s) (x2 : _) :
    Same g a (State.ppsAccepted s x2) := by
  simp only [State.ppsAccepted_w, Bool.or_eq_false_iff] at hg
  repeat (have := hg.2; replace hg := hg.1)
  unfold State.ppsAccepted
  repeat' first | intro _ | ((fail_if_no_progress extract_lets +onlyGivenNames z); (refine same_cut (a := a) (g := g) z ?_ fun hz => ?_) <;> [subst z; clear_value z]) | with_reducible first | assumption | apply setAx_same (by assumption) | apply State.event_same (by assumption) | apply wr_same (by assumption) | apply same_ite | split

def State.ppsEdge_w (g : Piece) : Bool := State.ppsTrigger_w g || State.ppsAccepted_w g || State.setTime_w g || State.event_w g || (g == .fld .CLK_DTCTRL_SET_PPS) || (g == .fld .CLK_DTCTRL_REJECTS) || (g == .dt) || (g == .aux .ppsAbsorb) || (g == .aux .halfRate)

theorem State.ppsEdge_same {g : Piece} {a : State} (hg : State.ppsEdge_w g = false) {s : State} (h : Same g a s) :
    Same g a (State.ppsEdge s) := by
  simp only [State.ppsEdge_w, Bool.or_eq_false_iff] at hg
  repeat (have := hg.2; replace hg := hg.1)
  unfold State.ppsEdge
  repeat' first | intro _ | ((fail_if_no_progress extract_lets +onlyGivenNames z); first | (refine same_cut (a := a) (g := g) z ?_ fun hz => ?_) <;> [subst z; clear_value z] | clear_value z) | with_reducible first | assumption | apply State.ppsTrigger_same (by assumption) | apply State.ppsAccepted_same (by assumption) | apply wr_same (by assumption) | apply State.setTime_same (by assumption) | apply State.event_same (by assumption) | apply bump_same (by assumption) | apply setAx_same (by assumption) | fail_if_no_progress apply same_mk_dt (by assumption) | apply same_ite | split

def State.firmwareGating_w (g : Piece) : Bool := (g == .fld .CLK_BG_GROUP) || (g == .fld .CLK_SG_GROUP) || (g == .fld .CLK_GATE_BLK) || (g == .fld .CLK_GATE_DIE)

theorem State.firmwareGating_same {g : Piece} {a : State} (hg : State.firmwareGating_w g = false) {s : State} (h : Same g a s) :
    Same g a (State.firmwareGating s) := by
  simp only [State.firmwareGating_w, Bool.or_eq_false_iff] at hg
  repeat (have := hg.2; replace hg := hg.1)
  unfold State.firmwareGating
  repeat' first | intro _ | with_reducible first | assumption | apply State.each_same | apply wr_same (by assumption)

def State.clockFailedStart_w (g : Piece) : Bool := (g == .fld .START_REPORT_LAST) || (g == .aux .nvLast) || (g == .fld .START_REPORT_FAILS) || (g == .aux .nvFails)

theorem State.clockFailedStart_same {g : Piece} {a : State} (hg : State.clockFailedStart_w g = false) {s : State} (h : Same g a s) :
    Same g a (State.clockFailedStart s) := by
  simp only [State.clockFailedStart_w, Bool.or_eq_false_iff] at hg
  repeat (have := hg.2; replace hg := hg.1)
  unfold State.clockFailedStart
  repeat' first | intro _ | ((fail_if_no_progress extract_lets +onlyGivenNames z); clear_value z) | with_reducible first | assumption | apply wr_same (by assumption) | apply setAx_same (by assumption) | apply same_ite | split

def State.clockLossEvent_w (g : Piece) : Bool := State.event_w g

theorem State.clockLossEvent_same {g : Piece} {a : State} (hg : State.clockLossEvent_w g = false) {s : State} (h : Same g a s) (x2 : _) (x3 : _) (x4 : _) (x5 : _) :
    Same g a (State.clockLossEvent s x2 x3 x4 x5) := by
  simp only [State.clockLossEvent_w] at hg
  unfold State.clockLossEvent
  repeat' first | intro _ | with_reducible first | assumption | apply State.event_same (by assumption) | apply same_ite | split

def State.pendingLoss_w (g : Piece) : Bool := State.clockLossEvent_w g || (g == .aux .lossPending)

theorem State.pendingLoss_same {g : Piece} {a : State} (hg : State.pendingLoss_w g = false) {s : State} (h : Same g a s) :
    Same g a (State.pendingLoss s) := by
  simp only [State.pendingLoss_w, Bool.or_eq_false_iff] at hg
  repeat (have := hg.2; replace hg := hg.1)
  unfold State.pendingLoss
  repeat' first | intro _ | with_reducible first | assumption | apply State.clockLossEvent_same (by assumption) | apply setAx_same (by assumption) | apply same_ite | split

def State.onRc_w (g : Piece) : Bool := State.pendingLoss_w g || State.restartFrom3_w g || State.clockFailedStart_w g || (g == .fld .CLK_STAT_MGMT_ON_RC) || (g == .aux .oneShot)

theorem State.onRc_same {g : Piece} {a : State} (hg : State.onRc_w g = false) {s : State} (h : Same g a s) :
    Same g a (State.onRc s) := by
  simp only [State.onRc_w, Bool.or_eq_false_iff] at hg
  repeat (have := hg.2; replace hg := hg.1)
  unfold State.onRc
  repeat' first | intro _ | ((fail_if_no_progress extract_lets +onlyGivenNames z); (refine same_cut (a := a) (g := g) z ?_ fun hz => ?_) <;> [subst z; clear_value z]) | with_reducible first | assumption | apply State.pendingLoss_same (by assumption) | apply wr_same (by assumption) | apply setAx_same (by assumption) | apply State.restartFrom3_same (by assumption) | apply State.clockFailedStart_same (by assumption) | apply same_ite | split

def State.setLock_w (g : Piece) : Bool := (g == .fld .CLK_LOCK_LOCK)

theorem State.setLock_same {g : Piece} {a : State} (hg : State.setLock_w g = false) {s : State} (h : Same g a s) (x2 : _) (x3 : _) :
    Same g a (State.setLock s x2 x3) := by
  simp only [State.setLock_w] at hg
  unfold State.setLock
  repeat' first | intro _ | with_reducible first | assumption | apply State.each_same | apply wr_same (by assumption)

def State.restoreClocks_w (g : Piece) : Bool := State.setLock_w g || State.leaveSafe_w g || State.event_w g || State.faultJobs_w g || (g == .fld .CLK_DTCTRL_HOLDOVER) || (g == .fld .CLK_STAT_MGMT_ON_RC) || (g == .aux .lossSrc) || (g == .aux .lossAt) || (g == .safeJobs)

theorem State.restoreClocks_same {g : Piece} {a : State} (hg : State.restoreClocks_w g = false) {s : State} (h : Same g a s) :
    Same g a (State.restoreClocks s) := by
  simp only [State.restoreClocks_w, Bool.or_eq_false_iff] at hg
  repeat (have := hg.2; replace hg := hg.1)
  unfold State.restoreClocks
  repeat' first | intro _ | ((fail_if_no_progress extract_lets +onlyGivenNames z); first | (refine same_cut (a := a) (g := g) z ?_ fun hz => ?_) <;> [subst z; clear_value z] | clear_value z) | with_reducible first | assumption | apply State.setLock_same (by assumption) | apply wr_same (by assumption) | apply State.leaveSafe_same (by assumption) | apply State.event_same (by assumption) | apply State.faultJobs_same (by assumption) | apply setAx_same (by assumption) | fail_if_no_progress apply same_mk_safeJobs (by assumption) | apply foldl_same | apply same_ite | split

def State.sourceReady_w (g : Piece) : Bool := State.restartFrom3_w g || State.clockFailedStart_w g || State.onRc_w g || State.pendingLoss_w g || State.restoreClocks_w g || (g == .aux .pcieDown) || (g == .fld .CLK_STAT_MGMT_ON_RC) || (g == .aux .oneShot) || (g == .fld .CLK_STAT_NOCLOCK) || (g == .fld .CLK_DTCTRL_HOLDOVER) || (g == .fld .CLK_STAT_SAFE) || (g == .fld .CLK_STAT_XTAL_READY) || (g == .fld .CLK_STAT_REFCLK_READY) || (g == .fld .CLK_STAT_RC_READY)

theorem State.sourceReady_same {g : Piece} {a : State} (hg : State.sourceReady_w g = false) {s : State} (h : Same g a s) (x2 : _) :
    Same g a (State.sourceReady s x2) := by
  simp only [State.sourceReady_w, Bool.or_eq_false_iff] at hg
  repeat (have := hg.2; replace hg := hg.1)
  unfold State.sourceReady
  repeat' first | intro _ | ((fail_if_no_progress extract_lets +onlyGivenNames z); (refine same_cut (a := a) (g := g) z ?_ fun hz => ?_) <;> [subst z; clear_value z]) | with_reducible first | assumption | apply State.when_same | apply wr_same | apply setAx_same | apply State.restartFrom3_same (by assumption) | apply State.clockFailedStart_same (by assumption) | apply State.onRc_same (by assumption) | apply State.pendingLoss_same (by assumption) | apply State.restoreClocks_same (by assumption) | apply same_ite | (unfold convSubField; split) | (unfold spareColField; split) | (unfold quotaField; split) | (unfold gateField; split) | (unfold readyField; split) | split

def State.stopPlls_w (g : Piece) : Bool := State.setLock_w g || (g == .fld .CLK_LOCK_LOCK)

theorem State.stopPlls_same {g : Piece} {a : State} (hg : State.stopPlls_w g = false) {s : State} (h : Same g a s) (x2 : _) (x3 : _) (x4 : _) :
    Same g a (State.stopPlls s x2 x3 x4) := by
  simp only [State.stopPlls_w, Bool.or_eq_false_iff] at hg
  repeat (have := hg.2; replace hg := hg.1)
  unfold State.stopPlls
  repeat' first | intro _ | with_reducible first | assumption | apply wr_same (by assumption) | apply State.setLock_same (by assumption) | apply foldl_same | apply same_ite | split

def State.gateRefused_w (g : Piece) : Bool := (g == .fld .CLK_GATE_STATUS_REFUSED)

theorem State.gateRefused_same {g : Piece} {a : State} (hg : State.gateRefused_w g = false) {s : State} (h : Same g a s) :
    Same g a (State.gateRefused s) := by
  simp only [State.gateRefused_w] at hg
  unfold State.gateRefused
  repeat' first | intro _ | with_reducible first | assumption | apply wr_same (by assumption)

def State.rootGate_w (g : Piece) : Bool := State.gateRefused_w g || (g == .fld .CLK_STAT_EXPERT) || (g == .fld .CLK_CTRL_ROOT)

theorem State.rootGate_same {g : Piece} {a : State} (hg : State.rootGate_w g = false) {s : State} (h : Same g a s) (x2 : _) :
    Same g a (State.rootGate s x2) := by
  simp only [State.rootGate_w, Bool.or_eq_false_iff] at hg
  repeat (have := hg.2; replace hg := hg.1)
  unfold State.rootGate
  repeat' first | intro _ | with_reducible first | assumption | apply State.gateRefused_same (by assumption) | apply wr_same (by assumption) | apply same_ite | split

def execClkCtrlRootWrite_w (g : Piece) : Bool := State.order_w g || State.rootGate_w g

theorem execClkCtrlRootWrite_same {g : Piece} {a : State} (hg : execClkCtrlRootWrite_w g = false) {s : State} (h : Same g a s) (x1 : _) :
    SameR g a (execClkCtrlRootWrite x1 s) := by
  simp only [execClkCtrlRootWrite_w, Bool.or_eq_false_iff] at hg
  repeat (have := hg.2; replace hg := hg.1)
  unfold execClkCtrlRootWrite
  repeat' first | intro _ | with_reducible first | assumption | apply sameR_next | apply State.order_same (by assumption) | apply State.rootGate_same (by assumption)

def State.clkRefused_w (g : Piece) : Bool := (g == .fld .CLK_STAT_REFUSED)

theorem State.clkRefused_same {g : Piece} {a : State} (hg : State.clkRefused_w g = false) {s : State} (h : Same g a s) :
    Same g a (State.clkRefused s) := by
  simp only [State.clkRefused_w] at hg
  unfold State.clkRefused
  repeat' first | intro _ | with_reducible first | assumption | apply wr_same (by assumption)

def State.setPll_w (g : Piece) : Bool := (g == .fld .CLK_PLL_FBDIV) || (g == .fld .CLK_PLL_REFDIV) || (g == .fld .CLK_PLL_POSTDIV) || (g == .fld .CLK_PLL_SSC_RATE) || (g == .fld .CLK_PLL_SSC_DEPTH) || (g == .fld .CLK_PLL_REF)

theorem State.setPll_same {g : Piece} {a : State} (hg : State.setPll_w g = false) {s : State} (h : Same g a s) (x2 : _) (x3 : _) :
    Same g a (State.setPll s x2 x3) := by
  simp only [State.setPll_w, Bool.or_eq_false_iff] at hg
  repeat (have := hg.2; replace hg := hg.1)
  unfold State.setPll
  repeat' first | intro _ | with_reducible first | assumption | apply wr_same (by assumption)

def State.pllChange_w (g : Piece) : Bool := State.setPll_w g || State.setLock_w g || (g == .aux .relock)

theorem State.pllChange_same {g : Piece} {a : State} (hg : State.pllChange_w g = false) {s : State} (h : Same g a s) (x2 : _) (x3 : _) :
    Same g a (State.pllChange s x2 x3) := by
  simp only [State.pllChange_w, Bool.or_eq_false_iff] at hg
  repeat (have := hg.2; replace hg := hg.1)
  unfold State.pllChange
  repeat' first | intro _ | ((fail_if_no_progress extract_lets +onlyGivenNames z); first | (refine same_cut (a := a) (g := g) z ?_ fun hz => ?_) <;> [subst z; clear_value z] | clear_value z) | with_reducible first | assumption | apply State.setPll_same (by assumption) | apply setAx_same (by assumption) | apply State.setLock_same (by assumption) | apply same_ite | split

def State.pllWrite_w (g : Piece) : Bool := State.clkRefused_w g || State.pllChange_w g || (g == .fld .CLK_STAT_EXPERT)

theorem State.pllWrite_same {g : Piece} {a : State} (hg : State.pllWrite_w g = false) {s : State} (h : Same g a s) (x2 : _) (x3 : _) :
    Same g a (State.pllWrite s x2 x3) := by
  simp only [State.pllWrite_w, Bool.or_eq_false_iff] at hg
  repeat (have := hg.2; replace hg := hg.1)
  unfold State.pllWrite
  repeat' first | intro _ | ((fail_if_no_progress extract_lets +onlyGivenNames z); clear_value z) | with_reducible first | assumption | apply State.clkRefused_same (by assumption) | apply wr_same (by assumption) | apply State.pllChange_same (by assumption) | apply same_ite | split

def execClkPllWrite_w (g : Piece) : Bool := State.order_w g || State.pllWrite_w g

theorem execClkPllWrite_same {g : Piece} {a : State} (hg : execClkPllWrite_w g = false) {s : State} (h : Same g a s) (x1 : _) (x2 : _) :
    SameR g a (execClkPllWrite x1 x2 s) := by
  simp only [execClkPllWrite_w, Bool.or_eq_false_iff] at hg
  repeat (have := hg.2; replace hg := hg.1)
  unfold execClkPllWrite
  repeat' first | intro _ | with_reducible first | assumption | apply sameR_next | apply State.order_same (by assumption) | apply State.pllWrite_same (by assumption)

def State.storeLeaves_w (g : Piece) : Bool := (g == .fld .CLK_BG_GROUP) || (g == .fld .CLK_SG_GROUP)

theorem State.storeLeaves_same {g : Piece} {a : State} (hg : State.storeLeaves_w g = false) {s : State} (h : Same g a s) :
    Same g a (State.storeLeaves s) := by
  simp only [State.storeLeaves_w, Bool.or_eq_false_iff] at hg
  repeat (have := hg.2; replace hg := hg.1)
  unfold State.storeLeaves
  repeat' first | intro _ | with_reducible first | assumption | apply State.each_same | apply wr_same (by assumption) | apply same_ite | split

def State.gateWrite_w (g : Piece) : Bool := State.gateRefused_w g || State.storeLeaves_w g || State.pump_w g || (g == .fld .CLK_STAT_EXPERT) || (g == .aux .gatePend) || (g == .fld .CLK_GATE_STATUS_PEND) || (g == .fld .CLK_GATE_DIE) || (g == .fld .CLK_GATE_BLK) || (g == .fld .CLK_SG_GROUP) || (g == .fld .CLK_BG_GROUP)

theorem State.gateWrite_same {g : Piece} {a : State} (hg : State.gateWrite_w g = false) {s : State} (h : Same g a s) (x2 : _) (x3 : _) (x4 : _) :
    Same g a (State.gateWrite s x2 x3 x4) := by
  simp only [State.gateWrite_w, Bool.or_eq_false_iff] at hg
  repeat (have := hg.2; replace hg := hg.1)
  unfold State.gateWrite
  repeat' first | intro _ | ((fail_if_no_progress extract_lets +onlyGivenNames z); first | (refine same_cut (a := a) (g := g) z ?_ fun hz => ?_) <;> [subst z; clear_value z] | subst z) | with_reducible first | assumption | apply State.gateRefused_same (by assumption) | apply State.when_same | apply wr_same | apply State.storeLeaves_same (by assumption) | apply State.pump_same (by assumption) | apply setAx_same | apply same_ite | (unfold convSubField; split) | (unfold spareColField; split) | (unfold quotaField; split) | (unfold gateField; split) | (unfold readyField; split) | split

def State.mgmtSrc_w (g : Piece) : Bool := State.clkRefused_w g || (g == .fld .CLK_STAT_EXPERT) || (g == .fld .CLK_STAT_MGMT_ON_RC) || (g == .fld .CLK_CTRL_MGMT_SRC)

theorem State.mgmtSrc_same {g : Piece} {a : State} (hg : State.mgmtSrc_w g = false) {s : State} (h : Same g a s) (x2 : _) :
    Same g a (State.mgmtSrc s x2) := by
  simp only [State.mgmtSrc_w, Bool.or_eq_false_iff] at hg
  repeat (have := hg.2; replace hg := hg.1)
  unfold State.mgmtSrc
  repeat' first | intro _ | with_reducible first | assumption | apply State.clkRefused_same (by assumption) | apply wr_same (by assumption) | apply same_ite | split

def execClkCtrlMgmtSrcWrite_w (g : Piece) : Bool := State.order_w g || State.mgmtSrc_w g

theorem execClkCtrlMgmtSrcWrite_same {g : Piece} {a : State} (hg : execClkCtrlMgmtSrcWrite_w g = false) {s : State} (h : Same g a s) (x1 : _) :
    SameR g a (execClkCtrlMgmtSrcWrite x1 s) := by
  simp only [execClkCtrlMgmtSrcWrite_w, Bool.or_eq_false_iff] at hg
  repeat (have := hg.2; replace hg := hg.1)
  unfold execClkCtrlMgmtSrcWrite
  repeat' first | intro _ | with_reducible first | assumption | apply sameR_next | apply State.order_same (by assumption) | apply State.mgmtSrc_same (by assumption)

def execClkDtctrlSet_w (g : Piece) : Bool := State.order_w g || State.setTime_w g

theorem execClkDtctrlSet_same {g : Piece} {a : State} (hg : execClkDtctrlSet_w g = false) {s : State} (h : Same g a s) (x1 : _) :
    SameR g a (execClkDtctrlSet x1 s) := by
  simp only [execClkDtctrlSet_w, Bool.or_eq_false_iff] at hg
  repeat (have := hg.2; replace hg := hg.1)
  unfold execClkDtctrlSet
  repeat' first | intro _ | with_reducible first | assumption | apply sameR_next | apply State.order_same (by assumption) | apply State.when_same | apply State.setTime_same (by assumption) | split

def State.sourceLoss_w (g : Piece) : Bool := State.event_w g || State.stopPlls_w g || State.enterSafe_w g || State.clockLossEvent_w g || (g == .fld .CLK_STAT_LOSSES) || (g == .aux .pcieDown) || (g == .aux .lossSrc) || (g == .aux .lossAt) || (g == .safeJobs) || (g == .fld .CLK_DTCTRL_HOLDOVER) || (g == .fld .CLK_STAT_MGMT_ON_RC) || (g == .aux .lossPending) || (g == .aux .oneShot) || (g == .fld .CLK_CTRL_MGMT_SRC) || (g == .fld .CLK_STAT_RC_READY) || (g == .fld .CLK_STAT_XTAL_READY) || (g == .fld .CLK_STAT_REFCLK_READY)

theorem State.sourceLoss_same {g : Piece} {a : State} (hg : State.sourceLoss_w g = false) {s : State} (h : Same g a s) (x2 : _) (x3 : _) (x4 : _) :
    Same g a (State.sourceLoss s x2 x3 x4) := by
  simp only [State.sourceLoss_w, Bool.or_eq_false_iff] at hg
  repeat (have := hg.2; replace hg := hg.1)
  unfold State.sourceLoss
  repeat' first | intro _ | ((fail_if_no_progress extract_lets +onlyGivenNames z); first | (refine same_cut (a := a) (g := g) z ?_ fun hz => ?_) <;> [subst z; clear_value z] | subst z) | with_reducible first | assumption | apply wr_same | apply State.when_same | apply bump_same | apply setAx_same | apply State.event_same (by assumption) | apply State.stopPlls_same (by assumption) | apply State.enterSafe_same (by assumption) | apply State.clockLossEvent_same (by assumption) | fail_if_no_progress apply same_mk_safeJobs (by assumption) | apply same_ite | (unfold convSubField; split) | (unfold spareColField; split) | (unfold quotaField; split) | (unfold gateField; split) | (unfold readyField; split) | split

def execSourceLoss_w (g : Piece) : Bool := State.sourceLoss_w g

theorem execSourceLoss_same {g : Piece} {a : State} (hg : execSourceLoss_w g = false) {s : State} (h : Same g a s) (x1 : _) (x2 : _) (x3 : _) :
    SameR g a (execSourceLoss x1 x2 x3 s) := by
  simp only [execSourceLoss_w] at hg
  unfold execSourceLoss
  repeat' first | intro _ | with_reducible first | assumption | apply sameR_next | apply sameR_ite | apply State.sourceLoss_same (by assumption) | apply same_ite | split

def execPpsErrorAbsorbed_w (g : Piece) : Bool := (g == .aux .halfRate)

theorem execPpsErrorAbsorbed_same {g : Piece} {a : State} (hg : execPpsErrorAbsorbed_w g = false) {s : State} (h : Same g a s) :
    SameR g a (execPpsErrorAbsorbed s) := by
  simp only [execPpsErrorAbsorbed_w] at hg
  unfold execPpsErrorAbsorbed
  repeat' first | intro _ | with_reducible first | assumption | apply sameR_next | apply sameR_ite | apply setAx_same (by assumption) | apply same_ite | split

def execClockOneShotExpiry_w (g : Piece) : Bool := (g == .fld .CLK_STAT_NOCLOCK) || (g == .aux .oneShot)

theorem execClockOneShotExpiry_same {g : Piece} {a : State} (hg : execClockOneShotExpiry_w g = false) {s : State} (h : Same g a s) :
    SameR g a (execClockOneShotExpiry s) := by
  simp only [execClockOneShotExpiry_w, Bool.or_eq_false_iff] at hg
  repeat (have := hg.2; replace hg := hg.1)
  unfold execClockOneShotExpiry
  repeat' first | intro _ | with_reducible first | assumption | apply sameR_next | apply sameR_ite | apply wr_same (by assumption) | apply setAx_same (by assumption) | apply same_ite | split

def execSourceReady_w (g : Piece) : Bool := State.sourceReady_w g

theorem execSourceReady_same {g : Piece} {a : State} (hg : execSourceReady_w g = false) {s : State} (h : Same g a s) (x1 : _) :
    SameR g a (execSourceReady x1 s) := by
  simp only [execSourceReady_w] at hg
  unfold execSourceReady
  repeat' first | intro _ | with_reducible first | assumption | apply sameR_next | apply sameR_ite | apply State.sourceReady_same (by assumption) | apply same_ite | split

def execPllRelockDone_w (g : Piece) : Bool := State.setLock_w g || (g == .aux .relock)

theorem execPllRelockDone_same {g : Piece} {a : State} (hg : execPllRelockDone_w g = false) {s : State} (h : Same g a s) (x1 : _) :
    SameR g a (execPllRelockDone x1 s) := by
  simp only [execPllRelockDone_w, Bool.or_eq_false_iff] at hg
  repeat (have := hg.2; replace hg := hg.1)
  unfold execPllRelockDone
  repeat' first | intro _ | with_reducible first | assumption | apply sameR_next | apply sameR_fault | apply sameR_ite | apply State.setLock_same (by assumption) | apply setAx_same (by assumption) | apply same_ite | split

def State.clkHandback_w (g : Piece) : Bool := State.clkRefused_w g || State.pllChange_w g || State.firmwareGating_w g || (g == .fld .CLK_STAT_EXPERT) || (g == .fld .CLK_CTRL_MGMT_SRC) || (g == .fld .CLK_CTRL_ROOT)

theorem State.clkHandback_same {g : Piece} {a : State} (hg : State.clkHandback_w g = false) {s : State} (h : Same g a s) :
    Same g a (State.clkHandback s) := by
  simp only [State.clkHandback_w, Bool.or_eq_false_iff] at hg
  repeat (have := hg.2; replace hg := hg.1)
  unfold State.clkHandback
  repeat' first | intro _ | ((fail_if_no_progress extract_lets +onlyGivenNames z); first | (refine same_cut (a := a) (g := g) z ?_ fun hz => ?_) <;> [subst z; clear_value z] | clear_value z) | with_reducible first | assumption | apply State.clkRefused_same (by assumption) | apply State.pllChange_same (by assumption) | apply wr_same (by assumption) | apply State.firmwareGating_same (by assumption) | apply foldl_same | apply same_ite | split

def State.gateOff_w (g : Piece) : Bool := (g == .aux .gatePend) || (g == .fld .CLK_GATE_STATUS_PEND)

theorem State.gateOff_same {g : Piece} {a : State} (hg : State.gateOff_w g = false) {s : State} (h : Same g a s) (x2 : _) (x3 : _) :
    Same g a (State.gateOff s x2 x3) := by
  simp only [State.gateOff_w, Bool.or_eq_false_iff] at hg
  repeat (have := hg.2; replace hg := hg.1)
  unfold State.gateOff
  repeat' first | intro _ | ((fail_if_no_progress extract_lets +onlyGivenNames z); first | (refine same_cut (a := a) (g := g) z ?_ fun hz => ?_) <;> [subst z; clear_value z] | clear_value z) | with_reducible first | assumption | apply setAx_same (by assumption) | apply wr_same (by assumption) | apply same_ite | split

def execGateOffEffect_w (g : Piece) : Bool := State.gateOff_w g

theorem execGateOffEffect_same {g : Piece} {a : State} (hg : execGateOffEffect_w g = false) {s : State} (h : Same g a s) (x1 : _) (x2 : _) :
    SameR g a (execGateOffEffect x1 x2 s) := by
  simp only [execGateOffEffect_w] at hg
  unfold execGateOffEffect
  repeat' first | intro _ | with_reducible first | assumption | apply sameR_next | apply sameR_ite | apply State.gateOff_same (by assumption) | apply same_ite | split

def execClkDtctrlSetPps_w (g : Piece) : Bool := State.order_w g || (g == .fld .CLK_DTCTRL_SET_PPS)

theorem execClkDtctrlSetPps_same {g : Piece} {a : State} (hg : execClkDtctrlSetPps_w g = false) {s : State} (h : Same g a s) (x1 : _) :
    SameR g a (execClkDtctrlSetPps x1 s) := by
  simp only [execClkDtctrlSetPps_w, Bool.or_eq_false_iff] at hg
  repeat (have := hg.2; replace hg := hg.1)
  unfold execClkDtctrlSetPps
  repeat' first | intro _ | with_reducible first | assumption | apply sameR_next | apply State.order_same (by assumption) | apply State.when_same | apply wr_same (by assumption) | split

def execTimePpsEdge_w (g : Piece) : Bool := State.ppsEdge_w g

theorem execTimePpsEdge_same {g : Piece} {a : State} (hg : execTimePpsEdge_w g = false) {s : State} (h : Same g a s) :
    SameR g a (execTimePpsEdge s) := by
  simp only [execTimePpsEdge_w] at hg
  unfold execTimePpsEdge
  repeat' first | intro _ | with_reducible first | assumption | apply sameR_next | apply State.ppsEdge_same (by assumption)

def execPpsLossTimeout_w (g : Piece) : Bool := State.event_w g || (g == .fld .CLK_DTCTRL_PPS_LOST)

theorem execPpsLossTimeout_same {g : Piece} {a : State} (hg : execPpsLossTimeout_w g = false) {s : State} (h : Same g a s) :
    SameR g a (execPpsLossTimeout s) := by
  simp only [execPpsLossTimeout_w, Bool.or_eq_false_iff] at hg
  repeat (have := hg.2; replace hg := hg.1)
  unfold execPpsLossTimeout
  repeat' first | intro _ | with_reducible first | assumption | apply sameR_next | apply sameR_ite | apply State.event_same (by assumption) | apply wr_same (by assumption) | apply same_ite | split

def execClkCtrlHandback_w (g : Piece) : Bool := State.order_w g || State.clkHandback_w g

theorem execClkCtrlHandback_same {g : Piece} {a : State} (hg : execClkCtrlHandback_w g = false) {s : State} (h : Same g a s) (x1 : _) :
    SameR g a (execClkCtrlHandback x1 s) := by
  simp only [execClkCtrlHandback_w, Bool.or_eq_false_iff] at hg
  repeat (have := hg.2; replace hg := hg.1)
  unfold execClkCtrlHandback
  repeat' first | intro _ | with_reducible first | assumption | apply sameR_next | apply State.order_same (by assumption) | apply State.when_same | apply State.clkHandback_same (by assumption) | split

def State.tick_w (g : Piece) : Bool := (g == .dt) || (g == .aux .ppsAbsorb)

theorem State.tick_same {g : Piece} {a : State} (hg : State.tick_w g = false) {s : State} (h : Same g a s) :
    Same g a (State.tick s) := by
  simp only [State.tick_w, Bool.or_eq_false_iff] at hg
  repeat (have := hg.2; replace hg := hg.1)
  unfold State.tick
  repeat' first | intro _ | with_reducible first | assumption | apply setAx_same (by assumption) | fail_if_no_progress apply same_mk_dt (by assumption) | apply same_ite | split

def execClkGateWrite_w (g : Piece) : Bool := State.order_w g || State.gateWrite_w g

theorem execClkGateWrite_same {g : Piece} {a : State} (hg : execClkGateWrite_w g = false) {s : State} (h : Same g a s) (x1 : _) (x2 : _) (x3 : _) :
    SameR g a (execClkGateWrite x1 x2 x3 s) := by
  simp only [execClkGateWrite_w, Bool.or_eq_false_iff] at hg
  repeat (have := hg.2; replace hg := hg.1)
  unfold execClkGateWrite
  repeat' first | intro _ | with_reducible first | assumption | apply sameR_next | apply State.order_same (by assumption) | apply State.gateWrite_same (by assumption)

end Sys2Proof.Machine
end

