-- ==== Sys2Proof/Laws/SamePower.lean ====
section
/-!
SUPPORT. Laws/SamePower.lean: what the operations of Machine/Power.lean may change, and that they leave the rest alone.
-/

set_option linter.unusedTactic false
set_option linter.unusedSimpArgs false
set_option linter.unusedVariables false
set_option linter.tactic.unusedName false
set_option linter.unreachableTactic false

namespace Sys2Proof.Machine

def State.thermalCheck_w (g : Piece) : Bool := State.event_w g || (g == .fld .PWR_STAT_THERM) || (g == .aux .thermCut)

theorem State.thermalCheck_same {g : Piece} {a : State} (hg : State.thermalCheck_w g = false) {s : State} (h : Same g a s) (x2 : _) (x3 : _) :
    Same g a (State.thermalCheck s x2 x3) := by
  simp only [State.thermalCheck_w, Bool.or_eq_false_iff] at hg
  repeat (have := hg.2; replace hg := hg.1)
  unfold State.thermalCheck
  repeat' first | intro _ | ((fail_if_no_progress extract_lets +onlyGivenNames z); (refine same_cut (a := a) (g := g) z ?_ fun hz => ?_) <;> [subst z; clear_value z]) | with_reducible first | assumption | apply wr_same (by assumption) | apply setAx_same (by assumption) | apply State.event_same (by assumption) | apply same_ite | split

def State.addEnergy_w (g : Piece) : Bool := (g == .aux .energyRest) || (g == .fld .PKT_LIFE_ENERGY_JOULES)

theorem State.addEnergy_same {g : Piece} {a : State} (hg : State.addEnergy_w g = false) {s : State} (h : Same g a s) :
    Same g a (State.addEnergy s) := by
  simp only [State.addEnergy_w, Bool.or_eq_false_iff] at hg
  repeat (have := hg.2; replace hg := hg.1)
  unfold State.addEnergy
  repeat' first | intro _ | ((fail_if_no_progress extract_lets +onlyGivenNames z); clear_value z) | with_reducible first | assumption | apply setAx_same (by assumption) | apply wr_same (by assumption) | apply foldl_same

def State.setDuty_w (g : Piece) : Bool := (g == .fld .DGA_DUTY_DUTY)

theorem State.setDuty_same {g : Piece} {a : State} (hg : State.setDuty_w g = false) {s : State} (h : Same g a s) (x2 : _) (x3 : _) :
    Same g a (State.setDuty s x2 x3) := by
  simp only [State.setDuty_w] at hg
  unfold State.setDuty
  repeat' first | intro _ | with_reducible first | assumption | apply wr_same (by assumption) | apply same_ite | split

def State.setThrottle_w (g : Piece) : Bool := (g == .fld .YOK_THROTTLE_TICKS)

theorem State.setThrottle_same {g : Piece} {a : State} (hg : State.setThrottle_w g = false) {s : State} (h : Same g a s) (x2 : _) :
    Same g a (State.setThrottle s x2) := by
  simp only [State.setThrottle_w] at hg
  unfold State.setThrottle
  repeat' first | intro _ | with_reducible first | assumption | apply wr_same (by assumption) | apply same_ite | split

def State.powerDown_w (g : Piece) : Bool := State.setDuty_w g || State.setThrottle_w g

theorem State.powerDown_same {g : Piece} {a : State} (hg : State.powerDown_w g = false) {s : State} (h : Same g a s) (x2 : _) :
    Same g a (State.powerDown s x2) := by
  simp only [State.powerDown_w, Bool.or_eq_false_iff] at hg
  repeat (have := hg.2; replace hg := hg.1)
  unfold State.powerDown
  repeat' first | intro _ | ((fail_if_no_progress extract_lets +onlyGivenNames z); first | (refine same_cut (a := a) (g := g) z ?_ fun hz => ?_) <;> [subst z; clear_value z] | clear_value z) | with_reducible first | assumption | apply State.each_same | apply State.setDuty_same (by assumption) | apply State.setThrottle_same (by assumption) | apply same_ite | split

def State.powerUp_w (g : Piece) : Bool := State.setThrottle_w g || State.setDuty_w g

theorem State.powerUp_same {g : Piece} {a : State} (hg : State.powerUp_w g = false) {s : State} (h : Same g a s) :
    Same g a (State.powerUp s) := by
  simp only [State.powerUp_w, Bool.or_eq_false_iff] at hg
  repeat (have := hg.2; replace hg := hg.1)
  unfold State.powerUp
  repeat' first | intro _ | ((fail_if_no_progress extract_lets +onlyGivenNames z); clear_value z) | with_reducible first | assumption | apply State.setThrottle_same (by assumption) | apply State.each_same | apply State.setDuty_same (by assumption) | apply same_ite | split

def State.applyCaps_w (g : Piece) : Bool := State.setThrottle_w g || State.setDuty_w g

theorem State.applyCaps_same {g : Piece} {a : State} (hg : State.applyCaps_w g = false) {s : State} (h : Same g a s) :
    Same g a (State.applyCaps s) := by
  simp only [State.applyCaps_w, Bool.or_eq_false_iff] at hg
  repeat (have := hg.2; replace hg := hg.1)
  unfold State.applyCaps
  repeat' first | intro _ | ((fail_if_no_progress extract_lets +onlyGivenNames z); (refine same_cut (a := a) (g := g) z ?_ fun hz => ?_) <;> [subst z; clear_value z]) | with_reducible first | assumption | apply State.setThrottle_same (by assumption) | apply State.each_same | apply State.setDuty_same (by assumption) | apply same_ite | split

def State.noteLimiting_w (g : Piece) : Bool := State.event_w g || (g == .aux .lastLimit) || (g == .fld .PWR_STAT_LIMITING)

theorem State.noteLimiting_same {g : Piece} {a : State} (hg : State.noteLimiting_w g = false) {s : State} (h : Same g a s) (x2 : _) (x3 : _) :
    Same g a (State.noteLimiting s x2 x3) := by
  simp only [State.noteLimiting_w, Bool.or_eq_false_iff] at hg
  repeat (have := hg.2; replace hg := hg.1)
  unfold State.noteLimiting
  repeat' first | intro _ | ((fail_if_no_progress extract_lets +onlyGivenNames z); first | (refine same_cut (a := a) (g := g) z ?_ fun hz => ?_) <;> [subst z; clear_value z] | clear_value z) | with_reducible first | assumption | apply setAx_same (by assumption) | apply wr_same (by assumption) | apply State.event_same (by assumption) | apply same_ite | split

def State.powerMeasure_w (g : Piece) : Bool := State.addEnergy_w g || State.powerDown_w g || State.powerUp_w g || State.applyCaps_w g || State.noteLimiting_w g || (g == .fld .PWR_DIE_MEAS)

theorem State.powerMeasure_same {g : Piece} {a : State} (hg : State.powerMeasure_w g = false) {s : State} (h : Same g a s) (x2 : _) :
    Same g a (State.powerMeasure s x2) := by
  simp only [State.powerMeasure_w, Bool.or_eq_false_iff] at hg
  repeat (have := hg.2; replace hg := hg.1)
  unfold State.powerMeasure
  repeat' first | intro _ | ((fail_if_no_progress extract_lets +onlyGivenNames z); first | (refine same_cut (a := a) (g := g) z ?_ fun hz => ?_) <;> [subst z; clear_value z] | clear_value z) | with_reducible first | assumption | apply State.addEnergy_same (by assumption) | apply State.each_same | apply wr_same (by assumption) | apply State.powerDown_same (by assumption) | apply State.powerUp_same (by assumption) | apply State.applyCaps_same (by assumption) | apply State.noteLimiting_same (by assumption) | apply same_ite | split

def execPowerMeasure_w (g : Piece) : Bool := State.powerMeasure_w g

theorem execPowerMeasure_same {g : Piece} {a : State} (hg : execPowerMeasure_w g = false) {s : State} (h : Same g a s) (x1 : _) :
    SameR g a (execPowerMeasure x1 s) := by
  simp only [execPowerMeasure_w] at hg
  unfold execPowerMeasure
  repeat' first | intro _ | with_reducible first | assumption | apply sameR_next | apply State.powerMeasure_same (by assumption)

def execThermalCheck_w (g : Piece) : Bool := State.thermalCheck_w g

theorem execThermalCheck_same {g : Piece} {a : State} (hg : execThermalCheck_w g = false) {s : State} (h : Same g a s) (x1 : _) (x2 : _) :
    SameR g a (execThermalCheck x1 x2 s) := by
  simp only [execThermalCheck_w] at hg
  unfold execThermalCheck
  repeat' first | intro _ | with_reducible first | assumption | apply sameR_next | apply State.thermalCheck_same (by assumption)

def State.pwrHandback_w (g : Piece) : Bool := State.resetReg_w g || (g == .fld .PWR_DIE_DGA_CAP) || (g == .fld .PWR_DIE_FAB_CAP) || (g == .fld .PWR_DIE_BUDGET) || (g == .fld .PWR_STAT_EXPERT)

theorem State.pwrHandback_same {g : Piece} {a : State} (hg : State.pwrHandback_w g = false) {s : State} (h : Same g a s) :
    Same g a (State.pwrHandback s) := by
  simp only [State.pwrHandback_w, Bool.or_eq_false_iff] at hg
  repeat (have := hg.2; replace hg := hg.1)
  unfold State.pwrHandback
  repeat' first | intro _ | ((fail_if_no_progress extract_lets +onlyGivenNames z); (refine same_cut (a := a) (g := g) z ?_ fun hz => ?_) <;> [subst z; clear_value z]) | with_reducible first | assumption | apply State.resetReg_same (by assumption) | apply State.each_same | apply wr_same (by assumption)

def execPwrCtrlHandback_w (g : Piece) : Bool := State.order_w g || State.pwrHandback_w g

theorem execPwrCtrlHandback_same {g : Piece} {a : State} (hg : execPwrCtrlHandback_w g = false) {s : State} (h : Same g a s) (x1 : _) :
    SameR g a (execPwrCtrlHandback x1 s) := by
  simp only [execPwrCtrlHandback_w, Bool.or_eq_false_iff] at hg
  repeat (have := hg.2; replace hg := hg.1)
  unfold execPwrCtrlHandback
  repeat' first | intro _ | with_reducible first | assumption | apply sameR_next | apply State.order_same (by assumption) | apply State.when_same | apply State.pwrHandback_same (by assumption) | split

def State.thermalRestore_w (g : Piece) : Bool := (g == .aux .thermCut) || (g == .fld .PWR_STAT_THERM)

theorem State.thermalRestore_same {g : Piece} {a : State} (hg : State.thermalRestore_w g = false) {s : State} (h : Same g a s) (x2 : _) (x3 : _) :
    Same g a (State.thermalRestore s x2 x3) := by
  simp only [State.thermalRestore_w, Bool.or_eq_false_iff] at hg
  repeat (have := hg.2; replace hg := hg.1)
  unfold State.thermalRestore
  repeat' first | intro _ | ((fail_if_no_progress extract_lets +onlyGivenNames z); first | (refine same_cut (a := a) (g := g) z ?_ fun hz => ?_) <;> [subst z; clear_value z] | clear_value z) | with_reducible first | assumption | apply setAx_same (by assumption) | apply wr_same (by assumption) | apply same_ite | split

def execThermalRestoreStep_w (g : Piece) : Bool := State.thermalRestore_w g

theorem execThermalRestoreStep_same {g : Piece} {a : State} (hg : execThermalRestoreStep_w g = false) {s : State} (h : Same g a s) (x1 : _) (x2 : _) :
    SameR g a (execThermalRestoreStep x1 x2 s) := by
  simp only [execThermalRestoreStep_w] at hg
  unfold execThermalRestoreStep
  repeat' first | intro _ | with_reducible first | assumption | apply sameR_next | apply State.thermalRestore_same (by assumption)

def State.shedRelease_w (g : Piece) : Bool := State.event_w g || (g == .aux .shedSteps) || (g == .fld .PWR_STAT_SHED_IN)

theorem State.shedRelease_same {g : Piece} {a : State} (hg : State.shedRelease_w g = false) {s : State} (h : Same g a s) :
    Same g a (State.shedRelease s) := by
  simp only [State.shedRelease_w, Bool.or_eq_false_iff] at hg
  repeat (have := hg.2; replace hg := hg.1)
  unfold State.shedRelease
  repeat' first | intro _ | ((fail_if_no_progress extract_lets +onlyGivenNames z); first | (refine same_cut (a := a) (g := g) z ?_ fun hz => ?_) <;> [subst z; clear_value z] | clear_value z) | with_reducible first | assumption | apply setAx_same (by assumption) | apply wr_same (by assumption) | apply State.event_same (by assumption) | apply same_ite | split

def execPwrShedRelease_w (g : Piece) : Bool := State.shedRelease_w g

theorem execPwrShedRelease_same {g : Piece} {a : State} (hg : execPwrShedRelease_w g = false) {s : State} (h : Same g a s) :
    SameR g a (execPwrShedRelease s) := by
  simp only [execPwrShedRelease_w] at hg
  unfold execPwrShedRelease
  repeat' first | intro _ | with_reducible first | assumption | apply sameR_next | apply State.shedRelease_same (by assumption)

def State.shedAdvise_w (g : Piece) : Bool := State.event_w g || (g == .aux .shedLong)

theorem State.shedAdvise_same {g : Piece} {a : State} (hg : State.shedAdvise_w g = false) {s : State} (h : Same g a s) :
    Same g a (State.shedAdvise s) := by
  simp only [State.shedAdvise_w, Bool.or_eq_false_iff] at hg
  repeat (have := hg.2; replace hg := hg.1)
  unfold State.shedAdvise
  repeat' first | intro _ | ((fail_if_no_progress extract_lets +onlyGivenNames z); clear_value z) | with_reducible first | assumption | apply State.event_same (by assumption) | apply setAx_same (by assumption) | apply same_ite | split

def State.keepShedOld_w (g : Piece) : Bool := (g == .aux .shedSteps) || (g == .aux .shedOldThrottle) || (g == .aux .shedOldDuty)

theorem State.keepShedOld_same {g : Piece} {a : State} (hg : State.keepShedOld_w g = false) {s : State} (h : Same g a s) :
    Same g a (State.keepShedOld s) := by
  simp only [State.keepShedOld_w, Bool.or_eq_false_iff] at hg
  repeat (have := hg.2; replace hg := hg.1)
  unfold State.keepShedOld
  repeat' first | intro _ | with_reducible first | assumption | apply setAx_same (by assumption) | apply State.each_same | apply same_ite | split

def execShedAdviseExpiry_w (g : Piece) : Bool := State.shedAdvise_w g

theorem execShedAdviseExpiry_same {g : Piece} {a : State} (hg : execShedAdviseExpiry_w g = false) {s : State} (h : Same g a s) :
    SameR g a (execShedAdviseExpiry s) := by
  simp only [execShedAdviseExpiry_w] at hg
  unfold execShedAdviseExpiry
  repeat' first | intro _ | with_reducible first | assumption | apply sameR_next | apply State.shedAdvise_same (by assumption)

def State.shedDutyStep_w (g : Piece) : Bool := State.setDuty_w g

theorem State.shedDutyStep_same {g : Piece} {a : State} (hg : State.shedDutyStep_w g = false) {s : State} (h : Same g a s) :
    Same g a (State.shedDutyStep s) := by
  simp only [State.shedDutyStep_w] at hg
  unfold State.shedDutyStep
  repeat' first | intro _ | ((fail_if_no_progress extract_lets +onlyGivenNames z); clear_value z) | with_reducible first | assumption | apply State.each_same | apply State.setDuty_same (by assumption) | apply same_ite | split

def execShedDutyStep_w (g : Piece) : Bool := State.shedDutyStep_w g

theorem execShedDutyStep_same {g : Piece} {a : State} (hg : execShedDutyStep_w g = false) {s : State} (h : Same g a s) :
    SameR g a (execShedDutyStep s) := by
  simp only [execShedDutyStep_w] at hg
  unfold execShedDutyStep
  repeat' first | intro _ | with_reducible first | assumption | apply sameR_next | apply State.when_same | apply State.shedDutyStep_same (by assumption)

def State.thermalTrip_w (g : Piece) : Bool := State.dieSafe_w g || State.event_w g || State.dieOffline_w g || (g == .fld .PWR_STAT_TSHUT)

theorem State.thermalTrip_same {g : Piece} {a : State} (hg : State.thermalTrip_w g = false) {s : State} (h : Same g a s) (x2 : _) (x3 : _) :
    Same g a (State.thermalTrip s x2 x3) := by
  simp only [State.thermalTrip_w, Bool.or_eq_false_iff] at hg
  repeat (have := hg.2; replace hg := hg.1)
  unfold State.thermalTrip
  repeat' first | intro _ | ((fail_if_no_progress extract_lets +onlyGivenNames z); (refine same_cut (a := a) (g := g) z ?_ fun hz => ?_) <;> [subst z; clear_value z]) | with_reducible first | assumption | apply State.dieSafe_same (by assumption) | apply wr_same (by assumption) | apply State.event_same (by assumption) | apply State.dieOffline_same (by assumption) | apply same_ite | split

def execThermalComparatorTrip_w (g : Piece) : Bool := State.thermalTrip_w g

theorem execThermalComparatorTrip_same {g : Piece} {a : State} (hg : execThermalComparatorTrip_w g = false) {s : State} (h : Same g a s) (x1 : _) (x2 : _) :
    SameR g a (execThermalComparatorTrip x1 x2 s) := by
  simp only [execThermalComparatorTrip_w] at hg
  unfold execThermalComparatorTrip
  repeat' first | intro _ | with_reducible first | assumption | apply sameR_next | apply State.thermalTrip_same (by assumption)

def State.shedOnEvent_w (g : Piece) : Bool := State.event_w g

theorem State.shedOnEvent_same {g : Piece} {a : State} (hg : State.shedOnEvent_w g = false) {s : State} (h : Same g a s) :
    Same g a (State.shedOnEvent s) := by
  simp only [State.shedOnEvent_w] at hg
  unfold State.shedOnEvent
  repeat' first | intro _ | with_reducible first | assumption | apply State.event_same (by assumption) | apply foldl_same

def State.shedRestore_w (g : Piece) : Bool := State.setThrottle_w g || State.setDuty_w g || (g == .aux .shedSteps)

theorem State.shedRestore_same {g : Piece} {a : State} (hg : State.shedRestore_w g = false) {s : State} (h : Same g a s) :
    Same g a (State.shedRestore s) := by
  simp only [State.shedRestore_w, Bool.or_eq_false_iff] at hg
  repeat (have := hg.2; replace hg := hg.1)
  unfold State.shedRestore
  repeat' first | intro _ | ((fail_if_no_progress extract_lets +onlyGivenNames z); first | (refine same_cut (a := a) (g := g) z ?_ fun hz => ?_) <;> [subst z; clear_value z] | clear_value z) | with_reducible first | assumption | apply State.setThrottle_same (by assumption) | apply State.each_same | apply State.setDuty_same (by assumption) | apply setAx_same (by assumption) | apply same_ite | split

def execShedRestoreStep_w (g : Piece) : Bool := State.shedRestore_w g

theorem execShedRestoreStep_same {g : Piece} {a : State} (hg : execShedRestoreStep_w g = false) {s : State} (h : Same g a s) :
    SameR g a (execShedRestoreStep s) := by
  simp only [execShedRestoreStep_w] at hg
  unfold execShedRestoreStep
  repeat' first | intro _ | with_reducible first | assumption | apply sameR_next | apply State.shedRestore_same (by assumption)

def State.shedAssert_w (g : Piece) : Bool := State.shedOnEvent_w g || State.keepShedOld_w g || State.shedDutyStep_w g || State.setThrottle_w g || (g == .aux .shedLong) || (g == .aux .shedMissed) || (g == .aux .shedAt) || (g == .fld .PWR_STAT_SHED_MET) || (g == .fld .PWR_STAT_SHED_IN)

theorem State.shedAssert_same {g : Piece} {a : State} (hg : State.shedAssert_w g = false) {s : State} (h : Same g a s) :
    Same g a (State.shedAssert s) := by
  simp only [State.shedAssert_w, Bool.or_eq_false_iff] at hg
  repeat (have := hg.2; replace hg := hg.1)
  unfold State.shedAssert
  repeat' first | intro _ | ((fail_if_no_progress extract_lets +onlyGivenNames z); (refine same_cut (a := a) (g := g) z ?_ fun hz => ?_) <;> [subst z; clear_value z]) | with_reducible first | assumption | apply setAx_same (by assumption) | apply wr_same (by assumption) | apply State.shedOnEvent_same (by assumption) | apply State.keepShedOld_same (by assumption) | apply State.shedDutyStep_same (by assumption) | apply State.setThrottle_same (by assumption) | apply same_ite | split

def execPwrShedAssert_w (g : Piece) : Bool := State.shedAssert_w g

theorem execPwrShedAssert_same {g : Piece} {a : State} (hg : execPwrShedAssert_w g = false) {s : State} (h : Same g a s) :
    SameR g a (execPwrShedAssert s) := by
  simp only [execPwrShedAssert_w] at hg
  unfold execPwrShedAssert
  repeat' first | intro _ | with_reducible first | assumption | apply sameR_next | apply State.shedAssert_same (by assumption)

def State.shedWindow_w (g : Piece) : Bool := State.event_w g || (g == .fld .PWR_STAT_SHED_MET) || (g == .aux .shedMissed)

theorem State.shedWindow_same {g : Piece} {a : State} (hg : State.shedWindow_w g = false) {s : State} (h : Same g a s) (x2 : _) :
    Same g a (State.shedWindow s x2) := by
  simp only [State.shedWindow_w, Bool.or_eq_false_iff] at hg
  repeat (have := hg.2; replace hg := hg.1)
  unfold State.shedWindow
  repeat' first | intro _ | ((fail_if_no_progress extract_lets +onlyGivenNames z); (refine same_cut (a := a) (g := g) z ?_ fun hz => ?_) <;> [subst z; clear_value z]) | with_reducible first | assumption | apply wr_same (by assumption) | apply State.event_same (by assumption) | apply setAx_same (by assumption) | apply same_ite | split

def execShedWindowEnd_w (g : Piece) : Bool := State.shedWindow_w g

theorem execShedWindowEnd_same {g : Piece} {a : State} (hg : execShedWindowEnd_w g = false) {s : State} (h : Same g a s) (x1 : _) :
    SameR g a (execShedWindowEnd x1 s) := by
  simp only [execShedWindowEnd_w] at hg
  unfold execShedWindowEnd
  repeat' first | intro _ | with_reducible first | assumption | apply sameR_next | apply State.shedWindow_same (by assumption)

end Sys2Proof.Machine
end

