-- ==== Sys2Proof/Laws/SameLoader.lean ====
section
/-!
SUPPORT. Laws/SameLoader.lean: what the operations of Machine/Loader.lean may change, and that they leave the rest alone.
-/

set_option linter.unusedTactic false
set_option linter.unusedSimpArgs false
set_option linter.unusedVariables false
set_option linter.tactic.unusedName false
set_option linter.unreachableTactic false

namespace Sys2Proof.Machine

def State.installProg_w (g : Piece) : Bool := State.copyProg_w g || (g == .progs)

theorem State.installProg_same {g : Piece} {a : State} (hg : State.installProg_w g = false) {s : State} (h : Same g a s) (x2 : _) (x3 : _) (x4 : _) :
    Same g a (State.installProg s x2 x3 x4) := by
  simp only [State.installProg_w, Bool.or_eq_false_iff] at hg
  repeat (have := hg.2; replace hg := hg.1)
  unfold State.installProg
  repeat' first | intro _ | ((fail_if_no_progress extract_lets +onlyGivenNames z); first | (refine same_cut (a := a) (g := g) z ?_ fun hz => ?_) <;> [subst z; clear_value z] | clear_value z) | with_reducible first | assumption | apply State.each_same | apply State.copyProg_same (by assumption) | fail_if_no_progress apply same_mk_progs (by assumption) | split

def State.programLoad_w (g : Piece) : Bool := State.completeCmd_w g || State.aer_w g || State.installProg_w g || State.journals_w g

theorem State.programLoad_same {g : Piece} {a : State} (hg : State.programLoad_w g = false) {s : State} (h : Same g a s) (x2 : _) (x3 : _) :
    Same g a (State.programLoad s x2 x3) := by
  simp only [State.programLoad_w, Bool.or_eq_false_iff] at hg
  repeat (have := hg.2; replace hg := hg.1)
  unfold State.programLoad
  repeat' first | intro _ | ((fail_if_no_progress extract_lets +onlyGivenNames z); first | (refine same_cut (a := a) (g := g) z ?_ fun hz => ?_) <;> [subst z; clear_value z] | clear_value z) | with_reducible first | assumption | apply State.completeCmd_same (by assumption) | apply State.aer_same (by assumption) | apply State.installProg_same (by assumption) | apply State.journals_same (by assumption) | apply same_ite | split

def execProgramLoad_w (g : Piece) : Bool := State.programLoad_w g

theorem execProgramLoad_same {g : Piece} {a : State} (hg : execProgramLoad_w g = false) {s : State} (h : Same g a s) (x1 : _) (x2 : _) :
    SameR g a (execProgramLoad x1 x2 s) := by
  simp only [execProgramLoad_w] at hg
  unfold execProgramLoad
  repeat' first | intro _ | with_reducible first | assumption | apply sameR_next | apply State.runCmd_same | apply State.programLoad_same (by assumption)

end Sys2Proof.Machine
end

