-- ==== Sys2Proof/Laws/SameTensor.lean ====
section
/-!
SUPPORT. Laws/SameTensor.lean: what the operations of Machine/Tensor.lean may change, and that they leave the rest alone.
-/

set_option linter.unusedTactic false
set_option linter.unusedSimpArgs false
set_option linter.unusedVariables false
set_option linter.tactic.unusedName false
set_option linter.unreachableTactic false

namespace Sys2Proof.Machine

def State.jobWrite_w (g : Piece) : Bool := State.jobStore_w g

theorem State.jobWrite_same {g : Piece} {a : State} (hg : State.jobWrite_w g = false) {s : State} (h : Same g a s) (x2 : _) (x3 : _) (x4 : _) (x5 : _) :
    SameE g a (State.jobWrite s x2 x3 x4 x5) := by
  simp only [State.jobWrite_w] at hg
  unfold State.jobWrite
  repeat' first | intro _ | with_reducible first | assumption | apply sameE_error | apply sameE_ok | apply sameE_ite | apply State.jobStore_same (by assumption) | apply same_ite | refine same_of2 (by assumption) ?_ | split

def State.jobWrites_w (g : Piece) : Bool := State.jobWrite_w g

theorem State.jobWrites_same {g : Piece} {a : State} (hg : State.jobWrites_w g = false) {s : State} (h : Same g a s) (x2 : _) (x3 : _) :
    SameE g a (State.jobWrites s x2 x3) := by
  simp only [State.jobWrites_w] at hg
  induction x3 generalizing s <;> [skip; rename_i ih]
  all_goals unfold State.jobWrites
  repeat' first | intro _ | with_reducible first | assumption | apply sameE_error | apply sameE_ok | apply State.jobWrite_same (by assumption) | refine same_ofE (by assumption) ?_ | apply ih | split

def State.putStep_w (g : Piece) : Bool := State.jobWrites_w g

theorem State.putStep_same {g : Piece} {a : State} (hg : State.putStep_w g = false) {s : State} (h : Same g a s) (x2 : _) (x3 : _) (x4 : _) (x5 : _) :
    SameE g a (State.putStep s x2 x3 x4 x5) := by
  simp only [State.putStep_w] at hg
  unfold State.putStep
  repeat' first | intro _ | with_reducible first | assumption | apply sameE_error | apply sameE_ok | apply State.jobWrites_same (by assumption) | refine same_ofE (by assumption) ?_

def State.countDeniedTds_w (g : Piece) : Bool := (g == .fld .BNK_DENIED_COUNT)

theorem State.countDeniedTds_same {g : Piece} {a : State} (hg : State.countDeniedTds_w g = false) {s : State} (h : Same g a s) (x2 : _) (x3 : _) :
    Same g a (State.countDeniedTds s x2 x3) := by
  simp only [State.countDeniedTds_w] at hg
  unfold State.countDeniedTds
  repeat' first | intro _ | with_reducible first | assumption | apply State.each_same | apply bump_same (by assumption) | apply same_ite | split

def State.tensorTrap_w (g : Piece) : Bool := State.trap_w g || State.countDeniedTds_w g

theorem State.tensorTrap_same {g : Piece} {a : State} (hg : State.tensorTrap_w g = false) {s : State} (h : Same g a s) (x2 : _) (x3 : _) (x4 : _) (x5 : _) :
    Same g a (State.tensorTrap s x2 x3 x4 x5) := by
  simp only [State.tensorTrap_w, Bool.or_eq_false_iff] at hg
  repeat (have := hg.2; replace hg := hg.1)
  unfold State.tensorTrap
  repeat' first | intro _ | with_reducible first | assumption | apply State.trap_same (by assumption) | apply State.countDeniedTds_same (by assumption) | apply same_ite | split

def State.countStat_w (g : Piece) : Bool := State.jobWrite_w g || (g == .fld .DGA_NAN_COUNT) || (g == .fld .DGA_SAT_COUNT)

theorem State.countStat_same {g : Piece} {a : State} (hg : State.countStat_w g = false) {s : State} (h : Same g a s) (x2 : _) (x3 : _) (x4 : _) (x5 : _) :
    SameE g a (State.countStat s x2 x3 x4 x5) := by
  simp only [State.countStat_w, Bool.or_eq_false_iff] at hg
  repeat (have := hg.2; replace hg := hg.1)
  unfold State.countStat
  repeat' first | intro _ | with_reducible first | assumption | apply sameE_error | apply sameE_ok | apply sameE_ite | apply bump_same (by assumption) | apply State.jobWrite_same (by assumption) | apply same_ite | refine same_ofE (by assumption) ?_ | split

def State.setTracker_w (g : Piece) : Bool := State.jobWrite_w g || State.updJob_w g

theorem State.setTracker_same {g : Piece} {a : State} (hg : State.setTracker_w g = false) {s : State} (h : Same g a s) (x2 : _) (x3 : _) (x4 : _) :
    SameE g a (State.setTracker s x2 x3 x4) := by
  simp only [State.setTracker_w, Bool.or_eq_false_iff] at hg
  repeat (have := hg.2; replace hg := hg.1)
  unfold State.setTracker
  repeat' first | intro _ | with_reducible first | assumption | apply sameE_error | apply sameE_ok | apply State.jobWrite_same (by assumption) | apply State.updJob_same (by assumption) | refine same_ofE (by assumption) ?_ | split

def State.writeStep_w (g : Piece) : Bool := State.putStep_w g || State.jobWrite_w g || State.setTracker_w g

theorem State.writeStep_same {g : Piece} {a : State} (hg : State.writeStep_w g = false) {s : State} (h : Same g a s) (x2 : _) (x3 : _) (x4 : _) (x5 : _) (x6 : _) :
    SameEP g a (State.writeStep s x2 x3 x4 x5 x6) := by
  simp only [State.writeStep_w, Bool.or_eq_false_iff] at hg
  repeat (have := hg.2; replace hg := hg.1)
  unfold State.writeStep
  repeat' first | intro _ | ((fail_if_no_progress extract_lets +onlyGivenNames z); clear_value z) | with_reducible first | assumption | apply sameEP_error | apply sameEP_ok | apply State.putStep_same (by assumption) | apply State.jobWrite_same (by assumption) | apply State.setTracker_same (by assumption) | apply same_ite | refine same_ofE (by assumption) ?_ | split

def State.writeSteps_w (g : Piece) : Bool := State.writeStep_w g

theorem State.writeSteps_same {g : Piece} {a : State} (hg : State.writeSteps_w g = false) {s : State} (h : Same g a s) (x2 : _) (x3 : _) (x4 : _) (x5 : _) (x6 : _) :
    SameEP g a (State.writeSteps s x2 x3 x4 x5 x6) := by
  simp only [State.writeSteps_w] at hg
  induction x5 generalizing s x6 <;> [skip; rename_i ih]
  all_goals unfold State.writeSteps
  repeat' first | intro _ | with_reducible first | assumption | apply sameEP_error | apply sameEP_ok | apply State.writeStep_same (by assumption) | refine same_ofEP (by assumption) ?_ | apply ih | split

def State.countDenied_w (g : Piece) : Bool := (g == .fld .BNK_DENIED_COUNT)

theorem State.countDenied_same {g : Piece} {a : State} (hg : State.countDenied_w g = false) {s : State} (h : Same g a s) (x2 : _) (x3 : _) (x4 : _) :
    Same g a (State.countDenied s x2 x3 x4) := by
  simp only [State.countDenied_w] at hg
  unfold State.countDenied
  repeat' first | intro _ | with_reducible first | assumption | apply bump_same (by assumption) | apply same_ite | split

def State.jobRead_w (g : Piece) : Bool := State.reads_w g

theorem State.jobRead_same {g : Piece} {a : State} (hg : State.jobRead_w g = false) {s : State} (h : Same g a s) (x2 : _) (x3 : _) (x4 : _) (x5 : _) :
    Same g a (State.jobRead s x2 x3 x4 x5).2 := by
  simp only [State.jobRead_w] at hg
  unfold State.jobRead
  repeat' first | intro _ | ((fail_if_no_progress extract_lets +onlyGivenNames z); (refine same_cut2 (a := a) (g := g) z ?_ fun hz => ?_) <;> [subst z; clear_value z]) | with_reducible first | assumption | apply State.reads_same (by assumption) | apply same2_ite | apply same_ite | refine same_of2 (by assumption) ?_ | split

def State.keepTracker_w (g : Piece) : Bool := State.updJob_w g

theorem State.keepTracker_same {g : Piece} {a : State} (hg : State.keepTracker_w g = false) {s : State} (h : Same g a s) (x2 : _) (x3 : _) :
    Same g a (State.keepTracker s x2 x3) := by
  simp only [State.keepTracker_w] at hg
  unfold State.keepTracker
  repeat' first | intro _ | with_reducible first | assumption | apply State.updJob_same (by assumption) | split

end Sys2Proof.Machine
end

