-- ==== Sys2Proof/Laws/SameTask.lean ====
section
/-!
SUPPORT. Laws/SameTask.lean: what the operations of Machine/Task.lean may change, and that they leave the rest alone.
-/

set_option linter.unusedTactic false
set_option linter.unusedSimpArgs false
set_option linter.unusedVariables false
set_option linter.tactic.unusedName false
set_option linter.unreachableTactic false

namespace Sys2Proof.Machine

def State.upd_w (g : Piece) : Bool := State.updTask_w g

theorem State.upd_same {g : Piece} {a : State} (hg : State.upd_w g = false) {s : State} (h : Same g a s) (x2 : _) (x3 : _) :
    Same g a (State.upd s x2 x3) := by
  simp only [State.upd_w] at hg
  unfold State.upd
  repeat' first | intro _ | with_reducible first | assumption | apply State.updTask_same (by assumption)

def State.jump_w (g : Piece) : Bool := State.upd_w g

theorem State.jump_same {g : Piece} {a : State} (hg : State.jump_w g = false) {s : State} (h : Same g a s) (x2 : _) (x3 : _) (x4 : _) :
    Same g a (State.jump s x2 x3 x4) := by
  simp only [State.jump_w] at hg
  unfold State.jump
  repeat' first | intro _ | ((fail_if_no_progress extract_lets +onlyGivenNames z); clear_value z) | with_reducible first | assumption | apply State.upd_same (by assumption)

def State.stopAgain_w (g : Piece) : Bool := State.updJob_w g || State.setWait_w g

theorem State.stopAgain_same {g : Piece} {a : State} (hg : State.stopAgain_w g = false) {s : State} (h : Same g a s) (x2 : _) :
    Same g a (State.stopAgain s x2) := by
  simp only [State.stopAgain_w, Bool.or_eq_false_iff] at hg
  repeat (have := hg.2; replace hg := hg.1)
  unfold State.stopAgain
  repeat' first | intro _ | ((fail_if_no_progress extract_lets +onlyGivenNames z); (refine same_cut (a := a) (g := g) z ?_ fun hz => ?_) <;> [subst z; clear_value z]) | with_reducible first | assumption | apply State.updJob_same (by assumption) | apply State.setWait_same (by assumption) | apply same_ite | split

def State.retire_w (g : Piece) : Bool := State.upd_w g

theorem State.retire_same {g : Piece} {a : State} (hg : State.retire_w g = false) {s : State} (h : Same g a s) (x2 : _) (x3 : _) :
    Same g a (State.retire s x2 x3) := by
  simp only [State.retire_w] at hg
  unfold State.retire
  repeat' first | intro _ | ((fail_if_no_progress extract_lets +onlyGivenNames z); clear_value z) | with_reducible first | assumption | apply State.upd_same (by assumption)

def State.trapAt_w (g : Piece) : Bool := State.trap_w g

theorem State.trapAt_same {g : Piece} {a : State} (hg : State.trapAt_w g = false) {s : State} (h : Same g a s) (x2 : _) (x3 : _) :
    Same g a (State.trapAt s x2 x3) := by
  simp only [State.trapAt_w] at hg
  unfold State.trapAt
  repeat' first | intro _ | with_reducible first | assumption | apply State.trap_same (by assumption)

def State.reading_w (g : Piece) : Bool := State.trapAt_w g || State.countDenied_w g || State.jobRead_w g

theorem State.reading_same {g : Piece} {a : State} (hg : State.reading_w g = false) {s : State} (h : Same g a s) (x2 : _) (x3 : _) (x4 : _) (x5 : _) (x6 : _) (hx6 : ∀ y0, Same g a y0 → Same g a (x6 y0)) :
    Same g a (State.reading s x2 x3 x4 x5 x6) := by
  simp only [State.reading_w, Bool.or_eq_false_iff] at hg
  repeat (have := hg.2; replace hg := hg.1)
  unfold State.reading
  repeat' first | intro _ | ((fail_if_no_progress extract_lets +onlyGivenNames z); (refine same_cut2 (a := a) (g := g) z ?_ fun hz => ?_) <;> [subst z; clear_value z]) | with_reducible first | assumption | apply hx6 | apply State.trapAt_same (by assumption) | apply State.countDenied_same (by assumption) | apply State.jobRead_same (by assumption) | apply same_ite | refine same_of2 (by assumption) ?_ | split

def State.issue_w (g : Piece) : Bool := State.retire_w g || State.stopAgain_w g || (g == .fld .SEQ_PC_PC)

theorem State.issue_same {g : Piece} {a : State} (hg : State.issue_w g = false) {s : State} (h : Same g a s) (x2 : _) (x3 : _) (x4 : _) (hx4 : ∀ y0 y1, Same g a y0 → Same g a (x4 y0 y1)) :
    Same g a (State.issue s x2 x3 x4) := by
  simp only [State.issue_w, Bool.or_eq_false_iff] at hg
  repeat (have := hg.2; replace hg := hg.1)
  unfold State.issue
  repeat' first | intro _ | ((fail_if_no_progress extract_lets +onlyGivenNames z); (refine same_cut (a := a) (g := g) z ?_ fun hz => ?_) <;> [subst z; clear_value z]) | with_reducible first | assumption | apply hx4 | apply wr_same (by assumption) | apply State.retire_same (by assumption) | apply State.stopAgain_same (by assumption) | apply same_id | apply same_ite | split

def State.issueTicket_w (g : Piece) : Bool := State.retire_w g

theorem State.issueTicket_same {g : Piece} {a : State} (hg : State.issueTicket_w g = false) {s : State} (h : Same g a s) (x2 : _) (x3 : _) (x4 : _) :
    Same g a (State.issueTicket s x2 x3 x4) := by
  simp only [State.issueTicket_w] at hg
  unfold State.issueTicket
  repeat' first | intro _ | ((fail_if_no_progress extract_lets +onlyGivenNames z); clear_value z) | with_reducible first | assumption | apply State.retire_same (by assumption) | apply same_ite | split

def State.launch_w (g : Piece) : Bool := State.nextIssue_w g || State.issueTicket_w g || (g == .ops)

theorem State.launch_same {g : Piece} {a : State} (hg : State.launch_w g = false) {s : State} (h : Same g a s) (x2 : _) (x3 : _) (x4 : _) (x5 : _) :
    Same g a (State.launch s x2 x3 x4 x5) := by
  simp only [State.launch_w, Bool.or_eq_false_iff] at hg
  repeat (have := hg.2; replace hg := hg.1)
  unfold State.launch
  repeat' first | intro _ | ((fail_if_no_progress extract_lets +onlyGivenNames z); first | (first | refine same_cut (a := a) (g := g) z ?_ fun hz => ?_ | refine same_cut2 (a := a) (g := g) z ?_ fun hz => ?_) <;> [subst z; clear_value z] | clear_value z) | with_reducible first | assumption | apply State.nextIssue_same (by assumption) | apply State.issueTicket_same (by assumption) | fail_if_no_progress apply same_mk_ops (by assumption) | apply same_ite | refine same_of2 (by assumption) ?_ | split

end Sys2Proof.Machine
end

