-- ==== Sys2Proof/Laws/SameMirror.lean ====
section
/-!
SUPPORT. Laws/SameMirror.lean: what the operations of Machine/Mirror.lean may change, and that they leave the rest alone.
-/

set_option linter.unusedTactic false
set_option linter.unusedSimpArgs false
set_option linter.unusedVariables false
set_option linter.tactic.unusedName false
set_option linter.unreachableTactic false

namespace Sys2Proof.Machine

def State.mirEvent_w (g : Piece) : Bool := State.event_w g

theorem State.mirEvent_same {g : Piece} {a : State} (hg : State.mirEvent_w g = false) {s : State} (h : Same g a s) (x2 : _) (x3 : _) (x4 : _) :
    Same g a (State.mirEvent s x2 x3 x4) := by
  simp only [State.mirEvent_w] at hg
  unfold State.mirEvent
  repeat' first | intro _ | with_reducible first | assumption | apply State.event_same (by assumption)

def State.linkLost_w (g : Piece) : Bool := (g == .jobs) || (g == .flits) || (g == .aux .hbHeard) || (g == .aux .syncSeq) || (g == .fld .MIR_CTRL_RESYNC) || (g == .fld .MIR_STAT_WIDTH)

theorem State.linkLost_same {g : Piece} {a : State} (hg : State.linkLost_w g = false) {s : State} (h : Same g a s) :
    Same g a (State.linkLost s) := by
  simp only [State.linkLost_w, Bool.or_eq_false_iff] at hg
  repeat (have := hg.2; replace hg := hg.1)
  unfold State.linkLost
  repeat' first | intro _ | ((fail_if_no_progress extract_lets +onlyGivenNames z); (refine same_cut (a := a) (g := g) z ?_ fun hz => ?_) <;> [subst z; clear_value z]) | with_reducible first | assumption | apply setAx_same (by assumption) | apply wr_same (by assumption) | fail_if_no_progress apply same_mk_jobs_flits (by assumption) (by assumption)

def State.mirDown_w (g : Piece) : Bool := State.mirEvent_w g || State.linkLost_w g || (g == .fld .MIR_STAT_LINK)

theorem State.mirDown_same {g : Piece} {a : State} (hg : State.mirDown_w g = false) {s : State} (h : Same g a s) (x2 : _) :
    Same g a (State.mirDown s x2) := by
  simp only [State.mirDown_w, Bool.or_eq_false_iff] at hg
  repeat (have := hg.2; replace hg := hg.1)
  unfold State.mirDown
  repeat' first | intro _ | with_reducible first | assumption | apply State.mirEvent_same (by assumption) | apply wr_same (by assumption) | apply State.linkLost_same (by assumption) | apply same_ite | split

def State.replay_w (g : Piece) : Bool := State.emitFlit_w g || State.mirDown_w g || (g == .fld .MIR_REPLAY_COUNT) || (g == .flits)

theorem State.replay_same {g : Piece} {a : State} (hg : State.replay_w g = false) {s : State} (h : Same g a s) (x2 : _) :
    Same g a (State.replay s x2) := by
  simp only [State.replay_w, Bool.or_eq_false_iff] at hg
  repeat (have := hg.2; replace hg := hg.1)
  unfold State.replay
  repeat' first | intro _ | ((fail_if_no_progress extract_lets +onlyGivenNames z); first | (refine same_cut (a := a) (g := g) z ?_ fun hz => ?_) <;> [subst z; clear_value z] | clear_value z) | with_reducible first | assumption | apply State.each_same | apply State.emitFlit_same (by assumption) | apply bump_same (by assumption) | apply State.mirDown_same (by assumption) | fail_if_no_progress apply same_mk_flits (by assumption) | apply same_ite | split

def State.handoverDone_w (g : Piece) : Bool := State.endJobSilently_w g || State.completeCmd_w g || State.mirEvent_w g || (g == .aux .handing)

theorem State.handoverDone_same {g : Piece} {a : State} (hg : State.handoverDone_w g = false) {s : State} (h : Same g a s) :
    Same g a (State.handoverDone s) := by
  simp only [State.handoverDone_w, Bool.or_eq_false_iff] at hg
  repeat (have := hg.2; replace hg := hg.1)
  unfold State.handoverDone
  repeat' first | intro _ | ((fail_if_no_progress extract_lets +onlyGivenNames z); first | (refine same_cut (a := a) (g := g) z ?_ fun hz => ?_) <;> [subst z; clear_value z] | clear_value z) | with_reducible first | assumption | apply State.each_same | apply State.endJobSilently_same (by assumption) | apply setAx_same (by assumption) | apply State.completeCmd_same (by assumption) | apply State.mirEvent_same (by assumption) | apply same_ite | split

def State.tellUnmirrored_w (g : Piece) : Bool := State.sendMsg_w g || (g == .aux .untold)

theorem State.tellUnmirrored_same {g : Piece} {a : State} (hg : State.tellUnmirrored_w g = false) {s : State} (h : Same g a s) (x2 : _) :
    Same g a (State.tellUnmirrored s x2) := by
  simp only [State.tellUnmirrored_w, Bool.or_eq_false_iff] at hg
  repeat (have := hg.2; replace hg := hg.1)
  unfold State.tellUnmirrored
  repeat' first | intro _ | with_reducible first | assumption | apply State.sendMsg_same (by assumption) | apply setAx_same (by assumption) | apply same_ite | split

def State.syncBegin_w (g : Piece) : Bool := (g == .aux .syncEpoch) || (g == .aux .syncAt) || (g == .fld .MIR_STAT_PAIR)

theorem State.syncBegin_same {g : Piece} {a : State} (hg : State.syncBegin_w g = false) {s : State} (h : Same g a s) :
    Same g a (State.syncBegin s) := by
  simp only [State.syncBegin_w, Bool.or_eq_false_iff] at hg
  repeat (have := hg.2; replace hg := hg.1)
  unfold State.syncBegin
  repeat' first | intro _ | with_reducible first | assumption | apply setAx_same (by assumption) | apply wr_same (by assumption) | apply same_ite | split

def State.sendRecord_w (g : Piece) : Bool := State.mirrorState_w g || State.updJob_w g

theorem State.sendRecord_same {g : Piece} {a : State} (hg : State.sendRecord_w g = false) {s : State} (h : Same g a s) (x2 : _) (x3 : _) (x4 : _) :
    Same g a (State.sendRecord s x2 x3 x4) := by
  simp only [State.sendRecord_w, Bool.or_eq_false_iff] at hg
  repeat (have := hg.2; replace hg := hg.1)
  unfold State.sendRecord
  repeat' first | intro _ | ((fail_if_no_progress extract_lets +onlyGivenNames z); (refine same_cut (a := a) (g := g) z ?_ fun hz => ?_) <;> [subst z; clear_value z]) | with_reducible first | assumption | apply State.mirrorState_same (by assumption) | apply State.updJob_same (by assumption) | apply same_ite | split

def State.sendWhole_w (g : Piece) : Bool := State.mirrorState_w g || State.journals_w g || State.sendQuotas_w g || State.sendPointers_w g || State.sendRecord_w g

theorem State.sendWhole_same {g : Piece} {a : State} (hg : State.sendWhole_w g = false) {s : State} (h : Same g a s) (x2 : _) :
    Same g a (State.sendWhole s x2) := by
  simp only [State.sendWhole_w, Bool.or_eq_false_iff] at hg
  repeat (have := hg.2; replace hg := hg.1)
  unfold State.sendWhole
  repeat' first | intro _ | ((fail_if_no_progress extract_lets +onlyGivenNames z); (refine same_cut (a := a) (g := g) z ?_ fun hz => ?_) <;> [subst z; clear_value z]) | with_reducible first | assumption | apply State.mirrorState_same (by assumption) | apply State.each_same | apply State.journals_same (by assumption) | apply State.sendQuotas_same (by assumption) | apply State.sendPointers_same (by assumption) | apply State.sendRecord_same (by assumption) | split

def State.releaseTake_w (g : Piece) : Bool := (g == .fld .MIR_STAT_TAKE_DRIVE) || (g == .aux .taken)

theorem State.releaseTake_same {g : Piece} {a : State} (hg : State.releaseTake_w g = false) {s : State} (h : Same g a s) :
    Same g a (State.releaseTake s) := by
  simp only [State.releaseTake_w, Bool.or_eq_false_iff] at hg
  repeat (have := hg.2; replace hg := hg.1)
  unfold State.releaseTake
  repeat' first | intro _ | with_reducible first | assumption | apply State.each_same | apply wr_same (by assumption) | apply setAx_same (by assumption)

def State.releaseReady_w (g : Piece) : Bool := State.releaseTake_w g

theorem State.releaseReady_same {g : Piece} {a : State} (hg : State.releaseReady_w g = false) {s : State} (h : Same g a s) :
    Same g a (State.releaseReady s) := by
  simp only [State.releaseReady_w] at hg
  unfold State.releaseReady
  repeat' first | intro _ | with_reducible first | assumption | apply State.releaseTake_same (by assumption) | apply same_ite | split

def State.syncEnd_w (g : Piece) : Bool := State.releaseReady_w g || State.mirEvent_w g || (g == .fld .MIR_EPOCH_EPOCH) || (g == .fld .MIR_STAT_PAIR) || (g == .fld .MIR_CTRL_RESYNC)

theorem State.syncEnd_same {g : Piece} {a : State} (hg : State.syncEnd_w g = false) {s : State} (h : Same g a s) :
    Same g a (State.syncEnd s) := by
  simp only [State.syncEnd_w, Bool.or_eq_false_iff] at hg
  repeat (have := hg.2; replace hg := hg.1)
  unfold State.syncEnd
  repeat' first | intro _ | ((fail_if_no_progress extract_lets +onlyGivenNames z); first | (refine same_cut (a := a) (g := g) z ?_ fun hz => ?_) <;> [subst z; clear_value z] | clear_value z) | with_reducible first | assumption | apply wr_same (by assumption) | apply State.releaseReady_same (by assumption) | apply State.mirEvent_same (by assumption) | apply same_ite | split

def State.syncStart_w (g : Piece) : Bool := State.syncBegin_w g || State.sendWhole_w g || State.syncEnd_w g || (g == .aux .stateWhole) || (g == .fld .MIR_FN_READY) || (g == .aux .syncSeq)

theorem State.syncStart_same {g : Piece} {a : State} (hg : State.syncStart_w g = false) {s : State} (h : Same g a s) :
    Same g a (State.syncStart s) := by
  simp only [State.syncStart_w, Bool.or_eq_false_iff] at hg
  repeat (have := hg.2; replace hg := hg.1)
  unfold State.syncStart
  repeat' first | intro _ | ((fail_if_no_progress extract_lets +onlyGivenNames z); first | (refine same_cut (a := a) (g := g) z ?_ fun hz => ?_) <;> [subst z; clear_value z] | clear_value z) | with_reducible first | assumption | apply State.each_same | apply State.syncBegin_same (by assumption) | apply setAx_same (by assumption) | apply wr_same (by assumption) | apply State.sendWhole_same (by assumption) | apply State.syncEnd_same (by assumption) | apply same_ite | split

def State.heartbeatHeard_w (g : Piece) : Bool := State.tellUnmirrored_w g || State.syncStart_w g || (g == .aux .hbHeard) || (g == .aux .syncDue)

theorem State.heartbeatHeard_same {g : Piece} {a : State} (hg : State.heartbeatHeard_w g = false) {s : State} (h : Same g a s) :
    Same g a (State.heartbeatHeard s) := by
  simp only [State.heartbeatHeard_w, Bool.or_eq_false_iff] at hg
  repeat (have := hg.2; replace hg := hg.1)
  unfold State.heartbeatHeard
  repeat' first | intro _ | ((fail_if_no_progress extract_lets +onlyGivenNames z); (refine same_cut (a := a) (g := g) z ?_ fun hz => ?_) <;> [subst z; clear_value z]) | with_reducible first | assumption | apply State.each_same | apply setAx_same (by assumption) | apply State.tellUnmirrored_same (by assumption) | apply State.syncStart_same (by assumption) | apply same_ite | split

def State.heartbeat_w (g : Piece) : Bool := State.mirEvent_w g || State.handoverDone_w g || State.heartbeatHeard_w g || (g == .aux .peerRank) || (g == .aux .rankWait) || (g == .aux .hbTimer) || (g == .aux .hbSeen) || (g == .fld .MIR_LASTHB_TIME) || (g == .aux .syncDue) || (g == .fld .MIR_STAT_RANK_CLASH) || (g == .aux .peerRole)

theorem State.heartbeat_same {g : Piece} {a : State} (hg : State.heartbeat_w g = false) {s : State} (h : Same g a s) (x2 : _) (x3 : _) (x4 : _) :
    Same g a (State.heartbeat s x2 x3 x4) := by
  simp only [State.heartbeat_w, Bool.or_eq_false_iff] at hg
  repeat (have := hg.2; replace hg := hg.1)
  unfold State.heartbeat
  repeat' first | intro _ | ((fail_if_no_progress extract_lets +onlyGivenNames z); first | (refine same_cut (a := a) (g := g) z ?_ fun hz => ?_) <;> [subst z; clear_value z] | clear_value z) | with_reducible first | assumption | apply setAx_same (by assumption) | apply wr_same (by assumption) | apply State.mirEvent_same (by assumption) | apply State.each_same | apply State.handoverDone_same (by assumption) | apply State.heartbeatHeard_same (by assumption) | apply same_ite | split

def State.takeBell_w (g : Piece) : Bool := State.cqHead_w g || State.sqTail_w g

theorem State.takeBell_same {g : Piece} {a : State} (hg : State.takeBell_w g = false) {s : State} (h : Same g a s) (x2 : _) (x3 : _) (x4 : _) (x5 : _) :
    Same g a (State.takeBell s x2 x3 x4 x5) := by
  simp only [State.takeBell_w, Bool.or_eq_false_iff] at hg
  repeat (have := hg.2; replace hg := hg.1)
  unfold State.takeBell
  repeat' first | intro _ | ((fail_if_no_progress extract_lets +onlyGivenNames z); clear_value z) | with_reducible first | assumption | apply State.cqHead_same (by assumption) | apply State.sqTail_same (by assumption) | apply same_ite | split

def State.undeclare_w (g : Piece) : Bool := State.completeCmd_w g || (g == .regions)

theorem State.undeclare_same {g : Piece} {a : State} (hg : State.undeclare_w g = false) {s : State} (h : Same g a s) (x2 : _) (x3 : _) :
    Same g a (State.undeclare s x2 x3) := by
  simp only [State.undeclare_w, Bool.or_eq_false_iff] at hg
  repeat (have := hg.2; replace hg := hg.1)
  unfold State.undeclare
  repeat' first | intro _ | with_reducible first | assumption | apply State.completeCmd_same (by assumption) | fail_if_no_progress apply same_mk_regions (by assumption) | split

def State.mirRegion_w (g : Piece) : Bool := State.completeCmd_w g || State.sendMsg_w g || State.undeclare_w g || (g == .regions)

theorem State.mirRegion_same {g : Piece} {a : State} (hg : State.mirRegion_w g = false) {s : State} (h : Same g a s) (x2 : _) (x3 : _) :
    Same g a (State.mirRegion s x2 x3) := by
  simp only [State.mirRegion_w, Bool.or_eq_false_iff] at hg
  repeat (have := hg.2; replace hg := hg.1)
  unfold State.mirRegion
  repeat' first | intro _ | ((fail_if_no_progress extract_lets +onlyGivenNames z); first | (refine same_cut (a := a) (g := g) z ?_ fun hz => ?_) <;> [subst z; clear_value z] | clear_value z) | with_reducible first | assumption | apply State.completeCmd_same (by assumption) | apply State.sendMsg_same (by assumption) | apply State.undeclare_same (by assumption) | fail_if_no_progress apply same_mk_regions (by assumption) | apply same_ite | split

def execMirRegion_w (g : Piece) : Bool := State.mirRegion_w g

theorem execMirRegion_same {g : Piece} {a : State} (hg : execMirRegion_w g = false) {s : State} (h : Same g a s) (x1 : _) (x2 : _) :
    SameR g a (execMirRegion x1 x2 s) := by
  simp only [execMirRegion_w] at hg
  unfold execMirRegion
  repeat' first | intro _ | with_reducible first | assumption | apply sameR_next | apply State.runCmd_same | apply State.mirRegion_same (by assumption)

def State.mirClear_w (g : Piece) : Bool := (g == .fld .MIR_TAKES_COUNT) || (g == .fld .MIR_HBMISS_COUNT) || (g == .fld .MIR_REPLAY_COUNT) || (g == .fld .MIR_CRCERR_COUNT)

theorem State.mirClear_same {g : Piece} {a : State} (hg : State.mirClear_w g = false) {s : State} (h : Same g a s) :
    Same g a (State.mirClear s) := by
  simp only [State.mirClear_w, Bool.or_eq_false_iff] at hg
  repeat (have := hg.2; replace hg := hg.1)
  unfold State.mirClear
  repeat' first | intro _ | with_reducible first | assumption | apply wr_same (by assumption)

def execMirCtrlClear_w (g : Piece) : Bool := State.order_w g || State.mirClear_w g

theorem execMirCtrlClear_same {g : Piece} {a : State} (hg : execMirCtrlClear_w g = false) {s : State} (h : Same g a s) (x1 : _) :
    SameR g a (execMirCtrlClear x1 s) := by
  simp only [execMirCtrlClear_w, Bool.or_eq_false_iff] at hg
  repeat (have := hg.2; replace hg := hg.1)
  unfold execMirCtrlClear
  repeat' first | intro _ | with_reducible first | assumption | apply sameR_next | apply State.order_same (by assumption) | apply State.when_same | apply State.mirClear_same (by assumption) | split

def State.mirEnable_w (g : Piece) : Bool := State.linkLost_w g || (g == .fld .MIR_STAT_LINK) || (g == .fld .MIR_CFG_ENABLE) || (g == .fld .MIR_STAT_PAIR) || (g == .aux .hbTimer)

theorem State.mirEnable_same {g : Piece} {a : State} (hg : State.mirEnable_w g = false) {s : State} (h : Same g a s) (x2 : _) :
    Same g a (State.mirEnable s x2) := by
  simp only [State.mirEnable_w, Bool.or_eq_false_iff] at hg
  repeat (have := hg.2; replace hg := hg.1)
  unfold State.mirEnable
  repeat' first | intro _ | with_reducible first | assumption | apply wr_same (by assumption) | apply setAx_same (by assumption) | apply State.linkLost_same (by assumption) | apply same_ite | split

def State.pairTo_w (g : Piece) : Bool := (g == .aux .syncSeq) || (g == .fld .MIR_CTRL_RESYNC) || (g == .fld .MIR_STAT_PAIR)

theorem State.pairTo_same {g : Piece} {a : State} (hg : State.pairTo_w g = false) {s : State} (h : Same g a s) (x2 : _) :
    Same g a (State.pairTo s x2) := by
  simp only [State.pairTo_w, Bool.or_eq_false_iff] at hg
  repeat (have := hg.2; replace hg := hg.1)
  unfold State.pairTo
  repeat' first | intro _ | with_reducible first | assumption | apply setAx_same (by assumption) | apply wr_same (by assumption)

def State.setRole_w (g : Piece) : Bool := (g == .fld .MIR_FN_ROLE)

theorem State.setRole_same {g : Piece} {a : State} (hg : State.setRole_w g = false) {s : State} (h : Same g a s) (x2 : _) (x3 : _) :
    Same g a (State.setRole s x2 x3) := by
  simp only [State.setRole_w] at hg
  unfold State.setRole
  repeat' first | intro _ | with_reducible first | assumption | apply wr_same (by assumption)

def State.dropRecords_w (g : Piece) : Bool := (g == .journal) || (g == .commits)

theorem State.dropRecords_same {g : Piece} {a : State} (hg : State.dropRecords_w g = false) {s : State} (h : Same g a s) (x2 : _) :
    Same g a (State.dropRecords s x2) := by
  simp only [State.dropRecords_w, Bool.or_eq_false_iff] at hg
  repeat (have := hg.2; replace hg := hg.1)
  unfold State.dropRecords
  repeat' first | intro _ | with_reducible first | assumption | fail_if_no_progress apply same_mk_journal_commits (by assumption) (by assumption) | split

def State.resetPair_w (g : Piece) : Bool := State.resetReg_w g

theorem State.resetPair_same {g : Piece} {a : State} (hg : State.resetPair_w g = false) {s : State} (h : Same g a s) (x2 : _) (x3 : _) :
    Same g a (State.resetPair s x2 x3) := by
  simp only [State.resetPair_w] at hg
  unfold State.resetPair
  repeat' first | intro _ | with_reducible first | assumption | apply State.resetReg_same (by assumption) | apply foldl_same

def State.dropCopies_w (g : Piece) : Bool := State.dropRecords_w g || State.setQp_w g || State.resetPair_w g || State.freeUnits_w g || (g == .progs) || (g == .regions)

theorem State.dropCopies_same {g : Piece} {a : State} (hg : State.dropCopies_w g = false) {s : State} (h : Same g a s) (x2 : _) :
    Same g a (State.dropCopies s x2) := by
  simp only [State.dropCopies_w, Bool.or_eq_false_iff] at hg
  repeat (have := hg.2; replace hg := hg.1)
  unfold State.dropCopies
  repeat' first | intro _ | ((fail_if_no_progress extract_lets +onlyGivenNames z); (refine same_cut (a := a) (g := g) z ?_ fun hz => ?_) <;> [subst z; clear_value z]) | with_reducible first | assumption | apply State.dropRecords_same (by assumption) | apply State.each_same | apply State.setQp_same (by assumption) | apply State.resetPair_same (by assumption) | apply State.freeUnits_same (by assumption) | fail_if_no_progress apply same_mk_progs_regions (by assumption) (by assumption) | split

def State.unmirror_w (g : Piece) : Bool := State.dropCopies_w g || State.dropRecords_w g || State.setRole_w g || (g == .fld .MIR_FN_MISMATCH) || (g == .fld .MIR_FN_READY)

theorem State.unmirror_same {g : Piece} {a : State} (hg : State.unmirror_w g = false) {s : State} (h : Same g a s) (x2 : _) :
    Same g a (State.unmirror s x2) := by
  simp only [State.unmirror_w, Bool.or_eq_false_iff] at hg
  repeat (have := hg.2; replace hg := hg.1)
  unfold State.unmirror
  repeat' first | intro _ | ((fail_if_no_progress extract_lets +onlyGivenNames z); (refine same_cut (a := a) (g := g) z ?_ fun hz => ?_) <;> [subst z; clear_value z]) | with_reducible first | assumption | apply State.dropCopies_same (by assumption) | apply State.dropRecords_same (by assumption) | apply wr_same (by assumption) | apply State.setRole_same (by assumption) | apply same_ite | split

def State.setMirrored_w (g : Piece) : Bool := State.pairTo_w g || State.setRole_w g || State.tellUnmirrored_w g || State.unmirror_w g || (g == .aux .untold) || (g == .fld .MIR_FN_MIRRORED)

theorem State.setMirrored_same {g : Piece} {a : State} (hg : State.setMirrored_w g = false) {s : State} (h : Same g a s) (x2 : _) (x3 : _) :
    Same g a (State.setMirrored s x2 x3) := by
  simp only [State.setMirrored_w, Bool.or_eq_false_iff] at hg
  repeat (have := hg.2; replace hg := hg.1)
  unfold State.setMirrored
  repeat' first | intro _ | ((fail_if_no_progress extract_lets +onlyGivenNames z); (refine same_cut (a := a) (g := g) z ?_ fun hz => ?_) <;> [subst z; clear_value z]) | with_reducible first | assumption | apply setAx_same (by assumption) | apply wr_same (by assumption) | apply State.pairTo_same (by assumption) | apply State.setRole_same (by assumption) | apply State.tellUnmirrored_same (by assumption) | apply State.unmirror_same (by assumption) | apply same_ite | split

def State.sendAck_w (g : Piece) : Bool := State.emit_w g

theorem State.sendAck_same {g : Piece} {a : State} (hg : State.sendAck_w g = false) {s : State} (h : Same g a s) :
    Same g a (State.sendAck s) := by
  simp only [State.sendAck_w] at hg
  unfold State.sendAck
  repeat' first | intro _ | with_reducible first | assumption | apply State.emit_same (by assumption)

def State.refreshReady_w (g : Piece) : Bool := (g == .fld .MIR_FN_READY) || (g == .fld .MIR_FN_MISMATCH)

theorem State.refreshReady_same {g : Piece} {a : State} (hg : State.refreshReady_w g = false) {s : State} (h : Same g a s) (x2 : _) :
    Same g a (State.refreshReady s x2) := by
  simp only [State.refreshReady_w, Bool.or_eq_false_iff] at hg
  repeat (have := hg.2; replace hg := hg.1)
  unfold State.refreshReady
  repeat' first | intro _ | ((fail_if_no_progress extract_lets +onlyGivenNames z); clear_value z) | with_reducible first | assumption | apply wr_same (by assumption) | split

def State.noteMap_w (g : Piece) : Bool := State.refreshReady_w g || State.releaseReady_w g || State.mirEvent_w g || (g == .aux .peerModel) || (g == .aux .peerDigest)

theorem State.noteMap_same {g : Piece} {a : State} (hg : State.noteMap_w g = false) {s : State} (h : Same g a s) (x2 : _) (x3 : _) (x4 : _) (x5 : _) :
    Same g a (State.noteMap s x2 x3 x4 x5) := by
  simp only [State.noteMap_w, Bool.or_eq_false_iff] at hg
  repeat (have := hg.2; replace hg := hg.1)
  unfold State.noteMap
  repeat' first | intro _ | ((fail_if_no_progress extract_lets +onlyGivenNames z); (refine same_cut (a := a) (g := g) z ?_ fun hz => ?_) <;> [subst z; clear_value z]) | with_reducible first | assumption | apply State.refreshReady_same (by assumption) | apply setAx_same (by assumption) | apply State.releaseReady_same (by assumption) | apply State.mirEvent_same (by assumption) | apply same_ite | split

def State.takeMap_w (g : Piece) : Bool := State.slotMatch_w g || State.sendMsg_w g || State.noteMap_w g

theorem State.takeMap_same {g : Piece} {a : State} (hg : State.takeMap_w g = false) {s : State} (h : Same g a s) (x2 : _) (x3 : _) (x4 : _) (x5 : _) (x6 : _) :
    Same g a (State.takeMap s x2 x3 x4 x5 x6) := by
  simp only [State.takeMap_w, Bool.or_eq_false_iff] at hg
  repeat (have := hg.2; replace hg := hg.1)
  unfold State.takeMap
  repeat' first | intro _ | ((fail_if_no_progress extract_lets +onlyGivenNames z); (refine same_cut (a := a) (g := g) z ?_ fun hz => ?_) <;> [subst z; clear_value z]) | with_reducible first | assumption | apply State.slotMatch_same (by assumption) | apply State.sendMsg_same (by assumption) | apply State.noteMap_same (by assumption) | apply same_ite | split

def State.takePointers_w (g : Piece) : Bool := State.setQp_w g || (g == .fld .QP_CQBASE_BASE) || (g == .fld .QP_SQBASE_BASE) || (g == .fld .QP_CFG_CQLOG2) || (g == .fld .QP_CFG_SQLOG2) || (g == .fld .QP_CQHEAD_INDEX) || (g == .fld .QP_SQTAIL_INDEX) || (g == .fld .QP_STAT_STATE) || (g == .fld .QP_STAT_SQHEAD) || (g == .fld .QP_CFG_FUNC) || (g == .fld .QP_CFG_ENABLE)

theorem State.takePointers_same {g : Piece} {a : State} (hg : State.takePointers_w g = false) {s : State} (h : Same g a s) (x2 : _) (x3 : _) :
    Same g a (State.takePointers s x2 x3) := by
  simp only [State.takePointers_w, Bool.or_eq_false_iff] at hg
  repeat (have := hg.2; replace hg := hg.1)
  unfold State.takePointers
  repeat' first | intro _ | ((fail_if_no_progress extract_lets +onlyGivenNames z); first | (refine same_cut (a := a) (g := g) z ?_ fun hz => ?_) <;> [subst z; clear_value z] | clear_value z) | with_reducible first | assumption | apply State.setQp_same (by assumption) | apply wr_same (by assumption)

def execPairTakeReleased_w (g : Piece) : Bool := State.setRole_w g || (g == .fld .MIR_STAT_TAKE_SEEN) || (g == .fld .MIR_STAT_PAIR)

theorem execPairTakeReleased_same {g : Piece} {a : State} (hg : execPairTakeReleased_w g = false) {s : State} (h : Same g a s) :
    SameR g a (execPairTakeReleased s) := by
  simp only [execPairTakeReleased_w, Bool.or_eq_false_iff] at hg
  repeat (have := hg.2; replace hg := hg.1)
  unfold execPairTakeReleased
  repeat' first | intro _ | ((fail_if_no_progress extract_lets +onlyGivenNames z); first | (refine same_cut (a := a) (g := g) z ?_ fun hz => ?_) <;> [subst z; clear_value z] | clear_value z) | with_reducible first | assumption | apply sameR_next | apply sameR_ite | apply State.each_same | apply wr_same (by assumption) | apply State.setRole_same (by assumption) | apply same_ite | split

def State.failover_w (g : Piece) : Bool := State.endJobSilently_w g || State.post_w g

theorem State.failover_same {g : Piece} {a : State} (hg : State.failover_w g = false) {s : State} (h : Same g a s) (x2 : _) :
    Same g a (State.failover s x2) := by
  simp only [State.failover_w, Bool.or_eq_false_iff] at hg
  repeat (have := hg.2; replace hg := hg.1)
  unfold State.failover
  repeat' first | intro _ | ((fail_if_no_progress extract_lets +onlyGivenNames z); (refine same_cut (a := a) (g := g) z ?_ fun hz => ?_) <;> [subst z; clear_value z]) | with_reducible first | assumption | apply State.endJobSilently_same (by assumption) | apply State.post_same (by assumption)

def State.pairEvent_w (g : Piece) : Bool := State.mirEvent_w g || State.post_w g

theorem State.pairEvent_same {g : Piece} {a : State} (hg : State.pairEvent_w g = false) {s : State} (h : Same g a s) (x2 : _) (x3 : _) (x4 : _) :
    Same g a (State.pairEvent s x2 x3 x4) := by
  simp only [State.pairEvent_w, Bool.or_eq_false_iff] at hg
  repeat (have := hg.2; replace hg := hg.1)
  unfold State.pairEvent
  repeat' first | intro _ | with_reducible first | assumption | apply State.each_same | apply State.mirEvent_same (by assumption) | apply State.post_same (by assumption) | split

def State.fence_w (g : Piece) : Bool := State.failover_w g || State.setRole_w g || State.pairEvent_w g || State.pairTo_w g

theorem State.fence_same {g : Piece} {a : State} (hg : State.fence_w g = false) {s : State} (h : Same g a s) :
    Same g a (State.fence s) := by
  simp only [State.fence_w, Bool.or_eq_false_iff] at hg
  repeat (have := hg.2; replace hg := hg.1)
  unfold State.fence
  repeat' first | intro _ | ((fail_if_no_progress extract_lets +onlyGivenNames z); first | (refine same_cut (a := a) (g := g) z ?_ fun hz => ?_) <;> [subst z; clear_value z] | clear_value z) | with_reducible first | assumption | apply State.each_same | apply State.failover_same (by assumption) | apply State.setRole_same (by assumption) | apply State.pairEvent_same (by assumption) | apply State.pairTo_same (by assumption) | split

def State.reserveSlot_w (g : Piece) : Bool := State.setQp_w g

theorem State.reserveSlot_same {g : Piece} {a : State} (hg : State.reserveSlot_w g = false) {s : State} (h : Same g a s) (x2 : _) :
    Same g a (State.reserveSlot s x2).2 := by
  simp only [State.reserveSlot_w] at hg
  unfold State.reserveSlot
  repeat' first | intro _ | with_reducible first | assumption | apply State.setQp_same (by assumption) | split

def State.solo_w (g : Piece) : Bool := State.mirEvent_w g || State.pairTo_w g

theorem State.solo_same {g : Piece} {a : State} (hg : State.solo_w g = false) {s : State} (h : Same g a s) (x2 : _) :
    Same g a (State.solo s x2) := by
  simp only [State.solo_w, Bool.or_eq_false_iff] at hg
  repeat (have := hg.2; replace hg := hg.1)
  unfold State.solo
  repeat' first | intro _ | with_reducible first | assumption | apply State.mirEvent_same (by assumption) | apply State.pairTo_same (by assumption)

def execAckTimeout_w (g : Piece) : Bool := State.commitJob_w g || State.solo_w g

theorem execAckTimeout_same {g : Piece} {a : State} (hg : execAckTimeout_w g = false) {s : State} (h : Same g a s) (x1 : _) :
    SameR g a (execAckTimeout x1 s) := by
  simp only [execAckTimeout_w, Bool.or_eq_false_iff] at hg
  repeat (have := hg.2; replace hg := hg.1)
  unfold execAckTimeout
  repeat' first | intro _ | with_reducible first | assumption | apply sameR_next | apply sameR_ite | apply State.commitJob_same (by assumption) | apply State.solo_same (by assumption) | apply same_ite | split

def execMirCtrlRelease_w (g : Piece) : Bool := State.order_w g || State.releaseTake_w g || (g == .fld .MIR_STAT_EXPERT)

theorem execMirCtrlRelease_same {g : Piece} {a : State} (hg : execMirCtrlRelease_w g = false) {s : State} (h : Same g a s) (x1 : _) :
    SameR g a (execMirCtrlRelease x1 s) := by
  simp only [execMirCtrlRelease_w, Bool.or_eq_false_iff] at hg
  repeat (have := hg.2; replace hg := hg.1)
  unfold execMirCtrlRelease
  repeat' first | intro _ | with_reducible first | assumption | apply sameR_next | apply State.order_same (by assumption) | apply State.when_same | apply State.releaseTake_same (by assumption) | apply wr_same (by assumption) | split

def State.sendNak_w (g : Piece) : Bool := State.emit_w g

theorem State.sendNak_same {g : Piece} {a : State} (hg : State.sendNak_w g = false) {s : State} (h : Same g a s) :
    Same g a (State.sendNak s) := by
  simp only [State.sendNak_w] at hg
  unfold State.sendNak
  repeat' first | intro _ | with_reducible first | assumption | apply State.emit_same (by assumption)

def State.syncAcked_w (g : Piece) : Bool := State.syncEnd_w g || State.refreshReady_w g || (g == .aux .syncSeq) || (g == .aux .stateWhole)

theorem State.syncAcked_same {g : Piece} {a : State} (hg : State.syncAcked_w g = false) {s : State} (h : Same g a s) (x2 : _) :
    Same g a (State.syncAcked s x2) := by
  simp only [State.syncAcked_w, Bool.or_eq_false_iff] at hg
  repeat (have := hg.2; replace hg := hg.1)
  unfold State.syncAcked
  repeat' first | intro _ | ((fail_if_no_progress extract_lets +onlyGivenNames z); clear_value z) | with_reducible first | assumption | apply State.syncEnd_same (by assumption) | apply State.each_same | apply setAx_same (by assumption) | apply State.refreshReady_same (by assumption) | apply same_ite | split

def State.commitsAcked_w (g : Piece) : Bool := State.commitJob_w g

theorem State.commitsAcked_same {g : Piece} {a : State} (hg : State.commitsAcked_w g = false) {s : State} (h : Same g a s) (x2 : _) :
    Same g a (State.commitsAcked s x2) := by
  simp only [State.commitsAcked_w] at hg
  unfold State.commitsAcked
  repeat' first | intro _ | ((fail_if_no_progress extract_lets +onlyGivenNames z); clear_value z) | with_reducible first | assumption | apply State.each_same | apply State.commitJob_same (by assumption) | split

def State.ackFlits_w (g : Piece) : Bool := State.syncAcked_w g || State.commitsAcked_w g || State.pumpFlits_w g || (g == .flits)

theorem State.ackFlits_same {g : Piece} {a : State} (hg : State.ackFlits_w g = false) {s : State} (h : Same g a s) (x2 : _) :
    Same g a (State.ackFlits s x2) := by
  simp only [State.ackFlits_w, Bool.or_eq_false_iff] at hg
  repeat (have := hg.2; replace hg := hg.1)
  unfold State.ackFlits
  repeat' first | intro _ | ((fail_if_no_progress extract_lets +onlyGivenNames z); (refine same_cut (a := a) (g := g) z ?_ fun hz => ?_) <;> [subst z; clear_value z]) | with_reducible first | assumption | apply State.syncAcked_same (by assumption) | apply State.commitsAcked_same (by assumption) | apply State.pumpFlits_same (by assumption) | fail_if_no_progress apply same_mk_flits (by assumption)

def State.receive_w (g : Piece) : Bool := State.sendNak_w g || State.ackFlits_w g || (g == .fld .MIR_CRCERR_COUNT)

theorem State.receive_same {g : Piece} {a : State} (hg : State.receive_w g = false) {s : State} (h : Same g a s) (x2 : _) (x3 : _) (hx3 : ∀ y0, Same g a y0 → Same g a (x3 y0)) :
    Same g a (State.receive s x2 x3) := by
  simp only [State.receive_w, Bool.or_eq_false_iff] at hg
  repeat (have := hg.2; replace hg := hg.1)
  unfold State.receive
  repeat' first | intro _ | with_reducible first | assumption | apply hx3 | apply State.sendNak_same (by assumption) | apply bump_same (by assumption) | apply State.ackFlits_same (by assumption) | apply same_ite | split

def execNakFlit_w (g : Piece) : Bool := State.receive_w g || State.replay_w g

theorem execNakFlit_same {g : Piece} {a : State} (hg : execNakFlit_w g = false) {s : State} (h : Same g a s) (x1 : _) :
    SameR g a (execNakFlit x1 s) := by
  simp only [execNakFlit_w, Bool.or_eq_false_iff] at hg
  repeat (have := hg.2; replace hg := hg.1)
  unfold execNakFlit
  repeat' first | intro _ | with_reducible first | assumption | apply sameR_next | apply State.receive_same (by assumption) | apply State.replay_same (by assumption)

def State.holdRegion_w (g : Piece) : Bool := State.addAlloc_w g || (g == .regions)

theorem State.holdRegion_same {g : Piece} {a : State} (hg : State.holdRegion_w g = false) {s : State} (h : Same g a s) (x2 : _) (x3 : _) (x4 : _) (x5 : _) :
    Same g a (State.holdRegion s x2 x3 x4 x5).2 := by
  simp only [State.holdRegion_w, Bool.or_eq_false_iff] at hg
  repeat (have := hg.2; replace hg := hg.1)
  unfold State.holdRegion
  repeat' first | intro _ | ((fail_if_no_progress extract_lets +onlyGivenNames z); (refine same_cut (a := a) (g := g) z ?_ fun hz => ?_) <;> [subst z; clear_value z]) | with_reducible first | assumption | apply State.addAlloc_same (by assumption) | fail_if_no_progress apply same_mk_regions (by assumption) | apply same2_ite | apply same_ite | split

def State.takeRegionBytes_w (g : Piece) : Bool := State.holdRegion_w g || State.putBytes_w g

theorem State.takeRegionBytes_same {g : Piece} {a : State} (hg : State.takeRegionBytes_w g = false) {s : State} (h : Same g a s) (x2 : _) (x3 : _) (x4 : _) :
    Same g a (State.takeRegionBytes s x2 x3 x4) := by
  simp only [State.takeRegionBytes_w, Bool.or_eq_false_iff] at hg
  repeat (have := hg.2; replace hg := hg.1)
  unfold State.takeRegionBytes
  repeat' first | intro _ | ((fail_if_no_progress extract_lets +onlyGivenNames z); (refine same_cut2 (a := a) (g := g) z ?_ fun hz => ?_) <;> [subst z; clear_value z]) | with_reducible first | assumption | apply State.holdRegion_same (by assumption) | apply State.putBytes_same (by assumption) | apply same_ite | refine same_of2 (by assumption) ?_ | split

def State.takeStart_w (g : Piece) : Bool := State.dropCopies_w g || State.syncBegin_w g || (g == .aux .stateWhole) || (g == .fld .MIR_FN_READY)

theorem State.takeStart_same {g : Piece} {a : State} (hg : State.takeStart_w g = false) {s : State} (h : Same g a s) (x2 : _) :
    Same g a (State.takeStart s x2) := by
  simp only [State.takeStart_w, Bool.or_eq_false_iff] at hg
  repeat (have := hg.2; replace hg := hg.1)
  unfold State.takeStart
  repeat' first | intro _ | ((fail_if_no_progress extract_lets +onlyGivenNames z); (refine same_cut (a := a) (g := g) z ?_ fun hz => ?_) <;> [subst z; clear_value z]) | with_reducible first | assumption | apply setAx_same (by assumption) | apply wr_same (by assumption) | apply State.dropCopies_same (by assumption) | apply State.syncBegin_same (by assumption) | apply same_ite | split

def State.takeWhole_w (g : Piece) : Bool := State.syncEnd_w g || State.refreshReady_w g || (g == .aux .stateWhole)

theorem State.takeWhole_same {g : Piece} {a : State} (hg : State.takeWhole_w g = false) {s : State} (h : Same g a s) (x2 : _) :
    Same g a (State.takeWhole s x2) := by
  simp only [State.takeWhole_w, Bool.or_eq_false_iff] at hg
  repeat (have := hg.2; replace hg := hg.1)
  unfold State.takeWhole
  repeat' first | intro _ | with_reducible first | assumption | apply State.syncEnd_same (by assumption) | apply State.refreshReady_same (by assumption) | apply setAx_same (by assumption)

def State.takeState_w (g : Piece) : Bool := State.takePointers_w g || State.putBytes_w g || State.takeRegionBytes_w g || State.takeMap_w g || State.takeStart_w g || State.takeWhole_w g || (g == .commits) || (g == .fld .FNQ_Q1_BANKS) || (g == .fld .FNQ_Q0_FEEDQ) || (g == .fld .FNQ_Q0_QP) || (g == .fld .FNQ_GRANT_SLOT) || (g == .fld .FNQ_SHARE_RT) || (g == .fld .FNQ_SHARE_POWER) || (g == .fld .FNQ_Q2_PAGES) || (g == .fld .JOB_CFG_RESTARTS) || (g == .fld .JOB_CFG_WATCHDOG)

theorem State.takeState_same {g : Piece} {a : State} (hg : State.takeState_w g = false) {s : State} (h : Same g a s) (x2 : _) (x3 : _) :
    Same g a (State.takeState s x2 x3) := by
  simp only [State.takeState_w, Bool.or_eq_false_iff] at hg
  repeat (have := hg.2; replace hg := hg.1)
  unfold State.takeState
  repeat' first | intro _ | ((fail_if_no_progress extract_lets +onlyGivenNames z); first | (refine same_cut (a := a) (g := g) z ?_ fun hz => ?_) <;> [subst z; clear_value z] | clear_value z) | with_reducible first | assumption | apply State.takePointers_same (by assumption) | apply State.putBytes_same (by assumption) | apply State.takeRegionBytes_same (by assumption) | apply wr_same (by assumption) | apply State.takeMap_same (by assumption) | apply State.takeStart_same (by assumption) | apply State.takeWhole_same (by assumption) | fail_if_no_progress apply same_mk_commits (by assumption) | split

def State.adopt_w (g : Piece) : Bool := State.setQp_w g || (g == .aux .submitCount) || (g == .jobs)

theorem State.adopt_same {g : Piece} {a : State} (hg : State.adopt_w g = false) {s : State} (h : Same g a s) (x2 : _) (x3 : _) :
    Same g a (State.adopt s x2 x3) := by
  simp only [State.adopt_w, Bool.or_eq_false_iff] at hg
  repeat (have := hg.2; replace hg := hg.1)
  unfold State.adopt
  repeat' first | intro _ | ((fail_if_no_progress extract_lets +onlyGivenNames z); first | (refine same_cut (a := a) (g := g) z ?_ fun hz => ?_) <;> [subst z; clear_value z] | clear_value z) | with_reducible first | assumption | apply State.each_same | apply State.setQp_same (by assumption) | apply setAx_same (by assumption) | fail_if_no_progress apply same_mk_jobs (by assumption) | apply same_ite | split

def State.takeJournal_w (g : Piece) : Bool := State.installProg_w g || (g == .journal) || (g == .progs)

theorem State.takeJournal_same {g : Piece} {a : State} (hg : State.takeJournal_w g = false) {s : State} (h : Same g a s) (x2 : _) (x3 : _) :
    Same g a (State.takeJournal s x2 x3) := by
  simp only [State.takeJournal_w, Bool.or_eq_false_iff] at hg
  repeat (have := hg.2; replace hg := hg.1)
  unfold State.takeJournal
  repeat' first | intro _ | with_reducible first | assumption | apply State.installProg_same (by assumption) | fail_if_no_progress apply same_mk_journal (by assumption) | fail_if_no_progress apply same_mk_progs (by assumption) | apply same_ite | split

def State.takeRegion_w (g : Piece) : Bool := State.freeUnits_w g || State.holdRegion_w g || State.sendMsg_w g || (g == .regions)

theorem State.takeRegion_same {g : Piece} {a : State} (hg : State.takeRegion_w g = false) {s : State} (h : Same g a s) (x2 : _) (x3 : _) (x4 : _) (x5 : _) (x6 : _) :
    Same g a (State.takeRegion s x2 x3 x4 x5 x6) := by
  simp only [State.takeRegion_w, Bool.or_eq_false_iff] at hg
  repeat (have := hg.2; replace hg := hg.1)
  unfold State.takeRegion
  repeat' first | intro _ | ((fail_if_no_progress extract_lets +onlyGivenNames z); (refine same_cut2 (a := a) (g := g) z ?_ fun hz => ?_) <;> [subst z; clear_value z]) | with_reducible first | assumption | apply State.freeUnits_same (by assumption) | apply State.holdRegion_same (by assumption) | apply State.sendMsg_same (by assumption) | fail_if_no_progress apply same_mk_regions (by assumption) | apply same_ite | refine same_of2 (by assumption) ?_ | split

def State.takeHandover_w (g : Piece) : Bool := State.setRole_w g || State.adopt_w g || State.dropRecords_w g

theorem State.takeHandover_same {g : Piece} {a : State} (hg : State.takeHandover_w g = false) {s : State} (h : Same g a s) (x2 : _) (x3 : _) :
    Same g a (State.takeHandover s x2 x3) := by
  simp only [State.takeHandover_w, Bool.or_eq_false_iff] at hg
  repeat (have := hg.2; replace hg := hg.1)
  unfold State.takeHandover
  repeat' first | intro _ | ((fail_if_no_progress extract_lets +onlyGivenNames z); clear_value z) | with_reducible first | assumption | apply State.each_same | apply State.setRole_same (by assumption) | apply State.adopt_same (by assumption) | apply State.dropRecords_same (by assumption) | split

def State.handoverRefused_w (g : Piece) : Bool := State.setRole_w g || State.completeCmd_w g || (g == .aux .handing)

theorem State.handoverRefused_same {g : Piece} {a : State} (hg : State.handoverRefused_w g = false) {s : State} (h : Same g a s) (x2 : _) :
    Same g a (State.handoverRefused s x2) := by
  simp only [State.handoverRefused_w, Bool.or_eq_false_iff] at hg
  repeat (have := hg.2; replace hg := hg.1)
  unfold State.handoverRefused
  repeat' first | intro _ | ((fail_if_no_progress extract_lets +onlyGivenNames z); first | (refine same_cut (a := a) (g := g) z ?_ fun hz => ?_) <;> [subst z; clear_value z] | clear_value z) | with_reducible first | assumption | apply State.each_same | apply setAx_same (by assumption) | apply State.setRole_same (by assumption) | apply State.completeCmd_same (by assumption) | apply same_ite | split

def State.takeOrder_w (g : Piece) : Bool := State.sendMsg_w g || State.superseded_w g || State.slotMatch_w g || State.takeRegion_w g || State.takeHandover_w g || State.unmirror_w g || State.handoverRefused_w g || (g == .aux .peerRole)

theorem State.takeOrder_same {g : Piece} {a : State} (hg : State.takeOrder_w g = false) {s : State} (h : Same g a s) (x2 : _) (x3 : _) :
    Same g a (State.takeOrder s x2 x3) := by
  simp only [State.takeOrder_w, Bool.or_eq_false_iff] at hg
  repeat (have := hg.2; replace hg := hg.1)
  unfold State.takeOrder
  repeat' first | intro _ | with_reducible first | assumption | apply State.sendMsg_same (by assumption) | apply State.superseded_same (by assumption) | apply State.slotMatch_same (by assumption) | apply State.takeRegion_same (by assumption) | apply State.takeHandover_same (by assumption) | apply State.unmirror_same (by assumption) | apply setAx_same (by assumption) | apply State.handoverRefused_same (by assumption) | split

def State.sendCommit_w (g : Piece) : Bool := State.reserveSlot_w g || State.updJob_w g || State.sendRecord_w g

theorem State.sendCommit_same {g : Piece} {a : State} (hg : State.sendCommit_w g = false) {s : State} (h : Same g a s) (x2 : _) (x3 : _) :
    Same g a (State.sendCommit s x2 x3) := by
  simp only [State.sendCommit_w, Bool.or_eq_false_iff] at hg
  repeat (have := hg.2; replace hg := hg.1)
  unfold State.sendCommit
  repeat' first | intro _ | ((fail_if_no_progress extract_lets +onlyGivenNames z); (refine same_cut2 (a := a) (g := g) z ?_ fun hz => ?_) <;> [subst z; clear_value z]) | with_reducible first | assumption | apply State.reserveSlot_same (by assumption) | apply State.updJob_same (by assumption) | apply State.sendRecord_same (by assumption) | refine same_of2 (by assumption) ?_

def State.commitOrMirror_w (g : Piece) : Bool := State.sendCommit_w g || State.dropStaging_w g || State.commitStaged_w g || State.commitJob_w g

theorem State.commitOrMirror_same {g : Piece} {a : State} (hg : State.commitOrMirror_w g = false) {s : State} (h : Same g a s) (x2 : _) :
    Same g a (State.commitOrMirror s x2) := by
  simp only [State.commitOrMirror_w, Bool.or_eq_false_iff] at hg
  repeat (have := hg.2; replace hg := hg.1)
  unfold State.commitOrMirror
  repeat' first | intro _ | with_reducible first | assumption | apply State.sendCommit_same (by assumption) | apply State.dropStaging_same (by assumption) | apply State.commitStaged_same (by assumption) | apply State.commitJob_same (by assumption) | apply same_ite | split

def State.receiveSeq_w (g : Piece) : Bool := State.receive_w g || State.sendAck_w g || State.sendNak_w g || (g == .aux .flitAck)

theorem State.receiveSeq_same {g : Piece} {a : State} (hg : State.receiveSeq_w g = false) {s : State} (h : Same g a s) (x2 : _) (x3 : _) (hx3 : ∀ y0, Same g a y0 → Same g a (x3 y0)) :
    Same g a (State.receiveSeq s x2 x3) := by
  simp only [State.receiveSeq_w, Bool.or_eq_false_iff] at hg
  repeat (have := hg.2; replace hg := hg.1)
  unfold State.receiveSeq
  repeat' first | intro _ | with_reducible first | assumption | apply hx3 | apply State.receive_same (by assumption) | apply State.sendAck_same (by assumption) | apply setAx_same (by assumption) | apply State.sendNak_same (by assumption) | apply same_ite | split

def execDoorbellFlit_w (g : Piece) : Bool := State.receiveSeq_w g || State.takeBell_w g

theorem execDoorbellFlit_same {g : Piece} {a : State} (hg : execDoorbellFlit_w g = false) {s : State} (h : Same g a s) (x1 : _) (x2 : _) (x3 : _) (x4 : _) (x5 : _) :
    SameR g a (execDoorbellFlit x1 x2 x3 x4 x5 s) := by
  simp only [execDoorbellFlit_w, Bool.or_eq_false_iff] at hg
  repeat (have := hg.2; replace hg := hg.1)
  unfold execDoorbellFlit
  repeat' first | intro _ | with_reducible first | assumption | apply sameR_next | apply State.receiveSeq_same (by assumption) | apply State.takeBell_same (by assumption)

def execFlitReplayTimer_w (g : Piece) : Bool := State.replay_w g

theorem execFlitReplayTimer_same {g : Piece} {a : State} (hg : execFlitReplayTimer_w g = false) {s : State} (h : Same g a s) :
    SameR g a (execFlitReplayTimer s) := by
  simp only [execFlitReplayTimer_w] at hg
  unfold execFlitReplayTimer
  repeat' first | intro _ | with_reducible first | assumption | apply sameR_next | apply sameR_ite | apply State.replay_same (by assumption) | apply same_ite | split

def State.resync_w (g : Piece) : Bool := State.syncStart_w g || (g == .fld .MIR_CTRL_RESYNC)

theorem State.resync_same {g : Piece} {a : State} (hg : State.resync_w g = false) {s : State} (h : Same g a s) :
    Same g a (State.resync s) := by
  simp only [State.resync_w, Bool.or_eq_false_iff] at hg
  repeat (have := hg.2; replace hg := hg.1)
  unfold State.resync
  repeat' first | intro _ | with_reducible first | assumption | apply State.syncStart_same (by assumption) | apply wr_same (by assumption) | apply same_ite | split

def execOrderFlit_w (g : Piece) : Bool := State.receiveSeq_w g || State.takeOrder_w g

theorem execOrderFlit_same {g : Piece} {a : State} (hg : execOrderFlit_w g = false) {s : State} (h : Same g a s) (x1 : _) (x2 : _) (x3 : _) :
    SameR g a (execOrderFlit x1 x2 x3 s) := by
  simp only [execOrderFlit_w, Bool.or_eq_false_iff] at hg
  repeat (have := hg.2; replace hg := hg.1)
  unfold execOrderFlit
  repeat' first | intro _ | with_reducible first | assumption | apply sameR_next | apply State.receiveSeq_same (by assumption) | apply State.takeOrder_same (by assumption)

def execMirCtrlResync_w (g : Piece) : Bool := State.order_w g || State.resync_w g

theorem execMirCtrlResync_same {g : Piece} {a : State} (hg : execMirCtrlResync_w g = false) {s : State} (h : Same g a s) (x1 : _) :
    SameR g a (execMirCtrlResync x1 s) := by
  simp only [execMirCtrlResync_w, Bool.or_eq_false_iff] at hg
  repeat (have := hg.2; replace hg := hg.1)
  unfold execMirCtrlResync
  repeat' first | intro _ | with_reducible first | assumption | apply sameR_next | apply State.order_same (by assumption) | apply State.when_same | apply State.resync_same (by assumption) | split

def State.mirTrained_w (g : Piece) : Bool := State.mirEvent_w g || (g == .aux .flitAck) || (g == .aux .flitSeq) || (g == .fld .MIR_STAT_WIDTH) || (g == .fld .MIR_STAT_LINK) || (g == .aux .syncDue) || (g == .aux .hbHeard) || (g == .aux .stateWhole) || (g == .fld .MIR_FN_READY)

theorem State.mirTrained_same {g : Piece} {a : State} (hg : State.mirTrained_w g = false) {s : State} (h : Same g a s) (x2 : _) :
    Same g a (State.mirTrained s x2) := by
  simp only [State.mirTrained_w, Bool.or_eq_false_iff] at hg
  repeat (have := hg.2; replace hg := hg.1)
  unfold State.mirTrained
  repeat' first | intro _ | ((fail_if_no_progress extract_lets +onlyGivenNames z); (refine same_cut (a := a) (g := g) z ?_ fun hz => ?_) <;> [subst z; clear_value z]) | with_reducible first | assumption | apply setAx_same (by assumption) | apply wr_same (by assumption) | apply State.mirEvent_same (by assumption) | apply State.each_same

def execMirrorLinkTrained_w (g : Piece) : Bool := State.mirTrained_w g || State.mirEvent_w g || (g == .fld .MIR_STAT_LINK)

theorem execMirrorLinkTrained_same {g : Piece} {a : State} (hg : execMirrorLinkTrained_w g = false) {s : State} (h : Same g a s) (x1 : _) :
    SameR g a (execMirrorLinkTrained x1 s) := by
  simp only [execMirrorLinkTrained_w, Bool.or_eq_false_iff] at hg
  repeat (have := hg.2; replace hg := hg.1)
  unfold execMirrorLinkTrained
  repeat' first | intro _ | with_reducible first | assumption | apply sameR_next | apply sameR_ite | apply State.mirTrained_same (by assumption) | apply State.mirEvent_same (by assumption) | apply wr_same (by assumption) | apply same_ite | split

def State.sendHeartbeat_w (g : Piece) : Bool := State.emit_w g

theorem State.sendHeartbeat_same {g : Piece} {a : State} (hg : State.sendHeartbeat_w g = false) {s : State} (h : Same g a s) :
    Same g a (State.sendHeartbeat s) := by
  simp only [State.sendHeartbeat_w] at hg
  unfold State.sendHeartbeat
  repeat' first | intro _ | with_reducible first | assumption | apply State.emit_same (by assumption)

def State.sampleTake_w (g : Piece) : Bool := State.fence_w g || (g == .aux .rankWait) || (g == .aux .guardAt) || (g == .fld .MIR_TAKES_COUNT) || (g == .fld .MIR_STAT_TAKE_DRIVE)

theorem State.sampleTake_same {g : Piece} {a : State} (hg : State.sampleTake_w g = false) {s : State} (h : Same g a s) :
    Same g a (State.sampleTake s) := by
  simp only [State.sampleTake_w, Bool.or_eq_false_iff] at hg
  repeat (have := hg.2; replace hg := hg.1)
  unfold State.sampleTake
  repeat' first | intro _ | ((fail_if_no_progress extract_lets +onlyGivenNames z); (refine same_cut (a := a) (g := g) z ?_ fun hz => ?_) <;> [subst z; clear_value z]) | with_reducible first | assumption | apply setAx_same (by assumption) | apply State.fence_same (by assumption) | apply bump_same (by assumption) | apply wr_same (by assumption) | apply same_ite | split

def execHeartbeatTimeout_w (g : Piece) : Bool := State.mirDown_w g || State.sampleTake_w g || (g == .aux .hbTimer) || (g == .aux .rankWait)

theorem execHeartbeatTimeout_same {g : Piece} {a : State} (hg : execHeartbeatTimeout_w g = false) {s : State} (h : Same g a s) :
    SameR g a (execHeartbeatTimeout s) := by
  simp only [execHeartbeatTimeout_w, Bool.or_eq_false_iff] at hg
  repeat (have := hg.2; replace hg := hg.1)
  unfold execHeartbeatTimeout
  repeat' first | intro _ | ((fail_if_no_progress extract_lets +onlyGivenNames z); (refine same_cut (a := a) (g := g) z ?_ fun hz => ?_) <;> [subst z; clear_value z]) | with_reducible first | assumption | apply sameR_next | apply sameR_ite | apply State.mirDown_same (by assumption) | apply setAx_same (by assumption) | apply State.sampleTake_same (by assumption) | apply same_ite | split

def execJournalFlit_w (g : Piece) : Bool := State.receiveSeq_w g || State.takeJournal_w g

theorem execJournalFlit_same {g : Piece} {a : State} (hg : execJournalFlit_w g = false) {s : State} (h : Same g a s) (x1 : _) (x2 : _) (x3 : _) :
    SameR g a (execJournalFlit x1 x2 x3 s) := by
  simp only [execJournalFlit_w, Bool.or_eq_false_iff] at hg
  repeat (have := hg.2; replace hg := hg.1)
  unfold execJournalFlit
  repeat' first | intro _ | with_reducible first | assumption | apply sameR_next | apply sameR_ite | apply State.receiveSeq_same (by assumption) | apply State.takeJournal_same (by assumption) | apply same_ite | split

def State.handover_w (g : Piece) : Bool := State.completeCmd_w g || State.cmdRunning_w g || State.backToQueue_w g || (g == .aux .handing)

theorem State.handover_same {g : Piece} {a : State} (hg : State.handover_w g = false) {s : State} (h : Same g a s) (x2 : _) :
    Same g a (State.handover s x2) := by
  simp only [State.handover_w, Bool.or_eq_false_iff] at hg
  repeat (have := hg.2; replace hg := hg.1)
  unfold State.handover
  repeat' first | intro _ | ((fail_if_no_progress extract_lets +onlyGivenNames z); clear_value z) | with_reducible first | assumption | apply State.completeCmd_same (by assumption) | apply State.cmdRunning_same (by assumption) | apply State.each_same | apply State.backToQueue_same (by assumption) | apply setAx_same (by assumption) | apply same_ite | split

def execTakeoverRankWaitEnd_w (g : Piece) : Bool := State.sampleTake_w g

theorem execTakeoverRankWaitEnd_same {g : Piece} {a : State} (hg : execTakeoverRankWaitEnd_w g = false) {s : State} (h : Same g a s) :
    SameR g a (execTakeoverRankWaitEnd s) := by
  simp only [execTakeoverRankWaitEnd_w] at hg
  unfold execTakeoverRankWaitEnd
  repeat' first | intro _ | with_reducible first | assumption | apply sameR_next | apply sameR_ite | apply State.sampleTake_same (by assumption) | apply same_ite | split

def execMirCfgEnableWrite_w (g : Piece) : Bool := State.order_w g || State.mirEnable_w g

theorem execMirCfgEnableWrite_same {g : Piece} {a : State} (hg : execMirCfgEnableWrite_w g = false) {s : State} (h : Same g a s) (x1 : _) :
    SameR g a (execMirCfgEnableWrite x1 s) := by
  simp only [execMirCfgEnableWrite_w, Bool.or_eq_false_iff] at hg
  repeat (have := hg.2; replace hg := hg.1)
  unfold execMirCfgEnableWrite
  repeat' first | intro _ | with_reducible first | assumption | apply sameR_next | apply State.order_same (by assumption) | apply State.mirEnable_same (by assumption)

def State.handoverStep_w (g : Piece) : Bool := State.sendMsg_w g || State.setRole_w g || (g == .aux .handing)

theorem State.handoverStep_same {g : Piece} {a : State} (hg : State.handoverStep_w g = false) {s : State} (h : Same g a s) :
    Same g a (State.handoverStep s) := by
  simp only [State.handoverStep_w, Bool.or_eq_false_iff] at hg
  repeat (have := hg.2; replace hg := hg.1)
  unfold State.handoverStep
  repeat' first | intro _ | ((fail_if_no_progress extract_lets +onlyGivenNames z); clear_value z) | with_reducible first | assumption | apply State.each_same | apply State.sendMsg_same (by assumption) | apply setAx_same (by assumption) | apply State.setRole_same (by assumption) | apply same_ite | split

def State.writeCommits_w (g : Piece) : Bool := State.setQp_w g || (g == .mem) || (g == .devMem)

theorem State.writeCommits_same {g : Piece} {a : State} (hg : State.writeCommits_w g = false) {s : State} (h : Same g a s) (x2 : _) :
    Same g a (State.writeCommits s x2) := by
  simp only [State.writeCommits_w, Bool.or_eq_false_iff] at hg
  repeat (have := hg.2; replace hg := hg.1)
  unfold State.writeCommits
  repeat' first | intro _ | with_reducible first | assumption | apply State.each_same | apply State.setQp_same (by assumption) | apply store_same (by assumption) (by assumption) | fail_if_no_progress apply same_mk_mem (by assumption) (by assumption) | split

def execStateFlit_w (g : Piece) : Bool := State.receiveSeq_w g || State.takeState_w g || State.noteMap_w g

theorem execStateFlit_same {g : Piece} {a : State} (hg : execStateFlit_w g = false) {s : State} (h : Same g a s) (x1 : _) (x2 : _) (x3 : _) :
    SameR g a (execStateFlit x1 x2 x3 s) := by
  simp only [execStateFlit_w, Bool.or_eq_false_iff] at hg
  repeat (have := hg.2; replace hg := hg.1)
  unfold execStateFlit
  repeat' first | intro _ | with_reducible first | assumption | apply sameR_next | apply sameR_ite | apply State.receiveSeq_same (by assumption) | apply State.takeState_same (by assumption) | apply State.noteMap_same (by assumption) | apply same_ite | split

def execHeartbeatFlit_w (g : Piece) : Bool := State.receive_w g || State.heartbeat_w g || (g == .fld .MIR_EPOCH_EPOCH)

theorem execHeartbeatFlit_same {g : Piece} {a : State} (hg : execHeartbeatFlit_w g = false) {s : State} (h : Same g a s) (x1 : _) (x2 : _) (x3 : _) (x4 : _) (x5 : _) :
    SameR g a (execHeartbeatFlit x1 x2 x3 x4 x5 s) := by
  simp only [execHeartbeatFlit_w, Bool.or_eq_false_iff] at hg
  repeat (have := hg.2; replace hg := hg.1)
  unfold execHeartbeatFlit
  repeat' first | intro _ | with_reducible first | assumption | apply sameR_next | apply State.receive_same (by assumption) | apply State.heartbeat_same (by assumption) | apply wr_same (by assumption)

def State.mirHandback_w (g : Piece) : Bool := (g == .fld .MIR_STAT_EXPERT) || (g == .fld .MIR_CFG_ACK_MAX) || (g == .fld .MIR_CFG_AUTO_TAKE)

theorem State.mirHandback_same {g : Piece} {a : State} (hg : State.mirHandback_w g = false) {s : State} (h : Same g a s) :
    Same g a (State.mirHandback s) := by
  simp only [State.mirHandback_w, Bool.or_eq_false_iff] at hg
  repeat (have := hg.2; replace hg := hg.1)
  unfold State.mirHandback
  repeat' first | intro _ | with_reducible first | assumption | apply wr_same (by assumption)

def execMirCfgHandback_w (g : Piece) : Bool := State.order_w g || State.mirHandback_w g

theorem execMirCfgHandback_same {g : Piece} {a : State} (hg : execMirCfgHandback_w g = false) {s : State} (h : Same g a s) (x1 : _) :
    SameR g a (execMirCfgHandback x1 s) := by
  simp only [execMirCfgHandback_w, Bool.or_eq_false_iff] at hg
  repeat (have := hg.2; replace hg := hg.1)
  unfold execMirCfgHandback
  repeat' first | intro _ | with_reducible first | assumption | apply sameR_next | apply State.order_same (by assumption) | apply State.when_same | apply State.mirHandback_same (by assumption) | split

def State.takeOver_w (g : Piece) : Bool := State.setRole_w g || State.writeCommits_w g || State.adopt_w g || State.dropRecords_w g || State.solo_w g || State.pairEvent_w g || (g == .aux .taken) || (g == .fld .MIR_EPOCH_EPOCH)

theorem State.takeOver_same {g : Piece} {a : State} (hg : State.takeOver_w g = false) {s : State} (h : Same g a s) :
    Same g a (State.takeOver s) := by
  simp only [State.takeOver_w, Bool.or_eq_false_iff] at hg
  repeat (have := hg.2; replace hg := hg.1)
  unfold State.takeOver
  repeat' first | intro _ | ((fail_if_no_progress extract_lets +onlyGivenNames z); first | (refine same_cut (a := a) (g := g) z ?_ fun hz => ?_) <;> [subst z; clear_value z] | clear_value z) | with_reducible first | assumption | apply State.each_same | apply setAx_same (by assumption) | apply State.setRole_same (by assumption) | apply State.writeCommits_same (by assumption) | apply State.adopt_same (by assumption) | apply State.dropRecords_same (by assumption) | apply wr_same (by assumption) | apply State.solo_same (by assumption) | apply State.pairEvent_same (by assumption)

def execAckFlit_w (g : Piece) : Bool := State.receive_w g

theorem execAckFlit_same {g : Piece} {a : State} (hg : execAckFlit_w g = false) {s : State} (h : Same g a s) (x1 : _) :
    SameR g a (execAckFlit x1 s) := by
  simp only [execAckFlit_w] at hg
  unfold execAckFlit
  repeat' first | intro _ | with_reducible first | assumption | apply sameR_next | apply State.receive_same (by assumption) | apply same_id

def execMirFnMirroredWrite_w (g : Piece) : Bool := State.order_w g || State.setMirrored_w g

theorem execMirFnMirroredWrite_same {g : Piece} {a : State} (hg : execMirFnMirroredWrite_w g = false) {s : State} (h : Same g a s) (x1 : _) (x2 : _) :
    SameR g a (execMirFnMirroredWrite x1 x2 s) := by
  simp only [execMirFnMirroredWrite_w, Bool.or_eq_false_iff] at hg
  repeat (have := hg.2; replace hg := hg.1)
  unfold execMirFnMirroredWrite
  repeat' first | intro _ | with_reducible first | assumption | apply sameR_next | apply State.order_same (by assumption) | apply State.setMirrored_same (by assumption)

def execPairTakeSeen_w (g : Piece) : Bool := State.fence_w g || (g == .fld .MIR_STAT_TAKE_SEEN)

theorem execPairTakeSeen_same {g : Piece} {a : State} (hg : execPairTakeSeen_w g = false) {s : State} (h : Same g a s) :
    SameR g a (execPairTakeSeen s) := by
  simp only [execPairTakeSeen_w, Bool.or_eq_false_iff] at hg
  repeat (have := hg.2; replace hg := hg.1)
  unfold execPairTakeSeen
  repeat' first | intro _ | with_reducible first | assumption | apply sameR_next | apply sameR_ite | apply State.fence_same (by assumption) | apply wr_same (by assumption) | apply same_ite | split

def execTakeoverGuardEnd_w (g : Piece) : Bool := State.takeOver_w g || (g == .aux .guardAt)

theorem execTakeoverGuardEnd_same {g : Piece} {a : State} (hg : execTakeoverGuardEnd_w g = false) {s : State} (h : Same g a s) :
    SameR g a (execTakeoverGuardEnd s) := by
  simp only [execTakeoverGuardEnd_w, Bool.or_eq_false_iff] at hg
  repeat (have := hg.2; replace hg := hg.1)
  unfold execTakeoverGuardEnd
  repeat' first | intro _ | with_reducible first | assumption | apply sameR_next | apply sameR_ite | apply State.takeOver_same (by assumption) | apply setAx_same (by assumption) | apply same_ite | split

def execPairHandover_w (g : Piece) : Bool := State.handover_w g

theorem execPairHandover_same {g : Piece} {a : State} (hg : execPairHandover_w g = false) {s : State} (h : Same g a s) (x1 : _) :
    SameR g a (execPairHandover x1 s) := by
  simp only [execPairHandover_w] at hg
  unfold execPairHandover
  repeat' first | intro _ | with_reducible first | assumption | apply sameR_next | apply State.runCmd_same | apply State.handover_same (by assumption)

def execHeartbeatSend_w (g : Piece) : Bool := State.sendHeartbeat_w g || State.handoverStep_w g || (g == .aux .hbSeen) || (g == .fld .MIR_HBMISS_COUNT)

theorem execHeartbeatSend_same {g : Piece} {a : State} (hg : execHeartbeatSend_w g = false) {s : State} (h : Same g a s) :
    SameR g a (execHeartbeatSend s) := by
  simp only [execHeartbeatSend_w, Bool.or_eq_false_iff] at hg
  repeat (have := hg.2; replace hg := hg.1)
  unfold execHeartbeatSend
  repeat' first | intro _ | ((fail_if_no_progress extract_lets +onlyGivenNames z); (refine same_cut (a := a) (g := g) z ?_ fun hz => ?_) <;> [subst z; clear_value z]) | with_reducible first | assumption | apply sameR_next | apply sameR_ite | apply setAx_same (by assumption) | apply bump_same (by assumption) | apply State.sendHeartbeat_same (by assumption) | apply State.handoverStep_same (by assumption) | apply same_ite | split

end Sys2Proof.Machine
end

