-- ==== Sys2Proof/Laws/SameSeq.lean ====
section
/-!
SUPPORT. Laws/SameSeq.lean: what the operations of Machine/Seq.lean may change, and that they leave the rest alone.
-/

set_option linter.unusedTactic false
set_option linter.unusedSimpArgs false
set_option linter.unusedVariables false
set_option linter.tactic.unusedName false
set_option linter.unreachableTactic false

namespace Sys2Proof.Machine

def State.accessFault_w (g : Piece) : Bool := State.trapAt_w g || State.countDenied_w g

theorem State.accessFault_same {g : Piece} {a : State} (hg : State.accessFault_w g = false) {s : State} (h : Same g a s) (x2 : _) (x3 : _) (x4 : _) (x5 : _) :
    Same g a (State.accessFault s x2 x3 x4 x5) := by
  simp only [State.accessFault_w, Bool.or_eq_false_iff] at hg
  repeat (have := hg.2; replace hg := hg.1)
  unfold State.accessFault
  repeat' first | intro _ | with_reducible first | assumption | apply State.trapAt_same (by assumption) | apply State.countDenied_same (by assumption)

def State.taskWrite_w (g : Piece) : Bool := State.jobWrite_w g || State.trapAt_w g || State.retire_w g

theorem State.taskWrite_same {g : Piece} {a : State} (hg : State.taskWrite_w g = false) {s : State} (h : Same g a s) (x2 : _) (x3 : _) (x4 : _) (x5 : _) (x6 : _) :
    Same g a (State.taskWrite s x2 x3 x4 x5 x6) := by
  simp only [State.taskWrite_w, Bool.or_eq_false_iff] at hg
  repeat (have := hg.2; replace hg := hg.1)
  unfold State.taskWrite
  repeat' first | intro _ | with_reducible first | assumption | apply State.jobWrite_same (by assumption) | apply State.trapAt_same (by assumption) | apply State.retire_same (by assumption) | refine same_ofE (by assumption) ?_ | split

def State.tdStore_w (g : Piece) : Bool := State.accessFault_w g || State.taskWrite_w g

theorem State.tdStore_same {g : Piece} {a : State} (hg : State.tdStore_w g = false) {s : State} (h : Same g a s) (x2 : _) :
    Same g a (State.tdStore s x2) := by
  simp only [State.tdStore_w, Bool.or_eq_false_iff] at hg
  repeat (have := hg.2; replace hg := hg.1)
  unfold State.tdStore
  repeat' first | intro _ | ((fail_if_no_progress extract_lets +onlyGivenNames z); clear_value z) | with_reducible first | assumption | apply State.accessFault_same (by assumption) | apply State.taskWrite_same (by assumption) | apply same_id | apply same_ite | split

def execTdst_w (g : Piece) : Bool := State.issue_w g || State.tdStore_w g

theorem execTdst_same {g : Piece} {a : State} (hg : execTdst_w g = false) {s : State} (h : Same g a s) (x1 : _) :
    SameR g a (execTdst x1 s) := by
  simp only [execTdst_w, Bool.or_eq_false_iff] at hg
  repeat (have := hg.2; replace hg := hg.1)
  unfold execTdst
  repeat' first | intro _ | with_reducible first | assumption | apply sameR_next | apply State.issue_same (by assumption) | apply State.tdStore_same (by assumption)

def State.signalInsn_w (g : Piece) : Bool := State.accessFault_w g || State.setWait_w g || State.reading_w g || State.taskWrite_w g

theorem State.signalInsn_same {g : Piece} {a : State} (hg : State.signalInsn_w g = false) {s : State} (h : Same g a s) (x2 : _) (x3 : _) :
    Same g a (State.signalInsn s x2 x3) := by
  simp only [State.signalInsn_w, Bool.or_eq_false_iff] at hg
  repeat (have := hg.2; replace hg := hg.1)
  unfold State.signalInsn
  repeat' first | intro _ | ((fail_if_no_progress extract_lets +onlyGivenNames z); clear_value z) | with_reducible first | assumption | apply State.accessFault_same (by assumption) | apply State.setWait_same (by assumption) | apply State.reading_same (by assumption) | apply State.taskWrite_same (by assumption) | apply same_ite | split

def execSignalSet_w (g : Piece) : Bool := State.issue_w g || State.signalInsn_w g

theorem execSignalSet_same {g : Piece} {a : State} (hg : execSignalSet_w g = false) {s : State} (h : Same g a s) (x1 : _) :
    SameR g a (execSignalSet x1 s) := by
  simp only [execSignalSet_w, Bool.or_eq_false_iff] at hg
  repeat (have := hg.2; replace hg := hg.1)
  unfold execSignalSet
  repeat' first | intro _ | with_reducible first | assumption | apply sameR_next | apply State.issue_same (by assumption) | apply State.signalInsn_same (by assumption)

def execTdcpy_w (g : Piece) : Bool := State.issue_w g || State.retire_w g

theorem execTdcpy_same {g : Piece} {a : State} (hg : execTdcpy_w g = false) {s : State} (h : Same g a s) (x1 : _) :
    SameR g a (execTdcpy x1 s) := by
  simp only [execTdcpy_w, Bool.or_eq_false_iff] at hg
  repeat (have := hg.2; replace hg := hg.1)
  unfold execTdcpy
  repeat' first | intro _ | with_reducible first | assumption | apply sameR_next | apply State.issue_same (by assumption) | apply State.retire_same (by assumption)

def State.beginCommit_w (g : Piece) : Bool := State.updJob_w g || State.setWait_w g

theorem State.beginCommit_same {g : Piece} {a : State} (hg : State.beginCommit_w g = false) {s : State} (h : Same g a s) (x2 : _) :
    Same g a (State.beginCommit s x2) := by
  simp only [State.beginCommit_w, Bool.or_eq_false_iff] at hg
  repeat (have := hg.2; replace hg := hg.1)
  unfold State.beginCommit
  repeat' first | intro _ | ((fail_if_no_progress extract_lets +onlyGivenNames z); (refine same_cut (a := a) (g := g) z ?_ fun hz => ?_) <;> [subst z; clear_value z]) | with_reducible first | assumption | apply State.updJob_same (by assumption) | apply State.each_same | apply State.setWait_same (by assumption) | split

def State.haltInsn_w (g : Piece) : Bool := State.setWait_w g || State.retire_w g || State.beginCommit_w g

theorem State.haltInsn_same {g : Piece} {a : State} (hg : State.haltInsn_w g = false) {s : State} (h : Same g a s) (x2 : _) :
    Same g a (State.haltInsn s x2) := by
  simp only [State.haltInsn_w, Bool.or_eq_false_iff] at hg
  repeat (have := hg.2; replace hg := hg.1)
  unfold State.haltInsn
  repeat' first | intro _ | ((fail_if_no_progress extract_lets +onlyGivenNames z); (refine same_cut (a := a) (g := g) z ?_ fun hz => ?_) <;> [subst z; clear_value z]) | with_reducible first | assumption | apply State.setWait_same (by assumption) | apply State.retire_same (by assumption) | apply State.beginCommit_same (by assumption) | apply same_id | apply same_ite | split

def execHalt_w (g : Piece) : Bool := State.issue_w g || State.haltInsn_w g

theorem execHalt_same {g : Piece} {a : State} (hg : execHalt_w g = false) {s : State} (h : Same g a s) (x1 : _) :
    SameR g a (execHalt x1 s) := by
  simp only [execHalt_w, Bool.or_eq_false_iff] at hg
  repeat (have := hg.2; replace hg := hg.1)
  unfold execHalt
  repeat' first | intro _ | with_reducible first | assumption | apply sameR_next | apply State.issue_same (by assumption) | apply State.haltInsn_same (by assumption)

def State.endlInsn_w (g : Piece) : Bool := State.trapAt_w g || State.jump_w g || State.retire_w g

theorem State.endlInsn_same {g : Piece} {a : State} (hg : State.endlInsn_w g = false) {s : State} (h : Same g a s) (x2 : _) :
    Same g a (State.endlInsn s x2) := by
  simp only [State.endlInsn_w, Bool.or_eq_false_iff] at hg
  repeat (have := hg.2; replace hg := hg.1)
  unfold State.endlInsn
  repeat' first | intro _ | with_reducible first | assumption | apply State.trapAt_same (by assumption) | apply State.jump_same (by assumption) | apply State.retire_same (by assumption) | apply same_ite | split

def State.barRelease_w (g : Piece) : Bool := State.updTask_w g || State.setWait_w g

theorem State.barRelease_same {g : Piece} {a : State} (hg : State.barRelease_w g = false) {s : State} (h : Same g a s) (x2 : _) :
    Same g a (State.barRelease s x2) := by
  simp only [State.barRelease_w, Bool.or_eq_false_iff] at hg
  repeat (have := hg.2; replace hg := hg.1)
  unfold State.barRelease
  repeat' first | intro _ | ((fail_if_no_progress extract_lets +onlyGivenNames z); clear_value z) | with_reducible first | assumption | apply State.each_same | apply State.updTask_same (by assumption) | apply State.setWait_same (by assumption) | apply same_ite | split

def execBarRelease_w (g : Piece) : Bool := State.barRelease_w g

theorem execBarRelease_same {g : Piece} {a : State} (hg : execBarRelease_w g = false) {s : State} (h : Same g a s) (x1 : _) :
    SameR g a (execBarRelease x1 s) := by
  simp only [execBarRelease_w] at hg
  unfold execBarRelease
  repeat' first | intro _ | with_reducible first | assumption | apply sameR_next | apply State.barRelease_same (by assumption)

def execSignalMaxu_w (g : Piece) : Bool := State.issue_w g || State.signalInsn_w g

theorem execSignalMaxu_same {g : Piece} {a : State} (hg : execSignalMaxu_w g = false) {s : State} (h : Same g a s) (x1 : _) :
    SameR g a (execSignalMaxu x1 s) := by
  simp only [execSignalMaxu_w, Bool.or_eq_false_iff] at hg
  repeat (have := hg.2; replace hg := hg.1)
  unfold execSignalMaxu
  repeat' first | intro _ | with_reducible first | assumption | apply sameR_next | apply State.issue_same (by assumption) | apply State.signalInsn_same (by assumption)

def State.seqRefused_w (g : Piece) : Bool := (g == .fld .SEQ_STAT_REFUSED)

theorem State.seqRefused_same {g : Piece} {a : State} (hg : State.seqRefused_w g = false) {s : State} (h : Same g a s) (x2 : _) :
    Same g a (State.seqRefused s x2) := by
  simp only [State.seqRefused_w] at hg
  unfold State.seqRefused
  repeat' first | intro _ | with_reducible first | assumption | apply wr_same (by assumption)

def State.seqReserve_w (g : Piece) : Bool := State.seqRefused_w g || (g == .fld .SEQ_CFG_RESERVE0)

theorem State.seqReserve_same {g : Piece} {a : State} (hg : State.seqReserve_w g = false) {s : State} (h : Same g a s) (x2 : _) (x3 : _) :
    Same g a (State.seqReserve s x2 x3) := by
  simp only [State.seqReserve_w, Bool.or_eq_false_iff] at hg
  repeat (have := hg.2; replace hg := hg.1)
  unfold State.seqReserve
  repeat' first | intro _ | with_reducible first | assumption | apply State.seqRefused_same (by assumption) | apply wr_same (by assumption) | apply same_ite | split

def State.loadInsn_w (g : Piece) : Bool := State.reading_w g || State.retire_w g

theorem State.loadInsn_same {g : Piece} {a : State} (hg : State.loadInsn_w g = false) {s : State} (h : Same g a s) (x2 : _) :
    Same g a (State.loadInsn s x2) := by
  simp only [State.loadInsn_w, Bool.or_eq_false_iff] at hg
  repeat (have := hg.2; replace hg := hg.1)
  unfold State.loadInsn
  repeat' first | intro _ | ((fail_if_no_progress extract_lets +onlyGivenNames z); clear_value z) | with_reducible first | assumption | apply State.reading_same (by assumption) | apply State.retire_same (by assumption) | apply same_ite | split

def execLoad_w (g : Piece) : Bool := State.issue_w g || State.loadInsn_w g

theorem execLoad_same {g : Piece} {a : State} (hg : execLoad_w g = false) {s : State} (h : Same g a s) (x1 : _) :
    SameR g a (execLoad x1 s) := by
  simp only [execLoad_w, Bool.or_eq_false_iff] at hg
  repeat (have := hg.2; replace hg := hg.1)
  unfold execLoad
  repeat' first | intro _ | with_reducible first | assumption | apply sameR_next | apply State.issue_same (by assumption) | apply State.loadInsn_same (by assumption)

def execSeqCfgWrite_w (g : Piece) : Bool := State.order_w g || State.seqReserve_w g

theorem execSeqCfgWrite_same {g : Piece} {a : State} (hg : execSeqCfgWrite_w g = false) {s : State} (h : Same g a s) (x1 : _) (x2 : _) :
    SameR g a (execSeqCfgWrite x1 x2 s) := by
  simp only [execSeqCfgWrite_w, Bool.or_eq_false_iff] at hg
  repeat (have := hg.2; replace hg := hg.1)
  unfold execSeqCfgWrite
  repeat' first | intro _ | with_reducible first | assumption | apply sameR_next | apply sameR_ite | apply State.order_same (by assumption) | apply State.seqReserve_same (by assumption) | apply same_ite | split

def State.cpostInsn_w (g : Piece) : Bool := State.retire_w g || State.updJob_w g || State.beginCommit_w g

theorem State.cpostInsn_same {g : Piece} {a : State} (hg : State.cpostInsn_w g = false) {s : State} (h : Same g a s) (x2 : _) :
    Same g a (State.cpostInsn s x2) := by
  simp only [State.cpostInsn_w, Bool.or_eq_false_iff] at hg
  repeat (have := hg.2; replace hg := hg.1)
  unfold State.cpostInsn
  repeat' first | intro _ | ((fail_if_no_progress extract_lets +onlyGivenNames z); first | (refine same_cut (a := a) (g := g) z ?_ fun hz => ?_) <;> [subst z; clear_value z] | clear_value z) | with_reducible first | assumption | apply State.retire_same (by assumption) | apply State.updJob_same (by assumption) | apply State.beginCommit_same (by assumption) | apply same_id | apply same_ite | split

def execCpost_w (g : Piece) : Bool := State.issue_w g || State.cpostInsn_w g

theorem execCpost_same {g : Piece} {a : State} (hg : execCpost_w g = false) {s : State} (h : Same g a s) (x1 : _) :
    SameR g a (execCpost x1 s) := by
  simp only [execCpost_w, Bool.or_eq_false_iff] at hg
  repeat (have := hg.2; replace hg := hg.1)
  unfold execCpost
  repeat' first | intro _ | with_reducible first | assumption | apply sameR_next | apply State.issue_same (by assumption) | apply State.cpostInsn_same (by assumption)

def execCmpi_w (g : Piece) : Bool := State.issue_w g || State.retire_w g

theorem execCmpi_same {g : Piece} {a : State} (hg : execCmpi_w g = false) {s : State} (h : Same g a s) (x1 : _) :
    SameR g a (execCmpi x1 s) := by
  simp only [execCmpi_w, Bool.or_eq_false_iff] at hg
  repeat (have := hg.2; replace hg := hg.1)
  unfold execCmpi
  repeat' first | intro _ | with_reducible first | assumption | apply sameR_next | apply State.issue_same (by assumption) | apply State.retire_same (by assumption)

def State.scldInsn_w (g : Piece) : Bool := State.trapAt_w g || State.reading_w g || State.retire_w g || State.keepTracker_w g

theorem State.scldInsn_same {g : Piece} {a : State} (hg : State.scldInsn_w g = false) {s : State} (h : Same g a s) (x2 : _) :
    Same g a (State.scldInsn s x2) := by
  simp only [State.scldInsn_w, Bool.or_eq_false_iff] at hg
  repeat (have := hg.2; replace hg := hg.1)
  unfold State.scldInsn
  repeat' first | intro _ | ((fail_if_no_progress extract_lets +onlyGivenNames z); first | (refine same_cut (a := a) (g := g) z ?_ fun hz => ?_) <;> [subst z; clear_value z] | (refine same_fn z ?_; subst z; beta_reduce) | clear_value z) | with_reducible first | assumption | apply State.trapAt_same (by assumption) | apply State.reading_same (by assumption) | apply State.retire_same (by assumption) | apply State.keepTracker_same (by assumption) | apply same_ite | split

def execScldE_w (g : Piece) : Bool := State.issue_w g || State.scldInsn_w g

theorem execScldE_same {g : Piece} {a : State} (hg : execScldE_w g = false) {s : State} (h : Same g a s) (x1 : _) :
    SameR g a (execScldE x1 s) := by
  simp only [execScldE_w, Bool.or_eq_false_iff] at hg
  repeat (have := hg.2; replace hg := hg.1)
  unfold execScldE
  repeat' first | intro _ | with_reducible first | assumption | apply sameR_next | apply State.issue_same (by assumption) | apply State.scldInsn_same (by assumption)

def State.memWait_w (g : Piece) : Bool := State.reading_w g || State.retire_w g || State.setWait_w g

theorem State.memWait_same {g : Piece} {a : State} (hg : State.memWait_w g = false) {s : State} (h : Same g a s) (x2 : _) (x3 : _) :
    Same g a (State.memWait s x2 x3) := by
  simp only [State.memWait_w, Bool.or_eq_false_iff] at hg
  repeat (have := hg.2; replace hg := hg.1)
  unfold State.memWait
  repeat' first | intro _ | ((fail_if_no_progress extract_lets +onlyGivenNames z); clear_value z) | with_reducible first | assumption | apply State.reading_same (by assumption) | apply State.retire_same (by assumption) | apply State.setWait_same (by assumption) | apply same_id | apply same_ite | split

def execWaitGeu_w (g : Piece) : Bool := State.issue_w g || State.memWait_w g

theorem execWaitGeu_same {g : Piece} {a : State} (hg : execWaitGeu_w g = false) {s : State} (h : Same g a s) (x1 : _) :
    SameR g a (execWaitGeu x1 s) := by
  simp only [execWaitGeu_w, Bool.or_eq_false_iff] at hg
  repeat (have := hg.2; replace hg := hg.1)
  unfold execWaitGeu
  repeat' first | intro _ | with_reducible first | assumption | apply sameR_next | apply State.issue_same (by assumption) | apply State.memWait_same (by assumption)

def State.waitInsn_w (g : Piece) : Bool := State.retire_w g || State.trapAt_w g || State.setWait_w g

theorem State.waitInsn_same {g : Piece} {a : State} (hg : State.waitInsn_w g = false) {s : State} (h : Same g a s) (x2 : _) (x3 : _) :
    Same g a (State.waitInsn s x2 x3) := by
  simp only [State.waitInsn_w, Bool.or_eq_false_iff] at hg
  repeat (have := hg.2; replace hg := hg.1)
  unfold State.waitInsn
  repeat' first | intro _ | ((fail_if_no_progress extract_lets +onlyGivenNames z); clear_value z) | with_reducible first | assumption | apply State.retire_same (by assumption) | apply State.trapAt_same (by assumption) | apply State.setWait_same (by assumption) | apply same_ite | split

def execSwait_w (g : Piece) : Bool := State.issue_w g || State.waitInsn_w g

theorem execSwait_same {g : Piece} {a : State} (hg : execSwait_w g = false) {s : State} (h : Same g a s) (x1 : _) :
    SameR g a (execSwait x1 s) := by
  simp only [execSwait_w, Bool.or_eq_false_iff] at hg
  repeat (have := hg.2; replace hg := hg.1)
  unfold execSwait
  repeat' first | intro _ | with_reducible first | assumption | apply sameR_next | apply State.issue_same (by assumption) | apply State.waitInsn_same (by assumption)

def State.checkedJump_w (g : Piece) : Bool := State.jump_w g || State.trapAt_w g

theorem State.checkedJump_same {g : Piece} {a : State} (hg : State.checkedJump_w g = false) {s : State} (h : Same g a s) (x2 : _) (x3 : _) (x4 : _) :
    Same g a (State.checkedJump s x2 x3 x4) := by
  simp only [State.checkedJump_w, Bool.or_eq_false_iff] at hg
  repeat (have := hg.2; replace hg := hg.1)
  unfold State.checkedJump
  repeat' first | intro _ | with_reducible first | assumption | apply State.jump_same (by assumption) | apply State.trapAt_same (by assumption) | apply same_ite | split

def State.callInsn_w (g : Piece) : Bool := State.trapAt_w g || State.checkedJump_w g

theorem State.callInsn_same {g : Piece} {a : State} (hg : State.callInsn_w g = false) {s : State} (h : Same g a s) (x2 : _) (x3 : _) :
    Same g a (State.callInsn s x2 x3) := by
  simp only [State.callInsn_w, Bool.or_eq_false_iff] at hg
  repeat (have := hg.2; replace hg := hg.1)
  unfold State.callInsn
  repeat' first | intro _ | with_reducible first | assumption | apply State.trapAt_same (by assumption) | apply State.checkedJump_same (by assumption) | apply same_ite | split

def execCall_w (g : Piece) : Bool := State.issue_w g || State.callInsn_w g

theorem execCall_same {g : Piece} {a : State} (hg : execCall_w g = false) {s : State} (h : Same g a s) (x1 : _) :
    SameR g a (execCall x1 s) := by
  simp only [execCall_w, Bool.or_eq_false_iff] at hg
  repeat (have := hg.2; replace hg := hg.1)
  unfold execCall
  repeat' first | intro _ | with_reducible first | assumption | apply sameR_next | apply State.issue_same (by assumption) | apply State.callInsn_same (by assumption)

def execWait_w (g : Piece) : Bool := State.issue_w g || State.waitInsn_w g

theorem execWait_same {g : Piece} {a : State} (hg : execWait_w g = false) {s : State} (h : Same g a s) (x1 : _) :
    SameR g a (execWait x1 s) := by
  simp only [execWait_w, Bool.or_eq_false_iff] at hg
  repeat (have := hg.2; replace hg := hg.1)
  unfold execWait
  repeat' first | intro _ | with_reducible first | assumption | apply sameR_next | apply State.issue_same (by assumption) | apply State.waitInsn_same (by assumption)

def State.loopInsn_w (g : Piece) : Bool := State.trapAt_w g || State.jump_w g || State.retire_w g

theorem State.loopInsn_same {g : Piece} {a : State} (hg : State.loopInsn_w g = false) {s : State} (h : Same g a s) (x2 : _) :
    Same g a (State.loopInsn s x2) := by
  simp only [State.loopInsn_w, Bool.or_eq_false_iff] at hg
  repeat (have := hg.2; replace hg := hg.1)
  unfold State.loopInsn
  repeat' first | intro _ | ((fail_if_no_progress extract_lets +onlyGivenNames z); clear_value z) | with_reducible first | assumption | apply State.trapAt_same (by assumption) | apply State.jump_same (by assumption) | apply State.retire_same (by assumption) | apply same_id | apply same_ite | split

def execLoop_w (g : Piece) : Bool := State.issue_w g || State.loopInsn_w g

theorem execLoop_same {g : Piece} {a : State} (hg : execLoop_w g = false) {s : State} (h : Same g a s) (x1 : _) :
    SameR g a (execLoop x1 s) := by
  simp only [execLoop_w, Bool.or_eq_false_iff] at hg
  repeat (have := hg.2; replace hg := hg.1)
  unfold execLoop
  repeat' first | intro _ | with_reducible first | assumption | apply sameR_next | apply State.issue_same (by assumption) | apply State.loopInsn_same (by assumption)

def State.tdLoad_w (g : Piece) : Bool := State.reading_w g || State.retire_w g

theorem State.tdLoad_same {g : Piece} {a : State} (hg : State.tdLoad_w g = false) {s : State} (h : Same g a s) (x2 : _) :
    Same g a (State.tdLoad s x2) := by
  simp only [State.tdLoad_w, Bool.or_eq_false_iff] at hg
  repeat (have := hg.2; replace hg := hg.1)
  unfold State.tdLoad
  repeat' first | intro _ | ((fail_if_no_progress extract_lets +onlyGivenNames z); clear_value z) | with_reducible first | assumption | apply State.reading_same (by assumption) | apply State.retire_same (by assumption) | apply same_ite | split

def State.fenceInsn_w (g : Piece) : Bool := State.retire_w g || State.setWait_w g

theorem State.fenceInsn_same {g : Piece} {a : State} (hg : State.fenceInsn_w g = false) {s : State} (h : Same g a s) (x2 : _) :
    Same g a (State.fenceInsn s x2) := by
  simp only [State.fenceInsn_w, Bool.or_eq_false_iff] at hg
  repeat (have := hg.2; replace hg := hg.1)
  unfold State.fenceInsn
  repeat' first | intro _ | with_reducible first | assumption | apply State.retire_same (by assumption) | apply State.setWait_same (by assumption) | apply same_id | apply same_ite | split

def execFence_w (g : Piece) : Bool := State.issue_w g || State.fenceInsn_w g

theorem execFence_same {g : Piece} {a : State} (hg : execFence_w g = false) {s : State} (h : Same g a s) (x1 : _) :
    SameR g a (execFence x1 s) := by
  simp only [execFence_w, Bool.or_eq_false_iff] at hg
  repeat (have := hg.2; replace hg := hg.1)
  unfold execFence
  repeat' first | intro _ | with_reducible first | assumption | apply sameR_next | apply State.issue_same (by assumption) | apply State.fenceInsn_same (by assumption)

def State.storeInsn_w (g : Piece) : Bool := State.accessFault_w g || State.taskWrite_w g || State.meets_w g

theorem State.storeInsn_same {g : Piece} {a : State} (hg : State.storeInsn_w g = false) {s : State} (h : Same g a s) (x2 : _) :
    Same g a (State.storeInsn s x2) := by
  simp only [State.storeInsn_w, Bool.or_eq_false_iff] at hg
  repeat (have := hg.2; replace hg := hg.1)
  unfold State.storeInsn
  repeat' first | intro _ | ((fail_if_no_progress extract_lets +onlyGivenNames z); clear_value z) | with_reducible first | assumption | apply State.accessFault_same (by assumption) | apply State.taskWrite_same (by assumption) | apply State.meets_same (by assumption) | apply same_id | split

def execSignalAdd_w (g : Piece) : Bool := State.issue_w g || State.signalInsn_w g

theorem execSignalAdd_same {g : Piece} {a : State} (hg : execSignalAdd_w g = false) {s : State} (h : Same g a s) (x1 : _) :
    SameR g a (execSignalAdd x1 s) := by
  simp only [execSignalAdd_w, Bool.or_eq_false_iff] at hg
  repeat (have := hg.2; replace hg := hg.1)
  unfold execSignalAdd
  repeat' first | intro _ | with_reducible first | assumption | apply sameR_next | apply State.issue_same (by assumption) | apply State.signalInsn_same (by assumption)

def execBr_w (g : Piece) : Bool := State.issue_w g || State.jump_w g

theorem execBr_same {g : Piece} {a : State} (hg : execBr_w g = false) {s : State} (h : Same g a s) (x1 : _) :
    SameR g a (execBr x1 s) := by
  simp only [execBr_w, Bool.or_eq_false_iff] at hg
  repeat (have := hg.2; replace hg := hg.1)
  unfold execBr
  repeat' first | intro _ | with_reducible first | assumption | apply sameR_next | apply State.issue_same (by assumption) | apply State.jump_same (by assumption) | apply same_id

def State.seqDrain_w (g : Piece) : Bool := (g == .fld .SEQ_STAT_EXPERT) || (g == .fld .SEQ_CTRL_DRAIN)

theorem State.seqDrain_same {g : Piece} {a : State} (hg : State.seqDrain_w g = false) {s : State} (h : Same g a s) (x2 : _) (x3 : _) :
    Same g a (State.seqDrain s x2 x3) := by
  simp only [State.seqDrain_w, Bool.or_eq_false_iff] at hg
  repeat (have := hg.2; replace hg := hg.1)
  unfold State.seqDrain
  repeat' first | intro _ | with_reducible first | assumption | apply wr_same (by assumption) | apply same_ite | split

def State.memRecheck_w (g : Piece) : Bool := State.reading_w g || State.updTask_w g || State.setWait_w g

theorem State.memRecheck_same {g : Piece} {a : State} (hg : State.memRecheck_w g = false) {s : State} (h : Same g a s) (x2 : _) :
    Same g a (State.memRecheck s x2) := by
  simp only [State.memRecheck_w, Bool.or_eq_false_iff] at hg
  repeat (have := hg.2; replace hg := hg.1)
  unfold State.memRecheck
  repeat' first | intro _ | ((fail_if_no_progress extract_lets +onlyGivenNames z); clear_value z) | with_reducible first | assumption | apply State.reading_same (by assumption) | apply State.updTask_same (by assumption) | apply State.setWait_same (by assumption) | apply same_ite | split

def execMemoryConditionRecheck_w (g : Piece) : Bool := State.memRecheck_w g

theorem execMemoryConditionRecheck_same {g : Piece} {a : State} (hg : execMemoryConditionRecheck_w g = false) {s : State} (h : Same g a s) (x1 : _) :
    SameR g a (execMemoryConditionRecheck x1 s) := by
  simp only [execMemoryConditionRecheck_w] at hg
  unfold execMemoryConditionRecheck
  repeat' first | intro _ | with_reducible first | assumption | apply sameR_next | apply State.memRecheck_same (by assumption)

def execCalli_w (g : Piece) : Bool := State.issue_w g || State.callInsn_w g

theorem execCalli_same {g : Piece} {a : State} (hg : execCalli_w g = false) {s : State} (h : Same g a s) (x1 : _) :
    SameR g a (execCalli x1 s) := by
  simp only [execCalli_w, Bool.or_eq_false_iff] at hg
  repeat (have := hg.2; replace hg := hg.1)
  unfold execCalli
  repeat' first | intro _ | with_reducible first | assumption | apply sameR_next | apply State.issue_same (by assumption) | apply State.callInsn_same (by assumption)

def State.seqHandback_w (g : Piece) : Bool := (g == .fld .SEQ_STAT_EXPERT) || (g == .fld .SEQ_CFG_RESERVE0) || (g == .fld .SEQ_CTRL_DRAIN)

theorem State.seqHandback_same {g : Piece} {a : State} (hg : State.seqHandback_w g = false) {s : State} (h : Same g a s) (x2 : _) :
    Same g a (State.seqHandback s x2) := by
  simp only [State.seqHandback_w, Bool.or_eq_false_iff] at hg
  repeat (have := hg.2; replace hg := hg.1)
  unfold State.seqHandback
  repeat' first | intro _ | with_reducible first | assumption | apply wr_same (by assumption) | apply same_ite | split

def execSeqCtrlHandback_w (g : Piece) : Bool := State.order_w g || State.seqHandback_w g

theorem execSeqCtrlHandback_same {g : Piece} {a : State} (hg : execSeqCtrlHandback_w g = false) {s : State} (h : Same g a s) (x1 : _) (x2 : _) :
    SameR g a (execSeqCtrlHandback x1 x2 s) := by
  simp only [execSeqCtrlHandback_w, Bool.or_eq_false_iff] at hg
  repeat (have := hg.2; replace hg := hg.1)
  unfold execSeqCtrlHandback
  repeat' first | intro _ | with_reducible first | assumption | apply sameR_next | apply sameR_ite | apply State.order_same (by assumption) | apply State.seqHandback_same (by assumption) | apply same_ite | split

def execPredicateOp_w (g : Piece) : Bool := State.issue_w g || State.retire_w g

theorem execPredicateOp_same {g : Piece} {a : State} (hg : execPredicateOp_w g = false) {s : State} (h : Same g a s) (x1 : _) :
    SameR g a (execPredicateOp x1 s) := by
  simp only [execPredicateOp_w, Bool.or_eq_false_iff] at hg
  repeat (have := hg.2; replace hg := hg.1)
  unfold execPredicateOp
  repeat' first | intro _ | with_reducible first | assumption | apply sameR_next | apply State.issue_same (by assumption) | apply State.retire_same (by assumption)

def execJobCommit_w (g : Piece) : Bool := State.commitOrMirror_w g

theorem execJobCommit_same {g : Piece} {a : State} (hg : execJobCommit_w g = false) {s : State} (h : Same g a s) (x1 : _) :
    SameR g a (execJobCommit x1 s) := by
  simp only [execJobCommit_w] at hg
  unfold execJobCommit
  repeat' first | intro _ | with_reducible first | assumption | apply sameR_next | apply sameR_ite | apply State.commitOrMirror_same (by assumption) | apply same_ite | split

def execCtx_w (g : Piece) : Bool := State.issue_w g || State.retire_w g

theorem execCtx_same {g : Piece} {a : State} (hg : execCtx_w g = false) {s : State} (h : Same g a s) (x1 : _) :
    SameR g a (execCtx x1 s) := by
  simp only [execCtx_w, Bool.or_eq_false_iff] at hg
  repeat (have := hg.2; replace hg := hg.1)
  unfold execCtx
  repeat' first | intro _ | with_reducible first | assumption | apply sameR_next | apply State.issue_same (by assumption) | apply State.retire_same (by assumption)

def execTrap_w (g : Piece) : Bool := State.issue_w g || State.trap_w g

theorem execTrap_same {g : Piece} {a : State} (hg : execTrap_w g = false) {s : State} (h : Same g a s) (x1 : _) :
    SameR g a (execTrap x1 s) := by
  simp only [execTrap_w, Bool.or_eq_false_iff] at hg
  repeat (have := hg.2; replace hg := hg.1)
  unfold execTrap
  repeat' first | intro _ | with_reducible first | assumption | apply sameR_next | apply State.issue_same (by assumption) | apply State.trap_same (by assumption)

def State.evpostInsn_w (g : Piece) : Bool := State.retire_w g || State.post_w g

theorem State.evpostInsn_same {g : Piece} {a : State} (hg : State.evpostInsn_w g = false) {s : State} (h : Same g a s) (x2 : _) :
    Same g a (State.evpostInsn s x2) := by
  simp only [State.evpostInsn_w, Bool.or_eq_false_iff] at hg
  repeat (have := hg.2; replace hg := hg.1)
  unfold State.evpostInsn
  repeat' first | intro _ | with_reducible first | assumption | apply State.retire_same (by assumption) | apply State.post_same (by assumption) | apply same_id

def execEvpost_w (g : Piece) : Bool := State.issue_w g || State.evpostInsn_w g

theorem execEvpost_same {g : Piece} {a : State} (hg : execEvpost_w g = false) {s : State} (h : Same g a s) (x1 : _) :
    SameR g a (execEvpost x1 s) := by
  simp only [execEvpost_w, Bool.or_eq_false_iff] at hg
  repeat (have := hg.2; replace hg := hg.1)
  unfold execEvpost
  repeat' first | intro _ | with_reducible first | assumption | apply sameR_next | apply State.issue_same (by assumption) | apply State.evpostInsn_same (by assumption)

def execJobDispatch_w (g : Piece) : Bool := State.dispatchFrom_w g

theorem execJobDispatch_same {g : Piece} {a : State} (hg : execJobDispatch_w g = false) {s : State} (h : Same g a s) :
    SameR g a (execJobDispatch s) := by
  simp only [execJobDispatch_w] at hg
  unfold execJobDispatch
  repeat' first | intro _ | with_reducible first | assumption | apply sameR_next | apply sameR_ite | apply State.dispatchFrom_same (by assumption) | apply same_ite | split

def execWaitEq_w (g : Piece) : Bool := State.issue_w g || State.memWait_w g

theorem execWaitEq_same {g : Piece} {a : State} (hg : execWaitEq_w g = false) {s : State} (h : Same g a s) (x1 : _) :
    SameR g a (execWaitEq x1 s) := by
  simp only [execWaitEq_w, Bool.or_eq_false_iff] at hg
  repeat (have := hg.2; replace hg := hg.1)
  unfold execWaitEq
  repeat' first | intro _ | with_reducible first | assumption | apply sameR_next | apply State.issue_same (by assumption) | apply State.memWait_same (by assumption)

def State.retInsn_w (g : Piece) : Bool := State.trapAt_w g || State.checkedJump_w g

theorem State.retInsn_same {g : Piece} {a : State} (hg : State.retInsn_w g = false) {s : State} (h : Same g a s) (x2 : _) :
    Same g a (State.retInsn s x2) := by
  simp only [State.retInsn_w, Bool.or_eq_false_iff] at hg
  repeat (have := hg.2; replace hg := hg.1)
  unfold State.retInsn
  repeat' first | intro _ | with_reducible first | assumption | apply State.trapAt_same (by assumption) | apply State.checkedJump_same (by assumption) | split

def execScldT_w (g : Piece) : Bool := State.issue_w g || State.scldInsn_w g

theorem execScldT_same {g : Piece} {a : State} (hg : execScldT_w g = false) {s : State} (h : Same g a s) (x1 : _) :
    SameR g a (execScldT x1 s) := by
  simp only [execScldT_w, Bool.or_eq_false_iff] at hg
  repeat (have := hg.2; replace hg := hg.1)
  unfold execScldT
  repeat' first | intro _ | with_reducible first | assumption | apply sameR_next | apply State.issue_same (by assumption) | apply State.scldInsn_same (by assumption)

def execBri_w (g : Piece) : Bool := State.issue_w g || State.checkedJump_w g

theorem execBri_same {g : Piece} {a : State} (hg : execBri_w g = false) {s : State} (h : Same g a s) (x1 : _) :
    SameR g a (execBri x1 s) := by
  simp only [execBri_w, Bool.or_eq_false_iff] at hg
  repeat (have := hg.2; replace hg := hg.1)
  unfold execBri
  repeat' first | intro _ | with_reducible first | assumption | apply sameR_next | apply State.issue_same (by assumption) | apply State.checkedJump_same (by assumption) | apply same_id

def State.lpopInsn_w (g : Piece) : Bool := State.trapAt_w g || State.retire_w g

theorem State.lpopInsn_same {g : Piece} {a : State} (hg : State.lpopInsn_w g = false) {s : State} (h : Same g a s) (x2 : _) :
    Same g a (State.lpopInsn s x2) := by
  simp only [State.lpopInsn_w, Bool.or_eq_false_iff] at hg
  repeat (have := hg.2; replace hg := hg.1)
  unfold State.lpopInsn
  repeat' first | intro _ | with_reducible first | assumption | apply State.trapAt_same (by assumption) | apply State.retire_same (by assumption) | split

def execTdinv_w (g : Piece) : Bool := State.issue_w g || State.retire_w g

theorem execTdinv_same {g : Piece} {a : State} (hg : execTdinv_w g = false) {s : State} (h : Same g a s) (x1 : _) :
    SameR g a (execTdinv x1 s) := by
  simp only [execTdinv_w, Bool.or_eq_false_iff] at hg
  repeat (have := hg.2; replace hg := hg.1)
  unfold execTdinv
  repeat' first | intro _ | ((fail_if_no_progress extract_lets +onlyGivenNames z); clear_value z) | with_reducible first | assumption | apply sameR_next | apply State.issue_same (by assumption) | apply State.retire_same (by assumption)

def execTdadd_w (g : Piece) : Bool := State.issue_w g || State.retire_w g

theorem execTdadd_same {g : Piece} {a : State} (hg : execTdadd_w g = false) {s : State} (h : Same g a s) (x1 : _) :
    SameR g a (execTdadd x1 s) := by
  simp only [execTdadd_w, Bool.or_eq_false_iff] at hg
  repeat (have := hg.2; replace hg := hg.1)
  unfold execTdadd
  repeat' first | intro _ | ((fail_if_no_progress extract_lets +onlyGivenNames z); clear_value z) | with_reducible first | assumption | apply sameR_next | apply State.issue_same (by assumption) | apply State.retire_same (by assumption)

def execAluRegister_w (g : Piece) : Bool := State.issue_w g || State.retire_w g

theorem execAluRegister_same {g : Piece} {a : State} (hg : execAluRegister_w g = false) {s : State} (h : Same g a s) (x1 : _) :
    SameR g a (execAluRegister x1 s) := by
  simp only [execAluRegister_w, Bool.or_eq_false_iff] at hg
  repeat (have := hg.2; replace hg := hg.1)
  unfold execAluRegister
  repeat' first | intro _ | with_reducible first | assumption | apply sameR_next | apply State.issue_same (by assumption) | apply State.retire_same (by assumption)

def execNop_w (g : Piece) : Bool := State.issue_w g || State.retire_w g

theorem execNop_same {g : Piece} {a : State} (hg : execNop_w g = false) {s : State} (h : Same g a s) (x1 : _) :
    SameR g a (execNop x1 s) := by
  simp only [execNop_w, Bool.or_eq_false_iff] at hg
  repeat (have := hg.2; replace hg := hg.1)
  unfold execNop
  repeat' first | intro _ | with_reducible first | assumption | apply sameR_next | apply State.issue_same (by assumption) | apply State.retire_same (by assumption) | apply same_id

def execTdset_w (g : Piece) : Bool := State.issue_w g || State.retire_w g

theorem execTdset_same {g : Piece} {a : State} (hg : execTdset_w g = false) {s : State} (h : Same g a s) (x1 : _) :
    SameR g a (execTdset x1 s) := by
  simp only [execTdset_w, Bool.or_eq_false_iff] at hg
  repeat (have := hg.2; replace hg := hg.1)
  unfold execTdset
  repeat' first | intro _ | ((fail_if_no_progress extract_lets +onlyGivenNames z); clear_value z) | with_reducible first | assumption | apply sameR_next | apply State.issue_same (by assumption) | apply State.retire_same (by assumption) | split

def execTdget_w (g : Piece) : Bool := State.issue_w g || State.retire_w g

theorem execTdget_same {g : Piece} {a : State} (hg : execTdget_w g = false) {s : State} (h : Same g a s) (x1 : _) :
    SameR g a (execTdget x1 s) := by
  simp only [execTdget_w, Bool.or_eq_false_iff] at hg
  repeat (have := hg.2; replace hg := hg.1)
  unfold execTdget
  repeat' first | intro _ | with_reducible first | assumption | apply sameR_next | apply State.issue_same (by assumption) | apply State.retire_same (by assumption)

def execSeqCtrlDrainWrite_w (g : Piece) : Bool := State.order_w g || State.seqDrain_w g

theorem execSeqCtrlDrainWrite_same {g : Piece} {a : State} (hg : execSeqCtrlDrainWrite_w g = false) {s : State} (h : Same g a s) (x1 : _) (x2 : _) :
    SameR g a (execSeqCtrlDrainWrite x1 x2 s) := by
  simp only [execSeqCtrlDrainWrite_w, Bool.or_eq_false_iff] at hg
  repeat (have := hg.2; replace hg := hg.1)
  unfold execSeqCtrlDrainWrite
  repeat' first | intro _ | with_reducible first | assumption | apply sameR_next | apply sameR_ite | apply State.order_same (by assumption) | apply State.seqDrain_same (by assumption) | apply same_ite | split

def execBrc_w (g : Piece) : Bool := State.issue_w g || State.jump_w g || State.retire_w g

theorem execBrc_same {g : Piece} {a : State} (hg : execBrc_w g = false) {s : State} (h : Same g a s) (x1 : _) :
    SameR g a (execBrc x1 s) := by
  simp only [execBrc_w, Bool.or_eq_false_iff] at hg
  repeat (have := hg.2; replace hg := hg.1)
  unfold execBrc
  repeat' first | intro _ | with_reducible first | assumption | apply sameR_next | apply sameR_ite | apply State.issue_same (by assumption) | apply State.jump_same (by assumption) | apply State.retire_same (by assumption) | apply same_id | apply same_ite | split

def execAluImmediate_w (g : Piece) : Bool := State.issue_w g || State.retire_w g

theorem execAluImmediate_same {g : Piece} {a : State} (hg : execAluImmediate_w g = false) {s : State} (h : Same g a s) (x1 : _) :
    SameR g a (execAluImmediate x1 s) := by
  simp only [execAluImmediate_w, Bool.or_eq_false_iff] at hg
  repeat (have := hg.2; replace hg := hg.1)
  unfold execAluImmediate
  repeat' first | intro _ | with_reducible first | assumption | apply sameR_next | apply State.issue_same (by assumption) | apply State.retire_same (by assumption)

def execStore_w (g : Piece) : Bool := State.issue_w g || State.storeInsn_w g

theorem execStore_same {g : Piece} {a : State} (hg : execStore_w g = false) {s : State} (h : Same g a s) (x1 : _) :
    SameR g a (execStore x1 s) := by
  simp only [execStore_w, Bool.or_eq_false_iff] at hg
  repeat (have := hg.2; replace hg := hg.1)
  unfold execStore
  repeat' first | intro _ | with_reducible first | assumption | apply sameR_next | apply State.issue_same (by assumption) | apply State.storeInsn_same (by assumption)

def execBar_w (g : Piece) : Bool := State.issue_w g || State.setWait_w g

theorem execBar_same {g : Piece} {a : State} (hg : execBar_w g = false) {s : State} (h : Same g a s) (x1 : _) :
    SameR g a (execBar x1 s) := by
  simp only [execBar_w, Bool.or_eq_false_iff] at hg
  repeat (have := hg.2; replace hg := hg.1)
  unfold execBar
  repeat' first | intro _ | with_reducible first | assumption | apply sameR_next | apply State.issue_same (by assumption) | apply State.setWait_same (by assumption)

def execCmp_w (g : Piece) : Bool := State.issue_w g || State.retire_w g

theorem execCmp_same {g : Piece} {a : State} (hg : execCmp_w g = false) {s : State} (h : Same g a s) (x1 : _) :
    SameR g a (execCmp x1 s) := by
  simp only [execCmp_w, Bool.or_eq_false_iff] at hg
  repeat (have := hg.2; replace hg := hg.1)
  unfold execCmp
  repeat' first | intro _ | with_reducible first | assumption | apply sameR_next | apply State.issue_same (by assumption) | apply State.retire_same (by assumption)

def execWaitNe_w (g : Piece) : Bool := State.issue_w g || State.memWait_w g

theorem execWaitNe_same {g : Piece} {a : State} (hg : execWaitNe_w g = false) {s : State} (h : Same g a s) (x1 : _) :
    SameR g a (execWaitNe x1 s) := by
  simp only [execWaitNe_w, Bool.or_eq_false_iff] at hg
  repeat (have := hg.2; replace hg := hg.1)
  unfold execWaitNe
  repeat' first | intro _ | with_reducible first | assumption | apply sameR_next | apply State.issue_same (by assumption) | apply State.memWait_same (by assumption)

def execEndl_w (g : Piece) : Bool := State.issue_w g || State.endlInsn_w g

theorem execEndl_same {g : Piece} {a : State} (hg : execEndl_w g = false) {s : State} (h : Same g a s) (x1 : _) :
    SameR g a (execEndl x1 s) := by
  simp only [execEndl_w, Bool.or_eq_false_iff] at hg
  repeat (have := hg.2; replace hg := hg.1)
  unfold execEndl
  repeat' first | intro _ | with_reducible first | assumption | apply sameR_next | apply State.issue_same (by assumption) | apply State.endlInsn_same (by assumption)

def execTdld_w (g : Piece) : Bool := State.issue_w g || State.tdLoad_w g

theorem execTdld_same {g : Piece} {a : State} (hg : execTdld_w g = false) {s : State} (h : Same g a s) (x1 : _) :
    SameR g a (execTdld x1 s) := by
  simp only [execTdld_w, Bool.or_eq_false_iff] at hg
  repeat (have := hg.2; replace hg := hg.1)
  unfold execTdld
  repeat' first | intro _ | with_reducible first | assumption | apply sameR_next | apply State.issue_same (by assumption) | apply State.tdLoad_same (by assumption)

def execRet_w (g : Piece) : Bool := State.issue_w g || State.retInsn_w g

theorem execRet_same {g : Piece} {a : State} (hg : execRet_w g = false) {s : State} (h : Same g a s) (x1 : _) :
    SameR g a (execRet x1 s) := by
  simp only [execRet_w, Bool.or_eq_false_iff] at hg
  repeat (have := hg.2; replace hg := hg.1)
  unfold execRet
  repeat' first | intro _ | with_reducible first | assumption | apply sameR_next | apply State.issue_same (by assumption) | apply State.retInsn_same (by assumption)

def execLpop_w (g : Piece) : Bool := State.issue_w g || State.lpopInsn_w g

theorem execLpop_same {g : Piece} {a : State} (hg : execLpop_w g = false) {s : State} (h : Same g a s) (x1 : _) :
    SameR g a (execLpop x1 s) := by
  simp only [execLpop_w, Bool.or_eq_false_iff] at hg
  repeat (have := hg.2; replace hg := hg.1)
  unfold execLpop
  repeat' first | intro _ | with_reducible first | assumption | apply sameR_next | apply State.issue_same (by assumption) | apply State.lpopInsn_same (by assumption)

end Sys2Proof.Machine
end

