-- ==== Sys2Proof/Laws/SameArray.lean ====
section
/-!
SUPPORT. Laws/SameArray.lean: what the operations of Machine/Array.lean may change, and that they leave the rest alone.
-/

set_option linter.unusedTactic false
set_option linter.unusedSimpArgs false
set_option linter.unusedVariables false
set_option linter.tactic.unusedName false
set_option linter.unreachableTactic false

namespace Sys2Proof.Machine

def State.dgaHold_w (g : Piece) : Bool := (g == .fld .DGA_STATUS_EXPERT) || (g == .fld .DGA_CTRL_HOLD)

theorem State.dgaHold_same {g : Piece} {a : State} (hg : State.dgaHold_w g = false) {s : State} (h : Same g a s) (x2 : _) (x3 : _) :
    Same g a (State.dgaHold s x2 x3) := by
  simp only [State.dgaHold_w, Bool.or_eq_false_iff] at hg
  repeat (have := hg.2; replace hg := hg.1)
  unfold State.dgaHold
  repeat' first | intro _ | with_reducible first | assumption | apply wr_same (by assumption) | apply same_ite | split

def State.startOp_w (g : Piece) : Bool := State.tensorTrap_w g || State.addJobFlag_w g || State.launch_w g

theorem State.startOp_same {g : Piece} {a : State} (hg : State.startOp_w g = false) {s : State} (h : Same g a s) (x2 : _) (x3 : _) (x4 : _) :
    Same g a (State.startOp s x2 x3 x4) := by
  simp only [State.startOp_w, Bool.or_eq_false_iff] at hg
  repeat (have := hg.2; replace hg := hg.1)
  unfold State.startOp
  repeat' first | intro _ | ((fail_if_no_progress extract_lets +onlyGivenNames z); first | (refine same_cut (a := a) (g := g) z ?_ fun hz => ?_) <;> [subst z; clear_value z] | clear_value z) | with_reducible first | assumption | apply State.tensorTrap_same (by assumption) | apply State.addJobFlag_same (by assumption) | apply State.launch_same (by assumption) | apply same_ite | split

def State.arrayInsn_w (g : Piece) : Bool := State.issue_w g || State.startOp_w g

theorem State.arrayInsn_same {g : Piece} {a : State} (hg : State.arrayInsn_w g = false) {s : State} (h : Same g a s) (x2 : _) (x3 : _) :
    Same g a (State.arrayInsn s x2 x3) := by
  simp only [State.arrayInsn_w, Bool.or_eq_false_iff] at hg
  repeat (have := hg.2; replace hg := hg.1)
  unfold State.arrayInsn
  repeat' first | intro _ | with_reducible first | assumption | apply State.issue_same (by assumption) | apply State.startOp_same (by assumption)

def execMm_w (g : Piece) : Bool := State.arrayInsn_w g

theorem execMm_same {g : Piece} {a : State} (hg : execMm_w g = false) {s : State} (h : Same g a s) (x1 : _) :
    SameR g a (execMm x1 s) := by
  simp only [execMm_w] at hg
  unfold execMm
  repeat' first | intro _ | with_reducible first | assumption | apply sameR_next | apply State.arrayInsn_same (by assumption) | split

def State.blockEnd_w (g : Piece) : Bool := (g == .fld .DGA_CYCLES_COUNT) || (g == .ops)

theorem State.blockEnd_same {g : Piece} {a : State} (hg : State.blockEnd_w g = false) {s : State} (h : Same g a s) (x2 : _) :
    Same g a (State.blockEnd s x2).1 := by
  simp only [State.blockEnd_w, Bool.or_eq_false_iff] at hg
  repeat (have := hg.2; replace hg := hg.1)
  unfold State.blockEnd
  repeat' first | intro _ | ((fail_if_no_progress extract_lets +onlyGivenNames z); first | (refine same_cut (a := a) (g := g) z ?_ fun hz => ?_) <;> [subst z; clear_value z] | clear_value z) | with_reducible first | assumption | apply bump_same (by assumption) | fail_if_no_progress apply same_mk_ops (by assumption) | apply same_ite | split

def execSmax_w (g : Piece) : Bool := State.arrayInsn_w g

theorem execSmax_same {g : Piece} {a : State} (hg : execSmax_w g = false) {s : State} (h : Same g a s) (x1 : _) :
    SameR g a (execSmax x1 s) := by
  simp only [execSmax_w] at hg
  unfold execSmax
  repeat' first | intro _ | with_reducible first | assumption | apply sameR_next | apply State.arrayInsn_same (by assumption) | split

def execMmat_w (g : Piece) : Bool := State.arrayInsn_w g

theorem execMmat_same {g : Piece} {a : State} (hg : execMmat_w g = false) {s : State} (h : Same g a s) (x1 : _) :
    SameR g a (execMmat x1 s) := by
  simp only [execMmat_w] at hg
  unfold execMmat
  repeat' first | intro _ | with_reducible first | assumption | apply sameR_next | apply State.arrayInsn_same (by assumption) | split

def State.dmaPump_w (g : Piece) : Bool := (g == .ops) || (g == .dmas)

theorem State.dmaPump_same {g : Piece} {a : State} (hg : State.dmaPump_w g = false) {s : State} (h : Same g a s) (x2 : _) (x3 : _) :
    Same g a (State.dmaPump s x2 x3) := by
  simp only [State.dmaPump_w, Bool.or_eq_false_iff] at hg
  repeat (have := hg.2; replace hg := hg.1)
  induction x3 generalizing s <;> [skip; rename_i ih]
  all_goals unfold State.dmaPump
  repeat' first | intro _ | ((fail_if_no_progress extract_lets +onlyGivenNames z); clear_value z) | with_reducible first | assumption | fail_if_no_progress apply same_mk_ops_dmas (by assumption) (by assumption) | apply same_ite | apply ih | split

def State.opFault_w (g : Piece) : Bool := State.countDeniedTds_w g || State.faultJob_w g

theorem State.opFault_same {g : Piece} {a : State} (hg : State.opFault_w g = false) {s : State} (h : Same g a s) (x2 : _) (x3 : _) :
    Same g a (State.opFault s x2 x3) := by
  simp only [State.opFault_w, Bool.or_eq_false_iff] at hg
  repeat (have := hg.2; replace hg := hg.1)
  unfold State.opFault
  repeat' first | intro _ | ((fail_if_no_progress extract_lets +onlyGivenNames z); (refine same_cut (a := a) (g := g) z ?_ fun hz => ?_) <;> [subst z; clear_value z]) | with_reducible first | assumption | apply State.countDeniedTds_same (by assumption) | apply State.faultJob_same (by assumption) | apply same_ite | split

def State.finishOp_w (g : Piece) : Bool := State.opDone_w g || State.keepTracker_w g || State.opFault_w g

theorem State.finishOp_same {g : Piece} {a : State} (hg : State.finishOp_w g = false) {s : State} (h : Same g a s) (x2 : _) (x3 : _) (hx3 : SameE g a x3) :
    Same g a (State.finishOp s x2 x3) := by
  simp only [State.finishOp_w, Bool.or_eq_false_iff] at hg
  repeat (have := hg.2; replace hg := hg.1)
  unfold State.finishOp
  repeat' first | intro _ | exact hx3 | with_reducible first | assumption | apply State.opDone_same (by assumption) | apply State.keepTracker_same (by assumption) | apply State.opFault_same (by assumption) | apply same_ite | split

def State.dgaClear_w (g : Piece) : Bool := (g == .fld .DGA_CYCLES_COUNT) || (g == .fld .DGA_MACS_COUNT) || (g == .fld .DGA_SAT_COUNT) || (g == .fld .DGA_NAN_COUNT) || (g == .fld .DGA_OPWAIT_COUNT) || (g == .fld .DGA_GUS_STALL_COUNT) || (g == .fld .DGA_GUS_BYTES_COUNT) || (g == .fld .DGA_GUS_LATE_COUNT) || (g == .fld .DGA_ADDFULL_COUNT)

theorem State.dgaClear_same {g : Piece} {a : State} (hg : State.dgaClear_w g = false) {s : State} (h : Same g a s) (x2 : _) :
    Same g a (State.dgaClear s x2) := by
  simp only [State.dgaClear_w, Bool.or_eq_false_iff] at hg
  repeat (have := hg.2; replace hg := hg.1)
  unfold State.dgaClear
  simp only [State.each, List.foldl, dgaCounters]
  repeat' first | intro _ | with_reducible first | assumption | apply wr_same | apply foldl_same | apply same_ite | (unfold convSubField; split) | (unfold spareColField; split) | (unfold quotaField; split) | (unfold gateField; split) | (unfold readyField; split) | split

def execDgaCtrlClear_w (g : Piece) : Bool := State.order_w g || State.dgaClear_w g

theorem execDgaCtrlClear_same {g : Piece} {a : State} (hg : execDgaCtrlClear_w g = false) {s : State} (h : Same g a s) (x1 : _) (x2 : _) :
    SameR g a (execDgaCtrlClear x1 x2 s) := by
  simp only [execDgaCtrlClear_w, Bool.or_eq_false_iff] at hg
  repeat (have := hg.2; replace hg := hg.1)
  unfold execDgaCtrlClear
  repeat' first | intro _ | with_reducible first | assumption | apply sameR_next | apply sameR_ite | apply State.order_same (by assumption) | apply State.when_same | apply State.dgaClear_same (by assumption) | apply same_ite | split

def State.dgaHandback_w (g : Piece) : Bool := (g == .fld .DGA_STATUS_EXPERT) || (g == .fld .DGA_CTRL_HOLD)

theorem State.dgaHandback_same {g : Piece} {a : State} (hg : State.dgaHandback_w g = false) {s : State} (h : Same g a s) (x2 : _) :
    Same g a (State.dgaHandback s x2) := by
  simp only [State.dgaHandback_w, Bool.or_eq_false_iff] at hg
  repeat (have := hg.2; replace hg := hg.1)
  unfold State.dgaHandback
  repeat' first | intro _ | with_reducible first | assumption | apply wr_same (by assumption) | apply same_ite | split

def execDgaCtrlHandback_w (g : Piece) : Bool := State.order_w g || State.dgaHandback_w g

theorem execDgaCtrlHandback_same {g : Piece} {a : State} (hg : execDgaCtrlHandback_w g = false) {s : State} (h : Same g a s) (x1 : _) (x2 : _) :
    SameR g a (execDgaCtrlHandback x1 x2 s) := by
  simp only [execDgaCtrlHandback_w, Bool.or_eq_false_iff] at hg
  repeat (have := hg.2; replace hg := hg.1)
  unfold execDgaCtrlHandback
  repeat' first | intro _ | with_reducible first | assumption | apply sameR_next | apply sameR_ite | apply State.order_same (by assumption) | apply State.when_same | apply State.dgaHandback_same (by assumption) | apply same_ite | split

def execEw_w (g : Piece) : Bool := State.arrayInsn_w g

theorem execEw_same {g : Piece} {a : State} (hg : execEw_w g = false) {s : State} (h : Same g a s) (x1 : _) :
    SameR g a (execEw x1 s) := by
  simp only [execEw_w] at hg
  unfold execEw
  repeat' first | intro _ | with_reducible first | assumption | apply sameR_next | apply State.arrayInsn_same (by assumption) | split

def State.opReads_w (g : Piece) : Bool := State.reads_w g || State.faultJob_w g

theorem State.opReads_same {g : Piece} {a : State} (hg : State.opReads_w g = false) {s : State} (h : Same g a s) (x2 : _) (x3 : _) :
    Same g a (State.opReads s x2 x3).2 := by
  simp only [State.opReads_w, Bool.or_eq_false_iff] at hg
  repeat (have := hg.2; replace hg := hg.1)
  unfold State.opReads
  repeat' first | intro _ | ((fail_if_no_progress extract_lets +onlyGivenNames z); (refine same_cut2 (a := a) (g := g) z ?_ fun hz => ?_) <;> [subst z; clear_value z]) | with_reducible first | assumption | apply State.reads_same (by assumption) | apply State.faultJob_same (by assumption) | apply same2_ite | apply same_ite | refine same_of2 (by assumption) ?_ | split

def execNormLayer_w (g : Piece) : Bool := State.arrayInsn_w g

theorem execNormLayer_same {g : Piece} {a : State} (hg : execNormLayer_w g = false) {s : State} (h : Same g a s) (x1 : _) :
    SameR g a (execNormLayer x1 s) := by
  simp only [execNormLayer_w] at hg
  unfold execNormLayer
  repeat' first | intro _ | with_reducible first | assumption | apply sameR_next | apply State.arrayInsn_same (by assumption) | split

def State.dmaRelease_w (g : Piece) : Bool := (g == .dmas)

theorem State.dmaRelease_same {g : Piece} {a : State} (hg : State.dmaRelease_w g = false) {s : State} (h : Same g a s) (x2 : _) (x3 : _) :
    Same g a (State.dmaRelease s x2 x3) := by
  simp only [State.dmaRelease_w] at hg
  unfold State.dmaRelease
  repeat' first | intro _ | with_reducible first | assumption | fail_if_no_progress apply same_mk_dmas (by assumption) | split

def execDmaDescriptorTimeout_w (g : Piece) : Bool := State.dmaPump_w g || State.timeout_w g || State.dmaRelease_w g

theorem execDmaDescriptorTimeout_same {g : Piece} {a : State} (hg : execDmaDescriptorTimeout_w g = false) {s : State} (h : Same g a s) (x1 : _) (x2 : _) (x3 : _) :
    SameR g a (execDmaDescriptorTimeout x1 x2 x3 s) := by
  simp only [execDmaDescriptorTimeout_w, Bool.or_eq_false_iff] at hg
  repeat (have := hg.2; replace hg := hg.1)
  unfold execDmaDescriptorTimeout
  repeat' first | intro _ | ((fail_if_no_progress extract_lets +onlyGivenNames z); clear_value z) | with_reducible first | assumption | apply sameR_next | apply sameR_ite | apply State.dmaPump_same (by assumption) | apply State.timeout_same (by assumption) | apply State.dmaRelease_same (by assumption) | apply same_ite | split

def execRed_w (g : Piece) : Bool := State.arrayInsn_w g

theorem execRed_same {g : Piece} {a : State} (hg : execRed_w g = false) {s : State} (h : Same g a s) (x1 : _) :
    SameR g a (execRed x1 s) := by
  simp only [execRed_w] at hg
  unfold execRed
  repeat' first | intro _ | with_reducible first | assumption | apply sameR_next | apply State.arrayInsn_same (by assumption) | split

def State.arrayPick_w (g : Piece) : Bool := (g == .fld .DGA_STATUS_BUSY) || (g == .ops)

theorem State.arrayPick_same {g : Piece} {a : State} (hg : State.arrayPick_w g = false) {s : State} (h : Same g a s) (x2 : _) (x3 : _) :
    Same g a (State.arrayPick s x2 x3) := by
  simp only [State.arrayPick_w, Bool.or_eq_false_iff] at hg
  repeat (have := hg.2; replace hg := hg.1)
  unfold State.arrayPick
  repeat' first | intro _ | ((fail_if_no_progress extract_lets +onlyGivenNames z); (refine same_cut (a := a) (g := g) z ?_ fun hz => ?_) <;> [subst z; clear_value z]) | with_reducible first | assumption | apply wr_same (by assumption) | fail_if_no_progress apply same_mk_ops (by assumption) | apply same_ite | split

def execDgaCtrlHoldWrite_w (g : Piece) : Bool := State.order_w g || State.dgaHold_w g

theorem execDgaCtrlHoldWrite_same {g : Piece} {a : State} (hg : execDgaCtrlHoldWrite_w g = false) {s : State} (h : Same g a s) (x1 : _) (x2 : _) :
    SameR g a (execDgaCtrlHoldWrite x1 x2 s) := by
  simp only [execDgaCtrlHoldWrite_w, Bool.or_eq_false_iff] at hg
  repeat (have := hg.2; replace hg := hg.1)
  unfold execDgaCtrlHoldWrite
  repeat' first | intro _ | with_reducible first | assumption | apply sameR_next | apply sameR_ite | apply State.order_same (by assumption) | apply State.dgaHold_same (by assumption) | apply same_ite | split

def State.startDma_w (g : Piece) : Bool := State.dmaPump_w g || State.startOp_w g

theorem State.startDma_same {g : Piece} {a : State} (hg : State.startDma_w g = false) {s : State} (h : Same g a s) (x2 : _) :
    Same g a (State.startDma s x2) := by
  simp only [State.startDma_w, Bool.or_eq_false_iff] at hg
  repeat (have := hg.2; replace hg := hg.1)
  unfold State.startDma
  repeat' first | intro _ | with_reducible first | assumption | apply State.dmaPump_same (by assumption) | apply State.startOp_same (by assumption)

def execGather_w (g : Piece) : Bool := State.issue_w g || State.startDma_w g

theorem execGather_same {g : Piece} {a : State} (hg : execGather_w g = false) {s : State} (h : Same g a s) (x1 : _) :
    SameR g a (execGather x1 s) := by
  simp only [execGather_w, Bool.or_eq_false_iff] at hg
  repeat (have := hg.2; replace hg := hg.1)
  unfold execGather
  repeat' first | intro _ | with_reducible first | assumption | apply sameR_next | apply State.issue_same (by assumption) | apply State.startDma_same (by assumption) | split

def State.copyWrites_w (g : Piece) : Bool := State.jobWrites_w g || (g == .free)

theorem State.copyWrites_same {g : Piece} {a : State} (hg : State.copyWrites_w g = false) {s : State} (h : Same g a s) (x2 : _) (x3 : _) :
    SameE g a (State.copyWrites s x2 x3) := by
  simp only [State.copyWrites_w, Bool.or_eq_false_iff] at hg
  repeat (have := hg.2; replace hg := hg.1)
  unfold State.copyWrites
  repeat' first | intro _ | with_reducible first | assumption | apply sameE_error | apply sameE_ok | apply sameE_ite | apply State.jobWrites_same (by assumption) | fail_if_no_progress apply same_mk_free (by assumption) | apply same_ite | refine same_ofE (by assumption) ?_ | split

def State.moveResult_w (g : Piece) : Bool := State.copyWrites_w g

theorem State.moveResult_same {g : Piece} {a : State} (hg : State.moveResult_w g = false) {s : State} (h : Same g a s) (x2 : _) :
    SameE g a (State.moveResult s x2) := by
  simp only [State.moveResult_w] at hg
  unfold State.moveResult
  repeat' first | intro _ | with_reducible first | assumption | apply sameE_error | apply sameE_ok | apply sameE_ite | apply State.copyWrites_same (by assumption) | apply same_ite | refine same_ofE (by assumption) ?_ | split

def State.dmaDone_w (g : Piece) : Bool := State.faultJob_w g || State.finishOp_w g || State.moveResult_w g || (g == .fld .DGA_GUS_BYTES_COUNT) || (g == .ops)

theorem State.dmaDone_same {g : Piece} {a : State} (hg : State.dmaDone_w g = false) {s : State} (h : Same g a s) (x2 : _) :
    Same g a (State.dmaDone s x2) := by
  simp only [State.dmaDone_w, Bool.or_eq_false_iff] at hg
  repeat (have := hg.2; replace hg := hg.1)
  unfold State.dmaDone
  repeat' first | intro _ | ((fail_if_no_progress extract_lets +onlyGivenNames z); (refine same_cut (a := a) (g := g) z ?_ fun hz => ?_) <;> [subst z; clear_value z]) | with_reducible first | assumption | apply bump_same (by assumption) | apply State.faultJob_same (by assumption) | apply State.finishOp_same (by assumption) | apply State.moveResult_same (by assumption) | fail_if_no_progress apply same_mk_ops (by assumption) | apply same_ite | refine same_ofE (by assumption) ?_ | split

def execQnt_w (g : Piece) : Bool := State.arrayInsn_w g

theorem execQnt_same {g : Piece} {a : State} (hg : execQnt_w g = false) {s : State} (h : Same g a s) (x1 : _) :
    SameR g a (execQnt x1 s) := by
  simp only [execQnt_w] at hg
  unfold execQnt
  repeat' first | intro _ | with_reducible first | assumption | apply sameR_next | apply State.arrayInsn_same (by assumption) | split

def execMovt_w (g : Piece) : Bool := State.issue_w g || State.startDma_w g

theorem execMovt_same {g : Piece} {a : State} (hg : execMovt_w g = false) {s : State} (h : Same g a s) (x1 : _) :
    SameR g a (execMovt x1 s) := by
  simp only [execMovt_w, Bool.or_eq_false_iff] at hg
  repeat (have := hg.2; replace hg := hg.1)
  unfold execMovt
  repeat' first | intro _ | with_reducible first | assumption | apply sameR_next | apply State.issue_same (by assumption) | apply State.startDma_same (by assumption) | split

def State.resultOf_w (g : Piece) : Bool := State.writeSteps_w g || State.countStat_w g || (g == .free)

theorem State.resultOf_same {g : Piece} {a : State} (hg : State.resultOf_w g = false) {s : State} (h : Same g a s) (x2 : _) (x3 : _) :
    SameE g a (State.resultOf s x2 x3) := by
  simp only [State.resultOf_w, Bool.or_eq_false_iff] at hg
  repeat (have := hg.2; replace hg := hg.1)
  unfold State.resultOf
  repeat' first | intro _ | ((fail_if_no_progress extract_lets +onlyGivenNames z); first | (refine same_cut (a := a) (g := g) z ?_ fun hz => ?_) <;> [subst z; clear_value z] | clear_value z) | with_reducible first | assumption | apply sameE_error | apply sameE_ok | apply sameE_ite | apply State.writeSteps_same (by assumption) | apply State.countStat_same (by assumption) | fail_if_no_progress apply same_mk_free (by assumption) | apply same_ite | refine same_ofE (by assumption) ?_ | refine same_ofEP (by assumption) ?_ | split

def State.opResult_w (g : Piece) : Bool := State.resultOf_w g

theorem State.opResult_same {g : Piece} {a : State} (hg : State.opResult_w g = false) {s : State} (h : Same g a s) (x2 : _) :
    SameE g a (State.opResult s x2) := by
  simp only [State.opResult_w] at hg
  unfold State.opResult
  repeat' first | intro _ | with_reducible first | assumption | apply sameE_error | apply sameE_ok | apply State.resultOf_same (by assumption) | refine same_ofE (by assumption) ?_

def State.dmaEnd_w (g : Piece) : Bool := State.dmaPump_w g || State.dmaRelease_w g || State.opReads_w g || State.dmaDone_w g

theorem State.dmaEnd_same {g : Piece} {a : State} (hg : State.dmaEnd_w g = false) {s : State} (h : Same g a s) (x2 : _) (x3 : _) (x4 : _) :
    Same g a (State.dmaEnd s x2 x3 x4) := by
  simp only [State.dmaEnd_w, Bool.or_eq_false_iff] at hg
  repeat (have := hg.2; replace hg := hg.1)
  unfold State.dmaEnd
  repeat' first | intro _ | ((fail_if_no_progress extract_lets +onlyGivenNames z); (first | refine same_cut (a := a) (g := g) z ?_ fun hz => ?_ | refine same_cut2 (a := a) (g := g) z ?_ fun hz => ?_) <;> [subst z; clear_value z]) | with_reducible first | assumption | apply State.dmaPump_same (by assumption) | apply State.dmaRelease_same (by assumption) | apply State.opReads_same (by assumption) | apply State.dmaDone_same (by assumption) | apply same_ite | refine same_of2 (by assumption) ?_ | split

def execNormRms_w (g : Piece) : Bool := State.arrayInsn_w g

theorem execNormRms_same {g : Piece} {a : State} (hg : execNormRms_w g = false) {s : State} (h : Same g a s) (x1 : _) :
    SameR g a (execNormRms x1 s) := by
  simp only [execNormRms_w] at hg
  unfold execNormRms
  repeat' first | intro _ | with_reducible first | assumption | apply sameR_next | apply State.arrayInsn_same (by assumption) | split

def execMma_w (g : Piece) : Bool := State.arrayInsn_w g

theorem execMma_same {g : Piece} {a : State} (hg : execMma_w g = false) {s : State} (h : Same g a s) (x1 : _) :
    SameR g a (execMma x1 s) := by
  simp only [execMma_w] at hg
  unfold execMma
  repeat' first | intro _ | with_reducible first | assumption | apply sameR_next | apply State.arrayInsn_same (by assumption) | split

def execMmt_w (g : Piece) : Bool := State.arrayInsn_w g

theorem execMmt_same {g : Piece} {a : State} (hg : execMmt_w g = false) {s : State} (h : Same g a s) (x1 : _) :
    SameR g a (execMmt x1 s) := by
  simp only [execMmt_w] at hg
  unfold execMmt
  repeat' first | intro _ | with_reducible first | assumption | apply sameR_next | apply State.arrayInsn_same (by assumption) | split

def execDmaDescriptorDone_w (g : Piece) : Bool := State.dmaEnd_w g

theorem execDmaDescriptorDone_same {g : Piece} {a : State} (hg : execDmaDescriptorDone_w g = false) {s : State} (h : Same g a s) (x1 : _) :
    SameR g a (execDmaDescriptorDone x1 s) := by
  simp only [execDmaDescriptorDone_w] at hg
  unfold execDmaDescriptorDone
  repeat' first | intro _ | with_reducible first | assumption | apply sameR_next | apply sameR_ite | apply State.dmaEnd_same (by assumption) | apply same_ite | split

def execScatter_w (g : Piece) : Bool := State.issue_w g || State.startDma_w g

theorem execScatter_same {g : Piece} {a : State} (hg : execScatter_w g = false) {s : State} (h : Same g a s) (x1 : _) :
    SameR g a (execScatter x1 s) := by
  simp only [execScatter_w, Bool.or_eq_false_iff] at hg
  repeat (have := hg.2; replace hg := hg.1)
  unfold execScatter
  repeat' first | intro _ | with_reducible first | assumption | apply sameR_next | apply State.issue_same (by assumption) | apply State.startDma_same (by assumption) | split

def execDqnt_w (g : Piece) : Bool := State.arrayInsn_w g

theorem execDqnt_same {g : Piece} {a : State} (hg : execDqnt_w g = false) {s : State} (h : Same g a s) (x1 : _) :
    SameR g a (execDqnt x1 s) := by
  simp only [execDqnt_w] at hg
  unfold execDqnt
  repeat' first | intro _ | with_reducible first | assumption | apply sameR_next | apply State.arrayInsn_same (by assumption) | split

end Sys2Proof.Machine
end

