-- ==== Sys2Proof/Laws/SameFeed.lean ====
section
/-!
SUPPORT. Laws/SameFeed.lean: what the operations of Machine/Feed.lean may change, and that they leave the rest alone.
-/

set_option linter.unusedTactic false
set_option linter.unusedSimpArgs false
set_option linter.unusedVariables false
set_option linter.tactic.unusedName false
set_option linter.unreachableTactic false

namespace Sys2Proof.Machine

def State.postReq_w (g : Piece) : Bool := State.nextIssue_w g || State.repairHurry_w g || (g == .reqs)

theorem State.postReq_same {g : Piece} {a : State} (hg : State.postReq_w g = false) {s : State} (h : Same g a s) (x2 : _) (x3 : _) (x4 : _) (x5 : _) :
    Same g a (State.postReq s x2 x3 x4 x5) := by
  simp only [State.postReq_w, Bool.or_eq_false_iff] at hg
  repeat (have := hg.2; replace hg := hg.1)
  unfold State.postReq
  repeat' first | intro _ | ((fail_if_no_progress extract_lets +onlyGivenNames z); first | (first | refine same_cut (a := a) (g := g) z ?_ fun hz => ?_ | refine same_cut2 (a := a) (g := g) z ?_ fun hz => ?_) <;> [subst z; clear_value z] | clear_value z) | with_reducible first | assumption | apply State.nextIssue_same (by assumption) | apply State.repairHurry_same (by assumption) | fail_if_no_progress apply same_mk_reqs (by assumption) | refine same_of2 (by assumption) ?_

def State.layerLost_w (g : Piece) : Bool := State.loseJob_w g || State.faultJob_w g

theorem State.layerLost_same {g : Piece} {a : State} (hg : State.layerLost_w g = false) {s : State} (h : Same g a s) (x2 : _) (x3 : _) :
    SameO g a (State.layerLost s x2 x3) := by
  simp only [State.layerLost_w, Bool.or_eq_false_iff] at hg
  repeat (have := hg.2; replace hg := hg.1)
  unfold State.layerLost
  repeat' first | intro _ | ((fail_if_no_progress extract_lets +onlyGivenNames z); clear_value z) | with_reducible first | assumption | apply sameO_none | apply sameO_some | apply sameO_ite | apply State.loseJob_same (by assumption) | apply State.faultJob_same (by assumption) | apply same_ite | split

def State.postFrom_w (g : Piece) : Bool := State.setWait_w g || State.issueTicket_w g || State.layerLost_w g || State.postReq_w g

theorem State.postFrom_same {g : Piece} {a : State} (hg : State.postFrom_w g = false) {s : State} (h : Same g a s) (x1 : _) (x2 : _) (x3 : _) (x4 : _) (x5 : _) :
    Same g a (State.postFrom x1 x2 x3 x4 x5 s) := by
  simp only [State.postFrom_w, Bool.or_eq_false_iff] at hg
  repeat (have := hg.2; replace hg := hg.1)
  induction x4 generalizing s x5 <;> [skip; rename_i ih]
  all_goals unfold State.postFrom
  repeat' first | intro _ | ((fail_if_no_progress extract_lets +onlyGivenNames z); (refine same_cut (a := a) (g := g) z ?_ fun hz => ?_) <;> [subst z; clear_value z]) | with_reducible first | assumption | apply State.setWait_same (by assumption) | apply State.issueTicket_same (by assumption) | apply State.layerLost_same (by assumption) | apply State.postReq_same (by assumption) | apply same_ite | refine same_ofO (by assumption) ?_ | apply ih | split

def State.stitchIssue_w (g : Piece) : Bool := State.tensorTrap_w g || State.endJob_w g || State.layerLost_w g || State.keepTracker_w g || State.postFrom_w g || (g == .tix)

theorem State.stitchIssue_same {g : Piece} {a : State} (hg : State.stitchIssue_w g = false) {s : State} (h : Same g a s) (x2 : _) (x3 : _) :
    Same g a (State.stitchIssue s x2 x3) := by
  simp only [State.stitchIssue_w, Bool.or_eq_false_iff] at hg
  repeat (have := hg.2; replace hg := hg.1)
  unfold State.stitchIssue
  repeat' first | intro _ | ((fail_if_no_progress extract_lets +onlyGivenNames z); first | (refine same_cut (a := a) (g := g) z ?_ fun hz => ?_) <;> [subst z; clear_value z] | clear_value z) | with_reducible first | assumption | apply State.tensorTrap_same (by assumption) | apply State.endJob_same (by assumption) | apply State.layerLost_same (by assumption) | apply State.keepTracker_same (by assumption) | apply State.postFrom_same (by assumption) | fail_if_no_progress apply same_mk_tix (by assumption) | apply same_ite | refine same_ofO (by assumption) ?_ | split

def execStitch_w (g : Piece) : Bool := State.issue_w g || State.stitchIssue_w g

theorem execStitch_same {g : Piece} {a : State} (hg : execStitch_w g = false) {s : State} (h : Same g a s) (x1 : _) :
    SameR g a (execStitch x1 s) := by
  simp only [execStitch_w, Bool.or_eq_false_iff] at hg
  repeat (have := hg.2; replace hg := hg.1)
  unfold execStitch
  repeat' first | intro _ | with_reducible first | assumption | apply sameR_next | apply State.issue_same (by assumption) | apply State.stitchIssue_same (by assumption) | split

def State.feedPump_w (g : Piece) : Bool := State.stopAgain_w g || State.postFrom_w g

theorem State.feedPump_same {g : Piece} {a : State} (hg : State.feedPump_w g = false) {s : State} (h : Same g a s) :
    Same g a (State.feedPump s) := by
  simp only [State.feedPump_w, Bool.or_eq_false_iff] at hg
  repeat (have := hg.2; replace hg := hg.1)
  unfold State.feedPump
  repeat' first | intro _ | with_reducible first | assumption | apply State.each_same | apply State.stopAgain_same (by assumption) | apply State.postFrom_same (by assumption) | split

def execRstitch_w (g : Piece) : Bool := State.issue_w g || State.stitchIssue_w g

theorem execRstitch_same {g : Piece} {a : State} (hg : execRstitch_w g = false) {s : State} (h : Same g a s) (x1 : _) :
    SameR g a (execRstitch x1 s) := by
  simp only [execRstitch_w, Bool.or_eq_false_iff] at hg
  repeat (have := hg.2; replace hg := hg.1)
  unfold execRstitch
  repeat' first | intro _ | with_reducible first | assumption | apply sameR_next | apply State.issue_same (by assumption) | apply State.stitchIssue_same (by assumption) | split

def execFeederLoadDone_w (g : Piece) : Bool := State.jobRead_w g || State.faultJob_w g || State.updTile_w g

theorem execFeederLoadDone_same {g : Piece} {a : State} (hg : execFeederLoadDone_w g = false) {s : State} (h : Same g a s) (x1 : _) (x2 : _) :
    SameR g a (execFeederLoadDone x1 x2 s) := by
  simp only [execFeederLoadDone_w, Bool.or_eq_false_iff] at hg
  repeat (have := hg.2; replace hg := hg.1)
  unfold execFeederLoadDone
  repeat' first | intro _ | ((fail_if_no_progress extract_lets +onlyGivenNames z); first | (refine same_cut2 (a := a) (g := g) z ?_ fun hz => ?_) <;> [subst z; clear_value z] | clear_value z) | with_reducible first | assumption | apply sameR_next | apply sameR_ite | apply State.jobRead_same (by assumption) | apply State.faultJob_same (by assumption) | apply State.updTile_same (by assumption) | apply same_ite | refine same_of2 (by assumption) ?_ | split

end Sys2Proof.Machine
end

