-- ==== Sys2Proof/Laws/SameYoke.lean ====
section
/-!
SUPPORT. Laws/SameYoke.lean: what the operations of Machine/Yoke.lean may change, and that they leave the rest alone.
-/

set_option linter.unusedTactic false
set_option linter.unusedSimpArgs false
set_option linter.unusedVariables false
set_option linter.tactic.unusedName false
set_option linter.unreachableTactic false

namespace Sys2Proof.Machine

theorem same_cutK {g : Piece} {a : State} {P : Prop} (z : Pick) (h : Same g a z.s) (k : Same g a z.s → P) : P := k h
theorem sameK_mk {g : Piece} {a s : State} (h : Same g a s) (f : List Fire) (u : List Nat) (p : SMap Nat) (l : SMap Rat) (x : List Nat) :
    Same g a (Pick.mk s f u p l x).s := h
theorem sameK_ite {g : Piece} {a : State} {c : Prop} [Decidable c] {t u : Pick} (h : Same g a t.s) (k : Same g a u.s) :
    Same g a (if c then t else u).s := by
  split
  · exact h
  · exact k
theorem sameK_foldl {g : Piece} {a : State} {α : Type} {p : Pick} (h : Same g a p.s) (l : List α) (f : Pick → α → Pick)
    (hf : ∀ t x, Same g a t.s → Same g a (f t x).s) : Same g a (l.foldl f p).s := by
  induction l generalizing p with
  | nil => exact h
  | cons x l ih => exact ih (hf p x h)

def State.updStitch_w (g : Piece) : Bool := (g == .reqs)

theorem State.updStitch_same {g : Piece} {a : State} (hg : State.updStitch_w g = false) {s : State} (h : Same g a s) (x2 : _) (x3 : _) :
    Same g a (State.updStitch s x2 x3) := by
  simp only [State.updStitch_w] at hg
  unfold State.updStitch
  repeat' first | intro _ | with_reducible first | assumption | fail_if_no_progress apply same_mk_reqs (by assumption) | apply same_ite | split

def Pick.add_w (g : Piece) : Bool := (g == .fld .YOK_OVERBUDGET_COUNT) || (g == .fld .YOK_DEFERRED_COUNT)

theorem Pick.add_same {g : Piece} {a : State} (hg : Pick.add_w g = false) {p : Pick} (h : Same g a p.s) (x2 : _) (x3 : _) :
    Same g a (Pick.add p x2 x3).s := by
  simp only [Pick.add_w, Bool.or_eq_false_iff] at hg
  repeat (have := hg.2; replace hg := hg.1)
  unfold Pick.add
  repeat' first | intro _ | ((fail_if_no_progress extract_lets +onlyGivenNames z); first | (refine same_fn z ?_; subst z; beta_reduce) | clear_value z) | with_reducible first | assumption | apply bump_same (by assumption) | apply State.when_same | fail_if_no_progress refine sameK_mk ?_ _ _ _ _ _ | apply sameK_foldl | apply sameK_ite | apply same_ite | split

def Pick.tryRev_w (g : Piece) : Bool := State.faultJob_w g || Pick.add_w g

theorem Pick.tryRev_same {g : Piece} {a : State} (hg : Pick.tryRev_w g = false) {p : Pick} (h : Same g a p.s) (x2 : _) :
    Same g a (Pick.tryRev p x2).s := by
  simp only [Pick.tryRev_w, Bool.or_eq_false_iff] at hg
  repeat (have := hg.2; replace hg := hg.1)
  unfold Pick.tryRev
  repeat' first | intro _ | ((fail_if_no_progress extract_lets +onlyGivenNames z); (refine same_cutK (a := a) (g := g) z ?_ fun hz => ?_) <;> [subst z; clear_value z]) | with_reducible first | assumption | apply State.faultJob_same (by assumption) | apply Pick.add_same (by assumption) | fail_if_no_progress refine sameK_mk ?_ _ _ _ _ _ | apply sameK_foldl | apply sameK_ite | apply same_ite | split

def Pick.tryPass_w (g : Piece) : Bool := Pick.add_w g

theorem Pick.tryPass_same {g : Piece} {a : State} (hg : Pick.tryPass_w g = false) {p : Pick} (h : Same g a p.s) (x2 : _) :
    Same g a (Pick.tryPass p x2).s := by
  simp only [Pick.tryPass_w] at hg
  unfold Pick.tryPass
  repeat' first | intro _ | with_reducible first | assumption | apply Pick.add_same (by assumption) | fail_if_no_progress refine sameK_mk ?_ _ _ _ _ _ | apply sameK_foldl | apply sameK_ite | apply same_ite | split

def Pick.tryCheck_w (g : Piece) : Bool := Pick.add_w g

theorem Pick.tryCheck_same {g : Piece} {a : State} (hg : Pick.tryCheck_w g = false) {p : Pick} (h : Same g a p.s) (x2 : _) :
    Same g a (Pick.tryCheck p x2).s := by
  simp only [Pick.tryCheck_w] at hg
  unfold Pick.tryCheck
  repeat' first | intro _ | with_reducible first | assumption | apply Pick.add_same (by assumption) | fail_if_no_progress refine sameK_mk ?_ _ _ _ _ _ | apply sameK_foldl | apply sameK_ite | apply same_ite | split

def Pick.tryReq_w (g : Piece) : Bool := State.faultJob_w g || State.endJob_w g || Pick.add_w g || (g == .fld .DGA_ADDFULL_COUNT) || (g == .reqs) || (g == .aux .firings)

theorem Pick.tryReq_same {g : Piece} {a : State} (hg : Pick.tryReq_w g = false) {p : Pick} (h : Same g a p.s) (x2 : _) :
    Same g a (Pick.tryReq p x2).s := by
  simp only [Pick.tryReq_w, Bool.or_eq_false_iff] at hg
  repeat (have := hg.2; replace hg := hg.1)
  unfold Pick.tryReq
  repeat' first | intro _ | ((fail_if_no_progress extract_lets +onlyGivenNames z); first | (first | refine same_cut (a := a) (g := g) z ?_ fun hz => ?_ | refine same_cutK (a := a) (g := g) z ?_ fun hz => ?_) <;> [subst z; clear_value z] | clear_value z) | with_reducible first | assumption | apply State.faultJob_same (by assumption) | apply bump_same (by assumption) | apply State.endJob_same (by assumption) | apply Pick.add_same (by assumption) | apply setAx_same (by assumption) | fail_if_no_progress apply same_mk_reqs (by assumption) | fail_if_no_progress refine sameK_mk ?_ _ _ _ _ _ | apply sameK_foldl | apply sameK_ite | apply same_ite | split

def Pick.tryCal_w (g : Piece) : Bool := Pick.add_w g

theorem Pick.tryCal_same {g : Piece} {a : State} (hg : Pick.tryCal_w g = false) {p : Pick} (h : Same g a p.s) (x2 : _) :
    Same g a (Pick.tryCal p x2).s := by
  simp only [Pick.tryCal_w] at hg
  unfold Pick.tryCal
  repeat' first | intro _ | ((fail_if_no_progress extract_lets +onlyGivenNames z); clear_value z) | with_reducible first | assumption | apply Pick.add_same (by assumption) | fail_if_no_progress refine sameK_mk ?_ _ _ _ _ _ | apply sameK_foldl | apply sameK_ite | apply same_ite | split

def State.content_w (g : Piece) : Bool := Pick.tryRev_w g || Pick.tryPass_w g || Pick.tryCheck_w g || Pick.tryReq_w g || Pick.tryCal_w g

theorem State.content_same {g : Piece} {a : State} (hg : State.content_w g = false) {s : State} (h : Same g a s) :
    Same g a (State.content s).s := by
  simp only [State.content_w, Bool.or_eq_false_iff] at hg
  repeat (have := hg.2; replace hg := hg.1)
  unfold State.content
  repeat' first | intro _ | ((fail_if_no_progress extract_lets +onlyGivenNames z); (refine same_cutK (a := a) (g := g) z ?_ fun hz => ?_) <;> [subst z; clear_value z]) | with_reducible first | assumption | apply Pick.tryRev_same (by assumption) | apply Pick.tryPass_same (by assumption) | apply Pick.tryCheck_same (by assumption) | apply Pick.tryReq_same (by assumption) | apply Pick.tryCal_same (by assumption) | apply foldl_same | fail_if_no_progress refine sameK_mk ?_ _ _ _ _ _ | apply sameK_foldl | apply sameK_ite | split

def State.yokExpert_w (g : Piece) : Bool := (g == .fld .YOK_STATUS_EXPERT)

theorem State.yokExpert_same {g : Piece} {a : State} (hg : State.yokExpert_w g = false) {s : State} (h : Same g a s) :
    Same g a (State.yokExpert s) := by
  simp only [State.yokExpert_w] at hg
  unfold State.yokExpert
  repeat' first | intro _ | with_reducible first | assumption | apply wr_same (by assumption)

def State.lost_w (g : Piece) : Bool := (g == .fld .YOK_SKEW_LOSTS)

theorem State.lost_same {g : Piece} {a : State} (hg : State.lost_w g = false) {s : State} (h : Same g a s) (x2 : _) (x3 : _) :
    Same g a (State.lost s x2 x3) := by
  simp only [State.lost_w] at hg
  unfold State.lost
  repeat' first | intro _ | with_reducible first | assumption | apply bump_same (by assumption)

def execPeriodMarker_w (g : Piece) : Bool := State.lost_w g || (g == .aux .markerAt) || (g == .aux .missed) || (g == .aux .realign)

theorem execPeriodMarker_same {g : Piece} {a : State} (hg : execPeriodMarker_w g = false) {s : State} (h : Same g a s) (x1 : _) :
    SameR g a (execPeriodMarker x1 s) := by
  simp only [execPeriodMarker_w, Bool.or_eq_false_iff] at hg
  repeat (have := hg.2; replace hg := hg.1)
  unfold execPeriodMarker
  repeat' first | intro _ | ((fail_if_no_progress extract_lets +onlyGivenNames z); (refine same_cut (a := a) (g := g) z ?_ fun hz => ?_) <;> [subst z; clear_value z]) | with_reducible first | assumption | apply sameR_next | apply sameR_ite | apply State.lost_same (by assumption) | apply setAx_same (by assumption) | apply same_ite | split

def State.excuse_w (g : Piece) : Bool := (g == .reqs) || (g == .aux .moveAt) || (g == .aux .strobeAt)

theorem State.excuse_same {g : Piece} {a : State} (hg : State.excuse_w g = false) {s : State} (h : Same g a s) (x2 : _) :
    Same g a (State.excuse s x2) := by
  simp only [State.excuse_w, Bool.or_eq_false_iff] at hg
  repeat (have := hg.2; replace hg := hg.1)
  unfold State.excuse
  repeat' first | intro _ | ((fail_if_no_progress extract_lets +onlyGivenNames z); first | (refine same_cut (a := a) (g := g) z ?_ fun hz => ?_) <;> [subst z; clear_value z] | clear_value z) | with_reducible first | assumption | apply setAx_same (by assumption) | fail_if_no_progress apply same_mk_reqs (by assumption) | apply same_ite | split

def State.yokHandback_w (g : Piece) : Bool := State.excuse_w g || State.applyCaps_w g || (g == .fld .YOK_THROTTLE_TICKS) || (g == .fld .YOK_STATUS_EXPERT) || (g == .fld .YOK_IBUDGET_BUDGET) || (g == .fld .YOK_SETTLE_MAX) || (g == .fld .YOK_CTRL_SPLIT_EN) || (g == .fld .YOK_CTRL_HOLD_ALL)

theorem State.yokHandback_same {g : Piece} {a : State} (hg : State.yokHandback_w g = false) {s : State} (h : Same g a s) :
    Same g a (State.yokHandback s) := by
  simp only [State.yokHandback_w, Bool.or_eq_false_iff] at hg
  repeat (have := hg.2; replace hg := hg.1)
  unfold State.yokHandback
  repeat' first | intro _ | ((fail_if_no_progress extract_lets +onlyGivenNames z); (refine same_cut (a := a) (g := g) z ?_ fun hz => ?_) <;> [subst z; clear_value z]) | with_reducible first | assumption | apply State.excuse_same (by assumption) | apply State.applyCaps_same (by assumption) | apply wr_same (by assumption) | apply same_ite | split

def State.yokRefused_w (g : Piece) : Bool := (g == .fld .YOK_STATUS_REFUSED)

theorem State.yokRefused_same {g : Piece} {a : State} (hg : State.yokRefused_w g = false) {s : State} (h : Same g a s) :
    Same g a (State.yokRefused s) := by
  simp only [State.yokRefused_w] at hg
  unfold State.yokRefused
  repeat' first | intro _ | with_reducible first | assumption | apply wr_same (by assumption)

def execYokPeriodWrite_w (g : Piece) : Bool := State.order_w g || State.yokRefused_w g || (g == .fld .YOK_PERIOD_TICKS)

theorem execYokPeriodWrite_same {g : Piece} {a : State} (hg : execYokPeriodWrite_w g = false) {s : State} (h : Same g a s) (x1 : _) :
    SameR g a (execYokPeriodWrite x1 s) := by
  simp only [execYokPeriodWrite_w, Bool.or_eq_false_iff] at hg
  repeat (have := hg.2; replace hg := hg.1)
  unfold execYokPeriodWrite
  repeat' first | intro _ | ((fail_if_no_progress extract_lets +onlyGivenNames z); clear_value z) | with_reducible first | assumption | apply sameR_next | apply sameR_ite | apply State.order_same (by assumption) | apply State.yokRefused_same (by assumption) | apply wr_same (by assumption) | apply same_ite | split

def State.yokClear_w (g : Piece) : Bool := (g == .fld .YOK_MISS_COUNT) || (g == .fld .YOK_SPLITS_COUNT) || (g == .fld .YOK_EXTENDS_COUNT) || (g == .fld .YOK_THROTTLED_COUNT) || (g == .fld .YOK_DEFERRED_COUNT) || (g == .fld .YOK_OVERBUDGET_COUNT)

theorem State.yokClear_same {g : Piece} {a : State} (hg : State.yokClear_w g = false) {s : State} (h : Same g a s) :
    Same g a (State.yokClear s) := by
  simp only [State.yokClear_w, Bool.or_eq_false_iff] at hg
  repeat (have := hg.2; replace hg := hg.1)
  unfold State.yokClear
  simp only [State.each, List.foldl, yokCounters]
  repeat' first | intro _ | with_reducible first | assumption | apply State.each_same | apply wr_same | (unfold convSubField; split) | (unfold spareColField; split) | (unfold quotaField; split) | (unfold gateField; split) | (unfold readyField; split) | split

def execFeedQueueStarvation_w (g : Piece) : Bool := State.excuse_w g || State.timeout_w g

theorem execFeedQueueStarvation_same {g : Piece} {a : State} (hg : execFeedQueueStarvation_w g = false) {s : State} (h : Same g a s) (x1 : _) :
    SameR g a (execFeedQueueStarvation x1 s) := by
  simp only [execFeedQueueStarvation_w, Bool.or_eq_false_iff] at hg
  repeat (have := hg.2; replace hg := hg.1)
  unfold execFeedQueueStarvation
  repeat' first | intro _ | ((fail_if_no_progress extract_lets +onlyGivenNames z); first | (refine same_cut (a := a) (g := g) z ?_ fun hz => ?_) <;> [subst z; clear_value z] | clear_value z) | with_reducible first | assumption | apply sameR_next | apply sameR_ite | apply State.excuse_same (by assumption) | apply State.timeout_same (by assumption) | apply same_ite | split

def execYokCtrlHandback_w (g : Piece) : Bool := State.order_w g || State.yokHandback_w g

theorem execYokCtrlHandback_same {g : Piece} {a : State} (hg : execYokCtrlHandback_w g = false) {s : State} (h : Same g a s) (x1 : _) :
    SameR g a (execYokCtrlHandback x1 s) := by
  simp only [execYokCtrlHandback_w, Bool.or_eq_false_iff] at hg
  repeat (have := hg.2; replace hg := hg.1)
  unfold execYokCtrlHandback
  repeat' first | intro _ | with_reducible first | assumption | apply sameR_next | apply State.order_same (by assumption) | apply State.when_same | apply State.yokHandback_same (by assumption) | split

def execYokThrottleWrite_w (g : Piece) : Bool := State.order_w g || State.yokExpert_w g || (g == .fld .YOK_THROTTLE_TICKS)

theorem execYokThrottleWrite_same {g : Piece} {a : State} (hg : execYokThrottleWrite_w g = false) {s : State} (h : Same g a s) (x1 : _) :
    SameR g a (execYokThrottleWrite x1 s) := by
  simp only [execYokThrottleWrite_w, Bool.or_eq_false_iff] at hg
  repeat (have := hg.2; replace hg := hg.1)
  unfold execYokThrottleWrite
  repeat' first | intro _ | ((fail_if_no_progress extract_lets +onlyGivenNames z); clear_value z) | with_reducible first | assumption | apply sameR_next | apply sameR_ite | apply State.order_same (by assumption) | apply wr_same (by assumption) | apply State.yokExpert_same (by assumption) | apply same_ite | split

def execAccountingWindowEnd_w (g : Piece) : Bool := (g == .aux .rtOld) || (g == .aux .firings)

theorem execAccountingWindowEnd_same {g : Piece} {a : State} (hg : execAccountingWindowEnd_w g = false) {s : State} (h : Same g a s) :
    SameR g a (execAccountingWindowEnd s) := by
  simp only [execAccountingWindowEnd_w, Bool.or_eq_false_iff] at hg
  repeat (have := hg.2; replace hg := hg.1)
  unfold execAccountingWindowEnd
  repeat' first | intro _ | with_reducible first | assumption | apply sameR_next | apply State.each_same | apply setAx_same (by assumption)

def execYokCtrlHoldAllWrite_w (g : Piece) : Bool := State.order_w g || State.excuse_w g || State.yokExpert_w g || (g == .fld .YOK_STATUS_FIRING) || (g == .fld .YOK_CTRL_HOLD_ALL)

theorem execYokCtrlHoldAllWrite_same {g : Piece} {a : State} (hg : execYokCtrlHoldAllWrite_w g = false) {s : State} (h : Same g a s) (x1 : _) :
    SameR g a (execYokCtrlHoldAllWrite x1 s) := by
  simp only [execYokCtrlHoldAllWrite_w, Bool.or_eq_false_iff] at hg
  repeat (have := hg.2; replace hg := hg.1)
  unfold execYokCtrlHoldAllWrite
  repeat' first | intro _ | with_reducible first | assumption | apply sameR_next | apply sameR_ite | apply State.order_same (by assumption) | apply wr_same (by assumption) | apply State.excuse_same (by assumption) | apply State.yokExpert_same (by assumption) | apply same_ite | split

def State.fireTile_w (g : Piece) : Bool := State.updTile_w g || (g == .fld .DRV_STAT_LASTRAMP) || (g == .fld .DRV_CLAMP_COUNT) || (g == .fld .DRV_OUTRUN_COUNT) || (g == .fld .TIL_STITCHES_COUNT) || (g == .fld .HEM_RERUN_COUNT)

theorem State.fireTile_same {g : Piece} {a : State} (hg : State.fireTile_w g = false) {s : State} (h : Same g a s) (x2 : _) (x3 : _) (x4 : _) (x5 : _) (x6 : _) :
    Same g a (State.fireTile s x2 x3 x4 x5 x6) := by
  simp only [State.fireTile_w, Bool.or_eq_false_iff] at hg
  repeat (have := hg.2; replace hg := hg.1)
  unfold State.fireTile
  repeat' first | intro _ | ((fail_if_no_progress extract_lets +onlyGivenNames z); first | (refine same_cut (a := a) (g := g) z ?_ fun hz => ?_) <;> [subst z; clear_value z] | clear_value z) | with_reducible first | assumption | apply wr_same (by assumption) | apply bump_same (by assumption) | apply State.updTile_same (by assumption) | apply same_ite | split

def State.restOthers_w (g : Piece) : Bool := (g == .tiles)

theorem State.restOthers_same {g : Piece} {a : State} (hg : State.restOthers_w g = false) {s : State} (h : Same g a s) (x2 : _) :
    Same g a (State.restOthers s x2) := by
  simp only [State.restOthers_w] at hg
  unfold State.restOthers
  repeat' first | intro _ | ((fail_if_no_progress extract_lets +onlyGivenNames z); clear_value z) | with_reducible first | assumption | fail_if_no_progress apply same_mk_tiles (by assumption) | apply same_ite | split

def State.fire_w (g : Piece) : Bool := State.fireTile_w g || State.addJobFlag_w g || State.updJob_w g || (g == .checks) || (g == .cals) || (g == .aux .firings) || (g == .reqs)

theorem State.fire_same {g : Piece} {a : State} (hg : State.fire_w g = false) {s : State} (h : Same g a s) (x2 : _) (x3 : _) (x4 : _) (x5 : _) (hx2 : Same g a x2.s) :
    Same g a (State.fire s x2 x3 x4 x5) := by
  simp only [State.fire_w, Bool.or_eq_false_iff] at hg
  repeat (have := hg.2; replace hg := hg.1)
  unfold State.fire
  repeat' first | intro _ | ((fail_if_no_progress extract_lets +onlyGivenNames z); first | (refine same_cut (a := a) (g := g) z ?_ fun hz => ?_) <;> [subst z; clear_value z] | clear_value z) | exact hx2 | with_reducible first | assumption | apply State.each_same | apply State.fireTile_same (by assumption) | apply setAx_same (by assumption) | apply State.addJobFlag_same (by assumption) | apply State.updJob_same (by assumption) | fail_if_no_progress apply same_mk_cals (by assumption) | fail_if_no_progress apply same_mk_checks (by assumption) | fail_if_no_progress apply same_mk_reqs (by assumption) | apply same_ite | split

def State.runStitch_w (g : Piece) : Bool := State.fire_w g || State.restOthers_w g || (g == .fld .PKT_LIFE_STITCHES_COUNT) || (g == .fld .YOK_STATUS_FIRING) || (g == .fld .YOK_SETTLE_LAST) || (g == .fld .YOK_LASTSTROBE_TIME) || (g == .fld .YOK_STITCHNO_COUNT) || (g == .fld .YOK_SPLITS_COUNT) || (g == .fld .YOK_EXTENDS_COUNT)

theorem State.runStitch_same {g : Piece} {a : State} (hg : State.runStitch_w g = false) {s : State} (h : Same g a s) (x2 : _) (x3 : _) (hx2 : Same g a x2.s) :
    Same g a (State.runStitch s x2 x3) := by
  simp only [State.runStitch_w, Bool.or_eq_false_iff] at hg
  repeat (have := hg.2; replace hg := hg.1)
  unfold State.runStitch
  repeat' first | intro _ | ((fail_if_no_progress extract_lets +onlyGivenNames z); first | (refine same_cut (a := a) (g := g) z ?_ fun hz => ?_) <;> [subst z; clear_value z] | clear_value z) | exact hx2 | with_reducible first | assumption | apply wr_same (by assumption) | apply State.when_same | apply bump_same (by assumption) | apply State.fire_same (by assumption) | apply State.restOthers_same (by assumption) | apply foldl_same | split

def State.strobe_w (g : Piece) : Bool := State.switchWatch_w g || State.excuse_w g || State.updStitch_w g || State.addJobFlag_w g || State.content_w g || State.restOthers_w g || State.runStitch_w g || State.feedPump_w g || (g == .fld .YOK_STATUS_FIRING) || (g == .aux .periods) || (g == .fld .YOK_THROTTLED_COUNT) || (g == .aux .missed)

theorem State.strobe_same {g : Piece} {a : State} (hg : State.strobe_w g = false) {s : State} (h : Same g a s) :
    Same g a (State.strobe s) := by
  simp only [State.strobe_w, Bool.or_eq_false_iff] at hg
  repeat (have := hg.2; replace hg := hg.1)
  unfold State.strobe
  repeat' first | intro _ | ((fail_if_no_progress extract_lets +onlyGivenNames z); first | (first | refine same_cut (a := a) (g := g) z ?_ fun hz => ?_ | refine same_cutK (a := a) (g := g) z ?_ fun hz => ?_) <;> [subst z; clear_value z] | clear_value z) | with_reducible first | assumption | apply State.each_same | apply State.switchWatch_same (by assumption) | apply State.excuse_same (by assumption) | apply wr_same (by assumption) | apply State.when_same | apply setAx_same (by assumption) | apply bump_same (by assumption) | apply State.updStitch_same (by assumption) | apply State.addJobFlag_same (by assumption) | apply State.content_same (by assumption) | apply State.restOthers_same (by assumption) | apply State.runStitch_same (by assumption) | apply State.feedPump_same (by assumption) | apply same_ite | split

def execStitchStrobe_w (g : Piece) : Bool := State.strobe_w g

theorem execStitchStrobe_same {g : Piece} {a : State} (hg : execStitchStrobe_w g = false) {s : State} (h : Same g a s) :
    SameR g a (execStitchStrobe s) := by
  simp only [execStitchStrobe_w] at hg
  unfold execStitchStrobe
  repeat' first | intro _ | with_reducible first | assumption | apply sameR_next | apply sameR_ite | apply State.strobe_same (by assumption) | apply same_ite | split

def execYokeRoleMoveEnd_w (g : Piece) : Bool := State.excuse_w g || (g == .aux .moveAt) || (g == .fld .YOK_STATUS_MOVING)

theorem execYokeRoleMoveEnd_same {g : Piece} {a : State} (hg : execYokeRoleMoveEnd_w g = false) {s : State} (h : Same g a s) :
    SameR g a (execYokeRoleMoveEnd s) := by
  simp only [execYokeRoleMoveEnd_w, Bool.or_eq_false_iff] at hg
  repeat (have := hg.2; replace hg := hg.1)
  unfold execYokeRoleMoveEnd
  repeat' first | intro _ | with_reducible first | assumption | apply sameR_next | apply sameR_ite | apply setAx_same (by assumption) | apply wr_same (by assumption) | apply State.excuse_same (by assumption) | apply same_ite | split

def execFollowerRealign_w (g : Piece) : Bool := State.updTile_w g || (g == .aux .realign) || (g == .fld .YOK_STATUS_FOLLOWER_OFF)

theorem execFollowerRealign_same {g : Piece} {a : State} (hg : execFollowerRealign_w g = false) {s : State} (h : Same g a s) (x1 : _) :
    SameR g a (execFollowerRealign x1 s) := by
  simp only [execFollowerRealign_w, Bool.or_eq_false_iff] at hg
  repeat (have := hg.2; replace hg := hg.1)
  unfold execFollowerRealign
  repeat' first | intro _ | ((fail_if_no_progress extract_lets +onlyGivenNames z); (refine same_cut (a := a) (g := g) z ?_ fun hz => ?_) <;> [subst z; clear_value z]) | with_reducible first | assumption | apply sameR_next | apply sameR_ite | apply setAx_same (by assumption) | apply wr_same (by assumption) | apply State.each_same | apply State.updTile_same (by assumption) | apply same_ite | split

def execFollowerOff_w (g : Piece) : Bool := State.lost_w g || State.faultJobs_w g || (g == .fld .YOK_STATUS_FOLLOWER_OFF) || (g == .aux .missed) || (g == .aux .realign) || (g == .tiles) || (g == .reqs)

theorem execFollowerOff_same {g : Piece} {a : State} (hg : execFollowerOff_w g = false) {s : State} (h : Same g a s) (x1 : _) :
    SameR g a (execFollowerOff x1 s) := by
  simp only [execFollowerOff_w, Bool.or_eq_false_iff] at hg
  repeat (have := hg.2; replace hg := hg.1)
  unfold execFollowerOff
  repeat' first | intro _ | ((fail_if_no_progress extract_lets +onlyGivenNames z); first | (refine same_cut (a := a) (g := g) z ?_ fun hz => ?_) <;> [subst z; clear_value z] | clear_value z) | with_reducible first | assumption | apply sameR_next | apply sameR_ite | apply State.lost_same (by assumption) | apply wr_same (by assumption) | apply setAx_same (by assumption) | apply State.faultJobs_same (by assumption) | fail_if_no_progress apply same_mk_reqs (by assumption) | fail_if_no_progress apply same_mk_tiles (by assumption) | apply same_ite | split

def execYokCtrlClear_w (g : Piece) : Bool := State.order_w g || State.yokClear_w g

theorem execYokCtrlClear_same {g : Piece} {a : State} (hg : execYokCtrlClear_w g = false) {s : State} (h : Same g a s) (x1 : _) :
    SameR g a (execYokCtrlClear x1 s) := by
  simp only [execYokCtrlClear_w, Bool.or_eq_false_iff] at hg
  repeat (have := hg.2; replace hg := hg.1)
  unfold execYokCtrlClear
  repeat' first | intro _ | with_reducible first | assumption | apply sameR_next | apply State.order_same (by assumption) | apply State.when_same | apply State.yokClear_same (by assumption) | split

def execYokCtrlSplitEnWrite_w (g : Piece) : Bool := State.order_w g || State.yokExpert_w g || (g == .fld .YOK_CTRL_SPLIT_EN)

theorem execYokCtrlSplitEnWrite_same {g : Piece} {a : State} (hg : execYokCtrlSplitEnWrite_w g = false) {s : State} (h : Same g a s) (x1 : _) :
    SameR g a (execYokCtrlSplitEnWrite x1 s) := by
  simp only [execYokCtrlSplitEnWrite_w, Bool.or_eq_false_iff] at hg
  repeat (have := hg.2; replace hg := hg.1)
  unfold execYokCtrlSplitEnWrite
  repeat' first | intro _ | with_reducible first | assumption | apply sameR_next | apply sameR_ite | apply State.order_same (by assumption) | apply wr_same (by assumption) | apply State.yokExpert_same (by assumption) | apply same_ite | split

def execSkewRemeasure_w (g : Piece) : Bool := (g == .fld .YOK_SKEW_SKEW) || (g == .aux .missed)

theorem execSkewRemeasure_same {g : Piece} {a : State} (hg : execSkewRemeasure_w g = false) {s : State} (h : Same g a s) (x1 : _) (x2 : _) :
    SameR g a (execSkewRemeasure x1 x2 s) := by
  simp only [execSkewRemeasure_w, Bool.or_eq_false_iff] at hg
  repeat (have := hg.2; replace hg := hg.1)
  unfold execSkewRemeasure
  repeat' first | intro _ | ((fail_if_no_progress extract_lets +onlyGivenNames z); (refine same_cut (a := a) (g := g) z ?_ fun hz => ?_) <;> [subst z; clear_value z]) | with_reducible first | assumption | apply sameR_next | apply sameR_ite | apply wr_same (by assumption) | apply setAx_same (by assumption) | apply same_ite | split

end Sys2Proof.Machine
end

