-- ==== Sys2Proof/Laws/SameConv.lean ====
section
/-!
SUPPORT. Laws/SameConv.lean: what the operations of Machine/Conv.lean may change, and that they leave the rest alone.
-/

set_option linter.unusedTactic false
set_option linter.unusedSimpArgs false
set_option linter.unusedVariables false
set_option linter.tactic.unusedName false
set_option linter.unreachableTactic false

namespace Sys2Proof.Machine

def State.dropStitch_w (g : Piece) : Bool := (g == .reqs)

theorem State.dropStitch_same {g : Piece} {a : State} (hg : State.dropStitch_w g = false) {s : State} (h : Same g a s) (x2 : _) :
    Same g a (State.dropStitch s x2) := by
  simp only [State.dropStitch_w] at hg
  unfold State.dropStitch
  repeat' first | intro _ | with_reducible first | assumption | fail_if_no_progress apply same_mk_reqs (by assumption) | split

def State.lateness_w (g : Piece) : Bool := State.jobLate_w g || (g == .fld .YOK_MISS_COUNT)

theorem State.lateness_same {g : Piece} {a : State} (hg : State.lateness_w g = false) {s : State} (h : Same g a s) (x2 : _) :
    Same g a (State.lateness s x2).1 := by
  simp only [State.lateness_w, Bool.or_eq_false_iff] at hg
  repeat (have := hg.2; replace hg := hg.1)
  unfold State.lateness
  repeat' first | intro _ | with_reducible first | assumption | apply State.jobLate_same (by assumption) | apply bump_same (by assumption) | apply same_ite | split

def State.queueAdd_w (g : Piece) : Bool := State.nextIssue_w g || State.updStitch_w g || (g == .ops)

theorem State.queueAdd_same {g : Piece} {a : State} (hg : State.queueAdd_w g = false) {s : State} (h : Same g a s) (x2 : _) :
    Same g a (State.queueAdd s x2) := by
  simp only [State.queueAdd_w, Bool.or_eq_false_iff] at hg
  repeat (have := hg.2; replace hg := hg.1)
  unfold State.queueAdd
  repeat' first | intro _ | ((fail_if_no_progress extract_lets +onlyGivenNames z); first | (first | refine same_cut (a := a) (g := g) z ?_ fun hz => ?_ | refine same_cut2 (a := a) (g := g) z ?_ fun hz => ?_) <;> [subst z; clear_value z] | clear_value z) | with_reducible first | assumption | apply State.nextIssue_same (by assumption) | apply State.updStitch_same (by assumption) | fail_if_no_progress apply same_mk_ops (by assumption) | refine same_of2 (by assumption) ?_

def State.ticketShare_w (g : Piece) : Bool := State.ticketDone_w g || (g == .tix)

theorem State.ticketShare_same {g : Piece} {a : State} (hg : State.ticketShare_w g = false) {s : State} (h : Same g a s) (x2 : _) (x3 : _) (x4 : _) (x5 : _) :
    Same g a (State.ticketShare s x2 x3 x4 x5) := by
  simp only [State.ticketShare_w, Bool.or_eq_false_iff] at hg
  repeat (have := hg.2; replace hg := hg.1)
  unfold State.ticketShare
  repeat' first | intro _ | ((fail_if_no_progress extract_lets +onlyGivenNames z); clear_value z) | with_reducible first | assumption | apply State.ticketDone_same (by assumption) | fail_if_no_progress apply same_mk_tix (by assumption) | apply same_ite | split

def State.endRequest_w (g : Piece) : Bool := State.ticketShare_w g || State.addJobFlag_w g || State.dropStitch_w g

theorem State.endRequest_same {g : Piece} {a : State} (hg : State.endRequest_w g = false) {s : State} (h : Same g a s) (x2 : _) :
    Same g a (State.endRequest s x2) := by
  simp only [State.endRequest_w, Bool.or_eq_false_iff] at hg
  repeat (have := hg.2; replace hg := hg.1)
  unfold State.endRequest
  repeat' first | intro _ | with_reducible first | assumption | apply State.ticketShare_same (by assumption) | apply State.addJobFlag_same (by assumption) | apply State.dropStitch_same (by assumption)

def State.recordSteps_w (g : Piece) : Bool := State.setTracker_w g || State.updJob_w g || State.ticketShare_w g

theorem State.recordSteps_same {g : Piece} {a : State} (hg : State.recordSteps_w g = false) {s : State} (h : Same g a s) (x2 : _) (x3 : _) (x4 : _) :
    SameE g a (State.recordSteps s x2 x3 x4) := by
  simp only [State.recordSteps_w, Bool.or_eq_false_iff] at hg
  repeat (have := hg.2; replace hg := hg.1)
  induction x4 generalizing s <;> [skip; rename_i ih]
  all_goals unfold State.recordSteps
  repeat' first | intro _ | with_reducible first | assumption | apply sameE_error | apply sameE_ok | apply State.setTracker_same (by assumption) | apply State.updJob_same (by assumption) | apply State.ticketShare_same (by assumption) | refine same_ofE (by assumption) ?_ | apply ih | split

def State.writeOutputs_w (g : Piece) : Bool := State.jobWrites_w g || State.endRequest_w g || State.updJob_w g || State.addJobFlag_w g || State.dropStitch_w g || State.recordSteps_w g

theorem State.writeOutputs_same {g : Piece} {a : State} (hg : State.writeOutputs_w g = false) {s : State} (h : Same g a s) (x2 : _) :
    SameE g a (State.writeOutputs s x2) := by
  simp only [State.writeOutputs_w, Bool.or_eq_false_iff] at hg
  repeat (have := hg.2; replace hg := hg.1)
  unfold State.writeOutputs
  repeat' first | intro _ | ((fail_if_no_progress extract_lets +onlyGivenNames z); first | (refine same_cut (a := a) (g := g) z ?_ fun hz => ?_) <;> [subst z; clear_value z] | clear_value z) | with_reducible first | assumption | apply sameE_error | apply sameE_ok | apply sameE_ite | apply State.jobWrites_same (by assumption) | apply State.endRequest_same (by assumption) | apply State.updJob_same (by assumption) | apply State.addJobFlag_same (by assumption) | apply State.dropStitch_same (by assumption) | apply State.recordSteps_same (by assumption) | apply same_ite | refine same_ofE (by assumption) ?_ | split

def State.requestDone_w (g : Piece) : Bool := State.lateness_w g || State.queueAdd_w g || State.writeOutputs_w g || State.faultJob_w g || State.dropStitch_w g

theorem State.requestDone_same {g : Piece} {a : State} (hg : State.requestDone_w g = false) {s : State} (h : Same g a s) (x2 : _) :
    Same g a (State.requestDone s x2) := by
  simp only [State.requestDone_w, Bool.or_eq_false_iff] at hg
  repeat (have := hg.2; replace hg := hg.1)
  unfold State.requestDone
  repeat' first | intro _ | ((fail_if_no_progress extract_lets +onlyGivenNames z); first | (first | refine same_cut (a := a) (g := g) z ?_ fun hz => ?_ | refine same_cut1 (a := a) (g := g) z ?_ fun hz => ?_) <;> [subst z; clear_value z] | clear_value z) | with_reducible first | assumption | apply State.lateness_same (by assumption) | apply State.queueAdd_same (by assumption) | apply State.writeOutputs_same (by assumption) | apply State.faultJob_same (by assumption) | apply State.dropStitch_same (by assumption) | apply same_ite | refine same_ofE (by assumption) ?_ | refine same_of1 (by assumption) ?_ | split

def State.undefinedOut_w (g : Piece) : Bool := State.fresh_w g || State.jobWrite_w g || State.faultJob_w g

theorem State.undefinedOut_same {g : Piece} {a : State} (hg : State.undefinedOut_w g = false) {s : State} (h : Same g a s) (x2 : _) :
    Same g a (State.undefinedOut s x2) := by
  simp only [State.undefinedOut_w, Bool.or_eq_false_iff] at hg
  repeat (have := hg.2; replace hg := hg.1)
  unfold State.undefinedOut
  repeat' first | intro _ | ((fail_if_no_progress extract_lets +onlyGivenNames z); (refine same_cut2 (a := a) (g := g) z ?_ fun hz => ?_) <;> [subst z; clear_value z]) | with_reducible first | assumption | apply State.fresh_same (by assumption) | apply State.jobWrite_same (by assumption) | apply State.faultJob_same (by assumption) | refine same_ofE (by assumption) ?_ | refine same_of2 (by assumption) ?_ | split

def State.dueOr_w (g : Piece) : Bool := State.updStitch_w g

theorem State.dueOr_same {g : Piece} {a : State} (hg : State.dueOr_w g = false) {s : State} (h : Same g a s) (x2 : _) (x3 : _) :
    Same g a (State.dueOr s x2 x3) := by
  simp only [State.dueOr_w] at hg
  unfold State.dueOr
  repeat' first | intro _ | ((fail_if_no_progress extract_lets +onlyGivenNames z); clear_value z) | with_reducible first | assumption | apply State.updStitch_same (by assumption) | apply same_ite | split

def State.stitchEnded_w (g : Piece) : Bool := State.dropStitch_w g || State.requestDone_w g || State.undefinedOut_w g || State.dueOr_w g

theorem State.stitchEnded_same {g : Piece} {a : State} (hg : State.stitchEnded_w g = false) {s : State} (h : Same g a s) (x2 : _) :
    Same g a (State.stitchEnded s x2) := by
  simp only [State.stitchEnded_w, Bool.or_eq_false_iff] at hg
  repeat (have := hg.2; replace hg := hg.1)
  unfold State.stitchEnded
  repeat' first | intro _ | ((fail_if_no_progress extract_lets +onlyGivenNames z); (refine same_cut (a := a) (g := g) z ?_ fun hz => ?_) <;> [subst z; clear_value z]) | with_reducible first | assumption | apply State.dropStitch_same (by assumption) | apply State.requestDone_same (by assumption) | apply State.undefinedOut_same (by assumption) | apply State.dueOr_same (by assumption) | apply same_ite | split

def State.putTables_w (g : Piece) : Bool := (g == .fld .HEM_CFG_RANGE) || (g == .tabs)

theorem State.putTables_same {g : Piece} {a : State} (hg : State.putTables_w g = false) {s : State} (h : Same g a s) (x2 : _) (x3 : _) (x4 : _) :
    Same g a (State.putTables s x2 x3 x4) := by
  simp only [State.putTables_w, Bool.or_eq_false_iff] at hg
  repeat (have := hg.2; replace hg := hg.1)
  unfold State.putTables
  repeat' first | intro _ | with_reducible first | assumption | apply wr_same (by assumption) | apply State.each_same | fail_if_no_progress apply same_mk_tabs (by assumption) | split

def State.forwardCounts_w (g : Piece) : Bool := State.refCheck_w g || State.refSums_w g || State.elementFails_w g || (g == .fld .HEM_CSAT_COUNT)

theorem State.forwardCounts_same {g : Piece} {a : State} (hg : State.forwardCounts_w g = false) {s : State} (h : Same g a s) (x2 : _) (x3 : _) (x4 : _) (x5 : _) :
    Same g a (State.forwardCounts s x2 x3 x4 x5).1 := by
  simp only [State.forwardCounts_w, Bool.or_eq_false_iff] at hg
  repeat (have := hg.2; replace hg := hg.1)
  unfold State.forwardCounts
  repeat' first | intro _ | ((fail_if_no_progress extract_lets +onlyGivenNames z); first | (first | refine same_cut (a := a) (g := g) z ?_ fun hz => ?_ | refine same_cut1 (a := a) (g := g) z ?_ fun hz => ?_) <;> [subst z; clear_value z] | clear_value z) | with_reducible first | assumption | apply bump_same (by assumption) | apply State.refCheck_same (by assumption) | apply State.refSums_same (by assumption) | apply State.each_same | apply State.elementFails_same (by assumption) | apply foldl_same | apply same_ite | refine same_of1 (by assumption) ?_ | split

def State.hemOutputs_w (g : Piece) : Bool := State.updStitch_w g || State.countOuts_w g || (g == .fld .TIL_RSTITCHES_COUNT) || (g == .fld .HEM_OSAT_COUNT)

theorem State.hemOutputs_same {g : Piece} {a : State} (hg : State.hemOutputs_w g = false) {s : State} (h : Same g a s) (x2 : _) (x3 : _) (x4 : _) (x5 : _) (x6 : _) (x7 : _) (x8 : _) :
    Same g a (State.hemOutputs s x2 x3 x4 x5 x6 x7 x8) := by
  simp only [State.hemOutputs_w, Bool.or_eq_false_iff] at hg
  repeat (have := hg.2; replace hg := hg.1)
  unfold State.hemOutputs
  repeat' first | intro _ | ((fail_if_no_progress extract_lets +onlyGivenNames z); first | (refine same_cut (a := a) (g := g) z ?_ fun hz => ?_) <;> [subst z; clear_value z] | clear_value z) | with_reducible first | assumption | apply State.updStitch_same (by assumption) | apply bump_same (by assumption) | apply State.countOuts_same (by assumption) | apply same_ite | split

def State.hemForms_w (g : Piece) : Bool := State.forwardCounts_w g || State.hemOutputs_w g || State.checkEnd_w g || (g == .fld .HEM_RSAT_COUNT)

theorem State.hemForms_same {g : Piece} {a : State} (hg : State.hemForms_w g = false) {s : State} (h : Same g a s) (x2 : _) (x3 : _) (x4 : _) (x5 : _) :
    Same g a (State.hemForms s x2 x3 x4 x5).1 := by
  simp only [State.hemForms_w, Bool.or_eq_false_iff] at hg
  repeat (have := hg.2; replace hg := hg.1)
  unfold State.hemForms
  repeat' first | intro _ | ((fail_if_no_progress extract_lets +onlyGivenNames z); (first | refine same_cut (a := a) (g := g) z ?_ fun hz => ?_ | refine same_cut1 (a := a) (g := g) z ?_ fun hz => ?_) <;> [subst z; clear_value z]) | with_reducible first | assumption | apply bump_same (by assumption) | apply State.forwardCounts_same (by assumption) | apply State.hemOutputs_same (by assumption) | apply State.checkEnd_same (by assumption) | apply same_ite | refine same_of1 (by assumption) ?_ | split

def State.convFaults_w (g : Piece) : Bool := State.elementFails_w g || State.sameCodes_w g

theorem State.convFaults_same {g : Piece} {a : State} (hg : State.convFaults_w g = false) {s : State} (h : Same g a s) (x2 : _) (x3 : _) (x4 : _) (x5 : _) :
    Same g a (State.convFaults s x2 x3 x4 x5).1 := by
  simp only [State.convFaults_w, Bool.or_eq_false_iff] at hg
  repeat (have := hg.2; replace hg := hg.1)
  unfold State.convFaults
  repeat' first | intro _ | ((fail_if_no_progress extract_lets +onlyGivenNames z); first | (refine same_cut1 (a := a) (g := g) z ?_ fun hz => ?_) <;> [subst z; clear_value z] | clear_value z) | with_reducible first | assumption | apply State.elementFails_same (by assumption) | apply State.sameCodes_same (by assumption) | apply State.each_same | apply foldl_same | apply same_ite | refine same_of1 (by assumption) ?_ | split

def State.calCodes_w (g : Piece) : Bool := (g == .cals)

theorem State.calCodes_same {g : Piece} {a : State} (hg : State.calCodes_w g = false) {s : State} (h : Same g a s) (x2 : _) (x3 : _) (x4 : _) (x5 : _) :
    Same g a (State.calCodes s x2 x3 x4 x5) := by
  simp only [State.calCodes_w] at hg
  unfold State.calCodes
  repeat' first | intro _ | with_reducible first | assumption | fail_if_no_progress apply same_mk_cals (by assumption) | apply same_ite | split

def State.conversionsEnd_w (g : Piece) : Bool := State.cellsStick_w g || State.updTile_w g || State.hemForms_w g || State.putTables_w g || State.convFaults_w g || State.faultJob_w g || State.calCodes_w g || State.elementFails_w g || State.stitchEnded_w g || (g == .checks)

theorem State.conversionsEnd_same {g : Piece} {a : State} (hg : State.conversionsEnd_w g = false) {s : State} (h : Same g a s) (x2 : _) (x3 : _) (x4 : _) (x5 : _) :
    Same g a (State.conversionsEnd s x2 x3 x4 x5) := by
  simp only [State.conversionsEnd_w, Bool.or_eq_false_iff] at hg
  repeat (have := hg.2; replace hg := hg.1)
  unfold State.conversionsEnd
  repeat' first | intro _ | ((fail_if_no_progress extract_lets +onlyGivenNames z); (first | refine same_cut (a := a) (g := g) z ?_ fun hz => ?_ | refine same_cut1 (a := a) (g := g) z ?_ fun hz => ?_) <;> [subst z; clear_value z]) | with_reducible first | assumption | apply State.cellsStick_same (by assumption) | apply State.updTile_same (by assumption) | apply State.hemForms_same (by assumption) | apply State.putTables_same (by assumption) | apply State.convFaults_same (by assumption) | apply State.faultJob_same (by assumption) | apply State.calCodes_same (by assumption) | apply State.each_same | apply State.elementFails_same (by assumption) | apply State.stitchEnded_same (by assumption) | fail_if_no_progress apply same_mk_checks (by assumption) | apply same_ite | refine same_of1 (by assumption) ?_ | split

def execConversionsEnd_w (g : Piece) : Bool := State.conversionsEnd_w g

theorem execConversionsEnd_same {g : Piece} {a : State} (hg : execConversionsEnd_w g = false) {s : State} (h : Same g a s) (x1 : _) (x2 : _) (x3 : _) :
    SameR g a (execConversionsEnd x1 x2 x3 s) := by
  simp only [execConversionsEnd_w] at hg
  unfold execConversionsEnd
  repeat' first | intro _ | with_reducible first | assumption | apply sameR_next | apply sameR_ite | apply State.conversionsEnd_same (by assumption) | apply same_ite | split

def State.keepTables_w (g : Piece) : Bool := State.updTile_w g

theorem State.keepTables_same {g : Piece} {a : State} (hg : State.keepTables_w g = false) {s : State} (h : Same g a s) (x2 : _) (x3 : _) :
    Same g a (State.keepTables s x2 x3) := by
  simp only [State.keepTables_w] at hg
  unfold State.keepTables
  repeat' first | intro _ | ((fail_if_no_progress extract_lets +onlyGivenNames z); clear_value z) | with_reducible first | assumption | apply State.updTile_same (by assumption) | apply same_ite | split

end Sys2Proof.Machine
end

