-- ==== Sys2Proof/Laws/SameSeam.lean ====
section
/-!
SUPPORT. Laws/SameSeam.lean: what the operations of Machine/Seam.lean may change, and that they leave the rest alone.
-/

set_option linter.unusedTactic false
set_option linter.unusedSimpArgs false
set_option linter.unusedVariables false
set_option linter.tactic.unusedName false
set_option linter.unreachableTactic false

namespace Sys2Proof.Machine

def State.clearSuspect_w (g : Piece) : Bool := (g == .fld .TIL_STATUS_CAL_REJ_RUN) || (g == .fld .TIL_STATUS_SUSPECT)

theorem State.clearSuspect_same {g : Piece} {a : State} (hg : State.clearSuspect_w g = false) {s : State} (h : Same g a s) (x2 : _) (x3 : _) :
    Same g a (State.clearSuspect s x2 x3) := by
  simp only [State.clearSuspect_w, Bool.or_eq_false_iff] at hg
  repeat (have := hg.2; replace hg := hg.1)
  unfold State.clearSuspect
  repeat' first | intro _ | with_reducible first | assumption | apply wr_same (by assumption)

def State.swapTile_w (g : Piece) : Bool := State.setCause_w g || State.roundTileDone_w g || State.clearSuspect_w g || State.swapSlots_w g || State.place_w g || State.unplace_w g || State.joins_w g || State.toStaged_w g || State.endCal_w g || State.updRefresh_w g || State.progPush_w g || State.settle_w g || (g == .fld .TIL_STATUS_REPLACES) || (g == .fld .TIL_STATUS_HOLD_CAUSE) || (g == .fld .TIL_STATUS_STATE) || (g == .fld .TIL_CTRL_PRECISION) || (g == .aux .pendJoin) || (g == .aux .pendHold)

theorem State.swapTile_same {g : Piece} {a : State} (hg : State.swapTile_w g = false) {s : State} (h : Same g a s) (x2 : _) :
    Same g a (State.swapTile s x2) := by
  simp only [State.swapTile_w, Bool.or_eq_false_iff] at hg
  repeat (have := hg.2; replace hg := hg.1)
  unfold State.swapTile
  repeat' first | intro _ | ((fail_if_no_progress extract_lets +onlyGivenNames z); first | (refine same_cut (a := a) (g := g) z ?_ fun hz => ?_) <;> [subst z; clear_value z] | clear_value z) | with_reducible first | assumption | apply State.setCause_same (by assumption) | apply State.roundTileDone_same (by assumption) | apply State.clearSuspect_same (by assumption) | apply State.swapSlots_same (by assumption) | apply wr_same (by assumption) | apply State.place_same (by assumption) | apply State.unplace_same (by assumption) | apply State.joins_same (by assumption) | apply State.toStaged_same (by assumption) | apply State.endCal_same (by assumption) | apply State.updRefresh_same (by assumption) | apply setAx_same (by assumption) | apply State.progPush_same (by assumption) | apply State.settle_same (by assumption) | apply same_ite | split

def State.shareCuts_w (g : Piece) : Bool := (g == .aux .powerOld)

theorem State.shareCuts_same {g : Piece} {a : State} (hg : State.shareCuts_w g = false) {s : State} (h : Same g a s) (x2 : _) :
    Same g a (State.shareCuts s x2) := by
  simp only [State.shareCuts_w] at hg
  unfold State.shareCuts
  repeat' first | intro _ | with_reducible first | assumption | apply State.each_same | apply setAx_same (by assumption)

def State.switchMap_w (g : Piece) : Bool := State.capUpdate_w g || State.refreshReady_w g || State.mirrorState_w g || State.event_w g || State.completeCmd_w g || (g == .aux .switches) || (g == .aux .activeMap) || (g == .aux .switchAt) || (g == .aux .switchTarget) || (g == .aux .slotLost) || (g == .jobs)

theorem State.switchMap_same {g : Piece} {a : State} (hg : State.switchMap_w g = false) {s : State} (h : Same g a s) (x2 : _) (x3 : _) :
    Same g a (State.switchMap s x2 x3) := by
  simp only [State.switchMap_w, Bool.or_eq_false_iff] at hg
  repeat (have := hg.2; replace hg := hg.1)
  unfold State.switchMap
  repeat' first | intro _ | ((fail_if_no_progress extract_lets +onlyGivenNames z); first | (refine same_cut (a := a) (g := g) z ?_ fun hz => ?_) <;> [subst z; clear_value z] | clear_value z) | with_reducible first | assumption | apply setAx_same (by assumption) | apply State.capUpdate_same (by assumption) | apply State.each_same | apply State.refreshReady_same (by assumption) | apply State.mirrorState_same (by assumption) | apply State.event_same (by assumption) | apply State.completeCmd_same (by assumption) | fail_if_no_progress apply same_mk_jobs (by assumption) | apply same_ite | split

def State.noteHeld_w (g : Piece) : Bool := State.updRefresh_w g

theorem State.noteHeld_same {g : Piece} {a : State} (hg : State.noteHeld_w g = false) {s : State} (h : Same g a s) (x2 : _) (x3 : _) :
    Same g a (State.noteHeld s x2 x3) := by
  simp only [State.noteHeld_w] at hg
  unfold State.noteHeld
  repeat' first | intro _ | with_reducible first | assumption | apply State.updRefresh_same (by assumption) | apply same_ite | split

def State.seam_w (g : Piece) : Bool := State.keepTables_w g || State.switchMap_w g || State.swapTile_w g || State.noteHeld_w g || State.seamState_w g || State.seamConverters_w g || State.seamSettings_w g || State.updTile_w g || State.rampTile_w g || State.replSeam_w g || State.shareCuts_w g || State.capUpdate_w g || State.pump_w g || (g == .aux .seamDue) || (g == .aux .seamAt)

theorem State.seam_same {g : Piece} {a : State} (hg : State.seam_w g = false) {s : State} (h : Same g a s) (x2 : _) (x3 : _) (x4 : _) :
    Same g a (State.seam s x2 x3 x4) := by
  simp only [State.seam_w, Bool.or_eq_false_iff] at hg
  repeat (have := hg.2; replace hg := hg.1)
  unfold State.seam
  repeat' first | intro _ | ((fail_if_no_progress extract_lets +onlyGivenNames z); first | (refine same_cut (a := a) (g := g) z ?_ fun hz => ?_) <;> [subst z; clear_value z] | clear_value z) | with_reducible first | assumption | apply State.each_same | apply State.keepTables_same (by assumption) | apply State.switchMap_same (by assumption) | apply State.swapTile_same (by assumption) | apply State.noteHeld_same (by assumption) | apply State.seamState_same (by assumption) | apply State.seamConverters_same (by assumption) | apply State.seamSettings_same (by assumption) | apply State.updTile_same (by assumption) | apply State.rampTile_same (by assumption) | apply State.replSeam_same (by assumption) | apply State.shareCuts_same (by assumption) | apply setAx_same (by assumption) | apply State.capUpdate_same (by assumption) | apply State.pump_same (by assumption) | apply same_ite | split

def execMapSwitchDrainLimit_w (g : Piece) : Bool := State.seam_w g || State.faultJobs_w g

theorem execMapSwitchDrainLimit_same {g : Piece} {a : State} (hg : execMapSwitchDrainLimit_w g = false) {s : State} (h : Same g a s) (x1 : _) :
    SameR g a (execMapSwitchDrainLimit x1 s) := by
  simp only [execMapSwitchDrainLimit_w, Bool.or_eq_false_iff] at hg
  repeat (have := hg.2; replace hg := hg.1)
  unfold execMapSwitchDrainLimit
  repeat' first | intro _ | ((fail_if_no_progress extract_lets +onlyGivenNames z); clear_value z) | with_reducible first | assumption | apply sameR_next | apply sameR_ite | apply State.seam_same (by assumption) | apply State.faultJobs_same (by assumption) | apply same_ite | split

def execSeamPass_w (g : Piece) : Bool := State.seam_w g

theorem execSeamPass_same {g : Piece} {a : State} (hg : execSeamPass_w g = false) {s : State} (h : Same g a s) (x1 : _) :
    SameR g a (execSeamPass x1 s) := by
  simp only [execSeamPass_w] at hg
  unfold execSeamPass
  repeat' first | intro _ | ((fail_if_no_progress extract_lets +onlyGivenNames z); clear_value z) | with_reducible first | assumption | apply sameR_next | apply sameR_ite | apply State.seam_same (by assumption) | apply same_ite | split

def execSeamDue_w (g : Piece) : Bool := (g == .aux .seamDue)

theorem execSeamDue_same {g : Piece} {a : State} (hg : execSeamDue_w g = false) {s : State} (h : Same g a s) (x1 : _) :
    SameR g a (execSeamDue x1 s) := by
  simp only [execSeamDue_w] at hg
  unfold execSeamDue
  repeat' first | intro _ | with_reducible first | assumption | apply sameR_next | apply sameR_ite | apply setAx_same (by assumption) | apply same_ite | split

end Sys2Proof.Machine
end

