-- ==== Sys2Proof/Laws/SameRot.lean ====
section
/-!
SUPPORT. Laws/SameRot.lean: what the operations of Machine/Rot.lean may change, and that they leave the rest alone.
-/

set_option linter.unusedTactic false
set_option linter.unusedSimpArgs false
set_option linter.unusedVariables false
set_option linter.tactic.unusedName false
set_option linter.unreachableTactic false

namespace Sys2Proof.Machine

def State.arrayWaits_w (g : Piece) : Bool := (g == .fld .DGA_OPWAIT_COUNT) || (g == .fld .DGA_GUS_LATE_COUNT) || (g == .fld .DGA_GUS_STALL_COUNT) || (g == .ops)

theorem State.arrayWaits_same {g : Piece} {a : State} (hg : State.arrayWaits_w g = false) {s : State} (h : Same g a s) (x2 : _) (x3 : _) (x4 : _) (x5 : _) :
    Same g a (State.arrayWaits s x2 x3 x4 x5) := by
  simp only [State.arrayWaits_w, Bool.or_eq_false_iff] at hg
  repeat (have := hg.2; replace hg := hg.1)
  unfold State.arrayWaits
  repeat' first | intro _ | ((fail_if_no_progress extract_lets +onlyGivenNames z); first | (refine same_cut (a := a) (g := g) z ?_ fun hz => ?_) <;> [subst z; clear_value z] | clear_value z) | with_reducible first | assumption | apply bump_same (by assumption) | fail_if_no_progress apply same_mk_ops (by assumption) | apply same_ite | split

def State.addDone_w (g : Piece) : Bool := State.jobWrite_w g || State.faultJob_w g || State.dropStitch_w g || State.endRequest_w g || (g == .ops) || (g == .fld .DGA_SAT_COUNT)

theorem State.addDone_same {g : Piece} {a : State} (hg : State.addDone_w g = false) {s : State} (h : Same g a s) (x2 : _) :
    Same g a (State.addDone s x2) := by
  simp only [State.addDone_w, Bool.or_eq_false_iff] at hg
  repeat (have := hg.2; replace hg := hg.1)
  unfold State.addDone
  repeat' first | intro _ | ((fail_if_no_progress extract_lets +onlyGivenNames z); first | (refine same_cut (a := a) (g := g) z ?_ fun hz => ?_) <;> [subst z; clear_value z] | clear_value z) | with_reducible first | assumption | apply bump_same (by assumption) | apply State.jobWrite_same (by assumption) | apply State.faultJob_same (by assumption) | apply State.dropStitch_same (by assumption) | apply State.endRequest_same (by assumption) | fail_if_no_progress apply same_mk_ops (by assumption) | refine same_ofE (by assumption) ?_ | split

def State.arrayDone_w (g : Piece) : Bool := State.addDone_w g || State.opReads_w g || State.finishOp_w g || State.resultOf_w g || State.opResult_w g || (g == .fld .DGA_GUS_BYTES_COUNT) || (g == .fld .DGA_MACS_COUNT)

theorem State.arrayDone_same {g : Piece} {a : State} (hg : State.arrayDone_w g = false) {s : State} (h : Same g a s) (x2 : _) (x3 : _) :
    Same g a (State.arrayDone s x2 x3) := by
  simp only [State.arrayDone_w, Bool.or_eq_false_iff] at hg
  repeat (have := hg.2; replace hg := hg.1)
  unfold State.arrayDone
  repeat' first | intro _ | ((fail_if_no_progress extract_lets +onlyGivenNames z); (first | refine same_cut (a := a) (g := g) z ?_ fun hz => ?_ | refine same_cut2 (a := a) (g := g) z ?_ fun hz => ?_) <;> [subst z; clear_value z]) | with_reducible first | assumption | apply State.addDone_same (by assumption) | apply bump_same (by assumption) | apply State.opReads_same (by assumption) | apply State.finishOp_same (by assumption) | apply State.resultOf_same (by assumption) | apply State.opResult_same (by assumption) | apply same_ite | refine same_ofE (by assumption) ?_ | refine same_of2 (by assumption) ?_ | split

def execArrayBlockEnd_w (g : Piece) : Bool := State.arrayWaits_w g || State.blockEnd_w g || State.arrayDone_w g || State.arrayPick_w g

theorem execArrayBlockEnd_same {g : Piece} {a : State} (hg : execArrayBlockEnd_w g = false) {s : State} (h : Same g a s) (x1 : _) (x2 : _) (x3 : _) (x4 : _) (x5 : _) :
    SameR g a (execArrayBlockEnd x1 x2 x3 x4 x5 s) := by
  simp only [execArrayBlockEnd_w, Bool.or_eq_false_iff] at hg
  repeat (have := hg.2; replace hg := hg.1)
  unfold execArrayBlockEnd
  repeat' first | intro _ | ((fail_if_no_progress extract_lets +onlyGivenNames z); (first | refine same_cut (a := a) (g := g) z ?_ fun hz => ?_ | refine same_cut1 (a := a) (g := g) z ?_ fun hz => ?_) <;> [subst z; clear_value z]) | with_reducible first | assumption | apply sameR_next | apply sameR_ite | apply State.arrayWaits_same (by assumption) | apply State.blockEnd_same (by assumption) | apply State.arrayDone_same (by assumption) | apply State.arrayPick_same (by assumption) | apply same_ite | refine same_of1 (by assumption) ?_ | split

def State.rotIssue_w (g : Piece) : Bool := State.tensorTrap_w g || State.launch_w g

theorem State.rotIssue_same {g : Piece} {a : State} (hg : State.rotIssue_w g = false) {s : State} (h : Same g a s) (x2 : _) :
    Same g a (State.rotIssue s x2) := by
  simp only [State.rotIssue_w, Bool.or_eq_false_iff] at hg
  repeat (have := hg.2; replace hg := hg.1)
  unfold State.rotIssue
  repeat' first | intro _ | ((fail_if_no_progress extract_lets +onlyGivenNames z); clear_value z) | with_reducible first | assumption | apply State.tensorTrap_same (by assumption) | apply State.launch_same (by assumption) | split

def execRot_w (g : Piece) : Bool := State.issue_w g || State.rotIssue_w g

theorem execRot_same {g : Piece} {a : State} (hg : execRot_w g = false) {s : State} (h : Same g a s) (x1 : _) :
    SameR g a (execRot x1 s) := by
  simp only [execRot_w, Bool.or_eq_false_iff] at hg
  repeat (have := hg.2; replace hg := hg.1)
  unfold execRot
  repeat' first | intro _ | with_reducible first | assumption | apply sameR_next | apply State.issue_same (by assumption) | apply State.rotIssue_same (by assumption) | split

def execMapsel_w (g : Piece) : Bool := State.issue_w g || State.retire_w g || State.trapAt_w g

theorem execMapsel_same {g : Piece} {a : State} (hg : execMapsel_w g = false) {s : State} (h : Same g a s) (x1 : _) :
    SameR g a (execMapsel x1 s) := by
  simp only [execMapsel_w, Bool.or_eq_false_iff] at hg
  repeat (have := hg.2; replace hg := hg.1)
  unfold execMapsel
  repeat' first | intro _ | ((fail_if_no_progress extract_lets +onlyGivenNames z); clear_value z) | with_reducible first | assumption | apply sameR_next | apply sameR_ite | apply State.issue_same (by assumption) | apply State.retire_same (by assumption) | apply State.trapAt_same (by assumption) | apply same_ite | split

end Sys2Proof.Machine
end

