-- ==== Sys2Proof/Laws/SameMaint.lean ====
section
/-!
SUPPORT. Laws/SameMaint.lean: what the operations of Machine/Maint.lean may change, and that they leave the rest alone.
-/

set_option linter.unusedTactic false
set_option linter.unusedSimpArgs false
set_option linter.unusedVariables false
set_option linter.tactic.unusedName false
set_option linter.unreachableTactic false

namespace Sys2Proof.Machine

def State.maintEnd_w (g : Piece) : Bool := State.opDone_w g

theorem State.maintEnd_same {g : Piece} {a : State} (hg : State.maintEnd_w g = false) {s : State} (h : Same g a s) (x2 : _) (x3 : _) :
    Same g a (State.maintEnd s x2 x3) := by
  simp only [State.maintEnd_w] at hg
  unfold State.maintEnd
  repeat' first | intro _ | with_reducible first | assumption | apply State.opDone_same (by assumption)

def State.maintRuns_w (g : Piece) : Bool := (g == .ops)

theorem State.maintRuns_same {g : Piece} {a : State} (hg : State.maintRuns_w g = false) {s : State} (h : Same g a s) (x2 : _) :
    Same g a (State.maintRuns s x2) := by
  simp only [State.maintRuns_w] at hg
  unfold State.maintRuns
  repeat' first | intro _ | with_reducible first | assumption | fail_if_no_progress apply same_mk_ops (by assumption) | apply same_ite | split

def State.maintCal_w (g : Piece) : Bool := State.calExpertShow_w g || State.updTile_w g || State.maintRuns_w g || State.traceStart_w g || State.maintEnd_w g || State.startCal_w g || State.fullStart_w g || (g == .aux .calExpert)

theorem State.maintCal_same {g : Piece} {a : State} (hg : State.maintCal_w g = false) {s : State} (h : Same g a s) (x2 : _) (x3 : _) (x4 : _) :
    Same g a (State.maintCal s x2 x3 x4) := by
  simp only [State.maintCal_w, Bool.or_eq_false_iff] at hg
  repeat (have := hg.2; replace hg := hg.1)
  unfold State.maintCal
  repeat' first | intro _ | ((fail_if_no_progress extract_lets +onlyGivenNames z); first | (refine same_fn z ?_; subst z; beta_reduce) | clear_value z) | with_reducible first | assumption | apply State.calExpertShow_same (by assumption) | apply State.updTile_same (by assumption) | apply State.maintRuns_same (by assumption) | apply State.traceStart_same (by assumption) | apply setAx_same (by assumption) | apply State.maintEnd_same (by assumption) | apply State.startCal_same (by assumption) | apply State.fullStart_same (by assumption) | apply same_ite | split

def State.maintReq_w (g : Piece) : Bool := State.progPush_w g || State.tilExpert_w g || State.maintRuns_w g

theorem State.maintReq_same {g : Piece} {a : State} (hg : State.maintReq_w g = false) {s : State} (h : Same g a s) (x2 : _) (x3 : _) :
    Same g a (State.maintReq s x2 x3) := by
  simp only [State.maintReq_w, Bool.or_eq_false_iff] at hg
  repeat (have := hg.2; replace hg := hg.1)
  unfold State.maintReq
  repeat' first | intro _ | with_reducible first | assumption | apply State.progPush_same (by assumption) | apply State.tilExpert_same (by assumption) | apply State.maintRuns_same (by assumption)

def State.maintClear_w (g : Piece) : Bool := State.maintReq_w g || State.maintEnd_w g

theorem State.maintClear_same {g : Piece} {a : State} (hg : State.maintClear_w g = false) {s : State} (h : Same g a s) (x2 : _) (x3 : _) (x4 : _) :
    Same g a (State.maintClear s x2 x3 x4) := by
  simp only [State.maintClear_w, Bool.or_eq_false_iff] at hg
  repeat (have := hg.2; replace hg := hg.1)
  unfold State.maintClear
  repeat' first | intro _ | ((fail_if_no_progress extract_lets +onlyGivenNames z); clear_value z) | with_reducible first | assumption | apply State.maintReq_same (by assumption) | apply State.maintEnd_same (by assumption) | apply same_ite | split

def State.maintProg_w (g : Piece) : Bool := State.maintEnd_w g || State.faultJob_w g || State.maintReq_w g

theorem State.maintProg_same {g : Piece} {a : State} (hg : State.maintProg_w g = false) {s : State} (h : Same g a s) (x2 : _) (x3 : _) (x4 : _) (x5 : _) :
    Same g a (State.maintProg s x2 x3 x4 x5) := by
  simp only [State.maintProg_w, Bool.or_eq_false_iff] at hg
  repeat (have := hg.2; replace hg := hg.1)
  unfold State.maintProg
  repeat' first | intro _ | ((fail_if_no_progress extract_lets +onlyGivenNames z); clear_value z) | with_reducible first | assumption | apply State.maintEnd_same (by assumption) | apply State.faultJob_same (by assumption) | apply State.maintReq_same (by assumption) | apply same_ite | split

def State.maintVerify_w (g : Piece) : Bool := State.maintEnd_w g || State.faultJob_w g || State.maintReq_w g

theorem State.maintVerify_same {g : Piece} {a : State} (hg : State.maintVerify_w g = false) {s : State} (h : Same g a s) (x2 : _) (x3 : _) (x4 : _) (x5 : _) :
    Same g a (State.maintVerify s x2 x3 x4 x5) := by
  simp only [State.maintVerify_w, Bool.or_eq_false_iff] at hg
  repeat (have := hg.2; replace hg := hg.1)
  unfold State.maintVerify
  repeat' first | intro _ | ((fail_if_no_progress extract_lets +onlyGivenNames z); clear_value z) | with_reducible first | assumption | apply State.maintEnd_same (by assumption) | apply State.faultJob_same (by assumption) | apply State.maintReq_same (by assumption) | apply same_ite | split

def State.maintRefresh_w (g : Piece) : Bool := State.scheduleRefresh_w g || State.tilExpert_w g || State.maintRuns_w g || State.maintEnd_w g

theorem State.maintRefresh_same {g : Piece} {a : State} (hg : State.maintRefresh_w g = false) {s : State} (h : Same g a s) (x2 : _) (x3 : _) (x4 : _) :
    Same g a (State.maintRefresh s x2 x3 x4) := by
  simp only [State.maintRefresh_w, Bool.or_eq_false_iff] at hg
  repeat (have := hg.2; replace hg := hg.1)
  unfold State.maintRefresh
  repeat' first | intro _ | with_reducible first | assumption | apply State.scheduleRefresh_same (by assumption) | apply State.tilExpert_same (by assumption) | apply State.maintRuns_same (by assumption) | apply State.maintEnd_same (by assumption) | apply same_ite | split

def State.maintTry_w (g : Piece) : Bool := State.maintEnd_w g || State.maintCal_w g || State.maintClear_w g || State.maintProg_w g || State.maintVerify_w g || State.maintRefresh_w g

theorem State.maintTry_same {g : Piece} {a : State} (hg : State.maintTry_w g = false) {s : State} (h : Same g a s) (x2 : _) :
    Same g a (State.maintTry s x2) := by
  simp only [State.maintTry_w, Bool.or_eq_false_iff] at hg
  repeat (have := hg.2; replace hg := hg.1)
  unfold State.maintTry
  repeat' first | intro _ | ((fail_if_no_progress extract_lets +onlyGivenNames z); clear_value z) | with_reducible first | assumption | apply State.maintEnd_same (by assumption) | apply State.maintCal_same (by assumption) | apply State.maintClear_same (by assumption) | apply State.maintProg_same (by assumption) | apply State.maintVerify_same (by assumption) | apply State.maintRefresh_same (by assumption) | apply same_ite | split

def State.maintIssue_w (g : Piece) : Bool := State.launch_w g || State.maintEnd_w g || State.superseded_w g || State.maintTry_w g

theorem State.maintIssue_same {g : Piece} {a : State} (hg : State.maintIssue_w g = false) {s : State} (h : Same g a s) (x2 : _) (x3 : _) :
    Same g a (State.maintIssue s x2 x3) := by
  simp only [State.maintIssue_w, Bool.or_eq_false_iff] at hg
  repeat (have := hg.2; replace hg := hg.1)
  unfold State.maintIssue
  repeat' first | intro _ | ((fail_if_no_progress extract_lets +onlyGivenNames z); (refine same_cut (a := a) (g := g) z ?_ fun hz => ?_) <;> [subst z; clear_value z]) | with_reducible first | assumption | apply State.launch_same (by assumption) | apply State.maintEnd_same (by assumption) | apply State.superseded_same (by assumption) | apply State.maintTry_same (by assumption) | apply same_ite | split

def execRefresh_w (g : Piece) : Bool := State.issue_w g || State.maintIssue_w g

theorem execRefresh_same {g : Piece} {a : State} (hg : execRefresh_w g = false) {s : State} (h : Same g a s) (x1 : _) (x2 : _) :
    SameR g a (execRefresh x1 x2 s) := by
  simp only [execRefresh_w, Bool.or_eq_false_iff] at hg
  repeat (have := hg.2; replace hg := hg.1)
  unfold execRefresh
  repeat' first | intro _ | with_reducible first | assumption | apply sameR_next | apply State.issue_same (by assumption) | apply State.maintIssue_same (by assumption) | split

def State.maintPump_w (g : Piece) : Bool := State.maintTry_w g

theorem State.maintPump_same {g : Piece} {a : State} (hg : State.maintPump_w g = false) {s : State} (h : Same g a s) :
    Same g a (State.maintPump s) := by
  simp only [State.maintPump_w] at hg
  unfold State.maintPump
  repeat' first | intro _ | with_reducible first | assumption | apply State.each_same | apply State.maintTry_same (by assumption) | split

def execCal_w (g : Piece) : Bool := State.issue_w g || State.maintIssue_w g

theorem execCal_same {g : Piece} {a : State} (hg : execCal_w g = false) {s : State} (h : Same g a s) (x1 : _) (x2 : _) :
    SameR g a (execCal x1 x2 s) := by
  simp only [execCal_w, Bool.or_eq_false_iff] at hg
  repeat (have := hg.2; replace hg := hg.1)
  unfold execCal
  repeat' first | intro _ | with_reducible first | assumption | apply sameR_next | apply State.issue_same (by assumption) | apply State.maintIssue_same (by assumption) | split

def execProg_w (g : Piece) : Bool := State.issue_w g || State.maintIssue_w g

theorem execProg_same {g : Piece} {a : State} (hg : execProg_w g = false) {s : State} (h : Same g a s) (x1 : _) (x2 : _) :
    SameR g a (execProg x1 x2 s) := by
  simp only [execProg_w, Bool.or_eq_false_iff] at hg
  repeat (have := hg.2; replace hg := hg.1)
  unfold execProg
  repeat' first | intro _ | with_reducible first | assumption | apply sameR_next | apply State.issue_same (by assumption) | apply State.maintIssue_same (by assumption) | split

def execVerify_w (g : Piece) : Bool := State.issue_w g || State.maintIssue_w g

theorem execVerify_same {g : Piece} {a : State} (hg : execVerify_w g = false) {s : State} (h : Same g a s) (x1 : _) (x2 : _) :
    SameR g a (execVerify x1 x2 s) := by
  simp only [execVerify_w, Bool.or_eq_false_iff] at hg
  repeat (have := hg.2; replace hg := hg.1)
  unfold execVerify
  repeat' first | intro _ | with_reducible first | assumption | apply sameR_next | apply State.issue_same (by assumption) | apply State.maintIssue_same (by assumption) | split

def execClear_w (g : Piece) : Bool := State.issue_w g || State.maintIssue_w g

theorem execClear_same {g : Piece} {a : State} (hg : execClear_w g = false) {s : State} (h : Same g a s) (x1 : _) (x2 : _) :
    SameR g a (execClear x1 x2 s) := by
  simp only [execClear_w, Bool.or_eq_false_iff] at hg
  repeat (have := hg.2; replace hg := hg.1)
  unfold execClear
  repeat' first | intro _ | with_reducible first | assumption | apply sameR_next | apply State.issue_same (by assumption) | apply State.maintIssue_same (by assumption) | split

def State.verifyDone_w (g : Piece) : Bool := State.endOp_w g || State.jobWrite_w g || State.faultJob_w g

theorem State.verifyDone_same {g : Piece} {a : State} (hg : State.verifyDone_w g = false) {s : State} (h : Same g a s) (x2 : _) (x3 : _) :
    Same g a (State.verifyDone s x2 x3) := by
  simp only [State.verifyDone_w, Bool.or_eq_false_iff] at hg
  repeat (have := hg.2; replace hg := hg.1)
  unfold State.verifyDone
  repeat' first | intro _ | with_reducible first | assumption | apply State.endOp_same (by assumption) | apply State.jobWrite_same (by assumption) | apply State.faultJob_same (by assumption) | apply same_ite | refine same_ofE (by assumption) ?_ | split

def execVerifyFinish_w (g : Piece) : Bool := State.releaseEngine_w g || State.verifyDone_w g || State.spareFails_w g || State.maintPump_w g || State.pump_w g || State.capUpdate_w g

theorem execVerifyFinish_same {g : Piece} {a : State} (hg : execVerifyFinish_w g = false) {s : State} (h : Same g a s) (x1 : _) (x2 : _) (x3 : _) :
    SameR g a (execVerifyFinish x1 x2 x3 s) := by
  simp only [execVerifyFinish_w, Bool.or_eq_false_iff] at hg
  repeat (have := hg.2; replace hg := hg.1)
  unfold execVerifyFinish
  repeat' first | intro _ | ((fail_if_no_progress extract_lets +onlyGivenNames z); (refine same_cut (a := a) (g := g) z ?_ fun hz => ?_) <;> [subst z; clear_value z]) | with_reducible first | assumption | apply sameR_next | apply sameR_ite | apply State.releaseEngine_same (by assumption) | apply State.verifyDone_same (by assumption) | apply State.spareFails_same (by assumption) | apply State.maintPump_same (by assumption) | apply State.pump_same (by assumption) | apply State.capUpdate_same (by assumption) | apply same_ite | split

end Sys2Proof.Machine
end

