-- ==== Sys2Proof/Laws/SameMem.lean ====
section
/-!
SUPPORT. Laws/SameMem.lean: what the operations of Machine/Mem.lean may change, and that they leave the rest alone.
-/

set_option linter.unusedTactic false
set_option linter.unusedSimpArgs false
set_option linter.unusedVariables false
set_option linter.tactic.unusedName false
set_option linter.unreachableTactic false

namespace Sys2Proof.Machine

def State.memExpert_w (g : Piece) : Bool := (g == .fld .MEM_STAT_EXPERT)

theorem State.memExpert_same {g : Piece} {a : State} (hg : State.memExpert_w g = false) {s : State} (h : Same g a s) (x2 : _) :
    Same g a (State.memExpert s x2) := by
  simp only [State.memExpert_w] at hg
  unfold State.memExpert
  repeat' first | intro _ | with_reducible first | assumption | apply wr_same (by assumption)

def State.memCfg_w (g : Piece) : Bool := State.memExpert_w g || (g == .fld .MEM_STAT_REFUSED) || (g == .aux .nvMem) || (g == .fld .MEM_CFG_RATE) || (g == .fld .MEM_CFG_LECC) || (g == .fld .MEM_CFG_IECC)

theorem State.memCfg_same {g : Piece} {a : State} (hg : State.memCfg_w g = false) {s : State} (h : Same g a s) (x2 : _) (x3 : _) :
    Same g a (State.memCfg s x2 x3) := by
  simp only [State.memCfg_w, Bool.or_eq_false_iff] at hg
  repeat (have := hg.2; replace hg := hg.1)
  unfold State.memCfg
  repeat' first | intro _ | ((fail_if_no_progress extract_lets +onlyGivenNames z); first | (refine same_cut (a := a) (g := g) z ?_ fun hz => ?_) <;> [subst z; clear_value z] | clear_value z) | with_reducible first | assumption | apply wr_same (by assumption) | apply State.memExpert_same (by assumption) | apply setAx_same (by assumption) | apply same_ite | split

def execMemCfgWrite_w (g : Piece) : Bool := State.order_w g || State.memCfg_w g

theorem execMemCfgWrite_same {g : Piece} {a : State} (hg : execMemCfgWrite_w g = false) {s : State} (h : Same g a s) (x1 : _) (x2 : _) :
    SameR g a (execMemCfgWrite x1 x2 s) := by
  simp only [execMemCfgWrite_w, Bool.or_eq_false_iff] at hg
  repeat (have := hg.2; replace hg := hg.1)
  unfold execMemCfgWrite
  repeat' first | intro _ | with_reducible first | assumption | apply sameR_next | apply sameR_ite | apply State.order_same (by assumption) | apply State.memCfg_same (by assumption) | apply same_ite | split

def State.bnkHandback_w (g : Piece) : Bool := State.resetReg_w g || State.bankRequest_w g || (g == .fld .BNK_STAT_EXPERT)

theorem State.bnkHandback_same {g : Piece} {a : State} (hg : State.bnkHandback_w g = false) {s : State} (h : Same g a s) (x2 : _) :
    Same g a (State.bnkHandback s x2) := by
  simp only [State.bnkHandback_w, Bool.or_eq_false_iff] at hg
  repeat (have := hg.2; replace hg := hg.1)
  unfold State.bnkHandback
  repeat' first | intro _ | ((fail_if_no_progress extract_lets +onlyGivenNames z); first | (refine same_cut (a := a) (g := g) z ?_ fun hz => ?_) <;> [subst z; clear_value z] | clear_value z) | with_reducible first | assumption | apply wr_same (by assumption) | apply State.resetReg_same (by assumption) | apply State.each_same | apply State.bankRequest_same (by assumption) | apply same_ite | split

def execBankScrub_w (g : Piece) : Bool := State.bankDouble_w g || (g == .fld .BNK_ECC_CORR_COUNT)

theorem execBankScrub_same {g : Piece} {a : State} (hg : execBankScrub_w g = false) {s : State} (h : Same g a s) (x1 : _) (x2 : _) (x3 : _) :
    SameR g a (execBankScrub x1 x2 x3 s) := by
  simp only [execBankScrub_w, Bool.or_eq_false_iff] at hg
  repeat (have := hg.2; replace hg := hg.1)
  unfold execBankScrub
  repeat' first | intro _ | with_reducible first | assumption | apply sameR_next | apply sameR_ite | apply State.each_same | apply bump_same (by assumption) | apply State.bankDouble_same (by assumption) | apply same_ite | split

def State.memHandback_w (g : Piece) : Bool := State.resetReg_w g || (g == .fld .MEM_STAT_EXPERT)

theorem State.memHandback_same {g : Piece} {a : State} (hg : State.memHandback_w g = false) {s : State} (h : Same g a s) (x2 : _) :
    Same g a (State.memHandback s x2) := by
  simp only [State.memHandback_w, Bool.or_eq_false_iff] at hg
  repeat (have := hg.2; replace hg := hg.1)
  unfold State.memHandback
  repeat' first | intro _ | with_reducible first | assumption | apply wr_same (by assumption) | apply State.resetReg_same (by assumption)

def execMemCtrlHandback_w (g : Piece) : Bool := State.order_w g || State.memHandback_w g

theorem execMemCtrlHandback_same {g : Piece} {a : State} (hg : execMemCtrlHandback_w g = false) {s : State} (h : Same g a s) (x1 : _) (x2 : _) :
    SameR g a (execMemCtrlHandback x1 x2 s) := by
  simp only [execMemCtrlHandback_w, Bool.or_eq_false_iff] at hg
  repeat (have := hg.2; replace hg := hg.1)
  unfold execMemCtrlHandback
  repeat' first | intro _ | with_reducible first | assumption | apply sameR_next | apply sameR_ite | apply State.order_same (by assumption) | apply State.when_same | apply State.memHandback_same (by assumption) | apply same_ite | split

def execMemCtrlClear_w (g : Piece) : Bool := State.order_w g || (g == .fld .MEM_CORR_COUNT) || (g == .fld .MEM_UNCORR_COUNT) || (g == .fld .MEM_RETRAIN_COUNT) || (g == .fld .MEM_LECC_COUNT)

theorem execMemCtrlClear_same {g : Piece} {a : State} (hg : execMemCtrlClear_w g = false) {s : State} (h : Same g a s) (x1 : _) (x2 : _) :
    SameR g a (execMemCtrlClear x1 x2 s) := by
  simp only [execMemCtrlClear_w, Bool.or_eq_false_iff] at hg
  repeat (have := hg.2; replace hg := hg.1)
  unfold execMemCtrlClear
  simp only [State.each, List.foldl]
  repeat' first | intro _ | with_reducible first | assumption | apply sameR_next | apply sameR_ite | apply State.order_same (by assumption) | apply State.when_same | apply State.each_same | apply wr_same | apply same_ite | (unfold convSubField; split) | (unfold spareColField; split) | (unfold quotaField; split) | (unfold gateField; split) | (unfold readyField; split) | split

def execBankZeroingEnd_w (g : Piece) : Bool := State.evictCheck_w g || State.bankZeroEnded_w g

theorem execBankZeroingEnd_same {g : Piece} {a : State} (hg : execBankZeroingEnd_w g = false) {s : State} (h : Same g a s) (x1 : _) (x2 : _) :
    SameR g a (execBankZeroingEnd x1 x2 s) := by
  simp only [execBankZeroingEnd_w, Bool.or_eq_false_iff] at hg
  repeat (have := hg.2; replace hg := hg.1)
  unfold execBankZeroingEnd
  repeat' first | intro _ | with_reducible first | assumption | apply sameR_next | apply sameR_ite | apply State.evictCheck_same (by assumption) | apply State.bankZeroEnded_same (by assumption) | apply same_ite | split

def State.diagRead_w (g : Piece) : Bool := State.fresh_w g || (g == .fld .BNK_DIAG_BUSY) || (g == .fld .BNK_STAT_EXPERT) || (g == .fld .BNK_DIAGCHK_CHECK) || (g == .fld .BNK_DIAGDATA_DATA) || (g == .fld .BNK_COLLIDE_COUNT)

theorem State.diagRead_same {g : Piece} {a : State} (hg : State.diagRead_w g = false) {s : State} (h : Same g a s) (x2 : _) (x3 : _) :
    Same g a (State.diagRead s x2 x3) := by
  simp only [State.diagRead_w, Bool.or_eq_false_iff] at hg
  repeat (have := hg.2; replace hg := hg.1)
  unfold State.diagRead
  repeat' first | intro _ | ((fail_if_no_progress extract_lets +onlyGivenNames z); first | (first | refine same_cut (a := a) (g := g) z ?_ fun hz => ?_ | refine same_cut2 (a := a) (g := g) z ?_ fun hz => ?_) <;> [subst z; clear_value z] | clear_value z) | with_reducible first | assumption | apply wr_same (by assumption) | apply State.fresh_same (by assumption) | apply bump_same (by assumption) | apply same_ite | refine same_of2 (by assumption) ?_ | split

def execBnkDiagGo_w (g : Piece) : Bool := State.order_w g || State.diagRead_w g

theorem execBnkDiagGo_same {g : Piece} {a : State} (hg : execBnkDiagGo_w g = false) {s : State} (h : Same g a s) (x1 : _) (x2 : _) (x3 : _) :
    SameR g a (execBnkDiagGo x1 x2 x3 s) := by
  simp only [execBnkDiagGo_w, Bool.or_eq_false_iff] at hg
  repeat (have := hg.2; replace hg := hg.1)
  unfold execBnkDiagGo
  repeat' first | intro _ | with_reducible first | assumption | apply sameR_next | apply sameR_ite | apply State.order_same (by assumption) | apply State.when_same | apply State.diagRead_same (by assumption) | apply same_ite | split

def State.retrainAll_w (g : Piece) : Bool := State.memExpert_w g || State.retrainStart_w g || (g == .fld .MEM_CTRL_RETRAIN)

theorem State.retrainAll_same {g : Piece} {a : State} (hg : State.retrainAll_w g = false) {s : State} (h : Same g a s) (x2 : _) :
    Same g a (State.retrainAll s x2) := by
  simp only [State.retrainAll_w, Bool.or_eq_false_iff] at hg
  repeat (have := hg.2; replace hg := hg.1)
  unfold State.retrainAll
  repeat' first | intro _ | ((fail_if_no_progress extract_lets +onlyGivenNames z); clear_value z) | with_reducible first | assumption | apply State.each_same | apply wr_same (by assumption) | apply State.memExpert_same (by assumption) | apply State.retrainStart_same (by assumption) | apply same_ite | split

def State.ownerWrite_w (g : Piece) : Bool := State.bankRequest_w g || (g == .fld .BNK_STAT_REFUSED) || (g == .fld .BNK_STAT_EXPERT) || (g == .fld .BNK_OWNER_ID) || (g == .fld .BNK_OWNER_KIND)

theorem State.ownerWrite_same {g : Piece} {a : State} (hg : State.ownerWrite_w g = false) {s : State} (h : Same g a s) (x2 : _) (x3 : _) (x4 : _) :
    Same g a (State.ownerWrite s x2 x3 x4) := by
  simp only [State.ownerWrite_w, Bool.or_eq_false_iff] at hg
  repeat (have := hg.2; replace hg := hg.1)
  unfold State.ownerWrite
  repeat' first | intro _ | ((fail_if_no_progress extract_lets +onlyGivenNames z); first | (refine same_cut (a := a) (g := g) z ?_ fun hz => ?_) <;> [subst z; clear_value z] | clear_value z) | with_reducible first | assumption | apply wr_same (by assumption) | apply State.bankRequest_same (by assumption) | apply same_ite | split

def execBnkOwnerWrite_w (g : Piece) : Bool := State.order_w g || State.ownerWrite_w g

theorem execBnkOwnerWrite_same {g : Piece} {a : State} (hg : execBnkOwnerWrite_w g = false) {s : State} (h : Same g a s) (x1 : _) (x2 : _) (x3 : _) :
    SameR g a (execBnkOwnerWrite x1 x2 x3 s) := by
  simp only [execBnkOwnerWrite_w, Bool.or_eq_false_iff] at hg
  repeat (have := hg.2; replace hg := hg.1)
  unfold execBnkOwnerWrite
  repeat' first | intro _ | with_reducible first | assumption | apply sameR_next | apply sameR_ite | apply State.order_same (by assumption) | apply State.ownerWrite_same (by assumption) | apply same_ite | split

def execBnkCtrlHandback_w (g : Piece) : Bool := State.order_w g || State.bnkHandback_w g

theorem execBnkCtrlHandback_same {g : Piece} {a : State} (hg : execBnkCtrlHandback_w g = false) {s : State} (h : Same g a s) (x1 : _) (x2 : _) :
    SameR g a (execBnkCtrlHandback x1 x2 s) := by
  simp only [execBnkCtrlHandback_w, Bool.or_eq_false_iff] at hg
  repeat (have := hg.2; replace hg := hg.1)
  unfold execBnkCtrlHandback
  repeat' first | intro _ | with_reducible first | assumption | apply sameR_next | apply sameR_ite | apply State.order_same (by assumption) | apply State.when_same | apply State.bnkHandback_same (by assumption) | apply same_ite | split

def execLpddrPatrolScrub_w (g : Piece) : Bool := State.readBlock_w g

theorem execLpddrPatrolScrub_same {g : Piece} {a : State} (hg : execLpddrPatrolScrub_w g = false) {s : State} (h : Same g a s) (x1 : _) (x2 : _) (x3 : _) :
    SameR g a (execLpddrPatrolScrub x1 x2 x3 s) := by
  simp only [execLpddrPatrolScrub_w] at hg
  unfold execLpddrPatrolScrub
  repeat' first | intro _ | with_reducible first | assumption | apply sameR_next | apply sameR_ite | apply State.each_same | apply State.readBlock_same (by assumption) | apply same_ite | split

def execWck2dqDrift_w (g : Piece) : Bool := State.retrainStart_w g

theorem execWck2dqDrift_same {g : Piece} {a : State} (hg : execWck2dqDrift_w g = false) {s : State} (h : Same g a s) (x1 : _) (x2 : _) :
    SameR g a (execWck2dqDrift x1 x2 s) := by
  simp only [execWck2dqDrift_w] at hg
  unfold execWck2dqDrift
  repeat' first | intro _ | with_reducible first | assumption | apply sameR_next | apply sameR_ite | apply State.retrainStart_same (by assumption) | apply same_ite | split

def execMemCtrlRetrain_w (g : Piece) : Bool := State.order_w g || State.retrainAll_w g

theorem execMemCtrlRetrain_same {g : Piece} {a : State} (hg : execMemCtrlRetrain_w g = false) {s : State} (h : Same g a s) (x1 : _) (x2 : _) :
    SameR g a (execMemCtrlRetrain x1 x2 s) := by
  simp only [execMemCtrlRetrain_w, Bool.or_eq_false_iff] at hg
  repeat (have := hg.2; replace hg := hg.1)
  unfold execMemCtrlRetrain
  repeat' first | intro _ | with_reducible first | assumption | apply sameR_next | apply sameR_ite | apply State.order_same (by assumption) | apply State.when_same | apply State.retrainAll_same (by assumption) | apply same_ite | split

def State.retrainOver_w (g : Piece) : Bool := (g == .fld .MEM_CTRL_RETRAIN)

theorem State.retrainOver_same {g : Piece} {a : State} (hg : State.retrainOver_w g = false) {s : State} (h : Same g a s) (x2 : _) :
    Same g a (State.retrainOver s x2) := by
  simp only [State.retrainOver_w] at hg
  unfold State.retrainOver
  repeat' first | intro _ | with_reducible first | assumption | apply wr_same (by assumption) | apply same_ite | split

def State.retrainEnded_w (g : Piece) : Bool := State.retrainFailed_w g || (g == .aux .retrainEnd) || (g == .fld .MEM_STAT_TRAINED) || (g == .fld .MEM_CH_REFRATE) || (g == .fld .MEM_CH_FAILS) || (g == .fld .MEM_CH_STATE)

theorem State.retrainEnded_same {g : Piece} {a : State} (hg : State.retrainEnded_w g = false) {s : State} (h : Same g a s) (x2 : _) (x3 : _) (x4 : _) :
    Same g a (State.retrainEnded s x2 x3 x4) := by
  simp only [State.retrainEnded_w, Bool.or_eq_false_iff] at hg
  repeat (have := hg.2; replace hg := hg.1)
  unfold State.retrainEnded
  repeat' first | intro _ | with_reducible first | assumption | apply setAx_same (by assumption) | apply wr_same (by assumption) | apply State.retrainFailed_same (by assumption) | apply same_ite | split

def execRetrainEnd_w (g : Piece) : Bool := State.retrainOver_w g || State.retrainEnded_w g

theorem execRetrainEnd_same {g : Piece} {a : State} (hg : execRetrainEnd_w g = false) {s : State} (h : Same g a s) (x1 : _) (x2 : _) (x3 : _) :
    SameR g a (execRetrainEnd x1 x2 x3 s) := by
  simp only [execRetrainEnd_w, Bool.or_eq_false_iff] at hg
  repeat (have := hg.2; replace hg := hg.1)
  unfold execRetrainEnd
  repeat' first | intro _ | with_reducible first | assumption | apply sameR_next | apply sameR_ite | apply State.retrainOver_same (by assumption) | apply State.retrainEnded_same (by assumption) | apply same_ite | split

def execBankHandover_w (g : Piece) : Bool := State.evictCheck_w g || State.bankHandover_w g

theorem execBankHandover_same {g : Piece} {a : State} (hg : execBankHandover_w g = false) {s : State} (h : Same g a s) (x1 : _) (x2 : _) :
    SameR g a (execBankHandover x1 x2 s) := by
  simp only [execBankHandover_w, Bool.or_eq_false_iff] at hg
  repeat (have := hg.2; replace hg := hg.1)
  unfold execBankHandover
  repeat' first | intro _ | with_reducible first | assumption | apply sameR_next | apply sameR_ite | apply State.evictCheck_same (by assumption) | apply State.bankHandover_same (by assumption) | apply same_ite | split

def execBnkCtrlClear_w (g : Piece) : Bool := State.order_w g || (g == .fld .BNK_COLLIDE_COUNT) || (g == .fld .BNK_DENIED_COUNT) || (g == .fld .BNK_HANDOVERS_COUNT) || (g == .fld .BNK_ECC_CORR_COUNT) || (g == .fld .BNK_ECC_UNCORR_COUNT)

theorem execBnkCtrlClear_same {g : Piece} {a : State} (hg : execBnkCtrlClear_w g = false) {s : State} (h : Same g a s) (x1 : _) (x2 : _) :
    SameR g a (execBnkCtrlClear x1 x2 s) := by
  simp only [execBnkCtrlClear_w, Bool.or_eq_false_iff] at hg
  repeat (have := hg.2; replace hg := hg.1)
  unfold execBnkCtrlClear
  simp only [State.each, List.foldl]
  repeat' first | intro _ | with_reducible first | assumption | apply sameR_next | apply sameR_ite | apply State.order_same (by assumption) | apply State.when_same | apply State.each_same | apply wr_same | apply same_ite | (unfold convSubField; split) | (unfold spareColField; split) | (unfold quotaField; split) | (unfold gateField; split) | (unfold readyField; split) | split

end Sys2Proof.Machine
end

