-- ==== Sys2Proof/Laws/SamePocket.lean ====
section
/-!
SUPPORT. Laws/SamePocket.lean: what the operations of Machine/Pocket.lean may change, and that they leave the rest alone.
-/

set_option linter.unusedTactic false
set_option linter.unusedSimpArgs false
set_option linter.unusedVariables false
set_option linter.tactic.unusedName false
set_option linter.unreachableTactic false

namespace Sys2Proof.Machine

def State.pktRefused_w (g : Piece) : Bool := (g == .fld .PKT_STAT_REFUSED)

theorem State.pktRefused_same {g : Piece} {a : State} (hg : State.pktRefused_w g = false) {s : State} (h : Same g a s) :
    Same g a (State.pktRefused s) := by
  simp only [State.pktRefused_w] at hg
  unfold State.pktRefused
  repeat' first | intro _ | with_reducible first | assumption | apply wr_same (by assumption)

def State.pktDenied_w (g : Piece) : Bool := State.pktRefused_w g || (g == .fld .PKT_STAT_DENIED)

theorem State.pktDenied_same {g : Piece} {a : State} (hg : State.pktDenied_w g = false) {s : State} (h : Same g a s) :
    Same g a (State.pktDenied s) := by
  simp only [State.pktDenied_w, Bool.or_eq_false_iff] at hg
  repeat (have := hg.2; replace hg := hg.1)
  unfold State.pktDenied
  repeat' first | intro _ | with_reducible first | assumption | apply bump_same (by assumption) | apply State.pktRefused_same (by assumption)

def State.writePages_w (g : Piece) : Bool := State.completeCmd_w g || State.pktWrite_w g || State.pktDenied_w g

theorem State.writePages_same {g : Piece} {a : State} (hg : State.writePages_w g = false) {s : State} (h : Same g a s) (x2 : _) (x3 : _) (x4 : _) (x5 : _) :
    Same g a (State.writePages s x2 x3 x4 x5) := by
  simp only [State.writePages_w, Bool.or_eq_false_iff] at hg
  repeat (have := hg.2; replace hg := hg.1)
  induction x5 generalizing s <;> [skip; rename_i ih]
  all_goals unfold State.writePages
  repeat' first | intro _ | with_reducible first | assumption | apply State.completeCmd_same (by assumption) | apply State.pktWrite_same (by assumption) | apply State.pktDenied_same (by assumption) | apply same_ite | apply ih | split

def State.tryPassword_w (g : Piece) : Bool := State.event_w g || (g == .aux .pktWrong)

theorem State.tryPassword_same {g : Piece} {a : State} (hg : State.tryPassword_w g = false) {s : State} (h : Same g a s) (x2 : _) (x3 : _) (x4 : _) :
    Same g a (State.tryPassword s x2 x3 x4).2 := by
  simp only [State.tryPassword_w, Bool.or_eq_false_iff] at hg
  repeat (have := hg.2; replace hg := hg.1)
  unfold State.tryPassword
  repeat' first | intro _ | ((fail_if_no_progress extract_lets +onlyGivenNames z); first | (refine same_cut (a := a) (g := g) z ?_ fun hz => ?_) <;> [subst z; clear_value z] | clear_value z) | with_reducible first | assumption | apply setAx_same (by assumption) | apply State.event_same (by assumption) | apply same2_ite | apply same_ite | split

def State.unlock_w (g : Piece) : Bool := State.tryPassword_w g || (g == .fld .PKT_UNLOCK_PASSWORD) || (g == .aux .pktOpen)

theorem State.unlock_same {g : Piece} {a : State} (hg : State.unlock_w g = false) {s : State} (h : Same g a s) (x2 : _) :
    Same g a (State.unlock s x2) := by
  simp only [State.unlock_w, Bool.or_eq_false_iff] at hg
  repeat (have := hg.2; replace hg := hg.1)
  unfold State.unlock
  repeat' first | intro _ | ((fail_if_no_progress extract_lets +onlyGivenNames z); first | (first | refine same_cut (a := a) (g := g) z ?_ fun hz => ?_ | refine same_cut2 (a := a) (g := g) z ?_ fun hz => ?_) <;> [subst z; clear_value z] | clear_value z) | with_reducible first | assumption | apply wr_same (by assumption) | apply State.tryPassword_same (by assumption) | apply setAx_same (by assumption) | apply same_ite | refine same_of2 (by assumption) ?_ | split

def State.relock_w (g : Piece) : Bool := (g == .aux .pktOpen)

theorem State.relock_same {g : Piece} {a : State} (hg : State.relock_w g = false) {s : State} (h : Same g a s) :
    Same g a (State.relock s) := by
  simp only [State.relock_w] at hg
  unfold State.relock
  repeat' first | intro _ | with_reducible first | assumption | apply State.each_same | apply setAx_same (by assumption) | apply same_ite | split

def execPktUnlockselRelock_w (g : Piece) : Bool := State.order_w g || State.relock_w g

theorem execPktUnlockselRelock_same {g : Piece} {a : State} (hg : execPktUnlockselRelock_w g = false) {s : State} (h : Same g a s) (x1 : _) :
    SameR g a (execPktUnlockselRelock x1 s) := by
  simp only [execPktUnlockselRelock_w, Bool.or_eq_false_iff] at hg
  repeat (have := hg.2; replace hg := hg.1)
  unfold execPktUnlockselRelock
  repeat' first | intro _ | with_reducible first | assumption | apply sameR_next | apply State.order_same (by assumption) | apply State.when_same | apply State.relock_same (by assumption) | split

def State.setHolding_w (g : Piece) : Bool := (g == .hold)

theorem State.setHolding_same {g : Piece} {a : State} (hg : State.setHolding_w g = false) {s : State} (h : Same g a s) (x2 : _) (x3 : _) (x4 : _) :
    Same g a (State.setHolding s x2 x3 x4) := by
  simp only [State.setHolding_w] at hg
  unfold State.setHolding
  repeat' first | intro _ | with_reducible first | assumption | fail_if_no_progress apply same_mk_hold (by assumption) | split

def execPktUnlockWrite_w (g : Piece) : Bool := State.order_w g || State.unlock_w g || State.setHolding_w g

theorem execPktUnlockWrite_same {g : Piece} {a : State} (hg : execPktUnlockWrite_w g = false) {s : State} (h : Same g a s) (x1 : _) (x2 : _) :
    SameR g a (execPktUnlockWrite x1 x2 s) := by
  simp only [execPktUnlockWrite_w, Bool.or_eq_false_iff] at hg
  repeat (have := hg.2; replace hg := hg.1)
  unfold execPktUnlockWrite
  repeat' first | intro _ | ((fail_if_no_progress extract_lets +onlyGivenNames z); clear_value z) | with_reducible first | assumption | apply sameR_next | apply sameR_ite | apply State.order_same (by assumption) | apply State.unlock_same (by assumption) | apply State.setHolding_same (by assumption) | apply same_ite | split

def State.pocketWord_w (g : Piece) : Bool := State.fresh_w g

theorem State.pocketWord_same {g : Piece} {a : State} (hg : State.pocketWord_w g = false) {s : State} (h : Same g a s) (x2 : _) (x3 : _) (x4 : _) :
    Same g a (State.pocketWord s x2 x3 x4).2 := by
  simp only [State.pocketWord_w] at hg
  unfold State.pocketWord
  repeat' first | intro _ | ((fail_if_no_progress extract_lets +onlyGivenNames z); first | (refine same_cut2 (a := a) (g := g) z ?_ fun hz => ?_) <;> [subst z; clear_value z] | clear_value z) | with_reducible first | assumption | apply State.fresh_same (by assumption) | apply foldl_same | apply same2_ite | apply same_ite | refine same_of2 (by assumption) ?_ | split

def State.pktRead_w (g : Piece) : Bool := State.pktRefused_w g || State.pktDenied_w g || State.pocketWord_w g

theorem State.pktRead_same {g : Piece} {a : State} (hg : State.pktRead_w g = false) {s : State} (h : Same g a s) (x2 : _) (x3 : _) (x4 : _) :
    Same g a (State.pktRead s x2 x3 x4).2 := by
  simp only [State.pktRead_w, Bool.or_eq_false_iff] at hg
  repeat (have := hg.2; replace hg := hg.1)
  unfold State.pktRead
  repeat' first | intro _ | with_reducible first | assumption | apply State.pktRefused_same (by assumption) | apply State.pktDenied_same (by assumption) | apply State.pocketWord_same (by assumption) | apply same2_ite | apply same_ite | refine same_of2 (by assumption) ?_ | split

def execChnCfgPecWrite_w (g : Piece) : Bool := State.order_w g || (g == .fld .CHN_CFG_PEC)

theorem execChnCfgPecWrite_same {g : Piece} {a : State} (hg : execChnCfgPecWrite_w g = false) {s : State} (h : Same g a s) (x1 : _) :
    SameR g a (execChnCfgPecWrite x1 s) := by
  simp only [execChnCfgPecWrite_w, Bool.or_eq_false_iff] at hg
  repeat (have := hg.2; replace hg := hg.1)
  unfold execChnCfgPecWrite
  repeat' first | intro _ | with_reducible first | assumption | apply sameR_next | apply State.order_same (by assumption) | apply wr_same (by assumption)

def State.pocketWrite_w (g : Piece) : Bool := State.writePages_w g || State.completeCmd_w g || State.aer_w g

theorem State.pocketWrite_same {g : Piece} {a : State} (hg : State.pocketWrite_w g = false) {s : State} (h : Same g a s) (x2 : _) (x3 : _) :
    Same g a (State.pocketWrite s x2 x3) := by
  simp only [State.pocketWrite_w, Bool.or_eq_false_iff] at hg
  repeat (have := hg.2; replace hg := hg.1)
  unfold State.pocketWrite
  repeat' first | intro _ | with_reducible first | assumption | apply State.writePages_same (by assumption) | apply State.completeCmd_same (by assumption) | apply State.aer_same (by assumption) | apply same_ite | split

def State.protectEvent_w (g : Piece) : Bool := State.event_w g

theorem State.protectEvent_same {g : Piece} {a : State} (hg : State.protectEvent_w g = false) {s : State} (h : Same g a s) (x2 : _) (x3 : _) (x4 : _) :
    Same g a (State.protectEvent s x2 x3 x4) := by
  simp only [State.protectEvent_w] at hg
  unfold State.protectEvent
  repeat' first | intro _ | with_reducible first | assumption | apply State.event_same (by assumption)

def State.setProtection_w (g : Piece) : Bool := State.completeCmd_w g || State.protectEvent_w g || (g == .fld .PKT_STAT_MODE)

theorem State.setProtection_same {g : Piece} {a : State} (hg : State.setProtection_w g = false) {s : State} (h : Same g a s) (x2 : _) :
    Same g a (State.setProtection s x2) := by
  simp only [State.setProtection_w, Bool.or_eq_false_iff] at hg
  repeat (have := hg.2; replace hg := hg.1)
  unfold State.setProtection
  repeat' first | intro _ | ((fail_if_no_progress extract_lets +onlyGivenNames z); clear_value z) | with_reducible first | assumption | apply State.completeCmd_same (by assumption) | apply State.protectEvent_same (by assumption) | apply wr_same (by assumption) | apply same_ite | split

def State.setPassword_w (g : Piece) : Bool := State.completeCmd_w g || State.tryPassword_w g || State.protectEvent_w g || State.pktDenied_w g || (g == .aux .pktPass)

theorem State.setPassword_same {g : Piece} {a : State} (hg : State.setPassword_w g = false) {s : State} (h : Same g a s) (x2 : _) :
    Same g a (State.setPassword s x2) := by
  simp only [State.setPassword_w, Bool.or_eq_false_iff] at hg
  repeat (have := hg.2; replace hg := hg.1)
  unfold State.setPassword
  repeat' first | intro _ | ((fail_if_no_progress extract_lets +onlyGivenNames z); first | (refine same_cut2 (a := a) (g := g) z ?_ fun hz => ?_) <;> [subst z; clear_value z] | clear_value z) | with_reducible first | assumption | apply State.completeCmd_same (by assumption) | apply State.tryPassword_same (by assumption) | apply State.protectEvent_same (by assumption) | apply setAx_same (by assumption) | apply State.pktDenied_same (by assumption) | apply same_ite | refine same_of2 (by assumption) ?_ | split

def State.lockPage_w (g : Piece) : Bool := State.completeCmd_w g || State.protectEvent_w g || (g == .aux .pageLock)

theorem State.lockPage_same {g : Piece} {a : State} (hg : State.lockPage_w g = false) {s : State} (h : Same g a s) (x2 : _) :
    Same g a (State.lockPage s x2) := by
  simp only [State.lockPage_w, Bool.or_eq_false_iff] at hg
  repeat (have := hg.2; replace hg := hg.1)
  unfold State.lockPage
  repeat' first | intro _ | ((fail_if_no_progress extract_lets +onlyGivenNames z); clear_value z) | with_reducible first | assumption | apply State.completeCmd_same (by assumption) | apply State.protectEvent_same (by assumption) | apply setAx_same (by assumption) | apply same_ite | split

def State.pocketProtect_w (g : Piece) : Bool := State.setProtection_w g || State.setPassword_w g || State.lockPage_w g || State.completeCmd_w g

theorem State.pocketProtect_same {g : Piece} {a : State} (hg : State.pocketProtect_w g = false) {s : State} (h : Same g a s) (x2 : _) :
    Same g a (State.pocketProtect s x2) := by
  simp only [State.pocketProtect_w, Bool.or_eq_false_iff] at hg
  repeat (have := hg.2; replace hg := hg.1)
  unfold State.pocketProtect
  repeat' first | intro _ | with_reducible first | assumption | apply State.setProtection_same (by assumption) | apply State.setPassword_same (by assumption) | apply State.lockPage_same (by assumption) | apply State.completeCmd_same (by assumption) | apply same_ite | split

def execPocketProtect_w (g : Piece) : Bool := State.pocketProtect_w g

theorem execPocketProtect_same {g : Piece} {a : State} (hg : execPocketProtect_w g = false) {s : State} (h : Same g a s) (x1 : _) :
    SameR g a (execPocketProtect x1 s) := by
  simp only [execPocketProtect_w] at hg
  unfold execPocketProtect
  repeat' first | intro _ | with_reducible first | assumption | apply sameR_next | apply State.runCmd_same | apply State.pocketProtect_same (by assumption)

def State.pocketErase_w (g : Piece) : Bool := State.writePages_w g || State.completeCmd_w g

theorem State.pocketErase_same {g : Piece} {a : State} (hg : State.pocketErase_w g = false) {s : State} (h : Same g a s) (x2 : _) :
    Same g a (State.pocketErase s x2) := by
  simp only [State.pocketErase_w, Bool.or_eq_false_iff] at hg
  repeat (have := hg.2; replace hg := hg.1)
  unfold State.pocketErase
  repeat' first | intro _ | with_reducible first | assumption | apply State.writePages_same (by assumption) | apply State.completeCmd_same (by assumption) | apply same_ite | split

def execPocketErase_w (g : Piece) : Bool := State.pocketErase_w g

theorem execPocketErase_same {g : Piece} {a : State} (hg : execPocketErase_w g = false) {s : State} (h : Same g a s) (x1 : _) :
    SameR g a (execPocketErase x1 s) := by
  simp only [execPocketErase_w] at hg
  unfold execPocketErase
  repeat' first | intro _ | with_reducible first | assumption | apply sameR_next | apply State.runCmd_same | apply State.pocketErase_same (by assumption)

def State.pageToHost_w (g : Piece) : Bool := State.pocketWord_w g || (g == .mem)

theorem State.pageToHost_same {g : Piece} {a : State} (hg : State.pageToHost_w g = false) {s : State} (h : Same g a s) (x2 : _) (x3 : _) (x4 : _) (x5 : _) :
    Same g a (State.pageToHost s x2 x3 x4 x5) := by
  simp only [State.pageToHost_w, Bool.or_eq_false_iff] at hg
  repeat (have := hg.2; replace hg := hg.1)
  unfold State.pageToHost
  repeat' first | intro _ | ((fail_if_no_progress extract_lets +onlyGivenNames z); (refine same_cut2 (a := a) (g := g) z ?_ fun hz => ?_) <;> [subst z; clear_value z]) | with_reducible first | assumption | apply State.each_same | apply State.pocketWord_same (by assumption) | apply storeHost_same (by assumption) | refine same_of2 (by assumption) ?_

def State.readPages_w (g : Piece) : Bool := State.completeCmd_w g || State.pageToHost_w g || State.pktDenied_w g

theorem State.readPages_same {g : Piece} {a : State} (hg : State.readPages_w g = false) {s : State} (h : Same g a s) (x2 : _) (x3 : _) :
    Same g a (State.readPages s x2 x3) := by
  simp only [State.readPages_w, Bool.or_eq_false_iff] at hg
  repeat (have := hg.2; replace hg := hg.1)
  induction x3 generalizing s <;> [skip; rename_i ih]
  all_goals unfold State.readPages
  repeat' first | intro _ | with_reducible first | assumption | apply State.completeCmd_same (by assumption) | apply State.pageToHost_same (by assumption) | apply State.pktDenied_same (by assumption) | apply same_ite | apply ih | split

def State.pocketRead_w (g : Piece) : Bool := State.readPages_w g || State.completeCmd_w g

theorem State.pocketRead_same {g : Piece} {a : State} (hg : State.pocketRead_w g = false) {s : State} (h : Same g a s) (x2 : _) :
    Same g a (State.pocketRead s x2) := by
  simp only [State.pocketRead_w, Bool.or_eq_false_iff] at hg
  repeat (have := hg.2; replace hg := hg.1)
  unfold State.pocketRead
  repeat' first | intro _ | with_reducible first | assumption | apply State.readPages_same (by assumption) | apply State.completeCmd_same (by assumption) | apply same_ite | split

def execPocketWrite_w (g : Piece) : Bool := State.pocketWrite_w g

theorem execPocketWrite_same {g : Piece} {a : State} (hg : execPocketWrite_w g = false) {s : State} (h : Same g a s) (x1 : _) (x2 : _) :
    SameR g a (execPocketWrite x1 x2 s) := by
  simp only [execPocketWrite_w] at hg
  unfold execPocketWrite
  repeat' first | intro _ | with_reducible first | assumption | apply sameR_next | apply State.runCmd_same | apply State.pocketWrite_same (by assumption)

def State.pktNext_w (g : Piece) : Bool := (g == .fld .PKT_ADDR_WORD)

theorem State.pktNext_same {g : Piece} {a : State} (hg : State.pktNext_w g = false) {s : State} (h : Same g a s) :
    Same g a (State.pktNext s) := by
  simp only [State.pktNext_w] at hg
  unfold State.pktNext
  repeat' first | intro _ | with_reducible first | assumption | apply wr_same (by assumption) | apply same_ite | split

def State.pktDataRead_w (g : Piece) : Bool := State.pktRead_w g || State.pktNext_w g

theorem State.pktDataRead_same {g : Piece} {a : State} (hg : State.pktDataRead_w g = false) {s : State} (h : Same g a s) :
    Same g a (State.pktDataRead s).2 := by
  simp only [State.pktDataRead_w, Bool.or_eq_false_iff] at hg
  repeat (have := hg.2; replace hg := hg.1)
  unfold State.pktDataRead
  repeat' first | intro _ | ((fail_if_no_progress extract_lets +onlyGivenNames z); (refine same_cut2 (a := a) (g := g) z ?_ fun hz => ?_) <;> [subst z; clear_value z]) | with_reducible first | assumption | apply State.pktRead_same (by assumption) | apply State.pktNext_same (by assumption) | refine same_of2 (by assumption) ?_

def State.pktStore_w (g : Piece) : Bool := State.pktRefused_w g || State.pktDenied_w g || State.pktWrite_w g

theorem State.pktStore_same {g : Piece} {a : State} (hg : State.pktStore_w g = false) {s : State} (h : Same g a s) (x2 : _) (x3 : _) (x4 : _) (x5 : _) :
    Same g a (State.pktStore s x2 x3 x4 x5) := by
  simp only [State.pktStore_w, Bool.or_eq_false_iff] at hg
  repeat (have := hg.2; replace hg := hg.1)
  unfold State.pktStore
  repeat' first | intro _ | with_reducible first | assumption | apply State.pktRefused_same (by assumption) | apply State.pktDenied_same (by assumption) | apply State.pktWrite_same (by assumption) | apply same_ite | split

def State.pktDataWrite_w (g : Piece) : Bool := State.pktNext_w g || State.pktStore_w g

theorem State.pktDataWrite_same {g : Piece} {a : State} (hg : State.pktDataWrite_w g = false) {s : State} (h : Same g a s) (x2 : _) :
    Same g a (State.pktDataWrite s x2) := by
  simp only [State.pktDataWrite_w, Bool.or_eq_false_iff] at hg
  repeat (have := hg.2; replace hg := hg.1)
  unfold State.pktDataWrite
  repeat' first | intro _ | with_reducible first | assumption | apply State.pktNext_same (by assumption) | apply State.pktStore_same (by assumption)

def execPktDataAccess_w (g : Piece) : Bool := State.pktDataRead_w g || State.emit_w g || State.order_w g || State.pktDataWrite_w g

theorem execPktDataAccess_same {g : Piece} {a : State} (hg : execPktDataAccess_w g = false) {s : State} (h : Same g a s) (x1 : _) :
    SameR g a (execPktDataAccess x1 s) := by
  simp only [execPktDataAccess_w, Bool.or_eq_false_iff] at hg
  repeat (have := hg.2; replace hg := hg.1)
  unfold execPktDataAccess
  repeat' first | intro _ | ((fail_if_no_progress extract_lets +onlyGivenNames z); (refine same_cut2 (a := a) (g := g) z ?_ fun hz => ?_) <;> [subst z; clear_value z]) | with_reducible first | assumption | apply sameR_next | apply sameR_ite | apply State.pktDataRead_same (by assumption) | apply State.emit_same (by assumption) | apply State.order_same (by assumption) | apply State.pktDataWrite_same (by assumption) | apply same_ite | refine same_of2 (by assumption) ?_ | split

def execPocketRead_w (g : Piece) : Bool := State.pocketRead_w g

theorem execPocketRead_same {g : Piece} {a : State} (hg : execPocketRead_w g = false) {s : State} (h : Same g a s) (x1 : _) :
    SameR g a (execPocketRead x1 s) := by
  simp only [execPocketRead_w] at hg
  unfold execPocketRead
  repeat' first | intro _ | with_reducible first | assumption | apply sameR_next | apply State.runCmd_same | apply State.pocketRead_same (by assumption)

end Sys2Proof.Machine
end

