-- ==== Sys2Proof/Laws/SameStart.lean ====
section
/-!
SUPPORT. Laws/SameStart.lean: what the operations of Machine/Start.lean may change, and that they leave the rest alone.
-/

set_option linter.unusedTactic false
set_option linter.unusedSimpArgs false
set_option linter.unusedVariables false
set_option linter.tactic.unusedName false
set_option linter.unreachableTactic false

namespace Sys2Proof.Machine

def State.loadWear_w (g : Piece) : Bool := (g == .aux .wear)

theorem State.loadWear_same {g : Piece} {a : State} (hg : State.loadWear_w g = false) {s : State} (h : Same g a s) (x2 : _) (x3 : _) :
    Same g a (State.loadWear s x2 x3) := by
  simp only [State.loadWear_w] at hg
  unfold State.loadWear
  repeat' first | intro _ | with_reducible first | assumption | apply State.each_same | apply setAx_same (by assumption)

def State.saveShadows_w (g : Piece) : Bool := State.pktWrite_w g

theorem State.saveShadows_same {g : Piece} {a : State} (hg : State.saveShadows_w g = false) {s : State} (h : Same g a s) :
    Same g a (State.saveShadows s) := by
  simp only [State.saveShadows_w] at hg
  unfold State.saveShadows
  repeat' first | intro _ | ((fail_if_no_progress extract_lets +onlyGivenNames z); clear_value z) | with_reducible first | assumption | apply State.each_same | apply State.pktWrite_same (by assumption) | apply same_ite | split

def State.startShed_w (g : Piece) : Bool := State.keepShedOld_w g || State.setThrottle_w g || State.setDuty_w g || (g == .aux .shedSteps)

theorem State.startShed_same {g : Piece} {a : State} (hg : State.startShed_w g = false) {s : State} (h : Same g a s) :
    Same g a (State.startShed s) := by
  simp only [State.startShed_w, Bool.or_eq_false_iff] at hg
  repeat (have := hg.2; replace hg := hg.1)
  unfold State.startShed
  repeat' first | intro _ | ((fail_if_no_progress extract_lets +onlyGivenNames z); (refine same_cut (a := a) (g := g) z ?_ fun hz => ?_) <;> [subst z; clear_value z]) | with_reducible first | assumption | apply State.keepShedOld_same (by assumption) | apply setAx_same (by assumption) | apply State.each_same | apply State.setThrottle_same (by assumption) | apply State.setDuty_same (by assumption)

def State.warmDie_w (g : Piece) : Bool := State.spareFails_w g || State.recRead_w g || State.traceEnd_w g || State.traceStart_w g || State.aim_w g || (g == .fld .CAL_TEMP_TJ_USED)

theorem State.warmDie_same {g : Piece} {a : State} (hg : State.warmDie_w g = false) {s : State} (h : Same g a s) (x2 : _) (x3 : _) :
    Same g a (State.warmDie s x2 x3) := by
  simp only [State.warmDie_w, Bool.or_eq_false_iff] at hg
  repeat (have := hg.2; replace hg := hg.1)
  unfold State.warmDie
  repeat' first | intro _ | ((fail_if_no_progress extract_lets +onlyGivenNames z); (refine same_cut (a := a) (g := g) z ?_ fun hz => ?_) <;> [subst z; clear_value z]) | with_reducible first | assumption | apply State.each_same | apply State.spareFails_same (by assumption) | apply State.recRead_same (by assumption) | apply State.traceEnd_same (by assumption) | apply State.traceStart_same (by assumption) | apply wr_same (by assumption) | apply State.aim_same (by assumption) | apply same_ite | split

def State.warmQuick_w (g : Piece) : Bool := State.quickEnd_w g || State.startCal_w g

theorem State.warmQuick_same {g : Piece} {a : State} (hg : State.warmQuick_w g = false) {s : State} (h : Same g a s) (x2 : _) :
    Same g a (State.warmQuick s x2).2 := by
  simp only [State.warmQuick_w, Bool.or_eq_false_iff] at hg
  repeat (have := hg.2; replace hg := hg.1)
  unfold State.warmQuick
  repeat' first | intro _ | ((fail_if_no_progress extract_lets +onlyGivenNames z); clear_value z) | with_reducible first | assumption | apply State.quickEnd_same (by assumption) | apply State.startCal_same (by assumption)

def State.warmQuicks_w (g : Piece) : Bool := State.warmQuick_w g

theorem State.warmQuicks_same {g : Piece} {a : State} (hg : State.warmQuicks_w g = false) {s : State} (h : Same g a s) (x2 : _) :
    Same g a (State.warmQuicks s x2).2 := by
  simp only [State.warmQuicks_w] at hg
  induction x2 generalizing s <;> [skip; rename_i ih]
  all_goals unfold State.warmQuicks
  repeat' first | intro _ | ((fail_if_no_progress extract_lets +onlyGivenNames z); (refine same_cut2 (a := a) (g := g) z ?_ fun hz => ?_) <;> [subst z; clear_value z]) | with_reducible first | assumption | apply State.warmQuick_same (by assumption) | refine same_of2 (by assumption) ?_ | apply ih | split

def State.rerun_w (g : Piece) : Bool := State.restartFrom3_w g || State.resetReg_w g || (g == .aux .coldPower) || (g == .aux .retryAt)

theorem State.rerun_same {g : Piece} {a : State} (hg : State.rerun_w g = false) {s : State} (h : Same g a s) :
    Same g a (State.rerun s) := by
  simp only [State.rerun_w, Bool.or_eq_false_iff] at hg
  repeat (have := hg.2; replace hg := hg.1)
  unfold State.rerun
  repeat' first | intro _ | with_reducible first | assumption | apply State.each_same | apply setAx_same (by assumption) | apply State.restartFrom3_same (by assumption) | apply State.resetReg_same (by assumption)

def State.startFail_w (g : Piece) : Bool := State.rerun_w g || (g == .fld .START_REPORT_LAST) || (g == .aux .nvLast)

theorem State.startFail_same {g : Piece} {a : State} (hg : State.startFail_w g = false) {s : State} (h : Same g a s) (x2 : _) :
    Same g a (State.startFail s x2) := by
  simp only [State.startFail_w, Bool.or_eq_false_iff] at hg
  repeat (have := hg.2; replace hg := hg.1)
  unfold State.startFail
  repeat' first | intro _ | with_reducible first | assumption | apply State.rerun_same (by assumption) | apply wr_same (by assumption) | apply setAx_same (by assumption)

def State.markStep_w (g : Piece) : Bool := (g == .fld .START_REPORT_STEP) || (g == .aux .startMask)

theorem State.markStep_same {g : Piece} {a : State} (hg : State.markStep_w g = false) {s : State} (h : Same g a s) (x2 : _) :
    Same g a (State.markStep s x2) := by
  simp only [State.markStep_w, Bool.or_eq_false_iff] at hg
  repeat (have := hg.2; replace hg := hg.1)
  unfold State.markStep
  repeat' first | intro _ | with_reducible first | assumption | apply wr_same (by assumption) | apply setAx_same (by assumption)

def State.step9_w (g : Piece) : Bool := State.startShed_w g || State.warmDie_w g || State.warmQuicks_w g || State.startFail_w g || State.markStep_w g

theorem State.step9_same {g : Piece} {a : State} (hg : State.step9_w g = false) {s : State} (h : Same g a s) (x2 : _) :
    Same g a (State.step9 s x2) := by
  simp only [State.step9_w, Bool.or_eq_false_iff] at hg
  repeat (have := hg.2; replace hg := hg.1)
  unfold State.step9
  repeat' first | intro _ | ((fail_if_no_progress extract_lets +onlyGivenNames z); first | (first | refine same_cut (a := a) (g := g) z ?_ fun hz => ?_ | refine same_cut2 (a := a) (g := g) z ?_ fun hz => ?_) <;> [subst z; clear_value z] | clear_value z) | with_reducible first | assumption | apply State.when_same | apply State.startShed_same (by assumption) | apply State.each_same | apply State.warmDie_same (by assumption) | apply State.warmQuicks_same (by assumption) | apply State.startFail_same (by assumption) | apply State.markStep_same (by assumption) | apply same_ite | refine same_of2 (by assumption) ?_ | split

def State.powerGood_w (g : Piece) : Bool := State.markStep_w g || (g == .aux .coldPower) || (g == .aux .startAt)

theorem State.powerGood_same {g : Piece} {a : State} (hg : State.powerGood_w g = false) {s : State} (h : Same g a s) :
    Same g a (State.powerGood s) := by
  simp only [State.powerGood_w, Bool.or_eq_false_iff] at hg
  repeat (have := hg.2; replace hg := hg.1)
  unfold State.powerGood
  repeat' first | intro _ | with_reducible first | assumption | apply setAx_same (by assumption) | apply State.markStep_same (by assumption)

def execPowerGood_w (g : Piece) : Bool := State.powerGood_w g

theorem execPowerGood_same {g : Piece} {a : State} (hg : execPowerGood_w g = false) {s : State} (h : Same g a s) :
    SameR g a (execPowerGood s) := by
  simp only [execPowerGood_w] at hg
  unfold execPowerGood
  repeat' first | intro _ | with_reducible first | assumption | apply sameR_next | apply sameR_ite | apply State.powerGood_same (by assumption) | apply same_ite | split

def State.dieBack_w (g : Piece) : Bool := State.capUpdate_w g || (g == .fld .FLT_DIE_RESTORES) || (g == .fld .PWR_STAT_TSHUT)

theorem State.dieBack_same {g : Piece} {a : State} (hg : State.dieBack_w g = false) {s : State} (h : Same g a s) (x2 : _) :
    Same g a (State.dieBack s x2) := by
  simp only [State.dieBack_w, Bool.or_eq_false_iff] at hg
  repeat (have := hg.2; replace hg := hg.1)
  unfold State.dieBack
  repeat' first | intro _ | with_reducible first | assumption | apply State.capUpdate_same (by assumption) | apply bump_same (by assumption) | apply wr_same (by assumption)

def State.coldReset_w (g : Piece) : Bool := true

theorem State.coldReset_same {g : Piece} {a : State} (hg : State.coldReset_w g = false) {s : State} (h : Same g a s) (x2 : _) :
    Same g a (State.coldReset s x2) := by
  simp [State.coldReset_w] at hg

def State.perstRelease_w (g : Piece) : Bool := State.restartFrom3_w g || State.coldReset_w g

theorem State.perstRelease_same {g : Piece} {a : State} (hg : State.perstRelease_w g = false) {s : State} (h : Same g a s) :
    Same g a (State.perstRelease s) := by
  simp only [State.perstRelease_w, Bool.or_eq_false_iff] at hg
  repeat (have := hg.2; replace hg := hg.1)
  unfold State.perstRelease
  repeat' first | intro _ | with_reducible first | assumption | apply State.restartFrom3_same (by assumption) | apply State.coldReset_same (by assumption)

def State.step2_w (g : Piece) : Bool := State.markStep_w g || (g == .fld .CLK_STAT_MGMT_ON_RC)

theorem State.step2_same {g : Piece} {a : State} (hg : State.step2_w g = false) {s : State} (h : Same g a s) :
    Same g a (State.step2 s) := by
  simp only [State.step2_w, Bool.or_eq_false_iff] at hg
  repeat (have := hg.2; replace hg := hg.1)
  unfold State.step2
  repeat' first | intro _ | with_reducible first | assumption | apply State.markStep_same (by assumption) | apply wr_same (by assumption) | apply same_ite | split

def State.startClockEvent_w (g : Piece) : Bool := State.clockLossEvent_w g || (g == .aux .lossPending)

theorem State.startClockEvent_same {g : Piece} {a : State} (hg : State.startClockEvent_w g = false) {s : State} (h : Same g a s) :
    Same g a (State.startClockEvent s) := by
  simp only [State.startClockEvent_w, Bool.or_eq_false_iff] at hg
  repeat (have := hg.2; replace hg := hg.1)
  unfold State.startClockEvent
  repeat' first | intro _ | ((fail_if_no_progress extract_lets +onlyGivenNames z); clear_value z) | with_reducible first | assumption | apply setAx_same (by assumption) | apply State.clockLossEvent_same (by assumption) | apply same_ite | split

def State.startRoundOf_w (g : Piece) : Bool := State.event_w g || State.queueCal_w g || (g == .aux .startRej) || (g == .aux .startAcc) || (g == .fld .CAL_STATUS_START_DONE) || (g == .aux .startCal) || (g == .aux .roundTile)

theorem State.startRoundOf_same {g : Piece} {a : State} (hg : State.startRoundOf_w g = false) {s : State} (h : Same g a s) (x2 : _) :
    Same g a (State.startRoundOf s x2) := by
  simp only [State.startRoundOf_w, Bool.or_eq_false_iff] at hg
  repeat (have := hg.2; replace hg := hg.1)
  unfold State.startRoundOf
  repeat' first | intro _ | ((fail_if_no_progress extract_lets +onlyGivenNames z); first | (refine same_cut (a := a) (g := g) z ?_ fun hz => ?_) <;> [subst z; clear_value z] | clear_value z) | with_reducible first | assumption | apply setAx_same (by assumption) | apply State.event_same (by assumption) | apply wr_same (by assumption) | apply State.each_same | apply State.queueCal_same (by assumption) | apply same_ite | split

def State.bringUp_w (g : Piece) : Bool := State.dieOnline_w g || State.event_w g || (g == .aux .keyBad)

theorem State.bringUp_same {g : Piece} {a : State} (hg : State.bringUp_w g = false) {s : State} (h : Same g a s) (x2 : _) :
    Same g a (State.bringUp s x2) := by
  simp only [State.bringUp_w, Bool.or_eq_false_iff] at hg
  repeat (have := hg.2; replace hg := hg.1)
  unfold State.bringUp
  repeat' first | intro _ | ((fail_if_no_progress extract_lets +onlyGivenNames z); first | (refine same_cut (a := a) (g := g) z ?_ fun hz => ?_) <;> [subst z; clear_value z] | clear_value z) | with_reducible first | assumption | apply setAx_same (by assumption) | apply State.dieOnline_same (by assumption) | apply State.event_same (by assumption) | apply same_ite | split

def State.step8_w (g : Piece) : Bool := State.startFail_w g || State.bringUp_w g || State.dieOffline_w g || State.markStep_w g

theorem State.step8_same {g : Piece} {a : State} (hg : State.step8_w g = false) {s : State} (h : Same g a s) (x2 : _) :
    Same g a (State.step8 s x2) := by
  simp only [State.step8_w, Bool.or_eq_false_iff] at hg
  repeat (have := hg.2; replace hg := hg.1)
  unfold State.step8
  repeat' first | intro _ | ((fail_if_no_progress extract_lets +onlyGivenNames z); (refine same_cut (a := a) (g := g) z ?_ fun hz => ?_) <;> [subst z; clear_value z]) | with_reducible first | assumption | apply State.startFail_same (by assumption) | apply State.each_same | apply State.bringUp_same (by assumption) | apply State.dieOffline_same (by assumption) | apply State.markStep_same (by assumption) | apply same_ite | split

def State.readyEvent_w (g : Piece) : Bool := State.event_w g

theorem State.readyEvent_same {g : Piece} {a : State} (hg : State.readyEvent_w g = false) {s : State} (h : Same g a s) :
    Same g a (State.readyEvent s) := by
  simp only [State.readyEvent_w] at hg
  unfold State.readyEvent
  repeat' first | intro _ | with_reducible first | assumption | apply State.event_same (by assumption)

def State.shadowEvent_w (g : Piece) : Bool := State.event_w g || (g == .aux .shadowCause)

theorem State.shadowEvent_same {g : Piece} {a : State} (hg : State.shadowEvent_w g = false) {s : State} (h : Same g a s) :
    Same g a (State.shadowEvent s) := by
  simp only [State.shadowEvent_w, Bool.or_eq_false_iff] at hg
  repeat (have := hg.2; replace hg := hg.1)
  unfold State.shadowEvent
  repeat' first | intro _ | with_reducible first | assumption | apply State.each_same | apply setAx_same (by assumption) | apply State.event_same (by assumption) | split

def State.startRecords_w (g : Piece) : Bool := State.event_w g || State.readyEvent_w g || State.startClockEvent_w g || State.shedOnEvent_w g || State.shadowEvent_w g || (g == .aux .pfRingSeen)

theorem State.startRecords_same {g : Piece} {a : State} (hg : State.startRecords_w g = false) {s : State} (h : Same g a s) :
    Same g a (State.startRecords s) := by
  simp only [State.startRecords_w, Bool.or_eq_false_iff] at hg
  repeat (have := hg.2; replace hg := hg.1)
  unfold State.startRecords
  repeat' first | intro _ | ((fail_if_no_progress extract_lets +onlyGivenNames z); (refine same_cut (a := a) (g := g) z ?_ fun hz => ?_) <;> [subst z; clear_value z]) | with_reducible first | assumption | apply setAx_same (by assumption) | apply State.event_same (by assumption) | apply State.readyEvent_same (by assumption) | apply State.startClockEvent_same (by assumption) | apply State.shedOnEvent_same (by assumption) | apply State.shadowEvent_same (by assumption) | apply same_ite | split

def execPerstNRelease_w (g : Piece) : Bool := State.perstRelease_w g

theorem execPerstNRelease_same {g : Piece} {a : State} (hg : execPerstNRelease_w g = false) {s : State} (h : Same g a s) :
    SameR g a (execPerstNRelease s) := by
  simp only [execPerstNRelease_w] at hg
  unfold execPerstNRelease
  repeat' first | intro _ | with_reducible first | assumption | apply sameR_next | apply sameR_ite | apply State.perstRelease_same (by assumption) | apply same_ite | split

def State.trainDie_w (g : Piece) : Bool := (g == .fld .MEM_STAT_TRAINED) || (g == .fld .MEM_STAT_IECC_ON) || (g == .aux .memInForce) || (g == .fld .MEM_CH_RANKS) || (g == .fld .MEM_CH_FAILS) || (g == .fld .MEM_CH_STATE) || (g == .fld .MEM_CAP_DATA_MIB) || (g == .fld .MEM_CAP_DEVICE_MIB) || (g == .fld .MEM_STAT_SELF_REFRESH)

theorem State.trainDie_same {g : Piece} {a : State} (hg : State.trainDie_w g = false) {s : State} (h : Same g a s) (x2 : _) :
    Same g a (State.trainDie s x2) := by
  simp only [State.trainDie_w, Bool.or_eq_false_iff] at hg
  repeat (have := hg.2; replace hg := hg.1)
  unfold State.trainDie
  repeat' first | intro _ | ((fail_if_no_progress extract_lets +onlyGivenNames z); first | (refine same_cut (a := a) (g := g) z ?_ fun hz => ?_) <;> [subst z; clear_value z] | clear_value z) | with_reducible first | assumption | apply wr_same (by assumption) | apply setAx_same (by assumption) | apply State.each_same | apply same_ite | split

def State.ringOn_w (g : Piece) : Bool := State.ringEnable_w g || State.startRecords_w g

theorem State.ringOn_same {g : Piece} {a : State} (hg : State.ringOn_w g = false) {s : State} (h : Same g a s) (x2 : _) (x3 : _) :
    Same g a (State.ringOn s x2 x3) := by
  simp only [State.ringOn_w, Bool.or_eq_false_iff] at hg
  repeat (have := hg.2; replace hg := hg.1)
  unfold State.ringOn
  repeat' first | intro _ | ((fail_if_no_progress extract_lets +onlyGivenNames z); (refine same_cut (a := a) (g := g) z ?_ fun hz => ?_) <;> [subst z; clear_value z]) | with_reducible first | assumption | apply State.ringEnable_same (by assumption) | apply State.startRecords_same (by assumption) | apply same_ite | split

def State.cutStart_w (g : Piece) : Bool := (g == .aux .nvLast)

theorem State.cutStart_same {g : Piece} {a : State} (hg : State.cutStart_w g = false) {s : State} (h : Same g a s) :
    Same g a (State.cutStart s) := by
  simp only [State.cutStart_w] at hg
  unfold State.cutStart
  repeat' first | intro _ | with_reducible first | assumption | apply setAx_same (by assumption) | apply same_ite | split

def State.perstAssert_w (g : Piece) : Bool := State.enterSafe_w g || State.cutStart_w g || State.endJobSilently_w g || (g == .aux .perst)

theorem State.perstAssert_same {g : Piece} {a : State} (hg : State.perstAssert_w g = false) {s : State} (h : Same g a s) :
    Same g a (State.perstAssert s) := by
  simp only [State.perstAssert_w, Bool.or_eq_false_iff] at hg
  repeat (have := hg.2; replace hg := hg.1)
  unfold State.perstAssert
  repeat' first | intro _ | ((fail_if_no_progress extract_lets +onlyGivenNames z); (refine same_cut (a := a) (g := g) z ?_ fun hz => ?_) <;> [subst z; clear_value z]) | with_reducible first | assumption | apply State.enterSafe_same (by assumption) | apply State.cutStart_same (by assumption) | apply setAx_same (by assumption) | apply State.each_same | apply State.endJobSilently_same (by assumption)

def execPerstNAssert_w (g : Piece) : Bool := State.perstAssert_w g

theorem execPerstNAssert_same {g : Piece} {a : State} (hg : execPerstNAssert_w g = false) {s : State} (h : Same g a s) :
    SameR g a (execPerstNAssert s) := by
  simp only [execPerstNAssert_w] at hg
  unfold execPerstNAssert
  repeat' first | intro _ | with_reducible first | assumption | apply sameR_next | apply sameR_ite | apply State.perstAssert_same (by assumption) | apply same_ite | split

def State.powerFail_w (g : Piece) : Bool := State.enterSafe_w g || State.cutStart_w g || State.saveShadows_w g || State.endJobSilently_w g || (g == .aux .shadowSkip) || (g == .aux .saveWait)

theorem State.powerFail_same {g : Piece} {a : State} (hg : State.powerFail_w g = false) {s : State} (h : Same g a s) (x2 : _) :
    Same g a (State.powerFail s x2) := by
  simp only [State.powerFail_w, Bool.or_eq_false_iff] at hg
  repeat (have := hg.2; replace hg := hg.1)
  unfold State.powerFail
  repeat' first | intro _ | ((fail_if_no_progress extract_lets +onlyGivenNames z); (refine same_cut (a := a) (g := g) z ?_ fun hz => ?_) <;> [subst z; clear_value z]) | with_reducible first | assumption | apply State.enterSafe_same (by assumption) | apply State.cutStart_same (by assumption) | apply setAx_same (by assumption) | apply State.saveShadows_same (by assumption) | apply State.each_same | apply State.endJobSilently_same (by assumption) | apply same_ite | split

def execPowerFailTrip_w (g : Piece) : Bool := State.powerFail_w g

theorem execPowerFailTrip_same {g : Piece} {a : State} (hg : execPowerFailTrip_w g = false) {s : State} (h : Same g a s) (x1 : _) :
    SameR g a (execPowerFailTrip x1 s) := by
  simp only [execPowerFailTrip_w] at hg
  unfold execPowerFailTrip
  repeat' first | intro _ | with_reducible first | assumption | apply sameR_next | apply sameR_ite | apply State.powerFail_same (by assumption) | apply same_ite | split

def State.loadShadows_w (g : Piece) : Bool := State.loadWear_w g || (g == .fld .PKT_LIFE_CYCLES_COUNT) || (g == .fld .PKT_LIFE_STITCHES_COUNT) || (g == .fld .PKT_LIFE_ENERGY_JOULES) || (g == .fld .PKT_LIFE_POH_HOURS) || (g == .aux .shadowSkip) || (g == .aux .shadowSeq) || (g == .aux .shadowCause) || (g == .fld .PKT_STAT_SHADOW)

theorem State.loadShadows_same {g : Piece} {a : State} (hg : State.loadShadows_w g = false) {s : State} (h : Same g a s) (x2 : _) :
    Same g a (State.loadShadows s x2) := by
  simp only [State.loadShadows_w, Bool.or_eq_false_iff] at hg
  repeat (have := hg.2; replace hg := hg.1)
  unfold State.loadShadows
  repeat' first | intro _ | ((fail_if_no_progress extract_lets +onlyGivenNames z); first | (refine same_cut (a := a) (g := g) z ?_ fun hz => ?_) <;> [subst z; clear_value z] | clear_value z) | with_reducible first | assumption | apply State.each_same | apply State.loadWear_same (by assumption) | apply wr_same (by assumption) | apply setAx_same (by assumption) | apply foldl_same | apply same_ite | split

def State.loadMemCfg_w (g : Piece) : Bool := State.resetReg_w g || (g == .fld .MEM_CFG_RATE) || (g == .fld .MEM_CFG_LECC) || (g == .fld .MEM_CFG_IECC)

theorem State.loadMemCfg_same {g : Piece} {a : State} (hg : State.loadMemCfg_w g = false) {s : State} (h : Same g a s) :
    Same g a (State.loadMemCfg s) := by
  simp only [State.loadMemCfg_w, Bool.or_eq_false_iff] at hg
  repeat (have := hg.2; replace hg := hg.1)
  unfold State.loadMemCfg
  repeat' first | intro _ | ((fail_if_no_progress extract_lets +onlyGivenNames z); clear_value z) | with_reducible first | assumption | apply State.each_same | apply State.resetReg_same (by assumption) | apply wr_same (by assumption) | apply same_ite | split

def State.enterMinimal_w (g : Piece) : Bool := State.event_w g || (g == .fld .START_REPORT_REASON) || (g == .fld .START_REPORT_STATE) || (g == .fld .START_REPORT_FW_SLOT) || (g == .fld .CLK_SG_GROUP) || (g == .fld .CLK_GATE_BLK)

theorem State.enterMinimal_same {g : Piece} {a : State} (hg : State.enterMinimal_w g = false) {s : State} (h : Same g a s) (x2 : _) :
    Same g a (State.enterMinimal s x2) := by
  simp only [State.enterMinimal_w, Bool.or_eq_false_iff] at hg
  repeat (have := hg.2; replace hg := hg.1)
  unfold State.enterMinimal
  repeat' first | intro _ | ((fail_if_no_progress extract_lets +onlyGivenNames z); first | (refine same_cut (a := a) (g := g) z ?_ fun hz => ?_) <;> [subst z; clear_value z] | clear_value z) | with_reducible first | assumption | apply wr_same (by assumption) | apply State.each_same | apply State.event_same (by assumption) | apply same_ite | split

def State.step4_w (g : Piece) : Bool := State.event_w g || State.loadShadows_w g || State.loadMemCfg_w g || State.enterMinimal_w g || State.markStep_w g || (g == .fld .CHN_CFG_ADDR) || (g == .fld .CHN_CFG_VALID) || (g == .aux .coldPower) || (g == .fld .START_REPORT_LAST) || (g == .fld .START_REPORT_FAILS) || (g == .aux .startLost) || (g == .aux .nvFails)

theorem State.step4_same {g : Piece} {a : State} (hg : State.step4_w g = false) {s : State} (h : Same g a s) (x2 : _) :
    Same g a (State.step4 s x2) := by
  simp only [State.step4_w, Bool.or_eq_false_iff] at hg
  repeat (have := hg.2; replace hg := hg.1)
  unfold State.step4
  repeat' first | intro _ | ((fail_if_no_progress extract_lets +onlyGivenNames z); first | (refine same_cut (a := a) (g := g) z ?_ fun hz => ?_) <;> [subst z; clear_value z] | clear_value z) | with_reducible first | assumption | apply State.each_same | apply State.event_same (by assumption) | apply State.when_same | apply wr_same (by assumption) | apply State.loadShadows_same (by assumption) | apply State.loadMemCfg_same (by assumption) | apply setAx_same (by assumption) | apply State.enterMinimal_same (by assumption) | apply State.markStep_same (by assumption) | apply same_ite | split

def State.step5_w (g : Piece) : Bool := State.startFail_w g || State.event_w g || State.markStep_w g || (g == .aux .fwForce) || (g == .fld .START_REPORT_FW_SLOT) || (g == .aux .fwFell)

theorem State.step5_same {g : Piece} {a : State} (hg : State.step5_w g = false) {s : State} (h : Same g a s) (x2 : _) :
    Same g a (State.step5 s x2) := by
  simp only [State.step5_w, Bool.or_eq_false_iff] at hg
  repeat (have := hg.2; replace hg := hg.1)
  unfold State.step5
  repeat' first | intro _ | ((fail_if_no_progress extract_lets +onlyGivenNames z); first | (refine same_cut (a := a) (g := g) z ?_ fun hz => ?_) <;> [subst z; clear_value z] | clear_value z) | with_reducible first | assumption | apply State.startFail_same (by assumption) | apply setAx_same (by assumption) | apply wr_same (by assumption) | apply State.event_same (by assumption) | apply State.markStep_same (by assumption) | apply same_ite | split

def State.step6_w (g : Piece) : Bool := State.startFail_w g || State.markStep_w g || State.setLock_w g || (g == .fld .CLK_PLL_POSTDIV) || (g == .fld .CLK_PLL_REFDIV) || (g == .fld .CLK_PLL_FBDIV) || (g == .fld .CLK_DTCTRL_HOLDOVER) || (g == .fld .CLK_STAT_MGMT_ON_RC) || (g == .aux .pllsOnce) || (g == .aux .relock)

theorem State.step6_same {g : Piece} {a : State} (hg : State.step6_w g = false) {s : State} (h : Same g a s) (x2 : _) :
    Same g a (State.step6 s x2) := by
  simp only [State.step6_w, Bool.or_eq_false_iff] at hg
  repeat (have := hg.2; replace hg := hg.1)
  unfold State.step6
  repeat' first | intro _ | ((fail_if_no_progress extract_lets +onlyGivenNames z); first | (refine same_cut (a := a) (g := g) z ?_ fun hz => ?_) <;> [subst z; clear_value z] | clear_value z) | with_reducible first | assumption | apply State.startFail_same (by assumption) | apply wr_same (by assumption) | apply setAx_same (by assumption) | apply State.markStep_same (by assumption) | apply State.setLock_same (by assumption) | apply foldl_same | apply same_ite | split

def State.step7_w (g : Piece) : Bool := State.markStep_w g || State.trainDie_w g || State.startFail_w g

theorem State.step7_same {g : Piece} {a : State} (hg : State.step7_w g = false) {s : State} (h : Same g a s) (x2 : _) :
    Same g a (State.step7 s x2) := by
  simp only [State.step7_w, Bool.or_eq_false_iff] at hg
  repeat (have := hg.2; replace hg := hg.1)
  unfold State.step7
  repeat' first | intro _ | with_reducible first | assumption | apply State.markStep_same (by assumption) | apply State.each_same | apply State.trainDie_same (by assumption) | apply State.startFail_same (by assumption) | apply same_ite | split

def State.step11_w (g : Piece) : Bool := State.markStep_w g || State.readyEvent_w g || State.capUpdate_w g || State.startRoundOf_w g || (g == .fld .START_REPORT_STATE) || (g == .fld .START_TIME_MS) || (g == .aux .readyAt) || (g == .fld .START_REPORT_FAILS) || (g == .aux .nvFails) || (g == .aux .readyFails)

theorem State.step11_same {g : Piece} {a : State} (hg : State.step11_w g = false) {s : State} (h : Same g a s) :
    Same g a (State.step11 s) := by
  simp only [State.step11_w, Bool.or_eq_false_iff] at hg
  repeat (have := hg.2; replace hg := hg.1)
  unfold State.step11
  repeat' first | intro _ | ((fail_if_no_progress extract_lets +onlyGivenNames z); (refine same_cut (a := a) (g := g) z ?_ fun hz => ?_) <;> [subst z; clear_value z]) | with_reducible first | assumption | apply wr_same (by assumption) | apply State.markStep_same (by assumption) | apply setAx_same (by assumption) | apply State.readyEvent_same (by assumption) | apply State.capUpdate_same (by assumption) | apply State.each_same | apply State.startRoundOf_same (by assumption)

def State.startStep_w (g : Piece) : Bool := State.step2_w g || State.step4_w g || State.step5_w g || State.step6_w g || State.step7_w g || State.step8_w g || State.step9_w g || State.step11_w g || State.markStep_w g

theorem State.startStep_same {g : Piece} {a : State} (hg : State.startStep_w g = false) {s : State} (h : Same g a s) (x2 : _) (x3 : _) :
    Same g a (State.startStep s x2 x3) := by
  simp only [State.startStep_w, Bool.or_eq_false_iff] at hg
  repeat (have := hg.2; replace hg := hg.1)
  unfold State.startStep
  repeat' first | intro _ | with_reducible first | assumption | apply State.step2_same (by assumption) | apply State.step4_same (by assumption) | apply State.step5_same (by assumption) | apply State.step6_same (by assumption) | apply State.step7_same (by assumption) | apply State.step8_same (by assumption) | apply State.step9_same (by assumption) | apply State.step11_same (by assumption) | apply State.markStep_same (by assumption) | apply same_ite | split

def execEvrCtrlEnable_w (g : Piece) : Bool := State.order_w g || State.ringOn_w g

theorem execEvrCtrlEnable_same {g : Piece} {a : State} (hg : execEvrCtrlEnable_w g = false) {s : State} (h : Same g a s) (x1 : _) (x2 : _) :
    SameR g a (execEvrCtrlEnable x1 x2 s) := by
  simp only [execEvrCtrlEnable_w, Bool.or_eq_false_iff] at hg
  repeat (have := hg.2; replace hg := hg.1)
  unfold execEvrCtrlEnable
  repeat' first | intro _ | with_reducible first | assumption | apply sameR_next | apply State.order_same (by assumption) | apply State.ringOn_same (by assumption)

def State.startRetry_w (g : Piece) : Bool := State.completeCmd_w g || (g == .fld .START_REPORT_FAILS) || (g == .aux .nvFails) || (g == .aux .startLost) || (g == .aux .nvMem) || (g == .aux .fwForce) || (g == .aux .retryAt)

theorem State.startRetry_same {g : Piece} {a : State} (hg : State.startRetry_w g = false) {s : State} (h : Same g a s) (x2 : _) :
    Same g a (State.startRetry s x2) := by
  simp only [State.startRetry_w, Bool.or_eq_false_iff] at hg
  repeat (have := hg.2; replace hg := hg.1)
  unfold State.startRetry
  repeat' first | intro _ | ((fail_if_no_progress extract_lets +onlyGivenNames z); (refine same_cut (a := a) (g := g) z ?_ fun hz => ?_) <;> [subst z; clear_value z]) | with_reducible first | assumption | apply State.completeCmd_same (by assumption) | apply wr_same (by assumption) | apply setAx_same (by assumption) | apply State.when_same | apply State.each_same | apply same_ite | split

def execStartRetry_w (g : Piece) : Bool := State.startRetry_w g

theorem execStartRetry_same {g : Piece} {a : State} (hg : execStartRetry_w g = false) {s : State} (h : Same g a s) (x1 : _) :
    SameR g a (execStartRetry x1 s) := by
  simp only [execStartRetry_w] at hg
  unfold execStartRetry
  repeat' first | intro _ | with_reducible first | assumption | apply sameR_next | apply State.runCmd_same | apply State.startRetry_same (by assumption)

def State.dieSteps_w (g : Piece) : Bool := State.warmDie_w g || State.copyPrograms_w g || State.bringUp_w g || State.startBanks_w g || State.trainDie_w g || State.freeLostTiles_w g

theorem State.dieSteps_same {g : Piece} {a : State} (hg : State.dieSteps_w g = false) {s : State} (h : Same g a s) (x2 : _) (x3 : _) :
    Same g a (State.dieSteps s x2 x3) := by
  simp only [State.dieSteps_w, Bool.or_eq_false_iff] at hg
  repeat (have := hg.2; replace hg := hg.1)
  unfold State.dieSteps
  repeat' first | intro _ | with_reducible first | assumption | apply State.warmDie_same (by assumption) | apply State.copyPrograms_same (by assumption) | apply State.bringUp_same (by assumption) | apply State.startBanks_same (by assumption) | apply State.trainDie_same (by assumption) | apply State.freeLostTiles_same (by assumption)

def State.restoreDie_w (g : Piece) : Bool := State.dieSteps_w g || State.warmQuicks_w g || State.dieBack_w g

theorem State.restoreDie_same {g : Piece} {a : State} (hg : State.restoreDie_w g = false) {s : State} (h : Same g a s) (x2 : _) (x3 : _) :
    Same g a (State.restoreDie s x2 x3).2 := by
  simp only [State.restoreDie_w, Bool.or_eq_false_iff] at hg
  repeat (have := hg.2; replace hg := hg.1)
  unfold State.restoreDie
  repeat' first | intro _ | ((fail_if_no_progress extract_lets +onlyGivenNames z); first | (first | refine same_cut (a := a) (g := g) z ?_ fun hz => ?_ | refine same_cut2 (a := a) (g := g) z ?_ fun hz => ?_) <;> [subst z; clear_value z] | clear_value z) | with_reducible first | assumption | apply State.dieSteps_same (by assumption) | apply State.warmQuicks_same (by assumption) | apply State.dieBack_same (by assumption) | refine same_of2 (by assumption) ?_ | split

def State.dieRestore_w (g : Piece) : Bool := State.completeCmd_w g || State.restoreDie_w g || State.event_w g

theorem State.dieRestore_same {g : Piece} {a : State} (hg : State.dieRestore_w g = false) {s : State} (h : Same g a s) (x2 : _) (x3 : _) (x4 : _) :
    Same g a (State.dieRestore s x2 x3 x4) := by
  simp only [State.dieRestore_w, Bool.or_eq_false_iff] at hg
  repeat (have := hg.2; replace hg := hg.1)
  unfold State.dieRestore
  repeat' first | intro _ | ((fail_if_no_progress extract_lets +onlyGivenNames z); first | (refine same_cut2 (a := a) (g := g) z ?_ fun hz => ?_) <;> [subst z; clear_value z] | clear_value z) | with_reducible first | assumption | apply State.completeCmd_same (by assumption) | apply State.restoreDie_same (by assumption) | apply State.event_same (by assumption) | apply same_ite | refine same_of2 (by assumption) ?_ | split

def execDieRestore_w (g : Piece) : Bool := State.dieRestore_w g

theorem execDieRestore_same {g : Piece} {a : State} (hg : execDieRestore_w g = false) {s : State} (h : Same g a s) (x1 : _) (x2 : _) :
    SameR g a (execDieRestore x1 x2 s) := by
  simp only [execDieRestore_w] at hg
  unfold execDieRestore
  repeat' first | intro _ | with_reducible first | assumption | apply sameR_next | apply State.runCmd_same | apply State.dieRestore_same (by assumption)

def State.railDip_w (g : Piece) : Bool := State.enterSafe_w g || (g == .aux .railWait) || (g == .safeJobs)

theorem State.railDip_same {g : Piece} {a : State} (hg : State.railDip_w g = false) {s : State} (h : Same g a s) :
    Same g a (State.railDip s) := by
  simp only [State.railDip_w, Bool.or_eq_false_iff] at hg
  repeat (have := hg.2; replace hg := hg.1)
  unfold State.railDip
  repeat' first | intro _ | ((fail_if_no_progress extract_lets +onlyGivenNames z); clear_value z) | with_reducible first | assumption | apply setAx_same (by assumption) | apply State.enterSafe_same (by assumption) | fail_if_no_progress apply same_mk_safeJobs (by assumption) | split

def execRailDip_w (g : Piece) : Bool := State.railDip_w g

theorem execRailDip_same {g : Piece} {a : State} (hg : execRailDip_w g = false) {s : State} (h : Same g a s) :
    SameR g a (execRailDip s) := by
  simp only [execRailDip_w] at hg
  unfold execRailDip
  repeat' first | intro _ | with_reducible first | assumption | apply sameR_next | apply sameR_ite | apply State.railDip_same (by assumption) | apply same_ite | split

def State.railBack_w (g : Piece) : Bool := State.restoreClocks_w g || State.faultJobs_w g || State.leaveSafe_w g || (g == .aux .railWait) || (g == .safeJobs)

theorem State.railBack_same {g : Piece} {a : State} (hg : State.railBack_w g = false) {s : State} (h : Same g a s) :
    Same g a (State.railBack s) := by
  simp only [State.railBack_w, Bool.or_eq_false_iff] at hg
  repeat (have := hg.2; replace hg := hg.1)
  unfold State.railBack
  repeat' first | intro _ | ((fail_if_no_progress extract_lets +onlyGivenNames z); first | (refine same_cut (a := a) (g := g) z ?_ fun hz => ?_) <;> [subst z; clear_value z] | clear_value z) | with_reducible first | assumption | apply setAx_same (by assumption) | apply State.restoreClocks_same (by assumption) | apply State.faultJobs_same (by assumption) | apply State.leaveSafe_same (by assumption) | fail_if_no_progress apply same_mk_safeJobs (by assumption) | apply same_ite | split

def execRailRecovered_w (g : Piece) : Bool := State.railBack_w g

theorem execRailRecovered_same {g : Piece} {a : State} (hg : execRailRecovered_w g = false) {s : State} (h : Same g a s) :
    SameR g a (execRailRecovered s) := by
  simp only [execRailRecovered_w] at hg
  unfold execRailRecovered
  repeat' first | intro _ | with_reducible first | assumption | apply sameR_next | apply sameR_ite | apply State.railBack_same (by assumption) | apply same_ite | split

def execMgmtWatchdogMiss_w (g : Piece) : Bool := State.startFail_w g || State.dieOffline_w g

theorem execMgmtWatchdogMiss_same {g : Piece} {a : State} (hg : execMgmtWatchdogMiss_w g = false) {s : State} (h : Same g a s) (x1 : _) :
    SameR g a (execMgmtWatchdogMiss x1 s) := by
  simp only [execMgmtWatchdogMiss_w, Bool.or_eq_false_iff] at hg
  repeat (have := hg.2; replace hg := hg.1)
  unfold execMgmtWatchdogMiss
  repeat' first | intro _ | with_reducible first | assumption | apply sameR_next | apply sameR_ite | apply State.startFail_same (by assumption) | apply State.dieOffline_same (by assumption) | apply same_ite | split

def State.saveRestart_w (g : Piece) : Bool := State.powerGood_w g || State.coldReset_w g || (g == .aux .pllsOnce)

theorem State.saveRestart_same {g : Piece} {a : State} (hg : State.saveRestart_w g = false) {s : State} (h : Same g a s) :
    Same g a (State.saveRestart s) := by
  simp only [State.saveRestart_w, Bool.or_eq_false_iff] at hg
  repeat (have := hg.2; replace hg := hg.1)
  unfold State.saveRestart
  repeat' first | intro _ | with_reducible first | assumption | apply State.powerGood_same (by assumption) | apply setAx_same (by assumption) | apply State.coldReset_same (by assumption)

def execStartTimeout_w (g : Piece) : Bool := State.startFail_w g

theorem execStartTimeout_same {g : Piece} {a : State} (hg : execStartTimeout_w g = false) {s : State} (h : Same g a s) :
    SameR g a (execStartTimeout s) := by
  simp only [execStartTimeout_w] at hg
  unfold execStartTimeout
  repeat' first | intro _ | with_reducible first | assumption | apply sameR_next | apply sameR_ite | apply State.startFail_same (by assumption) | apply same_ite | split

def State.retryDue_w (g : Piece) : Bool := State.rerun_w g

theorem State.retryDue_same {g : Piece} {a : State} (hg : State.retryDue_w g = false) {s : State} (h : Same g a s) :
    Same g a (State.retryDue s) := by
  simp only [State.retryDue_w] at hg
  unfold State.retryDue
  repeat' first | intro _ | with_reducible first | assumption | apply State.rerun_same (by assumption) | apply same_ite | split

def execStartUpStepDone_w (g : Piece) : Bool := State.startStep_w g || State.retryDue_w g

theorem execStartUpStepDone_same {g : Piece} {a : State} (hg : execStartUpStepDone_w g = false) {s : State} (h : Same g a s) (x1 : _) (x2 : _) :
    SameR g a (execStartUpStepDone x1 x2 s) := by
  simp only [execStartUpStepDone_w, Bool.or_eq_false_iff] at hg
  repeat (have := hg.2; replace hg := hg.1)
  unfold execStartUpStepDone
  repeat' first | intro _ | with_reducible first | assumption | apply sameR_next | apply State.startStep_same (by assumption) | apply State.retryDue_same (by assumption)

def execSaveRestart_w (g : Piece) : Bool := State.saveRestart_w g

theorem execSaveRestart_same {g : Piece} {a : State} (hg : execSaveRestart_w g = false) {s : State} (h : Same g a s) :
    SameR g a (execSaveRestart s) := by
  simp only [execSaveRestart_w] at hg
  unfold execSaveRestart
  repeat' first | intro _ | with_reducible first | assumption | apply sameR_next | apply sameR_ite | apply State.saveRestart_same (by assumption) | apply same_ite | split

end Sys2Proof.Machine
end

