-- ==== Sys2Proof/Laws/SameRegs.lean ====
section
/-!
SUPPORT. Laws/SameRegs.lean: what the operations of Machine/Regs.lean may change, and that they leave the rest alone.
-/

set_option linter.unusedTactic false
set_option linter.unusedSimpArgs false
set_option linter.unusedVariables false
set_option linter.tactic.unusedName false
set_option linter.unreachableTactic false

namespace Sys2Proof.Machine

theorem State.act_same {g : Piece} {a : State} {s : State} (h : Same g a s) (x2 : _) (x3 : _) (x4 : _) (hx2 : ∀ y0 y1, Same g a y1 → SameR g a (x2 y0 y1)) :
    Same g a (State.act s x2 x3 x4) := by
  unfold State.act
  repeat' first | intro _ | with_reducible first | assumption | apply hx2 | refine same_ofR (by assumption) ?_ | split

def State.latchRead_w (g : Piece) : Bool := State.setLatch_w g

theorem State.latchRead_same {g : Piece} {a : State} (hg : State.latchRead_w g = false) {s : State} (h : Same g a s) (x2 : _) (x3 : _) (x4 : _) :
    Same g a (State.latchRead s x2 x3 x4) := by
  simp only [State.latchRead_w] at hg
  unfold State.latchRead
  repeat' first | intro _ | ((fail_if_no_progress extract_lets +onlyGivenNames z); (refine same_fn z ?_; subst z; beta_reduce)) | with_reducible first | assumption | apply State.setLatch_same (by assumption) | apply same_ite | split

def State.plainField_w (g : Piece) : Bool := g.isFld

theorem State.plainField_same {g : Piece} {a : State} (hg : State.plainField_w g = false) {s : State} (h : Same g a s) (x2 : _) (x3 : _) (x4 : _) (x5 : _) (x6 : _) :
    Same g a (State.plainField s x2 x3 x4 x5 x6) := by
  simp only [State.plainField_w] at hg
  unfold State.plainField
  repeat' first | intro _ | with_reducible first | assumption | apply wr_same | apply same_ite | exact not_fld (by assumption) _ | split

def State.plain_w (g : Piece) : Bool := State.plainField_w g

theorem State.plain_same {g : Piece} {a : State} (hg : State.plain_w g = false) {s : State} (h : Same g a s) (x2 : _) (x3 : _) (x4 : _) (x5 : _) (x6 : _) :
    Same g a (State.plain s x2 x3 x4 x5 x6) := by
  simp only [State.plain_w] at hg
  unfold State.plain
  repeat' first | intro _ | with_reducible first | assumption | apply State.each_same | apply State.plainField_same (by assumption)

theorem State.hit_same {g : Piece} {a : State} {s : State} (h : Same g a s) (x2 : _) (x3 : _) (x4 : _) (hx4 : ∀ y0, Same g a y0 → Same g a (x4 y0)) :
    Same g a (State.hit s x2 x3 x4) := by
  unfold State.hit
  repeat' first | intro _ | with_reducible first | assumption | apply hx4 | apply same_ite | split

def State.markExpert_w (g : Piece) : Bool := State.hemExpert_w g || State.yokExpert_w g || State.calExpertShow_w g || State.mcvExpert_w g || (g == .fld .TIL_STATUS_EXPERT) || (g == .fld .PRG_STATUS_EXPERT) || (g == .aux .calExpert) || (g == .fld .BNK_STAT_EXPERT) || (g == .fld .MIR_STAT_EXPERT) || (g == .aux .wfmExpert)

theorem State.markExpert_same {g : Piece} {a : State} (hg : State.markExpert_w g = false) {s : State} (h : Same g a s) (x2 : _) (x3 : _) (x4 : _) :
    Same g a (State.markExpert s x2 x3 x4) := by
  simp only [State.markExpert_w, Bool.or_eq_false_iff] at hg
  repeat (have := hg.2; replace hg := hg.1)
  unfold State.markExpert
  repeat' first | intro _ | with_reducible first | assumption | apply wr_same (by assumption) | apply State.hemExpert_same (by assumption) | apply State.yokExpert_same (by assumption) | apply State.calExpertShow_same (by assumption) | apply setAx_same (by assumption) | apply State.mcvExpert_same (by assumption) | split

theorem State.sets_same {g : Piece} {a : State} {s : State} (h : Same g a s) (x2 : _) (x3 : _) (x4 : _) (x5 : _) (x6 : _) (x7 : _) (hx7 : ∀ y0 y1, Same g a y1 → Same g a (x7 y0 y1)) :
    Same g a (State.sets s x2 x3 x4 x5 x6 x7) := by
  unfold State.sets
  repeat' first | intro _ | with_reducible first | assumption | apply hx7 | apply same_ite | split

def State.refuseReg_w (g : Piece) : Bool := State.fnRefused_w g || State.yokRefused_w g || State.mcvRefused_w g || State.clkRefused_w g || State.pktRefused_w g || (g == .fld .TIL_STATUS_REFUSED) || (g == .fld .PRG_STATUS_REFUSED) || (g == .fld .CAL_STATUS_REFUSED) || (g == .fld .TLM_STAT_REFUSED) || (g == .fld .MEM_STAT_REFUSED) || (g == .fld .MIR_STAT_REFUSED) || (g == .fld .PWR_STAT_REFUSED)

theorem State.refuseReg_same {g : Piece} {a : State} (hg : State.refuseReg_w g = false) {s : State} (h : Same g a s) (x2 : _) (x3 : _) (x4 : _) :
    Same g a (State.refuseReg s x2 x3 x4) := by
  simp only [State.refuseReg_w, Bool.or_eq_false_iff] at hg
  repeat (have := hg.2; replace hg := hg.1)
  unfold State.refuseReg
  repeat' first | intro _ | with_reducible first | assumption | apply wr_same (by assumption) | apply State.fnRefused_same (by assumption) | apply State.yokRefused_same (by assumption) | apply State.mcvRefused_same (by assumption) | apply State.clkRefused_same (by assumption) | apply State.pktRefused_same (by assumption) | apply same_ite | split

def State.plainReg_w (g : Piece) : Bool := State.refuseReg_w g || State.plain_w g || State.markExpert_w g

theorem State.plainReg_same {g : Piece} {a : State} (hg : State.plainReg_w g = false) {s : State} (h : Same g a s) (x2 : _) (x3 : _) (x4 : _) (x5 : _) (x6 : _) (x7 : _) (hx7 : ∀ y0, Same g a y0 → Same g a (x7 y0)) :
    Same g a (State.plainReg s x2 x3 x4 x5 x6 x7) := by
  simp only [State.plainReg_w, Bool.or_eq_false_iff] at hg
  repeat (have := hg.2; replace hg := hg.1)
  unfold State.plainReg
  repeat' first | intro _ | with_reducible first | assumption | apply hx7 | apply State.refuseReg_same (by assumption) | apply State.plain_same (by assumption) | apply State.when_same | apply State.markExpert_same (by assumption) | apply same_ite | split

def State.tileRegWrite_w (g : Piece) : Bool := execTilCtrlHoldWrite_w g || execTilCtrlPrecisionWrite_w g || execTilCtrlRetire_w g || execTilCtrlHandback_w g || execDrvCfgWrite_w g || execDrvCfgHandback_w g || execDrvSlewWrite_w g || execHemCfgWrite_w g || execHemTapsWrite_w g || execHemCtrlClear_w g || execHemCtrlHandback_w g || State.plainReg_w g

theorem State.tileRegWrite_same {g : Piece} {a : State} (hg : State.tileRegWrite_w g = false) {s : State} (h : Same g a s) (x2 : _) (x3 : _) (x4 : _) (x5 : _) (x6 : _) (x7 : _) :
    Same g a (State.tileRegWrite s x2 x3 x4 x5 x6 x7) := by
  simp only [State.tileRegWrite_w, Bool.or_eq_false_iff] at hg
  repeat (have := hg.2; replace hg := hg.1)
  unfold State.tileRegWrite
  repeat' first | intro _ | ((fail_if_no_progress extract_lets +onlyGivenNames z); (refine same_cut (a := a) (g := g) z ?_ fun hz => ?_) <;> [subst z; clear_value z]) | with_reducible first | assumption | apply State.sets_same | apply State.act_same | apply execTilCtrlHoldWrite_same (by assumption) | apply execTilCtrlPrecisionWrite_same (by assumption) | apply State.hit_same | apply execTilCtrlRetire_same (by assumption) | apply execTilCtrlHandback_same (by assumption) | apply execDrvCfgWrite_same (by assumption) | apply execDrvCfgHandback_same (by assumption) | apply execDrvSlewWrite_same (by assumption) | apply execHemCfgWrite_same (by assumption) | apply execHemTapsWrite_same (by assumption) | apply execHemCtrlClear_same (by assumption) | apply execHemCtrlHandback_same (by assumption) | apply State.plainReg_same (by assumption) | apply same_id | refine same_ofR (by assumption) ?_ | split

def State.readWord_w (g : Piece) : Bool := State.pktDataRead_w g || State.tabNext_w g || State.waveNext_w g || State.latchRead_w g

theorem State.readWord_same {g : Piece} {a : State} (hg : State.readWord_w g = false) {s : State} (h : Same g a s) (x2 : _) (x3 : _) :
    Same g a (State.readWord s x2 x3).2 := by
  simp only [State.readWord_w, Bool.or_eq_false_iff] at hg
  repeat (have := hg.2; replace hg := hg.1)
  unfold State.readWord
  repeat' first | intro _ | with_reducible first | assumption | apply State.pktDataRead_same (by assumption) | apply State.tabNext_same (by assumption) | apply State.waveNext_same (by assumption) | apply State.latchRead_same (by assumption) | apply same2_ite | apply same_ite | refine same_of2 (by assumption) ?_ | split

def State.dieRegWrite_w (g : Piece) : Bool := execWfmDataAccess_w g || State.plainReg_w g || execWfmStatHandback_w g || execWfmPlayStart_w g || execWfmPlayStop_w g || execWfmPlayCancel_w g || execSeqCfgWrite_w g || execSeqCtrlDrainWrite_w g || execSeqCtrlHandback_w g || execDgaCtrlHoldWrite_w g || execDgaCtrlClear_w g || execDgaCtrlHandback_w g || execPrgCtrlHoldWrite_w g || execPrgCtrlClear_w g || execPrgCtrlHandback_w g || execPrgStoreWrite_w g || execCalCtrlHoldWrite_w g || execCalCtrlClear_w g || execCalCtrlHandback_w g || execCalCtrlTrace_w g || execCalTabDataAccess_w g || execCalHandbackGo_w g || execMcvCtrlHoldWrite_w g || execMcvCtrlModeWrite_w g || execMcvCtrlScal_w g || execMcvCtrlClear_w g || execMcvCtrlHandback_w g || execMcvTrigGo_w g || State.timedTrigger_w g || State.markExpert_w g || execTlmStart_w g || execTlmStop_w g || execTlmCancel_w g || execBnkOwnerWrite_w g || execBnkCtrlClear_w g || execBnkCtrlHandback_w g || execBnkDiagGo_w g || execMemCtrlRetrain_w g || execMemCtrlClear_w g || execMemCtrlHandback_w g || execMemCfgWrite_w g

theorem State.dieRegWrite_same {g : Piece} {a : State} (hg : State.dieRegWrite_w g = false) {s : State} (h : Same g a s) (x2 : _) (x3 : _) (x4 : _) (x5 : _) (x6 : _) :
    Same g a (State.dieRegWrite s x2 x3 x4 x5 x6) := by
  simp only [State.dieRegWrite_w, Bool.or_eq_false_iff] at hg
  repeat (have := hg.2; replace hg := hg.1)
  unfold State.dieRegWrite
  repeat' first | intro _ | ((fail_if_no_progress extract_lets +onlyGivenNames z); (refine same_cut (a := a) (g := g) z ?_ fun hz => ?_) <;> [subst z; clear_value z]) | with_reducible first | assumption | apply State.act_same | apply execWfmDataAccess_same (by assumption) | apply State.hit_same | apply State.plainReg_same (by assumption) | apply execWfmStatHandback_same (by assumption) | apply execWfmPlayStart_same (by assumption) | apply execWfmPlayStop_same (by assumption) | apply execWfmPlayCancel_same (by assumption) | apply execSeqCfgWrite_same (by assumption) | apply State.sets_same | apply execSeqCtrlDrainWrite_same (by assumption) | apply execSeqCtrlHandback_same (by assumption) | apply execDgaCtrlHoldWrite_same (by assumption) | apply execDgaCtrlClear_same (by assumption) | apply execDgaCtrlHandback_same (by assumption) | apply execPrgCtrlHoldWrite_same (by assumption) | apply execPrgCtrlClear_same (by assumption) | apply execPrgCtrlHandback_same (by assumption) | apply execPrgStoreWrite_same (by assumption) | apply execCalCtrlHoldWrite_same (by assumption) | apply execCalCtrlClear_same (by assumption) | apply execCalCtrlHandback_same (by assumption) | apply execCalCtrlTrace_same (by assumption) | apply execCalTabDataAccess_same (by assumption) | apply execCalHandbackGo_same (by assumption) | apply execMcvCtrlHoldWrite_same (by assumption) | apply execMcvCtrlModeWrite_same (by assumption) | apply execMcvCtrlScal_same (by assumption) | apply execMcvCtrlClear_same (by assumption) | apply execMcvCtrlHandback_same (by assumption) | apply execMcvTrigGo_same (by assumption) | apply State.timedTrigger_same (by assumption) | apply State.when_same | apply State.markExpert_same (by assumption) | apply execTlmStart_same (by assumption) | apply execTlmStop_same (by assumption) | apply execTlmCancel_same (by assumption) | apply execBnkOwnerWrite_same (by assumption) | apply execBnkCtrlClear_same (by assumption) | apply execBnkCtrlHandback_same (by assumption) | apply execBnkDiagGo_same (by assumption) | apply execMemCtrlRetrain_same (by assumption) | apply execMemCtrlClear_same (by assumption) | apply execMemCtrlHandback_same (by assumption) | apply execMemCfgWrite_same (by assumption) | apply same_id | apply same_ite | refine same_ofR (by assumption) ?_ | split

def State.fnRegWrite_w (g : Piece) : Bool := execEvrCtrlEnable_w g || State.plainReg_w g || execEvrHeadWrite_w g || execMsixUnmask_w g || execQpCfgEnable_w g || execQpCfgDisable_w g || execQpSqtailWrite_w g || execQpCqheadWrite_w g || State.refuseReg_w g || execFnqQuotaWrite_w g || execFnqGrantWrite_w g || State.sendQuotas_w g || (g == .fld .MSIX_CTRL_MASK)

theorem State.fnRegWrite_same {g : Piece} {a : State} (hg : State.fnRegWrite_w g = false) {s : State} (h : Same g a s) (x2 : _) (x3 : _) (x4 : _) (x5 : _) (x6 : _) :
    Same g a (State.fnRegWrite s x2 x3 x4 x5 x6) := by
  simp only [State.fnRegWrite_w, Bool.or_eq_false_iff] at hg
  repeat (have := hg.2; replace hg := hg.1)
  unfold State.fnRegWrite
  repeat' first | intro _ | with_reducible first | assumption | apply State.act_same | apply execEvrCtrlEnable_same (by assumption) | apply State.plainReg_same (by assumption) | apply execEvrHeadWrite_same (by assumption) | apply execMsixUnmask_same (by assumption) | apply wr_same (by assumption) | apply execQpCfgEnable_same (by assumption) | apply execQpCfgDisable_same (by assumption) | apply execQpSqtailWrite_same (by assumption) | apply execQpCqheadWrite_same (by assumption) | apply State.refuseReg_same (by assumption) | apply State.sets_same | apply execFnqQuotaWrite_same (by assumption) | apply State.each_same | apply execFnqGrantWrite_same (by assumption) | apply State.sendQuotas_same (by assumption) | apply same_id | apply same_ite | refine same_ofR (by assumption) ?_ | split

def State.gateWord_w (g : Piece) : Bool := State.gateRefused_w g || execClkGateWrite_w g

theorem State.gateWord_same {g : Piece} {a : State} (hg : State.gateWord_w g = false) {s : State} (h : Same g a s) (x2 : _) (x3 : _) (x4 : _) :
    Same g a (State.gateWord s x2 x3 x4) := by
  simp only [State.gateWord_w, Bool.or_eq_false_iff] at hg
  repeat (have := hg.2; replace hg := hg.1)
  unfold State.gateWord
  repeat' first | intro _ | with_reducible first | assumption | apply State.gateRefused_same (by assumption) | apply State.sets_same | apply State.act_same | apply execClkGateWrite_same (by assumption) | apply same_ite | refine same_ofR (by assumption) ?_ | split

def State.pkgRegWrite_w (g : Piece) : Bool := execYokCtrlHoldAllWrite_w g || execYokCtrlSplitEnWrite_w g || execYokCtrlClear_w g || execYokCtrlHandback_w g || execYokPeriodWrite_w g || execYokThrottleWrite_w g || State.plainReg_w g || execMirCfgEnableWrite_w g || execMirCfgHandback_w g || execMirCtrlRelease_w g || execMirCtrlResync_w g || execMirCtrlClear_w g || execMirFnMirroredWrite_w g || execFltCtrlClear_w g || execClkCtrlMgmtSrcWrite_w g || execClkCtrlRootWrite_w g || execClkCtrlHandback_w g || execClkPllWrite_w g || State.gateWord_w g || execClkGateWrite_w g || execClkDtctrlSet_w g || execClkDtctrlSetPps_w g || execPwrCtrlHandback_w g || State.pktDataWrite_w g || State.unlock_w g || State.relock_w g || execChnCfgPecWrite_w g || (g == .aux .lastPps)

theorem State.pkgRegWrite_same {g : Piece} {a : State} (hg : State.pkgRegWrite_w g = false) {s : State} (h : Same g a s) (x2 : _) (x3 : _) (x4 : _) (x5 : _) :
    Same g a (State.pkgRegWrite s x2 x3 x4 x5) := by
  simp only [State.pkgRegWrite_w, Bool.or_eq_false_iff] at hg
  repeat (have := hg.2; replace hg := hg.1)
  unfold State.pkgRegWrite
  repeat' first | intro _ | ((fail_if_no_progress extract_lets +onlyGivenNames z); first | (refine same_cut (a := a) (g := g) z ?_ fun hz => ?_) <;> [subst z; clear_value z] | clear_value z) | with_reducible first | assumption | apply State.sets_same | apply State.act_same | apply execYokCtrlHoldAllWrite_same (by assumption) | apply execYokCtrlSplitEnWrite_same (by assumption) | apply State.hit_same | apply execYokCtrlClear_same (by assumption) | apply execYokCtrlHandback_same (by assumption) | apply execYokPeriodWrite_same (by assumption) | apply execYokThrottleWrite_same (by assumption) | apply State.plainReg_same (by assumption) | apply execMirCfgEnableWrite_same (by assumption) | apply execMirCfgHandback_same (by assumption) | apply execMirCtrlRelease_same (by assumption) | apply execMirCtrlResync_same (by assumption) | apply execMirCtrlClear_same (by assumption) | apply execMirFnMirroredWrite_same (by assumption) | apply execFltCtrlClear_same (by assumption) | apply execClkCtrlMgmtSrcWrite_same (by assumption) | apply execClkCtrlRootWrite_same (by assumption) | apply execClkCtrlHandback_same (by assumption) | apply execClkPllWrite_same (by assumption) | apply State.gateWord_same (by assumption) | apply execClkGateWrite_same (by assumption) | apply State.when_same | apply setAx_same (by assumption) | apply execClkDtctrlSet_same (by assumption) | apply execClkDtctrlSetPps_same (by assumption) | apply execPwrCtrlHandback_same (by assumption) | apply State.pktDataWrite_same (by assumption) | apply State.unlock_same (by assumption) | apply State.relock_same (by assumption) | apply execChnCfgPecWrite_same (by assumption) | apply same_id | refine same_ofR (by assumption) ?_ | split

def State.regWrite_w (g : Piece) : Bool := State.fnRefused_w g || State.tileRegWrite_w g || State.dieRegWrite_w g || State.fnRegWrite_w g || State.pkgRegWrite_w g

theorem State.regWrite_same {g : Piece} {a : State} (hg : State.regWrite_w g = false) {s : State} (h : Same g a s) (x2 : _) (x3 : _) (x4 : _) :
    Same g a (State.regWrite s x2 x3 x4) := by
  simp only [State.regWrite_w, Bool.or_eq_false_iff] at hg
  repeat (have := hg.2; replace hg := hg.1)
  unfold State.regWrite
  repeat' first | intro _ | with_reducible first | assumption | apply State.fnRefused_same (by assumption) | apply State.tileRegWrite_same (by assumption) | apply State.dieRegWrite_same (by assumption) | apply State.fnRegWrite_same (by assumption) | apply State.pkgRegWrite_same (by assumption) | apply same_ite | split

def State.latchWide_w (g : Piece) : Bool := State.setLatch_w g

theorem State.latchWide_same {g : Piece} {a : State} (hg : State.latchWide_w g = false) {s : State} (h : Same g a s) (x2 : _) (x3 : _) :
    Same g a (State.latchWide s x2 x3) := by
  simp only [State.latchWide_w] at hg
  unfold State.latchWide
  repeat' first | intro _ | with_reducible first | assumption | apply State.setLatch_same (by assumption) | apply same_ite | split

def State.readWords_w (g : Piece) : Bool := State.readWord_w g

theorem State.readWords_same {g : Piece} {a : State} (hg : State.readWords_w g = false) {s : State} (h : Same g a s) (x2 : _) (x3 : _) (x4 : _) :
    Same g a (State.readWords s x2 x3 x4).2 := by
  simp only [State.readWords_w] at hg
  induction x4 generalizing s x3 <;> [skip; rename_i ih]
  all_goals unfold State.readWords
  repeat' first | intro _ | ((fail_if_no_progress extract_lets +onlyGivenNames z); (refine same_cut2 (a := a) (g := g) z ?_ fun hz => ?_) <;> [subst z; clear_value z]) | with_reducible first | assumption | apply State.readWord_same (by assumption) | refine same_of2 (by assumption) ?_ | apply ih | split

def State.readAccess_w (g : Piece) : Bool := State.latchWide_w g || State.readWords_w g

theorem State.readAccess_same {g : Piece} {a : State} (hg : State.readAccess_w g = false) {s : State} (h : Same g a s) (x2 : _) (x3 : _) (x4 : _) :
    Same g a (State.readAccess s x2 x3 x4).2 := by
  simp only [State.readAccess_w, Bool.or_eq_false_iff] at hg
  repeat (have := hg.2; replace hg := hg.1)
  unfold State.readAccess
  repeat' first | intro _ | ((fail_if_no_progress extract_lets +onlyGivenNames z); (refine same_cut2 (a := a) (g := g) z ?_ fun hz => ?_) <;> [subst z; clear_value z]) | with_reducible first | assumption | apply State.latchWide_same (by assumption) | apply State.readWords_same (by assumption) | refine same_of2 (by assumption) ?_ | split

def State.readOut_w (g : Piece) : Bool := State.readAccess_w g || State.emit_w g

theorem State.readOut_same {g : Piece} {a : State} (hg : State.readOut_w g = false) {s : State} (h : Same g a s) (x2 : _) (x3 : _) (x4 : _) :
    Same g a (State.readOut s x2 x3 x4) := by
  simp only [State.readOut_w, Bool.or_eq_false_iff] at hg
  repeat (have := hg.2; replace hg := hg.1)
  unfold State.readOut
  repeat' first | intro _ | ((fail_if_no_progress extract_lets +onlyGivenNames z); (refine same_cut2 (a := a) (g := g) z ?_ fun hz => ?_) <;> [subst z; clear_value z]) | with_reducible first | assumption | apply State.readAccess_same (by assumption) | apply State.emit_same (by assumption) | apply same_ite | refine same_of2 (by assumption) ?_ | split

def execGlbCapacityLowRead_w (g : Piece) : Bool := State.readOut_w g

theorem execGlbCapacityLowRead_same {g : Piece} {a : State} (hg : execGlbCapacityLowRead_w g = false) {s : State} (h : Same g a s) (x1 : _) :
    SameR g a (execGlbCapacityLowRead x1 s) := by
  simp only [execGlbCapacityLowRead_w] at hg
  unfold execGlbCapacityLowRead
  repeat' first | intro _ | with_reducible first | assumption | apply sameR_next | apply State.readOut_same (by assumption)

def State.writeWord_w (g : Piece) : Bool := State.regWrite_w g || State.setHolding_w g

theorem State.writeWord_same {g : Piece} {a : State} (hg : State.writeWord_w g = false) {s : State} (h : Same g a s) (x2 : _) (x3 : _) (x4 : _) :
    Same g a (State.writeWord s x2 x3 x4) := by
  simp only [State.writeWord_w, Bool.or_eq_false_iff] at hg
  repeat (have := hg.2; replace hg := hg.1)
  unfold State.writeWord
  repeat' first | intro _ | ((fail_if_no_progress extract_lets +onlyGivenNames z); clear_value z) | with_reducible first | assumption | apply State.regWrite_same (by assumption) | apply State.setHolding_same (by assumption) | apply same_ite | split

def State.busWrite_w (g : Piece) : Bool := State.regWrite_w g || State.setHolding_w g || State.writeWord_w g

theorem State.busWrite_same {g : Piece} {a : State} (hg : State.busWrite_w g = false) {s : State} (h : Same g a s) (x2 : _) :
    Same g a (State.busWrite s x2) := by
  simp only [State.busWrite_w, Bool.or_eq_false_iff] at hg
  repeat (have := hg.2; replace hg := hg.1)
  unfold State.busWrite
  repeat' first | intro _ | ((fail_if_no_progress extract_lets +onlyGivenNames z); clear_value z) | with_reducible first | assumption | apply State.regWrite_same (by assumption) | apply State.setHolding_same (by assumption) | apply State.each_same | apply State.writeWord_same (by assumption) | apply same_ite | split

def State.busOrder_w (g : Piece) : Bool := State.busWrite_w g || State.superseded_w g

theorem State.busOrder_same {g : Piece} {a : State} (hg : State.busOrder_w g = false) {s : State} (h : Same g a s) (x2 : _) :
    Same g a (State.busOrder s x2) := by
  simp only [State.busOrder_w, Bool.or_eq_false_iff] at hg
  repeat (have := hg.2; replace hg := hg.1)
  unfold State.busOrder
  repeat' first | intro _ | ((fail_if_no_progress extract_lets +onlyGivenNames z); first | (refine same_cut (a := a) (g := g) z ?_ fun hz => ?_) <;> [subst z; clear_value z] | clear_value z) | with_reducible first | assumption | apply State.busWrite_same (by assumption) | apply State.each_same | apply State.superseded_same (by assumption) | apply same_ite | split

def State.hwSet_w (g : Piece) : Bool := g.isFld

theorem State.hwSet_same {g : Piece} {a : State} (hg : State.hwSet_w g = false) {s : State} (h : Same g a s) (x2 : _) :
    Same g a (State.hwSet s x2) := by
  simp only [State.hwSet_w] at hg
  unfold State.hwSet
  repeat' first | intro _ | with_reducible first | assumption | apply wr_same | apply same_ite | exact not_fld (by assumption) _ | split

def State.busCycle_w (g : Piece) : Bool := State.busOrder_w g || State.hwSet_w g

theorem State.busCycle_same {g : Piece} {a : State} (hg : State.busCycle_w g = false) {s : State} (h : Same g a s) (x2 : _) :
    Same g a (State.busCycle s x2) := by
  simp only [State.busCycle_w, Bool.or_eq_false_iff] at hg
  repeat (have := hg.2; replace hg := hg.1)
  unfold State.busCycle
  repeat' first | intro _ | with_reducible first | assumption | apply State.each_same | apply State.busOrder_same (by assumption) | apply State.hwSet_same (by assumption)

def execRegisterWrite_w (g : Piece) : Bool := State.busCycle_w g

theorem execRegisterWrite_same {g : Piece} {a : State} (hg : execRegisterWrite_w g = false) {s : State} (h : Same g a s) (x1 : _) :
    SameR g a (execRegisterWrite x1 s) := by
  simp only [execRegisterWrite_w] at hg
  unfold execRegisterWrite
  repeat' first | intro _ | with_reducible first | assumption | apply sameR_next | apply State.busCycle_same (by assumption)

def execHemMseSumRead_w (g : Piece) : Bool := State.readOut_w g

theorem execHemMseSumRead_same {g : Piece} {a : State} (hg : execHemMseSumRead_w g = false) {s : State} (h : Same g a s) (x1 : _) (x2 : _) (x3 : _) (x4 : _) (x5 : _) :
    SameR g a (execHemMseSumRead x1 x2 x3 x4 x5 s) := by
  simp only [execHemMseSumRead_w] at hg
  unfold execHemMseSumRead
  repeat' first | intro _ | with_reducible first | assumption | apply sameR_next | apply sameR_ite | apply State.readOut_same (by assumption) | apply same_ite | split

end Sys2Proof.Machine
end

