-- ==== Sys2Proof/Laws/SameChain.lean ====
section
/-!
SUPPORT. Laws/SameChain.lean: what the operations of Machine/Chain.lean may change, and that they leave the rest alone.
-/

set_option linter.unusedTactic false
set_option linter.unusedSimpArgs false
set_option linter.unusedVariables false
set_option linter.tactic.unusedName false
set_option linter.unreachableTactic false

namespace Sys2Proof.Machine

def State.nack_w (g : Piece) : Bool := State.emit_w g

theorem State.nack_same {g : Piece} {a : State} (hg : State.nack_w g = false) {s : State} (h : Same g a s) :
    Same g a (State.nack s) := by
  simp only [State.nack_w] at hg
  unfold State.nack
  repeat' first | intro _ | with_reducible first | assumption | apply State.emit_same (by assumption)

def State.tokenOut_w (g : Piece) : Bool := (g == .fld .CHN_STAT_CHAIN_OUT)

theorem State.tokenOut_same {g : Piece} {a : State} (hg : State.tokenOut_w g = false) {s : State} (h : Same g a s) :
    Same g a (State.tokenOut s) := by
  simp only [State.tokenOut_w] at hg
  unfold State.tokenOut
  repeat' first | intro _ | with_reducible first | assumption | apply wr_same (by assumption) | apply same_ite | split

def State.token_w (g : Piece) : Bool := State.tokenOut_w g || (g == .fld .CHN_STAT_CHAIN_IN)

theorem State.token_same {g : Piece} {a : State} (hg : State.token_w g = false) {s : State} (h : Same g a s) (x2 : _) :
    Same g a (State.token s x2) := by
  simp only [State.token_w, Bool.or_eq_false_iff] at hg
  repeat (have := hg.2; replace hg := hg.1)
  unfold State.token
  repeat' first | intro _ | with_reducible first | assumption | apply State.tokenOut_same (by assumption) | apply wr_same (by assumption)

def State.pecError_w (g : Piece) : Bool := State.nack_w g || State.event_w g || (g == .fld .CHN_STAT_PEC_ERR) || (g == .aux .pecAt)

theorem State.pecError_same {g : Piece} {a : State} (hg : State.pecError_w g = false) {s : State} (h : Same g a s) :
    Same g a (State.pecError s) := by
  simp only [State.pecError_w, Bool.or_eq_false_iff] at hg
  repeat (have := hg.2; replace hg := hg.1)
  unfold State.pecError
  repeat' first | intro _ | ((fail_if_no_progress extract_lets +onlyGivenNames z); (refine same_cut (a := a) (g := g) z ?_ fun hz => ?_) <;> [subst z; clear_value z]) | with_reducible first | assumption | apply bump_same (by assumption) | apply State.nack_same (by assumption) | apply State.event_same (by assumption) | apply setAx_same (by assumption) | apply same_ite | split

def State.chainWrite_w (g : Piece) : Bool := State.token_w g || State.nack_w g || State.pecError_w g

theorem State.chainWrite_same {g : Piece} {a : State} (hg : State.chainWrite_w g = false) {s : State} (h : Same g a s) (x2 : _) (x3 : _) (x4 : _) (x5 : _) (hx5 : ∀ y0, Same g a y0 → Same g a (x5 y0)) :
    Same g a (State.chainWrite s x2 x3 x4 x5) := by
  simp only [State.chainWrite_w, Bool.or_eq_false_iff] at hg
  repeat (have := hg.2; replace hg := hg.1)
  unfold State.chainWrite
  repeat' first | intro _ | ((fail_if_no_progress extract_lets +onlyGivenNames z); (refine same_cut (a := a) (g := g) z ?_ fun hz => ?_) <;> [subst z; clear_value z]) | with_reducible first | assumption | apply hx5 | apply State.token_same (by assumption) | apply State.nack_same (by assumption) | apply State.pecError_same (by assumption) | apply same_ite | split

def State.leave_w (g : Piece) : Bool := (g == .aux .chainStatus)

theorem State.leave_same {g : Piece} {a : State} (hg : State.leave_w g = false) {s : State} (h : Same g a s) (x2 : _) :
    Same g a (State.leave s x2) := by
  simp only [State.leave_w] at hg
  unfold State.leave
  repeat' first | intro _ | with_reducible first | assumption | apply setAx_same (by assumption)

def execClearAddr_w (g : Piece) : Bool := State.chainWrite_w g || State.leave_w g || State.tokenOut_w g || (g == .fld .CHN_CFG_ADDR) || (g == .fld .CHN_CFG_VALID)

theorem execClearAddr_same {g : Piece} {a : State} (hg : execClearAddr_w g = false) {s : State} (h : Same g a s) (x1 : _) :
    SameR g a (execClearAddr x1 s) := by
  simp only [execClearAddr_w, Bool.or_eq_false_iff] at hg
  repeat (have := hg.2; replace hg := hg.1)
  unfold execClearAddr
  repeat' first | intro _ | with_reducible first | assumption | apply sameR_next | apply State.chainWrite_same (by assumption) | apply State.leave_same (by assumption) | apply State.tokenOut_same (by assumption) | apply wr_same (by assumption)

def State.pocketWords_w (g : Piece) : Bool := State.pocketWord_w g

theorem State.pocketWords_same {g : Piece} {a : State} (hg : State.pocketWords_w g = false) {s : State} (h : Same g a s) (x2 : _) (x3 : _) (x4 : _) (x5 : _) :
    Same g a (State.pocketWords s x2 x3 x4 x5).2 := by
  simp only [State.pocketWords_w] at hg
  induction x5 generalizing s x4 <;> [skip; rename_i ih]
  all_goals unfold State.pocketWords
  repeat' first | intro _ | ((fail_if_no_progress extract_lets +onlyGivenNames z); (refine same_cut2 (a := a) (g := g) z ?_ fun hz => ?_) <;> [subst z; clear_value z]) | with_reducible first | assumption | apply State.pocketWord_same (by assumption) | refine same_of2 (by assumption) ?_ | apply ih | split

def State.bypass_w (g : Piece) : Bool := State.tokenOut_w g || State.event_w g || (g == .fld .CHN_STAT_BYPASS) || (g == .aux .bypassed)

theorem State.bypass_same {g : Piece} {a : State} (hg : State.bypass_w g = false) {s : State} (h : Same g a s) (x2 : _) :
    Same g a (State.bypass s x2) := by
  simp only [State.bypass_w, Bool.or_eq_false_iff] at hg
  repeat (have := hg.2; replace hg := hg.1)
  unfold State.bypass
  repeat' first | intro _ | ((fail_if_no_progress extract_lets +onlyGivenNames z); (refine same_cut (a := a) (g := g) z ?_ fun hz => ?_) <;> [subst z; clear_value z]) | with_reducible first | assumption | apply State.tokenOut_same (by assumption) | apply wr_same (by assumption) | apply setAx_same (by assumption) | apply State.when_same | apply State.event_same (by assumption)

def execBypass_w (g : Piece) : Bool := State.chainWrite_w g || State.leave_w g || State.bypass_w g

theorem execBypass_same {g : Piece} {a : State} (hg : execBypass_w g = false) {s : State} (h : Same g a s) (x1 : _) :
    SameR g a (execBypass x1 s) := by
  simp only [execBypass_w, Bool.or_eq_false_iff] at hg
  repeat (have := hg.2; replace hg := hg.1)
  unfold execBypass
  repeat' first | intro _ | with_reducible first | assumption | apply sameR_next | apply State.chainWrite_same (by assumption) | apply State.leave_same (by assumption) | apply State.bypass_same (by assumption)

def execChainSupervisorTimeout_w (g : Piece) : Bool := State.bypass_w g

theorem execChainSupervisorTimeout_same {g : Piece} {a : State} (hg : execChainSupervisorTimeout_w g = false) {s : State} (h : Same g a s) :
    SameR g a (execChainSupervisorTimeout s) := by
  simp only [execChainSupervisorTimeout_w] at hg
  unfold execChainSupervisorTimeout
  repeat' first | intro _ | with_reducible first | assumption | apply sameR_next | apply sameR_ite | apply State.bypass_same (by assumption) | apply same_ite | split

def State.chainData_w (g : Piece) : Bool := State.emit_w g

theorem State.chainData_same {g : Piece} {a : State} (hg : State.chainData_w g = false) {s : State} (h : Same g a s) (x2 : _) (x3 : _) (x4 : _) (x5 : _) :
    Same g a (State.chainData s x2 x3 x4 x5) := by
  simp only [State.chainData_w] at hg
  unfold State.chainData
  repeat' first | intro _ | with_reducible first | assumption | apply State.emit_same (by assumption) | apply same_ite | split

def execChainTransactionTimeout_w (g : Piece) : Bool := State.timeout_w g || (g == .fld .CHN_STAT_TIMEOUTS)

theorem execChainTransactionTimeout_same {g : Piece} {a : State} (hg : execChainTransactionTimeout_w g = false) {s : State} (h : Same g a s) :
    SameR g a (execChainTransactionTimeout s) := by
  simp only [execChainTransactionTimeout_w, Bool.or_eq_false_iff] at hg
  repeat (have := hg.2; replace hg := hg.1)
  unfold execChainTransactionTimeout
  repeat' first | intro _ | with_reducible first | assumption | apply sameR_next | apply State.timeout_same (by assumption) | apply bump_same (by assumption)

def State.chainRead_w (g : Piece) : Bool := State.token_w g || State.nack_w g

theorem State.chainRead_same {g : Piece} {a : State} (hg : State.chainRead_w g = false) {s : State} (h : Same g a s) (x2 : _) (x3 : _) (hx3 : ∀ y0, Same g a y0 → Same g a (x3 y0)) :
    Same g a (State.chainRead s x2 x3) := by
  simp only [State.chainRead_w, Bool.or_eq_false_iff] at hg
  repeat (have := hg.2; replace hg := hg.1)
  unfold State.chainRead
  repeat' first | intro _ | ((fail_if_no_progress extract_lets +onlyGivenNames z); (refine same_cut (a := a) (g := g) z ?_ fun hz => ?_) <;> [subst z; clear_value z]) | with_reducible first | assumption | apply hx3 | apply State.token_same (by assumption) | apply State.nack_same (by assumption) | apply same_ite | split

def execRegRead_w (g : Piece) : Bool := State.chainRead_w g || State.readAccess_w g || State.leave_w g || State.chainData_w g || State.nack_w g

theorem execRegRead_same {g : Piece} {a : State} (hg : execRegRead_w g = false) {s : State} (h : Same g a s) (x1 : _) (x2 : _) :
    SameR g a (execRegRead x1 x2 s) := by
  simp only [execRegRead_w, Bool.or_eq_false_iff] at hg
  repeat (have := hg.2; replace hg := hg.1)
  unfold execRegRead
  repeat' first | intro _ | ((fail_if_no_progress extract_lets +onlyGivenNames z); (refine same_cut2 (a := a) (g := g) z ?_ fun hz => ?_) <;> [subst z; clear_value z]) | with_reducible first | assumption | apply sameR_next | apply sameR_ite | apply State.chainRead_same (by assumption) | apply State.readAccess_same (by assumption) | apply State.leave_same (by assumption) | apply State.chainData_same (by assumption) | apply State.nack_same (by assumption) | apply same_ite | refine same_of2 (by assumption) ?_ | split

def State.chainPocketWrite_w (g : Piece) : Bool := State.leave_w g || State.superseded_w g || State.pktWrite_w g || State.pktDenied_w g

theorem State.chainPocketWrite_same {g : Piece} {a : State} (hg : State.chainPocketWrite_w g = false) {s : State} (h : Same g a s) (x2 : _) (x3 : _) (x4 : _) (x5 : _) (x6 : _) (x7 : _) :
    Same g a (State.chainPocketWrite s x2 x3 x4 x5 x6 x7) := by
  simp only [State.chainPocketWrite_w, Bool.or_eq_false_iff] at hg
  repeat (have := hg.2; replace hg := hg.1)
  unfold State.chainPocketWrite
  repeat' first | intro _ | ((fail_if_no_progress extract_lets +onlyGivenNames z); first | (refine same_cut (a := a) (g := g) z ?_ fun hz => ?_) <;> [subst z; clear_value z] | clear_value z) | with_reducible first | assumption | apply State.leave_same (by assumption) | apply State.superseded_same (by assumption) | apply State.pktWrite_same (by assumption) | apply State.pktDenied_same (by assumption) | apply same_ite | split

def execChainPocketWrite_w (g : Piece) : Bool := State.chainWrite_w g || State.chainPocketWrite_w g

theorem execChainPocketWrite_same {g : Piece} {a : State} (hg : execChainPocketWrite_w g = false) {s : State} (h : Same g a s) (x1 : _) (x2 : _) (x3 : _) (x4 : _) (x5 : _) (x6 : _) (x7 : _) :
    SameR g a (execChainPocketWrite x1 x2 x3 x4 x5 x6 x7 s) := by
  simp only [execChainPocketWrite_w, Bool.or_eq_false_iff] at hg
  repeat (have := hg.2; replace hg := hg.1)
  unfold execChainPocketWrite
  repeat' first | intro _ | with_reducible first | assumption | apply sameR_next | apply State.chainWrite_same (by assumption) | apply State.chainPocketWrite_same (by assumption)

def State.pocketBytes_w (g : Piece) : Bool := State.pocketWords_w g

theorem State.pocketBytes_same {g : Piece} {a : State} (hg : State.pocketBytes_w g = false) {s : State} (h : Same g a s) (x2 : _) (x3 : _) (x4 : _) (x5 : _) :
    Same g a (State.pocketBytes s x2 x3 x4 x5).2 := by
  simp only [State.pocketBytes_w] at hg
  unfold State.pocketBytes
  repeat' first | intro _ | ((fail_if_no_progress extract_lets +onlyGivenNames z); (refine same_cut2 (a := a) (g := g) z ?_ fun hz => ?_) <;> [subst z; clear_value z]) | with_reducible first | assumption | apply State.pocketWords_same (by assumption) | refine same_of2 (by assumption) ?_

def execRegWrite_w (g : Piece) : Bool := State.chainWrite_w g || State.leave_w g || State.busCycle_w g || State.nack_w g

theorem execRegWrite_same {g : Piece} {a : State} (hg : execRegWrite_w g = false) {s : State} (h : Same g a s) (x1 : _) (x2 : _) (x3 : _) (x4 : _) :
    SameR g a (execRegWrite x1 x2 x3 x4 s) := by
  simp only [execRegWrite_w, Bool.or_eq_false_iff] at hg
  repeat (have := hg.2; replace hg := hg.1)
  unfold execRegWrite
  repeat' first | intro _ | with_reducible first | assumption | apply sameR_next | apply sameR_ite | apply State.chainWrite_same (by assumption) | apply State.leave_same (by assumption) | apply State.busCycle_same (by assumption) | apply State.nack_same (by assumption) | apply same_ite | split

def execLastStatus_w (g : Piece) : Bool := State.chainRead_w g || State.chainData_w g

theorem execLastStatus_same {g : Piece} {a : State} (hg : execLastStatus_w g = false) {s : State} (h : Same g a s) (x1 : _) :
    SameR g a (execLastStatus x1 s) := by
  simp only [execLastStatus_w, Bool.or_eq_false_iff] at hg
  repeat (have := hg.2; replace hg := hg.1)
  unfold execLastStatus
  repeat' first | intro _ | with_reducible first | assumption | apply sameR_next | apply State.chainRead_same (by assumption) | apply State.chainData_same (by assumption)

def execChainHeartbeatToggle_w (g : Piece) : Bool := (g == .aux .chainBeat)

theorem execChainHeartbeatToggle_same {g : Piece} {a : State} (hg : execChainHeartbeatToggle_w g = false) {s : State} (h : Same g a s) :
    SameR g a (execChainHeartbeatToggle s) := by
  simp only [execChainHeartbeatToggle_w] at hg
  unfold execChainHeartbeatToggle
  repeat' first | intro _ | with_reducible first | assumption | apply sameR_next | apply sameR_ite | apply setAx_same (by assumption) | apply same_ite | split

def State.assign_w (g : Piece) : Bool := State.token_w g || State.nack_w g || State.pecError_w g || State.leave_w g || State.event_w g || State.tokenOut_w g || (g == .fld .CHN_CFG_ADDR) || (g == .fld .CHN_CFG_VALID)

theorem State.assign_same {g : Piece} {a : State} (hg : State.assign_w g = false) {s : State} (h : Same g a s) (x2 : _) (x3 : _) :
    Same g a (State.assign s x2 x3) := by
  simp only [State.assign_w, Bool.or_eq_false_iff] at hg
  repeat (have := hg.2; replace hg := hg.1)
  unfold State.assign
  repeat' first | intro _ | ((fail_if_no_progress extract_lets +onlyGivenNames z); (refine same_cut (a := a) (g := g) z ?_ fun hz => ?_) <;> [subst z; clear_value z]) | with_reducible first | assumption | apply State.token_same (by assumption) | apply State.nack_same (by assumption) | apply State.pecError_same (by assumption) | apply State.leave_same (by assumption) | apply State.event_same (by assumption) | apply State.tokenOut_same (by assumption) | apply wr_same (by assumption) | apply same_ite | split

def State.aonGood_w (g : Piece) : Bool := true

theorem State.aonGood_same {g : Piece} {a : State} (hg : State.aonGood_w g = false) {s : State} (h : Same g a s) :
    Same g a (State.aonGood s) := by
  simp [State.aonGood_w] at hg

def execChainPocketRead_w (g : Piece) : Bool := State.chainRead_w g || State.leave_w g || State.chainData_w g || State.pktDenied_w g || State.pocketBytes_w g

theorem execChainPocketRead_same {g : Piece} {a : State} (hg : execChainPocketRead_w g = false) {s : State} (h : Same g a s) (x1 : _) (x2 : _) (x3 : _) (x4 : _) (x5 : _) :
    SameR g a (execChainPocketRead x1 x2 x3 x4 x5 s) := by
  simp only [execChainPocketRead_w, Bool.or_eq_false_iff] at hg
  repeat (have := hg.2; replace hg := hg.1)
  unfold execChainPocketRead
  repeat' first | intro _ | ((fail_if_no_progress extract_lets +onlyGivenNames z); first | (refine same_cut2 (a := a) (g := g) z ?_ fun hz => ?_) <;> [subst z; clear_value z] | clear_value z) | with_reducible first | assumption | apply sameR_next | apply sameR_ite | apply State.chainRead_same (by assumption) | apply State.leave_same (by assumption) | apply State.chainData_same (by assumption) | apply State.pktDenied_same (by assumption) | apply State.pocketBytes_same (by assumption) | apply same_ite | refine same_of2 (by assumption) ?_ | split

def execChainStatus_w (g : Piece) : Bool := State.chainRead_w g || State.leave_w g || State.chainData_w g

theorem execChainStatus_same {g : Piece} {a : State} (hg : execChainStatus_w g = false) {s : State} (h : Same g a s) (x1 : _) :
    SameR g a (execChainStatus x1 s) := by
  simp only [execChainStatus_w, Bool.or_eq_false_iff] at hg
  repeat (have := hg.2; replace hg := hg.1)
  unfold execChainStatus
  repeat' first | intro _ | with_reducible first | assumption | apply sameR_next | apply State.chainRead_same (by assumption) | apply State.leave_same (by assumption) | apply State.chainData_same (by assumption)

def execVddAonGood_w (g : Piece) : Bool := State.aonGood_w g

theorem execVddAonGood_same {g : Piece} {a : State} (hg : execVddAonGood_w g = false) {s : State} (h : Same g a s) :
    SameR g a (execVddAonGood s) := by
  simp only [execVddAonGood_w] at hg
  unfold execVddAonGood
  repeat' first | intro _ | with_reducible first | assumption | apply sameR_next | apply State.aonGood_same (by assumption)

def execAssign_w (g : Piece) : Bool := State.assign_w g

theorem execAssign_same {g : Piece} {a : State} (hg : execAssign_w g = false) {s : State} (h : Same g a s) (x1 : _) (x2 : _) :
    SameR g a (execAssign x1 x2 s) := by
  simp only [execAssign_w] at hg
  unfold execAssign
  repeat' first | intro _ | with_reducible first | assumption | apply sameR_next | apply State.assign_same (by assumption)

def execBypassSwitchOpen_w (g : Piece) : Bool := State.tokenOut_w g || (g == .aux .chainBeat) || (g == .fld .CHN_STAT_BYPASS)

theorem execBypassSwitchOpen_same {g : Piece} {a : State} (hg : execBypassSwitchOpen_w g = false) {s : State} (h : Same g a s) :
    SameR g a (execBypassSwitchOpen s) := by
  simp only [execBypassSwitchOpen_w, Bool.or_eq_false_iff] at hg
  repeat (have := hg.2; replace hg := hg.1)
  unfold execBypassSwitchOpen
  repeat' first | intro _ | with_reducible first | assumption | apply sameR_next | apply sameR_ite | apply State.tokenOut_same (by assumption) | apply setAx_same (by assumption) | apply wr_same (by assumption) | apply same_ite | split

def execIdentify_w (g : Piece) : Bool := State.chainRead_w g || State.leave_w g || State.chainData_w g

theorem execIdentify_same {g : Piece} {a : State} (hg : execIdentify_w g = false) {s : State} (h : Same g a s) (x1 : _) :
    SameR g a (execIdentify x1 s) := by
  simp only [execIdentify_w, Bool.or_eq_false_iff] at hg
  repeat (have := hg.2; replace hg := hg.1)
  unfold execIdentify
  repeat' first | intro _ | with_reducible first | assumption | apply sameR_next | apply State.chainRead_same (by assumption) | apply State.leave_same (by assumption) | apply State.chainData_same (by assumption)

end Sys2Proof.Machine
end

