-- ==== Sys2Proof/Laws/SameIdle.lean ====
section
/-!
SUPPORT. Laws/SameIdle.lean: what the operations of Machine/Idle.lean may change, and that they leave the rest alone.
-/

set_option linter.unusedTactic false
set_option linter.unusedSimpArgs false
set_option linter.unusedVariables false
set_option linter.tactic.unusedName false
set_option linter.unreachableTactic false

namespace Sys2Proof.Machine

def State.countHours_w (g : Piece) : Bool := (g == .fld .PKT_LIFE_POH_HOURS)

theorem State.countHours_same {g : Piece} {a : State} (hg : State.countHours_w g = false) {s : State} (h : Same g a s) (x2 : _) :
    Same g a (State.countHours s x2) := by
  simp only [State.countHours_w] at hg
  unfold State.countHours
  repeat' first | intro _ | with_reducible first | assumption | apply State.when_same | apply bump_same (by assumption) | split

def State.idle_w (g : Piece) : Bool := State.maintPump_w g || State.retryDue_w g || State.countHours_w g || State.tick_w g

theorem State.idle_same {g : Piece} {a : State} (hg : State.idle_w g = false) {s : State} (h : Same g a s) :
    Same g a (State.idle s) := by
  simp only [State.idle_w, Bool.or_eq_false_iff] at hg
  repeat (have := hg.2; replace hg := hg.1)
  unfold State.idle
  repeat' first | intro _ | with_reducible first | assumption | apply State.maintPump_same (by assumption) | apply State.retryDue_same (by assumption) | apply State.countHours_same (by assumption) | apply State.tick_same (by assumption)

end Sys2Proof.Machine
end

