-- ==== Sys2Proof/Laws/Updates.lean ====
section
/-!
SUPPORT. Laws/Updates.lean: what each update of one part of the state leaves alone, field by field.
-/

namespace Sys2Proof.Machine

/-! After `putBytes` -/

@[simp] theorem State.part_putBytes (s : State) (l : List (Nat × Byte)) : (s.putBytes l).part = s.part := rfl
@[simp] theorem State.pending_putBytes (s : State) (l : List (Nat × Byte)) : (s.putBytes l).pending = s.pending := rfl
@[simp] theorem State.fld_putBytes (s : State) (l : List (Nat × Byte)) : (s.putBytes l).fld = s.fld := rfl
@[simp] theorem State.aux_putBytes (s : State) (l : List (Nat × Byte)) : (s.putBytes l).aux = s.aux := rfl
@[simp] theorem State.dt_putBytes (s : State) (l : List (Nat × Byte)) : (s.putBytes l).dt = s.dt := rfl
@[simp] theorem State.outbox_putBytes (s : State) (l : List (Nat × Byte)) : (s.putBytes l).outbox = s.outbox := rfl
@[simp] theorem State.jobs_putBytes (s : State) (l : List (Nat × Byte)) : (s.putBytes l).jobs = s.jobs := rfl
@[simp] theorem State.cmds_putBytes (s : State) (l : List (Nat × Byte)) : (s.putBytes l).cmds = s.cmds := rfl
@[simp] theorem State.placed_putBytes (s : State) (l : List (Nat × Byte)) : (s.putBytes l).placed = s.placed := rfl
@[simp] theorem State.reqs_putBytes (s : State) (l : List (Nat × Byte)) : (s.putBytes l).reqs = s.reqs := rfl
@[simp] theorem State.ops_putBytes (s : State) (l : List (Nat × Byte)) : (s.putBytes l).ops = s.ops := rfl
@[simp] theorem State.progq_putBytes (s : State) (l : List (Nat × Byte)) : (s.putBytes l).progq = s.progq := rfl
@[simp] theorem State.maps_putBytes (s : State) (l : List (Nat × Byte)) : (s.putBytes l).maps = s.maps := rfl
@[simp] theorem State.tiles_putBytes (s : State) (l : List (Nat × Byte)) : (s.putBytes l).tiles = s.tiles := rfl
@[simp] theorem State.tabs_putBytes (s : State) (l : List (Nat × Byte)) : (s.putBytes l).tabs = s.tabs := rfl
@[simp] theorem State.qps_putBytes (s : State) (l : List (Nat × Byte)) : (s.putBytes l).qps = s.qps := rfl
@[simp] theorem State.rings_putBytes (s : State) (l : List (Nat × Byte)) : (s.putBytes l).rings = s.rings := rfl
@[simp] theorem State.cals_putBytes (s : State) (l : List (Nat × Byte)) : (s.putBytes l).cals = s.cals := rfl
@[simp] theorem State.plays_putBytes (s : State) (l : List (Nat × Byte)) : (s.putBytes l).plays = s.plays := rfl
@[simp] theorem State.tlms_putBytes (s : State) (l : List (Nat × Byte)) : (s.putBytes l).tlms = s.tlms := rfl
@[simp] theorem State.rd_putBytes (s : State) (l : List (Nat × Byte)) (x : Field) (d' i' j' : Nat) : (s.putBytes l).rd x d' i' j' = s.rd x d' i' j' := rfl
@[simp] theorem State.rdb_putBytes (s : State) (l : List (Nat × Byte)) (x : Field) (d' i' j' : Nat) : (s.putBytes l).rdb x d' i' j' = s.rdb x d' i' j' := rfl
@[simp] theorem State.ax_putBytes (s : State) (l : List (Nat × Byte)) (x : Aux) (d' i' j' : Nat) : (s.putBytes l).ax x d' i' j' = s.ax x d' i' j' := rfl

/-! After `clearRange` -/

@[simp] theorem State.part_clearRange (s : State) (lo : Nat) (hi : Nat) : (s.clearRange lo hi).part = s.part := rfl
@[simp] theorem State.pending_clearRange (s : State) (lo : Nat) (hi : Nat) : (s.clearRange lo hi).pending = s.pending := rfl
@[simp] theorem State.fld_clearRange (s : State) (lo : Nat) (hi : Nat) : (s.clearRange lo hi).fld = s.fld := rfl
@[simp] theorem State.aux_clearRange (s : State) (lo : Nat) (hi : Nat) : (s.clearRange lo hi).aux = s.aux := rfl
@[simp] theorem State.dt_clearRange (s : State) (lo : Nat) (hi : Nat) : (s.clearRange lo hi).dt = s.dt := rfl
@[simp] theorem State.outbox_clearRange (s : State) (lo : Nat) (hi : Nat) : (s.clearRange lo hi).outbox = s.outbox := rfl
@[simp] theorem State.jobs_clearRange (s : State) (lo : Nat) (hi : Nat) : (s.clearRange lo hi).jobs = s.jobs := rfl
@[simp] theorem State.cmds_clearRange (s : State) (lo : Nat) (hi : Nat) : (s.clearRange lo hi).cmds = s.cmds := rfl
@[simp] theorem State.placed_clearRange (s : State) (lo : Nat) (hi : Nat) : (s.clearRange lo hi).placed = s.placed := rfl
@[simp] theorem State.reqs_clearRange (s : State) (lo : Nat) (hi : Nat) : (s.clearRange lo hi).reqs = s.reqs := rfl
@[simp] theorem State.ops_clearRange (s : State) (lo : Nat) (hi : Nat) : (s.clearRange lo hi).ops = s.ops := rfl
@[simp] theorem State.progq_clearRange (s : State) (lo : Nat) (hi : Nat) : (s.clearRange lo hi).progq = s.progq := rfl
@[simp] theorem State.maps_clearRange (s : State) (lo : Nat) (hi : Nat) : (s.clearRange lo hi).maps = s.maps := rfl
@[simp] theorem State.tiles_clearRange (s : State) (lo : Nat) (hi : Nat) : (s.clearRange lo hi).tiles = s.tiles := rfl
@[simp] theorem State.tabs_clearRange (s : State) (lo : Nat) (hi : Nat) : (s.clearRange lo hi).tabs = s.tabs := rfl
@[simp] theorem State.qps_clearRange (s : State) (lo : Nat) (hi : Nat) : (s.clearRange lo hi).qps = s.qps := rfl
@[simp] theorem State.rings_clearRange (s : State) (lo : Nat) (hi : Nat) : (s.clearRange lo hi).rings = s.rings := rfl
@[simp] theorem State.cals_clearRange (s : State) (lo : Nat) (hi : Nat) : (s.clearRange lo hi).cals = s.cals := rfl
@[simp] theorem State.plays_clearRange (s : State) (lo : Nat) (hi : Nat) : (s.clearRange lo hi).plays = s.plays := rfl
@[simp] theorem State.tlms_clearRange (s : State) (lo : Nat) (hi : Nat) : (s.clearRange lo hi).tlms = s.tlms := rfl
@[simp] theorem State.rd_clearRange (s : State) (lo : Nat) (hi : Nat) (x : Field) (d' i' j' : Nat) : (s.clearRange lo hi).rd x d' i' j' = s.rd x d' i' j' := rfl
@[simp] theorem State.rdb_clearRange (s : State) (lo : Nat) (hi : Nat) (x : Field) (d' i' j' : Nat) : (s.clearRange lo hi).rdb x d' i' j' = s.rdb x d' i' j' := rfl
@[simp] theorem State.ax_clearRange (s : State) (lo : Nat) (hi : Nat) (x : Aux) (d' i' j' : Nat) : (s.clearRange lo hi).ax x d' i' j' = s.ax x d' i' j' := rfl

/-! After `dropCopiesOn` -/

@[simp] theorem State.part_dropCopiesOn (s : State) (d : Nat) : (s.dropCopiesOn d).part = s.part := rfl
@[simp] theorem State.pending_dropCopiesOn (s : State) (d : Nat) : (s.dropCopiesOn d).pending = s.pending := rfl
@[simp] theorem State.fld_dropCopiesOn (s : State) (d : Nat) : (s.dropCopiesOn d).fld = s.fld := rfl
@[simp] theorem State.aux_dropCopiesOn (s : State) (d : Nat) : (s.dropCopiesOn d).aux = s.aux := rfl
@[simp] theorem State.mem_dropCopiesOn (s : State) (d : Nat) : (s.dropCopiesOn d).mem = s.mem := rfl
@[simp] theorem State.dt_dropCopiesOn (s : State) (d : Nat) : (s.dropCopiesOn d).dt = s.dt := rfl
@[simp] theorem State.outbox_dropCopiesOn (s : State) (d : Nat) : (s.dropCopiesOn d).outbox = s.outbox := rfl
@[simp] theorem State.jobs_dropCopiesOn (s : State) (d : Nat) : (s.dropCopiesOn d).jobs = s.jobs := rfl
@[simp] theorem State.cmds_dropCopiesOn (s : State) (d : Nat) : (s.dropCopiesOn d).cmds = s.cmds := rfl
@[simp] theorem State.placed_dropCopiesOn (s : State) (d : Nat) : (s.dropCopiesOn d).placed = s.placed := rfl
@[simp] theorem State.reqs_dropCopiesOn (s : State) (d : Nat) : (s.dropCopiesOn d).reqs = s.reqs := rfl
@[simp] theorem State.ops_dropCopiesOn (s : State) (d : Nat) : (s.dropCopiesOn d).ops = s.ops := rfl
@[simp] theorem State.progq_dropCopiesOn (s : State) (d : Nat) : (s.dropCopiesOn d).progq = s.progq := rfl
@[simp] theorem State.maps_dropCopiesOn (s : State) (d : Nat) : (s.dropCopiesOn d).maps = s.maps := rfl
@[simp] theorem State.tiles_dropCopiesOn (s : State) (d : Nat) : (s.dropCopiesOn d).tiles = s.tiles := rfl
@[simp] theorem State.tabs_dropCopiesOn (s : State) (d : Nat) : (s.dropCopiesOn d).tabs = s.tabs := rfl
@[simp] theorem State.qps_dropCopiesOn (s : State) (d : Nat) : (s.dropCopiesOn d).qps = s.qps := rfl
@[simp] theorem State.rings_dropCopiesOn (s : State) (d : Nat) : (s.dropCopiesOn d).rings = s.rings := rfl
@[simp] theorem State.cals_dropCopiesOn (s : State) (d : Nat) : (s.dropCopiesOn d).cals = s.cals := rfl
@[simp] theorem State.plays_dropCopiesOn (s : State) (d : Nat) : (s.dropCopiesOn d).plays = s.plays := rfl
@[simp] theorem State.tlms_dropCopiesOn (s : State) (d : Nat) : (s.dropCopiesOn d).tlms = s.tlms := rfl
@[simp] theorem State.rd_dropCopiesOn (s : State) (d : Nat) (x : Field) (d' i' j' : Nat) : (s.dropCopiesOn d).rd x d' i' j' = s.rd x d' i' j' := rfl
@[simp] theorem State.rdb_dropCopiesOn (s : State) (d : Nat) (x : Field) (d' i' j' : Nat) : (s.dropCopiesOn d).rdb x d' i' j' = s.rdb x d' i' j' := rfl
@[simp] theorem State.ax_dropCopiesOn (s : State) (d : Nat) (x : Aux) (d' i' j' : Nat) : (s.dropCopiesOn d).ax x d' i' j' = s.ax x d' i' j' := rfl
@[simp] theorem State.byte_dropCopiesOn (s : State) (d : Nat) (k' : Nat) : (s.dropCopiesOn d).byte k' = s.byte k' := rfl

/-! After `updJob` -/

@[simp] theorem State.part_updJob (s : State) (id : Nat) (f : Job → Job) : (s.updJob id f).part = s.part := rfl
@[simp] theorem State.pending_updJob (s : State) (id : Nat) (f : Job → Job) : (s.updJob id f).pending = s.pending := rfl
@[simp] theorem State.fld_updJob (s : State) (id : Nat) (f : Job → Job) : (s.updJob id f).fld = s.fld := rfl
@[simp] theorem State.aux_updJob (s : State) (id : Nat) (f : Job → Job) : (s.updJob id f).aux = s.aux := rfl
@[simp] theorem State.mem_updJob (s : State) (id : Nat) (f : Job → Job) : (s.updJob id f).mem = s.mem := rfl
@[simp] theorem State.dt_updJob (s : State) (id : Nat) (f : Job → Job) : (s.updJob id f).dt = s.dt := rfl
@[simp] theorem State.outbox_updJob (s : State) (id : Nat) (f : Job → Job) : (s.updJob id f).outbox = s.outbox := rfl
@[simp] theorem State.cmds_updJob (s : State) (id : Nat) (f : Job → Job) : (s.updJob id f).cmds = s.cmds := rfl
@[simp] theorem State.placed_updJob (s : State) (id : Nat) (f : Job → Job) : (s.updJob id f).placed = s.placed := rfl
@[simp] theorem State.reqs_updJob (s : State) (id : Nat) (f : Job → Job) : (s.updJob id f).reqs = s.reqs := rfl
@[simp] theorem State.ops_updJob (s : State) (id : Nat) (f : Job → Job) : (s.updJob id f).ops = s.ops := rfl
@[simp] theorem State.progq_updJob (s : State) (id : Nat) (f : Job → Job) : (s.updJob id f).progq = s.progq := rfl
@[simp] theorem State.maps_updJob (s : State) (id : Nat) (f : Job → Job) : (s.updJob id f).maps = s.maps := rfl
@[simp] theorem State.tiles_updJob (s : State) (id : Nat) (f : Job → Job) : (s.updJob id f).tiles = s.tiles := rfl
@[simp] theorem State.tabs_updJob (s : State) (id : Nat) (f : Job → Job) : (s.updJob id f).tabs = s.tabs := rfl
@[simp] theorem State.qps_updJob (s : State) (id : Nat) (f : Job → Job) : (s.updJob id f).qps = s.qps := rfl
@[simp] theorem State.rings_updJob (s : State) (id : Nat) (f : Job → Job) : (s.updJob id f).rings = s.rings := rfl
@[simp] theorem State.cals_updJob (s : State) (id : Nat) (f : Job → Job) : (s.updJob id f).cals = s.cals := rfl
@[simp] theorem State.plays_updJob (s : State) (id : Nat) (f : Job → Job) : (s.updJob id f).plays = s.plays := rfl
@[simp] theorem State.tlms_updJob (s : State) (id : Nat) (f : Job → Job) : (s.updJob id f).tlms = s.tlms := rfl
@[simp] theorem State.rd_updJob (s : State) (id : Nat) (f : Job → Job) (x : Field) (d' i' j' : Nat) : (s.updJob id f).rd x d' i' j' = s.rd x d' i' j' := rfl
@[simp] theorem State.rdb_updJob (s : State) (id : Nat) (f : Job → Job) (x : Field) (d' i' j' : Nat) : (s.updJob id f).rdb x d' i' j' = s.rdb x d' i' j' := rfl
@[simp] theorem State.ax_updJob (s : State) (id : Nat) (f : Job → Job) (x : Aux) (d' i' j' : Nat) : (s.updJob id f).ax x d' i' j' = s.ax x d' i' j' := rfl
@[simp] theorem State.byte_updJob (s : State) (id : Nat) (f : Job → Job) (k' : Nat) : (s.updJob id f).byte k' = s.byte k' := rfl

/-! After `voidRequests` -/

@[simp] theorem State.part_voidRequests (s : State) (id : Nat) : (s.voidRequests id).part = s.part := rfl
@[simp] theorem State.pending_voidRequests (s : State) (id : Nat) : (s.voidRequests id).pending = s.pending := rfl
@[simp] theorem State.fld_voidRequests (s : State) (id : Nat) : (s.voidRequests id).fld = s.fld := rfl
@[simp] theorem State.aux_voidRequests (s : State) (id : Nat) : (s.voidRequests id).aux = s.aux := rfl
@[simp] theorem State.mem_voidRequests (s : State) (id : Nat) : (s.voidRequests id).mem = s.mem := rfl
@[simp] theorem State.dt_voidRequests (s : State) (id : Nat) : (s.voidRequests id).dt = s.dt := rfl
@[simp] theorem State.outbox_voidRequests (s : State) (id : Nat) : (s.voidRequests id).outbox = s.outbox := rfl
@[simp] theorem State.jobs_voidRequests (s : State) (id : Nat) : (s.voidRequests id).jobs = s.jobs := rfl
@[simp] theorem State.cmds_voidRequests (s : State) (id : Nat) : (s.voidRequests id).cmds = s.cmds := rfl
@[simp] theorem State.placed_voidRequests (s : State) (id : Nat) : (s.voidRequests id).placed = s.placed := rfl
@[simp] theorem State.ops_voidRequests (s : State) (id : Nat) : (s.voidRequests id).ops = s.ops := rfl
@[simp] theorem State.progq_voidRequests (s : State) (id : Nat) : (s.voidRequests id).progq = s.progq := rfl
@[simp] theorem State.maps_voidRequests (s : State) (id : Nat) : (s.voidRequests id).maps = s.maps := rfl
@[simp] theorem State.tiles_voidRequests (s : State) (id : Nat) : (s.voidRequests id).tiles = s.tiles := rfl
@[simp] theorem State.tabs_voidRequests (s : State) (id : Nat) : (s.voidRequests id).tabs = s.tabs := rfl
@[simp] theorem State.qps_voidRequests (s : State) (id : Nat) : (s.voidRequests id).qps = s.qps := rfl
@[simp] theorem State.rings_voidRequests (s : State) (id : Nat) : (s.voidRequests id).rings = s.rings := rfl
@[simp] theorem State.cals_voidRequests (s : State) (id : Nat) : (s.voidRequests id).cals = s.cals := rfl
@[simp] theorem State.plays_voidRequests (s : State) (id : Nat) : (s.voidRequests id).plays = s.plays := rfl
@[simp] theorem State.tlms_voidRequests (s : State) (id : Nat) : (s.voidRequests id).tlms = s.tlms := rfl
@[simp] theorem State.rd_voidRequests (s : State) (id : Nat) (x : Field) (d' i' j' : Nat) : (s.voidRequests id).rd x d' i' j' = s.rd x d' i' j' := rfl
@[simp] theorem State.rdb_voidRequests (s : State) (id : Nat) (x : Field) (d' i' j' : Nat) : (s.voidRequests id).rdb x d' i' j' = s.rdb x d' i' j' := rfl
@[simp] theorem State.ax_voidRequests (s : State) (id : Nat) (x : Aux) (d' i' j' : Nat) : (s.voidRequests id).ax x d' i' j' = s.ax x d' i' j' := rfl
@[simp] theorem State.byte_voidRequests (s : State) (id : Nat) (k' : Nat) : (s.voidRequests id).byte k' = s.byte k' := rfl

/-! After `voidOps` -/

@[simp] theorem State.part_voidOps (s : State) (id : Nat) : (s.voidOps id).part = s.part := rfl
@[simp] theorem State.pending_voidOps (s : State) (id : Nat) : (s.voidOps id).pending = s.pending := rfl
@[simp] theorem State.fld_voidOps (s : State) (id : Nat) : (s.voidOps id).fld = s.fld := rfl
@[simp] theorem State.aux_voidOps (s : State) (id : Nat) : (s.voidOps id).aux = s.aux := rfl
@[simp] theorem State.mem_voidOps (s : State) (id : Nat) : (s.voidOps id).mem = s.mem := rfl
@[simp] theorem State.dt_voidOps (s : State) (id : Nat) : (s.voidOps id).dt = s.dt := rfl
@[simp] theorem State.outbox_voidOps (s : State) (id : Nat) : (s.voidOps id).outbox = s.outbox := rfl
@[simp] theorem State.jobs_voidOps (s : State) (id : Nat) : (s.voidOps id).jobs = s.jobs := rfl
@[simp] theorem State.cmds_voidOps (s : State) (id : Nat) : (s.voidOps id).cmds = s.cmds := rfl
@[simp] theorem State.placed_voidOps (s : State) (id : Nat) : (s.voidOps id).placed = s.placed := rfl
@[simp] theorem State.reqs_voidOps (s : State) (id : Nat) : (s.voidOps id).reqs = s.reqs := rfl
@[simp] theorem State.progq_voidOps (s : State) (id : Nat) : (s.voidOps id).progq = s.progq := rfl
@[simp] theorem State.maps_voidOps (s : State) (id : Nat) : (s.voidOps id).maps = s.maps := rfl
@[simp] theorem State.tiles_voidOps (s : State) (id : Nat) : (s.voidOps id).tiles = s.tiles := rfl
@[simp] theorem State.tabs_voidOps (s : State) (id : Nat) : (s.voidOps id).tabs = s.tabs := rfl
@[simp] theorem State.qps_voidOps (s : State) (id : Nat) : (s.voidOps id).qps = s.qps := rfl
@[simp] theorem State.rings_voidOps (s : State) (id : Nat) : (s.voidOps id).rings = s.rings := rfl
@[simp] theorem State.cals_voidOps (s : State) (id : Nat) : (s.voidOps id).cals = s.cals := rfl
@[simp] theorem State.plays_voidOps (s : State) (id : Nat) : (s.voidOps id).plays = s.plays := rfl
@[simp] theorem State.tlms_voidOps (s : State) (id : Nat) : (s.voidOps id).tlms = s.tlms := rfl
@[simp] theorem State.rd_voidOps (s : State) (id : Nat) (x : Field) (d' i' j' : Nat) : (s.voidOps id).rd x d' i' j' = s.rd x d' i' j' := rfl
@[simp] theorem State.rdb_voidOps (s : State) (id : Nat) (x : Field) (d' i' j' : Nat) : (s.voidOps id).rdb x d' i' j' = s.rdb x d' i' j' := rfl
@[simp] theorem State.ax_voidOps (s : State) (id : Nat) (x : Aux) (d' i' j' : Nat) : (s.voidOps id).ax x d' i' j' = s.ax x d' i' j' := rfl
@[simp] theorem State.byte_voidOps (s : State) (id : Nat) (k' : Nat) : (s.voidOps id).byte k' = s.byte k' := rfl

/-! After `cmdRunning` -/

@[simp] theorem State.part_cmdRunning (s : State) (c : Cmd) : (s.cmdRunning c).part = s.part := rfl
@[simp] theorem State.pending_cmdRunning (s : State) (c : Cmd) : (s.cmdRunning c).pending = s.pending := rfl
@[simp] theorem State.fld_cmdRunning (s : State) (c : Cmd) : (s.cmdRunning c).fld = s.fld := rfl
@[simp] theorem State.aux_cmdRunning (s : State) (c : Cmd) : (s.cmdRunning c).aux = s.aux := rfl
@[simp] theorem State.mem_cmdRunning (s : State) (c : Cmd) : (s.cmdRunning c).mem = s.mem := rfl
@[simp] theorem State.dt_cmdRunning (s : State) (c : Cmd) : (s.cmdRunning c).dt = s.dt := rfl
@[simp] theorem State.outbox_cmdRunning (s : State) (c : Cmd) : (s.cmdRunning c).outbox = s.outbox := rfl
@[simp] theorem State.jobs_cmdRunning (s : State) (c : Cmd) : (s.cmdRunning c).jobs = s.jobs := rfl
@[simp] theorem State.placed_cmdRunning (s : State) (c : Cmd) : (s.cmdRunning c).placed = s.placed := rfl
@[simp] theorem State.reqs_cmdRunning (s : State) (c : Cmd) : (s.cmdRunning c).reqs = s.reqs := rfl
@[simp] theorem State.ops_cmdRunning (s : State) (c : Cmd) : (s.cmdRunning c).ops = s.ops := rfl
@[simp] theorem State.progq_cmdRunning (s : State) (c : Cmd) : (s.cmdRunning c).progq = s.progq := rfl
@[simp] theorem State.maps_cmdRunning (s : State) (c : Cmd) : (s.cmdRunning c).maps = s.maps := rfl
@[simp] theorem State.tiles_cmdRunning (s : State) (c : Cmd) : (s.cmdRunning c).tiles = s.tiles := rfl
@[simp] theorem State.tabs_cmdRunning (s : State) (c : Cmd) : (s.cmdRunning c).tabs = s.tabs := rfl
@[simp] theorem State.qps_cmdRunning (s : State) (c : Cmd) : (s.cmdRunning c).qps = s.qps := rfl
@[simp] theorem State.rings_cmdRunning (s : State) (c : Cmd) : (s.cmdRunning c).rings = s.rings := rfl
@[simp] theorem State.cals_cmdRunning (s : State) (c : Cmd) : (s.cmdRunning c).cals = s.cals := rfl
@[simp] theorem State.plays_cmdRunning (s : State) (c : Cmd) : (s.cmdRunning c).plays = s.plays := rfl
@[simp] theorem State.tlms_cmdRunning (s : State) (c : Cmd) : (s.cmdRunning c).tlms = s.tlms := rfl
@[simp] theorem State.rd_cmdRunning (s : State) (c : Cmd) (x : Field) (d' i' j' : Nat) : (s.cmdRunning c).rd x d' i' j' = s.rd x d' i' j' := rfl
@[simp] theorem State.rdb_cmdRunning (s : State) (c : Cmd) (x : Field) (d' i' j' : Nat) : (s.cmdRunning c).rdb x d' i' j' = s.rdb x d' i' j' := rfl
@[simp] theorem State.ax_cmdRunning (s : State) (c : Cmd) (x : Aux) (d' i' j' : Nat) : (s.cmdRunning c).ax x d' i' j' = s.ax x d' i' j' := rfl
@[simp] theorem State.byte_cmdRunning (s : State) (c : Cmd) (k' : Nat) : (s.cmdRunning c).byte k' = s.byte k' := rfl

/-! After `addAlloc` -/

@[simp] theorem State.part_addAlloc (s : State) (a : Alloc) : (s.addAlloc a).part = s.part := rfl
@[simp] theorem State.pending_addAlloc (s : State) (a : Alloc) : (s.addAlloc a).pending = s.pending := rfl
@[simp] theorem State.fld_addAlloc (s : State) (a : Alloc) : (s.addAlloc a).fld = s.fld := rfl
@[simp] theorem State.aux_addAlloc (s : State) (a : Alloc) : (s.addAlloc a).aux = s.aux := rfl
@[simp] theorem State.mem_addAlloc (s : State) (a : Alloc) : (s.addAlloc a).mem = s.mem := rfl
@[simp] theorem State.dt_addAlloc (s : State) (a : Alloc) : (s.addAlloc a).dt = s.dt := rfl
@[simp] theorem State.outbox_addAlloc (s : State) (a : Alloc) : (s.addAlloc a).outbox = s.outbox := rfl
@[simp] theorem State.jobs_addAlloc (s : State) (a : Alloc) : (s.addAlloc a).jobs = s.jobs := rfl
@[simp] theorem State.cmds_addAlloc (s : State) (a : Alloc) : (s.addAlloc a).cmds = s.cmds := rfl
@[simp] theorem State.placed_addAlloc (s : State) (a : Alloc) : (s.addAlloc a).placed = s.placed := rfl
@[simp] theorem State.reqs_addAlloc (s : State) (a : Alloc) : (s.addAlloc a).reqs = s.reqs := rfl
@[simp] theorem State.ops_addAlloc (s : State) (a : Alloc) : (s.addAlloc a).ops = s.ops := rfl
@[simp] theorem State.progq_addAlloc (s : State) (a : Alloc) : (s.addAlloc a).progq = s.progq := rfl
@[simp] theorem State.maps_addAlloc (s : State) (a : Alloc) : (s.addAlloc a).maps = s.maps := rfl
@[simp] theorem State.tiles_addAlloc (s : State) (a : Alloc) : (s.addAlloc a).tiles = s.tiles := rfl
@[simp] theorem State.tabs_addAlloc (s : State) (a : Alloc) : (s.addAlloc a).tabs = s.tabs := rfl
@[simp] theorem State.qps_addAlloc (s : State) (a : Alloc) : (s.addAlloc a).qps = s.qps := rfl
@[simp] theorem State.rings_addAlloc (s : State) (a : Alloc) : (s.addAlloc a).rings = s.rings := rfl
@[simp] theorem State.cals_addAlloc (s : State) (a : Alloc) : (s.addAlloc a).cals = s.cals := rfl
@[simp] theorem State.plays_addAlloc (s : State) (a : Alloc) : (s.addAlloc a).plays = s.plays := rfl
@[simp] theorem State.tlms_addAlloc (s : State) (a : Alloc) : (s.addAlloc a).tlms = s.tlms := rfl
@[simp] theorem State.rd_addAlloc (s : State) (a : Alloc) (x : Field) (d' i' j' : Nat) : (s.addAlloc a).rd x d' i' j' = s.rd x d' i' j' := rfl
@[simp] theorem State.rdb_addAlloc (s : State) (a : Alloc) (x : Field) (d' i' j' : Nat) : (s.addAlloc a).rdb x d' i' j' = s.rdb x d' i' j' := rfl
@[simp] theorem State.ax_addAlloc (s : State) (a : Alloc) (x : Aux) (d' i' j' : Nat) : (s.addAlloc a).ax x d' i' j' = s.ax x d' i' j' := rfl
@[simp] theorem State.byte_addAlloc (s : State) (a : Alloc) (k' : Nat) : (s.addAlloc a).byte k' = s.byte k' := rfl

/-! After `unpark` -/

@[simp] theorem State.part_unpark (s : State) (id : Nat) : (s.unpark id).part = s.part := rfl
@[simp] theorem State.pending_unpark (s : State) (id : Nat) : (s.unpark id).pending = s.pending := rfl
@[simp] theorem State.fld_unpark (s : State) (id : Nat) : (s.unpark id).fld = s.fld := rfl
@[simp] theorem State.aux_unpark (s : State) (id : Nat) : (s.unpark id).aux = s.aux := rfl
@[simp] theorem State.mem_unpark (s : State) (id : Nat) : (s.unpark id).mem = s.mem := rfl
@[simp] theorem State.dt_unpark (s : State) (id : Nat) : (s.unpark id).dt = s.dt := rfl
@[simp] theorem State.outbox_unpark (s : State) (id : Nat) : (s.unpark id).outbox = s.outbox := rfl
@[simp] theorem State.placed_unpark (s : State) (id : Nat) : (s.unpark id).placed = s.placed := rfl
@[simp] theorem State.reqs_unpark (s : State) (id : Nat) : (s.unpark id).reqs = s.reqs := rfl
@[simp] theorem State.ops_unpark (s : State) (id : Nat) : (s.unpark id).ops = s.ops := rfl
@[simp] theorem State.progq_unpark (s : State) (id : Nat) : (s.unpark id).progq = s.progq := rfl
@[simp] theorem State.maps_unpark (s : State) (id : Nat) : (s.unpark id).maps = s.maps := rfl
@[simp] theorem State.tiles_unpark (s : State) (id : Nat) : (s.unpark id).tiles = s.tiles := rfl
@[simp] theorem State.tabs_unpark (s : State) (id : Nat) : (s.unpark id).tabs = s.tabs := rfl
@[simp] theorem State.qps_unpark (s : State) (id : Nat) : (s.unpark id).qps = s.qps := rfl
@[simp] theorem State.rings_unpark (s : State) (id : Nat) : (s.unpark id).rings = s.rings := rfl
@[simp] theorem State.cals_unpark (s : State) (id : Nat) : (s.unpark id).cals = s.cals := rfl
@[simp] theorem State.plays_unpark (s : State) (id : Nat) : (s.unpark id).plays = s.plays := rfl
@[simp] theorem State.tlms_unpark (s : State) (id : Nat) : (s.unpark id).tlms = s.tlms := rfl
@[simp] theorem State.rd_unpark (s : State) (id : Nat) (x : Field) (d' i' j' : Nat) : (s.unpark id).rd x d' i' j' = s.rd x d' i' j' := rfl
@[simp] theorem State.rdb_unpark (s : State) (id : Nat) (x : Field) (d' i' j' : Nat) : (s.unpark id).rdb x d' i' j' = s.rdb x d' i' j' := rfl
@[simp] theorem State.ax_unpark (s : State) (id : Nat) (x : Aux) (d' i' j' : Nat) : (s.unpark id).ax x d' i' j' = s.ax x d' i' j' := rfl
@[simp] theorem State.byte_unpark (s : State) (id : Nat) (k' : Nat) : (s.unpark id).byte k' = s.byte k' := rfl

/-! After `rebind` -/

@[simp] theorem State.part_rebind (s : State) : (s.rebind).part = s.part := rfl
@[simp] theorem State.pending_rebind (s : State) : (s.rebind).pending = s.pending := rfl
@[simp] theorem State.fld_rebind (s : State) : (s.rebind).fld = s.fld := rfl
@[simp] theorem State.aux_rebind (s : State) : (s.rebind).aux = s.aux := rfl
@[simp] theorem State.mem_rebind (s : State) : (s.rebind).mem = s.mem := rfl
@[simp] theorem State.dt_rebind (s : State) : (s.rebind).dt = s.dt := rfl
@[simp] theorem State.outbox_rebind (s : State) : (s.rebind).outbox = s.outbox := rfl
@[simp] theorem State.jobs_rebind (s : State) : (s.rebind).jobs = s.jobs := rfl
@[simp] theorem State.cmds_rebind (s : State) : (s.rebind).cmds = s.cmds := rfl
@[simp] theorem State.placed_rebind (s : State) : (s.rebind).placed = s.placed := rfl
@[simp] theorem State.reqs_rebind (s : State) : (s.rebind).reqs = s.reqs := rfl
@[simp] theorem State.ops_rebind (s : State) : (s.rebind).ops = s.ops := rfl
@[simp] theorem State.progq_rebind (s : State) : (s.rebind).progq = s.progq := rfl
@[simp] theorem State.tiles_rebind (s : State) : (s.rebind).tiles = s.tiles := rfl
@[simp] theorem State.tabs_rebind (s : State) : (s.rebind).tabs = s.tabs := rfl
@[simp] theorem State.qps_rebind (s : State) : (s.rebind).qps = s.qps := rfl
@[simp] theorem State.rings_rebind (s : State) : (s.rebind).rings = s.rings := rfl
@[simp] theorem State.cals_rebind (s : State) : (s.rebind).cals = s.cals := rfl
@[simp] theorem State.plays_rebind (s : State) : (s.rebind).plays = s.plays := rfl
@[simp] theorem State.tlms_rebind (s : State) : (s.rebind).tlms = s.tlms := rfl
@[simp] theorem State.rd_rebind (s : State) (x : Field) (d' i' j' : Nat) : (s.rebind).rd x d' i' j' = s.rd x d' i' j' := rfl
@[simp] theorem State.rdb_rebind (s : State) (x : Field) (d' i' j' : Nat) : (s.rebind).rdb x d' i' j' = s.rdb x d' i' j' := rfl
@[simp] theorem State.ax_rebind (s : State) (x : Aux) (d' i' j' : Nat) : (s.rebind).ax x d' i' j' = s.ax x d' i' j' := rfl
@[simp] theorem State.byte_rebind (s : State) (k' : Nat) : (s.rebind).byte k' = s.byte k' := rfl

/-! After `pktWrite` -/

@[simp] theorem State.part_pktWrite (s : State) (die : Nat) (page : Nat) (off : Nat) (l : List Byte) : (s.pktWrite die page off l).part = s.part := rfl
@[simp] theorem State.pending_pktWrite (s : State) (die : Nat) (page : Nat) (off : Nat) (l : List Byte) : (s.pktWrite die page off l).pending = s.pending := rfl
@[simp] theorem State.fld_pktWrite (s : State) (die : Nat) (page : Nat) (off : Nat) (l : List Byte) : (s.pktWrite die page off l).fld = s.fld := rfl
@[simp] theorem State.aux_pktWrite (s : State) (die : Nat) (page : Nat) (off : Nat) (l : List Byte) : (s.pktWrite die page off l).aux = s.aux := rfl
@[simp] theorem State.mem_pktWrite (s : State) (die : Nat) (page : Nat) (off : Nat) (l : List Byte) : (s.pktWrite die page off l).mem = s.mem := rfl
@[simp] theorem State.dt_pktWrite (s : State) (die : Nat) (page : Nat) (off : Nat) (l : List Byte) : (s.pktWrite die page off l).dt = s.dt := rfl
@[simp] theorem State.outbox_pktWrite (s : State) (die : Nat) (page : Nat) (off : Nat) (l : List Byte) : (s.pktWrite die page off l).outbox = s.outbox := rfl
@[simp] theorem State.jobs_pktWrite (s : State) (die : Nat) (page : Nat) (off : Nat) (l : List Byte) : (s.pktWrite die page off l).jobs = s.jobs := rfl
@[simp] theorem State.cmds_pktWrite (s : State) (die : Nat) (page : Nat) (off : Nat) (l : List Byte) : (s.pktWrite die page off l).cmds = s.cmds := rfl
@[simp] theorem State.placed_pktWrite (s : State) (die : Nat) (page : Nat) (off : Nat) (l : List Byte) : (s.pktWrite die page off l).placed = s.placed := rfl
@[simp] theorem State.reqs_pktWrite (s : State) (die : Nat) (page : Nat) (off : Nat) (l : List Byte) : (s.pktWrite die page off l).reqs = s.reqs := rfl
@[simp] theorem State.ops_pktWrite (s : State) (die : Nat) (page : Nat) (off : Nat) (l : List Byte) : (s.pktWrite die page off l).ops = s.ops := rfl
@[simp] theorem State.progq_pktWrite (s : State) (die : Nat) (page : Nat) (off : Nat) (l : List Byte) : (s.pktWrite die page off l).progq = s.progq := rfl
@[simp] theorem State.maps_pktWrite (s : State) (die : Nat) (page : Nat) (off : Nat) (l : List Byte) : (s.pktWrite die page off l).maps = s.maps := rfl
@[simp] theorem State.tiles_pktWrite (s : State) (die : Nat) (page : Nat) (off : Nat) (l : List Byte) : (s.pktWrite die page off l).tiles = s.tiles := rfl
@[simp] theorem State.tabs_pktWrite (s : State) (die : Nat) (page : Nat) (off : Nat) (l : List Byte) : (s.pktWrite die page off l).tabs = s.tabs := rfl
@[simp] theorem State.qps_pktWrite (s : State) (die : Nat) (page : Nat) (off : Nat) (l : List Byte) : (s.pktWrite die page off l).qps = s.qps := rfl
@[simp] theorem State.rings_pktWrite (s : State) (die : Nat) (page : Nat) (off : Nat) (l : List Byte) : (s.pktWrite die page off l).rings = s.rings := rfl
@[simp] theorem State.cals_pktWrite (s : State) (die : Nat) (page : Nat) (off : Nat) (l : List Byte) : (s.pktWrite die page off l).cals = s.cals := rfl
@[simp] theorem State.plays_pktWrite (s : State) (die : Nat) (page : Nat) (off : Nat) (l : List Byte) : (s.pktWrite die page off l).plays = s.plays := rfl
@[simp] theorem State.tlms_pktWrite (s : State) (die : Nat) (page : Nat) (off : Nat) (l : List Byte) : (s.pktWrite die page off l).tlms = s.tlms := rfl
@[simp] theorem State.rd_pktWrite (s : State) (die : Nat) (page : Nat) (off : Nat) (l : List Byte) (x : Field) (d' i' j' : Nat) : (s.pktWrite die page off l).rd x d' i' j' = s.rd x d' i' j' := rfl
@[simp] theorem State.rdb_pktWrite (s : State) (die : Nat) (page : Nat) (off : Nat) (l : List Byte) (x : Field) (d' i' j' : Nat) : (s.pktWrite die page off l).rdb x d' i' j' = s.rdb x d' i' j' := rfl
@[simp] theorem State.ax_pktWrite (s : State) (die : Nat) (page : Nat) (off : Nat) (l : List Byte) (x : Aux) (d' i' j' : Nat) : (s.pktWrite die page off l).ax x d' i' j' = s.ax x d' i' j' := rfl
@[simp] theorem State.byte_pktWrite (s : State) (die : Nat) (page : Nat) (off : Nat) (l : List Byte) (k' : Nat) : (s.pktWrite die page off l).byte k' = s.byte k' := rfl

/-! After `setTab` -/

@[simp] theorem State.part_setTab (s : State) (d : Nat) (t : Nat) (tab : Nat) (i : Nat) (v : Nat) : (s.setTab d t tab i v).part = s.part := rfl
@[simp] theorem State.pending_setTab (s : State) (d : Nat) (t : Nat) (tab : Nat) (i : Nat) (v : Nat) : (s.setTab d t tab i v).pending = s.pending := rfl
@[simp] theorem State.fld_setTab (s : State) (d : Nat) (t : Nat) (tab : Nat) (i : Nat) (v : Nat) : (s.setTab d t tab i v).fld = s.fld := rfl
@[simp] theorem State.aux_setTab (s : State) (d : Nat) (t : Nat) (tab : Nat) (i : Nat) (v : Nat) : (s.setTab d t tab i v).aux = s.aux := rfl
@[simp] theorem State.mem_setTab (s : State) (d : Nat) (t : Nat) (tab : Nat) (i : Nat) (v : Nat) : (s.setTab d t tab i v).mem = s.mem := rfl
@[simp] theorem State.dt_setTab (s : State) (d : Nat) (t : Nat) (tab : Nat) (i : Nat) (v : Nat) : (s.setTab d t tab i v).dt = s.dt := rfl
@[simp] theorem State.outbox_setTab (s : State) (d : Nat) (t : Nat) (tab : Nat) (i : Nat) (v : Nat) : (s.setTab d t tab i v).outbox = s.outbox := rfl
@[simp] theorem State.jobs_setTab (s : State) (d : Nat) (t : Nat) (tab : Nat) (i : Nat) (v : Nat) : (s.setTab d t tab i v).jobs = s.jobs := rfl
@[simp] theorem State.cmds_setTab (s : State) (d : Nat) (t : Nat) (tab : Nat) (i : Nat) (v : Nat) : (s.setTab d t tab i v).cmds = s.cmds := rfl
@[simp] theorem State.placed_setTab (s : State) (d : Nat) (t : Nat) (tab : Nat) (i : Nat) (v : Nat) : (s.setTab d t tab i v).placed = s.placed := rfl
@[simp] theorem State.reqs_setTab (s : State) (d : Nat) (t : Nat) (tab : Nat) (i : Nat) (v : Nat) : (s.setTab d t tab i v).reqs = s.reqs := rfl
@[simp] theorem State.ops_setTab (s : State) (d : Nat) (t : Nat) (tab : Nat) (i : Nat) (v : Nat) : (s.setTab d t tab i v).ops = s.ops := rfl
@[simp] theorem State.progq_setTab (s : State) (d : Nat) (t : Nat) (tab : Nat) (i : Nat) (v : Nat) : (s.setTab d t tab i v).progq = s.progq := rfl
@[simp] theorem State.maps_setTab (s : State) (d : Nat) (t : Nat) (tab : Nat) (i : Nat) (v : Nat) : (s.setTab d t tab i v).maps = s.maps := rfl
@[simp] theorem State.tiles_setTab (s : State) (d : Nat) (t : Nat) (tab : Nat) (i : Nat) (v : Nat) : (s.setTab d t tab i v).tiles = s.tiles := rfl
@[simp] theorem State.qps_setTab (s : State) (d : Nat) (t : Nat) (tab : Nat) (i : Nat) (v : Nat) : (s.setTab d t tab i v).qps = s.qps := rfl
@[simp] theorem State.rings_setTab (s : State) (d : Nat) (t : Nat) (tab : Nat) (i : Nat) (v : Nat) : (s.setTab d t tab i v).rings = s.rings := rfl
@[simp] theorem State.cals_setTab (s : State) (d : Nat) (t : Nat) (tab : Nat) (i : Nat) (v : Nat) : (s.setTab d t tab i v).cals = s.cals := rfl
@[simp] theorem State.plays_setTab (s : State) (d : Nat) (t : Nat) (tab : Nat) (i : Nat) (v : Nat) : (s.setTab d t tab i v).plays = s.plays := rfl
@[simp] theorem State.tlms_setTab (s : State) (d : Nat) (t : Nat) (tab : Nat) (i : Nat) (v : Nat) : (s.setTab d t tab i v).tlms = s.tlms := rfl
@[simp] theorem State.rd_setTab (s : State) (d : Nat) (t : Nat) (tab : Nat) (i : Nat) (v : Nat) (x : Field) (d' i' j' : Nat) : (s.setTab d t tab i v).rd x d' i' j' = s.rd x d' i' j' := rfl
@[simp] theorem State.rdb_setTab (s : State) (d : Nat) (t : Nat) (tab : Nat) (i : Nat) (v : Nat) (x : Field) (d' i' j' : Nat) : (s.setTab d t tab i v).rdb x d' i' j' = s.rdb x d' i' j' := rfl
@[simp] theorem State.ax_setTab (s : State) (d : Nat) (t : Nat) (tab : Nat) (i : Nat) (v : Nat) (x : Aux) (d' i' j' : Nat) : (s.setTab d t tab i v).ax x d' i' j' = s.ax x d' i' j' := rfl
@[simp] theorem State.byte_setTab (s : State) (d : Nat) (t : Nat) (tab : Nat) (i : Nat) (v : Nat) (k' : Nat) : (s.setTab d t tab i v).byte k' = s.byte k' := rfl

/-! After `updTile` -/

@[simp] theorem State.part_updTile (s : State) (d : Nat) (t : Nat) (f : TileSt → TileSt) : (s.updTile d t f).part = s.part := rfl
@[simp] theorem State.pending_updTile (s : State) (d : Nat) (t : Nat) (f : TileSt → TileSt) : (s.updTile d t f).pending = s.pending := rfl
@[simp] theorem State.fld_updTile (s : State) (d : Nat) (t : Nat) (f : TileSt → TileSt) : (s.updTile d t f).fld = s.fld := rfl
@[simp] theorem State.aux_updTile (s : State) (d : Nat) (t : Nat) (f : TileSt → TileSt) : (s.updTile d t f).aux = s.aux := rfl
@[simp] theorem State.mem_updTile (s : State) (d : Nat) (t : Nat) (f : TileSt → TileSt) : (s.updTile d t f).mem = s.mem := rfl
@[simp] theorem State.dt_updTile (s : State) (d : Nat) (t : Nat) (f : TileSt → TileSt) : (s.updTile d t f).dt = s.dt := rfl
@[simp] theorem State.outbox_updTile (s : State) (d : Nat) (t : Nat) (f : TileSt → TileSt) : (s.updTile d t f).outbox = s.outbox := rfl
@[simp] theorem State.jobs_updTile (s : State) (d : Nat) (t : Nat) (f : TileSt → TileSt) : (s.updTile d t f).jobs = s.jobs := rfl
@[simp] theorem State.cmds_updTile (s : State) (d : Nat) (t : Nat) (f : TileSt → TileSt) : (s.updTile d t f).cmds = s.cmds := rfl
@[simp] theorem State.placed_updTile (s : State) (d : Nat) (t : Nat) (f : TileSt → TileSt) : (s.updTile d t f).placed = s.placed := rfl
@[simp] theorem State.reqs_updTile (s : State) (d : Nat) (t : Nat) (f : TileSt → TileSt) : (s.updTile d t f).reqs = s.reqs := rfl
@[simp] theorem State.ops_updTile (s : State) (d : Nat) (t : Nat) (f : TileSt → TileSt) : (s.updTile d t f).ops = s.ops := rfl
@[simp] theorem State.progq_updTile (s : State) (d : Nat) (t : Nat) (f : TileSt → TileSt) : (s.updTile d t f).progq = s.progq := rfl
@[simp] theorem State.maps_updTile (s : State) (d : Nat) (t : Nat) (f : TileSt → TileSt) : (s.updTile d t f).maps = s.maps := rfl
@[simp] theorem State.tabs_updTile (s : State) (d : Nat) (t : Nat) (f : TileSt → TileSt) : (s.updTile d t f).tabs = s.tabs := rfl
@[simp] theorem State.qps_updTile (s : State) (d : Nat) (t : Nat) (f : TileSt → TileSt) : (s.updTile d t f).qps = s.qps := rfl
@[simp] theorem State.rings_updTile (s : State) (d : Nat) (t : Nat) (f : TileSt → TileSt) : (s.updTile d t f).rings = s.rings := rfl
@[simp] theorem State.cals_updTile (s : State) (d : Nat) (t : Nat) (f : TileSt → TileSt) : (s.updTile d t f).cals = s.cals := rfl
@[simp] theorem State.plays_updTile (s : State) (d : Nat) (t : Nat) (f : TileSt → TileSt) : (s.updTile d t f).plays = s.plays := rfl
@[simp] theorem State.tlms_updTile (s : State) (d : Nat) (t : Nat) (f : TileSt → TileSt) : (s.updTile d t f).tlms = s.tlms := rfl
@[simp] theorem State.rd_updTile (s : State) (d : Nat) (t : Nat) (f : TileSt → TileSt) (x : Field) (d' i' j' : Nat) : (s.updTile d t f).rd x d' i' j' = s.rd x d' i' j' := rfl
@[simp] theorem State.rdb_updTile (s : State) (d : Nat) (t : Nat) (f : TileSt → TileSt) (x : Field) (d' i' j' : Nat) : (s.updTile d t f).rdb x d' i' j' = s.rdb x d' i' j' := rfl
@[simp] theorem State.ax_updTile (s : State) (d : Nat) (t : Nat) (f : TileSt → TileSt) (x : Aux) (d' i' j' : Nat) : (s.updTile d t f).ax x d' i' j' = s.ax x d' i' j' := rfl
@[simp] theorem State.byte_updTile (s : State) (d : Nat) (t : Nat) (f : TileSt → TileSt) (k' : Nat) : (s.updTile d t f).byte k' = s.byte k' := rfl

/-! After `updMap` -/

@[simp] theorem State.part_updMap (s : State) (slot : Nat) (m : Nat) (f : MapSt → MapSt) : (s.updMap slot m f).part = s.part := rfl
@[simp] theorem State.pending_updMap (s : State) (slot : Nat) (m : Nat) (f : MapSt → MapSt) : (s.updMap slot m f).pending = s.pending := rfl
@[simp] theorem State.fld_updMap (s : State) (slot : Nat) (m : Nat) (f : MapSt → MapSt) : (s.updMap slot m f).fld = s.fld := rfl
@[simp] theorem State.aux_updMap (s : State) (slot : Nat) (m : Nat) (f : MapSt → MapSt) : (s.updMap slot m f).aux = s.aux := rfl
@[simp] theorem State.mem_updMap (s : State) (slot : Nat) (m : Nat) (f : MapSt → MapSt) : (s.updMap slot m f).mem = s.mem := rfl
@[simp] theorem State.dt_updMap (s : State) (slot : Nat) (m : Nat) (f : MapSt → MapSt) : (s.updMap slot m f).dt = s.dt := rfl
@[simp] theorem State.outbox_updMap (s : State) (slot : Nat) (m : Nat) (f : MapSt → MapSt) : (s.updMap slot m f).outbox = s.outbox := rfl
@[simp] theorem State.jobs_updMap (s : State) (slot : Nat) (m : Nat) (f : MapSt → MapSt) : (s.updMap slot m f).jobs = s.jobs := rfl
@[simp] theorem State.cmds_updMap (s : State) (slot : Nat) (m : Nat) (f : MapSt → MapSt) : (s.updMap slot m f).cmds = s.cmds := rfl
@[simp] theorem State.placed_updMap (s : State) (slot : Nat) (m : Nat) (f : MapSt → MapSt) : (s.updMap slot m f).placed = s.placed := rfl
@[simp] theorem State.reqs_updMap (s : State) (slot : Nat) (m : Nat) (f : MapSt → MapSt) : (s.updMap slot m f).reqs = s.reqs := rfl
@[simp] theorem State.ops_updMap (s : State) (slot : Nat) (m : Nat) (f : MapSt → MapSt) : (s.updMap slot m f).ops = s.ops := rfl
@[simp] theorem State.progq_updMap (s : State) (slot : Nat) (m : Nat) (f : MapSt → MapSt) : (s.updMap slot m f).progq = s.progq := rfl
@[simp] theorem State.tiles_updMap (s : State) (slot : Nat) (m : Nat) (f : MapSt → MapSt) : (s.updMap slot m f).tiles = s.tiles := rfl
@[simp] theorem State.tabs_updMap (s : State) (slot : Nat) (m : Nat) (f : MapSt → MapSt) : (s.updMap slot m f).tabs = s.tabs := rfl
@[simp] theorem State.qps_updMap (s : State) (slot : Nat) (m : Nat) (f : MapSt → MapSt) : (s.updMap slot m f).qps = s.qps := rfl
@[simp] theorem State.rings_updMap (s : State) (slot : Nat) (m : Nat) (f : MapSt → MapSt) : (s.updMap slot m f).rings = s.rings := rfl
@[simp] theorem State.cals_updMap (s : State) (slot : Nat) (m : Nat) (f : MapSt → MapSt) : (s.updMap slot m f).cals = s.cals := rfl
@[simp] theorem State.plays_updMap (s : State) (slot : Nat) (m : Nat) (f : MapSt → MapSt) : (s.updMap slot m f).plays = s.plays := rfl
@[simp] theorem State.tlms_updMap (s : State) (slot : Nat) (m : Nat) (f : MapSt → MapSt) : (s.updMap slot m f).tlms = s.tlms := rfl
@[simp] theorem State.rd_updMap (s : State) (slot : Nat) (m : Nat) (f : MapSt → MapSt) (x : Field) (d' i' j' : Nat) : (s.updMap slot m f).rd x d' i' j' = s.rd x d' i' j' := rfl
@[simp] theorem State.rdb_updMap (s : State) (slot : Nat) (m : Nat) (f : MapSt → MapSt) (x : Field) (d' i' j' : Nat) : (s.updMap slot m f).rdb x d' i' j' = s.rdb x d' i' j' := rfl
@[simp] theorem State.ax_updMap (s : State) (slot : Nat) (m : Nat) (f : MapSt → MapSt) (x : Aux) (d' i' j' : Nat) : (s.updMap slot m f).ax x d' i' j' = s.ax x d' i' j' := rfl
@[simp] theorem State.byte_updMap (s : State) (slot : Nat) (m : Nat) (f : MapSt → MapSt) (k' : Nat) : (s.updMap slot m f).byte k' = s.byte k' := rfl

/-! After `dropTab` -/

@[simp] theorem State.part_dropTab (s : State) (d : Nat) (t : Nat) (tab : Nat) : (s.dropTab d t tab).part = s.part := rfl
@[simp] theorem State.pending_dropTab (s : State) (d : Nat) (t : Nat) (tab : Nat) : (s.dropTab d t tab).pending = s.pending := rfl
@[simp] theorem State.fld_dropTab (s : State) (d : Nat) (t : Nat) (tab : Nat) : (s.dropTab d t tab).fld = s.fld := rfl
@[simp] theorem State.aux_dropTab (s : State) (d : Nat) (t : Nat) (tab : Nat) : (s.dropTab d t tab).aux = s.aux := rfl
@[simp] theorem State.mem_dropTab (s : State) (d : Nat) (t : Nat) (tab : Nat) : (s.dropTab d t tab).mem = s.mem := rfl
@[simp] theorem State.dt_dropTab (s : State) (d : Nat) (t : Nat) (tab : Nat) : (s.dropTab d t tab).dt = s.dt := rfl
@[simp] theorem State.outbox_dropTab (s : State) (d : Nat) (t : Nat) (tab : Nat) : (s.dropTab d t tab).outbox = s.outbox := rfl
@[simp] theorem State.jobs_dropTab (s : State) (d : Nat) (t : Nat) (tab : Nat) : (s.dropTab d t tab).jobs = s.jobs := rfl
@[simp] theorem State.cmds_dropTab (s : State) (d : Nat) (t : Nat) (tab : Nat) : (s.dropTab d t tab).cmds = s.cmds := rfl
@[simp] theorem State.placed_dropTab (s : State) (d : Nat) (t : Nat) (tab : Nat) : (s.dropTab d t tab).placed = s.placed := rfl
@[simp] theorem State.reqs_dropTab (s : State) (d : Nat) (t : Nat) (tab : Nat) : (s.dropTab d t tab).reqs = s.reqs := rfl
@[simp] theorem State.ops_dropTab (s : State) (d : Nat) (t : Nat) (tab : Nat) : (s.dropTab d t tab).ops = s.ops := rfl
@[simp] theorem State.progq_dropTab (s : State) (d : Nat) (t : Nat) (tab : Nat) : (s.dropTab d t tab).progq = s.progq := rfl
@[simp] theorem State.maps_dropTab (s : State) (d : Nat) (t : Nat) (tab : Nat) : (s.dropTab d t tab).maps = s.maps := rfl
@[simp] theorem State.tiles_dropTab (s : State) (d : Nat) (t : Nat) (tab : Nat) : (s.dropTab d t tab).tiles = s.tiles := rfl
@[simp] theorem State.qps_dropTab (s : State) (d : Nat) (t : Nat) (tab : Nat) : (s.dropTab d t tab).qps = s.qps := rfl
@[simp] theorem State.rings_dropTab (s : State) (d : Nat) (t : Nat) (tab : Nat) : (s.dropTab d t tab).rings = s.rings := rfl
@[simp] theorem State.cals_dropTab (s : State) (d : Nat) (t : Nat) (tab : Nat) : (s.dropTab d t tab).cals = s.cals := rfl
@[simp] theorem State.plays_dropTab (s : State) (d : Nat) (t : Nat) (tab : Nat) : (s.dropTab d t tab).plays = s.plays := rfl
@[simp] theorem State.tlms_dropTab (s : State) (d : Nat) (t : Nat) (tab : Nat) : (s.dropTab d t tab).tlms = s.tlms := rfl
@[simp] theorem State.rd_dropTab (s : State) (d : Nat) (t : Nat) (tab : Nat) (x : Field) (d' i' j' : Nat) : (s.dropTab d t tab).rd x d' i' j' = s.rd x d' i' j' := rfl
@[simp] theorem State.rdb_dropTab (s : State) (d : Nat) (t : Nat) (tab : Nat) (x : Field) (d' i' j' : Nat) : (s.dropTab d t tab).rdb x d' i' j' = s.rdb x d' i' j' := rfl
@[simp] theorem State.ax_dropTab (s : State) (d : Nat) (t : Nat) (tab : Nat) (x : Aux) (d' i' j' : Nat) : (s.dropTab d t tab).ax x d' i' j' = s.ax x d' i' j' := rfl
@[simp] theorem State.byte_dropTab (s : State) (d : Nat) (t : Nat) (tab : Nat) (k' : Nat) : (s.dropTab d t tab).byte k' = s.byte k' := rfl

/-! After `updReq` -/

@[simp] theorem State.part_updReq (s : State) (no : Nat) (f : PReq → PReq) : (s.updReq no f).part = s.part := rfl
@[simp] theorem State.pending_updReq (s : State) (no : Nat) (f : PReq → PReq) : (s.updReq no f).pending = s.pending := rfl
@[simp] theorem State.fld_updReq (s : State) (no : Nat) (f : PReq → PReq) : (s.updReq no f).fld = s.fld := rfl
@[simp] theorem State.aux_updReq (s : State) (no : Nat) (f : PReq → PReq) : (s.updReq no f).aux = s.aux := rfl
@[simp] theorem State.mem_updReq (s : State) (no : Nat) (f : PReq → PReq) : (s.updReq no f).mem = s.mem := rfl
@[simp] theorem State.dt_updReq (s : State) (no : Nat) (f : PReq → PReq) : (s.updReq no f).dt = s.dt := rfl
@[simp] theorem State.outbox_updReq (s : State) (no : Nat) (f : PReq → PReq) : (s.updReq no f).outbox = s.outbox := rfl
@[simp] theorem State.jobs_updReq (s : State) (no : Nat) (f : PReq → PReq) : (s.updReq no f).jobs = s.jobs := rfl
@[simp] theorem State.cmds_updReq (s : State) (no : Nat) (f : PReq → PReq) : (s.updReq no f).cmds = s.cmds := rfl
@[simp] theorem State.placed_updReq (s : State) (no : Nat) (f : PReq → PReq) : (s.updReq no f).placed = s.placed := rfl
@[simp] theorem State.reqs_updReq (s : State) (no : Nat) (f : PReq → PReq) : (s.updReq no f).reqs = s.reqs := rfl
@[simp] theorem State.ops_updReq (s : State) (no : Nat) (f : PReq → PReq) : (s.updReq no f).ops = s.ops := rfl
@[simp] theorem State.maps_updReq (s : State) (no : Nat) (f : PReq → PReq) : (s.updReq no f).maps = s.maps := rfl
@[simp] theorem State.tiles_updReq (s : State) (no : Nat) (f : PReq → PReq) : (s.updReq no f).tiles = s.tiles := rfl
@[simp] theorem State.tabs_updReq (s : State) (no : Nat) (f : PReq → PReq) : (s.updReq no f).tabs = s.tabs := rfl
@[simp] theorem State.qps_updReq (s : State) (no : Nat) (f : PReq → PReq) : (s.updReq no f).qps = s.qps := rfl
@[simp] theorem State.rings_updReq (s : State) (no : Nat) (f : PReq → PReq) : (s.updReq no f).rings = s.rings := rfl
@[simp] theorem State.cals_updReq (s : State) (no : Nat) (f : PReq → PReq) : (s.updReq no f).cals = s.cals := rfl
@[simp] theorem State.plays_updReq (s : State) (no : Nat) (f : PReq → PReq) : (s.updReq no f).plays = s.plays := rfl
@[simp] theorem State.tlms_updReq (s : State) (no : Nat) (f : PReq → PReq) : (s.updReq no f).tlms = s.tlms := rfl
@[simp] theorem State.rd_updReq (s : State) (no : Nat) (f : PReq → PReq) (x : Field) (d' i' j' : Nat) : (s.updReq no f).rd x d' i' j' = s.rd x d' i' j' := rfl
@[simp] theorem State.rdb_updReq (s : State) (no : Nat) (f : PReq → PReq) (x : Field) (d' i' j' : Nat) : (s.updReq no f).rdb x d' i' j' = s.rdb x d' i' j' := rfl
@[simp] theorem State.ax_updReq (s : State) (no : Nat) (f : PReq → PReq) (x : Aux) (d' i' j' : Nat) : (s.updReq no f).ax x d' i' j' = s.ax x d' i' j' := rfl
@[simp] theorem State.byte_updReq (s : State) (no : Nat) (f : PReq → PReq) (k' : Nat) : (s.updReq no f).byte k' = s.byte k' := rfl

/-! After `updRefresh` -/

@[simp] theorem State.part_updRefresh (s : State) (d : Nat) (t : Nat) (f : Refresh → Refresh) : (s.updRefresh d t f).part = s.part := rfl
@[simp] theorem State.pending_updRefresh (s : State) (d : Nat) (t : Nat) (f : Refresh → Refresh) : (s.updRefresh d t f).pending = s.pending := rfl
@[simp] theorem State.fld_updRefresh (s : State) (d : Nat) (t : Nat) (f : Refresh → Refresh) : (s.updRefresh d t f).fld = s.fld := rfl
@[simp] theorem State.aux_updRefresh (s : State) (d : Nat) (t : Nat) (f : Refresh → Refresh) : (s.updRefresh d t f).aux = s.aux := rfl
@[simp] theorem State.mem_updRefresh (s : State) (d : Nat) (t : Nat) (f : Refresh → Refresh) : (s.updRefresh d t f).mem = s.mem := rfl
@[simp] theorem State.dt_updRefresh (s : State) (d : Nat) (t : Nat) (f : Refresh → Refresh) : (s.updRefresh d t f).dt = s.dt := rfl
@[simp] theorem State.outbox_updRefresh (s : State) (d : Nat) (t : Nat) (f : Refresh → Refresh) : (s.updRefresh d t f).outbox = s.outbox := rfl
@[simp] theorem State.jobs_updRefresh (s : State) (d : Nat) (t : Nat) (f : Refresh → Refresh) : (s.updRefresh d t f).jobs = s.jobs := rfl
@[simp] theorem State.cmds_updRefresh (s : State) (d : Nat) (t : Nat) (f : Refresh → Refresh) : (s.updRefresh d t f).cmds = s.cmds := rfl
@[simp] theorem State.placed_updRefresh (s : State) (d : Nat) (t : Nat) (f : Refresh → Refresh) : (s.updRefresh d t f).placed = s.placed := rfl
@[simp] theorem State.reqs_updRefresh (s : State) (d : Nat) (t : Nat) (f : Refresh → Refresh) : (s.updRefresh d t f).reqs = s.reqs := rfl
@[simp] theorem State.ops_updRefresh (s : State) (d : Nat) (t : Nat) (f : Refresh → Refresh) : (s.updRefresh d t f).ops = s.ops := rfl
@[simp] theorem State.progq_updRefresh (s : State) (d : Nat) (t : Nat) (f : Refresh → Refresh) : (s.updRefresh d t f).progq = s.progq := rfl
@[simp] theorem State.maps_updRefresh (s : State) (d : Nat) (t : Nat) (f : Refresh → Refresh) : (s.updRefresh d t f).maps = s.maps := rfl
@[simp] theorem State.tiles_updRefresh (s : State) (d : Nat) (t : Nat) (f : Refresh → Refresh) : (s.updRefresh d t f).tiles = s.tiles := rfl
@[simp] theorem State.tabs_updRefresh (s : State) (d : Nat) (t : Nat) (f : Refresh → Refresh) : (s.updRefresh d t f).tabs = s.tabs := rfl
@[simp] theorem State.qps_updRefresh (s : State) (d : Nat) (t : Nat) (f : Refresh → Refresh) : (s.updRefresh d t f).qps = s.qps := rfl
@[simp] theorem State.rings_updRefresh (s : State) (d : Nat) (t : Nat) (f : Refresh → Refresh) : (s.updRefresh d t f).rings = s.rings := rfl
@[simp] theorem State.cals_updRefresh (s : State) (d : Nat) (t : Nat) (f : Refresh → Refresh) : (s.updRefresh d t f).cals = s.cals := rfl
@[simp] theorem State.plays_updRefresh (s : State) (d : Nat) (t : Nat) (f : Refresh → Refresh) : (s.updRefresh d t f).plays = s.plays := rfl
@[simp] theorem State.tlms_updRefresh (s : State) (d : Nat) (t : Nat) (f : Refresh → Refresh) : (s.updRefresh d t f).tlms = s.tlms := rfl
@[simp] theorem State.rd_updRefresh (s : State) (d : Nat) (t : Nat) (f : Refresh → Refresh) (x : Field) (d' i' j' : Nat) : (s.updRefresh d t f).rd x d' i' j' = s.rd x d' i' j' := rfl
@[simp] theorem State.rdb_updRefresh (s : State) (d : Nat) (t : Nat) (f : Refresh → Refresh) (x : Field) (d' i' j' : Nat) : (s.updRefresh d t f).rdb x d' i' j' = s.rdb x d' i' j' := rfl
@[simp] theorem State.ax_updRefresh (s : State) (d : Nat) (t : Nat) (f : Refresh → Refresh) (x : Aux) (d' i' j' : Nat) : (s.updRefresh d t f).ax x d' i' j' = s.ax x d' i' j' := rfl
@[simp] theorem State.byte_updRefresh (s : State) (d : Nat) (t : Nat) (f : Refresh → Refresh) (k' : Nat) : (s.updRefresh d t f).byte k' = s.byte k' := rfl

/-! After `dropReq` -/

@[simp] theorem State.part_dropReq (s : State) (no : Nat) : (s.dropReq no).part = s.part := rfl
@[simp] theorem State.pending_dropReq (s : State) (no : Nat) : (s.dropReq no).pending = s.pending := rfl
@[simp] theorem State.fld_dropReq (s : State) (no : Nat) : (s.dropReq no).fld = s.fld := rfl
@[simp] theorem State.aux_dropReq (s : State) (no : Nat) : (s.dropReq no).aux = s.aux := rfl
@[simp] theorem State.mem_dropReq (s : State) (no : Nat) : (s.dropReq no).mem = s.mem := rfl
@[simp] theorem State.dt_dropReq (s : State) (no : Nat) : (s.dropReq no).dt = s.dt := rfl
@[simp] theorem State.outbox_dropReq (s : State) (no : Nat) : (s.dropReq no).outbox = s.outbox := rfl
@[simp] theorem State.jobs_dropReq (s : State) (no : Nat) : (s.dropReq no).jobs = s.jobs := rfl
@[simp] theorem State.cmds_dropReq (s : State) (no : Nat) : (s.dropReq no).cmds = s.cmds := rfl
@[simp] theorem State.placed_dropReq (s : State) (no : Nat) : (s.dropReq no).placed = s.placed := rfl
@[simp] theorem State.reqs_dropReq (s : State) (no : Nat) : (s.dropReq no).reqs = s.reqs := rfl
@[simp] theorem State.ops_dropReq (s : State) (no : Nat) : (s.dropReq no).ops = s.ops := rfl
@[simp] theorem State.maps_dropReq (s : State) (no : Nat) : (s.dropReq no).maps = s.maps := rfl
@[simp] theorem State.tiles_dropReq (s : State) (no : Nat) : (s.dropReq no).tiles = s.tiles := rfl
@[simp] theorem State.tabs_dropReq (s : State) (no : Nat) : (s.dropReq no).tabs = s.tabs := rfl
@[simp] theorem State.qps_dropReq (s : State) (no : Nat) : (s.dropReq no).qps = s.qps := rfl
@[simp] theorem State.rings_dropReq (s : State) (no : Nat) : (s.dropReq no).rings = s.rings := rfl
@[simp] theorem State.cals_dropReq (s : State) (no : Nat) : (s.dropReq no).cals = s.cals := rfl
@[simp] theorem State.plays_dropReq (s : State) (no : Nat) : (s.dropReq no).plays = s.plays := rfl
@[simp] theorem State.tlms_dropReq (s : State) (no : Nat) : (s.dropReq no).tlms = s.tlms := rfl
@[simp] theorem State.rd_dropReq (s : State) (no : Nat) (x : Field) (d' i' j' : Nat) : (s.dropReq no).rd x d' i' j' = s.rd x d' i' j' := rfl
@[simp] theorem State.rdb_dropReq (s : State) (no : Nat) (x : Field) (d' i' j' : Nat) : (s.dropReq no).rdb x d' i' j' = s.rdb x d' i' j' := rfl
@[simp] theorem State.ax_dropReq (s : State) (no : Nat) (x : Aux) (d' i' j' : Nat) : (s.dropReq no).ax x d' i' j' = s.ax x d' i' j' := rfl
@[simp] theorem State.byte_dropReq (s : State) (no : Nat) (k' : Nat) : (s.dropReq no).byte k' = s.byte k' := rfl

/-! After `dropPanels` -/

@[simp] theorem State.part_dropPanels (s : State) (slot : Nat) (map : Nat) : (s.dropPanels slot map).part = s.part := rfl
@[simp] theorem State.pending_dropPanels (s : State) (slot : Nat) (map : Nat) : (s.dropPanels slot map).pending = s.pending := rfl
@[simp] theorem State.fld_dropPanels (s : State) (slot : Nat) (map : Nat) : (s.dropPanels slot map).fld = s.fld := rfl
@[simp] theorem State.aux_dropPanels (s : State) (slot : Nat) (map : Nat) : (s.dropPanels slot map).aux = s.aux := rfl
@[simp] theorem State.mem_dropPanels (s : State) (slot : Nat) (map : Nat) : (s.dropPanels slot map).mem = s.mem := rfl
@[simp] theorem State.dt_dropPanels (s : State) (slot : Nat) (map : Nat) : (s.dropPanels slot map).dt = s.dt := rfl
@[simp] theorem State.outbox_dropPanels (s : State) (slot : Nat) (map : Nat) : (s.dropPanels slot map).outbox = s.outbox := rfl
@[simp] theorem State.jobs_dropPanels (s : State) (slot : Nat) (map : Nat) : (s.dropPanels slot map).jobs = s.jobs := rfl
@[simp] theorem State.cmds_dropPanels (s : State) (slot : Nat) (map : Nat) : (s.dropPanels slot map).cmds = s.cmds := rfl
@[simp] theorem State.placed_dropPanels (s : State) (slot : Nat) (map : Nat) : (s.dropPanels slot map).placed = s.placed := rfl
@[simp] theorem State.reqs_dropPanels (s : State) (slot : Nat) (map : Nat) : (s.dropPanels slot map).reqs = s.reqs := rfl
@[simp] theorem State.ops_dropPanels (s : State) (slot : Nat) (map : Nat) : (s.dropPanels slot map).ops = s.ops := rfl
@[simp] theorem State.progq_dropPanels (s : State) (slot : Nat) (map : Nat) : (s.dropPanels slot map).progq = s.progq := rfl
@[simp] theorem State.maps_dropPanels (s : State) (slot : Nat) (map : Nat) : (s.dropPanels slot map).maps = s.maps := rfl
@[simp] theorem State.tiles_dropPanels (s : State) (slot : Nat) (map : Nat) : (s.dropPanels slot map).tiles = s.tiles := rfl
@[simp] theorem State.tabs_dropPanels (s : State) (slot : Nat) (map : Nat) : (s.dropPanels slot map).tabs = s.tabs := rfl
@[simp] theorem State.qps_dropPanels (s : State) (slot : Nat) (map : Nat) : (s.dropPanels slot map).qps = s.qps := rfl
@[simp] theorem State.rings_dropPanels (s : State) (slot : Nat) (map : Nat) : (s.dropPanels slot map).rings = s.rings := rfl
@[simp] theorem State.cals_dropPanels (s : State) (slot : Nat) (map : Nat) : (s.dropPanels slot map).cals = s.cals := rfl
@[simp] theorem State.plays_dropPanels (s : State) (slot : Nat) (map : Nat) : (s.dropPanels slot map).plays = s.plays := rfl
@[simp] theorem State.tlms_dropPanels (s : State) (slot : Nat) (map : Nat) : (s.dropPanels slot map).tlms = s.tlms := rfl
@[simp] theorem State.rd_dropPanels (s : State) (slot : Nat) (map : Nat) (x : Field) (d' i' j' : Nat) : (s.dropPanels slot map).rd x d' i' j' = s.rd x d' i' j' := rfl
@[simp] theorem State.rdb_dropPanels (s : State) (slot : Nat) (map : Nat) (x : Field) (d' i' j' : Nat) : (s.dropPanels slot map).rdb x d' i' j' = s.rdb x d' i' j' := rfl
@[simp] theorem State.ax_dropPanels (s : State) (slot : Nat) (map : Nat) (x : Aux) (d' i' j' : Nat) : (s.dropPanels slot map).ax x d' i' j' = s.ax x d' i' j' := rfl
@[simp] theorem State.byte_dropPanels (s : State) (slot : Nat) (map : Nat) (k' : Nat) : (s.dropPanels slot map).byte k' = s.byte k' := rfl

/-! After `turnPanels` -/

@[simp] theorem State.part_turnPanels (s : State) (slot : Nat) (m : Nat) (layer : Nat) : (s.turnPanels slot m layer).part = s.part := rfl
@[simp] theorem State.pending_turnPanels (s : State) (slot : Nat) (m : Nat) (layer : Nat) : (s.turnPanels slot m layer).pending = s.pending := rfl
@[simp] theorem State.fld_turnPanels (s : State) (slot : Nat) (m : Nat) (layer : Nat) : (s.turnPanels slot m layer).fld = s.fld := rfl
@[simp] theorem State.aux_turnPanels (s : State) (slot : Nat) (m : Nat) (layer : Nat) : (s.turnPanels slot m layer).aux = s.aux := rfl
@[simp] theorem State.mem_turnPanels (s : State) (slot : Nat) (m : Nat) (layer : Nat) : (s.turnPanels slot m layer).mem = s.mem := rfl
@[simp] theorem State.dt_turnPanels (s : State) (slot : Nat) (m : Nat) (layer : Nat) : (s.turnPanels slot m layer).dt = s.dt := rfl
@[simp] theorem State.outbox_turnPanels (s : State) (slot : Nat) (m : Nat) (layer : Nat) : (s.turnPanels slot m layer).outbox = s.outbox := rfl
@[simp] theorem State.jobs_turnPanels (s : State) (slot : Nat) (m : Nat) (layer : Nat) : (s.turnPanels slot m layer).jobs = s.jobs := rfl
@[simp] theorem State.cmds_turnPanels (s : State) (slot : Nat) (m : Nat) (layer : Nat) : (s.turnPanels slot m layer).cmds = s.cmds := rfl
@[simp] theorem State.placed_turnPanels (s : State) (slot : Nat) (m : Nat) (layer : Nat) : (s.turnPanels slot m layer).placed = s.placed := rfl
@[simp] theorem State.reqs_turnPanels (s : State) (slot : Nat) (m : Nat) (layer : Nat) : (s.turnPanels slot m layer).reqs = s.reqs := rfl
@[simp] theorem State.ops_turnPanels (s : State) (slot : Nat) (m : Nat) (layer : Nat) : (s.turnPanels slot m layer).ops = s.ops := rfl
@[simp] theorem State.progq_turnPanels (s : State) (slot : Nat) (m : Nat) (layer : Nat) : (s.turnPanels slot m layer).progq = s.progq := rfl
@[simp] theorem State.maps_turnPanels (s : State) (slot : Nat) (m : Nat) (layer : Nat) : (s.turnPanels slot m layer).maps = s.maps := rfl
@[simp] theorem State.tiles_turnPanels (s : State) (slot : Nat) (m : Nat) (layer : Nat) : (s.turnPanels slot m layer).tiles = s.tiles := rfl
@[simp] theorem State.tabs_turnPanels (s : State) (slot : Nat) (m : Nat) (layer : Nat) : (s.turnPanels slot m layer).tabs = s.tabs := rfl
@[simp] theorem State.qps_turnPanels (s : State) (slot : Nat) (m : Nat) (layer : Nat) : (s.turnPanels slot m layer).qps = s.qps := rfl
@[simp] theorem State.rings_turnPanels (s : State) (slot : Nat) (m : Nat) (layer : Nat) : (s.turnPanels slot m layer).rings = s.rings := rfl
@[simp] theorem State.cals_turnPanels (s : State) (slot : Nat) (m : Nat) (layer : Nat) : (s.turnPanels slot m layer).cals = s.cals := rfl
@[simp] theorem State.plays_turnPanels (s : State) (slot : Nat) (m : Nat) (layer : Nat) : (s.turnPanels slot m layer).plays = s.plays := rfl
@[simp] theorem State.tlms_turnPanels (s : State) (slot : Nat) (m : Nat) (layer : Nat) : (s.turnPanels slot m layer).tlms = s.tlms := rfl
@[simp] theorem State.rd_turnPanels (s : State) (slot : Nat) (m : Nat) (layer : Nat) (x : Field) (d' i' j' : Nat) : (s.turnPanels slot m layer).rd x d' i' j' = s.rd x d' i' j' := rfl
@[simp] theorem State.rdb_turnPanels (s : State) (slot : Nat) (m : Nat) (layer : Nat) (x : Field) (d' i' j' : Nat) : (s.turnPanels slot m layer).rdb x d' i' j' = s.rdb x d' i' j' := rfl
@[simp] theorem State.ax_turnPanels (s : State) (slot : Nat) (m : Nat) (layer : Nat) (x : Aux) (d' i' j' : Nat) : (s.turnPanels slot m layer).ax x d' i' j' = s.ax x d' i' j' := rfl
@[simp] theorem State.byte_turnPanels (s : State) (slot : Nat) (m : Nat) (layer : Nat) (k' : Nat) : (s.turnPanels slot m layer).byte k' = s.byte k' := rfl

/-! After `startCal` -/

@[simp] theorem State.part_startCal (s : State) (d : Nat) (t : Nat) (full : Bool) (stitches : Nat) (op : Option Nat) : (s.startCal d t full stitches op).part = s.part := rfl
@[simp] theorem State.pending_startCal (s : State) (d : Nat) (t : Nat) (full : Bool) (stitches : Nat) (op : Option Nat) : (s.startCal d t full stitches op).pending = s.pending := rfl
@[simp] theorem State.fld_startCal (s : State) (d : Nat) (t : Nat) (full : Bool) (stitches : Nat) (op : Option Nat) : (s.startCal d t full stitches op).fld = s.fld := rfl
@[simp] theorem State.aux_startCal (s : State) (d : Nat) (t : Nat) (full : Bool) (stitches : Nat) (op : Option Nat) : (s.startCal d t full stitches op).aux = s.aux := rfl
@[simp] theorem State.mem_startCal (s : State) (d : Nat) (t : Nat) (full : Bool) (stitches : Nat) (op : Option Nat) : (s.startCal d t full stitches op).mem = s.mem := rfl
@[simp] theorem State.dt_startCal (s : State) (d : Nat) (t : Nat) (full : Bool) (stitches : Nat) (op : Option Nat) : (s.startCal d t full stitches op).dt = s.dt := rfl
@[simp] theorem State.outbox_startCal (s : State) (d : Nat) (t : Nat) (full : Bool) (stitches : Nat) (op : Option Nat) : (s.startCal d t full stitches op).outbox = s.outbox := rfl
@[simp] theorem State.jobs_startCal (s : State) (d : Nat) (t : Nat) (full : Bool) (stitches : Nat) (op : Option Nat) : (s.startCal d t full stitches op).jobs = s.jobs := rfl
@[simp] theorem State.cmds_startCal (s : State) (d : Nat) (t : Nat) (full : Bool) (stitches : Nat) (op : Option Nat) : (s.startCal d t full stitches op).cmds = s.cmds := rfl
@[simp] theorem State.placed_startCal (s : State) (d : Nat) (t : Nat) (full : Bool) (stitches : Nat) (op : Option Nat) : (s.startCal d t full stitches op).placed = s.placed := rfl
@[simp] theorem State.reqs_startCal (s : State) (d : Nat) (t : Nat) (full : Bool) (stitches : Nat) (op : Option Nat) : (s.startCal d t full stitches op).reqs = s.reqs := rfl
@[simp] theorem State.ops_startCal (s : State) (d : Nat) (t : Nat) (full : Bool) (stitches : Nat) (op : Option Nat) : (s.startCal d t full stitches op).ops = s.ops := rfl
@[simp] theorem State.progq_startCal (s : State) (d : Nat) (t : Nat) (full : Bool) (stitches : Nat) (op : Option Nat) : (s.startCal d t full stitches op).progq = s.progq := rfl
@[simp] theorem State.maps_startCal (s : State) (d : Nat) (t : Nat) (full : Bool) (stitches : Nat) (op : Option Nat) : (s.startCal d t full stitches op).maps = s.maps := rfl
@[simp] theorem State.tiles_startCal (s : State) (d : Nat) (t : Nat) (full : Bool) (stitches : Nat) (op : Option Nat) : (s.startCal d t full stitches op).tiles = s.tiles := rfl
@[simp] theorem State.tabs_startCal (s : State) (d : Nat) (t : Nat) (full : Bool) (stitches : Nat) (op : Option Nat) : (s.startCal d t full stitches op).tabs = s.tabs := rfl
@[simp] theorem State.qps_startCal (s : State) (d : Nat) (t : Nat) (full : Bool) (stitches : Nat) (op : Option Nat) : (s.startCal d t full stitches op).qps = s.qps := rfl
@[simp] theorem State.rings_startCal (s : State) (d : Nat) (t : Nat) (full : Bool) (stitches : Nat) (op : Option Nat) : (s.startCal d t full stitches op).rings = s.rings := rfl
@[simp] theorem State.plays_startCal (s : State) (d : Nat) (t : Nat) (full : Bool) (stitches : Nat) (op : Option Nat) : (s.startCal d t full stitches op).plays = s.plays := rfl
@[simp] theorem State.tlms_startCal (s : State) (d : Nat) (t : Nat) (full : Bool) (stitches : Nat) (op : Option Nat) : (s.startCal d t full stitches op).tlms = s.tlms := rfl
@[simp] theorem State.rd_startCal (s : State) (d : Nat) (t : Nat) (full : Bool) (stitches : Nat) (op : Option Nat) (x : Field) (d' i' j' : Nat) : (s.startCal d t full stitches op).rd x d' i' j' = s.rd x d' i' j' := rfl
@[simp] theorem State.rdb_startCal (s : State) (d : Nat) (t : Nat) (full : Bool) (stitches : Nat) (op : Option Nat) (x : Field) (d' i' j' : Nat) : (s.startCal d t full stitches op).rdb x d' i' j' = s.rdb x d' i' j' := rfl
@[simp] theorem State.ax_startCal (s : State) (d : Nat) (t : Nat) (full : Bool) (stitches : Nat) (op : Option Nat) (x : Aux) (d' i' j' : Nat) : (s.startCal d t full stitches op).ax x d' i' j' = s.ax x d' i' j' := rfl
@[simp] theorem State.byte_startCal (s : State) (d : Nat) (t : Nat) (full : Bool) (stitches : Nat) (op : Option Nat) (k' : Nat) : (s.startCal d t full stitches op).byte k' = s.byte k' := rfl

/-! After `updMon` -/

@[simp] theorem State.part_updMon (s : State) (d : Nat) (f : Mon → Mon) : (s.updMon d f).part = s.part := rfl
@[simp] theorem State.pending_updMon (s : State) (d : Nat) (f : Mon → Mon) : (s.updMon d f).pending = s.pending := rfl
@[simp] theorem State.fld_updMon (s : State) (d : Nat) (f : Mon → Mon) : (s.updMon d f).fld = s.fld := rfl
@[simp] theorem State.aux_updMon (s : State) (d : Nat) (f : Mon → Mon) : (s.updMon d f).aux = s.aux := rfl
@[simp] theorem State.mem_updMon (s : State) (d : Nat) (f : Mon → Mon) : (s.updMon d f).mem = s.mem := rfl
@[simp] theorem State.dt_updMon (s : State) (d : Nat) (f : Mon → Mon) : (s.updMon d f).dt = s.dt := rfl
@[simp] theorem State.outbox_updMon (s : State) (d : Nat) (f : Mon → Mon) : (s.updMon d f).outbox = s.outbox := rfl
@[simp] theorem State.jobs_updMon (s : State) (d : Nat) (f : Mon → Mon) : (s.updMon d f).jobs = s.jobs := rfl
@[simp] theorem State.cmds_updMon (s : State) (d : Nat) (f : Mon → Mon) : (s.updMon d f).cmds = s.cmds := rfl
@[simp] theorem State.placed_updMon (s : State) (d : Nat) (f : Mon → Mon) : (s.updMon d f).placed = s.placed := rfl
@[simp] theorem State.reqs_updMon (s : State) (d : Nat) (f : Mon → Mon) : (s.updMon d f).reqs = s.reqs := rfl
@[simp] theorem State.ops_updMon (s : State) (d : Nat) (f : Mon → Mon) : (s.updMon d f).ops = s.ops := rfl
@[simp] theorem State.progq_updMon (s : State) (d : Nat) (f : Mon → Mon) : (s.updMon d f).progq = s.progq := rfl
@[simp] theorem State.maps_updMon (s : State) (d : Nat) (f : Mon → Mon) : (s.updMon d f).maps = s.maps := rfl
@[simp] theorem State.tiles_updMon (s : State) (d : Nat) (f : Mon → Mon) : (s.updMon d f).tiles = s.tiles := rfl
@[simp] theorem State.tabs_updMon (s : State) (d : Nat) (f : Mon → Mon) : (s.updMon d f).tabs = s.tabs := rfl
@[simp] theorem State.qps_updMon (s : State) (d : Nat) (f : Mon → Mon) : (s.updMon d f).qps = s.qps := rfl
@[simp] theorem State.rings_updMon (s : State) (d : Nat) (f : Mon → Mon) : (s.updMon d f).rings = s.rings := rfl
@[simp] theorem State.cals_updMon (s : State) (d : Nat) (f : Mon → Mon) : (s.updMon d f).cals = s.cals := rfl
@[simp] theorem State.plays_updMon (s : State) (d : Nat) (f : Mon → Mon) : (s.updMon d f).plays = s.plays := rfl
@[simp] theorem State.tlms_updMon (s : State) (d : Nat) (f : Mon → Mon) : (s.updMon d f).tlms = s.tlms := rfl
@[simp] theorem State.rd_updMon (s : State) (d : Nat) (f : Mon → Mon) (x : Field) (d' i' j' : Nat) : (s.updMon d f).rd x d' i' j' = s.rd x d' i' j' := rfl
@[simp] theorem State.rdb_updMon (s : State) (d : Nat) (f : Mon → Mon) (x : Field) (d' i' j' : Nat) : (s.updMon d f).rdb x d' i' j' = s.rdb x d' i' j' := rfl
@[simp] theorem State.ax_updMon (s : State) (d : Nat) (f : Mon → Mon) (x : Aux) (d' i' j' : Nat) : (s.updMon d f).ax x d' i' j' = s.ax x d' i' j' := rfl
@[simp] theorem State.byte_updMon (s : State) (d : Nat) (f : Mon → Mon) (k' : Nat) : (s.updMon d f).byte k' = s.byte k' := rfl

/-! After `updTlm` -/

@[simp] theorem State.part_updTlm (s : State) (n : Nat) (f : Tlm → Tlm) : (s.updTlm n f).part = s.part := rfl
@[simp] theorem State.pending_updTlm (s : State) (n : Nat) (f : Tlm → Tlm) : (s.updTlm n f).pending = s.pending := rfl
@[simp] theorem State.fld_updTlm (s : State) (n : Nat) (f : Tlm → Tlm) : (s.updTlm n f).fld = s.fld := rfl
@[simp] theorem State.aux_updTlm (s : State) (n : Nat) (f : Tlm → Tlm) : (s.updTlm n f).aux = s.aux := rfl
@[simp] theorem State.mem_updTlm (s : State) (n : Nat) (f : Tlm → Tlm) : (s.updTlm n f).mem = s.mem := rfl
@[simp] theorem State.dt_updTlm (s : State) (n : Nat) (f : Tlm → Tlm) : (s.updTlm n f).dt = s.dt := rfl
@[simp] theorem State.outbox_updTlm (s : State) (n : Nat) (f : Tlm → Tlm) : (s.updTlm n f).outbox = s.outbox := rfl
@[simp] theorem State.jobs_updTlm (s : State) (n : Nat) (f : Tlm → Tlm) : (s.updTlm n f).jobs = s.jobs := rfl
@[simp] theorem State.cmds_updTlm (s : State) (n : Nat) (f : Tlm → Tlm) : (s.updTlm n f).cmds = s.cmds := rfl
@[simp] theorem State.placed_updTlm (s : State) (n : Nat) (f : Tlm → Tlm) : (s.updTlm n f).placed = s.placed := rfl
@[simp] theorem State.reqs_updTlm (s : State) (n : Nat) (f : Tlm → Tlm) : (s.updTlm n f).reqs = s.reqs := rfl
@[simp] theorem State.ops_updTlm (s : State) (n : Nat) (f : Tlm → Tlm) : (s.updTlm n f).ops = s.ops := rfl
@[simp] theorem State.progq_updTlm (s : State) (n : Nat) (f : Tlm → Tlm) : (s.updTlm n f).progq = s.progq := rfl
@[simp] theorem State.maps_updTlm (s : State) (n : Nat) (f : Tlm → Tlm) : (s.updTlm n f).maps = s.maps := rfl
@[simp] theorem State.tiles_updTlm (s : State) (n : Nat) (f : Tlm → Tlm) : (s.updTlm n f).tiles = s.tiles := rfl
@[simp] theorem State.tabs_updTlm (s : State) (n : Nat) (f : Tlm → Tlm) : (s.updTlm n f).tabs = s.tabs := rfl
@[simp] theorem State.qps_updTlm (s : State) (n : Nat) (f : Tlm → Tlm) : (s.updTlm n f).qps = s.qps := rfl
@[simp] theorem State.rings_updTlm (s : State) (n : Nat) (f : Tlm → Tlm) : (s.updTlm n f).rings = s.rings := rfl
@[simp] theorem State.cals_updTlm (s : State) (n : Nat) (f : Tlm → Tlm) : (s.updTlm n f).cals = s.cals := rfl
@[simp] theorem State.plays_updTlm (s : State) (n : Nat) (f : Tlm → Tlm) : (s.updTlm n f).plays = s.plays := rfl
@[simp] theorem State.rd_updTlm (s : State) (n : Nat) (f : Tlm → Tlm) (x : Field) (d' i' j' : Nat) : (s.updTlm n f).rd x d' i' j' = s.rd x d' i' j' := rfl
@[simp] theorem State.rdb_updTlm (s : State) (n : Nat) (f : Tlm → Tlm) (x : Field) (d' i' j' : Nat) : (s.updTlm n f).rdb x d' i' j' = s.rdb x d' i' j' := rfl
@[simp] theorem State.ax_updTlm (s : State) (n : Nat) (f : Tlm → Tlm) (x : Aux) (d' i' j' : Nat) : (s.updTlm n f).ax x d' i' j' = s.ax x d' i' j' := rfl
@[simp] theorem State.byte_updTlm (s : State) (n : Nat) (f : Tlm → Tlm) (k' : Nat) : (s.updTlm n f).byte k' = s.byte k' := rfl

/-! After `updPlay` -/

@[simp] theorem State.part_updPlay (s : State) (d : Nat) (n : Nat) (f : Play → Play) : (s.updPlay d n f).part = s.part := rfl
@[simp] theorem State.pending_updPlay (s : State) (d : Nat) (n : Nat) (f : Play → Play) : (s.updPlay d n f).pending = s.pending := rfl
@[simp] theorem State.fld_updPlay (s : State) (d : Nat) (n : Nat) (f : Play → Play) : (s.updPlay d n f).fld = s.fld := rfl
@[simp] theorem State.aux_updPlay (s : State) (d : Nat) (n : Nat) (f : Play → Play) : (s.updPlay d n f).aux = s.aux := rfl
@[simp] theorem State.mem_updPlay (s : State) (d : Nat) (n : Nat) (f : Play → Play) : (s.updPlay d n f).mem = s.mem := rfl
@[simp] theorem State.dt_updPlay (s : State) (d : Nat) (n : Nat) (f : Play → Play) : (s.updPlay d n f).dt = s.dt := rfl
@[simp] theorem State.outbox_updPlay (s : State) (d : Nat) (n : Nat) (f : Play → Play) : (s.updPlay d n f).outbox = s.outbox := rfl
@[simp] theorem State.jobs_updPlay (s : State) (d : Nat) (n : Nat) (f : Play → Play) : (s.updPlay d n f).jobs = s.jobs := rfl
@[simp] theorem State.cmds_updPlay (s : State) (d : Nat) (n : Nat) (f : Play → Play) : (s.updPlay d n f).cmds = s.cmds := rfl
@[simp] theorem State.placed_updPlay (s : State) (d : Nat) (n : Nat) (f : Play → Play) : (s.updPlay d n f).placed = s.placed := rfl
@[simp] theorem State.reqs_updPlay (s : State) (d : Nat) (n : Nat) (f : Play → Play) : (s.updPlay d n f).reqs = s.reqs := rfl
@[simp] theorem State.ops_updPlay (s : State) (d : Nat) (n : Nat) (f : Play → Play) : (s.updPlay d n f).ops = s.ops := rfl
@[simp] theorem State.progq_updPlay (s : State) (d : Nat) (n : Nat) (f : Play → Play) : (s.updPlay d n f).progq = s.progq := rfl
@[simp] theorem State.maps_updPlay (s : State) (d : Nat) (n : Nat) (f : Play → Play) : (s.updPlay d n f).maps = s.maps := rfl
@[simp] theorem State.tiles_updPlay (s : State) (d : Nat) (n : Nat) (f : Play → Play) : (s.updPlay d n f).tiles = s.tiles := rfl
@[simp] theorem State.tabs_updPlay (s : State) (d : Nat) (n : Nat) (f : Play → Play) : (s.updPlay d n f).tabs = s.tabs := rfl
@[simp] theorem State.qps_updPlay (s : State) (d : Nat) (n : Nat) (f : Play → Play) : (s.updPlay d n f).qps = s.qps := rfl
@[simp] theorem State.rings_updPlay (s : State) (d : Nat) (n : Nat) (f : Play → Play) : (s.updPlay d n f).rings = s.rings := rfl
@[simp] theorem State.cals_updPlay (s : State) (d : Nat) (n : Nat) (f : Play → Play) : (s.updPlay d n f).cals = s.cals := rfl
@[simp] theorem State.tlms_updPlay (s : State) (d : Nat) (n : Nat) (f : Play → Play) : (s.updPlay d n f).tlms = s.tlms := rfl
@[simp] theorem State.rd_updPlay (s : State) (d : Nat) (n : Nat) (f : Play → Play) (x : Field) (d' i' j' : Nat) : (s.updPlay d n f).rd x d' i' j' = s.rd x d' i' j' := rfl
@[simp] theorem State.rdb_updPlay (s : State) (d : Nat) (n : Nat) (f : Play → Play) (x : Field) (d' i' j' : Nat) : (s.updPlay d n f).rdb x d' i' j' = s.rdb x d' i' j' := rfl
@[simp] theorem State.ax_updPlay (s : State) (d : Nat) (n : Nat) (f : Play → Play) (x : Aux) (d' i' j' : Nat) : (s.updPlay d n f).ax x d' i' j' = s.ax x d' i' j' := rfl
@[simp] theorem State.byte_updPlay (s : State) (d : Nat) (n : Nat) (f : Play → Play) (k' : Nat) : (s.updPlay d n f).byte k' = s.byte k' := rfl

/-! After `dmaRelease` -/

@[simp] theorem State.part_dmaRelease (s : State) (d : Nat) (e : Nat) : (s.dmaRelease d e).part = s.part := rfl
@[simp] theorem State.pending_dmaRelease (s : State) (d : Nat) (e : Nat) : (s.dmaRelease d e).pending = s.pending := rfl
@[simp] theorem State.fld_dmaRelease (s : State) (d : Nat) (e : Nat) : (s.dmaRelease d e).fld = s.fld := rfl
@[simp] theorem State.aux_dmaRelease (s : State) (d : Nat) (e : Nat) : (s.dmaRelease d e).aux = s.aux := rfl
@[simp] theorem State.mem_dmaRelease (s : State) (d : Nat) (e : Nat) : (s.dmaRelease d e).mem = s.mem := rfl
@[simp] theorem State.dt_dmaRelease (s : State) (d : Nat) (e : Nat) : (s.dmaRelease d e).dt = s.dt := rfl
@[simp] theorem State.outbox_dmaRelease (s : State) (d : Nat) (e : Nat) : (s.dmaRelease d e).outbox = s.outbox := rfl
@[simp] theorem State.jobs_dmaRelease (s : State) (d : Nat) (e : Nat) : (s.dmaRelease d e).jobs = s.jobs := rfl
@[simp] theorem State.cmds_dmaRelease (s : State) (d : Nat) (e : Nat) : (s.dmaRelease d e).cmds = s.cmds := rfl
@[simp] theorem State.placed_dmaRelease (s : State) (d : Nat) (e : Nat) : (s.dmaRelease d e).placed = s.placed := rfl
@[simp] theorem State.reqs_dmaRelease (s : State) (d : Nat) (e : Nat) : (s.dmaRelease d e).reqs = s.reqs := rfl
@[simp] theorem State.ops_dmaRelease (s : State) (d : Nat) (e : Nat) : (s.dmaRelease d e).ops = s.ops := rfl
@[simp] theorem State.progq_dmaRelease (s : State) (d : Nat) (e : Nat) : (s.dmaRelease d e).progq = s.progq := rfl
@[simp] theorem State.maps_dmaRelease (s : State) (d : Nat) (e : Nat) : (s.dmaRelease d e).maps = s.maps := rfl
@[simp] theorem State.tiles_dmaRelease (s : State) (d : Nat) (e : Nat) : (s.dmaRelease d e).tiles = s.tiles := rfl
@[simp] theorem State.tabs_dmaRelease (s : State) (d : Nat) (e : Nat) : (s.dmaRelease d e).tabs = s.tabs := rfl
@[simp] theorem State.qps_dmaRelease (s : State) (d : Nat) (e : Nat) : (s.dmaRelease d e).qps = s.qps := rfl
@[simp] theorem State.rings_dmaRelease (s : State) (d : Nat) (e : Nat) : (s.dmaRelease d e).rings = s.rings := rfl
@[simp] theorem State.cals_dmaRelease (s : State) (d : Nat) (e : Nat) : (s.dmaRelease d e).cals = s.cals := rfl
@[simp] theorem State.plays_dmaRelease (s : State) (d : Nat) (e : Nat) : (s.dmaRelease d e).plays = s.plays := rfl
@[simp] theorem State.tlms_dmaRelease (s : State) (d : Nat) (e : Nat) : (s.dmaRelease d e).tlms = s.tlms := rfl
@[simp] theorem State.rd_dmaRelease (s : State) (d : Nat) (e : Nat) (x : Field) (d' i' j' : Nat) : (s.dmaRelease d e).rd x d' i' j' = s.rd x d' i' j' := rfl
@[simp] theorem State.rdb_dmaRelease (s : State) (d : Nat) (e : Nat) (x : Field) (d' i' j' : Nat) : (s.dmaRelease d e).rdb x d' i' j' = s.rdb x d' i' j' := rfl
@[simp] theorem State.ax_dmaRelease (s : State) (d : Nat) (e : Nat) (x : Aux) (d' i' j' : Nat) : (s.dmaRelease d e).ax x d' i' j' = s.ax x d' i' j' := rfl
@[simp] theorem State.byte_dmaRelease (s : State) (d : Nat) (e : Nat) (k' : Nat) : (s.dmaRelease d e).byte k' = s.byte k' := rfl

/-! After `setRecord` -/

@[simp] theorem State.part_setRecord (s : State) (d : Nat) (t : Nat) (r : TileRec) : (s.setRecord d t r).part = s.part := rfl
@[simp] theorem State.pending_setRecord (s : State) (d : Nat) (t : Nat) (r : TileRec) : (s.setRecord d t r).pending = s.pending := rfl
@[simp] theorem State.fld_setRecord (s : State) (d : Nat) (t : Nat) (r : TileRec) : (s.setRecord d t r).fld = s.fld := rfl
@[simp] theorem State.aux_setRecord (s : State) (d : Nat) (t : Nat) (r : TileRec) : (s.setRecord d t r).aux = s.aux := rfl
@[simp] theorem State.mem_setRecord (s : State) (d : Nat) (t : Nat) (r : TileRec) : (s.setRecord d t r).mem = s.mem := rfl
@[simp] theorem State.dt_setRecord (s : State) (d : Nat) (t : Nat) (r : TileRec) : (s.setRecord d t r).dt = s.dt := rfl
@[simp] theorem State.outbox_setRecord (s : State) (d : Nat) (t : Nat) (r : TileRec) : (s.setRecord d t r).outbox = s.outbox := rfl
@[simp] theorem State.jobs_setRecord (s : State) (d : Nat) (t : Nat) (r : TileRec) : (s.setRecord d t r).jobs = s.jobs := rfl
@[simp] theorem State.cmds_setRecord (s : State) (d : Nat) (t : Nat) (r : TileRec) : (s.setRecord d t r).cmds = s.cmds := rfl
@[simp] theorem State.placed_setRecord (s : State) (d : Nat) (t : Nat) (r : TileRec) : (s.setRecord d t r).placed = s.placed := rfl
@[simp] theorem State.reqs_setRecord (s : State) (d : Nat) (t : Nat) (r : TileRec) : (s.setRecord d t r).reqs = s.reqs := rfl
@[simp] theorem State.ops_setRecord (s : State) (d : Nat) (t : Nat) (r : TileRec) : (s.setRecord d t r).ops = s.ops := rfl
@[simp] theorem State.progq_setRecord (s : State) (d : Nat) (t : Nat) (r : TileRec) : (s.setRecord d t r).progq = s.progq := rfl
@[simp] theorem State.maps_setRecord (s : State) (d : Nat) (t : Nat) (r : TileRec) : (s.setRecord d t r).maps = s.maps := rfl
@[simp] theorem State.tiles_setRecord (s : State) (d : Nat) (t : Nat) (r : TileRec) : (s.setRecord d t r).tiles = s.tiles := rfl
@[simp] theorem State.tabs_setRecord (s : State) (d : Nat) (t : Nat) (r : TileRec) : (s.setRecord d t r).tabs = s.tabs := rfl
@[simp] theorem State.qps_setRecord (s : State) (d : Nat) (t : Nat) (r : TileRec) : (s.setRecord d t r).qps = s.qps := rfl
@[simp] theorem State.rings_setRecord (s : State) (d : Nat) (t : Nat) (r : TileRec) : (s.setRecord d t r).rings = s.rings := rfl
@[simp] theorem State.cals_setRecord (s : State) (d : Nat) (t : Nat) (r : TileRec) : (s.setRecord d t r).cals = s.cals := rfl
@[simp] theorem State.plays_setRecord (s : State) (d : Nat) (t : Nat) (r : TileRec) : (s.setRecord d t r).plays = s.plays := rfl
@[simp] theorem State.tlms_setRecord (s : State) (d : Nat) (t : Nat) (r : TileRec) : (s.setRecord d t r).tlms = s.tlms := rfl
@[simp] theorem State.rd_setRecord (s : State) (d : Nat) (t : Nat) (r : TileRec) (x : Field) (d' i' j' : Nat) : (s.setRecord d t r).rd x d' i' j' = s.rd x d' i' j' := rfl
@[simp] theorem State.rdb_setRecord (s : State) (d : Nat) (t : Nat) (r : TileRec) (x : Field) (d' i' j' : Nat) : (s.setRecord d t r).rdb x d' i' j' = s.rdb x d' i' j' := rfl
@[simp] theorem State.ax_setRecord (s : State) (d : Nat) (t : Nat) (r : TileRec) (x : Aux) (d' i' j' : Nat) : (s.setRecord d t r).ax x d' i' j' = s.ax x d' i' j' := rfl
@[simp] theorem State.byte_setRecord (s : State) (d : Nat) (t : Nat) (r : TileRec) (k' : Nat) : (s.setRecord d t r).byte k' = s.byte k' := rfl

/-! After `refreshCalibrated` -/

@[simp] theorem State.part_refreshCalibrated (s : State) (d : Nat) (t : Nat) : (s.refreshCalibrated d t).part = s.part := rfl
@[simp] theorem State.pending_refreshCalibrated (s : State) (d : Nat) (t : Nat) : (s.refreshCalibrated d t).pending = s.pending := rfl
@[simp] theorem State.fld_refreshCalibrated (s : State) (d : Nat) (t : Nat) : (s.refreshCalibrated d t).fld = s.fld := rfl
@[simp] theorem State.aux_refreshCalibrated (s : State) (d : Nat) (t : Nat) : (s.refreshCalibrated d t).aux = s.aux := rfl
@[simp] theorem State.mem_refreshCalibrated (s : State) (d : Nat) (t : Nat) : (s.refreshCalibrated d t).mem = s.mem := rfl
@[simp] theorem State.dt_refreshCalibrated (s : State) (d : Nat) (t : Nat) : (s.refreshCalibrated d t).dt = s.dt := rfl
@[simp] theorem State.outbox_refreshCalibrated (s : State) (d : Nat) (t : Nat) : (s.refreshCalibrated d t).outbox = s.outbox := rfl
@[simp] theorem State.jobs_refreshCalibrated (s : State) (d : Nat) (t : Nat) : (s.refreshCalibrated d t).jobs = s.jobs := rfl
@[simp] theorem State.cmds_refreshCalibrated (s : State) (d : Nat) (t : Nat) : (s.refreshCalibrated d t).cmds = s.cmds := rfl
@[simp] theorem State.placed_refreshCalibrated (s : State) (d : Nat) (t : Nat) : (s.refreshCalibrated d t).placed = s.placed := rfl
@[simp] theorem State.reqs_refreshCalibrated (s : State) (d : Nat) (t : Nat) : (s.refreshCalibrated d t).reqs = s.reqs := rfl
@[simp] theorem State.ops_refreshCalibrated (s : State) (d : Nat) (t : Nat) : (s.refreshCalibrated d t).ops = s.ops := rfl
@[simp] theorem State.progq_refreshCalibrated (s : State) (d : Nat) (t : Nat) : (s.refreshCalibrated d t).progq = s.progq := rfl
@[simp] theorem State.maps_refreshCalibrated (s : State) (d : Nat) (t : Nat) : (s.refreshCalibrated d t).maps = s.maps := rfl
@[simp] theorem State.tiles_refreshCalibrated (s : State) (d : Nat) (t : Nat) : (s.refreshCalibrated d t).tiles = s.tiles := rfl
@[simp] theorem State.tabs_refreshCalibrated (s : State) (d : Nat) (t : Nat) : (s.refreshCalibrated d t).tabs = s.tabs := rfl
@[simp] theorem State.qps_refreshCalibrated (s : State) (d : Nat) (t : Nat) : (s.refreshCalibrated d t).qps = s.qps := rfl
@[simp] theorem State.rings_refreshCalibrated (s : State) (d : Nat) (t : Nat) : (s.refreshCalibrated d t).rings = s.rings := rfl
@[simp] theorem State.cals_refreshCalibrated (s : State) (d : Nat) (t : Nat) : (s.refreshCalibrated d t).cals = s.cals := rfl
@[simp] theorem State.plays_refreshCalibrated (s : State) (d : Nat) (t : Nat) : (s.refreshCalibrated d t).plays = s.plays := rfl
@[simp] theorem State.tlms_refreshCalibrated (s : State) (d : Nat) (t : Nat) : (s.refreshCalibrated d t).tlms = s.tlms := rfl
@[simp] theorem State.rd_refreshCalibrated (s : State) (d : Nat) (t : Nat) (x : Field) (d' i' j' : Nat) : (s.refreshCalibrated d t).rd x d' i' j' = s.rd x d' i' j' := rfl
@[simp] theorem State.rdb_refreshCalibrated (s : State) (d : Nat) (t : Nat) (x : Field) (d' i' j' : Nat) : (s.refreshCalibrated d t).rdb x d' i' j' = s.rdb x d' i' j' := rfl
@[simp] theorem State.ax_refreshCalibrated (s : State) (d : Nat) (t : Nat) (x : Aux) (d' i' j' : Nat) : (s.refreshCalibrated d t).ax x d' i' j' = s.ax x d' i' j' := rfl
@[simp] theorem State.byte_refreshCalibrated (s : State) (d : Nat) (t : Nat) (k' : Nat) : (s.refreshCalibrated d t).byte k' = s.byte k' := rfl

/-! After `setLatch` -/

@[simp] theorem State.part_setLatch (s : State) (m : Master) (addr : Nat) (v : Nat) : (s.setLatch m addr v).part = s.part := rfl
@[simp] theorem State.pending_setLatch (s : State) (m : Master) (addr : Nat) (v : Nat) : (s.setLatch m addr v).pending = s.pending := rfl
@[simp] theorem State.fld_setLatch (s : State) (m : Master) (addr : Nat) (v : Nat) : (s.setLatch m addr v).fld = s.fld := rfl
@[simp] theorem State.aux_setLatch (s : State) (m : Master) (addr : Nat) (v : Nat) : (s.setLatch m addr v).aux = s.aux := rfl
@[simp] theorem State.mem_setLatch (s : State) (m : Master) (addr : Nat) (v : Nat) : (s.setLatch m addr v).mem = s.mem := rfl
@[simp] theorem State.dt_setLatch (s : State) (m : Master) (addr : Nat) (v : Nat) : (s.setLatch m addr v).dt = s.dt := rfl
@[simp] theorem State.outbox_setLatch (s : State) (m : Master) (addr : Nat) (v : Nat) : (s.setLatch m addr v).outbox = s.outbox := rfl
@[simp] theorem State.jobs_setLatch (s : State) (m : Master) (addr : Nat) (v : Nat) : (s.setLatch m addr v).jobs = s.jobs := rfl
@[simp] theorem State.cmds_setLatch (s : State) (m : Master) (addr : Nat) (v : Nat) : (s.setLatch m addr v).cmds = s.cmds := rfl
@[simp] theorem State.placed_setLatch (s : State) (m : Master) (addr : Nat) (v : Nat) : (s.setLatch m addr v).placed = s.placed := rfl
@[simp] theorem State.reqs_setLatch (s : State) (m : Master) (addr : Nat) (v : Nat) : (s.setLatch m addr v).reqs = s.reqs := rfl
@[simp] theorem State.ops_setLatch (s : State) (m : Master) (addr : Nat) (v : Nat) : (s.setLatch m addr v).ops = s.ops := rfl
@[simp] theorem State.progq_setLatch (s : State) (m : Master) (addr : Nat) (v : Nat) : (s.setLatch m addr v).progq = s.progq := rfl
@[simp] theorem State.maps_setLatch (s : State) (m : Master) (addr : Nat) (v : Nat) : (s.setLatch m addr v).maps = s.maps := rfl
@[simp] theorem State.tiles_setLatch (s : State) (m : Master) (addr : Nat) (v : Nat) : (s.setLatch m addr v).tiles = s.tiles := rfl
@[simp] theorem State.tabs_setLatch (s : State) (m : Master) (addr : Nat) (v : Nat) : (s.setLatch m addr v).tabs = s.tabs := rfl
@[simp] theorem State.qps_setLatch (s : State) (m : Master) (addr : Nat) (v : Nat) : (s.setLatch m addr v).qps = s.qps := rfl
@[simp] theorem State.rings_setLatch (s : State) (m : Master) (addr : Nat) (v : Nat) : (s.setLatch m addr v).rings = s.rings := rfl
@[simp] theorem State.cals_setLatch (s : State) (m : Master) (addr : Nat) (v : Nat) : (s.setLatch m addr v).cals = s.cals := rfl
@[simp] theorem State.plays_setLatch (s : State) (m : Master) (addr : Nat) (v : Nat) : (s.setLatch m addr v).plays = s.plays := rfl
@[simp] theorem State.tlms_setLatch (s : State) (m : Master) (addr : Nat) (v : Nat) : (s.setLatch m addr v).tlms = s.tlms := rfl
@[simp] theorem State.rd_setLatch (s : State) (m : Master) (addr : Nat) (v : Nat) (x : Field) (d' i' j' : Nat) : (s.setLatch m addr v).rd x d' i' j' = s.rd x d' i' j' := rfl
@[simp] theorem State.rdb_setLatch (s : State) (m : Master) (addr : Nat) (v : Nat) (x : Field) (d' i' j' : Nat) : (s.setLatch m addr v).rdb x d' i' j' = s.rdb x d' i' j' := rfl
@[simp] theorem State.ax_setLatch (s : State) (m : Master) (addr : Nat) (v : Nat) (x : Aux) (d' i' j' : Nat) : (s.setLatch m addr v).ax x d' i' j' = s.ax x d' i' j' := rfl
@[simp] theorem State.byte_setLatch (s : State) (m : Master) (addr : Nat) (v : Nat) (k' : Nat) : (s.setLatch m addr v).byte k' = s.byte k' := rfl

/-! After `updStitch` -/

@[simp] theorem State.part_updStitch (s : State) (no : Nat) (f : Req → Req) : (s.updStitch no f).part = s.part := rfl
@[simp] theorem State.pending_updStitch (s : State) (no : Nat) (f : Req → Req) : (s.updStitch no f).pending = s.pending := rfl
@[simp] theorem State.fld_updStitch (s : State) (no : Nat) (f : Req → Req) : (s.updStitch no f).fld = s.fld := rfl
@[simp] theorem State.aux_updStitch (s : State) (no : Nat) (f : Req → Req) : (s.updStitch no f).aux = s.aux := rfl
@[simp] theorem State.mem_updStitch (s : State) (no : Nat) (f : Req → Req) : (s.updStitch no f).mem = s.mem := rfl
@[simp] theorem State.dt_updStitch (s : State) (no : Nat) (f : Req → Req) : (s.updStitch no f).dt = s.dt := rfl
@[simp] theorem State.outbox_updStitch (s : State) (no : Nat) (f : Req → Req) : (s.updStitch no f).outbox = s.outbox := rfl
@[simp] theorem State.jobs_updStitch (s : State) (no : Nat) (f : Req → Req) : (s.updStitch no f).jobs = s.jobs := rfl
@[simp] theorem State.cmds_updStitch (s : State) (no : Nat) (f : Req → Req) : (s.updStitch no f).cmds = s.cmds := rfl
@[simp] theorem State.placed_updStitch (s : State) (no : Nat) (f : Req → Req) : (s.updStitch no f).placed = s.placed := rfl
@[simp] theorem State.ops_updStitch (s : State) (no : Nat) (f : Req → Req) : (s.updStitch no f).ops = s.ops := rfl
@[simp] theorem State.progq_updStitch (s : State) (no : Nat) (f : Req → Req) : (s.updStitch no f).progq = s.progq := rfl
@[simp] theorem State.maps_updStitch (s : State) (no : Nat) (f : Req → Req) : (s.updStitch no f).maps = s.maps := rfl
@[simp] theorem State.tiles_updStitch (s : State) (no : Nat) (f : Req → Req) : (s.updStitch no f).tiles = s.tiles := rfl
@[simp] theorem State.tabs_updStitch (s : State) (no : Nat) (f : Req → Req) : (s.updStitch no f).tabs = s.tabs := rfl
@[simp] theorem State.qps_updStitch (s : State) (no : Nat) (f : Req → Req) : (s.updStitch no f).qps = s.qps := rfl
@[simp] theorem State.rings_updStitch (s : State) (no : Nat) (f : Req → Req) : (s.updStitch no f).rings = s.rings := rfl
@[simp] theorem State.cals_updStitch (s : State) (no : Nat) (f : Req → Req) : (s.updStitch no f).cals = s.cals := rfl
@[simp] theorem State.plays_updStitch (s : State) (no : Nat) (f : Req → Req) : (s.updStitch no f).plays = s.plays := rfl
@[simp] theorem State.tlms_updStitch (s : State) (no : Nat) (f : Req → Req) : (s.updStitch no f).tlms = s.tlms := rfl
@[simp] theorem State.rd_updStitch (s : State) (no : Nat) (f : Req → Req) (x : Field) (d' i' j' : Nat) : (s.updStitch no f).rd x d' i' j' = s.rd x d' i' j' := rfl
@[simp] theorem State.rdb_updStitch (s : State) (no : Nat) (f : Req → Req) (x : Field) (d' i' j' : Nat) : (s.updStitch no f).rdb x d' i' j' = s.rdb x d' i' j' := rfl
@[simp] theorem State.ax_updStitch (s : State) (no : Nat) (f : Req → Req) (x : Aux) (d' i' j' : Nat) : (s.updStitch no f).ax x d' i' j' = s.ax x d' i' j' := rfl
@[simp] theorem State.byte_updStitch (s : State) (no : Nat) (f : Req → Req) (k' : Nat) : (s.updStitch no f).byte k' = s.byte k' := rfl

/-! After `restOthers` -/

@[simp] theorem State.part_restOthers (s : State) (used : List Nat) : (s.restOthers used).part = s.part := rfl
@[simp] theorem State.pending_restOthers (s : State) (used : List Nat) : (s.restOthers used).pending = s.pending := rfl
@[simp] theorem State.fld_restOthers (s : State) (used : List Nat) : (s.restOthers used).fld = s.fld := rfl
@[simp] theorem State.aux_restOthers (s : State) (used : List Nat) : (s.restOthers used).aux = s.aux := rfl
@[simp] theorem State.mem_restOthers (s : State) (used : List Nat) : (s.restOthers used).mem = s.mem := rfl
@[simp] theorem State.dt_restOthers (s : State) (used : List Nat) : (s.restOthers used).dt = s.dt := rfl
@[simp] theorem State.outbox_restOthers (s : State) (used : List Nat) : (s.restOthers used).outbox = s.outbox := rfl
@[simp] theorem State.jobs_restOthers (s : State) (used : List Nat) : (s.restOthers used).jobs = s.jobs := rfl
@[simp] theorem State.cmds_restOthers (s : State) (used : List Nat) : (s.restOthers used).cmds = s.cmds := rfl
@[simp] theorem State.placed_restOthers (s : State) (used : List Nat) : (s.restOthers used).placed = s.placed := rfl
@[simp] theorem State.reqs_restOthers (s : State) (used : List Nat) : (s.restOthers used).reqs = s.reqs := rfl
@[simp] theorem State.ops_restOthers (s : State) (used : List Nat) : (s.restOthers used).ops = s.ops := rfl
@[simp] theorem State.progq_restOthers (s : State) (used : List Nat) : (s.restOthers used).progq = s.progq := rfl
@[simp] theorem State.maps_restOthers (s : State) (used : List Nat) : (s.restOthers used).maps = s.maps := rfl
@[simp] theorem State.tabs_restOthers (s : State) (used : List Nat) : (s.restOthers used).tabs = s.tabs := rfl
@[simp] theorem State.qps_restOthers (s : State) (used : List Nat) : (s.restOthers used).qps = s.qps := rfl
@[simp] theorem State.rings_restOthers (s : State) (used : List Nat) : (s.restOthers used).rings = s.rings := rfl
@[simp] theorem State.cals_restOthers (s : State) (used : List Nat) : (s.restOthers used).cals = s.cals := rfl
@[simp] theorem State.plays_restOthers (s : State) (used : List Nat) : (s.restOthers used).plays = s.plays := rfl
@[simp] theorem State.tlms_restOthers (s : State) (used : List Nat) : (s.restOthers used).tlms = s.tlms := rfl
@[simp] theorem State.rd_restOthers (s : State) (used : List Nat) (x : Field) (d' i' j' : Nat) : (s.restOthers used).rd x d' i' j' = s.rd x d' i' j' := rfl
@[simp] theorem State.rdb_restOthers (s : State) (used : List Nat) (x : Field) (d' i' j' : Nat) : (s.restOthers used).rdb x d' i' j' = s.rdb x d' i' j' := rfl
@[simp] theorem State.ax_restOthers (s : State) (used : List Nat) (x : Aux) (d' i' j' : Nat) : (s.restOthers used).ax x d' i' j' = s.ax x d' i' j' := rfl
@[simp] theorem State.byte_restOthers (s : State) (used : List Nat) (k' : Nat) : (s.restOthers used).byte k' = s.byte k' := rfl

/-! After `dropStitch` -/

@[simp] theorem State.part_dropStitch (s : State) (no : Nat) : (s.dropStitch no).part = s.part := rfl
@[simp] theorem State.pending_dropStitch (s : State) (no : Nat) : (s.dropStitch no).pending = s.pending := rfl
@[simp] theorem State.fld_dropStitch (s : State) (no : Nat) : (s.dropStitch no).fld = s.fld := rfl
@[simp] theorem State.aux_dropStitch (s : State) (no : Nat) : (s.dropStitch no).aux = s.aux := rfl
@[simp] theorem State.mem_dropStitch (s : State) (no : Nat) : (s.dropStitch no).mem = s.mem := rfl
@[simp] theorem State.dt_dropStitch (s : State) (no : Nat) : (s.dropStitch no).dt = s.dt := rfl
@[simp] theorem State.outbox_dropStitch (s : State) (no : Nat) : (s.dropStitch no).outbox = s.outbox := rfl
@[simp] theorem State.jobs_dropStitch (s : State) (no : Nat) : (s.dropStitch no).jobs = s.jobs := rfl
@[simp] theorem State.cmds_dropStitch (s : State) (no : Nat) : (s.dropStitch no).cmds = s.cmds := rfl
@[simp] theorem State.placed_dropStitch (s : State) (no : Nat) : (s.dropStitch no).placed = s.placed := rfl
@[simp] theorem State.ops_dropStitch (s : State) (no : Nat) : (s.dropStitch no).ops = s.ops := rfl
@[simp] theorem State.progq_dropStitch (s : State) (no : Nat) : (s.dropStitch no).progq = s.progq := rfl
@[simp] theorem State.maps_dropStitch (s : State) (no : Nat) : (s.dropStitch no).maps = s.maps := rfl
@[simp] theorem State.tiles_dropStitch (s : State) (no : Nat) : (s.dropStitch no).tiles = s.tiles := rfl
@[simp] theorem State.tabs_dropStitch (s : State) (no : Nat) : (s.dropStitch no).tabs = s.tabs := rfl
@[simp] theorem State.qps_dropStitch (s : State) (no : Nat) : (s.dropStitch no).qps = s.qps := rfl
@[simp] theorem State.rings_dropStitch (s : State) (no : Nat) : (s.dropStitch no).rings = s.rings := rfl
@[simp] theorem State.cals_dropStitch (s : State) (no : Nat) : (s.dropStitch no).cals = s.cals := rfl
@[simp] theorem State.plays_dropStitch (s : State) (no : Nat) : (s.dropStitch no).plays = s.plays := rfl
@[simp] theorem State.tlms_dropStitch (s : State) (no : Nat) : (s.dropStitch no).tlms = s.tlms := rfl
@[simp] theorem State.rd_dropStitch (s : State) (no : Nat) (x : Field) (d' i' j' : Nat) : (s.dropStitch no).rd x d' i' j' = s.rd x d' i' j' := rfl
@[simp] theorem State.rdb_dropStitch (s : State) (no : Nat) (x : Field) (d' i' j' : Nat) : (s.dropStitch no).rdb x d' i' j' = s.rdb x d' i' j' := rfl
@[simp] theorem State.ax_dropStitch (s : State) (no : Nat) (x : Aux) (d' i' j' : Nat) : (s.dropStitch no).ax x d' i' j' = s.ax x d' i' j' := rfl
@[simp] theorem State.byte_dropStitch (s : State) (no : Nat) (k' : Nat) : (s.dropStitch no).byte k' = s.byte k' := rfl

/-! After `calCodes` -/

@[simp] theorem State.part_calCodes (s : State) (d : Nat) (t : Nat) (f : Flight) (codes : List (Option Nat)) : (s.calCodes d t f codes).part = s.part := rfl
@[simp] theorem State.pending_calCodes (s : State) (d : Nat) (t : Nat) (f : Flight) (codes : List (Option Nat)) : (s.calCodes d t f codes).pending = s.pending := rfl
@[simp] theorem State.fld_calCodes (s : State) (d : Nat) (t : Nat) (f : Flight) (codes : List (Option Nat)) : (s.calCodes d t f codes).fld = s.fld := rfl
@[simp] theorem State.aux_calCodes (s : State) (d : Nat) (t : Nat) (f : Flight) (codes : List (Option Nat)) : (s.calCodes d t f codes).aux = s.aux := rfl
@[simp] theorem State.mem_calCodes (s : State) (d : Nat) (t : Nat) (f : Flight) (codes : List (Option Nat)) : (s.calCodes d t f codes).mem = s.mem := rfl
@[simp] theorem State.dt_calCodes (s : State) (d : Nat) (t : Nat) (f : Flight) (codes : List (Option Nat)) : (s.calCodes d t f codes).dt = s.dt := rfl
@[simp] theorem State.outbox_calCodes (s : State) (d : Nat) (t : Nat) (f : Flight) (codes : List (Option Nat)) : (s.calCodes d t f codes).outbox = s.outbox := rfl
@[simp] theorem State.jobs_calCodes (s : State) (d : Nat) (t : Nat) (f : Flight) (codes : List (Option Nat)) : (s.calCodes d t f codes).jobs = s.jobs := rfl
@[simp] theorem State.cmds_calCodes (s : State) (d : Nat) (t : Nat) (f : Flight) (codes : List (Option Nat)) : (s.calCodes d t f codes).cmds = s.cmds := rfl
@[simp] theorem State.placed_calCodes (s : State) (d : Nat) (t : Nat) (f : Flight) (codes : List (Option Nat)) : (s.calCodes d t f codes).placed = s.placed := rfl
@[simp] theorem State.reqs_calCodes (s : State) (d : Nat) (t : Nat) (f : Flight) (codes : List (Option Nat)) : (s.calCodes d t f codes).reqs = s.reqs := rfl
@[simp] theorem State.ops_calCodes (s : State) (d : Nat) (t : Nat) (f : Flight) (codes : List (Option Nat)) : (s.calCodes d t f codes).ops = s.ops := rfl
@[simp] theorem State.progq_calCodes (s : State) (d : Nat) (t : Nat) (f : Flight) (codes : List (Option Nat)) : (s.calCodes d t f codes).progq = s.progq := rfl
@[simp] theorem State.maps_calCodes (s : State) (d : Nat) (t : Nat) (f : Flight) (codes : List (Option Nat)) : (s.calCodes d t f codes).maps = s.maps := rfl
@[simp] theorem State.tiles_calCodes (s : State) (d : Nat) (t : Nat) (f : Flight) (codes : List (Option Nat)) : (s.calCodes d t f codes).tiles = s.tiles := rfl
@[simp] theorem State.tabs_calCodes (s : State) (d : Nat) (t : Nat) (f : Flight) (codes : List (Option Nat)) : (s.calCodes d t f codes).tabs = s.tabs := rfl
@[simp] theorem State.qps_calCodes (s : State) (d : Nat) (t : Nat) (f : Flight) (codes : List (Option Nat)) : (s.calCodes d t f codes).qps = s.qps := rfl
@[simp] theorem State.rings_calCodes (s : State) (d : Nat) (t : Nat) (f : Flight) (codes : List (Option Nat)) : (s.calCodes d t f codes).rings = s.rings := rfl
@[simp] theorem State.plays_calCodes (s : State) (d : Nat) (t : Nat) (f : Flight) (codes : List (Option Nat)) : (s.calCodes d t f codes).plays = s.plays := rfl
@[simp] theorem State.tlms_calCodes (s : State) (d : Nat) (t : Nat) (f : Flight) (codes : List (Option Nat)) : (s.calCodes d t f codes).tlms = s.tlms := rfl
@[simp] theorem State.rd_calCodes (s : State) (d : Nat) (t : Nat) (f : Flight) (codes : List (Option Nat)) (x : Field) (d' i' j' : Nat) : (s.calCodes d t f codes).rd x d' i' j' = s.rd x d' i' j' := rfl
@[simp] theorem State.rdb_calCodes (s : State) (d : Nat) (t : Nat) (f : Flight) (codes : List (Option Nat)) (x : Field) (d' i' j' : Nat) : (s.calCodes d t f codes).rdb x d' i' j' = s.rdb x d' i' j' := rfl
@[simp] theorem State.ax_calCodes (s : State) (d : Nat) (t : Nat) (f : Flight) (codes : List (Option Nat)) (x : Aux) (d' i' j' : Nat) : (s.calCodes d t f codes).ax x d' i' j' = s.ax x d' i' j' := rfl
@[simp] theorem State.byte_calCodes (s : State) (d : Nat) (t : Nat) (f : Flight) (codes : List (Option Nat)) (k' : Nat) : (s.calCodes d t f codes).byte k' = s.byte k' := rfl

/-! After `dropRecords` -/

@[simp] theorem State.part_dropRecords (s : State) (f : Nat) : (s.dropRecords f).part = s.part := rfl
@[simp] theorem State.pending_dropRecords (s : State) (f : Nat) : (s.dropRecords f).pending = s.pending := rfl
@[simp] theorem State.fld_dropRecords (s : State) (f : Nat) : (s.dropRecords f).fld = s.fld := rfl
@[simp] theorem State.aux_dropRecords (s : State) (f : Nat) : (s.dropRecords f).aux = s.aux := rfl
@[simp] theorem State.mem_dropRecords (s : State) (f : Nat) : (s.dropRecords f).mem = s.mem := rfl
@[simp] theorem State.dt_dropRecords (s : State) (f : Nat) : (s.dropRecords f).dt = s.dt := rfl
@[simp] theorem State.outbox_dropRecords (s : State) (f : Nat) : (s.dropRecords f).outbox = s.outbox := rfl
@[simp] theorem State.jobs_dropRecords (s : State) (f : Nat) : (s.dropRecords f).jobs = s.jobs := rfl
@[simp] theorem State.cmds_dropRecords (s : State) (f : Nat) : (s.dropRecords f).cmds = s.cmds := rfl
@[simp] theorem State.placed_dropRecords (s : State) (f : Nat) : (s.dropRecords f).placed = s.placed := rfl
@[simp] theorem State.reqs_dropRecords (s : State) (f : Nat) : (s.dropRecords f).reqs = s.reqs := rfl
@[simp] theorem State.ops_dropRecords (s : State) (f : Nat) : (s.dropRecords f).ops = s.ops := rfl
@[simp] theorem State.progq_dropRecords (s : State) (f : Nat) : (s.dropRecords f).progq = s.progq := rfl
@[simp] theorem State.maps_dropRecords (s : State) (f : Nat) : (s.dropRecords f).maps = s.maps := rfl
@[simp] theorem State.tiles_dropRecords (s : State) (f : Nat) : (s.dropRecords f).tiles = s.tiles := rfl
@[simp] theorem State.tabs_dropRecords (s : State) (f : Nat) : (s.dropRecords f).tabs = s.tabs := rfl
@[simp] theorem State.qps_dropRecords (s : State) (f : Nat) : (s.dropRecords f).qps = s.qps := rfl
@[simp] theorem State.rings_dropRecords (s : State) (f : Nat) : (s.dropRecords f).rings = s.rings := rfl
@[simp] theorem State.cals_dropRecords (s : State) (f : Nat) : (s.dropRecords f).cals = s.cals := rfl
@[simp] theorem State.plays_dropRecords (s : State) (f : Nat) : (s.dropRecords f).plays = s.plays := rfl
@[simp] theorem State.tlms_dropRecords (s : State) (f : Nat) : (s.dropRecords f).tlms = s.tlms := rfl
@[simp] theorem State.rd_dropRecords (s : State) (f : Nat) (x : Field) (d' i' j' : Nat) : (s.dropRecords f).rd x d' i' j' = s.rd x d' i' j' := rfl
@[simp] theorem State.rdb_dropRecords (s : State) (f : Nat) (x : Field) (d' i' j' : Nat) : (s.dropRecords f).rdb x d' i' j' = s.rdb x d' i' j' := rfl
@[simp] theorem State.ax_dropRecords (s : State) (f : Nat) (x : Aux) (d' i' j' : Nat) : (s.dropRecords f).ax x d' i' j' = s.ax x d' i' j' := rfl
@[simp] theorem State.byte_dropRecords (s : State) (f : Nat) (k' : Nat) : (s.dropRecords f).byte k' = s.byte k' := rfl

/-! After `maintRuns` -/

@[simp] theorem State.part_maintRuns (s : State) (o : Op) : (s.maintRuns o).part = s.part := rfl
@[simp] theorem State.pending_maintRuns (s : State) (o : Op) : (s.maintRuns o).pending = s.pending := rfl
@[simp] theorem State.fld_maintRuns (s : State) (o : Op) : (s.maintRuns o).fld = s.fld := rfl
@[simp] theorem State.aux_maintRuns (s : State) (o : Op) : (s.maintRuns o).aux = s.aux := rfl
@[simp] theorem State.mem_maintRuns (s : State) (o : Op) : (s.maintRuns o).mem = s.mem := rfl
@[simp] theorem State.dt_maintRuns (s : State) (o : Op) : (s.maintRuns o).dt = s.dt := rfl
@[simp] theorem State.outbox_maintRuns (s : State) (o : Op) : (s.maintRuns o).outbox = s.outbox := rfl
@[simp] theorem State.jobs_maintRuns (s : State) (o : Op) : (s.maintRuns o).jobs = s.jobs := rfl
@[simp] theorem State.cmds_maintRuns (s : State) (o : Op) : (s.maintRuns o).cmds = s.cmds := rfl
@[simp] theorem State.placed_maintRuns (s : State) (o : Op) : (s.maintRuns o).placed = s.placed := rfl
@[simp] theorem State.reqs_maintRuns (s : State) (o : Op) : (s.maintRuns o).reqs = s.reqs := rfl
@[simp] theorem State.progq_maintRuns (s : State) (o : Op) : (s.maintRuns o).progq = s.progq := rfl
@[simp] theorem State.maps_maintRuns (s : State) (o : Op) : (s.maintRuns o).maps = s.maps := rfl
@[simp] theorem State.tiles_maintRuns (s : State) (o : Op) : (s.maintRuns o).tiles = s.tiles := rfl
@[simp] theorem State.tabs_maintRuns (s : State) (o : Op) : (s.maintRuns o).tabs = s.tabs := rfl
@[simp] theorem State.qps_maintRuns (s : State) (o : Op) : (s.maintRuns o).qps = s.qps := rfl
@[simp] theorem State.rings_maintRuns (s : State) (o : Op) : (s.maintRuns o).rings = s.rings := rfl
@[simp] theorem State.cals_maintRuns (s : State) (o : Op) : (s.maintRuns o).cals = s.cals := rfl
@[simp] theorem State.plays_maintRuns (s : State) (o : Op) : (s.maintRuns o).plays = s.plays := rfl
@[simp] theorem State.tlms_maintRuns (s : State) (o : Op) : (s.maintRuns o).tlms = s.tlms := rfl
@[simp] theorem State.rd_maintRuns (s : State) (o : Op) (x : Field) (d' i' j' : Nat) : (s.maintRuns o).rd x d' i' j' = s.rd x d' i' j' := rfl
@[simp] theorem State.rdb_maintRuns (s : State) (o : Op) (x : Field) (d' i' j' : Nat) : (s.maintRuns o).rdb x d' i' j' = s.rdb x d' i' j' := rfl
@[simp] theorem State.ax_maintRuns (s : State) (o : Op) (x : Aux) (d' i' j' : Nat) : (s.maintRuns o).ax x d' i' j' = s.ax x d' i' j' := rfl
@[simp] theorem State.byte_maintRuns (s : State) (o : Op) (k' : Nat) : (s.maintRuns o).byte k' = s.byte k' := rfl

/-! After `setHolding` -/

@[simp] theorem State.part_setHolding (s : State) (m : Master) (addr : Nat) (v : Option Nat) : (s.setHolding m addr v).part = s.part := rfl
@[simp] theorem State.pending_setHolding (s : State) (m : Master) (addr : Nat) (v : Option Nat) : (s.setHolding m addr v).pending = s.pending := rfl
@[simp] theorem State.fld_setHolding (s : State) (m : Master) (addr : Nat) (v : Option Nat) : (s.setHolding m addr v).fld = s.fld := rfl
@[simp] theorem State.aux_setHolding (s : State) (m : Master) (addr : Nat) (v : Option Nat) : (s.setHolding m addr v).aux = s.aux := rfl
@[simp] theorem State.mem_setHolding (s : State) (m : Master) (addr : Nat) (v : Option Nat) : (s.setHolding m addr v).mem = s.mem := rfl
@[simp] theorem State.dt_setHolding (s : State) (m : Master) (addr : Nat) (v : Option Nat) : (s.setHolding m addr v).dt = s.dt := rfl
@[simp] theorem State.outbox_setHolding (s : State) (m : Master) (addr : Nat) (v : Option Nat) : (s.setHolding m addr v).outbox = s.outbox := rfl
@[simp] theorem State.jobs_setHolding (s : State) (m : Master) (addr : Nat) (v : Option Nat) : (s.setHolding m addr v).jobs = s.jobs := rfl
@[simp] theorem State.cmds_setHolding (s : State) (m : Master) (addr : Nat) (v : Option Nat) : (s.setHolding m addr v).cmds = s.cmds := rfl
@[simp] theorem State.placed_setHolding (s : State) (m : Master) (addr : Nat) (v : Option Nat) : (s.setHolding m addr v).placed = s.placed := rfl
@[simp] theorem State.reqs_setHolding (s : State) (m : Master) (addr : Nat) (v : Option Nat) : (s.setHolding m addr v).reqs = s.reqs := rfl
@[simp] theorem State.ops_setHolding (s : State) (m : Master) (addr : Nat) (v : Option Nat) : (s.setHolding m addr v).ops = s.ops := rfl
@[simp] theorem State.progq_setHolding (s : State) (m : Master) (addr : Nat) (v : Option Nat) : (s.setHolding m addr v).progq = s.progq := rfl
@[simp] theorem State.maps_setHolding (s : State) (m : Master) (addr : Nat) (v : Option Nat) : (s.setHolding m addr v).maps = s.maps := rfl
@[simp] theorem State.tiles_setHolding (s : State) (m : Master) (addr : Nat) (v : Option Nat) : (s.setHolding m addr v).tiles = s.tiles := rfl
@[simp] theorem State.tabs_setHolding (s : State) (m : Master) (addr : Nat) (v : Option Nat) : (s.setHolding m addr v).tabs = s.tabs := rfl
@[simp] theorem State.qps_setHolding (s : State) (m : Master) (addr : Nat) (v : Option Nat) : (s.setHolding m addr v).qps = s.qps := rfl
@[simp] theorem State.rings_setHolding (s : State) (m : Master) (addr : Nat) (v : Option Nat) : (s.setHolding m addr v).rings = s.rings := rfl
@[simp] theorem State.cals_setHolding (s : State) (m : Master) (addr : Nat) (v : Option Nat) : (s.setHolding m addr v).cals = s.cals := rfl
@[simp] theorem State.plays_setHolding (s : State) (m : Master) (addr : Nat) (v : Option Nat) : (s.setHolding m addr v).plays = s.plays := rfl
@[simp] theorem State.tlms_setHolding (s : State) (m : Master) (addr : Nat) (v : Option Nat) : (s.setHolding m addr v).tlms = s.tlms := rfl
@[simp] theorem State.rd_setHolding (s : State) (m : Master) (addr : Nat) (v : Option Nat) (x : Field) (d' i' j' : Nat) : (s.setHolding m addr v).rd x d' i' j' = s.rd x d' i' j' := rfl
@[simp] theorem State.rdb_setHolding (s : State) (m : Master) (addr : Nat) (v : Option Nat) (x : Field) (d' i' j' : Nat) : (s.setHolding m addr v).rdb x d' i' j' = s.rdb x d' i' j' := rfl
@[simp] theorem State.ax_setHolding (s : State) (m : Master) (addr : Nat) (v : Option Nat) (x : Aux) (d' i' j' : Nat) : (s.setHolding m addr v).ax x d' i' j' = s.ax x d' i' j' := rfl
@[simp] theorem State.byte_setHolding (s : State) (m : Master) (addr : Nat) (v : Option Nat) (k' : Nat) : (s.setHolding m addr v).byte k' = s.byte k' := rfl

end Sys2Proof.Machine
end

