-- ==== Sys2Proof/WellFormed.lean ====
section
/-!
DEFINITION. WellFormed.lean: which operands a command can carry: the ranges of 00_scope.md, "Numbering", and the widths of
the words of the interfaces that deliver them. `exec` gives every command an outcome, well-formed or not.
-/

namespace Sys2Proof

/-- Dies are 0 to 7. -/
def dieOk (d : Nat) : Bool := decide (d < 8)

/-- Tiles of a die are 0 to 1663. -/
def tileOk (t : Nat) : Bool := decide (t < 1664)

/-- Model slots are 0 to 63. -/
def slotOk (m : Nat) : Bool := decide (m < 64)

/-- Functions are 0 (the PF) to 127. -/
def fnOk (f : Nat) : Bool := decide (f < 128)

/-- A master that is a VF is one of 1 to 127. -/
def masterOk (m : Master) : Bool :=
  match m with
  | .vf f => decide (1 ≤ f ∧ f < 128)
  | _ => true

/-- The order of one master, of a register of at most 64 bits. -/
def wrOk (w : Wr) : Bool := masterOk w.by' && decide (w.v < 2 ^ 64)

/-- An order and its rivals. -/
def orderOk (o : Order) : Bool := wrOk o.w && o.rivals.all wrOk

/-- A bus write of 1 to 8 bytes that carries as much data. -/
def busOk (w : BusWr) : Bool := masterOk w.by' && decide (1 ≤ w.size ∧ w.size ≤ 8 ∧ w.data < 2 ^ (8 * w.size))

/-- An access to a data window. -/
def accessOk (a : Access) : Bool :=
  match a with
  | .read m => masterOk m
  | .write o => orderOk o

/-- A transaction of the chain has a 7-bit address. -/
def txOk (x : ChainTx) : Bool := decide (x.addr < 128)

/-- A job has at most 64 tasks (R186). -/
def taskOk (t : TaskRef) : Bool := decide (t.task < 64)

/-- Sequence numbers of flits are 16 bits (R435). -/
def hdrOk (h : FlitHdr) : Bool := decide (h.seq < 65536 ∧ h.ack < 65536)

/-- The operands of a command lie in their ranges. -/
def Instr.wellFormed (i : Instr) : Bool :=
  match i with
  | .registerWrite o => busOk o.w && o.rivals.all busOk
  | .glbCapacityLowRead by' => masterOk by'
  | .hemMseSumRead by' die tile _ _ => masterOk by' && dieOk die && tileOk tile
  | .tilCtrlRetire die tile o => dieOk die && tileOk tile && orderOk o
  | .tilCtrlHoldWrite die tile o => dieOk die && tileOk tile && orderOk o
  | .tilCtrlPrecisionWrite die tile o => dieOk die && tileOk tile && orderOk o
  | .tilCtrlHandback die tile o => dieOk die && tileOk tile && orderOk o
  | .spareTileTest die _ => dieOk die
  | .recordTileFailure die tile cells conds => dieOk die && tileOk tile && cells.length == conds.length
  | .repairDone die _ _ => dieOk die
  | .drvCfgWrite die tile o => dieOk die && tileOk tile && orderOk o
  | .drvSlewWrite die tile o => dieOk die && tileOk tile && orderOk o
  | .drvCfgHandback die tile o => dieOk die && tileOk tile && orderOk o
  | .wfmDataAccess die a => dieOk die && accessOk a
  | .wfmPlayStart die _ _ o => dieOk die && orderOk o
  | .wfmPlayStop die _ o => dieOk die && orderOk o
  | .wfmPlayCancel die _ o => dieOk die && orderOk o
  | .wfmTimedStart die _ => dieOk die
  | .wfmTimedStop die _ => dieOk die
  | .wfmPointInterval die _ => dieOk die
  | .wfmStatHandback die o => dieOk die && orderOk o
  | .hemCfgWrite die tile o => dieOk die && tileOk tile && orderOk o
  | .hemTapsWrite die tile o => dieOk die && tileOk tile && orderOk o
  | .hemCtrlClear die tile o => dieOk die && tileOk tile && orderOk o
  | .hemCtrlHandback die tile o => dieOk die && tileOk tile && orderOk o
  | .conversionsEnd die tile _ => dieOk die && tileOk tile
  | .stitchStrobe => true
  | .periodMarker die => dieOk die
  | .skewRemeasure die _ => dieOk die
  | .followerOff die => dieOk die
  | .followerRealign die => dieOk die
  | .feederLoadDone die x => dieOk die && tileOk x.tile
  | .seamDue slot => slotOk slot
  | .seamPass slot => slotOk slot
  | .mapSwitchDrainLimit slot => slotOk slot
  | .accountingWindowEnd => true
  | .yokeRoleMoveEnd => true
  | .yokCtrlHoldAllWrite o => orderOk o
  | .yokCtrlSplitEnWrite o => orderOk o
  | .yokCtrlClear o => orderOk o
  | .yokCtrlHandback o => orderOk o
  | .yokPeriodWrite o => orderOk o
  | .yokThrottleWrite o => orderOk o
  | .jobDispatch => true
  | .jobCommit _ => true
  | .barRelease _ => true
  | .memoryConditionRecheck t => taskOk t
  | .seqCfgWrite die o => dieOk die && orderOk o
  | .seqCtrlDrainWrite die o => dieOk die && orderOk o
  | .seqCtrlHandback die o => dieOk die && orderOk o
  | .nop t => taskOk t
  | .br t => taskOk t
  | .bri t => taskOk t
  | .brc t => taskOk t
  | .loop t => taskOk t
  | .endl t => taskOk t
  | .lpop t => taskOk t
  | .call t => taskOk t
  | .calli t => taskOk t
  | .ret t => taskOk t
  | .wait t => taskOk t
  | .waitEq t => taskOk t
  | .waitNe t => taskOk t
  | .waitGeu t => taskOk t
  | .trap t => taskOk t
  | .halt t => taskOk t
  | .ctx t => taskOk t
  | .aluImmediate t => taskOk t
  | .aluRegister t => taskOk t
  | .cmp t => taskOk t
  | .cmpi t => taskOk t
  | .predicateOp t => taskOk t
  | .tdset t => taskOk t
  | .tdget t => taskOk t
  | .tdld t => taskOk t
  | .tdst t => taskOk t
  | .tdcpy t => taskOk t
  | .tdinv t => taskOk t
  | .tdadd t => taskOk t
  | .load t => taskOk t
  | .store t => taskOk t
  | .movt t => taskOk t
  | .gather t => taskOk t
  | .scatter t => taskOk t
  | .scldE t => taskOk t
  | .scldT t => taskOk t
  | .stitch t => taskOk t
  | .rstitch t => taskOk t
  | .swait t => taskOk t
  | .rot t => taskOk t
  | .mapsel t => taskOk t
  | .mm t => taskOk t
  | .mmt t => taskOk t
  | .mma t => taskOk t
  | .mmat t => taskOk t
  | .ew t => taskOk t
  | .red t => taskOk t
  | .smax t => taskOk t
  | .normLayer t => taskOk t
  | .normRms t => taskOk t
  | .qnt t => taskOk t
  | .dqnt t => taskOk t
  | .bar t => taskOk t
  | .fence t => taskOk t
  | .signalSet t => taskOk t
  | .signalAdd t => taskOk t
  | .signalMaxu t => taskOk t
  | .evpost t => taskOk t
  | .cpost t => taskOk t
  | .cal t rival => taskOk t && rival.all masterOk
  | .clear t rival => taskOk t && rival.all masterOk
  | .prog t rival => taskOk t && rival.all masterOk
  | .verify t rival => taskOk t && rival.all masterOk
  | .refresh t rival => taskOk t && rival.all masterOk
  | .arrayBlockEnd die _ _ _ _ => dieOk die
  | .dgaCtrlHoldWrite die o => dieOk die && orderOk o
  | .dgaCtrlClear die o => dieOk die && orderOk o
  | .dgaCtrlHandback die o => dieOk die && orderOk o
  | .dmaDescriptorDone e => dieOk e.die
  | .imageLoad _ _ => true
  | .imageLoadComplete _ _ => true
  | .imageEvict _ => true
  | .slotProgram _ => true
  | .slotSwitch _ => true
  | .slotReplace _ => true
  | .mapFree _ => true
  | .slotFree _ => true
  | .slotFreeDrainEnd _ => true
  | .slotInfo _ => true
  | .keyEnrol _ _ => true
  | .keyRevoke _ => true
  | .progFinish die _ _ => dieOk die
  | .clearFinish die _ _ => dieOk die
  | .verifyFinish die _ _ => dieOk die
  | .prgCtrlHoldWrite die o => dieOk die && orderOk o
  | .prgCtrlClear die o => dieOk die && orderOk o
  | .prgCtrlHandback die o => dieOk die && orderOk o
  | .prgStoreWrite die o => dieOk die && orderOk o
  | .driftInterval die _ _ => dieOk die
  | .traceDue die => dieOk die
  | .traceEnd die _ => dieOk die
  | .traceRetry die => dieOk die
  | .quickCalEnd die tile _ => dieOk die && tileOk tile
  | .fullCalStart die => dieOk die
  | .fullCalEnd die tile _ => dieOk die && tileOk tile
  | .periodicFullCalDue die tile => dieOk die && tileOk tile
  | .recordHourlySave die => dieOk die
  | .refreshEnd die tile => dieOk die && tileOk tile
  | .calCtrlHoldWrite die o => dieOk die && orderOk o
  | .calCtrlClear die o => dieOk die && orderOk o
  | .calCtrlHandback die o => dieOk die && orderOk o
  | .calCtrlTrace die o => dieOk die && orderOk o
  | .calTabDataAccess die a => dieOk die && accessOk a
  | .calHandbackGo die tile o => dieOk die && tileOk tile && orderOk o
  | .mcvEntryStart die => dieOk die
  | .mcvEntryEnd die _ _ _ => dieOk die
  | .urgentRequest die _ _ => dieOk die
  | .urgentConversionEnd die _ => dieOk die
  | .selfCalDue die => dieOk die
  | .selfCalEnd die _ _ => dieOk die
  | .mcvCtrlModeWrite die o => dieOk die && orderOk o
  | .mcvCtrlHoldWrite die o => dieOk die && orderOk o
  | .mcvCtrlScal die o => dieOk die && orderOk o
  | .mcvCtrlClear die o => dieOk die && orderOk o
  | .mcvCtrlHandback die o => dieOk die && orderOk o
  | .mcvTrigGo die o => dieOk die && orderOk o
  | .mcvTimedTrigger die => dieOk die
  | .simultaneousConversionEnd die _ _ => dieOk die
  | .tlmStart _ _ o => orderOk o
  | .tlmStop _ o => orderOk o
  | .tlmCancel _ o => orderOk o
  | .tlmTimedStart _ => true
  | .tlmTimedStop _ => true
  | .tlmPeriodSample _ => true
  | .tlmRdidxWrite _ o => orderOk o
  | .bnkOwnerWrite die _ o => dieOk die && orderOk o
  | .bankHandover die _ => dieOk die
  | .bankZeroingEnd die _ => dieOk die
  | .bnkCtrlClear die o => dieOk die && orderOk o
  | .bnkCtrlHandback die o => dieOk die && orderOk o
  | .bnkDiagGo die _ o => dieOk die && orderOk o
  | .bankScrub die _ _ => dieOk die
  | .lpddrPatrolScrub die _ _ => dieOk die
  | .wck2dqDrift die _ => dieOk die
  | .retrainEnd die _ _ => dieOk die
  | .memCtrlRetrain die o => dieOk die && orderOk o
  | .memCtrlClear die o => dieOk die && orderOk o
  | .memCtrlHandback die o => dieOk die && orderOk o
  | .memCfgWrite die o => dieOk die && orderOk o
  | .qpCfgEnable _ o => orderOk o
  | .qpCfgDisable _ o => orderOk o
  | .qpDrainEnd _ => true
  | .qpSqtailWrite _ o => orderOk o
  | .qpCqheadWrite _ o => orderOk o
  | .descriptorFetch _ _ rival => rival.all masterOk
  | .parkedCommandEligible _ => true
  | .cmdNop _ => true
  | .jobSubmit _ => true
  | .jobAbort _ => true
  | .programLoad _ _ => true
  | .programUnload _ => true
  | .programUnloadEffect _ => true
  | .resAlloc _ => true
  | .resFree _ => true
  | .bankHost _ => true
  | .evict _ => true
  | .fnqQuotaWrite fn _ o => fnOk fn && orderOk o
  | .fnqGrantWrite fn slot o => fnOk fn && slotOk slot && orderOk o
  | .functionLevelReset fn => fnOk fn
  | .hotReset => true
  | .bar2Access fn _ _ _ => fnOk fn
  | .evrCtrlEnable fn o => fnOk fn && orderOk o
  | .evrHeadWrite fn o => fnOk fn && orderOk o
  | .msixModerationTimeout fn _ => fnOk fn
  | .msixUnmask fn _ o => fnOk fn && orderOk o
  | .bankPortWaitTimeout die _ _ => dieOk die
  | .dieLinkTimeout _ _ => true
  | .lpddrCommandTimeout die _ _ => dieOk die
  | .dmaDescriptorTimeout die _ _ => dieOk die
  | .sequencerProgressTimeout die _ => dieOk die
  | .feedQueueStarvation _ => true
  | .jobWatchdog _ => true
  | .chainTransactionTimeout => true
  | .mgmtWatchdogMiss die => dieOk die
  | .dieRestore _ _ => true
  | .pairHandover _ => true
  | .mirRegion _ _ => true
  | .heartbeatSend => true
  | .heartbeatFlit h _ _ _ _ => hdrOk h
  | .ackFlit h => hdrOk h
  | .nakFlit h => hdrOk h
  | .journalFlit h fn _ => hdrOk h && fnOk fn
  | .stateFlit h fn _ => hdrOk h && fnOk fn
  | .doorbellFlit h fn _ _ _ => hdrOk h && fnOk fn
  | .orderFlit h _ rival => hdrOk h && rival.all masterOk
  | .flitReplayTimer => true
  | .mirrorLinkTrained _ => true
  | .ackTimeout _ => true
  | .heartbeatTimeout => true
  | .takeoverRankWaitEnd => true
  | .pairTakeSeen => true
  | .takeoverGuardEnd => true
  | .mirCfgEnableWrite o => orderOk o
  | .mirCfgHandback o => orderOk o
  | .mirCtrlRelease o => orderOk o
  | .mirCtrlResync o => orderOk o
  | .mirCtrlClear o => orderOk o
  | .mirFnMirroredWrite fn o => fnOk fn && orderOk o
  | .fltCtrlClear o => orderOk o
  | .sourceLoss _ die _ => dieOk die
  | .sourceReady _ => true
  | .clockOneShotExpiry => true
  | .pllRelockDone _ => true
  | .clkPllWrite _ o => orderOk o
  | .clkCtrlMgmtSrcWrite o => orderOk o
  | .clkCtrlRootWrite o => orderOk o
  | .clkCtrlHandback o => orderOk o
  | .clkGateWrite _ die o => dieOk die && orderOk o
  | .gateOffEffect _ die => dieOk die
  | .clkDtctrlSet o => orderOk o
  | .clkDtctrlSetPps o => orderOk o
  | .timePpsEdge => true
  | .ppsLossTimeout => true
  | .powerMeasure _ => true
  | .thermalCheck die _ => dieOk die
  | .thermalRestoreStep die _ => dieOk die
  | .thermalComparatorTrip die _ => dieOk die
  | .pwrShedAssert => true
  | .pwrShedRelease => true
  | .shedDutyStep => true
  | .shedRestoreStep => true
  | .shedWindowEnd _ => true
  | .shedAdviseExpiry => true
  | .pwrCtrlHandback o => orderOk o
  | .powerGood => true
  | .startUpStepDone _ _ => true
  | .startTimeout => true
  | .startRetry _ => true
  | .perstNAssert => true
  | .perstNRelease => true
  | .powerFailTrip _ => true
  | .saveRestart => true
  | .railDip => true
  | .railRecovered => true
  | .pktDataAccess a => accessOk a
  | .pktUnlockWrite _ o => orderOk o
  | .pktUnlockselRelock o => orderOk o
  | .pocketRead _ => true
  | .pocketWrite _ _ => true
  | .pocketErase _ => true
  | .pocketProtect _ => true
  | .chnCfgPecWrite o => orderOk o
  | .vddAonGood => true
  | .bypassSwitchOpen => true
  | .chainHeartbeatToggle => true
  | .chainSupervisorTimeout => true
  | .identify x => txOk x
  | .assign x _ => txOk x
  | .clearAddr x => txOk x
  | .chainStatus x => txOk x
  | .regRead x _ => txOk x
  | .regWrite x _ _ y => txOk x && y.rivals.all busOk
  | .chainPocketRead x die _ _ _ => txOk x && dieOk die
  | .chainPocketWrite x die _ _ _ _ rival => txOk x && dieOk die && rival.all masterOk
  | .bypass x => txOk x
  | .lastStatus x => txOk x
  | .pairTakeReleased => true
  | .dieLinkRetrained _ => true
  | .ppsErrorAbsorbed => true

end Sys2Proof
end

