-- ==== Sys2Proof/Tests/Slice0.lean ====
section
/-!
SUPPORT. Tests/Slice0.lean: examples of the spec worked in the model, ill-formed operands that are refused, and for every
statement of Certificates/Slice0/Obligations.lean that has hypotheses a state and operands that meet them, clause by clause.
-/

set_option Elab.async false
set_option linter.unusedVariables false

open Sys2Proof Sys2Proof.Machine

/-! ## Small states of the tests -/

/-- A small state of the tests: two dies are online. -/
def w0 : State :=
  (((State.reset.wr .GLB_CAPACITY_DIE_ONLINE 3).wr .GLB_CAPACITY_DIE_PRESENT 3).wr .MEM_CAP_DATA_MIB 65536).wr .MEM_CAP_DATA_MIB 65536 1

/-- A host command of the tests: identifier 7, from queue pair 3 of the PF. -/
def cmd0 (op desc : Nat) : Cmd :=
  { id := 7, q := 3, fn := 0, cid := 9, event := false, vec := 0, opcode := op, at' := 0, desc := desc, st := .ready,
    lateness := 0, flags := 0 }

/-- A state of the tests with a queue pair of 16 entries, and the command fetched from it. -/
def wc (op desc : Nat) : State :=
  { ((w0.setQp 3 (some ⟨0, 3, 5, 4, 1, none⟩)).wr .QP_CFG_CQLOG2 4 0 3).wr .GLB_CAPACITY_DIE_PRESENT 3 with cmds := [cmd0 op desc] }

/-- A program of the tests. -/
def prog0 (un : Bool) : Prog := ⟨1, 0, false, 1, [], [], 0, 0, 0, 0, 255, 0, [], un⟩

/-- A job of the tests. -/
def job0 : Job := { jobOf (cmd0 1 0) 0 0 with id := 7 }
/-- A signed image of the tests, 704 bytes as a little-endian number: one overflow layer of width 2 and one output, FP4 weights, laid
out and signed as 10_weight_images_and_programming.md says; and the digest of the public key that signed it. -/
def imgNum : Nat := 0x1f652d705596a5e739bab89a136994c60fe776ef98ff1cb771b3e64a96c7faff0608ee76b4dad4983805a6253b02923c48ea152804a5778cf3d24cdf6a6c3a45815242811ea0d76fd2c5b89a4031a736311d916d3c993261500d9b875aa368854fe7f6bbcca6f363ed48394579ed47bb140fdb71a561d099940bb05ceb3636ee0d9a394b03d83815240dd84c4421acd82b3003436ffd5058b43f4ed8e4f20075b95dedc336cd4ea4e8fb08460f24666c1f19e51b07efc1704c796011dbe1e97a0000000000000000000000000000000000000000000000000000000000000000000000000000000000000000000000000000000000000000000000003f80000000000000000000000000000000000000000000000000000000000000000000000000000000000000000000000000000000000000000000000000000000000021000000000000000000000000000000000000000000000000000000000000000000000000000000000000000000000000000000000000018000000000000000000000000000000140000000000000000000010100000000010000000200010000000000000000000000000000000000000000000000000005000000000000000100000000000000000000000000000000000000000000000000000000000000000000000000000000000000000000000000000000000000000000000000000000000000000000000000000000000000000000000000000000000000000000000000000000000000000000000000000000000000000000000000000000000000000000000000000000000000000000006000000000000000c0000000000000000100000000000000772407fa846592fff800000000000002c00000010058545053
def img0 : List Byte := leBytes 704 imgNum
def keyHash0 : Nat := 0xf8ff926584fa072475d878e9f499b0a4d7146994b148d98b7ec760b8e4cb1467535eacecf9ae072f3b79dccc277db5c3

/-- A state of the tests whose key entry 0 holds that key, ENROLLED. -/
def wk (op desc : Nat) : State := (wc op desc).pktWrite 0 2 0 ((leBytes 48 keyHash0).reverse ++ [(1 : Byte)])

/-- An image of one crossbar layer in the store of the tests, and a map bound to it. -/
def lay0 : Layer := { kind := 0, drive := 0, inW := 4, outW := 4, rot := 0, gfmt := 0, gdies := 0, limit := 0, payOff := 0, signOff := 0, rescOff := 0 }
def image0 : Image := { handle := 0, home := 0, modelId := 5, version := 1, digest := 9, tiles := 1, gusset := 0, layers := [lay0], body := [], used := 0 }
def map0 : MapSt := { slot := 0, map := 1, handle := some 0, modelId := 5, version := 1, digest := 9, tiles := 1, layers := [lay0], scales := [], signs := [], ready := true }
def place0 : Placed := ⟨0, 1, 0, 0, 0, 1, 6, 3, 3⟩
def preq0 : PReq :=
  { no := 3, die := 1, tile := 6, kind := 0, what := .prog, clearFirst := false, deadline := 0, queued := true, engine := some 2,
    place := place0, payload := [], cols := [], whole := false, cfg := 0x020A40, old := 0x7FF, cmd := none, op := none, wait := false, cause := 0, since := 0 }
def pout0 : ProgOut := { reads := [], sense := [], resid := [], iters := 5, sigma := 20 }

/-- A state of the tests in which an engine of die 1 works for a request. -/
def wp (r : PReq) (st : Nat) : State := { (w0.wr .PRG_ENG_STATE st 1 2).wr .TIL_STATUS_STATE tsProgramming 1 6 with progq := [r], dt := 8000 }

/-- A program object of the tests: one task, one NOP. -/
def prog0Bytes : List Byte := leBytes 72 (0x4B535446 + 0x100 * 256 ^ 4 + 256 ^ 7 + 256 ^ 8)

/-- A block of the tests as the devices hold it: 64 zero bytes, and their check word at channel address 512. -/
def ecc0 : List Byte := List.replicate 64 0 ++ checkWord 512 (List.replicate 64 0)

/-- A W1C bit of the tests that hardware sets, and where it stands. -/
def hw1 : HwSet := ⟨0, regAddr .CLK_STAT, Field.info .CLK_STAT_REFUSED |>.lo, 1⟩
def hw1at : RegAt × Field := (⟨.CLK_STAT, 0, 0, 0, 0⟩, .CLK_STAT_REFUSED)

/-- A telemetry window of the tests. -/
def tlm0 : Tlm := { stream := 15, open' := true, start := 1000, stop := none, next := 2000, written := 0, lateness := 0, said := false, order := false, flags := 0 }
def wt (w : Tlm) : State := { w0 with dt := 80000, tlms := [w] }
/-- A running job with one task on sequencer 2 of die 1. -/
def task0 : Task := { num := 0, die := 1, seq := 2, pc := 0, g := [], p := [], td := [], ret := [], loops := [], last := 0, opened := [], fabric := [], res := [], wait := .run, progress := 0 }
def jobR : Job := { job0 with st := .running, started := some 0, watchdog := 1, tasks := [task0] }
/-- A queued request in feed queue 8191. -/
def req0 : Req := { no := 0, job := 7, task := 0, ticket := 1, fn := 0, rev := false, slot := 0, layer := 0, step := 0, queue := 8191, cls := 0, deadline := 0, inp := 0, out := 0, sin := 0, sout := 0, st := .queued, map := 0, firedAt := 0, left := 0, parts := [], sat := 0, flags := 0, since := 0, dead := false }
def play0 : Play := { die := 1, player := 15, wave := 40, repeats := 0, interval := 4, tile := 8, first := 0, rows := 1024, playing := true, point := 0, start := 0, stop := none, late := 0, flags := 0, order := false }
def cal0 : CalOut := { offs := [], a := 1, mse := 0, trims := [], revOfs := [], revTrims := [], units := [], badRows := 0 }

/-- 24 stitches of a calibration, at +64, whose codes all saturate. -/
def satCodes : List (Int × List (Option Nat)) := List.replicate 24 (64, List.replicate 1152 (some 1023))

/-- A job of the tests whose one task stands at word 0 of a program; and the words of a program by form. -/
def taskN (t : Task) : Job := { jobR with handle := 1, tasks := [t] }
def wi (ws : List Nat) (t : Task) : State :=
  { w0 with jobs := [taskN t], progs := [{ prog0 false with code := ws }], dt := 80 }
def ri : TaskRef := { job := 7, task := 0 }
def ci (s : State) : Ctx := match s.ctx ri with | some c => c | none => ⟨job0, task0, 0, 0, 0, Found.none⟩
def insR (op sub d a b : Nat) : Nat := op * 2 ^ 58 + sub * 2 ^ 48 + d * 2 ^ 43 + a * 2 ^ 38 + b * 2 ^ 33
def insI (op sub d a imm : Nat) : Nat := op * 2 ^ 58 + sub * 2 ^ 48 + d * 2 ^ 43 + a * 2 ^ 38 + imm
def insT (op sub td ta ga gb imm : Nat) : Nat := op * 2 ^ 58 + sub * 2 ^ 48 + td * 2 ^ 42 + ta * 2 ^ 36 + ga * 2 ^ 25 + gb * 2 ^ 20 + imm
def insB (op sub a pd off : Nat) : Nat := op * 2 ^ 58 + sub * 2 ^ 48 + a * 2 ^ 43 + pd * 2 ^ 40 + off
def taskG (l : List (Nat × Nat)) : Task := { task0 with g := l }
/-- A tensor descriptor of the tests, by its fields (R197), and an address in host memory. -/
def tdNum (fmt flags zp d0 d1 d2 d3 s1 s2 s3 base scale trk slen : Nat) : Nat :=
  base + d0 * 256 ^ 8 + d1 * 256 ^ 12 + d2 * 256 ^ 16 + d3 * 256 ^ 20 + s1 * 256 ^ 24 + s2 * 256 ^ 28 + s3 * 256 ^ 32 + fmt * 256 ^ 36
    + flags * 256 ^ 37 + zp * 256 ^ 38 + scale * 256 ^ 40 + trk * 256 ^ 48 + slen * 256 ^ 56
def addr0 : Nat := 2 ^ 45
/-- A task at a memory wait, a memory instruction, and SCLD. -/
def wm6 (sub b : Nat) : State := wi [insR 6 sub 0 3 4] (taskG [(3, addr0), (4, b)])
def wmI (w : Nat) : State :=
  (wi [w] { taskG [(3, addr0), (4, 0xFFFFFFFFFFFFFFFE), (5, 7)] with td := [(7, ⟨2 ^ 511 + 5, true⟩)] }).store (hostKey 0 0) 16
    0x8000800180028003
def wmI2 : State := wi [insR 6 3 0 3 4] { taskG [(3, addr0)] with wait := .mem 2 addr0 8 0 }
def wmS (i : Nat) : State :=
  (wi [insT 0x25 0 0 7 3 4 0] { taskG [(4, i)] with td := [(7, ⟨tdNum 3 2 0 1 1 1 1 0 0 0 addr0 (addr0 + 64) 0 1, true⟩)] }).store
    (hostKey 0 64) 4 0x3F800000
def wmT : State :=
  (wi [insT 0x25 1 0 7 3 4 0] { task0 with td := [(7, ⟨tdNum 3 8 0 1 1 1 1 0 0 0 addr0 0 (addr0 + 128) 0, true⟩)] }).store
    (hostKey 0 128) 128 (0x3F800000 * 256 ^ 64 + 3 * 256 ^ 70)
def jobW : Job := { jobR with st := .waiting, started := none, tasks := [], handle := 1 }
def wj : State := { w0 with jobs := [jobW], progs := [prog0 false], dt := 80 }
/-- A task at an array or movement instruction over tensors in host memory: 4 values of format `f`, two of them, and the result. -/
def tdV (f base : Nat) : TDesc := ⟨tdNum f 0 0 4 1 1 1 0 0 0 base 0 0 0, true⟩
def wa (w : Nat) (a b d : TDesc) : State := wi [w] { task0 with td := [(7, a), (8, b), (9, d)] }
def insA (op sub : Nat) : Nat := op * 2 ^ 58 + sub * 2 ^ 48 + 9 * 2 ^ 42 + 7 * 2 ^ 36 + 8 * 2 ^ 30 + 6 * 2 ^ 20
/-- 4 by 4 matrices in FP32, and the constants of NORM. -/
def tdM (base : Nat) : TDesc := ⟨tdNum 13 0 0 4 4 1 1 16 64 64 base 0 0 0, true⟩
def op0 : Op :=
  { job := 7, task := 0, ticket := 1, unit := .array, die := 1, cls := 0, deadline := 0, issue := 4, left := 256,
    running := true, word := insA 0x32 5, ext := 0, ta := (tdV 13 addr0).val, tb := 0, td := (tdV 13 (addr0 + 64)).val, ga := 0, gb := 6, late := false }
def wo (o : Op) : State := { wi [0] { task0 with last := 1, opened := [1] } with ops := [o] }
/-- A placed layer of one tile, SERVING, and a task that posts its stitch. -/
def wf (op : Nat) (a d : TDesc) : State :=
  { ((((wi [insT op 0 9 7 0 6 0] { task0 with td := [(7, a), (9, d)] }).setAx .activeMap 1 0 0).wr .TIL_STATUS_STATE tsServing 1 6).wr
      .TIL_EXTENT_ROWS_M1 3 1 6).wr .TIL_EXTENT_COLS_M1 3 1 6 with
    placed := [⟨0, 0, 0, 0, 0, 1, 6, 3, 3⟩], allocs := [⟨0, 1, 0, 8, 4⟩],
    jobs := [{ taskN { task0 with td := [(7, a), (9, d)] } with slots := 1, grants := 1 }] }
/-- The payload and result tensors of the maintenance instructions. -/
def pay0 : TDesc := ⟨tdNum 16 0 0 512 1024 1 1 512 0 0 addr0 0 0 0, true⟩
def cnt0 : TDesc := ⟨tdNum 5 0 0 1152 1 1 1 0 0 0 (addr0 + 2 ^ 20) 0 0 0, true⟩
/-- One request of a placed layer of one tile whose codes stand in the shadow registers. -/
def reqF : Req :=
  { req0 with
    slot := 0, layer := 0, queue := 8, inp := tdNum 3 0 0 4 1 1 2 0 0 4 addr0 0 0 0,
    out := tdNum 6 0 0 4 1 1 2 0 0 16 (addr0 + 64) 0 0 0 }
def wy : State :=
  { ((((w0.setAx .activeMap 1 0 0).wr .TIL_STATUS_STATE tsServing 1 6).wr .TIL_EXTENT_ROWS_M1 3 1 6).wr .TIL_EXTENT_COLS_M1 3 1 6).updTile
      1 6 (fun x => { x with shadow := some 0 }) with
    placed := [⟨0, 0, 0, 0, 0, 1, 6, 3, 3⟩], jobs := [{ taskN task0 with slots := 1, grants := 1 }], reqs := [reqF], dt := 800 }
def fl0 : Flight := { what := .check, req := 0, sub := 0, codes := [64], drop := false, place := none, kept := none }

/-- A payload in memory that holds nothing is all zeros, and every nibble of it is a level. -/
theorem payload_met (s : State) (j : Job) (w : Nat) (hm : s.mem = []) (hj : j.staged = []) : (s.payloadOf j w).all w8xOk = true := by
  have hb : ∀ k, s.jobByte j k = 0 := by intro k; simp [State.jobByte, State.byte, hm, hj, SMap.get]
  have hz : ∀ n, ofLe ((List.range n).map (fun _ => (0 : Byte))) = 0 := by
    intro n
    induction n with
    | zero => rfl
    | succ n ih => rw [List.range_succ_eq_map]; simpa [ofLe, Function.comp_def] using ih
  have hn : ∀ r, s.tdRunNum j w r 0 0 = 0 := by intro r; unfold State.tdRunNum State.jobLoad; simp only [hb]; exact hz _
  refine List.all_eq_true.2 fun x hx => ?_
  obtain ⟨r, -, hr⟩ := List.mem_flatMap.1 hx
  obtain ⟨i, -, hi⟩ := List.mem_map.1 hr
  rw [hn, Nat.zero_div] at hi
  exact hi ▸ rfl

/-! ## Examples of the spec -/

/-- 05_formats_and_quantisation.md, "Example: E4M3 ties and saturation". -/
theorem test_e4m3_ties : (convert fE4M3 (.fin false (17 / 16))).code = 0x38 ∧ (convert fE4M3 (.fin false (19 / 16))).code = 0x3A ∧
    convert fE4M3 (.fin false 464) = ⟨0x7E, false, false⟩ ∧ convert fE4M3 (.fin false 470) = ⟨0x7E, true, false⟩ ∧
    convert fE4M3 (.fin false (1 / 1024)) = ⟨0, false, false⟩ := by decide +kernel

/-- 05_formats_and_quantisation.md, "Example: a derived scale, ties and saturations": the codes of x / σ. -/
theorem test_s8_ties : (convert fS8 (.fin false (7 / 2))).code = 4 ∧ (convert fS8 (.fin false (9 / 2))).code = 4 ∧
    convert fS8 (.fin true (3 / 2)) = ⟨254, false, false⟩ ∧ convert fS8 (.fin false (255 / 2)) = ⟨127, true, false⟩ ∧
    convert fS8 (.inf true) = ⟨129, true, false⟩ ∧ convert fS8 .nan = ⟨0, false, true⟩ := by decide +kernel

/-- The scale of the same example: maxima 3.2, 4.0, 3.6 and 2.8, K = 4, M = 1.5, POW2: 2⁻⁴. -/
theorem test_derived_scale : (ue8Round ((3 / 2) * 4 / 127)).code = 123 := by decide +kernel

/-- 04_conversion_and_hem.md, "Example: from column charge to output code": offset entry +2 on code 509, and 9.5 to even. -/
theorem test_hem_tie : residue 509 2 = -4 ∧ residue 517 0 = 5 ∧ (hemConv fS8 (.fin false (19 / 2))).code = 10 ∧
    hemConv fS8 (.fin false (8163 / 8)) = ⟨127, true, false⟩ := by decide +kernel

/-- 04_conversion_and_hem.md, "Example: a wide rerun": 521 and 77 make 1,051.625, which S32 holds as 269,216. -/
theorem test_wide_rerun : rerunVal (.fin false 521) (.fin false 77) = (.fin false (8413 / 8), false) ∧
    (hemConv fS32 (.fin false (8413 / 8))).code = 269216 := by decide +kernel

/-- 08_fentoska_instruction_reference.md, "Example: encoding STITCH": the word and its fields. -/
theorem test_stitch_word : insT 0x28 0 7 6 12 10 0xC010 = 0xA0001C6018A0C010 ∧ iOp 0xA0001C6018A0C010 = 0x28 ∧ iTd 0xA0001C6018A0C010 = 7 ∧
    iTa 0xA0001C6018A0C010 = 6 ∧ iGa 0xA0001C6018A0C010 = 12 ∧ iGb 0xA0001C6018A0C010 = 10 := by decide +kernel

/-- 07_fentoska_programming_model.md, "Example: encoding the frame": guard p2 negated, g7, g9, immediate -4. -/
theorem test_frame_word : iOp 0x40A13A7FFFFFFFFC = 0x10 ∧ iGp 0x40A13A7FFFFFFFFC = 2 ∧ iGn 0x40A13A7FFFFFFFFC = true ∧
    iSub 0x40A13A7FFFFFFFFC = 1 ∧ iD 0x40A13A7FFFFFFFFC = 7 ∧ iA 0x40A13A7FFFFFFFFC = 9 ∧ iImm38 0x40A13A7FFFFFFFFC = 2 ^ 38 - 4 := by
  decide +kernel

/-- 12_monitor_converters.md, "Example: a sense-bus check": codes 23,601 and 23,588 of VDD_ARR, whose divider is 2, average to about 0.900 V. -/
theorem test_monitor_mean : meanCode 23601 23588 = 23594 ∧ monValue 1 25 23594 = 900040 := by decide +kernel

/-- 16_clocks_power_and_startup.md, "Example: shedding a PX-880 to 200 W": throttle 889 ticks, duty 48. -/
theorem test_shed_px880 :
    let s := (((State.resetOf { Part.px220 with dies := 8 }).wr .GLB_CAPACITY_DIE_ONLINE 255).wr .PWR_SHED_BUDGET_WATTS 1600).wr .PWR_STAT_SHED_IN 1
    s.shedThrottle = 889 ∧ s.shedDutyOf 3 = 48 := by decide +kernel

/-! ## Ill-formed operands are refused -/

/-- A die beyond 7. -/
theorem test_wf_die : (Instr.periodMarker 8).wellFormed = false ∧ (Instr.periodMarker 7).wellFormed = true := by decide

/-- A tile beyond 1,663. -/
theorem test_wf_tile : (Instr.feederLoadDone 0 ⟨1664, Found.none⟩).wellFormed = false ∧ (Instr.feederLoadDone 7 ⟨1663, Found.none⟩).wellFormed = true := by decide

/-- A slot beyond 63. -/
theorem test_wf_slot : (Instr.seamDue 64).wellFormed = false ∧ (Instr.seamDue 63).wellFormed = true := by decide

/-- A function beyond 127. -/
theorem test_wf_fn : (Instr.mirFnMirroredWrite 128 ⟨⟨.pf, 0⟩, []⟩).wellFormed = false ∧
    (Instr.mirFnMirroredWrite 127 ⟨⟨.pf, 0⟩, []⟩).wellFormed = true := by decide

/-- VF 0 and VF 128 are no masters. -/
theorem test_wf_master : (Instr.glbCapacityLowRead (.vf 0)).wellFormed = false ∧ (Instr.glbCapacityLowRead (.vf 128)).wellFormed = false ∧
    (Instr.glbCapacityLowRead (.vf 127)).wellFormed = true := by decide

/-- A register takes at most 64 bits. -/
theorem test_wf_wr : (Instr.yokCtrlClear ⟨⟨.pf, 2 ^ 64⟩, []⟩).wellFormed = false ∧ (Instr.yokCtrlClear ⟨⟨.pf, 1⟩, []⟩).wellFormed = true := by decide

/-- A rival of an order is an order too. -/
theorem test_wf_order : (Instr.yokCtrlClear ⟨⟨.pf, 1⟩, [⟨.vf 0, 1⟩]⟩).wellFormed = false := by decide

/-- A bus write of no byte, of nine bytes, and of more data than bytes. -/
theorem test_wf_bus : (Instr.registerWrite ⟨⟨.pf, 0, 0, 0⟩, [], []⟩).wellFormed = false ∧ (Instr.registerWrite ⟨⟨.pf, 0, 9, 0⟩, [], []⟩).wellFormed = false ∧
    (Instr.registerWrite ⟨⟨.pf, 0, 4, 2 ^ 32⟩, [], []⟩).wellFormed = false ∧ (Instr.registerWrite ⟨⟨.pf, 0, 8, 2 ^ 64 - 1⟩, [], []⟩).wellFormed = true := by
  decide

/-- A data window read by VF 0. -/
theorem test_wf_access : (Instr.pktDataAccess (.read (.vf 0))).wellFormed = false ∧ (Instr.pktDataAccess (.read .pf)).wellFormed = true := by decide

/-- An 8-bit chain address. -/
theorem test_wf_tx : (Instr.lastStatus ⟨128, true, none⟩).wellFormed = false ∧ (Instr.lastStatus ⟨127, true, none⟩).wellFormed = true := by decide

/-- Task 64. -/
theorem test_wf_task : (Instr.nop { job := 7, task := 64 }).wellFormed = false ∧ (Instr.nop { job := 7, task := 63 }).wellFormed = true := by decide

/-- A sequence number of 17 bits. -/
theorem test_wf_hdr : (Instr.ackFlit ⟨65536, 0, true⟩).wellFormed = false ∧ (Instr.ackFlit ⟨65535, 65535, true⟩).wellFormed = true := by decide

/-! ## The signature of img0, in parts -/

/-- n rounds of ecMul: what is left of the scalar, the doubled point and the sum. -/
def ecRun : Nat → Nat → Option (Nat × Nat) → Option (Nat × Nat) → Nat × Option (Nat × Nat) × Option (Nat × Nat)
  | 0, k, q, acc => (k, q, acc)
  | n + 1, k, q, acc => ecRun n (k / 2) (ecAdd q q) (if k % 2 = 1 then ecAdd acc q else acc)

theorem ecMul_of_ecRun (m : Nat) : ∀ (n k : Nat) (q acc : Option (Nat × Nat)) (k' : Nat) (q' acc' : Option (Nat × Nat)),
    ecRun n k q acc = (k', q', acc') → ecMul (m + n) k q acc = ecMul m k' q' acc'
  | 0, _, _, _, _, _, _, h => by cases h; rfl
  | n + 1, _, _, _, _, _, _, h => ecMul_of_ecRun m n _ _ _ _ _ _ h

theorem ecdsaOk_of {qx qy r s digest w u1 u2 x y : Nat} {a b : Option (Nat × Nat)} (hc : onCurve qx qy = true)
    (hr : decide (1 ≤ r ∧ r < p384n ∧ 1 ≤ s ∧ s < p384n) = true) (hw : invMod p384n s = w) (h1 : digest * w % p384n = u1)
    (h2 : r * w % p384n = u2) (ha : ecMul 384 u1 p384G none = a) (hb : ecMul 384 u2 (some (qx, qy)) none = b)
    (hs : ecAdd a b = some (x, y)) (hx : (x % p384n == r) = true) : ecdsaOk qx qy r s digest = true := by
  subst hw h1 h2 ha hb
  unfold ecdsaOk
  simp only [hc, hr, hs, hx, Bool.and_self]

theorem test_sig_base_0 :
    ecRun 32 0xd868261b5fc9546006df15657549cd2e465d55fbf20554a876a7d4e49602a9e627d1a3f9a4973d52a2d309c4ff119147 (some (0xaa87ca22be8b05378eb1c71ef320ad746e1d3b628ba79b9859f741e082542a385502f25dbf55296c3a545e3872760ab7, 0x3617de4a96262c6f5d9e98bf9292dc29f8f41dbd289a147ce9da3113b5f0b8c00a60b1ce1d7e819d7a431d7c90ea0e5f))
      (none) =
      (0xd868261b5fc9546006df15657549cd2e465d55fbf20554a876a7d4e49602a9e627d1a3f9a4973d52a2d309c4, some (0xba2213c7ad62b8956272beeb51d258a2a5be804e0e29eed161a16216ee89fb8a45346c2d84439ac81ac3b9d675ef7ece, 0xa8fdb93c446d869e1c7edccc1056b3829132448edf5f1ec14759e13826deab8ddab5a0c08e055df0022346250328049b),
        some (0x24d2c69ef35634e35754d6d654239210c5f2bcedf9368cb2a402393d821df9afb176ed2980cf7f45472dd99701e49dda, 0x9c5c5ff233e0d1ebd7f52b3fd8fdd368f7a80fd892aa28f66fea939ddb68b97eefcd0b51ed40e4560c78b8859f0ec0ff)) := by
  decide +kernel

theorem test_sig_base_1 :
    ecRun 32 0xd868261b5fc9546006df15657549cd2e465d55fbf20554a876a7d4e49602a9e627d1a3f9a4973d52a2d309c4 (some (0xba2213c7ad62b8956272beeb51d258a2a5be804e0e29eed161a16216ee89fb8a45346c2d84439ac81ac3b9d675ef7ece, 0xa8fdb93c446d869e1c7edccc1056b3829132448edf5f1ec14759e13826deab8ddab5a0c08e055df0022346250328049b))
      (some (0x24d2c69ef35634e35754d6d654239210c5f2bcedf9368cb2a402393d821df9afb176ed2980cf7f45472dd99701e49dda, 0x9c5c5ff233e0d1ebd7f52b3fd8fdd368f7a80fd892aa28f66fea939ddb68b97eefcd0b51ed40e4560c78b8859f0ec0ff)) =
      (0xd868261b5fc9546006df15657549cd2e465d55fbf20554a876a7d4e49602a9e627d1a3f9a4973d52, some (0x79dc566510cc718ff348797e2cfe67c2fce93bf5f6f39bf74c1ac3d8cbae3ef92dd9cdedfa0f56d06ba5918d74d9642, 0xa64da09a5d9087bc89a8437e5c806f88626377708484b5f136275538892459a929f49d50cc51c42fa0ecd5d0c16bb523),
        some (0xcf67c4d8ec598d739ff6e6147476a41f7492548b42a770f63b31fd9fc7ea2528d7e34d5ab62b46d2f71053247384aa76, 0x74da85ef74b34ef3fc87edfcf5bf954bde717bebe13bc9be1b6acca17f20a9b60a177a3d0554cc9430887b70adb2b17c)) := by
  decide +kernel

theorem test_sig_base_2 :
    ecRun 32 0xd868261b5fc9546006df15657549cd2e465d55fbf20554a876a7d4e49602a9e627d1a3f9a4973d52 (some (0x79dc566510cc718ff348797e2cfe67c2fce93bf5f6f39bf74c1ac3d8cbae3ef92dd9cdedfa0f56d06ba5918d74d9642, 0xa64da09a5d9087bc89a8437e5c806f88626377708484b5f136275538892459a929f49d50cc51c42fa0ecd5d0c16bb523))
      (some (0xcf67c4d8ec598d739ff6e6147476a41f7492548b42a770f63b31fd9fc7ea2528d7e34d5ab62b46d2f71053247384aa76, 0x74da85ef74b34ef3fc87edfcf5bf954bde717bebe13bc9be1b6acca17f20a9b60a177a3d0554cc9430887b70adb2b17c)) =
      (0xd868261b5fc9546006df15657549cd2e465d55fbf20554a876a7d4e49602a9e627d1a3f9, some (0xf532389a060cbd1bd6e98b0d37ca7abc4360390918141b1a4b58808b3f8686a92c3e0c91558717db39c1b328d8ee21c9, 0xb9d2852cc3b38e696f04caa2de3a82babd22cfb2a2124163bc40ce5abe64360331ea31b1085a4e9a7a7e183923d86ecd),
        some (0x83ba47ff02c79099debef54dfbc3b3dfb79907c8ae84a05a0d0a171aa8c2f43ec26c8d6ba3d22c50e929020b2cb40b44, 0x2ad28561f33e2d01895cf742f31e0d98e606d95d54af62b9a82ee844ba15014d9ec1e8b0632b7b7261863c0c9b8c35d2)) := by
  decide +kernel

theorem test_sig_base_3 :
    ecRun 32 0xd868261b5fc9546006df15657549cd2e465d55fbf20554a876a7d4e49602a9e627d1a3f9 (some (0xf532389a060cbd1bd6e98b0d37ca7abc4360390918141b1a4b58808b3f8686a92c3e0c91558717db39c1b328d8ee21c9, 0xb9d2852cc3b38e696f04caa2de3a82babd22cfb2a2124163bc40ce5abe64360331ea31b1085a4e9a7a7e183923d86ecd))
      (some (0x83ba47ff02c79099debef54dfbc3b3dfb79907c8ae84a05a0d0a171aa8c2f43ec26c8d6ba3d22c50e929020b2cb40b44, 0x2ad28561f33e2d01895cf742f31e0d98e606d95d54af62b9a82ee844ba15014d9ec1e8b0632b7b7261863c0c9b8c35d2)) =
      (0xd868261b5fc9546006df15657549cd2e465d55fbf20554a876a7d4e49602a9e6, some (0xe10cb36d11cd506e23a42ea485d5a52411c2df652b7b03e92bb64e18287c9b53ea2b1df419bf5f4984a2ae350020362e, 0xd7e679724697d36352ec806a31d6ab0b425d781706cc84c07768fb7fe90ed2a464666b5536adb53ee5f50bfe2adaefc2),
        some (0x18c6fabd28ad5b45c3f945b3f1a16483e92a2f77ca63b780b3ddb4f53f584951f31dcd93f36e8f283df65bb30a0eb92f, 0xf02af1cb85e8f7331feb772839e057ee0390690778e6908fdae6c6db194ad214185f12b73cef9ee8c19219d94d2dbe94)) := by
  decide +kernel

theorem test_sig_base_4 :
    ecRun 32 0xd868261b5fc9546006df15657549cd2e465d55fbf20554a876a7d4e49602a9e6 (some (0xe10cb36d11cd506e23a42ea485d5a52411c2df652b7b03e92bb64e18287c9b53ea2b1df419bf5f4984a2ae350020362e, 0xd7e679724697d36352ec806a31d6ab0b425d781706cc84c07768fb7fe90ed2a464666b5536adb53ee5f50bfe2adaefc2))
      (some (0x18c6fabd28ad5b45c3f945b3f1a16483e92a2f77ca63b780b3ddb4f53f584951f31dcd93f36e8f283df65bb30a0eb92f, 0xf02af1cb85e8f7331feb772839e057ee0390690778e6908fdae6c6db194ad214185f12b73cef9ee8c19219d94d2dbe94)) =
      (0xd868261b5fc9546006df15657549cd2e465d55fbf20554a876a7d4e4, some (0x778bfe301d798ddd5f9507f0846e6f593d84e21e77d8d02f054cd79b9caf93b8511af0d367fec6ab8568960c8456b4da, 0xbe41e479a3ae9e76150686bf1ec658a737869c2f72f26ec8f7f6ea02f76431b9fca8c5befa735802fe97a16b1b8935ff),
        some (0xb5c63ba8f950a6c8178e693f1a8976c1eb8fc7515a55b1ede6ca0122900eb053fa62866573da325ea3c913837f67ad82, 0x4765ea02b621d02c4582d746ad7bbc8996d5d269201996f99bb64b7eaed1708255cdd2b6a563fed592cc38c6fd003196)) := by
  decide +kernel

theorem test_sig_base_5 :
    ecRun 32 0xd868261b5fc9546006df15657549cd2e465d55fbf20554a876a7d4e4 (some (0x778bfe301d798ddd5f9507f0846e6f593d84e21e77d8d02f054cd79b9caf93b8511af0d367fec6ab8568960c8456b4da, 0xbe41e479a3ae9e76150686bf1ec658a737869c2f72f26ec8f7f6ea02f76431b9fca8c5befa735802fe97a16b1b8935ff))
      (some (0xb5c63ba8f950a6c8178e693f1a8976c1eb8fc7515a55b1ede6ca0122900eb053fa62866573da325ea3c913837f67ad82, 0x4765ea02b621d02c4582d746ad7bbc8996d5d269201996f99bb64b7eaed1708255cdd2b6a563fed592cc38c6fd003196)) =
      (0xd868261b5fc9546006df15657549cd2e465d55fbf20554a8, some (0xc19e0b4c800119c440f7f9e706421279b42a31af8a3e297ddb2987894d10ddeaba065458a4f52d78a628b09aaa03bd53, 0x16f3fdbf0356b301e5a0191d1f5b77f6577a30eae3567af9c1c7cad135f6ebf2af68aa6de639d858822d0fc5e6c88c41),
        some (0x1c500d1041ec6d58d5a6c5867c3c57d9a40a5ab48585b223d058ce2fbb68d861015fe1e108ec8eb1378205d3ed216d54, 0xceb4f8f114869a503122673c6c003739ddfaeb0549899059553c71c72788d622f9c1d862a0a81f009aabfc326e50a150)) := by
  decide +kernel

theorem test_sig_base_6 :
    ecRun 32 0xd868261b5fc9546006df15657549cd2e465d55fbf20554a8 (some (0xc19e0b4c800119c440f7f9e706421279b42a31af8a3e297ddb2987894d10ddeaba065458a4f52d78a628b09aaa03bd53, 0x16f3fdbf0356b301e5a0191d1f5b77f6577a30eae3567af9c1c7cad135f6ebf2af68aa6de639d858822d0fc5e6c88c41))
      (some (0x1c500d1041ec6d58d5a6c5867c3c57d9a40a5ab48585b223d058ce2fbb68d861015fe1e108ec8eb1378205d3ed216d54, 0xceb4f8f114869a503122673c6c003739ddfaeb0549899059553c71c72788d622f9c1d862a0a81f009aabfc326e50a150)) =
      (0xd868261b5fc9546006df15657549cd2e465d55fb, some (0x64247c77848b8e4e2f1f10d1e589ff8b31e3d90a8c3782b829242bde81156ecfaa51cd7b51f9e5b661f040bec690ccc6, 0xc3b58cdee179a68093664f3bfbc4cd34e05e0653bf73456805dfc1996e22db4bb1cdeaa6331a0e134004d2f287e2519f),
        some (0x63556aa0492c5e0b484eae8ef36d712a41fb154bbc5d65d7f75111613f26a3b93e57ce7c26ceb64b24b0f0b8d6ace7d8, 0x948cb6bcbd9e4958c1f90f797e691d027aaed503bbfd7bf34e645eea9c860b89e8b0815542397362fede30b259a59c24)) := by
  decide +kernel

theorem test_sig_base_7 :
    ecRun 32 0xd868261b5fc9546006df15657549cd2e465d55fb (some (0x64247c77848b8e4e2f1f10d1e589ff8b31e3d90a8c3782b829242bde81156ecfaa51cd7b51f9e5b661f040bec690ccc6, 0xc3b58cdee179a68093664f3bfbc4cd34e05e0653bf73456805dfc1996e22db4bb1cdeaa6331a0e134004d2f287e2519f))
      (some (0x63556aa0492c5e0b484eae8ef36d712a41fb154bbc5d65d7f75111613f26a3b93e57ce7c26ceb64b24b0f0b8d6ace7d8, 0x948cb6bcbd9e4958c1f90f797e691d027aaed503bbfd7bf34e645eea9c860b89e8b0815542397362fede30b259a59c24)) =
      (0xd868261b5fc9546006df15657549cd2e, some (0xe7b3f42dcad3d10923eaf4cdedfb898d39acb8f22aaa34511af000f8cd3d0497da74bdf2bb0f6ca731efc1321a9bb0aa, 0x5a5d5c5ffc212920b18e3fba8615e7a5bbb25c8fc463e3b880a93ec7216b71d56f5911020e70a63398ca61b55e695394),
        some (0xab81ee44458fa29f6b89b2e3e58718e421f038d1eab7222cfd3c227c8ec56494244478518e6c7204569fb1efe53f10a5, 0x456250c7bc43e746eb09015796254620afbdd953b01573f34d79a2c8d22d5b94007931c9abadef4258427210a8b7f48a)) := by
  decide +kernel

theorem test_sig_base_8 :
    ecRun 32 0xd868261b5fc9546006df15657549cd2e (some (0xe7b3f42dcad3d10923eaf4cdedfb898d39acb8f22aaa34511af000f8cd3d0497da74bdf2bb0f6ca731efc1321a9bb0aa, 0x5a5d5c5ffc212920b18e3fba8615e7a5bbb25c8fc463e3b880a93ec7216b71d56f5911020e70a63398ca61b55e695394))
      (some (0xab81ee44458fa29f6b89b2e3e58718e421f038d1eab7222cfd3c227c8ec56494244478518e6c7204569fb1efe53f10a5, 0x456250c7bc43e746eb09015796254620afbdd953b01573f34d79a2c8d22d5b94007931c9abadef4258427210a8b7f48a)) =
      (0xd868261b5fc9546006df1565, some (0xb2d1055817cbaa12211905035f4972d7097da395a23096863d8b29dbd08848c2f33a450ad156f761e4bfc2c04905ca71, 0x354cd872c3c6cbd2237c0dba3cfd056bf82be8f52e6236c09b475d744ecf1a68e87ab07c6924666fddcebb55753ee324),
        some (0x7737a4ceb7623f694ecb7b256360d322ec8d12e6b26de4d30a0694ac5b2cd69868836bc9b780b3a6db4ed23b42a99743, 0x9000f10b26c0bc25cd5fb806f17274b2c6209aa2c4cd87f2a052d67b77be35efbbeccd373bc312abb7d8fce4c091f4a2)) := by
  decide +kernel

theorem test_sig_base_9 :
    ecRun 32 0xd868261b5fc9546006df1565 (some (0xb2d1055817cbaa12211905035f4972d7097da395a23096863d8b29dbd08848c2f33a450ad156f761e4bfc2c04905ca71, 0x354cd872c3c6cbd2237c0dba3cfd056bf82be8f52e6236c09b475d744ecf1a68e87ab07c6924666fddcebb55753ee324))
      (some (0x7737a4ceb7623f694ecb7b256360d322ec8d12e6b26de4d30a0694ac5b2cd69868836bc9b780b3a6db4ed23b42a99743, 0x9000f10b26c0bc25cd5fb806f17274b2c6209aa2c4cd87f2a052d67b77be35efbbeccd373bc312abb7d8fce4c091f4a2)) =
      (0xd868261b5fc95460, some (0x38174a006bfcf21e5f5449e75c7a9ba185dfb3833007a48289acc4c0b1666eaa1323feffba0f8b3d110162f2968b4a5f, 0xd637fbf692ee7c2ee0bcd7af2055ee909b795d801605976de6091c183a45ad1713f390d740cb718b9f7dc2544f0474fc),
        some (0xc4f5b5d698efa892ae786b0a48937db7b29df642c4c56cc76556b83558a22c570400cf390c5cc2947c8dabc88b6a392c, 0x909a01fdec6ddb9215808c78a3da6c444dd140d3f3d4ebfdf0fdb5d98280d341124f145482cb702592ad27cb72242a17)) := by
  decide +kernel

theorem test_sig_base_10 :
    ecRun 32 0xd868261b5fc95460 (some (0x38174a006bfcf21e5f5449e75c7a9ba185dfb3833007a48289acc4c0b1666eaa1323feffba0f8b3d110162f2968b4a5f, 0xd637fbf692ee7c2ee0bcd7af2055ee909b795d801605976de6091c183a45ad1713f390d740cb718b9f7dc2544f0474fc))
      (some (0xc4f5b5d698efa892ae786b0a48937db7b29df642c4c56cc76556b83558a22c570400cf390c5cc2947c8dabc88b6a392c, 0x909a01fdec6ddb9215808c78a3da6c444dd140d3f3d4ebfdf0fdb5d98280d341124f145482cb702592ad27cb72242a17)) =
      (0xd868261b, some (0x121ddf8c98286ca2e1a0ae1734e62f5980f7e38131fa2ac82c547f20f98f3f6ba205d8ff15754e8d7655aeeec3965d6c, 0x5459524ff1a7935899c6e5cbd84aee9092a91a35e9cee91371fcdbd2251ddb378e49391c5329d56362ec2e880205f0d8),
        some (0x48ebaf01a5d19b0af6d5585a2d1d3224bbb3cbc66bd979180586f51a88b9b1dbc38ca4fa634ac49f886553b5e2993d2b, 0x5398627031200dced4803e5db9e5d9ee743e342f36a45089db0f8e2160cf04e137f8bdfbe2e7bc1b4e3414c1ddbac69f)) := by
  decide +kernel

theorem test_sig_base_11 :
    ecRun 32 0xd868261b (some (0x121ddf8c98286ca2e1a0ae1734e62f5980f7e38131fa2ac82c547f20f98f3f6ba205d8ff15754e8d7655aeeec3965d6c, 0x5459524ff1a7935899c6e5cbd84aee9092a91a35e9cee91371fcdbd2251ddb378e49391c5329d56362ec2e880205f0d8))
      (some (0x48ebaf01a5d19b0af6d5585a2d1d3224bbb3cbc66bd979180586f51a88b9b1dbc38ca4fa634ac49f886553b5e2993d2b, 0x5398627031200dced4803e5db9e5d9ee743e342f36a45089db0f8e2160cf04e137f8bdfbe2e7bc1b4e3414c1ddbac69f)) =
      (0x0, some (0x7fbbe67cf514dae509e7ad61d6c96f1b9f1383e8a5127bf67eb2ff3937d205ceb499e34b12f8e1fad8ed2ff2a7dc885c, 0xc75541a0a3564622aebe5a2780b5e4a2a6509a52cc20642371038419011a1ce20ad078a216293457bfe7d204fbc853f),
        some (0xfb112758f4fa47be052faf8c9988ef6ca17ad159e6fa9997baa4b4a71e08f6c5193bfb694963fe989d987fc98a44b966, 0xc1a9363ed40fc512afc3f41baad73d7337b1b76e3fd9262b9e20e0ecff76ec0ddaaca6f086e6ca232d5783ec7f6fc475)) := by
  decide +kernel

theorem test_sig_key_0 :
    ecRun 32 0xb31b89d3747aa6e2de05b8d4e6a28e74ecf7ff98292f3c7b99088674206e4c7d6cd3aa089502ce0bef66bcb1217aaf37 (some (0x7ae9e1db1160794c70c1ef071be5191f6c66240f4608fbe8a44ecd36c3ed5db97500f2e4d84e3fb45850fd6f4303302b, 0xd8ac21444cd80d241538d8034b399a0dee3636eb5cb00b9499d061a571db0f14bb47ed79453948ed63f3a6ccbbf6e74f))
      (none) =
      (0xb31b89d3747aa6e2de05b8d4e6a28e74ecf7ff98292f3c7b99088674206e4c7d6cd3aa089502ce0bef66bcb1, some (0xb7bbccce4df672af750d8c6a639c700fbee96235154f6daafca83254a00b09491e1baed797edce9b16c8f722472a0cec, 0xc5a1adebf8b01e36f2cdde6c95b619bada650ea927738c69506f38e3958031660fe889c3673562253ea0c1c1443f06f9),
        some (0x3faa55c2f2e2bf6e900a47126fe8b421b057208ae2bcd6907c9bc0d857170e04e252a4d37dccf52c97c754b623bdc7a8, 0x1fa50540e887d6a9106c38c8e3b4cc28d3e9f6344a6c2cf7d4abd79e95b6313101a5289ebe276915d660be2723f3b220)) := by
  decide +kernel

theorem test_sig_key_1 :
    ecRun 32 0xb31b89d3747aa6e2de05b8d4e6a28e74ecf7ff98292f3c7b99088674206e4c7d6cd3aa089502ce0bef66bcb1 (some (0xb7bbccce4df672af750d8c6a639c700fbee96235154f6daafca83254a00b09491e1baed797edce9b16c8f722472a0cec, 0xc5a1adebf8b01e36f2cdde6c95b619bada650ea927738c69506f38e3958031660fe889c3673562253ea0c1c1443f06f9))
      (some (0x3faa55c2f2e2bf6e900a47126fe8b421b057208ae2bcd6907c9bc0d857170e04e252a4d37dccf52c97c754b623bdc7a8, 0x1fa50540e887d6a9106c38c8e3b4cc28d3e9f6344a6c2cf7d4abd79e95b6313101a5289ebe276915d660be2723f3b220)) =
      (0xb31b89d3747aa6e2de05b8d4e6a28e74ecf7ff98292f3c7b99088674206e4c7d6cd3aa089502ce0b, some (0xddf71af4ac3183db3d77ad533b053da7aea9b17ed47c0ee610fd418ddc7b33f26577591a2e052e64fe29446c5cc4d28d, 0xeee372675a7afefd1875a88a877e3cb3a0c6cc2e4e1301776a974ebd9e427ac53f01d379f9eccf53c43d80d1b0678aba),
        some (0x3becb2529970d7f7acdec5691a0f92552536357174c1fa5166e038125be678a8bc0584a1d0cc977ae3ae2ba42a5a2e6b, 0x483fe7453fbb25207bd3c9b449bc6ce6db1d54b27ef80e7394645feec92b747e550da70580a8baf374e1dfc44dd8d97f)) := by
  decide +kernel

theorem test_sig_key_2 :
    ecRun 32 0xb31b89d3747aa6e2de05b8d4e6a28e74ecf7ff98292f3c7b99088674206e4c7d6cd3aa089502ce0b (some (0xddf71af4ac3183db3d77ad533b053da7aea9b17ed47c0ee610fd418ddc7b33f26577591a2e052e64fe29446c5cc4d28d, 0xeee372675a7afefd1875a88a877e3cb3a0c6cc2e4e1301776a974ebd9e427ac53f01d379f9eccf53c43d80d1b0678aba))
      (some (0x3becb2529970d7f7acdec5691a0f92552536357174c1fa5166e038125be678a8bc0584a1d0cc977ae3ae2ba42a5a2e6b, 0x483fe7453fbb25207bd3c9b449bc6ce6db1d54b27ef80e7394645feec92b747e550da70580a8baf374e1dfc44dd8d97f)) =
      (0xb31b89d3747aa6e2de05b8d4e6a28e74ecf7ff98292f3c7b99088674206e4c7d6cd3aa08, some (0x7758c25bcf7d94b756aceb7790eed05c36521f5e1f5fe1e03116bcbfb43ed4124ef3c2aa15c842441bd7c03a1ab01e06, 0x3929de5069ad8fa51b8d625dce6550296ddcc9a55ba81482d3ceb7b8b5c32557f96e8d3fa94fa65fe6f2ec3ca436fb04),
        some (0x96307afa8e8904dc47b89f804030bff75a4231e21755acfb50b354b6c5cc4bfbe109739d39dd4e9af4d7b86dbd3468c8, 0x76eb72ce470ae1a7ebf358192a327efc0933945665ca9daf48c5421943bbec14d5c10835fb37972c5de75c05c8e2cd85)) := by
  decide +kernel

theorem test_sig_key_3 :
    ecRun 32 0xb31b89d3747aa6e2de05b8d4e6a28e74ecf7ff98292f3c7b99088674206e4c7d6cd3aa08 (some (0x7758c25bcf7d94b756aceb7790eed05c36521f5e1f5fe1e03116bcbfb43ed4124ef3c2aa15c842441bd7c03a1ab01e06, 0x3929de5069ad8fa51b8d625dce6550296ddcc9a55ba81482d3ceb7b8b5c32557f96e8d3fa94fa65fe6f2ec3ca436fb04))
      (some (0x96307afa8e8904dc47b89f804030bff75a4231e21755acfb50b354b6c5cc4bfbe109739d39dd4e9af4d7b86dbd3468c8, 0x76eb72ce470ae1a7ebf358192a327efc0933945665ca9daf48c5421943bbec14d5c10835fb37972c5de75c05c8e2cd85)) =
      (0xb31b89d3747aa6e2de05b8d4e6a28e74ecf7ff98292f3c7b99088674206e4c7d, some (0x604494b3f3f90653ec8b573ef374bff84d40f82b74d3738e36a88e57d0533ea3041bddd62f6f759fcce4c51045acee09, 0xef52f9e40f9c3c2116a609e0493552430b41da8df7046ba104358b68d1962fd5c1d6ac36971c1be355c1bc5edb1ec466),
        some (0x830e649bc2c95e7676d611758557192c10033212e5cdd679422158f431e227c064b46a0a84bc8c4b640b7edb568d26cf, 0x89fcb0f71eaa4003cb4932c5d8eb2f95c39ef3c723d01a7accbaf6fa47784fc33d10cb974fef10f6c727d989d9c6fe0d)) := by
  decide +kernel

theorem test_sig_key_4 :
    ecRun 32 0xb31b89d3747aa6e2de05b8d4e6a28e74ecf7ff98292f3c7b99088674206e4c7d (some (0x604494b3f3f90653ec8b573ef374bff84d40f82b74d3738e36a88e57d0533ea3041bddd62f6f759fcce4c51045acee09, 0xef52f9e40f9c3c2116a609e0493552430b41da8df7046ba104358b68d1962fd5c1d6ac36971c1be355c1bc5edb1ec466))
      (some (0x830e649bc2c95e7676d611758557192c10033212e5cdd679422158f431e227c064b46a0a84bc8c4b640b7edb568d26cf, 0x89fcb0f71eaa4003cb4932c5d8eb2f95c39ef3c723d01a7accbaf6fa47784fc33d10cb974fef10f6c727d989d9c6fe0d)) =
      (0xb31b89d3747aa6e2de05b8d4e6a28e74ecf7ff98292f3c7b99088674, some (0x7048fac6d636a9059f771138844148ec23146fa483813eccbd7077cd1e87e8fd670227f9e4fc7f208efce43c5bab3d70, 0x86927f8b54e214c78adb32e561545214f65c0075b023cc5ee5bd1e0473268ba512c1f9b815171ddabbeb267d18233d7a),
        some (0xf2081ccdcbe5fa75b7b2a6d02bb396a3c6a04b165ff3a2d61f3b16d805b81ba2d8b935895c0173d9e4ddc472a6f191cc, 0x4c378f1635c332917487d7f96ede278d29f840cc4beda04c75fb63c6b94d2ec34e087486cda51d7e589e8f79f31ff3bd)) := by
  decide +kernel

theorem test_sig_key_5 :
    ecRun 32 0xb31b89d3747aa6e2de05b8d4e6a28e74ecf7ff98292f3c7b99088674 (some (0x7048fac6d636a9059f771138844148ec23146fa483813eccbd7077cd1e87e8fd670227f9e4fc7f208efce43c5bab3d70, 0x86927f8b54e214c78adb32e561545214f65c0075b023cc5ee5bd1e0473268ba512c1f9b815171ddabbeb267d18233d7a))
      (some (0xf2081ccdcbe5fa75b7b2a6d02bb396a3c6a04b165ff3a2d61f3b16d805b81ba2d8b935895c0173d9e4ddc472a6f191cc, 0x4c378f1635c332917487d7f96ede278d29f840cc4beda04c75fb63c6b94d2ec34e087486cda51d7e589e8f79f31ff3bd)) =
      (0xb31b89d3747aa6e2de05b8d4e6a28e74ecf7ff98292f3c7b, some (0xa58041722b825f62a7dd2cc0100d83960917962c83bca31fc0ca01a43c021eac402d54ff19fc02718674ec74309adc55, 0xb267e7d57a1a1d215ba77b86dbf81b57011d2fb2317aa0fecb933e2bb15fefa5cfe03f2222cf3b0f55c16fd82f946e44),
        some (0x9df885e03e05d844acfa13ee0e2bb0d73989851c60ae074f4c4b9ac03abb590f8adab0baaaaf9c6734917fd3ef9e5906, 0xeca247f8fd6e8a97192f3841758fe64cdbd0300e885132e0dbc3cab64bbf909c746778b5c3f4c7cb8e8a3756f167b981)) := by
  decide +kernel

theorem test_sig_key_6 :
    ecRun 32 0xb31b89d3747aa6e2de05b8d4e6a28e74ecf7ff98292f3c7b (some (0xa58041722b825f62a7dd2cc0100d83960917962c83bca31fc0ca01a43c021eac402d54ff19fc02718674ec74309adc55, 0xb267e7d57a1a1d215ba77b86dbf81b57011d2fb2317aa0fecb933e2bb15fefa5cfe03f2222cf3b0f55c16fd82f946e44))
      (some (0x9df885e03e05d844acfa13ee0e2bb0d73989851c60ae074f4c4b9ac03abb590f8adab0baaaaf9c6734917fd3ef9e5906, 0xeca247f8fd6e8a97192f3841758fe64cdbd0300e885132e0dbc3cab64bbf909c746778b5c3f4c7cb8e8a3756f167b981)) =
      (0xb31b89d3747aa6e2de05b8d4e6a28e74ecf7ff98, some (0xf65070c073e352ddbaf72ea57aebb02eca7d3c6e5c9c6ac8d0575959e6eafc4e3e8ec499050b6fb55a4150ead50a8091, 0xee09b83c46b1c21fbc3eee0a0e78f4a99236adb9d3342ca600989fe251f77f185b4bc42171c8a6d9de7919ef9a9dc88e),
        some (0x988563bc343c800833607c29c3d210aa9581df30c57a8607c362c435a641d8963cb5f136116344f528857fd0fbc360ac, 0xe373574c9644abab73f194455dee6da0e9f2e373d6ed4c3d552d5aac9ce7535ee683730617953525c911a517dc7a54d0)) := by
  decide +kernel

theorem test_sig_key_7 :
    ecRun 32 0xb31b89d3747aa6e2de05b8d4e6a28e74ecf7ff98 (some (0xf65070c073e352ddbaf72ea57aebb02eca7d3c6e5c9c6ac8d0575959e6eafc4e3e8ec499050b6fb55a4150ead50a8091, 0xee09b83c46b1c21fbc3eee0a0e78f4a99236adb9d3342ca600989fe251f77f185b4bc42171c8a6d9de7919ef9a9dc88e))
      (some (0x988563bc343c800833607c29c3d210aa9581df30c57a8607c362c435a641d8963cb5f136116344f528857fd0fbc360ac, 0xe373574c9644abab73f194455dee6da0e9f2e373d6ed4c3d552d5aac9ce7535ee683730617953525c911a517dc7a54d0)) =
      (0xb31b89d3747aa6e2de05b8d4e6a28e74, some (0xfe68140b85acae7e7455830580c31127b32550bfe5f7ef2c042f23d4e81ac07c41cccc956197101ee4150a84834b990f, 0xc4d10d41e7c652602b58ee690eb9241bab3653815f4049dc324a4734b616a6558544b357aa77f60f949f5c343371158a),
        some (0xe14117d3bb7e0c6f5c36128f51d4eb712218ab7df2ec96bdaddc26bf393b17d77613d747eb0c72c3b352f53a05f9c287, 0xe12a8c53f78534e7f6194e045c510edbfd4e170a78a70a5bfe9ddb111b3907a0ace15fae0be4d4df8a4fe9a7337c52c0)) := by
  decide +kernel

theorem test_sig_key_8 :
    ecRun 32 0xb31b89d3747aa6e2de05b8d4e6a28e74 (some (0xfe68140b85acae7e7455830580c31127b32550bfe5f7ef2c042f23d4e81ac07c41cccc956197101ee4150a84834b990f, 0xc4d10d41e7c652602b58ee690eb9241bab3653815f4049dc324a4734b616a6558544b357aa77f60f949f5c343371158a))
      (some (0xe14117d3bb7e0c6f5c36128f51d4eb712218ab7df2ec96bdaddc26bf393b17d77613d747eb0c72c3b352f53a05f9c287, 0xe12a8c53f78534e7f6194e045c510edbfd4e170a78a70a5bfe9ddb111b3907a0ace15fae0be4d4df8a4fe9a7337c52c0)) =
      (0xb31b89d3747aa6e2de05b8d4, some (0x3b62250b743e1cd5cc160f9968e5d112f18c80eb8f9f0e875929d3dcc95f1c81a2d1bed8ec7f7489ac04a9518ec45b4c, 0x1522ea8eaeb7013413f026b53ec07a6060cf984272e1e9391197bc418e2303bfa706baf92d1d5f053b1dc8ab0138ede8),
        some (0x153436a66109316801ba5613d9cceaafb8afdeda9faee6a21399917f8b71d99ee960f0ba4777598027985cb12a91fdd6, 0x25f980b44f04513d01a17ef7ba591785230bf4e918b0b8d9cf696f542bbd314150a39dc6460dd7d28cf0910384418ce)) := by
  decide +kernel

theorem test_sig_key_9 :
    ecRun 32 0xb31b89d3747aa6e2de05b8d4 (some (0x3b62250b743e1cd5cc160f9968e5d112f18c80eb8f9f0e875929d3dcc95f1c81a2d1bed8ec7f7489ac04a9518ec45b4c, 0x1522ea8eaeb7013413f026b53ec07a6060cf984272e1e9391197bc418e2303bfa706baf92d1d5f053b1dc8ab0138ede8))
      (some (0x153436a66109316801ba5613d9cceaafb8afdeda9faee6a21399917f8b71d99ee960f0ba4777598027985cb12a91fdd6, 0x25f980b44f04513d01a17ef7ba591785230bf4e918b0b8d9cf696f542bbd314150a39dc6460dd7d28cf0910384418ce)) =
      (0xb31b89d3747aa6e2, some (0x735422d2673b73f2cc654e8bfefc572093337c9cacb1a47fe435fd6271c2fd5fe19f2d25912bc060674782b3262732d9, 0x57b54f8b5e8c21abc7e5408bf23b2304eff12d3df54545c6611181f181e95dc73a7a72a75f2131c915437b0c2091a9e3),
        some (0xcc0f38be834e91650222ebebeadfeb9ace2e72e37ee8c4b9567bebab746ac5b3e3f533e93f90a827522e2f2f5f2df1cb, 0x497e9a706e7ab6ae0d8d238a76b9a5d92b9a2570eac01873d095c15696b641570aa2f887d4ff0175c105cb7e28ae3481)) := by
  decide +kernel

theorem test_sig_key_10 :
    ecRun 32 0xb31b89d3747aa6e2 (some (0x735422d2673b73f2cc654e8bfefc572093337c9cacb1a47fe435fd6271c2fd5fe19f2d25912bc060674782b3262732d9, 0x57b54f8b5e8c21abc7e5408bf23b2304eff12d3df54545c6611181f181e95dc73a7a72a75f2131c915437b0c2091a9e3))
      (some (0xcc0f38be834e91650222ebebeadfeb9ace2e72e37ee8c4b9567bebab746ac5b3e3f533e93f90a827522e2f2f5f2df1cb, 0x497e9a706e7ab6ae0d8d238a76b9a5d92b9a2570eac01873d095c15696b641570aa2f887d4ff0175c105cb7e28ae3481)) =
      (0xb31b89d3, some (0xd25a76eeca642305248ffd6a9ae4f5ff19840dec837fd59177de6d03a41e5bb5720a9881136329a49e4637410432ed75, 0x5f594d45022eab53610a45c3d30ff2ef14ede91ec6e8c569a6670ae798304ad78122ee88265998ac2c7ae5e787c15ab9),
        some (0xf061f03cd57319d5c6b255b9400b0d33f11952e64be78156f6c3749497f24300753bfb5b3feedbc4b398f1452dcf9b75, 0x8a24037a7c22d5fb3a4adc21aae7c1c2fe948edf89aece46055d3ddc580ddda08a34a231de70af25a1b941c260591e87)) := by
  decide +kernel

theorem test_sig_key_11 :
    ecRun 32 0xb31b89d3 (some (0xd25a76eeca642305248ffd6a9ae4f5ff19840dec837fd59177de6d03a41e5bb5720a9881136329a49e4637410432ed75, 0x5f594d45022eab53610a45c3d30ff2ef14ede91ec6e8c569a6670ae798304ad78122ee88265998ac2c7ae5e787c15ab9))
      (some (0xf061f03cd57319d5c6b255b9400b0d33f11952e64be78156f6c3749497f24300753bfb5b3feedbc4b398f1452dcf9b75, 0x8a24037a7c22d5fb3a4adc21aae7c1c2fe948edf89aece46055d3ddc580ddda08a34a231de70af25a1b941c260591e87)) =
      (0x0, some (0x7ebc156b26bcb329325c3a3090a6f634974f2c29448dfa8c497467820bf261d9a61d55b54263929f27afa462774d2bb9, 0x4a98ff84af24c4229ff0347fd59442d2d031ef947f07ce144fbb078661cf1e6a49d9f4f70fc6f56cc0665824fe950275),
        some (0xb852b29623149cc815ac13d4cda89b4fe6dbb7d990dcd67ce3c3041139934d57302cf9887b3047a9dfffe6d183f3d6c4, 0x733971e26eec06cea8c64ba67858ac340ee132e8703ea936f98108898f68ae37009a8949282d67d1f3d7967c70118117)) := by
  decide +kernel

theorem test_sig_base :
    ecMul 384 0xd868261b5fc9546006df15657549cd2e465d55fbf20554a876a7d4e49602a9e627d1a3f9a4973d52a2d309c4ff119147 (some (0xaa87ca22be8b05378eb1c71ef320ad746e1d3b628ba79b9859f741e082542a385502f25dbf55296c3a545e3872760ab7, 0x3617de4a96262c6f5d9e98bf9292dc29f8f41dbd289a147ce9da3113b5f0b8c00a60b1ce1d7e819d7a431d7c90ea0e5f)) none =
      some (0xfb112758f4fa47be052faf8c9988ef6ca17ad159e6fa9997baa4b4a71e08f6c5193bfb694963fe989d987fc98a44b966, 0xc1a9363ed40fc512afc3f41baad73d7337b1b76e3fd9262b9e20e0ecff76ec0ddaaca6f086e6ca232d5783ec7f6fc475) :=
  (ecMul_of_ecRun 352 32 _ _ _ _ _ _ test_sig_base_0).trans <| (ecMul_of_ecRun 320 32 _ _ _ _ _ _ test_sig_base_1).trans <| 
  (ecMul_of_ecRun 288 32 _ _ _ _ _ _ test_sig_base_2).trans <| (ecMul_of_ecRun 256 32 _ _ _ _ _ _ test_sig_base_3).trans <| 
  (ecMul_of_ecRun 224 32 _ _ _ _ _ _ test_sig_base_4).trans <| (ecMul_of_ecRun 192 32 _ _ _ _ _ _ test_sig_base_5).trans <| 
  (ecMul_of_ecRun 160 32 _ _ _ _ _ _ test_sig_base_6).trans <| (ecMul_of_ecRun 128 32 _ _ _ _ _ _ test_sig_base_7).trans <| 
  (ecMul_of_ecRun 96 32 _ _ _ _ _ _ test_sig_base_8).trans <| (ecMul_of_ecRun 64 32 _ _ _ _ _ _ test_sig_base_9).trans <| 
  (ecMul_of_ecRun 32 32 _ _ _ _ _ _ test_sig_base_10).trans <| (ecMul_of_ecRun 0 32 _ _ _ _ _ _ test_sig_base_11).trans <| rfl

theorem test_sig_key :
    ecMul 384 0xb31b89d3747aa6e2de05b8d4e6a28e74ecf7ff98292f3c7b99088674206e4c7d6cd3aa089502ce0bef66bcb1217aaf37 (some (0x7ae9e1db1160794c70c1ef071be5191f6c66240f4608fbe8a44ecd36c3ed5db97500f2e4d84e3fb45850fd6f4303302b, 0xd8ac21444cd80d241538d8034b399a0dee3636eb5cb00b9499d061a571db0f14bb47ed79453948ed63f3a6ccbbf6e74f)) none =
      some (0xb852b29623149cc815ac13d4cda89b4fe6dbb7d990dcd67ce3c3041139934d57302cf9887b3047a9dfffe6d183f3d6c4, 0x733971e26eec06cea8c64ba67858ac340ee132e8703ea936f98108898f68ae37009a8949282d67d1f3d7967c70118117) :=
  (ecMul_of_ecRun 352 32 _ _ _ _ _ _ test_sig_key_0).trans <| (ecMul_of_ecRun 320 32 _ _ _ _ _ _ test_sig_key_1).trans <| 
  (ecMul_of_ecRun 288 32 _ _ _ _ _ _ test_sig_key_2).trans <| (ecMul_of_ecRun 256 32 _ _ _ _ _ _ test_sig_key_3).trans <| 
  (ecMul_of_ecRun 224 32 _ _ _ _ _ _ test_sig_key_4).trans <| (ecMul_of_ecRun 192 32 _ _ _ _ _ _ test_sig_key_5).trans <| 
  (ecMul_of_ecRun 160 32 _ _ _ _ _ _ test_sig_key_6).trans <| (ecMul_of_ecRun 128 32 _ _ _ _ _ _ test_sig_key_7).trans <| 
  (ecMul_of_ecRun 96 32 _ _ _ _ _ _ test_sig_key_8).trans <| (ecMul_of_ecRun 64 32 _ _ _ _ _ _ test_sig_key_9).trans <| 
  (ecMul_of_ecRun 32 32 _ _ _ _ _ _ test_sig_key_10).trans <| (ecMul_of_ecRun 0 32 _ _ _ _ _ _ test_sig_key_11).trans <| rfl

theorem test_sig_digest : imageDigest img0 = 0xf3bbe3e56cef1832b2c75db89b5994b671ecd12c04f5fa701d3354da25130f4661c0f9478b90a4719332449672a5172a := by
  decide +kernel

theorem test_sig_fields :
    beAt (img0.drop (img0.length - 256)) 0 48 = 0x7ae9e1db1160794c70c1ef071be5191f6c66240f4608fbe8a44ecd36c3ed5db97500f2e4d84e3fb45850fd6f4303302b ∧
    beAt (img0.drop (img0.length - 256)) 48 48 = 0xd8ac21444cd80d241538d8034b399a0dee3636eb5cb00b9499d061a571db0f14bb47ed79453948ed63f3a6ccbbf6e74f ∧
    beAt (img0.drop (img0.length - 256)) 96 48 = 0x8568a35a879b0d506132993c6d911d3136a731409ab8c5d26fd7a01e81425281453a6c6adf4cd2f38c77a5042815ea48 ∧
    beAt (img0.drop (img0.length - 256)) 144 48 = 0x3c92023b25a6053898d4dab476ee0806fffac7964ae6b371b71cff98ef76e70fc69469139ab8ba39e7a59655702d651f := by
  decide +kernel

theorem test_sig_inverse : invMod p384n 0x3c92023b25a6053898d4dab476ee0806fffac7964ae6b371b71cff98ef76e70fc69469139ab8ba39e7a59655702d651f = 0x2683ec476fa9813c2c8eb30dda1aad369428194e2f8f6c70b1ac5a79e68509b724a2d1b5e9e2ea77229718fe42e2b0b8 := by
  decide +kernel

theorem test_sig_sum : ecAdd (some (0xfb112758f4fa47be052faf8c9988ef6ca17ad159e6fa9997baa4b4a71e08f6c5193bfb694963fe989d987fc98a44b966, 0xc1a9363ed40fc512afc3f41baad73d7337b1b76e3fd9262b9e20e0ecff76ec0ddaaca6f086e6ca232d5783ec7f6fc475))
      (some (0xb852b29623149cc815ac13d4cda89b4fe6dbb7d990dcd67ce3c3041139934d57302cf9887b3047a9dfffe6d183f3d6c4, 0x733971e26eec06cea8c64ba67858ac340ee132e8703ea936f98108898f68ae37009a8949282d67d1f3d7967c70118117)) =
      some (0x8568a35a879b0d506132993c6d911d3136a731409ab8c5d26fd7a01e81425281453a6c6adf4cd2f38c77a5042815ea48, 0xe85ac9cdeed95c699ca799b9c730b120f39454a5373ea1f6c64c4319553a389a28f46b7a4617ce87b26bde1769573a09) := by
  decide +kernel

/-- The signature of img0 passes step 3 of R291. -/
theorem test_sig_img0 : verify3 img0 = true := by
  obtain ⟨h0, h1, h2, h3⟩ := test_sig_fields
  change ecdsaOk (beAt (img0.drop (img0.length - 256)) 0 48) (beAt (img0.drop (img0.length - 256)) 48 48)
    (beAt (img0.drop (img0.length - 256)) 96 48) (beAt (img0.drop (img0.length - 256)) 144 48) (imageDigest img0) = true
  rw [h0, h1, h2, h3, test_sig_digest]
  exact ecdsaOk_of (by decide +kernel) (by decide +kernel) test_sig_inverse (u1 := 0xd868261b5fc9546006df15657549cd2e465d55fbf20554a876a7d4e49602a9e627d1a3f9a4973d52a2d309c4ff119147) (u2 := 0xb31b89d3747aa6e2de05b8d4e6a28e74ecf7ff98292f3c7b99088674206e4c7d6cd3aa089502ce0bef66bcb1217aaf37)
    (by decide +kernel) (by decide +kernel) test_sig_base test_sig_key test_sig_sum (by decide +kernel)

/-! ## Hypotheses that are met -/

/-- Queue pairs: enabling, draining, freeing, and the two doorbells: enable by the PF: within its quota, pair e being free, log2 sizes 4 to 12 make entry e ACTIVE with its counts at zero, bound to pair e. -/
theorem test_met_QueuePairRegisters_1 :
    ∃ (s : State) (fn : Nat) (e : Nat) (o : Order), Alone o ∧ ownFn o.w.by' = fn ∧ s.standby fn = false ∧ fn = 0 ∧ s.qp e = none ∧ e < entryCount fn ∧
      s.rd .QP_STAT_STATE fn e = 0 ∧ 4 ≤ o.w.v / 16 % 16 ∧ o.w.v / 16 % 16 ≤ 12 ∧ 4 ≤ o.w.v % 16 ∧ o.w.v % 16 ≤ 12 ∧ s.held fn resQP < s.quota fn resQP :=
  ⟨w0, 0, 4095, ⟨⟨.pf, 0xC4⟩, []⟩, by decide +kernel⟩

/-- Queue pairs: enabling, draining, freeing, and the two doorbells: enable by a VF: the same, bound to the lowest free pair. -/
theorem test_met_QueuePairRegisters_2 :
    ∃ (s : State) (fn : Nat) (e : Nat) (o : Order) (q : Nat), Alone o ∧ ownFn o.w.by' = fn ∧ s.standby fn = false ∧ 0 < fn ∧ findLow 4096 (fun q =>
      (s.qp q).isNone) = some q ∧ e < entryCount fn ∧ s.rd .QP_STAT_STATE fn e = 0 ∧ 4 ≤ o.w.v / 16 % 16 ∧ o.w.v / 16 % 16 ≤ 12 ∧ 4 ≤ o.w.v % 16 ∧ o.w.v
      % 16 ≤ 12 ∧ s.held fn resQP < s.quota fn resQP :=
  ⟨(w0.wr .FNQ_Q0_QP 4 127).setQp 0 (some ⟨0, 0, 0, 0, 0, none⟩), 127, 895, ⟨⟨.vf 127, 0xC4⟩, []⟩, 1, by decide +kernel⟩

/-- Queue pairs: enabling, draining, freeing, and the two doorbells: enable over the quota, or with no free pair: the entry stays as it is and QP_STAT.CODE is REJECTED_QUOTA. -/
theorem test_met_QueuePairRegisters_3 :
    ∃ (s : State) (fn : Nat) (e : Nat) (o : Order), Alone o ∧ ownFn o.w.by' = fn ∧ s.standby fn = false ∧ (fn = 0 → s.qp e = none) ∧ e < entryCount fn
      ∧ s.rd .QP_STAT_STATE fn e = 0 ∧ 4 ≤ o.w.v / 16 % 16 ∧ o.w.v / 16 % 16 ≤ 12 ∧ 4 ≤ o.w.v % 16 ∧ o.w.v % 16 ≤ 12 ∧ s.quota fn resQP ≤ s.held fn
      resQP :=
  ⟨w0.wr .FNQ_Q0_QP 0, 0, 4095, ⟨⟨.pf, 0xC4⟩, []⟩, by decide +kernel⟩

/-- Queue pairs: enabling, draining, freeing, and the two doorbells: disable: the pair drains; its fetched commands that are not running and its jobs that have not committed leave. -/
theorem test_met_QueuePairRegisters_4 :
    ∃ (s : State) (fn : Nat) (e : Nat) (o : Order) (q : Nat), Alone o ∧ ownFn o.w.by' = fn ∧ s.standby fn = false ∧ s.foreignEntry fn e = false ∧
      s.pairOf fn e = some q ∧ s.rd .QP_STAT_STATE fn e = 1 :=
  ⟨(({ wc 0 0 with jobs := [job0] }.setQp 3 (some ⟨0, 3, 5, 4, 1, none⟩)).wr .QP_STAT_STATE 1 0 3).wr .QP_CFG_ENABLE 1 0 3, 0, 3, ⟨⟨.pf, 0⟩, []⟩, 3,
    by decide +kernel⟩

/-- Queue pairs: enabling, draining, freeing, and the two doorbells: disable by the PF of an entry whose pair belongs to a VF: refused, and nothing of the pair changes. -/
theorem test_met_QueuePairRegisters_5 :
    ∃ (s : State) (fn : Nat) (e : Nat) (o : Order), Alone o ∧ ownFn o.w.by' = fn ∧ s.standby fn = false ∧ s.foreignEntry fn e = true :=
  ⟨w0.setQp 3 (some ⟨5, 0, 0, 0, 0, none⟩), 0, 3, ⟨⟨.pf, 0⟩, []⟩, by decide +kernel⟩

/-- Queue pairs: enabling, draining, freeing, and the two doorbells: drain end: with no command outstanding a draining pair becomes DISABLED and is free. -/
theorem test_met_QueuePairRegisters_6 :
    ∃ (s : State) (fn : Nat) (e : Nat) (o : Order) (q : Nat) (p : QpSt), Alone o ∧ ownFn o.w.by' = fn ∧ s.standby fn = false ∧ s.qp q = some p ∧
      p.outstanding = 0 ∧ s.rd .QP_STAT_STATE p.fn p.entry = 2 :=
  ⟨(w0.setQp 3 (some ⟨0, 3, 5, 5, 0, none⟩)).wr .QP_STAT_STATE 2 0 3, 0, 0, ⟨⟨.pf, 1⟩, []⟩, 3, ⟨0, 3, 5, 5, 0, none⟩, by decide +kernel⟩

/-- Queue pairs: enabling, draining, freeing, and the two doorbells: submission doorbell: an index of the ring, at or past the tail, is taken. -/
theorem test_met_QueuePairRegisters_7 :
    ∃ (s : State) (fn : Nat) (e : Nat) (o : Order), Alone o ∧ ownFn o.w.by' = fn ∧ s.standby fn = false ∧ s.rd .QP_STAT_STATE fn e = 1 ∧ o.w.v < 2 ^
      s.rd .QP_CFG_SQLOG2 fn e ∧ o.w.v < 4096 ∧ (s.rd .QP_SQTAIL_INDEX fn e + 2 ^ s.rd .QP_CFG_SQLOG2 fn e - s.rd .QP_STAT_SQHEAD fn e) % 2 ^
      s.rd .QP_CFG_SQLOG2 fn e ≤ (o.w.v + 2 ^ s.rd .QP_CFG_SQLOG2 fn e - s.rd .QP_STAT_SQHEAD fn e) % 2 ^ s.rd .QP_CFG_SQLOG2 fn e :=
  ⟨((w0.setQp 3 (some ⟨0, 3, 5, 5, 0, none⟩)).wr .QP_STAT_STATE 1 0 3).wr .QP_CFG_SQLOG2 4 0 3, 0, 3, ⟨⟨.pf, 15⟩, []⟩, by decide +kernel⟩

/-- Queue pairs: enabling, draining, freeing, and the two doorbells: submission doorbell: an index outside the ring puts the pair in ERROR with cause 1. -/
theorem test_met_QueuePairRegisters_8 :
    ∃ (s : State) (fn : Nat) (e : Nat) (o : Order), Alone o ∧ ownFn o.w.by' = fn ∧ s.standby fn = false ∧ s.rd .QP_STAT_STATE fn e = 1 ∧ 2 ^
      s.rd .QP_CFG_SQLOG2 fn e ≤ o.w.v :=
  ⟨((w0.setQp 3 (some ⟨0, 3, 5, 5, 0, none⟩)).wr .QP_STAT_STATE 1 0 3).wr .QP_CFG_SQLOG2 4 0 3, 0, 3, ⟨⟨.pf, 16⟩, []⟩, by decide +kernel⟩

/-- Queue pairs: enabling, draining, freeing, and the two doorbells: submission doorbell: an index before the tail puts the pair in ERROR with cause 3. -/
theorem test_met_QueuePairRegisters_9 :
    ∃ (s : State) (fn : Nat) (e : Nat) (o : Order), Alone o ∧ ownFn o.w.by' = fn ∧ s.standby fn = false ∧ s.rd .QP_STAT_STATE fn e = 1 ∧ o.w.v < 2 ^
      s.rd .QP_CFG_SQLOG2 fn e ∧ (o.w.v + 2 ^ s.rd .QP_CFG_SQLOG2 fn e - s.rd .QP_STAT_SQHEAD fn e) % 2 ^ s.rd .QP_CFG_SQLOG2 fn e <
      (s.rd .QP_SQTAIL_INDEX fn e + 2 ^ s.rd .QP_CFG_SQLOG2 fn e - s.rd .QP_STAT_SQHEAD fn e) % 2 ^ s.rd .QP_CFG_SQLOG2 fn e :=
  ⟨(((w0.setQp 3 (some ⟨0, 3, 5, 5, 0, none⟩)).wr .QP_STAT_STATE 1 0 3).wr .QP_CFG_SQLOG2 4 0 3).wr .QP_SQTAIL_INDEX 5 0 3, 0, 3, ⟨⟨.pf, 4⟩, []⟩,
    by decide +kernel⟩

/-- Queue pairs: enabling, draining, freeing, and the two doorbells: completion doorbell: an index that does not pass the completions written is taken. -/
theorem test_met_QueuePairRegisters_10 :
    ∃ (s : State) (fn : Nat) (e : Nat) (o : Order) (q : Nat), Alone o ∧ ownFn o.w.by' = fn ∧ s.standby fn = false ∧ s.pairOf fn e = some q ∧
      s.rd .QP_STAT_STATE fn e = 1 ∧ o.w.v < 2 ^ s.rd .QP_CFG_CQLOG2 fn e ∧ o.w.v < 4096 ∧ (o.w.v + 2 ^ s.rd .QP_CFG_CQLOG2 fn e - s.rd .QP_CQHEAD_INDEX
      fn e) % 2 ^ s.rd .QP_CFG_CQLOG2 fn e ≤ s.unread q :=
  ⟨((w0.setQp 3 (some ⟨0, 3, 5, 5, 0, none⟩)).wr .QP_STAT_STATE 1 0 3).wr .QP_CFG_CQLOG2 4 0 3, 0, 3, ⟨⟨.pf, 5⟩, []⟩, 3, by decide +kernel⟩

/-- How a command enters the block: descriptors fetched, parked and eligible: a well-formed descriptor that its function may issue, with AT not in the future, is fetched: the head advances and the command joins the fetched ones. -/
theorem test_met_CommandIntake_1 :
    ∃ (s : State) (q : Nat) (p : QpSt) (b : BitVec 512), s.qp q = some p ∧ s.rd .QP_STAT_STATE p.fn p.entry = 1 ∧ s.rd .QP_STAT_SQHEAD p.fn p.entry ≠
      s.rd .QP_SQTAIL_INDEX p.fn p.entry ∧ s.rd .QP_CFG_SQLOG2 p.fn p.entry ≤ 12 ∧ p.outstanding + 1 < 2 ^ s.rd .QP_CFG_CQLOG2 p.fn p.entry ∧
      s.rd .MIR_FN_ROLE 0 p.fn < 2 ∧ s.ax .handing p.fn = 0 ∧ s.ax .pcieDown = 0 ∧ descWellFormed b.toNat = true ∧ (p.fn = 0 ∨ pfOnly (fromByte b.toNat
      0 1) = false) ∧ s.rd .START_REPORT_STATE ≠ 2 ∧ fromByte b.toNat 8 8 ≤ s.now :=
  ⟨((((w0.setQp 3 (some ⟨0, 3, 5, 5, 0, none⟩)).wr .QP_STAT_STATE 1 0 3).wr .QP_CFG_SQLOG2 4 0 3).wr .QP_CFG_CQLOG2 4 0 3).wr .QP_SQTAIL_INDEX 1 0 3,
    3, ⟨0, 3, 5, 5, 0, none⟩, 0, by decide +kernel⟩

/-- How a command enters the block: descriptors fetched, parked and eligible: one that is not well-formed is fetched and leaves at once: it joins no list. -/
theorem test_met_CommandIntake_2 :
    ∃ (s : State) (q : Nat) (p : QpSt) (b : BitVec 512), s.qp q = some p ∧ s.rd .QP_STAT_STATE p.fn p.entry = 1 ∧ s.rd .QP_STAT_SQHEAD p.fn p.entry ≠
      s.rd .QP_SQTAIL_INDEX p.fn p.entry ∧ p.outstanding + 1 < 2 ^ s.rd .QP_CFG_CQLOG2 p.fn p.entry ∧ s.rd .MIR_FN_ROLE 0 p.fn < 2 ∧ s.ax .handing p.fn
      = 0 ∧ s.ax .pcieDown = 0 ∧ s.rd .QP_CFG_SQLOG2 p.fn p.entry ≤ 12 ∧ descWellFormed b.toNat = false :=
  ⟨((((w0.setQp 3 (some ⟨0, 3, 5, 5, 0, none⟩)).wr .QP_STAT_STATE 1 0 3).wr .QP_CFG_SQLOG2 4 0 3).wr .QP_CFG_CQLOG2 4 0 3).wr .QP_SQTAIL_INDEX 1 0 3,
    3, ⟨0, 3, 5, 5, 0, none⟩, 0xFF#512, by decide +kernel⟩

/-- How a command enters the block: descriptors fetched, parked and eligible: one other than JOB_SUBMIT whose AT lies ahead is parked while fewer than 1,024 are. -/
theorem test_met_CommandIntake_3 :
    ∃ (s : State) (q : Nat) (p : QpSt) (b : BitVec 512), s.qp q = some p ∧ s.rd .QP_STAT_STATE p.fn p.entry = 1 ∧ s.rd .QP_STAT_SQHEAD p.fn p.entry ≠
      s.rd .QP_SQTAIL_INDEX p.fn p.entry ∧ p.outstanding + 1 < 2 ^ s.rd .QP_CFG_CQLOG2 p.fn p.entry ∧ s.rd .MIR_FN_ROLE 0 p.fn < 2 ∧ s.ax .handing p.fn
      = 0 ∧ s.ax .pcieDown = 0 ∧ descWellFormed b.toNat = true ∧ (p.fn = 0 ∨ pfOnly (fromByte b.toNat 0 1) = false) ∧ s.rd .START_REPORT_STATE ≠ 2 ∧
      fromByte b.toNat 0 1 ≠ opJobSubmit ∧ s.now < fromByte b.toNat 8 8 ∧ s.parkedCount < 1024 :=
  ⟨((((w0.setQp 3 (some ⟨0, 3, 5, 5, 0, none⟩)).wr .QP_STAT_STATE 1 0 3).wr .QP_CFG_SQLOG2 4 0 3).wr .QP_CFG_CQLOG2 4 0 3).wr .QP_SQTAIL_INDEX 1 0 3,
    3, ⟨0, 3, 5, 5, 0, none⟩, BitVec.ofNat 512 (256 ^ 8), by decide +kernel⟩

/-- How a command enters the block: descriptors fetched, parked and eligible: a descriptor that cannot be read puts the pair in ERROR with cause 2. -/
theorem test_met_CommandIntake_4 :
    ∃ (s : State) (q : Nat) (p : QpSt) (e : HostErr), s.qp q = some p ∧ s.rd .QP_STAT_STATE p.fn p.entry = 1 ∧ s.rd .QP_STAT_SQHEAD p.fn p.entry ≠
      s.rd .QP_SQTAIL_INDEX p.fn p.entry ∧ p.outstanding + 1 < 2 ^ s.rd .QP_CFG_CQLOG2 p.fn p.entry ∧ s.rd .MIR_FN_ROLE 0 p.fn < 2 ∧ s.ax .handing p.fn
      = 0 ∧ s.ax .pcieDown = 0 :=
  ⟨((((w0.setQp 3 (some ⟨0, 3, 5, 5, 0, none⟩)).wr .QP_STAT_STATE 1 0 3).wr .QP_CFG_SQLOG2 4 0 3).wr .QP_CFG_CQLOG2 4 0 3).wr .QP_SQTAIL_INDEX 1 0 3,
    3, ⟨0, 3, 5, 5, 0, none⟩, .abort, by decide +kernel⟩

/-- How a command enters the block: descriptors fetched, parked and eligible: at AT, a parked command is eligible. -/
theorem test_met_CommandIntake_5 :
    ∃ (s : State) (q : Nat) (c : Cmd), c ∈ s.cmds ∧ c.st = .parked ∧ c.at' ≤ s.now :=
  ⟨{ w0 with cmds := [{ cmd0 0 0 with st := .parked }] }, 0, { cmd0 0 0 with st := .parked }, by decide +kernel⟩

/-- How a command enters the block: descriptors fetched, parked and eligible: at AT, a parked job waits for the dispatcher. -/
theorem test_met_CommandIntake_6 :
    ∃ (s : State) (q : Nat) (j : Job), j ∈ s.jobs ∧ j.st = .parked ∧ j.at' ≤ s.now :=
  ⟨{ w0 with jobs := [{ job0 with st := .parked }] }, 0, { job0 with st := .parked }, by decide +kernel⟩

/-- Host commands on jobs and programs: NOP. -/
theorem test_met_JobAndProgramCommands_1 :
    ∃ (s : State) (id : Nat) (c : Cmd), s.readyCmd id opNop = some c :=
  ⟨wc opNop 0, 7, cmd0 opNop 0, by decide +kernel⟩

/-- Host commands on jobs and programs: JOB_SUBMIT that passes its checks, with AT past or room to park: the job joins the jobs with the grants of its function, and the command leaves (its completion is the job's). -/
theorem test_met_JobAndProgramCommands_2 :
    ∃ (s : State) (id : Nat) (c : Cmd), s.readyCmd id opJobSubmit = some c ∧ s.submitCheck (s.started c) = none ∧ ((s.started c).at' ≤ s.now ∨
      s.parkedCount < 1024) :=
  ⟨{ wc opJobSubmit (256 ^ 16 + 256 ^ 24) with progs := [prog0 false] }, 7, cmd0 opJobSubmit (256 ^ 16 + 256 ^ 24), by decide +kernel⟩

/-- Host commands on jobs and programs: JOB_SUBMIT that fails a check completes with its status. -/
theorem test_met_JobAndProgramCommands_3 :
    ∃ (s : State) (id : Nat) (c : Cmd) (st : Nat), s.readyCmd id opJobSubmit = some c ∧ s.submitCheck (s.started c) = some st :=
  ⟨wc opJobSubmit 0, 7, cmd0 opJobSubmit 0, stMalformed, by decide +kernel⟩

/-- Host commands on jobs and programs: JOB_ABORT of a job of the function, or by the PF: the job ends with ABORTED_BY_HOST and the command completes with OK. -/
theorem test_met_JobAndProgramCommands_4 :
    ∃ (s : State) (id : Nat) (c : Cmd) (j : Job), s.readyCmd id opJobAbort = some c ∧ s.job ((s.started c).b 16 8) = some j ∧ ((s.started c).fn = 0 ∨
      j.fn = (s.started c).fn) ∧ j.st ≠ .ackWait :=
  ⟨{ wc opJobAbort (7 * 256 ^ 16) with jobs := [job0] }, 7, cmd0 opJobAbort (7 * 256 ^ 16), job0, by decide +kernel⟩

/-- Host commands on jobs and programs: JOB_ABORT of no job: OK with result 1. -/
theorem test_met_JobAndProgramCommands_5 :
    ∃ (s : State) (id : Nat) (c : Cmd), s.readyCmd id opJobAbort = some c ∧ s.job ((s.started c).b 16 8) = none :=
  ⟨wc opJobAbort (7 * 256 ^ 16), 7, cmd0 opJobAbort (7 * 256 ^ 16), by decide +kernel⟩

/-- Host commands on jobs and programs: PROGRAM_UNLOAD of a program that no job runs: it leaves. -/
theorem test_met_JobAndProgramCommands_6 :
    ∃ (s : State) (id : Nat) (c : Cmd) (p : Prog), s.readyCmd id opProgUnload = some c ∧ s.progs.find? (fun p => p.handle == (s.started c).b 16 2 &&
      p.fn == (s.started c).fn && !p.unloading) = some p ∧ s.jobs.any (fun j => j.handle == p.handle) = false :=
  ⟨{ wc opProgUnload (256 ^ 16) with progs := [prog0 false] }, 7, cmd0 opProgUnload (256 ^ 16), prog0 false, by decide +kernel⟩

/-- Host commands on jobs and programs: PROGRAM_UNLOAD of one that a job runs: it is marked and stays. -/
theorem test_met_JobAndProgramCommands_7 :
    ∃ (s : State) (id : Nat) (c : Cmd) (p : Prog), s.readyCmd id opProgUnload = some c ∧ s.progs.find? (fun p => p.handle == (s.started c).b 16 2 &&
      p.fn == (s.started c).fn && !p.unloading) = some p ∧ s.jobs.any (fun j => j.handle == p.handle) = true :=
  ⟨{ wc opProgUnload (256 ^ 16) with progs := [prog0 false], jobs := [{ job0 with handle := 1 }] }, 7, cmd0 opProgUnload (256 ^ 16), prog0 false,
    by decide +kernel⟩

/-- Host commands on jobs and programs: a program being unloaded leaves once no job runs it. -/
theorem test_met_JobAndProgramCommands_8 :
    ∃ (s : State) (id : Nat) (c : Cmd) (p : Prog), s.prog p.handle = some p ∧ p.unloading = true ∧ s.jobs.any (fun j => j.handle == p.handle) = false :=
  ⟨{ w0 with progs := [prog0 true] }, 0, cmd0 0 0, prog0 true, by decide +kernel⟩

/-- What the host commands on resources do: RES_ALLOC of feed queues within the quota: the lowest free run, answered as the result. -/
theorem test_met_ResourceCommands_1 :
    ∃ (s : State) (id : Nat) (c : Cmd) (q : Nat), s.readyCmd id opResAlloc = some c ∧ (s.started c).b 16 1 = 1 ∧ (s.started c).b 17 1 = 0xFF ∧ bit
      ((s.started c).b 18 1) 0 = false ∧ 0 < (s.started c).b 20 4 ∧ s.onlineDies.isEmpty = false ∧ s.held (s.started c).fn 2 + (s.started c).b 20 4 ≤
      s.quota (s.started c).fn 2 ∧ s.freeQueues ((s.started c).b 20 4) = some q :=
  ⟨wc opResAlloc (256 ^ 16 + 255 * 256 ^ 17 + 8192 * 256 ^ 20), 7, cmd0 opResAlloc (256 ^ 16 + 255 * 256 ^ 17 + 8192 * 256 ^ 20), 0,
    by decide +kernel⟩

/-- What the host commands on resources do: RES_ALLOC of banks of one die: the lowest free run, answered with its die. -/
theorem test_met_ResourceCommands_2 :
    ∃ (s : State) (id : Nat) (c : Cmd) (b : Nat), s.readyCmd id opResAlloc = some c ∧ (s.started c).b 16 1 = 2 ∧ s.online ((s.started c).b 17 1) =
      true ∧ (s.started c).b 17 1 < 8 ∧ 0 < (s.started c).b 20 4 ∧ (s.started c).b 20 4 ≤ 80 ∧ s.rdb .BNK_STAT_EXPERT ((s.started c).b 17 1) = false ∧
      s.held (s.started c).fn 3 + (s.started c).b 20 4 ≤ s.quota (s.started c).fn 3 ∧ s.freeBanks ((s.started c).b 17 1) ((s.started c).b 20 4) = some b :=
  ⟨wc opResAlloc (2 * 256 ^ 16 + 256 ^ 17 + 80 * 256 ^ 20), 7, cmd0 opResAlloc (2 * 256 ^ 16 + 256 ^ 17 + 80 * 256 ^ 20), 0, by decide +kernel⟩

/-- What the host commands on resources do: RES_ALLOC of pages of one die: the lowest free run, answered with its die. -/
theorem test_met_ResourceCommands_3 :
    ∃ (s : State) (id : Nat) (c : Cmd) (p : Nat), s.readyCmd id opResAlloc = some c ∧ (s.started c).b 16 1 = 3 ∧ s.online ((s.started c).b 17 1) =
      true ∧ (s.started c).b 17 1 < 8 ∧ bit ((s.started c).b 18 1) 0 = false ∧ 0 < (s.started c).b 20 4 ∧ s.held (s.started c).fn 4 + (s.started c).b 20
      4 ≤ s.quota (s.started c).fn 4 ∧ s.freePages ((s.started c).b 17 1) ((s.started c).b 20 4) = some p :=
  ⟨wc opResAlloc (3 * 256 ^ 16 + 256 ^ 17 + 80 * 256 ^ 20), 7, cmd0 opResAlloc (3 * 256 ^ 16 + 256 ^ 17 + 80 * 256 ^ 20), 0, by decide +kernel⟩

/-- What the host commands on resources do: RES_FREE of held feed queues. -/
theorem test_met_ResourceCommands_4 :
    ∃ (s : State) (id : Nat) (c : Cmd), s.readyCmd id opResFree = some c ∧ (s.started c).b 16 1 = 1 ∧ 0 < (s.started c).b 20 4 ∧ s.covers (s.started
      c).fn 1 0 ((s.started c).b 24 4) ((s.started c).b 20 4) = true :=
  ⟨{ wc opResFree (256 ^ 16 + 4 * 256 ^ 20 + 8 * 256 ^ 24) with allocs := [⟨0, 1, 0, 4, 16⟩] }, 7, cmd0 opResFree (256 ^ 16 + 4 * 256 ^ 20 + 8 * 256 ^
    24), by decide +kernel⟩

/-- What the host commands on resources do: RES_FREE of held banks of a die whose banks firmware manages. -/
theorem test_met_ResourceCommands_5 :
    ∃ (s : State) (id : Nat) (c : Cmd), s.readyCmd id opResFree = some c ∧ (s.started c).b 16 1 = 2 ∧ ((s.started c).b 17 1 = 0xFF ∨ (s.started c).b
      17 1 = bits ((s.started c).b 24 4) 10 8) ∧ 0 < (s.started c).b 20 4 ∧ s.covers (s.started c).fn 2 (bits ((s.started c).b 24 4) 10 8) (bits
      ((s.started c).b 24 4) 7 0) ((s.started c).b 20 4) = true ∧ s.rdb .BNK_STAT_EXPERT (bits ((s.started c).b 24 4) 10 8) = false :=
  ⟨{ wc opResFree (2 * 256 ^ 16 + 255 * 256 ^ 17 + 4 * 256 ^ 20 + 257 * 256 ^ 24) with allocs := [⟨0, 2, 1, 1, 16⟩] }, 7, cmd0 opResFree (2 * 256 ^ 16
    + 255 * 256 ^ 17 + 4 * 256 ^ 20 + 257 * 256 ^ 24), by decide +kernel⟩

/-- What the host commands on resources do: RES_FREE of held pages. -/
theorem test_met_ResourceCommands_6 :
    ∃ (s : State) (id : Nat) (c : Cmd), s.readyCmd id opResFree = some c ∧ (s.started c).b 16 1 = 3 ∧ ((s.started c).b 17 1 = 0xFF ∨ (s.started c).b
      17 1 = bits ((s.started c).b 24 4) 31 29) ∧ 0 < (s.started c).b 20 4 ∧ s.covers (s.started c).fn 3 (bits ((s.started c).b 24 4) 31 29) (bits
      ((s.started c).b 24 4) 22 0) ((s.started c).b 20 4) = true :=
  ⟨{ wc opResFree (3 * 256 ^ 16 + 256 ^ 17 + 4 * 256 ^ 20 + (2 ^ 29 + 5) * 256 ^ 24) with allocs := [⟨0, 3, 1, 1, 16⟩] }, 7, cmd0 opResFree (3 * 256 ^
    16 + 256 ^ 17 + 4 * 256 ^ 20 + (2 ^ 29 + 5) * 256 ^ 24), by decide +kernel⟩

/-- What the host commands on resources do: BANK_HOST of held banks of a die whose banks firmware manages: they go to the host window or to the sequencer of the function. -/
theorem test_met_ResourceCommands_7 :
    ∃ (s : State) (id : Nat) (c : Cmd), s.readyCmd id opBankHost = some c ∧ 0 < (s.started c).b 21 1 ∧ s.covers (s.started c).fn 2 ((s.started c).b 17
      1) ((s.started c).b 20 1) ((s.started c).b 21 1) = true ∧ s.rdb .BNK_STAT_EXPERT ((s.started c).b 17 1) = false :=
  ⟨{ wc opBankHost (256 ^ 17 + 256 ^ 18 + 256 ^ 20 + 2 * 256 ^ 21) with allocs := [⟨0, 2, 1, 1, 2⟩] }, 7, cmd0 opBankHost (256 ^ 17 + 256 ^ 18 + 256 ^
    20 + 2 * 256 ^ 21), by decide +kernel⟩

/-- What the host commands on resources do: EVICT of a VF with scope 0: no job of it stays but those that have committed, and the command has left. -/
theorem test_met_ResourceCommands_8 :
    ∃ (s : State) (id : Nat) (c : Cmd), s.readyCmd id opEvict = some c ∧ 0 < (s.started c).b 16 1 ∧ (s.started c).b 16 1 ≤ 127 ∧ (s.started c).b 17 1
      = 0 ∧ (s.started c).id = c.id ∧ s.qps.any (fun e => e.2.any (fun p => p.evict == some c.id)) = false :=
  ⟨{ wc opEvict (5 * 256 ^ 16) with jobs := [{ job0 with fn := 5 }] }, 7, cmd0 opEvict (5 * 256 ^ 16), by decide +kernel⟩

/-- What the host commands on resources do: EVICT of a VF with scope 1 or 2: no job of it stays but those that have committed, and the command runs until what it took has drained. -/
theorem test_met_ResourceCommands_9 :
    ∃ (s : State) (id : Nat) (c : Cmd), s.readyCmd id opEvict = some c ∧ 0 < (s.started c).b 16 1 ∧ (s.started c).b 16 1 ≤ 127 ∧ 1 ≤ (s.started c).b
      17 1 ∧ (s.started c).b 17 1 ≤ 2 ∧ (s.started c).id = c.id :=
  ⟨({ wc opEvict (5 * 256 ^ 16 + 2 * 256 ^ 17) with jobs := [{ job0 with fn := 5 }] }.setQp 9 (some ⟨5, 0, 5, 4, 1, none⟩)).wr .QP_STAT_STATE 1 5 0,
    7, cmd0 opEvict (5 * 256 ^ 16 + 2 * 256 ^ 17), by decide +kernel⟩

/-- What the host commands on resources do: when the last pair that an EVICT took has drained and no bank of the function is being zeroed, the command leaves. -/
theorem test_met_ResourceCommands_10 :
    ∃ (s : State) (id : Nat) (c : Cmd) (q : Nat) (p : QpSt), c ∈ s.cmds ∧ c.st = .running ∧ c.opcode = opEvict ∧ s.qp q = some p ∧ p.outstanding = 0 ∧
      s.rd .QP_STAT_STATE p.fn p.entry = 2 ∧ (s.setQp q none).evicted c = true :=
  ⟨({ wc opEvict (5 * 256 ^ 16 + 2 * 256 ^ 17) with cmds := [{ cmd0 opEvict (5 * 256 ^ 16 + 2 * 256 ^ 17) with st := .running }] }.setQp 9 (some ⟨5,
    0, 5, 5, 0, some 7⟩)).wr .QP_STAT_STATE 2 5 0, 0, { cmd0 opEvict (5 * 256 ^ 16 + 2 * 256 ^ 17) with st := .running }, 9, ⟨5, 0, 5, 5, 0, some 7⟩,
    by decide +kernel⟩

/-- Quotas, grants, resets and BAR2 accesses of functions: a quota within its greatest value is taken (queue pairs, feed queues, banks, pages, power share, real-time share). -/
theorem test_met_FunctionsAndTenancy_1 :
    ∃ (s : State) (fn : Nat) (k : Nat) (o : Order), fn < 128 ∧ Alone o ∧ 1 ≤ k ∧ k ≤ 6 ∧ o.w.v ≤ s.quotaMax fn k ∧ s.standby fn = false :=
  ⟨w0, 127, 6, ⟨⟨.pf, 65535⟩, []⟩, by decide +kernel⟩

/-- Quotas, grants, resets and BAR2 accesses of functions: a grant is set or cleared; a job that has not started loses one that is cleared. -/
theorem test_met_FunctionsAndTenancy_2 :
    ∃ (s : State) (fn : Nat) (m : Nat) (o : Order), fn < 128 ∧ Alone o ∧ m < 64 ∧ s.standby fn = false :=
  ⟨{ w0.wr .FNQ_GRANT_SLOT (2 ^ 63) 127 with jobs := [{ job0 with fn := 127, grants := 2 ^ 63 + 1 }] }, 127, 63, ⟨⟨.pf, 0⟩, []⟩, by decide +kernel⟩

/-- Quotas, grants, resets and BAR2 accesses of functions: a function-level reset of a VF leaves it no command, program or job. -/
theorem test_met_FunctionsAndTenancy_3 :
    ∃ (s : State) (fn : Nat), fn < 128 ∧ fn ≠ 0 :=
  ⟨{ wc 0 0 with jobs := [job0, { job0 with fn := 127, id := 8 }] }, 127, by decide +kernel⟩

/-- Quotas, grants, resets and BAR2 accesses of functions: a hot reset leaves no function any. -/
theorem test_met_FunctionsAndTenancy_4 :
    ∃ (s : State) (fn : Nat), fn < 128 :=
  ⟨{ wc 0 0 with jobs := [job0, { job0 with fn := 127, id := 8 }] }, 0, by decide +kernel⟩

/-- Quotas, grants, resets and BAR2 accesses of functions: a BAR2 write that the checks let through to bytes that are not poisoned reaches memory, whatever else the memories give. -/
theorem test_met_FunctionsAndTenancy_5 :
    ∃ (s : State) (fn : Nat) (b : Nat) (n : Nat) (v : Nat) (a : Nat) (m : Found), fn < 128 ∧ 1 ≤ n ∧ n ≤ 8 ∧ b < 2 ^ 36 ∧ s.bar2Addr fn b n true =
      some a ∧ (s.meets m [(a, n)]).poisoned a n = false :=
  ⟨(((w0.wr .MEM_CAP_DATA_MIB 1024).wr .BAR2_AP_BASE 16384 0 63).wr .BAR2_AP_VALID 1 0 63), 0, 2 ^ 36 - 2 ^ 30, 8, 77, 2 ^ 44, Found.none,
    by decide +kernel⟩

/-- Quotas, grants, resets and BAR2 accesses of functions: a BAR2 write of a whole granule of a bank reaches it whatever it held. -/
theorem test_met_FunctionsAndTenancy_6 :
    ∃ (s : State) (fn : Nat) (b : Nat) (v : Nat) (a : Nat) (m : Found), fn < 128 ∧ b < 2 ^ 36 ∧ s.bar2Addr fn b 8 true = some a ∧ devRegion a = 0 ∧ a
      % 8 = 0 :=
  ⟨{ ((w0.wr .BAR2_AP_BASE 0 0 63).wr .BAR2_AP_VALID 1 0 63).wr .BNK_OWNER_CUR_KIND ownHostWindow 0 0 with poison := [(0, true)] }, 0, 2 ^ 36 - 2 ^
    30, 77, 0, ⟨[], [0], [], none, [], []⟩, by decide +kernel⟩

/-- Quotas, grants, resets and BAR2 accesses of functions: a BAR2 read that they let through of bytes that are not poisoned returns the bytes. -/
theorem test_met_FunctionsAndTenancy_7 :
    ∃ (s : State) (fn : Nat) (b : Nat) (n : Nat) (a : Nat) (m : Found), fn < 128 ∧ 1 ≤ n ∧ n ≤ 8 ∧ b < 2 ^ 36 ∧ s.bar2Addr fn b n false = some a ∧
      (s.meets m [(a, n)]).poisoned a n = false :=
  ⟨(((w0.wr .MEM_CAP_DATA_MIB 1024).wr .BAR2_AP_BASE 16384 0 63).wr .BAR2_AP_VALID 1 0 63), 0, 2 ^ 36 - 2 ^ 30, 8, 2 ^ 44, Found.none,
    by decide +kernel⟩

/-- Quotas, grants, resets and BAR2 accesses of functions: a BAR2 read of poisoned bytes returns ones. -/
theorem test_met_FunctionsAndTenancy_8 :
    ∃ (s : State) (fn : Nat) (b : Nat) (n : Nat) (a : Nat) (m : Found), fn < 128 ∧ 1 ≤ n ∧ n ≤ 8 ∧ b < 2 ^ 36 ∧ s.bar2Addr fn b n false = some a ∧
      (s.meets m [(a, n)]).poisoned a n = true :=
  ⟨{ (((w0.wr .MEM_CAP_DATA_MIB 1024).wr .BAR2_AP_BASE 16384 0 63).wr .BAR2_AP_VALID 1 0 63) with poison := [(2 ^ 44, true)] }, 0, 2 ^ 36 - 2 ^ 30, 8,
    2 ^ 44, Found.none, by decide +kernel⟩

/-- Quotas, grants, resets and BAR2 accesses of functions: a BAR2 read that they refuse returns ones and is counted. -/
theorem test_met_FunctionsAndTenancy_9 :
    ∃ (s : State) (fn : Nat) (b : Nat) (n : Nat) (m : Found), fn < 128 ∧ 1 ≤ n ∧ n ≤ 8 ∧ b < 2 ^ 36 ∧ s.bar2Addr fn b n false = none :=
  ⟨w0, 127, 2 ^ 36 - 8, 8, Found.none, by decide +kernel⟩

/-- Quotas, grants, resets and BAR2 accesses of functions: a BAR2 write that they refuse is counted and changes no memory. -/
theorem test_met_FunctionsAndTenancy_10 :
    ∃ (s : State) (fn : Nat) (b : Nat) (n : Nat) (v : Nat) (m : Found), fn < 128 ∧ 1 ≤ n ∧ n ≤ 8 ∧ b < 2 ^ 36 ∧ s.bar2Addr fn b n true = none :=
  ⟨w0, 127, 2 ^ 36 - 8, 8, 5, Found.none, by decide +kernel⟩

/-- Event rings and MSI-X: the consumed count, the moderation time and unmasking: EVR_HEAD. -/
theorem test_met_RingsAndInterrupts_1 :
    ∃ (s : State) (fn : Nat) (vec : Nat) (o : Order), fn < 128 ∧ Alone o ∧ s.standby fn = false :=
  ⟨w0, 127, 0, ⟨⟨.pf, 2 ^ 32 - 1⟩, []⟩, by decide +kernel⟩

/-- Event rings and MSI-X: the consumed count, the moderation time and unmasking: moderation time. -/
theorem test_met_RingsAndInterrupts_2 :
    ∃ (s : State) (fn : Nat) (vec : Nat) (u : Nat × Nat × Nat), fn < 128 ∧ (s.ring fn).unannounced.find? (fun u => u.1 == vec) = some u ∧ u.2.2 + 1000
      * s.rd .EVR_MOD_TIME fn ≤ s.now ∧ s.ax .msixOff fn = 0 ∧ s.rd .MSIX_CTRL_MASK fn vec = 0 :=
  ⟨{ (w0.wr .MSIX_CTRL_MASK 0 127 15).setRing 127 ⟨[], 0, 0, [(15, 2, 0)]⟩ with dt := 8000000 }, 127, 15, (15, 2, 0), by decide +kernel⟩

/-- Event rings and MSI-X: the consumed count, the moderation time and unmasking: unmask with nothing pending. -/
theorem test_met_RingsAndInterrupts_3 :
    ∃ (s : State) (fn : Nat) (vec : Nat) (o : Order), fn < 128 ∧ Alone o ∧ vec < 16 ∧ bit (s.rd .MSIX_PBA_PEND fn) vec = false :=
  ⟨w0, 127, 15, ⟨⟨.pf, 1⟩, []⟩, by decide +kernel⟩

/-- Event rings and MSI-X: the consumed count, the moderation time and unmasking: unmask with a pending message. -/
theorem test_met_RingsAndInterrupts_4 :
    ∃ (s : State) (fn : Nat) (vec : Nat) (o : Order), fn < 128 ∧ Alone o ∧ vec < 16 ∧ bit (s.rd .MSIX_PBA_PEND fn) vec = true ∧ s.ax .msixOff fn = 0 :=
  ⟨w0.wr .MSIX_PBA_PEND 0x8000 127, 127, 15, ⟨⟨.pf, 1⟩, []⟩, by decide +kernel⟩

/-- Image loads, evictions and publisher keys: IMAGE_LOAD whose header and key pass, without MAY_EVICT and with room on a home die: it runs. -/
theorem test_met_ImagesAndKeys_1 :
    ∃ (s : State) (id : Nat) (c : Cmd) (head : List Byte) (sig : List Byte) (d : Nat), s.readyCmd id opImageLoad = some c ∧ verify1 head sig
      ((s.started c).b 24 8) = true ∧ s.verify2 head sig = true ∧ bit ((s.started c).b 32 1) 0 = false ∧ s.homeFor ((s.started c).b 24 8) = some d :=
  ⟨wk opImageLoad (704 * 256 ^ 24), 7, cmd0 opImageLoad (704 * 256 ^ 24), img0.take 192, img0.drop 448, 0, by decide +kernel⟩

/-- Image loads, evictions and publisher keys: the end of a load whose bytes pass every check: the image is in the store. -/
theorem test_met_ImagesAndKeys_2 :
    ∃ (s : State) (id : Nat) (c : Cmd) (b : List Byte) (l : Load), s.cmds.find? (fun k => k.id == id && k.st == .running) = some c ∧ s.loads.find?
      (fun k => k.id == id) = some l ∧ b.length = l.bytes ∧ verify1 (b.take 192) (b.drop (b.length - 256)) l.bytes = true ∧ s.verify2 (b.take 192)
      (b.drop (b.length - 256)) = true ∧ verify3 b = true ∧ verify4 b = true :=
  ⟨{ wk opImageLoad 0 with cmds := [{ cmd0 opImageLoad 0 with st := .running }], loads := [⟨7, 1, 704⟩] }, 7,
    { cmd0 opImageLoad 0 with st := .running }, img0, ⟨7, 1, 704⟩, by and_intros <;> first | (with_reducible exact test_sig_img0) | decide +kernel⟩

/-- Image loads, evictions and publisher keys: IMAGE_EVICT of an image that nothing reads. -/
theorem test_met_ImagesAndKeys_3 :
    ∃ (s : State) (id : Nat) (c : Cmd), s.readyCmd id opImageEvict = some c ∧ (s.image ((s.started c).b 16 1)).isSome = true ∧ s.imageBusy ((s.started
      c).b 16 1) = false :=
  ⟨{ wc opImageEvict 0 with images := [image0] }, 7, cmd0 opImageEvict 0, by decide +kernel⟩

/-- Image loads, evictions and publisher keys: KEY_ENROL of an entry that holds nothing and is locked on no online die locks its page on every online die. -/
theorem test_met_ImagesAndKeys_4 :
    ∃ (s : State) (id : Nat) (c : Cmd) (h : BitVec 384), s.readyCmd id opKeyEnrol = some c ∧ (s.started c).b 16 1 ≤ 7 ∧ s.onlineDies.any (fun d =>
      s.pkt d (2 + (s.started c).b 16 1) 48 != 0 || s.pageLocked d (2 + (s.started c).b 16 1)) = false :=
  ⟨wc opKeyEnrol (7 * 256 ^ 16), 7, cmd0 opKeyEnrol (7 * 256 ^ 16), 0, by decide +kernel⟩

/-- Image loads, evictions and publisher keys: KEY_REVOKE while the page of the revocations is locked on no die: the key is revoked on every online one. -/
theorem test_met_ImagesAndKeys_5 :
    ∃ (s : State) (id : Nat) (c : Cmd), s.readyCmd id opKeyRevoke = some c ∧ (s.started c).b 16 1 ≤ 7 ∧ s.dies.any (fun d => s.pageLocked d 10) =
      false ∧ s.part.dies ≤ 8 :=
  ⟨wc opKeyRevoke (7 * 256 ^ 16 + 256 ^ 17), 7, cmd0 opKeyRevoke (7 * 256 ^ 16 + 256 ^ 17), by decide +kernel⟩

/-- Image loads, evictions and publisher keys: PROGRAM_LOAD of an object that passes the loader, with a handle and pages to be had: the program has a copy on every online die. -/
theorem test_met_ImagesAndKeys_6 :
    ∃ (s : State) (id : Nat) (c : Cmd) (b : List Byte) (k : Nat), s.readyCmd id opProgLoad = some c ∧ ((headerOf b).priv ≠ 1 ∨ (s.started c).fn = 0) ∧
      ((headerOf b).priv ≠ 0 ∨ hasSystem (codeOf (headerOf b) b) = false) ∧ 64 ≤ (s.started c).b 24 4 ∧ 64 ≤ b.length ∧ (headerOf b).ok s.part.dies =
      true ∧ (headerOf b).size ≤ (s.started c).b 24 4 ∧ (headerOf b).size ≤ b.length ∧ codeOk (codeOf (headerOf b) b) (headerOf b).entry = true ∧
      s.freeHandle = some k ∧ s.held (s.started c).fn resLpddr + cdiv (headerOf b).size 4096 ≤ s.quota (s.started c).fn resLpddr ∧ s.onlineDies.any (fun
      d => (s.freePages d (cdiv (headerOf b).size 4096)).isNone) = false :=
  ⟨wc opProgLoad (256 ^ 25), 7, cmd0 opProgLoad (256 ^ 25), prog0Bytes, 0, by decide +kernel⟩

/-- The host commands on model slots: SLOT_PROGRAM with a die mask, of an image without Gusset regions whose blocks find tiles: the map is bound. -/
theorem test_met_SlotCommands_1 :
    ∃ (s : State) (id : Nat) (c : Cmd) (i : Image), (s.started c).slot ≤ 63 ∧ (s.started c).b 17 1 ≤ 1 ∧ s.slotTurn (s.started c) = true ∧ s.readyCmd
      id opSlotProgram = some c ∧ s.cmds.any (fun k => k.st == .running && k.opcode == opSlotProgram && k.slot == (s.started c).slot) = false ∧ s.image
      ((s.started c).b 18 1) = some i ∧ 0 < (s.started c).b 19 1 ∧ (s.started c).b 19 1 < 2 ^ s.part.dies ∧ s.onlineDies.any (fun d => bit ((s.started
      c).b 19 1) d && s.prgExpert d) = false ∧ s.activeMap (s.started c).slot ≠ (s.started c).b 17 1 ∧ s.mapTiles (s.started c).slot ((s.started c).b 17
      1) = [] ∧ s.mapPending (s.started c).slot ((s.started c).b 17 1) = false ∧ i.tiles ≤ sumBy (s.freeOn ((s.started c).b 19 1)) (fun e => e.2.length)
      ∧ panelsOf i.layers = [] ∧ (placeBlocks (allBlocks i.layers) (s.freeOn ((s.started c).b 19 1))).isSome = true :=
  ⟨{ wc opSlotProgram (63 * 256 ^ 16 + 256 ^ 17 + 2 * 256 ^ 19) with images := [image0] }, 7, cmd0 opSlotProgram (63 * 256 ^ 16 + 256 ^ 17 + 2 * 256 ^
    19), image0, by decide +kernel⟩

/-- The host commands on model slots: SLOT_PROGRAM with die mask 0: the map is bound, and the command leaves. -/
theorem test_met_SlotCommands_2 :
    ∃ (s : State) (id : Nat) (c : Cmd) (i : Image), (s.started c).slot ≤ 63 ∧ (s.started c).b 17 1 ≤ 1 ∧ s.slotTurn (s.started c) = true ∧ s.readyCmd
      id opSlotProgram = some c ∧ s.cmds.any (fun k => k.st == .running && k.opcode == opSlotProgram && k.slot == (s.started c).slot) = false ∧ s.image
      ((s.started c).b 18 1) = some i ∧ (s.started c).b 19 1 = 0 ∧ s.activeMap (s.started c).slot ≠ (s.started c).b 17 1 ∧ s.mapTiles (s.started c).slot
      ((s.started c).b 17 1) = [] ∧ panelsOf i.layers = [] :=
  ⟨{ wc opSlotProgram (63 * 256 ^ 16 + 256 ^ 17) with images := [image0] }, 7, cmd0 opSlotProgram (63 * 256 ^ 16 + 256 ^ 17), image0,
    by decide +kernel⟩

/-- The host commands on model slots: SLOT_SWITCH to a map that is ready: the switch is requested. -/
theorem test_met_SlotCommands_3 :
    ∃ (s : State) (id : Nat) (c : Cmd), (s.started c).slot ≤ 63 ∧ (s.started c).b 17 1 ≤ 1 ∧ s.slotTurn (s.started c) = true ∧ s.readyCmd id
      opSlotSwitch = some c ∧ (s.mapTiles (s.started c).slot ((s.started c).b 17 1)).any (fun p => s.rdb .TIL_STATUS_EXPERT p.die p.tile) = false ∧
      (s.mapOf (s.started c).slot ((s.started c).b 17 1)).isSome = true ∧ s.activeMap (s.started c).slot ≠ (s.started c).b 17 1 ∧ s.mapReady (s.started
      c).slot ((s.started c).b 17 1) = true :=
  ⟨{ wc opSlotSwitch (256 ^ 17) with maps := [{ map0 with layers := [] }] }, 7, cmd0 opSlotSwitch (256 ^ 17), by decide +kernel⟩

/-- The host commands on model slots: SLOT_SWITCH to a map that is not ready yet: the command runs on. -/
theorem test_met_SlotCommands_4 :
    ∃ (s : State) (id : Nat) (c : Cmd), (s.started c).slot ≤ 63 ∧ (s.started c).b 17 1 ≤ 1 ∧ s.slotTurn (s.started c) = true ∧ s.readyCmd id
      opSlotSwitch = some c ∧ (s.mapTiles (s.started c).slot ((s.started c).b 17 1)).any (fun p => s.rdb .TIL_STATUS_EXPERT p.die p.tile) = false ∧
      s.activeMap (s.started c).slot ≠ (s.started c).b 17 1 ∧ s.mapReady (s.started c).slot ((s.started c).b 17 1) = false :=
  ⟨wc opSlotSwitch (256 ^ 17), 7, cmd0 opSlotSwitch (256 ^ 17), by decide +kernel⟩

/-- The host commands on model slots: SLOT_SWITCH to a map with an expert tile is refused. -/
theorem test_met_SlotCommands_5 :
    ∃ (s : State) (id : Nat) (c : Cmd), (s.started c).slot ≤ 63 ∧ (s.started c).b 17 1 ≤ 1 ∧ s.slotTurn (s.started c) = true ∧ s.readyCmd id
      opSlotSwitch = some c ∧ (s.mapTiles (s.started c).slot ((s.started c).b 17 1)).any (fun p => s.rdb .TIL_STATUS_EXPERT p.die p.tile) = true ∧
      s.activeMap (s.started c).slot ≠ (s.started c).b 17 1 :=
  ⟨{ wc opSlotSwitch (256 ^ 17) with placed := [place0] }.wr .TIL_STATUS_EXPERT 1 1 6, 7, cmd0 opSlotSwitch (256 ^ 17), by decide +kernel⟩

/-- The host commands on model slots: SLOT_SWITCH to the map that is active: OK at once. -/
theorem test_met_SlotCommands_6 :
    ∃ (s : State) (id : Nat) (c : Cmd), (s.started c).slot ≤ 63 ∧ (s.started c).b 17 1 ≤ 1 ∧ s.slotTurn (s.started c) = true ∧ s.readyCmd id
      opSlotSwitch = some c ∧ s.activeMap (s.started c).slot = (s.started c).b 17 1 :=
  ⟨(wc opSlotSwitch (256 ^ 17)).setAx .activeMap 2, 7, cmd0 opSlotSwitch (256 ^ 17), by decide +kernel⟩

/-- The host commands on model slots: SLOT_REPLACE whose first layer is a crossbar layer. -/
theorem test_met_SlotCommands_7 :
    ∃ (s : State) (id : Nat) (c : Cmd) (i : Image) (m : MapSt), (s.started c).slot ≤ 63 ∧ (s.started c).b 17 1 ≤ 1 ∧ s.slotTurn (s.started c) = true ∧
      s.readyCmd id opSlotReplace = some c ∧ s.image ((s.started c).b 18 1) = some i ∧ s.mapOf (s.started c).slot (s.activeMap (s.started c).slot) =
      some m ∧ replaceable i m = true ∧ (s.mapTiles (s.started c).slot (s.activeMap (s.started c).slot)).any (fun p => s.prgExpert p.die ||
      s.unitsExpert p.die p.tile) = false ∧ (s.reservePanels (s.started c).slot (s.activeMap (s.started c).slot) i).isSome = true ∧ (i.layers.head?).any
      (fun l => l.crossbar) = true :=
  ⟨{ (wc opSlotReplace 0).setAx .activeMap 2 with maps := [map0], images := [image0] }, 7, cmd0 opSlotReplace 0, image0, map0, by decide +kernel⟩

/-- The host commands on model slots: MAP_FREE of a map that is not active and to which no switch waits: its binding and its Gusset regions go. -/
theorem test_met_SlotCommands_8 :
    ∃ (s : State) (id : Nat) (c : Cmd), (s.started c).slot ≤ 63 ∧ (s.started c).b 17 1 ≤ 1 ∧ s.slotTurn (s.started c) = true ∧ s.readyCmd id opMapFree
      = some c ∧ s.activeMap (s.started c).slot ≠ (s.started c).b 17 1 ∧ s.switchWaits (s.started c).slot ((s.started c).b 17 1) = false ∧ (s.mapTiles
      (s.started c).slot ((s.started c).b 17 1)).any s.tileExpert = false :=
  ⟨{ wc opMapFree (256 ^ 17) with maps := [map0], images := [image0] }, 7, cmd0 opMapFree (256 ^ 17), by decide +kernel⟩

/-- The host commands on model slots: SLOT_FREE of a slot that no running job uses. -/
theorem test_met_SlotCommands_9 :
    ∃ (s : State) (id : Nat) (c : Cmd), (s.started c).slot ≤ 63 ∧ (s.started c).b 17 1 ≤ 1 ∧ s.slotTurn (s.started c) = true ∧ s.readyCmd id
      opSlotFree = some c ∧ (s.placed.filter (fun p => p.slot == (s.started c).slot)).any s.tileExpert = false ∧ s.slotJobs (s.started c).slot = false :=
  ⟨{ (wc opSlotFree 0).setAx .activeMap 2 with maps := [map0], images := [image0] }, 7, cmd0 opSlotFree 0, by decide +kernel⟩

/-- The host commands on model slots: SLOT_INFO writes the map record to host memory and completes. -/
theorem test_met_SlotCommands_10 :
    ∃ (s : State) (id : Nat) (c : Cmd), (s.started c).slot ≤ 63 ∧ (s.started c).b 17 1 ≤ 1 ∧ s.slotTurn (s.started c) = true ∧ s.readyCmd id
      opSlotInfo = some c :=
  ⟨{ wc opSlotInfo (256 ^ 17) with maps := [map0] }, 7, cmd0 opSlotInfo (256 ^ 17), by decide +kernel⟩

/-- The host commands on model slots: the last running job of a slot that is being freed has ended. -/
theorem test_met_SlotCommands_11 :
    ∃ (s : State) (id : Nat) (c : Cmd) (k : Cmd), (s.started c).slot ≤ 63 ∧ (s.started c).b 17 1 ≤ 1 ∧ s.slotTurn (s.started c) = true ∧ s.cmds.find?
      (fun c => c.id == id && c.st == .running && c.opcode == opSlotFree) = some k ∧ s.slotJobs k.slot = false ∧ s.progq.any (fun r => r.cmd == some id)
      = false :=
  ⟨{ ((wc opSlotFree 0).setAx .activeMap 2) with maps := [map0], cmds := [{ cmd0 opSlotFree 0 with st := .running }] }, 7, cmd0 opSlotFree 0,
    { cmd0 opSlotFree 0 with st := .running }, by decide +kernel⟩

/-- What the ends of programming, clearing and repair leave: PROG of a host command or an instruction, outside SLOT_REPLACE, whose columns and tests pass and which asks for no precision: the finish is recorded. -/
theorem test_met_ProgrammingFinishes_1 :
    ∃ (s : State) (d : Nat) (e : Nat) (r : PReq) (out : ProgOut), s.runningReq d e (fun r => (r.what == .prog || r.what == .inc) && !r.clearFirst &&
      r.kind != 2) = some r ∧ (s.programColumns r 4 out).2 = true ∧ r.kind ≤ 1 ∧ (r.cmd.bind (fun id => (s.programColumns r 4 out).1.repls.find? (fun x
      => x.id == id))).isSome = false ∧ (s.programColumns r 4 out).1.wantsPrecision r = false ∧ r.no < s.ax .progCount :=
  ⟨(wp preq0 (engState .prog)).setAx .progCount 4, 1, 2, preq0, pout0, by decide +kernel⟩

/-- What the ends of programming, clearing and repair leave: any PROG whose columns and tests pass: the request finishes. -/
theorem test_met_ProgrammingFinishes_2 :
    ∃ (s : State) (d : Nat) (e : Nat) (r : PReq) (out : ProgOut), s.runningReq d e (fun r => (r.what == .prog || r.what == .inc) && !r.clearFirst &&
      r.kind != 2) = some r ∧ (s.programColumns r 4 out).2 = true :=
  ⟨wp preq0 (engState .prog), 1, 2, preq0, pout0, by decide +kernel⟩

/-- What the ends of programming, clearing and repair leave: one whose columns or tests fail: it moves to a spare tile. -/
theorem test_met_ProgrammingFinishes_3 :
    ∃ (s : State) (d : Nat) (e : Nat) (r : PReq) (out : ProgOut), s.runningReq d e (fun r => (r.what == .prog || r.what == .inc) && !r.clearFirst &&
      r.kind != 2) = some r ∧ (s.programColumns r 4 out).2 = false :=
  ⟨wp { preq0 with place := { place0 with rowsM1 := 0, colsM1 := 0 }, payload := [9#8] } (engState .prog), 1, 2,
    { preq0 with place := { place0 with rowsM1 := 0, colsM1 := 0 }, payload := [9#8] }, { pout0 with sense := [(0, 100000)] }, by decide +kernel⟩

/-- What the ends of programming, clearing and repair leave: the end of a column repair. -/
theorem test_met_ProgrammingFinishes_4 :
    ∃ (s : State) (d : Nat) (e : Nat) (r : PReq) (out : ProgOut), s.runningReq d e (fun r => !r.clearFirst && r.kind == 2) = some r ∧ r.what = .column
      ∧ r.no < s.ax .progCount :=
  ⟨(wp { preq0 with kind := 2, what := .column, cols := [(0, 1), (1151, 1)] } (engState .column)).setAx .progCount 4, 1, 2,
    { preq0 with kind := 2, what := .column, cols := [(0, 1), (1151, 1)] }, pout0, by decide +kernel⟩

/-- What the ends of programming, clearing and repair leave: the end of a tile replacement that passes: the new tile notes which one it replaces, and the old one is RETIRED. -/
theorem test_met_ProgrammingFinishes_5 :
    ∃ (s : State) (d : Nat) (e : Nat) (r : PReq) (out : ProgOut), s.runningReq d e (fun r => !r.clearFirst && r.kind == 2) = some r ∧ r.what = .prog ∧
      (s.programColumns r 4 out).2 = true ∧ r.no < s.ax .progCount ∧ r.old < 1664 ∧ r.tile < 1664 ∧ r.tile ≠ r.old ∧ r.place.tile = r.tile ∧ r.place.die
      = d ∧ (s.programColumns r 4 out).1.progq.any (fun q => q.tile == r.old) = false :=
  ⟨(wp { preq0 with kind := 2, old := 9 } (engState .prog)).setAx .progCount 4, 1, 2, { preq0 with kind := 2, old := 9 }, pout0, by decide +kernel⟩

/-- What the ends of programming, clearing and repair leave: CLEAR: the tile holds no weights. -/
theorem test_met_ProgrammingFinishes_6 :
    ∃ (s : State) (d : Nat) (e : Nat) (r : PReq) (reads : List (Nat × Nat)), s.runningReq d e (fun r => r.clearFirst || r.what == .clear) = some r :=
  ⟨wp { preq0 with what := .clear } 1, 1, 2, { preq0 with what := .clear }, [(2359295, 7)], by decide +kernel⟩

/-- What the ends of programming, clearing and repair leave: CLEAR before another operation of the same request: the request goes on. -/
theorem test_met_ProgrammingFinishes_7 :
    ∃ (s : State) (d : Nat) (e : Nat) (r : PReq) (reads : List (Nat × Nat)), s.runningReq d e (fun r => r.clearFirst || r.what == .clear) = some r ∧
      r.clearFirst = true :=
  ⟨wp { preq0 with clearFirst := true } 1, 1, 2, { preq0 with clearFirst := true }, [], by decide +kernel⟩

/-- What the writes of the programming registers do: PRG_CTRL.HOLD is taken, and a change of it takes the engines of the die out of firmware management. -/
theorem test_met_ProgrammingRegisters_1 :
    ∃ (s : State) (d : Nat) (o : Order), s.dieWindow d = true ∧ Alone o :=
  ⟨w0, 1, ⟨⟨.pf, 1⟩, []⟩, by decide +kernel⟩

/-- What the writes of the programming registers do: PRG_CTRL.CLEAR zeroes the counters. -/
theorem test_met_ProgrammingRegisters_2 :
    ∃ (s : State) (d : Nat) (o : Order), s.dieWindow d = true ∧ Alone o ∧ o.w.v % 2 = 1 :=
  ⟨w0.wr .PRG_TILES_COUNT 7 1, 1, ⟨⟨.pf, 1⟩, []⟩, by decide +kernel⟩

/-- What the writes of the programming registers do: PRG_CTRL.HANDBACK gives the engines back. -/
theorem test_met_ProgrammingRegisters_3 :
    ∃ (s : State) (d : Nat) (o : Order), s.dieWindow d = true ∧ Alone o ∧ o.w.v % 2 = 1 :=
  ⟨(w0.wr .PRG_CTRL_HOLD 1 1).wr .PRG_STATUS_EXPERT 1 1, 1, ⟨⟨.pf, 1⟩, []⟩, by decide +kernel⟩

/-- What the writes of the programming registers do: PRG_STORE takes a size that fits while the store is empty. -/
theorem test_met_ProgrammingRegisters_4 :
    ∃ (s : State) (d : Nat) (o : Order), s.dieWindow d = true ∧ Alone o ∧ o.w.v ≤ 16 ∧ o.w.v * 2 ^ 30 ≤ s.installed d ∧ s.images.any (fun i => i.home
      == d) = false ∧ s.loads.any (fun l => l.home == d) = false ∧ (s.takenRuns d).any (fun r => decide (r.1 + r.2 > (s.installed d - o.w.v * 2 ^ 30) /
      4096)) = false :=
  ⟨w0, 1, ⟨⟨.pf, 16⟩, []⟩, by decide +kernel⟩

/-- Timeouts, die links and DIE_RESTORE: bank port wait of a running job: it is counted, and the attempt of the job is over. -/
theorem test_met_TimeoutsAndDies_1 :
    ∃ (s : State) (d : Nat) (u : Nat) (j : Nat) (k : Job), s.job j = some k ∧ k.active = true ∧ k.st ≠ .ackWait ∧ s.paused 0 d = false :=
  ⟨{ w0 with jobs := [jobR] }, 1, 0, 7, jobR, by decide +kernel⟩

/-- Timeouts, die links and DIE_RESTORE: die link, not the third within 10 s: it is counted and the link retrains. -/
theorem test_met_TimeoutsAndDies_2 :
    ∃ (s : State) (d : Nat) (u : Nat) (j : Nat) (l : List Nat), u < linkCount s.part.dies ∧ s.linkUp u = true ∧ s.escalates 1 8 u = false :=
  ⟨w0, 0, 3, 0, [], by decide +kernel⟩

/-- Timeouts, die links and DIE_RESTORE: die link, the third time within 10 s: the link is down. -/
theorem test_met_TimeoutsAndDies_3 :
    ∃ (s : State) (d : Nat) (u : Nat) (j : Nat) (l : List Nat), u < linkCount s.part.dies ∧ s.linkUp u = true ∧ s.escalates 1 8 u = true :=
  ⟨w0.setAx .toHist 1 1 (8 * 65536 + 3) 0, 0, 3, 0, [], by decide +kernel⟩

/-- Timeouts, die links and DIE_RESTORE: LPDDR5X command, not the third within 10 s of its channel: the channel retrains. -/
theorem test_met_TimeoutsAndDies_5 :
    ∃ (s : State) (d : Nat) (u : Nat) (j : Nat) (l : List Nat), s.online d = true ∧ s.escalates 2 d (chanOf u) = false ∧ s.rd .MEM_CH_STATE d (chanOf
      u) ≠ 3 :=
  ⟨w0.wr .MEM_CH_STATE 1 1 3, 1, 1536 + 511, 0, [], by decide +kernel⟩

/-- Timeouts, die links and DIE_RESTORE: the third within 10 s, which is the third failed training in a row: the channel has failed. -/
theorem test_met_TimeoutsAndDies_6 :
    ∃ (s : State) (d : Nat) (u : Nat) (j : Nat) (l : List Nat), s.online d = true ∧ d < 8 ∧ s.escalates 2 d (chanOf u) = true ∧ s.rd .MEM_CH_FAILS d
      (chanOf u) = 2 :=
  ⟨(w0.wr .MEM_CH_FAILS 2 1 3).setAx .toHist 1 2 (65536 + 3) 0, 1, 1536, 0, [], by decide +kernel⟩

/-- Timeouts, die links and DIE_RESTORE: DMA descriptor that an engine has been moving for 1 ms: the attempt of the job is over. -/
theorem test_met_TimeoutsAndDies_7 :
    ∃ (s : State) (d : Nat) (u : Nat) (j : Nat) (v : DmaRun) (y : Op) (k : Job), s.dmaAt d u = some v ∧ v.since + 1000000 ≤ s.now ∧ s.ops.filter (fun
      o => o.issue == v.issue) = [y] ∧ s.job y.job = some k ∧ k.active = true ∧ k.st ≠ .ackWait :=
  ⟨{ w0 with jobs := [jobR], dt := 8000000, ops := [{ op0 with unit := .dma }], dmas := [⟨1, 7, 4, 0, none, 0⟩] }, 1, 7, 0, ⟨1, 7, 4, 0, none, 0⟩,
    { op0 with unit := .dma }, jobR, by decide +kernel⟩

/-- Timeouts, die links and DIE_RESTORE: a sequencer without progress: the attempt of the job is over. -/
theorem test_met_TimeoutsAndDies_8 :
    ∃ (s : State) (d : Nat) (u : Nat) (j : Nat) (k : Job) (t : Task), s.taskAt d u = some (k, t) ∧ s.stalled k t = true ∧ s.job k.id = some k ∧ k.st
      ≠ .ackWait :=
  ⟨{ w0 with jobs := [jobR], dt := 80000000 }, 1, 2, 0, jobR, task0, by decide +kernel⟩

/-- Timeouts, die links and DIE_RESTORE: feed queue starvation while the Yoke runs: the attempts of the jobs with a request in the queue are over. -/
theorem test_met_TimeoutsAndDies_9 :
    ∃ (s : State) (d : Nat) (u : Nat) (j : Nat) (y : Req) (k : Job), (s.excuse s.takenTiles).reqs.any (fun r => r.queue == u && r.st == .queued &&
      !r.dead && decide (r.since + 20000000 ≤ s.now)) = true ∧ s.rd .YOK_CTRL_HOLD_ALL = 0 ∧ s.rd .YOK_STATUS_MOVING = 0 ∧ y ∈ (s.excuse
      s.takenTiles).reqs ∧ y.queue = u ∧ y.st = .queued ∧ y.dead = false ∧ s.job y.job = some k ∧ k.active = true ∧ k.st ≠ .ackWait :=
  ⟨{ w0 with reqs := [req0], jobs := [jobR], dt := 160000000 }, 0, 8191, 0, req0, jobR, by decide +kernel⟩

/-- Timeouts, die links and DIE_RESTORE: the watchdog of a job: it ends. -/
theorem test_met_TimeoutsAndDies_10 :
    ∃ (s : State) (d : Nat) (u : Nat) (j : Nat) (k : Job) (v : Nat), s.job j = some k ∧ k.active = true ∧ k.st ≠ .ackWait ∧ k.started = some v ∧ v +
      k.watchdog * 1000000 ≤ s.now :=
  ⟨{ w0 with jobs := [jobR], dt := 8000000 }, 0, 0, 7, jobR, 0, by decide +kernel⟩

/-- Timeouts, die links and DIE_RESTORE: FLT_CTRL.CLEAR zeroes the counters. -/
theorem test_met_TimeoutsAndDies_11 :
    ∃ (s : State) (d : Nat) (u : Nat) (j : Nat) (o : Order), Alone o ∧ o.w.v % 2 = 1 :=
  ⟨(w0.wr .FLT_TOCNT_COUNT 5 0 6).wr .FLT_SUPCNT_COUNT 3, 0, 0, 0, ⟨⟨.pf, 1⟩, []⟩, by decide +kernel⟩

/-- Timeouts, die links and DIE_RESTORE: DIE_RESTORE of a die below its shutdown temperature that the head die reaches. -/
theorem test_met_TimeoutsAndDies_12 :
    ∃ (s : State) (d : Nat) (u : Nat) (j : Nat) (c : Cmd) (z : StepInfo), s.readyCmd d opDieRestore = some c ∧ (s.started c).b 16 1 < s.part.dies ∧
      s.online ((s.started c).b 16 1) = false ∧ bit (s.rd .PWR_STAT_TSHUT) ((s.started c).b 16 1) = false ∧ (s.onlineDies.isEmpty = true ∨ s.reaches
      ((s.started c).b 16 1) = true) :=
  ⟨(wc opDieRestore (256 ^ 16)).wr .GLB_CAPACITY_DIE_ONLINE 1, 7, 0, 0, cmd0 opDieRestore (256 ^ 16), ⟨true, 0, [], [], [], [], [], []⟩,
    by decide +kernel⟩

/-- The monitor converters' sequence, urgent requests and self-calibration: an entry starts when the sequence is free, and the grid advances. -/
theorem test_met_MonitorSequence_1 :
    ∃ (s : State) (d : Nat), d < s.part.dies ∧ s.seqFree d = true :=
  ⟨w0, 1, by decide +kernel⟩

/-- The monitor converters' sequence, urgent requests and self-calibration: the end of an entry with two channels. -/
theorem test_met_MonitorSequence_2 :
    ∃ (s : State) (d : Nat) (ca : Nat) (cb : Nat) (half : Nat × Nat), d < s.part.dies ∧ (s.mon d).run = true ∧ ¬((s.partA d (s.rd .MCV_STAT_ENTRY
      d)).1 = 1 ∧ (s.partB d (s.rd .MCV_STAT_ENTRY d)).1 = 1) ∧ cb < 65536 :=
  ⟨(((w0.wr .MCV_SEQB_CHAN 44 1 0).wr .MCV_SEQA_PAIR 0 1 0).wr .MCV_SEQB_PAIR 0 1 0).updMon 1 (fun m => { m with run := true }), 1, 1, 65535, (32768,
    32768), by decide +kernel⟩

/-- The monitor converters' sequence, urgent requests and self-calibration: the end of a plausibility entry whose codes agree. -/
theorem test_met_MonitorSequence_3 :
    ∃ (s : State) (d : Nat) (ca : Nat) (cb : Nat) (half : Nat × Nat), d < s.part.dies ∧ (s.mon d).run = true ∧ (s.partA d (s.rd .MCV_STAT_ENTRY d)).1
      = 1 ∧ (s.partB d (s.rd .MCV_STAT_ENTRY d)).1 = 1 ∧ s.convDown d 0 = false ∧ s.convDown d 1 = false ∧ ((ca : Int) - cb).natAbs ≤
      s.rd .MCV_PLAUS_TOL d :=
  ⟨((((w0.wr .MCV_SEQB_CHAN 44 1 0).wr .MCV_SEQA_CHAN 44 1 0).wr .MCV_SEQA_PAIR 1 1 0).wr .MCV_SEQB_PAIR 1 1 0).updMon 1 (fun m =>
    { m with run := true }), 1, 1000, 1001, (32768, 32768), by decide +kernel⟩

/-- The monitor converters' sequence, urgent requests and self-calibration: an urgent request joins the list. -/
theorem test_met_MonitorSequence_4 :
    ∃ (s : State) (d : Nat) (kind : Nat) (who : Nat), d < s.part.dies ∧ 1 ≤ kind ∧ kind ≤ 4 :=
  ⟨w0, 1, 4, 9, by decide +kernel⟩

/-- The monitor converters' sequence, urgent requests and self-calibration: an urgent conversion ends: its request leaves, and no other joins. -/
theorem test_met_MonitorSequence_5 :
    ∃ (s : State) (d : Nat) (conv : Nat), d < s.part.dies ∧ s.urg.any (fun u => u.die == d && u.conv == some conv) = true :=
  ⟨{ w0 with urg := [⟨0, 1, 4, 9, some 2⟩] }, 1, 2, by decide +kernel⟩

/-- The monitor converters' sequence, urgent requests and self-calibration: a self-calibration that is due begins with MCA on idle converters. -/
theorem test_met_MonitorSequence_6 :
    ∃ (s : State) (d : Nat), d < s.part.dies ∧ s.scalIsDue d = true ∧ (s.mon d).run = false ∧ (s.mon d).sim = 0 ∧ (s.mon d).simWait = false ∧
      s.urgentIdle d = true ∧ (s.mon d).calDue = false ∧ (s.mon d).calB = false ∧ s.calibrating d = false :=
  ⟨{ w0 with dt := 80000000000000 }, 1, by decide +kernel⟩

/-- The monitor converters' sequence, urgent requests and self-calibration: the self-calibration of MCA ends. -/
theorem test_met_MonitorSequence_7 :
    ∃ (s : State) (d : Nat) (cal : Int × Rat), d < s.part.dies ∧ s.rd .MCV_STAT_SCAL_A d = 1 :=
  ⟨w0.wr .MCV_STAT_SCAL_A 1 1, 1, (-64, 1 / 100), by decide +kernel⟩

/-- The monitor converters' sequence, urgent requests and self-calibration: the self-calibration of MCB ends, with a correction within the limits. -/
theorem test_met_MonitorSequence_8 :
    ∃ (s : State) (d : Nat) (cal : Int × Rat), d < s.part.dies ∧ s.rd .MCV_STAT_SCAL_B d = 1 ∧ cal.1.natAbs ≤ 64 ∧ |cal.2| ≤ 1 / 100 :=
  ⟨w0.wr .MCV_STAT_SCAL_B 1 1, 1, (-64, 1 / 100), by decide +kernel⟩

/-- The monitor converters' sequence, urgent requests and self-calibration: a correction beyond the limits: the converter has failed. -/
theorem test_met_MonitorSequence_9 :
    ∃ (s : State) (d : Nat) (k : Nat) (cal : Int × Rat), d < s.part.dies ∧ k < 2 ∧ s.convCal d k = true ∧ (64 < cal.1.natAbs ∨ 1 / 100 < |cal.2|) :=
  ⟨w0.wr .MCV_STAT_SCAL_B 1 1, 1, 1, (-65, 1 / 200), by decide +kernel⟩

/-- What the writes of the monitor registers and their triggers do: a change of MODE is taken, and is an expert write. -/
theorem test_met_MonitorControls_1 :
    ∃ (s : State) (d : Nat) (o : Order), s.dieWindow d = true ∧ Alone o ∧ o.w.v % 2 ≠ s.rd .MCV_CTRL_MODE d :=
  ⟨w0, 1, ⟨⟨.pf, 1⟩, []⟩, by decide +kernel⟩

/-- What the writes of the monitor registers and their triggers do: HOLD set is taken, and is an expert write. -/
theorem test_met_MonitorControls_2 :
    ∃ (s : State) (d : Nat) (o : Order), s.dieWindow d = true ∧ Alone o ∧ o.w.v % 2 = 1 ∧ s.rd .MCV_CTRL_HOLD d = 0 :=
  ⟨w0, 1, ⟨⟨.pf, 1⟩, []⟩, by decide +kernel⟩

/-- What the writes of the monitor registers and their triggers do: HOLD cleared with a consistent sequence. -/
theorem test_met_MonitorControls_3 :
    ∃ (s : State) (d : Nat) (o : Order), s.dieWindow d = true ∧ Alone o ∧ o.w.v % 2 = 0 ∧ s.rd .MCV_CTRL_HOLD d = 1 ∧ s.seqConsistent d = true :=
  ⟨w0.wr .MCV_CTRL_HOLD 1 1, 1, ⟨⟨.pf, 2⟩, []⟩, by decide +kernel⟩

/-- What the writes of the monitor registers and their triggers do: SCAL on idle converters begins a self-calibration with MCA. -/
theorem test_met_MonitorControls_4 :
    ∃ (s : State) (d : Nat) (o : Order), s.dieWindow d = true ∧ Alone o ∧ o.w.v % 2 = 1 ∧ s.rd .MCV_CTRL_SCAL d = 0 ∧ (s.mon d).run = false ∧ (s.mon
      d).sim = 0 ∧ (s.mon d).simWait = false ∧ s.urgentIdle d = true ∧ (s.mon d).calDue = false ∧ (s.mon d).calB = false ∧ s.calibrating d = false :=
  ⟨w0, 1, ⟨⟨.pf, 1⟩, []⟩, by decide +kernel⟩

/-- What the writes of the monitor registers and their triggers do: SCAL while one is under way has no effect. -/
theorem test_met_MonitorControls_5 :
    ∃ (s : State) (d : Nat) (o : Order), s.dieWindow d = true ∧ Alone o ∧ o.w.v % 2 = 1 ∧ s.rd .MCV_CTRL_SCAL d = 1 :=
  ⟨w0.wr .MCV_CTRL_SCAL 1 1, 1, ⟨⟨.pf, 1⟩, []⟩, by decide +kernel⟩

/-- What the writes of the monitor registers and their triggers do: MCV_CTRL.CLEAR zeroes the counters. -/
theorem test_met_MonitorControls_6 :
    ∃ (s : State) (d : Nat) (o : Order), s.dieWindow d = true ∧ Alone o ∧ o.w.v % 2 = 1 :=
  ⟨w0.wr .MCV_SIMRES_OVERRUNS 3 1, 1, ⟨⟨.pf, 1⟩, []⟩, by decide +kernel⟩

/-- What the writes of the monitor registers and their triggers do: MCV_CTRL.HANDBACK returns the converters. -/
theorem test_met_MonitorControls_7 :
    ∃ (s : State) (d : Nat) (o : Order), s.dieWindow d = true ∧ Alone o ∧ o.w.v % 2 = 1 :=
  ⟨(w0.wr .MCV_CTRL_HOLD 1 1).wr .MCV_CTRL_MODE 1 1, 1, ⟨⟨.pf, 1⟩, []⟩, by decide +kernel⟩

/-- What the writes of the monitor registers and their triggers do: GO in simultaneous mode. -/
theorem test_met_MonitorControls_8 :
    ∃ (s : State) (d : Nat) (o : Order), s.dieWindow d = true ∧ Alone o ∧ o.w.v % 2 = 1 ∧ s.rd .MCV_TRIG_SRC d = 0 ∧ s.rd .MCV_CTRL_MODE d = 1 ∧
      (s.mon d).sim = 0 ∧ (s.mon d).simWait = false ∧ s.convBusy d 0 = false ∧ s.convBusy d 1 = false ∧ s.calibrating d = false :=
  ⟨(w0.wr .MCV_TRIG_SRC 0 1).wr .MCV_CTRL_MODE 1 1, 1, ⟨⟨.pf, 1⟩, []⟩, by decide +kernel⟩

/-- What the writes of the monitor registers and their triggers do: the timed trigger. -/
theorem test_met_MonitorControls_9 :
    ∃ (s : State) (d : Nat) (o : Order), s.dieWindow d = true ∧ Alone o ∧ (s.mon d).timed = true ∧ s.rd .MCV_TRIG_SRC d = 1 ∧ s.rd .MCV_TTRIG_TIME d ≤
      s.now ∧ s.rd .MCV_CTRL_MODE d = 1 ∧ (s.mon d).sim = 0 ∧ (s.mon d).simWait = false ∧ s.convBusy d 0 = false ∧ s.convBusy d 1 = false ∧
      s.calibrating d = false :=
  ⟨((w0.wr .MCV_TRIG_SRC 1 1).wr .MCV_CTRL_MODE 1 1).updMon 1 (fun m => { m with timed := true }), 1, ⟨⟨.pf, 1⟩, []⟩, by decide +kernel⟩

/-- What the writes of the monitor registers and their triggers do: the end of a simultaneous conversion. -/
theorem test_met_MonitorControls_10 :
    ∃ (s : State) (d : Nat) (o : Order) (ca : Nat) (cb : Nat), s.dieWindow d = true ∧ Alone o ∧ (s.mon d).sim ≠ 0 :=
  ⟨w0.updMon 1 (fun m => { m with sim := 2, simAt := 9 }), 1, ⟨⟨.pf, 1⟩, []⟩, 5, 65535, by decide +kernel⟩

/-- What the rows of the telemetry streams do: START, not timed, without STOP, opens a window. -/
theorem test_met_TelemetryStreams_1 :
    ∃ (s : State) (n : Nat) (o : Order), n < 16 ∧ Alone o ∧ o.w.v % 2 = 1 ∧ s.rd .TLM_CTRL_TSTART 0 n = 0 :=
  ⟨w0, 15, ⟨⟨.pf, 1⟩, []⟩, by decide +kernel⟩

/-- What the rows of the telemetry streams do: STOP, not timed, closes an open window. -/
theorem test_met_TelemetryStreams_2 :
    ∃ (s : State) (n : Nat) (o : Order) (w : Tlm), n < 16 ∧ Alone o ∧ o.w.v % 2 = 1 ∧ s.tlm n = some w ∧ w.open' = true ∧ w.stream = n ∧
      s.rd .TLM_CTRL_TSTOP 0 n = 0 :=
  ⟨wt tlm0, 15, ⟨⟨.pf, 1⟩, []⟩, tlm0, by decide +kernel⟩

/-- What the rows of the telemetry streams do: STOP in the tick of the start: the window is of length zero, with status OK and SHORT. -/
theorem test_met_TelemetryStreams_3 :
    ∃ (s : State) (n : Nat) (o : Order) (w : Tlm), n < 16 ∧ Alone o ∧ o.w.v % 2 = 1 ∧ s.tlm n = some w ∧ w.open' = true ∧ w.stream = n ∧ w.order =
      false ∧ s.rd .TLM_CTRL_TSTOP 0 n = 0 ∧ s.now / 1000 = w.start / 1000 :=
  ⟨wt { tlm0 with start := 10000 }, 15, ⟨⟨.pf, 1⟩, []⟩, { tlm0 with start := 10000 }, by decide +kernel⟩

/-- What the rows of the telemetry streams do: STOP while IDLE is ignored and counted. -/
theorem test_met_TelemetryStreams_4 :
    ∃ (s : State) (n : Nat) (o : Order), n < 16 ∧ Alone o ∧ o.w.v % 2 = 1 ∧ s.tlm n = none :=
  ⟨w0, 15, ⟨⟨.pf, 1⟩, []⟩, by decide +kernel⟩

/-- What the rows of the telemetry streams do: CANCEL closes a window with ABORTED_BY_HOST. -/
theorem test_met_TelemetryStreams_5 :
    ∃ (s : State) (n : Nat) (o : Order) (w : Tlm), n < 16 ∧ Alone o ∧ o.w.v % 2 = 1 ∧ s.tlm n = some w ∧ w.stream = n :=
  ⟨wt tlm0, 15, ⟨⟨.pf, 1⟩, []⟩, tlm0, by decide +kernel⟩

/-- What the rows of the telemetry streams do: at its time, a timed start opens its window. -/
theorem test_met_TelemetryStreams_6 :
    ∃ (s : State) (n : Nat) (w : Tlm), n < 16 ∧ s.tlm n = some w ∧ w.open' = false ∧ w.start ≤ s.now ∧ w.stop = none ∧ w.stream = n :=
  ⟨wt { tlm0 with open' := false }, 15, { tlm0 with open' := false }, by decide +kernel⟩

/-- What the rows of the telemetry streams do: at its time, a timed stop closes its window. -/
theorem test_met_TelemetryStreams_7 :
    ∃ (s : State) (n : Nat) (w : Tlm), n < 16 ∧ s.tlm n = some w ∧ w.open' = true ∧ w.stop.any (fun t => decide (t ≤ s.now)) = true ∧ w.stream = n :=
  ⟨wt { tlm0 with stop := some 10000 }, 15, { tlm0 with stop := some 10000 }, by decide +kernel⟩

/-- What the rows of the telemetry streams do: a sample that is due advances the time of the next one by the period. -/
theorem test_met_TelemetryStreams_8 :
    ∃ (s : State) (n : Nat) (w : Tlm), n < 16 ∧ s.tlm n = some w ∧ w.due s.now = true :=
  ⟨wt tlm0, 15, tlm0, by decide +kernel⟩

/-- What the rows of the telemetry streams do: TLM_RDIDX is taken. -/
theorem test_met_TelemetryStreams_9 :
    ∃ (s : State) (n : Nat) (o : Order), n < 16 ∧ Alone o :=
  ⟨w0, 15, ⟨⟨.pf, 2 ^ 32 - 1⟩, []⟩, by decide +kernel⟩

/-- Some effects of the fields of TIL_CTRL and of tests of spare and record tiles: HOLD set on a SERVING tile is an expert write; the tile stays SERVING and waits for its seam to be HELD. -/
theorem test_met_TileControls_1 :
    ∃ (s : State) (d : Nat) (t : Nat) (o : Order), s.tileWindow d t = true ∧ Alone o ∧ o.w.v % 2 = 1 ∧ s.tst d t = tsServing ∧ s.rd .TIL_CTRL_HOLD d t
      = 0 ∧ s.ax .pendHold d t = 0 :=
  ⟨w0.wr .TIL_STATUS_STATE tsServing 1 1663, 1, 1663, ⟨⟨.pf, 1⟩, []⟩, by decide +kernel⟩

/-- Some effects of the fields of TIL_CTRL and of tests of spare and record tiles: HOLD cleared on a tile that waits for its seam to be HELD takes the wait back. -/
theorem test_met_TileControls_2 :
    ∃ (s : State) (d : Nat) (t : Nat) (o : Order), s.tileWindow d t = true ∧ Alone o ∧ o.w.v % 2 = 0 ∧ s.tst d t = tsServing ∧ s.rd .TIL_CTRL_HOLD d t
      = 1 ∧ s.ax .pendHold d t = 1 + hcExpert :=
  ⟨((w0.wr .TIL_STATUS_STATE tsServing 1 1663).wr .TIL_CTRL_HOLD 1 1 1663).setAx .pendHold (1 + hcExpert) 1 1663, 1, 1663, ⟨⟨.pf, 2⟩, []⟩,
    by decide +kernel⟩

/-- Some effects of the fields of TIL_CTRL and of tests of spare and record tiles: PRECISION set on a FREE tile of a die that has room for one more. -/
theorem test_met_TileControls_3 :
    ∃ (s : State) (d : Nat) (t : Nat) (o : Order), s.tileWindow d t = true ∧ Alone o ∧ o.w.v % 2 = 1 ∧ s.tst d t = tsFree ∧ s.precisionRoom d t = true :=
  ⟨w0.wr .TIL_STATUS_STATE tsFree 1 1663, 1, 1663, ⟨⟨.pf, 1⟩, []⟩, by decide +kernel⟩

/-- Some effects of the fields of TIL_CTRL and of tests of spare and record tiles: PRECISION refused: in the pipeline, or set on a SPARE or RECORD tile or on one of a die without room. -/
theorem test_met_TileControls_4 :
    ∃ (s : State) (d : Nat) (t : Nat) (o : Order), s.tileWindow d t = true ∧ Alone o ∧ o.w.v % 2 ≠ s.rd .TIL_CTRL_PRECISION d t ∧ (s.inPipe d t = true
      ∨ o.w.v % 2 = 1 ∧ (s.tst d t = tsSpare ∨ s.tst d t = tsRecord ∨ s.precisionRoom d t = false)) :=
  ⟨w0.wr .TIL_STATUS_STATE tsServing 1 1663, 1, 1663, ⟨⟨.pf, 1⟩, []⟩, by decide +kernel⟩

/-- Some effects of the fields of TIL_CTRL and of tests of spare and record tiles: RETIRE of a spare tile: it is RETIRED, and RETIRE reads 0 again. -/
theorem test_met_TileControls_5 :
    ∃ (s : State) (d : Nat) (t : Nat) (o : Order), s.tileWindow d t = true ∧ Alone o ∧ o.w.v % 2 = 1 ∧ s.tst d t = tsSpare ∧ s.rd .TIL_CTRL_RETIRE d t
      = 0 :=
  ⟨w0.wr .TIL_STATUS_STATE tsSpare 1 1663, 1, 1663, ⟨⟨.pf, 1⟩, []⟩, by decide +kernel⟩

/-- Some effects of the fields of TIL_CTRL and of tests of spare and record tiles: HANDBACK of a tile that is not RETIRED returns the tolerance of the check to 16 and the tile to the firmware. -/
theorem test_met_TileControls_6 :
    ∃ (s : State) (d : Nat) (t : Nat) (o : Order), s.tileWindow d t = true ∧ Alone o ∧ o.w.v % 2 = 1 ∧ s.tst d t ≠ tsRetired :=
  ⟨w0, 1, 1663, ⟨⟨.pf, 1⟩, []⟩, by decide +kernel⟩

/-- Some effects of the fields of TIL_CTRL and of tests of spare and record tiles: the spare test of a SPARE tile that is due, under firmware management, which no request names: it is then named by a request to test it. -/
theorem test_met_TileControls_7 :
    ∃ (s : State) (d : Nat) (t : Nat) (l : List Nat), s.online d = true ∧ t < 1664 ∧ t ∈ l ∧ s.tst d t = tsSpare ∧ s.rd .TIL_STATUS_EXPERT d t = 0 ∧
      s.progq.any (fun r => r.die == d && r.tile == t) = false :=
  ⟨((w0.each (List.range 1664) (fun s t => s.wr .TIL_STATUS_STATE tsFree 1 t)).wr .TIL_STATUS_STATE tsSpare 1 1663), 1, 1663, [1663],
    by decide +kernel⟩

/-- Some effects of the fields of TIL_CTRL and of tests of spare and record tiles: a record tile fails while a spare tile is free: it is RETIRED, and the spare tile takes its place. -/
theorem test_met_TileControls_8 :
    ∃ (s : State) (d : Nat) (t : Nat) (l : List Nat) (g : List Nat) (n : Nat), s.online d = true ∧ s.tst d t = tsRecord ∧ s.freeSpare d = some n ∧ n ≠
      t :=
  ⟨w0.wr .TIL_STATUS_STATE tsRecord 1 1663, 1, 1663, [], [], 1536, by decide +kernel⟩

/-- What the writes of driver and Hem registers do, outside the pipeline and in it: DRV_CFG, outside the pipeline, at once. -/
theorem test_met_DriversAndHems_1 :
    ∃ (s : State) (d : Nat) (t : Nat) (o : Order), s.tileWindow d t = true ∧ Alone o ∧ o.w.v % 8 ≠ s.driveNow d t ∧ s.inPipe d t = false :=
  ⟨w0, 1, 1663, ⟨⟨.pf, 6⟩, []⟩, by decide +kernel⟩

/-- What the writes of driver and Hem registers do, outside the pipeline and in it: DRV_CFG, in the pipeline, waits for a seam. -/
theorem test_met_DriversAndHems_2 :
    ∃ (s : State) (d : Nat) (t : Nat) (o : Order), s.tileWindow d t = true ∧ Alone o ∧ o.w.v % 8 ≠ s.driveNow d t ∧ s.inPipe d t = true :=
  ⟨w0.wr .TIL_STATUS_STATE tsServing 1 1663, 1, 1663, ⟨⟨.pf, 6⟩, []⟩, by decide +kernel⟩

/-- What the writes of driver and Hem registers do, outside the pipeline and in it: DRV_CFG as it stands: no effect. -/
theorem test_met_DriversAndHems_3 :
    ∃ (s : State) (d : Nat) (t : Nat) (o : Order), s.tileWindow d t = true ∧ Alone o ∧ o.w.v % 8 = s.driveNow d t :=
  ⟨w0, 1, 1663, ⟨⟨.pf, 7⟩, []⟩, by decide +kernel⟩

/-- What the writes of driver and Hem registers do, outside the pipeline and in it: DRV_SLEW, outside the pipeline, at once. -/
theorem test_met_DriversAndHems_4 :
    ∃ (s : State) (d : Nat) (t : Nat) (o : Order), s.tileWindow d t = true ∧ Alone o ∧ o.w.v / 16 % 256 ≠ 0 ∧ o.w.v % 4096 ≠ s.slewNow d t ∧ s.inPipe
      d t = false :=
  ⟨w0, 1, 1663, ⟨⟨.pf, 0xFFF⟩, []⟩, by decide +kernel⟩

/-- What the writes of driver and Hem registers do, outside the pipeline and in it: DRV_SLEW, in the pipeline, waits for a seam. -/
theorem test_met_DriversAndHems_5 :
    ∃ (s : State) (d : Nat) (t : Nat) (o : Order), s.tileWindow d t = true ∧ Alone o ∧ o.w.v / 16 % 256 ≠ 0 ∧ o.w.v % 4096 ≠ s.slewNow d t ∧ s.inPipe
      d t = true :=
  ⟨w0.wr .TIL_STATUS_STATE tsServing 1 1663, 1, 1663, ⟨⟨.pf, 0xFFF⟩, []⟩, by decide +kernel⟩

/-- What the writes of driver and Hem registers do, outside the pipeline and in it: DRV_SLEW with STEP 0: refused. -/
theorem test_met_DriversAndHems_6 :
    ∃ (s : State) (d : Nat) (t : Nat) (o : Order), s.tileWindow d t = true ∧ Alone o ∧ o.w.v / 16 % 256 = 0 :=
  ⟨w0, 1, 1663, ⟨⟨.pf, 15⟩, []⟩, by decide +kernel⟩

/-- What the writes of driver and Hem registers do, outside the pipeline and in it: DRV_CFG.HANDBACK: the settings of the placement, the slew of the reset, and the firmware. -/
theorem test_met_DriversAndHems_7 :
    ∃ (s : State) (d : Nat) (t : Nat) (o : Order), s.tileWindow d t = true ∧ Alone o ∧ o.w.v % 2 = 1 :=
  ⟨w0.wr .DRV_STAT_EXPERT 1 1 1663, 1, 1663, ⟨⟨.pf, 1⟩, []⟩, by decide +kernel⟩

/-- What the writes of driver and Hem registers do, outside the pipeline and in it: HEM_CFG: the switches of the statistics at once, and a change of RANGE outside the pipeline. -/
theorem test_met_DriversAndHems_8 :
    ∃ (s : State) (d : Nat) (t : Nat) (o : Order), s.tileWindow d t = true ∧ Alone o ∧ s.inPipe d t = false :=
  ⟨w0, 1, 1663, ⟨⟨.pf, 15⟩, []⟩, by decide +kernel⟩

/-- What the writes of driver and Hem registers do, outside the pipeline and in it: HEM_CFG: a change of RANGE in the pipeline waits for a seam. -/
theorem test_met_DriversAndHems_9 :
    ∃ (s : State) (d : Nat) (t : Nat) (o : Order), s.tileWindow d t = true ∧ Alone o ∧ s.inPipe d t = true ∧ o.w.v / 4 % 4 ≠ s.rangeNow d t :=
  ⟨w0.wr .TIL_STATUS_STATE tsServing 1 1663, 1, 1663, ⟨⟨.pf, 15⟩, []⟩, by decide +kernel⟩

/-- What the writes of driver and Hem registers do, outside the pipeline and in it: HEM_TAPS, outside the pipeline, at once. -/
theorem test_met_DriversAndHems_10 :
    ∃ (s : State) (d : Nat) (t : Nat) (o : Order), s.tileWindow d t = true ∧ Alone o ∧ o.w.v / 64 % 64 < 40 ∧ o.w.v % 64 < 40 ∧ o.w.v % 4096 ≠
      s.tapsNow d t ∧ s.inPipe d t = false :=
  ⟨w0, 1, 1663, ⟨⟨.pf, 39 * 64 + 1⟩, []⟩, by decide +kernel⟩

/-- What the writes of driver and Hem registers do, outside the pipeline and in it: HEM_TAPS, in the pipeline, waits for a seam. -/
theorem test_met_DriversAndHems_11 :
    ∃ (s : State) (d : Nat) (t : Nat) (o : Order), s.tileWindow d t = true ∧ Alone o ∧ o.w.v / 64 % 64 < 40 ∧ o.w.v % 64 < 40 ∧ o.w.v % 4096 ≠
      s.tapsNow d t ∧ s.inPipe d t = true :=
  ⟨w0.wr .TIL_STATUS_STATE tsServing 1 1663, 1, 1663, ⟨⟨.pf, 39 * 64 + 1⟩, []⟩, by decide +kernel⟩

/-- What the writes of driver and Hem registers do, outside the pipeline and in it: HEM_TAPS with a tap of 40 or more: refused. -/
theorem test_met_DriversAndHems_12 :
    ∃ (s : State) (d : Nat) (t : Nat) (o : Order), s.tileWindow d t = true ∧ Alone o ∧ (40 ≤ o.w.v / 64 % 64 ∨ 40 ≤ o.w.v % 64) :=
  ⟨w0, 1, 1663, ⟨⟨.pf, 40⟩, []⟩, by decide +kernel⟩

/-- What the writes of driver and Hem registers do, outside the pipeline and in it: HEM_CTRL.CLEAR zeroes the counts and sums. -/
theorem test_met_DriversAndHems_13 :
    ∃ (s : State) (d : Nat) (t : Nat) (o : Order), s.tileWindow d t = true ∧ Alone o ∧ o.w.v % 2 = 1 :=
  ⟨w0.wr .HEM_CSAT_COUNT 7 1 1663, 1, 1663, ⟨⟨.pf, 1⟩, []⟩, by decide +kernel⟩

/-- What the writes of driver and Hem registers do, outside the pipeline and in it: HEM_CTRL.HANDBACK: RANGE and LIMIT of the placement, TOL of the reset, and the firmware. -/
theorem test_met_DriversAndHems_14 :
    ∃ (s : State) (d : Nat) (t : Nat) (o : Order), s.tileWindow d t = true ∧ Alone o ∧ o.w.v % 2 = 1 :=
  ⟨w0.setAx .hemExpert 1 1 1663, 1, 1663, ⟨⟨.pf, 1⟩, []⟩, by decide +kernel⟩

/-- Reads that latch a second word: a 32-bit read of the low word of GLB_CAPACITY returns it and latches the high word. -/
theorem test_met_LatchingReads_1 :
    ∃ (s : State) (m : Master), reachesPf m = true :=
  ⟨w0, .chain, by decide +kernel⟩

/-- Reads that latch a second word: a 32-bit read of the low word of HEM_MSEREF_SUM returns it and latches the high word and the count. -/
theorem test_met_LatchingReads_2 :
    ∃ (s : State) (m : Master) (d : Nat) (t : Nat), reachesPf m = true ∧ s.tileWindow d t = true :=
  ⟨w0.wr .HEM_MSEREF_SUM_SUM (2 ^ 40) 1 1663, .pf, 1, 1663, by decide +kernel⟩

/-- Reads that latch a second word: a 64-bit read of HEM_MSEREF_SUM returns both words and latches the count. -/
theorem test_met_LatchingReads_3 :
    ∃ (s : State) (m : Master) (d : Nat) (t : Nat), reachesPf m = true ∧ s.tileWindow d t = true :=
  ⟨w0.wr .HEM_MSEREF_SUM_SUM (2 ^ 40) 1 1663, .pf, 1, 1663, by decide +kernel⟩

/-- Reads that latch a second word: a 32-bit read of the low word of HEM_MSEQ_SUM returns it and latches the high word and the count. -/
theorem test_met_LatchingReads_4 :
    ∃ (s : State) (m : Master) (d : Nat) (t : Nat), reachesPf m = true ∧ s.tileWindow d t = true :=
  ⟨w0.wr .HEM_MSEQ_SUM_SUM (2 ^ 40) 1 1663, .pf, 1, 1663, by decide +kernel⟩

/-- Reads that latch a second word: a 64-bit read of HEM_MSEQ_SUM returns both words and latches the count. -/
theorem test_met_LatchingReads_5 :
    ∃ (s : State) (m : Master) (d : Nat) (t : Nat), reachesPf m = true ∧ s.tileWindow d t = true :=
  ⟨w0.wr .HEM_MSEQ_SUM_SUM (2 ^ 40) 1 1663, .pf, 1, 1663, by decide +kernel⟩

/-- The waveform window and the players: a read of the window returns the point that WFM_ADDR selects. -/
theorem test_met_WaveformPlayback_1 :
    ∃ (s : State) (d : Nat) (n : Nat) (m : Master), s.dieWindow d = true :=
  ⟨w0, 1, 0, .pf, by decide +kernel⟩

/-- The waveform window and the players: a write of the window stores the point: waveform 32 to 63, in no running playback. -/
theorem test_met_WaveformPlayback_2 :
    ∃ (s : State) (d : Nat) (n : Nat) (o : Order), s.dieWindow d = true ∧ Alone o ∧ 32 ≤ s.rd .WFM_ADDR_WAVE d ∧ s.plays.any (fun x => x.die == d &&
      x.playing && x.wave == s.rd .WFM_ADDR_WAVE d) = false :=
  ⟨(w0.wr .WFM_ADDR_WAVE 63 1).wr .WFM_ADDR_POINT 255 1, 1, 0, ⟨⟨.pf, 0xFFF⟩, []⟩, by decide +kernel⟩

/-- The waveform window and the players: START, not timed, without STOP, of a playback that is not malformed, on a player of a free engine outside the clamp: it plays, and its tile is PLAYING. -/
theorem test_met_WaveformPlayback_3 :
    ∃ (s : State) (d : Nat) (n : Nat) (o : Order), s.isPlayer d n = true ∧ Alone o ∧ o.w.v % 2 = 1 ∧ s.engineUses d n = false ∧ s.clamped d = false ∧
      s.playMalformed (s.playOf d n) = false ∧ s.rd .WFM_PLAY_CTRL_TSTART d n = 0 ∧ pointKind (s.wavePoint d (s.rd .WFM_PLAY_CTRL_WAVE d n) 0) ≠ pkEnd :=
  ⟨{ ((w0.wr .WFM_PLAY_CTRL_WAVE 40 1 15).wr .WFM_PLAY_TARGET_TILE 8 1 15).wr .WFM_PLAY_CTRL_INTERVAL 4 1 15 with waves := [(waveKey 1 40 0, 5)] }, 1,
    15, ⟨⟨.pf, 1⟩, []⟩, by decide +kernel⟩

/-- The waveform window and the players: STOP, not timed, ends a running playback. -/
theorem test_met_WaveformPlayback_4 :
    ∃ (s : State) (d : Nat) (n : Nat) (o : Order) (y : Play), s.isPlayer d n = true ∧ Alone o ∧ o.w.v % 2 = 1 ∧ s.play d n = some y ∧ y.playing = true
      ∧ y.die = d ∧ y.player = n ∧ s.rd .WFM_PLAY_CTRL_TSTOP d n = 0 :=
  ⟨{ w0 with plays := [play0] }, 1, 15, ⟨⟨.pf, 1⟩, []⟩, play0, by decide +kernel⟩

/-- The waveform window and the players: CANCEL ends a playback with ABORTED_BY_HOST. -/
theorem test_met_WaveformPlayback_5 :
    ∃ (s : State) (d : Nat) (n : Nat) (o : Order), s.isPlayer d n = true ∧ Alone o ∧ o.w.v % 2 = 1 ∧ (s.play d n).isSome = true :=
  ⟨{ w0 with plays := [play0] }, 1, 15, ⟨⟨.pf, 1⟩, []⟩, by decide +kernel⟩

/-- The waveform window and the players: at its time, a timed start on a free engine outside the clamp begins the playback. -/
theorem test_met_WaveformPlayback_6 :
    ∃ (s : State) (d : Nat) (n : Nat) (y : Play), s.play d n = some y ∧ y.playing = false ∧ y.die = d ∧ y.player = n ∧ y.start ≤ s.now ∧ s.engineUses
      d n = false ∧ s.clamped d = false ∧ s.playMalformed y = false ∧ pointKind (s.wavePoint d y.wave 0) ≠ pkEnd :=
  ⟨{ w0 with plays := [{ play0 with playing := false }], waves := [(waveKey 1 40 0, 5)] }, 1, 15, { play0 with playing := false }, by decide +kernel⟩

/-- The waveform window and the players: at its time, a timed stop ends the playback. -/
theorem test_met_WaveformPlayback_7 :
    ∃ (s : State) (d : Nat) (n : Nat) (y : Play), s.play d n = some y ∧ y.playing = true ∧ y.die = d ∧ y.player = n ∧ y.stop.any (fun t => decide (t ≤
      s.now)) = true :=
  ⟨{ w0 with plays := [{ play0 with stop := some 0 }] }, 1, 15, { play0 with stop := some 0 }, by decide +kernel⟩

/-- The waveform window and the players: the end of a point interval goes on to the next point, where that is not END. -/
theorem test_met_WaveformPlayback_8 :
    ∃ (s : State) (d : Nat) (n : Nat) (y : Play), s.play d n = some y ∧ y.playing = true ∧ y.die = d ∧ y.player = n ∧ y.point + 1 < 256 ∧ pointKind
      (s.wavePoint d y.wave (y.point + 1)) ≠ pkEnd :=
  ⟨{ w0 with plays := [{ play0 with point := 254 }], waves := [(waveKey 1 40 255, 5)] }, 1, 15, { play0 with point := 254 }, by decide +kernel⟩

/-- The waveform window and the players: WFM_STAT.HANDBACK ends the playbacks of the die and returns the window. -/
theorem test_met_WaveformPlayback_9 :
    ∃ (s : State) (d : Nat) (n : Nat) (o : Order), s.dieWindow d = true ∧ Alone o ∧ o.w.v % 2 = 1 :=
  ⟨{ w0 with plays := [play0] }, 1, 0, ⟨⟨.pf, 1⟩, []⟩, by decide +kernel⟩

/-- Traces, quick and full calibrations and the drift interval: a trace that is due starts where the die is ready and no other die traces. -/
theorem test_met_TracesAndCalibration_1 :
    ∃ (s : State) (d : Nat) (t : Nat), s.online d = true ∧ s.traceReady d = true ∧ s.traceIsDue d = true ∧ s.onlineDies.any (fun e => s.ax .traceRun e
      == 1) = false :=
  ⟨w0.wr .CAL_CTRL_TRACE 1 1, 1, 0, by decide +kernel⟩

/-- Traces, quick and full calibrations and the drift interval: the end of a trace within 2% of the record: its time is recorded. -/
theorem test_met_TracesAndCalibration_2 :
    ∃ (s : State) (d : Nat) (t : Nat) (rho : Rat), s.ax .traceRun d = 1 ∧ (s.mon d).traceBad = false ∧ s.convDown d 0 = false ∧ s.convDown d 1 = false
      ∧ s.tabF d 0 tGlobal 2 ≠ 0 ∧ 0 < rho ∧ |rho / s.tabF d 0 tGlobal 2 - 1| ≤ 2 / 100 :=
  ⟨(w0.wr .CAL_CTRL_TRACE 1 1).setAx .traceRun 1 1, 1, 0, 102 / 100, by decide +kernel⟩

/-- Traces, quick and full calibrations and the drift interval: 10 s after a rejection the trace starts again. -/
theorem test_met_TracesAndCalibration_3 :
    ∃ (s : State) (d : Nat) (t : Nat), s.rd .CAL_STATUS_TRACE_FAULT d = 1 ∧ s.onlineDies.any (fun e => s.ax .traceRun e == 1) = false ∧ s.traceReady d
      = true ∧ s.ax .traceAt d - 1 + 10 ^ 10 ≤ s.now :=
  ⟨{ (w0.wr .CAL_STATUS_TRACE_FAULT 1 1).setAx .traceAt 1 1 with dt := 80000000000 }, 1, 0, by decide +kernel⟩

/-- The tile of the tests whose quick calibration gave these codes; the offsets, gain and residual that come of them. -/
def calRun0 : CalRun := ⟨1, 1663, false, 0, none, 0, satCodes⟩
def wq : State := { w0.wr .TIL_STATUS_CAL_REJ_RUN 2 1 1663 with cals := [calRun0] }

theorem test_quick_offsets : quickOffsets satCodes = List.replicate 1152 0 := by decide +kernel

theorem test_quick_gain : fitGain (wq.quickSamples 1 1663 satCodes) = 1 := by decide +kernel

theorem test_quick_column (b : Nat) (hb : b < 64) : wq.servingCol 1 1663 (18 * b + 16) < 1152 := by
  revert b; decide +kernel

theorem test_getD_replicate_lt {α : Type} (x y : α) (n c : Nat) (h : c < n) : (List.replicate n x).getD c y = x := by
  simp [List.getD_eq_getElem?_getD, h]

theorem test_getD_replicate_same {α : Type} (x : α) (n c : Nat) : (List.replicate n x).getD c x = x := by
  by_cases h : c < n <;> simp [List.getD_eq_getElem?_getD, h]

theorem test_quick_mse (offs : List Int) (dNew : Rat) : wq.quickMse 1 1663 satCodes offs dNew = 0 := by
  unfold State.quickMse
  rw [if_pos]
  rw [List.flatMap_eq_nil_iff]
  intro e he
  rw [List.filterMap_eq_nil_iff]
  intro b hb
  obtain rfl := (List.mem_replicate.1 he).2
  refine if_pos ?_
  unfold saturated
  rw [test_getD_replicate_lt _ _ _ _ (test_quick_column b (List.mem_range.1 hb))]
  rfl

theorem test_calCheck_congr (s : State) (d t : Nat) (o o' : CalOut) (trim : Nat → Rat) (dNew : Rat)
    (ho : ∀ p, o.offs.getD p 0 = o'.offs.getD p 0) (hm : o.mse = o'.mse) : s.calCheck d t o trim dNew = s.calCheck d t o' trim dNew := by
  unfold State.calCheck
  simp only [ho, hm]

theorem test_quick_check : (wq.dropCal 1 1663).calCheck 1 1663 ⟨[], 1, 0, [], [], [], [], 0⟩ ((wq.dropCal 1 1663).trimNow 1 1663)
    ((wq.dropCal 1 1663).newDrift 1 1663 1) = none := by decide +kernel

/-- Traces, quick and full calibrations and the drift interval: the end of a quick calibration whose 24 stitches have been converted, and whose results pass the checks, ends the run of rejections. -/
theorem test_met_TracesAndCalibration_4 :
    ∃ (s : State) (d : Nat) (t : Nat) (out : CalOut) (c : CalRun), s.calRun d t false = some c ∧ c.codes.length = 24 ∧ (s.dropCal d t).calCheck d t
      (s.quickOut d t c.codes) ((s.dropCal d t).trimNow d t) ((s.dropCal d t).newDrift d t (s.quickOut d t c.codes).a) = none := by
  refine ⟨wq, 1, 1663, cal0, calRun0, by decide +kernel, by decide +kernel, ?_⟩
  have e : wq.quickOut 1 1663 calRun0.codes = ⟨List.replicate 1152 0, 1, 0, [], [], [], [], 0⟩ := by
    show (⟨quickOffsets satCodes, fitGain (wq.quickSamples 1 1663 satCodes), wq.quickMse 1 1663 satCodes _ _, [], [], [], [], 0⟩ : CalOut) = _
    rw [test_quick_mse, test_quick_offsets, test_quick_gain]
  rewrite [e]
  have ho : ∀ p, (List.replicate 1152 (0 : Int)).getD p 0 = ([] : List Int).getD p 0 := fun p => test_getD_replicate_same _ _ _
  exact (test_calCheck_congr _ 1 1663 ⟨_, 1, 0, [], [], [], [], 0⟩ ⟨[], 1, 0, [], [], [], [], 0⟩ _ _ ho rfl).trans test_quick_check

/-- Traces, quick and full calibrations and the drift interval: one whose results fail a check is counted as a rejection. -/
theorem test_met_TracesAndCalibration_5 :
    ∃ (s : State) (d : Nat) (t : Nat) (out : CalOut) (c : CalRun), s.calRun d t false = some c ∧ c.codes.length = 24 ∧ ((s.dropCal d t).calCheck d t
      (s.quickOut d t c.codes) ((s.dropCal d t).trimNow d t) ((s.dropCal d t).newDrift d t (s.quickOut d t c.codes).a)).isSome = true :=
  ⟨{ w0.setTab 1 0 tGlobal 1 0x40000000 with cals := [⟨1, 1663, false, 0, none, 0, satCodes⟩] }, 1, 1663, cal0, ⟨1, 1663, false, 0, none, 0,
    satCodes⟩, by decide +kernel⟩

/-- Traces, quick and full calibrations and the drift interval: the one queued calibration that can run starts. -/
theorem test_met_TracesAndCalibration_6 :
    ∃ (s : State) (d : Nat) (t : Nat) (r : CalReq), s.online d = true ∧ s.rd .CAL_CTRL_HOLD d = 0 ∧ s.rd .CLK_STAT_SAFE = 0 ∧ s.calq = [r] ∧ r.die = d
      ∧ s.calCan r = true ∧ s.fullReady d r.tile = true ∧ s.rd .CAL_STATUS_BUSY d < s.rd .CAL_CFG_PAR d :=
  ⟨{ w0.wr .TIL_STATUS_STATE tsStaged 1 1663 with calq := [⟨1, 1663, 1, 0⟩] }, 1, 1663, ⟨1, 1663, 1, 0⟩, by decide +kernel⟩

/-- Traces, quick and full calibrations and the drift interval: the end of a full calibration whose stitches have fired and whose results pass the checks is counted, and the tile is calibrated. -/
theorem test_met_TracesAndCalibration_7 :
    ∃ (s : State) (d : Nat) (t : Nat) (out : CalOut) (c : CalRun), s.calRun d t true = some c ∧ c.left = 0 ∧ out.badRows = 0 ∧ (let a := ((((s.dropCal
      d t).countRows d t out).wr .HEM_TAPS_STALE 0 d t).bump .CAL_FULLS_COUNT 1 d); let y := (if a.trimmed d t then a.calTaps d t out else ⟨out, 0,
      []⟩); a.calCheck d t y.out (fun p => trimOf (wrap 8 (y.out.trims.getD p 0))) (a.newDrift d t out.a)) = none :=
  ⟨{ w0.wr .TIL_STATUS_CAL_REJ_RUN 2 1 1663 with cals := [⟨1, 1663, true, 0, none, 0, []⟩] }, 1, 1663, cal0, ⟨1, 1663, true, 0, none, 0, []⟩,
    by decide +kernel⟩

/-- Traces, quick and full calibrations and the drift interval: a periodic full calibration that is due is queued. -/
theorem test_met_TracesAndCalibration_8 :
    ∃ (s : State) (d : Nat) (t : Nat), s.online d = true ∧ s.rd .CAL_CFG_FULL_DAYS d ≠ 0 ∧ (s.placeOf d t).isSome = true ∧ s.tst d t = tsServing ∧
      (s.tile d t).fullAt + s.rd .CAL_CFG_FULL_DAYS d * 86400 * 10 ^ 9 ≤ s.now :=
  ⟨{ w0.wr .TIL_STATUS_STATE tsServing 1 6 with placed := [place0], dt := 8 * 200 * 86400 * 10 ^ 9 }, 1, 6, by decide +kernel⟩

/-- Traces, quick and full calibrations and the drift interval: the hourly save records D and A of each tile in the pipeline or STAGED. -/
theorem test_met_TracesAndCalibration_9 :
    ∃ (s : State) (d : Nat) (t : Nat), s.online d = true ∧ t ∈ s.heldTiles d :=
  ⟨(w0.wr .TIL_STATUS_STATE tsServing 1 6), 1, 6, by decide +kernel⟩

/-- Traces, quick and full calibrations and the drift interval: a drift interval posts a column check for each SERVING tile that is in no full calibration. -/
theorem test_met_TracesAndCalibration_10 :
    ∃ (s : State) (d : Nat) (t : Nat) (a : Int) (l : List (Nat × Nat × Nat)), s.online d = true :=
  ⟨(w0.wr .TIL_STATUS_STATE tsServing 1 1663), 1, 1663, 5, [], by decide +kernel⟩

/-- The calibration registers, the table window, and the end of a refresh: a change of CAL_CTRL.HOLD is taken, and is an expert write. -/
theorem test_met_CalibrationRegisters_1 :
    ∃ (s : State) (d : Nat) (t : Nat) (o : Order), s.dieWindow d = true ∧ Alone o ∧ o.w.v % 2 ≠ s.rd .CAL_CTRL_HOLD d :=
  ⟨w0, 1, 0, ⟨⟨.pf, 1⟩, []⟩, by decide +kernel⟩

/-- The calibration registers, the table window, and the end of a refresh: CAL_CTRL.CLEAR zeroes the counts. -/
theorem test_met_CalibrationRegisters_2 :
    ∃ (s : State) (d : Nat) (t : Nat) (o : Order), s.dieWindow d = true ∧ Alone o ∧ o.w.v % 2 = 1 :=
  ⟨w0.wr .CAL_FULLS_COUNT 4 1, 1, 0, ⟨⟨.pf, 1⟩, []⟩, by decide +kernel⟩

/-- The calibration registers, the table window, and the end of a refresh: CAL_CTRL.HANDBACK clears HOLD and returns the engine. -/
theorem test_met_CalibrationRegisters_3 :
    ∃ (s : State) (d : Nat) (t : Nat) (o : Order), s.dieWindow d = true ∧ Alone o ∧ o.w.v % 2 = 1 :=
  ⟨w0.wr .CAL_CTRL_HOLD 1 1, 1, 0, ⟨⟨.pf, 1⟩, []⟩, by decide +kernel⟩

/-- The calibration registers, the table window, and the end of a refresh: CAL_CTRL.TRACE asks for a trace, which starts at once where it can. -/
theorem test_met_CalibrationRegisters_4 :
    ∃ (s : State) (d : Nat) (t : Nat) (o : Order), s.dieWindow d = true ∧ Alone o ∧ o.w.v % 2 = 1 ∧ s.rd .CAL_CTRL_TRACE d < 2 :=
  ⟨w0, 1, 0, ⟨⟨.pf, 1⟩, []⟩, by decide +kernel⟩

/-- The calibration registers, the table window, and the end of a refresh: CAL_HANDBACK.GO returns the tables of the tile to the firmware. -/
theorem test_met_CalibrationRegisters_5 :
    ∃ (s : State) (d : Nat) (t : Nat) (o : Order), s.tileWindow d t = true ∧ Alone o ∧ o.w.v % 2 = 1 :=
  ⟨w0.updTile 1 1663 (fun x => { x with expert := true }), 1, 1663, ⟨⟨.pf, 1⟩, []⟩, by decide +kernel⟩

/-- The calibration registers, the table window, and the end of a refresh: a read of CAL_TAB_DATA returns the entry that CAL_TAB_ADDR selects. -/
theorem test_met_CalibrationRegisters_6 :
    ∃ (s : State) (d : Nat) (t : Nat) (m : Master), s.dieWindow d = true :=
  ⟨w0, 1, 0, .pf, by decide +kernel⟩

/-- The calibration registers, the table window, and the end of a refresh: a write of CAL_TAB_DATA that the entry accepts makes the tables of the tile the expert's. -/
theorem test_met_CalibrationRegisters_7 :
    ∃ (s : State) (d : Nat) (t : Nat) (o : Order), s.dieWindow d = true ∧ Alone o ∧ s.tabAccepts d o.w.v = true :=
  ⟨(w0.wr .CAL_TAB_ADDR_TILE 1663 1).wr .CAL_TAB_ADDR_INDEX 1151 1, 1, 0, ⟨⟨.pf, 1⟩, []⟩, by decide +kernel⟩

/-- The calibration registers, the table window, and the end of a refresh: the end of a refresh that has run its course takes it off the list. -/
theorem test_met_CalibrationRegisters_8 :
    ∃ (s : State) (d : Nat) (t : Nat) (y : Refresh), s.refreshOf d t = some y ∧ y.die = d ∧ y.tile = t ∧ y.phase = .done :=
  ⟨{ w0 with refreshes := [⟨1, 1663, 5, 1, 0, 0, 0, .done, none⟩] }, 1, 1663, ⟨1, 1663, 5, 1, 0, 0, 0, .done, none⟩, by decide +kernel⟩

/-- Loss and return of a clock source: a source that was ready is lost: its ready bit clears, the loss is counted, and where it feeds a clock the part enters the safe state (which sources feed one is the model's reading, log entry 18). -/
theorem test_met_SourcesOfClock_1 :
    ∃ (s : State) (src : Nat) (die : Nat) (pll : Nat), 1 ≤ src ∧ src ≤ 3 ∧ s.rdb (readyField src) = true :=
  ⟨w0.wr .CLK_STAT_XTAL_READY 1, 1, 0, 0, by decide +kernel⟩

/-- Loss and return of a clock source: the crystal is lost while mgmt_clk runs on it and the RC oscillator is ready: device time holds over on the RC oscillator. -/
theorem test_met_SourcesOfClock_2 :
    ∃ (s : State) (die : Nat) (pll : Nat), s.rdb .CLK_STAT_XTAL_READY = true ∧ s.rdb .CLK_CTRL_MGMT_SRC = false ∧ s.rdb .CLK_STAT_RC_READY = true :=
  ⟨(w0.wr .CLK_STAT_RC_READY 1).wr .CLK_STAT_XTAL_READY 1, 255, 0, by decide +kernel⟩

/-- Loss and return of a clock source: the crystal is lost while mgmt_clk runs on it and the RC oscillator is not ready: the one-shot begins, in the safe state. -/
theorem test_met_SourcesOfClock_3 :
    ∃ (s : State) (die : Nat) (pll : Nat), s.rdb .CLK_STAT_XTAL_READY = true ∧ s.rdb .CLK_CTRL_MGMT_SRC = false ∧ s.rdb .CLK_STAT_RC_READY = false :=
  ⟨(w0.wr .CLK_STAT_RC_READY 0).wr .CLK_STAT_XTAL_READY 1, 255, 0, by decide +kernel⟩

/-- Loss and return of a clock source: a PLL of a die loses its lock: its lock bit clears, in the safe state. -/
theorem test_met_SourcesOfClock_4 :
    ∃ (s : State) (die : Nat) (pll : Nat), die < s.part.dies ∧ pll < 5 :=
  ⟨w0, 1, 4, by decide +kernel⟩

/-- Loss and return of a clock source: the one-shot expires: the part has no clock. -/
theorem test_met_SourcesOfClock_5 :
    ∃ (s : State), s.ax .oneShot = 1 :=
  ⟨w0.setAx .oneShot 1, by decide +kernel⟩

/-- Loss and return of a clock source: a source is ready: its ready bit sets. -/
theorem test_met_SourcesOfClock_6 :
    ∃ (s : State) (src : Nat), 1 ≤ src ∧ src ≤ 3 :=
  ⟨w0, 3, by decide +kernel⟩

/-- Loss and return of a clock source: the crystal comes back to a part without a clock: it starts up again. -/
theorem test_met_SourcesOfClock_7 :
    ∃ (s : State), s.rdb .CLK_STAT_NOCLOCK = true :=
  ⟨w0.wr .CLK_STAT_NOCLOCK 1, by decide +kernel⟩

/-- Loss and return of a clock source: the RC oscillator is ready before the one-shot ends: mgmt_clk runs on it. -/
theorem test_met_SourcesOfClock_8 :
    ∃ (s : State), s.rdb .CLK_STAT_NOCLOCK = false ∧ s.ax .oneShot = 1 :=
  ⟨w0.setAx .oneShot 1, by decide +kernel⟩

/-- Loss and return of a clock source: the last missing source is back and no power loss is open: the safe state and the holdover end. -/
theorem test_met_SourcesOfClock_9 :
    ∃ (s : State) (src : Nat), 1 ≤ src ∧ src ≤ 2 ∧ s.rdb .CLK_STAT_NOCLOCK = false ∧ s.ax .railWait = 0 ∧ s.ax .saveWait = 0 ∧ s.ax .perst = 0 ∧
      s.rdb .CLK_STAT_SAFE = true ∧ s.ax .lossAt ≠ 0 ∧ (s.wr (readyField src) 1).sourcesBack = true :=
  ⟨((w0.wr .CLK_STAT_XTAL_READY 0).wr .CLK_STAT_SAFE 1).setAx .lossAt 1, 1, by decide +kernel⟩

/-- What the writes of the clock registers do, and their late effects: an accepted PLL setting with another feedback divider is stored, is an expert write, and unlocks the PLL on every die until it has relocked. -/
theorem test_met_ClockRegisters_1 :
    ∃ (s : State) (o : Order) (p : Nat), Alone o ∧ p < 5 ∧ s.pllAccepts p (pllWord o.w.v) = true ∧ (pllWord o.w.v).fb ≠ (s.pll p).fb :=
  ⟨w0, ⟨⟨.pf, 5 * 65536 + 4096 + 97⟩, []⟩, 2, by decide +kernel⟩

/-- What the writes of the clock registers do, and their late effects: a PLL setting as it stands: no effect. -/
theorem test_met_ClockRegisters_2 :
    ∃ (s : State) (o : Order) (p : Nat), Alone o ∧ p < 5 ∧ s.pllAccepts p (pllWord o.w.v) = true ∧ pllWord o.w.v = s.pll p :=
  ⟨w0, ⟨⟨.pf, 30 * 524288 + 4 * 65536 + 4096 + 96⟩, []⟩, 2, by decide +kernel⟩

/-- What the writes of the clock registers do, and their late effects: a PLL setting that is not accepted is refused. -/
theorem test_met_ClockRegisters_3 :
    ∃ (s : State) (o : Order) (p : Nat), Alone o ∧ p < 5 ∧ s.pllAccepts p (pllWord o.w.v) = false :=
  ⟨w0, ⟨⟨.pf, 0⟩, []⟩, 4, by decide +kernel⟩

/-- What the writes of the clock registers do, and their late effects: a PLL has relocked and the ratios of the clocks hold: it is locked on every die. -/
theorem test_met_ClockRegisters_4 :
    ∃ (s : State) (o : Order) (p : Nat), Alone o ∧ p < 5 ∧ s.ax .relock 0 p = 1 ∧ s.ratiosHold = true :=
  ⟨w0.setAx .relock 1 0 4, ⟨⟨.pf, 1⟩, []⟩, 4, by decide +kernel⟩

/-- What the writes of the clock registers do, and their late effects: MGMT_SRC, changed to a source that is ready: mgmt_clk moves to it, and the write is an expert write. -/
theorem test_met_ClockRegisters_5 :
    ∃ (s : State) (o : Order), Alone o ∧ s.rdb (if o.w.v % 2 = 1 then .CLK_STAT_RC_READY else .CLK_STAT_XTAL_READY) = true ∧ s.rd .CLK_CTRL_MGMT_SRC ≠
      o.w.v % 2 :=
  ⟨w0.wr .CLK_STAT_RC_READY 1, ⟨⟨.pf, 1⟩, []⟩, by decide +kernel⟩

/-- What the writes of the clock registers do, and their late effects: MGMT_SRC, written with a source that is not ready: refused. -/
theorem test_met_ClockRegisters_6 :
    ∃ (s : State) (o : Order), Alone o ∧ s.rdb (if o.w.v % 2 = 1 then .CLK_STAT_RC_READY else .CLK_STAT_XTAL_READY) = false :=
  ⟨w0.wr .CLK_STAT_RC_READY 0, ⟨⟨.pf, 1⟩, []⟩, by decide +kernel⟩

/-- What the writes of the clock registers do, and their late effects: ROOT, set to 0 while every die is gated: taken, an expert write. -/
theorem test_met_ClockRegisters_7 :
    ∃ (s : State) (o : Order), Alone o ∧ o.w.v % 2 = 0 ∧ s.dies.any (fun d => s.rdb .CLK_GATE_DIE 0 d) = false ∧ s.rd .CLK_CTRL_ROOT = 1 :=
  ⟨(w0.dies).foldl (fun s d => s.wr .CLK_GATE_DIE 0 0 d) w0, ⟨⟨.pf, 2⟩, []⟩, by decide +kernel⟩

/-- What the writes of the clock registers do, and their late effects: ROOT, written 0 while a die runs: refused. -/
theorem test_met_ClockRegisters_8 :
    ∃ (s : State) (o : Order), Alone o ∧ o.w.v % 2 = 0 ∧ s.dies.any (fun d => s.rdb .CLK_GATE_DIE 0 d) = true :=
  ⟨w0, ⟨⟨.pf, 2⟩, []⟩, by decide +kernel⟩

/-- What the writes of the clock registers do, and their late effects: CLK_CTRL.HANDBACK, where it changes no setting of the stitch timing PLL or HOLD_ALL is 1: the reset settings of PLLs 0 to 3, ROOT, the crystal and the firmware. -/
theorem test_met_ClockRegisters_9 :
    ∃ (s : State) (o : Order), Alone o ∧ o.w.v % 2 = 1 ∧ (s.pll 3 = s.pllReset 3 ∨ s.rdb .YOK_CTRL_HOLD_ALL = true) :=
  ⟨(w0.wr .CLK_CTRL_MGMT_SRC 1).wr .CLK_STAT_EXPERT 1, ⟨⟨.pf, 1⟩, []⟩, by decide +kernel⟩

/-- What the writes of the clock registers do, and their late effects: a gate write that no rule refuses stores its word. -/
theorem test_met_ClockRegisters_10 :
    ∃ (s : State) (o : Order) (kind : Nat) (die : Nat), Alone o ∧ die < s.part.dies ∧ kind ≤ 3 ∧ s.gateRefuses kind die o.w.v = false :=
  ⟨w0, ⟨⟨.pf, 2 ^ 52 - 2⟩, []⟩, 2, 1, by decide +kernel⟩

/-- What the writes of the clock registers do, and their late effects: a gate write that would stop a unit it must not stop: refused. -/
theorem test_met_ClockRegisters_11 :
    ∃ (s : State) (o : Order) (kind : Nat) (die : Nat), Alone o ∧ die < s.part.dies ∧ kind ≤ 3 ∧ s.gateRefuses kind die o.w.v = true :=
  ⟨w0, ⟨⟨.pf, 0⟩, []⟩, 0, 1, by decide +kernel⟩

/-- What the writes of the clock registers do, and their late effects: the units whose gate-off waits are idle: they stop, and PEND clears. -/
theorem test_met_ClockRegisters_12 :
    ∃ (s : State) (o : Order) (kind : Nat) (die : Nat), Alone o ∧ s.ax .gatePend die kind ≠ 0 ∧ (List.range 52).all (fun b => !(bit (s.ax .gatePend
      die kind) b && s.unitBusy kind die b)) = true ∧ (∀ d k, ¬(d = die ∧ k = kind) → s.ax .gatePend d k = 0) :=
  ⟨w0.setAx .gatePend 1 1 2, ⟨⟨.pf, 1⟩, []⟩, 2, 1, rfl, by decide +kernel, by decide +kernel, fun d k h => (State.ax_setAx _ _ _ _ _ _ _ _ _ _).trans
    ((if_neg (fun e => h ⟨e.2.1, e.2.2.1⟩)).trans rfl)⟩

/-- What the writes of the clock registers do, and their late effects: a unit that is still busy goes on, and PEND reads 1. -/
theorem test_met_ClockRegisters_13 :
    ∃ (s : State) (o : Order) (die : Nat), Alone o ∧ bit (s.ax .gatePend die 1) 1 = true ∧ s.rdb .DGA_STATUS_BUSY die = true ∧ die < 8 :=
  ⟨(w0.setAx .gatePend 2 1 1).wr .DGA_STATUS_BUSY 1 1, ⟨⟨.pf, 1⟩, []⟩, 1, by decide +kernel⟩

/-- What the writes of the clock registers do, and their late effects: CLK_CTRL.HANDBACK that would change the stitch timing PLL while HOLD_ALL is 0: refused. -/
theorem test_met_ClockRegisters_14 :
    ∃ (s : State) (o : Order), Alone o ∧ o.w.v % 2 = 1 ∧ s.pll 3 ≠ s.pllReset 3 ∧ s.rdb .YOK_CTRL_HOLD_ALL = false :=
  ⟨(w0.wr .CLK_PLL_FBDIV 64 0 3).wr .CLK_PLL_POSTDIV 2 0 3, ⟨⟨.pf, 1⟩, []⟩, by decide +kernel⟩

/-- Device time: set by the host, by TIME_PPS, and its half rate: CLK_DTCTRL.SET puts the time set into device time. -/
theorem test_met_DeviceTime_1 :
    ∃ (s : State) (o : Order), Alone o ∧ o.w.v % 2 = 1 :=
  ⟨w0.wr .CLK_DTSET_TIME (2 ^ 64 - 1), ⟨⟨.pf, 1⟩, []⟩, by decide +kernel⟩

/-- Device time: set by the host, by TIME_PPS, and its half rate: CLK_DTCTRL.SET_PPS asks for the next edge. -/
theorem test_met_DeviceTime_2 :
    ∃ (s : State) (o : Order), Alone o ∧ o.w.v % 2 = 1 :=
  ⟨w0, ⟨⟨.pf, 1⟩, []⟩, by decide +kernel⟩

/-- Device time: set by the host, by TIME_PPS, and its half rate: the next edge of TIME_PPS puts the time set into device time and takes the request back. -/
theorem test_met_DeviceTime_3 :
    ∃ (s : State), s.rdb .CLK_DTCTRL_PPS_EN = true ∧ s.rdb .CLK_DTCTRL_SET_PPS = true :=
  ⟨((w0.wr .CLK_DTCTRL_PPS_EN 1).wr .CLK_DTCTRL_SET_PPS 1).wr .CLK_DTSET_TIME 5, by decide +kernel⟩

/-- Device time: set by the host, by TIME_PPS, and its half rate: an edge further from the second than the window is counted as rejected and moves no time. -/
theorem test_met_DeviceTime_4 :
    ∃ (s : State), s.rdb .CLK_DTCTRL_PPS_EN = true ∧ s.rdb .CLK_DTCTRL_SET_PPS = false ∧ (ppsError s.now).natAbs > 1000 * s.rd .CLK_DTCTRL_WINDOW :=
  ⟨{ (w0.wr .CLK_DTCTRL_PPS_EN 1).wr .CLK_DTCTRL_WINDOW 1 with dt := 8 * 1001 }, by decide +kernel⟩

/-- Device time: set by the host, by TIME_PPS, and its half rate: an edge while PPS_EN is 0 only triggers what waits for it. -/
theorem test_met_DeviceTime_5 :
    ∃ (s : State), s.ppsTrigger.rdb .CLK_DTCTRL_PPS_EN = false :=
  ⟨w0, by decide +kernel⟩

/-- Device time: set by the host, by TIME_PPS, and its half rate: an accepted edge while device time is ahead starts the half rate, to absorb the error. -/
theorem test_met_DeviceTime_6 :
    ∃ (s : State), s.rdb .CLK_DTCTRL_PPS_EN = true ∧ s.rdb .CLK_DTCTRL_SET_PPS = false ∧ 0 < ppsError s.now ∧ (ppsError s.now).natAbs ≤ 1000 *
      s.rd .CLK_DTCTRL_WINDOW :=
  ⟨{ (w0.wr .CLK_DTCTRL_PPS_EN 1).wr .CLK_DTCTRL_WINDOW 1 with dt := 8 * 1000 }, by decide +kernel⟩

/-- Device time: set by the host, by TIME_PPS, and its half rate: an accepted edge while device time is behind adds the error at once. -/
theorem test_met_DeviceTime_7 :
    ∃ (s : State), s.rdb .CLK_DTCTRL_PPS_EN = true ∧ s.rdb .CLK_DTCTRL_SET_PPS = false ∧ ppsError s.now < 0 ∧ (ppsError s.now).natAbs ≤ 1000 *
      s.rd .CLK_DTCTRL_WINDOW :=
  ⟨{ (w0.wr .CLK_DTCTRL_PPS_EN 1).wr .CLK_DTCTRL_WINDOW 1 with dt := 8 * 999999000 }, by decide +kernel⟩

/-- Device time: set by the host, by TIME_PPS, and its half rate: 3 s without an accepted edge: PPS is lost. -/
theorem test_met_DeviceTime_8 :
    ∃ (s : State), s.rdb .CLK_DTCTRL_PPS_EN = true ∧ s.rdb .CLK_DTCTRL_PPS_LOST = false ∧ (s.ax .lastPps - 1) + 3000000000 ≤ s.now :=
  ⟨{ w0.wr .CLK_DTCTRL_PPS_EN 1 with dt := 8 * 3000000000 }, by decide +kernel⟩

/-- Device time: set by the host, by TIME_PPS, and its half rate: the error is absorbed: the half rate ends. -/
theorem test_met_DeviceTime_9 :
    ∃ (s : State), s.ax .halfRate = 1 ∧ s.ax .ppsAbsorb = 0 :=
  ⟨w0.setAx .halfRate 1, by decide +kernel⟩

/-- Power measurement, thermal protection and hand-back: a measurement of the dies is stored, saturated at 65,535, for every online die. -/
theorem test_met_PowerManager_1 :
    ∃ (s : State) (meas : List Nat) (d : Nat), s.online d = true :=
  ⟨w0, [65536, 65535], 1, by decide +kernel⟩

/-- Power measurement, thermal protection and hand-back: at Tj_max - MARGIN or above, the allowance of the die falls by 10 (percentage points: the model's reading, log entry 80). -/
theorem test_met_PowerManager_2 :
    ∃ (s : State) (d : Nat) (t : Int), s.online d = true ∧ d < 16 ∧ t ≥ 16 * ((tjMax s.part : Int) - s.rd .PWR_THERM_MARGIN) :=
  ⟨w0, 1, 16 * ((tjMax w0.part : Int) - w0.rd .PWR_THERM_MARGIN), by decide +kernel⟩

/-- Power measurement, thermal protection and hand-back: between the two temperatures neither check has an effect. -/
theorem test_met_PowerManager_3 :
    ∃ (s : State) (d : Nat) (t : Int), t < 16 * ((tjMax s.part : Int) - s.rd .PWR_THERM_MARGIN) :=
  ⟨w0, 1, 0, by decide +kernel⟩

/-- Power measurement, thermal protection and hand-back: below Tj_max - MARGIN - 2 K, the allowance of the die rises by 5. -/
theorem test_met_PowerManager_4 :
    ∃ (s : State) (d : Nat) (t : Int), s.online d = true ∧ d < 16 ∧ t < 16 * ((tjMax s.part : Int) - s.rd .PWR_THERM_MARGIN - 2) :=
  ⟨(w0.setAx .thermCut 5 1).wr .PWR_STAT_THERM 3, 1, 0, by decide +kernel⟩

/-- Power measurement, thermal protection and hand-back: the comparator of a die trips: the die goes offline with cause THERMAL, and TSHUT latches. -/
theorem test_met_PowerManager_5 :
    ∃ (s : State) (d : Nat) (t : Int), s.online d = true ∧ d < 16 :=
  ⟨w0, 1, 2000, by decide +kernel⟩

/-- Power measurement, thermal protection and hand-back: PWR_CTRL.HANDBACK: the reset budgets of each die, and the firmware. -/
theorem test_met_PowerManager_6 :
    ∃ (s : State) (o : Order), Alone o ∧ o.w.v % 2 = 1 :=
  ⟨w0.wr .PWR_DIE_BUDGET 1 0 1, ⟨⟨.pf, 1⟩, []⟩, by decide +kernel⟩

/-- Shedding: PWR_SHED rises, the windows, and the way back: PWR_SHED rises: SHED_IN sets, and the throttle of before is kept, or, while the steps back of the shed before still run, the one that they bring back. -/
theorem test_met_PowerShedding_1 :
    ∃ (s : State), s.rdb .PWR_STAT_SHED_IN = false :=
  ⟨w0.wr .PWR_STAT_SHED_MET 1, by decide +kernel⟩

/-- Shedding: PWR_SHED rises, the windows, and the way back: in the first 2 ms of a shed, a duty step lowers each duty above the shed duty by at most 32 towards it, where the array is the firmware's. -/
theorem test_met_PowerShedding_2 :
    ∃ (s : State) (d : Nat), s.shedFirst = true ∧ s.online d = true ∧ s.rdb .DGA_STATUS_EXPERT d = false ∧ s.shedDutyOf d < s.rd .DGA_DUTY_DUTY d :=
  ⟨{ ((w0.wr .PWR_STAT_SHED_IN 1).wr .PWR_SHED_BUDGET_WATTS 100).setAx .shedAt 1 with dt := 8 * 1999999 }, 1, by decide +kernel⟩

/-- Shedding: PWR_SHED rises, the windows, and the way back: PWR_SHED falls: SHED_IN clears, and 8 steps back begin. -/
theorem test_met_PowerShedding_3 :
    ∃ (s : State), s.rdb .PWR_STAT_SHED_IN = true :=
  ⟨w0.wr .PWR_STAT_SHED_IN 1, by decide +kernel⟩

/-- Shedding: PWR_SHED rises, the windows, and the way back: the last step back brings the throttle of before, where the Yoke is the firmware's. -/
theorem test_met_PowerShedding_4 :
    ∃ (s : State), s.ax .shedSteps = 1 ∧ s.rdb .PWR_STAT_SHED_IN = false ∧ s.rdb .YOK_STATUS_EXPERT = false :=
  ⟨(w0.setAx .shedSteps 1).setAx .shedOldThrottle 65535, by decide +kernel⟩

/-- Shedding: PWR_SHED rises, the windows, and the way back: a window whose mean is within the budget sets SHED_MET. -/
theorem test_met_PowerShedding_5 :
    ∃ (s : State) (mean : Nat), s.rdb .PWR_STAT_SHED_IN = true ∧ mean ≤ s.rd .PWR_SHED_BUDGET_WATTS :=
  ⟨(w0.wr .PWR_STAT_SHED_IN 1).wr .PWR_SHED_BUDGET_WATTS 7, 7, by decide +kernel⟩

/-- Shedding: PWR_SHED rises, the windows, and the way back: a window whose mean is over the budget clears SHED_MET and is remembered as missed. -/
theorem test_met_PowerShedding_6 :
    ∃ (s : State) (mean : Nat), s.rdb .PWR_STAT_SHED_IN = true ∧ s.rd .PWR_SHED_BUDGET_WATTS < mean :=
  ⟨(w0.wr .PWR_STAT_SHED_IN 1).wr .PWR_SHED_BUDGET_WATTS 7, 8, by decide +kernel⟩

/-- Shedding: PWR_SHED rises, the windows, and the way back: after ADVISE minutes of shedding it counts as long. -/
theorem test_met_PowerShedding_7 :
    ∃ (s : State), s.rdb .PWR_STAT_SHED_IN = true ∧ s.rd .PWR_SHED_CFG_ADVISE ≠ 0 ∧ s.ax .shedLong = 0 ∧ (s.ax .shedAt - 1) +
      s.rd .PWR_SHED_CFG_ADVISE * 60000000000 ≤ s.now :=
  ⟨{ (w0.wr .PWR_STAT_SHED_IN 1).wr .PWR_SHED_CFG_ADVISE 1 with dt := 480000000000 }, by decide +kernel⟩

/-- What a received ACK, NAK, HEARTBEAT, JOURNAL or STATE flit does, on a link that is up: ACK takes off the flits that it acknowledges; the others stay in their order. -/
theorem test_met_FlitsReceived_1 :
    ∃ (s : State) (h : FlitHdr), s.rd .MIR_STAT_LINK = 2 ∧ h.crcOk = true :=
  ⟨{ (w0.wr .MIR_STAT_LINK 2) with flits := [⟨5, 6, true, 1, 7, 0, 0, true⟩, ⟨6, 6, true, 1, 7, 0, 0, true⟩] },
    { seq := 65535, ack := 5, crcOk := true }, by decide +kernel⟩

/-- What a received ACK, NAK, HEARTBEAT, JOURNAL or STATE flit does, on a link that is up: NAK sends again every flit sent that it does not acknowledge, where none has been replayed three times. -/
theorem test_met_FlitsReceived_2 :
    ∃ (s : State) (h : FlitHdr), s.rd .MIR_STAT_LINK = 2 ∧ h.crcOk = true :=
  ⟨{ (w0.wr .MIR_STAT_LINK 2) with flits := [⟨5, 6, true, 1, 7, 0, 0, true⟩, ⟨6, 6, true, 1, 7, 0, 2, true⟩], dt := 80 },
    { seq := 65535, ack := 5, crcOk := true }, by decide +kernel⟩

/-- What a received ACK, NAK, HEARTBEAT, JOURNAL or STATE flit does, on a link that is up: HEARTBEAT of a partner of the other rank: its time, rank, epoch and roles are taken. -/
theorem test_met_FlitsReceived_3 :
    ∃ (s : State) (h : FlitHdr) (rank : Nat) (epoch : Nat) (time : Nat) (roles : List Nat), s.rd .MIR_STAT_LINK = 2 ∧ h.crcOk = true ∧ rank ≠
      s.rd .MIR_CFG_RANK :=
  ⟨{ (w0.wr .MIR_STAT_LINK 2).wr .MIR_STAT_RANK_CLASH 1 with dt := 80 }, { seq := 65535, ack := 5, crcOk := true }, 1, 0, 0, [0, 1, 2],
    by decide +kernel⟩

/-- What a received ACK, NAK, HEARTBEAT, JOURNAL or STATE flit does, on a link that is up: HEARTBEAT of a partner of the same rank sets RANK_CLASH. -/
theorem test_met_FlitsReceived_4 :
    ∃ (s : State) (h : FlitHdr) (rank : Nat) (epoch : Nat) (time : Nat) (roles : List Nat), s.rd .MIR_STAT_LINK = 2 ∧ h.crcOk = true ∧ rank =
      s.rd .MIR_CFG_RANK ∧ s.rd .MIR_STAT_RANK_CLASH ≤ 1 :=
  ⟨((w0.wr .MIR_STAT_LINK 2).setAx .flitAck 65534), { seq := 65535, ack := 5, crcOk := true }, 0, 0, 0, [], by decide +kernel⟩

/-- What a received ACK, NAK, HEARTBEAT, JOURNAL or STATE flit does, on a link that is up: JOURNAL to a STANDBY or FENCED function, a descriptor not held yet: it is held. -/
theorem test_met_FlitsReceived_5 :
    ∃ (s : State) (h : FlitHdr) (fn : Nat) (j : Nat) (d : BitVec 512), s.rd .MIR_STAT_LINK = 2 ∧ h.crcOk = true ∧ h.seq % 2 ^ 16 = (s.ax .flitAck + 1)
      % 2 ^ 16 ∧ s.holdsState fn = true ∧ s.rdb .MIR_STAT_RANK_CLASH = false ∧ s.journal.any (fun e => e.fn == fn && e.job == j) = false :=
  ⟨(((w0.wr .MIR_STAT_LINK 2).setAx .flitAck 65534).wr .MIR_FN_ROLE 2 0 5), { seq := 65535, ack := 5, crcOk := true }, 5, 9, 3#512, by decide +kernel⟩

/-- What a received ACK, NAK, HEARTBEAT, JOURNAL or STATE flit does, on a link that is up: a flit with the number of one already received: it is acknowledged, and no more. -/
theorem test_met_FlitsReceived_6 :
    ∃ (s : State) (h : FlitHdr) (fn : Nat) (m : JournalMsg), s.rd .MIR_STAT_LINK = 2 ∧ h.crcOk = true ∧ h.seq % 2 ^ 16 ≠ (s.ax .flitAck + 1) % 2 ^ 16
      ∧ ackCovers (s.ax .flitAck) (h.seq % 2 ^ 16) = true :=
  ⟨((w0.wr .MIR_STAT_LINK 2).setAx .flitAck 65534).setAx .flitAck 65535, { seq := 65535, ack := 5, crcOk := true }, 5, .unload 1, by decide +kernel⟩

/-- What a received ACK, NAK, HEARTBEAT, JOURNAL or STATE flit does, on a link that is up: a flit that does not follow the last one received: NAK. -/
theorem test_met_FlitsReceived_7 :
    ∃ (s : State) (h : FlitHdr) (fn : Nat) (m : StateMsg), s.rd .MIR_STAT_LINK = 2 ∧ h.crcOk = true ∧ h.seq % 2 ^ 16 ≠ (s.ax .flitAck + 1) % 2 ^ 16 ∧
      ackCovers (s.ax .flitAck) (h.seq % 2 ^ 16) = false :=
  ⟨((w0.wr .MIR_STAT_LINK 2).setAx .flitAck 65534).setAx .flitAck 65533, { seq := 65535, ack := 5, crcOk := true }, 5, .whole, by decide +kernel⟩

/-- What a received ACK, NAK, HEARTBEAT, JOURNAL or STATE flit does, on a link that is up: JOURNAL to it, a program unloaded: it is dropped. -/
theorem test_met_FlitsReceived_8 :
    ∃ (s : State) (h : FlitHdr) (fn : Nat) (k : Nat), s.rd .MIR_STAT_LINK = 2 ∧ h.crcOk = true ∧ h.seq % 2 ^ 16 = (s.ax .flitAck + 1) % 2 ^ 16 ∧
      s.holdsState fn = true ∧ s.rdb .MIR_STAT_RANK_CLASH = false :=
  ⟨{ (((w0.wr .MIR_STAT_LINK 2).setAx .flitAck 65534).wr .MIR_FN_ROLE 2 0 5) with progs := [prog0 false] }, { seq := 65535, ack := 5, crcOk := true },
    5, 1, by decide +kernel⟩

/-- What a received ACK, NAK, HEARTBEAT, JOURNAL or STATE flit does, on a link that is up: JOURNAL to it, a program loaded: it is held under its handle. -/
theorem test_met_FlitsReceived_9 :
    ∃ (s : State) (h : FlitHdr) (fn : Nat) (k : Nat) (b : List Byte), s.rd .MIR_STAT_LINK = 2 ∧ h.crcOk = true ∧ h.seq % 2 ^ 16 = (s.ax .flitAck + 1)
      % 2 ^ 16 ∧ s.holdsState fn = true ∧ s.rdb .MIR_STAT_RANK_CLASH = false :=
  ⟨(((w0.wr .MIR_STAT_LINK 2).setAx .flitAck 65534).wr .MIR_FN_ROLE 2 0 5), { seq := 65535, ack := 5, crcOk := true }, 5, 9, prog0Bytes,
    by decide +kernel⟩

/-- What a received ACK, NAK, HEARTBEAT, JOURNAL or STATE flit does, on a link that is up: JOURNAL to another function, or with RANK_CLASH: only the header is taken, and acknowledged. -/
theorem test_met_FlitsReceived_10 :
    ∃ (s : State) (h : FlitHdr) (fn : Nat) (m : JournalMsg), s.rd .MIR_STAT_LINK = 2 ∧ h.crcOk = true ∧ h.seq % 2 ^ 16 = (s.ax .flitAck + 1) % 2 ^ 16
      ∧ ((s.ackFlits h.ack).holdsState fn = false ∨ (s.ackFlits h.ack).linkOpen = false) :=
  ⟨((w0.wr .MIR_STAT_LINK 2).setAx .flitAck 65534), { seq := 65535, ack := 5, crcOk := true }, 5, .unload 1, by decide +kernel⟩

/-- What a received ACK, NAK, HEARTBEAT, JOURNAL or STATE flit does, on a link that is up: STATE to it, the pointers of a pair: they are taken. -/
theorem test_met_FlitsReceived_11 :
    ∃ (s : State) (h : FlitHdr) (fn : Nat) (p : PtrMsg), s.rd .MIR_STAT_LINK = 2 ∧ h.crcOk = true ∧ h.seq % 2 ^ 16 = (s.ax .flitAck + 1) % 2 ^ 16 ∧
      s.holdsState fn = true ∧ s.rdb .MIR_STAT_RANK_CLASH = false :=
  ⟨(((w0.wr .MIR_STAT_LINK 2).setAx .flitAck 65534).wr .MIR_FN_ROLE 2 0 5), { seq := 65535, ack := 5, crcOk := true }, 5, ⟨3, 0, 1, 2, 4, 4, 15, 14,
    13, 12, 65535⟩, by decide +kernel⟩

/-- What a received ACK, NAK, HEARTBEAT, JOURNAL or STATE flit does, on a link that is up: STATE to it, a commit record: it is held, and of its bytes those in regions that the function declares are written. -/
theorem test_met_FlitsReceived_12 :
    ∃ (s : State) (h : FlitHdr) (fn : Nat) (j : Nat) (q : Nat) (n : Nat) (b : BitVec 128) (w : List (Nat × Byte)), s.rd .MIR_STAT_LINK = 2 ∧ h.crcOk =
      true ∧ h.seq % 2 ^ 16 = (s.ax .flitAck + 1) % 2 ^ 16 ∧ s.holdsState fn = true ∧ s.rdb .MIR_STAT_RANK_CLASH = false :=
  ⟨{ (((w0.wr .MIR_STAT_LINK 2).setAx .flitAck 65534).wr .MIR_FN_ROLE 2 0 5) with regions := [Region.mk 5 0 0 1] },
    { seq := 65535, ack := 5, crcOk := true }, 5, 0, 0, 0, 7#128, [(2 ^ 44, 9), (2 ^ 44 + 4096, 8)], by decide +kernel⟩

/-- What a received ACK, NAK, HEARTBEAT, JOURNAL or STATE flit does, on a link that is up: STATE to it, bytes of a region for which the function has the pages: they are stored. -/
theorem test_met_FlitsReceived_13 :
    ∃ (s : State) (h : FlitHdr) (fn : Nat) (a : Nat) (bs : List Byte), s.rd .MIR_STAT_LINK = 2 ∧ h.crcOk = true ∧ h.seq % 2 ^ 16 = (s.ax .flitAck + 1)
      % 2 ^ 16 ∧ s.holdsState fn = true ∧ s.rdb .MIR_STAT_RANK_CLASH = false ∧ (((s.ackFlits h.ack).setAx .flitAck (h.seq % 2 ^ 16)).holdRegion fn
      (devDie a) (devOff a / 4096) (cdiv bs.length 4096)).1 = true :=
  ⟨(((w0.wr .MIR_STAT_LINK 2).setAx .flitAck 65534).wr .MIR_FN_ROLE 2 0 5).wr .FNQ_Q2_PAGES 9 5, { seq := 65535, ack := 5, crcOk := true }, 5, 2 ^ 44,
    [1, 2], by decide +kernel⟩

/-- What a received ACK, NAK, HEARTBEAT, JOURNAL or STATE flit does, on a link that is up: STATE to it, quotas, grants and JOB_CFG: they are taken. -/
theorem test_met_FlitsReceived_14 :
    ∃ (s : State) (h : FlitHdr) (fn : Nat) (q0 : Nat) (q1 : Nat) (q2 : Nat) (sh : Nat) (g : Nat) (jc : Nat), s.rd .MIR_STAT_LINK = 2 ∧ h.crcOk = true
      ∧ h.seq % 2 ^ 16 = (s.ax .flitAck + 1) % 2 ^ 16 ∧ s.holdsState fn = true ∧ s.rdb .MIR_STAT_RANK_CLASH = false :=
  ⟨(((w0.wr .MIR_STAT_LINK 2).setAx .flitAck 65534).wr .MIR_FN_ROLE 2 0 5), { seq := 65535, ack := 5, crcOk := true }, 5, 0, 2, 3, 0, 2 ^ 63, 65536 +
    7, by decide +kernel⟩

/-- What a received ACK, NAK, HEARTBEAT, JOURNAL or STATE flit does, on a link that is up: STATE to it, a map of a slot that it may use, not bound here and unlike the active one: MISMATCH, not READY. -/
theorem test_met_FlitsReceived_15 :
    ∃ (s : State) (h : FlitHdr) (fn : Nat) (k : Nat) (m : Nat) (dg : Nat) (md : Nat), s.rd .MIR_STAT_LINK = 2 ∧ h.crcOk = true ∧ h.seq % 2 ^ 16 =
      (s.ax .flitAck + 1) % 2 ^ 16 ∧ s.holdsState fn = true ∧ s.rdb .MIR_STAT_RANK_CLASH = false ∧ k < 64 ∧ fn < 128 ∧ bit (s.rd .FNQ_GRANT_SLOT fn) k =
      true ∧ s.mapDigest k (s.activeMap k) ≠ dg ∧ s.mapOf k m = none ∧ s.activeMap k ≠ m :=
  ⟨((((w0.wr .MIR_STAT_LINK 2).setAx .flitAck 65534).wr .MIR_FN_ROLE 2 0 5).wr .FNQ_GRANT_SLOT (2 ^ 63) 5), { seq := 65535, ack := 5, crcOk := true },
    5, 63, 1, 77, 0, by decide +kernel⟩

/-- What a received ACK, NAK, HEARTBEAT, JOURNAL or STATE flit does, on a link that is up: STATE to it, whole: it is READY unless a slot that it may use differs. -/
theorem test_met_FlitsReceived_16 :
    ∃ (s : State) (h : FlitHdr) (fn : Nat), s.rd .MIR_STAT_LINK = 2 ∧ h.crcOk = true ∧ h.seq % 2 ^ 16 = (s.ax .flitAck + 1) % 2 ^ 16 ∧ s.holdsState fn
      = true ∧ s.rdb .MIR_STAT_RANK_CLASH = false :=
  ⟨(((w0.wr .MIR_STAT_LINK 2).setAx .flitAck 65534).wr .MIR_FN_ROLE 2 0 5), { seq := 65535, ack := 5, crcOk := true }, 5, by decide +kernel⟩

/-- What a received ACK, NAK, HEARTBEAT, JOURNAL or STATE flit does, on a link that is up: STATE with RANK_CLASH: only the header is taken, and acknowledged. -/
theorem test_met_FlitsReceived_17 :
    ∃ (s : State) (h : FlitHdr) (fn : Nat) (m : StateMsg), s.rd .MIR_STAT_LINK = 2 ∧ h.crcOk = true ∧ h.seq % 2 ^ 16 = (s.ax .flitAck + 1) % 2 ^ 16 ∧
      (s.ackFlits h.ack).linkOpen = false :=
  ⟨((w0.wr .MIR_STAT_LINK 2).setAx .flitAck 65534).wr .MIR_STAT_RANK_CLASH 1, { seq := 65535, ack := 5, crcOk := true }, 5, .whole, by decide +kernel⟩

/-- What a received ACK, NAK, HEARTBEAT, JOURNAL or STATE flit does, on a link that is up: STATE of an ACTIVE function, the map of a slot: its digest is noted. -/
theorem test_met_FlitsReceived_18 :
    ∃ (s : State) (h : FlitHdr) (fn : Nat) (k : Nat) (m : Nat) (dg : Nat) (md : Nat), s.rd .MIR_STAT_LINK = 2 ∧ h.crcOk = true ∧ h.seq % 2 ^ 16 =
      (s.ax .flitAck + 1) % 2 ^ 16 ∧ s.role fn = roleActive ∧ s.rdb .MIR_STAT_RANK_CLASH = false :=
  ⟨((w0.wr .MIR_STAT_LINK 2).setAx .flitAck 65534).wr .MIR_FN_ROLE 1 0 5, { seq := 65535, ack := 5, crcOk := true }, 5, 63, 0, 77, 0,
    by decide +kernel⟩

/-- A flit with a bad CRC is discarded and answered with NAK; what a good DOORBELL or ORDER flit does: HEARTBEAT with a bad CRC. -/
theorem test_met_FlitsDiscarded_1 :
    ∃ (s : State) (h : FlitHdr) (a : Nat) (b : Nat) (c : Nat) (r : List Nat), s.rd .MIR_STAT_LINK = 2 ∧ h.crcOk = false :=
  ⟨((w0.wr .MIR_STAT_LINK 2).setAx .flitAck 65534), { seq := 65535, ack := 5, crcOk := false }, 0, 0, 0, [], by decide +kernel⟩

/-- A flit with a bad CRC is discarded and answered with NAK; what a good DOORBELL or ORDER flit does: ACK with a bad CRC. -/
theorem test_met_FlitsDiscarded_2 :
    ∃ (s : State) (h : FlitHdr), s.rd .MIR_STAT_LINK = 2 ∧ h.crcOk = false :=
  ⟨((w0.wr .MIR_STAT_LINK 2).setAx .flitAck 65534), { seq := 65535, ack := 5, crcOk := false }, by decide +kernel⟩

/-- A flit with a bad CRC is discarded and answered with NAK; what a good DOORBELL or ORDER flit does: NAK with a bad CRC. -/
theorem test_met_FlitsDiscarded_3 :
    ∃ (s : State) (h : FlitHdr), s.rd .MIR_STAT_LINK = 2 ∧ h.crcOk = false :=
  ⟨((w0.wr .MIR_STAT_LINK 2).setAx .flitAck 65534), { seq := 65535, ack := 5, crcOk := false }, by decide +kernel⟩

/-- A flit with a bad CRC is discarded and answered with NAK; what a good DOORBELL or ORDER flit does: JOURNAL with a bad CRC. -/
theorem test_met_FlitsDiscarded_4 :
    ∃ (s : State) (h : FlitHdr) (a : Nat) (m : JournalMsg), s.rd .MIR_STAT_LINK = 2 ∧ h.crcOk = false :=
  ⟨((w0.wr .MIR_STAT_LINK 2).setAx .flitAck 65534), { seq := 65535, ack := 5, crcOk := false }, 0, .unload 1, by decide +kernel⟩

/-- A flit with a bad CRC is discarded and answered with NAK; what a good DOORBELL or ORDER flit does: STATE with a bad CRC. -/
theorem test_met_FlitsDiscarded_5 :
    ∃ (s : State) (h : FlitHdr) (a : Nat) (m : StateMsg), s.rd .MIR_STAT_LINK = 2 ∧ h.crcOk = false :=
  ⟨((w0.wr .MIR_STAT_LINK 2).setAx .flitAck 65534), { seq := 65535, ack := 5, crcOk := false }, 0, .whole, by decide +kernel⟩

/-- A flit with a bad CRC is discarded and answered with NAK; what a good DOORBELL or ORDER flit does: DOORBELL with a bad CRC. -/
theorem test_met_FlitsDiscarded_6 :
    ∃ (s : State) (h : FlitHdr) (a : Nat) (b : Nat) (c : Nat) (q : BellInfo), s.rd .MIR_STAT_LINK = 2 ∧ h.crcOk = false :=
  ⟨((w0.wr .MIR_STAT_LINK 2).setAx .flitAck 65534), { seq := 65535, ack := 5, crcOk := false }, 0, 0, 0, ⟨true, []⟩, by decide +kernel⟩

/-- A flit with a bad CRC is discarded and answered with NAK; what a good DOORBELL or ORDER flit does: ORDER with a bad CRC. -/
theorem test_met_FlitsDiscarded_7 :
    ∃ (s : State) (h : FlitHdr) (m : MirOrder) (r : Option Master), s.rd .MIR_STAT_LINK = 2 ∧ h.crcOk = false :=
  ⟨((w0.wr .MIR_STAT_LINK 2).setAx .flitAck 65534), { seq := 65535, ack := 5, crcOk := false }, .handover 1 [], none, by decide +kernel⟩

/-- A flit with a bad CRC is discarded and answered with NAK; what a good DOORBELL or ORDER flit does: DOORBELL of a submission queue of an ACTIVE function: of the indices given in the cycle the furthest, where it moves on within the queue, is taken. -/
theorem test_met_FlitsDiscarded_8 :
    ∃ (s : State) (h : FlitHdr) (fn : Nat) (e : Nat) (v : Nat) (u : Nat) (l : List Wr), s.rd .MIR_STAT_LINK = 2 ∧ h.crcOk = true ∧ h.seq % 2 ^ 16 =
      (s.ax .flitAck + 1) % 2 ^ 16 ∧ s.role fn = roleActive ∧ s.rd .QP_STAT_STATE fn e = 1 ∧ (doorbell ⟨⟨.mirror, v⟩, l⟩ (s.rd .QP_STAT_SQHEAD fn e) (2
      ^ s.rd .QP_CFG_SQLOG2 fn e)).v = u ∧ u < 2 ^ s.rd .QP_CFG_SQLOG2 fn e ∧ (s.rd .QP_SQTAIL_INDEX fn e + 2 ^ s.rd .QP_CFG_SQLOG2 fn e -
      s.rd .QP_STAT_SQHEAD fn e) % 2 ^ s.rd .QP_CFG_SQLOG2 fn e ≤ (u + 2 ^ s.rd .QP_CFG_SQLOG2 fn e - s.rd .QP_STAT_SQHEAD fn e) % 2 ^
      s.rd .QP_CFG_SQLOG2 fn e ∧ (∀ j ∈ s.jobs, j.st ≠ .ackWait) :=
  ⟨(((((w0.wr .MIR_STAT_LINK 2).setAx .flitAck 65534).setAx .flitAck 65534).wr .MIR_FN_ROLE 1 0 5).wr .QP_STAT_STATE 1 5).wr .QP_CFG_SQLOG2 4 5,
    { seq := 65535, ack := 5, crcOk := true }, 5, 0, 14, 15, [⟨.vf 5, 15⟩], by decide +kernel⟩

/-- A flit with a bad CRC is discarded and answered with NAK; what a good DOORBELL or ORDER flit does: DOORBELL of a completion queue of an ACTIVE function: the same, within the completions unread. -/
theorem test_met_FlitsDiscarded_9 :
    ∃ (s : State) (h : FlitHdr) (fn : Nat) (e : Nat) (v : Nat) (q : Nat) (u : Nat) (l : List Wr), s.rd .MIR_STAT_LINK = 2 ∧ h.crcOk = true ∧ h.seq % 2
      ^ 16 = (s.ax .flitAck + 1) % 2 ^ 16 ∧ s.role fn = roleActive ∧ s.rd .QP_STAT_STATE fn e = 1 ∧ s.pairOf fn e = some q ∧ (doorbell ⟨⟨.mirror, v⟩, l⟩
      (s.rd .QP_CQHEAD_INDEX fn e) (2 ^ s.rd .QP_CFG_CQLOG2 fn e)).v = u ∧ u < 2 ^ s.rd .QP_CFG_CQLOG2 fn e ∧ (u + 2 ^ s.rd .QP_CFG_CQLOG2 fn e -
      s.rd .QP_CQHEAD_INDEX fn e) % 2 ^ s.rd .QP_CFG_CQLOG2 fn e ≤ s.unread q ∧ (∀ j ∈ s.jobs, j.st ≠ .ackWait) :=
  ⟨((((((w0.wr .MIR_STAT_LINK 2).setAx .flitAck 65534).setAx .flitAck 65534).wr .MIR_FN_ROLE 1 0 5).wr .QP_STAT_STATE 1 5).wr .QP_CFG_CQLOG2 4
    5).setQp 9 (some ⟨5, 0, 7, 5, 1, none⟩), { seq := 65535, ack := 5, crcOk := true }, 5, 0, 3, 9, 3, [], by decide +kernel⟩

/-- A flit with a bad CRC is discarded and answered with NAK; what a good DOORBELL or ORDER flit does: DOORBELL of another function: only the header is taken, and acknowledged. -/
theorem test_met_FlitsDiscarded_10 :
    ∃ (s : State) (h : FlitHdr) (fn : Nat) (e : Nat) (v : Nat) (c : BellInfo), s.rd .MIR_STAT_LINK = 2 ∧ h.crcOk = true ∧ h.seq % 2 ^ 16 =
      (s.ax .flitAck + 1) % 2 ^ 16 ∧ (s.ackFlits h.ack).role fn ≠ roleActive :=
  ⟨((w0.wr .MIR_STAT_LINK 2).setAx .flitAck 65534).setAx .flitAck 65534, { seq := 65535, ack := 5, crcOk := true }, 5, 0, 0, ⟨true, []⟩,
    by decide +kernel⟩

/-- A flit with a bad CRC is discarded and answered with NAK; what a good DOORBELL or ORDER flit does: ORDER, a region declared, with the pages free and within the quota: the function holds it. -/
theorem test_met_FlitsDiscarded_11 :
    ∃ (s : State) (h : FlitHdr) (f : Nat) (d : Nat) (first : Nat) (n : Nat), s.rd .MIR_STAT_LINK = 2 ∧ h.crcOk = true ∧ h.seq % 2 ^ 16 =
      (s.ax .flitAck + 1) % 2 ^ 16 ∧ s.online d = true ∧ s.pagesFree d first n = true ∧ s.held f resLpddr + n ≤ s.quota f resLpddr ∧ (∀ j ∈ s.jobs, j.st
      ≠ .ackWait) :=
  ⟨((w0.wr .MIR_STAT_LINK 2).setAx .flitAck 65534).wr .FNQ_Q2_PAGES 9 5, { seq := 65535, ack := 5, crcOk := true }, 5, 1, 0, 2, by decide +kernel⟩

/-- A flit with a bad CRC is discarded and answered with NAK; what a good DOORBELL or ORDER flit does: ORDER, a handover: the STANDBY functions that it names become ACTIVE. -/
theorem test_met_FlitsDiscarded_12 :
    ∃ (s : State) (h : FlitHdr) (fm : BitVec 128) (l : List (Nat × Bool)), s.rd .MIR_STAT_LINK = 2 ∧ h.crcOk = true ∧ h.seq % 2 ^ 16 = (s.ax .flitAck
      + 1) % 2 ^ 16 :=
  ⟨(((w0.wr .MIR_STAT_LINK 2).setAx .flitAck 65534).wr .MIR_FN_ROLE 2 0 5), { seq := 65535, ack := 5, crcOk := true }, 32#128, [], by decide +kernel⟩

/-- A flit with a bad CRC is discarded and answered with NAK; what a good DOORBELL or ORDER flit does: ORDER, a region declared without room or beyond the quota: it is not held. -/
theorem test_met_FlitsDiscarded_13 :
    ∃ (s : State) (h : FlitHdr) (f : Nat) (d : Nat) (first : Nat) (n : Nat), s.rd .MIR_STAT_LINK = 2 ∧ h.crcOk = true ∧ h.seq % 2 ^ 16 =
      (s.ax .flitAck + 1) % 2 ^ 16 ∧ (s.online d = false ∨ s.pagesFree d first n = false ∨ s.quota f resLpddr < s.held f resLpddr + n) ∧ (∀ j ∈ s.jobs,
      j.st ≠ .ackWait) :=
  ⟨((w0.wr .MIR_STAT_LINK 2).setAx .flitAck 65534), { seq := 65535, ack := 5, crcOk := true }, 5, 9, 0, 2, by decide +kernel⟩

/-- A flit with a bad CRC is discarded and answered with NAK; what a good DOORBELL or ORDER flit does: ORDER, a switch to a map bound here, not active and not ready: it waits. -/
theorem test_met_FlitsDiscarded_14 :
    ∃ (s : State) (h : FlitHdr) (k : Nat) (m : Nat), s.rd .MIR_STAT_LINK = 2 ∧ h.crcOk = true ∧ h.seq % 2 ^ 16 = (s.ax .flitAck + 1) % 2 ^ 16 ∧
      s.activeMap k ≠ m ∧ (s.mapOf k m).isSome = true ∧ s.mapReady k m = false ∧ (∀ j ∈ s.jobs, j.st ≠ .ackWait) :=
  ⟨{ ((w0.wr .MIR_STAT_LINK 2).setAx .flitAck 65534) with maps := [map0] }, { seq := 65535, ack := 5, crcOk := true }, 0, 1, by decide +kernel⟩

/-- A flit with a bad CRC is discarded and answered with NAK; what a good DOORBELL or ORDER flit does: ORDER, a handover refused by the partner: the command is no more running. -/
theorem test_met_FlitsDiscarded_15 :
    ∃ (s : State) (h : FlitHdr) (st : Nat), s.rd .MIR_STAT_LINK = 2 ∧ h.crcOk = true ∧ h.seq % 2 ^ 16 = (s.ax .flitAck + 1) % 2 ^ 16 :=
  ⟨{ ((w0.wr .MIR_STAT_LINK 2).setAx .flitAck 65534) with cmds := [{ cmd0 opPairHandover (32 * 256 ^ 16) with st := .running }] },
    { seq := 65535, ack := 5, crcOk := true }, 9, by decide +kernel⟩

/-- A flit with a bad CRC is discarded and answered with NAK; what a good DOORBELL or ORDER flit does: ORDER, in the same cycle as a higher-ranked order for its target: superseded. -/
theorem test_met_FlitsDiscarded_16 :
    ∃ (s : State) (h : FlitHdr) (m : MirOrder) (r : Master), s.rd .MIR_STAT_LINK = 2 ∧ h.crcOk = true ∧ h.seq % 2 ^ 16 = (s.ax .flitAck + 1) % 2 ^ 16
      ∧ masterRank r < masterRank .mirror :=
  ⟨((w0.wr .MIR_STAT_LINK 2).setAx .flitAck 65534), { seq := 65535, ack := 5, crcOk := true }, .handover 0 [], .pf, by decide +kernel⟩

/-- The mirror link's timers and training, takeover and fencing: the heartbeat goes out, with the rank, the epoch, device time and the roles, and a heartbeat missed is counted. -/
theorem test_met_MirrorLinkAndPair_1 :
    ∃ (s : State), s.rd .MIR_STAT_LINK = 2 ∧ s.rdb .MIR_CFG_ENABLE = true :=
  ⟨((w0.wr .MIR_STAT_LINK 2).setAx .flitAck 65534).wr .MIR_CFG_ENABLE 1, by decide +kernel⟩

/-- The mirror link's timers and training, takeover and fencing: a heartbeat missed is counted also while the link is down. -/
theorem test_met_MirrorLinkAndPair_2 :
    ∃ (s : State), s.rdb .MIR_CFG_ENABLE = true ∧ s.ax .hbSeen = 0 :=
  ⟨w0.wr .MIR_CFG_ENABLE 1, by decide +kernel⟩

/-- The mirror link's timers and training, takeover and fencing: 20 µs without an acknowledgement: a flit sent is sent again, where none has been replayed three times. -/
theorem test_met_MirrorLinkAndPair_3 :
    ∃ (s : State), s.rd .MIR_STAT_LINK = 2 :=
  ⟨{ ((w0.wr .MIR_STAT_LINK 2).setAx .flitAck 65534) with flits := [⟨5, 6, true, 1, 7, 0, 0, true⟩, ⟨6, 6, true, 1, 7, 1, 2, true⟩], dt := 160000 },
    by decide +kernel⟩

/-- The mirror link's timers and training, takeover and fencing: a flit that would be replayed a fourth time: the link goes back to training. -/
theorem test_met_MirrorLinkAndPair_4 :
    ∃ (s : State), s.rd .MIR_STAT_LINK = 2 ∧ s.flits.any (fun f => f.sent && decide (f.time + 20000 ≤ s.now) && decide (3 ≤ f.replays)) = true :=
  ⟨{ ((w0.wr .MIR_STAT_LINK 2).setAx .flitAck 65534) with flits := [⟨5, 6, true, 1, 7, 0, 3, true⟩], dt := 160000 }, by decide +kernel⟩

/-- The mirror link's timers and training, takeover and fencing: the link trains at 4 or 8 lanes: it is up, and carries state only after a heartbeat. -/
theorem test_met_MirrorLinkAndPair_5 :
    ∃ (s : State) (n : Nat), (n = 4 ∨ n = 8) ∧ s.rd .MIR_STAT_LINK = 1 :=
  ⟨w0.wr .MIR_STAT_LINK 1, 8, by decide +kernel⟩

/-- The mirror link's timers and training, takeover and fencing: the link does not train: it is off. -/
theorem test_met_MirrorLinkAndPair_6 :
    ∃ (s : State) (n : Nat), n ≠ 4 ∧ n ≠ 8 ∧ s.rd .MIR_STAT_LINK = 1 :=
  ⟨w0.wr .MIR_STAT_LINK 1, 7, by decide +kernel⟩

/-- The mirror link's timers and training, takeover and fencing: no acknowledgement of a commit within ACK_MAX: the pair is SOLO, and the job waits for no acknowledgement. -/
theorem test_met_MirrorLinkAndPair_7 :
    ∃ (s : State) (i : Nat) (j : Job), s.job i = some j ∧ j.st = .ackWait ∧ j.ackAt + 1000 * s.rd .MIR_CFG_ACK_MAX ≤ s.now :=
  ⟨{ ((w0.wr .MIR_STAT_LINK 2).setAx .flitAck 65534) with jobs := [{ jobR with st := .ackWait }], dt := 8 * 200000 }, 7, { jobR with st := .ackWait },
    by decide +kernel⟩

/-- The mirror link's timers and training, takeover and fencing: 300 µs without a heartbeat: the link goes back to training. -/
theorem test_met_MirrorLinkAndPair_8 :
    ∃ (s : State), s.rd .MIR_STAT_LINK = 2 ∧ s.ax .hbTimer ≠ 0 ∧ s.rd .MIR_LASTHB_TIME + 300000 ≤ s.now :=
  ⟨{ ((w0.wr .MIR_STAT_LINK 2).setAx .flitAck 65534).setAx .hbTimer 1 with dt := 8 * 300000 }, by decide +kernel⟩

/-- The mirror link's timers and training, takeover and fencing: then, with AUTO_TAKE, a member of rank 0 with a STANDBY function that sees no PAIR_TAKE takes. -/
theorem test_met_MirrorLinkAndPair_9 :
    ∃ (s : State), s.ax .hbTimer ≠ 0 ∧ s.rd .MIR_LASTHB_TIME + 300000 ≤ s.now ∧ s.rdb .MIR_CFG_AUTO_TAKE = true ∧ s.rdb .MIR_CFG_RANK = false ∧
      s.rdb .MIR_STAT_TAKE_SEEN = false ∧ (s.withRole roleStandby).isEmpty = false :=
  ⟨{ (((w0.wr .MIR_STAT_LINK 2).setAx .flitAck 65534).wr .MIR_FN_ROLE 2 0 5).setAx .hbTimer 1 with dt := 8 * 300000 }, by decide +kernel⟩

/-- The mirror link's timers and training, takeover and fencing: and a member of rank 1 waits. -/
theorem test_met_MirrorLinkAndPair_10 :
    ∃ (s : State), s.ax .hbTimer ≠ 0 ∧ s.rd .MIR_LASTHB_TIME + 300000 ≤ s.now ∧ s.rdb .MIR_CFG_AUTO_TAKE = true ∧ s.rdb .MIR_CFG_RANK = true ∧
      (s.withRole roleStandby).isEmpty = false :=
  ⟨{ ((((w0.wr .MIR_STAT_LINK 2).setAx .flitAck 65534).wr .MIR_FN_ROLE 2 0 5).wr .MIR_CFG_RANK 1).setAx .hbTimer 1 with dt := 8 * 300000 },
    by decide +kernel⟩

/-- The mirror link's timers and training, takeover and fencing: the wait of rank 1 ends without PAIR_TAKE: it takes. -/
theorem test_met_MirrorLinkAndPair_11 :
    ∃ (s : State), s.ax .rankWait = 1 ∧ s.rd .MIR_LASTHB_TIME + 450000 ≤ s.now ∧ s.rdb .MIR_STAT_TAKE_SEEN = false :=
  ⟨{ w0.setAx .rankWait 1 with dt := 8 * 450000 }, by decide +kernel⟩

/-- The mirror link's timers and training, takeover and fencing: PAIR_TAKE of the partner is seen: the ACTIVE functions are FENCED. -/
theorem test_met_MirrorLinkAndPair_12 :
    ∃ (s : State), s.rdb .MIR_STAT_TAKE_DRIVE = false ∧ s.rdb .MIR_STAT_TAKE_SEEN = false :=
  ⟨w0.wr .MIR_FN_ROLE 1 0 127, by decide +kernel⟩

/-- The mirror link's timers and training, takeover and fencing: the guard of a taking ends: the STANDBY functions that are READY become ACTIVE, alone. -/
theorem test_met_MirrorLinkAndPair_13 :
    ∃ (s : State), s.ax .guardAt ≠ 0 ∧ (s.ax .guardAt - 1) + 20000 ≤ s.now :=
  ⟨{ ((((w0.wr .MIR_STAT_LINK 2).setAx .flitAck 65534).wr .MIR_FN_ROLE 2 0 5).wr .MIR_FN_READY 1 0 5).setAx .guardAt 1 with dt := 160000 },
    by decide +kernel⟩

/-- The mirror link's timers and training, takeover and fencing: PAIR_TAKE of the partner is released: the FENCED functions become STANDBY. -/
theorem test_met_MirrorLinkAndPair_14 :
    ∃ (s : State), s.rdb .MIR_STAT_TAKE_SEEN = true :=
  ⟨(w0.wr .MIR_FN_ROLE 3 0 127).wr .MIR_STAT_TAKE_SEEN 1, by decide +kernel⟩

/-- The pair's commands and the writes of its registers: PAIR_HANDOVER that names a function that is not READY: MALFORMED. -/
theorem test_met_MirrorControls_1 :
    ∃ (s : State) (id : Nat) (c : Cmd), s.readyCmd id opPairHandover = some c ∧ (fnsOf ((s.started c).b 16 16)).any (fun f => !s.rdb .MIR_FN_READY 0
      f) = true :=
  ⟨wc opPairHandover (256 ^ 16), 7, cmd0 opPairHandover (256 ^ 16), by decide +kernel⟩

/-- The pair's commands and the writes of its registers: PAIR_HANDOVER of functions that are READY and ACTIVE, on a pair under firmware management: each is being handed over. -/
theorem test_met_MirrorControls_2 :
    ∃ (s : State) (id : Nat) (c : Cmd), s.readyCmd id opPairHandover = some c ∧ s.rd .MIR_STAT_EXPERT = 0 ∧ (s.started c).b 32 1 ≤ 1 ∧ (fnsOf
      ((s.started c).b 16 16)).all (fun f => s.rdb .MIR_FN_READY 0 f && s.role f == roleActive) = true :=
  ⟨((wc opPairHandover (32 * 256 ^ 16)).wr .MIR_FN_READY 1 0 5).wr .MIR_FN_ROLE 1 0 5, 7, cmd0 opPairHandover (32 * 256 ^ 16), by decide +kernel⟩

/-- The pair's commands and the writes of its registers: MIR_REGION of pages that the function holds, declared and granted by the partner: the region is declared. -/
theorem test_met_MirrorControls_3 :
    ∃ (s : State) (id : Nat) (c : Cmd), s.readyCmd id opMirRegion = some c ∧ (s.started c).b 16 1 < 128 ∧ (s.started c).b 24 4 ≠ 0 ∧ (s.covers
      ((s.started c).b 16 1) 3 ((s.started c).b 17 1) ((s.started c).b 20 4) ((s.started c).b 24 4)) = true ∧ s.rd .MIR_STAT_EXPERT = 0 ∧ bit
      ((s.started c).b 18 1) 0 = true :=
  ⟨{ wc opMirRegion (256 ^ 17 + 256 ^ 18 + 2 * 256 ^ 24) with allocs := [⟨0, 3, 1, 0, 2⟩] }, 7, cmd0 opMirRegion (256 ^ 17 + 256 ^ 18 + 2 * 256 ^ 24),
    by decide +kernel⟩

/-- The pair's commands and the writes of its registers: MIR_REGION to undeclare a region, granted by the partner: it is declared no more. -/
theorem test_met_MirrorControls_4 :
    ∃ (s : State) (id : Nat) (c : Cmd), s.readyCmd id opMirRegion = some c ∧ (s.started c).b 16 1 < 128 ∧ (s.started c).b 24 4 ≠ 0 ∧ (s.covers
      ((s.started c).b 16 1) 3 ((s.started c).b 17 1) ((s.started c).b 20 4) ((s.started c).b 24 4)) = true ∧ s.rd .MIR_STAT_EXPERT = 0 ∧ bit
      ((s.started c).b 18 1) 0 = false :=
  ⟨{ wc opMirRegion (256 ^ 17 + 2 * 256 ^ 24) with allocs := [⟨0, 3, 1, 0, 2⟩], regions := [Region.mk 0 1 0 2] }, 7, cmd0 opMirRegion (256 ^ 17 + 2 *
    256 ^ 24), by decide +kernel⟩

/-- The pair's commands and the writes of its registers: MIR_REGION of pages that the function does not hold: MALFORMED. -/
theorem test_met_MirrorControls_5 :
    ∃ (s : State) (id : Nat) (k : PartnerAnswer) (c : Cmd), s.readyCmd id opMirRegion = some c ∧ (s.covers ((s.started c).b 16 1) 3 ((s.started c).b
      17 1) ((s.started c).b 20 4) ((s.started c).b 24 4)) = false :=
  ⟨wc opMirRegion (256 ^ 17 + 256 ^ 18 + 2 * 256 ^ 24), 7, .granted, cmd0 opMirRegion (256 ^ 17 + 256 ^ 18 + 2 * 256 ^ 24), by decide +kernel⟩

/-- The pair's commands and the writes of its registers: MIR_CFG.ENABLE set: the link trains. -/
theorem test_met_MirrorControls_6 :
    ∃ (s : State) (o : Order), Alone o ∧ o.w.v % 2 = 1 ∧ s.rd .MIR_CFG_ENABLE = 0 :=
  ⟨w0, ⟨⟨.pf, 1⟩, []⟩, by decide +kernel⟩

/-- The pair's commands and the writes of its registers: MIR_CFG.ENABLE cleared: the link and the pair are off, and no flit waits. -/
theorem test_met_MirrorControls_7 :
    ∃ (s : State) (o : Order), Alone o ∧ o.w.v % 2 = 0 ∧ s.rd .MIR_CFG_ENABLE = 1 :=
  ⟨{ (((w0.wr .MIR_STAT_LINK 2).setAx .flitAck 65534).wr .MIR_CFG_ENABLE 1).wr .MIR_STAT_PAIR 2 with flits := [⟨5, 6, true, 1, 7, 0, 3, true⟩] },
    ⟨⟨.pf, 2⟩, []⟩, by decide +kernel⟩

/-- The pair's commands and the writes of its registers: MIR_CFG.HANDBACK: the reset settings, and the firmware. -/
theorem test_met_MirrorControls_8 :
    ∃ (s : State) (o : Order), Alone o ∧ o.w.v % 2 = 1 :=
  ⟨w0.wr .MIR_CFG_ACK_MAX 7, ⟨⟨.pf, 1⟩, []⟩, by decide +kernel⟩

/-- The pair's commands and the writes of its registers: MIR_CTRL.RELEASE: PAIR_TAKE is driven no more; an expert write. -/
theorem test_met_MirrorControls_9 :
    ∃ (s : State) (o : Order), Alone o ∧ o.w.v % 2 = 1 :=
  ⟨w0.wr .MIR_STAT_TAKE_DRIVE 1, ⟨⟨.pf, 1⟩, []⟩, by decide +kernel⟩

/-- The pair's commands and the writes of its registers: MIR_CTRL.RESYNC on a link that carries state, with an ACTIVE function: the pair synchronises again, and RESYNC reads 1 meanwhile. -/
theorem test_met_MirrorControls_10 :
    ∃ (s : State) (o : Order), Alone o ∧ o.w.v % 2 = 1 ∧ s.linkCarries = true ∧ s.resyncing = false ∧ s.rd .MIR_STAT_PAIR ≠ pairFenced ∧ (s.withRole
      roleActive).any (fun f => s.rdb .MIR_FN_MIRRORED 0 f) = true :=
  ⟨{ ((((w0.wr .MIR_STAT_LINK 2).setAx .flitAck 65534).wr .MIR_FN_MIRRORED 1 0 5).wr .MIR_FN_ROLE 1 0 5).setAx .hbHeard 1 with dt := 80 }, ⟨⟨.pf, 1⟩,
    []⟩, by decide +kernel⟩

/-- The pair's commands and the writes of its registers: MIR_CTRL.RESYNC while the pair synchronises by it, or on a link that carries no state: no effect. -/
theorem test_met_MirrorControls_11 :
    ∃ (s : State) (o : Order), Alone o ∧ o.w.v % 2 = 1 ∧ (s.resyncing = true ∨ s.linkCarries = false) :=
  ⟨w0, ⟨⟨.pf, 1⟩, []⟩, by decide +kernel⟩

/-- The pair's commands and the writes of its registers: MIR_CTRL.CLEAR zeroes the counts. -/
theorem test_met_MirrorControls_12 :
    ∃ (s : State) (o : Order), Alone o ∧ o.w.v % 2 = 1 :=
  ⟨w0.wr .MIR_REPLAY_COUNT 7, ⟨⟨.pf, 1⟩, []⟩, by decide +kernel⟩

/-- The pair's commands and the writes of its registers: MIR_FN.MIRRORED set while no PAIR_TAKE is seen: the function is STANDBY where the partner has it ACTIVE, else ACTIVE. -/
theorem test_met_MirrorControls_13 :
    ∃ (s : State) (f : Nat) (o : Order), Alone o ∧ o.w.v % 2 = 1 ∧ f < 128 ∧ s.rd .MIR_FN_MIRRORED 0 f = 0 ∧ s.rd .MIR_STAT_TAKE_SEEN = 0 :=
  ⟨w0.setAx .peerRole 1 127, 127, ⟨⟨.pf, 1⟩, []⟩, by decide +kernel⟩

/-- The pair's commands and the writes of its registers: MIR_FN.MIRRORED set while PAIR_TAKE of the partner is seen: FENCED (the model's choice, log entry 130). -/
theorem test_met_MirrorControls_14 :
    ∃ (s : State) (f : Nat) (o : Order), Alone o ∧ o.w.v % 2 = 1 ∧ f < 128 ∧ s.rd .MIR_FN_MIRRORED 0 f = 0 ∧ s.rd .MIR_STAT_TAKE_SEEN = 1 :=
  ⟨w0.wr .MIR_STAT_TAKE_SEEN 1, 127, ⟨⟨.pf, 1⟩, []⟩, by decide +kernel⟩

/-- The pair's commands and the writes of its registers: MIR_FN.MIRRORED cleared: the function has no role and is not READY. -/
theorem test_met_MirrorControls_15 :
    ∃ (s : State) (f : Nat) (o : Order), Alone o ∧ o.w.v % 2 = 0 ∧ f < 128 ∧ s.rd .MIR_FN_MIRRORED 0 f = 1 :=
  ⟨(w0.wr .MIR_FN_MIRRORED 1 0 127).wr .MIR_FN_ROLE 1 0 127, 127, ⟨⟨.pf, 2⟩, []⟩, by decide +kernel⟩

/-- What the control instructions do to their task: NOP retires. -/
theorem test_met_ControlInstructions_1 :
    ∃ (s : State) (r : TaskRef) (c : Ctx), s.ctx r = some c ∧ c.job.st = .running ∧ guardOff c.task c.w = false ∧ isOp 0x00 c.w = true :=
  ⟨wi [0] (task0), ri, ci (wi [0] (task0)), by decide +kernel⟩

/-- What the control instructions do to their task: BR goes to its target. -/
theorem test_met_ControlInstructions_2 :
    ∃ (s : State) (r : TaskRef) (c : Ctx), s.ctx r = some c ∧ c.job.st = .running ∧ guardOff c.task c.w = false ∧ isInsn 0x01 0 c.w = true :=
  ⟨wi [insB 1 0 0 0 (2 ^ 32 - 1)] (task0), ri, ci (wi [insB 1 0 0 0 (2 ^ 32 - 1)] (task0)), by decide +kernel⟩

/-- What the control instructions do to their task: BRI to the start of an instruction. -/
theorem test_met_ControlInstructions_3 :
    ∃ (s : State) (r : TaskRef) (c : Ctx), s.ctx r = some c ∧ c.job.st = .running ∧ guardOff c.task c.w = false ∧ isInsn 0x01 1 c.w = true ∧ isStart
      (s.codeFor c.job) (indTarget c) = true :=
  ⟨wi [insB 1 1 3 0 (2 ^ 32 - 1), 0] (taskG [(3, 2)]), ri, ci (wi [insB 1 1 3 0 (2 ^ 32 - 1), 0] (taskG [(3, 2)])), by decide +kernel⟩

/-- What the control instructions do to their task: BRI elsewhere traps with cause BRANCH_TARGET. -/
theorem test_met_ControlInstructions_4 :
    ∃ (s : State) (r : TaskRef) (c : Ctx), s.ctx r = some c ∧ c.job.st = .running ∧ guardOff c.task c.w = false ∧ isInsn 0x01 1 c.w = true ∧ isStart
      (s.codeFor c.job) (indTarget c) = false :=
  ⟨wi [insB 1 1 3 0 0, 0] (taskG [(3, 2)]), ri, ci (wi [insB 1 1 3 0 0, 0] (taskG [(3, 2)])), by decide +kernel⟩

/-- What the control instructions do to their task: BRC goes to its target where its condition holds, else on. -/
theorem test_met_ControlInstructions_5 :
    ∃ (s : State) (r : TaskRef) (c : Ctx), s.ctx r = some c ∧ c.job.st = .running ∧ guardOff c.task c.w = false ∧ isOp 0x02 c.w = true :=
  ⟨wi [insB 2 2 3 0 5] (task0), ri, ci (wi [insB 2 2 3 0 5] (task0)), by decide +kernel⟩

/-- What the control instructions do to their task: LOOP pushes its count, its start and its end. -/
theorem test_met_ControlInstructions_6 :
    ∃ (s : State) (r : TaskRef) (c : Ctx), s.ctx r = some c ∧ c.job.st = .running ∧ guardOff c.task c.w = false ∧ isInsn 0x03 0 c.w = true ∧
      c.task.loops.length < 4 ∧ c.task.gr (iBa c.w) ≠ 0 :=
  ⟨wi [insB 3 0 3 0 5] (taskG [(3, 2)]), ri, ci (wi [insB 3 0 3 0 5] (taskG [(3, 2)])), by decide +kernel⟩

/-- What the control instructions do to their task: LOOP with a count of 0 goes past its end. -/
theorem test_met_ControlInstructions_7 :
    ∃ (s : State) (r : TaskRef) (c : Ctx), s.ctx r = some c ∧ c.job.st = .running ∧ guardOff c.task c.w = false ∧ isInsn 0x03 0 c.w = true ∧
      c.task.loops.length < 4 ∧ c.task.gr (iBa c.w) = 0 :=
  ⟨wi [insB 3 0 3 0 5] (task0), ri, ci (wi [insB 3 0 3 0 5] (task0)), by decide +kernel⟩

/-- What the control instructions do to their task: LOOP at the fifth level traps with cause STACK. -/
theorem test_met_ControlInstructions_8 :
    ∃ (s : State) (r : TaskRef) (c : Ctx), s.ctx r = some c ∧ c.job.st = .running ∧ guardOff c.task c.w = false ∧ isInsn 0x03 0 c.w = true ∧ 4 ≤
      c.task.loops.length :=
  ⟨wi [insB 3 0 3 0 5] ({ task0 with loops := [⟨1, 0, 0⟩, ⟨1, 0, 0⟩, ⟨1, 0, 0⟩, ⟨1, 0, 0⟩] }), ri, ci (wi [insB 3 0 3 0 5]
    ({ task0 with loops := [⟨1, 0, 0⟩, ⟨1, 0, 0⟩, ⟨1, 0, 0⟩, ⟨1, 0, 0⟩] })), by decide +kernel⟩

/-- What the control instructions do to their task: ENDL with rounds left goes back to the start. -/
theorem test_met_ControlInstructions_9 :
    ∃ (s : State) (r : TaskRef) (c : Ctx) (l : LoopLvl) (k : List LoopLvl), s.ctx r = some c ∧ c.job.st = .running ∧ guardOff c.task c.w = false ∧
      isInsn 0x03 1 c.w = true ∧ c.task.loops = l :: k ∧ 2 ≤ l.count :=
  ⟨wi [insB 3 1 0 0 0] ({ task0 with loops := [⟨2, 5, 0⟩] }), ri, ci (wi [insB 3 1 0 0 0] ({ task0 with loops := [⟨2, 5, 0⟩] })), ⟨2, 5, 0⟩, [],
    by decide +kernel⟩

/-- What the control instructions do to their task: ENDL of the last round pops the level. -/
theorem test_met_ControlInstructions_10 :
    ∃ (s : State) (r : TaskRef) (c : Ctx) (l : LoopLvl) (k : List LoopLvl), s.ctx r = some c ∧ c.job.st = .running ∧ guardOff c.task c.w = false ∧
      isInsn 0x03 1 c.w = true ∧ c.task.loops = l :: k ∧ l.count = 1 :=
  ⟨wi [insB 3 1 0 0 0] ({ task0 with loops := [⟨1, 5, 0⟩] }), ri, ci (wi [insB 3 1 0 0 0] ({ task0 with loops := [⟨1, 5, 0⟩] })), ⟨1, 5, 0⟩, [],
    by decide +kernel⟩

/-- What the control instructions do to their task: ENDL outside a loop traps with cause STACK. -/
theorem test_met_ControlInstructions_11 :
    ∃ (s : State) (r : TaskRef) (c : Ctx), s.ctx r = some c ∧ c.job.st = .running ∧ guardOff c.task c.w = false ∧ isInsn 0x03 1 c.w = true ∧
      c.task.loops = [] :=
  ⟨wi [insB 3 1 0 0 0] (task0), ri, ci (wi [insB 3 1 0 0 0] (task0)), by decide +kernel⟩

/-- What the control instructions do to their task: LPOP pops the level. -/
theorem test_met_ControlInstructions_12 :
    ∃ (s : State) (r : TaskRef) (c : Ctx) (l : LoopLvl) (k : List LoopLvl), s.ctx r = some c ∧ c.job.st = .running ∧ guardOff c.task c.w = false ∧
      isInsn 0x03 2 c.w = true ∧ c.task.loops = l :: k :=
  ⟨wi [insB 3 2 0 0 0] ({ task0 with loops := [⟨2, 5, 0⟩] }), ri, ci (wi [insB 3 2 0 0 0] ({ task0 with loops := [⟨2, 5, 0⟩] })), ⟨2, 5, 0⟩, [],
    by decide +kernel⟩

/-- What the control instructions do to their task: LPOP outside a loop traps with cause STACK. -/
theorem test_met_ControlInstructions_13 :
    ∃ (s : State) (r : TaskRef) (c : Ctx), s.ctx r = some c ∧ c.job.st = .running ∧ guardOff c.task c.w = false ∧ isInsn 0x03 2 c.w = true ∧
      c.task.loops = [] :=
  ⟨wi [insB 3 2 0 0 0] (task0), ri, ci (wi [insB 3 2 0 0 0] (task0)), by decide +kernel⟩

/-- What the control instructions do to their task: CALL of the start of an instruction. -/
theorem test_met_ControlInstructions_14 :
    ∃ (s : State) (r : TaskRef) (c : Ctx), s.ctx r = some c ∧ c.job.st = .running ∧ guardOff c.task c.w = false ∧ isInsn 0x04 0 c.w = true ∧
      c.task.ret.length < 16 ∧ isStart (s.codeFor c.job) (relTarget c) = true :=
  ⟨wi [insB 4 0 0 0 1, 0] (task0), ri, ci (wi [insB 4 0 0 0 1, 0] (task0)), by decide +kernel⟩

/-- What the control instructions do to their task: CALLI of the start of an instruction. -/
theorem test_met_ControlInstructions_15 :
    ∃ (s : State) (r : TaskRef) (c : Ctx), s.ctx r = some c ∧ c.job.st = .running ∧ guardOff c.task c.w = false ∧ isInsn 0x04 1 c.w = true ∧
      c.task.ret.length < 16 ∧ isStart (s.codeFor c.job) (indTarget c) = true :=
  ⟨wi [insB 4 1 3 0 0, 0] (taskG [(3, 1)]), ri, ci (wi [insB 4 1 3 0 0, 0] (taskG [(3, 1)])), by decide +kernel⟩

/-- What the control instructions do to their task: CALLI at the seventeenth level traps with cause STACK. -/
theorem test_met_ControlInstructions_16 :
    ∃ (s : State) (r : TaskRef) (c : Ctx), s.ctx r = some c ∧ c.job.st = .running ∧ guardOff c.task c.w = false ∧ isInsn 0x04 1 c.w = true ∧ 16 ≤
      c.task.ret.length :=
  ⟨wi [insB 4 1 3 0 0, 0] ({ task0 with ret := List.replicate 16 0 }), ri, ci (wi [insB 4 1 3 0 0, 0] ({ task0 with ret := List.replicate 16 0 })),
    by decide +kernel⟩

/-- What the control instructions do to their task: RET pops its target, the start of an instruction. -/
theorem test_met_ControlInstructions_17 :
    ∃ (s : State) (r : TaskRef) (c : Ctx) (pc : Nat) (k : List Nat), s.ctx r = some c ∧ c.job.st = .running ∧ guardOff c.task c.w = false ∧ isOp 0x05
      c.w = true ∧ c.task.ret = pc :: k ∧ isStart (s.codeFor c.job) pc = true :=
  ⟨wi [insB 5 0 0 0 0, 0] ({ task0 with ret := [1] }), ri, ci (wi [insB 5 0 0 0 0, 0] ({ task0 with ret := [1] })), 1, [], by decide +kernel⟩

/-- What the control instructions do to their task: RET with an empty stack traps with cause STACK. -/
theorem test_met_ControlInstructions_18 :
    ∃ (s : State) (r : TaskRef) (c : Ctx), s.ctx r = some c ∧ c.job.st = .running ∧ guardOff c.task c.w = false ∧ isOp 0x05 c.w = true ∧ c.task.ret =
      [] :=
  ⟨wi [insB 5 0 0 0 0, 0] (task0), ri, ci (wi [insB 5 0 0 0 0, 0] (task0)), by decide +kernel⟩

/-- What the control instructions do to their task: TRAP traps with cause USER and its code. -/
theorem test_met_ControlInstructions_19 :
    ∃ (s : State) (r : TaskRef) (c : Ctx), s.ctx r = some c ∧ c.job.st = .running ∧ guardOff c.task c.w = false ∧ isOp 0x07 c.w = true :=
  ⟨wi [insI 7 0 0 0 511] (task0), ri, ci (wi [insI 7 0 0 0 511] (task0)), by decide +kernel⟩

/-- What the control instructions do to their task: HALT halts the task; where every other task of the job has halted, the job commits. -/
theorem test_met_ControlInstructions_20 :
    ∃ (s : State) (r : TaskRef) (c : Ctx), s.ctx r = some c ∧ c.job.st = .running ∧ guardOff c.task c.w = false ∧ isOp 0x08 c.w = true :=
  ⟨wi [insI 8 0 0 0 0] (task0), ri, ci (wi [insI 8 0 0 0 0] (task0)), by decide +kernel⟩

/-- What the control instructions do to their task: CTX reads a word of the context. -/
theorem test_met_ControlInstructions_21 :
    ∃ (s : State) (r : TaskRef) (c : Ctx), s.ctx r = some c ∧ c.job.st = .running ∧ guardOff c.task c.w = false ∧ isOp 0x09 c.w = true :=
  ⟨wi [insI 9 0 31 0 6] (task0), ri, ci (wi [insI 9 0 31 0 6] (task0)), by decide +kernel⟩

/-- Waits and synchronisation of tasks: WAIT for ticket 0. -/
theorem test_met_WaitInstructions_1 :
    ∃ (s : State) (r : TaskRef) (c : Ctx), s.ctx r = some c ∧ c.job.st = .running ∧ guardOff c.task c.w = false ∧ isInsn 0x06 0 c.w = true ∧ c.task.gr
      (iA c.w) = 0 :=
  ⟨wi [insI 6 0 4 3 0] (task0), ri, ci (wi [insI 6 0 4 3 0] (task0)), by decide +kernel⟩

/-- Waits and synchronisation of tasks: WAIT for a ticket that is done. -/
theorem test_met_WaitInstructions_2 :
    ∃ (s : State) (r : TaskRef) (c : Ctx), s.ctx r = some c ∧ c.job.st = .running ∧ guardOff c.task c.w = false ∧ isInsn 0x06 0 c.w = true ∧ c.task.gr
      (iA c.w) ≠ 0 ∧ c.task.gr (iA c.w) ≤ c.task.last ∧ c.task.opened.contains (c.task.gr (iA c.w)) = false :=
  ⟨wi [insI 6 0 4 3 0] ({ taskG [(3, 2)] with last := 2, fabric := [2], res := [(2, 9)] }), ri, ci (wi [insI 6 0 4 3 0]
    ({ taskG [(3, 2)] with last := 2, fabric := [2], res := [(2, 9)] })), by decide +kernel⟩

/-- Waits and synchronisation of tasks: WAIT for a ticket that is not done waits. -/
theorem test_met_WaitInstructions_3 :
    ∃ (s : State) (r : TaskRef) (c : Ctx), s.ctx r = some c ∧ c.job.st = .running ∧ guardOff c.task c.w = false ∧ isInsn 0x06 0 c.w = true ∧ c.task.gr
      (iA c.w) ≠ 0 ∧ c.task.gr (iA c.w) ≤ c.task.last ∧ c.task.opened.contains (c.task.gr (iA c.w)) = true :=
  ⟨wi [insI 6 0 4 3 0] ({ taskG [(3, 2)] with last := 2, fabric := [2], opened := [2] }), ri, ci (wi [insI 6 0 4 3 0]
    ({ taskG [(3, 2)] with last := 2, fabric := [2], opened := [2] })), by decide +kernel⟩

/-- Waits and synchronisation of tasks: WAIT for a ticket not issued traps with cause TICKET. -/
theorem test_met_WaitInstructions_4 :
    ∃ (s : State) (r : TaskRef) (c : Ctx), s.ctx r = some c ∧ c.job.st = .running ∧ guardOff c.task c.w = false ∧ isInsn 0x06 0 c.w = true ∧
      c.task.last < c.task.gr (iA c.w) :=
  ⟨wi [insI 6 0 4 3 0] ({ taskG [(3, 3)] with last := 2 }), ri, ci (wi [insI 6 0 4 3 0] ({ taskG [(3, 3)] with last := 2 })), by decide +kernel⟩

/-- Waits and synchronisation of tasks: SWAIT for ticket 0. -/
theorem test_met_WaitInstructions_5 :
    ∃ (s : State) (r : TaskRef) (c : Ctx), s.ctx r = some c ∧ c.job.st = .running ∧ guardOff c.task c.w = false ∧ isOp 0x2A c.w = true ∧ c.task.gr (iA
      c.w) = 0 :=
  ⟨wi [insI 0x2A 0 4 3 0] (task0), ri, ci (wi [insI 0x2A 0 4 3 0] (task0)), by decide +kernel⟩

/-- Waits and synchronisation of tasks: SWAIT for a ticket that is done. -/
theorem test_met_WaitInstructions_6 :
    ∃ (s : State) (r : TaskRef) (c : Ctx), s.ctx r = some c ∧ c.job.st = .running ∧ guardOff c.task c.w = false ∧ isOp 0x2A c.w = true ∧ c.task.gr (iA
      c.w) ≠ 0 ∧ c.task.gr (iA c.w) ≤ c.task.last ∧ c.task.fabric.contains (c.task.gr (iA c.w)) = true ∧ c.task.opened.contains (c.task.gr (iA c.w)) =
      false :=
  ⟨wi [insI 0x2A 0 4 3 0] ({ taskG [(3, 2)] with last := 2, fabric := [2], res := [(2, 9)] }), ri, ci (wi [insI 0x2A 0 4 3 0]
    ({ taskG [(3, 2)] with last := 2, fabric := [2], res := [(2, 9)] })), by decide +kernel⟩

/-- Waits and synchronisation of tasks: SWAIT for a ticket that is not done waits. -/
theorem test_met_WaitInstructions_7 :
    ∃ (s : State) (r : TaskRef) (c : Ctx), s.ctx r = some c ∧ c.job.st = .running ∧ guardOff c.task c.w = false ∧ isOp 0x2A c.w = true ∧ c.task.gr (iA
      c.w) ≠ 0 ∧ c.task.gr (iA c.w) ≤ c.task.last ∧ c.task.fabric.contains (c.task.gr (iA c.w)) = true ∧ c.task.opened.contains (c.task.gr (iA c.w)) =
      true :=
  ⟨wi [insI 0x2A 0 4 3 0] ({ taskG [(3, 2)] with last := 2, fabric := [2], opened := [2] }), ri, ci (wi [insI 0x2A 0 4 3 0]
    ({ taskG [(3, 2)] with last := 2, fabric := [2], opened := [2] })), by decide +kernel⟩

/-- Waits and synchronisation of tasks: SWAIT for a ticket not issued traps with cause TICKET. -/
theorem test_met_WaitInstructions_8 :
    ∃ (s : State) (r : TaskRef) (c : Ctx), s.ctx r = some c ∧ c.job.st = .running ∧ guardOff c.task c.w = false ∧ isOp 0x2A c.w = true ∧ c.task.last <
      c.task.gr (iA c.w) :=
  ⟨wi [insI 0x2A 0 4 3 0] ({ taskG [(3, 3)] with last := 2 }), ri, ci (wi [insI 0x2A 0 4 3 0] ({ taskG [(3, 3)] with last := 2 })), by decide +kernel⟩

/-- Waits and synchronisation of tasks: SWAIT for a ticket of no stitch traps with cause TICKET. -/
theorem test_met_WaitInstructions_9 :
    ∃ (s : State) (r : TaskRef) (c : Ctx), s.ctx r = some c ∧ c.job.st = .running ∧ guardOff c.task c.w = false ∧ isOp 0x2A c.w = true ∧ c.task.gr (iA
      c.w) ≠ 0 ∧ c.task.fabric.contains (c.task.gr (iA c.w)) = false :=
  ⟨wi [insI 0x2A 0 4 3 0] ({ taskG [(3, 1)] with last := 2, opened := [1] }), ri, ci (wi [insI 0x2A 0 4 3 0]
    ({ taskG [(3, 1)] with last := 2, opened := [1] })), by decide +kernel⟩

/-- Waits and synchronisation of tasks: waitEq whose condition is met retires. -/
theorem test_met_WaitInstructions_10 :
    ∃ (s : State) (r : TaskRef) (c : Ctx), s.ctx r = some c ∧ c.job.st = .running ∧ guardOff c.task c.w = false ∧ isInsn 0x06 1 c.w = true ∧
      s.accessTrap c.job (c.task.gr (iA c.w)) 8 false = none ∧ s.retrains (c.task.gr (iA c.w)) (8) = false ∧ (s.jobRead c.job c.found (c.task.gr (iA
      c.w)) (8)).1 = none ∧ memCond 0 ((s.jobRead c.job c.found (c.task.gr (iA c.w)) (8)).2.jobLoad c.job (jobKey c.job (c.task.gr (iA c.w))) (8))
      (c.task.gr (iB c.w)) = true :=
  ⟨wm6 1 0, ri, ci (wm6 1 0), by decide +kernel⟩

/-- Waits and synchronisation of tasks: waitEq whose condition is not met waits. -/
theorem test_met_WaitInstructions_11 :
    ∃ (s : State) (r : TaskRef) (c : Ctx), s.ctx r = some c ∧ c.job.st = .running ∧ guardOff c.task c.w = false ∧ isInsn 0x06 1 c.w = true ∧
      s.accessTrap c.job (c.task.gr (iA c.w)) 8 false = none ∧ s.retrains (c.task.gr (iA c.w)) (8) = false ∧ (s.jobRead c.job c.found (c.task.gr (iA
      c.w)) (8)).1 = none ∧ memCond 0 ((s.jobRead c.job c.found (c.task.gr (iA c.w)) (8)).2.jobLoad c.job (jobKey c.job (c.task.gr (iA c.w))) (8))
      (c.task.gr (iB c.w)) = false :=
  ⟨wm6 1 1, ri, ci (wm6 1 1), by decide +kernel⟩

/-- Waits and synchronisation of tasks: waitNe whose condition is met retires. -/
theorem test_met_WaitInstructions_12 :
    ∃ (s : State) (r : TaskRef) (c : Ctx), s.ctx r = some c ∧ c.job.st = .running ∧ guardOff c.task c.w = false ∧ isInsn 0x06 2 c.w = true ∧
      s.accessTrap c.job (c.task.gr (iA c.w)) 8 false = none ∧ s.retrains (c.task.gr (iA c.w)) (8) = false ∧ (s.jobRead c.job c.found (c.task.gr (iA
      c.w)) (8)).1 = none ∧ memCond 1 ((s.jobRead c.job c.found (c.task.gr (iA c.w)) (8)).2.jobLoad c.job (jobKey c.job (c.task.gr (iA c.w))) (8))
      (c.task.gr (iB c.w)) = true :=
  ⟨wm6 2 1, ri, ci (wm6 2 1), by decide +kernel⟩

/-- Waits and synchronisation of tasks: waitNe whose condition is not met waits. -/
theorem test_met_WaitInstructions_13 :
    ∃ (s : State) (r : TaskRef) (c : Ctx), s.ctx r = some c ∧ c.job.st = .running ∧ guardOff c.task c.w = false ∧ isInsn 0x06 2 c.w = true ∧
      s.accessTrap c.job (c.task.gr (iA c.w)) 8 false = none ∧ s.retrains (c.task.gr (iA c.w)) (8) = false ∧ (s.jobRead c.job c.found (c.task.gr (iA
      c.w)) (8)).1 = none ∧ memCond 1 ((s.jobRead c.job c.found (c.task.gr (iA c.w)) (8)).2.jobLoad c.job (jobKey c.job (c.task.gr (iA c.w))) (8))
      (c.task.gr (iB c.w)) = false :=
  ⟨wm6 2 0, ri, ci (wm6 2 0), by decide +kernel⟩

/-- Waits and synchronisation of tasks: waitGeu whose condition is met retires. -/
theorem test_met_WaitInstructions_14 :
    ∃ (s : State) (r : TaskRef) (c : Ctx), s.ctx r = some c ∧ c.job.st = .running ∧ guardOff c.task c.w = false ∧ isInsn 0x06 3 c.w = true ∧
      s.accessTrap c.job (c.task.gr (iA c.w)) 8 false = none ∧ s.retrains (c.task.gr (iA c.w)) (8) = false ∧ (s.jobRead c.job c.found (c.task.gr (iA
      c.w)) (8)).1 = none ∧ memCond 2 ((s.jobRead c.job c.found (c.task.gr (iA c.w)) (8)).2.jobLoad c.job (jobKey c.job (c.task.gr (iA c.w))) (8))
      (c.task.gr (iB c.w)) = true :=
  ⟨wm6 3 0, ri, ci (wm6 3 0), by decide +kernel⟩

/-- Waits and synchronisation of tasks: waitGeu whose condition is not met waits. -/
theorem test_met_WaitInstructions_15 :
    ∃ (s : State) (r : TaskRef) (c : Ctx), s.ctx r = some c ∧ c.job.st = .running ∧ guardOff c.task c.w = false ∧ isInsn 0x06 3 c.w = true ∧
      s.accessTrap c.job (c.task.gr (iA c.w)) 8 false = none ∧ s.retrains (c.task.gr (iA c.w)) (8) = false ∧ (s.jobRead c.job c.found (c.task.gr (iA
      c.w)) (8)).1 = none ∧ memCond 2 ((s.jobRead c.job c.found (c.task.gr (iA c.w)) (8)).2.jobLoad c.job (jobKey c.job (c.task.gr (iA c.w))) (8))
      (c.task.gr (iB c.w)) = false :=
  ⟨wm6 3 1, ri, ci (wm6 3 1), by decide +kernel⟩

/-- Waits and synchronisation of tasks: BAR waits for the barrier. -/
theorem test_met_WaitInstructions_16 :
    ∃ (s : State) (r : TaskRef) (c : Ctx), s.ctx r = some c ∧ c.job.st = .running ∧ guardOff c.task c.w = false ∧ isOp 0x38 c.w = true :=
  ⟨wi [insI 0x38 0 0 0 0] (task0), ri, ci (wi [insI 0x38 0 0 0 0] (task0)), by decide +kernel⟩

/-- Waits and synchronisation of tasks: FENCE with nothing outstanding retires. -/
theorem test_met_WaitInstructions_17 :
    ∃ (s : State) (r : TaskRef) (c : Ctx), s.ctx r = some c ∧ c.job.st = .running ∧ guardOff c.task c.w = false ∧ isOp 0x39 c.w = true ∧ c.task.opened
      = [] :=
  ⟨wi [insI 0x39 0 0 0 0] (task0), ri, ci (wi [insI 0x39 0 0 0 0] (task0)), by decide +kernel⟩

/-- Waits and synchronisation of tasks: FENCE with operations outstanding waits. -/
theorem test_met_WaitInstructions_18 :
    ∃ (s : State) (r : TaskRef) (c : Ctx), s.ctx r = some c ∧ c.job.st = .running ∧ guardOff c.task c.w = false ∧ isOp 0x39 c.w = true ∧ c.task.opened
      ≠ [] :=
  ⟨wi [insI 0x39 0 0 0 0] ({ task0 with opened := [1] }), ri, ci (wi [insI 0x39 0 0 0 0] ({ task0 with opened := [1] })), by decide +kernel⟩

/-- Waits and synchronisation of tasks: EVPOST retires, and posts the user event to the ring of the function. -/
theorem test_met_WaitInstructions_19 :
    ∃ (s : State) (r : TaskRef) (c : Ctx), s.ctx r = some c ∧ c.job.st = .running ∧ guardOff c.task c.w = false ∧ isInsn 0x3B 0 c.w = true :=
  ⟨wi [insR 0x3B 0 0 3 4] (task0), ri, ci (wi [insR 0x3B 0 0 3 4] (task0)), by decide +kernel⟩

/-- Waits and synchronisation of tasks: CPOST commits the job with its value, where no CPOST of the job stands yet. -/
theorem test_met_WaitInstructions_20 :
    ∃ (s : State) (r : TaskRef) (c : Ctx), s.ctx r = some c ∧ c.job.st = .running ∧ guardOff c.task c.w = false ∧ isInsn 0x3B 1 c.w = true :=
  ⟨wi [insR 0x3B 1 0 3 4] (taskG [(3, 2 ^ 32 + 5)]), ri, ci (wi [insR 0x3B 1 0 3 4] (taskG [(3, 2 ^ 32 + 5)])), by decide +kernel⟩

/-- Scalar, predicate and descriptor instructions: ALU with an immediate. -/
theorem test_met_ScalarInstructions_1 :
    ∃ (s : State) (r : TaskRef) (c : Ctx), s.ctx r = some c ∧ c.job.st = .running ∧ guardOff c.task c.w = false ∧ isOp 0x10 c.w = true :=
  ⟨wi [insI 0x10 14 4 3 (2 ^ 38 - 1)] (taskG [(3, 2 ^ 63)]), ri, ci (wi [insI 0x10 14 4 3 (2 ^ 38 - 1)] (taskG [(3, 2 ^ 63)])), by decide +kernel⟩

/-- Scalar, predicate and descriptor instructions: ALU with registers. -/
theorem test_met_ScalarInstructions_2 :
    ∃ (s : State) (r : TaskRef) (c : Ctx), s.ctx r = some c ∧ c.job.st = .running ∧ guardOff c.task c.w = false ∧ isOp 0x11 c.w = true :=
  ⟨wi [insR 0x11 1 4 3 5] (taskG [(3, 5), (5, 6)]), ri, ci (wi [insR 0x11 1 4 3 5] (taskG [(3, 5), (5, 6)])), by decide +kernel⟩

/-- Scalar, predicate and descriptor instructions: CMP. -/
theorem test_met_ScalarInstructions_3 :
    ∃ (s : State) (r : TaskRef) (c : Ctx), s.ctx r = some c ∧ c.job.st = .running ∧ guardOff c.task c.w = false ∧ isOp 0x12 c.w = true :=
  ⟨wi [insR 0x12 2 7 3 5] (taskG [(3, 2 ^ 63), (5, 6)]), ri, ci (wi [insR 0x12 2 7 3 5] (taskG [(3, 2 ^ 63), (5, 6)])), by decide +kernel⟩

/-- Scalar, predicate and descriptor instructions: CMPI. -/
theorem test_met_ScalarInstructions_4 :
    ∃ (s : State) (r : TaskRef) (c : Ctx), s.ctx r = some c ∧ c.job.st = .running ∧ guardOff c.task c.w = false ∧ isOp 0x13 c.w = true :=
  ⟨wi [insI 0x13 0 7 3 (2 ^ 38 - 1)] (taskG [(3, 2 ^ 64 - 1)]), ri, ci (wi [insI 0x13 0 7 3 (2 ^ 38 - 1)] (taskG [(3, 2 ^ 64 - 1)])),
    by decide +kernel⟩

/-- Scalar, predicate and descriptor instructions: predicate operation. -/
theorem test_met_ScalarInstructions_5 :
    ∃ (s : State) (r : TaskRef) (c : Ctx), s.ctx r = some c ∧ c.job.st = .running ∧ guardOff c.task c.w = false ∧ isOp 0x14 c.w = true :=
  ⟨wi [insR 0x14 3 7 1 0] (task0), ri, ci (wi [insR 0x14 3 7 1 0] (task0)), by decide +kernel⟩

/-- Scalar, predicate and descriptor instructions: TDSET of a field 0 to 13. -/
theorem test_met_ScalarInstructions_6 :
    ∃ (s : State) (r : TaskRef) (c : Ctx), s.ctx r = some c ∧ c.job.st = .running ∧ guardOff c.task c.w = false ∧ isOp 0x18 c.w = true ∧ iSub c.w < 14 :=
  ⟨wi [insT 0x18 13 63 0 3 0 5] (taskG [(3, 2)]), ri, ci (wi [insT 0x18 13 63 0 3 0 5] (taskG [(3, 2)])), by decide +kernel⟩

/-- Scalar, predicate and descriptor instructions: TDGET. -/
theorem test_met_ScalarInstructions_7 :
    ∃ (s : State) (r : TaskRef) (c : Ctx), s.ctx r = some c ∧ c.job.st = .running ∧ guardOff c.task c.w = false ∧ isOp 0x1A c.w = true :=
  ⟨wi [insT 0x1A 5 0 7 3 0 5] ({ task0 with td := [(7, ⟨2 ^ 223, true⟩)] }), ri, ci (wi [insT 0x1A 5 0 7 3 0 5]
    ({ task0 with td := [(7, ⟨2 ^ 223, true⟩)] })), by decide +kernel⟩

/-- Scalar, predicate and descriptor instructions: TDCPY. -/
theorem test_met_ScalarInstructions_8 :
    ∃ (s : State) (r : TaskRef) (c : Ctx), s.ctx r = some c ∧ c.job.st = .running ∧ guardOff c.task c.w = false ∧ isInsn 0x18 16 c.w = true :=
  ⟨wi [insT 0x18 16 63 7 3 0 5] ({ task0 with td := [(7, ⟨2 ^ 223, true⟩)] }), ri, ci (wi [insT 0x18 16 63 7 3 0 5]
    ({ task0 with td := [(7, ⟨2 ^ 223, true⟩)] })), by decide +kernel⟩

/-- Scalar, predicate and descriptor instructions: TDINV clears the valid bit. -/
theorem test_met_ScalarInstructions_9 :
    ∃ (s : State) (r : TaskRef) (c : Ctx), s.ctx r = some c ∧ c.job.st = .running ∧ guardOff c.task c.w = false ∧ isInsn 0x18 17 c.w = true :=
  ⟨wi [insT 0x18 17 7 0 3 0 5] ({ task0 with td := [(7, ⟨2 ^ 223, true⟩)] }), ri, ci (wi [insT 0x18 17 7 0 3 0 5]
    ({ task0 with td := [(7, ⟨2 ^ 223, true⟩)] })), by decide +kernel⟩

/-- Scalar, predicate and descriptor instructions: TDADD. -/
theorem test_met_ScalarInstructions_10 :
    ∃ (s : State) (r : TaskRef) (c : Ctx), s.ctx r = some c ∧ c.job.st = .running ∧ guardOff c.task c.w = false ∧ isOp 0x19 c.w = true :=
  ⟨wi [insT 0x19 0 7 0 3 0 (2 ^ 20 - 1)] ({ taskG [(3, 2)] with td := [(7, ⟨2 ^ 223, true⟩)] }), ri, ci (wi [insT 0x19 0 7 0 3 0 (2 ^ 20 - 1)]
    ({ taskG [(3, 2)] with td := [(7, ⟨2 ^ 223, true⟩)] })), by decide +kernel⟩

/-- Loads, stores, descriptor and scale loads, and signals of a task: LOAD that no access rule refuses, of bytes that can be read. -/
theorem test_met_MemoryInstructions_1 :
    ∃ (s : State) (r : TaskRef) (c : Ctx), s.ctx r = some c ∧ c.job.st = .running ∧ guardOff c.task c.w = false ∧ isOp 0x20 c.w = true ∧ s.accessTrap
      c.job (memAddr c) (loadBytes (iSub c.w)) false = none ∧ s.retrains (memAddr c) (loadBytes (iSub c.w)) = false ∧ (s.jobRead c.job c.found (memAddr
      c) (loadBytes (iSub c.w))).1 = none :=
  ⟨wmI (insI 0x20 5 4 3 2), ri, ci (wmI (insI 0x20 5 4 3 2)), by decide +kernel⟩

/-- Loads, stores, descriptor and scale loads, and signals of a task: LOAD of a misaligned address traps with cause ADDRESS. -/
theorem test_met_MemoryInstructions_2 :
    ∃ (s : State) (r : TaskRef) (c : Ctx), s.ctx r = some c ∧ c.job.st = .running ∧ guardOff c.task c.w = false ∧ isOp 0x20 c.w = true ∧ memAddr c %
      loadBytes (iSub c.w) ≠ 0 :=
  ⟨wmI (insI 0x20 5 4 3 1), ri, ci (wmI (insI 0x20 5 4 3 1)), by decide +kernel⟩

/-- Loads, stores, descriptor and scale loads, and signals of a task: STORE that no access rule refuses: it retires, and its bytes are in the scratch banks, or staged where they lie outside them. -/
theorem test_met_MemoryInstructions_3 :
    ∃ (s : State) (r : TaskRef) (c : Ctx), s.ctx r = some c ∧ c.job.st = .running ∧ guardOff c.task c.w = false ∧ isOp 0x21 c.w = true ∧ s.accessTrap
      c.job (memAddr c) (2 ^ iSub c.w) true = none ∧ (s.meets c.found [(memAddr c, 2 ^ iSub c.w)]).writePoisoned (memAddr c) (2 ^ iSub c.w) = false ∧
      ((s.meets c.found [(memAddr c, 2 ^ iSub c.w)]).jobStore c.job.id (jobKey c.job (memAddr c)) (2 ^ iSub c.w) 0).1 = true :=
  ⟨wmI (insI 0x21 1 4 3 2), ri, ci (wmI (insI 0x21 1 4 3 2)), by decide +kernel⟩

/-- Loads, stores, descriptor and scale loads, and signals of a task: STORE to a misaligned address traps with cause ADDRESS. -/
theorem test_met_MemoryInstructions_4 :
    ∃ (s : State) (r : TaskRef) (c : Ctx), s.ctx r = some c ∧ c.job.st = .running ∧ guardOff c.task c.w = false ∧ isOp 0x21 c.w = true ∧ memAddr c % 2
      ^ iSub c.w ≠ 0 :=
  ⟨wmI (insI 0x21 1 4 3 1), ri, ci (wmI (insI 0x21 1 4 3 1)), by decide +kernel⟩

/-- Loads, stores, descriptor and scale loads, and signals of a task: TDLD that no access rule refuses. -/
theorem test_met_MemoryInstructions_5 :
    ∃ (s : State) (r : TaskRef) (c : Ctx), s.ctx r = some c ∧ c.job.st = .running ∧ guardOff c.task c.w = false ∧ isInsn 0x18 14 c.w = true ∧ gaImm c
      % 8 = 0 ∧ s.scalarCheck c.job (gaImm c) 64 false = none ∧ s.retrains (gaImm c) (64) = false ∧ (s.jobRead c.job c.found (gaImm c) (64)).1 = none :=
  ⟨wmI (insT 0x18 14 7 0 3 0 8), ri, ci (wmI (insT 0x18 14 7 0 3 0 8)), by decide +kernel⟩

/-- Loads, stores, descriptor and scale loads, and signals of a task: TDST that no access rule refuses. -/
theorem test_met_MemoryInstructions_6 :
    ∃ (s : State) (r : TaskRef) (c : Ctx), s.ctx r = some c ∧ c.job.st = .running ∧ guardOff c.task c.w = false ∧ isInsn 0x18 15 c.w = true ∧ gaImm c
      % 8 = 0 ∧ s.scalarCheck c.job (gaImm c) 64 true = none ∧ (s).writePoisoned (gaImm c) (64) = false ∧ ((s).jobStore c.job.id (jobKey c.job (gaImm
      c)) (64) 0).1 = true :=
  ⟨wmI (insT 0x18 15 0 7 3 0 8), ri, ci (wmI (insT 0x18 15 0 7 3 0 8)), by decide +kernel⟩

/-- Loads, stores, descriptor and scale loads, and signals of a task: SCLD.E of a table entry. -/
theorem test_met_MemoryInstructions_7 :
    ∃ (s : State) (r : TaskRef) (c : Ctx), s.ctx r = some c ∧ c.job.st = .running ∧ guardOff c.task c.w = false ∧ isInsn 0x25 0 c.w = true ∧ s.tdOk
      c.job (c.task.tr (iTa c.w)) = true ∧ tdScaled (c.task.tr (iTa c.w)).val = true ∧ c.task.gr (iGb c.w) < tdSlen (c.task.tr (iTa c.w)).val ∧
      s.bankAllows c.job (tdScale (c.task.tr (iTa c.w)).val + c.task.gr (iGb c.w) * tdEntry (c.task.tr (iTa c.w)).val) (tdEntry (c.task.tr (iTa
      c.w)).val) = true ∧ s.retrains (tdScale (c.task.tr (iTa c.w)).val + c.task.gr (iGb c.w) * tdEntry (c.task.tr (iTa c.w)).val) (tdEntry (c.task.tr
      (iTa c.w)).val) = false ∧ (s.jobRead c.job c.found (tdScale (c.task.tr (iTa c.w)).val + c.task.gr (iGb c.w) * tdEntry (c.task.tr (iTa c.w)).val)
      (tdEntry (c.task.tr (iTa c.w)).val)).1 = none ∧ ((tdSue8 (c.task.tr (iTa c.w)).val = true → (s.jobRead c.job c.found (tdScale (c.task.tr (iTa
      c.w)).val + c.task.gr (iGb c.w) * tdEntry (c.task.tr (iTa c.w)).val) (tdEntry (c.task.tr (iTa c.w)).val)).2.jobLoad c.job (jobKey c.job (tdScale
      (c.task.tr (iTa c.w)).val + c.task.gr (iGb c.w) * tdEntry (c.task.tr (iTa c.w)).val)) (tdEntry (c.task.tr (iTa c.w)).val) ≠ 255)) :=
  ⟨wmS 0, ri, ci (wmS 0), by decide +kernel⟩

/-- Loads, stores, descriptor and scale loads, and signals of a task: SCLD.E beyond the table traps with cause ADDRESS. -/
theorem test_met_MemoryInstructions_8 :
    ∃ (s : State) (r : TaskRef) (c : Ctx), s.ctx r = some c ∧ c.job.st = .running ∧ guardOff c.task c.w = false ∧ isInsn 0x25 0 c.w = true ∧ s.tdOk
      c.job (c.task.tr (iTa c.w)) = true ∧ tdScaled (c.task.tr (iTa c.w)).val = true ∧ tdSlen (c.task.tr (iTa c.w)).val ≤ c.task.gr (iGb c.w) :=
  ⟨wmS 1, ri, ci (wmS 1), by decide +kernel⟩

/-- Loads, stores, descriptor and scale loads, and signals of a task: SCLD.T of a tracker that can be read and that its checks do not refuse. -/
theorem test_met_MemoryInstructions_9 :
    ∃ (s : State) (r : TaskRef) (c : Ctx) (v : Nat), s.ctx r = some c ∧ c.job.st = .running ∧ guardOff c.task c.w = false ∧ isInsn 0x25 1 c.w = true ∧
      s.tdOk c.job (c.task.tr (iTa c.w)) = true ∧ tdTracked (c.task.tr (iTa c.w)).val = true ∧ (((c.job.trk.get none (jobKey c.job (tdTracker (c.task.tr
      (iTa c.w)).val))).isSome = true ∨ s.bankAllows c.job (tdTracker (c.task.tr (iTa c.w)).val) 128 = true ∧ s.retrains (tdTracker (c.task.tr (iTa
      c.w)).val) 128 = false ∧ (s.jobRead c.job c.found (tdTracker (c.task.tr (iTa c.w)).val) 128).1 = none)) ∧ (fun u => if trkRefused u (trkLag u)
      (tdFmt (c.task.tr (iTa c.w)).val) false then none else trkScale u 0 false) ((if (c.job.trk.get none (jobKey c.job (tdTracker (c.task.tr (iTa
      c.w)).val))).isSome then s else (s.jobRead c.job c.found (tdTracker (c.task.tr (iTa c.w)).val) 128).2).trackerOf c.job (tdTracker (c.task.tr (iTa
      c.w)).val)) = some v :=
  ⟨wmT, ri, ci (wmT), (trkScale (wmT.trackerOf (ci wmT).job (tdTracker ((ci wmT).task.tr 7).val)) 0 false).getD 0, by decide +kernel⟩

/-- Loads, stores, descriptor and scale loads, and signals of a task: signalSet that no access rule refuses, with nothing outstanding: the old value, and the new one in place. -/
theorem test_met_MemoryInstructions_10 :
    ∃ (s : State) (r : TaskRef) (c : Ctx), s.ctx r = some c ∧ c.job.st = .running ∧ guardOff c.task c.w = false ∧ isInsn 0x3A 0 c.w = true ∧
      s.accessTrap c.job (c.task.gr (iA c.w)) 8 true = none ∧ c.task.opened = [] ∧ s.retrains (c.task.gr (iA c.w)) (8) = false ∧ (s.jobRead c.job
      c.found (c.task.gr (iA c.w)) (8)).1 = none ∧ ((s.jobRead c.job c.found (c.task.gr (iA c.w)) 8).2).writePoisoned (c.task.gr (iA c.w)) (8) = false ∧
      (((s.jobRead c.job c.found (c.task.gr (iA c.w)) 8).2).jobStore c.job.id (jobKey c.job (c.task.gr (iA c.w))) (8) 0).1 = true :=
  ⟨wmI (insR 0x3A 0 4 3 5), ri, ci (wmI (insR 0x3A 0 4 3 5)), by decide +kernel⟩

/-- Loads, stores, descriptor and scale loads, and signals of a task: signalAdd that no access rule refuses, with nothing outstanding: the old value, and the new one in place. -/
theorem test_met_MemoryInstructions_11 :
    ∃ (s : State) (r : TaskRef) (c : Ctx), s.ctx r = some c ∧ c.job.st = .running ∧ guardOff c.task c.w = false ∧ isInsn 0x3A 1 c.w = true ∧
      s.accessTrap c.job (c.task.gr (iA c.w)) 8 true = none ∧ c.task.opened = [] ∧ s.retrains (c.task.gr (iA c.w)) (8) = false ∧ (s.jobRead c.job
      c.found (c.task.gr (iA c.w)) (8)).1 = none ∧ ((s.jobRead c.job c.found (c.task.gr (iA c.w)) 8).2).writePoisoned (c.task.gr (iA c.w)) (8) = false ∧
      (((s.jobRead c.job c.found (c.task.gr (iA c.w)) 8).2).jobStore c.job.id (jobKey c.job (c.task.gr (iA c.w))) (8) 0).1 = true :=
  ⟨wmI (insR 0x3A 1 4 3 5), ri, ci (wmI (insR 0x3A 1 4 3 5)), by decide +kernel⟩

/-- Loads, stores, descriptor and scale loads, and signals of a task: signalMaxu that no access rule refuses, with nothing outstanding: the old value, and the new one in place. -/
theorem test_met_MemoryInstructions_12 :
    ∃ (s : State) (r : TaskRef) (c : Ctx), s.ctx r = some c ∧ c.job.st = .running ∧ guardOff c.task c.w = false ∧ isInsn 0x3A 2 c.w = true ∧
      s.accessTrap c.job (c.task.gr (iA c.w)) 8 true = none ∧ c.task.opened = [] ∧ s.retrains (c.task.gr (iA c.w)) (8) = false ∧ (s.jobRead c.job
      c.found (c.task.gr (iA c.w)) (8)).1 = none ∧ ((s.jobRead c.job c.found (c.task.gr (iA c.w)) 8).2).writePoisoned (c.task.gr (iA c.w)) (8) = false ∧
      (((s.jobRead c.job c.found (c.task.gr (iA c.w)) 8).2).jobStore c.job.id (jobKey c.job (c.task.gr (iA c.w))) (8) 0).1 = true :=
  ⟨wmI (insR 0x3A 2 4 3 5), ri, ci (wmI (insR 0x3A 2 4 3 5)), by decide +kernel⟩

/-- The dispatcher, commit, barriers and the registers of the sequencers: an instruction whose guard is off retires without effect, a NOP for one. -/
theorem test_met_JobsOnSequencers_1 :
    ∃ (s : State) (r : TaskRef) (c : Ctx), s.ctx r = some c ∧ c.job.st = .running ∧ isOp 0 c.w = true ∧ guardOff c.task c.w = true :=
  ⟨wi [2 ^ 53] task0, ri, ci (wi [2 ^ 53] task0), by decide +kernel⟩

/-- The dispatcher, commit, barriers and the registers of the sequencers: an instruction in the cycle in which a CPOST of another task stopped the job retires, a NOP for one, and the task halts. -/
theorem test_met_JobsOnSequencers_2 :
    ∃ (s : State) (r : TaskRef) (c : Ctx), s.ctx r = some c ∧ c.job.st = .committing ∧ isOp 0 c.w = true ∧ guardOff c.task c.w = false :=
  ⟨{ w0 with jobs := [{ taskN { task0 with wait := .halted } with st := .committing, cpostAt := some (1, 80, [0]) }], progs := [{ prog0 false with code := [0] }], dt := 80 },
    ri, ci
    ({ w0 with jobs := [{ taskN { task0 with wait := .halted } with st := .committing, cpostAt := some (1, 80, [0]) }], progs := [{ prog0 false with code := [0] }], dt := 80 }),
    by decide +kernel⟩

/-- The dispatcher, commit, barriers and the registers of the sequencers: the first waiting job, without a deadline, starts where its tasks, its slots, its banks and a place are at hand. -/
theorem test_met_JobsOnSequencers_3 :
    ∃ (s : State) (j : Job) (l : List Job) (p : Prog) (q : List (Nat × Nat)) (z : List (Nat × Nat × Nat)), s.paused 1 s.head = false ∧ s.waitingJobs =
      j :: l ∧ s.prog j.handle = some p ∧ s.neverStarts j = false ∧ s.placeTasks j.cls (s.allowedDies p j.slots) p.tasks 0 [] = some q ∧ (slotsOf
      j.slots).any s.slotLost = false ∧ (slotsOf j.slots).all (fun k => bit (s.rd .FNQ_GRANT_SLOT j.fn) k) = true ∧ p.scratchBanks * ((q.map
      (·.1)).eraseDups).length + s.held j.fn resBank ≤ s.quota j.fn resBank ∧ s.scratchFor p.scratchBanks (q.map (·.1)) = some z ∧ j.deadline = 0 ∧
      (s.jobs.filter (·.active)).length < 64 :=
  ⟨wj, jobW, [], prog0 false, (wj.placeTasks jobW.cls (wj.allowedDies (prog0 false) 0) 1 0 []).getD [], [], by decide +kernel⟩

/-- The dispatcher, commit, barriers and the registers of the sequencers: the first waiting job ends where its program is gone. -/
theorem test_met_JobsOnSequencers_4 :
    ∃ (s : State) (j : Job) (l : List Job), s.paused 1 s.head = false ∧ s.waitingJobs = j :: l ∧ s.prog j.handle = none :=
  ⟨{ wj with progs := [] }, jobW, [], by decide +kernel⟩

/-- The dispatcher, commit, barriers and the registers of the sequencers: a stopped, quiet job of a function that is not mirrored commits and ends, while PCIe runs. -/
theorem test_met_JobsOnSequencers_5 :
    ∃ (s : State) (i : Nat) (j : Job), s.job i = some j ∧ j.st = .committing ∧ s.jobQuiet i = true ∧ j.tasks.all (fun t => t.wait == .halted) = true ∧
      s.ax .pcieDown = 0 ∧ s.paused 0 s.head = false ∧ j.outputs.any (fun e => s.retrains e.1 1) = false ∧ s.mirrored j.fn = false :=
  ⟨{ w0 with jobs := [{ jobR with st := .committing, tasks := [{ task0 with wait := .halted }] }] }, 7,
    { jobR with st := .committing, tasks := [{ task0 with wait := .halted }] }, by decide +kernel⟩

/-- The dispatcher, commit, barriers and the registers of the sequencers: a stopped, quiet job of a mirrored function writes what it staged, sends its record and waits for the acknowledgement. -/
theorem test_met_JobsOnSequencers_6 :
    ∃ (s : State) (i : Nat) (j : Job), s.job i = some j ∧ j.st = .committing ∧ s.jobQuiet i = true ∧ j.tasks.all (fun t => t.wait == .halted) = true ∧
      s.ax .pcieDown = 0 ∧ s.paused 0 s.head = false ∧ j.outputs.any (fun e => s.retrains e.1 1) = false ∧ s.mirrored j.fn = true :=
  ⟨{ ((((w0.setAx .hbHeard 1).wr .MIR_STAT_LINK 2).wr .MIR_FN_MIRRORED 1).wr .MIR_FN_ROLE 1).wr .MIR_STAT_PAIR 2 with jobs := [{ jobR with st := .committing, tasks := [{ task0 with wait := .halted }] }] },
    7, { jobR with st := .committing, tasks := [{ task0 with wait := .halted }] }, by decide +kernel⟩

/-- The dispatcher, commit, barriers and the registers of the sequencers: a barrier that the one task of a job has reached, with nothing outstanding, lets it on. -/
theorem test_met_JobsOnSequencers_7 :
    ∃ (s : State) (i : Nat) (j : Job) (t : Task), s.job i = some j ∧ j.st = .running ∧ j.tasks = [t] ∧ t.wait = .bar ∧ t.opened = [] :=
  ⟨wi [0] { task0 with wait := .bar }, 7, taskN { task0 with wait := .bar }, { task0 with wait := .bar }, by decide +kernel⟩

/-- The dispatcher, commit, barriers and the registers of the sequencers: a memory wait whose condition holds lets the task on. -/
theorem test_met_JobsOnSequencers_8 :
    ∃ (s : State) (r : TaskRef) (j : Job) (t : Task) (k : Nat) (a : Nat) (n : Nat) (v : Nat), s.job r.job = some j ∧ j.task r.task = some t ∧ t.wait
      = .mem k a n v ∧ j.st = .running ∧ s.paused 0 t.die = false ∧ s.accessTrap j a n false = none ∧ s.retrains a n = false ∧ (s.jobRead j r.found a
      n).1 = none ∧ memCond k ((s.jobRead j r.found a n).2.jobLoad j (jobKey j a) n) v = true :=
  ⟨wmI2, ri, (wmI2.job 7).getD job0, ((wmI2.taskOf ri).getD task0), 2, addr0, 8, 0, by decide +kernel⟩

/-- The dispatcher, commit, barriers and the registers of the sequencers: RESERVE0, 8 or less, is taken. -/
theorem test_met_JobsOnSequencers_9 :
    ∃ (s : State) (d : Nat) (o : Order), s.dieWindow d = true ∧ d < s.part.dies ∧ Alone o ∧ o.w.v ≤ 8 :=
  ⟨w0, 1, ⟨⟨.pf, 8⟩, []⟩, by decide +kernel⟩

/-- The dispatcher, commit, barriers and the registers of the sequencers: RESERVE0 beyond 8 is refused. -/
theorem test_met_JobsOnSequencers_10 :
    ∃ (s : State) (d : Nat) (o : Order), s.dieWindow d = true ∧ d < s.part.dies ∧ Alone o ∧ 8 < o.w.v :=
  ⟨w0, 1, ⟨⟨.pf, 9⟩, []⟩, by decide +kernel⟩

/-- The dispatcher, commit, barriers and the registers of the sequencers: DRAIN as it stands: no effect. -/
theorem test_met_JobsOnSequencers_11 :
    ∃ (s : State) (d : Nat) (o : Order), s.dieWindow d = true ∧ Alone o ∧ o.w.v % 2 = s.rd .SEQ_CTRL_DRAIN d :=
  ⟨w0, 1, ⟨⟨.pf, 2⟩, []⟩, by decide +kernel⟩

/-- The dispatcher, commit, barriers and the registers of the sequencers: a change of DRAIN is taken, and is an expert write. -/
theorem test_met_JobsOnSequencers_12 :
    ∃ (s : State) (d : Nat) (o : Order), s.dieWindow d = true ∧ d < s.part.dies ∧ Alone o ∧ o.w.v % 2 ≠ s.rd .SEQ_CTRL_DRAIN d :=
  ⟨w0, 1, ⟨⟨.pf, 1⟩, []⟩, by decide +kernel⟩

/-- The dispatcher, commit, barriers and the registers of the sequencers: SEQ_CTRL.HANDBACK: no drain, RESERVE0 of 2, and the firmware. -/
theorem test_met_JobsOnSequencers_13 :
    ∃ (s : State) (d : Nat) (o : Order), s.dieWindow d = true ∧ d < s.part.dies ∧ Alone o ∧ o.w.v % 2 = 1 :=
  ⟨w0.wr .SEQ_CTRL_DRAIN 1 1, 1, ⟨⟨.pf, 1⟩, []⟩, by decide +kernel⟩

/-- An array or movement instruction that no rule turns away starts its operation: MOVT: its descriptors wait or are on engines. -/
theorem test_met_ArrayInstructions_1 :
    ∃ (s : State) (r : TaskRef) (c : Ctx), s.ctx r = some c ∧ c.job.st = .running ∧ guardOff c.task c.w = false ∧ s.opTrap c = none ∧ c.task.full =
      false ∧ iOp c.w = 0x22 :=
  ⟨wa (insA 0x22 0) (tdV 13 addr0) (tdV 13 addr0) (tdV 13 (addr0 + 64)), ri, ci (wa (insA 0x22 0) (tdV 13 addr0) (tdV 13 addr0) (tdV 13 (addr0 +
    64))), by decide +kernel⟩

/-- An array or movement instruction that no rule turns away starts its operation: GATHER, likewise. -/
theorem test_met_ArrayInstructions_2 :
    ∃ (s : State) (r : TaskRef) (c : Ctx), s.ctx r = some c ∧ c.job.st = .running ∧ guardOff c.task c.w = false ∧ s.opTrap c = none ∧ c.task.full =
      false ∧ iOp c.w = 0x23 :=
  ⟨wa (insA 0x23 0) (tdV 13 addr0) ⟨tdNum 6 0 0 1 1 1 1 0 0 0 (addr0 + 128) 0 0 0, true⟩ (tdV 13 (addr0 + 64)), ri, ci (wa (insA 0x23 0) (tdV 13
    addr0) ⟨tdNum 6 0 0 1 1 1 1 0 0 0 (addr0 + 128) 0 0 0, true⟩ (tdV 13 (addr0 + 64))), by decide +kernel⟩

/-- An array or movement instruction that no rule turns away starts its operation: SCATTER, likewise. -/
theorem test_met_ArrayInstructions_3 :
    ∃ (s : State) (r : TaskRef) (c : Ctx), s.ctx r = some c ∧ c.job.st = .running ∧ guardOff c.task c.w = false ∧ s.opTrap c = none ∧ c.task.full =
      false ∧ iOp c.w = 0x24 :=
  ⟨wa (insA 0x24 0) (tdV 13 addr0) ⟨tdNum 6 0 0 1 1 1 1 0 0 0 (addr0 + 128) 0 0 0, true⟩ (tdV 13 (addr0 + 64)), ri, ci (wa (insA 0x24 0) (tdV 13
    addr0) ⟨tdNum 6 0 0 1 1 1 1 0 0 0 (addr0 + 128) 0 0 0, true⟩ (tdV 13 (addr0 + 64))), by decide +kernel⟩

/-- An array or movement instruction that no rule turns away starts its operation: MM. -/
theorem test_met_ArrayInstructions_4 :
    ∃ (s : State) (r : TaskRef) (c : Ctx), s.ctx r = some c ∧ c.job.st = .running ∧ guardOff c.task c.w = false ∧ s.opTrap c = none ∧ c.task.full =
      false ∧ iOp c.w = 0x30 ∧ iSub c.w = 0 :=
  ⟨wa (insA 0x30 0) (tdM addr0) (tdM addr0) (tdM (addr0 + 64)), ri, ci (wa (insA 0x30 0) (tdM addr0) (tdM addr0) (tdM (addr0 + 64))),
    by decide +kernel⟩

/-- An array or movement instruction that no rule turns away starts its operation: MMT. -/
theorem test_met_ArrayInstructions_5 :
    ∃ (s : State) (r : TaskRef) (c : Ctx), s.ctx r = some c ∧ c.job.st = .running ∧ guardOff c.task c.w = false ∧ s.opTrap c = none ∧ c.task.full =
      false ∧ iOp c.w = 0x30 ∧ iSub c.w = 1 :=
  ⟨wa (insA 0x30 1) (tdM addr0) (tdM addr0) (tdM (addr0 + 64)), ri, ci (wa (insA 0x30 1) (tdM addr0) (tdM addr0) (tdM (addr0 + 64))),
    by decide +kernel⟩

/-- An array or movement instruction that no rule turns away starts its operation: MMA. -/
theorem test_met_ArrayInstructions_6 :
    ∃ (s : State) (r : TaskRef) (c : Ctx), s.ctx r = some c ∧ c.job.st = .running ∧ guardOff c.task c.w = false ∧ s.opTrap c = none ∧ c.task.full =
      false ∧ iOp c.w = 0x31 ∧ iSub c.w = 0 :=
  ⟨wa (insA 0x31 0) (tdM addr0) (tdM addr0) (tdM (addr0 + 64)), ri, ci (wa (insA 0x31 0) (tdM addr0) (tdM addr0) (tdM (addr0 + 64))),
    by decide +kernel⟩

/-- An array or movement instruction that no rule turns away starts its operation: MMAT. -/
theorem test_met_ArrayInstructions_7 :
    ∃ (s : State) (r : TaskRef) (c : Ctx), s.ctx r = some c ∧ c.job.st = .running ∧ guardOff c.task c.w = false ∧ s.opTrap c = none ∧ c.task.full =
      false ∧ iOp c.w = 0x31 ∧ iSub c.w = 1 :=
  ⟨wa (insA 0x31 1) (tdM addr0) (tdM addr0) (tdM (addr0 + 64)), ri, ci (wa (insA 0x31 1) (tdM addr0) (tdM addr0) (tdM (addr0 + 64))),
    by decide +kernel⟩

/-- An array or movement instruction that no rule turns away starts its operation: EW. -/
theorem test_met_ArrayInstructions_8 :
    ∃ (s : State) (r : TaskRef) (c : Ctx), s.ctx r = some c ∧ c.job.st = .running ∧ guardOff c.task c.w = false ∧ s.opTrap c = none ∧ c.task.full =
      false ∧ iOp c.w = 0x32 :=
  ⟨wa (insA 0x32 14) (tdV 13 addr0) (tdV 13 addr0) (tdV 13 (addr0 + 64)), ri, ci (wa (insA 0x32 14) (tdV 13 addr0) (tdV 13 addr0) (tdV 13 (addr0 +
    64))), by decide +kernel⟩

/-- An array or movement instruction that no rule turns away starts its operation: RED. -/
theorem test_met_ArrayInstructions_9 :
    ∃ (s : State) (r : TaskRef) (c : Ctx), s.ctx r = some c ∧ c.job.st = .running ∧ guardOff c.task c.w = false ∧ s.opTrap c = none ∧ c.task.full =
      false ∧ iOp c.w = 0x33 :=
  ⟨wa (insA 0x33 4) (tdV 13 addr0) (tdV 13 addr0) ⟨tdNum 13 0 0 1 1 1 1 0 0 0 (addr0 + 64) 0 0 0, true⟩, ri, ci (wa (insA 0x33 4) (tdV 13 addr0) (tdV
    13 addr0) ⟨tdNum 13 0 0 1 1 1 1 0 0 0 (addr0 + 64) 0 0 0, true⟩), by decide +kernel⟩

/-- An array or movement instruction that no rule turns away starts its operation: SMAX. -/
theorem test_met_ArrayInstructions_10 :
    ∃ (s : State) (r : TaskRef) (c : Ctx), s.ctx r = some c ∧ c.job.st = .running ∧ guardOff c.task c.w = false ∧ s.opTrap c = none ∧ c.task.full =
      false ∧ iOp c.w = 0x34 :=
  ⟨wa (insA 0x34 0) (tdV 13 addr0) (tdV 13 addr0) (tdV 13 (addr0 + 64)), ri, ci (wa (insA 0x34 0) (tdV 13 addr0) (tdV 13 addr0) (tdV 13 (addr0 +
    64))), by decide +kernel⟩

/-- An array or movement instruction that no rule turns away starts its operation: NORM.LAYER. -/
theorem test_met_ArrayInstructions_11 :
    ∃ (s : State) (r : TaskRef) (c : Ctx), s.ctx r = some c ∧ c.job.st = .running ∧ guardOff c.task c.w = false ∧ s.opTrap c = none ∧ c.task.full =
      false ∧ iOp c.w = 0x35 ∧ iSub c.w = 0 :=
  ⟨wa (insA 0x35 0) (tdV 13 addr0) ⟨tdNum 13 0 0 4 2 1 1 16 0 0 (addr0 + 32) 0 0 0, true⟩ (tdV 13 (addr0 + 64)), ri, ci (wa (insA 0x35 0) (tdV 13
    addr0) ⟨tdNum 13 0 0 4 2 1 1 16 0 0 (addr0 + 32) 0 0 0, true⟩ (tdV 13 (addr0 + 64))), by decide +kernel⟩

/-- An array or movement instruction that no rule turns away starts its operation: NORM.RMS. -/
theorem test_met_ArrayInstructions_12 :
    ∃ (s : State) (r : TaskRef) (c : Ctx), s.ctx r = some c ∧ c.job.st = .running ∧ guardOff c.task c.w = false ∧ s.opTrap c = none ∧ c.task.full =
      false ∧ iOp c.w = 0x35 ∧ iSub c.w = 1 :=
  ⟨wa (insA 0x35 1) (tdV 13 addr0) (tdV 13 (addr0 + 32)) (tdV 13 (addr0 + 64)), ri, ci (wa (insA 0x35 1) (tdV 13 addr0) (tdV 13 (addr0 + 32)) (tdV 13
    (addr0 + 64))), by decide +kernel⟩

/-- An array or movement instruction that no rule turns away starts its operation: QNT. -/
theorem test_met_ArrayInstructions_13 :
    ∃ (s : State) (r : TaskRef) (c : Ctx), s.ctx r = some c ∧ c.job.st = .running ∧ guardOff c.task c.w = false ∧ s.opTrap c = none ∧ c.task.full =
      false ∧ iOp c.w = 0x36 :=
  ⟨(wa (insA 0x36 0) (tdV 13 addr0) (tdV 13 addr0) ⟨tdNum 3 10 0 4 1 1 1 0 0 0 (addr0 + 64) (addr0 + 80) (addr0 + 128) 1, true⟩).store (hostKey 0 128)
    128 (0x3F800000 * 256 ^ 64 + 3 * 256 ^ 70), ri, ci ((wa (insA 0x36 0) (tdV 13 addr0) (tdV 13 addr0) ⟨tdNum 3 10 0 4 1 1 1 0 0 0 (addr0 + 64) (addr0
    + 80) (addr0 + 128) 1, true⟩).store (hostKey 0 128) 128 (0x3F800000 * 256 ^ 64 + 3 * 256 ^ 70)), by decide +kernel⟩

/-- An array or movement instruction that no rule turns away starts its operation: DQNT. -/
theorem test_met_ArrayInstructions_14 :
    ∃ (s : State) (r : TaskRef) (c : Ctx), s.ctx r = some c ∧ c.job.st = .running ∧ guardOff c.task c.w = false ∧ s.opTrap c = none ∧ c.task.full =
      false ∧ iOp c.w = 0x37 :=
  ⟨wa (insA 0x37 0) ⟨tdNum 3 2 0 4 1 1 1 0 0 0 addr0 (addr0 + 16) 0 1, true⟩ (tdV 13 addr0) (tdV 13 (addr0 + 64)), ri, ci (wa (insA 0x37 0) ⟨tdNum 3 2
    0 4 1 1 1 0 0 0 addr0 (addr0 + 16) 0 1, true⟩ (tdV 13 addr0) (tdV 13 (addr0 + 64))), by decide +kernel⟩

/-- An array or movement instruction with a bad operand traps and starts nothing: MOVT. -/
theorem test_met_TrappedOperations_1 :
    ∃ (s : State) (r : TaskRef) (c : Ctx) (e : Nat), s.ctx r = some c ∧ c.job.st = .running ∧ guardOff c.task c.w = false ∧ s.opTrap c = some e ∧ iOp
      c.w = 0x22 :=
  ⟨wa (insA 0x22 0) ⟨0, false⟩ ⟨0, false⟩ ⟨0, false⟩, ri, ci (wa (insA 0x22 0) ⟨0, false⟩ ⟨0, false⟩ ⟨0, false⟩), cDescriptor, by decide +kernel⟩

/-- An array or movement instruction with a bad operand traps and starts nothing: GATHER. -/
theorem test_met_TrappedOperations_2 :
    ∃ (s : State) (r : TaskRef) (c : Ctx) (e : Nat), s.ctx r = some c ∧ c.job.st = .running ∧ guardOff c.task c.w = false ∧ s.opTrap c = some e ∧ iOp
      c.w = 0x23 :=
  ⟨wa (insA 0x23 0) ⟨0, false⟩ ⟨0, false⟩ ⟨0, false⟩, ri, ci (wa (insA 0x23 0) ⟨0, false⟩ ⟨0, false⟩ ⟨0, false⟩), cDescriptor, by decide +kernel⟩

/-- An array or movement instruction with a bad operand traps and starts nothing: SCATTER. -/
theorem test_met_TrappedOperations_3 :
    ∃ (s : State) (r : TaskRef) (c : Ctx) (e : Nat), s.ctx r = some c ∧ c.job.st = .running ∧ guardOff c.task c.w = false ∧ s.opTrap c = some e ∧ iOp
      c.w = 0x24 :=
  ⟨wa (insA 0x24 0) ⟨0, false⟩ ⟨0, false⟩ ⟨0, false⟩, ri, ci (wa (insA 0x24 0) ⟨0, false⟩ ⟨0, false⟩ ⟨0, false⟩), cDescriptor, by decide +kernel⟩

/-- An array or movement instruction with a bad operand traps and starts nothing: MM. -/
theorem test_met_TrappedOperations_4 :
    ∃ (s : State) (r : TaskRef) (c : Ctx) (e : Nat), s.ctx r = some c ∧ c.job.st = .running ∧ guardOff c.task c.w = false ∧ s.opTrap c = some e ∧ iOp
      c.w = 0x30 ∧ iSub c.w = 0 :=
  ⟨wa (insA 0x30 0) ⟨0, false⟩ ⟨0, false⟩ ⟨0, false⟩, ri, ci (wa (insA 0x30 0) ⟨0, false⟩ ⟨0, false⟩ ⟨0, false⟩), cDescriptor, by decide +kernel⟩

/-- An array or movement instruction with a bad operand traps and starts nothing: MMT. -/
theorem test_met_TrappedOperations_5 :
    ∃ (s : State) (r : TaskRef) (c : Ctx) (e : Nat), s.ctx r = some c ∧ c.job.st = .running ∧ guardOff c.task c.w = false ∧ s.opTrap c = some e ∧ iOp
      c.w = 0x30 ∧ iSub c.w = 1 :=
  ⟨wa (insA 0x30 1) ⟨0, false⟩ ⟨0, false⟩ ⟨0, false⟩, ri, ci (wa (insA 0x30 1) ⟨0, false⟩ ⟨0, false⟩ ⟨0, false⟩), cDescriptor, by decide +kernel⟩

/-- An array or movement instruction with a bad operand traps and starts nothing: MMA. -/
theorem test_met_TrappedOperations_6 :
    ∃ (s : State) (r : TaskRef) (c : Ctx) (e : Nat), s.ctx r = some c ∧ c.job.st = .running ∧ guardOff c.task c.w = false ∧ s.opTrap c = some e ∧ iOp
      c.w = 0x31 ∧ iSub c.w = 0 :=
  ⟨wa (insA 0x31 0) ⟨0, false⟩ ⟨0, false⟩ ⟨0, false⟩, ri, ci (wa (insA 0x31 0) ⟨0, false⟩ ⟨0, false⟩ ⟨0, false⟩), cDescriptor, by decide +kernel⟩

/-- An array or movement instruction with a bad operand traps and starts nothing: MMAT. -/
theorem test_met_TrappedOperations_7 :
    ∃ (s : State) (r : TaskRef) (c : Ctx) (e : Nat), s.ctx r = some c ∧ c.job.st = .running ∧ guardOff c.task c.w = false ∧ s.opTrap c = some e ∧ iOp
      c.w = 0x31 ∧ iSub c.w = 1 :=
  ⟨wa (insA 0x31 1) ⟨0, false⟩ ⟨0, false⟩ ⟨0, false⟩, ri, ci (wa (insA 0x31 1) ⟨0, false⟩ ⟨0, false⟩ ⟨0, false⟩), cDescriptor, by decide +kernel⟩

/-- An array or movement instruction with a bad operand traps and starts nothing: EW. -/
theorem test_met_TrappedOperations_8 :
    ∃ (s : State) (r : TaskRef) (c : Ctx) (e : Nat), s.ctx r = some c ∧ c.job.st = .running ∧ guardOff c.task c.w = false ∧ s.opTrap c = some e ∧ iOp
      c.w = 0x32 :=
  ⟨wa (insA 0x32 0) ⟨0, false⟩ ⟨0, false⟩ ⟨0, false⟩, ri, ci (wa (insA 0x32 0) ⟨0, false⟩ ⟨0, false⟩ ⟨0, false⟩), cDescriptor, by decide +kernel⟩

/-- An array or movement instruction with a bad operand traps and starts nothing: RED. -/
theorem test_met_TrappedOperations_9 :
    ∃ (s : State) (r : TaskRef) (c : Ctx) (e : Nat), s.ctx r = some c ∧ c.job.st = .running ∧ guardOff c.task c.w = false ∧ s.opTrap c = some e ∧ iOp
      c.w = 0x33 :=
  ⟨wa (insA 0x33 0) ⟨0, false⟩ ⟨0, false⟩ ⟨0, false⟩, ri, ci (wa (insA 0x33 0) ⟨0, false⟩ ⟨0, false⟩ ⟨0, false⟩), cDescriptor, by decide +kernel⟩

/-- An array or movement instruction with a bad operand traps and starts nothing: SMAX. -/
theorem test_met_TrappedOperations_10 :
    ∃ (s : State) (r : TaskRef) (c : Ctx) (e : Nat), s.ctx r = some c ∧ c.job.st = .running ∧ guardOff c.task c.w = false ∧ s.opTrap c = some e ∧ iOp
      c.w = 0x34 :=
  ⟨wa (insA 0x34 0) ⟨0, false⟩ ⟨0, false⟩ ⟨0, false⟩, ri, ci (wa (insA 0x34 0) ⟨0, false⟩ ⟨0, false⟩ ⟨0, false⟩), cDescriptor, by decide +kernel⟩

/-- An array or movement instruction with a bad operand traps and starts nothing: NORM.LAYER. -/
theorem test_met_TrappedOperations_11 :
    ∃ (s : State) (r : TaskRef) (c : Ctx) (e : Nat), s.ctx r = some c ∧ c.job.st = .running ∧ guardOff c.task c.w = false ∧ s.opTrap c = some e ∧ iOp
      c.w = 0x35 ∧ iSub c.w = 0 :=
  ⟨wa (insA 0x35 0) ⟨0, false⟩ ⟨0, false⟩ ⟨0, false⟩, ri, ci (wa (insA 0x35 0) ⟨0, false⟩ ⟨0, false⟩ ⟨0, false⟩), cDescriptor, by decide +kernel⟩

/-- An array or movement instruction with a bad operand traps and starts nothing: NORM.RMS. -/
theorem test_met_TrappedOperations_12 :
    ∃ (s : State) (r : TaskRef) (c : Ctx) (e : Nat), s.ctx r = some c ∧ c.job.st = .running ∧ guardOff c.task c.w = false ∧ s.opTrap c = some e ∧ iOp
      c.w = 0x35 ∧ iSub c.w = 1 :=
  ⟨wa (insA 0x35 1) ⟨0, false⟩ ⟨0, false⟩ ⟨0, false⟩, ri, ci (wa (insA 0x35 1) ⟨0, false⟩ ⟨0, false⟩ ⟨0, false⟩), cDescriptor, by decide +kernel⟩

/-- An array or movement instruction with a bad operand traps and starts nothing: QNT. -/
theorem test_met_TrappedOperations_13 :
    ∃ (s : State) (r : TaskRef) (c : Ctx) (e : Nat), s.ctx r = some c ∧ c.job.st = .running ∧ guardOff c.task c.w = false ∧ s.opTrap c = some e ∧ iOp
      c.w = 0x36 :=
  ⟨wa (insA 0x36 0) ⟨0, false⟩ ⟨0, false⟩ ⟨0, false⟩, ri, ci (wa (insA 0x36 0) ⟨0, false⟩ ⟨0, false⟩ ⟨0, false⟩), cDescriptor, by decide +kernel⟩

/-- An array or movement instruction with a bad operand traps and starts nothing: DQNT. -/
theorem test_met_TrappedOperations_14 :
    ∃ (s : State) (r : TaskRef) (c : Ctx) (e : Nat), s.ctx r = some c ∧ c.job.st = .running ∧ guardOff c.task c.w = false ∧ s.opTrap c = some e ∧ iOp
      c.w = 0x37 :=
  ⟨wa (insA 0x37 0) ⟨0, false⟩ ⟨0, false⟩ ⟨0, false⟩, ri, ci (wa (insA 0x37 0) ⟨0, false⟩ ⟨0, false⟩ ⟨0, false⟩), cDescriptor, by decide +kernel⟩

/-- STITCH, RSTITCH, ROT and MAPSEL: STITCH that no rule turns away, on a queue with room for its requests, posts them and takes its ticket. -/
theorem test_met_FabricInstructions_1 :
    ∃ (s : State) (r : TaskRef) (c : Ctx) (q : Nat), s.ctx r = some c ∧ c.job.st = .running ∧ guardOff c.task c.w = false ∧ iOp c.w = 0x28 ∧
      c.task.full = false ∧ s.stitchTrap c = none ∧ c.task.wait = .run ∧ s.stitchMalformed c false = false ∧ (s.layerTiles (iSlot c.w) (iLayer c.w)).any
      (fun p => s.tst p.die p.tile == tsRetired) = false ∧ (s.feedQueues c.job.fn)[c.task.gr (iGa c.w)]? = some q ∧ s.inQueue q + tdD (c.task.tr (iTa
      c.w)).val 3 ≤ 32 :=
  ⟨wf 0x28 ⟨tdNum 3 0 0 4 1 1 2 0 0 4 addr0 0 0 0, true⟩ ⟨tdNum 6 0 0 4 1 1 2 0 0 16 (addr0 + 64) 0 0 0, true⟩, ri, ci (wf 0x28 ⟨tdNum 3 0 0 4 1 1 2 0
    0 4 addr0 0 0 0, true⟩ ⟨tdNum 6 0 0 4 1 1 2 0 0 16 (addr0 + 64) 0 0 0, true⟩), 8, by decide +kernel⟩

/-- STITCH, RSTITCH, ROT and MAPSEL: RSTITCH that no rule turns away, on a queue with room for its requests, posts them and takes its ticket. -/
theorem test_met_FabricInstructions_2 :
    ∃ (s : State) (r : TaskRef) (c : Ctx) (q : Nat), s.ctx r = some c ∧ c.job.st = .running ∧ guardOff c.task c.w = false ∧ iOp c.w = 0x29 ∧
      c.task.full = false ∧ s.stitchTrap c = none ∧ c.task.wait = .run ∧ s.stitchMalformed c true = false ∧ (s.layerTiles (iSlot c.w) (iLayer c.w)).any
      (fun p => s.tst p.die p.tile == tsRetired) = false ∧ (s.layerTiles (iSlot c.w) (iLayer c.w)).any (fun p => s.rdb .TIL_STATUS_REV_LOST p.die
      p.tile) = false ∧ (s.feedQueues c.job.fn)[c.task.gr (iGa c.w)]? = some q ∧ s.inQueue q + tdD (c.task.tr (iTa c.w)).val 3 ≤ 32 :=
  ⟨wf 0x29 ⟨tdNum 3 0 0 4 1 1 2 0 0 4 addr0 0 0 0, true⟩ ⟨tdNum 6 0 0 4 1 1 2 0 0 16 (addr0 + 64) 0 0 0, true⟩, ri, ci (wf 0x29 ⟨tdNum 3 0 0 4 1 1 2 0
    0 4 addr0 0 0 0, true⟩ ⟨tdNum 6 0 0 4 1 1 2 0 0 16 (addr0 + 64) 0 0 0, true⟩), 8, by decide +kernel⟩

/-- STITCH, RSTITCH, ROT and MAPSEL: STITCH on tensors that the rules call malformed ends the job. -/
theorem test_met_FabricInstructions_3 :
    ∃ (s : State) (r : TaskRef) (c : Ctx), s.ctx r = some c ∧ c.job.st = .running ∧ guardOff c.task c.w = false ∧ iOp c.w = 0x28 ∧ c.task.full = false
      ∧ s.stitchTrap c = none ∧ s.stitchMalformed c false = true :=
  ⟨wf 0x28 ⟨tdNum 3 0 0 5 1 1 2 0 0 8 addr0 0 0 0, true⟩ ⟨tdNum 6 0 0 4 1 1 2 0 0 16 (addr0 + 64) 0 0 0, true⟩, ri, ci (wf 0x28 ⟨tdNum 3 0 0 5 1 1 2 0
    0 8 addr0 0 0 0, true⟩ ⟨tdNum 6 0 0 4 1 1 2 0 0 16 (addr0 + 64) 0 0 0, true⟩), by decide +kernel⟩

/-- STITCH, RSTITCH, ROT and MAPSEL: ROT that no rule turns away starts its operation. -/
theorem test_met_FabricInstructions_4 :
    ∃ (s : State) (r : TaskRef) (c : Ctx), s.ctx r = some c ∧ c.job.st = .running ∧ guardOff c.task c.w = false ∧ iOp c.w = 0x2B ∧ c.task.full = false
      ∧ s.rotTrap c (((s.rotOf (iSlot c.w) (s.activeMap (iSlot c.w)) (iLayer c.w)).map (fun e => e.1.inW)).getD (inputWidth (s.layerTiles (iSlot c.w)
      (iLayer c.w)))) = none :=
  ⟨wf 0x2B ⟨tdNum 13 0 0 4 1 1 1 0 0 0 addr0 0 0 0, true⟩ ⟨tdNum 13 0 0 4 1 1 1 0 0 0 (addr0 + 64) 0 0 0, true⟩, ri, ci (wf 0x2B ⟨tdNum 13 0 0 4 1 1 1
    0 0 0 addr0 0 0 0, true⟩ ⟨tdNum 13 0 0 4 1 1 1 0 0 0 (addr0 + 64) 0 0 0, true⟩), by decide +kernel⟩

/-- STITCH, RSTITCH, ROT and MAPSEL: MAPSEL of a slot of the job. -/
theorem test_met_FabricInstructions_5 :
    ∃ (s : State) (r : TaskRef) (c : Ctx), s.ctx r = some c ∧ c.job.st = .running ∧ guardOff c.task c.w = false ∧ iOp c.w = 0x2C ∧ bit c.job.slots
      (bits c.w 5 0) = true :=
  ⟨{ wi [insI 0x2C 0 4 0 0] task0 with jobs := [{ taskN task0 with slots := 1 }] }, ri, ci
    ({ wi [insI 0x2C 0 4 0 0] task0 with jobs := [{ taskN task0 with slots := 1 }] }), by decide +kernel⟩

/-- STITCH, RSTITCH, ROT and MAPSEL: MAPSEL of another slot traps with cause ADDRESS. -/
theorem test_met_FabricInstructions_6 :
    ∃ (s : State) (r : TaskRef) (c : Ctx), s.ctx r = some c ∧ c.job.st = .running ∧ guardOff c.task c.w = false ∧ iOp c.w = 0x2C ∧ bit c.job.slots
      (bits c.w 5 0) = false :=
  ⟨wi [insI 0x2C 0 4 0 63] task0, ri, ci (wi [insI 0x2C 0 4 0 63] task0), by decide +kernel⟩

/-- The maintenance instructions take their tickets and begin on a tile that is free for them: CAL, quick. -/
theorem test_met_MaintenanceInstructions_1 :
    ∃ (s : State) (r : TaskRef) (c : Ctx), s.ctx r = some c ∧ c.job.st = .running ∧ guardOff c.task c.w = false ∧ c.task.full = false ∧ s.ops.any (fun
      k => k.unit == .maint) = false ∧ c.task.gr (iGa c.w) / 2048 < s.part.dies ∧ c.task.gr (iGa c.w) % 2048 < 1664 ∧ s.online (c.task.gr (iGa c.w) /
      2048) = true ∧ s.tileInUse (c.task.gr (iGa c.w) / 2048) (c.task.gr (iGa c.w) % 2048) = false ∧ iOp c.w = 0x3C ∧ c.w % 4 = 0 ∧ s.rdb .CAL_CTRL_HOLD
      (c.task.gr (iGa c.w) / 2048) = false ∧ (s.tst (c.task.gr (iGa c.w) / 2048) (c.task.gr (iGa c.w) % 2048) = tsServing ∨ s.tst (c.task.gr (iGa c.w) /
      2048) (c.task.gr (iGa c.w) % 2048) = tsHeld ∨ s.tst (c.task.gr (iGa c.w) / 2048) (c.task.gr (iGa c.w) % 2048) = tsStaged) :=
  ⟨{ (wi [0x3C * 2 ^ 58 + 0 * 2 ^ 48 + 9 * 2 ^ 42 + 7 * 2 ^ 36 + 5 * 2 ^ 25 + 6 * 2 ^ 20 + 0] { task0 with g := [(5, 2048 + 6)], td := [(7, pay0), (9, cnt0)] }).wr .TIL_STATUS_STATE tsServing 1 6 with urg := [] },
    ri, ci
    ({ (wi [0x3C * 2 ^ 58 + 0 * 2 ^ 48 + 9 * 2 ^ 42 + 7 * 2 ^ 36 + 5 * 2 ^ 25 + 6 * 2 ^ 20 + 0] { task0 with g := [(5, 2048 + 6)], td := [(7, pay0), (9, cnt0)] }).wr .TIL_STATUS_STATE tsServing 1 6 with urg := [] }),
    by decide +kernel⟩

/-- The maintenance instructions take their tickets and begin on a tile that is free for them: CLEAR. -/
theorem test_met_MaintenanceInstructions_2 :
    ∃ (s : State) (r : TaskRef) (c : Ctx), s.ctx r = some c ∧ c.job.st = .running ∧ guardOff c.task c.w = false ∧ c.task.full = false ∧ s.ops.any (fun
      k => k.unit == .maint) = false ∧ c.task.gr (iGa c.w) / 2048 < s.part.dies ∧ c.task.gr (iGa c.w) % 2048 < 1664 ∧ s.online (c.task.gr (iGa c.w) /
      2048) = true ∧ s.tileInUse (c.task.gr (iGa c.w) / 2048) (c.task.gr (iGa c.w) % 2048) = false ∧ iOp c.w = 0x3D ∧ iSub c.w = 0 ∧ (s.tst (c.task.gr
      (iGa c.w) / 2048) (c.task.gr (iGa c.w) % 2048) = tsFree ∨ s.tst (c.task.gr (iGa c.w) / 2048) (c.task.gr (iGa c.w) % 2048) = tsCleared ∨ s.tst
      (c.task.gr (iGa c.w) / 2048) (c.task.gr (iGa c.w) % 2048) = tsStaged) :=
  ⟨{ (wi [0x3D * 2 ^ 58 + 0 * 2 ^ 48 + 9 * 2 ^ 42 + 7 * 2 ^ 36 + 5 * 2 ^ 25 + 6 * 2 ^ 20 + 0] { task0 with g := [(5, 2048 + 6)], td := [(7, pay0), (9, cnt0)] }).wr .TIL_STATUS_STATE tsCleared 1 6 with urg := [] },
    ri, ci
    ({ (wi [0x3D * 2 ^ 58 + 0 * 2 ^ 48 + 9 * 2 ^ 42 + 7 * 2 ^ 36 + 5 * 2 ^ 25 + 6 * 2 ^ 20 + 0] { task0 with g := [(5, 2048 + 6)], td := [(7, pay0), (9, cnt0)] }).wr .TIL_STATUS_STATE tsCleared 1 6 with urg := [] }),
    by decide +kernel⟩

/-- The maintenance instructions take their tickets and begin on a tile that is free for them: PROG. -/
theorem test_met_MaintenanceInstructions_3 :
    ∃ (s : State) (r : TaskRef) (c : Ctx), s.ctx r = some c ∧ c.job.st = .running ∧ guardOff c.task c.w = false ∧ c.task.full = false ∧ s.ops.any (fun
      k => k.unit == .maint) = false ∧ c.task.gr (iGa c.w) / 2048 < s.part.dies ∧ c.task.gr (iGa c.w) % 2048 < 1664 ∧ s.online (c.task.gr (iGa c.w) /
      2048) = true ∧ s.tileInUse (c.task.gr (iGa c.w) / 2048) (c.task.gr (iGa c.w) % 2048) = false ∧ iOp c.w = 0x3D ∧ iSub c.w = 1 ∧ (s.tst (c.task.gr
      (iGa c.w) / 2048) (c.task.gr (iGa c.w) % 2048) = tsFree ∨ s.tst (c.task.gr (iGa c.w) / 2048) (c.task.gr (iGa c.w) % 2048) = tsCleared ∨ s.tst
      (c.task.gr (iGa c.w) / 2048) (c.task.gr (iGa c.w) % 2048) = tsStaged) ∧ s.placeOk (extPlace c.ext (c.task.gr (iGa c.w) / 2048) (c.task.gr (iGa
      c.w) % 2048)) = true ∧ s.payloadShape c.job (c.task.tr (iTa c.w)).val = true ∧ s.tdPoisoned c.job (c.task.tr (iTa c.w)).val = false ∧ (s.payloadOf
      c.job (c.task.tr (iTa c.w)).val).all w8xOk = true ∧ s.tst (c.task.gr (iGa c.w) / 2048) (c.task.gr (iGa c.w) % 2048) = tsCleared ∧ bit c.w 0 =
      false :=
  ⟨{ (wi [0x3D * 2 ^ 58 + 1 * 2 ^ 48 + 9 * 2 ^ 42 + 7 * 2 ^ 36 + 5 * 2 ^ 25 + 6 * 2 ^ 20 + 0 + 2 ^ 57, 2 ^ 57 + 3 * 2 ^ 21 + 3 * 2 ^ 12] { task0 with g := [(5, 2048 + 6)], td := [(7, pay0), (9, cnt0)] }).wr .TIL_STATUS_STATE tsCleared 1 6 with maps := [map0] },
    ri, ci
    ({ (wi [0x3D * 2 ^ 58 + 1 * 2 ^ 48 + 9 * 2 ^ 42 + 7 * 2 ^ 36 + 5 * 2 ^ 25 + 6 * 2 ^ 20 + 0 + 2 ^ 57, 2 ^ 57 + 3 * 2 ^ 21 + 3 * 2 ^ 12] { task0 with g := [(5, 2048 + 6)], td := [(7, pay0), (9, cnt0)] }).wr .TIL_STATUS_STATE tsCleared 1 6 with maps := [map0] }),
    by and_intros <;> first | ((with_reducible apply payload_met) <;> rfl) | decide +kernel⟩

/-- The maintenance instructions take their tickets and begin on a tile that is free for them: VERIFY. -/
theorem test_met_MaintenanceInstructions_4 :
    ∃ (s : State) (r : TaskRef) (c : Ctx), s.ctx r = some c ∧ c.job.st = .running ∧ guardOff c.task c.w = false ∧ c.task.full = false ∧ s.ops.any (fun
      k => k.unit == .maint) = false ∧ c.task.gr (iGa c.w) / 2048 < s.part.dies ∧ c.task.gr (iGa c.w) % 2048 < 1664 ∧ s.online (c.task.gr (iGa c.w) /
      2048) = true ∧ s.tileInUse (c.task.gr (iGa c.w) / 2048) (c.task.gr (iGa c.w) % 2048) = false ∧ iOp c.w = 0x3E ∧ (s.tst (c.task.gr (iGa c.w) /
      2048) (c.task.gr (iGa c.w) % 2048) = tsFree ∨ s.tst (c.task.gr (iGa c.w) / 2048) (c.task.gr (iGa c.w) % 2048) = tsCleared ∨ s.tst (c.task.gr (iGa
      c.w) / 2048) (c.task.gr (iGa c.w) % 2048) = tsStaged ∨ s.tst (c.task.gr (iGa c.w) / 2048) (c.task.gr (iGa c.w) % 2048) = tsHeld) ∧ s.payloadShape
      c.job (c.task.tr (iTa c.w)).val = true ∧ s.verifyDest c.job (c.task.tr (iTd c.w)).val = true ∧ s.tdPoisoned c.job (c.task.tr (iTa c.w)).val =
      false ∧ (s.payloadOf c.job (c.task.tr (iTa c.w)).val).all w8xOk = true :=
  ⟨{ (wi [0x3E * 2 ^ 58 + 0 * 2 ^ 48 + 9 * 2 ^ 42 + 7 * 2 ^ 36 + 5 * 2 ^ 25 + 6 * 2 ^ 20 + 0] { task0 with g := [(5, 2048 + 6)], td := [(7, pay0), (9, cnt0)] }).wr .TIL_STATUS_STATE tsHeld 1 6 with urg := [] },
    ri, ci
    ({ (wi [0x3E * 2 ^ 58 + 0 * 2 ^ 48 + 9 * 2 ^ 42 + 7 * 2 ^ 36 + 5 * 2 ^ 25 + 6 * 2 ^ 20 + 0] { task0 with g := [(5, 2048 + 6)], td := [(7, pay0), (9, cnt0)] }).wr .TIL_STATUS_STATE tsHeld 1 6 with urg := [] }),
    by and_intros <;> first | ((with_reducible apply payload_met) <;> rfl) | decide +kernel⟩

/-- The maintenance instructions take their tickets and begin on a tile that is free for them: REFRESH. -/
theorem test_met_MaintenanceInstructions_5 :
    ∃ (s : State) (r : TaskRef) (c : Ctx) (p : Placed), s.ctx r = some c ∧ c.job.st = .running ∧ guardOff c.task c.w = false ∧ c.task.full = false ∧
      s.ops.any (fun k => k.unit == .maint) = false ∧ c.task.gr (iGa c.w) / 2048 < s.part.dies ∧ c.task.gr (iGa c.w) % 2048 < 1664 ∧ s.online (c.task.gr
      (iGa c.w) / 2048) = true ∧ s.tileInUse (c.task.gr (iGa c.w) / 2048) (c.task.gr (iGa c.w) % 2048) = false ∧ iOp c.w = 0x3F ∧ s.tst (c.task.gr (iGa
      c.w) / 2048) (c.task.gr (iGa c.w) % 2048) = tsStaged ∧ s.rdb .CAL_CTRL_HOLD (c.task.gr (iGa c.w) / 2048) = false ∧ s.placeOf (c.task.gr (iGa c.w)
      / 2048) (c.task.gr (iGa c.w) % 2048) = some p ∧ ((s.mapOf p.slot p.map).bind (·.handle)).isSome = true :=
  ⟨{ (wi [0x3F * 2 ^ 58 + 0 * 2 ^ 48 + 9 * 2 ^ 42 + 7 * 2 ^ 36 + 5 * 2 ^ 25 + 6 * 2 ^ 20 + 0] { task0 with g := [(5, 2048 + 6)], td := [(7, pay0), (9, cnt0)] }).wr .TIL_STATUS_STATE tsStaged 1 6 with maps := [map0], placed := [place0] },
    ri, ci
    ({ (wi [0x3F * 2 ^ 58 + 0 * 2 ^ 48 + 9 * 2 ^ 42 + 7 * 2 ^ 36 + 5 * 2 ^ 25 + 6 * 2 ^ 20 + 0] { task0 with g := [(5, 2048 + 6)], td := [(7, pay0), (9, cnt0)] }).wr .TIL_STATUS_STATE tsStaged 1 6 with maps := [map0], placed := [place0] }),
    place0, by decide +kernel⟩

/-- The maintenance instructions take their tickets and begin on a tile that is free for them: cal, superseded by a higher-ranked master in the same cycle. -/
theorem test_met_MaintenanceInstructions_6 :
    ∃ (s : State) (r : TaskRef) (c : Ctx) (m : Master), s.ctx r = some c ∧ c.job.st = .running ∧ guardOff c.task c.w = false ∧ c.task.full = false ∧
      s.ops.any (fun k => k.unit == .maint) = false ∧ c.task.gr (iGa c.w) / 2048 < s.part.dies ∧ c.task.gr (iGa c.w) % 2048 < 1664 ∧ s.online (c.task.gr
      (iGa c.w) / 2048) = true ∧ s.tileInUse (c.task.gr (iGa c.w) / 2048) (c.task.gr (iGa c.w) % 2048) = false ∧ iOp c.w = 0x3C ∧ masterRank m <
      masterRank .pf :=
  ⟨{ (wi [0x3C * 2 ^ 58 + 0 * 2 ^ 48 + 9 * 2 ^ 42 + 7 * 2 ^ 36 + 5 * 2 ^ 25 + 6 * 2 ^ 20 + 0] { task0 with g := [(5, 2048 + 6)], td := [(7, pay0), (9, cnt0)] }).wr .TIL_STATUS_STATE tsServing 1 6 with urg := [] },
    ri, ci
    ({ (wi [0x3C * 2 ^ 58 + 0 * 2 ^ 48 + 9 * 2 ^ 42 + 7 * 2 ^ 36 + 5 * 2 ^ 25 + 6 * 2 ^ 20 + 0] { task0 with g := [(5, 2048 + 6)], td := [(7, pay0), (9, cnt0)] }).wr .TIL_STATUS_STATE tsServing 1 6 with urg := [] }), .chain,
    by decide +kernel⟩

/-- The maintenance instructions take their tickets and begin on a tile that is free for them: prog, superseded by a higher-ranked master in the same cycle. -/
theorem test_met_MaintenanceInstructions_7 :
    ∃ (s : State) (r : TaskRef) (c : Ctx) (m : Master), s.ctx r = some c ∧ c.job.st = .running ∧ guardOff c.task c.w = false ∧ c.task.full = false ∧
      s.ops.any (fun k => k.unit == .maint) = false ∧ c.task.gr (iGa c.w) / 2048 < s.part.dies ∧ c.task.gr (iGa c.w) % 2048 < 1664 ∧ s.online (c.task.gr
      (iGa c.w) / 2048) = true ∧ s.tileInUse (c.task.gr (iGa c.w) / 2048) (c.task.gr (iGa c.w) % 2048) = false ∧ iOp c.w = 0x3D ∧ iSub c.w = 1 ∧
      masterRank m < masterRank .pf :=
  ⟨{ (wi [0x3D * 2 ^ 58 + 1 * 2 ^ 48 + 9 * 2 ^ 42 + 7 * 2 ^ 36 + 5 * 2 ^ 25 + 6 * 2 ^ 20 + 0] { task0 with g := [(5, 2048 + 6)], td := [(7, pay0), (9, cnt0)] }).wr .TIL_STATUS_STATE tsCleared 1 6 with urg := [] },
    ri, ci
    ({ (wi [0x3D * 2 ^ 58 + 1 * 2 ^ 48 + 9 * 2 ^ 42 + 7 * 2 ^ 36 + 5 * 2 ^ 25 + 6 * 2 ^ 20 + 0] { task0 with g := [(5, 2048 + 6)], td := [(7, pay0), (9, cnt0)] }).wr .TIL_STATUS_STATE tsCleared 1 6 with urg := [] }), .chain,
    by decide +kernel⟩

/-- Operations of the array, the DMA engines and VERIFY end, and the controls of the array: the last block of an operation of the array: its ticket is done. -/
theorem test_met_OperationsEnd_1 :
    ∃ (s : State) (d : Nat) (a : Nat) (b : Nat) (v : List Nat) (w : BlockInfo) (o : Op), s.online d = true ∧ s.paused 0 d = false ∧ (s.arrayOps d).any
      (fun o => o.running && o.unit == .array && s.opRetrains o) = false ∧ (s.arrayOps d).find? (·.running) = some o ∧ o.left ≤ 256 ∧ o.unit = .array ∧
      (s.job o.job).any (·.active) = true :=
  ⟨wo op0, 1, 0, 0, [], ⟨[], Found.none⟩, op0, by decide +kernel⟩

/-- Operations of the array, the DMA engines and VERIFY end, and the controls of the array: a block of an operation with more left: its cycles are counted, and it has 256 fewer. -/
theorem test_met_OperationsEnd_2 :
    ∃ (s : State) (d : Nat) (a : Nat) (b : Nat) (v : List Nat) (w : BlockInfo) (o : Op), s.online d = true ∧ s.paused 0 d = false ∧ (s.arrayOps d).any
      (fun o => o.running && o.unit == .array && s.opRetrains o) = false ∧ (s.arrayOps d).find? (·.running) = some o ∧ 256 < o.left :=
  ⟨wo { op0 with left := 257 }, 1, 0, 0, [], ⟨[], Found.none⟩, { op0 with left := 257 }, by decide +kernel⟩

/-- Operations of the array, the DMA engines and VERIFY end, and the controls of the array: an idle array takes the best operation that does not wait for an operand. -/
theorem test_met_OperationsEnd_3 :
    ∃ (s : State) (d : Nat) (a : Nat) (b : Nat) (v : List Nat) (w : BlockInfo) (o : Op), s.online d = true ∧ s.paused 0 d = false ∧ (s.arrayOps d).any
      (fun o => o.running && o.unit == .array && s.opRetrains o) = false ∧ (s.arrayOps d).find? (·.running) = none ∧ s.rdb .DGA_CTRL_HOLD d = false ∧
      s.blockRuns d 1 = true ∧ bestOp ((s.arrayOps d).filter (fun o => !(w.waiting.contains o.issue))) = some o :=
  ⟨wo { op0 with running := false }, 1, 0, 0, [], ⟨[5], Found.none⟩, { op0 with running := false }, by decide +kernel⟩

/-- Operations of the array, the DMA engines and VERIFY end, and the controls of the array: the last descriptor of a copy is done: its ticket is done. -/
theorem test_met_OperationsEnd_4 :
    ∃ (s : State) (d : Nat) (i : Nat) (m : Found) (v : DmaRun) (o : Op), s.paused 0 d = false ∧ s.dmaAt d i = some v ∧ s.ops.find? (fun k => k.issue
      == v.issue && k.unit == .dma) = some o ∧ s.opRetrains o = false ∧ o.left = 0 ∧ s.dmas.any (fun k => k.issue == v.issue && !(k.die == d && k.eng ==
      i)) = false ∧ o.converts = false ∧ (s.job o.job).any (·.active) = true :=
  ⟨{ wo { op0 with unit := .dma, word := insA 0x22 0, left := 0 } with dmas := [⟨1, 3, 4, 0, none, 0⟩] }, 1, 3, Found.none, ⟨1, 3, 4, 0, none, 0⟩,
    { op0 with unit := .dma, word := insA 0x22 0, left := 0 }, by decide +kernel⟩

/-- Operations of the array, the DMA engines and VERIFY end, and the controls of the array: the last descriptor of a converting MOVT is done: the operation goes on to the array. -/
theorem test_met_OperationsEnd_5 :
    ∃ (s : State) (d : Nat) (i : Nat) (m : Found) (v : DmaRun) (o : Op) (j : Job), s.paused 0 d = false ∧ s.dmaAt d i = some v ∧ s.ops.find? (fun k =>
      k.issue == v.issue && k.unit == .dma) = some o ∧ s.opRetrains o = false ∧ o.left = 0 ∧ s.dmas.any (fun k => k.issue == v.issue && !(k.die == d &&
      k.eng == i)) = false ∧ o.converts = true ∧ ((s.dmaRelease d i).opReads o m).1 = false ∧ ((s.dmaRelease d i).opReads o m).2.job o.job = some j ∧
      ((s.dmaRelease d i).opReads o m).2.tdPoisoned j o.ta = false ∧ ((s.dmaRelease d i).opReads o m).2.scaleFault j o.ta = false :=
  ⟨{ wo { op0 with unit := .dma, word := insA 0x22 0, td := (tdV 12 addr0).val, left := 0 } with dmas := [⟨1, 3, 4, 0, none, 0⟩] }, 1, 3, Found.none,
    ⟨1, 3, 4, 0, none, 0⟩, { op0 with unit := .dma, word := insA 0x22 0, td := (tdV 12 addr0).val, left := 0 }, taskN
    { task0 with last := 1, opened := [1] }, by decide +kernel⟩

/-- Operations of the array, the DMA engines and VERIFY end, and the controls of the array: the end of a VERIFY of a maintenance instruction: its ticket is done. -/
theorem test_met_OperationsEnd_6 :
    ∃ (s : State) (d : Nat) (e : Nat) (counts : List Nat) (q : PReq) (o : Op), s.runningReq d e (fun r => r.what == .verify && !r.clearFirst) = some q
      ∧ q.kind ≠ 4 ∧ q.op.bind (fun k => s.ops.find? (fun o => o.issue == k)) = some o ∧ (s.job o.job).any (·.active) = true :=
  ⟨{ wp { preq0 with what := .verify, op := some 4 } (engState .verify) with ops := [op0], jobs := [taskN { task0 with last := 1, opened := [1] }] },
    1, 2, [], { preq0 with what := .verify, op := some 4 }, op0, by decide +kernel⟩

/-- Operations of the array, the DMA engines and VERIFY end, and the controls of the array: the end of a test of a SPARE tile that finds a cell off its level: the tile is RETIRED. -/
theorem test_met_OperationsEnd_7 :
    ∃ (s : State) (d : Nat) (e : Nat) (counts : List Nat) (q : PReq), s.runningReq d e (fun r => r.what == .verify && !r.clearFirst) = some q ∧ q.kind
      = 4 ∧ counts.any (fun n => n != 0) = true ∧ s.tst d q.tile = tsSpare :=
  ⟨(wp { preq0 with kind := 4, what := .verify } 7).wr .TIL_STATUS_STATE tsSpare 1 6, 1, 2, [0, 1], { preq0 with kind := 4, what := .verify },
    by decide +kernel⟩

/-- Operations of the array, the DMA engines and VERIFY end, and the controls of the array: time that the array passes with work queued and none running is counted. -/
theorem test_met_OperationsEnd_8 :
    ∃ (s : State) (d : Nat) (a : Nat) (b : Nat) (v : List Nat) (w : BlockInfo), s.online d = true ∧ s.paused 0 d = false ∧ (s.arrayOps d).any (fun o
      => o.running && o.unit == .array && s.opRetrains o) = false ∧ (s.arrayOps d).any (·.running) = false ∧ (s.arrayOps d).isEmpty = false :=
  ⟨wo { op0 with running := false }, 1, 7, 0, [], ⟨[], Found.none⟩, by decide +kernel⟩

/-- Operations of the array, the DMA engines and VERIFY end, and the controls of the array: DGA_CTRL.HOLD as it stands: no effect. -/
theorem test_met_OperationsEnd_9 :
    ∃ (s : State) (d : Nat) (o : Order), s.dieWindow d = true ∧ Alone o ∧ o.w.v % 2 = s.rd .DGA_CTRL_HOLD d :=
  ⟨w0, 1, ⟨⟨.pf, 2⟩, []⟩, by decide +kernel⟩

/-- Operations of the array, the DMA engines and VERIFY end, and the controls of the array: a change of DGA_CTRL.HOLD is taken, and is an expert write. -/
theorem test_met_OperationsEnd_10 :
    ∃ (s : State) (d : Nat) (o : Order), s.dieWindow d = true ∧ d < s.part.dies ∧ Alone o ∧ o.w.v % 2 ≠ s.rd .DGA_CTRL_HOLD d :=
  ⟨w0, 1, ⟨⟨.pf, 1⟩, []⟩, by decide +kernel⟩

/-- Operations of the array, the DMA engines and VERIFY end, and the controls of the array: DGA_CTRL.CLEAR zeroes the counters. -/
theorem test_met_OperationsEnd_11 :
    ∃ (s : State) (d : Nat) (o : Order), s.dieWindow d = true ∧ d < s.part.dies ∧ Alone o ∧ o.w.v % 2 = 1 :=
  ⟨w0.wr .DGA_MACS_COUNT 7 1, 1, ⟨⟨.pf, 1⟩, []⟩, by decide +kernel⟩

/-- Operations of the array, the DMA engines and VERIFY end, and the controls of the array: DGA_CTRL.HANDBACK: no hold, and the firmware. -/
theorem test_met_OperationsEnd_12 :
    ∃ (s : State) (d : Nat) (o : Order), s.dieWindow d = true ∧ d < s.part.dies ∧ Alone o ∧ o.w.v % 2 = 1 :=
  ⟨w0.wr .DGA_CTRL_HOLD 1 1, 1, ⟨⟨.pf, 1⟩, []⟩, by decide +kernel⟩

/-- The firing strobe, with its content, and the end of its conversions: a strobe while a clock domain of the Yoke stands: no effect (which units stand with which domain is the model's choice, log entry 131). -/
theorem test_met_Strobes_1 :
    ∃ (s : State), (s.paused 3 s.head = true ∨ s.paused 2 s.head = true) :=
  ⟨w0.setAx .startMask 64, by decide +kernel⟩

/-- The firing strobe, with its content, and the end of its conversions: a strobe while the Yoke is stopped fires nothing. -/
theorem test_met_Strobes_2 :
    ∃ (s : State), s.paused 3 s.head = false ∧ s.paused 2 s.head = false ∧ s.stopped = true :=
  ⟨(w0.wr .YOK_CTRL_HOLD_ALL 1).wr .YOK_STATUS_FIRING 1, by decide +kernel⟩

/-- The firing strobe, with its content, and the end of its conversions: a strobe with nothing to fire. -/
theorem test_met_Strobes_3 :
    ∃ (s : State), s.paused 3 s.head = false ∧ s.paused 2 s.head = false ∧ s.stopped = false ∧ s.reqs = [] ∧ s.checks = [] ∧ s.cals = [] :=
  ⟨w0.wr .YOK_STATUS_FIRING 1, by decide +kernel⟩

/-- The firing strobe, with its content, and the end of its conversions: a strobe with one check stitch alone fires it. -/
theorem test_met_Strobes_4 :
    ∃ (s : State) (k : Check), s.paused 3 s.head = false ∧ s.paused 2 s.head = false ∧ s.stopped = false ∧ s.reqs = [] ∧ s.checks = [k] ∧ s.cals = []
      ∧ k.fired = false ∧ s.tileFires k.die k.tile = true ∧ (s.tile k.die k.tile).flights.length < 2 :=
  ⟨{ wy with reqs := [], checks := [⟨1, 6, 64, false, 0⟩] }, ⟨1, 6, 64, false, 0⟩, by decide +kernel⟩

/-- The firing strobe, with its content, and the end of its conversions: a strobe with one queued request alone, whose codes are loaded, fires it. -/
theorem test_met_Strobes_5 :
    ∃ (s : State) (r : Req) (a : Nat) (b : Nat), s.paused 3 s.head = false ∧ s.paused 2 s.head = false ∧ s.stopped = false ∧ s.reqs = [r] ∧ s.checks =
      [] ∧ s.cals = [] ∧ r.st = .queued ∧ s.mayFire r = true ∧ s.codesStand r r.next = true ∧ (∀ p ∈ s.layerTiles r.slot r.layer, (s.tile p.die
      p.tile).flights.length < 2) ∧ s.scalesOf r = .ok a b :=
  ⟨wy, reqF, f1, f1, by decide +kernel⟩

/-- The firing strobe, with its content, and the end of its conversions: the feeder of a tile has loaded the codes of the first request that may fire on it, of bytes that can be read. -/
theorem test_met_Strobes_6 :
    ∃ (s : State) (d : Nat) (t : Nat) (m : Found) (r : Req) (j : Job) (p : Placed), s.paused 2 d = false ∧ (s.duePasses ++ s.queuedReqsInOrder.filter
      s.mayFire).find? (fun r => (s.reqTiles r).any (fun p => p.die == d && p.tile == t)) = some r ∧ s.job r.job = some j ∧ (s.reqTiles r).find? (fun p
      => p.die == d && p.tile == t) = some p ∧ s.retrains (r.feeds p).1 (r.feeds p).2 = false ∧ (s.jobRead j m (r.feeds p).1 (r.feeds p).2).1 = none :=
  ⟨wy.updTile 1 6 (fun x => { x with shadow := none }), 1, 6, Found.none, reqF, { taskN task0 with slots := 1, grants := 1 }, ⟨0, 0, 0, 0, 0, 1, 6, 3,
    3⟩, by decide +kernel⟩

/-- The firing strobe, with its content, and the end of its conversions: the conversions of a forward, check or other calibration stitch end: it leaves the tile, and its saturated codes are counted. -/
theorem test_met_Strobes_7 :
    ∃ (s : State) (d : Nat) (t : Nat) (out : ConvOut) (f : Flight) (k : List Flight), s.paused 3 d = false ∧ (s.tile d t).flights = f :: k ∧ revPeriod
      f.what f.sub = false ∧ f.drop = false :=
  ⟨wy.updTile 1 6 (fun x => { x with flights := [fl0] }), 1, 6, ⟨List.replicate 1152 (some 4095), false, []⟩, fl0, [], by decide +kernel⟩

/-- The firing strobe, with its content, and the end of its conversions: the conversions of a reverse stitch, or of a reverse period of a full calibration, end: it leaves the tile, and its saturated codes are counted. -/
theorem test_met_Strobes_8 :
    ∃ (s : State) (d : Nat) (t : Nat) (out : ConvOut) (f : Flight) (k : List Flight), s.paused 3 d = false ∧ (s.tile d t).flights = f :: k ∧ revPeriod
      f.what f.sub = true ∧ f.drop = false :=
  ⟨wy.updTile 1 6 (fun x => { x with flights := [{ fl0 with what := .reverse }] }), 1, 6, ⟨List.replicate 1024 (some 4095), false, []⟩,
    { fl0 with what := .reverse }, [], by decide +kernel⟩

/-- Followers of the firing sequence, and the seams: a period marker of a follower: the markers missed before it are counted as lost. -/
theorem test_met_FollowersAndSeams_1 :
    ∃ (s : State) (d : Nat), s.isFollower d = true :=
  ⟨w0.setAx .missed 3 1, 1, by decide +kernel⟩

/-- Followers of the firing sequence, and the seams: a skew within its limit is shown. -/
theorem test_met_FollowersAndSeams_2 :
    ∃ (s : State) (d : Nat) (k : Int), s.isFollower d = true ∧ -5000 ≤ k ∧ k ≤ 5000 :=
  ⟨w0, 1, -5000, by decide +kernel⟩

/-- Followers of the firing sequence, and the seams: a skew beyond its limit is shown, and counts as a marker missed. -/
theorem test_met_FollowersAndSeams_3 :
    ∃ (s : State) (d : Nat) (k : Int), s.isFollower d = true ∧ (k < -5000 ∨ 5000 < k) :=
  ⟨w0, 1, -5001, by decide +kernel⟩

/-- Followers of the firing sequence, and the seams: four markers missed: the follower is off, and they are counted as lost. -/
theorem test_met_FollowersAndSeams_4 :
    ∃ (s : State) (d : Nat), s.isFollower d = true ∧ 4 ≤ s.ax .missed d ∧ bit (s.rd .YOK_STATUS_FOLLOWER_OFF) d = false :=
  ⟨w0.setAx .missed 4 1, 1, by decide +kernel⟩

/-- Followers of the firing sequence, and the seams: a follower that was off has realigned. -/
theorem test_met_FollowersAndSeams_5 :
    ∃ (s : State) (d : Nat), s.ax .realign d = 1 ∧ bit (s.rd .YOK_STATUS_FOLLOWER_OFF) d = true :=
  ⟨(w0.setAx .realign 1 1).wr .YOK_STATUS_FOLLOWER_OFF 2, 1, by decide +kernel⟩

/-- Followers of the firing sequence, and the seams: a seam whose interval is over falls due. -/
theorem test_met_FollowersAndSeams_6 :
    ∃ (s : State) (k : Nat), k < 64 ∧ s.ax .periods - s.ax .seamAt 0 k ≥ s.rd .YOK_SEAM_INTERVAL :=
  ⟨w0.setAx .periods 100000, 63, by decide +kernel⟩

/-- Followers of the firing sequence, and the seams: a seam that is due and held off by nothing passes. -/
theorem test_met_FollowersAndSeams_7 :
    ∃ (s : State) (k : Nat), k < 64 ∧ s.stopped = false ∧ s.seamHeld k = false ∧ s.ax .seamDue 0 k = 1 :=
  ⟨(w0.setAx .periods 9).setAx .seamDue 1 0 63, 63, by decide +kernel⟩

/-- Followers of the firing sequence, and the seams: a map switch that is ready and held off by nothing takes effect. -/
theorem test_met_FollowersAndSeams_8 :
    ∃ (s : State) (k : Nat), k < 64 ∧ s.stopped = false ∧ s.seamHeld k = false ∧ s.switchReady k = true :=
  ⟨{ (w0.setAx .switchTarget 2 0 0).wr .TIL_STATUS_STATE tsStaged 1 6 with placed := [place0], maps := [map0] }, 0, by decide +kernel⟩

/-- Followers of the firing sequence, and the seams: at the drain limit a map switch that is possible takes effect, with no request of the slot partway (the model's choice, log entry 125). -/
theorem test_met_FollowersAndSeams_9 :
    ∃ (s : State) (k : Nat), k < 64 ∧ s.stopped = false ∧ s.reqs.any (fun r => r.slot == k && r.partway) = false ∧ s.switchPossible k = true ∧
      s.ax .switchAt 0 k ≠ 0 ∧ s.now ≥ s.ax .switchAt 0 k - 1 + s.rd .YOK_SEAM_SWITCH_MAX * 1000000 :=
  ⟨{ ((w0.setAx .switchTarget 2 0 0).setAx .switchAt 1 0 0).wr .TIL_STATUS_STATE tsStaged 1 6 with placed := [place0], maps := [map0], dt := 8000000000000 },
    0, by decide +kernel⟩

/-- The registers of the Yoke, its role, and the accounting window: a change of HOLD_ALL is taken, and is an expert write. -/
theorem test_met_YokeControls_1 :
    ∃ (s : State) (o : Order), Alone o ∧ o.w.v % 2 ≠ s.rd .YOK_CTRL_HOLD_ALL :=
  ⟨w0, ⟨⟨.pf, 1⟩, []⟩, by decide +kernel⟩

/-- The registers of the Yoke, its role, and the accounting window: a change of SPLIT_EN is taken, and is an expert write. -/
theorem test_met_YokeControls_2 :
    ∃ (s : State) (o : Order), Alone o ∧ o.w.v % 2 ≠ s.rd .YOK_CTRL_SPLIT_EN :=
  ⟨w0, ⟨⟨.pf, 2⟩, []⟩, by decide +kernel⟩

/-- The registers of the Yoke, its role, and the accounting window: YOK_CTRL.CLEAR zeroes the counters. -/
theorem test_met_YokeControls_3 :
    ∃ (s : State) (o : Order), Alone o ∧ o.w.v % 2 = 1 :=
  ⟨(w0.wr .YOK_MISS_COUNT 5 0 3).wr .YOK_SPLITS_COUNT 6, ⟨⟨.pf, 1⟩, []⟩, by decide +kernel⟩

/-- The registers of the Yoke, its role, and the accounting window: YOK_CTRL.HANDBACK: the reset settings, and the firmware. -/
theorem test_met_YokeControls_4 :
    ∃ (s : State) (o : Order), Alone o ∧ o.w.v % 2 = 1 :=
  ⟨(w0.wr .YOK_CTRL_HOLD_ALL 1).wr .YOK_SETTLE_MAX 6, ⟨⟨.pf, 1⟩, []⟩, by decide +kernel⟩

/-- The registers of the Yoke, its role, and the accounting window: YOK_PERIOD within its range is taken. -/
theorem test_met_YokeControls_5 :
    ∃ (s : State) (o : Order), Alone o ∧ 400 ≤ o.w.v % 4096 ∧ o.w.v % 4096 ≤ 3200 :=
  ⟨w0, ⟨⟨.pf, 3200⟩, []⟩, by decide +kernel⟩

/-- The registers of the Yoke, its role, and the accounting window: YOK_PERIOD outside its range is refused. -/
theorem test_met_YokeControls_6 :
    ∃ (s : State) (o : Order), Alone o ∧ (o.w.v % 4096 < 400 ∨ 3200 < o.w.v % 4096) :=
  ⟨w0, ⟨⟨.pf, 399⟩, []⟩, by decide +kernel⟩

/-- The registers of the Yoke, its role, and the accounting window: a change of YOK_THROTTLE is taken, and is an expert write. -/
theorem test_met_YokeControls_7 :
    ∃ (s : State) (o : Order), Alone o ∧ o.w.v % 65536 ≠ s.rd .YOK_THROTTLE_TICKS :=
  ⟨w0, ⟨⟨.pf, 65535⟩, []⟩, by decide +kernel⟩

/-- The registers of the Yoke, its role, and the accounting window: the move of the role ends: firing goes on. -/
theorem test_met_YokeControls_8 :
    ∃ (s : State), s.rdb .YOK_STATUS_MOVING = true :=
  ⟨w0.wr .YOK_STATUS_MOVING 1, by decide +kernel⟩

/-- Owners of banks, hand-over, zeroing, diagnostic read and scrub: BNK_OWNER with a legal kind: the owner asked for is taken. -/
theorem test_met_Banks_1 :
    ∃ (s : State) (d : Nat) (b : Nat) (o : Order), s.isBank d b = true ∧ Alone o ∧ o.w.v / 256 % 8 < 6 :=
  ⟨w0, 1, 79, ⟨⟨.pf, 5 * 256 + 255⟩, []⟩, by decide +kernel⟩

/-- Owners of banks, hand-over, zeroing, diagnostic read and scrub: BNK_OWNER with another kind is refused. -/
theorem test_met_Banks_2 :
    ∃ (s : State) (d : Nat) (b : Nat) (o : Order), s.isBank d b = true ∧ Alone o ∧ 6 ≤ o.w.v / 256 % 8 :=
  ⟨w0, 1, 79, ⟨⟨.pf, 6 * 256⟩, []⟩, by decide +kernel⟩

/-- Owners of banks, hand-over, zeroing, diagnostic read and scrub: the hand-over of a bank that needs no zeroing. -/
theorem test_met_Banks_3 :
    ∃ (s : State) (d : Nat) (b : Nat), s.isBank d b = true ∧ s.rdb .BNK_OWNER_PEND d b = true ∧ s.rdb .BNK_OWNER_ZEROING d b = false ∧ s.zeroes d b
      ((s.ax .bankTarget d b - 1) / 256) ((s.ax .bankTarget d b - 1) % 256) = false :=
  ⟨(w0.wr .BNK_OWNER_PEND 1 1 79).setAx .bankTarget (1 + 256 + 133) 1 79, 1, 79, by decide +kernel⟩

/-- Owners of banks, hand-over, zeroing, diagnostic read and scrub: the hand-over of a bank that needs zeroing begins the zeroing. -/
theorem test_met_Banks_4 :
    ∃ (s : State) (d : Nat) (b : Nat), s.isBank d b = true ∧ s.rdb .BNK_OWNER_PEND d b = true ∧ s.rdb .BNK_OWNER_ZEROING d b = false ∧ s.zeroes d b
      ((s.ax .bankTarget d b - 1) / 256) ((s.ax .bankTarget d b - 1) % 256) = true :=
  ⟨((w0.wr .BNK_OWNER_PEND 1 1 79).wr .BNK_OWNER_CUR_KIND 1 1 79).setAx .bankTarget (1 + 256 + 133) 1 79, 1, 79, by decide +kernel⟩

/-- Owners of banks, hand-over, zeroing, diagnostic read and scrub: the end of zeroing: every byte of the bank is 0. -/
theorem test_met_Banks_5 :
    ∃ (s : State) (d : Nat) (b : Nat), s.paused 0 d = false ∧ s.rdb .BNK_OWNER_ZEROING d b = true ∧ s.ax .bankZeroEnd d b ≤ s.dt + 1 :=
  ⟨(w0.wr .BNK_OWNER_ZEROING 1 1 79).store (bankAddr 1 (79 * 0x80000)) 1 7, 1, 79, by decide +kernel⟩

/-- Owners of banks, hand-over, zeroing, diagnostic read and scrub: BNK_CTRL.CLEAR zeroes the counters. -/
theorem test_met_Banks_6 :
    ∃ (s : State) (d : Nat) (o : Order), s.dieWindow d = true ∧ Alone o ∧ o.w.v % 2 = 1 :=
  ⟨w0.wr .BNK_DENIED_COUNT 5 1, 1, ⟨⟨.pf, 1⟩, []⟩, by decide +kernel⟩

/-- Owners of banks, hand-over, zeroing, diagnostic read and scrub: BNK_CTRL.HANDBACK returns the banks to the firmware. -/
theorem test_met_Banks_7 :
    ∃ (s : State) (d : Nat) (o : Order), s.dieWindow d = true ∧ Alone o ∧ o.w.v % 2 = 1 :=
  ⟨w0.wr .BNK_STAT_EXPERT 1 1, 1, ⟨⟨.pf, 1⟩, []⟩, by decide +kernel⟩

/-- Owners of banks, hand-over, zeroing, diagnostic read and scrub: BNK_DIAG.GO, without a collision and of a granule that is sound, reads its data and its check byte. -/
theorem test_met_Banks_8 :
    ∃ (s : State) (d : Nat) (o : Order), s.dieWindow d = true ∧ Alone o ∧ o.w.v % 2 = 1 ∧ s.poison.get false (bankAddr d (s.rd .BNK_DIAG_OFFSET d / 8
      * 8)) = false ∧ s.rd .BNK_DIAG_OFFSET d / 8 * 8 < bankBytes :=
  ⟨(w0.wr .BNK_DIAG_OFFSET 15 1).store (bankAddr 1 8) 8 0x8000000000000001, 1, ⟨⟨.pf, 1⟩, []⟩, by decide +kernel⟩

/-- Owners of banks, hand-over, zeroing, diagnostic read and scrub: a scrub that finds one granule with a double-bit error, not poisoned yet. -/
theorem test_met_Banks_9 :
    ∃ (s : State) (d : Nat) (n : Nat) (q : Nat), s.online d = true ∧ s.rd .BNK_SCRUB_HOURS d ≠ 0 ∧ q < bankBytes ∧ s.poison.get false (bankAddr d (q /
      8 * 8)) = false :=
  ⟨w0.wr .BNK_SCRUB_HOURS 1 1, 1, 3, bankBytes - 1, by decide +kernel⟩

/-- LPDDR5X: scrub, retraining and the MEM registers: a patrol scrub of a block that is sound. -/
theorem test_met_MemoryChannels_1 :
    ∃ (s : State) (d : Nat) (q : Nat) (b : List Flip), s.online d = true ∧ s.rd .MEM_SCRUB_HOURS d ≠ 0 ∧ s.rd .MEM_STAT_IECC_ON d = 1 ∧ q <
      s.installed d ∧ s.poison.get false (lpddrAddr d (q / 64 * 64)) = false ∧ rsRead (chanAddr (q / 64 * 64)) (s.rawBlock d (q / 64 * 64) b) = .clean :=
  ⟨(w0.wr .MEM_SCRUB_HOURS 1 1).wr .MEM_STAT_IECC_ON 1 1, 1, 2048, [], by decide +kernel⟩

/-- LPDDR5X: scrub, retraining and the MEM registers: a patrol scrub of a block with errors that are corrected stores the data and counts. -/
theorem test_met_MemoryChannels_2 :
    ∃ (s : State) (d : Nat) (q : Nat) (b : List Flip) (l : List Byte), s.online d = true ∧ s.rd .MEM_SCRUB_HOURS d ≠ 0 ∧ s.rd .MEM_STAT_IECC_ON d = 1
      ∧ q < s.installed d ∧ s.poison.get false (lpddrAddr d (q / 64 * 64)) = false ∧ rsRead (chanAddr (q / 64 * 64)) (s.rawBlock d (q / 64 * 64) b)
      = .corrected l :=
  ⟨(w0.wr .MEM_SCRUB_HOURS 1 1).wr .MEM_STAT_IECC_ON 1 1, 1, 2048, [⟨1, 0, 512, 9⟩], List.replicate 64 0, by decide +kernel⟩

/-- LPDDR5X: scrub, retraining and the MEM registers: a patrol scrub of a block with errors that are not poisons it and counts. -/
theorem test_met_MemoryChannels_3 :
    ∃ (s : State) (d : Nat) (q : Nat) (b : List Flip), s.online d = true ∧ s.rd .MEM_SCRUB_HOURS d ≠ 0 ∧ s.rd .MEM_STAT_IECC_ON d = 1 ∧ q <
      s.installed d ∧ s.poison.get false (lpddrAddr d (q / 64 * 64)) = false ∧ rsRead (chanAddr (q / 64 * 64)) (s.rawBlock d (q / 64 * 64) b)
      = .uncorrectable :=
  ⟨(w0.wr .MEM_SCRUB_HOURS 1 1).wr .MEM_STAT_IECC_ON 1 1, 1, 2048, [⟨1, 0, 512, 9⟩, ⟨1, 0, 513, 9⟩, ⟨1, 0, 514, 9⟩, ⟨1, 0, 515, 9⟩],
    by decide +kernel⟩

/-- LPDDR5X: scrub, retraining and the MEM registers: drift beyond the limit: the channel retrains. -/
theorem test_met_MemoryChannels_4 :
    ∃ (s : State) (d : Nat) (h : Nat), s.online d = true ∧ h < 4 ∧ s.rd .MEM_CH_STATE d h = 1 :=
  ⟨w0.wr .MEM_CH_STATE 1 1 3, 1, 3, by decide +kernel⟩

/-- LPDDR5X: scrub, retraining and the MEM registers: a retraining succeeds: the channel is up. -/
theorem test_met_MemoryChannels_5 :
    ∃ (s : State) (d : Nat) (h : Nat) (q : Nat), h < 4 ∧ s.paused 4 d = false ∧ s.rd .MEM_CH_STATE d h = 2 :=
  ⟨w0.wr .MEM_CH_STATE 2 1 3, 1, 3, 5, by decide +kernel⟩

/-- LPDDR5X: scrub, retraining and the MEM registers: a third failed training in a row: the channel has failed, and the die goes offline. -/
theorem test_met_MemoryChannels_6 :
    ∃ (s : State) (d : Nat) (h : Nat) (q : Nat), h < 4 ∧ s.paused 4 d = false ∧ s.rd .MEM_CH_STATE d h = 2 ∧ s.rd .MEM_CH_FAILS d h = 2 ∧ s.online d =
      true :=
  ⟨(w0.wr .MEM_CH_STATE 2 1 3).wr .MEM_CH_FAILS 2 1 3, 1, 3, 5, by decide +kernel⟩

/-- LPDDR5X: scrub, retraining and the MEM registers: MEM_CTRL.RETRAIN while none is under way: every channel that is up retrains, and RETRAIN reads 1 meanwhile; an expert write. -/
theorem test_met_MemoryChannels_7 :
    ∃ (s : State) (d : Nat) (o : Order), s.dieWindow d = true ∧ Alone o ∧ o.w.v % 2 = 1 ∧ s.rd .MEM_CTRL_RETRAIN d = 0 :=
  ⟨w0.wr .MEM_CH_STATE 1 1 3, 1, ⟨⟨.pf, 1⟩, []⟩, by decide +kernel⟩

/-- LPDDR5X: scrub, retraining and the MEM registers: MEM_CTRL.RETRAIN while one is under way: no effect. -/
theorem test_met_MemoryChannels_8 :
    ∃ (s : State) (d : Nat) (o : Order), s.dieWindow d = true ∧ Alone o ∧ s.rd .MEM_CTRL_RETRAIN d = 1 :=
  ⟨w0.wr .MEM_CTRL_RETRAIN 1 1, 1, ⟨⟨.pf, 1⟩, []⟩, by decide +kernel⟩

/-- LPDDR5X: scrub, retraining and the MEM registers: the last channel that retrains is over: RETRAIN reads 0. -/
theorem test_met_MemoryChannels_9 :
    ∃ (s : State) (d : Nat) (h : Nat) (q : Nat) (b : Bool), h < 4 ∧ s.paused 4 d = false ∧ s.rd .MEM_CH_STATE d h = 2 ∧ (List.range 4).all (fun k =>
      s.rd .MEM_CH_STATE d k != 2 || k == h) = true ∧ (b = true ∨ s.rd .MEM_CH_FAILS d h = 2) :=
  ⟨(w0.wr .MEM_CH_STATE 2 1 3).wr .MEM_CTRL_RETRAIN 1 1, 1, 3, 0, true, by decide +kernel⟩

/-- LPDDR5X: scrub, retraining and the MEM registers: MEM_CTRL.CLEAR zeroes the counters. -/
theorem test_met_MemoryChannels_10 :
    ∃ (s : State) (d : Nat) (o : Order), s.dieWindow d = true ∧ Alone o ∧ o.w.v % 2 = 1 :=
  ⟨w0.wr .MEM_LECC_COUNT 5 1, 1, ⟨⟨.pf, 1⟩, []⟩, by decide +kernel⟩

/-- LPDDR5X: scrub, retraining and the MEM registers: MEM_CTRL.HANDBACK returns the memory to the firmware. -/
theorem test_met_MemoryChannels_11 :
    ∃ (s : State) (d : Nat) (o : Order), s.dieWindow d = true ∧ Alone o ∧ o.w.v % 2 = 1 :=
  ⟨w0.wr .MEM_STAT_EXPERT 1 1, 1, ⟨⟨.pf, 1⟩, []⟩, by decide +kernel⟩

/-- LPDDR5X: scrub, retraining and the MEM registers: MEM_CFG with a legal rate is taken, and kept for the next start. -/
theorem test_met_MemoryChannels_12 :
    ∃ (s : State) (d : Nat) (o : Order), s.dieWindow d = true ∧ Alone o ∧ o.w.v % 4 ≠ 3 :=
  ⟨w0, 1, ⟨⟨.pf, 14⟩, []⟩, by decide +kernel⟩

/-- LPDDR5X: scrub, retraining and the MEM registers: MEM_CFG with another rate is refused. -/
theorem test_met_MemoryChannels_13 :
    ∃ (s : State) (d : Nat) (o : Order), s.dieWindow d = true ∧ Alone o ∧ o.w.v % 4 = 3 :=
  ⟨w0, 1, ⟨⟨.pf, 3⟩, []⟩, by decide +kernel⟩

/-- The Pocket: PKT_DATA, passwords, and the commands of the host: a read of PKT_DATA from a user page that is open returns its word. -/
theorem test_met_PocketAccess_1 :
    ∃ (s : State), (s.rd .PKT_ADDR_DIE) < s.part.dies ∧ 32 ≤ (s.rd .PKT_ADDR_PAGE) ∧ (s.rd .PKT_ADDR_PAGE) < 128 ∧ s.pktRdOpen (s.rd .PKT_ADDR_PAGE) =
      true :=
  ⟨((w0.wr .PKT_ADDR_PAGE 127).wr .PKT_ADDR_WORD 1023).pktWrite 0 127 4092 [1, 2, 3, 4], by decide +kernel⟩

/-- The Pocket: PKT_DATA, passwords, and the commands of the host: a write of PKT_DATA to a page that is open stores the word, and the address goes on. -/
theorem test_met_PocketAccess_2 :
    ∃ (s : State) (o : Order), Alone o ∧ (s.rd .PKT_ADDR_DIE) < s.part.dies ∧ (s.rd .PKT_ADDR_PAGE) < 128 ∧ (s.rd .PKT_ADDR_WORD) < 1024 ∧
      s.rd .PKT_ADDR_AUTOINC ≤ 1 ∧ s.pktWrOpen (s.rd .PKT_ADDR_DIE) (s.rd .PKT_ADDR_PAGE) = true :=
  ⟨((w0.wr .PKT_ADDR_PAGE 127).wr .PKT_ADDR_WORD 1023).wr .PKT_ADDR_AUTOINC 1, ⟨⟨.pf, 0xDEADBEEF⟩, []⟩, by decide +kernel⟩

/-- The Pocket: PKT_DATA, passwords, and the commands of the host: a write of PKT_DATA to a page that is not open is refused, and counted. -/
theorem test_met_PocketAccess_3 :
    ∃ (s : State) (o : Order), Alone o ∧ (s.rd .PKT_ADDR_DIE) < s.part.dies ∧ (s.rd .PKT_ADDR_PAGE) < 128 ∧ (s.rd .PKT_ADDR_WORD) < 1024 ∧ s.pktWrOpen
      (s.rd .PKT_ADDR_DIE) (s.rd .PKT_ADDR_PAGE) = false :=
  ⟨w0.wr .PKT_ADDR_PAGE 31, ⟨⟨.pf, 1⟩, []⟩, by decide +kernel⟩

/-- The Pocket: PKT_DATA, passwords, and the commands of the host: the right password opens the area, in mode PASSWORD with fewer than eight wrong ones. -/
theorem test_met_PocketAccess_4 :
    ∃ (s : State) (o : Order), Alone o ∧ s.rd .PKT_STAT_MODE = 1 ∧ s.ax .pktWrong (s.rd .PKT_UNLOCKSEL_AREA) (s.rd .PKT_UNLOCKSEL_KIND) < 8 ∧ o.w.v =
      s.ax .pktPass (s.rd .PKT_UNLOCKSEL_AREA) (s.rd .PKT_UNLOCKSEL_KIND) :=
  ⟨((w0.wr .PKT_STAT_MODE 1).wr .PKT_UNLOCKSEL_AREA 11).setAx .pktPass 5 11 0, ⟨⟨.pf, 5⟩, []⟩, by decide +kernel⟩

/-- The Pocket: PKT_DATA, passwords, and the commands of the host: a wrong password opens nothing, and is counted. -/
theorem test_met_PocketAccess_5 :
    ∃ (s : State) (o : Order), Alone o ∧ s.rd .PKT_STAT_MODE = 1 ∧ s.ax .pktWrong (s.rd .PKT_UNLOCKSEL_AREA) (s.rd .PKT_UNLOCKSEL_KIND) < 8 ∧ o.w.v ≠
      s.ax .pktPass (s.rd .PKT_UNLOCKSEL_AREA) (s.rd .PKT_UNLOCKSEL_KIND) :=
  ⟨((w0.wr .PKT_STAT_MODE 1).wr .PKT_UNLOCKSEL_AREA 11).setAx .pktPass 5 11 0, ⟨⟨.pf, 6⟩, []⟩, by decide +kernel⟩

/-- The Pocket: PKT_DATA, passwords, and the commands of the host: PKT_UNLOCKSEL.RELOCK closes every area that has a password. -/
theorem test_met_PocketAccess_6 :
    ∃ (s : State) (o : Order), Alone o ∧ o.w.v % 2 = 1 :=
  ⟨(w0.setAx .pktPass 5 11 1).setAx .pktOpen 1 11 1, ⟨⟨.pf, 1⟩, []⟩, by decide +kernel⟩

/-- The Pocket: PKT_DATA, passwords, and the commands of the host: CHN_CFG.PEC is taken. -/
theorem test_met_PocketAccess_7 :
    ∃ (s : State) (o : Order), Alone o :=
  ⟨w0, ⟨⟨.pf, 3⟩, []⟩, by decide +kernel⟩

/-- The Pocket: PKT_DATA, passwords, and the commands of the host: POCKET_READ of pages that are open completes. -/
theorem test_met_PocketAccess_8 :
    ∃ (s : State) (id : Nat) (c : Cmd), s.readyCmd id 0x50 = some c ∧ s.pktSpan (s.started c) = true ∧ (s.started c).pages.all (fun e => s.pktRdOpen
      e.1) = true :=
  ⟨wc 0x50 (5 * 256 ^ 16 * 0 + 256 ^ 16 + 126 * 256 ^ 17 + 2 * 256 ^ 18 + 255 * 256 ^ 19), 7, cmd0 0x50 (5 * 256 ^ 16 * 0 + 256 ^ 16 + 126 * 256 ^ 17
    + 2 * 256 ^ 18 + 255 * 256 ^ 19), by decide +kernel⟩

/-- The Pocket: PKT_DATA, passwords, and the commands of the host: POCKET_WRITE of pages that are open writes them. -/
theorem test_met_PocketAccess_9 :
    ∃ (s : State) (id : Nat) (l : List Byte) (c : Cmd), s.readyCmd id 0x51 = some c ∧ s.pktSpan (s.started c) = true ∧ (s.started c).pages.all (fun e
      => s.pktWrOpen ((s.started c).b 16 1) e.1) = true :=
  ⟨wc 0x51 (5 * 256 ^ 16 * 0 + 256 ^ 16 + 126 * 256 ^ 17 + 2 * 256 ^ 18 + 255 * 256 ^ 19), 7, List.replicate 4097 7, cmd0 0x51 (5 * 256 ^ 16 * 0 + 256
    ^ 16 + 126 * 256 ^ 17 + 2 * 256 ^ 18 + 255 * 256 ^ 19), by decide +kernel⟩

/-- The Pocket: PKT_DATA, passwords, and the commands of the host: POCKET_ERASE of pages that are open fills them. -/
theorem test_met_PocketAccess_10 :
    ∃ (s : State) (id : Nat) (c : Cmd), s.readyCmd id 0x52 = some c ∧ s.pktSpan (s.started c) = true ∧ (s.started c).pages.all (fun e => s.pktWrOpen
      ((s.started c).b 16 1) e.1) = true :=
  ⟨wc 0x52 (5 * 256 ^ 16 * 0 + 256 ^ 16 + 126 * 256 ^ 17 + 2 * 256 ^ 18 + 255 * 256 ^ 19), 7, cmd0 0x52 (5 * 256 ^ 16 * 0 + 256 ^ 16 + 126 * 256 ^ 17
    + 2 * 256 ^ 18 + 255 * 256 ^ 19), by decide +kernel⟩

/-- The Pocket: PKT_DATA, passwords, and the commands of the host: POCKET_ERASE whose first page is not open is refused, and changes nothing. -/
theorem test_met_PocketAccess_11 :
    ∃ (s : State) (id : Nat) (c : Cmd), s.readyCmd id 0x52 = some c ∧ s.pktSpan (s.started c) = true ∧ s.pktWrOpen ((s.started c).b 16 1) ((s.started
      c).b 17 1) = false :=
  ⟨wc 0x52 (31 * 256 ^ 17 + 2 * 256 ^ 18), 7, cmd0 0x52 (31 * 256 ^ 17 + 2 * 256 ^ 18), by decide +kernel⟩

/-- The Pocket: PKT_DATA, passwords, and the commands of the host: POCKET_PROTECT sets the mode while it is UNSET. -/
theorem test_met_PocketAccess_12 :
    ∃ (s : State) (id : Nat) (c : Cmd), s.readyCmd id 0x53 = some c ∧ (s.started c).b 16 1 = 0 ∧ s.rd .PKT_STAT_MODE = 0 ∧ 1 ≤ (s.started c).b 17 1 ∧
      (s.started c).b 17 1 ≤ 2 :=
  ⟨wc 0x53 (2 * 256 ^ 17), 7, cmd0 0x53 (2 * 256 ^ 17), by decide +kernel⟩

/-- The Pocket: PKT_DATA, passwords, and the commands of the host: POCKET_PROTECT locks a user page in mode LOCK. -/
theorem test_met_PocketAccess_13 :
    ∃ (s : State) (id : Nat) (c : Cmd), s.readyCmd id 0x53 = some c ∧ (s.started c).b 16 1 = 2 ∧ s.rd .PKT_STAT_MODE = 2 ∧ (s.started c).b 17 1 <
      s.part.dies ∧ 32 ≤ (s.started c).b 18 1 ∧ (s.started c).b 18 1 < 128 :=
  ⟨(wc 0x53 (2 * 256 ^ 16 + 256 ^ 17 + 127 * 256 ^ 18)).wr .PKT_STAT_MODE 2, 7, cmd0 0x53 (2 * 256 ^ 16 + 256 ^ 17 + 127 * 256 ^ 18),
    by decide +kernel⟩

/-- The start-up, its failures, and minimal mode's retry: power good: step 1 is done, a cold start. -/
theorem test_met_StartUp_1 :
    ∃ (s : State), s.ax .startMask = 0 ∧ s.rd .START_REPORT_STATE = 0 ∧ s.ax .saveWait = 0 :=
  ⟨w0, by decide +kernel⟩

/-- The start-up, its failures, and minimal mode's retry: step 2 with the crystal ready. -/
theorem test_met_StartUp_2 :
    ∃ (s : State) (i : StepInfo), s.ax .retryAt = 0 ∧ s.rd .START_REPORT_STATE = 0 ∧ s.ax .perst = 0 ∧ s.stepDone 2 = false ∧ (stepNeeds 2).all
      s.stepDone = true ∧ s.rdb .CLK_STAT_XTAL_READY = true :=
  ⟨(w0.setAx .startMask 2).wr .CLK_STAT_XTAL_READY 1, ⟨true, 0, [], [0, 1], [], [], [], []⟩, by decide +kernel⟩

/-- The start-up, its failures, and minimal mode's retry: step 3, or step 10. -/
theorem test_met_StartUp_3 :
    ∃ (s : State) (k : Nat) (i : StepInfo), (k = 3 ∨ k = 10) ∧ s.ax .retryAt = 0 ∧ s.rd .START_REPORT_STATE = 0 ∧ s.ax .perst = 0 ∧ s.stepDone k =
      false ∧ (stepNeeds k).all s.stepDone = true :=
  ⟨w0.setAx .startMask 126, 10, ⟨true, 0, [], [0, 1], [], [], [], []⟩, by decide +kernel⟩

/-- The start-up, its failures, and minimal mode's retry: step 5 with a verified image: the slot that it came from is reported. -/
theorem test_met_StartUp_4 :
    ∃ (s : State) (i : StepInfo), s.ax .retryAt = 0 ∧ s.rd .START_REPORT_STATE = 0 ∧ s.ax .perst = 0 ∧ s.stepDone 5 = false ∧ (stepNeeds 5).all
      s.stepDone = true ∧ i.ok = true :=
  ⟨w0.setAx .startMask 30, ⟨true, 0, [], [0, 1], [], [], [], []⟩, by decide +kernel⟩

/-- The start-up, its failures, and minimal mode's retry: step 6 with the crystal ready: every PLL of every die is locked. -/
theorem test_met_StartUp_5 :
    ∃ (s : State) (i : StepInfo), s.ax .retryAt = 0 ∧ s.rd .START_REPORT_STATE = 0 ∧ s.ax .perst = 0 ∧ s.stepDone 6 = false ∧ (stepNeeds 6).all
      s.stepDone = true ∧ i.ok = true ∧ s.rdb .CLK_STAT_XTAL_READY = true :=
  ⟨(w0.setAx .startMask 62).wr .CLK_STAT_XTAL_READY 1, ⟨true, 0, [], [0, 1], [], [], [], []⟩, by decide +kernel⟩

/-- The start-up, its failures, and minimal mode's retry: step 7: every channel of every die is trained. -/
theorem test_met_StartUp_6 :
    ∃ (s : State) (i : StepInfo), s.ax .retryAt = 0 ∧ s.rd .START_REPORT_STATE = 0 ∧ s.ax .perst = 0 ∧ s.stepDone 7 = false ∧ (stepNeeds 7).all
      s.stepDone = true ∧ i.ok = true :=
  ⟨w0.setAx .startMask 126, ⟨true, 0, [], [0, 1], [], [], [], []⟩, by decide +kernel⟩

/-- The start-up, its failures, and minimal mode's retry: step 7 fails: the failure is reported, and the step is not done. -/
theorem test_met_StartUp_7 :
    ∃ (s : State) (i : StepInfo), s.ax .retryAt = 0 ∧ s.rd .START_REPORT_STATE = 0 ∧ s.ax .perst = 0 ∧ s.stepDone 7 = false ∧ (stepNeeds 7).all
      s.stepDone = true ∧ i.ok = false :=
  ⟨w0.setAx .startMask 126, ⟨false, 0, [], [0, 1], [], [], [], []⟩, by decide +kernel⟩

/-- The start-up, its failures, and minimal mode's retry: step 11: the fabric is ready, and no failure is reported. -/
theorem test_met_StartUp_8 :
    ∃ (s : State) (i : StepInfo), s.ax .retryAt = 0 ∧ s.rd .START_REPORT_STATE = 0 ∧ s.ax .perst = 0 ∧ s.stepDone 11 = false ∧ (stepNeeds 11).all
      s.stepDone = true :=
  ⟨w0.setAx .startMask 2046, ⟨true, 0, [], [0, 1], [], [], [], []⟩, by decide +kernel⟩

/-- The start-up, its failures, and minimal mode's retry: 20 s without fabric ready: failure 7 is reported and kept. -/
theorem test_met_StartUp_9 :
    ∃ (s : State), s.ax .startAt ≠ 0 ∧ s.rd .START_REPORT_STATE = 0 ∧ s.ax .startAt - 1 + 20000000000 ≤ s.now :=
  ⟨{ w0.setAx .startAt 1 with dt := 160000000000 }, by decide +kernel⟩

/-- The start-up, its failures, and minimal mode's retry: START_RETRY in minimal mode completes, and the start begins again. -/
theorem test_met_StartUp_10 :
    ∃ (s : State) (id : Nat) (c : Cmd), s.readyCmd id opStartRetry = some c ∧ s.rd .START_REPORT_STATE = 2 :=
  ⟨(wc opStartRetry 0).wr .START_REPORT_STATE 2, 7, cmd0 opStartRetry 0, by decide +kernel⟩

/-- The start-up, its failures, and minimal mode's retry: START_RETRY outside minimal mode: MALFORMED. -/
theorem test_met_StartUp_11 :
    ∃ (s : State) (id : Nat) (c : Cmd), s.readyCmd id opStartRetry = some c ∧ s.rd .START_REPORT_STATE ≠ 2 :=
  ⟨wc opStartRetry 0, 7, cmd0 opStartRetry 0, by decide +kernel⟩

/-- The start-up, its failures, and minimal mode's retry: the watchdog of an online die after the start: the die goes offline with cause WATCHDOG. -/
theorem test_met_StartUp_12 :
    ∃ (s : State) (d : Nat), s.rd .START_REPORT_STATE ≠ 0 ∧ s.online d = true :=
  ⟨w0.wr .START_REPORT_STATE 1, 1, by decide +kernel⟩

/-- The start-up, its failures, and minimal mode's retry: the watchdog during the start: failure 7. -/
theorem test_met_StartUp_13 :
    ∃ (s : State) (d : Nat), s.rd .START_REPORT_STATE = 0 ∧ s.stepDone 1 = true :=
  ⟨w0.setAx .startMask 2, 1, by decide +kernel⟩

/-- PERST_N, power failure, rail dips and the first enable of the ring: PERST_N is asserted: the safe state, and no jobs. -/
theorem test_met_ResetsAndPowerLoss_1 :
    ∃ (s : State), s.stepDone 1 = true ∧ s.ax .perst = 0 :=
  ⟨{ w0.setAx .startMask 2 with jobs := [jobR] }, by decide +kernel⟩

/-- PERST_N, power failure, rail dips and the first enable of the ring: PERST_N is released: the start begins after step 2, with no jobs and no commands. -/
theorem test_met_ResetsAndPowerLoss_2 :
    ∃ (s : State), s.ax .perst = 1 :=
  ⟨{ w0.setAx .perst 1 with cmds := [cmd0 1 1] }, by decide +kernel⟩

/-- PERST_N, power failure, rail dips and the first enable of the ring: the power-fail trip: the safe state, no jobs, and the save. -/
theorem test_met_ResetsAndPowerLoss_3 :
    ∃ (s : State) (b : Bool), s.ax .saveWait = 0 :=
  ⟨{ w0 with jobs := [jobR] }, false, by decide +kernel⟩

/-- PERST_N, power failure, rail dips and the first enable of the ring: the restart after the save: step 1 is done, a cold start, and the Pocket is as it was. -/
theorem test_met_ResetsAndPowerLoss_4 :
    ∃ (s : State), s.ax .saveWait = 1 :=
  ⟨(w0.setAx .saveWait 1).pktWrite 0 40 0 [7], by decide +kernel⟩

/-- PERST_N, power failure, rail dips and the first enable of the ring: a rail dips: the safe state. -/
theorem test_met_ResetsAndPowerLoss_5 :
    ∃ (s : State), s.ax .saveWait = 0 ∧ s.ax .railWait = 0 :=
  ⟨w0, by decide +kernel⟩

/-- PERST_N, power failure, rail dips and the first enable of the ring: the rail is back and no clock is lost: the safe state ends. -/
theorem test_met_ResetsAndPowerLoss_6 :
    ∃ (s : State), s.ax .railWait = 1 ∧ s.ax .lossAt = 0 :=
  ⟨(w0.setAx .railWait 1).wr .CLK_STAT_SAFE 1, by decide +kernel⟩

/-- PERST_N, power failure, rail dips and the first enable of the ring: EVR_CTRL.ENABLE with a legal reserve, on a ring that is not enabled. -/
theorem test_met_ResetsAndPowerLoss_7 :
    ∃ (s : State) (f : Nat) (o : Order), Alone o ∧ f < 128 ∧ 2 ≤ o.w.v ∧ o.w.v ≤ 2 ^ s.rd .EVR_BASE_LOG2 f / 2 ∧ s.standby f = false ∧
      s.rd .EVR_CTRL_ENABLE f = 0 :=
  ⟨w0.wr .EVR_BASE_LOG2 4 127, 127, ⟨⟨.pf, 8⟩, []⟩, by decide +kernel⟩

/-- What a write access of a register does, alone and with others in the same cycle: a 32-bit write of a 32-bit register, alone. -/
theorem test_met_RegisterWrites_1 :
    ∃ (s : State) (o : BusOrder) (a : RegAt), o.hw = [] ∧ o.rivals = [] ∧ s.doorbellLead o.w = none ∧ o.w.size = 4 ∧ o.w.addr % 4 = 0 ∧ s.regAt
      o.w.by' o.w.addr = some a ∧ a.reg.info.width = 32 :=
  ⟨w0, ⟨⟨.pf, regAddr .PWR_PKG_BUDGET, 4, 100⟩, [], []⟩, ⟨.PWR_PKG_BUDGET, 0, 0, 0, 0⟩, by decide +kernel⟩

/-- What a write access of a register does, alone and with others in the same cycle: a 32-bit write of the low word of a 64-bit register, alone, is held. -/
theorem test_met_RegisterWrites_2 :
    ∃ (s : State) (o : BusOrder) (a : RegAt), o.hw = [] ∧ o.rivals = [] ∧ s.doorbellLead o.w = none ∧ o.w.size = 4 ∧ o.w.addr % 4 = 0 ∧ s.regAt
      o.w.by' o.w.addr = some a ∧ a.reg.info.width = 64 ∧ a.word = 0 :=
  ⟨w0, ⟨⟨.pf, regAddr .CLK_DTSET, 4, 100⟩, [], []⟩, ⟨.CLK_DTSET, 0, 0, 0, 0⟩, by decide +kernel⟩

/-- What a write access of a register does, alone and with others in the same cycle: a 64-bit write of a 64-bit register, alone. -/
theorem test_met_RegisterWrites_3 :
    ∃ (s : State) (o : BusOrder) (a : RegAt), o.hw = [] ∧ o.rivals = [] ∧ s.doorbellLead o.w = none ∧ o.w.size = 8 ∧ o.w.addr % 8 = 0 ∧ s.regAt
      o.w.by' o.w.addr = some a ∧ a.reg.info.width = 64 ∧ a.word = 0 :=
  ⟨w0, ⟨⟨.pf, regAddr .CLK_DTSET, 8, 100⟩, [], []⟩, ⟨.CLK_DTSET, 0, 0, 0, 0⟩, by decide +kernel⟩

/-- What a write access of a register does, alone and with others in the same cycle: a write narrower than 32 bits, alone, has no effect. -/
theorem test_met_RegisterWrites_4 :
    ∃ (s : State) (o : BusOrder), o.hw = [] ∧ o.rivals = [] ∧ s.doorbellLead o.w = none ∧ o.w.size < 4 :=
  ⟨w0, ⟨⟨.pf, regAddr .PWR_PKG_BUDGET, 2, 100⟩, [], []⟩, by decide +kernel⟩

/-- What a write access of a register does, alone and with others in the same cycle: the high word of CLK_DTSET after its low word. -/
theorem test_met_RegisterWrites_5 :
    ∃ (s : State) (o : BusOrder) (l : Nat), o.hw = [] ∧ o.rivals = [] ∧ s.doorbellLead o.w = none ∧ o.w.by' = .pf ∧ o.w.size = 4 ∧ o.w.addr =
      regAddr .CLK_DTSET + 4 ∧ s.holding .pf (regAddr .CLK_DTSET) = some l ∧ l < 2 ^ 32 :=
  ⟨w0.setHolding .pf (regAddr .CLK_DTSET) (some (2 ^ 32 - 1)), ⟨⟨.pf, (regAddr .CLK_DTSET + 4), 4, 100⟩, [], []⟩, 2 ^ 32 - 1, by decide +kernel⟩

/-- What a write access of a register does, alone and with others in the same cycle: PWR_PKG_BUDGET takes its value. -/
theorem test_met_RegisterWrites_6 :
    ∃ (s : State) (o : BusOrder), o.hw = [] ∧ o.rivals = [] ∧ s.doorbellLead o.w = none ∧ o.w.by' = .pf ∧ o.w.size = 4 ∧ o.w.addr =
      regAddr .PWR_PKG_BUDGET ∧ o.w.data % 65536 ≠ 0 :=
  ⟨w0, ⟨⟨.pf, regAddr .PWR_PKG_BUDGET, 4, 100⟩, [], []⟩, by decide +kernel⟩

/-- What a write access of a register does, alone and with others in the same cycle: a contrary write of a higher-ranked master in the same cycle takes effect, and this one loses whole and is counted. -/
theorem test_met_RegisterWrites_7 :
    ∃ (s : State) (o : BusOrder) (r : BusWr), o.hw = [] ∧ s.doorbellLead o.w = none ∧ o.rivals = [r] ∧ sameWrite o.w r = false ∧ masterRank r.by' <
      masterRank o.w.by' :=
  ⟨w0, ⟨⟨.pf, regAddr .PWR_PKG_BUDGET, 4, 100⟩, [⟨.chain, regAddr .PWR_PKG_BUDGET, 4, 7⟩], []⟩, ⟨.chain, regAddr .PWR_PKG_BUDGET, 4, 7⟩,
    by decide +kernel⟩

/-- What a write access of a register does, alone and with others in the same cycle: a contrary write of a lower-ranked master in the same cycle loses whole and is counted, and this one takes effect. -/
theorem test_met_RegisterWrites_8 :
    ∃ (s : State) (o : BusOrder) (r : BusWr), o.hw = [] ∧ s.doorbellLead o.w = none ∧ o.rivals = [r] ∧ sameWrite r o.w = false ∧ masterRank o.w.by' <
      masterRank r.by' :=
  ⟨w0, ⟨⟨.chain, regAddr .PWR_PKG_BUDGET, 4, 100⟩, [⟨.pf, regAddr .PWR_PKG_BUDGET, 4, 7⟩], []⟩, ⟨.pf, regAddr .PWR_PKG_BUDGET, 4, 7⟩,
    by decide +kernel⟩

/-- What a write access of a register does, alone and with others in the same cycle: of doorbells of one queue in the same cycle the furthest takes effect. -/
theorem test_met_RegisterWrites_9 :
    ∃ (s : State) (o : BusOrder), o.hw = [] ∧ (s.doorbellLead o.w).isSome = true :=
  ⟨w0, ⟨⟨.pf, regAddr .QP_SQTAIL 0 3, 4, 3⟩, [⟨.pf, regAddr .QP_SQTAIL 0 3, 4, 5⟩], []⟩, by decide +kernel⟩

/-- What a write access of a register does, alone and with others in the same cycle: hardware sets a W1C bit in the cycle of a write: the bit is set. -/
theorem test_met_RegisterWrites_10 :
    ∃ (s : State) (o : BusOrder) (u : HwSet) (a : RegAt) (f : Field), o.hw = [u] ∧ f.info.acc = .w1c ∧ s.hwField u = some (a, f) ∧ ((s.hwSet
      u).busOrder o).hwField u = some (a, f) :=
  ⟨w0, ⟨⟨.pf, regAddr .CLK_STAT, 4, 2 ^ 32 - 1⟩, [], [hw1]⟩, hw1, hw1at.1, hw1at.2, by decide +kernel⟩

/-- What a write access of a register does, alone and with others in the same cycle: hardware updates an RW field in the cycle of a write: the write is made after the update. -/
theorem test_met_RegisterWrites_11 :
    ∃ (s : State) (o : BusOrder) (u : HwSet) (a : RegAt) (f : Field), o.hw = [u] ∧ f.info.acc = .rw ∧ s.hwField u = some (a, f) :=
  ⟨w0, ⟨⟨.pf, regAddr .YOK_THROTTLE, 4, 9⟩, [], [⟨0, regAddr .YOK_THROTTLE, 0, 77⟩]⟩, ⟨0, regAddr .YOK_THROTTLE, 0, 77⟩, ⟨.YOK_THROTTLE, 0, 0, 0,
    0⟩, .YOK_THROTTLE_TICKS, by decide +kernel⟩

/-- The management chain: power, bypass switch, and addressing: the chain logic opens the switch of a part that was not bypassed. -/
theorem test_met_ChainAddressing_2 :
    ∃ (s : State), s.rdb .CHN_STAT_BYPASS = true ∧ s.ax .bypassed = 0 :=
  ⟨w0.wr .CHN_STAT_BYPASS 1, by decide +kernel⟩

/-- The management chain: power, bypass switch, and addressing: the heartbeat of the chain logic toggles. -/
theorem test_met_ChainAddressing_3 :
    ∃ (s : State), s.rdb .CHN_STAT_BYPASS = false :=
  ⟨w0.wr .CHN_STAT_BYPASS 0, by decide +kernel⟩

/-- The management chain: power, bypass switch, and addressing: 5 ms without a toggle: the supervisor closes the switch. -/
theorem test_met_ChainAddressing_4 :
    ∃ (s : State), s.rdb .CHN_STAT_BYPASS = false ∧ s.ax .chainBeat - 1 + 5000000 ≤ s.now :=
  ⟨{ w0.wr .CHN_STAT_BYPASS 0 with dt := 40000000 }, by decide +kernel⟩

/-- The management chain: power, bypass switch, and addressing: ASSIGN of an address in its range to a part that answers new ones. -/
theorem test_met_ChainAddressing_6 :
    ∃ (s : State) (q : ChainTx) (v : Nat), s.answersNew q = true ∧ 8 ≤ v ∧ v ≤ 0x67 ∧ s.pecWrong q 2 (leBytes 1 v) = false :=
  ⟨w0, ⟨0x6A, true, none⟩, 0x67, by decide +kernel⟩

/-- The management chain: power, bypass switch, and addressing: ASSIGN of an address outside its range is not acknowledged. -/
theorem test_met_ChainAddressing_7 :
    ∃ (s : State) (q : ChainTx) (v : Nat), (v < 8 ∨ 0x67 < v) :=
  ⟨w0, ⟨0x6A, true, none⟩, 0x68, by decide +kernel⟩

/-- The management chain: power, bypass switch, and addressing: CLEAR_ADDR: the part forgets its address. -/
theorem test_met_ChainAddressing_8 :
    ∃ (s : State) (q : ChainTx), s.answers q = true ∧ s.pecWrong q 3 [] = false :=
  ⟨((w0.wr .CHN_CFG_VALID 1).wr .CHN_CFG_ADDR 0x10).setAx .startMask 14, ⟨0x10, true, none⟩, by decide +kernel⟩

/-- The management chain: power, bypass switch, and addressing: BYPASS closes the switch. -/
theorem test_met_ChainAddressing_9 :
    ∃ (s : State) (q : ChainTx), s.answers q = true ∧ s.pecWrong q 9 [] = false :=
  ⟨((w0.wr .CHN_CFG_VALID 1).wr .CHN_CFG_ADDR 0x10).setAx .startMask 14, ⟨0x10, true, none⟩, by decide +kernel⟩

/-- The management chain: power, bypass switch, and addressing: a chain write with a wrong packet error code has no effect and is counted, CLEAR_ADDR for one. -/
theorem test_met_ChainAddressing_10 :
    ∃ (s : State) (q : ChainTx), s.answers q = true ∧ s.pecWrong q 3 [] = true :=
  ⟨(((w0.wr .CHN_CFG_VALID 1).wr .CHN_CFG_ADDR 0x10).setAx .startMask 14).wr .CHN_CFG_PEC 1, ⟨0x10, true, none⟩, by decide +kernel⟩

/-- The management chain: reads, and accesses to registers and the Pocket: IDENTIFY returns the identity. -/
theorem test_met_ChainAccess_1 :
    ∃ (s : State) (q : ChainTx), s.answers q = true ∧ s.rdb .CHN_CFG_PEC = false :=
  ⟨((w0.wr .CHN_CFG_VALID 1).wr .CHN_CFG_ADDR 0x10).setAx .startMask 14, ⟨0x10, true, none⟩, by decide +kernel⟩

/-- The management chain: reads, and accesses to registers and the Pocket: IDENTIFY with a packet error code appends it. -/
theorem test_met_ChainAccess_2 :
    ∃ (s : State) (q : ChainTx), s.answers q = true ∧ s.rdb .CHN_CFG_PEC = true :=
  ⟨(((w0.wr .CHN_CFG_VALID 1).wr .CHN_CFG_ADDR 0x10).setAx .startMask 14).wr .CHN_CFG_PEC 1, ⟨0x10, true, none⟩, by decide +kernel⟩

/-- The management chain: reads, and accesses to registers and the Pocket: STATUS returns START_REPORT, PWR_STAT and MIR_STAT. -/
theorem test_met_ChainAccess_3 :
    ∃ (s : State) (q : ChainTx), s.answers q = true ∧ s.rdb .CHN_CFG_PEC = false :=
  ⟨((w0.wr .CHN_CFG_VALID 1).wr .CHN_CFG_ADDR 0x10).setAx .startMask 14, ⟨0x10, true, none⟩, by decide +kernel⟩

/-- The management chain: reads, and accesses to registers and the Pocket: REG_READ, once step 3 of the start-up has run, returns the 32-bit read of the chain. -/
theorem test_met_ChainAccess_4 :
    ∃ (s : State) (q : ChainTx) (off : Nat), s.answers q = true ∧ s.rdb .CHN_CFG_PEC = false ∧ s.stepDone 3 = true ∧ ((s.token
      q.tokenIn).readAccess .chain off 4).2.outbox = s.outbox :=
  ⟨((w0.wr .CHN_CFG_VALID 1).wr .CHN_CFG_ADDR 0x10).setAx .startMask 14, ⟨0x10, true, none⟩, regAddr .PWR_PKG_BUDGET, by decide +kernel⟩

/-- The management chain: reads, and accesses to registers and the Pocket: REG_READ before step 3 of the start-up is not acknowledged. -/
theorem test_met_ChainAccess_5 :
    ∃ (s : State) (q : ChainTx) (off : Nat), s.answers q = true ∧ s.stepDone 3 = false :=
  ⟨(w0.wr .CHN_CFG_VALID 1).wr .CHN_CFG_ADDR 0x10, ⟨0x10, true, none⟩, 0, by decide +kernel⟩

/-- The management chain: reads, and accesses to registers and the Pocket: REG_WRITE, once step 3 of the start-up has run, is the 32-bit write of the chain. -/
theorem test_met_ChainAccess_6 :
    ∃ (s : State) (q : ChainTx) (off : Nat) (v : Nat) (l : List BusWr) (h : List HwSet), s.answers q = true ∧ s.pecWrong q 6 (leBytes 4 off ++ leBytes
      4 v) = false ∧ s.stepDone 3 = true :=
  ⟨((w0.wr .CHN_CFG_VALID 1).wr .CHN_CFG_ADDR 0x10).setAx .startMask 14, ⟨0x10, true, none⟩, regAddr .PWR_PKG_BUDGET, 100, [], [], by decide +kernel⟩

/-- The management chain: reads, and accesses to registers and the Pocket: POCKET_READ of a user page that is open returns its bytes. -/
theorem test_met_ChainAccess_7 :
    ∃ (s : State) (q : ChainTx) (d : Nat) (p : Nat) (off : Nat) (n : Nat), s.answers q = true ∧ s.rdb .CHN_CFG_PEC = false ∧ s.chainSpan d p off n =
      true ∧ 32 ≤ p ∧ s.pktRdOpen p = true :=
  ⟨(((w0.wr .CHN_CFG_VALID 1).wr .CHN_CFG_ADDR 0x10).setAx .startMask 14).pktWrite 1 127 4090 [1, 2, 3, 4, 5], ⟨0x10, true, none⟩, 1, 127, 4091, 5,
    by decide +kernel⟩

/-- The management chain: reads, and accesses to registers and the Pocket: POCKET_WRITE of a page that is open stores the bytes. -/
theorem test_met_ChainAccess_8 :
    ∃ (s : State) (q : ChainTx) (d : Nat) (p : Nat) (off : Nat) (n : Nat) (l : List Byte), s.answers q = true ∧ s.pecWrong q 8 (leBytes 1 d ++ leBytes
      1 p ++ leBytes 2 off ++ leBytes 1 n ++ l) = false ∧ s.chainSpan d p off n = true ∧ n % 4 = 0 ∧ off % 4 = 0 ∧ l.length = n ∧ s.pktWrOpen d p = true :=
  ⟨((w0.wr .CHN_CFG_VALID 1).wr .CHN_CFG_ADDR 0x10).setAx .startMask 14, ⟨0x10, true, none⟩, 1, 127, 4092, 4, [1, 2, 3, 4], by decide +kernel⟩

/-- The management chain: reads, and accesses to registers and the Pocket: LAST_STATUS returns the status of the last access. -/
theorem test_met_ChainAccess_9 :
    ∃ (s : State) (q : ChainTx), s.answers q = true ∧ s.rdb .CHN_CFG_PEC = false :=
  ⟨((w0.wr .CHN_CFG_VALID 1).wr .CHN_CFG_ADDR 0x10).setAx .startMask 14, ⟨0x10, true, none⟩, by decide +kernel⟩

theorem test_met_StepRunsTheFront_front :
    ∃ (s : State) (c : Instr) (rest : List Instr), s.pending = c :: rest :=
  ⟨{ w0 with pending := [.stitchStrobe, .powerGood] }, .stitchStrobe, [.powerGood], rfl⟩

theorem test_met_EveryStepAnswers_idle :
    ∃ s : State, s.pending = [] :=
  ⟨w0, rfl⟩

theorem test_met_EveryStepAnswers_other :
    ∃ c : Instr, ∀ p, c ≠ .pllRelockDone p :=
  ⟨.stitchStrobe, fun _ h => Instr.noConfusion h⟩

theorem test_met_EveryStepAnswers_locks :
    ∃ (p : Nat) (s : State), s.ax .relock 0 p = 0 ∨ s.ratiosHold = true :=
  ⟨0, w0, .inl (by decide)⟩

theorem test_met_EveryStepAnswers_broken :
    ∃ (p : Nat) (s : State), s.ax .relock 0 p = 1 ∧ s.ratiosHold = false :=
  ⟨2, (w0.wr .CLK_PLL_FBDIV 1 0 1).setAx .relock 1 0 2, by decide⟩

theorem test_met_StepKeepsInv_sound :
    ∃ s t : State, Inv s ∧ step s = .next t :=
  ⟨State.reset, State.reset.idle, by exact ⟨by decide, by decide, by intro e he; cases he⟩, rfl⟩

theorem test_met_FramesOfCommands_command :
    ∃ (c : Instr) (s t : State), coldReset c = false ∧ writesRegisters c = false ∧ exec c s = .next t :=
  ⟨.dgaCtrlClear 1 ⟨⟨.pf, 1⟩, []⟩, w0, _, rfl, rfl, rfl⟩

theorem test_met_FramesOfCommands_registers :
    ∃ (c : Instr) (s t : State), writesRegisters c = true ∧ exec c s = .next t :=
  ⟨.registerWrite ⟨⟨.pf, 0, 4, 0⟩, [], []⟩, w0, _, rfl, rfl⟩

theorem test_met_FramesOfCommands_cold :
    ∃ (c : Instr) (s t : State), coldReset c = true ∧ exec c s = .next t :=
  ⟨.vddAonGood, w0, _, rfl, rfl⟩

theorem test_met_ElementsOfCommands_die :
    ∃ (d : Nat) (o : Order) (c : Instr) (s t : State), Alone o ∧ c ∈ dieWrites d o ∧ exec c s = .next t :=
  ⟨1, ⟨⟨.pf, 1⟩, []⟩, .dgaCtrlClear 1 ⟨⟨.pf, 1⟩, []⟩, w0, _, rfl, .tail _ (.head _), rfl⟩

theorem test_met_ElementsOfCommands_tile :
    ∃ (d i : Nat) (o : Order) (c : Instr) (s t : State), Alone o ∧ c ∈ tileWrites d i o ∧ exec c s = .next t :=
  ⟨1, 1663, ⟨⟨.pf, 1⟩, []⟩, .tilCtrlHoldWrite 1 1663 ⟨⟨.pf, 1⟩, []⟩, w0, _, rfl, .head _, rfl⟩

theorem test_met_ElementsOfCommands_task :
    ∃ (r q : TaskRef) (c : Instr) (s t : State), c ∈ taskInstructions r ∧ exec c s = .next t ∧ (q.job, q.task) ≠ (r.job, r.task) :=
  ⟨ri, { job := 7, task := 1 }, .nop ri, wi [0] task0, _, .head _, rfl, by decide⟩

/-- CALL, RET, LOOP and loop ends trap with cause STACK on a full or empty stack: CALL. -/
theorem test_met_StackTraps_1 :
    ∃ (s : State) (r : TaskRef) (c : Ctx), s.ctx r = some c ∧ guardOff c.task c.w = false ∧ isInsn 0x04 0 c.w = true ∧ c.task.ret.length = 16 :=
  ⟨wi [insB 4 0 0 0 1, 0] ({ task0 with ret := List.replicate 16 0 }), ri, ci (wi [insB 4 0 0 0 1, 0] ({ task0 with ret := List.replicate 16 0 })),
    by decide +kernel⟩

/-- CALL, RET, LOOP and loop ends trap with cause STACK on a full or empty stack: CALLI. -/
theorem test_met_StackTraps_2 :
    ∃ (s : State) (r : TaskRef) (c : Ctx), s.ctx r = some c ∧ guardOff c.task c.w = false ∧ isInsn 0x04 1 c.w = true ∧ c.task.ret.length = 16 :=
  ⟨wi [insB 4 1 3 0 0, 0] ({ task0 with ret := List.replicate 16 0 }), ri, ci (wi [insB 4 1 3 0 0, 0] ({ task0 with ret := List.replicate 16 0 })),
    by decide +kernel⟩

/-- CALL, RET, LOOP and loop ends trap with cause STACK on a full or empty stack: RET. -/
theorem test_met_StackTraps_3 :
    ∃ (s : State) (r : TaskRef) (c : Ctx), s.ctx r = some c ∧ guardOff c.task c.w = false ∧ isOp 0x05 c.w = true ∧ c.task.ret = [] :=
  ⟨wi [insB 5 0 0 0 0, 0] (task0), ri, ci (wi [insB 5 0 0 0 0, 0] (task0)), by decide +kernel⟩

/-- CALL, RET, LOOP and loop ends trap with cause STACK on a full or empty stack: LOOP. -/
theorem test_met_StackTraps_4 :
    ∃ (s : State) (r : TaskRef) (c : Ctx), s.ctx r = some c ∧ guardOff c.task c.w = false ∧ isInsn 0x03 0 c.w = true ∧ c.task.loops.length = 4 :=
  ⟨wi [insB 3 0 3 0 5] ({ task0 with loops := [⟨1, 0, 0⟩, ⟨1, 0, 0⟩, ⟨1, 0, 0⟩, ⟨1, 0, 0⟩] }), ri, ci (wi [insB 3 0 3 0 5]
    ({ task0 with loops := [⟨1, 0, 0⟩, ⟨1, 0, 0⟩, ⟨1, 0, 0⟩, ⟨1, 0, 0⟩] })), by decide +kernel⟩

/-- CALL, RET, LOOP and loop ends trap with cause STACK on a full or empty stack: ENDL. -/
theorem test_met_StackTraps_5 :
    ∃ (s : State) (r : TaskRef) (c : Ctx), s.ctx r = some c ∧ guardOff c.task c.w = false ∧ isInsn 0x03 1 c.w = true ∧ c.task.loops = [] :=
  ⟨wi [insB 3 1 0 0 0] (task0), ri, ci (wi [insB 3 1 0 0 0] (task0)), by decide +kernel⟩

/-- CALL, RET, LOOP and loop ends trap with cause STACK on a full or empty stack: LPOP. -/
theorem test_met_StackTraps_6 :
    ∃ (s : State) (r : TaskRef) (c : Ctx), s.ctx r = some c ∧ guardOff c.task c.w = false ∧ isInsn 0x03 2 c.w = true ∧ c.task.loops = [] :=
  ⟨wi [insB 3 2 0 0 0] (task0), ri, ci (wi [insB 3 2 0 0 0] (task0)), by decide +kernel⟩

theorem test_met_LockedPages_locks :
    ∃ (s : State) (id : Nat) (c : Cmd), s.readyCmd id 0x53 = some c ∧ (s.started c).b 16 1 = 2 ∧ s.rd .PKT_STAT_MODE = 2 ∧ (s.started c).b 17 1 <
      s.part.dies ∧ 32 ≤ (s.started c).b 18 1 ∧ (s.started c).b 18 1 < 128 :=
  ⟨(wc 0x53 (2 * 256 ^ 16 + 256 ^ 17 + 127 * 256 ^ 18)).wr .PKT_STAT_MODE 2, 7, cmd0 0x53 (2 * 256 ^ 16 + 256 ^ 17 + 127 * 256 ^ 18), by decide⟩

theorem test_met_LockedPages_again :
    ∃ (s : State) (id : Nat) (c : Cmd), s.readyCmd id 0x53 = some c ∧ (s.started c).b 16 1 = 2 ∧ s.rd .PKT_STAT_MODE = 2 ∧ (s.started c).b 17 1 <
      s.part.dies ∧ 32 ≤ (s.started c).b 18 1 ∧ (s.started c).b 18 1 < 128 ∧ s.pageLocked ((s.started c).b 17 1) ((s.started c).b 18 1) = true :=
  ⟨((wc 0x53 (2 * 256 ^ 16 + 32 * 256 ^ 18)).wr .PKT_STAT_MODE 2).setAx .pageLock 1 0 32, 7, cmd0 0x53 (2 * 256 ^ 16 + 32 * 256 ^ 18), by decide⟩

theorem test_met_LockedPages_stays :
    ∃ (c : Instr) (s t : State) (d p : Nat), s.rd .PKT_STAT_MODE = 2 ∧ s.pageLocked d p = true ∧ 32 ≤ p ∧ p < 128 ∧ exec c s = .next t :=
  ⟨.vddAonGood, (w0.wr .PKT_STAT_MODE 2).setAx .pageLock 1 1 127, _, 1, 127, by decide, by decide, by decide, by decide, rfl⟩

theorem test_met_ProtectionMode_set :
    ∃ (s : State) (id : Nat) (c : Cmd), s.readyCmd id 0x53 = some c ∧ (s.started c).b 16 1 = 0 ∧ s.rd .PKT_STAT_MODE = 0 ∧ 1 ≤ (s.started c).b 17 1 ∧
      (s.started c).b 17 1 ≤ 2 :=
  ⟨wc 0x53 (2 * 256 ^ 17), 7, cmd0 0x53 (2 * 256 ^ 17), by decide⟩

theorem test_met_ProtectionMode_again :
    ∃ (s : State) (id : Nat) (c : Cmd), s.readyCmd id 0x53 = some c ∧ (s.started c).b 16 1 = 0 ∧ s.rd .PKT_STAT_MODE ≠ 0 :=
  ⟨(wc 0x53 (256 ^ 17)).wr .PKT_STAT_MODE 2, 7, cmd0 0x53 (256 ^ 17), by decide⟩

theorem test_met_ProtectionMode_stays :
    ∃ (c : Instr) (s t : State), s.rd .PKT_STAT_MODE ≠ 0 ∧ exec c s = .next t :=
  ⟨.vddAonGood, w0.wr .PKT_STAT_MODE 1, _, by decide, rfl⟩

theorem test_met_ProtectionMode_open :
    ∃ (s : State) (p : Nat), s.rd .PKT_STAT_MODE = 0 ∧ 32 ≤ p :=
  ⟨w0, 32, by decide, by decide⟩

theorem test_met_ProtectionMode_own :
    ∃ p : Nat, p < 32 :=
  ⟨31, by decide⟩
end

section
/-!
PROOFS. The invariant of a step (R6, R9, R369): every command keeps a sound state sound, by the laws of the Laws/Keeps files.
-/

namespace Sys2Proof.Machine

/-- Every command keeps what `State.Keeps` names: the split follows `exec`, and each case is its command's law. -/
theorem exec_keeps {a s : State} (hk : a.Keeps s) (c : Instr) : a.KeepsR (exec c s) :=
  match c with
  | .registerWrite o => execRegisterWrite_keeps hk o
  | .glbCapacityLowRead by' => execGlbCapacityLowRead_keeps hk by'
  | .hemMseSumRead by' die tile q wide => execHemMseSumRead_keeps hk by' die tile q wide
  | .tilCtrlRetire die tile o => execTilCtrlRetire_keeps hk die tile o
  | .tilCtrlHoldWrite die tile o => execTilCtrlHoldWrite_keeps hk die tile o
  | .tilCtrlPrecisionWrite die tile o => execTilCtrlPrecisionWrite_keeps hk die tile o
  | .tilCtrlHandback die tile o => execTilCtrlHandback_keeps hk die tile o
  | .spareTileTest die tiles => execSpareTileTest_keeps hk die tiles
  | .recordTileFailure die tile cells conds => execRecordTileFailure_keeps hk die tile cells conds
  | .repairDone die eng out => execRepairDone_keeps hk die eng out
  | .drvCfgWrite die tile o => execDrvCfgWrite_keeps hk die tile o
  | .drvSlewWrite die tile o => execDrvSlewWrite_keeps hk die tile o
  | .drvCfgHandback die tile o => execDrvCfgHandback_keeps hk die tile o
  | .wfmDataAccess die a => execWfmDataAccess_keeps hk die a
  | .wfmPlayStart die player stop o => execWfmPlayStart_keeps hk die player stop o
  | .wfmPlayStop die player o => execWfmPlayStop_keeps hk die player o
  | .wfmPlayCancel die player o => execWfmPlayCancel_keeps hk die player o
  | .wfmTimedStart die player => execWfmTimedStart_keeps hk die player
  | .wfmTimedStop die player => execWfmTimedStop_keeps hk die player
  | .wfmPointInterval die player => execWfmPointInterval_keeps hk die player
  | .wfmStatHandback die o => execWfmStatHandback_keeps hk die o
  | .hemCfgWrite die tile o => execHemCfgWrite_keeps hk die tile o
  | .hemTapsWrite die tile o => execHemTapsWrite_keeps hk die tile o
  | .hemCtrlClear die tile o => execHemCtrlClear_keeps hk die tile o
  | .hemCtrlHandback die tile o => execHemCtrlHandback_keeps hk die tile o
  | .conversionsEnd die tile out => execConversionsEnd_keeps hk die tile out
  | .stitchStrobe => execStitchStrobe_keeps hk
  | .periodMarker die => execPeriodMarker_keeps hk die
  | .skewRemeasure die skew => execSkewRemeasure_keeps hk die skew
  | .followerOff die => execFollowerOff_keeps hk die
  | .followerRealign die => execFollowerRealign_keeps hk die
  | .feederLoadDone die x => execFeederLoadDone_keeps hk die x
  | .seamDue slot => execSeamDue_keeps hk slot
  | .seamPass slot => execSeamPass_keeps hk slot
  | .mapSwitchDrainLimit slot => execMapSwitchDrainLimit_keeps hk slot
  | .accountingWindowEnd => execAccountingWindowEnd_keeps hk
  | .yokeRoleMoveEnd => execYokeRoleMoveEnd_keeps hk
  | .yokCtrlHoldAllWrite o => execYokCtrlHoldAllWrite_keeps hk o
  | .yokCtrlSplitEnWrite o => execYokCtrlSplitEnWrite_keeps hk o
  | .yokCtrlClear o => execYokCtrlClear_keeps hk o
  | .yokCtrlHandback o => execYokCtrlHandback_keeps hk o
  | .yokPeriodWrite o => execYokPeriodWrite_keeps hk o
  | .yokThrottleWrite o => execYokThrottleWrite_keeps hk o
  | .jobDispatch => execJobDispatch_keeps hk
  | .jobCommit job => execJobCommit_keeps hk job
  | .barRelease job => execBarRelease_keeps hk job
  | .memoryConditionRecheck t => execMemoryConditionRecheck_keeps hk t
  | .seqCfgWrite die o => execSeqCfgWrite_keeps hk die o
  | .seqCtrlDrainWrite die o => execSeqCtrlDrainWrite_keeps hk die o
  | .seqCtrlHandback die o => execSeqCtrlHandback_keeps hk die o
  | .nop t => execNop_keeps hk t
  | .br t => execBr_keeps hk t
  | .bri t => execBri_keeps hk t
  | .brc t => execBrc_keeps hk t
  | .loop t => execLoop_keeps hk t
  | .endl t => execEndl_keeps hk t
  | .lpop t => execLpop_keeps hk t
  | .call t => execCall_keeps hk t
  | .calli t => execCalli_keeps hk t
  | .ret t => execRet_keeps hk t
  | .wait t => execWait_keeps hk t
  | .waitEq t => execWaitEq_keeps hk t
  | .waitNe t => execWaitNe_keeps hk t
  | .waitGeu t => execWaitGeu_keeps hk t
  | .trap t => execTrap_keeps hk t
  | .halt t => execHalt_keeps hk t
  | .ctx t => execCtx_keeps hk t
  | .aluImmediate t => execAluImmediate_keeps hk t
  | .aluRegister t => execAluRegister_keeps hk t
  | .cmp t => execCmp_keeps hk t
  | .cmpi t => execCmpi_keeps hk t
  | .predicateOp t => execPredicateOp_keeps hk t
  | .tdset t => execTdset_keeps hk t
  | .tdget t => execTdget_keeps hk t
  | .tdld t => execTdld_keeps hk t
  | .tdst t => execTdst_keeps hk t
  | .tdcpy t => execTdcpy_keeps hk t
  | .tdinv t => execTdinv_keeps hk t
  | .tdadd t => execTdadd_keeps hk t
  | .load t => execLoad_keeps hk t
  | .store t => execStore_keeps hk t
  | .movt t => execMovt_keeps hk t
  | .gather t => execGather_keeps hk t
  | .scatter t => execScatter_keeps hk t
  | .scldE t => execScldE_keeps hk t
  | .scldT t => execScldT_keeps hk t
  | .stitch t => execStitch_keeps hk t
  | .rstitch t => execRstitch_keeps hk t
  | .swait t => execSwait_keeps hk t
  | .rot t => execRot_keeps hk t
  | .mapsel t => execMapsel_keeps hk t
  | .mm t => execMm_keeps hk t
  | .mmt t => execMmt_keeps hk t
  | .mma t => execMma_keeps hk t
  | .mmat t => execMmat_keeps hk t
  | .ew t => execEw_keeps hk t
  | .red t => execRed_keeps hk t
  | .smax t => execSmax_keeps hk t
  | .normLayer t => execNormLayer_keeps hk t
  | .normRms t => execNormRms_keeps hk t
  | .qnt t => execQnt_keeps hk t
  | .dqnt t => execDqnt_keeps hk t
  | .bar t => execBar_keeps hk t
  | .fence t => execFence_keeps hk t
  | .signalSet t => execSignalSet_keeps hk t
  | .signalAdd t => execSignalAdd_keeps hk t
  | .signalMaxu t => execSignalMaxu_keeps hk t
  | .evpost t => execEvpost_keeps hk t
  | .cpost t => execCpost_keeps hk t
  | .cal t rival => execCal_keeps hk t rival
  | .clear t rival => execClear_keeps hk t rival
  | .prog t rival => execProg_keeps hk t rival
  | .verify t rival => execVerify_keeps hk t rival
  | .refresh t rival => execRefresh_keeps hk t rival
  | .arrayBlockEnd die opwait stall short x => execArrayBlockEnd_keeps hk die opwait stall short x
  | .dgaCtrlHoldWrite die o => execDgaCtrlHoldWrite_keeps hk die o
  | .dgaCtrlClear die o => execDgaCtrlClear_keeps hk die o
  | .dgaCtrlHandback die o => execDgaCtrlHandback_keeps hk die o
  | .dmaDescriptorDone e => execDmaDescriptorDone_keeps hk e
  | .imageLoad id parts => execImageLoad_keeps hk id parts
  | .imageLoadComplete id bytes => execImageLoadComplete_keeps hk id bytes
  | .imageEvict id => execImageEvict_keeps hk id
  | .slotProgram id => execSlotProgram_keeps hk id
  | .slotSwitch id => execSlotSwitch_keeps hk id
  | .slotReplace id => execSlotReplace_keeps hk id
  | .mapFree id => execMapFree_keeps hk id
  | .slotFree id => execSlotFree_keeps hk id
  | .slotFreeDrainEnd id => execSlotFreeDrainEnd_keeps hk id
  | .slotInfo id => execSlotInfo_keeps hk id
  | .keyEnrol id hash => execKeyEnrol_keeps hk id hash
  | .keyRevoke id => execKeyRevoke_keeps hk id
  | .progFinish die eng out => execProgFinish_keeps hk die eng out
  | .clearFinish die eng reads => execClearFinish_keeps hk die eng reads
  | .verifyFinish die eng counts => execVerifyFinish_keeps hk die eng counts
  | .prgCtrlHoldWrite die o => execPrgCtrlHoldWrite_keeps hk die o
  | .prgCtrlClear die o => execPrgCtrlClear_keeps hk die o
  | .prgCtrlHandback die o => execPrgCtrlHandback_keeps hk die o
  | .prgStoreWrite die o => execPrgStoreWrite_keeps hk die o
  | .driftInterval die x conv => execDriftInterval_keeps hk die x conv
  | .traceDue die => execTraceDue_keeps hk die
  | .traceEnd die rho => execTraceEnd_keeps hk die rho
  | .traceRetry die => execTraceRetry_keeps hk die
  | .quickCalEnd die tile out => execQuickCalEnd_keeps hk die tile out
  | .fullCalStart die => execFullCalStart_keeps hk die
  | .fullCalEnd die tile out => execFullCalEnd_keeps hk die tile out
  | .periodicFullCalDue die tile => execPeriodicFullCalDue_keeps hk die tile
  | .recordHourlySave die => execRecordHourlySave_keeps hk die
  | .refreshEnd die tile => execRefreshEnd_keeps hk die tile
  | .calCtrlHoldWrite die o => execCalCtrlHoldWrite_keeps hk die o
  | .calCtrlClear die o => execCalCtrlClear_keeps hk die o
  | .calCtrlHandback die o => execCalCtrlHandback_keeps hk die o
  | .calCtrlTrace die o => execCalCtrlTrace_keeps hk die o
  | .calTabDataAccess die a => execCalTabDataAccess_keeps hk die a
  | .calHandbackGo die tile o => execCalHandbackGo_keeps hk die tile o
  | .mcvEntryStart die => execMcvEntryStart_keeps hk die
  | .mcvEntryEnd die codeA codeB half => execMcvEntryEnd_keeps hk die codeA codeB half
  | .urgentRequest die kind who => execUrgentRequest_keeps hk die kind who
  | .urgentConversionEnd die conv => execUrgentConversionEnd_keeps hk die conv
  | .selfCalDue die => execSelfCalDue_keeps hk die
  | .selfCalEnd die conv cal => execSelfCalEnd_keeps hk die conv cal
  | .mcvCtrlModeWrite die o => execMcvCtrlModeWrite_keeps hk die o
  | .mcvCtrlHoldWrite die o => execMcvCtrlHoldWrite_keeps hk die o
  | .mcvCtrlScal die o => execMcvCtrlScal_keeps hk die o
  | .mcvCtrlClear die o => execMcvCtrlClear_keeps hk die o
  | .mcvCtrlHandback die o => execMcvCtrlHandback_keeps hk die o
  | .mcvTrigGo die o => execMcvTrigGo_keeps hk die o
  | .mcvTimedTrigger die => execMcvTimedTrigger_keeps hk die
  | .simultaneousConversionEnd die codeA codeB => execSimultaneousConversionEnd_keeps hk die codeA codeB
  | .tlmStart stream stop o => execTlmStart_keeps hk stream stop o
  | .tlmStop stream o => execTlmStop_keeps hk stream o
  | .tlmCancel stream o => execTlmCancel_keeps hk stream o
  | .tlmTimedStart stream => execTlmTimedStart_keeps hk stream
  | .tlmTimedStop stream => execTlmTimedStop_keeps hk stream
  | .tlmPeriodSample stream => execTlmPeriodSample_keeps hk stream
  | .tlmRdidxWrite stream o => execTlmRdidxWrite_keeps hk stream o
  | .bnkOwnerWrite die bank o => execBnkOwnerWrite_keeps hk die bank o
  | .bankHandover die bank => execBankHandover_keeps hk die bank
  | .bankZeroingEnd die bank => execBankZeroingEnd_keeps hk die bank
  | .bnkCtrlClear die o => execBnkCtrlClear_keeps hk die o
  | .bnkCtrlHandback die o => execBnkCtrlHandback_keeps hk die o
  | .bnkDiagGo die collide o => execBnkDiagGo_keeps hk die collide o
  | .bankScrub die corr bad => execBankScrub_keeps hk die corr bad
  | .lpddrPatrolScrub die offs flips => execLpddrPatrolScrub_keeps hk die offs flips
  | .wck2dqDrift die ch => execWck2dqDrift_keeps hk die ch
  | .retrainEnd die ch x => execRetrainEnd_keeps hk die ch x
  | .memCtrlRetrain die o => execMemCtrlRetrain_keeps hk die o
  | .memCtrlClear die o => execMemCtrlClear_keeps hk die o
  | .memCtrlHandback die o => execMemCtrlHandback_keeps hk die o
  | .memCfgWrite die o => execMemCfgWrite_keeps hk die o
  | .qpCfgEnable entry o => execQpCfgEnable_keeps hk entry o
  | .qpCfgDisable entry o => execQpCfgDisable_keeps hk entry o
  | .qpDrainEnd q => execQpDrainEnd_keeps hk q
  | .qpSqtailWrite entry o => execQpSqtailWrite_keeps hk entry o
  | .qpCqheadWrite entry o => execQpCqheadWrite_keeps hk entry o
  | .descriptorFetch q data rival => execDescriptorFetch_keeps hk q data rival
  | .parkedCommandEligible id => execParkedCommandEligible_keeps hk id
  | .cmdNop id => execCmdNop_keeps hk id
  | .jobSubmit id => execJobSubmit_keeps hk id
  | .jobAbort id => execJobAbort_keeps hk id
  | .programLoad id obj => execProgramLoad_keeps hk id obj
  | .programUnload id => execProgramUnload_keeps hk id
  | .programUnloadEffect h => execProgramUnloadEffect_keeps hk h
  | .resAlloc id => execResAlloc_keeps hk id
  | .resFree id => execResFree_keeps hk id
  | .bankHost id => execBankHost_keeps hk id
  | .evict id => execEvict_keeps hk id
  | .fnqQuotaWrite fn kind o => execFnqQuotaWrite_keeps hk fn kind o
  | .fnqGrantWrite fn slot o => execFnqGrantWrite_keeps hk fn slot o
  | .functionLevelReset fn => execFunctionLevelReset_keeps hk fn
  | .hotReset => execHotReset_keeps hk
  | .bar2Access fn addr size x => execBar2Access_keeps hk fn addr size x
  | .evrCtrlEnable fn o => execEvrCtrlEnable_keeps hk fn o
  | .evrHeadWrite fn o => execEvrHeadWrite_keeps hk fn o
  | .msixModerationTimeout fn vec => execMsixModerationTimeout_keeps hk fn vec
  | .msixUnmask fn vec o => execMsixUnmask_keeps hk fn vec o
  | .bankPortWaitTimeout die bank job => execBankPortWaitTimeout_keeps hk die bank job
  | .dieLinkTimeout link jobs => execDieLinkTimeout_keeps hk link jobs
  | .lpddrCommandTimeout die off jobs => execLpddrCommandTimeout_keeps hk die off jobs
  | .dmaDescriptorTimeout die eng issue => execDmaDescriptorTimeout_keeps hk die eng issue
  | .sequencerProgressTimeout die seq => execSequencerProgressTimeout_keeps hk die seq
  | .feedQueueStarvation queue => execFeedQueueStarvation_keeps hk queue
  | .jobWatchdog job => execJobWatchdog_keeps hk job
  | .chainTransactionTimeout => execChainTransactionTimeout_keeps hk
  | .mgmtWatchdogMiss die => execMgmtWatchdogMiss_keeps hk die
  | .dieRestore id r => execDieRestore_keeps hk id r
  | .pairHandover id => execPairHandover_keeps hk id
  | .mirRegion id answer => execMirRegion_keeps hk id answer
  | .heartbeatSend => execHeartbeatSend_keeps hk
  | .heartbeatFlit h rank epoch time roles => execHeartbeatFlit_keeps hk h rank epoch time roles
  | .ackFlit h => execAckFlit_keeps hk h
  | .nakFlit h => execNakFlit_keeps hk h
  | .journalFlit h fn m => execJournalFlit_keeps hk h fn m
  | .stateFlit h fn m => execStateFlit_keeps hk h fn m
  | .doorbellFlit h fn entry v x => execDoorbellFlit_keeps hk h fn entry v x
  | .orderFlit h m rival => execOrderFlit_keeps hk h m rival
  | .flitReplayTimer => execFlitReplayTimer_keeps hk
  | .mirrorLinkTrained lanes => execMirrorLinkTrained_keeps hk lanes
  | .ackTimeout job => execAckTimeout_keeps hk job
  | .heartbeatTimeout => execHeartbeatTimeout_keeps hk
  | .takeoverRankWaitEnd => execTakeoverRankWaitEnd_keeps hk
  | .pairTakeSeen => execPairTakeSeen_keeps hk
  | .takeoverGuardEnd => execTakeoverGuardEnd_keeps hk
  | .mirCfgEnableWrite o => execMirCfgEnableWrite_keeps hk o
  | .mirCfgHandback o => execMirCfgHandback_keeps hk o
  | .mirCtrlRelease o => execMirCtrlRelease_keeps hk o
  | .mirCtrlResync o => execMirCtrlResync_keeps hk o
  | .mirCtrlClear o => execMirCtrlClear_keeps hk o
  | .mirFnMirroredWrite fn o => execMirFnMirroredWrite_keeps hk fn o
  | .fltCtrlClear o => execFltCtrlClear_keeps hk o
  | .sourceLoss src die pll => execSourceLoss_keeps hk src die pll
  | .sourceReady src => execSourceReady_keeps hk src
  | .clockOneShotExpiry => execClockOneShotExpiry_keeps hk
  | .pllRelockDone p => execPllRelockDone_keeps hk p
  | .clkPllWrite p o => execClkPllWrite_keeps hk p o
  | .clkCtrlMgmtSrcWrite o => execClkCtrlMgmtSrcWrite_keeps hk o
  | .clkCtrlRootWrite o => execClkCtrlRootWrite_keeps hk o
  | .clkCtrlHandback o => execClkCtrlHandback_keeps hk o
  | .clkGateWrite kind die o => execClkGateWrite_keeps hk kind die o
  | .gateOffEffect kind die => execGateOffEffect_keeps hk kind die
  | .clkDtctrlSet o => execClkDtctrlSet_keeps hk o
  | .clkDtctrlSetPps o => execClkDtctrlSetPps_keeps hk o
  | .timePpsEdge => execTimePpsEdge_keeps hk
  | .ppsLossTimeout => execPpsLossTimeout_keeps hk
  | .powerMeasure meas => execPowerMeasure_keeps hk meas
  | .thermalCheck die t => execThermalCheck_keeps hk die t
  | .thermalRestoreStep die t => execThermalRestoreStep_keeps hk die t
  | .thermalComparatorTrip die t => execThermalComparatorTrip_keeps hk die t
  | .pwrShedAssert => execPwrShedAssert_keeps hk
  | .pwrShedRelease => execPwrShedRelease_keeps hk
  | .shedDutyStep => execShedDutyStep_keeps hk
  | .shedRestoreStep => execShedRestoreStep_keeps hk
  | .shedWindowEnd mean => execShedWindowEnd_keeps hk mean
  | .shedAdviseExpiry => execShedAdviseExpiry_keeps hk
  | .pwrCtrlHandback o => execPwrCtrlHandback_keeps hk o
  | .powerGood => execPowerGood_keeps hk
  | .startUpStepDone step x => execStartUpStepDone_keeps hk step x
  | .startTimeout => execStartTimeout_keeps hk
  | .startRetry id => execStartRetry_keeps hk id
  | .perstNAssert => execPerstNAssert_keeps hk
  | .perstNRelease => execPerstNRelease_keeps hk
  | .powerFailTrip charged => execPowerFailTrip_keeps hk charged
  | .saveRestart => execSaveRestart_keeps hk
  | .railDip => execRailDip_keeps hk
  | .railRecovered => execRailRecovered_keeps hk
  | .pktDataAccess a => execPktDataAccess_keeps hk a
  | .pktUnlockWrite wide o => execPktUnlockWrite_keeps hk wide o
  | .pktUnlockselRelock o => execPktUnlockselRelock_keeps hk o
  | .pocketRead id => execPocketRead_keeps hk id
  | .pocketWrite id data => execPocketWrite_keeps hk id data
  | .pocketErase id => execPocketErase_keeps hk id
  | .pocketProtect id => execPocketProtect_keeps hk id
  | .chnCfgPecWrite o => execChnCfgPecWrite_keeps hk o
  | .vddAonGood => execVddAonGood_keeps hk
  | .bypassSwitchOpen => execBypassSwitchOpen_keeps hk
  | .chainHeartbeatToggle => execChainHeartbeatToggle_keeps hk
  | .chainSupervisorTimeout => execChainSupervisorTimeout_keeps hk
  | .identify x => execIdentify_keeps hk x
  | .assign x v => execAssign_keeps hk x v
  | .clearAddr x => execClearAddr_keeps hk x
  | .chainStatus x => execChainStatus_keeps hk x
  | .regRead x off => execRegRead_keeps hk x off
  | .regWrite x off v y => execRegWrite_keeps hk x off v y
  | .chainPocketRead x die page off count => execChainPocketRead_keeps hk x die page off count
  | .chainPocketWrite x die page off count data rival => execChainPocketWrite_keeps hk x die page off count data rival
  | .bypass x => execBypass_keeps hk x
  | .lastStatus x => execLastStatus_keeps hk x
  | .pairTakeReleased => execPairTakeReleased_keeps hk
  | .dieLinkRetrained link => execDieLinkRetrained_keeps hk link
  | .ppsErrorAbsorbed => execPpsErrorAbsorbed_keeps hk

theorem Inv.of_keeps {a t : State} (h : a.Keeps t) (hi : Inv a) : Inv t := by
  obtain ⟨-, -, hmem, hpocket, hfld⟩ := h
  exact ⟨hmem hi.mem, hpocket hi.pocket, hfld hi.fields⟩

/-- One step keeps the state as it stands once the command at the front has left the queue. -/
theorem step_keeps {s t : State} (h : step s = .next t) : State.Keeps { s with pending := s.pending.tail } t := by
  unfold step at h
  cases hp : s.pending with
  | nil =>
    rw [hp] at h
    have e : s.idle = t := Host.Outcome.next.inj h
    have hs : { s with pending := [].tail } = s := by rw [List.tail_nil, ← hp]
    rw [← e, hs]
    exact State.idle_keeps (State.Keeps.refl s)
  | cons c rest =>
    rw [hp] at h
    exact keeps_ofR h (exec_keeps (State.Keeps.refl _) c)

/-- Settles O54: a step keeps the canonical forms, the widths, the part and the queue's rest (`step_keeps`). -/
theorem stepKeepsInv : Obligations.StepKeepsInv := by
  intro s hi t h
  have hkeeps := step_keeps h
  have ⟨hpart, hpending, _⟩ := hkeeps
  exact ⟨Inv.of_keeps hkeeps ⟨hi.mem, hi.pocket, hi.fields⟩, hpart, hpending⟩

end Sys2Proof.Machine
end

section
/-!
PROOFS. Write accesses of registers (R6, R7, R11, R12, R430, R431, R433): what a bus cycle does, by the updates that
hardware makes in it, the rivals of the write, and its size.
-/

namespace Sys2Proof.Machine

/-! ## A cycle: the updates by hardware, then the writes (R11, R12) -/

theorem State.busCycle_of_no_update (s : State) (o : BusOrder) (hhw : o.hw = []) : s.busCycle o = s.busOrder o := by
  simp [State.busCycle, State.hwSetsBits, State.each, hhw]

/-! ## The ranking of the writes of a cycle (R430, R431, R433) -/

@[simp] theorem sameWrite_self (w : BusWr) : sameWrite w w = true := by simp [sameWrite]

theorem State.busOrder_alone (s : State) (o : BusOrder) (hl : s.doorbellLead o.w = none) (hr : o.rivals = []) :
    s.busOrder o = s.busWrite o.w := by
  simp [State.busOrder, State.each, busWinner, hl, hr]

theorem State.busOrder_outranked (s : State) (o : BusOrder) (r : BusWr) (hl : s.doorbellLead o.w = none) (hr : o.rivals = [r])
    (hne : sameWrite o.w r = false) (hrank : masterRank r.by' < masterRank o.w.by') :
    s.busOrder o = (s.superseded r.by' o.w.by' o.w.addr).busWrite r := by
  simp [State.busOrder, State.each, busWinner, hl, hr, hne, hrank]

theorem State.busOrder_outranks (s : State) (o : BusOrder) (r : BusWr) (hl : s.doorbellLead o.w = none) (hr : o.rivals = [r])
    (hne : sameWrite r o.w = false) (hrank : masterRank o.w.by' < masterRank r.by') :
    s.busOrder o = (s.superseded o.w.by' r.by' r.addr).busWrite o.w := by
  simp [State.busOrder, State.each, busWinner, hl, hr, hne, Nat.lt_asymm hrank]

theorem State.busOrder_doorbell (s : State) (o : BusOrder) (hl : (s.doorbellLead o.w).isSome = true) :
    s.busOrder o = s.busWrite (s.furthestBell o.w o.rivals) := if_pos hl

/-! ## One write access, by its size (R6, R7) -/

theorem State.busWrite_word (s : State) (w : BusWr) (hsize : w.size = 4) (haddr : w.addr % 4 = 0) :
    s.busWrite w = s.writeWord w.by' w.addr (w.data % 2 ^ 32) := by
  have hlast : (w.addr + 3) / 4 = w.addr / 4 := by omega
  have hword : 4 * (w.addr / 4) = w.addr := by omega
  cases hat : s.regAt w.by' w.addr <;>
    simp [State.busWrite, hat, hsize, hlast, hword, State.each]

theorem State.busWrite_whole (s : State) (w : BusWr) (a : RegAt) (hsize : w.size = 8) (haddr : w.addr % 8 = 0)
    (hat : s.regAt w.by' w.addr = some a) (hwidth : a.reg.info.width = 64) (hword : a.word = 0) :
    s.busWrite w = (s.setHolding w.by' w.addr none).regWrite w.by' a (w.data % 2 ^ 64) := by
  simp [State.busWrite, hat, hsize, haddr, hwidth, hword]

/-- A write narrower than a word covers no word, and each word that it touches is discarded (R7). -/
theorem State.busWrite_narrow (s : State) (w : BusWr) (hsize : w.size < 4) : s.busWrite w = s := by
  have hpart : ∀ k, ¬(w.addr ≤ 4 * k ∧ 4 * k + 4 ≤ w.addr + w.size) := by omega
  have hne : (w.size == 8) = false := beq_false_of_ne (by omega)
  cases hat : s.regAt w.by' w.addr <;>
    simp [State.busWrite, hat, hne, hpart, State.each, List.foldl_fixed']

/-! ## A write of one aligned word (R6) -/

theorem State.writeWord_of_width32 (s : State) (m : Master) (x v : Nat) (a : RegAt) (hat : s.regAt m x = some a)
    (hwidth : a.reg.info.width = 32) : s.writeWord m x v = s.regWrite m a v := by
  simp [State.writeWord, hat, hwidth]

theorem State.writeWord_lowWord (s : State) (m : Master) (x v : Nat) (a : RegAt) (hat : s.regAt m x = some a)
    (hwidth : a.reg.info.width = 64) (hword : a.word = 0) : s.writeWord m x v = s.setHolding m x (some v) := by
  simp [State.writeWord, hat, hwidth, hword]

theorem State.writeWord_highWord (s : State) (m : Master) (x v lo : Nat) (a : RegAt) (hat : s.regAt m x = some a)
    (hwidth : a.reg.info.width = 64) (hword : a.word ≠ 0) (hlo : s.holding m (x - 4) = some lo) :
    s.writeWord m x v = (s.setHolding m (x - 4) none).regWrite m a (lo + v * 2 ^ 32) := by
  simp [State.writeWord, hat, hwidth, hword, hlo]

@[simp] theorem State.holding_setHolding_same (s : State) (m : Master) (x : Nat) (v : Option Nat) :
    (s.setHolding m x v).holding m x = v := SMap.get_set_same _ _ _ _

theorem State.setHolding_onlyChanges (s : State) (m : Master) (x : Nat) (v : Option Nat) :
    OnlyChanges [.hold] s (s.setHolding m x v) := fun g hg =>
  State.setHolding_same (by simpa [State.setHolding_w] using hg) (Same.refl g s) m x v

/-! ## The registers CLK_DTSET and PWR_PKG_BUDGET (R6, R10) -/

/-- An accepted write that is no expert write is taken field by field, and then has its actions (R10, R14). -/
theorem State.plainReg_accepted (s : State) (r : Reg) (d i j v : Nat) (acts : State → State)
    (hacc : s.regAccepts r d i v = true) (hexp : s.expertWrite r d i j v = false) :
    s.plainReg r d i j v acts = acts (s.plain r d i j v) := by
  simp [State.plainReg, State.when, hacc, hexp]

theorem State.regAt_dtsetHigh (s : State) : s.regAt .pf (regAddr .CLK_DTSET + 4) = some ⟨.CLK_DTSET, 0, 0, 0, 1⟩ := rfl
theorem State.regAt_pkgBudget (s : State) : s.regAt .pf (regAddr .PWR_PKG_BUDGET) = some ⟨.PWR_PKG_BUDGET, 0, 0, 0, 0⟩ := rfl

theorem Field.of_dtset (v : Nat) : Field.CLK_DTSET_TIME.of v = v % 2 ^ 64 := congrArg (· % 2 ^ 64) (Nat.div_one v)

theorem Field.of_pkgBudget (v : Nat) : Field.PWR_PKG_BUDGET_WATTS.of v = v % 65536 := congrArg (· % 65536) (Nat.div_one v)

theorem State.regWrite_dtset (s : State) (m : Master) (k v : Nat) :
    s.regWrite m ⟨.CLK_DTSET, 0, 0, 0, k⟩ v = s.wr .CLK_DTSET_TIME (v % 2 ^ 64) := by
  rw [← Field.of_dtset]
  exact State.plainReg_accepted s .CLK_DTSET 0 0 0 v id rfl rfl

/-- PWR_PKG_BUDGET accepts every value but 0. -/
theorem State.regAccepts_pkgBudget (s : State) (d i v : Nat) (hv : v % 65536 ≠ 0) :
    s.regAccepts .PWR_PKG_BUDGET d i v = true := by
  have hrange : 1 ≤ Field.PWR_PKG_BUDGET_WATTS.of v ∧ Field.PWR_PKG_BUDGET_WATTS.of v ≤ 65535 := by
    rw [Field.of_pkgBudget]
    omega
  have hranges : rangesHold .PWR_PKG_BUDGET v = true :=
    (Bool.and_true _).trans (decide_eq_true hrange)
  rw [State.regAccepts, hranges]
  rfl

theorem State.regWrite_pkgBudget (s : State) (m : Master) (k v : Nat) (hv : v % 65536 ≠ 0) :
    s.regWrite m ⟨.PWR_PKG_BUDGET, 0, 0, 0, k⟩ v = s.wr .PWR_PKG_BUDGET_WATTS (v % 65536) := by
  rw [← Field.of_pkgBudget]
  exact State.plainReg_accepted s .PWR_PKG_BUDGET 0 0 0 v id (s.regAccepts_pkgBudget 0 0 v hv) rfl

/-! ## Updates by hardware (R11, R12) -/

theorem Field.width_pos (f : Field) : 0 < f.width := Nat.succ_pos _

theorem State.hwSet_bit (s : State) (u : HwSet) (a : RegAt) (f : Field) (hf : s.hwField u = some (a, f))
    (hacc : f.info.acc = .w1c) : s.hwSet u = s.wr f 1 a.d a.i a.j := by
  simp [State.hwSet, hf, hacc]

theorem State.hwSet_value (s : State) (u : HwSet) (a : RegAt) (f : Field) (hf : s.hwField u = some (a, f))
    (hacc : f.info.acc = .rw) : s.hwSet u = s.wr f u.value a.d a.i a.j := by
  simp [State.hwSet, hf, hacc]

/-- A W1C bit is set both before the write of the cycle and after it (R11). -/
theorem State.busCycle_bitSet (s : State) (o : BusOrder) (u : HwSet) (a : RegAt) (f : Field) (hhw : o.hw = [u])
    (hf : s.hwField u = some (a, f)) (hacc : f.info.acc = .w1c) : s.busCycle o = ((s.hwSet u).busOrder o).hwSet u := by
  simp [State.busCycle, State.hwSetsBits, State.each, hhw, hf, hacc]

theorem State.busCycle_fieldUpdated (s : State) (o : BusOrder) (u : HwSet) (a : RegAt) (f : Field) (hhw : o.hw = [u])
    (hf : s.hwField u = some (a, f)) (hacc : f.info.acc = .rw) : s.busCycle o = (s.hwSet u).busOrder o := by
  simp [State.busCycle, State.hwSetsBits, State.each, hhw, hf, hacc]

/-! ## REGISTER_WRITE -/

theorem does_registerWrite {s t : State} {o : BusOrder} {P : State → Prop} (hcycle : s.busCycle o = t) (hP : P t) :
    Does (.registerWrite o) s P := ⟨_, congrArg Host.Outcome.next hcycle, hP⟩

theorem State.busCycle_alone (s : State) (o : BusOrder) (hhw : o.hw = []) (hr : o.rivals = []) (hl : s.doorbellLead o.w = none) :
    s.busCycle o = s.busWrite o.w := by
  rw [s.busCycle_of_no_update o hhw, s.busOrder_alone o hl hr]

theorem State.busCycle_word (s : State) (o : BusOrder) (hhw : o.hw = []) (hr : o.rivals = []) (hl : s.doorbellLead o.w = none)
    (hsize : o.w.size = 4) (haddr : o.w.addr % 4 = 0) :
    s.busCycle o = s.writeWord o.w.by' o.w.addr (o.w.data % 2 ^ 32) := by
  rw [s.busCycle_alone o hhw hr hl, s.busWrite_word o.w hsize haddr]

theorem State.busCycle_dtsetHigh (s : State) (o : BusOrder) (l : Nat) (hhw : o.hw = []) (hr : o.rivals = [])
    (hl : s.doorbellLead o.w = none) (hby : o.w.by' = .pf) (hsize : o.w.size = 4) (haddr : o.w.addr = regAddr .CLK_DTSET + 4)
    (hlow : s.holding .pf (regAddr .CLK_DTSET) = some l) :
    s.busCycle o = (s.setHolding .pf (regAddr .CLK_DTSET) none).wr .CLK_DTSET_TIME
      ((l + o.w.data % 2 ^ 32 * 2 ^ 32) % 2 ^ 64) := by
  rw [s.busCycle_word o hhw hr hl hsize (haddr ▸ rfl), hby, haddr,
    s.writeWord_highWord .pf _ _ l _ s.regAt_dtsetHigh rfl Nat.one_ne_zero hlow, State.regWrite_dtset, Nat.add_sub_cancel]

theorem State.busCycle_pkgBudget (s : State) (o : BusOrder) (hhw : o.hw = []) (hr : o.rivals = [])
    (hl : s.doorbellLead o.w = none) (hby : o.w.by' = .pf) (hsize : o.w.size = 4) (haddr : o.w.addr = regAddr .PWR_PKG_BUDGET)
    (hdata : o.w.data % 65536 ≠ 0) :
    s.busCycle o = s.wr .PWR_PKG_BUDGET_WATTS (o.w.data % 2 ^ 32 % 65536) := by
  rw [s.busCycle_word o hhw hr hl hsize (haddr ▸ rfl), hby, haddr, s.writeWord_of_width32 .pf _ _ _ s.regAt_pkgBudget rfl]
  exact State.regWrite_pkgBudget s .pf 0 _ (by omega)

/-- Settles O48: each clause is the equation of the bus cycle that it describes, followed, where the clause reads a field, by that
read after a write. -/
theorem registerWrites : Obligations.RegisterWrites := by
  intro s o
  refine ⟨?word, ?low, ?whole, ?narrow, ?dtset, ?budget, ?outranked, ?outranks, ?doorbell, ?bit, ?value⟩
  case word =>
    intro a hhw hr hl hsize haddr hat hwidth
    exact does_registerWrite (s.busCycle_word o hhw hr hl hsize haddr) (s.writeWord_of_width32 _ _ _ a hat hwidth)
  case low =>
    intro a hhw hr hl hsize haddr hat hwidth hword
    have hheld := s.writeWord_lowWord o.w.by' o.w.addr (o.w.data % 2 ^ 32) a hat hwidth hword
    exact does_registerWrite ((s.busCycle_word o hhw hr hl hsize haddr).trans hheld)
      ⟨s.holding_setHolding_same _ _ _, s.setHolding_onlyChanges _ _ _⟩
  case whole =>
    intro a hhw hr hl hsize haddr hat hwidth hword
    exact does_registerWrite (s.busCycle_alone o hhw hr hl) (s.busWrite_whole o.w a hsize haddr hat hwidth hword)
  case narrow =>
    intro hhw hr hl hsize
    exact does_registerWrite (s.busCycle_alone o hhw hr hl) (s.busWrite_narrow o.w hsize)
  case dtset =>
    intro l hhw hr hl hby hsize haddr hlow hl32
    refine does_registerWrite (s.busCycle_dtsetHigh o l hhw hr hl hby hsize haddr hlow) ?_
    rw [State.rd_wr_same, show Field.CLK_DTSET_TIME.width = 64 from rfl]
    omega
  case budget =>
    intro hhw hr hl hby hsize haddr hdata
    refine does_registerWrite (s.busCycle_pkgBudget o hhw hr hl hby hsize haddr hdata) ?_
    rw [State.rd_wr_same, show Field.PWR_PKG_BUDGET_WATTS.width = 16 from rfl]
    omega
  case outranked =>
    intro r hhw hl hr hne hrank
    exact does_registerWrite (s.busCycle_of_no_update o hhw) (s.busOrder_outranked o r hl hr hne hrank)
  case outranks =>
    intro r hhw hl hr hne hrank
    exact does_registerWrite (s.busCycle_of_no_update o hhw) (s.busOrder_outranks o r hl hr hne hrank)
  case doorbell =>
    intro hhw hl
    exact does_registerWrite (s.busCycle_of_no_update o hhw) (s.busOrder_doorbell o hl)
  case bit =>
    intro u a f hhw hacc hf hafter
    refine does_registerWrite (s.busCycle_bitSet o u a f hhw hf hacc) ?_
    rw [State.hwSet_bit _ u a f hafter hacc, State.rd_wr_same]
    exact Nat.mod_eq_of_lt (Nat.one_lt_two_pow f.width_pos.ne')
  case value =>
    intro u a f hhw hacc hf
    refine does_registerWrite (s.busCycle_fieldUpdated o u a f hhw hf hacc) ?_
    rw [s.hwSet_value u a f hf hacc]

end Sys2Proof.Machine
end

section
/-!
PROOFS. Reads that latch (R32, R125, R535): what a 32-bit read of an aligned word is, and a read of a word that is latched.
-/

namespace Sys2Proof.Machine

/-- A 32-bit read is never the read of a 64-bit register whole. -/
theorem State.wholeRead_narrow (s : State) (m : Master) (x : Nat) : s.wholeRead m x 4 = none := by
  simp [State.wholeRead]

/-- A 32-bit read of an aligned word reads that word and no other. -/
theorem State.readAccess_word (s : State) (m : Master) {x : Nat} (hx : x % 4 = 0) :
    s.readAccess m x 4 = ((s.readWord m x).1 % 2 ^ 32, (s.readWord m x).2) := by
  have hcount : (x + 4 + 3) / 4 - x / 4 = 1 := by omega
  have hword : 4 * (x / 4) = x := by omega
  simp [State.readAccess, s.wholeRead_narrow, State.readWords, hcount, hword, hx]

/-- The registers that a read steps on or computes from a window, and that are never latched. -/
def isWindow (r : Reg) : Bool := r == .PKT_DATA || r == .CAL_TAB_DATA || r == .WFM_DATA

/-- A read of a word that the master has latched returns the latched value and changes nothing (R535). -/
theorem State.readWord_latched (s : State) (m : Master) {x v : Nat} {a : RegAt} (hat : s.regAt m x = some a)
    (hreg : isWindow a.reg = false) (hl : s.latch.get none (Nat.pair (masterKey m) x) = some v) :
    s.readWord m x = (v, s) := by
  simp only [isWindow, Bool.or_eq_false_iff, beq_eq_false_iff_ne] at hreg
  obtain ⟨⟨hpkt, htab⟩, hwfm⟩ := hreg
  simp [State.readWord, hat, hl, hpkt, htab, hwfm]

theorem State.readOut_latched (s : State) {m : Master} {x v : Nat} {a : RegAt} (hm : reachesPf m = true) (hx : x % 4 = 0)
    (hat : s.regAt m x = some a) (hreg : isWindow a.reg = false)
    (hl : s.latch.get none (Nat.pair (masterKey m) x) = some v) :
    s.readOut m x 4 = s.emit (.readData m x 4 (v % 2 ^ 32)) := by
  simp [State.readOut, hm, s.readAccess_word m hx, s.readWord_latched m hat hreg hl]

theorem State.latch_setLatch_same (s : State) (m : Master) (x v : Nat) :
    (s.setLatch m x v).latch.get none (Nat.pair (masterKey m) x) = some v := SMap.get_set_same none s.latch _ (some v)

/-- The state after reset, but with the low word of GLB_CAPACITY latched by the PF as 0. -/
def capacityLowLatched : State := State.reset.setLatch .pf (regAddr .GLB_CAPACITY) 0

theorem capacityLowLatched_read :
    exec (.glbCapacityLowRead .pf) capacityLowLatched =
      .next (capacityLowLatched.emit (.readData .pf (regAddr .GLB_CAPACITY) 4 0)) :=
  congrArg Host.Outcome.next
    (State.readOut_latched (a := ⟨.GLB_CAPACITY, 0, 0, 0, 0⟩) _ rfl rfl rfl rfl (State.latch_setLatch_same _ _ _ _))

/-- The two dies that the part has stand in the low word of GLB_CAPACITY (R31). -/
theorem capacityLowLatched_low : capacityLowLatched.regVal .GLB_CAPACITY % 2 ^ 32 ≠ 0 := by decide

/-- Refutes O17: the statement speaks of every state, also of one whose latch holds the low word of GLB_CAPACITY. The read then
returns the latched 0 in place of the register's low word, which shows the dies of the part. The model itself latches only high
words and counts (`latchRead`, `latchWide`), so the statement lacks the premise that the low word is not latched. -/
theorem not_latchingReads : ¬ Obligations.LatchingReads := by
  intro h
  obtain ⟨⟨t, hexec, hout, -⟩, -⟩ := h capacityLowLatched .pf rfl
  cases capacityLowLatched_read.symm.trans hexec
  have hdata : 0 = capacityLowLatched.regVal .GLB_CAPACITY % 2 ^ 32 := by
    simpa [State.emit] using hout
  exact capacityLowLatched_low hdata.symm

end Sys2Proof.Machine
end

section
/-!
PROOFS. What the writes of a die's or a tile's registers and the instructions of a task leave alone (R27, R81, R193): the
registers of other elements, operation by operation, and the tasks other than the one that issues.
-/

namespace Sys2Proof.Machine

/-! ## Registers of other elements -/

/-- Every register field of the elements that `P` names, by die and index, reads alike. -/
def SameWhere (P : Nat → Nat → Prop) (s t : State) : Prop := ∀ f d i j, P d i → t.rd f d i j = s.rd f d i j

theorem sameOtherDies_iff {d : Nat} {s t : State} : SameOtherDies d s t ↔ SameWhere (fun d' _ => d' ≠ d) s t := Iff.rfl

theorem sameOtherTiles_iff {d tile : Nat} {s t : State} :
    SameOtherTiles d tile s t ↔ SameWhere (fun d' i => ¬(d' = d ∧ i = tile)) s t := Iff.rfl

namespace SameWhere

variable {α : Type} {P : Nat → Nat → Prop} {a s : State} {d t : Nat}

theorem refl (P : Nat → Nat → Prop) (s : State) : SameWhere P s s := fun _ _ _ _ _ => rfl

theorem wr (h : SameWhere P a s) {d i : Nat} (hp : ¬P d i) (f : Field) (v j : Nat) : SameWhere P a (s.wr f v d i j) := by
  intro g d' i' j' hp'
  rw [State.rd_wr, if_neg, h g d' i' j' hp']
  rintro ⟨-, rfl, rfl, -⟩
  exact hp hp'

/-! Operations that write no register. -/

theorem setAx (h : SameWhere P a s) (x : Aux) (v d i j : Nat) : SameWhere P a (s.setAx x v d i j) := h

theorem updTile (h : SameWhere P a s) (d t : Nat) (f : TileSt → TileSt) : SameWhere P a (s.updTile d t f) := h

theorem setTab (h : SameWhere P a s) (d t tab i v : Nat) : SameWhere P a (s.setTab d t tab i v) := h

theorem dropTab (h : SameWhere P a s) (d t tab : Nat) : SameWhere P a (s.dropTab d t tab) := h

/-! Control. -/

theorem ite (c : Prop) [Decidable c] {x y : State} (hx : SameWhere P a x) (hy : SameWhere P a y) :
    SameWhere P a (if c then x else y) := by split <;> assumption

theorem each (h : SameWhere P a s) (l : List α) {f : State → α → State}
    (hf : ∀ s x, SameWhere P a s → SameWhere P a (f s x)) : SameWhere P a (s.each l f) := by
  induction l generalizing s with
  | nil => exact h
  | cons x l ih => exact ih (hf s x h)

theorem when (h : SameWhere P a s) (c : Bool) {f : State → State} (hf : SameWhere P a (f s)) :
    SameWhere P a (s.when c f) := by
  cases c
  · exact h
  · exact hf

/-- Queueing a calibration writes no register. -/
theorem queueCal (h : SameWhere P a s) (d t prio : Nat) : SameWhere P a (s.queueCal d t prio) := ite _ h (ite _ h h)

theorem calForMap (h : SameWhere P a s) (d t : Nat) : SameWhere P a (s.calForMap d t) := by
  cases hplace : s.placeOf d t with
  | none => simpa [State.calForMap, hplace] using h
  | some p =>
    simp only [State.calForMap, hplace]
    exact ite _ (h.queueCal d t 1) h

/-! ## Operations on the registers of one die -/

section Die

variable (hd : ∀ i, ¬P d i)
include hd

theorem wrEach (h : SameWhere P a s) (l : List Field) (v : Nat) : SameWhere P a (s.each l (fun s f => s.wr f v d)) :=
  h.each l fun _ f h => h.wr (hd 0) f v 0

theorem resetReg (h : SameWhere P a s) (r : Reg) (i : Nat) : SameWhere P a (s.resetReg r d i) :=
  h.each r.fields fun _ f h => h.wr (hd i) f _ 0

theorem dgaHold (h : SameWhere P a s) (v : Nat) : SameWhere P a (s.dgaHold d v) :=
  ite _ h ((h.wr (hd 0) _ _ _).wr (hd 0) _ _ _)

theorem dgaClear (h : SameWhere P a s) : SameWhere P a (s.dgaClear d) := ite _ h (wrEach hd h dgaCounters 0)

theorem dgaHandback (h : SameWhere P a s) : SameWhere P a (s.dgaHandback d) :=
  ite _ h ((h.wr (hd 0) _ _ _).wr (hd 0) _ _ _)

theorem memHandback (h : SameWhere P a s) : SameWhere P a (s.memHandback d) :=
  (resetReg hd (resetReg hd h _ 0) _ 0).wr (hd 0) _ _ _

theorem memCfg (h : SameWhere P a s) (v : Nat) : SameWhere P a (s.memCfg d v) := by
  refine ite _ (h.wr (hd 0) _ _ _) ?_
  have hexpert := ite (decide (v / 8 % 2 = s.rd .MEM_CFG_IECC d ∧ v / 4 % 2 = s.rd .MEM_CFG_LECC d ∧
    v % 4 = s.rd .MEM_CFG_RATE d) = true) h (h.wr (hd 0) .MEM_STAT_EXPERT 1 0)
  exact (((hexpert.wr (hd 0) _ _ _).wr (hd 0) _ _ _).wr (hd 0) _ _ _).setAx _ _ _ _ _

theorem bankRequest (h : SameWhere P a s) (b kind id : Nat) : SameWhere P a (s.bankRequest d b kind id) :=
  ite _ (ite _ ((h.wr (hd b) _ _ _).setAx _ _ _ _ _) h) ((h.wr (hd b) _ _ _).setAx _ _ _ _ _)

theorem bnkHandback (h : SameWhere P a s) : SameWhere P a (s.bnkHandback d) :=
  ((resetReg hd h _ 0).wr (hd 0) _ _ _).each _ fun _ b h => ite _ h (bankRequest hd h b _ _)

theorem prgClear (h : SameWhere P a s) : SameWhere P a (s.prgClear d) :=
  ((((h.wr (hd 0) _ _ _).wr (hd 0) _ _ _).wr (hd 0) _ _ _).wr (hd 0) _ _ _).wr (hd 0) _ _ _

theorem storeWrite (h : SameWhere P a s) (v : Nat) : SameWhere P a (s.storeWrite d v) :=
  ite _ (h.wr (hd 0) _ _ _) (h.wr (hd 0) _ _ _)

theorem seqHandback (h : SameWhere P a s) : SameWhere P a (s.seqHandback d) :=
  ite _ h (((h.wr (hd 0) _ _ _).wr (hd 0) _ _ _).wr (hd 0) _ _ _)

end Die

/-! ## Operations on the registers of one tile -/

section Tile

variable (ht : ¬P d t)
include ht

theorem wantHold (h : SameWhere P a s) (cause : Nat) : SameWhere P a (s.wantHold d t cause) :=
  ite _ ((h.wr ht _ _ _).setAx _ _ _ _ _) (ite _ (h.setAx _ _ _ _ _) h)

theorem wantJoin (h : SameWhere P a s) : SameWhere P a (s.wantJoin d t) :=
  have h := h.setAx .pendHold 0 d t 0
  ite _ (ite _ (h.wr ht _ _ _) (h.setAx _ _ _ _ _)) h

theorem tilHold (h : SameWhere P a s) (v : Nat) : SameWhere P a (s.tilHold d t v) :=
  have hset := (h.wr ht .TIL_STATUS_EXPERT 1 0).wr ht .TIL_CTRL_HOLD v 0
  ite _ h (ite _ (ite _ (ite _ (wantHold ht hset _) hset) (ite _ (wantHold ht hset _) hset))
    (ite _ (hset.setAx _ _ _ _ _) (ite _ (wantJoin ht hset) hset)))

theorem tilHandback (h : SameWhere P a s) : SameWhere P a (s.tilHandback d t) :=
  ite _ h ((((tilHold ht h 0).wr ht _ _ _).wr ht _ _ _).calForMap d t)

theorem setPrecision (h : SameWhere P a s) : SameWhere P a (s.setPrecision d t) :=
  ((h.wr ht _ _ _).updTile _ _ _).setAx _ _ _ _ _

theorem tilPrecision (h : SameWhere P a s) (v : Nat) : SameWhere P a (s.tilPrecision d t v) :=
  ite _ h (ite _ (h.wr ht _ _ _) (ite _ (setPrecision ht h) (h.wr ht _ _ _)))

theorem drvPend (h : SameWhere P a s) : SameWhere P a (s.drvPend d t) := h.wr ht _ _ _

theorem setDrive (h : SameWhere P a s) (v : Nat) : SameWhere P a (s.setDrive d t v) :=
  ite _ (drvPend ht (h.setAx _ _ _ _ _)) (drvPend ht (((h.wr ht _ _ _).wr ht _ _ _).setAx _ _ _ _ _))

theorem setSlew (h : SameWhere P a s) (v : Nat) : SameWhere P a (s.setSlew d t v) :=
  ite _ (drvPend ht (h.setAx _ _ _ _ _)) (drvPend ht (((h.wr ht _ _ _).wr ht _ _ _).setAx _ _ _ _ _))

theorem setRange (h : SameWhere P a s) (v : Nat) : SameWhere P a (s.setRange d t v) :=
  ite _ (h.setAx _ _ _ _ _) ((h.wr ht _ _ _).setAx _ _ _ _ _)

theorem setTaps (h : SameWhere P a s) (v : Nat) : SameWhere P a (s.setTaps d t v) :=
  ite _ ((h.setAx _ _ _ _ _).wr ht _ _ _) ((((h.wr ht _ _ _).wr ht _ _ _).setAx _ _ _ _ _).wr ht _ _ _)

/-- Results of a calibration go to the tables of the tile; of its registers, only HEM_TAPS follows. -/
theorem takeFull (h : SameWhere P a s) : SameWhere P a (s.takeFull d t) := by
  unfold State.takeFull
  refine ite _ h ?_
  extract_lets s₁ s₂ s₃
  have h₁ : SameWhere P a s₁ := ite _ h ((h.setTab _ _ _ _ _).setTab _ _ _ _ _)
  have h₂ : SameWhere P a s₂ := ite _ h₁ ((h₁.each _ fun _ r h => h.setTab _ _ _ r _).dropTab _ _ _)
  have h₃ : SameWhere P a s₃ :=
    (h₂.each _ fun _ k h => ite _ (h.setTab _ _ _ k _) ((h.setTab _ _ _ k _).setTab _ _ _ k _)).dropTab _ _ _
  exact ite _ h₃ ((setTaps ht h₃ _).setAx _ _ _ _ _)

theorem drvSlew (h : SameWhere P a s) (v : Nat) : SameWhere P a (s.drvSlew d t v) :=
  ite _ (h.wr ht _ _ _) (ite _ h (setSlew ht (h.wr ht _ _ _) v))

theorem drvHandback (h : SameWhere P a s) : SameWhere P a (s.drvHandback d t) :=
  takeFull ht ((setSlew ht (setDrive ht h _) _).wr ht _ _ _)

theorem hemCfg (h : SameWhere P a s) (v : Nat) : SameWhere P a (s.hemCfg d t v) :=
  have hstat := (h.wr ht .HEM_CFG_MSE_REF (v / 2) 0).wr ht .HEM_CFG_MSE_Q v 0
  ite _ hstat (setRange ht (hstat.setAx _ _ _ _ _) _)

theorem hemTaps (h : SameWhere P a s) (v : Nat) : SameWhere P a (s.hemTaps d t v) :=
  ite _ (h.wr ht _ _ _) (ite _ h (setTaps ht (h.setAx _ _ _ _ _) _))

theorem hemClear (h : SameWhere P a s) : SameWhere P a (s.hemClear d t) :=
  ((h.each _ fun _ f h => h.wr ht f 0 0).setAx _ _ _ _ _).setAx _ _ _ _ _

theorem hemHandback (h : SameWhere P a s) : SameWhere P a (s.hemHandback d t) :=
  takeFull ht ((((setRange ht h _).wr ht _ _ _).wr ht _ _ _).setAx _ _ _ _ _)

end Tile

/-! ## The writes -/

/-- The shape of every register write of a row of its own: without a rival, the order's operation acts on the state itself (R430). -/
theorem of_write {P : Nat → Nat → Prop} {s t : State} {c : Instr} {o : Order} {w : Bool} {obj : Nat}
    {f : State → Master → Nat → State} (h : exec c s = .next t)
    (hexec : exec c s = .next (if w then s.order o obj f else s)) (ho : Alone o) (hf : ∀ m v, SameWhere P s (f s m v)) :
    SameWhere P s t := by
  cases hexec.symm.trans h
  refine ite _ ?_ (refl P s)
  rw [s.order_alone ho]
  exact hf _ _

end SameWhere

/-- The listed writes of a die's registers, in the order of `dieWrites`. -/
theorem sameWhere_of_dieWrites {P : Nat → Nat → Prop} {d : Nat} {o : Order} {s t : State} (hd : ∀ i, ¬P d i) (ho : Alone o) :
    ∀ c ∈ dieWrites d o, exec c s = .next t → SameWhere P s t := by
  have hs := SameWhere.refl P s
  simp only [dieWrites, List.forall_mem_cons, List.not_mem_nil, IsEmpty.forall_iff, implies_true, and_true]
  exact ⟨
    fun h => .of_write h rfl ho fun _ v => hs.dgaHold hd v,
    fun h => .of_write h rfl ho fun _ _ => hs.when _ (hs.dgaClear hd),
    fun h => .of_write h rfl ho fun _ _ => hs.when _ (hs.dgaHandback hd),
    fun h => .of_write h rfl ho fun _ _ => hs.when _ ((hs.wr (hd 0) _ _ _).wr (hd 0) _ _ _),
    fun h => .of_write h rfl ho fun _ _ => hs.when _ (hs.wrEach hd _ 0),
    fun h => .of_write h rfl ho fun _ _ => hs.when _ (hs.memHandback hd),
    fun h => .of_write h rfl ho fun _ v => hs.memCfg hd v,
    fun h => .of_write h rfl ho fun _ _ => hs.when _ (hs.wrEach hd _ 0),
    fun h => .of_write h rfl ho fun _ _ => hs.when _ (hs.bnkHandback hd),
    fun h => .of_write h rfl ho fun _ _ => hs.when _ (hs.prgClear hd),
    fun h => .of_write h rfl ho fun _ v => hs.storeWrite hd v,
    fun h => .of_write h rfl ho fun _ _ => .ite _ (hs.seqHandback hd) hs⟩

/-- The listed writes of a tile's registers, in the order of `tileWrites`. -/
theorem sameWhere_of_tileWrites {P : Nat → Nat → Prop} {d tile : Nat} {o : Order} {s t : State} (ht : ¬P d tile) (ho : Alone o) :
    ∀ c ∈ tileWrites d tile o, exec c s = .next t → SameWhere P s t := by
  have hs := SameWhere.refl P s
  simp only [tileWrites, List.forall_mem_cons, List.not_mem_nil, IsEmpty.forall_iff, implies_true, and_true]
  exact ⟨
    fun h => .of_write h rfl ho fun _ v => hs.tilHold ht v,
    fun h => .of_write h rfl ho fun _ _ => hs.when _ (hs.tilHandback ht),
    fun h => .of_write h rfl ho fun _ v => hs.tilPrecision ht v,
    fun h => .of_write h rfl ho fun _ v => hs.drvSlew ht v,
    fun h => .of_write h rfl ho fun _ _ => hs.when _ (hs.drvHandback ht),
    fun h => .of_write h rfl ho fun _ v => hs.hemCfg ht v,
    fun h => .of_write h rfl ho fun _ v => hs.hemTaps ht v,
    fun h => .of_write h rfl ho fun _ _ => hs.when _ (hs.hemClear ht),
    fun h => .of_write h rfl ho fun _ _ => hs.when _ (hs.hemHandback ht)⟩

/-! ## Tasks other than the one that issues (R193) -/

theorem State.job_id {s : State} {id : Nat} {j : Job} (h : s.job id = some j) : j.id = id := by
  simpa using List.find?_some h

theorem Job.task_num {j : Job} {n : Nat} {t : Task} (h : j.task n = some t) : t.num = n := by
  simpa using List.find?_some h

theorem State.job_updJob (s : State) (id k : Nat) {f : Job → Job} (hf : ∀ j, (f j).id = j.id) :
    (s.updJob id f).job k = (s.job k).map (fun j => if j.id = id then f j else j) := by
  have hid : ((fun j : Job => j.id == k) ∘ fun j => if j.id = id then f j else j) = fun j => j.id == k := by
    funext j
    by_cases h : j.id = id <;> simp [h, hf]
  rw [State.job, State.updJob, List.find?_map, hid]
  rfl

theorem Job.task_updTask (j : Job) (n k : Nat) {f : Task → Task} (hf : ∀ t, (f t).num = t.num) :
    (j.updTask n f).task k = (j.task k).map (fun t => if t.num = n then f t else t) := by
  have hnum : ((fun t : Task => t.num == k) ∘ fun t => if t.num = n then f t else t) = fun t => t.num == k := by
    funext t
    by_cases h : t.num = n <;> simp [h, hf]
  rw [Job.task, Job.updTask, List.find?_map, hnum]
  rfl

theorem Job.task_updTask_other (j : Job) {n k : Nat} {f : Task → Task} (hf : ∀ t, (f t).num = t.num) (hk : k ≠ n) :
    (j.updTask n f).task k = j.task k := by
  rw [Job.task_updTask j n k hf]
  cases htask : j.task k with
  | none => rfl
  | some t => simp [Job.task_num htask, hk]

/-! Whatever an instruction writes of its task, the task's number stands. -/

theorem Task.setG_num (t : Task) (n v : Nat) : (t.setG n v).num = t.num := by
  unfold Task.setG
  split <;> rfl

theorem Task.setP_num (t : Task) (n : Nat) (b : Bool) : (t.setP n b).num = t.num := by
  unfold Task.setP
  split <;> rfl

theorem Task.setT_num (t : Task) (n : Nat) (x : TDesc) : (t.setT n x).num = t.num := rfl

theorem foldl_setP_num (l : List Nat) (b : Nat → Bool) (t : Task) : (l.foldl (fun t i => t.setP i (b i)) t).num = t.num := by
  induction l generalizing t with
  | nil => rfl
  | cons i l ih => rw [List.foldl_cons, ih, Task.setP_num]

theorem predOp_num (c : Ctx) (t : Task) : (predOp c t).num = t.num := by
  unfold predOp
  split
  case h_5 => exact t.setG_num _ _
  case h_6 => exact foldl_setP_num _ _ t
  all_goals exact t.setP_num _ _

/-- The context stands for an instruction of the job and the task that the reference names. -/
structure Ctx.IssuedBy (c : Ctx) (r : TaskRef) : Prop where
  job : c.job.id = r.job
  task : c.task.num = r.task

theorem State.ctx_issuedBy {s : State} {r : TaskRef} {c : Ctx} (h : s.ctx r = some c) : c.IssuedBy r := by
  unfold State.ctx at h
  split at h
  · cases h
  · next j hjob =>
    split at h
    · cases h
    · next x hx =>
      simp only at h
      split at h
      · cases h
      · split at h
        · cases h
        · cases h
          exact ⟨State.job_id hjob, Job.task_num (t := x) hx⟩

/-- Every task but the one that `r` names is the same. -/
def SameOtherTasks (r : TaskRef) (s t : State) : Prop :=
  ∀ q : TaskRef, (q.job, q.task) ≠ (r.job, r.task) → t.taskOf q = s.taskOf q

namespace SameOtherTasks

variable {r : TaskRef} {a s : State} {c : Ctx}

theorem refl (r : TaskRef) (s : State) : SameOtherTasks r s s := fun _ _ => rfl

theorem wr (h : SameOtherTasks r a s) (f : Field) (v d i j : Nat) : SameOtherTasks r a (s.wr f v d i j) := h

theorem ite (c : Prop) [Decidable c] {x y : State} (hx : SameOtherTasks r a x) (hy : SameOtherTasks r a y) :
    SameOtherTasks r a (if c then x else y) := by split <;> assumption

/-- A change of a job changes no task but those that it changes within the job. -/
theorem updJob (h : SameOtherTasks r a s) (id : Nat) {f : Job → Job} (hid : ∀ j, (f j).id = j.id)
    (htask : ∀ j k, (id, k) ≠ (r.job, r.task) → (f j).task k = j.task k) : SameOtherTasks r a (s.updJob id f) := by
  intro q hq
  rw [← h q hq, State.taskOf, State.taskOf, s.job_updJob id q.job hid]
  cases hjob : s.job q.job with
  | none => rfl
  | some j =>
    by_cases hj : j.id = id
    · have hqj : q.job = id := (State.job_id hjob).symm.trans hj
      simp [hj, htask j q.task (hqj ▸ hq)]
    · simp [hj]

theorem updTask (h : SameOtherTasks r a s) {f : Task → Task} (hf : ∀ t, (f t).num = t.num) :
    SameOtherTasks r a (s.updTask r.job r.task f) :=
  h.updJob _ (fun _ => rfl) fun j _ hk => j.task_updTask_other hf fun hn => hk (by rw [hn])

theorem setWait (h : SameOtherTasks r a s) {x : Task} (hx : x.num = r.task) (w : TWait) :
    SameOtherTasks r a (s.setWait r.job x w) := by
  unfold State.setWait
  rw [hx]
  exact (h.updTask (f := fun t => { t with wait := w, progress := s.now }) fun _ => rfl).wr _ _ _ _ _

section Issue

variable (hc : c.IssuedBy r)
include hc

theorem upd (h : SameOtherTasks r a s) {f : Task → Task} (hf : ∀ t, (f t).num = t.num) : SameOtherTasks r a (s.upd c f) := by
  rw [State.upd, hc.job, hc.task]
  exact h.updTask hf

theorem retire (h : SameOtherTasks r a s) {f : Task → Task} (hf : ∀ t, (f t).num = t.num) :
    SameOtherTasks r a (s.retire c f) := upd hc h hf

theorem jump (h : SameOtherTasks r a s) (pc : Nat) {f : Task → Task} (hf : ∀ t, (f t).num = t.num) :
    SameOtherTasks r a (s.jump c pc f) := upd hc h hf

/-- A task that stops at its boundary in the commit of its job (R220) stops no other. -/
theorem stopAgain (h : SameOtherTasks r a s) : SameOtherTasks r a (s.stopAgain c) := by
  unfold State.stopAgain
  rw [hc.job, hc.task]
  split
  · exact h
  · next j hjob =>
    split
    · exact h
    · rw [State.job_id hjob]
      have hmark := h.updJob r.job
        (f := fun j => { j with cpostAt := j.cpostAt.map (fun x => (x.1, x.2.1, x.2.2.filter (fun k => k != r.task))) })
        (fun _ => rfl) (fun _ _ _ => rfl)
      split
      · next x hx =>
        split
        · exact hmark.setWait (Job.task_num hx) _
        · exact hmark
      · exact hmark

end Issue

/-- An instruction changes no other task when its effect on the issuing task's context changes none. -/
theorem issue {row : Nat → Bool} {f : State → Ctx → State}
    (hf : ∀ s c, c.IssuedBy r → SameOtherTasks r a s → SameOtherTasks r a (f s c)) (h : SameOtherTasks r a s) :
    SameOtherTasks r a (s.issue r row f) := by
  unfold State.issue
  split
  · exact h
  · next c hctx =>
    have hc := State.ctx_issuedBy hctx
    have hpc := h.wr .SEQ_PC_PC c.task.pc c.task.die c.task.seq 0
    have hrun := ite (guardOff c.task c.w = true) (retire hc hpc (f := id) fun _ => rfl) (hf _ c hc hpc)
    exact ite _ h (ite _ (stopAgain hc hrun) hrun)

/-- The shape of every instruction that the model runs by `issue`. -/
theorem of_issue {t : State} {c : Instr} {row : Nat → Bool} {f : State → Ctx → State} (h : exec c s = .next t)
    (hexec : exec c s = .next (s.issue r row f))
    (hf : ∀ u c, c.IssuedBy r → SameOtherTasks r s u → SameOtherTasks r s (f u c)) : SameOtherTasks r s t := by
  cases hexec.symm.trans h
  exact issue hf (refl r s)

end SameOtherTasks

/-- The listed instructions, in the order of `taskInstructions`. -/
theorem sameOtherTasks_of_taskInstructions (r : TaskRef) {s t : State} :
    ∀ c ∈ taskInstructions r, exec c s = .next t → SameOtherTasks r s t := by
  simp only [taskInstructions, List.forall_mem_cons, List.not_mem_nil, IsEmpty.forall_iff, implies_true, and_true]
  exact ⟨
    fun h => .of_issue h rfl fun _ _ hc hu => hu.retire hc fun _ => rfl,
    fun h => .of_issue h rfl fun _ _ hc hu => hu.jump hc _ fun _ => rfl,
    fun h => .of_issue h rfl fun _ _ hc hu => .ite _ (hu.jump hc _ fun _ => rfl) (hu.retire hc fun _ => rfl),
    fun h => .of_issue h rfl fun _ _ hc hu => hu.retire hc fun t => t.setG_num _ _,
    fun h => .of_issue h rfl fun _ _ hc hu => hu.retire hc fun t => t.setG_num _ _,
    fun h => .of_issue h rfl fun _ _ hc hu => hu.retire hc fun t => t.setP_num _ _,
    fun h => .of_issue h rfl fun _ _ hc hu => hu.retire hc fun t => t.setP_num _ _,
    fun h => .of_issue h rfl fun _ c hc hu => hu.retire hc (predOp_num c),
    fun h => .of_issue h rfl fun _ _ hc hu => hu.retire hc fun t => t.setT_num _ _,
    fun h => .of_issue h rfl fun _ _ hc hu => hu.retire hc fun t => t.setG_num _ _,
    fun h => .of_issue h rfl fun _ _ hc hu => hu.retire hc fun t => t.setT_num _ _,
    fun h => .of_issue h rfl fun _ _ hc hu => hu.retire hc fun t => t.setT_num _ _,
    fun h => .of_issue h rfl fun _ _ hc hu => hu.retire hc fun t => t.setT_num _ _,
    fun h => .of_issue h rfl fun _ _ hc hu => hu.retire hc fun t => t.setG_num _ _⟩

/-- Settles O56: a write without a rival, and an issue, come down to operations that each write registers of their own die or tile
only, or the issuing task only. -/
theorem elementsOfCommands : Obligations.ElementsOfCommands := by
  refine ⟨fun d o s t ho c hc h => ?die, fun d tile o s t ho c hc h => ?tile, fun r s t => sameOtherTasks_of_taskInstructions r⟩
  case die => exact sameOtherDies_iff.2 (sameWhere_of_dieWrites (fun _ hne => hne rfl) ho c hc h)
  case tile => exact sameOtherTiles_iff.2 (sameWhere_of_tileWrites (fun hne => hne ⟨rfl, rfl⟩) ho c hc h)

end Sys2Proof.Machine
end

section
/-!
PROOFS. The reset values of the register tables (R81 and the tables named there; log entry 1).
-/

namespace Sys2Proof.Machine

/-- Nothing has been written after reset: a read gives the table's value. -/
theorem State.reset_rd (f : Field) (d i j : Nat) : State.reset.rd f d i j = fieldReset Part.px220 f d i j := rfl

theorem tableResets_fieldReset (d i j : Nat) :
    tableResets.map (fun e => fieldReset Part.px220 e.1 d i j) = tableResets.map Prod.snd := rfl

/-- Settles O59: a read after reset gives the table's value, and the table gives what the statement lists. -/
theorem resetValues : Obligations.ResetValues := by
  refine ⟨fun e he d i j => ?table, fun d i j => ?part, fun d i j => ?tiles⟩
  case table =>
    rw [State.reset_rd]
    exact List.map_inj_left.1 (tableResets_fieldReset d i j) e he
  case part => exact ⟨rfl, rfl, rfl⟩
  case tiles => exact State.reset_rd ..

end Sys2Proof.Machine
end

section
/-!
PROOFS. The controls of a tile, and the tests and failures of spare and record tiles (R58, R59, R60, R70, R76, R77, R82): what
the state of a tile is after its changes, what the requests of the programming queue ask for, and what each field of TIL_CTRL does.
-/

namespace Sys2Proof.Machine

variable {d t : Nat}

/-! ## The state of a tile (R55) -/

theorem State.tst_wr (s : State) (d t v d' t' : Nat) :
    (s.wr .TIL_STATUS_STATE v d t).tst d' t' = if d' = d ∧ t' = t then v % 2 ^ 4 else s.tst d' t' := by
  simp only [State.tst, State.rd_wr, true_and, and_true]
  rfl

theorem State.tst_wr_field (s : State) {f : Field} (h : f ≠ .TIL_STATUS_STATE) (v d i j d' t' : Nat) :
    (s.wr f v d i j).tst d' t' = s.tst d' t' := s.rd_wr_field h.symm ..

/-- GLB_CAPACITY and SPARES_LOW follow a change of a tile's state, and leave the states of the tiles alone (R31, R47, R79). -/
theorem State.setTst_same_wr (s : State) (d t st : Nat) :
    Same (.fld .TIL_STATUS_STATE) (s.wr .TIL_STATUS_STATE st d t) (s.setTst d t st) :=
  same_ite (State.sparesLow_same rfl (State.capUpdate_same rfl (.refl _ _)) d) (.refl _ _)

theorem State.tst_setTst (s : State) (d t st d' t' : Nat) :
    (s.setTst d t st).tst d' t' = if d' = d ∧ t' = t then st % 2 ^ 4 else s.tst d' t' :=
  (s.setTst_same_wr d t st d' t' 0).trans (s.tst_wr ..)

/-! ## Retirement without a replacement (R73, R77, R82) -/

theorem State.retireDone_retire {s : State} (h : s.rd .TIL_CTRL_RETIRE d t = 0) (n t' : Nat) :
    (s.retireDone d t' n).rd .TIL_CTRL_RETIRE d t = 0 := by
  induction n generalizing s t' with
  | zero => exact h
  | succ n ih =>
    simp only [State.retireDone]
    split
    · exact h
    · exact ih (by simp [State.rd_wr, h]) _

/-- What follows the change of the tile's state in a retirement changes no tile's state. -/
theorem State.markRetired_none_tst (s : State) (d t cause : Nat) : (s.markRetired d t none cause).tst d t = tsRetired := by
  have hafter : ∃ u : State, Same (.fld .TIL_STATUS_STATE) (u.setTst d t tsRetired) (s.markRetired d t none cause) := by
    apply Exists.intro
    apply State.event_same rfl
    apply State.capUpdate_same rfl
    apply wr_same rfl
    apply State.roundTileDone_same rfl
    apply State.noSlot_same rfl
    apply State.retireDone_same rfl
    apply wr_same rfl
    apply setAx_same rfl
    apply setAx_same rfl
    apply setAx_same rfl
    apply State.takePending_same rfl
    exact .refl _ _
  obtain ⟨u, hu⟩ := hafter
  exact (hu d t 0).trans ((u.tst_setTst ..).trans (if_pos ⟨rfl, rfl⟩))

theorem State.markRetired_none_retire (s : State) (d t cause : Nat) :
    (s.markRetired d t none cause).rd .TIL_CTRL_RETIRE d t = 0 := by
  have hafter : ∃ u : State, Same (.fld .TIL_CTRL_RETIRE) ((u.wr .TIL_CTRL_RETIRE 0 d t).retireDone d t 1664)
      (s.markRetired d t none cause) := by
    apply Exists.intro
    apply State.event_same rfl
    apply State.capUpdate_same rfl
    apply wr_same rfl
    apply State.roundTileDone_same rfl
    apply State.noSlot_same rfl
    exact .refl _ _
  obtain ⟨u, hu⟩ := hafter
  exact (hu d t 0).trans (State.retireDone_retire (u.rd_wr_same ..) ..)

/-! ## A record tile that fails while a spare tile is free (R76) -/

/-- Spare tile `n` takes the place of record tile `t`, before any event tells of it. -/
def State.recordMoved (s : State) (d t n : Nat) : State :=
  (((((s.takeSpare d n).wr .TIL_STATUS_STATE tsRetired d t).setTst d n tsRecord).noSlot d n).setAx .recRole (n + 1) d
    ((s.roleOf d t).getD 0)).wr .TIL_STATUS_REPLACES t d n

theorem State.recordFails_same_recordMoved {g : Piece} {s : State} {n : Nat} (hevent : State.event_w g = false)
    (hlost : State.entriesLost_w g = false) (hspare : s.freeSpare d = some n) (t cause : Nat) (cells : List (Nat × Nat)) :
    Same g (s.recordMoved d t n) (s.recordFails d t cause cells) := by
  have hlists : ∀ (e : Nat) (l : List Nat),
      Same g (s.recordMoved d t n) (((s.recordMoved d t n).event 0x07 d sevNotice e).each l fun u k => u.entriesLost d k) :=
    fun e l => State.each_same (State.event_same hevent (.refl _ _) ..) _ _ fun _ _ hu => State.entriesLost_same hlost hu ..
  simp only [State.recordFails, hspare]
  exact same_ite (State.recordLost_same hevent (hlists _ _) ..) (hlists _ _)

theorem State.recordMoved_tst (s : State) (d t n t' : Nat) :
    (s.recordMoved d t n).tst d t' = if t' = n then tsRecord else if t' = t then tsRetired else (s.takeSpare d n).tst d t' := by
  have hafter : Same (.fld .TIL_STATUS_STATE) (((s.takeSpare d n).wr .TIL_STATUS_STATE tsRetired d t).setTst d n tsRecord)
      (s.recordMoved d t n) :=
    wr_same rfl (setAx_same rfl (State.noSlot_same rfl (.refl _ _) ..) ..) ..
  refine (hafter d t' 0).trans ((State.tst_setTst ..).trans ?_)
  rw [State.tst_wr]
  simp only [true_and]
  rfl

theorem State.recordMoved_replaces (s : State) (d t n : Nat) : (s.recordMoved d t n).rd .TIL_STATUS_REPLACES d n = t % 2048 :=
  State.rd_wr_same ..

/-! ## The programming queue (R307, R308) -/

/-- What a request asks for: the tile, and the work on it. -/
def PReq.asks (r : PReq) : Nat × Nat × Nat × Bool × PWhat := (r.die, r.tile, r.kind, r.clearFirst, r.what)

/-- What the requests of the queue ask for, in their order. -/
def State.asked (s : State) : List (Nat × Nat × Nat × Bool × PWhat) := s.progq.map PReq.asks

theorem State.asked_of_same {a s : State} (h : Same .progq a s) : s.asked = a.asked := congrArg (List.map PReq.asks) h

theorem State.asked_updReq (s : State) (no : Nat) {f : PReq → PReq} (hf : ∀ r, (f r).asks = r.asks) :
    (s.updReq no f).asked = s.asked := by
  simp only [State.asked, State.updReq, List.map_map]
  refine List.map_congr_left fun r _ => ?_
  by_cases h : r.no = no <;> simp [h, hf]

theorem State.asked_feedQueue (s : State) (d : Nat) : (s.feedQueue d).asked = s.asked := by
  simp only [State.asked, State.feedQueue, State.wr_progq, List.map_map]
  refine List.map_congr_left fun r _ => ?_
  simp only [Function.comp]
  split <;> rfl

/-- A request that waits for its image still stands in the queue (R75). -/
theorem State.asked_waitImage (s : State) (r : PReq) : (s.waitImage r).asked = s.asked := by
  have hmark := s.asked_updReq r.no (f := fun r => { r with wait := true }) fun _ => rfl
  refine .trans (State.asked_of_same ?_) hmark
  unfold State.waitImage
  apply State.imageNeeded_same rfl
  exact same_ite (wr_same rfl (.refl _ _) ..) (same_ite (setAx_same rfl (.refl _ _) ..) (.refl _ _))

theorem State.asked_ite (c : Prop) [Decidable c] {s u v : State} (hu : u.asked = s.asked) (hv : v.asked = s.asked) :
    (if c then u else v).asked = s.asked := by split <;> assumption

/-- A request that an engine takes still stands in the queue. -/
theorem State.asked_startReq (s : State) (r : PReq) (n : Nat) : (s.startReq r n).asked = s.asked := by
  refine State.asked_ite _ (s.asked_waitImage r) ?_
  have hshown : ∀ u : State, ((u.showEngine r.die n r.shown r.tile r.kind).enterProg r).asked = u.asked := fun u =>
    State.asked_of_same (State.enterProg_same rfl (State.showEngine_same rfl (.refl _ _) ..) _)
  refine (hshown _).trans ((State.asked_updReq _ _ ?_).trans (State.asked_of_same ?_))
  · exact fun _ => rfl
  · split
    · exact same_ite (State.useImage_same rfl (.refl _ _) _) (.refl _ _)
    · exact .refl _ _

theorem State.asked_each {α : Type} (s : State) (l : List α) {f : State → α → State} (hf : ∀ s x, (f s x).asked = s.asked) :
    (s.each l f).asked = s.asked := by
  induction l generalizing s with
  | nil => rfl
  | cons x l ih => exact (ih (f s x)).trans (hf s x)

/-- Engines take requests, and none leaves the queue. -/
theorem State.asked_pump (s : State) (d : Nat) : (s.pump d).asked = s.asked := by
  unfold State.pump
  rw [State.asked_feedQueue]
  refine (State.asked_each _ _ fun s n => ?_).trans (s.asked_feedQueue d)
  split
  · rfl
  · split
    · rfl
    · exact s.asked_startReq ..

theorem State.asked_progPush (s : State) (r : PReq) : (s.progPush r).asked = s.asked ++ [r.asks] := by
  have hadd : ∀ n, (({ s with progq := s.progq ++ [{ r with no := n, queued := false, engine := none }] } : State).setAx
      .progCount (n + 1)).asked = s.asked ++ [r.asks] := fun n => List.map_append
  refine (State.asked_pump _ _).trans (.trans ?_ (hadd (s.ax .progCount)))
  exact State.asked_ite _ (State.asked_waitImage ..) rfl

/-! ## The test of spare tiles (R77) -/

/-- The spare tiles that a test of the tiles that are due takes. -/
def State.sparesDue (s : State) (d : Nat) (tiles : List Nat) : List Nat :=
  (s.spareTiles d).filter (fun t => tiles.contains t && !s.rdb .TIL_STATUS_EXPERT d t &&
    !(s.progq.any (fun r => r.die == d && r.tile == t)))

theorem State.mem_sparesDue {s : State} {tiles : List Nat} (ht : t < 1664) (hdue : t ∈ tiles) (hspare : s.tst d t = tsSpare)
    (hfirmware : s.rd .TIL_STATUS_EXPERT d t = 0) (hfree : s.progq.any (fun r => r.die == d && r.tile == t) = false) :
    t ∈ s.sparesDue d tiles := by
  have hspares : t ∈ s.spareTiles d := List.mem_filter.2 ⟨List.mem_range.2 ht, by simpa using hspare⟩
  refine List.mem_filter.2 ⟨hspares, ?_⟩
  rw [hfree]
  simp [State.rdb, hdue, hfirmware]

/-- Each spare tile that is due has its test, by clear and verify, at the end of the queue (R77, R307). -/
theorem State.asked_spareTest (s : State) (d : Nat) (tiles : List Nat) :
    (s.spareTest d tiles).asked = s.asked ++ (s.sparesDue d tiles).map fun t => (d, t, 4, true, .verify) := by
  unfold State.spareTest
  rw [← State.sparesDue]
  generalize s.sparesDue d tiles = l
  induction l generalizing s with
  | nil => exact (List.append_nil _).symm
  | cons t l ih =>
    rw [State.each_cons, ih, State.asked_progPush, List.map_cons, List.append_assoc]
    rfl

theorem State.spareTest_request {s : State} {tiles : List Nat} (hdue : t ∈ s.sparesDue d tiles) :
    ∃ r ∈ (s.spareTest d tiles).progq, r.die = d ∧ r.tile = t ∧ r.kind = 4 ∧ r.clearFirst = true ∧ r.what = .verify := by
  have hmem : (d, t, 4, true, .verify) ∈ (s.spareTest d tiles).asked := by
    rw [State.asked_spareTest]
    exact List.mem_append_right _ (List.mem_map_of_mem hdue)
  obtain ⟨r, hr, hasks⟩ := List.mem_map.1 hmem
  simp only [PReq.asks, Prod.mk.injEq] at hasks
  exact ⟨r, hr, hasks⟩

/-! ## TIL_CTRL -/

theorem does_guarded {c : Instr} {s u : State} {b : Prop} [Decidable b] {P : State → Prop}
    (hexec : exec c s = .next (if b then u else s)) (hb : b) (hP : P u) : Does c s P :=
  ⟨_, hexec, by rwa [if_pos hb]⟩

/-- A write of a register of an online tile, without a rival, has its operation act on the state itself (R430). -/
theorem does_tileWrite {c : Instr} {s : State} {o : Order} {obj : Nat} {f : State → Master → Nat → State} {P : State → Prop}
    (hexec : exec c s = .next (if s.tileWindow d t then s.order o obj f else s)) (hw : s.tileWindow d t = true) (ho : Alone o)
    (hP : P (f s o.w.by' o.w.v)) : Does c s P :=
  does_guarded hexec hw (by rwa [s.order_alone ho])

/-- The tile after an accepted write of HOLD, before what the write makes of its seam. -/
def State.holdWritten (s : State) (d t v : Nat) : State := (s.tilExpert d t).wr .TIL_CTRL_HOLD v d t

theorem State.holdWritten_hold (s : State) (d t v : Nat) : (s.holdWritten d t v).rd .TIL_CTRL_HOLD d t = v % 2 :=
  State.rd_wr_same ..

theorem State.holdWritten_expert (s : State) (d t v : Nat) : (s.holdWritten d t v).rd .TIL_STATUS_EXPERT d t = 1 :=
  (State.rd_wr_field _ (by decide) ..).trans (State.rd_wr_same ..)

theorem State.holdWritten_tst (s : State) (d t v : Nat) : (s.holdWritten d t v).tst d t = s.tst d t :=
  (State.tst_wr_field _ (by decide) ..).trans (State.tst_wr_field _ (by decide) ..)

section

variable {s : State} {v : Nat}

/-- HOLD set on a SERVING tile: it waits for a seam of its slot (R56, R58). -/
theorem State.tilHold_set (htst : s.tst d t = tsServing) (hhold : s.rd .TIL_CTRL_HOLD d t = 0) (hpend : s.ax .pendHold d t = 0)
    (hv : v % 2 = 1) : s.tilHold d t v = (s.holdWritten d t v).setAx .pendHold (1 + hcExpert) d t := by
  simp [State.tilHold, State.wantHold, State.tilExpert, State.tst_wr_field, State.holdWritten, htst, hhold, hpend, hv]

/-- HOLD cleared on a tile that still waits for its seam (R58). -/
theorem State.tilHold_clear (htst : s.tst d t = tsServing) (hhold : s.rd .TIL_CTRL_HOLD d t = 1)
    (hpend : s.ax .pendHold d t = 1 + hcExpert) (hv : v % 2 = 0) :
    s.tilHold d t v = (s.holdWritten d t v).setAx .pendHold 0 d t := by
  simp [State.tilHold, State.tilExpert, State.holdWritten, htst, hhold, hpend, hv]

/-- A write of 1 to PRECISION of a FREE tile stands, where the die has room for it (R59). -/
theorem State.tilPrecision_free (htst : s.tst d t = tsFree) (hroom : s.precisionRoom d t = true) (hv : v % 2 = 1) :
    (s.tilPrecision d t v).rd .TIL_CTRL_PRECISION d t = 1 := by
  by_cases hsame : s.rd .TIL_CTRL_PRECISION d t = 1
  · simp [State.tilPrecision, hv, hsame]
  · have hset : s.tilPrecision d t v = s.setPrecision d t := by
      simp [State.tilPrecision, State.inPipe, htst, hroom, hv, Ne.symm hsame]
    rw [hset]
    exact State.rd_wr_same s .TIL_CTRL_PRECISION 1 d t 0

theorem State.tilPrecision_refused (hne : v % 2 ≠ s.rd .TIL_CTRL_PRECISION d t)
    (hwhy : s.inPipe d t = true ∨ v % 2 = 1 ∧ (s.tst d t = tsSpare ∨ s.tst d t = tsRecord ∨ s.precisionRoom d t = false)) :
    s.tilPrecision d t v = s.wr .TIL_STATUS_REFUSED 1 d t := by
  have hrefused : (s.inPipe d t || (v % 2 == 1 && (!s.precisionRoom d t || s.tst d t == tsSpare || s.tst d t == tsRecord ||
      s.tst d t == tsRetired))) = true := by
    obtain hpipe | ⟨hv, hspare | hrecord | hroom⟩ := hwhy
    · simp [hpipe]
    · simp [hv, hspare]
    · simp [hv, hrecord]
    · simp [hv, hroom]
  exact (if_neg hne).trans (if_pos hrefused)

theorem State.tilRetire_spare (htst : s.tst d t = tsSpare) (hretire : s.rd .TIL_CTRL_RETIRE d t = 0) :
    s.tilRetire d t = ((((s.tilExpert d t).wr .TIL_CTRL_RETIRE 1 d t).takeSpare d t).rehome d t).markRetired d t none 8 := by
  have hacts : ¬(s.tst d t = tsRetired ∨ s.rdb .TIL_CTRL_RETIRE d t = true) := by simp [State.rdb, htst, hretire]
  exact (if_neg hacts).trans (if_pos htst)

/-- After HANDBACK the tile may be queued for a calibration, which writes no register. -/
theorem State.tilHandback_same_wr {f : Field} (htst : s.tst d t ≠ tsRetired) :
    Same (.fld f) (((s.tilHold d t 0).wr .TIL_CHECK_TOL 16 d t).wr .TIL_STATUS_EXPERT 0 d t) (s.tilHandback d t) := by
  rw [State.tilHandback, if_neg htst]
  exact State.calForMap_same rfl (.refl _ _) ..

end

/-- Settles O15: each clause is the equation of its write of TIL_CTRL, or what the test, the retirement or the failure of a tile leaves
in the programming queue and in the states of the tiles, read field by field. -/
theorem tileControls : Obligations.TileControls := by
  intro s d t
  refine ⟨?holdSet, ?holdClear, ?precision, ?refused, ?retire, ?handback, ?spareTest, ?recordFails⟩
  case holdSet =>
    intro o hw ho hv htst hhold hpend
    refine does_tileWrite rfl hw ho ?_
    rw [State.tilHold_set htst hhold hpend hv]
    exact ⟨(s.holdWritten_hold d t o.w.v).trans hv, (s.holdWritten_tst d t o.w.v).trans htst, State.ax_setAx_same ..,
      s.holdWritten_expert d t o.w.v⟩
  case holdClear =>
    intro o hw ho hv htst hhold hpend
    refine does_tileWrite rfl hw ho ?_
    rw [State.tilHold_clear htst hhold hpend hv]
    exact ⟨(s.holdWritten_hold d t o.w.v).trans hv, State.ax_setAx_same .., s.holdWritten_expert d t o.w.v⟩
  case precision =>
    exact fun o hw ho hv htst hroom => does_tileWrite rfl hw ho (State.tilPrecision_free htst hroom hv)
  case refused =>
    intro o hw ho hne hwhy
    refine does_tileWrite rfl hw ho ?_
    rw [State.tilPrecision_refused hne hwhy]
    exact ⟨s.rd_wr_field (by decide) .., s.rd_wr_same ..⟩
  case retire =>
    intro o hw ho hv htst hretire
    refine does_tileWrite rfl hw ho ?_
    simp only [hv, State.tilRetire_spare htst hretire, beq_self_eq_true, State.when_true]
    exact ⟨State.markRetired_none_tst .., State.markRetired_none_retire ..⟩
  case handback =>
    intro o hw ho hv htst
    refine does_tileWrite rfl hw ho ?_
    simp only [hv, beq_self_eq_true, State.when_true]
    exact ⟨(State.tilHandback_same_wr htst d t 0).trans (State.rd_wr_same ..),
      (State.tilHandback_same_wr htst d t 0).trans ((State.rd_wr_field _ (by decide) ..).trans (State.rd_wr_same ..))⟩
  case spareTest =>
    intro l hon ht hdue hspare hfirmware hfree
    exact does_guarded rfl hon (State.spareTest_request (State.mem_sparesDue ht hdue hspare hfirmware hfree))
  case recordFails =>
    intro l g n hon htst hspare hn
    refine does_guarded rfl ⟨hon, htst⟩ ?_
    have hstate := State.recordFails_same_recordMoved (g := .fld .TIL_STATUS_STATE) rfl rfl hspare t 7 (l.zip g)
    have hreplaces := State.recordFails_same_recordMoved (g := .fld .TIL_STATUS_REPLACES) rfl rfl hspare t 7 (l.zip g)
    refine ⟨(hstate d t 0).trans ?_, (hstate d n 0).trans ?_, (hreplaces d n 0).trans (s.recordMoved_replaces ..)⟩
    · exact (s.recordMoved_tst ..).trans ((if_neg hn.symm).trans (if_pos rfl))
    · exact (s.recordMoved_tst ..).trans (if_pos rfl)

end Sys2Proof.Machine
end

section
/-!
PROOFS. Taps of a tile under full calibration (R110, R340): a write of HEM_TAPS waits for the end of it, outside the pipeline too.
-/

namespace Sys2Proof.Machine

variable {s : State} {d t : Nat}

theorem exec_hemTapsWrite {o : Order} (hw : s.tileWindow d t = true) (ho : Alone o) :
    exec (.hemTapsWrite d t o) s = .next (s.hemTaps d t o.w.v) :=
  congrArg Host.Outcome.next ((if_pos hw).trans (s.order_alone ho ..))

theorem State.setTaps_of_fullRuns (hfull : s.fullRuns d t = true) (v : Nat) :
    s.setTaps d t v = (s.setAx .pendTaps (1 + v % 4096) d t).wr .HEM_TAPS_PEND 1 d t :=
  if_pos (by simp [hfull])

/-- A write of HEM_TAPS during a full calibration of the tile leaves the window taps as they are (R340). -/
theorem State.hemTaps_wstop_of_fullRuns (hfull : s.fullRuns d t = true) (v : Nat) :
    (s.hemTaps d t v).rd .HEM_TAPS_WSTOP d t = s.rd .HEM_TAPS_WSTOP d t := by
  unfold State.hemTaps
  split
  case isTrue => exact s.rd_wr_field (by decide) ..
  case isFalse =>
    split
    case isTrue => rfl
    case isFalse =>
      have hfull' : (s.hemExpert d t).fullRuns d t = true := hfull
      rw [State.setTaps_of_fullRuns hfull']
      exact State.rd_wr_field _ (by decide) ..

/-- A part whose die 0 is online, and whose STAGED tile 0 is under full calibration. -/
def stagedTileCalibrates : State :=
  { (State.reset.wr .GLB_CAPACITY_DIE_ONLINE 1).wr .TIL_STATUS_STATE tsStaged with
    cals := [{ die := 0, tile := 0, full := true, left := 512, op := none, since := 0, codes := [] }] }

theorem stagedTileCalibrates_tileWindow : stagedTileCalibrates.tileWindow 0 0 = true := by decide
theorem stagedTileCalibrates_fullRuns : stagedTileCalibrates.fullRuns 0 0 = true := by decide
theorem stagedTileCalibrates_inPipe : stagedTileCalibrates.inPipe 0 0 = false := by decide
theorem stagedTileCalibrates_tapsNow : stagedTileCalibrates.tapsNow 0 0 = 20 * 64 + 20 := by decide
theorem stagedTileCalibrates_wstop : stagedTileCalibrates.rd .HEM_TAPS_WSTOP = 20 := by decide

/-- Refutes O16: the clause on HEM_TAPS outside the pipeline says that accepted taps are taken at once, of every tile that is neither
SERVING nor HELD. A STAGED tile may be under full calibration, during which its coefficients hold (R340): a write of taps 0 and 0 then
waits, and WSTOP keeps its 20. The clause lacks the premise that no full calibration of the tile runs. -/
theorem not_driversAndHems : ¬ Obligations.DriversAndHems := by
  intro h
  obtain ⟨-, -, -, -, -, -, -, -, -, htaps, -⟩ := h stagedTileCalibrates 0 0 ⟨⟨.pf, 0⟩, []⟩ stagedTileCalibrates_tileWindow rfl
  obtain ⟨u, hexec, hwstop, -⟩ :=
    htaps (by decide) (by decide) (by rw [stagedTileCalibrates_tapsNow]; decide) stagedTileCalibrates_inPipe
  cases (exec_hemTapsWrite stagedTileCalibrates_tileWindow rfl).symm.trans hexec
  rw [State.hemTaps_wstop_of_fullRuns stagedTileCalibrates_fullRuns, stagedTileCalibrates_wstop] at hwstop
  exact absurd hwstop (by decide)

end Sys2Proof.Machine
end

section
/-!
PROOFS. The waveform window and the players (R97, R98, R100, R101, R102, R104, R105): which playback a player has, what the end of a
playback leaves, and what a start and the next point make of a playback that may run.
-/

namespace Sys2Proof.Machine

variable {d n : Nat} {s : State}

/-! ## Orders -/

/-- A write of a register without a rival has its operation act on the state itself (R430). -/
theorem does_aloneWrite {c : Instr} {o : Order} {w : Bool} {obj : Nat} {f : State → Master → Nat → State} {P : State → Prop}
    (hexec : exec c s = .next (if w then s.order o obj f else s)) (hw : w = true) (ho : Alone o) (hP : P (f s o.w.by' o.w.v)) :
    Does c s P :=
  does_guarded hexec hw (by rwa [s.order_alone ho])

/-- A 1 written to a trigger bit, without a rival, has the trigger act on the state itself. -/
theorem does_trigger {c : Instr} {o : Order} {w : Bool} {obj : Nat} {act : State → State} {P : State → Prop}
    (hexec : exec c s = .next (if w then s.order o obj (fun u _ v => u.when (v % 2 == 1) act) else s)) (hw : w = true) (ho : Alone o)
    (hv : o.w.v % 2 = 1) (hP : P (act s)) : Does c s P :=
  does_aloneWrite hexec hw ho (by simpa [hv] using hP)

/-! ## The playback of a player -/

theorem State.play_some {y : Play} (h : s.play d n = some y) : y.die = d ∧ y.player = n := by
  simpa using List.find?_some h

theorem State.play_of_same {u : State} (h : Same .plays s u) (d n : Nat) : u.play d n = s.play d n :=
  congrArg (List.find? fun y : Play => y.die == d && y.player == n) h

theorem State.play_setPlay (s : State) {y : Play} (hd : y.die = d) (hn : y.player = n) :
    (s.updPlay d n fun _ => y).play d n = (s.play d n).map fun _ => y := by
  have hkey : (fun x : Play => x.die == d && x.player == n) ∘ (fun x => if x.die = d ∧ x.player = n then y else x) =
      fun x => x.die == d && x.player == n := by
    funext x
    by_cases h : x.die = d ∧ x.player = n
    · simp [h, hd, hn]
    · simp [h]
  rw [State.play, State.updPlay, List.find?_map, hkey, ← State.play]
  cases h : s.play d n with
  | none => rfl
  | some x => simp [State.play_some h]

/-! ## The end of a playback (R105) -/

/-- The state without the playback of player `n`. -/
def State.dropPlay (s : State) (d n : Nat) : State := { s with plays := s.plays.filter fun y => !(y.die == d && y.player == n) }

theorem State.play_dropPlay (s : State) (d n : Nat) : (s.dropPlay d n).play d n = none := by
  refine List.find?_eq_none.2 fun y hy => ?_
  simpa only [Bool.not_eq_true', Bool.not_eq_true] using (List.mem_filter.1 hy).2

theorem State.mem_dropPlay {y : Play} (h : y ∈ (s.dropPlay d n).plays) : y ∈ s.plays ∧ ¬(y.die = d ∧ y.player = n) := by
  obtain ⟨hmem, hkey⟩ := List.mem_filter.1 h
  exact ⟨hmem, by simpa [← not_and_or] using hkey⟩

/-- The status that the end of a playback shows: a stop that was ignored before turns OK into WINDOW_ORDER (R104). -/
def Play.endStatus (x : Play) (st : Nat) : Nat := if x.order = true ∧ st = stOK then stWindowOrder else st

/-- The end of a playback, before an idle engine may take the player. -/
def State.playStopped (s : State) (x : Play) (st fl : Nat) : State :=
  ((((if x.playing then ((((s.dropPlay x.die x.player).driveRows x 0).wr .DRV_STAT_PLAYING 0 x.die x.tile).showEngine x.die x.player 0 0 0)
    else s.dropPlay x.die x.player).wr .WFM_PLAY_STAT_STATE 0 x.die x.player).wr .WFM_PLAY_STAT_STATUS (x.endStatus st) x.die x.player).wr
    .WFM_PLAY_STAT_FLAGS (addFlag x.flags fl) x.die x.player)

theorem State.playEnd_eq_pump (s : State) (x : Play) (st fl : Nat) : s.playEnd x st fl = (s.playStopped x st fl).pump x.die := rfl

theorem State.playEnd_same_dropPlay (s : State) (x : Play) (st fl : Nat) : Same .plays (s.dropPlay x.die x.player) (s.playEnd x st fl) := by
  rw [State.playEnd_eq_pump]
  refine State.pump_same rfl (wr_same rfl (wr_same rfl (wr_same rfl (same_ite ?_ (.refl _ _)) ..) ..) ..) _
  exact State.showEngine_same rfl (wr_same rfl (State.driveRows_same rfl (.refl _ _) ..) ..) ..

theorem State.playEnd_play (s : State) (x : Play) (st fl : Nat) : (s.playEnd x st fl).play x.die x.player = none :=
  (State.play_of_same (s.playEnd_same_dropPlay x st fl) ..).trans (s.play_dropPlay ..)

theorem Play.endStatus_lt (x : Play) {st : Nat} (h : st < 2 ^ 8) : x.endStatus st < 2 ^ 8 := by
  unfold Play.endStatus
  split
  · decide
  · exact h

theorem State.playEnd_status (s : State) (x : Play) {st : Nat} (h : st < 2 ^ 8) (fl : Nat) :
    (s.playEnd x st fl).rd .WFM_PLAY_STAT_STATUS x.die x.player = x.endStatus st := by
  rw [State.playEnd_eq_pump]
  have hpump : Same (.fld .WFM_PLAY_STAT_STATUS) (s.playStopped x st fl) ((s.playStopped x st fl).pump x.die) :=
    State.pump_same rfl (.refl _ _) _
  have hwritten : (s.playStopped x st fl).rd .WFM_PLAY_STAT_STATUS x.die x.player = x.endStatus st % 2 ^ 8 :=
    (State.rd_wr_field _ (by decide) ..).trans (State.rd_wr_same ..)
  exact (hpump ..).trans (hwritten.trans (Nat.mod_eq_of_lt (x.endStatus_lt h)))

theorem State.mem_eachPlayEnd {y : Play} {st fl : Nat} {l : List Play} (h : y ∈ (s.each l fun u x => u.playEnd x st fl).plays) :
    y ∈ s.plays ∧ ∀ x ∈ l, ¬(y.die = x.die ∧ y.player = x.player) := by
  induction l generalizing s with
  | nil => exact ⟨h, by simp⟩
  | cons x l ih =>
    rw [State.each_cons] at h
    obtain ⟨hmem, hrest⟩ := ih h
    rw [s.playEnd_same_dropPlay x st fl] at hmem
    obtain ⟨hmem, hx⟩ := State.mem_dropPlay hmem
    exact ⟨hmem, List.forall_mem_cons.2 ⟨hx, hrest⟩⟩

/-- HANDBACK ends every playback of the die. -/
theorem State.die_of_mem_wfmHandback {y : Play} (h : y ∈ (s.wfmHandback d).plays) : y.die ≠ d := by
  intro hd
  obtain ⟨hmem, hnone⟩ := State.mem_eachPlayEnd h
  exact hnone y (List.mem_filter.2 ⟨hmem, by simpa using hd⟩) ⟨rfl, rfl⟩

/-! ## The points of a waveform (R97, R98) -/

theorem State.clamped_of_same {u : State} (hpart : u.part = s.part) (hsafe : Same (.fld .CLK_STAT_SAFE) s u)
    (hdies : Same (.fld .GLB_CAPACITY_DIE_ONLINE) s u) (d : Nat) : u.clamped d = s.clamped d := by
  rw [State.clamped, State.clamped, State.rdb, State.rdb, hsafe, State.online, State.online, hpart, hdies]

theorem State.wavePoint_of_same {u : State} (hfirmware : Same (.fld .START_REPORT_FW_SLOT) s u) (hwaves : Same .waves s u) (d w p : Nat) :
    u.wavePoint d w p = s.wavePoint d w p := by
  rw [State.wavePoint, State.wavePoint, hfirmware, hwaves]

/-- The state in which the player stands at point `p`, before the point has its effects. -/
def State.atPoint (s : State) (x : Play) (p : Nat) : State := s.updPlay x.die x.player fun _ => { x with point := p }

theorem State.playPoint_drives {x : Play} {p : Nat} (hp : p < 256) (hpoint : pointKind (s.wavePoint x.die x.wave p) ≠ pkEnd) :
    s.playPoint x p = (s.atPoint x p).drivePoint { x with point := p } := by
  simp [State.playPoint, State.atPoint, hp, hpoint]

theorem State.playPoint_same_of_drives {g : Piece} (hg : (State.updPlay_w g || State.drivePoint_w g) = false) {x : Play} {p : Nat}
    (hp : p < 256) (hpoint : pointKind (s.wavePoint x.die x.wave p) ≠ pkEnd) : Same g s (s.playPoint x p) := by
  obtain ⟨hplays, hdrive⟩ := Bool.or_eq_false_iff.1 hg
  rw [State.playPoint_drives hp hpoint]
  exact State.drivePoint_same hdrive (State.updPlay_same hplays (.refl _ _) ..) _

theorem State.drivePoint_point (s : State) (x : Play) : (s.drivePoint x).rd .WFM_PLAY_STAT_POINT x.die x.player = x.point % 2 ^ 8 := by
  have hafter : Same (.fld .WFM_PLAY_STAT_POINT) (s.wr .WFM_PLAY_STAT_POINT x.point x.die x.player) (s.drivePoint x) := by
    unfold State.drivePoint
    extract_lets w b s₁ s₂ s₃ s₄
    have hs₁ : Same (.fld .WFM_PLAY_STAT_POINT) s₁ s₁ := .refl _ _
    have hs₂ : Same (.fld .WFM_PLAY_STAT_POINT) s₁ s₂ := same_ite (bump_same rfl hs₁ _ _ _ _) hs₁
    have hs₃ : Same (.fld .WFM_PLAY_STAT_POINT) s₁ s₃ := same_ite (bump_same rfl hs₁ _ _ _ _) hs₁
    have hs₄ : Same (.fld .WFM_PLAY_STAT_POINT) s₁ s₄ := State.addPulse_same rfl hs₃ _ _ _ _ _
    exact same_ite (State.driveRows_same rfl hs₂ _ _) (same_ite (same_ite (wr_same rfl hs₄ _ _ _ _) hs₄) hs₁)
  exact (hafter ..).trans (State.rd_wr_same ..)

theorem State.playPoint_point {x : Play} {p : Nat} (hp : p < 256) (hpoint : pointKind (s.wavePoint x.die x.wave p) ≠ pkEnd) :
    (s.playPoint x p).rd .WFM_PLAY_STAT_POINT x.die x.player = p := by
  rw [State.playPoint_drives hp hpoint]
  exact (State.drivePoint_point _ { x with point := p }).trans (Nat.mod_eq_of_lt hp)

/-- The end of a point interval goes on to the next point of the waveform, after the verify sample of a MARK (R97, R99). -/
theorem State.pointInterval_point {x : Play} (hp : x.point + 1 < 256)
    (hpoint : pointKind (s.wavePoint x.die x.wave (x.point + 1)) ≠ pkEnd) :
    (s.pointInterval x).rd .WFM_PLAY_STAT_POINT x.die x.player = x.point + 1 := by
  rw [State.pointInterval]
  split
  · have hsample : ∀ {g : Piece}, State.urgentRequest_w g = false → Same g s (s.urgentRequest x.die 3 x.player) :=
      fun hg => State.urgentRequest_same hg (.refl _ _) ..
    exact State.playPoint_point hp (by rwa [State.wavePoint_of_same (hsample rfl) (hsample rfl)])
  · exact State.playPoint_point hp hpoint

/-! ## The start of a playback (R101, R102) -/

/-- The playback as it runs from its start on. -/
def Play.started (x : Play) (now : Nat) : Play := { x with playing := true, start := now }

/-- The state in which a playback has started, before its first point. -/
def State.playShown (s : State) (x : Play) : State :=
  (((s.updPlay x.die x.player fun _ => x.started s.now).showEngine x.die x.player 6 x.tile 0).wr .DRV_STAT_PLAYING 1 x.die x.tile).wr
    .WFM_PLAY_STAT_STATE 2 x.die x.player

theorem State.showEngine_part (s : State) (d n st t kind : Nat) : (s.showEngine d n st t kind).part = s.part := by
  obtain ⟨hpart, -⟩ := State.showEngine_keeps (.refl s) d n st t kind
  exact hpart

theorem State.playShown_part (s : State) (x : Play) : (s.playShown x).part = s.part := State.showEngine_part ..

theorem State.playShown_same {g : Piece} (hg : State.playBegin_w g = false) (s : State) (x : Play) : Same g s (s.playShown x) := by
  simp only [State.playBegin_w, Bool.or_eq_false_iff] at hg
  obtain ⟨⟨⟨⟨⟨hplays, hengine⟩, -⟩, -⟩, hplaying⟩, hstate⟩ := hg
  exact wr_same hstate (wr_same hplaying (State.showEngine_same hengine (State.updPlay_same hplays (.refl _ _) ..) ..) ..) ..

theorem State.playShown_play (s : State) (x : Play) :
    (s.playShown x).play x.die x.player = (s.play x.die x.player).map fun _ => x.started s.now := by
  have hshown : Same .plays (s.updPlay x.die x.player fun _ => x.started s.now) (s.playShown x) :=
    wr_same rfl (wr_same rfl (State.showEngine_same rfl (.refl _ _) ..) ..) ..
  exact (State.play_of_same hshown ..).trans (State.play_setPlay s rfl rfl)

/-- Outside the clamp, a start goes on to the first point (R96, R97). -/
theorem State.playBegin_drives {x : Play} (hclamp : s.clamped x.die = false) :
    s.playBegin x = (s.playShown x).playPoint (x.started s.now) 0 := by
  have hclamp' : (s.playShown x).clamped x.die = false := by
    rwa [State.clamped_of_same (s.playShown_part x) (s.playShown_same rfl x) (s.playShown_same rfl x)]
  exact if_neg (hclamp' ▸ Bool.false_ne_true)

section

variable {x : Play} (hclamp : s.clamped x.die = false) (hfirst : pointKind (s.wavePoint x.die x.wave 0) ≠ pkEnd)
include hclamp hfirst

theorem State.playBegin_same_playShown {g : Piece} (hg : (State.updPlay_w g || State.drivePoint_w g) = false) :
    Same g (s.playShown x) (s.playBegin x) := by
  rw [State.playBegin_drives hclamp]
  refine State.playPoint_same_of_drives hg (by decide) ?_
  rwa [State.wavePoint_of_same (s.playShown_same rfl x) (s.playShown_same rfl x)]

theorem State.playBegin_state : (s.playBegin x).rd .WFM_PLAY_STAT_STATE x.die x.player = 2 :=
  have hafter := State.playBegin_same_playShown (g := .fld .WFM_PLAY_STAT_STATE) hclamp hfirst rfl
  (hafter ..).trans (State.rd_wr_same ..)

theorem State.playBegin_playing : (s.playBegin x).rd .DRV_STAT_PLAYING x.die x.tile = 1 :=
  have hafter := State.playBegin_same_playShown (g := .fld .DRV_STAT_PLAYING) hclamp hfirst rfl
  (hafter ..).trans ((State.rd_wr_field _ (by decide) ..).trans (State.rd_wr_same ..))

/-- A player that starts a playback keeps one, with another point and start. -/
theorem State.playBegin_play : ((s.playBegin x).play x.die x.player).isSome = (s.play x.die x.player).isSome := by
  have hfirst' : pointKind ((s.playShown x).wavePoint x.die x.wave 0) ≠ pkEnd := by
    rwa [State.wavePoint_of_same (s.playShown_same rfl x) (s.playShown_same rfl x)]
  have hdriven : Same .plays ((s.playShown x).atPoint (x.started s.now) 0) (s.playBegin x) := by
    rw [State.playBegin_drives hclamp, State.playPoint_drives (x := x.started s.now) (by decide) hfirst']
    exact State.drivePoint_same rfl (.refl _ _) _
  have hset := (s.playShown x).play_setPlay (y := { x.started s.now with point := 0 }) rfl rfl
  rw [State.play_of_same hdriven, State.atPoint]
  simpa [Play.started, s.playShown_play x] using congrArg Option.isSome hset

end

/-! ## START (R101, R102, R104) -/

/-- What START does to a playback that the player has already: it is counted, and its rows go back to zero. -/
def State.restartPlay (s : State) (d n : Nat) : State :=
  match s.play d n with
  | some y =>
    let s := s.bump .WFM_PLAY_CNT_RESTART_CNT 1 d n
    if y.playing then ((s.driveRows y 0).wr .DRV_STAT_PLAYING 0 d y.tile).showEngine d n 0 0 0 else s
  | none => s

/-- `x` becomes the playback of its player. -/
def State.putPlay (s : State) (x : Play) : State :=
  { s with plays := (s.dropPlay x.die x.player).plays ++ [x] }

/-- The state in which START has armed a playback. -/
def State.playArmed (s : State) (x : Play) : State :=
  (((s.restartPlay x.die x.player).putPlay x).wr .WFM_PLAY_STAT_STATE 1 x.die x.player).wr .WFM_PLAY_STAT_CLOCK_ABORT 0 x.die x.player

theorem State.putPlay_play (s : State) (x : Play) : (s.putPlay x).play x.die x.player = some x := by
  have hdropped := s.play_dropPlay x.die x.player
  rw [State.play] at hdropped
  simp [State.putPlay, State.play, List.find?_append, hdropped]

theorem State.playArmed_same {g : Piece} (hg : State.playAccept_w g = false) (s : State) (x : Play) : Same g s (s.playArmed x) := by
  simp only [State.playAccept_w, Bool.or_eq_false_iff] at hg
  obtain ⟨⟨⟨⟨⟨⟨⟨⟨⟨⟨⟨hengine, hrows⟩, -⟩, -⟩, -⟩, -⟩, hrestart⟩, hplaying⟩, hplays⟩, habort⟩, hstate⟩, -⟩ := hg
  refine wr_same habort (wr_same hstate (same_mk_plays hplays ?_ _) ..) ..
  unfold State.restartPlay
  cases s.play x.die x.player with
  | none => exact .refl g s
  | some y =>
    have hbump : Same g s (s.bump .WFM_PLAY_CNT_RESTART_CNT 1 x.die x.player) := bump_same hrestart (.refl g s) ..
    exact same_ite (State.showEngine_same hengine (wr_same hplaying (State.driveRows_same hrows hbump ..) ..) ..) hbump

theorem State.playArmed_part (s : State) (x : Play) : (s.playArmed x).part = s.part := by
  change (s.restartPlay x.die x.player).part = s.part
  unfold State.restartPlay
  cases s.play x.die x.player with
  | none => rfl
  | some y =>
    change (if y.playing = true then _ else _ : State).part = _
    split
    · exact State.showEngine_part ..
    · rfl

/-- START without STOP, not timed and not late, begins the playback at once. -/
theorem State.playAccept_begins {x : Play} (hlate : x.late = 0) (htimed : s.rd .WFM_PLAY_CTRL_TSTART x.die x.player = 0) :
    s.playAccept x false = (s.playArmed x).playBegin x := by
  have hshape : s.playAccept x false = if (s.playArmed x).rdb .WFM_PLAY_CTRL_TSTART x.die x.player then
      ((s.playArmed x).showEngine x.die x.player 0 0 0).wr .WFM_PLAY_STAT_STATE 1 x.die x.player
      else match (s.playArmed x).play x.die x.player with
        | some y => (s.playArmed x).playBegin y
        | none => s.playArmed x := by
    obtain ⟨⟩ := x
    cases hlate
    rfl
  have hnow : (s.playArmed x).rdb .WFM_PLAY_CTRL_TSTART x.die x.player = false := by
    have htstart : (s.playArmed x).rd .WFM_PLAY_CTRL_TSTART x.die x.player = 0 :=
      (s.playArmed_same (g := .fld .WFM_PLAY_CTRL_TSTART) rfl x ..).trans htimed
    simp [State.rdb, htstart]
  have hplay : (s.playArmed x).play x.die x.player = some x := State.putPlay_play ..
  rw [hshape, hnow, hplay]
  rfl

/-- START of a playback that may run drives its first point. -/
theorem State.playStart_begins (huses : s.engineUses d n = false) (hformed : s.playMalformed (s.playOf d n) = false)
    (htimed : s.rd .WFM_PLAY_CTRL_TSTART d n = 0) :
    s.playStart d n false = ((s.setAx .wfmExpert 1 d).playArmed (s.playOf d n)).playBegin (s.playOf d n) := by
  have hlate : (s.playOf d n).late = 0 := by simp [State.playOf, State.rdb, htimed]
  have hbegins := State.playAccept_begins (s := s.setAx .wfmExpert 1 d) hlate htimed
  exact (if_neg (huses ▸ Bool.false_ne_true)).trans ((if_neg (hformed ▸ Bool.false_ne_true)).trans hbegins)

/-- STOP, not timed, ends a running playback. -/
theorem State.playStop_ends {y : Play} (hplay : s.play d n = some y) (hplaying : y.playing = true)
    (htimed : s.rd .WFM_PLAY_CTRL_TSTOP d n = 0) :
    s.playStop d n = (s.setAx .wfmExpert 1 d).playEnd y stOK (if withinFirst y.start s.now y.interval then flShort else 0) := by
  have hplay' : (s.setAx .wfmExpert 1 d).play d n = some y := hplay
  have hnow : (s.setAx .wfmExpert 1 d).now = s.now := rfl
  simp [State.playStop, hplay', hplaying, State.rdb, htimed, hnow]

/-! ## The window (R100) -/

/-- The window with a point stored. -/
def State.storePoint (s : State) (d w p v : Nat) : State := { s with waves := s.waves.set 0xC00 (waveKey d w p) v }

theorem State.wavePoint_storePoint (s : State) {w : Nat} (hw : 32 ≤ w) (d p v : Nat) : (s.storePoint d w p v).wavePoint d w p = v := by
  rw [State.wavePoint, if_neg (Nat.not_lt.2 hw)]
  exact SMap.get_set_same ..

theorem State.waveNext_wavePoint (s : State) (d d' w p : Nat) : (s.waveNext d).wavePoint d' w p = s.wavePoint d' w p :=
  State.wavePoint_of_same (State.waveNext_same rfl (.refl _ s) d) (State.waveNext_same rfl (.refl _ s) d) d' w p

/-- A write of the window stores the point that WFM_ADDR selects, in a waveform that may be written. -/
theorem State.waveWrite_stores (v : Nat) (hwave : 32 ≤ s.rd .WFM_ADDR_WAVE d)
    (hidle : s.plays.any (fun x => x.die == d && x.playing && x.wave == s.rd .WFM_ADDR_WAVE d) = false) :
    s.waveWrite d v =
      ((s.setAx .wfmExpert 1 d).storePoint d (s.rd .WFM_ADDR_WAVE d) (s.rd .WFM_ADDR_POINT d) (v % 4096)).waveNext d :=
  if_neg (by simp [hidle, Nat.not_lt.2 hwave])

/-- Settles O18: each clause is what its command makes of the player's playback: the end of it (`playEnd`), its start outside the clamp
(`playBegin`), its next point (`pointInterval`), or a point of the window. -/
theorem waveformPlayback : Obligations.WaveformPlayback := by
  intro s d n
  refine ⟨?read, ?write, ?start, ?stop, ?cancel, ?timedStart, ?timedStop, ?interval, ?handback⟩
  case read =>
    exact fun m hw => does_guarded rfl hw (State.waveNext_same (g := .outbox) rfl (.refl _ _) d)
  case write =>
    intro o hw ho hwave hidle
    refine does_aloneWrite rfl hw ho ?_
    rw [State.waveWrite_stores _ hwave hidle]
    refine ⟨(State.waveNext_wavePoint ..).trans (State.wavePoint_storePoint _ hwave ..), ?_⟩
    exact (State.waveNext_same (g := .aux .wfmExpert) rfl (.refl _ _) d d 0 0).trans (s.ax_setAx_same .wfmExpert 1 d 0 0)
  case start =>
    intro o hw ho hv huses hclamp hformed htimed hfirst
    refine does_trigger rfl hw ho hv ?_
    have hsame {g : Piece} (hg : State.playAccept_w g = false) := State.playArmed_same hg (s.setAx .wfmExpert 1 d) (s.playOf d n)
    have hclamp' : ((s.setAx .wfmExpert 1 d).playArmed (s.playOf d n)).clamped d = false :=
      (State.clamped_of_same (State.playArmed_part ..) (hsame rfl) (hsame rfl) d).trans hclamp
    have hfirst' := (State.wavePoint_of_same (hsame rfl) (hsame rfl) d (s.rd .WFM_PLAY_CTRL_WAVE d n) 0).symm ▸ hfirst
    rw [State.playStart_begins huses hformed htimed]
    refine ⟨State.playBegin_state hclamp' hfirst', ?_, State.playBegin_playing hclamp' hfirst'⟩
    have hplay := State.putPlay_play ((s.setAx .wfmExpert 1 d).restartPlay d n) (s.playOf d n)
    exact (State.playBegin_play hclamp' hfirst').trans (congrArg Option.isSome hplay)
  case stop =>
    intro o y hw ho hv hplay hplaying hd hn htimed
    subst hd hn
    refine does_trigger rfl hw ho hv ?_
    rw [State.playStop_ends hplay hplaying htimed]
    refine ⟨State.playEnd_play .., (State.playEnd_status _ _ (by decide) _).trans ?_⟩
    simp [Play.endStatus]
  case cancel =>
    intro o hw ho hv hsome
    refine does_aloneWrite rfl hw ho ?_
    obtain ⟨y, hplay⟩ := Option.isSome_iff_exists.1 hsome
    obtain ⟨rfl, rfl⟩ := State.play_some hplay
    simp only [hplay, hv, if_true]
    exact ⟨State.playEnd_play .., (State.playEnd_status _ _ (by decide) _).trans (if_neg (by simp))⟩
  case timedStart =>
    intro y hplay hidle hd hn hdue huses hclamp hformed hfirst
    subst hd hn
    have hexec : exec (.wfmTimedStart y.die y.player) s = .next (s.playBegin y) := by
      have hstart : s.timedStart y = s.playBegin y := by simp [State.timedStart, huses, hformed]
      change execWfmTimedStart y.die y.player s = _
      simp [execWfmTimedStart, hplay, hidle, hdue, hstart]
    exact ⟨_, hexec, State.playBegin_state hclamp hfirst, State.playBegin_playing hclamp hfirst⟩
  case timedStop =>
    intro y hplay hplaying hd hn hstop
    subst hd hn
    have hexec : exec (.wfmTimedStop y.die y.player) s =
        .next (s.playEnd y stOK (if withinFirst y.start s.now y.interval then flShort else 0)) := by
      change execWfmTimedStop y.die y.player s = _
      simp [execWfmTimedStop, hplay, hplaying, hstop]
    exact ⟨_, hexec, State.playEnd_play ..⟩
  case interval =>
    intro y hplay hplaying hd hn hp hpoint
    subst hd hn
    have hexec : exec (.wfmPointInterval y.die y.player) s = .next (s.pointInterval y) := by
      change execWfmPointInterval y.die y.player s = _
      simp [execWfmPointInterval, hplay, hplaying]
    exact ⟨_, hexec, State.pointInterval_point hp hpoint⟩
  case handback =>
    exact fun o hw ho hv => does_trigger rfl hw ho hv ⟨fun y hy => State.die_of_mem_wfmHandback hy, State.ax_setAx_same ..⟩

end Sys2Proof.Machine
end

section
/-!
PROOFS. The followers of the firing sequence (R165, R166): what FOLLOWER_OFF leaves in YOK_STATUS.
-/

namespace Sys2Proof.Machine

theorem rd_of_same {f : Field} {s t : State} (h : Same (.fld f) s t) (d i j : Nat) : t.rd f d i j = s.rd f d i j := h d i j

/-- FOLLOWER_OFF writes one bit of YOK_STATUS.FOLLOWER_OFF, which holds eight; the faults of the jobs leave the mask alone (R166). -/
theorem does_followerOff_mask {s : State} {d : Nat} (hfollows : s.isFollower d = true) (hmissed : 4 ≤ s.ax .missed d)
    (hruns : bit (s.rd .YOK_STATUS_FOLLOWER_OFF) d = false) :
    Does (.followerOff d) s fun t => t.rd .YOK_STATUS_FOLLOWER_OFF = setBit (s.rd .YOK_STATUS_FOLLOWER_OFF) d true % 2 ^ 8 := by
  have hguard : (s.isFollower d && decide (s.ax .missed d ≥ 4) && !(bit (s.rd .YOK_STATUS_FOLLOWER_OFF) d)) = true := by
    simp [hfollows, hmissed, hruns]
  refine does_guarded rfl hguard ?_
  have hwritten := s.rd_wr_same .YOK_STATUS_FOLLOWER_OFF (setBit (s.rd .YOK_STATUS_FOLLOWER_OFF) d true) 0 0 0
  refine (rd_of_same ?_ 0 0 0).trans hwritten
  apply same_mk_reqs rfl
  apply State.faultJobs_same rfl
  apply same_mk_tiles rfl
  apply setAx_same rfl
  apply setAx_same rfl
  exact State.lost_same rfl (.refl _ _) ..

/-- A part of nine dies whose GLB_CAPACITY.DIE_ONLINE reads 256, beyond its eight bits: die 8 is a follower, four markers behind. -/
def ninthDieFollows : State :=
  { State.resetOf { Part.px880 with dies := 9 } with fld := [(fieldKey .GLB_CAPACITY_DIE_ONLINE 0 0 0, 256)] }.setAx .missed 4 8

theorem ninthDieFollows_isFollower : ninthDieFollows.isFollower 8 = true := by decide
theorem ninthDieFollows_missed : ninthDieFollows.ax .missed 8 = 4 := by decide
theorem ninthDieFollows_mask : ninthDieFollows.rd .YOK_STATUS_FOLLOWER_OFF = 0 := by decide

/-- Refutes O41: the statement speaks of every state, also of one with a follower that has no bit in YOK_STATUS.FOLLOWER_OFF. On a part
of nine dies whose DIE_ONLINE exceeds its eight bits, die 8 misses four markers, and FOLLOWER_OFF truncates its bit away. The clause
on FOLLOWER_OFF lacks the premise that the die is one of the eight that a part may have (`Part.wf`, or the widths of `Inv`). -/
theorem not_followersAndSeams : ¬ Obligations.FollowersAndSeams := by
  intro h
  obtain ⟨-, -, -, hoff, -⟩ := h ninthDieFollows
  have hruns : bit (ninthDieFollows.rd .YOK_STATUS_FOLLOWER_OFF) 8 = false := by rw [ninthDieFollows_mask]; decide
  have hmissed : 4 ≤ ninthDieFollows.ax .missed 8 := ninthDieFollows_missed.ge
  obtain ⟨t, hexec, hbit, -⟩ := hoff 8 ninthDieFollows_isFollower hmissed hruns
  obtain ⟨u, hexec', hmask⟩ := does_followerOff_mask ninthDieFollows_isFollower hmissed hruns
  cases hexec.symm.trans hexec'
  rw [hmask, ninthDieFollows_mask] at hbit
  exact absurd hbit (by decide)

end Sys2Proof.Machine
end

section
/-!
PROOFS. The registers of the Yoke, its role and the accounting window (R161, R171, R179, R180, R184).
-/

namespace Sys2Proof.Machine

variable {s : State}

/-! ## Lists of elements that are set to zero -/

section

variable {α : Type} {P : State → Prop} {f : State → α → State} {l : List α}

theorem State.each_induction (l : List α) (hs : P s) (hkeep : ∀ u y, P u → P (f u y)) : P (s.each l f) :=
  List.foldlRecOn l f hs fun u hu y _ => hkeep u y hu

/-- What one element's turn brings about, and every turn keeps, holds after all of them. -/
theorem State.each_of_mem {x : α} (hx : x ∈ l) (hset : ∀ u, P (f u x)) (hkeep : ∀ u y, P u → P (f u y)) : P (s.each l f) := by
  obtain ⟨before, after, rfl⟩ := List.append_of_mem hx
  rw [State.each, List.foldl_append, List.foldl_cons]
  exact State.each_induction after (hset _) hkeep

end

theorem State.rd_wr_zero {f : Field} {d i j : Nat} (h : s.rd f d i j = 0) (g : Field) (d' i' j' : Nat) :
    (s.wr g 0 d' i' j').rd f d i j = 0 := by
  rw [State.rd_wr, h, Nat.zero_mod, ite_self]

theorem State.ax_setAx_zero {x : Aux} {d i j : Nat} (h : s.ax x d i j = 0) (y : Aux) (d' i' j' : Nat) :
    (s.setAx y 0 d' i' j').ax x d i j = 0 := by
  rw [State.ax_setAx, h, ite_self]

/-! ## YOK_CTRL -/

/-- A write of a register that is there in every state, without a rival, has its operation act on the state itself (R430). -/
theorem does_order {c : Instr} {o : Order} {obj : Nat} {f : State → Master → Nat → State} {P : State → Prop}
    (hexec : exec c s = .next (s.order o obj f)) (ho : Alone o) (hP : P (f s o.w.by' o.w.v)) : Does c s P :=
  ⟨_, hexec, by rwa [s.order_alone ho]⟩

/-- A 1 written to a trigger bit of such a register has the trigger act on the state itself. -/
theorem does_orderTrigger {c : Instr} {o : Order} {obj : Nat} {act : State → State} {P : State → Prop}
    (hexec : exec c s = .next (s.order o obj fun u _ v => u.when (v % 2 == 1) act)) (ho : Alone o) (hv : o.w.v % 2 = 1)
    (hP : P (act s)) : Does c s P :=
  does_order hexec ho (by simpa [hv] using hP)

theorem State.yokExpert_expert (s : State) : s.yokExpert.rd .YOK_STATUS_EXPERT = 1 := s.rd_wr_same ..

/-- The settlement of starvation times keeps the mark of the expert write (R424). -/
theorem State.excuse_expert (s : State) (l : List Nat) : (s.yokExpert.excuse l).rd .YOK_STATUS_EXPERT = 1 :=
  have hsettled := State.excuse_same (g := .fld .YOK_STATUS_EXPERT) rfl (.refl _ s.yokExpert) l
  (hsettled ..).trans s.yokExpert_expert

theorem State.yokClear_counter {f : Field} (hf : f ∈ yokCounters) : s.yokClear.rd f = 0 :=
  State.each_of_mem (P := fun u => u.rd f = 0) hf (fun u => u.rd_wr_same ..) fun _ g hu => State.rd_wr_zero hu g 0 0 0

theorem State.yokClear_miss {c : Nat} (hc : c < 4) : s.yokClear.rd .YOK_MISS_COUNT 0 c = 0 := by
  have hmem : c ∈ [0, 1, 2, 3] := List.mem_range.2 hc
  refine State.each_induction (P := fun u => u.rd .YOK_MISS_COUNT 0 c = 0) _ ?_ fun _ g hu => State.rd_wr_zero hu g 0 0 0
  exact State.each_of_mem (P := fun u => u.rd .YOK_MISS_COUNT 0 c = 0) hmem (fun u => u.rd_wr_same ..)
    fun _ k hu => State.rd_wr_zero hu _ 0 k 0

/-- HANDBACK before its settings: starvation time is settled where HOLD_ALL stood (R184). -/
def State.holdAllSettled (s : State) : State := if s.rdb .YOK_CTRL_HOLD_ALL then s.excuse s.takenTiles else s

/-- The settings of HANDBACK, before the caps of the power manager act (R467). -/
def State.yokDefaults (s : State) : State :=
  (((((s.wr .YOK_CTRL_HOLD_ALL 0).wr .YOK_CTRL_SPLIT_EN 1).wr .YOK_SETTLE_MAX 4096).wr .YOK_IBUDGET_BUDGET 1920).wr
    .YOK_STATUS_EXPERT 0).wr .YOK_THROTTLE_TICKS 0

/-- After HANDBACK every field but the throttle and the duties is as the settings of HANDBACK have it. -/
theorem State.yokHandback_rd (s : State) {f : Field} (hf : State.applyCaps_w (.fld f) = false) :
    s.yokHandback.rd f = s.holdAllSettled.yokDefaults.rd f :=
  rd_of_same (State.applyCaps_same hf (.refl _ _)) 0 0 0

/-- A change of HOLD_ALL is taken, and is an expert write, whether it stops the firing or lets it go on (R184). -/
theorem does_holdAll {o : Order} (ho : Alone o) (hne : o.w.v % 2 ≠ s.rd .YOK_CTRL_HOLD_ALL) :
    Does (.yokCtrlHoldAllWrite o) s fun x => x.rd .YOK_CTRL_HOLD_ALL = o.w.v % 2 ∧ x.rd .YOK_STATUS_EXPERT = 1 := by
  refine does_order rfl ho ?_
  obtain hv | hv := Nat.mod_two_eq_zero_or_one o.w.v
  case inl =>
    rw [if_neg hne, if_neg (by omega), hv]
    exact ⟨State.rd_wr_same .., (State.rd_wr_field _ (by decide) ..).trans (s.excuse_expert _)⟩
  case inr =>
    rw [if_neg hne, if_pos hv, hv]
    refine ⟨(State.rd_wr_field _ (by decide) ..).trans (State.rd_wr_same ..), ?_⟩
    exact (State.rd_wr_field _ (by decide) ..).trans ((State.rd_wr_field _ (by decide) ..).trans (s.excuse_expert _))

/-! ## The accounting window (R171, R180, R409) -/

/-- At the end of the window the firings of function `f` count from 0, and a cut of its real-time share acts. -/
def State.functionWindowEnd (s : State) (f : Nat) : State := ((s.setAx .firings 0 f 0 0).setAx .firings 0 f 0 1).setAx .rtOld 0 f

/-- No firing of a function counts yet in the accounting window, for its power or its real-time share, and no cut waits for the next. -/
structure State.WindowStarts (f : Nat) (s : State) : Prop where
  power : s.ax .firings f 0 0 = 0
  realTime : s.ax .firings f 0 1 = 0
  cut : s.ax .rtOld f = 0

theorem State.functionWindowEnd_starts (s : State) (f : Nat) : (s.functionWindowEnd f).WindowStarts f where
  power := State.ax_setAx_zero (State.ax_setAx_zero (State.ax_setAx_same ..) ..) ..
  realTime := State.ax_setAx_zero (State.ax_setAx_same ..) ..
  cut := State.ax_setAx_same ..

theorem State.WindowStarts.functionWindowEnd {f : Nat} (h : s.WindowStarts f) (f' : Nat) : (s.functionWindowEnd f').WindowStarts f where
  power := State.ax_setAx_zero (State.ax_setAx_zero (State.ax_setAx_zero h.power ..) ..) ..
  realTime := State.ax_setAx_zero (State.ax_setAx_zero (State.ax_setAx_zero h.realTime ..) ..) ..
  cut := State.ax_setAx_zero (State.ax_setAx_zero (State.ax_setAx_zero h.cut ..) ..) ..

theorem State.windowEnd_starts {f : Nat} (hf : f < 128) : (s.each allFns State.functionWindowEnd).WindowStarts f :=
  State.each_of_mem (List.mem_range.2 hf) (fun u => u.functionWindowEnd_starts f) fun _ f' hu => hu.functionWindowEnd f'

/-- Settles O42: each clause is what its write, or the end of the move or of the window, makes of the state, read field by field. -/
theorem yokeControls : Obligations.YokeControls := by
  intro s
  refine ⟨?holdAll, ?split, ?clear, ?handback, ?period, ?refused, ?throttle, ?move, ?window⟩
  case holdAll => exact fun o ho hne => does_holdAll ho hne
  case split =>
    intro o ho hne
    refine does_order rfl ho ?_
    rw [if_neg hne]
    exact ⟨State.rd_wr_same .., (State.rd_wr_field _ (by decide) ..).trans s.yokExpert_expert⟩
  case clear =>
    exact fun o ho hv => does_orderTrigger rfl ho hv ⟨fun f hf => State.yokClear_counter hf, fun c hc => State.yokClear_miss hc⟩
  case handback =>
    intro o ho hv
    refine does_orderTrigger rfl ho hv ?_
    simp (disch := decide) only [State.yokHandback_rd, State.yokDefaults, State.rd_wr_field, State.rd_wr_same]
    decide
  case period =>
    intro o ho hlow hhigh
    refine does_order rfl ho ?_
    rw [if_neg (by omega)]
    exact (s.rd_wr_same ..).trans (Nat.mod_mod ..)
  case refused =>
    intro o ho hout
    refine does_order rfl ho ?_
    rw [if_pos hout]
    exact ⟨s.rd_wr_field (by decide) .., s.rd_wr_same ..⟩
  case throttle =>
    intro o ho hne
    refine does_order rfl ho ?_
    rw [if_neg hne]
    exact ⟨(State.rd_wr_same ..).trans (Nat.mod_mod ..), (State.rd_wr_field _ (by decide) ..).trans s.yokExpert_expert⟩
  case move => exact fun hmoves => does_guarded rfl hmoves ((s.excuse s.takenTiles).rd_wr_same .YOK_STATUS_MOVING 0 0 0 0)
  case window =>
    refine ⟨_, rfl, fun f hf => ?_⟩
    have hstarts := State.windowEnd_starts (s := s) hf
    exact ⟨hstarts.power, hstarts.realTime, hstarts.cut⟩

end Sys2Proof.Machine
end

section
/-!
PROOFS. How an instruction issues (R193, R204, R223): what its effect acts on, and where its task stands once it has retired, started an
operation or trapped.
-/

namespace Sys2Proof.Machine

variable {s u : State} {r : TaskRef} {c : Ctx} {t : Task}

/-- The state on which the effect of an instruction acts: SEQ_PC shows the instruction's place. -/
def State.issuing (s : State) (c : Ctx) : State := s.wr .SEQ_PC_PC c.task.pc c.task.die c.task.seq

/-- An instruction of a running job that its guard lets run has its own effect, and no other. -/
theorem State.issue_running {row : Nat → Bool} (hctx : s.ctx r = some c) (hst : c.job.st = .running)
    (hguard : guardOff c.task c.w = false) (hrow : row c.w = true) (f : State → Ctx → State) :
    s.issue r row f = f (s.issuing c) c := by
  simp [State.issue, hctx, hrow, hguard, hst, State.issuing]

/-- A change of the issuing task reaches it, as long as it leaves the task its number. -/
theorem State.taskOf_upd (hc : c.IssuedBy r) (ht : u.taskOf r = some t) {f : Task → Task} (hf : ∀ t, (f t).num = t.num) :
    (u.upd c f).taskOf r = some (f t) := by
  obtain ⟨j, hjob, htask⟩ := Option.bind_eq_some_iff.1 ht
  have hjob' : (u.upd c f).job r.job = some (j.updTask c.task.num f) := by
    rw [State.upd, State.updTask, State.job_updJob u _ _ (f := fun j => j.updTask c.task.num f) fun _ => rfl, hjob]
    simp [State.job_id hjob, hc.job]
  rw [State.taskOf, hjob', Option.bind_some, Job.task_updTask _ _ _ hf, htask]
  simp [Job.task_num htask, hc.task]

/-- The PC of a task whose instruction has retired has 17 bits (R193). -/
theorem State.pc_retire (hc : c.IssuedBy r) (ht : u.taskOf r = some t) {f : Task → Task} (hf : ∀ t, (f t).num = t.num) :
    ((u.retire c f).taskOf r).map (·.pc) = some (c.next % 2 ^ 17) := by
  rw [State.retire, State.taskOf_upd hc ht (f := fun t => { f t with pc := c.next % 2 ^ 17, progress := u.now }) hf]
  rfl

/-- An operation that starts leaves its task at the next instruction (R212). -/
theorem State.pc_launch (hc : c.IssuedBy r) (ht : u.taskOf r = some t) (hfull : c.task.full = false) (unit : OpUnit) (left d : Nat) :
    ((u.launch c unit left d).taskOf r).map (·.pc) = some (c.next % 2 ^ 17) := by
  simp only [State.launch, hfull, Bool.false_eq_true, if_false, State.issueTicket]
  exact State.pc_retire hc (t := t) ht fun t => t.setG_num _ _

/-- SEQ_TRAPn holds the low 16 bits of the word index of the instruction that trapped. -/
theorem State.trapPc_trapAt (hc : c.IssuedBy r) (ht : u.taskOf r = some t) (cause : Nat) :
    (u.trapAt c cause).rd .SEQ_TRAP_PC t.die t.seq = t.pc % 2 ^ 16 := by
  have htask : (u.job c.job.id).bind (·.task c.task.num) = some t := by rwa [hc.job, hc.task]
  simp only [State.trapAt, State.trap, htask]
  exact (rd_of_same (State.faultJob_same rfl (.refl _ _) _ _) ..).trans (State.rd_wr_same ..)

end Sys2Proof.Machine
end

section
/-!
PROOFS. The last word of a program of 131,072 words, the most that a program may have (R206): its word index fills the 17 bits of the
PC, and the next is 0.
-/

namespace Sys2Proof.Machine

/-- 131,071 NOPs, and `w`. -/
def largestCode (w : Nat) : List Nat := List.replicate 131071 0 ++ [w]

theorem insnStarts_cons {w : Nat} (hx : iX w = false) (i : Nat) (l : List Nat) :
    insnStarts i (w :: l) = (insnStarts (i + 1) l).map (fun k => (i, w, 0) :: k) := by
  rw [insnStarts.eq_def]
  simp [hx]

theorem insnStarts_nops {w : Nat} (hx : iX w = false) (n i : Nat) :
    insnStarts i (List.replicate n 0 ++ [w]) = some ((List.range' i n).map (fun k => (k, 0, 0)) ++ [(i + n, w, 0)]) := by
  induction n generalizing i with
  | zero => simp [insnStarts, hx]
  | succ n ih =>
    have hnop : iX 0 = false := by decide
    have hend : i + 1 + n = i + (n + 1) := by omega
    rw [List.replicate_succ, List.cons_append, insnStarts_cons hnop, ih, hend, List.range'_succ]
    rfl

theorem insnAt_nops {w : Nat} (hx : iX w = false) (n : Nat) : insnAt (List.replicate n 0 ++ [w]) n = some (w, 0, n + 1) := by
  have hbefore : ((List.range' 0 n).map (fun k => (k, 0, 0))).find? (fun e => e.1 == n) = none := by
    simp only [List.find?_eq_none, List.mem_map, List.mem_range'_1, beq_iff_eq]
    rintro e ⟨k, ⟨-, hk⟩, rfl⟩
    simp only
    omega
  simp [insnAt, insnStarts_nops hx, List.find?_append, hbefore, hx]

/-- What stands at the last word: an instruction, and its task's scalar registers, descriptors and open tickets; and the operations
outstanding. -/
structure LastInsn where
  word : Nat
  g : SMap Nat := []
  td : SMap TDesc := []
  opened : List Nat := []
  ops : List Op := []

namespace LastInsn

/-- The task at the last word, on sequencer 0 of die 0. -/
def task (e : LastInsn) : Task :=
  { num := 0, die := 0, seq := 0, pc := 131071, g := e.g, p := [], td := e.td, ret := [], loops := [], last := e.opened.length,
    opened := e.opened, fabric := [], res := [], wait := .run, progress := 0 }

/-- The running job of that task: job 7 of the PF, without restarts left. -/
def job (e : LastInsn) : Job :=
  { id := 7, desc := 0, q := 0, fn := 0, cid := 0, event := false, vec := 0, handle := 1, cls := 0, runLate := false, deadline := 0,
    args := 0, slots := 0, at' := 0, st := .running, order := 0, runTag := 0, restarts := 0, flags := 0, lateness := 0, cause := 0,
    otherFault := false, cpost := 0, started := some 0, paused := 0, maxRestarts := 0, grants := 0, onMap := 0, watchdog := 1000,
    ackSeq := 0, ackAt := 0, slotNo := none, staged := [], pages := [], scratch := [], tasks := [e.task], trk := [], steps := [],
    cpostAt := none }

/-- A system program of the largest size that ends with the instruction. -/
def prog (e : LastInsn) : Prog :=
  { handle := 1, fn := 0, sys := true, tasks := 1, code := largestCode e.word, data := [], entry := 0, scratchBanks := 0, descInit := 0,
    place := 0, dieMask := 0, pages := 257, copies := [(0, 0)], unloading := false }

/-- A part whose die 0 is online, on which the job runs. -/
def state (e : LastInsn) : State :=
  { State.reset.wr .GLB_CAPACITY_DIE_ONLINE 1 with jobs := [e.job], progs := [e.prog], ops := e.ops }

/-- The context in which the instruction issues. -/
def ctx (e : LastInsn) : Ctx := { job := e.job, task := e.task, w := e.word, ext := 0, next := 131072 }

/-- The state on which its effect acts. -/
def issuing (e : LastInsn) : State := e.state.issuing e.ctx

/-- The reference to its task. -/
def ref : TaskRef := { job := 7, task := 0 }

variable (e : LastInsn)

theorem issuedBy : e.ctx.IssuedBy ref := ⟨rfl, rfl⟩

theorem taskOf_issuing : e.issuing.taskOf ref = some e.task := rfl

theorem state_ctx (hx : iX e.word = false) : e.state.ctx ref = some e.ctx := by
  have hjob : e.state.job ref.job = some e.job := rfl
  have htask : e.job.task ref.task = some e.task := rfl
  have hcode : e.state.codeFor e.job = largestCode e.word := rfl
  have hinsn : insnAt (largestCode e.word) e.task.pc = some (e.word, 0, 131072) := insnAt_nops hx 131071
  have hmask : e.state.ax .startMask = 0 := rfl
  have hruns : e.state.paused 0 e.task.die = false := by simp [State.paused, hmask, bit]
  have hst : e.job.st = .running := rfl
  have hwait : e.task.wait = .run := rfl
  simp only [State.ctx, hjob, htask, hcode, hinsn, hruns, hst, hwait]
  rfl

/-- The next state is what the instruction makes of the state in which SEQ_PC shows its place. -/
theorem next_eq {i : Instr} {row : Nat → Bool} {f : State → Ctx → State} {x : State}
    (hissue : exec i e.state = .next (e.state.issue ref row f)) (hx : iX e.word = false) (hguard : guardOff e.task e.word = false)
    (hrow : row e.word = true) (hexec : exec i e.state = .next x) : x = f e.issuing e.ctx := by
  have hnext := Host.Outcome.next.inj (hexec.symm.trans hissue)
  exact hnext.trans (State.issue_running (e.state_ctx hx) rfl hguard hrow f)

/-- After the last word a 17-bit PC is 0, and not the word index that follows. -/
theorem not_retired {x : State} (hpc : (x.taskOf ref).map (·.pc) = some (e.ctx.next % 2 ^ 17)) (t : Task) :
    x.taskOf ref ≠ some (e.ctx.retired e.state t) := by
  intro h
  rw [h] at hpc
  have hwraps : 131072 = 131072 % 2 ^ 17 := Option.some.inj hpc
  exact absurd hwraps (by decide)

end LastInsn

/-- RET with an empty return stack. -/
def lastRet : LastInsn := { word := 5 * 2 ^ 58 }

/-- Refutes O57: the statement says that SEQ_TRAPn.PC reads the PC of the instruction modulo 2^17. The field holds bits [15:0] of the word
index (07_fentoska_programming_model.md, SEQ_TRAPn): of a RET at word 131,071 with an empty return stack it reads 65,535. -/
theorem not_stackTraps : ¬ Obligations.StackTraps := by
  intro h
  obtain ⟨-, -, hret, -⟩ := h lastRet.state LastInsn.ref lastRet.ctx (lastRet.state_ctx (by decide)) (by decide)
  obtain ⟨x, hexec, -, hpc⟩ := hret (by decide) rfl
  obtain rfl := lastRet.next_eq rfl (by decide) (by decide) (by decide) hexec
  have hlow := State.trapPc_trapAt lastRet.issuedBy lastRet.taskOf_issuing cStack
  exact absurd (hlow.symm.trans hpc) (by decide)

/-- NOP. -/
def lastNop : LastInsn := { word := 0 }

/-- Refutes O30: the statement says that NOP leaves the PC at the word index after it, whatever that is. The PC has 17 bits (R193), and a
program may have 2^17 words (R206): after a NOP at the last of them it is 0. The clauses that retire lack the premise that the next word
index is below 2^17, and those that trap read SEQ_TRAPn.PC as O57 does. -/
theorem not_controlInstructions : ¬ Obligations.ControlInstructions := by
  intro h
  obtain ⟨hnop, -⟩ := h lastNop.state LastInsn.ref lastNop.ctx (lastNop.state_ctx (by decide)) rfl (by decide)
  obtain ⟨x, hexec, htask, -⟩ := hnop (by decide)
  obtain rfl := lastNop.next_eq rfl (by decide) (by decide) (by decide) hexec
  exact lastNop.not_retired (State.pc_retire lastNop.issuedBy lastNop.taskOf_issuing fun _ => rfl) _ htask

/-- WAIT for ticket 0. -/
def lastWait : LastInsn := { word := 6 * 2 ^ 58 }

/-- Refutes O31: the statement says that WAIT for ticket 0 leaves the PC at the word index after it. At the last word of the largest
program the 17-bit PC is then 0 (R193, R206). -/
theorem not_waitInstructions : ¬ Obligations.WaitInstructions := by
  intro h
  obtain ⟨hwait, -⟩ := h lastWait.state LastInsn.ref lastWait.ctx (lastWait.state_ctx (by decide)) rfl (by decide)
  obtain ⟨x, hexec, htask⟩ := hwait (by decide) rfl
  obtain rfl := lastWait.next_eq rfl (by decide) (by decide) (by decide) hexec
  exact lastWait.not_retired (State.pc_retire lastWait.issuedBy lastWait.taskOf_issuing fun t => t.setG_num _ _) _ htask

end Sys2Proof.Machine
end

section
/-!
PROOFS. An array instruction whose operation starts (R199, R247), and a maintenance instruction whose operation begins (R192, R264): where
their tasks then stand.
-/

namespace Sys2Proof.Machine

/-- An instruction without a trap, and without operands in Gusset regions, launches its operation. -/
theorem State.startOp_launches {s : State} {c : Ctx} (htrap : s.opTrap c = none)
    (hgusset : s.opGusset c.w (c.task.tr (iTa c.w)).val (c.task.tr (iTb c.w)).val = 0) (unit : OpUnit) (left : Nat) :
    s.startOp c unit left = s.launch c unit left (iGb c.w) := by
  simp [State.startOp, htrap, hgusset]

/-- Four FP32 values in a row at a device address (R197). -/
def fourFloats (base : Nat) : TDesc := ⟨base + 4 * 256 ^ 8 + 256 ^ 12 + 256 ^ 16 + 256 ^ 20 + 13 * 256 ^ 36, true⟩

/-- EW that adds a scalar: t9 = t7 + g0, both in host memory, with its ticket to g6. -/
def lastEw : LastInsn :=
  { word := 0x32 * 2 ^ 58 + 5 * 2 ^ 48 + 9 * 2 ^ 42 + 7 * 2 ^ 36 + 6 * 2 ^ 20
    td := [(7, fourFloats (2 ^ 45)), (9, fourFloats (2 ^ 45 + 64))] }

theorem lastEw_opTrap : lastEw.state.opTrap lastEw.ctx = none := by decide
theorem lastEw_issuing_opTrap : lastEw.issuing.opTrap lastEw.ctx = none := by decide

/-- Refutes O35: the statement says that EW, once its operation has started, leaves the PC at the word index after it. At the last word of
the largest program the 17-bit PC is then 0 (R193, R206). -/
theorem not_arrayInstructions : ¬ Obligations.ArrayInstructions := by
  intro h
  obtain ⟨-, -, -, -, -, -, -, hew, -⟩ :=
    h lastEw.state LastInsn.ref lastEw.ctx (lastEw.state_ctx (by decide)) rfl (by decide) lastEw_opTrap rfl
  obtain ⟨x, hexec, ⟨htask, -⟩, -⟩ := hew (by decide)
  obtain rfl := lastEw.next_eq rfl (by decide) (by decide) (by decide) hexec
  rw [State.startOp_launches lastEw_issuing_opTrap rfl] at htask
  exact lastEw.not_retired (State.pc_launch lastEw.issuedBy lastEw.taskOf_issuing rfl ..) _ htask

/-! ## CLEAR -/

variable {s u : State} {c : Ctx}

theorem State.taskOf_of_same (h : Same .jobs s u) (r : TaskRef) : u.taskOf r = s.taskOf r := by
  have hjobs : u.jobs = s.jobs := h
  rw [State.taskOf, State.taskOf, State.job, State.job, hjobs]

/-- CLEAR of a FREE tile whose turn has come asks a programming engine for it. -/
theorem State.maintTry_clears {o : Op} {j : Job} (hop : iOp o.word = 0x3D) (hsub : iSub o.word = 0) (hturn : s.maintTurn o = true)
    (htile : s.isTile (o.ga / 2048) (o.ga % 2048) = true) (honline : s.online (o.ga / 2048) = true) (hjob : s.job o.job = some j)
    (huse : s.tileInUse (o.ga / 2048) (o.ga % 2048) = false) (hfree : s.tst (o.ga / 2048) (o.ga % 2048) = tsFree) :
    s.maintTry o = s.maintReq o
      (blankReq (o.ga / 2048) (o.ga % 2048) 1 .clear (noPlace (o.ga / 2048) (o.ga % 2048)) o.deadline) := by
  simp [State.maintTry, State.maintClear, hop, hsub, hturn, htile, honline, hjob, huse, hfree]

/-- A maintenance instruction that no other master outranks has its operation try to begin at once (R264). -/
theorem State.maintIssue_tries {o : Op} (hfull : c.task.full = false)
    (hlast : (s.launch c .maint 0 (iGb c.w)).ops.getLast? = some o) :
    s.maintIssue c none = (s.launch c .maint 0 (iGb c.w)).maintTry o := by
  simp [State.maintIssue, hfull, hlast]

/-- CLEAR of tile 6 of die 0, with its ticket to g6. -/
def lastClear : LastInsn := { word := 0x3D * 2 ^ 58 + 5 * 2 ^ 25 + 6 * 2 ^ 20, g := [(5, 6)] }

/-- The operation that it launches. -/
def lastClearOp : Op :=
  { job := 7, task := 0, ticket := 1, unit := .maint, die := 0, cls := 0, deadline := 2 ^ 64 - 1, issue := 0, left := 0, running := false,
    word := lastClear.word, ext := 0, ta := 0, tb := 0, td := 0, ga := 6, gb := 0, late := false }

/-- The state after the launch. -/
def lastClearLaunched : State := lastClear.issuing.launch lastClear.ctx .maint 0 (iGb lastClear.word)

theorem lastClearLaunched_getLast : lastClearLaunched.ops.getLast? = some lastClearOp := by decide
theorem lastClearLaunched_maintTurn : lastClearLaunched.maintTurn lastClearOp = true := by decide
theorem lastClearLaunched_online : lastClearLaunched.online 0 = true := by decide
theorem lastClearLaunched_tileInUse : lastClearLaunched.tileInUse 0 6 = false := by decide
theorem lastClearLaunched_tst : lastClearLaunched.tst 0 6 = tsFree := by decide

/-- The operation begins, and leaves the task where the launch has put it. -/
theorem lastClear_taskOf (r : TaskRef) : (lastClear.issuing.maintIssue lastClear.ctx none).taskOf r = lastClearLaunched.taskOf r := by
  obtain ⟨j, hjob⟩ : ∃ j, lastClearLaunched.job lastClearOp.job = some j := ⟨_, rfl⟩
  rw [State.maintIssue_tries (o := lastClearOp) rfl lastClearLaunched_getLast]
  change (lastClearLaunched.maintTry lastClearOp).taskOf r = _
  rw [State.maintTry_clears (by decide) (by decide) lastClearLaunched_maintTurn rfl lastClearLaunched_online hjob
    lastClearLaunched_tileInUse lastClearLaunched_tst]
  exact State.taskOf_of_same (State.maintReq_same rfl (.refl _ _) _ _) r

/-- Refutes O38: the statement says that CLEAR of a FREE tile leaves the PC at the word index after it. At the last word of the largest
program the 17-bit PC is then 0 (R193, R206). -/
theorem not_maintenanceInstructions : ¬ Obligations.MaintenanceInstructions := by
  intro h
  obtain ⟨-, hclear, -⟩ := h lastClear.state LastInsn.ref lastClear.ctx (lastClear.state_ctx (by decide)) rfl (by decide) rfl rfl
    (by decide) (by decide) (by decide) (by decide)
  obtain ⟨x, hexec, htask, -⟩ := hclear (by decide) (.inl (by decide))
  obtain rfl := lastClear.next_eq rfl (by decide) (by decide) (by decide) hexec
  rw [lastClear_taskOf] at htask
  exact lastClear.not_retired (State.pc_launch lastClear.issuedBy lastClear.taskOf_issuing rfl ..) _ htask

end Sys2Proof.Machine
end

section
/-!
PROOFS. What becomes of the operations of a job at its fault (R223, `voidOps`): those for maintenance that have begun run on, for no job.
-/

namespace Sys2Proof.Machine

variable {s : State} {j : Job} {id : Nat}

theorem ops_of_same {s t : State} (h : Same .ops s t) : t.ops = s.ops := h

/-- Of the operations of a job that is released, those for maintenance that have begun stay, as operations of no job. -/
theorem State.mem_voidOps_of_begun {o : Op} (ho : o ∈ s.ops) (hjob : o.job = id) (hunit : o.unit = .maint) (hruns : o.running = true) :
    { o with job := noJob } ∈ (s.voidOps id).ops := by
  have hkept : o ∈ s.ops.filter (fun o => o.job != id || (o.unit == .maint && o.running)) := by simp [ho, hunit, hruns]
  exact List.mem_map.2 ⟨o, hkept, if_pos hjob⟩

theorem State.releaseJob_ops (s : State) (j : Job) : (s.releaseJob j).ops = (s.voidOps j.id).ops :=
  ops_of_same (State.dropStaging_same rfl (State.freeScratch_same rfl (State.freeSeqs_same rfl (.refl .ops _) _) _) _)

theorem State.endJob_ops (hjob : s.job id = some j) (st : Nat) : (s.endJob id st).ops = (s.voidOps id).ops := by
  simp only [State.endJob, hjob]
  refine (ops_of_same (State.quotaRecheck_same rfl (State.complete_same rfl (.refl .ops _) ..) _)).trans ?_
  rw [← State.job_id hjob]
  exact s.releaseJob_ops j

theorem State.restartJob_ops (hjob : s.job id = some j) : (s.restartJob id).ops = (s.voidOps id).ops := by
  simp only [State.restartJob, hjob]
  refine (ops_of_same (State.quotaRecheck_same rfl (.refl .ops _) _)).trans ?_
  rw [← State.job_id hjob]
  exact s.releaseJob_ops j

theorem State.faultJob_ops (hjob : s.job id = some j) (hactive : j.active = true) (hst : j.st ≠ .ackWait) (cause : Nat) :
    (s.faultJob id cause).ops = (s.voidOps id).ops := by
  have hruns : ¬((!j.active) = true ∨ j.st = .ackWait) := by simp [hactive, hst]
  have hmarked (other : Bool) : (s.updJob id (fun j => { j with cause := cause, otherFault := other })).job id =
      some { j with cause := cause, otherFault := other } := by
    rw [State.job_updJob s id id (f := fun j => { j with cause := cause, otherFault := other }) fun _ => rfl, hjob]
    simp [State.job_id hjob]
  simp only [State.faultJob, hjob, if_neg hruns]
  split
  case isTrue => exact State.restartJob_ops (hmarked _)
  case isFalse =>
    refine (State.endJob_ops (j := { j with cause := cause, otherFault := j.otherFault || cause != cScale }) ?_ _).trans rfl
    exact hmarked _

/-- A trap releases the operations of its job (R223). -/
theorem State.trapAt_ops {u : State} {c : Ctx} {r : TaskRef} {t : Task} (hc : c.IssuedBy r) (htask : u.taskOf r = some t)
    (hjob : u.job r.job = some j) (hactive : j.active = true) (hst : j.st ≠ .ackWait) (cause : Nat) :
    (u.trapAt c cause).ops = (u.voidOps r.job).ops := by
  have htask' : (u.job r.job).bind (·.task r.task) = some t := htask
  simp only [State.trapAt, State.trap, hc.job, hc.task, htask']
  refine (State.faultJob_ops (j := j) ?_ hactive hst cause).trans rfl
  exact hjob

/-- An array or movement instruction that may not start traps; only the cause ADDRESS counts refused accesses (R247, R367). -/
theorem State.startOp_traps {c : Ctx} {cause : Nat} (htrap : s.opTrap c = some cause) (hne : cause ≠ cAddress) (unit : OpUnit)
    (left : Nat) : s.startOp c unit left = s.trapAt c cause := by
  simp [State.startOp, htrap, State.tensorTrap, hne, State.trapAt]

/-- A VERIFY of job 7 that a programming engine has begun. -/
def begunVerify : Op :=
  { job := 7, task := 0, ticket := 1, unit := .maint, die := 0, cls := 0, deadline := 2 ^ 64 - 1, issue := 0, left := 0, running := true,
    word := 0x3E * 2 ^ 58, ext := 0, ta := 0, tb := 0, td := 0, ga := 6, gb := 0, late := false }

/-- MM whose descriptors are not valid, while that VERIFY runs. -/
def badMm : LastInsn := { word := 0x30 * 2 ^ 58, opened := [1], ops := [begunVerify] }

theorem badMm_opTrap : badMm.state.opTrap badMm.ctx = some cDescriptor := by decide
theorem badMm_issuing_opTrap : badMm.issuing.opTrap badMm.ctx = some cDescriptor := by decide

/-- Refutes O36: the statement says that after the trap of an array instruction every operation is one that stood before it. The trap
faults the job, and a maintenance operation of the job that has begun runs on as an operation of no job (`voidOps`): here a VERIFY, at the
trap of an MM. The clauses of the array instructions should compare the operations by their number, as those of MOVT do. -/
theorem not_trappedOperations : ¬ Obligations.TrappedOperations := by
  intro h
  obtain ⟨-, -, -, hmm, -⟩ :=
    h badMm.state LastInsn.ref badMm.ctx cDescriptor (badMm.state_ctx (by decide)) rfl (by decide) badMm_opTrap
  obtain ⟨x, hexec, -, hops⟩ := hmm (by decide)
  obtain rfl := badMm.next_eq rfl (by decide) (by decide) (by decide) hexec
  rw [State.startOp_traps badMm_issuing_opTrap (by decide),
    State.trapAt_ops badMm.issuedBy badMm.taskOf_issuing (j := badMm.job) rfl rfl (by decide)] at hops
  have hbegun : begunVerify ∈ badMm.issuing.ops := List.mem_singleton_self _
  have hkept : { begunVerify with job := noJob } ∈ badMm.state.ops := hops _ (State.mem_voidOps_of_begun hbegun rfl rfl rfl)
  exact absurd (congrArg Op.job (List.mem_singleton.1 hkept)) (by decide)

end Sys2Proof.Machine
end

section
/-!
PROOFS. ALU, LOAD and MAPSEL as the last word of the largest program (R206, R237, R243, R252): the PC after one that retires, and
SEQ_TRAPn.PC after one that traps.
-/

namespace Sys2Proof.Machine

variable {s : State} {c : Ctx}

/-- An instruction whose access the checks refuse traps; the refused access of a bank is counted (R201, R367). -/
theorem State.reading_refused {a n cause : Nat} (f : State → State) :
    s.reading c a n (some cause) f = (s.countDenied c.job a n).trapAt c cause := rfl

theorem State.accessTrap_misaligned {j : Job} {a n : Nat} (hmis : a % n ≠ 0) (write : Bool) :
    s.accessTrap j a n write = some cAddress := if_pos hmis

/-- A LOAD of a misaligned address traps with ADDRESS (R243). -/
theorem State.loadInsn_misaligned (hmis : memAddr c % loadBytes (iSub c.w) ≠ 0) :
    s.loadInsn c = (s.countDenied c.job (memAddr c) (loadBytes (iSub c.w))).trapAt c cAddress := by
  simp only [State.loadInsn, State.accessTrap_misaligned hmis, State.reading_refused]

/-- SEQ_TRAPn.PC holds 16 bits of the last word's index, and not 17. -/
theorem LastInsn.trapPc_ne (e : LastInsn) {u : State} (htask : u.taskOf LastInsn.ref = some e.task) (cause : Nat) :
    (u.trapAt e.ctx cause).rd .SEQ_TRAP_PC e.task.die e.task.seq ≠ e.task.pc % 2 ^ 17 := by
  have hwidths : e.task.pc % 2 ^ 16 ≠ e.task.pc % 2 ^ 17 := by
    have hlast : e.task.pc = 131071 := rfl
    simp [hlast]
  rwa [State.trapPc_trapAt e.issuedBy htask]

/-- ALU: g0 = g0 + 0. -/
def lastAlu : LastInsn := { word := 0x10 * 2 ^ 58 }

/-- Refutes O32: the statement says that ALU leaves the PC at the word index after it, whatever that is. At the last word of the largest
program the 17-bit PC is then 0 (R193, R206). Its other clauses retire likewise, and lack the premise that the next word index is below
2^17. -/
theorem not_scalarInstructions : ¬ Obligations.ScalarInstructions := by
  intro h
  obtain ⟨halu, -⟩ := h lastAlu.state LastInsn.ref lastAlu.ctx (lastAlu.state_ctx (by decide)) rfl (by decide)
  obtain ⟨x, hexec, htask⟩ := halu (by decide)
  obtain rfl := lastAlu.next_eq rfl (by decide) (by decide) (by decide) hexec
  exact lastAlu.not_retired (State.pc_retire lastAlu.issuedBy lastAlu.taskOf_issuing fun t => t.setG_num _ _) _ htask

/-- LOAD of 2 bytes at address 1. -/
def lastLoad : LastInsn := { word := 0x20 * 2 ^ 58 + 1 * 2 ^ 48 + 1 }

/-- Refutes O33: the statement says that, after the trap of a misaligned LOAD, SEQ_TRAPn.PC reads the PC of the instruction modulo 2^17.
The field holds bits [15:0] of the word index (07_fentoska_programming_model.md, SEQ_TRAPn): at word 131,071 it reads 65,535. The clauses
that retire say of the PC what O32 does. -/
theorem not_memoryInstructions : ¬ Obligations.MemoryInstructions := by
  intro h
  obtain ⟨-, hload, -⟩ := h lastLoad.state LastInsn.ref lastLoad.ctx (lastLoad.state_ctx (by decide)) rfl (by decide)
  obtain ⟨x, hexec, -, hpc⟩ := hload (by decide) (by decide)
  obtain rfl := lastLoad.next_eq rfl (by decide) (by decide) (by decide) hexec
  rw [State.loadInsn_misaligned (by decide)] at hpc
  have htask : (lastLoad.issuing.countDenied lastLoad.job 1 2).taskOf LastInsn.ref = some lastLoad.task :=
    (State.taskOf_of_same (State.countDenied_same rfl (.refl _ _) ..) _).trans lastLoad.taskOf_issuing
  exact lastLoad.trapPc_ne htask cAddress hpc

/-- MAPSEL of slot 0, which is none of its job's. -/
def lastMapsel : LastInsn := { word := 0x2C * 2 ^ 58 }

/-- Refutes O37: the statement says that, after the trap of a MAPSEL of another job's slot, SEQ_TRAPn.PC reads the PC of the instruction
modulo 2^17. The field holds bits [15:0] of the word index (07_fentoska_programming_model.md, SEQ_TRAPn): at word 131,071 it reads 65,535.
The clauses that retire say of the PC what O32 does. -/
theorem not_fabricInstructions : ¬ Obligations.FabricInstructions := by
  intro h
  obtain ⟨-, -, -, -, -, hmapsel⟩ :=
    h lastMapsel.state LastInsn.ref lastMapsel.ctx (lastMapsel.state_ctx (by decide)) rfl (by decide)
  obtain ⟨x, hexec, -, hpc⟩ := hmapsel (by decide) (by decide)
  obtain rfl := lastMapsel.next_eq rfl (by decide) (by decide) (by decide) hexec
  have hslot : bit lastMapsel.ctx.job.slots (bits lastMapsel.ctx.w 5 0) ≠ true := by decide
  simp only [if_neg hslot] at hpc
  exact lastMapsel.trapPc_ne lastMapsel.taskOf_issuing cAddress hpc

end Sys2Proof.Machine
end

section
/-!
PROOFS. A descriptor of a job that has committed and waits for its acknowledgement (R220): such a job faults no more, and a host read that
fails for its operation (R387) leaves the operation's ticket open.
-/

namespace Sys2Proof.Machine

variable {s : State} {j : Job} {o : Op}

theorem State.job_of_same {a s : State} (h : Same .jobs a s) (id : Nat) : s.job id = a.job id := by
  have hjobs : s.jobs = a.jobs := h
  simp only [State.job, hjobs]

theorem State.faultJob_ackWait {id : Nat} (hjob : s.job id = some j) (hst : j.st = .ackWait) (cause : Nat) :
    s.faultJob id cause = s := by
  simp [State.faultJob, hjob, hst]

/-- What an operation's reads meet changes no job that waits for its acknowledgement, nor any other. -/
theorem State.opReads_same_jobs (hjob : s.job o.job = some j) (hst : j.st = .ackWait) (m : Found) :
    Same .jobs s (s.opReads o m).2 := by
  have hreads : Same .jobs s (s.reads m (o.ins.flatMap tdRanges)).2 := State.reads_same rfl (.refl _ _) ..
  have hfault := State.faultJob_ackWait ((State.job_of_same hreads _).trans hjob) hst cAddress
  simp only [State.opReads, hfault, ite_self]
  exact hreads

/-- A host read that fails ends the descriptor, and its operation goes no further (R387). -/
theorem State.dmaEnd_readFails {d i : Nat} {m : Found} {v : DmaRun} (hat : s.dmaAt d i = some v)
    (hop : s.ops.find? (fun k => k.issue == v.issue && k.unit == .dma) = some o) (hruns : s.opRetrains o = false)
    (hfails : ((s.dmaRelease d i).opReads o m).1 = true) :
    s.dmaEnd d i m = ((s.dmaRelease d i).opReads o m).2.dmaPump d 8 := by
  simp [State.dmaEnd, hat, hop, hruns, hfails]

/-- Ticket 1 of the job is open. -/
def ackedInsn : LastInsn := { word := 0x22 * 2 ^ 58, opened := [1] }

/-- The job waits for its acknowledgement. -/
def ackedJob : Job := { ackedInsn.job with st := .ackWait }

/-- A MOVT of four FP32 values from host memory, whose only descriptor an engine has taken. -/
def ackedMovt : Op :=
  { job := 7, task := 0, ticket := 1, unit := .dma, die := 0, cls := 0, deadline := 2 ^ 64 - 1, issue := 0, left := 0, running := true,
    word := ackedInsn.word, ext := 0, ta := (fourFloats (2 ^ 45)).val, tb := 0, td := (fourFloats (2 ^ 45 + 64)).val, ga := 0, gb := 0,
    late := false }

/-- Its descriptor, on engine 0 of die 0. -/
def ackedRun : DmaRun := { die := 0, eng := 0, issue := 0, part := 0, scale := none, since := 0 }

def ackedState : State := { State.reset with jobs := [ackedJob], ops := [ackedMovt], dmas := [ackedRun] }

/-- The host aborts the read. -/
def abortedRead : Found := { Found.none with host := some .abort }

theorem ackedState_unpaused : ackedState.paused 0 0 = false := by decide
theorem ackedState_opRetrains : ackedState.opRetrains ackedMovt = false := by decide
theorem ackedState_readFails : ((ackedState.dmaRelease 0 0).opReads ackedMovt abortedRead).1 = true := by decide

/-- The end of the descriptor leaves the task as it is. -/
theorem ackedState_taskOf (r : TaskRef) : (ackedState.dmaEnd 0 0 abortedRead).taskOf r = ackedState.taskOf r := by
  have hreads : Same .jobs (ackedState.dmaRelease 0 0) _ :=
    State.opReads_same_jobs (o := ackedMovt) (j := ackedJob) rfl rfl abortedRead
  rw [State.dmaEnd_readFails rfl rfl ackedState_opRetrains ackedState_readFails]
  exact State.taskOf_of_same (State.dmaPump_same rfl hreads 0 8) r

/-- Refutes O39: the statement says that the last descriptor of a copy leaves its ticket done in every state in which the job is active,
also where it waits for the acknowledgement of its commit record. Such a job faults no more (`faultJob`): a read of host memory that fails
for its MOVT neither completes the operation nor ends the job, and the ticket stays open. R220 lets a job commit only once its operations
are complete, so the clauses on tickets lack the premise that the job does not wait for an acknowledgement. -/
theorem not_operationsEnd : ¬ Obligations.OperationsEnd := by
  intro h
  obtain ⟨-, -, -, hcopy, -⟩ := h ackedState
  obtain ⟨x, hexec, hdone⟩ := hcopy 0 0 abortedRead ackedRun ackedMovt ackedState_unpaused rfl rfl ackedState_opRetrains rfl rfl
    (by decide) rfl
  have hend : exec (.dmaDescriptorDone ⟨0, 0, abortedRead⟩) ackedState = .next (ackedState.dmaEnd 0 0 abortedRead) :=
    congrArg _ (if_neg (by simp [ackedState_unpaused]))
  obtain rfl := Host.Outcome.next.inj (hexec.symm.trans hend)
  have hopen := hdone ackedInsn.task (ackedState_taskOf _)
  exact absurd hopen (by decide)

end Sys2Proof.Machine
end

section
/-!
PROOFS. The PRG registers of a die (R292, R308): what HOLD, CLEAR, HANDBACK and PRG_STORE leave. The engines that take requests
afterwards write none of these fields.
-/

namespace Sys2Proof.Machine

variable {s : State} {d : Nat}

/-- Resetting a register leaves the fields of every other register alone. -/
theorem State.rd_resetReg_of_notMem {f : Field} {r : Reg} (hf : f ∉ r.fields) (s : State) (d i d' i' j' : Nat) :
    (s.resetReg r d i).rd f d' i' j' = s.rd f d' i' j' :=
  List.foldlRecOn (motive := fun u : State => u.rd f d' i' j' = s.rd f d' i' j') r.fields _ rfl
    fun u hu _ hg => (u.rd_wr_field (ne_of_mem_of_not_mem hg hf).symm ..).trans hu

theorem State.prgHold_hold (s : State) (d v : Nat) : (s.prgHold d v).rd .PRG_CTRL_HOLD d = v % 2 :=
  (rd_of_same (State.pump_same rfl (.refl _ _) d) d 0 0).trans (State.rd_wr_same ..)

/-- A change of HOLD is the expert write that takes the engines out of firmware management (R14). -/
theorem State.prgHold_expert {v : Nat} (hne : v % 2 ≠ s.rd .PRG_CTRL_HOLD d) : (s.prgHold d v).rd .PRG_STATUS_EXPERT d = 1 := by
  rw [State.prgHold, if_pos hne]
  exact (rd_of_same (State.pump_same rfl (wr_same rfl (.refl _ _) ..) d) d 0 0).trans (State.rd_wr_same ..)

/-- The counters that PRG_CTRL.CLEAR zeroes. -/
def prgCounters : List Field :=
  [.PRG_TILES_COUNT, .PRG_ITERS_COUNT, .PRG_COLFAIL_COUNT, .PRG_LATECNT_COUNT, .PRG_MAXLATE_LATENESS]

theorem State.prgClear_eq (s : State) (d : Nat) : s.prgClear d = s.each prgCounters fun u f => u.wr f 0 d := rfl

theorem State.prgClear_counter {f : Field} (hf : f ∈ prgCounters) : (s.prgClear d).rd f d = 0 := by
  rw [State.prgClear_eq]
  exact State.each_of_mem (P := fun u => u.rd f d = 0) hf (fun u => (u.rd_wr_same ..).trans (Nat.zero_mod _))
    fun u g hu => State.rd_wr_zero hu g ..

theorem State.prgHandback_hold (s : State) (d : Nat) : (s.prgHandback d).rd .PRG_CTRL_HOLD d = 0 := by
  refine (rd_of_same (State.pump_same rfl (wr_same rfl (.refl _ _) ..) d) d 0 0).trans ?_
  rw [State.rd_resetReg_of_notMem (by decide)]
  exact State.rd_wr_same ..

theorem State.prgHandback_expert (s : State) (d : Nat) : (s.prgHandback d).rd .PRG_STATUS_EXPERT d = 0 :=
  (rd_of_same (State.pump_same rfl (.refl _ _) d) d 0 0).trans (State.rd_wr_same ..)

/-- PRG_STORE takes a size that the die has, while its store is empty and no page that is taken would come to lie in it (R292). -/
theorem State.storeWrite_takes {v : Nat} (hmax : v ≤ 16) (hfits : v * 2 ^ 30 ≤ s.installed d)
    (himages : s.images.any (fun i => i.home == d) = false) (hloads : s.loads.any (fun l => l.home == d) = false)
    (hpages : (s.takenRuns d).any (fun r => decide (r.1 + r.2 > (s.installed d - v * 2 ^ 30) / 4096)) = false) :
    s.storeWrite d v = s.wr .PRG_STORE_GIB v d := by
  refine if_neg ?_
  simp only [himages, hloads, hpages, Bool.false_eq_true, or_false]
  omega

/-- Settles O10: each write acts on the state itself, and the lemma on its operation says what the fields then read. -/
theorem programmingRegisters : Obligations.ProgrammingRegisters := by
  intro s d o hw ho
  refine ⟨?hold, ?clear, ?handback, ?store⟩
  case hold => exact does_aloneWrite rfl hw ho ⟨s.prgHold_hold d _, State.prgHold_expert⟩
  case clear =>
    intro hv
    refine does_trigger rfl hw ho hv ⟨?_, ?_, ?_, ?_, ?_⟩
    all_goals exact State.prgClear_counter (by decide)
  case handback =>
    intro hv
    exact does_trigger rfl hw ho hv ⟨s.prgHandback_hold d, s.prgHandback_expert d⟩
  case store =>
    intro hmax hfits himages hloads hpages
    refine does_aloneWrite rfl hw ho ?_
    rw [State.storeWrite_takes hmax hfits himages hloads hpages, State.rd_wr_same, show Field.PRG_STORE_GIB.width = 5 from rfl]
    omega

end Sys2Proof.Machine
end

section
/-!
PROOFS. Host commands (R396, R400, R403): the shape that they share, and what a completion needs of the state that it is written in.
-/

namespace Sys2Proof.Machine

variable {s u : State}

/-! ## A command that is ready -/

theorem State.readyCmd_some {id op : Nat} {c : Cmd} (h : s.readyCmd id op = some c) :
    c ∈ s.cmds ∧ c.id = id ∧ c.opcode = op ∧ c.st = .ready := by
  have hkey := List.find?_some h
  simp only [Bool.and_eq_true, beq_iff_eq] at hkey
  exact ⟨List.mem_of_find?_eq_some h, hkey.1.1, hkey.1.2, hkey.2⟩

@[simp] theorem State.started_id (s : State) (c : Cmd) : (s.started c).id = c.id := by
  unfold State.started; split <;> rfl

@[simp] theorem State.started_opcode (s : State) (c : Cmd) : (s.started c).opcode = c.opcode := by
  unfold State.started; split <;> rfl

theorem State.runCmd_ready {id op : Nat} {c : Cmd} (h : s.readyCmd id op = some c) (f : State → Cmd → State) :
    s.runCmd id op f = f s (s.started c) := by
  simp only [State.runCmd, h]

theorem does_command {i : Instr} {id op : Nat} {c : Cmd} {f : State → Cmd → State} {P : State → Prop}
    (hexec : exec i s = .next (s.runCmd id op f)) (hready : s.readyCmd id op = some c) (hP : P (f s (s.started c))) :
    Does i s P :=
  ⟨_, hexec, by rwa [State.runCmd_ready hready]⟩

/-! ## Completions -/

/-- What the entry of a completion depends on: the pair, its registers, and the role of its function. -/
def completionReads : List Piece :=
  [.qps, .fld .MIR_FN_ROLE, .fld .QP_CFG_CQLOG2, .fld .QP_CQBASE_BASE, .fld .QP_STAT_SQHEAD]

/-- A command that changes nothing of these before its completion completes as `Completed` says. -/
theorem State.completeCmd_completed_of_same (h : ∀ g ∈ completionReads, Same g s u) (c : Cmd) (st res : Nat) :
    Completed c st res s (u.completeCmd c st res) := by
  simp only [completionReads, List.forall_mem_cons] at h
  obtain ⟨hqps, hrole, hlog, hbase, hhead, -⟩ := h
  exact State.completeCmd_completed c st res (congrArg (SMap.get none · c.q) hqps) fun p _ _ _ =>
    ⟨hrole .., hlog .., hbase .., hhead ..⟩

theorem State.completeCmd_completed_self (s : State) (c : Cmd) (st res : Nat) : Completed c st res s (s.completeCmd c st res) :=
  State.completeCmd_completed_of_same (fun g _ => .refl g s) c st res

end Sys2Proof.Machine
end

section
/-!
PROOFS. What the programming engines leave of the maps and of the image store: they take READY from maps and note the use of images,
and change nothing else of either (R294, R300, R307, R310).
-/

namespace Sys2Proof.Machine

variable {s u : State} {α : Type}

/-- The maps without READY, and the images without the order of their use. -/
def State.inventory (s : State) : List MapSt × List Image :=
  (s.maps.map fun m => { m with ready := false }, s.images.map fun i => { i with used := 0 })

/-- An operation that writes neither maps nor images leaves the inventory. -/
theorem State.inventory_of_writes {w : Piece → Bool} (hw : (w .maps || w .images) = false) (h : ∀ {g}, w g = false → Same g s u) :
    u.inventory = s.inventory := by
  simp only [Bool.or_eq_false_iff] at hw
  rw [State.inventory, State.inventory, show u.maps = s.maps from h hw.1, show u.images = s.images from h hw.2]

/-- What is said of some map, whatever its READY, is said of the inventory. -/
theorem State.exists_map_iff (h : u.inventory = s.inventory) {P : MapSt → Prop} (hP : ∀ m, P { m with ready := false } ↔ P m) :
    (∃ m ∈ u.maps, P m) ↔ ∃ m ∈ s.maps, P m := by
  have hmaps := congrArg Prod.fst h
  have hbare : ∀ t : State, (∃ m ∈ t.maps, P m) ↔ ∃ m ∈ t.inventory.1, P m := fun t => by
    simp only [State.inventory, List.mem_map, exists_exists_and_eq_and, hP]
  rw [hbare, hbare, hmaps]

/-- What is said of some image, whenever it was used, is said of the inventory. -/
theorem State.exists_image_iff (h : u.inventory = s.inventory) {P : Image → Prop} (hP : ∀ i, P { i with used := 0 } ↔ P i) :
    (∃ i ∈ u.images, P i) ↔ ∃ i ∈ s.images, P i := by
  have himages := congrArg Prod.snd h
  have hbare : ∀ t : State, (∃ i ∈ t.images, P i) ↔ ∃ i ∈ t.inventory.2, P i := fun t => by
    simp only [State.inventory, List.mem_map, exists_exists_and_eq_and, hP]
  rw [hbare, hbare, himages]

theorem State.inventory_useImage (s : State) (h : Nat) : (s.useImage h).inventory = s.inventory := by
  simp only [State.inventory, State.useImage, State.setAx_maps, State.setAx_images, List.map_map]
  congr 1
  refine List.map_congr_left fun i _ => ?_
  simp only [Function.comp]
  split <;> rfl

/-- READY comes and goes. -/
theorem State.inventory_updMap_ready (s : State) (slot m : Nat) (b : Bool) :
    (s.updMap slot m fun x => { x with ready := b }).inventory = s.inventory := by
  simp only [State.inventory, State.updMap, List.map_map]
  congr 1
  refine List.map_congr_left fun x _ => ?_
  simp only [Function.comp]
  split <;> rfl

theorem State.inventory_ite (c : Prop) [Decidable c] {t v : State} (ht : t.inventory = s.inventory) (hv : v.inventory = s.inventory) :
    (if c then t else v).inventory = s.inventory := by split <;> assumption

theorem State.inventory_each (s : State) (l : List α) {f : State → α → State} (hf : ∀ u x, (f u x).inventory = u.inventory) :
    (s.each l f).inventory = s.inventory :=
  State.each_induction (P := fun u => u.inventory = s.inventory) l rfl fun u x hu => (hf u x).trans hu

/-! ## An engine takes a request (R307, R310) -/

theorem State.inventory_unready (s : State) (d t : Nat) : (s.unready d t).inventory = s.inventory := by
  cases hplace : s.placeOf d t with
  | none => simp only [State.unready, hplace]
  | some p =>
    simp only [State.unready, hplace]
    have hlost : ∀ u : State, (u.switchLost p.slot p.map).inventory = u.inventory := fun u => State.inventory_ite _ rfl rfl
    exact (hlost _).trans (s.inventory_updMap_ready ..)

theorem State.inventory_enterProg (s : State) (r : PReq) : (s.enterProg r).inventory = s.inventory := by
  have hunplace : ∀ u : State, (u.unplace r.die r.tile).inventory = u.inventory := fun u =>
    State.inventory_of_writes (w := State.unplace_w) rfl fun hg => State.unplace_same hg (.refl _ _) ..
  have hset : ∀ u : State, (u.setTst r.die r.tile tsProgramming).inventory = u.inventory := fun u =>
    State.inventory_of_writes (w := State.setTst_w) rfl fun hg => State.setTst_same hg (.refl _ _) ..
  unfold State.enterProg
  extract_lets d t leaves s₁ s₂
  have h₁ : s₁.inventory = s.inventory := State.inventory_ite _ (s.inventory_unready d t) rfl
  have h₂ : s₂.inventory = s.inventory := State.inventory_ite _ ((hunplace s₁).trans h₁) h₁
  exact State.inventory_ite _ h₂ ((hset s₂).trans h₂)

theorem State.inventory_waitImage (s : State) (r : PReq) : (s.waitImage r).inventory = s.inventory :=
  State.inventory_of_writes (w := State.waitImage_w) rfl fun hg => State.waitImage_same hg (.refl _ _) _

theorem State.inventory_startReq (s : State) (r : PReq) (n : Nat) : (s.startReq r n).inventory = s.inventory := by
  have hshow : ∀ u : State, (u.showEngine r.die n r.shown r.tile r.kind).inventory = u.inventory := fun u =>
    State.inventory_of_writes (w := State.showEngine_w) rfl fun hg => State.showEngine_same hg (.refl _ _) ..
  unfold State.startReq
  extract_lets img pay s₁ s₂ s₃
  have h₁ : s₁.inventory = s.inventory := by
    cases h : img with
    | none => simp only [s₁, h]
    | some i =>
      simp only [s₁, h]
      exact State.inventory_ite _ (s.inventory_useImage _) rfl
  exact State.inventory_ite _ (s.inventory_waitImage r) ((s₃.inventory_enterProg r).trans ((hshow s₂).trans h₁))

theorem State.inventory_pump (s : State) (d : Nat) : (s.pump d).inventory = s.inventory := by
  have hfeed : ∀ u : State, (u.feedQueue d).inventory = u.inventory := fun u => rfl
  refine (hfeed _).trans ((State.inventory_each _ _ fun u n => ?_).trans (hfeed s))
  refine State.inventory_ite _ rfl ?_
  cases u.bestReq d with
  | none => rfl
  | some r => exact u.inventory_startReq r n

theorem State.inventory_progPush (s : State) (r : PReq) : (s.progPush r).inventory = s.inventory :=
  (State.inventory_pump _ _).trans (State.inventory_ite _ (State.inventory_waitImage _ _) rfl)

theorem State.inventory_programBlocks (s : State) (c : Cmd) (slot m : Nat) (ls : List Layer) (l : List (Nat × Nat × Nat × Nat × Nat)) :
    (s.programBlocks c slot m ls l).inventory = s.inventory := by
  refine State.inventory_each _ _ fun u e => ?_
  obtain ⟨k, i, j, d, t⟩ := e
  cases h : ls[k]? with
  | none => simp only [h]
  | some y => simpa only [h] using u.inventory_progPush _

/-! ## Work that an image has kept waiting goes on (R75, R296) -/

theorem State.inventory_startRefresh (s : State) (x : Refresh) : (s.startRefresh x).inventory = s.inventory := by
  unfold State.startRefresh
  refine State.inventory_ite _ rfl ?_
  cases s.placeOf x.die x.tile with
  | none => exact State.inventory_of_writes (w := State.dropRefresh_w) rfl fun hg => State.dropRefresh_same hg (.refl _ _) ..
  | some p =>
    refine State.inventory_ite _
      (State.inventory_of_writes (w := State.imageNeeded_w) rfl fun hg => State.imageNeeded_same hg (.refl _ _) ..) ?_
    cases (if s.swaps x.die then s.freeSpare x.die else none) with
    | some n =>
      have htake : (s.takeSpare x.die n).inventory = s.inventory :=
        State.inventory_of_writes (w := State.takeSpare_w) rfl fun hg => State.takeSpare_same hg (.refl _ _) ..
      exact (State.inventory_progPush _ _).trans htake
    | none =>
      have hhold : ∀ u : State, (u.wantHold x.die x.tile hcRefresh).inventory = u.inventory := fun u =>
        State.inventory_of_writes (w := State.wantHold_w) rfl fun hg => State.wantHold_same hg (.refl _ _) ..
      exact (State.inventory_progPush _ _).trans (hhold _)

theorem State.inventory_resumeWaits (s : State) : s.resumeWaits.inventory = s.inventory := by
  unfold State.resumeWaits
  extract_lets l s₁ x s₂
  have h₁ : s₁.inventory = s.inventory :=
    State.inventory_each _ _ fun u r => State.inventory_ite _ rfl (State.inventory_ite _ rfl rfl)
  have h₂ : s₂.inventory = s₁.inventory := State.inventory_each _ _ State.inventory_startRefresh
  exact (State.inventory_each _ _ fun u d => u.inventory_pump d).trans (h₂.trans h₁)

end Sys2Proof.Machine
end

section
/-!
PROOFS. Images, publisher keys and program objects (R191, R206 to R208, R287 to R289, R291 to R296, R541): what a command that passes
its checks leaves in the image store, in the Pockets, and among the loaded programs.
-/

namespace Sys2Proof.Machine

variable {s : State} {c : Cmd}

/-! ## Loads of images (R291, R292, R541) -/

/-- Without MAY_EVICT a load takes its home die's room, and no image leaves the store. -/
theorem State.takeRoom_home {n d : Nat} (hstay : bit (c.b 32 1) 0 = false) (hhome : s.homeFor n = some d) :
    s.takeRoom c n = { s.cmdRunning c with loads := s.loads ++ [⟨c.id, d, n⟩] } := by
  simp [State.takeRoom, hstay, hhome]

theorem State.imageLoad_takesRoom {head sig : List Byte} (hheader : verify1 head sig (c.b 24 8) = true)
    (hkey : s.verify2 head sig = true) : s.imageLoad c (.ok (head, sig)) = s.takeRoom c (c.b 24 8) := by
  simp [State.imageLoad, hheader, hkey]

/-- The store with the image of a load that has passed every check. -/
def State.stored (s : State) (c : Cmd) (l : Load) (b : List Byte) : State :=
  { s with loads := s.loads.filter (fun k => k.id != c.id), images := s.images ++ [imageOf b s.freeImageHandle l.home] }

section Passes

variable {b : List Byte} {l : Load} (hlen : b.length = l.bytes)
  (hheader : verify1 (b.take 192) (b.drop (b.length - 256)) l.bytes = true)
  (hkey : s.verify2 (b.take 192) (b.drop (b.length - 256)) = true) (hsig : verify3 b = true) (hdesc : verify4 b = true)
include hlen hheader hkey hsig hdesc

theorem State.imageLoaded_stored :
    s.imageLoaded c l b = ((((s.stored c l b).useImage s.freeImageHandle).rebind).event 0x50 0xFF sevInfo
      (s.freeImageHandle + atByte 1 l.home + atByte 8 (fieldAt (b.take 192) 24 8))).completeCmd c stOK s.freeImageHandle :=
  (if_neg (not_or.2 ⟨not_not.2 hlen, by simp [hheader]⟩)).trans <| (if_neg (by simp [hkey])).trans <| (if_neg (by simp [hsig])).trans <|
    if_neg (by simp [hdesc])

/-- What follows the entry of an image into the store leaves it there (R294, R296). -/
theorem State.exists_image_imageLoaded : ∃ i ∈ ((s.imageLoaded c l b).resumeWaits).images,
    i.handle = s.freeImageHandle ∧ i.digest = imageDigest b ∧ i.home = l.home ∧ i.body = b := by
  refine (State.exists_image_iff (State.inventory_resumeWaits _) fun _ => Iff.rfl).2 ?_
  have hsame : Same .images ((s.stored c l b).useImage s.freeImageHandle) (s.imageLoaded c l b) := by
    rw [State.imageLoaded_stored hlen hheader hkey hsig hdesc]
    exact State.completeCmd_same rfl (State.event_same rfl (State.rebind_same rfl (.refl _ _)) ..) ..
  rw [show (s.imageLoaded c l b).images = _ from hsame]
  refine (State.exists_image_iff (State.inventory_useImage _ _) fun _ => Iff.rfl).2 ?_
  exact ⟨_, List.mem_append_right _ (List.mem_singleton_self _), rfl, rfl, rfl, rfl⟩

end Passes

/-! ## IMAGE_EVICT (R293, R295) -/

theorem State.dropImage_gone (s : State) (h cause : Nat) : ∀ i ∈ (s.dropImage h cause).images, i.handle ≠ h := by
  unfold State.dropImage
  cases himage : s.image h with
  | none => simpa [State.image] using himage
  | some i =>
    simp only [State.event_images]
    rw [show ∀ u : State, u.rebind.images = u.images from fun _ => rfl]
    intro k hk
    simpa using (List.mem_filter.1 hk).2

theorem State.imageEvict_drops (hstored : (s.image (c.b 16 1)).isSome = true) (hidle : s.imageBusy (c.b 16 1) = false) :
    s.imageEvict c = (s.dropImage (c.b 16 1) 1).completeCmd c stOK 0 := by
  simp [State.imageEvict, hidle, Option.isSome_iff_ne_none.1 hstored]

theorem State.completed_dropImage (s : State) (c : Cmd) (h cause st res : Nat) :
    Completed c st res s ((s.dropImage h cause).completeCmd c st res) := by
  have hw : ∀ g ∈ completionReads, State.dropImage_w g = false := by decide
  exact State.completeCmd_completed_of_same (fun g hg => State.dropImage_same (hw g hg) (.refl _ _) ..) c st res

/-! ## Publisher keys (R287, R289) -/

/-- Setting a bit keeps what stands above and below it. -/
theorem setBit_true (w i : Nat) : setBit w i true = (w / 2 ^ i - w / 2 ^ i % 2 + 1) * 2 ^ i + w % 2 ^ i := by
  have hput : setBit w i true = w - w / 2 ^ i % 2 * 2 ^ i + 2 ^ i := by
    simp [setBit, setBits, bits, put, b2n]
  have hle : w / 2 ^ i % 2 * 2 ^ i ≤ w / 2 ^ i * 2 ^ i := Nat.mul_le_mul_right _ (Nat.mod_le _ 2)
  have hdiv := Nat.div_add_mod' w (2 ^ i)
  rw [hput, Nat.add_mul, Nat.sub_mul, Nat.one_mul]
  omega

theorem bit_setBit_self (w i : Nat) : bit (setBit w i true) i = true := by
  have hdiv : setBit w i true / 2 ^ i = w / 2 ^ i - w / 2 ^ i % 2 + 1 := by
    rw [setBit_true, Nat.mul_comm, Nat.mul_add_div (Nat.two_pow_pos i), Nat.div_eq_of_lt (Nat.mod_lt _ (Nat.two_pow_pos i)),
      Nat.add_zero]
  rw [bit, Nat.testBit_eq_decide_div_mod_eq, hdiv]
  exact decide_eq_true (by omega)

/-- The Pocket's bytes are stored as those of memory are. -/
theorem pktBytes_eq_storeBytes (m : SMap Byte) (k : Nat) (l : List Byte) : pktBytes m k l = storeBytes m k l := by
  induction l generalizing m k with
  | nil => rfl
  | cons b t ih => exact ih ..

/-- A number written to a page reads back, cut to its bytes. -/
theorem State.pktNum_pktWrite_same (s : State) (d page off n v : Nat) :
    (s.pktWrite d page off (leBytes n v)).pktNum d page off n = v % 256 ^ n := by
  rw [← ofLe_leBytes, State.pktNum]
  congr 1
  refine List.ext_getElem (by simp) fun i _ hi => ?_
  simp only [List.getElem_map, List.getElem_range, State.pkt, State.pktWrite, pktBytes_eq_storeBytes]
  rw [show pocketKey d page (off + i) = pocketKey d page off + i from (Nat.add_assoc ..).symm]
  exact storeBytes_at _ _ _ hi

/-- A write within the Pocket of one die leaves those of the others alone. -/
theorem State.pktNum_pktWrite_other {d e : Nat} (hne : e ≠ d) (s : State) {page off n : Nat} {l : List Byte}
    (hread : page * 4096 + off + n ≤ 2 ^ 19) (hwrite : page * 4096 + off + l.length ≤ 2 ^ 19) :
    (s.pktWrite d page off l).pktNum e page off n = s.pktNum e page off n := by
  rw [State.pktNum, State.pktNum]
  congr 1
  refine List.map_congr_left fun i hi => ?_
  have hi := List.mem_range.1 hi
  simp only [State.pkt, State.pktWrite, pktBytes_eq_storeBytes]
  refine storeBytes_other _ _ _ ?_
  simp only [pocketKey]
  omega

/-- What KEY_REVOKE writes on one die: the entry's bit of the revocation word, and the lock of the page (R289). -/
def State.revokeOn (s : State) (n : Nat) (lock : Bool) (d : Nat) : State :=
  (s.pktWrite d 10 0 (leBytes 4 (setBit (s.pktNum d 10 0 4) n true))).setAx .pageLock (if lock then 1 else s.ax .pageLock d 10) d 10

/-- The part after KEY_REVOKE, before its completion. -/
def State.revoked (s : State) (n : Nat) (lock : Bool) : State :=
  let u := (s.each s.onlineDies fun s d => s.revokeOn n lock d).keyEvent n 2
  if lock then u.keyEvent n 3 else u

theorem State.revokeOn_keyRevoked_same {n : Nat} (hn : n ≤ 7) (s : State) (lock : Bool) (d : Nat) :
    (s.revokeOn n lock d).keyRevoked d n = true := by
  have hword : (s.revokeOn n lock d).pktNum d 10 0 4 = setBit (s.pktNum d 10 0 4) n true % 2 ^ 32 := s.pktNum_pktWrite_same ..
  rw [State.keyRevoked, hword, bit, Nat.testBit_mod_two_pow, decide_eq_true (show n < 32 by omega), Bool.true_and]
  exact bit_setBit_self ..

theorem State.revokeOn_keyRevoked {d n : Nat} (hn : n ≤ 7) (h : s.keyRevoked d n = true) (lock : Bool) (e : Nat) :
    (s.revokeOn n lock e).keyRevoked d n = true := by
  by_cases he : d = e
  · exact he ▸ State.revokeOn_keyRevoked_same hn s lock d
  · have hword : (s.revokeOn n lock e).pktNum d 10 0 4 = s.pktNum d 10 0 4 :=
      s.pktNum_pktWrite_other he (by decide) (by rw [leBytes_length]; decide)
    rwa [State.keyRevoked, hword]

theorem State.keyRevoked_of_same {u : State} (h : Same .pocket s u) (d n : Nat) : u.keyRevoked d n = s.keyRevoked d n := by
  simp only [State.keyRevoked, State.pktNum, State.pkt, show u.pocket = s.pocket from h]

/-- What follows the writes of KEY_REVOKE are events. -/
theorem State.revoked_same {g : Piece} {a : State} (hg : State.keyEvent_w g = false) {n : Nat} {lock : Bool}
    (h : Same g a (s.each s.onlineDies fun s d => s.revokeOn n lock d)) : Same g a (s.revoked n lock) :=
  same_ite (State.keyEvent_same hg (State.keyEvent_same hg h ..) ..) (State.keyEvent_same hg h ..)

theorem State.revoked_keyRevoked {d n : Nat} (hn : n ≤ 7) (hd : d ∈ s.onlineDies) (lock : Bool) :
    (s.revoked n lock).keyRevoked d n = true :=
  (State.keyRevoked_of_same (State.revoked_same rfl (.refl _ _)) d n).trans
    (State.each_of_mem (P := fun u => u.keyRevoked d n = true) hd (fun u => u.revokeOn_keyRevoked_same hn lock d)
      fun _ e hu => State.revokeOn_keyRevoked hn hu lock e)

theorem State.keyRevoke_revokes (hn : c.b 16 1 ≤ 7) (hopen : s.dies.any (fun d => s.pageLocked d 10) = false) :
    s.keyRevoke c = (s.revoked (c.b 16 1) (bit (c.b 17 1) 0)).completeCmd c stOK 0 :=
  if_neg (by simpa only [hopen, Bool.false_eq_true, or_false, not_lt] using hn)

/-- A completion reads neither the Pockets, nor their locks, nor what an event writes. -/
theorem completionReads_keys :
    ∀ g ∈ completionReads, State.keyEvent_w g = false ∧ State.pktWrite_w g = false ∧ (g == .aux .pageLock) = false := by decide

theorem State.completed_revoked (s : State) (c : Cmd) (n st res : Nat) (lock : Bool) :
    Completed c st res s ((s.revoked n lock).completeCmd c st res) := by
  refine State.completeCmd_completed_of_same (fun g hg => ?_) c st res
  obtain ⟨hevent, hwrite, hlock⟩ := completionReads_keys g hg
  exact State.revoked_same hevent (State.each_same (.refl _ _) _ _ fun _ _ hu => setAx_same hlock (State.pktWrite_same hwrite hu ..) ..)

/-- The part after KEY_ENROL, before its completion: the entry is written, and its page locked, on every online die (R289). -/
def State.enrolled (s : State) (n : Nat) (h : BitVec 384) : State :=
  (s.each s.onlineDies fun s d =>
    (s.pktWrite d (2 + n) 0 (leBytes 48 h.toNat ++ [(1 : Byte)])).setAx .pageLock 1 d (2 + n)).keyEvent n 1

theorem State.keyEnrol_enrols (hn : c.b 16 1 ≤ 7)
    (hempty : s.onlineDies.any (fun d => s.pkt d (2 + c.b 16 1) 48 != 0 || s.pageLocked d (2 + c.b 16 1)) = false) (h : BitVec 384) :
    s.keyEnrol c (.ok h) = (s.enrolled (c.b 16 1) h).completeCmd c stOK 0 :=
  if_neg (by simpa only [hempty, Bool.false_eq_true, or_false, not_lt] using hn)

theorem State.enrolled_pageLock {d : Nat} (hd : d ∈ s.onlineDies) (n : Nat) (h : BitVec 384) :
    (s.enrolled n h).ax .pageLock d (2 + n) ≠ 0 := by
  rw [State.enrolled, show ∀ u : State, (u.keyEvent n 1).ax .pageLock d (2 + n) = u.ax .pageLock d (2 + n) from fun u =>
    (State.keyEvent_same (g := .aux .pageLock) rfl (.refl _ u) n 1) d (2 + n) 0]
  refine State.each_of_mem (P := fun u => u.ax .pageLock d (2 + n) ≠ 0) hd (fun u => ?_) fun u e hu => ?_
  · rw [State.ax_setAx_same]
    exact Nat.one_ne_zero
  · rw [State.ax_setAx]
    split
    · exact Nat.one_ne_zero
    · exact hu

theorem State.completed_enrolled (s : State) (c : Cmd) (n st res : Nat) (h : BitVec 384) :
    Completed c st res s ((s.enrolled n h).completeCmd c st res) := by
  refine State.completeCmd_completed_of_same (fun g hg => ?_) c st res
  obtain ⟨hevent, hwrite, hlock⟩ := completionReads_keys g hg
  exact State.keyEvent_same hevent
    (State.each_same (.refl _ _) _ _ fun _ _ hu => setAx_same hlock (State.pktWrite_same hwrite hu ..) ..) ..

/-! ## PROGRAM_LOAD (R191, R206 to R208) -/

variable {h d : Nat} {obj : List Byte}

/-- A die with room gives its copy to the program with the handle. -/
theorem State.prog_copyProg {p : Prog} {page : Nat} (hfree : s.freePages d (cdiv obj.length 4096) = some page)
    (hp : s.prog h = some p) : (s.copyProg h d obj).prog h = some { p with copies := p.copies ++ [(d, page)] } := by
  have hh : p.handle = h := by simpa using List.find?_some hp
  have hkey : (fun q : Prog => q.handle == h) ∘ (fun q => if q.handle = h then { q with copies := q.copies ++ [(d, page)] } else q) =
      fun q => q.handle == h := by
    funext q
    by_cases hq : q.handle = h <;> simp [hq]
  have hputs : ∀ (u : State) (l : List (Nat × Byte)), (u.putBytes l).progs = u.progs := fun u l =>
    State.putBytes_same (g := .progs) rfl (.refl _ u) l
  rw [State.prog, State.copyProg, hfree]
  simp only [hputs, List.find?_map, hkey]
  rw [← State.prog, hp]
  simp [hh]

theorem State.freePages_congr {u : State} (hruns : u.takenRuns d = s.takenRuns d)
    (hbelow : u.pagesBelowStore d = s.pagesBelowStore d) (n : Nat) : u.freePages d n = s.freePages d n := by
  simp only [State.freePages, hruns, hbelow]

/-- A copy takes pages of its own die only. -/
theorem State.takenRuns_copyProg {e : Nat} (hne : d ≠ e) (s : State) (h : Nat) (obj : List Byte) :
    (s.copyProg h d obj).takenRuns e = s.takenRuns e := by
  cases hfree : s.freePages d (cdiv obj.length 4096) with
  | none => simp only [State.copyProg, hfree]
  | some page =>
    have hruns : ∀ q : Prog, ((if q.handle = h then { q with copies := q.copies ++ [(d, page)] } else q).copies.filter
          (fun x => x.1 == e)).map (fun x => (x.2, (if q.handle = h then { q with copies := q.copies ++ [(d, page)] } else q).pages)) =
        (q.copies.filter (fun x => x.1 == e)).map (fun x => (x.2, q.pages)) := fun q => by
      split <;> simp [hne]
    simp only [State.copyProg, hfree, State.takenRuns, State.putBytes, List.flatMap_map, hruns]

theorem State.freePages_copyProg {e : Nat} (hne : d ≠ e) (s : State) (h : Nat) (obj : List Byte) (n : Nat) :
    (s.copyProg h d obj).freePages e n = s.freePages e n := by
  have hsame : ∀ f : Field, Same (.fld f) s (s.copyProg h d obj) := fun f => State.copyProg_same rfl (.refl _ s) ..
  refine State.freePages_congr (State.takenRuns_copyProg hne s h obj) ?_ n
  simp only [State.pagesBelowStore, State.installed, rd_of_same (hsame _)]

/-- Dies with room take one copy each. -/
theorem State.prog_eachCopy {l : List Nat} {p : Prog} (hl : l.Nodup) (hp : s.prog h = some p)
    (hfree : ∀ d ∈ l, ∃ page, s.freePages d (cdiv obj.length 4096) = some page) :
    ∃ cs : List (Nat × Nat), (s.each l fun s d => s.copyProg h d obj).prog h = some { p with copies := p.copies ++ cs } ∧
      cs.map Prod.fst = l := by
  induction l generalizing s p with
  | nil => exact ⟨[], by simpa using hp, rfl⟩
  | cons d l ih =>
    obtain ⟨hd, hl⟩ := List.nodup_cons.1 hl
    obtain ⟨page, hpage⟩ := hfree d List.mem_cons_self
    have hrest : ∀ e ∈ l, ∃ page, (s.copyProg h d obj).freePages e (cdiv obj.length 4096) = some page := fun e he => by
      rw [State.freePages_copyProg (ne_of_mem_of_not_mem he hd).symm]
      exact hfree e (List.mem_cons_of_mem d he)
    obtain ⟨cs, hcs, hdies⟩ := ih hl (State.prog_copyProg hpage hp) hrest
    refine ⟨(d, page) :: cs, ?_, congrArg (d :: ·) hdies⟩
    rw [State.each_cons, hcs, List.append_assoc]
    rfl

theorem State.onlineDies_nodup (s : State) : s.onlineDies.Nodup := List.nodup_range.filter _

/-- The state with a program under a handle, before any die has its copy. -/
def State.registered (s : State) (fn k : Nat) (obj : List Byte) : State :=
  { s with progs := s.progs.filter (fun q => q.handle != k) ++ [progOf fn k obj] }

section Free

variable {k : Nat} (hk : s.freeHandle = some k) (fn : Nat)
include hk

theorem State.freeHandle_unused : ∀ p ∈ s.progs, p.handle ≠ k := by
  simpa using List.find?_some hk

theorem State.registered_progs (obj : List Byte) : (s.registered fn k obj).progs = s.progs ++ [progOf fn k obj] := by
  have hothers : s.progs.filter (fun q => q.handle != k) = s.progs :=
    List.filter_eq_self.2 fun p hp => by simpa using State.freeHandle_unused hk p hp
  rw [State.registered, hothers]

theorem State.prog_registered (obj : List Byte) : (s.registered fn k obj).prog k = some (progOf fn k obj) := by
  have hnone : s.progs.find? (fun p => p.handle == k) = none :=
    List.find?_eq_none.2 fun p hp => by simpa using State.freeHandle_unused hk p hp
  rw [State.prog, State.registered_progs hk, List.find?_append, hnone]
  simp [progOf]

/-- A program without copies takes no pages. -/
theorem State.freePages_registered (d n : Nat) (obj : List Byte) : (s.registered fn k obj).freePages d n = s.freePages d n := by
  have hruns : (s.registered fn k obj).takenRuns d = s.takenRuns d := by
    rw [State.takenRuns, State.registered_progs hk, List.flatMap_append]
    simp [State.registered, State.takenRuns, progOf]
  exact State.freePages_congr hruns rfl n

/-- A program under a free handle has a copy on every online die, where each has room for it (R208). -/
theorem State.prog_installProg (hsize : (headerOf obj).size ≤ obj.length)
    (hfree : s.onlineDies.any (fun d => (s.freePages d (cdiv (headerOf obj).size 4096)).isNone) = false) :
    ∃ cs : List (Nat × Nat), (s.installProg fn k obj).prog k = some { progOf fn k obj with copies := cs } ∧
      cs.map Prod.fst = s.onlineDies := by
  refine State.prog_eachCopy (s := s.registered fn k obj) s.onlineDies_nodup (State.prog_registered hk fn obj) fun d hd => ?_
  rw [List.length_take_of_le hsize, State.freePages_registered hk]
  simpa [Option.ne_none_iff_exists'] using List.any_eq_false.1 hfree d hd

end Free

/-- The part after PROGRAM_LOAD, before its completion: the standby learns of the program as well (R440). -/
def State.programLoaded (s : State) (fn k : Nat) (obj : List Byte) : State :=
  (s.installProg fn k obj).journals fn (.load k (obj.take (headerOf obj).size))

theorem State.programLoad_loads {b : List Byte} {k : Nat} (hprivilege : (headerOf b).priv ≠ 1 ∨ c.fn = 0)
    (hsystem : (headerOf b).priv ≠ 0 ∨ hasSystem (codeOf (headerOf b) b) = false) (hlen : 64 ≤ c.b 24 4) (hread : 64 ≤ b.length)
    (hheader : (headerOf b).ok s.part.dies = true) (hsize : (headerOf b).size ≤ c.b 24 4) (hwhole : (headerOf b).size ≤ b.length)
    (hcode : codeOk (codeOf (headerOf b) b) (headerOf b).entry = true) (hk : s.freeHandle = some k)
    (hquota : s.held c.fn resLpddr + cdiv (headerOf b).size 4096 ≤ s.quota c.fn resLpddr)
    (hfree : s.onlineDies.any (fun d => (s.freePages d (cdiv (headerOf b).size 4096)).isNone) = false) :
    s.programLoad c (.ok b) = (s.programLoaded c.fn k b).completeCmd c stOK k := by
  have hallowed : ¬(((headerOf b).priv = 1 ∧ c.fn ≠ 0) ∨ ((headerOf b).priv = 0 ∧ hasSystem (codeOf (headerOf b) b) = true)) := by
    simp only [not_or, not_and, not_not, Bool.not_eq_true]
    exact ⟨fun h => hprivilege.resolve_left (not_not.2 h), fun h => hsystem.resolve_left (not_not.2 h)⟩
  refine (if_neg hallowed).trans ((if_neg ?_).trans ?_)
  · simp [hheader, hcode, hlen, hread, hsize, hwhole, not_lt]
  · simp only [hk]
    refine if_neg ?_
    simp [hfree, hquota]

theorem State.completed_programLoaded (s : State) (c : Cmd) (k : Nat) (b : List Byte) (st res : Nat) :
    Completed c st res s ((s.programLoaded c.fn k b).completeCmd c st res) := by
  have hw : ∀ g ∈ completionReads, State.journals_w g = false ∧ State.installProg_w g = false := by decide
  refine State.completeCmd_completed_of_same (fun g hg => ?_) c st res
  obtain ⟨hjournal, hinstall⟩ := hw g hg
  exact State.journals_same hjournal (State.installProg_same hinstall (.refl _ _) ..) ..

/-- The program stays loaded through the completion, with a copy on every online die. -/
theorem State.exists_prog_programLoaded {k : Nat} (hk : s.freeHandle = some k) (hwhole : (headerOf obj).size ≤ obj.length)
    (hfree : s.onlineDies.any (fun d => (s.freePages d (cdiv (headerOf obj).size 4096)).isNone) = false) (st res : Nat) :
    ∃ p ∈ ((s.programLoaded c.fn k obj).completeCmd c st res).progs, { p with copies := [] } =
      { progOf c.fn k obj with copies := [] } ∧ ∀ d ∈ s.onlineDies, p.copies.any (fun e => e.1 == d) = true := by
  obtain ⟨cs, hprog, hdies⟩ := State.prog_installProg hk c.fn hwhole hfree
  have hsame : ((s.programLoaded c.fn k obj).completeCmd c st res).progs = (s.installProg c.fn k obj).progs := by
    rw [State.completeCmd_progs]
    exact State.journals_same (g := .progs) rfl (.refl _ _) ..
  refine ⟨{ progOf c.fn k obj with copies := cs }, hsame ▸ List.mem_of_find?_eq_some hprog, rfl, fun d hd => ?_⟩
  obtain ⟨e, he, rfl⟩ := List.mem_map.1 (hdies ▸ hd)
  exact List.any_eq_true.2 ⟨e, he, beq_self_eq_true e.1⟩

/-- Settles O7: each command passes the checks that its clause names, and the lemmas on what it then does say what it leaves; its
completion finds the pair as the command found it. -/
theorem imagesAndKeys : Obligations.ImagesAndKeys := by
  intro s id c
  refine ⟨?load, ?stored, ?evict, ?enrol, ?revoke, ?program⟩
  case load =>
    intro head sig d hready hheader hkey hstay hhome
    refine does_command rfl hready ?_
    rw [State.imageLoad_takesRoom hheader hkey, State.takeRoom_home hstay hhome]
    exact ⟨rfl, rfl⟩
  case stored =>
    intro b l hcmd hload hlen hheader hkey hsig hdesc
    refine ⟨(s.imageLoaded c l b).resumeWaits, ?_, State.exists_image_imageLoaded hlen hheader hkey hsig hdesc⟩
    refine congrArg Host.Outcome.next ?_
    simp only [hcmd, hload]
  case evict =>
    intro hready hstored hidle
    refine does_command rfl hready ?_
    rw [State.imageEvict_drops hstored hidle, State.completeCmd_images]
    exact ⟨s.dropImage_gone _ 1, s.completed_dropImage ..⟩
  case enrol =>
    intro h hready hn hempty
    refine does_command rfl hready ?_
    rw [State.keyEnrol_enrols hn hempty]
    refine ⟨fun d hd => ?_, s.completed_enrolled ..⟩
    rw [State.ax_completeCmd _ _ _ _ _ _ (by decide)]
    exact State.enrolled_pageLock hd _ h
  case revoke =>
    intro hready hn hopen _
    refine does_command rfl hready ?_
    rw [State.keyRevoke_revokes hn hopen]
    refine ⟨fun d hd => ?_, s.completed_revoked ..⟩
    rw [State.keyRevoked_of_same (State.completeCmd_pocket ..)]
    exact State.revoked_keyRevoked hn hd _
  case program =>
    intro b k hready hprivilege hsystem hlen hread hheader hsize hwhole hcode hk hquota hfree
    refine does_command rfl hready ?_
    rw [State.programLoad_loads hprivilege hsystem hlen hread hheader hsize hwhole hcode hk hquota hfree]
    exact ⟨State.exists_prog_programLoaded hk hwhole hfree .., s.completed_programLoaded ..⟩

end Sys2Proof.Machine
end

section
/-!
PROOFS. Model slots (R298, R309 to R315): the binding of a map, what a map that is ready starts, the first layer of SLOT_REPLACE, and
what the freeing of a map and of a slot leaves.
-/

namespace Sys2Proof.Machine

variable {s : State} {c : Cmd} {slot m : Nat}

/-! ## The shape of a slot command (R298) -/

theorem State.slotCmd_runs {id op : Nat} {f : State → Cmd → State} (hready : s.readyCmd id op = some c) (map : Bool)
    (hslot : (s.started c).slot ≤ 63) (hmap : (s.started c).b 17 1 ≤ 1) (hturn : s.slotTurn (s.started c) = true)
    (hidle : op ≠ opSlotProgram ∨
      s.cmds.any (fun k => k.st == .running && k.opcode == op && k.slot == (s.started c).slot) = false) :
    s.slotCmd id op map f = f s (s.started c) := by
  rw [State.slotCmd, State.runCmd_ready hready, if_neg, if_neg, if_neg]
  · simp [hturn]
  · rintro ⟨hop, hruns⟩
    exact hidle.elim (· hop) fun h => by simp [h] at hruns
  · omega

theorem does_slotCommand {i : Instr} {id op : Nat} {map : Bool} {f : State → Cmd → State} {P : State → Prop}
    (hexec : exec i s = .next (s.slotCmd id op map f)) (hready : s.readyCmd id op = some c)
    (hslot : (s.started c).slot ≤ 63) (hmap : (s.started c).b 17 1 ≤ 1) (hturn : s.slotTurn (s.started c) = true)
    (hidle : op ≠ opSlotProgram ∨
      s.cmds.any (fun k => k.st == .running && k.opcode == op && k.slot == (s.started c).slot) = false)
    (hP : P (f s (s.started c))) : Does i s P :=
  ⟨_, hexec, by rwa [State.slotCmd_runs hready map hslot hmap hturn hidle]⟩

/-! ## A map that is ready (R310, R312) -/

/-- The map shows READY, and MAP_READY is raised. -/
def State.mapReported (s : State) (slot m : Nat) (x : MapSt) : State :=
  (s.updMap slot m (fun x => { x with ready := true })).event 0x54 0xFF sevInfo
    (slot + atByte 1 m + atByte 2 (x.handle.getD 0) + atByte 4 x.tiles)

/-- What the first check that finds a map ready makes known: MAP_READY, and the end of its SLOT_PROGRAM. -/
def State.mapAnnounced (s : State) (slot m : Nat) : State :=
  match s.mapOf slot m with
  | none => s
  | some x =>
    if x.ready then s
    else match (s.mapReported slot m x).runningOn opSlotProgram slot m with
      | some c => (s.mapReported slot m x).completeCmd c stOK 0
      | none => s.mapReported slot m x

theorem State.runningOn_some {op : Nat} (h : s.runningOn op slot m = some c) : c ∈ s.cmds ∧ c.opcode = op := by
  have hkey := List.find?_some h
  simp only [Bool.and_eq_true, beq_iff_eq] at hkey
  exact ⟨List.mem_of_find?_eq_some h, hkey.1.1.2⟩

theorem State.mapCheck_notReady (h : s.mapReady slot m = false) : s.mapCheck slot m = s := if_pos (by simp [h])

theorem State.mapCheck_ready (h : s.mapReady slot m = true) :
    s.mapCheck slot m =
      if ((s.mapAnnounced slot m).runningOn opSlotSwitch slot m).isSome ∨ (s.mapAnnounced slot m).ax .switchTarget 0 slot = m + 1 then
        (s.mapAnnounced slot m).requestSwitch slot m
      else s.mapAnnounced slot m :=
  if_neg (by simp [h])

/-- Whatever holds before, of the report, and of the end of a SLOT_PROGRAM on this map, holds once the map is announced. -/
theorem State.mapAnnounced_cases {P : State → Prop} (hs : P s) (hreport : ∀ x, P (s.mapReported slot m x))
    (hend : ∀ x c, (s.mapReported slot m x).runningOn opSlotProgram slot m = some c →
      P ((s.mapReported slot m x).completeCmd c stOK 0)) : P (s.mapAnnounced slot m) := by
  unfold State.mapAnnounced
  cases s.mapOf slot m with
  | none => exact hs
  | some x =>
    by_cases hx : x.ready = true
    · simpa only [hx, if_true] using hs
    · cases hrun : (s.mapReported slot m x).runningOn opSlotProgram slot m with
      | none => simpa only [hx, hrun, Bool.false_eq_true, if_false] using hreport x
      | some c => simpa only [hx, hrun, Bool.false_eq_true, if_false] using hend x c hrun

theorem State.inventory_completeCmd (s : State) (c : Cmd) (st res : Nat) : (s.completeCmd c st res).inventory = s.inventory :=
  State.inventory_of_writes (w := State.completeCmd_w) rfl fun hg => State.completeCmd_same hg (.refl _ _) ..

theorem State.inventory_mapReported (s : State) (slot m : Nat) (x : MapSt) : (s.mapReported slot m x).inventory = s.inventory :=
  (State.inventory_of_writes (w := State.event_w) rfl fun hg => State.event_same hg (.refl _ _) ..).trans
    (s.inventory_updMap_ready slot m true)

theorem State.inventory_mapCheck (s : State) (slot m : Nat) : (s.mapCheck slot m).inventory = s.inventory := by
  have hannounce : (s.mapAnnounced slot m).inventory = s.inventory :=
    State.mapAnnounced_cases (P := fun u => u.inventory = s.inventory) rfl (s.inventory_mapReported slot m) fun x c _ =>
      (State.inventory_completeCmd ..).trans (s.inventory_mapReported slot m x)
  have hrequest : ∀ u : State, (u.requestSwitch slot m).inventory = u.inventory := fun u =>
    State.inventory_of_writes (w := State.requestSwitch_w) rfl fun hg => State.requestSwitch_same hg (.refl _ _) ..
  cases h : s.mapReady slot m with
  | false => rw [State.mapCheck_notReady h]
  | true =>
    rw [State.mapCheck_ready h]
    exact State.inventory_ite _ ((hrequest _).trans hannounce) hannounce

@[simp] theorem State.mapReported_cmds (s : State) (slot m : Nat) (x : MapSt) : (s.mapReported slot m x).cmds = s.cmds :=
  State.event_cmds ..

/-- A check of a map fetches no command. -/
theorem State.mem_mapCheck_cmds {k : Cmd} (hk : k ∈ (s.mapCheck slot m).cmds) : k ∈ s.cmds := by
  have hannounce : ∀ k ∈ (s.mapAnnounced slot m).cmds, k ∈ s.cmds := by
    refine State.mapAnnounced_cases (P := fun u => ∀ k ∈ u.cmds, k ∈ s.cmds) (fun _ h => h) (fun x k h => ?_) fun x c _ k h => ?_
    · rwa [State.mapReported_cmds] at h
    · rw [State.completeCmd_cmds, State.mapReported_cmds] at h
      exact List.mem_of_mem_filter h
  cases h : s.mapReady slot m with
  | false => rwa [State.mapCheck_notReady h] at hk
  | true =>
    rw [State.mapCheck_ready h] at hk
    split at hk
    · rw [show ((s.mapAnnounced slot m).requestSwitch slot m).cmds = _ from
        State.requestSwitch_same (g := .cmds) rfl (.refl _ _) slot m] at hk
      exact hannounce k hk
    · exact hannounce k hk

theorem State.requestSwitch_target (s : State) (slot m : Nat) : (s.requestSwitch slot m).ax .switchTarget 0 slot = m + 1 := by
  have hwatch : ∀ u : State, (u.switchWatch slot).ax .switchTarget 0 slot = u.ax .switchTarget 0 slot := fun u =>
    State.switchWatch_same (g := .aux .switchTarget) rfl (.refl _ u) slot 0 slot 0
  unfold State.requestSwitch
  split
  · rename_i h
    rw [hwatch, h]
  · rw [hwatch, State.ax_setAx, if_neg (by simp), State.ax_setAx_same]

/-- A running SLOT_SWITCH proceeds when its map is ready, unless its own identifier is that of a SLOT_PROGRAM, whose end removes it. -/
theorem State.mapCheck_target {k : Cmd} (hready : s.mapReady slot m = true) (hk : k ∈ s.cmds) (hst : k.st = .running)
    (hop : k.opcode = opSlotSwitch) (hslot : k.slot = slot) (hmap : k.b 17 1 = m)
    (hother : ∀ e ∈ s.cmds, e.id = k.id → e.opcode ≠ opSlotProgram) :
    (s.mapCheck slot m).ax .switchTarget 0 slot = m + 1 := by
  have hstays : k ∈ (s.mapAnnounced slot m).cmds := by
    refine State.mapAnnounced_cases (P := fun u => k ∈ u.cmds) hk (fun x => ?_) fun x e he => ?_
    · rwa [State.mapReported_cmds]
    · obtain ⟨hmem, hprog⟩ := State.runningOn_some he
      rw [State.mapReported_cmds] at hmem
      rw [State.completeCmd_cmds, State.mapReported_cmds]
      exact List.mem_filter.2 ⟨hk, by simpa using fun h => hother e hmem h.symm hprog⟩
  have hruns : ((s.mapAnnounced slot m).runningOn opSlotSwitch slot m).isSome = true :=
    List.find?_isSome.2 ⟨k, hstays, by simp [hst, hop, hslot, hmap]⟩
  rw [State.mapCheck_ready hready, if_pos (Or.inl hruns)]
  exact State.requestSwitch_target ..

/-! ## SLOT_PROGRAM (R309, R310) -/

/-- The map bound to an image, with its panels copied. -/
def State.boundTo (s : State) (i : Image) (slot m : Nat) : State :=
  ((s.dropPanels slot m).bind i slot m).each ((s.dropPanels slot m).mapPanels slot m) fun u p => u.copyPanel i p

/-- A map is bound to an image that has a digest. -/
def State.Binds (s : State) (slot m handle digest : Nat) : Prop :=
  ∃ y ∈ s.maps, y.slot = slot ∧ y.map = m ∧ y.handle = some handle ∧ y.digest = digest

theorem State.binds_iff {u : State} (h : u.inventory = s.inventory) (slot m handle digest : Nat) :
    u.Binds slot m handle digest ↔ s.Binds slot m handle digest := State.exists_map_iff h fun _ => Iff.rfl

theorem State.boundTo_binds (s : State) (i : Image) (slot m : Nat) : (s.boundTo i slot m).Binds slot m i.handle i.digest := by
  have hmaps : Same .maps ((s.dropPanels slot m).bind i slot m) (s.boundTo i slot m) :=
    State.each_same (.refl _ _) _ _ fun _ _ hu => State.copyPanel_same rfl hu ..
  refine ⟨bindingOf i slot m, ?_, rfl, rfl, rfl, rfl⟩
  rw [show (s.boundTo i slot m).maps = _ from hmaps]
  exact List.mem_append_right _ (List.mem_singleton_self _)

section Program

variable {i : Image} (himage : s.image (c.b 18 1) = some i) (hnot : s.activeMap c.slot ≠ c.b 17 1)
  (hempty : s.mapTiles c.slot (c.b 17 1) = []) (hpanels : panelsOf i.layers = [])
include himage hnot hempty hpanels

/-- SLOT_PROGRAM with die mask 0 binds the map, and completes. -/
theorem State.slotProgram_unmasked (hmask : c.b 19 1 = 0) :
    s.slotProgram c = ((s.boundTo i c.slot (c.b 17 1)).completeCmd c stOK 0).mapCheck c.slot (c.b 17 1) := by
  have hnodies : ¬(2 ^ s.part.dies ≤ 0) := Nat.not_le.2 (Nat.two_pow_pos _)
  simp [State.slotProgram, himage, hmask, hnodies, bit, hnot, hempty, hpanels, State.takePanels, State.boundTo]

/-- SLOT_PROGRAM whose blocks find tiles binds the map, and runs on with a request for each block. -/
theorem State.slotProgram_masked {l : List (Nat × Nat × Nat × Nat × Nat)} (hmask : 0 < c.b 19 1)
    (hdies : c.b 19 1 < 2 ^ s.part.dies) (hexpert : s.onlineDies.any (fun d => bit (c.b 19 1) d && s.prgExpert d) = false)
    (hpend : s.mapPending c.slot (c.b 17 1) = false) (hroom : i.tiles ≤ sumBy (s.freeOn (c.b 19 1)) fun e => e.2.length)
    (hplace : placeBlocks (allBlocks i.layers) (s.freeOn (c.b 19 1)) = some l) :
    s.slotProgram c = (((s.boundTo i c.slot (c.b 17 1)).cmdRunning c).programBlocks c c.slot (c.b 17 1) i.layers l).mapCheck
      c.slot (c.b 17 1) := by
  simp [State.slotProgram, himage, hmask.ne', Nat.not_le.2 hdies, hexpert, hpend, Nat.not_lt.2 hroom, hplace, hnot, hempty, hpanels,
    State.takePanels, State.boundTo]

end Program

/-! ## SLOT_SWITCH (R312) -/

theorem State.slotSwitch_waits (hnot : s.activeMap c.slot ≠ c.b 17 1)
    (hfirmware : (s.mapTiles c.slot (c.b 17 1)).any (fun p => s.rdb .TIL_STATUS_EXPERT p.die p.tile) = false) :
    s.slotSwitch c = (s.cmdRunning { c with flags := 0, lateness := 0 }).mapCheck c.slot (c.b 17 1) :=
  (if_neg hnot).trans (if_neg (by simp [hfirmware]))

theorem State.mapReady_cmdRunning (s : State) (c : Cmd) (slot m : Nat) : (s.cmdRunning c).mapReady slot m = s.mapReady slot m := rfl

theorem State.mem_cmds_cmdRunning {k : Cmd} (hk : k ∈ s.cmds) (hid : k.id = c.id) : { c with st := .running } ∈ (s.cmdRunning c).cmds :=
  List.mem_map.2 ⟨k, hk, if_pos hid⟩

/-- Once a command runs, every command with its identifier is that command. -/
theorem State.eq_of_mem_cmds_cmdRunning {e : Cmd} (he : e ∈ (s.cmdRunning c).cmds) (hid : e.id = c.id) :
    e = { c with st := .running } := by
  obtain ⟨k, -, rfl⟩ := List.mem_map.1 he
  split at hid
  · rw [if_pos ‹_›]
  · exact absurd hid ‹_›

/-- A SLOT_SWITCH to a map that is ready requests the switch. -/
theorem State.slotSwitch_target {k : Cmd} (hk : k ∈ s.cmds) (hid : k.id = c.id) (hop : c.opcode = opSlotSwitch)
    (hnot : s.activeMap c.slot ≠ c.b 17 1)
    (hfirmware : (s.mapTiles c.slot (c.b 17 1)).any (fun p => s.rdb .TIL_STATUS_EXPERT p.die p.tile) = false)
    (hready : s.mapReady c.slot (c.b 17 1) = true) : (s.slotSwitch c).ax .switchTarget 0 c.slot = c.b 17 1 + 1 := by
  rw [State.slotSwitch_waits hnot hfirmware]
  refine State.mapCheck_target (k := { c with flags := 0, lateness := 0, st := .running }) hready (State.mem_cmds_cmdRunning hk hid) rfl hop
    rfl rfl fun e he hide => ?_
  rw [State.eq_of_mem_cmds_cmdRunning he hide]
  exact ne_of_eq_of_ne hop (by decide)

/-! ## SLOT_REPLACE (R314) -/

/-- SLOT_REPLACE takes up a layer that the image has: its tiles are to be HELD. -/
theorem State.mem_replLayer_repls {x : Repl} {i : Image} {k : Cmd} (himage : s.replImage x = some i)
    (hcmd : s.cmds.find? (fun c => c.id == x.id) = some k) (hlayer : (i.layers[x.layer]?).isSome = true) :
    { x with phase := .hold, heldAt := 0 } ∈ (s.replLayer x).repls := by
  have hne : (i.layers[x.layer]?).isNone = false := by simpa [Option.isSome_iff_ne_none] using hlayer
  unfold State.replLayer
  simp only [himage, hcmd, hne, Bool.false_eq_true, if_false]
  rw [show ∀ (u : State) (l : List Placed), (u.each l fun u p => u.wantHold p.die p.tile hcRepair).repls = u.repls from fun u l =>
    State.each_same (g := .repls) (.refl _ u) _ _ fun _ _ hu => State.wantHold_same rfl hu ..]
  exact List.mem_append_right _ (List.mem_singleton_self _)

/-- Which image a handle names does not depend on when images were used. -/
theorem State.image_of_inventory {u : State} (h : u.inventory = s.inventory) (k : Nat) :
    (u.image k).map (fun i => { i with used := 0 }) = (s.image k).map (fun i => { i with used := 0 }) := by
  have hbare : ∀ t : State, (t.image k).map (fun i => { i with used := 0 }) = t.inventory.2.find? (fun i => i.handle == k) := fun t => by
    rw [State.inventory, List.find?_map]
    rfl
  rw [hbare, hbare, h]

/-- The SLOT_REPLACE that a command starts on its slot's active map. -/
def Cmd.repl (c : Cmd) (s : State) (i : Image) : Repl :=
  { id := c.id, slot := c.slot, map := s.activeMap c.slot, handle := i.handle, digest := i.digest, layer := 0, phase := .hold,
    left := 0, heldAt := 0 }

theorem State.slotReplace_starts {u : State} {i : Image} {x : MapSt} (himage : s.image (c.b 18 1) = some i)
    (hmap : s.mapOf c.slot (s.activeMap c.slot) = some x) (hfits : replaceable i x = true)
    (hfirmware : (s.mapTiles c.slot (s.activeMap c.slot)).any (fun p => s.prgExpert p.die || s.unitsExpert p.die p.tile) = false)
    (hpages : s.reservePanels c.slot (s.activeMap c.slot) i = some u) :
    s.slotReplace c = ((u.cmdRunning c).useImage i.handle).replLayer (c.repl s i) := by
  simp only [State.slotReplace, himage, hmap, hfits, hfirmware, hpages]
  rfl

/-- SLOT_REPLACE takes up the first layer of the image. -/
theorem State.mem_slotReplace_repls {u : State} {i : Image} {k : Cmd} (himage : s.image (c.b 18 1) = some i)
    (hpages : s.reservePanels c.slot m i = some u) (hk : k ∈ s.cmds) (hid : k.id = c.id)
    (hlayer : (i.layers.head?).isSome = true) :
    c.repl s i ∈ (((u.cmdRunning c).useImage i.handle).replLayer (c.repl s i)).repls := by
  have hh : i.handle = c.b 18 1 := by simpa using List.find?_some himage
  have hreserve : ∀ {g}, State.reservePanels_w g = false → Same g s u := fun hg =>
    same_ofO hpages (State.reservePanels_same hg (.refl _ _) ..)
  have hinv : ((u.cmdRunning c).useImage i.handle).inventory = s.inventory :=
    (State.inventory_useImage ..).trans (State.inventory_of_writes (w := State.reservePanels_w) (u := u) rfl hreserve)
  obtain ⟨i', himage', hi'⟩ : ∃ i', ((u.cmdRunning c).useImage i.handle).image i.handle = some i' ∧
      ({ i' with used := 0 } : Image) = { i with used := 0 } := by
    have hfound := State.image_of_inventory hinv i.handle
    rwa [hh, himage, Option.map_some, Option.map_eq_some_iff, ← hh] at hfound
  have hdigest := congrArg Image.digest hi'
  have hlayers := congrArg Image.layers hi'
  dsimp only at hdigest hlayers
  have hcmds : Same .cmds (u.cmdRunning c) ((u.cmdRunning c).useImage i.handle) := State.useImage_same rfl (.refl _ _) _
  have hkept : u.cmds = s.cmds := hreserve (g := .cmds) rfl
  have hruns : { c with st := .running } ∈ ((u.cmdRunning c).useImage i.handle).cmds := by
    rw [show ((u.cmdRunning c).useImage i.handle).cmds = _ from hcmds]
    exact State.mem_cmds_cmdRunning (hkept ▸ hk) hid
  obtain ⟨e, he⟩ : ∃ e, ((u.cmdRunning c).useImage i.handle).cmds.find? (fun e => e.id == (c.repl s i).id) = some e :=
    Option.isSome_iff_exists.1 (List.find?_isSome.2 ⟨_, hruns, beq_self_eq_true c.id⟩)
  refine State.mem_replLayer_repls (i := i') ?_ he ?_
  · simp [State.replImage, Cmd.repl, himage', hdigest]
  · rw [hlayers, Cmd.repl, ← List.head?_eq_getElem?]
    exact hlayer

/-! ## MAP_FREE and SLOT_FREE (R313, R315) -/

/-- The state without a map's binding and Gusset region. -/
def State.unbound (s : State) (slot m : Nat) : State :=
  { s.dropPanels slot m with maps := s.maps.filter (fun x => !(x.slot == slot && x.map == m)) }

/-- A tile of a map that is freed leaves its pipeline, and is to be CLEARED; a RETIRED one only leaves its place. -/
def State.freeTile (s : State) (id : Nat) (p : Placed) : State :=
  let s := (s.endCal p.die p.tile).dropRefresh p.die p.tile
  let s : State := { s with progq := s.progq.filter (fun r => !(r.die == p.die && r.tile == p.tile && r.engine.isNone)) }
  if s.tst p.die p.tile = tsRetired then s.unplace p.die p.tile
  else
    let s := if s.inPipe p.die p.tile then (s.toStaged p.die p.tile).takePending p.die p.tile else s
    s.progPush { blankReq p.die p.tile 0 .clear (noPlace p.die p.tile) (2 ^ 64 - 1) with cmd := some id }

theorem State.freeMap_eq (s : State) (id slot m : Nat) :
    s.freeMap id slot m = (s.unbound slot m).each (s.mapTiles slot m) fun u p => u.freeTile id p := rfl

theorem State.freeTile_inventory (s : State) (id : Nat) (p : Placed) : (s.freeTile id p).inventory = s.inventory := by
  have hcal : ((s.endCal p.die p.tile).dropRefresh p.die p.tile).inventory = s.inventory :=
    (State.inventory_of_writes (w := State.dropRefresh_w) rfl fun hg => State.dropRefresh_same hg (.refl _ _) ..).trans
      (State.inventory_of_writes (w := State.endCal_w) rfl fun hg => State.endCal_same hg (.refl _ _) ..)
  have hunplace : ∀ u : State, (u.unplace p.die p.tile).inventory = u.inventory := fun u =>
    State.inventory_of_writes (w := State.unplace_w) rfl fun hg => State.unplace_same hg (.refl _ _) ..
  have hstaged : ∀ u : State, ((u.toStaged p.die p.tile).takePending p.die p.tile).inventory = u.inventory := fun u =>
    (State.inventory_of_writes (w := State.takePending_w) rfl fun hg => State.takePending_same hg (.refl _ _) ..).trans
      (State.inventory_of_writes (w := State.toStaged_w) rfl fun hg => State.toStaged_same hg (.refl _ _) ..)
  unfold State.freeTile
  extract_lets s₁ s₂ s₃
  have h₂ : s₂.inventory = s.inventory := hcal
  exact State.inventory_ite _ ((hunplace s₂).trans h₂)
    ((s₃.inventory_progPush _).trans (State.inventory_ite _ ((hstaged s₂).trans h₂) h₂))

theorem State.freeTile_panels (s : State) (id : Nat) (p : Placed) : (s.freeTile id p).panels = s.panels := by
  have hqueue : Same .panels s { (s.endCal p.die p.tile).dropRefresh p.die p.tile with
      progq := ((s.endCal p.die p.tile).dropRefresh p.die p.tile).progq.filter
        (fun r => !(r.die == p.die && r.tile == p.tile && r.engine.isNone)) } :=
    State.dropRefresh_same (g := .panels) rfl (State.endCal_same rfl (.refl _ _) ..) ..
  exact same_ite (g := .panels) (State.unplace_same rfl hqueue ..)
    (State.progPush_same rfl (same_ite (State.takePending_same rfl (State.toStaged_same rfl hqueue ..) ..) hqueue) _)

/-- The freed map has no binding, and the others keep theirs. -/
theorem State.exists_map_freeMap {P : MapSt → Prop} (hP : ∀ y, P { y with ready := false } ↔ P y) (s : State) (id slot m : Nat) :
    (∃ y ∈ (s.freeMap id slot m).maps, P y) ↔ ∃ y ∈ s.maps, ¬(y.slot = slot ∧ y.map = m) ∧ P y := by
  rw [State.freeMap_eq, State.exists_map_iff (State.inventory_each _ _ fun u p => u.freeTile_inventory id p) hP]
  simp [State.unbound, and_assoc, imp_iff_not_or]

/-- The freed map has no panel. -/
theorem State.mem_freeMap_panels {p : Panel} {id : Nat} (hp : p ∈ (s.freeMap id slot m).panels) : ¬(p.slot = slot ∧ p.map = m) := by
  have hpanels : ((s.unbound slot m).each (s.mapTiles slot m) fun u p => u.freeTile id p).panels = (s.unbound slot m).panels :=
    State.each_induction (P := fun u => u.panels = (s.unbound slot m).panels) _ rfl fun u p hu => (u.freeTile_panels id p).trans hu
  rw [State.freeMap_eq, hpanels] at hp
  simpa [imp_iff_not_or] using (List.mem_filter.1 hp).2

theorem State.inventory_clearedCheck (s : State) (id : Nat) : (s.clearedCheck id).inventory = s.inventory :=
  State.inventory_of_writes (w := State.clearedCheck_w) rfl fun hg => State.clearedCheck_same hg (.refl _ _) _

theorem State.mapFree_frees (hnot : s.activeMap c.slot ≠ c.b 17 1) (hwaits : s.switchWaits c.slot (c.b 17 1) = false)
    (hfirmware : (s.mapTiles c.slot (c.b 17 1)).any s.tileExpert = false) :
    s.mapFree c = ((s.cmdRunning c).freeMap c.id c.slot (c.b 17 1)).clearedCheck c.id :=
  (if_neg (by simp [hnot, hwaits])).trans (if_neg (by simp [hfirmware]))

/-- The state with no active map of a slot, and no switch to one. -/
def State.slotCleared (s : State) (slot : Nat) : State :=
  ((((s.setAx .activeMap 0 0 slot).setAx .switchTarget 0 0 slot).setAx .switchAt 0 0 slot).setAx .slotLost 0 0 slot).capUpdate

theorem State.slotFreed_eq (s : State) (c : Cmd) :
    s.slotFreed c = ((((s.slotCleared c.slot).freeMap c.id c.slot 0).freeMap c.id c.slot 1).setAx .seamAt 0 0 c.slot).clearedCheck
      c.id := rfl

theorem State.slotCleared_activeMap (s : State) (slot : Nat) : (s.slotCleared slot).ax .activeMap 0 slot = 0 := by
  have hcapacity : ∀ u : State, u.capUpdate.ax .activeMap 0 slot = u.ax .activeMap 0 slot := fun u =>
    State.capUpdate_same (g := .aux .activeMap) rfl (.refl _ u) 0 slot 0
  rw [State.slotCleared, hcapacity]
  exact State.ax_setAx_zero (State.ax_setAx_zero (State.ax_setAx_zero (s.ax_setAx_same ..) ..) ..) ..

/-- The slot that is freed has no active map. -/
theorem State.slotFreed_activeMap (s : State) (c : Cmd) : (s.slotFreed c).ax .activeMap 0 c.slot = 0 := by
  have hchecked : ∀ (u : State), (u.clearedCheck c.id).ax .activeMap 0 c.slot = u.ax .activeMap 0 c.slot := fun u =>
    State.clearedCheck_same (g := .aux .activeMap) rfl (.refl _ u) _ 0 c.slot 0
  have hfreed : ∀ (u : State) (m : Nat), (u.freeMap c.id c.slot m).ax .activeMap 0 c.slot = u.ax .activeMap 0 c.slot := fun u m =>
    State.freeMap_same (g := .aux .activeMap) rfl (.refl _ u) _ _ _ 0 c.slot 0
  rw [State.slotFreed_eq, hchecked, State.ax_setAx, if_neg (by simp), hfreed, hfreed]
  exact s.slotCleared_activeMap c.slot

/-- The slot that is freed has no map. -/
theorem State.mem_slotFreed_maps {y : MapSt} (hy : y ∈ (s.slotFreed c).maps) (hslot : y.slot = c.slot) : y.map ≠ 0 ∧ y.map ≠ 1 := by
  by_contra hmap
  have hbound : ∃ y ∈ (s.slotFreed c).maps, y.slot = c.slot ∧ ¬(y.map ≠ 0 ∧ y.map ≠ 1) := ⟨y, hy, hslot, hmap⟩
  rw [State.slotFreed_eq, State.exists_map_iff (State.inventory_clearedCheck ..) fun _ => Iff.rfl, State.setAx_maps,
    State.exists_map_freeMap fun _ => Iff.rfl, State.exists_map_freeMap fun _ => Iff.rfl] at hbound
  obtain ⟨y, -, h0, h1, hslot, hmap⟩ := hbound
  exact hmap ⟨fun h => h0 ⟨hslot, h⟩, fun h => h1 ⟨hslot, h⟩⟩

/-- Whether jobs use a slot does not depend on their grants (R410). -/
theorem State.slotJobs_grantSet (s : State) (fn k v slot : Nat) : (s.grantSet fn k v).slotJobs slot = s.slotJobs slot := by
  unfold State.grantSet
  extract_lets g
  split
  case isTrue => rfl
  case isFalse s₁ _ =>
    have htold : Same .jobs s₁ (((s₁.wr .FNQ_GRANT_SLOT (setBit g k (v % 2 == 1)) fn).sendQuotas fn).tenancy fn 0x63 sevInfo
        (fn + atByte 1 k + atByte 2 (v % 2))) :=
      State.tenancy_same rfl (State.sendQuotas_same rfl (wr_same rfl (.refl _ s₁) ..) _) ..
    rw [State.slotJobs, show State.jobs (State.tenancy _ _ _ _ _) = s₁.jobs from htold, ← State.slotJobs]
    simp only [s₁]
    split
    · rfl
    · simp only [State.slotJobs, List.any_map]
      refine List.any_congr rfl fun j => ?_
      simp only [Function.comp]
      split <;> rfl

/-- The grants of a slot that is freed are cleared (R315). -/
def State.ungranted (s : State) (slot : Nat) : State :=
  s.each (allFns.filter (fun f => bit (s.rd .FNQ_GRANT_SLOT f) slot)) (fun s f => s.grantSet f slot 0)

theorem State.slotFree_frees (hfirmware : (s.placed.filter (fun p => p.slot == c.slot)).any s.tileExpert = false)
    (hjobs : s.slotJobs c.slot = false) : s.slotFree c = ((s.ungranted c.slot).cmdRunning c).slotFreed c := by
  have hidle : (s.ungranted c.slot).slotJobs c.slot = false :=
    State.each_induction (P := fun u => u.slotJobs c.slot = false) _ hjobs fun u f hu => (u.slotJobs_grantSet ..).trans hu
  exact (if_neg (by simp [hfirmware])).trans (if_neg (Bool.eq_false_iff.1 hidle))

/-- Settles O8: each command takes the way that its clause names; the map that it binds, requests or frees outlives the work that the
engines then take. -/
theorem slotCommands : Obligations.SlotCommands := by
  intro s id c hslot hmap hturn
  have hother : ∀ {op : Nat}, op ≠ opSlotProgram → op ≠ opSlotProgram ∨
      s.cmds.any (fun k => k.st == .running && k.opcode == op && k.slot == (s.started c).slot) = false := Or.inl
  refine ⟨?program, ?bound, ?switch, ?waits, ?expert, ?active, ?replace, ?mapFree, ?slotFree, ?info, ?drained⟩
  case program =>
    intro i hready hidle himage hmask hdies hexpert hnot hempty hpend hroom hpanels hplace
    obtain ⟨l, hplace⟩ := Option.isSome_iff_exists.1 hplace
    refine does_slotCommand rfl hready hslot hmap hturn (.inr hidle) ?_
    rw [State.slotProgram_masked himage hnot hempty hpanels hmask hdies hexpert hpend hroom hplace]
    refine (State.binds_iff ?_ ..).2 (s.boundTo_binds i _ _)
    exact (State.inventory_mapCheck ..).trans (State.inventory_programBlocks ..)
  case bound =>
    intro i hready hidle himage hmask hnot hempty hpanels
    refine does_slotCommand rfl hready hslot hmap hturn (.inr hidle) ?_
    rw [State.slotProgram_unmasked himage hnot hempty hpanels hmask]
    refine ⟨(State.binds_iff ?_ ..).2 (s.boundTo_binds i _ _), fun k hk => ?_⟩
    · exact (State.inventory_mapCheck ..).trans (State.inventory_completeCmd ..)
    · have hleft := State.mem_mapCheck_cmds hk
      rw [State.completeCmd_cmds] at hleft
      simpa using (List.mem_filter.1 hleft).2
  case switch =>
    intro hready hfirmware _ hnot hmapReady
    obtain ⟨hmem, -, hop, -⟩ := State.readyCmd_some hready
    refine does_slotCommand rfl hready hslot hmap hturn (hother (by decide)) ?_
    exact State.slotSwitch_target hmem (s.started_id c).symm ((s.started_opcode c).trans hop) hnot hfirmware hmapReady
  case waits =>
    intro hready hfirmware hnot hmapReady
    refine does_slotCommand rfl hready hslot hmap hturn (hother (by decide)) ?_
    rw [State.slotSwitch_waits hnot hfirmware]
    exact State.mapCheck_notReady hmapReady
  case expert =>
    intro hready hexpert hnot
    refine does_slotCommand rfl hready hslot hmap hturn (hother (by decide)) ?_
    rw [State.slotSwitch, if_neg hnot, if_pos hexpert]
    exact s.completeCmd_completed_self ..
  case active =>
    intro hready hactive
    refine does_slotCommand rfl hready hslot hmap hturn (hother (by decide)) ?_
    rw [State.slotSwitch, if_pos hactive]
    exact s.completeCmd_completed_self ..
  case replace =>
    intro i x hready himage hx hfits hfirmware hpages hlayer
    obtain ⟨u, hu⟩ := Option.isSome_iff_exists.1 hpages
    obtain ⟨hmem, -⟩ := State.readyCmd_some hready
    refine does_slotCommand rfl hready hslot hmap hturn (hother (by decide)) ?_
    rw [State.slotReplace_starts himage hx hfits hfirmware hu]
    obtain ⟨l, hhead, -⟩ := (Option.any_eq_true ..).1 hlayer
    have htaken := State.mem_slotReplace_repls himage hu hmem (s.started_id c).symm (Option.isSome_of_eq_some hhead)
    exact ⟨_, htaken, rfl, rfl, rfl, rfl, rfl, rfl⟩
  case mapFree =>
    intro hready hnot hwaits hfirmware
    refine does_slotCommand rfl hready hslot hmap hturn (hother (by decide)) ?_
    rw [State.mapFree_frees hnot hwaits hfirmware]
    refine ⟨fun y hy hfreed => ?_, fun p hp => ?_⟩
    · have hbound := (State.exists_map_iff (P := fun y => y.slot = _ ∧ y.map = _) (State.inventory_clearedCheck ..) fun _ => Iff.rfl).1
        ⟨y, hy, hfreed⟩
      obtain ⟨z, -, hkept, hz⟩ := (State.exists_map_freeMap (fun _ => Iff.rfl) ..).1 hbound
      exact hkept hz
    · rw [show State.panels (State.clearedCheck _ _) = _ from State.clearedCheck_same (g := .panels) rfl (.refl _ _) _] at hp
      exact State.mem_freeMap_panels hp
  case slotFree =>
    intro hready hfirmware hjobs
    refine does_slotCommand rfl hready hslot hmap hturn (hother (by decide)) ?_
    rw [State.slotFree_frees hfirmware hjobs]
    exact ⟨State.slotFreed_activeMap .., fun y hy => State.mem_slotFreed_maps hy⟩
  case info =>
    intro hready
    refine does_slotCommand rfl hready hslot hmap hturn (hother (by decide)) ⟨rfl, ?_⟩
    exact State.completeCmd_completed _ stOK 0 rfl fun _ _ _ _ => ⟨rfl, rfl, rfl, rfl⟩
  case drained =>
    intro k hcmd hjobs hqueue
    refine ⟨s.slotFreed k, congrArg Host.Outcome.next ?_, s.slotFreed_activeMap k, fun y hy => State.mem_slotFreed_maps hy⟩
    simp [hcmd, hjobs, hqueue]

end Sys2Proof.Machine
end

section
/-!
PROOFS. A periodic full calibration that falls due (R337): a tile whose full calibration runs is not queued for another one.
-/

namespace Sys2Proof.Machine

theorem State.queueCal_of_fullRuns {s : State} {d t : Nat} (hfull : s.fullRuns d t = true) (prio : Nat) : s.queueCal d t prio = s :=
  if_pos hfull

/-- PERIODIC_FULL_CAL_DUE has no effect on a tile whose full calibration runs. -/
theorem exec_periodicFullCalDue_of_fullRuns {s : State} {d t : Nat} (hfull : s.fullRuns d t = true) :
    exec (.periodicFullCalDue d t) s = .next s := by
  have hqueue := State.queueCal_of_fullRuns hfull 3
  refine congrArg Host.Outcome.next ?_
  dsimp only
  split
  · exact hqueue
  · rfl

/-- A part whose die 0 is online, 200 days after its tile 0, which is SERVING, was last calibrated; a full calibration of the tile runs,
and none is queued. -/
def servingTileCalibrates : State :=
  { (State.reset.wr .GLB_CAPACITY_DIE_ONLINE 1).wr .TIL_STATUS_STATE tsServing with
    dt := 8 * 200 * 86400 * 10 ^ 9
    placed := [{ slot := 0, map := 1, layer := 0, rowBlk := 0, colBlk := 0, die := 0, tile := 0, rowsM1 := 3, colsM1 := 3 }]
    cals := [{ die := 0, tile := 0, full := true, left := 512, op := none, since := 0, codes := [] }] }

theorem servingTileCalibrates_online : servingTileCalibrates.online 0 = true := by decide
theorem servingTileCalibrates_days : servingTileCalibrates.rd .CAL_CFG_FULL_DAYS ≠ 0 := by decide
theorem servingTileCalibrates_placed : (servingTileCalibrates.placeOf 0 0).isSome = true := by decide
theorem servingTileCalibrates_serving : servingTileCalibrates.tst 0 0 = tsServing := by decide
theorem servingTileCalibrates_due :
    (servingTileCalibrates.tile 0 0).fullAt + servingTileCalibrates.rd .CAL_CFG_FULL_DAYS * 86400 * 10 ^ 9 ≤ servingTileCalibrates.now := by
  decide
theorem servingTileCalibrates_fullRuns : servingTileCalibrates.fullRuns 0 0 = true := by decide

/-- Refutes O19: the clause on the periodic full calibration says that a SERVING tile for which one is due is in the queue afterwards,
in every state. While a full calibration of the tile runs, PERIODIC_FULL_CAL_DUE has no effect, and the queue stays empty. The clause
lacks the premise that the clause on the drift interval has, that the tile is in no full calibration. -/
theorem not_tracesAndCalibration : ¬ Obligations.TracesAndCalibration := by
  intro h
  obtain ⟨-, -, -, -, -, -, -, hperiodic, -⟩ := h servingTileCalibrates 0 0
  obtain ⟨u, hexec, r, hqueued, -⟩ := hperiodic servingTileCalibrates_online servingTileCalibrates_days servingTileCalibrates_placed
    servingTileCalibrates_serving servingTileCalibrates_due
  cases (exec_periodicFullCalDue_of_fullRuns servingTileCalibrates_fullRuns).symm.trans hexec
  exact List.not_mem_nil hqueued

end Sys2Proof.Machine
end

section
/-!
PROOFS. The calibration registers and the table window (R343, R346, R348): what HOLD, HANDBACK and TRACE of CAL_CTRL leave, what a
written entry and a hand-back make of the expert marks, and which refreshes the end of one leaves.
-/

namespace Sys2Proof.Machine

variable {s : State} {d t : Nat}

theorem State.tile_of_same {u : State} (h : Same .tiles s u) (d t : Nat) : u.tile d t = s.tile d t :=
  congrArg (fun m => SMap.get TileSt.fresh m (gid d t)) h

theorem State.tile_updTile_same (s : State) (d t : Nat) (f : TileSt → TileSt) : (s.updTile d t f).tile d t = f (s.tile d t) :=
  SMap.get_set_same ..

/-! ## CAL_CTRL -/

/-- A change of HOLD, before the engine takes up what waited (R346). -/
def State.calHeldBy (s : State) (d v : Nat) : State := ((s.setAx .calExpert 1 d).wr .CAL_CTRL_HOLD v d).calExpertShow d

/-- What the end of HOLD lets the engine do leaves alone the pieces that its operations do not write. -/
theorem State.calHold_same_calHeldBy {g : Piece} (hg : State.calResume_w g = false) {v : Nat} (hne : v % 2 ≠ s.rd .CAL_CTRL_HOLD d) :
    Same g (s.calHeldBy d v) (s.calHold d v) := by
  rw [State.calHold, if_neg hne]
  exact same_ite (.refl _ _) (State.calResume_same hg (.refl _ _) d)

theorem State.calHeldBy_hold (s : State) (d v : Nat) : (s.calHeldBy d v).rd .CAL_CTRL_HOLD d = v % 2 :=
  (State.rd_wr_field _ (by decide) ..).trans (State.rd_wr_same ..)

/-- A die whose calibration engine is handed back, before its tiles are (R348). -/
def State.engineBack (s : State) (d : Nat) : State :=
  (((((s.resetReg .CAL_CFG d 0).resetReg .CAL_RAMP d 0).resetReg .CAL_LIMIT d 0).resetReg .CAL_REFRESH d 0).wr .CAL_CTRL_HOLD 0 d).setAx
    .calExpert 0 d

theorem State.engineBack_hold (s : State) (d : Nat) : (s.engineBack d).rd .CAL_CTRL_HOLD d = 0 := by
  rw [State.engineBack, State.rd_setAx, State.rd_wr_same, Nat.zero_mod]

theorem State.engineBack_calExpert (s : State) (d : Nat) : (s.engineBack d).ax .calExpert d = 0 := State.ax_setAx_same ..

/-- The hand-back of the tiles of a die, and what waited for it, leave HOLD and the expert mark of the engine alone. -/
theorem State.calHandback_same_engineBack {g : Piece}
    (hg : (State.calTileBack_w g || State.calExpertShow_w g || State.calResume_w g) = false) :
    Same g (s.engineBack d) (s.calHandback d) := by
  simp only [Bool.or_eq_false_iff, and_assoc] at hg
  obtain ⟨htile, hshow, hresume⟩ := hg
  have hshown := State.calExpertShow_same hshow
    (State.each_same (.refl g (s.engineBack d)) ((List.range 1664).filter fun t => ((s.engineBack d).tile d t).expert)
      (fun u t => u.calTileBack d t) fun u t hu => State.calTileBack_same htile hu d t) d
  exact same_ite (State.calResume_same hresume hshown d) hshown

/-- A trace starts where no online die traces (R525). -/
theorem State.traceBegin_runs (hnone : s.onlineDies.any (fun e => s.ax .traceRun e == 1) = false) :
    (s.traceBegin d).ax .traceRun d = 1 := by
  rw [State.traceBegin, if_neg (by simp [hnone])]
  exact (setAx_same (x := .traceWait) rfl (.refl (.aux .traceRun) _) 0 d 0 0 d 0 0).trans (State.ax_setAx_same ..)

/-- TRACE reads 1 after a write of 1, whether the trace starts or waits (R328). -/
theorem State.traceAsk_trace (h : s.rd .CAL_CTRL_TRACE d < 2) : (s.traceAsk d).rd .CAL_CTRL_TRACE d = 1 := by
  rw [State.traceAsk]
  split
  case isTrue hasked =>
    have : s.rd .CAL_CTRL_TRACE d ≠ 0 := by simpa [State.rdb] using hasked
    omega
  case isFalse =>
    have hwritten : Same (.fld .CAL_CTRL_TRACE) (s.wr .CAL_CTRL_TRACE 1 d)
        (if (s.wr .CAL_CTRL_TRACE 1 d).traceReady d then (s.wr .CAL_CTRL_TRACE 1 d).traceBegin d else s.wr .CAL_CTRL_TRACE 1 d) :=
      same_ite (State.traceBegin_same rfl (.refl _ _) d) (.refl _ _)
    exact (rd_of_same hwritten d 0 0).trans (State.rd_wr_same ..)

theorem State.traceReady_wr_trace (s : State) (d v : Nat) : (s.wr .CAL_CTRL_TRACE v d).traceReady d = s.traceReady d := by
  simp [State.traceReady, State.rdb, State.rd_wr_field]

theorem State.onlineDies_wr_trace (s : State) (d v : Nat) : (s.wr .CAL_CTRL_TRACE v d).onlineDies = s.onlineDies := by
  have honline : (s.wr .CAL_CTRL_TRACE v d).online = s.online :=
    funext fun e => by rw [State.online, s.rd_wr_field (by decide)]; rfl
  exact congrArg (fun p => s.dies.filter p) honline

/-- A trace that CAL_CTRL.TRACE asks for starts at once on a die that is ready, where no online die traces. -/
theorem State.traceAsk_runs (hready : s.traceReady d = true) (htrace : s.rd .CAL_CTRL_TRACE d = 0)
    (hnone : s.onlineDies.any (fun e => s.ax .traceRun e == 1) = false) : (s.traceAsk d).ax .traceRun d = 1 := by
  have hasked : s.traceAsk d = (s.wr .CAL_CTRL_TRACE 1 d).traceBegin d := by
    simp [State.traceAsk, State.rdb, htrace, State.traceReady_wr_trace, hready]
  rw [hasked]
  exact State.traceBegin_runs (by rwa [State.onlineDies_wr_trace])

/-! ## Expert marks and the table window -/

/-- The tile leaves firmware management, and CAL_STATUS shows it (R348). -/
def State.calTileExpert (s : State) (d t : Nat) : State := (s.updTile d t fun x => { x with expert := true }).calExpertShow d

theorem State.calTileExpert_expert (s : State) (d t : Nat) : ((s.calTileExpert d t).tile d t).expert = true :=
  congrArg TileSt.expert (s.tile_updTile_same d t fun x => { x with expert := true })

/-- CAL_STATUS.EXPERT reads 1 where a tile of the die is out of firmware management. -/
theorem State.calExpertShow_shown (ht : t < 1664) (hexpert : (s.tile d t).expert = true) :
    (s.calExpertShow d).rd .CAL_STATUS_EXPERT d = 1 := by
  have hany : (List.range 1664).any (fun t => (s.tile d t).expert) = true := List.any_eq_true.2 ⟨t, List.mem_range.2 ht, hexpert⟩
  rw [State.calExpertShow, State.rd_wr_same, hany, Bool.or_true]
  rfl

/-- An accepted write of the window changes, beside the expert marks, tables and records only. -/
theorem State.tabWrite_same_calTileExpert {g : Piece} (htab : State.setTab_w g = false) (hrec : State.setRecord_w g = false) {v : Nat}
    (haccepts : s.tabAccepts d v = true) : Same g (s.calTileExpert d (s.rd .CAL_TAB_ADDR_TILE d)) (s.tabWrite d v) := by
  have hrefl := Same.refl g (s.calTileExpert d (s.rd .CAL_TAB_ADDR_TILE d))
  rw [State.tabWrite, if_neg (by simp [haccepts])]
  refine same_ite (State.setRecord_same hrec (State.setTab_same htab hrefl ..) ..) (same_ite (State.setTab_same htab hrefl ..) ?_)
  exact same_ite (State.setTab_same htab hrefl ..) (State.setTab_same htab (State.setTab_same htab hrefl ..) ..)

theorem State.tile_lt_of_tabAccepts {v : Nat} (haccepts : s.tabAccepts d v = true) : s.rd .CAL_TAB_ADDR_TILE d < 1664 := by
  simp only [State.tabAccepts, Bool.and_eq_true, decide_eq_true_eq] at haccepts
  obtain ⟨⟨⟨-, -, ht⟩, -⟩, -⟩ := haccepts
  exact ht

/-- A hand-back leaves the tile with the firmware: no later part of it writes hidden tile state. -/
theorem State.calTileBack_expert (s : State) (d t : Nat) : ((s.calTileBack d t).tile d t).expert = false := by
  have hback : Same .tiles ((s.takeNew d t).updTile d t fun x => { x with expert := false }) (s.calTileBack d t) :=
    State.calForMap_same rfl (State.aim_same rfl (State.takeFull_same rfl (.refl _ _) ..) ..) ..
  rw [State.tile_of_same hback, State.tile_updTile_same]

/-! ## Refreshes -/

theorem State.mem_refreshDone {x y : Refresh} (hy : y ∈ (s.refreshDone x).refreshes) : ¬(y.die = x.die ∧ y.tile = x.tile) := by
  have hleft : (s.refreshDone x).refreshes = s.refreshes.filter fun y => !(y.die == x.die && y.tile == x.tile) :=
    State.endOp_same (g := .refreshes) rfl (State.event_same rfl (.refl _ _) ..) ..
  rw [hleft] at hy
  exact fun hsame => by simpa [hsame] using List.of_mem_filter hy

/-- Settles O20: each clause is what its write of CAL_CTRL, of the window or of CAL_HANDBACK, or the end of the refresh, makes of the
state, and the operations that follow in the same step leave what the clause reads alone. -/
theorem calibrationRegisters : Obligations.CalibrationRegisters := by
  intro s d t
  refine ⟨?hold, ?clear, ?handback, ?trace, ?tileBack, ?read, ?write, ?refreshEnd⟩
  case hold =>
    intro o hw ho hne
    refine does_aloneWrite rfl hw ho ?_
    have hsame {g : Piece} (hg : State.calResume_w g = false) := State.calHold_same_calHeldBy hg hne
    refine ⟨(rd_of_same (hsame rfl) d 0 0).trans (s.calHeldBy_hold d o.w.v), ?_⟩
    exact (hsame (g := .aux .calExpert) rfl d 0 0).trans (s.ax_setAx_same .calExpert 1 d 0 0)
  case clear =>
    intro o hw ho hv
    exact does_trigger rfl hw ho hv ⟨(State.rd_wr_field _ (by decide) ..).trans (State.rd_wr_same ..), State.rd_wr_same ..⟩
  case handback =>
    intro o hw ho hv
    refine does_trigger rfl hw ho hv ?_
    have hhold := State.calHandback_same_engineBack (g := .fld .CAL_CTRL_HOLD) (s := s) (d := d) rfl d 0 0
    have hmark := State.calHandback_same_engineBack (g := .aux .calExpert) (s := s) (d := d) rfl d 0 0
    exact ⟨hhold.trans (s.engineBack_hold d), hmark.trans (s.engineBack_calExpert d)⟩
  case trace =>
    intro o hw ho hv htrace
    exact does_trigger rfl hw ho hv ⟨State.traceAsk_trace htrace, State.traceAsk_runs⟩
  case tileBack =>
    intro o hw ho hv
    have hshown : Same .tiles (s.calTileBack d t) ((s.calTileBack d t).calExpertShow d) := State.calExpertShow_same rfl (.refl _ _) d
    exact does_trigger rfl hw ho hv ((congrArg TileSt.expert (State.tile_of_same hshown d t)).trans (s.calTileBack_expert d t))
  case read =>
    exact fun m hw => does_guarded rfl hw (State.tabNext_same (g := .outbox) rfl (.refl _ _) d)
  case write =>
    intro o hw ho haccepts
    refine does_aloneWrite rfl hw ho ?_
    have hsame {g : Piece} (hnext : State.tabNext_w g = false) (htab : State.setTab_w g = false) (hrec : State.setRecord_w g = false) :=
      State.tabNext_same hnext (State.tabWrite_same_calTileExpert htab hrec haccepts) d
    have hexpert := s.calTileExpert_expert d (s.rd .CAL_TAB_ADDR_TILE d)
    refine ⟨(congrArg TileSt.expert (State.tile_of_same (hsame rfl rfl rfl) ..)).trans hexpert, ?_⟩
    exact (rd_of_same (hsame rfl rfl rfl) d 0 0).trans (State.calExpertShow_shown (State.tile_lt_of_tabAccepts haccepts) hexpert)
  case refreshEnd =>
    intro y hrefresh hd ht hdone
    have hexec : exec (.refreshEnd d t) s = .next (s.refreshDone y) := by
      change execRefreshEnd d t s = _
      simp [execRefreshEnd, hrefresh, hdone]
    exact ⟨_, hexec, fun z hz => hd ▸ ht ▸ State.mem_refreshDone hz⟩

end Sys2Proof.Machine
end

section
/-!
PROOFS. Urgent requests (R354, R358): a trace pair needs both monitor converters.
-/

namespace Sys2Proof.Machine

/-- A trace pair is not taken where one of the two converters has failed: its trace is rejected (R329, R358). -/
theorem exec_urgentRequest_of_convDown {s : State} {d k : Nat} (hk : k < 2) (hdown : s.convDown d k = true) (who : Nat) :
    exec (.urgentRequest d 4 who) s = .next s := by
  have hone : (s.convDown d 0 || s.convDown d 1) = true := by
    obtain rfl | rfl : k = 0 ∨ k = 1 := by omega
    · rw [hdown, Bool.true_or]
    · rw [hdown, Bool.or_true]
  have hdropped : s.urgentRequest d 4 who = s := if_pos ⟨rfl, hone⟩
  exact congrArg Host.Outcome.next ((congrArg (ite _ · s) hdropped).trans (ite_self s))

/-- A part whose converter MCA of die 0 has failed, and on which nothing has asked for an urgent conversion. -/
def firstConverterFailed : State := State.reset.wr .MCV_STAT_FAIL_A 1

theorem firstConverterFailed_convDown : firstConverterFailed.convDown 0 0 = true := by decide
theorem firstConverterFailed_dies : 0 < firstConverterFailed.part.dies := by decide

/-- Refutes O12: the clause on urgent requests says that a request of any of the four kinds joins the list, in every state. A trace
pair, which is of kind 4, takes both converters, and where one has failed it is not taken (R358): with MCA failed the list stays empty.
The clause lacks the premise that both converters work, or that the request is no trace pair. -/
theorem not_monitorSequence : ¬ Obligations.MonitorSequence := by
  intro h
  obtain ⟨-, -, -, hrequest, -⟩ := h firstConverterFailed 0 firstConverterFailed_dies
  obtain ⟨t, hexec, u, hjoined, -⟩ := hrequest 4 0 (by decide) (by decide)
  cases (exec_urgentRequest_of_convDown Nat.two_pos firstConverterFailed_convDown 0).symm.trans hexec
  exact List.not_mem_nil hjoined

end Sys2Proof.Machine
end

section
/-!
PROOFS. The registers and triggers of the monitor converters (R353, R359, R360): what MODE, HOLD, SCAL, CLEAR and HANDBACK of MCV_CTRL
leave, when a self-calibration begins with MCA, and when a trigger is taken at once.
-/

namespace Sys2Proof.Machine

variable {s : State} {d : Nat}

/-! ## The converters of a die -/

theorem State.mon_updMon_same (s : State) (d : Nat) (f : Mon → Mon) : (s.updMon d f).mon d = f (s.mon d) := SMap.get_set_same ..

theorem State.mon_of_same {u : State} (h : Same .mons s u) (d : Nat) : u.mon d = s.mon d :=
  congrArg (fun m => SMap.get Mon.fresh m d) h

theorem State.calibrating_wr (s : State) {f : Field} (hA : f ≠ .MCV_STAT_SCAL_A) (hB : f ≠ .MCV_STAT_SCAL_B) (v d' i j d : Nat) :
    (s.wr f v d' i j).calibrating d = s.calibrating d := by
  simp [State.calibrating, State.convCal, State.rdb, State.rd_wr_field _ hA.symm, State.rd_wr_field _ hB.symm]

/-- What starts the converters anew leaves alone the pieces that the sequence, its urgent requests and self-calibrations do not write. -/
theorem State.seqResume_parts {g : Piece} (hg : State.seqResume_w g = false) :
    State.monGo_w g = false ∧ State.setStale_w g = false ∧ State.updMon_w g = false := by
  simp only [State.seqResume_w, State.freshen_w, Bool.or_eq_false_iff] at hg
  obtain ⟨⟨hgo, hstale⟩, hmon⟩ := hg
  exact ⟨hgo, hstale, hmon⟩

/-! ## MODE (R360) -/

/-- A change of MODE, before the sequence stops or goes on. -/
def State.modeTaken (s : State) (d v : Nat) : State := (s.mcvExpert d).wr .MCV_CTRL_MODE v d

theorem State.mcvMode_same_modeTaken {g : Piece} (hg : State.seqResume_w g = false) {v : Nat} (hne : v % 2 ≠ s.rd .MCV_CTRL_MODE d) :
    Same g (s.modeTaken d v) (s.mcvMode d v) := by
  obtain ⟨hgo, hstale, hmon⟩ := State.seqResume_parts hg
  rw [State.mcvMode, if_neg hne]
  exact same_ite (State.monGo_same hgo (State.setStale_same hstale (State.updMon_same hmon (.refl _ _) ..) ..) d)
    (State.seqResume_same hg (State.updMon_same hmon (.refl _ _) ..) d)

theorem State.mcvMode_mode (s : State) (d v : Nat) : (s.mcvMode d v).rd .MCV_CTRL_MODE d = v % 2 := by
  by_cases hsame : v % 2 = s.rd .MCV_CTRL_MODE d
  case pos =>
    rw [State.mcvMode, if_pos hsame]
    exact hsame.symm
  case neg =>
    have hafter : Same (.fld .MCV_CTRL_MODE) (s.modeTaken d v) (s.mcvMode d v) := State.mcvMode_same_modeTaken rfl hsame
    exact (rd_of_same hafter d 0 0).trans (State.rd_wr_same ..)

theorem State.mcvMode_expert {v : Nat} (hne : v % 2 ≠ s.rd .MCV_CTRL_MODE d) : (s.mcvMode d v).rd .MCV_STAT_EXPERT d = 1 := by
  have hafter : Same (.fld .MCV_STAT_EXPERT) (s.modeTaken d v) (s.mcvMode d v) := State.mcvMode_same_modeTaken rfl hne
  exact (rd_of_same hafter d 0 0).trans ((State.rd_wr_field _ (by decide) ..).trans (State.rd_wr_same ..))

/-! ## HOLD (R353) -/

/-- A change of HOLD that is taken, before the sequence goes on. -/
def State.seqHeldBy (s : State) (d v : Nat) : State := (s.mcvExpert d).wr .MCV_CTRL_HOLD v d

theorem State.seqHeldBy_hold (s : State) (d v : Nat) : (s.seqHeldBy d v).rd .MCV_CTRL_HOLD d = v % 2 := State.rd_wr_same ..

theorem State.seqHeldBy_expert (s : State) (d v : Nat) : (s.seqHeldBy d v).rd .MCV_STAT_EXPERT d = 1 :=
  (State.rd_wr_field _ (by decide) ..).trans (State.rd_wr_same ..)

theorem State.mcvHold_sets {v : Nat} (hv : v % 2 = 1) (hhold : s.rd .MCV_CTRL_HOLD d = 0) : s.mcvHold d v = s.seqHeldBy d 1 :=
  (if_neg (by omega)).trans (if_pos hv)

theorem State.mcvHold_same_seqHeldBy {g : Piece} (hg : State.seqResume_w g = false) {v : Nat} (hv : v % 2 = 0)
    (hhold : s.rd .MCV_CTRL_HOLD d = 1) (hseq : s.seqConsistent d = true) : Same g (s.seqHeldBy d 0) (s.mcvHold d v) := by
  obtain ⟨-, -, hmon⟩ := State.seqResume_parts hg
  rw [State.mcvHold, if_neg (by omega), if_neg (by omega), if_neg (by simp [hseq])]
  exact State.seqResume_same hg (same_ite (State.updMon_same hmon (.refl _ _) ..) (.refl _ _)) d

/-! ## SCAL (R359) -/

/-- The converters of a die have no work, and no trigger or self-calibration waits for them. -/
structure State.ConvertersIdle (d : Nat) (s : State) : Prop where
  entry : (s.mon d).run = false
  simultaneous : (s.mon d).sim = 0
  trigger : (s.mon d).simWait = false
  urgent : s.urgentIdle d = true
  calDue : (s.mon d).calDue = false
  calB : (s.mon d).calB = false
  calibrating : s.calibrating d = false

theorem State.convBusy_of_urgentIdle (h : s.urgentIdle d = true) (k : Nat) : s.convBusy d k = false := by
  simp only [State.urgentIdle, Bool.not_eq_true', List.any_eq_false] at h
  refine List.any_eq_false.2 fun u hu => ?_
  simp [h u hu]

theorem State.nextUrgent_of_urgentIdle (h : s.urgentIdle d = true) : s.nextUrgent d = none := by
  simp only [State.urgentIdle, Bool.not_eq_true', List.any_eq_false] at h
  have hnone : s.urg.filter (fun u => u.die == d && u.conv.isNone) = [] := List.filter_eq_nil_iff.2 fun u hu => by simp [h u hu]
  rw [State.nextUrgent, hnone]
  rfl

theorem State.serveUrgent_of_urgentIdle (h : s.urgentIdle d = true) (fuel : Nat) : s.serveUrgent d fuel = s := by
  cases fuel with
  | zero => rfl
  | succ fuel =>
    rw [State.serveUrgent, State.nextUrgent_of_urgentIdle h]
    exact ite_self s

/-- MCA begins the self-calibration that is due on converters that have nothing else to do. -/
theorem State.calStart_begins (hentry : (s.mon d).run = false) (hsim : (s.mon d).sim = 0) (hdue : (s.mon d).calDue = true)
    (hB : (s.mon d).calB = false) (hbusy : s.convBusy d 0 = false) (hcal : s.calibrating d = false) :
    (s.calStart d).rd .MCV_STAT_SCAL_A d = 1 := by
  have hbegins : s.calStart d = ((s.wr .MCV_STAT_SCAL_A 1 d).setStale d true).updMon d fun m => { m with calDue := false } := by
    simp [State.calStart, hentry, hsim, hdue, hB, hbusy, hcal]
  have hafter : Same (.fld .MCV_STAT_SCAL_A) (s.wr .MCV_STAT_SCAL_A 1 d) (s.calStart d) :=
    hbegins ▸ State.updMon_same rfl (State.setStale_same rfl (.refl _ _) ..) ..
  exact (rd_of_same hafter d 0 0).trans (State.rd_wr_same ..)

/-- A self-calibration that is asked for on idle converters begins with MCA at once. -/
theorem State.scalRequest_begins (hidle : s.ConvertersIdle d) : (s.scalRequest d).rd .MCV_STAT_SCAL_A d = 1 := by
  obtain ⟨hentry, hsim, hwait, hurgent, hdue, hB, hcal⟩ := hidle
  have hasked : s.scalRequest d = (s.updMon d fun m => { m with calDue := true }).monGo d := if_neg (by simp [hdue, hB, hcal])
  have hmon := s.mon_updMon_same d fun m => { m with calDue := true }
  rw [hasked]
  generalize hu : (s.updMon d fun m => { m with calDue := true }) = u at hmon ⊢
  have hurgent' : u.urgentIdle d = true := hu ▸ hurgent
  have hcal' : u.calibrating d = false := hu ▸ hcal
  have hgo : Same (.fld .MCV_STAT_SCAL_A) (u.calStart d) (u.monGo d) := by
    have hserved := State.serveUrgent_of_urgentIdle hurgent' 2
    simp only [State.monGo, hmon, hwait, Bool.false_and, Bool.false_eq_true, if_false, hserved]
    exact same_ite (State.entryRun_same rfl (.refl _ _) d) (.refl _ _)
  refine (rd_of_same hgo d 0 0).trans (State.calStart_begins ?_ ?_ ?_ ?_ (State.convBusy_of_urgentIdle hurgent' 0) hcal')
  all_goals simp [hmon, hentry, hsim, hB]

theorem State.ConvertersIdle.wr (h : s.ConvertersIdle d) {f : Field} (hA : f ≠ .MCV_STAT_SCAL_A) (hB : f ≠ .MCV_STAT_SCAL_B)
    (v d' i j : Nat) : (s.wr f v d' i j).ConvertersIdle d :=
  { h with calibrating := (s.calibrating_wr hA hB ..).trans h.calibrating }

theorem State.scalOrder_begins (hscal : s.rd .MCV_CTRL_SCAL d = 0) (hidle : s.ConvertersIdle d) :
    (s.scalOrder d).rd .MCV_STAT_SCAL_A d = 1 ∧ (s.scalOrder d).rd .MCV_CTRL_SCAL d = 1 := by
  have hasked : s.scalOrder d = (s.wr .MCV_CTRL_SCAL 1 d).scalRequest d := if_neg (by simp [State.rdb, hscal])
  have hreads : Same (.fld .MCV_CTRL_SCAL) (s.wr .MCV_CTRL_SCAL 1 d) ((s.wr .MCV_CTRL_SCAL 1 d).scalRequest d) :=
    State.scalRequest_same rfl (.refl _ _) d
  rw [hasked]
  exact ⟨State.scalRequest_begins (hidle.wr (by decide) (by decide) ..), (rd_of_same hreads d 0 0).trans (State.rd_wr_same ..)⟩

theorem State.scalOrder_of_underWay (hscal : s.rd .MCV_CTRL_SCAL d = 1) : s.scalOrder d = s := if_pos (by simp [State.rdb, hscal])

/-! ## CLEAR and HANDBACK -/

/-- The counters that MCV_CTRL.CLEAR zeroes. -/
def mcvCounters : List Field := [.MCV_PLAUS_FAULTS, .MCV_PREEMPT_ABORTS, .MCV_PREEMPT_PROTECTED, .MCV_SIMRES_OVERRUNS]

theorem State.mcvClear_eq (s : State) (d : Nat) : s.mcvClear d = s.each mcvCounters fun u f => u.wr f 0 d := rfl

theorem State.mcvClear_counter {f : Field} (hf : f ∈ mcvCounters) : (s.mcvClear d).rd f d = 0 := by
  rw [State.mcvClear_eq]
  exact State.each_of_mem (P := fun u => u.rd f d = 0) hf (fun u => (u.rd_wr_same ..).trans (Nat.zero_mod _))
    fun u g hu => State.rd_wr_zero hu g ..

/-- The hand-back of the converters, before the sequence goes on. -/
def State.convertersBack (s : State) (d : Nat) : State := (((s.mcvMode d 0).wr .MCV_CTRL_HOLD 0 d).wr .MCV_STAT_EXPERT 0 d)

theorem State.mcvHandback_eq_seqResume (s : State) (d : Nat) : ∃ u : State, s.mcvHandback d = (u.convertersBack d).seqResume d := ⟨_, rfl⟩

theorem State.convertersBack_reads (s : State) (d : Nat) : (s.convertersBack d).rd .MCV_CTRL_HOLD d = 0 ∧
    (s.convertersBack d).rd .MCV_STAT_EXPERT d = 0 ∧ (s.convertersBack d).rd .MCV_CTRL_MODE d = 0 := by
  simp (disch := decide) [State.convertersBack, State.rd_wr_field, State.mcvMode_mode]

theorem State.mcvHandback_reads (s : State) (d : Nat) : (s.mcvHandback d).rd .MCV_CTRL_HOLD d = 0 ∧
    (s.mcvHandback d).rd .MCV_STAT_EXPERT d = 0 ∧ (s.mcvHandback d).rd .MCV_CTRL_MODE d = 0 := by
  obtain ⟨u, hback⟩ := s.mcvHandback_eq_seqResume d
  have hsame {f : Field} (hf : State.seqResume_w (.fld f) = false) : (s.mcvHandback d).rd f d = (u.convertersBack d).rd f d :=
    hback ▸ rd_of_same (State.seqResume_same hf (.refl _ _) d) d 0 0
  rw [hsame rfl, hsame rfl, hsame rfl]
  exact u.convertersBack_reads d

/-! ## Simultaneous sampling (R360) -/

/-- Simultaneous mode, with converters that can take a trigger at once. -/
structure State.TriggerReady (d : Nat) (s : State) : Prop where
  mode : s.rd .MCV_CTRL_MODE d = 1
  simultaneous : (s.mon d).sim = 0
  trigger : (s.mon d).simWait = false
  freeA : s.convBusy d 0 = false
  freeB : s.convBusy d 1 = false
  calibrating : s.calibrating d = false

theorem State.simTrigger_starts (h : s.TriggerReady d) (delayed : Bool) : s.simTrigger d delayed = s.simStart d delayed := by
  obtain ⟨hmode, hsim, hwait, hA, hB, hcal⟩ := h
  simp [State.simTrigger, State.rdb, hmode, hsim, hwait, hA, hB, hcal]

theorem State.simStart_mon (s : State) (d : Nat) (delayed : Bool) :
    (s.simStart d delayed).mon d = { s.mon d with sim := if delayed then 2 else 1, simAt := s.now, simWait := false } :=
  State.mon_updMon_same ..

theorem State.TriggerReady.mcvExpert (h : s.TriggerReady d) : (s.mcvExpert d).TriggerReady d :=
  { h with
    mode := (s.rd_wr_field (by decide) ..).trans h.mode
    calibrating := (s.calibrating_wr (by decide) (by decide) ..).trans h.calibrating }

theorem State.TriggerReady.disarm (h : s.TriggerReady d) : (s.updMon d fun m => { m with timed := false }).TriggerReady d :=
  { h with
    simultaneous := (congrArg Mon.sim (s.mon_updMon_same ..)).trans h.simultaneous
    trigger := (congrArg Mon.simWait (s.mon_updMon_same ..)).trans h.trigger }

/-- GO, where SRC selects it, starts a simultaneous conversion; like every write of it, it is an expert write. -/
theorem State.mcvGo_starts (hsrc : s.rd .MCV_TRIG_SRC d = 0) (h : s.TriggerReady d) : s.mcvGo d = (s.mcvExpert d).simStart d false := by
  have hsrc' : (s.mcvExpert d).rd .MCV_TRIG_SRC d = 0 := (s.rd_wr_field (by decide) ..).trans hsrc
  exact (if_pos hsrc').trans (State.simTrigger_starts h.mcvExpert false)

/-- The result registers of a simultaneous conversion. -/
def State.simResult (s : State) (d ca cb : Nat) : State :=
  ((((s.wr .MCV_SIMRES_VALID 1 d).wr .MCV_SIMRES_DELAYED ((s.mon d).sim - 1) d).wr .MCV_SIMRES_CODE_A ca d).wr .MCV_SIMRES_CODE_B cb d).wr
    .MCV_SIMTIME_TIME ((s.mon d).simAt + 300) d

theorem State.simResult_reads (s : State) (d ca cb : Nat) : (s.simResult d ca cb).rd .MCV_SIMRES_VALID d = 1 ∧
    (s.simResult d ca cb).rd .MCV_SIMRES_CODE_A d = ca % 65536 ∧ (s.simResult d ca cb).rd .MCV_SIMRES_CODE_B d = cb % 65536 ∧
    (s.simResult d ca cb).rd .MCV_SIMTIME_TIME d = ((s.mon d).simAt + 300) % 2 ^ 64 := by
  simp (disch := decide) only [State.simResult, State.rd_wr_field, State.rd_wr_same]
  exact ⟨rfl, rfl, rfl, rfl⟩

theorem exec_simultaneousConversionEnd (hsim : (s.mon d).sim ≠ 0) (ca cb : Nat) :
    exec (.simultaneousConversionEnd d ca cb) s = .next (((s.simResult d ca cb).updMon d fun m => { m with sim := 0 }).monGo d) :=
  congrArg Host.Outcome.next (if_neg hsim)

/-- Settles O13: each write acts on the state itself, and the lemma on its operation says what the fields then read; what follows of the
sequence, the urgent requests and the self-calibrations leaves them alone. -/
theorem monitorControls : Obligations.MonitorControls := by
  intro s d o hw ho
  refine ⟨?mode, ?holdSet, ?holdCleared, ?scal, ?scalAgain, ?clear, ?handback, ?go, ?timed, ?simEnd⟩
  case mode => exact fun hne => does_aloneWrite rfl hw ho ⟨s.mcvMode_mode d o.w.v, State.mcvMode_expert hne⟩
  case holdSet =>
    intro hv hhold
    refine does_aloneWrite rfl hw ho ?_
    rw [State.mcvHold_sets hv hhold]
    exact ⟨s.seqHeldBy_hold d 1, s.seqHeldBy_expert d 1⟩
  case holdCleared =>
    intro hv hhold hseq
    refine does_aloneWrite rfl hw ho ?_
    have hsame {g : Piece} (hg : State.seqResume_w g = false) := State.mcvHold_same_seqHeldBy hg hv hhold hseq
    exact ⟨(rd_of_same (hsame rfl) d 0 0).trans (s.seqHeldBy_hold d 0), (rd_of_same (hsame rfl) d 0 0).trans (s.seqHeldBy_expert d 0)⟩
  case scal =>
    intro hv hscal hentry hsim hwait hurgent hdue hB hcal
    exact does_trigger rfl hw ho hv (State.scalOrder_begins hscal ⟨hentry, hsim, hwait, hurgent, hdue, hB, hcal⟩)
  case scalAgain => exact fun hv hscal => does_trigger rfl hw ho hv (State.scalOrder_of_underWay hscal)
  case clear =>
    intro hv
    refine does_trigger rfl hw ho hv ⟨?_, ?_, ?_, ?_⟩
    all_goals exact State.mcvClear_counter (by decide)
  case handback => exact fun hv => does_trigger rfl hw ho hv (s.mcvHandback_reads d)
  case go =>
    intro hv hsrc hmode hsim hwait hA hB hcal
    refine does_trigger rfl hw ho hv ?_
    rw [State.mcvGo_starts hsrc ⟨hmode, hsim, hwait, hA, hB, hcal⟩, State.simStart_mon]
    exact ⟨rfl, rfl, s.rd_wr_same .MCV_STAT_EXPERT 1 d 0 0⟩
  case timed =>
    intro harmed hsrc htime hmode hsim hwait hA hB hcal
    refine does_guarded rfl ⟨harmed, hsrc, by simp [State.rdb, hmode], htime⟩ ?_
    have hready : s.TriggerReady d := ⟨hmode, hsim, hwait, hA, hB, hcal⟩
    rw [State.simTrigger_starts hready.disarm, State.simStart_mon]
    exact ⟨rfl, rfl, congrArg Mon.timed (s.mon_updMon_same ..)⟩
  case simEnd =>
    intro ca cb hsim
    refine ⟨_, exec_simultaneousConversionEnd hsim ca cb, ?_⟩
    have hsame {f : Field} (hf : State.monGo_w (.fld f) = false) :
        (((s.simResult d ca cb).updMon d fun m => { m with sim := 0 }).monGo d).rd f d = (s.simResult d ca cb).rd f d :=
      rd_of_same (State.monGo_same hf (.refl _ _) d) d 0 0
    obtain ⟨hvalid, hA, hB, htime⟩ := s.simResult_reads d ca cb
    exact ⟨(hsame rfl).trans hvalid, (hsame rfl).trans hA, (hsame rfl).trans hB, (hsame rfl).trans htime⟩

end Sys2Proof.Machine
end

section
/-!
PROOFS. The windows of the telemetry streams (R361, R362, R363): what the end and the opening of a window leave, when START, STOP and the
stream's times bring them about, and what the records of a period leave of the time of the next sample.
-/

namespace Sys2Proof.Machine

variable {s : State} {n : Nat}

/-! ## The window of a stream -/

theorem State.tlm_of_same {u : State} (h : Same .tlms s u) (n : Nat) : u.tlm n = s.tlm n :=
  congrArg (List.find? fun w : Tlm => w.stream == n) h

theorem State.tlm_some {w : Tlm} (h : s.tlm n = some w) : w.stream = n := by simpa using List.find?_some h

theorem State.tlm_updTlm_same (s : State) (n : Nat) {f : Tlm → Tlm} (hf : ∀ w, (f w).stream = w.stream) :
    (s.updTlm n f).tlm n = (s.tlm n).map f := by
  have hkey : (fun w : Tlm => w.stream == n) ∘ (fun w => if w.stream = n then f w else w) = fun w => w.stream == n := by
    funext w
    by_cases h : w.stream = n <;> simp [h, hf]
  rw [State.tlm, State.updTlm, List.find?_map, hkey, ← State.tlm]
  cases h : s.tlm n with
  | none => rfl
  | some w => simp [State.tlm_some h]

theorem State.tlms_updTlm_of_none (h : s.tlm n = none) (f : Tlm → Tlm) : (s.updTlm n f).tlms = s.tlms := by
  have hother := List.find?_eq_none.1 h
  exact (List.map_congr_left fun w hw => if_neg (by simpa using hother w hw)).trans (List.map_id _)

/-! ## The end of a window -/

/-- The state without the window of stream `n`. -/
def State.dropTlm (s : State) (n : Nat) : State := { s with tlms := s.tlms.filter fun w => w.stream != n }

theorem State.tlm_dropTlm (s : State) (n : Nat) : (s.dropTlm n).tlm n = none := by
  refine List.find?_eq_none.2 fun w hw => ?_
  simpa using (List.mem_filter.1 hw).2

/-- The status that the end of a window shows: a stop that was ignored before turns OK into WINDOW_ORDER (R363). -/
def Tlm.endStatus (w : Tlm) (st : Nat) : Nat := if w.order = true ∧ st = stOK then stWindowOrder else st

theorem Tlm.endStatus_of_ne {w : Tlm} {st : Nat} (h : st ≠ stOK) : w.endStatus st = st := if_neg fun hok => h hok.2

theorem Tlm.endStatus_of_inOrder {w : Tlm} (h : w.order = false) (st : Nat) : w.endStatus st = st := if_neg (by simp [h])

/-- The end of a window, before its event tells of it. -/
def State.tlmEnded (s : State) (w : Tlm) (st fl : Nat) : State :=
  (((s.dropTlm w.stream).wr .TLM_STAT_STATE 0 0 w.stream).wr .TLM_STAT_STATUS (w.endStatus st) 0 w.stream).wr .TLM_STAT_FLAGS
    (addFlag w.flags fl) 0 w.stream

theorem State.tlmClose_same_tlmEnded {g : Piece} (hg : State.event_w g = false) (s : State) (w : Tlm) (st fl : Nat) :
    Same g (s.tlmEnded w st fl) (s.tlmClose w st fl) :=
  State.event_same hg (.refl _ _) ..

theorem State.tlmClose_tlm (s : State) (w : Tlm) (st fl : Nat) : (s.tlmClose w st fl).tlm w.stream = none :=
  (State.tlm_of_same (s.tlmClose_same_tlmEnded rfl w st fl) _).trans (State.tlm_dropTlm ..)

theorem State.tlmClose_state (s : State) (w : Tlm) (st fl : Nat) : (s.tlmClose w st fl).rd .TLM_STAT_STATE 0 w.stream = 0 := by
  rw [rd_of_same (s.tlmClose_same_tlmEnded rfl w st fl), State.tlmEnded]
  simp (disch := decide) only [State.rd_wr_field, State.rd_wr_same, Nat.zero_mod]

theorem State.tlmClose_status (s : State) (w : Tlm) (st fl : Nat) :
    (s.tlmClose w st fl).rd .TLM_STAT_STATUS 0 w.stream = w.endStatus st % 2 ^ 8 :=
  (rd_of_same (s.tlmClose_same_tlmEnded rfl w st fl) ..).trans ((State.rd_wr_field _ (by decide) ..).trans (State.rd_wr_same ..))

theorem State.tlmClose_flags (s : State) (w : Tlm) (st fl : Nat) :
    (s.tlmClose w st fl).rd .TLM_STAT_FLAGS 0 w.stream = addFlag w.flags fl % 2 ^ 8 :=
  (rd_of_same (s.tlmClose_same_tlmEnded rfl w st fl) ..).trans (State.rd_wr_same ..)

/-- SHORT is bit 6 of the flags (R18). -/
theorem bit_addFlag_short (fl : Nat) : bit (addFlag fl flShort % 2 ^ 8) 6 = true := by
  have hshort : flShort.testBit 6 = true := by decide
  rw [bit, addFlag, Nat.testBit_mod_two_pow, Nat.testBit_or, hshort, Bool.or_true]
  rfl

/-! ## STOP -/

/-- STOP, not timed, closes an open window. -/
theorem State.tlmStop_closes {w : Tlm} (hw : s.tlm n = some w) (hopen : w.open' = true) (hnow : s.rd .TLM_CTRL_TSTOP 0 n = 0) :
    s.tlmStop n = s.tlmClose w stOK (if usTick s.now = usTick w.start then flShort else 0) := by
  simp [State.tlmStop, hw, hopen, State.rdb, hnow]

theorem State.tlmStop_idle (h : s.tlm n = none) : s.tlmStop n = (s.tlmOrder n).setAx .tlmIdleStop 1 n := by
  simp [State.tlmStop, h]

theorem State.tlmOrder_count (s : State) (n : Nat) : (s.tlmOrder n).rd .TLM_CNT_ORDER_CNT 0 n = s.countUp .TLM_CNT_ORDER_CNT 1 0 n :=
  s.rd_wr_same ..

/-! ## START -/

/-- A window without a stop opens, and stays open. -/
theorem State.tlmOpen_of_noStop {w : Tlm} (hstop : w.stop = none) :
    s.tlmOpen w =
      (s.wr .TLM_STAT_STATE 2 0 w.stream).updTlm w.stream fun x => { x with open' := true, start := s.now, next := s.now } := by
  simp [State.tlmOpen, hstop]

theorem State.tlmOpen_state {w : Tlm} (hstop : w.stop = none) : (s.tlmOpen w).rd .TLM_STAT_STATE 0 w.stream = 2 := by
  rw [State.tlmOpen_of_noStop hstop, State.rd_updTlm, State.rd_wr_same]
  rfl

theorem State.tlmOpen_open {w : Tlm} (hw : s.tlm w.stream = some w) (hstop : w.stop = none) :
    ((s.tlmOpen w).tlm w.stream).any (fun x => x.open') = true := by
  have hset : (s.wr .TLM_STAT_STATE 2 0 w.stream).tlm w.stream = some w := hw
  rw [State.tlmOpen_of_noStop hstop, State.tlm_updTlm_same, hset]
  · rfl
  · exact fun _ => rfl

/-- `w` becomes the window of its stream. -/
def State.putTlm (s : State) (w : Tlm) : State := { s with tlms := (s.dropTlm w.stream).tlms ++ [w] }

theorem State.tlm_putTlm (s : State) (w : Tlm) : (s.putTlm w).tlm w.stream = some w := by
  have hdropped := s.tlm_dropTlm w.stream
  rw [State.tlm] at hdropped
  simp [State.putTlm, State.tlm, List.find?_append, hdropped]

/-- What START counts: a restart of the stream's window; for a new window the counters begin anew. -/
def State.tlmCounted (s : State) (n : Nat) : State :=
  match s.tlm n with
  | some _ => s.bump .TLM_CNT_RESTART_CNT 1 0 n
  | none => (((s.wr .TLM_CNT_ORDER_CNT 0 0 n).wr .TLM_CNT_RESTART_CNT 0 0 n).wr .TLM_DROP_COUNT 0 0 n).setAx .tlmIdleStop 0 n

/-- The window that START arms where it is not timed; a restarted window keeps its counts and its marks. -/
def State.tlmNew (s : State) (n : Nat) : Tlm :=
  { stream := n, open' := false, start := (s.tlmCounted n).now, stop := none, next := (s.tlmCounted n).now,
    written := ((s.tlm n).map fun w => w.written).getD 0, lateness := 0, said := ((s.tlm n).map fun w => w.said).getD false,
    order := ((s.tlm n).map fun w => w.order).getD ((s.tlm n).isNone && s.ax .tlmIdleStop n == 1), flags := 0 }

/-- The state in which START has armed that window. -/
def State.tlmArmed (s : State) (n : Nat) : State :=
  (((s.tlmCounted n).putTlm (s.tlmNew n)).wr .TLM_LATE_TIME 0 0 n).wr .TLM_STAT_STATE 1 0 n

theorem State.tlmArmed_tlm (s : State) (n : Nat) : (s.tlmArmed n).tlm n = some (s.tlmNew n) :=
  (s.tlmCounted n).tlm_putTlm (s.tlmNew n)

/-- START without STOP, not timed, opens at once the window that it has armed. -/
theorem State.tlmStart_opens (hnow : s.rd .TLM_CTRL_TSTART 0 n = 0) : s.tlmStart n false = (s.tlmArmed n).tlmOpen (s.tlmNew n) := by
  have huntimed : s.rdb .TLM_CTRL_TSTART 0 n = false := by simp [State.rdb, hnow]
  have hshape : s.tlmStart n false = match (s.tlmArmed n).tlm n with
      | some w => (s.tlmArmed n).tlmOpen w
      | none => s.tlmArmed n := by
    simp only [State.tlmStart, huntimed, Bool.false_eq_true, false_and, if_false, if_true, Bool.not_false]
    rfl
  rw [hshape, State.tlmArmed_tlm]

/-! ## Samples (R361, R362) -/

/-- When the stream's next sample is due. -/
def State.tlmNext (s : State) (n : Nat) : Option Nat := (s.tlm n).map fun w => w.next

theorem State.tlmNext_of_same {u : State} (h : Same .tlms s u) (n : Nat) : u.tlmNext n = s.tlmNext n :=
  congrArg (Option.map _) (State.tlm_of_same h n)

theorem State.tlmNext_updTlm (s : State) (n : Nat) {f : Tlm → Tlm} (hf : ∀ w, (f w).stream = w.stream) (hnext : ∀ w, (f w).next = w.next) :
    (s.updTlm n f).tlmNext n = s.tlmNext n := by
  rw [State.tlmNext, State.tlm_updTlm_same s n hf, Option.map_map]
  exact congrArg (Option.map · (s.tlm n)) (funext hnext)

theorem State.tlmNext_advance (s : State) (n p : Nat) :
    (s.updTlm n fun w => { w with next := w.next + p }).tlmNext n = (s.tlmNext n).map fun t => t + p := by
  have hadvanced := s.tlm_updTlm_same n (f := fun w => { w with next := w.next + p }) fun _ => rfl
  rw [State.tlmNext, hadvanced, State.tlmNext, Option.map_map, Option.map_map]
  rfl

/-- A channel's record, written or dropped, leaves the time of the next sample as it is. -/
theorem State.tlmWrite_next (s : State) (n k : Nat) : (s.tlmWrite n k).tlmNext n = s.tlmNext n := by
  unfold State.tlmWrite
  split
  case h_1 => rfl
  case h_2 =>
    dsimp only
    split
    case isTrue => rfl
    case isFalse =>
      split
      case isTrue =>
        have hkept (u : State) : (u.updTlm n fun x => { x with said := true }).tlmNext n = u.tlmNext n :=
          State.tlmNext_updTlm u n (fun _ => rfl) fun _ => rfl
        split
        case isTrue => exact hkept _
        case isFalse => exact (State.tlmNext_of_same (State.event_same rfl (.refl _ _) ..) n).trans (hkept _)
      case isFalse => exact State.tlmNext_updTlm _ n (fun _ => rfl) fun _ => rfl

/-- The records of a period and the write-back of their count, before the time of the next sample advances. -/
def State.tlmRecords (s : State) (n : Nat) : State :=
  let s := s.each (List.range 4) fun s k => s.tlmWrite n k
  s.store (hostKey 0 (s.rd .TLM_WB_ADDR 0 n * 8)) 4 (s.rd .TLM_WRIDX_COUNT 0 n)

theorem State.tlmRecords_next (s : State) (n : Nat) : (s.tlmRecords n).tlmNext n = s.tlmNext n :=
  State.each_induction (P := fun u => u.tlmNext n = s.tlmNext n) (List.range 4) rfl fun u k hu => (u.tlmWrite_next n k).trans hu

theorem State.tlmRecords_period (s : State) (n : Nat) : (s.tlmRecords n).rd .TLM_PERIOD_PERIOD 0 n = s.rd .TLM_PERIOD_PERIOD 0 n := by
  have hsame : Same (.fld .TLM_PERIOD_PERIOD) s (s.tlmRecords n) :=
    store_same rfl rfl (State.each_same (.refl _ s) _ _ fun u k hu => State.tlmWrite_same rfl hu n k) ..
  exact rd_of_same hsame ..

theorem exec_tlmPeriodSample {w : Tlm} (hw : s.tlm n = some w) (hdue : w.due s.now = true) :
    exec (.tlmPeriodSample n) s =
      .next ((s.tlmRecords n).updTlm n fun x => { x with next := x.next + 1000 * (s.tlmRecords n).rd .TLM_PERIOD_PERIOD 0 n }) := by
  change execTlmPeriodSample n s = _
  simp only [execTlmPeriodSample, hw, hdue, Bool.not_true, Bool.false_eq_true, if_false]
  rfl

/-! ## The rows of a stream -/

/-- A 1 written to a trigger bit of a stream's register, without a rival, has the trigger act on the state itself. -/
theorem does_streamTrigger {c : Instr} {o : Order} {obj : Nat} {act : State → State} {P : State → Prop}
    (hexec : exec c s = .next (if n < 16 then s.order o obj (fun u _ v => u.when (v % 2 == 1) act) else s)) (hn : n < 16) (ho : Alone o)
    (hv : o.w.v % 2 = 1) (hP : P (act s)) : Does c s P :=
  does_guarded hexec hn (by simpa [s.order_alone ho, hv] using hP)

theorem exec_tlmCancel {o : Order} {w : Tlm} (hw : s.tlm n = some w) (ho : Alone o) (hv : o.w.v % 2 = 1) :
    exec (.tlmCancel n o) s = .next (s.tlmClose w stAbortedByHost 0) := by
  change execTlmCancel n o s = _
  simp [execTlmCancel, s.order_alone ho, hw, hv]

theorem exec_tlmTimedStart {w : Tlm} (hw : s.tlm n = some w) (hwaits : w.open' = false) (htime : w.start ≤ s.now) :
    exec (.tlmTimedStart n) s = .next (s.tlmOpen w) := by
  change execTlmTimedStart n s = _
  simp [execTlmTimedStart, hw, hwaits, htime]

theorem exec_tlmTimedStop {w : Tlm} (hw : s.tlm n = some w) (hopen : w.open' = true)
    (htime : w.stop.any (fun t => decide (t ≤ s.now)) = true) :
    exec (.tlmTimedStop n) s = .next (s.tlmClose w stOK (if usTick s.now = usTick w.start then flShort else 0)) := by
  change execTlmTimedStop n s = _
  simp [execTlmTimedStop, hw, hopen, htime]

/-- Settles O14: START opens the window that it has armed (`tlmOpen`), STOP, CANCEL and the timed stop end the window of their stream
(`tlmClose`), and the lemmas on the two say what they leave; the records of a period leave the times of the samples alone. -/
theorem telemetryStreams : Obligations.TelemetryStreams := by
  intro s n hn
  refine ⟨?start, ?stop, ?short, ?idle, ?cancel, ?timedStart, ?timedStop, ?sample, ?rdidx⟩
  case start =>
    intro o ho hv hnow
    refine does_streamTrigger rfl hn ho hv ?_
    have harmed := s.tlmArmed_tlm n
    rw [State.tlmStart_opens hnow]
    exact ⟨State.tlmOpen_state (w := s.tlmNew n) rfl, State.tlmOpen_open (w := s.tlmNew n) harmed rfl⟩
  case stop =>
    rintro o w ho hv hw hopen rfl hnow
    refine does_streamTrigger rfl hn ho hv ?_
    rw [State.tlmStop_closes hw hopen hnow]
    exact ⟨State.tlmClose_state .., State.tlmClose_tlm ..⟩
  case short =>
    rintro o w ho hv hw hopen rfl horder hnow htick
    refine does_streamTrigger rfl hn ho hv ?_
    have htick' : usTick s.now = usTick w.start := htick
    rw [State.tlmStop_closes hw hopen hnow, if_pos htick', State.tlmClose_status, State.tlmClose_flags,
      Tlm.endStatus_of_inOrder horder]
    exact ⟨State.tlmClose_state .., rfl, bit_addFlag_short w.flags⟩
  case idle =>
    intro o ho hv hnone
    refine does_streamTrigger rfl hn ho hv ?_
    rw [State.tlmStop_idle hnone]
    exact ⟨s.tlmOrder_count n, State.tlms_updTlm_of_none hnone _⟩
  case cancel =>
    rintro o w ho hv hw rfl
    refine ⟨_, exec_tlmCancel hw ho hv, State.tlmClose_state .., ?_, State.tlmClose_tlm ..⟩
    rw [State.tlmClose_status, Tlm.endStatus_of_ne (by decide)]
    rfl
  case timedStart =>
    rintro w hw hwaits htime hstop rfl
    exact ⟨_, exec_tlmTimedStart hw hwaits htime, State.tlmOpen_state hstop⟩
  case timedStop =>
    rintro w hw hopen htime rfl
    exact ⟨_, exec_tlmTimedStop hw hopen htime, State.tlmClose_state .., State.tlmClose_tlm ..⟩
  case sample =>
    intro w hw hdue
    have hnext : s.tlmNext n = some w.next := congrArg (Option.map _) hw
    refine ⟨_, exec_tlmPeriodSample hw hdue, (State.tlmNext_advance ..).trans ?_⟩
    rw [s.tlmRecords_next, s.tlmRecords_period, hnext]
    rfl
  case rdidx => exact fun o ho => does_guarded rfl hn (by rw [s.order_alone ho]; exact s.rd_wr_same ..)

end Sys2Proof.Machine
end

section
/-!
PROOFS. The state after reset (R369): it is sound, and memory reads 0.
-/

namespace Sys2Proof.Machine

theorem State.reset_inv : Inv State.reset := ⟨rfl, rfl, fun _ he => absurd he List.not_mem_nil⟩

theorem State.reset_byte (k : Nat) : State.reset.byte k = 0 := rfl

/-- Settles O53: after reset nothing is listed in the memory, in the Pocket or in the registers. -/
theorem invAtReset : Obligations.InvAtReset := ⟨State.reset_inv, State.reset_byte, rfl⟩

end Sys2Proof.Machine
end

section
/-!
PROOFS. The end of the zeroing of a bank (R369, R411): the EVICT that waits for it writes its record at once, and a byte beyond the
banks can be that record's.
-/

namespace Sys2Proof.Machine

/-- The key that the first byte of bank 2^45 of die 0 would have is the key of the first byte of the PF's host memory. -/
theorem bankAddr_beyondBanks : bankAddr 0 (2 ^ 45 * 0x80000) = hostKey 0 0 := by decide

/-- An EVICT of function 1 that waits for its reclaim to end. -/
def waitingEvict : Cmd :=
  { id := 0, q := 0, fn := 0, cid := 0, event := false, vec := 0, opcode := opEvict, at' := 0, desc := 256 ^ 16, st := .running,
    lateness := 0, flags := 0 }

/-- A part on which that EVICT waits, with the PF's event ring at address 0 of its host memory, and with the element of
BNK_OWNER.ZEROING at 1 that bank 2^45 would have. -/
def zeroingBeyondBanks : State :=
  { (State.reset.wr .EVR_CTRL_ENABLE 1).wr .BNK_OWNER_ZEROING 1 0 (2 ^ 45) with cmds := [waitingEvict] }

/-- The state in which that zeroing has ended, before the EVICT is looked at. -/
def zeroedBeyondBanks : State := zeroingBeyondBanks.bankZeroEnded 0 (2 ^ 45)

theorem zeroingBeyondBanks_unpaused : zeroingBeyondBanks.paused 0 0 = false := by decide
theorem zeroingBeyondBanks_zeroing : zeroingBeyondBanks.rdb .BNK_OWNER_ZEROING 0 (2 ^ 45) = true := by decide
theorem zeroingBeyondBanks_due : zeroingBeyondBanks.ax .bankZeroEnd 0 (2 ^ 45) ≤ zeroingBeyondBanks.dt + 1 := by decide

theorem exec_bankZeroingEnd {s : State} {d b : Nat} (hruns : s.paused 0 d = false) (hzeroing : s.rdb .BNK_OWNER_ZEROING d b = true)
    (hdue : s.ax .bankZeroEnd d b ≤ s.dt + 1) : exec (.bankZeroingEnd d b) s = .next (s.bankZeroEnded d b).evictCheck :=
  congrArg Host.Outcome.next (if_pos (by simp [hruns, hzeroing, hdue]))

/-- The EVICT ends, and the first byte of the ring is the type of its record, FUNCTION_EVICTED. -/
theorem zeroedBeyondBanks_evictCheck_byte : zeroedBeyondBanks.evictCheck.byte (hostKey 0 0) = 0x62 := by decide

/-- Refutes O43: the clause on the end of zeroing has, unlike those on the hand-over, no premise that the die and the bank exist. With
the indices of a bank beyond the part's the bytes that it names lie in host memory, and the record of an EVICT that waited for the zeroing
is written there in the same step: the byte reads 0x62. The clause lacks the premise `s.isBank d b`. -/
theorem not_banks : ¬ Obligations.Banks := by
  intro h
  obtain ⟨-, -, -, -, hzeroed, -⟩ := h zeroingBeyondBanks 0
  obtain ⟨t, hexec, -, hbytes⟩ :=
    hzeroed (2 ^ 45) zeroingBeyondBanks_unpaused zeroingBeyondBanks_zeroing zeroingBeyondBanks_due
  cases (exec_bankZeroingEnd zeroingBeyondBanks_unpaused zeroingBeyondBanks_zeroing zeroingBeyondBanks_due).symm.trans hexec
  have hzero := hbytes 0 (by decide)
  rw [Nat.add_zero, bankAddr_beyondBanks] at hzero
  exact absurd (zeroedBeyondBanks_evictCheck_byte.symm.trans hzero) (by decide)

end Sys2Proof.Machine
end

section
/-!
PROOFS. The scrub of the LPDDR5X blocks (R380, R381).
-/

namespace Sys2Proof.Machine

variable {s : State} {d q : Nat} {x : List Flip}

/-- The patrol scrub of one block of an online die that holds check words. -/
theorem exec_lpddrPatrolScrub_block (hon : s.online d = true) (hhours : s.rd .MEM_SCRUB_HOURS d ≠ 0)
    (hecc : s.rd .MEM_STAT_IECC_ON d = 1) (hq : q < s.installed d) (x : List Flip) :
    exec (.lpddrPatrolScrub d [q] x) s = .next (s.readBlock d q x) := by
  change execLpddrPatrolScrub d [q] x s = _
  simp [execLpddrPatrolScrub, State.rdb, hon, hhours, hecc, hq]

section

variable (hecc : s.rd .MEM_STAT_IECC_ON d = 1) (hpoison : s.poison.get false (lpddrAddr d (q / 64 * 64)) = false)
include hecc hpoison

theorem State.readBlock_clean (hread : rsRead (chanAddr (q / 64 * 64)) (s.rawBlock d (q / 64 * 64) x) = .clean) :
    s.readBlock d q x = s := by
  simp [State.readBlock, State.rdb, hecc, hpoison, hread]

theorem State.readBlock_corrected {l : List Byte}
    (hread : rsRead (chanAddr (q / 64 * 64)) (s.rawBlock d (q / 64 * 64) x) = .corrected l) :
    s.readBlock d q x = (s.store (lpddrAddr d (q / 64 * 64)) 64 (ofLe l)).bump .MEM_CORR_COUNT 1 d := by
  simp [State.readBlock, State.rdb, hecc, hpoison, hread]

theorem State.readBlock_uncorrectable
    (hread : rsRead (chanAddr (q / 64 * 64)) (s.rawBlock d (q / 64 * 64) x) = .uncorrectable) :
    s.readBlock d q x =
      ((s.poisonAt (lpddrAddr d (q / 64 * 64))).bump .MEM_UNCORR_COUNT 1 d).wr .MEM_UNCORR_ADDR_OFFSET (q / 64 * 64) d := by
  simp [State.readBlock, State.rdb, hecc, hpoison, hread]

end

theorem State.load_store_block (s : State) (k v : Nat) : (s.store k 64 v).load k 64 = v % 2 ^ 512 := by
  rw [State.load_store, show 512 = 8 * 64 from rfl, Nat.pow_mul]

theorem State.poisonAt_countUp (s : State) (k d : Nat) :
    (s.poisonAt k).countUp .MEM_UNCORR_COUNT 1 d = s.countUp .MEM_UNCORR_COUNT 1 d := by
  have hsame := State.poisonAt_same (g := .fld .MEM_UNCORR_COUNT) rfl (.refl _ s) k
  rw [State.countUp, rd_of_same hsame, State.countUp]

theorem State.poisonAt_poison (s : State) (k : Nat) : (s.poisonAt k).poison.get false k = true := by
  have hevent : (s.poisonAt k).poison = s.poison.set false k true := State.event_same (g := .poison) rfl (.refl _ _) ..
  rw [hevent, SMap.get_set_same]

end Sys2Proof.Machine
end

section
/-!
PROOFS. A die that goes offline (R426): from then on GLB_CAPACITY.DIE_ONLINE shows it as offline.
-/

namespace Sys2Proof.Machine

variable {s : State} {d : Nat}

/-! ## A bit that is cleared -/

theorem setBit_false (w i : Nat) : setBit w i false = 2 ^ i * (2 * (w / 2 ^ i / 2)) + w % 2 ^ i := by
  have hclear : setBit w i false = w - w / 2 ^ i % 2 * 2 ^ i := by simp [setBit, setBits, bits, put, b2n]
  have hdiv := Nat.div_add_mod w (2 ^ i)
  have hodd : 2 ^ i * (w / 2 ^ i) = 2 ^ i * (2 * (w / 2 ^ i / 2)) + w / 2 ^ i % 2 * 2 ^ i := by
    rw [Nat.mul_comm (_ % 2), ← Nat.mul_add, Nat.div_add_mod]
  omega

theorem bit_setBit_false_self (w i : Nat) : bit (setBit w i false) i = false := by
  rw [bit, setBit_false, Nat.testBit_two_pow_mul_add _ (Nat.mod_lt _ (Nat.two_pow_pos i)), if_neg (Nat.lt_irrefl i)]
  simp

/-- Clearing a bit sets no other. -/
theorem bit_setBit_false {w j : Nat} (h : bit w j = false) (i : Nat) : bit (setBit w i false) j = false := by
  obtain rfl | hne := eq_or_ne j i
  · exact bit_setBit_false_self w j
  rw [bit] at h ⊢
  rw [setBit_false, Nat.testBit_two_pow_mul_add _ (Nat.mod_lt _ (Nat.two_pow_pos i))]
  split
  case isTrue => rw [Nat.testBit_mod_two_pow, h, Bool.and_false]
  case isFalse hge =>
    obtain ⟨k, rfl⟩ : ∃ k, j = i + (k + 1) := ⟨j - i - 1, by omega⟩
    rw [Nat.add_sub_cancel_left, Nat.testBit_succ, Nat.mul_div_cancel_left _ Nat.two_pos, Nat.testBit_div_two,
      Nat.testBit_div_two_pow, Nat.add_comm, h]

theorem bit_mod_two_pow {w i : Nat} (h : bit w i = false) (n : Nat) : bit (w % 2 ^ n) i = false := by
  rw [bit] at h ⊢
  rw [Nat.testBit_mod_two_pow, h, Bool.and_false]

/-! ## DIE_ONLINE -/

/-- The state in which the die's registers show that it is offline, before the actions of R426 follow. -/
def State.markedOffline (s : State) (d cause : Nat) : State :=
  ((s.wr .GLB_CAPACITY_DIE_ONLINE (setBit (s.rd .GLB_CAPACITY_DIE_ONLINE) d false)).wr .FLT_DIE_ONLINE 0 0 d).wr .FLT_DIE_CAUSE cause 0 d

theorem State.dieLost_same_markedOffline (hon : s.online d = true) (cause : Nat) :
    Same (.fld .GLB_CAPACITY_DIE_ONLINE) (s.markedOffline d cause) (s.dieLost d cause) := by
  rw [State.dieLost, if_neg (by simp [hon])]
  refine State.recheckWaiting_same rfl (State.event_same rfl (State.capUpdate_same rfl ?quotas) ..)
  refine State.each_same (same_mk_allocs rfl (State.each_same (State.dropCopiesOn_same rfl (State.fabricOffline_same rfl
    (State.evictHomed_same rfl (same_mk_dmas rfl (State.each_same (State.each_same ?head _ _ ?slots) _ _ ?jobs) _) _) _) _) _ _ ?banks) _)
    _ _ ?recheck
  case head => exact same_ite (State.moveHead_same rfl (.refl _ _)) (.refl _ _)
  case slots => exact fun _ _ h => setAx_same rfl h _ _ _ _
  case jobs => exact fun _ _ h => same_ite (State.loseJob_same rfl h _) (State.faultJob_same rfl h _ _)
  case banks => exact fun _ _ h => State.banksMove_same rfl h _ _ _ _ _
  case recheck => exact fun _ _ h => State.quotaRecheck_same rfl h _

theorem State.dieLost_part (s : State) (d cause : Nat) : (s.dieLost d cause).part = s.part :=
  (State.dieLost_keeps (.refl s) d cause).1

theorem State.dieLost_dieOnline (hon : s.online d = true) (cause : Nat) :
    (s.dieLost d cause).rd .GLB_CAPACITY_DIE_ONLINE = setBit (s.rd .GLB_CAPACITY_DIE_ONLINE) d false % 2 ^ 8 := by
  have hmarked : (s.markedOffline d cause).rd .GLB_CAPACITY_DIE_ONLINE = setBit (s.rd .GLB_CAPACITY_DIE_ONLINE) d false % 2 ^ 8 := by
    simp (disch := decide) only [State.markedOffline, State.rd_wr_field, State.rd_wr_same]
    rfl
  exact (rd_of_same (State.dieLost_same_markedOffline hon cause) 0 0 0).trans hmarked

theorem State.dieLost_of_offline (hoff : s.online d = false) (cause : Nat) : s.dieLost d cause = s := if_pos (by simp [hoff])

theorem State.offline_iff : s.online d = false ↔ s.part.dies ≤ d ∨ bit (s.rd .GLB_CAPACITY_DIE_ONLINE) d = false := by
  simp [State.online, imp_iff_not_or]

/-- A die that is lost is offline. -/
theorem State.dieLost_offline (s : State) (d cause : Nat) : (s.dieLost d cause).online d = false := by
  cases hon : s.online d
  case false => rwa [State.dieLost_of_offline hon]
  case true =>
    rw [State.offline_iff, State.dieLost_dieOnline hon]
    exact .inr (bit_mod_two_pow (bit_setBit_false_self ..) 8)

/-- The loss of another die brings none back. -/
theorem State.dieLost_keeps_offline (hoff : s.online d = false) (e cause : Nat) : (s.dieLost e cause).online d = false := by
  cases hon : s.online e
  case false => rwa [State.dieLost_of_offline hon]
  case true =>
    rw [State.offline_iff] at hoff ⊢
    rw [State.dieLost_part, State.dieLost_dieOnline hon]
    exact hoff.imp_right fun hbit => bit_mod_two_pow (bit_setBit_false hbit e) 8

theorem State.dieOffline_offline (s : State) (d cause : Nat) : (s.dieOffline d cause).online d = false := by
  rw [State.dieOffline, State.linkCheck]
  exact State.each_induction (P := fun u => u.online d = false) _ (s.dieLost_offline d cause)
    fun _ e hoff => State.dieLost_keeps_offline hoff e 1

end Sys2Proof.Machine
end

section
/-!
PROOFS. The channels of LPDDR5X and the MEM registers (R376, R381, R382): how a channel's retraining begins and ends, and what the
fields of MEM_CTRL and MEM_CFG do.
-/

namespace Sys2Proof.Machine

variable {s : State} {d h : Nat}

/-! ## Retraining (R382) -/

/-- A channel that has failed does not retrain. -/
theorem State.retrainStart_state (s : State) (d c h : Nat) :
    (s.retrainStart d c).rd .MEM_CH_STATE d h = if h = c ∧ s.rd .MEM_CH_STATE d c ≠ 3 then 2 else s.rd .MEM_CH_STATE d h := by
  by_cases hfailed : s.rd .MEM_CH_STATE d c = 3
  · simp [State.retrainStart, hfailed]
  · rw [State.retrainStart, if_neg hfailed, State.rd_setAx, State.rd_bump_field _ (by decide), State.rd_wr]
    simp [hfailed]
    rfl

theorem State.retrainStart_self (s : State) (d h : Nat) :
    (s.retrainStart d h).rd .MEM_CH_STATE d h = 2 ∨ (s.retrainStart d h).rd .MEM_CH_STATE d h = 3 := by
  rw [State.retrainStart_state]
  split
  case isTrue => exact .inl rfl
  case isFalse hfailed => exact .inr (by simpa using hfailed)

/-- The retraining of a channel leaves each channel as it was, or retraining. -/
theorem State.retrainStart_keeps_state {P : Nat → Prop} (hretrains : P 2) (hs : P (s.rd .MEM_CH_STATE d h)) (c : Nat) :
    P ((s.retrainStart d c).rd .MEM_CH_STATE d h) := by
  rw [State.retrainStart_state]
  split
  case isTrue => exact hretrains
  case isFalse => exact hs

theorem State.retrainStart_count (hserving : s.rd .MEM_CH_STATE d h = 1) :
    (s.retrainStart d h).rd .MEM_RETRAIN_COUNT d = s.countUp .MEM_RETRAIN_COUNT 1 d := by
  rw [State.retrainStart, if_neg (by simp [hserving]), State.rd_setAx, State.bump, State.rd_wr_same, State.rd_wr_field _ (by decide)]
  rfl

theorem exec_wck2dqDrift (hon : s.online d = true) (hh : h < 4) (hserving : s.rd .MEM_CH_STATE d h = 1) :
    exec (.wck2dqDrift d h) s = .next (s.retrainStart d h) :=
  congrArg Host.Outcome.next (if_pos (by simp [hon, hh, hserving]))

/-- The channel after a retraining that succeeds. -/
theorem State.retrainEnded_up (s : State) (d q : Nat) (hh : h < 4) :
    (s.retrainEnded d h ⟨true, q⟩).rd .MEM_CH_STATE d h = 1 ∧ (s.retrainEnded d h ⟨true, q⟩).rd .MEM_CH_FAILS d h = 0 ∧
      bit ((s.retrainEnded d h ⟨true, q⟩).rd .MEM_STAT_TRAINED d) h = true ∧
      (s.retrainEnded d h ⟨true, q⟩).rd .MEM_CH_REFRATE d h = q % 2 ^ Field.width .MEM_CH_REFRATE := by
  simp (disch := decide) only [State.retrainEnded, if_true, State.rd_setAx, State.rd_wr_field, State.rd_wr_same]
  refine ⟨rfl, rfl, ?_, trivial⟩
  have hset := bit_setBit_self (s.rd .MEM_STAT_TRAINED d) h
  rw [bit] at hset ⊢
  rw [Nat.testBit_mod_two_pow, hset, Bool.and_true]
  exact decide_eq_true hh

/-- The state in which a channel has failed, before its die goes offline. -/
def State.channelFailed (s : State) (d h : Nat) : State :=
  (((s.wr .MEM_CH_FAILS 3 d h).wr .MEM_CH_STATE 3 d h).wr .MEM_STAT_TRAINED (setBit (s.rd .MEM_STAT_TRAINED d) h false) d).setAx
    .retrainEnd 0 d h

theorem State.retrainEnded_third (hfails : s.rd .MEM_CH_FAILS d h = 2) (q : Nat) :
    s.retrainEnded d h ⟨false, q⟩ = (s.channelFailed d h).dieOffline d 3 := by
  change s.retrainFailed d h = _
  simp [State.retrainFailed, State.channelFailed, hfails, State.rd_wr_field]

theorem State.channelFailed_reads (s : State) (d h : Nat) :
    (s.channelFailed d h).rd .MEM_CH_STATE d h = 3 ∧ bit ((s.channelFailed d h).rd .MEM_STAT_TRAINED d) h = false := by
  simp (disch := decide) only [State.channelFailed, State.rd_setAx, State.rd_wr_field, State.rd_wr_same]
  exact ⟨rfl, bit_mod_two_pow (bit_setBit_false_self ..) _⟩

theorem State.dieOffline_reads {f : Field} (hf : State.dieOffline_w (.fld f) = false) (u : State) (d cause i : Nat) :
    (u.dieOffline d cause).rd f d i = u.rd f d i :=
  State.dieOffline_same hf (.refl _ u) d cause d i 0

theorem State.retrainOver_reads {f : Field} (hf : f ≠ .MEM_CTRL_RETRAIN) (u : State) (d i : Nat) :
    (u.retrainOver d).rd f d i = u.rd f d i :=
  rd_of_same (State.retrainOver_same (g := .fld f) (by simpa [State.retrainOver_w] using hf) (.refl _ u) d) d i 0

theorem State.retrainOver_online (u : State) (d : Nat) : (u.retrainOver d).online d = u.online d := by
  have hpart : (u.retrainOver d).part = u.part := (State.retrainOver_keeps (.refl u) d).1
  have hdies : (u.retrainOver d).rd .GLB_CAPACITY_DIE_ONLINE = u.rd .GLB_CAPACITY_DIE_ONLINE :=
    State.retrainOver_same (g := .fld .GLB_CAPACITY_DIE_ONLINE) rfl (.refl _ u) d 0 0 0
  rw [State.online, State.online, hpart, hdies]

theorem State.retrainOver_none (hnone : ∀ k, k < 4 → s.rd .MEM_CH_STATE d k ≠ 2) : (s.retrainOver d).rd .MEM_CTRL_RETRAIN d = 0 := by
  rw [State.retrainOver, if_pos (by simpa using hnone), State.rd_wr_same]
  rfl

/-- A retraining that succeeds leaves the channel up, and the third in a row to fail leaves it failed: no channel retrains then that did
not before. -/
theorem State.retrainEnded_notRetraining {b : Bool} (hends : b = true ∨ s.rd .MEM_CH_FAILS d h = 2) (q : Nat) {k : Nat}
    (hk : s.rd .MEM_CH_STATE d k ≠ 2 ∨ k = h) : (s.retrainEnded d h ⟨b, q⟩).rd .MEM_CH_STATE d k ≠ 2 := by
  have hset {v : Nat} (hv : v % 2 ^ Field.width .MEM_CH_STATE ≠ 2) (u : State) (hu : u.rd .MEM_CH_STATE d k = s.rd .MEM_CH_STATE d k) :
      (u.wr .MEM_CH_STATE v d h).rd .MEM_CH_STATE d k ≠ 2 := by
    rw [State.rd_wr]
    split
    case isTrue => exact hv
    case isFalse hother => exact hu ▸ hk.resolve_right fun hkh => hother ⟨rfl, rfl, hkh, rfl⟩
  cases b
  case true =>
    simp (disch := decide) only [State.retrainEnded, if_true, State.rd_setAx, State.rd_wr_field]
    exact hset (by decide) s rfl
  case false =>
    rw [State.retrainEnded_third (hends.resolve_left Bool.false_ne_true), State.dieOffline_reads rfl, State.channelFailed,
      State.rd_setAx, State.rd_wr_field _ (by decide)]
    exact hset (by decide) _ (State.rd_wr_field _ (by decide) ..)

/-! ## MEM_CTRL -/

/-- The channels of a die that serve. -/
def State.servingChannels (s : State) (d : Nat) : List Nat := (List.range 4).filter fun c => s.rd .MEM_CH_STATE d c == 1

/-- The state in which MEM_CTRL.RETRAIN shows what it has begun, before the channels retrain. -/
def State.retrainShown (s : State) (d : Nat) : State := (s.memExpert d).wr .MEM_CTRL_RETRAIN (b2n !(s.servingChannels d).isEmpty) d

theorem State.retrainAll_begins (hidle : s.rd .MEM_CTRL_RETRAIN d = 0) :
    s.retrainAll d = (s.retrainShown d).each (s.servingChannels d) fun u c => u.retrainStart d c :=
  if_neg (by simp [State.rdb, hidle])

theorem State.retrainAll_of_underWay (hbusy : s.rd .MEM_CTRL_RETRAIN d = 1) : s.retrainAll d = s := if_pos (by simp [State.rdb, hbusy])

theorem State.retrainAll_reads {f : Field} (hf : State.retrainStart_w (.fld f) = false) (hidle : s.rd .MEM_CTRL_RETRAIN d = 0) :
    (s.retrainAll d).rd f d = (s.retrainShown d).rd f d := by
  rw [State.retrainAll_begins hidle]
  exact rd_of_same (State.each_same (.refl _ _) _ _ fun _ c hu => State.retrainStart_same hf hu d c) d 0 0

theorem State.retrainAll_retrain (hidle : s.rd .MEM_CTRL_RETRAIN d = 0) :
    (s.retrainAll d).rd .MEM_CTRL_RETRAIN d = b2n ((List.range 4).any fun c => s.rd .MEM_CH_STATE d c == 1) := by
  have hany : (!(s.servingChannels d).isEmpty) = (List.range 4).any fun c => s.rd .MEM_CH_STATE d c == 1 := by
    rw [State.servingChannels, Bool.eq_iff_iff]
    simp
  rw [State.retrainAll_reads rfl hidle, State.retrainShown, State.rd_wr_same, hany]
  exact Nat.mod_eq_of_lt (by rw [b2n]; split <;> decide)

theorem State.retrainAll_expert (hidle : s.rd .MEM_CTRL_RETRAIN d = 0) : (s.retrainAll d).rd .MEM_STAT_EXPERT d = 1 := by
  rw [State.retrainAll_reads rfl hidle, State.retrainShown, State.rd_wr_field _ (by decide), State.memExpert, State.rd_wr_same]
  rfl

theorem State.retrainAll_state (hidle : s.rd .MEM_CTRL_RETRAIN d = 0) (hh : h < 4) (hserving : s.rd .MEM_CH_STATE d h = 1) :
    (s.retrainAll d).rd .MEM_CH_STATE d h = 2 := by
  rw [State.retrainAll_begins hidle]
  have hmem : h ∈ s.servingChannels d := List.mem_filter.2 ⟨List.mem_range.2 hh, by simp [hserving]⟩
  have hshown : (s.retrainShown d).rd .MEM_CH_STATE d h = 1 := by
    rw [State.retrainShown, State.rd_wr_field _ (by decide), State.memExpert, State.rd_wr_field _ (by decide), hserving]
  have hnever := State.each_induction (P := fun u => u.rd .MEM_CH_STATE d h ≠ 3) (s.servingChannels d) (by rw [hshown]; decide)
    fun u c hu => u.retrainStart_keeps_state (P := (· ≠ 3)) (by decide) hu c
  have hturn := State.each_of_mem (s := s.retrainShown d) (P := fun u => u.rd .MEM_CH_STATE d h = 2 ∨ u.rd .MEM_CH_STATE d h = 3) hmem
    (fun u => u.retrainStart_self d h) fun u c hu => u.retrainStart_keeps_state (P := fun n => n = 2 ∨ n = 3) (.inl rfl) hu c
  exact hturn.resolve_right hnever

/-- The counters that MEM_CTRL.CLEAR zeroes. -/
def memCounters : List Field := [.MEM_CORR_COUNT, .MEM_UNCORR_COUNT, .MEM_RETRAIN_COUNT, .MEM_LECC_COUNT]

theorem State.memCounters_cleared {f : Field} (hf : f ∈ memCounters) (s : State) (d : Nat) :
    (s.each memCounters fun u g => u.wr g 0 d).rd f d = 0 :=
  State.each_of_mem (P := fun u => u.rd f d = 0) hf (fun u => (u.rd_wr_same ..).trans (Nat.zero_mod _))
    fun _ g hu => State.rd_wr_zero hu g ..

theorem State.memHandback_expert (s : State) (d : Nat) : (s.memHandback d).rd .MEM_STAT_EXPERT d = 0 := State.rd_wr_same ..

/-! ## MEM_CFG (R376) -/

theorem State.memCfg_takes {v : Nat} (hv : v % 4 ≠ 3) : ∃ u : State, s.memCfg d v =
    (((u.wr .MEM_CFG_IECC (v / 8) d).wr .MEM_CFG_LECC (v / 4) d).wr .MEM_CFG_RATE v d).setAx .nvMem (1 + v % 16) d :=
  ⟨_, if_neg hv⟩

theorem State.memCfg_reads {v : Nat} (hv : v % 4 ≠ 3) : (s.memCfg d v).rd .MEM_CFG_RATE d = v % 4 ∧
    (s.memCfg d v).rd .MEM_CFG_LECC d = v / 4 % 2 ∧ (s.memCfg d v).rd .MEM_CFG_IECC d = v / 8 % 2 ∧
    (s.memCfg d v).ax .nvMem d = 1 + v % 16 := by
  obtain ⟨u, hu⟩ := State.memCfg_takes (s := s) (d := d) hv
  rw [hu]
  simp (disch := decide) only [State.rd_setAx, State.rd_wr_field, State.rd_wr_same, State.ax_setAx_same]
  exact ⟨rfl, rfl, rfl, trivial⟩

theorem State.memCfg_refused {v : Nat} (hv : v % 4 = 3) : s.memCfg d v = s.wr .MEM_STAT_REFUSED 1 d := if_pos hv

/-- Settles O44: a scrub is the read of a block, whose three answers have a lemma each; a retraining that ends leaves its channel up or,
with the die offline, failed (`retrainEnded`), and what follows of RETRAIN leaves the channels alone; the writes act on the state itself. -/
theorem memoryChannels : Obligations.MemoryChannels := by
  intro s d
  refine ⟨?sound, ?corrected, ?poisoned, ?drift, ?up, ?failed, ?retrain, ?again, ?last, ?clear, ?handback, ?cfg, ?refused⟩
  case sound =>
    intro q x hon hhours hecc hq hpoison hread
    exact ⟨_, exec_lpddrPatrolScrub_block hon hhours hecc hq x, State.readBlock_clean hecc hpoison hread⟩
  case corrected =>
    intro q x l hon hhours hecc hq hpoison hread
    refine ⟨_, exec_lpddrPatrolScrub_block hon hhours hecc hq x, ?_⟩
    rw [State.readBlock_corrected hecc hpoison hread]
    exact ⟨State.rd_wr_same .., State.load_store_block ..⟩
  case poisoned =>
    intro q x hon hhours hecc hq hpoison hread
    refine ⟨_, exec_lpddrPatrolScrub_block hon hhours hecc hq x, ?_⟩
    rw [State.readBlock_uncorrectable hecc hpoison hread]
    refine ⟨?_, State.rd_wr_same .., State.poisonAt_poison ..⟩
    rw [State.rd_wr_field _ (by decide), ← s.poisonAt_countUp (lpddrAddr d (q / 64 * 64))]
    exact State.rd_wr_same ..
  case drift =>
    intro h hon hh hserving
    exact ⟨_, exec_wck2dqDrift hon hh hserving, (s.retrainStart_state d h h).trans (if_pos ⟨rfl, by simp [hserving]⟩),
      State.retrainStart_count hserving⟩
  case up =>
    intro h q hh hruns hstate
    refine does_guarded rfl ⟨hh, hstate, hruns⟩ ?_
    simp (disch := decide) only [State.retrainOver_reads]
    exact s.retrainEnded_up d q hh
  case failed =>
    intro h q hh hruns hstate hfails _
    refine does_guarded rfl ⟨hh, hstate, hruns⟩ ?_
    obtain ⟨hstate', htrained⟩ := s.channelFailed_reads d h
    rw [State.retrainOver_reads (by decide), State.retrainOver_online, State.retrainOver_reads (by decide),
      State.retrainEnded_third hfails, State.dieOffline_reads rfl, State.dieOffline_reads rfl]
    exact ⟨hstate', State.dieOffline_offline .., htrained⟩
  case retrain =>
    intro o hw ho hv hidle
    exact does_trigger rfl hw ho hv
      ⟨State.retrainAll_retrain hidle, State.retrainAll_expert hidle, fun h hh hserving => State.retrainAll_state hidle hh hserving⟩
  case again =>
    intro o hw ho hbusy
    exact does_aloneWrite rfl hw ho ((congrArg (ite _ · s) (State.retrainAll_of_underWay hbusy)).trans (ite_self s))
  case last =>
    intro h q b hh hruns hstate hothers hends
    refine does_guarded rfl ⟨hh, hstate, hruns⟩ (State.retrainOver_none fun k hk => State.retrainEnded_notRetraining hends q ?_)
    simpa using List.all_eq_true.1 hothers k (List.mem_range.2 hk)
  case clear =>
    intro o hw ho hv
    refine does_trigger rfl hw ho hv ⟨?_, ?_, ?_, ?_⟩
    all_goals exact State.memCounters_cleared (by decide) s d
  case handback => exact fun o hw ho hv => does_trigger rfl hw ho hv (s.memHandback_expert d)
  case cfg => exact fun o hw ho hv => does_aloneWrite rfl hw ho (State.memCfg_reads hv)
  case refused =>
    intro o hw ho hv
    refine does_aloneWrite rfl hw ho ?_
    rw [State.memCfg_refused hv]
    exact ⟨State.rd_wr_same .., State.rd_wr_field _ (by decide) ..⟩

end Sys2Proof.Machine
end

section
/-!
SUPPORT. Queue pairs, jobs and host commands: what a pair reads after a write, what the end of a job leaves of the list, and what a
completion leaves alone.
-/

namespace Sys2Proof.Machine

theorem State.qp_setQp_same (s : State) (q : Nat) (v : Option QpSt) : (s.setQp q v).qp q = v := by
  simp [State.qp, State.setQp]

theorem State.qp_setQp_other (s : State) {q r : Nat} (h : r ≠ q) (v : Option QpSt) : (s.setQp q v).qp r = s.qp r := by
  simp only [State.qp, State.setQp]
  exact SMap.get_set_other _ _ _ h

theorem State.qp_wr (s : State) (f : Field) (v d i j q : Nat) : (s.wr f v d i j).qp q = s.qp q := rfl

theorem State.qp_of_same {s t : State} (h : Same .qps s t) (q : Nat) : t.qp q = s.qp q := congrArg (SMap.get none · q) h

theorem State.job_none {s : State} {id : Nat} : s.job id = none ↔ ∀ j ∈ s.jobs, j.id ≠ id := by
  simp [State.job]

theorem State.updJob_filter (s : State) (id : Nat) (f : Job → Job) (hf : ∀ j, (f j).id = j.id) :
    (s.updJob id f).jobs.filter (fun k => k.id != id) = s.jobs.filter (fun k => k.id != id) := by
  have hid : ((fun k : Job => k.id != id) ∘ fun j => if j.id = id then f j else j) = fun k => k.id != id := by
    funext j
    by_cases h : j.id = id <;> simp [h, hf]
  have hother : ∀ j ∈ s.jobs.filter (fun k => k.id != id), (if j.id = id then f j else j) = j :=
    fun j hj => if_neg (by simpa using (List.mem_filter.1 hj).2)
  rw [State.updJob, List.filter_map, hid, List.map_congr_left hother, List.map_id']

theorem State.dropStaging_filter (s : State) (id : Nat) :
    (s.dropStaging id).jobs.filter (fun k => k.id != id) = s.jobs.filter (fun k => k.id != id) :=
  s.updJob_filter id _ fun _ => rfl

theorem State.releaseJob_filter (s : State) {id : Nat} {j : Job} (hj : j.id = id) :
    (s.releaseJob j).jobs.filter (fun k => k.id != id) = s.jobs.filter (fun k => k.id != id) := by
  have hjobs : Same .jobs s ((((s.voidRequests j.id).voidOps j.id).freeSeqs j).freeScratch j) :=
    State.freeScratch_same (by decide) (State.freeSeqs_same (by decide) (State.voidOps_same (by decide)
      (State.voidRequests_same (by decide) (Same.refl _ s) _) _) _) _
  subst hj
  exact (State.dropStaging_filter _ _).trans (congrArg (List.filter _) hjobs)

/-- The end of a job takes its identifier from the list of jobs, and no other. -/
theorem State.endJob_jobs (s : State) (id st : Nat) : (s.endJob id st).jobs = s.jobs.filter (fun k => k.id != id) := by
  unfold State.endJob
  split
  · rename_i hnone
    exact (List.filter_eq_self.2 fun j hj => by simpa using State.job_none.1 hnone j hj).symm
  · rename_i j hsome
    have hafter : Same .jobs ({ s.releaseJob j with jobs := (s.releaseJob j).jobs.filter (fun k => k.id != id) } : State)
        ((({ s.releaseJob j with jobs := (s.releaseJob j).jobs.filter (fun k => k.id != id) } : State).complete j.q j.cid j.event j.vec id st
          j.flags (if st = stOK then j.cpost else 0) j.lateness j.cause j.restarts j.slotNo).quotaRecheck j.fn) :=
      State.quotaRecheck_same (by decide) (State.complete_same (by decide) (Same.refl _ _) ..) _
    exact Eq.trans hafter (s.releaseJob_filter (State.job_id hsome))

theorem State.endJob_job (s : State) (id st : Nat) : (s.endJob id st).job id = none := by
  rw [State.job_none, s.endJob_jobs]
  exact fun j hj => by simpa using (List.mem_filter.1 hj).2

theorem State.endJobSilently_jobs (s : State) (id : Nat) : (s.endJobSilently id).jobs = s.jobs.filter (fun k => k.id != id) := by
  unfold State.endJobSilently
  split
  · rename_i hnone
    exact (List.filter_eq_self.2 fun j hj => by simpa using State.job_none.1 hnone j hj).symm
  · rename_i j hsome
    refine Eq.trans ?_ (s.releaseJob_filter (State.job_id hsome))
    dsimp only
    split
    · exact State.quotaRecheck_same (g := .jobs) (by decide) (State.setQp_same (by decide) (Same.refl _ _) _ _) _
    · exact State.quotaRecheck_same (g := .jobs) (by decide) (Same.refl _ _) _

/-- A list that each element's turn filters is filtered by all of them. -/
theorem State.each_filter {α β : Type} {f : State → α → State} {list : State → List β} {keep : α → β → Bool}
    (hf : ∀ u x, list (f u x) = (list u).filter (keep x)) (s : State) (l : List α) :
    list (s.each l f) = (list s).filter (fun b => l.all (fun x => keep x b)) := by
  induction l generalizing s with
  | nil => simp [State.each]
  | cons x l ih =>
    refine (ih (f s x)).trans ?_
    rw [hf, List.filter_filter]
    exact List.filter_congr fun b _ => by rw [List.all_cons, Bool.and_comm]

/-- A list that no element's turn changes stays. -/
theorem State.each_eq {α β : Type} {f : State → α → State} {view : State → β} (hf : ∀ u x, view (f u x) = view u) (s : State) (l : List α) :
    view (s.each l f) = view s :=
  State.each_induction (P := fun u => view u = view s) l rfl fun u x hu => (hf u x).trans hu

/-- One element's turn, in a list that names it once: `before` holds at its turn, and `after` from then on. -/
theorem State.each_once {α : Type} {f : State → α → State} {l : List α} {x : α} (hl : l.Nodup) (hx : x ∈ l) {s : State}
    {before after : State → Prop} (hs : before s) (hbefore : ∀ u y, y ≠ x → before u → before (f u y)) (hturn : ∀ u, before u → after (f u x))
    (hafter : ∀ u y, y ≠ x → after u → after (f u y)) : after (s.each l f) := by
  obtain ⟨l₁, l₂, rfl⟩ := List.append_of_mem hx
  have hne : ∀ y ∈ l₁ ++ l₂, y ≠ x := fun y hy => by
    rintro rfl
    exact (List.nodup_middle.1 hl).notMem hy
  rw [State.each, List.foldl_append, List.foldl_cons]
  refine List.foldlRecOn l₂ f (hturn _ ?_) fun u hu y hy => hafter u y (hne y (List.mem_append_right _ hy)) hu
  exact List.foldlRecOn l₁ f hs fun u hu y hy => hbefore u y (hne y (List.mem_append_left _ hy)) hu

/-- The EVICT commands whose reclaim has ended. -/
def State.endedEvicts (s : State) : List Cmd := s.cmds.filter (fun c => c.st == .running && c.opcode == opEvict && s.evicted c)

theorem State.evictCheck_cmds (s : State) :
    s.evictCheck.cmds = s.cmds.filter (fun k => s.endedEvicts.all (fun c => k.id != c.id)) := by
  refine State.each_filter (list := State.cmds) (keep := fun (c k : Cmd) => k.id != c.id) (fun u c => ?_) s s.endedEvicts
  rw [State.completeCmd_cmds, State.tenancy_cmds]
  rfl

end Sys2Proof.Machine
end

section
/-!
PROOFS. A step carries out the command at the front of the queue (R430, R433), and every command answers a next state, but for a
PLL relock into broken clock ratios (R455, R476).
-/

namespace Sys2Proof.Machine

/-- Settles O51: by the second equation of `step`. -/
theorem stepRunsTheFront : Obligations.StepRunsTheFront := fun _ _ _ hpending => by rw [step, hpending]

theorem step_idle {s : State} (hpending : s.pending = []) : step s = .next s.idle := by rw [step, hpending]

/-- No arm of `exec` but that of PLL_RELOCK_DONE faults: the split follows its arms, and each meaning is of the form `.next _`. -/
theorem exec_answers (s : State) {c : Instr} (hc : ∀ p, c ≠ .pllRelockDone p) : ∃ t, exec c s = .next t := by
  cases c
  case pllRelockDone p => exact absurd rfl (hc p)
  all_goals exact ⟨_, rfl⟩

theorem exec_pllRelockDone_held {s : State} {p : Nat} (hratios : s.ratiosHold = true) :
    ∃ t, exec (.pllRelockDone p) s = .next t := by
  by_cases hrelock : s.ax .relock 0 p = 1
  · exact ⟨_, (if_pos hrelock).trans (if_pos hratios)⟩
  · exact ⟨_, if_neg hrelock⟩

theorem exec_pllRelockDone_broken {s : State} {p : Nat} (hrelock : s.ax .relock 0 p = 1) (hratios : s.ratiosHold = false) :
    exec (.pllRelockDone p) s = .fault .clockRatios :=
  (if_pos hrelock).trans (if_neg (by simp [hratios]))

/-- Settles O52: `exec_answers` for every command but PLL_RELOCK_DONE, whose two cases follow from its definition; the part and the
queue stay by `exec_keeps` and `State.idle_keeps`. -/
theorem everyStepAnswers : Obligations.EveryStepAnswers := by
  refine ⟨?idle, ?command, ?relock, ?broken⟩
  case idle =>
    intro s hpending
    obtain ⟨hpart, hqueue, -⟩ := State.idle_keeps (State.Keeps.refl s)
    exact ⟨s.idle, step_idle hpending, hqueue.trans hpending, hpart⟩
  case command =>
    intro c s hc
    obtain ⟨t, ht⟩ := exec_answers s hc
    obtain ⟨hpart, hqueue, -⟩ := keeps_ofR ht (exec_keeps (State.Keeps.refl s) c)
    exact ⟨t, ht, hqueue, hpart⟩
  case relock =>
    rintro p s (hdone | hratios)
    · exact ⟨s, if_neg (by simp [hdone])⟩
    · exact exec_pllRelockDone_held hratios
  case broken => exact fun p s => exec_pllRelockDone_broken

end Sys2Proof.Machine
end

section
/-!
PROOFS. Loss and return of a clock source (R462, R464, R465, R466).
-/

namespace Sys2Proof.Machine

/-- A part in the safe state of a loss, with the crystal ready, where CLK_CTRL.MGMT_SRC is listed with a value above its one bit. -/
def sourceBeyondWidth : State :=
  { (State.reset.wr .CLK_STAT_SAFE 1).setAx .lossAt 1 with
    fld := (fieldKey .CLK_CTRL_MGMT_SRC 0 0 0, 2) :: ((State.reset.wr .CLK_STAT_SAFE 1).wr .CLK_STAT_XTAL_READY 1).fld }

theorem sourceBeyondWidth_safe : sourceBeyondWidth.rdb .CLK_STAT_NOCLOCK = false ∧ sourceBeyondWidth.ax .railWait = 0 ∧
    sourceBeyondWidth.ax .saveWait = 0 ∧ sourceBeyondWidth.ax .perst = 0 ∧ sourceBeyondWidth.rdb .CLK_STAT_SAFE = true ∧
    sourceBeyondWidth.ax .lossAt ≠ 0 := by decide

theorem sourceBeyondWidth_sourcesBack : (sourceBeyondWidth.wr (readyField 1) 1).sourcesBack = true := by decide

theorem sourceBeyondWidth_source : sourceBeyondWidth.rd .CLK_CTRL_MGMT_SRC = 2 := by decide

/-- CLK_STAT.MGMT_ON_RC takes the one bit that it has of CLK_CTRL.MGMT_SRC. -/
theorem sourceBeyondWidth_onRc : (sourceBeyondWidth.sourceReady 1).rd .CLK_STAT_MGMT_ON_RC = 0 := by decide

/-- Refutes O21: the last clause says that CLK_STAT.MGMT_ON_RC equals CLK_CTRL.MGMT_SRC once the last missing source is back. Both
have one bit, and the write of MGMT_ON_RC truncates, so in a state that lists MGMT_SRC with the value 2 the one reads 0 and the other
2. The clause lacks the premise `fieldsOk s.fld`. -/
theorem not_sourcesOfClock : ¬ Obligations.SourcesOfClock := by
  intro h
  obtain ⟨-, -, -, -, -, -, -, -, hback⟩ := h sourceBeyondWidth
  obtain ⟨hclock, hrail, hsave, hperst, hsafe, hloss⟩ := sourceBeyondWidth_safe
  obtain ⟨t, hexec, -, -, honRc, -⟩ :=
    hback 1 (by decide) (by decide) hclock hrail hsave hperst hsafe hloss sourceBeyondWidth_sourcesBack
  cases (show exec (.sourceReady 1) sourceBeyondWidth = .next (sourceBeyondWidth.sourceReady 1) from rfl).symm.trans hexec
  rw [sourceBeyondWidth_onRc, sourceBeyondWidth_source] at honRc
  exact absurd honRc (by decide)

end Sys2Proof.Machine
end

section
/-!
PROOFS. Event rings and MSI-X (R413, R415, R416).
-/

namespace Sys2Proof.Machine

theorem State.ringHead_count {s : State} {fn : Nat} (hfn : fn < 128) (hstandby : s.standby fn = false) (v : Nat) :
    (s.ringHead fn v).rd .EVR_HEAD_COUNT fn = v % 2 ^ 32 := by
  have hwr : (s.wr .EVR_HEAD_COUNT v fn).rd .EVR_HEAD_COUNT fn = v % 2 ^ 32 := State.rd_wr_same ..
  rw [State.ringHead, if_neg (by omega), if_neg (by rintro ⟨rfl, h⟩; simp [hstandby] at h)]
  split
  · exact hwr
  · exact (rd_of_same (State.flushCoalesced_same (g := .fld .EVR_HEAD_COUNT) (by decide)
      (State.flushOverflow_same (by decide) (Same.refl _ _) fn) fn) fn 0 0).trans hwr

theorem State.ring_setRing_same (s : State) (fn : Nat) (r : Ring) : (s.setRing fn r).ring fn = r := SMap.get_set_same ..

/-- An MSI-X message whose vector is neither off nor masked goes out, and no record of its vector stays unannounced. -/
theorem State.sendMsix_open {s : State} {fn vec : Nat} (hoff : s.ax .msixOff fn = 0) (hmask : s.rd .MSIX_CTRL_MASK fn vec = 0) :
    (s.sendMsix fn vec).outbox = s.outbox ++ [.msix fn vec] ∧ ∀ u ∈ ((s.sendMsix fn vec).ring fn).unannounced, u.1 ≠ vec := by
  let t := s.setRing fn { s.ring fn with unannounced := (s.ring fn).unannounced.filter (fun u => u.1 != vec) }
  have hopen : s.sendMsix fn vec = t.emit (.msix fn vec) := by
    rw [State.sendMsix, if_neg (by simp [hoff]), if_neg (by simp [State.rdb, hmask])]
  have hring : (s.sendMsix fn vec).ring fn = t.ring fn := by rw [hopen]; rfl
  rw [hring, hopen, State.ring_setRing_same]
  exact ⟨rfl, fun u hu => by simpa using (List.mem_filter.1 hu).2⟩

theorem State.unmask_idle {s : State} {fn vec : Nat} (hfn : fn < 128) (hvec : vec < 16) (hpend : bit (s.rd .MSIX_PBA_PEND fn) vec = false) :
    s.unmask fn vec = s.wr .MSIX_CTRL_MASK 0 fn vec := by
  rw [State.unmask, if_neg (by omega)]
  exact if_neg (by rw [State.rd_wr_field _ (by decide), hpend]; decide)

theorem State.unmask_pending {s : State} {fn vec : Nat} (hfn : fn < 128) (hvec : vec < 16) (hpend : bit (s.rd .MSIX_PBA_PEND fn) vec = true) :
    ∃ v, s.unmask fn vec = ((s.wr .MSIX_CTRL_MASK 0 fn vec).wr .MSIX_PBA_PEND v fn).sendMsix fn vec := by
  rw [State.unmask, if_neg (by omega)]
  exact ⟨_, if_pos (by rw [State.rd_wr_field _ (by decide), hpend])⟩

/-- Settles O6: the count that the host writes stands before the flushes of R415, which leave it; a message that neither MSI-X off
nor the mask holds back goes out (`State.sendMsix_open`). -/
theorem ringsAndInterrupts : Obligations.RingsAndInterrupts := by
  intro s fn vec hfn
  refine ⟨?head, ?moderation, ?unmask, ?pending⟩
  case head => exact fun o ho hstandby => does_order rfl ho (State.ringHead_count hfn hstandby _)
  case moderation =>
    intro u hfirst hdue hoff hmask
    refine ⟨_, rfl, ?_⟩
    rw [State.moderationDue, hfirst]
    simp only [if_pos hdue]
    exact State.sendMsix_open hoff hmask
  case unmask =>
    intro o ho hvec hpend
    refine does_order rfl ho ?_
    rw [State.unmask_idle hfn hvec hpend]
    exact ⟨State.rd_wr_same .., rfl⟩
  case pending =>
    intro o ho hvec hpend hoff
    refine does_order rfl ho ?_
    obtain ⟨v, hunmask⟩ := State.unmask_pending hfn hvec hpend
    have hmask : ((s.wr .MSIX_CTRL_MASK 0 fn vec).wr .MSIX_PBA_PEND v fn).rd .MSIX_CTRL_MASK fn vec = 0 := by
      rw [State.rd_wr_field _ (by decide)]
      exact State.rd_wr_same ..
    rw [hunmask]
    exact ⟨(rd_of_same (State.sendMsix_same (g := .fld .MSIX_CTRL_MASK) (by decide) (Same.refl _ _) fn vec) fn vec 0).trans hmask,
      (State.sendMsix_open (s := (s.wr .MSIX_CTRL_MASK 0 fn vec).wr .MSIX_PBA_PEND v fn) hoff hmask).1⟩

end Sys2Proof.Machine
end

section
/-!
PROOFS. Device time (R477, R478): its setting by the host and by TIME_PPS, and the half rate.
-/

namespace Sys2Proof.Machine

/-- Device time as it is set is CLK_DTSET.TIME. -/
theorem State.setTime_now (s : State) (how : Nat) : (s.setTime how).now = s.rd .CLK_DTSET_TIME := by
  simp [State.setTime, State.now]

theorem State.ppsAccepted_dt (s : State) (e : Int) : (s.ppsAccepted e).dt = s.dt := by
  simp only [State.ppsAccepted]
  split <;> simp

theorem State.ppsAccepted_lastPps (s : State) (e : Int) : (s.ppsAccepted e).ax .lastPps = s.now + 1 := by
  simp only [State.ppsAccepted]
  split <;> simp

theorem State.ppsAccepted_ax {x : Aux} (hx : x ≠ .lastPps) (s : State) (e : Int) : (s.ppsAccepted e).ax x = s.ax x := by
  simp only [State.ppsAccepted]
  split <;> simp [State.ax_setAx, hx]

theorem State.ppsTrigger_rd {f : Field} (hf : State.ppsTrigger_w (.fld f) = false) (s : State) : s.ppsTrigger.rd f = s.rd f :=
  rd_of_same (State.ppsTrigger_same hf (Same.refl _ s)) 0 0 0

theorem State.ppsTrigger_rdb {f : Field} (hf : State.ppsTrigger_w (.fld f) = false) (s : State) : s.ppsTrigger.rdb f = s.rdb f := by
  rw [State.rdb, State.ppsTrigger_rd hf, State.rdb]

theorem State.ppsTrigger_dt (s : State) : s.ppsTrigger.dt = s.dt := State.ppsTrigger_same (g := .dt) (by decide) (Same.refl _ s)

theorem State.ppsTrigger_now (s : State) : s.ppsTrigger.now = s.now := by rw [State.now, s.ppsTrigger_dt, State.now]

section
variable {s : State} (hen : s.rdb .CLK_DTCTRL_PPS_EN = true)
include hen

theorem State.ppsEdge_sets (hset : s.rdb .CLK_DTCTRL_SET_PPS = true) :
    s.ppsEdge = ((s.ppsTrigger.setTime 1).wr .CLK_DTCTRL_SET_PPS 0).ppsAccepted (ppsError s.ppsTrigger.now) := by
  rw [State.ppsEdge]
  simp only [State.ppsTrigger_rdb (f := .CLK_DTCTRL_PPS_EN) (by decide), State.ppsTrigger_rdb (f := .CLK_DTCTRL_SET_PPS) (by decide),
    hen, hset, Bool.not_true, Bool.false_eq_true, if_true, if_false]

variable (hset : s.rdb .CLK_DTCTRL_SET_PPS = false)
include hset

theorem State.ppsEdge_rejected (hfar : (ppsError s.now).natAbs > 1000 * s.rd .CLK_DTCTRL_WINDOW) :
    s.ppsEdge = (s.ppsTrigger.bump .CLK_DTCTRL_REJECTS).event 0x14 0xFF sevNotice (atByte 8 (wrap 64 (ppsError s.now))) := by
  rw [State.ppsEdge]
  simp only [State.ppsTrigger_rdb (f := .CLK_DTCTRL_PPS_EN) (by decide), State.ppsTrigger_rdb (f := .CLK_DTCTRL_SET_PPS) (by decide),
    hen, hset, State.ppsTrigger_now, State.ppsTrigger_rd (f := .CLK_DTCTRL_WINDOW) (by decide), if_pos hfar, Bool.not_true, Bool.false_eq_true, if_false]

variable (hnear : (ppsError s.now).natAbs ≤ 1000 * s.rd .CLK_DTCTRL_WINDOW)
include hnear

theorem State.ppsEdge_behind (hbehind : ppsError s.now < 0) :
    s.ppsEdge = ({ s.ppsTrigger with dt := s.ppsTrigger.dt + 8 * (ppsError s.now).natAbs } : State).ppsAccepted (ppsError s.now) := by
  rw [State.ppsEdge]
  simp only [State.ppsTrigger_rdb (f := .CLK_DTCTRL_PPS_EN) (by decide), State.ppsTrigger_rdb (f := .CLK_DTCTRL_SET_PPS) (by decide),
    hen, hset, State.ppsTrigger_now, State.ppsTrigger_rd (f := .CLK_DTCTRL_WINDOW) (by decide), if_neg (Nat.not_lt.2 hnear), Bool.not_true, Bool.false_eq_true, if_false,
    if_pos hbehind]

theorem State.ppsEdge_ahead (hahead : 0 < ppsError s.now) :
    s.ppsEdge = ((s.ppsTrigger.setAx .halfRate 1).setAx .ppsAbsorb (8 * (ppsError s.now).natAbs)).ppsAccepted (ppsError s.now) := by
  rw [State.ppsEdge]
  simp only [State.ppsTrigger_rdb (f := .CLK_DTCTRL_PPS_EN) (by decide), State.ppsTrigger_rdb (f := .CLK_DTCTRL_SET_PPS) (by decide),
    hen, hset, State.ppsTrigger_now, State.ppsTrigger_rd (f := .CLK_DTCTRL_WINDOW) (by decide), if_neg (Nat.not_lt.2 hnear), Bool.not_true, Bool.false_eq_true, if_false,
    if_neg (Int.lt_asymm hahead), if_neg (Int.ne_of_gt hahead)]

end

/-- Settles O23: an edge is one of the four cases of `ppsEdge` (`State.ppsEdge_sets` and after it), on a state whose clock registers
and time the trigger of R360 has left alone. -/
theorem deviceTime : Obligations.DeviceTime := by
  intro s
  refine ⟨?set, ?setPps, ?edgeSets, ?rejected, ?disabled, ?ahead, ?behind, ?lost, ?absorbed⟩
  case set =>
    intro o ho hv
    refine does_order rfl ho ?_
    rw [State.when, if_pos (by simp [hv])]
    exact s.setTime_now 0
  case setPps =>
    intro o ho hv
    refine does_order rfl ho ?_
    rw [State.when, if_pos (by simp [hv])]
    exact State.rd_wr_same ..
  case edgeSets =>
    intro hen hset
    refine ⟨_, rfl, ?_⟩
    rw [State.ppsEdge_sets hen hset]
    constructor
    · rw [State.now, State.ppsAccepted_dt]
      exact (s.ppsTrigger.setTime_now 1).trans (State.ppsTrigger_rd (by decide) s)
    · exact (rd_of_same (State.ppsAccepted_same (g := .fld .CLK_DTCTRL_SET_PPS) (by decide) (Same.refl _ _) _) 0 0 0).trans
        (State.rd_wr_same ..)
  case rejected =>
    intro hen hset hfar
    refine ⟨_, rfl, ?_⟩
    rw [State.ppsEdge_rejected hen hset hfar]
    constructor
    · rw [State.rd_event _ _ _ _ _ (by decide), State.countUp, ← State.ppsTrigger_rd (s := s) (by decide)]
      exact State.rd_wr_same ..
    · exact (State.event_dt ..).trans s.ppsTrigger_dt
  case disabled => exact fun hen => ⟨_, rfl, if_pos (by rw [hen]; rfl)⟩
  case ahead =>
    intro hen hset hahead hnear
    refine ⟨_, rfl, ?_⟩
    rw [State.ppsEdge_ahead hen hset hnear hahead]
    refine ⟨?_, ?_, ?_, ?_⟩
    · simp [State.ppsAccepted_ax, State.ax_setAx]
    · rw [State.ppsAccepted_ax (by decide), State.ax_setAx_same]
      omega
    · exact (State.ppsAccepted_dt ..).trans s.ppsTrigger_dt
    · exact (State.ppsAccepted_lastPps ..).trans (congrArg (· + 1) s.ppsTrigger_now)
  case behind =>
    intro hen hset hbehind hnear
    refine ⟨_, rfl, ?_⟩
    have hdt : s.ppsEdge.dt = s.dt + 8 * (ppsError s.now).natAbs := by
      rw [State.ppsEdge_behind hen hset hnear hbehind, State.ppsAccepted_dt]
      exact congrArg (· + _) s.ppsTrigger_dt
    show (s.ppsEdge.dt : Int) = _
    omega
  case lost =>
    intro hen hfound hlate
    refine does_guarded rfl (by simp [hen, hfound, hlate]) ?_
    exact (State.rd_event _ _ _ _ _ (by decide) ..).trans (State.rd_wr_same ..)
  case absorbed => exact fun hhalf hnone => does_guarded rfl ⟨hhalf, hnone⟩ (State.ax_setAx_same ..)

end Sys2Proof.Machine
end

section
/-!
PROOFS. How a command enters the block (R392, R396, R401, R403).
-/

namespace Sys2Proof.Machine

theorem State.qpError_state (s : State) (fn e code : Nat) : (s.qpError fn e code).rd .QP_STAT_STATE fn e = 3 := by
  rw [State.qpError, State.rd_tenancy _ _ _ _ _ (by decide), State.rd_wr_field _ (by decide)]
  exact State.rd_wr_same ..

theorem State.qpError_error (s : State) (fn e code : Nat) : (s.qpError fn e code).rd .QP_STAT_ERROR fn e = code % 2 ^ Field.width .QP_STAT_ERROR := by
  rw [State.qpError, State.rd_tenancy _ _ _ _ _ (by decide)]
  exact State.rd_wr_same ..

/-- The state that a fetch gives the command to: the head has advanced, and the journal and the pointers are sent. -/
def State.headAdvanced (s : State) (q : Nat) (p : QpSt) (b : BitVec 512) : State :=
  ((((s.setQp q (some { p with fetched := p.fetched + 1, outstanding := p.outstanding + 1 })).wr
      .QP_STAT_SQHEAD ((s.rd .QP_STAT_SQHEAD p.fn p.entry + 1) % 2 ^ s.rd .QP_CFG_SQLOG2 p.fn p.entry) p.fn p.entry).journals p.fn
      (.desc (cmdOf p.fn q p.fetched b.toNat).id b)).sendPointers q)

section
variable {s : State} {q : Nat} {p : QpSt} (hqp : s.qp q = some p) (hactive : s.rd .QP_STAT_STATE p.fn p.entry = 1)
  (hmore : s.rd .QP_STAT_SQHEAD p.fn p.entry ≠ s.rd .QP_SQTAIL_INDEX p.fn p.entry)
  (hroom : p.outstanding + 1 < 2 ^ s.rd .QP_CFG_CQLOG2 p.fn p.entry) (hrole : s.rd .MIR_FN_ROLE 0 p.fn < 2)
  (hhanding : s.ax .handing p.fn = 0) (hpcie : s.ax .pcieDown = 0)
include hqp hactive hmore hroom hrole hhanding hpcie

theorem State.fetch_error (e : HostErr) (rival : Option Master) : s.fetch q (.error e) rival = (s.aer e).qpError p.fn p.entry 2 := by
  simp [State.fetch, hqp, hactive, hmore, Nat.not_le.2 hroom, Nat.not_le.2 hrole, hhanding, hpcie]

theorem State.fetch_ok (b : BitVec 512) (rival : Option Master) :
    s.fetch q (.ok b) rival = (s.headAdvanced q p b).acceptCmd (cmdOf p.fn q p.fetched b.toNat) rival := by
  simp [State.fetch, State.headAdvanced, hqp, hactive, hmore, Nat.not_le.2 hroom, Nat.not_le.2 hrole, hhanding, hpcie]

end

theorem State.journals_sendPointers_same {g : Piece} (hj : State.journals_w g = false) (hs : State.sendPointers_w g = false)
    (s : State) (fn : Nat) (m : JournalMsg) (q : Nat) : Same g s ((s.journals fn m).sendPointers q) :=
  State.sendPointers_same hs (State.journals_same hj (Same.refl _ s) fn m) q

section
variable (s : State) (q : Nat) (p : QpSt) (b : BitVec 512)

theorem State.headAdvanced_head (hlog : s.rd .QP_CFG_SQLOG2 p.fn p.entry ≤ 12) :
    (s.headAdvanced q p b).rd .QP_STAT_SQHEAD p.fn p.entry =
      (s.rd .QP_STAT_SQHEAD p.fn p.entry + 1) % 2 ^ s.rd .QP_CFG_SQLOG2 p.fn p.entry := by
  have hlt : (s.rd .QP_STAT_SQHEAD p.fn p.entry + 1) % 2 ^ s.rd .QP_CFG_SQLOG2 p.fn p.entry < 2 ^ 12 :=
    Nat.lt_of_lt_of_le (Nat.mod_lt _ (Nat.two_pow_pos _)) (Nat.pow_le_pow_right (by decide) hlog)
  refine (rd_of_same (State.journals_sendPointers_same (g := .fld .QP_STAT_SQHEAD) (by decide) (by decide) _ _ _ q) _ _ _).trans ?_
  exact (State.rd_wr_same ..).trans (Nat.mod_eq_of_lt hlt)

theorem State.headAdvanced_qp :
    (s.headAdvanced q p b).qp q = some { p with fetched := p.fetched + 1, outstanding := p.outstanding + 1 } := by
  rw [State.headAdvanced, State.qp_of_same (State.journals_sendPointers_same (g := .qps) (by decide) (by decide) _ _ _ q), State.qp_wr]
  exact State.qp_setQp_same ..

theorem State.headAdvanced_same {g : Piece} (hj : State.journals_w g = false) (hs : State.sendPointers_w g = false) (hq : g ≠ .qps)
    (hh : g ≠ .fld .QP_STAT_SQHEAD) : Same g s (s.headAdvanced q p b) :=
  State.sendPointers_same hs (State.journals_same hj (wr_same (by simpa using hh) (State.setQp_same (by simpa [State.setQp_w] using hq)
    (Same.refl _ s) _ _) _ _ _ _) _ _) _

theorem State.headAdvanced_cmds : (s.headAdvanced q p b).cmds = s.cmds :=
  s.headAdvanced_same q p b (g := .cmds) (by decide) (by decide) (by decide) (by decide)

theorem State.headAdvanced_now : (s.headAdvanced q p b).now = s.now :=
  congrArg (· / 8) (s.headAdvanced_same q p b (g := .dt) (by decide) (by decide) (by decide) (by decide))

end

/-- A descriptor that the checks of R396, R397 and R482 pass, with no rival. -/
def State.admits (s : State) (c : Cmd) : Prop :=
  descWellFormed c.desc = true ∧ (c.fn = 0 ∨ pfOnly c.opcode = false) ∧ s.rd .START_REPORT_STATE ≠ 2

theorem State.acceptCmd_ready {s : State} {c : Cmd} (h : s.admits c) (hnow : c.at' ≤ s.now) :
    s.acceptCmd c none = { s with cmds := s.cmds ++ [c] } := by
  obtain ⟨hform, hfn, hstart⟩ := h
  have hright : ¬(c.fn ≠ 0 ∧ pfOnly c.opcode = true) := by rintro ⟨hne, hpf⟩; simp [hne, hpf] at hfn
  have hstart' : ¬(({ s with cmds := s.cmds ++ [c] } : State).rd .START_REPORT_STATE = 2 ∧ (!runsMinimal c.opcode) = true) :=
    fun hminimal => hstart hminimal.1
  have hparks : ¬(c.opcode ≠ opJobSubmit ∧ c.at' > ({ s with cmds := s.cmds ++ [c] } : State).now) :=
    fun hlater => absurd hlater.2 (Nat.not_lt.2 hnow)
  simp only [State.acceptCmd, hform, Bool.not_true, Bool.false_eq_true, if_false, if_neg hright, if_neg hstart', Option.filter_none,
    if_neg hparks]

theorem State.acceptCmd_parked {s : State} {c : Cmd} (h : s.admits c) (hop : c.opcode ≠ opJobSubmit) (hlater : s.now < c.at')
    (hst : c.st ≠ .parked) (hroom : s.parkedCount < 1024) : { c with st := .parked } ∈ (s.acceptCmd c none).cmds := by
  obtain ⟨hform, hfn, hstart⟩ := h
  have hright : ¬(c.fn ≠ 0 ∧ pfOnly c.opcode = true) := by rintro ⟨hne, hpf⟩; simp [hne, hpf] at hfn
  have hstart' : ¬(({ s with cmds := s.cmds ++ [c] } : State).rd .START_REPORT_STATE = 2 ∧ (!runsMinimal c.opcode) = true) :=
    fun hminimal => hstart hminimal.1
  have hcount : ({ s with cmds := s.cmds ++ [c] } : State).parkedCount = s.parkedCount := by simp [State.parkedCount, hst]
  have hroom' : ¬({ s with cmds := s.cmds ++ [c] } : State).parkedCount ≥ 1024 := by rw [hcount]; omega
  have hparks : c.opcode ≠ opJobSubmit ∧ c.at' > ({ s with cmds := s.cmds ++ [c] } : State).now := ⟨hop, hlater⟩
  simp only [State.acceptCmd, hform, Bool.not_true, Bool.false_eq_true, if_false, if_neg hright, if_neg hstart', Option.filter_none,
    if_pos hparks, if_neg hroom']
  simp

theorem State.acceptCmd_malformed {s : State} {c : Cmd} (hform : descWellFormed c.desc = false) (rival : Option Master) :
    s.acceptCmd c rival = ({ s with cmds := s.cmds ++ [c] } : State).completeCmd c stMalformed 0 := by
  simp [State.acceptCmd, hform]

theorem State.unpark_cmd {s : State} {c : Cmd} (hc : c ∈ s.cmds) (hst : c.st = .parked) (hdue : c.at' ≤ s.now) :
    { c with st := .ready } ∈ (s.unpark c.id).cmds :=
  List.mem_map.2 ⟨c, hc, if_pos ⟨rfl, hst, decide_eq_true hdue⟩⟩

theorem State.unpark_job {s : State} {j : Job} (hj : j ∈ s.jobs) (hst : j.st = .parked) (hdue : j.at' ≤ s.now) :
    { j with st := .waiting } ∈ (s.unpark j.id).jobs :=
  List.mem_map.2 ⟨j, hj, if_pos ⟨rfl, hst, decide_eq_true hdue⟩⟩

/-- The checks of a descriptor do not see that its head has advanced. -/
theorem State.headAdvanced_admits {s : State} {q : Nat} {p : QpSt} {b : BitVec 512} (hform : descWellFormed b.toNat = true)
    (hfn : p.fn = 0 ∨ pfOnly (fromByte b.toNat 0 1) = false) (hstart : s.rd .START_REPORT_STATE ≠ 2) :
    (s.headAdvanced q p b).admits (cmdOf p.fn q p.fetched b.toNat) := by
  refine ⟨hform, hfn, ?_⟩
  rw [rd_of_same (s.headAdvanced_same q p b (g := .fld .START_REPORT_STATE) (by decide) (by decide) (by decide) (by decide))]
  exact hstart

/-- Settles O2: a fetch advances the head (`State.headAdvanced`) and gives the command to `acceptCmd`, whose branches are
`State.acceptCmd_ready`, `State.acceptCmd_parked` and `State.acceptCmd_malformed`. -/
theorem commandIntake : Obligations.CommandIntake := by
  intro s q
  refine ⟨?fetched, ?malformed, ?parked, ?unread, ?command, ?job⟩
  case fetched =>
    intro p b hqp hactive hmore hlog hroom hrole hhanding hpcie hform hfn hstart hnow
    refine ⟨_, rfl, ?_⟩
    rw [State.fetch_ok hqp hactive hmore hroom hrole hhanding hpcie,
      State.acceptCmd_ready (State.headAdvanced_admits hform hfn hstart) (s.headAdvanced_now q p b ▸ hnow)]
    exact ⟨State.headAdvanced_head _ _ _ _ hlog, State.headAdvanced_qp .., congrArg (· ++ _) (s.headAdvanced_cmds q p b)⟩
  case malformed =>
    intro p b hqp hactive hmore hroom hrole hhanding hpcie hlog hform
    refine ⟨_, rfl, ?_⟩
    rw [State.fetch_ok hqp hactive hmore hroom hrole hhanding hpcie, State.acceptCmd_malformed hform]
    refine ⟨(State.completeCmd_rd _ _ _ _ _ _ (by decide) ..).trans (State.headAdvanced_head _ _ _ _ hlog), ?_⟩
    rw [State.completeCmd_cmds, s.headAdvanced_cmds q p b, List.filter_append]
    simp
  case parked =>
    intro p b hqp hactive hmore hroom hrole hhanding hpcie hform hfn hstart hop hlater hparked
    have hcount : (s.headAdvanced q p b).parkedCount = s.parkedCount := by
      rw [State.parkedCount, s.headAdvanced_cmds,
        show (s.headAdvanced q p b).jobs = s.jobs from s.headAdvanced_same q p b (g := .jobs) (by decide) (by decide) (by decide) (by decide),
        State.parkedCount]
    refine ⟨_, rfl, ?_⟩
    rw [State.fetch_ok hqp hactive hmore hroom hrole hhanding hpcie]
    exact State.acceptCmd_parked (State.headAdvanced_admits hform hfn hstart) hop (s.headAdvanced_now q p b ▸ hlater) nofun (hcount ▸ hparked)
  case unread =>
    intro p e hqp hactive hmore hroom hrole hhanding hpcie
    refine ⟨_, rfl, ?_⟩
    rw [State.fetch_error hqp hactive hmore hroom hrole hhanding hpcie]
    exact ⟨State.qpError_state .., State.qpError_error .., State.tenancy_cmds ..⟩
  case command => exact fun c hc hst hdue => ⟨_, rfl, State.unpark_cmd hc hst hdue⟩
  case job => exact fun j hj hst hdue => ⟨_, rfl, State.unpark_job hj hst hdue⟩

end Sys2Proof.Machine
end

section
/-!
PROOFS. Host commands on jobs and programs (R209, R397, R400, R402, R403, R407).
-/

namespace Sys2Proof.Machine

theorem State.jobSubmit_accepted {s : State} {c : Cmd} (hcheck : s.submitCheck c = none) (hpark : c.at' ≤ s.now ∨ s.parkedCount < 1024) :
    s.jobSubmit c = { s.setAx .submitCount (s.ax .submitCount + 1) with
      cmds := s.cmds.filter (fun k => k.id != c.id)
      jobs := s.jobs ++ [{ jobOf c (s.ax .submitCount) s.now with grants := s.rd .FNQ_GRANT_SLOT c.fn }] } := by
  rw [State.jobSubmit, hcheck]
  exact if_neg (by omega)

theorem State.jobSubmit_refused {s : State} {c : Cmd} {st : Nat} (hcheck : s.submitCheck c = some st) :
    s.jobSubmit c = s.completeCmd c st 0 := by rw [State.jobSubmit, hcheck]

theorem State.jobAbort_found {s : State} {c : Cmd} {j : Job} (hjob : s.job (c.b 16 8) = some j) (hfn : c.fn = 0 ∨ j.fn = c.fn)
    (hst : j.st ≠ .ackWait) : s.jobAbort c = (s.endJob j.id stAbortedByHost).completeCmd c stOK 0 := by
  rw [State.jobAbort, hjob]
  exact if_neg (by rintro (⟨hne, hother⟩ | hack) <;> simp_all)

theorem State.jobAbort_none {s : State} {c : Cmd} (hjob : s.job (c.b 16 8) = none) : s.jobAbort c = s.completeCmd c stOK 1 := by
  rw [State.jobAbort, hjob]

/-- Programs of one handle are marked for unloading. -/
def markUnloading (h : Nat) (l : List Prog) : List Prog := l.map (fun q => if q.handle = h then { q with unloading := true } else q)

theorem markUnloading_unloading {h : Nat} {l : List Prog} {p : Prog} (hp : p ∈ markUnloading h l) (hh : p.handle = h) :
    p.unloading = true := by
  obtain ⟨q, -, rfl⟩ := List.mem_map.1 hp
  split
  · rfl
  · rename_i hq
    simp [hq] at hh

theorem mem_markUnloading {l : List Prog} {p : Prog} (hp : p ∈ l) : { p with unloading := true } ∈ markUnloading p.handle l :=
  List.mem_map.2 ⟨p, hp, if_pos rfl⟩

theorem State.prog_none {s : State} {h : Nat} : s.prog h = none ↔ ∀ p ∈ s.progs, p.handle ≠ h := by
  simp [State.prog]

theorem State.prog_some {s : State} {h : Nat} {p : Prog} (hp : s.prog h = some p) : p ∈ s.progs ∧ p.handle = h :=
  ⟨List.mem_of_find?_eq_some hp, by simpa using List.find?_some hp⟩

/-- A program that is marked leaves where no job runs it. -/
theorem State.unloadEffect_idle {s : State} {h : Nat} (hmarked : ∀ p, s.prog h = some p → p.unloading = true)
    (hidle : s.jobs.any (fun j => j.handle == h) = false) : (s.unloadEffect h).prog h = none := by
  unfold State.unloadEffect
  split
  · assumption
  · rename_i p hp
    rw [if_pos (by simp [hmarked p hp, hidle]), State.prog_none]
    have hprogs : Same .progs ({ s with progs := s.progs.filter (fun q => q.handle != h) } : State)
        (({ s with progs := s.progs.filter (fun q => q.handle != h) } : State).quotaRecheck p.fn) :=
      State.quotaRecheck_same (by decide) (Same.refl _ _) _
    rw [hprogs]
    exact fun q hq => by simpa using (List.mem_filter.1 hq).2

theorem State.unloadEffect_running {s : State} {h : Nat} (hrunning : s.jobs.any (fun j => j.handle == h) = true) : s.unloadEffect h = s := by
  unfold State.unloadEffect
  split
  · rfl
  · exact if_neg (by simp [hrunning])

/-- PROGRAM_UNLOAD marks the program and tells the standby. -/
def State.unloadMarked (s : State) (fn h : Nat) : State :=
  ({ s with progs := markUnloading h s.progs } : State).journals fn (.unload h)

theorem State.unloadMarked_progs (s : State) (fn h : Nat) : (s.unloadMarked fn h).progs = markUnloading h s.progs :=
  State.journals_same (g := .progs) (by decide) (Same.refl _ _) fn _

theorem State.unloadMarked_same {g : Piece} (hj : State.journals_w g = false) (hg : g ≠ .progs) (s : State) (fn h : Nat) :
    Same g s (s.unloadMarked fn h) :=
  State.journals_same hj (same_mk_progs (by simpa using hg) (Same.refl _ s) _) fn _

theorem State.programUnload_found {s : State} {c : Cmd} {p : Prog}
    (hp : s.progs.find? (fun p => p.handle == c.b 16 2 && p.fn == c.fn && !p.unloading) = some p) :
    s.programUnload c = ((s.unloadMarked c.fn p.handle).unloadEffect p.handle).completeCmd c stOK 0 := by
  rw [State.programUnload, hp]
  rfl

theorem State.programUnload_completed {s : State} {c : Cmd} {p : Prog}
    (hp : s.progs.find? (fun p => p.handle == c.b 16 2 && p.fn == c.fn && !p.unloading) = some p) :
    Completed c stOK 0 s (s.programUnload c) := by
  rw [State.programUnload_found hp]
  refine State.completeCmd_completed_of_same (fun g hg => ?_) c stOK 0
  have hfree : State.unloadEffect_w g = false ∧ State.journals_w g = false ∧ g ≠ .progs :=
    (show ∀ g ∈ completionReads, State.unloadEffect_w g = false ∧ State.journals_w g = false ∧ g ≠ .progs by decide) g hg
  obtain ⟨heffect, hjournal, hprogs⟩ := hfree
  exact State.unloadEffect_same heffect (s.unloadMarked_same hjournal hprogs _ _) _

/-- Settles O3: each clause names the branch of its command that runs; the job that is aborted has left (`State.endJob_job`), and
a program that is marked leaves where no job runs it (`State.unloadEffect_idle`). -/
theorem jobAndProgramCommands : Obligations.JobAndProgramCommands := by
  intro s id c
  refine ⟨?nop, ?submit, ?refused, ?abort, ?absent, ?unload, ?running, ?effect⟩
  case nop => exact fun hready => does_command rfl hready (State.completeCmd_completed_self ..)
  case submit =>
    intro hready hcheck hpark
    refine does_command rfl hready ?_
    rw [State.jobSubmit_accepted hcheck hpark]
    refine ⟨rfl, State.ax_setAx_same s .submitCount (s.ax .submitCount + 1) 0 0 0, fun k hk => ?_⟩
    simpa using (List.mem_filter.1 hk).2
  case refused =>
    intro st hready hcheck
    refine does_command rfl hready ?_
    rw [State.jobSubmit_refused hcheck]
    exact ⟨State.completeCmd_jobs .., State.completeCmd_completed_self ..⟩
  case abort =>
    intro j hready hjob hfn hst
    refine does_command rfl hready ?_
    rw [State.jobAbort_found hjob hfn hst, ← State.job_id hjob]
    exact ⟨rfl, (State.job_of_same (State.completeCmd_same (by decide) (Same.refl _ _) ..) _).trans (State.endJob_job ..)⟩
  case absent =>
    intro hready hjob
    refine does_command rfl hready ?_
    rw [State.jobAbort_none hjob]
    exact ⟨State.completeCmd_completed_self .., State.completeCmd_jobs ..⟩
  case unload =>
    intro p hready hp hidle
    refine does_command rfl hready ⟨State.programUnload_completed hp, ?_⟩
    have hjobs : (s.unloadMarked (s.started c).fn p.handle).jobs = s.jobs := s.unloadMarked_same (g := .jobs) (by decide) (by decide) _ _
    rw [State.programUnload_found hp, State.prog, State.completeCmd_progs]
    refine State.unloadEffect_idle (fun q hq => ?_) (hjobs ▸ hidle)
    obtain ⟨hmem, hh⟩ := State.prog_some hq
    exact markUnloading_unloading (s.unloadMarked_progs .. ▸ hmem) hh
  case running =>
    intro p hready hp hrunning
    refine does_command rfl hready ⟨State.programUnload_completed hp, ?_⟩
    have hjobs : (s.unloadMarked (s.started c).fn p.handle).jobs = s.jobs := s.unloadMarked_same (g := .jobs) (by decide) (by decide) _ _
    rw [State.programUnload_found hp, State.completeCmd_progs, State.unloadEffect_running (hjobs ▸ hrunning), State.unloadMarked_progs]
    exact mem_markUnloading (List.mem_of_find?_eq_some hp)
  case effect =>
    intro p hp hunloading hidle
    refine ⟨_, rfl, State.unloadEffect_idle (fun q hq => ?_) hidle⟩
    cases hp.symm.trans hq
    exact hunloading

end Sys2Proof.Machine
end

section
/-!
PROOFS. Quotas, grants, resets and BAR2 accesses of functions (R389, R390, R408, R410, R412).
-/

namespace Sys2Proof.Machine

/-! ## Quotas and grants -/

/-- Every FNQ field of a kind. -/
def quotaFields : List Field := [.FNQ_Q0_QP, .FNQ_Q0_FEEDQ, .FNQ_Q1_BANKS, .FNQ_Q2_PAGES, .FNQ_SHARE_POWER, .FNQ_SHARE_RT]

theorem quotaField_mem (k : Nat) : quotaField k ∈ quotaFields := by
  unfold quotaField
  split_ifs <;> decide

/-- What a quota write does after it has stored the value. -/
theorem State.quotaWrite_reads {s : State} {fn k v : Nat} (hfn : fn < 128) (h1 : 1 ≤ k) (h6 : k ≤ 6) (hv : v ≤ s.quotaMax fn k)
    (hstandby : s.standby fn = false) : (s.quotaWrite fn k v).rd (quotaField k) fn = v % 2 ^ (quotaField k).width := by
  rw [← State.rd_wr_same s (quotaField k) v fn 0 0, State.quotaWrite, if_neg (by omega), if_neg (by simp [hstandby, hv])]
  have hmem := quotaField_mem k
  generalize quotaField k = f at hmem
  have hw : ∀ f ∈ quotaFields, State.sendQuotas_w (.fld f) = false ∧ State.tenancy_w (.fld f) = false ∧
    State.quotaRecheck_w (.fld f) = false ∧ (Piece.fld f == .fld .FNQ_OVER_KIND) = false := by decide
  obtain ⟨hsend, htenancy, hrecheck, hover⟩ := hw f hmem
  refine rd_of_same (f := f) ?_ fn 0 0
  have hsent : Same (.fld f) (s.wr f v fn) ((s.wr f v fn).sendQuotas fn) := State.sendQuotas_same hsend (Same.refl _ _) fn
  dsimp only
  split_ifs
  · exact State.tenancy_same htenancy (wr_same hover hsent _ _ _ _) _ _ _ _
  · exact State.quotaRecheck_same hrecheck hsent _
  · exact State.each_same hsent _ _ fun u x hu => same_ite (setAx_same rfl hu _ _ _ _) hu
  · exact State.each_same hsent _ _ fun u x hu => State.when_same hu _ _ fun v hv => setAx_same rfl hv _ _ _ _
  · exact setAx_same rfl hsent _ _ _ _
  · exact hsent
  · exact State.when_same hsent _ _ fun u hu => setAx_same rfl hu _ _ _ _

/-- Where the grant changes, it is stored, and jobs that have not started lose it where it is cleared. -/
theorem State.grantSet_changed {s : State} {fn m v : Nat} (hchange : bit (s.rd .FNQ_GRANT_SLOT fn) m ≠ (v % 2 == 1)) :
    (s.grantSet fn m v).rd .FNQ_GRANT_SLOT fn = setBit (s.rd .FNQ_GRANT_SLOT fn) m (v % 2 == 1) % 2 ^ 64 ∧
      (v % 2 = 0 → (s.grantSet fn m v).jobs =
        s.jobs.map (fun j => if j.fn = fn ∧ j.started = none then { j with grants := setBit j.grants m false } else j)) := by
  rw [State.grantSet]
  dsimp only
  rw [if_neg hchange]
  constructor
  · rw [State.rd_tenancy _ _ _ _ _ (by decide), rd_of_same (State.sendQuotas_same (g := .fld .FNQ_GRANT_SLOT) (by decide) (Same.refl _ _) fn)]
    exact State.rd_wr_same ..
  · intro hclear
    rw [State.tenancy_jobs, if_neg (by omega)]
    exact State.sendQuotas_same (g := .jobs) (by decide) (Same.refl _ _) fn

theorem State.grantSet_bit (s : State) {m : Nat} (hm : m < 64) (fn v : Nat) :
    bit ((s.grantSet fn m v).rd .FNQ_GRANT_SLOT fn) m = (v % 2 == 1) := by
  by_cases hchange : bit (s.rd .FNQ_GRANT_SLOT fn) m = (v % 2 == 1)
  · rw [State.grantSet]
    dsimp only
    rw [if_pos hchange, hchange]
  · rw [(State.grantSet_changed hchange).1, bit, Nat.testBit_mod_two_pow, decide_eq_true hm, Bool.true_and]
    cases v % 2 == 1
    · exact bit_setBit_false_self ..
    · exact bit_setBit_self ..

theorem State.grantSet_jobs {s : State} {fn m v : Nat} (hset : bit (s.rd .FNQ_GRANT_SLOT fn) m = true) (hclear : v % 2 = 0) {j : Job}
    (hj : j ∈ (s.grantSet fn m v).jobs) (hfn : j.fn = fn) (hstarted : j.started = none) : bit j.grants m = false := by
  rw [(State.grantSet_changed (by simp [hset, hclear])).2 hclear] at hj
  obtain ⟨k, -, rfl⟩ := List.mem_map.1 hj
  split at hfn
  · rename_i hwaiting
    rw [if_pos hwaiting]
    exact bit_setBit_false_self ..
  · rename_i hother
    rw [if_neg hother] at hstarted
    exact absurd ⟨hfn, hstarted⟩ hother

theorem State.grantWrite_taken {s : State} {fn m : Nat} (hfn : fn < 128) (hm : m < 64) (hstandby : s.standby fn = false) (v : Nat) :
    s.grantWrite fn m v = s.grantSet fn m v := by
  rw [State.grantWrite, if_neg (by omega), if_neg (by simp [hstandby])]

/-! ## Resets -/

/-- What a reset does to the pairs and the allocations of a function. -/
def State.resetHoldings (s : State) (fn : Nat) (qs : List Nat) : State :=
  let s := s.each qs (fun s q => match s.qp q with
    | some p => (([Reg.QP_SQBASE, .QP_CQBASE, .QP_CFG, .QP_SQTAIL, .QP_CQHEAD, .QP_STAT].foldl
        (fun s r => s.resetReg r fn p.entry) s)).setQp q none
    | none => s)
  s.each (s.allocs.filter (fun a => a.fn == fn)) (fun s a => s.freeAlloc a a.first a.count)

/-- What a reset does to the registers of a function, to its ring and to its record. -/
def State.resetRegisters (s : State) (fn jobs : Nat) : State :=
  let s := [Reg.EVR_BASE, .EVR_CTRL, .EVR_HEAD, .EVR_TAIL, .EVR_OVF, .EVR_MOD, .MSIX_PBA].foldl
    (fun s r => s.resetReg r fn 0) s
  let s := (List.range 64).foldl (fun s a => s.resetReg .BAR2_AP fn a) s
  let s := (List.range 16).foldl (fun s v => ([Reg.MSIX_ADDR, .MSIX_DATA, .MSIX_CTRL].foldl
    (fun s r => s.resetReg r fn v) s)) s
  let s := s.setRing fn ⟨[], 0, 0, []⟩
  let s : State := { s with
    hold := s.hold.filter (fun e => e.1.unpair.1 != fn), latch := s.latch.filter (fun e => e.1.unpair.1 != fn) }
  (s.quotaRecheck fn).event 0x64 0xFF sevNotice (fn + atByte 4 jobs)

/-- The jobs of a function end without completions. -/
def State.resetJobs (s : State) (fn : Nat) : State :=
  s.each ((s.jobs.filter (fun j => j.fn == fn)).map (·.id)) (fun s j => s.endJobSilently j)

/-- The state of a reset whose jobs, commands, pairs and allocations are gone. -/
def State.resetWork (s : State) (fn : Nat) : State :=
  ({ s.resetJobs fn with cmds := (s.resetJobs fn).cmds.filter (fun c => c.fn != fn) } : State).resetHoldings fn
    ((s.resetJobs fn).pairsOf fn)

theorem State.resetFn_eq (s : State) (fn : Nat) : s.resetFn fn =
    ({ s.resetWork fn with progs := (s.resetWork fn).progs.filter (fun p => p.fn != fn) } : State).resetRegisters fn
      ((s.jobs.filter (fun j => j.fn == fn)).map (·.id)).length := rfl

section
variable {g : Piece} (hg : g ∈ [Piece.cmds, .jobs, .progs])
include hg

theorem State.resetHoldings_same (s : State) (fn : Nat) (qs : List Nat) : Same g s (s.resetHoldings fn qs) := by
  have hw : ∀ g ∈ [Piece.cmds, .jobs, .progs], State.resetReg_w g = false ∧ State.setQp_w g = false ∧ State.freeAlloc_w g = false := by
    decide
  obtain ⟨hreg, hqp, halloc⟩ := hw g hg
  refine State.each_same (State.each_same (Same.refl g s) _ _ fun u q hu => ?_) _ _ fun u x hu => State.freeAlloc_same halloc hu _ _ _
  split
  · exact State.setQp_same hqp (foldl_same hu _ _ fun v r hv => State.resetReg_same hreg hv _ _ _) _ _
  · exact hu

theorem State.resetRegisters_same (s : State) (fn jobs : Nat) : Same g s (s.resetRegisters fn jobs) := by
  have hw : ∀ g ∈ [Piece.cmds, .jobs, .progs], State.resetReg_w g = false ∧ State.setRing_w g = false ∧
    State.quotaRecheck_w g = false ∧ State.event_w g = false ∧ (g == .hold) = false ∧ (g == .latch) = false := by decide
  obtain ⟨hreg, hring, hquota, hevent, hhold, hlatch⟩ := hw g hg
  have hreset : ∀ (l : List Reg) (i : Nat) (u : State), Same g s u → Same g s (l.foldl (fun s r => s.resetReg r fn i) u) :=
    fun l i u hu => foldl_same hu _ _ fun v r hv => State.resetReg_same hreg hv _ _ _
  exact State.event_same hevent (State.quotaRecheck_same hquota (same_mk_hold_latch hhold hlatch (State.setRing_same hring
    (foldl_same (foldl_same (hreset _ 0 _ (Same.refl g s)) _ _ fun v a hv => State.resetReg_same hreg hv _ _ _) _ _
      fun v a hv => hreset _ a _ hv) _ _) _ _) _) _ _ _ _

end

theorem State.resetFn_cmds (s : State) (fn : Nat) : (s.resetFn fn).cmds = s.cmds.filter (fun c => c.fn != fn) := by
  have hjobs : Same .cmds s (s.resetJobs fn) :=
    State.each_same (Same.refl _ s) _ _ fun u j hu => State.endJobSilently_same (by decide) hu j
  rw [s.resetFn_eq]
  refine (State.resetRegisters_same (g := .cmds) (by decide) _ _ _).trans ?_
  exact (State.resetHoldings_same (g := .cmds) (by decide) _ _ _).trans (congrArg (List.filter _) hjobs)

theorem State.resetFn_progs (s : State) (fn : Nat) : (s.resetFn fn).progs = s.progs.filter (fun p => p.fn != fn) := by
  have hjobs : Same .progs s (s.resetJobs fn) :=
    State.each_same (Same.refl _ s) _ _ fun u j hu => State.endJobSilently_same (by decide) hu j
  have hwork : (s.resetWork fn).progs = s.progs := (State.resetHoldings_same (g := .progs) (by decide) _ _ _).trans hjobs
  rw [s.resetFn_eq]
  exact (State.resetRegisters_same (g := .progs) (by decide) _ _ _).trans (congrArg (List.filter _) hwork)

/-- The jobs that stay bear none of the identifiers of the function's jobs. -/
theorem State.resetFn_jobs (s : State) (fn : Nat) : (s.resetFn fn).jobs =
    s.jobs.filter (fun k => ((s.jobs.filter (fun j => j.fn == fn)).map (·.id)).all (fun id => k.id != id)) := by
  rw [s.resetFn_eq]
  refine (State.resetRegisters_same (g := .jobs) (by decide) _ _ _).trans ?_
  refine (State.resetHoldings_same (g := .jobs) (by decide) _ _ _).trans ?_
  exact State.each_filter (list := State.jobs) (keep := fun (id : Nat) (k : Job) => k.id != id) State.endJobSilently_jobs s _

theorem State.resetFn_jobs_fn {s : State} {fn : Nat} {j : Job} (hj : j ∈ (s.resetFn fn).jobs) : j ∈ s.jobs ∧ j.fn ≠ fn := by
  rw [s.resetFn_jobs, List.mem_filter, List.all_eq_true] at hj
  obtain ⟨hmem, hids⟩ := hj
  refine ⟨hmem, fun hfn => ?_⟩
  have hid := hids j.id (List.mem_map.2 ⟨j, List.mem_filter.2 ⟨hmem, by simp [hfn]⟩, rfl⟩)
  simp at hid

/-- Nothing of a function is listed once all of them have been reset. -/
theorem State.resetAll_lists (l : List Nat) (s : State) :
    (∀ k ∈ (s.each l State.resetFn).cmds, k ∈ s.cmds ∧ k.fn ∉ l) ∧ (∀ p ∈ (s.each l State.resetFn).progs, p ∈ s.progs ∧ p.fn ∉ l) ∧
      ∀ j ∈ (s.each l State.resetFn).jobs, j ∈ s.jobs ∧ j.fn ∉ l := by
  induction l generalizing s with
  | nil => simp [State.each]
  | cons f l ih =>
    obtain ⟨hcmds, hprogs, hjobs⟩ := ih (s.resetFn f)
    refine ⟨fun k hk => ?_, fun p hp => ?_, fun j hj => ?_⟩
    · obtain ⟨hmem, hfn⟩ := hcmds k hk
      rw [State.resetFn_cmds, List.mem_filter] at hmem
      exact ⟨hmem.1, by simpa [hfn] using hmem.2⟩
    · obtain ⟨hmem, hfn⟩ := hprogs p hp
      rw [State.resetFn_progs, List.mem_filter] at hmem
      exact ⟨hmem.1, by simpa [hfn] using hmem.2⟩
    · obtain ⟨hmem, hfn⟩ := hjobs j hj
      obtain ⟨hold, hne⟩ := State.resetFn_jobs_fn hmem
      exact ⟨hold, by simp [hfn, hne]⟩

/-- A command of another function stays, where no EVICT bears its identifier. -/
theorem State.functionReset_keepsCmd {s : State} {fn : Nat} {k : Cmd} (hk : k ∈ s.cmds) (hfn : k.fn ≠ fn)
    (hevict : ∀ e ∈ s.cmds, e.opcode = opEvict → e.id ≠ k.id) : k ∈ (s.resetFn fn).evictCheck.cmds := by
  rw [State.evictCheck_cmds, List.mem_filter]
  have hsub : ∀ e ∈ (s.resetFn fn).cmds, e ∈ s.cmds := fun e he => by
    rw [State.resetFn_cmds] at he
    exact (List.mem_filter.1 he).1
  refine ⟨by rw [State.resetFn_cmds]; exact List.mem_filter.2 ⟨hk, by simpa using hfn⟩, List.all_eq_true.2 fun e he => ?_⟩
  obtain ⟨hmem, hcond⟩ := List.mem_filter.1 he
  simp only [Bool.and_eq_true, beq_iff_eq] at hcond
  simpa using (hevict e (hsub e hmem) hcond.1.2).symm

theorem State.functionReset_cmds {s : State} {fn : Nat} {k : Cmd} (hk : k ∈ (s.resetFn fn).evictCheck.cmds) : k.fn ≠ fn := by
  rw [State.evictCheck_cmds] at hk
  have hreset := (List.mem_filter.1 hk).1
  rw [State.resetFn_cmds] at hreset
  simpa using (List.mem_filter.1 hreset).2

theorem State.functionReset_vf {fn : Nat} (hfn : fn < 128) (hvf : fn ≠ 0) (s : State) : s.functionReset fn = (s.resetFn fn).evictCheck := by
  rw [State.functionReset, if_neg hvf, if_pos hfn]

/-! ## BAR2 -/

/-- The master that a BAR2 access of a function comes from. -/
def bar2Master (fn : Nat) : Master := if fn = 0 then .pf else .vf fn

section
variable {s : State} {fn b n : Nat} (hfn : fn < 128) (h1 : 1 ≤ n) (h8 : n ≤ 8) (hb : b < 2 ^ 36)
include hfn h1 h8 hb

theorem State.bar2_denied_read (haddr : s.bar2Addr fn b n false = none) (m : Found) :
    s.bar2 fn b n ⟨none, m⟩ = (s.bar2Denied fn b n false).emit (.readData (bar2Master fn) b n (256 ^ n - 1)) := by
  rw [State.bar2, if_neg (by omega)]
  simp only [Option.isSome_none, haddr, bar2Master]

theorem State.bar2_denied_write (haddr : s.bar2Addr fn b n true = none) (v : Nat) (m : Found) :
    s.bar2 fn b n ⟨some v, m⟩ = s.bar2Denied fn b n true := by
  rw [State.bar2, if_neg (by omega)]
  simp only [Option.isSome_some, haddr]

theorem State.bar2_read {a : Nat} (haddr : s.bar2Addr fn b n false = some a) {m : Found}
    (hclean : (s.meets m [(a, n)]).poisoned a n = false) :
    s.bar2 fn b n ⟨none, m⟩ = (s.meets m [(a, n)]).emit (.readData (bar2Master fn) b n ((s.meets m [(a, n)]).load a n)) := by
  rw [State.bar2, if_neg (by omega)]
  simp only [Option.isSome_none, haddr, hclean, bar2Master, Bool.false_eq_true, if_false]

theorem State.bar2_read_poisoned {a : Nat} (haddr : s.bar2Addr fn b n false = some a) {m : Found}
    (hpoison : (s.meets m [(a, n)]).poisoned a n = true) : s.bar2 fn b n ⟨none, m⟩ =
      (((s.meets m [(a, n)]).emit (.aer 4)).emit (.poisoned fn b)).emit (.readData (bar2Master fn) b n (256 ^ n - 1)) := by
  rw [State.bar2, if_neg (by omega)]
  simp only [Option.isSome_none, haddr, hpoison, bar2Master, if_true]

theorem State.bar2_write {a : Nat} (haddr : s.bar2Addr fn b n true = some a) (v : Nat) (m : Found) : s.bar2 fn b n ⟨some v, m⟩ =
    if devRegion a == 0 && n == 8 && a % 8 == 0 then { s.store a n v with poison := s.poison.set false a false }
    else if (s.meets m [(a, n)]).poisoned a n then s.meets m [(a, n)] else (s.meets m [(a, n)]).store a n v := by
  rw [State.bar2, if_neg (by omega)]
  simp only [Option.isSome_some, haddr]

end

theorem State.bar2Denied_count (s : State) (fn b n : Nat) (write : Bool) :
    (s.bar2Denied fn b n write).rd .FN_STAT_BAR2_DENIED fn = s.countUp .FN_STAT_BAR2_DENIED 1 fn := by
  have hcount : (s.bump .FN_STAT_BAR2_DENIED 1 fn).rd .FN_STAT_BAR2_DENIED fn = s.countUp .FN_STAT_BAR2_DENIED 1 fn := State.rd_wr_same ..
  rw [State.bar2Denied]
  split
  · exact (State.rd_wr_field _ (by decide) ..).trans hcount
  · exact hcount

theorem State.bar2Denied_outbox (s : State) (fn b n : Nat) (write : Bool) : (s.bar2Denied fn b n write).outbox = s.outbox :=
  State.bar2Denied_same (g := .outbox) (by decide) (Same.refl _ s) ..

theorem State.bar2Denied_mem (s : State) (fn b n : Nat) (write : Bool) : (s.bar2Denied fn b n write).mem = s.mem := by
  rw [State.bar2Denied]
  split <;> rfl

/-- Settles O5: quotas and grants by `State.quotaWrite_reads` and `State.grantSet_bit`; a reset filters the lists
(`State.resetFn_cmds`, `State.resetFn_progs`, `State.resetFn_jobs_fn`), and a hot reset does so for every function; a BAR2 access is one
of the branches of `bar2`. -/
theorem functionsAndTenancy : Obligations.FunctionsAndTenancy := by
  intro s fn hfn
  refine ⟨?quota, ?grant, ?reset, ?hot, ?write, ?granule, ?read, ?poisoned, ?deniedRead, ?deniedWrite⟩
  case quota => exact fun k o ho h1 h6 hv hstandby => does_order rfl ho (State.quotaWrite_reads hfn h1 h6 hv hstandby)
  case grant =>
    intro m o ho hm hstandby
    refine does_order rfl ho ?_
    rw [State.grantWrite_taken hfn hm hstandby]
    exact ⟨s.grantSet_bit hm fn _, fun hset hclear j => State.grantSet_jobs hset hclear⟩
  case reset =>
    intro hvf
    refine ⟨_, rfl, ?_⟩
    rw [State.functionReset_vf hfn hvf]
    have hprogs : Same .progs (s.resetFn fn) (s.resetFn fn).evictCheck := State.evictCheck_same (by decide) (Same.refl _ _)
    have hjobs : Same .jobs (s.resetFn fn) (s.resetFn fn).evictCheck := State.evictCheck_same (by decide) (Same.refl _ _)
    exact ⟨fun k => State.functionReset_cmds, fun k => State.functionReset_keepsCmd, hprogs.trans (s.resetFn_progs fn),
      fun j hj => (State.resetFn_jobs_fn (hjobs ▸ hj)).2⟩
  case hot =>
    have hall : ∀ {f}, f ∉ allFns.reverse → 128 ≤ f := by simp [allFns]
    obtain ⟨hcmds, hprogs, hjobs⟩ := State.resetAll_lists allFns.reverse s
    exact ⟨_, rfl, fun k hk => hall (hcmds k hk).2, fun p hp => hall (hprogs p hp).2, fun j hj => hall (hjobs j hj).2⟩
  case write =>
    intro b n v a m h1 h8 hb haddr hclean
    refine ⟨_, rfl, ?_⟩
    rw [State.bar2_write hfn h1 h8 hb haddr]
    split
    · exact State.load_store ..
    · rw [if_neg (by simp [hclean])]
      exact State.load_store ..
  case granule =>
    intro b v a m hb haddr hregion halign
    refine ⟨_, rfl, ?_⟩
    rw [State.bar2_write hfn (by decide) (by decide) hb haddr, if_pos (by simp [hregion, halign])]
    exact ⟨State.load_store .., SMap.get_set_same false s.poison a false⟩
  case read =>
    intro b n a m h1 h8 hb haddr hclean
    refine ⟨_, rfl, ?_⟩
    rw [State.bar2_read hfn h1 h8 hb haddr hclean]
    rfl
  case poisoned =>
    intro b n a m h1 h8 hb haddr hpoison
    refine ⟨_, rfl, ?_⟩
    rw [State.bar2_read_poisoned hfn h1 h8 hb haddr hpoison]
    simp [State.emit, bar2Master]
  case deniedRead =>
    intro b n m h1 h8 hb haddr
    refine ⟨_, rfl, ?_⟩
    rw [State.bar2_denied_read hfn h1 h8 hb haddr]
    exact ⟨State.bar2Denied_count .., congrArg (· ++ _) (State.bar2Denied_outbox ..)⟩
  case deniedWrite =>
    intro b n v m h1 h8 hb haddr
    refine ⟨_, rfl, ?_⟩
    rw [State.bar2_denied_write hfn h1 h8 hb haddr]
    exact ⟨State.bar2Denied_count .., State.bar2Denied_mem ..⟩

end Sys2Proof.Machine
end

section
/-!
PROOFS. Shedding (R469, R470, R471, R472).
-/

namespace Sys2Proof.Machine

/-- Two states that differ in the duties of the dies' arrays at most. -/
def DutiesApart (s u : State) : Prop := u.part = s.part ∧ ∀ g, g ≠ .fld .DGA_DUTY_DUTY → Same g s u

theorem DutiesApart.refl (s : State) : DutiesApart s s := ⟨rfl, fun g _ => Same.refl g s⟩

theorem DutiesApart.rd {s u : State} (h : DutiesApart s u) {f : Field} (hf : f ≠ .DGA_DUTY_DUTY) (d i j : Nat) :
    u.rd f d i j = s.rd f d i j := h.2 (.fld f) (by simpa using hf) d i j

theorem DutiesApart.ax {s u : State} (h : DutiesApart s u) (x : Aux) (d i j : Nat) : u.ax x d i j = s.ax x d i j := h.2 (.aux x) nofun d i j

theorem DutiesApart.setDuty {s u : State} (h : DutiesApart s u) (d v : Nat) : DutiesApart s (u.setDuty d v) := by
  refine ⟨Eq.trans ?_ h.1, fun g hg => State.setDuty_same (by simpa [State.setDuty_w] using hg) (h.2 g hg) d v⟩
  unfold State.setDuty
  split <;> rfl

/-- The shed duty of a die does not turn on the duties. -/
theorem DutiesApart.shedDutyOf {s u : State} (h : DutiesApart s u) (d : Nat) : u.shedDutyOf d = s.shedDutyOf d := by
  have hbudget : u.pkgBudget = s.pkgBudget := by
    rw [State.pkgBudget, State.pkgBudget, State.rdb, State.rdb, h.rd (by decide), h.rd (f := .PWR_PKG_BUDGET_WATTS) (by decide),
      h.rd (f := .PWR_SHED_BUDGET_WATTS) (by decide)]
  have hdies : u.onlineDies = s.onlineDies := by
    simp only [State.onlineDies, State.dies, h.1]
    exact List.filter_congr fun d _ => by rw [State.online, State.online, h.1, h.rd (by decide)]
  have hrest : u.shedRest d = s.shedRest d := by
    rw [State.shedRest, State.shedRest, State.allowance, State.allowance, State.dieShare, State.dieShare, hbudget, hdies, h.1, h.ax,
      h.rd (f := .PWR_DIE_BUDGET) (by decide), h.rd (f := .PRG_STATUS_BUSY) (by decide)]
  rw [State.shedDutyOf, State.shedDutyOf, hrest, h.rd (by decide)]

theorem State.setDuty_rd {s : State} {d : Nat} (hfirmware : s.rdb .DGA_STATUS_EXPERT d = false) (v : Nat) :
    (s.setDuty d v).rd .DGA_DUTY_DUTY d = max 1 (min v 256) := by
  rw [State.setDuty, if_neg (by simp [hfirmware]), State.rd_wr_same]
  exact Nat.mod_eq_of_lt (Nat.lt_of_le_of_lt (max_le (by decide) (min_le_right v 256)) (by decide : 256 < 2 ^ Field.width .DGA_DUTY_DUTY))

theorem State.setDuty_rd_other {d e : Nat} (h : e ≠ d) (s : State) (v : Nat) : (s.setDuty e v).rd .DGA_DUTY_DUTY d = s.rd .DGA_DUTY_DUTY d := by
  unfold State.setDuty
  split
  · rfl
  · exact State.rd_wr_elem _ _ fun hsame => h hsame.1.symm

/-- The step of one die towards its shed duty. -/
def State.shedDutyTurn (s : State) (d : Nat) : State :=
  if s.rd .DGA_DUTY_DUTY d > s.shedDutyOf d then s.setDuty d (max (s.shedDutyOf d) (s.rd .DGA_DUTY_DUTY d - 32)) else s

theorem State.shedDutyStep_eq (s : State) : s.shedDutyStep = s.each s.onlineDies State.shedDutyTurn := rfl

theorem State.shedDutyTurn_rd_other {d e : Nat} (h : e ≠ d) (s : State) :
    (s.shedDutyTurn e).rd .DGA_DUTY_DUTY d = s.rd .DGA_DUTY_DUTY d := by
  unfold State.shedDutyTurn
  split
  · exact State.setDuty_rd_other h ..
  · rfl

theorem DutiesApart.shedDutyTurn {s u : State} (h : DutiesApart s u) (d : Nat) : DutiesApart s (u.shedDutyTurn d) := by
  unfold State.shedDutyTurn
  split
  · exact h.setDuty ..
  · exact h

theorem State.shedDutyStep_rd {s : State} {d : Nat} (honline : d ∈ s.onlineDies) (hfirmware : s.rdb .DGA_STATUS_EXPERT d = false)
    (habove : s.shedDutyOf d < s.rd .DGA_DUTY_DUTY d) :
    s.shedDutyStep.rd .DGA_DUTY_DUTY d = max 1 (min (max (s.shedDutyOf d) (s.rd .DGA_DUTY_DUTY d - 32)) 256) := by
  rw [State.shedDutyStep_eq]
  refine State.each_once (f := State.shedDutyTurn)
    (before := fun u => DutiesApart s u ∧ u.rd .DGA_DUTY_DUTY d = s.rd .DGA_DUTY_DUTY d)
    (after := fun u => u.rd .DGA_DUTY_DUTY d = max 1 (min (max (s.shedDutyOf d) (s.rd .DGA_DUTY_DUTY d - 32)) 256)) s.onlineDies_nodup honline
    ⟨DutiesApart.refl s, rfl⟩ ?_ ?_ ?_
  · exact fun u e hne hu => ⟨hu.1.shedDutyTurn e, (State.shedDutyTurn_rd_other hne u).trans hu.2⟩
  · rintro u ⟨hapart, hduty⟩
    have hfirmware' : u.rdb .DGA_STATUS_EXPERT d = false := by rw [State.rdb, hapart.rd (by decide)]; exact hfirmware
    rw [State.shedDutyTurn, hapart.shedDutyOf, hduty, if_pos habove]
    exact State.setDuty_rd hfirmware' _
  · exact fun u e hne hu => (State.shedDutyTurn_rd_other hne u).trans hu

/-! ## The rise and the fall -/

theorem State.keepShedOld_throttle (s : State) :
    s.keepShedOld.ax .shedOldThrottle = if s.ax .shedSteps = 0 then s.rd .YOK_THROTTLE_TICKS else s.ax .shedOldThrottle := by
  unfold State.keepShedOld
  by_cases h : s.ax .shedSteps = 0
  · rw [if_neg (by simp [h]), if_pos h]
    have hkept : Same (.aux .shedOldThrottle) (s.setAx .shedOldThrottle (s.rd .YOK_THROTTLE_TICKS))
        ((s.setAx .shedOldThrottle (s.rd .YOK_THROTTLE_TICKS)).each s.onlineDies (fun s d => s.setAx .shedOldDuty (s.rd .DGA_DUTY_DUTY d) d)) :=
      State.each_same (Same.refl _ _) _ _ fun u d hu => setAx_same (by decide) hu _ _ _ _
    exact (hkept 0 0 0).trans (State.ax_setAx_same ..)
  · rw [if_pos h, if_neg h]
    exact setAx_same (g := .aux .shedOldThrottle) (by decide) (Same.refl _ _) _ _ _ _ 0 0 0

/-- PWR_SHED has risen: the registers of the shed stand, and the throttle of before is kept. -/
def State.shedBegun (s : State) : State :=
  ((((((s.wr .PWR_STAT_SHED_IN 1).wr .PWR_STAT_SHED_MET 0).setAx .shedAt (s.now + 1)).setAx .shedMissed 0).setAx .shedLong 0).keepShedOld)

theorem State.shedAssert_begun {g : Piece} {s : State} (hlow : s.rdb .PWR_STAT_SHED_IN = false) (hevent : State.shedOnEvent_w g = false)
    (hthrottle : State.setThrottle_w g = false) (hduty : State.shedDutyStep_w g = false) : Same g s.shedBegun s.shedAssert := by
  rw [State.shedAssert, if_neg (by simp [hlow])]
  exact State.shedDutyStep_same hduty (State.setThrottle_same hthrottle (State.shedOnEvent_same hevent (Same.refl _ _)) _)

theorem State.shedBegun_rd (s : State) :
    s.shedBegun.rd .PWR_STAT_SHED_IN = 1 ∧ s.shedBegun.rd .PWR_STAT_SHED_MET = 0 := by
  rw [State.shedBegun, rd_of_same (State.keepShedOld_same (g := .fld .PWR_STAT_SHED_IN) (by decide) (Same.refl _ _)),
    rd_of_same (State.keepShedOld_same (g := .fld .PWR_STAT_SHED_MET) (by decide) (Same.refl _ _))]
  simp only [State.rd_setAx, State.rd_wr_same, State.rd_wr_field _ (show Field.PWR_STAT_SHED_IN ≠ .PWR_STAT_SHED_MET by decide)]
  exact ⟨rfl, rfl⟩

theorem State.shedBegun_throttle (s : State) :
    s.shedBegun.ax .shedOldThrottle = if s.ax .shedSteps = 0 then s.rd .YOK_THROTTLE_TICKS else s.ax .shedOldThrottle := by
  rw [State.shedBegun, State.keepShedOld_throttle]
  simp [State.ax_setAx, State.rd_wr]

theorem State.shedRestore_last {s : State} (hlast : s.ax .shedSteps = 1) (hlow : s.rdb .PWR_STAT_SHED_IN = false)
    (hfirmware : s.rdb .YOK_STATUS_EXPERT = false) :
    s.shedRestore.ax .shedSteps = 0 ∧ s.shedRestore.rd .YOK_THROTTLE_TICKS = min (s.ax .shedOldThrottle) 65535 := by
  rw [State.shedRestore]
  simp only [hlast, hlow, Bool.false_eq_true, or_false, Nat.one_ne_zero, if_false, if_true]
  refine ⟨State.ax_setAx_same .., ?_⟩
  refine (rd_of_same (f := .YOK_THROTTLE_TICKS) (s := s.setThrottle (s.ax .shedOldThrottle)) ?_ 0 0 0).trans ?_
  · exact setAx_same (by decide) (State.each_same (Same.refl _ _) _ _ fun u d hu => State.setDuty_same (by decide) hu _ _) _ _ _ _
  · rw [State.setThrottle, if_neg (by simp [hfirmware]), State.rd_wr_same]
    exact Nat.mod_eq_of_lt (Nat.lt_of_le_of_lt (min_le_right _ _) (by decide : 65535 < 2 ^ Field.width .YOK_THROTTLE_TICKS))

/-- Settles O25: a duty step takes each online die once, and its aim does not turn on the duties (`DutiesApart.shedDutyOf`); the rise
stores its registers first (`State.shedBegun`), which the event and the first steps leave. -/
theorem powerShedding : Obligations.PowerShedding := by
  intro s
  refine ⟨?rise, ?step, ?fall, ?restored, ?met, ?missed, ?long⟩
  case rise =>
    intro hlow
    obtain ⟨hin, hmet⟩ := s.shedBegun_rd
    refine ⟨_, rfl, ?_, ?_, ?_⟩
    · exact (State.shedAssert_begun (g := .fld .PWR_STAT_SHED_IN) hlow (by decide) (by decide) (by decide) 0 0 0).trans hin
    · exact (State.shedAssert_begun (g := .fld .PWR_STAT_SHED_MET) hlow (by decide) (by decide) (by decide) 0 0 0).trans hmet
    · exact (State.shedAssert_begun (g := .aux .shedOldThrottle) hlow (by decide) (by decide) (by decide) 0 0 0).trans
        s.shedBegun_throttle
  case step =>
    intro d hfirst honline hfirmware habove
    have hd : d ∈ s.onlineDies := by
      have hdie := honline
      rw [State.online, Bool.and_eq_true, decide_eq_true_eq] at hdie
      exact List.mem_filter.2 ⟨List.mem_range.2 hdie.1, honline⟩
    refine ⟨_, rfl, ?_⟩
    rw [State.when, if_pos hfirst]
    exact (State.shedDutyStep_rd hd hfirmware habove).trans (congrArg (max 1) (min_comm _ _))
  case fall =>
    intro hhigh
    refine ⟨_, rfl, ?_⟩
    rw [State.shedRelease, if_neg (by simp [hhigh])]
    exact ⟨(State.rd_event _ _ _ _ _ (by decide) ..).trans ((State.rd_setAx ..).trans (State.rd_wr_same ..)), (State.ax_event ..).trans (State.ax_setAx_same ..)⟩
  case restored => exact fun hlast hlow hfirmware => ⟨_, rfl, State.shedRestore_last hlast hlow hfirmware⟩
  case met =>
    intro mean hhigh hwithin
    refine ⟨_, rfl, ?_⟩
    rw [State.shedWindow, if_neg (by simp [hhigh]), if_pos hwithin]
    exact State.rd_wr_same ..
  case missed =>
    intro mean hhigh hover
    refine ⟨_, rfl, ?_⟩
    rw [State.shedWindow, if_neg (by simp [hhigh]), if_neg (Nat.not_le.2 hover)]
    dsimp only
    split
    · rename_i hmissed
      exact ⟨State.rd_wr_same .., hmissed⟩
    · exact ⟨(State.rd_event _ _ _ _ _ (by decide) ..).trans ((State.rd_setAx ..).trans (State.rd_wr_same ..)), (State.ax_event ..).trans (State.ax_setAx_same ..)⟩
  case long =>
    intro hhigh hadvise hlong hdue
    refine ⟨_, rfl, ?_⟩
    rw [State.shedAdvise]
    dsimp only
    rw [if_pos (by simp [hhigh, hadvise, hlong, hdue])]
    exact (State.ax_event ..).trans (State.ax_setAx_same ..)

end Sys2Proof.Machine
end

section
/-!
PROOFS. The start-up, its failures, and minimal mode's retry (R426, R479, R480, R482, R483).
-/

namespace Sys2Proof.Machine

/-! ## Bits -/

/-- Setting a bit clears no other. -/
theorem bit_setBit_true {w j : Nat} (h : bit w j = true) (i : Nat) : bit (setBit w i true) j = true := by
  obtain rfl | hne := eq_or_ne j i
  · exact bit_setBit_self w j
  rw [bit] at h ⊢
  rw [setBit_true, Nat.mul_comm, Nat.testBit_two_pow_mul_add _ (Nat.mod_lt _ (Nat.two_pow_pos i))]
  split
  case isTrue hlt => rw [Nat.testBit_mod_two_pow, h, decide_eq_true hlt, Bool.and_true]
  case isFalse hge =>
    obtain ⟨k, rfl⟩ : ∃ k, j = i + (k + 1) := ⟨j - i - 1, by omega⟩
    have hhalf : ∀ q : Nat, (q - q % 2 + 1) / 2 = q / 2 := fun q => by omega
    rw [Nat.add_sub_cancel_left, ← Nat.testBit_div_two, hhalf, Nat.testBit_div_two, Nat.testBit_div_two_pow]
    rwa [Nat.add_comm] at h

theorem bit_mod_two_pow_of_lt {i n : Nat} (hi : i < n) (w : Nat) : bit (w % 2 ^ n) i = bit w i := by
  rw [bit, bit, Nat.testBit_mod_two_pow, decide_eq_true hi, Bool.true_and]

theorem State.stepDone_markStep (s : State) (k : Nat) : (s.markStep k).stepDone k = true := by
  rw [State.stepDone, State.markStep, State.ax_wr, State.ax_setAx_same]
  exact bit_setBit_self ..

theorem State.stepDone_setAx {x : Aux} (hx : x ≠ .startMask) (s : State) (v k : Nat) : (s.setAx x v).stepDone k = s.stepDone k := by
  rw [State.stepDone, State.ax_setAx, if_neg (fun h => hx h.1.symm), State.stepDone]

theorem State.rd_markStep {f : Field} (hf : f ≠ .START_REPORT_STEP) (s : State) (k d i j : Nat) : (s.markStep k).rd f d i j = s.rd f d i j := by
  rw [State.markStep, State.rd_wr_field _ hf, State.rd_setAx]

/-! ## A step that may run -/

section
variable {s : State} {k : Nat} (hretry : s.ax .retryAt = 0) (hstart : s.rd .START_REPORT_STATE = 0) (hperst : s.ax .perst = 0)
  (hdone : s.stepDone k = false) (hneeds : (stepNeeds k).all s.stepDone = true)
include hretry hstart hperst hdone hneeds

/-- A step between 2 and 11 whose turn it is does what its number says. -/
theorem exec_startUpStepDone (hk2 : 2 ≤ k) (hk11 : k ≤ 11) (x : StepInfo) : exec (.startUpStepDone k x) s = .next
    (if k = 2 then s.step2 else if k = 4 then s.step4 x else if k = 5 then s.step5 x else if k = 6 then s.step6 x
      else if k = 7 then s.step7 x else if k = 8 then s.step8 x else if k = 9 then s.step9 x else if k = 11 then s.step11
      else s.markStep k) := by
  have hidle : s.retryDue = s := if_neg (by simp [hretry])
  refine congrArg Host.Outcome.next ((congrArg (State.startStep · k x) hidle).trans (if_neg ?_))
  rintro (h | h | h | h | h | h)
  · exact h hstart
  · simp [hperst] at h
  · omega
  · omega
  · simp [hdone] at h
  · simp [hneeds] at h

end

/-! ## The steps -/

theorem State.step2_crystal {s : State} (hready : s.rdb .CLK_STAT_XTAL_READY = true) :
    s.step2.stepDone 2 = true ∧ s.step2.rd .CLK_STAT_MGMT_ON_RC = 0 := by
  rw [State.step2, if_pos hready]
  refine ⟨State.stepDone_markStep .., ?_⟩
  rw [State.rd_markStep (by decide)]
  exact State.rd_wr_same ..

theorem State.step5_verified {s : State} {x : StepInfo} (hok : x.ok = true) :
    (s.step5 x).stepDone 5 = true ∧ (s.step5 x).rd .START_REPORT_FW_SLOT = if s.ax .fwForce = 1 ∨ x.fw ≠ 0 then 1 else 0 := by
  rw [State.step5, if_neg (by simp [hok])]
  refine ⟨State.stepDone_markStep .., (State.rd_markStep (by decide) ..).trans ?_⟩
  have hslot : ∀ u : State, Same (.fld .START_REPORT_FW_SLOT) u (if (!(s.ax .fwForce == 1) && x.fw != 0) = true then
      (u.setAx .fwFell x.fw).event 0x82 0xFF sevWarning x.fw else u.setAx .fwFell 0) := fun u =>
    same_ite (State.event_same (by decide) (setAx_same (by decide) (Same.refl _ u) _ _ _ _) _ _ _ _)
      (setAx_same (by decide) (Same.refl _ u) _ _ _ _)
  refine (rd_of_same (hslot _) 0 0 0).trans ((State.rd_wr_same ..).trans ?_)
  by_cases hforced : s.ax .fwForce = 1 <;> by_cases hfell : x.fw = 0 <;> simp [hforced, hfell, b2n, show Field.width .START_REPORT_FW_SLOT = 2 from rfl]

theorem State.lockDie_keeps {u : State} {d p : Nat} (hp : p < 5) (h : bit (u.rd .CLK_LOCK_LOCK 0 d) p = true) (q e : Nat) :
    bit ((u.wr .CLK_LOCK_LOCK (setBit (u.rd .CLK_LOCK_LOCK 0 e) q true) 0 e).rd .CLK_LOCK_LOCK 0 d) p = true := by
  rw [State.rd_wr]
  split
  · rename_i hsame
    rw [← hsame.2.2.1]
    exact (bit_mod_two_pow_of_lt hp _).trans (bit_setBit_true h q)
  · exact h

theorem State.setLock_bit {s : State} {d : Nat} (hd : d ∈ s.dies) {p : Nat} (hp : p < 5) :
    bit ((s.setLock p true).rd .CLK_LOCK_LOCK 0 d) p = true := by
  refine State.each_of_mem (P := fun u => bit (u.rd .CLK_LOCK_LOCK 0 d) p = true) hd (fun u => ?_) fun u e hu => State.lockDie_keeps hp hu p e
  rw [State.rd_wr_same]
  exact (bit_mod_two_pow_of_lt hp _).trans (bit_setBit_self ..)

theorem State.setLock_keeps_bit {s : State} {d p : Nat} (hp : p < 5) (h : bit (s.rd .CLK_LOCK_LOCK 0 d) p = true) (q : Nat) :
    bit ((s.setLock q true).rd .CLK_LOCK_LOCK 0 d) p = true :=
  State.each_induction (P := fun u => bit (u.rd .CLK_LOCK_LOCK 0 d) p = true) _ h fun _ e hu => State.lockDie_keeps hp hu q e

theorem State.setLock_part (s : State) (p : Nat) (b : Bool) : (s.setLock p b).part = s.part :=
  (State.setLock_keeps (.refl s) p b).1

/-- Every PLL is locked on every die. -/
theorem State.lockAll_bit {s : State} {d p : Nat} (hd : d < s.part.dies) (hp : p < 5) :
    bit (((s.each (List.range 5) (fun s p => (s.setAx .relock 0 0 p).setLock p true))).rd .CLK_LOCK_LOCK 0 d) p = true := by
  refine State.each_once (x := p) (before := fun u => u.part = s.part) (after := fun u => bit (u.rd .CLK_LOCK_LOCK 0 d) p = true)
    List.nodup_range (List.mem_range.2 hp) rfl (fun u q _ hu => (State.setLock_part ..).trans hu) (fun u hu => ?_)
    fun u q _ hu => State.setLock_keeps_bit (s := u.setAx .relock 0 0 q) hp hu q
  exact State.setLock_bit (s := u.setAx .relock 0 0 p) (List.mem_range.2 (show d < u.part.dies from hu ▸ hd)) hp

/-- The PLLs are set, and mgmt_clk runs on the crystal. -/
def State.pllsSet (s : State) : State :=
  let m := memDividers (s.rd .MEM_CFG_RATE s.head)
  let s := ((s.wr .CLK_PLL_FBDIV m.1 0 4).wr .CLK_PLL_REFDIV m.2.1 0 4).wr .CLK_PLL_POSTDIV m.2.2 0 4
  (s.wr .CLK_STAT_MGMT_ON_RC 0).wr .CLK_DTCTRL_HOLDOVER 0

theorem State.step6_eq {s : State} {x : StepInfo} (hok : x.ok = true) (hready : s.rdb .CLK_STAT_XTAL_READY = true) :
    s.step6 x = ((s.pllsSet.each (List.range 5) (fun s p => (s.setAx .relock 0 0 p).setLock p true)).markStep 6).setAx .pllsOnce 1 := by
  rw [State.step6, if_neg (by simp [hok, hready])]
  rfl

theorem State.step6_locks {s : State} {x : StepInfo} (hok : x.ok = true) (hready : s.rdb .CLK_STAT_XTAL_READY = true) :
    (s.step6 x).stepDone 6 = true ∧ ∀ p, p < 5 → ∀ d, d < s.part.dies → bit ((s.step6 x).rd .CLK_LOCK_LOCK 0 d) p = true := by
  rw [State.step6_eq hok hready]
  refine ⟨(State.stepDone_setAx (by decide) ..).trans (State.stepDone_markStep ..), fun p hp d hd => ?_⟩
  rw [State.rd_setAx, State.rd_markStep (by decide)]
  exact State.lockAll_bit (s := s.pllsSet) hd hp

/-- A die whose channels are all trained and up. -/
def State.trained (s : State) (d : Nat) : Prop := s.rd .MEM_STAT_TRAINED d = 15 ∧ ∀ h, h < 4 → s.rd .MEM_CH_STATE d h = 1

/-- The channels of a die after training. -/
def State.trainChannels (s : State) (d : Nat) : State :=
  s.each (List.range 4) (fun s ch => ((s.wr .MEM_CH_STATE 1 d ch).wr .MEM_CH_FAILS 0 d ch).wr .MEM_CH_RANKS s.part.ranks d ch)

theorem State.channelTrained_state (u : State) (d ch e h : Nat) :
    (((u.wr .MEM_CH_STATE 1 d ch).wr .MEM_CH_FAILS 0 d ch).wr .MEM_CH_RANKS u.part.ranks d ch).rd .MEM_CH_STATE e h =
      if e = d ∧ h = ch then 1 else u.rd .MEM_CH_STATE e h := by
  rw [State.rd_wr_field _ (by decide), State.rd_wr_field _ (by decide), State.rd_wr]
  simp
  rfl

theorem State.trainChannels_up (s : State) {h : Nat} (hh : h < 4) (d : Nat) : (s.trainChannels d).rd .MEM_CH_STATE d h = 1 := by
  refine State.each_of_mem (x := h) (P := fun u => u.rd .MEM_CH_STATE d h = 1) (List.mem_range.2 hh) (fun u => ?_) fun u ch hu => ?_
  · exact (State.channelTrained_state ..).trans (if_pos ⟨rfl, rfl⟩)
  · exact (State.channelTrained_state ..).trans (by rw [hu, ite_self])

theorem State.trainChannels_keeps {s : State} {e h : Nat} (hup : s.rd .MEM_CH_STATE e h = 1) (d : Nat) :
    (s.trainChannels d).rd .MEM_CH_STATE e h = 1 :=
  State.each_induction (P := fun u => u.rd .MEM_CH_STATE e h = 1) _ hup fun u ch hu =>
    (State.channelTrained_state ..).trans (by rw [hu, ite_self])

/-- What training shows of a die, apart from its channels, does not touch their states. -/
theorem State.trainDie_state (s : State) (d e h : Nat) :
    (s.trainDie d).rd .MEM_CH_STATE e h = ((((s.setAx .memInForce (1 + s.rd .MEM_CFG_IECC d * 8 + s.rd .MEM_CFG_LECC d * 4 +
      s.rd .MEM_CFG_RATE d) d).wr .MEM_STAT_IECC_ON (s.rd .MEM_CFG_IECC d) d).wr .MEM_STAT_TRAINED 0xF d).trainChannels d).rd .MEM_CH_STATE e h := by
  simp (disch := decide) only [State.trainDie, State.rd_wr_field]
  rfl

theorem State.trainDie_trained (s : State) (d e : Nat) :
    (s.trainDie d).rd .MEM_STAT_TRAINED e = if e = d then 15 else s.rd .MEM_STAT_TRAINED e := by
  have hchannels : ∀ u : State, (u.trainChannels d).rd .MEM_STAT_TRAINED e = u.rd .MEM_STAT_TRAINED e := fun u =>
    rd_of_same (State.each_same (Same.refl (.fld .MEM_STAT_TRAINED) u) _ _ fun v ch hv =>
      wr_same (by decide) (wr_same (by decide) (wr_same (by decide) hv _ _ _ _) _ _ _ _) _ _ _ _) e 0 0
  simp (disch := decide) only [State.trainDie, State.rd_wr_field]
  refine (hchannels _).trans ?_
  rw [State.rd_wr, State.rd_wr_field _ (by decide), State.rd_setAx]
  simp
  rfl

theorem State.trainDie_self (s : State) (d : Nat) : (s.trainDie d).trained d :=
  ⟨by rw [State.trainDie_trained, if_pos rfl], fun h hh => by rw [State.trainDie_state]; exact State.trainChannels_up _ hh d⟩

theorem State.trained.trainDie {s : State} {e : Nat} (h : s.trained e) (d : Nat) : (s.trainDie d).trained e := by
  obtain ⟨htrained, hup⟩ := h
  refine ⟨by rw [State.trainDie_trained, htrained, ite_self], fun c hc => ?_⟩
  rw [State.trainDie_state]
  refine State.trainChannels_keeps ?_ d
  simp (disch := decide) only [State.rd_wr_field, State.rd_setAx]
  exact hup c hc

theorem State.step7_trains {s : State} {x : StepInfo} (hok : x.ok = true) :
    (s.step7 x).stepDone 7 = true ∧ ∀ d, d < s.part.dies → (s.step7 x).trained d := by
  rw [State.step7, if_pos hok]
  refine ⟨State.stepDone_markStep .., fun d hd => ?_⟩
  have hall : (s.each s.dies State.trainDie).trained d :=
    State.each_of_mem (P := fun u => u.trained d) (List.mem_range.2 hd) (fun u => u.trainDie_self d) fun u e hu => hu.trainDie e
  exact ⟨(State.rd_markStep (by decide) ..).trans hall.1, fun h hh => (State.rd_markStep (by decide) ..).trans (hall.2 h hh)⟩

/-! ## Failures -/

/-- A failed start shows its reason, and the steps from the third on are to be done again. -/
theorem State.startFail_reads (s : State) (reason : Nat) :
    (s.startFail reason).rd .START_REPORT_LAST = reason % 2 ^ 8 ∧ (s.startFail reason).rd .START_REPORT_STEP = 2 ∧
      (s.startFail reason).ax .startMask = 6 ∧ (s.startFail reason).ax .nvLast = reason := by
  let t := (s.setAx .nvLast reason).wr .START_REPORT_LAST reason
  have hgates : ∀ {f : Field}, f ∉ Reg.CLK_GATE.fields → f ∉ Reg.CLK_SG.fields →
      (s.startFail reason).rd f = ((t.restartFrom3.setAx .retryAt 0).setAx .coldPower 0).rd f := fun hgate hsg =>
    State.each_eq (view := fun u => u.rd _) (fun u d => by rw [State.rd_resetReg_of_notMem hsg, State.rd_resetReg_of_notMem hgate]) _ _
  have haux : ∀ {x : Aux}, (s.startFail reason).ax x = ((t.restartFrom3.setAx .retryAt 0).setAx .coldPower 0).ax x := fun {x} =>
    State.each_same (g := .aux x) (Same.refl _ _) _ _ (fun u d hu => State.resetReg_same rfl (State.resetReg_same rfl hu _ _ _) _ _ _) 0 0 0
  rw [hgates (by decide) (by decide), hgates (by decide) (by decide), haux, haux]
  simp [t, State.restartFrom3, State.rd_wr, State.ax_setAx, show Field.width .START_REPORT_LAST = 8 from rfl,
    show Field.width .START_REPORT_STEP = 4 from rfl]

theorem State.startFail_undone (s : State) (reason : Nat) {k : Nat} (hk : bit 6 k = false) : (s.startFail reason).stepDone k = false := by
  rw [State.stepDone, (s.startFail_reads reason).2.2.1, hk]

theorem State.startRoundOf_free {g : Piece} (hg : g ∈ [Piece.fld .START_REPORT_STATE, .fld .START_REPORT_FAILS, .aux .startMask, .aux .nvFails])
    (s : State) (l : List Nat) : Same g s (s.capUpdate.readyEvent.each l State.startRoundOf) := by
  have hw : ∀ g ∈ [Piece.fld .START_REPORT_STATE, .fld .START_REPORT_FAILS, .aux .startMask, .aux .nvFails],
    State.capUpdate_w g = false ∧ State.readyEvent_w g = false ∧ State.startRoundOf_w g = false := by decide
  obtain ⟨hcap, hevent, hround⟩ := hw g hg
  exact State.each_same (State.readyEvent_same hevent (State.capUpdate_same hcap (Same.refl g s))) _ _
    fun u d hu => State.startRoundOf_same hround hu d

/-- Fabric ready, before the capacity, the record and the start-up rounds follow. -/
def State.startEnded (s : State) : State :=
  let s := (s.markStep 11).wr .START_REPORT_STATE 1
  let s := s.wr .START_TIME_MS (min ((s.now + 1 - s.ax .startAt) / 1000000) 0xFFFFFFFF)
  (((s.setAx .readyFails (s.ax .nvFails - 1)).setAx .nvFails 0).wr .START_REPORT_FAILS 0).setAx .readyAt (s.now + 1)

theorem State.step11_eq (s : State) :
    s.step11 = s.startEnded.capUpdate.readyEvent.each s.startEnded.capUpdate.readyEvent.onlineDies State.startRoundOf := rfl

theorem State.startEnded_reads (s : State) : s.startEnded.stepDone 11 = true ∧ s.startEnded.rd .START_REPORT_STATE = 1 ∧
    s.startEnded.ax .nvFails = 0 ∧ s.startEnded.rd .START_REPORT_FAILS = 0 := by
  refine ⟨?_, ?_, ?_, ?_⟩
  · simp [State.startEnded, State.stepDone, State.markStep, State.ax_setAx, bit_setBit_self]
  · simp (disch := decide) only [State.startEnded, State.rd_setAx, State.rd_wr_field, State.rd_wr_same]
    rfl
  · simp [State.startEnded, State.ax_setAx]
  · simp (disch := decide) only [State.startEnded, State.rd_setAx, State.rd_wr_same]
    rfl

theorem State.step11_reads (s : State) :
    s.step11.stepDone 11 = true ∧ s.step11.rd .START_REPORT_STATE = 1 ∧ s.step11.ax .nvFails = 0 ∧ s.step11.rd .START_REPORT_FAILS = 0 := by
  obtain ⟨hdone, hstate, hfails, hreport⟩ := s.startEnded_reads
  rw [s.step11_eq]
  refine ⟨(congrArg (bit · 11) (State.startRoundOf_free (g := .aux .startMask) (by decide) s.startEnded _ 0 0 0)).trans hdone, ?_, ?_, ?_⟩
  · exact (State.startRoundOf_free (g := .fld .START_REPORT_STATE) (by decide) s.startEnded _ 0 0 0).trans hstate
  · exact (State.startRoundOf_free (g := .aux .nvFails) (by decide) s.startEnded _ 0 0 0).trans hfails
  · exact (State.startRoundOf_free (g := .fld .START_REPORT_FAILS) (by decide) s.startEnded _ 0 0 0).trans hreport

/-! ## START_RETRY -/

/-- What START_RETRY resets before it completes. -/
def State.retryReset (s : State) (c : Cmd) : State :=
  let s := (s.setAx .nvFails 0).wr .START_REPORT_FAILS 0
  let s := s.when (s.ax .startLost == 1) (fun s => (s.setAx .startLost 0).each s.dies (fun s d => s.setAx .nvMem 0 d))
  s.when (bit (c.b 16 1) 0) (fun s => s.setAx .fwForce 1)

theorem State.startRetry_minimal {s : State} {c : Cmd} (hminimal : s.rd .START_REPORT_STATE = 2) :
    s.startRetry c = ((s.retryReset c).completeCmd c stOK 0).setAx .retryAt ((s.retryReset c).now + 1) := by
  rw [State.startRetry, if_neg (by simp [hminimal])]
  rfl

theorem State.retryReset_same {g : Piece} (hfails : (g == .fld .START_REPORT_FAILS) = false) (haux : ∀ x, g ≠ .aux x) (s : State) (c : Cmd) :
    Same g s (s.retryReset c) := by
  have hset : ∀ x, (g == .aux x) = false := fun x => by simpa using haux x
  refine State.when_same (State.when_same (wr_same hfails (setAx_same (hset _) (Same.refl g s) _ _ _ _) _ _ _ _) _ _ fun u hu => ?_) _ _
    fun u hu => setAx_same (hset _) hu _ _ _ _
  exact State.each_same (setAx_same (hset _) hu _ _ _ _) _ _ fun v d hv => setAx_same (hset _) hv _ _ _ _

theorem State.retryReset_nvFails (s : State) (c : Cmd) : (s.retryReset c).ax .nvFails = 0 := by
  have hzero : Same (.aux .nvFails) ((s.setAx .nvFails 0).wr .START_REPORT_FAILS 0) (s.retryReset c) := by
    refine State.when_same (State.when_same (Same.refl _ _) _ _ fun u hu => ?_) _ _ fun u hu => setAx_same (by decide) hu _ _ _ _
    exact State.each_same (setAx_same (by decide) hu _ _ _ _) _ _ fun v d hv => setAx_same (by decide) hv _ _ _ _
  exact (hzero 0 0 0).trans (State.ax_setAx_same s .nvFails 0 0 0 0)

/-! ## The watchdog -/

/-- The loss of a die writes its cause, and what follows of it leaves the causes. -/
theorem State.dieLost_same_cause {s : State} {d : Nat} (hon : s.online d = true) (cause : Nat) :
    Same (.fld .FLT_DIE_CAUSE) (s.markedOffline d cause) (s.dieLost d cause) := by
  rw [State.dieLost, if_neg (by simp [hon])]
  refine State.recheckWaiting_same rfl (State.event_same rfl (State.capUpdate_same rfl ?quotas) ..)
  refine State.each_same (same_mk_allocs rfl (State.each_same (State.dropCopiesOn_same rfl (State.fabricOffline_same rfl
    (State.evictHomed_same rfl (same_mk_dmas rfl (State.each_same (State.each_same ?head _ _ ?slots) _ _ ?jobs) _) _) _) _) _ _ ?banks) _)
    _ _ ?recheck
  case head => exact same_ite (State.moveHead_same rfl (.refl _ _)) (.refl _ _)
  case slots => exact fun _ _ h => setAx_same rfl h _ _ _ _
  case jobs => exact fun _ _ h => same_ite (State.loseJob_same rfl h _) (State.faultJob_same rfl h _ _)
  case banks => exact fun _ _ h => State.banksMove_same rfl h _ _ _ _ _
  case recheck => exact fun _ _ h => State.quotaRecheck_same rfl h _

theorem State.dieLost_cause {s : State} {d : Nat} (hon : s.online d = true) (cause e : Nat) :
    (s.dieLost d cause).rd .FLT_DIE_CAUSE 0 e = if e = d then cause % 8 else s.rd .FLT_DIE_CAUSE 0 e := by
  refine (State.dieLost_same_cause hon cause 0 e 0).trans ?_
  rw [State.markedOffline, State.rd_wr, State.rd_wr_field _ (by decide), State.rd_wr_field _ (by decide)]
  simp
  rfl

/-- The loss of other dies leaves the cause of a die that is offline. -/
theorem State.dieOffline_cause {s : State} {d : Nat} (hon : s.online d = true) (cause : Nat) :
    (s.dieOffline d cause).rd .FLT_DIE_CAUSE 0 d = cause % 8 := by
  refine (State.each_induction (P := fun u => u.online d = false ∧ u.rd .FLT_DIE_CAUSE 0 d = cause % 8) _ ?_ fun u e hu => ?_).2
  · exact ⟨State.dieLost_offline .., (State.dieLost_cause hon ..).trans (if_pos rfl)⟩
  · obtain ⟨hoff, hcause⟩ := hu
    refine ⟨State.dieLost_keeps_offline hoff e 1, ?_⟩
    cases he : u.online e
    case false => rwa [State.dieLost_of_offline he]
    case true =>
      have hne : d ≠ e := by
        rintro rfl
        simp [hoff] at he
      rw [State.dieLost_cause he, if_neg hne, hcause]

/-- Settles O46: a step whose turn it is runs (`exec_startUpStepDone`) and marks itself done last; a failed start is
`State.startFail_reads`; the loss of a die writes its cause once (`State.dieOffline_cause`). -/
theorem startUp : Obligations.StartUp := by
  intro s
  refine ⟨?power, ?two, ?plain, ?five, ?six, ?seven, ?trainingFails, ?eleven, ?timeout, ?retry, ?retryRefused, ?watchdog, ?watchdogStart⟩
  case power =>
    intro hmask hstate hsave
    refine does_guarded rfl ⟨hmask, hstate, hsave⟩ ⟨?_, ?_, State.ax_setAx_same ..⟩
    · exact (State.stepDone_setAx (by decide) ..).trans ((State.stepDone_setAx (by decide) ..).trans (State.stepDone_markStep s 1))
    · exact setAx_same (g := .aux .startAt) (by decide) (Same.refl _ _) _ _ _ _ 0 0 0 |>.trans (State.ax_setAx_same ..)
  case two =>
    intro i hretry hstart hperst hdone hneeds hready
    exact ⟨_, exec_startUpStepDone hretry hstart hperst hdone hneeds (by decide) (by decide) i, State.step2_crystal hready⟩
  case plain =>
    rintro k i (rfl | rfl) hretry hstart hperst hdone hneeds
    all_goals exact ⟨_, exec_startUpStepDone hretry hstart hperst hdone hneeds (by decide) (by decide) i, State.stepDone_markStep ..⟩
  case five =>
    intro i hretry hstart hperst hdone hneeds hok
    exact ⟨_, exec_startUpStepDone hretry hstart hperst hdone hneeds (by decide) (by decide) i, State.step5_verified hok⟩
  case six =>
    intro i hretry hstart hperst hdone hneeds hok hready
    exact ⟨_, exec_startUpStepDone hretry hstart hperst hdone hneeds (by decide) (by decide) i, State.step6_locks hok hready⟩
  case seven =>
    intro i hretry hstart hperst hdone hneeds hok
    exact ⟨_, exec_startUpStepDone hretry hstart hperst hdone hneeds (by decide) (by decide) i, State.step7_trains hok⟩
  case trainingFails =>
    intro i hretry hstart hperst hdone hneeds hfails
    obtain ⟨hlast, hstep, -, -⟩ := s.startFail_reads 2
    refine ⟨_, exec_startUpStepDone hretry hstart hperst hdone hneeds (by decide) (by decide) i, ?_⟩
    have hseven : s.step7 i = s.startFail 2 := if_neg (by simp [hfails])
    exact ⟨hseven ▸ hlast, hseven ▸ hstep, hseven ▸ State.startFail_undone s 2 (by decide)⟩
  case eleven =>
    intro i hretry hstart hperst hdone hneeds
    exact ⟨_, exec_startUpStepDone hretry hstart hperst hdone hneeds (by decide) (by decide) i, s.step11_reads⟩
  case timeout =>
    intro hstarted hstate hlate
    obtain ⟨hlast, hstep, -, hnv⟩ := s.startFail_reads 7
    exact does_guarded rfl ⟨hstarted, hstate, hlate⟩ ⟨hlast, hstep, hnv⟩
  case retry =>
    intro id c hready hminimal
    refine does_command rfl hready ?_
    rw [State.startRetry_minimal hminimal]
    have hdt : (s.retryReset (s.started c)).dt = s.dt := State.retryReset_same (g := .dt) (by decide) nofun s _
    refine ⟨State.completeCmd_completed_of_same (fun g hg => ?_) _ stOK 0, ?_, ?_⟩
    · have hfree : ∀ g ∈ completionReads, (g == .fld .START_REPORT_FAILS) = false ∧ ∀ x, g ≠ .aux x := by
        simp [completionReads]
      exact State.retryReset_same (hfree g hg).1 (hfree g hg).2 s _
    · rw [State.ax_setAx, if_neg (by decide), State.ax_completeCmd _ _ _ _ _ _ (by decide)]
      exact State.retryReset_nvFails ..
    · rw [State.ax_setAx_same, State.now, hdt, State.now]
  case retryRefused =>
    intro id c hready hstate
    refine does_command rfl hready ?_
    rw [State.startRetry, if_pos hstate]
    exact State.completeCmd_completed_self ..
  case watchdog =>
    intro d hstate hon
    refine ⟨_, congrArg Host.Outcome.next ((if_neg fun h => hstate h.1).trans (if_pos hon)), ?_⟩
    exact ⟨State.dieOffline_offline .., State.dieOffline_cause hon 4⟩
  case watchdogStart =>
    intro d hstate hpower
    exact ⟨_, congrArg Host.Outcome.next (if_pos ⟨hstate, hpower⟩), (s.startFail_reads 7).1⟩

end Sys2Proof.Machine
end

section
/-!
PROOFS. Queue pairs (R391, R392, R393, R394, R395).
-/

namespace Sys2Proof.Machine

/-! ## QP_CFG.ENABLE = 1 -/

/-- The pair that an entry of a function is to be bound to. -/
def State.pairFor (s : State) (fn e : Nat) : Option Nat :=
  if fn = 0 then (if (s.qp e).isNone then some e else none) else findLow 4096 (fun q => (s.qp q).isNone)

/-- The registers of an entry that has been enabled, and its pair. -/
def State.qpOpened (s : State) (fn e sq cq q : Nat) : State :=
  (((((((((((s.setQp q (some ⟨fn, e, 0, 0, 0, none⟩)).wr .QP_CFG_ENABLE 1 fn e).wr .QP_CFG_FUNC fn fn e).wr .QP_CFG_WINDOW
    (if fn = 0 then 0 else e) fn e).wr .QP_CFG_SQLOG2 sq fn e).wr .QP_CFG_CQLOG2 cq fn e).wr .QP_SQTAIL_INDEX 0 fn e).wr .QP_CQHEAD_INDEX 0
    fn e).wr .QP_STAT_SQHEAD 0 fn e).wr .QP_STAT_ERROR 0 fn e).wr .QP_STAT_STATE 1 fn e)

theorem State.qpOpened_qp (s : State) (fn e sq cq q : Nat) : (s.qpOpened fn e sq cq q).qp q = some ⟨fn, e, 0, 0, 0, none⟩ := by
  simp only [State.qpOpened, State.qp_wr]
  exact State.qp_setQp_same ..

/-- What an enabled entry shows. -/
structure QpShown (x : State) (fn e sq cq : Nat) : Prop where
  state : x.rd .QP_STAT_STATE fn e = 1
  enable : x.rd .QP_CFG_ENABLE fn e = 1
  sqLog2 : x.rd .QP_CFG_SQLOG2 fn e = sq
  cqLog2 : x.rd .QP_CFG_CQLOG2 fn e = cq
  head : x.rd .QP_STAT_SQHEAD fn e = 0
  tail : x.rd .QP_SQTAIL_INDEX fn e = 0
  cqHead : x.rd .QP_CQHEAD_INDEX fn e = 0
  error : x.rd .QP_STAT_ERROR fn e = 0

theorem State.qpOpened_shown {sq cq : Nat} (hsq : sq < 16) (hcq : cq < 16) (s : State) (fn e q : Nat) :
    QpShown (s.qpOpened fn e sq cq q) fn e sq cq := by
  constructor
  case sqLog2 =>
    simp (disch := decide) only [State.qpOpened, State.rd_wr_field, State.rd_wr_same]
    exact Nat.mod_eq_of_lt hsq
  case cqLog2 =>
    simp (disch := decide) only [State.qpOpened, State.rd_wr_field, State.rd_wr_same]
    exact Nat.mod_eq_of_lt hcq
  all_goals
    simp (disch := decide) only [State.qpOpened, State.rd_wr_field, State.rd_wr_same]
    rfl

/-- The registers of a pair that a message to the standby leaves alone. -/
theorem QpShown.sendPointers {x : State} {fn e sq cq : Nat} (h : QpShown x fn e sq cq) (q : Nat) : QpShown (x.sendPointers q) fn e sq cq := by
  have hrd : ∀ f : Field, (x.sendPointers q).rd f fn e = x.rd f fn e := fun f =>
    rd_of_same (State.sendPointers_same (g := .fld f) rfl (Same.refl _ x) q) fn e 0
  obtain ⟨hstate, henable, hsq, hcq, hhead, htail, hcqHead, herror⟩ := h
  constructor <;> rw [hrd] <;> assumption

section
variable {s : State} {fn e sq cq : Nat} (he : e < entryCount fn) (hforeign : s.foreignEntry fn e = false)
  (hstandby : s.standby fn = false) (hfree : s.rd .QP_STAT_STATE fn e = 0) (hsq4 : 4 ≤ sq) (hsq12 : sq ≤ 12) (hcq4 : 4 ≤ cq) (hcq12 : cq ≤ 12)
  {q : Nat} (hpair : s.pairFor fn e = some q)
include he hforeign hstandby hfree hsq4 hsq12 hcq4 hcq12 hpair

theorem State.qpEnable_opens (hquota : s.held fn resQP < s.quota fn resQP) :
    s.qpEnable fn e sq cq = (s.qpOpened fn e sq cq q).sendPointers q := by
  rw [State.qpEnable, if_neg (by omega), if_neg (by simp [hforeign]), if_neg (by simp [hstandby]), if_neg (by omega)]
  change (match s.pairFor fn e with | some q => _ | none => _) = _
  rw [hpair]
  exact if_neg (by omega)

theorem State.qpEnable_overQuota (hquota : s.quota fn resQP ≤ s.held fn resQP) :
    s.qpEnable fn e sq cq = (s.fnRefused fn).wr .QP_STAT_CODE stRejectedQuota fn e := by
  rw [State.qpEnable, if_neg (by omega), if_neg (by simp [hforeign]), if_neg (by simp [hstandby]), if_neg (by omega)]
  change (match s.pairFor fn e with | some q => _ | none => _) = _
  rw [hpair]
  exact if_pos (by omega)

end

/-! ## QP_CFG.ENABLE = 0 -/

theorem State.qpAbort_cmds {s : State} {q st : Nat} {k : Cmd} (hk : k ∈ (s.qpAbort q st).cmds) (hq : k.q = q) : k.st = .running := by
  let cs := s.cmds.filter (fun c => c.q == q && c.st != .running)
  let t := s.each cs (fun s c => s.completeCmd c st 0)
  have hcmds : (s.qpAbort q st).cmds = s.cmds.filter (fun k => cs.all (fun c => k.id != c.id)) :=
    (State.each_same (g := .cmds) (Same.refl _ t) _ _ fun u j hu => State.endJob_same (by decide) hu j.id st).trans
      (State.each_filter (list := State.cmds) (keep := fun (c k : Cmd) => k.id != c.id) (fun u c => State.completeCmd_cmds ..) s cs)
  rw [hcmds, List.mem_filter, List.all_eq_true] at hk
  obtain ⟨hmem, hids⟩ := hk
  by_contra hst
  simpa using hids k (List.mem_filter.2 ⟨hmem, by simp [hq, hst]⟩)

theorem State.qpAbort_jobs {s : State} {q st : Nat} {j : Job} (hj : j ∈ (s.qpAbort q st).jobs) (hq : j.q = q) : j.st = .ackWait := by
  let t := s.each (s.cmds.filter (fun c => c.q == q && c.st != .running)) (fun s c => s.completeCmd c st 0)
  let js := t.jobs.filter (fun j => j.q == q && j.st != .ackWait)
  have hjobs : (s.qpAbort q st).jobs = t.jobs.filter (fun k => js.all (fun j => k.id != j.id)) :=
    State.each_filter (list := State.jobs) (keep := fun (j k : Job) => k.id != j.id) (fun u j => u.endJob_jobs j.id st) t js
  rw [hjobs, List.mem_filter, List.all_eq_true] at hj
  obtain ⟨hmem, hids⟩ := hj
  by_contra hst
  simpa using hids j (List.mem_filter.2 ⟨hmem, by simp [hq, hst]⟩)

theorem State.qpAbort_rd {f : Field} (hf : State.qpAbort_w (.fld f) = false) (s : State) (q st d i : Nat) :
    (s.qpAbort q st).rd f d i = s.rd f d i :=
  rd_of_same (State.qpAbort_same hf (Same.refl _ s) q st) d i 0

theorem State.qpDisable_drains {s : State} {fn e q : Nat} (hforeign : s.foreignEntry fn e = false) (hpair : s.pairOf fn e = some q)
    (hactive : s.rd .QP_STAT_STATE fn e = 1) (st : Nat) :
    s.qpDisable fn e st = ((s.wr .QP_CFG_ENABLE 0 fn e).wr .QP_STAT_STATE 2 fn e).qpAbort q st := by
  rw [State.qpDisable, if_neg (by simp [hforeign]), hpair]
  exact if_neg (by omega)

theorem State.qpDisable_foreign {s : State} {fn e : Nat} (hforeign : s.foreignEntry fn e = true) (st : Nat) :
    s.qpDisable fn e st = s.fnRefused 0 := if_pos hforeign

/-! ## The end of a drain -/

/-- A pair's function, entry and EVICT: what its counts leave alone. -/
def QpSt.binding (p : QpSt) : Nat × Nat × Option Nat := (p.fn, p.entry, p.evict)

theorem State.qp_setQp (s : State) (q r : Nat) (v : Option QpSt) : (s.setQp r v).qp q = if q = r then v else s.qp q := by
  split
  case isTrue h => rw [h, State.qp_setQp_same]
  case isFalse h => exact State.qp_setQp_other s h v

/-- A completion binds no pair and frees none. -/
theorem State.complete_binding (s : State) (q r cid : Nat) (ev : Bool) (vec job st fl res lat cause rst : Nat) (slot : Option Nat) :
    ((s.complete r cid ev vec job st fl res lat cause rst slot).qp q).map QpSt.binding = (s.qp q).map QpSt.binding := by
  have hset : ∀ (u : State) (p : QpSt) (n m : Nat), u.qp r = some p →
      ((u.setQp r (some { p with completed := n, outstanding := m })).qp q).map QpSt.binding = (u.qp q).map QpSt.binding :=
    fun u p n m hp => by
      rw [State.qp_setQp]
      split
      case isTrue h => rw [h, hp, Option.map_some, Option.map_some, QpSt.binding, QpSt.binding]
      case isFalse => rfl
  have hstore : ∀ k w : Nat, (s.store k 16 w).qp = s.qp := fun k w => by
    funext r
    simp only [State.qp, State.store_qps]
  unfold State.complete
  split
  · rfl
  · rename_i p hp
    split
    · exact hset s p p.completed _ hp
    · dsimp only
      rw [State.sendPointers_qp]
      split
      · rw [State.qp_of_same (State.post_same (g := .qps) (by decide) (Same.refl _ _) ..), hset _ p _ _ ((congrFun (hstore _ _) r).trans hp),
          hstore]
      · rw [hset _ p _ _ ((congrFun (hstore _ _) r).trans hp), hstore]

theorem State.complete_qp_none {s : State} {q : Nat} (hfree : s.qp q = none) (r cid : Nat) (ev : Bool) (vec job st fl res lat cause rst : Nat)
    (slot : Option Nat) : (s.complete r cid ev vec job st fl res lat cause rst slot).qp q = none := by
  have hbinding := s.complete_binding q r cid ev vec job st fl res lat cause rst slot
  rwa [hfree, Option.map_none, Option.map_eq_none_iff] at hbinding

theorem State.completeCmd_qp_none {s : State} {q : Nat} (hfree : s.qp q = none) (c : Cmd) (st res fl lat : Nat) :
    (s.completeCmd c st res fl lat).qp q = none :=
  State.complete_qp_none (s := { s with cmds := s.cmds.filter (fun c' => c'.id != c.id) }) hfree ..

theorem State.evictCheck_qp_none {s : State} {q : Nat} (hfree : s.qp q = none) : s.evictCheck.qp q = none := by
  refine State.each_induction (P := fun u => u.qp q = none) _ hfree fun u c hu => State.completeCmd_qp_none ?_ ..
  rw [State.qp, State.tenancy_qps]
  exact hu

theorem State.qpDrained_frees {s : State} {q : Nat} {p : QpSt} (hqp : s.qp q = some p) (hdone : p.outstanding = 0)
    (hdrains : s.rd .QP_STAT_STATE p.fn p.entry = 2) : (s.qpDrained q).qp q = none ∧
      (s.qpDrained q).rd .QP_STAT_STATE p.fn p.entry = 0 ∧ (s.qpDrained q).rd .QP_CFG_FUNC p.fn p.entry = 0 := by
  let t := (((s.setQp q none).wr .QP_STAT_STATE 0 p.fn p.entry).wr .QP_CFG_FUNC 0 p.fn p.entry).wr .QP_CFG_WINDOW 0 p.fn p.entry
  have hdrained : s.qpDrained q = t.quotaRecheck p.fn := by
    rw [State.qpDrained, hqp]
    exact if_pos ⟨hdone, hdrains⟩
  rw [hdrained]
  refine ⟨?_, ?_, ?_⟩
  · rw [State.qp_of_same (State.quotaRecheck_same (g := .qps) (by decide) (Same.refl _ t) _)]
    exact State.qp_setQp_same s q none
  · rw [rd_of_same (State.quotaRecheck_same (g := .fld .QP_STAT_STATE) (by decide) (Same.refl _ t) _)]
    simp (disch := decide) only [t, State.rd_wr_field, State.rd_wr_same]
    rfl
  · rw [rd_of_same (State.quotaRecheck_same (g := .fld .QP_CFG_FUNC) (by decide) (Same.refl _ t) _)]
    simp (disch := decide) only [t, State.rd_wr_field, State.rd_wr_same]
    rfl

/-! ## The doorbells -/

theorem doorbell_alone {o : Order} (ho : Alone o) (own n : Nat) : doorbell o own n = o.w := by
  rw [doorbell, furthest, show o.rivals = [] from ho, List.foldl_nil]

theorem exec_qpSqtailWrite {s : State} {o : Order} (ho : Alone o) (e : Nat) :
    exec (.qpSqtailWrite e o) s = .next (s.sqTail (ownFn o.w.by') e o.w.v) := by
  change Host.Outcome.next (s.sqTail _ e (doorbell o _ _).v) = _
  rw [doorbell_alone ho]

theorem exec_qpCqheadWrite {s : State} {o : Order} (ho : Alone o) (e : Nat) :
    exec (.qpCqheadWrite e o) s = .next (s.cqHead (ownFn o.w.by') e o.w.v) := by
  change Host.Outcome.next (s.cqHead _ e (doorbell o _ _).v) = _
  rw [doorbell_alone ho]

section
variable {s : State} {fn e v : Nat} (hstandby : s.standby fn = false) (hactive : s.rd .QP_STAT_STATE fn e = 1)
include hstandby hactive

theorem State.sqTail_outside (hv : 2 ^ s.rd .QP_CFG_SQLOG2 fn e ≤ v) : s.sqTail fn e v = s.qpError fn e 1 := by
  rw [State.sqTail, if_neg (by simp [hstandby]), if_neg (by simp [hactive])]
  exact if_pos hv

theorem State.sqTail_behind (hv : v < 2 ^ s.rd .QP_CFG_SQLOG2 fn e)
    (hbehind : (v + 2 ^ s.rd .QP_CFG_SQLOG2 fn e - s.rd .QP_STAT_SQHEAD fn e) % 2 ^ s.rd .QP_CFG_SQLOG2 fn e <
      (s.rd .QP_SQTAIL_INDEX fn e + 2 ^ s.rd .QP_CFG_SQLOG2 fn e - s.rd .QP_STAT_SQHEAD fn e) % 2 ^ s.rd .QP_CFG_SQLOG2 fn e) :
    s.sqTail fn e v = s.qpError fn e 3 := by
  rw [State.sqTail, if_neg (by simp [hstandby]), if_neg (by simp [hactive])]
  exact (if_neg (Nat.not_le.2 hv)).trans (if_pos hbehind)

theorem State.sqTail_taken (hv : v < 2 ^ s.rd .QP_CFG_SQLOG2 fn e)
    (hpast : (s.rd .QP_SQTAIL_INDEX fn e + 2 ^ s.rd .QP_CFG_SQLOG2 fn e - s.rd .QP_STAT_SQHEAD fn e) % 2 ^ s.rd .QP_CFG_SQLOG2 fn e ≤
      (v + 2 ^ s.rd .QP_CFG_SQLOG2 fn e - s.rd .QP_STAT_SQHEAD fn e) % 2 ^ s.rd .QP_CFG_SQLOG2 fn e) :
    s.sqTail fn e v = (s.wr .QP_SQTAIL_INDEX v fn e).each (s.pairOf fn e).toList State.sendPointers := by
  rw [State.sqTail, if_neg (by simp [hstandby]), if_neg (by simp [hactive])]
  exact (if_neg (Nat.not_le.2 hv)).trans (if_neg (Nat.not_lt.2 hpast))

theorem State.cqHead_taken {q : Nat} (hpair : s.pairOf fn e = some q) (hv : v < 2 ^ s.rd .QP_CFG_CQLOG2 fn e)
    (hread : (v + 2 ^ s.rd .QP_CFG_CQLOG2 fn e - s.rd .QP_CQHEAD_INDEX fn e) % 2 ^ s.rd .QP_CFG_CQLOG2 fn e ≤ s.unread q) :
    s.cqHead fn e v = (s.wr .QP_CQHEAD_INDEX v fn e).sendPointers q := by
  rw [State.cqHead, if_neg (by simp [hstandby]), if_neg (by simp [hactive]), hpair]
  exact if_neg (by omega)

end

/-- Messages with the pointers of pairs change no register. -/
theorem State.sendAllPointers_rd (s : State) (l : List Nat) (f : Field) (d i j : Nat) : (s.each l State.sendPointers).rd f d i j = s.rd f d i j :=
  State.each_same (g := .fld f) (Same.refl _ s) l _ (fun _ q hu => State.sendPointers_same rfl hu q) d i j

theorem State.qpError_rd {f : Field} (hf : State.qpError_w (.fld f) = false) (s : State) (fn e code d i : Nat) :
    (s.qpError fn e code).rd f d i = s.rd f d i :=
  rd_of_same (State.qpError_same hf (Same.refl _ s) fn e code) d i 0

/-- Settles O1: an entry that is enabled is `State.qpOpened`; a pair that drains loses its commands and jobs by `State.qpAbort_cmds` and
`State.qpAbort_jobs`; a pair that has drained is free, and no completion of an EVICT binds it again (`State.evictCheck_qp_none`). -/
theorem queuePairRegisters : Obligations.QueuePairRegisters := by
  rintro s fn e o ho rfl hstandby
  refine ⟨?enablePf, ?enableVf, ?overQuota, ?disable, ?foreign, ?drained, ?tail, ?outside, ?behind, ?head⟩
  case enablePf =>
    intro hpf hfree he hdisabled hsq4 hsq12 hcq4 hcq12 hquota
    have hforeign : s.foreignEntry (ownFn o.w.by') e = false := by simp [State.foreignEntry, hfree]
    have hpair : s.pairFor (ownFn o.w.by') e = some e := by simp [State.pairFor, hpf, hfree]
    refine does_order rfl ho ?_
    rw [State.qpEnable_opens he hforeign hstandby hdisabled hsq4 hsq12 hcq4 hcq12 hpair hquota]
    obtain ⟨hstate, henable, hsq, hcq, hhead, htail, hcqHead, herror⟩ :=
      (s.qpOpened_shown (by omega) (by omega) (ownFn o.w.by') e e : QpShown _ _ _ (o.w.v / 16 % 16) (o.w.v % 16)).sendPointers e
    exact ⟨hstate, henable, hsq, hcq, hhead, htail, hcqHead, herror, (State.sendPointers_qp ..).trans (State.qpOpened_qp ..)⟩
  case enableVf =>
    intro q hvf hlow he hdisabled hsq4 hsq12 hcq4 hcq12 hquota
    have hforeign : s.foreignEntry (ownFn o.w.by') e = false := by simp [State.foreignEntry, Nat.pos_iff_ne_zero.1 hvf]
    have hpair : s.pairFor (ownFn o.w.by') e = some q := by simp [State.pairFor, Nat.pos_iff_ne_zero.1 hvf, hlow]
    refine does_order rfl ho ?_
    rw [State.qpEnable_opens he hforeign hstandby hdisabled hsq4 hsq12 hcq4 hcq12 hpair hquota]
    obtain ⟨hstate, henable, hsq, hcq, hhead, htail, hcqHead, herror⟩ :=
      (s.qpOpened_shown (by omega) (by omega) (ownFn o.w.by') e q : QpShown _ _ _ (o.w.v / 16 % 16) (o.w.v % 16)).sendPointers q
    exact ⟨hstate, henable, hsq, hcq, hhead, htail, hcqHead, herror, (State.sendPointers_qp ..).trans (State.qpOpened_qp ..)⟩
  case overQuota =>
    intro hpf hfree he hdisabled hsq4 hsq12 hcq4 hcq12 hquota
    have hforeign : s.foreignEntry (ownFn o.w.by') e = false := by simp [State.foreignEntry, hfree]
    have hpair : s.pairFor (ownFn o.w.by') e = some e := by simp [State.pairFor, hpf, hfree]
    refine does_order rfl ho ?_
    rw [State.qpEnable_overQuota he hforeign hstandby hdisabled hsq4 hsq12 hcq4 hcq12 hpair hquota]
    refine ⟨?_, State.rd_wr_same .., ?_, rfl⟩
    · rw [State.rd_wr_field _ (by decide), State.fnRefused, State.rd_wr_field _ (by decide), hdisabled]
    · exact (State.rd_wr_field _ (by decide) ..).trans (State.rd_wr_same ..)
  case disable =>
    intro q hforeign hpair hactive
    refine does_order rfl ho ?_
    rw [State.qpDisable_drains hforeign hpair hactive]
    refine ⟨?_, ?_, fun k => State.qpAbort_cmds, fun j => State.qpAbort_jobs⟩
    · exact (State.qpAbort_rd (by decide) ..).trans (State.rd_wr_same ..)
    · exact (State.qpAbort_rd (by decide) ..).trans ((State.rd_wr_field _ (by decide) ..).trans (State.rd_wr_same ..))
  case foreign =>
    intro hforeign
    refine does_order rfl ho ?_
    rw [State.qpDisable_foreign hforeign]
    exact ⟨State.rd_wr_same .., rfl, State.rd_wr_field _ (by decide) ..⟩
  case drained =>
    intro q p hqp hdone hdrains
    obtain ⟨hfree, hstate, hfunc⟩ := State.qpDrained_frees hqp hdone hdrains
    refine ⟨_, rfl, State.evictCheck_qp_none hfree, ?_, ?_⟩
    · exact (rd_of_same (State.evictCheck_same (g := .fld .QP_STAT_STATE) (by decide) (Same.refl _ _)) ..).trans hstate
    · exact (rd_of_same (State.evictCheck_same (g := .fld .QP_CFG_FUNC) (by decide) (Same.refl _ _)) ..).trans hfunc
  case tail =>
    intro hactive hv hwidth hpast
    refine ⟨_, exec_qpSqtailWrite ho e, ?_⟩
    rw [State.sqTail_taken hstandby hactive hv hpast]
    refine ⟨?_, ?_⟩
    · rw [State.sendAllPointers_rd, State.rd_wr_same]
      exact Nat.mod_eq_of_lt hwidth
    · rw [State.sendAllPointers_rd, State.rd_wr_field _ (by decide), hactive]
  case outside =>
    intro hactive hv
    refine ⟨_, exec_qpSqtailWrite ho e, ?_⟩
    rw [State.sqTail_outside hstandby hactive hv]
    exact ⟨State.qpError_rd (by decide) .., State.qpError_state .., State.qpError_error ..⟩
  case behind =>
    intro hactive hv hbehind
    refine ⟨_, exec_qpSqtailWrite ho e, ?_⟩
    rw [State.sqTail_behind hstandby hactive hv hbehind]
    exact ⟨State.qpError_rd (by decide) .., State.qpError_state .., State.qpError_error ..⟩
  case head =>
    intro q hpair hactive hv hwidth hread
    refine ⟨_, exec_qpCqheadWrite ho e, ?_⟩
    rw [State.cqHead_taken hstandby hactive hpair hv hread]
    have hrd : ∀ f : Field, ((s.wr .QP_CQHEAD_INDEX o.w.v (ownFn o.w.by') e).sendPointers q).rd f (ownFn o.w.by') e =
        (s.wr .QP_CQHEAD_INDEX o.w.v (ownFn o.w.by') e).rd f (ownFn o.w.by') e := fun f =>
      rd_of_same (State.sendPointers_same (g := .fld f) rfl (Same.refl _ _) q) _ e 0
    refine ⟨?_, ?_⟩
    · rw [hrd, State.rd_wr_same]
      exact Nat.mod_eq_of_lt hwidth
    · rw [hrd, State.rd_wr_field _ (by decide), hactive]

end Sys2Proof.Machine
end

section
/-!
PROOFS. The management chain: power, the bypass switch, and addressing (R503, R504, R505, R506, R507, R508, R509).
-/

namespace Sys2Proof.Machine

/-! ## The token line -/

theorem State.tokenOut_rd {f : Field} (hf : f ≠ .CHN_STAT_CHAIN_OUT) (s : State) : s.tokenOut.rd f = s.rd f :=
  State.rd_wr_field _ hf ..

theorem State.tokenOut_ax (s : State) (x : Aux) : s.tokenOut.ax x = s.ax x := rfl

theorem State.token_rd {f : Field} (hout : f ≠ .CHN_STAT_CHAIN_OUT) (hin : f ≠ .CHN_STAT_CHAIN_IN) (s : State) (b : Bool) :
    (s.token b).rd f = s.rd f :=
  (State.tokenOut_rd hout _).trans (State.rd_wr_field _ hin ..)

theorem State.token_rdb {f : Field} (hout : f ≠ .CHN_STAT_CHAIN_OUT) (hin : f ≠ .CHN_STAT_CHAIN_IN) (s : State) (b : Bool) :
    (s.token b).rdb f = s.rdb f := by
  rw [State.rdb, State.token_rd hout hin, State.rdb]

theorem State.token_answers (s : State) (x : ChainTx) (b : Bool) : (s.token b).answers x = s.answers x := by
  rw [State.answers, State.token_rdb (by decide) (by decide), State.token_rd (by decide) (by decide)]
  rfl

theorem State.token_answersNew (s : State) (x : ChainTx) (b : Bool) : (s.token b).answersNew x = s.answersNew x := by
  rw [State.answersNew, State.token_rdb (by decide) (by decide)]
  rfl

theorem State.token_pecWrong (s : State) (x : ChainTx) (b : Bool) (cmd : Nat) (args : List Byte) :
    (s.token b).pecWrong x cmd args = s.pecWrong x cmd args := by
  rw [State.pecWrong, State.token_rdb (by decide) (by decide), State.pecWrong]

/-! ## Transactions -/

theorem State.chainWrite_carried {s : State} {x : ChainTx} {cmd : Nat} {args : List Byte} (hanswers : s.answers x = true)
    (hpec : s.pecWrong x cmd args = false) (f : State → State) : s.chainWrite x cmd args f = f (s.token x.tokenIn) := by
  simp only [State.chainWrite, State.token_answers, State.token_pecWrong, hanswers, hpec, Bool.not_true, Bool.false_eq_true, if_false]

theorem State.chainWrite_discarded {s : State} {x : ChainTx} {cmd : Nat} {args : List Byte} (hanswers : s.answers x = true)
    (hpec : s.pecWrong x cmd args = true) (f : State → State) : s.chainWrite x cmd args f = (s.token x.tokenIn).pecError := by
  simp only [State.chainWrite, State.token_answers, State.token_pecWrong, hanswers, hpec, Bool.not_true, Bool.false_eq_true, if_false, if_true]

theorem State.chainRead_answered {s : State} {x : ChainTx} (hanswers : s.answers x = true) (f : State → State) :
    s.chainRead x f = f (s.token x.tokenIn) := by
  simp only [State.chainRead, State.token_answers, hanswers, if_true]

theorem State.pecError_count (s : State) : s.pecError.rd .CHN_STAT_PEC_ERR = s.countUp .CHN_STAT_PEC_ERR := by
  have hcount : (s.nack.bump .CHN_STAT_PEC_ERR).rd .CHN_STAT_PEC_ERR = s.countUp .CHN_STAT_PEC_ERR := State.rd_wr_same ..
  rw [State.pecError]
  split
  · exact (State.rd_event _ _ _ _ _ (by decide) ..).trans hcount
  · exact hcount

theorem State.assign_taken {s : State} {x : ChainTx} {v : Nat} (hnew : s.answersNew x = true) (h8 : 8 ≤ v) (h67 : v ≤ 0x67)
    (hpec : s.pecWrong x 2 (leBytes 1 v) = false) : s.assign x v =
      (((((s.token x.tokenIn).wr .CHN_CFG_VALID 1).wr .CHN_CFG_ADDR v).tokenOut).event 0xA4 0xFF sevInfo v).leave stOK := by
  have hrange : ¬((!s.answersNew x) = true ∨ v < 0x08 ∨ v > 0x67) := by
    simp only [hnew, Bool.not_true, Bool.false_eq_true, false_or]
    omega
  simp only [State.assign, State.token_answersNew, if_neg hrange, State.token_pecWrong, hpec, Bool.false_eq_true, if_false]

theorem State.assign_outside {s : State} {v : Nat} (hv : v < 8 ∨ 0x67 < v) (x : ChainTx) : s.assign x v = (s.token x.tokenIn).nack := by
  rw [State.assign]
  exact if_pos (.inr hv)

theorem State.leave_status (s : State) (st : Nat) : (s.leave st).ax .chainStatus = st := State.ax_setAx_same s .chainStatus st 0 0 0

theorem State.nack_rd (s : State) (f : Field) : s.nack.rd f = s.rd f := rfl

theorem State.leave_rd (s : State) (st : Nat) (f : Field) : (s.leave st).rd f = s.rd f := rfl

theorem State.leave_ax {x : Aux} (hx : x ≠ .chainStatus) (s : State) (st : Nat) : (s.leave st).ax x = s.ax x := by
  rw [State.leave, State.ax_setAx, if_neg fun h => hx h.1]

/-- The switch after the supervisor has closed it, for a cause. -/
def State.switchClosed (s : State) (cause : Nat) : State := ((s.setAx .bypassed cause).wr .CHN_STAT_BYPASS 1).tokenOut

theorem State.switchClosed_bypass {g : Piece} (hg : State.event_w g = false) (s : State) (cause : Nat) :
    Same g (s.switchClosed cause) (s.bypass cause) := by
  rw [State.bypass]
  exact State.when_same (Same.refl _ (s.switchClosed cause)) _ _ fun u hu => State.event_same hg hu _ _ _ _

theorem State.bypass_reads (s : State) (cause : Nat) :
    (s.bypass cause).rd .CHN_STAT_BYPASS = 1 ∧ (s.bypass cause).ax .bypassed = cause := by
  rw [rd_of_same (s.switchClosed_bypass (g := .fld .CHN_STAT_BYPASS) (by decide) cause), s.switchClosed_bypass (g := .aux .bypassed) (by decide) cause 0 0 0,
    State.switchClosed, State.tokenOut_rd (by decide), State.tokenOut_ax, State.rd_wr_same, State.ax_wr, State.ax_setAx_same]
  exact ⟨rfl, rfl⟩

/-! ## Power -/

/-- The part after its cold reset, with the wear counts gone. -/
def State.wearForgotten (s : State) : State :=
  { s.coldReset true with aux := (s.coldReset true).aux.filter (fun e => e.1.unpair.1 != Aux.ctorIdx .wear) }

/-- The scalars of the chain logic, as power-on leaves them. -/
def State.chainForgotten (s : State) : State :=
  ((((s.setAx .bypassed 0).setAx .chainBeat 0).setAx .chainStatus 0).setAx .energyRest 0).setAx .pllsOnce 0

/-- The life counts start from 0 until the start-up loads them. -/
def State.lifeCleared (s : State) : State :=
  s.each [Field.PKT_LIFE_POH_HOURS, .PKT_LIFE_CYCLES_COUNT, .PKT_LIFE_ENERGY_JOULES, .PKT_LIFE_STITCHES_COUNT] (fun s f => s.wr f 0)

theorem State.aonGood_eq (s : State) :
    s.aonGood = (s.wearForgotten.chainForgotten.lifeCleared.wr .CHN_STAT_BYPASS 1).tokenOut := rfl

theorem State.chainForgotten_bypassed (s : State) : s.chainForgotten.ax .bypassed = 0 := by
  simp [State.chainForgotten, State.ax_setAx]

theorem State.lifeCleared_hours (s : State) : s.lifeCleared.rd .PKT_LIFE_POH_HOURS = 0 := by
  simp (disch := decide) only [State.lifeCleared, State.each_cons, State.each_nil, State.rd_wr_field, State.rd_wr_same]
  rfl

/-- The fields that outlive a cold reset, as numbers. -/
def coldFieldIds (power : Bool) : List Nat :=
  (coldFields.filter (fun f => !power || !(f == .CLK_STAT_XTAL_READY || f == .CLK_STAT_RC_READY || f == .CLK_STAT_REFCLK_READY))).map
    Field.ctorIdx

/-- What a cold reset leaves of a register field's element. -/
def coldField (power : Bool) (e : Nat × Nat) : Option (Nat × Nat) :=
  if e.1.unpair.1 = Field.ctorIdx .TIL_STATUS_STATE then coldState e
  else if (coldFieldIds power).contains e.1.unpair.1 then some e else none

/-- A cold reset keeps of the fields and scalars what outlives it, and the Pocket; a shed that stands begins anew. -/
theorem State.coldReset_cases (s : State) (power : Bool) : ∃ t : State,
    (t.part = s.part ∧ t.jobs = [] ∧ t.pocket = s.pocket ∧ t.fld = s.fld.filterMap (coldField power) ∧
      t.aux = s.aux.filter (fun e => (coldAux.map Aux.ctorIdx).contains e.1.unpair.1)) ∧
    (s.coldReset power = t.setAx .shedAt 1 ∨ s.coldReset power = t) := by
  refine ⟨_, ?_, ite_eq_or_eq _ _ _⟩
  exact ⟨rfl, rfl, rfl, rfl, rfl⟩

theorem State.lifeCleared_jobs (s : State) : s.lifeCleared.jobs = s.jobs := by
  simp only [State.lifeCleared, State.each_cons, State.each_nil, State.wr_jobs]

theorem State.lifeCleared_ax (s : State) (x : Aux) (d i j : Nat) : s.lifeCleared.ax x d i j = s.ax x d i j := by
  simp only [State.lifeCleared, State.each_cons, State.each_nil, State.ax_wr]

theorem State.coldReset_jobs (s : State) (power : Bool) : (s.coldReset power).jobs = [] := by
  obtain ⟨t, ⟨-, hjobs, -⟩, h | h⟩ := s.coldReset_cases power <;> rw [h]
  · exact hjobs
  · exact hjobs

theorem State.aonGood_reads (s : State) : s.aonGood.rd .CHN_STAT_BYPASS = 1 ∧ s.aonGood.ax .bypassed = 0 ∧
    s.aonGood.rd .PKT_LIFE_POH_HOURS = 0 ∧ s.aonGood.jobs = [] := by
  rw [s.aonGood_eq]
  refine ⟨?_, ?_, ?_, ?_⟩
  · rw [State.tokenOut_rd (by decide), State.rd_wr_same]
    rfl
  · rw [State.tokenOut_ax, State.ax_wr, State.lifeCleared_ax, State.chainForgotten_bypassed]
  · rw [State.tokenOut_rd (by decide), State.rd_wr_field _ (by decide)]
    exact State.lifeCleared_hours _
  · rw [State.tokenOut, State.wr_jobs, State.wr_jobs]
    calc s.wearForgotten.chainForgotten.lifeCleared.jobs
      _ = s.wearForgotten.chainForgotten.jobs := State.lifeCleared_jobs _
      _ = (s.coldReset true).jobs := by simp only [State.chainForgotten, State.setAx_jobs, State.wearForgotten]
      _ = [] := s.coldReset_jobs true

theorem State.timeout_count (s : State) (level die unit : Nat) (jobs : List Nat) (id : Nat) :
    (s.timeout level die unit jobs id).rd .FLT_TOCNT_COUNT 0 level = s.countUp .FLT_TOCNT_COUNT 1 0 level := by
  have hcount : (s.bump .FLT_TOCNT_COUNT 1 0 level).rd .FLT_TOCNT_COUNT 0 level = s.countUp .FLT_TOCNT_COUNT 1 0 level := State.rd_wr_same ..
  have hnoted : Same (.fld .FLT_TOCNT_COUNT) (s.bump .FLT_TOCNT_COUNT 1 0 level)
      ((s.bump .FLT_TOCNT_COUNT 1 0 level).noteTimeout level (die * 65536 + unit)) := State.noteTimeout_same (by decide) (Same.refl _ _) _ _
  rw [State.timeout, State.rd_event _ _ _ _ _ (by decide)]
  refine (rd_of_same ?_ 0 level 0).trans hcount
  exact same_ite hnoted (State.faultJobs_same (by decide) hnoted _ _)

theorem State.transactionTimeout_counts (s : State) :
    ((s.bump .CHN_STAT_TIMEOUTS).timeout 7 0xFF 0 [] 0).rd .CHN_STAT_TIMEOUTS = s.countUp .CHN_STAT_TIMEOUTS ∧
      ((s.bump .CHN_STAT_TIMEOUTS).timeout 7 0xFF 0 [] 0).rd .FLT_TOCNT_COUNT 0 7 = s.countUp .FLT_TOCNT_COUNT 1 0 7 := by
  have hother : (s.bump .CHN_STAT_TIMEOUTS).countUp .FLT_TOCNT_COUNT 1 0 7 = s.countUp .FLT_TOCNT_COUNT 1 0 7 := by
    rw [State.countUp, State.bump, State.rd_wr_field _ (by decide), State.countUp]
  refine ⟨?_, (State.timeout_count ..).trans hother⟩
  exact (State.timeout_same (g := .fld .CHN_STAT_TIMEOUTS) (by decide) (Same.refl _ _) _ _ _ _ _ 0 0 0).trans (State.rd_wr_same ..)

/-- Settles O49: a chain write that the part answers is carried out or discarded by its packet error code
(`State.chainWrite_carried`, `State.chainWrite_discarded`); the token line changes nothing that decides this. -/
theorem chainAddressing : Obligations.ChainAddressing := by
  intro s
  refine ⟨?power, ?opens, ?beats, ?supervisor, ?timeout, ?assign, ?outside, ?clear, ?bypass, ?wrongPec⟩
  case power => exact ⟨_, rfl, s.aonGood_reads⟩
  case opens =>
    intro hclosed hallowed
    refine does_guarded rfl ⟨hclosed, hallowed⟩ ⟨?_, ?_⟩
    · exact (State.tokenOut_rd (by decide) _).trans ((State.rd_setAx ..).trans (State.rd_wr_same ..))
    · exact State.ax_setAx_same (s.wr .CHN_STAT_BYPASS 0) .chainBeat (s.now + 1) 0 0 0
  case beats =>
    intro hopen
    exact ⟨_, congrArg Host.Outcome.next (if_neg (by simp [hopen])), State.ax_setAx_same ..⟩
  case supervisor => exact fun hopen hlate => does_guarded rfl (by simp [hopen, hlate]) (s.bypass_reads 2)
  case timeout => exact ⟨_, rfl, s.transactionTimeout_counts⟩
  case assign =>
    intro q v hnew h8 h67 hpec
    refine ⟨_, rfl, ?_⟩
    rw [State.assign_taken hnew h8 h67 hpec]
    have hlt : v < 2 ^ 7 := by omega
    refine ⟨?_, ?_, State.leave_status ..⟩
    · rw [State.leave_rd, State.rd_event _ _ _ _ _ (by decide), State.tokenOut_rd (by decide), State.rd_wr_field _ (by decide), State.rd_wr_same]
      rfl
    · rw [State.leave_rd, State.rd_event _ _ _ _ _ (by decide), State.tokenOut_rd (by decide), State.rd_wr_same]
      exact Nat.mod_eq_of_lt hlt
  case outside =>
    intro q v hv
    refine ⟨_, rfl, ?_⟩
    rw [State.assign_outside hv]
    refine ⟨?_, rfl⟩
    rw [State.nack_rd, State.token_rd (by decide) (by decide)]
  case clear =>
    intro q hanswers hpec
    refine ⟨_, rfl, ?_⟩
    rw [State.chainWrite_carried hanswers hpec]
    refine ⟨?_, ?_, State.leave_status ..⟩
    · rw [State.leave_rd, State.tokenOut_rd (by decide), State.rd_wr_field _ (by decide), State.rd_wr_same]
      rfl
    · rw [State.leave_rd, State.tokenOut_rd (by decide), State.rd_wr_same]
      rfl
  case bypass =>
    intro q hanswers hpec
    refine ⟨_, rfl, ?_⟩
    rw [State.chainWrite_carried hanswers hpec]
    obtain ⟨hclosed, hcause⟩ := (s.token q.tokenIn).bypass_reads 1
    exact ⟨hclosed, (State.leave_ax (by decide) ..).trans hcause, State.leave_status ..⟩
  case wrongPec =>
    intro q hanswers hpec
    refine ⟨_, rfl, ?_⟩
    rw [State.chainWrite_discarded hanswers hpec]
    refine ⟨?_, (State.pecError_count _).trans ?_⟩
    · exact (rd_of_same (State.pecError_same (g := .fld .CHN_CFG_VALID) (by decide) (Same.refl _ _)) ..).trans
        (State.token_rd (by decide) (by decide) ..)
    · rw [State.countUp, State.token_rd (by decide) (by decide), State.countUp]

end Sys2Proof.Machine
end

section
/-!
SUPPORT. What a write of the Pocket leaves: the bytes written, and every byte elsewhere.
-/

namespace Sys2Proof.Machine

theorem leBytes_ofLe (l : List Byte) : leBytes l.length (ofLe l) = l := by
  induction l with
  | nil => rfl
  | cons b t ih =>
    have hb : b.toNat < 256 := b.isLt
    have hlow : BitVec.ofNat 8 (b.toNat + 256 * ofLe t) = b := BitVec.eq_of_toNat_eq (by simp; omega)
    have hrest : (b.toNat + 256 * ofLe t) / 256 = ofLe t := by omega
    simp only [List.length_cons, leBytes, ofLe, hlow, hrest, ih]

theorem State.leBytes_pktNum (s : State) (d p off n : Nat) :
    leBytes n (s.pktNum d p off n) = (List.range n).map fun i => s.pkt d p (off + i) := by
  have h := leBytes_ofLe ((List.range n).map fun i => s.pkt d p (off + i))
  rwa [List.length_map, List.length_range] at h

theorem State.pkt_pktWrite_at (s : State) (d p off : Nat) {l : List Byte} {k : Nat} (hk : k < l.length) :
    (s.pktWrite d p off l).pkt d p (off + k) = l[k] := by
  simp only [State.pkt, State.pktWrite, pktBytes_eq_storeBytes, pocketKey, ← Nat.add_assoc]
  exact storeBytes_at _ _ _ hk

/-- A write within one page leaves every byte of every other page. -/
theorem State.pkt_pktWrite_other {d p d' p' : Nat} (hother : ¬(d' = d ∧ p' = p)) (hp : p < 128) (hp' : p' < 128) (s : State) {off k : Nat}
    {l : List Byte} (hwrite : off + l.length ≤ 4096) (hk : k < 4096) : (s.pktWrite d p off l).pkt d' p' k = s.pkt d' p' k := by
  simp only [State.pkt, State.pktWrite, pktBytes_eq_storeBytes]
  refine storeBytes_other _ _ _ ?_
  simp only [pocketKey]
  omega

/-- Words of a stored page are its bytes. -/
theorem State.pocketWords_stored {p : Nat} (hp : 32 ≤ p) (s : State) (d w n : Nat) :
    s.pocketWords d p w n = ((List.range (4 * n)).map (fun i => s.pkt d p (4 * w + i)), s) := by
  have hstored : storedPage p = true := by simp [storedPage, hp]
  have hword (w : Nat) : s.pocketWord d p w = (s.pktNum d p (4 * w) 4, s) := by
    rw [State.pocketWord, if_neg (by omega), if_pos hstored]
  induction n generalizing w with
  | zero => rfl
  | succ n ih =>
    have hsplit : List.range (4 * (n + 1)) = List.range 4 ++ (List.range (4 * n)).map (4 + ·) := by
      rw [Nat.mul_add, Nat.add_comm, List.range_add]
    simp only [State.pocketWords, hword, ih, State.leBytes_pktNum, hsplit, List.map_append, List.map_map]
    congr 2
    refine List.map_congr_left fun i _ => ?_
    simp only [Function.comp_apply, Nat.mul_add, Nat.add_assoc, Nat.mul_one]

theorem State.pocketBytes_stored {p : Nat} (hp : 32 ≤ p) (s : State) (d off n : Nat) :
    s.pocketBytes d p off n = ((List.range n).map (fun i => s.pkt d p (off + i)), s) := by
  have hlen : n + off % 4 ≤ 4 * ((off % 4 + n + 3) / 4) := by omega
  rw [State.pocketBytes, State.pocketWords_stored hp]
  refine Prod.ext (List.ext_getElem (by simp; omega) fun k hk _ => ?_) rfl
  simp only [List.getElem_take, List.getElem_drop, List.getElem_map, List.getElem_range]
  congr 1
  omega

end Sys2Proof.Machine
end

section
/-!
PROOFS. The management chain: reads, and accesses to registers and the Pocket (R492, R503, R510).
-/

namespace Sys2Proof.Machine

theorem State.chainData_plain {s : State} (hpec : s.rdb .CHN_CFG_PEC = false) (x : ChainTx) (cmd : Nat) (args l : List Byte) :
    s.chainData x cmd args l = s.emit (.chain l) := by
  rw [State.chainData, hpec, if_neg Bool.false_ne_true]

theorem State.chainData_coded {s : State} (hpec : s.rdb .CHN_CFG_PEC = true) (x : ChainTx) (cmd : Nat) (args l : List Byte) :
    s.chainData x cmd args l = s.emit (.chain (l ++ [pecOf (addrByte x 0 :: BitVec.ofNat 8 cmd :: args ++ addrByte x 1 :: l)])) := by
  rw [State.chainData, hpec, if_pos rfl]

/-- Data that a read answers, with the status that it leaves. -/
theorem State.answered (s : State) (o : Out) (st : Nat) :
    ((s.emit o).leave st).outbox = s.outbox ++ [o] ∧ ((s.emit o).leave st).ax .chainStatus = st :=
  ⟨rfl, State.leave_status ..⟩

theorem State.token_stepDone (s : State) (b : Bool) (n : Nat) : (s.token b).stepDone n = s.stepDone n := rfl

/-- The registers that STATUS returns do not hold the token line. -/
theorem State.token_statusRegs (s : State) (b : Bool) :
    (s.token b).regRead .START_REPORT 0 0 0 = s.regRead .START_REPORT 0 0 0 ∧ (s.token b).regRead .PWR_STAT 0 0 0 = s.regRead .PWR_STAT 0 0 0 ∧
      (s.token b).regRead .MIR_STAT 0 0 0 = s.regRead .MIR_STAT 0 0 0 := by
  refine ⟨?_, ?_, ?_⟩ <;>
  simp (disch := decide) only [State.regRead, Reg.fields, List.map, State.fieldRead, State.token_rd]

theorem State.token_pktRdOpen (s : State) (b : Bool) (p : Nat) : (s.token b).pktRdOpen p = s.pktRdOpen p := by
  simp only [State.pktRdOpen, State.regionOpen, State.token_rd (f := .PKT_STAT_MODE) (by decide) (by decide)]
  rfl

theorem State.token_pktWrOpen (s : State) (b : Bool) (d p : Nat) : (s.token b).pktWrOpen d p = s.pktWrOpen d p := by
  simp only [State.pktWrOpen, State.regionOpen, State.token_rd (f := .PKT_STAT_MODE) (by decide) (by decide)]
  rfl

theorem State.chainPocketWrite_open {s : State} {d p off n : Nat} {l : List Byte} (hspan : s.chainSpan d p off n = true) (hn : n % 4 = 0)
    (hoff : off % 4 = 0) (hl : l.length = n) (hopen : s.pktWrOpen d p = true) :
    s.chainPocketWrite d p off n l none = (s.pktWrite d p off l).leave stOK := by
  simp [State.chainPocketWrite, hspan, hn, hoff, hl, hopen]

/-- Settles O50: a read or write that the part answers runs on the state that the token line leaves, which differs in nothing that
the clauses read. -/
theorem chainAccess : Obligations.ChainAccess := by
  intro s q hanswers
  have hpec : (s.token q.tokenIn).rdb .CHN_CFG_PEC = s.rdb .CHN_CFG_PEC := State.token_rdb (by decide) (by decide) ..
  refine ⟨?identify, ?identifyCoded, ?status, ?regRead, ?regReadEarly, ?regWrite, ?pocketRead, ?pocketWrite, ?last⟩
  case identify =>
    intro h
    refine ⟨_, rfl, ?_⟩
    rw [State.chainRead_answered hanswers, State.chainData_plain (hpec.trans h)]
    exact State.answered ..
  case identifyCoded =>
    intro h
    refine ⟨_, rfl, ?_⟩
    rw [State.chainRead_answered hanswers, State.chainData_coded (hpec.trans h)]
    rfl
  case status =>
    intro h
    obtain ⟨hreport, hpower, hmirror⟩ := s.token_statusRegs q.tokenIn
    refine ⟨_, rfl, ?_⟩
    rw [State.chainRead_answered hanswers, State.chainData_plain (hpec.trans h), hreport, hpower, hmirror]
    exact State.answered ..
  case regRead =>
    intro off h hstarted hquiet
    have hread : ((s.token q.tokenIn).readAccess .chain off 4).2.rdb .CHN_CFG_PEC = false := by
      have hsame : Same (.fld .CHN_CFG_PEC) (s.token q.tokenIn) ((s.token q.tokenIn).readAccess .chain off 4).2 :=
        State.readAccess_same (by decide) (Same.refl _ _) ..
      rw [State.rdb, rd_of_same hsame, ← State.rdb, hpec, h]
    refine ⟨_, rfl, ?_⟩
    rw [State.chainRead_answered hanswers, State.token_stepDone, if_pos hstarted]
    dsimp only
    rw [State.chainData_plain hread, ← hquiet]
    exact State.answered ..
  case regReadEarly =>
    intro off hstarted
    refine ⟨_, rfl, ?_⟩
    rw [State.chainRead_answered hanswers, State.token_stepDone, hstarted]
    rfl
  case regWrite =>
    intro off v l h hright hstarted
    refine ⟨_, rfl, ?_⟩
    rw [State.chainWrite_carried hanswers hright, State.token_stepDone, if_pos hstarted]
  case pocketRead =>
    intro d p off n h hspan hp hopen
    refine ⟨_, rfl, ?_⟩
    have hspan' : (s.token q.tokenIn).chainSpan d p off n = true := hspan
    simp only [State.chainRead_answered hanswers, hspan', State.token_pktRdOpen, hopen, State.pocketBytes_stored hp,
      State.chainData_plain (hpec.trans h), Bool.not_true, Bool.false_eq_true, if_false]
    exact State.answered ..
  case pocketWrite =>
    intro d p off n l hright hspan hn hoff hl hopen
    refine ⟨_, rfl, ?_⟩
    have hspan' : (s.token q.tokenIn).chainSpan d p off n = true := hspan
    rw [State.chainWrite_carried hanswers hright, State.chainPocketWrite_open hspan' hn hoff hl (by rwa [State.token_pktWrOpen])]
    refine ⟨fun k hk => ?_, State.leave_status ..⟩
    have hk : k < l.length := hl ▸ hk
    rw [List.getD_eq_getElem _ _ hk]
    exact State.pkt_pktWrite_at _ d p off hk
  case last =>
    intro h
    refine ⟨_, rfl, ?_⟩
    rw [State.chainRead_answered hanswers, State.chainData_plain (hpec.trans h)]
    exact ⟨rfl, rfl⟩

end Sys2Proof.Machine
end

section
/-!
SUPPORT. The protection mode of the Pocket under the operations that reset whole registers or write a register field by field: none of
these registers is PKT_STAT, and no field of PKT_STAT but its W1C bit takes a written value (R10, R497).
-/

namespace Sys2Proof.Machine

/-- The field that holds the protection mode. -/
abbrev protMode : Piece := .fld .PKT_STAT_MODE

variable {a s : State}

/-! ## Registers that return to their reset values -/

theorem State.resetReg_field {x : Field} {r : Reg} (hr : x ∉ r.fields) (h : Same (.fld x) a s) (d i : Nat) :
    Same (.fld x) a (s.resetReg r d i) :=
  fun d' i' j' => (State.rd_resetReg_of_notMem hr s d i d' i' j').trans (h d' i' j')

theorem State.resetRegs_field {x : Field} {l : List Reg} (hl : ∀ r ∈ l, x ∉ r.fields) (h : Same (.fld x) a s) (d i : Nat) :
    Same (.fld x) a (l.foldl (fun s r => s.resetReg r d i) s) := by
  induction l generalizing s with
  | nil => exact h
  | cons r l ih =>
    rw [List.forall_mem_cons] at hl
    exact ih hl.2 (State.resetReg_field hl.1 h d i)

theorem State.resetFn_mode (h : Same protMode a s) (fn : Nat) : Same protMode a (s.resetFn fn) := by
  refine State.event_same (by decide) (State.quotaRecheck_same (by decide) (same_mk_hold_latch (by decide) (by decide)
    (State.setRing_same (by decide) (foldl_same (foldl_same (State.resetRegs_field (by decide) (same_mk_progs (by decide)
      (State.each_same (State.each_same (same_mk_cmds (by decide) (State.each_same h _ _ ?_) _) _ _ ?_) _ _ ?_) _) _ _) _ _ ?_) _ _ ?_) _ _) _ _)
        _) _ _ _ _
  · exact fun _ _ h => State.endJobSilently_same (by decide) h _
  · intro _ _ h
    split
    · exact State.setQp_same (by decide) (State.resetRegs_field (by decide) h _ _) _ _
    · exact h
  · exact fun _ _ h => State.freeAlloc_same (by decide) h _ _ _
  · exact fun _ _ h => State.resetReg_field (by decide) h _ _
  · exact fun _ _ h => State.resetRegs_field (by decide) h _ _

theorem State.functionReset_mode (h : Same protMode a s) (fn : Nat) : Same protMode a (s.functionReset fn) :=
  same_ite (State.each_same h _ _ fun _ _ h => State.resetFn_mode h _)
    (same_ite (State.evictCheck_same (by decide) (State.resetFn_mode h _)) h)

theorem execFunctionLevelReset_mode (h : Same protMode a s) (fn : Nat) : SameR protMode a (execFunctionLevelReset fn s) :=
  sameR_next (State.functionReset_mode h fn)

theorem execHotReset_mode (h : Same protMode a s) : SameR protMode a (execHotReset s) := sameR_next (State.functionReset_mode h 0)

/-! ## Engines handed back -/

theorem State.prgHandback_mode (h : Same protMode a s) (d : Nat) : Same protMode a (s.prgHandback d) :=
  State.pump_same (by decide) (wr_same (by decide) (State.resetReg_field (by decide) (wr_same (by decide) h _ _ _ _) _ _) _ _ _ _) _

theorem State.mcvHandback_mode (h : Same protMode a s) (d : Nat) : Same protMode a (s.mcvHandback d) := by
  have hseq : Same protMode a ((s.resetReg .MCV_SEQCFG d 0).each (List.range 32) fun s i => (s.resetReg .MCV_SEQA d i).resetReg .MCV_SEQB d i) :=
    State.each_same (State.resetReg_field (by decide) h _ _) _ _
      fun _ _ h => State.resetReg_field (by decide) (State.resetReg_field (by decide) h _ _) _ _
  exact State.seqResume_same (by decide) (wr_same (by decide) (wr_same (by decide) (State.mcvMode_same (by decide)
    (State.resetReg_field (by decide) (wr_same (by decide) (State.resetReg_field (by decide) hseq _ _) _ _ _ _) _ _) _ _) _ _ _ _) _ _ _ _) _

theorem State.calHandback_mode (h : Same protMode a s) (d : Nat) : Same protMode a (s.calHandback d) := by
  have hregs : Same protMode a ((((s.resetReg .CAL_CFG d 0).resetReg .CAL_RAMP d 0).resetReg .CAL_LIMIT d 0).resetReg .CAL_REFRESH d 0) :=
    State.resetRegs_field (l := [.CAL_CFG, .CAL_RAMP, .CAL_LIMIT, .CAL_REFRESH]) (by decide) h d 0
  have hback := State.calExpertShow_same (by decide) (State.each_same
    (setAx_same (x := .calExpert) (by decide) (wr_same (f := .CAL_CTRL_HOLD) (by decide) hregs 0 d 0 0) 0 d 0 0)
    ((List.range 1664).filter fun t => ((((((s.resetReg .CAL_CFG d 0).resetReg .CAL_RAMP d 0).resetReg .CAL_LIMIT d 0).resetReg .CAL_REFRESH d
      0).wr .CAL_CTRL_HOLD 0 d).setAx .calExpert 0 d).tile d t |>.expert)
    (fun s t => s.calTileBack d t) fun _ _ h => State.calTileBack_same (by decide) h _ _) d
  exact same_ite (State.calResume_same (by decide) hback _) hback

theorem State.pwrHandback_mode (h : Same protMode a s) : Same protMode a s.pwrHandback :=
  wr_same (by decide) (State.each_same (State.resetRegs_field (l := [.PWR_PKG_BUDGET, .PWR_SHED_BUDGET, .PWR_SHED_CFG]) (by decide) h 0 0) _ _
    fun _ _ h => wr_same (by decide) (wr_same (by decide) (wr_same (by decide) h _ _ _ _) _ _ _ _) _ _ _ _) _ _ _ _

theorem State.bnkHandback_mode (h : Same protMode a s) (d : Nat) : Same protMode a (s.bnkHandback d) :=
  State.each_same (wr_same (by decide) (State.resetReg_field (by decide) h _ _) _ _ _ _) _ _
    fun _ _ h => same_ite h (State.bankRequest_same (by decide) h _ _ _ _)

theorem State.memHandback_mode (h : Same protMode a s) (d : Nat) : Same protMode a (s.memHandback d) :=
  wr_same (by decide) (State.resetRegs_field (l := [.MEM_ARB, .MEM_SCRUB]) (by decide) h d 0) _ _ _ _

/-- A handback bit of a die's window. -/
theorem State.dieHandback_mode (h : Same protMode a s) (d x : Nat) (o : Order) (c : Nat → Bool) {f : State → State}
    (hf : ∀ t, Same protMode a t → Same protMode a (f t)) :
    SameR protMode a (.next (if s.dieWindow d then s.order o x (fun s _ v => s.when (c v) f) else s)) :=
  sameR_next (same_ite (State.order_same (by decide) h _ _ _ fun _ _ _ h => State.when_same h _ _ hf) h)

theorem execPrgCtrlHandback_mode (h : Same protMode a s) (d : Nat) (o : Order) : SameR protMode a (execPrgCtrlHandback d o s) :=
  State.dieHandback_mode h d _ o _ fun _ h => State.prgHandback_mode h d

theorem execMcvCtrlHandback_mode (h : Same protMode a s) (d : Nat) (o : Order) : SameR protMode a (execMcvCtrlHandback d o s) :=
  State.dieHandback_mode h d _ o _ fun _ h => State.mcvHandback_mode h d

theorem execCalCtrlHandback_mode (h : Same protMode a s) (d : Nat) (o : Order) : SameR protMode a (execCalCtrlHandback d o s) :=
  State.dieHandback_mode h d _ o _ fun _ h => State.calHandback_mode h d

theorem execBnkCtrlHandback_mode (h : Same protMode a s) (d : Nat) (o : Order) : SameR protMode a (execBnkCtrlHandback d o s) :=
  State.dieHandback_mode h d _ o _ fun _ h => State.bnkHandback_mode h d

theorem execMemCtrlHandback_mode (h : Same protMode a s) (d : Nat) (o : Order) : SameR protMode a (execMemCtrlHandback d o s) :=
  State.dieHandback_mode h d _ o _ fun _ h => State.memHandback_mode h d

theorem execPwrCtrlHandback_mode (h : Same protMode a s) (o : Order) : SameR protMode a (execPwrCtrlHandback o s) :=
  sameR_next (State.order_same (by decide) h _ _ _ fun _ _ _ h => State.when_same h _ _ fun _ h => State.pwrHandback_mode h)

/-! ## The mirror -/

/-- Discarding the copies of a function resets the registers of its queue pairs, and no other register. -/
theorem State.dropCopies_field {x : Field} (hpairs : ∀ r ∈ [Reg.QP_SQBASE, .QP_CQBASE, .QP_CFG, .QP_SQTAIL, .QP_CQHEAD, .QP_STAT], x ∉ r.fields)
    (hfree : State.freeUnits_w (.fld x) = false) (h : Same (.fld x) a s) (fn : Nat) : Same (.fld x) a (s.dropCopies fn) := by
  refine same_mk_progs_regions rfl rfl (State.each_same (State.each_same (State.dropRecords_same rfl h _) _ _ ?_) _ _ ?_) _ _
  · exact fun _ _ h => State.each_same h _ _ fun _ _ h => State.setQp_same rfl (State.resetRegs_field hpairs h _ _) _ _
  · exact fun _ _ h => State.freeUnits_same hfree h _ _ _ _ _

theorem State.dropCopies_mode (h : Same protMode a s) (fn : Nat) : Same protMode a (s.dropCopies fn) :=
  State.dropCopies_field (by decide) (by decide) h fn

theorem State.unmirror_mode (h : Same protMode a s) (fn : Nat) : Same protMode a (s.unmirror fn) :=
  wr_same (by decide) (wr_same (by decide) (State.setRole_same (by decide)
    (same_ite (State.dropCopies_mode h _) (State.dropRecords_same (by decide) h _)) _ _) _ _ _ _) _ _ _ _

theorem State.setMirrored_mode (h : Same protMode a s) (fn v : Nat) : Same protMode a (s.setMirrored fn v) := by
  have hset : Same protMode a ((s.wr .MIR_FN_MIRRORED 1 0 fn).setAx .untold 0 fn) := setAx_same (by decide) (wr_same (by decide) h _ _ _ _) _ _ _ _
  refine same_ite h (same_ite (same_ite ?fenced (same_ite ?standby ?active)) ?cleared)
  case fenced => exact State.pairTo_same (by decide) (State.setRole_same (by decide) hset _ _) _
  case standby => exact State.setRole_same (by decide) hset _ _
  case active => exact State.setRole_same (by decide) hset _ _
  case cleared => exact State.tellUnmirrored_same (by decide) (State.unmirror_mode (wr_same (by decide) h _ _ _ _) _) _

theorem execMirFnMirroredWrite_mode (h : Same protMode a s) (fn : Nat) (o : Order) : SameR protMode a (execMirFnMirroredWrite fn o s) :=
  sameR_next (State.order_same (by decide) h _ _ _ fun _ _ _ h => State.setMirrored_mode h _ _)

theorem State.takeStart_mode (h : Same protMode a s) (fn : Nat) : Same protMode a (s.takeStart fn) := by
  have hdropped : Same protMode a (((s.dropCopies fn).wr .MIR_FN_READY 0 0 fn).setAx .stateWhole 0 fn) :=
    setAx_same (by decide) (wr_same (by decide) (State.dropCopies_mode h _) _ _ _ _) _ _ _ _
  exact same_ite hdropped (State.syncBegin_same (by decide) hdropped)

theorem State.takeState_mode (h : Same protMode a s) (fn : Nat) (m : StateMsg) : Same protMode a (s.takeState fn m) :=
  match m with
  | .pointers _ => State.takePointers_same (by decide) h _ _
  | .commit .. => State.putBytes_same (by decide) (same_mk_commits (by decide) h _) _
  | .region .. => State.takeRegionBytes_same (by decide) h _ _ _
  | .quotas .. => by
    iterate 9 refine wr_same (by decide) ?_ _ _ _ _
    exact h
  | .map .. => State.takeMap_same (by decide) h _ _ _ _ _
  | .start => State.takeStart_mode h _
  | .whole => State.takeWhole_same (by decide) h _

theorem execStateFlit_mode (h : Same protMode a s) (x : FlitHdr) (fn : Nat) (m : StateMsg) : SameR protMode a (execStateFlit x fn m s) := by
  refine sameR_next (State.receiveSeq_same (by decide) h _ _ fun _ h => same_ite h (same_ite (State.takeState_mode h _ _) ?_))
  split
  · exact same_ite (State.noteMap_same (by decide) h _ _ _ _) h
  · exact h

theorem State.takeOrder_mode (h : Same protMode a s) (m : MirOrder) (rival : Option Master) : Same protMode a (s.takeOrder m rival) := by
  unfold State.takeOrder
  split
  · exact State.sendMsg_same (by decide) (State.superseded_same (by decide) h _ _ _) _ _
  · cases m with
    | slotSwitch => exact State.slotMatch_same (by decide) h _ _
    | region => exact State.takeRegion_same (by decide) h _ _ _ _ _
    | handover => exact State.takeHandover_same (by decide) h _ _
    | unmirrored => exact State.unmirror_mode (setAx_same (by decide) h _ _ _ _) _
    | refused => exact State.handoverRefused_same (by decide) h _

theorem execOrderFlit_mode (h : Same protMode a s) (x : FlitHdr) (m : MirOrder) (rival : Option Master) :
    SameR protMode a (execOrderFlit x m rival s) :=
  sameR_next (State.receiveSeq_same (by decide) h _ _ fun _ h => State.takeOrder_mode h _ _)

/-! ## The start-up -/

theorem State.rerun_mode (h : Same protMode a s) : Same protMode a s.rerun :=
  State.each_same (setAx_same (by decide) (setAx_same (by decide) (State.restartFrom3_same (by decide) h) _ _ _ _) _ _ _ _) _ _
    fun _ _ h => State.resetReg_field (by decide) (State.resetReg_field (by decide) h _ _) _ _

theorem State.startFail_mode (h : Same protMode a s) (reason : Nat) : Same protMode a (s.startFail reason) :=
  State.rerun_mode (wr_same (by decide) (setAx_same (by decide) h _ _ _ _) _ _ _ _)

theorem State.loadMemCfg_mode (h : Same protMode a s) : Same protMode a s.loadMemCfg :=
  State.each_same h _ _ fun _ _ h => same_ite (State.resetReg_field (by decide) h _ _)
    (wr_same (by decide) (wr_same (by decide) (wr_same (by decide) h _ _ _ _) _ _ _ _) _ _ _ _)

/-- What step 4 takes from the Pocket before it judges the failed starts. -/
def State.startRead (s : State) (x : StepInfo) : State :=
  let s := s.each (x.bad.filter (fun b => decide (b.1 < s.part.dies))) (fun s b =>
    s.event 0xA1 b.1 sevWarning (b.1 + atByte 1 b.2.1 + atByte 2 b.2.2))
  let s := s.when (s.dies.all (fun d => x.bad.contains (d, 1, 0) && x.bad.contains (d, 1, 1)))
    (fun s => (s.wr .CHN_CFG_VALID 0).wr .CHN_CFG_ADDR 0x6A)
  let s := s.when (s.ax .coldPower == 1) (fun s => s.loadShadows x.bad)
  let s := (s.setAx .coldPower 0).loadMemCfg
  (s.wr .START_REPORT_FAILS (s.ax .nvFails)).wr .START_REPORT_LAST (s.ax .nvLast)

theorem State.step4_eq (s : State) (x : StepInfo) : s.step4 x =
    if x.bad.contains (0, 0, 0) && x.bad.contains (0, 0, 1) then (((s.startRead x).markStep 4).setAx .startLost 1).enterMinimal 5
    else if (s.startRead x).ax .nvFails ≥ 3 then ((s.startRead x).markStep 4).enterMinimal ((s.startRead x).ax .nvLast)
    else (((s.startRead x).setAx .nvFails ((s.startRead x).ax .nvFails + 1)).wr .START_REPORT_FAILS
      (((s.startRead x).setAx .nvFails ((s.startRead x).ax .nvFails + 1)).ax .nvFails)).markStep 4 := rfl

theorem State.startRead_mode (h : Same protMode a s) (x : StepInfo) : Same protMode a (s.startRead x) := by
  refine wr_same (by decide) (wr_same (by decide) (State.loadMemCfg_mode (setAx_same (by decide) (State.when_same
    (State.when_same (State.each_same h _ _ ?_) _ _ ?_) _ _ ?_) _ _ _ _)) _ _ _ _) _ _ _ _
  · exact fun _ _ h => State.event_same (by decide) h _ _ _ _
  · exact fun _ h => wr_same (by decide) (wr_same (by decide) h _ _ _ _) _ _ _ _
  · exact fun _ h => State.loadShadows_same (by decide) h _

theorem State.step4_mode (h : Same protMode a s) (x : StepInfo) : Same protMode a (s.step4 x) := by
  have hread := State.startRead_mode h x
  rw [State.step4_eq]
  refine same_ite ?_ (same_ite ?_ ?_)
  · exact State.enterMinimal_same (by decide) (setAx_same (by decide) (State.markStep_same (by decide) hread _) _ _ _ _) _
  · exact State.enterMinimal_same (by decide) (State.markStep_same (by decide) hread _) _
  · exact State.markStep_same (by decide) (wr_same (by decide) (setAx_same (by decide) hread _ _ _ _) _ _ _ _) _

theorem State.step5_mode (h : Same protMode a s) (x : StepInfo) : Same protMode a (s.step5 x) := by
  have hslot {v w : Nat} : Same protMode a ((s.setAx .fwForce v).wr .START_REPORT_FW_SLOT w) := wr_same (by decide) (setAx_same (by decide) h _ _ _ _) _ _ _ _
  exact same_ite (State.startFail_mode (setAx_same (by decide) h _ _ _ _) _) (State.markStep_same (by decide) (same_ite
    (State.event_same (by decide) (setAx_same (by decide) hslot _ _ _ _) _ _ _ _) (setAx_same (by decide) hslot _ _ _ _)) _)

theorem State.step6_mode (h : Same protMode a s) (x : StepInfo) : Same protMode a (s.step6 x) := by
  refine same_ite (State.startFail_mode h _) (setAx_same (by decide) (State.markStep_same (by decide) (foldl_same ?_ _ _ ?_) _) _ _ _ _)
  · iterate 5 refine wr_same (by decide) ?_ _ _ _ _
    exact h
  · exact fun _ _ h => State.setLock_same (by decide) (setAx_same (by decide) h _ _ _ _) _ _

theorem State.step7_mode (h : Same protMode a s) (x : StepInfo) : Same protMode a (s.step7 x) :=
  same_ite (State.markStep_same (by decide) (State.each_same h _ _ fun _ _ h => State.trainDie_same (by decide) h _) _) (State.startFail_mode h _)

theorem State.step8_mode (h : Same protMode a s) (x : StepInfo) : Same protMode a (s.step8 x) :=
  same_ite (State.startFail_mode h _) (State.markStep_same (by decide) (State.each_same
    (State.each_same h _ _ fun _ _ h => State.bringUp_same (by decide) h _) _ _ fun _ _ h => State.dieOffline_same (by decide) h _ _) _)

theorem State.step9_mode (h : Same protMode a s) (x : StepInfo) : Same protMode a (s.step9 x) := by
  have hwarm := State.warmQuicks_same (g := protMode) (by decide) (State.each_same (State.when_same h (s.rdb .PWR_STAT_SHED_IN) State.startShed
    fun _ h => State.startShed_same (by decide) h) (s.when (s.rdb .PWR_STAT_SHED_IN) State.startShed).onlineDies (fun s d => s.warmDie d x)
      fun _ _ h => State.warmDie_same (by decide) h _ _)
  exact same_ite (State.startFail_mode (hwarm _) _) (State.markStep_same (by decide) (hwarm _) _)

theorem State.startStep_mode (h : Same protMode a s) (k : Nat) (x : StepInfo) : Same protMode a (s.startStep k x) := by
  unfold State.startStep
  refine same_ite h (same_ite ?_ (same_ite ?_ (same_ite ?_ (same_ite ?_ (same_ite ?_ (same_ite ?_ (same_ite ?_ (same_ite ?_ ?_))))))))
  · exact State.step2_same (by decide) h
  · exact State.step4_mode h x
  · exact State.step5_mode h x
  · exact State.step6_mode h x
  · exact State.step7_mode h x
  · exact State.step8_mode h x
  · exact State.step9_mode h x
  · exact State.step11_same (by decide) h
  · exact State.markStep_same (by decide) h _

theorem execStartUpStepDone_mode (h : Same protMode a s) (k : Nat) (x : StepInfo) : SameR protMode a (execStartUpStepDone k x s) :=
  sameR_next (State.startStep_mode (same_ite (State.rerun_mode h) h) k x)

theorem execStartTimeout_mode (h : Same protMode a s) : SameR protMode a (execStartTimeout s) :=
  sameR_next (same_ite (State.startFail_mode h _) h)

theorem execMgmtWatchdogMiss_mode (h : Same protMode a s) (d : Nat) : SameR protMode a (execMgmtWatchdogMiss d s) :=
  sameR_next (same_ite (State.startFail_mode h _) (same_ite (State.dieOffline_same (by decide) h _ _) h))

end Sys2Proof.Machine
end

section
/-!
SUPPORT. What a write of the bus or of the chain may change of the Pocket and its protection: the mode is read-only, and the bytes are
reached through PKT_DATA alone (R10, R491, R497).
-/

namespace Sys2Proof.Machine

variable {a s : State}

/-! ## The protection mode -/

theorem protMode_ne {f : Field} (hf : f ≠ .PKT_STAT_MODE) : (protMode == .fld f) = false :=
  beq_false_of_ne fun h => hf (Piece.fld.inj h).symm

theorem State.plainField_mode (h : Same protMode a s) (d i j v : Nat) (f : Field) : Same protMode a (s.plainField d i j v f) := by
  by_cases hf : f = .PKT_STAT_MODE
  · rw [hf]
    exact h
  · unfold State.plainField
    split
    · exact h
    · exact h
    · exact same_ite (wr_same (protMode_ne hf) h _ _ _ _) h
    · exact wr_same (protMode_ne hf) h _ _ _ _

theorem State.plainReg_mode (h : Same protMode a s) (r : Reg) (d i j v : Nat) {acts : State → State}
    (hacts : ∀ t, Same protMode a t → Same protMode a (acts t)) : Same protMode a (s.plainReg r d i j v acts) :=
  same_ite (State.refuseReg_same (by decide) h _ _ _) (hacts _ (State.each_same
    (State.when_same h _ _ fun _ h => State.markExpert_same (by decide) h _ _ _) _ _ fun _ _ h => State.plainField_mode h _ _ _ _ _))

theorem State.hwField_acc {u : HwSet} {p : RegAt × Field} (h : s.hwField u = some p) : p.2.info.acc = .w1c ∨ p.2.info.acc = .rw := by
  unfold State.hwField at h
  split at h
  · contradiction
  · obtain ⟨f, hfind, rfl⟩ := Option.map_eq_some_iff.1 h
    have hacc := List.find?_some hfind
    simpa using (Bool.and_eq_true_iff.1 hacc).2

theorem State.hwSet_mode (h : Same protMode a s) (u : HwSet) : Same protMode a (s.hwSet u) := by
  cases hu : s.hwField u with
  | none => rwa [State.hwSet, hu]
  | some p =>
    rw [State.hwSet, hu]
    refine wr_same (protMode_ne ?_) h _ _ _ _
    intro hf
    have hacc := State.hwField_acc hu
    rw [hf] at hacc
    exact absurd hacc (by decide)

/-! ## Writes that carry out the meanings of rows -/

variable {g : Piece}

theorem Same.act (h : Same g a s) {f : Order → State → Res} (hf : ∀ o t, Same g a t → SameR g a (f o t)) (m : Master) (v : Nat) :
    Same g a (s.act f m v) :=
  State.act_same h _ _ _ hf

/-- An action bit that the write may set. -/
theorem Same.hit (h : Same g a s) {f : Order → State → Res} (hf : ∀ o t, Same g a t → SameR g a (f o t)) (x : Field) (v w : Nat) (m : Master) :
    Same g a (s.hit x v fun s => s.act f m w) :=
  State.hit_same h _ _ _ fun _ h => h.act hf _ _

/-- A field that the write may change. -/
theorem Same.sets (h : Same g a s) {f : Order → State → Res} (hf : ∀ o t, Same g a t → SameR g a (f o t)) (x : Field) (d i j v : Nat)
    (m : Master) : Same g a (s.sets x d i j v fun w s => s.act f m w) :=
  State.sets_same h _ _ _ _ _ _ fun _ _ h => h.act hf _ _

theorem State.tileRegWrite_mode (h : Same protMode a s) (m : Master) (r : Reg) (d t j v : Nat) : Same protMode a (s.tileRegWrite m r d t j v) := by
  unfold State.tileRegWrite
  split
  case h_1 =>
    exact Same.hit (Same.hit (Same.sets (Same.sets h (fun _ _ h => execTilCtrlHoldWrite_same (by decide) h _ _ _) _ _ _ _ _ _)
      (fun _ _ h => execTilCtrlPrecisionWrite_same (by decide) h _ _ _) _ _ _ _ _ _) (fun _ _ h => execTilCtrlRetire_same (by decide) h _ _ _) _
      _ _ _) (fun _ _ h => execTilCtrlHandback_same (by decide) h _ _ _) _ _ _ _
  case h_2 =>
    exact Same.hit (Same.act h (fun _ _ h => execDrvCfgWrite_same (by decide) h _ _ _) _ _)
      (fun _ _ h => execDrvCfgHandback_same (by decide) h _ _ _) _ _ _ _
  case h_3 => exact Same.act h (fun _ _ h => execDrvSlewWrite_same (by decide) h _ _ _) _ _
  case h_4 => exact Same.act h (fun _ _ h => execHemCfgWrite_same (by decide) h _ _ _) _ _
  case h_5 => exact Same.act h (fun _ _ h => execHemTapsWrite_same (by decide) h _ _ _) _ _
  case h_6 =>
    exact Same.hit (Same.hit h (fun _ _ h => execHemCtrlClear_same (by decide) h _ _ _) _ _ _ _)
      (fun _ _ h => execHemCtrlHandback_same (by decide) h _ _ _) _ _ _ _
  case h_7 => exact State.plainReg_mode h _ _ _ _ _ fun _ h => h

theorem State.dieRegWrite_mode (h : Same protMode a s) (m : Master) (r : Reg) (d i v : Nat) : Same protMode a (s.dieRegWrite m r d i v) := by
  unfold State.dieRegWrite
  split
  case h_1 => exact Same.act h (fun _ _ h => execWfmDataAccess_same (by decide) h _ _) _ _
  case h_2 => exact Same.hit (State.plainReg_mode h _ _ _ _ _ fun _ h => h) (fun _ _ h => execWfmStatHandback_same (by decide) h _ _) _ _ _ _
  case h_3 =>
    exact State.plainReg_mode h _ _ _ _ _ fun _ h => Same.hit (same_ite (Same.act h (fun _ _ h => execWfmPlayStart_same (by decide) h _ _ _ _) _
      _) (Same.hit h (fun _ _ h => execWfmPlayStop_same (by decide) h _ _ _) _ _ _ _)) (fun _ _ h => execWfmPlayCancel_same (by decide) h _ _ _)
      _ _ _ _
  case h_4 => exact Same.act h (fun _ _ h => execSeqCfgWrite_same (by decide) h _ _) _ _
  case h_5 =>
    exact Same.hit (Same.sets h (fun _ _ h => execSeqCtrlDrainWrite_same (by decide) h _ _) _ _ _ _ _ _)
      (fun _ _ h => execSeqCtrlHandback_same (by decide) h _ _) _ _ _ _
  case h_6 =>
    exact Same.hit (Same.hit (Same.sets h (fun _ _ h => execDgaCtrlHoldWrite_same (by decide) h _ _) _ _ _ _ _ _)
      (fun _ _ h => execDgaCtrlClear_same (by decide) h _ _) _ _ _ _) (fun _ _ h => execDgaCtrlHandback_same (by decide) h _ _) _ _ _ _
  case h_7 =>
    exact Same.hit (Same.hit (Same.sets h (fun _ _ h => execPrgCtrlHoldWrite_same (by decide) h _ _) _ _ _ _ _ _)
      (fun _ _ h => execPrgCtrlClear_same (by decide) h _ _) _ _ _ _) (fun _ _ h => execPrgCtrlHandback_mode h _ _) _ _ _ _
  case h_8 => exact Same.sets h (fun _ _ h => execPrgStoreWrite_same (by decide) h _ _) _ _ _ _ _ _
  case h_9 =>
    exact Same.hit (Same.hit (Same.hit (Same.sets h (fun _ _ h => execCalCtrlHoldWrite_same (by decide) h _ _) _ _ _ _ _ _)
      (fun _ _ h => execCalCtrlClear_same (by decide) h _ _) _ _ _ _) (fun _ _ h => execCalCtrlHandback_mode h _ _) _ _ _ _)
      (fun _ _ h => execCalCtrlTrace_same (by decide) h _ _) _ _ _ _
  case h_10 => exact Same.act h (fun _ _ h => execCalTabDataAccess_same (by decide) h _ _) _ _
  case h_11 =>
    exact State.plainReg_mode h _ _ _ _ _ fun _ h => State.hit_same h _ _ _ fun _ h => Same.act h
      (fun _ _ h => execCalHandbackGo_same (by decide) h _ _ _) _ _
  case h_12 =>
    exact same_ite (Same.act h (fun _ _ h => execMcvCtrlHoldWrite_same (by decide) h _ _) _ _) (Same.hit (Same.hit (Same.hit (Same.sets
      (Same.sets h (fun _ _ h => execMcvCtrlModeWrite_same (by decide) h _ _) _ _ _ _ _ _)
      (fun _ _ h => execMcvCtrlHoldWrite_same (by decide) h _ _) _ _ _ _ _ _) (fun _ _ h => execMcvCtrlScal_same (by decide) h _ _) _ _ _ _)
      (fun _ _ h => execMcvCtrlClear_same (by decide) h _ _) _ _ _ _) (fun _ _ h => execMcvCtrlHandback_mode h _ _) _ _ _ _)
  case h_13 => exact State.plainReg_mode h _ _ _ _ _ fun _ h => Same.hit h (fun _ _ h => execMcvTrigGo_same (by decide) h _ _) _ _ _ _
  case h_14 => exact State.timedTrigger_same (by decide) (State.when_same h _ _ fun _ h => State.markExpert_same (by decide) h _ _ _) _ _
  case h_15 =>
    exact State.plainReg_mode h _ _ _ _ _ fun _ h => Same.hit (same_ite (Same.act h (fun _ _ h => execTlmStart_same (by decide) h _ _ _) _ _)
      (Same.hit h (fun _ _ h => execTlmStop_same (by decide) h _ _) _ _ _ _)) (fun _ _ h => execTlmCancel_same (by decide) h _ _) _ _ _ _
  case h_16 => exact State.plainReg_mode h _ _ _ _ _ fun _ h => h
  case h_17 => exact Same.act h (fun _ _ h => execBnkOwnerWrite_same (by decide) h _ _ _) _ _
  case h_18 =>
    exact Same.hit (Same.hit h (fun _ _ h => execBnkCtrlClear_same (by decide) h _ _) _ _ _ _) (fun _ _ h => execBnkCtrlHandback_mode h _ _) _ _
      _ _
  case h_19 => exact State.plainReg_mode h _ _ _ _ _ fun _ h => Same.hit h (fun _ _ h => execBnkDiagGo_same (by decide) h _ _ _) _ _ _ _
  case h_20 =>
    exact Same.hit (Same.hit (Same.hit h (fun _ _ h => execMemCtrlRetrain_same (by decide) h _ _) _ _ _ _)
      (fun _ _ h => execMemCtrlClear_same (by decide) h _ _) _ _ _ _) (fun _ _ h => execMemCtrlHandback_mode h _ _) _ _ _ _
  case h_21 => exact Same.act h (fun _ _ h => execMemCfgWrite_same (by decide) h _ _) _ _
  case h_22 => exact State.plainReg_mode h _ _ _ _ _ fun _ h => h

theorem State.fnRegWrite_mode (h : Same protMode a s) (m : Master) (r : Reg) (d i v : Nat) : Same protMode a (s.fnRegWrite m r d i v) := by
  unfold State.fnRegWrite
  split
  case h_1 =>
    exact same_ite (Same.act h (fun _ _ h => execEvrCtrlEnable_same (by decide) h _ _) _ _) (State.plainReg_mode h _ _ _ _ _ fun _ h => h)
  case h_2 => exact Same.act h (fun _ _ h => execEvrHeadWrite_same (by decide) h _ _) _ _
  case h_3 => exact same_ite (Same.act h (fun _ _ h => execMsixUnmask_same (by decide) h _ _ _) _ _) (wr_same (by decide) h _ _ _ _)
  case h_4 =>
    exact same_ite (Same.act h (fun _ _ h => execQpCfgEnable_same (by decide) h _ _) _ _) (same_ite (Same.act h
      (fun _ _ h => execQpCfgDisable_same (by decide) h _ _) _ _) (State.plainReg_mode h _ _ _ _ _ fun _ h => h))
  case h_5 => exact Same.act h (fun _ _ h => execQpSqtailWrite_same (by decide) h _ _) _ _
  case h_6 => exact Same.act h (fun _ _ h => execQpCqheadWrite_same (by decide) h _ _) _ _
  case h_7 =>
    exact same_ite (State.refuseReg_same (by decide) h _ _ _) (Same.sets (Same.sets h (fun _ _ h => execFnqQuotaWrite_same (by decide) h _ _ _) _
      _ _ _ _ _) (fun _ _ h => execFnqQuotaWrite_same (by decide) h _ _ _) _ _ _ _ _ _)
  case h_8 => exact Same.act h (fun _ _ h => execFnqQuotaWrite_same (by decide) h _ _ _) _ _
  case h_9 => exact Same.act h (fun _ _ h => execFnqQuotaWrite_same (by decide) h _ _ _) _ _
  case h_10 =>
    exact same_ite (State.refuseReg_same (by decide) h _ _ _) (Same.sets (Same.sets h (fun _ _ h => execFnqQuotaWrite_same (by decide) h _ _ _) _
      _ _ _ _ _) (fun _ _ h => execFnqQuotaWrite_same (by decide) h _ _ _) _ _ _ _ _ _)
  case h_11 =>
    exact same_ite (State.refuseReg_same (by decide) h _ _ _) (State.each_same h _ _ fun _ _ h => Same.act h
      (fun _ _ h => execFnqGrantWrite_same (by decide) h _ _ _) _ _)
  case h_12 => exact State.plainReg_mode h _ _ _ _ _ fun _ h => State.sendQuotas_same (by decide) h _
  case h_13 => exact State.plainReg_mode h _ _ _ _ _ fun _ h => h

end Sys2Proof.Machine
end

section
/-!
SUPPORT. What a write of the bus or of the chain may change of the Pocket and its protection, continued: the package registers, and the
accesses that carry register writes (R6, R7, R430, R491, R510).
-/

namespace Sys2Proof.Machine

/-- What holds the protection of the Pocket: the mode, the locks of its pages, and the bytes. -/
def guardPieces : List Piece := [protMode, .aux .pageLock, .pocket]

variable {a s : State} {g : Piece}

theorem guard_cases (hg : g ∈ guardPieces) : g = protMode ∨ g = .aux .pageLock ∨ g = .pocket := by
  simpa [guardPieces] using hg

/-- What an operation may change is none of them, where it is none of the three. -/
theorem quiet {w : Piece → Bool} (hg : g ∈ guardPieces) (hw : guardPieces.any w = false) : w g = false :=
  Bool.eq_false_iff.2 (List.any_eq_false.1 hw g hg)

theorem State.plainReg_guard (hg : g ∈ guardPieces) (h : Same g a s) (r : Reg) (d i j v : Nat) {acts : State → State}
    (hacts : ∀ t, Same g a t → Same g a (acts t)) : Same g a (s.plainReg r d i j v acts) := by
  obtain rfl | rfl | rfl := guard_cases hg
  · exact State.plainReg_mode h _ _ _ _ _ hacts
  · exact State.plainReg_same (by decide) h _ _ _ _ _ _ hacts
  · exact State.plainReg_same (by decide) h _ _ _ _ _ _ hacts

theorem execMirFnMirroredWrite_guard (hg : g ∈ guardPieces) (h : Same g a s) (fn : Nat) (o : Order) :
    SameR g a (execMirFnMirroredWrite fn o s) := by
  obtain rfl | rfl | rfl := guard_cases hg
  · exact execMirFnMirroredWrite_mode h _ _
  · exact execMirFnMirroredWrite_same (by decide) h _ _
  · exact execMirFnMirroredWrite_same (by decide) h _ _

theorem execPwrCtrlHandback_guard (hg : g ∈ guardPieces) (h : Same g a s) (o : Order) : SameR g a (execPwrCtrlHandback o s) := by
  obtain rfl | rfl | rfl := guard_cases hg
  · exact execPwrCtrlHandback_mode h _
  · exact execPwrCtrlHandback_same (by decide) h _
  · exact execPwrCtrlHandback_same (by decide) h _

/-- A package register holds nothing of the Pocket's protection; PKT_DATA alone reaches the bytes. -/
theorem State.pkgRegWrite_guard (hg : g ∈ guardPieces) (h : Same g a s) (m : Master) (r : Reg) (i v : Nat)
    (hdata : r = .PKT_DATA → Same g a (s.pktDataWrite v)) : Same g a (s.pkgRegWrite m r i v) := by
  unfold State.pkgRegWrite
  split
  case h_1 =>
    exact Same.hit (Same.hit (Same.sets (Same.sets h (fun _ _ h => execYokCtrlHoldAllWrite_same (quiet hg (by decide)) h _) _ _ _ _ _ _)
      (fun _ _ h => execYokCtrlSplitEnWrite_same (quiet hg (by decide)) h _) _ _ _ _ _ _)
      (fun _ _ h => execYokCtrlClear_same (quiet hg (by decide)) h _) _ _ _ _) (fun _ _ h => execYokCtrlHandback_same (quiet hg (by decide)) h _)
      _ _ _ _
  case h_2 => exact Same.act h (fun _ _ h => execYokPeriodWrite_same (quiet hg (by decide)) h _) _ _
  case h_3 => exact Same.act h (fun _ _ h => execYokThrottleWrite_same (quiet hg (by decide)) h _) _ _
  case h_4 =>
    exact State.plainReg_guard hg h _ _ _ _ _ fun _ h => Same.hit (Same.sets h
      (fun _ _ h => execMirCfgEnableWrite_same (quiet hg (by decide)) h _) _ _ _ _ _ _)
      (fun _ _ h => execMirCfgHandback_same (quiet hg (by decide)) h _) _ _ _ _
  case h_5 =>
    exact Same.hit (Same.hit (Same.hit h (fun _ _ h => execMirCtrlRelease_same (quiet hg (by decide)) h _) _ _ _ _)
      (fun _ _ h => execMirCtrlResync_same (quiet hg (by decide)) h _) _ _ _ _) (fun _ _ h => execMirCtrlClear_same (quiet hg (by decide)) h _) _
      _ _ _
  case h_6 => exact Same.act h (fun _ _ h => execMirFnMirroredWrite_guard hg h _ _) _ _
  case h_7 => exact Same.hit h (fun _ _ h => execFltCtrlClear_same (quiet hg (by decide)) h _) _ _ _ _
  case h_8 =>
    exact Same.hit (Same.sets (Same.sets h (fun _ _ h => execClkCtrlMgmtSrcWrite_same (quiet hg (by decide)) h _) _ _ _ _ _ _)
      (fun _ _ h => execClkCtrlRootWrite_same (quiet hg (by decide)) h _) _ _ _ _ _ _)
      (fun _ _ h => execClkCtrlHandback_same (quiet hg (by decide)) h _) _ _ _ _
  case h_9 => exact Same.act h (fun _ _ h => execClkPllWrite_same (quiet hg (by decide)) h _ _) _ _
  case h_10 => exact State.gateWord_same (quiet hg (by decide)) h _ _ _
  case h_11 => exact Same.act h (fun _ _ h => execClkGateWrite_same (quiet hg (by decide)) h _ _ _) _ _
  case h_12 => exact Same.act h (fun _ _ h => execClkGateWrite_same (quiet hg (by decide)) h _ _ _) _ _
  case h_13 =>
    exact State.plainReg_guard hg h _ _ _ _ _ fun _ h => Same.hit (Same.hit (State.when_same h _ _ fun _ h => setAx_same
      (quiet (w := (· == .aux .lastPps)) hg (by decide)) h _ _ _ _) (fun _ _ h => execClkDtctrlSet_same (quiet hg (by decide)) h _) _ _ _ _)
      (fun _ _ h => execClkDtctrlSetPps_same (quiet hg (by decide)) h _) _ _ _ _
  case h_14 => exact Same.hit h (fun _ _ h => execPwrCtrlHandback_guard hg h _) _ _ _ _
  case h_15 => exact hdata rfl
  case h_16 => exact State.unlock_same (quiet hg (by decide)) h _
  case h_17 => exact State.plainReg_guard hg h _ _ _ _ _ fun _ h => State.hit_same h _ _ _ fun _ h => State.relock_same (quiet hg (by decide)) h
  case h_18 => exact Same.act h (fun _ _ h => execChnCfgPecWrite_same (quiet hg (by decide)) h _) _ _
  case h_19 => exact State.plainReg_guard hg h _ _ _ _ _ fun _ h => h

/-! ## Accesses -/

theorem State.regWrite_mode (h : Same protMode a s) (m : Master) (x : RegAt) (v : Nat) : Same protMode a (s.regWrite m x v) := by
  unfold State.regWrite
  refine same_ite (State.fnRefused_same (by decide) h _) ?_
  split
  case h_1 => exact State.tileRegWrite_mode h _ _ _ _ _ _
  case h_2 => exact State.dieRegWrite_mode h _ _ _ _ _
  case h_6 => exact State.pkgRegWrite_guard (.head _) h _ _ _ _ fun _ => State.pktDataWrite_same (by decide) h _
  all_goals exact State.fnRegWrite_mode h _ _ _ _ _

/-- A register other than PKT_DATA reaches no byte of the Pocket. -/
theorem State.regWrite_pocket {x : RegAt} (hx : x.reg ≠ .PKT_DATA) (s : State) (m : Master) (v : Nat) : Same .pocket s (s.regWrite m x v) := by
  unfold State.regWrite
  refine same_ite (State.fnRefused_same (by decide) (.refl _ _) _) ?_
  split
  case h_1 => exact State.tileRegWrite_same (by decide) (.refl _ _) _ _ _ _ _ _
  case h_2 => exact State.dieRegWrite_same (by decide) (.refl _ _) _ _ _ _ _
  case h_6 => exact State.pkgRegWrite_guard (by decide) (.refl _ _) _ _ _ _ fun h => absurd h hx
  all_goals exact State.fnRegWrite_same (by decide) (.refl _ _) _ _ _ _ _

/-- A write of PKT_DATA is refused, or stores a word (R491). -/
theorem State.regWrite_pktData {x : RegAt} (hx : x.reg = .PKT_DATA) (s : State) (m : Master) (v : Nat) :
    s.regWrite m x v = s.fnRefused 0 ∨ s.regWrite m x v = s.pktDataWrite v := by
  unfold State.regWrite
  rw [hx]
  exact ite_eq_or_eq _ _ _

section Induction

variable {P : State → Prop} (hreg : ∀ t m x v, P t → P (t.regWrite m x v)) (hhold : ∀ t m x v, P t → P (t.setHolding m x v))
  (hlost : ∀ t w l x, P t → P (t.superseded w l x))
include hreg hhold

theorem State.writeWord_induction {s : State} (h : P s) (m : Master) (x v : Nat) : P (s.writeWord m x v) := by
  unfold State.writeWord
  split
  · exact h
  · split
    · exact hreg _ _ _ _ h
    · split
      · exact hhold _ _ _ _ h
      · exact hreg _ _ _ _ (hhold _ _ _ _ h)

theorem State.busWrite_induction {s : State} (h : P s) (w : BusWr) : P (s.busWrite w) := by
  unfold State.busWrite
  extract_lets whole first
  split
  · exact hreg _ _ _ _ (hhold _ _ _ _ h)
  · refine State.each_induction _ h fun t k ht => ?_
    split
    · exact State.writeWord_induction hreg hhold ht _ _ _
    · exact ht

include hlost

/-- What register writes, the holding words and lost orders keep, a bus write with its rivals keeps. -/
theorem State.busOrder_induction {s : State} (h : P s) (o : BusOrder) : P (s.busOrder o) := by
  have hwrite (t : State) (w : BusWr) (ht : P t) : P (t.busWrite w) := State.busWrite_induction hreg hhold ht w
  unfold State.busOrder
  split
  · exact hwrite _ _ h
  · exact State.each_induction _ (State.each_induction _ h fun t r ht => hlost _ _ _ _ ht) hwrite

/-- ... and a cycle keeps what updates by hardware keep besides. -/
theorem State.busCycle_induction (hhw : ∀ t u, P t → P (t.hwSet u)) {s : State} (h : P s) (o : BusOrder) : P (s.busCycle o) :=
  State.each_induction _ (State.busOrder_induction hreg hhold hlost (State.each_induction _ h hhw) o) hhw

end Induction

theorem State.busCycle_mode (h : Same protMode a s) (o : BusOrder) : Same protMode a (s.busCycle o) :=
  State.busCycle_induction (P := Same protMode a) (fun _ _ _ _ h => State.regWrite_mode h _ _ _)
    (fun _ _ _ _ h => State.setHolding_same (by decide) h _ _ _) (fun _ _ _ _ h => State.superseded_same (by decide) h _ _ _)
    (fun _ _ h => State.hwSet_mode h _) h o

theorem execRegWrite_mode (h : Same protMode a s) (x : ChainTx) (off v : Nat) (y : CycleInfo) : SameR protMode a (execRegWrite x off v y s) :=
  sameR_next (State.chainWrite_same (by decide) h _ _ _ _ fun _ h =>
    same_ite (State.leave_same (by decide) (State.busCycle_mode h _) _) (State.nack_same (by decide) h))

end Sys2Proof.Machine
end

section
/-!
SUPPORT. Every command but ten leaves the Pocket, the locks of its pages and its protection mode as they are: resets of registers, of
functions and of the whole part included (R10, R412, R484, R497, R500).
-/

namespace Sys2Proof.Machine

variable {s : State} {g : Piece}

/-! ## Cold resets -/

theorem SMap.get_filterMap {α : Type} {f : Nat × α → Option (Nat × α)} {k : Nat} (hkeep : ∀ v, f (k, v) = some (k, v))
    (hkey : ∀ e e', f e = some e' → e'.1 = e.1) (d : α) (m : SMap α) : SMap.get d (m.filterMap f) k = m.get d k := by
  induction m with
  | nil => rfl
  | cons e t ih =>
    obtain ⟨k', v⟩ := e
    by_cases hk : k' = k
    · rw [hk, List.filterMap_cons_some (hkeep v)]
      simp [SMap.get]
    · rw [SMap.get, if_neg hk]
      cases hf : f (k', v) with
      | none => rwa [List.filterMap_cons_none hf]
      | some e =>
        obtain ⟨k'', w⟩ := e
        have hk'' : k'' = k' := hkey _ _ hf
        rwa [List.filterMap_cons_some hf, SMap.get, if_neg (hk'' ▸ hk)]

theorem SMap.get_filter {α : Type} {p : Nat → Bool} {k : Nat} (hk : p k = true) (d : α) (m : SMap α) :
    SMap.get d (m.filter fun e => p e.1) k = m.get d k := by
  rw [← List.filterMap_eq_filter]
  refine SMap.get_filterMap (fun v => ?_) (fun e e' h => ?_) d m
  · exact if_pos hk
  · rw [(Option.guard_eq_some_iff.1 h).1]

theorem coldState_key {e e' : Nat × Nat} (h : coldState e = some e') : e'.1 = e.1 := by
  simp only [coldState, Option.ite_none_left_eq_some, Option.some.injEq] at h
  rw [← h.2]

theorem coldField_key (power : Bool) {e e' : Nat × Nat} (h : coldField power e = some e') : e'.1 = e.1 := by
  unfold coldField at h
  split at h
  · exact coldState_key h
  · simp only [Option.ite_none_right_eq_some, Option.some.injEq] at h
    rw [← h.2]

theorem State.coldReset_rd {f : Field} {power : Bool} (hf : (coldFieldIds power).contains f.ctorIdx = true)
    (hstate : f.ctorIdx ≠ Field.ctorIdx .TIL_STATUS_STATE) (s : State) (d i j : Nat) : (s.coldReset power).rd f d i j = s.rd f d i j := by
  obtain ⟨t, ⟨hpart, -, -, hfld, -⟩, hreset⟩ := s.coldReset_cases power
  have ht : t.rd f d i j = s.rd f d i j := by
    have hkeep (v : Nat) : coldField power (fieldKey f d i j, v) = some (fieldKey f d i j, v) := by
      rw [coldField, fieldKey, Nat.unpair_pair, if_neg hstate, if_pos hf]
    rw [State.rd, State.rd, hpart, hfld, SMap.get_filterMap hkeep fun _ _ => coldField_key power]
  rcases hreset with h | h
  · rw [h, State.rd_setAx, ht]
  · rw [h, ht]

theorem State.coldReset_ax {x : Aux} (hx : (coldAux.map Aux.ctorIdx).contains x.ctorIdx = true) (hshed : x ≠ .shedAt) (s : State)
    (power : Bool) (d i j : Nat) : (s.coldReset power).ax x d i j = s.ax x d i j := by
  obtain ⟨t, ⟨-, -, -, -, haux⟩, hreset⟩ := s.coldReset_cases power
  have ht : t.ax x d i j = s.ax x d i j := by
    rw [State.ax, State.ax, haux]
    refine SMap.get_filter (p := fun k => (coldAux.map Aux.ctorIdx).contains k.unpair.1) ?_ 0 s.aux
    rwa [auxKey, Nat.unpair_pair]
  rcases hreset with h | h
  · rw [h, State.ax_setAx, if_neg fun h => hshed h.1, ht]
  · rw [h, ht]

theorem State.coldReset_pocket (s : State) (power : Bool) : (s.coldReset power).pocket = s.pocket := by
  obtain ⟨t, ⟨-, -, hpocket, -⟩, h | h⟩ := s.coldReset_cases power <;> rw [h]
  · exact hpocket
  · exact hpocket

/-- A cold reset leaves the Pocket and its protection. -/
theorem State.coldReset_guard (hg : g ∈ guardPieces) (s : State) (power : Bool) : Same g s (s.coldReset power) := by
  obtain rfl | rfl | rfl := guard_cases hg
  · intro d i j
    refine State.coldReset_rd ?_ (by decide) s d i j
    cases power <;> decide
  · exact State.coldReset_ax (by decide) (by decide) s power
  · exact s.coldReset_pocket power

theorem execPerstNRelease_guard (hg : g ∈ guardPieces) (s : State) : SameR g s (execPerstNRelease s) :=
  sameR_next (same_ite (State.restartFrom3_same (quiet hg (by decide)) (s.coldReset_guard hg false)) (.refl g s))

theorem execSaveRestart_guard (hg : g ∈ guardPieces) (s : State) : SameR g s (execSaveRestart s) :=
  sameR_next (same_ite (State.powerGood_same (quiet hg (by decide))
    (setAx_same (quiet (w := (· == .aux .pllsOnce)) hg (by decide)) (s.coldReset_guard hg true) _ _ _ _)) (.refl g s))

theorem State.wearForgotten_guard (hg : g ∈ guardPieces) (s : State) : Same g s s.wearForgotten := by
  have hreset := s.coldReset_guard hg true
  obtain rfl | rfl | rfl := guard_cases hg
  · exact hreset
  · intro d i j
    refine Eq.trans ?_ (hreset d i j)
    refine SMap.get_filter (p := fun k => k.unpair.1 != Aux.ctorIdx .wear) ?_ 0 (s.coldReset true).aux
    rw [auxKey, Nat.unpair_pair]
    exact (by decide : (Aux.ctorIdx .pageLock != Aux.ctorIdx .wear) = true)
  · exact hreset

theorem State.chainForgotten_guard (hg : g ∈ guardPieces) {a : State} (h : Same g a s) : Same g a s.chainForgotten := by
  obtain rfl | rfl | rfl := guard_cases hg <;>
  · iterate 5 refine setAx_same (by decide) ?_ _ _ _ _
    exact h

theorem State.lifeCleared_guard (hg : g ∈ guardPieces) {a : State} (h : Same g a s) : Same g a s.lifeCleared := by
  simp only [State.lifeCleared, State.each_cons, State.each_nil]
  obtain rfl | rfl | rfl := guard_cases hg <;>
  · iterate 4 refine wr_same (by decide) ?_ _ _ _ _
    exact h

theorem execVddAonGood_guard (hg : g ∈ guardPieces) (s : State) : SameR g s (execVddAonGood s) := by
  refine sameR_next ?_
  rw [State.aonGood_eq]
  exact State.tokenOut_same (quiet hg (by decide)) (wr_same (quiet (w := (· == .fld .CHN_STAT_BYPASS)) hg (by decide))
    (State.lifeCleared_guard hg (State.chainForgotten_guard hg (s.wearForgotten_guard hg))) _ _ _ _)

/-! ## Every command but ten -/

/-- The commands that write the Pocket or its protection, or carry a write of the bus. -/
def reachesPocket : Instr → Bool
  | .pocketProtect .. | .keyEnrol .. | .keyRevoke .. | .pocketWrite .. | .pocketErase .. | .pktDataAccess .. | .powerFailTrip ..
  | .registerWrite .. | .regWrite .. | .chainPocketWrite .. => true
  | _ => false

theorem guardR {w : Piece → Bool} {r : Res} (hg : g ∈ guardPieces) (hmode : SameR protMode s r) (hrest : ∀ g, w g = false → SameR g s r)
    (hw : ([.aux .pageLock, .pocket] : List Piece).any w = false) : SameR g s r := by
  obtain ⟨hlock, hpocket, -⟩ : w (.aux .pageLock) = false ∧ w .pocket = false ∧ True := by simpa using hw
  obtain rfl | rfl | rfl := guard_cases hg
  · exact hmode
  · exact hrest _ hlock
  · exact hrest _ hpocket

/-- The split follows `exec`; each case is its command's frame law. -/
theorem exec_guard (hg : g ∈ guardPieces) (c : Instr) (hc : reachesPocket c = false) (s : State) : SameR g s (exec c s) :=
  match c with
  | .registerWrite .. => nomatch hc
  | .glbCapacityLowRead by' => execGlbCapacityLowRead_same (quiet hg (by decide)) (.refl g s) by'
  | .hemMseSumRead by' die tile q wide => execHemMseSumRead_same (quiet hg (by decide)) (.refl g s) by' die tile q wide
  | .tilCtrlRetire die tile o => execTilCtrlRetire_same (quiet hg (by decide)) (.refl g s) die tile o
  | .tilCtrlHoldWrite die tile o => execTilCtrlHoldWrite_same (quiet hg (by decide)) (.refl g s) die tile o
  | .tilCtrlPrecisionWrite die tile o => execTilCtrlPrecisionWrite_same (quiet hg (by decide)) (.refl g s) die tile o
  | .tilCtrlHandback die tile o => execTilCtrlHandback_same (quiet hg (by decide)) (.refl g s) die tile o
  | .spareTileTest die tiles => execSpareTileTest_same (quiet hg (by decide)) (.refl g s) die tiles
  | .recordTileFailure die tile cells conds => execRecordTileFailure_same (quiet hg (by decide)) (.refl g s) die tile cells conds
  | .repairDone die eng out => execRepairDone_same (quiet hg (by decide)) (.refl g s) die eng out
  | .drvCfgWrite die tile o => execDrvCfgWrite_same (quiet hg (by decide)) (.refl g s) die tile o
  | .drvSlewWrite die tile o => execDrvSlewWrite_same (quiet hg (by decide)) (.refl g s) die tile o
  | .drvCfgHandback die tile o => execDrvCfgHandback_same (quiet hg (by decide)) (.refl g s) die tile o
  | .wfmDataAccess die a => execWfmDataAccess_same (quiet hg (by decide)) (.refl g s) die a
  | .wfmPlayStart die player stop o => execWfmPlayStart_same (quiet hg (by decide)) (.refl g s) die player stop o
  | .wfmPlayStop die player o => execWfmPlayStop_same (quiet hg (by decide)) (.refl g s) die player o
  | .wfmPlayCancel die player o => execWfmPlayCancel_same (quiet hg (by decide)) (.refl g s) die player o
  | .wfmTimedStart die player => execWfmTimedStart_same (quiet hg (by decide)) (.refl g s) die player
  | .wfmTimedStop die player => execWfmTimedStop_same (quiet hg (by decide)) (.refl g s) die player
  | .wfmPointInterval die player => execWfmPointInterval_same (quiet hg (by decide)) (.refl g s) die player
  | .wfmStatHandback die o => execWfmStatHandback_same (quiet hg (by decide)) (.refl g s) die o
  | .hemCfgWrite die tile o => execHemCfgWrite_same (quiet hg (by decide)) (.refl g s) die tile o
  | .hemTapsWrite die tile o => execHemTapsWrite_same (quiet hg (by decide)) (.refl g s) die tile o
  | .hemCtrlClear die tile o => execHemCtrlClear_same (quiet hg (by decide)) (.refl g s) die tile o
  | .hemCtrlHandback die tile o => execHemCtrlHandback_same (quiet hg (by decide)) (.refl g s) die tile o
  | .conversionsEnd die tile out => execConversionsEnd_same (quiet hg (by decide)) (.refl g s) die tile out
  | .stitchStrobe => execStitchStrobe_same (quiet hg (by decide)) (.refl g s)
  | .periodMarker die => execPeriodMarker_same (quiet hg (by decide)) (.refl g s) die
  | .skewRemeasure die skew => execSkewRemeasure_same (quiet hg (by decide)) (.refl g s) die skew
  | .followerOff die => execFollowerOff_same (quiet hg (by decide)) (.refl g s) die
  | .followerRealign die => execFollowerRealign_same (quiet hg (by decide)) (.refl g s) die
  | .feederLoadDone die x => execFeederLoadDone_same (quiet hg (by decide)) (.refl g s) die x
  | .seamDue slot => execSeamDue_same (quiet hg (by decide)) (.refl g s) slot
  | .seamPass slot => execSeamPass_same (quiet hg (by decide)) (.refl g s) slot
  | .mapSwitchDrainLimit slot => execMapSwitchDrainLimit_same (quiet hg (by decide)) (.refl g s) slot
  | .accountingWindowEnd => execAccountingWindowEnd_same (quiet hg (by decide)) (.refl g s)
  | .yokeRoleMoveEnd => execYokeRoleMoveEnd_same (quiet hg (by decide)) (.refl g s)
  | .yokCtrlHoldAllWrite o => execYokCtrlHoldAllWrite_same (quiet hg (by decide)) (.refl g s) o
  | .yokCtrlSplitEnWrite o => execYokCtrlSplitEnWrite_same (quiet hg (by decide)) (.refl g s) o
  | .yokCtrlClear o => execYokCtrlClear_same (quiet hg (by decide)) (.refl g s) o
  | .yokCtrlHandback o => execYokCtrlHandback_same (quiet hg (by decide)) (.refl g s) o
  | .yokPeriodWrite o => execYokPeriodWrite_same (quiet hg (by decide)) (.refl g s) o
  | .yokThrottleWrite o => execYokThrottleWrite_same (quiet hg (by decide)) (.refl g s) o
  | .jobDispatch => execJobDispatch_same (quiet hg (by decide)) (.refl g s)
  | .jobCommit job => execJobCommit_same (quiet hg (by decide)) (.refl g s) job
  | .barRelease job => execBarRelease_same (quiet hg (by decide)) (.refl g s) job
  | .memoryConditionRecheck t => execMemoryConditionRecheck_same (quiet hg (by decide)) (.refl g s) t
  | .seqCfgWrite die o => execSeqCfgWrite_same (quiet hg (by decide)) (.refl g s) die o
  | .seqCtrlDrainWrite die o => execSeqCtrlDrainWrite_same (quiet hg (by decide)) (.refl g s) die o
  | .seqCtrlHandback die o => execSeqCtrlHandback_same (quiet hg (by decide)) (.refl g s) die o
  | .nop t => execNop_same (quiet hg (by decide)) (.refl g s) t
  | .br t => execBr_same (quiet hg (by decide)) (.refl g s) t
  | .bri t => execBri_same (quiet hg (by decide)) (.refl g s) t
  | .brc t => execBrc_same (quiet hg (by decide)) (.refl g s) t
  | .loop t => execLoop_same (quiet hg (by decide)) (.refl g s) t
  | .endl t => execEndl_same (quiet hg (by decide)) (.refl g s) t
  | .lpop t => execLpop_same (quiet hg (by decide)) (.refl g s) t
  | .call t => execCall_same (quiet hg (by decide)) (.refl g s) t
  | .calli t => execCalli_same (quiet hg (by decide)) (.refl g s) t
  | .ret t => execRet_same (quiet hg (by decide)) (.refl g s) t
  | .wait t => execWait_same (quiet hg (by decide)) (.refl g s) t
  | .waitEq t => execWaitEq_same (quiet hg (by decide)) (.refl g s) t
  | .waitNe t => execWaitNe_same (quiet hg (by decide)) (.refl g s) t
  | .waitGeu t => execWaitGeu_same (quiet hg (by decide)) (.refl g s) t
  | .trap t => execTrap_same (quiet hg (by decide)) (.refl g s) t
  | .halt t => execHalt_same (quiet hg (by decide)) (.refl g s) t
  | .ctx t => execCtx_same (quiet hg (by decide)) (.refl g s) t
  | .aluImmediate t => execAluImmediate_same (quiet hg (by decide)) (.refl g s) t
  | .aluRegister t => execAluRegister_same (quiet hg (by decide)) (.refl g s) t
  | .cmp t => execCmp_same (quiet hg (by decide)) (.refl g s) t
  | .cmpi t => execCmpi_same (quiet hg (by decide)) (.refl g s) t
  | .predicateOp t => execPredicateOp_same (quiet hg (by decide)) (.refl g s) t
  | .tdset t => execTdset_same (quiet hg (by decide)) (.refl g s) t
  | .tdget t => execTdget_same (quiet hg (by decide)) (.refl g s) t
  | .tdld t => execTdld_same (quiet hg (by decide)) (.refl g s) t
  | .tdst t => execTdst_same (quiet hg (by decide)) (.refl g s) t
  | .tdcpy t => execTdcpy_same (quiet hg (by decide)) (.refl g s) t
  | .tdinv t => execTdinv_same (quiet hg (by decide)) (.refl g s) t
  | .tdadd t => execTdadd_same (quiet hg (by decide)) (.refl g s) t
  | .load t => execLoad_same (quiet hg (by decide)) (.refl g s) t
  | .store t => execStore_same (quiet hg (by decide)) (.refl g s) t
  | .movt t => execMovt_same (quiet hg (by decide)) (.refl g s) t
  | .gather t => execGather_same (quiet hg (by decide)) (.refl g s) t
  | .scatter t => execScatter_same (quiet hg (by decide)) (.refl g s) t
  | .scldE t => execScldE_same (quiet hg (by decide)) (.refl g s) t
  | .scldT t => execScldT_same (quiet hg (by decide)) (.refl g s) t
  | .stitch t => execStitch_same (quiet hg (by decide)) (.refl g s) t
  | .rstitch t => execRstitch_same (quiet hg (by decide)) (.refl g s) t
  | .swait t => execSwait_same (quiet hg (by decide)) (.refl g s) t
  | .rot t => execRot_same (quiet hg (by decide)) (.refl g s) t
  | .mapsel t => execMapsel_same (quiet hg (by decide)) (.refl g s) t
  | .mm t => execMm_same (quiet hg (by decide)) (.refl g s) t
  | .mmt t => execMmt_same (quiet hg (by decide)) (.refl g s) t
  | .mma t => execMma_same (quiet hg (by decide)) (.refl g s) t
  | .mmat t => execMmat_same (quiet hg (by decide)) (.refl g s) t
  | .ew t => execEw_same (quiet hg (by decide)) (.refl g s) t
  | .red t => execRed_same (quiet hg (by decide)) (.refl g s) t
  | .smax t => execSmax_same (quiet hg (by decide)) (.refl g s) t
  | .normLayer t => execNormLayer_same (quiet hg (by decide)) (.refl g s) t
  | .normRms t => execNormRms_same (quiet hg (by decide)) (.refl g s) t
  | .qnt t => execQnt_same (quiet hg (by decide)) (.refl g s) t
  | .dqnt t => execDqnt_same (quiet hg (by decide)) (.refl g s) t
  | .bar t => execBar_same (quiet hg (by decide)) (.refl g s) t
  | .fence t => execFence_same (quiet hg (by decide)) (.refl g s) t
  | .signalSet t => execSignalSet_same (quiet hg (by decide)) (.refl g s) t
  | .signalAdd t => execSignalAdd_same (quiet hg (by decide)) (.refl g s) t
  | .signalMaxu t => execSignalMaxu_same (quiet hg (by decide)) (.refl g s) t
  | .evpost t => execEvpost_same (quiet hg (by decide)) (.refl g s) t
  | .cpost t => execCpost_same (quiet hg (by decide)) (.refl g s) t
  | .cal t rival => execCal_same (quiet hg (by decide)) (.refl g s) t rival
  | .clear t rival => execClear_same (quiet hg (by decide)) (.refl g s) t rival
  | .prog t rival => execProg_same (quiet hg (by decide)) (.refl g s) t rival
  | .verify t rival => execVerify_same (quiet hg (by decide)) (.refl g s) t rival
  | .refresh t rival => execRefresh_same (quiet hg (by decide)) (.refl g s) t rival
  | .arrayBlockEnd die opwait stall short x => execArrayBlockEnd_same (quiet hg (by decide)) (.refl g s) die opwait stall short x
  | .dgaCtrlHoldWrite die o => execDgaCtrlHoldWrite_same (quiet hg (by decide)) (.refl g s) die o
  | .dgaCtrlClear die o => execDgaCtrlClear_same (quiet hg (by decide)) (.refl g s) die o
  | .dgaCtrlHandback die o => execDgaCtrlHandback_same (quiet hg (by decide)) (.refl g s) die o
  | .dmaDescriptorDone e => execDmaDescriptorDone_same (quiet hg (by decide)) (.refl g s) e
  | .imageLoad id parts => execImageLoad_same (quiet hg (by decide)) (.refl g s) id parts
  | .imageLoadComplete id bytes => execImageLoadComplete_same (quiet hg (by decide)) (.refl g s) id bytes
  | .imageEvict id => execImageEvict_same (quiet hg (by decide)) (.refl g s) id
  | .slotProgram id => execSlotProgram_same (quiet hg (by decide)) (.refl g s) id
  | .slotSwitch id => execSlotSwitch_same (quiet hg (by decide)) (.refl g s) id
  | .slotReplace id => execSlotReplace_same (quiet hg (by decide)) (.refl g s) id
  | .mapFree id => execMapFree_same (quiet hg (by decide)) (.refl g s) id
  | .slotFree id => execSlotFree_same (quiet hg (by decide)) (.refl g s) id
  | .slotFreeDrainEnd id => execSlotFreeDrainEnd_same (quiet hg (by decide)) (.refl g s) id
  | .slotInfo id => execSlotInfo_same (quiet hg (by decide)) (.refl g s) id
  | .keyEnrol .. => nomatch hc
  | .keyRevoke .. => nomatch hc
  | .progFinish die eng out => execProgFinish_same (quiet hg (by decide)) (.refl g s) die eng out
  | .clearFinish die eng reads => execClearFinish_same (quiet hg (by decide)) (.refl g s) die eng reads
  | .verifyFinish die eng counts => execVerifyFinish_same (quiet hg (by decide)) (.refl g s) die eng counts
  | .prgCtrlHoldWrite die o => execPrgCtrlHoldWrite_same (quiet hg (by decide)) (.refl g s) die o
  | .prgCtrlClear die o => execPrgCtrlClear_same (quiet hg (by decide)) (.refl g s) die o
  | .prgCtrlHandback die o =>
    guardR hg (execPrgCtrlHandback_mode (.refl _ s) die o) (fun _ hw => execPrgCtrlHandback_same hw (.refl _ s) die o) (by decide)
  | .prgStoreWrite die o => execPrgStoreWrite_same (quiet hg (by decide)) (.refl g s) die o
  | .driftInterval die x conv => execDriftInterval_same (quiet hg (by decide)) (.refl g s) die x conv
  | .traceDue die => execTraceDue_same (quiet hg (by decide)) (.refl g s) die
  | .traceEnd die rho => execTraceEnd_same (quiet hg (by decide)) (.refl g s) die rho
  | .traceRetry die => execTraceRetry_same (quiet hg (by decide)) (.refl g s) die
  | .quickCalEnd die tile out => execQuickCalEnd_same (quiet hg (by decide)) (.refl g s) die tile out
  | .fullCalStart die => execFullCalStart_same (quiet hg (by decide)) (.refl g s) die
  | .fullCalEnd die tile out => execFullCalEnd_same (quiet hg (by decide)) (.refl g s) die tile out
  | .periodicFullCalDue die tile => execPeriodicFullCalDue_same (quiet hg (by decide)) (.refl g s) die tile
  | .recordHourlySave die => execRecordHourlySave_same (quiet hg (by decide)) (.refl g s) die
  | .refreshEnd die tile => execRefreshEnd_same (quiet hg (by decide)) (.refl g s) die tile
  | .calCtrlHoldWrite die o => execCalCtrlHoldWrite_same (quiet hg (by decide)) (.refl g s) die o
  | .calCtrlClear die o => execCalCtrlClear_same (quiet hg (by decide)) (.refl g s) die o
  | .calCtrlHandback die o =>
    guardR hg (execCalCtrlHandback_mode (.refl _ s) die o) (fun _ hw => execCalCtrlHandback_same hw (.refl _ s) die o) (by decide)
  | .calCtrlTrace die o => execCalCtrlTrace_same (quiet hg (by decide)) (.refl g s) die o
  | .calTabDataAccess die a => execCalTabDataAccess_same (quiet hg (by decide)) (.refl g s) die a
  | .calHandbackGo die tile o => execCalHandbackGo_same (quiet hg (by decide)) (.refl g s) die tile o
  | .mcvEntryStart die => execMcvEntryStart_same (quiet hg (by decide)) (.refl g s) die
  | .mcvEntryEnd die codeA codeB half => execMcvEntryEnd_same (quiet hg (by decide)) (.refl g s) die codeA codeB half
  | .urgentRequest die kind who => execUrgentRequest_same (quiet hg (by decide)) (.refl g s) die kind who
  | .urgentConversionEnd die conv => execUrgentConversionEnd_same (quiet hg (by decide)) (.refl g s) die conv
  | .selfCalDue die => execSelfCalDue_same (quiet hg (by decide)) (.refl g s) die
  | .selfCalEnd die conv cal => execSelfCalEnd_same (quiet hg (by decide)) (.refl g s) die conv cal
  | .mcvCtrlModeWrite die o => execMcvCtrlModeWrite_same (quiet hg (by decide)) (.refl g s) die o
  | .mcvCtrlHoldWrite die o => execMcvCtrlHoldWrite_same (quiet hg (by decide)) (.refl g s) die o
  | .mcvCtrlScal die o => execMcvCtrlScal_same (quiet hg (by decide)) (.refl g s) die o
  | .mcvCtrlClear die o => execMcvCtrlClear_same (quiet hg (by decide)) (.refl g s) die o
  | .mcvCtrlHandback die o =>
    guardR hg (execMcvCtrlHandback_mode (.refl _ s) die o) (fun _ hw => execMcvCtrlHandback_same hw (.refl _ s) die o) (by decide)
  | .mcvTrigGo die o => execMcvTrigGo_same (quiet hg (by decide)) (.refl g s) die o
  | .mcvTimedTrigger die => execMcvTimedTrigger_same (quiet hg (by decide)) (.refl g s) die
  | .simultaneousConversionEnd die codeA codeB => execSimultaneousConversionEnd_same (quiet hg (by decide)) (.refl g s) die codeA codeB
  | .tlmStart stream stop o => execTlmStart_same (quiet hg (by decide)) (.refl g s) stream stop o
  | .tlmStop stream o => execTlmStop_same (quiet hg (by decide)) (.refl g s) stream o
  | .tlmCancel stream o => execTlmCancel_same (quiet hg (by decide)) (.refl g s) stream o
  | .tlmTimedStart stream => execTlmTimedStart_same (quiet hg (by decide)) (.refl g s) stream
  | .tlmTimedStop stream => execTlmTimedStop_same (quiet hg (by decide)) (.refl g s) stream
  | .tlmPeriodSample stream => execTlmPeriodSample_same (quiet hg (by decide)) (.refl g s) stream
  | .tlmRdidxWrite stream o => execTlmRdidxWrite_same (quiet hg (by decide)) (.refl g s) stream o
  | .bnkOwnerWrite die bank o => execBnkOwnerWrite_same (quiet hg (by decide)) (.refl g s) die bank o
  | .bankHandover die bank => execBankHandover_same (quiet hg (by decide)) (.refl g s) die bank
  | .bankZeroingEnd die bank => execBankZeroingEnd_same (quiet hg (by decide)) (.refl g s) die bank
  | .bnkCtrlClear die o => execBnkCtrlClear_same (quiet hg (by decide)) (.refl g s) die o
  | .bnkCtrlHandback die o =>
    guardR hg (execBnkCtrlHandback_mode (.refl _ s) die o) (fun _ hw => execBnkCtrlHandback_same hw (.refl _ s) die o) (by decide)
  | .bnkDiagGo die collide o => execBnkDiagGo_same (quiet hg (by decide)) (.refl g s) die collide o
  | .bankScrub die corr bad => execBankScrub_same (quiet hg (by decide)) (.refl g s) die corr bad
  | .lpddrPatrolScrub die offs flips => execLpddrPatrolScrub_same (quiet hg (by decide)) (.refl g s) die offs flips
  | .wck2dqDrift die ch => execWck2dqDrift_same (quiet hg (by decide)) (.refl g s) die ch
  | .retrainEnd die ch x => execRetrainEnd_same (quiet hg (by decide)) (.refl g s) die ch x
  | .memCtrlRetrain die o => execMemCtrlRetrain_same (quiet hg (by decide)) (.refl g s) die o
  | .memCtrlClear die o => execMemCtrlClear_same (quiet hg (by decide)) (.refl g s) die o
  | .memCtrlHandback die o =>
    guardR hg (execMemCtrlHandback_mode (.refl _ s) die o) (fun _ hw => execMemCtrlHandback_same hw (.refl _ s) die o) (by decide)
  | .memCfgWrite die o => execMemCfgWrite_same (quiet hg (by decide)) (.refl g s) die o
  | .qpCfgEnable entry o => execQpCfgEnable_same (quiet hg (by decide)) (.refl g s) entry o
  | .qpCfgDisable entry o => execQpCfgDisable_same (quiet hg (by decide)) (.refl g s) entry o
  | .qpDrainEnd q => execQpDrainEnd_same (quiet hg (by decide)) (.refl g s) q
  | .qpSqtailWrite entry o => execQpSqtailWrite_same (quiet hg (by decide)) (.refl g s) entry o
  | .qpCqheadWrite entry o => execQpCqheadWrite_same (quiet hg (by decide)) (.refl g s) entry o
  | .descriptorFetch q data rival => execDescriptorFetch_same (quiet hg (by decide)) (.refl g s) q data rival
  | .parkedCommandEligible id => execParkedCommandEligible_same (quiet hg (by decide)) (.refl g s) id
  | .cmdNop id => execCmdNop_same (quiet hg (by decide)) (.refl g s) id
  | .jobSubmit id => execJobSubmit_same (quiet hg (by decide)) (.refl g s) id
  | .jobAbort id => execJobAbort_same (quiet hg (by decide)) (.refl g s) id
  | .programLoad id obj => execProgramLoad_same (quiet hg (by decide)) (.refl g s) id obj
  | .programUnload id => execProgramUnload_same (quiet hg (by decide)) (.refl g s) id
  | .programUnloadEffect h => execProgramUnloadEffect_same (quiet hg (by decide)) (.refl g s) h
  | .resAlloc id => execResAlloc_same (quiet hg (by decide)) (.refl g s) id
  | .resFree id => execResFree_same (quiet hg (by decide)) (.refl g s) id
  | .bankHost id => execBankHost_same (quiet hg (by decide)) (.refl g s) id
  | .evict id => execEvict_same (quiet hg (by decide)) (.refl g s) id
  | .fnqQuotaWrite fn kind o => execFnqQuotaWrite_same (quiet hg (by decide)) (.refl g s) fn kind o
  | .fnqGrantWrite fn slot o => execFnqGrantWrite_same (quiet hg (by decide)) (.refl g s) fn slot o
  | .functionLevelReset fn =>
    guardR hg (execFunctionLevelReset_mode (.refl _ s) fn) (fun _ hw => execFunctionLevelReset_same hw (.refl _ s) fn) (by decide)
  | .hotReset => guardR hg (execHotReset_mode (.refl _ s)) (fun _ hw => execHotReset_same hw (.refl _ s)) (by decide)
  | .bar2Access fn addr size x => execBar2Access_same (quiet hg (by decide)) (.refl g s) fn addr size x
  | .evrCtrlEnable fn o => execEvrCtrlEnable_same (quiet hg (by decide)) (.refl g s) fn o
  | .evrHeadWrite fn o => execEvrHeadWrite_same (quiet hg (by decide)) (.refl g s) fn o
  | .msixModerationTimeout fn vec => execMsixModerationTimeout_same (quiet hg (by decide)) (.refl g s) fn vec
  | .msixUnmask fn vec o => execMsixUnmask_same (quiet hg (by decide)) (.refl g s) fn vec o
  | .bankPortWaitTimeout die bank job => execBankPortWaitTimeout_same (quiet hg (by decide)) (.refl g s) die bank job
  | .dieLinkTimeout link jobs => execDieLinkTimeout_same (quiet hg (by decide)) (.refl g s) link jobs
  | .lpddrCommandTimeout die off jobs => execLpddrCommandTimeout_same (quiet hg (by decide)) (.refl g s) die off jobs
  | .dmaDescriptorTimeout die eng issue => execDmaDescriptorTimeout_same (quiet hg (by decide)) (.refl g s) die eng issue
  | .sequencerProgressTimeout die seq => execSequencerProgressTimeout_same (quiet hg (by decide)) (.refl g s) die seq
  | .feedQueueStarvation queue => execFeedQueueStarvation_same (quiet hg (by decide)) (.refl g s) queue
  | .jobWatchdog job => execJobWatchdog_same (quiet hg (by decide)) (.refl g s) job
  | .chainTransactionTimeout => execChainTransactionTimeout_same (quiet hg (by decide)) (.refl g s)
  | .mgmtWatchdogMiss die =>
    guardR hg (execMgmtWatchdogMiss_mode (.refl _ s) die) (fun _ hw => execMgmtWatchdogMiss_same hw (.refl _ s) die) (by decide)
  | .dieRestore id r => execDieRestore_same (quiet hg (by decide)) (.refl g s) id r
  | .pairHandover id => execPairHandover_same (quiet hg (by decide)) (.refl g s) id
  | .mirRegion id answer => execMirRegion_same (quiet hg (by decide)) (.refl g s) id answer
  | .heartbeatSend => execHeartbeatSend_same (quiet hg (by decide)) (.refl g s)
  | .heartbeatFlit h rank epoch time roles => execHeartbeatFlit_same (quiet hg (by decide)) (.refl g s) h rank epoch time roles
  | .ackFlit h => execAckFlit_same (quiet hg (by decide)) (.refl g s) h
  | .nakFlit h => execNakFlit_same (quiet hg (by decide)) (.refl g s) h
  | .journalFlit h fn m => execJournalFlit_same (quiet hg (by decide)) (.refl g s) h fn m
  | .stateFlit h fn m => guardR hg (execStateFlit_mode (.refl _ s) h fn m) (fun _ hw => execStateFlit_same hw (.refl _ s) h fn m) (by decide)
  | .doorbellFlit h fn entry v x => execDoorbellFlit_same (quiet hg (by decide)) (.refl g s) h fn entry v x
  | .orderFlit h m rival => guardR hg (execOrderFlit_mode (.refl _ s) h m rival) (fun _ hw => execOrderFlit_same hw (.refl _ s) h m rival) (by decide)
  | .flitReplayTimer => execFlitReplayTimer_same (quiet hg (by decide)) (.refl g s)
  | .mirrorLinkTrained lanes => execMirrorLinkTrained_same (quiet hg (by decide)) (.refl g s) lanes
  | .ackTimeout job => execAckTimeout_same (quiet hg (by decide)) (.refl g s) job
  | .heartbeatTimeout => execHeartbeatTimeout_same (quiet hg (by decide)) (.refl g s)
  | .takeoverRankWaitEnd => execTakeoverRankWaitEnd_same (quiet hg (by decide)) (.refl g s)
  | .pairTakeSeen => execPairTakeSeen_same (quiet hg (by decide)) (.refl g s)
  | .takeoverGuardEnd => execTakeoverGuardEnd_same (quiet hg (by decide)) (.refl g s)
  | .mirCfgEnableWrite o => execMirCfgEnableWrite_same (quiet hg (by decide)) (.refl g s) o
  | .mirCfgHandback o => execMirCfgHandback_same (quiet hg (by decide)) (.refl g s) o
  | .mirCtrlRelease o => execMirCtrlRelease_same (quiet hg (by decide)) (.refl g s) o
  | .mirCtrlResync o => execMirCtrlResync_same (quiet hg (by decide)) (.refl g s) o
  | .mirCtrlClear o => execMirCtrlClear_same (quiet hg (by decide)) (.refl g s) o
  | .mirFnMirroredWrite fn o => execMirFnMirroredWrite_guard hg (.refl g s) fn o
  | .fltCtrlClear o => execFltCtrlClear_same (quiet hg (by decide)) (.refl g s) o
  | .sourceLoss src die pll => execSourceLoss_same (quiet hg (by decide)) (.refl g s) src die pll
  | .sourceReady src => execSourceReady_same (quiet hg (by decide)) (.refl g s) src
  | .clockOneShotExpiry => execClockOneShotExpiry_same (quiet hg (by decide)) (.refl g s)
  | .pllRelockDone p => execPllRelockDone_same (quiet hg (by decide)) (.refl g s) p
  | .clkPllWrite p o => execClkPllWrite_same (quiet hg (by decide)) (.refl g s) p o
  | .clkCtrlMgmtSrcWrite o => execClkCtrlMgmtSrcWrite_same (quiet hg (by decide)) (.refl g s) o
  | .clkCtrlRootWrite o => execClkCtrlRootWrite_same (quiet hg (by decide)) (.refl g s) o
  | .clkCtrlHandback o => execClkCtrlHandback_same (quiet hg (by decide)) (.refl g s) o
  | .clkGateWrite kind die o => execClkGateWrite_same (quiet hg (by decide)) (.refl g s) kind die o
  | .gateOffEffect kind die => execGateOffEffect_same (quiet hg (by decide)) (.refl g s) kind die
  | .clkDtctrlSet o => execClkDtctrlSet_same (quiet hg (by decide)) (.refl g s) o
  | .clkDtctrlSetPps o => execClkDtctrlSetPps_same (quiet hg (by decide)) (.refl g s) o
  | .timePpsEdge => execTimePpsEdge_same (quiet hg (by decide)) (.refl g s)
  | .ppsLossTimeout => execPpsLossTimeout_same (quiet hg (by decide)) (.refl g s)
  | .powerMeasure meas => execPowerMeasure_same (quiet hg (by decide)) (.refl g s) meas
  | .thermalCheck die t => execThermalCheck_same (quiet hg (by decide)) (.refl g s) die t
  | .thermalRestoreStep die t => execThermalRestoreStep_same (quiet hg (by decide)) (.refl g s) die t
  | .thermalComparatorTrip die t => execThermalComparatorTrip_same (quiet hg (by decide)) (.refl g s) die t
  | .pwrShedAssert => execPwrShedAssert_same (quiet hg (by decide)) (.refl g s)
  | .pwrShedRelease => execPwrShedRelease_same (quiet hg (by decide)) (.refl g s)
  | .shedDutyStep => execShedDutyStep_same (quiet hg (by decide)) (.refl g s)
  | .shedRestoreStep => execShedRestoreStep_same (quiet hg (by decide)) (.refl g s)
  | .shedWindowEnd mean => execShedWindowEnd_same (quiet hg (by decide)) (.refl g s) mean
  | .shedAdviseExpiry => execShedAdviseExpiry_same (quiet hg (by decide)) (.refl g s)
  | .pwrCtrlHandback o => execPwrCtrlHandback_guard hg (.refl g s) o
  | .powerGood => execPowerGood_same (quiet hg (by decide)) (.refl g s)
  | .startUpStepDone step x =>
    guardR hg (execStartUpStepDone_mode (.refl _ s) step x) (fun _ hw => execStartUpStepDone_same hw (.refl _ s) step x) (by decide)
  | .startTimeout => guardR hg (execStartTimeout_mode (.refl _ s)) (fun _ hw => execStartTimeout_same hw (.refl _ s)) (by decide)
  | .startRetry id => execStartRetry_same (quiet hg (by decide)) (.refl g s) id
  | .perstNAssert => execPerstNAssert_same (quiet hg (by decide)) (.refl g s)
  | .perstNRelease => execPerstNRelease_guard hg s
  | .powerFailTrip .. => nomatch hc
  | .saveRestart => execSaveRestart_guard hg s
  | .railDip => execRailDip_same (quiet hg (by decide)) (.refl g s)
  | .railRecovered => execRailRecovered_same (quiet hg (by decide)) (.refl g s)
  | .pktDataAccess .. => nomatch hc
  | .pktUnlockWrite wide o => execPktUnlockWrite_same (quiet hg (by decide)) (.refl g s) wide o
  | .pktUnlockselRelock o => execPktUnlockselRelock_same (quiet hg (by decide)) (.refl g s) o
  | .pocketRead id => execPocketRead_same (quiet hg (by decide)) (.refl g s) id
  | .pocketWrite .. => nomatch hc
  | .pocketErase .. => nomatch hc
  | .pocketProtect .. => nomatch hc
  | .chnCfgPecWrite o => execChnCfgPecWrite_same (quiet hg (by decide)) (.refl g s) o
  | .vddAonGood => execVddAonGood_guard hg s
  | .bypassSwitchOpen => execBypassSwitchOpen_same (quiet hg (by decide)) (.refl g s)
  | .chainHeartbeatToggle => execChainHeartbeatToggle_same (quiet hg (by decide)) (.refl g s)
  | .chainSupervisorTimeout => execChainSupervisorTimeout_same (quiet hg (by decide)) (.refl g s)
  | .identify x => execIdentify_same (quiet hg (by decide)) (.refl g s) x
  | .assign x v => execAssign_same (quiet hg (by decide)) (.refl g s) x v
  | .clearAddr x => execClearAddr_same (quiet hg (by decide)) (.refl g s) x
  | .chainStatus x => execChainStatus_same (quiet hg (by decide)) (.refl g s) x
  | .regRead x off => execRegRead_same (quiet hg (by decide)) (.refl g s) x off
  | .regWrite .. => nomatch hc
  | .chainPocketRead x die page off count => execChainPocketRead_same (quiet hg (by decide)) (.refl g s) x die page off count
  | .chainPocketWrite .. => nomatch hc
  | .bypass x => execBypass_same (quiet hg (by decide)) (.refl g s) x
  | .lastStatus x => execLastStatus_same (quiet hg (by decide)) (.refl g s) x
  | .pairTakeReleased => execPairTakeReleased_same (quiet hg (by decide)) (.refl g s)
  | .dieLinkRetrained link => execDieLinkRetrained_same (quiet hg (by decide)) (.refl g s) link
  | .ppsErrorAbsorbed => execPpsErrorAbsorbed_same (quiet hg (by decide)) (.refl g s)

end Sys2Proof.Machine
end

section
/-!
PROOFS. The protection mode of the Pocket is set once, and nothing returns it to UNSET (R497).
-/

namespace Sys2Proof.Machine

variable {s : State}

theorem State.runCmd_induction {P : State → Prop} (h : P s) {f : State → Cmd → State} (hf : ∀ c, P (f s c)) (id op : Nat) :
    P (s.runCmd id op f) := by
  unfold State.runCmd
  split
  · exact h
  · exact hf _

/-! ## POCKET_PROTECT, action 0 -/

theorem State.setProtection_refused {c : Cmd} (hmode : s.rd .PKT_STAT_MODE ≠ 0) : s.setProtection c = s.completeCmd c stMalformed 0 :=
  if_pos (.inl hmode)

theorem State.setProtection_unset {c : Cmd} (hmode : s.rd .PKT_STAT_MODE = 0) (hlow : 1 ≤ c.b 17 1) (hhigh : c.b 17 1 ≤ 2) :
    s.setProtection c = ((s.wr .PKT_STAT_MODE (c.b 17 1)).protectEvent 0 0 0).completeCmd c stOK 0 :=
  if_neg (by omega)

theorem State.protected_mode {c : Cmd} {m : Nat} (hm : m ≤ 2) :
    (((s.wr .PKT_STAT_MODE m).protectEvent 0 0 0).completeCmd c stOK 0).rd .PKT_STAT_MODE = m := by
  have hkept : Same protMode (s.wr .PKT_STAT_MODE m) (((s.wr .PKT_STAT_MODE m).protectEvent 0 0 0).completeCmd c stOK 0) :=
    State.completeCmd_same (by decide) (State.protectEvent_same (by decide) (.refl _ _) _ _ _) _ _ _ _ _
  rw [rd_of_same hkept, State.rd_wr_same]
  exact Nat.mod_eq_of_lt (Nat.lt_of_le_of_lt hm (by decide))

theorem State.protected_completed (c : Cmd) (m : Nat) :
    Completed c stOK 0 s (((s.wr .PKT_STAT_MODE m).protectEvent 0 0 0).completeCmd c stOK 0) := by
  have hset : ∀ g ∈ completionReads, (g == .fld .PKT_STAT_MODE) = false := by decide
  have hevent : ∀ g ∈ completionReads, State.protectEvent_w g = false := by decide
  exact State.completeCmd_completed_of_same
    (fun g hg => State.protectEvent_same (hevent g hg) (wr_same (hset g hg) (.refl g s) _ _ _ _) _ _ _) c stOK 0

/-! ## Every command -/

theorem State.pocketProtect_mode (hmode : s.rd .PKT_STAT_MODE ≠ 0) (c : Cmd) : Same protMode s (s.pocketProtect c) := by
  refine same_ite ?_ (same_ite ?_ (same_ite ?_ ?_))
  · rw [State.setProtection_refused hmode]
    exact State.completeCmd_same (by decide) (.refl _ _) _ _ _ _ _
  · exact State.setPassword_same (by decide) (.refl _ _) _
  · exact State.lockPage_same (by decide) (.refl _ _) _
  · exact State.completeCmd_same (by decide) (.refl _ _) _ _ _ _ _

/-- Of the commands that reach the Pocket, POCKET_PROTECT alone writes the mode, and only where it is UNSET. -/
theorem exec_mode (hmode : s.rd .PKT_STAT_MODE ≠ 0) (c : Instr) : SameR protMode s (exec c s) := by
  cases hc : reachesPocket c with
  | false => exact exec_guard (by decide) c hc s
  | true =>
    unfold reachesPocket at hc
    split at hc
    case h_1 => exact sameR_next (State.runCmd_induction (.refl _ s) (State.pocketProtect_mode hmode) _ 0x53)
    case h_2 => exact execKeyEnrol_same (by decide) (.refl _ s) _ _
    case h_3 => exact execKeyRevoke_same (by decide) (.refl _ s) _
    case h_4 => exact execPocketWrite_same (by decide) (.refl _ s) _ _
    case h_5 => exact execPocketErase_same (by decide) (.refl _ s) _
    case h_6 => exact execPktDataAccess_same (by decide) (.refl _ s) _
    case h_7 => exact execPowerFailTrip_same (by decide) (.refl _ s) _
    case h_8 => exact sameR_next (State.busCycle_mode (.refl _ s) _)
    case h_9 => exact execRegWrite_mode (.refl _ s) _ _ _ _
    case h_10 => exact execChainPocketWrite_same (by decide) (.refl _ s) _ _ _ _ _ _ _
    case h_11 => nomatch hc

/-- Settles O60: by `exec_mode`, no command changes a mode that is set; a second attempt to set it completes with MALFORMED. -/
theorem protectionMode : Obligations.ProtectionMode := by
  refine ⟨rfl, ?sets, ?second, ?kept, ?opened, ?own⟩
  case sets =>
    intro s id c hready haction hmode hlow hhigh
    refine does_command rfl hready ?_
    rw [State.pocketProtect, if_pos haction, State.setProtection_unset hmode hlow hhigh]
    exact ⟨State.protected_mode hhigh, State.protected_completed ..⟩
  case second =>
    intro s id c hready haction hmode
    refine congrArg Host.Outcome.next ?_
    rw [State.runCmd_ready hready, State.pocketProtect, if_pos haction, State.setProtection_refused hmode]
  case kept =>
    intro c s t hmode hstep
    have hsame : SameR protMode s (.next t) := hstep ▸ exec_mode hmode c
    exact hsame 0 0 0
  case opened =>
    intro s d p hmode hp
    simp [State.pktRdOpen, State.pktWrOpen, State.regionOpen, hmode, hp]
  case own =>
    intro s p hp
    simp [State.pktRdOpen, hp]

end Sys2Proof.Machine
end

section
/-!
PROOFS. In mode LOCK a user page that is locked stays as it is: no command writes its bytes or lifts its lock (R491, R500).
-/

namespace Sys2Proof.Machine

/-- In mode LOCK, a page is locked and holds these bytes. -/
structure PageHeld (d p : Nat) (v : Nat → Byte) (s : State) : Prop where
  mode : s.rd .PKT_STAT_MODE = 2
  locked : s.pageLocked d p = true
  bytes : ∀ k, k < 4096 → s.pkt d p k = v k

variable {d p : Nat} {v : Nat → Byte} {s t : State}

namespace PageHeld

theorem of_same (h : PageHeld d p v s) (hs : ∀ g ∈ guardPieces, Same g s t) : PageHeld d p v t := by
  have hmode : Same protMode s t := hs _ (by decide)
  have hlock : Same (.aux .pageLock) s t := hs _ (by decide)
  have hpocket : t.pocket = s.pocket := hs .pocket (by decide)
  refine ⟨(rd_of_same hmode ..).trans h.mode, ?_, fun k hk => ?_⟩
  · rw [State.pageLocked, hlock, ← State.pageLocked, h.locked]
  · rw [State.pkt, hpocket, ← State.pkt, h.bytes k hk]

/-- An operation that may change none of the three. -/
theorem quiet {w : Piece → Bool} (h : PageHeld d p v s) (hs : ∀ g, w g = false → Same g s t) (hw : guardPieces.any w = false) :
    PageHeld d p v t :=
  h.of_same fun _ hg => hs _ (Machine.quiet hg hw)

theorem setAx_pageLock (h : PageHeld d p v s) {w d' p' : Nat} (hw : w ≠ 0 ∨ ¬(d = d' ∧ p = p')) :
    PageHeld d p v (s.setAx .pageLock w d' p') := by
  refine ⟨h.mode, ?_, h.bytes⟩
  rw [State.pageLocked, State.ax_setAx]
  split
  next heq =>
    obtain ⟨-, hd, hp, -⟩ := heq
    have hw : w ≠ 0 := hw.resolve_right (not_not.2 ⟨by omega, by omega⟩)
    simpa using hw
  next => exact h.locked

/-- A write of a page other than the locked one. -/
theorem pktWrite (h : PageHeld d p v s) (hp : p < 128) {d' p' off : Nat} {l : List Byte} (hp' : p' < 128) (hfit : off + l.length ≤ 4096)
    (hother : ¬(d = d' ∧ p = p')) : PageHeld d p v (s.pktWrite d' p' off l) :=
  ⟨h.mode, h.locked, fun k hk => (State.pkt_pktWrite_other hother hp' hp s hfit hk).trans (h.bytes k hk)⟩

/-- A page that may be written is not the locked one. -/
theorem other_of_open (h : PageHeld d p v s) {d' p' : Nat} (hopen : s.pktWrOpen d' p' = true) : ¬(d = d' ∧ p = p') := by
  rintro ⟨rfl, rfl⟩
  simp [State.pktWrOpen, h.mode, h.locked] at hopen

theorem completeCmd (h : PageHeld d p v s) (c : Cmd) (st res : Nat) : PageHeld d p v (s.completeCmd c st res) :=
  h.quiet (fun _ hw => State.completeCmd_same hw (.refl _ s) ..) (by decide)

theorem aer (h : PageHeld d p v s) (e : HostErr) : PageHeld d p v (s.aer e) :=
  h.quiet (fun _ hw => State.aer_same hw (.refl _ s) ..) (by decide)

theorem pktDenied (h : PageHeld d p v s) : PageHeld d p v s.pktDenied :=
  h.quiet (fun _ hw => State.pktDenied_same hw (.refl _ s)) (by decide)

theorem leave (h : PageHeld d p v s) (st : Nat) : PageHeld d p v (s.leave st) :=
  h.quiet (fun _ hw => State.leave_same hw (.refl _ s) _) (by decide)

theorem superseded (h : PageHeld d p v s) (w l : Master) (x : Nat) : PageHeld d p v (s.superseded w l x) :=
  h.quiet (fun _ hw => State.superseded_same hw (.refl _ s) ..) (by decide)

/-! ## Host commands -/

theorem pocketProtect (h : PageHeld d p v s) (c : Cmd) : PageHeld d p v (s.pocketProtect c) := by
  unfold State.pocketProtect
  split
  · rw [State.setProtection_refused (by rw [h.mode]; decide)]
    exact h.completeCmd ..
  · split
    · exact h.quiet (fun _ hw => State.setPassword_same hw (.refl _ s) _) (by decide)
    · split
      · unfold State.lockPage
        dsimp only
        split
        · exact h.completeCmd ..
        · split
          · exact h.completeCmd ..
          · have hlocked : PageHeld d p v (s.setAx .pageLock 1 (c.b 17 1) (c.b 18 1)) := h.setAx_pageLock (.inl one_ne_zero)
            exact (hlocked.quiet (fun _ hw => State.protectEvent_same hw (.refl _ _) ..) (by decide)).completeCmd ..
      · exact h.completeCmd ..

theorem keyEvent (h : PageHeld d p v s) (n k : Nat) : PageHeld d p v (s.keyEvent n k) :=
  h.quiet (fun _ hw => State.keyEvent_same hw (.refl _ s) ..) (by decide)

/-- The pages of the key table are no user pages. -/
theorem keyEnrol (h : PageHeld d p v s) (hp : 32 ≤ p) (hp' : p < 128) (c : Cmd) (hash : HostRead (BitVec 384)) :
    PageHeld d p v (s.keyEnrol c hash) := by
  unfold State.keyEnrol
  dsimp only
  split
  · exact (h.aer _).completeCmd ..
  · split
    · exact h.completeCmd ..
    next hn =>
      have hn : c.b 16 1 ≤ 7 := Nat.le_of_not_lt fun hlt => hn (.inl hlt)
      refine (keyEvent (State.each_induction _ h fun t e ht => ?_) ..).completeCmd ..
      exact (ht.pktWrite hp' (by omega) (by simp) (by omega)).setAx_pageLock (.inl one_ne_zero)

theorem revoked (h : PageHeld d p v s) (hp : 32 ≤ p) (hp' : p < 128) (n : Nat) (lock : Bool) : PageHeld d p v (s.revoked n lock) := by
  have hwritten : PageHeld d p v (s.each s.onlineDies fun s e => s.revokeOn n lock e) :=
    State.each_induction _ h fun t e ht => (ht.pktWrite hp' (by decide) (by simp) (by omega)).setAx_pageLock (.inr (by omega))
  unfold State.revoked
  dsimp only
  split
  · exact (hwritten.keyEvent ..).keyEvent ..
  · exact hwritten.keyEvent ..

theorem keyRevoke (h : PageHeld d p v s) (hp : 32 ≤ p) (hp' : p < 128) (c : Cmd) : PageHeld d p v (s.keyRevoke c) := by
  unfold State.keyRevoke
  dsimp only
  split
  · exact h.completeCmd ..
  · exact (h.revoked hp hp' (c.b 16 1) (bit (c.b 17 1) 0)).completeCmd ..

theorem writePages (hp : p < 128) (c : Cmd) {page : Nat → List Byte} (hpage : ∀ i, (page i).length ≤ 4096) (res : Nat → Nat)
    {l : List (Nat × Nat)} (hl : ∀ e ∈ l, e.1 < 128) (h : PageHeld d p v s) : PageHeld d p v (s.writePages c page res l) := by
  induction l generalizing s with
  | nil => exact h.completeCmd ..
  | cons e l ih =>
    rw [List.forall_mem_cons] at hl
    unfold State.writePages
    split
    next hopen => exact ih hl.2 (h.pktWrite hp hl.1 (by simpa using hpage e.2) (h.other_of_open hopen))
    next => exact h.pktDenied.completeCmd ..

theorem pages_of_span {c : Cmd} (hspan : s.pktSpan c = true) : ∀ e ∈ c.pages, e.1 < 128 := by
  simp only [State.pktSpan, decide_eq_true_eq] at hspan
  simp only [Cmd.pages, List.forall_mem_map, List.mem_range]
  omega

theorem pocketWrite (h : PageHeld d p v s) (hp : p < 128) (c : Cmd) (data : HostRead (List Byte)) : PageHeld d p v (s.pocketWrite c data) := by
  unfold State.pocketWrite
  split
  · split
    next hspan => exact h.writePages hp c (by simp) _ (pages_of_span hspan)
    next => exact h.completeCmd ..
  · exact (h.aer _).completeCmd ..

theorem pocketErase (h : PageHeld d p v s) (hp : p < 128) (c : Cmd) : PageHeld d p v (s.pocketErase c) := by
  unfold State.pocketErase
  split
  next hspan => exact h.writePages hp c (fun _ => (List.length_replicate ..).le) _ (pages_of_span hspan)
  next => exact h.completeCmd ..

/-! ## PKT_DATA and the bus -/

theorem pktDataWrite (h : PageHeld d p v s) (hp : p < 128) (w : Nat) : PageHeld d p v (s.pktDataWrite w) := by
  have hstored : PageHeld d p v (s.pktStore (s.rd .PKT_ADDR_DIE) (s.rd .PKT_ADDR_PAGE) (4 * s.rd .PKT_ADDR_WORD) (leBytes 4 w)) := by
    unfold State.pktStore
    split
    · exact h.quiet (fun _ hw => State.pktRefused_same hw (.refl _ s)) (by decide)
    next hin =>
      split
      · exact h.pktDenied
      next hopen => exact h.pktWrite hp (by omega) (by omega) (h.other_of_open (by simpa using hopen))
  exact hstored.quiet (fun _ hw => State.pktNext_same hw (.refl _ _)) (by decide)

theorem pktDataAccess (h : PageHeld d p v s) (hp : p < 128) {x : Access} (hstep : execPktDataAccess x s = .next t) : PageHeld d p v t := by
  unfold execPktDataAccess at hstep
  obtain rfl := Host.Outcome.next.inj hstep
  cases x with
  | read m =>
    dsimp only
    split
    · have hread : PageHeld d p v s.pktDataRead.2 := h.quiet (fun _ hw => State.pktDataRead_same hw (.refl _ s)) (by decide)
      exact hread.quiet (fun _ hw => State.emit_same hw (.refl _ _) _) (by decide)
    · exact h
  | write o =>
    have hwon : PageHeld d p v (s.arbitrate o (regAddr .PKT_DATA)).2 := h.quiet (fun _ hw => State.arbitrate_same hw (.refl _ s) ..) (by decide)
    exact hwon.pktDataWrite hp _

theorem regWrite (h : PageHeld d p v s) (hp : p < 128) (m : Master) (x : RegAt) (w : Nat) : PageHeld d p v (s.regWrite m x w) := by
  by_cases hx : x.reg = .PKT_DATA
  · obtain hforeign | hstore := s.regWrite_pktData hx m w
    · rw [hforeign]
      exact h.quiet (fun _ hw => State.fnRefused_same hw (.refl _ s) _) (by decide)
    · rw [hstore]
      exact h.pktDataWrite hp w
  · refine h.of_same fun g hg => ?_
    obtain rfl | rfl | rfl := guard_cases hg
    · exact State.regWrite_mode (.refl _ s) m x w
    · exact State.regWrite_same (by decide) (.refl _ s) m x w
    · exact State.regWrite_pocket hx s m w

theorem busCycle (hp : p < 128) (h : PageHeld d p v s) (o : BusOrder) : PageHeld d p v (s.busCycle o) :=
  State.busCycle_induction (P := PageHeld d p v) (fun _ m x w ht => ht.regWrite hp m x w)
    (fun t _ _ _ ht => ht.quiet (fun _ hw => State.setHolding_same hw (.refl _ t) ..) (by decide)) (fun _ w l x ht => ht.superseded w l x)
    (fun t u ht => ht.of_same fun g hg => by
      obtain rfl | rfl | rfl := guard_cases hg
      · exact State.hwSet_mode (.refl _ t) u
      · exact State.hwSet_same (by decide) (.refl _ t) u
      · exact State.hwSet_same (by decide) (.refl _ t) u) h o

/-! ## The management chain -/

theorem chainWrite (h : PageHeld d p v s) {f : State → State} (hf : ∀ t, PageHeld d p v t → PageHeld d p v (f t)) (x : ChainTx) (cmd : Nat)
    (args : List Byte) : PageHeld d p v (s.chainWrite x cmd args f) := by
  have htoken : PageHeld d p v (s.token x.tokenIn) := h.quiet (fun _ hw => State.token_same hw (.refl _ s) _) (by decide)
  unfold State.chainWrite
  dsimp only
  split
  · exact htoken.quiet (fun _ hw => State.nack_same hw (.refl _ _)) (by decide)
  · split
    · exact htoken.quiet (fun _ hw => State.pecError_same hw (.refl _ _)) (by decide)
    · exact hf _ htoken

/-- The write that stands stores its bytes where the page is open. -/
theorem chainStore (h : PageHeld d p v s) (hp : p < 128) {e q off : Nat} {l : List Byte} (hq : q < 128) (hfit : off + l.length ≤ 4096) :
    PageHeld d p v (if s.pktWrOpen e q then (s.pktWrite e q off l).leave stOK else s.pktDenied.leave stRejectedPrivilege) := by
  split
  next hopen => exact (h.pktWrite hp hq hfit (h.other_of_open hopen)).leave _
  next => exact h.pktDenied.leave _

theorem chainPocketWrite (h : PageHeld d p v s) (hp : p < 128) (e q off n : Nat) (l : List Byte) (rival : Option Master) :
    PageHeld d p v (s.chainPocketWrite e q off n l rival) := by
  unfold State.chainPocketWrite
  split
  · exact h.leave _
  next hin =>
    have hspan : s.chainSpan e q off n = true := by simp_all
    have hl : l.length = n := by simp_all
    simp only [State.chainSpan, decide_eq_true_eq] at hspan
    obtain ⟨-, hq, -, -, hfit⟩ := hspan
    rw [← hl] at hfit
    cases rival with
    | none => exact h.chainStore hp hq hfit
    | some r =>
      dsimp only
      split
      · exact (h.superseded ..).leave _
      · exact (h.superseded ..).chainStore hp hq hfit

/-! ## Power failure -/

theorem shadowRecord_length (s : State) (e seq : Nat) : (s.shadowRecord e seq).length = 3360 := by
  simp only [State.shadowRecord, List.length_append, List.length_flatMap, leBytes_length, List.map_const', List.sum_replicate, List.length_range]
  rfl

theorem saveShadows (h : PageHeld d p v s) (hp : 32 ≤ p) (hp' : p < 128) : PageHeld d p v s.saveShadows := by
  refine State.each_induction _ h fun t e ht => ?_
  have hcopy : t.saveCopy e ≤ 1 := by
    unfold State.saveCopy
    split_ifs <;> omega
  refine ht.pktWrite hp' ?_ ?_ ?_
  · rw [shadowPage]
    omega
  · rw [shadowRecord_length]
    decide
  · rw [shadowPage]
    omega

theorem powerFail (h : PageHeld d p v s) (hp : 32 ≤ p) (hp' : p < 128) (charged : Bool) : PageHeld d p v (s.powerFail charged) := by
  have hsafe : PageHeld d p v s.cutStart.enterSafe :=
    (h.quiet (fun _ hw => State.cutStart_same hw (.refl _ s)) (by decide)).quiet (fun _ hw => State.enterSafe_same hw (.refl _ _)) (by decide)
  have hsaved : PageHeld d p v (if s.cutStart.enterSafe.part.dies = 8 ∧ !charged then s.cutStart.enterSafe.setAx .shadowSkip 1
      else s.cutStart.enterSafe.saveShadows) := by
    split
    · exact hsafe.quiet (fun _ hw => setAx_same hw (.refl _ _) ..) (by decide)
    · exact hsafe.saveShadows hp hp'
  have hended (l : List Nat) := hsaved.quiet (fun _ hw => State.each_same (.refl _ _) l (fun s i => s.endJobSilently i)
    fun _ _ h => State.endJobSilently_same hw h _) (by decide)
  exact (hended _).quiet (fun _ hw => setAx_same hw (.refl _ _) ..) (by decide)

/-- Every command keeps a locked page: ten reach the Pocket at all, and none of these writes a page that is locked. -/
theorem exec (h : PageHeld d p v s) (hp : 32 ≤ p) (hp' : p < 128) {c : Instr} (hstep : Machine.exec c s = .next t) : PageHeld d p v t := by
  cases hc : reachesPocket c with
  | false =>
    refine h.of_same fun g hg => ?_
    have hsame : SameR g s (.next t) := hstep ▸ exec_guard hg c hc s
    exact hsame
  | true =>
    unfold reachesPocket at hc
    split at hc
    case h_1 =>
      obtain rfl := Host.Outcome.next.inj hstep
      exact State.runCmd_induction h (fun c => h.pocketProtect c) _ 0x53
    case h_2 =>
      obtain rfl := Host.Outcome.next.inj hstep
      exact State.runCmd_induction h (fun c => h.keyEnrol hp hp' c _) _ opKeyEnrol
    case h_3 =>
      obtain rfl := Host.Outcome.next.inj hstep
      exact State.runCmd_induction h (fun c => h.keyRevoke hp hp' c) _ opKeyRevoke
    case h_4 =>
      obtain rfl := Host.Outcome.next.inj hstep
      exact State.runCmd_induction h (fun c => h.pocketWrite hp' c _) _ 0x51
    case h_5 =>
      obtain rfl := Host.Outcome.next.inj hstep
      exact State.runCmd_induction h (fun c => h.pocketErase hp' c) _ 0x52
    case h_6 => exact h.pktDataAccess hp' hstep
    case h_7 =>
      obtain rfl := Host.Outcome.next.inj hstep
      split
      · exact h
      · exact h.powerFail hp hp' _
    case h_8 =>
      obtain rfl := Host.Outcome.next.inj hstep
      exact h.busCycle hp' _
    case h_9 =>
      obtain rfl := Host.Outcome.next.inj hstep
      refine h.chainWrite (fun u hu => ?_) ..
      split
      · exact (hu.busCycle hp' _).leave _
      · exact hu.quiet (fun _ hw => State.nack_same hw (.refl _ u)) (by decide)
    case h_10 =>
      obtain rfl := Host.Outcome.next.inj hstep
      exact h.chainWrite (fun u hu => hu.chainPocketWrite hp' ..) ..
    case h_11 => nomatch hc

end PageHeld

/-! ## POCKET_PROTECT, action 2 -/

theorem State.lockPage_locks {c : Cmd} (hmode : s.rd .PKT_STAT_MODE = 2) (hd : c.b 17 1 < s.part.dies) (hp : 32 ≤ c.b 18 1) (hp' : c.b 18 1 < 128) :
    s.lockPage c = if s.pageLocked (c.b 17 1) (c.b 18 1) then s.completeCmd c stOK 0
      else ((s.setAx .pageLock 1 (c.b 17 1) (c.b 18 1)).protectEvent 2 (c.b 17 1) (c.b 18 1)).completeCmd c stOK 0 :=
  if_neg (by omega)

theorem State.pageLocked_of_same (h : Same (.aux .pageLock) s t) (d p : Nat) : t.pageLocked d p = s.pageLocked d p := by
  rw [State.pageLocked, h, ← State.pageLocked]

theorem State.lockPage_locked {c : Cmd} (hmode : s.rd .PKT_STAT_MODE = 2) (hd : c.b 17 1 < s.part.dies) (hp : 32 ≤ c.b 18 1)
    (hp' : c.b 18 1 < 128) : (s.lockPage c).pageLocked (c.b 17 1) (c.b 18 1) = true ∧ Completed c stOK 0 s (s.lockPage c) := by
  rw [State.lockPage_locks hmode hd hp hp']
  split
  next hlocked =>
    refine ⟨?_, s.completeCmd_completed_self c stOK 0⟩
    rwa [State.pageLocked_of_same (State.completeCmd_same (by decide) (.refl _ s) _ _ _ _ _)]
  next =>
    have hset : ∀ g ∈ completionReads, (g == .aux .pageLock) = false := by decide
    have hevent : ∀ g ∈ completionReads, State.protectEvent_w g = false := by decide
    refine ⟨?_, State.completeCmd_completed_of_same
      (fun g hg => State.protectEvent_same (hevent g hg) (setAx_same (hset g hg) (.refl g s) _ _ _ _) _ _ _) c stOK 0⟩
    rw [State.pageLocked_of_same (State.completeCmd_same (by decide) (State.protectEvent_same (by decide) (.refl _ _) _ _ _) _ _ _ _ _),
      State.pageLocked, State.ax_setAx_same]
    rfl

/-- Settles O58: POCKET_PROTECT locks the page (`State.lockPage_locked`), and what is locked stays (`PageHeld.exec`). -/
theorem lockedPages : Obligations.LockedPages := by
  refine ⟨?locks, ?again, ?kept⟩
  case locks =>
    intro s id c hready haction hmode hd hp hp'
    refine does_command rfl hready ?_
    rw [State.pocketProtect, if_neg (by omega), if_neg (by omega), if_pos haction]
    exact State.lockPage_locked hmode hd hp hp'
  case again =>
    intro s id c hready haction hmode hd hp hp' hlocked
    refine congrArg Host.Outcome.next ?_
    rw [State.runCmd_ready hready, State.pocketProtect, if_neg (by omega), if_neg (by omega), if_pos haction,
      State.lockPage_locks hmode hd hp hp', if_pos hlocked]
  case kept =>
    intro c s t d p hmode hlocked hp hp' hstep
    have hheld : PageHeld d p (s.pkt d p) s := ⟨hmode, hlocked, fun _ _ => rfl⟩
    have hafter := hheld.exec hp hp' hstep
    exact ⟨hafter.mode, hafter.locked, hafter.bytes⟩

end Sys2Proof.Machine
end

section
/-!
PROOFS. The pair's commands and the writes of its registers (R438, R443, R444, R449).
-/

namespace Sys2Proof.Machine

variable {s : State}

/-! ## Flits that have been sent -/

/-- A flit has been sent since the link trained. -/
def State.HasSent (s : State) : Prop := 0 < s.ax .flitSeq

theorem State.HasSent.of_same {t : State} (h : s.HasSent) (hs : Same (.aux .flitSeq) s t) : t.HasSent := by
  rwa [State.HasSent, hs]

theorem State.sendFlit_sent (hlink : s.rd .MIR_STAT_LINK = 2) (type payload len : Nat) (last : Bool) : (s.sendFlit type payload len last).HasSent := by
  rw [State.sendFlit, if_neg (not_not.2 hlink)]
  have hset : State.HasSent { s.setAx .flitSeq (s.ax .flitSeq % 2 ^ 16 + 1) with
      flits := s.flits ++ [⟨s.ax .flitSeq % 2 ^ 16, type, last, len, payload, s.now, 0, false⟩] } := by
    refine State.HasSent.of_same (s := s.setAx .flitSeq (s.ax .flitSeq % 2 ^ 16 + 1)) ?_ fun _ _ _ => rfl
    rw [State.HasSent, State.ax_setAx_same]
    exact Nat.succ_pos _
  exact hset.of_same (State.pumpFlits_same (by decide) (.refl _ _))

theorem State.HasSent.sendFlit (h : s.HasSent) (type payload len : Nat) (last : Bool) : (s.sendFlit type payload len last).HasSent := by
  by_cases hlink : s.rd .MIR_STAT_LINK = 2
  · exact State.sendFlit_sent hlink type payload len last
  · rwa [State.sendFlit, if_pos hlink]

theorem State.HasSent.sendPieces (h : s.HasSent) (type : Nat) (l : List Byte) (n : Nat) : (s.sendPieces type l n).HasSent := by
  induction n generalizing s l with
  | zero => exact h
  | succ n ih =>
    rw [State.sendPieces]
    split
    · exact h.sendFlit ..
    · exact ih (h.sendFlit ..) _

theorem State.HasSent.sendMsg (h : s.HasSent) (type : Nat) (l : List Byte) : (s.sendMsg type l).HasSent := h.sendPieces ..

theorem State.sendMsg_sent (hlink : s.rd .MIR_STAT_LINK = 2) (type : Nat) (l : List Byte) : (s.sendMsg type l).HasSent := by
  rw [State.sendMsg, State.sendPieces]
  split
  · exact State.sendFlit_sent hlink ..
  · exact (State.sendFlit_sent hlink ..).sendPieces ..

theorem State.HasSent.mirrorState (h : s.HasSent) (fn : Nat) (m : StateMsg) : (s.mirrorState fn m).HasSent := by
  rw [State.mirrorState]
  split
  · exact h.sendMsg ..
  · exact h

theorem State.HasSent.journals (h : s.HasSent) (fn : Nat) (m : JournalMsg) : (s.journals fn m).HasSent := by
  rw [State.journals]
  split
  · exact h.sendMsg ..
  · exact h

theorem State.HasSent.sendPointers (h : s.HasSent) (q : Nat) : (s.sendPointers q).HasSent := by
  rw [State.sendPointers]
  split
  · exact h.mirrorState ..
  · exact h

theorem State.HasSent.sendRecord (h : s.HasSent) (j : Job) (n : Nat) (w : List (Nat × Byte)) : (s.sendRecord j n w).HasSent :=
  (h.mirrorState j.fn (s.commitRecord j n w)).of_same (State.updJob_same (by decide) (.refl _ _) _ _)

/-- The whole state of a function: what follows the first message takes no flit back. -/
theorem State.HasSent.sendWhole_rest (fn : Nat) (h : (s.mirrorState fn .start).HasSent) : (s.sendWhole fn).HasSent := by
  refine State.HasSent.mirrorState (State.each_induction _ (State.each_induction _ (State.each_induction _ (State.HasSent.mirrorState
    (State.each_induction _ (State.each_induction _ (State.each_induction _ (State.each_induction _ h ?_) ?_) ?_) ?_) ..) ?_) ?_) ?_) ..
  · exact fun _ _ h => h.journals ..
  · exact fun _ _ h => h.journals ..
  · exact fun _ _ h => h.journals ..
  · exact fun _ _ h => h.sendPointers _
  · exact fun _ _ h => h.mirrorState ..
  · exact fun _ _ h => h.mirrorState ..
  · exact fun _ _ h => h.sendRecord ..

theorem State.HasSent.sendWhole (h : s.HasSent) (fn : Nat) : (s.sendWhole fn).HasSent := (h.mirrorState ..).sendWhole_rest

theorem State.link_of_mirrors {fn : Nat} (h : s.mirrors fn = true) : s.rd .MIR_STAT_LINK = 2 := by
  simp only [State.mirrors, State.linkCarries, State.linkOpen, Bool.and_eq_true, beq_iff_eq] at h
  exact h.2.1.1

theorem State.sendWhole_sent {fn : Nat} (h : s.mirrors fn = true) : (s.sendWhole fn).HasSent := by
  refine State.HasSent.sendWhole_rest fn ?_
  rw [State.mirrorState, if_pos h]
  exact State.sendMsg_sent (State.link_of_mirrors h) ..

/-- What decides whether the state of a function goes to the standby. -/
def mirrorReads : List Piece :=
  [.fld .MIR_FN_MIRRORED, .fld .MIR_FN_ROLE, .fld .MIR_STAT_PAIR, .fld .MIR_STAT_LINK, .fld .MIR_STAT_RANK_CLASH, .aux .hbHeard]

theorem State.mirrors_of_same {t : State} (h : ∀ g ∈ mirrorReads, Same g s t) (fn : Nat) : t.mirrors fn = s.mirrors fn := by
  simp only [mirrorReads, List.forall_mem_cons] at h
  obtain ⟨hmirrored, hrole, hpair, hlink, hclash, hheard, -⟩ := h
  simp only [State.mirrors, State.mirrored, State.linkCarries, State.linkOpen, State.rdb, rd_of_same hmirrored, rd_of_same hrole,
    rd_of_same hpair, rd_of_same hlink, rd_of_same hclash, hheard 0 0 0]

/-! ## RESYNC -/

/-- What a synchronisation sends: the whole state of each function of a list, none of which is READY until it is acknowledged. -/
def State.syncSent (s : State) (fs : List Nat) : State :=
  (s.each fs (fun s f => (s.wr .MIR_FN_READY 0 0 f).setAx .stateWhole 0 f)).each fs State.sendWhole

theorem State.syncStart_eq (s : State) : s.syncStart = if !s.linkCarries then s else
    ((s.syncBegin.syncSent (s.withRole roleActive)).setAx .syncSeq
      (if (s.withRole roleActive).isEmpty then 0 else (s.syncBegin.syncSent (s.withRole roleActive)).ax .flitSeq)).syncEnd := rfl

section

variable {g : Piece} (hready : (g == .fld .MIR_FN_READY) = false) (hwhole : (g == .aux .stateWhole) = false)
include hready hwhole

theorem State.syncUnready_same (s : State) (fs : List Nat) :
    Same g s (s.each fs (fun s f => (s.wr .MIR_FN_READY 0 0 f).setAx .stateWhole 0 f)) :=
  State.each_same (.refl g s) _ _ fun _ _ h => setAx_same hwhole (wr_same hready h _ _ _ _) _ _ _ _

theorem State.syncSent_same (hsend : State.sendWhole_w g = false) (s : State) (fs : List Nat) : Same g s (s.syncSent fs) :=
  State.each_same (State.syncUnready_same hready hwhole s fs) _ _ fun _ _ h => State.sendWhole_same hsend h _

end

theorem State.syncSent_sent {fs : List Nat} (hfs : fs.Nodup) {f : Nat} (hf : f ∈ fs) (hmirrors : s.mirrors f = true) : (s.syncSent fs).HasSent := by
  have hready : ∀ g ∈ mirrorReads, (g == .fld .MIR_FN_READY) = false := by decide
  have hwhole : ∀ g ∈ mirrorReads, (g == .aux .stateWhole) = false := by decide
  have hsend : ∀ g ∈ mirrorReads, State.sendWhole_w g = false := by decide
  refine State.each_once (before := fun u => u.mirrors f = true) hfs hf ?_ (fun u y _ hu => ?_) (fun u hu => State.sendWhole_sent hu)
    fun u y _ hu => hu.sendWhole y
  · rwa [State.mirrors_of_same fun g hg => State.syncUnready_same (hready g hg) (hwhole g hg) s fs]
  · rwa [State.mirrors_of_same fun g hg => State.sendWhole_same (hsend g hg) (.refl g u) y]

theorem State.withRole_nodup (s : State) (r : Nat) : (s.withRole r).Nodup := (List.nodup_range).filter _

/-- A synchronisation that has sent a flit waits for its acknowledgement. -/
theorem State.syncEnd_waits (h : s.ax .syncSeq ≠ 0) : s.syncEnd = s := if_neg fun hend => h hend.2.1

theorem State.syncBegin_unfenced (h : s.rd .MIR_STAT_PAIR ≠ pairFenced) :
    s.syncBegin = ((s.wr .MIR_STAT_PAIR pairSyncing).setAx .syncAt s.now).setAx .syncEpoch (s.rd .MIR_EPOCH_EPOCH) := if_neg h

theorem State.syncStart_syncs (hcarries : s.linkCarries = true) (hpair : s.rd .MIR_STAT_PAIR ≠ pairFenced)
    (hactive : (s.withRole roleActive).any (fun f => s.rdb .MIR_FN_MIRRORED 0 f) = true) :
    s.syncStart.rd .MIR_STAT_PAIR = pairSyncing ∧ s.syncStart.rd .MIR_CTRL_RESYNC = s.rd .MIR_CTRL_RESYNC ∧ s.syncStart.ax .syncAt = s.now := by
  obtain ⟨f, hf, hmirrored⟩ := List.any_eq_true.1 hactive
  have hrole : s.role f = roleActive := by simpa [State.withRole] using (List.mem_filter.1 hf).2
  have hbegun := State.syncBegin_unfenced hpair
  have hsyncing : s.syncBegin.rd .MIR_STAT_PAIR = pairSyncing := by
    rw [hbegun, State.rd_setAx, State.rd_setAx, State.rd_wr_same]
    rfl
  have hmirrors : s.syncBegin.mirrors f = true := by
    have hcarries' : s.syncBegin.linkCarries = true := by
      simp only [State.linkCarries, State.linkOpen, State.rdb] at hcarries ⊢
      rw [hbegun]
      simpa [State.rd_setAx, State.rd_wr_field, State.ax_setAx] using hcarries
    have hkept (x : Field) (hx : x ≠ .MIR_STAT_PAIR) (d i j : Nat) : s.syncBegin.rd x d i j = s.rd x d i j := by
      rw [hbegun, State.rd_setAx, State.rd_setAx, State.rd_wr_field _ hx]
    rw [State.mirrors, State.mirrored, hcarries', hsyncing, State.rdb, hkept _ (by decide), hkept _ (by decide), ← State.rdb, hmirrored,
      ← State.role, hrole]
    rfl
  have hsent := State.syncSent_sent (s.withRole_nodup roleActive) hf hmirrors
  have hnonempty : (s.withRole roleActive).isEmpty = false := by
    cases hl : s.withRole roleActive with
    | nil => rw [hl] at hf; cases hf
    | cons => rfl
  rw [State.syncStart_eq, hcarries, Bool.not_true, if_neg Bool.false_ne_true, hnonempty, if_neg Bool.false_ne_true, State.syncEnd_waits]
  · refine ⟨?_, ?_, ?_⟩
    · rw [State.rd_setAx, rd_of_same (State.syncSent_same (g := .fld .MIR_STAT_PAIR) (by decide) (by decide) (by decide) _ _), hsyncing]
    · rw [State.rd_setAx, rd_of_same (State.syncSent_same (g := .fld .MIR_CTRL_RESYNC) (by decide) (by decide) (by decide) _ _), hbegun,
        State.rd_setAx, State.rd_setAx, State.rd_wr_field _ (by decide)]
    · rw [State.ax_setAx, if_neg (by decide), State.syncSent_same (g := .aux .syncAt) (by decide) (by decide) (by decide) _ _ 0 0 0, hbegun,
        State.ax_setAx, if_neg (by decide), State.ax_setAx_same]
  · rw [State.ax_setAx_same]
    exact Nat.ne_of_gt hsent

end Sys2Proof.Machine
end

section
/-!
PROOFS. The pair's commands and the writes of its registers, continued: handover, declared regions, and the registers of the link and of
the functions (R438, R443, R444, R449).
-/

namespace Sys2Proof.Machine

variable {s : State}

/-! ## PAIR_HANDOVER -/

theorem State.handover_unready {c : Cmd} (h : (fnsOf (c.b 16 16)).any (fun f => !s.rdb .MIR_FN_READY 0 f) = true) :
    s.handover c = s.completeCmd c stMalformed 0 := by
  refine if_pos (.inr ?_)
  obtain ⟨f, hf, hready⟩ := List.any_eq_true.1 h
  exact List.any_eq_true.2 ⟨f, hf, by rw [hready, Bool.true_or]⟩

theorem State.handover_taken {c : Cmd} (hmanaged : s.rd .MIR_STAT_EXPERT = 0) (hmode : c.b 32 1 ≤ 1)
    (hready : (fnsOf (c.b 16 16)).all (fun f => s.rdb .MIR_FN_READY 0 f && s.role f == roleActive) = true) {f : Nat} (hf : f ∈ fnsOf (c.b 16 16)) :
    (s.handover c).ax .handing f = 1 := by
  have hnone : ¬(c.b 32 1 > 1 ∨ (fnsOf (c.b 16 16)).any (fun f => !s.rdb .MIR_FN_READY 0 f || s.role f != roleActive) = true) := by
    rintro (h | h)
    · omega
    · obtain ⟨k, hk, hbad⟩ := List.any_eq_true.1 h
      have hgood := List.all_eq_true.1 hready k hk
      simp only [Bool.and_eq_true, beq_iff_eq] at hgood
      obtain ⟨hrdb, hrole⟩ := hgood
      simp [hrdb, hrole] at hbad
  have hfirmware : ¬s.rdb .MIR_STAT_EXPERT = true := by simp [State.rdb, hmanaged]
  rw [State.handover, if_neg hnone, if_neg hfirmware, State.cmdRunning_same (g := .aux .handing) (by decide) (.refl _ _) c f 0 0]
  refine State.each_of_mem (P := fun u => u.ax .handing f = 1) hf (fun u => State.ax_setAx_same ..) fun u k hu => ?_
  rw [State.ax_setAx]
  split
  · rfl
  · exact hu

/-! ## MIR_REGION -/

/-- The order to the partner that names a region goes out before the answer comes. -/
def State.regionAsked (s : State) (c : Cmd) : State :=
  s.sendMsg 7 (orderBytes (.region (c.b 16 1) (c.b 17 1) (c.b 20 4) (c.b 24 4) (bit (c.b 18 1) 0)))

/-- The region that a MIR_REGION names. -/
def Cmd.region (c : Cmd) : Region := Region.mk (c.b 16 1) (c.b 17 1) (c.b 20 4) (c.b 24 4)

theorem State.regionAsked_same {g : Piece} (hg : State.sendMsg_w g = false) (c : Cmd) : Same g s (s.regionAsked c) :=
  State.sendMsg_same hg (.refl g s) _ _

theorem State.mirRegion_uncovered {c : Cmd} (h : s.covers (c.b 16 1) 3 (c.b 17 1) (c.b 20 4) (c.b 24 4) = false) (k : PartnerAnswer) :
    s.mirRegion c k = s.completeCmd c stMalformed 0 :=
  if_pos (.inr (.inr (by rw [h]; rfl)))

section Granted

variable {c : Cmd} (hfn : c.b 16 1 < 128) (hcount : c.b 24 4 ≠ 0) (hcovers : s.covers (c.b 16 1) 3 (c.b 17 1) (c.b 20 4) (c.b 24 4) = true)
  (hmanaged : s.rd .MIR_STAT_EXPERT = 0)
include hfn hcount hcovers hmanaged

theorem State.mirRegion_granted : s.mirRegion c .granted =
    if bit (c.b 18 1) 0 then State.completeCmd { s.regionAsked c with regions := (s.regionAsked c).regions ++ [c.region] } c stOK 0
    else (s.regionAsked c).undeclare c c.region := by
  have hvalid : ¬(c.b 16 1 ≥ 128 ∨ c.b 24 4 = 0 ∨ (!s.covers (c.b 16 1) 3 (c.b 17 1) (c.b 20 4) (c.b 24 4)) = true) := by
    simp only [hcovers, Bool.not_true, Bool.false_eq_true, or_false]
    omega
  have hfirmware : ¬s.rdb .MIR_STAT_EXPERT = true := by simp [State.rdb, hmanaged]
  rw [State.mirRegion, if_neg hvalid, if_neg hfirmware]
  rfl

omit hfn hcount hcovers hmanaged in
/-- A change of the declared regions, and the completion. -/
theorem State.regionsSet_completed (l : List Region) :
    Completed c stOK 0 s (State.completeCmd { s.regionAsked c with regions := l } c stOK 0) ∧
      (State.completeCmd { s.regionAsked c with regions := l } c stOK 0).regions = l := by
  have hasked : ∀ g ∈ completionReads, State.sendMsg_w g = false := by decide
  have hset : ∀ g ∈ completionReads, (g == .regions) = false := by decide
  refine ⟨State.completeCmd_completed_of_same (fun g hg => same_mk_regions (hset g hg) (State.regionAsked_same (hasked g hg) c) l) c stOK 0, ?_⟩
  exact State.completeCmd_same (g := .regions) (by decide) (.refl _ { s.regionAsked c with regions := l }) _ _ _ _ _

omit hfn hcount hcovers hmanaged in
theorem State.regionAsked_regions : (s.regionAsked c).regions = s.regions := State.regionAsked_same (g := .regions) (by decide) c

theorem State.mirRegion_declares (hon : bit (c.b 18 1) 0 = true) :
    Completed c stOK 0 s (s.mirRegion c .granted) ∧ (s.mirRegion c .granted).regions = s.regions ++ [c.region] := by
  rw [State.mirRegion_granted hfn hcount hcovers hmanaged, if_pos hon, State.regionAsked_regions]
  exact State.regionsSet_completed _

theorem State.mirRegion_undeclares (hoff : bit (c.b 18 1) 0 = false) :
    Completed c stOK 0 s (s.mirRegion c .granted) ∧ (s.mirRegion c .granted).regions = s.regions.filter (fun r => r != c.region) := by
  rw [State.mirRegion_granted hfn hcount hcovers hmanaged, if_neg (Bool.eq_false_iff.1 hoff), State.undeclare, State.regionAsked_regions]
  exact State.regionsSet_completed _

end Granted

/-! ## Registers of the link -/

theorem State.mirEnable_off {v : Nat} (hv : v % 2 = 0) (hon : s.rd .MIR_CFG_ENABLE = 1) : s.mirEnable v =
    (((s.linkLost.setAx .hbTimer 0).wr .MIR_CFG_ENABLE 0).wr .MIR_STAT_LINK 0).wr .MIR_STAT_PAIR 0 := by
  rw [State.mirEnable, if_neg (by omega), if_neg (by omega)]

theorem State.mirEnable_on {v : Nat} (hv : v % 2 = 1) (hoff : s.rd .MIR_CFG_ENABLE = 0) :
    s.mirEnable v = (s.wr .MIR_CFG_ENABLE 1).wr .MIR_STAT_LINK 1 := by
  rw [State.mirEnable, if_neg (by omega), if_pos hv]

theorem State.resync_idle (h : s.resyncing = true ∨ s.linkCarries = false) : s.resync = s := by
  refine if_pos ?_
  obtain h | h := h <;> simp [h]

theorem State.resync_starts (hcarries : s.linkCarries = true) (hidle : s.resyncing = false) (hpair : s.rd .MIR_STAT_PAIR ≠ pairFenced) :
    s.resync = (s.wr .MIR_CTRL_RESYNC 1).syncStart := by
  refine if_neg ?_
  simp [hcarries, hidle, hpair]

/-! ## MIRRORED -/

/-- The function after MIRRORED has been set, before it takes its role. -/
def State.mirroredSet (s : State) (f : Nat) : State := (s.wr .MIR_FN_MIRRORED 1 0 f).setAx .untold 0 f

theorem State.setMirrored_on {f v : Nat} (hv : v % 2 = 1) (hf : f < 128) (hoff : s.rd .MIR_FN_MIRRORED 0 f = 0) : s.setMirrored f v =
    if s.rdb .MIR_STAT_TAKE_SEEN then ((s.mirroredSet f).setRole f roleFenced).pairTo pairFenced
    else if s.ax .peerRole f = roleActive then (s.mirroredSet f).setRole f roleStandby else (s.mirroredSet f).setRole f roleActive := by
  have hseen : (s.mirroredSet f).rdb .MIR_STAT_TAKE_SEEN = s.rdb .MIR_STAT_TAKE_SEEN := by
    rw [State.rdb, State.mirroredSet, State.rd_setAx, State.rd_wr_field _ (by decide), State.rdb]
  have hpeer : (s.mirroredSet f).ax .peerRole f = s.ax .peerRole f := by
    rw [State.mirroredSet, State.ax_setAx, if_neg (by simp), State.ax_wr]
  rw [State.setMirrored, if_neg (by omega), if_pos hv, ← hseen, ← hpeer]
  rfl

theorem State.setMirrored_off {f v : Nat} (hv : v % 2 = 0) (hf : f < 128) (hon : s.rd .MIR_FN_MIRRORED 0 f = 1) :
    s.setMirrored f v = ((s.wr .MIR_FN_MIRRORED 0 0 f).unmirror f).tellUnmirrored f := by
  rw [State.setMirrored, if_neg (by omega), if_neg (by omega)]

theorem State.mirroredSet_rd (s : State) (f : Nat) : (s.mirroredSet f).rd .MIR_FN_MIRRORED 0 f = 1 := by
  rw [State.mirroredSet, State.rd_setAx, State.rd_wr_same]
  rfl

theorem State.setRole_role (s : State) (f r : Nat) : (s.setRole f r).role f = r % 2 ^ Field.width .MIR_FN_ROLE := State.rd_wr_same ..

theorem State.setRole_rd {x : Field} (hx : x ≠ .MIR_FN_ROLE) (s : State) (f r d i j : Nat) : (s.setRole f r).rd x d i j = s.rd x d i j :=
  State.rd_wr_field _ hx ..

theorem State.pairTo_reads (s : State) (p : Nat) : (s.pairTo p).rd .MIR_STAT_PAIR = p % 2 ^ Field.width .MIR_STAT_PAIR ∧
    ∀ x, x ≠ .MIR_STAT_PAIR → x ≠ .MIR_CTRL_RESYNC → ∀ d i j, (s.pairTo p).rd x d i j = s.rd x d i j := by
  refine ⟨?_, fun x hpair hresync d i j => ?_⟩
  · rw [State.pairTo, State.rd_setAx, State.rd_wr_field _ (by decide), State.rd_wr_same]
  · rw [State.pairTo, State.rd_setAx, State.rd_wr_field _ hresync, State.rd_wr_field _ hpair]

theorem State.unmirror_reads (s : State) (f : Nat) : (s.unmirror f).role f = roleNone ∧ (s.unmirror f).rd .MIR_FN_READY 0 f = 0 := by
  refine ⟨?_, ?_⟩
  · rw [State.role, State.unmirror, State.rd_wr_field _ (by decide), State.rd_wr_field _ (by decide)]
    exact State.setRole_role ..
  · rw [State.unmirror, State.rd_wr_field _ (by decide), State.rd_wr_same]
    rfl

theorem State.unmirror_mirrored (s : State) (f : Nat) : (s.unmirror f).rd .MIR_FN_MIRRORED 0 f = s.rd .MIR_FN_MIRRORED 0 f := by
  have hdropped : Same (.fld .MIR_FN_MIRRORED) s (if s.role f = roleStandby then s.dropCopies f else s.dropRecords f) :=
    same_ite (State.dropCopies_field (by decide) (by decide) (.refl _ s) f) (State.dropRecords_same (by decide) (.refl _ s) f)
  rw [State.unmirror, State.rd_wr_field _ (by decide), State.rd_wr_field _ (by decide), State.setRole_rd (by decide), rd_of_same hdropped]

theorem State.releaseTake_reads (s : State) : s.releaseTake.rd .MIR_STAT_TAKE_DRIVE = 0 ∧
    s.releaseTake.rd .MIR_STAT_EXPERT = s.rd .MIR_STAT_EXPERT := by
  have hkept (x : Field) : Same (.fld x) (s.wr .MIR_STAT_TAKE_DRIVE 0) s.releaseTake :=
    State.each_same (.refl _ _) _ _ fun _ _ h => setAx_same rfl h _ _ _ _
  rw [rd_of_same (hkept _), rd_of_same (hkept _), State.rd_wr_same, State.rd_wr_field _ (by decide)]
  exact ⟨rfl, rfl⟩

/-- RESYNC itself decides nothing of the synchronisation that it starts. -/
theorem State.resync_syncs (hcarries : s.linkCarries = true) (hpair : s.rd .MIR_STAT_PAIR ≠ pairFenced)
    (hactive : (s.withRole roleActive).any (fun f => s.rdb .MIR_FN_MIRRORED 0 f) = true) :
    (s.wr .MIR_CTRL_RESYNC 1).syncStart.rd .MIR_STAT_PAIR = pairSyncing ∧ (s.wr .MIR_CTRL_RESYNC 1).syncStart.rd .MIR_CTRL_RESYNC = 1 ∧
      (s.wr .MIR_CTRL_RESYNC 1).syncStart.ax .syncAt = s.now := by
  have hrd (x : Field) (hx : x ≠ .MIR_CTRL_RESYNC) (d i j : Nat) : (s.wr .MIR_CTRL_RESYNC 1).rd x d i j = s.rd x d i j := State.rd_wr_field _ hx ..
  have hcarries' : (s.wr .MIR_CTRL_RESYNC 1).linkCarries = true := by
    rwa [State.linkCarries, State.linkOpen, State.rdb, hrd _ (by decide), hrd _ (by decide), State.ax_wr]
  have hactive' : ((s.wr .MIR_CTRL_RESYNC 1).withRole roleActive).any (fun f => (s.wr .MIR_CTRL_RESYNC 1).rdb .MIR_FN_MIRRORED 0 f) = true := by
    simp only [State.withRole, State.role, State.rdb, hrd .MIR_FN_ROLE (by decide), hrd .MIR_FN_MIRRORED (by decide)]
    exact hactive
  obtain ⟨hsyncing, hresync, hat⟩ := State.syncStart_syncs hcarries' (by rwa [hrd _ (by decide)]) hactive'
  exact ⟨hsyncing, hresync.trans (State.rd_wr_same ..), hat⟩

/-- Settles O29: handover and regions by the command's branch, RESYNC by `State.syncStart_syncs`, MIRRORED by `State.setMirrored_on`
and `State.setMirrored_off`. -/
theorem mirrorControls : Obligations.MirrorControls := by
  intro s
  refine ⟨?unready, ?handed, ?declares, ?undeclares, ?uncovered, ?enables, ?disables, ?handback, ?release, ?resync, ?resyncIdle, ?clears, ?joins,
    ?fenced, ?leaves⟩
  case unready =>
    intro id c hready hnot
    refine does_command rfl hready ?_
    rw [State.handover_unready hnot]
    exact s.completeCmd_completed_self _ _ _
  case handed => exact fun id c hready hmanaged hmode hall => does_command rfl hready fun f hf => State.handover_taken hmanaged hmode hall hf
  case declares =>
    exact fun id c hready hfn hcount hcovers hmanaged hon =>
      does_command rfl hready (State.mirRegion_declares hfn hcount hcovers hmanaged hon)
  case undeclares =>
    exact fun id c hready hfn hcount hcovers hmanaged hoff =>
      does_command rfl hready (State.mirRegion_undeclares hfn hcount hcovers hmanaged hoff)
  case uncovered =>
    intro id k c hready hcovers
    refine does_command rfl hready ?_
    rw [State.mirRegion_uncovered hcovers]
    exact s.completeCmd_completed_self _ _ _
  case enables =>
    intro o ho hv hoff
    refine does_order rfl ho ?_
    rw [State.mirEnable_on hv hoff, State.rd_wr_field _ (by decide), State.rd_wr_same, State.rd_wr_same]
    exact ⟨rfl, rfl⟩
  case disables =>
    intro o ho hv hon
    refine does_order rfl ho ?_
    rw [State.mirEnable_off hv hon]
    simp (disch := decide) only [State.rd_wr_field, State.rd_wr_same]
    exact ⟨rfl, rfl, rfl, rfl⟩
  case handback =>
    intro o ho hv
    refine does_orderTrigger rfl ho hv ?_
    simp (disch := decide) only [State.mirHandback, State.rd_wr_field, State.rd_wr_same]
    exact ⟨rfl, rfl, rfl⟩
  case release =>
    intro o ho hv
    obtain ⟨hdrive, hexpert⟩ := (s.wr .MIR_STAT_EXPERT 1).releaseTake_reads
    exact does_orderTrigger rfl ho hv ⟨hdrive, hexpert.trans (State.rd_wr_same ..)⟩
  case resync =>
    intro o ho hv hcarries hidle hpair hactive
    refine does_orderTrigger rfl ho hv ?_
    rw [State.resync_starts hcarries hidle hpair]
    exact State.resync_syncs hcarries hpair hactive
  case resyncIdle => exact fun o ho hv hidle => does_orderTrigger rfl ho hv (State.resync_idle hidle)
  case clears =>
    intro o ho hv
    refine does_orderTrigger rfl ho hv ?_
    simp (disch := decide) only [State.mirClear, State.rd_wr_field, State.rd_wr_same]
    exact ⟨rfl, rfl, rfl, rfl⟩
  case joins =>
    intro f o ho hv hf hoff hunseen
    refine does_order rfl ho ?_
    have hunseen : s.rdb .MIR_STAT_TAKE_SEEN = false := by simp [State.rdb, hunseen]
    rw [State.setMirrored_on hv hf hoff, hunseen, if_neg Bool.false_ne_true]
    split
    · exact ⟨(State.setRole_rd (by decide) ..).trans (s.mirroredSet_rd f), State.setRole_role ..⟩
    · exact ⟨(State.setRole_rd (by decide) ..).trans (s.mirroredSet_rd f), State.setRole_role ..⟩
  case fenced =>
    intro f o ho hv hf hoff hseen
    refine does_order rfl ho ?_
    have hseen : s.rdb .MIR_STAT_TAKE_SEEN = true := by simp [State.rdb, hseen]
    obtain ⟨hpair, hrest⟩ := ((s.mirroredSet f).setRole f roleFenced).pairTo_reads pairFenced
    rw [State.setMirrored_on hv hf hoff, hseen, if_pos rfl]
    refine ⟨?_, ?_, hpair⟩
    · rw [hrest _ (by decide) (by decide), State.setRole_rd (by decide), State.mirroredSet_rd]
    · rw [State.role, hrest _ (by decide) (by decide)]
      exact State.setRole_role ..
  case leaves =>
    intro f o ho hv hf hon
    refine does_order rfl ho ?_
    rw [State.setMirrored_off hv hf hon]
    obtain ⟨hrole, hready⟩ := (s.wr .MIR_FN_MIRRORED 0 0 f).unmirror_reads f
    refine ⟨?_, ?_, ?_⟩
    · rw [rd_of_same (State.tellUnmirrored_same (g := .fld .MIR_FN_MIRRORED) (by decide) (.refl _ _) f), State.unmirror_mirrored, State.rd_wr_same]
      rfl
    · exact (rd_of_same (State.tellUnmirrored_same (g := .fld .MIR_FN_ROLE) (by decide) (.refl _ _) f) ..).trans hrole
    · exact (rd_of_same (State.tellUnmirrored_same (g := .fld .MIR_FN_READY) (by decide) (.refl _ _) f) ..).trans hready

end Sys2Proof.Machine
end

section
/-!
PROOFS. The mirror link's timers and training, takeover and fencing (R434, R436, R437, R442, R445, R446, R447, R448).
-/

namespace Sys2Proof.Machine

variable {s : State}

theorem mem_allFns {f : Nat} : f ∈ allFns ↔ f < 128 := List.mem_range

theorem State.mem_withRole {f r : Nat} (hf : f < 128) (hrole : s.role f = r) : f ∈ s.withRole r :=
  List.mem_filter.2 ⟨mem_allFns.2 hf, beq_iff_eq.2 hrole⟩

theorem State.bump_rd {x f : Field} (hx : x ≠ f) (s : State) (d i j d' i' j' : Nat) : (s.bump f d i j).rd x d' i' j' = s.rd x d' i' j' :=
  State.rd_wr_field _ hx ..

theorem State.mirEvent_rd {x : Field} (hx : State.mirEvent_w (.fld x) = false) (s : State) (type sev payload d i j : Nat) :
    (s.mirEvent type sev payload).rd x d i j = s.rd x d i j :=
  rd_of_same (State.mirEvent_same hx (.refl _ s) type sev payload) d i j

/-! ## Heartbeats -/

/-- A period's count of the heartbeat that it missed. -/
def State.beatCounted (s : State) : State := (if s.ax .hbSeen = 0 then s.bump .MIR_HBMISS_COUNT else s).setAx .hbSeen 0

theorem State.beatCounted_rd {x : Field} (hx : x ≠ .MIR_HBMISS_COUNT) (s : State) : s.beatCounted.rd x = s.rd x := by
  rw [State.beatCounted, State.rd_setAx]
  split
  · exact State.bump_rd hx ..
  · rfl

theorem State.beatCounted_count (s : State) : s.beatCounted.rd .MIR_HBMISS_COUNT =
    if s.ax .hbSeen = 0 then s.countUp .MIR_HBMISS_COUNT else s.rd .MIR_HBMISS_COUNT := by
  rw [State.beatCounted, State.rd_setAx]
  split
  · exact State.rd_wr_same ..
  · rfl

theorem State.beatCounted_seen (s : State) : s.beatCounted.ax .hbSeen = 0 := State.ax_setAx_same ..

/-- The heartbeat that goes out, and what it leaves of the count. -/
theorem State.beatSent_reads (s : State) :
    s.beatCounted.handoverStep.sendHeartbeat.rd .MIR_HBMISS_COUNT = s.beatCounted.rd .MIR_HBMISS_COUNT ∧
      s.beatCounted.handoverStep.sendHeartbeat.ax .hbSeen = 0 := by
  refine ⟨rd_of_same (State.handoverStep_same (g := .fld .MIR_HBMISS_COUNT) (by decide) (.refl _ _)) 0 0 0, ?_⟩
  exact (State.handoverStep_same (g := .aux .hbSeen) (by decide) (.refl _ _) 0 0 0).trans s.beatCounted_seen

theorem State.emit_roleWord (s : State) (o : Out) : (s.emit o).roleWord = s.roleWord :=
  congrArg (sumBy allFns) (funext fun _ => rfl)

/-- The flit shows what the state after it shows. -/
theorem State.sendHeartbeat_last (s : State) : s.sendHeartbeat.outbox.getLast? = some (.flit (flitWord 1 1 (s.sendHeartbeat.ax .flitSeq)
    (s.sendHeartbeat.ax .flitAck) 48 (s.sendHeartbeat.rd .MIR_CFG_RANK + atByte 4 (s.sendHeartbeat.rd .MIR_EPOCH_EPOCH) +
      atByte 8 s.sendHeartbeat.now + atByte 16 s.sendHeartbeat.roleWord))) := by
  have hrd (o : Out) (x : Field) : (s.emit o).rd x = s.rd x := rfl
  have hax (o : Out) (x : Aux) : (s.emit o).ax x = s.ax x := rfl
  have hnow (o : Out) : (s.emit o).now = s.now := rfl
  simp only [State.sendHeartbeat, hrd, hax, hnow, State.emit_roleWord]
  exact List.getLast?_concat

theorem exec_heartbeatSend (h : s.rdb .MIR_CFG_ENABLE = true) : exec .heartbeatSend s =
    .next (if s.rd .MIR_STAT_LINK = 2 then s.beatCounted.handoverStep.sendHeartbeat else s.beatCounted) := by
  refine congrArg Host.Outcome.next ?_
  rw [h, Bool.not_true, if_neg Bool.false_ne_true, ← State.beatCounted_rd (x := .MIR_STAT_LINK) (by decide) s]
  rfl

/-! ## Replays -/

theorem State.replay_eq (s : State) (p : Flit → Bool) : s.replay p =
    let u := s.each (s.flits.filter fun f => f.sent && p f) fun s f => (s.bump .MIR_REPLAY_COUNT).emitFlit f
    let v : State := { u with flits := u.flits.map fun f => if f.sent && p f then { f with replays := f.replays + 1, time := u.now } else f }
    if (s.flits.filter fun f => f.sent && p f).any (fun f => decide (f.replays ≥ 3)) then v.mirDown 2 else v := rfl

/-- Sending flits again changes nothing that the replay count and the outbox do not hold. -/
theorem State.resent_same {g : Piece} (hcount : (g == .fld .MIR_REPLAY_COUNT) = false) (hsend : State.emitFlit_w g = false) (s : State) (l : List Flit) :
    Same g s (s.each l fun s f => (s.bump .MIR_REPLAY_COUNT).emitFlit f) :=
  State.each_same (.refl g s) _ _ fun _ _ h => State.emitFlit_same hsend (wr_same hcount h _ _ _ _) _

theorem State.replay_flits (p : Flit → Bool) (hfresh : ∀ g ∈ s.flits, g.replays < 3) :
    (s.replay p).flits = s.flits.map fun f => if f.sent && p f then { f with replays := f.replays + 1, time := s.now } else f := by
  have hworn : (s.flits.filter fun f => f.sent && p f).any (fun f => decide (f.replays ≥ 3)) = false := by
    refine List.any_eq_false.2 fun f hf => ?_
    have := hfresh f (List.mem_filter.1 hf).1
    simp
    omega
  have hflits : (s.each (s.flits.filter fun f => f.sent && p f) fun s f => (s.bump .MIR_REPLAY_COUNT).emitFlit f).flits = s.flits :=
    State.resent_same (g := .flits) (by decide) (by decide) s _
  have hdt : (s.each (s.flits.filter fun f => f.sent && p f) fun s f => (s.bump .MIR_REPLAY_COUNT).emitFlit f).dt = s.dt :=
    State.resent_same (g := .dt) (by decide) (by decide) s _
  rw [State.replay_eq]
  dsimp only
  rw [hworn, if_neg Bool.false_ne_true, hflits, State.now, hdt, ← State.now]

theorem State.mirDown_reads (hlink : s.rd .MIR_STAT_LINK = 2) (cause : Nat) :
    (s.mirDown cause).rd .MIR_STAT_LINK = 1 ∧ (s.mirDown cause).rd .MIR_STAT_WIDTH = 0 := by
  rw [State.mirDown, if_neg (not_not.2 hlink), State.mirEvent_rd (by decide), State.mirEvent_rd (by decide), State.rd_wr_same,
    State.rd_wr_field _ (by decide), State.linkLost, State.rd_setAx, State.rd_setAx, State.rd_wr_field _ (by decide), State.rd_wr_same]
  exact ⟨rfl, rfl⟩

theorem State.replay_worn (hlink : s.rd .MIR_STAT_LINK = 2) {p : Flit → Bool}
    (hworn : (s.flits.filter fun f => f.sent && p f).any (fun f => decide (f.replays ≥ 3)) = true) :
    (s.replay p).rd .MIR_STAT_LINK = 1 ∧ (s.replay p).rd .MIR_STAT_WIDTH = 0 := by
  rw [State.replay_eq]
  dsimp only
  rw [hworn, if_pos rfl]
  refine State.mirDown_reads ?_ 2
  exact (rd_of_same (State.resent_same (g := .fld .MIR_STAT_LINK) (by decide) (by decide) s _) 0 0 0).trans hlink

/-! ## Training -/

/-- What a trained link leaves before the functions that this member holds are set back. -/
def State.linkTrained (s : State) (lanes : Nat) : State :=
  (((((s.wr .MIR_STAT_LINK 2).wr .MIR_STAT_WIDTH lanes).setAx .flitSeq 0).setAx .flitAck 65535).setAx .hbHeard 0).setAx .syncDue 1

/-- The functions that a freshly trained link leaves behind its partner. -/
def State.trainedUnready (s : State) (lanes : Nat) : State :=
  (s.linkTrained lanes).each (allFns.filter (s.linkTrained lanes).holdsState) (fun s f => (s.wr .MIR_FN_READY 0 0 f).setAx .stateWhole 0 f)

theorem State.mirTrained_eq (s : State) (lanes : Nat) : ∃ payload, s.mirTrained lanes = (s.trainedUnready lanes).mirEvent 0x30 sevInfo payload :=
  ⟨_, rfl⟩

theorem State.linkTrained_holdsState (s : State) (lanes f : Nat) : (s.linkTrained lanes).holdsState f = s.holdsState f := by
  simp only [State.holdsState, State.role, State.linkTrained, State.rd_setAx]
  rw [State.rd_wr_field _ (by decide), State.rd_wr_field _ (by decide)]

theorem State.mirTrained_kept {g : Piece} (hready : (g == .fld .MIR_FN_READY) = false) (hwhole : (g == .aux .stateWhole) = false)
    (hevent : State.mirEvent_w g = false) (s : State) (lanes : Nat) : Same g (s.linkTrained lanes) (s.mirTrained lanes) := by
  obtain ⟨payload, h⟩ := s.mirTrained_eq lanes
  rw [h]
  exact State.mirEvent_same hevent (State.syncUnready_same hready hwhole _ _) _ _ _

theorem State.mirTrained_reads {lanes : Nat} (hlanes : lanes = 4 ∨ lanes = 8) (s : State) :
    (s.mirTrained lanes).rd .MIR_STAT_LINK = 2 ∧ (s.mirTrained lanes).rd .MIR_STAT_WIDTH = lanes ∧ (s.mirTrained lanes).ax .flitAck = 65535 ∧
      (s.mirTrained lanes).ax .hbHeard = 0 := by
  rw [rd_of_same (State.mirTrained_kept (g := .fld .MIR_STAT_LINK) (by decide) (by decide) (by decide) s lanes),
    rd_of_same (State.mirTrained_kept (g := .fld .MIR_STAT_WIDTH) (by decide) (by decide) (by decide) s lanes),
    State.mirTrained_kept (g := .aux .flitAck) (by decide) (by decide) (by decide) s lanes 0 0 0,
    State.mirTrained_kept (g := .aux .hbHeard) (by decide) (by decide) (by decide) s lanes 0 0 0, State.linkTrained]
  refine ⟨?_, ?_, ?_, ?_⟩
  · simp only [State.rd_setAx]
    rw [State.rd_wr_field _ (by decide), State.rd_wr_same]
    rfl
  · simp only [State.rd_setAx]
    rw [State.rd_wr_same]
    obtain rfl | rfl := hlanes <;> rfl
  · simp [State.ax_setAx]
  · simp [State.ax_setAx]

theorem State.mirTrained_ready {f : Nat} (hf : f < 128) (hheld : s.holdsState f = true) (lanes : Nat) :
    (s.mirTrained lanes).rd .MIR_FN_READY 0 f = 0 := by
  obtain ⟨payload, h⟩ := s.mirTrained_eq lanes
  rw [h, State.mirEvent_rd (by decide)]
  have hmem : f ∈ allFns.filter (s.linkTrained lanes).holdsState :=
    List.mem_filter.2 ⟨mem_allFns.2 hf, (s.linkTrained_holdsState lanes f).trans hheld⟩
  refine State.each_of_mem (P := fun u => u.rd .MIR_FN_READY 0 f = 0) hmem (fun u => ?_) fun u y hu => ?_
  · rw [State.rd_setAx, State.rd_wr_same]
    rfl
  · rw [State.rd_setAx, State.rd_wr]
    split
    · rfl
    · exact hu

/-! ## SOLO -/

theorem State.solo_pair (s : State) (cause : Nat) : (s.solo cause).rd .MIR_STAT_PAIR = pairSolo := by
  rw [State.solo, State.mirEvent_rd (by decide)]
  exact (s.pairTo_reads pairSolo).1

theorem State.commitJob_job (s : State) (id : Nat) : ∀ k ∈ (s.commitJob id).jobs, k.id ≠ id := by
  rw [State.commitJob, State.endJob_jobs]
  exact fun k hk => by simpa using (List.mem_filter.1 hk).2

/-! ## Takeover and fencing -/

theorem State.fence_pair (s : State) : s.fence.rd .MIR_STAT_PAIR = pairFenced :=
  (rd_of_same (State.pairEvent_same (g := .fld .MIR_STAT_PAIR) (by decide) (.refl _ _) _ _ _) 0 0 0).trans (State.pairTo_reads _ pairFenced).1

theorem State.roles_set {l : List Nat} {f r : Nat} (hf : f ∈ l) (hr : r % 2 ^ Field.width .MIR_FN_ROLE = r) (s : State) :
    (s.each l (fun s f => s.setRole f r)).role f = r := by
  refine State.each_of_mem (P := fun u => u.role f = r) hf (fun u => (u.setRole_role f r).trans hr) fun u y hu => ?_
  rw [State.role, State.setRole, State.rd_wr]
  split
  · exact hr
  · exact hu

theorem State.fence_role {f : Nat} (hf : f < 128) (hrole : s.role f = roleActive) : s.fence.role f = roleFenced := by
  refine (rd_of_same (State.pairEvent_same (g := .fld .MIR_FN_ROLE) (by decide) (.refl _ _) _ _ _) 0 f 0).trans ?_
  refine ((State.pairTo_reads _ pairFenced).2 .MIR_FN_ROLE (by decide) (by decide) 0 f 0).trans ?_
  exact State.roles_set (State.mem_withRole hf hrole) rfl _

theorem State.sampleTake_free (hfree : s.rdb .MIR_STAT_TAKE_SEEN = false) : s.sampleTake.rd .MIR_STAT_TAKE_DRIVE = 1 ∧
    s.sampleTake.ax .guardAt = s.now + 1 ∧ s.sampleTake.ax .rankWait = 0 := by
  have hseen : (s.setAx .rankWait 0).rdb .MIR_STAT_TAKE_SEEN = false := hfree
  rw [State.sampleTake, hseen, if_neg Bool.false_ne_true]
  refine ⟨?_, State.ax_setAx_same .., ?_⟩
  · rw [State.rd_setAx, State.bump_rd (by decide), State.rd_wr_same]
    rfl
  · rw [State.ax_setAx, if_neg (by decide), State.bump, State.ax_wr, State.ax_wr, State.ax_setAx_same]

theorem State.takeOver_pair (s : State) : s.takeOver.rd .MIR_STAT_PAIR = pairSolo := State.solo_pair _ 2

theorem State.takeOver_role {f : Nat} (hf : f < 128) (hrole : s.role f = roleStandby) (hready : s.rdb .MIR_FN_READY 0 f = true) :
    s.takeOver.role f = roleActive := by
  have hmem : f ∈ (s.withRole roleStandby).filter (fun f => s.rdb .MIR_FN_READY 0 f) := List.mem_filter.2 ⟨State.mem_withRole hf hrole, hready⟩
  have htaken (l : List Nat) (hl : f ∈ l) :
      (s.each l (fun s f => ((s.writeCommits f).setRole f roleActive).setAx .taken 1 f)).role f = roleActive := by
    refine State.each_of_mem (P := fun u => u.role f = roleActive) hl (fun u => ?_) fun u y hu => ?_
    · rw [State.role, State.rd_setAx]
      exact State.setRole_role ..
    rw [State.role, State.rd_setAx, State.setRole, State.rd_wr]
    split
    · rfl
    · exact (rd_of_same (State.writeCommits_same (g := .fld .MIR_FN_ROLE) (by decide) (.refl _ u) y) 0 f 0).trans hu
  refine Eq.trans ?_ (htaken _ hmem)
  have hafter : Same (.fld .MIR_FN_ROLE) (s.each ((s.withRole roleStandby).filter (fun f => s.rdb .MIR_FN_READY 0 f))
      (fun s f => ((s.writeCommits f).setRole f roleActive).setAx .taken 1 f)) s.takeOver :=
    State.solo_same (by decide) (State.pairEvent_same (by decide) (wr_same (by decide) (State.each_same (State.each_same (.refl _ _) _ _
      fun _ _ h => State.adopt_same (by decide) h _ _) _ _ fun _ _ h => State.dropRecords_same (by decide) h _) _ _ _ _) _ _ _) _
  exact hafter 0 f 0

/-- The member after the partner has released PAIR_TAKE. -/
def State.takeReleased (s : State) : State := (s.wr .MIR_STAT_TAKE_SEEN 0).each (s.withRole roleFenced) (fun s f => s.setRole f roleStandby)

theorem State.released_reads (s : State) :
    (if s.takeReleased.rd .MIR_STAT_PAIR = pairFenced then s.takeReleased.wr .MIR_STAT_PAIR pairSynced else s.takeReleased).rd
        .MIR_STAT_TAKE_SEEN = 0 ∧
      ∀ {f}, f ∈ s.withRole roleFenced →
        (if s.takeReleased.rd .MIR_STAT_PAIR = pairFenced then s.takeReleased.wr .MIR_STAT_PAIR pairSynced else s.takeReleased).role f =
          roleStandby := by
  have hpair {x : Field} (hx : x ≠ .MIR_STAT_PAIR) (d i j : Nat) :
      (if s.takeReleased.rd .MIR_STAT_PAIR = pairFenced then s.takeReleased.wr .MIR_STAT_PAIR pairSynced else s.takeReleased).rd x d i j =
        s.takeReleased.rd x d i j := by
    split
    · exact State.rd_wr_field _ hx ..
    · rfl
  refine ⟨?_, fun {f} hf => ?_⟩
  · rw [hpair (by decide)]
    have hkept : Same (.fld .MIR_STAT_TAKE_SEEN) (s.wr .MIR_STAT_TAKE_SEEN 0) s.takeReleased :=
      State.each_same (.refl _ _) _ _ fun _ _ h => wr_same (by decide) h _ _ _ _
    exact (rd_of_same hkept 0 0 0).trans (State.rd_wr_same ..)
  · rw [State.role, hpair (by decide)]
    exact State.roles_set hf rfl _

/-! ## The heartbeat times out -/

/-- The link after 300 µs without a heartbeat. -/
def State.beatLost (s : State) : State := (s.setAx .hbTimer 0).mirDown 1

theorem does_heartbeatTimeout {P : State → Prop} (htimer : s.ax .hbTimer ≠ 0) (hlate : s.rd .MIR_LASTHB_TIME + 300000 ≤ s.now)
    (hP : P (if !s.beatLost.rdb .MIR_CFG_AUTO_TAKE || (s.beatLost.withRole roleStandby).isEmpty then s.beatLost
      else if s.beatLost.rdb .MIR_CFG_RANK then s.beatLost.setAx .rankWait 1 else s.beatLost.sampleTake)) :
    Does .heartbeatTimeout s P := does_guarded rfl ⟨htimer, hlate⟩ hP

theorem State.beatLost_same {g : Piece} (htimer : (g == .aux .hbTimer) = false) (hdown : State.mirDown_w g = false) (s : State) :
    Same g s s.beatLost := State.mirDown_same hdown (setAx_same htimer (.refl g s) _ _ _ _) _

theorem State.beatLost_rdb {x : Field} (hx : State.mirDown_w (.fld x) = false) (s : State) : s.beatLost.rdb x = s.rdb x := by
  rw [State.rdb, rd_of_same (State.beatLost_same rfl hx s), State.rdb]

theorem State.beatLost_withRole (s : State) (r : Nat) : s.beatLost.withRole r = s.withRole r := by
  have hrole : Same (.fld .MIR_FN_ROLE) s s.beatLost := State.beatLost_same (by decide) (by decide) s
  simp only [State.withRole, State.role, rd_of_same hrole]

theorem State.beatLost_now (s : State) : s.beatLost.now = s.now :=
  congrArg (· / 8) (State.beatLost_same (g := .dt) (by decide) (by decide) s)

/-- Settles O28: each command is one branch of its meaning, and what it changes next leaves the fields of the link and of the roles
alone. -/
theorem mirrorLinkAndPair : Obligations.MirrorLinkAndPair := by
  intro s
  refine ⟨?beat, ?missed, ?replays, ?worn, ?trained, ?untrained, ?solo, ?down, ?takes, ?waits, ?rank, ?seen, ?guard, ?released⟩
  case beat =>
    intro hlink hon
    obtain ⟨hcount, hseen⟩ := s.beatSent_reads
    refine ⟨_, (exec_heartbeatSend hon).trans (congrArg Host.Outcome.next (if_pos hlink)), ?_, ?_, hseen⟩
    · exact State.sendHeartbeat_last _
    · exact hcount.trans s.beatCounted_count
  case missed =>
    intro hon hmissed
    refine ⟨_, exec_heartbeatSend hon, ?_⟩
    have hcount : s.beatCounted.rd .MIR_HBMISS_COUNT = s.countUp .MIR_HBMISS_COUNT := by rw [State.beatCounted_count, if_pos hmissed]
    split
    · exact s.beatSent_reads.1.trans hcount
    · exact hcount
  case replays =>
    intro hlink
    refine does_guarded rfl hlink fun f hf hsent hdue hfresh => ?_
    rw [State.replay_flits _ hfresh]
    exact ⟨_, List.mem_map_of_mem hf, by simp [hsent, hdue]⟩
  case worn =>
    intro hlink hworn
    refine does_guarded rfl hlink (State.replay_worn hlink ?_)
    rw [List.any_filter]
    exact hworn
  case trained =>
    intro lanes hlanes hlink
    refine ⟨_, congrArg Host.Outcome.next ((if_neg (not_not.2 hlink)).trans (if_pos hlanes)), ?_⟩
    obtain ⟨hup, hwidth, hack, hheard⟩ := State.mirTrained_reads hlanes s
    exact ⟨hup, hwidth, hack, hheard, fun f hf hheld => State.mirTrained_ready hf hheld lanes⟩
  case untrained =>
    intro lanes h4 h8 hlink
    refine ⟨_, congrArg Host.Outcome.next ((if_neg (not_not.2 hlink)).trans (if_neg (by omega))), ?_⟩
    exact (State.mirEvent_rd (by decide) ..).trans (State.rd_wr_same ..)
  case solo =>
    intro i j hjob hwait hlate
    have hexec : exec (.ackTimeout i) s = .next ((if s.rd .MIR_STAT_PAIR = pairSolo then s else s.solo 1).commitJob i) := by
      refine congrArg Host.Outcome.next ?_
      rw [hjob]
      exact if_pos ⟨hwait, hlate⟩
    refine ⟨_, hexec, ?_, fun k hk hid => absurd hid (State.commitJob_job _ i k hk)⟩
    rw [rd_of_same (State.commitJob_same (g := .fld .MIR_STAT_PAIR) (by decide) (.refl _ _) i)]
    split
    next hsolo => exact hsolo
    next => exact s.solo_pair 1
  case down =>
    intro hlink htimer hlate
    refine does_heartbeatTimeout htimer hlate ?_
    have hdown : s.beatLost.rd .MIR_STAT_LINK = 1 := (State.mirDown_reads (s := s.setAx .hbTimer 0) hlink 1).1
    split
    · exact hdown
    · split
      · exact hdown
      · exact (rd_of_same (State.sampleTake_same (g := .fld .MIR_STAT_LINK) (by decide) (.refl _ _)) 0 0 0).trans hdown
  case takes =>
    intro htimer hlate hauto hrank hfree hstandby
    refine does_heartbeatTimeout htimer hlate ?_
    rw [State.beatLost_rdb (by decide), State.beatLost_withRole, State.beatLost_rdb (by decide), hauto, hstandby, hrank, Bool.not_true, Bool.or_false,
      if_neg Bool.false_ne_true, if_neg Bool.false_ne_true]
    obtain ⟨hdrive, hguard, -⟩ := State.sampleTake_free (s := s.beatLost) (by rw [State.beatLost_rdb (by decide), hfree])
    exact ⟨hdrive, by rw [← s.beatLost_now]; exact hguard⟩
  case waits =>
    intro htimer hlate hauto hrank hstandby
    refine does_heartbeatTimeout htimer hlate ?_
    rw [State.beatLost_rdb (by decide), State.beatLost_withRole, State.beatLost_rdb (by decide), hauto, hstandby, hrank, Bool.not_true, Bool.or_false,
      if_neg Bool.false_ne_true, if_pos rfl]
    refine ⟨State.ax_setAx_same .., ?_⟩
    exact rd_of_same (State.beatLost_same (g := .fld .MIR_STAT_TAKE_DRIVE) (by decide) (by decide) s) 0 0 0
  case rank => exact fun hwait hlate hfree => does_guarded rfl ⟨hwait, hlate⟩ (State.sampleTake_free hfree)
  case seen =>
    intro hdrive hseen
    refine ⟨_, congrArg Host.Outcome.next (if_neg (by simp [hdrive, hseen])), ?_, State.fence_pair _, fun f hf hrole => State.fence_role hf ?_⟩
    · exact (rd_of_same (State.fence_same (g := .fld .MIR_STAT_TAKE_SEEN) (by decide) (.refl _ _)) 0 0 0).trans (State.rd_wr_same ..)
    · rwa [State.role, State.rd_wr_field _ (by decide)]
  case guard =>
    intro hguard hlate
    refine does_guarded rfl ⟨hguard, hlate⟩ ⟨?_, State.takeOver_pair _, fun f hf hrole hready => State.takeOver_role hf hrole hready⟩
    exact (State.takeOver_same (g := .aux .guardAt) (by decide) (.refl _ _) 0 0 0).trans (State.ax_setAx_same ..)
  case released =>
    intro hseen
    exact does_guarded rfl hseen ⟨s.released_reads.1, fun f hf hrole => s.released_reads.2 (State.mem_withRole hf hrole)⟩

end Sys2Proof.Machine
end

section
/-!
PROOFS. Host commands on resources (R369, R399, R400, R408, R411).
-/

namespace Sys2Proof.Machine

/-! ## RES_ALLOC -/

/-- A search over dies that are all the same one is the search on it. -/
theorem firstOn_of_forall_eq {l : List Nat} {f : Nat → Option Nat} {d b : Nat} (hd : d ∈ l) (hall : ∀ x ∈ l, x = d) (hf : f d = some b) :
    firstOn l f = some (d, b) := by
  have hfound : ∀ t : List Nat, t.foldl (fun acc x => match acc with | some y => some y | none => (f x).map (fun b => (x, b))) (some (d, b)) =
      some (d, b) := fun t => by
    induction t with
    | nil => rfl
    | cons x t ih => exact ih
  cases l with
  | nil => cases hd
  | cons x t =>
    cases hall x List.mem_cons_self
    simp only [firstOn, List.foldl_cons, hf, Option.map_some]
    exact hfound t

theorem State.mem_onlineDies {s : State} {d : Nat} (hd : s.online d = true) : d ∈ s.onlineDies := by
  refine List.mem_filter.2 ⟨List.mem_range.2 ?_, hd⟩
  simp only [State.online, Bool.and_eq_true, decide_eq_true_eq] at hd
  exact hd.1

/-- The dies that a RES_ALLOC names. -/
def State.allocDies (s : State) (die : Nat) : List Nat := if die = 0xFF then s.onlineDies else s.onlineDies.filter (fun d => d == die)

theorem State.mem_allocDies {s : State} {d : Nat} (hd : s.online d = true) (hlow : d < 8) : d ∈ s.allocDies d := by
  rw [State.allocDies, if_neg (by omega)]
  exact List.mem_filter.2 ⟨State.mem_onlineDies hd, beq_self_eq_true d⟩

theorem State.allocDies_eq {s : State} {d x : Nat} (hlow : d < 8) (hx : x ∈ s.allocDies d) : x = d := by
  rw [State.allocDies, if_neg (by omega)] at hx
  simpa using (List.mem_filter.1 hx).2

section
variable {s : State} {c : Cmd} (hn : 0 < c.b 20 4) (hdies : (s.allocDies (c.b 17 1)).isEmpty = false)
include hn hdies

/-- What RES_ALLOC refuses as malformed. -/
theorem State.resAlloc_wellFormed {kind : Nat} (hkind : 1 ≤ kind ∧ kind ≤ 3) (hhost : kind = 2 ∨ bit (c.b 18 1) 0 = false) :
    ¬(kind = 0 ∨ kind > 3 ∨ c.b 20 4 = 0 ∨ (bit (c.b 18 1) 0 = true ∧ kind ≠ 2) ∨ (s.allocDies (c.b 17 1)).isEmpty = true) := by
  rintro (hzero | hhigh | hnone | ⟨hbit, hne⟩ | hempty)
  · omega
  · omega
  · omega
  · rcases hhost with hbanks | hclear
    · exact hne hbanks
    · simp [hclear] at hbit
  · simp [hdies] at hempty

theorem State.resAlloc_queues {q : Nat} (hkind : c.b 16 1 = 1) (hhost : bit (c.b 18 1) 0 = false)
    (hquota : s.held c.fn 2 + c.b 20 4 ≤ s.quota c.fn 2) (hq : s.freeQueues (c.b 20 4) = some q) :
    s.resAlloc c = (s.addAlloc ⟨c.fn, 1, 0, q, c.b 20 4⟩).completeCmd c stOK q := by
  unfold State.resAlloc
  rw [hkind]
  refine (if_neg (State.resAlloc_wellFormed hn hdies (by omega) (Or.inr hhost))).trans ((if_neg (Nat.not_lt.2 hquota)).trans ((if_pos rfl).trans ?_))
  rw [hq]

theorem State.resAlloc_banks {b : Nat} (hkind : c.b 16 1 = 2) (hquota : s.held c.fn 3 + c.b 20 4 ≤ s.quota c.fn 3)
    (hb : firstOn ((s.allocDies (c.b 17 1)).filter (fun d => !s.rdb .BNK_STAT_EXPERT d))
      (fun d => if c.b 20 4 ≤ 80 then s.freeBanks d (c.b 20 4) else none) = some (c.b 17 1, b)) :
    s.resAlloc c = ((s.addAlloc ⟨c.fn, 2, c.b 17 1, b, c.b 20 4⟩).banksMove (c.b 17 1) b (c.b 20 4)
      (if bit (c.b 18 1) 0 then ownHostWindow else ownSequencer) (if bit (c.b 18 1) 0 then c.fn else 128 + c.fn)).completeCmd c stOK
        (c.b 17 1 * 256 + b) := by
  unfold State.allocDies at hb
  unfold State.resAlloc
  rw [hkind]
  refine (if_neg (State.resAlloc_wellFormed hn hdies (by omega) (Or.inl rfl))).trans ((if_neg (Nat.not_lt.2 hquota)).trans
    ((if_neg (by decide)).trans ((if_pos rfl).trans ?_)))
  rw [hb]

theorem State.resAlloc_pages {p : Nat} (hkind : c.b 16 1 = 3) (hhost : bit (c.b 18 1) 0 = false)
    (hquota : s.held c.fn 4 + c.b 20 4 ≤ s.quota c.fn 4)
    (hp : firstOn (s.allocDies (c.b 17 1)) (fun d => s.freePages d (c.b 20 4)) = some (c.b 17 1, p)) :
    s.resAlloc c = (s.addAlloc ⟨c.fn, 3, c.b 17 1, p, c.b 20 4⟩).completeCmd c stOK (c.b 17 1 * 2 ^ 29 + p) := by
  unfold State.allocDies at hp
  unfold State.resAlloc
  rw [hkind]
  refine (if_neg (State.resAlloc_wellFormed hn hdies (by omega) (Or.inr hhost))).trans ((if_neg (Nat.not_lt.2 hquota)).trans
    ((if_neg (by decide)).trans ((if_neg (by decide)).trans ?_)))
  rw [hp]

end

theorem isEmpty_of_mem {α : Type} {l : List α} {x : α} (hx : x ∈ l) : l.isEmpty = false :=
  List.isEmpty_eq_false_iff.2 (List.ne_nil_of_mem hx)

theorem State.addAlloc_completed (s : State) (a : Alloc) (c : Cmd) (res : Nat) : Completed c stOK res s ((s.addAlloc a).completeCmd c stOK res) :=
  State.completeCmd_completed_of_same (fun _ hg => State.addAlloc_same
    ((show ∀ g ∈ completionReads, State.addAlloc_w g = false by decide) _ hg) (Same.refl _ s) a) c stOK res

theorem State.banksMove_completed {s u : State} (h : ∀ g ∈ completionReads, Same g s u) (d b n kind id : Nat) (c : Cmd) (res : Nat) :
    Completed c stOK res s ((u.banksMove d b n kind id).completeCmd c stOK res) :=
  State.completeCmd_completed_of_same (fun g hg => State.banksMove_same
    ((show ∀ g ∈ completionReads, State.banksMove_w g = false by decide) g hg) (h g hg) ..) c stOK res

theorem State.banksMove_allocs (s : State) (d b n kind id : Nat) : (s.banksMove d b n kind id).allocs = s.allocs :=
  State.banksMove_same (g := .allocs) (by decide) (Same.refl _ s) ..

/-! ## RES_FREE and BANK_HOST -/

/-- What the release of a range of units leaves of the allocations. -/
def releasedFrom (l : List Alloc) (fn kind die first n : Nat) : List Alloc :=
  l.flatMap (fun b => if b.within fn kind die first n = 0 then [b] else cutAlloc b first n)

theorem State.freeUnits_allocs (s : State) (fn kind die first n : Nat) :
    (s.freeUnits fn kind die first n).allocs = releasedFrom s.allocs fn kind die first n := by
  unfold State.freeUnits
  split
  · exact State.banksMove_allocs ..
  · rfl

theorem State.resFree_freed {s : State} {c : Cmd} {die first : Nat}
    (hdie : (if c.b 16 1 = 2 then bits (c.b 24 4) 10 8 else if c.b 16 1 = 3 then bits (c.b 24 4) 31 29 else 0) = die)
    (hfirst : (if c.b 16 1 = 2 then bits (c.b 24 4) 7 0 else if c.b 16 1 = 3 then bits (c.b 24 4) 22 0 else c.b 24 4) = first)
    (hn : 0 < c.b 20 4) (hnamed : c.b 16 1 = 1 ∨ c.b 17 1 = 0xFF ∨ c.b 17 1 = die)
    (hcovers : s.covers c.fn (c.b 16 1) die first (c.b 20 4) = true) (hfirmware : c.b 16 1 = 2 → s.rdb .BNK_STAT_EXPERT die = false) :
    s.resFree c = ((s.freeUnits c.fn (c.b 16 1) die first (c.b 20 4)).quotaRecheck c.fn).completeCmd c stOK 0 := by
  subst hdie hfirst
  rw [State.resFree, if_neg (by omega), if_neg (by simp [hcovers])]
  exact if_neg fun ⟨hbanks, hexpert⟩ => by simp [hfirmware hbanks] at hexpert

/-- A release: the allocations lose the range, and the command completes. -/
theorem State.freed_shown (s : State) (c : Cmd) (kind die first n : Nat) :
    (((s.freeUnits c.fn kind die first n).quotaRecheck c.fn).completeCmd c stOK 0).allocs = releasedFrom s.allocs c.fn kind die first n ∧
      Completed c stOK 0 s (((s.freeUnits c.fn kind die first n).quotaRecheck c.fn).completeCmd c stOK 0) := by
  refine ⟨?_, State.completeCmd_completed_of_same (fun g hg => ?_) c stOK 0⟩
  · rw [State.completeCmd_allocs, ← s.freeUnits_allocs]
    exact State.quotaRecheck_same (g := .allocs) (by decide) (Same.refl _ _) _
  · obtain ⟨hfree, hquota⟩ : State.freeUnits_w g = false ∧ State.quotaRecheck_w g = false :=
      (show ∀ g ∈ completionReads, State.freeUnits_w g = false ∧ State.quotaRecheck_w g = false by decide) g hg
    exact State.quotaRecheck_same hquota (State.freeUnits_same hfree (Same.refl _ s) ..) _

theorem State.bankHost_moves {s : State} {c : Cmd} (hn : 0 < c.b 21 1) (hcovers : s.covers c.fn 2 (c.b 17 1) (c.b 20 1) (c.b 21 1) = true)
    (hfirmware : s.rdb .BNK_STAT_EXPERT (c.b 17 1) = false) :
    s.bankHost c = (s.banksMove (c.b 17 1) (c.b 20 1) (c.b 21 1) (if bit (c.b 18 1) 0 then ownHostWindow else ownSequencer)
      (if bit (c.b 18 1) 0 then c.fn else 128 + c.fn)).completeCmd c stOK 0 := by
  rw [State.bankHost, if_neg (by omega), if_neg (by simp [hcovers])]
  exact if_neg (by simp [hfirmware])

/-! ## EVICT: the jobs of the function -/

/-- No job of the function stays but those that have committed. -/
def State.JobsGone (f : Nat) (s : State) : Prop := ∀ j ∈ s.jobs, j.fn ≠ f ∨ j.st = .ackWait

theorem State.JobsGone.of_same {f : Nat} {s t : State} (h : s.JobsGone f) (hsame : Same .jobs s t) : t.JobsGone f :=
  fun j hj => h j ((show t.jobs = s.jobs from hsame) ▸ hj)

theorem State.JobsGone.endJob {f : Nat} {s : State} (h : s.JobsGone f) (id st : Nat) : (s.endJob id st).JobsGone f :=
  fun j hj => h j (List.mem_of_mem_filter (s.endJob_jobs id st ▸ hj))

theorem State.JobsGone.qpAbort {f : Nat} {s : State} (h : s.JobsGone f) (q st : Nat) : (s.qpAbort q st).JobsGone f :=
  State.each_induction (P := State.JobsGone f) _
    (State.each_induction (P := State.JobsGone f) _ h fun _ _ hu => hu.of_same (State.completeCmd_same (by decide) (Same.refl _ _) ..))
    fun _ _ hu => hu.endJob _ _

theorem State.JobsGone.qpDisable {f : Nat} {s : State} (h : s.JobsGone f) (fn e st : Nat) : (s.qpDisable fn e st).JobsGone f := by
  unfold State.qpDisable
  split
  · exact h
  · split
    · exact h
    · split
      · exact h
      · exact State.JobsGone.qpAbort (s := (s.wr .QP_CFG_ENABLE 0 fn e).wr .QP_STAT_STATE 2 fn e) h _ _

/-- The jobs of a function that have not committed are ended. -/
def State.evictJobs (s : State) (f : Nat) : State := s.each (s.jobsOf f) (fun s j => s.endJob j stEvicted)

theorem State.evictJobs_gone (s : State) (f : Nat) : (s.evictJobs f).JobsGone f := by
  intro j hj
  have hjobs : (s.evictJobs f).jobs = s.jobs.filter (fun k => (s.jobsOf f).all (fun i => k.id != i)) :=
    State.each_filter (list := State.jobs) (keep := fun (i : Nat) (k : Job) => k.id != i) (fun u i => u.endJob_jobs i stEvicted) s (s.jobsOf f)
  rw [hjobs, List.mem_filter, List.all_eq_true] at hj
  obtain ⟨hmem, hids⟩ := hj
  by_contra hstays
  obtain ⟨hfn, hst⟩ := not_or.1 hstays
  simpa using hids j.id (List.mem_map_of_mem (List.mem_filter.2 ⟨hmem, by simpa using ⟨not_not.1 hfn, hst⟩⟩))

/-- The pairs that an EVICT takes drain. -/
def State.evictPairs (s : State) (id : Nat) (qs : List Nat) : State :=
  s.each qs (fun s q => match s.qp q with
    | some p => ((s.setQp q (some { p with evict := some id })).qpDisable p.fn p.entry stEvicted).qpDrained q
    | none => s)

theorem State.JobsGone.evictPairs {f : Nat} {s : State} (h : s.JobsGone f) (id : Nat) (qs : List Nat) : (s.evictPairs id qs).JobsGone f :=
  State.each_induction (P := State.JobsGone f) qs h fun u q hu => by
    split
    · rename_i p _
      have hset : (u.setQp q (some { p with evict := some id })).JobsGone f := hu
      exact (hset.qpDisable _ _ _).of_same (State.qpDrained_same (by decide) (Same.refl _ _) _)
    · exact hu

/-- The holdings of a function above a limit are released. -/
def State.evictHoldings (s : State) (f : Nat) (lim : State → Nat → Nat) : State :=
  let s := s.trimAllocs f 1 8192 (s.held f resFeedq - lim s resFeedq)
  let s := s.trimAllocs f 2 640 (s.held f resBank - lim s resBank)
  let s := s.trimAllocs f 3 (s.allocs.length + 1) (s.held f resLpddr - lim s resLpddr)
  (s.trimProgs f (lim s resLpddr) s.progs.length).quotaRecheck f

theorem State.JobsGone.evictHoldings {f : Nat} {s : State} (h : s.JobsGone f) (lim : State → Nat → Nat) : (s.evictHoldings f lim).JobsGone f := by
  refine h.of_same ?_
  unfold State.evictHoldings
  dsimp only
  exact State.quotaRecheck_same (by decide) (State.trimProgs_same (by decide) (State.trimAllocs_same (by decide) (State.trimAllocs_same (by decide)
    (State.trimAllocs_same (by decide) (Same.refl _ s) _ _ _ _) _ _ _ _) _ _ _ _) _ _ _) _

/-- The end of an EVICT's order: its counts are kept, and the command runs until its reclaim has ended. -/
def State.evictRuns (s : State) (c : Cmd) (jobs pairs : Nat) : State :=
  ((s.setAx .evictJobs jobs 0 c.id).setAx .evictPairs pairs 0 c.id).cmdRunning c

section
variable {s : State} {c : Cmd} (hvf : 0 < c.b 16 1) (hlow : c.b 16 1 ≤ 127)
include hvf hlow

theorem State.evict_jobsOnly (hscope : c.b 17 1 = 0) :
    s.evict c = ((s.evictJobs (c.b 16 1)).evictRuns c (s.jobsOf (c.b 16 1)).length 0).evictCheck := by
  rw [State.evict, if_neg (by omega)]
  simp only [hscope, if_true]
  rfl

theorem State.evict_reclaims (hscope : 1 ≤ c.b 17 1) (hscope2 : c.b 17 1 ≤ 2) :
    ∃ qs lim, s.evict c = ((((s.evictJobs (c.b 16 1)).evictPairs c.id qs).evictHoldings (c.b 16 1) lim).evictRuns c (s.jobsOf (c.b 16 1)).length
      qs.length).evictCheck := by
  rw [State.evict, if_neg (by omega)]
  simp only [show c.b 17 1 ≠ 0 by omega, if_false]
  exact ⟨_, fun s k => if c.b 17 1 = 2 then 0 else s.quota (c.b 16 1) k, rfl⟩

end

theorem State.JobsGone.evictRuns {f : Nat} {s : State} (h : s.JobsGone f) (c : Cmd) (n m : Nat) : (s.evictRuns c n m).JobsGone f := h

theorem State.JobsGone.evictCheck {f : Nat} {s : State} (h : s.JobsGone f) : s.evictCheck.JobsGone f :=
  h.of_same (State.evictCheck_same (by decide) (Same.refl _ s))

/-! ## EVICT: the command -/

theorem State.evictRuns_cmds {s : State} {c k : Cmd} {n m : Nat} (hk : k ∈ (s.evictRuns c n m).cmds) (hid : k.id = c.id) :
    k = { c with st := .running } := by
  obtain ⟨k', -, rfl⟩ := List.mem_map.1 hk
  split
  · rfl
  · rename_i hne
    simp [hne] at hid

theorem State.mem_evictCheck {s : State} {k : Cmd} (hk : k ∈ s.evictCheck.cmds) : k ∈ s.cmds ∧ ∀ c ∈ s.endedEvicts, k.id ≠ c.id := by
  rw [State.evictCheck_cmds, List.mem_filter, List.all_eq_true] at hk
  exact ⟨hk.1, fun c hc => by simpa using hk.2 c hc⟩

/-- No pair drains for an EVICT. -/
def State.NoPairFor (id : Nat) (s : State) : Prop := ∀ e ∈ s.qps, ∀ p, e.2 = some p → p.evict ≠ some id

theorem State.noPairFor_iff {s : State} {id : Nat} : s.NoPairFor id ↔ s.qps.any (fun e => e.2.any (fun p => p.evict == some id)) = false := by
  simp [State.NoPairFor, List.any_eq_false, Option.any_eq_true]

theorem SMap.mem_of_get {α : Type} {d v : α} {m : SMap α} {k : Nat} (hne : v ≠ d) (h : SMap.get d m k = v) : (k, v) ∈ m := by
  induction m with
  | nil => exact absurd h.symm hne
  | cons e t ih =>
    obtain ⟨k', v'⟩ := e
    rw [SMap.get] at h
    split at h
    · subst k' v'
      exact List.mem_cons_self
    · exact List.mem_cons_of_mem _ (ih h)

theorem State.NoPairFor.of_same {id : Nat} {s t : State} (h : s.NoPairFor id) (hsame : Same .qps s t) : t.NoPairFor id :=
  fun e he => h e ((show t.qps = s.qps from hsame) ▸ he)

theorem State.mem_setQp {s : State} {q : Nat} {v : Option QpSt} {e : Nat × Option QpSt} (he : e ∈ (s.setQp q v).qps) :
    e = (q, v) ∨ e ∈ s.qps :=
  SMap.mem_set (d := none) (m := s.qps) (k := q) (v := v) (e := e) he

/-- The counts of a pair do not say for which EVICT it drains. -/
theorem State.NoPairFor.setCounts {id q : Nat} {s : State} (h : s.NoPairFor id) {p : QpSt} (hp : s.qp q = some p) (n m : Nat) :
    (s.setQp q (some { p with completed := n, outstanding := m })).NoPairFor id := by
  intro e he p' hp'
  obtain rfl | he := State.mem_setQp he
  · cases hp'
    exact h (q, some p) (SMap.mem_of_get (by simp) hp) p rfl
  · exact h e he p' hp'

theorem State.NoPairFor.complete {id : Nat} {s : State} (h : s.NoPairFor id) (r cid : Nat) (ev : Bool) (vec job st fl res lat cause rst : Nat)
    (slot : Option Nat) : (s.complete r cid ev vec job st fl res lat cause rst slot).NoPairFor id := by
  unfold State.complete
  split
  · exact h
  · rename_i p hp
    split
    · exact h.setCounts hp p.completed _
    · dsimp only
      refine State.NoPairFor.of_same ?_ (State.sendPointers_same (by decide) (Same.refl _ _) _)
      have hstored : ∀ k w : Nat, (s.store k 16 w).NoPairFor id ∧ (s.store k 16 w).qp r = some p := fun k w =>
        ⟨h.of_same (s.store_qps ..), by simpa only [State.qp, State.store_qps] using hp⟩
      obtain ⟨hfree, hpair⟩ := hstored _ _
      split
      · exact (hfree.setCounts hpair _ _).of_same (State.post_same (by decide) (Same.refl _ _) ..)
      · exact hfree.setCounts hpair _ _

theorem State.NoPairFor.endJob {id : Nat} {s : State} (h : s.NoPairFor id) (job st : Nat) : (s.endJob job st).NoPairFor id := by
  unfold State.endJob
  split
  · exact h
  · rename_i j _
    have hreleased : (s.releaseJob j).NoPairFor id := h.of_same (State.releaseJob_same (by decide) (Same.refl _ s) j)
    have hleft : State.NoPairFor id { s.releaseJob j with jobs := (s.releaseJob j).jobs.filter (fun k => k.id != job) } := hreleased
    exact State.NoPairFor.of_same (fun e he => hleft.complete _ _ _ _ _ _ _ _ _ _ _ _ e he) (State.quotaRecheck_same (by decide) (Same.refl _ _) _)

theorem State.NoPairFor.evictJobs {id : Nat} {s : State} (h : s.NoPairFor id) (f : Nat) : (s.evictJobs f).NoPairFor id :=
  State.each_induction (P := State.NoPairFor id) _ h fun _ _ hu => hu.endJob _ _

/-- An EVICT of scope 0 that runs has ended where no pair drains for it. -/
theorem State.evicted_of_noPairFor {s : State} {c : Cmd} (h : s.NoPairFor c.id) (hscope : c.b 17 1 = 0) : s.evicted c = true := by
  rw [State.evicted, State.noPairFor_iff.1 h, hscope]
  rfl

theorem State.mem_endedEvicts {s : State} {c : Cmd} (hmem : c ∈ s.cmds) (hrun : c.st = .running) (hop : c.opcode = opEvict)
    (hended : s.evicted c = true) : c ∈ s.endedEvicts :=
  List.mem_filter.2 ⟨hmem, by simp [hrun, hop, hended]⟩

/-! ## The end of an EVICT -/

/-- What a draining pair's end changes of the state without the pair: its registers, and the quotas of its function. -/
theorem State.qpDrained_of_same {g : Piece} (hquota : State.quotaRecheck_w g = false)
    (hregs : g ≠ .fld .QP_STAT_STATE ∧ g ≠ .fld .QP_CFG_FUNC ∧ g ≠ .fld .QP_CFG_WINDOW) {s : State} {q : Nat} {p : QpSt} (hqp : s.qp q = some p)
    (hdone : p.outstanding = 0) (hdrains : s.rd .QP_STAT_STATE p.fn p.entry = 2) : Same g (s.setQp q none) (s.qpDrained q) := by
  obtain ⟨hstate, hfunc, hwindow⟩ := hregs
  rw [State.qpDrained, hqp]
  dsimp only
  rw [if_pos ⟨hdone, hdrains⟩]
  exact State.quotaRecheck_same hquota (wr_same (by simpa using hwindow) (wr_same (by simpa using hfunc) (wr_same (by simpa using hstate)
    (Same.refl _ _) ..) ..) ..) _

theorem State.qpDrained_part {s : State} {q : Nat} : (s.qpDrained q).part = s.part := (State.qpDrained_keeps (.refl s) q).1

/-- What the end of an EVICT reads of the registers and the lists. -/
def evictedReads : List Piece :=
  [.qps, .jobs, .fld .BNK_OWNER_PEND, .fld .BNK_OWNER_CUR_KIND, .fld .BNK_OWNER_CUR_ID, .aux .bankTarget]

theorem State.evicted_of_same {s t : State} (hpart : t.part = s.part) (h : ∀ g ∈ evictedReads, Same g s t) (c : Cmd) :
    t.evicted c = s.evicted c := by
  simp only [evictedReads, List.forall_mem_cons] at h
  obtain ⟨hqps, hjobs, hpend, hkind, hid, htarget, -⟩ := h
  have hleaving : ∀ f d b, t.bankLeaving f d b = s.bankLeaving f d b := fun f d b => by
    rw [State.bankLeaving, State.bankLeaving, State.actsFor, State.actsFor, State.rdb, State.rdb, rd_of_same hpend, rd_of_same hkind,
      rd_of_same hid, show t.ax .bankTarget d b = s.ax .bankTarget d b from htarget d b 0, show t.jobs = s.jobs from hjobs]
  simp only [State.evicted, State.dies, hleaving, show t.qps = s.qps from hqps, hpart]

section
variable {s : State} {q : Nat} {p : QpSt} (hqp : s.qp q = some p) (hdone : p.outstanding = 0) (hdrains : s.rd .QP_STAT_STATE p.fn p.entry = 2)
include hqp hdone hdrains

theorem State.qpDrained_evicted (c : Cmd) : (s.qpDrained q).evicted c = (s.setQp q none).evicted c := by
  refine State.evicted_of_same (s := s.setQp q none) (t := s.qpDrained q) State.qpDrained_part (fun g hg => ?_) c
  obtain ⟨hquota, hregs⟩ :=
    (show ∀ g ∈ evictedReads, State.quotaRecheck_w g = false ∧ g ≠ .fld .QP_STAT_STATE ∧ g ≠ .fld .QP_CFG_FUNC ∧ g ≠ .fld .QP_CFG_WINDOW by
      decide) g hg
  exact State.qpDrained_of_same hquota hregs hqp hdone hdrains

theorem State.qpDrained_cmds : (s.qpDrained q).cmds = s.cmds :=
  State.qpDrained_of_same (g := .cmds) (by decide) (by decide) hqp hdone hdrains

end

/-- Settles O4: an allocation appends its run and a release cuts its range (`State.freeUnits_allocs`); every job of the function of an
EVICT that has not committed ends (`State.evictJobs_gone`), and what follows brings none back (`State.JobsGone`); an EVICT that runs
leaves at the first look at which its reclaim has ended (`State.mem_evictCheck`). -/
theorem resourceCommands : Obligations.ResourceCommands := by
  intro s id c
  refine ⟨?queues, ?banks, ?pages, ?freeQueues, ?freeBanks, ?freePages, ?bankHost, ?jobsOnly, ?reclaims, ?drained⟩
  case queues =>
    intro q hready hkind hany hhost hn hdies hquota hq
    refine does_command rfl hready ?_
    rw [State.resAlloc_queues hn (by rwa [State.allocDies, if_pos hany]) hkind hhost hquota hq]
    exact ⟨State.completeCmd_allocs .., s.addAlloc_completed ..⟩
  case banks =>
    intro b hready hkind hon hlow hn hsize hfirmware hquota hb
    have hmem := State.mem_allocDies hon hlow
    refine does_command rfl hready ?_
    rw [State.resAlloc_banks (b := b) hn (isEmpty_of_mem hmem) hkind hquota (firstOn_of_forall_eq
      (List.mem_filter.2 ⟨hmem, by simp [hfirmware]⟩) (fun x hx => State.allocDies_eq hlow (List.mem_of_mem_filter hx)) (by rwa [if_pos hsize]))]
    refine ⟨?_, State.banksMove_completed (fun g hg => ?_) ..⟩
    · rw [State.completeCmd_allocs, State.banksMove_allocs]
      rfl
    · exact State.addAlloc_same ((show ∀ g ∈ completionReads, State.addAlloc_w g = false by decide) g hg) (Same.refl _ s) _
  case pages =>
    intro p hready hkind hon hlow hhost hn hquota hp
    have hmem := State.mem_allocDies hon hlow
    refine does_command rfl hready ?_
    rw [State.resAlloc_pages hn (isEmpty_of_mem hmem) hkind hhost hquota
      (firstOn_of_forall_eq hmem (fun x => State.allocDies_eq hlow) hp)]
    exact ⟨State.completeCmd_allocs .., s.addAlloc_completed ..⟩
  case freeQueues =>
    intro hready hkind hn hcovers
    refine does_command rfl hready ?_
    rw [State.resFree_freed (die := 0) (first := (s.started c).b 24 4) (by simp [hkind]) (by simp [hkind]) hn (Or.inl hkind) (by rwa [hkind])
      (by simp [hkind]), hkind]
    exact s.freed_shown ..
  case freeBanks =>
    intro hready hkind hnamed hn hcovers hfirmware
    refine does_command rfl hready ?_
    rw [State.resFree_freed (die := bits ((s.started c).b 24 4) 10 8) (first := bits ((s.started c).b 24 4) 7 0) (by simp [hkind])
      (by simp [hkind]) hn (Or.inr hnamed) (by rwa [hkind]) (fun _ => hfirmware), hkind]
    exact s.freed_shown ..
  case freePages =>
    intro hready hkind hnamed hn hcovers
    refine does_command rfl hready ?_
    rw [State.resFree_freed (die := bits ((s.started c).b 24 4) 31 29) (first := bits ((s.started c).b 24 4) 22 0) (by simp [hkind])
      (by simp [hkind]) hn (Or.inr hnamed) (by rwa [hkind]) (by simp [hkind]), hkind]
    exact s.freed_shown ..
  case bankHost =>
    intro hready hn hcovers hfirmware
    refine does_command rfl hready ?_
    rw [State.bankHost_moves hn hcovers hfirmware]
    exact ⟨rfl, State.banksMove_completed (fun g _ => Same.refl g s) ..⟩
  case jobsOnly =>
    intro hready hvf hlow hscope hid hpairs
    obtain ⟨-, -, hop, -⟩ := State.readyCmd_some hready
    refine does_command rfl hready ?_
    rw [State.evict_jobsOnly hvf hlow hscope, ← hid]
    refine ⟨((s.evictJobs_gone _).evictRuns _ _ _).evictCheck, fun k hk heq => ?_⟩
    obtain ⟨hmem, hleft⟩ := State.mem_evictCheck hk
    cases State.evictRuns_cmds hmem heq
    have hnone : (s.evictJobs ((s.started c).b 16 1)).NoPairFor (s.started c).id := (State.noPairFor_iff.2 (hid ▸ hpairs)).evictJobs _
    exact hleft _ (State.mem_endedEvicts hmem rfl ((s.started_opcode c).trans hop) (State.evicted_of_noPairFor hnone hscope)) rfl
  case reclaims =>
    intro hready hvf hlow hscope hscope2 hid
    obtain ⟨qs, lim, hevict⟩ := State.evict_reclaims (s := s) hvf hlow hscope hscope2
    refine does_command rfl hready ?_
    rw [hevict, ← hid]
    refine ⟨((((s.evictJobs_gone _).evictPairs _ _).evictHoldings _).evictRuns _ _ _).evictCheck, fun k hk heq => ?_⟩
    rw [State.evictRuns_cmds (State.mem_evictCheck hk).1 heq]
  case drained =>
    intro q p hmem hrun hop hqp hdone hdrains hended
    refine ⟨_, rfl, fun k hk => (State.mem_evictCheck hk).2 c (State.mem_endedEvicts ?_ hrun hop ?_)⟩
    · rwa [State.qpDrained_cmds hqp hdone hdrains]
    · rwa [State.qpDrained_evicted hqp hdone hdrains]

end Sys2Proof.Machine
end
